-- ==== Sys2Proof/Word.lean ====
section
/-!
DEFINITION. The words, the bit fields and the closed sets of names that the commands and the state of the TH9400 are
written in (spec 01, 21): the views of the register path, the pages, the stores, the classes of repairable units.
-/

namespace Sys2Proof

/-- A 32-bit register word (21 R489). -/
abbrev Word := BitVec 32

/-- One byte of memory. -/
abbrev Byte := BitVec 8

/-- A Plot (01 R29): 0 to 7. -/
abbrev Plot := Fin 8

/-- A context of the Ringmaster (11 R270): 0 to 63. -/
abbrev Ctx := Fin 64

/-- A partition (15 R356): 0 to 7. -/
abbrev Part := Fin 8

/-- The field of `w` bits of `x` that begins at bit `lo`. -/
def fieldOf (x lo w : Nat) : Nat := (x >>> lo) % 2 ^ w

/-- `x` with the field of `w` bits at bit `lo` replaced by `v`. -/
def withField (x lo w v : Nat) : Nat :=
  x - (fieldOf x lo w) * 2 ^ lo + (v % 2 ^ w) * 2 ^ lo

/-- The value of a `w`-bit two's complement field. -/
def signedOf (w x : Nat) : Int := if x < 2 ^ (w - 1) then (x : Int) else (x : Int) - 2 ^ w

/-- The `w`-bit two's complement field of an integer. -/
def unsignedOf (w : Nat) (i : Int) : Nat := (i % (2 ^ w : Int)).toNat

/-- A Boolean as a bit. -/
def bit (b : Bool) : Nat := if b then 1 else 0

/-- Who sees a page through a view of its own (21 R491). -/
inductive View where
  /-- the physical function -/
  | pf
  /-- virtual function `k` + 1 -/
  | vf (k : Fin 8)
  /-- Groundskeeper -/
  | gk
deriving DecidableEq, Repr

/-- The number that SYS_INFO.FN gives a view (21 R507). -/
def View.no : View → Nat
  | .pf => 0
  | .vf k => k.val + 1
  | .gk => 15

/-- The kinds of register page (21 R504, R505). -/
inductive PageKind where
  | sys | cmt | evh | sdl | trn | trnRu | trnGrid | trnFlow | irg | btp | siv | sto | pace | bed | thr | ddr | psf
  | hst | hstFn | sec | rms | trp | rst | flt | pwr | gkp
deriving DecidableEq, Repr

/-- A page: its kind and which of its kind it is (Plot, Irrigator, flow page, 17 × Plot + Bed, function). -/
structure Page where
  kind : PageKind
  inst : Nat
deriving DecidableEq, Repr

/-- The access codes of a field (00 R11). -/
inductive Acc where
  | rw | ro | wo | w1c | stg | snp
deriving DecidableEq, Repr

/-- What values a field admits: a value outside a range is check 0x02, a reserved value is check 0x01 (21 R499). -/
inductive Lim where
  /-- every value -/
  | any
  /-- 0 to `n`; above is outside the stated range -/
  | le (n : Nat)
  /-- `a` to `b`; the rest is outside the stated range -/
  | range (a b : Nat)
  /-- 0 to `n`; above is a reserved encoding -/
  | enum (n : Nat)
  /-- 0 to `n` and `k`; the rest is reserved -/
  | enumOr (n k : Nat)
  /-- `a` to `b`; the rest is reserved -/
  | enumRange (a b : Nat)
  /-- signed, from −`n` to 0; the rest is outside the stated range -/
  | negTo (n : Nat)
deriving DecidableEq, Repr

/-- A field of a register word. -/
structure Field where
  lo : Nat
  w : Nat
  acc : Acc
  rst : Nat
  lim : Lim := .any
deriving DecidableEq, Repr

/-- The stores of a Plot (06 R140). -/
inductive Store where
  | w | a | p
deriving DecidableEq, Repr

/-- Number of a store in STO_RACE_INFO, STO_ECC_INFO and STO_OOB_INFO (06 R160). -/
def Store.no : Store → Nat
  | .w => 0
  | .a => 1
  | .p => 2

/-- One row access that a client presents in a Carousel turn (06 R143, R150): its slot, the window entry and relative
row, and for a write the 512 bits and the mask of the 64 bytes written. -/
structure RowAccess where
  slot : Nat
  entry : Nat
  row : Nat
  write : Option (Nat × Nat) := none
deriving DecidableEq, Repr

/-- An error struck into a stored codeword: its number (Trellis address / 16) and the 144-bit XOR (16 R385). -/
structure Strike where
  codeword : Nat
  xor : Nat
deriving DecidableEq, Repr

/-- A Sprout: its Plot, Bed (16 the spare) and place in the Bed (05 R117, 01 R30). -/
structure SproutId where
  plot : Fin 8
  bed : Fin 17
  sprout : Fin 16
deriving DecidableEq, Repr

/-- A register that a Sprout's instruction names (05 R117, R126; which registers an instruction may name is log 30). -/
inductive SReg where
  /-- general register -/
  | g (k : Fin 16)
  /-- address register, its modifier, its circular length -/
  | a (k : Fin 8)
  | m (k : Fin 8)
  | l (k : Fin 8)
  /-- enable bits of the event lines -/
  | en
  /-- handler vector of a line -/
  | vec (k : Fin 8)
  /-- the watch register -/
  | watch
deriving DecidableEq, Repr

/-- A carried store row: where it stands, relative to the context's window, and its byte offset in the carried area
(11 R272, R279). -/
structure CarryRow where
  plot : Fin 8
  store : Store
  /-- window entry 2c or 2c + 1 -/
  win : Bool
  row : Nat
  ofs : Nat
deriving DecidableEq, Repr

/-- A placement of a context's window entry on a Plot at a swap-in (11 R272): bases and sizes in rows. -/
structure WinPlace where
  plot : Fin 8
  win : Bool
  wBase : Nat
  wSize : Nat
  wRo : Bool
  aBase : Nat
  aSize : Nat
  pBase : Nat
  pSize : Nat
deriving DecidableEq, Repr

/-- What the Plan's harvest entry and the Thresher supply of one allocation at the end of a step (17 R428): its place in the
work list, bits [68:32] of the result record, the bundle counts, the payload. -/
structure AllocDone where
  item : Nat
  dec : Nat
  pathMetric : Nat
  nb : Nat
  nbValid : Nat
  nbLate : Nat
  sinrMin : Nat
  payloadAddr : Nat
  payloadLen : Nat
  /-- ns after the step boundary -/
  tDone : Nat
  numflags : Nat
deriving DecidableEq, Repr

/-- A bundle of a fallback record (10 R247, 11 R299): its Plot, its serving position's task in the Plan, and its descriptor's index
from that task's descriptor base. -/
structure LateBundle where
  plot : Fin 8
  task : Nat
  desc : Nat
deriving DecidableEq, Repr

/-- A link of the ring (14 R341): one of this device's own ports, or the link whose west end is at another position. -/
inductive RingLink where
  | own (east : Bool)
  | other (west : Fin 8)
deriving DecidableEq, Repr

/-- Parameters of modulation compression that section extension 4 or 5 carries (09 R216, R217): the REs they hold for, bit 11 the
first; the constellation shift flag; the scaler. -/
structure ModComp where
  reMask : Nat := 0xFFF
  csf : Bool := false
  scaler : Nat := 0
deriving DecidableEq, Repr

/-- A section of a C-plane message (09 R216, R218), as parsed. -/
structure CpSection where
  sectionId : Nat
  startPrb : Nat
  /-- numPrbc; 0 names the PRBs remaining in the carrier -/
  numPrb : Nat
  numSym : Nat
  reMask : Nat := 0xFFF
  /-- the PRBs that rbgMask of section extension 6 selects, ascending; none without the extension -/
  rbg : List Nat := []
  ueId : Nat := 0
  beamId : Nat := 0
  udComp : Nat := 0
  /-- the section extensions carried: type and contents -/
  exts : List (Nat × List (BitVec 8)) := []
  /-- what extensions 4 and 5 say, as parsed -/
  mods : List ModComp := []
deriving DecidableEq, Repr

/-- A C-plane message (09 R218), as parsed. -/
structure CpMsg where
  eaxc : Nat
  down : Bool
  sectType : Nat
  frame : Nat
  subframe : Nat
  slot : Nat
  startSym : Nat
  sections : List CpSection
deriving DecidableEq, Repr

/-- One PRB of a U-plane section: its compression parameter, and its 24 fields, I before Q of each RE. -/
structure UpPrb where
  exp : Nat
  vals : List Nat
deriving DecidableEq, Repr

/-- A section of a U-plane message (09 R216): the PRBs it claims (`numPrb` 0: those remaining), and the whole PRBs that its
payload holds. -/
structure UpSection where
  sectionId : Nat
  startPrb : Nat
  numPrb : Nat
  udComp : Nat
  prbs : List UpPrb
deriving DecidableEq, Repr

/-- A U-plane message (09 R216). -/
structure UpMsg where
  /-- its eCPRI header is right: revision, length, no transport fragment -/
  hdrOk : Bool
  payloadVersion : Nat
  eaxc : Nat
  down : Bool
  filterIndex : Nat
  frame : Nat
  subframe : Nat
  slot : Nat
  symbol : Nat
  seq : Nat
  sections : List UpSection
deriving DecidableEq, Repr

/-- The SecTAG of a MACsec frame, and whether its ICV is right (09 R220). -/
structure SecTag where
  an : Nat
  pn : Nat
  sciKnown : Bool
  icvOk : Bool
deriving DecidableEq, Repr

/-- Kinds of eCPRI one-way delay message (09 R222). -/
inductive DelayKind where
  | request | requestFollowUp | followUp | response
deriving DecidableEq, Repr

/-- Kinds of PTP message (08 R200, R201): those that the port engine uses, other event messages, and the rest. -/
inductive PtpKind where
  | sync | syncTwoStep | followUp | delayResp | announce | signaling | otherEvent | other
deriving DecidableEq, Repr

/-- What a received frame carries (09 R216, 08 R195). -/
inductive FrameBody where
  | uplane (m : UpMsg)
  /-- an eCPRI type 5 message: its sequence, timestamp and compensation value, in units of 2^−16 ns -/
  | delay (kind : DelayKind) (seq ts comp : Nat)
  /-- a PTP message: its domainNumber, its sequence, timestamp and correction field, in units of 2^−16 ns -/
  | ptp (domain : Nat) (kind : PtpKind) (seq ts : Nat) (corr : Int)
  /-- an ESMC PDU -/
  | esmc (pdu : Nat)
  /-- an eCPRI message whose common header is wrong: revision or length -/
  | badHeader
  /-- a C-plane message, an eCPRI message of another type, or another protocol -/
  | other
deriving DecidableEq, Repr

/-- An Ethernet frame as received (09 R214, R221). -/
structure Frame where
  len : Nat
  fcsOk : Bool
  mac : Nat
  /-- VLAN identifiers of its tags, outermost first -/
  vids : List Nat
  sec : Option SecTag
  /-- its message, or its eCPRI messages concatenated (09 R216) -/
  bodies : List FrameBody
deriving DecidableEq, Repr

/-- A fault or an outcome that a unit reports to the fault block (16 R384, R409). -/
structure FltRec where
  kind : Nat
  action : Nat
  cls : Nat
  plot : Nat := 0
  index : Nat := 0
  ctx : Option Nat := none
  detail : Nat := 0
  /-- the row whole, where DETAIL holds its low bits: a row of a store, or a DRAM address / 64 -/
  addr : Nat := 0
  /-- bits of the codeword that the decoder corrected, as an XOR of 144 bits -/
  bits : Nat := 0
  /-- the unit's own rule makes it permanent at once: a lane's lock lost for more than 100 µs, a margin below AGE_GRAFT -/
  perm : Bool := false
deriving DecidableEq, Repr

/-- What training finds of a memory channel (18 R437, R438, R453): generation 1 LPDDR4X, 2 LPDDR5 or 3 LPDDR5X, rate in MT/s, two ranks,
and log2 of its capacity in GiB. -/
structure ChTrain where
  gen : Nat
  mts : Nat
  ranks2 : Bool
  gibLog2 : Nat
deriving DecidableEq, Repr

/-- What a start-up step finds (19 R467); each step uses the fields that its row of R467 names. -/
structure StartResult where
  ok : Bool
  /-- step 3: the device secret was reconstructed, bits corrected, attempts; SVN by object type, and MIN_SVN -/
  idOk : Bool := true
  corrected : Nat := 0
  attempts : Nat := 1
  svns : List (Nat × Nat) := []
  minSvn : Nat := 0
  /-- step 4: the journal could be read -/
  journal : Bool := true
  /-- step 5: the units that fail their self-test -/
  failing : List FltRec := []
  /-- steps 5 and 9: Plots that hang, or whose pace is too low -/
  out : Nat := 0
  /-- step 7: the channels that train, by number; none where its pair does not -/
  train : List (Option ChTrain) := []
  /-- step 7: retired pages whose rows post-package repair has mended and verified (18 R451) -/
  ppr : List Nat := []
  /-- step 8: the frequency of REFCLK_IN as measured, in Hz; 0 where there is none -/
  refHz : Nat := 0
  /-- step 9: VOUT_MODE is ULINEAR16 -/
  ulinear : Bool := true
  /-- step 10: link speed, width, and 10-bit tags -/
  speed : Nat := 0
  width : Nat := 0
  tag10 : Bool := false
deriving DecidableEq, Repr

/-- The outcomes of the checks of an object (15 R370; 20 R479): digest, ML-DSA-65, Ed25519, and for a helper-data record whether the
secret reconstructed with it matches; its SVN. -/
structure ObjCheck where
  digest : Bool
  mlDsa : Bool
  ed25519 : Bool
  secret : Bool := true
  svn : Nat
deriving DecidableEq, Repr

/-- A console debug command (20 R481): a read of the register path, a debug transfer of some bytes from a Trellis address (01 R17), or
a read of an Almanac record. -/
inductive ConsoleCmd where
  | readReg (off : Nat)
  | transfer (addr len : Nat)
  | readAlmanac (index : Nat)
deriving DecidableEq, Repr

end Sys2Proof
end

