-- ==== Sys2Proof/Syntax.lean ====
section
/-!
DEFINITION. The commands of the TH9400: one constructor for each row of the table of operations and events. Operands that
the block itself holds are not repeated here; operands carry what a command brings from outside (who writes, what
arrives, what is measured, at what time of the free-running reference in units of 2^−16 ns).
-/

namespace Sys2Proof

/-- A command. -/
inductive Instr where
  /-- REGISTER_WRITE (R490): A register-path write to a register that has no row of its own takes effect or is ignored, under the access codes and the reserved-value rules. -/
  | registerWrite (v : View) (off : Nat) (x : Word) (be : Nat)
  /-- STAGED_WRITE (R496): A write to an STG field records the word in the writer's channel staging, or sets STAGE_FULL when staging is full. -/
  | stagedWrite (v : View) (off : Nat) (x : Word)
  /-- REVERT (R488): CTRL.REVERT removes from the writer's staging every word of the page that no commit has yet taken. -/
  | revert (v : View) (page : Nat)
  /-- SNAP_LATCH (R492): SNAP bit 0 latches every SNP field of the page into the writer's view at one instant. -/
  | snapLatch (v : View) (page : Nat)
  /-- SNAP_CLEAR (R492): SNAP bit 1 latches every SNP field and zeroes the page's statistics counters at the same instant; a VF's write is ignored. -/
  | snapClear (v : View) (page : Nat)
  /-- EVT_CLEAR_WRITE (R493): Writing 1 to bits of EVT_CLEAR clears those EVT_RAW bits and may resend the page's vector. -/
  | evtClearWrite (v : View) (page : Nat) (x : Word)
  /-- EVT_MASK_WRITE (R494): A write to EVT_MASK changes the page's EVT_STATUS and may send the page's vector. -/
  | evtMaskWrite (v : View) (page : Nat) (x : Word)
  /-- SELECTION_ADD (R497): CMT_SET OP 1 adds a page to the channel's selection, or sets SET_OVF when the selection is full. -/
  | selectionAdd (v : View) (page : Nat)
  /-- SELECTION_REMOVE (R497): CMT_SET OP 2 removes a page from the channel's selection. -/
  | selectionRemove (v : View) (page : Nat)
  /-- SELECTION_CLEAR (R497): CMT_SET OP 3 clears the channel's selection and SET_OVF. -/
  | selectionClear (v : View)
  /-- SELECTION_QUERY (R508): A write of CMT_SET_Q latches the selection entry that CMT_SET_RD then reports. -/
  | selectionQuery (v : View) (index : Nat)
  /-- GO (R498): CMT_GO.GO takes the channel's staged words in the selected pages as a commit and starts its checks against the basis. -/
  | go (v : View)
  /-- ABORT (R503): CMT_GO.ABORT withdraws the channel's commit that has not yet applied, returns its words to staging and frees its time comparator. -/
  | abort (v : View)
  /-- CHECKS_END (R498): The checks of a commit end, and the commit is rejected, made pending on its instant, or applied at once. -/
  | checksEnd (chan : Fin 12) (t : Nat)
  /-- COMMIT_APPLY (R500): In one Commit Gate event the commits due at an instant apply in channel order, after any re-check, and every changed active copy changes together. -/
  | commitApply (t : Nat)
  /-- FAULT_COMMIT_RETRY (R502): A failed commit of the fault block is issued again at the first repair boundary at least 1 ms after the failure. -/
  | faultCommitRetry (t : Nat)
  /-- HOOK_FIRE (R209): A time comparator or slot-boundary hook reaches its time and delivers its commits to the Commit Gate in arming order. -/
  | hookFire (t : Nat)
  /-- PACE_WINDOW_END (R23): A 1.000 µs window of a Plot's pace monitor ends, and its step count and the minimum since SNAP are updated. -/
  | paceWindowEnd (plot : Plot) (count : Nat) (t : Nat)
  /-- VOLTAGE_LOOP_EVAL (R458): Every 20 µs the voltage loop compares the lowest pace with the target and raises, lowers or keeps VCORE in 5 mV steps. -/
  | voltageLoopEval (ok : Bool) (t : Nat)
  /-- VR_TELEMETRY_POLL (R457): Every 10 ms Groundskeeper reads READ_VOUT, READ_IOUT and READ_TEMPERATURE_1 from the VCORE regulator. -/
  | vrTelemetryPoll (ok : Bool) (vout : Nat) (iout : Nat) (temp : Int) (t : Nat)
  /-- VR_RETRY (R459): While the loop is suspended Groundskeeper retries PMBus every 10 ms and resumes the loop at the first success. -/
  | vrRetry (ok : Bool) (t : Nat)
  /-- PMB_ALERT (R457): A low level on PMB_ALERT_N makes Groundskeeper read STATUS_WORD within 100 µs. -/
  | pmbAlert (ok : Bool) (status : Nat) (t : Nat)
  /-- PASS (R77): A Big Top pass descriptor issues: it may swap in the shadow tile, start a tile load, and issue M Lane rows into one accumulator bank. -/
  | pass (plot : Plot) (c : Ctx) (entry : Fin 32) (desc : Nat) (flip : Nat) (t : Nat)
  /-- TILE_LOAD_COMPLETE (R84): A weight tile load into the shadow bank completes and its column XOR is compared, with one reload on mismatch. -/
  | tileLoadComplete (plot : Plot) (flip : Nat) (t : Nat)
  /-- ROW_VERDICT (R85): The south edge reaches the check verdict of a row of a real pass by comparing the checksum column with the column sum. -/
  | rowVerdict (plot : Plot) (bank : Fin 2) (onC : Int) (onS : Int)
  /-- WEST_QUEUE_EMPTY (R82): The west-edge queue runs empty, and the Big Top performs one stop ramp of ballast rows and idles until a row can issue. -/
  | westQueueEmpty (plot : Plot) (left : Nat) (t : Nat)
  /-- REPLAY_REQUEST (R87): The read-out of a flagged bank asks Tightrope for a replay of its logged passes, which Tightrope grants or refuses. -/
  | replayRequest (plot : Plot) (t : Nat)
  /-- REPLAY_COMPLETE (R87): A granted replay ends, having cleared the bank, reloaded the tiles and re-run the logged passes, and the read-out proceeds. -/
  | replayComplete (plot : Plot) (bank : Fin 2) (bad : Nat) (flips : List Nat) (t : Nat)
  /-- LOCALISE_START (R90): At the first moment with both banks idle after a localisation takes effect, the Big Top starts its 1,536-step diagnostic. -/
  | localiseStart (plot : Plot)
  /-- LOCALISED (R90): The diagnostic ends, the tiles are reloaded where allowed, and the outcome is written to BTP_LOCALISE. -/
  | localised (plot : Plot) (kind : Fin 7) (row : Fin 258) (col : Fin 258) (flips : List Nat)
  /-- SPARE_MAP_EFFECT (R92): A change of BTP_SPARE_MAP takes effect at the first moment with both banks idle: both banks clear, tiles reload and SUSPECT clears. -/
  | spareMapEffect (plot : Plot) (flips : List Nat)
  /-- SPARE_MAP_TIMEOUT (R92): With no idle moment within 2 ms of the apply, the spare map takes effect at the next pass boundary and both banks are flagged. -/
  | spareMapTimeout (plot : Plot) (flips : List Nat) (t : Nat)
  /-- CHAIN (R99): A Sieve chain descriptor issues and runs its stages over ITER Lane rows, after waiting for any bank verdicts it needs. -/
  | chain (plot : Plot) (c : Ctx) (step : Nat) (entry : Fin 32) (desc : Nat) (name : Nat) (bankName : Nat) (act : Nat) (races : List (Fin 256)) (t : Nat)
  /-- CHAIN_END (R111): A chain's last write lands, its tensor status word is written, and any rescale retry is triggered. -/
  | chainEnd (plot : Plot) (t : Nat)
  /-- RETRY_REQUEST (R61): A triggered rescale retry asks Tightrope to grant its declared step cost against the slot margin. -/
  | retryRequest (plot : Plot) (cost : Nat) (t : Nat)
  /-- RETRY_PASS_END (R61): A granted retry pass ends, its results replace the first pass's and RESCALED is set. -/
  | retryPassEnd (plot : Plot) (t : Nat)
  /-- CMAC (R121): A Sprout complex multiply-accumulate from the X and Y memories into the accumulator pair. -/
  | cmac (i : SproutId) (ax : Fin 8) (ay : Fin 8)
  /-- CMACC (R121): A Sprout complex MAC with the X operand conjugated. -/
  | cmacc (i : SproutId) (ax : Fin 8) (ay : Fin 8)
  /-- CMSU (R121): A Sprout complex multiply-subtract. -/
  | cmsu (i : SproutId) (ax : Fin 8) (ay : Fin 8)
  /-- CMUL (R121): A Sprout clear-then-multiply into the accumulator pair. -/
  | cmul (i : SproutId) (ax : Fin 8) (ay : Fin 8)
  /-- ACLR (R121): A Sprout accumulator clear. -/
  | aclr (i : SproutId)
  /-- RDACC (R120): A Sprout reads the accumulator pair out as one complex INT16 pair with a shift, rounding and saturation. -/
  | rdacc (i : SproutId) (rd : SReg) (k : Int)
  /-- LDX (R121): A Sprout load from the X half with post-modify. -/
  | ldx (i : SproutId) (rd : SReg) (a : Fin 8)
  /-- LDY (R121): A Sprout load from the Y half with post-modify. -/
  | ldy (i : SproutId) (rd : SReg) (a : Fin 8)
  /-- STX (R121): A Sprout store to the X half with post-modify. -/
  | stx (i : SproutId) (rs : SReg) (a : Fin 8)
  /-- STY (R121): A Sprout store to the Y half with post-modify. -/
  | sty (i : SproutId) (rs : SReg) (a : Fin 8)
  /-- ADD (R121): A Sprout saturating add on INT32 or packed pairs. -/
  | add (i : SproutId) (packed : Bool) (rd : SReg) (ra : SReg) (rb : SReg)
  /-- SUB (R121): A Sprout saturating subtract. -/
  | sub (i : SproutId) (packed : Bool) (rd : SReg) (ra : SReg) (rb : SReg)
  /-- ABS (R121): A Sprout absolute value. -/
  | abs (i : SproutId) (packed : Bool) (rd : SReg) (ra : SReg)
  /-- NEG (R121): A Sprout negation. -/
  | neg (i : SproutId) (packed : Bool) (rd : SReg) (ra : SReg)
  /-- MIN (R121): A Sprout minimum. -/
  | min (i : SproutId) (packed : Bool) (rd : SReg) (ra : SReg) (rb : SReg)
  /-- MAX (R121): A Sprout maximum. -/
  | max (i : SproutId) (packed : Bool) (rd : SReg) (ra : SReg) (rb : SReg)
  /-- CMP (R121): A Sprout compare that sets the condition flag. -/
  | cmp (i : SproutId) (packed : Bool) (rel : Fin 6) (ra : SReg) (rb : SReg)
  /-- SEL (R121): A Sprout select on the condition flag. -/
  | sel (i : SproutId) (rd : SReg) (ra : SReg) (rb : SReg)
  /-- SHL (R121): A Sprout shift left. -/
  | shl (i : SproutId) (packed : Bool) (rd : SReg) (ra : SReg) (k : Fin 32)
  /-- SHR (R121): A Sprout shift right. -/
  | shr (i : SproutId) (packed : Bool) (rd : SReg) (ra : SReg) (k : Fin 32)
  /-- CONJ (R121): A Sprout complex conjugate. -/
  | conj (i : SproutId) (rd : SReg) (ra : SReg)
  /-- SWAPRI (R121): A Sprout swap of real and imaginary parts. -/
  | swapri (i : SproutId) (rd : SReg) (ra : SReg)
  /-- CLRSAT (R120): A Sprout clears its sticky SAT flag. -/
  | clrsat (i : SproutId)
  /-- NRM (R122): A Sprout counts the redundant sign bits of an INT32 value. -/
  | nrm (i : SproutId) (rd : SReg) (ra : SReg)
  /-- RCPS (R122): A Sprout forms the reciprocal seed RNE(0.5/x) in Q1.15. -/
  | rcps (i : SproutId) (rd : SReg) (ra : SReg)
  /-- RSQS (R122): A Sprout forms the reciprocal square-root seed RNE(0.5/√x) in Q1.15. -/
  | rsqs (i : SproutId) (rd : SReg) (ra : SReg)
  /-- LOOP (R123): A Sprout opens a loop body in the loop cache, or faults with cause 0x1C when two loops are active. -/
  | loop (i : SproutId) (count : Nat) (len : Nat)
  /-- BR (R124): A Sprout conditional branch, waiting for a fetch slot when taken outside the buffer or cache. -/
  | br (i : SproutId) (sense : Bool) (target : Nat)
  /-- JMP (R124): A Sprout jump. -/
  | jmp (i : SproutId) (target : Nat)
  /-- CALL (R124): A Sprout call onto the 4-deep return stack. -/
  | call (i : SproutId) (target : Nat)
  /-- RET (R124): A Sprout return from the return stack. -/
  | ret (i : SproutId)
  /-- GLD (R129): A Sprout issues a gather read from the activation store into its data memory. -/
  | gld (i : SproutId) (a : Fin 8) (ra : SReg) (size : Fin 5)
  /-- GST (R129): A Sprout issues a gather write from its data memory to the activation store. -/
  | gst (i : SproutId) (a : Fin 8) (ra : SReg) (size : Fin 5)
  /-- WAITG (R126): A Sprout stops issue until a gather completes or an enabled event arrives. -/
  | waitg (i : SproutId)
  /-- WAITEV (R126): A Sprout stops issue until an enabled event arrives. -/
  | waitev (i : SproutId)
  /-- SIG (R126): A Sprout asserts the PEER line of another Sprout of its Bed. -/
  | sig (i : SproutId) (target : Fin 16)
  /-- PPT (R128): A Sprout pre-emption point, at which a pending pre-emption stops the Sprout and its carried state is saved. -/
  | ppt (i : SproutId)
  /-- RTE (R127): A Sprout returns from bank 1 to bank 0 in two steps. -/
  | rte (i : SproutId)
  /-- HALT (R121): A Sprout halts. -/
  | halt (i : SproutId)
  /-- BANK_SWITCH (R127): An enabled event line asserted while a Sprout runs in bank 0 switches it to bank 1 at the line's handler vector. -/
  | bankSwitch (i : SproutId)
  /-- GATHERER_ACCESS (R130): In its rotation slot a Gatherer performs one row access for the oldest pending request, merged with others to the same row. -/
  | gathererAccess (plot : Plot) (bed : Fin 17) (races : List (Fin 16 × Nat))
  /-- STORE_TURN (R143): One Carousel turn of a store performs each slot's row accesses, writes at turn end in slot order, and the scrub slot's work. -/
  | storeTurn (plot : Plot) (store : Store) (new : List RowAccess) (strikes : List Strike)
  /-- STO_RELEASE (R158): A write of the entry mask moves each named HELD entry to ZEROING. -/
  | stoRelease (v : View) (plot : Plot) (x : Word)
  /-- STO_REPAIR_Q (R160): A write of STO_REPAIR_Q names the macro whose spares STO_REPAIR_R0 and R1 then report. -/
  | stoRepairQ (v : View) (plot : Plot) (x : Word)
  /-- FURROW_START (R163): A Furrow is loaded from its Plan at dispatch, or started by an OP entry, and becomes ACTIVE or PARKED. -/
  | furrowStart (irg : Fin 9) (f : Nat) (c : Ctx) (entry : Fin 32) (desc : Nat) (carried : Bool)
  /-- IRRIGATOR_ISSUE (R169): An Irrigator issues one request for the eligible rated Furrow with the least dry time, or a bulk Furrow by rotation. -/
  | irrigatorIssue (irg : Fin 9) (xlat : Option Nat) (dxlat : Option Nat) (level : Nat) (t : Nat)
  /-- REQUEST_COMPLETION (R173): A request's completion arrives, its data are written and its tag is freed for the next waiting request. -/
  | requestCompletion (irg : Fin 9) (pool : Fin 12) (tag : Nat) (gen : Fin 16) (data : Option (List (BitVec 8))) (races : Nat) (level : Nat) (t : Nat)
  /-- REQUEST_TIMEOUT (R175): A request exceeds its DRAM, ring or host limit and is cancelled, reissued once or faults its context. -/
  | requestTimeout (pool : Fin 11) (tag : Nat) (t : Nat)
  /-- PAGE_RESPONSE (R179): A PRI page response arrives; success resumes the Furrow from tile k and failure faults the context. -/
  | pageResponse (irg : Fin 9) (f : Nat) (ok : Bool) (t : Nat)
  /-- ATS_INVALIDATION (R417): An ATS invalidation completes after every request issued under the old translation has completed. -/
  | atsInvalidation (fn : Fin 9) (page : Nat)
  /-- PROLOGUE_LATE (R177): OVL_STEPS after the epilogue start a prologue Furrow has not delivered its last tile, and a record goes to Tightrope. -/
  | prologueLate (irg : Fin 9) (f : Fin 64) (t : Nat)
  /-- BUFFER_WAIT_CYCLE (R180): A Furrow waits 2 µs for staging while all staged tiles belong to Furrows in CREDIT_WAIT, and a cycle is declared. -/
  | bufferWaitCycle (irg : Fin 9) (t : Nat)
  /-- PFC_REFRESH (R235): Every PFC_REFRESH_US while ABOVE holds, the Turnstile repeats XOFF. -/
  | pfcRefresh (port : Fin 16) (t : Nat)
  /-- DROP_REST (R186): A consumer's DROP_REST discards the rest of the packet in progress through its end entry. -/
  | dropRest (group : Fin 36) (level : Nat) (packet : Option (Nat × Bool))
  /-- IRG_FRW_Q (R187): A write of IRG_FRW_Q names the Furrow that the state, cursor and dry registers then report. -/
  | irgFrwQ (v : View) (irg : Fin 9) (x : Word)
  /-- REFCLK_HANDOVER (R192): The free-running reference moves from the on-die oscillator to REFCLK_IN without changing its value. -/
  | refclkHandover (hz : Nat) (t : Nat)
  /-- REF_LOST (R206): Loss of REFCLK_IN makes the PLL hold its last control word while all clocks continue. -/
  | refLost (t : Nat)
  /-- REF_RETURN (R206): A usable REFCLK_IN returns and the clocks return to it without a phase step. -/
  | refReturn (hz : Nat) (t : Nat)
  /-- SAMPLE_IN (R201): Groundskeeper's write of OFS_HI delivers a PTP sample to a servo, which accepts or rejects it and steers its domain clock. -/
  | sampleIn (v : View) (x : Word) (uncal : Bool) (t : Nat)
  /-- SERVO_SAMPLE_TIMEOUT (R203): A LOCKED servo with no accepted sample for 1 s enters HOLDOVER. -/
  | servoSampleTimeout (dom : Bool) (t : Nat)
  /-- PARENT_LOST (R203): Groundskeeper reports that the parent is lost and the LOCKED servo enters HOLDOVER. -/
  | parentLost (dom : Bool) (t : Nat)
  /-- HOLD_EXPIRED (R203): After HOLD_MAX_S seconds in HOLDOVER the servo enters FREERUN. -/
  | holdExpired (dom : Bool) (t : Nat)
  /-- SWITCH_DONE (R205): The slew of device time toward the selected domain reaches zero offset. -/
  | switchDone (t : Nat)
  /-- CALIBRATION_DONE (R197): A port's latency calibration ends after link-up or a lane Graft and sets its SDL_CAL bit. -/
  | calibrationDone (port : Fin 16)
  /-- GRID_BOUNDARY (R207): The slot grid signals a frame, subframe, slot or symbol boundary. -/
  | gridBoundary (mu : Fin 4) (t : Nat)
  /-- PPS_OUT_EDGE (R210): PPS_OUT makes an active edge at each whole second of device time plus OFS_NS. -/
  | ppsOutEdge (t : Nat)
  /-- PPS_IN_EDGE (R211): A rising edge of PPS_IN is stamped on all clocks, counted, posted, and taken as a sample by a PPS_IN domain. -/
  | ppsInEdge (t : Nat)
  /-- SYNCE_LOCK_LOSS (R202): A chosen SerDes lane loses lock and the SYNCE output is squelched within 1 µs. -/
  | synceLockLoss (lane : Fin 18)
  /-- FRAME_RECEIVE (R221): An Ethernet frame is received whole, validated, matched to a radio unit and flow, and its U-plane, eCPRI type 5, PTP or ESMC content handled. -/
  | frameReceive (port : Fin 16) (f : Frame) (level : Nat) (shedFull : Bool) (shedCons : Option Nat) (t : Nat)
  /-- TD_MEAS_TIMER (R222): Every 100 ms the Turnstile sends eCPRI type 5 requests to measure a radio unit's delays. -/
  | tdMeasTimer (ru : Fin 48) (two : Bool) (taken : Nat) (t : Nat)
  /-- CPLANE_MESSAGE (R218): A C-plane message arrives whole on port 0x0380, is parsed, posted, placed and sent or held until CP_OPEN. -/
  | cplaneMessage (m : CpMsg) (t : Nat)
  /-- CP_HOLD_RELEASE (R219): At CP_OPEN a held C-plane message leaves the hold queue and is sent. -/
  | cpHoldRelease (t : Nat)
  /-- LAYOUT_FREEZE (R227): LAYOUT_LEAD before a slot the grid's layout is frozen, assigning SEG_IDs and trailer records. -/
  | layoutFreeze (grid : Fin 32) (t : Nat)
  /-- CHUNK_SYMBOL_OPEN (R230): A chunk-symbol opens when the earliest window of its radio units opens. -/
  | chunkSymbolOpen (grid : Fin 32) (chunk : Fin 8) (slot : Int) (sym : Fin 14) (t : Nat)
  /-- CHUNK_SYMBOL_CLOSE (R230): At the latest WIN_CLOSE a chunk-symbol closes and its unwritten positions are erasure-filled. -/
  | chunkSymbolClose (grid : Fin 32) (chunk : Fin 8) (slot : Int) (sym : Fin 14) (t : Nat)
  /-- TILE_UNIT_OFFER (R230): A complete Lane row, pyramid row or trailer is offered on the stream port once earlier units are taken. -/
  | tileUnitOffer (grid : Fin 32) (chunk : Fin 8) (slot : Int) (sym : Fin 14) (pyr : Bool)
  /-- TILE_STALE (R230): A tile not fully taken within one slot duration of its close is discarded. -/
  | tileStale (grid : Fin 32) (chunk : Fin 8) (slot : Int) (sym : Fin 14) (pyr : Bool) (t : Nat)
  /-- FEEDBACK_RECORD (R225): A feedback record arrives on port 0x0390 for a radio unit's frequency or timing correction. -/
  | feedbackRecord (c : Ctx) (word : Nat) (t : Nat)
  /-- NCO_UPDATE (R225): At the next 1 ms subframe boundary a feedback record takes effect, clamped to its limits. -/
  | ncoUpdate (t : Nat)
  /-- TRN_UNQUAR (R234): A write of TRN_UNQUAR releases a flow from quarantine from the next chunk-symbol. -/
  | trnUnquar (v : View) (x : Word) (t : Nat)
  /-- TRN_RU_Q (R240): A write of TRN_RU_Q names the radio unit that TRN_RU_RD then reports. -/
  | trnRuQ (v : View) (x : Word)
  /-- DL_TILE_RECEIVE (R238): A downlink tile's Lane rows arrive on port 0x0300 + g for compression and transmission. -/
  | dlTileReceive (grid : Fin 32) (rows : List Nat) (t : Nat)
  /-- TX_WINDOW_OPEN (R238): At TX_OPEN the messages of a downlink symbol leave as its rows are present. -/
  | txWindowOpen (ru : Fin 48) (grid : Fin 32) (slot : Int) (sym : Fin 14) (level : Nat) (t : Nat)
  /-- TX_LATE (R238): At TX_CLOSE a symbol whose tile is incomplete is not sent and its data are discarded. -/
  | txLate (ru : Fin 48) (grid : Fin 32) (slot : Int) (sym : Fin 14) (t : Nat)
  /-- LINK_CHANGE (R239): A fronthaul port gains or loses link, changing its PORT_UP bit. -/
  | linkChange (port : Fin 16) (up : Bool)
  /-- PORT_RETRAIN_DONE (R215): A port retrained after a spare-lane Graft returns to service. -/
  | portRetrainDone (port : Fin 16)
  /-- LANE_ERR_INTERVAL (R391): At the end of each 1 ms interval a lane's symbol errors and lock are judged for a lane fault. -/
  | laneErrInterval (ring : Bool) (lane : Fin 32) (errs : Nat) (lost : Bool) (long : Bool) (t : Nat)
  /-- THRESHER_JOB (R254): A decode or encode job arrives whole on a Thresher queue and is checked, refused or queued. -/
  | thresherJob (q : Fin 16) (enc : Bool) (header : Nat) (blocks : List Nat) (payload : List (BitVec 8))
  /-- CODE_BLOCK_DONE (R257): An LDPC code block stops decoding, is CRC-checked and delivered, with the result record after the job's last block. -/
  | codeBlockDone (q : Fin 16) (u : Fin 5) (mismatch : Bool)
  /-- POLAR_DECODE_DONE (R259): A polar SCL decode ends and delivers the best CRC-passing path. -/
  | polarDecodeDone (q : Fin 16) (u : Fin 5) (mismatch : Bool)
  /-- ENCODE_DONE (R260): An encode item ends with its codeword syndrome-checked, rate-matched and delivered. -/
  | encodeDone (q : Fin 16) (u : Fin 5) (mismatch : Bool)
  /-- WEIGHT_SET_LOAD (R256): A correction weight set arrives on port 0x0500 + q and replaces the slot's set from the next job. -/
  | weightSetLoad (q : Fin 16) (k : Fin 4) (w : Nat)
  /-- DESCRIPTOR_FETCH (R423): At a real-time context's fetch instant the central Irrigator reads its descriptor slot and the step falls due. -/
  | descriptorFetch (c : Ctx) (k : Int) (hdr : Option Nat) (body : Option (List (BitVec 8))) (t : Nat)
  /-- DESCRIPTOR_POLL (R423): Every POLL_US the central Irrigator reads a non-real-time context's slot header until STEP matches. -/
  | descriptorPoll (c : Ctx) (hdr : Option Nat) (body : Option (List (BitVec 8))) (t : Nat)
  /-- WORK_LIST_BUILD (R280): After the layout freeze and the descriptors, the Ringmaster builds the work list, updates the Roster and selects the Plan. -/
  | workListBuild (c : Ctx) (n : Nat) (hash : Nat) (t : Nat)
  /-- STEP_BOUNDARY (R280): At the step boundary the dispatch is applied, or the step is skipped when the context is still DEFERRED. -/
  | stepBoundary (c : Ctx) (n : Nat) (t : Nat)
  /-- STEP_COMPLETE (R429): Every task of a step reaches END and the step's records are harvested. -/
  | stepComplete (c : Ctx) (n : Nat) (inputs : List (Nat × List (BitVec 8))) (allocs : List AllocDone) (valid : List Bool) (t : Nat)
  /-- HARVEST_WRITE (R425): The central Irrigator writes a harvest record when the ring has room, sequence word last, and sends the vector. -/
  | harvestWrite (c : Ctx)
  /-- CONS_POLL (R425): While records wait for room the device reads CONS again every 5 µs. -/
  | consPoll (c : Ctx) (cons : Word)
  /-- TASK_END (R278): An END entry completes a task and is an engine choice point. -/
  | taskEnd (c : Ctx) (n : Nat) (i : Nat) (t : Nat)
  /-- TASK_OP (R278): An OP entry issues a pass, chain, Sprout start, Furrow start or Thresher job. -/
  | taskOp (c : Ctx) (n : Nat) (i : Nat) (sprout : Fin 16) (net : Bool) (needs : List (Fin 9 × Fin 64 × Nat)) (t : Nat)
  /-- TASK_WAIT (R278): A WAIT entry waits until a task's signal has been raised enough times. -/
  | taskWait (c : Ctx) (n : Nat) (i : Nat) (ring : Bool) (t : Nat)
  /-- TASK_SIGNAL (R278): A SIGNAL entry raises a signal of the task. -/
  | taskSignal (c : Ctx) (n : Nat) (i : Nat) (t : Nat)
  /-- RELEASE (R167): A RELEASE entry frees tiles of a Furrow's consumer buffer, restoring its credit. -/
  | release (c : Ctx) (n : Nat) (i : Nat) (t : Nat)
  /-- TASK_BOUNDARY (R177): A BOUNDARY entry declares a layer boundary whose epilogue OP moves the prologue Furrows to ACTIVE. -/
  | taskBoundary (c : Ctx) (n : Nat) (i : Nat) (t : Nat)
  /-- TASK_PPT (R288): A PPT entry is a pre-emption and engine choice point where carried state may be saved or restored. -/
  | taskPpt (c : Ctx) (n : Nat) (i : Nat) (count : Nat) (t : Nat)
  /-- TASK_CHKPT (R294): A CHKPT entry posts a checkpoint record and the task goes on. -/
  | taskChkpt (c : Ctx) (n : Nat) (i : Nat) (t : Nat)
  /-- TASK_FEEDS (R278): A FEEDS entry names the allocations fed by a tensor or bank. -/
  | taskFeeds (c : Ctx) (n : Nat) (i : Nat) (t : Nat)
  /-- CHECKPOINT (R296): A checkpoint is reached and Tightrope computes its predicted completion and margin. -/
  | checkpoint (c : Ctx) (n : Nat) (k : Nat) (t : Nat)
  /-- RERUN_REQUEST (R137): A Sprout asks Tightrope for a Safety Net re-run, which is granted from the reserve or refused. -/
  | rerunRequest (q : SproutId) (cause : Fin 3) (t : Nat)
  /-- FALLBACK_RECORD (R247): A fallback record makes Tightrope late-start each bundle, or the null descriptor in its place. -/
  | fallbackRecord (c : Ctx) (n : Nat) (fb : Fin 4) (allocs : Nat) (bundles : List (LateBundle × Bool)) (t : Nat)
  /-- LIBRARY_ADD (R275): RMS_LIB_CMD OP 1 reads a Plan, applies every library-entry check, and accepts or refuses the entry. -/
  | libraryAdd (v : View) (c : Ctx) (i : Fin 256)
  /-- LIBRARY_REMOVE (R275): RMS_LIB_CMD OP 2 removes a library entry. -/
  | libraryRemove (v : View) (c : Ctx) (i : Fin 256)
  /-- CONTEXT_RESTART (R301): RMS_CTX_CMD OP 1 restarts a FAULTED context as SWAPPED once its entries are neither ZEROING nor HELD. -/
  | contextRestart (v : View) (c : Ctx)
  /-- CONTEXT_SWAP_OUT (R291): RMS_CTX_CMD OP 2 pre-empts and swaps out a context. -/
  | contextSwapOut (v : View) (c : Ctx)
  /-- PREEMPTION_COMPLETE (R291): Every task has stopped and carried rows are copied, so the swap-out clears the windows and frees the slot. -/
  | preemptionComplete (c : Ctx) (rows : List CarryRow) (t : Nat)
  /-- SWAP_IN (R272): A context's windows are placed and its carried state restored, after waiting for blocking entries to zero. -/
  | swapIn (c : Ctx) (wins : List WinPlace) (rows : List CarryRow) (t : Nat)
  /-- RMS_SLOT_Q (R303): A write of RMS_SLOT_Q names the resident slot that RMS_SLOT_RD then reports. -/
  | rmsSlotQ (v : View) (x : Word)
  /-- RMS_ACCT_Q (R303): A write of RMS_ACCT_Q names the context and engine class whose accounting is then reported. -/
  | rmsAcctQ (v : View) (x : Word)
  /-- TRP_SLOT_Q (R304): A write of TRP_SLOT_Q names the resident slot whose reserve and margin are then reported. -/
  | trpSlotQ (v : View) (x : Word)
  /-- ROSTER_WRITE (R305): RST_CMD OP 1 writes RST_BUF as a Roster entry between work-list builds, or completes with a rejection result. -/
  | rosterWrite (v : View) (index : Fin 4096)
  /-- ROSTER_CLEAR (R305): RST_CMD OP 2 clears an entry's VALID bit. -/
  | rosterClear (v : View) (index : Fin 4096)
  /-- CONTEXT_TEARDOWN (R301): A fault record stops every task of the context at once and begins its teardown. -/
  | contextTeardown (c : Ctx) (t : Nat)
  /-- TEARDOWN_COMPLETE (R301): Requests in flight have ended, windows are cleared with KILL 1, the fault record written, and the context becomes FAULTED. -/
  | teardownComplete (c : Ctx) (t : Nat)
  /-- EVAL_RECORD (R315): An evaluation record arrives and the Ringmaster sets or clears PASS for the TARGET. -/
  | evalRecord (c : Ctx) (n : Nat) (serve : Word) (cand : Word) (scored : Nat) (flags : Nat) (t : Nat)
  /-- RMS_GH_EVAL_Q (R320): A write of RMS_GH_EVAL_Q names the TARGET whose latest evaluation is then reported. -/
  | rmsGhEvalQ (v : View) (x : Word)
  /-- WSET_HASH (R334): RMS_WSET_CMD OP 1 starts hashing a registered weight set's region. -/
  | wsetHash (v : View) (k : Fin 8)
  /-- WSET_REPORT (R334): RMS_WSET_CMD OP 2 reports an entry's state and hash. -/
  | wsetReport (v : View) (k : Fin 8)
  /-- WSET_DONE (R334): Hashing of a weight set ends and sets HASH_OK. -/
  | wsetDone
  /-- CAPTURE_START (R336): RMS_CAP_CMD with STEPS non-zero captures the next steps of the named context. -/
  | captureStart (v : View) (steps : Nat)
  /-- CAPTURE_STOP (R336): RMS_CAP_CMD with STEPS 0 stops a capture in progress. -/
  | captureStop (v : View)
  /-- LOCKSTEP_MARK (R330): At the mark after the FIFOs drain, lockstep edge 0 occurs and aligned islands start. -/
  | lockstepMark (c : Ctx) (t : Nat)
  /-- LOCKSTEP_EDGE (R330): Each lockstep clock edge completes one step of each Plot in lockstep. -/
  | lockstepEdge (c : Ctx) (slipped : List Plot) (t : Nat)
  /-- RING_FRAME_RECEIVE (R344): A ring link frame is received, CRC-checked, and acknowledged or negatively acknowledged. -/
  | ringFrameReceive (east : Bool) (crcOk : Bool) (seq : Nat) (ack : Nat) (nack : Bool) (onward : List (List (BitVec 8))) (rxLevel : Nat) (txLevel : Nat) (t : Nat)
  /-- RING_ACK_TIMEOUT (R344): 10 µs without acknowledgement, or 8 resends of one frame, forces the link to retrain. -/
  | ringAckTimeout (east : Bool) (t : Nat)
  /-- RING_READ (R349): A READ packet reaches its destination and is authenticated, checked and served or answered. -/
  | ringRead (h : Nat) (body : List (BitVec 8))
  /-- RING_WRITE (R349): A WRITE packet reaches its destination and is authenticated, checked and written or answered. -/
  | ringWrite (h : Nat) (body : List (BitVec 8))
  /-- RING_RESP (R350): A RESP packet completes, retries or faults the requester by its STATUS. -/
  | ringResp (east : Bool) (h : Nat) (body : List (BitVec 8)) (t : Nat)
  /-- NOT_RESIDENT_RESEND (R350): Every 1 µs a request answered NOT_RESIDENT is resent under the same tag. -/
  | notResidentResend (east : Bool) (tag : Fin 256) (t : Nat)
  /-- RING_TRAIN_DONE (R343): Training ends and the link comes up or stays down with MISMATCH by the far end's identity. -/
  | ringTrainDone (link : RingLink) (far : Fin 8) (size : Nat) (rate : Nat)
  /-- RING_LINK_LOSS (R341): A ring link goes down and routes are recomputed within 1 µs. -/
  | ringLinkLoss (link : RingLink)
  /-- LANE_SWAP (R345): A lane-swap control word moves a failed lane's bytes onto lane 8 at the named frame boundary. -/
  | laneSwap (east : Bool) (lane : Fin 8)
  /-- ROUTE_AWAY (R352): PSF_CMD OP 1 puts a port in route-away, launching nothing new. -/
  | routeAway (v : View) (east : Bool)
  /-- RESUME (R352): PSF_CMD OP 2 takes a port out of route-away. -/
  | resume (v : View) (east : Bool)
  /-- ROUTE_AWAY_DONE (R352): A port in route-away empties its resend buffer. -/
  | routeAwayDone (east : Bool)
  /-- KEY_LOAD (R365): SEC_KEY_CMD LOAD unwraps a job-key blob under the partition's PWK into a handle. -/
  | keyLoad (v : View) (x : Word) (host : List Byte)
  /-- KEY_ERASE (R365): SEC_KEY_CMD ERASE erases a job key that is not in use. -/
  | keyErase (v : View) (x : Word)
  /-- KEY_QUERY (R365): SEC_KEY_CMD QUERY reports whether a handle holds a key, its USE and its JOB. -/
  | keyQuery (v : View) (x : Word)
  /-- DISABLE (R381): SEC_CMD DISABLE starts the disable sequence of a partition. -/
  | disable (v : View) (p : Part) (t : Nat)
  /-- RELEASE_HOLD (R379): SEC_CMD RELEASE_HOLD releases a partition's HELD entries, frozen Sprouts and fenced areas. -/
  | releaseHold (v : View) (p : Part) (t : Nat)
  /-- PART_RELEASED (R379): The last release of a held partition ends and it leaves HELD. -/
  | partReleased (p : Part) (t : Nat)
  /-- DISABLE_SLOT_EXPIRY (R382): One slot after the trigger, steps still in flight are aborted and the partition becomes SCRUBBING. -/
  | disableSlotExpiry (p : Part) (t : Nat)
  /-- PART_DISABLED (R382): The disable sequence ends, the partition becomes ACTIVE or HELD, and an FLR completes. -/
  | partDisabled (p : Part) (t : Nat)
  /-- VF_FLR (R433): A VF FLR withdraws its Commit Gate channel and starts the disable sequence of its partition. -/
  | vfFlr (k : Fin 8) (t : Nat)
  /-- PF_FLR (R433): A PF FLR clears VF Enable, disables every partition and clears the PF's windows, copy channel and shed ring. -/
  | pfFlr (t : Nat)
  /-- VF_ENABLE_CLEAR (R381): Clearing VF Enable disables every partition that has a VF. -/
  | vfEnableClear (t : Nat)
  /-- GET_VERSION (R372): An SPDM GET_VERSION request is answered. -/
  | getVersion (tr : Fin 11) (ses : Option Nat) (msg : List Byte)
  /-- GET_CAPABILITIES (R372): An SPDM GET_CAPABILITIES request is answered. -/
  | getCapabilities (tr : Fin 11) (ses : Option Nat) (msg : List Byte)
  /-- NEGOTIATE_ALGORITHMS (R372): An SPDM NEGOTIATE_ALGORITHMS request is answered. -/
  | negotiateAlgorithms (tr : Fin 11) (ses : Option Nat) (msg : List Byte)
  /-- GET_DIGESTS (R372): An SPDM GET_DIGESTS request is answered. -/
  | getDigests (tr : Fin 11) (ses : Option Nat) (msg : List Byte)
  /-- GET_CERTIFICATE (R372): An SPDM GET_CERTIFICATE request returns the Ed25519 chain of slot 0. -/
  | getCertificate (tr : Fin 11) (ses : Option Nat) (msg : List Byte)
  /-- CHALLENGE (R372): An SPDM CHALLENGE is answered with an Ed25519-signed CHALLENGE_AUTH. -/
  | challenge (tr : Fin 11) (ses : Option Nat) (msg : List Byte)
  /-- GET_MEASUREMENTS (R374): An SPDM GET_MEASUREMENTS returns the measurement blocks the transport may see. -/
  | getMeasurements (tr : Fin 11) (ses : Option Nat) (msg : List Byte)
  /-- KEY_EXCHANGE (R372): An SPDM KEY_EXCHANGE begins a secured session. -/
  | keyExchange (tr : Fin 11) (ses : Option Nat) (msg : List Byte)
  /-- FINISH (R372): An SPDM FINISH completes a secured session handshake. -/
  | finish (tr : Fin 11) (ses : Option Nat) (msg : List Byte) (macOk : Bool)
  /-- KEY_UPDATE (R372): An SPDM KEY_UPDATE updates a session's keys. -/
  | keyUpdate (tr : Fin 11) (ses : Option Nat) (msg : List Byte) (all : Bool)
  /-- HEARTBEAT (R372): An SPDM HEARTBEAT keeps a session alive. -/
  | heartbeat (tr : Fin 11) (ses : Option Nat) (msg : List Byte)
  /-- END_SESSION (R372): An SPDM END_SESSION ends a secured session. -/
  | endSession (tr : Fin 11) (ses : Option Nat) (msg : List Byte)
  /-- PQ_GET_CERT (R373): The vendor request returns the ML-DSA-65 chain. -/
  | pqGetCert (tr : Fin 11) (ses : Option Nat) (msg : List Byte)
  /-- PQ_SIGN (R373): The vendor request returns the Alias ML-DSA-65 signature over the preceding signed transcript hash. -/
  | pqSign (tr : Fin 11) (ses : Option Nat) (msg : List Byte)
  /-- SET_PWK (R362): In a secured session the vendor request delivers a partition's wrapping key, rejected if one is held. -/
  | setPwk (tr : Fin 11) (ses : Option Nat) (msg : List Byte) (p : Part) (key : List Byte)
  /-- GET_DEBUG_LOG (R377): The vendor request returns the held debug records the transport may see. -/
  | getDebugLog (tr : Fin 11) (ses : Option Nat) (msg : List Byte)
  /-- KEY_PROG (R364): IDE_KM KEY_PROG loads an IDE key set for a stream. -/
  | keyProg (tr : Fin 11) (ses : Option Nat) (msg : List Byte) (stream : Fin 9) (set : Bool) (sub : Fin 3) (tx : Bool) (key : List Byte)
  /-- K_SET_GO (R364): IDE_KM K_SET_GO activates an IDE key set. -/
  | kSetGo (tr : Fin 11) (ses : Option Nat) (msg : List Byte) (stream : Fin 9) (set : Bool) (sub : Fin 3) (tx : Bool)
  /-- K_SET_STOP (R364): IDE_KM K_SET_STOP stops an IDE key set. -/
  | kSetStop (tr : Fin 11) (ses : Option Nat) (msg : List Byte) (stream : Fin 9) (set : Bool) (sub : Fin 3) (tx : Bool)
  /-- IDE_ERR (R364): An IDE integrity failure puts the stream in the insecure state and drops the function's traffic. -/
  | ideErr (stream : Fin 9)
  /-- TAP_LEAVE_RESET (R375): The TAP first leaves Test-Logic-Reset, opening a JTAG debug session. -/
  | tapLeaveReset (t : Nat)
  /-- TAP_RESET (R375): The TAP returns to Test-Logic-Reset or TRST falls, ending the JTAG session. -/
  | tapReset (t : Nat)
  /-- IDCODE (R482): The TAP instruction that reads IDCODE 0x1940_06B7. -/
  | idcode
  /-- BYPASS (R482): The TAP BYPASS instruction. -/
  | bypass
  /-- SAMPLE_PRELOAD (R482): The TAP SAMPLE/PRELOAD instruction. -/
  | samplePreload (pins : Nat) (load : Nat)
  /-- EXTEST (R482): The TAP EXTEST instruction, run as BYPASS outside power-on reset. -/
  | extest (pins : Nat) (load : Nat)
  /-- CLAMP (R482): The TAP CLAMP instruction, run as BYPASS outside power-on reset. -/
  | clamp
  /-- HIGHZ (R482): The TAP HIGHZ instruction, run as BYPASS outside power-on reset. -/
  | highz
  /-- CORE_HALT (R483): A debug instruction halts the Groundskeeper core, suspending its watchdog and queueing its records. -/
  | coreHalt (t : Nat)
  /-- CORE_RESUME (R483): A debug instruction resumes the core from the halted instruction. -/
  | coreResume (t : Nat)
  /-- FAULT_RECORD (R391): The fault block receives a fault or ECC record, counts it, and judges the unit transient or permanent. -/
  | faultRecord (r : Option FltRec) (t : Nat)
  /-- REPAIR_APPLY (R393): At the repair boundary a Prune and Graft apply before the dispatches, the Grafted unit's epoch advances and the Almanac records it. -/
  | repairApply (almOk : Bool) (t : Nat)
  /-- PLOT_PRUNE (R399): Once no step using a RETIRING Plot is in flight, a second apply Prunes it and powers its domains off. -/
  | plotPrune (plot : Plot) (almOk : Bool) (t : Nat)
  /-- AGING_MARGIN_LOW (R398): A monitor margin below AGE_RAISE raises the VCORE floor by 10 mV, or below AGE_GRAFT at 0.85 V judges the unit permanent. -/
  | agingMarginLow (monitor : Fin 197) (margin : Fin 256) (almOk : Bool) (t : Nat)
  /-- HANDSHAKE_TIMEOUT (R401): A hand-off stalled for 500 ns completes with poisoned data. -/
  | handshakeTimeout (cls : Fin 10) (plot : Plot) (index : Fin 256) (c : Option Ctx) (recovered : Bool) (t : Nat)
  /-- TASK_TIMEOUT (R401): A task exceeds twice its declared bound and faults its context with cause 0x08. -/
  | taskTimeout (c : Ctx) (n : Nat) (i : Nat) (ran : Nat) (t : Nat)
  /-- HEARTBEAT_TIMEOUT (R401): A context with no entry completed for 10 ms faults with cause 0x19. -/
  | heartbeatTimeout (c : Ctx) (t : Nat)
  /-- PARTITION_TIMEOUT (R402): A teardown or disable sequence exceeds the partition limit and a partition reset is staged. -/
  | partitionTimeout (p : Part) (t : Nat)
  /-- DEVICE_RECOVERY (R403): An incomplete partition reset or a 1 s missing heartbeat makes Groundskeeper reset everything within PERST# scope except PCIe and always-on. -/
  | deviceRecovery (beat : Bool) (almOk : Bool) (t : Nat)
  /-- GK_WATCHDOG_EXPIRY (R403): The always-on watchdog restarts Groundskeeper from its boot ROM. -/
  | gkWatchdogExpiry (t : Nat)
  /-- FLT_UNIT_Q (R412): A write of FLT_UNIT_Q names the unit whose epoch and fault state are then reported. -/
  | fltUnitQ (v : View) (x : Word)
  /-- COPY_START (R420): A write of HST_COPY LEN starts a copy on the function's channel, or refuses it. -/
  | copyStart (v : View) (x : Word) (t : Nat)
  /-- COPY_DONE (R420): A copy ends, done or with a read failure. -/
  | copyDone (fn : Fin 9) (hostData : Option (List (BitVec 8))) (t : Nat)
  /-- HOST_WRITE_CREDIT_TIMEOUT (R419): A real-time Furrow's host write waiting 30 µs for credit faults its context. -/
  | hostWriteCreditTimeout (irg : Fin 9) (f : Nat) (waited : Nat)
  /-- CONFIG_REQUEST (R468): A PCIe configuration request is answered, with retry status until start-up step 10 ends. -/
  | configRequest
  /-- DRAM_READ (R441): The memory controller serves a DRAM read, decoding its codewords and converting soft-buffer aperture data. -/
  | dramRead (c : Option Ctx) (addr : Nat) (len : Nat) (strikes : List Strike)
  /-- DRAM_WRITE (R444): The memory controller serves a DRAM write, encoding codewords and packing aperture groups. -/
  | dramWrite (c : Option Ctx) (addr : Nat) (data : List (BitVec 8)) (strikes : List Strike)
  /-- CHECK_BURST_WRITEBACK (R440): A modified check burst is written back 1 µs after its first change or on eviction. -/
  | checkBurstWriteback (ch : Fin 8) (burst : Nat) (t : Nat)
  /-- REFRESH (R445): A per-bank refresh falls due and is scheduled into a traffic gap. -/
  | refresh (ch : Fin 8) (bank : Nat) (gap : Bool)
  /-- MR4_POLL (R445): Every 16 ms the controller reads MR4 and applies its refresh multiplier. -/
  | mr4Poll (ch : Fin 8) (mult : Fin 3) (hot : Bool)
  /-- WCK_TRACKING (R446): Every 100 ms a channel pauses for oscillator measurement and delay correction. -/
  | wckTracking (ch : Fin 8)
  /-- DRAM_PATROL (R447): The DRAM patrol reads, corrects and writes back codewords over PATROL_H hours. -/
  | dramPatrol (strikes : List Strike)
  /-- ZEROING_PASS_END (R448): The background zeroing pass ends, ZEROING clears and the patrol starts. -/
  | zeroingPassEnd
  /-- REMAP_DONE (R450): A remapped page's copy ends and its entry switches. -/
  | remapDone
  /-- DDR_CH_Q (R453): A write of DDR_CH_Q names the channel that DDR_CH_RD then reports. -/
  | ddrChQ (v : View) (x : Word)
  /-- PORST_ASSERT (R465): PORST_N low resets everything including straps, identity and keys. -/
  | porstAssert
  /-- PORST_RELEASE (R467): PORST_N rises, the straps are sampled and start-up begins at step 1. -/
  | porstRelease (ringSize : Fin 8) (ringPos : Fin 8)
  /-- PERST_ASSERT (R465): PERST# asserted resets everything except the always-on domain and drops BYP_OPEN. -/
  | perstAssert (t : Nat)
  /-- PERST_RELEASE (R468): PERST# deasserts, link training begins and start-up runs steps 4 to 10. -/
  | perstRelease (t : Nat)
  /-- RAIL_FAULT (R461): A rail out of range or a sequencing breach holds the device in power-on reset. -/
  | railFault (bad : Bool) (ringSize : Fin 8) (ringPos : Fin 8)
  /-- START_STEP_DONE (R467): A start-up step ends, its outcome is written to the Almanac, and the next step begins. -/
  | startStepDone (r : StartResult) (almOk : Bool) (t : Nat)
  /-- THERMAL_SAMPLE (R462): The die sensors are read and the thermal throttle level is set with its hysteresis. -/
  | thermalSample (temps : List Int) (volts : List Nat) (t : Nat)
  /-- POWER_WINDOW (R463): Each 100 ms window's mean power raises or lowers the power level against PWR_CAP_W. -/
  | powerWindow (watts : Nat) (amps : Nat) (t : Nat)
  /-- THERMAL_TRIP (R464): A sensor at the trip threshold stops every handshake, drops BYP_OPEN and asserts THERMTRIP_N. -/
  | thermalTrip (sensor : Fin 24) (temp : Int) (almOk : Bool) (t : Nat)
  /-- DOM_DONE (R455): The last domain of a PWR_DOM commit settles after sequential power-up. -/
  | domDone (t : Nat)
  /-- PLOT_RESET (R466): PWR_CMD OP 1 tears down affected contexts and resets the Plot's units and epochs. -/
  | plotReset (v : View) (plot : Plot) (t : Nat)
  /-- PWR_TEMP_Q (R473): A write of PWR_TEMP_Q names the sensor that PWR_TEMP_RD then reports. -/
  | pwrTempQ (v : View) (x : Word)
  /-- GET_INFO (R484): The mailbox command returns manifests, SVNs and digests of the active set. -/
  | getInfo (v : View) (len : Fin 256) (t : Nat)
  /-- READ_SENSORS (R484): The mailbox command returns sensor readings. -/
  | readSensors (v : View) (len : Fin 256) (t : Nat)
  /-- READ_ALMANAC (R484): The mailbox command returns Almanac records. -/
  | readAlmanac (v : View) (len : Fin 256) (t : Nat)
  /-- READ_NOTE (R484): The mailbox command returns the oldest unread notice. -/
  | readNote (v : View) (len : Fin 256) (t : Nat)
  /-- READ_FAULTS (R484): The mailbox command returns the latest fault-block records. -/
  | readFaults (v : View) (len : Fin 256) (t : Nat)
  /-- REQUEST_UPDATE (R479): PLDM RequestUpdate begins a firmware update or is answered ALREADY_IN_UPDATE_MODE. -/
  | requestUpdate (tr : Fin 2) (req : Fin 256)
  /-- PASS_COMPONENT_TABLE (R479): PLDM PassComponentTable names the components of the update. -/
  | passComponentTable (tr : Fin 2) (req : Fin 256) (types : List Nat)
  /-- UPDATE_COMPONENT (R479): PLDM UpdateComponent starts pulling a component into the inactive set. -/
  | updateComponent (tr : Fin 2) (req : Fin 256) (type : Fin 16) (svn : Nat)
  /-- FIRMWARE_DATA (R479): A RequestFirmwareData response delivers image data into the inactive set. -/
  | firmwareData (data : List Byte)
  /-- VERIFY_COMPLETE (R479): A component's checks end and VerifyComplete reports the outcome. -/
  | verifyComplete (c : ObjCheck)
  /-- ACTIVATE_FIRMWARE (R480): PLDM ActivateFirmware names the updated set active, with self-contained activation restarting Groundskeeper. -/
  | activateFirmware (tr : Fin 2) (req : Fin 256) (self : Bool) (almOk : Bool) (t : Nat)
  /-- CANCEL_UPDATE (R479): PLDM CancelUpdate leaves the inactive set invalid. -/
  | cancelUpdate (tr : Fin 2) (req : Fin 256)
  /-- SET_EVENT_RECEIVER (R478): PLDM SetEventReceiver sets where platform events are sent. -/
  | setEventReceiver (tr : Fin 2) (req : Fin 256) (eid : Option Nat)
  /-- PLATFORM_EVENT_RESEND (R478): An unacknowledged PlatformEventMessage is resent after 1 s, up to 3 times. -/
  | platformEventResend (seq : Fin 256) (t : Nat)
  /-- GET_SENSOR_READING (R477): A PLDM monitoring request reads a numeric or state sensor. -/
  | getSensorReading (tr : Fin 2) (req : Fin 256) (id : Fin 256)
  /-- SET_ENDPOINT_ID (R476): MCTP Set Endpoint ID assigns or replaces the binding's EID. -/
  | setEndpointId (tr : Fin 2) (eid : Fin 256)
  /-- CONSOLE_STATUS (R481): A console status command is answered without login. -/
  | consoleStatus (what : Fin 6)
  /-- CONSOLE_LOGIN (R481): A signed answer to the console challenge opens a debug login, or counts a failure and may lock the console. -/
  | consoleLogin (ok : Bool) (t : Nat)
  /-- CONSOLE_DEBUG (R481): A console debug command reads the register path, configures a debug transfer or reads the Almanac. -/
  | consoleDebug (x : ConsoleCmd) (t : Nat)
  /-- CONSOLE_LOGOUT (R481): A logout or 15 minutes of idleness closes the console session. -/
  | consoleLogout (idle : Bool) (t : Nat)
  /-- CONTEXT_BLOCKED (R270): A RUNNING context becomes BLOCKED once every task of its steps is stopped on a PAGE_WAIT Furrow, on a ring or host request outstanding for more than 1 µs, or at a PPT awaiting the Ringmaster, and the Ringmaster retries its DEFERRED contexts. -/
  | contextBlocked (c : Ctx) (t : Nat)
  /-- DELAY_REQ_INTERVAL (R201): At each Delay_Req interval of an enabled PTP domain, the PTP port engine sends a timestamped Delay_Req, and under G.8275.2 its unicast-negotiation Signaling. -/
  | delayReqInterval (dom : Bool) (two : Bool) (taken : Nat) (t : Nat)
  /-- MSIX_UNMASK (R494): A host write that unmasks an MSI-X vector in the BAR4 table sends a message for its pending bit. -/
  | msixUnmask (fn : Fin 9) (vector : Nat)
  /-- ENTDAA (R476): The I3C bus controller's ENTDAA gives Groundskeeper a dynamic address and makes the management pins act as an I3C Basic target. -/
  | entdaa (addr : Fin 128)
  /-- PLATFORM_EVENT_ACK (R478): The event receiver acknowledges a PlatformEventMessage, which stops its resends and frees a place among the 16 unacknowledged messages. -/
  | platformEventAck (seq : Fin 256)
deriving DecidableEq, Repr

end Sys2Proof
end

