-- ==== Sys2Proof/Machine/RegTable.lean ====
section
/-!
DEFINITION. The register table: every register the chapters define on a page of their own, with the fields of those that
software writes (02 R68, 03 R94, 04 R116, 05 R139, 06 R160, 07 R187 and R188, 08 R212, 09 R239 to R241, 10 R269,
11 R303 to R305, 12 R320, 13 R339, 14 R355, 15 R383, 16 R412, 17 R435 and R436, 18 R453, 19 R473 and R474, 20 R485,
21 R507 to R509). Reset values that depend on the page or the entry are in `regReset`.
-/

namespace Sys2Proof.Machine

/-- One register, or one array of registers, of a kind of page. -/
structure RegDef where
  /-- offset of the first word -/
  base : Nat
  /-- bytes from one entry to the next -/
  stride : Nat
  /-- entries -/
  count : Nat
  /-- the words of an entry, each by its fields; a word without fields is wholly reserved -/
  words : List (List Field)
  /-- whether an active mirror lies at the offset + 0x800 (21 R487) -/
  mirror : Bool := false
deriving DecidableEq, Repr

/-- Words that the hardware writes and software only reads. -/
def roWords (n : Nat) (a : Acc) : List (List Field) := List.replicate n [⟨0, 32, a, 0, .any⟩]

/-- The registers of the SYS page. -/
def regsSys : List RegDef :=
  -- SYS_INFO, SYS_BAD_ACC (21 R507)
  [⟨0x808, 0x8, 1, roWords 2 .ro, false⟩] ++
  -- SYS_SCRATCH (21 R507)
  [⟨0xF00, 0x4, 1, roWords 1 .rw, false⟩]

/-- The registers of the CMT page. -/
def regsCmt : List RegDef :=
  -- CMT_AT (21 R508)
  [⟨0xF10, 0x10, 1, [[⟨0, 2, .rw, 0, .enum 2⟩, ⟨2, 6, .rw, 0, .any⟩], [⟨0, 32, .rw, 0, .le 999999999⟩], [⟨0, 32, .rw, 0, .any⟩], [⟨0, 16, .rw, 0, .any⟩]], false⟩] ++
  -- CMT_STATUS (21 R508)
  [⟨0x14, 0x4, 1, roWords 1 .ro, false⟩] ++
  -- CMT_SET_INFO, CMT_APPLY_SEQ (21 R508)
  [⟨0x808, 0x8, 1, roWords 2 .ro, false⟩] ++
  -- CMT_SET, CMT_SET_Q (21 R508)
  [⟨0xF00, 0x8, 1, roWords 2 .wo, false⟩] ++
  -- CMT_SET_RD (21 R508)
  [⟨0xF08, 0x4, 1, roWords 1 .ro, false⟩] ++
  -- CMT_GO (21 R508)
  [⟨0xF20, 0x4, 1, roWords 1 .wo, false⟩]

/-- The registers of the EVH page. -/
def regsEvh : List RegDef :=
  -- EVH_ROUTE (21 R509)
  [⟨0x100, 0x4, 256, [[⟨0, 11, .stg, 0, .any⟩, ⟨11, 1, .stg, 0, .any⟩, ⟨12, 1, .stg, 0, .any⟩]], true⟩] ++
  -- EVH_PENDING (21 R509)
  [⟨0x808, 0x20, 1, roWords 8 .ro, false⟩]

/-- The registers of the SDL page. -/
def regsSdl : List RegDef :=
  -- SDL_CFG (08 R212)
  [⟨0x100, 0x4, 1, [[⟨0, 1, .stg, 0, .any⟩, ⟨1, 1, .stg, 0, .any⟩, ⟨2, 1, .stg, 1, .any⟩, ⟨3, 10, .stg, 0x3E8, .range 1 1000⟩, ⟨13, 16, .stg, 0x1C20, .any⟩]], true⟩] ++
  -- SDL_SWITCH_MAX (08 R212)
  [⟨0x104, 0x4, 1, [[⟨0, 20, .stg, 0x5DC, .any⟩]], true⟩] ++
  -- SDL_DOM (08 R212)
  [⟨0x120, 0x40, 2, [[⟨0, 2, .stg, 0, .enum 2⟩, ⟨2, 2, .stg, 0, .enum 2⟩, ⟨4, 8, .stg, 0x18, .any⟩, ⟨12, 4, .stg, 0, .any⟩, ⟨16, 2, .stg, 0, .any⟩, ⟨18, 3, .stg, 2, .enum 5⟩, ⟨21, 1, .stg, 1, .any⟩], [⟨0, 8, .stg, 0xFC, .negTo 7⟩, ⟨8, 8, .stg, 0xFC, .negTo 7⟩, ⟨16, 8, .stg, 0xFD, .negTo 3⟩], [⟨0, 20, .stg, 0x64, .any⟩], [⟨0, 32, .stg, 0, .any⟩], [⟨0, 32, .stg, 0, .any⟩], [⟨0, 32, .stg, 0, .any⟩], [⟨0, 32, .stg, 0, .any⟩], [⟨0, 12, .stg, 0, .any⟩, ⟨12, 3, .stg, 0, .any⟩, ⟨15, 1, .stg, 0, .any⟩], [⟨0, 32, .stg, 0, .any⟩], [⟨0, 16, .stg, 0, .any⟩], [⟨0, 20, .stg, 0, .any⟩]], true⟩] ++
  -- SDL_PORT_ASYM (08 R212)
  [⟨0x200, 0x4, 16, [[⟨0, 16, .stg, 0, .any⟩, ⟨16, 16, .stg, 0, .any⟩]], true⟩] ++
  -- SDL_GRID (08 R212)
  [⟨0x240, 0x8, 1, [[⟨0, 24, .stg, 0, .le 12287999⟩], [⟨0, 16, .stg, 0, .any⟩]], true⟩] ++
  -- SDL_PPS_OUT (08 R212)
  [⟨0x250, 0x4, 1, [[⟨0, 1, .stg, 0, .any⟩, ⟨1, 1, .stg, 0, .any⟩, ⟨2, 20, .stg, 0, .any⟩, ⟨22, 10, .stg, 0x64, .range 1 999⟩]], true⟩] ++
  -- SDL_SYNCE (08 R212)
  [⟨0x260, 0x4, 2, [[⟨0, 5, .stg, 0, .le 17⟩, ⟨5, 1, .stg, 0, .any⟩, ⟨6, 1, .stg, 0, .any⟩, ⟨7, 1, .stg, 1, .any⟩]], true⟩] ++
  -- SDL_STATUS (08 R212)
  [⟨0x14, 0x4, 1, roWords 1 .ro, false⟩] ++
  -- SDL_SNAP_TIME (08 R212)
  [⟨0x840, 0x70, 1, roWords 28 .snp, false⟩] ++
  -- SDL_CAL (08 R212)
  [⟨0x810, 0x4, 1, roWords 1 .ro, false⟩] ++
  -- SDL_SAMPLE_IN (08 R212)
  [⟨0xF00, 0xC, 1, roWords 3 .wo, false⟩]

/-- The registers of the TRN page. -/
def regsTrn : List RegDef :=
  -- TRN_CFG (09 R239)
  [⟨0x100, 0x4, 1, [[⟨0, 10, .stg, 0x1E, .range 10 500⟩, ⟨10, 4, .stg, 0, .enum 8⟩, ⟨14, 4, .stg, 0, .enum 8⟩, ⟨18, 4, .stg, 0, .enum 8⟩, ⟨22, 4, .stg, 0, .enum 8⟩]], true⟩] ++
  -- TRN_LANE_MAP (09 R239)
  [⟨0x110, 0x4, 4, [[⟨0, 5, .stg, 0, .le 17⟩, ⟨8, 5, .stg, 1, .le 17⟩, ⟨16, 5, .stg, 2, .le 17⟩, ⟨24, 5, .stg, 3, .le 17⟩]], true⟩] ++
  -- TRN_PORT (09 R239)
  [⟨0x200, 0x10, 16, [[⟨0, 3, .stg, 0, .any⟩, ⟨3, 14, .stg, 0x2400, .range 64 9216⟩, ⟨17, 1, .stg, 1, .any⟩, ⟨18, 1, .stg, 0, .any⟩], [⟨0, 8, .stg, 0, .any⟩, ⟨8, 16, .stg, 0xFFFF, .any⟩], [⟨0, 10, .stg, 0x28, .any⟩]], true⟩] ++
  -- TRN_STATUS (09 R239)
  [⟨0x14, 0x4, 1, roWords 1 .ro, false⟩] ++
  -- TRN_UNQUAR (09 R239)
  [⟨0xF00, 0x4, 1, roWords 1 .wo, false⟩]

/-- The registers of the TRNRU page. -/
def regsTrnRu : List RegDef :=
  -- TRN_RU (09 R240)
  [⟨0x100, 0x20, 48, [[⟨0, 1, .stg, 0, .any⟩, ⟨1, 4, .stg, 0, .any⟩, ⟨5, 3, .stg, 0, .any⟩, ⟨8, 1, .stg, 0, .any⟩, ⟨9, 12, .stg, 0, .any⟩, ⟨21, 1, .stg, 0, .any⟩, ⟨22, 1, .stg, 0, .any⟩, ⟨23, 1, .stg, 0, .any⟩], [⟨0, 32, .stg, 0, .any⟩], [⟨0, 16, .stg, 0, .any⟩], [⟨0, 12, .stg, 0, .any⟩, ⟨12, 12, .stg, 0x1C2, .any⟩], [⟨0, 12, .stg, 0x5DC, .any⟩, ⟨12, 12, .stg, 0x320, .any⟩], [⟨0, 12, .stg, 0xBB8, .any⟩, ⟨12, 12, .stg, 0x4B0, .any⟩, ⟨24, 2, .stg, 0, .any⟩, ⟨26, 2, .stg, 0, .any⟩, ⟨28, 2, .stg, 1, .any⟩], [⟨0, 16, .stg, 0, .any⟩, ⟨16, 4, .stg, 2, .any⟩, ⟨20, 12, .stg, 0x7D0, .any⟩], [⟨0, 10, .stg, 0, .any⟩, ⟨10, 10, .stg, 0, .any⟩, ⟨20, 10, .stg, 0, .any⟩]], true⟩] ++
  -- TRN_RU_Q (09 R240)
  [⟨0xF00, 0x4, 1, roWords 1 .wo, false⟩] ++
  -- TRN_RU_RD (09 R240)
  [⟨0xF04, 0x40, 1, roWords 16 .snp, false⟩]

/-- The registers of the TRNGRID page. -/
def regsTrnGrid : List RegDef :=
  -- TRN_GRID (09 R241)
  [⟨0x100, 0x20, 32, [[⟨0, 1, .stg, 0, .any⟩, ⟨1, 1, .stg, 0, .any⟩, ⟨2, 2, .stg, 0, .any⟩, ⟨4, 9, .stg, 0x111, .range 1 275⟩, ⟨13, 5, .stg, 0, .any⟩, ⟨18, 3, .stg, 0, .any⟩, ⟨21, 3, .stg, 0, .any⟩, ⟨24, 1, .stg, 0, .any⟩, ⟨25, 1, .stg, 0, .any⟩], [⟨0, 8, .stg, 0, .any⟩, ⟨8, 8, .stg, 0, .any⟩, ⟨16, 14, .stg, 0, .any⟩], [⟨0, 9, .stg, 0, .any⟩, ⟨9, 9, .stg, 0, .any⟩, ⟨18, 9, .stg, 0, .any⟩], [⟨0, 9, .stg, 0, .any⟩, ⟨9, 9, .stg, 0, .any⟩, ⟨18, 9, .stg, 0, .any⟩], [⟨0, 9, .stg, 0, .any⟩]], true⟩]

/-- The registers of the TRNFLOW page. -/
def regsTrnFlow : List RegDef :=
  -- TRN_FLOW (09 R241)
  [⟨0x100, 0x8, 128, [[⟨0, 1, .stg, 0, .any⟩, ⟨1, 16, .stg, 0, .any⟩, ⟨17, 6, .stg, 0, .any⟩, ⟨23, 1, .stg, 0, .any⟩, ⟨24, 2, .stg, 0, .enum 2⟩], [⟨0, 5, .stg, 0, .any⟩, ⟨5, 5, .stg, 0, .any⟩, ⟨10, 1, .stg, 0, .any⟩, ⟨11, 8, .stg, 0, .any⟩]], true⟩] ++
  -- TRN_FLOW_STATE (09 R241)
  [⟨0x810, 0x10, 1, roWords 4 .ro, false⟩]

/-- The registers of the IRG page. -/
def regsIrg : List RegDef :=
  -- IRG_CFG (07 R187)
  [⟨0x100, 0x4, 1, [[⟨0, 4, .stg, 5, .enumRange 1 8⟩, ⟨4, 1, .stg, 1, .any⟩]], true⟩] ++
  -- IRG_SPILL (07 R188)
  [⟨0x200, 0x8, 16, [[⟨0, 24, .stg, 0, .any⟩], [⟨0, 24, .stg, 0, .any⟩]], true⟩] ++
  -- IRG_WM (07 R188)
  [⟨0x300, 0x4, 46, [[⟨0, 12, .stg, 0, .any⟩, ⟨12, 12, .stg, 0, .any⟩, ⟨24, 1, .stg, 0, .any⟩]], true⟩] ++
  -- IRG_FC_MAP (07 R188)
  [⟨0x400, 0x8, 4, [[⟨0, 32, .stg, 0, .any⟩], [⟨0, 14, .stg, 0, .any⟩, ⟨16, 1, .stg, 0, .any⟩, ⟨17, 1, .stg, 0, .any⟩]], true⟩] ++
  -- IRG_STATUS (07 R187)
  [⟨0x14, 0x4, 1, roWords 1 .ro, false⟩] ++
  -- IRG_FRW_Q (07 R187)
  [⟨0xF00, 0x4, 1, roWords 1 .wo, false⟩] ++
  -- IRG_FRW_STATE, CURSOR, DRY (07 R187)
  [⟨0xF04, 0xC, 1, roWords 3 .ro, false⟩] ++
  -- IRG_WM_STATE, IRG_TAG_FREE (07 R188)
  [⟨0x808, 0xC, 1, roWords 3 .ro, false⟩]

/-- The registers of the BTP page. -/
def regsBtp : List RegDef :=
  -- BTP_SPARE_MAP (03 R94)
  [⟨0x100, 0x4, 1, [[⟨0, 1, .stg, 0, .any⟩, ⟨1, 9, .stg, 0, .enumOr 255 257⟩, ⟨16, 1, .stg, 0, .any⟩, ⟨17, 9, .stg, 0, .enumOr 255 257⟩]], true⟩] ++
  -- BTP_STATUS (03 R93)
  [⟨0x14, 0x4, 1, roWords 1 .ro, false⟩] ++
  -- BTP_NUM_ACTIVE, BTP_WIN_POS, BTP_TILE_TAG, BTP_LOCALISE (02 R67, 03 R94)
  [⟨0x800, 0x10, 1, roWords 4 .ro, false⟩]

/-- The registers of the SIV page. -/
def regsSiv : List RegDef :=
  -- SIV_NUM_CFG (02 R68)
  [⟨0x100, 0x4, 1, [[⟨0, 1, .stg, 1, .any⟩, ⟨1, 1, .stg, 0, .any⟩]], true⟩] ++
  -- SIV_SCALE_DEF (02 R68)
  [⟨0x400, 0x4, 256, [[⟨0, 32, .stg, 0x3F800000, .any⟩]], false⟩] ++
  -- SIV_STATUS (04 R116)
  [⟨0x14, 0x4, 1, roWords 1 .ro, false⟩] ++
  -- SIV_SCALE_ACT (02 R68)
  [⟨0xA00, 0x4, 256, roWords 1 .ro, false⟩]

/-- The registers of the STO page. -/
def regsSto : List RegDef :=
  -- STO_SCRUB_CFG (06 R160)
  [⟨0x100, 0x4, 1, [[⟨0, 4, .stg, 4, .enum 10⟩, ⟨4, 1, .stg, 1, .any⟩]], true⟩] ++
  -- STO_REPAIR (06 R160)
  [⟨0x120, 0x4, 1, [[⟨0, 7, .stg, 0, .any⟩, ⟨7, 2, .stg, 0, .any⟩, ⟨9, 1, .stg, 0, .any⟩, ⟨10, 12, .stg, 0, .any⟩]], true⟩] ++
  -- STO_WIN (06 R160)
  [⟨0x200, 0x20, 32, [[⟨0, 1, .stg, 0, .any⟩, ⟨1, 6, .stg, 0, .any⟩, ⟨7, 3, .stg, 0, .any⟩, ⟨10, 1, .stg, 0, .any⟩], [⟨0, 17, .stg, 0, .any⟩, ⟨31, 1, .stg, 0, .any⟩], [⟨0, 18, .stg, 0, .le 131072⟩], [⟨0, 19, .stg, 0, .any⟩], [⟨0, 20, .stg, 0, .le 327680⟩], [⟨0, 16, .stg, 0, .any⟩], [⟨0, 17, .stg, 0, .le 65536⟩], []], true⟩] ++
  -- STO_STATUS (06 R160)
  [⟨0x14, 0x4, 1, roWords 1 .ro, false⟩] ++
  -- STO_RACE_INFO, STO_ECC_INFO, STO_OOB_INFO (06 R160)
  [⟨0x808, 0xC, 1, roWords 3 .ro, false⟩] ++
  -- STO_WIN_STATE (06 R160)
  [⟨0x818, 0x8, 1, roWords 2 .ro, false⟩] ++
  -- STO_REPAIR_Q (06 R160)
  [⟨0xF00, 0x4, 1, roWords 1 .wo, false⟩] ++
  -- STO_REPAIR_R0, R1 (06 R160)
  [⟨0xF04, 0x8, 1, roWords 2 .ro, false⟩] ++
  -- STO_RELEASE (06 R160)
  [⟨0xF10, 0x4, 1, roWords 1 .wo, false⟩]

/-- The registers of the PACE page. -/
def regsPace : List RegDef :=
  -- PWR_PACE_FLOOR (19 R474)
  [⟨0x100, 0x4, 1, [[⟨0, 11, .stg, 0, .any⟩]], true⟩] ++
  -- PWR_PACE (19 R474)
  [⟨0x808, 0x4, 1, roWords 1 .ro, false⟩] ++
  -- PWR_AGE (19 R474)
  [⟨0x810, 0x18, 1, roWords 6 .ro, false⟩]

/-- The registers of the BED page. -/
def regsBed : List RegDef :=
  -- BED_SERVE (05 R139)
  [⟨0x100, 0x4, 1, [[⟨0, 4, .stg, 0, .any⟩, ⟨4, 1, .stg, 0, .any⟩]], true⟩] ++
  -- BED_LATE_START (05 R139)
  [⟨0x104, 0x4, 1, [[⟨0, 16, .stg, 0, .any⟩, ⟨16, 12, .stg, 0, .any⟩, ⟨28, 4, .stg, 0, .any⟩]], true⟩] ++
  -- BED_STATUS (05 R139)
  [⟨0x14, 0x4, 1, roWords 1 .ro, false⟩] ++
  -- BED_SPROUT_STATE (05 R139)
  [⟨0x808, 0x4, 1, roWords 1 .ro, false⟩]

/-- The registers of the THR page. -/
def regsThr : List RegDef :=
  -- THR_SERVE (10 R269)
  [⟨0x100, 0x4, 1, [[⟨0, 3, .stg, 0, .enum 4⟩, ⟨3, 3, .stg, 1, .enum 4⟩, ⟨6, 3, .stg, 2, .enum 4⟩, ⟨9, 3, .stg, 3, .enum 4⟩, ⟨12, 1, .stg, 1, .any⟩, ⟨13, 1, .stg, 1, .any⟩, ⟨14, 1, .stg, 1, .any⟩, ⟨15, 1, .stg, 1, .any⟩]], true⟩] ++
  -- THR_STATUS (10 R269)
  [⟨0x14, 0x4, 1, roWords 1 .ro, false⟩] ++
  -- THR_UNIT_STATE (10 R269)
  [⟨0x808, 0x4, 1, roWords 1 .ro, false⟩]

/-- The registers of the DDR page. -/
def regsDdr : List RegDef :=
  -- DDR_CFG (18 R453)
  [⟨0x100, 0x4, 1, [[⟨0, 8, .stg, 0x18, .any⟩, ⟨8, 1, .stg, 1, .any⟩]], true⟩] ++
  -- DDR_REMAP (18 R453)
  [⟨0x120, 0x4, 1, [[⟨0, 20, .stg, 0, .any⟩, ⟨20, 1, .stg, 0, .any⟩]], true⟩] ++
  -- DDR_SBA (18 R453)
  [⟨0x200, 0x8, 8, [[⟨0, 24, .stg, 0, .any⟩, ⟨24, 3, .stg, 0, .any⟩, ⟨31, 1, .stg, 0, .any⟩], [⟨0, 24, .stg, 0, .any⟩]], true⟩] ++
  -- DDR_STATUS (18 R453)
  [⟨0x14, 0x4, 1, roWords 1 .ro, false⟩] ++
  -- DDR_CAP (18 R453)
  [⟨0x808, 0x8, 1, roWords 2 .ro, false⟩] ++
  -- DDR_CH_Q (18 R453)
  [⟨0xF00, 0x4, 1, roWords 1 .wo, false⟩] ++
  -- DDR_CH_RD (18 R453)
  [⟨0xF04, 0x4, 1, roWords 1 .ro, false⟩]

/-- The registers of the PSF page. -/
def regsPsf : List RegDef :=
  -- PSF_CFG (14 R355)
  [⟨0x100, 0x4, 1, [[⟨0, 1, .stg, 0, .any⟩, ⟨1, 1, .stg, 0, .any⟩]], true⟩] ++
  -- PSF_LANE_MAP (14 R355)
  [⟨0x110, 0x4, 2, [[⟨0, 3, .stg, 0, .any⟩, ⟨3, 1, .stg, 0, .any⟩]], true⟩] ++
  -- PSF_PART (14 R355)
  [⟨0x200, 0x10, 8, [[⟨0, 1, .stg, 1, .any⟩, ⟨1, 6, .stg, 0, .any⟩], [⟨0, 24, .stg, 0, .any⟩], [⟨0, 24, .stg, 0, .any⟩]], true⟩] ++
  -- PSF_KEYSLOT (14 R355)
  [⟨0x300, 0x4, 64, [[⟨0, 1, .stg, 0, .any⟩, ⟨1, 3, .stg, 0, .any⟩, ⟨4, 10, .stg, 0, .any⟩]], true⟩] ++
  -- PSF_STATUS (14 R355)
  [⟨0x14, 0x4, 1, roWords 1 .ro, false⟩] ++
  -- PSF_ROUTE (14 R355)
  [⟨0x808, 0x4, 1, roWords 1 .ro, false⟩] ++
  -- PSF_CMD (14 R355)
  [⟨0xF00, 0x4, 1, roWords 1 .wo, false⟩]

/-- The registers of the HST page. -/
def regsHst : List RegDef :=
  -- HST_CTX (17 R435)
  [⟨0x200, 0x14, 64, [[⟨0, 32, .stg, 0, .any⟩], [⟨0, 4, .stg, 0, .any⟩, ⟨4, 12, .stg, 3, .any⟩, ⟨16, 10, .stg, 0xFA, .any⟩, ⟨26, 6, .stg, 0xF, .any⟩], [⟨0, 32, .stg, 0, .any⟩], [⟨0, 4, .stg, 0, .any⟩, ⟨4, 16, .stg, 0xFF, .any⟩, ⟨20, 11, .stg, 0, .any⟩, ⟨31, 1, .stg, 0, .any⟩], [⟨0, 16, .stg, 0x64, .range 1 65535⟩]], true⟩] ++
  -- HST_STATUS (17 R435)
  [⟨0x14, 0x4, 1, roWords 1 .ro, false⟩]

/-- The registers of the HSTFN page. -/
def regsHstFn : List RegDef :=
  -- HST_FN_CFG (17 R436)
  [⟨0x100, 0x10, 1, [[⟨0, 10, .stg, 0, .any⟩, ⟨10, 10, .stg, 0x300, .any⟩], [⟨0, 32, .stg, 0, .any⟩], [⟨0, 4, .stg, 0, .any⟩, ⟨4, 16, .stg, 0, .any⟩]], true⟩] ++
  -- HST_WIN (17 R436)
  [⟨0x200, 0x10, 64, [[⟨0, 1, .stg, 0, .any⟩, ⟨1, 1, .stg, 0, .any⟩, ⟨12, 20, .stg, 0, .any⟩], [⟨0, 32, .stg, 0, .any⟩], [⟨0, 23, .stg, 0, .le 0x400000⟩], []], true⟩] ++
  -- HST_COPY (17 R436)
  [⟨0xF00, 0x14, 1, roWords 5 .wo, false⟩] ++
  -- HST_COPY_STATUS (17 R436)
  [⟨0xF14, 0x4, 1, roWords 1 .ro, false⟩]

/-- The registers of the SEC page. -/
def regsSec : List RegDef :=
  -- SEC_PART (15 R383)
  [⟨0x100, 0x40, 8, [[⟨0, 1, .stg, 0, .any⟩, ⟨1, 8, .stg, 0, .any⟩, ⟨9, 4, .stg, 0, .enum 8⟩, ⟨13, 1, .stg, 0, .any⟩, ⟨14, 9, .stg, 0, .le 256⟩, ⟨23, 7, .stg, 0, .le 64⟩], [⟨0, 10, .stg, 0, .any⟩, ⟨10, 11, .stg, 0, .le 1024⟩], [⟨0, 24, .stg, 0, .any⟩], [⟨0, 24, .stg, 0, .any⟩], [⟨0, 24, .stg, 0, .any⟩], [⟨0, 24, .stg, 0, .any⟩], [⟨0, 24, .stg, 0, .any⟩], [⟨0, 24, .stg, 0, .any⟩], [⟨0, 24, .stg, 0, .any⟩], [⟨0, 24, .stg, 0, .any⟩]], true⟩] ++
  -- SEC_STATUS (15 R383)
  [⟨0x14, 0x4, 1, roWords 1 .ro, false⟩] ++
  -- SEC_PART_STATE (15 R383)
  [⟨0x808, 0x4, 1, roWords 1 .ro, false⟩] ++
  -- SEC_PUF_STAT (15 R383)
  [⟨0x810, 0x4, 1, roWords 1 .ro, false⟩] ++
  -- SEC_DBG_CHAIN (15 R383)
  [⟨0x820, 0x20, 1, roWords 8 .ro, false⟩] ++
  -- SEC_CMD (15 R383)
  [⟨0xF00, 0x4, 1, roWords 1 .wo, false⟩] ++
  -- SEC_KEY_CMD, SEC_KEY_SRC (15 R383)
  [⟨0xF10, 0xC, 1, roWords 3 .wo, false⟩] ++
  -- SEC_KEY_RESULT, SEC_KEY_JOB (15 R383)
  [⟨0xF1C, 0x8, 1, roWords 2 .ro, false⟩]

/-- The registers of the RMS page. -/
def regsRms : List RegDef :=
  -- RMS_CFG (11 R303)
  [⟨0x100, 0x4, 1, [[⟨0, 12, .stg, 0x100, .range 1 4095⟩]], true⟩] ++
  -- RMS_CTX (11 R303)
  [⟨0x200, 0x10, 64, [[⟨0, 1, .stg, 0, .any⟩, ⟨1, 3, .stg, 0, .any⟩, ⟨4, 1, .stg, 0, .any⟩, ⟨5, 1, .stg, 0, .any⟩, ⟨6, 1, .stg, 0, .any⟩, ⟨7, 2, .stg, 0, .any⟩, ⟨9, 1, .stg, 0, .any⟩, ⟨10, 10, .stg, 1, .any⟩, ⟨20, 12, .stg, 0x3E8, .any⟩], [⟨0, 24, .stg, 0, .any⟩, ⟨24, 8, .stg, 0, .any⟩], [⟨0, 24, .stg, 0, .any⟩], [⟨0, 16, .stg, 0, .any⟩, ⟨16, 16, .stg, 0, .any⟩]], true⟩] ++
  -- RMS_GH_CFG (12 R320)
  [⟨0x600, 0x4, 1, [[⟨0, 10, .stg, 0x3E8, .any⟩, ⟨10, 12, .stg, 0x100, .range 1 4095⟩, ⟨22, 10, .stg, 0xA, .le 1000⟩]], true⟩] ++
  -- RMS_GH_CTX (12 R320)
  [⟨0x608, 0x4, 2, [[⟨0, 32, .stg, 0, .any⟩]], true⟩] ++
  -- RMS_GH_PLACE (12 R320)
  [⟨0x610, 0x4, 2, [[⟨0, 32, .stg, 0, .any⟩]], true⟩] ++
  -- RMS_GH_LIBSEL (12 R320)
  [⟨0x618, 0x4, 2, [[⟨0, 32, .stg, 0, .any⟩]], true⟩] ++
  -- RMS_GH_PROB (12 R320)
  [⟨0x620, 0x4, 1, [[⟨0, 16, .stg, 0x7D0, .any⟩, ⟨16, 10, .stg, 0x32, .any⟩, ⟨26, 1, .stg, 1, .any⟩]], true⟩] ++
  -- RMS_GH_WREG (12 R320)
  [⟨0x640, 0x8, 8, [[⟨0, 24, .stg, 0, .any⟩, ⟨24, 6, .stg, 0, .any⟩, ⟨30, 1, .stg, 0, .any⟩, ⟨31, 1, .stg, 0, .any⟩], [⟨0, 24, .stg, 0, .any⟩]], true⟩] ++
  -- RMS_PROV_TAG (13 R339)
  [⟨0x680, 0x4, 2, [[⟨0, 32, .stg, 0, .any⟩]], true⟩] ++
  -- RMS_PROV_LOCK (13 R339)
  [⟨0x688, 0x4, 2, [[⟨0, 32, .stg, 0, .any⟩]], true⟩] ++
  -- RMS_PROV_REPLAY (13 R339)
  [⟨0x690, 0x4, 2, [[⟨0, 32, .stg, 0, .any⟩]], true⟩] ++
  -- RMS_WSET (13 R339)
  [⟨0x6A0, 0x8, 8, [[⟨0, 24, .stg, 0, .any⟩, ⟨24, 6, .stg, 0, .any⟩, ⟨30, 1, .stg, 0, .any⟩, ⟨31, 1, .stg, 0, .any⟩], [⟨0, 24, .stg, 0, .any⟩]], true⟩] ++
  -- RMS_CAP (13 R339)
  [⟨0x6E0, 0x8, 1, [[⟨0, 24, .stg, 0, .any⟩, ⟨24, 6, .stg, 0, .any⟩], [⟨0, 24, .stg, 0, .any⟩]], true⟩] ++
  -- RMS_CTX_STATE (11 R303)
  [⟨0x808, 0x20, 1, roWords 8 .ro, false⟩] ++
  -- RMS_SLOT_Q (11 R303)
  [⟨0xF00, 0x4, 1, roWords 1 .wo, false⟩] ++
  -- RMS_SLOT_RD (11 R303)
  [⟨0xF04, 0x4, 1, roWords 1 .ro, false⟩] ++
  -- RMS_ACCT_Q (11 R303)
  [⟨0xF10, 0x4, 1, roWords 1 .wo, false⟩] ++
  -- RMS_ACCT_LO, HI, EPOCH (11 R303)
  [⟨0xF14, 0xC, 1, roWords 3 .snp, false⟩] ++
  -- RMS_LIB_CMD (11 R303)
  [⟨0xF20, 0x4, 1, roWords 1 .wo, false⟩] ++
  -- RMS_LIB_RESULT (11 R303)
  [⟨0xF24, 0x4, 1, roWords 1 .ro, false⟩] ++
  -- RMS_CTX_CMD (11 R303)
  [⟨0xF30, 0x4, 1, roWords 1 .wo, false⟩] ++
  -- RMS_GH_EVAL_Q (12 R320)
  [⟨0xF40, 0x4, 1, roWords 1 .wo, false⟩] ++
  -- RMS_GH_EVAL_RD (12 R320)
  [⟨0xF44, 0x10, 1, roWords 4 .ro, false⟩] ++
  -- RMS_CAP_CMD (13 R339)
  [⟨0xF60, 0x4, 1, roWords 1 .wo, false⟩] ++
  -- RMS_CAP_RESULT (13 R339)
  [⟨0xF64, 0x4, 1, roWords 1 .ro, false⟩] ++
  -- RMS_WSET_CMD (13 R339)
  [⟨0xF70, 0x4, 1, roWords 1 .wo, false⟩] ++
  -- RMS_WSET_RD, RMS_WSET_HASH (13 R339)
  [⟨0xF74, 0x24, 1, roWords 9 .ro, false⟩]

/-- The registers of the TRP page. -/
def regsTrp : List RegDef :=
  -- TRP_CFG (11 R304)
  [⟨0x100, 0x4, 1, [[⟨0, 8, .stg, 0x14, .le 100⟩, ⟨8, 1, .stg, 1, .any⟩]], true⟩] ++
  -- TRP_LOG_BASE (11 R304)
  [⟨0x104, 0x4, 1, [[⟨0, 24, .stg, 0, .any⟩, ⟨24, 8, .stg, 0, .any⟩]], true⟩] ++
  -- TRP_LOG_WR (11 R304)
  [⟨0x810, 0x4, 1, roWords 1 .ro, false⟩] ++
  -- TRP_SLOT_Q (11 R304)
  [⟨0xF00, 0x4, 1, roWords 1 .wo, false⟩] ++
  -- TRP_SLOT_RD (11 R304)
  [⟨0xF04, 0x8, 1, roWords 2 .ro, false⟩]

/-- The registers of the RST page. -/
def regsRst : List RegDef :=
  -- RST_STATUS (11 R305)
  [⟨0x14, 0x4, 1, roWords 1 .ro, false⟩] ++
  -- RST_CMD (11 R305)
  [⟨0xF00, 0x4, 1, roWords 1 .wo, false⟩] ++
  -- RST_CMD_STATUS (11 R305)
  [⟨0xF04, 0x4, 1, roWords 1 .ro, false⟩] ++
  -- RST_BUF (11 R305)
  [⟨0xF40, 0x4, 16, roWords 1 .wo, false⟩]

/-- The registers of the FLT page. -/
def regsFlt : List RegDef :=
  -- FLT_CFG (16 R412)
  [⟨0x100, 0x4, 1, [[⟨0, 10, .stg, 0x64, .any⟩, ⟨10, 8, .stg, 0x50, .any⟩, ⟨18, 8, .stg, 0x28, .any⟩]], true⟩] ++
  -- FLT_LOG_BASE (16 R412)
  [⟨0x104, 0x4, 1, [[⟨0, 24, .stg, 0, .any⟩, ⟨24, 8, .stg, 0, .any⟩]], true⟩] ++
  -- FLT_STATUS (16 R412)
  [⟨0x14, 0x4, 1, roWords 1 .ro, false⟩] ++
  -- FLT_LOG_WR (16 R412)
  [⟨0x810, 0x4, 1, roWords 1 .ro, false⟩] ++
  -- FLT_FLOOR (16 R412)
  [⟨0x808, 0x4, 1, roWords 1 .ro, false⟩] ++
  -- FLT_UNIT_Q (16 R412)
  [⟨0xF00, 0x4, 1, roWords 1 .wo, false⟩] ++
  -- FLT_UNIT_RD (16 R412)
  [⟨0xF04, 0x4, 1, roWords 1 .ro, false⟩]

/-- The registers of the PWR page. -/
def regsPwr : List RegDef :=
  -- PWR_CFG (19 R473)
  [⟨0x100, 0x4, 1, [[⟨0, 11, .stg, 0x320, .any⟩, ⟨11, 10, .stg, 0x154, .any⟩]], true⟩] ++
  -- PWR_DOM[0], PWR_DOM[1] (19 R473)
  [⟨0x110, 0x4, 2, [[⟨0, 2, .stg, 1, .enum 2⟩, ⟨2, 2, .stg, 1, .enum 2⟩, ⟨4, 2, .stg, 1, .enum 2⟩, ⟨6, 2, .stg, 1, .enum 2⟩, ⟨8, 2, .stg, 1, .enum 2⟩, ⟨10, 2, .stg, 1, .enum 2⟩, ⟨12, 2, .stg, 1, .enum 2⟩, ⟨14, 2, .stg, 1, .enum 2⟩, ⟨16, 2, .stg, 1, .enum 2⟩, ⟨18, 2, .stg, 1, .enum 2⟩, ⟨20, 2, .stg, 1, .enum 2⟩, ⟨22, 2, .stg, 1, .enum 2⟩, ⟨24, 2, .stg, 1, .enum 2⟩, ⟨26, 2, .stg, 1, .enum 2⟩, ⟨28, 2, .stg, 1, .enum 2⟩, ⟨30, 2, .stg, 1, .enum 2⟩]], true⟩] ++
  -- PWR_DOM[2] (19 R473)
  [⟨0x118, 0x4, 1, [[⟨0, 2, .stg, 1, .enum 2⟩, ⟨2, 2, .stg, 1, .enum 2⟩, ⟨4, 2, .stg, 1, .enum 2⟩, ⟨6, 2, .stg, 1, .enum 2⟩, ⟨8, 2, .stg, 1, .enum 2⟩, ⟨10, 2, .stg, 1, .enum 2⟩, ⟨12, 2, .stg, 1, .enum 2⟩, ⟨14, 2, .stg, 1, .enum 2⟩, ⟨16, 2, .stg, 1, .enum 2⟩, ⟨18, 2, .stg, 1, .enum 2⟩, ⟨20, 2, .stg, 1, .enum 2⟩, ⟨22, 2, .stg, 1, .enum 2⟩, ⟨24, 2, .stg, 1, .enum 2⟩]], true⟩] ++
  -- PWR_STATUS (19 R473)
  [⟨0x14, 0x4, 1, roWords 1 .ro, false⟩] ++
  -- PWR_DOM_STATE (19 R473)
  [⟨0x810, 0x10, 1, roWords 4 .ro, false⟩] ++
  -- PWR_VCORE, PWR_START (19 R473)
  [⟨0x820, 0x8, 1, roWords 2 .ro, false⟩] ++
  -- PWR_AGE_THR (19 R473)
  [⟨0x830, 0x8, 1, roWords 2 .ro, false⟩] ++
  -- PWR_TEMP_Q (19 R473)
  [⟨0xF00, 0x4, 1, roWords 1 .wo, false⟩] ++
  -- PWR_TEMP_RD (19 R473)
  [⟨0xF04, 0x4, 1, roWords 1 .ro, false⟩] ++
  -- PWR_CMD (19 R473)
  [⟨0xF10, 0x4, 1, roWords 1 .wo, false⟩]

/-- The registers of the GKP page. -/
def regsGkp : List RegDef :=
  -- GKP_STATUS (20 R485)
  [⟨0x14, 0x4, 1, roWords 1 .ro, false⟩] ++
  -- GKP_MB_CMD (20 R485)
  [⟨0xF00, 0x4, 1, roWords 1 .wo, false⟩] ++
  -- GKP_MB_RESULT (20 R485)
  [⟨0xF04, 0x4, 1, roWords 1 .ro, false⟩] ++
  -- GKP_MB_DATA (20 R485)
  [⟨0xF40, 0x4, 48, roWords 1 .rw, false⟩]

/-- The registers of a kind of page. -/
def regsOf : PageKind → List RegDef
  | .sys => regsSys
  | .cmt => regsCmt
  | .evh => regsEvh
  | .sdl => regsSdl
  | .trn => regsTrn
  | .trnRu => regsTrnRu
  | .trnGrid => regsTrnGrid
  | .trnFlow => regsTrnFlow
  | .irg => regsIrg
  | .btp => regsBtp
  | .siv => regsSiv
  | .sto => regsSto
  | .pace => regsPace
  | .bed => regsBed
  | .thr => regsThr
  | .ddr => regsDdr
  | .psf => regsPsf
  | .hst => regsHst
  | .hstFn => regsHstFn
  | .sec => regsSec
  | .rms => regsRms
  | .trp => regsTrp
  | .rst => regsRst
  | .flt => regsFlt
  | .pwr => regsPwr
  | .gkp => regsGkp

end Sys2Proof.Machine
end

