-- ==== Sys2Proof/Machine/Pages.lean ====
section
/-!
DEFINITION. The page map (21 R504 to R506): where each page lies in PF BAR0 and in VF BAR0, its block code, its event
source, its identity registers (21 R488), and how a register is found and a value checked.
-/

namespace Sys2Proof.Machine

/-- Number of a page in PF BAR0: its offset divided by 4,096 (21 R504, R505). -/
def pageNo (p : Page) : Nat :=
  match p.kind with
  | .sys => 0x0
  | .cmt => 0x1
  | .evh => 0x2
  | .sdl => 0x100
  | .trn => 0x200
  | .trnRu => 0x201
  | .trnGrid => 0x202
  | .trnFlow => 0x208 + p.inst
  | .irg => 0x400 + p.inst
  | .btp => 0x800 + 0x100 * p.inst
  | .siv => 0x801 + 0x100 * p.inst
  | .sto => 0x802 + 0x100 * p.inst
  | .pace => 0x803 + 0x100 * p.inst
  | .bed => 0x806 + 0x100 * (p.inst / 17) + p.inst % 17
  | .thr => 0x1000
  | .ddr => 0x1200
  | .psf => 0x1400
  | .hst => 0x1600
  | .hstFn => 0x1601 + p.inst
  | .sec => 0x1800
  | .rms => 0x1A00
  | .trp => 0x1A01
  | .rst => 0x1A02
  | .flt => 0x1C00
  | .pwr => 0x1E00
  | .gkp => 0x1E01

/-- The page `j` of the window of Plot `n` (21 R505). The second place of the Irrigator's page answers as that page. -/
def plotPage (n j : Nat) : Option Page :=
  if j = 0 then some ⟨.btp, n⟩
  else if j = 1 then some ⟨.siv, n⟩
  else if j = 2 then some ⟨.sto, n⟩
  else if j = 3 then some ⟨.pace, n⟩
  else if j = 4 then some ⟨.irg, n⟩
  else if 6 ≤ j ∧ j ≤ 22 then some ⟨.bed, 17 * n + (j - 6)⟩
  else none

/-- The page that a page number of PF BAR0 names (21 R504). -/
def pfPage (no : Nat) : Option Page :=
  if no = 0x0 then some ⟨.sys, 0⟩
  else if no = 0x1 then some ⟨.cmt, 0⟩
  else if no = 0x2 then some ⟨.evh, 0⟩
  else if no = 0x100 then some ⟨.sdl, 0⟩
  else if no = 0x200 then some ⟨.trn, 0⟩
  else if no = 0x201 then some ⟨.trnRu, 0⟩
  else if no = 0x202 then some ⟨.trnGrid, 0⟩
  else if 0x208 ≤ no ∧ no ≤ 0x20F then some ⟨.trnFlow, no - 0x208⟩
  else if 0x400 ≤ no ∧ no ≤ 0x408 then some ⟨.irg, no - 0x400⟩
  else if 0x800 ≤ no ∧ no < 0x1000 then plotPage ((no - 0x800) / 0x100) (no % 0x100)
  else if no = 0x1000 then some ⟨.thr, 0⟩
  else if no = 0x1200 then some ⟨.ddr, 0⟩
  else if no = 0x1400 then some ⟨.psf, 0⟩
  else if no = 0x1600 then some ⟨.hst, 0⟩
  else if 0x1601 ≤ no ∧ no ≤ 0x1609 then some ⟨.hstFn, no - 0x1601⟩
  else if no = 0x1800 then some ⟨.sec, 0⟩
  else if no = 0x1A00 then some ⟨.rms, 0⟩
  else if no = 0x1A01 then some ⟨.trp, 0⟩
  else if no = 0x1A02 then some ⟨.rst, 0⟩
  else if no = 0x1C00 then some ⟨.flt, 0⟩
  else if no = 0x1E00 then some ⟨.pwr, 0⟩
  else if no = 0x1E01 then some ⟨.gkp, 0⟩
  else none

/-- The page that a page number of the BAR0 of VF `k` + 1 names (21 R506). -/
def vfPage (k no : Nat) : Option Page :=
  if no = 0x0 then some ⟨.sys, 0⟩
  else if no = 0x1 then some ⟨.cmt, 0⟩
  else if no = 0x2 then some ⟨.evh, 0⟩
  else if no = 0x3 then some ⟨.sdl, 0⟩
  else if no = 0x4 then some ⟨.trn, 0⟩
  else if no = 0x5 then some ⟨.trnRu, 0⟩
  else if no = 0x6 then some ⟨.trnGrid, 0⟩
  else if 0x8 ≤ no ∧ no ≤ 0xF then some ⟨.trnFlow, no - 0x8⟩
  else if no = 0x10 then some ⟨.rms, 0⟩
  else if no = 0x11 then some ⟨.trp, 0⟩
  else if no = 0x12 then some ⟨.rst, 0⟩
  else if no = 0x13 then some ⟨.sec, 0⟩
  else if no = 0x14 then some ⟨.hst, 0⟩
  else if no = 0x15 then some ⟨.hstFn, k + 1⟩
  else if no = 0x16 then some ⟨.pwr, 0⟩
  else if no = 0x17 then some ⟨.thr, 0⟩
  else if 0x60 ≤ no ∧ no < 0xA0 ∧ no % 8 ≤ 4 then plotPage ((no - 0x60) / 8) (no % 8)
  else none

/-- The page that a page number of the writer's own BAR0 names; Groundskeeper uses the offsets of PF BAR0 (01 R29). -/
def viewPage (v : View) (no : Nat) : Option Page :=
  match v with
  | .pf => pfPage no
  | .gk => pfPage no
  | .vf k => vfPage k.val no

/-- Whether an offset lies in the Roster table (21 R504, R506), which is read-only and has no common registers. -/
def inRoster (v : View) (off : Nat) : Bool :=
  match v with
  | .vf _ => decide (0x20000 ≤ off ∧ off < 0x60000)
  | _ => decide (0x1A40000 ≤ off ∧ off < 0x1A80000)

/-- Whether the page number of a BAR0 names a Plot's second place of its Irrigator page (21 R505). -/
def isSecondNo (v : View) (no : Nat) : Bool :=
  match v with
  | .vf _ => decide (0x60 ≤ no ∧ no < 0xA0 ∧ no % 8 = 4)
  | _ => decide (0x800 ≤ no ∧ no < 0x1000 ∧ no % 0x100 = 4)

/-- Address of a register of a page in PF BAR0; the key of every register map. -/
def regAddr (p : Page) (off : Nat) : Nat := pageNo p * 4096 + off

/-- Block code of a page (21 R504, R505). -/
def blockCode : PageKind → Nat
  | .sys => 0x01 | .cmt => 0x02 | .evh => 0x03 | .sdl => 0x04 | .trn => 0x05 | .trnRu => 0x05 | .trnGrid => 0x05
  | .trnFlow => 0x05 | .irg => 0x06 | .btp => 0x07 | .siv => 0x08 | .sto => 0x09 | .pace => 0x14 | .bed => 0x0A
  | .thr => 0x0E | .ddr => 0x0F | .psf => 0x10 | .hst => 0x11 | .hstFn => 0x11 | .sec => 0x12 | .rms => 0x0B
  | .trp => 0x0D | .rst => 0x0C | .flt => 0x13 | .pwr => 0x14 | .gkp => 0x15

/-- Event source index of a page (21 R504, R505). -/
def pageSource (p : Page) : Nat :=
  match p.kind with
  | .sys => 0 | .cmt => 1 | .evh => 2 | .sdl => 3 | .trn => 4 | .trnRu => 5 | .trnGrid => 6
  | .trnFlow => 7 + p.inst
  | .irg => 16 + p.inst
  | .btp => 48 + 24 * p.inst
  | .siv => 49 + 24 * p.inst
  | .sto => 50 + 24 * p.inst
  | .pace => 51 + 24 * p.inst
  | .bed => 52 + 24 * (p.inst / 17) + p.inst % 17
  | .thr => 25 | .ddr => 26 | .psf => 27 | .hst => 28
  | .hstFn => 29 + p.inst
  | .sec => 38 | .rms => 39 | .trp => 40 | .rst => 41 | .flt => 42 | .pwr => 43 | .gkp => 44

/-- SUB of PAGE_ID (21 R488). -/
def pageSub (p : Page) (dup : Bool) : Nat :=
  match p.kind with
  | .trnRu => 1
  | .trnGrid => 2
  | .trnFlow => 3
  | .hstFn => 1
  | .irg => if dup then 1 else 0
  | _ => 0

/-- PAGE_ID (21 R488). -/
def pageIdWord (p : Page) (dup : Bool) : Nat :=
  blockCode p.kind + 0x100 * (p.inst % 256) + 0x10000 * pageSub p dup + 0x100000 * 0xAED

/-- PAGE_VERSION (21 R488). -/
def pageVersionWord : Nat := 0x0100

/-- Offset of the last statistics counter of a kind of page, if it has any; counters lie every 8 bytes from 0x040 on
(02 R65, R66 and each chapter's table). -/
def lastCounter : PageKind → Option Nat
  | .sys => some 0x40 | .cmt => some 0x60 | .evh => some 0x48 | .sdl => some 0x70 | .trn => some 0xF8
  | .trnRu => none | .trnGrid => none | .trnFlow => none
  | .irg => some 0xA8 | .btp => some 0x88 | .siv => some 0x98 | .sto => some 0x88 | .pace => none | .bed => some 0x88
  | .thr => some 0x88 | .ddr => some 0x78 | .psf => some 0x88 | .hst => some 0x78 | .hstFn => none | .sec => some 0x70
  | .rms => some 0xD0 | .trp => some 0x70 | .rst => some 0x60 | .flt => some 0x90 | .pwr => some 0x58
  | .gkp => some 0x58

/-- Whether a word lies in the counters of a page. -/
def isCounter (k : PageKind) (off : Nat) : Bool :=
  match lastCounter k with
  | none => false
  | some l => decide (0x40 ≤ off ∧ off < l + 8)

/-- The register, if any, of a definition at an offset: the entry and the word's fields. -/
def RegDef.at? (r : RegDef) (off : Nat) : Option (Nat × Nat × List Field) :=
  if r.base ≤ off ∧ (off - r.base) / r.stride < r.count ∧ off % 4 = 0 then
    match r.words[(off - r.base) % r.stride / 4]? with
    | some w => some ((off - r.base) / r.stride, (off - r.base) % r.stride / 4, w)
    | none => none
  else none

/-- The first register of a list that lies at an offset. -/
def lookupReg : List RegDef → Nat → Option (RegDef × Nat × Nat × List Field)
  | [], _ => none
  | r :: rs, off =>
    match r.at? off with
    | some (e, w, fs) => some (r, e, w, fs)
    | none => lookupReg rs off

/-- Whether a word has a staged field. -/
def hasStg (fs : List Field) : Bool := fs.any fun f => decide (f.acc = .stg)

/-- The word at an offset of a page: only IRG page 8 holds the spill areas, the watermarks and the flow-control maps, and PFC_EN is reserved
in the groups above 15 (07 R188). -/
def regAt (p : Page) (off : Nat) : Option (RegDef × Nat × Nat × List Field) :=
  match lookupReg (regsOf p.kind) off with
  | none => none
  | some x =>
    if p.kind = .irg then
      if p.inst ≠ 8 ∧ (0x200 ≤ x.1.base ∧ x.1.base < 0x500 ∨ x.1.base = 0x808) then none
      else if x.1.base = 0x300 ∧ 16 ≤ x.2.1 then some (x.1, x.2.1, x.2.2.1, x.2.2.2.filter fun f => decide (f.lo ≠ 24))
      else some x
    else some x

/-- The staged word that lies at an offset of a page. -/
def stagedAt (p : Page) (off : Nat) : Option (Nat × Nat × List Field) :=
  match regAt p off with
  | some (_, e, w, fs) => if hasStg fs then some (e, w, fs) else none
  | none => none

/-- Whether an active mirror lies at an offset (21 R487). -/
def mirrorAt (p : Page) (off : Nat) : Bool :=
  if 0x900 ≤ off ∧ off < 0xF00 then
    match regAt p (off - 0x800) with
    | some (r, _, _, fs) => r.mirror && hasStg fs
    | none => false
  else false

/-- Whether a page has staged fields (PAGE_CAPS.STAGED). -/
def pageStaged (k : PageKind) : Bool := (regsOf k).any fun r => r.words.any hasStg

/-- PAGE_CAPS (21 R488). -/
def pageCapsWord (v : View) (k : PageKind) (dup : Bool) : Nat :=
  let vf := match v with | .vf _ => true | _ => false
  bit (pageStaged k) + 2 * bit (lastCounter k).isSome + 4 * bit vf + 8 * bit vf + 16 * bit dup

/-- The mask of a word's fields of an access code. -/
def fieldMask (fs : List Field) : Nat := fs.foldl (fun a f => a + (2 ^ f.w - 1) * 2 ^ f.lo) 0

/-- A word with its reserved bits cleared (21 R490). -/
def maskWord (fs : List Field) (x : Nat) : Nat :=
  fs.foldl (fun a f => a + fieldOf x f.lo f.w * 2 ^ f.lo) 0

/-- The reset value of a word, by its fields. -/
def resetWord (fs : List Field) : Nat := fs.foldl (fun a f => a + f.rst % 2 ^ f.w * 2 ^ f.lo) 0

/-- Check 0x01 or 0x02 of one field value (00 R12, 21 R499). -/
def Lim.check : Lim → Nat → Nat → Option Nat
  | .any, _, _ => none
  | .le n, _, x => if x ≤ n then none else some 0x02
  | .range a b, _, x => if a ≤ x ∧ x ≤ b then none else some 0x02
  | .enum n, _, x => if x ≤ n then none else some 0x01
  | .enumOr n k, _, x => if x ≤ n ∨ x = k then none else some 0x01
  | .enumRange a b, _, x => if a ≤ x ∧ x ≤ b then none else some 0x01
  | .negTo n, w, x => if x = 0 ∨ 2 ^ w - n ≤ x then none else some 0x02

/-- Whether some field of a word breaks check `code`. -/
def wordBreaks (code : Nat) (fs : List Field) (x : Nat) : Bool :=
  fs.any fun f => decide (Lim.check f.lim f.w (fieldOf x f.lo f.w) = some code)

/-- Depth in entries, and the reset watermarks, of a FIFO group (07 R182). -/
def fifoDepth (g : Nat) : Nat := if g < 16 then 2048 else if g < 38 then 1024 else 256

/-- The reset value of a staged or writable word, with the values that depend on the page or the entry:
BED_SERVE (05 R139), IRG_WM (07 R182), SDL_DOM (08 R212), TRN_LANE_MAP (09 R239), SEC_PART (15 R358). -/
def regReset (p : Page) (off : Nat) : Nat :=
  match regAt p off with
  | none => 0
  | some (r, e, w, fs) =>
    match p.kind with
    | .bed => if r.base = 0x100 then (if p.inst % 17 = 16 then 0 else p.inst % 17 + 16) else resetWord fs
    | .irg =>
      if r.base = 0x300 then fifoDepth e * 3 / 4 + 4096 * (fifoDepth e / 2) else resetWord fs
    | .sdl => if r.base = 0x120 ∧ w = 0 then withField (resetWord fs) 4 8 (24 + e) else resetWord fs
    | .trn => if r.base = 0x110 then resetWord fs + 4 * e * 0x01010101 else resetWord fs
    | .sec =>
      if e = 0 then
        (if w = 0 then 1 + 2 * 0xFF + 2 ^ 14 * 256 + 2 ^ 23 * 64
         else if w = 1 then 2 ^ 10 * 1024
         else if w = 3 then 0xFFFFFF
         else 0)
      else resetWord fs
    | _ => resetWord fs

/-- The reset value of the register at an address of PF BAR0. -/
def addrReset (a : Nat) : Nat :=
  match pfPage (a / 4096) with
  | none => 0
  | some p => regReset p (a % 4096)

end Sys2Proof.Machine
end

