-- ==== Sys2Proof/Config.lean ====
section
/-!
DEFINITION. What one device fixes, and the free values: what the spec leaves open has no body here, so nothing can be
proved of it. Each free value is applied to the state's counter `free`, or to the operands it depends on.
-/

namespace Sys2Proof.Config

/-- Rate of a domain clock, in units of 2^−40, that a servo's loop sets after an accepted sample (08 R203 gives the loop's
bandwidth and no gains); the machine clamps it to the range of R191. Free value (log 20). -/
opaque servoRate : Nat → Int

/-- Filtered offset of a servo after an accepted sample, in units of 2^−16 ns (08 R203 states no filter). Free value
(log 20). -/
opaque servoFiltered : Nat → Int

/-- Whether the bit that stands in a spare column differs from the true one, before the rewrite reaches a row (06 R156 says
only that it may). Free value (log 21), by Plot, macro and macro row. -/
opaque staleColumn : Nat → Bool

/-- The check burst that holds the check bytes of a 64-byte burst of physical DRAM (18 R440, R441: bank, row and column
follow by a fixed map that the spec does not give). Free value (log 22). -/
opaque checkBurst : Nat → Nat

/-- Whether the device is a TH9400-E rather than a TH9400-C (19 R462). -/
opaque extended : Bool

/-- SHA-256, which the spec names and does not restate (15 R367, R376; 13 R332). Free value (log 23). -/
opaque sha256 : List Byte → List Byte

/-- CRC-32 of IEEE 802.3, which the spec names and does not restate (19 R471). Free value (log 23). -/
opaque crc32 : List Byte → Nat

/-- AES-256-GCM by key, IV and additional data, which the spec names and does not restate (14 R347, 15 R363): the ciphertext
followed by its 16-byte check value. Free value (log 23). -/
opaque gcmSeal : List Byte → Nat → List Byte → List Byte → List Byte

/-- The inverse of `gcmSeal`: none where the check value fails. Free value (log 23). -/
opaque gcmOpen : List Byte → Nat → List Byte → List Byte → Option (List Byte)

/-- A circular post-modify of a Sprout's address register, by offset, length and modifier: the spec does not say where the
circular buffer begins (05 R121). Free value (log 31). -/
opaque circular : Nat → Nat → Int → Nat

/-- The condition that CMP sets of two packed pairs, by relation (05 R121 states none). Free value (log 31). -/
opaque packedCompare : Nat → Nat → Nat → Bool

/-- Instruction index at which a Sprout begins the work of a descriptor (05 R135 gives none). Free value (log 32). -/
opaque sproutEntry : Nat → Nat

/-- Index, in the Plot's pace, of the step in which a taken branch issues: which of the 16 fetch slots it meets (05 R124). No command tells
how the pace moved on meanwhile. Free value (log 200). -/
opaque paceIndex : Nat → Nat

/-- The Big Top bank that a Sprout's watch register names, the Furrow, and the value watched (05 R126 gives the register no layout).
Free values (log 201). -/
opaque watchBank : Nat → Nat
/-- The Furrow that a watch register names. -/
opaque watchFurrow : Nat → Nat
/-- The cursor value that a watch register names. -/
opaque watchValue : Nat → Nat

/-- SINR field of a status word (05 R136 states no estimator). Free value (log 32). -/
opaque sinr : Nat → Nat

/-- An entry of a Sprout's return stack after a fifth CALL, and what RET finds on an empty one (05 R121 gives the depth
only). Free value (log 31). -/
opaque retStack : Nat → Nat

/-- Where a gather request that is not aligned to its size lands, in units of its size (05 R129 says that it must be aligned).
Free value (log 31). -/
opaque gatherAlign : Nat → Nat → Nat

/-- Safety Net bundles of a netted work-list item (11 R287): the bundle's PRBs follow from the ports, which the item does not
carry. Free value (log 46), by item. -/
opaque bundles : Nat → Nat

/-- Whether a Plan breaks a library-entry rule that cannot be read from the formats the spec gives (11 R276 codes 0x08, 0x0D, and 0x09 of
Sprout code). Free value (log 47), by code and Plan. -/
opaque planRefused : Nat → List Byte → Bool

/-- Sum of a row's products in a column where the pass names another weight format or mode than its tile was loaded with
(03 R77 states none). Free value (log 51), by draw, row and column. -/
opaque foreignTile : Nat → Nat → Nat → Int

/-- Whether a Sieve stream delivers the second of a Lane's two INT4 elements (02 R36 gives a Lane two, 04 R100 names none of them). Free
value (log 52), by the Lane's byte. -/
opaque int4Lane : Nat → Bool

/-- The other INT4 element of a Lane that a chain writes (log 52). -/
opaque int4Other : Nat → Nat

/-- Mark row of an iteration of a block-format stream, which has no Lane rows for it to follow (02 R37). Free value (log 52). -/
opaque bfpMark : Nat → Nat

/-- Which of the rows after a block-format tensor's last block row holds the mark row of an iteration: the tensor has no Lane rows for it to
follow (02 R37). Free value (log 52), by stream and iteration. -/
opaque bfpMarkRow : Nat → Nat → Nat

/-- Result of a Sieve function (04 R108), by function and operand: tables of the silicon that the spec does not print. Free value
(log 53). -/
opaque sieveFunction : Nat → Nat → Nat

/-- Steps of a save or a restore of rows at a PPT (11 R289 gives no count). Free value (log 54). -/
opaque saveSteps : Nat → Nat

/-- LDPC decoding of a code block (10 R255): hard decisions, iterations run, whether it converged, by header, weight set, code-block
entry and LLRs. The base graphs stand in TS 38.212, which the spec names and does not restate. Free value (log 65). -/
opaque ldpcDecode : Nat → Nat → Nat → List Byte → List Bool × Nat × Bool

/-- Whether bits end in a CRC that holds, by CRC (0 CRC16, 1 CRC24A, 2 CRC24B; TS 38.212). Free value (log 65). -/
opaque crcHolds : Nat → List Bool → Bool

/-- Polar decoding of a job (10 R259; TS 38.212): payload bits, whether the chosen path's CRC passes, its metric. Free value
(log 65). -/
opaque polarDecode : Nat → List Byte → List Bool × Bool × Nat

/-- Output of an encode job (10 R259, R260; TS 38.212, TS 38.211), by header, code-block entries and payload. Free value (log 65). -/
opaque encodeOut : Nat → List Nat → List Byte → List Byte

/-- Whether a job's ZC, K′ or N_cb breaks TS 38.212 (10 R254). Free value (log 65). -/
opaque jobBreaks : Nat → Bool

/-- A sample of block scaling or μ-law decoded (09 R217; the O-RAN CUS-plane specification), by
header, parameter and field. Free value (log 69). -/
opaque iqDecode : Nat → Nat → Nat → Int

/-- A PRB compressed by those methods, by header and values. Free value (log 69). -/
opaque iqEncode : Nat → List Int → Nat

/-- The rotator's two coefficients for an angle in units of 2^−32 cycle, in units of 2^−64 (09 R224: a table with interpolation, accurate
to 2^−17, which is not printed); the machine keeps them within 2^−17 of the cosine and the sine. Free value (log 70). -/
opaque rotator : Nat → Int × Int

/-- N_PRB of the grid that a sample was captured on, by its record, which does not hold it (12 R309, R311). Free value (log 223). -/
opaque samplePrbs : Nat → Nat

/-- The slot of its subframe in which a sample was captured, by its record, which does not hold it (12 R309, R311). Free value (log
223). -/
opaque sampleSlot : Nat → Nat

/-- A point of the lattice of modulation compression, by width, parameters and code, in units of 2^−32 of a Q1.15 unit (09 R217; the O-RAN
CUS-plane specification). Free value (log 69). -/
opaque modPoint : Nat → Nat → Nat → Int

/-- Bytes of a U-plane frame outside its PRBs (09 R238). Free value (log 66). -/
opaque frameOverhead : Nat → Nat

/-- The EID that the flash configuration record gives, if it gives one (20 R476: a record of the board's). -/
opaque flashEid : Option Nat

/-- SHA-384, which the spec names and does not restate (15 R372). Free value (log 23). -/
opaque sha384 : List Byte → List Byte

/-- Signature of the Alias Ed25519 key over a transcript hash, by the running firmware (15 R367, R372). Free value (log 23). -/
opaque aliasEd25519 : Nat → List Byte → List Byte

/-- Signature of the Alias ML-DSA-65 key over a transcript hash, by the running firmware (15 R367, R373). Free value (log 23). -/
opaque aliasMlDsa : Nat → List Byte → List Byte

/-- The certificate chain of slot 0 (15 R372), by the running firmware and the certificate bundle in use, each by its place and
generation in flash: 2 × generation + image set. -/
opaque certChain : Nat → Nat → List Byte

/-- The ML-DSA-65 chain (15 R373), likewise. -/
opaque mlDsaChain : Nat → Nat → List Byte

/-- Digest of the boot ROM (15 R374). -/
opaque romDigest : List Byte

/-- SHA-256 of an object in flash (15 R369, R374), by object type and 2 × generation + image set. -/
opaque objectDigest : Nat → Nat → List Byte

/-- Signing key index of the helper-data record (15 R369, R374), by 2 × generation + image set. -/
opaque helperKey : Nat → Nat

/-- Versions that a console status command answers with (20 R481 states no numbering), by the running firmware. Free value (log 84). -/
opaque firmwareVersion : Nat → Nat

/-- The first item and the count that the bytes of a mailbox request name, by operation; none where they are no request (20 R484
states the items and no layout of them). Free value (log 85). -/
opaque mbRequest : Nat → List Byte → Option (Nat × Nat)

/-- The bytes of the response to GET_INFO, from the image set, and type, SVN and digest of each object (20 R484 states no layout).
Free value (log 85). -/
opaque infoBytes : Nat → List (Nat × Nat × List Byte) → List Byte

/-- What a mailbox response holds of a sensor that does not exist or is unavailable (20 R477 gives a PLDM state only). Free value
(log 85). -/
opaque noReading : Nat → Nat

/-- The 32 bytes of a console challenge (20 R481). Free value (log 84). -/
opaque challenge : Nat → Nat

/-- The responder's half of an SPDM session ID, which the device chooses (15 R372). Free value (log 79). -/
opaque rspSession : Nat → Nat

end Sys2Proof.Config
end

