-- ==== Sys2Proof/Machine/SMap.lean ====
section
/-!
DEFINITION. Sparse maps in one canonical form: keys strictly rising, and no entry equal to what an unlisted key reads
as. Every table of the state that is mostly at its reset value is held so, and so is memory.
-/

namespace Sys2Proof.Machine

/-- A sparse map from numbers: a list of entries by rising key. -/
abbrev SMap (α : Type) := List (Nat × α)

/-- The entry of key `k`, if listed. -/
def SMap.find? {α : Type} : SMap α → Nat → Option α
  | [], _ => none
  | (j, v) :: m, k => if j = k then some v else SMap.find? m k

/-- What key `k` reads as, unlisted keys reading as `d`. -/
def SMap.get {α : Type} (d : Nat → α) (m : SMap α) (k : Nat) : α := (SMap.find? m k).getD (d k)

/-- The map without key `k`. -/
def SMap.erase {α : Type} (m : SMap α) (k : Nat) : SMap α := m.filter fun e => decide (e.1 ≠ k)

/-- The map with `v` at key `k`, put in its place. -/
def SMap.insert {α : Type} : SMap α → Nat → α → SMap α
  | [], k, v => [(k, v)]
  | (j, u) :: m, k, v =>
    if j < k then (j, u) :: SMap.insert m k v
    else if j = k then (k, v) :: m
    else (k, v) :: (j, u) :: m

/-- Write: the value an unlisted key reads as removes the entry. -/
def SMap.put {α : Type} [DecidableEq α] (d : Nat → α) (m : SMap α) (k : Nat) (v : α) : SMap α :=
  if v = d k then SMap.erase m k else SMap.insert m k v

/-- Change the value of key `k` by `f`. -/
def SMap.modify {α : Type} [DecidableEq α] (d : Nat → α) (m : SMap α) (k : Nat) (f : α → α) : SMap α :=
  SMap.put d m k (f (SMap.get d m k))

/-- Keys strictly rising, all above `lo`. -/
def SMap.rising {α : Type} : Option Nat → SMap α → Bool
  | _, [] => true
  | none, (j, _) :: m => SMap.rising (some j) m
  | some i, (j, _) :: m => decide (i < j) && SMap.rising (some j) m

/-- The canonical form. -/
def SMap.wf {α : Type} [DecidableEq α] (d : Nat → α) (m : SMap α) : Bool :=
  SMap.rising none m && m.all fun e => decide (e.2 ≠ d e.1)

/-- Memory: the bytes that differ from what an unlisted address reads as, by rising Trellis address (01 R30). -/
abbrev Mem := SMap (BitVec 8)

/-- What an unlisted byte reads as: zero, which is what the clear of the stores at start-up and the zeroing of DRAM
leave (06 R157, 18 R448); for program and data memories of the Sprouts a DESIGN CHOICE (log 3). -/
def Mem.unlisted (_ : Nat) : BitVec 8 := 0

/-- Read one byte. -/
def Mem.read (m : Mem) (a : Nat) : BitVec 8 := SMap.get Mem.unlisted m a

/-- Write one byte. -/
def Mem.write (m : Mem) (a : Nat) (b : BitVec 8) : Mem := SMap.put Mem.unlisted m a b

/-- Read `n` bytes from address `a` upward. -/
def Mem.readBytes (m : Mem) (a : Nat) : Nat → List (BitVec 8)
  | 0 => []
  | n + 1 => Mem.read m a :: Mem.readBytes m (a + 1) n

/-- Write bytes from address `a` upward. -/
def Mem.writeBytes (m : Mem) (a : Nat) : List (BitVec 8) → Mem
  | [] => m
  | b :: bs => Mem.writeBytes (Mem.write m a b) (a + 1) bs

/-- Bytes as one little-endian number. -/
def leNat : List (BitVec 8) → Nat
  | [] => 0
  | b :: bs => b.toNat + 256 * leNat bs

/-- `n` bytes of a number, little-endian. -/
def natLe : Nat → Nat → List (BitVec 8)
  | 0, _ => []
  | n + 1, x => BitVec.ofNat 8 x :: natLe n (x / 256)

/-- Read `n` bytes as a little-endian number. -/
def Mem.readLe (m : Mem) (a n : Nat) : Nat := leNat (Mem.readBytes m a n)

/-- Write `n` bytes of a number, little-endian. -/
def Mem.writeLe (m : Mem) (a n x : Nat) : Mem := Mem.writeBytes m a (natLe n x)

/-- Zero `n` bytes from address `a` upward. -/
def Mem.zero (m : Mem) (a n : Nat) : Mem := m.filter fun e => decide (e.1 < a ∨ a + n ≤ e.1)

/-- The canonical form of memory. -/
def Mem.wf (m : Mem) : Bool := SMap.wf Mem.unlisted m

end Sys2Proof.Machine
end

