-- ==== Sys2Proof/Machine/StateCore.lean ====
section
/-!
DEFINITION. The parts of the state that every block shares: what has left the block, the events and counters of the
pages, the active and staged configuration with the commits in flight, and Sundial.
-/

namespace Sys2Proof.Machine

/-- Pins that commands drive or change (08 R202, R210; 07 R184; 14 R351; 19 R464; 22 R524). -/
inductive Pin where
  | fc (p : Nat)
  | synce (k : Nat)
  | ppsOut
  | bypOpen
  | thermtrip
  | xspiReset
deriving DecidableEq, Repr

/-- What leaves the block, or passes through the event hub, oldest first: a trace of the model's own, from which
statements read what the rules say is sent. -/
inductive Sent where
  /-- an MSI-X message of a function's vector (21 R494) -/
  | msi (fn vector : Nat)
  /-- a notice to Groundskeeper of a source whose GK_EN is 1 (21 R494) -/
  | gkNotify (source : Nat)
  /-- an event record of a page through the event hub (21 R494): the page's number, the event bit, the words it carries -/
  | record (page bit : Nat) (words : List Nat)
  /-- a write to host memory by a function -/
  | hostWrite (fn addr : Nat) (bytes : List (BitVec 8))
  /-- a read request to host memory by a function -/
  | hostRead (fn addr len : Nat)
  /-- a page request or an ATS message of a function -/
  | ats (fn : Nat) (words : List Nat)
  /-- an Ethernet frame from a port -/
  | frame (port : Nat) (bytes : List (BitVec 8))
  /-- a message that the Turnstile sends from a port (09 R218, R222, R238; 08 R200): 0 U-plane, 1 C-plane, 2 delay Request,
  3 Remote Request, 4 delay Response, 5 Follow_Up, 6 PTP Delay_Req, 7 PTP Signaling; and its fields -/
  | message (port kind : Nat) (words : List Nat)
  /-- a pause frame from a port: priorities and quanta -/
  | pause (port prio quanta : Nat)
  /-- a packet or link word launched on a ring port (0 east, 1 west) -/
  | ring (port : Nat) (words : List Nat)
  /-- data delivered on a stream port -/
  | stream (port : Nat) (words : List Nat)
  /-- an answer of a management protocol (SPDM, PLDM, MCTP, IDE_KM, console): protocol code and fields -/
  | answer (proto code : Nat) (words : List Nat)
  /-- a data register shifted out by the TAP -/
  | tap (word : Nat)
  /-- a PMBus command to the VCORE regulator -/
  | pmbus (cmd value : Nat)
  /-- a pin driven to a level -/
  | pin (p : Pin) (level : Bool)
  /-- SYNCE_OUT `k` begins to carry the recovered clock of a lane, divided by 8 or not (08 R202) -/
  | synce (k lane : Nat) (div8 : Bool)
  /-- a completion of a PCIe configuration request: 0 successful, 1 retry -/
  | cfgCpl (status : Nat)
deriving DecidableEq, Repr

/-- Events, counters and interrupts of the pages (21 R491 to R494). Keys of the event maps are 16 × page number + the
view's number; keys of the latches and counters are 2^26 × view number + register address, with view 0 the whole device. -/
structure Hub where
  /-- EVT_RAW -/
  raw : SMap Word := []
  /-- EVT_MASK, at reset 0xFFFF_FFFF (21 R493) -/
  mask : SMap Word := []
  /-- the SNP values latched in each view -/
  latch : SMap Word := []
  /-- the 48-bit statistics counters, with SAT as bit 48 -/
  cnt : SMap Nat := []
  /-- the counters as they stood at the last whole microsecond (15 R380) -/
  cntUs : SMap Nat := []
  /-- MSI-X vector mask of each function and vector, key 2048 × function + vector -/
  vecMask : SMap Bool := []
  /-- pending bit of each function and vector -/
  vecPend : SMap Bool := []
  /-- functions whose IDE stream is insecure: their traffic is dropped (15 R364) -/
  mute : SMap Bool := []
  /-- SYS_BAD_ACC (21 R507) -/
  badAcc : Word := 0
  /-- Groundskeeper's core is halted: records for it queue, up to 4,096 (20 R483); how many wait -/
  gkHalted : Bool := false
  gkQueued : Nat := 0
  /-- the trace of what left the block or passed through the hub, oldest first (the model's own) -/
  out : List Sent := []
deriving DecidableEq, Repr

/-- EVT_MASK reads all-ones until written (21 R493). -/
def maskUnlisted (_ : Nat) : Word := 0xFFFFFFFF

/-- States of CMT_STATUS (21 R508). -/
inductive CommitState where
  | idle | checking | pending | applied | rejected | aborted | applyFail
deriving DecidableEq, Repr

/-- The code of a commit state (21 R508). -/
def CommitState.code : CommitState → Nat
  | .idle => 0 | .checking => 1 | .pending => 2 | .applied => 3 | .rejected => 4 | .aborted => 5 | .applyFail => 6

/-- The instant a commit waits for (21 R497). -/
inductive Instant where
  /-- the first Commit Gate event after the checks end -/
  | now
  /-- a step boundary of a context -/
  | boundary (ctx : Nat)
  /-- a device time, in units of 2^−16 ns -/
  | time (t : Nat)
deriving DecidableEq, Repr

/-- A commit in flight (21 R495): from its GO until it applies, fails or is aborted. -/
structure Commit where
  /-- order of arming on its channel -/
  order : Nat := 0
  /-- whether its checks still run -/
  checking : Bool := true
  /-- pages it selects, by their numbers in the writer's own BAR0 -/
  pages : List Nat := []
  /-- the words it took, by register key -/
  words : List (Nat × Word) := []
  /-- its instant -/
  inst : Instant := .now
  /-- device time of its hook or comparator, where one is armed -/
  hookAt : Option Nat := none
  /-- whether it holds one of the 16 time comparators (08 R209) -/
  comparator : Bool := false
  /-- whether its instant has come -/
  due : Bool := false
  /-- LATE (21 R501) -/
  late : Bool := false
  /-- whether a re-check is owed at its instant (21 R501) -/
  dirty : Bool := false
  /-- the context it serves, for channels 10 and 11 (21 R502) -/
  serves : Option Nat := none
  /-- a repair of the fault block, on channel 9 (16 R393, 21 R495) -/
  repair : Bool := false
deriving DecidableEq, Repr

/-- A channel of the Commit Gate (21 R495). -/
structure Channel where
  /-- staged words, by register key -/
  staging : List (Nat × Word) := []
  /-- selected pages, by the writer's own page numbers -/
  sel : List Nat := []
  setOvf : Bool := false
  stageFull : Bool := false
  /-- the entry of the selection that CMT_SET_RD reports -/
  query : Option Nat := none
  state : CommitState := .idle
  code : Nat := 0
  page : Nat := 0
  late : Bool := false
  rechecked : Bool := false
  /-- CMT_APPLY_SEQ of the channel's view -/
  seq : Word := 0
  flight : List Commit := []
deriving DecidableEq, Repr

/-- The register path and the Commit Gate: active values by register key, the twelve channels, and the order of arming. -/
structure Gate where
  act : SMap Word := []
  chans : SMap Channel := []
  arm : Nat := 0
  /-- registers of access RW that hold no other meaning, by register key: SYS_SCRATCH, CMT_AT, GKP_MB_DATA -/
  rw : SMap Word := []
deriving DecidableEq, Repr

/-- States of a servo (08 R203). -/
inductive ServoState where
  | freerun | acquiring | locked | holdover
deriving DecidableEq, Repr

/-- The code of a servo state in SDL_STATUS (08 R212). -/
def ServoState.code : ServoState → Nat
  | .freerun => 0 | .acquiring => 1 | .locked => 2 | .holdover => 3

/-- A servo and its domain clock (08 R189 to R191, R203). -/
structure Servo where
  st : ServoState := .freerun
  /-- the domain clock, in units of 2^−56 ns -/
  clk : Nat := 0
  /-- its rate relative to the free-running reference, in units of 2^−40 -/
  rate : Int := 0
  /-- consecutive accepted samples with a filtered offset within LOCK_NS -/
  good : Nat := 0
  /-- whether the one step of ACQUIRING has been made -/
  stepped : Bool := false
  /-- free-running time of the last accepted sample, in units of 2^−16 ns -/
  lastSample : Nat := 0
  /-- free-running time at which HOLDOVER began -/
  heldSince : Nat := 0
  /-- free-running times at which a rate began, and the rate, newest first, since LOCKED began -/
  hist : List (Nat × Int) := []
  /-- the seconds value of the next PPS_IN edge, once TOD_SEC has been taken (08 R211) -/
  tod : Option Nat := none
deriving DecidableEq, Repr

/-- Sundial (08). Times of the free-running reference are in units of 2^−16 ns. -/
structure Sundial where
  /-- the free-running reference, counted from power-on (08 R189) -/
  ref : Nat := 0
  /-- REF_FREQ -/
  refFreq : Nat := 0
  /-- FREE_OSC -/
  freeOsc : Bool := true
  /-- REF_HELD -/
  refHeld : Bool := false
  a : Servo := {}
  b : Servo := {}
  /-- SEL_ACT: false domain A, true domain B -/
  selAct : Bool := false
  /-- device time less the followed domain clock, in units of 2^−56 × 10^−9 ns -/
  ofs : Int := 0
  /-- a switch was begun whose slew has not yet reached zero offset -/
  switching : Bool := false
  /-- SDL_CAL.DONE, one bit per port -/
  cal : Nat := 0
  /-- the latest PPS_IN stamps on device time, A and B, in units of 2^−16 ns -/
  ppsDev : Nat := 0
  ppsA : Nat := 0
  ppsB : Nat := 0
  /-- PPS_OUT pin active, and device time at which the pulse ends -/
  ppsOut : Bool := false
  ppsEnd : Nat := 0
  /-- SYNCE_OUT0 and SYNCE_OUT1 squelched -/
  squelch0 : Bool := false
  squelch1 : Bool := false
  /-- SerDes lanes that have lost lock, one bit each (08 R202) -/
  unlocked : Nat := 0
  /-- SDL_SAMPLE_IN words +0x0 and +0x4 as last written -/
  sample0 : Word := 0
  sample1 : Word := 0
  /-- transmit stamps waiting in each port's FIFO of 64 (08 R196), by port -/
  tsFifo : SMap (List Nat) := []
  /-- the receive stamp of the latest PTP event or eCPRI type 5 message of each port (08 R193, R194) -/
  rxStamp : SMap Nat := []
  /-- the change of SEL applied last was refused (08 R205) -/
  selRefused : Bool := false
  /-- device time at the apply that set GRID_EN (08 R208) -/
  gridFrom : Nat := 0
  /-- the last slot boundary signalled for each numerology, as slot count of the grid time plus 1; 0 none -/
  slot : SMap Nat := []
  /-- the last symbol boundary signalled for each numerology, as 14 × slot count + symbol, plus 1 -/
  sym : SMap Nat := []
  /-- the last subframe and frame boundaries signalled, as counts of the grid time plus 1 -/
  subframe : Nat := 0
  frame : Nat := 0
deriving DecidableEq, Repr

end Sys2Proof.Machine
end

