-- ==== Sys2Proof/Machine/StateBed.lean ====
section
/-!
DEFINITION. The state of the Sprouts and the Beds (05).
-/

namespace Sys2Proof.Machine

/-- An active loop (05 R123): the body's first instruction and length, and the passes still to begin. -/
structure LoopSt where
  start : Nat
  len : Nat
  left : Nat
deriving DecidableEq, Repr

/-- A register bank of a Sprout (05 R117). -/
structure Bank where
  g : SMap Nat := []
  a : SMap Nat := []
  m : SMap Int := []
  l : SMap Nat := []
  re : Int := 0
  im : Int := 0
  /-- active loops, innermost first -/
  loops : List LoopSt := []
  /-- program counter, in instructions -/
  pc : Nat := 0
  cond : Bool := false
  sat : Bool := false
deriving DecidableEq, Repr

/-- What a Sprout waits for (05 R126). -/
inductive SproutWait where
  | none | gather | event
deriving DecidableEq, Repr

/-- What a Sprout does (05 R139). -/
inductive SproutRun where
  | idle | bank0 | bank1 | aborted
deriving DecidableEq, Repr

/-- The code of a Sprout's state in BED_SPROUT_STATE (05 R139). -/
def SproutRun.code : SproutRun → Nat
  | .idle => 0 | .bank0 => 1 | .bank1 => 2 | .aborted => 3

/-- A Sprout. -/
structure SproutSt where
  b0 : Bank := {}
  b1 : Bank := {}
  st : SproutRun := .idle
  wait : SproutWait := .none
  /-- enable and pending bits of the event lines, and the handler vectors -/
  en : Nat := 0
  pend : Nat := 0
  vec : SMap Nat := []
  watch : Nat := 0
  /-- return stack, newest first, 4 deep -/
  ret : List Nat := []
  /-- gather requests outstanding -/
  gathers : Nat := 0
  /-- steps of its Plot's pace spent, which place its fetch slots -/
  steps : Nat := 0
  /-- the context that it serves, or served last (06 R159), and the window entry of its task -/
  ctx : Option Nat := none
  entry : Nat := 0
  /-- the step for which its banks were last set to zero, with its context: the dispatch of R117 (log 202) -/
  disp : Option (Nat × Nat) := none
  /-- the Safety Net descriptor of the invocation in progress -/
  desc : Option Nat := none
  late : Bool := false
  rerun : Bool := false
  /-- KIND of the fault that asked for the re-run (16 R409) -/
  rerunKind : Nat := 4
  /-- the step and the steps granted for the re-run in progress (11 R298) -/
  grant : Option (Nat × Nat) := none
  /-- stopped at a PPT by a pre-emption, or by a teardown -/
  stopped : Bool := false
  /-- data memory frozen by a kill with hold (06 R159) -/
  frozen : Bool := false
deriving DecidableEq, Repr

/-- A gather request (05 R129): direction, Sprout, byte offset in its data memory, word address relative to the task's
activation window, words. -/
structure GatherReq where
  load : Bool
  sprout : Nat
  off : Nat
  addr : Nat
  words : Nat
  ctx : Nat
  entry : Nat
deriving DecidableEq, Repr

/-- A Bed. -/
structure BedSt where
  sprouts : SMap SproutSt := []
  /-- the Gatherer's pending requests, oldest first -/
  queue : List GatherReq := []
  seeded : Bool := false
  pruned : Bool := false
deriving DecidableEq, Repr

/-- A Sprout's state at reset. -/
def sproutUnlisted (_ : Nat) : SproutSt := {}
/-- A Bed's state at reset. -/
def bedUnlisted (_ : Nat) : BedSt := {}

end Sys2Proof.Machine
end

