-- ==== Sys2Proof/Machine/StateDdr.lean ====
section
/-!
DEFINITION. The state of the memory controller (18).
-/

namespace Sys2Proof.Machine

/-- A memory channel (18 R437, R438, R445, R453). -/
structure DdrCh where
  gen : Nat := 0
  mts : Nat := 0
  ranks2 : Bool := false
  gibLog2 : Nat := 0
  refreshX : Nat := 0
  hot : Bool := false
  /-- the check cache: check bursts held, newest first, and for a modified one the time of its first change plus 1 -/
  check : List (Nat × Nat) := []
  /-- refresh intervals by which each bank is postponed, by bank -/
  postponed : SMap Nat := []
  /-- pauses of the oscillator measurement made -/
  tracked : Nat := 0
deriving DecidableEq, Repr

/-- The memory controller. -/
structure Ddr where
  /-- M and P in 64 KiB pages (18 R439); 0 until training ends -/
  mapped : Nat := 0
  pool : Nat := 0
  ch : SMap DdrCh := []
  /-- the remap table: physical page of a remapped data page -/
  remap : SMap Nat := []
  /-- pages of the reserved pool taken -/
  taken : Nat := 0
  /-- a remap copy in progress: data page, new physical page -/
  copying : Option (Nat × Nat) := none
  conservative : Bool := false
  /-- the background zeroing pass has not ended -/
  zeroing : Bool := false
  /-- pages whose bit a write has set ahead of the background pass -/
  touched : SMap Bool := []
  /-- next codeword of the patrol, counted over the mapped and reserved areas -/
  patrol : Nat := 0
  query : SMap Nat := []
  /-- the data that the last read returned, if it returned data -/
  returned : Option (List (BitVec 8)) := none
deriving DecidableEq, Repr

/-- A channel's state at reset. -/
def chUnlisted (_ : Nat) : DdrCh := {}

end Sys2Proof.Machine
end

