-- ==== Sys2Proof/Machine/StateFault.lean ====
section
/-!
DEFINITION. The state of the fault block (16): what each unit's faults and uses are, which repairs wait, the log.
-/

namespace Sys2Proof.Machine

/-- What the fault block keeps of one unit (16 R391, R392, R404). -/
structure UnitSt where
  uses : Nat := 0
  /-- use counts at its latest faults, newest first, two at most kept beside the present one -/
  faults : List Nat := []
  permanent : Bool := false
  /-- Pruned (16 R397) -/
  pruned : Bool := false
  epoch : Nat := 0
  /-- its spare is lost (03 R91) or in service -/
  spareLost : Bool := false
  /-- for a store macro and a memory channel: use counts at the latest faults of each row, newest first -/
  rows : SMap (List Nat) := []
  /-- for a store macro: bit positions in which a row has shown an error, and the first such row plus 1 (16 R391) -/
  cols : SMap Nat := []
deriving DecidableEq, Repr

/-- A repair that the fault block has staged (16 R393): one at a time, the rest wait in the order judged. -/
structure Repair where
  cls : Nat
  plot : Nat := 0
  index : Nat := 0
  /-- what it names: Big Top, spare target + 512 for a column; store macro, target + 4096 for a column; DRAM, the page -/
  detail : Nat := 0
  /-- KIND of its records -/
  kind : Nat := 0
  /-- a Plot Prune rather than a Graft -/
  prune : Bool := false
  /-- for a Plot Prune: the Plot has been marked RETIRING -/
  retiring : Bool := false
deriving DecidableEq, Repr

/-- The fault block (16). -/
structure Flt where
  /-- records that have reached the fault block and are not yet judged, oldest first -/
  inbox : List FltRec := []
  units : SMap UnitSt := []
  /-- repairs judged, the first of them staged -/
  queue : List Repair := []
  /-- time at which the failed commit of the fault block may be issued again -/
  retryAt : Option Nat := none
  pruned : Nat := 0
  retiring : Nat := 0
  exhausted : Bool := false
  /-- VCORE_FLOOR_MV -/
  floor : Nat := 650
  /-- free-running time of the last raise of the floor -/
  floorAt : Option Nat := none
  seq : Nat := 0
  /-- FLT_LOG_WR -/
  written : Nat := 0
  /-- the unit FLT_UNIT_Q named, per view: CLASS, PLOT and INDEX as written -/
  query : SMap Nat := []
  /-- partitions with a partition reset staged, and since when -/
  partReset : SMap Nat := []
  /-- store and DRAM rows whose fault awaits its retry, the next read of the row: row address / 64 (16 R391) -/
  retry : SMap Bool := []
  /-- a fault that only device recovery mends (16 R388) -/
  recoverOwed : Bool := false
  /-- the latest 16 records of the log, oldest first, 128 bits each (20 R481, R484) -/
  latest : List Nat := []
deriving DecidableEq, Repr

/-- A unit's key: class × 2048 + Plot × 256 + index. -/
def unitKey (cls plot index : Nat) : Nat := cls * 2048 + plot * 256 + index

/-- A unit's state at reset. -/
def unitUnlisted (_ : Nat) : UnitSt := {}

end Sys2Proof.Machine
end

