-- ==== Sys2Proof/Machine/StateGk.lean ====
section
/-!
DEFINITION. The state of Groundskeeper's management (20): mailbox, notices, management buses, firmware update, console, TAP.
-/

namespace Sys2Proof.Machine

/-- A PlatformEventMessage not yet acknowledged (20 R478). -/
structure EvtMsg where
  seq : Nat
  /-- 0 a change of the throttle level, 1 a fault-block record, 2 a CAPACITY event; and its words -/
  what : Nat
  words : List Nat
  sentAt : Nat
  resends : Nat := 0
deriving DecidableEq, Repr

/-- A component of an update: its object type, SVN, and bytes received (20 R479). -/
structure Component where
  type : Nat
  svn : Nat := 0
  bytes : Nat := 0
  verified : Bool := false
deriving DecidableEq, Repr

/-- A PLDM update in progress (20 R479). -/
structure Update where
  requester : Nat
  /-- types that PassComponentTable named -/
  table : List Nat := []
  comps : List Component := []
  /-- the component being pulled -/
  current : Option Nat := none
  failed : Bool := false
deriving DecidableEq, Repr

/-- Groundskeeper's management. -/
structure Gk where
  /-- FW_RUN -/
  fwRun : Bool := false
  /-- image set in use, the set that the flash layout record names, and whether each set is marked invalid (20 R479) -/
  activeSet : Nat := 0
  layoutSet : Nat := 0
  invalid : SMap Bool := []
  /-- SVN of each object in flash, by 8 × set + object type -/
  setSvn : SMap Nat := []
  /-- times each place of an object in flash has been written, by 8 × set + object type; and of each object type in use, 2 × that
  count + its set, as start-up or a self-contained activation read it (20 R480) -/
  gens : SMap Nat := []
  inUse : SMap Nat := []
  /-- a mailbox command waits for Groundskeeper: OP, LEN -/
  mb : Option (Nat × Nat) := none
  /-- GKP_MB_RESULT: CODE, LEN, LOST -/
  mbCode : Nat := 0
  mbLen : Nat := 0
  mbLost : Bool := false
  /-- unread notices, oldest first, and whether one has been discarded -/
  notices : List Nat := []
  lost : Bool := false
  /-- the management pins act as an I3C target, and the dynamic address -/
  i3c : Bool := false
  addr : Nat := 0
  /-- EID of each MCTP binding, 0 SMBus or I3C, 1 PCIe VDM; 0 none -/
  eid : SMap Nat := []
  /-- the event receiver's EID -/
  receiver : Option Nat := none
  evtSeq : Nat := 0
  unacked : List EvtMsg := []
  update : Option Update := none
  /-- console: failed answers since the last login or lock, when the lock ends, latest activity -/
  fails : Nat := 0
  lockedTo : Nat := 0
  active : Nat := 0
  /-- the TAP is out of Test-Logic-Reset, its current instruction: 0 IDCODE, 1 BYPASS, 2 SAMPLE/PRELOAD, 3 EXTEST, 4 CLAMP,
  5 HIGHZ, 6 a debug instruction; and the boundary register's latch -/
  tapOut : Bool := false
  tapIr : Nat := 0
  boundary : Nat := 0
deriving DecidableEq, Repr

end Sys2Proof.Machine
end

