-- ==== Sys2Proof/Machine/StateIrg.lean ====
section
/-!
DEFINITION. The state of the Irrigators (07) and of the host interface (17).
-/

namespace Sys2Proof.Machine

/-- States of a Furrow (07; the codes of IRG_FRW_STATE, R187). -/
inductive FurrowState where
  | idle | parked | active | creditWait | stageWait | pageWait | spilled | done | faulted
deriving DecidableEq, Repr

/-- Bytes that stand in staging: the tile they belong to, and where they go (07 R165, R167). -/
structure Piece where
  tile : Nat
  dst : Nat
  data : List (BitVec 8)
  /-- place of its first byte in the visiting order (07 R164) -/
  pos : Nat := 0
  /-- the page that an ATS translation gave for its destination (07 R178) -/
  xlat : Option Nat := none
deriving DecidableEq, Repr

/-- A piece of a Furrow's data in its context's spill area (07 R181). -/
structure Spill where
  tile : Nat
  dst : Nat
  addr : Nat
  len : Nat
  pos : Nat := 0
  xlat : Option Nat := none
deriving DecidableEq, Repr

/-- A Furrow (07 R163 to R168). -/
structure Furrow where
  st : FurrowState := .idle
  ctx : Nat := 0
  /-- window entry of its task, and resident slot -/
  entry : Nat := 0
  slot : Nat := 0
  /-- the 512-bit descriptor -/
  desc : Nat := 0
  /-- tiles delivered and tiles released -/
  cursor : Nat := 0
  released : Nat := 0
  /-- bytes requested so far, in visiting order -/
  next : Nat := 0
  /-- bytes handed to a stream destination, in visiting order (07 R164) -/
  streamed : Nat := 0
  /-- bytes written of each tile that is not yet delivered -/
  written : SMap Nat := []
  /-- data in staging that wait for credit, and data spilled, oldest first -/
  stage : List Piece := []
  spilled : List Spill := []
  /-- free-running time at which it began to wait for staging -/
  stageSince : Option Nat := none
  /-- its next request has waited for a tag (07 R174) -/
  tagWait : Bool := false
  /-- whether the Plan declares it carried (07 R176) -/
  carried : Bool := false
  /-- a prologue: free-running time at which its epilogue started, its layer's number, and OVL_STEPS (07 R177) -/
  due : Option (Nat × Nat × Nat) := none
  /-- the page it waits for, and free-running time of its page request (07 R179) -/
  page : Option (Nat × Nat) := none
  /-- its page request has been sent (17 R417) -/
  asked : Bool := false
deriving DecidableEq, Repr

/-- Pools of tags: 0 host, 1 to 8 DRAM channel 0 to 7, 9 ring east, 10 ring west, 11 targets that take no tag (07 R173). -/
abbrev Pool := Nat

/-- A request in flight (07 R173 to R175). -/
structure Request where
  irg : Nat
  furrow : Nat
  pool : Pool
  tag : Nat
  gen : Nat
  /-- a write toward the destination, with the data it carries; none: a read of the source -/
  data : Option (List (BitVec 8)) := none
  /-- free-running time at which its tag was granted; a write may wait for one -/
  issued : Nat := 0
  waiting : Bool := false
  src : Nat
  dst : Nat
  len : Nat
  tile : Nat
  ctx : Nat
  reissued : Bool := false
  /-- it writes a piece to the spill area or reads one back (07 R181) -/
  spill : Bool := false
  /-- place of its first byte in the visiting order, and the translation of its destination -/
  pos : Nat := 0
  dxlat : Option Nat := none
  /-- its data are discarded when it completes (07 R176, R179) -/
  dead : Bool := false
  /-- answered NOT_RESIDENT, and when it was last sent (14 R350) -/
  notRes : Bool := false
  sentAt : Nat := 0
  /-- the host request goes through an ATS translation of this page (17 R417) -/
  xlat : Option Nat := none
  /-- function whose host tags it holds (17 R418) -/
  fn : Nat := 0
deriving DecidableEq, Repr

/-- An Irrigator (07). -/
structure Irrigator where
  furrows : SMap Furrow := []
  /-- issues since the last bulk issue, and the Furrow last served of the bulk rotation -/
  sinceBulk : Nat := 0
  bulkPtr : Nat := 0
  /-- free-running time since when every staged tile has belonged to a Furrow in CREDIT_WAIT (07 R180) -/
  creditOnly : Option Nat := none
  /-- the Furrow IRG_FRW_Q named, per view -/
  query : SMap Nat := []
deriving DecidableEq, Repr

/-- A FIFO group with watermarks (07 R182, R183, R186). -/
structure FifoGroup where
  /-- entries, as counted on the write side -/
  level : Nat := 0
  above : Bool := false
  /-- the rest of a packet whose end entry has not arrived is discarded as it arrives -/
  dropping : Bool := false
deriving DecidableEq, Repr

/-- What a function keeps: its copy channel (17 R420), its address translation cache (R417), its shed ring (R432). -/
structure CopySt where
  /-- HST_COPY words +0x00 to +0x0C as last written -/
  srcLo : Word := 0
  srcHi : Word := 0
  dstLo : Word := 0
  dstHi : Word := 0
  busy : Bool := false
  done : Bool := false
  code : Nat := 0
  len : Nat := 0
  /-- free-running time at which the running copy began -/
  began : Nat := 0
  /-- address translation cache of the function: pages held -/
  atc : List Nat := []
  /-- page requests outstanding, by page -/
  pri : List Nat := []
  /-- write offset and sequence of the shed ring, and the host's cached CONS (17 R432) -/
  shedOfs : Nat := 0
  shedCons : Nat := 0
  /-- the function is in FLR -/
  flr : Bool := false
deriving DecidableEq, Repr

/-- All Irrigators, tag pools and FIFO groups, and the host interface. -/
structure Irg where
  irg : SMap Irrigator := []
  requests : List Request := []
  /-- generation of each tag: pool × 1024 + tag -/
  gens : SMap Nat := []
  groups : SMap FifoGroup := []
  /-- FC[3:0] levels -/
  fc : Nat := 0
  /-- pause frames sent on each fronthaul port, and free-running time of the last (09 R235) -/
  pfcTx : SMap Nat := []
  pfcAt : SMap Nat := []
  /-- SPEED, WIDTH, TAG10 (17 R435) -/
  speed : Nat := 0
  width : Nat := 0
  tag10 : Bool := false
  /-- per function -/
  fn : SMap CopySt := []
  /-- VF Enable -/
  vfEnable : Bool := false
deriving DecidableEq, Repr

/-- Reset values. -/
def irgUnlisted (_ : Nat) : Irrigator := {}
/-- Reset values. -/
def furrowUnlisted (_ : Nat) : Furrow := {}
/-- Reset values. -/
def groupUnlisted (_ : Nat) : FifoGroup := {}
/-- Reset values. -/
def fnUnlisted (_ : Nat) : CopySt := {}

end Sys2Proof.Machine
end

