-- ==== Sys2Proof/Machine/StatePlot.lean ====
section
/-!
DEFINITION. The state of a Plot: its Big Top (03), its Sieve (04) and its stores (06).
-/

namespace Sys2Proof.Machine

/-- One entry of one column's long-accumulator file (02 R42, R46; 03 R72), with the formats, the window position and the
context of the pass that last cleared it (03 R78, 06 R159). -/
structure AccEntry where
  /-- A of R42, or W of R46 -/
  v : Int := 0
  poison : Bool := false
  ovf : Bool := false
  /-- a product of its sum was truncated by the window (02 R47, R59) -/
  trunc : Bool := false
  wFmt : Nat := 0
  aFmt : Nat := 0
  win : Int := 0
  owner : Option Nat := none
deriving DecidableEq, Repr

/-- A weight tile in a bank of the Big Top (03 R73, R90, R94). -/
structure Tile where
  tag : Nat := 0
  /-- loaded and passed its checks -/
  valid : Bool := false
  fmt : Nat := 0
  /-- loaded for table mode -/
  table : Bool := false
  /-- absolute weight row, window entry and context it was loaded from -/
  row : Nat := 0
  entry : Nat := 0
  ctx : Nat := 0
  zpRow : Bool := false
  /-- the Lane rows of the tile, each as one number; the last is the zero-point or codebook row if it has one -/
  rows : List Nat := []
  /-- the check weights of the checksum column, each times 2^exponent: one a Lane, two where a Lane holds two elements or two parts
  (03 R70, R85) -/
  check : List (Int × Int) := []
  /-- the XOR of each column's weight words as the north edge fed them, and as the checksum row's verification registers found them
  latched: 54 bits a column (03 R70, R84) -/
  fed : Nat := 0
  latched : Nat := 0
  /-- the load check failed at load completion after its one reload, or at the SWAP -/
  bad : Bool := false
deriving DecidableEq, Repr

/-- A pass as issued: the context it serves, its window entry, its 128-bit descriptor (03 R77), and the tile it used,
without the tile's rows. -/
structure PassReq where
  ctx : Nat
  entry : Nat
  desc : Nat
  tile : Tile := {}
  /-- bits by which the latched weight words differ at the compare of the pass's SWAP (03 R84) -/
  flip : Nat := 0
deriving DecidableEq, Repr

/-- A verdict that the south edge has still to reach (03 R85): the pass and its row, the checksum column's exact sum C, the sum S over the
columns, and Mabs, each times 2^exponent; and whether a product of the row set POISON. -/
structure RowCheck where
  desc : Nat
  row : Nat
  ctx : Nat
  c : Int := 0
  cExp : Int := 0
  x : Int := 0
  xExp : Int := 0
  mabs : Int := 0
  mabsExp : Int := 0
  skip : Bool := false
deriving DecidableEq, Repr

/-- The replay log and the flag of one accumulator bank (03 R87). -/
structure BankLog where
  log : List PassReq := []
  /-- more than 64 passes since the last CLEAR -/
  tooMany : Bool := false
  flagged : Bool := false
  /-- a replay has been granted and has not ended -/
  replaying : Bool := false
  /-- the bank took Safety Net results (03 R88) -/
  net : Bool := false
  /-- verdicts still to be reached, in order (03 R71) -/
  checks : List RowCheck := []
  /-- a window saturation was met when the bank's contents moved (02 R48) -/
  wsat : Bool := false
  /-- steps of the replay granted, and the step of the context it serves -/
  cost : Nat := 0
  step : Nat := 0
deriving DecidableEq, Repr

/-- Verdicts that a bank awaits. -/
def BankLog.awaiting (b : BankLog) : Nat := b.checks.length

/-- A Big Top (03). -/
structure BigTop where
  /-- accumulators by bank × 65536 + entry × 256 + column -/
  acc : SMap AccEntry := []
  /-- the accumulators as they stood before the rows that the south edge wrote last (04 R98) -/
  before : SMap AccEntry := []
  /-- the context of the pass that last cleared each bank (06 R159) -/
  owner0 : Option Nat := none
  owner1 : Option Nat := none
  /-- the west edge's input queue: Lane rows of the pass that waits, up to 64 (03 R70) -/
  west : List Nat := []
  active : Option Tile := none
  shadow : Option Tile := none
  /-- a load into the shadow bank is in progress -/
  loading : Bool := false
  /-- a load has started since the last swap -/
  loadStarted : Bool := false
  /-- the load in progress is the one reload of R84 -/
  reloaded : Bool := false
  /-- passes issued to the Big Top that wait, in order: for a tile load (03 R73), a diagnostic (R90) or a pass before them -/
  queue : List PassReq := []
  bank0 : BankLog := {}
  bank1 : BankLog := {}
  /-- SUSPECT -/
  suspect : Bool := false
  /-- LOCALISE_PENDING, and a localisation running -/
  localisePending : Bool := false
  /-- device time of the slot boundary at which the staged localisation takes effect (03 R90) -/
  localiseAt : Nat := 0
  localising : Bool := false
  /-- KIND, ROW and COL of BTP_LOCALISE -/
  kind : Nat := 0
  locRow : Nat := 0
  locCol : Nat := 0
  /-- BTP_SPARE_MAP in force in the array, and whether an applied change has yet to take effect (03 R92) -/
  mapInForce : Word := 0
  mapPending : Bool := false
  mapAppliedAt : Nat := 0
  /-- a run is in progress; rows it has issued since its last start ramp; the times between which a ramp is in progress -/
  inRun : Bool := false
  runRows : Nat := 0
  ramps : List (Nat × Nat) := []
  /-- whether any row has issued since the Plot left idle -/
  issued : Bool := false
  /-- BTP_NUM_ACTIVE and BTP_WIN_POS of the pass last issued (02 R67) -/
  numActive : Word := 0
  winPos : Word := 0
deriving DecidableEq, Repr

/-- A chain as issued: the context and the step it serves, its window entry, its 512-bit descriptor (04 R99), the names by which
the Plan's FEEDS entries name its tensor and its bank (11 R278), and the tensor that the bank's passes read as activation (02 R62). -/
structure ChainReq where
  ctx : Nat
  step : Nat
  entry : Nat
  desc : Nat
  name : Nat := 0
  bankName : Nat := 0
  act : Nat := 0
  /-- entries of the bank whose read meets a write of the same step (04 R98) -/
  races : List Nat := []
  /-- verdicts that its bank awaited when it was dispatched and that have not been reached (04 R98) -/
  needs : Nat := 0
deriving DecidableEq, Repr

/-- What a chain's output leaves to be decided at its end (02 R58, R60; 04 R111). -/
structure ChainResult where
  req : ChainReq
  numflags : Nat := 0
  shift : Int := 0
  ovf : Nat := 0
  unf : Nat := 0
  /-- elements the pass writes -/
  elems : Nat := 0
  /-- excess k_over; none where above 31 -/
  kOver : Option Nat := none
  /-- headroom k_head -/
  kHead : Nat := 0
  /-- SEG_IDs of the segments that hold a saturated or underflowed element, and of every segment (02 R63, R88) -/
  badSegs : List Nat := []
  segs : List Nat := []
  marked : Bool := false
  /-- the learned values are not used (03 R88) -/
  net : Bool := false
deriving DecidableEq, Repr

/-- A Sieve (04 R95). -/
structure Sieve where
  /-- vector registers by register × 256 + Lane -/
  v : SMap Word := []
  /-- the two working scale banks, at reset 1.0 in every column (02 R56, R68) -/
  scale0 : SMap Word := []
  scale1 : SMap Word := []
  /-- ACTIVE_BANK -/
  active : Bool := false
  /-- TABLE_BUSY -/
  tableBusy : Bool := false
  /-- the chain that waits for bank verdicts (04 R98): WAIT_VERDICT -/
  waiting : Option ChainReq := none
  /-- chains issued after it, or while one runs, in order (04 R102) -/
  held : List ChainReq := []
  /-- the chain whose last write has yet to land: BUSY -/
  running : Option ChainResult := none
  /-- a triggered retry that Tightrope has not yet answered, or that runs -/
  retry : Option ChainResult := none
  retryGranted : Bool := false
  retryCost : Nat := 0
deriving DecidableEq, Repr

/-- States of a window entry (06 R157). -/
inductive WinState where
  | free | active | zeroing | held
deriving DecidableEq, Repr

/-- Code of a window state in STO_WIN_STATE (06 R160). -/
def WinState.code : WinState → Nat
  | .free => 0 | .active => 1 | .zeroing => 2 | .held => 3

/-- One window entry's state beside its registers (06 R157). -/
structure WinSt where
  st : WinState := .free
  /-- order in which it entered ZEROING -/
  order : Nat := 0
  /-- rows zeroed so far in the weight, activation and partial-sum windows -/
  doneW : Nat := 0
  doneA : Nat := 0
  doneP : Nat := 0
  /-- the window as it stood when the entry left ACTIVE: W_BASE, W_SIZE, A_BASE, A_SIZE, P_BASE, P_SIZE -/
  wBase : Nat := 0
  wSize : Nat := 0
  aBase : Nat := 0
  aSize : Nat := 0
  pBase : Nat := 0
  pSize : Nat := 0
  /-- owning partition and context at that moment -/
  part : Nat := 0
  ctx : Nat := 0
deriving DecidableEq, Repr

/-- The spares of a macro in service (06 R155, R160): targets of spare rows 0 and 1 and spare columns 0 and 1. -/
structure MacroSpares where
  row0 : Option Nat := none
  row1 : Option Nat := none
  col0 : Option Nat := none
  col1 : Option Nat := none
deriving DecidableEq, Repr

/-- A Graft copy or rewrite in progress (06 R156). -/
structure RepairRun where
  mac : Nat
  /-- whether a column is rewritten, and which -/
  column : Bool
  target : Nat
  /-- macro rows done -/
  next : Nat := 0
  /-- macro rows not done whose codeword of the column a client or the scrub slot has written since, through the spare -/
  fresh : List Nat := []
deriving DecidableEq, Repr

/-- Which store an ECC event, an out-of-bound access or a race concerned last; the words of STO_ECC_INFO and so on. -/
structure Stores where
  win : SMap WinSt := []
  /-- counter that orders entries into ZEROING -/
  zeroOrder : Nat := 0
  /-- turn numbers of the three stores -/
  turnW : Nat := 0
  turnA : Nat := 0
  turnP : Nat := 0
  /-- accesses held for the next turn (06 R144), by store -/
  heldW : List RowAccess := []
  heldA : List RowAccess := []
  heldP : List RowAccess := []
  /-- rows queued for write-back, up to 8 a store -/
  wbW : List Nat := []
  wbA : List Nat := []
  wbP : List Nat := []
  /-- the patrol's next rows -/
  patrolW : Nat := 0
  patrolA : Nat := 0
  patrolP : Nat := 0
  /-- whether the patrol ran in the last turn of each store, by store number -/
  patrolRan : Nat := 0
  /-- what the reads of the last turn of each store delivered: slot and row data -/
  dlvW : List (Nat × Nat) := []
  dlvA : List (Nat × Nat) := []
  dlvP : List (Nat × Nat) := []
  /-- STO_RACE_INFO, one per view, by view number -/
  race : SMap Word := []
  /-- STO_ECC_INFO and STO_OOB_INFO -/
  ecc : Word := 0
  oob : Word := 0
  /-- the macro that STO_REPAIR_Q named, per view -/
  query : SMap Nat := []
  spares : SMap MacroSpares := []
  repair : List RepairRun := []
deriving DecidableEq, Repr

/-- The units of a Plot that carry state of their own here. -/
structure PlotSt where
  btp : BigTop := {}
  siv : Sieve := {}
  sto : Stores := {}
deriving DecidableEq, Repr

/-- Scales read 1.0 at reset. -/
def scaleUnlisted (_ : Nat) : Word := 0x3F800000

/-- A Plot's state at reset. -/
def plotUnlisted (_ : Nat) : PlotSt := {}

end Sys2Proof.Machine
end

