-- ==== Sys2Proof/Machine/StatePwr.lean ====
section
/-!
DEFINITION. The state of power, reset and start-up (19), of the pace monitors (01 R23) and of the Almanac (19 R470, R471).
-/

namespace Sys2Proof.Machine

/-- A record of the Almanac (19 R471), without its MAGIC and CRC. -/
structure AlmRec where
  start : Nat
  step : Nat
  outcome : Nat
  variant : Nat := 0
  unit : Nat := 0xFF
  /-- bytes 12 to 27 as one little-endian number -/
  detail : Nat := 0
deriving DecidableEq, Repr

/-- Power, reset and start-up. -/
structure Pwr where
  /-- thermal level and power level (19 R462, R463) -/
  thermal : Nat := 0
  power : Nat := 0
  /-- VR_OK; while it is 0 after start-up's step 9 the loop is suspended -/
  vrOk : Bool := false
  /-- the voltage loop has been started -/
  loop : Bool := false
  vcore : Nat := 750
  iout : Nat := 0
  /-- consecutive failed PMBus transactions -/
  pmbFails : Nat := 0
  /-- free-running times of the last raise and of the last lowering, and since when every record has been high -/
  raisedAt : Option Nat := none
  loweredAt : Option Nat := none
  highSince : Option Nat := none
  /-- a pace-shortfall episode is running -/
  short : Bool := false
  /-- sensor readings, signed, in 0.25 °C, and their maxima since the last SNAP -/
  temp : SMap Int := []
  tempMax : SMap Int := []
  tempQ : SMap Nat := []
  /-- rail voltages in mV, in the order of sensors 32 to 41 (20 R477) -/
  volts : List Nat := []
  plotsOut : Nat := 0
  ready : Bool := false
  recovery : Bool := false
  start : Nat := 0
  /-- the start-up step in progress; 0 none -/
  step : Nat := 1
  /-- the start in progress is that of a device recovery -/
  recovering : Bool := false
  /-- variant in force of each step -/
  variants : SMap Nat := []
  /-- clean starts since a step's variant was altered -/
  clean : SMap Nat := []
  /-- consecutive starts in which a Plot was left out -/
  outRuns : SMap Nat := []
  /-- the Almanac, oldest first -/
  almanac : List AlmRec := []
  /-- a write to the Almanac has failed at this start -/
  almFail : Bool := false
  /-- state of each power domain: 0 OFF, 1 ON, 2 RET, 3 switching -/
  dom : SMap Nat := []
  /-- domains that a PWR_DOM commit is still bringing to their state, in order -/
  switching : List (Nat × Nat) := []
  /-- per Plot: count of the latest pace window, lowest since SNAP plus 1, windows since the last fourth -/
  paceNow : SMap Nat := []
  paceMin : SMap Nat := []
  paceWin : SMap Nat := []
  /-- aging margins: Plot × 32 + monitor, and Thresher units; 0xFF until read -/
  age : SMap Nat := []
  ageThr : SMap Nat := []
  /-- mean input power of the last complete 100 ms window, in W -/
  meanW : Nat := 0
  /-- mean VCORE current of that window, in A, and the highest reading of each sensor in the window in progress and in the last
  complete one (15 R380) -/
  meanA : Nat := 0
  tempRun : SMap Int := []
  tempWin : SMap Int := []
  /-- PERST# is asserted, and since when start-up has not ended -/
  perst : Bool := true
  /-- BYP_OPEN level -/
  bypOpen : Bool := false
  /-- a rail is out of range, or the order of R460 has been broken -/
  railBad : Bool := false
  /-- PORST_N is high -/
  porstHigh : Bool := true
  /-- straps sampled at power-on reset: RING_SIZE, RING_POS (14 R340) -/
  ringSize : Nat := 0
  ringPos : Nat := 0
  strapErr : Bool := false
deriving DecidableEq, Repr

/-- Aging margins read 0xFF until a monitor reports (19 R473, R474). -/
def ageUnlisted (_ : Nat) : Nat := 0xFF

end Sys2Proof.Machine
end

