-- ==== Sys2Proof/Machine/StateRing.lean ====
section
/-!
DEFINITION. The state of the Peseif Ring (14): the two ports with their links, routes, key counters and replay windows.
-/

namespace Sys2Proof.Machine

/-- States of a port (14 R355). -/
inductive PortState where
  | down | training | up
deriving DecidableEq, Repr

/-- A frame held for resending (14 R344): its sequence number, the packet bytes it carries, how often it was resent. -/
structure LinkFrame where
  seq : Nat
  bytes : List (BitVec 8)
  resent : Nat := 0
deriving DecidableEq, Repr

/-- A ring port (14 R340 to R345). -/
structure RingPort where
  st : PortState := .down
  /-- route-away has been commanded; it stays through retraining (14 R352) -/
  away : Bool := false
  /-- ROUTE_AWAY_DONE is still owed -/
  awayOwed : Bool := false
  rate : Nat := 3
  x4 : Bool := false
  /-- ring position of the far end -/
  far : Nat := 0
  /-- frames sent and not acknowledged, oldest first; the next sequence number; the next expected one -/
  hold : List LinkFrame := []
  txSeq : Nat := 0
  rxSeq : Nat := 0
  /-- free-running time of the last acknowledgement, or since when one is owed -/
  ackAt : Nat := 0
deriving DecidableEq, Repr

/-- Code of a port's state in PSF_STATUS (14 R355). -/
def RingPort.code (x : RingPort) : Nat :=
  if x.away then 3
  else match x.st with
    | .down => 0
    | .training => 1
    | .up => 2

/-- The replay window of one sender and key slot (14 R347): the highest counter accepted, and those accepted below it. -/
structure Replay where
  top : Nat := 0
  any : Bool := false
  seen : List Nat := []
deriving DecidableEq, Repr

/-- The Peseif Ring. -/
structure Ring where
  east : RingPort := {}
  west : RingPort := {}
  /-- PRESENT -/
  present : Nat := 0
  /-- the links of the ring beyond this device's own, as its routing knows them, by the position at their west end: cost, plus 8
  where the link passes over one bypassed device; 0 none -/
  links : SMap Nat := []
  /-- routes in force: EAST and REACH -/
  routeEast : Nat := 0
  reach : Nat := 0
  /-- message counters, by key slot × 8 + destination -/
  txCnt : SMap Nat := []
  /-- replay windows, by sender × 64 + key slot -/
  rx : SMap Replay := []
deriving DecidableEq, Repr

/-- Reset values. -/
def replayUnlisted (_ : Nat) : Replay := {}

end Sys2Proof.Machine
end

