-- ==== Sys2Proof/Machine/StateRms.lean ====
section
/-!
DEFINITION. The state of the Ringmaster, the Roster and Tightrope (11), of Greenhouse (12) and of provenance (13).
-/

namespace Sys2Proof.Machine

/-- States of a context (11 R270). -/
inductive CtxState where
  | free | swapped | deferred | idle | running | blocked | swapping | faulted
deriving DecidableEq, Repr

/-- The code of a context state (11 R270). -/
def CtxState.code : CtxState → Nat
  | .free => 0 | .swapped => 1 | .deferred => 2 | .idle => 3 | .running => 4 | .blocked => 5 | .swapping => 6
  | .faulted => 7

/-- An accepted library entry: the Ringmaster's own copy (11 R275). -/
structure LibEntry where
  /-- the 128-bit index entry -/
  index : Nat
  /-- the Plan's bytes from its header on -/
  plan : List (BitVec 8)
deriving DecidableEq, Repr

/-- One grant or work-list item of a step, to be harvested (11 R284, R285; 17 R428). -/
structure Grant where
  /-- the 256-bit work-list item -/
  item : Nat := 0
  /-- whether it stands in the work list; one that does not carries its reason as status -/
  admitted : Bool := true
  /-- STATUS of its harvest record (17 R427) -/
  status : Nat := 0
  sectionId : Nat := 0
  hostTag : Nat := 0
  txCnt : Nat := 0
  /-- AST of the allocation (10 R246) -/
  ast : Nat := 0
  numflags : Nat := 0
  harvested : Bool := false
deriving DecidableEq, Repr

/-- Engine state saved at a PPT for a context that has left the engine (11 R279, R289): the item of the carried list, and for
the register banks of Sprouts the banks, whose layout in the save rows the spec does not give (log 45). -/
structure SavedItem where
  item : Nat
  banks : List (Nat × SproutSt) := []
  /-- the replay log of a saved accumulator bank (log 55) -/
  log : BankLog := {}
  /-- the format codes and WIN_POS of each of the bank's entries; those of a windowed one stand in 256-bit slots -/
  fmts : List (Nat × Nat × Int) := []
  /-- partial-sum rows the item took, from this one on, relative to the window -/
  row : Nat := 0
  rows : Nat := 0
deriving DecidableEq, Repr

/-- A task of a step on its engine (11 R277, R278). -/
structure TaskSt where
  engine : Nat
  plot : Nat
  pos : Nat := 0
  win : Nat := 0
  /-- BOUND -/
  bound : Nat := 0
  /-- byte offsets in the Plan: of the next entry, of the descriptor base, of the last PPT passed -/
  pc : Nat
  desc : Nat := 0
  lastPpt : Nat
  /-- times each signal has been raised -/
  signals : SMap Nat := []
  /-- the OP issued and not completed: its descriptor -/
  op : Option Nat := none
  done : Bool := false
  /-- stopped at a PPT for a pre-emption, or at once by a teardown -/
  stopped : Bool := false
  /-- to start again from its last PPT (11 R292) -/
  restart : Bool := false
  /-- the engine state saved at the last PPT, to be restored when the engine serves the task again, and its SAVE_ROW -/
  saved : List SavedItem := []
  saveRow : Nat := 0
  /-- the carried list of the last PPT passed -/
  items : List Nat := []
  /-- `saved` holds what the engine must restore before it serves the task again -/
  isSaved : Bool := false
  /-- layer boundaries declared: epilogue OP's entry, prologue mask, OVL_STEPS -/
  bounds : List (Nat × Nat × Nat) := []
  /-- it waits for a tile that is not delivered, which has been counted (07 R171) -/
  dryWait : Bool := false
  /-- waits on a ring request -/
  ringWait : Bool := false
  /-- steps its engine has spent on it -/
  steps : Nat := 0
deriving DecidableEq, Repr

/-- A step of a context (11 R273, R280, R294 to R297). Times are device times in units of 2^−16 ns. -/
structure StepSt where
  n : Nat
  /-- slots since the grid's epoch at its boundary, before STEP_OFS -/
  slotK : Int := 0
  boundary : Int := 0
  /-- library index selected -/
  lib : Nat := 0
  /-- the descriptor fetched: its header of 512 bits and its body; none where absent -/
  header : Option Nat := none
  body : List (BitVec 8) := []
  built : Bool := false
  /-- the step boundary has come and the step is not dispatched -/
  owed : Bool := false
  /-- it runs no Plan: its descriptor is absent and NO_DESC is 1, or no library entry is valid, or no captured Plan matches -/
  noRun : Bool := false
  /-- the Plan it runs, from its header on -/
  plan : List (BitVec 8) := []
  /-- PARITY of the step -/
  parity : Nat := 0
  /-- GEN mod 2, given at dispatch (12 R314) -/
  gen : Nat := 0
  dispatched : Bool := false
  late : Bool := false
  grants : List Grant := []
  tasks : List TaskSt := []
  /-- RESERVE_LEFT in units of 2^−16 ns -/
  reserve : Nat := 0
  /-- steps of grants whose completion has not been posted -/
  g : Nat := 0
  /-- ALLOC records written, and allocations with any of AST bits 0 to 3 set -/
  nAlloc : Nat := 0
  nFb : Nat := 0
  /-- allocations that a tensor or bank feeds, by FEEDS entries (11 R278) -/
  feeds : List (Nat × List Nat) := []
  /-- a replay step's record in the capture region: its byte offset (13 R337) -/
  capture : Option Nat := none
  /-- tasks that have passed each checkpoint -/
  passed : SMap Nat := []
  chkpt : Nat := 0
  /-- T_IN and REM of the latest checkpoint, in units of 0.1 µs and in steps -/
  tIn : Nat := 0
  rem : Nat := 0
  /-- device time at which the latest checkpoint was reached, and whether one has been -/
  chkAt : Nat := 0
  chkSeen : Bool := false
  /-- margin and predicted completion of the latest checkpoint, in units of 2^−16 ns -/
  margin : Int := 0
  marginMin : Int := 0
  tPred : Int := 0
  cut : Option Nat := none
  /-- provenance flags (13 R335) -/
  flags : Nat := 0
  /-- provenance tag -/
  tag : Nat := 0
  numflags : Nat := 0
  /-- SHIFT of the tensors that its read-outs have written, by name, the latest first (02 R62) -/
  shifts : List (Nat × Int) := []
  ended : Bool := false
  aborted : Bool := false
deriving DecidableEq, Repr

/-- What the Ringmaster keeps of a context. -/
structure CtxSt where
  st : CtxState := .free
  slot : Option Nat := none
  /-- the resident slot it is to take once the context there has been swapped out -/
  awaitSlot : Option Nat := none
  /-- the number of the next non-real-time step (17 R421) -/
  next : Nat := 0
  steps : List StepSt := []
  lib : SMap LibEntry := []
  /-- library index of the latest step, and its PARITY -/
  plan : Nat := 0
  parity : Bool := false
  /-- a fault record waits to begin the teardown, with its cause (11 R301) -/
  fault : Option Nat := none
  /-- the teardown has begun, and when -/
  tearing : Bool := false
  tearAt : Nat := 0
  /-- a pre-emption is in progress (11 R291) -/
  preempting : Bool := false
  /-- carried state stands in the carried area -/
  carried : Bool := false
  /-- the context's windows wait to be placed (11 R272) -/
  swapInWait : Bool := false
  /-- deficits kept while swapped out, by engine -/
  deficits : SMap Int := []
  /-- accounting of the four engine classes and its epoch (11 R290) -/
  acct : SMap Nat := []
  epoch : Nat := 0
  /-- free-running time of the last entry completed -/
  beat : Nat := 0
  /-- records waiting for the harvest ring, PROD, cached CONS (17 R425) -/
  harvWait : List Nat := []
  prod : Nat := 0
  cons : Nat := 0
  /-- Furrows put aside by a swap-out: Irrigator, Furrow, its state -/
  furrows : List (Nat × Nat × Furrow) := []
  /-- GEN of a Greenhouse context (12 R314) -/
  gen : Nat := 0
  /-- probation of a promotion: slots left, blocks counted, failures (12 R319) -/
  probation : Nat := 0
  probBlocks : Nat := 0
  probFails : Nat := 0
  /-- a rollback is staged for the next slot boundary -/
  rollback : Bool := false
  /-- free-running time of the last change of its library-half bit (12 R316) -/
  selAt : Option Nat := none
  /-- latest evaluation record of the context as TARGET, and PASS (12 R315) -/
  pass : Bool := false
  evalN : Nat := 0
  evalCand : Nat := 0
  evalFlags : Nat := 0
  evalServe : Word := 0
  evalMetric : Word := 0
  /-- in a lockstep step: the mark as free-running time, edges so far (13 R330) -/
  lockMark : Option Nat := none
  lockEdge : Nat := 0
deriving DecidableEq, Repr

/-- A context's state at reset. -/
def ctxUnlisted (_ : Nat) : CtxSt := {}

/-- A C-plane record as the Turnstile posts it (09 R218). -/
structure CpRecord where
  grid : Nat
  dir : Nat
  frame : Nat
  subframe : Nat
  slot : Nat
  sectionId : Nat
  startPrb : Nat
  numPrb : Nat
  segId : Nat
  chunk : Nat
  placed : Bool
  ru : Nat := 0
  /-- slots since the epoch -/
  slotK : Int := 0
deriving DecidableEq, Repr

/-- The Ringmaster, the Roster, Tightrope, Greenhouse and provenance. -/
structure Rms where
  ctx : SMap CtxSt := []
  /-- context of each resident slot plus 1; 0 free -/
  slot : SMap Nat := []
  /-- rotating pointers and deficits of the engines (11 R288), by engine, and by engine × 16 + slot -/
  ptr : SMap Nat := []
  deficit : SMap Int := []
  /-- resident slot that each engine serves, plus 1; 0 idle -/
  serving : SMap Nat := []
  /-- resident slot that each engine served last, plus 1 -/
  lastServed : SMap Nat := []
  /-- Roster entries of 512 bits -/
  roster : SMap Nat := []
  /-- RST_BUF, one per view: view × 16 + word -/
  rstBuf : SMap Word := []
  rstResult : Nat := 0
  /-- C-plane records posted and not yet used -/
  cplane : List CpRecord := []
  /-- accounting as it stood at the last whole microsecond (15 R380), by context × 4 + class -/
  acctUs : SMap Nat := []
  /-- RMS_LIB_RESULT: code, context, index -/
  libCode : Nat := 0
  libCtx : Nat := 0
  libIndex : Nat := 0
  /-- queries latched per view: RMS_SLOT_Q, RMS_ACCT_Q, TRP_SLOT_Q, RMS_GH_EVAL_Q -/
  slotQ : SMap Nat := []
  acctQ : SMap Nat := []
  trpQ : SMap Nat := []
  ghQ : SMap Nat := []
  /-- latest pace record of each Plot: steps per window, and its free-running time plus 1 -/
  pace : SMap Nat := []
  paceAt : SMap Nat := []
  /-- TRP_LOG_WR -/
  logWritten : Nat := 0
  /-- weight sets: HASH_OK, the hash, and the entry being hashed (13 R334) -/
  wsetOk : SMap Bool := []
  wsetHash : SMap Nat := []
  wsetBusy : Option Nat := none
  wsetQ : SMap Nat := []
  /-- capture: steps still to capture, steps captured, bytes written in the region (13 R336) -/
  capLeft : Nat := 0
  captured : Nat := 0
  capOfs : Nat := 0
deriving DecidableEq, Repr

/-- Integers read 0 until written. -/
def intUnlisted (_ : Nat) : Int := 0

end Sys2Proof.Machine
end

