-- ==== Sys2Proof/Machine/StateSec.lean ====
section
/-!
DEFINITION. The state of partitions, keys, identity, attestation and debug (15).
-/

namespace Sys2Proof.Machine

/-- States of a partition (15 R383). -/
inductive PartState where
  | off | active | closing | scrubbing | held
deriving DecidableEq, Repr

/-- Code of a partition state in SEC_PART_STATE (15 R383). -/
def PartState.code : PartState → Nat
  | .off => 0 | .active => 1 | .closing => 2 | .scrubbing => 3 | .held => 4

/-- What the device keeps of a partition (15 R362, R381, R382; 16 R402). -/
structure PartSt where
  st : PartState := .off
  /-- t0 of the disable sequence in progress -/
  since : Nat := 0
  /-- an FLR triggered or joined the sequence: what its steps would write to the host is discarded -/
  discard : Bool := false
  /-- the partition wrapping key -/
  pwk : Option (List (BitVec 8)) := none
  /-- debug sessions that touched it (15 R374) -/
  sessions : Nat := 0
  /-- free-running time at which a partition reset was staged -/
  resetAt : Option Nat := none
  /-- an FLR of the partition's VF waits for the sequence to end (17 R433) -/
  flr : Bool := false
deriving DecidableEq, Repr

/-- A job key (15 R361, R363). -/
structure JobKey where
  use : Nat
  job : Nat
  part : Nat
  /-- bytes 28 to 75 of the blob, decrypted -/
  key : List (BitVec 8)
deriving DecidableEq, Repr

/-- A fenced DRAM area (15 R378): bytes from a Trellis address. -/
structure Fence where
  part : Nat
  ctx : Nat
  base : Nat
  len : Nat
  /-- the memory controller zeroes it before the fence lifts -/
  zeroing : Bool := false
deriving DecidableEq, Repr

/-- An IDE stream (15 R364). -/
structure IdeStream where
  /-- key sets: 4 × direction … by key set, sub-stream and direction, as programmed -/
  keys : SMap (List (BitVec 8)) := []
  /-- K_SET_GO has been given for a key set -/
  going : SMap Bool := []
  insecure : Bool := false
  /-- the stream has been set going -/
  secure : Bool := false
deriving DecidableEq, Repr

/-- What an SPDM transport instance keeps (15 R372, R373). -/
structure Spdm where
  version : Bool := false
  caps : Bool := false
  algs : Bool := false
  /-- transcript of the messages so far -/
  transcript : List (BitVec 8) := []
  /-- transcript hash that the immediately preceding response signed -/
  signed : Option (List (BitVec 8)) := none
deriving DecidableEq, Repr

/-- An SPDM session (15 R372). -/
structure Session where
  id : Nat
  transport : Nat
  established : Bool := false
  /-- key generations of requester and responder -/
  genReq : Nat := 0
  genRsp : Nat := 0
deriving DecidableEq, Repr

/-- Partitions, keys, identity, attestation and debug. -/
structure Sec where
  parts : SMap PartSt := [(0, { st := .active })]
  keys : SMap JobKey := []
  fences : List Fence := []
  ide : SMap IdeStream := []
  spdm : SMap Spdm := []
  sessions : List Session := []
  /-- SEC_KEY_SRC and SEC_KEY_RESULT, per view -/
  srcLo : SMap Word := []
  srcHi : SMap Word := []
  result : SMap Word := []
  job : SMap Word := []
  /-- SEC_STATUS.ID_OK, SEC_PUF_STAT -/
  idOk : Bool := false
  pufCorrected : Nat := 0
  pufAttempts : Nat := 0
  /-- debug log: the last 256 records, oldest first; sequence number; the chain C, 32 bytes -/
  dbgLog : List (List (BitVec 8)) := []
  dbgSeq : Nat := 0
  chain : List (BitVec 8) := List.replicate 32 0
  jtag : Bool := false
  console : Bool := false
  /-- debug sessions open: KIND, mask of partitions touched, context or Plot named (15 R375) -/
  dbgOpen : List (Nat × Nat × Nat) := []
  /-- sessions begun since power-on -/
  dbgBegun : Nat := 0
  /-- a PF FLR waits for every partition's sequence to end (17 R433) -/
  pfFlr : Bool := false
  /-- SVN of each object type, and MIN_SVN of the helper-data record -/
  svn : SMap Nat := []
  minSvn : Nat := 0
deriving DecidableEq, Repr

/-- A partition's state where none is listed. -/
def partUnlisted (_ : Nat) : PartSt := {}
/-- An SPDM instance's state at reset. -/
def spdmUnlisted (_ : Nat) : Spdm := {}
/-- An IDE stream's state at reset. -/
def ideUnlisted (_ : Nat) : IdeStream := {}

end Sys2Proof.Machine
end

