-- ==== Sys2Proof/Machine/StateThr.lean ====
section
/-!
DEFINITION. The state of the Thresher (10 R253 to R264): the jobs of each queue, weight sets, units.
-/

namespace Sys2Proof.Machine

/-- A job as it stands in its queue (10 R254), with what its blocks have given so far (10 R257, R258). -/
structure ThrJob where
  /-- the 512-bit header -/
  header : Nat
  /-- code-block entries -/
  blocks : List Nat
  payload : List (BitVec 8)
  refused : Bool := false
  /-- the weight set taken when the job started -/
  wset : Nat := 0
  started : Bool := false
  /-- items done, failed blocks, largest iteration count, iterations, unit of the last, a block was re-run -/
  next : Nat := 0
  fails : Nat := 0
  itMax : Nat := 0
  itSum : Nat := 0
  unit : Nat := 0
  rerun : Bool := false
  crcOk : Bool := false
  metric : Nat := 0
  /-- payload bits so far -/
  bits : List Bool := []
  /-- the item in progress is being re-run after a check mismatch (10 R264) -/
  again : Bool := false
deriving DecidableEq, Repr

/-- A weight set as dispatch leaves it: ALPHA 13 and BETA 0 in its 128 entries (10 R256). -/
def wsetDefault : Nat := (2 ^ 2048 - 1) / (2 ^ 16 - 1) * 13

/-- Reset value of a weight set. -/
def wsetUnlisted (_ : Nat) : Nat := wsetDefault

/-- The Thresher. -/
structure Thr where
  /-- decode and encode queues, by resident slot -/
  dec : SMap (List ThrJob) := []
  enc : SMap (List ThrJob) := []
  /-- weight sets, by 4 × slot + set -/
  wset : SMap Nat := []
  /-- units that are busy, and units that are re-running an item -/
  busy : Nat := 0
  rerunning : Nat := 0
deriving DecidableEq, Repr

/-- Queues are empty at reset. -/
def queueUnlisted (_ : Nat) : List ThrJob := []

end Sys2Proof.Machine
end

