-- ==== Sys2Proof/Machine/StateTrn.lean ====
section
/-!
DEFINITION. The state of the Turnstile (09) and of its PTP port engine (08 R201).
-/

namespace Sys2Proof.Machine

open Sys2Proof

/-- A section that waits for its grid's layout to be frozen (09 R227). -/
structure PendSect where
  grid : Nat
  slotK : Int
  sectionId : Nat
  startPrb : Nat
  /-- the PRBs it covers, ascending -/
  prbs : List Nat
  syms : List Nat
  /-- its C-plane record, but for PLACED and SEG_ID (R218) -/
  record : Nat
  ru : Nat
  mods : List ModComp := []
deriving DecidableEq, Repr

/-- A placed allocation (09 R228). -/
structure Alloc where
  seg : Nat
  sectionId : Nat
  startPrb : Nat
  prbs : List Nat
  chunk : Nat
  /-- Lane group of its chunk's tile that its first group is -/
  first : Nat
  syms : List Nat
  /-- parameters of modulation compression (R217) -/
  mods : List ModComp := []
deriving DecidableEq, Repr

/-- A grid's layout of one slot, with the grid's configuration at the freeze (09 R227, R229). -/
structure Layout where
  grid : Nat
  slotK : Int
  mu : Nat
  nPrb : Nat
  down : Bool
  /-- flow of each stream, where an enabled one is mapped to it -/
  flows : List (Option Nat)
  chunks : Nat
  lrows : Nat
  pyrRows : Nat
  /-- symbols with a pyramid tile -/
  pyrMask : Nat
  allocs : List Alloc
deriving DecidableEq, Repr

/-- A chunk-symbol (09 R230). -/
structure ChunkSym where
  grid : Nat
  chunk : Nat
  slotK : Int
  sym : Nat
  /-- grid time at which it opened and closed -/
  openedAt : Option Int := none
  closedAt : Option Int := none
  /-- written PRBs: 12 Lanes of 32 bits and bit 384, by (SEG_ID × 32 + stream) × 512 + PRB -/
  data : SMap Nat := []
  /-- PRBs that came to nothing before the close: 1 rejected, 2 shed -/
  rej : SMap Nat := []
  /-- bytes of assembly memory -/
  bytes : Nat := 0
  /-- units offered, and pyramid units -/
  next : Nat := 0
  nextPyr : Nat := 0
  /-- tile discarded as stale, and pyramid tile -/
  stale : Bool := false
  stalePyr : Bool := false
deriving DecidableEq, Repr

/-- A frequency and timing correction in force from a grid time (09 R225). -/
structure Nco where
  /-- 0.01 Hz -/
  f : Int := 0
  /-- 1/16 ns -/
  ta : Int := 0
  /-- phase at `since`, in units of 1 / (100 × 10^9 × 2^16 × 768) cycle -/
  phase : Int := 0
  since : Int := 0
deriving DecidableEq, Repr

/-- A feedback record that waits for its subframe boundary (09 R225). -/
structure Feedback where
  word : Nat
  /-- subframe from which it is in force -/
  due : Int
deriving DecidableEq, Repr

/-- A downlink tile (09 R238): its Lane rows so far. -/
structure DlTile where
  grid : Nat
  slotK : Int
  sym : Nat
  rows : List Nat := []
  /-- radio units whose window has opened, to which it has been sent, and for which it came too late -/
  openTo : List Nat := []
  sentTo : List Nat := []
  lateTo : List Nat := []
deriving DecidableEq, Repr

/-- A C-plane frame in the hold queue (09 R219). -/
structure Held where
  ru : Nat
  /-- grid time at which its window opens -/
  opens : Int
  /-- grid time at which it closes -/
  closes : Int
  words : List Nat
deriving DecidableEq, Repr

/-- An exchange of the PTP port engine (08 R201): t1 with its correction; t2 and t3, as stamps (08 R194); t4 with its correction. -/
structure PtpEx where
  seq : Nat := 0
  t1 : Option Nat := none
  c1 : Int := 0
  t2 : Option Nat := none
  t3 : Option Nat := none
  t4 : Option (Nat × Int) := none
  /-- sequence of the next Delay_Req -/
  dreq : Nat := 0
deriving DecidableEq, Repr

/-- A message that waits in the shed stream for its ring (09 R236, 17 R432). -/
structure ShedMsg where
  fn : Nat
  hdr : Nat
  bytes : Nat
deriving DecidableEq, Repr

/-- What the Turnstile keeps of a radio unit. -/
structure RuSt where
  /-- TD_UL and TD_DL, signed, 1/16 ns (R222) -/
  tdUl : Int := 0
  tdDl : Int := 0
  /-- free-running time of the last measurement, plus 1 -/
  tdAt : Nat := 0
  /-- t1 of the Request sent, and arrival of a Request whose Follow_Up has not come: sequence and stamp -/
  reqT1 : Option (Nat × Nat) := none
  reqT2 : Option (Nat × Nat) := none
  seq5 : Nat := 0
  /-- corrections, newest first, of three boundaries at most; the last listed holds before the others -/
  nco : List Nco := []
  /-- next PN to send, and last PN accepted of the two receive SAs, plus 1 (R220) -/
  txPn : Nat := 1
  rxPn0 : Nat := 0
  rxPn1 : Nat := 0
  /-- words 4 to 13 of TRN_RU_RD (R240) -/
  cnt : List Nat := List.replicate 10 0
deriving DecidableEq, Repr

/-- What the Turnstile keeps of a flow. -/
structure FlowSt where
  /-- last eCPRI sequence number received, plus 1; next to send (R232, R238) -/
  seq : Nat := 0
  txSeq : Nat := 0
  /-- free-running times of its latest claim overruns, newest first, 16 at most (R234) -/
  overruns : List Nat := []
  quarantined : Bool := false
  /-- grid time of its release -/
  freedAt : Option Int := none
deriving DecidableEq, Repr

/-- The Turnstile. -/
structure Trn where
  /-- PORT_UP, ports that retrain, ports that shed -/
  portUp : Nat := 0
  retraining : Nat := 0
  shedding : Nat := 0
  ru : SMap RuSt := []
  flow : SMap FlowSt := []
  hold : List Held := []
  pend : List PendSect := []
  layouts : List Layout := []
  syms : List ChunkSym := []
  feedback : List Feedback := []
  dl : List DlTile := []
  /-- symbol that each downlink grid's next tile is for: 14 × slot + symbol, plus 1 -/
  dlNext : SMap Nat := []
  /-- the radio unit TRN_RU_Q named, per view -/
  ruQ : SMap Nat := []
  ptpA : PtpEx := {}
  ptpB : PtpEx := {}
  shed : List ShedMsg := []
deriving DecidableEq, Repr

/-- A radio unit's state at reset. -/
def ruUnlisted (_ : Nat) : RuSt := {}
/-- A flow's state at reset. -/
def flowUnlisted (_ : Nat) : FlowSt := {}

end Sys2Proof.Machine
end

