-- ==== Sys2Proof/Machine/State.lean ====
section
/-!
DEFINITION. The state of the block: the queue of waiting commands, memory, and every register, buffer, counter and mode
that the spec gives it, as plain data; and the state right after reset.
-/

namespace Sys2Proof.Machine

open Sys2Proof

/-- Why a run can stop with a fault. No command of this block stops so: a fault of the spec is a record, an event and a
teardown, and is a next state; the type has no constructor. -/
inductive Fault
deriving DecidableEq, Repr

/-- Why a command can be refused. -/
inductive Refusal where
  /-- Raised by the dispatch for a command whose meaning is not written yet; safe. -/
  | notModelled (mnemonic : String)
deriving DecidableEq, Repr

/-- The state. -/
structure State where
  /-- the commands that wait, first in, first out (the model's queue) -/
  pending : List Instr := []
  /-- whether power-on reset holds the device (19 R465) -/
  held : Bool := false
  /-- whether a thermal trip has stopped every handshake (19 R464) -/
  tripped : Bool := false
  /-- memory by Trellis address (01 R30) -/
  mem : Mem := []
  /-- the XOR of errors struck into stored codewords, by codeword number: address / 16; 144 bits (16 R385) -/
  ecc : SMap Nat := []
  /-- the model's own counter of free values taken -/
  free : Nat := 0
  hub : Hub := {}
  gate : Gate := {}
  sdl : Sundial := {}
  plots : SMap PlotSt := []
  flt : Flt := {}
  rms : Rms := {}
  thr : Thr := {}
  trn : Trn := {}
  irg : Irg := {}
  ring : Ring := {}
  sec : Sec := {}
  ddr : Ddr := {}
  pwr : Pwr := {}
  gk : Gk := {}
  /-- the Beds, by 17 × Plot + Bed -/
  beds : SMap BedSt := []
deriving DecidableEq, Repr

/-- The machine right after power-on reset: every field is at its reset value, and start-up is at its first step (19 R465, R467). -/
def State.reset : State := {}

end Sys2Proof.Machine
end

