-- ==== Sys2Proof/Machine/Ops.lean ====
section
/-!
DEFINITION. The operations every meaning is made of: configuration reads, time, counters, events and messages.
-/

namespace Sys2Proof.Machine

open Sys2Proof

/-! ### Configuration -/

/-- Pages whose registers each view holds for itself (21 R507 to R509). -/
def perView : PageKind → Bool
  | .sys => true
  | .cmt => true
  | .evh => true
  | _ => false

/-- Key of the register of a page at an offset, as view `v` names it. -/
def regKey (v : View) (p : Page) (off : Nat) : Nat :=
  (if perView p.kind then v.no * 2 ^ 26 else 0) + regAddr p off

/-- What a register reads as that nothing has written: its reset value. -/
def actUnlisted (k : Nat) : Word := BitVec.ofNat 32 (addrReset (k % 2 ^ 26))

/-- The active value of a register. -/
def actW (m : SMap Word) (k : Nat) : Word := SMap.get actUnlisted m k

/-- A field of a register of a page, in a map of active values. -/
def cfg (m : SMap Word) (p : Page) (off lo w : Nat) : Nat := fieldOf (actW m (regAddr p off)).toNat lo w

/-- A field of the active configuration. -/
def State.cfg (s : State) (p : Page) (off lo w : Nat) : Nat := Machine.cfg s.gate.act p off lo w

/-- A flag of the active configuration. -/
def State.flag (s : State) (p : Page) (off lo : Nat) : Bool := decide (s.cfg p off lo 1 = 1)

/-- The SEC page. -/
def pgSec : Page := ⟨.sec, 0⟩
/-- The RMS page. -/
def pgRms : Page := ⟨.rms, 0⟩
/-- The SDL page. -/
def pgSdl : Page := ⟨.sdl, 0⟩
/-- The TRN page. -/
def pgTrn : Page := ⟨.trn, 0⟩
/-- The CMT page. -/
def pgCmt : Page := ⟨.cmt, 0⟩
/-- The EVH page. -/
def pgEvh : Page := ⟨.evh, 0⟩
/-- The FLT page. -/
def pgFlt : Page := ⟨.flt, 0⟩
/-- The PWR page. -/
def pgPwr : Page := ⟨.pwr, 0⟩
/-- The HST page. -/
def pgHst : Page := ⟨.hst, 0⟩
/-- The DDR page. -/
def pgDdr : Page := ⟨.ddr, 0⟩
/-- The PSF page. -/
def pgPsf : Page := ⟨.psf, 0⟩
/-- The THR page. -/
def pgThr : Page := ⟨.thr, 0⟩
/-- The TRP page. -/
def pgTrp : Page := ⟨.trp, 0⟩
/-- The RST page. -/
def pgRst : Page := ⟨.rst, 0⟩
/-- The GKP page. -/
def pgGkp : Page := ⟨.gkp, 0⟩

/-- Whether a partition is enabled in a map of active values (15 R383). -/
def partEn (m : SMap Word) (p : Nat) : Bool := decide (cfg m pgSec (0x100 + 0x40 * p) 0 1 = 1)

/-- The VF of a partition, 0 none (15 R383). -/
def partVf (m : SMap Word) (p : Nat) : Nat := cfg m pgSec (0x100 + 0x40 * p) 9 4

/-- The partition of VF `f` (1 to 8), if an enabled partition names it. -/
def vfPart (m : SMap Word) (f : Nat) : Option Nat :=
  (List.range 8).find? fun p => partEn m p && decide (partVf m p = f)

/-- The partition that owns Plot `n`, if an enabled one does (15 R356). -/
def plotPart (m : SMap Word) (n : Nat) : Option Nat :=
  (List.range 8).find? fun p => partEn m p && decide (cfg m pgSec (0x100 + 0x40 * p) (1 + n) 1 = 1)

/-- Offset of RMS_CTX[c] (11 R303). -/
def ctxOff (c : Nat) : Nat := 0x200 + 0x10 * c

/-- The partition of a context (11 R303). -/
def ctxPart (m : SMap Word) (c : Nat) : Nat := cfg m pgRms (ctxOff c) 1 3

/-- Whether a context is enabled (11 R303). -/
def ctxEn (m : SMap Word) (c : Nat) : Bool := decide (cfg m pgRms (ctxOff c) 0 1 = 1)

/-- The partition of a radio unit (09 R240). -/
def ruPart (m : SMap Word) (r : Nat) : Nat := cfg m ⟨.trnRu, 0⟩ (0x100 + 0x20 * r) 5 3

/-! ### Counters, events, messages -/

/-- The largest value of a 48-bit statistics counter, at which it sticks with SAT set (16 R406). -/
def cntMax : Nat := 2 ^ 48 - 1

/-- Counters read 0 until counted. -/
def zeroUnlisted (_ : Nat) : Nat := 0

/-- Key of a statistics counter in a view. -/
def cntKey (view : Nat) (p : Page) (off : Nat) : Nat := view * 2 ^ 26 + regAddr p off

/-- The count of a page's counter, as the PF and Groundskeeper see it. -/
def State.count (s : State) (p : Page) (off : Nat) : Nat := SMap.get zeroUnlisted s.hub.cnt (cntKey 0 p off)

/-- Key of the event registers of a page in a view. -/
def evtKey (v : View) (p : Page) : Nat := 16 * pageNo p + v.no

/-- Words read 0 until written. -/
def wordUnlisted (_ : Nat) : Word := 0

/-- EVT_RAW of a page in a view. -/
def State.evtRaw (s : State) (v : View) (p : Page) : Word := SMap.get wordUnlisted s.hub.raw (evtKey v p)

/-- Whether an event bit of a page is set in a view (21 R493). -/
def State.event (s : State) (v : View) (p : Page) (b : Nat) : Bool := (s.evtRaw v p).getLsbD b

/-- EVT_MASK of a page in a view. -/
def State.evtMask (s : State) (v : View) (p : Page) : Word := SMap.get maskUnlisted s.hub.mask (evtKey v p)

/-- EVT_STATUS: EVT_RAW AND NOT EVT_MASK (21 R493). -/
def State.evtStatus (s : State) (v : View) (p : Page) : Word := s.evtRaw v p &&& ~~~ s.evtMask v p

/-- A function's vector mask bit: set at reset, as the PCIe specification has it (PRESUMED, log 6). -/
def vecUnlisted (_ : Nat) : Bool := true

/-- Pending bits are clear at reset. -/
def flagUnlisted (_ : Nat) : Bool := false

/-- Add to one counter of one view; it stays at all-ones (16 R406). -/
def Hub.add (h : Hub) (k n : Nat) : Hub :=
  { h with cnt := SMap.put zeroUnlisted h.cnt k (min cntMax (SMap.get zeroUnlisted h.cnt k + n)) }

/-- Set a bit of EVT_RAW in a view (21 R493). -/
def Hub.setRaw (h : Hub) (v : View) (p : Page) (b : Nat) : Hub :=
  { h with raw := SMap.modify wordUnlisted h.raw (evtKey v p) fun w => w ||| BitVec.ofNat 32 (2 ^ b) }

/-- EVT_STATUS of a page in a view: EVT_RAW AND NOT EVT_MASK (21 R493). -/
def Hub.status (h : Hub) (v : View) (p : Page) : Word :=
  SMap.get wordUnlisted h.raw (evtKey v p) &&& ~~~ SMap.get maskUnlisted h.mask (evtKey v p)

/-- The function whose PCIe traffic a part of the trace is. -/
def Sent.fn? : Sent → Option Nat
  | .msi f _ => some f
  | .hostWrite f _ _ => some f
  | .hostRead f _ _ => some f
  | .ats f _ => some f
  | _ => none

/-- Whether a function's traffic is dropped: its IDE stream is insecure (15 R364). -/
def Hub.muted (h : Hub) (x : Sent) : Bool :=
  match x.fn? with
  | some f => SMap.get flagUnlisted h.mute f
  | none => false

/-- Append to the trace what leaves. -/
def Hub.emit (h : Hub) (x : Sent) : Hub := if h.muted x then h else { h with out := h.out ++ [x] }

/-- Add to a counter of a view; whether this brought it to all-ones. -/
def Hub.saturates (h : Hub) (k n : Nat) : Bool :=
  decide (SMap.get zeroUnlisted h.cnt k < cntMax ∧ cntMax ≤ SMap.get zeroUnlisted h.cnt k + n)

/-- Send a function's vector, or set its pending bit while it is masked (21 R494). The message that saturates the count
of messages sets CNT_SAT and sends no further one. -/
def Hub.sendVector (h : Hub) (fn vec : Nat) (v : View) : Hub :=
  if SMap.get vecUnlisted h.vecMask (2048 * fn + vec) then
    { h with vecPend := SMap.put flagUnlisted h.vecPend (2048 * fn + vec) true }
  else
    let k := cntKey v.no pgEvh 0x40
    let h1 := (h.add k 1).emit (Sent.msi fn vec)
    if h.saturates k 1 then h1.setRaw v pgEvh 0 else h1

/-- The function whose vectors a view uses; Groundskeeper has none. -/
def viewFn : View → Option Nat
  | .pf => some 0
  | .vf k => some (k.val + 1)
  | .gk => none

/-- EVH_ROUTE entry of a page in a view (21 R509). -/
def routeOf (m : SMap Word) (v : View) (p : Page) : Nat := (actW m (regKey v pgEvh (0x100 + 4 * pageSource p))).toNat

/-- What the hub sends for a page in a view: the vector of its route, and in the PF view a notice to Groundskeeper
(21 R494). -/
def Hub.notify (m : SMap Word) (h : Hub) (v : View) (p : Page) : Hub :=
  let r := routeOf m v p
  let h1 := match viewFn v with
    | some f => if fieldOf r 11 1 = 1 then h.sendVector f (fieldOf r 0 11) v else h
    | none => h
  if v = .pf ∧ fieldOf r 12 1 = 1 then h1.emit (Sent.gkNotify (pageSource p)) else h1

/-- Set an event bit in one view; the hub sends when the source's summary rises (21 R494). -/
def Hub.raiseIn (m : SMap Word) (h : Hub) (v : View) (p : Page) (b : Nat) : Hub :=
  let h1 := h.setRaw v p b
  if h.status v p = 0 ∧ h1.status v p ≠ 0 then Hub.notify m h1 v p else h1

/-- The views an event is posted to: the PF, Groundskeeper, and the VF of the partition it concerns (21 R493). -/
def evtViews (m : SMap Word) (part : Option Nat) : List View :=
  [.pf, .gk] ++
    match part with
    | none => []
    | some p => if h : 1 ≤ partVf m p ∧ partVf m p ≤ 8 then [.vf ⟨partVf m p - 1, by omega⟩] else []

/-- Raise an event of a page (21 R493). -/
def Hub.raise (m : SMap Word) (h : Hub) (p : Page) (b : Nat) (part : Option Nat) : Hub :=
  (evtViews m part).foldl (fun h v => Hub.raiseIn m h v p b) h

/-- Count `n` events of a page's counter in one view; the event that brings a counter to all-ones raises CNT_SAT, the PF's in
Groundskeeper's view too (16 R406, 21 R491). -/
def Hub.bumpView (m : SMap Word) (p : Page) (off n : Nat) (h : Hub) (v : View) : Hub :=
  match v with
  | .gk => h
  | .pf =>
    let h1 := h.add (cntKey 0 p off) n
    if h.saturates (cntKey 0 p off) n then Hub.raiseIn m (Hub.raiseIn m h1 .pf p 0) .gk p 0 else h1
  | .vf k =>
    let h1 := h.add (cntKey (k.val + 1) p off) n
    if h.saturates (cntKey (k.val + 1) p off) n then Hub.raiseIn m h1 (.vf k) p 0 else h1

/-- Count `n` events of a page's counter that concern a partition, or none (16 R406, 21 R491). -/
def Hub.bumpBy (m : SMap Word) (h : Hub) (p : Page) (off : Nat) (part : Option Nat) (n : Nat) : Hub :=
  (evtViews m part).foldl (Hub.bumpView m p off n) h

/-- A record reaches Groundskeeper, or queues while its core is halted, and is dropped beyond 4,096 (20 R483). -/
def Hub.toGk (h : Hub) : Hub :=
  if !h.gkHalted then h
  else if h.gkQueued < 4096 then { h with gkQueued := h.gkQueued + 1 }
  else h.add (cntKey 0 pgGkp 0x40) 1

/-- Post a record of a page through the event hub: Groundskeeper receives it, it is counted, and the page's event bit is
raised (21 R493, R494; 01 R17). -/
def Hub.post (m : SMap Word) (h : Hub) (p : Page) (b : Nat) (part : Option Nat) (words : List Nat) : Hub :=
  Hub.raise m (Hub.bumpBy m (h.toGk.emit (Sent.record (pageNo p) b words)) pgEvh 0x48 none 1) p b part

/-- Set an event bit in one view. -/
def State.raiseIn (s : State) (v : View) (p : Page) (b : Nat) : State :=
  { s with hub := Hub.raiseIn s.gate.act s.hub v p b }

/-- Raise an event of a page. -/
def State.raise (s : State) (p : Page) (b : Nat) (part : Option Nat) : State :=
  { s with hub := Hub.raise s.gate.act s.hub p b part }

/-- Count `n` events. -/
def State.bumpBy (s : State) (p : Page) (off : Nat) (part : Option Nat) (n : Nat) : State :=
  { s with hub := Hub.bumpBy s.gate.act s.hub p off part n }

/-- Count one event. -/
def State.bump (s : State) (p : Page) (off : Nat) (part : Option Nat) : State := s.bumpBy p off part 1

/-- Post a record with its event. -/
def State.post (s : State) (p : Page) (b : Nat) (part : Option Nat) (words : List Nat) : State :=
  { s with hub := Hub.post s.gate.act s.hub p b part words }

/-- Post a record that has no event bit of its own; it is tagged in the trace by `tag` of 32 and above. -/
def State.record (s : State) (p : Page) (tag : Nat) (words : List Nat) : State :=
  { s with hub := Hub.bumpBy s.gate.act (s.hub.toGk.emit (Sent.record (pageNo p) tag words)) pgEvh 0x48 none 1 }

/-- Append to the trace. -/
def State.emit (s : State) (x : Sent) : State := { s with hub := s.hub.emit x }

/-- The state with one more free value taken. -/
def State.tick (s : State) : State := { s with free := s.free + 1 }

/-- WR_DROPPED in the view that made the write (21 R490). -/
def State.dropped (s : State) (v : View) (p : Page) : State := s.raiseIn v p 1

/-- Whether nothing in the fabric acts: power-on reset holds the device, or a thermal trip has stopped every handshake
(19 R464, R465). -/
def State.stopped (s : State) : Bool := s.held || s.tripped

/-- An effect of the fabric: none while the device is stopped. -/
def State.live (s : State) (f : State → State) : State := if s.stopped then s else f s

/-! ### Time -/

/-- One nanosecond in the units of the free-running reference. -/
def nsRef : Nat := 2 ^ 16

/-- The time of `n` steps at the nominal pace of 1.10 G steps/s (01 R22; log 207). -/
def paceTime (n : Nat) : Nat := n * nsRef * 10 / 11

/-- One nanosecond in the units of a domain clock. -/
def nsDom : Nat := 2 ^ 56

/-- Modulus of a domain clock: SEC wraps at 2^48 (08 R190). -/
def clkMod : Nat := 2 ^ 48 * 10 ^ 9 * 2 ^ 56

/-- The greatest magnitude of a servo's rate: 200 ppm in units of 2^−40 (08 R191). -/
def rateMax : Int := 219902325

/-- A rate within the range of R191. -/
def clampRate (r : Int) : Int := max (-rateMax) (min rateMax r)

/-- A domain clock moved by a signed amount, wrapping. -/
def moveClk (c : Nat) (d : Int) : Nat := (((c : Int) + d) % (clkMod : Int)).toNat

/-- How far a domain clock moves while the free-running reference advances by `d` units (08 R191). -/
def clkStep (r : Int) (d : Nat) : Int := (d : Int) * (2 ^ 40 + r)

/-- An offset of device time from the followed clock, moved toward zero at `ppb` of device time while that clock moves by `k`: device
time itself then moves by `k` less or more the change (08 R204). -/
def toward (x k : Int) (ppb : Nat) : Int :=
  if x ≥ 0 then max 0 (x - k * ppb * 10 ^ 9 / (10 ^ 9 + ppb)) else min 0 (x + k * ppb * 10 ^ 9 / (10 ^ 9 - ppb))

/-- Sundial after the free-running reference has advanced to `t`: each clock at its rate, and while the grid runs the
offset moving toward zero at exactly SLEW_PPB of device time (08 R191, R204). -/
def Sundial.advance (x : Sundial) (gridEn : Bool) (slewPpb t : Nat) : Sundial :=
  if t ≤ x.ref then x
  else
    let d := t - x.ref
    let fol := if x.selAct then clkStep x.b.rate d else clkStep x.a.rate d
    { x with
      ref := t
      a := { x.a with clk := moveClk x.a.clk (clkStep x.a.rate d) }
      b := { x.b with clk := moveClk x.b.clk (clkStep x.b.rate d) }
      ofs := if gridEn then toward x.ofs fol slewPpb else 0 }

/-- Active GRID_EN (08 R212). -/
def State.gridEn (s : State) : Bool := s.flag pgSdl 0x100 0

/-- Active SLEW_PPB (08 R212). -/
def State.slewPpb (s : State) : Nat := s.cfg pgSdl 0x100 3 10

/-- The accounting of every context, by context × 4 + class (11 R290). -/
def State.acctNow (s : State) : SMap Nat := s.rms.ctx.flatMap fun e => e.2.acct.map fun x => (4 * e.1 + x.1, x.2)

/-- The state at time `t` of the free-running reference; time never goes back. A view's coarse counters are those of the
last whole microsecond (15 R380). -/
def State.advance (s : State) (t : Nat) : State :=
  { s with
    sdl := s.sdl.advance s.gridEn s.slewPpb t
    hub := if s.sdl.ref / (1000 * nsRef) < t / (1000 * nsRef) then { s.hub with cntUs := s.hub.cnt } else s.hub
    rms := if s.sdl.ref / (1000 * nsRef) < t / (1000 * nsRef) then { s.rms with acctUs := s.acctNow } else s.rms }

/-- Whether the free-running reference has reached a time. -/
def State.reached (s : State) (x : Nat) : Bool := decide (x ≤ s.sdl.ref)

/-- The followed domain's clock, in units of 2^−56 ns. -/
def Sundial.follow (x : Sundial) : Nat := if x.selAct then x.b.clk else x.a.clk

/-- Device time in units of 2^−56 × 10^−9 ns (08 R204). -/
def Sundial.devFine (x : Sundial) : Int := (x.follow : Int) * 10 ^ 9 + x.ofs

/-- Device time in units of 2^−16 ns. -/
def Sundial.dev (x : Sundial) : Nat := (x.devFine / (10 ^ 9 * 2 ^ 40) % (2 ^ 48 * 10 ^ 9 * 2 ^ 16 : Int)).toNat

/-- A domain clock in units of 2^−16 ns. -/
def domTime (c : Nat) : Nat := c / 2 ^ 40

/-- SLEWING (08 R204). -/
def State.slewing (s : State) : Bool := s.gridEn && decide (s.sdl.ofs ≠ 0)

/-- FRAC, NS, SEC of a time in units of 2^−16 ns (08 R190). -/
def timeFrac (t : Nat) : Nat := t % 2 ^ 16
/-- NS of a time. -/
def timeNs (t : Nat) : Nat := t / 2 ^ 16 % 10 ^ 9
/-- SEC of a time. -/
def timeSec (t : Nat) : Nat := t / 2 ^ 16 / 10 ^ 9 % 2 ^ 48

/-- The free-running reference in whole nanoseconds, and in whole microseconds. -/
def State.nowNs (s : State) : Nat := s.sdl.ref / nsRef

end Sys2Proof.Machine
end

