-- ==== Sys2Proof/Machine/Operands.lean ====
section
/-!
DEFINITION. Numbers as the operand forms of the spec read and write them (02): rounding, integers, floating-point formats,
block formats, rows, and the FP32 and INT32 arithmetic of the Sieve's stages (04 R104 to R108).
-/

namespace Sys2Proof.Machine

open Sys2Proof

/-- Round `x / d` to the nearest integer, ties to even (02 R51). -/
def rneDiv (x : Int) (d : Nat) : Int :=
  let q := x / (d : Int)
  let r := x - q * d
  if 2 * r > d ∨ (2 * r = d ∧ q % 2 = 1) then q + 1 else q

/-- Saturate to a range (02 R52). -/
def satTo (lo hi x : Int) : Int := max lo (min hi x)

/-- RNE of the square root of `n / d`: the exact root rounded once. -/
def rneSqrt (n d : Nat) : Nat :=
  let q := Nat.sqrt (n / d)
  if (2 * q + 1) ^ 2 * d < 4 * n ∨ ((2 * q + 1) ^ 2 * d = 4 * n ∧ q % 2 = 1) then q + 1 else q

/-! ### Exact values (R32 to R34) -/

/-- The exact value of a source: not a number, an infinity, or `m` × 2^`e`. -/
inductive Num where
  | nan
  | inf (neg : Bool)
  | fin (m e : Int)
deriving DecidableEq, Repr

/-- `m` × 2^`e` rounded to a multiple of 2^`q`, in units of 2^`q` (R51). -/
def dyRound (m e q : Int) : Int := if q ≤ e then m * 2 ^ (e - q).toNat else rneDiv m (2 ^ (q - e).toNat)

/-- `m` × 2^`e` truncated toward zero to a multiple of 2^`q`, in units of 2^`q` (R47). -/
def dyTrunc (m e q : Int) : Int := if q ≤ e then m * 2 ^ (e - q).toNat else m.tdiv (2 ^ (q - e).toNat)

/-- Whether `m` × 2^`e` is a multiple of 2^`q`. -/
def dyWhole (m e q : Int) : Bool := decide (q ≤ e ∨ m % 2 ^ (q - e).toNat = 0)

/-- Whether one exact value is at most another. -/
def dyLe (m e n f : Int) : Bool := decide (m * 2 ^ (e - min e f).toNat ≤ n * 2 ^ (f - min e f).toNat)

/-- Whether a format code is an integer format. -/
def isInt (c : Nat) : Bool := decide (c ≤ 3)
/-- Whether a format code is a floating-point format. -/
def isFloat (c : Nat) : Bool := decide (4 ≤ c ∧ c ≤ 8)
/-- Whether a format code is a block format. -/
def isBfp (c : Nat) : Bool := decide (9 ≤ c ∧ c ≤ 12)

/-- Bits of an integer format, or of each part of a complex one. -/
def intBits (c : Nat) : Nat := if c = 0 then 4 else if c = 1 then 8 else 16
/-- Exponent bits of a floating-point format. -/
def fExpBits (c : Nat) : Nat := if c = 4 then 4 else if c = 5 ∨ c = 6 then 5 else 8
/-- Fraction bits of a floating-point format. -/
def fFracBits (c : Nat) : Nat := if c = 4 then 3 else if c = 5 then 2 else if c = 6 then 10 else if c = 7 then 7 else 23
/-- Bias of a floating-point format. -/
def fBias (c : Nat) : Int := if c = 4 then 7 else if c = 5 ∨ c = 6 then 15 else 127
/-- Largest finite encoding of a floating-point format. -/
def fMaxRaw (c : Nat) : Nat :=
  if c = 4 then 0x7E else if c = 5 then 0x7B else if c = 6 then 0x7BFF else if c = 7 then 0x7F7F else 0x7F7FFFFF
/-- Canonical NaN of a floating-point format (R35). -/
def fNan (c : Nat) : Nat :=
  if c = 4 then 0x7F else if c = 5 then 0x7F else if c = 6 then 0x7E00 else if c = 7 then 0x7FC0 else 0x7FC00000

/-- The sign bit of a floating-point word. -/
def fSign (c w : Nat) : Bool := decide (fieldOf w (fExpBits c + fFracBits c) 1 = 1)

/-- A word with the sign bit of a format set or not. -/
def fSigned (c : Nat) (neg : Bool) (w : Nat) : Nat := w + bit neg * 2 ^ (fExpBits c + fFracBits c)

/-- The exact value of a floating-point word (R34). -/
def floatNum (c w : Nat) : Num :=
  let x := fieldOf w (fFracBits c) (fExpBits c)
  let f := fieldOf w 0 (fFracBits c)
  let sg : Int := if fSign c w then -1 else 1
  let top := 2 ^ fExpBits c - 1
  if c = 4 ∧ x = top ∧ f = 7 then .nan
  else if c ≠ 4 ∧ x = top then (if f = 0 then .inf (fSign c w) else .nan)
  else if x = 0 then .fin (sg * f) (1 - fBias c - fFracBits c)
  else .fin (sg * (2 ^ fFracBits c + f : Nat)) ((x : Int) - fBias c - fFracBits c)

/-- The exact value of an element of a format: an integer, or a floating-point word (R33, R34). -/
def elemNum (c w : Nat) : Num :=
  if isInt c then .fin (signedOf (intBits c) (w % 2 ^ intBits c)) 0 else floatNum c w

/-- `m` × 2^`e` in a floating-point format, by RNE with gradual underflow: the word, whether it overflowed, whether it
underflowed (R52). -/
def encodeFloat (c : Nat) (m e : Int) : Nat × Bool × Bool :=
  if m = 0 then (0, false, false)
  else
    let neg := decide (m < 0)
    let a := m.natAbs
    let top : Int := max ((Nat.log2 a : Nat) + e) (1 - fBias c)
    let q := top - fFracBits c
    let n := (dyRound a e q).toNat
    let word := ((q + fFracBits c + fBias c - 1) * 2 ^ fFracBits c + n).toNat
    if fMaxRaw c < word then (fSigned c neg (fMaxRaw c), true, false)
    else (fSigned c neg word, false, decide (n = 0))

/-! ### Flags of a conversion (R59) -/

/-- SAT -/
def flSat : Nat := 1
/-- UNF -/
def flUnf : Nat := 2
/-- WTRUNC -/
def flWtrunc : Nat := 4
/-- WSAT -/
def flWsat : Nat := 8
/-- NONFIN -/
def flNonfin : Nat := 16
/-- ACC_OVF -/
def flAccOvf : Nat := 32
/-- BFP_OVR -/
def flBfpOvr : Nat := 64
/-- RESCALED -/
def flRescaled : Nat := 128
/-- RETRY_DENIED -/
def flDenied : Nat := 256

/-- Saturate an integer to `w` bits, and whether it was. -/
def satInt (w : Nat) (x : Int) : Int × Bool :=
  (satTo (-2 ^ (w - 1)) (2 ^ (w - 1) - 1) x, decide (x < -2 ^ (w - 1) ∨ 2 ^ (w - 1) - 1 < x))

/-- The conversion of an exact value to an integer or floating-point format with a zero point: the word and its flags
(R51 to R53, R55). A NaN gives canonical NaN or 0, an infinity the nearer limit. -/
def convert (c : Nat) (zp : Int) (x : Num) : Nat × Nat :=
  if isFloat c then
    match x with
    | .nan => (fNan c, flNonfin)
    | .inf n => (fSigned c n (fMaxRaw c), flNonfin + flSat)
    | .fin m e =>
      let r := encodeFloat c m e
      (r.1, (if r.2.1 then flSat else 0) + (if r.2.2 then flUnf else 0))
  else
    let w := intBits c
    match x with
    | .nan => (0, flNonfin)
    | .inf n => (unsignedOf w (if n then -2 ^ (w - 1) else 2 ^ (w - 1) - 1), flNonfin + flSat)
    | .fin m e =>
      let r := satInt w (dyRound m e 0 + zp)
      (unsignedOf w r.1, if r.2 then flSat else 0)

/-! ### Rows (R36 to R40) -/

/-- Bits per Lane of a format (R36). -/
def laneBits (c : Nat) : Nat := if c = 0 ∨ c = 1 ∨ c = 4 ∨ c = 5 then 8 else if c = 3 ∨ c = 8 then 32 else 16

/-- Store rows of a Lane row (R36). -/
def laneRows (c : Nat) : Nat := laneBits c / 2

/-- The bits of Lane `i` of a Lane row held as one number. -/
def laneOf (c row i : Nat) : Nat := fieldOf row (laneBits c * i) (laneBits c)

/-- A Lane row from its Lanes, Lane 0 first. -/
def laneRow (c : Nat) : List Nat → Nat
  | [] => 0
  | x :: xs => x % 2 ^ laneBits c + 2 ^ laneBits c * laneRow c xs

/-- Mantissa bits of a block format (R32). -/
def bfpBits (c : Nat) : Nat := if c = 9 then 8 else if c = 10 then 9 else if c = 11 then 12 else 14

/-- Blocks in a store row of a block format (R38). -/
def bfpBlocks (c : Nat) : Nat := if c = 9 ∨ c = 10 then 2 else 1

/-- Mantissa `j` (0 to 23) of block `b` of a row, decoded to a Q1.15 integer, and whether it left the range (R38, R39). -/
def bfpValue (c row b j : Nat) : Int × Bool :=
  let m := bfpBits c
  satInt 16 (signedOf m (fieldOf row (8 + 24 * m * b + m * j) m) * 2 ^ fieldOf row (4 * b) 4)

/-- The smallest exponent, from `e` up, at which every value fits in `m` bits; 15 where none does (R40). -/
def bfpExp (m : Nat) (vs : List Int) : Nat → Nat → Nat
  | 0, _ => 15
  | fuel + 1, e =>
    if vs.all fun v => decide (-2 ^ (m - 1) ≤ rneDiv v (2 ^ e) ∧ rneDiv v (2 ^ e) ≤ 2 ^ (m - 1) - 1) then e
    else bfpExp m vs fuel (e + 1)

/-- A block of values: its exponent and its mantissas (R40). -/
def bfpEncode (m : Nat) (vs : List Int) : Nat × List Int :=
  let e := bfpExp m vs 16 0
  (e, vs.map fun v => satTo (-2 ^ (m - 1)) (2 ^ (m - 1) - 1) (rneDiv v (2 ^ e)))

/-- Fields of `m` bits packed from bit 0 up. -/
def packFields (m : Nat) : List Int → Nat
  | [] => 0
  | v :: vs => unsignedOf m v + 2 ^ m * packFields m vs

/-- A list cut into pieces of `k`, as many as `n`. -/
def chunks {α : Type} (k : Nat) : Nat → List α → List (List α)
  | 0, _ => []
  | n + 1, l => l.take k :: chunks k n (l.drop k)

/-- Store rows of a sequence of Q1.15 values in a block format; a block left partly filled is padded with zeros (R38, R40,
04 R100). -/
def bfpRows (c : Nat) (vs : List Int) : List Nat :=
  let m := bfpBits c
  let blocks := (chunks 24 ((vs.length + 23) / 24) vs).map fun l => bfpEncode m (l ++ List.replicate (24 - l.length) 0)
  (chunks (bfpBlocks c) ((blocks.length + bfpBlocks c - 1) / bfpBlocks c) blocks).map fun bs =>
    packFields 4 (bs.map fun b => (b.1 : Int)) % 2 ^ 8 + 2 ^ 8 * packFields m (bs.flatMap (·.2))

/-- Store rows that `k` complex elements fill in a block format (R38). -/
def bfpRowCount (c k : Nat) : Nat := (k + 12 * bfpBlocks c - 1) / (12 * bfpBlocks c)

/-- SEG_START and SEG_ID of a Lane group of a mark row (R37). -/
def markStart (row g : Nat) : Bool := decide (fieldOf row (256 + 13 * g) 1 = 1)
/-- SEG_ID of a Lane group. -/
def markSeg (row g : Nat) : Nat := fieldOf row (257 + 13 * g) 12
/-- ERASE of a Lane. -/
def markErase (row i : Nat) : Bool := decide (fieldOf row i 1 = 1)

/-! ### FP32 and INT32 words (04 R105 to R107) -/

/-- 1.0 in FP32. -/
def fpOne : Nat := 0x3F800000
/-- Canonical NaN in FP32. -/
def fpNan : Nat := 0x7FC00000
/-- Largest finite FP32 value. -/
def fpMax : Nat := 0x7F7FFFFF

/-- The exact value of an FP32 word. -/
def fpNum (w : Nat) : Num := floatNum 8 w
/-- Its sign bit. -/
def fpNeg (w : Nat) : Bool := fSign 8 w

/-- A stage's FP32 result and the saturations to count: rounded once, saturated beyond the largest finite value; an exact zero
takes the sign given (R105). -/
def fpOut (x : Num) (zeroNeg : Bool) : Nat × Nat :=
  match x with
  | .nan => (fpNan, 0)
  | .inf n => (fSigned 8 n fpMax, 1)
  | .fin m e =>
    if m = 0 then (fSigned 8 zeroNeg 0, 0)
    else
      let r := encodeFloat 8 m e
      (r.1, bit r.2.1)

/-- Exact sum. -/
def numAdd : Num → Num → Num
  | .nan, _ => .nan
  | _, .nan => .nan
  | .inf a, .inf b => if a = b then .inf a else .nan
  | .inf a, _ => .inf a
  | _, .inf b => .inf b
  | .fin m e, .fin n f => .fin (m * 2 ^ (e - min e f).toNat + n * 2 ^ (f - min e f).toNat) (min e f)

/-- Exact negation. -/
def numNeg : Num → Num
  | .nan => .nan
  | .inf a => .inf !a
  | .fin m e => .fin (-m) e

/-- Whether a value is negative. -/
def Num.neg : Num → Bool
  | .nan => false
  | .inf a => a
  | .fin m _ => decide (m < 0)

/-- Whether a value is zero. -/
def Num.zero : Num → Bool
  | .fin m _ => decide (m = 0)
  | _ => false

/-- Exact product. -/
def numMul : Num → Num → Num
  | .nan, _ => .nan
  | _, .nan => .nan
  | .fin m e, .fin n f => .fin (m * n) (e + f)
  | a, b => if a.zero ∨ b.zero then .nan else .inf (a.neg ≠ b.neg)

/-- Whether `a` is at most `b`; no order with a NaN. -/
def numLe : Num → Num → Bool
  | .nan, _ => false
  | _, .nan => false
  | .inf a, .inf b => a || !b
  | .inf a, _ => a
  | _, .inf b => !b
  | .fin m e, .fin n f => dyLe m e n f

/-- FP32 addition (R105): an exact zero sum is +0 unless both addends are −0. -/
def fpAdd (a b : Nat) : Nat × Nat := fpOut (numAdd (fpNum a) (fpNum b)) (fpNeg a && fpNeg b)

/-- FP32 subtraction. -/
def fpSub (a b : Nat) : Nat × Nat := fpOut (numAdd (fpNum a) (numNeg (fpNum b))) (fpNeg a && !fpNeg b)

/-- FP32 multiplication. -/
def fpMul (a b : Nat) : Nat × Nat := fpOut (numMul (fpNum a) (fpNum b)) (fpNeg a != fpNeg b)

/-- FP32 fused multiply-add, rounded once. -/
def fpFma (a b c : Nat) : Nat × Nat :=
  let p := numMul (fpNum a) (fpNum b)
  fpOut (numAdd p (fpNum c)) (p.zero && (fpNeg a != fpNeg b) && fpNeg c)

/-- An FP32 operand passed on as it is, but for a pattern of an infinity. -/
def fpPass (w : Nat) : Nat × Nat :=
  match fpNum w with
  | .fin _ _ => (w, 0)
  | x => fpOut x false

/-- FP32 minimum: of two zeros, −0 (R105). -/
def fpMin (a b : Nat) : Nat × Nat :=
  if fpNum a = .nan ∨ fpNum b = .nan then (fpNan, 0)
  else if numLe (fpNum a) (fpNum b) ∧ numLe (fpNum b) (fpNum a) then fpPass (if fpNeg a then a else b)
  else if numLe (fpNum a) (fpNum b) then fpPass a
  else fpPass b

/-- FP32 maximum: of two zeros, +0. -/
def fpMaxOf (a b : Nat) : Nat × Nat :=
  if fpNum a = .nan ∨ fpNum b = .nan then (fpNan, 0)
  else if numLe (fpNum a) (fpNum b) ∧ numLe (fpNum b) (fpNum a) then fpPass (if fpNeg a then b else a)
  else if numLe (fpNum a) (fpNum b) then fpPass b
  else fpPass a

/-- FP32 with the sign bit replaced. -/
def fpWithSign (w : Nat) (neg : Bool) : Nat × Nat :=
  if fpNum w = .nan then (fpNan, 0) else fpPass (fSigned 8 neg (w % 2 ^ 31))

/-- Saturate an INT32 result, and count it (R106). -/
def i32Out (x : Int) : Nat × Nat :=
  let r := satInt 32 x
  (unsignedOf 32 r.1, bit r.2)

/-- An INT32 word's value. -/
def i32Of (w : Nat) : Int := signedOf 32 (w % 2 ^ 32)

/-- The result of a comparison in a stage's type. -/
def truth (i32 b : Bool) : Nat := if b then (if i32 then 1 else fpOne) else 0

end Sys2Proof.Machine
end

