-- ==== Sys2Proof/Machine/Ecc.lean ====
section
/-!
DEFINITION. The device's (144,128) code (16 R385 to R387, R529): GF(16), the columns, the encoder, the decoder and the
poisoned codeword. A stored codeword is kept as its data and the XOR of the errors struck into it.
-/

namespace Sys2Proof.Machine

open Sys2Proof

/-- Multiplication by α = 2 in GF(16) on x⁴ + x + 1 (16 R385). -/
def gfAlpha (a : Nat) : Nat := if a < 8 then 2 * a else Nat.xor (2 * a) 0x13

/-- Multiplication in GF(16). -/
def gfMul (a b : Nat) : Nat :=
  let t (k x : Nat) := if b / 2 ^ k % 2 = 1 then x else 0
  Nat.xor (Nat.xor (t 0 a) (t 1 (gfAlpha a))) (Nat.xor (t 2 (gfAlpha (gfAlpha a))) (t 3 (gfAlpha (gfAlpha (gfAlpha a)))))

/-- δ = α³ (16 R385). -/
def gfDelta : Nat := 8

/-- The column h_s of symbol `s` (16 R385). -/
def eccColumn (s : Nat) : List Nat :=
  if s < 32 then
    let a := s % 16
    let b := 2 + s / 16
    [1, Nat.xor (Nat.xor (gfMul a a) (gfMul a b)) (gfMul gfDelta (gfMul b b)), a, b]
  else if s = 32 then [1, 0, 0, 0]
  else if s = 33 then [0, 1, 0, 0]
  else if s = 34 then [1, 1, 1, 0]
  else [1, gfDelta, 0, 1]

/-- Symbol `s` of a codeword (16 R385). -/
def eccSymbol (v s : Nat) : Nat := fieldOf v (4 * s) 4

/-- Sum of two vectors over GF(16). -/
def gfAdd (x y : List Nat) : List Nat := List.zipWith Nat.xor x y

/-- Σ v_s·h_s over the symbols of a list (16 R385). -/
def eccSum (v : Nat) (l : List Nat) : List Nat :=
  l.foldl (fun acc s => gfAdd acc ((eccColumn s).map (gfMul (eccSymbol v s)))) [0, 0, 0, 0]

/-- The syndrome (16 R385). -/
def eccSyndrome (v : Nat) : List Nat := eccSum v (List.range 36)

/-- The encoder (16 R386): 128 data bits to a 144-bit codeword. -/
def eccEncode (d : Nat) : Nat :=
  let x := eccSum (d % 2 ^ 128) (List.range 32)
  let d0 := x.getD 0 0
  let d1 := x.getD 1 0
  let d2 := x.getD 2 0
  let d3 := x.getD 3 0
  d % 2 ^ 128 + 2 ^ 128 * Nat.xor (Nat.xor d0 d2) d3 + 2 ^ 132 * Nat.xor (Nat.xor d1 d2) (gfMul gfDelta d3)
    + 2 ^ 136 * d2 + 2 ^ 140 * d3

/-- What a decoder reports (16 R387). -/
inductive EccResult where
  | clean
  | corrected (sym e : Nat)
  | uncorrectable
deriving DecidableEq, Repr

/-- The one error that explains a syndrome, of the symbols 0 to 35 and the non-zero elements (16 R387). -/
def eccLocate (syn : List Nat) : List (Nat × Nat) :=
  ((List.range 36).flatMap fun s => (List.range 15).map fun e => (s, e + 1)).filter
    fun p => decide ((eccColumn p.1).map (gfMul p.2) = syn)

/-- The decoder's judgement of a word, which depends only on the errors struck into its codeword (16 R387). -/
def eccJudge (v : Nat) : EccResult :=
  let syn := eccSyndrome v
  if syn = [0, 0, 0, 0] then .clean
  else
    match eccLocate syn with
    | [(s, e)] => .corrected s e
    | _ => .uncorrectable

/-- The data that a decoder delivers, from the data written and the errors struck: none where uncorrectable. -/
def eccDeliver (d x : Nat) : Option Nat :=
  match eccJudge x with
  | .clean => some (Nat.xor d (x % 2 ^ 128))
  | .corrected s e => some (Nat.xor (Nat.xor d (x % 2 ^ 128)) (e * 2 ^ (4 * s) % 2 ^ 128))
  | .uncorrectable => none

/-- The errors that stand in a poisoned codeword: its 16 check bits complemented (16 R529). -/
def eccPoison : Nat := 0xFFFF * 2 ^ 128

end Sys2Proof.Machine
end

