-- ==== Sys2Proof/Machine/FaultBase.lean ====
section
/-!
DEFINITION. What every block shares of faults: records to the fault block (16 R389, R409), the fault of a context
(11 R301, R302), epochs and serial comparison (16 R404 to R407), and access to the state of Plots and contexts.
-/

namespace Sys2Proof.Machine

open Sys2Proof

/-- The state of a context. -/
def State.ctx (s : State) (c : Nat) : CtxSt := SMap.get ctxUnlisted s.rms.ctx c

/-- Change a context's state. -/
def State.modCtx (s : State) (c : Nat) (f : CtxSt → CtxSt) : State :=
  { s with rms := { s.rms with ctx := SMap.modify ctxUnlisted s.rms.ctx c f } }

/-- The state of a Plot. -/
def State.plot (s : State) (n : Nat) : PlotSt := SMap.get plotUnlisted s.plots n

/-- Change a Plot's state. -/
def State.modPlot (s : State) (n : Nat) (f : PlotSt → PlotSt) : State :=
  { s with plots := SMap.modify plotUnlisted s.plots n f }

/-- Whether a Plot is Pruned (16 R399). -/
def State.pruned (s : State) (n : Nat) : Bool := decide (fieldOf s.flt.pruned n 1 = 1)

/-- The fault block's state of a unit. -/
def State.unit (s : State) (cls plot index : Nat) : UnitSt := SMap.get unitUnlisted s.flt.units (unitKey cls plot index)

/-- Change the fault block's state of a unit. -/
def State.modUnit (s : State) (cls plot index : Nat) (f : UnitSt → UnitSt) : State :=
  { s with flt := { s.flt with units := SMap.modify unitUnlisted s.flt.units (unitKey cls plot index) f } }

/-- Epoch of a unit advanced by one (16 R404). -/
def State.advanceEpoch (s : State) (cls plot index : Nat) : State :=
  s.modUnit cls plot index fun u => { u with epoch := (u.epoch + 1) % 2 ^ 16 }

/-- Use of a unit (16 R391). -/
def State.use (s : State) (cls plot index n : Nat) : State :=
  s.modUnit cls plot index fun u => { u with uses := u.uses + n }

/-- Serial comparison: `x` precedes `y` in an `n`-bit wrapping field (16 R407). -/
def precedes (n x y : Nat) : Bool :=
  let d := (y + 2 ^ n - x % 2 ^ n) % 2 ^ n
  decide (1 ≤ d ∧ d ≤ 2 ^ (n - 1))

/-- A record reaches the fault block (16 R384). -/
def State.toFlt (s : State) (r : FltRec) : State :=
  { s with flt := { s.flt with inbox := s.flt.inbox ++ [r] } }

/-- A row's fault awaits its retry, the next read of codeword `cw` (16 R391). -/
def State.armRetry (s : State) (cw : Nat) : State :=
  { s with flt := { s.flt with retry := SMap.put flagUnlisted s.flt.retry cw true } }

/-- Whether a read of codeword `cw` is such a retry. -/
def State.retryDue (s : State) (cw : Nat) : Bool := SMap.get flagUnlisted s.flt.retry cw

/-- The retry is being made. -/
def State.takeRetry (s : State) (cw : Nat) : State :=
  { s with flt := { s.flt with retry := SMap.put flagUnlisted s.flt.retry cw false } }

/-! ### Debug sessions (15 R375, R376) -/

/-- The mask of the enabled partitions. -/
def State.enabledMask (s : State) : Nat := ((List.range 8).map fun p => bit (partEn s.gate.act p) * 2 ^ p).sum

/-- A 64-byte record enters the debug log and the chain (15 R376). -/
def State.debugRecord (s : State) (kind mask named : Nat) : State :=
  let r := natLe 4 s.sec.dbgSeq ++ natLe 1 kind ++ natLe 1 mask ++ natLe 2 0 ++ natLe 6 (timeSec s.sdl.dev) ++
    natLe 4 (timeNs s.sdl.dev) ++ natLe 2 0 ++ natLe 4 named ++ List.replicate 40 0
  { s with sec :=
    { s.sec with
      dbgSeq := (s.sec.dbgSeq + 1) % 2 ^ 32
      dbgLog := (s.sec.dbgLog ++ [r]).drop (s.sec.dbgLog.length + 1 - 256)
      chain := Config.sha256 (s.sec.chain ++ r) } }

/-- The partition that a mask of one names. -/
def maskPart (mask : Nat) : Option Nat := (List.range 8).find? fun p => decide (mask = 2 ^ p)

/-- A debug session begins: kind 5 is a replay step, which is recorded as KIND 4 (15 R375). -/
def State.debugBegin (s : State) (kind mask named : Nat) : State :=
  let s1 := s.debugRecord (min kind 4) mask named
  let s2 := { s1 with sec :=
    { s1.sec with
      dbgOpen := s1.sec.dbgOpen ++ [(kind, mask, named)]
      dbgBegun := s1.sec.dbgBegun + 1
      parts := (List.range 8).foldl (fun m p =>
        if fieldOf mask p 1 = 1 then SMap.modify partUnlisted m p fun (x : PartSt) => { x with sessions := x.sessions + 1 } else m)
        s1.sec.parts } }
  (s2.bump pgSec 0x50 (maskPart mask)).raise pgSec 11 (maskPart mask)

/-- The debug session of a kind and of what it names ends, if it is open. -/
def State.debugEnd (s : State) (kind named : Nat) : State :=
  match s.sec.dbgOpen.find? fun e => decide (e.1 = kind ∧ e.2.2 = named) with
  | none => s
  | some e =>
    let s1 := s.debugRecord (min kind 4 + 128) e.2.1 named
    { s1 with sec := { s1.sec with dbgOpen := s1.sec.dbgOpen.filter fun x => decide (x.1 ≠ kind ∨ x.2.2 ≠ named) } }

/-! ### Groundskeeper's messages (20 R478) -/

/-- A PlatformEventMessage to the event receiver: 0 the throttle level, 1 a fault-block record, 2 a CAPACITY event. While 16 are
unacknowledged it is dropped and counted. -/
def State.platform (s : State) (what : Nat) (words : List Nat) : State :=
  match s.gk.receiver with
  | none => s
  | some r =>
    if 16 ≤ s.gk.unacked.length then s.bump pgGkp 0x40 none
    else
      let m : EvtMsg := { seq := s.gk.evtSeq, what := what, words := words, sentAt := s.sdl.ref }
      { s with
        gk := { s.gk with evtSeq := (s.gk.evtSeq + 1) % 256, unacked := s.gk.unacked ++ [m] }
        hub := s.hub.emit (Sent.answer 1 0x0A (r :: m.seq :: what :: words)) }

/-- Whether a message that carries an epoch is stale: the unit drops it, which is counted (16 R405). -/
def State.staleDrop (s : State) (part : Option Nat) : State := (s.bump pgFlt 0x90 part).raise pgFlt 15 part

/-- Whether a context is live: enabled, neither FAULTED nor being torn down. -/
def CtxSt.live (c : CtxSt) : Bool := decide (c.st ≠ .free ∧ c.st ≠ .faulted) && !c.tearing

/-- A context fault: its record reaches the event hub and waits to begin the teardown (11 R301 order 1). A context
whose teardown is already owed keeps its first cause. -/
def State.faultCtx (s : State) (c cause : Nat) : State :=
  if (s.ctx c).live ∧ (s.ctx c).fault = none then
    (s.modCtx c fun x => { x with fault := some cause }).record pgRms 32 [c, cause]
  else s

/-- A context passes a limit of level `level` of R401, and its recovery has failed: its record for the fault block, and the context's
fault (16 R401, R409). -/
def State.overLimit (s : State) (c level cause : Nat) : State :=
  if (s.ctx c).live ∧ (s.ctx c).fault = none then
    (s.toFlt { kind := 8, action := 7, cls := 9, ctx := some c, detail := level }).faultCtx c cause
  else s

/-- A race falls on a context's row, bank or memory: its steps in flight are RACED (13 R323, R335). -/
def State.raced (s : State) (c : Nat) : State :=
  s.modCtx c fun x => { x with steps := x.steps.map fun y => if y.dispatched then { y with flags := Nat.lor y.flags 4 } else y }

/-- An OP that an engine has completed: the task that issued it may go on, and the context's heartbeat is noted
(11 R278, 16 R401). The central Irrigator and the Thresher belong to no Plot. -/
def State.opDone (s : State) (c engine plot desc : Nat) : State :=
  s.modCtx c fun x =>
    { x with
      beat := s.sdl.ref
      steps := x.steps.map fun y => { y with tasks := y.tasks.map fun z =>
        if z.engine = engine ∧ (z.plot = plot ∨ 4 ≤ engine) ∧ z.op = some desc then { z with op := none } else z } }

/-- The partition of a context. -/
def State.partOf (s : State) (c : Nat) : Nat := ctxPart s.gate.act c

/-- Real-time contexts (11 R303). -/
def State.realTime (s : State) (c : Nat) : Bool := decide (s.cfg pgRms (ctxOff c) 6 1 = 0)

/-- Whether some memory device reports a temperature above its range (18 R445). -/
def State.hot (s : State) : Bool := s.ddr.ch.any fun e => e.2.hot

/-- The device's throttle level: the highest of the thermal level, the power level, and 2 while a memory device is hot
(19 R463). -/
def State.level (s : State) : Nat := max (max s.pwr.thermal s.pwr.power) (if s.hot then 2 else 0)

/-- Usable DRAM in 64 KiB pages: the mapped capacity (18 R439). -/
def State.usable (s : State) : Nat := s.ddr.mapped

end Sys2Proof.Machine
end

