-- ==== Sys2Proof/Machine/Stores.lean ====
section
/-!
DEFINITION. The stores of a Plot (06): geometry, windows, reads and writes with their code, release and zeroing, spares.
-/

namespace Sys2Proof.Machine

open Sys2Proof

/-! ### Geometry (06 R140 to R142, 01 R29, R30) -/

/-- Trellis address of a Plot's window (01 R29). -/
def plotBase (n : Nat) : Nat := 0x0100000000 + n * 0x04000000

/-- Offset of a store in its Plot's window (01 R30). -/
def storeOff : Store → Nat
  | .w => 0x0000000
  | .p => 0x0800000
  | .a => 0x1000000

/-- Rows of a store (06 R140). -/
def storeRows : Store → Nat
  | .w => 131072
  | .a => 327680
  | .p => 65536

/-- Banks of a store (06 R140). -/
def storeBanks : Store → Nat
  | .w => 16
  | .a => 40
  | .p => 8

/-- First macro of a store (06 R140). -/
def storeMacro0 : Store → Nat
  | .w => 0
  | .a => 32
  | .p => 112

/-- Trellis address of a store row (06 R140). -/
def rowAddr (n : Nat) (st : Store) (r : Nat) : Nat := plotBase n + storeOff st + 64 * r

/-- Bank of a row (06 R141). -/
def rowBank (st : Store) (r : Nat) : Nat := r % storeBanks st

/-- Macro of a row (06 R141). -/
def rowMacro (st : Store) (r : Nat) : Nat := storeMacro0 st + 2 * (r % storeBanks st) + r / storeBanks st / 4096

/-- Macro row of a row (06 R141). -/
def macroRow (st : Store) (r : Nat) : Nat := r / storeBanks st % 4096

/-- The store of a macro (06 R140). -/
def macroStore (m : Nat) : Store := if m < 32 then .w else if m < 112 then .a else .p

/-- The row that a macro row holds: the inverse of R141. -/
def rowOfMacro (m k : Nat) : Nat :=
  let st := macroStore m
  (k + 4096 * ((m - storeMacro0 st) % 2)) * storeBanks st + (m - storeMacro0 st) / 2

/-- The STO page of a Plot. -/
def pgSto (n : Nat) : Page := ⟨.sto, n⟩

/-- Offset of STO_WIN[e]. -/
def winOff (e : Nat) : Nat := 0x200 + 0x20 * e

/-- A field of STO_WIN[e] (06 R160). -/
def winField (m : SMap Word) (n e word lo w : Nat) : Nat := cfg m (pgSto n) (winOff e + 4 * word) lo w

/-- EN of a window entry. -/
def winEn (m : SMap Word) (n e : Nat) : Bool := decide (winField m n e 0 0 1 = 1)
/-- CONTEXT of a window entry. -/
def winCtx (m : SMap Word) (n e : Nat) : Nat := winField m n e 0 1 6
/-- PARTITION of a window entry. -/
def winPart (m : SMap Word) (n e : Nat) : Nat := winField m n e 0 7 3
/-- KILL of a window entry. -/
def winKill (m : SMap Word) (n e : Nat) : Bool := decide (winField m n e 0 10 1 = 1)
/-- W_RO of a window entry. -/
def winRo (m : SMap Word) (n e : Nat) : Bool := decide (winField m n e 1 31 1 = 1)

/-- BASE of an entry's window in a store. -/
def winBase (m : SMap Word) (n e : Nat) : Store → Nat
  | .w => winField m n e 1 0 17
  | .a => winField m n e 3 0 19
  | .p => winField m n e 5 0 16

/-- SIZE of an entry's window in a store. -/
def winSize (m : SMap Word) (n e : Nat) : Store → Nat
  | .w => winField m n e 2 0 18
  | .a => winField m n e 4 0 20
  | .p => winField m n e 6 0 17

/-- The window entry that covers an absolute row: an ACTIVE entry of the Plot (06 R154). -/
def coverEntry (m : SMap Word) (n : Nat) (st : Store) (r : Nat) : Option Nat :=
  (List.range 32).find? fun e =>
    winEn m n e && decide (winBase m n e st ≤ r ∧ r < winBase m n e st + winSize m n e st)

/-! ### Codewords -/

/-- Errors struck into a codeword. -/
def State.xorOf (s : State) (cw : Nat) : Nat := SMap.get zeroUnlisted s.ecc cw

/-- Set the errors struck into a codeword. -/
def State.setXor (s : State) (cw x : Nat) : State := { s with ecc := SMap.put zeroUnlisted s.ecc cw x }

/-- Errors strike stored codewords (16 R385). -/
def State.strike (s : State) (l : List Strike) : State :=
  l.foldl (fun s k => s.setXor k.codeword (Nat.xor (s.xorOf k.codeword) (k.xor % 2 ^ 144))) s

/-- The 128 data bits as they stand in a stored codeword, before its errors. -/
def State.cwData (s : State) (cw : Nat) : Nat := Mem.readLe s.mem (16 * cw) 16

/-- Write a codeword: valid data and no error. -/
def State.putCw (s : State) (cw d : Nat) : State :=
  { s with mem := Mem.writeLe s.mem (16 * cw) 16 d, ecc := SMap.put zeroUnlisted s.ecc cw 0 }

/-- Write a poisoned codeword of data bits (16 R529). -/
def State.putPoison (s : State) (cw d : Nat) : State :=
  { s with mem := Mem.writeLe s.mem (16 * cw) 16 d, ecc := SMap.put zeroUnlisted s.ecc cw eccPoison }

/-- Memory beneath the code, for memories whose rows are zeroed whole. -/
def State.zeroBytes (s : State) (a n : Nat) : State :=
  { s with
    mem := Mem.zero s.mem a n
    ecc := s.ecc.filter fun e => decide (e.1 < a / 16 ∨ (a + n) / 16 ≤ e.1) }

/-- The Graft of a spare column, begun or waiting its turn, that has not reached the codeword `c` of a row, and after whose apply
no write has reached it (06 R156). -/
def State.staleRun (s : State) (n : Nat) (st : Store) (r c : Nat) : Option RepairRun :=
  (s.plot n).sto.repair.find? fun q =>
    q.column && decide (q.mac = rowMacro st r ∧ q.next ≤ macroRow st r ∧ q.target / 144 = c ∧ macroRow st r ∉ q.fresh)

/-- Free value: the bit that stands in a spare column before the rewrite reaches a row (06 R156), as an XOR. -/
def State.staleXor (s : State) (n : Nat) (st : Store) (r c : Nat) : Nat :=
  match s.staleRun n st r c with
  | none => 0
  | some q => if Config.staleColumn (n * 2 ^ 32 + q.mac * 2 ^ 16 + macroRow st r) then 2 ^ (q.target % 144) else 0

/-- A codeword of a row is written: the bit of a spare column that serves it is then true (06 R156). -/
def State.freshen (s : State) (n : Nat) (st : Store) (r c : Nat) : State :=
  match s.staleRun n st r c with
  | none => s
  | some q => s.modPlot n fun p =>
      { p with sto := { p.sto with
        repair := p.sto.repair.map fun x => if x = q then { x with fresh := macroRow st r :: x.fresh } else x } }

/-- The decoder's judgement of codeword `c` of a row (06 R154, R156). -/
def State.judgeCw (s : State) (n : Nat) (st : Store) (r c : Nat) : EccResult :=
  eccJudge (Nat.xor (s.xorOf (rowAddr n st r / 16 + c)) (s.staleXor n st r c))

/-- Whether a correction is that of the symbol that holds the bit of a spare column which the rewrite has not reached: it is
expected, and not counted (06 R156). -/
def State.staleSym (s : State) (n : Nat) (st : Store) (r c : Nat) : EccResult → Bool
  | .corrected sym _ =>
    match s.staleRun n st r c with
    | none => false
    | some q => decide (q.target % 144 / 4 = sym)
  | _ => false

/-- The corrected data of codeword `c` of a row. -/
def State.deliverCw (s : State) (n : Nat) (st : Store) (r c : Nat) : Option Nat :=
  eccDeliver (s.cwData (rowAddr n st r / 16 + c)) (Nat.xor (s.xorOf (rowAddr n st r / 16 + c)) (s.staleXor n st r c))

/-- DETAIL of a codeword's record (16 R409). -/
def cwDetail (addr c sym : Nat) : Nat := addr % 2 ^ 24 + 2 ^ 24 * (c % 4) + 2 ^ 26 * (sym % 64)

/-- Count and report what the decoder found in codeword `c` of a row; an uncorrectable one that the patrol finds raises no ECC_UE
(06 R154, 16 R389). -/
def State.eccEvent (s : State) (n : Nat) (st : Store) (r c : Nat) (patrol : Bool) (ctx part : Option Nat) (j : EccResult) :
    State :=
  let info (ue : Bool) (sym : Nat) : Word := BitVec.ofNat 32
    (st.no + 4 * bit ue + 8 * bit patrol + 16 * r + 2 ^ 23 * c + 2 ^ 25 * sym)
  let setInfo (s : State) (w : Word) : State := s.modPlot n fun p => { p with sto := { p.sto with ecc := w } }
  let rec' (kind action sym e : Nat) : FltRec :=
    { kind := kind, action := action, cls := 3, plot := n, index := rowMacro st r, ctx := ctx,
      detail := cwDetail r c sym, addr := r, bits := e * 2 ^ (4 * sym) }
  match j with
  | .clean => s
  | .corrected sym e =>
    if s.staleSym n st r c j then s
    else (setInfo (s.bump (pgSto n) 0x68 part) (info false sym)).toFlt (rec' 0 0 sym e)
  | .uncorrectable =>
    let s1 := setInfo (s.bump (pgSto n) 0x70 part) (info true 0)
    ((if patrol then s1 else s1.raise (pgSto n) 10 part).toFlt (rec' 1 8 0 0)).armRetry (rowAddr n st r / 16)

/-- What a read of a whole row finds: its data where every codeword is good. -/
def State.rowData (s : State) (n : Nat) (st : Store) (r : Nat) : Option Nat :=
  match s.deliverCw n st r 0, s.deliverCw n st r 1, s.deliverCw n st r 2, s.deliverCw n st r 3 with
  | some a, some b, some c, some d => some (a + 2 ^ 128 * b + 2 ^ 256 * c + 2 ^ 384 * d)
  | _, _, _, _ => none

/-- Whether some codeword of a row is counted as corrected by a read. -/
def State.rowCorrected (s : State) (n : Nat) (st : Store) (r : Nat) : Bool :=
  (List.range 4).any fun c =>
    match s.judgeCw n st r c with
    | .corrected a b => !s.staleSym n st r c (.corrected a b)
    | _ => false

/-- Whether some codeword of a row is in error, but for a spare column that the rewrite has not reached. -/
def State.rowBad (s : State) (n : Nat) (st : Store) (r : Nat) : Bool :=
  (List.range 4).any fun c => decide (s.judgeCw n st r c ≠ .clean) && !s.staleSym n st r c (s.judgeCw n st r c)

/-- A read of a row, found bad or good, that is the retry of an earlier fault of the row is reported as such (16 R391, R409):
`s0` is the state before the read. -/
def State.rowRetry (s s0 : State) (n : Nat) (st : Store) (r : Nat) (ctx : Option Nat) (bad : Bool) : State :=
  if s0.retryDue (rowAddr n st r / 16) then
    s.toFlt { kind := 0, action := if bad then 2 else 1, cls := 3, plot := n, index := rowMacro st r, ctx := ctx,
              detail := cwDetail r 0 0, addr := r }
  else s

/-- Count and report every codeword of a row that a read finds in error. -/
def State.rowEvents (s : State) (n : Nat) (st : Store) (r : Nat) (patrol : Bool) (ctx part : Option Nat) : State :=
  ((List.range 4).foldl (fun t c => t.eccEvent n st r c patrol ctx part (s.judgeCw n st r c))
    (s.takeRetry (rowAddr n st r / 16))).rowRetry s n st r ctx (s.rowBad n st r)

/-- The write-back queue of a store. -/
def Stores.wb (x : Stores) : Store → List Nat
  | .w => x.wbW
  | .a => x.wbA
  | .p => x.wbP

/-- Set the write-back queue of a store. -/
def Stores.setWb (x : Stores) (st : Store) (l : List Nat) : Stores :=
  match st with
  | .w => { x with wbW := l }
  | .a => { x with wbA := l }
  | .p => { x with wbP := l }

/-- Queue a corrected row for write-back, or count it as dropped (06 R153). -/
def State.queueWb (s : State) (n : Nat) (st : Store) (r : Nat) (part : Option Nat) : State :=
  if r ∈ (s.plot n).sto.wb st then s
  else if ((s.plot n).sto.wb st).length < 8 then
    s.modPlot n fun p => { p with sto := p.sto.setWb st (p.sto.wb st ++ [r]) }
  else s.bump (pgSto n) 0x88 part

/-- A read of an absolute row by a client of a context: the row's data, none where a codeword is uncorrectable, which faults the
context (06 R154). -/
def State.readRowOf (s : State) (n : Nat) (st : Store) (r : Nat) (ctx part : Option Nat) : Option Nat × State :=
  let s1 := s.rowEvents n st r false ctx part
  match s.rowData n st r with
  | some d => (some d, if s.rowCorrected n st r then s1.queueWb n st r part else s1)
  | none => (none, match ctx with | some c => s1.faultCtx c 0x02 | none => s1)

/-- A read of an absolute row that no entry names: for the context whose window covers it, the lowest entry's where several do. -/
def State.readRow (s : State) (n : Nat) (st : Store) (r : Nat) : Option Nat × State :=
  let e := coverEntry s.gate.act n st r
  s.readRowOf n st r (e.map (winCtx s.gate.act n)) (e.map (winPart s.gate.act n))

/-- Bytes of `new` where the mask has a 1, of `old` elsewhere. -/
def mergeBytes (old new mask : Nat) : Nat → Nat
  | 0 => 0
  | k + 1 =>
    mergeBytes old new mask k + (if mask / 2 ^ k % 2 = 1 then new / 256 ^ k % 256 else old / 256 ^ k % 256) * 256 ^ k

/-- What a write of some bytes leaves in codeword `c` of a row, by the row's contents at the start of the turn: none where
the read part finds it uncorrectable (06 R142). -/
def State.mergeCw (s : State) (n : Nat) (st : Store) (r c data mask : Nat) : Option Nat :=
  if mask % 2 ^ 16 = 2 ^ 16 - 1 then some (data % 2 ^ 128)
  else (s.deliverCw n st r c).map fun old => mergeBytes old data (mask % 2 ^ 16) 16

/-- A write of some bytes of one codeword: `s0` is the state at the start of the turn (06 R142). -/
def State.writeCw (s s0 : State) (n : Nat) (st : Store) (r c data mask : Nat) (ctx part : Option Nat) : State :=
  if mask % 2 ^ 16 = 0 then s
  else
    let s1 := if mask % 2 ^ 16 = 2 ^ 16 - 1 then s
      else s.eccEvent n st r c false ctx part (s0.judgeCw n st r c)
    match s0.mergeCw n st r c data mask with
    | some d => (s1.putCw (rowAddr n st r / 16 + c) d).freshen n st r c
    | none => match ctx with | some k => s1.faultCtx k 0x02 | none => s1

/-- A write of some bytes of an absolute row for a context. -/
def State.writeRow (s s0 : State) (n : Nat) (st : Store) (r data mask : Nat) (ctx part : Option Nat) : State :=
  (List.range 4).foldl
    (fun t c => t.writeCw s0 n st r c (data / 2 ^ (128 * c) % 2 ^ 128) (mask / 2 ^ (16 * c) % 2 ^ 16) ctx part) s

/-! ### Windows (06 R149 to R151) -/

/-- The outcome of naming a relative row through an entry (06 R150, R151). -/
def winRow (m : SMap Word) (n e : Nat) (st : Store) (rel : Nat) (write : Bool) : Option Nat :=
  if winEn m n e ∧ rel < winSize m n e st ∧ ¬ (write ∧ st = .w ∧ winRo m n e) then some (winBase m n e st + rel)
  else none

/-- The context that makes an access through an entry: the one that the entry's resident slot holds (11 R272, R277); where the slot
holds none, the one that the entry names. -/
def State.accessor (s : State) (n e : Nat) : Nat :=
  match SMap.get zeroUnlisted s.rms.slot (e / 2) with
  | 0 => winCtx s.gate.act n e
  | c + 1 => c

/-- An access outside bound (06 R151): `client` is the number of the client's slot less one. It faults the context that makes it. -/
def State.oob (s : State) (n e : Nat) (st : Store) (client : Nat) (write : Bool) (rel : Nat) : State :=
  let w : Word := BitVec.ofNat 32
    (e % 32 + 32 * st.no + 128 * (client % 8) + 1024 * bit write + 2048 * (min rel 0xFFFFF))
  let part := some (s.partOf (s.accessor n e))
  (((s.bump (pgSto n) 0x60 part).modPlot n fun p => { p with sto := { p.sto with oob := w } }).raise (pgSto n) 9 part).faultCtx
    (s.accessor n e) 0x01

/-- A read of a relative row for a context: zero outside bound, none where the row is uncorrectable or the Plot is Pruned
(06 R150, R151, R154; 01 R31). -/
def State.winRead (s : State) (n e : Nat) (st : Store) (client rel : Nat) : Option Nat × State :=
  if s.pruned n then (none, s.faultCtx (s.accessor n e) 0x03)
  else
    match winRow s.gate.act n e st rel false with
    | none => (some 0, s.oob n e st client false rel)
    | some r => s.readRowOf n st r (some (s.accessor n e)) (some (s.partOf (s.accessor n e)))

/-- Reads of `k` relative rows from `rel` upward, as one number, the lowest row lowest; none where one is not delivered. -/
def State.winReadN (s : State) (n e : Nat) (st : Store) (client rel : Nat) : Nat → Option Nat × State
  | 0 => (some 0, s)
  | k + 1 =>
    let a := s.winRead n e st client rel
    let b := a.2.winReadN n e st client (rel + 1) k
    match a.1, b.1 with
    | some x, some y => (some (x + 2 ^ 512 * y), b.2)
    | _, _ => (none, b.2)

/-- A write of some bytes of a relative row for a context (06 R150, R151). -/
def State.winWrite (s : State) (n e : Nat) (st : Store) (client rel data mask : Nat) : State :=
  if s.pruned n then s.faultCtx (s.accessor n e) 0x03
  else
    match winRow s.gate.act n e st rel true with
    | none => s.oob n e st client true rel
    | some r => s.writeRow s n st r data mask (some (s.accessor n e)) (some (s.partOf (s.accessor n e)))

/-- Writes of whole rows from a relative row upward, `data` holding the lowest row lowest. -/
def State.winWriteN (s : State) (n e : Nat) (st : Store) (client rel data : Nat) : Nat → State
  | 0 => s
  | k + 1 => (s.winWrite n e st client rel (data % 2 ^ 512) (2 ^ 64 - 1)).winWriteN n e st client (rel + 1) (data / 2 ^ 512) k

/-! ### Release, kill and hold (06 R157, R158) -/

/-- State of a window entry at reset. -/
def winUnlisted (_ : Nat) : WinSt := {}

/-- The state of a window entry. -/
def State.win (s : State) (n e : Nat) : WinSt := SMap.get winUnlisted (s.plot n).sto.win e

/-- Change the state of a window entry. -/
def State.modWin (s : State) (n e : Nat) (f : WinSt → WinSt) : State :=
  s.modPlot n fun p => { p with sto := { p.sto with win := SMap.modify winUnlisted p.sto.win e f } }

/-- HOLD of a partition (15 R378, R383): its hold-for-debug setting. -/
def partHold (m : SMap Word) (p : Nat) : Bool := decide (cfg m pgSec (0x100 + 0x40 * p) 13 1 = 1)

/-- An entry enters ACTIVE at the apply that sets its EN (06 R157). -/
def State.winEnter (s : State) (n e : Nat) : State := s.modWin n e fun _ => { st := .active }

/-- An entry whose three windows are zeroed becomes FREE (06 R157). -/
def State.zeroFinish (s : State) (n e : Nat) : State :=
  let x := s.win n e
  if x.st = .zeroing ∧ x.wSize ≤ x.doneW ∧ x.aSize ≤ x.doneA ∧ x.pSize ≤ x.doneP then
    (s.modWin n e fun _ => {}).raise (pgSto n) 11 (some x.part)
  else s

/-- An entry leaves ACTIVE at the apply that clears its EN; `m` is the active configuration before the apply, in which its
window stands (06 R157). One without rows is FREE at once. -/
def State.winLeave (s : State) (m : SMap Word) (n e : Nat) (kill : Bool) : State :=
  let held := kill && partHold s.gate.act (winPart m n e)
  State.zeroFinish (s.modWin n e fun _ =>
    { st := if held then .held else .zeroing
      order := (s.plot n).sto.zeroOrder
      wBase := winBase m n e .w, wSize := winSize m n e .w
      aBase := winBase m n e .a, aSize := winSize m n e .a
      pBase := winBase m n e .p, pSize := winSize m n e .p
      part := winPart m n e, ctx := winCtx m n e }) n e

/-- Entries that enter ZEROING after this share a later order. -/
def State.nextZeroOrder (s : State) (n : Nat) : State :=
  s.modPlot n fun p => { p with sto := { p.sto with zeroOrder := p.sto.zeroOrder + 1 } }

/-- A HELD entry moves to ZEROING (06 R158). -/
def State.winUnhold (s : State) (n e : Nat) : State :=
  if (s.win n e).st = .held then
    State.zeroFinish (s.modWin n e fun x => { x with st := .zeroing, order := (s.plot n).sto.zeroOrder }) n e
  else s

/-- Rows zeroed of an entry's window in a store, and its base and size. -/
def WinSt.done (x : WinSt) : Store → Nat
  | .w => x.doneW
  | .a => x.doneA
  | .p => x.doneP

/-- Base of the window as it stood. -/
def WinSt.base (x : WinSt) : Store → Nat
  | .w => x.wBase
  | .a => x.aBase
  | .p => x.pBase

/-- Size of the window as it stood. -/
def WinSt.size (x : WinSt) : Store → Nat
  | .w => x.wSize
  | .a => x.aSize
  | .p => x.pSize

/-- Progress of an entry's zeroing. -/
def WinSt.setDone (x : WinSt) (st : Store) (k : Nat) : WinSt :=
  match st with
  | .w => { x with doneW := k }
  | .a => { x with doneA := k }
  | .p => { x with doneP := k }

/-- Order of two ZEROING entries: earlier entry into the state, then lower number (06 R157). -/
def zeroBefore (a b : Nat × WinSt) : Bool := decide (a.2.order < b.2.order ∨ (a.2.order = b.2.order ∧ a.1 < b.1))

/-- The entry whose window a store zeroes next. -/
def State.zeroNext (s : State) (n : Nat) (st : Store) : Option (Nat × WinSt) :=
  ((s.plot n).sto.win.filter fun e => decide (e.2.st = .zeroing) && decide (e.2.done st < e.2.size st)).foldl
    (fun best e => match best with
      | none => some e
      | some b => if zeroBefore e b then some e else some b) none

/-- Whether a weight row of a released entry is still read-only data of an ACTIVE entry of the same partition
(06 R157). -/
def State.keptRow (s : State) (n : Nat) (st : Store) (part r : Nat) : Bool :=
  decide (st = .w) && (List.range 32).any fun e =>
    winEn s.gate.act n e && winRo s.gate.act n e && decide (winPart s.gate.act n e = part) &&
      decide (winBase s.gate.act n e .w ≤ r ∧ r < winBase s.gate.act n e .w + winSize s.gate.act n e .w)

/-- Write a zero row with valid codewords, which is counted (06 R157). -/
def State.zeroRow (s : State) (n : Nat) (st : Store) (part r : Nat) : State :=
  if s.keptRow n st part r then s
  else ((List.range 4).foldl (fun t c => t.freshen n st r c) (s.zeroBytes (rowAddr n st r) 64)).bump (pgSto n) 0x80 (some part)

/-- Every entry of a Plot that has nothing left to zero becomes FREE. -/
def State.zeroFinishAll (s : State) (n : Nat) : State := (List.range 32).foldl (fun t e => t.zeroFinish n e) s

/-- Up to four zero rows in a turn (06 R157). -/
def State.zeroStep (s : State) (n : Nat) (st : Store) (e : Nat) (x : WinSt) : State :=
  let k := min 4 (x.size st - x.done st)
  let s1 := (List.range k).foldl (fun t i => t.zeroRow n st x.part (x.base st + x.done st + i)) s
  (s1.modWin n e fun y => y.setDone st (y.done st + k)).zeroFinishAll n

/-! ### Spares (06 R155, R156) -/

/-- No spare in service. -/
def sparesUnlisted (_ : Nat) : MacroSpares := {}

/-- The spares of a macro. -/
def State.macroSpares (s : State) (n m : Nat) : MacroSpares := SMap.get sparesUnlisted (s.plot n).sto.spares m

/-- Put a spare in service and begin the copy or rewrite, after those still under way: what the apply of STO_REPAIR with EN 1 does (06 R156). -/
def State.graftSpare (s : State) (n mac spare target : Nat) : State :=
  s.modPlot n fun p =>
    { p with sto :=
      { p.sto with
        spares := SMap.modify sparesUnlisted p.sto.spares mac fun x =>
          if spare = 0 then { x with row0 := some target }
          else if spare = 1 then { x with row1 := some target }
          else if spare = 2 then { x with col0 := some target }
          else { x with col1 := some target }
        repair := p.sto.repair ++ [{ mac := mac, column := decide (2 ≤ spare), target := target }] } }

/-- How the scrub slot rewrites a row: for a Graft, where an uncorrectable codeword becomes the poisoned codeword of its
data bits (06 R156); for a write-back; for the patrol. Codewords that a client writes in the turn are left (06 R147). -/
inductive Rewrite where
  | graft | writeBack | patrol
deriving DecidableEq, Repr

/-- Rewrite codeword `c` of a row, unless a client writes it in the turn, which `skip` says: what was found is reported in either case.
`s0` is the state at the start of the turn. -/
def State.rewriteCw (s s0 : State) (n : Nat) (st : Store) (r c : Nat) (how : Rewrite) (skip : Bool) (ctx part : Option Nat) : State :=
  let s1 := if how = .writeBack then s else s.eccEvent n st r c (decide (how = .patrol)) ctx part (s0.judgeCw n st r c)
  let cw := rowAddr n st r / 16 + c
  if skip then s1
  else
    match s0.deliverCw n st r c with
    | some d =>
      if s0.xorOf cw = 0 ∧ (s0.staleRun n st r c).isNone then s1
      else
        let s2 := (s1.putCw cw d).freshen n st r c
        if s0.xorOf cw = 0 then s2 else s2.armRetry (rowAddr n st r / 16)
    | none =>
      if how = .graft then (s1.putPoison cw (Nat.xor (s0.cwData cw) (s0.xorOf cw % 2 ^ 128))).freshen n st r c else s1

/-- Rewrite a row, but for the codewords of `skip`. -/
def State.rewriteRow (s s0 : State) (n : Nat) (st : Store) (r : Nat) (how : Rewrite) (skip : List Nat) : State :=
  let e := coverEntry s0.gate.act n st r
  let ctx := e.map (winCtx s0.gate.act n)
  let part := e.map (winPart s0.gate.act n)
  let go (t : State) : State := (List.range 4).foldl (fun t c => t.rewriteCw s0 n st r c how (decide (c ∈ skip)) ctx part) t
  if how = .writeBack then go s
  else (go (s.takeRetry (rowAddr n st r / 16))).rowRetry s0 n st r ctx (s0.rowBad n st r)

/-- Scrub a store set: valid zero codewords everywhere, no window, no held access, nothing queued (16 R404, 19 R466). The
spares in service stay. -/
def State.scrubStores (s : State) (n : Nat) : State :=
  let s1 := ((s.zeroBytes (rowAddr n .w 0) (64 * storeRows .w)).zeroBytes (rowAddr n .a 0) (64 * storeRows .a)).zeroBytes
    (rowAddr n .p 0) (64 * storeRows .p)
  s1.modPlot n fun p =>
    { p with sto :=
      { p.sto with
        win := [], heldW := [], heldA := [], heldP := [], wbW := [], wbA := [], wbP := [], dlvW := [], dlvA := []
        dlvP := [] } }

end Sys2Proof.Machine
end

