-- ==== Sys2Proof/Machine/RegPath.lean ====
section
/-!
DEFINITION. What the register path makes of a write: who may make it, what is reported of one that is ignored (21 R490, R491),
and what a changed active word or hardware state leaves to the Commit Gate (R500, R501).
-/

namespace Sys2Proof.Machine

open Sys2Proof

/-- Whether a view sees the objects of partition `p`: the PF and Groundskeeper see all, a VF those of its own
(21 R491). -/
def viewSees (m : SMap Word) (v : View) (p : Nat) : Bool :=
  match v with
  | .vf k => decide (vfPart m (k.val + 1) = some p)
  | _ => true

/-- Whether a view sees a Plot's window (21 R491, 15 R356). -/
def viewSeesPlot (m : SMap Word) (v : View) (n : Nat) : Bool :=
  match v with
  | .vf k => decide (vfPart m (k.val + 1) = plotPart m n ∧ (plotPart m n).isSome)
  | _ => true

/-- The partition of a VF view, if it has one. -/
def viewPart (m : SMap Word) (v : View) : Option Nat :=
  match v with
  | .vf k => vfPart m (k.val + 1)
  | _ => none

/-- Whether a view is a VF's. -/
def isVf : View → Bool
  | .vf _ => true
  | _ => false

/-- An access outside every page or with partial byte enables: counted, recorded, and raised (21 R490, R507). -/
def State.badAccess (s : State) (v : View) (off : Nat) (write part' : Bool) : State :=
  let w : Word := BitVec.ofNat 32 (off / 4 % 2 ^ 24 + 2 ^ 24 * v.no + 2 ^ 28 * bit write + 2 ^ 29 * bit part')
  let s1 := s.bump ⟨.sys, 0⟩ 0x40 (viewPart s.gate.act v)
  { s1 with hub := { s1.hub with badAcc := w } }.raise ⟨.sys, 0⟩ 8 (viewPart s.gate.act v)

/-- Whether the BAR0 writes of a view's function are dropped: it is in a function-level reset, or its IDE stream is insecure (17 R433,
15 R364). -/
def State.inFlr (s : State) (v : View) : Bool :=
  match viewFn v with
  | some f => (SMap.get fnUnlisted s.irg.fn f).flr || SMap.get flagUnlisted s.hub.mute f
  | none => false

/-- A write by a view's function, dropped during its function-level reset (17 R433). -/
def State.written (s : State) (v : View) (f : State → State) : State := if s.inFlr v then s else f s

/-- A write of a page's command register by a view: `ok` says whether the view sees the object it names. -/
def State.commanded (s : State) (v : View) (p : Page) (ok : Bool) (f : State → State) : State :=
  s.written v fun s => if ok then f s else s.dropped v p

/-! ### Places of the Turnstile's registers (09 R240) -/

/-- The TRN radio-unit page. -/
def pgRu : Page := ⟨.trnRu, 0⟩
/-- The TRN grid page. -/
def pgGrid : Page := ⟨.trnGrid, 0⟩
/-- Offset of TRN_RU[r]. -/
def ruOff (r : Nat) : Nat := 0x100 + 0x20 * r
/-- Offset of TRN_GRID[g]. -/
def gridOff (g : Nat) : Nat := 0x100 + 0x20 * g
/-- A field of flow `f`. -/
def flowF (m : SMap Word) (f off lo w : Nat) : Nat := cfg m ⟨.trnFlow, f / 128⟩ (0x100 + 8 * (f % 128) + off) lo w

/-! ### Pages and channels of a view -/

/-- The channel of the Commit Gate of a view (R495). -/
def chanOf : View → Nat
  | .pf => 0
  | .vf k => k.val + 1
  | .gk => 9

/-- The view whose CMT page shows a channel; channels 10 and 11 have none. -/
def chanView (k : Nat) : Option View :=
  if k = 0 then some .pf else if h : k - 1 < 8 then (if k = 0 then none else some (.vf ⟨k - 1, h⟩)) else if k = 9 then some .gk else none

/-- A channel at reset. -/
def chanUnlisted (_ : Nat) : Channel := {}

/-- The state of a channel. -/
def State.chan (s : State) (k : Nat) : Channel := SMap.get chanUnlisted s.gate.chans k

/-- Change a channel. -/
def State.modChan (s : State) (k : Nat) (f : Channel → Channel) : State :=
  { s with gate := { s.gate with chans := SMap.modify chanUnlisted s.gate.chans k f } }

/-- Whether a view sees the page at all: a VF sees the window of a Plot of its partition only (R491). -/
def viewSeesPage (m : SMap Word) (v : View) (p : Page) : Bool :=
  match p.kind with
  | .btp => viewSeesPlot m v p.inst
  | .siv => viewSeesPlot m v p.inst
  | .sto => viewSeesPlot m v p.inst
  | .pace => viewSeesPlot m v p.inst
  | .irg => decide (p.inst = 8) || viewSeesPlot m v p.inst
  | _ => true

/-! ### What a view may write (R491, R496) -/

/-- All 32 bits. -/
def allBits : Nat := 2 ^ 32 - 1

/-- Bits of a word of two that belong to contexts of partition `q`. -/
def ctxMask (m : SMap Word) (q w : Nat) : Nat :=
  ((List.range 32).map fun k => if ctxPart m (32 * w + k) = q then 2 ^ k else 0).sum

/-- Bits if a condition holds, none otherwise. -/
def allIf (b : Bool) : Nat := if b then allBits else 0

/-- Bits of a staged word that a VF of partition `q` may write with the value `x`: those of objects of the partition, which the
value must leave to the partition; device-wide fields it may not write (R491). -/
def vfMask (m : SMap Word) (v : View) (q : Nat) (p : Page) (off x : Nat) : Nat :=
  let own (base stride word lo : Nat) (cur : Nat) : Nat :=
    allIf (decide (cur = q ∧ ((off - base) % stride ≠ word ∨ fieldOf x lo 3 = q)))
  match p.kind with
  | .evh =>
    let src := (off - 0x100) / 4
    if (List.range 0xA0).any fun no =>
        match viewPage v no with
        | some z => decide (pageSource z = src) && viewSeesPage m v z
        | none => false
    then 0xFFF else 0
  | .trn => if 0x200 ≤ off then own 0x200 0x10 0 0 (cfg m pgTrn (0x200 + (off - 0x200) / 0x10 * 0x10) 0 3) else 0
  | .trnRu => own 0x100 0x20 0 5 (ruPart m ((off - 0x100) / 0x20))
  | .trnGrid => own 0x100 0x20 0 21 (cfg m pgGrid (gridOff ((off - 0x100) / 0x20)) 21 3)
  | .trnFlow =>
    let f := 128 * p.inst + (off - 0x100) / 8
    let keeps := if off % 8 = 0 then decide (ruPart m (fieldOf x 17 6) = q)
      else decide (cfg m pgGrid (gridOff (fieldOf x 0 5)) 21 3 = q)
    allIf (decide (ruPart m (flowF m f 0 17 6) = q) && keeps)
  | .rms =>
    if 0x200 ≤ off ∧ off < 0x600 then own 0x200 0x10 0 1 (ctxPart m ((off - 0x200) / 0x10))
    else if (0x608 ≤ off ∧ off < 0x620) ∨ (0x680 ≤ off ∧ off < 0x698) then ctxMask m q (off / 4 % 2)
    else if (0x640 ≤ off ∧ off < 0x680) ∨ (0x6A0 ≤ off ∧ off < 0x6E8) then
      let w := off / 8 * 8
      allIf (decide (ctxPart m (cfg m pgRms w 24 6) = q ∧ (off % 8 = 4 ∨ ctxPart m (fieldOf x 24 6) = q)))
    else 0
  | .hst =>
    if 0x200 ≤ off ∧ off < 0x700 then allIf (decide (ctxPart m ((off - 0x200) / 0x14) = q)) else 0
  | .hstFn => allBits
  | .btp => allBits
  | .siv => allBits
  | .sto => allBits
  | .pace => allBits
  | .irg => allIf (decide (p.inst < 8))
  | _ => 0

/-- Bits of a staged word that a view may write. -/
def viewMask (m : SMap Word) (v : View) (p : Page) (off x : Nat) : Nat :=
  match v with
  | .vf k =>
    match vfPart m (k.val + 1) with
    | some q => vfMask m v q p off x
    | none => if p.kind = .evh then vfMask m v 8 p off x else 0
  | _ => allBits

/-! ### Apply events (R500, R501) -/

/-- Words whose active value differs between two maps. -/
def changedKeys (a m : SMap Word) : List Nat :=
  if a = m then [] else ((a ++ m).map Prod.fst).eraseDups.filter fun k => decide (actW a k ≠ actW m k)

/-- The page that a register key names. -/
def keyPage (k : Nat) : Option Page := pfPage (k % 2 ^ 26 / 4096)

/-- Whether a page stands in the BAR0 of VF `k` + 1 (R506). -/
def vfHasPage (k : Nat) (p : Page) : Bool := (List.range 0xA0).any fun no => decide (vfPage k no = some p)

/-- Whether a change of a word from `a` to `m` is visible to a view (R491, R500). -/
def visibleTo (a m : SMap Word) (v : View) (key : Nat) : Bool :=
  match keyPage key with
  | none => false
  | some p =>
    if perView p.kind then decide (key / 2 ^ 26 = v.no)
    else
      match v with
      | .vf k =>
        let off := key % 4096
        let x := (actW a key).toNat
        let y := (actW m key).toNat
        decide (p.kind ≠ .sec) && vfHasPage k.val p && viewSeesPage m v p &&
          (((List.range 8).all fun q => decide (vfMask a v q p off x = 0 ∧ vfMask m v q p off y = 0)) ||
            match vfPart m (k.val + 1) with
            | some q => decide (Nat.land (Nat.xor x y) (Nat.lor (vfMask a v q p off x) (vfMask m v q p off y)) ≠ 0)
            | none => false)
      | _ => true

/-- The views. -/
def allViews : List View := [.pf, .gk] ++ (List.finRange 8).map View.vf

/-- The hardware states that the rules of a kind of page read (R501). -/
def State.hwRead (s : State) (p : Page) : List Nat :=
  let wins (n : Nat) : List Nat := (s.plot n).sto.win.flatMap fun e => [e.1, e.2.st.code, e.2.part]
  let all := (List.range 8).flatMap wins
  let parts := (List.range 8).map fun q => (SMap.get partUnlisted s.sec.parts q).st.code
  let units := [s.flt.pruned, s.pwr.plotsOut] ++ (List.range 5).map (fun u => bit (s.unit 5 0 u).pruned) ++
    s.beds.map fun e => 2 * e.1 + bit e.2.pruned
  match p.kind with
  | .sto => wins p.inst ++ (all.filter fun x => decide (x = WinState.held.code))
  | .sec => s.usable :: all
  | .pwr => all ++ units ++ s.rms.ctx.flatMap fun e => [e.1, e.2.st.code]
  | .rms => s.usable :: parts ++ s.rms.ctx.flatMap fun e => [e.1, bit e.2.pass, e.2.lib.length]
  | .trnRu => parts
  | .trnGrid => parts
  | .trnFlow => parts
  | .psf => s.usable :: parts
  | .irg => s.usable :: (List.range 16).map (SMap.get zeroUnlisted s.rms.slot)
  | .bed => units
  | .thr => units
  | .sdl => [bit s.sdl.freeOsc, bit (s.rms.ctx.any fun e => e.2.slot.isSome)]
  | .ddr => [s.usable, bit s.ddr.copying.isSome, s.ddr.remap.length]
  | _ => []

/-- Whether a commit's re-check is owed after the step from `s` to `t`: a word of a page it selects has changed, or a hardware
state that the rules of its own words read (R501). -/
def Commit.soiled (c : Commit) (s t : State) (v : View) (keys : List Nat) : Bool :=
  (keys.any fun k => c.pages.any fun no => match viewPage v no with
    | some p => decide (pageNo p = k % 2 ^ 26 / 4096)
    | none => false) ||
  c.words.any fun w => match keyPage w.1 with
    | some p => decide (s.hwRead p ≠ t.hwRead p)
    | none => false

/-- What the step from `s` to `t` leaves to the Commit Gate: the re-checks owed, and CMT_APPLY_SEQ of each view to which a changed
word is visible (R500, R501). -/
def State.noteApply (t s : State) : State :=
  let keys := changedKeys s.gate.act t.gate.act
  let t1 := { t with gate := { t.gate with
    chans := t.gate.chans.map fun e => (e.1, { e.2 with
      flight := e.2.flight.map fun c =>
        { c with dirty := c.dirty || (!c.checking && c.soiled s t ((chanView e.1).getD .gk) keys) } }) } }
  (allViews.filter fun v => keys.any (visibleTo s.gate.act t.gate.act v)).foldl
    (fun u v => u.modChan (chanOf v) fun c => { c with seq := c.seq + 1 }) t1

/-- An effect of the fabric that may change active values or a hardware state that the Commit Gate's rules read. -/
def State.liveApply (s : State) (f : State → State) : State := s.live fun s => (f s).noteApply s

end Sys2Proof.Machine
end

