-- ==== Sys2Proof/Machine/Dram.lean ====
section
/-!
DEFINITION. External memory (18): capacity, interleave, the checks of an access, the soft-buffer aperture, reads and writes
through the code, refresh, patrol, zeroing and repair.
-/

namespace Sys2Proof.Machine

open Sys2Proof

/-- Bottom of DRAM in Trellis space (01 R29). -/
def dramBase : Nat := 0x1000000000
/-- End of the DRAM range. -/
def dramEnd : Nat := 0x2000000000

/-- Usable pages U of an installed capacity in bytes (18 R439). -/
def dramPages (installed : Nat) : Nat := installed * 8 / 9 / 65536
/-- Reserved pool P. -/
def dramPool (u : Nat) : Nat := (u + 99) / 100

/-- Physical page of a data page (18 R441, R449). -/
def Ddr.physPage (x : Ddr) (page : Nat) : Nat := (SMap.find? x.remap page).getD page

/-- Physical offset of a data offset (18 R441). -/
def Ddr.phys (x : Ddr) (d : Nat) : Nat := x.physPage (d / 65536) * 65536 + d % 65536

/-- Channel of a data offset (18 R441). -/
def Ddr.channel (x : Ddr) (d : Nat) : Nat :=
  let p := x.phys d
  Nat.xor (Nat.xor (p / 2 ^ 8) (p / 2 ^ 16)) (p / 2 ^ 24) % 8

/-- A channel of the memory controller. -/
def State.ddrCh (s : State) (k : Nat) : DdrCh := SMap.get chUnlisted s.ddr.ch k

/-- Change a channel of the memory controller. -/
def State.modDdrCh (s : State) (k : Nat) (f : DdrCh → DdrCh) : State :=
  { s with ddr := { s.ddr with ch := SMap.modify chUnlisted s.ddr.ch k f } }

/-! ### Regions, fences, apertures -/

/-- Bounds, in 4 KiB units of DRAM, of region `j` of a partition; none where unused (15 R356, R357). -/
def partRegion (m : SMap Word) (usable p j : Nat) : Option (Nat × Nat) :=
  let base := cfg m pgSec (0x100 + 0x40 * p + 0x08 + 8 * j) 0 24
  let size := cfg m pgSec (0x100 + 0x40 * p + 0x0C + 8 * j) 0 24
  if size = 0 then none
  else if size = 0xFFFFFF then some (base, usable * 16)
  else some (base, base + size)

/-- Whether a 4 KiB page of DRAM lies in a region of partition `p`. -/
def inRegions (m : SMap Word) (usable p page : Nat) : Bool :=
  (List.range 4).any fun j =>
    match partRegion m usable p j with
    | some (lo, hi) => decide (lo ≤ page ∧ page < hi)
    | none => false

/-- The 4 KiB pages that an extent of DRAM touches. -/
def pagesOf (off len : Nat) : List Nat :=
  (List.range ((off + len + 4095) / 4096 - off / 4096)).map fun i => off / 4096 + i

/-- A soft-buffer aperture range: base and end in bytes; none where not enabled (18 R443). -/
def sbaRange (m : SMap Word) (k : Nat) : Option (Nat × Nat) :=
  if cfg m pgDdr (0x200 + 8 * k) 31 1 = 1 then
    let b := cfg m pgDdr (0x200 + 8 * k) 0 24 * 4096
    some (b, b + cfg m pgDdr (0x204 + 8 * k) 0 24 * 4096)
  else none

/-- The aperture range that an offset falls in (18 R443). -/
def sbaOf (m : SMap Word) (off : Nat) : Option (Nat × Nat) :=
  ((List.range 8).filterMap (sbaRange m)).find? fun r => decide (r.1 ≤ off ∧ off < r.2)

/-- Whether an extent touches some aperture range. -/
def touchesSba (m : SMap Word) (off len : Nat) : Bool :=
  ((List.range 8).filterMap (sbaRange m)).any fun r => decide (off < r.2 ∧ r.1 < off + len)

/-- Bytes of DRAM that an access covers: its groups in the aperture, its own bytes elsewhere (18 R443). -/
def dramExtent (m : SMap Word) (off len : Nat) : Nat := if (sbaOf m off).isSome then len / 512 * 320 else len

/-- Whether an access meets the aperture's conditions, or touches no aperture (18 R443). -/
def sbaOk (m : SMap Word) (off len : Nat) : Bool :=
  match sbaOf m off with
  | some r => decide (len % 512 = 0 ∧ off % 64 = 0 ∧ off + len / 512 * 320 ≤ r.2)
  | none => !touchesSba m off len

/-- Whether an extent meets a fenced area (15 R378). -/
def State.fenced (s : State) (off len : Nat) : Bool :=
  s.sec.fences.any fun f => decide (f.base < dramBase + off + len ∧ dramBase + off < f.base + f.len)

/-- Whether a DRAM access may be made: within usable DRAM, by the aperture's rules, and for a context within its partition's
regions and off every fence (01 R31, 15 R356, R378, 18 R443). -/
def State.dramOk (s : State) (c : Option Nat) (addr len : Nat) : Bool :=
  let off := addr - dramBase
  let ext := dramExtent s.gate.act off len
  decide (dramBase ≤ addr ∧ off + ext ≤ s.usable * 65536) && sbaOk s.gate.act off len &&
    match c with
    | none => true
    | some c =>
      ((pagesOf off ext).all fun p => inRegions s.gate.act s.usable (s.partOf c) p) && !s.fenced off ext

/-! ### The code in DRAM -/

/-- Codeword numbers that an extent of DRAM touches. -/
def cwsOf (addr len : Nat) : List Nat := (List.range ((addr + len + 15) / 16 - addr / 16)).map fun i => addr / 16 + i

/-- Whether the zeroing has yet to reach a page, so that it reads as zeros (18 R448). -/
def State.untouched (s : State) (off : Nat) : Bool :=
  s.ddr.zeroing && !(SMap.get flagUnlisted s.ddr.touched (off / 65536))

/-- Report what the decoder found in a DRAM codeword (16 R388, R389). -/
def State.dramEvent (s : State) (cw : Nat) (c : Option Nat) (j : EccResult) : State :=
  let off := 16 * cw - dramBase
  let part := c.map s.partOf
  let rec' (kind action sym e : Nat) : FltRec :=
    { kind := kind, action := action, cls := 8, index := s.ddr.channel off, ctx := c
      detail := cwDetail (off / 64) (off / 16) sym, addr := off / 64, bits := e * 2 ^ (4 * sym) }
  let s0 := s.takeRetry cw
  let s1 := match j with
    | .clean => s0
    | .corrected sym e => (s0.bump pgDdr 0x40 part).toFlt (rec' 0 0 sym e)
    | .uncorrectable => (((s0.bump pgDdr 0x48 part).raise pgDdr 8 part).toFlt (rec' 1 8 0 0)).armRetry cw
  if s.retryDue cw then s1.toFlt (rec' 0 (if j = .clean then 1 else 2) 0 0) else s1

/-- Read the codewords of an extent: the state after their reports, and whether every one is good. -/
def State.dramDecode (s : State) (c : Option Nat) (l : List Nat) : Bool × State :=
  l.foldl (fun acc cw =>
    if s.untouched (16 * cw - dramBase) then acc
    else
      let j := eccJudge (s.xorOf cw)
      (acc.1 && decide (j ≠ .uncorrectable), acc.2.dramEvent cw c j)) (true, s)

/-- The corrected byte at an address of DRAM. -/
def State.dramByte (s : State) (a : Nat) : BitVec 8 :=
  if s.untouched (a - dramBase) then 0
  else
    match eccDeliver (s.cwData (a / 16)) (s.xorOf (a / 16)) with
    | some d => BitVec.ofNat 8 (d / 256 ^ (a % 16))
    | none => Mem.read s.mem a

/-- The check bursts that an access touches, kept in the check cache of each channel: newest first, 32 at most; a write
marks its bursts with the time of their first change (18 R440). -/
def State.touchCheck (s : State) (off len : Nat) (write : Bool) : State :=
  (List.range ((off + len + 63) / 64 - off / 64)).foldl
    (fun t i =>
      let o := (off / 64 + i) * 64
      let id := Config.checkBurst (t.ddr.phys o / 64)
      t.modDdrCh (t.ddr.channel o) fun x =>
        let old := ((x.check.find? fun e => decide (e.1 = id)).map Prod.snd).getD 0
        let dirty := if write ∧ old = 0 then t.sdl.ref + 1 else old
        { x with check := ((id, dirty) :: x.check.filter fun e => decide (e.1 ≠ id)).take 32 }) s

/-! ### The aperture's codes (10 R251) -/

/-- Code of an INT8 value written. -/
def llrCode (v : Int) : Int := if v = -128 then -16 else satTo (-15) 15 (rneDiv v 8)

/-- INT8 value of a code read. -/
def llrValue (c : Int) : Int := if c = -16 then 0 else 8 * c

/-- Pack 512 INT8 values into a group of 320 bytes. -/
def packGroup (l : List (BitVec 8)) : List (BitVec 8) :=
  natLe 320 ((l.take 512).foldr (fun b acc => unsignedOf 5 (llrCode b.toInt) + 32 * acc) 0)

/-- `k` INT8 values of the codes of a number. -/
def unpackCodes : Nat → Nat → List (BitVec 8)
  | 0, _ => []
  | k + 1, x => BitVec.ofInt 8 (llrValue (signedOf 5 (x % 32))) :: unpackCodes k (x / 32)

/-- Unpack a group of 320 bytes. -/
def unpackGroup (l : List (BitVec 8)) : List (BitVec 8) := unpackCodes 512 (leNat l)

/-- Split bytes into pieces of `k`, `n` of them. -/
def pieces (k : Nat) : Nat → List (BitVec 8) → List (List (BitVec 8))
  | 0, _ => []
  | n + 1, l => l.take k :: pieces k n (l.drop k)

/-! ### Reads and writes -/

/-- A DRAM read for a context or another requester: the data, none where the access may not be made or a codeword is
uncorrectable, which fault the context (01 R31, 16 R388, 18 R443, R444, R448). -/
def State.dramRead (s : State) (c : Option Nat) (addr len : Nat) : Option (List (BitVec 8)) × State :=
  let off := addr - dramBase
  let ext := dramExtent s.gate.act off len
  if s.dramOk c addr len then
    let d := s.dramDecode c (cwsOf addr ext)
    let s1 := (d.2.bumpBy pgDdr 0x68 (c.map s.partOf) ext).touchCheck off ext false
    let raw := (List.range ext).map fun i => s.dramByte (addr + i)
    if d.1 then
      (some (if (sbaOf s.gate.act off).isSome then ((pieces 320 (len / 512) raw).map unpackGroup).flatten else raw), s1)
    else (none, match c with | some k => s1.faultCtx k 0x02 | none => s1)
  else
    let s1 := if sbaOk s.gate.act off len then s else s.bump pgDdr 0x60 (c.map s.partOf)
    (none, match c with | some k => s1.faultCtx k 0x03 | none => s1)

/-- Zero the pages that a write touches ahead of the background pass; each is counted (18 R448). -/
def State.zeroTouch (s : State) (off len : Nat) : State :=
  (List.range ((off + len + 65535) / 65536 - off / 65536)).foldl
    (fun t i =>
      let p := off / 65536 + i
      if t.untouched (p * 65536) then
        let t1 := (t.zeroBytes (dramBase + p * 65536) 65536).bump pgDdr 0x78 none
        { t1 with ddr := { t1.ddr with touched := SMap.put flagUnlisted t1.ddr.touched p true } }
      else t) s

/-- Write bytes of DRAM through the code: a codeword covered in part is read, corrected, merged and written; one that reads as
uncorrectable is left, and faults the context. -/
def State.dramPut (s : State) (c : Option Nat) (addr : Nat) (data : List (BitVec 8)) : State :=
  (cwsOf addr data.length).foldl
    (fun t cw =>
      let whole := decide (addr ≤ 16 * cw ∧ 16 * cw + 16 ≤ addr + data.length)
      let old := eccDeliver (s.cwData cw) (s.xorOf cw)
      let t1 := if whole then t else t.dramEvent cw c (eccJudge (s.xorOf cw))
      match (if whole then some 0 else old) with
      | none => match c with | some k => t1.faultCtx k 0x02 | none => t1
      | some o =>
        t1.putCw cw (leNat ((List.range 16).map fun i =>
          if addr ≤ 16 * cw + i then (data[16 * cw + i - addr]?).getD (BitVec.ofNat 8 (o / 256 ^ i))
          else BitVec.ofNat 8 (o / 256 ^ i)))) s

/-- A write into a registered weight set's region clears its HASH_OK (13 R334). -/
def State.wsetTouch (s : State) (off len : Nat) : State :=
  (List.range 8).foldl
    (fun t k =>
      let b := Machine.cfg t.gate.act pgRms (0x6A0 + 8 * k) 0 24 * 4096
      let n := Machine.cfg t.gate.act pgRms (0x6A4 + 8 * k) 0 24 * 4096
      if Machine.cfg t.gate.act pgRms (0x6A0 + 8 * k) 31 1 = 1 ∧ off < b + n ∧ b < off + len then
        { t with rms := { t.rms with wsetOk := SMap.put flagUnlisted t.rms.wsetOk k false } }
      else t) s

/-- A DRAM write (18 R440, R443, R444, R448). -/
def State.dramWrite (s : State) (c : Option Nat) (addr : Nat) (data : List (BitVec 8)) : State :=
  let off := addr - dramBase
  let ext := dramExtent s.gate.act off data.length
  if s.dramOk c addr data.length then
    let s1 := (s.zeroTouch off ext).bumpBy pgDdr 0x70 (c.map s.partOf) ext
    let raw := if (sbaOf s.gate.act off).isSome then ((pieces 512 (data.length / 512) data).map packGroup).flatten else data
    (s1.dramPut c addr raw).touchCheck off ext true
  else
    let s1 := if sbaOk s.gate.act off data.length then s else s.bump pgDdr 0x60 (c.map s.partOf)
    match c with | some k => s1.faultCtx k 0x03 | none => s1

/-- DRAM_READ (R441): the data that the read returns stand in `returned`. -/
def execDramRead (c : Option Ctx) (addr len : Nat) (strikes : List Strike) (s : State) : Host.Outcome State Fault Refusal :=
  .next (s.live fun s =>
    let r := (s.strike strikes).dramRead (c.map Fin.val) addr len
    { r.2 with ddr := { r.2.ddr with returned := r.1 } })

/-- DRAM_WRITE (R444). -/
def execDramWrite (c : Option Ctx) (addr : Nat) (data : List (BitVec 8)) (strikes : List Strike) (s : State) :
    Host.Outcome State Fault Refusal :=
  .next (s.live fun s => (s.strike strikes).dramWrite (c.map Fin.val) addr data)

/-- CHECK_BURST_WRITEBACK (R440): 1 µs after its first change. -/
def execCheckBurstWriteback (ch : Fin 8) (burst t : Nat) (s : State) : Host.Outcome State Fault Refusal :=
  .next (s.live fun s =>
    let s := s.advance t
    s.modDdrCh ch.val fun x =>
      { x with check := x.check.map fun e =>
          if e.1 = burst ∧ e.2 ≠ 0 ∧ e.2 + 1000 * nsRef ≤ s.sdl.ref + 1 then (e.1, 0) else e })

/-- REFRESH (R445): a bank's refresh that falls due is made in a gap, and is never postponed by more than 8 intervals. -/
def execRefresh (ch : Fin 8) (bank : Nat) (gap : Bool) (s : State) : Host.Outcome State Fault Refusal :=
  .next (s.live fun s =>
    s.modDdrCh ch.val fun x =>
      let k := SMap.get zeroUnlisted x.postponed bank
      { x with postponed := SMap.put zeroUnlisted x.postponed bank (if gap ∨ 8 ≤ k then 0 else k + 1) })

/-- The Almanac after a record has been appended: before the oldest sector of 128 records is erased, those of it that still stand are
rewritten at the head: repairs, the floor last recorded, and variants (19 R470; when a sector is erased is log 86). -/
def almAppend (l : List AlmRec) (r : AlmRec) : List AlmRec :=
  let x := l ++ [r]
  if x.length ≤ 32640 then x
  else
    let rest := x.drop 128
    rest ++ (x.take 128).filter fun (z : AlmRec) =>
      decide (z.step = 0x10) || decide (z.step = 0x11) && (rest.all fun y => decide (y.step ≠ 0x11)) ||
        decide (z.step ≤ 10 ∧ z.outcome = 4)

/-- Append a record to the Almanac; a write that fails raises ALMANAC_FAIL (16 R396, 19 R470). -/
def State.almanac (s : State) (r : AlmRec) (ok : Bool) : State :=
  if ok then { s with pwr := { s.pwr with almanac := almAppend s.pwr.almanac { r with start := s.pwr.start } } }
  else { s with pwr := { s.pwr with almFail := true } }.raise pgFlt 16 none

/-- What a change of the device's throttle level from `old` brings (19 R463): THERMAL, a count, and at level 4 a record. -/
def State.relevel (s : State) (old : Nat) : State :=
  if s.level = old then s
  else
    let s1 := ((s.bump pgPwr 0x50 none).raise pgPwr 8 none).platform 0 [s.level]
    if s1.level = 4 then s1.almanac { start := 0, step := 0x13, outcome := 1 } true else s1

/-- MR4_POLL (R445): the multiplier of the device's refresh interval, and whether it reports a temperature above range. -/
def execMr4Poll (ch : Fin 8) (mult : Fin 3) (hot : Bool) (s : State) : Host.Outcome State Fault Refusal :=
  .next (s.live fun s =>
    let was := (s.ddrCh ch.val).hot
    let s1 := s.modDdrCh ch.val fun x => { x with refreshX := mult.val, hot := hot }
    let s2 := if hot ∧ ¬ was then s1.raise pgDdr 11 none else s1
    s2.relevel s.level)

/-- WCK_TRACKING (R446): one pause of one channel, which changes no result. -/
def execWckTracking (ch : Fin 8) (s : State) : Host.Outcome State Fault Refusal :=
  .next (s.live fun s => s.modDdrCh ch.val fun x => { x with tracked := x.tracked + 1 })

/-- DRAM_PATROL (R447): one codeword is read, corrected and written back; an uncorrectable one is left (16 R388). The patrol
runs once the zeroing pass has ended, and pauses at throttle level 3 and above (19 R462). A pass over every bank is one use of each
channel (16 R391). -/
def execDramPatrol (strikes : List Strike) (s : State) : Host.Outcome State Fault Refusal :=
  .next (s.live fun s =>
    if s.flag pgDdr 0x100 8 ∧ ¬ s.ddr.zeroing ∧ s.level < 3 ∧ s.ddr.mapped ≠ 0 then
      let s0 := s.strike strikes
      let cw := dramBase / 16 + s0.ddr.patrol
      let j := eccJudge (s0.xorOf cw)
      let s1 := (s0.bump pgDdr 0x50 none).dramEvent cw none j
      let s2 := match eccDeliver (s0.cwData cw) (s0.xorOf cw) with
        | some d => if s0.xorOf cw = 0 then s1 else (s1.putCw cw d).armRetry cw
        | none => s1
      let next := (s0.ddr.patrol + 1) % ((s0.ddr.mapped + s0.ddr.pool) * 4096)
      let s3 := { s2 with ddr := { s2.ddr with patrol := next } }
      if next = 0 then (List.range 8).foldl (fun t k => t.use 8 0 k 1) s3 else s3
    else s)

/-- ZEROING_PASS_END (R448). -/
def execZeroingPassEnd (s : State) : Host.Outcome State Fault Refusal :=
  .next (s.live fun s => { s with ddr := { s.ddr with zeroing := false, touched := [] } })

/-- A page takes a free page of the reserved pool: what the apply of DDR_REMAP with EN 1 does (18 R449). -/
def State.remapStart (s : State) (page : Nat) : State :=
  if s.ddr.pool ≤ s.ddr.taken ∨ 16384 ≤ s.ddr.remap.length then
    { s with flt := { s.flt with exhausted := true } }.raise pgFlt 12 none
  else
    let s1 := { s with
      ddr := { s.ddr with copying := some (page, s.ddr.mapped + s.ddr.taken), taken := s.ddr.taken + 1 } }.bump pgDdr 0x58 none
    if 8 * (s1.ddr.pool - s1.ddr.taken) < s1.ddr.pool ∨ 16384 ≤ s1.ddr.remap.length + 1 then s1.raise pgDdr 10 none else s1

/-- Copy a page: every codeword corrected, an uncorrectable one as the poisoned codeword of its data bits (18 R450). -/
def State.copyPage (s : State) (page : Nat) : State :=
  (s.ecc.filter fun e => decide ((dramBase + page * 65536) / 16 ≤ e.1 ∧ e.1 < (dramBase + page * 65536) / 16 + 4096)).foldl
    (fun t e =>
      match eccDeliver (s.cwData e.1) e.2 with
      | some d => t.putCw e.1 d
      | none => t.putPoison e.1 (Nat.xor (s.cwData e.1) (e.2 % 2 ^ 128))) s

/-- REMAP_DONE (R450): the copy ends and the entry switches. -/
def execRemapDone (s : State) : Host.Outcome State Fault Refusal :=
  .next (s.liveApply fun s =>
    match s.ddr.copying with
    | none => s
    | some (page, phys) =>
      let s1 := s.copyPage page
      { s1 with ddr := { s1.ddr with copying := none, remap := SMap.insert s1.ddr.remap page phys } }.raise pgDdr 9 none)

/-- DDR_CH_Q (R453). -/
def execDdrChQ (v : View) (x : Word) (s : State) : Host.Outcome State Fault Refusal :=
  .next (s.live fun s =>
    s.commanded v pgDdr (!isVf v) fun s =>
      { s with ddr := { s.ddr with query := SMap.put zeroUnlisted s.ddr.query v.no (x.toNat % 8) } })

end Sys2Proof.Machine
end

