-- ==== Sys2Proof/Machine/SundialOps.lean ====
section
/-!
DEFINITION. Sundial (08): servos, the switch of the followed domain, hooks, the slot grid, the PPS and SYNCE pins.
-/

namespace Sys2Proof.Machine

open Sys2Proof

/-- Offset of SDL_DOM[d]. -/
def domOff (d : Bool) : Nat := if d then 0x160 else 0x120

/-- The servo of a domain. -/
def Sundial.servo (x : Sundial) (d : Bool) : Servo := if d then x.b else x.a

/-- Replace the servo of a domain. -/
def Sundial.setServo (x : Sundial) (d : Bool) (v : Servo) : Sundial := if d then { x with b := v } else { x with a := v }

/-- The difference of two times that wrap at `m`, by serial-number arithmetic (08 R190). -/
def serialDiff (m x y : Int) : Int :=
  let d := (x - y) % m
  if d < m / 2 then d else d - m

/-- The signed difference of two domain clocks. -/
def clkDiff (x y : Nat) : Int := serialDiff clkMod x y

/-- Values of a time in units of 2^−16 ns. -/
def devMod : Nat := 2 ^ 48 * 10 ^ 9 * 2 ^ 16

/-- The signed difference of two device times. -/
def devDiff (x y : Nat) : Int := serialDiff devMod x y

/-- Change a servo's state; a change raises STATE_CHANGE (08 R203). -/
def State.setServoState (s : State) (d : Bool) (st : ServoState) : State :=
  let old := s.sdl.servo d
  let s1 := { s with sdl := s.sdl.setServo d { old with st := st } }
  if old.st = st then s1 else s1.post pgSdl 8 none [bit d, st.code]

/-- Rates weighted by their durations, and the total duration, back from time `e` to time `lo`. -/
def rateSum (lo : Nat) : List (Nat × Int) → Nat → Int × Nat
  | [], _ => (0, 0)
  | (b, r) :: l, e =>
    let from' := max b lo
    let rest := if b ≤ lo then (0, 0) else rateSum lo l b
    (rest.1 + r * ((e - from' : Nat) : Int), rest.2 + (e - from'))

/-- The mean rate of the last 60 s in LOCKED, or of the whole interval if shorter (08 R203). -/
def meanRate (x : Servo) (now : Nat) : Int :=
  let p := rateSum (now - 60 * 10 ^ 9 * nsRef) x.hist now
  if p.2 = 0 then x.rate else p.1 / (p.2 : Int)

/-- Mark late and due a commit whose hook a step of device time passed over (08 R209). -/
def Commit.pass (c : Commit) (lo hi : Nat) : Commit :=
  match c.hookAt with
  | some h => if !c.due && decide (0 < devDiff h lo ∧ devDiff h hi ≤ 0) then { c with due := true, late := true } else c
  | none => c

/-- How many hooks of a channel a step of device time passes over. -/
def passedCount (lo hi : Nat) (fl : List Commit) : Nat :=
  (fl.filter fun c => !c.due && match c.hookAt with | some h => decide (0 < devDiff h lo ∧ devDiff h hi ≤ 0) | none => false).length

/-- Fire at once, marked late, every hook that a step of device time passes over (08 R209). -/
def State.passHooks (s : State) (lo hi : Nat) : State :=
  let n := (s.gate.chans.map fun e => passedCount lo hi e.2.flight).foldl (· + ·) 0
  let s1 := { s with gate := { s.gate with
    chans := s.gate.chans.map fun e => (e.1, { e.2 with flight := e.2.flight.map fun c => c.pass lo hi }) } }
  if n = 0 then s1 else (s1.bumpBy pgSdl 0x58 none n).raise pgSdl 13 none

/-- Begin following domain `d`, or refuse it; while the grid is stopped device time steps to the domain's clock, over the hooks between
(08 R204, R205, R209). -/
def State.switchTo (s : State) (d : Bool) : State :=
  if s.sdl.selAct = d then s
  else if (s.cfg pgSdl 0x104 0 20 : Int) * nsDom < (clkDiff s.sdl.a.clk s.sdl.b.clk).natAbs then
    s.post pgSdl 10 none [bit d]
  else
    let s1 := s.bump pgSdl 0x70 none
    if s.gridEn then
      let ofs := serialDiff (clkMod * 10 ^ 9) s.sdl.devFine (((s.sdl.servo d).clk : Int) * 10 ^ 9)
      let s2 := { s1 with sdl := { s1.sdl with selAct := d, ofs := ofs, switching := decide (ofs ≠ 0) } }
      if ofs = 0 then s2.post pgSdl 9 none [bit d] else s2
    else
      let s2 := { s1 with sdl := { s1.sdl with selAct := d, ofs := 0, switching := false } }
      (s2.passHooks s.sdl.dev s2.sdl.dev).post pgSdl 9 none [bit d]

/-- The automatic switch away from domain `d` once it has entered HOLDOVER or FREERUN (08 R205). -/
def State.autoSwitch (s : State) (d : Bool) : State :=
  if s.flag pgSdl 0x100 2 = true ∧ s.sdl.selAct = d ∧ (s.sdl.servo (!d)).st = .locked then s.switchTo (!d) else s

/-- A LOCKED servo enters HOLDOVER, keeping its mean rate (08 R203). -/
def State.enterHoldover (s : State) (d : Bool) : State :=
  let v := s.sdl.servo d
  if v.st = .locked then
    let v1 := { v with rate := meanRate v s.sdl.ref, good := 0, heldSince := s.sdl.ref, hist := [] }
    (({ s with sdl := s.sdl.setServo d v1 }).setServoState d .holdover).autoSwitch d
  else s

/-- SRC of a domain set to off: FREERUN (08 R203). -/
def State.sourceOff (s : State) (d : Bool) : State :=
  if (s.sdl.servo d).st = .freerun then s
  else
    let s1 := s.setServoState d .freerun
    ({ s1 with sdl := s1.sdl.setServo d { s1.sdl.servo d with good := 0, stepped := false, hist := [] } }).autoSwitch d

/-- A change of SEL is applied, or one that was refused is staged and applied again (08 R205). -/
def State.select (s : State) (d : Bool) : State :=
  let t := s.switchTo d
  { t with sdl := { t.sdl with selRefused := decide (t.sdl.selAct ≠ d) } }

/-- GRID_EN falls: device time steps to the followed clock, over the hooks between (08 R204, R209). -/
def State.gridStop (s : State) : State :=
  let s1 := { s with sdl := { s.sdl with ofs := 0 } }
  s1.passHooks s.sdl.dev s1.sdl.dev

/-- Step a domain clock by an offset in units of 2^−16 ns: while the grid runs device time does not step and the slew
absorbs it; while the grid is stopped device time steps with it, and hooks passed over fire late (08 R203, R204, R209). -/
def State.stepClock (s : State) (d : Bool) (off : Int) : State :=
  let v := s.sdl.servo d
  let v1 := { v with clk := moveClk v.clk (-off * 2 ^ 40), stepped := true }
  let x1 := s.sdl.setServo d v1
  if s.sdl.selAct = d then
    if s.gridEn then { s with sdl := { x1 with ofs := s.sdl.ofs + off * 2 ^ 40 * 10 ^ 9 } }
    else ({ s with sdl := x1 }).passHooks s.sdl.dev x1.dev
  else { s with sdl := x1 }

/-- The loop's answer to an accepted sample: a new rate and a filtered offset, both free values; in HOLDOVER the clock keeps its mean
rate (08 R203, log 20). -/
def State.steer (s : State) (d : Bool) : State :=
  let v := s.sdl.servo d
  let r := if v.st = .holdover then v.rate else clampRate (Config.servoRate s.free)
  { s with sdl := s.sdl.setServo d { v with rate := r, hist := if v.st = .locked then (s.sdl.ref, r) :: v.hist else v.hist } }

/-- Count a sample toward LOCKED: 16 consecutive samples whose filtered offset is within LOCK_NS (08 R203). -/
def State.countGood (s : State) (d : Bool) : State :=
  let v := s.sdl.servo d
  let within := decide ((Config.servoFiltered s.free).natAbs ≤ s.cfg pgSdl (domOff d + 8) 0 20 * nsRef)
  let g := if within then v.good + 1 else 0
  let s1 := ({ s with sdl := s.sdl.setServo d { v with good := g } }).tick
  if 16 ≤ g ∧ (v.st = .acquiring ∨ v.st = .holdover) then
    let v1 := s1.sdl.servo d
    ({ s1 with sdl := s1.sdl.setServo d { v1 with hist := [(s1.sdl.ref, v1.rate)] } }).setServoState d .locked
  else s1

/-- An accepted sample with an offset in units of 2^−16 ns (08 R203). -/
def State.acceptSample (s : State) (d : Bool) (off : Int) : State :=
  let s1 := s.bump pgSdl (if d then 0x48 else 0x40) none
  let v := s1.sdl.servo d
  let s2 := { s1 with sdl := s1.sdl.setServo d { v with lastSample := s1.sdl.ref } }
  let s3 : State := if v.st = .freerun then
      let w := s2.sdl.servo d
      ({ s2 with sdl := s2.sdl.setServo d { w with stepped := false, good := 0 } }).setServoState d .acquiring
    else s2
  let w := s3.sdl.servo d
  let s4 : State := if w.st = .acquiring ∧ s3.flag pgSdl (domOff d) 21 = true ∧ w.stepped = false ∧ 1000 * nsRef < off.natAbs then
      s3.stepClock d off
    else s3.steer d
  s4.countGood d

/-- Set or clear a port's calibration bit; a change raises CAL_CHANGE (08 R197). -/
def State.setCal (s : State) (port : Nat) (on : Bool) : State :=
  if fieldOf s.sdl.cal port 1 = bit on then s
  else ({ s with sdl := { s.sdl with cal := withField s.sdl.cal port 1 (bit on) } }).post pgSdl 14 none [port, bit on]

/-! ### Slot grid -/

/-- Grid time at a device time, in units of 2^−16 / 768 ns: exact (08 R207). -/
def State.gridTime (s : State) (dev : Nat) : Int :=
  ((dev : Int) - 315964819 * 10 ^ 9 * 2 ^ 16 - signedOf 16 (s.cfg pgSdl 0x244 0 16) * (10 ^ 7 * 2 ^ 16)) * 768
    - (s.cfg pgSdl 0x240 0 24 : Int) * 625 * 2 ^ 16

/-- Length of a slot of numerology μ in the same units. -/
def slotLen (mu : Nat) : Int := 10 ^ 6 * 2 ^ 16 * 768 / 2 ^ mu

/-- Slots of numerology μ since the epoch at a device time (08 R207). -/
def State.slotCount (s : State) (mu dev : Nat) : Int := s.gridTime dev / slotLen mu

/-- SFN (08 R207). -/
def sfnOf (slot : Int) (mu : Nat) : Int := slot / (10 * 2 ^ mu) % 1024
/-- frameId. -/
def frameIdOf (slot : Int) (mu : Nat) : Int := sfnOf slot mu % 256
/-- Subframe. -/
def subframeOf (slot : Int) (mu : Nat) : Int := slot / 2 ^ mu % 10
/-- Slot in frame. -/
def slotInFrameOf (slot : Int) (mu : Nat) : Int := slot % (10 * 2 ^ mu)

/-- The first device time, in units of 2^−16 ns, at or after a grid time (08 R207). -/
def State.devAt (s : State) (g : Int) : Int :=
  0 - ((0 - (g + (s.cfg pgSdl 0x240 0 24 : Int) * 625 * 2 ^ 16)) / 768) + 315964819 * 10 ^ 9 * 2 ^ 16
    + signedOf 16 (s.cfg pgSdl 0x244 0 16) * (10 ^ 7 * 2 ^ 16)

/-- The first device time at or after the start of a slot. -/
def State.slotStart (s : State) (mu : Nat) (slot : Int) : Int := s.devAt (slot * slotLen mu)

/-- Device time of the next slot boundary of numerology 0, or the moment itself while the grid is stopped (16 R393). -/
def State.repairBoundary (s : State) : Nat := if s.gridEn then (s.slotStart 0 (s.slotCount 0 s.sdl.dev + 1)).toNat else s.sdl.dev

/-- Start of symbol `l` of a subframe in samples of a 30.72 × 2^μ MHz clock: 144 of cyclic prefix and 2,048 of symbol each, and
16 × 2^μ more in the first symbol of each 0.5 ms (TS 38.211 clause 5.3.1, which R207 cites). -/
def symSamples (mu l : Nat) : Nat :=
  2192 * l + (if 0 < l then 16 * 2 ^ mu else 0) + (if 7 * 2 ^ mu < l then 16 * 2 ^ mu else 0)

/-- Grid time at which symbol `l` of a slot starts; `l` of 14 is the slot's end (R207). -/
def symStart (mu : Nat) (slot : Int) (l : Nat) : Int :=
  slot / 2 ^ mu * slotLen 0 + (symSamples mu (14 * (slot % 2 ^ mu).toNat + l) * (25000 * 65536 / 2 ^ mu) : Nat)

/-- The slot that a frameId, subframe and slot name, of those whose instant `e` after the slot's start lies nearest to a grid
time (R207, 09 R223): names repeat every 256 frames. -/
def resolveSlot (mu frame sub slot : Nat) (e now : Int) : Int :=
  let p : Int := 2560 * 2 ^ mu
  let r : Int := (frame * 10 + sub : Nat) * 2 ^ mu + slot
  r + p * ((2 * (now - e - r * slotLen mu) + p * slotLen mu) / (2 * p * slotLen mu))

/-! ### Meanings -/

/-- REF_FREQ of a measured frequency in Hz, 0 where there is none: 10 MHz and 25 MHz within 1,000 ppm (08 R192). -/
def refCode (hz : Nat) : Nat :=
  if hz = 0 then 0
  else if 9990000 ≤ hz ∧ hz ≤ 10010000 then 1
  else if 24975000 ≤ hz ∧ hz ≤ 25025000 then 2
  else 3

/-- Whether a measured frequency is usable. -/
def refUsable (hz : Nat) : Bool := decide (refCode hz = 1 ∨ refCode hz = 2)

/-- Whether the start-up has reached its Sundial-lock step, so that the handover may take place (08 R192, 19 R467). -/
def State.mayHandOver (s : State) : Bool := decide (s.pwr.step = 0 ∨ 8 ≤ s.pwr.step)

/-- A measurement of REFCLK_IN, in Hz: REF_FREQ reports it, a usable one ends a hold, and `hand` makes the handover, once (08 R192,
R206). -/
def State.measureRef (s : State) (hz : Nat) (hand : Bool) : State :=
  { s with sdl := { s.sdl with
    refFreq := refCode hz
    freeOsc := s.sdl.freeOsc && !(hand && refUsable hz)
    refHeld := s.sdl.refHeld && !refUsable hz } }

/-- REFCLK_HANDOVER (R192): the free-running reference keeps its value and changes its source, in the Sundial-lock step or once a usable
REFCLK_IN appears after it. -/
def execRefclkHandover (hz t : Nat) (s : State) : Host.Outcome State Fault Refusal :=
  .next (s.liveApply fun s => (s.advance t).measureRef hz s.mayHandOver)

/-- REF_LOST (R206): the PLL holds its last control word; before the handover there is none to hold. -/
def execRefLost (t : Nat) (s : State) : Host.Outcome State Fault Refusal :=
  .next (s.live fun s =>
    let s1 := s.advance t
    if s1.sdl.freeOsc then { s1 with sdl := { s1.sdl with refFreq := 0 } }
    else ({ s1 with sdl := { s1.sdl with refFreq := 0, refHeld := true } }).post pgSdl 12 none [])

/-- REF_RETURN (R206): a usable REFCLK_IN ends the hold, without a phase step. -/
def execRefReturn (hz t : Nat) (s : State) : Host.Outcome State Fault Refusal :=
  .next (s.live fun s => (s.advance t).measureRef hz false)

/-- SAMPLE_IN (R201): the write of OFS_HI delivers the sample that the two words before it began. -/
def execSampleIn (v : View) (x : Word) (uncal : Bool) (t : Nat) (s : State) : Host.Outcome State Fault Refusal :=
  .next (s.live fun s =>
    let s1 := s.advance t
    if v ≠ .gk then s1.dropped v pgSdl
    else
      let d := decide (fieldOf s1.sdl.sample0.toNat 0 1 = 1)
      let age := fieldOf s1.sdl.sample0.toNat 1 31
      if uncal = true ∨ s1.cfg pgSdl (domOff d) 0 2 ≠ 1 ∨ 2000000 < age then s1.bump pgSdl 0x50 none
      else s1.acceptSample d (signedOf 64 (s1.sdl.sample1.toNat + 2 ^ 32 * x.toNat)))

/-- SERVO_SAMPLE_TIMEOUT (R203): no accepted sample for 1 s. -/
def execServoSampleTimeout (dom : Bool) (t : Nat) (s : State) : Host.Outcome State Fault Refusal :=
  .next (s.live fun s =>
    let s1 := s.advance t
    if s1.reached ((s1.sdl.servo dom).lastSample + 10 ^ 9 * nsRef) = true then s1.enterHoldover dom else s1)

/-- PARENT_LOST (R203). -/
def execParentLost (dom : Bool) (t : Nat) (s : State) : Host.Outcome State Fault Refusal :=
  .next (s.live fun s => (s.advance t).enterHoldover dom)

/-- HOLD_EXPIRED (R203): HOLD_MAX_S seconds in HOLDOVER. -/
def execHoldExpired (dom : Bool) (t : Nat) (s : State) : Host.Outcome State Fault Refusal :=
  .next (s.live fun s =>
    let s1 := s.advance t
    let v := s1.sdl.servo dom
    if v.st = .holdover ∧ s1.reached (v.heldSince + s1.cfg pgSdl 0x100 13 16 * (10 ^ 9 * nsRef)) = true then
      ((s1.setServoState dom .freerun).post pgSdl 11 none [bit dom]).autoSwitch dom
    else s1)

/-- SWITCH_DONE (R205): the offset has reached zero. -/
def execSwitchDone (t : Nat) (s : State) : Host.Outcome State Fault Refusal :=
  .next (s.live fun s =>
    let s1 := s.advance t
    if s1.sdl.switching = true ∧ s1.sdl.ofs = 0 then
      ({ s1 with sdl := { s1.sdl with switching := false } }).post pgSdl 9 none [bit s1.sdl.selAct]
    else s1)

/-- CALIBRATION_DONE (R197). -/
def execCalibrationDone (port : Fin 16) (s : State) : Host.Outcome State Fault Refusal :=
  .next (s.live fun s => s.setCal port.val true)

/-- The symbol of a slot that has begun at a device time. -/
def State.symAt (s : State) (mu : Nat) (slot : Int) (dev : Nat) : Nat :=
  ((List.range 14).filter fun l => decide (s.devAt (symStart mu slot l) ≤ dev)).length - 1

/-- A symbol boundary is signalled, and with it the slot, subframe and frame boundaries that fall on it (08 R207). -/
def Sundial.signal (x : Sundial) (mu : Nat) (slot : Int) (l : Nat) : Sundial :=
  { x with
    sym := SMap.put zeroUnlisted x.sym mu (14 * slot.toNat + l + 1)
    slot := if l = 0 then SMap.put zeroUnlisted x.slot mu (slot.toNat + 1) else x.slot
    subframe := if l = 0 ∧ slot % 2 ^ mu = 0 then (slot / 2 ^ mu).toNat + 1 else x.subframe
    frame := if l = 0 ∧ slot % (10 * 2 ^ mu) = 0 then (slot / (10 * 2 ^ mu)).toNat + 1 else x.frame }

/-- GRID_BOUNDARY (R207, R208): a boundary is signalled at the first value of device time at or after it, of which a fast clock may pass
over one; the first signalled are those of the first slot that begins after the apply of GRID_EN. -/
def execGridBoundary (mu : Fin 4) (t : Nat) (s : State) : Host.Outcome State Fault Refusal :=
  .next (s.live fun s =>
    let s1 := s.advance t
    let n := s1.slotCount mu.val s1.sdl.dev
    let l := s1.symAt mu.val n s1.sdl.dev
    if s1.gridEn = true ∧ s1.slotCount mu.val s1.sdl.gridFrom < n ∧ (s1.sdl.dev : Int) ≤ s1.devAt (symStart mu.val n l) + 1 then
      { s1 with sdl := s1.sdl.signal mu.val n l }
    else s1)

/-- Whether a phase of a second, in reference units, lies within 1 ns of the whole second (R210). -/
def ppsNear (ph : Int) : Bool := decide (ph ≤ nsRef ∨ 10 ^ 9 * nsRef - nsRef ≤ ph)

/-- Whether a phase of a second lies between 0.1 s and 0.9 s (R211). -/
def ppsFar (ph : Int) : Bool := decide (10 ^ 8 * (nsRef : Int) < ph ∧ ph < 9 * 10 ^ 8 * (nsRef : Int))

/-- Drive PPS_OUT active or inactive. -/
def State.ppsDrive (s : State) (on : Bool) : State :=
  ({ s with sdl := { s.sdl with ppsOut := on } }).emit (Sent.pin .ppsOut (on != s.flag pgSdl 0x250 1))

/-- The pulse on PPS_OUT ends WIDTH_MS after its active edge (R210). -/
def State.ppsFall (s : State) : State :=
  if s.sdl.ppsOut = true ∧ 0 ≤ devDiff s.sdl.dev s.sdl.ppsEnd then s.ppsDrive false else s

/-- A commit of SDL_PPS_OUT: while EN is 0 the pin is held inactive (R210). -/
def State.applyPps (s : State) : State :=
  if s.flag pgSdl 0x250 0 then s.ppsDrive s.sdl.ppsOut else s.ppsDrive false

/-- PPS_OUT_EDGE (R210): the active edge within 1 ns of a whole second of device time plus OFS_NS; and the inactive edge that ends the
pulse. -/
def execPpsOutEdge (t : Nat) (s : State) : Host.Outcome State Fault Refusal :=
  .next (s.live fun s =>
    let s1 := (s.advance t).ppsFall
    let ph := ((s1.sdl.dev : Int) - signedOf 20 (s1.cfg pgSdl 0x250 2 20) * nsRef) % (10 ^ 9 * nsRef : Int)
    if s1.flag pgSdl 0x250 0 = true ∧ ppsNear ph = true then
      ({ s1 with sdl := { s1.sdl with
        ppsEnd := (s1.sdl.dev + s1.cfg pgSdl 0x250 22 10 * (10 ^ 6 * nsRef)) % devMod } }).ppsDrive true
    else s1)

/-- One domain's use of a PPS_IN edge (R211). -/
def State.ppsSample (s : State) (d : Bool) : State :=
  if s.cfg pgSdl (domOff d) 0 2 ≠ 2 then s
  else
    let v := s.sdl.servo d
    let sec := match v.tod with
      | some n => n
      | none => s.cfg pgSdl (domOff d + 0x20) 0 32 + 2 ^ 32 * s.cfg pgSdl (domOff d + 0x24) 0 16
    let delay := signedOf 20 (s.cfg pgSdl (domOff d + 0x28) 0 20) * nsRef
    let s1 := { s with sdl := s.sdl.setServo d { v with tod := some ((sec + 1) % 2 ^ 48) } }
    let off := (domTime v.clk : Int) - (sec * 10 ^ 9 * nsRef : Nat) - delay
    let ph := ((domTime v.clk : Int) - delay) % (10 ^ 9 * nsRef : Int)
    if v.st = .locked ∧ ppsFar ph = true then s1.bump pgSdl 0x50 none
    else s1.acceptSample d off

/-- PPS_IN_EDGE (R211): stamped on device time and on both domain clocks, counted and posted. -/
def execPpsInEdge (t : Nat) (s : State) : Host.Outcome State Fault Refusal :=
  .next (s.live fun s =>
    let s1 := s.advance t
    let s2 := { s1 with sdl := { s1.sdl with
      ppsDev := s1.sdl.dev, ppsA := domTime s1.sdl.a.clk, ppsB := domTime s1.sdl.b.clk } }
    let s3 := (s2.bump pgSdl 0x68 none).record pgSdl 33 [s2.sdl.ppsDev, s2.sdl.ppsA, s2.sdl.ppsB]
    (s3.ppsSample false).ppsSample true)

/-- What SYNCE_OUT `k` carries: low while EN is 0 or the output is squelched, else the recovered clock of its lane (R202). -/
def State.synceDrive (s : State) (k : Nat) : State :=
  let off := 0x260 + 4 * k
  let lane := s.cfg pgSdl off 0 5
  let en := s.flag pgSdl off 6
  let sq := en && s.flag pgSdl off 7 && decide (fieldOf s.sdl.unlocked lane 1 = 1)
  let s1 := { s with sdl := if k = 0 then { s.sdl with squelch0 := sq } else { s.sdl with squelch1 := sq } }
  s1.emit (if en = true ∧ sq = false then Sent.synce k lane (s.flag pgSdl off 5) else Sent.pin (.synce k) false)

/-- A SerDes lane gains or loses lock: the outputs that carry it follow (R202). -/
def State.laneLock (s : State) (lane : Nat) (lock : Bool) : State :=
  let s1 := { s with sdl := { s.sdl with unlocked := withField s.sdl.unlocked lane 1 (bit (!lock)) } }
  ([0, 1] : List Nat).foldl
    (fun t k => if t.flag pgSdl (0x260 + 4 * k) 6 = true ∧ t.cfg pgSdl (0x260 + 4 * k) 0 5 = lane then t.synceDrive k else t) s1

/-- SYNCE_LOCK_LOSS (R202): an output that carries the lane is held low while SQUELCH_EN is 1. -/
def execSynceLockLoss (lane : Fin 18) (s : State) : Host.Outcome State Fault Refusal :=
  .next (s.live fun s => s.laneLock lane.val false)

end Sys2Proof.Machine
end

