-- ==== Sys2Proof/Machine/Augment.lean ====
section
/-!
DEFINITION. The rotator (09 R224), Philox (12 R312), and the sample augmenter and generator ports of the Plot Irrigators (12 R309 to
R312); with the fields of a Plan's header that they need (11 R274).
-/

namespace Sys2Proof.Machine

open Sys2Proof

/-! ### Plans (11 R274) -/

/-- `n` bytes at offset `o` of a Plan, as a little-endian number. -/
def planNat (b : List (BitVec 8)) (o n : Nat) : Nat := leNat ((b.drop o).take n)

/-- A field of a Plan's header. -/
def planHdr (b : List (BitVec 8)) (lo w : Nat) : Nat := fieldOf (planNat b 0 64) lo w

/-- Plots of a Plan, ascending. -/
def planPlots (b : List (BitVec 8)) : List Nat := (List.range 8).filter fun n => decide (planHdr b (48 + n) 1 = 1)

/-- A bit of a context in a pair of words of the RMS page. -/
def State.ctxFlag (s : State) (off c : Nat) : Bool := s.flag pgRms (off + 4 * (c / 32)) (c % 32)

/-! ### The rotator (09 R224) -/

/-- One cycle in units of 2^−32 cycle as an angle in units of 2^−128 radian, for `x` such units: π to 50 decimal places. -/
def radians (x : Int) : Int := x * 2 ^ 97 * 314159265358979323846264338327950288419716939937510 / 10 ^ 50

/-- The series Σ (−1)^n a^(2n + o) / (2n + o)! of an angle `a` in units of 2^−128, 20 terms: cosine for `o` = 0, sine for `o` = 1, in
units of 2^−128. -/
def trigSeries (o : Nat) (a : Int) : Int :=
  ((List.range 20).foldl
    (fun (acc : Int × Int) n =>
      (acc.1 + acc.2, 0 - acc.2 * a / 2 ^ 128 * a / 2 ^ 128 / (((2 * n + 1 + o) * (2 * n + 2 + o) : Nat) : Int)))
    (0, if o = 0 then 2 ^ 128 else a)).1

/-- Cosine and sine of an angle in units of 2^−32 cycle, in units of 2^−64, to better than 2^−30. -/
def cosSin (th : Nat) : Int × Int :=
  let a := radians (signedOf 32 (th % 2 ^ 32))
  (trigSeries 0 a / 2 ^ 64, trigSeries 1 a / 2 ^ 64)

/-- The rotator's coefficients for an angle, in units of 2^−64: free within 2^−17 of the cosine and sine (R224, log 70). -/
def rotCoef (th : Nat) : Int × Int :=
  let z := cosSin th
  let f := Config.rotator th
  (satTo (z.1 - 2 ^ 47) (z.1 + 2 ^ 47) f.1, satTo (z.2 - 2 ^ 47) (z.2 + 2 ^ 47) f.2)

/-- A sample of Q1.15 parts rotated by an angle: the product rounded once, saturated (R51, R52). -/
def rotate (th : Nat) (re im : Int) : Int × Int :=
  let c := rotCoef th
  ((satInt 16 (rneDiv (re * c.1 - im * c.2) (2 ^ 64))).1, (satInt 16 (rneDiv (re * c.2 + im * c.1) (2 ^ 64))).1)

/-- Denominator of phases: units in one cycle. -/
def cyc : Int := 100 * 10 ^ 9 * 2 ^ 16 * 768

/-- k × Δf × τ of subcarrier offset `k` at numerology `mu`, τ in 1/16 ns, in units of 1 / `cyc` cycle. -/
def delayTurn (mu : Nat) (k tau : Int) : Int := k * 15000 * 2 ^ mu * tau * (2 ^ 16 * 768 * 100 / 16)

/-- An angle in units of 1 / `cyc` cycle to 2^−32 cycle, by RNE. -/
def angle32 (num : Int) : Nat := unsignedOf 32 (rneDiv (num * 2 ^ 32) cyc.toNat)

/-- A Lane of complex INT16. -/
def lane16 (re im : Int) : Nat := unsignedOf 16 re + 2 ^ 16 * unsignedOf 16 im

/-! ### Philox4x32-10 (12 R312) -/

/-- One round of Philox4x32 on the counter words (PRESUMED, log 222). -/
def philoxRound (k0 k1 : Nat) (c : Nat × Nat × Nat × Nat) : Nat × Nat × Nat × Nat :=
  let p := 0xD2511F53 * c.1
  let q := 0xCD9E8D57 * c.2.2.1
  (Nat.xor (Nat.xor (q / 2 ^ 32) c.2.1) k0, q % 2 ^ 32, Nat.xor (Nat.xor (p / 2 ^ 32) c.2.2.2) k1, p % 2 ^ 32)

/-- The four output words of Philox4x32-10, by a key of 64 bits and the counter words. -/
def philox (key c0 c1 c2 c3 : Nat) : List Nat :=
  let r := (List.range 10).foldl
    (fun c (i : Nat) => philoxRound ((key + i * 0x9E3779B9) % 2 ^ 32) ((key / 2 ^ 32 + i * 0xBB67AE85) % 2 ^ 32) c)
    (c0 % 2 ^ 32, c1 % 2 ^ 32, c2 % 2 ^ 32, c3 % 2 ^ 32)
  [r.1, r.2.1, r.2.2.1, r.2.2.2]

/-! ### The training descriptor and its samples (12 R308, R309) -/

/-- The step of a context that is dispatched and has not ended. -/
def State.ghStep (s : State) (c : Nat) : Option StepSt := (s.ctx c).steps.find? fun y => y.dispatched && !y.ended

/-- A field of a training descriptor's header. -/
def ghHdr (body : List (BitVec 8)) (lo w : Nat) : Nat := fieldOf (leNat (body.take 64)) lo w

/-- Sample record `i` of a training descriptor. -/
def sampleRec (body : List (BitVec 8)) (i : Nat) : Nat := leNat ((body.drop (64 + 32 * i)).take 32)

/-- Whether a sample of a step is skipped: a held-out one of a TRAIN step (R309). -/
def sampleSkipped (body : List (BitVec 8)) (i : Nat) : Bool :=
  decide (ghHdr body 0 2 = 0 ∧ fieldOf (sampleRec body i) 56 1 = 1)

/-- How many samples of a descriptor are skipped. -/
def samplesHeld (body : List (BitVec 8)) : Nat :=
  ((List.range (ghHdr body 8 12 + 1)).filter fun i => sampleSkipped body i).length

/-- Bytes of a unit of a tile (09 R229). -/
def unitBytes : Nat := 1088
/-- SRC of a sample. -/
def smpSrc (r : Nat) : Nat := fieldOf r 0 48
/-- LROWS of a sample. -/
def smpRows (r : Nat) : Nat := fieldOf r 48 8

/-- Samples delivered on the port of the Plot with rank `k` among `p` Plots, ascending. -/
def samplesOf (body : List (BitVec 8)) (p k : Nat) : List Nat :=
  (List.range (ghHdr body 8 12 + 1)).filter fun i => decide (i % p = k) && !sampleSkipped body i

/-- The sample and the offset within its tile at byte `pos` of a port's stream; none past the last. -/
def sampleAt (body : List (BitVec 8)) : List Nat → Nat → Option (Nat × Nat)
  | [], _ => none
  | i :: l, pos =>
    let n := (smpRows (sampleRec body i) + 1) * unitBytes
    if pos < n then some (i, pos) else sampleAt body l (pos - n)

/-! ### Augmentation (12 R310, R311) -/

/-- The allocation records of a trailer (09 R229). -/
def trailerRecs (trailer : Nat) : List Nat :=
  ((List.range 136).map fun j => fieldOf trailer (64 * j) 64).filter fun r => decide (fieldOf r 63 1 = 1)

/-- PRBs and streams of a record. -/
def recPrbs (r : Nat) : Nat := fieldOf r 34 9
/-- Streams of a record. -/
def recStreams (r : Nat) : Nat := fieldOf r 43 5 + 1
/-- Lane groups of one stream of a record (09 R228). -/
def recGroups (r : Nat) : Nat := (12 * recPrbs r + 15) / 16
/-- The tile's Lane group that a record's first group is. -/
def recFirst (r : Nat) : Nat := 16 * fieldOf r 48 8 + fieldOf r 56 4

/-- What a Lane of a tile carries by the trailer's records: stream, subcarrier, and its RE index in tile order over the Lanes that are
not pads; none for a pad (R310, R312). -/
def reAt : List Nat → Nat → Nat → Option (Nat × Nat × Nat)
  | [], _, _ => none
  | r :: l, n, lane =>
    let g := lane / 16
    if recFirst r ≤ g ∧ g < recFirst r + recGroups r * recStreams r then
      let st := (g - recFirst r) / recGroups r
      let j := 16 * ((g - recFirst r) % recGroups r) + lane % 16
      if j < 12 * recPrbs r then some (st, 12 * fieldOf r 24 10 + j, n + 12 * recPrbs r * st + j) else none
    else reAt l (n + 12 * recPrbs r * recStreams r) lane

/-- Whether a sample's augmentation erases an RE of a stream at a subcarrier. -/
def erasesAt (rec' st k : Nat) : Bool :=
  decide (fieldOf rec' (154 + st) 1 = 1 ∧ st < 32 ∧ fieldOf rec' 136 9 ≤ k / 12 ∧ k / 12 < fieldOf rec' 136 9 + fieldOf rec' 145 9)

/-- Start of the captured symbol within its slot; which slot of its subframe it was is a free value (log 223). -/
def smpStart (rec' : Nat) : Int :=
  let mu := fieldOf rec' 57 2
  let k : Int := (Config.sampleSlot rec' % 2 ^ mu : Nat)
  symStart mu k (fieldOf rec' 59 4) - symStart mu k 0

/-- θ of an RE (R311), in units of 2^−32 cycle; N_PRB of the capture is a free value (log 223). -/
def smpAngle (rec' k : Nat) : Nat :=
  angle32 ((fieldOf rec' 64 16 : Int) * (cyc / 2 ^ 16)
    + delayTurn (fieldOf rec' 57 2) ((k : Int) - 6 * (Config.samplePrbs rec' : Int)) (signedOf 16 (fieldOf rec' 80 16))
    + signedOf 24 (fieldOf rec' 96 24) * smpStart rec')

/-- One part of an augmented RE: sat(RNE(r + SIGMA × 1.7320508 × n′ × 2^−32)), formed exactly and rounded once. -/
def smpPart (rec' seed step i re part : Nat) (x : Int) : Int :=
  let n : Int := (((philox seed (2 * re + part) i step 1).sum : Nat) : Int) - 2 ^ 33
  let y := numAdd (.fin x 0) (numMul (numMul (floatNum 6 (fieldOf rec' 120 16)) (fpNum 0x3FDDB3D7)) (.fin n (-32)))
  signedOf 16 (convert 2 0 y).1

/-- An augmented Lane and whether the augmentation erases it: of sample `i`, Lane `lane` of the tile, from its word and ERASE bit. -/
def smpLane (body : List (BitVec 8)) (i : Nat) (recs : List Nat) (lane word : Nat) (erased : Bool) : Nat × Bool :=
  let rec' := sampleRec body i
  match reAt recs 0 lane with
  | none => (word, false)
  | some (st, k, re) =>
    if erased then (word, false)
    else if erasesAt rec' st k then (0, true)
    else
      let z := rotate (smpAngle rec' k) (signedOf 16 (word % 2 ^ 16)) (signedOf 16 (word / 2 ^ 16 % 2 ^ 16))
      let part (p : Nat) (x : Int) : Int := smpPart rec' (ghHdr body 64 64) (ghHdr body 32 32) i re p x
      (lane16 (part 0 z.1) (part 1 z.2), false)

/-- An augmented unit: marked Lane row `row` of sample `i`, ERASE set where the augmentation erases. -/
def smpUnit (body : List (BitVec 8)) (i : Nat) (recs : List Nat) (row u : Nat) : Nat :=
  let mark := u / 2 ^ 8192
  let l := (List.range 256).map fun j => smpLane body i recs (256 * row + j) (fieldOf u (32 * j) 32) (markErase mark j)
  laneRow 3 (l.map (·.1)) % 2 ^ 8192
    + 2 ^ 8192 * Nat.lor mark ((List.range 256).map fun j => bit (l.getD j (0, false)).2 * 2 ^ j).sum

/-- The trailer delivered: PARTIAL set in every allocation of which the augmentation erases an RE. -/
def smpTrailer (rec' u : Nat) : Nat :=
  (List.range 136).foldl
    (fun t j =>
      let r := fieldOf u (64 * j) 64
      if fieldOf r 63 1 = 1 ∧ ((List.range (recStreams r)).any fun st =>
          (List.range (recPrbs r)).any fun p => erasesAt rec' st (12 * (fieldOf r 24 10 + p))) then
        withField t (64 * j + 61) 1 1
      else t) u

/-- Unit `q` of the tile that the augmenter delivers for sample `i`, from the capture in DRAM; none where it cannot be read. -/
def State.smpOut (s : State) (c : Nat) (body : List (BitVec 8)) (i q : Nat) : Option Nat :=
  let r := sampleRec body i
  let unit (k : Nat) : Option Nat := (s.dramRead (some c) (smpSrc r + unitBytes * k) unitBytes).1.map leNat
  match unit (smpRows r), unit q with
  | some t, some u => some (if q = smpRows r then smpTrailer r u else smpUnit body i (trailerRecs t) q u)
  | _, _ => none

/-- Read of a Plot's augmenter port: `len` bytes at byte `pos` of its stream. It waits where the step has no more samples; a sample
outside the partition's DRAM regions faults the context with cause 0x03 (R310). -/
def State.augment (s : State) (c n pos len : Nat) : Option (List (BitVec 8)) × State :=
  match s.ghStep c with
  | none => (none, s)
  | some y =>
    let plots := planPlots y.plan
    match sampleAt y.body (samplesOf y.body plots.length (plots.findIdx fun p => decide (p = n))) pos with
    | none => (none, s)
    | some (i, o) =>
      let r := sampleRec y.body i
      let total := (smpRows r + 1) * unitBytes
      if s.dramOk (some c) (smpSrc r) total then
        let d := s.dramRead (some c) (smpSrc r + o) (min len (total - o))
        let us := (List.range ((len + unitBytes - 1) / unitBytes + 1)).map fun k => s.smpOut c y.body i (o / unitBytes + k)
        let tile := us.flatMap fun u => natLe unitBytes (u.getD 0)
        let here := (tile.drop (o % unitBytes)).take (min len (total - o))
        if d.1 = none then (none, d.2)
        else if len ≤ total - o then (some here, d.2)
        else
          match sampleAt y.body (samplesOf y.body plots.length (plots.findIdx fun p => decide (p = n))) (pos + (total - o)) with
          | none => (none, d.2)
          | some (i2, _) =>
            let r2 := sampleRec y.body i2
            let rest := len - (total - o)
            if d.2.dramOk (some c) (smpSrc r2) ((smpRows r2 + 1) * unitBytes) then
              let e := d.2.dramRead (some c) (smpSrc r2) rest
              (e.1.map fun _ => here ++ ((natLe unitBytes ((d.2.smpOut c y.body i2 0).getD 0)).take rest), e.2)
            else (none, d.2.faultCtx c 0x03)
      else (none, s.faultCtx c 0x03)

/-- Read of a Plot's generator port: 128-bit words of Philox by their index in the Furrow's visiting order (R312). -/
def State.generate (s : State) (c n f pos len : Nat) : Option (List (BitVec 8)) :=
  (s.ghStep c).map fun y =>
    let words := (List.range ((pos + len + 15) / 16 - pos / 16)).flatMap fun j =>
      (philox (ghHdr y.body 64 64) (pos / 16 + j) (ghHdr y.body 32 32) (32 * n + f) 0).flatMap fun w => natLe 4 w
    (words.drop (pos % 16)).take len

/-- What a stream port delivers at byte `pos` of a Furrow's stream: the augmenter's and the generators' words, or what arrived. -/
def State.portRead (s : State) (c f port pos len : Nat) (arrived : Option (List (BitVec 8))) : Option (List (BitVec 8)) × State :=
  if s.ctxFlag 0x608 c ∧ 0x600 ≤ port ∧ port < 0x608 then s.augment c (port - 0x600) pos len
  else if s.ctxFlag 0x608 c ∧ 0x610 ≤ port ∧ port < 0x618 then (s.generate c (port - 0x610) f pos len, s)
  else (arrived, s)

end Sys2Proof.Machine
end

