-- ==== Sys2Proof/Machine/HostOps.lean ====
section
/-!
DEFINITION. Host attachment (17): windows and translation, harvest records and rings, the copy channels, the fetch of
descriptor bytes, the shed ring.
-/

namespace Sys2Proof.Machine

open Sys2Proof

/-! ### Functions and windows (17 R415, R416) -/

/-- Bottom of the host windows in Trellis space (01 R29). -/
def hostBase : Nat := 0x8000000000

/-- The function page of a function. -/
def pgFn (f : Nat) : Page := ⟨.hstFn, f⟩

/-- The function of a partition: its VF, or the PF (15 R356). -/
def partFn (m : SMap Word) (p : Nat) : Nat := partVf m p

/-- The function of a context. -/
def State.fnOf (s : State) (c : Nat) : Nat := partFn s.gate.act (s.partOf c)

/-- The view of a function. -/
def fnView (f : Nat) : View := if h : 1 ≤ f ∧ f ≤ 8 then .vf ⟨f - 1, by omega⟩ else .pf

/-- What a function keeps. -/
def State.fn (s : State) (f : Nat) : CopySt := SMap.get fnUnlisted s.irg.fn f

/-- Change what a function keeps. -/
def State.modFn (s : State) (f : Nat) (g : CopySt → CopySt) : State :=
  { s with irg := { s.irg with fn := SMap.modify fnUnlisted s.irg.fn f g } }

/-- Bus address, and whether the window is translated by ATS, of an access of `len` bytes in function `f`'s range; none where
it is unmapped (17 R415). -/
def hostXlat (m : SMap Word) (f addr len : Nat) : Option (Nat × Bool) :=
  let off := addr - hostBase
  let w := off % 2 ^ 40 / 2 ^ 34
  let o := off % 2 ^ 34
  let b := 0x200 + 0x10 * w
  if hostBase ≤ addr ∧ off / 2 ^ 40 = f ∧ f ≤ 8 ∧ cfg m (pgFn f) b 0 1 = 1 ∧
      o + len ≤ cfg m (pgFn f) (b + 8) 0 23 * 4096 then
    some (cfg m (pgFn f) b 12 20 * 4096 + cfg m (pgFn f) (b + 4) 0 32 * 2 ^ 32 + o, cfg m (pgFn f) b 1 1 = 1)
  else none

/-- Write bytes to host memory for a context, in a window translated by ATS at the page that the translation gave; an unmapped address
faults it (17 R415). After an FLR trigger the device makes no request for the function (15 R381). -/
def State.hostWriteAt (s : State) (c addr : Nat) (xlat : Option Nat) (bytes : List (BitVec 8)) : State :=
  if (SMap.get partUnlisted s.sec.parts (s.partOf c)).discard then s
  else
    match hostXlat s.gate.act (s.fnOf c) addr bytes.length with
    | some (bus, _) => s.emit (Sent.hostWrite (s.fnOf c) (match xlat with | some g => g * 4096 + bus % 4096 | none => bus) bytes)
    | none => s.faultCtx c 0x03

/-- Write bytes to host memory for a context at the address itself. -/
def State.hostWrite (s : State) (c addr : Nat) (bytes : List (BitVec 8)) : State := s.hostWriteAt c addr none bytes

/-! ### Harvest records and rings (17 R425 to R431) -/

/-- A field of HST_CTX[c] (17 R435). -/
def hstCtx (m : SMap Word) (c word lo w : Nat) : Nat := cfg m pgHst (0x200 + 0x14 * c + 4 * word) lo w

/-- HARV_ADDR of a context. -/
def harvAddr (m : SMap Word) (c : Nat) : Nat := hstCtx m c 2 0 32 * 4096 + hstCtx m c 3 0 4 * 2 ^ 44
/-- R: record slots of a context's harvest ring. -/
def harvRecs (m : SMap Word) (c : Nat) : Nat := hstCtx m c 3 4 16 + 1
/-- DESC_ADDR of a context. -/
def descAddr (m : SMap Word) (c : Nat) : Nat := hstCtx m c 0 0 32 * 4096 + hstCtx m c 1 0 4 * 2 ^ 44
/-- Slots of a context's descriptor region. -/
def descSlots (m : SMap Word) (c : Nat) : Nat := hstCtx m c 1 4 12 + 1
/-- LEAD_US of a context. -/
def leadUs (m : SMap Word) (c : Nat) : Nat := hstCtx m c 1 16 10
/-- Bytes of a descriptor slot. -/
def slotBytes (m : SMap Word) (c : Nat) : Nat := (hstCtx m c 1 26 6 + 1) * 1024

/-- The common fields of a harvest record (17 R427). -/
def recCommon (rtype status c part n planId flags : Nat) : Nat :=
  rtype % 16 + 2 ^ 4 * (status % 16) + 2 ^ 8 * c + 2 ^ 14 * part + 2 ^ 64 * (n % 2 ^ 32) + 2 ^ 96 * (planId % 2 ^ 16)
    + 2 ^ 112 * (flags % 2 ^ 16)

/-- A record leaves for the context's ring; at most 64 wait, and one beyond is dropped (17 R425). A record of a partition
whose disable sequence an FLR began is discarded (15 R381). -/
def State.pushHarvest (s : State) (c x : Nat) : State :=
  let part := some (s.partOf c)
  if (SMap.get partUnlisted s.sec.parts (s.partOf c)).discard then s.bump pgSec 0x58 part
  else if 64 ≤ (s.ctx c).harvWait.length then (s.bump pgHst 0x60 part).raise pgHst 8 part
  else s.modCtx c fun y => { y with harvWait := y.harvWait ++ [x] }

/-- Whether the ring has room by the cached CONS (17 R425). -/
def State.harvRoom (s : State) (c : Nat) : Bool :=
  decide (((s.ctx c).prod + 2 ^ 32 - (s.ctx c).cons) % 2 ^ 32 < harvRecs s.gate.act c)

/-- Count a harvested transport block toward a promotion's probation, and roll back when the failures exceed the bound
(12 R319). -/
def State.probe (s : State) (c x : Nat) : State :=
  let y := s.ctx c
  if fieldOf x 0 4 = 0 ∧ y.probation ≠ 0 then
    let fails := y.probFails + (1 - fieldOf x 192 1)
    let blocks := y.probBlocks + 1
    let s1 := s.modCtx c fun z => { z with probBlocks := blocks, probFails := fails }
    if s.flag pgRms 0x620 26 ∧ 1000 ≤ blocks ∧ s.cfg pgRms 0x620 16 10 * blocks < 1000 * fails then
      ((s1.modCtx c fun z => { z with probation := 0, pass := false, rollback := true }).raise pgRms 14
        (some (s.partOf c))).bump pgRms 0xA8 (some (s.partOf c))
    else s1
  else s

/-- One waiting record is written: its body first, then its sequence word in one write; and with SLOT_IRQ the vector after a
STEP or FAULT record (17 R425, R426, R431). -/
def State.writeHarvest (s : State) (c : Nat) : State :=
  match (s.ctx c).harvWait with
  | [] => s
  | x :: rest =>
    if s.harvRoom c then
      let part := some (s.partOf c)
      let k := ((s.ctx c).prod + 1) % 2 ^ 32
      let a := harvAddr s.gate.act c + 64 + 64 * ((k + 2 ^ 32 - 1) % 2 ^ 32 % harvRecs s.gate.act c)
      let s1 := (s.hostWrite c a (natLe 56 (x % 2 ^ 448))).hostWrite c (a + 56) (natLe 8 (k + 2 ^ 32 * (2 ^ 32 - 1 - k)))
      let s2 := (s1.modCtx c fun y => { y with harvWait := rest, prod := k }).bump pgHst 0x58 part
      let s3 := s2.probe c x
      if hstCtx s.gate.act c 3 31 1 = 1 ∧ fieldOf x 0 4 ≠ 0 then
        { s3 with hub := s3.hub.sendVector (s.fnOf c) (hstCtx s.gate.act c 3 20 11) (fnView (s.fnOf c)) }
      else s3
    else s.emit (Sent.hostRead (s.fnOf c) (harvAddr s.gate.act c) 4)

/-- HARVEST_WRITE (R425): with no room by the cached CONS, CONS is read instead. -/
def execHarvestWrite (c : Ctx) (s : State) : Host.Outcome State Fault Refusal := .next (s.live fun s => s.writeHarvest c.val)

/-- CONS_POLL (R425): the CONS that a read returned, while records wait. -/
def execConsPoll (c : Ctx) (cons : Word) (s : State) : Host.Outcome State Fault Refusal :=
  .next (s.live fun s => s.modCtx c.val fun y => { y with cons := cons.toNat })

/-! ### Copies (17 R420) -/

/-- Whether a function reaches an extent of DRAM: it lies in the regions of an enabled partition of the function. -/
def State.fnDram (s : State) (f addr len : Nat) : Bool :=
  let off := addr - dramBase
  decide (dramBase ≤ addr ∧ off + len ≤ s.usable * 65536) && !s.fenced off len &&
    (List.range 8).any fun p =>
      partEn s.gate.act p && decide (partFn s.gate.act p = f) &&
        ((pagesOf off len).all fun g => inRegions s.gate.act s.usable p g)

/-- Whether an extent is one that a function's copy may name. -/
def State.copyEnd (s : State) (f addr len : Nat) : Bool :=
  if addr < dramEnd then s.fnDram f addr len else (hostXlat s.gate.act f addr len).isSome

/-- SRC and DST of a function's copy channel. -/
def CopySt.src (x : CopySt) : Nat := x.srcLo.toNat + 2 ^ 32 * (x.srcHi.toNat % 2 ^ 16)
/-- DST of a function's copy channel. -/
def CopySt.dst (x : CopySt) : Nat := x.dstLo.toNat + 2 ^ 32 * (x.dstHi.toNat % 2 ^ 16)

/-- The function whose copy channel a view drives. -/
def copyFn (v : View) : Nat :=
  match v with
  | .vf k => k.val + 1
  | _ => 0

/-- COPY_START (R420): the write of LEN. A length that is no multiple of 64, or 0, is refused as a bad address is (log 24). -/
def execCopyStart (v : View) (x : Word) (t : Nat) (s : State) : Host.Outcome State Fault Refusal :=
  .next (s.live fun s0 =>
    let s := s0.advance t
    let f := copyFn v
    let y := s.fn f
    let n := x.toNat
    if y.flr then s
    else if y.busy ∨ n = 0 ∨ n % 64 ≠ 0 ∨ ¬ s.copyEnd f y.src n ∨ ¬ s.copyEnd f y.dst n then
      s.modFn f fun z => { z with code := 1, done := true }
    else s.modFn f fun z => { z with busy := true, done := false, len := n, began := s.sdl.ref })

/-- The end of a function's copy (R420): the data, where the source gave any, is written and the channel reports it. -/
def State.copyEnds (s : State) (f : Nat) (data : Option (List (BitVec 8))) : State :=
  let y := s.fn f
  let part := if f = 0 then none else vfPart s.gate.act f
  match data with
  | some d =>
    let s1 := if y.dst < dramEnd then (s.dramWrite none y.dst (d.take y.len)).wsetTouch (y.dst - dramBase) y.len
      else match hostXlat s.gate.act f y.dst y.len with
        | some (bus, _) => s.emit (Sent.hostWrite f bus (d.take y.len))
        | none => s
    (s1.modFn f fun z => { z with busy := false, done := true, code := 0 }).raise pgHst 10 part
  | none => (s.modFn f fun z => { z with busy := false, done := true, code := 2 }).raise pgHst 10 part

/-- COPY_DONE (R420): the bytes that host reads returned, none where a read failed or the copy took more than 50 ms. -/
def execCopyDone (fn : Fin 9) (hostData : Option (List (BitVec 8))) (t : Nat) (s : State) :
    Host.Outcome State Fault Refusal :=
  .next (s.live fun s0 =>
    let s := s0.advance t
    let y := s.fn fn.val
    if y.busy then
      let r := if y.src < dramEnd then s.dramRead none y.src y.len else (hostData, s)
      r.2.copyEnds fn.val (if s.reached (y.began + 50000000 * nsRef + 1) then none else r.1)
    else s)

/-- CONFIG_REQUEST (R468): retry status until start-up step 10 has ended. -/
def execConfigRequest (s : State) : Host.Outcome State Fault Refusal :=
  .next (if s.stopped then s else s.emit (Sent.cfgCpl (if s.pwr.ready then 0 else 1)))

end Sys2Proof.Machine
end

