-- ==== Sys2Proof/Machine/RingOps.lean ====
section
/-!
DEFINITION. The Peseif Ring's shared operations (14): routes, packets with their protection, launching, the peer windows.
-/

namespace Sys2Proof.Machine

open Sys2Proof

/-! ### Shape and routes (14 R340, R341) -/

/-- Devices in the ring; a strap error makes a device stand alone. -/
def State.ringN (s : State) : Nat := if s.pwr.strapErr then 1 else s.pwr.ringSize + 1

/-- The device's own ring position: 0 when alone. -/
def State.ringPos (s : State) : Nat := if s.ringN = 1 then 0 else s.pwr.ringPos

/-- Cost of a link at a rate code, doubling at each halving of the rate. -/
def rateCost (rate : Nat) : Nat := if rate = 0 then 1 else if rate = 1 then 2 else 4

/-- Cost of an own port: 0 where its link cannot be used. -/
def RingPort.cost (x : RingPort) : Nat := if x.st = .up ∧ ¬ x.away then rateCost x.rate else 0

/-- Whether an own link passes over a bypassed device: its far end is two places away. -/
def State.skips (s : State) (east : Bool) : Bool :=
  let n := s.ringN
  let p := s.ringPos
  decide (2 < n) &&
    (if east then decide (s.ring.east.far = (p + 2) % n) else decide (s.ring.west.far = (p + n - 2) % n))

/-- The link whose west end is at position `p`: its cost and whether it passes over a device. -/
def State.linkAt (s : State) (p : Nat) : Nat × Bool :=
  let n := s.ringN
  let me := s.ringPos
  if p = me then (s.ring.east.cost, s.skips true)
  else if s.ring.west.st ≠ .down ∧ p = s.ring.west.far ∧ p ≠ me ∧
      (p = (me + n - 1) % n ∨ (s.skips false = true ∧ p = (me + n - 2) % n)) then (s.ring.west.cost, s.skips false)
  else
    let x := SMap.get zeroUnlisted s.ring.links p
    (x % 8, decide (8 ≤ x))

/-- Cost of the way east from position `p` to `k`; none where a link of the way cannot be used. -/
def State.eastCost (s : State) (k : Nat) : Nat → Nat → Option Nat
  | 0, _ => none
  | fuel + 1, p =>
    if p = k then some 0
    else
      let l := s.linkAt p
      if l.1 = 0 then none
      else (s.eastCost k fuel ((p + (if l.2 then 2 else 1)) % s.ringN)).map (· + l.1)

/-- The link that leads east into position `p`, and the position at its west end. -/
def State.linkInto (s : State) (p : Nat) : Option (Nat × Nat) :=
  let n := s.ringN
  let a := (p + n - 1) % n
  let b := (p + n - 2) % n
  if (s.linkAt a).1 ≠ 0 ∧ (s.linkAt a).2 = false then some ((s.linkAt a).1, a)
  else if 2 < n ∧ (s.linkAt b).1 ≠ 0 ∧ (s.linkAt b).2 = true then some ((s.linkAt b).1, b)
  else none

/-- Cost of the way west from position `p` to `k`. -/
def State.westCost (s : State) (k : Nat) : Nat → Nat → Option Nat
  | 0, _ => none
  | fuel + 1, p =>
    if p = k then some 0
    else
      match s.linkInto p with
      | none => none
      | some (c, q) => (s.westCost k fuel q).map (· + c)

/-- The way to a position: some true east, some false west, none unreachable; equal costs go east. -/
def State.routeTo (s : State) (k : Nat) : Option Bool :=
  if s.ringN ≤ k ∨ k = s.ringPos then none
  else
    match s.eastCost k 8 s.ringPos, s.westCost k 8 s.ringPos with
    | some e, some w => some (decide (e ≤ w))
    | some _, none => some true
    | none, some _ => some false
    | none, none => none

/-- Routes recomputed (14 R341): the positions reached and those reached east; a position that became unreachable raises
UNREACHABLE. -/
def State.reroute (s : State) : State :=
  let reach := (List.range 8).foldl (fun a k => if (s.routeTo k).isSome then a + 2 ^ k else a) 0
  let east := (List.range 8).foldl (fun a k => if s.routeTo k = some true then a + 2 ^ k else a) 0
  let lost := (List.range 8).any fun k => decide (fieldOf s.ring.reach k 1 = 1 ∧ fieldOf reach k 1 = 0)
  let s1 := { s with ring := { s.ring with reach := reach, routeEast := east } }
  if lost then s1.raise pgPsf 13 none else s1

/-! ### Packets (14 R346 to R348) -/

/-- The 32-byte header of a packet. -/
def ringHeader (type src dst enc slot ctx win tag gen len status addr counter : Nat) : Nat :=
  type + 2 ^ 4 * src + 2 ^ 8 * dst + 2 ^ 11 * enc + 2 ^ 16 * slot + 2 ^ 24 * ctx + 2 ^ 30 * win + 2 ^ 32 * tag + 2 ^ 40 * gen
    + 2 ^ 48 * len + 2 ^ 56 * status + 2 ^ 64 * (addr % 2 ^ 40) + 2 ^ 192 * (counter % 2 ^ 64)

/-- The key of a key slot, where the slot is enabled. -/
def State.slotKey (s : State) (k : Nat) : Option (List (BitVec 8)) :=
  if s.cfg pgPsf (0x300 + 4 * k) 0 1 = 1 then
    (SMap.find? s.sec.keys (s.cfg pgPsf (0x300 + 4 * k) 4 10)).map fun x => x.key.take 32
  else none

/-- The IV of a packet. -/
def ringIv (src dst slot counter : Nat) : Nat := src * 2 ^ 93 + dst * 2 ^ 90 + slot * 2 ^ 84 + counter % 2 ^ 64

/-- A port, by direction. -/
def Ring.port (x : Ring) (east : Bool) : RingPort := if east then x.east else x.west
/-- Change a port. -/
def Ring.setPort (x : Ring) (east : Bool) (p : RingPort) : Ring := if east then { x with east := p } else { x with west := p }

/-- Change a port of the ring. -/
def State.modPort (s : State) (east : Bool) (f : RingPort → RingPort) : State :=
  { s with ring := s.ring.setPort east (f (s.ring.port east)) }

/-- Bytes in frames of at most 256. -/
def frameCut : Nat → List (BitVec 8) → List (List (BitVec 8))
  | 0, _ => []
  | _, [] => []
  | n + 1, l => l.take 256 :: frameCut n (l.drop 256)

/-- Frames numbered from a sequence number on. -/
def frameSeq (q : Nat) : List (List (BitVec 8)) → List LinkFrame
  | [] => []
  | b :: bs => { seq := q % 4096, bytes := b } :: frameSeq (q + 1) bs

/-- A packet leaves by a port: it is counted and its frames are held until they are acknowledged; those beyond the 512 held
wait their turn (14 R344). -/
def State.launch (s : State) (east : Bool) (bytes : List (BitVec 8)) : State :=
  let fs := frameCut bytes.length bytes
  let s1 := (s.bumpBy pgPsf 0x78 none bytes.length).emit (Sent.ring (bit (!east)) [bytes.length, leNat bytes])
  s1.modPort east fun p =>
    { p with
      hold := p.hold ++ frameSeq p.txSeq fs
      txSeq := (p.txSeq + fs.length) % 4096
      ackAt := if p.hold = [] then s.sdl.ref else p.ackAt }

/-- A packet of a context is protected as its partition's entry says and launched to a position; none where the position is
unreachable. -/
def State.sendPacket (s : State) (pos type part ctx win tag gen len status addr : Nat) (data : List (BitVec 8)) : Option State :=
  match s.routeTo pos with
  | none => none
  | some east =>
    let enc := s.cfg pgPsf (0x200 + 0x10 * part) 0 1
    let slot := s.cfg pgPsf (0x200 + 0x10 * part) 1 6
    if enc = 1 then
      let n := SMap.get zeroUnlisted s.ring.txCnt (slot * 8 + pos) + 1
      let h := natLe 32 (ringHeader type s.ringPos pos 1 slot ctx win tag gen len status addr n)
      let body := Config.gcmSeal ((s.slotKey slot).getD []) (ringIv s.ringPos pos slot n) h data
      let s1 := { s with ring := { s.ring with txCnt := SMap.put zeroUnlisted s.ring.txCnt (slot * 8 + pos) n } }
      some (s1.launch east (h ++ body))
    else some (s.launch east (natLe 32 (ringHeader type s.ringPos pos 0 0 ctx win tag gen len status addr 0) ++ data))

/-! ### Peer windows (01 R31, 14 R349) -/

/-- Bottom of the peer windows (01 R29). -/
def peerBase : Nat := 0x4000000000

/-- The own address that an offset of a peer window reaches for a partition: the same offset outside the register range, or
the partition's ring DRAM aperture; none elsewhere. -/
def peerLocal (m : SMap Word) (part off len : Nat) : Option Nat :=
  if off < 0x200000000 then (if off < 0x4000000 then none else some off)
  else if 0x400000000 ≤ off ∧ off < 0x800000000 then
    let o := off - 0x400000000
    if o + len ≤ cfg m pgPsf (0x208 + 0x10 * part) 0 24 * 4096 then
      some (dramBase + cfg m pgPsf (0x204 + 0x10 * part) 0 24 * 4096 + o)
    else none
  else none

end Sys2Proof.Machine
end

