-- ==== Sys2Proof/Machine/SproutOps.lean ====
section
/-!
DEFINITION. Sprouts and Beds (05): data memory, registers, issue, the event lines, the Gatherer, and the start and end of work.
-/

namespace Sys2Proof.Machine

open Sys2Proof

/-! ### Access to Beds and Sprouts -/

/-- A Bed's state. -/
def State.bed (s : State) (n b : Nat) : BedSt := SMap.get bedUnlisted s.beds (17 * n + b)

/-- Change a Bed's state. -/
def State.modBed (s : State) (n b : Nat) (f : BedSt → BedSt) : State :=
  { s with beds := SMap.modify bedUnlisted s.beds (17 * n + b) f }

/-- A Sprout's state. -/
def State.sprout (s : State) (i : SproutId) : SproutSt :=
  SMap.get sproutUnlisted (s.bed i.plot.val i.bed.val).sprouts i.sprout.val

/-- Change a Sprout's state. -/
def State.modSprout (s : State) (i : SproutId) (f : SproutSt → SproutSt) : State :=
  s.modBed i.plot.val i.bed.val fun b =>
    { b with sprouts := SMap.modify sproutUnlisted b.sprouts i.sprout.val f }

/-- The BED page of a Sprout's Bed. -/
def pgBed (n b : Nat) : Page := ⟨.bed, 17 * n + b⟩

/-- The partition of a Plot, for events of its Beds. -/
def State.plotPart (s : State) (n : Nat) : Option Nat := Machine.plotPart s.gate.act n

/-- Trellis address of a Sprout's data memory (01 R30). -/
def sproutMem (i : SproutId) : Nat :=
  plotBase i.plot.val + 0x03000000 + i.bed.val * 0x40000 + i.sprout.val * 0x4000

/-- Trellis address of a Bed's program memory (01 R30). -/
def bedMem (n b : Nat) : Nat := plotBase n + 0x03800000 + b * 0x10000

/-- The Bed that serves a position of a Plot (05 R138, R139). -/
def State.servingBed (s : State) (n pos : Nat) : Option Nat :=
  (List.range 17).find? fun b =>
    s.flag (pgBed n b) 0x100 4 && decide (s.cfg (pgBed n b) 0x100 0 4 = pos) && !(s.bed n b).pruned

/-! ### Data memory (05 R118) -/

/-- Byte `k` of a word at an offset, wrapping within its half. -/
def halfByte (off k : Nat) : Nat := off / 0x2000 % 2 * 0x2000 + (off % 0x2000 + k) % 0x2000

/-- Codewords of a word at an offset. -/
def wordCws (i : SproutId) (off : Nat) : List Nat :=
  ((List.range 4).map fun k => (sproutMem i + halfByte off k) / 16).eraseDups

/-- Read a 32-bit word of data memory, through the code. -/
def State.dataRead (s : State) (i : SproutId) (off : Nat) : Nat :=
  leNat ((List.range 4).map fun k =>
    let a := sproutMem i + halfByte off k
    match eccDeliver (s.cwData (a / 16)) (s.xorOf (a / 16)) with
    | some d => BitVec.ofNat 8 (d / 256 ^ (a % 16))
    | none => Mem.read s.mem a)

/-- Write bytes of a word of data memory, each codeword read, corrected, merged and written. -/
def State.dataWrite (s : State) (i : SproutId) (off x : Nat) : State :=
  (List.range 4).foldl
    (fun t k =>
      let a := sproutMem i + halfByte off k
      match eccDeliver (t.cwData (a / 16)) (t.xorOf (a / 16)) with
      | some d => t.putCw (a / 16) (withField d (8 * (a % 16)) 8 (x / 256 ^ k % 256))
      | none => t) s

/-- Report the codewords of a word that are in error (16 R388, R389), and whether one is uncorrectable. -/
def State.dataEvents (s : State) (i : SproutId) (off : Nat) : Bool × State :=
  (wordCws i off).foldl
    (fun acc cw =>
      let r (kind action sym : Nat) : FltRec :=
        { kind := kind, action := action, cls := 1, plot := i.plot.val, index := i.bed.val, ctx := (s.sprout i).ctx
          detail := cwDetail (16 * cw) 0 sym }
      match eccJudge (s.xorOf cw) with
      | .clean => acc
      | .corrected sym _ => (acc.1, acc.2.toFlt (r 0 0 sym))
      | .uncorrectable => (true, acc.2.toFlt (r 1 8 0))) (false, s)

/-! ### Banks and registers (05 R117) -/

/-- The bank in use. -/
def SproutSt.bank (x : SproutSt) : Bank := if x.st = .bank1 then x.b1 else x.b0

/-- Replace the bank in use. -/
def SproutSt.setBank (x : SproutSt) (b : Bank) : SproutSt := if x.st = .bank1 then { x with b1 := b } else { x with b0 := b }

/-- Read a register as a 32-bit word. -/
def SproutSt.get (x : SproutSt) : SReg → Nat
  | .g k => SMap.get zeroUnlisted x.bank.g k.val
  | .a k => SMap.get zeroUnlisted x.bank.a k.val
  | .m k => unsignedOf 32 (SMap.get intUnlisted x.bank.m k.val)
  | .l k => SMap.get zeroUnlisted x.bank.l k.val
  | .en => x.en
  | .vec k => SMap.get zeroUnlisted x.vec k.val
  | .watch => x.watch

/-- Write a register with a 32-bit word; an address register takes 14 bits, its modifier the low 14 as a signed value, its
length 13. -/
def SproutSt.set (x : SproutSt) (r : SReg) (v : Nat) : SproutSt :=
  match r with
  | .g k => x.setBank { x.bank with g := SMap.put zeroUnlisted x.bank.g k.val (v % 2 ^ 32) }
  | .a k => x.setBank { x.bank with a := SMap.put zeroUnlisted x.bank.a k.val (v % 2 ^ 14) }
  | .m k => x.setBank { x.bank with m := SMap.put intUnlisted x.bank.m k.val (signedOf 14 (v % 2 ^ 14)) }
  | .l k => x.setBank { x.bank with l := SMap.put zeroUnlisted x.bank.l k.val (v % 2 ^ 14) }
  | .en => { x with en := v % 2 ^ 8 }
  | .vec k => { x with vec := SMap.put zeroUnlisted x.vec k.val (v % 2 ^ 14) }
  | .watch => { x with watch := v % 2 ^ 32 }

/-- Post-modify address register `k`: by its modifier, wrapping within the half; circular when a length is set
(05 R118, R121). -/
def SproutSt.postModify (x : SproutSt) (k : Fin 8) : SproutSt :=
  let a := x.get (.a k)
  let m := SMap.get intUnlisted x.bank.m k.val
  let l := x.get (.l k)
  let o := if l = 0 then (((a % 0x2000 : Nat) : Int) + m) % 0x2000 |>.toNat else Config.circular (a % 0x2000) l m % 0x2000
  x.set (.a k) (a / 0x2000 * 0x2000 + o)

/-- The real and imaginary parts of a complex INT16 pair: real in the low half (02 R33). -/
def cplxRe (w : Nat) : Int := signedOf 16 (w % 2 ^ 16)
/-- Imaginary part. -/
def cplxIm (w : Nat) : Int := signedOf 16 (w / 2 ^ 16 % 2 ^ 16)
/-- A pair from its parts. -/
def cplxOf (re im : Int) : Nat := unsignedOf 16 re + 2 ^ 16 * unsignedOf 16 im

/-! ### Issue (05 R121, R123, R124) -/

/-- The program counter after the instruction at `pc`: at the end of the innermost body it returns to the body's start while
passes are left, and otherwise that loop ends (05 R123). -/
def loopNext : List LoopSt → Nat → List LoopSt × Nat
  | [], pc => ([], pc)
  | l :: ls, pc =>
    if pc = l.start + l.len then
      if 1 < l.left then ({ l with left := l.left - 1 } :: ls, l.start) else loopNext ls pc
    else (l :: ls, pc)

/-- The bank after an instruction that does not branch. -/
def Bank.next (b : Bank) : Bank :=
  let r := loopNext b.loops (b.pc + 1)
  { b with loops := r.1, pc := r.2 }

/-- Whether a loop's body holds an instruction. -/
def LoopSt.holds (l : LoopSt) (pc : Nat) : Bool := decide (l.start ≤ pc ∧ pc < l.start + l.len)

/-- Steps that a branch taken in step `t` of the Plot's pace waits for its target: none when the target lies in the fetch buffer (the
row in issue and the next) or in the loop cache, otherwise to the Sprout's next fetch slot, 1 to 16 steps on, so that with the step of
its issue it costs 2 to 17 (05 R124). -/
def SproutSt.fetchWait (x : SproutSt) (i : SproutId) (target t : Nat) : Nat :=
  let b := x.bank
  if target / 16 = b.pc / 16 ∨ target / 16 = b.pc / 16 + 1 ∨ b.loops.any (fun l => l.holds target) then 0
  else (i.sprout.val + 15 - t % 16) % 16 + 1

/-- The bank after a taken branch: every loop that encloses the branch and not its target ends (05 R123). -/
def Bank.jump (b : Bank) (target : Nat) : Bank :=
  { b with loops := b.loops.filter fun l => !l.holds b.pc || l.holds target, pc := target }

/-- Whether a Sprout can issue: it runs, waits for nothing, and stands at no pre-emption. -/
def SproutSt.issues (x : SproutSt) : Bool :=
  decide ((x.st = .bank0 ∨ x.st = .bank1) ∧ x.wait = .none) && !x.stopped

/-- Whether a Sprout runs and has not stopped. -/
def SproutSt.runs (x : SproutSt) : Bool := decide (x.st = .bank0 ∨ x.st = .bank1) && !x.stopped

/-- An instruction issues: its effect on the Sprout, which moves to the next instruction; `cost` steps pass. -/
def State.issue (s : State) (i : SproutId) (cost : Nat) (f : SproutSt → SproutSt) : State :=
  if (s.sprout i).issues then
    s.modSprout i fun x =>
      let y := f x
      { (y.setBank y.bank.next) with steps := y.steps + cost }
  else s

/-- Saturations of an instruction are counted, set SAT and raise ACC_SAT (05 R119, R120, R139). -/
def State.saturated (s : State) (i : SproutId) (k : Nat) : State :=
  if k = 0 then s
  else
    ((s.modSprout i fun x => x.setBank { x.bank with sat := true }).bumpBy (pgBed i.plot.val i.bed.val) 0x40
      (s.plotPart i.plot.val) k).raise (pgBed i.plot.val i.bed.val) 12 (s.plotPart i.plot.val)

/-- An instruction that computes `val` and counts saturations: the result goes to `rd`. -/
def State.issueAlu (s : State) (i : SproutId) (rd : SReg) (val : SproutSt → Nat × Nat) : State :=
  if (s.sprout i).issues then (s.issue i 1 fun x => x.set rd (val x).1).saturated i (val (s.sprout i)).2
  else s

/-- A 40-bit accumulator sum: saturated to the limit of its sign, and whether it was (05 R119). -/
def accAdd (a p : Int) : Int × Nat :=
  let x := a + p
  if x < -2 ^ 39 then (-2 ^ 39, 1) else if 2 ^ 39 - 1 < x then (2 ^ 39 - 1, 1) else (x, 0)

/-- Saturate to `w` bits, and whether it was (02 R52). -/
def satBits (w : Nat) (x : Int) : Int × Nat :=
  if x < -2 ^ (w - 1) then (-2 ^ (w - 1), 1) else if 2 ^ (w - 1) - 1 < x then (2 ^ (w - 1) - 1, 1) else (x, 0)

/-- Apply a function of exact integers to INT32 operands or to each part of packed pairs, each result saturated
(05 R120, R121). -/
def aluOf (packed : Bool) (f : Int → Int → Int) (a b : Nat) : Nat × Nat :=
  if packed then
    let r := satBits 16 (f (cplxRe a) (cplxRe b))
    let j := satBits 16 (f (cplxIm a) (cplxIm b))
    (cplxOf r.1 j.1, r.2 + j.2)
  else
    let r := satBits 32 (f (signedOf 32 (a % 2 ^ 32)) (signedOf 32 (b % 2 ^ 32)))
    (unsignedOf 32 r.1, r.2)

/-- A memory read of an instruction fails on an uncorrectable codeword: the Sprout aborts (05 R137). -/
def State.sproutAbort (s : State) (i : SproutId) : State :=
  (s.modSprout i fun x => { x with st := .aborted }).raise (pgBed i.plot.val i.bed.val) 8 (s.plotPart i.plot.val)

/-- An instruction that reads data memory at `offs`: the errors found are reported, and an uncorrectable one aborts the Sprout
in place of the instruction. -/
def State.issueRead (s : State) (i : SproutId) (offs : List Nat) (f : State → State) : State :=
  if (s.sprout i).issues then
    let r := offs.foldl (fun (acc : Bool × State) o => let e := acc.2.dataEvents i o; (acc.1 || e.1, e.2)) (false, s)
    if r.1 then r.2.sproutAbort i else f r.2
  else s

/-- The operands of a complex MAC: the words at two address registers (05 R121). -/
def State.macWords (s : State) (i : SproutId) (ax ay : Fin 8) : Nat × Nat :=
  (s.dataRead i ((s.sprout i).get (.a ax)), s.dataRead i ((s.sprout i).get (.a ay)))

/-- A complex MAC: the product of the two operands, the X operand conjugated where `conj`, subtracted where `sub`, into an
accumulator pair cleared first where `clear`; both address registers are post-modified, and two operands in the same half
take one step more (05 R118, R119, R121). -/
def State.complexMac (s : State) (i : SproutId) (ax ay : Fin 8) (conj sub clear : Bool) : State :=
  s.issueRead i [(s.sprout i).get (.a ax), (s.sprout i).get (.a ay)] fun s =>
    let x := s.sprout i
    let w := s.macWords i ax ay
    let ar := cplxRe w.1
    let ai := if conj then -cplxIm w.1 else cplxIm w.1
    let pr := ar * cplxRe w.2 - ai * cplxIm w.2
    let pi := ar * cplxIm w.2 + ai * cplxRe w.2
    let sg : Int := if sub then -1 else 1
    let re := accAdd (if clear then 0 else x.bank.re) (sg * pr)
    let im := accAdd (if clear then 0 else x.bank.im) (sg * pi)
    let cost := if x.get (.a ax) / 0x2000 = x.get (.a ay) / 0x2000 then 2 else 1
    ((s.issue i cost fun y =>
      ((y.setBank { y.bank with re := re.1, im := im.1 }).postModify ax).postModify ay).saturated i (re.2 + im.2)).bump
        (pgBed i.plot.val i.bed.val) 0x80 (s.plotPart i.plot.val)

/-! ### Event lines (05 R126) -/

/-- Assert an event line of a Sprout: it stays pending until taken, and it ends a wait where it is enabled. -/
def State.assertLine (s : State) (i : SproutId) (line : Nat) : State :=
  s.modSprout i fun x =>
    { x with
      pend := Nat.lor x.pend (2 ^ line)
      wait := if fieldOf x.en line 1 = 1 ∨ (line = 0 ∧ x.wait = .gather) then .none else x.wait }

/-- The Sprouts of a Plot. -/
def sproutsOf (n : Fin 8) : List SproutId :=
  (List.finRange 17).flatMap fun b => (List.finRange 16).map fun k => ⟨n, b, k⟩

/-- VERDICT: bank `k` of a Plot's Big Top has its final verdict; the Sprouts at work that watch it see line 3. -/
def State.verdictLine (s : State) (n : Fin 8) (k : Nat) : State :=
  (sproutsOf n).foldl (fun t i =>
    if (t.sprout i).st ≠ .idle ∧ Config.watchBank (t.sprout i).watch = k then t.assertLine i 3 else t) s

/-- CURSOR: Furrow `f` of a Plot's Irrigator moves its cursor from `a` to `b`; the Sprouts at work that watch a value passed see
line 4. -/
def State.cursorLine (s : State) (n : Fin 8) (f a b : Nat) : State :=
  (sproutsOf n).foldl (fun t i =>
    if (t.sprout i).st ≠ .idle ∧ Config.watchFurrow (t.sprout i).watch = f ∧ a < Config.watchValue (t.sprout i).watch ∧
        Config.watchValue (t.sprout i).watch ≤ b then t.assertLine i 4 else t) s

/-- The lowest enabled line that is asserted. -/
def SproutSt.line (x : SproutSt) : Option Nat :=
  (List.range 6).find? fun k => decide (fieldOf x.en k 1 = 1 ∧ fieldOf x.pend k 1 = 1)

/-! ### Start and end of work (05 R132 to R136; 06 R159) -/

/-- Limits of a Safety Net descriptor (05 R132). -/
def netInLimits (d : Nat) : Bool :=
  let p := fieldOf d 26 5 + 1
  decide ((fieldOf d 25 1 = 1 ↔ p ≤ 16) ∧ fieldOf d 34 3 ≤ 4)

/-- The status word of an invocation (05 R136). -/
def statusWord (d : Nat) (valid sat rerun late : Bool) (sinr : Nat) : Nat :=
  fieldOf d 0 16 + 2 ^ 16 * bit valid + 2 ^ 17 * bit sat + 2 ^ 18 * bit rerun + 2 ^ 19 * bit late + 2 ^ 24 * (sinr % 256)

/-- Write a status word where a descriptor names it; one with VALID 0 is counted (05 R132, R133, R136, R137). -/
def State.putStatus (s : State) (i : SproutId) (entry d word : Nat) : State :=
  let row := fieldOf d 128 19
  let k := fieldOf d 147 3
  let s1 := s.winWrite i.plot.val entry .a 4 row (word * 2 ^ (64 * k)) (0xFF * 2 ^ (8 * k))
  if fieldOf word 16 1 = 0 then s1.bump (pgBed i.plot.val i.bed.val) 0x58 (s.plotPart i.plot.val) else s1

/-- Zero a Sprout: its data memory and its registers (06 R159, 16 R404). -/
def State.zeroSprout (s : State) (i : SproutId) : State := (s.zeroBytes (sproutMem i) 0x4000).modSprout i fun _ => {}

/-- A Sprout comes to serve a context: one that served another is zeroed first, so that no state of one context is readable by
another (06 R159). -/
def State.ownSprout (s : State) (i : SproutId) (c : Nat) : State :=
  if (s.sprout i).ctx = some c ∨ (s.sprout i).ctx = none then s else s.zeroSprout i

/-- Whether a Bed serves: Bed 16 only once its program memory has been loaded (05 R138). -/
def State.bedReady (s : State) (n b : Nat) : Bool := decide (b ≠ 16) || (s.bed n b).seeded

/-- A Sprout as it begins work for step `n` of context `c`: both banks are zero where the step's dispatch set them so and nothing
has run since (05 R117, R120; log 202). -/
def SproutSt.start (x : SproutSt) (c n entry : Nat) (desc : Option Nat) (late : Bool) : SproutSt :=
  let fresh := decide (x.disp ≠ some (c, n))
  let b0 : Bank := if fresh then {} else x.b0
  { x with
    st := .bank0, wait := .none, ctx := some c, entry := entry, desc := desc, late := late, rerun := false
    stopped := false, disp := some (c, n), b0 := { b0 with pc := Config.sproutEntry (desc.getD 0) }
    b1 := if fresh then {} else x.b1 }

/-- A Sprout starts work for step `n` of a context: a descriptor outside the limits of R132 is not run, and its status word is
written with VALID 0. -/
def State.startSprout (s0 : State) (i : SproutId) (c n entry : Nat) (desc : Option Nat) (late : Bool) : State :=
  let s := s0.ownSprout i c
  match desc with
  | some d =>
    if netInLimits d then (s.modSprout i fun x => x.start c n entry (some d) late).use 1 i.plot.val i.bed.val 1
    else s.putStatus i entry d (statusWord d false false false late 0)
  | none => (s.modSprout i fun x => x.start c n entry none late).use 1 i.plot.val i.bed.val 1

/-- An invocation ends: its status word is written, and it is counted; a re-run that ends has passed its retry
(05 R136, R137, R139). -/
def State.endInvocation (s : State) (i : SproutId) : State :=
  let x := s.sprout i
  match x.desc with
  | none => s.modSprout i fun y => { y with st := .idle }
  | some d =>
    let w := statusWord d true (x.b0.sat || x.b1.sat) x.rerun x.late (Config.sinr s.free)
    let s1 := ((s.tick.putStatus i x.entry d w).bump (pgBed i.plot.val i.bed.val) 0x88 (s.plotPart i.plot.val)).modSprout i
      fun y => { y with st := .idle, desc := none }
    if x.rerun then
      let s2 := match x.ctx, x.grant with
        | some c, some g => s1.modCtx c fun k =>
          { k with steps := k.steps.map fun (y : StepSt) => if y.n = g.1 then { y with g := y.g - g.2 } else y }
        | _, _ => s1
      (s2.modSprout i fun y => { y with grant := none }).toFlt { kind := x.rerunKind, action := 1, cls := 1, plot := i.plot.val, index := i.bed.val, ctx := x.ctx }
    else s1

/-- Every Sprout. -/
def allSprouts : List SproutId := (List.finRange 8).flatMap sproutsOf

/-- The Sprouts that serve a context are released: their data memories are zeroed, or frozen in a kill with hold
(06 R159, 15 R378). -/
def State.releaseSprouts (s : State) (c : Nat) (freeze : Bool) : State :=
  allSprouts.foldl
    (fun t i =>
      if (t.sprout i).ctx = some c ∧ ¬ (t.sprout i).frozen then
        if freeze then t.modSprout i fun x => { x with st := .idle, frozen := true } else t.zeroSprout i
      else t) s

/-- The frozen Sprouts of contexts that `p` names are released, and zeroed (06 R159, 15 R379). -/
def State.thawSprouts (s : State) (p : Nat → Bool) : State :=
  allSprouts.foldl
    (fun t i =>
      match (t.sprout i).ctx with
      | some c => if (t.sprout i).frozen ∧ p c then t.zeroSprout i else t
      | none => t) s

/-- Commit Gate line 2: the Sprouts of a context see a pre-emption (05 R126, 11 R291). -/
def State.preemptSprouts (s : State) (c : Nat) : State :=
  allSprouts.foldl (fun t i => if (t.sprout i).ctx = some c ∧ (t.sprout i).st ≠ .idle then t.assertLine i 2 else t) s

/-- A Bed's state scrubbed: its program memory, its Sprouts, its Gatherer; it serves nothing until re-seeded (16 R404, R405). -/
def State.scrubBed (s : State) (n : Fin 8) (b : Fin 17) : State :=
  ((List.finRange 16).foldl (fun t k => t.zeroBytes (sproutMem ⟨n, b, k⟩) 0x4000)
    (s.zeroBytes (bedMem n.val b.val) 0x10000)).modBed n.val b.val fun x => { pruned := x.pruned }

end Sys2Proof.Machine
end

