-- ==== Sys2Proof/Machine/IrgOps.lean ====
section
/-!
DEFINITION. The Irrigators' shared operations (07): descriptors, places, credit, dry time, tags, delivery, watermarks.
-/

namespace Sys2Proof.Machine

open Sys2Proof

/-! ### Descriptors (07 R163 to R165) -/

/-- SRC of a Furrow descriptor. -/
def fSrc (d : Nat) : Nat := fieldOf d 0 48
/-- DST. -/
def fDst (d : Nat) : Nat := fieldOf d 48 48
/-- Bytes of a run of dimension 0. -/
def fRun (d : Nat) : Nat := fieldOf d 96 16 + 1
/-- NDIM_M1. -/
def fNdim (d : Nat) : Nat := fieldOf d 112 3
/-- TILE_LVL. -/
def fTileLvl (d : Nat) : Nat := fieldOf d 115 3
/-- RT. -/
def fRt (d : Nat) : Bool := decide (fieldOf d 118 1 = 1)
/-- PARK. -/
def fPark (d : Nat) : Bool := decide (fieldOf d 119 1 = 1)
/-- SHARE. -/
def fShare (d : Nat) : Nat := fieldOf d 120 4
/-- SKIND. -/
def fSkind (d : Nat) : Bool := decide (fieldOf d 124 1 = 1)
/-- DKIND. -/
def fDkind (d : Nat) : Bool := decide (fieldOf d 125 1 = 1)
/-- RATE. -/
def fRate (d : Nat) : Nat := fieldOf d 128 32
/-- Capacity of the consumer buffer in tiles. -/
def fCap (d : Nat) : Nat := fieldOf d 160 8 + 1
/-- AHEAD. -/
def fAhead (d : Nat) : Nat := fieldOf d 168 8

/-- Iterations of dimension `k` (1 to 4); one above NDIM_M1. -/
def fCnt (d k : Nat) : Nat := if k ≤ fNdim d then fieldOf d (192 + 80 * (k - 1)) 16 + 1 else 1
/-- Source stride of dimension `k`. -/
def fSs (d k : Nat) : Int := signedOf 32 (fieldOf d (192 + 80 * (k - 1) + 16) 32)
/-- Destination stride of dimension `k`. -/
def fDs (d k : Nat) : Int := signedOf 32 (fieldOf d (192 + 80 * (k - 1) + 48) 32)

/-- Runs of one tile (07 R165). -/
def fTileRuns (d : Nat) : Nat :=
  (if 1 ≤ fTileLvl d then fCnt d 1 else 1) * (if 2 ≤ fTileLvl d then fCnt d 2 else 1) *
    (if 3 ≤ fTileLvl d then fCnt d 3 else 1) * (if 4 ≤ fTileLvl d then fCnt d 4 else 1)

/-- Runs in all. -/
def fRuns (d : Nat) : Nat := fCnt d 1 * fCnt d 2 * fCnt d 3 * fCnt d 4

/-- Bytes of a tile. -/
def fTileBytes (d : Nat) : Nat := fTileRuns d * fRun d
/-- Bytes in all. -/
def fBytes (d : Nat) : Nat := fRuns d * fRun d
/-- Tiles in all. -/
def fTiles (d : Nat) : Nat := fRuns d / fTileRuns d

/-- Index of dimension `k` at run `r` of the visiting order, dimension 1 innermost (07 R164). -/
def fIndex (d r k : Nat) : Nat :=
  if k = 1 then r % fCnt d 1
  else if k = 2 then r / fCnt d 1 % fCnt d 2
  else if k = 3 then r / (fCnt d 1 * fCnt d 2) % fCnt d 3
  else r / (fCnt d 1 * fCnt d 2 * fCnt d 3) % fCnt d 4

/-- Σ index × stride at a run. -/
def fOffset (stride : Nat → Int) (d r : Nat) : Int :=
  fIndex d r 1 * stride 1 + fIndex d r 2 * stride 2 + fIndex d r 3 * stride 3 + fIndex d r 4 * stride 4

/-- Source address of byte `o` of run `r`; a stream port has no strides. -/
def fSrcAt (d r o : Nat) : Nat :=
  if fSkind d then fSrc d % 2 ^ 16 else unsignedOf 48 (fSrc d + fOffset (fSs d) d r + o)
/-- Destination address of byte `o` of run `r`. -/
def fDstAt (d r o : Nat) : Nat :=
  if fDkind d then fDst d % 2 ^ 16 else unsignedOf 48 (fDst d + fOffset (fDs d) d r + o)

/-! ### Furrows -/

/-- The IRG page of an Irrigator: 0 to 7 the Plots', 8 the central one (07 R161). -/
def pgIrg (k : Nat) : Page := ⟨.irg, k⟩

/-- An Irrigator. -/
def State.irrigator (s : State) (k : Nat) : Irrigator := SMap.get irgUnlisted s.irg.irg k

/-- Change an Irrigator. -/
def State.modIrg (s : State) (k : Nat) (f : Irrigator → Irrigator) : State :=
  { s with irg := { s.irg with irg := SMap.modify irgUnlisted s.irg.irg k f } }

/-- A Furrow. -/
def State.furrow (s : State) (k f : Nat) : Furrow := SMap.get furrowUnlisted (s.irrigator k).furrows f

/-- Change a Furrow. -/
def State.modFurrow (s : State) (k f : Nat) (g : Furrow → Furrow) : State :=
  s.modIrg k fun x => { x with furrows := SMap.modify furrowUnlisted x.furrows f g }

/-- Staging bytes of an Irrigator (07 R161). -/
def staging (k : Nat) : Nat := if k = 8 then 524288 else 131072

/-- The partition of a Furrow's context, for events. -/
def State.furrowPart (s : State) (k f : Nat) : Option Nat := some (s.partOf (s.furrow k f).ctx)

/-- Tiles delivered and not released (07 R168). -/
def Furrow.level (x : Furrow) : Nat := x.cursor - x.released

/-- Tiles whose fetch has begun, less those released (07 R167). -/
def Furrow.fetched (x : Furrow) : Nat := (x.next + fTileBytes x.desc - 1) / fTileBytes x.desc - x.released

/-- Dry time of a rated Furrow, 2^32 for a bulk one (07 R168). -/
def Furrow.dry (x : Furrow) : Nat :=
  if fRate x.desc = 0 then 2 ^ 32 else min (2 ^ 32 - 1) (x.level * fRate x.desc)

/-- Whether tile `k` may be written (07 R167). -/
def Furrow.mayWrite (x : Furrow) (k : Nat) : Bool := decide (k < x.released + fCap x.desc)

/-- Whether the tile of the next request may be fetched (07 R167). -/
def Furrow.mayFetch (x : Furrow) : Bool :=
  decide (x.next < fBytes x.desc ∧ x.next / fTileBytes x.desc < x.released + fCap x.desc + fAhead x.desc)

/-- Whether the first spilled piece may be read back (07 R181). -/
def Furrow.mayReturn (x : Furrow) : Bool :=
  match x.spilled with
  | [] => false
  | p :: _ => x.mayWrite p.tile

/-- The state of a Furrow that neither waits for a page nor has stopped for good (07 R163, R167, R181). -/
def Furrow.settle (x : Furrow) : Furrow :=
  match x.st with
  | .active | .creditWait | .stageWait | .spilled =>
    if x.spilled ≠ [] then { x with st := .spilled }
    else if x.cursor = fTiles x.desc then { x with st := .done, stageSince := none }
    else if x.next < fBytes x.desc ∧ x.mayFetch = false then { x with st := .creditWait, stageSince := none }
    else if x.next = fBytes x.desc ∧ x.stage ≠ [] then { x with st := .creditWait, stageSince := none }
    else { x with st := if x.stageSince.isSome then .stageWait else .active }
  | _ => x

/-- Bytes that a Furrow holds in staging: reserved by its requests, and waiting for credit (07 R172). -/
def State.heldBytes (s : State) (k f : Nat) : Nat :=
  ((s.irg.requests.filter fun r => decide (r.irg = k ∧ r.furrow = f)).map (·.len)).sum +
    ((s.furrow k f).stage.map (·.data.length)).sum

/-- Bytes held in an Irrigator's staging. -/
def State.stagedBytes (s : State) (k : Nat) : Nat :=
  ((s.irg.requests.filter fun r => decide (r.irg = k)).map (·.len)).sum +
    ((s.irrigator k).furrows.map fun e => (e.2.stage.map (·.data.length)).sum).sum

/-- Whether every tile held in staging belongs to a Furrow in CREDIT_WAIT, and one is (07 R180). -/
def State.creditOnlyNow (s : State) (k : Nat) : Bool :=
  decide (0 < s.stagedBytes k) && (s.irrigator k).furrows.all fun e =>
    decide (s.heldBytes k e.1 = 0) || decide (e.2.st = .creditWait)

/-- An Irrigator's Furrows after a change: their states, and since when only Furrows in CREDIT_WAIT hold staging. -/
def State.settleIrg (s : State) (k : Nat) : State :=
  let s1 := (s.irrigator k).furrows.foldl (fun t e => t.modFurrow k e.1 Furrow.settle) s
  s1.modIrg k fun x =>
    { x with creditOnly := if s1.creditOnlyNow k then some (x.creditOnly.getD s1.sdl.ref) else none }

/-- A fault of a Furrow: no later request of it is issued, and its context faults (07 R166). -/
def State.furrowFault (s : State) (k f cause : Nat) : State :=
  (s.modFurrow k f fun x => { x with st := .faulted }).faultCtx (s.furrow k f).ctx cause

/-- A Furrow's transfer has passed its limit (R175, 16 R401). -/
def State.furrowLimit (s : State) (k f : Nat) : State :=
  (s.modFurrow k f fun x => { x with st := .faulted }).overLimit (s.furrow k f).ctx 2 0x04

/-- Whether a Furrow may issue no more: its context is pre-empted, torn down or faulted; a Furrow whose source is a stream
goes on to the end of its tile at a pre-emption (07 R176, 11 R301). -/
def State.furrowHeld (s : State) (x : Furrow) : Bool :=
  let c := s.ctx x.ctx
  c.tearing || decide (c.st = .faulted) ||
    (c.preempting && !(fSkind x.desc && decide (x.next % fTileBytes x.desc ≠ 0)))

/-! ### Places (01 R29 to R31; 07 R161, R162) -/

/-- What a Trellis address names. -/
inductive Place where
  /-- byte `byte` of relative row `row` of a store -/
  | store (plot : Nat) (st : Store) (row byte : Nat)
  /-- byte `off` of a Sprout's data memory -/
  | sprout (i : SproutId) (off : Nat)
  /-- a Bed's program memory, by Trellis address -/
  | bed (plot bed addr : Nat)
  | dram (addr : Nat)
  /-- offset in the window of another ring position -/
  | peer (pos off : Nat)
  | host (addr : Nat)
  /-- a stream port -/
  | stream (port : Nat)
  | none
deriving DecidableEq, Repr

/-- The Bed that an address names: Beds 0 to 15 by serving position, redirected to the Bed that serves it, Bed 16 by its own number
(01 R30, 05 R138). -/
def State.addressedBed (s : State) (n b : Nat) : Option Nat :=
  if b = 16 then (if (s.bed n 16).pruned then none else some 16) else s.servingBed n b

/-- The place in a Plot's window; nothing where the Plot is Pruned (07 R162, 01 R30, R31). -/
def State.plotPlace (s : State) (n off : Nat) : Place :=
  if s.pruned n then .none
  else if off < 0x800000 then .store n .w (off / 64) (off % 64)
  else if off < 0xC00000 then .store n .p ((off - 0x800000) / 64) (off % 64)
  else if 0x1000000 ≤ off ∧ off < 0x2400000 then .store n .a ((off - 0x1000000) / 64) (off % 64)
  else if 0x3000000 ≤ off ∧ off < 0x3440000 then
    match s.addressedBed n ((off - 0x3000000) / 0x40000) with
    | some b =>
      if h : n < 8 ∧ b < 17 then
        .sprout ⟨⟨n, h.1⟩, ⟨b, h.2⟩, ⟨off / 0x4000 % 16, Nat.mod_lt _ (by decide)⟩⟩ (off % 0x4000)
      else .none
    | none => .none
  else if 0x3800000 ≤ off ∧ off < 0x3910000 then
    match s.addressedBed n ((off - 0x3800000) / 0x10000) with
    | some b => .bed n b (bedMem n b + off % 0x10000)
    | none => .none
  else .none

/-- The place of an own address; the register pages are none (01 R29; log 218). -/
def State.ownPlace (s : State) (addr : Nat) : Place :=
  if 0x0100000000 ≤ addr ∧ addr < 0x0120000000 then
    s.plotPlace ((addr - 0x0100000000) / 0x4000000) ((addr - 0x0100000000) % 0x4000000)
  else if dramBase ≤ addr ∧ addr < dramEnd then .dram addr
  else if hostBase ≤ addr then .host addr
  else .none

/-- Whether an Irrigator reaches a place: a store is reached by its own Plot's Irrigator alone (07 R162). -/
def Place.reachedBy (p : Place) (k : Nat) : Bool :=
  match p with
  | .store n _ _ _ => decide (n = k)
  | _ => true

/-- The place that an address names for a context: the window of the own ring position is served locally (01 R31). -/
def State.place (s : State) (c addr len : Nat) : Place :=
  if peerBase ≤ addr ∧ addr < hostBase then
    let k := (addr - peerBase) / 0x800000000
    let off := (addr - peerBase) % 0x800000000
    if k = s.ringPos then
      match peerLocal s.gate.act (s.partOf c) off len with
      | some a => s.ownPlace a
      | none => .none
    else .peer k off
  else s.ownPlace addr

/-- The place that an address names for a Furrow of Irrigator `k`; one that the Irrigator does not reach is as unmapped (07 R162, R166). -/
def State.placeFor (s : State) (k c addr len : Nat) : Place :=
  let p := s.place c addr len
  if p.reachedBy k then p else .none

/-- The source place of the bytes of a Furrow of Irrigator `k`. -/
def State.srcPlace (s : State) (k : Nat) (x : Furrow) (addr len : Nat) : Place :=
  if fSkind x.desc then .stream addr else s.placeFor k x.ctx addr len
/-- The destination place of a Furrow's bytes. -/
def State.dstPlace (s : State) (k : Nat) (x : Furrow) (addr len : Nat) : Place :=
  if fDkind x.desc then .stream addr else s.placeFor k x.ctx addr len

/-- The pool whose tag a request to a place holds: 11 none; writes to the host take none (07 R173). -/
def State.poolOf (s : State) (p : Place) (write : Bool) : Pool :=
  match p with
  | .dram a => 1 + s.ddr.channel (a - dramBase)
  | .peer k _ => if s.routeTo k = some false then 10 else 9
  | .host _ => if write then 11 else 0
  | _ => 11

/-- Bytes that one request carries: those of the target's tag; 64 where no tag is taken (DESIGN CHOICE, log 40). -/
def poolBytes (p : Pool) : Nat := if p = 0 ∨ p = 9 ∨ p = 10 then 256 else 64

/-- Whether a place lies in the soft-buffer aperture, whose accesses are whole groups of 512 bytes (18 R443). -/
def State.inSba (s : State) (p : Place) : Bool :=
  match p with
  | .dram a => (sbaOf s.gate.act (a - dramBase)).isSome
  | _ => false

/-- Tags of a pool (07 R173); the host's are 256 at most on a link without 10-bit tags (17 R413). -/
def State.poolTags (s : State) (p : Pool) : Nat :=
  if p = 0 then (if s.irg.tag10 = true ∨ s.irg.width = 0 then 768 else 256) else if p ≤ 8 then 128 else 256

/-! ### Tags (07 R173, R174; 17 R418) -/

/-- Requests that hold tags of a pool. -/
def State.holders (s : State) (p : Pool) : List Request :=
  s.irg.requests.filter fun r => decide (r.pool = p) && !r.waiting

/-- Host tags that a function holds. -/
def State.hostHeld (s : State) (f : Nat) : Nat := ((s.holders 0).filter fun r => decide (r.fn = f)).length

/-- TAG_RSV and TAG_MAX of a function. -/
def State.tagRsv (s : State) (f : Nat) : Nat := s.cfg (pgFn f) 0x100 0 10
/-- TAG_MAX of a function. -/
def State.tagMax (s : State) (f : Nat) : Nat := s.cfg (pgFn f) 0x100 10 10

/-- Tags of a pool that a request of function `f` could take now: for the host its reserve first, and beyond it what the
other functions' reserves leave (17 R418). -/
def State.tagsFree (s : State) (p : Pool) (f : Nat) : Nat :=
  let held := (s.holders p).length
  if p = 0 then
    let mine := s.hostHeld f
    let others := ((List.range 9).map fun g => if g = f then 0 else s.tagRsv g - s.hostHeld g).sum
    if s.tagMax f ≤ mine then 0
    else if mine < s.tagRsv f then min (s.poolTags 0 - held) (s.tagRsv f - mine)
    else s.poolTags 0 - held - others
  else s.poolTags p - held

/-- Order in which waiting requests are granted tags: dry time, then Irrigator, then Furrow (07 R174). -/
def State.tagKey (s : State) (k f : Nat) : Nat := (s.furrow k f).dry * 1024 + k * 64 + f

/-- The smallest tag of a pool that no request holds. -/
def State.nextTag (s : State) (p : Pool) : Nat :=
  ((List.range (s.irg.requests.length + 1)).find? fun t => !(s.holders p).any fun r => decide (r.tag = t)).getD 0

/-- The pool that a Furrow's next request needs: its source's, or where that takes no tag its destination's. -/
def State.needPool (s : State) (k : Nat) (x : Furrow) : Pool :=
  match x.spilled with
  | p :: _ => s.poolOf (s.place x.ctx p.addr p.len) false
  | [] =>
    let r := x.next / fRun x.desc
    let o := x.next % fRun x.desc
    let a := s.poolOf (s.srcPlace k x (fSrcAt x.desc r o) 4) false
    if a = 11 then s.poolOf (s.dstPlace k x (fDstAt x.desc r o) 4) true else a

/-- Whether a spilled Furrow may read its first piece back: its credit allows the tile, and no piece of it is still on its way to the
spill area. -/
def State.mayReturn (s : State) (k f : Nat) (x : Furrow) : Bool :=
  x.mayReturn && !(s.irg.requests.any fun r => decide (r.irg = k ∧ r.furrow = f) && r.spill && r.data.isSome)

/-- Whether a Furrow asks to issue: active, with credit, and not stopped (07 R169). -/
def State.asks (s : State) (k f : Nat) (x : Furrow) : Bool :=
  !s.furrowHeld x &&
    (match x.st with
     | .active => x.mayFetch
     | .stageWait => x.mayFetch
     | .spilled => s.mayReturn k f x
     | _ => false)

/-- Requests and Furrows that wait for a tag of a pool and precede a key; a Furrow that has stopped or waits for something else waits
for none. -/
def State.tagAhead (s : State) (p : Pool) (key : Nat) : Nat :=
  (s.irg.requests.filter fun r => decide (r.pool = p) && r.waiting && decide (s.tagKey r.irg r.furrow < key)).length +
    ((List.range 9).map fun k =>
      ((s.irrigator k).furrows.filter fun e =>
        e.2.tagWait && decide (e.2.st ≠ .stageWait) && s.asks k e.1 e.2 && decide (s.needPool k e.2 = p) &&
          decide (s.tagKey k e.1 < key)).length).sum

/-- Whether a request of a Furrow gets a tag of a pool now (07 R174). -/
def State.tagOk (s : State) (p : Pool) (k f : Nat) : Bool :=
  decide (p = 11) || decide (s.tagAhead p (s.tagKey k f) < s.tagsFree p (s.fnOf (s.furrow k f).ctx))

/-- Generation of a tag (07 R174). -/
def State.gen (s : State) (p : Pool) (tag : Nat) : Nat := SMap.get zeroUnlisted s.irg.gens (p * 1024 + tag)

/-- A tag reclaimed without its completion: its generation advances (07 R174). -/
def State.reclaim (s : State) (r : Request) : State :=
  { s with irg := { s.irg with
    requests := s.irg.requests.filter fun q => decide (q ≠ r)
    gens := SMap.put zeroUnlisted s.irg.gens (r.pool * 1024 + r.tag) ((s.gen r.pool r.tag + 1) % 16) } }

/-- A request leaves for its target. -/
def State.send (s : State) (r : Request) : State :=
  let part := s.partOf r.ctx
  match r.data with
  | none =>
    match s.place r.ctx r.src r.len with
    | .host a =>
      match hostXlat s.gate.act r.fn a r.len with
      | some (bus, _) => s.emit (Sent.hostRead r.fn (match r.xlat with | some g => g * 4096 + bus % 4096 | none => bus) r.len)
      | none => s
    | .peer k off =>
      (s.sendPacket k 1 part r.ctx ((s.furrow r.irg r.furrow).entry % 2) r.tag r.gen (r.len - 1) 0 off []).getD s
    | _ => s
  | some d =>
    match s.place r.ctx r.dst r.len with
    | .peer k off =>
      (s.sendPacket k 2 part r.ctx ((s.furrow r.irg r.furrow).entry % 2) r.tag r.gen (r.len - 1) 0 off d).getD s
    | _ => s

/-- A request is granted a tag and timed from this grant (07 R174, R175). -/
def State.grantTag (s : State) (r : Request) : State :=
  let tag := s.nextTag r.pool
  let q := { r with tag := tag, gen := s.gen r.pool tag, waiting := false, issued := s.sdl.ref, sentAt := s.sdl.ref }
  ({ s with irg := { s.irg with requests := (s.irg.requests.filter fun x => decide (x ≠ r)) ++ [q] } }).send q

/-- The waiting request of a pool that comes first. -/
def State.firstWaiting (s : State) (p : Pool) : Option Request :=
  (s.irg.requests.filter fun r => decide (r.pool = p) && r.waiting).foldl
    (fun b r => match b with
      | none => some r
      | some q => if s.tagKey r.irg r.furrow < s.tagKey q.irg q.furrow then some r else some q) none

/-- A freed tag goes to the waiting request that comes first (07 R174). -/
def State.grantWaiting (s : State) (p : Pool) : State :=
  match s.firstWaiting p with
  | none => s
  | some r =>
    if p ≠ 11 ∧ s.tagAhead p (s.tagKey r.irg r.furrow) < s.tagsFree p r.fn then s.grantTag r else s

/-- A new request: it takes a tag where it gets one, and otherwise waits, which is counted (07 R174). -/
def State.newRequest (s : State) (r : Request) : State :=
  if s.tagOk r.pool r.irg r.furrow then s.grantTag { r with waiting := true }
  else ({ s with irg := { s.irg with requests := s.irg.requests ++ [{ r with waiting := true }] } }).bump (pgIrg r.irg) 0x98
    (some (s.partOf r.ctx))

/-! ### Reading and writing places -/

/-- Slot number, less one, of the Plot Irrigator's reads of a store (06 R143). -/
def irgReadSlot : Store → Nat
  | .a => 5
  | .w => 2
  | .p => 2

/-- Slot number, less one, of the Plot Irrigator's writes. -/
def irgWriteSlot : Store → Nat
  | .a => 6
  | .w => 3
  | .p => 3

/-- Rows that `len` bytes from byte `byte` of a row touch. -/
def rowsOf (byte len : Nat) : Nat := (byte + len + 63) / 64

/-- Bytes of relative rows of a store for a context; none where a row is not delivered. -/
def State.storeBytes (s : State) (n e : Nat) (st : Store) (slot row byte len : Nat) : Option (List (BitVec 8)) × State :=
  let a := s.winReadN n e st slot row (rowsOf byte len)
  (a.1.map fun x => natLe len (x / 2 ^ (8 * byte)), a.2)

/-- Write bytes of relative rows of a store for a context. -/
def State.storePut (s : State) (n e : Nat) (st : Store) (slot row byte : Nat) (data : List (BitVec 8)) : State :=
  (List.range (rowsOf byte data.length)).foldl
    (fun t i =>
      let lo := max byte (64 * i)
      let hi := min (byte + data.length) (64 * i + 64)
      t.winWrite n e st slot (row + i) (leNat (data.drop (lo - byte)) * 2 ^ (8 * (lo % 64)) % 2 ^ 512)
        ((2 ^ (hi - lo) - 1) * 2 ^ (lo % 64))) s

/-- The Sprout and the offset of an address `off` bytes above the first of a Sprout's data memory: past its 16 KiB the next Sprout's
follows, and past the last of a Bed the next Bed's, by the address that names it (01 R30). -/
def State.sproutAtOff (s : State) (i : SproutId) (off : Nat) : SproutId × Nat :=
  let k := i.sprout.val + off / 0x4000
  let b : Fin 17 :=
    if k < 16 then i.bed
    else
      let pos := if i.bed.val = 16 then 16 else s.cfg (pgBed i.plot.val i.bed.val) 0x100 0 4
      match s.addressedBed i.plot.val (pos + k / 16) with
      | some b => ⟨b % 17, Nat.mod_lt _ (by decide)⟩
      | none => i.bed
  (⟨i.plot, b, ⟨k % 16, Nat.mod_lt _ (by decide)⟩⟩, off % 0x4000)

/-- Words of Sprouts' data memories through the Bed port; none where one is uncorrectable (05 R118, R131). -/
def State.sproutBytes (s : State) (i : SproutId) (off len : Nat) : Option (List (BitVec 8)) × State :=
  (List.range (len / 4)).foldl
    (fun acc k =>
      let q := s.sproutAtOff i (off + 4 * k)
      let e := acc.2.dataEvents q.1 q.2
      (if e.1 then none else acc.1.map fun l => l ++ natLe 4 (s.dataRead q.1 q.2), e.2)) (some [], s)

/-- Write words of Sprouts' data memories through the Bed port. -/
def State.sproutPut (s : State) (i : SproutId) (off : Nat) (data : List (BitVec 8)) : State :=
  (List.range (data.length / 4)).foldl
    (fun t k =>
      let q := s.sproutAtOff i (off + 4 * k)
      t.dataWrite q.1 q.2 (leNat ((data.drop (4 * k)).take 4))) s

/-- Codewords of a Bed's program memory; none where one is uncorrectable. -/
def State.bedBytes (s : State) (addr len : Nat) : Option (List (BitVec 8)) :=
  (cwsOf addr len).foldl
    (fun acc cw => match acc, eccDeliver (s.cwData cw) (s.xorOf cw) with
      | some l, some d => some (l ++ natLe 16 d)
      | _, _ => none) (some [])

/-- Write a Bed's program memory, in whole rows; the load seeds the Bed (05 R138). -/
def State.bedPut (s : State) (n b addr : Nat) (data : List (BitVec 8)) : State :=
  (((cwsOf addr data.length).zip (pieces 16 (data.length / 16) data)).foldl (fun t x => t.putCw x.1 (leNat x.2)) s).modBed n b
    fun y => { y with seeded := true }

/-- What a read of a place delivers: `pos` is its place in the Furrow's stream, `arrived` what came back from the host, the ring or
a stream. An address that is unmapped faults the Furrow (07 R166). -/
def State.placeRead (s : State) (k f : Nat) (p : Place) (pos len : Nat) (arrived : Option (List (BitVec 8))) :
    Option (List (BitVec 8)) × State :=
  let x := s.furrow k f
  match p with
  | .store n st row byte => s.storeBytes n x.entry st (irgReadSlot st) row byte len
  | .sprout i off =>
    let a := s.sproutBytes i off len
    (a.1, if a.1 = none then a.2.faultCtx x.ctx 0x02 else a.2)
  | .bed _ _ addr =>
    match s.bedBytes addr len with
    | some l => (some l, s)
    | none => (none, s.faultCtx x.ctx 0x02)
  | .dram addr => s.dramRead (some x.ctx) addr len
  | .peer _ _ | .host _ => (arrived, s)
  | .stream port => s.portRead x.ctx f port pos len arrived
  | .none => (none, s.furrowFault k f 0x03)

/-- Registered weight regions that a write touches: bound context, and whether the region's half is the one selected (12 R318). -/
def State.wregHits (s : State) (off len : Nat) : List (Nat × Bool) :=
  ((List.range 8).filter fun k =>
    let b := s.cfg pgRms (0x640 + 8 * k) 0 24 * 4096
    s.flag pgRms (0x640 + 8 * k) 31 && decide (off < b + s.cfg pgRms (0x644 + 8 * k) 0 24 * 4096 ∧ b < off + len)).map fun k =>
      let c := s.cfg pgRms (0x640 + 8 * k) 24 6
      (c, decide (s.flag pgRms (0x640 + 8 * k) 30 = s.ctxFlag 0x618 c))

/-- A context's write into DRAM: a Greenhouse context's into a serving weight region faults it, and into a candidate region
clears the TARGET's PASS (12 R315, R318); a replay's into a soft-buffer aperture is discarded (13 R337). -/
def State.guardedWrite (s : State) (c addr : Nat) (data : List (BitVec 8)) : State :=
  let off := addr - dramBase
  let hits := if s.ctxFlag 0x608 c then s.wregHits off data.length else []
  if hits.any fun h => h.2 then s.faultCtx c 0x15
  else if s.ctxFlag 0x690 c ∧ (sbaOf s.gate.act off).isSome then s.bump pgRms 0xC8 (some (s.partOf c))
  else
    ((hits.foldl (fun t h => t.modCtx h.1 fun y => { y with pass := false }) s).dramWrite (some c) addr data).wsetTouch off
      data.length

/-- A write of a place; `races` is how many of its words or rows the Sprouts' own ports touched in the same steps, which
are counted (05 R125, R131). -/
def State.placeWrite (s : State) (k f : Nat) (p : Place) (data : List (BitVec 8)) (xlat : Option Nat) (races : Nat) : State :=
  let x := s.furrow k f
  match p with
  | .store n st row byte => s.storePut n x.entry st (irgWriteSlot st) row byte data
  | .sprout i off =>
    let s1 := s.sproutPut i off data
    if races = 0 then s1
    else (s1.bumpBy (pgBed i.plot.val i.bed.val) 0x60 (s.plotPart i.plot.val) races).raise (pgBed i.plot.val i.bed.val) 9
      (s.plotPart i.plot.val)
  | .bed n b addr =>
    let s1 := s.bedPut n b addr data
    if races = 0 then s1 else (s1.bumpBy (pgBed n b) 0x68 (s.plotPart n) races).raise (pgBed n b) 10 (s.plotPart n)
  | .dram addr => s.guardedWrite x.ctx addr data
  | .peer _ _ => s
  | .host addr => s.hostWriteAt x.ctx addr xlat data
  | .stream port => s.emit (Sent.stream port [data.length, leNat data])
  | .none => s.furrowFault k f 0x03

/-! ### Delivery (07 R165, R167) -/

/-- The cursor passes every tile whose bytes are all written. -/
def Furrow.pass (x : Furrow) : Nat → Furrow
  | 0 => x
  | fuel + 1 =>
    if x.cursor < fTiles x.desc ∧ fTileBytes x.desc ≤ SMap.get zeroUnlisted x.written x.cursor then
      Furrow.pass { x with cursor := x.cursor + 1, written := SMap.erase x.written x.cursor } fuel
    else x

/-- Bytes of a tile have been written: they are counted, and so is each tile delivered; the Plot's Sprouts see the cursor move
(05 R126). -/
def State.wrote (s : State) (k f tile len : Nat) : State :=
  let part := s.furrowPart k f
  let c0 := (s.furrow k f).cursor
  let s1 := s.modFurrow k f fun x =>
    let y := { x with written := SMap.modify zeroUnlisted x.written tile fun n => n + len }
    Furrow.pass y (y.written.length + 1)
  let c1 := (s1.furrow k f).cursor
  let s2 := (s1.bumpBy (pgIrg k) 0x90 part len).bumpBy (pgIrg k) 0x88 part (c1 - c0)
  if h : k < 8 then (if c0 < c1 then s2.cursorLine ⟨k, h⟩ f c0 c1 else s2) else s2

/-- Pieces of at most 64 bytes, none across a multiple of 64: what one tag of a DRAM channel carries (07 R173). -/
def cut64 : Nat → Piece → List Piece
  | 0, q => [q]
  | fuel + 1, q =>
    let n := 64 - q.dst % 64
    if q.data.length ≤ n then [q]
    else { q with data := q.data.take n } :: cut64 fuel { q with dst := q.dst + n, pos := q.pos + n, data := q.data.drop n }

/-- A write toward a target that takes tags. -/
def State.writeRequest (s : State) (k f : Nat) (pool : Pool) (q : Piece) (spill : Bool) : State :=
  s.newRequest { irg := k, furrow := f, pool := pool, tag := 0, gen := 0, data := some q.data, src := 0, dst := q.dst
                 len := q.data.length, tile := q.tile, ctx := (s.furrow k f).ctx, spill := spill, pos := q.pos }

/-- What breaks an address that an Irrigator forms for a Furrow: a store row outside the window, or DRAM outside the context's bounds
(07 R166, 06 R151, 01 R31). -/
def State.formedBad (s : State) (x : Furrow) (p : Place) (len : Nat) (write : Bool) : Bool :=
  match p with
  | .store n st row byte => (List.range (rowsOf byte len)).any fun i => (winRow s.gate.act n x.entry st (row + i) write).isNone
  | .dram addr => !s.dramOk (some x.ctx) addr len
  | _ => false

/-- An access outside bound stops the Furrow: its context faults as the store or DRAM has it (07 R166). -/
def State.formedFault (s : State) (k f : Nat) (p : Place) (len : Nat) (write : Bool) : State :=
  let x := s.furrow k f
  let s1 := s.modFurrow k f fun x => { x with st := .faulted }
  match p with
  | .store n st row byte =>
    match (List.range (rowsOf byte len)).find? fun i => (winRow s.gate.act n x.entry st (row + i) write).isNone with
    | some i => s1.oob n x.entry st (if write then irgWriteSlot st else irgReadSlot st) write (row + i)
    | none => s1
  | .dram addr =>
    (if sbaOk s.gate.act (addr - dramBase) len then s1 else s1.bump pgDdr 0x60 (some (s.partOf x.ctx))).faultCtx x.ctx 0x03
  | _ => s1

/-- Data in staging go to their destination: at once, or by requests that hold tags there. -/
def State.toDest (s : State) (k f : Nat) (q : Piece) (races : Nat) : State :=
  let x := s.furrow k f
  let p := s.dstPlace k x q.dst q.data.length
  let pool := s.poolOf p true
  if s.formedBad x p q.data.length true then s.formedFault k f p q.data.length true
  else if pool = 11 then
    ((s.placeWrite k f p q.data q.xlat races).modFurrow k f fun y => { y with streamed := y.streamed + q.data.length }).wrote k f q.tile
      q.data.length
  else
    match p with
    | .peer pos _ => if s.routeTo pos = none then s.furrowFault k f 0x16 else s.writeRequest k f pool q false
    | .dram _ => if s.inSba p then s.writeRequest k f pool q false else (cut64 (q.data.length / 64 + 1) q).foldl
          (fun t c => t.writeRequest k f (t.poolOf (t.dstPlace k x c.dst c.data.length) true) c false) s
    | _ => s.writeRequest k f pool q false

/-- Whether staged data may go on: credit allows their tile, and a stream takes them in visiting order (07 R164, R167). -/
def Furrow.ready (x : Furrow) (q : Piece) : Bool := x.mayWrite q.tile && (!fDkind x.desc || decide (q.pos = x.streamed))

/-- Every staged piece that may go on does. -/
def State.drainStage (s : State) (k f : Nat) : Nat → State
  | 0 => s
  | fuel + 1 =>
    let x := s.furrow k f
    match x.stage.find? x.ready with
    | none => s
    | some q => ((s.modFurrow k f fun y => { y with stage := y.stage.erase q }).toDest k f q 0).drainStage k f fuel

/-- Data that have come into staging: they go on where credit and order allow, and wait otherwise (07 R164, R167). -/
def State.arrive (s : State) (k f : Nat) (q : Piece) (races : Nat) : State :=
  if (s.furrow k f).ready q then
    let s1 := s.toDest k f q races
    if fDkind (s.furrow k f).desc then s1.drainStage k f (s1.furrow k f).stage.length else s1
  else s.modFurrow k f fun x => { x with stage := x.stage ++ [q] }

/-- A release of tiles: staged data whose tile the credit now allows go on; more than are delivered faults the context
(07 R167). -/
def State.releaseTiles (s : State) (k f n : Nat) : State :=
  let x := s.furrow k f
  if x.cursor < x.released + n then s.faultCtx x.ctx 0x0F
  else ((s.modFurrow k f fun x => { x with released := x.released + n }).drainStage k f x.stage.length).settleIrg k

/-! ### Watermarks, pins and pause frames (07 R183 to R185, 09 R235) -/

/-- A FIFO group. -/
def State.group (s : State) (g : Nat) : FifoGroup := SMap.get groupUnlisted s.irg.groups g

/-- Whether the rest of a packet that arrives in a FIFO group is to be discarded (07 R186). -/
def State.dropsRest (s : State) (g : Nat) : Bool := (s.group g).dropping

/-- The end of the packet has arrived: nothing more of it is discarded. -/
def State.restDropped (s : State) (g : Nat) : State :=
  { s with irg := { s.irg with groups := SMap.modify groupUnlisted s.irg.groups g fun x => { x with dropping := false } } }

/-- HI and LO of a group. -/
def State.wmHi (s : State) (g : Nat) : Nat := s.cfg (pgIrg 8) (0x300 + 4 * g) 0 12
/-- LO of a group. -/
def State.wmLo (s : State) (g : Nat) : Nat := s.cfg (pgIrg 8) (0x300 + 4 * g) 12 12

/-- Whether pin FC[p] is active: the OR of the ABOVE states it selects, while it is enabled (07 R184). -/
def State.fcActive (s : State) (p : Nat) : Bool :=
  s.flag (pgIrg 8) (0x404 + 8 * p) 17 && (List.range 46).any fun g =>
    (s.group g).above &&
      (if g < 32 then s.flag (pgIrg 8) (0x400 + 8 * p) g else s.flag (pgIrg 8) (0x404 + 8 * p) (g - 32))

/-- Level of pin FC[p]. -/
def State.fcLevel (s : State) (p : Nat) : Bool := if s.flag (pgIrg 8) (0x404 + 8 * p) 16 then !s.fcActive p else s.fcActive p

/-- Pin FC[p] follows; every change raises FC_CHANGE (07 R184). -/
def State.fcPin (s : State) (p : Nat) : State :=
  let now := s.fcLevel p
  if fieldOf s.irg.fc p 1 = bit now then s
  else (({ s with irg := { s.irg with fc := withField s.irg.fc p 1 (bit now) } }).emit (Sent.pin (.fc p) now)).raise (pgIrg 8)
    14 none

/-- The four pins follow. -/
def State.fcPins (s : State) : State := (List.range 4).foldl State.fcPin s

/-- A pause frame of a port, counted (09 R235). -/
def State.pauseFrame (s : State) (p : Nat) (on : Bool) : State :=
  let q := if on then s.cfg pgTrn (0x204 + 0x10 * p) 8 16 else 0
  let s1 := s.emit (Sent.pause p (s.cfg pgTrn (0x204 + 0x10 * p) 0 8) q)
  { s1 with irg := { s1.irg with
    pfcTx := SMap.modify zeroUnlisted s1.irg.pfcTx p fun n => min cntMax (n + 1)
    pfcAt := SMap.put zeroUnlisted s1.irg.pfcAt p s1.sdl.ref } }

/-- Whether an ingress group sends pause frames. -/
def State.pfcEn (s : State) (g : Nat) : Bool := decide (g < 16) && s.flag (pgIrg 8) (0x300 + 4 * g) 24

/-- The level of a group changes: ABOVE sets at HI and clears at LO, XOFF and XON follow, and the pins (07 R183 to R185). -/
def State.setLevel (s : State) (g level : Nat) : State :=
  let x := s.group g
  let above := if s.wmHi g ≤ level then true else if level ≤ s.wmLo g then false else x.above
  let s1 := { s with irg := { s.irg with
    groups := SMap.put groupUnlisted s.irg.groups g { x with level := level, above := above } } }
  let s2 := if s.pfcEn g ∧ above ≠ x.above then s1.pauseFrame g above else s1
  s2.fcPins

end Sys2Proof.Machine
end

