-- ==== Sys2Proof/Machine/Irrigator.lean ====
section
/-!
DEFINITION. The Irrigator's commands (07): starting Furrows, issuing and completing requests, timeouts, page faults, spill,
flow control.
-/

namespace Sys2Proof.Machine

open Sys2Proof

/-- FURROW_START (R163): loaded from the Plan at dispatch, or started by an OP entry; PARKED where PARK is set. A context that
holds no resident slot starts none. -/
def execFurrowStart (irg : Fin 9) (f : Nat) (c : Ctx) (entry : Fin 32) (desc : Nat) (carried : Bool) (s : State) :
    Host.Outcome State Fault Refusal :=
  .next (s.live fun s =>
    match (s.ctx c.val).slot with
    | none => s
    | some slot =>
      if (s.ctx c.val).live then
        ((s.modFurrow irg.val f fun _ =>
          { st := if fPark desc then .parked else .active
            ctx := c.val, entry := entry.val, slot := slot, desc := desc, carried := carried }).settleIrg irg.val).opDone c.val
              (if irg.val = 8 then 4 else 3) irg.val desc
      else s)

/-! ### Issue (R169, R170, R178, R179) -/

/-- Bytes of a Furrow's next request: what the target's tag carries, and whole groups where either side lies in the soft-buffer aperture
(R169, 18 R443; log 205). -/
def State.nextLen (s : State) (k : Nat) (x : Furrow) : Nat :=
  match x.spilled with
  | p :: _ => p.len
  | [] =>
    let r := x.next / fRun x.desc
    let o := x.next % fRun x.desc
    let n := if s.inSba (s.srcPlace k x (fSrcAt x.desc r o) 512) || s.inSba (s.dstPlace k x (fDstAt x.desc r o) 512) then 512
      else poolBytes (s.needPool k x)
    min n (fRun x.desc - o)

/-- Whether an Irrigator's staging can hold a Furrow's next request. -/
def State.stageRoom (s : State) (k : Nat) (x : Furrow) : Bool := decide (s.stagedBytes k + s.nextLen k x ≤ staging k)

/-- The asking Furrows of an Irrigator. -/
def State.asking (s : State) (k : Nat) : List (Nat × Furrow) := (s.irrigator k).furrows.filter fun e => s.asks k e.1 e.2

/-- Furrows that lack staging wait for it from now on; those that lack a tag alone wait for a tag. -/
def State.noteWaits (s : State) (k : Nat) : State :=
  (s.asking k).foldl
    (fun t e =>
      t.modFurrow k e.1 fun x =>
        if s.stageRoom k e.2 then
          { x with
            stageSince := none
            tagWait := !s.tagOk (s.needPool k e.2) k e.1 }
        else { x with stageSince := some (x.stageSince.getD s.sdl.ref) }) s

/-- The eligible Furrows of an Irrigator (R169). -/
def State.eligible (s : State) (k : Nat) : List (Nat × Furrow) :=
  (s.asking k).filter fun e => s.stageRoom k e.2 && s.tagOk (s.needPool k e.2) k e.1

/-- The rated Furrow with the smallest dry time, ties to the lower index. -/
def leastDry (l : List (Nat × Furrow)) : Option Nat :=
  ((l.filter fun e => decide (fRate e.2.desc ≠ 0)).foldl
    (fun b e => match b with
      | none => some e
      | some a => if e.2.dry < a.2.dry then some e else some a) none).map (·.1)

/-- The bulk Furrow that follows `p` in rotating index order. -/
def nextBulk (l : List (Nat × Furrow)) (p : Nat) : Option Nat :=
  let b := (l.filter fun e => decide (fRate e.2.desc = 0)).map (·.1)
  match b.find? fun i => decide (p < i) with
  | some i => some i
  | none => b.head?

/-- Which Furrow an issue serves (R169, R170). -/
def State.served (s : State) (k : Nat) : Option Nat :=
  let l := s.eligible k
  match nextBulk l (s.irrigator k).bulkPtr with
  | some b =>
    if leastDry l = none ∨ 2 ^ s.cfg (pgIrg k) 0x100 0 4 ≤ (s.irrigator k).sinceBulk + 1 then some b else leastDry l
  | none => leastDry l

/-- The page of a host access. -/
def pageOfBus (bus : Nat) : Nat := bus / 4096

/-- A page request for a Furrow, where fewer than 64 of its function are outstanding (17 R417). -/
def State.askPage (s : State) (k f : Nat) : State :=
  let x := s.furrow k f
  let fn := s.fnOf x.ctx
  match x.page with
  | some (g, _) =>
    if (s.fn fn).pri.length < 64 then
      ((((s.modFn fn fun y => { y with pri := y.pri ++ [g] }).modFurrow k f fun y =>
        { y with asked := true, page := some (g, s.sdl.ref) }).emit (Sent.ats fn [1, g])).bump (pgIrg k) 0x80
        (s.furrowPart k f)).raise (pgIrg k) 12 (s.furrowPart k f)
    else s
  | none => s

/-- A translation failed for a request in tile `j`: the Furrow waits for the page, and what is staged or in flight of tile
`j` and beyond is discarded (R179). -/
def State.pageFault (s : State) (k f page : Nat) : State :=
  let x := s.furrow k f
  let j := x.next / fTileBytes x.desc
  let s1 := s.modFurrow k f fun y =>
    { y with
      st := .pageWait
      next := j * fTileBytes y.desc
      written := y.written.filter fun e => decide (e.1 < j)
      streamed := min y.streamed (j * fTileBytes y.desc)
      tagWait := false
      stage := y.stage.filter fun q => decide (q.tile < j)
      page := some (page, s.sdl.ref)
      asked := false }
  let s2 := { s1 with irg := { s1.irg with
    requests := s1.irg.requests.map fun (r : Request) => if r.irg = k ∧ r.furrow = f ∧ j ≤ r.tile then { r with dead := true } else r } }
  s2.askPage k f

/-- Count an issue: the bulk rotation (R170). -/
def State.countIssue (s : State) (k f : Nat) : State :=
  let bulk := decide (fRate (s.furrow k f).desc = 0)
  s.modIrg k fun x =>
    { x with
      sinceBulk := if bulk then 0 else x.sinceBulk + 1
      bulkPtr := if bulk then f else x.bulkPtr }

/-- What an access to a host window that ATS translates comes to, for a Furrow (R178, R179): none where it may go on at once, else the
page that is missing. `xlat` is the page that the translation gave, none where it failed. -/
inductive Translated where
  | plain
  | page (g : Nat)
  | failed (page : Nat)
  | unmapped
deriving DecidableEq, Repr

/-- The translation of an access at a place. -/
def State.translate (s : State) (c : Nat) (p : Place) (len : Nat) (xlat : Option Nat) : Translated :=
  match p with
  | .host a =>
    match hostXlat s.gate.act (s.fnOf c) a len with
    | none => .unmapped
    | some (bus, ats) =>
      if ats then
        match xlat with
        | some g => .page g
        | none => .failed (pageOfBus bus)
      else .plain
  | _ => .plain

/-- The page that a translation gave. -/
def Translated.got : Translated → Option Nat
  | .page g => some g
  | _ => none

/-- A translation in use enters the function's address translation cache (17 R417). -/
def State.cacheXlat (s : State) (fn : Nat) (x : Translated) : State :=
  match x with
  | .page g => s.modFn fn fun y => if g ∈ y.atc then y else { y with atc := (g :: y.atc).take 1024 }
  | _ => s

/-- One request of a Furrow (R173): `xlat` and `dxlat` are the pages that ATS translations gave for its source and its destination, none
where one failed. A real-time Furrow takes no translated window (R178). -/
def State.issueFurrow (s : State) (k f : Nat) (xlat dxlat : Option Nat) : State :=
  let x := s.furrow k f
  let n := s.nextLen k x
  match x.spilled with
  | p :: rest =>
    (s.modFurrow k f fun y => { y with spilled := rest, tagWait := false }).newRequest
      { irg := k, furrow := f, pool := s.needPool k x, tag := 0, gen := 0, src := p.addr, dst := p.dst, len := n, tile := p.tile
        ctx := x.ctx, spill := true, pos := p.pos, dxlat := p.xlat }
  | [] =>
    let r := x.next / fRun x.desc
    let o := x.next % fRun x.desc
    let src := fSrcAt x.desc r o
    let dst := fDstAt x.desc r o
    let place := s.srcPlace k x src n
    let fn := s.fnOf x.ctx
    let a := s.translate x.ctx place n xlat
    let b := s.translate x.ctx (s.dstPlace k x dst n) n dxlat
    let req : Request :=
      { irg := k, furrow := f, pool := s.poolOf place false, tag := 0, gen := 0, src := src, dst := dst, len := n
        tile := x.next / fTileBytes x.desc, ctx := x.ctx, fn := fn, xlat := a.got, pos := x.next, dxlat := b.got }
    let go (t : State) : State :=
      (t.modFurrow k f fun y => { y with next := y.next + n, tagWait := false }).newRequest req
    if s.formedBad x place n false then s.formedFault k f place n false
    else
      match place, a, b with
      | .none, _, _ => s.furrowFault k f 0x03
      | _, .unmapped, _ => s.furrowFault k f 0x03
      | _, _, .unmapped => s.furrowFault k f 0x03
      | .peer pos _, .plain, .plain => if s.routeTo pos = none then s.furrowFault k f 0x16 else go s
      | _, .plain, .plain => go s
      | _, _, _ =>
        if fRt x.desc then s.furrowFault k f 0x05
        else
          match a, b with
          | .failed g, _ => s.pageFault k f g
          | _, .failed g => s.pageFault k f g
          | _, _ => go ((s.cacheXlat fn a).cacheXlat fn b)

/-- Whether an issue sends toward the host: a read request, or a write without a tag. -/
def State.towardHost (s : State) (k f : Nat) : Bool :=
  let x := s.furrow k f
  let host (p : Place) : Bool := match p with
    | .host _ => true
    | _ => false
  decide (x.spilled = []) &&
    (host (s.srcPlace k x (fSrcAt x.desc (x.next / fRun x.desc) (x.next % fRun x.desc)) 4) ||
      host (s.dstPlace k x (fDstAt x.desc (x.next / fRun x.desc) (x.next % fRun x.desc)) 4))

/-- IRRIGATOR_ISSUE (R169): one request of the Furrow served; a request that had waited for a tag is counted (R174). `level` is the
level of the FIFO toward the host that an issue toward the host leaves (R182). -/
def execIrrigatorIssue (irg : Fin 9) (xlat dxlat : Option Nat) (level t : Nat) (s : State) : Host.Outcome State Fault Refusal :=
  .next (s.live fun s0 =>
    let k := irg.val
    let s := ((s0.advance t).settleIrg k).noteWaits k
    match s.served k with
    | none => s.settleIrg k
    | some f =>
      let waited := (s0.furrow k f).tagWait
      let s1 := if waited then s.bump (pgIrg k) 0x98 (s.furrowPart k f) else s
      let s2 := ((s1.countIssue k f).issueFurrow k f xlat dxlat).settleIrg k
      if s.towardHost k f then s2.setLevel 37 level else s2)

/-! ### Completion (R173, R174, R178) -/

/-- A request in flight by its pool and tag. -/
def State.request? (s : State) (p : Pool) (tag : Nat) : Option Request :=
  (s.holders p).find? fun r => decide (r.tag = tag)

/-- The tag is freed. -/
def State.dropRequest (s : State) (r : Request) : State :=
  { s with irg := { s.irg with requests := s.irg.requests.filter fun q => decide (q ≠ r) } }

/-- A completion arrives: `arrived` is what came back, none for an error. -/
def State.complete (s : State) (r : Request) (arrived : Option (List (BitVec 8))) (races : Nat) : State :=
  let s1 := s.dropRequest r
  let k := r.irg
  let f := r.furrow
  let x := s1.furrow k f
  let s2 :=
    if r.dead then s1
    else
      match r.data with
      | some d =>
        if arrived = none ∧ r.pool ≥ 9 then s1
        else if r.spill then s1.dramWrite none r.dst d
        else (s1.placeWrite k f (s1.dstPlace k x r.dst r.len) d r.dxlat races).wrote k f r.tile r.len
      | none =>
        let a := if r.spill then s1.dramRead none r.src r.len
          else s1.placeRead k f (s1.srcPlace k x r.src r.len) r.pos r.len (arrived.map fun d => natLe r.len (leNat d))
        match a.1 with
        | some d => a.2.arrive k f { tile := r.tile, dst := r.dst, data := d, pos := r.pos, xlat := r.dxlat } races
        | none => if r.pool = 0 then a.2.furrowFault k f (if fRt x.desc then 0x05 else 0x04) else a.2
  (s2.grantWaiting r.pool).settleIrg k

/-- REQUEST_COMPLETION (R173): by pool, tag and generation; `data` is what a host read or a stream brought, none for an error
completion; `level` is the level of the return FIFO that the completion leaves. A stale generation is dropped (R174). -/
def execRequestCompletion (irg : Fin 9) (pool : Fin 12) (tag : Nat) (gen : Fin 16) (data : Option (List (BitVec 8)))
    (races level t : Nat) (s : State) : Host.Outcome State Fault Refusal :=
  .next (s.live fun s0 =>
    let s1 := s0.advance t
    let s := if pool.val = 0 then s1.setLevel 36 level
      else if pool.val ≤ 8 then s1.setLevel (37 + pool.val) level else s1
    match s.request? pool.val tag with
    | some r =>
      if r.gen = gen.val ∧ r.irg = irg.val then s.complete r data races
      else (s.bump (pgIrg irg.val) 0x78 none).raise (pgIrg irg.val) 13 none
    | none =>
      if s.gen pool.val tag = gen.val then s else (s.bump (pgIrg irg.val) 0x78 none).raise (pgIrg irg.val) 13 none)

/-! ### Timeouts (R175, R292) -/

/-- The limit of a request, in units of the free-running reference. -/
def State.limitOf (s : State) (r : Request) : Nat :=
  if r.pool = 0 then (if fRt (s.furrow r.irg r.furrow).desc then 30000 else 50000000) * nsRef
  else if r.pool ≤ 8 then 4000 * nsRef
  else 5000 * nsRef

/-- Counter of a target's timeouts. -/
def tmoCnt (p : Pool) : Nat := if p = 0 then 0x70 else if p ≤ 8 then 0x60 else 0x68

/-- A cancelled request is issued again under a new tag. -/
def State.reissue (s : State) (r : Request) : State := s.newRequest { r with reissued := true, notRes := false }

/-- A pre-emption proceeds in place of a ring request: its tasks start again from their last PPT (11 R292). -/
def State.preemptRing (s : State) (c : Nat) : State :=
  ((s.modCtx c fun x =>
    { x with steps := x.steps.map fun y =>
      { y with tasks := y.tasks.map fun z => if z.ringWait then { z with restart := true, ringWait := false } else z } }).bump
    pgRms 0x60 (some (s.partOf c))).raise pgRms 11 (some (s.partOf c))

/-- REQUEST_TIMEOUT (R175); at throttle level 2 no timer runs for a non-real-time context (19 R462). -/
def execRequestTimeout (pool : Fin 11) (tag t : Nat) (s : State) : Host.Outcome State Fault Refusal :=
  .next (s.live fun s0 =>
    let s := s0.advance t
    match s.request? pool.val tag with
    | none => s
    | some r =>
      if r.issued + s.limitOf r < s.sdl.ref ∧ ¬ (2 ≤ s.level ∧ s.realTime r.ctx = false) then
        let part := some (s.partOf r.ctx)
        let s1 := ((s.reclaim r).bump (pgIrg r.irg) (tmoCnt r.pool) part).raise (pgIrg r.irg) 11 part
        let s2 :=
          if r.dead then s1
          else if r.pool = 0 then s1.furrowLimit r.irg r.furrow
          else if 9 ≤ r.pool ∧ (s1.ctx r.ctx).preempting then s1.preemptRing r.ctx
          else if r.reissued then s1.furrowLimit r.irg r.furrow
          else s1.reissue r
        (s2.grantWaiting r.pool).settleIrg r.irg
      else s)

/-! ### Page requests and invalidations (R179, 17 R417) -/

/-- A page request of a function that waits is sent. -/
def State.nextPage (s : State) (fn : Nat) : State :=
  match (List.range 9).findSome? fun k =>
      (List.find? (fun (e : Nat × Furrow) =>
        decide (e.2.st = .pageWait) && !e.2.asked && decide (s.fnOf e.2.ctx = fn)) (s.irrigator k).furrows).map fun e =>
          (k, e.1) with
  | some (k, f) => s.askPage k f
  | none => s

/-- PAGE_RESPONSE (R179): `ok` is the response; one that comes later than 50 ms after the request, or none by then, is a
failure. -/
def execPageResponse (irg : Fin 9) (f : Nat) (ok : Bool) (t : Nat) (s : State) : Host.Outcome State Fault Refusal :=
  .next (s.live fun s0 =>
    let s := s0.advance t
    let x := s.furrow irg.val f
    match x.page with
    | some (g, at') =>
      if x.st = .pageWait ∧ x.asked then
        let fn := s.fnOf x.ctx
        let s1 := s.modFn fn fun y => { y with pri := y.pri.erase g }
        let s2 := s1.modFurrow irg.val f fun y => { y with page := none, asked := false, st := .active }
        let s3 := if ok ∧ s.reached (at' + 50000000 * nsRef + 1) = false then s2 else s2.furrowFault irg.val f 0x06
        (s3.nextPage fn).settleIrg irg.val
      else s
    | none => s)

/-- ATS_INVALIDATION (R417): completed once no request issued under the translation is in flight. -/
def execAtsInvalidation (fn : Fin 9) (page : Nat) (s : State) : Host.Outcome State Fault Refusal :=
  .next (s.live fun s =>
    if s.irg.requests.any fun r => decide (r.fn = fn.val ∧ r.xlat = some page) then s
    else ((s.modFn fn.val fun y => { y with atc := y.atc.filter fun g => decide (g ≠ page) }).emit
      (Sent.ats fn.val [2, page])).bump pgHst 0x70 (if fn.val = 0 then none else vfPart s.gate.act fn.val))

/-! ### Buffer-wait cycles (R180, R181) -/

/-- Bytes that a Furrow has staged. -/
def Furrow.stagedLen (x : Furrow) : Nat := (x.stage.map (·.data.length)).sum

/-- SHARE of a context (11 R303). -/
def State.shareOf (s : State) (c : Nat) : Nat := s.cfg pgRms (ctxOff c) 10 10

/-- Whether Furrow `a` is the victim rather than `b`: lower weight of its context, lower SHARE, higher index (R181). -/
def State.victimBefore (s : State) (a b : Nat × Furrow) : Bool :=
  let wa := s.shareOf a.2.ctx
  let wb := s.shareOf b.2.ctx
  let sa := fShare a.2.desc
  let sb := fShare b.2.desc
  decide (wa < wb ∨ (wa = wb ∧ (sa < sb ∨ (sa = sb ∧ b.1 < a.1))))

/-- The victim of a cycle. -/
def State.victim (s : State) (k : Nat) : Option (Nat × Furrow) :=
  ((s.irrigator k).furrows.filter fun e => decide (e.2.st = .creditWait ∧ e.2.stage ≠ [])).foldl
    (fun b e => match b with
      | none => some e
      | some a => if s.victimBefore e a then some e else some a) none

/-- Write staged pieces to the spill area, in order, each by requests that hold DRAM tags (R181). -/
def State.spillPieces (s : State) (k f : Nat) : Nat → List Piece → State
  | _, [] => s
  | a, q :: qs =>
    ((cut64 (q.data.length / 64 + 1) { q with dst := a }).foldl
      (fun (t : State) c =>
        (t.writeRequest k f (1 + t.ddr.channel (c.dst - dramBase)) c true).modFurrow k f fun x =>
          { x with spilled := x.spilled ++
            [{ tile := q.tile, dst := q.dst + (c.dst - a), addr := c.dst, len := c.data.length, pos := c.pos, xlat := q.xlat }] })
      s).spillPieces k f (a + q.data.length) qs

/-- BUFFER_WAIT_CYCLE (R180): 2 µs of waiting for staging while only Furrows in CREDIT_WAIT hold any. -/
def execBufferWaitCycle (irg : Fin 9) (t : Nat) (s : State) : Host.Outcome State Fault Refusal :=
  .next (s.live fun s0 =>
    let s := s0.advance t
    let k := irg.val
    let long (x : Option Nat) : Bool := match x with
      | some a => decide (a + 2000 * nsRef ≤ s.sdl.ref)
      | none => false
    if long (s.irrigator k).creditOnly ∧ ((s.irrigator k).furrows.any fun e => long e.2.stageSince) then
      match s.victim k with
      | none => s
      | some (f, x) =>
        let part := some (s.partOf x.ctx)
        let s1 := (s.bump (pgIrg k) 0x50 part).raise (pgIrg k) 10 part
        let base := s.cfg (pgIrg 8) (0x200 + 8 * x.slot) 0 24 * 4096
        let size := s.cfg (pgIrg 8) (0x204 + 8 * x.slot) 0 24 * 4096
        if s.flag (pgIrg k) 0x100 4 ∧ x.stagedLen ≤ size then
          let tiles := ((x.stage.map (·.tile)).eraseDups).length
          let s2 := (s1.modFurrow k f fun y => { y with stage := [] }).spillPieces k f (dramBase + base) x.stage
          (s2.bumpBy (pgIrg k) 0x58 part tiles).settleIrg k
        else s1.furrowFault k f 0x07
    else s)

/-! ### Flow control (R185, R186) and host credit (17 R419) -/

/-- PFC_REFRESH (R235): XOFF is repeated every PFC_REFRESH_US while ABOVE holds. -/
def execPfcRefresh (port : Fin 16) (t : Nat) (s : State) : Host.Outcome State Fault Refusal :=
  .next (s.live fun s0 =>
    let s := s0.advance t
    let p := port.val
    if (s.group p).above = true ∧ s.pfcEn p = true ∧
        SMap.get zeroUnlisted s.irg.pfcAt p + s.cfg pgTrn (0x208 + 0x10 * p) 0 10 * (1000 * nsRef) ≤ s.sdl.ref then
      s.pauseFrame p true
    else s)

/-- DROP_REST (R186): `packet` is the packet in progress, none where the consumer is in none: how many of its entries the
FIFO holds, and whether its end entry is among them; `level` is the level before. -/
def execDropRest (group : Fin 36) (level : Nat) (packet : Option (Nat × Bool)) (s : State) :
    Host.Outcome State Fault Refusal :=
  .next (s.live fun s =>
    match packet with
    | none => s.bump (pgIrg 8) 0xA8 none
    | some (left, endIn) =>
      let s1 := (s.bump (pgIrg 8) 0xA0 none).setLevel group.val (level - left)
      { s1 with irg := { s1.irg with
        groups := SMap.modify groupUnlisted s1.irg.groups group.val fun x =>
          { x with dropping := !endIn && decide (group.val < 16 ∨ group.val = 32 ∨ group.val = 33) } } })

/-- HOST_WRITE_CREDIT_TIMEOUT (R419): how long a Furrow's host write has waited for credit, in ns. -/
def execHostWriteCreditTimeout (irg : Fin 9) (f waited : Nat) (s : State) : Host.Outcome State Fault Refusal :=
  .next (s.live fun s =>
    let x := s.furrow irg.val f
    let s1 := if 1000 < waited then s.bump pgHst 0x68 (some (s.partOf x.ctx)) else s
    if fRt x.desc ∧ 30000 ≤ waited then s1.furrowLimit irg.val f else s1)

/-- IRG_FRW_Q (R187): the Furrow that the state registers then report; 24 to 63 are reserved in a Plot's page. -/
def execIrgFrwQ (v : View) (irg : Fin 9) (x : Word) (s : State) : Host.Outcome State Fault Refusal :=
  .next (s.live fun s =>
    s.commanded v (pgIrg irg.val) (!isVf v || (decide (irg.val < 8) && viewSeesPlot s.gate.act v irg.val)) fun s =>
      if irg.val < 8 ∧ 24 ≤ x.toNat % 64 then s.dropped v (pgIrg irg.val)
      else s.modIrg irg.val fun y => { y with query := SMap.put zeroUnlisted y.query v.no (x.toNat % 64) })

end Sys2Proof.Machine
end

