-- ==== Sys2Proof/Machine/Ring.lean ====
section
/-!
DEFINITION. The Peseif Ring's commands (14): link frames, training and loss, lane swaps, route-away, packets served and
answered.
-/

namespace Sys2Proof.Machine

open Sys2Proof

/-! ### Links (R341 to R345, R352) -/

/-- A port changes its state: LINK_CHANGE, and the routes follow (R341). -/
def State.portChange (s : State) (east : Bool) (f : RingPort → RingPort) : State :=
  let s1 := s.modPort east f
  let s2 := if (s.ring.port east).code ≠ (s1.ring.port east).code then s1.raise pgPsf 8 none else s1
  s2.reroute

/-- The state of a port without a link: it trains while PSF_CFG.EN is 1 (R343). -/
def State.unlinked (s : State) : PortState := if s.flag pgPsf 0x100 0 ∧ s.ringN ≠ 1 then .training else .down

/-- A link retrains: every frame held for resending is discarded (R344). -/
def State.retrain (s : State) (east : Bool) : State :=
  ((s.bump pgPsf 0x50 none).raise pgPsf 10 none).portChange east fun p => { p with st := s.unlinked, hold := [], rate := 3 }

/-- An outgoing packet on its way through: it keeps its direction; where that port cannot carry it, its request is answered
UNREACHABLE (R346, R350). -/
def State.forward (s : State) (east : Bool) (bytes : List (BitVec 8)) : State :=
  let h := leNat (bytes.take 32)
  if (s.ring.port east).cost ≠ 0 then
    let fs := frameCut bytes.length bytes
    ((s.bumpBy pgPsf 0x88 none bytes.length).emit (Sent.ring (bit (!east)) [bytes.length, leNat bytes])).modPort east fun p =>
      { p with
        hold := p.hold ++ frameSeq p.txSeq fs
        txSeq := (p.txSeq + fs.length) % 4096
        ackAt := if p.hold = [] then s.sdl.ref else p.ackAt }
  else if fieldOf h 0 4 = 3 then s
  else
    s.launch (!east) (natLe 32 (ringHeader 3 s.ringPos (fieldOf h 4 3) 0 0 (fieldOf h 24 6) (fieldOf h 30 1) (fieldOf h 32 8)
      (fieldOf h 40 4) 0 3 (fieldOf h 64 40) 0))

/-- Frames up to an acknowledged number leave the resend buffer. -/
def ackFrames (l : List LinkFrame) (a : Nat) : List LinkFrame :=
  if l.any fun f => decide (f.seq = a) then (l.dropWhile fun f => decide (f.seq ≠ a)).drop 1 else l

/-- Frames from a number onward are resent. -/
def resendFrames (l : List LinkFrame) (a : Nat) : List LinkFrame :=
  (l.takeWhile fun f => decide (f.seq ≠ a)) ++
    (l.dropWhile fun f => decide (f.seq ≠ a)).map fun f => { f with resent := f.resent + 1 }

/-- What a frame's control word says: an acknowledgement, or a negative one from which frames are resent. -/
def State.control (s : State) (east : Bool) (ack : Nat) (nack : Bool) : State :=
  let p := s.ring.port east
  if nack then
    let l := p.hold.dropWhile fun f => decide (f.seq ≠ ack)
    let s1 := (s.bumpBy pgPsf 0x48 none l.length).modPort east fun q => { q with hold := resendFrames q.hold ack }
    l.foldl (fun t f => t.emit (Sent.ring (bit (!east)) [f.bytes.length, leNat f.bytes])) s1
  else s.modPort east fun q => { q with hold := ackFrames q.hold ack, ackAt := s.sdl.ref }

/-- RING_FRAME_RECEIVE (R344): a frame arrives on a port with its number, its control word, and the packets of it that go on
to other positions; the levels are those of the port's receive and transmit FIFOs (07 R182). The rest of a packet that was dropped goes
nowhere (07 R186). -/
def execRingFrameReceive (east crcOk : Bool) (seq ack : Nat) (nack : Bool) (onward : List (List (BitVec 8)))
    (rxLevel txLevel t : Nat) (s : State) : Host.Outcome State Fault Refusal :=
  .next (s.live fun s0 =>
    let s := ((s0.advance t).setLevel (32 + bit (!east)) rxLevel).setLevel (34 + bit (!east)) txLevel
    let p := s.ring.port east
    if p.st ≠ .up then s
    else if crcOk then
      let s1 := s.control east ack nack
      if seq = p.rxSeq then
        let s2 := (s1.modPort east fun q => { q with rxSeq := (q.rxSeq + 1) % 4096 }).emit (Sent.ring (bit (!east)) [0, seq, 0])
        let g := 32 + bit (!east)
        let s3 := if s2.dropsRest g then s2.restDropped g else s2
        (if s2.dropsRest g then onward.drop 1 else onward).foldl (fun t b => t.forward (!east) b) s3
      else s1
    else (s.bump pgPsf 0x40 none).emit (Sent.ring (bit (!east)) [0, p.rxSeq, 1]))

/-- RING_ACK_TIMEOUT (R344): 10 µs without acknowledgement, or a frame resent 8 times. -/
def execRingAckTimeout (east : Bool) (t : Nat) (s : State) : Host.Outcome State Fault Refusal :=
  .next (s.live fun s0 =>
    let s := s0.advance t
    let p := s.ring.port east
    if p.st = .up ∧ p.hold ≠ [] ∧
        (p.ackAt + 10000 * nsRef ≤ s.sdl.ref ∨ (p.hold.any fun f => decide (8 ≤ f.resent)) = true) then s.retrain east
    else s)

/-- RING_TRAIN_DONE (R343): training ends; the far end reports its position and size. A link elsewhere in the ring is known by
the positions of its two ends. -/
def execRingTrainDone (link : RingLink) (far : Fin 8) (size rate : Nat) (s : State) : Host.Outcome State Fault Refusal :=
  .next (s.live fun s =>
    let n := s.ringN
    let present (t : State) (k : Nat) : State := { t with ring := { t.ring with present := Nat.lor t.ring.present (2 ^ k) } }
    match link with
    | .own east =>
      let me := s.ringPos
      let one := if east then (me + 1) % n else (me + n - 1) % n
      let two := if east then (me + 2) % n else (me + n - 2) % n
      if (s.ring.port east).st ≠ .training then s
      else if size = n - 1 ∧ far.val = one ∧ (rate = 0 ∨ rate = s.cfg pgPsf 0x100 1 1) then
        (present s far.val).portChange east fun p => { p with st := .up, far := far.val, rate := rate, rxSeq := 0, txSeq := 0 }
      else if size = n - 1 ∧ far.val = two ∧ two ≠ me ∧ two ≠ one ∧ rate = 2 then
        let s1 := present s far.val
        let s2 := { s1 with ring := { s1.ring with present := withField s1.ring.present one 1 0 } }
        s2.portChange east fun p => { p with st := .up, far := far.val, rate := rate, rxSeq := 0, txSeq := 0 }
      else s.raise pgPsf 9 none
    | .other w =>
      let skip := decide (far.val = (w.val + 2) % n ∧ 2 < n)
      let s1 := present (present s w.val) far.val
      ({ s1 with ring := { s1.ring with
        links := SMap.put zeroUnlisted s1.ring.links w.val (rateCost rate + 8 * bit skip) } }).reroute)

/-- RING_LINK_LOSS (R341): a link goes down, or its port elsewhere goes into route-away. -/
def execRingLinkLoss (link : RingLink) (s : State) : Host.Outcome State Fault Refusal :=
  .next (s.live fun s =>
    match link with
    | .own east => s.portChange east fun p => { p with st := s.unlinked, hold := [], rate := 3 }
    | .other w => ({ s with ring := { s.ring with links := SMap.put zeroUnlisted s.ring.links w.val 0 } }).reroute)

/-- LANE_SWAP (R345): the failed lane's bytes move to lane 8, which the sending device records in its PSF_LANE_MAP without a
commit; with the spare already in service the port retrains on four lanes. -/
def execLaneSwap (east : Bool) (lane : Fin 8) (s : State) : Host.Outcome State Fault Refusal :=
  .next (s.live fun s =>
    let off := 0x110 + 4 * bit (!east)
    if s.flag pgPsf off 3 then
      if s.cfg pgPsf off 0 3 = lane.val then s
      else
        (((s.retrain east).modPort east fun p => { p with x4 := true }).raise pgPsf 14 none).record pgPsf 33 [bit (!east), lane.val]
    else
      { s with gate := { s.gate with
        act := SMap.put actUnlisted s.gate.act (regAddr pgPsf off) (BitVec.ofNat 32 (lane.val + 8)) } })

/-- ROUTE_AWAY (R352): the port launches nothing new until a RESUME. -/
def execRouteAway (v : View) (east : Bool) (s : State) : Host.Outcome State Fault Refusal :=
  .next (s.live fun s =>
    s.commanded v pgPsf (!isVf v) fun s => s.portChange east fun p => { p with away := true, awayOwed := true })

/-- RESUME (R352). -/
def execResume (v : View) (east : Bool) (s : State) : Host.Outcome State Fault Refusal :=
  .next (s.live fun s =>
    s.commanded v pgPsf (!isVf v) fun s => s.portChange east fun p => { p with away := false, awayOwed := false })

/-- ROUTE_AWAY_DONE (R352): the resend buffer is empty, or the link is down. -/
def execRouteAwayDone (east : Bool) (s : State) : Host.Outcome State Fault Refusal :=
  .next (s.live fun s =>
    let p := s.ring.port east
    if p.awayOwed = true ∧ (p.hold = [] ∨ p.st ≠ .up) then
      (s.modPort east fun q => { q with awayOwed := false }).raise pgPsf 12 none
    else s)

/-! ### Packets (R346 to R350) -/

/-- Whether a counter has been accepted before or lies below the window of 1,024 (R347). -/
def Replay.old (x : Replay) (n : Nat) : Bool :=
  x.any && decide (n ≤ x.top) && (decide (n + 1024 < x.top) || decide (n = x.top) || decide (n ∈ x.seen))

/-- A counter accepted. -/
def Replay.accept (x : Replay) (n : Nat) : Replay :=
  if x.any = false then { top := n, any := true, seen := [] }
  else if x.top < n then { top := n, any := true, seen := (x.top :: x.seen).filter fun k => decide (n ≤ k + 1024) }
  else { x with seen := n :: x.seen }

/-- What the receiver makes of a packet's protection: none where it is dropped; else whether its key slot is enabled, and the
data. -/
def State.openPacket (s : State) (h : Nat) (body : List (BitVec 8)) : Option (Bool × List (BitVec 8)) × State :=
  if fieldOf h 11 1 = 0 then (some (true, body), s)
  else
    let slot := fieldOf h 16 6
    let src := fieldOf h 4 3
    let n := fieldOf h 192 64
    match s.slotKey slot with
    | none => (some (false, []), s)
    | some key =>
      match Config.gcmOpen key (ringIv src (fieldOf h 8 3) slot n) (natLe 32 h) body with
      | none => (none, (s.bump pgPsf 0x58 none).raise pgPsf 11 none)
      | some d =>
        let w := SMap.get replayUnlisted s.ring.rx (src * 64 + slot)
        if w.old n then (none, (s.bump pgPsf 0x60 none).raise pgPsf 11 none)
        else (some (true, d), { s with ring := { s.ring with
          rx := SMap.put replayUnlisted s.ring.rx (src * 64 + slot) (w.accept n) } })

/-- Whether a packet is one that the partition of its context accepts (R348). -/
def State.packetOk (s : State) (h c : Nat) : Bool :=
  let part := s.partOf c
  if fieldOf h 11 1 = 1 then
    decide (s.cfg pgPsf (0x300 + 4 * fieldOf h 16 6) 0 1 = 1 ∧ s.cfg pgPsf (0x300 + 4 * fieldOf h 16 6) 1 3 = part)
  else decide (s.cfg pgPsf (0x200 + 0x10 * part) 0 1 = 0)

/-- The place that a packet reaches, where R349 lets it: an ACTIVE window entry of the context with the rows in bound, a
Sprout or Bed memory of a Plot on which the context has one, or the partition's aperture. -/
def State.packetPlace (s : State) (h c e len : Nat) (write : Bool) : Option Place :=
  match peerLocal s.gate.act (s.partOf c) (fieldOf h 64 40) len with
  | none => none
  | some a =>
    let own (n : Nat) : Bool := winEn s.gate.act n e && decide (winCtx s.gate.act n e = c)
    match s.ownPlace a with
    | .store n st row byte =>
      if own n ∧ (winRow s.gate.act n e st row write).isSome ∧
          (winRow s.gate.act n e st (row + rowsOf byte len - 1) write).isSome then some (.store n st row byte)
      else none
    | .sprout i off => if own i.plot.val then some (.sprout i off) else none
    | .bed n b x => if own n then some (.bed n b x) else none
    | .dram x => if s.dramOk (some c) x len then some (.dram x) else none
    | _ => none

/-- A response to a request's sender (R350). -/
def State.respond (s : State) (h status : Nat) (data : List (BitVec 8)) : State :=
  (s.sendPacket (fieldOf h 4 3) 3 (s.partOf (fieldOf h 24 6)) (fieldOf h 24 6) (fieldOf h 30 1) (fieldOf h 32 8)
    (fieldOf h 40 4) (data.length - 1) status (fieldOf h 64 40) data).getD s

/-- A request packet that reaches its destination: dropped, answered NOT_RESIDENT or DENIED, or served at its place. -/
def State.serveRing (s : State) (h : Nat) (body : List (BitVec 8)) (write : Bool)
    (f : Place → Nat → List (BitVec 8) → State → State) : State :=
  let o := (s.bumpBy pgPsf 0x80 none (32 + body.length)).openPacket h body
  match o.1 with
  | none => o.2
  | some (keyed, d) =>
    let c := fieldOf h 24 6
    match (o.2.ctx c).slot with
    | none => (o.2.bump pgPsf 0x70 none).respond h 1 []
    | some slot =>
      let e := 2 * slot + fieldOf h 30 1
      match o.2.packetPlace h c e (fieldOf h 48 8 + 1) write with
      | some p => if keyed ∧ o.2.packetOk h c then f p e d o.2 else (o.2.bump pgPsf 0x68 none).respond h 2 []
      | none => (o.2.bump pgPsf 0x68 none).respond h 2 []

/-- RING_READ (R349). A read that an uncorrectable error leaves without data is not answered (log 41). -/
def execRingRead (h : Nat) (body : List (BitVec 8)) (s : State) : Host.Outcome State Fault Refusal :=
  .next (s.live fun s =>
    s.serveRing h body false fun p e _ s =>
      let len := fieldOf h 48 8 + 1
      let c := fieldOf h 24 6
      let a := match p with
        | .store n st row byte => s.storeBytes n e st (irgReadSlot st) row byte len
        | .sprout i off => s.sproutBytes i off len
        | .bed _ _ x => (s.bedBytes x len, s)
        | .dram x => s.dramRead (some c) x len
        | _ => (none, s)
      match a.1 with
      | some d => a.2.respond h 0 d
      | none => a.2)

/-- RING_WRITE (R349). -/
def execRingWrite (h : Nat) (body : List (BitVec 8)) (s : State) : Host.Outcome State Fault Refusal :=
  .next (s.live fun s =>
    s.serveRing h body true fun p e d0 s =>
      let d := natLe (fieldOf h 48 8 + 1) (leNat d0)
      let c := fieldOf h 24 6
      let s1 := match p with
        | .store n st row byte => s.storePut n e st (irgWriteSlot st) row byte d
        | .sprout i off => s.sproutPut i off d
        | .bed n b x => s.bedPut n b x d
        | .dram x => (s.dramWrite (some c) x d).wsetTouch (x - dramBase) d.length
        | _ => s
      s1.respond h 0 [])

/-- RING_RESP (R350): by the port it came in on, whose pool holds its tag. -/
def execRingResp (east : Bool) (h : Nat) (body : List (BitVec 8)) (t : Nat) (s : State) : Host.Outcome State Fault Refusal :=
  .next (s.live fun s0 =>
    let o := ((s0.advance t).bumpBy pgPsf 0x80 none (32 + body.length)).openPacket h body
    let pool := if east then 9 else 10
    match o.1 with
    | none => o.2
    | some (_, d) =>
      match o.2.request? pool (fieldOf h 32 8) with
      | none => o.2
      | some r =>
        if r.gen ≠ fieldOf h 40 4 then (o.2.bump (pgIrg r.irg) 0x78 none).raise (pgIrg r.irg) 13 none
        else if o.2.packetOk h r.ctx = false then o.2
        else
          let s := o.2
          match fieldOf h 56 3 with
          | 0 => s.complete r (some d) 0
          | 1 =>
            { s with irg := { s.irg with
              requests := s.irg.requests.map fun (q : Request) => if q = r then { q with notRes := true } else q } }
          | k =>
            let s1 := s.dropRequest r
            ((if r.dead then s1 else s1.furrowFault r.irg r.furrow (if k = 2 then 0x17 else 0x16)).grantWaiting pool).settleIrg r.irg)

/-- NOT_RESIDENT_RESEND (R350): 1 µs after it was last sent, under the same tag. -/
def execNotResidentResend (east : Bool) (tag : Fin 256) (t : Nat) (s : State) : Host.Outcome State Fault Refusal :=
  .next (s.live fun s0 =>
    let s := s0.advance t
    match s.request? (if east then 9 else 10) tag.val with
    | none => s
    | some r =>
      if r.notRes = true ∧ r.sentAt + 1000 * nsRef ≤ s.sdl.ref then
        let q := { r with notRes := false, sentAt := s.sdl.ref }
        ({ s with irg := { s.irg with
          requests := s.irg.requests.map fun (x : Request) => if x = r then q else x } }).send q
      else s)

end Sys2Proof.Machine
end

