-- ==== Sys2Proof/Machine/RmsOps.lean ====
section
/-!
DEFINITION. What the Ringmaster, the Roster and Tightrope share (11): Plans, steps, slots and swaps, shares, records,
grants and the log.
-/

namespace Sys2Proof.Machine

open Sys2Proof

/-! ### A context's registers (11 R303, 12 R320, 13 R339) -/

/-- DIR of a context. -/
def State.dirOf (s : State) (c : Nat) : Nat := s.cfg pgRms (ctxOff c) 5 1
/-- MODE of a context: Roster mode. -/
def State.rosterMode (s : State) (c : Nat) : Bool := s.flag pgRms (ctxOff c) 4
/-- MU of a context. -/
def State.muOf (s : State) (c : Nat) : Nat := s.cfg pgRms (ctxOff c) 7 2
/-- NO_DESC of a context. -/
def State.noDesc (s : State) (c : Nat) : Bool := s.flag pgRms (ctxOff c) 9
/-- DEADLINE of a context, in µs. -/
def State.deadlineUs (s : State) (c : Nat) : Nat := s.cfg pgRms (ctxOff c) 20 12
/-- LIB_BASE of a context as a Trellis address. -/
def State.libBase (s : State) (c : Nat) : Nat := dramBase + s.cfg pgRms (ctxOff c + 4) 0 24 * 4096
/-- STANDING of a context. -/
def State.standing (s : State) (c : Nat) : Nat := s.cfg pgRms (ctxOff c + 4) 24 8
/-- Trellis address of a context's carried area. -/
def State.carryBase (s : State) (c : Nat) : Nat := dramBase + s.cfg pgRms (ctxOff c + 8) 0 24 * 4096
/-- Bytes of a context's carried area. -/
def State.carrySize (s : State) (c : Nat) : Nat := s.cfg pgRms (ctxOff c + 12) 0 16 * 4096
/-- STEP_OFS of a context, in units of 2^−16 ns. -/
def State.stepOfs (s : State) (c : Nat) : Int := signedOf 16 (s.cfg pgRms (ctxOff c + 12) 16 16) * (1000 * nsRef)

/-- A bit of a context in one of the paired registers of the RMS page. -/
def State.ctxBit (s : State) (off c : Nat) : Bool := s.flag pgRms (off + 4 * (c / 32)) (c % 32)

/-- Whether a context is a Greenhouse context (12 R306). -/
def State.isGh (s : State) (c : Nat) : Bool := s.ctxBit 0x608 c
/-- Whether a Greenhouse context is time-shared (12 R307). -/
def State.ghShared (s : State) (c : Nat) : Bool := s.isGh c && s.ctxBit 0x610 c
/-- RMS_GH_LIBSEL of a context (12 R316). -/
def State.libSel (s : State) (c : Nat) : Bool := s.ctxBit 0x618 c
/-- RMS_PROV_TAG of a context (13 R332). -/
def State.tagged (s : State) (c : Nat) : Bool := s.ctxBit 0x680 c
/-- RMS_PROV_LOCK of a context (13 R329). -/
def State.locked (s : State) (c : Nat) : Bool := s.ctxBit 0x688 c
/-- RMS_PROV_REPLAY of a context (13 R337). -/
def State.replays (s : State) (c : Nat) : Bool := s.ctxBit 0x690 c

/-- Whether Tightrope watches a context's steps: real-time ones, but neither Greenhouse nor replay (11, 12 R306, 13 R337). -/
def State.watched (s : State) (c : Nat) : Bool := s.realTime c && !s.isGh c && !s.replays c

/-! ### Plans (11 R274, R277, R278) -/

/-- Tasks of a Plan. -/
def planTasks (b : List (BitVec 8)) : Nat := planHdr b 8 8 + 1
/-- PLAN_ID. -/
def planId (b : List (BitVec 8)) : Nat := planHdr b 16 16
/-- REQ_PACE. -/
def planPace (b : List (BitVec 8)) : Nat := planHdr b 32 11
/-- WL_ROW. -/
def planWlRow (b : List (BitVec 8)) : Nat := planHdr b 64 19
/-- AST_ROW. -/
def planAstRow (b : List (BitVec 8)) : Nat := planHdr b 83 19
/-- NET_DL in µs. -/
def planNetDl (b : List (BitVec 8)) : Nat := planHdr b 102 12
/-- PLAN_BYTES. -/
def planBytes (b : List (BitVec 8)) : Nat := planHdr b 192 32
/-- PLAN_HASH. -/
def planHash (b : List (BitVec 8)) : Nat := planHdr b 384 128
/-- A task table entry. -/
def planTask (b : List (BitVec 8)) (i : Nat) : Nat := planNat b (planHdr b 128 32 + 16 * i) 16
/-- The standby mask of a Plot. -/
def planStandby (b : List (BitVec 8)) (n : Nat) : Nat := planNat b (planHdr b 160 32 + 2 * n) 2

/-- Bit `n` of the GRIDS of a library index entry. -/
def gridsOf (e : Nat) : List Nat := (List.range 32).filter fun g => decide (fieldOf e (96 + g) 1 = 1)

/-- A list of allocations: a 16-bit count and 12-bit SEG_IDs packed in 16 bits (11 R278). -/
def allocList (b : List (BitVec 8)) (o : Nat) : List Nat :=
  (List.range (planNat b o 2)).map fun i => planNat b (o + 2 + 2 * i) 2 % 4096

/-! ### Library entries (11 R275, R287; 16 R399; 12 R316) -/

/-- Whether a Plot can serve: neither RETIRING, nor Pruned, nor left out at start-up, and its five domains are ON
(16 R399, 19 R454). -/
def State.plotServes (s : State) (n : Nat) : Bool :=
  decide (fieldOf s.flt.retiring n 1 = 0 ∧ fieldOf s.flt.pruned n 1 = 0 ∧ fieldOf s.pwr.plotsOut n 1 = 0) &&
    (List.range 5).all fun k => decide (SMap.get zeroUnlisted s.pwr.dom (5 * n + k) = 1)

/-- A library entry of a context that a build may use: a Plan for the TH7100 runs only in lockstep-start mode (00 R9). -/
def State.libEntry (s : State) (c i : Nat) : Option LibEntry :=
  match SMap.find? (s.ctx c).lib i with
  | none => none
  | some e =>
    if ((planPlots e.plan).all fun n => s.plotServes n) ∧ (planHdr e.plan 4 4 = 2 → s.locked c = true) then some e else none

/-- The entry that a selection takes for index `i` (12 R316). -/
def State.selIndex (s : State) (c i : Nat) : Nat := if s.libSel c ∧ i < 127 then i + 128 else i

/-! ### Steps -/

/-- A step of a context by its number. -/
def State.step? (s : State) (c n : Nat) : Option StepSt := (s.ctx c).steps.find? fun y => decide (y.n = n)

/-- Change a step. -/
def State.modStep (s : State) (c n : Nat) (f : StepSt → StepSt) : State :=
  s.modCtx c fun x => { x with steps := x.steps.map fun y => if y.n = n then f y else y }

/-- Whether a step is in flight. -/
def StepSt.flying (y : StepSt) : Bool := y.dispatched && !y.ended && !y.aborted

/-- Whether a context holds a resident slot and can be served. -/
def CtxSt.resident (x : CtxSt) : Bool := x.slot.isSome && decide (x.st = .idle ∨ x.st = .running ∨ x.st = .blocked)

/-- Device time of the boundary of the step whose slot is `k`, in units of 2^−16 ns (11 R280). -/
def State.boundaryOf (s : State) (c : Nat) (k : Int) : Int := s.slotStart (s.muOf c) k + s.stepOfs c

/-- Step number of a slot (17 R421). -/
def stepNo (k : Int) : Nat := (k % (2 ^ 32 : Int)).toNat

/-- One microsecond in the units of device time. -/
def usRef : Nat := 1000 * nsRef

/-! ### Harvest records of a step (17 R427 to R430) -/

/-- A time in ns as a partition's function sees it (17 R430). -/
def State.vfNs (s : State) (c : Nat) (x : Int) : Int :=
  if s.fnOf c = 0 then x else if 0 ≤ x then x / 1000 * 1000 else -((-x) / 1000 * 1000)

/-- Device time after a step's boundary, in ns, saturating in `w` bits. -/
def State.afterBoundary (s : State) (y : StepSt) (w : Nat) : Nat :=
  min (2 ^ w - 1) (((s.sdl.dev : Int) - y.boundary) / nsRef).toNat

/-- An ALLOC record of a grant without the results of a decode. -/
def State.allocRecord (s : State) (c : Nat) (y : StepSt) (g : Grant) (status : Nat) : Nat :=
  recCommon 0 status c (s.partOf c) y.n (planId y.plan) g.numflags + 2 ^ 17 * fieldOf g.item 0 12 + 2 ^ 29 * fieldOf g.item 12 5
    + 2 ^ 34 * fieldOf g.item 41 4 + 2 ^ 38 * fieldOf g.item 45 2 + 2 ^ 40 * (g.txCnt % 16) + 2 ^ 44 * fieldOf g.item 40 1
    + 2 ^ 45 * (g.ast % 256) + 2 ^ 128 * (g.hostTag % 2 ^ 64) + 2 ^ 360 * (g.sectionId % 4096) + 2 ^ 372 * fieldOf g.item 53 12

/-- The bits of an ALLOC record that the decode supplies. -/
def State.allocBits (s : State) (c : Nat) (a : AllocDone) : Nat :=
  2 ^ 192 * (a.dec % 2 ^ 37) + 2 ^ 232 * (a.nb % 256) + 2 ^ 240 * (a.nbValid % 256) + 2 ^ 248 * (a.sinrMin % 256)
    + 2 ^ 256 * (a.payloadAddr % 2 ^ 48) + 2 ^ 304 * (a.payloadLen % 2 ^ 24)
    + 2 ^ 328 * (s.vfNs c (min a.tDone (2 ^ 24 - 1) : Nat)).toNat + 2 ^ 352 * (a.nbLate % 256) + 2 ^ 384 * (a.pathMetric % 2 ^ 16)

/-- Push the record of one grant and mark it harvested. -/
def State.harvestGrant (s : State) (c n : Nat) (k x : Nat) : State :=
  (s.pushHarvest c x).modStep c n fun y =>
    { y with
      nAlloc := y.nAlloc + 1
      grants := y.grants.mapIdx fun i g => if i = k then { g with harvested := true } else g }

/-- Push a record of a status for every grant that is not harvested. -/
def State.harvestAll (s : State) (c n status : Nat) : State :=
  match s.step? c n with
  | none => s
  | some y =>
    (List.range y.grants.length).foldl
      (fun t k =>
        match y.grants[k]? with
        | some g => if g.harvested then t else t.harvestGrant c n k (s.allocRecord c y g (if g.admitted then status else g.status))
        | none => t) s

/-- The STEP record of a step (17 R429). -/
def State.stepRecord (s : State) (c : Nat) (y : StepSt) (status : Nat) : Nat :=
  let mu := s.muOf c
  let tEnd := s.vfNs c (s.afterBoundary y 24 : Nat)
  let margin := s.vfNs c (max (-(2 ^ 23)) (min (2 ^ 23 - 1) (y.marginMin / nsRef)))
  recCommon 1 status c (s.partOf c) (if s.isGh c then fieldOf (leNat (y.body.take 64)) 32 32 else y.n) (planId y.plan) y.numflags
    + (if fieldOf y.flags 0 1 = 1 then 2 ^ 128 * (y.tag % 2 ^ 128) else 0) + 2 ^ 256 * (y.flags % 2 ^ 16)
    + 2 ^ 272 * (frameIdOf y.slotK mu).toNat + 2 ^ 280 * (subframeOf y.slotK mu).toNat
    + 2 ^ 284 * (slotInFrameOf y.slotK mu % (2 ^ mu : Int)).toNat + 2 ^ 290 * (y.nAlloc % 4096) + 2 ^ 302 * (y.nFb % 4096)
    + 2 ^ 320 * tEnd.toNat + 2 ^ 344 * unsignedOf 24 margin

/-! ### Shares (11 R288, 12 R307, 13 R329) -/

/-- Key of a shared engine: Big Top `n`, Sieve 16 + `n`, Bed position 32 + 16 × Plot + position, Thresher position
160 + position; none for an Irrigator, which no rule shares so. -/
def engineKey (engine plot pos : Nat) : Option Nat :=
  if engine = 0 then some plot
  else if engine = 1 then some (16 + plot)
  else if engine = 2 then some (32 + 16 * plot + pos)
  else none

/-- The Plot of an engine, by key. -/
def enginePlot (e : Nat) : Nat := if e < 16 then e else if e < 32 then e - 16 else (e - 32) / 16

/-- Accounting class of an engine, by key (11 R290). -/
def engineClass (e : Nat) : Nat := if e < 16 then 0 else if e < 32 then 1 else if e < 160 then 2 else 3

/-- Whether a context has a task in flight on a Bed that has not ended. -/
def State.bedWorks (s : State) (c n b : Nat) : Bool :=
  (s.ctx c).steps.any fun y => y.flying && y.tasks.any fun z =>
    !z.done && decide (z.engine = 2 ∧ z.plot = n ∧ s.servingBed n z.pos = some b)

/-- The tasks of a context have left an idle Sprout, none of whose gather requests is outstanding: the Bed zeroes it (06 R159). -/
def State.leaveSprout (s : State) (i : SproutId) : State :=
  match (s.sprout i).ctx with
  | none => s
  | some c =>
    if (s.sprout i).st = .idle ∧ (s.sprout i).gathers = 0 ∧ (s.sprout i).frozen = false ∧
        s.bedWorks c i.plot.val i.bed.val = false then s.zeroSprout i
    else s

/-- The entry at which a task stands. -/
def TaskSt.entry (z : TaskSt) (b : List (BitVec 8)) : Nat := planNat b z.pc 16

/-- Whether a WAIT entry's signal has been raised often enough (11 R278). -/
def StepSt.waitMet (y : StepSt) (e : Nat) : Bool :=
  match y.tasks[fieldOf e 12 8]? with
  | some z => decide (fieldOf e 20 28 ≤ SMap.get zeroUnlisted z.signals (fieldOf e 4 8))
  | none => false

/-- Whether a task has an entry that can issue now. -/
def StepSt.canIssue (y : StepSt) (z : TaskSt) : Bool :=
  let e := z.entry y.plan
  y.flying && !z.done && !z.stopped && decide (z.op = none) && (decide (fieldOf e 0 4 ≠ 2) || y.waitMet e)

/-- Whether a Plot serves a lockstep context alone, another than `c` (13 R329). -/
def State.lockedOut (s : State) (c n : Nat) : Bool :=
  s.rms.ctx.any fun e => decide (e.1 ≠ c) && s.locked e.1 && e.2.steps.any fun y => y.flying && decide (n ∈ planPlots y.plan)

/-- Whether a resident slot has an entry for an engine that can issue now. -/
def State.slotReady (s : State) (e slot : Nat) : Bool :=
  match SMap.get zeroUnlisted s.rms.slot slot with
  | 0 => false
  | k + 1 =>
    !s.lockedOut k (enginePlot e) &&
      (s.ctx k).steps.any fun y => y.tasks.any fun z =>
        decide (engineKey z.engine z.plot z.pos = some e) && y.canIssue z

/-- Share of the context in a slot. -/
def State.slotShare (s : State) (slot : Nat) : Nat :=
  match SMap.get zeroUnlisted s.rms.slot slot with
  | 0 => 0
  | k + 1 => s.shareOf k

/-- Whether a slot's context is served only in the background tier (12 R307). -/
def State.slotBackground (s : State) (slot : Nat) : Bool :=
  match SMap.get zeroUnlisted s.rms.slot slot with
  | 0 => false
  | k + 1 => s.ghShared k

/-- Deficit of a slot at an engine. -/
def State.deficit (s : State) (e slot : Nat) : Int := SMap.get intUnlisted s.rms.deficit (16 * e + slot)

/-- Set a deficit, a signed 32-bit number. -/
def State.setDeficit (s : State) (e slot : Nat) (d : Int) : State :=
  { s with rms := { s.rms with
    deficit := SMap.put intUnlisted s.rms.deficit (16 * e + slot) (signedOf 32 (unsignedOf 32 d)) } }

/-- The choice of an engine over the slots of one tier (11 R288): the slot served, none where none is ready. -/
def State.chooseTier (e : Nat) (bg : Bool) : Nat → State → Option Nat × State
  | 0, s => (none, s)
  | fuel + 1, s =>
    let slot := SMap.get zeroUnlisted s.rms.ptr e
    let next (t : State) : State := { t with rms := { t.rms with ptr := SMap.put zeroUnlisted t.rms.ptr e ((slot + 1) % 16) } }
    let d := s.deficit e slot
    if s.slotBackground slot ≠ bg then State.chooseTier e bg fuel (next s)
    else if s.slotReady e slot then
      if 0 < d then (some slot, s)
      else State.chooseTier e bg fuel (next (s.setDeficit e slot (d + s.slotShare slot * s.cfg pgRms 0x100 0 12)))
    else State.chooseTier e bg fuel (next (if 0 < d then s.setDeficit e slot 0 else s))

/-- Turns of the pointer that suffice for a choice: every ready slot is topped up at each round. -/
def State.chooseFuel (s : State) (e : Nat) : Nat :=
  16 * (((List.range 16).map fun k => (1 - s.deficit e k).toNat).foldl max 0 + 2)

/-- The choice of an engine (11 R288, 12 R307): the background tier is served only where no other slot is ready. -/
def State.choose (s : State) (e : Nat) : Option Nat × State :=
  let tier (bg : Bool) (t : State) : Option Nat × State :=
    if (List.range 16).any fun k => t.slotReady e k && decide (t.slotBackground k = bg) then
      State.chooseTier e bg (t.chooseFuel e) t
    else (none, t)
  let a := tier false s
  match a.1 with
  | some k => (some k, a.2)
  | none => tier true a.2

/-- Steps spent on a context by an engine: its deficit falls and its accounting rises (11 R288, R290). -/
def State.charge (s : State) (c : Nat) (e : Option Nat) (steps : Nat) : State :=
  match e, (s.ctx c).slot with
  | some e, some slot =>
    (s.setDeficit e slot (s.deficit e slot - steps)).modCtx c fun x =>
      { x with acct := SMap.modify zeroUnlisted x.acct (engineClass e) fun a => (a + steps) % 2 ^ 64 }
  | _, _ => s

/-! ### What dispatch clears in a Sieve (02 R56; 04 R95) -/

/-- A Sieve's scale banks as a dispatch sets them: the active default file. -/
def State.defaultScales (s : State) (n : Nat) : SMap Word :=
  (List.range 256).foldl
    (fun m k => SMap.put scaleUnlisted m k (actW s.gate.act (regAddr ⟨.siv, n⟩ (0x400 + 4 * k)))) []

/-- A Sieve's vector registers zero, and both working scale banks at the default file. -/
def State.resetSieve (s : State) (n : Nat) : State :=
  let d := s.defaultScales n
  s.modPlot n fun p => { p with siv := { p.siv with v := [], scale0 := d, scale1 := d } }

/-! ### Resident slots (11 R271, R272, R291) -/

/-- Device time at which a resident's next step falls due, in units of 2^−16 ns: a non-real-time one's is not known and counts
as latest (log 42). -/
def State.nextDue (s : State) (c : Nat) : Int :=
  if s.realTime c then
    let lead := (leadUs s.gate.act c * usRef : Nat)
    let k := s.slotCount (s.muOf c) ((s.sdl.dev : Int) + lead - s.stepOfs c).toNat + 1
    s.boundaryOf c k - lead
  else 2 ^ 120

/-- Earliest deadline of a context's steps in flight. -/
def State.nextDeadline (s : State) (c : Nat) : Int :=
  if s.realTime c then
    ((s.ctx c).steps.filter (·.flying)).foldl (fun a y => min a (y.boundary + (s.deadlineUs c * usRef : Nat))) (2 ^ 120)
  else 2 ^ 120

/-- Whether `a` is swapped out rather than `b` by a time: the later, then the lower share, then the higher number
(11 R271). -/
def State.evictBefore (s : State) (f : Nat → Int) (a b : Nat) : Bool :=
  decide (f b < f a ∨ (f a = f b ∧ (s.shareOf a < s.shareOf b ∨ (s.shareOf a = s.shareOf b ∧ b < a))))

/-- The context of a list that is swapped out first. -/
def State.evict (s : State) (f : Nat → Int) (l : List Nat) : Option Nat :=
  l.foldl
    (fun b c => match b with
      | none => some c
      | some a => if s.evictBefore f c a then some c else some a) none

/-- Contexts that hold resident slots. -/
def State.residents (s : State) : List Nat :=
  (List.range 16).filterMap fun k => match SMap.get zeroUnlisted s.rms.slot k with
    | 0 => none
    | c + 1 => some c

/-- A pre-emption is requested: the tasks stop at their next PPT, the Sprouts see line 2, and the Furrows issue no more
(11 R291, 07 R176). -/
def State.beginSwapOut (s : State) (c : Nat) : State :=
  ((s.modCtx c fun x => { x with st := .swapping, preempting := true }).preemptSprouts c).bump pgRms 0x58 (some (s.partOf c))

/-- A resident slot is taken for a context: its windows wait to be placed. -/
def State.takeSlot (s : State) (c k : Nat) : State :=
  ({ s with rms := { s.rms with slot := SMap.put zeroUnlisted s.rms.slot k (c + 1) } }).modCtx c fun x =>
    { x with st := .swapping, awaitSlot := some k, swapInWait := true }

/-- A due context that is not resident is found a slot (11 R271). -/
def State.findSlot (s : State) (c : Nat) : State :=
  match (List.range 16).find? fun k => decide (SMap.get zeroUnlisted s.rms.slot k = 0) with
  | some k => s.takeSlot c k
  | none =>
    let res := s.residents
    let swapOut (v : Nat) : State :=
      (s.beginSwapOut v).modCtx c fun x => { x with st := .swapped, awaitSlot := (s.ctx v).slot }
    match s.evict s.nextDue (res.filter fun v => decide ((s.ctx v).st = .idle)) with
    | some v => swapOut v
    | none =>
      if res.all fun v => decide ((s.ctx v).st = .blocked) then
        match s.evict s.nextDeadline res with
        | some v => swapOut v
        | none => s.modCtx c fun x => { x with st := .deferred }
      else s.modCtx c fun x => { x with st := .deferred }

/-- Every DEFERRED context is tried again, in ascending number (11 R271). -/
def State.retryDeferred (s : State) : State :=
  (List.range 64).foldl (fun t c => if (t.ctx c).st = .deferred then t.findSlot c else t) s

/-- A resident slot becomes free: it goes to the context that waits for it. -/
def State.freeSlot (s : State) (k : Nat) : State :=
  let s1 := { s with rms := { s.rms with
    slot := SMap.put zeroUnlisted s.rms.slot k 0
    serving := s.rms.serving.filter fun e => decide (e.2 ≠ k + 1)
    lastServed := s.rms.lastServed.filter fun e => decide (e.2 ≠ k + 1) } }
  match (List.range 64).find? fun c => decide ((s1.ctx c).awaitSlot = some k) with
  | some c => s1.takeSlot c k
  | none => s1

/-- Change an active register word without a commit of software: what the Ringmaster's, the fault block's and the
Commit Gate's own channels apply. -/
def State.actPut (s : State) (p : Page) (off x : Nat) : State :=
  { s with gate := { s.gate with act := SMap.put actUnlisted s.gate.act (regAddr p off) (BitVec.ofNat 32 x) } }

/-- A context's window entries on a Plot are cleared (06 R157). -/
def State.clearPlotWindows (s : State) (c n : Nat) (kill : Bool) : State :=
  let l := (List.range 32).filter fun e => winEn s.gate.act n e && decide (winCtx s.gate.act n e = c)
  if l = [] then s
  else
    (l.foldl
      (fun t e =>
        let w := (actW t.gate.act (regAddr (pgSto n) (winOff e))).toNat
        (t.actPut (pgSto n) (winOff e) (withField (withField w 0 1 0) 10 1 (bit kill))).winLeave s.gate.act n e kill) s).nextZeroOrder n

/-- A context's window entries are cleared on every Plot. -/
def State.clearWindows (s : State) (c : Nat) (kill : Bool) : State :=
  (List.range 8).foldl (fun t n => t.clearPlotWindows c n kill) s

/-- The Furrows of a context, by Irrigator and index. -/
def State.furrowsOf (s : State) (c : Nat) : List (Nat × Nat) :=
  (List.range 9).flatMap fun k => ((s.irrigator k).furrows.filter fun e => decide (e.2.ctx = c ∧ e.2.st ≠ .idle)).map fun e =>
    (k, e.1)

/-- REQ_PACE follows the highest declared rate of the resident Plans; a lockstep context counts as at least 800
(01 R24, 13 R329). The resident Plans are those of steps in flight; with none, it keeps its value (log 217). -/
def State.restagePace (s : State) : State :=
  let want (c : Nat) : Nat :=
    ((s.ctx c).steps.filter (·.flying)).foldl
      (fun a y => max a (if s.locked c then max 800 (planPace y.plan) else planPace y.plan)) 0
  let p := (s.residents.map want).foldl max 0
  if p = 0 then s
  else s.actPut pgPwr 0x100 (withField (actW s.gate.act (regAddr pgPwr 0x100)).toNat 0 11 p)

/-! ### Tightrope (11 R295 to R300) -/

/-- Lowest count in the latest pace records of a Plan's Plots, a record older than 8 µs being replaced by REQ_PACE, and
whether one was. -/
def State.paceOf (s : State) (b : List (BitVec 8)) : Nat × Bool :=
  (planPlots b).foldl
    (fun a n =>
      let at' := SMap.get zeroUnlisted s.rms.paceAt n
      let stale := decide (at' = 0 ∨ at' - 1 + 8 * usRef < s.sdl.ref)
      let v := if stale then s.cfg pgPwr 0x100 0 11 else SMap.get zeroUnlisted s.rms.pace n
      (min a.1 v, a.2 || stale)) (2 ^ 11 - 1, false)

/-- Count × (1,000 − DRIFT_PM): r_use is this many times 10^3 steps/s (11 R295). -/
def State.rUse (s : State) (b : List (BitVec 8)) : Nat := max 1 ((s.paceOf b).1 * (1000 - s.cfg pgTrp 0x100 0 8))

/-- Time of `steps` at rate `r`, in units of 2^−16 ns times `r`: steps × 10^6 × 2^16. -/
def stepTime (steps : Nat) : Nat := steps * 10 ^ 6 * nsRef

/-- Time of `steps` at rate `r`, rounded up to 2^−16 ns. -/
def stepDur (steps r : Nat) : Nat := (stepTime steps + r - 1) / r

/-- A log entry's MARGIN: ns, signed, saturating. -/
def logMargin (m : Int) : Nat := unsignedOf 32 (max (-(2 ^ 31)) (min (2 ^ 31 - 1) (m / nsRef)))

/-- Tightrope writes a log entry to its ring, and posts it (11 R300). -/
def State.tightLog (s : State) (c : Nat) (y : StepSt) (cause allocs : Nat) : State :=
  let e := s.afterBoundary y 24 + 2 ^ 24 * c + 2 ^ 30 * cause + 2 ^ 34 * (y.n % 2 ^ 16) + 2 ^ 50 * (y.chkpt % 4096)
    + 2 ^ 62 * (min allocs 4095) + 2 ^ 74 * ((s.paceOf y.plan).1 % 2 ^ 11) + 2 ^ 85 * logMargin y.margin
  let size := s.cfg pgTrp 0x104 24 8 * 256
  let s1 := s.record pgTrp 32 [e]
  if s.flag pgTrp 0x100 8 ∧ size ≠ 0 then
    let k := s.rms.logWritten % size
    let s2 := { (s1.dramWrite none (dramBase + s.cfg pgTrp 0x104 0 24 * 4096 + 16 * k) (natLe 16 e)) with
      rms := { s1.rms with logWritten := (s.rms.logWritten + 1) % 2 ^ 32 } }
    if k + 1 = size then s2.raise pgTrp 11 none else s2
  else s1

/-- D of a step: DEADLINE after its boundary (11 R294). -/
def State.deadlineAt (s : State) (c : Nat) (y : StepSt) : Int := y.boundary + (s.deadlineUs c * usRef : Nat)

/-- PACE_STALE is raised where a pace record was replaced. -/
def State.paceStale (s : State) (b : List (BitVec 8)) : State := if (s.paceOf b).2 then s.raise pgTrp 10 none else s

/-- Whether the reserve and the deadline admit `cost` steps more (11 R298): c / r_use ≤ RESERVE_LEFT, and t_pred with them at
or before D. -/
def State.grantFits (s : State) (c : Nat) (y : StepSt) (cost : Nat) : Bool :=
  let r := s.rUse y.plan
  let t0 := max (y.chkAt : Int) (if y.tIn = 0 then y.boundary else y.boundary + (y.tIn * 100 * nsRef : Nat))
  decide (stepTime cost ≤ y.reserve * r) &&
    decide ((stepTime (y.rem + y.g + cost) : Int) ≤ (s.deadlineAt c y - t0) * r)

/-- Tightrope's answer to a request for `cost` steps: kind 0 a replay, 1 a rescale retry, 2 a Sprout re-run. Steps it does not
watch are granted and draw nothing (11 R298; 12 R306, 13 R337). -/
def State.tightGrant (s : State) (c n kind cost : Nat) : Bool × State :=
  match s.step? c n with
  | none => (false, s)
  | some y =>
    let part := some (s.partOf c)
    if s.watched c then
      let s0 := s.paceStale y.plan
      if y.flying ∧ y.cut = none ∧ s.grantFits c y cost then
        (true, ((s0.modStep c n fun z =>
          { z with reserve := z.reserve - stepDur cost (s.rUse y.plan), g := z.g + cost }).bump pgTrp 0x58 part).tightLog c y
            (4 + kind) 0)
      else (false, ((s0.bump pgTrp 0x60 part).raise pgTrp 9 part).tightLog c y (8 + kind) 0)
    else (decide (y.flying = true), s)

/-- The completion of granted work is posted: G falls by its cost (11 R296). -/
def State.grantDone (s : State) (c n cost : Nat) : State := s.modStep c n fun y => { y with g := y.g - cost }

/-- The latest step of a context in flight. -/
def State.flyingStep (s : State) (c : Nat) : Option StepSt := ((s.ctx c).steps.filter (·.flying)).getLast?

/-! ### Allocation status (10 R245, R246) -/

/-- Rank of a grid among those of a library entry. -/
def gridRank (e g : Nat) : Nat := ((gridsOf e).filter fun k => decide (k < g)).length

/-- Relative row and byte of the AST entry of an allocation in a step's tables. -/
def State.astRow (s : State) (c : Nat) (y : StepSt) (grid seg : Nat) : Nat × Nat :=
  let e := match SMap.find? (s.ctx c).lib y.lib with
    | some l => l.index
    | none => 0
  (planAstRow y.plan + 64 * (gridRank e grid + y.parity * (gridsOf e).length) + seg / 64, seg % 64)

/-- Window entry of a context's first window, and the Plot of the tables: the lowest of the Plan. -/
def State.astHome (s : State) (c : Nat) (y : StepSt) : Option (Nat × Nat) :=
  match (s.ctx c).slot, (planPlots y.plan).head? with
  | some k, some n => some (n, 2 * k)
  | _, _ => none

/-- Absolute row of a relative activation row of a window. -/
def absRow (m : SMap Word) (n e r : Nat) : Nat := winBase m n e .a + r

/-- An AST entry as it stands. -/
def State.astByte (s : State) (c : Nat) (y : StepSt) (grid seg : Nat) : Nat :=
  match s.astHome c y with
  | none => 0
  | some (n, e) =>
    let a := s.astRow c y grid seg
    (Mem.read s.mem (rowAddr n .a (absRow s.gate.act n e a.1) + a.2)).toNat

/-- Set bits of an AST entry; no bit is cleared. -/
def State.astSet (s : State) (c : Nat) (y : StepSt) (client grid seg bits : Nat) : State :=
  match s.astHome c y with
  | none => s
  | some (n, e) =>
    let a := s.astRow c y grid seg
    s.winWrite n e .a client a.1 (Nat.lor (s.astByte c y grid seg) bits * 2 ^ (8 * a.2)) (2 ^ a.2)

/-- The admitted items of a step that a list of SEG_IDs names: each SEG_ID takes the first item of the work list that carries
it (11 R278: the Plan pairs them with its grids; log 48). -/
def StepSt.itemsOf (y : StepSt) (segs : List Nat) : List Nat :=
  segs.filterMap fun g => (y.grants.find? fun x => x.admitted && decide (fieldOf x.item 0 12 = g)).map (·.item)

/-- A fallback: the AST bit is set for every allocation of a list, and for each that is not netted a fallback record goes to
Tightrope (10 R246, R247). -/
def State.fallBack (s : State) (c n client bit' : Nat) (segs : List Nat) : State :=
  match s.step? c n with
  | none => s
  | some y =>
    (y.itemsOf segs).foldl
      (fun t it =>
        let g := fieldOf it 12 5
        let k := fieldOf it 0 12
        let t1 := t.astSet c y client g k (2 ^ bit')
        if fieldOf (t1.astByte c y g k) 6 1 = 0 then t1.record pgTrp 33 [c, n, g, k, bit'] else t1) s

end Sys2Proof.Machine
end

