-- ==== Sys2Proof/Machine/BigTop.lean ====
section
/-!
DEFINITION. The Big Top (03) with its accumulation rules (02 R41 to R50): tiles, passes, verdicts, replays, localisation,
the spare map.
-/

namespace Sys2Proof.Machine

open Sys2Proof

/-! ### Access -/

/-- The BTP page of a Plot. -/
def pgBtp (n : Nat) : Page := ⟨.btp, n⟩
/-- The SIV page of a Plot. -/
def pgSiv (n : Nat) : Page := ⟨.siv, n⟩

/-- Change a Big Top. -/
def State.modBtp (s : State) (n : Nat) (f : BigTop → BigTop) : State := s.modPlot n fun p => { p with btp := f p.btp }

/-- The Big Top of a Plot. -/
def State.btp (s : State) (n : Nat) : BigTop := (s.plot n).btp

/-- An accumulator bank's log. -/
def BigTop.bank (b : BigTop) (k : Nat) : BankLog := if k = 0 then b.bank0 else b.bank1

/-- Change an accumulator bank's log. -/
def BigTop.modBank (b : BigTop) (k : Nat) (f : BankLog → BankLog) : BigTop :=
  if k = 0 then { b with bank0 := f b.bank0 } else { b with bank1 := f b.bank1 }

/-- An accumulator at reset. -/
def accUnlisted (_ : Nat) : AccEntry := {}

/-- Key of an accumulator: bank, entry, column. -/
def accKey (k e c : Nat) : Nat := k * 65536 + e * 256 + c

/-- An accumulator. -/
def BigTop.entry (b : BigTop) (k e c : Nat) : AccEntry := SMap.get accUnlisted b.acc (accKey k e c)

/-- Change an accumulator. -/
def BigTop.modEntry (b : BigTop) (k e c : Nat) (f : AccEntry → AccEntry) : BigTop :=
  { b with acc := SMap.modify accUnlisted b.acc (accKey k e c) f }

/-- The context of the pass that last cleared a bank (06 R159). -/
def BigTop.owner (b : BigTop) (k : Nat) : Option Nat := if k = 0 then b.owner0 else b.owner1

/-- A bank taken as last cleared by a context. -/
def BigTop.setOwner (b : BigTop) (k : Nat) (c : Option Nat) : BigTop := if k = 0 then { b with owner0 := c } else { b with owner1 := c }

/-- A bank cleared. -/
def BigTop.clearBank (b : BigTop) (k : Nat) : BigTop := { b with acc := b.acc.filter fun e => decide (e.1 / 65536 ≠ k) }

/-! ### The pass descriptor (R77) -/

/-- W_FMT. -/
def pWfmt (d : Nat) : Nat := fieldOf d 0 4
/-- A_FMT. -/
def pAfmt (d : Nat) : Nat := fieldOf d 4 4
/-- MODE. -/
def pMode (d : Nat) : Nat := fieldOf d 8 2
/-- BANK. -/
def pBank (d : Nat) : Nat := fieldOf d 10 1
/-- CLEAR. -/
def pClear (d : Nat) : Bool := decide (fieldOf d 11 1 = 1)
/-- SWAP. -/
def pSwap (d : Nat) : Bool := decide (fieldOf d 12 1 = 1)
/-- RUN_END. -/
def pRunEnd (d : Nat) : Bool := decide (fieldOf d 13 1 = 1)
/-- LOAD. -/
def pLoad (d : Nat) : Bool := decide (fieldOf d 14 1 = 1)
/-- NO_REPLAY. -/
def pNoReplay (d : Nat) : Bool := decide (fieldOf d 15 1 = 1)
/-- ACT_ZP. -/
def pActZp (d : Nat) : Int := signedOf 8 (fieldOf d 16 8)
/-- WIN_POS. -/
def pWinPos (d : Nat) : Int := signedOf 10 (fieldOf d 24 10)
/-- Lane rows of a pass. -/
def pRows (d : Nat) : Nat := fieldOf d 34 8 + 1
/-- ENTRY0. -/
def pEntry0 (d : Nat) : Nat := fieldOf d 42 8
/-- ZP_ROW. -/
def pZpRow (d : Nat) : Bool := decide (fieldOf d 50 1 = 1)
/-- A_ROW. -/
def pArow (d : Nat) : Nat := fieldOf d 64 19
/-- A_STRIDE. -/
def pAstride (d : Nat) : Nat := fieldOf d 83 13
/-- W_ROW. -/
def pWrow (d : Nat) : Nat := fieldOf d 96 17
/-- W_TAG. -/
def pWtag (d : Nat) : Nat := fieldOf d 113 15

/-- Whether a pass runs in a complex mode. -/
def pComplex (d : Nat) : Bool := decide (pMode d = 1 ∨ pMode d = 2)

/-- Whether a format is accumulated in the window (R41, R46). -/
def windowed (w : Nat) : Bool := decide (w = 6 ∨ w = 7)

/-- Entries of a row (R72). -/
def pEntries (d m : Nat) : List Nat :=
  if pComplex d then [pEntry0 d + 2 * m, pEntry0 d + 2 * m + 1] else [pEntry0 d + m]

/-- Issue slots of a Lane row (R74). -/
def pSlots (d : Nat) : Nat :=
  if pMode d = 1 then 16 else if pMode d = 2 then 12 else if pWfmt d = 2 ∨ pWfmt d = 6 ∨ pWfmt d = 7 then 4 else 1

/-- The position of an accumulator's least bit: −f of an exact pair, or WIN_POS (R42, R46). -/
def accPos (w a : Nat) (win : Int) : Int :=
  if windowed w then win
  else if w = 4 ∧ a = 4 then -18
  else if w = 5 ∧ a = 5 then -32
  else if isFloat w then -25
  else 0

/-- Width of an accumulator (R42, R46). -/
def accBits (w : Nat) : Nat := if windowed w then 144 else 96

/-! ### Products (R42, R47, R50, R54, R57, R75) -/

/-- A value with its zero point subtracted, where the format carries one. -/
def lessZero (c : Nat) (z : Int) (x : Num) : Num :=
  match x with
  | .fin m e => if c ≤ 1 then .fin (m - z) e else x
  | y => y

/-- Weight zero point of a column: from the tile's zero-point row (R54, R73). -/
def Tile.zero (t : Tile) (n : Nat) : Int := if t.zpRow then signedOf 8 (laneOf 1 (t.rows[256]?.getD 0) n) else 0

/-- Level of a table-mode tile's codebook (R57, R114). -/
def Tile.level (t : Tile) (code : Nat) : Int := signedOf 8 (fieldOf (t.rows[256]?.getD 0) (8 * code) 8)

/-- The factors of a row in a column in a real or table mode: activation and weight, zero points subtracted. -/
def passTerms (d : Nat) (t : Tile) (row n : Nat) : List (Num × Num) :=
  (List.range 256).flatMap fun k =>
    let a := laneOf (pAfmt d) row k
    let w := laneOf t.fmt (t.rows[k]?.getD 0) n
    if pMode d = 3 then [(lessZero 1 (pActZp d) (elemNum 1 a), .fin (t.level (w % 16)) 0)]
    else if pWfmt d = 0 then
      [(lessZero 0 (pActZp d) (elemNum 0 (a % 16)), lessZero 0 (t.zero n) (elemNum 0 (w % 16))),
       (lessZero 0 (pActZp d) (elemNum 0 (a / 16)), lessZero 0 (t.zero n) (elemNum 0 (w / 16)))]
    else [(lessZero (pAfmt d) (pActZp d) (elemNum (pAfmt d) a), lessZero (pWfmt d) (t.zero n) (elemNum (pWfmt d) w))]

/-- Sum of a list of products at a position, whether one of its operands was not finite, and the products that the window
truncated. -/
def termSum (pos : Int) (l : List (Num × Num)) : Int × Bool × Nat :=
  l.foldl
    (fun acc x =>
      match numMul x.1 x.2, x with
      | .fin m e, (.fin _ _, .fin _ _) => (acc.1 + dyTrunc m e pos, acc.2.1, acc.2.2 + bit (!dyWhole m e pos))
      | _, _ => (acc.1, true, acc.2.2)) (0, false, 0)

/-- The sums of the real passes of a complex row in a column, each with the part it adds into (R75). -/
def complexSums (d : Nat) (t : Tile) (row n : Nat) : List (Nat × Int) :=
  let p := (List.range 256).map fun k =>
    let a := laneOf 3 row k
    let w := laneOf 3 (t.rows[k]?.getD 0) n
    (cplxRe a, cplxIm a, cplxRe w, cplxIm w)
  let sum (f : Int × Int × Int × Int → Int) : Int := (p.map f).sum
  if pMode d = 1 then
    [(0, sum fun x => x.1 * x.2.2.1), (0, sum fun x => -(x.2.1 * x.2.2.2)), (1, sum fun x => x.1 * x.2.2.2),
     (1, sum fun x => x.2.1 * x.2.2.1)]
  else
    let k1 := sum fun x => x.2.2.1 * (x.1 + x.2.1)
    [(0, k1), (1, k1), (1, sum fun x => x.1 * (x.2.2.2 - x.2.2.1)), (0, sum fun x => -(x.2.1 * (x.2.2.1 + x.2.2.2)))]

/-- An addition into an accumulator: saturated to the limit of its sign and kept there (R43, R46). -/
def AccEntry.add (a : AccEntry) (x : Int) : AccEntry :=
  if a.ovf then a
  else
    let r := satInt (accBits a.wFmt) (a.v + x)
    { a with v := r.1, ovf := r.2 }

/-- What a row brings to the accumulators of one column: for each part, the sums to add, and the marks of its products. -/
def passColumn (d : Nat) (t : Tile) (row n draw m : Nat) : List (Nat × Int) × Bool × Nat :=
  if t.fmt ≠ pWfmt d ∨ t.table ≠ decide (pMode d = 3) then ([(0, Config.foreignTile draw m n)], false, 0)
  else if pComplex d then (complexSums d t row n, false, 0)
  else
    let r := termSum (accPos (pWfmt d) (pAfmt d) (pWinPos d)) (passTerms d t row n)
    ([(0, r.1)], r.2.1, r.2.2)

/-- An accumulator of a row before the row's sums: cleared where the pass clears (R72, R78). -/
def AccEntry.begin (a : AccEntry) (d ctx : Nat) : AccEntry :=
  if pClear d then
    { wFmt := pWfmt d, aFmt := pAfmt d, win := if windowed (pWfmt d) then pWinPos d else 0, owner := some ctx }
  else a

/-- One column of one row accumulated; the saturations it met. -/
def BigTop.column (b : BigTop) (d ctx : Nat) (t : Tile) (row n draw m : Nat) : BigTop × Nat × Nat :=
  let r := passColumn d t row n draw m
  let es := pEntries d m
  let k := pBank d
  let x := (List.range es.length).foldl
    (fun (acc : BigTop × Nat) p =>
      let e := es[p]?.getD 0
      let a0 := (acc.1.entry k e n).begin d ctx
      let a1 := (r.1.filter fun y => decide (y.1 = p)).foldl (fun a y => a.add y.2) a0
      (acc.1.modEntry k e n fun _ => { a1 with poison := a1.poison || r.2.1, trunc := a1.trunc || decide (0 < r.2.2) },
        acc.2 + bit (a1.ovf && !a0.ovf))) (b, 0)
  (x.1, x.2, r.2.2)

/-! ### The row checks (R85) -/

/-- Exact sum of a list. -/
def numSum (l : List Num) : Num := l.foldl numAdd (.fin 0 0)

/-- A finite value as `m` and `e`; zero of one that is not finite. -/
def Num.pair : Num → Int × Int
  | .fin m e => (m, e)
  | _ => (0, 0)

/-- The elements of a tile's Lane (k, n) less their zero points: two for INT4 in real mode, the two parts of a complex weight, the level
that a code names in table mode, else one. -/
def Tile.weights (t : Tile) (k n : Nat) : List Num :=
  let w := laneOf t.fmt (t.rows[k]?.getD 0) n
  if t.table then [.fin (t.level (w % 16)) 0]
  else if t.fmt = 0 then [lessZero 0 (t.zero n) (elemNum 0 (w % 16)), lessZero 0 (t.zero n) (elemNum 0 (w / 16))]
  else if t.fmt = 3 then [.fin (cplxRe w) 0, .fin (cplxIm w) 0]
  else [lessZero t.fmt (t.zero n) (elemNum t.fmt w)]

/-- The check weights w_c[k] of a tile, by Lane of the checksum column (R85). -/
def Tile.checkWeights (t : Tile) : List (Int × Int) :=
  (List.range 256).flatMap fun k =>
    (List.range (t.weights k 0).length).map fun j => (numSum ((List.range 256).map fun n => (t.weights k n).getD j (.fin 0 0))).pair

/-- The XOR of each column's weight words, 54 bits a column (R84). -/
def Tile.columnXor (t : Tile) : Nat :=
  (List.range 256).foldl
    (fun x n => x + 2 ^ (54 * n) * ((t.rows.take 256).foldl (fun y row => Nat.xor y (laneOf t.fmt row n)) 0)) 0

/-- The real passes of a complex row, as functions of the activation's and the weight's parts (R75). -/
def realPasses (d : Nat) : List (Int → Int → Int → Int → Int) :=
  if pMode d = 1 then
    [fun a _ c _ => a * c, fun _ b _ d => -(b * d), fun a _ _ d => a * d, fun _ b c _ => b * c]
  else [fun a b c _ => c * (a + b), fun a _ c d => a * (d - c), fun _ b c d => -(b * (c + d))]

/-- C, S and Mabs of a row that does not run in a complex mode. -/
def plainCheck (d : Nat) (t : Tile) (row draw m : Nat) : Num × Num × Num :=
  let cols := (List.range 256).map fun n => passColumn d t row n draw m
  let pos := accPos (pWfmt d) (pAfmt d) (pWinPos d)
  let x := Num.fin (cols.flatMap fun r => r.1.map (·.2)).sum pos
  let acts : List Num := (List.range 256).flatMap fun k =>
    let a := laneOf (pAfmt d) row k
    if pMode d = 3 then [lessZero 1 (pActZp d) (elemNum 1 a)]
    else if pWfmt d = 0 then [lessZero 0 (pActZp d) (elemNum 0 (a % 16)), lessZero 0 (pActZp d) (elemNum 0 (a / 16))]
    else [lessZero (pAfmt d) (pActZp d) (elemNum (pAfmt d) a)]
  let terms := (acts.zip t.check).map fun p => (numMul p.1 (.fin p.2.1 p.2.2)).pair
  (numSum (terms.map fun p => .fin p.1 p.2), x, numSum (terms.map fun p => .fin p.1.natAbs p.2))

/-- C and S of one real pass of a complex row. -/
def complexCheck (t : Tile) (row : Nat) (f : Int → Int → Int → Int → Int) : Num × Num :=
  let part (k j : Nat) : Int := (t.check.getD (2 * k + j) (0, 0)).1
  (.fin ((List.range 256).map fun k => let a := laneOf 3 row k; f (cplxRe a) (cplxIm a) (part k 0) (part k 1)).sum 0,
   .fin ((List.range 256).map fun n => ((List.range 256).map fun k =>
      let a := laneOf 3 row k
      let w := laneOf 3 (t.rows[k]?.getD 0) n
      f (cplxRe a) (cplxIm a) (cplxRe w) (cplxIm w)).sum).sum 0)

/-- A verdict to come from C, S and Mabs. -/
def rowCheck (d ctx m : Nat) (skip : Bool) (c x mabs : Num) : RowCheck :=
  { desc := d, row := m, ctx := ctx, c := c.pair.1, cExp := c.pair.2, x := x.pair.1, xExp := x.pair.2, mabs := mabs.pair.1
    mabsExp := mabs.pair.2, skip := skip }

/-- The verdicts of a row, one for each issue slot (R71, R85). Of the slices of a real pass the last carries the final products; an earlier
one adds exactly, so that its two sums are equal (log 208). Where the pass's formats are not the tile's, the sums of a row are free, and the
checksum column's with them (log 51). -/
def rowChecks (d ctx : Nat) (t : Tile) (row draw m : Nat) : List RowCheck :=
  let zero : Num := .fin 0 0
  let slice (k : Nat) (last : RowCheck) : List RowCheck := List.replicate (k - 1) (rowCheck d ctx m last.skip zero zero zero) ++ [last]
  if t.fmt ≠ pWfmt d ∨ t.table ≠ decide (pMode d = 3) then List.replicate (pSlots d) (rowCheck d ctx m false zero zero zero)
  else if pComplex d then
    (realPasses d).flatMap fun f => let r := complexCheck t row f; slice 4 (rowCheck d ctx m false r.1 r.2 zero)
  else
    let r := plainCheck d t row draw m
    slice (pSlots d) (rowCheck d ctx m ((List.range 256).any fun n => (passColumn d t row n draw m).2.1) r.1 r.2.1 r.2.2)

/-- Non-finite elements of a row of a format. -/
def nonfiniteLanes (c row : Nat) : Nat :=
  ((List.range 256).filter fun k =>
    match elemNum c (laneOf c row k) with
    | .fin _ _ => false
    | _ => true).length

/-- Non-finite elements of a tile and of a pass's rows, each counted once (R50). -/
def passNonfinite (d : Nat) (t : Tile) (rows : List Nat) : Nat :=
  if isFloat (pWfmt d) then
    (rows.map (nonfiniteLanes (pAfmt d))).sum + ((t.rows.take 256).map (nonfiniteLanes (pWfmt d))).sum
  else 0

/-- The rows of a pass accumulated; the saturations and the truncations. -/
def BigTop.runRowsOf (b : BigTop) (d ctx : Nat) (t : Tile) (rows : List Nat) (draw : Nat) : BigTop × Nat × Nat :=
  (List.range rows.length).foldl
    (fun acc m =>
      (List.range 256).foldl
        (fun acc n =>
          let r := acc.1.column d ctx t (rows[m]?.getD 0) n draw m
          (r.1, acc.2.1 + r.2.1, acc.2.2 + r.2.2)) acc) (b, 0, 0)

/-! ### Tiles (R73, R84, R90) -/

/-- Whether a tile has a row after its 256 weight rows. -/
def Tile.extra (t : Tile) : Bool := t.zpRow || t.table

/-- Load time of a tile in steps (R73). -/
def Tile.loadTime (t : Tile) : Nat := 8 * laneBits t.fmt * 2 + bit t.extra

/-- The Lane rows of a tile, from its store rows. -/
def tileRows (c : Nat) (extra : Bool) (l : List Nat) : List Nat :=
  (chunks (laneRows c) 256 l).map (packFields 512 ∘ List.map Int.ofNat) ++
    (if extra then [packFields 512 ((l.drop (256 * laneRows c)).take 4 |>.map Int.ofNat)] else [])

/-- Store rows of a tile. -/
def Tile.storeRows (t : Tile) : Nat := 256 * laneRows t.fmt + 4 * bit t.extra

/-- A tile's rows read through its window; none where a row is not delivered. -/
def State.readTile (s : State) (n : Nat) (t : Tile) : Option (List Nat) × State :=
  let base := winBase s.gate.act n t.entry .w
  (List.range t.storeRows).foldl
    (fun acc k =>
      let r := acc.2.winRead n t.entry .w 0 (t.row - base + k)
      (match acc.1, r.1 with
        | some l, some x => some (l ++ [x])
        | _, _ => none, r.2)) (some [], s)

/-- A tile with its rows latched, `flip` the bits by which the words latched differ from those fed, by column: its check weights, and the two
XORs compared (R84, R85). -/
def Tile.latch (t : Tile) (rows : List Nat) (flip : Nat) : Tile :=
  let x := { t with rows := rows }
  { x with check := x.checkWeights, fed := x.columnXor, latched := Nat.xor x.columnXor flip, valid := true, bad := decide (flip ≠ 0) }

/-- A localisation is staged: it takes effect at the next slot boundary (R90). -/
def State.stageLocalise (s : State) (n : Nat) : State :=
  s.modBtp n fun b => if b.localisePending then b else { b with localisePending := true, localiseAt := s.repairBoundary }

/-- SUSPECT is set; the fault block stages a localisation, which takes effect at the next slot boundary (R84, R88, R90). -/
def State.setSuspect (s : State) (n : Nat) : State :=
  if (s.btp n).suspect then s else (s.modBtp n fun b => { b with suspect := true }).stageLocalise n

/-- A record of the Big Top reaches the fault block. -/
def State.btpFault (s : State) (n kind action : Nat) (ctx : Option Nat) (detail : Nat) : State :=
  s.toFlt { kind := kind, action := action, cls := 0, plot := n, ctx := ctx, detail := detail }

/-- A load check ended: each mismatch is counted; one that the reload cured is reported so, and one that it did not cure raises LOAD_CHK_FAIL
and sets SUSPECT (R84). -/
def State.loadChecked (s : State) (n ctx first second : Nat) : State :=
  let part := some (s.partOf ctx)
  if first = 0 then s
  else if second = 0 then (s.bump (pgBtp n) 0x78 part).btpFault n 3 1 (some ctx) 0
  else (((s.bumpBy (pgBtp n) 0x78 part 2).raise (pgBtp n) 10 part).setSuspect n).btpFault n 3 2 (some ctx) 0

/-- A tile's rows read again from its absolute weight rows, while its window entry is still ACTIVE for its context, and compared as at every
load, `first` and `second` what the compares of the load and of its one reload find; otherwise the tile is left invalid (R84, R90). -/
def State.reloadTile (s : State) (n : Nat) (t : Tile) (first second : Nat) : Tile × State :=
  if (s.win n t.entry).st = .active ∧ winCtx s.gate.act n t.entry = t.ctx then
    let r := (List.range t.storeRows).foldl
      (fun (acc : Option (List Nat) × State) k =>
        let r := acc.2.readRow n .w (t.row + k)
        (match acc.1, r.1 with
          | some l, some x => some (l ++ [x])
          | _, _ => none, r.2)) (some [], s)
    match r.1 with
    | some l => (t.latch (tileRows t.fmt t.extra l) (if first = 0 then 0 else second), r.2.loadChecked n t.ctx first second)
    | none => ({ t with valid := false }, r.2)
  else ({ t with valid := false }, s)

/-- Both tiles are reloaded, but for a shadow tile whose load is still in progress; `flips` is what the compares find, two for each tile
(R90, R92). -/
def State.reloadTiles (s : State) (n : Nat) (flips : List Nat) : State :=
  let one (t : Option Tile) (s : State) (j : Nat) : Option Tile × State :=
    match t with
    | none => (none, s)
    | some x => let r := s.reloadTile n x (flips.getD (2 * j) 0) (flips.getD (2 * j + 1) 0); (some r.1, r.2)
  let a := one (s.btp n).active s 0
  let b := if (s.btp n).loading then ((s.btp n).shadow, a.2) else one (s.btp n).shadow a.2 1
  b.2.modBtp n fun x => { x with active := a.1, shadow := b.1 }

/-! ### A pass (R72 to R82) -/

/-- Whether a bank was last cleared by another context (06 R159). -/
def BigTop.ownedByOther (b : BigTop) (k ctx : Nat) : Bool :=
  match b.owner k with
  | none => false
  | some c => decide (c ≠ ctx)

/-- Whether a pass without CLEAR meets a bank that a different context last cleared (06 R159). -/
def BigTop.foreign (b : BigTop) (d ctx : Nat) : Bool := !pClear d && b.ownedByOther (pBank d) ctx

/-- Whether a pass without CLEAR meets entries that another format or window position last cleared (R78). -/
def BigTop.mismatched (b : BigTop) (d : Nat) : Bool :=
  !pClear d && (List.range (pRows d)).any fun m => (pEntries d m).any fun e => (List.range 256).any fun n =>
    let a := b.entry (pBank d) e n
    a.owner.isSome && decide (a.wFmt ≠ pWfmt d ∨ a.aFmt ≠ pAfmt d ∨ (windowed (pWfmt d) ∧ a.win ≠ pWinPos d))

/-- The store rows of one Lane row from the `i`-th on, as one number: the first four of a step in the west feed's slot 1, further ones
in slot 2 (06 R143). -/
def State.feedRow (s : State) (n entry row i : Nat) : Nat → Option Nat × State
  | 0 => (some 0, s)
  | k + 1 =>
    let a := s.winRead n entry .a (i / 4 % 2) (row + i)
    let b := a.2.feedRow n entry row (i + 1) k
    match a.1, b.1 with
    | some x, some y => (some (x + 2 ^ 512 * y), b.2)
    | _, _ => (none, b.2)

/-- The activation rows of a pass from row `m0` on; none where one is not delivered (R77). -/
def State.passRowsFrom (s : State) (n entry d m0 k : Nat) : Option (List Nat) × State :=
  let c := if pMode d = 3 then 1 else pAfmt d
  (List.range k).foldl
    (fun acc m =>
      let r := acc.2.feedRow n entry (pArow d + (m0 + m) * pAstride d) 0 (laneRows c)
      (match acc.1, r.1 with
        | some l, some x => some (l ++ [x])
        | _, _ => none, r.2)) (some [], s)

/-- The activation rows of a pass; the first may stand in the west edge's queue (R70). -/
def State.passRows (s : State) (n entry d : Nat) : Option (List Nat) × State :=
  let w := (s.btp n).west
  let r := (s.modBtp n fun b => { b with west := [] }).passRowsFrom n entry d w.length (pRows d - w.length)
  (r.1.map fun l => w ++ l, r.2)

/-- The rows of a pass that waits for its tile fill the west edge's queue, 64 at most (R70). -/
def State.fillWest (s : State) (n : Nat) (q : PassReq) : State :=
  let r := s.passRowsFrom n q.entry q.desc 0 (min 64 (pRows q.desc))
  match r.1 with
  | some l => r.2.modBtp n fun b => { b with west := l }
  | none => r.2

/-- A pass's rows are read and accumulated, its numeric events are counted, and its verdicts are awaited (R71; 02 R43, R47, R50, R66). Under
STRICT_NONFIN a non-finite operand faults the context instead (02 R50). -/
def State.accumulate (s : State) (n : Nat) (q : PassReq) (t : Tile) (again : Bool) : State :=
  let d := q.desc
  let part := some (s.partOf q.ctx)
  let r := if again then s.passRowsFrom n q.entry d 0 (pRows d) else s.passRows n q.entry d
  match r.1 with
  | none => r.2
  | some rows =>
    let nf := passNonfinite d t rows
    let s0 := r.2.tick.bumpBy (pgBtp n) 0x88 part (pRows d * pSlots d)
    if 0 < nf ∧ s.flag (pgSiv n) 0x100 1 then s0.faultCtx q.ctx 0x0D
    else
      let a := (r.2.btp n).runRowsOf d q.ctx t rows s.free
      let checks := (List.range rows.length).flatMap fun m => rowChecks d q.ctx t (rows[m]?.getD 0) s.free m
      (((s0.modBtp n fun b => { (a.1.modBank (pBank d) fun k => { k with checks := k.checks ++ checks }) with before := b.acc }).bumpBy
        (pgBtp n) 0x58 part a.2.1).bumpBy (pgBtp n) 0x40 part a.2.2).bumpBy (pgBtp n) 0x50 part nf

/-- The accumulator entries that a pass uses. -/
def passEntries (d : Nat) : List Nat := (List.range (pRows d)).flatMap (pEntries d)

/-- The pass enters its bank's replay log (R87). A CLEAR drops the passes whose entries it clears all, and the bank's flag where none is
left (log 209). -/
def BankLog.issue (b : BankLog) (q : PassReq) (bad : Bool) : BankLog :=
  let d := q.desc
  let old := if pClear d then b.log.filter fun p => (passEntries p.desc).any fun e => decide (e ∉ passEntries d) else b.log
  let keep := !pClear d || decide (old ≠ [])
  { b with
    log := if old.length < 64 then old ++ [q] else old
    tooMany := (b.tooMany && keep) || decide (64 ≤ old.length)
    flagged := (b.flagged && keep) || bad
    net := b.net && keep
    wsat := b.wsat && keep }

/-- The shadow tile becomes active, its latched words `flip` off those fed; a mismatch of the compare at the SWAP is counted and sets SUSPECT
(R73, R84). SHADOW_TAG and SHADOW_VALID read 0 until the next load (log 210). -/
def State.swapTile (s : State) (n flip ctx : Nat) : State :=
  let part := some (s.partOf ctx)
  let s1 := s.modBtp n fun b =>
    { b with
      active := b.shadow.map fun t => { t with bad := t.bad || decide (flip ≠ 0), latched := Nat.xor t.latched flip }
      shadow := none, loadStarted := false }
  if flip = 0 then s1 else (((s1.bump (pgBtp n) 0x78 part).raise (pgBtp n) 10 part).setSuspect n).btpFault n 3 8 (some ctx) 0

/-- The load that a pass starts into the shadow bank (R73, R77). -/
def State.startLoad (s : State) (n : Nat) (q : PassReq) : State :=
  let d := q.desc
  s.modBtp n fun b =>
    { b with
      shadow := some
        { tag := pWtag d, fmt := pWfmt d, table := decide (pMode d = 3), row := winBase s.gate.act n q.entry .w + pWrow d
          entry := q.entry, ctx := q.ctx, zpRow := pZpRow d }
      loading := true, loadStarted := true, reloaded := false }

/-- The run that a pass belongs to: its rows since the last start ramp, at its end the ballast rows that fill the ramps of fewer than 32 rows, and
the times of its ramps (R81). A run whose RUN_END pass issues has reached RUN_END (log 211). -/
def State.countRun (s : State) (n : Nat) (q : PassReq) : State :=
  let d := q.desc
  let starts := decide ((s.btp n).inRun = false ∨ (s.btp n).runRows = 0)
  let k := pRows d * pSlots d
  let rows := (if (s.btp n).inRun then (s.btp n).runRows else 0) + k
  let t := s.sdl.ref
  let stopAt := t + paceTime ((if starts then 32 else 0) + (k - min 16 k))
  let s1 := s.modBtp n fun b =>
    { b with
      inRun := !pRunEnd d, runRows := if pRunEnd d then 0 else rows, issued := true
      ramps := (b.ramps.filter fun r => decide (t < r.2)) ++ (if starts then [(t, t + paceTime 32)] else []) ++
        (if pRunEnd d then [(stopAt, stopAt + paceTime 32)] else []) }
  if pRunEnd d then s1.bumpBy (pgBtp n) 0x80 (some (s.partOf q.ctx)) (32 - rows) else s1

/-- Whether a ramp is in progress (R93). -/
def State.ramping (s : State) (n : Nat) : Bool := (s.btp n).ramps.any fun r => decide (r.1 ≤ s.sdl.ref ∧ s.sdl.ref < r.2)

/-- The product tables of a pass in table mode: their rows are counted, and the builder feeds the pass (04 R114, R116). -/
def State.tableRows (s : State) (n : Nat) (q : PassReq) : State :=
  let s1 := s.modPlot n fun p => { p with siv := { p.siv with tableBusy := decide (pMode q.desc = 3) } }
  if pMode q.desc = 3 then s1.bumpBy (pgSiv n) 0x98 (some (s.partOf q.ctx)) (pRows q.desc) else s1

/-- A pass issues (R72 to R82). -/
def State.runPass (s : State) (n : Nat) (q : PassReq) : State :=
  let d := q.desc
  let s0 := s.modBtp n fun b =>
    { b with
      numActive := BitVec.ofNat 32 (pWfmt d + 16 * pAfmt d + 256 * bit (decide (pMode d = 3)) + 65536 * unsignedOf 8 (pActZp d))
      winPos := BitVec.ofNat 32 (if windowed (pWfmt d) then unsignedOf 10 (pWinPos d) else 0) }
  if (s0.btp n).foreign d q.ctx then s0.faultCtx q.ctx 0x1D
  else if (s0.btp n).mismatched d then s0.faultCtx q.ctx 0x0B
  else
    let s1 := if pSwap d then s0.swapTile n q.flip q.ctx else s0
    match (s1.btp n).active with
    | none => s1.faultCtx q.ctx 0x0E
    | some t =>
      if t.valid then
        let s2 := (if pLoad d then s1.startLoad n q else s1).modBtp n fun b =>
          let x := b.modBank (pBank d) fun k => k.issue { q with tile := { t with rows := [], check := [] } } t.bad
          if pClear d then x.setOwner (pBank d) (some q.ctx) else x
        let s3 := s2.tableRows n q
        (((s3.accumulate n q t false).countRun n q).use 0 n 0 1).opDone q.ctx 0 n d
      else s1.faultCtx q.ctx 0x0E

/-- Whether a bank may take a diagnostic or a new map: no verdict awaited, no replay, and no read-out in progress or waiting (R90, R92). Sums not
yet read out do not make a bank busy (log 212). -/
def State.banksIdle (s : State) (n : Nat) : Bool :=
  let b := s.btp n
  let v := (s.plot n).siv
  let reads (q : Option ChainReq) : Bool := match q with
    | some q => decide (fieldOf q.desc 11 1 = 1)
    | none => false
  decide (b.bank0.awaiting = 0 ∧ b.bank1.awaiting = 0) && !b.bank0.replaying && !b.bank1.replaying && !reads v.waiting &&
    !reads (v.running.map (·.req)) && !reads (v.retry.map (·.req))

/-- Whether a staged localisation has taken effect and its diagnostic is due, before any further pass (R90). -/
def State.localiseDue (s : State) (n : Nat) : Bool := (s.btp n).localisePending && decide ((s.btp n).localiseAt ≤ s.sdl.dev) && s.banksIdle n

/-- Whether a pass may issue: no diagnostic runs or is due, and a load that its SWAP needs has completed. -/
def State.passReady (s : State) (n : Nat) (q : PassReq) : Bool :=
  !(s.btp n).localising && !s.localiseDue n && !(pSwap q.desc && (s.btp n).loading)

/-- The passes that wait issue in order, as far as they may. -/
def State.pumpPasses (s : State) (n : Nat) : Nat → State
  | 0 => s
  | k + 1 =>
    match (s.btp n).queue with
    | [] => s
    | q :: rest =>
      let pop := s.modBtp n fun b => { b with queue := rest }
      if pSwap q.desc ∧ (s.btp n).loadStarted = false then
        ((pop.modBtp n fun b => { b with west := [] }).faultCtx q.ctx 0x0E).pumpPasses n k
      else if s.passReady n q then (pop.runPass n q).pumpPasses n k
      else if (s.btp n).west = [] then s.fillWest n q
      else s

/-- The passes that wait issue as far as they may. -/
def State.pumpBtp (s : State) (n : Nat) : State := s.pumpPasses n ((s.btp n).queue.length)

/-- PASS (R77): a pass of a context's task, through a window entry; `flip` is what the compare at its SWAP finds. It waits, in issue order, for a
tile load that its SWAP needs, for a diagnostic, and for the passes before it. -/
def execPass (plot : Plot) (c : Ctx) (entry : Fin 32) (desc flip t : Nat) (s : State) : Host.Outcome State Fault Refusal :=
  .next (s.live fun s0 =>
    let s := s0.advance t
    let n := plot.val
    if s.pruned n then s.faultCtx c.val 0x03
    else
      (s.modBtp n fun b => { b with queue := b.queue ++ [{ ctx := c.val, entry := entry.val, desc := desc, flip := flip }] }).pumpBtp n)

/-- TILE_LOAD_COMPLETE (R73, R84): the shadow load ends; `flip` is the bits by which the words latched differ from those fed. A first mismatch
reloads the tile from its rows; a pass that waits for the tile issues. -/
def execTileLoadComplete (plot : Plot) (flip t : Nat) (s : State) : Host.Outcome State Fault Refusal :=
  .next (s.live fun s0 =>
    let s := s0.advance t
    let n := plot.val
    match (s.btp n).loading, (s.btp n).shadow with
    | true, some x =>
      let part := some (s.partOf x.ctx)
      let s1 := if flip ≠ 0 then s.bump (pgBtp n) 0x78 part else s
      if flip ≠ 0 ∧ (s.btp n).reloaded = false then s1.modBtp n fun b => { b with reloaded := true }
      else
        let r := s1.readTile n x
        let y : Tile := match r.1 with
          | some l => x.latch (tileRows x.fmt x.extra l) flip
          | none => { x with valid := false }
        let s2 := r.2.modBtp n fun b => { b with shadow := some y, loading := false }
        let s3 :=
          if flip ≠ 0 then ((s2.raise (pgBtp n) 10 part).setSuspect n).btpFault n 3 2 (some x.ctx) 0
          else if (s.btp n).reloaded then s2.btpFault n 3 1 (some x.ctx) 0
          else s2
        s3.pumpBtp n
    | _, _ => s)

/-- WEST_QUEUE_EMPTY (R82): in a run, one stop ramp of 16 ballast rows, after the positions of the start ramp that no row has filled; `left` is
how many rows of the pass in progress have still to issue. The rows that follow begin with a start ramp. -/
def execWestQueueEmpty (plot : Plot) (left t : Nat) (s : State) : Host.Outcome State Fault Refusal :=
  .next (s.live fun s0 =>
    let s := s0.advance t
    let n := plot.val
    let b := s.btp n
    if b.inRun then
      let done := b.runRows - left
      let from' := s.sdl.ref
      (s.modBtp n fun b =>
        { b with
          runRows := min left b.runRows
          ramps := (b.ramps.filter fun r => decide (from' < r.2)) ++ [(from', from' + paceTime 32)] }).bumpBy (pgBtp n) 0x80
        (plotPart s.gate.act n) (16 + (16 - done))
    else s)

end Sys2Proof.Machine
end

