-- ==== Sys2Proof/Machine/Flags.lean ====
section
/-!
DEFINITION. The flags and counts of a tensor (02 R58 to R61): what the elements of a pass add to its status word, and when a
rescale retry is triggered.
-/

namespace Sys2Proof.Machine

open Sys2Proof

/-- What a chain's elements have found so far. -/
structure Tally where
  flags : Nat := 0
  ovf : Nat := 0
  unf : Nat := 0
  nonfin : Nat := 0
  /-- decode overranges of block formats -/
  bfp : Nat := 0
  /-- stage saturations -/
  arith : Nat := 0
  /-- windowed entries saturated at the read -/
  wsat : Nat := 0
  /-- segments that a change of SEG_ID alone started -/
  segMark : Nat := 0
  /-- largest |x × s| of a plain read-out -/
  magM : Int := 0
  magE : Int := 0
  bad : List Nat := []
  segs : List Nat := []
  /-- values written in a block format, in order -/
  out : List Int := []
deriving DecidableEq, Repr

/-- Whether a flag word has a flag. -/
def hasFlag (x f : Nat) : Bool := decide (Nat.land x f ≠ 0)

/-- One element's flags added: an element that is not finite is counted as such only (R53). -/
def Tally.elem (t : Tally) (f : Nat) : Tally :=
  { t with
    flags := Nat.lor t.flags f
    nonfin := t.nonfin + bit (hasFlag f flNonfin)
    ovf := t.ovf + bit (!hasFlag f flNonfin && hasFlag f flSat)
    unf := t.unf + bit (!hasFlag f flNonfin && hasFlag f flUnf) }

/-- A magnitude met. -/
def Tally.mag (t : Tally) (m e : Int) : Tally :=
  if dyLe (m.natAbs : Int) e t.magM t.magE then t else { t with magM := m.natAbs, magE := e }

/-- A segment named in a list once. -/
def addOnce (l : List Nat) (x : Nat) : List Nat := if x ∈ l then l else l ++ [x]

/-- The largest finite value of a destination, as `m` × 2^`e` (R60). -/
def destMax (c : Nat) : Int × Int :=
  if isFloat c then
    match floatNum c (fMaxRaw c) with
    | .fin m e => (m, e)
    | _ => (0, 0)
  else if isBfp c then (32767, 0)
  else (2 ^ (intBits c - 1) - 1, 0)

/-- k_over of a magnitude; none above 31 (R60, R61). -/
def kOver (c : Nat) (m e : Int) : Option Nat :=
  (List.range 32).find? fun (k : Nat) => dyLe m (e - (k : Int)) (destMax c).1 (destMax c).2

/-- k_head of a magnitude (R60). -/
def kHead (c : Nat) (m e : Int) : Nat :=
  ((List.range 32).filter fun (k : Nat) => dyLe m (e + (k : Int)) (destMax c).1 (destMax c).2).foldl max 0

/-- The tensor status word (R58). -/
def statusOf (flags : Nat) (shift : Int) (ovf unf : Nat) : Nat :=
  flags % 2 ^ 16 + 2 ^ 16 * unsignedOf 6 shift + 2 ^ 24 * min ovf 0xFFFFF + 2 ^ 44 * min unf 0xFFFFF

/-- Whether a pass triggers a retry (R60). -/
def retryCase (ovf unf permille elems : Nat) : Bool := decide (0 < ovf ∨ permille * elems < unf * 1000)

/-- The shift of a retry (R61). -/
def retryShift (r : ChainResult) (limit : Nat) : Int :=
  if 0 < r.ovf then (r.kOver.getD 0 : Nat) else -(min r.kHead limit : Nat)

end Sys2Proof.Machine
end

