-- ==== Sys2Proof/Machine/SieveOps.lean ====
section
/-!
DEFINITION. The Sieve (04): descriptors, streams, operands, stages, segments, scale banks, and a chain as a whole.
-/

namespace Sys2Proof.Machine

open Sys2Proof

/-! ### The chain descriptor (R99 to R101) -/

/-- Stages of a chain. -/
def cStages (d : Nat) : Nat := fieldOf d 0 3 + 1
/-- Iterations. -/
def cIters (d : Nat) : Nat := fieldOf d 3 8 + 1
/-- ACC_EN. -/
def cAccEn (d : Nat) : Bool := decide (fieldOf d 11 1 = 1)
/-- ACC_BANK. -/
def cBank (d : Nat) : Nat := fieldOf d 12 1
/-- The entry that ACC0 reads at an iteration. -/
def cEntry (d i : Nat) : Nat := fieldOf d 13 8 + i * (1 + fieldOf d 21 1)
/-- SWAP_SCALE. -/
def cSwapScale (d : Nat) : Bool := decide (fieldOf d 23 1 = 1)
/-- LOAD_SCALE. -/
def cLoadScale (d : Nat) : Bool := decide (fieldOf d 24 1 = 1)
/-- MARK_SRC. -/
def cMarkSrc (d : Nat) : Nat := fieldOf d 25 2
/-- RETRY_EN. -/
def cRetryEn (d : Nat) : Bool := decide (fieldOf d 27 1 = 1)
/-- STATUS_EN. -/
def cStatusEn (d : Nat) : Bool := decide (fieldOf d 28 1 = 1)
/-- OUT_ZP. -/
def cOutZp (d : Nat) : Int := signedOf 8 (fieldOf d 32 8)
/-- UNF_PERMILLE. -/
def cPermille (d : Nat) : Nat := fieldOf d 40 10
/-- UNF_SHIFT_MAX. -/
def cShiftMax (d : Nat) : Nat := fieldOf d 50 4
/-- Stream X. -/
def cX (d : Nat) : Nat := fieldOf d 64 40
/-- Stream Y. -/
def cY (d : Nat) : Nat := fieldOf d 104 40
/-- Stream W. -/
def cW (d : Nat) : Nat := fieldOf d 144 40
/-- SCALE_ROW. -/
def cScaleRow (d : Nat) : Nat := fieldOf d 184 17
/-- STATUS_ROW. -/
def cStatusRow (d : Nat) : Nat := fieldOf d 201 19
/-- STATUS_WORD. -/
def cStatusWord (d : Nat) : Nat := fieldOf d 220 3
/-- Stage word `j`. -/
def cStage (d j : Nat) : Nat := fieldOf d (256 + 32 * j) 32

/-- ROW of a stream. -/
def sRow (x : Nat) : Nat := fieldOf x 0 19
/-- STRIDE. -/
def sStride (x : Nat) : Nat := fieldOf x 19 13
/-- FMT. -/
def sFmt (x : Nat) : Nat := fieldOf x 32 4
/-- LZ. -/
def sLz (x : Nat) : Bool := decide (fieldOf x 36 1 = 1)
/-- PART. -/
def sPart (x : Nat) : Nat := fieldOf x 37 2
/-- MONLY. -/
def sMonly (x : Nat) : Bool := decide (fieldOf x 39 1 = 1)

/-- OP[4:0] of a stage word. -/
def stOp (w : Nat) : Nat := w % 32
/-- Whether a stage is of the INT32 type. -/
def stInt (w : Nat) : Bool := decide (fieldOf w 5 1 = 1)
/-- DST. -/
def stDst (w : Nat) : Nat := fieldOf w 24 6
/-- XERASE. -/
def stXerase (w : Nat) : Bool := decide (fieldOf w 30 1 = 1)

/-- Operands that an operation uses (R104). -/
def opArity (op : Nat) : Nat :=
  if op = 4 ∨ op = 0xB then 3 else if (1 ≤ op ∧ op ≤ 0xA) ∨ op = 0x19 then 2 else 1

/-- The operand codes that a stage uses. -/
def stUsed (w : Nat) : List Nat := (List.range (opArity (stOp w))).map fun k => fieldOf w (6 + 6 * k) 6

/-- The stage words of a chain. -/
def cStageList (d : Nat) : List Nat := (List.range (cStages d)).map (cStage d)

/-- Whether a chain uses an operand code. -/
def cUses (d code : Nat) : Bool := (cStageList d).any fun w => (stUsed w).any fun c => decide (c = code)

/-- The stage that writes W. -/
def cWstage (d : Nat) : Option Nat := (List.range (cStages d)).find? fun j => decide (stDst (cStage d j) = 0x3F)

/-- A plain read-out (R97): one stage, MOV of ACC0 to W. A packed pair is written bit for bit instead (R111). -/
def cPlain (d : Nat) : Bool :=
  cAccEn d && decide (cStages d = 1 ∧ stOp (cStage d 0) = 0 ∧ fieldOf (cStage d 0) 6 6 = 0x2A ∧ stDst (cStage d 0) = 0x3F ∧
    sFmt (cW d) ≠ 3)

/-- Whether a stream's encoding is reserved. -/
def streamReserved (x : Nat) : Bool := decide (12 < sFmt x ∨ sPart x = 3 ∨ (sFmt x ≠ 3 ∧ isBfp (sFmt x) = false ∧ sPart x ≠ 0))

/-- Whether a chain has a reserved encoding or a reserved bit (R12, R99 to R101, R104): its Plan is refused at library entry. PACK with OP[5]
of 0, which R104 calls INT32 only and R103 does not list, is not among them: it runs as PACK (log 216). -/
def chainReserved (d : Nat) : Bool :=
  decide (fieldOf d 22 1 ≠ 0 ∨ fieldOf d 29 3 ≠ 0 ∨ fieldOf d 54 10 ≠ 0 ∨ fieldOf d 223 33 ≠ 0 ∨ cMarkSrc d = 3 ∨
      1000 < cPermille d) ||
    streamReserved (cX d) || streamReserved (cY d) || streamReserved (cW d) ||
    decide (sLz (cW d) = true ∨ sPart (cW d) ≠ 0 ∨ sMonly (cW d) = true) ||
    (cStageList d).any fun w =>
      decide (0x1A ≤ stOp w ∨ fieldOf w 31 1 ≠ 0 ∨ (0x20 ≤ stDst w ∧ stDst w < 0x3E)) ||
        (stUsed w).any fun c => decide (c = 0x27 ∨ 0x38 ≤ c)

/-- Operand codes that the stages of a chain before stage `j` cannot name: S_k is the result of stage k, which must lie before (R103). -/
def stageOrderBad (d j : Nat) : Bool := (stUsed (cStage d j)).any fun c => decide (0x20 ≤ c ∧ c ≤ 0x26 ∧ j ≤ c - 0x20)

/-- Range of an output zero point: that of the destination format (02 R55). -/
def outZpBad (d : Nat) : Bool :=
  let c := sFmt (cW d)
  (cWstage d).isSome && isInt c && decide (cOutZp d < -2 ^ (intBits c - 1) ∨ 2 ^ (intBits c - 1) ≤ cOutZp d)

/-- Whether a chain breaks one of the rules of R103. -/
def chainRefused (d : Nat) : Bool :=
  ((List.range (cStages d)).any fun j => stageOrderBad d j) ||
    (!cAccEn d && (cUses d 0x2A || cUses d 0x2B || cUses d 0x2C)) ||
    (decide (cMarkSrc d = 0) && cUses d 0x2E) ||
    (cAccEn d && decide (255 < cEntry d (cIters d - 1) + bit (cUses d 0x2B))) ||
    decide (1 < ((cStageList d).filter fun w => decide (stDst w = 0x3F)).length) ||
    (sMonly (cX d) && cUses d 0x28) || (sMonly (cY d) && cUses d 0x29) ||
    (cRetryEn d && !cPlain d) ||
    (match cWstage d with
      | some j => decide (sFmt (cW d) = 3) && !stInt (cStage d j)
      | none => false) ||
    (cStageList d).any fun w => stInt w && decide (0x0E ≤ stOp w ∧ stOp w ≤ 0x13)

/-! ### Streams (R96, R100) -/

/-- An element as it enters a chain: its word and its flags (R96, 02 R53). -/
def streamWord (x raw : Nat) : Nat × Nat :=
  let c := sFmt x
  if c = 3 then
    if sPart x = 0 then (raw, 0) else (unsignedOf 32 (if sPart x = 1 then cplxRe raw else cplxIm raw), 0)
  else if c = 0 then (unsignedOf 32 (signedOf 4 (fieldOf raw (4 * bit (!sLz x && Config.int4Lane raw)) 4)), 0)
  else if isInt c then (unsignedOf 32 (signedOf (intBits c) raw), 0)
  else if c = 8 then
    match fpNum raw with
    | .fin _ _ => (raw, 0)
    | _ => convert 8 0 (fpNum raw)
  else convert 8 0 (floatNum c raw)

/-- A block-format element: the pair, or one part as INT32, and the overranges met (02 R39). -/
def bfpWord (x row b k : Nat) : Nat × Nat :=
  let i := bfpValue (sFmt x) row b (2 * k)
  let q := bfpValue (sFmt x) row b (2 * k + 1)
  if sPart x = 0 then (cplxOf i.1 q.1, bit i.2 + bit q.2)
  else if sPart x = 1 then (unsignedOf 32 i.1, bit i.2)
  else (unsignedOf 32 q.1, bit q.2)

/-- Decode overranges added to a tally. -/
def Tally.overranges (t : Tally) (k : Nat) : Tally :=
  if k = 0 then t else { t with bfp := t.bfp + k, flags := Nat.lor t.flags flBfpOvr }

/-- What a stream delivers at an iteration: its 256 words, its mark row, and what it adds to the tally; none where a row is not
delivered. -/
def State.readStream (s : State) (n entry x i : Nat) (data mark : Bool) (t : Tally) :
    Option (List Nat × Nat) × Tally × State :=
  let c := sFmt x
  let base := sRow x + i * sStride x
  if isBfp c then
    let per := 12 * bfpBlocks c
    let first := 256 * i / per
    let r := s.winReadN n entry .a 2 (sRow x + first) ((256 * i + 255) / per - first + 1)
    match r.1 with
    | none => (none, t, r.2)
    | some big =>
      let l := (List.range 256).map fun k =>
        let e := 256 * i + (if sLz x then 0 else k)
        bfpWord x (fieldOf big (512 * (e / per - first)) 512) (e % per / 12) (e % 12)
      (some (l.map (·.1), Config.bfpMark s.free), if data then t.overranges ((if sLz x then l.take 1 else l).map (·.2)).sum else t, r.2.tick)
  else
    let r := if data then s.winReadN n entry .a 2 base (laneRows c) else (some 0, s)
    let q := if mark then r.2.winRead n entry .a 2 (base + laneRows c) else (some 0, r.2)
    match r.1, q.1 with
    | some big, some m =>
      let l := (List.range 256).map fun k => streamWord x (laneOf c big (if sLz x then 0 else k))
      let t1 := if data then
        (if sLz x then l.take 1 else l).foldl (fun a f =>
          if hasFlag f.2 flNonfin then { a with nonfin := a.nonfin + 1, flags := Nat.lor a.flags f.2 } else a) t
        else t
      (some (l.map (·.1), m), t1, q.2)
    | _, _ => (none, t, q.2)

/-! ### Accumulator reads (02 R48, R50, R55; R97) -/

/-- The exact value of an accumulator, saturated to the window where it is windowed, and its flags. -/
def AccEntry.num (a : AccEntry) : Num × Nat :=
  let w := windowed a.wFmt
  let v := if w then satInt 128 a.v else (a.v, false)
  let f := (if v.2 then flWsat else 0) + (if a.ovf then flAccOvf else 0) + (if a.trunc then flWtrunc else 0)
  if a.poison then (.nan, f) else (.fin v.1 (accPos a.wFmt a.aFmt a.win), f)

/-- A scale's exact value, its exponent moved. -/
def scaleNum (w : Nat) (shift : Int) : Num :=
  match fpNum w with
  | .fin m e => .fin m (e + shift)
  | x => x

/-! ### Stages (R102 to R110) -/

/-- The words of stage operands that all stages of one iteration share. -/
structure IterIn where
  /-- vector registers as they stood at the start of the iteration, by register × 256 + Lane -/
  v : SMap Word
  x : List Nat
  y : List Nat
  acc0 : List Nat
  acc1 : List Nat
  scl : List Nat
  mark : Nat
  /-- whether the chain has marks -/
  marked : Bool

/-- A vector register's element. -/
def vreg (v : SMap Word) (r n : Nat) : Nat := (SMap.get wordUnlisted v (256 * r + n)).toNat

/-- An operand's words over the 256 Lanes (R101). -/
def IterIn.operand (q : IterIn) (i32 : Bool) (done : List (List Nat)) (c : Nat) : List Nat :=
  if c < 0x20 then (List.range 256).map (vreg q.v c)
  else if c ≤ 0x26 then done[c - 0x20]?.getD []
  else if c = 0x28 then q.x
  else if c = 0x29 then q.y
  else if c = 0x2A then q.acc0
  else if c = 0x2B then q.acc1
  else if c = 0x2C then q.scl
  else if c = 0x2D then (List.range 256).map fun n => if i32 then n else (fpOut (.fin n 0) false).1
  else if c = 0x2E then (List.range 256).map fun n => truth i32 (q.marked && markErase q.mark n)
  else if 0x30 ≤ c ∧ c ≤ 0x37 then List.replicate 256 (vreg q.v (c - 0x30) 0)
  else List.replicate 256 0

/-- Least bit of the FP32 result whose exact value has its leading bit at 2^`top`. -/
def fpQuantum (top : Int) : Int := max top (-126) - 23

/-- The FP32 word of `k` × 2^`q`, `q` its quantum. -/
def fpWord (q : Int) (k : Nat) : Nat := ((q + 149) * 2 ^ 23 + k).toNat

/-- A word that the tables may give: up to 4 words from the rounded result, as a free value moves it, where that keeps the
bound; else the rounded result. -/
def nearFree (base free : Nat) (ok : Num → Bool) : Nat :=
  let w := base + free % 9 - 4
  if ok (fpNum w) then w else base

/-- 1/|A| for A = `m` × 2^`e`, within 2 ulp (R108). -/
def recipNear (m : Nat) (e : Int) (free : Nat) : Nat :=
  let l := Nat.log2 m
  let top : Int := if m = 2 ^ l then -e - l else -e - l - 1
  let q := fpQuantum top
  nearFree (fpWord q (rneDiv (2 ^ (-e - q).toNat : Int) m).toNat) free fun c =>
    match numAdd (numMul c (.fin m e)) (.fin (-1) 0) with
    | .fin x y => dyLe (x.natAbs : Int) y m (e + q + 1)
    | _ => false

/-- 1/√A for A = `m` × 2^`e`, within 2 ulp (R108). -/
def rsqrtNear (m : Nat) (e : Int) (free : Nat) : Nat :=
  let l := Nat.log2 m
  let top : Int := if m = 2 ^ l then (-e - l) / 2 else (-e - l - 1) / 2
  let q := fpQuantum top
  nearFree (fpWord q (rneSqrt (2 ^ (-2 * q - e).toNat) m)) free fun c =>
    let hi := numAdd c (.fin 2 q)
    let lo := numAdd c (.fin (-2) q)
    numLe (.fin 1 0) (numMul (numMul hi hi) (.fin m e)) && (lo.neg || numLe (numMul (numMul lo lo) (.fin m e)) (.fin 1 0))

/-- A value as a rational; zero of one that is not finite. -/
def Num.rat : Num → Rat
  | .fin m e => (m : Rat) * (2 : Rat) ^ e
  | _ => 0

/-- The least word that satisfies a test of its value, where the free one does not. -/
def boundedWord (free : Nat) (ok : Rat → Bool) : Nat :=
  let good (w : Nat) : Bool := match fpNum w with
    | .fin m e => ok (Num.fin m e).rat
    | _ => false
  if good free then free else ((List.range (2 ^ 32)).find? good).getD 0

/-- Whether `x` is at most 2^(p / 2^k). -/
def lePow2 (x : Rat) (p : Int) (k : Nat) : Bool := decide (x ≤ 0 ∨ x ^ (2 ^ k) ≤ (2 : Rat) ^ p)
/-- Whether 2^(p / 2^k) is at most `x`. -/
def pow2Le (p : Int) (k : Nat) (x : Rat) : Bool := decide (0 < x ∧ (2 : Rat) ^ p ≤ x ^ (2 ^ k))

/-- An exponent `m` × 2^`e` as p / 2^k. -/
def powArgs (m e : Int) : Int × Nat := (m * 2 ^ e.toNat, (-e).toNat)

/-- 2^A for A = `m` × 2^`e` below 128, within 2 ulp; +0 where the exact value rounds to zero (R108). -/
def exp2Near (m e : Int) (free : Nat) : Nat :=
  let a := powArgs m e
  if a.1 ≤ -150 * 2 ^ a.2 then 0
  else
    let u : Rat := 2 * (2 : Rat) ^ fpQuantum (a.1 / 2 ^ a.2)
    boundedWord free fun c => lePow2 (c - u) a.1 a.2 && pow2Le a.1 a.2 (c + u) && decide (0 ≤ c)

/-- Whether a rational of exponent form lies at or below log2 x: 2^c ≤ x. -/
def leLog2 (c x : Rat) : Bool := decide ((2 : Rat) ^ c.num ≤ x ^ c.den)
/-- Whether it lies at or above. -/
def log2Le (c x : Rat) : Bool := decide (x ^ c.den ≤ (2 : Rat) ^ c.num)

/-- log2 of x = `m` × 2^`e` > 0: within 2^−22 for x in [0.5, 2), else within 2 ulp (R108). -/
def log2Near (m : Nat) (e : Int) (free : Nat) : Nat :=
  let x := (Num.fin m e).rat
  let l := Nat.log2 m
  let top : Int := l + e
  let whole : Nat := if 0 ≤ top then top.toNat else if m = 2 ^ l then (-top).toNat else (-top - 1).toNat
  let u : Rat := if top = -1 ∨ top = 0 then (2 : Rat) ^ (-22 : Int) else 2 * (2 : Rat) ^ fpQuantum (Nat.log2 whole)
  boundedWord free fun c => leLog2 (c - u) x && log2Le (c + u) x

/-- Bounds of e^x for 0 ≤ x < 200: 600 terms of its series, and those terms with a bound of the rest. -/
def expBounds (x : Rat) : Rat × Rat :=
  let r := (List.range 600).foldl (fun (acc : Rat × Rat) k => (acc.1 + acc.2, acc.2 * x / (k + 1))) (0, 1)
  (r.1, r.1 + 2 * r.2)

/-- tanh A within 2^−22 (R108). -/
def tanhNear (x : Rat) (free : Nat) : Nat :=
  let b := expBounds (2 * |x|)
  let f (y : Rat) : Rat := (y - 1) / (y + 1)
  let lo := if x < 0 then -f b.2 else f b.1
  let hi := if x < 0 then -f b.1 else f b.2
  boundedWord free fun c => decide (lo - (2 : Rat) ^ (-22 : Int) ≤ c ∧ c ≤ hi + (2 : Rat) ^ (-22 : Int))

/-- 1/(1 + e^−A) within 2^−23 (R108). -/
def logiNear (x : Rat) (free : Nat) : Nat :=
  let b := expBounds |x|
  let lo := if x < 0 then 1 / (1 + b.2) else b.1 / (1 + b.1)
  let hi := if x < 0 then 1 / (1 + b.1) else b.2 / (1 + b.2)
  boundedWord free fun c => decide (lo - (2 : Rat) ^ (-23 : Int) ≤ c ∧ c ≤ hi + (2 : Rat) ^ (-23 : Int))

/-- The six functions (R108): the special values as stated, and otherwise the table's word, which is free within the bound that the rule
gives. The result, the saturations and the non-finite sources to count. -/
def sieveFn (op w : Nat) : Nat × Nat × Nat :=
  let free := Config.sieveFunction op w % 2 ^ 32
  match fpNum w with
  | .nan => (fpNan, 0, 0)
  | x =>
    let neg := fpNeg w
    let zero := x.zero
    if op = 0x0E then
      if zero then (fSigned 8 neg fpMax, 1, 0)
      else
        match x with
        | .fin m e =>
          if dyLe ((2 ^ 25 - 1) * m.natAbs) (e + 103) 1 0 then (fSigned 8 neg fpMax, 1, 0)
          else (fSigned 8 neg (recipNear m.natAbs e free), 0, 0)
        | _ => (fSigned 8 neg 0, 0, 0)
    else if op = 0x0F then
      if zero then (if neg then (fpNan, 0, 1) else (fpMax, 0, 0))
      else if neg then (fpNan, 0, 1)
      else
        match x with
        | .fin m e => (rsqrtNear m.natAbs e free, 0, 0)
        | _ => (0, 0, 0)
    else if op = 0x10 then
      if numLe (.fin 128 0) x then (fpMax, 1, 0)
      else
        match x with
        | .fin m e => (exp2Near m e free, 0, 0)
        | _ => (0, 0, 0)
    else if op = 0x11 then
      if zero then (fSigned 8 true fpMax, 1, 0) else if neg then (fpNan, 0, 1)
      else
        match x with
        | .fin m e => (log2Near m.natAbs e free, 0, 0)
        | _ => (fpMax, 1, 0)
    else if op = 0x12 then
      if numLe (.fin 91 0) (numMul x (.fin 10 0)) then (fpOne, 0, 0)
      else if numLe (numMul x (.fin 10 0)) (.fin (-91) 0) then (fSigned 8 true fpOne, 0, 0)
      else (tanhNear x.rat free, 0, 0)
    else
      if numLe (.fin 174 0) (numMul x (.fin 10 0)) then (fpOne, 0, 0)
      else if numLe x (.fin (-104) 0) then (0, 0, 0)
      else (logiNear x.rat free, 0, 0)

/-- A comparison of two operands (R107). -/
def stageCompare (i32 : Bool) (op a b : Nat) : Bool :=
  let le := if i32 then decide (i32Of a ≤ i32Of b) else numLe (fpNum a) (fpNum b)
  let ge := if i32 then decide (i32Of b ≤ i32Of a) else numLe (fpNum b) (fpNum a)
  if op = 7 then le && !ge else if op = 8 then le else if op = 9 then le && ge else !(le && ge)

/-- One Lane of a stage that is not segmented: its result, the saturations and the non-finite sources to count (R104 to
R108). -/
def stageLane (i32 : Bool) (op a b c : Nat) : Nat × Nat × Nat :=
  let r (x : Nat × Nat) : Nat × Nat × Nat := (x.1, x.2, 0)
  if op = 0 then (if i32 then (a, 0, 0) else r (fpPass a))
  else if op = 1 then r (if i32 then i32Out (i32Of a + i32Of b) else fpAdd a b)
  else if op = 2 then r (if i32 then i32Out (i32Of a - i32Of b) else fpSub a b)
  else if op = 3 then r (if i32 then i32Out (i32Of a * i32Of b) else fpMul a b)
  else if op = 4 then r (if i32 then i32Out (i32Of a * i32Of b + i32Of c) else fpFma a b c)
  else if op = 5 then r (if i32 then i32Out (min (i32Of a) (i32Of b)) else fpMin a b)
  else if op = 6 then r (if i32 then i32Out (max (i32Of a) (i32Of b)) else fpMaxOf a b)
  else if op ≤ 0xA then (truth i32 (stageCompare i32 op a b), 0, 0)
  else if op = 0xB then (if (if i32 then a else a % 2 ^ 31) ≠ 0 then b else c, 0, 0)
  else if op = 0xC then r (if i32 then i32Out (i32Of a).natAbs else fpWithSign a false)
  else if op = 0xD then r (if i32 then i32Out (-i32Of a) else fpWithSign a (!fpNeg a))
  else if op ≤ 0x13 then sieveFn op a
  else if op = 0x18 then
    if i32 then
      match fpNum a with
      | .nan => (0, 0, 1)
      | .inf n => r (i32Out (if n then -2 ^ 31 - 1 else 2 ^ 31))
      | .fin m e => r (i32Out (dyRound m e 0))
    else r (fpOut (.fin (i32Of a) 0) false)
  else
    let x := satInt 16 (i32Of a)
    let y := satInt 16 (i32Of b)
    (cplxOf x.1 y.1, bit x.2 + bit y.2, 0)

/-- The Lane groups that start a segment (R109). -/
def segStart (mark g : Nat) : Bool := decide (g = 0) || markStart mark g || decide (markSeg mark g ≠ markSeg mark (g - 1))

/-- Segments that a change of SEG_ID alone starts. -/
def segOdd (mark : Nat) : Nat :=
  ((List.range 16).filter fun g => decide (0 < g) && !markStart mark g && decide (markSeg mark g ≠ markSeg mark (g - 1))).length

/-- The first Lane group of the segment that a Lane group belongs to. -/
def segFirst (marked : Bool) (mark : Nat) : Nat → Nat
  | 0 => 0
  | g + 1 => if marked && segStart mark (g + 1) then g + 1 else segFirst marked mark g

/-- A pairwise tree over 2^`k` Lanes from `lo`; a Lane left out takes no part (R110). -/
def pairTree (v : Nat → Option Nat) : Nat → Nat → Option Nat × Nat
  | 0, lo => (v lo, 0)
  | k + 1, lo =>
    let a := pairTree v k lo
    let b := pairTree v k (lo + 2 ^ k)
    match a.1, b.1 with
    | some x, some y => let r := fpAdd x y; (some r.1, a.2 + b.2 + r.2)
    | some x, none => (some x, a.2 + b.2)
    | none, y => (y, a.2 + b.2)

/-- A segment's result over the Lane groups `gs`, and the saturations to count (R110). -/
def segResult (i32 : Bool) (op : Nat) (v : Nat → Option Nat) (gs : List Nat) : Nat × Nat :=
  let vals := (gs.flatMap fun g => (List.range 16).map fun k => 16 * g + k).filterMap v
  match vals with
  | [] => (0, 0)
  | x :: xs =>
    if op = 0x17 then (if i32 then (x, 0) else fpPass x)
    else if op = 0x14 then
      if i32 then i32Out (vals.map i32Of).sum
      else
        let sums := gs.map fun g => pairTree v 4 (16 * g)
        let sat := (sums.map (·.2)).sum
        match sums.filterMap (·.1) with
        | [] => (0, sat)
        | y :: ys =>
          let r := ys.foldl (fun acc z => let r := fpAdd acc.1 z; (r.1, acc.2 + r.2)) (y, sat)
          let p := fpPass r.1
          (p.1, r.2 + p.2)
    else
      let f (a b : Nat) : Nat :=
        if op = 0x15 then (if i32 then (i32Out (max (i32Of a) (i32Of b))).1 else (fpMaxOf a b).1)
        else (if i32 then (i32Out (min (i32Of a) (i32Of b))).1 else (fpMin a b).1)
      let m := xs.foldl f x
      (if i32 = false ∧ fpNum m = .nan then fpNan else m, 0)

/-- A segmented stage over all Lanes (R109, R110). -/
def segStage (q : IterIn) (i32 xe : Bool) (op : Nat) (a : List Nat) : List Nat × Nat :=
  let v (n : Nat) : Option Nat := if xe ∧ q.marked ∧ markErase q.mark n then none else a[n]?
  let first := (List.range 16).map fun g => segFirst q.marked q.mark g
  let res := first.eraseDups.map fun h => (h, segResult i32 op v ((List.range 16).filter fun g => decide (first[g]? = some h)))
  ((List.range 256).map fun n => ((res.find? fun r => decide (some r.1 = first[n / 16]?)).map (·.2.1)).getD 0,
    (res.map (·.2.2)).sum)

/-- Non-finite sources of a stage added to a tally. -/
def Tally.nonfinite (t : Tally) (k : Nat) : Tally :=
  if k = 0 then t else { t with nonfin := t.nonfin + k, flags := Nat.lor t.flags flNonfin }

/-- The stages of an iteration in order: their results, and what they add to the tally. -/
def runStages (q : IterIn) : List Nat → List (List Nat) → Tally → List (List Nat) × Tally
  | [], done, t => (done, t)
  | w :: ws, done, t =>
    let i32 := stInt w
    let op := stOp w
    let arg (k : Nat) : List Nat := q.operand i32 done (fieldOf w (6 + 6 * k) 6)
    if 0x14 ≤ op ∧ op ≤ 0x17 then
      let r := segStage q i32 (stXerase w) op (arg 0)
      runStages q ws (done ++ [r.1]) { t with arith := t.arith + r.2 }
    else
      let a := arg 0
      let b := if 2 ≤ opArity op then arg 1 else []
      let c := if 3 ≤ opArity op then arg 2 else []
      let l := (List.range 256).map fun n => stageLane i32 op (a.getD n 0) (b.getD n 0) (c.getD n 0)
      runStages q ws (done ++ [l.map (·.1)])
        (({ t with arith := t.arith + (l.map (·.2.1)).sum } : Tally).nonfinite (l.map (·.2.2)).sum)

/-! ### Output (R111) -/

/-- An output element: its Lane bits or its block value, and its flags. -/
def outElem (c : Nat) (zp : Int) (x : Num) : Nat × Int × Nat :=
  if isBfp c then
    let r := convert 2 0 x
    (0, signedOf 16 r.1, r.2)
  else
    let r := convert c (if isInt c then zp else 0) x
    (if c = 0 then Config.int4Other r.1 % 16 * 16 + r.1 else r.1, 0, r.2)

/-- A list of output elements added to the tally: their flags, the segments of those that saturate or underflow. -/
def Tally.outputs (t : Tally) (c : Nat) (marked : Bool) (mark : Nat) (l : List (Nat × Int × Nat)) : Tally :=
  (List.range l.length).foldl
    (fun a n =>
      let x := l[n]?.getD (0, 0, 0)
      let a1 := a.elem x.2.2
      let bad := marked && !hasFlag x.2.2 flNonfin && (hasFlag x.2.2 flSat || hasFlag x.2.2 flUnf)
      { a1 with
        bad := if bad then addOnce a1.bad (markSeg mark (n / 16)) else a1.bad
        out := if isBfp c then a1.out ++ [x.2.1] else a1.out }) t

/-- A Lane row, and its mark row, written to stream W at an iteration (R37, R100, R111). -/
def State.writeW (s : State) (n entry d i : Nat) (l : List Nat) (mark : Nat) : State :=
  let w := cW d
  let c := sFmt w
  let base := sRow w + i * sStride w
  if isBfp c then
    if cMarkSrc d = 0 then s
    else
      s.winWrite n entry .a 3 (sRow w + bfpRowCount c (256 * cIters d) + Config.bfpMarkRow w i % cIters d) mark (2 ^ 64 - 1)
  else
    let s1 := s.winWriteN n entry .a 3 base (laneRow c l) (laneRows c)
    if cMarkSrc d = 0 then s1 else s1.winWrite n entry .a 3 (base + laneRows c) mark (2 ^ 64 - 1)

/-! ### A chain -/

/-- Change a Sieve. -/
def State.modSiv (s : State) (n : Nat) (f : Sieve → Sieve) : State := s.modPlot n fun p => { p with siv := f p.siv }

/-- A Sieve. -/
def State.siv (s : State) (n : Nat) : Sieve := (s.plot n).siv

/-- The active scale bank of a Sieve. -/
def Sieve.scales (v : Sieve) : SMap Word := if v.active then v.scale1 else v.scale0

/-- A scale of a bank. -/
def scaleOf (m : SMap Word) (n : Nat) : Nat := (SMap.get scaleUnlisted m n).toNat

/-- Whether an FP32 word is a scale: positive, finite and normal (02 R56). -/
def scaleOk (w : Nat) : Bool := decide (0x00800000 ≤ w ∧ w < 0x7F800000)

/-- LOAD_SCALE and SWAP_SCALE of a chain (R113). -/
def State.chainScales (s : State) (n : Nat) (q : ChainReq) : State :=
  let d := q.desc
  let s1 :=
    if cLoadScale d then
      let r := s.winReadN n q.entry .w 1 (cScaleRow d) 16
      match r.1 with
      | none => r.2
      | some big =>
        let l := (List.range 256).map fun k => fieldOf big (32 * k) 32
        let m : SMap Word := (List.range 256).foldl
          (fun m k => SMap.put scaleUnlisted m k (BitVec.ofNat 32 (l[k]?.getD 0))) []
        let s2 := r.2.modSiv n fun v => if v.active then { v with scale0 := m } else { v with scale1 := m }
        if l.all scaleOk then s2 else s2.faultCtx q.ctx 0x0C
    else s
  if cSwapScale d then s1.modSiv n fun v => { v with active := !v.active } else s1

/-- An accumulator as the Sieve reads it: where the read meets a write of the same step, its previous contents (R98). -/
def BigTop.readEntry (b : BigTop) (races : List Nat) (k e n : Nat) : AccEntry :=
  if e ∈ races then SMap.get accUnlisted b.before (accKey k e n) else b.entry k e n

/-- One ACC operand at an iteration: 256 words, and the flags of its reads (R97). -/
def accWords (b : BigTop) (races : List Nat) (scales : SMap Word) (shift : Int) (k e : Nat) (t : Tally) : List Nat × Tally :=
  (List.range 256).foldl
    (fun (acc : List Nat × Tally) n =>
      let a := (b.readEntry races k e n).num
      let r := convert 8 0 (numMul a.1 (scaleNum (scaleOf scales n) shift))
      let t1 := acc.2.elem (Nat.lor a.2 r.2)
      (acc.1 ++ [r.1], { t1 with wsat := t1.wsat + bit (hasFlag a.2 flWsat) })) ([], t)

/-- One iteration of a plain read-out (02 R55; R97): the Lanes of W. -/
def plainLanes (b : BigTop) (races : List Nat) (scales : SMap Word) (shift : Int) (d i mark : Nat) (t : Tally) : List Nat × Tally :=
  let c := sFmt (cW d)
  let l := (List.range 256).map fun n =>
    let a := (b.readEntry races (cBank d) (cEntry d i) n).num
    (a.2, numMul a.1 (scaleNum (scaleOf scales n) shift))
  let t1 := l.foldl
    (fun t x =>
      let u := { t with flags := Nat.lor t.flags x.1, wsat := t.wsat + bit (hasFlag x.1 flWsat) }
      match x.2 with
      | .fin m e => u.mag m e
      | _ => u) t
  let outs := l.map fun x => outElem c (cOutZp d) x.2
  (outs.map (·.1), t1.outputs c (decide (cMarkSrc d ≠ 0)) mark outs)

/-- One iteration of a chain (R100 to R111); `shift` is added to the scales' exponents. None where a row is not delivered. -/
def State.chainIter (s : State) (n : Nat) (q : ChainReq) (shift : Int) (i : Nat) (t : Tally) : Option Tally × State :=
  let d := q.desc
  let xr := s.readStream n q.entry (cX d) i (cUses d 0x28) (decide (cMarkSrc d = 1)) t
  let useX := cUses d 0x28 || decide (cMarkSrc d = 1)
  let a := if useX then xr else (some ([], 0), t, s)
  let useY := cUses d 0x29 || decide (cMarkSrc d = 2)
  let b := if useY then a.2.2.readStream n q.entry (cY d) i (cUses d 0x29) (decide (cMarkSrc d = 2)) a.2.1
    else (some ([], 0), a.2.1, a.2.2)
  match a.1, b.1 with
  | some x, some y =>
    let s1 := b.2.2
    let marked := decide (cMarkSrc d ≠ 0)
    let mark := if cMarkSrc d = 1 then x.2 else y.2
    let t0 := b.2.1
    let t1 := if marked then
      { t0 with
        segMark := t0.segMark + segOdd mark
        segs := (List.range 16).foldl (fun l g => addOnce l (markSeg mark g)) t0.segs }
      else t0
    let sv := s1.siv n
    if cPlain d then
      let r := plainLanes (s1.btp n) q.races sv.scales shift d i mark t1
      (some r.2, s1.writeW n q.entry d i r.1 mark)
    else
      let z0 := if cUses d 0x2A then accWords (s1.btp n) q.races sv.scales shift (cBank d) (cEntry d i) t1 else ([], t1)
      let z1 := if cUses d 0x2B then accWords (s1.btp n) q.races sv.scales shift (cBank d) (cEntry d i + 1) z0.2 else ([], z0.2)
      let inp : IterIn :=
        { v := sv.v, x := x.1, y := y.1, acc0 := z0.1, acc1 := z1.1
          scl := (List.range 256).map (scaleOf sv.scales), mark := mark, marked := marked }
      let r := runStages inp (cStageList d) [] z1.2
      let s2 := s1.modSiv n fun v =>
        { v with
          v := (List.range (cStages d)).foldl
            (fun m j =>
              let g := stDst (cStage d j)
              if g < 0x20 then
                (List.range 256).foldl
                  (fun m k => SMap.put wordUnlisted m (256 * g + k) (BitVec.ofNat 32 ((r.1.getD j []).getD k 0))) m
              else m) v.v }
      match cWstage d with
      | none => (some r.2, s2)
      | some j =>
        let c := sFmt (cW d)
        let vals := r.1[j]?.getD []
        let outs := vals.map fun w =>
          if c = 3 then (w, 0, 0)
          else outElem c (cOutZp d) (if stInt (cStage d j) then .fin (i32Of w) 0 else fpNum w)
        (some (r.2.outputs c marked mark outs), s2.writeW n q.entry d i (outs.map (·.1)) mark)
  | _, _ => (none, b.2.2)

/-- The iterations of a chain from `i` on. -/
def State.chainIters (s : State) (n : Nat) (q : ChainReq) (shift : Int) (i : Nat) (t : Tally) : Nat → Option Tally × State
  | 0 => (some t, s)
  | k + 1 =>
    let r := s.chainIter n q shift i t
    match r.1 with
    | none => (none, r.2)
    | some t1 => r.2.chainIters n q shift (i + 1) t1 k

/-- Every iteration of a chain, and its block-format output (R100). -/
def State.chainBody (s : State) (n : Nat) (q : ChainReq) (shift : Int) : Option Tally × State :=
  let r := s.chainIters n q shift 0 {} (cIters q.desc)
  match r.1 with
  | none => r
  | some t =>
    if isBfp (sFmt (cW q.desc)) then
      let rows := bfpRows (sFmt (cW q.desc)) t.out
      (some t, (List.range rows.length).foldl
        (fun s k => s.winWrite n q.entry .a 3 (sRow (cW q.desc) + k) (rows[k]?.getD 0) (2 ^ 64 - 1)) r.2)
    else r

/-- A chain's tally is counted (02 R66; R106, R109, R116). -/
def State.countTally (s : State) (n : Nat) (q : ChainReq) (t : Tally) : State :=
  let p := pgSiv n
  let part := some (s.partOf q.ctx)
  let s1 := ((((((s.bumpBy p 0x40 part t.ovf).bumpBy p 0x48 part t.unf).bumpBy p 0x50 part t.nonfin).bumpBy p 0x68 part
    t.bfp).bumpBy p 0x78 part t.arith).bumpBy p 0x80 part t.segMark).bumpBy (pgBtp n) 0x48 part t.wsat
  if 0 < t.segMark then s1.raise p 9 part else s1

/-- Elements that a chain writes (02 R60). -/
def cElems (d : Nat) : Nat := cIters d * 256 * (if sFmt (cW d) = 3 then 2 else 1)

/-- What a chain's end decides on, from its tally. -/
def chainResult (q : ChainReq) (t : Tally) : ChainResult :=
  let c := sFmt (cW q.desc)
  { req := q, numflags := t.flags, ovf := t.ovf, unf := t.unf, elems := cElems q.desc, kOver := kOver c t.magM t.magE
    kHead := kHead c t.magM t.magE, badSegs := t.bad, segs := t.segs, marked := decide (cMarkSrc q.desc ≠ 0) }

/-- Whether a chain's bank may be read: the verdicts of the passes issued before it are reached, no replay runs, and a flagged bank has been
settled (R98, 03 R87). -/
def BankLog.ready (b : BankLog) (q : ChainReq) : Bool := decide (q.needs = 0) && !b.replaying && (!b.flagged || b.net)

/-- The allocations that the Plan lists as fed by a tensor or bank, by its name (11 R278). -/
def State.fedBy (s : State) (c step name : Nat) : List Nat :=
  match s.step? c step with
  | none => []
  | some y => (y.feeds.filter fun e => decide (e.1 = name)).flatMap (·.2)

/-- The allocations that the Plan lists as fed by the tensor of a chain. -/
def State.feedsOf (s : State) (q : ChainReq) : List Nat := s.fedBy q.ctx q.step q.name

/-- SHIFT of the tensor that a chain's bank took as activation, as its status word recorded it in this step (02 R62). -/
def State.actShift (s : State) (q : ChainReq) : Int :=
  match s.step? q.ctx q.step with
  | none => 0
  | some y => ((y.shifts.find? fun e => decide (e.1 = q.act)).map (·.2)).getD 0

/-- A chain runs (R98 to R113). A bank that took Safety Net: the allocations that the Plan lists as fed by it take theirs (03 R88). -/
def State.runChain (s : State) (n : Nat) (q : ChainReq) : State :=
  let d := q.desc
  let part := some (s.partOf q.ctx)
  let s0 := s.modSiv n fun v => { v with waiting := none }
  if cAccEn d ∧ (s.btp n).ownedByOther (cBank d) q.ctx = true then s0.faultCtx q.ctx 0x1D
  else
    let s1 := if q.races = [] then s0
      else ((s0.bumpBy (pgSiv n) 0x70 part q.races.length).raise (pgSiv n) 8 part).raced q.ctx
    let s2 := s1.chainScales n q
    let r := s2.chainBody n q (s.actShift q)
    match r.1 with
    | none => r.2
    | some t0 =>
      let bank := (s.btp n).bank (cBank d)
      let t := if cAccEn d ∧ bank.wsat = true then { t0 with flags := Nat.lor t0.flags flWsat } else t0
      let net := cAccEn d && bank.net
      let s3 := ((r.2.countTally n q t).modSiv n fun v => { v with running := some { chainResult q t with net := net } }).bumpBy
        (pgSiv n) 0x90 part (cIters d)
      if net then s3.fallBack q.ctx q.step 3 2 (s3.fedBy q.ctx q.step q.bankName) else s3

/-- A Big Top and a Sieve drop what they hold of a context whose tasks have stopped: passes and chains that wait, and a read-out in progress
(11 R301). -/
def PlotSt.dropWork (p : PlotSt) (c : Nat) : PlotSt :=
  let mine (q : Option ChainReq) : Bool := match q with
    | some q => decide (q.ctx = c)
    | none => false
  let v := p.siv
  let first : Bool := match p.btp.queue with
    | q :: _ => decide (q.ctx = c)
    | [] => false
  { p with
    btp := { p.btp with queue := p.btp.queue.filter fun q => decide (q.ctx ≠ c), west := if first then [] else p.btp.west }
    siv :=
      { v with
        waiting := if mine v.waiting then none else v.waiting
        held := v.held.filter fun q => decide (q.ctx ≠ c)
        running := if mine (v.running.map (·.req)) then none else v.running
        retry := if mine (v.retry.map (·.req)) then none else v.retry
        retryGranted := v.retryGranted && !mine (v.retry.map (·.req)) } }

/-- The next chain issues: it waits where its bank may not yet be read (R98), and while another runs (R102). -/
def State.nextChain (s : State) (n : Nat) : State :=
  let v := s.siv n
  if v.waiting.isSome ∨ v.running.isSome ∨ v.retry.isSome then s
  else
    match v.held with
    | [] => s
    | q :: rest =>
      let s1 := s.modSiv n fun v => { v with held := rest }
      if cAccEn q.desc ∧ ((s.btp n).bank (cBank q.desc)).ready q = false then s1.modSiv n fun v => { v with waiting := some q }
      else s1.runChain n q

/-- Chains that are held issue as far as they may: one that ends at once, in a fault, lets the next one come. -/
def State.nextChains (s : State) (n : Nat) : Nat → State
  | 0 => s
  | k + 1 => (s.nextChain n).nextChains n k

/-- The chain that waits runs where its bank may now be read, and chains held behind one that has ended issue. -/
def State.pumpSieve (s : State) (n : Nat) : State :=
  let s1 := match (s.siv n).waiting with
    | none => s
    | some q => if ((s.btp n).bank (cBank q.desc)).ready q then s.runChain n q else s
  s1.nextChains n ((s1.siv n).held.length)

/-- Every Plot drops a context's work; what waited behind it goes on. -/
def State.dropWork (s : State) (c : Nat) : State :=
  (List.range 8).foldl (fun t n => ((t.modPlot n fun p => p.dropWork c).pumpSieve n).pumpBtp n) s

end Sys2Proof.Machine
end

