-- ==== Sys2Proof/Machine/Rms.lean ====
section
/-!
DEFINITION. The Ringmaster's and the Roster's commands (11), and the descriptor fetch (17): steps falling due, work lists,
dispatch and skips, swaps, teardown and restart, the Roster's and the query registers.
-/

namespace Sys2Proof.Machine

open Sys2Proof

/-! ### Steps falling due (R271, R273) -/

/-- A step still in flight two steps later is aborted: its tasks stop, its unharvested grants are marked OVERRUN, Tightrope
logs it, and the Roster clears ACTIVE of its grants' HARQ processes (R273). -/
def State.abortStep (s : State) (c n : Nat) : State :=
  match s.step? c n with
  | none => s
  | some y =>
    if y.flying then
      let part := some (s.partOf c)
      let s1 := (s.tightLog c y 13 0).bump pgRms 0x88 part
      let ros := y.grants.foldl
        (fun r g =>
          let e := fieldOf g.item 53 12
          let p := fieldOf g.item 41 4
          if e = 0xFFF ∨ ¬ g.admitted then r
          else SMap.modify zeroUnlisted r e fun x => withField x (136 + 8 * p) 1 0) s1.rms.roster
      let s2 := { s1 with rms := { s1.rms with roster := ros } }
      let s3 := s2.harvestAll c n 2
      match s3.step? c n with
      | none => s3
      | some z =>
        ((s3.pushHarvest c (s3.stepRecord c z 2)).modStep c n fun w =>
          { w with aborted := true, ended := true, tasks := w.tasks.map fun k => { k with stopped := true } }).debugEnd 5 c
    else s

/-- A step falls due: the step before the last is aborted where it still runs, and a context that is not resident is found a
slot. -/
def State.stepDue (s : State) (c n : Nat) : State :=
  let s1 := s.abortStep c ((n + 2 ^ 32 - 2) % 2 ^ 32)
  if (s1.ctx c).st = .swapped ∧ (s1.ctx c).awaitSlot = none then s1.findSlot c else s1

/-- A step comes into being; steps that have ended leave. -/
def State.addStep (s : State) (c : Nat) (y : StepSt) : State :=
  s.modCtx c fun x => { x with steps := (x.steps.filter fun z => !z.ended) ++ [y] }

/-- Bytes of a descriptor's items, padded to 64. -/
def State.itemBytes (s : State) (c h : Nat) : Nat :=
  let n := fieldOf h 64 16 * (if s.rosterMode c then 16 else 32)
  (n + 63) / 64 * 64

/-- A present descriptor's C-plane area is streamed to port 0x0380, and each of its grant records is posted (17 R423, R280). -/
def State.descriptorRead (s : State) (c n h : Nat) (body : List (BitVec 8)) : State :=
  let cp := (body.drop (s.itemBytes c h)).take (fieldOf h 80 16 * 64)
  let s1 := s.bump pgHst 0x40 (some (s.partOf c))
  let s2 := if cp = [] then s1 else s1.emit (Sent.stream 0x380 [cp.length, leNat cp])
  let k := if s.isGh c then 0 else fieldOf h 64 16
  let w := if s.rosterMode c then 16 else 32
  (List.range k).foldl (fun t i => t.record pgHst 32 [c, n, leNat ((body.drop (w * i)).take w)]) s2

/-- Whether a header is that of step `n` (17 R423). -/
def headerOk (h n : Nat) : Bool := decide (fieldOf h 16 32 = n ∧ fieldOf h 56 8 = 1)

/-- Whether a partition's steps are fetched and dispatched (15 R382). -/
def State.partActive (s : State) (c : Nat) : Bool :=
  decide ((SMap.get partUnlisted s.sec.parts (s.partOf c)).st = .active)

/-- DESCRIPTOR_FETCH (R423): a real-time context's step of slot `k` at its fetch instant; `hdr` and `body` are what the reads
returned, none for an error or a read longer than 30 µs. -/
def execDescriptorFetch (c : Ctx) (k : Int) (hdr : Option Nat) (body : Option (List (BitVec 8))) (t : Nat) (s : State) :
    Host.Outcome State Fault Refusal :=
  .next (s.liveApply fun s0 =>
    let s := s0.advance t
    let n := stepNo k
    let b := s.boundaryOf c.val k
    let dev : Int := s.sdl.dev
    if (s.ctx c.val).live ∧ s.realTime c.val ∧ s.gridEn ∧ s.partActive c.val ∧ (s.step? c.val n).isNone ∧
        b - (leadUs s.gate.act c.val * usRef : Nat) ≤ dev ∧ dev < b then
      let part := some (s.partOf c.val)
      let s1 := s.emit (Sent.hostRead (s.fnOf c.val)
        (descAddr s.gate.act c.val + n % descSlots s.gate.act c.val * slotBytes s.gate.act c.val) 64)
      match hdr, body with
      | some h, some d =>
        if headerOk h n then
          ((s1.descriptorRead c.val n h d).addStep c.val { n := n, slotK := k, boundary := b, header := some h, body := d }).stepDue
            c.val n
        else
          (((s1.bump pgHst 0x48 part).raise pgHst 9 part).addStep c.val { n := n, slotK := k, boundary := b }).stepDue c.val n
      | _, _ =>
        ((((s1.bump pgHst 0x50 part).bump pgHst 0x48 part).raise pgHst 9 part).addStep c.val
          { n := n, slotK := k, boundary := b }).stepDue c.val n
    else s)

/-- DESCRIPTOR_POLL (R423): the header of the slot of a non-real-time context's next step, and its body. -/
def execDescriptorPoll (c : Ctx) (hdr : Option Nat) (body : Option (List (BitVec 8))) (t : Nat) (s : State) :
    Host.Outcome State Fault Refusal :=
  .next (s.liveApply fun s0 =>
    let s := s0.advance t
    let n := (s.ctx c.val).next
    if (s.ctx c.val).live ∧ s.realTime c.val = false ∧ s.partActive c.val then
      let s1 := s.emit (Sent.hostRead (s.fnOf c.val)
        (descAddr s.gate.act c.val + n % descSlots s.gate.act c.val * slotBytes s.gate.act c.val) 64)
      match hdr, body with
      | some h, some d =>
        if headerOk h n then
          (((s1.descriptorRead c.val n h d).addStep c.val
            { n := n, slotK := n, boundary := s.sdl.dev, header := some h, body := d }).modCtx c.val fun x =>
              { x with next := (n + 1) % 2 ^ 32 }).stepDue c.val n
        else s1
      | some h, none => if headerOk h n then s1.bump pgHst 0x50 (some (s.partOf c.val)) else s1
      | _, _ => s1.bump pgHst 0x50 (some (s.partOf c.val))
    else s)

/-! ### Building the work list (R281 to R287) -/

/-- The C-plane record of a grant: its grid, uplink, the step's frame, subframe and slot, its section, placed (R284). -/
def State.findCp (s : State) (c : Nat) (y : StepSt) (grid sectId : Nat) : Option CpRecord :=
  let mu := s.muOf c
  s.rms.cplane.find? fun r =>
    r.placed && decide (r.grid = grid ∧ r.dir = 0 ∧ (r.frame : Int) = frameIdOf y.slotK mu ∧
      (r.subframe : Int) = subframeOf y.slotK mu ∧ (r.slot : Int) = slotInFrameOf y.slotK mu % (2 ^ mu : Int) ∧
      r.sectionId = sectId)

/-- A work-list item of a grant (R285). -/
def itemOf (g r : Nat) (cp : CpRecord) (retx : Bool) : Nat :=
  cp.segId % 4096 + 2 ^ 12 * fieldOf r 12 5 + 2 ^ 17 * (cp.chunk % 8) + 2 ^ 20 * (cp.startPrb % 1024)
    + 2 ^ 30 * (cp.numPrb % 512) + 2 ^ 39 * fieldOf r 10 1 + 2 ^ 40 * bit retx + 2 ^ 41 * fieldOf g 24 4
    + 2 ^ 45 * fieldOf g 29 2 + 2 ^ 47 * fieldOf g 36 2 + 2 ^ 49 * fieldOf g 32 4 + 2 ^ 53 * fieldOf g 0 12
    + 2 ^ 65 * fieldOf r 32 16 + 2 ^ 128 * fieldOf g 64 21 + 2 ^ 149 * fieldOf g 85 8 + 2 ^ 157 * fieldOf g 93 1
    + 2 ^ 158 * fieldOf g 94 9 + 2 ^ 167 * fieldOf g 103 1 + 2 ^ 168 * fieldOf r 56 31 + 2 ^ 199 * fieldOf r 88 24
    + 2 ^ 223 * fieldOf r 112 24 + 2 ^ 247 * fieldOf r 48 8

/-- A Roster entry after a grant, and whether the grant is a retransmission (R284 step 3). -/
def harqUpdate (r g n : Nat) : Nat × Bool :=
  let o := 136 + 8 * fieldOf g 24 4
  let h := fieldOf r o 8
  let retx := decide (fieldOf h 0 1 = 1 ∧ fieldOf h 1 1 = fieldOf g 28 1)
  let tx := if retx then min 15 (fieldOf h 4 4 + 1) else 1
  (withField (withField r o 8 (1 + 2 * fieldOf g 28 1 + 4 * fieldOf g 29 2 + 16 * tx)) 264 16 n, retx)

/-- One grant in Roster mode (R284): rejected, not placed, or appended. -/
def State.takeGrant (s : State) (c : Nat) (y : StepSt) (g : Nat) : Option Grant × State :=
  let part := some (s.partOf c)
  let e := fieldOf g 0 12
  let r := SMap.get zeroUnlisted s.rms.roster e
  if fieldOf r 0 1 = 0 ∨ fieldOf r 1 6 ≠ c ∨ fieldOf r 48 8 < fieldOf g 85 8 then (none, s.bump pgRst 0x40 part)
  else
    match s.findCp c y (fieldOf r 12 5) (fieldOf g 12 12) with
    | none =>
      (some { item := 2 ^ 12 * fieldOf r 12 5 + 2 ^ 41 * fieldOf g 24 4 + 2 ^ 45 * fieldOf g 29 2 + 2 ^ 53 * e
              admitted := false, status := 4, sectionId := fieldOf g 12 12, hostTag := fieldOf r 280 64 },
        s.bump pgRst 0x48 part)
    | some cp =>
      let u := harqUpdate r g y.n
      (some { item := itemOf g r cp u.2, sectionId := fieldOf g 12 12, hostTag := fieldOf r 280 64
              txCnt := fieldOf u.1 (140 + 8 * fieldOf g 24 4) 4 },
        ({ s with rms := { s.rms with roster := SMap.put zeroUnlisted s.rms.roster e u.1 } }).bump pgRst
          (if u.2 then 0x60 else 0x58) part)

/-- The grants of a Roster-mode descriptor, in descriptor order. -/
def State.takeGrants (s : State) (c : Nat) (y : StepSt) : List Nat → List Grant × State
  | [] => ([], s)
  | g :: gs =>
    let a := s.takeGrant c y g
    let b := a.2.takeGrants c y gs
    (match a.1 with | some x => x :: b.1 | none => b.1, b.2)

/-- Order of work-list items: by GRID, then by SEG_ID (R284). -/
def itemKey (g : Grant) : Nat := fieldOf g.item 12 5 * 4096 + fieldOf g.item 0 12

/-- A grant put in its place. -/
def insertGrant (g : Grant) : List Grant → List Grant
  | [] => [g]
  | h :: t => if itemKey g < itemKey h then g :: h :: t else h :: insertGrant g t

/-- Grants in work-list order. -/
def sortGrants (l : List Grant) : List Grant := l.foldl (fun a g => insertGrant g a) []

/-- Whether a work list keeps within every maximum of a library index entry (R287). -/
def envOk (e : Nat) (l : List Nat) : Bool :=
  decide (l.length ≤ fieldOf e 32 16) &&
    decide ((l.map fun i => if fieldOf i 39 1 = 1 then Config.bundles i else 0).sum ≤ fieldOf e 48 12) &&
    decide ((l.map fun i => fieldOf i 149 8 + 1).sum ≤ fieldOf e 60 12) &&
    l.all fun i => decide (fieldOf i 47 2 ≤ fieldOf e 72 2 ∧ fieldOf i 49 4 ≤ fieldOf e 74 4)

/-- Whether an entry's GRIDS covers every grid of a work list. -/
def gridsCover (e : Nat) (l : List Nat) : Bool := l.all fun i => decide (fieldOf e (96 + fieldOf i 12 5) 1 = 1)

/-- The library entry that a work list selects (R287): the first that covers it, else the highest valid one. -/
def State.selectEntry (s : State) (c : Nat) (l : List Nat) : Option (Nat × LibEntry) :=
  let valid := (List.range 255).filterMap fun i =>
    (s.libEntry c (s.selIndex c i)).map fun e => (s.selIndex c i, e)
  match valid.find? fun x => gridsCover x.2.index l && envOk x.2.index l with
  | some x => some x
  | none => valid.getLast?

/-- Items admitted in work-list order until a maximum of the entry would be passed; the rest are OUT_OF_ENVELOPE (R287). -/
def admitGrants (e : Nat) (taken : List Nat) (stop : Bool) : List Grant → List Grant
  | [] => []
  | g :: gs =>
    if g.admitted = false then g :: admitGrants e taken stop gs
    else if stop = false ∧ envOk e (taken ++ [g.item]) then g :: admitGrants e (taken ++ [g.item]) false gs
    else { g with admitted := false, status := 5 } :: admitGrants e taken true gs

/-- Placed sections of the work list's grids in the step's slot for which no grant arrived (R284). -/
def State.orphans (s : State) (c : Nat) (y : StepSt) (l : List Grant) : Nat :=
  let mu := s.muOf c
  let grids : List Nat := (l.filter (·.admitted)).map fun g => fieldOf g.item 12 5
  (s.rms.cplane.filter fun (r : CpRecord) =>
    r.placed && decide (r.dir = 0 ∧ r.grid ∈ grids ∧ (r.frame : Int) = frameIdOf y.slotK mu ∧
      (r.subframe : Int) = subframeOf y.slotK mu ∧ (r.slot : Int) = slotInFrameOf y.slotK mu % (2 ^ mu : Int)) &&
      !(l.any fun (g : Grant) => decide (fieldOf g.item 12 5 = r.grid ∧ g.sectionId = r.sectionId))).length

/-- WSET_STALE: an enabled entry of the selected half has HASH_OK 0 (13 R334). -/
def State.wsetStale (s : State) (c : Nat) : Bool :=
  (List.range 8).any fun k =>
    s.flag pgRms (0x6A0 + 8 * k) 31 && decide (s.cfg pgRms (0x6A0 + 8 * k) 24 6 = c) &&
      decide (s.cfg pgRms (0x6A0 + 8 * k) 30 1 = bit (s.libSel c)) && !SMap.get flagUnlisted s.rms.wsetOk k

/-- The build's result goes into the step: the entry's Plan serves it even if the entry is replaced later (R275). -/
def State.finishBuild (s : State) (c n : Nat) (sel : Option (Nat × LibEntry)) (l : List Grant) : State :=
  match sel with
  | none => s.modStep c n fun y => { y with built := true, noRun := true, grants := l }
  | some (i, e) =>
    let stale := decide (s.tagged c = true ∧ s.wsetStale c = true)
    s.modStep c n fun y =>
      { y with
        built := true, lib := i, plan := e.plan, grants := l
        flags := Nat.lor y.flags (2 * bit stale) }

/-- The items of a captured work list (13 R336): the input entry with key 0 of a step record. -/
def captureItems (m : Mem) (a : Nat) : List Nat :=
  let n := Mem.readLe m (a + 64 + 2) 4
  if Mem.readLe m (a + 64) 2 = 0 then (List.range (n / 32)).map fun i => Mem.readLe m (a + 72 + 32 * i) 32 else []

/-- Trellis address of step record `k` of the capture region (13 R336, R337), none beyond the records captured. -/
def State.captureAt (s : State) : Nat → Nat → Option Nat
  | 0, o => if o < s.cfg pgRms 0x6E4 0 24 * 4096 then some (dramBase + s.cfg pgRms 0x6E0 0 24 * 4096 + o) else none
  | k + 1, o =>
    let a := dramBase + s.cfg pgRms 0x6E0 0 24 * 4096 + o
    let len := Mem.readLe s.mem (a + 20) 4 * 64
    if len = 0 ∨ s.cfg pgRms 0x6E4 0 24 * 4096 ≤ o + len then none else s.captureAt k (o + len)

/-- A build of a replay step: the captured work list, and the entry whose PLAN_HASH equals the captured one (13 R337). -/
def State.buildReplay (s : State) (c n h hash : Nat) : State :=
  match s.captureAt (fieldOf h 0 16) 0 with
  | none => s.finishBuild c n none []
  | some a =>
    let l := (captureItems s.mem a).map fun i => ({ item := i } : Grant)
    let sel := (List.range 255).findSome? fun i =>
      match s.libEntry c i with
      | some e => if planHash e.plan = hash then some (i, e) else none
      | none => none
    let s1 := (s.finishBuild c n sel l).modStep c n fun y => { y with capture := some a, flags := Nat.lor y.flags 64 }
    if sel = none then
      (s1.modStep c n fun y => { y with flags := Nat.lor y.flags 128 }).raise pgRms 18 (some (s.partOf c))
    else s1

/-- A build of a step: absent descriptor, host batch or Roster (R281 to R287). -/
def State.build (s : State) (c n : Nat) (y : StepSt) (hash : Nat) : State :=
  let part := some (s.partOf c)
  let standing := (s.libEntry c (s.selIndex c (s.standing c))).map fun e => (s.selIndex c (s.standing c), e)
  let absent := s.finishBuild c n (if s.noDesc c then none else standing) []
  match y.header with
  | none => absent
  | some h =>
    if s.replays c then s.buildReplay c n h hash
    else if s.rosterMode c then
      let gs := (List.range (fieldOf h 64 16)).map fun i => leNat ((y.body.drop (16 * i)).take 16)
      let a := s.takeGrants c y gs
      let l := sortGrants a.1
      let s1 := a.2.bumpBy pgRst 0x50 part (a.2.orphans c y l)
      match s1.selectEntry c ((l.filter (·.admitted)).map (·.item)) with
      | none => s1.finishBuild c n none l
      | some (i, e) =>
        let l2 := admitGrants e.index [] false l
        (s1.bumpBy pgRms 0x78 part (l2.filter fun g => decide (g.status = 5)).length).finishBuild c n (some (i, e)) l2
    else
      let i := fieldOf h 48 8
      match s.libEntry c i with
      | none => absent
      | some e =>
        let k := if s.isGh c then 0 else fieldOf h 64 16
        let l := (List.range k).map fun j => ({ item := leNat ((y.body.drop (32 * j)).take 32) } : Grant)
        s.finishBuild c n (some (i, e)) l

/-! ### Dispatch and skips (R271, R280, R400) -/

/-- One slot of a promotion's probation passes (12 R319). -/
def State.probationSlot (s : State) (c : Nat) : State := s.modCtx c fun x => { x with probation := x.probation - 1 }

/-- A step is skipped: its grants and its STEP record are marked SKIPPED (R271, R400). -/
def State.skipStep (s : State) (c n : Nat) : State :=
  let part := some (s.partOf c)
  let s1 := ((s.bump pgRms 0x48 part).raise pgRms 9 part).harvestAll c n 1
  match s1.step? c n with
  | none => s1
  | some y =>
    (((s1.pushHarvest c (s1.stepRecord c y 1)).modStep c n fun z => { z with ended := true, aborted := true }).modCtx c fun x =>
      { x with st := if x.st = .deferred then .swapped else x.st }).probationSlot c

/-- The tasks of a Plan at their first entries (R277). -/
def planTaskList (b : List (BitVec 8)) : List TaskSt :=
  (List.range (planTasks b)).map fun i =>
    let e := planTask b i
    { engine := fieldOf e 0 3, plot := fieldOf e 3 3, pos := fieldOf e 6 4, win := fieldOf e 10 1, bound := fieldOf e 32 32
      pc := fieldOf e 64 32, desc := fieldOf e 96 32, lastPpt := fieldOf e 64 32 }

/-- The work list is written at WL_ROW of the first window of the lowest Plot (R280): two items a row. -/
def State.writeWorkList (s : State) (c : Nat) (y : StepSt) : State :=
  match s.astHome c y with
  | none => s
  | some (n, e) =>
    let l := (y.grants.filter (·.admitted)).map (·.item)
    (List.range ((l.length + 1) / 2)).foldl
      (fun t r => t.winWrite n e .a 6 (planWlRow y.plan + r) (l[2 * r]?.getD 0 + 2 ^ 256 * l[2 * r + 1]?.getD 0) (2 ^ 64 - 1)) s

/-- RING flag of a step: its Plan spans chips, and the device stands in a ring (13 R333). -/
def State.ringFlag (s : State) (b : List (BitVec 8)) : Nat := if s.ringN ≠ 1 ∧ planHdr b 60 3 ≠ 0 then 16 else 0

/-- The dispatch of a step applies (R273, R280, R294; 10 R256). -/
def State.dispatch (s : State) (c n : Nat) (y : StepSt) (late : Bool) : State :=
  let part := some (s.partOf c)
  let mu := s.muOf c
  let s1 := (if s.replays c then s.debugBegin 5 (2 ^ s.partOf c) c else s).modStep c n fun z =>
    { z with
      dispatched := true, late := late, owed := false
      boundary := if s.realTime c then z.boundary else s.sdl.dev
      parity := if s.realTime c then (z.slotK % 2).toNat else n % 2
      gen := (s.ctx c).gen % 2
      reserve := (slotLen mu).toNat * 8 / 100
      flags := Nat.lor z.flags (s.ringFlag z.plan)
      tasks := planTaskList z.plan }
  let s2 := (s1.modCtx c fun x =>
    { x with
      st := .running, plan := y.lib, beat := s.sdl.ref
      parity := if s.realTime c then decide (y.slotK % 2 = 1) else decide (n % 2 = 1) }).bump pgRms 0x40 part
  let s3 := if late then s2.bump pgRms 0x80 part else s2
  let slot := ((s.ctx c).slot.getD 0)
  let s4 := { s3 with thr := { s3.thr with wset := s3.thr.wset.filter fun e => decide (e.1 / 4 ≠ slot) } }
  let s5 := (planPlots y.plan).foldl
    (fun t p => if SMap.get zeroUnlisted t.rms.serving (16 + p) = 0 ∨ SMap.get zeroUnlisted t.rms.serving (16 + p) = slot + 1 then
      t.resetSieve p else t) s4
  let s6 := if s.isGh c ∧ 0 < samplesHeld y.body then s5.bumpBy pgRms 0xB0 part (samplesHeld y.body) else s5
  match s6.step? c n with
  | none => s6
  | some z => ((s6.writeWorkList c z).restagePace).probationSlot c

/-- Whether the throttle level and the partition let a context's step be dispatched (12 R306, 15 R382, 19 R462). -/
def State.mayDispatch (s : State) (c : Nat) : Bool :=
  s.partActive c && !(decide (1 ≤ s.level) && s.isGh c) && !(decide (2 ≤ s.level) && !s.realTime c)

/-- A step whose boundary has come is dispatched where it is built, may be and is resident; a real-time one that is still
DEFERRED is skipped; the rest stays owed. -/
def State.tryDispatch (s : State) (c n : Nat) (late : Bool) : State :=
  match s.step? c n with
  | none => s
  | some y =>
    if y.dispatched ∨ y.ended then s
    else if (s.ctx c).st = .deferred ∧ s.realTime c then s.skipStep c n
    else if y.built ∧ y.noRun then s.skipStep c n
    else if y.built ∧ s.mayDispatch c ∧ (s.ctx c).resident then s.dispatch c n y late
    else s.modStep c n fun z => { z with owed := true }

/-- WORK_LIST_BUILD (R280): `hash` is the captured PLAN_HASH of a replay step, which the capture's format does not hold
(log 49). A build that ends after the boundary is dispatched at its completion. -/
def execWorkListBuild (c : Ctx) (n hash t : Nat) (s : State) : Host.Outcome State Fault Refusal :=
  .next (s.liveApply fun s0 =>
    let s := s0.advance t
    match s.step? c.val n with
    | none => s
    | some y =>
      if y.built ∨ y.ended ∨ ¬ (s.ctx c.val).live then s
      else
        let s1 := s.build c.val n y hash
        if y.owed then s1.tryDispatch c.val n true else s1)

/-- A staged rollback applies at the context's slot boundary: its bit of RMS_GH_LIBSEL clears (12 R319). -/
def State.applyRollback (s : State) (c : Nat) : State :=
  if (s.ctx c).rollback then
    let off := 0x618 + 4 * (c / 32)
    (s.actPut pgRms off (withField (actW s.gate.act (regAddr pgRms off)).toNat (c % 32) 1 0)).modCtx c fun x =>
      { x with rollback := false, selAt := some s.sdl.ref }
  else s

/-- STEP_BOUNDARY (R280): a non-real-time step has no boundary in the grid and is dispatched when this command says. -/
def execStepBoundary (c : Ctx) (n t : Nat) (s : State) : Host.Outcome State Fault Refusal :=
  .next (s.liveApply fun s0 =>
    let s := (s0.advance t).applyRollback c.val
    match s.step? c.val n with
    | none => s
    | some y =>
      if (s.ctx c.val).live ∧ (s.realTime c.val = false ∨ y.boundary ≤ s.sdl.dev) then s.tryDispatch c.val n false else s)

/-! ### Swaps (R272, R291) -/

/-- Whether no request of a context is in flight, and none of its Furrows whose source is a stream stands within a tile (07 R176). -/
def State.quiet (s : State) (c : Nat) : Bool :=
  (s.irg.requests.all fun r => decide (r.ctx ≠ c)) &&
    (List.range 9).all fun k => (s.irrigator k).furrows.all fun e =>
      !(fSkind e.2.desc && decide (e.2.ctx = c ∧ (e.2.st = .active ∨ e.2.st = .stageWait) ∧ e.2.next % fTileBytes e.2.desc ≠ 0))

/-- Copy one carried row to the carried area; one that does not fit faults the context (R272). -/
def State.carryOut (s : State) (c slot : Nat) (r : CarryRow) : State :=
  if s.carrySize c < r.ofs + 64 then s.faultCtx c 0x0A
  else
    let a := s.winRead r.plot.val (2 * slot + bit r.win) r.store (irgReadSlot r.store) r.row
    match a.1 with
    | some d => a.2.dramWrite none (s.carryBase c + r.ofs) (natLe 64 d)
    | none => a.2

/-- Copy one carried row back. -/
def State.carryIn (s : State) (c slot : Nat) (r : CarryRow) : State :=
  let a := s.dramRead none (s.carryBase c + r.ofs) 64
  match a.1 with
  | some d => a.2.winWrite r.plot.val (2 * slot + bit r.win) r.store (irgWriteSlot r.store) r.row (leNat d) (2 ^ 64 - 1)
  | none => a.2

/-- A Furrow as it starts again: a carried one from its cursor, another from tile 0 (07 R176). -/
def Furrow.rewind (x : Furrow) : Furrow :=
  if x.carried then
    { x with next := x.cursor * fTileBytes x.desc, streamed := x.cursor * fTileBytes x.desc, written := [], stage := [], spilled := [], page := none, asked := false
             stageSince := none, tagWait := false, st := if x.st = .done then .done else if x.st = .parked then .parked else .active }
  else
    { x with next := 0, cursor := 0, released := 0, streamed := 0, written := [], stage := [], spilled := [], page := none, asked := false
             stageSince := none, tagWait := false, st := if fPark x.desc ∧ x.st = .parked then .parked else .active }

/-- A context's Furrows leave the Irrigators; they are put aside for its return (R272, 07 R176). -/
def State.putAside (s : State) (c : Nat) : State :=
  let l := s.furrowsOf c
  let kept := l.map fun p => (p.1, p.2, (s.furrow p.1 p.2).rewind)
  (l.foldl (fun t p => t.modFurrow p.1 p.2 fun _ => {}) s).modCtx c fun x => { x with furrows := kept }

/-- Whether every task of a context's steps in flight has stopped. -/
def CtxSt.allStopped (x : CtxSt) : Bool := x.steps.all fun y => !y.flying || y.tasks.all fun z => z.done || z.stopped || z.restart

/-- Whether every Sprout at work for a context has stopped at a PPT or halted (05 R128). -/
def State.sproutsStopped (s : State) (c : Nat) : Bool :=
  allSprouts.all fun i => decide ((s.sprout i).ctx ≠ some c) || !(s.sprout i).runs

/-- The deficits of a slot, by engine (R288). -/
def State.slotDeficits (s : State) (slot : Nat) : SMap Int :=
  s.rms.deficit.filterMap fun e => if e.1 % 16 = slot then some (e.1 / 16, e.2) else none

/-- The deficits of a slot are dropped. -/
def State.dropDeficits (s : State) (slot : Nat) : State :=
  { s with rms := { s.rms with deficit := s.rms.deficit.filter fun e => decide (e.1 % 16 ≠ slot) } }

/-- A context whose state has been put aside leaves its slot, its deficits kept (R291). -/
def State.leaveSlot (s : State) (k slot : Nat) : State :=
  (((s.dropDeficits slot).modCtx k fun x =>
    { x with st := .swapped, slot := none, preempting := false, carried := true, deficits := s.slotDeficits slot }).freeSlot slot).restagePace

/-- A preempted context gives up its slot (R291): carried rows to its carry buffer, its sequences and deficits put aside, its windows and
Sprouts released. -/
def State.preempted (s : State) (k slot : Nat) (rows : List CarryRow) : State :=
  let s1 := rows.foldl (fun t r => t.carryOut k slot r) s
  ((((s1.putAside k).clearWindows k false).releaseSprouts k false).bump pgRms 0x50 (some (s1.partOf k))).leaveSlot k slot

/-- PREEMPTION_COMPLETE (R291): every task has stopped and no request is in flight; `rows` are the rows named carried at the
PPTs where the tasks stopped, with their places in the carried area (log 43). -/
def execPreemptionComplete (c : Ctx) (rows : List CarryRow) (t : Nat) (s : State) : Host.Outcome State Fault Refusal :=
  .next (s.liveApply fun s0 =>
    let s := s0.advance t
    let k := c.val
    match (s.ctx k).slot with
    | none => s
    | some slot =>
      if (s.ctx k).preempting ∧ (s.ctx k).live ∧ (s.ctx k).allStopped ∧ s.quiet k ∧ s.sproutsStopped k then s.preempted k slot rows else s)

/-- Whether a window extent overlaps another. -/
def overlaps (a n b m : Nat) : Bool := decide (0 < n ∧ 0 < m ∧ a < b + m ∧ b < a + n)

/-- Base and size of a placement in a store. -/
def winExtent (w : WinPlace) : Store → Nat × Nat
  | .w => (w.wBase, w.wSize)
  | .a => (w.aBase, w.aSize)
  | .p => (w.pBase, w.pSize)

/-- Whether a placement is one that R152 allows for a context: within each store, clear of other contexts' entries but for
shared read-only weights of its partition, and of every entry ZEROING or HELD. -/
def State.placeOk (s : State) (c slot : Nat) (w : WinPlace) : Bool :=
  let n := w.plot.val
  let me := 2 * slot + bit w.win
  decide ((s.win n me).st = .free ∨ (s.win n me).st = .active) &&
    [Store.w, Store.a, Store.p].all fun st =>
      let x := winExtent w st
      decide (x.1 + x.2 ≤ storeRows st) &&
        (List.range 32).all fun e =>
          if e = me then true
          else
            let ro := decide (st = .w) && w.wRo && winRo s.gate.act n e && decide (winPart s.gate.act n e = s.partOf c)
            (!(winEn s.gate.act n e && decide (winCtx s.gate.act n e ≠ c) && !ro &&
              overlaps x.1 x.2 (winBase s.gate.act n e st) (winSize s.gate.act n e st))) &&
              !(decide ((s.win n e).st = .zeroing ∨ (s.win n e).st = .held) &&
                overlaps x.1 x.2 ((s.win n e).base st) ((s.win n e).size st))

/-- Whether the Commit Gate refuses a placement outright: beyond its store, or on a Plot that the context's partition does not own
(06 R152, 15 R356, 21 R502). -/
def State.placeRefused (s : State) (c : Nat) (w : WinPlace) : Bool :=
  decide (Machine.plotPart s.gate.act w.plot.val ≠ some (s.partOf c)) ||
    [Store.w, Store.a, Store.p].any fun st => decide (storeRows st < (winExtent w st).1 + (winExtent w st).2)

/-- Whether an entry of a partition is HELD on some Plot (06 R152). -/
def State.partHeld (s : State) (p : Nat) : Bool :=
  (List.range 8).any fun n => (s.plot n).sto.win.any fun e => decide (e.2.st = .held ∧ e.2.part = p)

/-- A window entry is placed for a context: its registers, and its state ACTIVE. -/
def State.placeWin (s : State) (c slot : Nat) (w : WinPlace) : State :=
  let n := w.plot.val
  let e := 2 * slot + bit w.win
  let o := winOff e
  let p := pgSto n
  (((((((s.actPut p o (1 + 2 * c + 2 ^ 7 * s.partOf c)).actPut p (o + 4) (w.wBase % 2 ^ 17 + 2 ^ 31 * bit w.wRo)).actPut p (o + 8)
    (w.wSize % 2 ^ 18)).actPut p (o + 12) (w.aBase % 2 ^ 19)).actPut p (o + 16) (w.aSize % 2 ^ 20)).actPut p (o + 20)
    (w.pBase % 2 ^ 16)).actPut p (o + 24) (w.pSize % 2 ^ 17)).winEnter n e

/-- A task as it goes on after a swap-in: one marked RESTART starts again from the last PPT it passed (R292, R293). -/
def TaskSt.resume (z : TaskSt) : TaskSt :=
  if z.restart then { z with pc := z.lastPpt, restart := false, stopped := false, op := none } else { z with stopped := false }

/-- SWAP_IN (R272): the windows are placed where R152 allows, and the carried state comes back; while an entry blocks the
placement the swap-in waits, and one that the Commit Gate refuses faults the context with cause 0x1B (21 R502). Steps owed are
dispatched. -/
def execSwapIn (c : Ctx) (wins : List WinPlace) (rows : List CarryRow) (t : Nat) (s : State) :
    Host.Outcome State Fault Refusal :=
  .next (s.liveApply fun s0 =>
    let s := s0.advance t
    let k := c.val
    match (s.ctx k).awaitSlot with
    | none => s
    | some slot =>
      if (s.ctx k).swapInWait ∧ (s.ctx k).live ∧ (wins.any fun w => s.placeRefused k w) = true then s.faultCtx k 0x1B
      else if (s.ctx k).swapInWait ∧ (s.ctx k).live ∧ SMap.get zeroUnlisted s.rms.slot slot = k + 1 ∧
          s.partHeld (s.partOf k) = false ∧ (wins.all fun w => s.placeOk k slot w) = true then
        let s1 := wins.foldl (fun t w => t.placeWin k slot w) s
        let s2 := if (s.ctx k).carried then rows.foldl (fun t r => t.carryIn k slot r) s1 else s1
        let s3 := (s.ctx k).furrows.foldl
          (fun t p => t.modFurrow p.1 p.2.1 fun _ => { p.2.2 with slot := slot, entry := 2 * slot + p.2.2.entry % 2 }) s2
        let s4 := { s3 with rms := { s3.rms with
          deficit := (s.ctx k).deficits.foldl (fun m (e : Nat × Int) => SMap.put intUnlisted m (16 * e.1 + slot) e.2) s3.rms.deficit } }
        let s5 := s4.modCtx k fun x =>
          { (x : CtxSt) with
            slot := some slot, awaitSlot := none, swapInWait := false, carried := false, furrows := [], deficits := []
            st := if x.steps.any (·.flying) then .running else .idle
            beat := s.sdl.ref
            steps := x.steps.map fun (y : StepSt) => { y with tasks := y.tasks.map TaskSt.resume } }
        ((s.ctx k).steps.filter fun y => y.owed && !y.dispatched && !y.ended).foldl (fun t y => t.tryDispatch k y.n true)
          s5.restagePace
      else s)

/-- CONTEXT_SWAP_OUT (R291): RMS_CTX_CMD OP 2 of a resident context. -/
def execContextSwapOut (v : View) (c : Ctx) (s : State) : Host.Outcome State Fault Refusal :=
  .next (s.live fun s =>
    s.commanded v pgRms (viewSees s.gate.act v (s.partOf c.val)) fun s =>
      if (s.ctx c.val).resident ∧ (s.ctx c.val).live then s.beginSwapOut c.val else s)

/-- CONTEXT_BLOCKED (R270): a non-real-time or real-time context whose every task is stopped on a Furrow in PAGE_WAIT, on a ring
or host request outstanding for more than 1 µs, or at a PPT; DEFERRED contexts are tried again. -/
def execContextBlocked (c : Ctx) (t : Nat) (s : State) : Host.Outcome State Fault Refusal :=
  .next (s.liveApply fun s0 =>
    let s := s0.advance t
    let k := c.val
    let waits := (s.furrowsOf k).any fun p => decide ((s.furrow p.1 p.2).st = .pageWait)
    let reqs := s.irg.requests.any fun r =>
      decide (r.ctx = k ∧ (r.pool = 0 ∨ r.pool = 9 ∨ r.pool = 10) ∧ r.issued + usRef < s.sdl.ref)
    let ppt := (s.ctx k).steps.any fun y => y.flying && y.tasks.any (·.stopped)
    if (s.ctx k).st = .running ∧ (waits = true ∨ reqs = true ∨ ppt = true) then
      (s.modCtx k fun x => { x with st := .blocked }).retryDeferred
    else s)

/-! ### Teardown and restart (R301, 15 R378) -/

/-- CONTEXT_TEARDOWN (R301, order 2): every task stops at once, the Furrows issue no more, the Thresher queue is flushed, and
pending grants are withdrawn. -/
def execContextTeardown (c : Ctx) (t : Nat) (s : State) : Host.Outcome State Fault Refusal :=
  .next (s.liveApply fun s0 =>
    let s := s0.advance t
    let k := c.val
    if (s.ctx k).fault.isSome ∧ (s.ctx k).live then
      let part := some (s.partOf k)
      let s1 := ((s.bump pgRms 0x68 part).raise pgRms 8 part).modCtx k fun x =>
        { x with
          tearing := true, tearAt := s.sdl.ref, preempting := false
          steps := x.steps.map fun y => { y with g := 0, tasks := y.tasks.map fun z => { z with stopped := true, op := none } } }
      let s2 := (s1.furrowsOf k).foldl (fun t p => t.modFurrow p.1 p.2 fun x => { x with st := .faulted, stage := [], spilled := [] }) s1
      let s3 := { s2 with irg := { s2.irg with
        requests := s2.irg.requests.filterMap fun (r : Request) =>
          if r.ctx = k then (if r.waiting then none else some { r with dead := true }) else some r } }
      let s4 := match (s.ctx k).slot with
        | none => s3
        | some slot => { s3 with thr := { s3.thr with
            dec := SMap.put queueUnlisted s3.thr.dec slot [], enc := SMap.put queueUnlisted s3.thr.enc slot [] } }
      allSprouts.foldl
        (fun t i => if (t.sprout i).ctx = some k then t.modSprout i fun x => { x with stopped := true } else t) (s4.dropWork k)
    else s)

/-- Carried and spill areas of a context: Trellis address and bytes (15 R378). -/
def State.contextAreas (s : State) (c : Nat) : List (Nat × Nat) :=
  let carry := (s.carryBase c, s.carrySize c)
  let spill := match (s.ctx c).slot with
    | none => []
    | some k => [(dramBase + s.cfg (pgIrg 8) (0x200 + 8 * k) 0 24 * 4096, s.cfg (pgIrg 8) (0x204 + 8 * k) 0 24 * 4096)]
  (carry :: spill).filter fun a => decide (0 < a.2)

/-- One area after a kill: fenced under HOLD while a fence is free, else zeroed (15 R378; the zeroing is at once, log 50). -/
def State.killArea (s : State) (c : Nat) (hold : Bool) (a : Nat × Nat) : State :=
  if hold then
    if s.sec.fences.length < 32 then
      { s with sec := { s.sec with fences := s.sec.fences ++ [{ part := s.partOf c, ctx := c, base := a.1, len := a.2 }] } }
    else (s.zeroBytes a.1 a.2).bump pgSec 0x68 (some (s.partOf c))
  else s.zeroBytes a.1 a.2

/-- The FAULT record of a context (17 R429). -/
def State.faultRecord (s : State) (c cause : Nat) : State :=
  let y := ((s.ctx c).steps.getLast?).getD { n := (s.ctx c).next }
  s.pushHarvest c (recCommon 2 3 c (s.partOf c) y.n (planId y.plan) y.numflags + 2 ^ 32 * (cause % 256))

/-- The kill of a context once its requests have ended (R301, orders 4 to 6): windows cleared with KILL 1, Sprouts released,
areas fenced or zeroed, grants marked FAULTED, the fault record, the slot free. -/
def State.kill (s : State) (k cause : Nat) : State :=
  let hold := partHold s.gate.act (s.partOf k)
  let areas := s.contextAreas k
  let s1 := ((s.clearWindows k true).releaseSprouts k hold)
  let s2 := areas.foldl (fun t a => t.killArea k hold a) s1
  let s3 := ((s.ctx k).steps.filter fun y => !y.ended).foldl (fun t y => t.harvestAll k y.n 3) s2
  let s4 := (s3.furrowsOf k).foldl (fun t p => t.modFurrow p.1 p.2 fun _ => {}) (s3.faultRecord k cause)
  let s5 := s4.modCtx k fun x =>
    { x with
      st := .faulted, slot := none, awaitSlot := none, swapInWait := false, tearing := false, fault := none, carried := false
      furrows := [], deficits := [], lockMark := none
      steps := x.steps.map fun y => { y with ended := true, aborted := true } }
  let s5 := s5.debugEnd 5 k
  let slots := (List.range 16).filter fun j => decide (SMap.get zeroUnlisted s.rms.slot j = k + 1)
  (slots.foldl
    (fun t j => (t.dropDeficits j).freeSlot j) s5).restagePace

/-- TEARDOWN_COMPLETE (R301): no request of the context is in flight. -/
def execTeardownComplete (c : Ctx) (t : Nat) (s : State) : Host.Outcome State Fault Refusal :=
  .next (s.liveApply fun s0 =>
    let s := s0.advance t
    let k := c.val
    if (s.ctx k).tearing ∧ s.quiet k then s.kill k ((s.ctx k).fault.getD 0) else s)

/-- Whether a window entry that was a context's is ZEROING or HELD. -/
def State.entriesBusy (s : State) (c : Nat) : Bool :=
  (List.range 8).any fun n => (s.plot n).sto.win.any fun e =>
    decide (e.2.ctx = c ∧ (e.2.st = .zeroing ∨ e.2.st = .held))

/-- CONTEXT_RESTART (R301): RMS_CTX_CMD OP 1. -/
def execContextRestart (v : View) (c : Ctx) (s : State) : Host.Outcome State Fault Refusal :=
  .next (s.liveApply fun s =>
    s.commanded v pgRms (viewSees s.gate.act v (s.partOf c.val)) fun s =>
      if (s.ctx c.val).st = .faulted ∧ s.entriesBusy c.val = false then
        s.modCtx c.val fun x => { x with st := .swapped, carried := false, steps := [] }
      else s)

/-! ### Queries and the Roster's commands (R303 to R305, 12 R320) -/

/-- RMS_SLOT_Q (R303). -/
def execRmsSlotQ (v : View) (x : Word) (s : State) : Host.Outcome State Fault Refusal :=
  .next (s.live fun s => s.written v fun s =>
    { s with rms := { s.rms with slotQ := SMap.put zeroUnlisted s.rms.slotQ v.no (x.toNat % 16) } })

/-- RMS_ACCT_Q (R303): a VF's query of another partition's context is ignored. -/
def execRmsAcctQ (v : View) (x : Word) (s : State) : Host.Outcome State Fault Refusal :=
  .next (s.live fun s =>
    s.commanded v pgRms (viewSees s.gate.act v (s.partOf (x.toNat % 64))) fun s =>
      { s with rms := { s.rms with acctQ := SMap.put zeroUnlisted s.rms.acctQ v.no (x.toNat % 256) } })

/-- TRP_SLOT_Q (R304). -/
def execTrpSlotQ (v : View) (x : Word) (s : State) : Host.Outcome State Fault Refusal :=
  .next (s.live fun s => s.written v fun s =>
    { s with rms := { s.rms with trpQ := SMap.put zeroUnlisted s.rms.trpQ v.no (x.toNat % 16) } })

/-- RMS_GH_EVAL_Q (12 R320). -/
def execRmsGhEvalQ (v : View) (x : Word) (s : State) : Host.Outcome State Fault Refusal :=
  .next (s.live fun s =>
    s.commanded v pgRms (viewSees s.gate.act v (s.partOf (x.toNat % 64))) fun s =>
      { s with rms := { s.rms with ghQ := SMap.put zeroUnlisted s.rms.ghQ v.no (x.toNat % 64) } })

/-- RST_BUF as a view's 512-bit entry. -/
def State.rstEntry (s : State) (v : View) : Nat :=
  ((List.range 16).map fun k => (SMap.get wordUnlisted s.rms.rstBuf (16 * v.no + k)).toNat * 2 ^ (32 * k)).sum

/-- Roster entries that name a partition, but for one (15 R356: ROSTER_Q). -/
def State.rosterCount (s : State) (p but : Nat) : Nat :=
  (s.rms.roster.filter fun e => decide (e.1 ≠ but ∧ fieldOf e.2 0 1 = 1 ∧ fieldOf e.2 7 3 = p)).length

/-- The result of a Roster command on an entry with new contents `x` (R305, 15 R356, R382): 1 for another partition's context
or a partition that is not ACTIVE; 2 for a context in host batch mode; 3 for a reserved field or a quota passed. -/
def State.rosterResult (s : State) (v : View) (i x : Nat) : Nat :=
  let c := fieldOf x 1 6
  let old := SMap.get zeroUnlisted s.rms.roster i
  let foreign (e : Nat) : Bool := decide (fieldOf e 0 1 = 1) && !viewSees s.gate.act v (s.partOf (fieldOf e 1 6))
  if foreign old ∨ viewSees s.gate.act v (s.partOf c) = false ∨ s.partOf c ≠ fieldOf x 7 3 ∨ s.partActive c = false then 1
  else if s.rosterMode c = false then 2
  else if fieldOf x 11 1 ≠ 0 ∨ fieldOf x 87 1 ≠ 0 ∨ fieldOf x 344 168 ≠ 0 then 3
  else if fieldOf x 0 1 = 1 ∧ s.cfg pgSec (0x100 + 0x40 * fieldOf x 7 3) 14 9 * 16 ≤ s.rosterCount (fieldOf x 7 3) i then 3
  else 0

/-- A Roster command ends. -/
def State.rosterDone (s : State) (c result : Nat) : State :=
  let s1 := { s with rms := { s.rms with rstResult := result } }
  let part := some (s.partOf c)
  let s2 := s1.raise pgRst 8 part
  if result = 0 then s2 else s2.raise pgRst 9 part

/-- ROSTER_WRITE (R305): RST_CMD OP 1. -/
def execRosterWrite (v : View) (index : Fin 4096) (s : State) : Host.Outcome State Fault Refusal :=
  .next (s.live fun s => s.written v fun s =>
    let x := s.rstEntry v
    let r := s.rosterResult v index.val x
    let s1 := if r = 0 then { s with rms := { s.rms with roster := SMap.put zeroUnlisted s.rms.roster index.val x } } else s
    s1.rosterDone (fieldOf x 1 6) r)

/-- ROSTER_CLEAR (R305): RST_CMD OP 2. -/
def execRosterClear (v : View) (index : Fin 4096) (s : State) : Host.Outcome State Fault Refusal :=
  .next (s.live fun s => s.written v fun s =>
    let old := SMap.get zeroUnlisted s.rms.roster index.val
    let c := fieldOf old 1 6
    let bad := fieldOf old 0 1 = 1 ∧ (viewSees s.gate.act v (s.partOf c) = false ∨ (isVf v ∧ s.partActive c = false))
    if bad then s.rosterDone c 1
    else
      ({ s with rms := { s.rms with
        roster := SMap.put zeroUnlisted s.rms.roster index.val (withField old 0 1 0) } }).rosterDone c 0)

end Sys2Proof.Machine
end

