-- ==== Sys2Proof/Machine/Sieve.lean ====
section
/-!
DEFINITION. The commands of the Big Top's checks and spares (03 R85 to R92) and of the Sieve (04; 02 R58 to R64): verdicts,
replays, localisation, the spare map, chains, rescale retries.
-/

namespace Sys2Proof.Machine

open Sys2Proof

/-! ### Verdicts and replays (03 R85 to R88) -/

/-- Whether an accumulator of the entries of a row carries ACC_OVF: the row is not compared (R85). -/
def BigTop.rowOvf (b : BigTop) (r : RowCheck) : Bool :=
  (pEntries r.desc r.row).any fun e => (List.range 256).any fun n => (b.entry (pBank r.desc) e n).ovf

/-- Whether C and S of a verdict mismatch (R85), each moved by what a fault has put on it, in units of its last place. -/
def RowCheck.mismatch (r : RowCheck) (onC onS : Int) : Bool :=
  let d := r.desc
  let c := Num.fin (r.c + onC) r.cExp
  let x := Num.fin (r.x + onS) r.xExp
  let diff := match numAdd c (numNeg x) with
    | .fin m e => Num.fin m.natAbs e
    | y => y
  if windowed (pWfmt d) then
    let tol := Num.fin 1 (pWinPos d + 16)
    numLe (if pWfmt d = 7 ∨ pAfmt d = 7 then numAdd tol (.fin r.mabs (r.mabsExp - 36)) else tol) diff
  else !diff.zero

/-- ROW_VERDICT (R85): the next verdict of a bank is reached, `onC` and `onS` what faults have put on the checksum column's sum and on the sum
over the columns. Every verdict that mismatches is counted (log 213). -/
def execRowVerdict (plot : Plot) (bank : Fin 2) (onC onS : Int) (s : State) : Host.Outcome State Fault Refusal :=
  .next (s.live fun s =>
    let n := plot.val
    let k := bank.val
    let b := s.btp n
    match (b.bank k).checks with
    | [] => s
    | r :: rest =>
      let bad := !r.skip && !b.rowOvf r && r.mismatch onC onS
      let s1 := (s.modBtp n fun b => b.modBank k fun y => { y with checks := rest, flagged := y.flagged || bad }).modSiv n fun v =>
        let less (q : ChainReq) : ChainReq := if cBank q.desc = k then { q with needs := q.needs - 1 } else q
        { v with tableBusy := v.tableBusy && decide (pMode r.desc ≠ 3), waiting := v.waiting.map less, held := v.held.map less }
      let part := some (s.partOf r.ctx)
      let s2 := if bad then (s1.bump (pgBtp n) 0x60 part).raise (pgBtp n) 8 part else s1
      let s3 := if rest = [] then s2.verdictLine plot k else s2
      (s3.pumpSieve n).pumpBtp n)

/-- Context of the latest pass into a bank. -/
def BankLog.ctx (b : BankLog) : Option Nat := b.log.getLast?.map (·.ctx)

/-- Cost of a bank's replay in steps (R87). -/
def BankLog.replayCost (b : BankLog) : Nat :=
  (b.log.map fun q => max (pRows q.desc * pSlots q.desc) q.tile.loadTime).sum + 32 + 518

/-- A flagged bank takes Safety Net; its read-out goes on (R88). -/
def State.takeNet (s : State) (n k c : Nat) : State :=
  let part := some (s.partOf c)
  (((s.modBtp n fun b => b.modBank k fun y => { y with net := true, replaying := false }).bump (pgBtp n) 0x70 part).raise
    (pgBtp n) 9 part).pumpSieve n

/-- REPLAY_REQUEST (R87, R88): the read-out of a flagged bank is reached. -/
def execReplayRequest (plot : Plot) (t : Nat) (s : State) : Host.Outcome State Fault Refusal :=
  .next (s.live fun s0 =>
    let s := s0.advance t
    let n := plot.val
    match (s.siv n).waiting with
    | none => s
    | some q =>
      let k := cBank q.desc
      let b := (s.btp n).bank k
      if b.flagged ∧ b.net = false ∧ b.replaying = false ∧ q.needs = 0 then
        if b.tooMany ∨ (b.log.any fun p => pNoReplay p.desc) = true ∨ (s.btp n).suspect then
          (s.btpFault n 2 8 (some q.ctx) 0).takeNet n k q.ctx
        else
          let r := s.tightGrant q.ctx q.step 0 b.replayCost
          if r.1 then
            (r.2.modBtp n fun x => x.modBank k fun y =>
              { y with replaying := true, cost := b.replayCost, step := q.step }).bump (pgBtp n) 0x68 (some (s.partOf q.ctx))
          else (r.2.btpFault n 2 8 (some q.ctx) 0).takeNet n k q.ctx
      else s)

/-- A logged pass runs again, its tile read again and compared; one whose tile cannot be read again is passed over (R87; log 214). -/
def State.replayPass (s : State) (n : Nat) (q : PassReq) (first second : Nat) : State :=
  let r := s.reloadTile n q.tile first second
  if r.1.valid then (r.2.tableRows n q).accumulate n q r.1 true else r.2

/-- The logged passes of a bank run again in order; `flips` is what the compares of the loads find, two for each pass (R87). -/
def State.replayPasses (s : State) (n k : Nat) (flips : List Nat) : State :=
  let log := ((s.btp n).bank k).log
  (List.range log.length).foldl
    (fun s j =>
      match log[j]? with
      | some q => s.replayPass n q (flips.getD (2 * j) 0) (flips.getD (2 * j + 1) 0)
      | none => s) (s.modBtp n fun b => b.clearBank k)

/-- Whether a replay may go on: its context is served, for a pre-emption takes effect at its next pass boundary and it resumes with its
context (R87). -/
def State.replayServed (s : State) (b : BankLog) : Bool :=
  match b.ctx with
  | some c => (s.ctx c).resident && !(s.ctx c).preempting
  | none => true

/-- REPLAY_COMPLETE (R87, R88): a granted replay ends; `bad` is how many rows of it mismatched, `flips` what the compares of its loads found. -/
def execReplayComplete (plot : Plot) (bank : Fin 2) (bad : Nat) (flips : List Nat) (t : Nat) (s : State) :
    Host.Outcome State Fault Refusal :=
  .next (s.live fun s0 =>
    let s := s0.advance t
    let n := plot.val
    let k := bank.val
    let b := (s.btp n).bank k
    if b.replaying ∧ s.replayServed b = true then
      let c := b.ctx.getD 0
      let part := some (s.partOf c)
      let again := s.replayPasses n k flips
      let spent := (again.modBtp n fun x => x.modBank k fun y => { y with checks := [] }).grantDone c b.step b.cost
      let s1 := if bad = 0 then spent else (spent.bumpBy (pgBtp n) 0x60 part bad).raise (pgBtp n) 8 part
      if bad ≠ 0 ∨ (((s1.btp n).suspect && !(s.btp n).suspect) = true) then ((s1.setSuspect n).btpFault n 2 2 (some c) 0).takeNet n k c
      else
        ((s1.modBtp n fun x => x.modBank k fun y => { y with flagged := false, replaying := false }).btpFault n 2 1 (some c)
          0).pumpSieve n
    else s)

/-! ### Localisation and the spare map (R90 to R92) -/

/-- LOCALISE_START (R90): the staged localisation has taken effect, and both banks are idle: its diagnostic begins. -/
def execLocaliseStart (plot : Plot) (s : State) : Host.Outcome State Fault Refusal :=
  .next (s.live fun s =>
    if s.localiseDue plot.val then
      s.modBtp plot.val fun b => { b with localisePending := false, localising := true }
    else s)

/-- BTP_LOCALISE as a word (R94). -/
def localiseWord (kind row col : Nat) : Nat := kind + 2 ^ 3 * row + 2 ^ 12 * col

/-- LOCALISED (R90): the diagnostic ends with its outcome, the tiles are reloaded, `flips` what the compares of their
loads find, the outcome goes to the fault block, and the passes that waited issue. -/
def execLocalised (plot : Plot) (kind : Fin 7) (row col : Fin 258) (flips : List Nat) (s : State) : Host.Outcome State Fault Refusal :=
  .next (s.live fun s =>
    let n := plot.val
    if (s.btp n).localising then
      let s1 := s.modBtp n fun b =>
        { b with
          localising := false, kind := kind.val, locRow := row.val, locCol := col.val
          suspect := b.suspect && decide (kind.val ≠ 0) }
      (((s1.reloadTiles n flips).raise (pgBtp n) 11 (s.plotPart n)).btpFault n 10 (if kind.val = 0 then 1 else 2) none
        (localiseWord kind.val row.val col.val)).pumpBtp n
    else s)

/-- The applied spare map takes effect (R92). A localisation that is still staged is dropped with SUSPECT (log 215). -/
def State.mapEffect (s : State) (n : Nat) (flips : List Nat) : State :=
  ((s.modBtp n fun b =>
    { (b.clearBank 0).clearBank 1 with
      mapInForce := actW s.gate.act (regAddr (pgBtp n) 0x100), mapPending := false, suspect := false
      localisePending := false }).reloadTiles n flips)

/-- SPARE_MAP_EFFECT (R92): the first moment with both banks idle after an apply. The banks' logs and flags go with their contents (log 212). -/
def execSpareMapEffect (plot : Plot) (flips : List Nat) (s : State) : Host.Outcome State Fault Refusal :=
  .next (s.live fun s =>
    if (s.btp plot.val).mapPending ∧ s.banksIdle plot.val then
      ((s.mapEffect plot.val flips).modBtp plot.val fun b => { b with bank0 := {}, bank1 := {} }).pumpBtp plot.val
    else s)

/-- SPARE_MAP_TIMEOUT (R92): 2 ms after the apply, at a pass boundary; both banks are flagged. -/
def execSpareMapTimeout (plot : Plot) (flips : List Nat) (t : Nat) (s : State) : Host.Outcome State Fault Refusal :=
  .next (s.live fun s0 =>
    let s := s0.advance t
    let n := plot.val
    if (s.btp n).mapPending ∧ (s.btp n).mapAppliedAt + 2000 * usRef ≤ s.sdl.ref then
      ((s.mapEffect n flips).modBtp n fun b =>
        { b with bank0 := { b.bank0 with flagged := true }, bank1 := { b.bank1 with flagged := true } }).pumpBtp n
    else s)

/-! ### Chains (04) and retries (02 R58 to R64) -/

/-- CHAIN (R99): a chain of a context's step issues on a Plot. `name` and `bankName` are how FEEDS entries name its tensor and its bank, `act`
names the tensor that its bank's passes read as activation, and `races` the entries of the bank whose read meets a write of the same step (R98).
It waits where its bank may not yet be read, and while another chain runs or waits (R102). -/
def execChain (plot : Plot) (c : Ctx) (step : Nat) (entry : Fin 32) (desc name bankName act : Nat) (races : List (Fin 256)) (t : Nat)
    (s : State) : Host.Outcome State Fault Refusal :=
  .next (s.live fun s0 =>
    let s := s0.advance t
    let n := plot.val
    let q : ChainReq :=
      { ctx := c.val, step := step, entry := entry.val, desc := desc, name := name, bankName := bankName, act := act
        races := if cAccEn desc then races.map (·.val) else [], needs := ((s.btp n).bank (cBank desc)).awaiting }
    if s.pruned n then s.faultCtx c.val 0x03
    else (s.modSiv n fun v => { v with held := v.held ++ [q] }).pumpSieve n)

/-- NUMFLAGS of a tensor go to the step and to the allocations that it feeds (02 R59). -/
def State.addNumflags (s : State) (q : ChainReq) (flags : Nat) : State :=
  let segs := s.feedsOf q
  s.modStep q.ctx q.step fun y =>
    { y with
      numflags := Nat.lor y.numflags flags
      grants := y.grants.map fun g =>
        if fieldOf g.item 0 12 ∈ segs then { g with numflags := Nat.lor g.numflags flags } else g }

/-- A chain ends: its status word, its flags, its SHIFT, its completion; the next chain comes (R102, R111, 02 R58, R62). -/
def State.finishChain (s : State) (n : Nat) (r : ChainResult) : State :=
  let q := r.req
  let d := q.desc
  let k := cStatusWord d
  let s1 := if cStatusEn d then
    s.winWrite n q.entry .a 3 (cStatusRow d) (statusOf r.numflags r.shift r.ovf r.unf * 2 ^ (64 * k)) (0xFF * 2 ^ (8 * k))
    else s
  let s2 := ((((s1.addNumflags q r.numflags).bump (pgSiv n) 0x88 (some (s.partOf q.ctx))).use 2 n 0 1).modSiv n fun v =>
    { v with running := none, retry := none, retryGranted := false, retryCost := 0 }).opDone q.ctx 1 n d
  let s3 := s2.modStep q.ctx q.step fun y => { y with shifts := (q.name, r.shift) :: y.shifts }
  (s3.pumpSieve n).pumpBtp n

/-- A retry that was triggered does not run: the results stand, and the allocations concerned take Safety Net (02 R63). -/
def State.denyRetry (s : State) (n : Nat) (r : ChainResult) : State :=
  let q := r.req
  ((s.bump (pgSiv n) 0x60 (some (s.partOf q.ctx))).fallBack q.ctx q.step 3 1
    (if r.marked then r.badSegs else s.feedsOf q)).finishChain n { r with numflags := Nat.lor r.numflags flDenied }

/-- CHAIN_END (R111): the last write lands; a plain read-out that triggers a retry (02 R60) waits for Tightrope where one may
run (02 R61). -/
def execChainEnd (plot : Plot) (t : Nat) (s : State) : Host.Outcome State Fault Refusal :=
  .next (s.live fun s0 =>
    let s := s0.advance t
    let n := plot.val
    match (s.siv n).running with
    | none => s
    | some r =>
      let d := r.req.desc
      if cPlain d ∧ cRetryEn d ∧ retryCase r.ovf r.unf (cPermille d) r.elems = true then
        if s.flag (pgSiv n) 0x100 0 = true ∧ ¬ (0 < r.ovf ∧ r.kOver = none) then
          s.modSiv n fun v => { v with running := none, retry := some r }
        else s.denyRetry n r
      else if cPlain d ∧ retryCase r.ovf r.unf (cPermille d) r.elems = true then s.denyRetry n r
      else s.finishChain n r)

/-- RETRY_REQUEST (02 R61): Tightrope answers for a retry of `cost` declared steps. -/
def execRetryRequest (plot : Plot) (cost t : Nat) (s : State) : Host.Outcome State Fault Refusal :=
  .next (s.live fun s0 =>
    let s := s0.advance t
    let n := plot.val
    match (s.siv n).retry with
    | none => s
    | some r =>
      if (s.siv n).retryGranted then s
      else
        let a := s.tightGrant r.req.ctx r.req.step 1 cost
        if a.1 then a.2.modSiv n fun v => { v with retryGranted := true, retryCost := cost }
        else a.2.denyRetry n r)

/-- RETRY_PASS_END (02 R61): the retry has repeated the read-out with its scale; its results and counts stand. -/
def execRetryPassEnd (plot : Plot) (t : Nat) (s : State) : Host.Outcome State Fault Refusal :=
  .next (s.live fun s0 =>
    let s := s0.advance t
    let n := plot.val
    match (s.siv n).retry with
    | none => s
    | some r =>
      if (s.siv n).retryGranted then
        let q := r.req
        let k := retryShift r (cShiftMax q.desc)
        let a := s.chainBody n q (s.actShift q - k)
        let s1 := (a.2.bumpBy (pgSiv n) 0x90 (some (s.partOf q.ctx)) (cIters q.desc)).grantDone q.ctx q.step (s.siv n).retryCost
        match a.1 with
        | none => (s1.modSiv n fun v => { v with retry := none, retryGranted := false }).pumpSieve n
        | some tl =>
          let res := chainResult q tl
          (((s1.countTally n q tl).bump (pgSiv n) 0x58 (some (s.partOf q.ctx)))).finishChain n
            { res with numflags := Nat.lor res.numflags flRescaled, shift := k }
      else s)

end Sys2Proof.Machine
end

