-- ==== Sys2Proof/Machine/TaskOps.lean ====
section
/-!
DEFINITION. Engines and tasks (11 R277 to R279, R288 to R293): carried state at pre-emption points, the choice of an engine put
into force, and how a task takes its next entry.
-/

namespace Sys2Proof.Machine

open Sys2Proof

/-! ### Carried lists (R279) -/

/-- KIND of an item of a carried list. -/
def ciKind (x : Nat) : Nat := fieldOf x 0 4
/-- PLOT of an item. -/
def ciPlot (x : Nat) : Nat := fieldOf x 4 3
/-- INDEX of an item. -/
def ciIndex (x : Nat) : Nat := fieldOf x 7 9
/-- FIRST of an item. -/
def ciFirst (x : Nat) : Nat := fieldOf x 16 20
/-- COUNT of an item. -/
def ciCount (x : Nat) : Nat := fieldOf x 36 20

/-- Members of a mask of 20 bits. -/
def maskBits (m : Nat) : List Nat := (List.range 20).filter fun k => decide (fieldOf m k 1 = 1)

/-- The slot of an accumulator: 128 bits (02 R45), or 256 for a windowed one, saturated to its window (R48, R49). -/
def AccEntry.slot (a : AccEntry) : Nat :=
  let flags := bit a.ovf + 2 * bit a.poison
  if windowed a.wFmt then
    unsignedOf 144 (satInt 128 a.v).1 + 2 ^ 144 * unsignedOf 10 a.win + 2 ^ 154 * a.wFmt + 2 ^ 158 * a.aFmt + 2 ^ 162 * flags
  else unsignedOf 96 a.v + 2 ^ 96 * a.wFmt + 2 ^ 100 * a.aFmt + 2 ^ 104 * flags

/-- The accumulator that a slot makes in a cleared entry of a context. -/
def accOfSlot (wide : Bool) (x c : Nat) : AccEntry :=
  if wide then
    { v := signedOf 144 (fieldOf x 0 144), win := signedOf 10 (fieldOf x 144 10), wFmt := fieldOf x 154 4, aFmt := fieldOf x 158 4
      ovf := decide (fieldOf x 162 1 = 1), poison := decide (fieldOf x 163 1 = 1), owner := some c }
  else
    { v := signedOf 96 (fieldOf x 0 96), wFmt := fieldOf x 96 4, aFmt := fieldOf x 100 4
      ovf := decide (fieldOf x 104 1 = 1), poison := decide (fieldOf x 105 1 = 1), owner := some c }

/-- Fields of `w` bits packed into store rows of 512. -/
def packRows (w : Nat) (l : List Nat) : List Nat :=
  (List.range ((l.length * w + 511) / 512)).map fun r =>
    ((List.range (512 / w)).map fun k => l.getD (r * (512 / w) + k) 0 * 2 ^ (w * k)).sum

/-- Fields of `w` bits from store rows. -/
def fieldsOf (w : Nat) (rows : List Nat) : List Nat :=
  rows.flatMap fun r => (List.range (512 / w)).map fun k => fieldOf r (w * k) w

/-- Whether an accumulator entry of a bank is saved as 256-bit slots. -/
def BigTop.wideEntry (b : BigTop) (k e : Nat) : Bool := windowed (b.entry k e 0).wFmt

/-- A byte of a memory under the code, as the code delivers it. -/
def State.codedByte (s : State) (a : Nat) : Nat :=
  match eccDeliver (s.cwData (a / 16)) (s.xorOf (a / 16)) with
  | some d => fieldOf d (8 * (a % 16)) 8
  | none => (Mem.read s.mem a).toNat

/-- Write bytes of a memory under the code: each codeword read, corrected, merged and written; an uncorrectable one stays. -/
def State.codedPut (s : State) (a : Nat) (l : List Nat) : State :=
  (List.range l.length).foldl
    (fun t k =>
      let cw := (a + k) / 16
      match eccDeliver (t.cwData cw) (t.xorOf cw) with
      | some d => t.putCw cw (withField d (8 * ((a + k) % 16)) 8 (l.getD k 0))
      | none => t) s

/-- The rows that one item of an engine's carried state fills (R279): kinds 2, 3 and 5. The layout of the banks of kind 4 in rows
is not given; they are kept aside (log 45). -/
def State.saveRows (s : State) (it : Nat) : List Nat :=
  let n := ciPlot it
  if ciKind it = 2 then
    (maskBits (ciFirst it)).flatMap fun r => packRows 32 ((List.range 256).map fun k => vreg (s.siv n).v r k)
  else if ciKind it = 3 then
    (List.range (ciCount it)).flatMap fun j =>
      let e := ciFirst it + j
      let l := (List.range 256).map fun k => ((s.btp n).entry (ciIndex it) e k).slot
      packRows (if (s.btp n).wideEntry (ciIndex it) e then 256 else 128) l
  else if ciKind it = 5 then
    match s.servingBed n (ciIndex it) with
    | none => []
    | some b => packRows 8 ((List.range (ciCount it)).map fun k =>
        s.codedByte (plotBase n + 0x03000000 + b * 0x40000 + ciFirst it + k))
  else []

/-- Sprouts of a serving position named by a mask. -/
def State.posSprouts (s : State) (n pos mask : Nat) : List SproutId :=
  if hn : n < 8 then
    match s.servingBed n pos with
    | none => []
    | some b =>
      if hb : b < 17 then ((List.finRange 16).filter fun k => decide (fieldOf mask k.val 1 = 1)).map fun k => ⟨⟨n, hn⟩, ⟨b, hb⟩, k⟩
      else []
  else []

/-- One item of carried engine state is saved; a windowed sum that leaves the window is counted, and the bank's tensor carries WSAT
(02 R48); the bank's log goes with it. Its rows from `row` on of the context's partial-sum window (R289). -/
def State.saveItem (s : State) (plot entry row it : Nat) : SavedItem × State :=
  let rows := s.saveRows it
  let s1 := (List.range rows.length).foldl
    (fun t k => t.winWrite plot entry .p 1 (row + k) (rows.getD k 0) (2 ^ 64 - 1)) s
  let wsat := if ciKind it = 3 then
      ((List.range (ciCount it)).map fun j => ((List.range 256).filter fun k =>
        let a := (s.btp (ciPlot it)).entry (ciIndex it) (ciFirst it + j) k
        windowed a.wFmt && (satInt 128 a.v).2).length).sum
    else 0
  ({ item := it, row := row, rows := rows.length
     fmts := if ciKind it = 3 then
         (List.range (ciCount it)).map fun j =>
           let a := (s.btp (ciPlot it)).entry (ciIndex it) (ciFirst it + j) 0
           (a.wFmt, a.aFmt, a.win)
       else []
     log := if ciKind it = 3 then
         let b := (s.btp (ciPlot it)).bank (ciIndex it)
         { b with wsat := b.wsat || decide (wsat ≠ 0) }
       else {}
     banks := if ciKind it = 4 then
         (s.posSprouts (ciPlot it) (ciIndex it) (ciFirst it)).map fun i => (i.sprout.val, s.sprout i)
       else [] },
    let s2 := if ciKind it = 3 then s1.modBtp (ciPlot it) fun b => b.modBank (ciIndex it) fun _ => {} else s1
    if wsat = 0 then s2 else s2.bumpBy (pgBtp (ciPlot it)) 0x48 (s.plotPart (ciPlot it)) wsat)

/-- The accumulators of a saved bank from the rows read back, by entry and column: each entry with the formats and the WIN_POS that it is to
have. -/
def slotsOf (c : Nat) : List (Nat × Nat × Nat × Int) → List Nat → List (Nat × (Nat × Nat × Int) × Nat × AccEntry)
  | [], _ => []
  | e :: es, rows =>
    let wide := windowed e.2.1
    let m := if wide then 128 else 64
    let l := fieldsOf (if wide then 256 else 128) (rows.take m)
    ((List.range 256).map fun col => (e.1, e.2, col, accOfSlot wide (l.getD col 0) c)) ++ slotsOf c es (rows.drop m)

/-- Whether a slot's formats or WIN_POS are those of the accumulation it is added into (02 R45, R49). -/
def AccEntry.fits (a : AccEntry) (f : Nat × Nat × Int) : Bool := decide (a.wFmt = f.1 ∧ a.aFmt = f.2.1 ∧ a.win = f.2.2)

/-- One saved item goes back to its engine: a bank is cleared and its slots added back, so that its context is again the one that
last cleared it (R279); a slot whose formats or WIN_POS are not the accumulation's faults the context (02 R45, R49). -/
def State.restoreItem (s : State) (plot entry c : Nat) (x : SavedItem) : State :=
  let it := x.item
  let n := ciPlot it
  let r := (List.range x.rows).foldl
    (fun (acc : List Nat × State) k =>
      let a := acc.2.winRead plot entry .p 0 (x.row + k)
      (acc.1 ++ [a.1.getD 0], a.2)) ([], s)
  if ciKind it = 2 then
    let l := fieldsOf 32 r.1
    let regs := maskBits (ciFirst it)
    r.2.modPlot n fun p => { p with siv := { p.siv with
      v := (List.range regs.length).foldl
        (fun m j => (List.range 256).foldl
          (fun m k => SMap.put wordUnlisted m (256 * regs.getD j 0 + k) (BitVec.ofNat 32 (l.getD (256 * j + k) 0))) m) p.siv.v } }
  else if ciKind it = 3 then
    let k := ciIndex it
    let l := slotsOf c ((List.range (ciCount it)).map fun j => (ciFirst it + j, x.fmts.getD j (0, 0, 0))) r.1
    if l.all fun e => e.2.2.2.fits e.2.1 then
      r.2.modBtp n fun b =>
        ((l.foldl (fun b e => b.modEntry k e.1 e.2.2.1 fun _ => e.2.2.2) (b.clearBank k)).modBank k fun _ => x.log).setOwner k (some c)
    else r.2.faultCtx c 0x0B
  else if ciKind it = 4 then
    (s.posSprouts n (ciIndex it) (ciFirst it)).foldl
      (fun t i =>
        match x.banks.find? fun e => decide (e.1 = i.sprout.val) with
        | some e => t.modSprout i fun _ => { e.2 with stopped := false, ctx := some c, gathers := 0, entry := entry }
        | none => t) r.2
  else if ciKind it = 5 then
    match s.servingBed n (ciIndex it) with
    | none => r.2
    | some b => r.2.codedPut (plotBase n + 0x03000000 + b * 0x40000 + ciFirst it) ((fieldsOf 8 r.1).take (ciCount it))
  else r.2

/-! ### Tasks (R277, R289) -/

/-- Change a task of a step. -/
def State.modTask (s : State) (c n i : Nat) (f : TaskSt → TaskSt) : State :=
  s.modStep c n fun y => { y with tasks := y.tasks.mapIdx fun j z => if j = i then f z else z }

/-- A task's engine state goes to its save rows, and the steps of the save are charged (R289). -/
def State.saveTask (s : State) (c n i : Nat) (z : TaskSt) (entry : Nat) : State :=
  let r := z.items.foldl
    (fun (acc : List SavedItem × Nat × State) it =>
      let a := acc.2.2.saveItem z.plot entry acc.2.1 it
      (acc.1 ++ [a.1], acc.2.1 + a.1.rows, a.2)) ([], z.saveRow, s)
  let rows := r.2.1 - z.saveRow
  let s1 := r.2.2.modTask c n i fun z => { z with saved := r.1, isSaved := true }
  if rows = 0 then s1 else s1.charge c (engineKey z.engine z.plot z.pos) (Config.saveSteps rows)

/-- A task's engine state comes back, and the steps of the restore are charged to the context. -/
def State.restoreTask (s : State) (c n i : Nat) (z : TaskSt) (entry : Nat) : State :=
  let s1 := z.saved.foldl (fun t x => t.restoreItem z.plot entry c x) s
  let rows := (z.saved.map (·.rows)).sum
  let s2 := s1.modTask c n i fun z => { z with saved := [], isSaved := false }
  if rows = 0 then s2 else s2.charge c (engineKey z.engine z.plot z.pos) (Config.saveSteps rows)

/-- Whether a task of an engine stands at a PPT. -/
def TaskSt.parkedAt (z : TaskSt) (e : Nat) : Bool :=
  decide (engineKey z.engine z.plot z.pos = some e ∧ z.op = none ∧ z.pc = z.lastPpt) && !z.done

/-- Whether a task of an engine stands between two points of choice (R288). -/
def TaskSt.midway (z : TaskSt) (e : Nat) : Bool :=
  decide (engineKey z.engine z.plot z.pos = some e ∧ (z.op ≠ none ∨ z.pc ≠ z.lastPpt)) && !z.done && !z.stopped

/-- The tasks of a context's steps in flight that satisfy a test, with their step and their place. -/
def State.tasksWhere (s : State) (c : Nat) (p : TaskSt → Bool) : List (Nat × Nat × TaskSt) :=
  ((s.ctx c).steps.filter (·.flying)).flatMap fun y =>
    ((List.range y.tasks.length).filterMap fun i =>
      match y.tasks[i]? with
      | some z => if p z then some (y.n, i, z) else none
      | none => none)

/-- The context in a resident slot. -/
def State.slotCtx (s : State) (k : Nat) : Option Nat :=
  match SMap.get zeroUnlisted s.rms.slot k with
  | 0 => none
  | c + 1 => some c

/-- An engine comes to serve a slot (R289): the context it served last leaves its carried state in its save rows; a Sieve's
registers and scales are those of a dispatch (04 R95; log 56); the state saved for the new context comes back. -/
def State.engineSwitch (s : State) (e slot : Nat) : State :=
  let last := SMap.get zeroUnlisted s.rms.lastServed e
  if last = slot + 1 then s
  else
    let s1 := match last with
      | 0 => s
      | k + 1 =>
        match s.slotCtx k with
        | none => s
        | some c =>
          (s.tasksWhere c fun z => z.parkedAt e && !z.isSaved && decide (z.items ≠ [])).foldl
            (fun t (x : Nat × Nat × TaskSt) => t.saveTask c x.1 x.2.1 x.2.2 (2 * k + x.2.2.win)) s
    let s2 := if 16 ≤ e ∧ e < 24 then s1.resetSieve (e - 16) else s1
    let s3 := match s2.slotCtx slot with
      | none => s2
      | some c =>
        (s2.tasksWhere c fun z => decide (engineKey z.engine z.plot z.pos = some e) && z.isSaved).foldl
          (fun t (x : Nat × Nat × TaskSt) => t.restoreTask c x.1 x.2.1 x.2.2 (2 * slot + x.2.2.win)) s2
    { s3 with rms := { s3.rms with lastServed := SMap.put zeroUnlisted s3.rms.lastServed e (slot + 1) } }

/-- Whether a Sprout of a serving position still runs for a context: it has neither halted nor stopped at a PPT (05 R128). -/
def State.sproutsRun (s : State) (c n pos : Nat) : Bool :=
  (s.posSprouts n pos 0xFFFF).any fun i => decide ((s.sprout i).ctx = some c) && (s.sprout i).runs

/-- Whether an engine's present slot holds it, with a task between two points of choice, or a Sprout at work. -/
def State.engineHeld (s : State) (e : Nat) : Bool :=
  match SMap.get zeroUnlisted s.rms.serving e with
  | 0 => false
  | k + 1 =>
    match s.slotCtx k with
    | none => false
    | some c => decide (s.tasksWhere c (fun z => z.midway e) ≠ []) ||
        (decide (32 ≤ e ∧ e < 160) && s.sproutsRun c (enginePlot e) ((e - 32) % 16))

/-- An engine runs its choice (R288). -/
def State.rechoose (s : State) (e : Nat) : State :=
  if s.engineHeld e then s
  else
    let a := s.choose e
    match a.1 with
    | some k => ({ a.2 with rms := { a.2.rms with serving := SMap.put zeroUnlisted a.2.rms.serving e (k + 1) } }).engineSwitch e k
    | none => { a.2 with rms := { a.2.rms with serving := SMap.put zeroUnlisted a.2.rms.serving e 0 } }

/-- An engine that is shared runs its choice; another has none. -/
def State.choicePoint (s : State) (e : Option Nat) : State :=
  match e with
  | none => s
  | some k => s.rechoose k

/-- The state in which an engine has chosen if it was idle, and whether it serves a slot. -/
def State.engineFor (s : State) (e : Option Nat) (slot : Nat) : Bool × State :=
  match e with
  | none => (true, s)
  | some e =>
    let s1 := if SMap.get zeroUnlisted s.rms.serving e = 0 then s.rechoose e else s
    (decide (SMap.get zeroUnlisted s1.rms.serving e = slot + 1), s1)

/-- Whether a lockstep context's steps may run: its mark has come (13 R330). -/
def State.marked (s : State) (c : Nat) : Bool :=
  !s.locked c ||
    (match (s.ctx c).lockMark with
     | some m => decide (m ≤ s.sdl.ref)
     | none => false)

/-- A task takes its next entry (R278): of kind `kind`, able to issue, of a step in flight of a context that is served, on an
engine that serves its slot. `f` is the entry's effect, after the task has moved past it. -/
def State.takeEntry (s : State) (c n i kind : Nat) (f : StepSt → TaskSt → Nat → State → State) : State :=
  match s.step? c n, (s.ctx c).slot with
  | some y, some slot =>
    match y.tasks[i]? with
    | none => s
    | some z =>
      let e := z.entry y.plan
      if (s.ctx c).live ∧ ((s.ctx c).resident ∨ (s.ctx c).preempting) ∧ y.canIssue z ∧ fieldOf e 0 4 = kind ∧ s.marked c then
        let r := s.engineFor (engineKey z.engine z.plot z.pos) slot
        if r.1 then
          f y z e (((r.2.modTask c n i fun x => { x with pc := x.pc + 16, ringWait := false })).modCtx c fun x =>
            { x with beat := s.sdl.ref, st := if x.st = .blocked then .running else x.st })
        else r.2
      else s
  | _, _ => s

/-- Irrigator of a task (R278): its Plot's, or the central one for a task of the central Irrigator or of the Thresher. -/
def TaskSt.irg (z : TaskSt) : Nat := if 4 ≤ z.engine then 8 else z.plot

/-- Entries of a task from an offset to its END, with their offsets. -/
def planEntries (b : List (BitVec 8)) : Nat → Nat → List (Nat × Nat)
  | 0, _ => []
  | fuel + 1, o =>
    let e := planNat b o 16
    if b.length ≤ o then []
    else if fieldOf e 0 4 = 0 then [(o, e)]
    else (o, e) :: planEntries b fuel (o + 16)

/-- Entries that a task can still reach without a jump. -/
def StepSt.entriesFrom (y : StepSt) (o : Nat) : List (Nat × Nat) := planEntries y.plan (y.plan.length / 16 + 1) o

/-- Byte offset of a task's first entry. -/
def StepSt.seqOf (y : StepSt) (i : Nat) : Nat := fieldOf (planTask y.plan i) 64 32

/-- The CHKPT entry of index `k` of a task, if it has one. -/
def StepSt.chkptOf (y : StepSt) (i k : Nat) : Option Nat :=
  ((y.entriesFrom (y.seqOf i)).find? fun e => decide (fieldOf e.2 0 4 = 7 ∧ fieldOf e.2 4 12 = k)).map (·.2)

/-- The tasks of a step that hold a CHKPT entry of index `k`. -/
def StepSt.holders (y : StepSt) (k : Nat) : List (Nat × Nat) :=
  (List.range y.tasks.length).filterMap fun i => (y.chkptOf i k).map fun e => (i, e)

end Sys2Proof.Machine
end

