-- ==== Sys2Proof/Machine/Tasks.lean ====
section
/-!
DEFINITION. The entries of tasks (11 R278), checkpoints and cuts (R294 to R297), re-runs (05 R137), fallback records and late
starts (10 R247, 11 R299), late prologues (07 R177), and the time limits of tasks and contexts (16 R401).
-/

namespace Sys2Proof.Machine

open Sys2Proof

/-- The descriptor that an OP entry names (R278); a pass descriptor is its first 128 bits (03 R77). -/
def StepSt.opDesc (y : StepSt) (z : TaskSt) (e : Nat) : Nat :=
  let d := planNat y.plan (z.desc + 64 * fieldOf e 16 32) 64
  if z.engine = 0 then d % 2 ^ 128 else d

/-- The prologues that a task's declared boundaries start with the entry at an index: the layer, the mask and OVL_STEPS. -/
def TaskSt.starts (z : TaskSt) (idx : Nat) : List (Nat × Nat × Nat) :=
  (List.range z.bounds.length).filterMap fun l =>
    match z.bounds[l]? with
    | some b => if b.1 = idx then some (l, b.2) else none
    | none => none

/-- The operation that starts an epilogue issues: its prologue Furrows move from PARKED to ACTIVE (07 R177). -/
def State.startPrologue (s : State) (c irg layer mask ovl : Nat) : State :=
  let l := (s.irrigator irg).furrows.filter fun (e : Nat × Furrow) =>
    decide (e.2.ctx = c ∧ e.2.st = .parked ∧ fieldOf mask e.1 1 = 1)
  if l = [] then s
  else
    (l.foldl (fun t e => t.modFurrow irg e.1 fun x => { x with st := .active, due := some (t.sdl.ref, layer, ovl) }) s).settleIrg irg

/-- The tiles among those that an operation reads which are not delivered: by Irrigator, Furrow and tile (07 R171). -/
def State.undelivered (s : State) (c : Nat) (needs : List (Fin 9 × Fin 64 × Nat)) : List (Fin 9 × Fin 64 × Nat) :=
  needs.filter fun x => decide ((s.furrow x.1.val x.2.1.val).ctx = c ∧ (s.furrow x.1.val x.2.1.val).cursor ≤ x.2.2)

/-- A consumer reaches tiles that are not delivered, and waits: each Irrigator concerned counts it once (07 R171). -/
def State.dry (s : State) (c n i : Nat) (l : List (Fin 9 × Fin 64 × Nat)) : State :=
  let s1 := s.modTask c n i fun x => { x with dryWait := true }
  ((l.map fun x => x.1.val).eraseDups).foldl
    (fun t g => (t.bump (pgIrg g) 0x40 (some (s.partOf c))).raise (pgIrg g) 8 (some (s.partOf c))) s1

/-- What makes a task's OP wait by handshake, if anything: it stands at one, it can be issued, and the tiles it reads are not all
delivered. -/
def State.opWaits (s : State) (c n i : Nat) (needs : List (Fin 9 × Fin 64 × Nat)) : Option TaskSt :=
  match s.step? c n with
  | none => none
  | some y =>
    match y.tasks[i]? with
    | none => none
    | some z =>
      if (s.ctx c).live ∧ y.canIssue z ∧ fieldOf (z.entry y.plan) 0 4 = 1 ∧ s.undelivered c needs ≠ [] then some z else none

/-- Whether a task's OP is held by handshake: its serving Bed is Bed 16 and has not been loaded since its Graft (05 R138). -/
def State.opHeld (s : State) (c n i : Nat) : Bool :=
  match (s.step? c n).bind fun y => y.tasks[i]? with
  | some z =>
    decide (z.engine = 2) && (match s.servingBed z.plot z.pos with
      | some b => !s.bedReady z.plot b
      | none => false)
  | none => false

/-- TASK_OP (R278): the descriptor is issued and its declared steps are charged; a Sprout start begins work on the named idle Sprout
of the serving Bed, and completes there. `net` says that the Sprout's descriptor is one of Safety Net's; `needs` names the tiles that
the operation reads, by Irrigator, Furrow and tile: while one is not delivered the operation waits, which is counted once (R171;
log 206). -/
def execTaskOp (c : Ctx) (n i : Nat) (sprout : Fin 16) (net : Bool) (needs : List (Fin 9 × Fin 64 × Nat)) (t : Nat) (s : State) :
    Host.Outcome State Fault Refusal :=
  .next (s.live fun s0 =>
    if (s0.advance t).opHeld c.val n i then s0.advance t
    else match (s0.advance t).opWaits c.val n i needs with
    | some z =>
      if z.dryWait then s0.advance t
      else (s0.advance t).dry c.val n i ((s0.advance t).undelivered c.val needs)
    | none => (s0.advance t).takeEntry c.val n i 1 fun y z e s =>
      let d := y.opDesc z e
      let cost := fieldOf e 48 32
      let k := engineKey z.engine z.plot z.pos
      let s1 := (s.modTask c.val n i fun x => { x with steps := x.steps + cost, dryWait := false, op := if x.engine = 2 then none else some d }).charge
        c.val k cost
      let s3 := (z.starts ((z.pc - y.seqOf i) / 16)).foldl (fun t b => t.startPrologue c.val z.irg b.1 b.2.1 b.2.2) s1
      if z.engine = 2 then
        match s.servingBed z.plot z.pos, (s.ctx c.val).slot with
        | some b, some slot =>
          if hb : b < 17 ∧ z.plot < 8 then
            let q : SproutId := ⟨⟨z.plot, hb.2⟩, ⟨b, hb.1⟩, sprout⟩
            if (s.sprout q).st = .idle ∧ (s.sprout q).frozen = false then
              s3.startSprout q c.val n (2 * slot + z.win) (if net then some d else none) false
            else s3
          else s3
        | _, _ => s3
      else s3)

/-- TASK_WAIT (R278): the task goes on once the signal has been raised often enough; until then it waits, on a ring request where
`ring` says so (R292). -/
def execTaskWait (c : Ctx) (n i : Nat) (ring : Bool) (t : Nat) (s : State) : Host.Outcome State Fault Refusal :=
  .next (s.live fun s0 =>
    let s := s0.advance t
    match s.step? c.val n with
    | none => s
    | some y =>
      match y.tasks[i]? with
      | none => s
      | some z =>
        let e := z.entry y.plan
        if fieldOf e 0 4 = 2 ∧ ¬ y.waitMet e ∧ y.flying then s.modTask c.val n i fun x => { x with ringWait := ring }
        else s.takeEntry c.val n i 2 fun _ _ _ t => t)

/-- TASK_SIGNAL (R278). -/
def execTaskSignal (c : Ctx) (n i : Nat) (t : Nat) (s : State) : Host.Outcome State Fault Refusal :=
  .next (s.live fun s0 =>
    (s0.advance t).takeEntry c.val n i 3 fun _ _ e s =>
      s.modTask c.val n i fun x => { x with signals := SMap.modify zeroUnlisted x.signals (fieldOf e 4 8) (· + 1) })

/-- RELEASE (07 R167, R278). -/
def execRelease (c : Ctx) (n i : Nat) (t : Nat) (s : State) : Host.Outcome State Fault Refusal :=
  .next (s.live fun s0 =>
    (s0.advance t).takeEntry c.val n i 4 fun _ z e s => s.releaseTiles z.irg (fieldOf e 4 8) (fieldOf e 16 8))

/-- Whether some task of a step still has a BOUNDARY entry before it. -/
def StepSt.boundariesLeft (y : StepSt) : Bool :=
  y.tasks.any fun z => !z.done && (y.entriesFrom z.pc).any fun e => decide (fieldOf e.2 0 4 = 5)

/-- Whether a boundary of a step names a Furrow as prologue. -/
def StepSt.namesFurrow (y : StepSt) (irg f : Nat) : Bool :=
  y.tasks.any fun z => decide (z.irg = irg) && z.bounds.any fun b => decide (fieldOf b.2.1 f 1 = 1)

/-- TASK_BOUNDARY (07 R177, R278): a layer boundary is declared. When the Plan's last one passes, a PARKED Furrow that none names
faults the context. -/
def execTaskBoundary (c : Ctx) (n i : Nat) (t : Nat) (s : State) : Host.Outcome State Fault Refusal :=
  .next (s.live fun s0 =>
    (s0.advance t).takeEntry c.val n i 5 fun _ _ e s =>
      let s1 := s.modTask c.val n i fun x =>
        { x with bounds := x.bounds ++ [(fieldOf e 12 16, fieldOf e 32 64, fieldOf e 96 32)] }
      match s1.step? c.val n with
      | none => s1
      | some y =>
        if y.boundariesLeft then s1
        else if (s1.furrowsOf c.val).any fun p => decide ((s1.furrow p.1 p.2).st = .parked) && !y.namesFurrow p.1 p.2 then
          s1.faultCtx c.val 0x09
        else s1)

/-- TASK_PPT (R279, R288 to R291): under a pre-emption the task stops here and its engine state is saved at once; otherwise the
engine runs its choice. `count` is the number of items of the carried list, which the list itself does not give (log 57). -/
def execTaskPpt (c : Ctx) (n i : Nat) (count : Nat) (t : Nat) (s : State) : Host.Outcome State Fault Refusal :=
  .next (s.live fun s0 =>
    (s0.advance t).takeEntry c.val n i 6 fun y z e s =>
      let items := (List.range count).map fun k => planNat y.plan (fieldOf e 16 32 + 8 * k) 8
      let row := fieldOf e 48 19
      let key := engineKey z.engine z.plot z.pos
      let w : TaskSt := { z with pc := z.pc + 16, lastPpt := z.pc + 16, items := items, saveRow := row, saved := [], isSaved := false }
      let s1 := s.modTask c.val n i fun _ => w
      if (s.ctx c.val).preempting then
        let s2 := s1.saveTask c.val n i w (2 * (s.ctx c.val).slot.getD 0 + z.win)
        (s2.modTask c.val n i fun x => { x with stopped := true }).choicePoint key
      else s1.choicePoint key)

/-- TASK_CHKPT (R294): the task posts a checkpoint record and goes on. -/
def execTaskChkpt (c : Ctx) (n i : Nat) (t : Nat) (s : State) : Host.Outcome State Fault Refusal :=
  .next (s.live fun s0 =>
    (s0.advance t).takeEntry c.val n i 7 fun _ _ e s =>
      (s.modStep c.val n fun y => { y with passed := SMap.modify zeroUnlisted y.passed (fieldOf e 4 12) (· + 1) }).record pgTrp 34
        [c.val, n, i, fieldOf e 4 12])

/-- TASK_FEEDS (R278). -/
def execTaskFeeds (c : Ctx) (n i : Nat) (t : Nat) (s : State) : Host.Outcome State Fault Refusal :=
  .next (s.live fun s0 =>
    (s0.advance t).takeEntry c.val n i 8 fun y _ e s =>
      s.modStep c.val n fun x => { x with feeds := x.feeds ++ [(fieldOf e 16 32, allocList y.plan (fieldOf e 64 32))] })

/-- TASK_END (R278, R288): the task is complete, and its engine runs its choice. -/
def execTaskEnd (c : Ctx) (n i : Nat) (t : Nat) (s : State) : Host.Outcome State Fault Refusal :=
  .next (s.live fun s0 =>
    (s0.advance t).takeEntry c.val n i 0 fun _ z _ s =>
      let s1 := s.modTask c.val n i fun x => { x with pc := z.pc, done := true }
      let s2 := if z.engine = 2 then (s1.posSprouts z.plot z.pos 0xFFFF).foldl (fun t q => t.leaveSprout q) s1 else s1
      s2.choicePoint (engineKey z.engine z.plot z.pos))

/-! ### Checkpoints and cuts (R294 to R297) -/

/-- Predicted completion and margin at a checkpoint reached at `now` (R296), in units of 2^−16 ns. -/
def State.predict (s : State) (c : Nat) (y : StepSt) (now tIn rem : Nat) : Int × Int :=
  let t0 := if tIn = 0 then (now : Int) else max (now : Int) (y.boundary + (tIn * 100 * nsRef : Nat))
  let p := t0 + (stepDur (rem + y.g) (s.rUse y.plan) : Nat)
  (p, s.deadlineAt c y - (y.reserve : Int) - p)

/-- A cut at checkpoint `k` (R297): every task that holds it goes on at its own tail, after the OP it has in progress. -/
def State.cutStep (s : State) (c n k : Nat) : State :=
  s.modStep c n fun y =>
    { y with
      cut := some k
      tasks := y.tasks.mapIdx fun i z =>
        match y.chkptOf i k with
        | some e => if z.done then z else { z with pc := fieldOf e 64 32 }
        | none => z }

/-- CHECKPOINT (R294 to R297): every task that holds checkpoint `k` has passed it. T_IN and REM are the greatest of its entries'
(log 58). -/
def execCheckpoint (c : Ctx) (n k : Nat) (t : Nat) (s : State) : Host.Outcome State Fault Refusal :=
  .next (s.live fun s0 =>
    let s := s0.advance t
    match s.step? c.val n with
    | none => s
    | some y =>
      let hs := y.holders k
      if s.watched c.val ∧ y.flying ∧ hs ≠ [] ∧ SMap.get zeroUnlisted y.passed k = hs.length ∧ (y.chkSeen = false ∨ y.chkpt ≠ k) then
        let part := some (s.partOf c.val)
        let tIn := (hs.map fun h => fieldOf h.2 16 16).foldl max 0
        let rem := (hs.map fun h => fieldOf h.2 32 32).foldl max 0
        let r := s.predict c.val y s.sdl.dev tIn rem
        let y2 := { y with
          chkpt := k, chkSeen := true, chkAt := s.sdl.dev, tIn := tIn, rem := rem, tPred := r.1, margin := r.2
          marginMin := if y.chkSeen then min y.marginMin r.2 else r.2 }
        let s1 := ((s.paceStale y.plan).modStep c.val n fun _ => y2).bump pgTrp 0x40 part
        if r.2 < 0 ∧ y.cut = none then
          let cutList := match hs.head? with
            | some h => allocList y.plan (fieldOf h.2 96 32)
            | none => []
          (((s1.cutStep c.val n k).bump pgTrp 0x48 part).raise pgTrp 8 part).tightLog c.val y2 0 cutList.length
        else s1
      else s)

/-! ### Safety Net: re-runs and late starts (05 R134, R135, R137; R298, R299) -/

/-- Steps of a Safety Net invocation (05 R134): pilots per layer are 6 or 4 to a PRB and DMRS symbol for types 1 and 2, and every
layer's pilots are counted among the bundle's. -/
def netSteps (d : Nat) : Nat :=
  let p := fieldOf d 26 5 + 1
  let l := fieldOf d 32 2 + 1
  let prb := if fieldOf d 25 1 = 1 then 4 else 2
  let f := 12 * prb
  let dm := if fieldOf d 51 4 = fieldOf d 55 4 then 1 else 2
  let nl := prb * dm * (if fieldOf d 59 1 = 0 then 6 else 4)
  let n := nl * (if fieldOf d 59 1 = 0 then 2 else 3)
  let syms := ((List.range 14).filter fun k => decide (fieldOf d (37 + k) 1 = 1)).length
  let demap := match fieldOf d 34 3 with
    | 0 => 1 | 1 => 1 | 2 => 3 | 3 => 5 | _ => 7
  nl * p * l + 2 * p * l + 2 * n * p + (n + 1) * (p * (p + 1) / 2) + (p ^ 3 + 2) / 3 + 2 * p ^ 2 * l + 24 * p + 16 * l ^ 2
    + syms * (f * (p * l + l) + f * l * demap)

/-- A failed re-run or a refused one (05 R137): the bundle's status word with VALID 0, and a failed retry for the fault block. -/
def State.failRerun (s : State) (q : SproutId) (kind : Nat) : State :=
  let x := s.sprout q
  match x.desc with
  | none => s
  | some d =>
    ((s.putStatus q x.entry d (statusWord d false (x.b0.sat || x.b1.sat) x.rerun x.late 0)).modSprout q fun y =>
      { y with st := .aborted, desc := none, grant := none }).toFlt
        { kind := kind, action := 2, cls := 1, plot := q.plot.val, index := q.bed.val, ctx := x.ctx }

/-- A Sprout's invocation is aborted and Tightrope asked for a re-run. -/
def State.askRerun (s : State) (q : SproutId) (kind : Nat) : State :=
  let x := s.sprout q
  match x.desc, x.ctx with
  | some d, some c =>
    if x.rerun then s.failRerun q kind
    else
      match s.flyingStep c with
      | none => s.failRerun q kind
      | some y =>
        let cost := netSteps d
        let g := s.tightGrant c y.n 2 cost
        if g.1 then
          (g.2.modSprout q fun z =>
            { z with
              st := .bank0, wait := .none, rerun := true, rerunKind := kind, stopped := false, grant := some (y.n, cost), ret := []
              b0 := { pc := Config.sproutEntry d }, b1 := {} }).bump (pgBed q.plot.val q.bed.val) 0x50 (s.plotPart q.plot.val)
        else g.2.failRerun q kind
  | _, _ => s

/-- RERUN_REQUEST (05 R137): `cause` 0 a residue mismatch, 1 an uncorrectable data-memory error, 2 one of the program memory,
which affects every invocation in flight on the Bed. Other Sprout code faults its context at a mismatch. -/
def execRerunRequest (q : SproutId) (cause : Fin 3) (t : Nat) (s : State) : Host.Outcome State Fault Refusal :=
  .next (s.live fun s0 =>
    let s := s0.advance t
    let x := s.sprout q
    let pg := pgBed q.plot.val q.bed.val
    let part := s.plotPart q.plot.val
    if x.st = .idle then s
    else
      let s1 := (s.modSprout q fun y => { y with st := .aborted }).raise pg 8 part
      let s2 := if cause = 0 then s1.bump pg 0x48 part else s1
      let note (t : State) (kind : Nat) : State :=
        t.toFlt { kind := kind, action := 8, cls := 1, plot := q.plot.val, index := q.bed.val, ctx := x.ctx }
      if cause = 2 then
        ((List.finRange 16).map fun k => (⟨q.plot, q.bed, k⟩ : SproutId)).foldl
          (fun t k => if (t.sprout k).desc.isSome then t.failRerun k 1 else t) (note s2 1)
      else if x.desc.isSome then s2.askRerun q (if cause = 0 then 4 else 1)
      else
        match x.ctx with
        | some c => (if cause = 0 then note s2 4 else s2).faultCtx c 0x13
        | none => s2)

/-- Standby Sprouts of a Plan on a Plot that are idle, in ascending Bed and Sprout (R299). -/
def State.standbys (s : State) (b : List (BitVec 8)) (n : Fin 8) : List SproutId :=
  (List.range 16).flatMap fun pos =>
    if fieldOf (planStandby b n.val) pos 1 = 1 then
      (s.posSprouts n.val pos 0xFFFF).filter fun i => decide ((s.sprout i).st = .idle) && !(s.sprout i).frozen
    else []

/-- Tightrope's late start on a Sprout: staged into BED_LATE_START and applied, START asserted; a Bed without its kernel faults the
context (05 R135). -/
def State.lateStart (s : State) (q : SproutId) (c n entry d idx : Nat) : State :=
  let pg := pgBed q.plot.val q.bed.val
  let seq := s.cfg pg 0x104 28 4
  let s1 := s.actPut pg 0x104 (2 ^ q.sprout.val + 2 ^ 16 * (idx % 2 ^ 12) + 2 ^ 28 * ((seq + 1) % 16))
  if (s.bed q.plot.val q.bed.val).seeded then (s1.startSprout q c n entry (some d) true).assertLine q 1
  else s1.faultCtx c 0x11

/-- One bundle of a fallback: late-started where Tightrope grants it, else the null descriptor in its place, which writes the
bundle's status word at once with VALID 0 (10 R247, R299; log 59). A replay late-starts exactly the bundles whose captured VALID
bit is 1 (13 R337). -/
def State.lateBundle (s : State) (c n : Nat) (b : LateBundle) (captured : Bool) : State :=
  match s.step? c n with
  | none => s
  | some y =>
    match y.tasks[b.task]? with
    | none => s
    | some z =>
      let part := some (s.partOf c)
      let d := planNat y.plan (z.desc + 64 * b.desc) 64
      let entry := 2 * (s.ctx c).slot.getD 0 + z.win
      let inTime := decide (((s.sdl.dev : Int) + (stepDur (netSteps d) (s.rUse y.plan) : Nat)) ≤
        y.boundary + (planNetDl y.plan * usRef : Nat))
      let may := if s.isGh c then false else if s.replays c then captured else if s.watched c then inTime else true
      match (s.standbys y.plan b.plot).head? with
      | some q =>
        if may then ((s.lateStart q c n entry d b.desc).bump pgTrp 0x68 part).tightLog c y 7 1
        else ((((s.putStatus q entry d (statusWord d false false false true 0)).bump pgTrp 0x70 part)).raise pgTrp 9 part).tightLog c y
          11 1
      | none =>
        let q : SproutId := ⟨b.plot, ⟨(s.servingBed z.plot z.pos).getD 0 % 17, by omega⟩, 0⟩
        (((s.putStatus q entry d (statusWord d false false false true 0)).bump pgTrp 0x70 part).raise pgTrp 9 part).tightLog c y 11 1

/-- Log cause of a fallback by the AST bit set (R300): FB_PLAN, FB_RESCALE, FB_CHECKSUM; FB_DEADLINE follows a cut, which is
logged at the cut. -/
def fbCause (b : Nat) : Option Nat := if b = 0 then some 3 else if b = 1 then some 2 else if b = 2 then some 1 else none

/-- FALLBACK_RECORD (10 R247): a setter's record of AST bit `fb` for `allocs` allocations, with the bundles of those that are not
netted, in the order of R299. -/
def execFallbackRecord (c : Ctx) (n : Nat) (fb : Fin 4) (allocs : Nat) (bundles : List (LateBundle × Bool)) (t : Nat) (s : State) :
    Host.Outcome State Fault Refusal :=
  .next (s.liveApply fun s0 =>
    let s := s0.advance t
    match s.step? c.val n with
    | none => s
    | some y =>
      if y.flying ∧ (s.ctx c.val).live then
        let s1 := s.bumpBy pgTrp 0x50 (some (s.partOf c.val)) allocs
        let s2 := match fbCause fb.val with
          | some k => s1.tightLog c.val y k allocs
          | none => s1
        bundles.foldl (fun t b => t.lateBundle c.val n b.1 b.2) s2
      else s)

/-- The Furrows of a layer's prologue on an Irrigator that are not all delivered. -/
def State.prologueLeft (s : State) (irg c layer : Nat) : List (Nat × Furrow) :=
  (s.irrigator irg).furrows.filter fun e =>
    decide (e.2.ctx = c ∧ (e.2.due.map fun d => d.2.1) = some layer ∧ e.2.cursor < fTiles e.2.desc)

/-- The least time that `n` steps of an Irrigator's pace take, in units of 2^−16 ns: at its nominal 1.1 G steps/s (07 R172; log 207). -/
def ovlTime (n : Nat) : Nat := paceTime n

/-- PROLOGUE_LATE (07 R177): OVL_STEPS after the epilogue's start a layer's prologue has not delivered its last tile: counted, raised
and recorded once for the layer. -/
def execPrologueLate (irg : Fin 9) (f : Fin 64) (t : Nat) (s : State) : Host.Outcome State Fault Refusal :=
  .next (s.live fun s0 =>
    let s := s0.advance t
    let x := s.furrow irg.val f.val
    match x.due with
    | none => s
    | some d =>
      if s.sdl.ref < d.1 + ovlTime d.2.2 then s
      else
        let left := s.prologueLeft irg.val x.ctx d.2.1
        let s0 := (s.irrigator irg.val).furrows.foldl (fun t (e : Nat × Furrow) =>
          if e.2.ctx = x.ctx ∧ (e.2.due.map fun d => d.2.1) = some d.2.1 then t.modFurrow irg.val e.1 fun y => { y with due := none }
          else t) s
        if left = [] then s0
        else
          let part := some (s.partOf x.ctx)
          let s1 := ((s0.bump (pgIrg irg.val) 0x48 part).raise (pgIrg irg.val) 9 part).record pgTrp 35
            [x.ctx, d.2.1, (left.map fun e => fTiles e.2.desc - e.2.cursor).sum]
          match s.flyingStep x.ctx with
          | some y => s1.tightLog x.ctx y 12 0
          | none => s1)

/-! ### Time limits (16 R401) -/

/-- TASK_TIMEOUT (16 R401): a task's timer, `ran` in units of 2^−16 ns (log 61), passes 2 × BOUND steps at 0.95 G steps/s. -/
def execTaskTimeout (c : Ctx) (n i : Nat) (ran : Nat) (t : Nat) (s : State) : Host.Outcome State Fault Refusal :=
  .next (s.live fun s0 =>
    let s := s0.advance t
    match s.step? c.val n with
    | none => s
    | some y =>
      match y.tasks[i]? with
      | some z => if y.flying ∧ ¬ z.done ∧ 200 * nsRef * z.bound < 95 * ran then s.overLimit c.val 3 0x08 else s
      | none => s)

/-- HEARTBEAT_TIMEOUT (16 R401): no entry of a context in flight has completed for 10 ms. -/
def execHeartbeatTimeout (c : Ctx) (t : Nat) (s : State) : Host.Outcome State Fault Refusal :=
  .next (s.live fun s0 =>
    let s := s0.advance t
    let x := s.ctx c.val
    if x.steps.any (·.flying) ∧ (x.st = .running ∨ x.st = .blocked) ∧ x.beat + 10000 * usRef < s.sdl.ref then
      (s.bump pgFlt 0x78 (some (s.partOf c.val))).overLimit c.val 5 0x19
    else s)

end Sys2Proof.Machine
end

