-- ==== Sys2Proof/Machine/Library.lean ====
section
/-!
DEFINITION. Plan libraries (11 R275, R276): the checks of library entry, and the commands that add and remove entries.
-/

namespace Sys2Proof.Machine

open Sys2Proof

/-! ### Checks of a Plan (R276) -/

/-- Task `i` of a Plan, as its engine takes it: engine, Plot, first entry, descriptor base. -/
def planEngine (b : List (BitVec 8)) (i : Nat) : Nat := fieldOf (planTask b i) 0 3

/-- The entries of task `i` from its first to its END, with their offsets. -/
def planSeq (b : List (BitVec 8)) (i : Nat) : List (Nat × Nat) := planEntries b (b.length / 16 + 1) (fieldOf (planTask b i) 64 32)

/-- Indices of a Plan's tasks. -/
def planIdx (b : List (BitVec 8)) : List Nat := List.range (planTasks b)

/-- The descriptors that the OP entries of a Plan's tasks of some engines name (R278). -/
def planOps (b : List (BitVec 8)) (engines : List Nat) : List (Nat × Nat) :=
  (planIdx b).flatMap fun i =>
    if planEngine b i ∈ engines then
      (planSeq b i).filterMap fun e =>
        if fieldOf e.2 0 4 = 1 then some (i, planNat b (fieldOf (planTask b i) 96 32 + 64 * fieldOf e.2 16 32) 64) else none
    else []

/-- Reserved fields and reserved encodings of the header, the index entry and the task sequence (00 R12). -/
def planReserved (index : Nat) (b : List (BitVec 8)) : Bool :=
  decide (planHdr b 4 4 ≠ 1 ∨ planHdr b 43 5 ≠ 0 ∨ planHdr b 63 1 ≠ 0 ∨ planHdr b 126 2 ≠ 0 ∨ planHdr b 224 160 ≠ 0 ∨
      fieldOf index 78 18 ≠ 0) ||
    (planIdx b).any fun i =>
      decide (fieldOf (planTask b i) 11 21 ≠ 0 ∨ 6 ≤ planEngine b i) ||
        (planSeq b i).any fun e => decide (9 ≤ fieldOf e.2 0 4)

/-- A SHA-256 digest's first 16 bytes as a 128-bit number, its first byte the most significant (log 63). -/
def hashNum (d : List (BitVec 8)) : Nat := leNat (d.take 16).reverse

/-- Whether PLAN_HASH is the truncated hash of the Plan from byte 64 to its end. -/
def planHashOk (b : List (BitVec 8)) : Bool := decide (planHash b = hashNum (Config.sha256 (b.drop 64)))

/-- Whether a pass names an operand pair that R41 does not list. -/
def passPairBad (d : Nat) : Bool :=
  let w := pWfmt d
  let a := pAfmt d
  !decide ((w = 0 ∧ a = 0) ∨ (w = 1 ∧ a = 1) ∨ (w = 2 ∧ a = 2) ∨ (w = 3 ∧ a = 3 ∧ pComplex d = true) ∨
    (w = 0 ∧ a = 1 ∧ pMode d = 3) ∨ ((w = 4 ∨ w = 5) ∧ (a = 4 ∨ a = 5)) ∨ ((w = 6 ∨ w = 7) ∧ (a = 6 ∨ a = 7)))

/-- A pass descriptor that R78 refuses. -/
def passRefused (d : Nat) : Bool :=
  let w := pWfmt d
  let a := pAfmt d
  let m := pMode d
  passPairBad d || decide (m = 3 ∧ (w ≠ 0 ∨ a ≠ 1)) || decide (pComplex d = true ∧ (w ≠ 3 ∨ a ≠ 3)) ||
    (!windowed w && decide (pWinPos d ≠ 0)) || decide (pComplex d = false ∧ (w = 3 ∨ a = 3)) ||
    (pZpRow d && decide (2 ≤ w ∨ m = 3)) ||
    decide (256 < pEntry0 d + (if pComplex d then 2 else 1) * pRows d)

/-- A pass with a reserved format code, a reserved WIN_POS or a reserved bit (00 R12; 02 R32, R46; 03 R77). -/
def passReserved (d : Nat) : Bool :=
  (windowed (pWfmt d) && decide (pWinPos d < -266 ∨ 129 < pWinPos d)) || decide (fieldOf d 51 13 ≠ 0 ∨ 12 < pWfmt d ∨ 12 < pAfmt d)

/-- An activation zero point outside −8 to 7 for INT4, or a non-zero one of a format other than INT4 and INT8 (02 R54). -/
def passZero (d : Nat) : Bool :=
  decide ((2 ≤ pAfmt d ∧ pActZp d ≠ 0) ∨ (pAfmt d = 0 ∧ (pActZp d < -8 ∨ 7 < pActZp d)))

/-- The longest run of steps between two entries of kind `k` of a task, and from its start to the first. -/
def longestRun (k : Nat) : List (Nat × Nat) → Nat → Nat → Nat
  | [], cur, best => max cur best
  | e :: es, cur, best =>
    if fieldOf e.2 0 4 = k then longestRun k es 0 (max cur best)
    else longestRun k es (cur + (if fieldOf e.2 0 4 = 1 then fieldOf e.2 48 32 else 0)) best

/-- Whether a task of a Plan runs too long between two PPT entries: 2,048 steps, 256 for a time-shared Greenhouse context
(R278, 12 R307). -/
def planPptLong (b : List (BitVec 8)) (limit : Nat) : Bool := (planIdx b).any fun i => decide (limit < longestRun 6 (planSeq b i) 0 0)

/-- The longest run of steps between two CHKPT entries of a task that has one (R294). -/
def planChkptLong (b : List (BitVec 8)) : Bool :=
  (planIdx b).any fun i =>
    let l := planSeq b i
    let last := (List.range l.length).filter fun k => decide (fieldOf (l.getD k (0, 0)).2 0 4 = 7)
    match last.getLast? with
    | none => false
    | some k => decide (3800 < longestRun 7 (l.take (k + 1)) 0 0)

/-- Whether a stream port may be a Furrow's source (09 R237, 10 R253, 12 R310, R312). -/
def portIsSource (p : Nat) : Bool :=
  decide ((0x100 ≤ p ∧ p < 0x300) ∨ p = 0x3A0 ∨ (0x440 ≤ p ∧ p < 0x450) ∨ (0x4C0 ≤ p ∧ p < 0x4D0) ∨ (0x600 ≤ p ∧ p < 0x608) ∨
    (0x610 ≤ p ∧ p < 0x618))

/-- Whether a stream port may be a Furrow's destination. -/
def portIsDest (p : Nat) : Bool :=
  decide ((0x300 ≤ p ∧ p < 0x320) ∨ p = 0x380 ∨ p = 0x390 ∨ (0x400 ≤ p ∧ p < 0x410) ∨ (0x480 ≤ p ∧ p < 0x490) ∨
    (0x500 ≤ p ∧ p < 0x510))

/-- The partition of a grid (09 R241). -/
def gridPart (m : SMap Word) (g : Nat) : Nat := cfg m ⟨.trnGrid, 0⟩ (0x100 + 0x20 * g) 21 3

/-- The grid that a stream port carries. -/
def portGrid (p : Nat) : Option Nat :=
  if 0x100 ≤ p ∧ p < 0x200 then some ((p - 0x100) / 8) else if 0x200 ≤ p ∧ p < 0x300 then some ((p - 0x200) / 8)
  else if 0x300 ≤ p ∧ p < 0x320 then some (p - 0x300) else none

/-- The Thresher queue that a stream port names. -/
def portQueue (p : Nat) : Option Nat := if 0x400 ≤ p ∧ p < 0x510 ∧ p % 64 < 16 then some (p % 16) else none

/-- Whether a Furrow breaks a rule on stream ports (09 R237, 10 R253): direction, partition, or the queue of another slot than the
one its context holds. -/
def State.portRefused (s : State) (c d : Nat) : Bool :=
  let p := if fSkind d then fSrc d % 2 ^ 16 else fDst d % 2 ^ 16
  if fSkind d || fDkind d then
    (fSkind d && !portIsSource p) || (fDkind d && !portIsDest p) ||
      (match portGrid p with
       | some g => decide (gridPart s.gate.act g ≠ s.partOf c)
       | none => false) ||
      (match portQueue p, (s.ctx c).slot with
       | some q, some k => decide (q ≠ k)
       | _, _ => false)
  else false

/-- Whether an address lies in a Bed program memory of a Plot (01 R30). -/
def inProgram (a : Nat) : Bool :=
  decide (plotBase 0 ≤ a ∧ a < plotBase 8 ∧ 0x03800000 ≤ (a - plotBase 0) % 0x04000000 ∧ (a - plotBase 0) % 0x04000000 < 0x03910000)

/-- Alignment that a Furrow's addresses need: 64 bytes for a Bed program memory, else 4 (07 R166). -/
def furrowAlign (d : Nat) : Nat :=
  if (!fSkind d && inProgram (fSrc d)) || (!fDkind d && inProgram (fDst d)) then 64 else 4

/-- Whether some run of a Furrow's source or destination has a byte that satisfies a test; the test holds of whole blocks of 4 KiB, or of
places larger than a run (07 R164). -/
def fReaches (d : Nat) (src : Bool) (p : Nat → Bool) : Bool :=
  let at' (r o : Nat) : Nat := if src then fSrcAt d r o else fDstAt d r o
  !(if src then fSkind d else fDkind d) &&
    (List.range (fRuns d)).any fun r => p (at' r (fRun d - 1)) || (List.range ((fRun d + 4095) / 4096)).any fun k => p (at' r (4096 * k))

/-- A Furrow with a reserved field, or a reserved encoding of NDIM_M1 or TILE_LVL (00 R12; 07 R163, R166). -/
def furrowReserved (d : Nat) : Bool := decide (fieldOf d 126 2 ≠ 0 ∨ fieldOf d 176 16 ≠ 0 ∨ 4 < fNdim d ∨ 4 < fTileLvl d)

/-- Whether a Furrow of Irrigator `irg` gives it a place that it does not reach: a store that is not its Plot's (07 R162). -/
def State.storeRefused (s : State) (c irg d : Nat) : Bool :=
  let far (a : Nat) : Bool := !(s.place c a 1).reachedBy irg
  fReaches d true far || fReaches d false far

/-- Whether a real-time Furrow names a host window that its function translates (07 R166, R178). -/
def State.translatedRefused (s : State) (c d : Nat) : Bool :=
  let tr (a : Nat) : Bool := decide (dramEnd ≤ a) && (match hostXlat s.gate.act (s.fnOf c) a 1 with | some w => w.2 | none => false)
  fRt d && (fReaches d true tr || fReaches d false tr)

/-- A Furrow that R162 or R166 refuses, on its Irrigator. -/
def State.furrowRefused (s : State) (c irg d : Nat) : Bool :=
  let al := furrowAlign d
  let bad (x : Nat) : Bool := decide (x % al ≠ 0)
  (fSkind d && fDkind d) || bad (fRun d) || (!fSkind d && bad (fSrc d)) || (!fDkind d && bad (fDst d)) ||
    (List.range 4).any (fun k => bad (unsignedOf 32 (fSs d (k + 1))) || bad (unsignedOf 32 (fDs d (k + 1)))) ||
    decide (2 ^ 32 ≤ fTiles d) || decide (staging irg < (fCap d + fAhead d) * fTileBytes d) || furrowReserved d ||
    s.storeRefused c irg d || s.translatedRefused c d

/-- Whether a task table entry breaks code 0x0E: a Plot outside PLOTS, BOUND 0, or an entry outside the Plan. -/
def planTaskBad (b : List (BitVec 8)) : Bool :=
  (planIdx b).any fun i =>
    let e := planTask b i
    decide (fieldOf e 0 3 < 4 ∧ fieldOf e 3 3 ∉ planPlots b) || decide (fieldOf e 32 32 = 0) ||
      decide (b.length < planHdr b 128 32 + 16 * i + 16) ||
      (match (planSeq b i).getLast? with
       | some x => decide (fieldOf x.2 0 4 ≠ 0 ∨ b.length < x.1 + 16)
       | none => true)

/-- Whether LEAVES breaks R327. -/
def planLeavesBad (b : List (BitVec 8)) : Bool := decide (planHdr b 56 4 = 0 ∨ planHdr b 56 4 % (planHdr b 60 3 + 1) ≠ 0)

/-- The lowest code of R276 that a Plan breaks, 0 none. Codes 0x08 and 0x0D, and what of 0x09 the formats do not show, are free (log 47). -/
def State.libraryCode (s : State) (c i index : Nat) (b : List (BitVec 8)) (inRegion : Bool) : Nat :=
  let passes := (planOps b [0]).map fun x => x.2 % 2 ^ 128
  let chains := (planOps b [1]).map (·.2)
  let furrows := planOps b [3, 4]
  let irgOf (t : Nat) : Nat := if planEngine b t = 4 then 8 else fieldOf (planTask b t) 3 3
  let checks : List (Nat × Bool) :=
    [(0x01, decide (planHdr b 0 4 ≠ 1 ∧ planHdr b 0 4 ≠ 2)),
     (0x02, decide (planHdr b 0 4 = 2) && !s.locked c),
     (0x03, planReserved index b || passes.any passReserved || chains.any chainReserved || furrows.any (fun x => furrowReserved x.2) ||
        chains.any outZpBad),
     (0x04, !inRegion || !planHashOk b),
     (0x05, passes.any passPairBad || passes.any passZero),
     (0x06, passes.any passRefused),
     (0x07, chains.any chainRefused),
     (0x08, Config.planRefused 8 b),
     (0x09, planPptLong b (if s.ghShared c then 256 else 2048) || Config.planRefused 9 b),
     (0x0A, planChkptLong b),
     (0x0B, furrows.any fun x => s.furrowRefused c (irgOf x.1) x.2),
     (0x0C, furrows.any fun x => s.portRefused c x.2),
     (0x0D, Config.planRefused 13 b),
     (0x0E, planTaskBad b),
     (0x0F, decide (254 < i)),
     (0x10, planLeavesBad b)]
  ((checks.find? fun x => x.2).map Prod.fst).getD 0

/-! ### Commands (R275, R303) -/

/-- A library command ends with a code (R303). -/
def State.libDone (s : State) (c i code : Nat) : State :=
  ({ s with rms := { s.rms with libCode := code, libCtx := c, libIndex := i } }).raise pgRms 12 (some (s.partOf c))

/-- A change of entries 128 to 254 clears PASS of the context (12 R315). -/
def State.libTouch (s : State) (c i : Nat) : State :=
  if 128 ≤ i then s.modCtx c fun x => { x with pass := false } else s

/-- The Plan of an index entry as the Ringmaster reads it from DRAM, none where the read fails or lies beyond usable DRAM, which is
taken as the library region's end (log 62). -/
def State.readPlan (s : State) (c i : Nat) : Nat × Option (List (BitVec 8)) × State :=
  let r := s.dramRead none (s.libBase c + 16 * i) 16
  let index := leNat (r.1.getD [])
  let a := s.libBase c + 64 * fieldOf index 0 32
  let h := r.2.dramRead none a 64
  let n := planBytes (h.1.getD [])
  if a + n ≤ dramBase + s.usable * 65536 ∧ h.1.isSome ∧ r.1.isSome ∧ 64 ≤ n then
    let p := h.2.dramRead none a n
    (index, p.1, p.2)
  else (index, none, h.2)

/-- LIBRARY_ADD (R275, R276): RMS_LIB_CMD OP 1. -/
def execLibraryAdd (v : View) (c : Ctx) (i : Fin 256) (s : State) : Host.Outcome State Fault Refusal :=
  .next (s.liveApply fun s =>
    s.commanded v pgRms (viewSees s.gate.act v (s.partOf c.val)) fun s =>
      let part := some (s.partOf c.val)
      let r := s.readPlan c.val i.val
      let b := r.2.1.getD (((s.dramRead none (s.libBase c.val + 64 * fieldOf r.1 0 32) 64).1).getD [])
      let code := s.libraryCode c.val i.val r.1 b r.2.1.isSome
      let s1 := r.2.2.libTouch c.val i.val
      if code = 0 then
        (s1.modCtx c.val fun x => { x with lib := SMap.insert x.lib i.val { index := r.1, plan := b } }).libDone c.val i.val 0
      else
        (((((s1.modCtx c.val fun x => { x with lib := SMap.erase x.lib i.val }).record pgRms 32 [c.val, 0x14]).faultRecord c.val
          0x14).bump pgRms 0x70 part).raise pgRms 10 part).libDone c.val i.val code)

/-- LIBRARY_REMOVE (R303): RMS_LIB_CMD OP 2. -/
def execLibraryRemove (v : View) (c : Ctx) (i : Fin 256) (s : State) : Host.Outcome State Fault Refusal :=
  .next (s.liveApply fun s =>
    s.commanded v pgRms (viewSees s.gate.act v (s.partOf c.val)) fun s =>
      ((s.modCtx c.val fun x => { x with lib := SMap.erase x.lib i.val }).libTouch c.val i.val).libDone c.val i.val 0)

end Sys2Proof.Machine
end

