-- ==== Sys2Proof/Machine/Steps.lean ====
section
/-!
DEFINITION. The end of a step (17 R428, R429), with what Greenhouse (12 R314, R315) and provenance (13 R329 to R338) add to it:
tags, capture, replay, weight-set hashes, lockstep.
-/

namespace Sys2Proof.Machine

open Sys2Proof

/-! ### The provenance tag (13 R332 to R334) -/

/-- Bytes of a 128-bit number, the most significant first. -/
def beBytes (n x : Nat) : List (BitVec 8) := (natLe n x).reverse

/-- WSET_HASH: over the hashes of the context's registered weight sets of the selected half, in ascending entry order. -/
def State.wsetHashOf (s : State) (c : Nat) : List (BitVec 8) :=
  Config.sha256 ((List.range 8).flatMap fun k =>
    if s.flag pgRms (0x6A0 + 8 * k) 31 ∧ s.cfg pgRms (0x6A0 + 8 * k) 24 6 = c ∧ s.cfg pgRms (0x6A0 + 8 * k) 30 1 = bit (s.libSel c) then
      beBytes 32 (SMap.get zeroUnlisted s.rms.wsetHash k)
    else [])

/-- CFG_HASH: over the active SIV_NUM_CFG and SIV_SCALE_DEF of each Plot of the Plan. -/
def State.cfgHashOf (s : State) (b : List (BitVec 8)) : List (BitVec 8) :=
  Config.sha256 ((planPlots b).flatMap fun n =>
    natLe 4 (actW s.gate.act (regAddr (pgSiv n) 0x100)).toNat ++
      (List.range 256).flatMap fun k => natLe 4 (actW s.gate.act (regAddr (pgSiv n) (0x400 + 4 * k))).toNat)

/-- The work list as written at WL_ROW: key 0 of the input hash. -/
def StepSt.workBytes (y : StepSt) : List (BitVec 8) := (y.grants.filter (·.admitted)).flatMap fun g => natLe 32 g.item

/-- The input sources of a step in ascending key order, the work list first. -/
def StepSt.sources (y : StepSt) (inputs : List (Nat × List (BitVec 8))) : List (Nat × List (BitVec 8)) :=
  (0, y.workBytes) :: inputs.foldl (fun m e => SMap.insert m e.1 e.2) []

/-- INPUT_HASH (R333). -/
def inputHash (l : List (Nat × List (BitVec 8))) : List (BitVec 8) :=
  Config.sha256 (l.flatMap fun e => beBytes 2 e.1 ++ Config.sha256 e.2)

/-- SEED of a step (R332): of the training descriptor, or of the work descriptor. -/
def State.seedOf (s : State) (c : Nat) (y : StepSt) : Nat :=
  if s.isGh c then fieldOf (leNat (y.body.take 64)) 64 64
  else match y.header with
    | some h => fieldOf h 96 64
    | none => 0

/-- The provenance tag of a step (R332). -/
def State.tagOf (s : State) (c : Nat) (y : StepSt) (l : List (Nat × List (BitVec 8))) : Nat :=
  hashNum (Config.sha256 (beBytes 2 1 ++ y.plan.take 48 ++ beBytes 16 (planHash y.plan) ++ s.wsetHashOf c ++ s.cfgHashOf y.plan ++
    inputHash l ++ beBytes 8 (s.seedOf c y)))

/-! ### Capture (13 R336) -/

/-- Bytes padded to a multiple. -/
def padTo (m : Nat) (l : List (BitVec 8)) : List (BitVec 8) := l ++ List.replicate ((m - l.length % m) % m) 0

/-- The AST of a step: 64 rows per grid of the selected entry. -/
def State.astBytes (s : State) (c : Nat) (y : StepSt) : List (BitVec 8) :=
  match s.astHome c y, SMap.find? (s.ctx c).lib y.lib with
  | some (n, e), some l =>
    let k := (gridsOf l.index).length
    let row := planAstRow y.plan + 64 * y.parity * k
    (List.range (64 * k)).flatMap fun r =>
      (List.range 64).map fun j => Mem.read s.mem (rowAddr n .a (absRow s.gate.act n e (row + r)) + j)
  | _, _ => []

/-- Bits as bytes, the first in bit 0. -/
def bitBytes (l : List Bool) : List (BitVec 8) :=
  (List.range ((l.length + 7) / 8)).map fun k =>
    BitVec.ofNat 8 ((List.range 8).map fun j => bit (l.getD (8 * k + j) false) * 2 ^ j).sum

/-- A step record of the capture region. -/
def State.captureRecord (s : State) (c : Nat) (y : StepSt) (l : List (Nat × List (BitVec 8))) (valid : List Bool) :
    List (BitVec 8) :=
  let entries := l.flatMap fun e => natLe 8 (e.1 + 2 ^ 16 * e.2.length) ++ padTo 8 e.2
  let merge := padTo 64 (s.astBytes c y ++ bitBytes valid)
  let body := padTo 64 entries ++ merge
  let len := 1 + body.length / 64
  natLe 64 (y.tag + 2 ^ 128 * y.n + 2 ^ 160 * len + 2 ^ 192 * y.flags) ++ body

/-- Capture ends. -/
def State.captureEnd (s : State) : State :=
  (({ s with rms := { s.rms with capLeft := 0 } }).raise pgRms 19 (some (s.partOf (s.cfg pgRms 0x6E0 24 6)))).debugEnd 4
    (s.cfg pgRms 0x6E0 24 6)

/-- Capture of a step, where one is in progress for its context: a record that would overrun the region is not written, and
capture ends there. -/
def State.captureStep (s : State) (c n : Nat) (l : List (Nat × List (BitVec 8))) (valid : List Bool) : State :=
  match s.step? c n with
  | none => s
  | some y0 =>
    if s.rms.capLeft = 0 ∨ s.cfg pgRms 0x6E0 24 6 ≠ c then s
    else
      let y := { y0 with flags := Nat.lor y0.flags 32 }
      let r := s.captureRecord c y l valid
      if s.cfg pgRms 0x6E4 0 24 * 4096 < s.rms.capOfs + r.length then s.captureEnd
      else
        let s1 := (s.dramWrite none (dramBase + s.cfg pgRms 0x6E0 0 24 * 4096 + s.rms.capOfs) r).modStep c n fun _ => y
        let s2 := { s1 with rms := { s1.rms with
          capLeft := s.rms.capLeft - 1, captured := s.rms.captured + 1, capOfs := s.rms.capOfs + r.length } }
        if s.rms.capLeft = 1 then s2.captureEnd else s2

/-! ### The end of a step (17 R428, R429) -/

/-- The ALLOC record of one item of a completed step. -/
def State.completeGrant (s : State) (c n k status : Nat) (allocs : List AllocDone) : State :=
  match s.step? c n with
  | none => s
  | some y =>
    match y.grants[k]? with
    | none => s
    | some g0 =>
      if g0.harvested then s
      else if g0.admitted = false then s.harvestGrant c n k (s.allocRecord c y g0 g0.status)
      else
        let a := allocs.find? fun (x : AllocDone) => decide (x.item = k)
        let ast := s.astByte c y (fieldOf g0.item 12 5) (fieldOf g0.item 0 12)
        let flags := Nat.lor g0.numflags ((a.map (·.numflags)).getD 0)
        let g := { g0 with ast := ast, numflags := flags }
        let r := s.allocRecord c y g status + ((a.map (s.allocBits c)).getD 0)
        (s.modStep c n fun z =>
          { z with numflags := Nat.lor z.numflags flags, nFb := z.nFb + bit (decide (ast % 16 ≠ 0)) }).harvestGrant c n k r

/-- GEN after a training step's record (12 R314): it advances only where the record shows neither SAT nor NONFIN; a discard is
counted. -/
def State.advanceGen (s : State) (c : Nat) (discard : Bool) : State :=
  let part := some (s.partOf c)
  let s1 := s.bump pgRms 0x90 part
  if discard then s1.bump pgRms 0x98 part else s1.modCtx c fun x => { x with gen := (x.gen + 1) % 2 ^ 32 }

/-- Whether a step is a TRAIN step of a Greenhouse context. -/
def State.trains (s : State) (c : Nat) (y : StepSt) : Bool := s.isGh c && decide (fieldOf (leNat (y.body.take 64)) 0 2 = 0)

/-- A replay compares its tag with the captured one (13 R338). -/
def State.checkReplay (s : State) (c n tag : Nat) : State :=
  match s.step? c n with
  | none => s
  | some y =>
    match y.capture with
    | none => s
    | some a =>
      if Mem.readLe s.mem a 16 = tag then s
      else (s.modStep c n fun z => { z with flags := Nat.lor z.flags 128 }).raise pgRms 18 (some (s.partOf c))

/-- The context of an ended step: RUNNING while another step is in flight, else IDLE; DEFERRED contexts are tried again
(11 R271). -/
def State.stepEnded (s : State) (c n : Nat) : State :=
  let s1 := (s.modStep c n fun y => { y with ended := true }).debugEnd 5 c
  let s2 := s1.modCtx c fun x =>
    { x with
      lockMark := none, lockEdge := 0
      st := if x.preempting then x.st else if x.steps.any (·.flying) then x.st else if x.slot.isSome then .idle else x.st }
  s2.restagePace.retryDeferred

/-- STEP_COMPLETE (17 R429): every task has reached END. `inputs` are the bytes that each input source delivered, by key; `allocs` what
the Plan's harvest entries and the Thresher supply; `valid` the VALID bits of the bundles in merge order. -/
def execStepComplete (c : Ctx) (n : Nat) (inputs : List (Nat × List (BitVec 8))) (allocs : List AllocDone) (valid : List Bool)
    (t : Nat) (s : State) : Host.Outcome State Fault Refusal :=
  .next (s.liveApply fun s0 =>
    let s := s0.advance t
    let k := c.val
    match s.step? k n with
    | none => s
    | some y =>
      if y.flying ∧ (s.ctx k).live ∧ (y.tasks.all fun z => z.done) = true then
        let part := some (s.partOf k)
        let flags0 := (allocs.map (·.numflags)).foldl Nat.lor y.numflags
        let discard := s.trains k y && decide (Nat.land flags0 (flSat + flNonfin) ≠ 0)
        let s1 := (List.range y.grants.length).foldl (fun t j => t.completeGrant k n j 0 allocs) s
        let l := y.sources inputs
        let tag := s1.tagOf k y l
        let s2 := (s1.checkReplay k n tag).modStep k n fun z =>
          { z with tag := tag, flags := Nat.lor z.flags (bit (s.tagged k)) }
        let s3 := if s.tagged k then s2.bump pgRms 0xB8 part else s2
        let s4 := s3.captureStep k n l valid
        let s5 := if fieldOf y.flags 2 1 = 1 then s4.bump pgRms 0xD0 part else s4
        let s6 := match s5.step? k n with
          | none => s5
          | some z => s5.pushHarvest k (s5.stepRecord k z (if discard then 6 else 0))
        let s7 := if s.trains k y then s6.advanceGen k discard else if s.isGh k then s6.bump pgRms 0x90 part else s6
        s7.stepEnded k n
      else s)

/-! ### Evaluation (12 R315) -/

/-- 1 − MARGIN_PM / 1,000 as an FP32 word, rounded once. -/
def marginWord (pm : Nat) : Nat :=
  let n := 1000 - pm
  match (List.range 12).find? fun k => decide (2 ^ 23 * 1000 ≤ n * 2 ^ (23 + k)) with
  | none => 0
  | some k => (fpOut (.fin (rneDiv (n * 2 ^ (23 + k) : Nat) 1000) (-(23 + k : Nat))) false).1

/-- EVAL_RECORD (R315): an EVAL step's record arrives; the latest is kept for its TARGET, and PASS set or cleared. -/
def execEvalRecord (c : Ctx) (n : Nat) (serve cand : Word) (scored flags : Nat) (t : Nat) (s : State) :
    Host.Outcome State Fault Refusal :=
  .next (s.liveApply fun s0 =>
    let s := s0.advance t
    match s.step? c.val n with
    | none => s
    | some y =>
      let h := leNat (y.body.take 64)
      if s.isGh c.val ∧ y.flying ∧ fieldOf h 0 2 = 1 then
        let limit := (fpMul serve.toNat (marginWord (s.cfg pgRms 0x600 22 10))).1
        let ok := decide (s.cfg pgRms 0x600 10 12 ≤ scored ∧ Nat.land flags (flSat + flNonfin) = 0) &&
          numLe (fpNum cand.toNat) (fpNum limit)
        (s.modCtx (fieldOf h 2 6) fun x =>
          { x with pass := ok, evalN := scored, evalCand := fieldOf h 160 16, evalFlags := flags, evalServe := serve
                   evalMetric := cand }).raise pgRms 15 (some (s.partOf c.val))
      else s)

/-! ### Weight sets (13 R334) -/

/-- The partition of a weight-set entry. -/
def State.wsetPart (s : State) (k : Nat) : Nat := s.partOf (s.cfg pgRms (0x6A0 + 8 * k) 24 6)

/-- WSET_HASH (R334): RMS_WSET_CMD OP 1; ignored while hashing is in progress. -/
def execWsetHash (v : View) (k : Fin 8) (s : State) : Host.Outcome State Fault Refusal :=
  .next (s.live fun s =>
    s.commanded v pgRms (viewSees s.gate.act v (s.wsetPart k.val)) fun s =>
      let s1 := { s with rms := { s.rms with wsetQ := SMap.put zeroUnlisted s.rms.wsetQ v.no k.val } }
      if s.rms.wsetBusy.isSome then s1 else { s1 with rms := { s1.rms with wsetBusy := some k.val } })

/-- WSET_REPORT (R334): RMS_WSET_CMD OP 2. -/
def execWsetReport (v : View) (k : Fin 8) (s : State) : Host.Outcome State Fault Refusal :=
  .next (s.live fun s =>
    s.commanded v pgRms (viewSees s.gate.act v (s.wsetPart k.val)) fun s =>
      { s with rms := { s.rms with wsetQ := SMap.put zeroUnlisted s.rms.wsetQ v.no k.val } })

/-- WSET_DONE (R334): hashing ends; a region that could not be read leaves HASH_OK as it was. -/
def execWsetDone (s : State) : Host.Outcome State Fault Refusal :=
  .next (s.live fun s =>
    match s.rms.wsetBusy with
    | none => s
    | some k =>
      let r := s.dramRead none (dramBase + s.cfg pgRms (0x6A0 + 8 * k) 0 24 * 4096) (s.cfg pgRms (0x6A4 + 8 * k) 0 24 * 4096)
      let s1 := match r.1 with
        | some d => { r.2 with rms := { r.2.rms with
            wsetOk := SMap.put flagUnlisted r.2.rms.wsetOk k true
            wsetHash := SMap.put zeroUnlisted r.2.rms.wsetHash k (leNat (Config.sha256 d).reverse) } }
        | none => r.2
      ({ s1 with rms := { s1.rms with wsetBusy := none } }).raise pgRms 16 (some (s.wsetPart k)))

/-! ### Capture commands (13 R336, R339) -/

/-- CAPTURE_START (R336): ignored while a capture is in progress. -/
def execCaptureStart (v : View) (steps : Nat) (s : State) : Host.Outcome State Fault Refusal :=
  .next (s.live fun s =>
    s.commanded v pgRms (viewSees s.gate.act v (s.partOf (s.cfg pgRms 0x6E0 24 6))) fun s =>
      let c := s.cfg pgRms 0x6E0 24 6
      if s.rms.capLeft = 0 then
        if steps = 0 then s
        else ({ s with rms := { s.rms with capLeft := steps, captured := 0, capOfs := 0 } }).debugBegin 4 (2 ^ s.partOf c) c
      else s)

/-- CAPTURE_STOP (R336). -/
def execCaptureStop (v : View) (s : State) : Host.Outcome State Fault Refusal :=
  .next (s.live fun s =>
    s.commanded v pgRms (viewSees s.gate.act v (s.partOf (s.cfg pgRms 0x6E0 24 6))) fun s =>
      if s.rms.capLeft = 0 then s else s.captureEnd)

/-! ### Lockstep (13 R329 to R331) -/

/-- LOCKSTEP_MARK (R330): once the crossing FIFOs have drained, the mark is the second whole microsecond of the free-running
reference that follows. -/
def execLockstepMark (c : Ctx) (t : Nat) (s : State) : Host.Outcome State Fault Refusal :=
  .next (s.live fun s0 =>
    let s := s0.advance t
    if s.locked c.val ∧ (s.ctx c.val).lockMark = none ∧ (s.flyingStep c.val).isSome then
      s.modCtx c.val fun x => { x with lockMark := some ((s.sdl.ref / usRef + 2) * usRef), lockEdge := 0 }
    else s)

/-- LOCKSTEP_EDGE (R330, R331): each Plot completes one step; `slipped` Plots cannot, and complete it when they can. -/
def execLockstepEdge (c : Ctx) (slipped : List Plot) (t : Nat) (s : State) : Host.Outcome State Fault Refusal :=
  .next (s.live fun s0 =>
    let s := s0.advance t
    match (s.ctx c.val).lockMark, s.flyingStep c.val with
    | some m, some y =>
      if s.locked c.val ∧ m ≤ s.sdl.ref then
        let part := some (s.partOf c.val)
        let l := slipped.filter fun p => decide (p.val ∈ planPlots y.plan)
        let s1 := s.modCtx c.val fun x => { x with lockEdge := x.lockEdge + 1 }
        if l = [] then s1
        else
          ((s1.bumpBy pgRms 0xC0 part l.length).raise pgRms 17 part).modStep c.val y.n fun z => { z with flags := Nat.lor z.flags 8 }
      else s
    | _, _ => s)

end Sys2Proof.Machine
end

