-- ==== Sys2Proof/Machine/Thresher.lean ====
section
/-!
DEFINITION. The Thresher (10 R253 to R264): jobs, weight sets, and the end of each item. Decoders and encoders themselves follow
TS 38.212 and are free functions of their inputs (log 65).
-/

namespace Sys2Proof.Machine

open Sys2Proof

/-! ### Headers (R254) -/

/-- KIND. -/
def hKind (h : Nat) : Nat := fieldOf h 0 2
/-- MAX_IT_M1 + 1. -/
def hMaxIt (h : Nat) : Nat := fieldOf h 6 5 + 1
/-- ZC. -/
def hZc (h : Nat) : Nat := fieldOf h 12 9
/-- Code blocks of a job: a polar job has a single entry. -/
def hBlocks (h : Nat) : Nat := if hKind h % 2 = 1 then 1 else fieldOf h 21 8 + 1
/-- A. -/
def hA (h : Nat) : Nat := fieldOf h 64 21
/-- K′. -/
def hKprime (h : Nat) : Nat := fieldOf h 85 14
/-- N of a polar job. -/
def hN (h : Nat) : Nat := fieldOf h 156 11

/-- Whether a job is refused: a reserved encoding or reserved field, a polar N that is not a power of two from 32 to 1,024, a
wrong queue, or fields that break TS 38.212. -/
def jobRefused (enc : Bool) (h : Nat) (blocks : List Nat) : Bool :=
  decide (2 ≤ hKind h ↔ enc = false) || decide (fieldOf h 155 1 ≠ 0 ∨ fieldOf h 200 312 ≠ 0) ||
    (decide (hKind h % 2 = 0) && decide (fieldOf h 29 2 = 3)) ||
    (decide (hKind h = 2) && decide (fieldOf h 114 4 ∉ [1, 2, 4, 6, 8])) ||
    (decide (hKind h % 2 = 1) && decide (hN h ∉ [32, 64, 128, 256, 512, 1024] ∨ fieldOf h 178 2 = 3)) ||
    blocks.any (fun b => decide (fieldOf b 15 1 ≠ 0 ∨ fieldOf b 66 62 ≠ 0)) || decide (blocks.length ≠ hBlocks h) ||
    Config.jobBreaks h

/-- LEN of a code-block entry. -/
def bLen (b : Nat) : Nat := fieldOf b 0 15

/-- Bytes of LLRs of an LDPC or polar decode entry in the payload, padded to 64. -/
def bBytes (b : Nat) : Nat := (bLen b + 63) / 64 * 64

/-- LLRs of block `k` of a decode job. -/
def ThrJob.llrs (j : ThrJob) (k : Nat) : List (BitVec 8) :=
  (j.payload.drop (((j.blocks.take k).map bBytes).sum)).take (bLen (j.blocks.getD k 0))

/-- Layers used in an LDPC decode (R255). -/
def ldpcLayers (h b : Nat) : Nat :=
  let mb := if fieldOf h 2 1 = 0 then 46 else 42
  let kb := if fieldOf h 2 1 = 0 then 22 else 10
  let z := max 1 (hZc h)
  max 4 (min mb ((min (bLen b) (fieldOf h 99 15) + 2 * z + z - 1) / z - kb))

/-- Steps of an item (R261). -/
def itemSteps (h b it : Nat) : Nat :=
  if hKind h = 0 then 48 + it * ldpcLayers h b * ((hZc h + 63) / 64 + 3)
  else if hKind h = 1 then hN h + 2 * fieldOf h 167 11 + 64
  else if hKind h = 2 then 112 + (bLen b + 31) / 32
  else hN h / 8 + 32

/-! ### Output (R254, R258, R260) -/

/-- Bits as bytes, the first in bit 7 of byte 0, padded to 64 bytes. -/
def bitsOut (l : List Bool) : List (BitVec 8) :=
  padTo 64 ((List.range ((l.length + 7) / 8)).map fun k =>
    BitVec.ofNat 8 ((List.range 8).map fun j => bit (l.getD (8 * k + j) false) * 2 ^ (7 - j)).sum)

/-- Bits cut or filled to a length. -/
def fitBits (n : Nat) (l : List Bool) : List Bool := l.take n ++ List.replicate (n - l.length) false

/-- Bytes of an encode job's output as its header implies: packed bits, or runs of 256 symbols of each layer. -/
def encBytes (h : Nat) (blocks : List Nat) : Nat :=
  let e := (blocks.map bLen).sum
  let q := fieldOf h 114 4
  let l := fieldOf h 118 2 + 1
  if fieldOf h 120 1 = 0 then ((e + 7) / 8 + 63) / 64 * 64
  else l * ((e / (max 1 q * l) + 255) / 256) * 256 * q

/-- CRC_OK of a decode job: the TB CRC over the concatenated payloads; without one, that no block failed (log 64). -/
def ThrJob.crc (j : ThrJob) : Bool :=
  let k := fieldOf j.header 29 2
  if hKind j.header = 1 then j.crcOk
  else if k = 0 then decide (j.fails = 0)
  else Config.crcHolds (k - 1) (j.bits.take (hA j.header + (if k = 1 then 16 else 24)))

/-- The result record of a decode job (R258). -/
def ThrJob.result (j : ThrJob) : Nat :=
  let h := j.header
  fieldOf h 32 16 + 2 ^ 16 * fieldOf h 48 16 +
    (if j.refused then 2 ^ 68
     else 2 ^ 32 * bit j.crc + 2 ^ 33 * bit (decide (j.fails = 0)) + 2 ^ 34 * min j.fails 255 + 2 ^ 42 * ((j.itMax - 1) % 32)
      + 2 ^ 47 * min j.itSum (2 ^ 17 - 1) + 2 ^ 64 * (j.unit % 8) + 2 ^ 67 * bit j.rerun
      + 2 ^ 80 * (if hKind h = 1 then j.metric % 2 ^ 16 else 0))

/-- What a finished job delivers on its queue's port. -/
def ThrJob.deliver (j : ThrJob) (q : Nat) : Sent :=
  if hKind j.header < 2 then
    Sent.stream (0x440 + q) [j.result, leNat (bitsOut (if j.refused then List.replicate (hA j.header) false
      else fitBits (hA j.header) j.bits))]
  else
    Sent.stream (0x4C0 + q) [leNat (if j.refused then List.replicate (encBytes j.header j.blocks) 0
      else Config.encodeOut j.header j.blocks j.payload)]

/-! ### Queues (R256, R263) -/

/-- A queue of a slot. -/
def State.thrQueue (s : State) (enc : Bool) (q : Nat) : List ThrJob :=
  SMap.get queueUnlisted (if enc then s.thr.enc else s.thr.dec) q

/-- Set a queue. -/
def State.setQueue (s : State) (enc : Bool) (q : Nat) (l : List ThrJob) : State :=
  if enc then { s with thr := { s.thr with enc := SMap.put queueUnlisted s.thr.enc q l } }
  else { s with thr := { s.thr with dec := SMap.put queueUnlisted s.thr.dec q l } }

/-- A weight set of a slot. -/
def State.weightSet (s : State) (q k : Nat) : Nat := SMap.get wsetUnlisted s.thr.wset (4 * q + k)

/-- The head of a queue starts and takes its weight set; refused jobs at the head deliver their zeros. -/
def State.startHead (s : State) (enc : Bool) (q : Nat) : Nat → State
  | 0 => s
  | fuel + 1 =>
    match s.thrQueue enc q with
    | [] => s
    | j :: rest =>
      if j.refused then State.startHead ((s.emit (j.deliver q)).setQueue enc q rest) enc q fuel
      else if j.started then s
      else s.setQueue enc q ({ j with started := true, wset := s.weightSet q (fieldOf j.header 4 2) } :: rest)

/-- THRESHER_JOB (R254): a job has arrived whole on a queue: 0x0400 + q, or 0x0480 + q to encode. -/
def execThresherJob (q : Fin 16) (enc : Bool) (header : Nat) (blocks : List Nat) (payload : List (BitVec 8)) (s : State) :
    Host.Outcome State Fault Refusal :=
  .next (s.live fun s =>
    match s.slotCtx q.val with
    | none => s
    | some c =>
      if (s.ctx c).live then
        let part := some (s.partOf c)
        let no := jobRefused enc header blocks
        let j : ThrJob := { header := header, blocks := blocks, payload := payload, refused := no }
        let s1 := if no then (s.bump pgThr 0x88 part).raise pgThr 10 part else s
        let l := s1.thrQueue enc q.val ++ [j]
        ((s1.setQueue enc q.val l).startHead enc q.val (l.length + 1)).opDone c 5 0 header
      else s)

/-- WEIGHT_SET_LOAD (R256): an ALPHA above 16 faults the context. -/
def execWeightSetLoad (q : Fin 16) (k : Fin 4) (w : Nat) (s : State) : Host.Outcome State Fault Refusal :=
  .next (s.live fun s =>
    match s.slotCtx q.val with
    | none => s
    | some c =>
      if (List.range 128).any fun i => decide (16 < fieldOf w (16 * i) 5) then s.faultCtx c 0x12
      else { s with thr := { s.thr with wset := SMap.put wsetUnlisted s.thr.wset (4 * q.val + k.val) (w % 2 ^ 2048) } })

/-! ### Items (R257 to R264) -/

/-- Whether a unit serves a position (R269). -/
def State.unitServes (s : State) (u : Nat) : Bool :=
  (List.range 4).any fun k => s.flag pgThr 0x100 (12 + k) && decide (s.cfg pgThr 0x100 (3 * k) 3 = u)

/-- Steps that the Thresher spends on a context (11 R290, R263). -/
def State.thrCharge (s : State) (c n : Nat) : State :=
  s.modCtx c fun x => { x with acct := SMap.modify zeroUnlisted x.acct 3 fun a => (a + n) % 2 ^ 64 }

/-- A record of a Thresher unit's fault. -/
def State.thrFault (s : State) (u action c : Nat) : State :=
  s.toFlt { kind := 5, action := action, cls := 5, index := u, ctx := some c }

/-- An item ends on a unit (R264): with a check mismatch it is run again once; `f` takes the job and whether the item failed, and
gives the job after the item. After its last item the job delivers, and the next starts. -/
def State.itemDone (s : State) (enc : Bool) (q u : Nat) (mismatch : Bool) (kinds : List Nat)
    (f : ThrJob → Bool → State → ThrJob × State) : State :=
  match s.slotCtx q, s.thrQueue enc q with
  | some c, j :: rest =>
    if s.unitServes u ∧ j.started ∧ hKind j.header ∈ kinds ∧ (s.ctx c).live then
      let part := some (s.partOf c)
      let s0 := if mismatch then (s.bump pgThr 0x78 part).raise pgThr 8 part else s
      if mismatch ∧ j.again = false then
        ({ s0 with thr := { s0.thr with rerunning := Nat.lor s0.thr.rerunning (2 ^ u) } }.bump pgThr 0x80 part).setQueue enc q
          ({ j with again := true, rerun := true } :: rest)
      else
        let s1 := if j.again then
            let t := { s0 with thr := { s0.thr with rerunning := 0 } }
            if mismatch then (t.raise pgThr 9 part).thrFault u 2 c else t.thrFault u 1 c
          else s0
        let r := f { j with again := false, unit := u } mismatch (s1.use 5 0 u 1)
        let j2 := { r.1 with next := r.1.next + 1 }
        if j2.next < hBlocks j.header then r.2.setQueue enc q (j2 :: rest)
        else ((r.2.emit (j2.deliver q)).setQueue enc q rest).startHead enc q (rest.length + 1)
    else s
  | _, _ => s

/-- One decoded code block of a decode job: its bits, its counts and its steps (R255 to R257). -/
def State.codeBlock (s : State) (q : Nat) (j : ThrJob) (failed : Bool) : ThrJob × State :=
  let h := j.header
  let b := j.blocks.getD j.next 0
  let part := (s.slotCtx q).map s.partOf
  let r := Config.ldpcDecode h j.wset b (j.llrs j.next)
  let et := decide (fieldOf h 3 1 = 1)
  let it := if et then max 1 (min r.2.1 (hMaxIt h)) else hMaxIt h
  let bits := fitBits (hKprime h) r.1
  let cb := decide (fieldOf h 31 1 = 1)
  let bad := failed || !r.2.2 || (cb && !Config.crcHolds 2 bits)
  let s1 := (s.bump pgThr 0x40 part).bumpBy pgThr 0x50 part it
  let s2 := if bad then s1.bump pgThr 0x48 part else s1
  let s3 := if et ∧ it < hMaxIt h then s2.bump pgThr 0x58 part else s2
  ({ j with
      fails := j.fails + bit bad, itMax := max j.itMax it, itSum := j.itSum + it
      bits := j.bits ++ (if cb then bits.take (hKprime h - 24) else bits) },
    match s.slotCtx q with
    | some c => s3.thrCharge c (itemSteps h b it)
    | none => s3)

/-- CODE_BLOCK_DONE (R255, R257): the next code block of the head decode job stops decoding on unit `u`; `mismatch` says that a
check of the unit failed. -/
def execCodeBlockDone (q : Fin 16) (u : Fin 5) (mismatch : Bool) (s : State) : Host.Outcome State Fault Refusal :=
  .next (s.live fun s =>
    s.itemDone false q.val u.val mismatch [0] fun j failed s => s.codeBlock q.val j failed)

/-- A polar code word decoded: its bits, its check and its steps (R259). -/
def State.polarBlock (s : State) (q : Nat) (j : ThrJob) (failed : Bool) : ThrJob × State :=
  let part := (s.slotCtx q).map s.partOf
  let r := Config.polarDecode j.header (j.llrs 0)
  let ok := r.2.1 && !failed
  let s1 := s.bump pgThr 0x60 part
  let s2 := if ok then s1 else s1.bump pgThr 0x68 part
  ({ j with bits := r.1, crcOk := ok, metric := r.2.2, fails := bit (!ok) },
    match s.slotCtx q with
    | some c => s2.thrCharge c (itemSteps j.header 0 0)
    | none => s2)

/-- POLAR_DECODE_DONE (R259). -/
def execPolarDecodeDone (q : Fin 16) (u : Fin 5) (mismatch : Bool) (s : State) : Host.Outcome State Fault Refusal :=
  .next (s.live fun s =>
    s.itemDone false q.val u.val mismatch [1] fun j failed s => s.polarBlock q.val j failed)

/-- One code block of an encode job: its counts and its steps (R259, R260). -/
def State.encodeBlock (s : State) (q : Nat) (j : ThrJob) (failed : Bool) : ThrJob × State :=
  let part := (s.slotCtx q).map s.partOf
  let s1 := if hKind j.header = 2 then s.bump pgThr 0x70 part else s
  ({ j with fails := j.fails + bit failed },
    match s.slotCtx q with
    | some c => s1.thrCharge c (itemSteps j.header (j.blocks.getD j.next 0) 0)
    | none => s1)

/-- ENCODE_DONE (R259, R260): the next code block of the head encode job. -/
def execEncodeDone (q : Fin 16) (u : Fin 5) (mismatch : Bool) (s : State) : Host.Outcome State Fault Refusal :=
  .next (s.live fun s =>
    s.itemDone true q.val u.val mismatch [2, 3] fun j failed s => s.encodeBlock q.val j failed)

end Sys2Proof.Machine
end

