-- ==== Sys2Proof/Machine/TrnOps.lean ====
section
/-!
DEFINITION. The Turnstile's shared operations (09): radio units, flows, windows, layouts, decoding and rotation, tiles, egress.
-/

namespace Sys2Proof.Machine

open Sys2Proof

/-! ### Configuration (R239 to R241) -/

/-- A field of TRN_RU[r]. -/
def State.ruCfg (s : State) (r off lo w : Nat) : Nat := s.cfg ⟨.trnRu, 0⟩ (0x100 + 0x20 * r + off) lo w
/-- A field of TRN_GRID[g]. -/
def State.gridCfg (s : State) (g off lo w : Nat) : Nat := s.cfg ⟨.trnGrid, 0⟩ (0x100 + 0x20 * g + off) lo w
/-- A field of TRN_FLOW of flow `f`, 0 to 1,023. -/
def State.flowCfg (s : State) (f off lo w : Nat) : Nat := s.cfg ⟨.trnFlow, f / 128⟩ (0x100 + 8 * (f % 128) + off) lo w

/-- Whether a radio unit is enabled. -/
def State.ruEn (s : State) (r : Nat) : Bool := decide (s.ruCfg r 0 0 1 = 1)
/-- Its port. -/
def State.ruPort (s : State) (r : Nat) : Nat := s.ruCfg r 0 1 4
/-- Its partition, for counters and events. -/
def State.ruOwner (s : State) (r : Nat) : Option Nat := some (ruPart s.gate.act r)
/-- The partition of a grid. -/
def State.gridPart (s : State) (g : Nat) : Option Nat := some (s.gridCfg g 0 21 3)

/-- What the Turnstile keeps of a radio unit. -/
def State.ruSt (s : State) (r : Nat) : RuSt := SMap.get ruUnlisted s.trn.ru r
/-- Change it. -/
def State.modRu (s : State) (r : Nat) (f : RuSt → RuSt) : State :=
  { s with trn := { s.trn with ru := SMap.modify ruUnlisted s.trn.ru r f } }
/-- What the Turnstile keeps of a flow. -/
def State.flowSt (s : State) (f : Nat) : FlowSt := SMap.get flowUnlisted s.trn.flow f
/-- Change it. -/
def State.modFlow (s : State) (f : Nat) (g : FlowSt → FlowSt) : State :=
  { s with trn := { s.trn with flow := SMap.modify flowUnlisted s.trn.flow f g } }

/-- Count `n` events of a radio unit: the page's counter, and word `k` (4 to 13) of TRN_RU_RD (R239, R240). -/
def State.ruBump (s : State) (r off k n : Nat) : State :=
  (s.bumpBy pgTrn off (s.ruOwner r) n).modRu r fun x =>
    { x with cnt := x.cnt.set (k - 4) (min (2 ^ 32 - 1) (x.cnt.getD (k - 4) 0 + n)) }

/-- The enabled flow of a radio unit with an eAxC, of either direction (R221). -/
def State.flowOf? (s : State) (r eaxc : Nat) (down : Bool) : Option Nat :=
  (List.range 1024).find? fun f =>
    decide (s.flowCfg f 0 0 1 = 1 ∧ s.flowCfg f 0 17 6 = r ∧ s.flowCfg f 0 1 16 = eaxc ∧ s.flowCfg f 0 23 1 = bit down)

/-- The enabled flow that feeds or serves a stream of a grid. -/
def State.streamFlow (s : State) (g st : Nat) : Option Nat :=
  (List.range 1024).find? fun f =>
    decide (s.flowCfg f 0 0 1 = 1 ∧ s.flowCfg f 0 23 1 = s.gridCfg g 0 1 1 ∧ s.flowCfg f 4 0 5 = g ∧ s.flowCfg f 4 5 5 = st)

/-- The radio unit of a flow. -/
def State.flowRu (s : State) (f : Nat) : Nat := s.flowCfg f 0 17 6

/-- The compression header of a flow's sections (R217). -/
def State.compHdr (s : State) (f hdr : Nat) : Nat := if s.flowCfg f 4 10 1 = 1 then s.flowCfg f 4 11 8 else hdr

/-- PRBs of a grid, its numerology, its streams. -/
def State.gridPrbs (s : State) (g : Nat) : Nat := s.gridCfg g 0 4 9
/-- MU. -/
def State.gridMu (s : State) (g : Nat) : Nat := s.gridCfg g 0 2 2

/-- First PRB of a chunk (R226). -/
def State.prb0 (s : State) (g c : Nat) : Nat :=
  if c = 0 then 0 else s.gridCfg g (8 + 4 * ((c - 1) / 3)) (9 * ((c - 1) % 3)) 9

/-- Chunk that holds a PRB. -/
def State.chunkOf (s : State) (g prb : Nat) : Nat :=
  ((List.range (s.gridCfg g 0 18 3 + 1)).filter fun c => decide (s.prb0 g c ≤ prb)).foldl max 0

/-! ### Time (R219, R223) -/

/-- Nanoseconds in units of grid time. -/
def nsGrid : Int := 2 ^ 16 * 768

/-- A count of 0.1 µs in units of grid time. -/
def tenths (x : Nat) : Int := (x : Int) * 100 * nsGrid

/-- Grid time now. -/
def State.gridNow (s : State) : Int := s.gridTime s.sdl.dev

/-- End of a symbol. -/
def symEnd (mu : Nat) (slot : Int) (l : Nat) : Int := symStart mu slot (l + 1)

/-- Instant relative to the slot's start, for the resolution of names. -/
def symOfs (mu sub slot l : Nat) : Int :=
  let k : Int := sub * 2 ^ mu + slot
  symStart mu k l - k * slotLen mu

/-- WIN_OPEN and WIN_CLOSE of a radio unit, in units of grid time. -/
def State.winOpen (s : State) (r : Nat) : Int := tenths (s.ruCfg r 0x0C 0 12)
/-- WIN_CLOSE. -/
def State.winClose (s : State) (r : Nat) : Int := tenths (s.ruCfg r 0x0C 12 12)

/-! ### Ports and egress (R213, R215, R220) -/

/-- Whether the quads' modes make a port (R213). -/
def portExists (m : SMap Word) (p : Nat) : Bool :=
  match cfg m pgTrn 0x100 (10 + 4 * (p / 4)) 4 with
  | 1 => true
  | 2 => true
  | 3 => decide (p % 2 = 0)
  | 4 => decide (p % 2 = 0)
  | 5 => decide (p % 4 = 0)
  | 6 => decide (p % 4 = 0)
  | 7 => decide (p % 8 = 0)
  | 8 => decide (p % 8 = 0)
  | _ => false

/-- Logical lanes that serve a port. -/
def portLanes (m : SMap Word) (p : Nat) : List Nat :=
  match cfg m pgTrn 0x100 (10 + 4 * (p / 4)) 4 with
  | 1 => [p]
  | 2 => [p]
  | 3 => [p, p + 1]
  | 4 => [p]
  | 5 => [p, p + 1, p + 2, p + 3]
  | 6 => [p, p + 1]
  | 7 => (List.range 8).map fun i => p + i
  | 8 => (List.range 4).map fun i => p + i
  | _ => []

/-- Physical lane of a logical lane (R239). -/
def physLane (m : SMap Word) (l : Nat) : Nat := cfg m pgTrn (0x110 + 4 * (l / 4)) (8 * (l % 4)) 5

/-- Whether a port is in service. -/
def State.portUp (s : State) (p : Nat) : Bool := decide (fieldOf s.trn.portUp p 1 = 1)

/-- A port's PORT_UP bit; a change raises LINK_CHANGE (R239). -/
def State.setPort (s : State) (p : Nat) (up : Bool) : State :=
  if s.portUp p = up then s
  else ({ s with trn := { s.trn with portUp := withField s.trn.portUp p 1 (bit up) } }).raise pgTrn 14
    (some (s.cfg pgTrn (0x200 + 0x10 * p) 0 3))

/-- A frame to a radio unit leaves on its port, under MACsec where that is on, with the next PN; at 2^64 − 2^32 PN_LOW is raised
(R220). A port that is down sends nothing (R215). -/
def State.sendTo (s : State) (r kind : Nat) (words : List Nat) : State :=
  let pn := (s.ruSt r).txPn
  let mac := decide (s.ruCfg r 0 21 1 = 1)
  let s1 := s.emit (Sent.message (s.ruPort r) kind (words ++ (if mac then [s.ruCfg r 0x14 24 2, pn] else [])))
  if mac then
    let s2 := s1.modRu r fun x => { x with txPn := x.txPn + 1 }
    if 2 ^ 64 - 2 ^ 32 ≤ pn + 1 then s2.raise pgTrn 19 (s.ruOwner r) else s2
  else s1

/-! ### Decoding and rotation (R217, R224) -/

/-- Bits of a sample by a compression header. -/
def iqWidth (h : Nat) : Nat := if fieldOf h 4 4 = 0 then 16 else fieldOf h 4 4

/-- Whether a compression header is supported (R217). -/
def compOk (h : Nat) : Bool :=
  match h % 16 with
  | 0 => decide (fieldOf h 4 4 = 0)
  | 1 => true
  | 2 => true
  | 3 => true
  | 4 => decide (1 ≤ fieldOf h 4 4 ∧ fieldOf h 4 4 ≤ 4)
  | _ => false

/-- Wire bytes of a PRB. -/
def prbBytes (h : Nat) : Nat :=
  match h % 16 with
  | 0 => 48
  | 4 => 3 * iqWidth h
  | _ => 1 + 3 * iqWidth h

/-- The parameter of modulation compression of RE `i` of a PRB: its shift flag and scaler. -/
def modParam (mods : List ModComp) (i : Nat) : Nat :=
  match mods.find? fun x => decide (fieldOf x.reMask (11 - i) 1 = 1) with
  | some x => bit x.csf + 2 * x.scaler
  | none => 0

/-- One part of a sample decoded to Q1.15, and whether it saturated; `param` is what extension 4 or 5 says of its RE. -/
def iqValue (h param exp raw : Nat) : Int × Bool :=
  match h % 16 with
  | 0 => (signedOf 16 (raw % 2 ^ 16), false)
  | 1 => satInt 16 (signedOf (iqWidth h) (raw % 2 ^ iqWidth h) * 2 ^ (exp % 16))
  | 4 => satInt 16 (rneDiv (Config.modPoint (iqWidth h) param (raw % 2 ^ iqWidth h)) (2 ^ 32))
  | _ => satInt 16 (Config.iqDecode h exp raw)

/-- The correction in force at a grid time. -/
def ncoAt (l : List Nco) (t : Int) : Nco :=
  match l.find? fun (x : Nco) => decide (x.since ≤ t) with
  | some x => x
  | none => l.getLast?.getD {}

/-- Phase of an NCO at a grid time, exact. -/
def Nco.phaseAt (x : Nco) (t : Int) : Int := x.phase + x.f * (t - x.since)

/-- TA_STATIC of a radio unit plus TA_FB (R224). -/
def State.tauOf (s : State) (r : Nat) (x : Nco) : Int := signedOf 16 (s.ruCfg r 0x18 0 16) + x.ta

/-- θ in units of 2^−32 cycle, by RNE (R224). -/
def theta (mu nPrb k : Nat) (tau phase : Int) : Nat :=
  angle32 (delayTurn mu ((k : Int) - 6 * nPrb) tau - phase)

/-- The twelve Lanes of a PRB, with bit 384 set, and how many parts saturated in decoding (R217, R224). -/
def State.prbLanes (s : State) (L : Layout) (mods : List ModComp) (r prb sym h : Nat) (p : UpPrb) : Nat × Nat :=
  let t := symStart L.mu L.slotK sym
  let x := ncoAt (s.ruSt r).nco t
  let tau := s.tauOf r x
  let same := decide (tau = 0 ∧ x.f = 0)
  let phase := x.phaseAt t
  (List.range 12).foldl
    (fun acc (i : Nat) =>
      let re := iqValue h (modParam mods i) p.exp (p.vals.getD (2 * i) 0)
      let im := iqValue h (modParam mods i) p.exp (p.vals.getD (2 * i + 1) 0)
      let w := if same then (re.1, im.1)
        else rotate (theta L.mu L.nPrb (12 * prb + i) tau phase) re.1 im.1
      (acc.1 + lane16 w.1 w.2 * 2 ^ (32 * i), acc.2 + bit re.2 + bit im.2))
    (2 ^ 384, 0)

/-! ### Layouts (R227 to R229) -/

/-- Lane groups of one stream of an allocation of `n` PRBs. -/
def streamGroups (n : Nat) : Nat := (12 * n + 15) / 16

/-- A section put in its place: by START_PRB, then by SECTION_ID (R227). -/
def insertPend (p : PendSect) : List PendSect → List PendSect
  | [] => [p]
  | q :: qs =>
    if p.startPrb * 4096 + p.sectionId < q.startPrb * 4096 + q.sectionId then p :: q :: qs else q :: insertPend p qs

/-- The sections of a grid and slot in placement order; each is one allocation (R227). -/
def orderPend (l : List PendSect) : List PendSect := l.foldl (fun a p => insertPend p a) []

/-- The sections of one chunk in placement order, from SEG_ID `seg` on, each with its allocation: those beyond the tile's Lane rows or
136 records are not placed (R229). -/
def placeChunk (c streams lrows : Nat) : Nat → Nat → Nat → List PendSect → List (PendSect × Option Alloc)
  | _, _, _, [] => []
  | seg, first, n, p :: ps =>
    let g := streamGroups p.prbs.length * streams
    if first + g ≤ 16 * lrows ∧ n < 136 then
      (p, some { seg := seg, sectionId := p.sectionId, startPrb := p.startPrb, prbs := p.prbs, chunk := c, first := first, syms := p.syms
                 mods := p.mods }) :: placeChunk c streams lrows (seg + 1) (first + g) (n + 1) ps
    else (p :: ps).map fun q => (q, none)

/-- The sections of a grid with their allocations: SEG_IDs run on across its chunks (R228), and a section belongs to the chunk that
holds its first PRB. -/
def State.placeGrid (s : State) (g : Nat) (l : List PendSect) : List Nat → Nat → List (PendSect × Option Alloc)
  | [], _ => []
  | c :: cs, seg =>
    let a := placeChunk c (s.gridCfg g 0 13 5 + 1) (s.gridCfg g 4 0 8) seg 0 0
      (l.filter fun p => decide (s.chunkOf g p.startPrb = c))
    a ++ s.placeGrid g l cs (seg + (a.filterMap (·.2)).length)

/-- Slots of a grid that are kept after their freeze: names resolve to a slot at most half of 256 frames away (R223). -/
def keepSlots (mu : Nat) : Int := 1280 * 2 ^ mu + 8

/-- A layout of a grid's slot. -/
def State.layout? (s : State) (g : Nat) (k : Int) : Option Layout :=
  s.trn.layouts.find? fun (L : Layout) => decide (L.grid = g ∧ L.slotK = k)

/-- A C-plane record leaves for the event hub, with PLACED and SEG_ID; the Ringmaster takes it (R218). -/
def State.postCp (s : State) (p : PendSect) (a : Option Alloc) (late : Bool) : State :=
  let w := withField (withField (withField p.record 62 1 (bit a.isSome)) 63 1 (bit late)) 107 12
    (match a with | some x => x.seg | none => 0xFFF)
  let s1 := s.record pgTrn 34 [w]
  { s1 with rms := { s1.rms with cplane := s1.rms.cplane ++ [
    { grid := p.grid, dir := fieldOf w 27 1, frame := fieldOf w 36 8, subframe := fieldOf w 44 4, slot := fieldOf w 48 6
      sectionId := p.sectionId, startPrb := p.startPrb, numPrb := fieldOf w 86 9, segId := fieldOf w 107 12
      chunk := (match a with | some x => x.chunk | none => 0), placed := a.isSome, ru := p.ru, slotK := p.slotK }] } }

/-! ### Chunk-symbols (R230, R232) -/

/-- Key of a PRB of a stream of an allocation. -/
def prbKey (seg st prb : Nat) : Nat := (seg * 32 + st) * 512 + prb

/-- Whether a position holds written data. -/
def ChunkSym.written (x : ChunkSym) (k : Nat) : Bool := decide (SMap.get zeroUnlisted x.data k ≠ 0)
/-- Whether the section of a position has been rejected or shed before the close. -/
def ChunkSym.filled (x : ChunkSym) (k : Nat) : Bool := decide (SMap.get zeroUnlisted x.rej k ≠ 0)

/-- Whether two name the same chunk-symbol. -/
def ChunkSym.same (x y : ChunkSym) : Bool := decide (x.grid = y.grid ∧ x.chunk = y.chunk ∧ x.slotK = y.slotK ∧ x.sym = y.sym)

/-- A chunk-symbol. -/
def State.chunkSym (s : State) (g c : Nat) (k : Int) (l : Nat) : ChunkSym :=
  (s.trn.syms.find? fun (x : ChunkSym) => x.same { grid := g, chunk := c, slotK := k, sym := l }).getD
    { grid := g, chunk := c, slotK := k, sym := l }

/-- Replace a chunk-symbol. -/
def State.putSym (s : State) (x : ChunkSym) : State :=
  { s with trn := { s.trn with
    syms := if s.trn.syms.any fun (y : ChunkSym) => y.same x then s.trn.syms.map fun (y : ChunkSym) => if y.same x then x else y
      else s.trn.syms ++ [x] } }

/-- Allocations of a chunk that cover a symbol. -/
def Layout.allocsOf (L : Layout) (c l : Nat) : List Alloc := L.allocs.filter fun a => decide (a.chunk = c ∧ l ∈ a.syms)

/-- The sections that a chunk-symbol expects: an allocation and a stream mapped to an enabled flow (R230). -/
def Layout.expected (L : Layout) (c l : Nat) : List (Alloc × Nat × Nat) :=
  (L.allocsOf c l).flatMap fun a =>
    (List.range L.flows.length).filterMap fun st => (L.flows.getD st none).map fun f => (a, st, f)

/-- Whether every PRB of a section has arrived or been rejected. -/
def ChunkSym.sectionDone (x : ChunkSym) (a : Alloc) (st : Nat) : Bool :=
  a.prbs.all fun p => x.written (prbKey a.seg st p) || x.filled (prbKey a.seg st p)

/-- Positions of an expected section that the close erasure-fills, shed ones or not. -/
def ChunkSym.unwritten (x : ChunkSym) (e : Alloc × Nat × Nat) (shed : Bool) : Nat :=
  (e.1.prbs.filter fun p => !x.written (prbKey e.1.seg e.2.1 p) &&
    decide (decide (SMap.get zeroUnlisted x.rej (prbKey e.1.seg e.2.1 p) = 2) = shed)).length

/-- Close a chunk-symbol: what is unwritten is erasure-filled and counted per radio unit, what was shed as shed (R230, R232, R236). -/
def State.closeSym (s : State) (L : Layout) (x : ChunkSym) : State :=
  let s1 := (L.expected x.chunk x.sym).foldl
    (fun t e =>
      let t1 := if x.unwritten e false = 0 then t else t.ruBump (s.flowRu e.2.2) 0x98 9 (x.unwritten e false)
      if x.unwritten e true = 0 then t1 else t1.ruBump (s.flowRu e.2.2) 0xA0 10 (x.unwritten e true)) s
  s1.putSym { x with closedAt := some s.gridNow, bytes := 0, openedAt := some (x.openedAt.getD s.gridNow) }

/-- A chunk-symbol whose every expected section has arrived or been rejected closes (R230). -/
def State.closeIfDone (s : State) (L : Layout) (x : ChunkSym) : State :=
  if x.closedAt = none ∧ x.openedAt.isSome ∧ (L.expected x.chunk x.sym).all fun e => x.sectionDone e.1 e.2.1 then s.closeSym L x
  else s.putSym x

/-- Bytes that wait in the assembly memory (R223). -/
def State.asmBytes (s : State) : Nat := (s.trn.syms.map (·.bytes)).sum

/-- PRBs of a section that was rejected (`kind` 1) or shed (2): they fill no position, and the section counts as dealt with (R230,
R233). -/
def ChunkSym.fill (x : ChunkSym) (kind seg st : Nat) (prbs : List Nat) : ChunkSym :=
  let l := prbs.filter fun p => !x.filled (prbKey seg st p)
  { x with rej := l.foldl (fun m p => SMap.put zeroUnlisted m (prbKey seg st p) kind) x.rej }

/-! ### Tiles (R228, R229, R231) -/

/-- The allocation, stream and group that a Lane group of a chunk's tile belongs to. -/
def Layout.groupAt (L : Layout) (c l p : Nat) : Option (Alloc × Nat × Nat) :=
  ((L.allocsOf c l).find? fun a => decide (a.first ≤ p ∧ p < a.first + streamGroups a.prbs.length * L.flows.length)).map fun a =>
    (a, (p - a.first) / streamGroups a.prbs.length, (p - a.first) % streamGroups a.prbs.length)

/-- RE `j` of a stream of an allocation: its Lane where it was written. -/
def ChunkSym.re (x : ChunkSym) (a : Alloc) (st j : Nat) : Option Nat :=
  match a.prbs[j / 12]? with
  | none => none
  | some prb =>
    if x.written (prbKey a.seg st prb) then
      some (fieldOf (SMap.get zeroUnlisted x.data (prbKey a.seg st prb)) (32 * (j % 12)) 32)
    else none

/-- A Lane group: its 16 Lanes, SEG_START and SEG_ID (R37, R228). -/
structure LaneGroup where
  lanes : List (Option Nat)
  start : Bool
  seg : Nat

/-- A pad group. -/
def padGroup : LaneGroup := { lanes := List.replicate 16 none, start := false, seg := 0xFFF }

/-- A marked Lane row: 16 store rows of complex INT16, and the mark row above them (R36, R37). -/
def unitOf (gs : List LaneGroup) : Nat :=
  let lanes := gs.flatMap (·.lanes)
  laneRow 3 (lanes.map fun x => x.getD 0) % 2 ^ 8192 +
    2 ^ 8192 * (((List.range 256).map fun i => bit (lanes.getD i none).isNone * 2 ^ i).sum +
      ((List.range 16).map fun g =>
        bit (match gs[g]? with | some x => x.start | none => false) * 2 ^ (256 + 13 * g) +
          (match gs[g]? with | some x => x.seg | none => 0xFFF) * 2 ^ (257 + 13 * g)).sum)

/-- Lane row `r` of a tile. -/
def ChunkSym.laneUnit (x : ChunkSym) (L : Layout) (r : Nat) : Nat :=
  unitOf ((List.range 16).map fun g =>
    match L.groupAt x.chunk x.sym (16 * r + g) with
    | none => padGroup
    | some (a, st, q) =>
      { lanes := (List.range 16).map fun i => x.re a st (16 * q + i)
        start := decide (16 * r + g = a.first ∨ g = 0)
        seg := a.seg })

/-- Whether Lane row `r` is complete: each of its groups is written, or erasure-filled by the close (R230). -/
def ChunkSym.rowDone (x : ChunkSym) (L : Layout) (r : Nat) : Bool :=
  x.closedAt.isSome || (List.range 16).all fun g =>
    match L.groupAt x.chunk x.sym (16 * r + g) with
    | none => true
    | some (a, st, q) =>
      (List.range 16).all fun i =>
        match a.prbs[(16 * q + i) / 12]? with
        | none => true
        | some prb => x.written (prbKey a.seg st prb)

/-- The allocation record (R229). -/
def ChunkSym.record (x : ChunkSym) (L : Layout) (a : Alloc) : Nat :=
  let n := L.flows.length
  let pairs := (List.range n).flatMap fun st => a.prbs.map fun p => prbKey a.seg st p
  let got := (pairs.filter fun k => x.written k).length
  a.seg + 2 ^ 12 * a.sectionId + 2 ^ 24 * a.startPrb + 2 ^ 34 * a.prbs.length + 2 ^ 43 * (n - 1)
    + 2 ^ 48 * (a.first / 16) + 2 ^ 56 * (a.first % 16)
    + 2 ^ 60 * bit (pairs.any fun k => !x.written k && decide (SMap.get zeroUnlisted x.rej k = 2))
    + 2 ^ 61 * bit (decide (got < pairs.length)) + 2 ^ 62 * bit (decide (got = 0)) + 2 ^ 63

/-- The trailer: the records of the allocations that cover the symbol, in placement order. -/
def ChunkSym.trailer (x : ChunkSym) (L : Layout) : Nat :=
  packFields 64 ((L.allocsOf x.chunk x.sym).map fun a => (x.record L a : Int))

/-- Elements of a pyramid level for one stream of an allocation (R231). -/
def pyrElems (lvl n : Nat) : Nat := (12 * n + 2 ^ lvl - 1) / 2 ^ lvl

/-- Groups of a pyramid tile: level, allocation, and the tile's group that its first group is; each level begins a Lane row
(log 67). -/
def pyrGroups (streams : Nat) (al : List Alloc) : List Nat → Nat → List (Nat × Alloc × Nat)
  | [], _ => []
  | lvl :: ls, at' =>
    let r := al.foldl
      (fun (acc : List (Nat × Alloc × Nat) × Nat) (a : Alloc) =>
        (acc.1 ++ [(lvl, a, acc.2)], acc.2 + (pyrElems lvl a.prbs.length + 15) / 16 * streams)) ([], at')
    r.1 ++ pyrGroups streams al ls ((r.2 + 15) / 16 * 16)

/-- Element `j` of a pyramid level: the mean of the non-erased REs it covers, rounded once per part (R231, log 68). -/
def ChunkSym.pyrElem (x : ChunkSym) (a : Alloc) (st lvl j : Nat) : Option Nat :=
  let l := (List.range (2 ^ lvl)).filterMap fun i =>
    if 2 ^ lvl * j + i < 12 * a.prbs.length then x.re a st (2 ^ lvl * j + i) else none
  if l.isEmpty then none
  else some (lane16 (rneDiv ((l.map fun w => signedOf 16 (w % 2 ^ 16)).sum) l.length)
    (rneDiv ((l.map fun w => signedOf 16 (w / 2 ^ 16)).sum) l.length))

/-- The level, allocation, stream and group of a pyramid tile's group. -/
def Layout.pyrAt (L : Layout) (c l p : Nat) : Option (Nat × Alloc × Nat × Nat) :=
  ((pyrGroups L.flows.length (L.allocsOf c l) [1, 2, 3] 0).find? fun e =>
    decide (e.2.2 ≤ p ∧ p < e.2.2 + (pyrElems e.1 e.2.1.prbs.length + 15) / 16 * L.flows.length)).map fun e =>
      (e.1, e.2.1, (p - e.2.2) / ((pyrElems e.1 e.2.1.prbs.length + 15) / 16),
        (p - e.2.2) % ((pyrElems e.1 e.2.1.prbs.length + 15) / 16))

/-- Lane row `r` of a pyramid tile. -/
def ChunkSym.pyrUnit (x : ChunkSym) (L : Layout) (r : Nat) : Nat :=
  unitOf ((List.range 16).map fun g =>
    match L.pyrAt x.chunk x.sym (16 * r + g) with
    | none => padGroup
    | some (lvl, a, st, q) =>
      { lanes := (List.range 16).map fun i =>
          if 16 * q + i < pyrElems lvl a.prbs.length then x.pyrElem a st lvl (16 * q + i) else none
        start := decide ((st = 0 ∧ q = 0) ∨ g = 0)
        seg := a.seg })

/-- Whether the source REs of a pyramid row are complete. -/
def ChunkSym.pyrDone (x : ChunkSym) (L : Layout) (r : Nat) : Bool :=
  x.closedAt.isSome || (List.range 16).all fun g =>
    match L.pyrAt x.chunk x.sym (16 * r + g) with
    | none => true
    | some (lvl, a, st, q) =>
      (List.range (16 * 2 ^ lvl)).all fun i =>
        match a.prbs[(16 * 2 ^ lvl * q + i) / 12]? with
        | none => true
        | some prb => x.written (prbKey a.seg st prb)

/-! ### Downlink (R238) -/

/-- Lane rows of a downlink tile. -/
def Layout.dlRows (L : Layout) : Nat := L.lrows * L.chunks

/-- RE `j` of a stream of an allocation in a downlink tile's Lane rows. -/
def DlTile.re (x : DlTile) (L : Layout) (a : Alloc) (st j : Nat) : Nat :=
  let p := 16 * L.lrows * a.chunk + a.first + streamGroups a.prbs.length * st + j / 16
  laneOf 3 (x.rows.getD (p / 16) 0) (16 * (p % 16) + j % 16)

/-- The code of the lattice point nearest to a value, of two the even one (R217). -/
def nearestPoint (w param : Nat) (v : Int) : Nat :=
  (List.range (2 ^ w)).foldl
    (fun b c =>
      let d (k : Nat) : Nat := (v * 2 ^ 32 - Config.modPoint w param k).natAbs
      if d c < d b ∨ (d c = d b ∧ c % 2 = 0 ∧ b % 2 = 1) then c else b) 0

/-- A PRB compressed by a header (R217). -/
def compress (mods : List ModComp) (h : Nat) (vs : List Int) : Nat :=
  match h % 16 with
  | 0 => packFields 16 vs
  | 1 =>
    let b := bfpEncode (iqWidth h) vs
    b.1 + 2 ^ 8 * packFields (iqWidth h) b.2
  | 4 =>
    packFields (iqWidth h) ((List.range vs.length).map fun i =>
      (nearestPoint (iqWidth h) (modParam mods (i / 2)) (vs.getD i 0) : Int))
  | _ => Config.iqEncode h vs

/-- PRBs that one message may carry within the port's MTU; one at least (R216). -/
def State.prbsPerMsg (s : State) (r h : Nat) : Nat :=
  max 1 ((s.cfg pgTrn (0x200 + 0x10 * s.ruPort r) 3 14 - Config.frameOverhead h) / prbBytes h)

/-- Runs of consecutive PRBs of a list, none longer than `n`: each as first index and length. -/
def prbRuns (n : Nat) (l : List Nat) : List (Nat × Nat) :=
  (List.range l.length).foldl
    (fun (acc : List (Nat × Nat)) (i : Nat) =>
      match acc.getLast? with
      | some (b, len) => if l.getD i 0 = l.getD (i - 1) 0 + 1 ∧ len < n then acc.dropLast ++ [(b, len + 1)] else acc ++ [(i, 1)]
      | none => [(i, 1)]) []

/-- The messages of one allocation and stream to a radio unit, in ascending PRB order, each under the flow's next sequence
number. -/
def State.dlMessages (s : State) (L : Layout) (x : DlTile) (a : Alloc) (st f : Nat) : State :=
  let r := s.flowRu f
  let h := s.flowCfg f 4 11 8
  (prbRuns (s.prbsPerMsg r h) a.prbs).foldl
    (fun t run =>
      let body := (List.range run.2).map fun i =>
        compress a.mods h ((List.range 12).flatMap fun k =>
          let w := x.re L a st (12 * (run.1 + i) + k)
          [signedOf 16 (w % 2 ^ 16), signedOf 16 (w / 2 ^ 16)])
      let t1 := t.sendTo r 0 ([t.flowCfg f 0 1 16, (t.flowSt f).txSeq, (frameIdOf L.slotK L.mu).toNat, (subframeOf L.slotK L.mu).toNat
        , (L.slotK % 2 ^ L.mu).toNat, x.sym, a.sectionId, a.prbs.getD run.1 0, run.2, h] ++ body)
      (t1.bump pgTrn 0xE0 (t.ruOwner r)).modFlow f fun y => { y with txSeq := (y.txSeq + 1) % 256 }) s

/-- Replace a downlink tile. -/
def State.putDl (s : State) (x : DlTile) : State :=
  { s with trn := { s.trn with
    dl := s.trn.dl.map fun (y : DlTile) => if y.grid = x.grid ∧ y.slotK = x.slotK ∧ y.sym = x.sym then x else y } }

/-- The downlink tile of a symbol. -/
def State.dlTile? (s : State) (g : Nat) (k : Int) (l : Nat) : Option DlTile :=
  s.trn.dl.find? fun (y : DlTile) => decide (y.grid = g ∧ y.slotK = k ∧ y.sym = l)

/-- The downlink tile of a symbol, begun where it is not there yet. -/
def State.dlTile (s : State) (g : Nat) (k : Int) (l : Nat) : DlTile :=
  (s.dlTile? g k l).getD ({ grid := g, slotK := k, sym := l } : DlTile)

/-- The state in which the downlink tile of a symbol is there. -/
def State.dlBegin (s : State) (g : Nat) (k : Int) (l : Nat) : State :=
  match s.dlTile? g k l with
  | some _ => s
  | none => { s with trn := { s.trn with dl := s.trn.dl ++ [({ grid := g, slotK := k, sym := l } : DlTile)] } }

/-- A symbol that a radio unit does not get (R215, R238). -/
def State.txLate (s : State) (r : Nat) : State := (s.ruBump r 0xE8 12 1).raise pgTrn 11 (s.ruOwner r)

/-- Send a complete downlink tile to a radio unit whose window is open, once (R238). A port that is down discards it, as a late
transmission (R215). -/
def State.dlSend (s : State) (L : Layout) (x : DlTile) (r : Nat) : State :=
  if x.rows.length < L.dlRows ∨ r ∉ x.openTo ∨ r ∈ x.sentTo ∨ r ∈ x.lateTo then s
  else
    let s1 := s.putDl { x with sentTo := x.sentTo ++ [r] }
    if s.portUp (s.ruPort r) then
      (L.allocs.filter fun a => decide (x.sym ∈ a.syms)).foldl
        (fun t a =>
          (List.range L.flows.length).foldl
            (fun t st => match L.flows.getD st none with
              | some f => if t.flowRu f = r then t.dlMessages L x a st f else t
              | none => t) t) s1
    else s1.txLate r

/-- Radio units of a layout's flows. -/
def State.layoutRus (s : State) (L : Layout) : List Nat := ((L.flows.filterMap id).map s.flowRu).eraseDups

end Sys2Proof.Machine
end

