-- ==== Sys2Proof/Machine/GateChecks.lean ====
section
/-!
DEFINITION. The checks of the Commit Gate (21 R498, R499): for each page the codes that a commit breaks, judged against the
basis. In every definition `a` is the basis before the commit's own words and `m` the basis with them. A rule stated for an
object with an enable bit judges the objects enabled in `m` (R498); a context is such an object (log 71).
-/

namespace Sys2Proof.Machine

open Sys2Proof

/-! ### Extents of DRAM, in 4 KiB units -/

/-- Whether an extent reaches beyond usable DRAM; an empty one does not (18 R439). -/
def State.beyond (s : State) (b n : Nat) : Bool := decide (0 < n ∧ s.usable * 16 < b + n)

/-- Whether a union of extents covers [b, e). -/
def covers (l : List (Nat × Nat)) (b e : Nat) : Nat → Bool
  | 0 => decide (e ≤ b)
  | k + 1 =>
    if e ≤ b then true
    else
      let r := l.foldl (fun x y => if y.1 ≤ b ∧ b < y.2 then max x y.2 else x) b
      if r = b then false else covers l r e k

/-- Whether an extent lies in the regions of a partition; one that is not enabled holds none (15 R357, 18 R453). -/
def State.inPart (s : State) (m : SMap Word) (p b n : Nat) : Bool :=
  decide (n = 0) ||
    (partEn m p && covers ((List.range 4).filterMap (partRegion m s.usable p)) b (b + n) 5)

/-- Whether two of a list of extents overlap. -/
def clash : List (Nat × Nat) → Bool
  | [] => false
  | x :: xs => (xs.any fun y => overlaps x.1 x.2 y.1 y.2) || clash xs

/-- Whether a list holds an element twice. -/
def dupNat : List Nat → Bool
  | [] => false
  | x :: xs => decide (x ∈ xs) || dupNat xs

/-- Whether a bit is 0 in `a` and 1 in `m`. -/
def rises (a m : SMap Word) (p : Page) (off lo : Nat) : Bool := decide (cfg a p off lo 1 = 0 ∧ cfg m p off lo 1 = 1)

/-- Whether a field differs between `a` and `m`. -/
def differs (a m : SMap Word) (p : Page) (off lo w : Nat) : Bool := decide (cfg a p off lo w ≠ cfg m p off lo w)

/-- The contexts enabled in a map. -/
def ctxsEn (m : SMap Word) : List Nat := (List.range 64).filter (ctxEn m)

/-- Whether a key handle lies in the range of a partition (15 R356). -/
def handleOk (m : SMap Word) (p h : Nat) : Bool :=
  let b := cfg m pgSec (0x104 + 0x40 * p) 0 10
  decide (b ≤ h ∧ h < b + cfg m pgSec (0x104 + 0x40 * p) 10 11)

/-- Whether a partition's state forbids that its objects be enabled (15 R357). -/
def State.partShut (s : State) (p : Nat) : Bool :=
  let x := (SMap.get partUnlisted s.sec.parts p).st
  decide (x = .closing ∨ x = .scrubbing ∨ x = .held)

/-! ### STO (06 R152, R160; 15 R356) -/

/-- Window extent of an entry as a map has it. -/
def entryExt (m : SMap Word) (n e : Nat) (st : Store) : Nat × Nat := (winBase m n e st, winSize m n e st)

/-- Code 0x03: a field that an entry's EN freezes. -/
def winFrozen (a m : SMap Word) (n : Nat) : Bool :=
  (List.range 32).any fun e =>
    winEn a n e && winEn m n e &&
      (differs a m (pgSto n) (winOff e) 1 9 || differs a m (pgSto n) (winOff e + 4) 0 32 ||
        (List.range 5).any fun k => differs a m (pgSto n) (winOff e + 8 + 4 * k) 0 32)

/-- Code 0x11: windows of different contexts overlap. -/
def winOverlap (m : SMap Word) (n : Nat) : Bool :=
  (List.range 32).any fun e => winEn m n e && (List.range e).any fun f =>
    winEn m n f && decide (winCtx m n e ≠ winCtx m n f) &&
      [Store.w, Store.a, Store.p].any fun st =>
        overlaps (winBase m n e st) (winSize m n e st) (winBase m n f st) (winSize m n f st) &&
          !(decide (st = .w) && winRo m n e && winRo m n f && decide (winPart m n e = winPart m n f))

/-- Code 0x12: an entry whose EN is set against one that is ZEROING or HELD, or that this commit releases. -/
def State.winBlocked (s : State) (a m : SMap Word) (n : Nat) : Bool :=
  (List.range 32).any fun e =>
    winEn m n e && !winEn a n e &&
      (decide ((s.win n e).st = .zeroing ∨ (s.win n e).st = .held) || s.partHeld (winPart m n e) ||
        (List.range 32).any fun f =>
          [Store.w, Store.a, Store.p].any fun st =>
            let x := entryExt m n e st
            if (s.win n f).st = .zeroing ∨ (s.win n f).st = .held then
              overlaps x.1 x.2 ((s.win n f).base st) ((s.win n f).size st)
            else winEn a n f && !winEn m n f && overlaps x.1 x.2 (winBase a n f st) (winSize a n f st))

/-- Code 0x04: STO_REPAIR as the commit writes it. -/
def State.repairBad (s : State) (a m : SMap Word) (n : Nat) : Bool :=
  let p := pgSto n
  if Machine.cfg m p 0x120 9 1 = 0 then decide (Machine.cfg a p 0x120 9 1 = 1)
  else
    let x := s.macroSpares n (Machine.cfg m p 0x120 0 7)
    let k := Machine.cfg m p 0x120 7 2
    let t := some (Machine.cfg m p 0x120 10 12)
    if k = 0 then x.row0.isSome || decide (x.row1 = t)
    else if k = 1 then x.row1.isSome || decide (x.row0 = t)
    else if k = 2 then x.col0.isSome || decide (x.col1 = t)
    else x.col1.isSome || decide (x.col0 = t)

/-- The codes of an STO page that a commit breaks. -/
def State.checkSto (s : State) (a m : SMap Word) (own : Nat → Bool) (n : Nat) : List (Nat × Bool) :=
  [(0x01, own 0x120 && decide (2 ≤ Machine.cfg m (pgSto n) 0x120 7 2 ∧ 575 < Machine.cfg m (pgSto n) 0x120 10 12)),
   (0x03, winFrozen a m n),
   (0x04, own 0x120 && s.repairBad a m n),
   (0x10, (List.range 32).any fun e => winEn m n e && [Store.w, Store.a, Store.p].any fun st =>
      decide (storeRows st < winBase m n e st + winSize m n e st)),
   (0x11, winOverlap m n),
   (0x12, s.winBlocked a m n),
   (0x13, (List.range 32).any fun e => winEn m n e && decide (Machine.plotPart m n ≠ some (winPart m n e)))]

/-! ### Big Top, Sieve, Beds, Thresher (03 R94; 02 R56; 05 R139; 10 R269) -/

/-- A one-way spare field undone or retargeted. -/
def oneWay (a m : SMap Word) (p : Page) (off en lo w : Nat) : Bool :=
  decide (cfg a p off en 1 = 1) && (decide (cfg m p off en 1 = 0) || differs a m p off lo w)

/-- Two Beds of a Plot at one position. -/
def bedDup (m : SMap Word) (n : Nat) : Bool :=
  dupNat (((List.range 17).filter fun b => decide (cfg m (pgBed n b) 0x100 4 1 = 1)).map fun b => cfg m (pgBed n b) 0x100 0 4)

/-- Two enabled positions of THR_SERVE with one unit, or a Pruned unit. -/
def State.thrBad (s : State) (m : SMap Word) : Bool :=
  let l := ((List.range 4).filter fun k => decide (Machine.cfg m pgThr 0x100 (12 + k) 1 = 1)).map fun k => Machine.cfg m pgThr 0x100 (3 * k) 3
  dupNat l || l.any fun u => (s.unit 5 0 u).pruned

/-! ### Irrigator, Sundial (07 R183, R188; 08 R208, R212) -/

/-- The spill area of a resident slot. -/
def spillExt (m : SMap Word) (k : Nat) : Nat × Nat := (cfg m (pgIrg 8) (0x200 + 8 * k) 0 24, cfg m (pgIrg 8) (0x204 + 8 * k) 0 24)

/-- Spill areas outside the regions of the partition of the context that holds the slot (15 R357). -/
def State.spillOut (s : State) (m : SMap Word) : Bool :=
  (List.range 16).any fun k =>
    match SMap.get zeroUnlisted s.rms.slot k with
    | 0 => false
    | c + 1 => !s.inPart m (ctxPart m c) (spillExt m k).1 (spillExt m k).2

/-- Watermarks that break R183. -/
def wmBad (m : SMap Word) (g : Nat) : Bool :=
  let hi := cfg m (pgIrg 8) (0x300 + 4 * g) 0 12
  decide (fifoDepth g - 2 < hi ∨ hi = 0 ∨ hi ≤ cfg m (pgIrg 8) (0x300 + 4 * g) 12 12)

/-- PTP settings that break R212. -/
def sdlBad (m : SMap Word) : Bool :=
  let num (o : Nat) : Nat := cfg m pgSdl o 4 8
  let out (o : Nat) : Bool :=
    match cfg m pgSdl o 2 2 with
    | 0 => decide (num o < 24 ∨ 43 < num o)
    | 1 => decide (num o < 44 ∨ 63 < num o)
    | _ => decide (127 < num o)
  out 0x120 || out 0x160 || decide (cfg m pgSdl 0x120 12 4 = cfg m pgSdl 0x160 12 4 ∧ num 0x120 = num 0x160) ||
    decide (cfg m pgSdl 0x100 3 10 = 0 ∨ 1000 < cfg m pgSdl 0x100 3 10)

/-- Whether some context is resident. -/
def State.anyResident (s : State) : Bool := s.rms.ctx.any fun e => e.2.slot.isSome

/-- GRID_EN cleared while a context is resident, or set while the reference is the on-die oscillator (19 R467). -/
def State.gridBad (s : State) (a m : SMap Word) : Bool :=
  (rises m a pgSdl 0x100 0 && s.anyResident) || (rises a m pgSdl 0x100 0 && s.sdl.freeOsc)

/-! ### Turnstile (09 R213, R215, R221, R223, R226, R231, R235, R240) -/

/-- Enabled radio units, grids and flows. -/
def rusEn (m : SMap Word) : List Nat := (List.range 48).filter fun r => decide (cfg m pgRu (ruOff r) 0 1 = 1)
/-- Enabled grids. -/
def gridsEn (m : SMap Word) : List Nat := (List.range 32).filter fun g => decide (cfg m pgGrid (gridOff g) 0 1 = 1)
/-- Enabled flows. -/
def flowsEn (m : SMap Word) : List Nat := (List.range 1024).filter fun f => decide (flowF m f 0 0 1 = 1)

/-- Two radio units with one port, MAC address and VLAN. -/
def ruDup (m : SMap Word) : Bool :=
  dupNat ((rusEn m).map fun r =>
    cfg m pgRu (ruOff r + 4) 0 32 + 2 ^ 32 * cfg m pgRu (ruOff r + 8) 0 16 + 2 ^ 48 * cfg m pgRu (ruOff r) 1 4 +
      2 ^ 52 * (if cfg m pgRu (ruOff r) 8 1 = 1 then 1 + 2 * cfg m pgRu (ruOff r) 9 12 else 0))

/-- Two flows with one radio unit, eAxC and direction, or two uplink flows with one grid and stream. -/
def flowDup (m : SMap Word) : Bool :=
  dupNat ((flowsEn m).map fun f => flowF m f 0 1 16 + 2 ^ 16 * flowF m f 0 17 6 + 2 ^ 22 * flowF m f 0 23 1) ||
    dupNat (((flowsEn m).filter fun f => decide (flowF m f 0 23 1 = 0)).map fun f => flowF m f 4 0 10)

/-- Radio units on a port of another partition. -/
def ruPortBad (m : SMap Word) : Bool :=
  (rusEn m).any fun r => decide (cfg m pgTrn (0x200 + 0x10 * cfg m pgRu (ruOff r) 1 4) 0 3 ≠ ruPart m r)

/-- Enabled radio units that name a key handle outside their partition. -/
def ruKeyBad (m : SMap Word) : Bool :=
  (rusEn m).any fun r => [0, 10, 20].any fun lo => !handleOk m (ruPart m r) (cfg m pgRu (ruOff r + 0x1C) lo 10)

/-- Flows on a grid of another partition. -/
def flowGridBad (m : SMap Word) : Bool :=
  (flowsEn m).any fun f =>
    decide (cfg m pgGrid (gridOff (flowF m f 4 0 5)) 21 3 ≠ ruPart m (flowF m f 0 17 6))

/-- First PRB of a chunk. -/
def prb0Of (m : SMap Word) (g c : Nat) : Nat :=
  if c = 0 then 0 else cfg m pgGrid (gridOff g + 8 + 4 * ((c - 1) / 3)) (9 * ((c - 1) % 3)) 9

/-- The most Lane groups of one stream that a pyramid level can have in a chunk of `n` PRBs whose tile has `groups` of them: as many
allocations of one PRB as fit, and where the records run out a second group of as many as the PRBs left over give (log 72). A second
group takes 2, 5, 10 PRBs more, and 2, 4, 8 groups of the tile. -/
def pyrGroupsMax (n groups lvl : Nat) : Nat :=
  let c := min (min n groups) 136
  c + min ((n - c) / ([2, 5, 10].getD (lvl - 1) 1)) ((groups - c) / 2 ^ lvl)

/-- Lane rows of the largest pyramid of a chunk. -/
def pyrRowsOf (streams lrows n : Nat) : Nat :=
  ([1, 2, 3].map fun lvl => (pyrGroupsMax n (16 * lrows / streams) lvl * streams + 15) / 16).sum

/-- A grid whose chunks or pyramid break R226 or R231. -/
def gridLayoutBad (m : SMap Word) (g : Nat) : Bool :=
  let o := gridOff g
  let n := cfg m pgGrid o 4 9
  let k := cfg m pgGrid o 18 3 + 1
  let ends (c : Nat) : Nat := if c + 1 < k then prb0Of m g (c + 1) else n
  ((List.range k).any fun c => decide (ends c ≤ prb0Of m g c)) || decide (cfg m pgGrid (o + 4) 0 8 = 0) ||
    (decide (cfg m pgGrid o 24 1 = 1) && (List.range k).any fun c =>
      decide (cfg m pgGrid (o + 4) 8 8 < pyrRowsOf (cfg m pgGrid o 13 5 + 1) (cfg m pgGrid (o + 4) 0 8) (ends c - prb0Of m g c)))

/-- Windows of a radio unit that break R223 or R240. -/
def ruWinBad (m : SMap Word) (r : Nat) : Bool :=
  let f (off lo : Nat) : Nat := cfg m pgRu (ruOff r + off) lo 12
  decide (f 0x0C 12 ≤ f 0x0C 0 ∨ 1600 < f 0x0C 12 - f 0x0C 0 ∨ 3200 < f 0x0C 12 ∨ f 0x14 0 ≤ f 0x14 12 ∨ f 0x10 0 ≤ f 0x10 12)

/-- Rate of a port, in Gb/s (09 R213). -/
def portGbps (m : SMap Word) (p : Nat) : Nat :=
  match cfg m pgTrn 0x100 (10 + 4 * (p / 4)) 4 with
  | 1 => 25 | 2 => 50 | 3 => 100 | 4 => 100 | 5 => 200 | 6 => 200 | 7 => 400 | 8 => 400
  | _ => 0

/-- A pause refresh that the quanta do not outlast: 512 bit times each (09 R235). -/
def pfcBad (m : SMap Word) (p : Nat) : Bool :=
  let o := 0x200 + 0x10 * p
  decide (cfg m (pgIrg 8) (0x300 + 4 * p) 24 1 = 1) && portExists m p &&
    decide (cfg m pgTrn (o + 4) 8 16 * 512 ≤ cfg m pgTrn (o + 8) 0 10 * 1000 * portGbps m p)

/-- A quad pair of which one quad alone is in mode 7 or 8, or in another of the two (09 R213). -/
def quadBad (m : SMap Word) (h : Nat) : Bool :=
  let q (k : Nat) : Nat := cfg m pgTrn 0x100 (10 + 4 * (2 * h + k)) 4
  decide (q 0 ≠ q 1 ∧ (q 0 = 7 ∨ q 0 = 8 ∨ q 1 = 7 ∨ q 1 = 8))

/-! ### Ringmaster, Greenhouse, provenance (11 R303; 12 R306, R307, R316, R318; 13 R337, R339) -/

/-- Bit of a context in a pair of words. -/
def bitOf (m : SMap Word) (off c : Nat) : Bool := decide (cfg m pgRms (off + 4 * (c / 32)) (c % 32) 1 = 1)

/-- A field frozen while a context's EN stays 1. -/
def ctxFrozen (a m : SMap Word) (c : Nat) : Bool :=
  ctxEn a c && ctxEn m c &&
    (differs a m pgRms (ctxOff c) 1 8 || [0x680, 0x688, 0x690].any fun o => decide (bitOf a o c ≠ bitOf m o c))

/-- Carried area of a context. -/
def carryExt (m : SMap Word) (c : Nat) : Nat × Nat := (cfg m pgRms (ctxOff c + 8) 0 24, cfg m pgRms (ctxOff c + 12) 0 16)

/-- Enabled entries of RMS_GH_WREG (0x640) or RMS_WSET (0x6A0): context and extent. -/
def regionsEn (m : SMap Word) (off : Nat) : List (Nat × Nat × Nat) :=
  ((List.range 8).filter fun k => decide (cfg m pgRms (off + 8 * k) 31 1 = 1)).map fun k =>
    (cfg m pgRms (off + 8 * k) 24 6, cfg m pgRms (off + 8 * k) 0 24, cfg m pgRms (off + 4 + 8 * k) 0 24)

/-- The capture region. -/
def capExt (m : SMap Word) : Nat × Nat := (cfg m pgRms 0x6E0 0 24, cfg m pgRms 0x6E4 0 24)

/-- Numbers of a context that break R303. -/
def ctxNumBad (m : SMap Word) (c : Nat) : Bool :=
  let o := ctxOff c
  decide (cfg m pgRms o 10 10 = 0 ∨ (cfg m pgRms o 4 1 = 1 ∧ cfg m pgRms o 5 1 = 1) ∨
    2000 < cfg m pgRms o 20 12 * 2 ^ cfg m pgRms o 7 2)

/-- Greenhouse contexts among the enabled. -/
def ghEn (m : SMap Word) : List Nat := (ctxsEn m).filter (bitOf m 0x608)

/-- Whether a context is real-time. -/
def rtCtx (m : SMap Word) (c : Nat) : Bool := decide (cfg m pgRms (ctxOff c) 6 1 = 0)

/-- Greenhouse class, count, or a placement by partition beside a real-time context (12 R306, R307). -/
def ghBad (m : SMap Word) : Bool :=
  (ghEn m).any (rtCtx m) || decide (4 < (ghEn m).length) ||
    (ghEn m).any fun c => !bitOf m 0x610 c && (ctxsEn m).any fun d => rtCtx m d && decide (ctxPart m d = ctxPart m c)

/-- A selection of the upper library half that R316 refuses. -/
def State.selBad (s : State) (a m : SMap Word) (c : Nat) : Bool :=
  !bitOf a 0x618 c && bitOf m 0x618 c &&
    (!(s.ctx c).pass ||
      ((s.ctx c).lib.any fun e => decide (e.1 < 127) &&
        match SMap.find? (s.ctx c).lib (e.1 + 128) with
        | none => true
        | some f => decide (fieldOf e.2.index 96 32 ≠ fieldOf f.index 96 32 ∨ fieldOf e.2.index 32 46 ≠ fieldOf f.index 32 46)) ||
      match (s.ctx c).selAt with
      | none => false
      | some t => decide (s.sdl.ref < t + Machine.cfg m pgRms 0x600 0 10 * 10 ^ 6 * nsRef))

/-- Provenance bits that R337 or R339 refuses. -/
def provBad (m : SMap Word) (c : Nat) : Bool :=
  (bitOf m 0x688 c && bitOf m 0x608 c) || (bitOf m 0x690 c && (rtCtx m c || bitOf m 0x608 c))

/-- The codes of the RMS page. -/
def State.checkRms (s : State) (a m : SMap Word) : List (Nat × Bool) :=
  let en := ctxsEn m
  let cap := capExt m
  let regs := regionsEn m 0x640 ++ regionsEn m 0x6A0
  [(0x03, en.any (ctxFrozen a m)),
   (0x05, (en.any fun c => s.beyond (carryExt m c).1 (carryExt m c).2) || s.beyond cap.1 cap.2 ||
      regs.any fun r => s.beyond r.2.1 r.2.2),
   (0x06, clash (en.map (carryExt m)) || clash ((regionsEn m 0x640).map Prod.snd) || clash ((regionsEn m 0x6A0).map Prod.snd)),
   (0x07, (en.any fun c => !s.inPart m (ctxPart m c) (carryExt m c).1 (carryExt m c).2) ||
      !s.inPart m (ctxPart m (Machine.cfg m pgRms 0x6E0 24 6)) cap.1 cap.2 ||
      regs.any fun r => !s.inPart m (ctxPart m r.1) r.2.1 r.2.2),
   (0x28, en.any (ctxNumBad m)),
   (0x29, decide (16383 < (en.map fun c => Machine.cfg m pgRms (ctxOff c) 10 10).sum)),
   (0x2A, ghBad m),
   (0x2B, en.any (s.selBad a m)),
   (0x2C, en.any (provBad m)),
   (0x3B, en.any fun c => !ctxEn a c && s.partShut (ctxPart m c))]

/-! ### Ring, memory, host, partitions, power (14 R348, R355; 18 R453; 17 R418, R421, R424, R435; 15 R357; 19 R455) -/

/-- Enabled key slots. -/
def slotsEn (m : SMap Word) : List Nat := (List.range 64).filter fun k => decide (cfg m pgPsf (0x300 + 4 * k) 0 1 = 1)

/-- Ring aperture of a partition. -/
def aperExt (m : SMap Word) (p : Nat) : Nat × Nat := (cfg m pgPsf (0x204 + 0x10 * p) 0 24, cfg m pgPsf (0x208 + 0x10 * p) 0 24)

/-- Transmit slots and handles that R348 refuses: an enabled partition with ENC 1 whose TX_SLOT is not enabled or not its own is
judged once some slot of it is enabled (log 73). -/
def psfKeyBad (m : SMap Word) (own : Nat → Bool) : Bool :=
  ((List.range 8).any fun p =>
    partEn m p && decide (cfg m pgPsf (0x200 + 0x10 * p) 0 1 = 1) &&
      (own (0x200 + 0x10 * p) || (slotsEn m).any fun k => decide (cfg m pgPsf (0x300 + 4 * k) 1 3 = p)) &&
      let k := cfg m pgPsf (0x200 + 0x10 * p) 1 6
      !(decide (k ∈ slotsEn m) && decide (cfg m pgPsf (0x300 + 4 * k) 1 3 = p))) ||
  (slotsEn m).any fun k => !handleOk m (cfg m pgPsf (0x300 + 4 * k) 1 3) (cfg m pgPsf (0x300 + 4 * k) 4 10)

/-- Enabled aperture ranges of DRAM: partition and extent. -/
def sbasEn (m : SMap Word) : List (Nat × Nat × Nat) :=
  ((List.range 8).filter fun k => decide (cfg m pgDdr (0x200 + 8 * k) 31 1 = 1)).map fun k =>
    (cfg m pgDdr (0x200 + 8 * k) 24 3, cfg m pgDdr (0x200 + 8 * k) 0 24, cfg m pgDdr (0x204 + 8 * k) 0 24)

/-- A remap of a page that is remapped already, or during a copy. -/
def State.remapBad (s : State) (m : SMap Word) (own : Nat → Bool) : Bool :=
  own 0x120 && decide (Machine.cfg m pgDdr 0x120 20 1 = 1) &&
    (s.ddr.copying.isSome || (SMap.find? s.ddr.remap (Machine.cfg m pgDdr 0x120 0 20)).isSome)

/-- The function of a context in a map. -/
def ctxFn (m : SMap Word) (c : Nat) : Nat := partFn m (ctxPart m c)

/-- A descriptor region or harvest ring outside every window of the context's function (17 R421, R435). -/
def hstRegionBad (m : SMap Word) (c : Nat) : Bool :=
  (hostXlat m (ctxFn m c) (descAddr m c) (descSlots m c * slotBytes m c)).isNone ||
    (hostXlat m (ctxFn m c) (harvAddr m c) (64 + 64 * harvRecs m c)).isNone

/-- LEAD_US that R424 refuses. -/
def leadBad (m : SMap Word) (c : Nat) : Bool :=
  decide (leadUs m c < 50 ∨ 1000 < leadUs m c ∨
    (cfg m pgRms (ctxOff c) 6 1 = 0 ∧ cfg m pgRms (ctxOff c) 5 1 = 0 ∧ leadUs m c < cfg m pgTrn 0x100 0 10 + 20))

/-- MSI-X vectors of a function (17 R430). -/
def tableSize (fn : Nat) : Nat := if fn = 0 then 256 else 224

/-- Whether a function is enabled: the PF, and the VF of an enabled partition. -/
def fnEn (m : SMap Word) (fn : Nat) : Bool := decide (fn = 0) || (vfPart m fn).isSome

/-- Partitions enabled in a map. -/
def partsEn (m : SMap Word) : List Nat := (List.range 8).filter (partEn m)

/-- Common Plot, VF or key handle of two enabled partitions. -/
def partShare (m : SMap Word) : Bool :=
  (partsEn m).any fun p => (partsEn m).any fun q => decide (p < q) &&
    (decide (Nat.land (cfg m pgSec (0x100 + 0x40 * p) 1 8) (cfg m pgSec (0x100 + 0x40 * q) 1 8) ≠ 0) ||
      decide (partVf m p ≠ 0 ∧ partVf m p = partVf m q) ||
      overlaps (cfg m pgSec (0x104 + 0x40 * p) 0 10) (cfg m pgSec (0x104 + 0x40 * p) 10 11)
        (cfg m pgSec (0x104 + 0x40 * q) 0 10) (cfg m pgSec (0x104 + 0x40 * q) 10 11))

/-- Regions of a partition as they stand in its registers. -/
def rawRegion (m : SMap Word) (p j : Nat) : Nat × Nat :=
  (cfg m pgSec (0x108 + 0x40 * p + 8 * j) 0 24, cfg m pgSec (0x10C + 0x40 * p + 8 * j) 0 24)

/-- A region beyond usable DRAM. -/
def State.regionBeyond (s : State) (m : SMap Word) (p : Nat) : Bool :=
  (List.range 4).any fun j =>
    let r := rawRegion m p j
    decide (r.2 ≠ 0xFFFFFF) && s.beyond r.1 r.2

/-- Regions of two enabled partitions that overlap; a region to the end of usable DRAM reaches from its base on. -/
def regionClash (m : SMap Word) : Bool :=
  (partsEn m).any fun p => (partsEn m).any fun q => decide (p < q) &&
    (List.range 4).any fun i => (List.range 4).any fun j =>
      let x := rawRegion m p i
      let y := rawRegion m q j
      decide (0 < x.2 ∧ 0 < y.2 ∧ (y.2 = 0xFFFFFF ∨ x.1 < y.1 + y.2) ∧ (x.2 = 0xFFFFFF ∨ y.1 < x.1 + x.2))

/-- Whether a partition has an enabled context, radio unit or key slot, and with `grids` an enabled grid. -/
def partUsed (m : SMap Word) (p : Nat) (grids : Bool) : Bool :=
  ((ctxsEn m).any fun c => decide (ctxPart m c = p)) || ((rusEn m).any fun r => decide (ruPart m r = p)) ||
    ((slotsEn m).any fun k => decide (cfg m pgPsf (0x300 + 4 * k) 1 3 = p)) ||
    (grids && (gridsEn m).any fun g => decide (cfg m pgGrid (gridOff g) 21 3 = p))

/-- Code 0x3A: what may not change of a partition in use. -/
def State.partInUse (s : State) (a m : SMap Word) (p : Nat) : Bool :=
  let o := 0x100 + 0x40 * p
  ((List.range 8).any fun n => decide ((Machine.plotPart a n = some p ∨ Machine.plotPart m n = some p) ∧ Machine.plotPart a n ≠ Machine.plotPart m n) &&
    (s.plot n).sto.win.any fun e => decide (e.2.st ≠ .free)) ||
  (partEn a p && partEn m p && partUsed m p false &&
    (differs a m pgSec o 9 4 || differs a m pgSec (o + 4) 0 32 ||
      (List.range 8).any fun k => differs a m pgSec (o + 8 + 4 * k) 0 32)) ||
  (rises m a pgSec o 0 && partUsed m p true)

/-- Code 0x50: a change of a power domain that R455 refuses. -/
def domOf (m : SMap Word) (k : Nat) : Nat := cfg m pgPwr (0x110 + 4 * (k / 16)) (2 * (k % 16)) 2

/-- Whether a context that holds a window entry on a Plot runs, or an entry there is ZEROING or HELD. -/
def State.plotInUse (s : State) (m : SMap Word) (n : Nat) : Bool :=
  ((List.range 32).any fun e => winEn m n e &&
    decide ((s.ctx (winCtx m n e)).st = .running ∨ (s.ctx (winCtx m n e)).st = .blocked ∨
      (s.ctx (winCtx m n e)).st = .swapping)) ||
  (s.plot n).sto.win.any fun e => decide (e.2.st = .zeroing ∨ e.2.st = .held)

/-- Whether every unit of a domain is Pruned (19 R454, R455). -/
def State.domPruned (s : State) (k : Nat) : Bool :=
  if k < 40 then
    s.pruned (k / 5) ||
      (decide (k % 5 = 1) && (List.range 8).all fun b => (s.bed (k / 5) b).pruned) ||
      (decide (k % 5 = 2) && (List.range 9).all fun b => (s.bed (k / 5) (8 + b)).pruned)
  else (s.unit 5 0 (k - 40)).pruned

/-- A power-domain commit that R455 refuses; the bits of domains 45 to 47 are reserved. -/
def State.domBad (s : State) (a m : SMap Word) : Bool :=
  (List.range 8).any (fun n =>
    let off (k : Nat) : Bool := decide (domOf a (5 * n + k) ≠ 0 ∧ domOf m (5 * n + k) = 0)
    let ret := decide (domOf a (5 * n + 4) ≠ 2 ∧ domOf m (5 * n + 4) = 2)
    (((List.range 5).any off || ret) && s.plotInUse m n) ||
      (off 4 && (s.plot n).sto.win.any fun e => decide (e.2.st ≠ .free)) ||
      (decide (domOf m (5 * n + 4) = 2) && (List.range 4).any fun k => decide (domOf m (5 * n + k) ≠ 0))) ||
  (List.range 5).any (fun u => decide (domOf m (40 + u) = 0) && decide (domOf a (40 + u) ≠ 0) &&
    (List.range 4).any fun k => decide (Machine.cfg m pgThr 0x100 (12 + k) 1 = 1 ∧ Machine.cfg m pgThr 0x100 (3 * k) 3 = u)) ||
  (List.range 45).any fun k => decide (domOf a k ≠ 1 ∧ domOf m k = 1) && s.domPruned k

/-- Reserved encodings of PWR_DOM: RET names store domains only (19 R473). -/
def domReserved (m : SMap Word) (own : Nat → Bool) : Bool :=
  (List.range 45).any fun k => own (0x110 + 4 * (k / 16)) && decide (domOf m k = 2 ∧ (40 ≤ k ∨ k % 5 ≠ 4))

/-! ### The checks of a page, and of a commit -/

/-- The codes of a page beside 0x01 and 0x02 of its fields, in any order; `own` says whether the commit takes a word of the
page at an offset. -/
def State.pageRules (s : State) (a m : SMap Word) (v : View) (own : Nat → Bool) (p : Page) : List (Nat × Bool) :=
  let n := p.inst
  match p.kind with
  | .evh =>
    [(0x42, match viewFn v with
      | none => false
      | some fn => (List.range 256).any fun k =>
          let w := (actW m (regKey v pgEvh (0x100 + 4 * k))).toNat
          decide (fieldOf w 11 1 = 1 ∧ tableSize fn ≤ fieldOf w 0 11))]
  | .sdl => [(0x19, sdlBad m), (0x1A, s.gridBad a m)]
  | .trn =>
    [(0x21, ruPortBad m), (0x22, dupNat ((List.range 16).map (physLane m))), (0x25, (List.range 16).any (pfcBad m)),
     (0x26, quadBad m 0 || quadBad m 1)]
  | .trnRu =>
    [(0x20, ruDup m), (0x21, ruPortBad m || ruKeyBad m || flowGridBad m), (0x24, (rusEn m).any (ruWinBad m)),
     (0x3B, (rusEn m).any fun r => rises a m pgRu (ruOff r) 0 && s.partShut (ruPart m r))]
  | .trnGrid =>
    [(0x21, flowGridBad m), (0x23, (gridsEn m).any (gridLayoutBad m)),
     (0x3B, (gridsEn m).any fun g => rises a m pgGrid (gridOff g) 0 && s.partShut (Machine.cfg m pgGrid (gridOff g) 21 3))]
  | .trnFlow =>
    [(0x20, flowDup m), (0x21, flowGridBad m),
     (0x3B, (List.range 128).any fun i => rises a m p (0x100 + 8 * i) 0 && s.partShut (ruPart m (flowF m (128 * n + i) 0 17 6)))]
  | .irg =>
    if n = 8 then
      [(0x05, (List.range 16).any fun k => s.beyond (spillExt m k).1 (spillExt m k).2),
       (0x06, clash ((List.range 16).map (spillExt m))), (0x07, s.spillOut m), (0x18, (List.range 46).any (wmBad m)),
       (0x25, (List.range 16).any (pfcBad m))]
    else []
  | .btp => [(0x04, oneWay a m p 0x100 0 1 9 || oneWay a m p 0x100 16 17 9)]
  | .siv => [(0x16, (List.range 256).any fun k => !scaleOk (Machine.cfg m p (0x400 + 4 * k) 0 32))]
  | .sto => s.checkSto a m own n
  | .bed => [(0x14, bedDup m (n / 17) || (decide (Machine.cfg m p 0x100 4 1 = 1) && (s.bed (n / 17) (n % 17)).pruned))]
  | .thr => [(0x15, s.thrBad m)]
  | .ddr =>
    [(0x02, own 0x100 && decide (Machine.cfg m p 0x100 0 8 = 0 ∨ 168 < Machine.cfg m p 0x100 0 8)),
     (0x05, (sbasEn m).any fun r => s.beyond r.2.1 r.2.2), (0x06, clash ((sbasEn m).map Prod.snd)),
     (0x07, (sbasEn m).any fun r => !(partEn m r.1 && s.inPart m r.1 r.2.1 r.2.2)), (0x48, s.remapBad m own)]
  | .psf =>
    [(0x04, oneWay a m p 0x110 3 0 3 || oneWay a m p 0x114 3 0 3),
     (0x05, (List.range 8).any fun q => s.beyond (aperExt m q).1 (aperExt m q).2),
     (0x06, clash ((List.range 8).map (aperExt m))),
     (0x07, (List.range 8).any fun q => !s.inPart m q (aperExt m q).1 (aperExt m q).2),
     (0x30, psfKeyBad m own),
     (0x3B, (slotsEn m).any fun k => rises a m p (0x300 + 4 * k) 0 && s.partShut (Machine.cfg m p (0x300 + 4 * k) 1 3))]
  | .hst =>
    [(0x03, (ctxsEn m).any fun c => ctxEn a c && (List.range 5).any fun k => differs a m p (0x200 + 0x14 * c + 4 * k) 0 32),
     (0x07, (ctxsEn m).any (hstRegionBad m)), (0x41, (ctxsEn m).any (leadBad m)),
     (0x42, (ctxsEn m).any fun c => decide (tableSize (ctxFn m c) ≤ hstCtx m c 3 20 11))]
  | .hstFn =>
    let rsv (f : Nat) : Nat := Machine.cfg m (pgFn f) 0x100 0 10
    let most (f : Nat) : Nat := Machine.cfg m (pgFn f) 0x100 10 10
    [(0x40, decide (768 < ((List.range 9).map rsv).sum ∨ most n < rsv n) || (fnEn m n && decide (most n = 0)))]
  | .sec =>
    [(0x05, (partsEn m).any (s.regionBeyond m)), (0x06, regionClash m), (0x38, partShare m),
     (0x39, decide (256 < ((partsEn m).map fun q => Machine.cfg m pgSec (0x100 + 0x40 * q) 14 9).sum ∨
        64 < ((partsEn m).map fun q => Machine.cfg m pgSec (0x100 + 0x40 * q) 23 7).sum)),
     (0x3A, (List.range 8).any (s.partInUse a m))]
  | .rms => s.checkRms a m
  | .trp => [(0x05, s.beyond (Machine.cfg m p 0x104 0 24) (Machine.cfg m p 0x104 24 8))]
  | .flt =>
    [(0x05, s.beyond (Machine.cfg m p 0x104 0 24) (Machine.cfg m p 0x104 24 8)), (0x58, decide (Machine.cfg m p 0x100 10 8 ≤ Machine.cfg m p 0x100 18 8))]
  | .pwr =>
    [(0x01, domReserved m own), (0x02, own 0x100 && decide (Machine.cfg m p 0x100 11 10 < 100)), (0x50, s.domBad a m)]
  | _ => []

/-- Whether a word that a commit takes on a page breaks code 0x01 or 0x02 of its fields; a word of a register at an array's
place is judged by that register's fields. -/
def ownBreaks (code : Nat) (p : Page) (words : List (Nat × Word)) : Bool :=
  words.any fun w =>
    decide (w.1 % 2 ^ 26 / 4096 = pageNo p) &&
      match stagedAt p (w.1 % 4096) with
      | some (_, _, fs) => wordBreaks code fs w.2.toNat
      | none => false

/-- The lowest code of a page that a commit breaks (R498). -/
def State.pageCheck (s : State) (a m : SMap Word) (v : View) (words : List (Nat × Word)) (p : Page) : Option Nat :=
  let own (off : Nat) : Bool := words.any fun w => decide (w.1 = regKey v p off)
  let l := (0x01, ownBreaks 0x01 p words) :: (0x02, ownBreaks 0x02 p words) :: s.pageRules a m v own p
  (l.filter fun e => e.2).foldl (fun b e => match b with
    | none => some e.1
    | some c => some (min c e.1)) none

/-- The first failure of a commit's pages, in ascending page number: code and page (R498). -/
def State.pagesCheck (s : State) (a m : SMap Word) (v : View) (words : List (Nat × Word)) : List Nat → Option (Nat × Nat)
  | [] => none
  | no :: rest =>
    match viewPage v no with
    | none => s.pagesCheck a m v words rest
    | some p =>
      match s.pageCheck a m v words p with
      | some code => some (code, no)
      | none => s.pagesCheck a m v words rest

end Sys2Proof.Machine
end

