-- ==== Sys2Proof/Machine/PowerOps.lean ====
section
/-!
DEFINITION. Power domains (19 R454, R455), the scrub of units that enter service (16 R404), the Plot reset (19 R466) and the
BYP_OPEN output (14 R351).
-/

namespace Sys2Proof.Machine

open Sys2Proof

/-- BYP_OPEN is high only out of both resets with the active PSF_CFG.EN at 1, and never after a thermal trip (14 R351, 19 R464). -/
def State.driveByp (s : State) : State :=
  let now := !s.held && !s.tripped && !s.pwr.perst && s.flag pgPsf 0x100 0
  if s.pwr.bypOpen = now then s
  else ({ s with pwr := { s.pwr with bypOpen := now } }).emit (Sent.pin .bypOpen now)

/-! ### Units that enter service: scrubbed, their epoch advanced (16 R404) -/

/-- A Big Top; its map is the active one. -/
def State.scrubBtp (s : State) (n : Nat) : State :=
  (s.modPlot n fun p => { p with btp := { mapInForce := actW s.gate.act (regAddr (pgBtp n) 0x100) } }).advanceEpoch 0 n 0

/-- A Sieve. -/
def State.scrubSieve (s : State) (n : Nat) : State := (s.modPlot n fun p => { p with siv := {} }).advanceEpoch 2 n 0

/-- A Bed, its Sprouts, its Gatherer and its program memory. -/
def State.scrubBedUnit (s : State) (n : Fin 8) (b : Fin 17) : State := (s.scrubBed n b).advanceEpoch 1 n.val b.val

/-- A Plot's Irrigator: its Furrows end, and the tags it holds are reclaimed. -/
def State.scrubIrrigator (s : State) (n : Nat) : State :=
  let l := s.irg.requests.filter fun (r : Request) => decide (r.irg = n)
  let s1 := (l.foldl State.reclaim s).modIrg n fun _ => {}
  (((l.map (·.pool)).eraseDups).foldl State.grantWaiting s1).advanceEpoch 4 n 0

/-- The control of a Plot's stores: nothing held, queued or delivered. -/
def State.scrubStoreControl (s : State) (n : Nat) : State :=
  (s.modPlot n fun p =>
    { p with sto :=
      { p.sto with heldW := [], heldA := [], heldP := [], wbW := [], wbA := [], wbP := [], dlvW := [], dlvA := [], dlvP := [] } }
    ).advanceEpoch 3 n 0

/-- A Plot's number within range. -/
def plotFin (n : Nat) : Fin 8 := ⟨n % 8, Nat.mod_lt _ (by decide)⟩

/-- Beds of a Plot in a range. -/
def State.scrubBeds (s : State) (n lo hi : Nat) : State :=
  ((List.finRange 17).filter fun b => decide (lo ≤ b.val ∧ b.val ≤ hi)).foldl (fun t b => t.scrubBedUnit (plotFin n) b) s

/-! ### Power domains (R454, R455) -/

/-- State of a domain switched by PWR_DOM: 0 OFF, 1 ON, 2 RET, 3 switching. -/
def State.domState (s : State) (k : Nat) : Nat := SMap.get zeroUnlisted s.pwr.dom k

/-- Set the state of a domain. -/
def State.setDom (s : State) (k x : Nat) : State := { s with pwr := { s.pwr with dom := SMap.put zeroUnlisted s.pwr.dom k x } }

/-- A domain enters service from OFF: its units are scrubbed, their epochs advanced, and its stores zeroed. -/
def State.domUp (s : State) (k : Nat) : State :=
  let n := k / 5
  if 40 ≤ k then s.advanceEpoch 5 0 (k - 40)
  else if k % 5 = 0 then s.scrubBtp n
  else if k % 5 = 1 then s.scrubBeds n 0 7
  else if k % 5 = 2 then s.scrubBeds n 8 16
  else if k % 5 = 3 then s.scrubSieve n
  else ((s.scrubStores n).scrubIrrigator n).advanceEpoch 3 n 0

/-- A domain loses power: weight tiles do not survive (R456). -/
def State.domDown (s : State) (k : Nat) : State :=
  if k < 40 ∧ k % 5 = 0 then
    s.modPlot (k / 5) fun p => { p with btp := { p.btp with active := none, shadow := none, loading := false, queue := [], west := [] } }
  else s

/-- A change of PWR_DOM applies: the domains switch, one after another in ascending order; each entry holds the state to reach,
and the one left, 4 times over. -/
def State.switchDoms (s : State) (a : SMap Word) : State :=
  let l := (List.range 45).filter fun k => decide (domOf a k ≠ domOf s.gate.act k)
  l.foldl
    (fun t k =>
      let new := domOf t.gate.act k
      let old := t.domState k
      let t1 := { t with pwr := { t.pwr with switching := t.pwr.switching ++ [(k, new + 4 * old)] } }.setDom k 3
      if new = 0 then t1.domDown k else t1) s

/-- The last domain of a commit has settled. -/
def State.settleDoms (s : State) : State :=
  s.pwr.switching.foldl
    (fun t e =>
      let t1 := t.setDom e.1 (e.2 % 4)
      if e.2 % 4 ≠ 0 ∧ e.2 / 4 = 0 then t1.domUp e.1 else t1)
    { s with pwr := { s.pwr with switching := [] } }

/-! ### Plot reset (R466) -/

/-- Contexts with a step in flight that uses a Plot. -/
def State.plotUsers (s : State) (n : Nat) : List Nat :=
  (List.range 64).filter fun c => (s.ctx c).steps.any fun y => y.flying && decide (n ∈ planPlots y.plan)

/-- Every window entry of a Plot that is ACTIVE goes to ZEROING. -/
def State.zeroWindows (s : State) (n : Nat) : State :=
  let l := (List.range 32).filter fun e => decide ((s.win n e).st = .active)
  if l = [] then s
  else
    (l.foldl
      (fun t e =>
        let w := (actW t.gate.act (regAddr (pgSto n) (winOff e))).toNat
        (t.actPut (pgSto n) (winOff e) (withField w 0 1 0)).winLeave t.gate.act n e false) s).nextZeroOrder n

/-- A Plot reset: contexts torn down with cause 0x1A, units reset with their epochs advanced, windows zeroed. A Pruned Plot is
left alone. -/
def State.plotReset (s : State) (n : Nat) : State :=
  if s.pruned n then s
  else
    let s1 := (s.plotUsers n).foldl (fun t c => t.faultCtx c 0x1A) s
    (((((s1.scrubBtp n).scrubBeds n 0 16).scrubSieve n).scrubIrrigator n).scrubStoreControl n).zeroWindows n

end Sys2Proof.Machine
end

