-- ==== Sys2Proof/Machine/Turnstile.lean ====
section
/-!
DEFINITION. The Turnstile's commands (09): frames received, C-plane messages, layouts, chunk-symbols, feedback, downlink symbols,
links; and the PTP port engine's Delay_Req (08 R201).
-/

namespace Sys2Proof.Machine

open Sys2Proof

/-! ### Shedding (R236, 17 R432) -/

/-- Bytes of a function's shed ring after its control block; 0 without a ring (17 R432, R436). -/
def shedArea (m : SMap Word) (f : Nat) : Nat := cfg m (pgFn f) 0x108 4 16 * 1024 - 64
/-- SHED_ADDR of a function. -/
def shedAddr (m : SMap Word) (f : Nat) : Nat := cfg m (pgFn f) 0x104 0 32 * 4096 + cfg m (pgFn f) 0x108 0 4 * 2 ^ 44

/-- A write to host memory by a function; nothing where no window maps it. -/
def State.fnWrite (s : State) (f addr : Nat) (bytes : List (BitVec 8)) : State :=
  match hostXlat s.gate.act f addr bytes.length with
  | some (bus, _) => s.emit (Sent.hostWrite f bus bytes)
  | none => s

/-- One shed message written to its ring where there is room; the header last (17 R432). -/
def State.shedOne (s : State) (x : ShedMsg) : Option State :=
  let area := shedArea s.gate.act x.fn
  let len := 64 + (x.bytes + 63) / 64 * 64
  let y := s.fn x.fn
  if area = 0 then none
  else
    let at0 := y.shedOfs % area
    let skip := if area < at0 + len then area - at0 else 0
    if area < y.shedOfs + skip + len - y.shedCons then none
    else
      let ofs := 64 + (at0 + skip) % area
      let hdr := x.hdr + 2 ^ 448 * ofs + 2 ^ 480 * (2 ^ 32 - 1 - ofs)
      some (((s.modFn x.fn fun z => { z with shedOfs := z.shedOfs + skip + len }).fnWrite x.fn
        (shedAddr s.gate.act x.fn + ofs) (natLe 64 hdr)).bump pgHst 0x78 (if x.fn = 0 then none else vfPart s.gate.act x.fn))

/-- One message of the shed stream: written to its ring, or kept where it has no room or one before it was kept. -/
def shedNext (acc : State × List ShedMsg) (x : ShedMsg) : State × List ShedMsg :=
  if acc.2 = [] then ((acc.1.shedOne x).getD acc.1, if (acc.1.shedOne x).isSome then [] else [x])
  else (acc.1, acc.2 ++ [x])

/-- The shed stream is what was kept. -/
def State.setShed (s : State) (l : List ShedMsg) : State := { s with trn := { s.trn with shed := l } }

/-- The shed stream goes to the rings, in order, until one has no room. -/
def State.shedDrain (s : State) (l : List ShedMsg) : State :=
  let r := l.foldl shedNext (s, [])
  r.1.setShed r.2

/-- The CONS that a read of a shed ring returned. -/
def State.shedRead (s : State) (f : Nat) (cons : Option Nat) : State :=
  match cons with
  | none => s
  | some c => s.modFn f fun y => { y with shedCons := c }

/-- Whether a port sheds now (R236): above its watermark, or at throttle level 3 whatever the level of its FIFO (19 R462). -/
def State.sheds (s : State) (p : Nat) : Bool :=
  ((s.group p).above || decide (3 ≤ s.level)) && s.flag pgTrn (0x200 + 0x10 * p) 18

/-- SHEDDING of a port: SHED is raised when it begins; it ends with ABOVE (R236, R239). -/
def State.noteShed (s : State) (p : Nat) (on : Bool) : State :=
  if on = true ∧ fieldOf s.trn.shedding p 1 = 0 then
    ({ s with trn := { s.trn with shedding := withField s.trn.shedding p 1 1 } }).raise pgTrn 13
      (some (s.cfg pgTrn (0x200 + 0x10 * p) 0 3))
  else if s.sheds p then s
  else { s with trn := { s.trn with shedding := withField s.trn.shedding p 1 0 } }

/-! ### Stamps (08 R193, R194, R197, R198) -/

/-- External delay of a port, in units of 2^−16 ns (08 R198). -/
def State.asym (s : State) (p lo : Nat) : Int := signedOf 16 (s.cfg pgSdl (0x200 + 4 * p) lo 16) * 2 ^ 12

/-- A stamp's time: that of a clock, with the port's external delay (08 R193, R198). -/
def stampOf (clock : Nat) (d : Int) : Nat := unsignedOf 94 ((clock : Int) + d)

/-- The 128-bit word of a timestamp (08 R194); `clk` is 0 for device time, 1 and 2 for domains A and B. -/
def State.stampWord (s : State) (p clk : Nat) (tx : Bool) (seq time : Nat) : Nat :=
  timeFrac time + 2 ^ 16 * timeNs time + 2 ^ 48 * timeSec time + 2 ^ 96 * clk + 2 ^ 98 * p + 2 ^ 102 * (1 - fieldOf s.sdl.cal p 1)
    + 2 ^ 103 * bit tx + 2 ^ 104 * (seq % 2 ^ 16)

/-- The stamp of a frame received on a port, by a clock's time. -/
def State.rxWord (s : State) (p clk now seq : Nat) : Nat := s.stampWord p clk false seq (stampOf now (s.asym p 16))
/-- The stamp of a frame transmitted. -/
def State.txWord (s : State) (p clk now seq : Nat) : Nat := s.stampWord p clk true seq (stampOf now (s.asym p 0))

/-- The stamp of a received PTP event message, or eCPRI message of type 5, is taken. -/
def State.stampRx (s : State) (p w : Nat) : State := { s with sdl := { s.sdl with rxStamp := SMap.put zeroUnlisted s.sdl.rxStamp p w } }

/-! ### U-plane (R223, R232 to R234) -/

/-- Where a U-plane message belongs: its flow, radio unit, grid, slot, symbol. -/
structure UpAt where
  flow : Nat
  ru : Nat
  grid : Nat
  slotK : Int
  sym : Nat
  stream : Nat

/-- The placed allocation that a section names: of several with its sectionId in the symbol, the first that holds its first PRB
(R233). -/
def State.allocFor (s : State) (u : UpAt) (sec : UpSection) : Option (Layout × Alloc) :=
  (s.layout? u.grid u.slotK).bind fun L =>
    let l := L.allocs.filter fun a => decide (a.sectionId = sec.sectionId ∧ u.sym ∈ a.syms)
    ((l.find? fun a => decide (sec.startPrb ∈ a.prbs)).or l.head?).map fun a => (L, a)

/-- PRBs that a section claims: `numPrb` 0 names those remaining in the carrier. -/
def claimed (nPrb : Nat) (sec : UpSection) : Nat := if sec.numPrb = 0 then nPrb - sec.startPrb else sec.numPrb

/-- A section rejected or shed: it fills no position; the positions are erasure-filled and counted at the close (R230, R233). -/
def State.reject (s : State) (u : UpAt) (L : Layout) (a : Alloc) (kind : Nat) (prbs : List Nat) : State :=
  s.closeIfDone L ((s.chunkSym u.grid a.chunk u.slotK u.sym).fill kind a.seg u.stream (prbs.filter fun p => decide (p ∈ a.prbs)))

/-- A claim overrun of a flow: counted, raised, and at the 16th within 1 s the flow is quarantined (R233, R234). -/
def State.claimOver (s : State) (u : UpAt) : State :=
  let s1 := (s.ruBump u.ru 0x88 8 1).raise pgTrn 9 (s.ruOwner u.ru)
  let l := (s1.sdl.ref :: (s1.flowSt u.flow).overruns).take 16
  let s2 := s1.modFlow u.flow fun x => { x with overruns := l }
  if l.length = 16 ∧ s1.reached (l.getD 15 0 + 10 ^ 9 * nsRef + 1) = false ∧ (s2.flowSt u.flow).quarantined = false then
    (s2.modFlow u.flow fun x => { x with quarantined := true }).raise pgTrn 8 (s2.ruOwner u.ru)
  else s2

/-- The PRBs of a good section written where nothing stands; the rest are duplicates (R232). -/
def State.writePrbs (s : State) (u : UpAt) (L : Layout) (a : Alloc) (h : Nat) (sec : UpSection) : State :=
  let x := s.chunkSym u.grid a.chunk u.slotK u.sym
  let l := (List.range sec.prbs.length).map fun i => (sec.startPrb + i, sec.prbs.getD i { exp := 0, vals := [] })
  let r := l.foldl
    (fun (acc : ChunkSym × Nat × Nat) (e : Nat × UpPrb) =>
      let k := prbKey a.seg u.stream e.1
      if acc.1.written k then (acc.1, acc.2.1 + 1, acc.2.2)
      else
        let d := s.prbLanes L a.mods u.ru e.1 u.sym h e.2
        ({ acc.1 with
            data := SMap.put zeroUnlisted acc.1.data k d.1
            bytes := acc.1.bytes + prbBytes h }, acc.2.1, acc.2.2 + d.2)) (x, 0, 0)
  let s1 := if r.2.1 = 0 then s else s.ruBump u.ru 0x70 6 r.2.1
  let s2 := if r.2.2 = 0 then s1 else s1.ruBump u.ru 0xC8 11 r.2.2
  s2.closeIfDone L r.1

/-- The sections of a U-plane message, in order (R233). -/
def State.upSections (s : State) (u : UpAt) : List UpSection → State
  | [] => s
  | sec :: rest =>
    match s.allocFor u sec with
    | none => (s.bump pgTrn 0x80 (s.ruOwner u.ru)).upSections u rest
    | some (L, a) =>
      let n := claimed L.nPrb sec
      let h := s.compHdr u.flow sec.udComp
      let want := (List.range n).map fun i => sec.startPrb + i
      if compOk h = false ∨ want.any fun p => decide (p ∉ a.prbs) then
        ((s.ruBump u.ru 0x78 7 1).reject u L a 1 want).upSections u rest
      else if sec.prbs.length < n then (s.claimOver u).reject u L a 1 want
      else (s.writePrbs u L a h { sec with prbs := sec.prbs.take n }).upSections u rest

/-- Chunk-symbols that a message's sections feed. -/
def State.fed (s : State) (u : UpAt) (m : UpMsg) : List ChunkSym :=
  m.sections.filterMap fun sec => (s.allocFor u sec).map fun e => s.chunkSym u.grid e.2.chunk u.slotK u.sym

/-- Bytes of a message's payload. -/
def State.payloadBytes (s : State) (u : UpAt) (m : UpMsg) : Nat :=
  (m.sections.map fun sec => sec.prbs.length * prbBytes (s.compHdr u.flow sec.udComp)).sum

/-- A shed message: to the shed stream, or discarded where that is full; its positions are filled as shed (R236). -/
def State.shed (s : State) (port : Nat) (u : UpAt) (m : UpMsg) (len : Nat) (full : Bool) (cons : Option Nat) : State :=
  let fn := partFn s.gate.act (ruPart s.gate.act u.ru)
  let s1 := s.noteShed port true
  let hdr := u.ru + 2 ^ 6 * port + 2 ^ 10 * u.flow + 2 ^ 20 * (len % 2 ^ 16) + 2 ^ 36 * s1.rxWord port 0 s1.sdl.dev m.seq
  let s2 := if full then s1.bump pgTrn 0xA8 (s1.ruOwner u.ru)
    else
      let t := (s1.shedRead fn cons).emit (Sent.stream 0x3A0 [u.ru, u.flow, len])
      t.shedDrain (t.trn.shed ++ [{ fn := fn, hdr := hdr, bytes := len }])
  m.sections.foldl
    (fun t sec => match t.allocFor u sec with
      | some (L, a) =>
        if (t.chunkSym u.grid a.chunk u.slotK u.sym).closedAt = none then
          t.reject u L a 2 ((List.range (claimed L.nPrb sec)).map fun i => sec.startPrb + i)
        else t
      | none => t) s2

/-- A U-plane message of a matched radio unit (R221, R223, R232 to R236). -/
def State.uplane (s : State) (port r len : Nat) (m : UpMsg) (full : Bool) (cons : Option Nat) : State :=
    match s.flowOf? r m.eaxc m.down with
    | none => s.bump pgTrn 0x58 (s.ruOwner r)
    | some f =>
      let y := s.flowSt f
      let s1 := if y.seq ≠ 0 ∧ m.seq % 256 ≠ y.seq % 256 then s.ruBump r 0xD0 13 1 else s
      let s2 := s1.modFlow f fun z => { z with seq := m.seq % 256 + 1 }
      let g := s2.flowCfg f 4 0 5
      let mu := s2.gridMu g
      let odd := s2.ruBump r 0x78 7 m.sections.length
      if s2.gridCfg g 0 0 1 = 0 then s2.bumpBy pgTrn 0x80 (s2.ruOwner r) m.sections.length
      else if m.down = true ∨ 10 ≤ m.subframe ∨ 2 ^ mu ≤ m.slot ∨ 14 ≤ m.symbol then odd
      else
        let k := resolveSlot mu m.frame m.subframe m.slot (symOfs mu m.subframe m.slot (m.symbol + 1)) s2.gridNow
        let u : UpAt := { flow := f, ru := r, grid := g, slotK := k, sym := m.symbol, stream := s2.flowCfg f 4 5 5 }
        let z := s2.flowSt f
        let fed := s2.fed u m
        if s2.flowCfg f 0 24 2 = 2 ∧ s2.sheds port = true then s2.shed port u m len full cons
        else if z.quarantined ∨ fed.any fun x => (match x.openedAt, z.freedAt with
            | some a, some b => decide (a ≤ b)
            | _, _ => false) then
          s2.bump pgTrn 0x90 (s2.ruOwner r)
        else if s2.gridNow < symEnd mu k m.symbol + s2.winOpen r then s2.ruBump r 0x60 4 1
        else if fed.any fun x => x.closedAt.isSome then s2.ruBump r 0x68 5 1
        else if 2 ^ 24 < s2.asmBytes + s2.payloadBytes u m then
          (s2.bump pgTrn 0xB8 (s2.ruOwner r)).raise pgTrn 17 (s2.ruOwner r)
        else if m.payloadVersion ≠ 1 ∨ (if s2.gridCfg g 0 25 1 = 1 then m.filterIndex = 0 ∨ 15 < m.filterIndex else m.filterIndex ≠ 0) then
          odd
        else (s2.bump pgTrn 0x40 (s2.ruOwner r)).upSections u m.sections

/-! ### Delay measurement (R222) -/

/-- A delay in units of 1/16 ns. -/
def delay16 (t1 t2 : Int) : Int := signedOf 32 (unsignedOf 32 (rneDiv (t2 - t1) (2 ^ 12)))

/-- TD_UL measured. -/
def State.setTdUl (s : State) (r : Nat) (d : Int) : State :=
  let s1 := s.modRu r fun x => { x with tdUl := d }
  if (s.ruCfg r 0x0C 12 12 * 1600 : Nat) < d then s1.raise pgTrn 16 (s.ruOwner r) else s1

/-- TD_DL measured. -/
def State.setTdDl (s : State) (r : Nat) (d : Int) : State :=
  let s1 := s.modRu r fun x => { x with tdDl := d }
  if (s.ruCfg r 0x10 12 12 * 1600 : Nat) < d then s1.raise pgTrn 16 (s.ruOwner r) else s1

/-- An eCPRI type 5 message of a radio unit (R222). -/
def State.delayMsg (s : State) (r : Nat) (kind : DelayKind) (seq ts comp : Nat) : State :=
  let p := s.ruPort r
  let t2 := stampOf s.sdl.dev (s.asym p 16)
  let s := s.stampRx p (s.rxWord p 0 s.sdl.dev seq)
  match kind with
  | .request => (s.setTdUl r (delay16 (ts + comp) t2)).sendTo r 4 [seq, t2, 0]
  | .requestFollowUp => (s.modRu r fun x => { x with reqT2 := some (seq, t2) }).sendTo r 4 [seq, t2, 0]
  | .followUp =>
    match (s.ruSt r).reqT2 with
    | some (n, a) =>
      if n = seq then (s.setTdUl r (delay16 (ts + comp) a)).modRu r fun x => { x with reqT2 := none } else s
    | none => s
  | .response =>
    match (s.ruSt r).reqT1 with
    | some (n, a) =>
      if n = seq then (s.setTdDl r (delay16 a ((ts : Int) - comp))).modRu r fun x => { x with reqT1 := none } else s
    | none => s

/-- A transmit stamp in two-step operation: into the port's FIFO of 64, from which stamps are posted to the event hub; `taken` is how
many the hub has taken, this one the last of them. A stamp that finds the FIFO full is lost (08 R196). -/
def State.txStamp (s : State) (p taken stamp : Nat) : Bool × State :=
  let q := SMap.get (fun _ => []) s.sdl.tsFifo p
  let s1 := (q.take taken).foldl (fun t x => t.record pgSdl 35 [x]) s
  let q1 := q.drop taken
  if 64 ≤ q1.length then
    (false, ((({ s1 with sdl := { s1.sdl with tsFifo := SMap.put (fun _ => []) s1.sdl.tsFifo p q1 } }).bump pgSdl 0x60
      (some (s.cfg pgTrn (0x200 + 0x10 * p) 0 3))).raise pgSdl 15 (some (s.cfg pgTrn (0x200 + 0x10 * p) 0 3))))
  else if q.length < taken then
    (true, ({ s1 with sdl := { s1.sdl with tsFifo := SMap.put (fun _ => []) s1.sdl.tsFifo p [] } }).record pgSdl 35 [stamp])
  else (true, { s1 with sdl := { s1.sdl with tsFifo := SMap.put (fun _ => []) s1.sdl.tsFifo p (q1 ++ [stamp]) } })

/-- TD_MEAS_TIMER (R222): a Request and a Remote Request to a radio unit once every 100 ms; in two-step operation (`two`) a
Follow_Up carries t1, unless its stamp was lost (08 R196). -/
def execTdMeasTimer (ru : Fin 48) (two : Bool) (taken t : Nat) (s : State) : Host.Outcome State Fault Refusal :=
  .next (s.live fun s =>
    let s0 := s.advance t
    let r := ru.val
    let x := s0.ruSt r
    if s0.ruEn r = true ∧ s0.ruCfg r 0 23 1 = 1 ∧ s0.portUp (s0.ruPort r) = true ∧
        (x.tdAt = 0 ∨ x.tdAt - 1 + 10 ^ 8 * nsRef ≤ s0.sdl.ref) then
      let p := s0.ruPort r
      let t1 := stampOf s0.sdl.dev (s0.asym p 0)
      let s1 := s0.sendTo r 2 (if two then [x.seq5] else [x.seq5, t1, 0])
      let a := if two then s1.txStamp p taken (s0.txWord p 0 s0.sdl.dev x.seq5) else (true, s1)
      let s2 := a.2.modRu r fun y =>
        { y with tdAt := s0.sdl.ref + 1, seq5 := (y.seq5 + 1) % 2 ^ 16, reqT1 := if a.1 then some (x.seq5, t1) else none }
      (if two = true ∧ a.1 = true then s2.sendTo r 5 [x.seq5, t1, 0] else s2).sendTo r 3 [x.seq5]
    else s0)

/-! ### The PTP port engine (08 R201) -/

/-- The exchange of a domain. -/
def State.ptp (s : State) (d : Bool) : PtpEx := if d then s.trn.ptpB else s.trn.ptpA
/-- Change it. -/
def State.setPtp (s : State) (d : Bool) (x : PtpEx) : State :=
  { s with trn := if d then { s.trn with ptpB := x } else { s.trn with ptpA := x } }

/-- A complete set of t1, t2, t3 and t4 is posted with its correction fields (08 R201). -/
def State.ptpPost (s : State) (d : Bool) : State :=
  let x := s.ptp d
  match x.t1, x.t2, x.t3, x.t4 with
  | some a, some b, some c, some e =>
    (s.setPtp d { x with t3 := none, t4 := none }).record pgSdl 34 [bit d, a, b, c, e.1, unsignedOf 64 x.c1, unsignedOf 64 e.2]
  | _, _, _, _ => s

/-- Whether a port and a domainNumber are those of domain `d`. -/
def State.isDomain (s : State) (port domain : Nat) (d : Bool) : Bool :=
  decide (s.cfg pgSdl (domOff d) 4 8 = domain ∧ s.cfg pgSdl (domOff d) 12 4 = port)

/-- The clock of a PTP message's stamps: that of the domain whose number it bears, else device time (08 R193). -/
def State.ptpClock (s : State) (port domain : Nat) : Nat × Nat :=
  let num (d : Bool) : Bool := decide (s.cfg pgSdl (domOff d) 4 8 = domain)
  let b := s.isDomain port domain true || (num true && !num false)
  if b = true ∧ s.isDomain port domain false = false then (2, domTime s.sdl.b.clk)
  else if num false then (1, domTime s.sdl.a.clk)
  else (0, s.sdl.dev)

/-- A PTP message for domain `d`, `w` its stamp (08 R200, R201): Announce and Signaling go to Groundskeeper through the event hub. -/
def State.ptpFor (s : State) (d : Bool) (w : Nat) (kind : PtpKind) (seq ts : Nat) (corr : Int) : State :=
  let x := s.ptp d
  match kind with
  | .sync => (s.setPtp d { x with seq := seq, t1 := some ts, c1 := corr, t2 := some w }).ptpPost d
  | .syncTwoStep => s.setPtp d { x with seq := seq, t1 := none, c1 := corr, t2 := some w }
  | .followUp => if x.seq = seq then (s.setPtp d { x with t1 := some ts, c1 := x.c1 + corr }).ptpPost d else s
  | .delayResp =>
    if (seq + 1) % 2 ^ 16 = x.dreq ∧ x.t3.isSome = true then (s.setPtp d { x with t4 := some (ts, corr) }).ptpPost d else s
  | .announce => s.record pgSdl 36 [bit d, seq, ts, unsignedOf 64 corr]
  | .signaling => s.record pgSdl 37 [bit d, seq, ts, unsignedOf 64 corr]
  | .otherEvent | .other => s

/-- Whether a PTP message is an event message, which is stamped (08 R193). -/
def ptpEvent : PtpKind → Bool
  | .sync | .syncTwoStep | .otherEvent => true
  | _ => false

/-- A PTP message received on a port: an event message is stamped, and one of an enabled domain on its port is used (08 R193, R200,
R201). -/
def State.ptpMsg (s : State) (port domain : Nat) (kind : PtpKind) (seq ts : Nat) (corr : Int) : State :=
  let c := s.ptpClock port domain
  let w := s.rxWord port c.1 c.2 seq
  let s1 := if ptpEvent kind then s.stampRx port w else s
  let on (d : Bool) : Bool := decide (s.cfg pgSdl (domOff d) 0 2 = 1) && s.isDomain port domain d
  if on false then s1.ptpFor false w kind seq ts corr
  else if on true then s1.ptpFor true w kind seq ts corr
  else s1

/-- Address and tag of the PTP frames of a domain: TRANSPORT, with MASTER_ADDR for UDP; whether they are tagged, PCP and VID (08 R200,
R212). -/
def State.ptpAddr (s : State) (d : Bool) : List Nat :=
  let o := domOff d
  let tr := s.cfg pgSdl o 16 2
  [s.cfg pgSdl o 4 8, tr] ++
    (if tr < 2 then [] else if tr = 2 then [s.cfg pgSdl (o + 0x0C) 0 32]
     else ([0x0C, 0x10, 0x14, 0x18] : List Nat).map fun w => s.cfg pgSdl (o + w) 0 32) ++
    (if s.flag pgSdl (o + 0x1C) 15 then [1, s.cfg pgSdl (o + 0x1C) 12 3, s.cfg pgSdl (o + 0x1C) 0 12] else [0])

/-- What a Delay_Req carries of its stamp (08 R195): in one-step operation originTimestamp, in seconds and nanoseconds, and the rest in
the correctionField; nothing in two-step operation. The UDP checksum is 0 for IPv4, and for IPv6 the trailer corrects it. -/
def originOf (two : Bool) (t : Nat) : List Nat := if two then [0, 0, 0] else [timeSec t, timeNs t, timeFrac t]

/-- DELAY_REQ_INTERVAL (08 R201): a Delay_Req leaves, stamped on its domain's clock; under G.8275.2 and the default profile the unicast
negotiation's Signaling too (R200). In two-step operation (`two`) the stamp passes through the port's FIFO, and one lost is not used. -/
def execDelayReqInterval (dom two : Bool) (taken t : Nat) (s : State) : Host.Outcome State Fault Refusal :=
  .next (s.live fun s =>
    let s0 := s.advance t
    let port := s0.cfg pgSdl (domOff dom) 12 4
    if s0.cfg pgSdl (domOff dom) 0 2 = 1 ∧ s0.portUp port = true then
      let x := s0.ptp dom
      let now := domTime (s0.sdl.servo dom).clk
      let w := s0.txWord port (1 + bit dom) now x.dreq
      let a := if two then s0.txStamp port taken w else (true, s0)
      let s1 := (a.2.setPtp dom { x with t3 := if a.1 then some w else none, t4 := none, dreq := (x.dreq + 1) % 2 ^ 16 }).emit
        (Sent.message port 6 ([bit dom, x.dreq] ++ s0.ptpAddr dom ++ originOf two (stampOf now (s0.asym port 0))))
      if s0.cfg pgSdl (domOff dom) 2 2 = 0 then s1 else s1.emit (Sent.message port 7 ([bit dom] ++ s0.ptpAddr dom))
    else s0)

/-! ### Frames (R214, R220, R221) -/

/-- The enabled radio unit that a frame matches: port, source MAC address and VLAN. -/
def State.ruFor? (s : State) (port : Nat) (f : Frame) : Option Nat :=
  (List.range 48).find? fun r =>
    s.ruEn r && decide (s.ruPort r = port ∧ s.ruCfg r 4 0 32 + 2 ^ 32 * s.ruCfg r 8 0 16 = f.mac ∧
      f.vids = if s.ruCfg r 0 8 1 = 1 then [s.ruCfg r 0 9 12] else [])

/-- Whether a handle holds a MACsec SA of a partition (R220, 15 R361). -/
def State.macKey (s : State) (handle part : Nat) : Bool :=
  match SMap.find? s.sec.keys handle with
  | some k => decide (k.use = 1 ∧ k.part = part)
  | none => false

/-- Validation of a frame of a protected radio unit: which receive SA took it, none where it fails (R220). -/
def State.macCheck (s : State) (r : Nat) (tag : Option SecTag) : Option Bool :=
  match tag with
  | none => none
  | some x =>
    let p := ruPart s.gate.act r
    let y := s.ruSt r
    if x.sciKnown = false ∨ x.icvOk = false then none
    else if x.an = s.ruCfg r 0x14 26 2 ∧ s.macKey (s.ruCfg r 0x1C 10 10) p = true ∧ y.rxPn0 ≤ x.pn then some false
    else if x.an = s.ruCfg r 0x14 28 2 ∧ s.macKey (s.ruCfg r 0x1C 20 10) p = true ∧ y.rxPn1 ≤ x.pn then some true
    else none

/-- Whether a message has an error of its eCPRI header: revision, length, or a transport fragment (R216, R233). -/
def bodyBad : FrameBody → Bool
  | .uplane m => !m.hdrOk
  | .badHeader => true
  | _ => false

/-- What a message of a valid frame of a radio unit does. -/
def State.frameMsg (s : State) (port r : Nat) (f : Frame) (full : Bool) (cons : Option Nat) (b : FrameBody) : State :=
  match b with
  | .uplane m => s.uplane port r f.len m full cons
  | .delay kind seq ts comp => s.delayMsg r kind seq ts comp
  | .ptp _ _ _ _ _ | .esmc _ | .badHeader | .other => s.bump pgTrn 0x58 (s.ruOwner r)

/-- What a valid frame of a radio unit does: its messages in order; an error in an eCPRI header discards the frame (R216, R233). -/
def State.frameBody (s : State) (port r : Nat) (f : Frame) (full : Bool) (cons : Option Nat) : State :=
  if f.bodies.any bodyBad then s.bump pgTrn 0x48 (s.ruOwner r)
  else f.bodies.foldl (fun t b => t.frameMsg port r f full cons b) s

/-- A frame of a radio unit's, or one that matches none (R220, R221). -/
def State.frameFor (s : State) (p : Nat) (f : Frame) (full : Bool) (cons : Option Nat) : State :=
  match s.ruFor? p f with
  | none => s.bump pgTrn 0x58 (some (s.cfg pgTrn (0x200 + 0x10 * p) 0 3))
  | some r =>
    if s.ruCfg r 0 21 1 = 1 then
      match s.macCheck r f.sec with
      | none => s.bump pgTrn 0x50 (s.ruOwner r)
      | some second =>
        let pn := (match f.sec with | some x => x.pn | none => 0) + 1
        (s.modRu r fun y => if second then { y with rxPn1 := pn } else { y with rxPn0 := pn }).frameBody p r f full cons
    else if f.sec.isSome then s.bump pgTrn 0x58 (s.ruOwner r)
    else s.frameBody p r f full cons

/-- FRAME_RECEIVE (R221): a frame as it has arrived whole, decrypted; `level` is the level of the port's ingress FIFO, `shedFull`
whether the shed stream is full, `shedCons` the CONS that a read of the shed ring returned. PTP and ESMC frames take the uncontrolled
port, and ESMC PDUs go to Groundskeeper through the event hub (08 R195, R202); stacked tags are not accepted (R214). -/
def execFrameReceive (port : Fin 16) (f : Frame) (level : Nat) (shedFull : Bool) (shedCons : Option Nat) (t : Nat) (s : State) :
    Host.Outcome State Fault Refusal :=
  .next (s.live fun s =>
    let p := port.val
    let s0 := ((s.advance t).setLevel p level).noteShed p false
    let owner := some (s0.cfg pgTrn (0x200 + 0x10 * p) 0 3)
    if s0.dropsRest p then s0.restDropped p
    else if s0.portUp p = false then s0
    else if f.fcsOk = false ∨ f.len < 64 ∨ s0.cfg pgTrn (0x200 + 0x10 * p) 3 14 < f.len then s0.bump pgTrn 0x48 owner
    else if 1 < f.vids.length then s0.bump pgTrn 0x58 owner
    else
      match f.bodies with
      | [.ptp domain kind seq ts corr] => s0.ptpMsg p domain kind seq ts corr
      | [.esmc pdu] => s0.record pgSdl 38 [p, pdu]
      | _ => s0.frameFor p f shedFull shedCons)

/-! ### C-plane (R218, R219) -/

/-- PRBs that a section covers, in ascending order. -/
def cpPrbs (nPrb : Nat) (x : CpSection) : List Nat :=
  if x.rbg ≠ [] then x.rbg
  else (List.range (if x.numPrb = 0 then nPrb - x.startPrb else x.numPrb)).map fun i => x.startPrb + i

/-- The fields of a C-plane message as they are sent: its header, and each section with its extensions, those that are not parsed
unchanged (R216, R218). -/
def cpWords (m : CpMsg) : List Nat :=
  [m.eaxc, m.sectType, m.frame, m.subframe, m.slot, m.startSym, m.sections.length] ++ m.sections.flatMap fun x =>
    [x.sectionId, x.startPrb, x.numPrb, x.numSym, x.reMask, x.ueId, x.beamId, x.udComp, x.exts.length] ++
      x.exts.flatMap fun e => [e.1, e.2.length, leNat e.2]

/-- The C-plane record of a section, without PLACED, CP_LATE and SEG_ID; `hdr` is the compression header in force (R218). -/
def cpRecord (m : CpMsg) (r g nPrb hdr : Nat) (x : CpSection) : Nat :=
  m.eaxc % 2 ^ 16 + 2 ^ 16 * r + 2 ^ 22 * g + 2 ^ 27 * bit m.down + 2 ^ 28 * (m.sectType % 256) + 2 ^ 36 * (m.frame % 256)
    + 2 ^ 44 * (m.subframe % 16) + 2 ^ 48 * (m.slot % 64) + 2 ^ 54 * (m.startSym % 16) + 2 ^ 58 * (x.numSym % 16)
    + 2 ^ 64 * (x.sectionId % 4096) + 2 ^ 76 * (x.startPrb % 1024) + 2 ^ 86 * ((cpPrbs nPrb x).length % 512)
    + 2 ^ 95 * (x.reMask % 4096)
    + (if m.sectType = 5 ∨ m.sectType = 6 then 2 ^ 128 * (x.ueId % 2 ^ 15) else 0)
    + 2 ^ 143 * (x.beamId % 2 ^ 15) + 2 ^ 158 * (hdr % 256)

/-- A C-plane frame leaves under MACsec; a port that is down discards it, as a late transmission (R215, R218). -/
def State.cpSend (s : State) (r : Nat) (words : List Nat) : State :=
  if s.portUp (s.ruPort r) then s.sendTo r 1 words else s.txLate r

/-- CPLANE_MESSAGE (R218, R219): parsed; each section posted and, for types 1 and 3, placed at its grid's freeze; the frame
held until CP_OPEN, sent within the window, and neither sent nor placed after CP_CLOSE. A section type that is not supported is dropped
(R216). -/
def execCplaneMessage (m : CpMsg) (t : Nat) (s : State) : Host.Outcome State Fault Refusal :=
  .next (s.live fun s =>
    let s0 := s.advance t
    match (List.range 1024).find? fun f =>
        decide (s0.flowCfg f 0 0 1 = 1 ∧ s0.flowCfg f 0 1 16 = m.eaxc ∧ s0.flowCfg f 0 23 1 = bit m.down) &&
          s0.ruEn (s0.flowRu f) with
    | none => s0.bump pgTrn 0x58 none
    | some f =>
      let r := s0.flowRu f
      let g := s0.flowCfg f 4 0 5
      let mu := s0.gridMu g
      let n := s0.gridPrbs g
      let k := resolveSlot mu m.frame m.subframe m.slot (symOfs mu m.subframe m.slot m.startSym) s0.gridNow
      let air := symStart mu k m.startSym
      let opens := air - tenths (s0.ruCfg r 0x14 0 12)
      let late := decide (air - tenths (s0.ruCfg r 0x14 12 12) < s0.gridNow)
      let words := cpWords m
      if m.sectType ∉ ([0, 1, 3, 5, 6] : List Nat) then s0.bump pgTrn 0x58 (s0.ruOwner r)
      else if late = false ∧ s0.gridNow < opens ∧ 4096 ≤ s0.trn.hold.length then s0.bump pgTrn 0xF8 (s0.ruOwner r)
      else
        let skip := ((m.sections.map fun x => (x.exts.filter fun e => decide (e.1 ≠ 4 ∧ e.1 ≠ 5 ∧ e.1 ≠ 6)).length)).sum
        let s1 := if skip = 0 then s0 else s0.bumpBy pgTrn 0xD8 (s0.ruOwner r) skip
        let s2 := m.sections.foldl
          (fun u x =>
            let p : PendSect := {
              grid := g, slotK := k, sectionId := x.sectionId, startPrb := (cpPrbs n x).headD x.startPrb, prbs := cpPrbs n x
              syms := (List.range x.numSym).map fun i => m.startSym + i
              record := cpRecord m r g n (s0.compHdr f x.udComp) x, ru := r, mods := x.mods }
            if late = false ∧ (m.sectType = 1 ∨ m.sectType = 3) ∧ u.gridCfg g 0 0 1 = 1 ∧ (u.layout? g k).isNone ∧
                p.prbs ≠ [] ∧ p.prbs.all fun q => decide (q < n) then
              { u with trn := { u.trn with pend := u.trn.pend ++ [p] } }
            else u.postCp p none late) s1
        if late then (s2.bump pgTrn 0xF0 (s2.ruOwner r)).raise pgTrn 12 (s2.ruOwner r)
        else if s2.gridNow < opens then
          { s2 with trn := { s2.trn with hold := s2.trn.hold ++ [{ ru := r, opens := opens, closes := air - tenths (s2.ruCfg r 0x14 12 12), words := words }] } }
        else s2.cpSend r words)

/-- A frame leaves the hold queue: sent within its window, and late after CP_CLOSE (R219). -/
def State.cpRelease (s : State) (x : Held) : State :=
  if x.closes < s.gridNow then (s.bump pgTrn 0xF0 (s.ruOwner x.ru)).raise pgTrn 12 (s.ruOwner x.ru) else s.cpSend x.ru x.words

/-- CP_HOLD_RELEASE (R219): the frames whose window has opened leave the hold queue, in order. -/
def execCpHoldRelease (t : Nat) (s : State) : Host.Outcome State Fault Refusal :=
  .next (s.live fun s =>
    let s0 := s.advance t
    let go : List Held := s0.trn.hold.filter fun x => decide (x.opens ≤ s0.gridNow)
    go.foldl State.cpRelease
      { s0 with trn := { s0.trn with hold := s0.trn.hold.filter fun (x : Held) => decide (s0.gridNow < x.opens) } })

/-- LAYOUT_FREEZE (R227): LAYOUT_LEAD before a slot of a grid its layout is frozen: allocations, SEG_IDs, records. What is kept of
slots that no name resolves to any more is dropped. -/
def execLayoutFreeze (grid : Fin 32) (t : Nat) (s : State) : Host.Outcome State Fault Refusal :=
  .next (s.live fun s =>
    let s0 := s.advance t
    let g := grid.val
    let mu := s0.gridMu g
    let k := (s0.gridNow + (s0.cfg pgTrn 0x100 0 10 : Int) * 1000 * nsGrid) / slotLen mu
    if s0.gridEn = false ∨ s0.gridCfg g 0 0 1 = 0 ∨ (s0.layout? g k).isSome then s0
    else
      let mine := s0.trn.pend.filter fun p => decide (p.grid = g ∧ p.slotK = k)
      let chunks := s0.gridCfg g 0 18 3 + 1
      let placed := s0.placeGrid g (orderPend mine) (List.range chunks) 0
      let allocs := placed.filterMap (·.2)
      let L : Layout := {
        grid := g, slotK := k, mu := mu, nPrb := s0.gridPrbs g, down := decide (s0.gridCfg g 0 1 1 = 1)
        flows := (List.range (s0.gridCfg g 0 13 5 + 1)).map fun st => s0.streamFlow g st
        chunks := chunks, lrows := s0.gridCfg g 4 0 8
        pyrRows := if s0.gridCfg g 0 24 1 = 1 then s0.gridCfg g 4 8 8 else 0
        pyrMask := if s0.gridCfg g 0 24 1 = 1 then s0.gridCfg g 4 16 14 else 0
        allocs := allocs }
      let old (j : Int) : Bool := decide (j + keepSlots mu < k)
      let s1 : State := { s0 with
        trn := { s0.trn with
          pend := s0.trn.pend.filter fun p => !(decide (p.grid = g) && (decide (p.slotK = k) || old p.slotK))
          layouts := (s0.trn.layouts.filter fun x => !(decide (x.grid = g) && old x.slotK)) ++ [L]
          syms := s0.trn.syms.filter fun x => !(decide (x.grid = g) && old x.slotK)
          dl := s0.trn.dl.filter fun x => !(decide (x.grid = g) && old x.slotK) }
        rms := { s0.rms with cplane := s0.rms.cplane.filter fun x => !(decide (x.grid = g) && old x.slotK) } }
      let s2 := if L.down = true ∧ SMap.get zeroUnlisted s1.trn.dlNext g = 0 then
          { s1 with trn := { s1.trn with dlNext := SMap.put zeroUnlisted s1.trn.dlNext g (14 * k.toNat + 1) } }
        else s1
      let s3 := placed.foldl (fun u e => u.postCp e.1 e.2 false) s2
      let lost := placed.length - allocs.length
      if lost = 0 then s3 else (s3.bumpBy pgTrn 0xB0 (s3.gridPart g) lost).raise pgTrn 10 (s3.gridPart g))

/-! ### Chunk-symbols (R230) -/

/-- CHUNK_SYMBOL_OPEN (R230): at the earliest window of the radio units; with nothing expected it closes at once. -/
def execChunkSymbolOpen (grid : Fin 32) (chunk : Fin 8) (slot : Int) (sym : Fin 14) (t : Nat) (s : State) :
    Host.Outcome State Fault Refusal :=
  .next (s.live fun s =>
    let s0 := s.advance t
    match s0.layout? grid.val slot with
    | none => s0
    | some L =>
      let x := s0.chunkSym grid.val chunk.val slot sym.val
      let ws := (s0.layoutRus L).map s0.winOpen
      if L.down = false ∧ chunk.val < L.chunks ∧ x.openedAt = none ∧
          (ws = [] ∧ symEnd L.mu slot sym.val ≤ s0.gridNow ∨ ws.any fun w => decide (symEnd L.mu slot sym.val + w ≤ s0.gridNow)) then
        s0.closeIfDone L { x with openedAt := some s0.gridNow }
      else s0)

/-- CHUNK_SYMBOL_CLOSE (R230): at the latest WIN_CLOSE of the radio units. -/
def execChunkSymbolClose (grid : Fin 32) (chunk : Fin 8) (slot : Int) (sym : Fin 14) (t : Nat) (s : State) :
    Host.Outcome State Fault Refusal :=
  .next (s.live fun s =>
    let s0 := s.advance t
    match s0.layout? grid.val slot with
    | none => s0
    | some L =>
      let x := s0.chunkSym grid.val chunk.val slot sym.val
      if L.down = false ∧ chunk.val < L.chunks ∧ x.closedAt = none ∧
          (s0.layoutRus L).all fun r => decide (symEnd L.mu slot sym.val + s0.winClose r ≤ s0.gridNow) then
        s0.closeSym L x
      else s0)

/-- Whether a chunk-symbol delivers a pyramid tile (R231). -/
def Layout.hasPyr (L : Layout) (l : Nat) : Bool := decide (0 < L.pyrRows ∧ fieldOf L.pyrMask l 1 = 1)

/-- TILE_UNIT_OFFER (R230): the next unit of a tile, or of its pyramid tile, once it is complete; the trailer after the last Lane
row and the close. The Furrow takes it. -/
def execTileUnitOffer (grid : Fin 32) (chunk : Fin 8) (slot : Int) (sym : Fin 14) (pyr : Bool) (s : State) :
    Host.Outcome State Fault Refusal :=
  .next (s.live fun s =>
    match s.layout? grid.val slot with
    | none => s
    | some L =>
      let x := s.chunkSym grid.val chunk.val slot sym.val
      if L.down = true ∨ L.chunks ≤ chunk.val ∨ x.openedAt = none then s
      else if pyr then
        if L.hasPyr sym.val = true ∧ x.stalePyr = false ∧ x.nextPyr < L.pyrRows ∧ x.pyrDone L x.nextPyr = true then
          (s.emit (Sent.stream (0x200 + 8 * grid.val + chunk.val) [slot.toNat, sym.val, x.nextPyr, x.pyrUnit L x.nextPyr])).putSym
            { x with nextPyr := x.nextPyr + 1 }
        else s
      else if x.stale = true then s
      else if x.next < L.lrows ∧ x.rowDone L x.next = true then
        (s.emit (Sent.stream (0x100 + 8 * grid.val + chunk.val) [slot.toNat, sym.val, x.next, x.laneUnit L x.next])).putSym
          { x with next := x.next + 1 }
      else if x.next = L.lrows ∧ x.closedAt.isSome then
        (s.emit (Sent.stream (0x100 + 8 * grid.val + chunk.val) [slot.toNat, sym.val, x.next, x.trailer L])).putSym
          { x with next := x.next + 1 }
      else s)

/-- TILE_STALE (R230): a tile not fully taken within one slot of its close is discarded. -/
def execTileStale (grid : Fin 32) (chunk : Fin 8) (slot : Int) (sym : Fin 14) (pyr : Bool) (t : Nat) (s : State) :
    Host.Outcome State Fault Refusal :=
  .next (s.live fun s =>
    let s0 := s.advance t
    match s0.layout? grid.val slot with
    | none => s0
    | some L =>
      let x := s0.chunkSym grid.val chunk.val slot sym.val
      let due : Bool := match x.closedAt with
        | some c => decide (c + slotLen L.mu ≤ s0.gridNow)
        | none => false
      let left : Bool := if pyr then L.hasPyr sym.val && !x.stalePyr && decide (x.nextPyr < L.pyrRows)
        else !x.stale && decide (x.next ≤ L.lrows)
      if due = true ∧ left = true then
        ((s0.putSym (if pyr then { x with stalePyr := true } else { x with stale := true })).bump pgTrn 0xC0
          (s0.gridPart grid.val)).raise pgTrn 18 (s0.gridPart grid.val)
      else s0)

/-! ### Corrections (R225) -/

/-- FEEDBACK_RECORD (R225): one that names a radio unit of another partition is discarded and faults the context. -/
def execFeedbackRecord (c : Ctx) (word t : Nat) (s : State) : Host.Outcome State Fault Refusal :=
  .next (s.live fun s =>
    let s0 := s.advance t
    let r := fieldOf word 0 6
    if 48 ≤ r ∨ ruPart s0.gate.act r ≠ s0.partOf c.val then s0.faultCtx c.val 0x10
    else { s0 with trn := { s0.trn with
      feedback := s0.trn.feedback ++ [{ word := word, due := s0.gridNow / slotLen 0 + 1 }] } })

/-- One feedback record takes effect: clamped, φ continuous, and a change of f_r posted with REPORT (R225). -/
def State.feed (s : State) (x : Feedback) : State :=
  let r := fieldOf x.word 0 6
  let at' := x.due * slotLen 0
  let y := (s.ruSt r).nco.head?.getD {}
  let v := signedOf 32 (fieldOf x.word 32 32)
  let gain := s.ruCfg r 0x18 16 4
  let freq := decide (fieldOf x.word 6 1 = 0)
  let old := if freq then y.f else y.ta
  let raw := if fieldOf x.word 7 1 = 1 then v else rneDiv (old * 2 ^ gain + v) (2 ^ gain)
  let lim : Int := if freq then s.ruCfg r 0x18 20 12 * 1000 else 2048 * 16
  let new := satTo (-lim) lim raw
  let z : Nco := {
    f := if freq then new else y.f
    ta := if freq then y.ta else new
    phase := y.phaseAt at' % cyc
    since := at' }
  let s1 := s.modRu r fun w => { w with nco := (z :: w.nco.filter fun (q : Nco) => decide (q.since ≠ at')).take 3 }
  let s2 := if raw ≠ new then s1.raise pgTrn 15 (s.ruOwner r) else s1
  if freq = true ∧ new ≠ old ∧ s.ruCfg r 0 22 1 = 1 then s2.record pgTrn 35 [r, unsignedOf 32 new] else s2

/-- NCO_UPDATE (R225): at a subframe boundary of the slot grid the records that wait for it take effect, in order. -/
def execNcoUpdate (t : Nat) (s : State) : Host.Outcome State Fault Refusal :=
  .next (s.live fun s =>
    let s0 := s.advance t
    let n := s0.gridNow / slotLen 0
    (s0.trn.feedback.filter fun x => decide (x.due ≤ n)).foldl State.feed
      { s0 with trn := { s0.trn with feedback := s0.trn.feedback.filter fun (x : Feedback) => decide (n < x.due) } })

/-! ### Registers with an effect (R234, R240) -/

/-- TRN_UNQUAR (R234): a VF's write for a flow outside its partition is ignored. -/
def execTrnUnquar (v : View) (x : Word) (t : Nat) (s : State) : Host.Outcome State Fault Refusal :=
  .next (s.live fun s =>
    let s0 := s.advance t
    let f := x.toNat % 1024
    s0.commanded v pgTrn (viewSees s0.gate.act v (ruPart s0.gate.act (s0.flowRu f))) fun s0 =>
      if (s0.flowSt f).quarantined then
        s0.modFlow f fun y => { y with quarantined := false, freedAt := some s0.gridNow, overruns := [] }
      else s0)

/-- Word `k` of TRN_RU_RD for a radio unit (R240). -/
def State.ruWord (s : State) (r k : Nat) : Nat :=
  let x := s.ruSt r
  let y := x.nco.head?.getD {}
  if k = 0 then unsignedOf 32 x.tdUl
  else if k = 1 then unsignedOf 32 x.tdDl
  else if k = 2 then unsignedOf 32 y.f
  else if k = 3 then unsignedOf 32 y.ta
  else if k < 14 then x.cnt.getD (k - 4) 0
  else if k = 14 then (s.trn.flow.filter fun e => e.2.quarantined && decide (s.flowRu e.1 = r)).length
  else min (2 ^ 32 - 1) (SMap.get zeroUnlisted s.irg.pfcTx (s.ruPort r))

/-- TRN_RU_Q (R240): the radio unit whose words are latched for the view. -/
def execTrnRuQ (v : View) (x : Word) (s : State) : Host.Outcome State Fault Refusal :=
  .next (s.live fun s =>
    let r := x.toNat % 64
    s.commanded v ⟨.trnRu, 0⟩ (decide (r < 48) && viewSees s.gate.act v (ruPart s.gate.act r)) fun s =>
      { s with trn := { s.trn with ruQ := SMap.put zeroUnlisted s.trn.ruQ v.no r } })

/-! ### Downlink (R238) -/

/-- Lane rows of a grid's next downlink tile: appended until the tile is whole, and then the next symbol's begins. -/
def State.dlTake (s : State) (g : Nat) : List Nat → State
  | [] => s
  | row :: rest =>
    let n := SMap.get zeroUnlisted s.trn.dlNext g
    let k : Int := ((n - 1) / 14 : Nat)
    match s.layout? g k with
    | none => s
    | some L =>
      if n = 0 ∨ L.dlRows = 0 then s
      else
        let l := (n - 1) % 14
        let s1 := s.dlBegin g k l
        let x := s1.dlTile g k l
        let y := { x with rows := x.rows ++ [row] }
        let s2 := s1.putDl y
        let s3 := if y.rows.length = L.dlRows then
            (s2.layoutRus L).foldl (fun t r => t.dlSend L (t.dlTile g k l) r)
              { s2 with trn := { s2.trn with dlNext := SMap.put zeroUnlisted s2.trn.dlNext g (n + 1) } }
          else s2
        s3.dlTake g rest

/-- DL_TILE_RECEIVE (R238): Lane rows arrive on a downlink grid's port; a tile completed within an open window is sent. -/
def execDlTileReceive (grid : Fin 32) (rows : List Nat) (t : Nat) (s : State) : Host.Outcome State Fault Refusal :=
  .next (s.live fun s =>
    let s0 := s.advance t
    if s0.gridCfg grid.val 0 0 1 = 1 ∧ s0.gridCfg grid.val 0 1 1 = 1 then s0.dlTake grid.val rows else s0)

/-- TX_WINDOW_OPEN (R238): at TX_OPEN before a symbol's air time its messages leave for a radio unit, if its rows are present. -/
def execTxWindowOpen (ru : Fin 48) (grid : Fin 32) (slot : Int) (sym : Fin 14) (level t : Nat) (s : State) :
    Host.Outcome State Fault Refusal :=
  .next (s.live fun s =>
    let a := s.advance t
    let s0 := a.setLevel (16 + a.ruPort ru.val) level
    match s0.layout? grid.val slot with
    | none => s0
    | some L =>
      let air := symStart L.mu slot sym.val
      if L.down = true ∧ ru.val ∈ s0.layoutRus L ∧ air - tenths (s0.ruCfg ru.val 0x10 0 12) ≤ s0.gridNow ∧
          s0.gridNow < air - tenths (s0.ruCfg ru.val 0x10 12 12) then
        let s1 := s0.dlBegin grid.val slot sym.val
        let x := s1.dlTile grid.val slot sym.val
        let y := if ru.val ∈ x.openTo then x else { x with openTo := x.openTo ++ [ru.val] }
        (s1.putDl y).dlSend L y ru.val
      else s0)

/-- TX_LATE (R238): at TX_CLOSE a symbol whose tile is not complete is not sent to the radio unit. -/
def execTxLate (ru : Fin 48) (grid : Fin 32) (slot : Int) (sym : Fin 14) (t : Nat) (s : State) :
    Host.Outcome State Fault Refusal :=
  .next (s.live fun s =>
    let s0 := s.advance t
    match s0.layout? grid.val slot with
    | none => s0
    | some L =>
      let air := symStart L.mu slot sym.val
      let s1 := s0.dlBegin grid.val slot sym.val
      let x := s1.dlTile grid.val slot sym.val
      if L.down = true ∧ ru.val ∈ s0.layoutRus L ∧ air - tenths (s0.ruCfg ru.val 0x10 12 12) ≤ s0.gridNow ∧
          ru.val ∉ x.sentTo ∧ ru.val ∉ x.lateTo then
        (s1.putDl { x with lateTo := x.lateTo ++ [ru.val] }).txLate ru.val
      else s0)

/-! ### Links (R197, R215, R239) -/

/-- The lanes of a port have lock, and the SYNCE outputs that carry them follow (08 R202). -/
def State.portLock (s : State) (p : Nat) : State :=
  ((portLanes s.gate.act p).map fun l => physLane s.gate.act l).foldl
    (fun t l => if fieldOf t.sdl.unlocked l 1 = 1 then t.laneLock l true else t) s

/-- LINK_CHANGE (R239): a port gains or loses link; at link-up it calibrates (08 R197). A port that retrains stays down. -/
def execLinkChange (port : Fin 16) (up : Bool) (s : State) : Host.Outcome State Fault Refusal :=
  .next (s.live fun s =>
    let p := port.val
    if up = true ∧ (portExists s.gate.act p = false ∨ fieldOf s.trn.retraining p 1 = 1) then s
    else ((if up then s.portLock p else s).setPort p up).setCal p (if up then false else decide (fieldOf s.sdl.cal p 1 = 1)))

/-- PORT_RETRAIN_DONE (R215): the port returns to service; the 5 ms include its calibration. -/
def execPortRetrainDone (port : Fin 16) (s : State) : Host.Outcome State Fault Refusal :=
  .next (s.live fun s =>
    let p := port.val
    if fieldOf s.trn.retraining p 1 = 1 ∧ portExists s.gate.act p = true then
      (({ s.portLock p with trn := { s.trn with retraining := withField s.trn.retraining p 1 0 } }).setPort p true).setCal p true
    else s)

/-- A commit of TRN_LANE_MAP applies: each port that owns a changed logical lane retrains; a port that the modes no longer make is
out of service (R213, R215). -/
def State.lanesApplied (s : State) (old : SMap Word) : State :=
  (List.range 16).foldl
    (fun t p =>
      if portExists t.gate.act p = false then
        let u := (t.setPort p false).setCal p false
        { u with trn := { u.trn with retraining := withField u.trn.retraining p 1 0 } }
      else if portExists old p = true ∧ (portLanes t.gate.act p).any fun l => decide (physLane old l ≠ physLane t.gate.act l) then
        let u := (t.setPort p false).setCal p false
        { u with trn := { u.trn with retraining := withField u.trn.retraining p 1 1 } }
      else t) s

end Sys2Proof.Machine
end

