-- ==== Sys2Proof/Machine/Registers.lean ====
section
/-!
DEFINITION. The register path (21 R489 to R494, R496, R497): writes of registers without a command of their own, staging,
snapshots, events and the selection of a channel.
-/

namespace Sys2Proof.Machine

open Sys2Proof

/-- Pages that recovery mode exposes (19 R469). -/
def inRecovery : PageKind → Bool
  | .sys => true
  | .pwr => true
  | .flt => true
  | .gkp => true
  | _ => false

/-- A write by a view to a page of its own BAR0 by its number, at an offset: outside every page it is a bad access, and in another
partition's Plot window or in the Roster table it is ignored (R490, R491). In recovery mode four pages are left (19 R469). -/
def State.onPage (s : State) (v : View) (no off : Nat) (f : Page → State → State) : State :=
  s.written v fun s =>
    match viewPage v no with
    | some p =>
      if s.pwr.recovery ∧ ¬ inRecovery p.kind then s.badAccess v (4096 * no + off) true false
      else if viewSeesPage s.gate.act v p then f p s else s.dropped v p
    | none => if inRoster v (4096 * no) then s.dropped v pgRst else s.badAccess v (4096 * no + off) true false

/-! ### Staging (R496) -/

/-- Words in staging, those of the commit in flight that no later write replaced included (R496, R508). -/
def Channel.stagedWords (c : Channel) : List (Nat × Word) :=
  c.staging ++ ((c.flight.flatMap (·.words)).filter fun w => c.staging.all fun z => decide (z.1 ≠ w.1))

/-- STAGE_FULL clears when staging falls below 4,096 words (R508). -/
def Channel.tidy (c : Channel) : Channel := { c with stageFull := c.stageFull && decide (4096 ≤ c.stagedWords.length) }

/-- Put a word into staging, replacing an earlier write of it. -/
def putStaged (l : List (Nat × Word)) (k : Nat) (x : Word) : List (Nat × Word) :=
  (l.filter fun w => decide (w.1 ≠ k)) ++ [(k, x)]

/-- Stage a word on a channel, or set STAGE_FULL; whether it was taken. -/
def Channel.stage (c : Channel) (k : Nat) (x : Word) : Channel × Bool :=
  if (c.stagedWords.any fun w => decide (w.1 = k)) ∨ c.stagedWords.length < 4096 then
    ({ c with staging := putStaged c.staging k x }, true)
  else ({ c with stageFull := true }, false)

/-- STAGED_WRITE (R496): a write of a staged word at an offset of the writer's BAR0; bits that the view may not write are dropped. -/
def execStagedWrite (v : View) (off : Nat) (x : Word) (s : State) : Host.Outcome State Fault Refusal :=
  .next (s.live fun s =>
    s.onPage v (off / 4096) (off % 4096) fun p s =>
      match stagedAt p (off % 4096) with
      | none => s
      | some (_, _, fs) =>
        let mask := viewMask s.gate.act v p (off % 4096) x.toNat
        if mask = 0 then s.dropped v p
        else
          let r := (s.chan (chanOf v)).stage (regKey v p (off % 4096)) (BitVec.ofNat 32 (Nat.land (maskWord fs x.toNat) mask))
          let s1 := s.modChan (chanOf v) fun _ => r.1
          if r.2 then s1 else s1.dropped v p)

/-- REVERT (R488): CTRL.REVERT of a page removes the words of it that no commit has taken. -/
def execRevert (v : View) (page : Nat) (s : State) : Host.Outcome State Fault Refusal :=
  .next (s.live fun s =>
    s.onPage v page 0x10 fun p s =>
      s.modChan (chanOf v) fun c =>
        { c with staging := c.staging.filter fun w => decide (w.1 % 2 ^ 26 / 4096 ≠ pageNo p) }.tidy)

/-! ### Snapshots (R492, 15 R380, 16 R408) -/

/-- A count with all but its seven most significant bits cleared (15 R380). -/
def coarse7 (n : Nat) : Nat := let b := Nat.log2 n; if b < 7 then n else n / 2 ^ (b - 6) * 2 ^ (b - 6)

/-- LO and HI of a statistics counter, with SAT (02 R65). -/
def cntWords (n : Nat) (coarse : Bool) : List Nat :=
  let x := if coarse then coarse7 n else n
  [x % 2 ^ 32, x / 2 ^ 32 + 2 ^ 31 * bit (decide (n = cntMax))]

/-- The four words of a time in units of 2^−16 ns; a VF reads whole microseconds. -/
def timeWords (t : Nat) (coarse : Bool) : List Nat :=
  let x := if coarse then t / (1000 * nsRef) * (1000 * nsRef) else t
  [timeFrac x, timeNs x, timeSec x % 2 ^ 32, timeSec x / 2 ^ 32]

/-- Sundial `d` units of the reference ago, over less than a microsecond: the slew over that time is not undone. -/
def Sundial.back (x : Sundial) (d : Nat) : Sundial :=
  { x with
    ref := x.ref - d
    a := { x.a with clk := moveClk x.a.clk (-clkStep x.a.rate d) }
    b := { x.b with clk := moveClk x.b.clk (-clkStep x.b.rate d) } }

/-- A signed value truncated toward zero to a multiple of `k`. -/
def truncTo (k x : Int) : Int := x.tdiv k * k

/-- The SNP words of a page beside its counters, at their offsets, as a view latches them (08 R212; 09 R240; 11 R303; 19 R473,
R474). -/
def State.snapOther (s : State) (v : View) (p : Page) : List (Nat × Nat) :=
  let vf := isVf v
  match p.kind with
  | .sdl =>
    let x := if vf then s.sdl.back (s.sdl.ref % (1000 * nsRef)) else s.sdl
    let l := [x.dev, domTime x.a.clk, domTime x.b.clk, x.ref, x.ppsDev, x.ppsA, x.ppsB].flatMap fun t => timeWords t vf
    l.zipIdx.map fun e => (0x840 + 4 * e.2, e.1)
  | .trnRu =>
    (List.range 16).map fun k =>
      let w := s.ruWord (SMap.get zeroUnlisted s.trn.ruQ v.no) k
      (0xF04 + 4 * k,
        if !vf then w
        else if k = 0 ∨ k = 1 ∨ k = 3 then unsignedOf 32 (truncTo 16000 (signedOf 32 w))
        else if 4 ≤ k ∧ k ≠ 14 then coarse7 w else w)
  | .rms =>
    let q := SMap.get zeroUnlisted s.rms.acctQ v.no
    let n := if vf then coarse7 (SMap.get zeroUnlisted s.rms.acctUs (4 * (q % 64) + q / 64))
      else SMap.get zeroUnlisted (s.ctx (q % 64)).acct (q / 64)
    [(0xF14, n % 2 ^ 32), (0xF18, n / 2 ^ 32), (0xF1C, (s.ctx (q % 64)).epoch)]
  | .pwr =>
    let q := SMap.get zeroUnlisted s.pwr.tempQ v.no
    let x := SMap.get intUnlisted (if vf then s.pwr.tempWin else s.pwr.tempMax) q
    [(0xF04, unsignedOf 12 (if vf then truncTo 4 x else x) * 2 ^ 12)]
  | .pace =>
    let n := SMap.get zeroUnlisted s.pwr.paceMin p.inst - 1
    [(0x808, (if vf then coarse7 n else n) * 2 ^ 11)]
  | _ => []

/-- The words of a page's counters, at their offsets, as a view latches them. -/
def State.snapCounters (s : State) (v : View) (p : Page) : List (Nat × Nat) :=
  match lastCounter p.kind with
  | none => []
  | some l =>
    (List.range ((l - 0x40) / 8 + 1)).flatMap fun i =>
      let off := 0x40 + 8 * i
      let n := match v with
        | .vf k => SMap.get zeroUnlisted s.hub.cntUs (cntKey (k.val + 1) p off)
        | _ => if (p.kind = .evh ∧ off = 0x40) ∨ p.kind = .cmt then SMap.get zeroUnlisted s.hub.cnt (cntKey v.no p off) else s.count p off
      let w := cntWords n (isVf v)
      [(off, w.getD 0 0), (off + 4, w.getD 1 0)]

/-- A SNAP of a page by a view: every SNP field is latched in the view, and the pace minimum and the highest temperature
restart. -/
def State.snapPage (s : State) (v : View) (p : Page) : State :=
  let l := s.snapCounters v p ++ s.snapOther v p
  let s1 := { s with hub := { s.hub with
    latch := l.foldl (fun m e => SMap.put wordUnlisted m (v.no * 2 ^ 26 + regAddr p e.1) (BitVec.ofNat 32 e.2)) s.hub.latch } }
  match p.kind with
  | .pace => { s1 with pwr := { s1.pwr with paceMin := SMap.erase s1.pwr.paceMin p.inst } }
  | .pwr => { s1 with pwr := { s1.pwr with tempMax := s1.pwr.temp } }
  | _ => s1

/-- SNAP_LATCH (R492): SNAP bit 0. -/
def execSnapLatch (v : View) (page : Nat) (s : State) : Host.Outcome State Fault Refusal :=
  .next (s.live fun s => s.onPage v page 0x30 fun p s => s.snapPage v p)

/-- Zero the statistics counters of a page, in every view. -/
def State.clearCounters (s : State) (p : Page) : State :=
  { s with hub := { s.hub with
    cnt := s.hub.cnt.filter fun e => !(decide (e.1 % 2 ^ 26 / 4096 = pageNo p) && isCounter p.kind (e.1 % 4096)) } }

/-- SNAP_CLEAR (R492): SNAP bit 1, of the PF and Groundskeeper only. -/
def execSnapClear (v : View) (page : Nat) (s : State) : Host.Outcome State Fault Refusal :=
  .next (s.live fun s =>
    s.onPage v page 0x30 fun p s => if isVf v then s.dropped v p else (s.snapPage v p).clearCounters p)

/-! ### Events (R493, R494) -/

/-- What the hub sends after a write that leaves a page's summary at 1. -/
def State.resend (s : State) (v : View) (p : Page) : State :=
  if s.hub.status v p = 0 then s else { s with hub := Hub.notify s.gate.act s.hub v p }

/-- EVT_CLEAR_WRITE (R493): bits written 1 clear in EVT_RAW. -/
def execEvtClearWrite (v : View) (page : Nat) (x : Word) (s : State) : Host.Outcome State Fault Refusal :=
  .next (s.live fun s =>
    s.onPage v page 0x28 fun p s =>
      ({ s with hub := { s.hub with raw := SMap.modify wordUnlisted s.hub.raw (evtKey v p) fun w => w &&& ~~~x } }).resend v p)

/-- EVT_MASK_WRITE (R493, R494). -/
def execEvtMaskWrite (v : View) (page : Nat) (x : Word) (s : State) : Host.Outcome State Fault Refusal :=
  .next (s.live fun s =>
    s.onPage v page 0x24 fun p s =>
      ({ s with hub := { s.hub with mask := SMap.put maskUnlisted s.hub.mask (evtKey v p) x } }).resend v p)

/-- MSIX_UNMASK (R494): a vector is unmasked, and sends its message if it is pending; a vector beyond the table has no entry. -/
def execMsixUnmask (fn : Fin 9) (vector : Nat) (s : State) : Host.Outcome State Fault Refusal :=
  .next (s.live fun s =>
    if tableSize fn.val ≤ vector then s
    else
      let k := 2048 * fn.val + vector
      let pend := SMap.get flagUnlisted s.hub.vecPend k
      let h := { s.hub with
        vecMask := SMap.put vecUnlisted s.hub.vecMask k false
        vecPend := SMap.put flagUnlisted s.hub.vecPend k false }
      { s with hub := if pend then h.sendVector fn.val vector (fnView fn.val) else h })

/-! ### The selection (R497, R508) -/

/-- A write of the CMT page by a view. -/
def State.onCmt (s : State) (v : View) (f : State → State) : State := s.written v f

/-- SELECTION_ADD (R497): CMT_SET OP 1. -/
def execSelectionAdd (v : View) (page : Nat) (s : State) : Host.Outcome State Fault Refusal :=
  .next (s.live fun s => s.onCmt v fun s =>
    if (viewPage v page).isNone then s.dropped v pgCmt
    else s.modChan (chanOf v) fun c =>
      if page ∈ c.sel then c
      else if c.sel.length < 256 then { c with sel := c.sel ++ [page] }
      else { c with setOvf := true })

/-- SELECTION_REMOVE (R497): CMT_SET OP 2. -/
def execSelectionRemove (v : View) (page : Nat) (s : State) : Host.Outcome State Fault Refusal :=
  .next (s.live fun s => s.onCmt v fun s =>
    s.modChan (chanOf v) fun c => { c with sel := c.sel.filter fun n => decide (n ≠ page) })

/-- SELECTION_CLEAR (R497, R508): CMT_SET OP 3. -/
def execSelectionClear (v : View) (s : State) : Host.Outcome State Fault Refusal :=
  .next (s.live fun s => s.onCmt v fun s => s.modChan (chanOf v) fun c => { c with sel := [], setOvf := false })

/-- SELECTION_QUERY (R508): CMT_SET_Q latches the entry that CMT_SET_RD reports. -/
def execSelectionQuery (v : View) (index : Nat) (s : State) : Host.Outcome State Fault Refusal :=
  .next (s.live fun s => s.onCmt v fun s => s.modChan (chanOf v) fun c => { c with query := some index })

/-! ### Registers without a command of their own (R490) -/

/-- Whether a page's register at an offset, or a common register, is one that software may only read (R486 to R488). -/
def readOnlyAt (p : Page) (off : Nat) : Bool :=
  decide (off = 0x00 ∨ off = 0x04 ∨ off = 0x08 ∨ off = 0x14 ∨ off = 0x20 ∨ off = 0x2C) || isCounter p.kind off || mirrorAt p off ||
    match regAt p off with
    | some (_, _, _, fs) => decide (fs ≠ []) && fs.all fun f => decide (f.acc = .ro ∨ f.acc = .snp)
    | none => false

/-- Whether the manual defines a register at an offset of a page. -/
def definedAt (p : Page) (off : Nat) : Bool :=
  readOnlyAt p off || decide (off = 0x10 ∨ off = 0x24 ∨ off = 0x28 ∨ off = 0x30) || (regAt p off).isSome

/-- A write of a register of access RW (R12, 00 R11): ignored with a reserved value; the mailbox data, while a command runs
(20 R484). -/
def State.writeRw (s : State) (v : View) (p : Page) (off : Nat) (fs : List Field) (x : Nat) : State :=
  if (fs.any fun f => (Lim.check f.lim f.w (fieldOf x f.lo f.w)).isSome) ∨ (p.kind = .gkp ∧ s.gk.mb.isSome) then s.dropped v p
  else { s with gate := { s.gate with rw := SMap.put wordUnlisted s.gate.rw (regKey v p off) (BitVec.ofNat 32 (maskWord fs x)) } }

/-- A write of a write-only register that a later command uses: SDL_SAMPLE_IN, RST_BUF, SEC_KEY_SRC, HST_COPY. -/
def State.writeBuf (s : State) (v : View) (p : Page) (off : Nat) (x : Word) : State :=
  match p.kind with
  | .sdl =>
    if v ≠ .gk then s.dropped v p
    else if off = 0xF00 then { s with sdl := { s.sdl with sample0 := x } }
    else if off = 0xF04 then { s with sdl := { s.sdl with sample1 := x } }
    else s
  | .rst =>
    if 0xF40 ≤ off then
      { s with rms := { s.rms with rstBuf := SMap.put wordUnlisted s.rms.rstBuf (16 * v.no + (off - 0xF40) / 4) x } }
    else s
  | .sec =>
    if off = 0xF14 then { s with sec := { s.sec with srcLo := SMap.put wordUnlisted s.sec.srcLo v.no x } }
    else if off = 0xF18 then
      { s with sec := { s.sec with srcHi := SMap.put wordUnlisted s.sec.srcHi v.no (BitVec.ofNat 32 (x.toNat % 2 ^ 16)) } }
    else s
  | .hstFn =>
    let f (g : CopySt → CopySt) : State :=
      { s with irg := { s.irg with fn := SMap.modify fnUnlisted s.irg.fn p.inst g } }
    if off = 0xF00 then f fun y => { y with srcLo := x }
    else if off = 0xF04 then f fun y => { y with srcHi := BitVec.ofNat 32 (x.toNat % 2 ^ 16) }
    else if off = 0xF08 then f fun y => { y with dstLo := x }
    else if off = 0xF0C then f fun y => { y with dstHi := BitVec.ofNat 32 (x.toNat % 2 ^ 16) }
    else s
  | .gkp =>
    -- an operation that R484 does not list ends with CODE 1; those it lists are commands of their own
    if off = 0xF00 ∧ (fieldOf x.toNat 0 8 = 0 ∨ 5 < fieldOf x.toNat 0 8) then
      if s.gk.mb.isSome then s.dropped v p
      else if s.hub.gkHalted ∨ s.gk.fwRun = false then
        { s with gk := { s.gk with mb := some (fieldOf x.toNat 0 8, fieldOf x.toNat 8 8) } }
      else { s with gk := { s.gk with mbCode := 1, mbLen := 0, mbLost := false } }.raise pgGkp 8 none
    else s
  | _ => s

/-- REGISTER_WRITE (R489, R490): a write to a register that has no command of its own, with its byte enables. -/
def execRegisterWrite (v : View) (off : Nat) (x : Word) (be : Nat) (s : State) : Host.Outcome State Fault Refusal :=
  .next (s.live fun s =>
    if be ≠ 15 then
      s.written v fun s =>
        let s1 := s.badAccess v off true true
        match viewPage v (off / 4096) with
        | some p => if definedAt p (off % 4096) then s1.dropped v p else s1
        | none => s1
    else
      s.onPage v (off / 4096) (off % 4096) fun p s =>
        if readOnlyAt p (off % 4096) then s.dropped v p
        else
          match regAt p (off % 4096) with
          | none => s
          | some (_, _, _, fs) =>
            if fs.any fun f => decide (f.acc = .rw) then s.writeRw v p (off % 4096) fs x.toNat
            else if fs.any fun f => decide (f.acc = .wo) then s.writeBuf v p (off % 4096) x
            else s)

end Sys2Proof.Machine
end

