-- ==== Sys2Proof/Machine/GateApply.lean ====
section
/-!
DEFINITION. What an apply of the Commit Gate brings beside the new values (21 R500): the effects that the chapters give to the
apply of particular fields. In every definition `a` holds the active values before the apply, and the state those after it.
-/

namespace Sys2Proof.Machine

open Sys2Proof

/-! ### Stores, Big Tops, Beds -/

/-- An entry's EN: its state follows (06 R157). -/
def State.applyWin (s : State) (a : SMap Word) (n e : Nat) : State :=
  if winEn a n e ∧ ¬ winEn s.gate.act n e then s.winLeave a n e (winKill s.gate.act n e)
  else if ¬ winEn a n e ∧ winEn s.gate.act n e then s.winEnter n e
  else s

/-- STO_REPAIR with EN 1 (06 R156). -/
def State.applyGraftSpare (s : State) (n : Nat) : State :=
  if s.flag (pgSto n) 0x120 9 then
    s.graftSpare n (s.cfg (pgSto n) 0x120 0 7) (s.cfg (pgSto n) 0x120 7 2) (s.cfg (pgSto n) 0x120 10 12)
  else s

/-- A change of BTP_SPARE_MAP waits for the Big Top (03 R92). -/
def State.applySpareMap (s : State) (n : Nat) : State :=
  s.modPlot n fun p => { p with btp := { p.btp with mapPending := true, mapAppliedAt := s.sdl.ref } }

/-- Sprouts that a mask names on a Bed. -/
def maskSprouts (n : Fin 8) (b : Fin 17) (mask : Nat) : List SproutId :=
  ((List.finRange 16).filter fun k => decide (fieldOf mask k.val 1 = 1)).map fun k => ⟨n, b, k⟩

/-- The context, step and task whose descriptor base a late start on a Bed counts from: a task of the position that the Bed serves,
of a step in flight; the context that the Bed serves first, then the lowest (05 R135; log 204). -/
def State.lateTask (s : State) (n b : Nat) : Option (Nat × StepSt × TaskSt) :=
  let here (c : Nat) : List (Nat × StepSt × TaskSt) :=
    ((s.ctx c).steps.filter (·.flying)).flatMap fun y =>
      (y.tasks.filter fun z => decide (z.engine = 2 ∧ z.plot = n ∧ s.servingBed n z.pos = some b)).map fun z => (c, y, z)
  let l := (List.range 64).flatMap here
  match l.find? fun e => decide ((s.ctx e.1).slot = some (SMap.get zeroUnlisted s.rms.serving (32 + 16 * n + e.2.2.pos) - 1)) with
  | some e => some e
  | none => l.head?

/-- A change of BED_LATE_START's SEQ asserts START to the Sprouts it names, and each runs the descriptor that DESC names; on a Bed
without its kernel it faults the context (05 R135, R139; 11 R302). -/
def State.applyLateStart (s : State) (n : Fin 8) (b : Fin 17) : State :=
  let idx := s.cfg (pgBed n.val b.val) 0x104 16 12
  (maskSprouts n b (s.cfg (pgBed n.val b.val) 0x104 0 16)).foldl
    (fun t i =>
      match t.lateTask n.val b.val with
      | some (c, y, z) =>
        if (t.bed n.val b.val).seeded then
          if (t.sprout i).st = .idle ∧ (t.sprout i).frozen = false then
            (t.startSprout i c y.n (2 * (t.ctx c).slot.getD 0 + z.win) (some (planNat y.plan (z.desc + 64 * idx) 64)) true).assertLine i 1
          else t.assertLine i 1
        else t.faultCtx c 0x11
      | none =>
        if (t.bed n.val b.val).seeded then t.assertLine i 1
        else match (t.sprout i).ctx with
          | some c => t.faultCtx c 0x11
          | none => t) s

/-! ### Sundial, Turnstile, the ring -/

/-- Positions that THR_SERVE serves (10 R269). -/
def thrPositions (m : SMap Word) : Nat := ((List.range 4).filter fun k => decide (cfg m pgThr 0x100 (12 + k) 1 = 1)).length

/-- THR_SERVE: DERATE when fewer than four positions come to be served (10 R269). -/
def State.applyServe (s : State) (a : SMap Word) : State :=
  if thrPositions a = 4 ∧ thrPositions s.gate.act < 4 then s.raise pgThr 11 none else s

/-- GRID_EN and SEL (08 R204, R205, R208). -/
def State.applySdl (s : State) (a : SMap Word) : State :=
  let s1 : State := if rises a s.gate.act pgSdl 0x100 0 then
      { s with sdl := { s.sdl with gridFrom := s.sdl.dev, slot := [], sym := [], subframe := 0, frame := 0 } }
    else if rises s.gate.act a pgSdl 0x100 0 then s.gridStop
    else s
  if differs a s.gate.act pgSdl 0x100 1 1 ∨ s.sdl.selRefused = true then s1.select (s.flag pgSdl 0x100 1) else s1

/-- A word of SDL_DOM: SRC off (08 R203); TOD_SEC, which the next edge of PPS_IN takes (R211). -/
def State.applyDom (s : State) (d : Bool) (w : Nat) : State :=
  if w = 0 ∧ s.cfg pgSdl (domOff d) 0 2 = 0 then s.sourceOff d
  else if w = 0x20 ∨ w = 0x24 then { s with sdl := s.sdl.setServo d { s.sdl.servo d with tod := none } }
  else s

/-- A downlink grid that is disabled starts afresh when it is enabled again (09 R238). -/
def State.applyGrid (s : State) (a : SMap Word) (g : Nat) : State :=
  if rises s.gate.act a pgGrid (gridOff g) 0 then { s with trn := { s.trn with dlNext := SMap.erase s.trn.dlNext g } } else s

/-- The association numbers or the key handles of a radio unit: an SA that changes begins anew, its PN from the first (09 R220). -/
def State.applyRuKey (s : State) (a : SMap Word) (r : Nat) : State :=
  let o := ruOff r
  let new (an key : Nat) : Bool := differs a s.gate.act pgRu (o + 0x14) an 2 || differs a s.gate.act pgRu (o + 0x1C) key 10
  s.modRu r fun x =>
    { x with
      txPn := if new 24 0 then 1 else x.txPn
      rxPn0 := if new 26 10 then 0 else x.rxPn0
      rxPn1 := if new 28 20 then 0 else x.rxPn1 }

/-- PSF_CFG.EN: the ports train, or go down (14 R343), and the bypass pin follows (R351). -/
def State.applyPsf (s : State) (a : SMap Word) : State :=
  if differs a s.gate.act pgPsf 0x100 0 1 then
    let down (t : State) (east : Bool) : State := t.portChange east fun p => { p with st := t.unlinked, hold := [] }
    (down (down s true) false).driveByp
  else s

/-! ### Partitions and contexts -/

/-- EN of a partition (15 R362, R383). -/
def State.applyPart (s : State) (a : SMap Word) (p : Nat) : State :=
  let put (f : PartSt → PartSt) : State := { s with sec := { s.sec with parts := SMap.modify partUnlisted s.sec.parts p f } }
  if partEn a p ∧ ¬ partEn s.gate.act p then put fun x => { x with st := .off, pwk := none }
  else if ¬ partEn a p ∧ partEn s.gate.act p then put fun x => { x with st := .active }
  else s

/-- A context is enabled: SWAPPED, its accounting in a new epoch, its records, steps and generation from the first (11 R270,
R290; 12 R314; 17 R421, R425). -/
def State.enableCtx (s : State) (c : Nat) : State :=
  s.modCtx c fun x =>
    { x with
      st := .swapped, epoch := (x.epoch + 1) % 2 ^ 16, prod := 0, cons := 0, next := 0, gen := 0, steps := [], harvWait := [] }

/-- The requests of a context complete into nothing; those that still wait are dropped. -/
def State.killRequests (s : State) (k : Nat) : State :=
  { s with irg := { s.irg with
    requests := s.irg.requests.filterMap fun (r : Request) =>
      if r.ctx = k then (if r.waiting then none else some { r with dead := true }) else some r } }

/-- The Thresher jobs of a slot are dropped. -/
def State.dropJobs (s : State) (j : Nat) : State :=
  { s with thr := { s.thr with
    dec := SMap.put queueUnlisted s.thr.dec j [], enc := SMap.put queueUnlisted s.thr.enc j [] } }

/-- A context is disabled: FREE. What it holds is released as by a swap-out, and its requests complete into nothing (DEDUCED,
log 74). -/
def State.disableCtx (s : State) (k : Nat) : State :=
  let s1 := ((s.dropWork k).clearWindows k false).releaseSprouts k false
  let s2 := s1.killRequests k
  let s3 := (s2.furrowsOf k).foldl (fun t p => t.modFurrow p.1 p.2 fun _ => {}) s2
  let slots := (List.range 16).filter fun j => decide (SMap.get zeroUnlisted s.rms.slot j = k + 1)
  let s4 := (s3.debugEnd 5 k).modCtx k fun x =>
    { x with
      st := .free, slot := none, awaitSlot := none, steps := [], fault := none, tearing := false, preempting := false
      carried := false, swapInWait := false, deficits := [], harvWait := [], furrows := [], probation := 0, rollback := false
      lockMark := none }
  slots.foldl (fun t j => ((t.dropDeficits j).dropJobs j).freeSlot j) s4

/-- EN of a context. -/
def State.applyCtx (s : State) (a : SMap Word) (c : Nat) : State :=
  if ctxEn a c ∧ ¬ ctxEn s.gate.act c then (s.disableCtx c).restagePace
  else if ¬ ctxEn a c ∧ ctxEn s.gate.act c then s.enableCtx c
  else s

/-- A context's bit of RMS_GH_LIBSEL: a promotion begins its probation, and any change of software ends one (12 R316, R319,
R320: event 13 and the count at 0xA0). -/
def State.applySel (s : State) (a : SMap Word) (c : Nat) : State :=
  if ¬ bitOf a 0x618 c ∧ bitOf s.gate.act 0x618 c then
    ((s.modCtx c fun x =>
      { x with probation := s.cfg pgRms 0x620 0 16, probBlocks := 0, probFails := 0, selAt := some s.sdl.ref }).raise pgRms 13
        (some (s.partOf c))).bump pgRms 0xA0 (some (s.partOf c))
  else if bitOf a 0x618 c ∧ ¬ bitOf s.gate.act 0x618 c then s.modCtx c fun x => { x with probation := 0, selAt := some s.sdl.ref }
  else s

/-! ### The apply of one word, and of a commit -/

/-- The effect of one word of a commit, by its page and offset. -/
def State.applyWord (s : State) (a : SMap Word) (key : Nat) : State :=
  let off := key % 4096
  match pfPage (key % 2 ^ 26 / 4096) with
  | none => s
  | some p =>
    match p.kind with
    | .sto =>
      if off = 0x120 then s.applyGraftSpare p.inst
      else if 0x200 ≤ off ∧ off < 0x600 ∧ off % 0x20 = 0 then s.applyWin a p.inst ((off - 0x200) / 0x20)
      else s
    | .btp => if off = 0x100 ∧ differs a s.gate.act p 0x100 0 32 then s.applySpareMap p.inst else s
    | .bed =>
      if off = 0x104 ∧ differs a s.gate.act p 0x104 28 4 then
        s.applyLateStart (plotFin (p.inst / 17)) ⟨p.inst % 17, Nat.mod_lt _ (by decide)⟩
      else s
    | .thr => if off = 0x100 then s.applyServe a else s
    | .sdl =>
      if off = 0x100 then s.applySdl a
      else if 0x120 ≤ off ∧ off < 0x160 then s.applyDom false (off - 0x120)
      else if 0x160 ≤ off ∧ off < 0x1A0 then s.applyDom true (off - 0x160)
      else if off = 0x250 then s.applyPps
      else if off = 0x260 ∨ off = 0x264 then s.synceDrive ((off - 0x260) / 4)
      else s
    | .trnRu =>
      if 0x100 ≤ off ∧ off < 0x700 ∧ (off % 0x20 = 0x14 ∨ off % 0x20 = 0x1C) then s.applyRuKey a ((off - 0x100) / 0x20) else s
    | .trnGrid => if off % 0x20 = 0 ∧ 0x100 ≤ off ∧ off < 0x500 then s.applyGrid a ((off - 0x100) / 0x20) else s
    | .irg => if p.inst = 8 then s.fcPins else s
    | .psf => if off = 0x100 then s.applyPsf a else s
    | .ddr => if off = 0x120 ∧ s.flag pgDdr 0x120 20 then s.remapStart (s.cfg pgDdr 0x120 0 20) else s
    | .sec => if 0x100 ≤ off ∧ off < 0x300 ∧ off % 0x40 = 0 then s.applyPart a ((off - 0x100) / 0x40) else s
    | .rms =>
      if 0x200 ≤ off ∧ off < 0x600 ∧ off % 0x10 = 0 then s.applyCtx a ((off - 0x200) / 0x10)
      else if off = 0x618 ∨ off = 0x61C then
        (List.range 32).foldl (fun t k => t.applySel a ((off - 0x618) / 4 * 32 + k)) s
      else s
    | _ => s

/-- Whether a commit takes a word of a kind of page within a range of offsets. -/
def takesWord (words : List (Nat × Word)) (no lo hi : Nat) : Bool :=
  words.any fun w => decide (w.1 % 2 ^ 26 / 4096 = no ∧ lo ≤ w.1 % 4096 ∧ w.1 % 4096 < hi)

/-- The effects of an apply beside the values themselves. -/
def State.applyEffects (s : State) (a : SMap Word) (words : List (Nat × Word)) : State :=
  let s1 := words.foldl (fun t w => t.applyWord a w.1) s
  let s2 := (List.range 8).foldl
    (fun t n => if takesWord words (pageNo (pgSto n)) 0x200 0x600 then t.nextZeroOrder n else t) s1
  let s3 := if takesWord words (pageNo pgTrn) 0x100 0x120 then s2.lanesApplied a else s2
  if takesWord words (pageNo pgPwr) 0x110 0x11C then s3.switchDoms a else s3

end Sys2Proof.Machine
end

