-- ==== Sys2Proof/Machine/Gate.lean ====
section
/-!
DEFINITION. The Commit Gate (21 R495 to R503): GO, the checks, the instants, the apply, re-checks and aborts of channels 0 to 9.
-/

namespace Sys2Proof.Machine

open Sys2Proof

/-! ### Status, counts and events of a channel (R508) -/

/-- Count one of a channel's events, in the channel's own view. -/
def State.cmtCount (s : State) (v : View) (off : Nat) : State :=
  let k := cntKey v.no pgCmt off
  let s1 := { s with hub := s.hub.add k 1 }
  if s.hub.saturates k 1 then s1.raiseIn v pgCmt 0 else s1

/-- Count and raise an event of a channel. -/
def State.cmtNote (s : State) (v : View) (off b : Nat) : State := (s.cmtCount v off).raiseIn v pgCmt b

/-- The view of a channel of 0 to 9. -/
def chanOwner (k : Nat) : View := (chanView k).getD .gk

/-- Words that a commit took return to staging, unless later writes replaced them (R496). -/
def Channel.giveBack (c : Channel) : Channel := { c with staging := c.stagedWords, flight := [] }

/-- A channel's commit is withdrawn, its staging and selection emptied (R503). -/
def Channel.withdraw (c : Channel) : Channel :=
  { c with
    flight := [], staging := [], sel := [], setOvf := false, stageFull := false
    state := if c.flight = [] then c.state else .aborted }

/-- Withdraw a channel. -/
def State.withdraw (s : State) (k : Nat) : State := s.modChan k Channel.withdraw

/-- A repair that has failed is issued again 1 ms later at the earliest (R502). -/
def State.retryRepair (s : State) (c : Commit) : State :=
  if c.repair then { s with flt := { s.flt with retryAt := some (s.sdl.ref + 1000 * usRef) } } else s

/-! ### Words and the basis (R498) -/

/-- A word put into a map of active values: a VF's word changes only the bits it may write. -/
def putWord (v : View) (m : SMap Word) (k : Nat) (x : Word) : SMap Word :=
  match v, keyPage k with
  | .vf _, some p =>
    let mask := viewMask m v p (k % 4096) x.toNat
    let old := (actW m k).toNat
    SMap.put actUnlisted m k (BitVec.ofNat 32 (Nat.lor (Nat.land old (Nat.xor mask allBits)) (Nat.land x.toNat mask)))
  | _, _ => SMap.put actUnlisted m k x

/-- The words of a commit put into a map. -/
def putWords (v : View) (m : SMap Word) (l : List (Nat × Word)) : SMap Word := l.foldl (fun m w => putWord v m w.1 w.2) m

/-- Order of the channels within one apply event (R500). -/
def chanRank (k : Nat) : Nat := if k = 9 then 0 else k + 1

/-- Device time of an accepted commit's instant; none for one that is due, which comes before every other. -/
def Commit.instant (c : Commit) : Option Nat := if c.due then none else c.hookAt

/-- Whether an instant comes before another, by serial-number arithmetic (08 R190). -/
def instantBefore : Option Nat → Option Nat → Bool
  | none, some _ => true
  | some a, some b => decide (devDiff a b < 0)
  | _, none => false

/-- Whether a commit applies before another: by instant, channel, and arming (R500). -/
def appliesBefore (x y : Nat × Commit) : Bool :=
  instantBefore x.2.instant y.2.instant || (decide (x.2.instant = y.2.instant) &&
    decide (chanRank x.1 < chanRank y.1 ∨ (chanRank x.1 = chanRank y.1 ∧ x.2.order < y.2.order)))

/-- A commit put in its place. -/
def insertCommit (x : Nat × Commit) : List (Nat × Commit) → List (Nat × Commit)
  | [] => [x]
  | y :: l => if appliesBefore x y then x :: y :: l else y :: insertCommit x l

/-- Commits in the order in which they apply. -/
def sortCommits (l : List (Nat × Commit)) : List (Nat × Commit) := l.foldr insertCommit []

/-- Every accepted commit, with its channel. -/
def State.accepted (s : State) : List (Nat × Commit) :=
  s.gate.chans.flatMap fun e => (e.2.flight.filter fun c => !c.checking).map fun c => (e.1, c)

/-- The active configuration with every accepted commit whose instant comes before a commit's applied in order (R498). -/
def State.basis (s : State) (k : Nat) (c : Commit) : SMap Word :=
  (sortCommits (s.accepted.filter fun x => appliesBefore x (k, c))).foldl (fun m x => putWords (chanOwner x.1) m x.2.words) s.gate.act

/-! ### Instants (R497, 08 R209) -/

/-- First step boundary of a context that comes later than a device time (11 R280). -/
def State.nextBoundary (s : State) (c lim : Nat) : Int :=
  s.boundaryOf c (s.slotCount (s.muOf c) ((lim : Int) - s.stepOfs c).toNat + 1)

/-- A commit as it is armed when its checks end. -/
def State.armed (s : State) (c : Commit) : Commit :=
  let c0 := { c with order := s.gate.arm, checking := false }
  match c.inst with
  | .now => { c0 with due := true }
  | .boundary k => { c0 with hookAt := some (s.nextBoundary k (s.sdl.dev + usRef)).toNat, comparator := (s.ctx k).slot.isNone }
  | .time t =>
    if devDiff t s.sdl.dev ≤ 0 then { c0 with due := true, late := decide (devDiff t s.sdl.dev < 0) }
    else { c0 with hookAt := some t, comparator := true }

/-- Time comparators in use (08 R209). -/
def State.comparators (s : State) : Nat := (s.accepted.filter fun x => x.2.comparator).length

/-! ### The checks (R498, R499) -/

/-- The checks that concern the channel: the code of the first that fails. `c` is the commit as armed. -/
def State.channelCheck (s : State) (k : Nat) (c : Commit) : Option Nat :=
  if (s.chan k).setOvf then some 0x08
  else if (s.chan k).stageFull then some 0x09
  else
    let grid := match c.inst with
      | .boundary _ => !s.gridEn
      | _ => false
    if grid then some 0x0A
    else if c.comparator ∧ 16 ≤ s.comparators then some 0x0B
    else none

/-- A number put in its place in an ascending list without repeats. -/
def insertNat (n : Nat) : List Nat → List Nat
  | [] => [n]
  | m :: l => if n < m then n :: m :: l else if n = m then m :: l else m :: insertNat n l

/-- The first failure of a commit's pages against a basis: code and page. -/
def State.judge (s : State) (a : SMap Word) (k : Nat) (c : Commit) : Option (Nat × Nat) :=
  let v := chanOwner k
  let m := putWords v a c.words
  s.pagesCheck a m v (c.words.map fun w => (w.1, actW m w.1)) (c.pages.foldr insertNat [])

/-- A commit is rejected: it changes nothing, and its words stay staged. -/
def State.rejectCommit (s : State) (k : Nat) (c : Commit) (code page : Nat) : State :=
  (((s.modChan k fun x => { x.giveBack with state := .rejected, code := code, page := page }).cmtNote (chanOwner k) 0x50 9)).retryRepair c

/-- A commit is accepted: it is pending on its instant; a hook armed for a time already past is late (08 R209). -/
def State.acceptCommit (s : State) (k : Nat) (c : Commit) : State :=
  let s1 := s.modChan k fun x => { x with flight := [c], state := .pending, code := 0, page := 0 }
  let s2 := { s1 with gate := { s1.gate with arm := s1.gate.arm + 1 } }
  if c.late then (s2.bump pgSdl 0x58 none).raise pgSdl 13 none else s2

/-- The checks of a channel's commit end. -/
def State.checksEnd (s : State) (k : Nat) : State :=
  match (s.chan k).flight.find? fun c => c.checking with
  | none => s
  | some c =>
    let c1 := s.armed c
    match s.channelCheck k c1 with
    | some code => s.rejectCommit k c code 0
    | none =>
      match s.judge (s.basis k c1) k c with
      | some (code, page) => s.rejectCommit k c code page
      | none => s.acceptCommit k c1

/-- CHECKS_END (R498): channels 10 and 11 are checked at their instant, as part of their apply (R502). -/
def execChecksEnd (chan : Fin 12) (t : Nat) (s : State) : Host.Outcome State Fault Refusal :=
  .next (s.live fun s0 => if chan.val < 10 then (s0.advance t).checksEnd chan.val else s0.advance t)

/-! ### GO and ABORT (R497, R498, R503) -/

/-- A field of CMT_AT of a view. -/
def State.cmtAt (s : State) (v : View) (word lo w : Nat) : Nat :=
  fieldOf (SMap.get wordUnlisted s.gate.rw (regKey v pgCmt (0xF10 + 4 * word))).toNat lo w

/-- The instant that CMT_AT of a view chooses. -/
def State.cmtInstant (s : State) (v : View) : Instant :=
  match s.cmtAt v 0 0 2 with
  | 1 => .boundary (s.cmtAt v 0 2 6)
  | 2 => .time (((s.cmtAt v 2 0 32 + 2 ^ 32 * s.cmtAt v 3 0 16) * 10 ^ 9 + s.cmtAt v 1 0 32) * nsRef)
  | _ => .now

/-- Take a channel's staged words of the pages selected as a commit whose checks begin. -/
def State.beginCommit (s : State) (k : Nat) (pages : List Nat) (inst : Instant) (repair : Bool) : State :=
  let v := chanOwner k
  let nos := pages.filterMap fun no => (viewPage v no).map pageNo
  s.modChan k fun x =>
    let mine (w : Nat × Word) : Bool := decide (w.1 % 2 ^ 26 / 4096 ∈ nos)
    { x with
      staging := x.staging.filter fun w => !mine w
      flight := [{ pages := pages, words := x.staging.filter mine, inst := inst, repair := repair }]
      state := .checking, code := 0, page := 0, late := false, rechecked := false }

/-- GO (R498): ignored while a commit of the channel is in flight. -/
def execGo (v : View) (s : State) : Host.Outcome State Fault Refusal :=
  .next (s.live fun s => s.written v fun s =>
    if (s.chan (chanOf v)).flight = [] then
      (s.beginCommit (chanOf v) (s.chan (chanOf v)).sel (s.cmtInstant v) false).cmtCount v 0x40
    else s.dropped v pgCmt)

/-- ABORT (R503): the channel's commit is withdrawn, and frees the comparator it held. -/
def execAbort (v : View) (s : State) : Host.Outcome State Fault Refusal :=
  .next (s.live fun s => s.written v fun s =>
    let k := chanOf v
    match (s.chan k).flight with
    | [] => s
    | c :: _ => (s.modChan k fun x => { x.giveBack with state := .aborted }).retryRepair c)

/-! ### The apply (R500, R501, 08 R209) -/

/-- Every hook whose time has come delivers its commit: a hook never fires before its time. -/
def State.fireHooks (s : State) : State :=
  { s with gate := { s.gate with
    chans := s.gate.chans.map fun e => (e.1, { e.2 with
      flight := e.2.flight.map fun c =>
        match c.hookAt with
        | some h => if !c.checking && decide (devDiff h s.sdl.dev ≤ 0) then { c with due := true, comparator := false } else c
        | none => c }) } }

/-- HOOK_FIRE (R209). -/
def execHookFire (t : Nat) (s : State) : Host.Outcome State Fault Refusal :=
  .next (s.live fun s0 => (s0.advance t).fireHooks)

/-- One commit applies: its words, their effects, its status, count and event. -/
def State.applyCommit (s : State) (k : Nat) (c : Commit) (late re : Bool) : State :=
  let v := chanOwner k
  let a := s.gate.act
  let s1 := { s with gate := { s.gate with act := putWords v a c.words } }
  let s2 := s1.modChan k fun x => { x with flight := [], state := .applied, code := 0, page := 0, late := late, rechecked := re }.tidy
  let s3 := (s2.applyEffects a c.words).cmtNote v 0x48 8
  if late then s3.cmtNote v 0x58 11 else s3

/-- A commit is checked again at its instant: it applies late, or fails as a whole (R501). -/
def State.recheck (s : State) (k : Nat) (c : Commit) : State :=
  match s.judge s.gate.act k c with
  | some (code, page) =>
    (((s.modChan k fun x =>
      { x.giveBack with state := .applyFail, code := code, page := page, late := true, rechecked := true }).cmtNote (chanOwner k) 0x60
        10)).retryRepair c
  | none => (s.applyCommit k c true true).noteApply s

/-- One apply event of the commits that are due, of those that `p` names: those that need no re-check change together, and the
rest follow as their re-checks end (R500, R501). -/
def State.applyDue (s : State) (p : Commit → Bool) : State :=
  let l := sortCommits (s.accepted.filter fun x => x.2.due && p x.2)
  let s1 := ((l.filter fun x => !x.2.dirty).foldl (fun t x => t.applyCommit x.1 x.2 x.2.late false) s).noteApply s
  (l.filter fun x => x.2.dirty).foldl (fun t x => t.recheck x.1 x.2) s1

/-- COMMIT_APPLY (R500): the repairs of the fault block have a row of their own (16 R393). -/
def execCommitApply (t : Nat) (s : State) : Host.Outcome State Fault Refusal :=
  .next (s.live fun s0 => (s0.advance t).applyDue fun c => !c.repair)

end Sys2Proof.Machine
end

