-- ==== Sys2Proof/Machine/Faults.lean ====
section
/-!
DEFINITION. The fault block (16): records and the log, transient or permanent, Grafts and Prunes, aging, the limits and their
escalation short of device recovery.
-/

namespace Sys2Proof.Machine

open Sys2Proof

/-! ### The log (R409) -/

/-- The epoch that a record of a class carries: that of the unit, of the store set, or of the ring port. -/
def State.recEpoch (s : State) (cls plot index : Nat) : Nat :=
  match cls with
  | 3 => (s.unit 3 plot 0).epoch
  | 7 => (s.unit 7 0 (index / 16 * 16)).epoch
  | _ => (s.unit cls plot index).epoch

/-- A record of R409 as a number. -/
def State.fltWord (s : State) (r : FltRec) : Nat :=
  s.flt.seq + 2 ^ 16 * (r.kind % 16) + 2 ^ 20 * (r.action % 16) + 2 ^ 24 * (r.cls % 16) + 2 ^ 28 * (r.plot % 8)
    + 2 ^ 31 * (r.index % 256) + 2 ^ 39 * (r.ctx.getD 0 % 64) + 2 ^ 45 * bit r.ctx.isSome
    + 2 ^ 48 * s.recEpoch r.cls r.plot r.index
    + 2 ^ 64 * (if r.kind = 0 ∨ r.kind = 1 ∨ r.kind = 8 ∨ r.kind = 10 then r.detail % 2 ^ 32 else 0)
    + 2 ^ 96 * (s.sdl.ref / (1000 * nsRef) % 2 ^ 32)

/-- A record is posted through the event hub, kept among the latest 16, written to the ring at FLT_LOG_BASE, and where its ACTION is
3, 5 or 6 sent as a platform event (R409, 20 R478, R481). -/
def State.fltLog (s : State) (r : FltRec) : State :=
  let x := s.fltWord r
  let s1 := s.record pgFlt 32 [x]
  let s2 := { s1 with
    flt := { s1.flt with seq := (s.flt.seq + 1) % 2 ^ 16, latest := (s.flt.latest ++ [x]).drop (s.flt.latest.length + 1 - 16) } }
  let s3 := if r.action = 3 ∨ r.action = 5 ∨ r.action = 6 then s2.platform 1 [x] else s2
  let size := s.cfg pgFlt 0x104 24 8 * 256
  if size = 0 then s3
  else
    { (s3.dramWrite none (dramBase + s.cfg pgFlt 0x104 0 24 * 4096 + 16 * (s.flt.written % size)) (natLe 16 x)) with
      flt := { s3.flt with written := (s.flt.written + 1) % 2 ^ 32 } }

/-! ### Spares (R390, R395) -/

/-- A spare row (1) or column (2) of a Big Top is free: idle and not lost (03 R91). -/
def State.btpSpare (s : State) (n which : Nat) : Bool :=
  !(s.flag (pgBtp n) 0x100 (16 * (which - 1))) && !(s.unit 0 n which).spareLost

/-- The spare Bed of a Plot is free. -/
def State.bedSpare (s : State) (n : Nat) : Bool :=
  !(s.flag (pgBed n 16) 0x100 4) && !(s.unit 1 n 16).spareLost && !(s.bed n 16).pruned

/-- The free spare of a macro, by number: rows 0 and 1, columns 2 and 3 (06 R155). -/
def State.macroFree (s : State) (n m : Nat) (column : Bool) : Option Nat :=
  let x := s.macroSpares n m
  if column then (if x.col0.isNone then some 2 else if x.col1.isNone then some 3 else none)
  else (if x.row0.isNone then some 0 else if x.row1.isNone then some 1 else none)

/-- A Thresher unit that serves no position and is neither Pruned nor lost. -/
def State.thrSpare (s : State) : Option Nat :=
  (List.range 5).find? fun u => !s.unitServes u && !(s.unit 5 0 u).pruned && !(s.unit 5 0 u).spareLost

/-- A physical SerDes lane to which no logical lane is mapped and which has not failed (09 R215). -/
def State.laneSpare (s : State) : Option Nat :=
  (List.range 18).find? fun l => !((List.range 16).any fun k => decide (physLane s.gate.act k = l)) && !(s.unit 6 0 l).permanent

/-- Whether a spare for a unit remains (R412: SPARE_FREE). -/
def State.spareFree (s : State) (cls plot index : Nat) : Bool :=
  match cls with
  | 0 => if index = 1 ∨ index = 2 then s.btpSpare plot index else s.btpSpare plot 1 || s.btpSpare plot 2
  | 1 => s.bedSpare plot
  | 3 => (s.macroFree plot index false).isSome || (s.macroFree plot index true).isSome
  | 5 => s.thrSpare.isSome
  | 6 => s.laneSpare.isSome
  | 7 => !s.flag pgPsf (0x110 + 4 * (index / 16)) 3 && !(s.unit 7 0 (8 + index / 16 * 16)).permanent
  | 8 => decide (s.ddr.taken < s.ddr.pool)
  | _ => false

/-- A spare class is used up (R395). -/
def State.spareOut (s : State) : State := { s with flt := { s.flt with exhausted := true } }.raise pgFlt 12 none

/-- A spare that fails while it stands idle is lost (03 R91, R395). -/
def State.loseSpare (s : State) (cls plot index : Nat) : State :=
  (s.modUnit cls plot index fun u => { u with spareLost := true }).spareOut

/-! ### Repairs (R393 to R395, R399) -/

/-- A repair joins the queue, in the order judged, unless it stands there already. -/
def State.enqueue (s : State) (r : Repair) : State :=
  if s.flt.queue.any fun q => decide ({ q with kind := 0, retiring := false } = { r with kind := 0, retiring := false }) then s
  else { s with flt := { s.flt with queue := s.flt.queue ++ [r] } }

/-- The Prune of a Plot joins the queue. -/
def State.prunePlan (s : State) (n kind : Nat) : State :=
  if s.pruned n then s else s.enqueue { cls := 10, plot := n, kind := kind, prune := true }

/-- A unit is judged permanent: its record with ACTION 3, the event, the count (R391, R393 order 1). -/
def State.judged (s : State) (r : FltRec) : State :=
  (((s.modUnit r.cls r.plot r.index fun u => { u with permanent := true }).fltLog { r with action := 3 }).bump pgFlt 0x58
    (r.ctx.map s.partOf)).raise pgFlt 8 (r.ctx.map s.partOf)

/-- A Bed is judged permanent: it is Pruned, and where it serves the spare Bed takes its position, or the Plot is Pruned (01 R15, 05 R138,
R395). -/
def State.planBed (s : State) (n b kind : Nat) : State :=
  if b = 16 then
    if s.flag (pgBed n 16) 0x100 4 then s.prunePlan n kind else s.loseSpare 1 n 16
  else if s.flag (pgBed n b) 0x100 4 then
    if s.bedSpare n then s.enqueue { cls := 1, plot := n, index := b, kind := kind } else s.prunePlan n kind
  else if (s.bed n b).pruned then s
  else s.enqueue { cls := 1, plot := n, index := b, kind := kind }

/-- The remedy of a localisation (03 R91). -/
def State.planBtp (s : State) (n : Nat) : State :=
  let b := (s.btp n)
  let row (x : Nat) (other : State) : State :=
    if s.btpSpare n 1 then s.enqueue { cls := 0, plot := n, detail := x, kind := 10 } else other
  let col (x : Nat) : State :=
    if s.btpSpare n 2 then s.enqueue { cls := 0, plot := n, detail := 512 + x, kind := 10 } else s.prunePlan n 10
  let spare (which : Nat) : State :=
    if s.flag (pgBtp n) 0x100 (16 * (which - 1)) then s.prunePlan n 10 else s.loseSpare 0 n which
  match b.kind with
  | 1 => if b.locRow = 256 then spare 1 else if b.locCol = 256 then spare 2 else row b.locRow (col b.locCol)
  | 2 => if b.locRow = 256 then spare 1 else row b.locRow (s.prunePlan n 10)
  | 3 => if b.locCol = 256 then spare 2 else col b.locCol
  | 4 => row 257 (s.prunePlan n 10)
  | 5 => col 257
  | 6 => s.prunePlan n 10
  | _ => s

/-- What a permanent failure is answered with, by class. A store row's `addr` is its row, and a column's target stands in `detail` + 4096
(06 R155); a DRAM row's page follows from its address (18 R449). -/
def State.plan (s : State) (r : FltRec) (column : Option Nat) : State :=
  match r.cls with
  | 0 => s.planBtp r.plot
  | 1 => s.planBed r.plot r.index r.kind
  | 2 => s.prunePlan r.plot r.kind
  | 3 =>
    match column, s.macroFree r.plot r.index column.isSome with
    | some c, some _ => s.enqueue { cls := 3, plot := r.plot, index := r.index, detail := 4096 + c, kind := r.kind }
    | none, some _ =>
      s.enqueue { cls := 3, plot := r.plot, index := r.index, detail := macroRow (macroStore r.index) r.addr, kind := r.kind }
    | _, none => s.prunePlan r.plot r.kind
  | 4 => s.prunePlan r.plot r.kind
  | 5 =>
    if s.unitServes r.index then s.enqueue { cls := 5, index := r.index, kind := r.kind }
    else s.loseSpare 5 0 r.index
  | 6 =>
    if (List.range 16).any fun k => decide (physLane s.gate.act k = r.index) then
      s.enqueue { cls := 6, index := r.index, kind := r.kind }
    else if s.laneSpare.isNone then s.spareOut else s
  | 7 => if r.index % 16 = 8 ∧ ¬ s.flag pgPsf (0x110 + 4 * (r.index / 16)) 3 then s.spareOut
    else s.enqueue { cls := 7, index := r.index, kind := r.kind }
  | 8 => s.enqueue { cls := 8, index := r.index, detail := r.addr / 1024, kind := r.kind }
  | 10 => s.prunePlan r.plot r.kind
  | _ => { s with flt := { s.flt with recoverOwed := true } }

/-- Words and pages by which a Graft is staged; none where the unit above it is Pruned or derated instead (R393 order 2). -/
def State.repairWords (s : State) (r : Repair) : Option (List Page × List (Nat × Nat)) :=
  let w (p : Page) (off x : Nat) : Nat × Nat := (regAddr p off, x)
  let cur (p : Page) (off : Nat) : Nat := (actW s.gate.act (regAddr p off)).toNat
  match r.cls with
  | 0 =>
    let p := pgBtp r.plot
    let x := cur p 0x100
    if s.btpSpare r.plot (if r.detail < 512 then 1 else 2) = false then none
    else some ([p], [w p 0x100 (if r.detail < 512 then withField (withField x 0 1 1) 1 9 r.detail
      else withField (withField x 16 1 1) 17 9 (r.detail - 512))])
  | 1 =>
    let a := pgBed r.plot r.index
    let b := pgBed r.plot 16
    if s.flag a 0x100 4 = false then some ([a], [w a 0x100 (withField (cur a 0x100) 4 1 0)])
    else if s.bedSpare r.plot = false then none
    else some ([a, b], [w a 0x100 (withField (cur a 0x100) 4 1 0),
      w b 0x100 (withField (withField (cur b 0x100) 0 4 (fieldOf (cur a 0x100) 0 4)) 4 1 1)])
  | 3 =>
    let p := pgSto r.plot
    (s.macroFree r.plot r.index (decide (4096 ≤ r.detail))).map fun k =>
      ([p], [w p 0x120 (r.index + 2 ^ 7 * k + 2 ^ 9 + 2 ^ 10 * (r.detail % 4096))])
  | 5 =>
    match (List.range 4).find? fun k => s.flag pgThr 0x100 (12 + k) && decide (s.cfg pgThr 0x100 (3 * k) 3 = r.index) with
    | none => none
    | some k =>
      let x := cur pgThr 0x100
      some ([pgThr], [w pgThr 0x100 (match s.thrSpare with
        | some u => withField x (3 * k) 3 u
        | none => withField x (12 + k) 1 0)])
  | 6 =>
    match (List.range 16).find? fun k => decide (physLane s.gate.act k = r.index), s.laneSpare with
    | some k, some l =>
      let off := 0x110 + 4 * (k / 4)
      some ([pgTrn], [w pgTrn off (withField (cur pgTrn off) (8 * (k % 4)) 5 l)])
    | _, _ => none
  | 7 =>
    let off := 0x110 + 4 * (r.index / 16)
    if s.flag pgPsf off 3 then none else some ([pgPsf], [w pgPsf off (r.index % 16 + 8)])
  | 8 => some ([pgDdr], [w pgDdr 0x120 (r.detail % 2 ^ 20 + 2 ^ 20)])
  | _ => none

/-- The repair boundary: the next slot boundary of numerology 0, or the moment itself while the grid is stopped (R393). -/
def State.repairInstant (s : State) : Instant :=
  if s.gridEn then .time (s.slotStart 0 (s.slotCount 0 s.sdl.dev + 1)).toNat else .now

/-- DETAIL of a repair's record in the Almanac's repair map (log 75). -/
def Repair.almanac (r : Repair) : Nat :=
  r.cls + 2 ^ 4 * r.plot + 2 ^ 7 * r.index + 2 ^ 16 * r.detail + 2 ^ 48 * bit r.prune

/-- The record of a repair. -/
def Repair.fltRec (r : Repair) (action : Nat) : FltRec :=
  { kind := r.kind, action := action, cls := r.cls, plot := r.plot, index := r.index }

/-- A failure that no spare answers: the Plot is Pruned, the port derates or is lost, or the page stays as it is (R395). -/
def State.derate (s : State) (r : Repair) : State :=
  match r.cls with
  | 6 =>
    match (List.range 16).find? fun k => decide (physLane s.gate.act k = r.index) with
    | some k =>
      ((List.range 16).foldl (fun t p => if k ∈ portLanes s.gate.act p then (t.setPort p false).setCal p false else t) s).spareOut
    | none => s
  | 7 =>
    let east := decide (r.index < 16)
    ((((s.retrain east).modPort east fun p => { p with x4 := true }).raise pgPsf 14 none).spareOut.raise pgFlt 11 none).platform 2
      [s.flt.pruned]
  | 5 => s
  | 8 => s.spareOut
  | _ => s.prunePlan r.plot r.kind

/-- The fault block stages the repair at the head of its queue: a Graft as a commit of channel 9 at the repair boundary, a Plot Prune by an
apply that marks the Plot RETIRING (R393, R399). It waits while channel 9 has a commit in flight. -/
def State.stageRepair (s : State) : Nat → State
  | 0 => s
  | k + 1 =>
    match s.flt.queue with
    | [] => s
    | r :: rest =>
      if r.prune then
        if r.retiring then s
        else
          let head : Repair := { r with retiring := true }
          let f := s.flt
          let s1 := { s with flt := { f with queue := head :: rest, retiring := Nat.lor f.retiring (2 ^ r.plot) } }
          s1.fltLog (r.fltRec 4)
      else if (s.chan 9).flight ≠ [] ∨ s.flt.retryAt.isSome then s
      else
        match s.repairWords r with
        | none =>
          let s1 := (s.derate r).fltLog (r.fltRec 7)
          let s2 := { s1 with flt := { s1.flt with queue := s1.flt.queue.tail } }
          s2.stageRepair k
        | some (pages, words) =>
          let s1 := s.modChan 9 fun c => words.foldl (fun c w => (c.stage w.1 (BitVec.ofNat 32 w.2)).1) c
          let s2 := s1.beginCommit 9 (pages.map pageNo) s.repairInstant true
          ((s2.cmtCount .gk 0x40).fltLog (r.fltRec 4))

/-- Stage what can be staged. -/
def State.stageRepairs (s : State) : State := s.stageRepair (s.flt.queue.length + 1)

/-! ### Judgement (R391, R392) -/

/-- The window of R392, in uses. -/
def faultWindow : Nat := 10 ^ 6

/-- Whether a fault at use count `n` is the third within the window, by the counts of the faults before it, newest first. -/
def thirdFault (n : Nat) (before : List Nat) : Bool :=
  match before with
  | _ :: b :: _ => decide (n - b ≤ faultWindow)
  | _ => false

/-- Whether a record is a fault of its unit, and not the outcome of a retry of one already counted (R391). -/
def recFault (r : FltRec) : Bool :=
  decide (r.kind = 7) ||
    match r.cls with
    | 0 => decide (r.kind = 2 ∨ r.kind = 3)
    | 1 => decide (r.kind = 4 ∨ (r.kind = 1 ∧ r.action = 8))
    | 3 => decide ((r.kind = 0 ∧ r.action = 0) ∨ (r.kind = 1 ∧ r.action = 8))
    | 5 => decide (r.kind = 5)
    | 6 => decide (r.kind = 6)
    | 7 => decide (r.kind = 6)
    | 8 => decide ((r.kind = 0 ∧ r.action = 0) ∨ (r.kind = 1 ∧ r.action = 8))
    | _ => false

/-- Whether three faults in the window make a class permanent (R391). -/
def windowRule (cls : Nat) : Bool := decide (cls ≠ 0 ∧ cls ≠ 3)

/-- Bit positions of a macro's rows in which a corrected codeword was in error (06 R155). -/
def recColumns (r : FltRec) : List Nat :=
  ((List.range 144).filter fun b => decide (fieldOf r.bits b 1 = 1)).map fun b => 144 * fieldOf r.detail 24 2 + b

/-- No faults before. -/
def noFaults (_ : Nat) : List Nat := []

/-- A fault enters its unit's history; whether it is the third of the window. Rows keep histories of their own. -/
def State.noteFault (s : State) (r : FltRec) : State × Bool :=
  let u := s.unit r.cls r.plot r.index
  if (r.cls = 3 ∨ r.cls = 8) ∧ r.kind ≠ 7 then
    let before := SMap.get noFaults u.rows r.addr
    (s.modUnit r.cls r.plot r.index fun x => { x with rows := SMap.put noFaults x.rows r.addr ((u.uses :: before).take 3) },
      thirdFault u.uses before)
  else
    (s.modUnit r.cls r.plot r.index fun x => { x with faults := (u.uses :: u.faults).take 3 }, thirdFault u.uses u.faults)

/-- Errors of a store row's bit positions: the first position already seen in another row of the macro, and the state that
remembers them (R391). -/
def State.noteColumns (s : State) (r : FltRec) : State × Option Nat :=
  if r.cls = 3 ∧ r.kind = 0 ∧ r.action = 0 then
    let u := s.unit 3 r.plot r.index
    let hit := (recColumns r).find? fun b =>
      let x := SMap.get zeroUnlisted u.cols b
      decide (x ≠ 0 ∧ x ≠ r.addr + 1)
    let cols := (recColumns r).foldl
      (fun m b => if SMap.get zeroUnlisted m b = 0 then SMap.put zeroUnlisted m b (r.addr + 1) else m) u.cols
    (s.modUnit 3 r.plot r.index fun x => { x with cols := cols }, hit)
  else (s, none)

/-- Whether a unit has been judged permanent already; rows and pages are judged one by one. -/
def State.known (s : State) (r : FltRec) : Bool :=
  decide (r.cls ≠ 3 ∧ r.cls ≠ 8 ∧ r.cls ≠ 0) && (s.unit r.cls r.plot r.index).permanent

/-- The fault block takes a record: it is logged and counted, the unit's history grows, and the unit is judged (R384, R391). -/
def State.faultTake (s : State) (r : FltRec) : State :=
  let part := r.ctx.map s.partOf
  let s1 := s.fltLog r
  let s2 :=
    if r.kind = 0 ∧ r.action = 0 then s1.bump pgFlt 0x40 part
    else if r.kind = 1 ∧ r.action = 8 then s1.bump pgFlt 0x48 part
    else if r.action = 1 then s1.bump pgFlt 0x50 part
    else s1
  let h := if recFault r then s2.noteFault r else (s2, false)
  let c := h.1.noteColumns r
  let s3 := c.1
  let s4 := if r.cls = 0 ∧ h.2 then s3.stageLocalise r.plot else s3
  let failed := decide (r.action = 2) && decide (r.cls ≠ 0 ∨ r.kind = 10)
  if s.known r ∨ s.pruned r.plot ∧ (r.cls ≤ 4 ∨ r.cls = 10) then s4
  else if failed ∨ r.perm ∨ (windowRule r.cls ∧ h.2) then (s4.judged r).plan r none
  else match c.2 with
    | some b => (s4.judged r).plan r (some b)
    | none => s4

/-- FAULT_RECORD (R384, R391): the oldest record on its way reaches the fault block; a unit that has no reporting path of its own in this
model brings its record as an operand. -/
def execFaultRecord (r : Option FltRec) (t : Nat) (s : State) : Host.Outcome State Fault Refusal :=
  .next (s.liveApply fun s0 =>
    let s := s0.advance t
    match r, s.flt.inbox with
    | some x, _ => (s.faultTake x).stageRepairs
    | none, x :: rest => ({ s with flt := { s.flt with inbox := rest } }.faultTake x).stageRepairs
    | none, [] => s)

/-- LANE_ERR_INTERVAL (R391): a 1 ms interval of a lane ends, with its symbol errors, whether lock was lost, and whether for more than
100 µs. A ring lane's index is its number, and 16 more for the west port (log 76). -/
def execLaneErrInterval (ring : Bool) (lane : Fin 32) (errs : Nat) (lost long : Bool) (t : Nat) (s : State) :
    Host.Outcome State Fault Refusal :=
  .next (s.live fun s0 =>
    let s := s0.advance t
    let cls := if ring then 7 else 6
    let s1 := s.use cls 0 lane.val 1
    if (ring = false ∧ 18 ≤ lane.val) ∨ (ring = true ∧ 8 < lane.val % 16) then s
    else if s.cfg pgFlt 0x100 0 10 < errs ∨ lost = true ∨ long = true then
      s1.toFlt { kind := 6, action := 8, cls := cls, index := lane.val, perm := long }
    else s1)

/-! ### Repairs take effect (R393, R399) -/

/-- Whether a unit serves a position in a map of active values (10 R269). -/
def servesIn (m : SMap Word) (u : Nat) : Bool :=
  (List.range 4).any fun k => decide (cfg m pgThr 0x100 (12 + k) 1 = 1 ∧ cfg m pgThr 0x100 (3 * k) 3 = u)

/-- Capacity has changed (R400): the event, a record through the hub, and a platform event. -/
def State.capacity (s : State) : State :=
  ((s.raise pgFlt 11 none).record pgFlt 33 [s.flt.pruned]).platform 2 [s.flt.pruned]

/-- The repair at the head of the queue is done, and is written to the Almanac (R393 order 6). -/
def State.repairDone (s : State) (r : Repair) (almOk : Bool) : State :=
  let s1 := { s with flt := { s.flt with queue := s.flt.queue.tail } }
  s1.almanac { start := 0, step := 0x10, outcome := 1, unit := r.index, detail := r.almanac } almOk

/-- A repair has applied, `a` being the configuration before it: the failed unit is Pruned, and the Grafted one scrubbed with its epoch
advanced. A Big Top's map, store spares, lanes and pages follow their own timing (R393, R394, R404). -/
def State.graftDone (s : State) (a : SMap Word) (r : Repair) (almOk : Bool) : State :=
  let fresh := (List.range 5).filter fun u => servesIn s.gate.act u && !servesIn a u
  let s1 := match r.cls with
    | 1 =>
      let t := s.modBed r.plot r.index fun b => { b with pruned := true }
      if Machine.cfg a (pgBed r.plot r.index) 0x100 4 1 = 1 then t.scrubBedUnit (plotFin r.plot) 16 else t
    | 5 => fresh.foldl (fun t u => t.advanceEpoch 5 0 u) (s.modUnit 5 0 r.index fun u => { u with pruned := true })
    | _ => s
  let s2 := if r.cls = 5 ∧ fresh = [] then (((s1.bump pgFlt 0x68 none).raise pgFlt 10 none).fltLog (r.fltRec 6)).capacity
    else ((s1.bump pgFlt 0x60 none).raise pgFlt 9 none).fltLog (r.fltRec 5)
  s2.repairDone r almOk

/-- REPAIR_APPLY (R393): at the repair boundary the staged repair applies, or fails its re-check and waits to be issued again;
`almOk` says whether the Almanac takes the record. -/
def execRepairApply (almOk : Bool) (t : Nat) (s : State) : Host.Outcome State Fault Refusal :=
  .next (s.live fun s0 =>
    let s := (s0.advance t).fireHooks
    match s.flt.queue, (s.chan 9).flight with
    | r :: _, c :: _ =>
      if c.repair ∧ c.due ∧ ¬ c.checking then
        let s1 := s.applyDue fun c => c.repair
        if (s1.chan 9).state = .applied then ((s1.graftDone s.gate.act r almOk).noteApply s1).stageRepairs else s1
      else s
    | _, _ => s)

/-- FAULT_COMMIT_RETRY (21 R502): the failed commit is issued again, at the repair boundary that then follows. -/
def execFaultCommitRetry (t : Nat) (s : State) : Host.Outcome State Fault Refusal :=
  .next (s.live fun s0 =>
    let s := s0.advance t
    match s.flt.retryAt with
    | some x => if x ≤ s.sdl.ref then { s with flt := { s.flt with retryAt := none } }.stageRepairs else s
    | none => s)

/-- A Plot is Pruned: its domains power off, its windows become FREE, HELD ones included, what it holds is lost, and requests of its
Irrigator are reclaimed (R399). -/
def State.prunePlot (s : State) (n : Fin 8) : State :=
  let k := n.val
  let l := s.irg.requests.filter fun (r : Request) => decide (r.irg = k)
  let s1 := (l.foldl State.reclaim s).modIrg k fun _ => {}
  let s2 := ((l.map (·.pool)).eraseDups).foldl State.grantWaiting s1
  let s3 := ((List.range 32).filter fun e => winEn s2.gate.act k e).foldl
    (fun t e => t.actPut (pgSto k) (winOff e) (withField (actW t.gate.act (regAddr (pgSto k) (winOff e))).toNat 0 1 0)) s2
  let s4 := (s3.scrubStores k).modPlot k fun _ => {}
  let s5 := (List.finRange 17).foldl (fun t b => (t.scrubBed n b).modBed k b.val fun x => { x with pruned := true }) s4
  let s6 := (List.range 5).foldl
    (fun t d =>
      let i := 5 * k + d
      let off := 0x110 + 4 * (i / 16)
      (t.actPut pgPwr off (withField (actW t.gate.act (regAddr pgPwr off)).toNat (2 * (i % 16)) 2 0)).setDom i 0) s5
  { s6 with
    pwr := { s6.pwr with switching := s6.pwr.switching.filter fun e => decide (e.1 / 5 ≠ k ∨ 40 ≤ e.1) }
    flt := { s6.flt with
      pruned := Nat.lor s6.flt.pruned (2 ^ k)
      retiring := withField s6.flt.retiring k 1 0
      queue := s6.flt.queue.filter fun q => decide (q.prune ∨ q.plot ≠ k ∨ 4 < q.cls) } }

/-- PLOT_PRUNE (R399): no step that uses the RETIRING Plot is in flight. -/
def execPlotPrune (plot : Plot) (almOk : Bool) (t : Nat) (s : State) : Host.Outcome State Fault Refusal :=
  .next (s.liveApply fun s0 =>
    let s := s0.advance t
    match s.flt.queue with
    | r :: _ =>
      if r.prune ∧ r.retiring ∧ r.plot = plot.val ∧ s.plotUsers plot.val = [] then
        let s1 := s.prunePlot plot
        let s2 := (((s1.bump pgFlt 0x68 none).raise pgFlt 10 none).fltLog (r.fltRec 6)).capacity
        (s2.repairDone r almOk).stageRepairs
      else s
    | [] => s)

/-! ### Aging (R397, R398) -/

/-- Monitors of a Plot. -/
def plotMonitors : Nat := 24

/-- The unit that a monitor judges: 24 to a Plot, then one for each Thresher unit (R397, R398). -/
def monitorUnit (k : Nat) : FltRec :=
  if 192 ≤ k then { kind := 9, action := 8, cls := 5, index := k - 192, perm := true }
  else if k % 24 ≤ 16 then { kind := 9, action := 8, cls := 1, plot := k / 24, index := k % 24, perm := true }
  else { kind := 9, action := 8, cls := 10, plot := k / 24, perm := true }

/-- AGING_MARGIN_LOW (R398): a monitor, 24 × Plot + its number, or 192 + Thresher unit, reports its margin in 0.1%. -/
def execAgingMarginLow (monitor : Fin 197) (margin : Fin 256) (almOk : Bool) (t : Nat) (s : State) : Host.Outcome State Fault Refusal :=
  .next (s.liveApply fun s0 =>
    let a := s0.advance t
    let k := monitor.val
    let s := { a with pwr := if k < 192 then
        { a.pwr with age := SMap.put ageUnlisted a.pwr.age (k / 24 * 32 + k % 24) margin.val }
      else { a.pwr with ageThr := SMap.put ageUnlisted a.pwr.ageThr (k - 192) margin.val } }
    let since := match s.flt.floorAt with
      | none => true
      | some x => decide (x + 10 ^ 9 * nsRef ≤ s.sdl.ref)
    if margin.val < s.cfg pgFlt 0x100 18 8 ∧ 850 ≤ s.flt.floor then
      let r := monitorUnit k
      if s.known r ∨ (r.cls ≠ 5 ∧ s.pruned r.plot = true) then s else ((s.judged r).plan r none).stageRepairs
    else if margin.val < s.cfg pgFlt 0x100 10 8 ∧ s.flt.floor < 850 ∧ since = true then
      let f := min 850 (s.flt.floor + 10)
      ({ s with flt := { s.flt with floor := f, floorAt := some s.sdl.ref } }.raise pgFlt 13 none).almanac
        { start := 0, step := 0x11, outcome := 1, detail := f } almOk
    else s)

/-! ### Limits and escalation (R401, R402) -/

/-- HANDSHAKE_TIMEOUT (R401, R392): a hand-off of a unit stalls for 500 ns; it completes poisoned, and the unit's own check path
follows by its own commands; where that fails, the context faults with cause 0x18. -/
def execHandshakeTimeout (cls : Fin 10) (plot : Plot) (index : Fin 256) (c : Option Ctx) (recovered : Bool) (t : Nat) (s : State) :
    Host.Outcome State Fault Refusal :=
  .next (s.live fun s0 =>
    let s := s0.advance t
    let ctx := c.map (·.val)
    let s1 := ((s.bump pgFlt 0x70 (ctx.map s.partOf))).toFlt
      { kind := 7, action := 8, cls := cls.val, plot := plot.val, index := index.val, ctx := ctx }
    match ctx with
    | some k => if recovered then s1 else s1.faultCtx k 0x18
    | none => s1)

/-- Since when a partition's teardowns or disable sequence have run. -/
def State.partStuck (s : State) (p : Nat) : Option Nat :=
  let x := SMap.get partUnlisted s.sec.parts p
  let seq := if x.st = .closing ∨ x.st = .scrubbing then [x.since] else []
  let tear := ((List.range 64).filter fun c => decide (s.partOf c = p) && (s.ctx c).tearing).map fun c => (s.ctx c).tearAt
  (seq ++ tear).foldl (fun a t => some (min t (a.getD t))) none

/-- The partition limit, in units of 2^−16 ns: 100 ms, and 60 ms for each GiB of carried and spill area beyond the first. -/
def State.partLimit (s : State) (p : Nat) : Nat :=
  let bytes := (((List.range 64).filter fun c => ctxEn s.gate.act c && decide (s.partOf c = p)).flatMap s.contextAreas).foldl
    (fun a x => a + x.2) 0
  (10 ^ 8 + (bytes - 2 ^ 30) * (6 * 10 ^ 7) / 2 ^ 30) * nsRef

/-- A partition reset (R402): a Plot reset of its Plots, its tags reclaimed, its areas zeroed unless they are held. -/
def State.partitionReset (s : State) (p : Nat) : State :=
  let s1 := ((List.range 8).filter fun n => decide (Machine.plotPart s.gate.act n = some p)).foldl State.plotReset s
  let l := s1.irg.requests.filter fun (r : Request) => decide (s.partOf r.ctx = p)
  let s2 := ((l.map (·.pool)).eraseDups).foldl State.grantWaiting (l.foldl State.reclaim s1)
  let cs := (List.range 64).filter fun c => ctxEn s.gate.act c && decide (s.partOf c = p)
  let s3 := (cs.flatMap s.contextAreas).foldl
    (fun t a => if t.sec.fences.any fun f => decide (f.base = a.1) && !f.zeroing then t else t.zeroBytes a.1 a.2) s2
  let s4 := { s3 with sec := { s3.sec with
    parts := SMap.modify partUnlisted s3.sec.parts p fun x => { x with resetAt := some s.sdl.ref } } }
  ((s4.bump pgFlt 0x80 (some p)).raise pgFlt 14 (some p)).fltLog { kind := 8, action := 7, cls := 9, detail := 6 }

/-- PARTITION_TIMEOUT (R402). -/
def execPartitionTimeout (p : Part) (t : Nat) (s : State) : Host.Outcome State Fault Refusal :=
  .next (s.liveApply fun s0 =>
    let s := s0.advance t
    match s.partStuck p.val with
    | none => s
    | some since =>
      let again := match (SMap.get partUnlisted s.sec.parts p.val).resetAt with
        | none => true
        | some x => decide (x < since)
      if since + s.partLimit p.val < s.sdl.ref ∧ again = true then s.partitionReset p.val else s)

/-- FLT_UNIT_Q (R412). -/
def execFltUnitQ (v : View) (x : Word) (s : State) : Host.Outcome State Fault Refusal :=
  .next (s.live fun s =>
    s.commanded v pgFlt (!isVf v) fun s =>
      { s with flt := { s.flt with query := SMap.put zeroUnlisted s.flt.query v.no (x.toNat % 2 ^ 15) } })

end Sys2Proof.Machine
end

