-- ==== Sys2Proof/Machine/Power.lean ====
section
/-!
DEFINITION. Power (19 R455 to R464) and pace (01 R23, R24): the pace monitors, the voltage loop, the throttle level, the thermal trip,
power domains, the Plot reset and the temperature query.
-/

namespace Sys2Proof.Machine

open Sys2Proof

/-- The pace and aging page of a Plot. -/
def pgPace (n : Nat) : Page := ⟨.pace, n⟩

/-! ### Pace (01 R23) -/

/-- Whether a Plot's pace monitor runs: its store domain is ON (R454). -/
def State.monitorOn (s : State) (n : Nat) : Bool := decide (s.domState (5 * n + 4) = 1)

/-- A pace record of a Plot is posted through the hub: Tightrope and the voltage loop keep it. -/
def State.paceRecord (s : State) (n count : Nat) : State :=
  let s1 := s.record (pgPace n) 32 [n, count]
  { s1 with
    rms := { s1.rms with
      pace := SMap.put zeroUnlisted s1.rms.pace n count
      paceAt := SMap.put zeroUnlisted s1.rms.paceAt n (s1.sdl.ref + 1) } }

/-- PACE_WINDOW_END (01 R23): a window of 1.000 µs ends with `count` steps. A record follows every fourth window, and at once below
the floor. -/
def execPaceWindowEnd (plot : Plot) (count t : Nat) (s : State) : Host.Outcome State Fault Refusal :=
  .next (s.live fun s0 =>
    let s := s0.advance t
    let n := plot.val
    if s.monitorOn n then
      let old := SMap.get zeroUnlisted s.pwr.paceMin n
      let k := SMap.get zeroUnlisted s.pwr.paceWin n + 1
      let s1 := { s with pwr := { s.pwr with
        paceNow := SMap.put zeroUnlisted s.pwr.paceNow n count
        paceMin := SMap.put zeroUnlisted s.pwr.paceMin n (if old = 0 then count + 1 else min old (count + 1))
        paceWin := SMap.put zeroUnlisted s.pwr.paceWin n (k % 4) } }
      let low := decide (count < s.cfg (pgPace n) 0x100 0 11)
      let s2 := if low then s1.raise (pgPace n) 8 (s.plotPart n) else s1
      if low ∨ 4 ≤ k then s2.paceRecord n count else s2
    else s)

/-! ### The voltage loop (R457 to R459) -/

/-- Whether the loop acts: started, its regulator answering, and Groundskeeper's core running (20 R483). -/
def State.loopRuns (s : State) : Bool := s.pwr.loop && s.pwr.vrOk && !s.hub.gkHalted

/-- A PMBus transaction fails once more; the third failure in a row suspends the loop (R459). -/
def State.vrFailed (s : State) : State :=
  let s1 := { s with pwr := { s.pwr with pmbFails := s.pwr.pmbFails + 1 } }
  if s1.pwr.pmbFails < 3 then s1
  else ({ s1 with pwr := { s1.pwr with vrOk := false } }.raise pgPwr 9 none).bump pgPwr 0x58 none

/-- VOUT_COMMAND to `mv`: a step of 5 mV of the loop (R457, R458; the command code is PMBus's, log 77). -/
def State.vout (s : State) (ok : Bool) (mv : Nat) (f : Pwr → Pwr) : State :=
  if ok then
    ({ s with pwr := { f s.pwr with vcore := mv, pmbFails := 0 } }.emit (Sent.pmbus 0x21 mv)).bump pgPwr 0x40 none
  else s.vrFailed

/-- Plots whose pace records the loop compares: in service, with a record (R458). -/
def State.pacedPlots (s : State) : List Nat :=
  (List.range 8).filter fun n => !s.pruned n && decide (fieldOf s.pwr.plotsOut n 1 = 0) && s.monitorOn n &&
    decide (SMap.get zeroUnlisted s.rms.paceAt n ≠ 0)

/-- The lowest count in the latest pace records. -/
def State.lowestPace (s : State) : Option Nat :=
  s.pacedPlots.foldl (fun a n => some (min (SMap.get zeroUnlisted s.rms.pace n) (a.getD (2 ^ 11)))) none

/-- The floor of VCORE in mV (R458). -/
def State.vFloor (s : State) : Nat := max 650 s.flt.floor

/-- Whether at least `us` microseconds have passed since a time, if there was one. -/
def State.since (s : State) (x : Option Nat) (us : Nat) : Bool :=
  match x with
  | none => true
  | some a => decide (a + us * usRef ≤ s.sdl.ref)

/-- The target T of R458, in hundredths of a step per µs: at throttle level 4 it has no margin (R462). -/
def State.paceTarget (s : State) : Nat := s.cfg pgPwr 0x100 0 11 * (if s.level = 4 then 100 else 103)

/-- One evaluation of the loop (R458). -/
def State.loopEval (s : State) (ok : Bool) : State :=
  let t := s.paceTarget
  let v := s.pwr.vcore
  let calm (s : State) : State := { s with pwr := { s.pwr with short := false } }
  let raise (s : State) : State :=
    if s.since s.pwr.raisedAt 20 then s.vout ok (min 850 (v + 5)) fun p => { p with raisedAt := some s.sdl.ref } else s
  let quiet (s : State) : State := { s with pwr := { s.pwr with highSince := none } }
  if v < s.vFloor then raise (quiet s)
  else match s.lowestPace with
    | none => quiet (calm s)
    | some low =>
      if 100 * low < t then
        if v < 850 then raise (quiet (calm s))
        else if s.pwr.short then quiet s
        else (({ quiet s with pwr := { (quiet s).pwr with short := true } }).raise pgPwr 10 none).bump pgPwr 0x48 none
      else if t * 103 < 10000 * low then
        match s.pwr.highSince with
        | none => { calm s with pwr := { (calm s).pwr with highSince := some s.sdl.ref } }
        | some h =>
          if s.vFloor < v ∧ h + 1000 * usRef ≤ s.sdl.ref ∧ s.since s.pwr.loweredAt 1000 then
            (calm s).vout ok (max s.vFloor (v - 5)) fun p => { p with loweredAt := some s.sdl.ref }
          else calm s
      else quiet (calm s)

/-- VOLTAGE_LOOP_EVAL (R458): every 20 µs; `ok` says whether the regulator takes a command that the evaluation gives. -/
def execVoltageLoopEval (ok : Bool) (t : Nat) (s : State) : Host.Outcome State Fault Refusal :=
  .next (s.live fun s0 =>
    let s := s0.advance t
    if s.loopRuns then s.loopEval ok else s)

/-- VR_TELEMETRY_POLL (R457): READ_VOUT, READ_IOUT and READ_TEMPERATURE_1. -/
def execVrTelemetryPoll (ok : Bool) (vout iout : Nat) (temp : Int) (t : Nat) (s : State) : Host.Outcome State Fault Refusal :=
  .next (s.live fun s0 =>
    let s := s0.advance t
    if !s.loopRuns then s
    else if !ok then s.vrFailed
    else
      (((({ s with pwr := { s.pwr with iout := iout, pmbFails := 0 } }).emit (Sent.pmbus 0x8B vout)).emit (Sent.pmbus 0x8C iout)).emit
        (Sent.pmbus 0x8D (unsignedOf 16 temp))))

/-- VR_RETRY (R459): the loop resumes at the first success. -/
def execVrRetry (ok : Bool) (t : Nat) (s : State) : Host.Outcome State Fault Refusal :=
  .next (s.live fun s0 =>
    let s := s0.advance t
    if s.pwr.loop ∧ s.pwr.vrOk = false ∧ s.hub.gkHalted = false ∧ ok = true then
      { s with pwr := { s.pwr with vrOk := true, pmbFails := 0 } }
    else s)

/-- PMB_ALERT (R457): Groundskeeper reads STATUS_WORD. -/
def execPmbAlert (ok : Bool) (status t : Nat) (s : State) : Host.Outcome State Fault Refusal :=
  .next (s.live fun s0 =>
    let s := s0.advance t
    if !s.loopRuns then s
    else if ok then { s with pwr := { s.pwr with pmbFails := 0 } }.emit (Sent.pmbus 0x79 status)
    else s.vrFailed)

/-! ### Thermal and power limits (R462 to R464) -/

/-- Thresholds of levels 1 to 4 and of the trip, in °C (R462). -/
def thermalAt (k : Nat) : Nat :=
  (([92, 95, 98, 100, 110] : List Nat).getD (k - 1) 0) + (if Config.extended then 5 else 0)

/-- The thermal level that follows `cur` at a temperature in 0.25 °C, each level leaving 3 °C below its threshold (R462). -/
def thermalLevel (cur : Nat) (tj : Int) : Nat :=
  ((List.range 4).filter fun i =>
    let th : Int := 4 * thermalAt (i + 1)
    decide (th ≤ tj ∨ (i + 1 ≤ cur ∧ th - 12 < tj))).foldl (fun a i => max a (i + 1)) 0

/-- THERMAL_SAMPLE (R462; 20 R477): the sensors, in 0.25 °C, and the rails, in mV. -/
def execThermalSample (temps : List Int) (volts : List Nat) (t : Nat) (s : State) : Host.Outcome State Fault Refusal :=
  .next (s.live fun s0 =>
    let s := s0.advance t
    let set (m : SMap Int) : SMap Int := temps.zipIdx.foldl (fun m e => SMap.put intUnlisted m e.2 e.1) m
    let raise (first : Bool) (m : SMap Int) : SMap Int :=
      temps.zipIdx.foldl (fun m e => SMap.put intUnlisted m e.2 (if first then e.1 else max e.1 (SMap.get intUnlisted m e.2))) m
    let first := decide (s.pwr.temp = [] ∧ s.pwr.tempMax = [])
    let tj := temps.foldl max (-2048)
    let s1 := { s with pwr := { s.pwr with
      temp := set s.pwr.temp
      tempMax := raise first s.pwr.tempMax
      tempRun := raise (decide (s.pwr.tempRun = [])) s.pwr.tempRun
      volts := volts } }
    if s1.hub.gkHalted then s1
    else { s1 with pwr := { s1.pwr with thermal := thermalLevel s1.pwr.thermal tj } }.relevel s1.level)

/-- POWER_WINDOW (R463): a window of 100 ms ends, with its mean input power and mean VCORE current. -/
def execPowerWindow (watts amps t : Nat) (s : State) : Host.Outcome State Fault Refusal :=
  .next (s.live fun s0 =>
    let s := s0.advance t
    let cap := s.cfg pgPwr 0x100 11 10
    let p := s.pwr.power
    let new := if cap < watts then min 3 (p + 1) else if 100 * watts < 95 * cap then p - 1 else p
    let s1 := { s with pwr := { s.pwr with meanW := watts, meanA := amps, tempWin := s.pwr.tempRun, tempRun := [] } }
    if s1.hub.gkHalted then s1
    else { s1 with pwr := { s1.pwr with power := new } }.relevel s1.level)

/-- THERMAL_TRIP (R464): a sensor has reached the trip threshold. -/
def execThermalTrip (sensor : Fin 24) (temp : Int) (almOk : Bool) (t : Nat) (s : State) : Host.Outcome State Fault Refusal :=
  .next (s.live fun s0 =>
    let s := s0.advance t
    if (4 * thermalAt 5 : Int) ≤ temp then
      let s1 := { s with
        tripped := true
        pwr := { s.pwr with temp := SMap.put intUnlisted s.pwr.temp sensor.val temp } }
      (s1.driveByp.emit (Sent.pin .thermtrip true)).almanac { start := 0, step := 0x13, outcome := 1, unit := sensor.val } almOk
    else s)

/-! ### Domains, Plot reset, query (R455, R466, R473) -/

/-- DOM_DONE (R455). -/
def execDomDone (t : Nat) (s : State) : Host.Outcome State Fault Refusal :=
  .next (s.liveApply fun s0 =>
    let s := s0.advance t
    if s.pwr.switching = [] then s else s.settleDoms.raise pgPwr 11 none)

/-- PLOT_RESET (R466): PWR_CMD OP 1. -/
def execPlotReset (v : View) (plot : Plot) (t : Nat) (s : State) : Host.Outcome State Fault Refusal :=
  .next (s.liveApply fun s0 =>
    (s0.advance t).commanded v pgPwr (!isVf v) fun s => s.plotReset plot.val)

/-- PWR_TEMP_Q (R473). -/
def execPwrTempQ (v : View) (x : Word) (s : State) : Host.Outcome State Fault Refusal :=
  .next (s.live fun s => s.written v fun s =>
    { s with pwr := { s.pwr with tempQ := SMap.put zeroUnlisted s.pwr.tempQ v.no (x.toNat % 32) } })

end Sys2Proof.Machine
end

