-- ==== Sys2Proof/Machine/Reset.lean ====
section
/-!
DEFINITION. Resets (19 R461, R465, R468), start-up (R467 to R472), device recovery and the restart of Groundskeeper (16 R403, 20 R475).
-/

namespace Sys2Proof.Machine

open Sys2Proof

/-! ### Groundskeeper's notices and restart (20 R475, R484) -/

/-- A notice arrives in the mailbox: the oldest of 16 is discarded for a seventeenth. -/
def State.notice (s : State) (code : Nat) : State :=
  let full := decide (16 ≤ s.gk.notices.length)
  { s with gk := { s.gk with
      notices := (if full then s.gk.notices.drop 1 else s.gk.notices) ++ [code]
      lost := s.gk.lost || full } }.raise pgGkp 9 none

/-- A mailbox command that is in progress ends with a code. -/
def State.mbEnd (s : State) (code : Nat) : State :=
  if s.gk.mb.isSome then
    { s with gk := { s.gk with mb := none, mbCode := code, mbLen := 0, mbLost := false } }.raise pgGkp 8 none
  else s

/-- The console login, if open, closes, and with it its debug session (20 R481). -/
def State.logout (s : State) : State :=
  if s.sec.console then { s with sec := { s.sec with console := false } }.debugEnd 2 0 else s

/-- Groundskeeper restarts: SPDM sessions and console logins end, and the data plane goes on (20 R475). -/
def State.gkRestart (s : State) : State :=
  let s1 := { s.logout with sec := { s.logout.sec with spdm := [], sessions := [] } }
  (((s1.mbEnd 3).bump pgGkp 0x48 none).raise pgGkp 10 none).notice 2

/-- GK_WATCHDOG_EXPIRY (16 R403): suspended while the core is halted (20 R483). -/
def execGkWatchdogExpiry (t : Nat) (s : State) : Host.Outcome State Fault Refusal :=
  .next (s.live fun s0 =>
    let s := s0.advance t
    if s.hub.gkHalted then s else s.gkRestart)

/-! ### What a reset clears and keeps (R465) -/

/-- Pages of the always-on domain: security, the fault block, Groundskeeper (R454). -/
def keptPage (no : Nat) : Bool := decide (no = pageNo pgSec ∨ no = pageNo pgFlt ∨ no = pageNo pgGkp)

/-- Entries of a map by register key that stand in the always-on domain. -/
def keptKeys {α : Type} (m : SMap α) : SMap α := m.filter fun e => keptPage (e.1 % 2 ^ 26 / 4096)

/-- The output pins at their levels in reset: FC low, BYP_OPEN low, PPS_OUT and SYNCE_OUT low as the reset values of their words have
them; at power-on reset only THERMTRIP_N is released and XSPI_RESET_N driven low (22 R524). -/
def State.pinsDown (s : State) (cold : Bool) : State :=
  let s1 := (List.range 4).foldl (fun t k => if fieldOf s.irg.fc k 1 = 1 then t.emit (Sent.pin (.fc k) false) else t) s
  let s2 := if s.pwr.bypOpen then s1.emit (Sent.pin .bypOpen false) else s1
  let sa := if s.sdl.ppsOut then s2.emit (Sent.pin .ppsOut false) else s2
  let sb := ([0, 1] : List Nat).foldl
    (fun t k => if t.flag pgSdl (0x260 + 4 * k) 6 then t.emit (Sent.pin (.synce k) false) else t) sa
  let s3 := if cold ∧ s.tripped then sb.emit (Sent.pin .thermtrip false) else sb
  if cold then s3.emit (Sent.pin .xspiReset false) else s3

/-- Everything cleared but flash: the Almanac, the variants that it keeps, and the images (R465). -/
def State.cold (s : State) : State :=
  let d := s.pinsDown true
  { d with
    held := true, tripped := false, mem := [], ecc := []
    hub := { out := d.hub.out }
    gate := {}, sdl := {}, plots := [], flt := {}, rms := {}, thr := {}, trn := {}, irg := {}, ring := {}, sec := {}, ddr := {}, beds := []
    pwr := {
      almanac := d.pwr.almanac, variants := d.pwr.variants, clean := d.pwr.clean, outRuns := d.pwr.outRuns, start := d.pwr.start
      perst := d.pwr.perst, railBad := d.pwr.railBad, porstHigh := d.pwr.porstHigh, step := 0 }
    gk := { activeSet := d.gk.layoutSet, layoutSet := d.gk.layoutSet, setSvn := d.gk.setSvn, gens := d.gk.gens
            invalid := if d.gk.update.isSome then SMap.put flagUnlisted d.gk.invalid (1 - d.gk.layoutSet) true else d.gk.invalid } }

/-- An update in progress ends: the inactive set is marked invalid (20 R479). -/
def State.dropUpdate (s : State) : State :=
  match s.gk.update with
  | none => s
  | some _ => { s with gk := { s.gk with
      update := none, invalid := SMap.put flagUnlisted s.gk.invalid (1 - s.gk.activeSet) true } }

/-- A partition after everything outside the always-on domain has been reset: its wrapping key is erased, a disable sequence has
nothing left to end, and under device recovery fenced areas stay held. -/
def PartSt.warm (x : PartSt) (en held : Bool) : PartSt :=
  { st := if held then .held else if en then .active else .off, sessions := x.sessions }

/-- What PERST#, and device recovery, clear: everything but the always-on domain and, under device recovery, the PCIe island and the
contents of DRAM (R465, R468, 16 R403). The keys are erased by PERST#. -/
def State.warm (s : State) (recovery : Bool) : State :=
  let d0 := (s.sec.dbgOpen.filter fun e => decide (3 ≤ e.1)).foldl (fun t e => t.debugEnd e.1 e.2.2) (s.pinsDown false)
  let d := if recovery then d0 else d0.dropUpdate
  let dram {α : Type} (lo : Nat) (m : SMap α) : SMap α := if recovery then m.filter fun e => decide (lo ≤ e.1) else []
  { d with
    mem := dram dramBase d.mem
    ecc := dram (dramBase / 16) d.ecc
    hub :=
      { raw := d.hub.raw.filter fun e => keptPage (e.1 / 16)
        mask := d.hub.mask.filter fun e => keptPage (e.1 / 16)
        latch := keptKeys d.hub.latch
        cnt := keptKeys d.hub.cnt
        cntUs := keptKeys d.hub.cntUs
        vecMask := if recovery then d.hub.vecMask else []
        vecPend := if recovery then d.hub.vecPend else []
        gkHalted := d.hub.gkHalted, gkQueued := d.hub.gkQueued, out := d.hub.out }
    gate := { act := keptKeys d.gate.act, rw := keptKeys d.gate.rw }
    sdl := { ref := d.sdl.ref }
    plots := [], beds := [], rms := {}, thr := {}, trn := {}, ring := {}
    irg := if recovery then { speed := d.irg.speed, width := d.irg.width, tag10 := d.irg.tag10, vfEnable := d.irg.vfEnable } else {}
    ddr := if recovery then { d.ddr with copying := none, query := [], returned := none } else {}
    flt := { d.flt with
      inbox := [], retiring := 0, retry := [], recoverOwed := false
      queue := d.flt.queue.map fun (q : Repair) => { q with retiring := false }
      retryAt := if d.flt.queue = [] then none else some d.sdl.ref }
    sec := { d.sec with
      keys := [], ide := []
      parts := (List.range 8).foldl
        (fun m p => SMap.modify partUnlisted m p fun x =>
          x.warm (partEn d.gate.act p) (recovery && d.sec.fences.any fun f => decide (f.part = p) && !f.zeroing)) d.sec.parts
      fences := if recovery then d.sec.fences.filter fun f => !f.zeroing else []
      sessions := if recovery then d.sec.sessions else d.sec.sessions.filter fun x => decide (x.transport = 0)
      spdm := if recovery then d.sec.spdm else d.sec.spdm.filter fun e => decide (e.1 = 0)
      pfFlr := false }
    pwr :=
      { almanac := d.pwr.almanac, variants := d.pwr.variants, clean := d.pwr.clean, outRuns := d.pwr.outRuns
        start := (d.pwr.start + 1) % 2 ^ 32
        vcore := d.pwr.vcore, recovery := d.pwr.recovery, almFail := d.pwr.almFail
        ringSize := d.pwr.ringSize, ringPos := d.pwr.ringPos, strapErr := d.pwr.strapErr
        railBad := d.pwr.railBad, porstHigh := d.pwr.porstHigh, perst := !recovery
        step := if d.gk.fwRun ∨ d.pwr.recovery then 0 else d.pwr.step }
    gk := if recovery then d.gk else { d.gk with activeSet := d.gk.layoutSet } }

/-! ### The steps of a start (R467 to R472) -/

/-- The last variant of a step, 0 where it has none (R467). -/
def lastVariant (k : Nat) : Nat :=
  match k with
  | 2 => 2
  | 3 => 1
  | 7 => 1
  | 10 => 2
  | _ => 0

/-- The variant in force of a step. -/
def State.variant (s : State) (k : Nat) : Nat := SMap.get zeroUnlisted s.pwr.variants k

/-- Set the variant of a step: its count of clean starts begins afresh. -/
def State.setVariant (s : State) (k v : Nat) : State :=
  { s with pwr := { s.pwr with
    variants := SMap.put zeroUnlisted s.pwr.variants k v, clean := SMap.put zeroUnlisted s.pwr.clean k 0 } }

/-- Whether a step of the last start is bad: begun, and failed or without an outcome (R472). -/
def State.bad (s : State) (k : Nat) : Bool :=
  let l := s.pwr.almanac.filter fun r => decide (r.start + 1 = s.pwr.start ∧ r.step = k)
  l.any (fun r => decide (r.outcome = 0)) && (l.any (fun r => decide (r.outcome = 2)) || l.all fun r => decide (r.outcome = 0))

/-- The decision of one step's variant (R472): written as a record with OUTCOME 4 or 3. -/
def State.decideVariant (s : State) (k : Nat) (almOk : Bool) : State :=
  let v := s.variant k
  if s.bad k ∧ v < lastVariant k then
    (s.setVariant k (v + 1)).almanac { start := 0, step := k, outcome := 4, variant := v + 1 } almOk
  else if 0 < v ∧ 3 ≤ SMap.get zeroUnlisted s.pwr.clean k then
    (s.setVariant k 0).almanac { start := 0, step := k, outcome := 3 } almOk
  else s

/-- A step begins, with its BEGUN record. -/
def State.beginStep (s : State) (k : Nat) (almOk : Bool) : State :=
  { s with pwr := { s.pwr with step := k } }.almanac { start := 0, step := k, outcome := 0, variant := s.variant k } almOk

/-- The end of power-on reset: the straps are sampled, XSPI_RESET_N rises (22 R524), and start-up begins at step 1 (R467; 14 R340). The image read takes the next
variant where it failed in the last start, before there is firmware to decide it (log 78). -/
def State.beginStart (s : State) (ringSize ringPos : Nat) : State :=
  let s1 := { s with
    held := false
    pwr := { s.pwr with
      start := (s.pwr.start + 1) % 2 ^ 32
      ringSize := ringSize, ringPos := ringPos, strapErr := decide (ringSize < ringPos) } }
  ((s1.emit (Sent.pin .xspiReset true)).decideVariant 2 true).beginStep 1 true

/-- The repair that a record of the repair map holds (16 R393; log 75). -/
def repairOf (d : Nat) : Repair :=
  { cls := fieldOf d 0 4, plot := fieldOf d 4 3, index := fieldOf d 7 9, detail := fieldOf d 16 32, prune := decide (fieldOf d 48 1 = 1) }

/-- The repair map: records of STEP 0x10 that passed, oldest first, but for pages that a later repair has freed. -/
def State.repairMap (s : State) : List Repair :=
  let l := (s.pwr.almanac.filter fun r => decide (r.step = 0x10 ∧ r.outcome = 1)).map (·.detail)
  (l.filter fun d => decide (fieldOf d 49 1 = 0) && !l.contains (d + 2 ^ 49)).map repairOf

/-- Active words set outside a commit, by key. -/
def State.actWords (s : State) (l : List (Nat × Nat)) : State :=
  l.foldl (fun t w => { t with gate := { t.gate with act := SMap.put actUnlisted t.gate.act w.1 (BitVec.ofNat 32 w.2) } }) s

/-- A repair of the map is applied at start-up, a store's through STO_REPAIR as the fault block's is (06 R155): its configuration, and what it Prunes. Pages of DRAM follow in step 7. -/
def State.applyRepair (s : State) (r : Repair) : State :=
  if r.prune then if s.pruned r.plot then s else s.prunePlot (plotFin r.plot)
  else
    match r.cls, s.repairWords r with
    | 8, _ => s
    | 3, some (_, words) =>
      match s.macroFree r.plot r.index (decide (4096 ≤ r.detail)) with
      | some k => (s.actWords words).modPlot r.plot fun p =>
          { p with sto := { p.sto with
              spares := SMap.modify sparesUnlisted p.sto.spares r.index fun x =>
                if k = 0 then { x with row0 := some r.detail }
                else if k = 1 then { x with row1 := some r.detail }
                else if k = 2 then { x with col0 := some (r.detail - 4096) }
                else { x with col1 := some (r.detail - 4096) } } }
      | none => s
    | c, some (_, words) =>
      let s1 := s.actWords words
      if c = 0 then s1.modPlot r.plot fun p => { p with btp := { p.btp with mapInForce := actW s1.gate.act (regAddr (pgBtp r.plot) 0x100) } }
      else if c = 1 then s1.modBed r.plot r.index fun b => { b with pruned := true }
      else if c = 5 then s1.modUnit 5 0 r.index fun u => { u with pruned := true }
      else s1
    | _, none => s

/-- The repair map applied. -/
def State.applyMap (s : State) : State := s.repairMap.foldl State.applyRepair s

/-- Step 5: a failing unit with a free spare enters the repair map; a Plot without one is left out. -/
def State.bistUnit (s : State) (x : FltRec) (almOk : Bool) : State :=
  let r : Repair := { cls := x.cls, plot := x.plot, index := x.index, detail := x.detail, kind := x.kind }
  if s.repairMap.any fun q => decide (q.cls = r.cls ∧ q.plot = r.plot ∧ q.index = r.index ∧ q.detail = r.detail) then s
  else if (s.applyMap.repairWords r).isSome ∧ x.cls ≠ 2 ∧ x.cls ≠ 4 then
    s.almanac { start := 0, step := 0x10, outcome := 1, unit := x.index, detail := r.almanac } almOk
  else if x.cls ≤ 4 then { s with pwr := { s.pwr with plotsOut := Nat.lor s.pwr.plotsOut (2 ^ x.plot) } }
  else s

/-- The VCORE floor on record (16 R398). -/
def State.recordedFloor (s : State) : Nat :=
  match (s.pwr.almanac.filter fun r => decide (r.step = 0x11)).getLast? with
  | some r => max 650 (min 850 r.detail)
  | none => 650

/-- Step 7: every channel at the capacity of the smallest; a pair that does not train leaves the mapped capacity 0 (18 R438, R439,
R448). Pages remapped keep their remap, but those mended (R449, R451). -/
def State.trainDram (s : State) (r : StartResult) (almOk : Bool) : State :=
  let l := r.train.filterMap id
  let ok := r.ok && decide (l.length = 8)
  let g := l.foldl (fun a c => min a c.gibLog2) 3
  let u := if ok then dramPages (8 * 2 ^ g * 2 ^ 30) else 0
  let freed := s.repairMap.filter fun q => decide (q.cls = 8) && r.ppr.contains q.detail
  let s1 := freed.foldl
    (fun t q => t.almanac { start := 0, step := 0x10, outcome := 1, unit := q.index, detail := q.almanac + 2 ^ 49 } almOk) s
  let pages := ((s1.repairMap.filter fun q => decide (q.cls = 8)).map (·.detail)).eraseDups
  let m := u - dramPool u
  { s1 with ddr :=
    { mapped := m, pool := dramPool u
      ch := r.train.zipIdx.foldl
        (fun a e => match e.1 with
          | some c => SMap.put chUnlisted a e.2 { gen := c.gen, mts := c.mts, ranks2 := c.ranks2, gibLog2 := c.gibLog2 }
          | none => a) []
      remap := if u = 0 then [] else pages.zipIdx.foldl (fun a e => SMap.insert a e.1 (m + e.2)) []
      taken := if u = 0 then 0 else pages.length
      conservative := decide (s.variant 7 = 1)
      zeroing := ok } }

/-- Step 9: the domains of each Plot not left out or Pruned, and the Thresher units, enter service, and the voltage loop starts (R457). -/
def State.enablePlots (s : State) (r : StartResult) : State :=
  let s0 := { s with pwr := { s.pwr with plotsOut := Nat.lor s.pwr.plotsOut r.out } }
  let off (n : Nat) : Bool := s0.pruned n || decide (fieldOf s0.pwr.plotsOut n 1 = 1)
  let s1 := (List.range 45).foldl
    (fun t k =>
      if k < 40 ∧ off (k / 5) then t
      else
        let d := domOf t.gate.act k
        let t1 := t.setDom k d
        if d = 0 then t1 else t1.domUp k) s0
  let s2 := { s1 with pwr := { s1.pwr with
    outRuns := (List.range 8).foldl
      (fun m n => SMap.put zeroUnlisted m n (if fieldOf s0.pwr.plotsOut n 1 = 1 then SMap.get zeroUnlisted m n + 1 else 0)) s1.pwr.outRuns } }
  if r.ulinear then
    (({ s2 with pwr := { s2.pwr with vrOk := true, loop := true, pmbFails := 0 } }.emit (Sent.pmbus 0x20 0)).emit
      (Sent.pmbus 0x27 1)).emit (Sent.pmbus 0x03 0)
  else { s2 with pwr := { s2.pwr with vrOk := false, loop := false } }.raise pgPwr 9 none

/-- Step 10: configuration requests end their retry status, and READY reads 1. -/
def State.readyNow (s : State) (r : StartResult) : State :=
  let moved := decide (s.irg.speed ≠ r.speed ∨ s.irg.width ≠ r.width)
  let s1 := { s with
    irg := { s.irg with speed := r.speed, width := r.width, tag10 := r.tag10 }
    pwr := { s.pwr with
      ready := true
      recovering := false
      clean := ([2, 3, 7, 10] : List Nat).foldl
        (fun m k => if 0 < s.variant k then SMap.put zeroUnlisted m k (SMap.get zeroUnlisted m k + 1) else m) s.pwr.clean } }
  let s2 := if moved then s1.raise pgHst 11 none else s1
  let s3 := if ([2, 3, 7, 10] : List Nat).any fun k => decide (0 < s.variant k) then s2.raise pgPwr 12 none else s2
  s3.driveByp

/-- Identity and firmware at the end of step 3 (15 R367 to R370; 20 R475). -/
def State.takeIdentity (s : State) (r : StartResult) (almOk : Bool) : State :=
  let s1 := r.svns.foldl (fun t e => t.almanac { start := 0, step := 0x15, outcome := 1, unit := e.1 } almOk) s
  let s2 := { s1 with
    sec := { s1.sec with
      idOk := r.idOk, pufCorrected := r.corrected, pufAttempts := r.attempts, minSvn := r.minSvn
      svn := r.svns.foldl (fun m e => SMap.put zeroUnlisted m e.1 e.2) [] }
    gk := { s1.gk with
      fwRun := true
      inUse := ([1, 2, 3, 4] : List Nat).foldl
        (fun m k => SMap.put zeroUnlisted m k (2 * SMap.get zeroUnlisted s1.gk.gens (8 * s1.gk.activeSet + k) + s1.gk.activeSet)) []
      setSvn := r.svns.foldl (fun m e => SMap.put zeroUnlisted m (8 * s1.gk.activeSet + e.1) e.2) s1.gk.setSvn
      eid := match Config.flashEid with
        | some e => [(0, e), (1, e)]
        | none => [] } }
  if r.idOk then s2
  else (s2.almanac { start := 0, step := 0x14, outcome := 2 } almOk).raise pgSec 12 none

/-- What step `k` leaves beside its record: the state, its outcome, and the step that follows (0: none). -/
def State.endStep (s : State) (k : Nat) (r : StartResult) (almOk : Bool) : State × Nat × Nat :=
  let passed := if 0 < s.variant k then 4 else 1
  let result := if r.ok then passed else 2
  match k with
  | 1 => (s, result, if r.ok then 2 else 0)
  | 2 => ({ s with gk := { s.gk with activeSet := if s.variant 2 = 2 then 1 - s.gk.layoutSet else s.gk.layoutSet } }, result,
      if r.ok then 3 else 0)
  | 3 =>
    if r.ok then (s.takeIdentity r almOk, passed, 4)
    else
      let s1 := (s.almanac { start := 0, step := 0x15, outcome := 2 } almOk)
      if s.variant 3 = 0 then
        ({ s1.setVariant 3 1 with gk := { s1.gk with activeSet := 1 - s.gk.activeSet } }, 2, 3)
      else ({ s1 with pwr := { s1.pwr with recovery := true }, gk := { s1.gk with fwRun := false } }, 2, 10)
  | 4 =>
    if r.journal then
      let s1 := ((s.decideVariant 7 almOk).decideVariant 10 almOk)
      let s2 := ([2, 3] : List Nat).foldl (fun t j => if t.bad j then t else t.decideVariant j almOk) s1
      let gone := (List.range 8).filter fun n => decide (3 ≤ SMap.get zeroUnlisted s2.pwr.outRuns n) && !s2.pruned n
      (gone.foldl
        (fun t n => t.almanac
          { start := 0, step := 0x10, outcome := 1, unit := n, detail := Repair.almanac { cls := 10, plot := n, prune := true } } almOk)
        { s2 with flt := { s2.flt with pruned := gone.foldl (fun a n => Nat.lor a (2 ^ n)) s2.flt.pruned } }, result, 5)
    else
      ({ s with pwr := { s.pwr with almanac := [], clean := [], outRuns := [], variants := [(7, 1)] } }, result, 5)
  | 5 =>
    ((r.failing.foldl (fun t x => t.bistUnit x almOk)
      { s with pwr := { s.pwr with plotsOut := Nat.lor s.pwr.plotsOut r.out } }), result, 6)
  | 6 => (let t := s.applyMap; { t with flt := { t.flt with floor := s.recordedFloor } }, result, 7)
  | 7 => if s.pwr.recovering then (s, result, 8) else (s.trainDram r almOk, result, 8)
  | 8 =>
    let s1 := s.measureRef r.refHz true
    if refUsable r.refHz then (s1, passed, 9) else (s1, 5, 9)
  | 9 => (s.enablePlots r, result, 10)
  | _ => if r.ok then (s.readyNow r, passed, 0) else (s, 2, 0)

/-- Grades trained per pair in MT/s / 100, 32 bits a pair, from the even channels (R471; log 75). -/
def pairGrades (l : List (Option ChTrain)) : Nat :=
  ((List.range 4).map fun p => match (l.getD (2 * p) none) with
    | some c => c.mts / 100 * 2 ^ (32 * p)
    | none => 0).sum

/-- START_STEP_DONE (R467): the step in progress ends with its result and outcome record, and the next begins. Step 10 awaits the
deassertion of PERST#. -/
def execStartStepDone (r : StartResult) (almOk : Bool) (t : Nat) (s : State) : Host.Outcome State Fault Refusal :=
  .next (s.liveApply fun s0 =>
    let s := s0.advance t
    let k := s.pwr.step
    if k = 0 ∨ (k = 10 ∧ s.pwr.perst = true) then s
    else
      let v := s.variant k
      let x := s.endStep k r almOk
      let s1 := x.1.almanac
        { start := 0, step := k, outcome := x.2.1, variant := v, detail := if k = 7 then pairGrades r.train else 0 } almOk
      if x.2.2 = 0 then { s1 with pwr := { s1.pwr with step := 0 } } else s1.beginStep x.2.2 almOk)

/-! ### Reset commands (R461, R465, R468) -/

/-- PORST_ASSERT (R465): PORST_N low. -/
def execPorstAssert (s : State) : Host.Outcome State Fault Refusal :=
  .next { s.cold with pwr := { s.cold.pwr with porstHigh := false } }

/-- PORST_RELEASE (R467): PORST_N rises; with a rail out of range the device stays in power-on reset (R461). -/
def execPorstRelease (ringSize ringPos : Fin 8) (s : State) : Host.Outcome State Fault Refusal :=
  .next (
    if s.pwr.porstHigh then s
    else
      let s1 := { s with pwr := { s.pwr with porstHigh := true } }
      if s1.pwr.railBad then s1 else s1.beginStart ringSize.val ringPos.val)

/-- RAIL_FAULT (R461): a rail leaves its range or the order of R460 is broken; or every rail is in range again, and the device leaves
power-on reset if PORST_N is high. -/
def execRailFault (bad : Bool) (ringSize ringPos : Fin 8) (s : State) : Host.Outcome State Fault Refusal :=
  .next (
    if bad then { s.cold with pwr := { s.cold.pwr with railBad := true } }
    else if s.pwr.railBad then
      let s1 := { s with pwr := { s.pwr with railBad := false } }
      if s1.pwr.porstHigh then s1.beginStart ringSize.val ringPos.val else s1
    else s)

/-- PERST_ASSERT (R465): during power-on reset and after a thermal trip only the level is noted. -/
def execPerstAssert (t : Nat) (s : State) : Host.Outcome State Fault Refusal :=
  .next (
    if s.stopped then { s with pwr := { s.pwr with perst := true } }
    else (s.advance t).warm false)

/-- PERST_RELEASE (R468): the link trains, and a start that PERST# began runs from step 4, or in recovery mode from step 10. -/
def execPerstRelease (t : Nat) (s : State) : Host.Outcome State Fault Refusal :=
  .next (
    if s.stopped then { s with pwr := { s.pwr with perst := false } }
    else if s.pwr.perst then
      let s0 := s.advance t
      let s1 := { s0 with pwr := { s0.pwr with perst := false } }
      if s1.pwr.step ≠ 0 ∨ s1.pwr.ready = true ∨ (s1.gk.fwRun = false ∧ s1.pwr.recovery = false) then s1.driveByp
      else s1.driveByp.beginStep (if s1.pwr.recovery then 10 else 4) true
    else s)

/-- Whether a partition's reset is incomplete after 100 ms (16 R403). -/
def State.resetStuck (s : State) (p : Nat) : Bool :=
  match s.partStuck p, (SMap.get partUnlisted s.sec.parts p).resetAt with
  | some since, some r => decide (since ≤ r ∧ r + 10 ^ 8 * nsRef < s.sdl.ref)
  | _, _ => false

/-- DEVICE_RECOVERY (16 R403): a partition reset is incomplete after 100 ms, the Ringmaster or the fault block has posted no heartbeat
for 1 s (`beat`), or a central block has failed for good (16 R388, R411). -/
def execDeviceRecovery (beat almOk : Bool) (t : Nat) (s : State) : Host.Outcome State Fault Refusal :=
  .next (s.live fun s0 =>
    let s := s0.advance t
    if s.gk.fwRun ∧ s.hub.gkHalted = false ∧ s.pwr.perst = false ∧
        (beat ∨ s.flt.recoverOwed ∨ (List.range 8).any s.resetStuck) then
      let s1 := ((((s.almanac { start := 0, step := 0x12, outcome := 1 } almOk).bump pgFlt 0x88 none).raise pgFlt 14 none).fltLog
        { kind := 8, action := 7, cls := 9, detail := 7 }).notice 1
      let s2 := s1.warm true
      { s2 with pwr := { s2.pwr with recovering := true } }.beginStep 5 almOk
    else s)

end Sys2Proof.Machine
end

