-- ==== Sys2Proof/Machine/Security.lean ====
section
/-!
DEFINITION. Partitions, keys, attestation and debug (15): key commands, the disable sequence and function-level resets (17 R433), hold for
debug, SPDM, IDE and the JTAG session.
-/

namespace Sys2Proof.Machine

open Sys2Proof

/-- What the device keeps of a partition. -/
def State.part (s : State) (p : Nat) : PartSt := SMap.get partUnlisted s.sec.parts p

/-- Change what the device keeps of a partition. -/
def State.modPart (s : State) (p : Nat) (f : PartSt → PartSt) : State :=
  { s with sec := { s.sec with parts := SMap.modify partUnlisted s.sec.parts p f } }

/-! ### Key commands (R361 to R366) -/

/-- Whether a handle lies in a partition's key range (R356). -/
def inKeyRange (m : SMap Word) (p h : Nat) : Bool :=
  let base := cfg m pgSec (0x100 + 0x40 * p + 4) 0 10
  decide (base ≤ h ∧ h < base + cfg m pgSec (0x100 + 0x40 * p + 4) 10 11)

/-- Whether an active field refers to a handle: of an enabled radio unit under MACsec, or of a ring key slot in force (R365, log 80). -/
def keyInUse (m : SMap Word) (h : Nat) : Bool :=
  ((List.range 48).any fun r =>
    decide (cfg m pgRu (ruOff r) 0 1 = 1 ∧ cfg m pgRu (ruOff r) 21 1 = 1) &&
      ([0, 10, 20] : List Nat).any fun lo => decide (cfg m pgRu (ruOff r + 0x1C) lo 10 = h)) ||
  (List.range 64).any fun k => decide (cfg m pgPsf (0x300 + 4 * k) 0 1 = 1 ∧ cfg m pgPsf (0x300 + 4 * k) 4 10 = h)

/-- The blob that SEC_KEY_SRC of a view names for a partition: from DRAM in its regions, or from a host window of its function, whose
128 bytes the command brings; and the state after the read (R363). -/
def State.keyBlob (s : State) (v : View) (p : Nat) (host : List (BitVec 8)) : Option (List (BitVec 8)) × State :=
  let a := (SMap.get wordUnlisted s.sec.srcLo v.no).toNat + 2 ^ 32 * (SMap.get wordUnlisted s.sec.srcHi v.no).toNat
  if dramBase ≤ a ∧ a + 128 ≤ dramBase + s.usable * 65536 ∧ (pagesOf (a - dramBase) 128).all (inRegions s.gate.act s.usable p) then
    s.dramRead none a 128
  else if (hostXlat s.gate.act (partVf s.gate.act p) a 128).isSome then (some host, s)
  else (none, s)

/-- Whether the fixed fields of a blob are valid: VERSION, USE and the zero bytes (R363). -/
def blobValid (b : List (BitVec 8)) : Bool :=
  let zero (lo hi : Nat) : Bool := ((b.take hi).drop lo).all fun x => decide (x = 0)
  decide (b.length = 128 ∧ b.getD 0 0 = 1 ∧ (b.getD 1 0 = 1 ∨ b.getD 1 0 = 2)) && zero 3 4 && zero 6 8 && zero 12 16 && zero 92 128

/-- Bytes as one number, the first most significant. -/
def beNat (b : List (BitVec 8)) : Nat := b.foldl (fun a x => 256 * a + x.toNat) 0

/-- A slice of bytes. -/
def slice (b : List (BitVec 8)) (lo hi : Nat) : List (BitVec 8) := (b.take hi).drop lo

/-- The job key in a blob, by a wrapping key; none where the tag fails (R363). The JOB's byte order is that of HANDLE (log 80). -/
def openBlob (pwk b : List (BitVec 8)) : Option JobKey :=
  (Config.gcmOpen pwk (beNat (slice b 16 28)) (slice b 0 16) (slice b 28 92)).map fun k =>
    { use := (b.getD 1 0).toNat, job := beNat (slice b 8 12), part := (b.getD 2 0).toNat, key := k }

/-- The key, or the code of the first test that fails, of a LOAD of a handle (R365). -/
def State.keyLoad (s : State) (p h : Nat) (blob : Option (List (BitVec 8))) : Nat × Option JobKey :=
  if inKeyRange s.gate.act p h = false then (1, none)
  else match blob with
    | none => (2, none)
    | some b =>
      if blobValid b = false then (2, none)
      else if (b.getD 2 0).toNat ≠ p ∨ beNat (slice b 4 6) ≠ h then (3, none)
      else match (s.part p).pwk with
        | none => (4, none)
        | some pwk =>
          match openBlob pwk b with
          | none => (5, none)
          | some k => if (SMap.find? s.sec.keys h).isSome then (6, none) else (0, some k)

/-- The result of a key command in a view (R365, R383): KEY_DONE, and its count. -/
def State.keyResult (s : State) (v : View) (p code : Nat) (extra : Nat) (job : Nat) (counts : Bool) : State :=
  let s1 := { s with sec := { s.sec with
    result := SMap.put wordUnlisted s.sec.result v.no (BitVec.ofNat 32 (2 * code + extra))
    job := SMap.put wordUnlisted s.sec.job v.no (BitVec.ofNat 32 job) } }
  let s2 := if code ≠ 0 then s1.bump pgSec 0x48 (some p) else if counts then s1.bump pgSec 0x40 (some p) else s1
  s2.raise pgSec 8 (if isVf v then some p else none)

/-- A key command of a view on its handle and partition: from a VF, its own partition is used (R365). -/
def State.keyCmd (s : State) (v : View) (x : Word) (f : Nat → Nat → State → State) : State :=
  let h := fieldOf x.toNat 2 10
  match v with
  | .vf k =>
    match vfPart s.gate.act (k.val + 1) with
    | some p => s.written v (f p h)
    | none => s.dropped v pgSec
  | _ => s.written v (f (fieldOf x.toNat 12 3) h)

/-- The key memory becomes another. -/
def State.setKeys (s : State) (m : SMap JobKey) : State := { s with sec := { s.sec with keys := m } }

/-- A key that was delivered is kept under its handle. -/
def State.keepKey (s : State) (h : Nat) (k : Option JobKey) : State :=
  match k with
  | some k => s.setKeys (SMap.insert s.sec.keys h k)
  | none => s

/-- KEY_LOAD (R365): LOAD of a handle. -/
def execKeyLoad (v : View) (x : Word) (host : List Byte) (s : State) : Host.Outcome State Fault Refusal :=
  .next (s.live fun s => s.keyCmd v x fun p h s =>
    let b := s.keyBlob v p host
    let r := b.2.keyLoad p h b.1
    (b.2.keepKey h r.2).keyResult v p r.1 0 0 true)

/-- KEY_ERASE (R365): ERASE of a handle that nothing in force refers to. -/
def execKeyErase (v : View) (x : Word) (s : State) : Host.Outcome State Fault Refusal :=
  .next (s.live fun s => s.keyCmd v x fun p h s =>
    if inKeyRange s.gate.act p h = false then s.keyResult v p 1 0 0 true
    else if keyInUse s.gate.act h then s.keyResult v p 6 0 0 true
    else (s.setKeys (SMap.erase s.sec.keys h)).keyResult v p 0 0 0 true)

/-- KEY_QUERY (R365): whether a handle holds a key, its USE and JOB. -/
def execKeyQuery (v : View) (x : Word) (s : State) : Host.Outcome State Fault Refusal :=
  .next (s.live fun s => s.keyCmd v x fun p h s =>
    if inKeyRange s.gate.act p h = false then s.keyResult v p 1 0 0 false
    else match SMap.find? s.sec.keys h with
      | some k => s.keyResult v p 0 (16 + 32 * k.use) k.job false
      | none => s.keyResult v p 0 0 0 false)

/-! ### Disabling a partition (R381, R382) -/

/-- A trigger of the disable sequence: the partition becomes CLOSING, or the trigger joins the sequence that runs (R381). -/
def State.beginDisable (s : State) (p : Nat) (flr : Bool) : State :=
  match (s.part p).st with
  | .off => s
  | .active => s.modPart p fun x => { x with st := .closing, since := s.sdl.ref, discard := flr, flr := flr }
  | .held => s.modPart p fun x => { x with st := .closing, since := s.sdl.ref, discard := flr, flr := flr }
  | _ => s.modPart p fun x => { x with discard := x.discard || flr, flr := x.flr || flr }

/-- DISABLE (R381): SEC_CMD OP 1, of the PF. -/
def execDisable (v : View) (p : Part) (t : Nat) (s : State) : Host.Outcome State Fault Refusal :=
  .next (s.liveApply fun s0 =>
    (s0.advance t).commanded v pgSec (!isVf v) fun s => s.beginDisable p.val false)

/-- Enabled contexts of a partition. -/
def State.partCtxs (s : State) (p : Nat) : List Nat :=
  (List.range 64).filter fun c => ctxEn s.gate.act c && decide (s.partOf c = p)

/-- Whether a context has a step in flight. -/
def State.inFlight (s : State) (c : Nat) : Bool := (s.ctx c).steps.any fun y => !y.ended

/-- The slot of R382 of a context, in units of 2^−16 ns: that of its numerology, and 1 ms for a non-real-time context. -/
def State.disableSlot (s : State) (c : Nat) : Nat :=
  if s.realTime c then 10 ^ 6 * nsRef / 2 ^ s.muOf c else 10 ^ 6 * nsRef

/-- Unharvested grants of a context: each record discarded is counted (R381, R382). -/
def State.unharvested (s : State) (c : Nat) : Nat :=
  (((s.ctx c).steps.filter fun y => !y.ended).map fun y => (y.grants.filter fun g => !g.harvested).length).sum

/-- A context with a step still in flight is torn down with KILL 1: windows, Sprouts and areas as by a kill, its unharvested grants
discarded (R382, R378). -/
def State.abortCtx (s : State) (c : Nat) : State :=
  let p := s.partOf c
  let hold := partHold s.gate.act p
  let areas := s.contextAreas c
  let s1 := areas.foldl (fun t a => t.killArea c hold a) ((s.clearWindows c true).releaseSprouts c hold)
  (s1.bumpBy pgSec 0x58 (some p) (s.unharvested c)).modCtx c fun x =>
    { x with fault := none, tearing := false, steps := x.steps.map fun y => { y with ended := true, aborted := true } }

/-- A context of a partition that closes and has no step in flight: windows cleared with KILL 0, its areas zeroed (R382). -/
def State.closeCtx (s : State) (c : Nat) : State :=
  let areas := (s.contextAreas c).filter fun a => !(s.sec.fences.any fun f => decide (f.base = a.1))
  areas.foldl (fun t a => t.zeroBytes a.1 a.2) (s.clearWindows c false)

/-- EN 0 on a partition's contexts, radio units, flows, grids and key slots, VALID 0 on its Roster entries, its job keys erased (R382,
R366). -/
def State.stageOff (s : State) (p : Nat) : State :=
  let m := s.gate.act
  let off (t : State) (pg : Page) (o : Nat) : State :=
    t.actPut pg o (withField (actW t.gate.act (regAddr pg o)).toNat 0 1 0)
  let s1 := (s.partCtxs p).foldl (fun t c => (off t pgRms (ctxOff c)).disableCtx c) s
  let s2 := ((List.range 48).filter fun r => decide (ruPart m r = p ∧ Machine.cfg m pgRu (ruOff r) 0 1 = 1)).foldl
    (fun t r => off t pgRu (ruOff r)) s1
  let s3 := ((List.range 1024).filter fun f => decide (flowF m f 0 0 1 = 1 ∧ ruPart m (flowF m f 0 17 6) = p)).foldl
    (fun t f => off t ⟨.trnFlow, f / 128⟩ (0x100 + 8 * (f % 128))) s2
  let s4 := ((List.range 32).filter fun g => decide (Machine.cfg m pgGrid (gridOff g) 0 1 = 1 ∧ Machine.cfg m pgGrid (gridOff g) 21 3 = p)).foldl
    (fun t g => off t pgGrid (gridOff g)) s3
  let s5 := ((List.range 64).filter fun k => decide (Machine.cfg m pgPsf (0x300 + 4 * k) 0 1 = 1 ∧ Machine.cfg m pgPsf (0x300 + 4 * k) 1 3 = p)).foldl
    (fun t k => off t pgPsf (0x300 + 4 * k)) s4
  { s5 with
    rms := { s5.rms with
      roster := s5.rms.roster.map fun e => if fieldOf e.2 7 3 = p then (e.1, withField e.2 0 1 0) else e }
    sec := { s5.sec with keys := s5.sec.keys.filter fun e => decide (e.2.part ≠ p) } }

/-- DISABLE_SLOT_EXPIRY (R382): contexts whose slot has passed since t0 with a step in flight are aborted; once none is left to run on, the
partition becomes SCRUBBING. -/
def execDisableSlotExpiry (p : Part) (t : Nat) (s : State) : Host.Outcome State Fault Refusal :=
  .next (s.liveApply fun s0 =>
    let s := s0.advance t
    let x := s.part p.val
    if x.st = .closing then
      let l := (s.partCtxs p.val).filter s.inFlight
      let late (c : Nat) : Bool := decide (x.since + s.disableSlot c ≤ s.sdl.ref)
      let s1 := (l.filter late).foldl State.abortCtx s
      if (l.any fun c => !late c) ∨ s.reached (x.since + 10 ^ 6 * nsRef / 8) = false then s1
      else
        let calm := (s.partCtxs p.val).filter fun c => !(s.inFlight c)
        ((calm.foldl State.closeCtx s1).stageOff p.val).modPart p.val fun y => { y with st := .scrubbing }
    else s)

/-- Windows of a partition in a state, on any Plot. -/
def State.partWindows (s : State) (p : Nat) (w : WinState) : Bool :=
  (List.range 8).any fun n => (s.plot n).sto.win.any fun e => decide (e.2.st = w ∧ e.2.part = p)

/-- Whether Sprouts of a partition's contexts are frozen. -/
def State.partFrozen (s : State) (p : Nat) : Bool :=
  allSprouts.any fun i => (s.sprout i).frozen && (match (s.sprout i).ctx with | some c => decide (s.partOf c = p) | none => false)

/-- A function's FLR completes (17 R433). -/
def State.flrDone (s : State) (f : Nat) : State :=
  { s with irg := { s.irg with fn := SMap.modify fnUnlisted s.irg.fn f fun x => { x with flr := false } } }.raise pgHst 12 none

/-- The PF's FLR completes once every partition's sequence has ended. -/
def State.pfFlrEnd (s : State) : State :=
  if s.sec.pfFlr ∧ (List.range 8).all fun p => decide ((s.part p).st ≠ .closing ∧ (s.part p).st ≠ .scrubbing) then
    { s with sec := { s.sec with pfFlr := false } }.flrDone 0
  else s

/-- PART_DISABLED (R382): nothing of the partition is left to zero; it becomes ACTIVE, or HELD where something is held. -/
def execPartDisabled (p : Part) (t : Nat) (s : State) : Host.Outcome State Fault Refusal :=
  .next (s.liveApply fun s0 =>
    let s := s0.advance t
    let x := s.part p.val
    if x.st = .scrubbing ∧ s.partWindows p.val .zeroing = false then
      let held := s.partWindows p.val .held || s.partFrozen p.val || s.sec.fences.any fun f => decide (f.part = p.val)
      let s1 := (s.modPart p.val fun y =>
        { y with
          st := if held then .held else if partEn s.gate.act p.val then .active else .off
          discard := false, flr := false, resetAt := none }).raise pgSec 9 none
      let f := partVf s.gate.act p.val
      let s2 := if x.flr ∧ f ≠ 0 then s1.flrDone f else s1
      s2.pfFlrEnd
    else s)

/-! ### Hold for debug (R379) -/

/-- The HELD entries of a partition on a Plot go to ZEROING. -/
def State.unholdPlot (s : State) (n k : Nat) : State :=
  let l := (List.range 32).filter fun e => decide ((s.win n e).st = .held ∧ (s.win n e).part = k)
  if l = [] then s else (l.foldl (fun t e => t.winUnhold n e) s).nextZeroOrder n

/-- The fences of a partition are being zeroed. -/
def State.fencesZero (s : State) (k : Nat) : State :=
  { s with sec := { s.sec with
    fences := s.sec.fences.map fun (f : Fence) => if f.part = k then { f with zeroing := true } else f } }

/-- RELEASE_HOLD (R379): SEC_CMD OP 2, of the PF: HELD entries go to ZEROING, frozen Sprouts are released, fenced areas zeroed. -/
def execReleaseHold (v : View) (p : Part) (t : Nat) (s : State) : Host.Outcome State Fault Refusal :=
  .next (s.liveApply fun s0 =>
    (s0.advance t).commanded v pgSec (!isVf v) fun s =>
      let k := p.val
      let s2 := ((List.range 8).foldl (fun t n => t.unholdPlot n k) s).thawSprouts fun c => decide (s.partOf c = k)
      ((s2.sec.fences.filter fun f => decide (f.part = k) && !f.zeroing).foldl (fun t f => t.zeroBytes f.base f.len) s2).fencesZero k)

/-- PART_RELEASED (R379): the last release has ended, and the partition leaves HELD. -/
def execPartReleased (p : Part) (t : Nat) (s : State) : Host.Outcome State Fault Refusal :=
  .next (s.liveApply fun s0 =>
    let s := s0.advance t
    let k := p.val
    if (s.part k).st = .held ∧ s.partWindows k .held = false ∧ s.partWindows k .zeroing = false ∧ s.partFrozen k = false ∧
        (s.sec.fences.all fun f => decide (f.part ≠ k) || f.zeroing) = true then
      ({ s with sec := { s.sec with fences := s.sec.fences.filter fun f => decide (f.part ≠ k) } }.modPart k fun y =>
        { y with st := if partEn s.gate.act k then .active else .off }).raise pgSec 10 none
    else s)

/-! ### Function-level resets (17 R433, 21 R503) -/

/-- A function enters FLR. -/
def State.enterFlr (s : State) (f : Nat) : State :=
  { s with irg := { s.irg with fn := SMap.modify fnUnlisted s.irg.fn f fun x => { x with flr := true } } }

/-- VF_FLR (R433): of VF `k` + 1. -/
def execVfFlr (k : Fin 8) (t : Nat) (s : State) : Host.Outcome State Fault Refusal :=
  .next (s.liveApply fun s0 =>
    let s := (((s0.advance t).withdraw (k.val + 1))).enterFlr (k.val + 1)
    match vfPart s.gate.act (k.val + 1) with
    | some p => s.beginDisable p true
    | none => s.flrDone (k.val + 1))

/-- PF_FLR (R433): VF Enable is cleared, every partition is disabled, and the PF's window table, copy channel and shed ring are cleared. -/
def execPfFlr (t : Nat) (s : State) : Host.Outcome State Fault Refusal :=
  .next (s.liveApply fun s0 =>
    let s := (List.range 9).foldl State.withdraw (s0.advance t)
    let no := pageNo (pgFn 0)
    let s1 := { s with
      gate := { s.gate with act := s.gate.act.filter fun e =>
        !(decide (e.1 % 2 ^ 26 / 4096 = no) && (decide (0x200 ≤ e.1 % 4096 ∧ e.1 % 4096 < 0x600) ||
          decide (0x104 ≤ e.1 % 4096 ∧ e.1 % 4096 < 0x10C))) }
      irg := { s.irg with vfEnable := false, fn := SMap.put fnUnlisted s.irg.fn 0 {} }
      sec := { s.sec with pfFlr := true } }
    ((List.range 8).foldl (fun t p => t.beginDisable p true) (s1.enterFlr 0)).pfFlrEnd)

/-- VF_ENABLE_CLEAR (R381): every partition that has a VF is disabled. -/
def execVfEnableClear (t : Nat) (s : State) : Host.Outcome State Fault Refusal :=
  .next (s.liveApply fun s0 =>
    let a := s0.advance t
    let s := { a with irg := { a.irg with vfEnable := false } }
    ((List.range 8).filter fun p => decide (partVf s.gate.act p ≠ 0)).foldl (fun t p => t.beginDisable p false) s)

/-! ### SPDM (R372 to R374, R377) -/

/-- SPDM error codes (the SPDM specification, log 81). -/
def spdmInvalidRequest : Nat := 0x01
/-- InvalidSession. -/
def spdmInvalidSession : Nat := 0x02
/-- UnexpectedRequest. -/
def spdmUnexpected : Nat := 0x04
/-- Unspecified. -/
def spdmUnspecified : Nat := 0x05
/-- DecryptError. -/
def spdmDecrypt : Nat := 0x06
/-- SessionLimitExceeded. -/
def spdmSessionLimit : Nat := 0x0A

/-- What a transport instance keeps. -/
def State.spdm (s : State) (tr : Nat) : Spdm := SMap.get spdmUnlisted s.sec.spdm tr

/-- Change what a transport instance keeps. -/
def State.modSpdm (s : State) (tr : Nat) (f : Spdm → Spdm) : State :=
  { s with sec := { s.sec with spdm := SMap.modify spdmUnlisted s.sec.spdm tr f } }

/-- The partition of a transport: that of the VF of its DOE instance (R372). -/
def State.trPart (s : State) (tr : Nat) : Option Nat := if 3 ≤ tr then vfPart s.gate.act (tr - 2) else none

/-- The object of a type that is in use, by its place and generation in flash. -/
def State.inUse (s : State) (type : Nat) : Nat := SMap.get zeroUnlisted s.gk.inUse type

/-- A response leaves, and is counted. -/
def State.spdmAnswer (s : State) (tr code : Nat) (words : List Nat) : State :=
  (s.bump pgSec 0x70 (s.trPart tr)).emit (Sent.answer 0 code (tr :: words))

/-- An ERROR response. -/
def State.spdmError (s : State) (tr e : Nat) : State := (s.modSpdm tr fun x => { x with signed := none }).spdmAnswer tr 0x7F [e]

/-- Whether MCTP carries requests to Groundskeeper on a transport: the binding holds an EID (20 R476). -/
def State.hasEid (s : State) (tr : Nat) : Bool := decide (2 ≤ tr) || (SMap.find? s.gk.eid tr).isSome

/-- A session of a transport, by its ID. -/
def State.session? (s : State) (tr id : Nat) : Option Session := s.sec.sessions.find? fun x => decide (x.id = id ∧ x.transport = tr)

/-- Change a session. -/
def State.modSession (s : State) (id : Nat) (f : Session → Session) : State :=
  { s with sec := { s.sec with sessions := s.sec.sessions.map fun x => if x.id = id then f x else x } }

/-- A session ends. -/
def State.endSession (s : State) (id : Nat) : State :=
  { s with sec := { s.sec with sessions := s.sec.sessions.filter fun x => decide (x.id ≠ id) } }

/-- A request reaches SPDM (R368, R372): Groundskeeper's core runs, the transport carries it, its session exists, and `ready` holds of the
instance. Requests other than the first two need an identity. -/
def State.spdmReq (s : State) (tr : Nat) (ses : Option Nat) (needsId : Bool) (ready : Spdm → Bool) (f : State → State) : State :=
  if s.hub.gkHalted then s
  else if s.hasEid tr = false then s.emit (Sent.answer 2 1 [tr])
  else if needsId ∧ (s.sec.idOk = false ∨ s.pwr.recovery = true) then s.spdmError tr spdmUnspecified
  else
    match ses with
    | some id =>
      match s.session? tr id with
      | none => s.spdmError tr spdmInvalidSession
      | some _ => if ready (s.spdm tr) then f s else s.spdmError tr spdmUnexpected
    | none => if ready (s.spdm tr) then f s else s.spdmError tr spdmUnexpected

/-- A request that the response does not sign joins the transcript. -/
def State.spdmPlain (s : State) (tr : Nat) (msg : List (BitVec 8)) (code : Nat) (words : List Nat) : State :=
  (s.modSpdm tr fun x => { x with transcript := x.transcript ++ msg, signed := none }).spdmAnswer tr code words

/-- A signed response: the transcript hash, over nonces that are free, is kept for PQ_SIGN (R373). -/
def State.spdmSigned (s : State) (tr : Nat) (msg : List (BitVec 8)) (code : Nat) (words : List Nat) : State :=
  let h := Config.sha384 ((s.spdm tr).transcript ++ msg ++ natLe 8 s.free)
  (s.tick.modSpdm tr fun x => { x with transcript := x.transcript ++ msg, signed := some h }).spdmAnswer tr code
    (words ++ [leNat (Config.aliasEd25519 (s.inUse 1) h)])

/-- A byte of a message. -/
def byteAt (msg : List (BitVec 8)) (k : Nat) : Nat := (msg.getD k 0).toNat

/-- GET_VERSION (R372): version 1.2; the instance starts afresh. -/
def execGetVersion (tr : Fin 11) (ses : Option Nat) (msg : List Byte) (s : State) : Host.Outcome State Fault Refusal :=
  .next (s.live fun s =>
    s.spdmReq tr.val ses false (fun _ => decide (ses = none)) fun s =>
      (s.modSpdm tr.val fun _ => { version := true, transcript := msg }).spdmAnswer tr.val 0x04 [0x12])

/-- GET_CAPABILITIES (R372). -/
def execGetCapabilities (tr : Fin 11) (ses : Option Nat) (msg : List Byte) (s : State) : Host.Outcome State Fault Refusal :=
  .next (s.live fun s =>
    s.spdmReq tr.val ses false (fun x => x.version) fun s =>
      (s.modSpdm tr.val fun x => { x with caps := true }).spdmPlain tr.val msg 0x61 [])

/-- NEGOTIATE_ALGORITHMS (R372). -/
def execNegotiateAlgorithms (tr : Fin 11) (ses : Option Nat) (msg : List Byte) (s : State) : Host.Outcome State Fault Refusal :=
  .next (s.live fun s =>
    s.spdmReq tr.val ses true (fun x => x.version && x.caps) fun s =>
      (s.modSpdm tr.val fun x => { x with algs := true }).spdmPlain tr.val msg 0x63 [])

/-- Whether an instance has negotiated. -/
def Spdm.ready (x : Spdm) : Bool := x.version && x.caps && x.algs

/-- GET_DIGESTS (R372): slot 0 alone is filled. -/
def execGetDigests (tr : Fin 11) (ses : Option Nat) (msg : List Byte) (s : State) : Host.Outcome State Fault Refusal :=
  .next (s.live fun s =>
    s.spdmReq tr.val ses true Spdm.ready fun s =>
      s.spdmPlain tr.val msg 0x01 [1, leNat (Config.sha384 (Config.certChain (s.inUse 1) (s.inUse 4)))])

/-- GET_CERTIFICATE (R372): a portion of the chain of slot 0. -/
def execGetCertificate (tr : Fin 11) (ses : Option Nat) (msg : List Byte) (s : State) : Host.Outcome State Fault Refusal :=
  .next (s.live fun s =>
    s.spdmReq tr.val ses true Spdm.ready fun s =>
      if byteAt msg 2 % 16 ≠ 0 then s.spdmError tr.val spdmInvalidRequest
      else
        let b := (Config.certChain (s.inUse 1) (s.inUse 4)).drop (byteAt msg 4 + 256 * byteAt msg 5)
        let d := b.take (byteAt msg 6 + 256 * byteAt msg 7)
        s.spdmPlain tr.val msg 0x02 [d.length, b.length - d.length, leNat d])

/-- CHALLENGE (R372). -/
def execChallenge (tr : Fin 11) (ses : Option Nat) (msg : List Byte) (s : State) : Host.Outcome State Fault Refusal :=
  .next (s.live fun s =>
    s.spdmReq tr.val ses true Spdm.ready fun s =>
      if byteAt msg 2 % 16 ≠ 0 then s.spdmError tr.val spdmInvalidRequest else s.spdmSigned tr.val msg 0x03 [0])

/-- Units in service: Beds that serve and are not Pruned, of Plots in service (R374 block 6). -/
def State.bedsServing (s : State) : Nat :=
  (((List.range 8).filter fun n => s.plotServes n).map fun n =>
    ((List.range 17).filter fun b => s.flag (pgBed n b) 0x100 4 && !(s.bed n b).pruned).length).sum

/-- Bytes of the repair map. -/
def State.mapBytes (s : State) : List (BitVec 8) := s.repairMap.flatMap fun r => natLe 16 r.almanac

/-- A measurement block (R374), as a transport may see it: blocks 5 and 8 on a VF's DOE instance for its partition only. -/
def State.measurement (s : State) (part : Option Nat) (vf : Bool) (k : Nat) : List Nat :=
  let ps := if vf then part.toList else List.range 8
  let svn (t : Nat) : Nat := SMap.get zeroUnlisted s.sec.svn t
  match k with
  | 1 => [leNat Config.romDigest]
  | 2 => [leNat (Config.objectDigest 1 (s.inUse 1)), svn 1]
  | 3 => [leNat (Config.objectDigest 2 (s.inUse 2)), svn 2]
  | 4 => [s.sec.minSvn, Config.helperKey (s.inUse 3)]
  | 5 => ps.flatMap fun p => p :: (List.range 10).map fun w => (actW s.gate.act (regAddr pgSec (0x100 + 0x40 * p + 4 * w))).toNat
  | 6 => [((List.range 8).map fun n => bit (s.plotServes n) * 2 ^ n).sum, s.bedsServing,
      ((List.range 5).filter s.unitServes).length, leNat (Config.sha384 s.mapBytes)]
  | 7 => [leNat s.sec.chain, s.sec.dbgBegun]
  | _ => ps.flatMap fun p => [p, (s.part p).sessions, bit (partHold s.gate.act p), bit (decide ((s.part p).st = .held))]

/-- GET_MEASUREMENTS (R374): byte 2 bit 0 asks for a signature, byte 3 names a block, 0 asks for their number, 0xFF for all. -/
def execGetMeasurements (tr : Fin 11) (ses : Option Nat) (msg : List Byte) (s : State) : Host.Outcome State Fault Refusal :=
  .next (s.live fun s =>
    s.spdmReq tr.val ses true Spdm.ready fun s =>
      let op := byteAt msg 3
      let m := s.measurement (s.trPart tr.val) (decide (3 ≤ tr.val))
      if 8 < op ∧ op ≠ 0xFF then s.spdmError tr.val spdmInvalidRequest
      else
        let words := if op = 0 then [8]
          else if op = 0xFF then (List.range 8).flatMap fun k => (k + 1) :: m (k + 1)
          else op :: m op
        if byteAt msg 2 % 2 = 1 then s.spdmSigned tr.val msg 0x60 words else s.spdmPlain tr.val msg 0x60 words)

/-- KEY_EXCHANGE (R372): a session begins, of 8 at most. -/
def execKeyExchange (tr : Fin 11) (ses : Option Nat) (msg : List Byte) (s : State) : Host.Outcome State Fault Refusal :=
  .next (s.live fun s =>
    s.spdmReq tr.val ses true (fun x => x.ready && decide (ses = none)) fun s =>
      if 8 ≤ s.sec.sessions.length then s.spdmError tr.val spdmSessionLimit
      else
        let id := byteAt msg 4 + 256 * byteAt msg 5 + 2 ^ 16 * (Config.rspSession s.free % 2 ^ 16)
        let new : Session := { id := id, transport := tr.val }
        let s1 := { s.tick with sec := { s.sec with sessions := s.sec.sessions ++ [new] } }
        s1.spdmSigned tr.val msg 0x64 [id])

/-- FINISH (R372): the handshake of a session completes, `macOk` saying whether its verify data are right. -/
def execFinish (tr : Fin 11) (ses : Option Nat) (msg : List Byte) (macOk : Bool) (s : State) : Host.Outcome State Fault Refusal :=
  .next (s.live fun s =>
    s.spdmReq tr.val ses true Spdm.ready fun s =>
      match ses with
      | none => s.spdmError tr.val spdmUnexpected
      | some id =>
        match s.session? tr.val id with
        | none => s.spdmError tr.val spdmInvalidSession
        | some x =>
          if x.established then s.spdmError tr.val spdmUnexpected
          else if macOk then (s.modSession id fun y => { y with established := true }).spdmPlain tr.val msg 0x65 [id]
          else (s.endSession id).spdmError tr.val spdmDecrypt)

/-- A request that needs an established session. -/
def State.inSession (s : State) (tr : Nat) (ses : Option Nat) (f : Nat → State → State) : State :=
  s.spdmReq tr ses true Spdm.ready fun s =>
    match ses with
    | none => s.spdmError tr spdmUnexpected
    | some id =>
      match s.session? tr id with
      | none => s.spdmError tr spdmInvalidSession
      | some x => if x.established then f id s else s.spdmError tr spdmUnexpected

/-- KEY_UPDATE (R372): the requester's key, and with `all` the responder's also, goes to the next generation. -/
def execKeyUpdate (tr : Fin 11) (ses : Option Nat) (msg : List Byte) (all : Bool) (s : State) : Host.Outcome State Fault Refusal :=
  .next (s.live fun s =>
    s.inSession tr.val ses fun id s =>
      (s.modSession id fun y => { y with genReq := y.genReq + 1, genRsp := y.genRsp + bit all }).spdmPlain tr.val msg 0x69 [id])

/-- HEARTBEAT (R372). -/
def execHeartbeat (tr : Fin 11) (ses : Option Nat) (msg : List Byte) (s : State) : Host.Outcome State Fault Refusal :=
  .next (s.live fun s => s.inSession tr.val ses fun id s => s.spdmPlain tr.val msg 0x68 [id])

/-- END_SESSION (R372). -/
def execEndSession (tr : Fin 11) (ses : Option Nat) (msg : List Byte) (s : State) : Host.Outcome State Fault Refusal :=
  .next (s.live fun s => s.inSession tr.val ses fun id s => (s.spdmPlain tr.val msg 0x6C [id]).endSession id)

/-- PQ_GET_CERT (R373). -/
def execPqGetCert (tr : Fin 11) (ses : Option Nat) (msg : List Byte) (s : State) : Host.Outcome State Fault Refusal :=
  .next (s.live fun s =>
    s.spdmReq tr.val ses true Spdm.ready fun s => s.spdmPlain tr.val msg 0x7E [leNat (Config.mlDsaChain (s.inUse 1) (s.inUse 4))])

/-- PQ_SIGN (R373): over the transcript hash that the preceding response of the same instance signed, and in no other order. -/
def execPqSign (tr : Fin 11) (ses : Option Nat) (msg : List Byte) (s : State) : Host.Outcome State Fault Refusal :=
  .next (s.live fun s =>
    s.spdmReq tr.val ses true Spdm.ready fun s =>
      match (s.spdm tr.val).signed with
      | some h => s.spdmPlain tr.val msg 0x7E [leNat (Config.aliasMlDsa (s.inUse 1) h)]
      | none => s.spdmError tr.val spdmUnexpected)

/-- SET_PWK (R362): in a session, on MCTP, on the PF's DOE instance, or on that of the partition's own VF. -/
def execSetPwk (tr : Fin 11) (ses : Option Nat) (msg : List Byte) (p : Part) (key : List Byte) (s : State) :
    Host.Outcome State Fault Refusal :=
  .next (s.live fun s =>
    s.inSession tr.val ses fun _ s =>
      if 3 ≤ tr.val ∧ s.trPart tr.val ≠ some p.val then s.spdmError tr.val spdmInvalidRequest
      else if (s.part p.val).pwk.isSome then s.spdmError tr.val spdmInvalidRequest
      else (s.modPart p.val fun x => { x with pwk := some key }).spdmPlain tr.val msg 0x7E [])

/-- GET_DEBUG_LOG (R377): on a VF's DOE instance, the records that name its partition. -/
def execGetDebugLog (tr : Fin 11) (ses : Option Nat) (msg : List Byte) (s : State) : Host.Outcome State Fault Refusal :=
  .next (s.live fun s =>
    s.spdmReq tr.val ses true Spdm.ready fun s =>
      let l := if 3 ≤ tr.val then
          s.sec.dbgLog.filter fun r => match s.trPart tr.val with
            | some p => decide (fieldOf (byteAt r 5) p 1 = 1)
            | none => false
        else s.sec.dbgLog
      s.spdmPlain tr.val msg 0x7E (l.map leNat))

/-! ### IDE (R364) -/

/-- Number of a key of a stream: key set, sub-stream and direction. -/
def ideKey (set : Bool) (sub : Nat) (tx : Bool) : Nat := bit set + 2 * sub + 6 * bit tx

/-- Change a stream. -/
def State.modIde (s : State) (k : Nat) (f : IdeStream → IdeStream) : State :=
  { s with sec := { s.sec with ide := SMap.modify ideUnlisted s.sec.ide k f } }

/-- An IDE_KM request: in a session on the PF's DOE instance only. A stream of a VF needs VF Enable (log 82). -/
def State.ideReq (s : State) (tr : Nat) (ses : Option Nat) (f : State → State) : State :=
  s.inSession tr ses fun _ s => if tr = 2 then f s else s.spdmError tr spdmInvalidRequest

/-- KEY_PROG (R364). -/
def execKeyProg (tr : Fin 11) (ses : Option Nat) (msg : List Byte) (stream : Fin 9) (set : Bool) (sub : Fin 3) (tx : Bool)
    (key : List Byte) (s : State) : Host.Outcome State Fault Refusal :=
  .next (s.live fun s =>
    s.ideReq tr.val ses fun s =>
      ((s.modIde stream.val fun x => { x with keys := SMap.insert x.keys (ideKey set sub.val tx) key }).spdmPlain tr.val msg 0x7E []).emit
        (Sent.answer 3 1 [stream.val, 0]))

/-- K_SET_GO (R364): a key that has been programmed goes; a stream in the insecure state starts again. -/
def execKSetGo (tr : Fin 11) (ses : Option Nat) (msg : List Byte) (stream : Fin 9) (set : Bool) (sub : Fin 3) (tx : Bool) (s : State) :
    Host.Outcome State Fault Refusal :=
  .next (s.live fun s =>
    s.ideReq tr.val ses fun s =>
      let k := ideKey set sub.val tx
      let x := SMap.get ideUnlisted s.sec.ide stream.val
      if (SMap.find? x.keys k).isSome then
        let s1 := s.modIde stream.val fun x =>
          { x with going := SMap.put flagUnlisted x.going k true, secure := true, insecure := false }
        (({ s1 with hub := { s1.hub with mute := SMap.put flagUnlisted s1.hub.mute stream.val false } }).spdmPlain tr.val msg 0x7E []).emit
          (Sent.answer 3 2 [stream.val, 0])
      else (s.spdmPlain tr.val msg 0x7E []).emit (Sent.answer 3 2 [stream.val, 1]))

/-- K_SET_STOP (R364): the key stops; a stream with none going is secure no longer. -/
def execKSetStop (tr : Fin 11) (ses : Option Nat) (msg : List Byte) (stream : Fin 9) (set : Bool) (sub : Fin 3) (tx : Bool) (s : State) :
    Host.Outcome State Fault Refusal :=
  .next (s.live fun s =>
    s.ideReq tr.val ses fun s =>
      ((s.modIde stream.val fun x =>
        let g := SMap.put flagUnlisted x.going (ideKey set sub.val tx) false
        { x with going := g, secure := x.secure && decide (g ≠ []) }).spdmPlain tr.val msg 0x7E []).emit (Sent.answer 3 2 [stream.val, 0]))

/-- IDE_ERR (R364): an integrity failure on a stream. -/
def execIdeErr (stream : Fin 9) (s : State) : Host.Outcome State Fault Refusal :=
  .next (s.live fun s =>
    let f := stream.val
    let x := SMap.get ideUnlisted s.sec.ide f
    if x.secure then
      let part := if f = 0 then none else vfPart s.gate.act f
      let s1 := ((s.bump pgSec 0x60 part).raise pgSec 13 part).modIde f fun x => { x with insecure := true }
      { s1 with hub := { s1.hub with mute := SMap.put flagUnlisted s1.hub.mute f true } }
    else s)

/-! ### The JTAG session (R375) -/

/-- TAP_LEAVE_RESET (R375): the TAP first leaves Test-Logic-Reset. -/
def execTapLeaveReset (t : Nat) (s : State) : Host.Outcome State Fault Refusal :=
  .next (
    if s.gk.tapOut then s
    else
      let s1 := { s with gk := { s.gk with tapOut := true, tapIr := 0 } }
      s1.live fun s0 =>
        let s := s0.advance t
        { s with sec := { s.sec with jtag := true } }.debugBegin 1 s.enabledMask 0)

/-- TAP_RESET (R375): the TAP returns to Test-Logic-Reset, or TRST falls. -/
def execTapReset (t : Nat) (s : State) : Host.Outcome State Fault Refusal :=
  .next (
    let s1 := { s with gk := { s.gk with tapOut := false, tapIr := 0 } }
    s1.live fun s0 =>
      let s := s0.advance t
      if s.sec.jtag then { s with sec := { s.sec with jtag := false } }.debugEnd 1 0 else s)

end Sys2Proof.Machine
end

