-- ==== Sys2Proof/Machine/Readback.lean ====
section
/-!
DEFINITION. What a 32-bit read of the register path returns (21 R486 to R497, R507 to R509; 15 R380; each chapter's registers): identity
words, events, latched counters, staged and active words, and the status and state words of every page, as each view sees them.
-/

namespace Sys2Proof.Machine

open Sys2Proof

/-! ### What a VF reads of other partitions: nothing (R491) -/

/-- The bits of an active or staged word that a view reads: those that name no object of another partition. -/
def readMask (m : SMap Word) (v : View) (p : Page) (off : Nat) : Nat :=
  if isVf v = false then allBits
  else
    let q := (viewPart m v).getD 8
    let own (base stride word lo : Nat) : Nat := cfg m p (base + (off - base) / stride * stride + word) lo 3
    match p.kind with
    | .evh => vfMask m v q p off 0
    | .sdl =>
      if 0x200 ≤ off ∧ off < 0x240 then allIf (decide (cfg m pgTrn (0x200 + 0x10 * ((off - 0x200) / 4)) 0 3 = q)) else allBits
    | .trn => if 0x200 ≤ off then allIf (decide (own 0x200 0x10 0 0 = q)) else allBits
    | .trnRu => allIf (decide (own 0x100 0x20 0 5 = q))
    | .trnGrid => allIf (decide (own 0x100 0x20 0 21 = q))
    | .trnFlow => allIf (decide (ruPart m (flowF m (128 * p.inst + (off - 0x100) / 8) 0 17 6) = q))
    | .rms =>
      if 0x200 ≤ off ∧ off < 0x600 then allIf (decide (own 0x200 0x10 0 1 = q))
      else if (0x608 ≤ off ∧ off < 0x620) ∨ (0x680 ≤ off ∧ off < 0x698) then ctxMask m q (off / 4 % 2)
      else if (0x640 ≤ off ∧ off < 0x680) ∨ (0x6A0 ≤ off ∧ off < 0x6E8) then
        allIf (decide (ctxPart m (cfg m pgRms (off / 8 * 8) 24 6) = q))
      else allBits
    | .hst => allIf (decide (ctxPart m ((off - 0x200) / 0x14) = q))
    | .sec => allIf (decide ((off - 0x100) / 0x40 = q))
    | .pwr =>
      if 0x110 ≤ off then
        ((List.range 16).map fun k =>
          let d := 16 * ((off - 0x110) / 4) + k
          if d < 40 ∧ plotPart m (d / 5) ≠ some q then 0 else 3 * 2 ^ (2 * k)).sum
      else allBits
    | _ => allBits

/-- Whether a view sees an object of partition `p`, or of none. -/
def State.seesPart (s : State) (v : View) (p : Nat) : Bool := viewSees s.gate.act v p

/-- A number if a view sees partition `p`, else 0. -/
def State.ifSees (s : State) (v : View) (p x : Nat) : Nat := if s.seesPart v p then x else 0

/-- A duration in ns as a view reads it: a VF's in whole microseconds, truncated toward zero (15 R380). -/
def durWord (v : View) (ns : Int) : Int := if isVf v then truncTo 1000 ns else ns

/-- Bits of a mask of Plots that a view sees. -/
def State.plotBits (s : State) (v : View) (x : Nat) : Nat :=
  ((List.range 8).map fun n => if fieldOf x n 1 = 1 ∧ viewSeesPlot s.gate.act v n = true then 2 ^ n else 0).sum

/-- A mask of `n` bits, by a condition. -/
def bitsOf (n : Nat) (f : Nat → Bool) : Nat := ((List.range n).map fun k => bit (f k) * 2 ^ k).sum

/-- Fields of `w` bits, one after another. -/
def packed (w n : Nat) (f : Nat → Nat) : Nat := ((List.range n).map fun k => f k % 2 ^ w * 2 ^ (w * k)).sum

/-! ### STATUS words -/

/-- State of a power domain: those not switched by PWR_DOM follow what switches them (19 R454). -/
def State.domNow (s : State) (k : Nat) : Nat :=
  if k < 45 then s.domState k
  else if k < 49 then bit (decide (s.cfg pgTrn 0x100 (10 + 4 * (k - 45)) 4 ≠ 0))
  else if k < 51 then bit ((List.range 4).any fun c => (SMap.find? s.ddr.ch (4 * (k - 49) + c)).isSome)
  else if k < 53 then bit (decide (s.pwr.ringSize ≠ 0) && s.flag pgPsf 0x100 0)
  else bit (decide (k < 56))

/-- SDL_STATUS (08 R212). -/
def State.sdlStatus (s : State) : Nat :=
  s.sdl.refFreq + 4 * bit s.sdl.freeOsc + 8 * bit s.sdl.selAct + 16 * s.sdl.a.st.code + 64 * s.sdl.b.st.code +
    256 * bit s.slewing + 512 * bit s.gridEn + 1024 * bit s.sdl.refHeld

/-- PSF_STATUS (14 R355). -/
def State.psfStatus (s : State) : Nat :=
  let e := s.ring.east
  let w := s.ring.west
  s.pwr.ringPos + 2 ^ 3 * s.pwr.ringSize + 2 ^ 6 * bit s.pwr.strapErr + 2 ^ 7 * bit s.pwr.bypOpen + 2 ^ 8 * e.code +
    2 ^ 10 * w.code + 2 ^ 12 * e.rate + 2 ^ 14 * w.rate + 2 ^ 16 * bit e.x4 + 2 ^ 17 * bit w.x4 + 2 ^ 18 * s.ring.present

/-- CMT_STATUS of a channel (21 R508). -/
def Channel.statusWord (c : Channel) : Nat :=
  c.state.code + 2 ^ 3 * c.code + 2 ^ 11 * c.page + 2 ^ 25 * bit c.late + 2 ^ 26 * bit c.setOvf + 2 ^ 27 * bit c.stageFull +
    2 ^ 28 * bit c.rechecked

/-- STO_STATUS (06 R160). -/
def State.stoStatus (s : State) (n : Nat) : Nat :=
  let x := (s.plot n).sto
  bit (decide (x.patrolRan ≠ 0)) + 2 * bit (x.win.any fun e => decide (e.2.st = .zeroing)) +
    4 * bit (x.win.any fun e => decide (e.2.st = .held)) + 8 * bit (decide (x.repair ≠ [])) +
    16 * bit (decide (8 ≤ x.wbW.length ∨ 8 ≤ x.wbA.length ∨ 8 ≤ x.wbP.length)) + 32 * bit (s.pruned n)

/-- BTP_STATUS (03 R93). -/
def State.btpStatus (s : State) (n : Nat) : Nat :=
  let b := s.btp n
  bit (decide (b.bank0.checks ≠ [] ∨ b.bank1.checks ≠ [] ∨ b.queue ≠ []) || b.localising || b.bank0.replaying || b.bank1.replaying) +
    2 * bit (s.ramping n) + 4 * bit b.suspect +
    8 * bit (decide (fieldOf b.mapInForce.toNat 0 1 = 1)) + 16 * bit (decide (fieldOf b.mapInForce.toNat 16 1 = 1)) +
    32 * bit b.localisePending + 64 * bit (s.pruned n)

/-- BED_STATUS (05 R139). -/
def State.bedStatus (s : State) (n b : Nat) : Nat :=
  let x := s.bed n b
  bit (x.sprouts.any fun e => decide (e.2.st = .bank0 ∨ e.2.st = .bank1)) + 2 * bit (s.flag (pgBed n b) 0x100 4) +
    4 * bit x.pruned + 8 * bit x.seeded

/-- IRG_STATUS (07 R187). -/
def State.irgStatus (s : State) (k : Nat) : Nat :=
  let f (z : FurrowState) : Bool := (s.irrigator k).furrows.any fun e => decide (e.2.st = z)
  bit (f .active) + 2 * bit (f .creditWait) + 4 * bit (f .pageWait) + 8 * bit (f .spilled) +
    16 * bit (decide (k < 8) && s.pruned k)

/-- TRN_STATUS as a view sees it: its own ports and flows (09 R239). -/
def State.trnStatus (s : State) (v : View) : Nat :=
  let ports := bitsOf 16 fun p => s.seesPart v (Machine.cfg s.gate.act pgTrn (0x200 + 0x10 * p) 0 3)
  Nat.land s.trn.portUp ports + 2 ^ 16 * bit (decide (Nat.land s.trn.shedding ports ≠ 0)) +
    2 ^ 17 * bit (s.trn.flow.any fun e => e.2.quarantined && s.seesPart v (ruPart s.gate.act (s.flowRu e.1))) +
    2 ^ 18 * bit (decide (Nat.land s.trn.retraining ports ≠ 0))

/-- THR_STATUS (10 R269). -/
def State.thrStatus (s : State) : Nat :=
  bitsOf 5 (servesIn s.gate.act) + 2 ^ 5 * bitsOf 5 (fun u => (s.unit 5 0 u).pruned) + 2 ^ 10 * bit (decide (s.thr.busy ≠ 0)) +
    2 ^ 11 * bit (decide (thrPositions s.gate.act < 4))

/-- STATE_u of THR_UNIT_STATE (10 R269). -/
def State.thrUnit (s : State) (u : Nat) : Nat :=
  if (s.unit 5 0 u).pruned then 3
  else if fieldOf s.thr.rerunning u 1 = 1 then 4
  else if fieldOf s.thr.busy u 1 = 1 then 1
  else if servesIn s.gate.act u then 0 else 2

/-- The STATUS word of a page in a view; zero where the page defines none (R486). -/
def State.statusWord (s : State) (v : View) (p : Page) : Nat :=
  match p.kind with
  | .cmt => (s.chan (chanOf v)).statusWord
  | .sdl => s.sdlStatus
  | .trn => s.trnStatus v
  | .irg => s.irgStatus p.inst
  | .btp => s.btpStatus p.inst
  | .siv =>
    let x := (s.plot p.inst).siv
    bit (x.running.isSome || (x.retry.isSome && x.retryGranted)) + 2 * bit x.tableBusy + 4 * bit x.active + 8 * bit x.waiting.isSome + 16 * bit (s.pruned p.inst)
  | .sto => s.stoStatus p.inst
  | .bed => s.bedStatus (p.inst / 17) (p.inst % 17)
  | .thr => s.thrStatus
  | .ddr =>
    bit (decide (s.ddr.mapped ≠ 0)) + 2 * bit s.ddr.copying.isSome + 4 * bit s.ddr.conservative + 8 * bit s.hot +
      16 * bit s.ddr.zeroing
  | .psf => s.psfStatus
  | .hst =>
    s.irg.speed + 2 ^ 3 * s.irg.width + 2 ^ 8 * bit s.irg.tag10 +
      2 ^ 9 * bitsOf 9 fun f => (SMap.get fnUnlisted s.irg.fn f).flr && (!isVf v || decide (f = v.no))
  | .sec =>
    let sees := s.seesPart v
    bit s.sec.idOk + 2 * bit (decide (s.sec.dbgOpen ≠ [])) + 2 ^ 2 * bitsOf 8 (fun q => (s.part q).pwk.isSome && sees q) +
      2 ^ 10 * bitsOf 8 fun q => decide ((s.part q).st = .held) && sees q
  | .rst =>
    (s.rms.roster.filter fun e => decide (fieldOf e.2 0 1 = 1) && s.seesPart v (fieldOf e.2 7 3)).length
  | .flt =>
    s.flt.pruned + 2 ^ 8 * s.flt.retiring + 2 ^ 16 * bit (decide (s.flt.queue ≠ [])) +
      2 ^ 17 * bit (decide (850 ≤ s.flt.floor)) + 2 ^ 18 * bit s.flt.exhausted
  | .pwr =>
    bit s.pwr.ready + 2 * bit s.pwr.recovery + 4 * s.level + 2 ^ 5 * bit s.pwr.vrOk + 2 ^ 6 * s.plotBits v s.pwr.plotsOut
  | .gkp =>
    bit s.gk.fwRun + 2 * bit s.gk.mb.isSome + 4 * bit (decide (s.gk.notices ≠ [])) + 8 * bit s.gk.update.isSome +
      16 * bit s.sec.console + 32 * bit s.hub.gkHalted + 64 * s.gk.activeSet
  | _ => 0

/-! ### State words and query results -/

/-- The code of a Furrow's state in IRG_FRW_STATE (07 R187). -/
def furrowCode : FurrowState → Nat
  | .idle => 0 | .parked => 1 | .active => 2 | .creditWait => 3 | .stageWait => 4 | .pageWait => 5 | .spilled => 6 | .done => 7
  | .faulted => 8

/-- IRG_FRW_STATE, IRG_FRW_CURSOR and IRG_FRW_DRY of the Furrow that a view's query names (07 R187). -/
def State.furrowWord (s : State) (v : View) (k off : Nat) : Nat :=
  let x := s.furrow k (SMap.get zeroUnlisted (s.irrigator k).query v.no)
  let seen := isVf v = false ∨ s.seesPart v (s.partOf x.ctx) = true
  if ¬ seen then 0
  else if off = 0xF04 then
    furrowCode x.st + 2 ^ 4 * bit (fRt x.desc) + 2 ^ 5 * bit (decide (x.st ≠ .idle ∧ fRate x.desc = 0)) + 2 ^ 8 * (x.level % 256) +
      2 ^ 16 * ((if x.st = .idle then 0 else x.fetched) % 256) + 2 ^ 24 * (x.slot % 16)
  else if off = 0xF08 then x.cursor % 2 ^ 32
  else if (s.eligible k).any fun e => decide (e.1 = SMap.get zeroUnlisted (s.irrigator k).query v.no) then min (2 ^ 32 - 1) x.dry
  else 2 ^ 32 - 1

/-- STO_REPAIR_R0 and R1 of the macro that a view's query names (06 R160). -/
def State.spareWord (s : State) (v : View) (n off : Nat) : Nat :=
  let x := s.macroSpares n (SMap.get zeroUnlisted (s.plot n).sto.query v.no)
  let e (o : Option Nat) : Nat := match o with
    | some t => t % 2 ^ 12 + 2 ^ 12
    | none => 0
  if off = 0xF04 then e x.row0 + 2 ^ 16 * e x.row1 else e x.col0 + 2 ^ 16 * e x.col1

/-- RMS_SLOT_RD of the slot that a view's query names (11 R303). -/
def State.slotWord (s : State) (v : View) : Nat :=
  match SMap.get zeroUnlisted s.rms.slot (SMap.get zeroUnlisted s.rms.slotQ v.no) with
  | 0 => 0
  | c + 1 =>
    s.ifSees v (s.partOf c)
      (c + 2 ^ 6 + 2 ^ 7 * (s.ctx c).plan + 2 ^ 15 * (((s.ctx c).steps.filter fun y => y.flying).length % 4) +
        2 ^ 17 * bit (s.ctx c).parity)

/-- TRP_SLOT_RD of the slot that a view's query names: the latest step of the context there (11 R304). -/
def State.marginWord (s : State) (v : View) (off : Nat) : Nat :=
  match SMap.get zeroUnlisted s.rms.slot (SMap.get zeroUnlisted s.rms.trpQ v.no) with
  | 0 => 0
  | c + 1 =>
    match ((s.ctx c).steps.filter fun y => y.dispatched).getLast? with
    | none => 0
    | some y =>
      s.ifSees v (s.partOf c)
        (if off = 0xF04 then (durWord v (y.reserve / nsRef)).toNat % 2 ^ 20 + 2 ^ 20 * (y.chkpt % 2 ^ 12)
         else unsignedOf 32 (durWord v (y.margin.tdiv nsRef)))

/-- RMS_GH_EVAL_RD of the context that a view's query names (12 R320). -/
def State.evalWord (s : State) (v : View) (off : Nat) : Nat :=
  let c := SMap.get zeroUnlisted s.rms.ghQ v.no
  let x := s.ctx c
  s.ifSees v (s.partOf c)
    (if off = 0xF44 then bit x.pass + 2 * (x.evalN % 2 ^ 13) + 2 ^ 14 * (x.evalCand % 2 ^ 16)
     else if off = 0xF48 then x.evalFlags % 2 ^ 16
     else if off = 0xF4C then x.evalServe.toNat else x.evalMetric.toNat)

/-- RMS_WSET_RD and RMS_WSET_HASH of the entry that a view's query names (13 R339). -/
def State.wsetWord (s : State) (v : View) (off : Nat) : Nat :=
  let k := SMap.get zeroUnlisted s.rms.wsetQ v.no
  s.ifSees v (s.partOf (s.cfg pgRms (0x6A0 + 8 * k) 24 6))
    (if off = 0xF74 then bit s.rms.wsetBusy.isSome + 2 * bit (SMap.get flagUnlisted s.rms.wsetOk k) + 4 * k
     else SMap.get zeroUnlisted s.rms.wsetHash k / 2 ^ (32 * (7 - (off - 0xF78) / 4)) % 2 ^ 32)

/-- FLT_UNIT_RD of the unit that a view's query names (16 R412). -/
def State.unitWord (s : State) (v : View) : Nat :=
  let q := SMap.get zeroUnlisted s.flt.query v.no
  let u := s.unit (fieldOf q 0 4) (fieldOf q 4 3) (fieldOf q 7 8)
  u.epoch % 2 ^ 16 + 2 ^ 16 * min 3 ((u.faults.filter fun a => decide (u.uses - a ≤ faultWindow)).length) +
    2 ^ 18 * bit u.permanent + 2 ^ 19 * bit (s.spareFree (fieldOf q 0 4) (fieldOf q 4 3) (fieldOf q 7 8))

/-- PWR words beside STATUS (19 R473): power and temperature as R380 coarsens them. -/
def State.pwrWord (s : State) (v : View) (off : Nat) : Nat :=
  if 0x810 ≤ off ∧ off < 0x820 then
    packed 2 16 fun k =>
      let d := 16 * ((off - 0x810) / 4) + k
      if d < 40 ∧ viewSeesPlot s.gate.act v (d / 5) = false then 0 else s.domNow d
  else if off = 0x820 then s.pwr.vcore + 2 ^ 10 * ((if isVf v then s.pwr.meanA else s.pwr.iout) % 2 ^ 9)
  else if off = 0x824 then s.pwr.start
  else if off = 0x830 then packed 8 4 fun u => SMap.get ageUnlisted s.pwr.ageThr u
  else if off = 0x834 then SMap.get ageUnlisted s.pwr.ageThr 4
  else if off = 0xF04 then
    let q := SMap.get zeroUnlisted s.pwr.tempQ v.no
    let x := SMap.get intUnlisted (if isVf v then s.pwr.tempWin else s.pwr.temp) q
    unsignedOf 12 (if isVf v then truncTo 4 x else x)
  else 0

/-- The state words of a Plot's and a store's pages. -/
def State.stoWord (s : State) (v : View) (n off : Nat) : Nat :=
  let x := (s.plot n).sto
  if off = 0x808 then (SMap.get wordUnlisted x.race v.no).toNat
  else if off = 0x80C then x.ecc.toNat
  else if off = 0x810 then x.oob.toNat
  else if off = 0x818 ∨ off = 0x81C then packed 2 16 fun k => (s.win n (16 * ((off - 0x818) / 4) + k)).st.code
  else if off = 0xF04 ∨ off = 0xF08 then s.spareWord v n off
  else 0

/-- Words of the RMS page that the hardware writes. -/
def State.rmsWord (s : State) (v : View) (off : Nat) : Nat :=
  if 0x808 ≤ off ∧ off < 0x828 then
    packed 4 8 fun k =>
      let c := 8 * ((off - 0x808) / 4) + k
      s.ifSees v (s.partOf c) (s.ctx c).st.code
  else if off = 0xF04 then s.slotWord v
  else if off = 0xF24 then
    s.ifSees v (s.partOf s.rms.libCtx) (2 * s.rms.libCode + 2 ^ 9 * s.rms.libCtx + 2 ^ 15 * s.rms.libIndex)
  else if 0xF44 ≤ off ∧ off < 0xF54 then s.evalWord v off
  else if off = 0xF64 then
    s.ifSees v (s.partOf (s.cfg pgRms 0x6E0 24 6)) (bit (decide (s.rms.capLeft ≠ 0)) + 2 * (s.rms.captured % 2 ^ 12))
  else if 0xF74 ≤ off ∧ off < 0xF98 then s.wsetWord v off
  else 0

/-- A word of a page that software only reads, beside the common registers, the counters and the mirrors. -/
def State.roWord (s : State) (v : View) (p : Page) (off : Nat) : Nat :=
  match p.kind with
  | .sys =>
    if off = 0x808 then
      s.plotBits v (bitsOf 8 s.plotServes) + 2 ^ 8 * v.no + 2 ^ 12 * (viewPart s.gate.act v).getD 0
    else if off = 0x80C then s.hub.badAcc.toNat
    else 0
  | .cmt =>
    let c := s.chan (chanOf v)
    if off = 0x808 then c.sel.length + 2 ^ 9 * c.stagedWords.length
    else if off = 0x80C then c.seq.toNat
    else if off = 0xF08 then
      match c.query.bind fun i => c.sel[i]? with
      | some no => no + 2 ^ 14
      | none => 0
    else 0
  | .evh =>
    if 0x808 ≤ off ∧ off < 0x828 then
      let w := (off - 0x808) / 4
      ((List.range 0x2000).filterMap fun no => viewPage v no).foldl
        (fun a q =>
          if pageSource q / 32 = w ∧ viewSeesPage s.gate.act v q = true ∧ s.hub.status v q ≠ 0 then
            Nat.lor a (2 ^ (pageSource q % 32)) else a) 0
    else 0
  | .sdl => if off = 0x810 then s.sdl.cal else 0
  | .trnFlow =>
    if 0x810 ≤ off ∧ off < 0x820 then
      bitsOf 32 fun b =>
        let f := 128 * p.inst + 32 * ((off - 0x810) / 4) + b
        (SMap.get flowUnlisted s.trn.flow f).quarantined && s.seesPart v (ruPart s.gate.act (s.flowRu f))
    else 0
  | .irg =>
    if 0xF04 ≤ off ∧ off < 0xF10 then s.furrowWord v p.inst off
    else if p.inst = 8 ∧ (off = 0x808 ∨ off = 0x80C) then
      bitsOf (if off = 0x808 then 32 else 14) fun g => (SMap.get groupUnlisted s.irg.groups (32 * ((off - 0x808) / 4) + g)).above
    else if p.inst = 8 ∧ off = 0x810 then
      let free (k : Nat) : Nat := s.poolTags k - (s.holders k).length
      free 0 + 2 ^ 10 * free 9 + 2 ^ 19 * free 10
    else 0
  | .btp =>
    let b := s.btp p.inst
    let valid (t : Option Tile) : Nat := match t with
      | some x => x.tag % 2 ^ 15 + 2 ^ 15 * bit (x.valid && !x.bad)
      | none => 0
    if off = 0x800 then b.numActive.toNat
    else if off = 0x804 then b.winPos.toNat
    else if off = 0x808 then valid b.active + 2 ^ 16 * valid b.shadow
    else if off = 0x80C then b.kind + 2 ^ 3 * b.locRow + 2 ^ 12 * b.locCol
    else 0
  | .siv =>
    let x := (s.plot p.inst).siv
    if 0xA00 ≤ off ∧ off < 0xE00 then
      (SMap.get scaleUnlisted (if x.active then x.scale1 else x.scale0) ((off - 0xA00) / 4)).toNat
    else 0
  | .sto => s.stoWord v p.inst off
  | .pace =>
    if off = 0x808 then
      let n := SMap.get zeroUnlisted s.pwr.paceNow p.inst
      (if isVf v then coarse7 n else n) % 2 ^ 11
    else if 0x810 ≤ off ∧ off < 0x828 then packed 8 4 fun j => SMap.get ageUnlisted s.pwr.age (32 * p.inst + (off - 0x810) + j)
    else 0
  | .bed =>
    if off = 0x808 then
      packed 2 16 fun k => (SMap.get sproutUnlisted (s.bed (p.inst / 17) (p.inst % 17)).sprouts k).st.code
    else 0
  | .thr => if off = 0x808 then packed 3 5 s.thrUnit else 0
  | .ddr =>
    if off = 0x808 then s.ddr.mapped
    else if off = 0x80C then s.ddr.pool + 2 ^ 14 * (s.ddr.pool - s.ddr.taken)
    else if off = 0xF04 then
      let c := s.ddrCh (SMap.get zeroUnlisted s.ddr.query v.no)
      c.gen + 2 ^ 2 * c.mts + 2 ^ 16 * bit c.ranks2 + 2 ^ 17 * c.gibLog2 + 2 ^ 20 * c.refreshX
    else 0
  | .psf => if off = 0x808 then s.ring.routeEast + 2 ^ 8 * s.ring.reach else 0
  | .hstFn =>
    if off = 0xF14 then
      let x := SMap.get fnUnlisted s.irg.fn p.inst
      bit x.busy + 2 * bit x.done + 4 * x.code
    else 0
  | .sec =>
    if off = 0x808 then packed 3 8 fun q => s.ifSees v q (s.part q).st.code
    else if off = 0x810 then s.sec.pufCorrected + 2 ^ 10 * s.sec.pufAttempts
    else if 0x820 ≤ off ∧ off < 0x840 then beNat (slice s.sec.chain (off - 0x820) (off - 0x820 + 4))
    else if off = 0xF1C then (SMap.get wordUnlisted s.sec.result v.no).toNat
    else if off = 0xF20 then (SMap.get wordUnlisted s.sec.job v.no).toNat
    else 0
  | .rms => s.rmsWord v off
  | .trp =>
    if off = 0x810 then s.rms.logWritten
    else if off = 0xF04 ∨ off = 0xF08 then s.marginWord v off
    else 0
  | .rst => if off = 0xF04 then 2 * s.rms.rstResult else 0
  | .flt =>
    if off = 0x808 then s.flt.floor
    else if off = 0x810 then s.flt.written
    else if off = 0xF04 then s.unitWord v
    else 0
  | .pwr => s.pwrWord v off
  | .gkp =>
    if off = 0xF04 then bit s.gk.mb.isSome + 2 * s.gk.mbCode + 2 ^ 3 * s.gk.mbLen + 2 ^ 11 * bit s.gk.mbLost
    else 0
  | _ => 0

/-! ### A read -/

/-- The value a view has latched for a word (R492). -/
def State.latched (s : State) (v : View) (p : Page) (off : Nat) : Nat :=
  (SMap.get wordUnlisted s.hub.latch (v.no * 2 ^ 26 + regAddr p off)).toNat

/-- Offsets at which a page has latched words beside its counters. -/
def snapAt (k : PageKind) (off : Nat) : Bool :=
  match k with
  | .sdl => decide (0x840 ≤ off ∧ off < 0x8B0)
  | .trnRu => decide (0xF04 ≤ off ∧ off < 0xF44)
  | .rms => decide (0xF14 ≤ off ∧ off < 0xF20)
  | _ => false

/-- Words of which some fields are latched and the rest live: PWR_TEMP_RD and PWR_PACE. -/
def mixedAt (k : PageKind) (off : Nat) : Bool :=
  decide ((k = .pwr ∧ off = 0xF04) ∨ (k = .pace ∧ off = 0x808))

/-- A word of a page that stands at an offset of it, as a view reads it. -/
def State.readWord (s : State) (v : View) (p : Page) (dup : Bool) (off : Nat) : Nat :=
  if off = 0x00 then pageIdWord p dup
  else if off = 0x04 then pageVersionWord
  else if off = 0x08 then pageCapsWord v p.kind dup
  else if off = 0x14 then s.statusWord v p
  else if off = 0x20 then (s.evtRaw v p).toNat
  else if off = 0x24 then (s.evtMask v p).toNat
  else if off = 0x2C then (s.evtStatus v p).toNat
  else if isCounter p.kind off ∨ snapAt p.kind off then s.latched v p off
  else if mirrorAt p off then
    Nat.land (actW s.gate.act (regKey v p (off - 0x800))).toNat (readMask s.gate.act v p (off - 0x800))
  else
    match regAt p off with
    | none => 0
    | some (_, _, _, fs) =>
      if hasStg fs then
        let k := regKey v p off
        let w := match (s.chan (chanOf v)).stagedWords.find? fun w => decide (w.1 = k) with
          | some w => w.2
          | none => actW s.gate.act k
        Nat.land w.toNat (readMask s.gate.act v p off)
      else if fs.any fun f => decide (f.acc = .rw) then (SMap.get wordUnlisted s.gate.rw (regKey v p off)).toNat
      else if mixedAt p.kind off then Nat.lor (s.roWord v p off) (s.latched v p off)
      else s.roWord v p off

/-- A word of the Roster table (11 R283): entries of other partitions read 0. -/
def State.rosterWord (s : State) (v : View) (i w : Nat) : Nat :=
  let x := SMap.get zeroUnlisted s.rms.roster i
  if isVf v ∧ s.seesPart v (fieldOf x 7 3) = false then 0 else x / 2 ^ (32 * w) % 2 ^ 32

/-- Offset of the Roster table in a view's BAR0 (R504, R506). -/
def rosterBase (v : View) : Nat := if isVf v then 0x20000 else 0x1A40000

/-- A 32-bit read of the register path (R489, R490): zero where no register stands; all-ones in a function-level reset (17 R433). -/
def State.readReg (s : State) (v : View) (off : Nat) : Word :=
  BitVec.ofNat 32 (
    if s.inFlr v then 2 ^ 32 - 1
    else if inRoster v off then s.rosterWord v ((off - rosterBase v) / 64) (off / 4 % 16)
    else match viewPage v (off / 4096) with
      | none => 0
      | some p =>
        if (s.pwr.recovery ∧ ¬ inRecovery p.kind) ∨ viewSeesPage s.gate.act v p = false then 0
        else s.readWord v p (isSecondNo v (off / 4096)) (off % 4096))

end Sys2Proof.Machine
end

