-- ==== Sys2Proof/Machine/Groundskeeper.lean ====
section
/-!
DEFINITION. Groundskeeper's management and debug (20): the TAP, the halt of its core, the host mailbox, the management buses, monitoring,
platform events, firmware update and the console.
-/

namespace Sys2Proof.Machine

open Sys2Proof

/-! ### The TAP (R482, R483) -/

/-- An instruction takes effect in the TAP, and shifts a word out; in Test-Logic-Reset none is loaded. -/
def State.tapRun (s : State) (ir word : Nat) : State :=
  if s.gk.tapOut then { s with gk := { s.gk with tapIr := ir } }.emit (Sent.tap word) else s

/-- An instruction that is run as BYPASS unless the device is held in power-on reset. -/
def State.tapHeld (s : State) (ir word : Nat) : State := if s.held then s.tapRun ir word else s.tapRun 1 0

/-- IDCODE (R482). -/
def execIdcode (s : State) : Host.Outcome State Fault Refusal := .next (s.tapRun 0 0x194006B7)

/-- BYPASS (R482): one bit of 0. -/
def execBypass (s : State) : Host.Outcome State Fault Refusal := .next (s.tapRun 1 0)

/-- SAMPLE/PRELOAD (R482): the pins are captured and shifted out, and the boundary register takes what is shifted in. -/
def execSamplePreload (pins load : Nat) (s : State) : Host.Outcome State Fault Refusal :=
  .next (
    if s.gk.tapOut then { s with gk := { s.gk with boundary := load } }.tapRun 2 pins else s)

/-- EXTEST (R482): the pins are driven from the boundary register while the device is held in power-on reset. -/
def execExtest (pins load : Nat) (s : State) : Host.Outcome State Fault Refusal :=
  .next (
    if s.gk.tapOut ∧ s.held then { s with gk := { s.gk with boundary := load } }.tapHeld 3 pins else s.tapHeld 3 pins)

/-- CLAMP (R482). -/
def execClamp (s : State) : Host.Outcome State Fault Refusal := .next (s.tapHeld 4 0)

/-- HIGHZ (R482). -/
def execHighz (s : State) : Host.Outcome State Fault Refusal := .next (s.tapHeld 5 0)

/-! ### Whether Groundskeeper answers -/

/-- Groundskeeper's firmware runs, and its core is not halted (R469, R483). -/
def State.gkRuns (s : State) : Bool := s.gk.fwRun && !s.hub.gkHalted

/-! ### Sensors (R477) -/

/-- Whether a Plot's sensors report: it is neither Pruned nor left out at start-up. -/
def State.plotSensed (s : State) (n : Nat) : Bool := !s.pruned n && decide (fieldOf s.pwr.plotsOut n 1 = 0)

/-- The least of some margins, 0xFF where none is read. -/
def leastMargin (l : List Nat) : Nat := l.foldl min 0xFF

/-- The reading of a sensor; none where there is no such sensor, or it is unavailable. -/
def State.sensor (s : State) (id : Nat) : Option Int :=
  if 1 ≤ id ∧ id ≤ 24 then some (SMap.get intUnlisted s.pwr.temp (id - 1))
  else if id = 25 then some ((List.range 24).foldl (fun a k => max a (SMap.get intUnlisted s.pwr.temp k)) (-2048))
  else if 32 ≤ id ∧ id ≤ 41 then some ((s.pwr.volts.getD (id - 32) 0 : Nat) : Int)
  else if id = 48 then some (s.pwr.iout : Int)
  else if id = 49 then some (s.pwr.meanW : Int)
  else if 64 ≤ id ∧ id ≤ 71 then
    if s.plotSensed (id - 64) then some ((SMap.get zeroUnlisted s.pwr.paceNow (id - 64) : Nat) : Int) else none
  else if 72 ≤ id ∧ id ≤ 79 then
    if s.plotSensed (id - 72) then
      some (leastMargin ((List.range 24).map fun k => SMap.get ageUnlisted s.pwr.age (32 * (id - 72) + k)) : Int)
    else none
  else if id = 80 then some (leastMargin ((List.range 5).map fun u => SMap.get ageUnlisted s.pwr.ageThr u) : Int)
  else if id = 96 then some (s.level : Int)
  else none

/-- Sensors that R477 lists. -/
def sensorIds : List Nat := List.range' 1 25 ++ List.range' 32 10 ++ [48, 49] ++ List.range' 64 8 ++ List.range' 72 8 ++ [80, 96]

/-! ### The mailbox (R484) -/

/-- Key of GKP_MB_DATA[k]. -/
def mbKey (k : Nat) : Nat := regKey .pf pgGkp (0xF40 + 4 * k)

/-- The first bytes of GKP_MB_DATA. -/
def State.mbBytes (s : State) (n : Nat) : List (BitVec 8) :=
  ((List.range 48).flatMap fun k => natLe 4 (SMap.get wordUnlisted s.gate.rw (mbKey k)).toNat).take n

/-- A response is written into GKP_MB_DATA, and the command ends with CODE 0; MB_DONE. -/
def State.mbAnswer (s : State) (lost : Bool) (data : List (BitVec 8)) : State :=
  let n := (data.length + 3) / 4
  let rw := (List.range n).foldl
    (fun m k => SMap.put wordUnlisted m (mbKey k) (BitVec.ofNat 32 (leNat (slice data (4 * k) (4 * k + 4))))) s.gate.rw
  { s with
    gate := { s.gate with rw := rw }
    gk := { s.gk with mb := none, mbCode := 0, mbLen := data.length, mbLost := lost } }.raise pgGkp 8 none

/-- A command ends with a code other than 0. -/
def State.mbRefuse (s : State) (code : Nat) : State :=
  { s with gk := { s.gk with mb := none, mbCode := code, mbLen := 0, mbLost := false } }.raise pgGkp 8 none

/-- An Almanac record as its 32 bytes (19 R471). -/
def almBytes (r : AlmRec) : List (BitVec 8) :=
  let b := natLe 2 0x414C ++ natLe 4 r.start ++ natLe 1 r.step ++ natLe 1 r.outcome ++ natLe 1 r.variant ++ natLe 1 r.unit ++
    natLe 2 0 ++ natLe 16 r.detail
  b ++ natLe 4 (Config.crc32 b)

/-- The response of READ_SENSORS, READ_ALMANAC or READ_FAULTS to a first item and a count; none where the count is out of range. -/
def State.mbList (s : State) (op first count : Nat) : Option (List (BitVec 8)) :=
  if op = 2 then
    if count ≤ 40 then
      some ((List.range' first count).flatMap fun i =>
        natLe 4 (match s.sensor i with
          | some x => unsignedOf 32 x
          | none => Config.noReading i))
    else none
  else if 6 < count then none
  else if op = 3 then some (((s.pwr.almanac.reverse.drop first).take count).flatMap almBytes)
  else some ((s.flt.latest.drop (s.flt.latest.length - count)).flatMap (natLe 16))

/-- The type, SVN and digest of each object of the active set. -/
def State.objects (s : State) : List (Nat × Nat × List (BitVec 8)) :=
  ([1, 2, 3, 4] : List Nat).map fun k =>
    let key := 8 * s.gk.activeSet + k
    (k, SMap.get zeroUnlisted s.gk.setSvn key,
      Config.objectDigest k (2 * SMap.get zeroUnlisted s.gk.gens key + s.gk.activeSet))

/-- Groundskeeper performs an operation of the mailbox. -/
def State.mbRun (s : State) (op len : Nat) : State :=
  if op = 0 ∨ 5 < op then s.mbRefuse 1
  else if 192 < len then s.mbRefuse 2
  else if op = 1 then s.mbAnswer false ((Config.infoBytes s.gk.activeSet s.objects).take 192)
  else if op = 4 then
    match s.gk.notices with
    | [] => s.mbRefuse 1
    | n :: rest =>
      { s with gk := { s.gk with notices := rest, lost := false } }.mbAnswer s.gk.lost (natLe 4 n)
  else
    match Config.mbRequest op (s.mbBytes len) with
    | none => s.mbRefuse 2
    | some r =>
      match s.mbList op r.1 r.2 with
      | none => s.mbRefuse 2
      | some d => s.mbAnswer false d

/-- A write of GKP_MB_CMD (R484): ignored while a command runs; answered while Groundskeeper runs, and waiting for it otherwise. -/
def State.mbCommand (s : State) (v : View) (op len t : Nat) : State :=
  (s.advance t).onPage v (pageNo pgGkp) 0xF00 fun p s =>
    if s.gk.mb.isSome then s.dropped v p
    else if s.gkRuns then s.mbRun op len
    else { s with gk := { s.gk with mb := some (op, len) } }

/-- GET_INFO (R484). -/
def execGetInfo (v : View) (len : Fin 256) (t : Nat) (s : State) : Host.Outcome State Fault Refusal :=
  .next (s.live fun s => s.mbCommand v 1 len.val t)

/-- READ_SENSORS (R484). -/
def execReadSensors (v : View) (len : Fin 256) (t : Nat) (s : State) : Host.Outcome State Fault Refusal :=
  .next (s.live fun s => s.mbCommand v 2 len.val t)

/-- READ_ALMANAC (R484): the head is the record written last. -/
def execReadAlmanac (v : View) (len : Fin 256) (t : Nat) (s : State) : Host.Outcome State Fault Refusal :=
  .next (s.live fun s => s.mbCommand v 3 len.val t)

/-- READ_NOTE (R484). -/
def execReadNote (v : View) (len : Fin 256) (t : Nat) (s : State) : Host.Outcome State Fault Refusal :=
  .next (s.live fun s => s.mbCommand v 4 len.val t)

/-- READ_FAULTS (R484). -/
def execReadFaults (v : View) (len : Fin 256) (t : Nat) (s : State) : Host.Outcome State Fault Refusal :=
  .next (s.live fun s => s.mbCommand v 5 len.val t)

/-! ### The halt of the core (R483) -/

/-- CORE_HALT (R483): a debug instruction. -/
def execCoreHalt (t : Nat) (s : State) : Host.Outcome State Fault Refusal :=
  .next (s.live fun s0 =>
    let s := s0.advance t
    if s.gk.tapOut then { s with gk := { s.gk with tapIr := 6 }, hub := { s.hub with gkHalted := true } } else s)

/-- CORE_RESUME (R483): the records that queued reach Groundskeeper, and a mailbox command that waited is performed. -/
def execCoreResume (t : Nat) (s : State) : Host.Outcome State Fault Refusal :=
  .next (s.live fun s0 =>
    let s := s0.advance t
    if s.gk.tapOut ∧ s.hub.gkHalted then
      let s1 := { s with gk := { s.gk with tapIr := 6 }, hub := { s.hub with gkHalted := false, gkQueued := 0 } }
      match s1.gk.mb with
      | some c => if s1.gkRuns then s1.mbRun c.1 c.2 else s1
      | none => s1
    else s)

/-! ### Management buses (R476) -/

/-- ENTDAA (R476): the management pins act as an I3C target with the address given. -/
def execEntdaa (addr : Fin 128) (s : State) : Host.Outcome State Fault Refusal :=
  .next (s.live fun s => { s with gk := { s.gk with i3c := true, addr := addr.val } })

/-- SET_ENDPOINT_ID (R476): a second replaces the first. -/
def execSetEndpointId (tr : Fin 2) (eid : Fin 256) (s : State) : Host.Outcome State Fault Refusal :=
  .next (s.live fun s =>
    if s.gkRuns then
      ({ s with gk := { s.gk with eid := SMap.insert s.gk.eid tr.val eid.val } }).emit (Sent.answer 2 0 [tr.val, eid.val])
    else s)

/-- A PLDM request on a binding: without an EID it is answered with an error. -/
def State.pldm (s : State) (tr : Nat) (f : State → State) : State :=
  if s.gkRuns = false then s
  else if s.hasEid tr = false then s.emit (Sent.answer 2 1 [tr])
  else f s

/-- A PLDM response: its command, the requester, the completion code and data (the command and completion codes are PLDM's, log 83). -/
def State.pldmAnswer (s : State) (cmd tr req code : Nat) (words : List Nat) : State :=
  s.emit (Sent.answer 1 cmd (tr :: req :: code :: words))

/-! ### Monitoring and platform events (R477, R478) -/

/-- GET_SENSOR_READING (R477): 96 is a state sensor; a sensor without a reading reports the state unavailable. -/
def execGetSensorReading (tr : Fin 2) (req id : Fin 256) (s : State) : Host.Outcome State Fault Refusal :=
  .next (s.live fun s => s.pldm tr.val fun s =>
    if id.val ∈ sensorIds then
      match s.sensor id.val with
      | some x => s.pldmAnswer (if id.val = 96 then 0x21 else 0x11) tr.val req.val 0 [id.val, 0, unsignedOf 32 x]
      | none => s.pldmAnswer 0x11 tr.val req.val 0 [id.val, 2]
    else s.pldmAnswer 0x11 tr.val req.val 0x80 [id.val])

/-- SET_EVENT_RECEIVER (R478). -/
def execSetEventReceiver (tr : Fin 2) (req : Fin 256) (eid : Option Nat) (s : State) : Host.Outcome State Fault Refusal :=
  .next (s.live fun s => s.pldm tr.val fun s =>
    ({ s with gk := { s.gk with receiver := eid } }).pldmAnswer 0x04 tr.val req.val 0 [])

/-- PLATFORM_EVENT_RESEND (R478): a message unacknowledged for 1 s is sent again, three times at most; then it is given up (log 87). -/
def execPlatformEventResend (seq : Fin 256) (t : Nat) (s : State) : Host.Outcome State Fault Refusal :=
  .next (s.live fun s0 =>
    let s := s0.advance t
    match s.gk.receiver, s.gk.unacked.find? fun m => decide (m.seq = seq.val) with
    | some r, some m =>
      if s.gkRuns = false ∨ s.reached (m.sentAt + 10 ^ 9 * nsRef) = false then s
      else if 3 ≤ m.resends then
        { s with gk := { s.gk with unacked := s.gk.unacked.filter fun x => decide (x.seq ≠ seq.val) } }
      else
        { s with gk := { s.gk with unacked := s.gk.unacked.map fun (x : EvtMsg) =>
            if x.seq = seq.val then { x with resends := x.resends + 1, sentAt := s.sdl.ref } else x } }.emit
          (Sent.answer 1 0x0A (r :: m.seq :: m.what :: m.words))
    | _, _ => s)

/-- PLATFORM_EVENT_ACK (R478). -/
def execPlatformEventAck (seq : Fin 256) (s : State) : Host.Outcome State Fault Refusal :=
  .next (s.live fun s =>
    if s.gkRuns then { s with gk := { s.gk with unacked := s.gk.unacked.filter fun x => decide (x.seq ≠ seq.val) } } else s)

/-! ### Firmware update (R479, R480) -/

/-- The image set that an update writes. -/
def State.inactive (s : State) : Nat := 1 - s.gk.activeSet

/-- Change the update in progress. -/
def State.modUpdate (s : State) (f : Update → Update) : State := { s with gk := { s.gk with update := s.gk.update.map f } }

/-- A request of the agent whose update is in progress; any other is answered NOT_IN_UPDATE_MODE. -/
def State.inUpdate (s : State) (cmd tr req : Nat) (f : Update → State → State) : State :=
  match s.gk.update with
  | some u => if u.requester = req then f u s else s.pldmAnswer cmd tr req 0x80 []
  | none => s.pldmAnswer cmd tr req 0x80 []

/-- REQUEST_UPDATE (R479): while an update is in progress it is answered ALREADY_IN_UPDATE_MODE. -/
def execRequestUpdate (tr : Fin 2) (req : Fin 256) (s : State) : Host.Outcome State Fault Refusal :=
  .next (s.live fun s => s.pldm tr.val fun s =>
    if s.gk.update.isSome then s.pldmAnswer 0x10 tr.val req.val 0x81 []
    else ({ s with gk := { s.gk with update := some { requester := req.val } } }).pldmAnswer 0x10 tr.val req.val 0 [])

/-- PASS_COMPONENT_TABLE (R479): components are known by the object types of 15 R369. -/
def execPassComponentTable (tr : Fin 2) (req : Fin 256) (types : List Nat) (s : State) : Host.Outcome State Fault Refusal :=
  .next (s.live fun s => s.pldm tr.val fun s => s.inUpdate 0x13 tr.val req.val fun _ s =>
    (s.modUpdate fun u => { u with table := types.filter fun k => decide (1 ≤ k ∧ k ≤ 4) }).pldmAnswer 0x13 tr.val req.val 0
      (types.map fun k => bit (decide (k < 1 ∨ 4 < k))))

/-- UPDATE_COMPONENT (R479): Groundskeeper begins to pull the image into the inactive set. -/
def execUpdateComponent (tr : Fin 2) (req : Fin 256) (type : Fin 16) (svn : Nat) (s : State) : Host.Outcome State Fault Refusal :=
  .next (s.live fun s => s.pldm tr.val fun s => s.inUpdate 0x14 tr.val req.val fun u s =>
    if u.current.isSome then s.pldmAnswer 0x14 tr.val req.val 0x84 []
    else if type.val ∉ u.table then s.pldmAnswer 0x14 tr.val req.val 0 [1]
    else
      let key := 8 * s.inactive + type.val
      let s1 := s.modUpdate fun u => { u with
        comps := (u.comps.filter fun c => decide (c.type ≠ type.val)) ++ [{ type := type.val, svn := svn }]
        current := some type.val }
      (({ s1 with gk := { s1.gk with gens := SMap.modify zeroUnlisted s1.gk.gens key (· + 1) } }).pldmAnswer 0x14 tr.val req.val 0 [0]).emit
        (Sent.answer 1 0x15 [type.val, 0]))

/-- FIRMWARE_DATA (R479): data of the component being pulled; the next are requested. -/
def execFirmwareData (data : List Byte) (s : State) : Host.Outcome State Fault Refusal :=
  .next (s.live fun s =>
    match s.gk.update with
    | some u =>
      match u.current with
      | some k =>
        if s.gkRuns then
          let n := ((u.comps.find? fun c => decide (c.type = k)).map (·.bytes)).getD 0 + data.length
          (s.modUpdate fun u => { u with comps := u.comps.map fun (c : Component) => if c.type = k then { c with bytes := n } else c }).emit
            (Sent.answer 1 0x15 [k, n])
        else s
      | none => s
    | none => s)

/-- Whether a component passes its checks (R479 order 4; 15 R370). -/
def State.checked (s : State) (k : Nat) (c : ObjCheck) : Bool :=
  c.digest && c.mlDsa && c.ed25519 && (decide (k ≠ 3) || c.secret) && decide (s.sec.minSvn ≤ c.svn)

/-- VERIFY_COMPLETE (R479): a component whose checks pass is reported verified and applied; one that fails ends the update. -/
def execVerifyComplete (c : ObjCheck) (s : State) : Host.Outcome State Fault Refusal :=
  .next (s.live fun s =>
    match s.gk.update with
    | some u =>
      match u.current with
      | some k =>
        if s.gkRuns = false then s
        else if s.checked k c then
          let s1 := s.modUpdate fun u => { u with
            current := none
            comps := u.comps.map fun (x : Component) => if x.type = k then { x with verified := true, svn := c.svn } else x }
          (({ s1 with gk := { s1.gk with setSvn := SMap.put zeroUnlisted s1.gk.setSvn (8 * s1.inactive + k) c.svn } }).emit
            (Sent.answer 1 0x17 [k, 0])).emit (Sent.answer 1 0x18 [k, 0])
        else (s.dropUpdate).emit (Sent.answer 1 0x17 [k, 1])
      | none => s
    | none => s)

/-- The updated set is named active: the flash layout record, the Almanac, notice 3, the count (R479, R480). -/
def State.activate (s : State) (almOk : Bool) : State :=
  let new := s.inactive
  let s1 := { s with gk := { s.gk with layoutSet := new, invalid := SMap.put flagUnlisted s.gk.invalid new false, update := none } }
  (((s1.almanac { start := 0, step := 0x15, outcome := 1 } almOk).bump pgGkp 0x58 none).notice 3)

/-- Self-contained activation: Groundskeeper restarts on the new firmware (R480). -/
def State.selfActivate (s : State) : State :=
  let key := 8 * s.gk.layoutSet + 1
  { s with
    gk := { s.gk with
      activeSet := s.gk.layoutSet
      inUse := SMap.put zeroUnlisted s.gk.inUse 1 (2 * SMap.get zeroUnlisted s.gk.gens key + s.gk.layoutSet) }
    sec := { s.sec with svn := SMap.put zeroUnlisted s.sec.svn 1 (SMap.get zeroUnlisted s.gk.setSvn key) } }.gkRestart

/-- ACTIVATE_FIRMWARE (R479, R480): self-contained activation is accepted when every component is of type 1. -/
def execActivateFirmware (tr : Fin 2) (req : Fin 256) (self almOk : Bool) (t : Nat) (s : State) : Host.Outcome State Fault Refusal :=
  .next (s.live fun s0 => (s0.advance t).pldm tr.val fun s => s.inUpdate 0x1A tr.val req.val fun u s =>
    if u.current.isSome ∨ u.comps = [] ∨ (u.comps.all (·.verified)) = false then s.pldmAnswer 0x1A tr.val req.val 0x85 []
    else if self ∧ (u.comps.any fun c => decide (c.type ≠ 1)) = true then s.pldmAnswer 0x1A tr.val req.val 0x8B []
    else
      let s1 := (s.activate almOk).pldmAnswer 0x1A tr.val req.val 0 []
      if self then s1.selfActivate else s1)

/-- CANCEL_UPDATE (R479). -/
def execCancelUpdate (tr : Fin 2) (req : Fin 256) (s : State) : Host.Outcome State Fault Refusal :=
  .next (s.live fun s => s.pldm tr.val fun s => s.inUpdate 0x1D tr.val req.val fun _ s =>
    s.dropUpdate.pldmAnswer 0x1D tr.val req.val 0 [])

/-! ### The console (R481) -/

/-- What a status command answers: versions, SVNs, READY, the throttle level, the sensors, the last 16 fault-block records. -/
def State.consoleWords (s : State) (what : Nat) : List Nat :=
  match what with
  | 0 => [Config.firmwareVersion (s.inUse 1)]
  | 1 => ([1, 2, 3, 4] : List Nat).map (SMap.get zeroUnlisted s.sec.svn)
  | 2 => [bit s.pwr.ready]
  | 3 => [s.level]
  | 4 => sensorIds.flatMap fun i => match s.sensor i with
      | some x => [i, unsignedOf 32 x]
      | none => [i]
  | _ => s.flt.latest

/-- CONSOLE_STATUS (R481): without login. -/
def execConsoleStatus (what : Fin 6) (s : State) : Host.Outcome State Fault Refusal :=
  .next (s.live fun s => if s.gkRuns then s.emit (Sent.answer 4 0 (what.val :: s.consoleWords what.val)) else s)

/-- CONSOLE_LOGIN (R481): a challenge is issued, and its answer verifies (`ok`) or not. The third failed answer locks the console for
60 s. -/
def execConsoleLogin (ok : Bool) (t : Nat) (s : State) : Host.Outcome State Fault Refusal :=
  .next (s.live fun s0 =>
    let s := s0.advance t
    if s.gkRuns = false ∨ s.sec.console = true then s
    else if s.sdl.ref < s.gk.lockedTo then s.emit (Sent.answer 4 2 [])
    else
      let s1 := (s.emit (Sent.answer 4 1 [Config.challenge s.free])).tick
      if ok then
        { s1 with
          gk := { s1.gk with fails := 0, active := s1.sdl.ref }
          sec := { s1.sec with console := true } }.debugBegin 2 s1.enabledMask 0
      else
        let lock := decide (3 ≤ s1.gk.fails + 1)
        { s1 with gk := { s1.gk with
          fails := if lock then 0 else s1.gk.fails + 1
          lockedTo := if lock then s1.sdl.ref + 60 * 10 ^ 9 * nsRef else s1.gk.lockedTo } }.bump pgGkp 0x50 none)

/-- Whether an entry of a partition stands over an absolute row: ACTIVE, or as it stood when it left that state (06 R157, R158). -/
def State.rowOwned (s : State) (n : Nat) (st : Store) (row p : Nat) : Bool :=
  (List.range 32).any fun e =>
    let x := s.win n e
    if x.st = .active then
      let b := winBase s.gate.act n e st
      decide (winPart s.gate.act n e = p ∧ b ≤ row ∧ row < b + winSize s.gate.act n e st)
    else decide (x.st ≠ .free ∧ x.part = p ∧ x.base st ≤ row ∧ row < x.base st + x.size st)

/-- Partitions that a debug transfer from a Trellis address touches: the owners of the rows, of the region, or of the Bed's Sprouts
(15 R375). -/
def State.transferMask (s : State) (addr len : Nat) : Nat :=
  let m := s.gate.act
  match s.ownPlace addr with
  | .store n st row byte => bitsOf 8 fun p => (List.range ((byte + len + 63) / 64)).any fun k => s.rowOwned n st (row + k) p
  | .sprout i _ => bitsOf 8 fun p => match (s.sprout i).ctx with
    | some c => decide (s.partOf c = p)
    | none => false
  | .bed n _ _ => bitsOf 8 fun p => decide (Machine.plotPart m n = some p)
  | .dram a => bitsOf 8 fun p => partEn m p && (pagesOf (a - dramBase) len).any (inRegions m s.usable p)
  | _ => 0

/-- The bytes that a debug transfer delivers, none where a codeword is uncorrectable or nothing stands there (01 R17, 06 R158). -/
def State.debugRead (s : State) (addr len : Nat) : Option (List (BitVec 8)) × State :=
  match s.ownPlace addr with
  | .store n st row byte =>
    let r := (List.range ((byte + len + 63) / 64)).foldl
      (fun (acc : Option (List (BitVec 8)) × State) k =>
        if storeRows st ≤ row + k then (none, acc.2)
        else
          let x := acc.2.readRow n st (row + k)
          ((match acc.1, x.1 with
            | some l, some d => some (l ++ natLe 64 d)
            | _, _ => none), x.2)) (some [], s)
    (r.1.map fun l => slice l byte (byte + len), r.2)
  | .sprout i off => s.sproutBytes i off len
  | .bed _ _ a => (s.bedBytes a len, s)
  | .dram a => s.dramRead none a len
  | _ => (none, s)

/-- CONSOLE_DEBUG (R481): after a login, a read of the register path, a debug transfer, or a read of an Almanac record. -/
def execConsoleDebug (x : ConsoleCmd) (t : Nat) (s : State) : Host.Outcome State Fault Refusal :=
  .next (s.live fun s0 =>
    let s := s0.advance t
    if s.gkRuns = false then s
    else if s.sec.console = false then s.emit (Sent.answer 4 3 [])
    else
      let s1 := { s with gk := { s.gk with active := s.sdl.ref } }
      match x with
      | .readReg off =>
        let a := off % 2 ^ 26 / 4 * 4
        let s2 := if inRoster .gk a ∨ (viewPage .gk (a / 4096)).isSome then s1 else s1.badAccess .gk a false false
        s2.emit (Sent.answer 4 4 [a, (s1.readReg .gk a).toNat])
      | .transfer addr len =>
        let s2 := s1.debugBegin 3 (s1.transferMask addr len) addr
        let r := s2.debugRead addr len
        let words := match r.1 with
          | some l => [addr, leNat l]
          | none => [addr]
        ((r.2.record pgGkp 34 words).emit (Sent.answer 4 5 words)).debugEnd 3 addr
      | .readAlmanac i =>
        s1.emit (Sent.answer 4 6 (match s1.pwr.almanac.reverse[i]? with
          | some r => [leNat (almBytes r)]
          | none => [])))

/-- CONSOLE_LOGOUT (R481): a logout, or 15 minutes of idleness. -/
def execConsoleLogout (idle : Bool) (t : Nat) (s : State) : Host.Outcome State Fault Refusal :=
  .next (s.live fun s0 =>
    let s := s0.advance t
    if idle ∧ s.reached (s.gk.active + 15 * 60 * 10 ^ 9 * nsRef) = false then s else s.logout)

end Sys2Proof.Machine
end

