-- ==== Sys2Proof/Machine/Sprouts.lean ====
section
/-!
DEFINITION. The Sprout's instructions (05 R121 to R129), the switch of banks (R127) and the Gatherer's row access (R130, R131).
The manual gives no encoding of them, so each command carries its operands.
-/

namespace Sys2Proof.Machine

open Sys2Proof

/-! ### Complex MAC -/

/-- CMAC (R121). -/
def execCmac (i : SproutId) (ax ay : Fin 8) (s : State) : Host.Outcome State Fault Refusal :=
  .next (s.live fun s => s.complexMac i ax ay false false false)

/-- CMACC (R121): the X operand conjugated. -/
def execCmacc (i : SproutId) (ax ay : Fin 8) (s : State) : Host.Outcome State Fault Refusal :=
  .next (s.live fun s => s.complexMac i ax ay true false false)

/-- CMSU (R121). -/
def execCmsu (i : SproutId) (ax ay : Fin 8) (s : State) : Host.Outcome State Fault Refusal :=
  .next (s.live fun s => s.complexMac i ax ay false true false)

/-- CMUL (R121): clear, then multiply. -/
def execCmul (i : SproutId) (ax ay : Fin 8) (s : State) : Host.Outcome State Fault Refusal :=
  .next (s.live fun s => s.complexMac i ax ay false false true)

/-- ACLR (R121). -/
def execAclr (i : SproutId) (s : State) : Host.Outcome State Fault Refusal :=
  .next (s.live fun s => s.issue i 1 fun x => x.setBank { x.bank with re := 0, im := 0 })

/-- What RDACC makes of one part: times 2^k, in Q1.15 from units of 2^−30, rounded and saturated (R120). -/
def readPart (v : Int) (k : Int) : Int × Nat :=
  satBits 16 (if k ≤ 15 then rneDiv v (2 ^ (15 - k).toNat) else v * 2 ^ (k - 15).toNat)

/-- RDACC (R120): `k` from −8 to 15. -/
def execRdacc (i : SproutId) (rd : SReg) (k : Int) (s : State) : Host.Outcome State Fault Refusal :=
  .next (s.live fun s =>
    s.issueAlu i rd fun x =>
      (cplxOf (readPart x.bank.re k).1 (readPart x.bank.im k).1, (readPart x.bank.re k).2 + (readPart x.bank.im k).2))

/-! ### Data memory -/

/-- A load from a half, with post-modify (R121). -/
def State.loadWord (s : State) (i : SproutId) (rd : SReg) (a : Fin 8) (half : Nat) : State :=
  let off := half * 0x2000 + (s.sprout i).get (.a a) % 0x2000
  s.issueRead i [off] fun s => s.issue i 1 fun x => (x.postModify a).set rd (s.dataRead i off)

/-- A store to a half, with post-modify (R121). -/
def State.storeWord (s : State) (i : SproutId) (rs : SReg) (a : Fin 8) (half : Nat) : State :=
  let off := half * 0x2000 + (s.sprout i).get (.a a) % 0x2000
  s.issueRead i [off] fun s => (s.dataWrite i off ((s.sprout i).get rs)).issue i 1 fun x => x.postModify a

/-- LDX (R121). -/
def execLdx (i : SproutId) (rd : SReg) (a : Fin 8) (s : State) : Host.Outcome State Fault Refusal :=
  .next (s.live fun s => s.loadWord i rd a 0)

/-- LDY (R121). -/
def execLdy (i : SproutId) (rd : SReg) (a : Fin 8) (s : State) : Host.Outcome State Fault Refusal :=
  .next (s.live fun s => s.loadWord i rd a 1)

/-- STX (R121). -/
def execStx (i : SproutId) (rs : SReg) (a : Fin 8) (s : State) : Host.Outcome State Fault Refusal :=
  .next (s.live fun s => s.storeWord i rs a 0)

/-- STY (R121). -/
def execSty (i : SproutId) (rs : SReg) (a : Fin 8) (s : State) : Host.Outcome State Fault Refusal :=
  .next (s.live fun s => s.storeWord i rs a 1)

/-! ### ALU -/

/-- ADD (R120, R121). -/
def execAdd (i : SproutId) (packed : Bool) (rd ra rb : SReg) (s : State) : Host.Outcome State Fault Refusal :=
  .next (s.live fun s => s.issueAlu i rd fun x => aluOf packed (fun a b => a + b) (x.get ra) (x.get rb))

/-- SUB (R120, R121). -/
def execSub (i : SproutId) (packed : Bool) (rd ra rb : SReg) (s : State) : Host.Outcome State Fault Refusal :=
  .next (s.live fun s => s.issueAlu i rd fun x => aluOf packed (fun a b => a - b) (x.get ra) (x.get rb))

/-- ABS (R120, R121). -/
def execAbs (i : SproutId) (packed : Bool) (rd ra : SReg) (s : State) : Host.Outcome State Fault Refusal :=
  .next (s.live fun s => s.issueAlu i rd fun x => aluOf packed (fun a _ => if a < 0 then -a else a) (x.get ra) 0)

/-- NEG (R120, R121). -/
def execNeg (i : SproutId) (packed : Bool) (rd ra : SReg) (s : State) : Host.Outcome State Fault Refusal :=
  .next (s.live fun s => s.issueAlu i rd fun x => aluOf packed (fun a _ => -a) (x.get ra) 0)

/-- MIN (R121). -/
def execMin (i : SproutId) (packed : Bool) (rd ra rb : SReg) (s : State) : Host.Outcome State Fault Refusal :=
  .next (s.live fun s => s.issueAlu i rd fun x => aluOf packed (fun a b => min a b) (x.get ra) (x.get rb))

/-- MAX (R121). -/
def execMax (i : SproutId) (packed : Bool) (rd ra rb : SReg) (s : State) : Host.Outcome State Fault Refusal :=
  .next (s.live fun s => s.issueAlu i rd fun x => aluOf packed (fun a b => max a b) (x.get ra) (x.get rb))

/-- Whether a relation holds: 0 equal, 1 not equal, 2 less, 3 at most, 4 greater, 5 at least, of INT32 values; of packed
pairs it is a free value (log 31). -/
def relHolds (packed : Bool) (rel a b : Nat) : Bool :=
  let x := signedOf 32 (a % 2 ^ 32)
  let y := signedOf 32 (b % 2 ^ 32)
  if packed then Config.packedCompare rel a b
  else if rel = 0 then decide (x = y)
  else if rel = 1 then decide (x ≠ y)
  else if rel = 2 then decide (x < y)
  else if rel = 3 then decide (x ≤ y)
  else if rel = 4 then decide (y < x)
  else decide (y ≤ x)

/-- CMP (R121): sets the condition flag. -/
def execCmp (i : SproutId) (packed : Bool) (rel : Fin 6) (ra rb : SReg) (s : State) : Host.Outcome State Fault Refusal :=
  .next (s.live fun s =>
    s.issue i 1 fun x => x.setBank { x.bank with cond := relHolds packed rel.val (x.get ra) (x.get rb) })

/-- SEL (R121): the first operand where the condition flag is set, else the second. -/
def execSel (i : SproutId) (rd ra rb : SReg) (s : State) : Host.Outcome State Fault Refusal :=
  .next (s.live fun s => s.issueAlu i rd fun x => (if x.bank.cond then x.get ra else x.get rb, 0))

/-- SHL (R120, R121): the exact value, saturated. -/
def execShl (i : SproutId) (packed : Bool) (rd ra : SReg) (k : Fin 32) (s : State) : Host.Outcome State Fault Refusal :=
  .next (s.live fun s => s.issueAlu i rd fun x => aluOf packed (fun a _ => a * 2 ^ k.val) (x.get ra) 0)

/-- SHR (R120, R121): the exact value, rounded by R51. -/
def execShr (i : SproutId) (packed : Bool) (rd ra : SReg) (k : Fin 32) (s : State) : Host.Outcome State Fault Refusal :=
  .next (s.live fun s => s.issueAlu i rd fun x => aluOf packed (fun a _ => rneDiv a (2 ^ k.val)) (x.get ra) 0)

/-- CONJ (R121): the imaginary part negated, saturated. -/
def execConj (i : SproutId) (rd ra : SReg) (s : State) : Host.Outcome State Fault Refusal :=
  .next (s.live fun s =>
    s.issueAlu i rd fun x => (cplxOf (cplxRe (x.get ra)) (satBits 16 (-cplxIm (x.get ra))).1, (satBits 16 (-cplxIm (x.get ra))).2))

/-- SWAPRI (R121). -/
def execSwapri (i : SproutId) (rd ra : SReg) (s : State) : Host.Outcome State Fault Refusal :=
  .next (s.live fun s => s.issueAlu i rd fun x => (cplxOf (cplxIm (x.get ra)) (cplxRe (x.get ra)), 0))

/-- CLRSAT (R120). -/
def execClrsat (i : SproutId) (s : State) : Host.Outcome State Fault Refusal :=
  .next (s.live fun s => s.issue i 1 fun x => x.setBank { x.bank with sat := false })

/-! ### Normalise and seed (R122) -/

/-- Redundant sign bits of an INT32 value: how many bits below the sign bit equal it. -/
def redundantBits (x : Nat) : Nat :=
  let v := signedOf 32 (x % 2 ^ 32)
  let m := if v < 0 then (-v - 1).toNat else v.toNat
  31 - (if m = 0 then 0 else Nat.log2 m + 1)

/-- NRM (R122). -/
def execNrm (i : SproutId) (rd ra : SReg) (s : State) : Host.Outcome State Fault Refusal :=
  .next (s.live fun s => s.issueAlu i rd fun x => (redundantBits (x.get ra), 0))

/-- RCPS of a Q1.15 value: RNE(0.5 / x), saturated; none outside 0.5 ≤ x < 1. -/
def rcps (x : Nat) : Option (Nat × Nat) :=
  if 16384 ≤ x ∧ x < 32768 then
    let r := satBits 16 (rneDiv (2 ^ 29) x)
    some (unsignedOf 32 r.1, r.2)
  else none

/-- RSQS of a Q1.15 value: RNE(0.5 / √x), saturated; none outside 0.25 ≤ x < 1. -/
def rsqs (x : Nat) : Option (Nat × Nat) :=
  if 8192 ≤ x ∧ x < 32768 then
    let r := satBits 16 (rneSqrt (2 ^ 43) x : Nat)
    some (unsignedOf 32 r.1, r.2)
  else none

/-- A seed instruction: a saturation of its result is counted as R120 says; an input out of range gives 0 and sets SAT (R122). -/
def State.issueSeed (s : State) (i : SproutId) (rd ra : SReg) (f : Nat → Option (Nat × Nat)) : State :=
  match f ((s.sprout i).get ra) with
  | some r => s.issueAlu i rd fun _ => r
  | none => s.issue i 1 fun x => let y := x.set rd 0; y.setBank { y.bank with sat := true }

/-- RCPS (R122). -/
def execRcps (i : SproutId) (rd ra : SReg) (s : State) : Host.Outcome State Fault Refusal :=
  .next (s.live fun s => s.issueSeed i rd ra rcps)

/-- RSQS (R122). -/
def execRsqs (i : SproutId) (rd ra : SReg) (s : State) : Host.Outcome State Fault Refusal :=
  .next (s.live fun s => s.issueSeed i rd ra rsqs)

/-! ### Loop and flow (R123, R124) -/

/-- LOOP (R123): with two loops active the Sprout stops there, its loop state as it stood, and its context faults. -/
def execLoop (i : SproutId) (count : Nat) (len : Nat) (s : State) : Host.Outcome State Fault Refusal :=
  .next (s.live fun s =>
    if (s.sprout i).issues ∧ 2 ≤ (s.sprout i).bank.loops.length then
      let s1 := s.modSprout i fun x => { x with stopped := true }
      match (s.sprout i).ctx with
      | some c => s1.faultCtx c 0x1C
      | none => s1
    else
      s.issue i 1 fun x =>
        x.setBank { x.bank with loops := { start := x.bank.pc + 1, len := len, left := count } :: x.bank.loops })

/-- A Sprout after a taken branch, CALL or RET in step `t` of its Plot's pace: `b` is the bank it leaves; the steps include the fetch
wait of where it goes on. -/
def SproutSt.jumped (x y : SproutSt) (i : SproutId) (b : Bank) (t : Nat) : SproutSt :=
  { (y.setBank b) with steps := y.steps + 1 + x.fetchWait i b.pc t }

/-- A taken branch, CALL or RET issues: `f` is its effect on the Sprout, `g` on the bank. -/
def State.issueJump (s : State) (i : SproutId) (f : SproutSt → SproutSt) (g : Bank → Bank) : State :=
  if (s.sprout i).issues then
    (s.modSprout i fun x => x.jumped (f x) i (g (f x).bank) (Config.paceIndex s.free)).tick
  else s

/-- BR (R121, R124): taken when the condition flag equals `sense`. -/
def execBr (i : SproutId) (sense : Bool) (target : Nat) (s : State) : Host.Outcome State Fault Refusal :=
  .next (s.live fun s =>
    if (s.sprout i).bank.cond = sense then s.issueJump i id (·.jump target) else s.issue i 1 id)

/-- JMP (R124). -/
def execJmp (i : SproutId) (target : Nat) (s : State) : Host.Outcome State Fault Refusal :=
  .next (s.live fun s => s.issueJump i id (·.jump target))

/-- CALL (R121): the return stack is 4 deep; what a fifth leaves on it is free (log 31). -/
def execCall (i : SproutId) (target : Nat) (s : State) : Host.Outcome State Fault Refusal :=
  .next (s.live fun s =>
    s.issueJump i
      (fun x =>
        if x.ret.length < 4 then { x with ret := (x.bank.pc + 1) :: x.ret }
        else { x with ret := (List.range 4).map fun k => Config.retStack (4 * s.free + k) })
      fun b => { b with pc := target })

/-- The bank after a return to `target`: a CALL that ended a loop's body goes on as the loop does (R123). -/
def Bank.returned (b : Bank) (target : Nat) : Bank :=
  { b with loops := (loopNext b.loops target).1, pc := (loopNext b.loops target).2 }

/-- RET (R121): from an empty stack the target is free (log 31). -/
def execRet (i : SproutId) (s : State) : Host.Outcome State Fault Refusal :=
  .next (s.live fun s =>
    s.issueJump i (fun x => { x with ret := x.ret.tail })
      (·.returned ((s.sprout i).ret.headD (Config.retStack (4 * s.free)))))

/-! ### Store access (R129) -/

/-- A gather request issues; a fifth outstanding, or a Gatherer that holds 32, stalls it. -/
def State.gather (s : State) (i : SproutId) (load : Bool) (a : Fin 8) (ra : SReg) (words : Nat) : State :=
  let x := s.sprout i
  if x.issues ∧ x.gathers < 4 ∧ (s.bed i.plot.val i.bed.val).queue.length < 32 then
    let w := x.get ra
    let addr := if w % words = 0 then w else Config.gatherAlign w words * words
    let q : GatherReq :=
      { load := load, sprout := i.sprout.val, off := x.get (.a a), addr := addr, words := words
        ctx := x.ctx.getD 0, entry := x.entry }
    (s.modBed i.plot.val i.bed.val fun b => { b with queue := b.queue ++ [q] }).issue i 1 fun y =>
      { y with gathers := y.gathers + 1 }
  else s

/-- GLD (R129): of 1, 2, 4, 8 or 16 words. -/
def execGld (i : SproutId) (a : Fin 8) (ra : SReg) (size : Fin 5) (s : State) : Host.Outcome State Fault Refusal :=
  .next (s.live fun s => s.gather i true a ra (2 ^ size.val))

/-- GST (R129). -/
def execGst (i : SproutId) (a : Fin 8) (ra : SReg) (size : Fin 5) (s : State) : Host.Outcome State Fault Refusal :=
  .next (s.live fun s => s.gather i false a ra (2 ^ size.val))

/-! ### Synchronisation (R126 to R128) -/

/-- WAITG (R126): until a gather completes or an enabled event arrives; a completion not yet taken ends it at once. -/
def execWaitg (i : SproutId) (s : State) : Host.Outcome State Fault Refusal :=
  .next (s.live fun s =>
    s.issue i 1 fun x =>
      if x.line.isSome then x
      else if fieldOf x.pend 0 1 = 1 then { x with pend := x.pend - 1 }
      else { x with wait := .gather })

/-- WAITEV (R126). -/
def execWaitev (i : SproutId) (s : State) : Host.Outcome State Fault Refusal :=
  .next (s.live fun s => s.issue i 1 fun x => if x.line.isSome then x else { x with wait := .event })

/-- SIG (R126): asserts the PEER line of the Sprout it names. -/
def execSig (i : SproutId) (target : Fin 16) (s : State) : Host.Outcome State Fault Refusal :=
  .next (s.live fun s =>
    if (s.sprout i).issues then (s.issue i 1 id).assertLine ⟨i.plot, i.bed, target⟩ 5 else s)

/-- Whether a pre-emption of the context that a Sprout serves is pending (R128). -/
def State.preemptDue (s : State) (i : SproutId) : Bool :=
  match (s.sprout i).ctx with
  | some c => (s.ctx c).preempting
  | none => false

/-- PPT (R128): with a pre-emption pending the Sprout stops there, whether or not its line 2 has been taken. -/
def execPpt (i : SproutId) (s : State) : Host.Outcome State Fault Refusal :=
  .next (s.live fun s =>
    s.issue i 1 fun x =>
      if s.preemptDue i then { x with stopped := true, pend := x.pend - (if fieldOf x.pend 2 1 = 1 then 4 else 0) } else x)

/-- RTE (R127): from bank 1 to bank 0 in two steps; in bank 0 it only advances (log 30). -/
def execRte (i : SproutId) (s : State) : Host.Outcome State Fault Refusal :=
  .next (s.live fun s =>
    if (s.sprout i).st = .bank1 then
      if (s.sprout i).issues then s.modSprout i fun x => { x with st := .bank0, steps := x.steps + 3 } else s
    else s.issue i 1 id)

/-- HALT (R121): the Sprout's work ends, and a Sprout that its context's tasks have left is zeroed (06 R159). -/
def execHalt (i : SproutId) (s : State) : Host.Outcome State Fault Refusal :=
  .next (s.live fun s => if (s.sprout i).issues then ((s.issue i 1 id).endInvocation i).leaveSprout i else s)

/-- BANK_SWITCH (R126, R127): the lowest enabled line that is asserted is taken, in two steps. -/
def execBankSwitch (i : SproutId) (s : State) : Host.Outcome State Fault Refusal :=
  .next (s.live fun s =>
    match (s.sprout i).line with
    | none => s
    | some k =>
      if (s.sprout i).st = .bank0 ∧ ¬ (s.sprout i).stopped then
        s.modSprout i fun x =>
          { x with
            st := .bank1, wait := .none, pend := x.pend - 2 ^ k, steps := x.steps + 2
            b1 := { x.b1 with pc := SMap.get zeroUnlisted x.vec k } }
      else s)

/-! ### The Gatherer (R130, R131) -/

/-- Row, relative to the window, of a request. -/
def GatherReq.row (q : GatherReq) : Nat := q.addr / 16

/-- The requests that one access serves: the oldest and every later one to the same row in the same direction, up to the first
to that row in the other direction. -/
def mergeable (h : GatherReq) : List GatherReq → List GatherReq × List GatherReq
  | [] => ([], [])
  | q :: qs =>
    if q.row = h.row ∧ q.entry = h.entry then
      if q.load = h.load then
        let r := mergeable h qs
        (q :: r.1, r.2)
      else ([], q :: qs)
    else
      let r := mergeable h qs
      (r.1, q :: r.2)

/-- A Sprout of a Bed by its number. -/
def sproutAt (n : Fin 8) (b : Fin 17) (k : Nat) : SproutId := ⟨n, b, ⟨k % 16, by omega⟩⟩

/-- The words of a store request: word of the row, Sprout, value. -/
def State.storeWords (s : State) (n : Fin 8) (b : Fin 17) (q : GatherReq) : List (Nat × Nat × Nat) :=
  (List.range q.words).map fun j =>
    (q.addr % 16 + j, q.sprout, s.dataRead (sproutAt n b q.sprout) (halfByte q.off (4 * j)))

/-- Word `w` of a merged row write: the value from the Sprout with the highest index, the later request where one Sprout names
it twice (R131). -/
def wordWinner (l : List (Nat × Nat × Nat)) (w : Nat) : Option Nat :=
  (l.foldl (fun (acc : Option (Nat × Nat)) x =>
    if x.1 = w then
      match acc with
      | none => some x.2
      | some y => if y.1 ≤ x.2.1 then some x.2 else some y
    else acc) none).map Prod.snd

/-- How many times a word of a merged row write is named by another write. -/
def wordClashes (l : List (Nat × Nat × Nat)) : Nat :=
  (List.range 16).foldl (fun a w => a + ((l.filter fun x => decide (x.1 = w)).length - 1)) 0

/-- The codewords of a request's words of data memory are checked (16 R388): whether one is uncorrectable, in which case the Sprout
aborts (05 R137). -/
def State.gatherCheck (s : State) (n : Fin 8) (b : Fin 17) (q : GatherReq) : Bool × State :=
  let r := (List.range q.words).foldl
    (fun (acc : Bool × State) j =>
      let e := acc.2.dataEvents (sproutAt n b q.sprout) (halfByte q.off (4 * j))
      (acc.1 || e.1, e.2)) (false, s)
  (r.1, if r.1 then r.2.sproutAbort (sproutAt n b q.sprout) else r.2)

/-- The requests whose words of data memory can be delivered, and the state in which the errors found are reported. -/
def State.gatherSound (s : State) (n : Fin 8) (b : Fin 17) (l : List GatherReq) : List GatherReq × State :=
  l.foldl
    (fun (acc : List GatherReq × State) q =>
      let r := acc.2.gatherCheck n b q
      (if r.1 then acc.1 else acc.1 ++ [q], r.2)) ([], s)

/-- One row access of a Bed's Gatherer. A request that meets an uncorrectable codeword of data memory moves nothing. -/
def State.gatherRow (s : State) (n : Fin 8) (b : Fin 17) : State :=
  match (s.bed n.val b.val).queue with
  | [] => s
  | h :: qs =>
    let m := mergeable h qs
    let served := h :: m.1
    let pg := pgBed n.val b.val
    let part := s.plotPart n.val
    let g := ((s.modBed n.val b.val fun x => { x with queue := m.2 }).bump pg 0x78 part).gatherSound n b served
    let s1 := g.2
    let s2 :=
      if h.load then
        let r := s1.winRead n.val h.entry .a 4 h.row
        match r.1 with
        | none => r.2
        | some d =>
          g.1.foldl (fun t q =>
            (List.range q.words).foldl (fun t j =>
              t.dataWrite (sproutAt n b q.sprout) (halfByte q.off (4 * j)) (d / 2 ^ (32 * (q.addr % 16 + j)) % 2 ^ 32)) t) r.2
      else
        let l := g.1.flatMap (s1.storeWords n b)
        let data := (List.range 16).foldl (fun a w => a + (wordWinner l w).getD 0 * 2 ^ (32 * w)) 0
        let mask := (List.range 16).foldl (fun a w => a + (if (wordWinner l w).isSome then 0xF * 2 ^ (4 * w) else 0)) 0
        let s3 := s1.winWrite n.val h.entry .a 4 h.row data mask
        if wordClashes l = 0 then s3 else (s3.bumpBy pg 0x70 part (wordClashes l)).raise pg 11 part
    served.foldl (fun t q =>
      ((t.modSprout (sproutAt n b q.sprout) fun x => { x with gathers := x.gathers - 1 }).assertLine
        (sproutAt n b q.sprout) 0).leaveSprout (sproutAt n b q.sprout)) s2

/-- Whether an access that serves `l` touches word `w` of the data memory of Sprout `k` (R131). -/
def touches (l : List GatherReq) (k w : Nat) : Bool :=
  l.any fun q => decide (q.sprout = k) && (List.range q.words).any fun j => decide (halfByte q.off (4 * j) / 4 = w)

/-- GATHERER_ACCESS (R130, R131): a row access in the Bed's place of the rotation. `races` names, by Sprout and word, the words of
data memory that the Sprout's own port touched in the same step; those that the access touches are races. The commands of one step
come in the order that R131 gives their outcome: a read by either port before the other's write, and a Sprout's write before the
Bed port's, whose value stands (log 203). -/
def execGathererAccess (plot : Plot) (bed : Fin 17) (races : List (Fin 16 × Nat)) (s : State) : Host.Outcome State Fault Refusal :=
  .next (s.live fun s =>
    if s.flag (pgBed plot.val bed.val) 0x100 4 ∧ ¬ s.pruned plot.val ∧ s.bedReady plot.val bed.val then
      match (s.bed plot.val bed.val).queue with
      | [] => s
      | h :: qs =>
        let hits := (races.filter fun r => touches (h :: (mergeable h qs).1) r.1.val r.2).length
        let s1 := s.gatherRow plot bed
        if hits = 0 then s1
        else ((s1.bumpBy (pgBed plot.val bed.val) 0x60 (s.plotPart plot.val) hits).raise (pgBed plot.val bed.val) 9
          (s.plotPart plot.val)).raced h.ctx
    else s)

end Sys2Proof.Machine
end

