-- ==== Sys2Proof/Machine/StoreTurn.lean ====
section
/-!
DEFINITION. The Carousel (06 R143 to R148, R153): one turn of one store, and the commands of the STO page.
-/

namespace Sys2Proof.Machine

open Sys2Proof

/-- Row accesses a turn, and whether reads and writes are carried, of a client's slot, by its number less one
(06 R143). -/
def slotInfo : Store → Nat → Option (Nat × Bool × Bool)
  | .a, 0 => some (4, true, false)
  | .a, 1 => some (4, true, false)
  | .a, 2 => some (4, true, false)
  | .a, 3 => some (4, false, true)
  | .a, 4 => some (4, true, true)
  | .a, 5 => some (4, true, false)
  | .a, 6 => some (4, false, true)
  | .w, 0 => some (8, true, false)
  | .w, 1 => some (1, true, false)
  | .w, 2 => some (4, true, false)
  | .w, 3 => some (4, false, true)
  | .p, 0 => some (4, true, false)
  | .p, 1 => some (4, false, true)
  | .p, 2 => some (4, true, false)
  | .p, 3 => some (4, false, true)
  | _, _ => none

/-- Client slots of a store; the scrub slot follows them. -/
def clientSlots : Store → Nat
  | .a => 7
  | .w => 4
  | .p => 4

/-- Whether a slot carries an access. -/
def slotTakes (st : Store) (x : RowAccess) : Bool :=
  match slotInfo st x.slot with
  | none => false
  | some (_, r, w) => if x.write.isSome then w else r

/-- What one slot does in a turn: accesses performed with their absolute rows (none where out of bound), accesses held for
the next turn, and how many holds are counted. -/
structure SlotTurn where
  rows : List (RowAccess × Option Nat) := []
  held : List RowAccess := []
  holds : Nat := 0

/-- The rest of a slot's accesses in a turn once a bank has repeated: those presented in the turn are held, and those of one row count
once; one that is out of bound takes no part in that (06 R144, R151). `hr` are the rows held. -/
def slotHeld (m : SMap Word) (n : Nat) (st : Store) (cap : Nat) : Nat → List Nat → List RowAccess → SlotTurn
  | _, _, [] => {}
  | used, hr, x :: xs =>
    match winRow m n x.entry st x.row x.write.isSome with
    | none =>
      if cap ≤ used then { held := x :: xs }
      else
        let t := slotHeld m n st cap (used + 1) hr xs
        { t with rows := (x, none) :: t.rows }
    | some r =>
      if r ∈ hr then
        let t := slotHeld m n st cap used hr xs
        { t with held := x :: t.held }
      else if cap ≤ used then { held := x :: xs }
      else
        let t := slotHeld m n st cap (used + 1) (r :: hr) xs
        { t with held := x :: t.held, holds := t.holds + 1 }

/-- The accesses of one slot in issue order, within its capacity and in distinct banks (06 R144, R151): `used` accesses and
`banks` so far, `named` the rows already named. -/
def slotTurn (m : SMap Word) (n : Nat) (st : Store) (cap : Nat) : Nat → List Nat → List Nat → List RowAccess → SlotTurn
  | _, _, _, [] => {}
  | used, banks, named, x :: xs =>
    match winRow m n x.entry st x.row x.write.isSome with
    | none =>
      if cap ≤ used then { held := x :: xs }
      else
        let t := slotTurn m n st cap (used + 1) banks named xs
        { t with rows := (x, none) :: t.rows }
    | some r =>
      if r ∈ named then
        let t := slotTurn m n st cap used banks named xs
        { t with rows := (x, some r) :: t.rows }
      else if cap ≤ used then { held := x :: xs }
      else if rowBank st r ∈ banks then slotHeld m n st cap used [] (x :: xs)
      else
        let t := slotTurn m n st cap (used + 1) (rowBank st r :: banks) (r :: named) xs
        { t with rows := (x, some r) :: t.rows }

/-- Accesses held for the next turn of a store. -/
def Stores.heldOf (x : Stores) : Store → List RowAccess
  | .w => x.heldW
  | .a => x.heldA
  | .p => x.heldP

/-- What each slot of a store does in a turn, with the accesses held from the turn before in front. -/
def State.slotTurns (s : State) (n : Nat) (st : Store) (new : List RowAccess) : List SlotTurn :=
  (List.range (clientSlots st)).map fun k =>
    match slotInfo st k with
    | none => {}
    | some (cap, _, _) =>
      slotTurn s.gate.act n st cap 0 [] []
        ((((s.plot n).sto.heldOf st) ++ new.filter (slotTakes st)).filter fun x => decide (x.slot = k))

/-- Distinct pairs of slot and row that read, in slot order. -/
def turnReads (l : List SlotTurn) : List (Nat × Nat) :=
  (l.flatMap fun t => t.rows.filterMap fun x =>
    match x.1.write, x.2 with
    | none, some r => some (x.1.slot, r)
    | _, _ => none).foldl (fun acc y => if y ∈ acc then acc else acc ++ [y]) []

/-- One slot's writes of a row, merged in issue order: data and mask (06 R145). -/
def mergeWrites (t : SlotTurn) (r : Nat) : Nat × Nat :=
  t.rows.foldl (fun acc x =>
    match x.1.write, x.2 with
    | some (d, k), some q =>
      if q = r then (mergeBytes acc.1 (d % 2 ^ 512) (k % 2 ^ 64) 64, Nat.lor acc.2 (k % 2 ^ 64)) else acc
    | _, _ => acc) (0, 0)

/-- Writes of a turn in slot order: slot, entry, row, data, mask. -/
def turnWrites (l : List SlotTurn) : List (Nat × Nat × Nat × Nat × Nat) :=
  l.flatMap fun t =>
    (t.rows.foldl (fun (acc : List (Nat × Nat × Nat)) x =>
      match x.1.write, x.2 with
      | some _, some r => if acc.any (fun y => decide (y.2.2 = r)) then acc else acc ++ [(x.1.slot, x.1.entry, r)]
      | _, _ => acc) []).map fun y => (y.1, y.2.1, y.2.2, (mergeWrites t y.2.2).1, (mergeWrites t y.2.2).2)

/-- Accesses of a turn that are out of bound. -/
def turnOobs (l : List SlotTurn) : List RowAccess :=
  l.flatMap fun t => t.rows.filterMap fun x => if x.2.isNone then some x.1 else none

/-- The races of a turn: reading or earlier slot, writing or later slot, whether both write, and the row (06 R146). -/
def turnRaces (rs : List (Nat × Nat)) (ws : List (Nat × Nat × Nat × Nat × Nat)) : List (Nat × Nat × Bool × Nat) :=
  (rs.flatMap fun r => ws.filterMap fun w =>
    if w.2.2.1 = r.2 ∧ w.1 ≠ r.1 then some (r.1, w.1, false, r.2) else none) ++
  (ws.flatMap fun a => ws.filterMap fun b =>
    if a.2.2.1 = b.2.2.1 ∧ a.1 < b.1 then some (a.1, b.1, true, a.2.2.1) else none)

/-- Counter of row races of a store (06 R160). -/
def raceCnt : Store → Nat
  | .w => 0x40
  | .a => 0x48
  | .p => 0x50

/-- One race: it is recorded in each view that sees it and holds ROW_RACE clear, counted, and raised (06 R146),
and marks the steps of the row's context (13 R323). -/
def State.rowRace (s : State) (n : Nat) (st : Store) (x : Nat × Nat × Bool × Nat) : State :=
  let part := (coverEntry s.gate.act n st x.2.2.2).map (winPart s.gate.act n)
  let w : Word := BitVec.ofNat 32 (st.no + 4 * x.1 + 32 * x.2.1 + 256 * bit x.2.2.1 + 512 * x.2.2.2)
  let s1 := (evtViews s.gate.act part).foldl (fun t v =>
    if fieldOf (t.evtRaw v (pgSto n)).toNat 8 1 = 1 then t
    else t.modPlot n fun p => { p with sto := { p.sto with race := SMap.put wordUnlisted p.sto.race v.no w } }) s
  let s2 := (s1.bump (pgSto n) (raceCnt st) part).raise (pgSto n) 8 part
  match coverEntry s.gate.act n st x.2.2.2 with
  | some e => s2.raced (winCtx s.gate.act n e)
  | none => s2

/-- Turn number of a store. -/
def Stores.turn (x : Stores) : Store → Nat
  | .w => x.turnW
  | .a => x.turnA
  | .p => x.turnP

/-- The patrol's next row of a store. -/
def Stores.patrol (x : Stores) : Store → Nat
  | .w => x.patrolW
  | .a => x.patrolA
  | .p => x.patrolP

/-- Set the patrol's next row. -/
def Stores.setPatrol (x : Stores) (st : Store) (r : Nat) : Stores :=
  match st with
  | .w => { x with patrolW := r }
  | .a => { x with patrolA := r }
  | .p => { x with patrolP := r }

/-- What a turn leaves for the next: accesses held, deliveries, the turn number, whether the patrol ran. -/
def Stores.endTurn (x : Stores) (st : Store) (held : List RowAccess) (dlv : List (Nat × Nat)) (patrol : Bool) : Stores :=
  let y := match st with
    | .w => { x with heldW := held, dlvW := dlv, turnW := x.turnW + 1 }
    | .a => { x with heldA := held, dlvA := dlv, turnA := x.turnA + 1 }
    | .p => { x with heldP := held, dlvP := dlv, turnP := x.turnP + 1 }
  { y with patrolRan := withField x.patrolRan st.no 1 (bit patrol) }

/-- The scrub slot's Graft work of a turn (06 R156): one macro row; at the end REPAIR_DONE. -/
def State.scrubGraft (s s0 : State) (n : Nat) (q : RepairRun) (skip : List (Nat × Nat)) : State :=
  let st := macroStore q.mac
  let k := if q.column then q.next else q.target
  let r := rowOfMacro q.mac k
  let s1 := s.rewriteRow s0 n st r .graft ((skip.filter fun x => decide (x.1 = r)).map Prod.snd)
  if q.column ∧ q.next + 1 < 4096 then
    s1.modPlot n fun p => { p with sto := { p.sto with repair :=
      match p.sto.repair with
      | x :: xs => { x with next := x.next + 1 } :: xs
      | [] => [] } }
  else
    (s1.modPlot n fun p => { p with sto := { p.sto with repair := p.sto.repair.tail } }).raise (pgSto n) 12 none

/-- Whether the patrol may run in this turn of a store: every 2^PATROL_DIV turns, and not at throttle level 3 and above
(06 R153, 19 R462). -/
def State.patrolDue (s : State) (n : Nat) (st : Store) : Bool :=
  decide (s.level < 3) && s.flag (pgSto n) 0x100 4 && decide ((s.plot n).sto.turn st % 2 ^ s.cfg (pgSto n) 0x100 0 4 = 0)

/-- One row of the patrol; at the end of a pass every macro of the store has one more use (06 R153, 16 R391). -/
def State.patrolStep (s s0 : State) (n : Nat) (st : Store) (skip : List (Nat × Nat)) : State :=
  let r := (s.plot n).sto.patrol st
  let s1 := (s.rewriteRow s0 n st r .patrol ((skip.filter fun x => decide (x.1 = r)).map Prod.snd)).bump (pgSto n) 0x78 none
  let s2 := s1.modPlot n fun p => { p with sto := p.sto.setPatrol st ((r + 1) % storeRows st) }
  if r + 1 = storeRows st then
    (List.range (2 * storeBanks st)).foldl (fun t k => t.use 3 n (storeMacro0 st + k) 1) s2
  else s2

/-- Items 2 to 4 of the scrub slot's work (06 R153): a write-back, zeroing, the patrol; and whether it was the patrol.
`skip` holds the rows and codewords that clients wrote. -/
def State.scrubRest (s s0 : State) (n : Nat) (st : Store) (skip : List (Nat × Nat)) : State × Bool :=
  match (s0.plot n).sto.wb st with
  | r :: rest =>
    ((s.rewriteRow s0 n st r .writeBack ((skip.filter fun x => decide (x.1 = r)).map Prod.snd)).modPlot n fun p =>
      { p with sto := p.sto.setWb st (rest ++ (p.sto.wb st).drop (rest.length + 1)) }, false)
  | [] =>
    match s0.zeroNext n st with
    | some (e, x) => (s.zeroStep n st e x, false)
    | none => if s0.patrolDue n st then (s.patrolStep s0 n st skip, true) else (s, false)

/-- The scrub slot of a turn: the first of its four items that is pending (06 R153), and whether it was the patrol. -/
def State.scrub (s s0 : State) (n : Nat) (st : Store) (skip : List (Nat × Nat)) : State × Bool :=
  match (s0.plot n).sto.repair with
  | q :: _ =>
    if macroStore q.mac = st then (s.scrubGraft s0 n q skip, false) else s.scrubRest s0 n st skip
  | [] => s.scrubRest s0 n st skip

/-- A row's words join those that the slots have read; a row not delivered joins nothing. -/
def readInto (l : List (Nat × Nat)) (x : Nat × Nat) (r : Option Nat × State) : List (Nat × Nat) × State :=
  (match r.1 with
  | some d => l ++ [(x.1, d)]
  | none => l, r.2)

/-- One turn of one store of a Plot (06 R143 to R147, R151, R153, R154). Errors strike first; then reads see the row contents
of the start of the turn, writes take effect in slot order, and the scrub slot does its work. -/
def State.storeTurn (s : State) (n : Nat) (st : Store) (new : List RowAccess) (strikes : List Strike) : State :=
  let s0 := s.strike strikes
  let turns := s0.slotTurns n st new
  let rs := turnReads turns
  let ws := turnWrites turns
  let rd := rs.foldl (fun (acc : List (Nat × Nat) × State) x => readInto acc.1 x (acc.2.readRow n st x.2)) ([], s0)
  let s2 := (turnOobs turns).foldl (fun t x => t.oob n x.entry st x.slot x.write.isSome x.row) rd.2
  let zeros := (turnOobs turns).filterMap fun x => if x.write.isNone then some (x.slot, 0) else none
  let s3 := ws.foldl (fun t w => t.writeRow s0 n st w.2.2.1 w.2.2.2.1 w.2.2.2.2 (some (s.accessor n w.2.1))
    (some (s.partOf (s.accessor n w.2.1)))) s2
  let s4 := s3.bumpBy (pgSto n) 0x58 none (turns.foldl (fun a t => a + t.holds) 0)
  let s5 := (turnRaces rs ws).foldl (fun t x => t.rowRace n st x) s4
  let skip := ws.flatMap fun w => ((List.range 4).filter fun c =>
    decide (w.2.2.2.2 / 2 ^ (16 * c) % 2 ^ 16 ≠ 0)).map fun c => (w.2.2.1, c)
  let sc := s5.scrub s0 n st skip
  sc.1.modPlot n fun p =>
    { p with sto := p.sto.endTurn st (turns.flatMap SlotTurn.held) (rd.1 ++ zeros) sc.2 }

/-- STORE_TURN (06 R143): a turn of one store; a Pruned Plot's stores serve nothing (R160). -/
def execStoreTurn (plot : Plot) (store : Store) (new : List RowAccess) (strikes : List Strike) (s : State) :
    Host.Outcome State Fault Refusal :=
  .next (s.liveApply fun s => if s.pruned plot.val then s else s.storeTurn plot.val store new strikes)

/-- STO_RELEASE (06 R158, R159): each named HELD entry moves to ZEROING, and the frozen Sprouts of its context are released with
it; the command is present only in PF BAR0. -/
def execStoRelease (v : View) (plot : Plot) (x : Word) (s : State) : Host.Outcome State Fault Refusal :=
  .next (s.liveApply fun s =>
    s.commanded v (pgSto plot.val) (!isVf v) fun s =>
      let l := (List.range 32).filter fun e => decide (fieldOf x.toNat e 1 = 1 ∧ (s.win plot.val e).st = .held)
      let s1 := (l.foldl (fun t e => t.winUnhold plot.val e) s).nextZeroOrder plot.val
      if l = [] then s else s1.thawSprouts fun c => l.any fun e => decide ((s.win plot.val e).ctx = c))

/-- STO_REPAIR_Q (06 R160): names the macro whose spares STO_REPAIR_R0 and STO_REPAIR_R1 then report in the view. -/
def execStoRepairQ (v : View) (plot : Plot) (x : Word) (s : State) : Host.Outcome State Fault Refusal :=
  .next (s.live fun s =>
    s.commanded v (pgSto plot.val) (viewSeesPlot s.gate.act v plot.val) fun s =>
      s.modPlot plot.val fun p =>
        { p with sto := { p.sto with query := SMap.put zeroUnlisted p.sto.query v.no (x.toNat % 128) } })

end Sys2Proof.Machine
end

