-- ==== Sys2Proof/Machine/Dispatch.lean ====
section
/-!
DEFINITION. The dispatch: one arm per command, each a direct call of that command's meaning.
-/

namespace Sys2Proof.Machine

open Sys2Proof

def exec (i : Instr) (s : State) : Host.Outcome State Fault Refusal :=
  match i with
  | .registerWrite v off x be => Sys2Proof.Machine.execRegisterWrite v off x be s
  | .stagedWrite v off x => Sys2Proof.Machine.execStagedWrite v off x s
  | .revert v page => Sys2Proof.Machine.execRevert v page s
  | .snapLatch v page => Sys2Proof.Machine.execSnapLatch v page s
  | .snapClear v page => Sys2Proof.Machine.execSnapClear v page s
  | .evtClearWrite v page x => Sys2Proof.Machine.execEvtClearWrite v page x s
  | .evtMaskWrite v page x => Sys2Proof.Machine.execEvtMaskWrite v page x s
  | .selectionAdd v page => Sys2Proof.Machine.execSelectionAdd v page s
  | .selectionRemove v page => Sys2Proof.Machine.execSelectionRemove v page s
  | .selectionClear v => Sys2Proof.Machine.execSelectionClear v s
  | .selectionQuery v index => Sys2Proof.Machine.execSelectionQuery v index s
  | .go v => Sys2Proof.Machine.execGo v s
  | .abort v => Sys2Proof.Machine.execAbort v s
  | .checksEnd chan t => Sys2Proof.Machine.execChecksEnd chan t s
  | .commitApply t => Sys2Proof.Machine.execCommitApply t s
  | .faultCommitRetry t => Sys2Proof.Machine.execFaultCommitRetry t s
  | .hookFire t => Sys2Proof.Machine.execHookFire t s
  | .paceWindowEnd plot count t => Sys2Proof.Machine.execPaceWindowEnd plot count t s
  | .voltageLoopEval ok t => Sys2Proof.Machine.execVoltageLoopEval ok t s
  | .vrTelemetryPoll ok vout iout temp t => Sys2Proof.Machine.execVrTelemetryPoll ok vout iout temp t s
  | .vrRetry ok t => Sys2Proof.Machine.execVrRetry ok t s
  | .pmbAlert ok status t => Sys2Proof.Machine.execPmbAlert ok status t s
  | .pass plot c entry desc flip t => Sys2Proof.Machine.execPass plot c entry desc flip t s
  | .tileLoadComplete plot flip t => Sys2Proof.Machine.execTileLoadComplete plot flip t s
  | .rowVerdict plot bank onC onS => Sys2Proof.Machine.execRowVerdict plot bank onC onS s
  | .westQueueEmpty plot left t => Sys2Proof.Machine.execWestQueueEmpty plot left t s
  | .replayRequest plot t => Sys2Proof.Machine.execReplayRequest plot t s
  | .replayComplete plot bank bad flips t => Sys2Proof.Machine.execReplayComplete plot bank bad flips t s
  | .localiseStart plot => Sys2Proof.Machine.execLocaliseStart plot s
  | .localised plot kind row col flips => Sys2Proof.Machine.execLocalised plot kind row col flips s
  | .spareMapEffect plot flips => Sys2Proof.Machine.execSpareMapEffect plot flips s
  | .spareMapTimeout plot flips t => Sys2Proof.Machine.execSpareMapTimeout plot flips t s
  | .chain plot c step entry desc name bankName act races t => Sys2Proof.Machine.execChain plot c step entry desc name bankName act races t s
  | .chainEnd plot t => Sys2Proof.Machine.execChainEnd plot t s
  | .retryRequest plot cost t => Sys2Proof.Machine.execRetryRequest plot cost t s
  | .retryPassEnd plot t => Sys2Proof.Machine.execRetryPassEnd plot t s
  | .cmac who ax ay => Sys2Proof.Machine.execCmac who ax ay s
  | .cmacc who ax ay => Sys2Proof.Machine.execCmacc who ax ay s
  | .cmsu who ax ay => Sys2Proof.Machine.execCmsu who ax ay s
  | .cmul who ax ay => Sys2Proof.Machine.execCmul who ax ay s
  | .aclr who => Sys2Proof.Machine.execAclr who s
  | .rdacc who rd k => Sys2Proof.Machine.execRdacc who rd k s
  | .ldx who rd a => Sys2Proof.Machine.execLdx who rd a s
  | .ldy who rd a => Sys2Proof.Machine.execLdy who rd a s
  | .stx who rs a => Sys2Proof.Machine.execStx who rs a s
  | .sty who rs a => Sys2Proof.Machine.execSty who rs a s
  | .add who packed rd ra rb => Sys2Proof.Machine.execAdd who packed rd ra rb s
  | .sub who packed rd ra rb => Sys2Proof.Machine.execSub who packed rd ra rb s
  | .abs who packed rd ra => Sys2Proof.Machine.execAbs who packed rd ra s
  | .neg who packed rd ra => Sys2Proof.Machine.execNeg who packed rd ra s
  | .min who packed rd ra rb => Sys2Proof.Machine.execMin who packed rd ra rb s
  | .max who packed rd ra rb => Sys2Proof.Machine.execMax who packed rd ra rb s
  | .cmp who packed rel ra rb => Sys2Proof.Machine.execCmp who packed rel ra rb s
  | .sel who rd ra rb => Sys2Proof.Machine.execSel who rd ra rb s
  | .shl who packed rd ra k => Sys2Proof.Machine.execShl who packed rd ra k s
  | .shr who packed rd ra k => Sys2Proof.Machine.execShr who packed rd ra k s
  | .conj who rd ra => Sys2Proof.Machine.execConj who rd ra s
  | .swapri who rd ra => Sys2Proof.Machine.execSwapri who rd ra s
  | .clrsat who => Sys2Proof.Machine.execClrsat who s
  | .nrm who rd ra => Sys2Proof.Machine.execNrm who rd ra s
  | .rcps who rd ra => Sys2Proof.Machine.execRcps who rd ra s
  | .rsqs who rd ra => Sys2Proof.Machine.execRsqs who rd ra s
  | .loop who count len => Sys2Proof.Machine.execLoop who count len s
  | .br who sense target => Sys2Proof.Machine.execBr who sense target s
  | .jmp who target => Sys2Proof.Machine.execJmp who target s
  | .call who target => Sys2Proof.Machine.execCall who target s
  | .ret who => Sys2Proof.Machine.execRet who s
  | .gld who a ra size => Sys2Proof.Machine.execGld who a ra size s
  | .gst who a ra size => Sys2Proof.Machine.execGst who a ra size s
  | .waitg who => Sys2Proof.Machine.execWaitg who s
  | .waitev who => Sys2Proof.Machine.execWaitev who s
  | .sig who target => Sys2Proof.Machine.execSig who target s
  | .ppt who => Sys2Proof.Machine.execPpt who s
  | .rte who => Sys2Proof.Machine.execRte who s
  | .halt who => Sys2Proof.Machine.execHalt who s
  | .bankSwitch who => Sys2Proof.Machine.execBankSwitch who s
  | .gathererAccess plot bed races => Sys2Proof.Machine.execGathererAccess plot bed races s
  | .storeTurn plot store new strikes => Sys2Proof.Machine.execStoreTurn plot store new strikes s
  | .stoRelease v plot x => Sys2Proof.Machine.execStoRelease v plot x s
  | .stoRepairQ v plot x => Sys2Proof.Machine.execStoRepairQ v plot x s
  | .furrowStart irg f c entry desc carried => Sys2Proof.Machine.execFurrowStart irg f c entry desc carried s
  | .irrigatorIssue irg xlat dxlat level t => Sys2Proof.Machine.execIrrigatorIssue irg xlat dxlat level t s
  | .requestCompletion irg pool tag gen data races level t => Sys2Proof.Machine.execRequestCompletion irg pool tag gen data races level t s
  | .requestTimeout pool tag t => Sys2Proof.Machine.execRequestTimeout pool tag t s
  | .pageResponse irg f ok t => Sys2Proof.Machine.execPageResponse irg f ok t s
  | .atsInvalidation fn page => Sys2Proof.Machine.execAtsInvalidation fn page s
  | .prologueLate irg f t => Sys2Proof.Machine.execPrologueLate irg f t s
  | .bufferWaitCycle irg t => Sys2Proof.Machine.execBufferWaitCycle irg t s
  | .pfcRefresh port t => Sys2Proof.Machine.execPfcRefresh port t s
  | .dropRest group level packet => Sys2Proof.Machine.execDropRest group level packet s
  | .irgFrwQ v irg x => Sys2Proof.Machine.execIrgFrwQ v irg x s
  | .refclkHandover hz t => Sys2Proof.Machine.execRefclkHandover hz t s
  | .refLost t => Sys2Proof.Machine.execRefLost t s
  | .refReturn hz t => Sys2Proof.Machine.execRefReturn hz t s
  | .sampleIn v x uncal t => Sys2Proof.Machine.execSampleIn v x uncal t s
  | .servoSampleTimeout dom t => Sys2Proof.Machine.execServoSampleTimeout dom t s
  | .parentLost dom t => Sys2Proof.Machine.execParentLost dom t s
  | .holdExpired dom t => Sys2Proof.Machine.execHoldExpired dom t s
  | .switchDone t => Sys2Proof.Machine.execSwitchDone t s
  | .calibrationDone port => Sys2Proof.Machine.execCalibrationDone port s
  | .gridBoundary mu t => Sys2Proof.Machine.execGridBoundary mu t s
  | .ppsOutEdge t => Sys2Proof.Machine.execPpsOutEdge t s
  | .ppsInEdge t => Sys2Proof.Machine.execPpsInEdge t s
  | .synceLockLoss lane => Sys2Proof.Machine.execSynceLockLoss lane s
  | .frameReceive port f level shedFull shedCons t => Sys2Proof.Machine.execFrameReceive port f level shedFull shedCons t s
  | .tdMeasTimer ru two taken t => Sys2Proof.Machine.execTdMeasTimer ru two taken t s
  | .cplaneMessage m t => Sys2Proof.Machine.execCplaneMessage m t s
  | .cpHoldRelease t => Sys2Proof.Machine.execCpHoldRelease t s
  | .layoutFreeze grid t => Sys2Proof.Machine.execLayoutFreeze grid t s
  | .chunkSymbolOpen grid chunk slot sym t => Sys2Proof.Machine.execChunkSymbolOpen grid chunk slot sym t s
  | .chunkSymbolClose grid chunk slot sym t => Sys2Proof.Machine.execChunkSymbolClose grid chunk slot sym t s
  | .tileUnitOffer grid chunk slot sym pyr => Sys2Proof.Machine.execTileUnitOffer grid chunk slot sym pyr s
  | .tileStale grid chunk slot sym pyr t => Sys2Proof.Machine.execTileStale grid chunk slot sym pyr t s
  | .feedbackRecord c word t => Sys2Proof.Machine.execFeedbackRecord c word t s
  | .ncoUpdate t => Sys2Proof.Machine.execNcoUpdate t s
  | .trnUnquar v x t => Sys2Proof.Machine.execTrnUnquar v x t s
  | .trnRuQ v x => Sys2Proof.Machine.execTrnRuQ v x s
  | .dlTileReceive grid rows t => Sys2Proof.Machine.execDlTileReceive grid rows t s
  | .txWindowOpen ru grid slot sym level t => Sys2Proof.Machine.execTxWindowOpen ru grid slot sym level t s
  | .txLate ru grid slot sym t => Sys2Proof.Machine.execTxLate ru grid slot sym t s
  | .linkChange port up => Sys2Proof.Machine.execLinkChange port up s
  | .portRetrainDone port => Sys2Proof.Machine.execPortRetrainDone port s
  | .laneErrInterval ring lane errs lost long t => Sys2Proof.Machine.execLaneErrInterval ring lane errs lost long t s
  | .thresherJob q enc header blocks payload => Sys2Proof.Machine.execThresherJob q enc header blocks payload s
  | .codeBlockDone q u mismatch => Sys2Proof.Machine.execCodeBlockDone q u mismatch s
  | .polarDecodeDone q u mismatch => Sys2Proof.Machine.execPolarDecodeDone q u mismatch s
  | .encodeDone q u mismatch => Sys2Proof.Machine.execEncodeDone q u mismatch s
  | .weightSetLoad q k w => Sys2Proof.Machine.execWeightSetLoad q k w s
  | .descriptorFetch c k hdr body t => Sys2Proof.Machine.execDescriptorFetch c k hdr body t s
  | .descriptorPoll c hdr body t => Sys2Proof.Machine.execDescriptorPoll c hdr body t s
  | .workListBuild c n hash t => Sys2Proof.Machine.execWorkListBuild c n hash t s
  | .stepBoundary c n t => Sys2Proof.Machine.execStepBoundary c n t s
  | .stepComplete c n inputs allocs valid t => Sys2Proof.Machine.execStepComplete c n inputs allocs valid t s
  | .harvestWrite c => Sys2Proof.Machine.execHarvestWrite c s
  | .consPoll c cons => Sys2Proof.Machine.execConsPoll c cons s
  | .taskEnd c n who t => Sys2Proof.Machine.execTaskEnd c n who t s
  | .taskOp c n who sprout net needs t => Sys2Proof.Machine.execTaskOp c n who sprout net needs t s
  | .taskWait c n who ring t => Sys2Proof.Machine.execTaskWait c n who ring t s
  | .taskSignal c n who t => Sys2Proof.Machine.execTaskSignal c n who t s
  | .release c n who t => Sys2Proof.Machine.execRelease c n who t s
  | .taskBoundary c n who t => Sys2Proof.Machine.execTaskBoundary c n who t s
  | .taskPpt c n who count t => Sys2Proof.Machine.execTaskPpt c n who count t s
  | .taskChkpt c n who t => Sys2Proof.Machine.execTaskChkpt c n who t s
  | .taskFeeds c n who t => Sys2Proof.Machine.execTaskFeeds c n who t s
  | .checkpoint c n k t => Sys2Proof.Machine.execCheckpoint c n k t s
  | .rerunRequest q cause t => Sys2Proof.Machine.execRerunRequest q cause t s
  | .fallbackRecord c n fb allocs bundles t => Sys2Proof.Machine.execFallbackRecord c n fb allocs bundles t s
  | .libraryAdd v c who => Sys2Proof.Machine.execLibraryAdd v c who s
  | .libraryRemove v c who => Sys2Proof.Machine.execLibraryRemove v c who s
  | .contextRestart v c => Sys2Proof.Machine.execContextRestart v c s
  | .contextSwapOut v c => Sys2Proof.Machine.execContextSwapOut v c s
  | .preemptionComplete c rows t => Sys2Proof.Machine.execPreemptionComplete c rows t s
  | .swapIn c wins rows t => Sys2Proof.Machine.execSwapIn c wins rows t s
  | .rmsSlotQ v x => Sys2Proof.Machine.execRmsSlotQ v x s
  | .rmsAcctQ v x => Sys2Proof.Machine.execRmsAcctQ v x s
  | .trpSlotQ v x => Sys2Proof.Machine.execTrpSlotQ v x s
  | .rosterWrite v index => Sys2Proof.Machine.execRosterWrite v index s
  | .rosterClear v index => Sys2Proof.Machine.execRosterClear v index s
  | .contextTeardown c t => Sys2Proof.Machine.execContextTeardown c t s
  | .teardownComplete c t => Sys2Proof.Machine.execTeardownComplete c t s
  | .evalRecord c n serve cand scored flags t => Sys2Proof.Machine.execEvalRecord c n serve cand scored flags t s
  | .rmsGhEvalQ v x => Sys2Proof.Machine.execRmsGhEvalQ v x s
  | .wsetHash v k => Sys2Proof.Machine.execWsetHash v k s
  | .wsetReport v k => Sys2Proof.Machine.execWsetReport v k s
  | .wsetDone => Sys2Proof.Machine.execWsetDone s
  | .captureStart v steps => Sys2Proof.Machine.execCaptureStart v steps s
  | .captureStop v => Sys2Proof.Machine.execCaptureStop v s
  | .lockstepMark c t => Sys2Proof.Machine.execLockstepMark c t s
  | .lockstepEdge c slipped t => Sys2Proof.Machine.execLockstepEdge c slipped t s
  | .ringFrameReceive east crcOk seq ack nack onward rxLevel txLevel t => Sys2Proof.Machine.execRingFrameReceive east crcOk seq ack nack onward rxLevel txLevel t s
  | .ringAckTimeout east t => Sys2Proof.Machine.execRingAckTimeout east t s
  | .ringRead h body => Sys2Proof.Machine.execRingRead h body s
  | .ringWrite h body => Sys2Proof.Machine.execRingWrite h body s
  | .ringResp east h body t => Sys2Proof.Machine.execRingResp east h body t s
  | .notResidentResend east tag t => Sys2Proof.Machine.execNotResidentResend east tag t s
  | .ringTrainDone link far size rate => Sys2Proof.Machine.execRingTrainDone link far size rate s
  | .ringLinkLoss link => Sys2Proof.Machine.execRingLinkLoss link s
  | .laneSwap east lane => Sys2Proof.Machine.execLaneSwap east lane s
  | .routeAway v east => Sys2Proof.Machine.execRouteAway v east s
  | .resume v east => Sys2Proof.Machine.execResume v east s
  | .routeAwayDone east => Sys2Proof.Machine.execRouteAwayDone east s
  | .keyLoad v x host => Sys2Proof.Machine.execKeyLoad v x host s
  | .keyErase v x => Sys2Proof.Machine.execKeyErase v x s
  | .keyQuery v x => Sys2Proof.Machine.execKeyQuery v x s
  | .disable v p t => Sys2Proof.Machine.execDisable v p t s
  | .releaseHold v p t => Sys2Proof.Machine.execReleaseHold v p t s
  | .partReleased p t => Sys2Proof.Machine.execPartReleased p t s
  | .disableSlotExpiry p t => Sys2Proof.Machine.execDisableSlotExpiry p t s
  | .partDisabled p t => Sys2Proof.Machine.execPartDisabled p t s
  | .vfFlr k t => Sys2Proof.Machine.execVfFlr k t s
  | .pfFlr t => Sys2Proof.Machine.execPfFlr t s
  | .vfEnableClear t => Sys2Proof.Machine.execVfEnableClear t s
  | .getVersion tr ses msg => Sys2Proof.Machine.execGetVersion tr ses msg s
  | .getCapabilities tr ses msg => Sys2Proof.Machine.execGetCapabilities tr ses msg s
  | .negotiateAlgorithms tr ses msg => Sys2Proof.Machine.execNegotiateAlgorithms tr ses msg s
  | .getDigests tr ses msg => Sys2Proof.Machine.execGetDigests tr ses msg s
  | .getCertificate tr ses msg => Sys2Proof.Machine.execGetCertificate tr ses msg s
  | .challenge tr ses msg => Sys2Proof.Machine.execChallenge tr ses msg s
  | .getMeasurements tr ses msg => Sys2Proof.Machine.execGetMeasurements tr ses msg s
  | .keyExchange tr ses msg => Sys2Proof.Machine.execKeyExchange tr ses msg s
  | .finish tr ses msg macOk => Sys2Proof.Machine.execFinish tr ses msg macOk s
  | .keyUpdate tr ses msg all => Sys2Proof.Machine.execKeyUpdate tr ses msg all s
  | .heartbeat tr ses msg => Sys2Proof.Machine.execHeartbeat tr ses msg s
  | .endSession tr ses msg => Sys2Proof.Machine.execEndSession tr ses msg s
  | .pqGetCert tr ses msg => Sys2Proof.Machine.execPqGetCert tr ses msg s
  | .pqSign tr ses msg => Sys2Proof.Machine.execPqSign tr ses msg s
  | .setPwk tr ses msg p key => Sys2Proof.Machine.execSetPwk tr ses msg p key s
  | .getDebugLog tr ses msg => Sys2Proof.Machine.execGetDebugLog tr ses msg s
  | .keyProg tr ses msg stream set sub tx key => Sys2Proof.Machine.execKeyProg tr ses msg stream set sub tx key s
  | .kSetGo tr ses msg stream set sub tx => Sys2Proof.Machine.execKSetGo tr ses msg stream set sub tx s
  | .kSetStop tr ses msg stream set sub tx => Sys2Proof.Machine.execKSetStop tr ses msg stream set sub tx s
  | .ideErr stream => Sys2Proof.Machine.execIdeErr stream s
  | .tapLeaveReset t => Sys2Proof.Machine.execTapLeaveReset t s
  | .tapReset t => Sys2Proof.Machine.execTapReset t s
  | .idcode => Sys2Proof.Machine.execIdcode s
  | .bypass => Sys2Proof.Machine.execBypass s
  | .samplePreload pins load => Sys2Proof.Machine.execSamplePreload pins load s
  | .extest pins load => Sys2Proof.Machine.execExtest pins load s
  | .clamp => Sys2Proof.Machine.execClamp s
  | .highz => Sys2Proof.Machine.execHighz s
  | .coreHalt t => Sys2Proof.Machine.execCoreHalt t s
  | .coreResume t => Sys2Proof.Machine.execCoreResume t s
  | .faultRecord r t => Sys2Proof.Machine.execFaultRecord r t s
  | .repairApply almOk t => Sys2Proof.Machine.execRepairApply almOk t s
  | .plotPrune plot almOk t => Sys2Proof.Machine.execPlotPrune plot almOk t s
  | .agingMarginLow monitor margin almOk t => Sys2Proof.Machine.execAgingMarginLow monitor margin almOk t s
  | .handshakeTimeout cls plot index c recovered t => Sys2Proof.Machine.execHandshakeTimeout cls plot index c recovered t s
  | .taskTimeout c n who ran t => Sys2Proof.Machine.execTaskTimeout c n who ran t s
  | .heartbeatTimeout c t => Sys2Proof.Machine.execHeartbeatTimeout c t s
  | .partitionTimeout p t => Sys2Proof.Machine.execPartitionTimeout p t s
  | .deviceRecovery beat almOk t => Sys2Proof.Machine.execDeviceRecovery beat almOk t s
  | .gkWatchdogExpiry t => Sys2Proof.Machine.execGkWatchdogExpiry t s
  | .fltUnitQ v x => Sys2Proof.Machine.execFltUnitQ v x s
  | .copyStart v x t => Sys2Proof.Machine.execCopyStart v x t s
  | .copyDone fn hostData t => Sys2Proof.Machine.execCopyDone fn hostData t s
  | .hostWriteCreditTimeout irg f waited => Sys2Proof.Machine.execHostWriteCreditTimeout irg f waited s
  | .configRequest => Sys2Proof.Machine.execConfigRequest s
  | .dramRead c addr len strikes => Sys2Proof.Machine.execDramRead c addr len strikes s
  | .dramWrite c addr data strikes => Sys2Proof.Machine.execDramWrite c addr data strikes s
  | .checkBurstWriteback ch burst t => Sys2Proof.Machine.execCheckBurstWriteback ch burst t s
  | .refresh ch bank gap => Sys2Proof.Machine.execRefresh ch bank gap s
  | .mr4Poll ch mult hot => Sys2Proof.Machine.execMr4Poll ch mult hot s
  | .wckTracking ch => Sys2Proof.Machine.execWckTracking ch s
  | .dramPatrol strikes => Sys2Proof.Machine.execDramPatrol strikes s
  | .zeroingPassEnd => Sys2Proof.Machine.execZeroingPassEnd s
  | .remapDone => Sys2Proof.Machine.execRemapDone s
  | .ddrChQ v x => Sys2Proof.Machine.execDdrChQ v x s
  | .porstAssert => Sys2Proof.Machine.execPorstAssert s
  | .porstRelease ringSize ringPos => Sys2Proof.Machine.execPorstRelease ringSize ringPos s
  | .perstAssert t => Sys2Proof.Machine.execPerstAssert t s
  | .perstRelease t => Sys2Proof.Machine.execPerstRelease t s
  | .railFault bad ringSize ringPos => Sys2Proof.Machine.execRailFault bad ringSize ringPos s
  | .startStepDone r almOk t => Sys2Proof.Machine.execStartStepDone r almOk t s
  | .thermalSample temps volts t => Sys2Proof.Machine.execThermalSample temps volts t s
  | .powerWindow watts amps t => Sys2Proof.Machine.execPowerWindow watts amps t s
  | .thermalTrip sensor temp almOk t => Sys2Proof.Machine.execThermalTrip sensor temp almOk t s
  | .domDone t => Sys2Proof.Machine.execDomDone t s
  | .plotReset v plot t => Sys2Proof.Machine.execPlotReset v plot t s
  | .pwrTempQ v x => Sys2Proof.Machine.execPwrTempQ v x s
  | .getInfo v len t => Sys2Proof.Machine.execGetInfo v len t s
  | .readSensors v len t => Sys2Proof.Machine.execReadSensors v len t s
  | .readAlmanac v len t => Sys2Proof.Machine.execReadAlmanac v len t s
  | .readNote v len t => Sys2Proof.Machine.execReadNote v len t s
  | .readFaults v len t => Sys2Proof.Machine.execReadFaults v len t s
  | .requestUpdate tr req => Sys2Proof.Machine.execRequestUpdate tr req s
  | .passComponentTable tr req types => Sys2Proof.Machine.execPassComponentTable tr req types s
  | .updateComponent tr req type svn => Sys2Proof.Machine.execUpdateComponent tr req type svn s
  | .firmwareData data => Sys2Proof.Machine.execFirmwareData data s
  | .verifyComplete c => Sys2Proof.Machine.execVerifyComplete c s
  | .activateFirmware tr req self almOk t => Sys2Proof.Machine.execActivateFirmware tr req self almOk t s
  | .cancelUpdate tr req => Sys2Proof.Machine.execCancelUpdate tr req s
  | .setEventReceiver tr req eid => Sys2Proof.Machine.execSetEventReceiver tr req eid s
  | .platformEventResend seq t => Sys2Proof.Machine.execPlatformEventResend seq t s
  | .getSensorReading tr req id => Sys2Proof.Machine.execGetSensorReading tr req id s
  | .setEndpointId tr eid => Sys2Proof.Machine.execSetEndpointId tr eid s
  | .consoleStatus what => Sys2Proof.Machine.execConsoleStatus what s
  | .consoleLogin ok t => Sys2Proof.Machine.execConsoleLogin ok t s
  | .consoleDebug x t => Sys2Proof.Machine.execConsoleDebug x t s
  | .consoleLogout idle t => Sys2Proof.Machine.execConsoleLogout idle t s
  | .contextBlocked c t => Sys2Proof.Machine.execContextBlocked c t s
  | .delayReqInterval dom two taken t => Sys2Proof.Machine.execDelayReqInterval dom two taken t s
  | .msixUnmask fn vector => Sys2Proof.Machine.execMsixUnmask fn vector s
  | .entdaa addr => Sys2Proof.Machine.execEntdaa addr s
  | .platformEventAck seq => Sys2Proof.Machine.execPlatformEventAck seq s

end Sys2Proof.Machine
end

