-- ==== Sys2Proof/Safety.lean ====
section
/-!
DEFINITION. What counts as a safe state, and what each command may change: the parts of the state, and for every command the list of those
that it may change. A part that a command does not list is as before after it, from every state.
-/

namespace Sys2Proof.Machine

open Sys2Proof

/-- Memory and the code's errors are in canonical form, so that equal contents are equal data. -/
def State.memOk (s : State) : Bool := Mem.wf s.mem && SMap.wf zeroUnlisted s.ecc

/-- The parts of the state, the queue, the power-on hold, the thermal trip and the model's count of free values apart. -/
inductive Area where
  /-- memory -/
  | mem
  /-- the errors struck into stored codewords -/
  | ecc
  /-- the event hub: events, counters, snapshots, vectors, the trace of what leaves -/
  | hub
  /-- the Commit Gate and the buffers of the register path, the active registers apart -/
  | gate
  /-- the active values of the registers -/
  | act
  /-- the Sundial: clocks, servos, device time -/
  | sdl
  /-- the Plots: stores, Big Top, Sieve -/
  | plots
  /-- the fault block -/
  | flt
  /-- the Ringmaster, the Roster and their contexts -/
  | rms
  /-- the Thresher -/
  | thr
  /-- the Turnstile -/
  | trn
  /-- the Irrigators, the functions of the host interface, requests -/
  | irg
  /-- the Peseif ring -/
  | ring
  /-- partitions, keys, sessions, debug -/
  | sec
  /-- the memory controller -/
  | ddr
  /-- power, clocks of start-up, sensors, the Almanac -/
  | pwr
  /-- Groundskeeper, its mailbox and the test access port -/
  | gk
  /-- the Beds and their Sprouts -/
  | beds
deriving DecidableEq, Repr

/-- Whether a part of two states is the same. -/
def State.sameArea (s t : State) : Area → Prop
  | .mem => t.mem = s.mem
  | .ecc => t.ecc = s.ecc
  | .hub => t.hub = s.hub
  | .gate => t.gate = s.gate
  | .act => t.gate.act = s.gate.act
  | .sdl => t.sdl = s.sdl
  | .plots => t.plots = s.plots
  | .flt => t.flt = s.flt
  | .rms => t.rms = s.rms
  | .thr => t.thr = s.thr
  | .trn => t.trn = s.trn
  | .irg => t.irg = s.irg
  | .ring => t.ring = s.ring
  | .sec => t.sec = s.sec
  | .ddr => t.ddr = s.ddr
  | .pwr => t.pwr = s.pwr
  | .gk => t.gk = s.gk
  | .beds => t.beds = s.beds

/-- The resets of power-on reset, PERST# and device recovery: they put the state back to what a reset leaves (19 R465, 16 R403). -/
def resets : Instr → Bool
  | .porstAssert => true
  | .porstRelease _ _ => true
  | .railFault _ _ _ => true
  | .perstAssert _ => true
  | .deviceRecovery _ _ _ => true
  | _ => false

/-- The commands of the pins that work while power-on reset holds the device or a thermal trip has stopped it: the reset pins, the supply
rails and the test access port (19 R464, R465, 22). -/
def worksStopped : Instr → Bool
  | .porstAssert => true
  | .porstRelease _ _ => true
  | .railFault _ _ _ => true
  | .perstAssert _ => true
  | .perstRelease _ => true
  | .tapLeaveReset _ => true
  | .tapReset _ => true
  | .idcode => true
  | .bypass => true
  | .samplePreload _ _ => true
  | .extest _ _ => true
  | .clamp => true
  | .highz => true
  | _ => false

/-- A running device takes the register-path writes of a view's function: the function is in no function-level reset and its IDE
stream is secure (17 R433, 15 R364). -/
def State.takes (s : State) (v : View) : Bool := !s.stopped && !s.inFlr v

/-- It takes them, and page `no` of the view's BAR0 is the page `p`, which the view sees and which recovery mode exposes
(21 R490, R491; 19 R469). -/
def State.opens (s : State) (v : View) (no : Nat) (p : Page) : Bool :=
  s.takes v && decide (viewPage v no = some p) && (!s.pwr.recovery || inRecovery p.kind) && viewSeesPage s.gate.act v p

/-- A Sprout once an instruction has issued that leaves its registers as in `y` and does not branch: it stands at the next
instruction, loop bodies returning to their start, and `cost` steps have passed (05 R121, R123). -/
def SproutSt.after (y : SproutSt) (cost : Nat) : SproutSt := { (y.setBank y.bank.next) with steps := y.steps + cost }

/-- A Sprout in which `k` saturations set SAT (05 R119, R120). -/
def SproutSt.sats (y : SproutSt) (k : Nat) : SproutSt := if k = 0 then y else y.setBank { y.bank with sat := true }

/-- A Sprout that an instruction of one step gives a result for register `rd`, with the number of saturations. -/
def SproutSt.wrote (x : SproutSt) (rd : SReg) (r : Nat × Nat) : SproutSt := ((x.set rd r.1).after 1).sats r.2

/-- From `s` to `t` one Sprout comes to be `y`, and every other Sprout stays. -/
def State.Ran (s : State) (i : SproutId) (y : SproutSt) (t : State) : Prop :=
  t.sprout i = y ∧ ∀ j, j ≠ i → t.sprout j = s.sprout j

/-- A word of a Sprout's data memory has no uncorrectable error (16 R387). -/
def State.sound (s : State) (i : SproutId) (off : Nat) : Prop := ∀ cw ∈ wordCws i off, eccJudge (s.xorOf cw) ≠ .uncorrectable

/-- A task of a step of a context, by number and place. -/
def State.task? (s : State) (c n i : Nat) : Option TaskSt := (s.step? c n).bind fun y => y.tasks[i]?

/-- A running device whose context `c` may take the next entry of task `i` of its step `n`, an entry of kind `kind`: the context is
live and served, the entry can issue, and the engine is not shared or serves the context's slot (11 R278, R288; 13 R330). -/
def State.mayTake (s : State) (c n i kind : Nat) (y : StepSt) (z : TaskSt) : Prop :=
  s.stopped = false ∧ s.step? c n = some y ∧ y.tasks[i]? = some z ∧ (s.ctx c).live = true ∧
    ((s.ctx c).resident = true ∨ (s.ctx c).preempting = true) ∧ y.canIssue z = true ∧ fieldOf (z.entry y.plan) 0 4 = kind ∧
    s.marked c = true ∧ ∃ slot, (s.ctx c).slot = some slot ∧
      ∀ e, engineKey z.engine z.plot z.pos = some e → SMap.get zeroUnlisted s.rms.serving e = slot + 1

/-- The parts that a command may change. -/
def mayChange : Instr → List Area
  | .registerWrite _ _ _ _ => [.hub, .gate, .sdl, .rms, .irg, .sec, .gk]
  | .stagedWrite _ _ _ => [.hub, .gate]
  | .revert _ _ => [.hub, .gate]
  | .snapLatch _ _ => [.hub, .pwr]
  | .snapClear _ _ => [.hub, .pwr]
  | .evtClearWrite _ _ _ => [.hub]
  | .evtMaskWrite _ _ _ => [.hub]
  | .selectionAdd _ _ => [.hub, .gate]
  | .selectionRemove _ _ => [.gate]
  | .selectionClear _ => [.gate]
  | .selectionQuery _ _ => [.gate]
  | .go _ => [.hub, .gate]
  | .abort _ => [.gate, .flt]
  | .checksEnd _ _ => [.hub, .gate, .sdl, .flt, .rms]
  | .commitApply _ => [.mem, .ecc, .hub, .gate, .act, .sdl, .plots, .flt, .rms, .thr, .trn, .irg, .ring, .sec, .ddr, .pwr, .beds]
  | .faultCommitRetry _ => [.mem, .ecc, .hub, .gate, .sdl, .flt, .rms, .trn, .ring, .ddr, .gk]
  | .hookFire _ => [.hub, .gate, .sdl, .rms]
  | .paceWindowEnd _ _ _ => [.hub, .sdl, .rms, .pwr]
  | .voltageLoopEval _ _ => [.hub, .sdl, .rms, .pwr]
  | .vrTelemetryPoll _ _ _ _ _ => [.hub, .sdl, .rms, .pwr]
  | .vrRetry _ _ => [.hub, .sdl, .rms, .pwr]
  | .pmbAlert _ _ _ => [.hub, .sdl, .rms, .pwr]
  | .pass _ _ _ _ _ _ => [.hub, .sdl, .plots, .flt, .rms, .beds]
  | .tileLoadComplete _ _ _ => [.hub, .sdl, .plots, .flt, .rms, .beds]
  | .rowVerdict _ _ _ _ => [.mem, .ecc, .hub, .plots, .flt, .rms, .beds]
  | .westQueueEmpty _ _ _ => [.hub, .sdl, .plots, .rms]
  | .replayRequest _ _ => [.mem, .ecc, .hub, .sdl, .plots, .flt, .rms, .ddr]
  | .replayComplete _ _ _ _ _ => [.mem, .ecc, .hub, .sdl, .plots, .flt, .rms]
  | .localiseStart _ => [.plots]
  | .localised _ _ _ _ _ => [.hub, .plots, .flt, .rms, .beds]
  | .spareMapEffect _ _ => [.hub, .plots, .flt, .rms, .beds]
  | .spareMapTimeout _ _ _ => [.hub, .sdl, .plots, .flt, .rms, .beds]
  | .chain _ _ _ _ _ _ _ _ _ _ => [.mem, .ecc, .hub, .sdl, .plots, .flt, .rms]
  | .chainEnd _ _ => [.mem, .ecc, .hub, .sdl, .plots, .flt, .rms, .beds]
  | .retryRequest _ _ _ => [.mem, .ecc, .hub, .sdl, .plots, .flt, .rms, .ddr, .beds]
  | .retryPassEnd _ _ => [.mem, .ecc, .hub, .sdl, .plots, .flt, .rms, .beds]
  | .cmac _ _ _ => [.hub, .flt, .beds]
  | .cmacc _ _ _ => [.hub, .flt, .beds]
  | .cmsu _ _ _ => [.hub, .flt, .beds]
  | .cmul _ _ _ => [.hub, .flt, .beds]
  | .aclr _ => [.beds]
  | .rdacc _ _ _ => [.hub, .beds]
  | .ldx _ _ _ => [.hub, .flt, .beds]
  | .ldy _ _ _ => [.hub, .flt, .beds]
  | .stx _ _ _ => [.mem, .ecc, .hub, .flt, .beds]
  | .sty _ _ _ => [.mem, .ecc, .hub, .flt, .beds]
  | .add _ _ _ _ _ => [.hub, .beds]
  | .sub _ _ _ _ _ => [.hub, .beds]
  | .abs _ _ _ _ => [.hub, .beds]
  | .neg _ _ _ _ => [.hub, .beds]
  | .min _ _ _ _ _ => [.hub, .beds]
  | .max _ _ _ _ _ => [.hub, .beds]
  | .cmp _ _ _ _ _ => [.beds]
  | .sel _ _ _ _ => [.hub, .beds]
  | .shl _ _ _ _ _ => [.hub, .beds]
  | .shr _ _ _ _ _ => [.hub, .beds]
  | .conj _ _ _ => [.hub, .beds]
  | .swapri _ _ _ => [.hub, .beds]
  | .clrsat _ => [.beds]
  | .nrm _ _ _ => [.hub, .beds]
  | .rcps _ _ _ => [.hub, .beds]
  | .rsqs _ _ _ => [.hub, .beds]
  | .loop _ _ _ => [.hub, .rms, .beds]
  | .br _ _ _ => [.beds]
  | .jmp _ _ => [.beds]
  | .call _ _ => [.beds]
  | .ret _ => [.beds]
  | .gld _ _ _ _ => [.beds]
  | .gst _ _ _ _ => [.beds]
  | .waitg _ => [.beds]
  | .waitev _ => [.beds]
  | .sig _ _ => [.beds]
  | .ppt _ => [.beds]
  | .rte _ => [.beds]
  | .halt _ => [.mem, .ecc, .hub, .plots, .flt, .rms, .beds]
  | .bankSwitch _ => [.beds]
  | .gathererAccess _ _ _ => [.mem, .ecc, .hub, .plots, .flt, .rms, .beds]
  | .storeTurn _ _ _ _ => [.mem, .ecc, .hub, .gate, .plots, .flt, .rms]
  | .stoRelease _ _ _ => [.mem, .ecc, .hub, .gate, .plots, .beds]
  | .stoRepairQ _ _ _ => [.hub, .plots]
  | .furrowStart _ _ _ _ _ _ => [.rms, .irg]
  | .irrigatorIssue _ _ _ _ _ => [.hub, .sdl, .plots, .rms, .trn, .irg, .ring]
  | .requestCompletion _ _ _ _ _ _ _ _ => [.mem, .ecc, .hub, .sdl, .plots, .flt, .rms, .trn, .irg, .ring, .ddr, .beds]
  | .requestTimeout _ _ _ => [.hub, .sdl, .flt, .rms, .trn, .irg, .ring]
  | .pageResponse _ _ _ _ => [.hub, .sdl, .rms, .irg]
  | .atsInvalidation _ _ => [.hub, .irg]
  | .prologueLate _ _ _ => [.mem, .ecc, .hub, .sdl, .flt, .rms, .irg, .ddr]
  | .bufferWaitCycle _ _ => [.hub, .sdl, .rms, .trn, .irg, .ring]
  | .pfcRefresh _ _ => [.hub, .sdl, .rms, .irg]
  | .dropRest _ _ _ => [.hub, .irg]
  | .irgFrwQ _ _ _ => [.hub, .irg]
  | .refclkHandover _ _ => [.hub, .gate, .sdl, .rms]
  | .refLost _ => [.hub, .sdl, .rms]
  | .refReturn _ _ => [.hub, .sdl, .rms]
  | .sampleIn _ _ _ _ => [.hub, .gate, .sdl, .rms]
  | .servoSampleTimeout _ _ => [.hub, .gate, .sdl, .rms]
  | .parentLost _ _ => [.hub, .gate, .sdl, .rms]
  | .holdExpired _ _ => [.hub, .gate, .sdl, .rms]
  | .switchDone _ => [.hub, .sdl, .rms]
  | .calibrationDone _ => [.hub, .sdl]
  | .gridBoundary _ _ => [.hub, .sdl, .rms]
  | .ppsOutEdge _ => [.hub, .sdl, .rms]
  | .ppsInEdge _ => [.hub, .gate, .sdl, .rms]
  | .synceLockLoss _ => [.hub, .sdl]
  | .frameReceive _ _ _ _ _ _ => [.hub, .sdl, .rms, .trn, .irg]
  | .tdMeasTimer _ _ _ _ => [.hub, .sdl, .rms, .trn]
  | .cplaneMessage _ _ => [.hub, .sdl, .rms, .trn]
  | .cpHoldRelease _ => [.hub, .sdl, .rms, .trn]
  | .layoutFreeze _ _ => [.hub, .sdl, .rms, .trn]
  | .chunkSymbolOpen _ _ _ _ _ => [.hub, .sdl, .rms, .trn]
  | .chunkSymbolClose _ _ _ _ _ => [.hub, .sdl, .rms, .trn]
  | .tileUnitOffer _ _ _ _ _ => [.hub, .trn]
  | .tileStale _ _ _ _ _ _ => [.hub, .sdl, .rms, .trn]
  | .feedbackRecord _ _ _ => [.hub, .sdl, .rms, .trn]
  | .ncoUpdate _ => [.hub, .sdl, .rms, .trn]
  | .trnUnquar _ _ _ => [.hub, .sdl, .rms, .trn]
  | .trnRuQ _ _ => [.hub, .trn]
  | .dlTileReceive _ _ _ => [.hub, .sdl, .rms, .trn]
  | .txWindowOpen _ _ _ _ _ _ => [.hub, .sdl, .rms, .trn, .irg]
  | .txLate _ _ _ _ _ => [.hub, .sdl, .rms, .trn]
  | .linkChange _ _ => [.hub, .sdl, .trn]
  | .portRetrainDone _ => [.hub, .sdl, .trn]
  | .laneErrInterval _ _ _ _ _ _ => [.hub, .sdl, .flt, .rms]
  | .thresherJob _ _ _ _ _ => [.hub, .rms, .thr]
  | .codeBlockDone _ _ _ => [.hub, .flt, .rms, .thr]
  | .polarDecodeDone _ _ _ => [.hub, .flt, .rms, .thr]
  | .encodeDone _ _ _ => [.hub, .flt, .rms, .thr]
  | .weightSetLoad _ _ _ => [.hub, .rms, .thr]
  | .descriptorFetch _ _ _ _ _ => [.mem, .ecc, .hub, .gate, .sdl, .flt, .rms, .sec, .ddr, .beds]
  | .descriptorPoll _ _ _ _ => [.mem, .ecc, .hub, .gate, .sdl, .flt, .rms, .sec, .ddr, .beds]
  | .workListBuild _ _ _ _ => [.mem, .ecc, .hub, .gate, .act, .sdl, .plots, .flt, .rms, .thr, .sec]
  | .stepBoundary _ _ _ => [.mem, .ecc, .hub, .gate, .act, .sdl, .plots, .flt, .rms, .thr, .sec]
  | .stepComplete _ _ _ _ _ _ => [.mem, .ecc, .hub, .gate, .act, .sdl, .flt, .rms, .sec, .ddr, .beds]
  | .harvestWrite _ => [.hub, .rms]
  | .consPoll _ _ => [.rms]
  | .taskEnd _ _ _ _ => [.mem, .ecc, .hub, .sdl, .plots, .flt, .rms, .beds]
  | .taskOp _ _ _ _ _ _ _ => [.mem, .ecc, .hub, .sdl, .plots, .flt, .rms, .irg, .beds]
  | .taskWait _ _ _ _ _ => [.mem, .ecc, .hub, .sdl, .plots, .flt, .rms, .beds]
  | .taskSignal _ _ _ _ => [.mem, .ecc, .hub, .sdl, .plots, .flt, .rms, .beds]
  | .release _ _ _ _ => [.mem, .ecc, .hub, .sdl, .plots, .flt, .rms, .trn, .irg, .ring, .ddr, .beds]
  | .taskBoundary _ _ _ _ => [.mem, .ecc, .hub, .sdl, .plots, .flt, .rms, .beds]
  | .taskPpt _ _ _ _ _ => [.mem, .ecc, .hub, .sdl, .plots, .flt, .rms, .beds]
  | .taskChkpt _ _ _ _ => [.mem, .ecc, .hub, .sdl, .plots, .flt, .rms, .beds]
  | .taskFeeds _ _ _ _ => [.mem, .ecc, .hub, .sdl, .plots, .flt, .rms, .beds]
  | .checkpoint _ _ _ _ => [.mem, .ecc, .hub, .sdl, .flt, .rms, .ddr]
  | .rerunRequest _ _ _ => [.mem, .ecc, .hub, .sdl, .plots, .flt, .rms, .ddr, .beds]
  | .fallbackRecord _ _ _ _ _ _ => [.mem, .ecc, .hub, .gate, .act, .sdl, .plots, .flt, .rms, .ddr, .beds]
  | .libraryAdd _ _ _ => [.hub, .gate, .flt, .rms, .ddr]
  | .libraryRemove _ _ _ => [.hub, .gate, .rms]
  | .contextRestart _ _ => [.hub, .gate, .rms]
  | .contextSwapOut _ _ => [.hub, .rms, .beds]
  | .preemptionComplete _ _ _ => [.mem, .ecc, .hub, .gate, .act, .sdl, .plots, .flt, .rms, .irg, .sec, .ddr, .beds]
  | .swapIn _ _ _ _ => [.mem, .ecc, .hub, .gate, .act, .sdl, .plots, .flt, .rms, .thr, .irg, .sec, .ddr]
  | .rmsSlotQ _ _ => [.rms]
  | .rmsAcctQ _ _ => [.hub, .rms]
  | .trpSlotQ _ _ => [.rms]
  | .rosterWrite _ _ => [.hub, .rms]
  | .rosterClear _ _ => [.hub, .rms]
  | .contextTeardown _ _ => [.mem, .ecc, .hub, .gate, .sdl, .plots, .flt, .rms, .thr, .irg, .beds]
  | .teardownComplete _ _ => [.mem, .ecc, .hub, .gate, .act, .sdl, .plots, .flt, .rms, .irg, .sec, .beds]
  | .evalRecord _ _ _ _ _ _ _ => [.hub, .gate, .sdl, .rms]
  | .rmsGhEvalQ _ _ => [.hub, .rms]
  | .wsetHash _ _ => [.hub, .rms]
  | .wsetReport _ _ => [.hub, .rms]
  | .wsetDone => [.hub, .flt, .rms, .ddr]
  | .captureStart _ _ => [.hub, .rms, .sec]
  | .captureStop _ => [.hub, .rms, .sec]
  | .lockstepMark _ _ => [.hub, .sdl, .rms]
  | .lockstepEdge _ _ _ => [.hub, .sdl, .flt, .rms]
  | .ringFrameReceive _ _ _ _ _ _ _ _ _ => [.hub, .sdl, .rms, .trn, .irg, .ring]
  | .ringAckTimeout _ _ => [.hub, .sdl, .rms, .trn, .ring]
  | .ringRead _ _ => [.hub, .plots, .flt, .rms, .trn, .ring, .ddr]
  | .ringWrite _ _ => [.mem, .ecc, .hub, .plots, .flt, .rms, .trn, .ring, .ddr, .beds]
  | .ringResp _ _ _ _ => [.mem, .ecc, .hub, .sdl, .plots, .flt, .rms, .trn, .irg, .ring, .ddr, .beds]
  | .notResidentResend _ _ _ => [.hub, .sdl, .rms, .trn, .irg, .ring]
  | .ringTrainDone _ _ _ _ => [.hub, .trn, .ring]
  | .ringLinkLoss _ => [.hub, .trn, .ring]
  | .laneSwap _ _ => [.hub, .gate, .act, .trn, .ring]
  | .routeAway _ _ => [.hub, .trn, .ring]
  | .resume _ _ => [.hub, .trn, .ring]
  | .routeAwayDone _ => [.hub, .trn, .ring]
  | .keyLoad _ _ _ => [.hub, .flt, .rms, .sec, .ddr]
  | .keyErase _ _ => [.hub, .sec]
  | .keyQuery _ _ => [.hub, .flt, .sec]
  | .disable _ _ _ => [.hub, .gate, .sdl, .rms, .sec]
  | .releaseHold _ _ _ => [.mem, .ecc, .hub, .gate, .sdl, .plots, .rms, .sec, .beds]
  | .partReleased _ _ => [.hub, .gate, .sdl, .rms, .sec]
  | .disableSlotExpiry _ _ => [.mem, .ecc, .hub, .gate, .act, .sdl, .plots, .flt, .rms, .thr, .irg, .sec, .beds]
  | .partDisabled _ _ => [.hub, .gate, .sdl, .rms, .irg, .sec]
  | .vfFlr _ _ => [.hub, .gate, .sdl, .rms, .irg, .sec]
  | .pfFlr _ => [.hub, .gate, .act, .sdl, .rms, .irg, .sec]
  | .vfEnableClear _ => [.hub, .gate, .sdl, .rms, .irg, .sec]
  | .getVersion _ _ _ => [.hub, .sec]
  | .getCapabilities _ _ _ => [.hub, .sec]
  | .negotiateAlgorithms _ _ _ => [.hub, .sec]
  | .getDigests _ _ _ => [.hub, .sec]
  | .getCertificate _ _ _ => [.hub, .sec]
  | .challenge _ _ _ => [.hub, .sec]
  | .getMeasurements _ _ _ => [.hub, .sec]
  | .keyExchange _ _ _ => [.hub, .sec]
  | .finish _ _ _ _ => [.hub, .sec]
  | .keyUpdate _ _ _ _ => [.hub, .sec]
  | .heartbeat _ _ _ => [.hub, .sec]
  | .endSession _ _ _ => [.hub, .sec]
  | .pqGetCert _ _ _ => [.hub, .sec]
  | .pqSign _ _ _ => [.hub, .sec]
  | .setPwk _ _ _ _ _ => [.hub, .sec]
  | .getDebugLog _ _ _ => [.hub, .sec]
  | .keyProg _ _ _ _ _ _ _ _ => [.hub, .sec]
  | .kSetGo _ _ _ _ _ _ _ => [.hub, .sec]
  | .kSetStop _ _ _ _ _ _ _ => [.hub, .sec]
  | .ideErr _ => [.hub, .sec]
  | .tapLeaveReset _ => [.hub, .sdl, .rms, .sec, .gk]
  | .tapReset _ => [.hub, .sdl, .rms, .sec, .gk]
  | .idcode => [.hub, .gk]
  | .bypass => [.hub, .gk]
  | .samplePreload _ _ => [.hub, .gk]
  | .extest _ _ => [.hub, .gk]
  | .clamp => [.hub, .gk]
  | .highz => [.hub, .gk]
  | .coreHalt _ => [.hub, .sdl, .rms, .gk]
  | .coreResume _ => [.hub, .gate, .sdl, .rms, .gk]
  | .faultRecord _ _ => [.mem, .ecc, .hub, .gate, .sdl, .plots, .flt, .rms, .trn, .ring, .ddr, .gk]
  | .repairApply _ _ => [.mem, .ecc, .hub, .gate, .act, .sdl, .plots, .flt, .rms, .thr, .trn, .irg, .ring, .sec, .ddr, .pwr, .gk, .beds]
  | .plotPrune _ _ _ => [.mem, .ecc, .hub, .gate, .act, .sdl, .plots, .flt, .rms, .trn, .irg, .ring, .ddr, .pwr, .gk, .beds]
  | .agingMarginLow _ _ _ _ => [.mem, .ecc, .hub, .gate, .sdl, .flt, .rms, .trn, .ring, .ddr, .pwr, .gk]
  | .handshakeTimeout _ _ _ _ _ _ => [.hub, .sdl, .flt, .rms]
  | .taskTimeout _ _ _ _ _ => [.hub, .sdl, .flt, .rms]
  | .heartbeatTimeout _ _ => [.hub, .sdl, .flt, .rms]
  | .partitionTimeout _ _ => [.mem, .ecc, .hub, .gate, .act, .sdl, .plots, .flt, .rms, .trn, .irg, .ring, .sec, .ddr, .gk, .beds]
  | .deviceRecovery _ _ _ => [.mem, .ecc, .hub, .gate, .act, .sdl, .plots, .flt, .rms, .thr, .trn, .irg, .ring, .sec, .ddr, .pwr, .gk, .beds]
  | .gkWatchdogExpiry _ => [.hub, .sdl, .rms, .sec, .gk]
  | .fltUnitQ _ _ => [.hub, .flt]
  | .copyStart _ _ _ => [.hub, .sdl, .rms, .irg]
  | .copyDone _ _ _ => [.mem, .ecc, .hub, .sdl, .flt, .rms, .irg, .ddr]
  | .hostWriteCreditTimeout _ _ _ => [.hub, .flt, .rms, .irg]
  | .configRequest => [.hub]
  | .dramRead _ _ _ _ => [.ecc, .hub, .flt, .rms, .ddr]
  | .dramWrite _ _ _ _ => [.mem, .ecc, .hub, .flt, .rms, .ddr]
  | .checkBurstWriteback _ _ _ => [.hub, .sdl, .rms, .ddr]
  | .refresh _ _ _ => [.ddr]
  | .mr4Poll _ _ _ => [.hub, .ddr, .pwr, .gk]
  | .wckTracking _ => [.ddr]
  | .dramPatrol _ => [.mem, .ecc, .hub, .flt, .ddr]
  | .zeroingPassEnd => [.ddr]
  | .remapDone => [.mem, .ecc, .hub, .gate, .ddr]
  | .ddrChQ _ _ => [.hub, .ddr]
  | .porstAssert => [.mem, .ecc, .hub, .gate, .act, .sdl, .plots, .flt, .rms, .thr, .trn, .irg, .ring, .sec, .ddr, .pwr, .gk, .beds]
  | .porstRelease _ _ => [.mem, .ecc, .hub, .gate, .act, .sdl, .plots, .flt, .rms, .thr, .trn, .irg, .ring, .sec, .ddr, .pwr, .gk, .beds]
  | .perstAssert _ => [.mem, .ecc, .hub, .gate, .act, .sdl, .plots, .flt, .rms, .thr, .trn, .irg, .ring, .sec, .ddr, .pwr, .gk, .beds]
  | .perstRelease _ => [.hub, .sdl, .rms, .pwr]
  | .railFault _ _ _ => [.mem, .ecc, .hub, .gate, .act, .sdl, .plots, .flt, .rms, .thr, .trn, .irg, .ring, .sec, .ddr, .pwr, .gk, .beds]
  | .startStepDone _ _ _ => [.mem, .ecc, .hub, .gate, .act, .sdl, .plots, .flt, .rms, .trn, .irg, .ring, .sec, .ddr, .pwr, .gk, .beds]
  | .thermalSample _ _ _ => [.hub, .sdl, .rms, .pwr, .gk]
  | .powerWindow _ _ _ => [.hub, .sdl, .rms, .pwr, .gk]
  | .thermalTrip _ _ _ _ => [.hub, .sdl, .rms, .pwr]
  | .domDone _ => [.mem, .ecc, .hub, .gate, .sdl, .plots, .flt, .rms, .trn, .irg, .ring, .pwr, .beds]
  | .plotReset _ _ _ => [.mem, .ecc, .hub, .gate, .act, .sdl, .plots, .flt, .rms, .trn, .irg, .ring, .sec, .beds]
  | .pwrTempQ _ _ => [.pwr]
  | .getInfo _ _ _ => [.hub, .gate, .sdl, .rms, .gk]
  | .readSensors _ _ _ => [.hub, .gate, .sdl, .rms, .gk]
  | .readAlmanac _ _ _ => [.hub, .gate, .sdl, .rms, .gk]
  | .readNote _ _ _ => [.hub, .gate, .sdl, .rms, .gk]
  | .readFaults _ _ _ => [.hub, .gate, .sdl, .rms, .gk]
  | .requestUpdate _ _ => [.hub, .gk]
  | .passComponentTable _ _ _ => [.hub, .gk]
  | .updateComponent _ _ _ _ => [.hub, .gk]
  | .firmwareData _ => [.hub, .gk]
  | .verifyComplete _ => [.hub, .gk]
  | .activateFirmware _ _ _ _ _ => [.hub, .sdl, .rms, .sec, .pwr, .gk]
  | .cancelUpdate _ _ => [.hub, .gk]
  | .setEventReceiver _ _ _ => [.hub, .gk]
  | .platformEventResend _ _ => [.hub, .sdl, .rms, .gk]
  | .getSensorReading _ _ _ => [.hub]
  | .setEndpointId _ _ => [.hub, .gk]
  | .consoleStatus _ => [.hub]
  | .consoleLogin _ _ => [.hub, .sdl, .rms, .sec, .gk]
  | .consoleDebug _ _ => [.hub, .sdl, .plots, .flt, .rms, .sec, .ddr, .pwr, .gk]
  | .consoleLogout _ _ => [.hub, .sdl, .rms, .sec]
  | .contextBlocked _ _ => [.hub, .gate, .sdl, .rms, .beds]
  | .delayReqInterval _ _ _ _ => [.hub, .sdl, .rms, .trn]
  | .msixUnmask _ _ => [.hub]
  | .entdaa _ => [.gk]
  | .platformEventAck _ => [.gk]

end Sys2Proof.Machine
end

