-- ==== Sys2Proof/Certificates/Slice0/Obligations.lean ====
section
/-!
DEFINITION. The statements for the provers: what the rules of the spec say the commands and the machine do.
-/

open Sys2Proof Sys2Proof.Machine

/-- A step of a state whose queue is not empty is the effect of the command at its front, on the state with the rest of the queue.
(01_architecture, 98_reader) -/
def Obligations.StepRunsFrontCommand : Prop :=
  ∀ (s : State) (c : Instr) (rest : List Instr), s.pending = c :: rest → step s = exec c { s with pending := rest }

/-- With no command waiting the block idles: a step answers the same state. This is the model's choice, log 1. (01_architecture,
98_reader) -/
def Obligations.StepIdlesOnEmptyQueue : Prop :=
  ∀ s : State, s.pending = [] → step s = .next s

/-- Every step of a state whose queue is not empty answers a next state whose queue is the rest of the queue: no command of the table
faults or refuses, and none puts another in the queue or takes one from it. (01_architecture, 98_reader) -/
def Obligations.EveryStepTakesOneCommand : Prop :=
  ∀ (s : State) (c : Instr) (rest : List Instr), s.pending = c :: rest → ∃ t, step s = .next t ∧ t.pending = rest

/-- The state after reset has its memory and its struck errors in canonical form, with nothing listed. (06_stores_carousel,
19_power_reset_startup) -/
def Obligations.ResetMemoryCanonical : Prop :=
  State.reset.memOk = true ∧ State.reset.mem = [] ∧ State.reset.ecc = []

/-- For every state whose memory and struck errors are in canonical form (addresses strictly rising, no entry equal to what an
unlisted one reads as), every step leaves them so, whatever the command. (06_stores_carousel, 18_external_memory) -/
def Obligations.StepKeepsMemoryCanonical : Prop :=
  ∀ s t : State, s.memOk = true → step s = .next t → t.memOk = true

/-- The frame of every command: a part of the state (memory, struck errors, event hub, Commit Gate, active registers, Sundial, Plots,
fault block, Ringmaster, Thresher, Turnstile, Irrigators, ring, security, memory controller, power, Groundskeeper, Beds) that
mayChange does not list for the command is the same after it, from every state. (01_architecture, 21_registers) -/
def Obligations.CommandsChangeOnlyTheirParts : Prop :=
  ∀ (c : Instr) (s t : State) (a : Area), exec c s = .next t → a ∉ mayChange c → s.sameArea t a

/-- While power-on reset holds the device or a thermal trip has stopped every handshake, every command leaves the state as it is, but
for those of the reset pins and supply rails (PORST_N, PERST#, rails) and the instructions of the test access port. (R464, R465) -/
def Obligations.StoppedDeviceIgnoresCommands : Prop :=
  ∀ (c : Instr) (s : State), s.stopped = true →
    worksStopped c = false → exec c s = .next s

/-- From every state in which a thermal trip has stopped the device, every command but PORST_ASSERT and RAIL_FAULT (the two triggers
of power-on reset) leaves it stopped by the trip. (R464, R465) -/
def Obligations.TripEndsOnlyAtPowerOnReset : Prop :=
  ∀ (c : Instr) (s t : State), s.tripped = true → exec c s = .next t → c ≠ .porstAssert → (∀ b x y, c ≠ .railFault b x y) →
    t.tripped = true

/-- Every command but PORST_ASSERT and RAIL_FAULT (the triggers of power-on reset) leaves the count of the free-running reference
where it is or later, from every state. (08_sundial, R465) -/
def Obligations.ReferenceTimeNeverGoesBack : Prop :=
  ∀ (c : Instr) (s t : State), exec c s = .next t → c ≠ .porstAssert → (∀ b x y, c ≠ .railFault b x y) → s.sdl.ref ≤ t.sdl.ref

/-- For two values x and y of an n-bit wrapping field, x precedes y exactly when (y - x) mod 2^n lies in 1 to 2^(n-1); equal values
are simultaneous: neither precedes. (R407) -/
def Obligations.SerialComparison : Prop :=
  ∀ (n x y : Nat), 1 ≤ n → x < 2 ^ n → y < 2 ^ n →
    (precedes n x y = true ↔ 1 ≤ ((y : Int) - x) % 2 ^ n ∧ ((y : Int) - x) % 2 ^ n ≤ 2 ^ (n - 1)) ∧ precedes n x x = false

/-- In an FP32 stage, with a NaN in either operand CMPLT, CMPLE and CMPEQ give 0 and CMPNE gives 1.0; the two zeros compare equal; SEL
takes A as true when it is neither zero (a NaN is true), and passes B or C bit for bit. In an INT32 stage A is true when its word
is not 0. (R107) -/
def Obligations.ComparisonsOfThePipe : Prop :=
  (∀ a b c : Nat, fpNum a = .nan ∨ fpNum b = .nan →
      (stageLane false 7 a b c).1 = 0 ∧ (stageLane false 8 a b c).1 = 0 ∧ (stageLane false 9 a b c).1 = 0 ∧
      (stageLane false 0xA a b c).1 = fpOne) ∧
  (∀ c : Nat, ∀ a ∈ [0, 0x80000000], ∀ b ∈ [0, 0x80000000],
      (stageLane false 7 a b c).1 = 0 ∧ (stageLane false 8 a b c).1 = fpOne ∧ (stageLane false 9 a b c).1 = fpOne ∧
      (stageLane false 0xA a b c).1 = 0) ∧
  (∀ a b c : Nat, a < 2 ^ 32 → (stageLane false 0xB a b c).1 = if a = 0 ∨ a = 0x80000000 then c else b) ∧
  (∀ a b c : Nat, fpNum a = .nan → (stageLane false 0xB a b c).1 = b) ∧
  (∀ a b c : Nat, (stageLane true 0xB a b c).1 = if a = 0 then c else b)

/-- A conversion of a NaN gives the canonical NaN of its floating-point format (E4M3 0x7F, E5M2 0x7F, FP16 0x7E00, BF16 0x7FC0, FP32
0x7FC0_0000), and every encoding whose exponent is all ones and whose fraction is not 0 (in E4M3, all ones) is read as NaN, so
that no payload outlives a conversion. (R35) -/
def Obligations.CanonicalNaN : Prop :=
  (∀ zp : Int, (convert 4 zp .nan).1 = 0x7F ∧ (convert 5 zp .nan).1 = 0x7F ∧ (convert 6 zp .nan).1 = 0x7E00 ∧
      (convert 7 zp .nan).1 = 0x7FC0 ∧ (convert 8 zp .nan).1 = 0x7FC00000) ∧
  (∀ (c w : Nat), c ∈ [5, 6, 7, 8] → fieldOf w (fFracBits c) (fExpBits c) = 2 ^ fExpBits c - 1 → fieldOf w 0 (fFracBits c) ≠ 0 →
      elemNum c w = .nan ∧ ∀ zp : Int, (convert c zp (elemNum c w)).1 = fNan c) ∧
  (∀ w : Nat, fieldOf w 0 7 = 0x7F → elemNum 4 w = .nan ∧ ∀ zp : Int, (convert 4 zp (elemNum 4 w)).1 = 0x7F)

/-- At power-on reset, and in the state after PORST_ASSERT from every state, SEC_PART[0] has EN 1, PLOTS 0xFF, VF 0, ROSTER_Q 256,
CF_QUOTA 64, KEY_BASE 0, KEY_COUNT 1,024 and region 0 at BASE 0 with SIZE 0xFF_FFFF, and every other partition has EN 0: the
device runs as partition 0 under the PF alone. (R358) -/
def Obligations.PartitionsAtPowerOnReset : Prop :=
  ∀ (s t : State), t = State.reset ∨ exec .porstAssert s = .next t →
    t.cfg pgSec 0x100 0 1 = 1 ∧ t.cfg pgSec 0x100 1 8 = 0xFF ∧ t.cfg pgSec 0x100 9 4 = 0 ∧ t.cfg pgSec 0x100 14 9 = 256 ∧
    t.cfg pgSec 0x100 23 7 = 64 ∧ t.cfg pgSec 0x104 0 10 = 0 ∧ t.cfg pgSec 0x104 10 11 = 1024 ∧ t.cfg pgSec 0x108 0 24 = 0 ∧
    t.cfg pgSec 0x10C 0 24 = 0xFFFFFF ∧ (∀ p : Fin 8, p ≠ 0 → t.cfg pgSec (0x100 + 0x40 * p.val) 0 1 = 0) ∧
    (∀ n : Fin 8, plotPart t.gate.act n.val = some 0) ∧ (∀ v : Fin 8, vfPart t.gate.act v.val.succ = none)

/-- For every 128-bit word, the encoder's 144-bit word has syndrome zero, and its low 128 bits are the word: the check symbols of R386
satisfy the code of R385. (R385, R386) -/
def Obligations.EncodedWordsAreCodewords : Prop :=
  ∀ d : Nat, eccSyndrome (eccEncode d) = [0, 0, 0, 0] ∧ eccEncode d % 2 ^ 128 = d % 2 ^ 128 ∧ eccEncode d < 2 ^ 144

/-- Whatever the data, an error of any non-zero element in any one of the 36 symbols is reported as corrected and the data are
delivered as written; a codeword with no error is delivered unchanged; a codeword whose 16 check bits are all complemented is
uncorrectable. (R387) -/
def Obligations.SingleSymbolErrorsCorrected : Prop :=
  (∀ (d : Nat) (s : Fin 36) (e : Fin 15),
      eccJudge ((e.val + 1) * 2 ^ (4 * s.val)) = .corrected s.val (e.val + 1) ∧
      eccDeliver d ((e.val + 1) * 2 ^ (4 * s.val)) = some d) ∧
  (∀ d : Nat, eccDeliver d 0 = some d) ∧ (∀ d : Nat, eccDeliver d eccPoison = none)

/-- On a running device: a DRAM_READ of an extent that the requester may access, outside every aperture, with no uncorrectable
codeword, returns the corrected bytes of the extent, and one that may not be made returns none. A DRAM_WRITE that may be made,
outside every aperture, with no uncorrectable codeword, leaves each of its bytes stored, and every byte of memory as before
outside the codewords it covers, unless the zeroing pass has still to reach DRAM. (R441, R443, R444, R388, 18_external_memory) -/
def Obligations.DramReadsAndWritesComplete : Prop :=
  (∀ (c : Option Ctx) (addr len : Nat) (k : List Strike) (s : State), s.stopped = false →
      (s.strike k).dramOk (c.map Fin.val) addr len = true → sbaOf s.gate.act (addr - dramBase) = none →
      (∀ cw ∈ cwsOf addr len, eccJudge ((s.strike k).xorOf cw) ≠ .uncorrectable) →
      ∃ t, exec (.dramRead c addr len k) s = .next t ∧
        t.ddr.returned = some ((List.range len).map fun i => (s.strike k).dramByte (addr + i))) ∧
  (∀ (c : Option Ctx) (addr len : Nat) (k : List Strike) (s : State), s.stopped = false →
      (s.strike k).dramOk (c.map Fin.val) addr len = false →
      ∃ t, exec (.dramRead c addr len k) s = .next t ∧ t.ddr.returned = none) ∧
  (∀ (c : Option Ctx) (addr : Nat) (data : List Byte) (k : List Strike) (s : State), s.stopped = false →
      (s.strike k).dramOk (c.map Fin.val) addr data.length = true → sbaOf s.gate.act (addr - dramBase) = none →
      s.ddr.zeroing = false →
      (∀ cw ∈ cwsOf addr data.length, eccJudge ((s.strike k).xorOf cw) ≠ .uncorrectable) →
      ∃ t, exec (.dramWrite c addr data k) s = .next t ∧
        (∀ (i : Nat) (h : i < data.length), t.mem.read (addr + i) = data[i]) ∧
        (∀ a, a / 16 ∉ cwsOf addr data.length → t.mem.read a = s.mem.read a))

/-- On a running device: CHECK_BURST_WRITEBACK leaves no copy of the burst in the channel's check cache that has been changed for 1 µs
or more; REFRESH makes the bank's refresh in a gap or when 8 intervals are postponed, and postpones it one interval more
otherwise; MR4_POLL holds the multiplier and the heat bit, and raises event 11 when the bit rises; WCK_TRACKING is counted on its
channel; DRAM_PATROL, once zeroing has ended and below throttle level 3, moves to the next codeword and writes a correctable
codeword back corrected; ZEROING_PASS_END ends the pass; REMAP_DONE ends the copy and puts the page at its new place; DDR_CH_Q
names the channel that the view reads. (R440, R445, R446, R447, R448, R450, R453) -/
def Obligations.DramUpkeepCompletes : Prop :=
  (∀ (ch : Fin 8) (burst x : Nat) (s : State), s.stopped = false → ∃ t, exec (.checkBurstWriteback ch burst x) s = .next t ∧
      ∀ e ∈ (t.ddrCh ch).check, e.1 = burst → e.2 = 0 ∨ t.sdl.ref + 1 < e.2 + 1000 * nsRef) ∧
  (∀ (ch : Fin 8) (bank : Nat) (gap : Bool) (s : State), s.stopped = false → ∃ t, exec (.refresh ch bank gap) s = .next t ∧
      SMap.get zeroUnlisted (t.ddrCh ch).postponed bank =
        if gap ∨ 8 ≤ SMap.get zeroUnlisted (s.ddrCh ch).postponed bank then 0
        else SMap.get zeroUnlisted (s.ddrCh ch).postponed bank + 1) ∧
  (∀ (ch : Fin 8) (mult : Fin 3) (hot : Bool) (s : State), s.stopped = false → ∃ t, exec (.mr4Poll ch mult hot) s = .next t ∧
      (t.ddrCh ch).refreshX = mult.val ∧ (t.ddrCh ch).hot = hot) ∧
  (∀ (ch : Fin 8) (s : State), s.stopped = false → ∃ t, exec (.wckTracking ch) s = .next t ∧
      (t.ddrCh ch).tracked = (s.ddrCh ch).tracked + 1) ∧
  (∀ (k : List Strike) (s : State), s.stopped = false → s.flag pgDdr 0x100 8 = true → s.ddr.zeroing = false → s.level < 3 →
      s.ddr.mapped ≠ 0 → ∃ t, exec (.dramPatrol k) s = .next t ∧
        t.ddr.patrol = (s.ddr.patrol + 1) % ((s.ddr.mapped + s.ddr.pool) * 4096) ∧
        (eccJudge ((s.strike k).xorOf (dramBase / 16 + s.ddr.patrol)) ≠ .uncorrectable →
          t.xorOf (dramBase / 16 + s.ddr.patrol) = 0)) ∧
  (∀ s : State, s.stopped = false → ∃ t, exec .zeroingPassEnd s = .next t ∧ t.ddr.zeroing = false) ∧
  (∀ (s : State) (page phys : Nat), s.stopped = false → s.ddr.copying = some (page, phys) → ∃ t, exec .remapDone s = .next t ∧
      t.ddr.copying = none ∧ t.ddr.physPage page = phys) ∧
  (∀ (v : View) (x : Word) (s : State), s.stopped = false → s.inFlr v = false → isVf v = false →
      ∃ t, exec (.ddrChQ v x) s = .next t ∧ SMap.get zeroUnlisted t.ddr.query v.no = x.toNat % 8)

/-- For a view whose writes the running device takes, on a page that it sees: REGISTER_WRITE of a whole word to an RW register without
a reserved value stores the word's fields, and with one it leaves every register as it is and raises WR_DROPPED; partial byte
enables store nothing and record the access; STAGED_WRITE to a staged register with bits that the view may write stages the word
while there is room, and otherwise sets STAGE_FULL; REVERT leaves no staged word of the page on the writer's channel. (R489, R490,
R496, R488, R12) -/
def Obligations.RegisterWritesComplete : Prop :=
  (∀ (v : View) (off : Nat) (x : Word) (s : State) (p : Page) (a : RegDef) (b n : Nat) (fs : List Field), s.opens v (off / 4096) p = true →
      readOnlyAt p (off % 4096) = false → regAt p (off % 4096) = some (a, b, n, fs) →
      (fs.any fun f => decide (f.acc = .rw)) = true → ¬ (p.kind = .gkp ∧ s.gk.mb.isSome = true) →
      ∃ t, exec (.registerWrite v off x 15) s = .next t ∧
        ((fs.any fun f => (Lim.check f.lim f.w (fieldOf x.toNat f.lo f.w)).isSome) = true → t.gate = s.gate ∧ t.event v p 1 = true) ∧
        ((fs.any fun f => (Lim.check f.lim f.w (fieldOf x.toNat f.lo f.w)).isSome) = false →
          SMap.get wordUnlisted t.gate.rw (regKey v p (off % 4096)) = BitVec.ofNat 32 (maskWord fs x.toNat))) ∧
  (∀ (v : View) (off be : Nat) (x : Word) (s : State), s.takes v = true → be < 15 →
      ∃ t, exec (.registerWrite v off x be) s = .next t ∧ t.gate = s.gate ∧ t.event .pf ⟨.sys, 0⟩ 8 = true) ∧
  (∀ (v : View) (off : Nat) (x : Word) (s : State) (p : Page) (a b : Nat) (fs : List Field), s.opens v (off / 4096) p = true →
      stagedAt p (off % 4096) = some (a, b, fs) → viewMask s.gate.act v p (off % 4096) x.toNat ≠ 0 →
      ∃ t, exec (.stagedWrite v off x) s = .next t ∧
        ((s.chan (chanOf v)).stagedWords.length < 4096 →
          (regKey v p (off % 4096), BitVec.ofNat 32 (Nat.land (maskWord fs x.toNat) (viewMask s.gate.act v p (off % 4096) x.toNat))) ∈
            (t.chan (chanOf v)).staging) ∧
        (4096 ≤ (s.chan (chanOf v)).stagedWords.length →
          ((s.chan (chanOf v)).stagedWords.any fun w => decide (w.1 = regKey v p (off % 4096))) = false →
          (t.chan (chanOf v)).stageFull = true ∧ (t.chan (chanOf v)).staging = (s.chan (chanOf v)).staging)) ∧
  (∀ (v : View) (page : Nat) (s : State) (p : Page), s.opens v page p = true → ∃ t, exec (.revert v page) s = .next t ∧
      (∀ w ∈ (t.chan (chanOf v)).staging, w.1 % 2 ^ 26 / 4096 ≠ pageNo p) ∧
      ∀ w ∈ (s.chan (chanOf v)).staging, w.1 % 2 ^ 26 / 4096 ≠ pageNo p → w ∈ (t.chan (chanOf v)).staging)

/-- For a view whose writes the running device takes, on a page that it sees: SNAP_LATCH latches every counter and every other SNP
field of the page in the view; SNAP_CLEAR by the PF or Groundskeeper also zeroes the page's counters, and by a VF it is ignored
with WR_DROPPED; EVT_CLEAR_WRITE clears the bits written 1 and leaves the others; EVT_MASK_WRITE sets the mask; MSIX_UNMASK of a
vector of the table unmasks it, sends its message if it was pending, and leaves it not pending. (R492, R493, R494) -/
def Obligations.SnapshotsAndEventsComplete : Prop :=
  (∀ (v : View) (page : Nat) (s : State) (p : Page), s.opens v page p = true → ∃ t, exec (.snapLatch v page) s = .next t ∧
      ∀ e ∈ s.snapCounters v p ++ s.snapOther v p,
        SMap.get wordUnlisted t.hub.latch (v.no * 2 ^ 26 + regAddr p e.1) = BitVec.ofNat 32 e.2) ∧
  (∀ (v : View) (page : Nat) (s : State) (p : Page), s.opens v page p = true → ∃ t, exec (.snapClear v page) s = .next t ∧
      (isVf v = true → t.hub.latch = s.hub.latch ∧ t.event v p 1 = true) ∧
      (isVf v = false → ∀ off, isCounter p.kind off = true → off < 4096 → regAddr p off < 2 ^ 26 → t.count p off = 0)) ∧
  (∀ (v : View) (page : Nat) (x : Word) (s : State) (p : Page) (b : Nat), s.opens v page p = true → 0 < b →
      ∃ t, exec (.evtClearWrite v page x) s = .next t ∧ t.event v p b = (s.event v p b && !x.getLsbD b)) ∧
  (∀ (v : View) (page : Nat) (x : Word) (s : State) (p : Page), s.opens v page p = true → ∃ t, exec (.evtMaskWrite v page x) s = .next t ∧
      t.evtMask v p = x) ∧
  (∀ (fn : Fin 9) (vector : Nat) (s : State), s.stopped = false → vector < tableSize fn.val → SMap.get flagUnlisted s.hub.mute fn.val = false →
      ∃ t, exec (.msixUnmask fn vector) s = .next t ∧ SMap.get vecUnlisted t.hub.vecMask (2048 * fn.val + vector) = false ∧
        SMap.get flagUnlisted t.hub.vecPend (2048 * fn.val + vector) = false ∧
        t.hub.out = s.hub.out ++ (if SMap.get flagUnlisted s.hub.vecPend (2048 * fn.val + vector) then [Sent.msi fn.val vector] else []))

/-- For a view whose writes the running device takes: SELECTION_ADD of one of its pages puts the page in the selection while it holds
fewer than 256, and sets SET_OVF when it is full; SELECTION_REMOVE takes the page out and no other; SELECTION_CLEAR leaves the
selection empty and SET_OVF 0; SELECTION_QUERY latches the entry asked for; GO with no commit in flight takes the staged words of
the selected pages as one commit whose checks run; ABORT leaves no commit in flight, its words staged again, and the channel
aborted. HOOK_FIRE makes due every accepted commit whose instant the device time has reached, and frees its comparator. (R497,
R498, R503, R508, R209) -/
def Obligations.CommitSelectionAndGoComplete : Prop :=
  (∀ (v : View) (page : Nat) (s : State), s.takes v = true → (viewPage v page).isSome = true →
      ∃ t, exec (.selectionAdd v page) s = .next t ∧
        (page ∈ (s.chan (chanOf v)).sel ∨ (s.chan (chanOf v)).sel.length < 256 →
          page ∈ (t.chan (chanOf v)).sel ∧ ∀ n, n ≠ page → (n ∈ (t.chan (chanOf v)).sel ↔ n ∈ (s.chan (chanOf v)).sel)) ∧
        (page ∉ (s.chan (chanOf v)).sel → 256 ≤ (s.chan (chanOf v)).sel.length →
          (t.chan (chanOf v)).setOvf = true ∧ (t.chan (chanOf v)).sel = (s.chan (chanOf v)).sel)) ∧
  (∀ (v : View) (page : Nat) (s : State), s.takes v = true → ∃ t, exec (.selectionRemove v page) s = .next t ∧
      ∀ n, n ∈ (t.chan (chanOf v)).sel ↔ n ∈ (s.chan (chanOf v)).sel ∧ n ≠ page) ∧
  (∀ (v : View) (s : State), s.takes v = true → ∃ t, exec (.selectionClear v) s = .next t ∧
      (t.chan (chanOf v)).sel = [] ∧ (t.chan (chanOf v)).setOvf = false) ∧
  (∀ (v : View) (index : Nat) (s : State), s.takes v = true → ∃ t, exec (.selectionQuery v index) s = .next t ∧
      (t.chan (chanOf v)).query = some index) ∧
  (∀ (v : View) (s : State), s.takes v = true → (s.chan (chanOf v)).flight = [] → ∃ t, exec (.go v) s = .next t ∧
      (t.chan (chanOf v)).state = .checking ∧ ∃ c, (t.chan (chanOf v)).flight = [c] ∧ c.checking = true ∧
        c.pages = (s.chan (chanOf v)).sel ∧ ∀ w, w ∈ c.words ↔ w ∈ (s.chan (chanOf v)).staging ∧
          ∃ no ∈ (s.chan (chanOf v)).sel, ∃ p, viewPage v no = some p ∧ w.1 % 2 ^ 26 / 4096 = pageNo p) ∧
  (∀ (v : View) (s : State) (c : Commit) (l : List Commit), s.takes v = true → (s.chan (chanOf v)).flight = c :: l →
      ∃ t, exec (.abort v) s = .next t ∧ (t.chan (chanOf v)).flight = [] ∧ (t.chan (chanOf v)).state = .aborted ∧
        (t.chan (chanOf v)).staging = (s.chan (chanOf v)).stagedWords) ∧
  (∀ (t : Nat) (s : State), s.stopped = false → ∃ u, exec (.hookFire t) s = .next u ∧
      ∀ e ∈ u.gate.chans, ∀ c ∈ e.2.flight, ∀ h, c.hookAt = some h → c.checking = false → devDiff h u.sdl.dev ≤ 0 → c.due = true ∧ c.comparator = false)

/-- On a running device: PACE_WINDOW_END of a Plot whose monitor runs holds the count and the minimum since SNAP, and raises the floor
event where the count is below the floor; VOLTAGE_LOOP_EVAL of a loop that runs, whose regulator answers, moves VCORE by at most
one step of 5 mV, and up where VCORE is below its floor and the last raise is 20 µs past; VR_TELEMETRY_POLL holds the current and
sends the three readings, or counts a failed transaction, of which the third suspends the loop; VR_RETRY resumes a suspended loop
at its first success; PMB_ALERT reads STATUS_WORD; THERMAL_SAMPLE holds the temperatures and sets the thermal level; POWER_WINDOW
moves the power level by the window's mean power; PWR_TEMP_Q names the sensor that the view reads. (R23, R457, R458, R459, R462,
R463) -/
def Obligations.PowerTelemetryCompletes : Prop :=
  (∀ (plot : Plot) (count x : Nat) (s : State), s.stopped = false → s.monitorOn plot.val = true →
      ∃ t, exec (.paceWindowEnd plot count x) s = .next t ∧ SMap.get zeroUnlisted t.pwr.paceNow plot.val = count ∧
        SMap.get zeroUnlisted t.pwr.paceMin plot.val =
          (if SMap.get zeroUnlisted s.pwr.paceMin plot.val = 0 then count + 1
           else min (SMap.get zeroUnlisted s.pwr.paceMin plot.val) (count + 1)) ∧
        (count < s.cfg (pgPace plot.val) 0x100 0 11 → t.event .pf (pgPace plot.val) 8 = true)) ∧
  (∀ (x : Nat) (s : State), s.stopped = false → s.loopRuns = true →
      ∃ t, exec (.voltageLoopEval true x) s = .next t ∧
        (t.pwr.vcore = s.pwr.vcore ∨ t.pwr.vcore = min 850 (s.pwr.vcore + 5) ∨ t.pwr.vcore = max s.vFloor (s.pwr.vcore - 5)) ∧
        (s.pwr.vcore < s.vFloor → (s.advance x).since s.pwr.raisedAt 20 = true → t.pwr.vcore = min 850 (s.pwr.vcore + 5))) ∧
  (∀ (vout iout : Nat) (temp : Int) (x : Nat) (s : State), s.stopped = false → s.loopRuns = true →
      (∃ t, exec (.vrTelemetryPoll true vout iout temp x) s = .next t ∧ t.pwr.iout = iout ∧ t.pwr.pmbFails = 0 ∧
        t.hub.out = s.hub.out ++ [Sent.pmbus 0x8B vout, Sent.pmbus 0x8C iout, Sent.pmbus 0x8D (unsignedOf 16 temp)]) ∧
      (∃ t, exec (.vrTelemetryPoll false vout iout temp x) s = .next t ∧ t.pwr.pmbFails = s.pwr.pmbFails + 1 ∧
        t.pwr.vrOk = decide (s.pwr.pmbFails + 1 < 3))) ∧
  (∀ (x : Nat) (s : State), s.stopped = false → s.pwr.loop = true → s.pwr.vrOk = false → s.hub.gkHalted = false →
      ∃ t, exec (.vrRetry true x) s = .next t ∧ t.pwr.vrOk = true ∧ t.pwr.pmbFails = 0) ∧
  (∀ (status x : Nat) (s : State), s.stopped = false → s.loopRuns = true →
      ∃ t, exec (.pmbAlert true status x) s = .next t ∧ t.hub.out = s.hub.out ++ [Sent.pmbus 0x79 status]) ∧
  (∀ (temps : List Int) (volts : List Nat) (x : Nat) (s : State), s.stopped = false → s.hub.gkHalted = false →
      ∃ t, exec (.thermalSample temps volts x) s = .next t ∧ t.pwr.volts = volts ∧
        t.pwr.thermal = thermalLevel s.pwr.thermal (temps.foldl max (-2048)) ∧
        ∀ (i : Nat) (h : i < temps.length), SMap.get intUnlisted t.pwr.temp i = temps[i]) ∧
  (∀ (watts amps x : Nat) (s : State), s.stopped = false → s.hub.gkHalted = false →
      ∃ t, exec (.powerWindow watts amps x) s = .next t ∧ t.pwr.meanW = watts ∧ t.pwr.meanA = amps ∧
        t.pwr.power = (if s.cfg pgPwr 0x100 11 10 < watts then min 3 (s.pwr.power + 1)
          else if 100 * watts < 95 * s.cfg pgPwr 0x100 11 10 then s.pwr.power - 1 else s.pwr.power)) ∧
  (∀ (v : View) (x : Word) (s : State), s.takes v = true → ∃ t, exec (.pwrTempQ v x) s = .next t ∧
      SMap.get zeroUnlisted t.pwr.tempQ v.no = x.toNat % 32)

/-- On a running device: THERMAL_TRIP at or above the trip temperature stops the device until power-on reset, drives BYP_OPEN low and
asserts THERMTRIP_N; DOM_DONE leaves no domain switching and raises its event; PLOT_RESET by the PF or Groundskeeper of a Plot
that is not Pruned and has no ACTIVE window leaves its Big Top and Sieve as at reset, but for the spare map in force, and advances
the Big Top's epoch, and of a Pruned Plot it changes nothing of the Plots. (R464, R455, R466) -/
def Obligations.PowerEventsComplete : Prop :=
  (∀ (sensor : Fin 24) (temp : Int) (almOk : Bool) (x : Nat) (s : State), s.stopped = false → (4 * thermalAt 5 : Int) ≤ temp →
      ∃ t, exec (.thermalTrip sensor temp almOk x) s = .next t ∧ t.tripped = true ∧ t.stopped = true ∧ t.pwr.bypOpen = false ∧
        Sent.pin .thermtrip true ∈ t.hub.out) ∧
  (∀ (x : Nat) (s : State), s.stopped = false → s.pwr.switching ≠ [] →
      ∃ t, exec (.domDone x) s = .next t ∧ t.event .pf pgPwr 11 = true) ∧
  (∀ (v : View) (plot : Plot) (x : Nat) (s : State), s.takes v = true → isVf v = false →
      ∃ t, exec (.plotReset v plot x) s = .next t ∧ (s.pruned plot.val = true → t.plots = s.plots) ∧
        (s.pruned plot.val = false → (∀ e, e < 32 → (s.win plot.val e).st ≠ .active) →
          (t.plot plot.val).siv = {} ∧
          (t.plot plot.val).btp = { mapInForce := actW s.gate.act (regAddr (pgBtp plot.val) 0x100) } ∧
          (t.unit 0 plot.val 0).epoch = ((s.unit 0 plot.val 0).epoch + 1) % 2 ^ 16))

/-- On a running device: CHECKS_END of a channel whose commit is being checked rejects it, its words staged again and the code and
page of the first failing check held, or makes it pending as armed; COMMIT_APPLY with one commit due, that needs no re-check and
changes only routes of the event hub, puts its words into the active values, and with none due it leaves every active value;
FAULT_COMMIT_RETRY, once 1 ms has passed, issues the repair at the head of the queue again as a commit being checked; REPAIR_APPLY
of a staged repair that applies takes it from the queue, and where it is the Graft of a Bed the failed Bed is Pruned. (R498, R499,
R500, R502, R393) -/
def Obligations.CommitChecksAndRepairsComplete : Prop :=
  (∀ (chan : Fin 12) (x : Nat) (s : State) (c : Commit), s.stopped = false → chan.val < 10 →
      ((s.advance x).chan chan.val).flight.find? (fun c => c.checking) = some c →
      ∃ t, exec (.checksEnd chan x) s = .next t ∧
        (∀ code, (s.advance x).channelCheck chan.val ((s.advance x).armed c) = some code →
          (t.chan chan.val).state = .rejected ∧ (t.chan chan.val).code = code ∧ (t.chan chan.val).page = 0 ∧ (t.chan chan.val).flight = [] ∧
          (t.chan chan.val).staging = ((s.advance x).chan chan.val).stagedWords) ∧
        (∀ code page, (s.advance x).channelCheck chan.val ((s.advance x).armed c) = none →
          (s.advance x).judge ((s.advance x).basis chan.val ((s.advance x).armed c)) chan.val c = some (code, page) →
          (t.chan chan.val).state = .rejected ∧ (t.chan chan.val).code = code ∧ (t.chan chan.val).page = page ∧
          (t.chan chan.val).flight = [] ∧ (t.chan chan.val).staging = ((s.advance x).chan chan.val).stagedWords) ∧
        ((s.advance x).channelCheck chan.val ((s.advance x).armed c) = none →
          (s.advance x).judge ((s.advance x).basis chan.val ((s.advance x).armed c)) chan.val c = none →
          (t.chan chan.val).state = .pending ∧ (t.chan chan.val).flight = [(s.advance x).armed c])) ∧
  (∀ (x : Nat) (s : State), s.stopped = false →
      (sortCommits ((s.advance x).accepted.filter fun y => y.2.due && !y.2.repair) = [] →
        ∃ t, exec (.commitApply x) s = .next t ∧ t.gate.act = s.gate.act) ∧
      (∀ k c, sortCommits ((s.advance x).accepted.filter fun y => y.2.due && !y.2.repair) = [(k, c)] → c.dirty = false →
        (∀ w ∈ c.words, pfPage (w.1 % 2 ^ 26 / 4096) = some pgEvh) →
        ∃ t, exec (.commitApply x) s = .next t ∧ t.gate.act = putWords (chanOwner k) s.gate.act c.words)) ∧
  (∀ (x y : Nat) (s : State), s.stopped = false → s.flt.retryAt = some y → y ≤ max s.sdl.ref x →
      ∃ t, exec (.faultCommitRetry x) s = .next t ∧ t.flt.retryAt = none ∧
        (∀ r rest a, s.flt.queue = r :: rest → r.prune = false → (s.chan 9).flight = [] →
          ({ s.advance x with flt := { s.flt with retryAt := none } } : State).repairWords r = some a → (t.chan 9).state = .checking)) ∧
  (∀ (almOk : Bool) (x : Nat) (s : State) (r : Repair) (c : Commit) (l : List Commit), s.stopped = false →
      s.flt.queue = [r] → ((s.advance x).fireHooks.chan 9).flight = c :: l → c.repair = true → c.due = true → c.checking = false →
      (((s.advance x).fireHooks.applyDue fun c => c.repair).chan 9).state = .applied →
      ((s.advance x).fireHooks.applyDue fun c => c.repair).flt.queue = [r] →
      ∃ t, exec (.repairApply almOk x) s = .next t ∧ t.flt.queue = [] ∧
        (r.cls = 1 → r.plot < 8 → r.index < 16 → (t.bed r.plot r.index).pruned = true))

/-- On a running device: FAULT_RECORD enters the record into the log and, for a unit already judged, into its history, and judges a
unit permanent that its record names so; LANE_ERR_INTERVAL of a lane above its threshold, or that lost lock, sends a record to the
fault block; PLOT_PRUNE with no user left Prunes the Plot; AGING_MARGIN_LOW holds the margin, and below AGE_RAISE raises the VCORE
floor by 10 mV; HANDSHAKE_TIMEOUT sends a record, and faults the context with cause 0x18 where its retry failed; PARTITION_TIMEOUT
past the limit resets the partition; FLT_UNIT_Q names the unit that the view reads. (R384, R391, R398, R399, R401, R402, R412) -/
def Obligations.FaultBlockCompletes : Prop :=
  (∀ (r : FltRec) (x : Nat) (s : State), s.stopped = false →
      (s.known r = true → s.flt.queue = [] → ∃ t, exec (.faultRecord (some r) x) s = .next t ∧ t.flt.seq = (s.flt.seq + 1) % 2 ^ 16 ∧
        (recFault r = true → r.cls ≠ 3 → r.cls ≠ 8 →
          (t.unit r.cls r.plot r.index).faults = ((s.unit r.cls r.plot r.index).uses :: (s.unit r.cls r.plot r.index).faults).take 3)) ∧
      (s.known r = false → s.pruned r.plot = false → r.perm = true →
        ∃ t, exec (.faultRecord (some r) x) s = .next t ∧ (t.unit r.cls r.plot r.index).permanent = true)) ∧
  (∀ (ring : Bool) (lane : Fin 32) (errs : Nat) (lost long : Bool) (x : Nat) (s : State), s.stopped = false →
      ¬ ((ring = false ∧ 18 ≤ lane.val) ∨ (ring = true ∧ 8 < lane.val % 16)) →
      ∃ t, exec (.laneErrInterval ring lane errs lost long x) s = .next t ∧
        (t.unit (if ring then 7 else 6) 0 lane.val).uses = (s.unit (if ring then 7 else 6) 0 lane.val).uses + 1 ∧
        t.flt.inbox = s.flt.inbox ++ (if s.cfg pgFlt 0x100 0 10 < errs ∨ lost = true ∨ long = true then
          [{ kind := 6, action := 8, cls := if ring then 7 else 6, index := lane.val, perm := long }] else [])) ∧
  (∀ (plot : Plot) (almOk : Bool) (x : Nat) (s : State) (r : Repair) (rest : List Repair), s.stopped = false →
      s.flt.queue = r :: rest → r.prune = true → r.retiring = true → r.plot = plot.val → (s.advance x).plotUsers plot.val = [] →
      ∃ t, exec (.plotPrune plot almOk x) s = .next t ∧ t.pruned plot.val = true) ∧
  (∀ (monitor : Fin 197) (margin : Fin 256) (almOk : Bool) (x : Nat) (s : State), s.stopped = false →
      (s.cfg pgFlt 0x100 10 8 ≤ margin.val → s.cfg pgFlt 0x100 18 8 ≤ margin.val → monitor.val < 192 →
        ∃ t, exec (.agingMarginLow monitor margin almOk x) s = .next t ∧ t.flt.floor = s.flt.floor ∧
          SMap.get ageUnlisted t.pwr.age (monitor.val / 24 * 32 + monitor.val % 24) = margin.val) ∧
      (s.flt.floor < 850 → margin.val < s.cfg pgFlt 0x100 10 8 → s.flt.floorAt = none →
        ∃ t, exec (.agingMarginLow monitor margin almOk x) s = .next t ∧ t.flt.floor = min 850 (s.flt.floor + 10) ∧
          t.event .pf pgFlt 13 = true)) ∧
  (∀ (cls : Fin 10) (plot : Plot) (index : Fin 256) (c : Option Ctx) (recovered : Bool) (x : Nat) (s : State), s.stopped = false →
      ∃ t, exec (.handshakeTimeout cls plot index c recovered x) s = .next t ∧
        t.flt.inbox = s.flt.inbox ++ [{ kind := 7, action := 8, cls := cls.val, plot := plot.val, index := index.val, ctx := c.map (·.val) }] ∧
        (∀ k, c = some k → recovered = false → (s.ctx k.val).live = true → (s.ctx k.val).fault = none → (t.ctx k.val).fault = some 0x18)) ∧
  (∀ (p : Part) (x since : Nat) (s : State), s.stopped = false → (s.advance x).partStuck p.val = some since →
      since + s.partLimit p.val < max s.sdl.ref x → (SMap.get partUnlisted s.sec.parts p.val).resetAt = none →
      ∃ t, exec (.partitionTimeout p x) s = .next t ∧ (SMap.get partUnlisted t.sec.parts p.val).resetAt = some (max s.sdl.ref x)) ∧
  (∀ (v : View) (x : Word) (s : State), s.takes v = true → isVf v = false → ∃ t, exec (.fltUnitQ v x) s = .next t ∧
      SMap.get zeroUnlisted t.flt.query v.no = x.toNat % 2 ^ 15)

/-- On a running device, for a Sprout that can issue: ADD, SUB, ABS, NEG, MIN, MAX, SHL and SHR write their destination with the exact
integer result of the operands, as INT32 or for each part of a packed pair, saturated, SHR rounded to nearest even; each
saturation sets SAT; the Sprout moves to its next instruction, one step passes, and every other Sprout stays. (R120, R121) -/
def Obligations.SproutArithmeticCompletes : Prop :=
  (∀ (i : SproutId) (pk : Bool) (rd ra rb : SReg) (s : State), s.stopped = false → (s.sprout i).issues = true →
      ∃ t, exec (.add i pk rd ra rb) s = .next t ∧ s.Ran i ((s.sprout i).wrote rd (aluOf pk (fun a b => a + b) ((s.sprout i).get ra) ((s.sprout i).get rb))) t) ∧
  (∀ (i : SproutId) (pk : Bool) (rd ra rb : SReg) (s : State), s.stopped = false → (s.sprout i).issues = true →
      ∃ t, exec (.sub i pk rd ra rb) s = .next t ∧ s.Ran i ((s.sprout i).wrote rd (aluOf pk (fun a b => a - b) ((s.sprout i).get ra) ((s.sprout i).get rb))) t) ∧
  (∀ (i : SproutId) (pk : Bool) (rd ra : SReg) (s : State), s.stopped = false → (s.sprout i).issues = true →
      ∃ t, exec (.abs i pk rd ra) s = .next t ∧ s.Ran i ((s.sprout i).wrote rd (aluOf pk (fun a _ => if a < 0 then -a else a) ((s.sprout i).get ra) 0)) t) ∧
  (∀ (i : SproutId) (pk : Bool) (rd ra : SReg) (s : State), s.stopped = false → (s.sprout i).issues = true →
      ∃ t, exec (.neg i pk rd ra) s = .next t ∧ s.Ran i ((s.sprout i).wrote rd (aluOf pk (fun a _ => -a) ((s.sprout i).get ra) 0)) t) ∧
  (∀ (i : SproutId) (pk : Bool) (rd ra rb : SReg) (s : State), s.stopped = false → (s.sprout i).issues = true →
      ∃ t, exec (.min i pk rd ra rb) s = .next t ∧ s.Ran i ((s.sprout i).wrote rd (aluOf pk (fun a b => min a b) ((s.sprout i).get ra) ((s.sprout i).get rb))) t) ∧
  (∀ (i : SproutId) (pk : Bool) (rd ra rb : SReg) (s : State), s.stopped = false → (s.sprout i).issues = true →
      ∃ t, exec (.max i pk rd ra rb) s = .next t ∧ s.Ran i ((s.sprout i).wrote rd (aluOf pk (fun a b => max a b) ((s.sprout i).get ra) ((s.sprout i).get rb))) t) ∧
  (∀ (i : SproutId) (pk : Bool) (rd ra : SReg) (n : Fin 32) (s : State), s.stopped = false → (s.sprout i).issues = true →
      ∃ t, exec (.shl i pk rd ra n) s = .next t ∧ s.Ran i ((s.sprout i).wrote rd (aluOf pk (fun a _ => a * 2 ^ n.val) ((s.sprout i).get ra) 0)) t) ∧
  (∀ (i : SproutId) (pk : Bool) (rd ra : SReg) (n : Fin 32) (s : State), s.stopped = false → (s.sprout i).issues = true →
      ∃ t, exec (.shr i pk rd ra n) s = .next t ∧ s.Ran i ((s.sprout i).wrote rd (aluOf pk (fun a _ => rneDiv a (2 ^ n.val)) ((s.sprout i).get ra) 0)) t)

/-- On a running device, for a Sprout that can issue: CMP sets the condition flag by its relation, SEL takes the first operand where
the flag is set, CONJ negates the imaginary part with saturation, SWAPRI swaps the parts, NRM counts the redundant sign bits; RCPS
and RSQS write RNE(0.5/x) and RNE(0.5/√x) of an input in range, and of one out of range write 0 and set SAT; CLRSAT clears SAT;
ACLR clears the accumulator pair. The Sprout moves on by one step, and every other Sprout stays. (R120, R121, R122) -/
def Obligations.SproutSelectAndSeedsComplete : Prop :=
  (∀ (i : SproutId) (pk : Bool) (rel : Fin 6) (ra rb : SReg) (s : State), s.stopped = false → (s.sprout i).issues = true →
      ∃ t, exec (.cmp i pk rel ra rb) s = .next t ∧
        s.Ran i (((s.sprout i).setBank { (s.sprout i).bank with
          cond := relHolds pk rel.val ((s.sprout i).get ra) ((s.sprout i).get rb) }).after 1) t) ∧
  (∀ (i : SproutId) (rd ra rb : SReg) (s : State), s.stopped = false → (s.sprout i).issues = true →
      ∃ t, exec (.sel i rd ra rb) s = .next t ∧ s.Ran i ((s.sprout i).wrote rd (if (s.sprout i).bank.cond then (s.sprout i).get ra else (s.sprout i).get rb, 0)) t) ∧
  (∀ (i : SproutId) (rd ra : SReg) (s : State), s.stopped = false → (s.sprout i).issues = true →
      ∃ t, exec (.conj i rd ra) s = .next t ∧ s.Ran i ((s.sprout i).wrote rd (cplxOf (cplxRe ((s.sprout i).get ra)) (satBits 16 (-cplxIm ((s.sprout i).get ra))).1,
          (satBits 16 (-cplxIm ((s.sprout i).get ra))).2)) t) ∧
  (∀ (i : SproutId) (rd ra : SReg) (s : State), s.stopped = false → (s.sprout i).issues = true →
      ∃ t, exec (.swapri i rd ra) s = .next t ∧ s.Ran i ((s.sprout i).wrote rd (cplxOf (cplxIm ((s.sprout i).get ra)) (cplxRe ((s.sprout i).get ra)), 0)) t) ∧
  (∀ (i : SproutId) (rd ra : SReg) (s : State), s.stopped = false → (s.sprout i).issues = true →
      ∃ t, exec (.nrm i rd ra) s = .next t ∧ s.Ran i ((s.sprout i).wrote rd (redundantBits ((s.sprout i).get ra), 0)) t) ∧
  (∀ (i : SproutId) (rd ra : SReg) (s : State), s.stopped = false → (s.sprout i).issues = true →
      ∃ t u, exec (.rcps i rd ra) s = .next t ∧ exec (.rsqs i rd ra) s = .next u ∧
        (∀ r, rcps ((s.sprout i).get ra) = some r → s.Ran i ((s.sprout i).wrote rd r) t) ∧
        (rcps ((s.sprout i).get ra) = none → s.Ran i (((((s.sprout i).set rd 0)).sats 1).after 1) t) ∧
        (∀ r, rsqs ((s.sprout i).get ra) = some r → s.Ran i ((s.sprout i).wrote rd r) u) ∧
        (rsqs ((s.sprout i).get ra) = none → s.Ran i (((((s.sprout i).set rd 0)).sats 1).after 1) u)) ∧
  (∀ (i : SproutId) (s : State), s.stopped = false → (s.sprout i).issues = true →
      ∃ t u, exec (.clrsat i) s = .next t ∧ exec (.aclr i) s = .next u ∧
        s.Ran i (((s.sprout i).setBank { (s.sprout i).bank with sat := false }).after 1) t ∧
        s.Ran i (((s.sprout i).setBank { (s.sprout i).bank with re := 0, im := 0 }).after 1) u)

/-- On a running device, for a Sprout that can issue, where the words of data memory that its two address registers name have no
uncorrectable error: CMAC adds their complex product to the accumulator pair, CMACC the product with the X operand conjugated,
CMSU subtracts the product, and CMUL first clears the pair, each part saturated at 40 bits; every other Sprout stays. RDACC writes
the pair read out as two INT16 parts, times 2^k, rounded and saturated. (R118, R119, R121) -/
def Obligations.SproutMultiplyAccumulateCompletes : Prop :=
  (∀ (i : SproutId) (ax ay : Fin 8) (s : State), s.stopped = false → (s.sprout i).issues = true →
      s.sound i ((s.sprout i).get (.a ax)) → s.sound i ((s.sprout i).get (.a ay)) →
      ∃ t, exec (.cmac i ax ay) s = .next t ∧
        (t.sprout i).bank.re = (accAdd (s.sprout i).bank.re (cplxRe (s.macWords i ax ay).1 * cplxRe (s.macWords i ax ay).2 - cplxIm (s.macWords i ax ay).1 * cplxIm (s.macWords i ax ay).2)).1 ∧
        (t.sprout i).bank.im = (accAdd (s.sprout i).bank.im (cplxRe (s.macWords i ax ay).1 * cplxIm (s.macWords i ax ay).2 + cplxIm (s.macWords i ax ay).1 * cplxRe (s.macWords i ax ay).2)).1 ∧
        ∀ j, j ≠ i → t.sprout j = s.sprout j) ∧
  (∀ (i : SproutId) (ax ay : Fin 8) (s : State), s.stopped = false → (s.sprout i).issues = true →
      s.sound i ((s.sprout i).get (.a ax)) → s.sound i ((s.sprout i).get (.a ay)) →
      ∃ t, exec (.cmacc i ax ay) s = .next t ∧
        (t.sprout i).bank.re = (accAdd (s.sprout i).bank.re (cplxRe (s.macWords i ax ay).1 * cplxRe (s.macWords i ax ay).2 - (-cplxIm (s.macWords i ax ay).1) * cplxIm (s.macWords i ax ay).2)).1 ∧
        (t.sprout i).bank.im = (accAdd (s.sprout i).bank.im (cplxRe (s.macWords i ax ay).1 * cplxIm (s.macWords i ax ay).2 + (-cplxIm (s.macWords i ax ay).1) * cplxRe (s.macWords i ax ay).2)).1 ∧
        ∀ j, j ≠ i → t.sprout j = s.sprout j) ∧
  (∀ (i : SproutId) (ax ay : Fin 8) (s : State), s.stopped = false → (s.sprout i).issues = true →
      s.sound i ((s.sprout i).get (.a ax)) → s.sound i ((s.sprout i).get (.a ay)) →
      ∃ t, exec (.cmsu i ax ay) s = .next t ∧
        (t.sprout i).bank.re = (accAdd (s.sprout i).bank.re (-(cplxRe (s.macWords i ax ay).1 * cplxRe (s.macWords i ax ay).2 - cplxIm (s.macWords i ax ay).1 * cplxIm (s.macWords i ax ay).2))).1 ∧
        (t.sprout i).bank.im = (accAdd (s.sprout i).bank.im (-(cplxRe (s.macWords i ax ay).1 * cplxIm (s.macWords i ax ay).2 + cplxIm (s.macWords i ax ay).1 * cplxRe (s.macWords i ax ay).2))).1 ∧
        ∀ j, j ≠ i → t.sprout j = s.sprout j) ∧
  (∀ (i : SproutId) (ax ay : Fin 8) (s : State), s.stopped = false → (s.sprout i).issues = true →
      s.sound i ((s.sprout i).get (.a ax)) → s.sound i ((s.sprout i).get (.a ay)) →
      ∃ t, exec (.cmul i ax ay) s = .next t ∧
        (t.sprout i).bank.re = (accAdd 0 (cplxRe (s.macWords i ax ay).1 * cplxRe (s.macWords i ax ay).2 - cplxIm (s.macWords i ax ay).1 * cplxIm (s.macWords i ax ay).2)).1 ∧
        (t.sprout i).bank.im = (accAdd 0 (cplxRe (s.macWords i ax ay).1 * cplxIm (s.macWords i ax ay).2 + cplxIm (s.macWords i ax ay).1 * cplxRe (s.macWords i ax ay).2)).1 ∧
        ∀ j, j ≠ i → t.sprout j = s.sprout j) ∧
  (∀ (i : SproutId) (rd : SReg) (n : Int) (s : State), s.stopped = false → (s.sprout i).issues = true →
      ∃ t, exec (.rdacc i rd n) s = .next t ∧ s.Ran i ((s.sprout i).wrote rd (cplxOf (readPart (s.sprout i).bank.re n).1 (readPart (s.sprout i).bank.im n).1,
          (readPart (s.sprout i).bank.re n).2 + (readPart (s.sprout i).bank.im n).2)) t)

/-- On a running device, for a Sprout that can issue: LDX and LDY, of a word without uncorrectable error, write their destination with
the word of the half that the address register names, and post-modify the register; STX and STY store the four bytes of their
source there, leave every byte of memory outside the codewords of that word as it is, and post-modify the register; GLD and GST,
with fewer than 4 gathers outstanding, room in the Gatherer and an aligned address, put a request at the end of its queue and
count one outstanding. (R118, R121, R129) -/
def Obligations.SproutMemoryAccessCompletes : Prop :=
  (∀ (i : SproutId) (rd : SReg) (a : Fin 8) (s : State), s.stopped = false → (s.sprout i).issues = true →
      s.sound i ((s.sprout i).get (.a a) % 0x2000) →
      ∃ t, exec (.ldx i rd a) s = .next t ∧
        s.Ran i ((((s.sprout i).postModify a).set rd (s.dataRead i ((s.sprout i).get (.a a) % 0x2000))).after 1) t) ∧
  (∀ (i : SproutId) (rd : SReg) (a : Fin 8) (s : State), s.stopped = false → (s.sprout i).issues = true →
      s.sound i (0x2000 + (s.sprout i).get (.a a) % 0x2000) →
      ∃ t, exec (.ldy i rd a) s = .next t ∧
        s.Ran i ((((s.sprout i).postModify a).set rd (s.dataRead i (0x2000 + (s.sprout i).get (.a a) % 0x2000))).after 1) t) ∧
  (∀ (i : SproutId) (rs : SReg) (a : Fin 8) (s : State), s.stopped = false → (s.sprout i).issues = true →
      s.sound i ((s.sprout i).get (.a a) % 0x2000) →
      ∃ t, exec (.stx i rs a) s = .next t ∧ s.Ran i (((s.sprout i).postModify a).after 1) t ∧
        (∀ k, k < 4 → t.mem.read (sproutMem i + halfByte ((s.sprout i).get (.a a) % 0x2000) k) = BitVec.ofNat 8 ((s.sprout i).get rs / 256 ^ k)) ∧
        ∀ b, b / 16 ∉ wordCws i ((s.sprout i).get (.a a) % 0x2000) → t.mem.read b = s.mem.read b) ∧
  (∀ (i : SproutId) (rs : SReg) (a : Fin 8) (s : State), s.stopped = false → (s.sprout i).issues = true →
      s.sound i (0x2000 + (s.sprout i).get (.a a) % 0x2000) →
      ∃ t, exec (.sty i rs a) s = .next t ∧ s.Ran i (((s.sprout i).postModify a).after 1) t ∧
        (∀ k, k < 4 → t.mem.read (sproutMem i + halfByte (0x2000 + (s.sprout i).get (.a a) % 0x2000) k) = BitVec.ofNat 8 ((s.sprout i).get rs / 256 ^ k)) ∧
        ∀ b, b / 16 ∉ wordCws i (0x2000 + (s.sprout i).get (.a a) % 0x2000) → t.mem.read b = s.mem.read b) ∧
  (∀ (i : SproutId) (a : Fin 8) (ra : SReg) (size : Fin 5) (s : State), s.stopped = false → (s.sprout i).issues = true →
      (s.sprout i).gathers < 4 → (s.bed i.plot.val i.bed.val).queue.length < 32 → (s.sprout i).get ra % 2 ^ size.val = 0 →
      ∃ t, exec (.gld i a ra size) s = .next t ∧ s.Ran i ({ s.sprout i with gathers := (s.sprout i).gathers + 1 }.after 1) t ∧
        (t.bed i.plot.val i.bed.val).queue = (s.bed i.plot.val i.bed.val).queue ++
          [{ load := true, sprout := i.sprout.val, off := (s.sprout i).get (.a a), addr := (s.sprout i).get ra, words := 2 ^ size.val,
             ctx := (s.sprout i).ctx.getD 0, entry := (s.sprout i).entry }]) ∧
  (∀ (i : SproutId) (a : Fin 8) (ra : SReg) (size : Fin 5) (s : State), s.stopped = false → (s.sprout i).issues = true →
      (s.sprout i).gathers < 4 → (s.bed i.plot.val i.bed.val).queue.length < 32 → (s.sprout i).get ra % 2 ^ size.val = 0 →
      ∃ t, exec (.gst i a ra size) s = .next t ∧ s.Ran i ({ s.sprout i with gathers := (s.sprout i).gathers + 1 }.after 1) t ∧
        (t.bed i.plot.val i.bed.val).queue = (s.bed i.plot.val i.bed.val).queue ++
          [{ load := false, sprout := i.sprout.val, off := (s.sprout i).get (.a a), addr := (s.sprout i).get ra, words := 2 ^ size.val,
             ctx := (s.sprout i).ctx.getD 0, entry := (s.sprout i).entry }])

/-- On a running device, for a Sprout that can issue: LOOP opens a body that begins at the next instruction, and with two loops active
stops the Sprout and faults its live context with cause 0x1C; BR goes to its target where the condition flag equals its sense, and
otherwise on; JMP goes to its target; CALL puts the next instruction on a return stack that is not full, and goes to its target;
RET takes the newest entry off, and goes on there as the loops say; a branch taken costs 1 step and the wait for its fetch; RTE
returns from bank 1 to bank 0 in two steps and one of its own; HALT leaves the Sprout idle. (R121, R123, R124, R127) -/
def Obligations.SproutFlowCompletes : Prop :=
  (∀ (i : SproutId) (count len : Nat) (s : State), s.stopped = false → (s.sprout i).issues = true →
      ∃ t, exec (.loop i count len) s = .next t ∧
        ((s.sprout i).bank.loops.length < 2 → s.Ran i (((s.sprout i).setBank { (s.sprout i).bank with
          loops := { start := (s.sprout i).bank.pc + 1, len := len, left := count } :: (s.sprout i).bank.loops }).after 1) t) ∧
        (2 ≤ (s.sprout i).bank.loops.length → (t.sprout i).stopped = true ∧ (t.sprout i).bank = (s.sprout i).bank ∧
          ∀ c, (s.sprout i).ctx = some c → (s.ctx c).live = true → (s.ctx c).fault = none → (t.ctx c).fault = some 0x1C)) ∧
  (∀ (i : SproutId) (sense : Bool) (target : Nat) (s : State), s.stopped = false → (s.sprout i).issues = true →
      ∃ t, exec (.br i sense target) s = .next t ∧
        ((s.sprout i).bank.cond ≠ sense → s.Ran i ((s.sprout i).after 1) t) ∧
        ((s.sprout i).bank.cond = sense → (t.sprout i).bank.pc = target ∧
          (s.sprout i).steps < (t.sprout i).steps ∧ (t.sprout i).steps ≤ (s.sprout i).steps + 17 ∧ ∀ j, j ≠ i → t.sprout j = s.sprout j)) ∧
  (∀ (i : SproutId) (target : Nat) (s : State), s.stopped = false → (s.sprout i).issues = true →
      ∃ t u, exec (.jmp i target) s = .next t ∧ exec (.call i target) s = .next u ∧
        (t.sprout i).bank.pc = target ∧ (t.sprout i).ret = (s.sprout i).ret ∧ (u.sprout i).bank.pc = target ∧
        (s.sprout i).steps < (u.sprout i).steps ∧ (u.sprout i).steps ≤ (s.sprout i).steps + 17 ∧
        ((s.sprout i).ret.length < 4 → (u.sprout i).ret = ((s.sprout i).bank.pc + 1) :: (s.sprout i).ret) ∧
        ∀ j, j ≠ i → t.sprout j = s.sprout j ∧ u.sprout j = s.sprout j) ∧
  (∀ (i : SproutId) (target : Nat) (rest : List Nat) (s : State), s.stopped = false → (s.sprout i).issues = true →
      (s.sprout i).ret = target :: rest →
      ∃ t, exec (.ret i) s = .next t ∧ (t.sprout i).bank.pc = (loopNext (s.sprout i).bank.loops target).2 ∧
        (t.sprout i).bank.loops = (loopNext (s.sprout i).bank.loops target).1 ∧ (t.sprout i).ret = rest ∧
        ∀ j, j ≠ i → t.sprout j = s.sprout j) ∧
  (∀ (i : SproutId) (s : State), s.stopped = false → (s.sprout i).issues = true →
      ∃ t u, exec (.rte i) s = .next t ∧ exec (.halt i) s = .next u ∧
        ((s.sprout i).st = .bank1 → s.Ran i { s.sprout i with st := .bank0, steps := (s.sprout i).steps + 3 } t) ∧
        ((s.sprout i).st = .bank0 → s.Ran i ((s.sprout i).after 1) t) ∧ (u.sprout i).st = .idle)

/-- On a running device, for a Sprout that can issue: WAITG with no enabled line asserted takes a completion that waits, and otherwise
waits for a gather; WAITEV with none asserted waits for an event; SIG asserts the PEER line of the Sprout named; PPT stops the
Sprout where a pre-emption of its context is pending, and otherwise only moves on. BANK_SWITCH of a Sprout in bank 0 takes the
lowest enabled line that is asserted: its pending bit clears, two steps pass, and bank 1 goes on at the line's vector.
GATHERER_ACCESS of a Bed that serves takes the oldest request, and those merged with it, off the queue. (R126, R127, R128, R130) -/
def Obligations.SproutSynchronisationCompletes : Prop :=
  (∀ (i : SproutId) (s : State), s.stopped = false → (s.sprout i).issues = true → (s.sprout i).line = none →
      ∃ t u, exec (.waitg i) s = .next t ∧ exec (.waitev i) s = .next u ∧
        (fieldOf (s.sprout i).pend 0 1 = 1 → s.Ran i ({ s.sprout i with pend := (s.sprout i).pend - 1 }.after 1) t) ∧
        (fieldOf (s.sprout i).pend 0 1 ≠ 1 → s.Ran i ({ s.sprout i with wait := .gather }.after 1) t) ∧
        s.Ran i ({ s.sprout i with wait := .event }.after 1) u) ∧
  (∀ (i : SproutId) (target : Fin 16) (s : State), s.stopped = false → (s.sprout i).issues = true →
      ∃ t, exec (.sig i target) s = .next t ∧ fieldOf (t.sprout ⟨i.plot, i.bed, target⟩).pend 5 1 = 1 ∧
        (t.sprout i).steps = (s.sprout i).steps + 1 ∧ ∀ j, j ≠ i → j ≠ ⟨i.plot, i.bed, target⟩ → t.sprout j = s.sprout j) ∧
  (∀ (i : SproutId) (s : State), s.stopped = false → (s.sprout i).issues = true →
      ∃ t, exec (.ppt i) s = .next t ∧
        (s.preemptDue i = true → (t.sprout i).stopped = true ∧ (t.sprout i).bank.pc = (s.sprout i).bank.next.pc) ∧
        (s.preemptDue i = false → s.Ran i ((s.sprout i).after 1) t)) ∧
  (∀ (i : SproutId) (k : Nat) (s : State), s.stopped = false → (s.sprout i).st = .bank0 → (s.sprout i).stopped = false →
      (s.sprout i).line = some k →
      ∃ t, exec (.bankSwitch i) s = .next t ∧
        s.Ran i { s.sprout i with
          st := .bank1, wait := .none, pend := (s.sprout i).pend - 2 ^ k, steps := (s.sprout i).steps + 2
          b1 := { (s.sprout i).b1 with pc := SMap.get zeroUnlisted (s.sprout i).vec k } } t) ∧
  (∀ (plot : Plot) (bed : Fin 17) (races : List (Fin 16 × Nat)) (q : GatherReq) (l : List GatherReq) (s : State), s.stopped = false →
      s.flag (pgBed plot.val bed.val) 0x100 4 = true → s.pruned plot.val = false → s.bedReady plot.val bed.val = true →
      (s.bed plot.val bed.val).queue = q :: l →
      ∃ t, exec (.gathererAccess plot bed races) s = .next t ∧ (t.bed plot.val bed.val).queue = (mergeable q l).2)

/-- On a running device, in a Plot whose Big Top holds no pass back: PASS without a swap, on a valid active tile and a bank that no
other context and no other format cleared, makes its formats and ACT_ZP the active ones, and with CLEAR takes the bank for its
context; it stands in its bank's log as the log's rule says. TILE_LOAD_COMPLETE whose first compare mismatches reloads the tile;
else the load ends and the tile stands in the shadow bank, and a second mismatch sets SUSPECT. WEST_QUEUE_EMPTY in a run starts
the row count again at the rows that remain, with one stop ramp, and outside a run it leaves every Plot as it was. (R67, R72, R73,
R77, R82, R84, R87) -/
def Obligations.BigTopCompletes : Prop :=
  (∀ (plot : Plot) (c : Ctx) (entry : Fin 32) (d flip x : Nat) (s : State) (tile : Tile), s.stopped = false → s.pruned plot.val = false →
      (s.btp plot.val).queue = [] → (s.btp plot.val).localising = false → (s.btp plot.val).localisePending = false → pSwap d = false →
      (s.btp plot.val).foreign d c.val = false → (s.btp plot.val).mismatched d = false → (s.btp plot.val).active = some tile → tile.valid = true →
      ∃ t, exec (.pass plot c entry d flip x) s = .next t ∧
        (t.btp plot.val).numActive = BitVec.ofNat 32 (pWfmt d + 16 * pAfmt d + 256 * bit (decide (pMode d = 3)) + 65536 * unsignedOf 8 (pActZp d)) ∧
        (pClear d = true → (t.btp plot.val).owner (pBank d) = some c.val) ∧
        ((t.btp plot.val).bank (pBank d)).log = (((s.btp plot.val).bank (pBank d)).issue
          { ctx := c.val, entry := entry.val, desc := d, flip := flip, tile := { tile with rows := [], check := [] } } tile.bad).log ∧
        (t.btp plot.val).queue = []) ∧
  (∀ (plot : Plot) (flip x : Nat) (s : State) (y : Tile), s.stopped = false → (s.btp plot.val).loading = true → (s.btp plot.val).shadow = some y →
      (s.btp plot.val).queue = [] →
      ∃ t, exec (.tileLoadComplete plot flip x) s = .next t ∧
        (flip ≠ 0 → (s.btp plot.val).reloaded = false → (t.btp plot.val).reloaded = true ∧ (t.btp plot.val).loading = true) ∧
        (flip = 0 ∨ (s.btp plot.val).reloaded = true → (t.btp plot.val).loading = false ∧
          (∃ z, (t.btp plot.val).shadow = some z ∧ z.tag = y.tag ∧ z.row = y.row ∧ z.fmt = y.fmt) ∧
          (flip ≠ 0 → (t.btp plot.val).suspect = true))) ∧
  (∀ (plot : Plot) (left x : Nat) (s : State), s.stopped = false →
      ∃ t, exec (.westQueueEmpty plot left x) s = .next t ∧
        ((s.btp plot.val).inRun = true → (t.btp plot.val).runRows = min left (s.btp plot.val).runRows ∧ (t.btp plot.val).inRun = true ∧
          (max s.sdl.ref x, max s.sdl.ref x + paceTime 32) ∈ (t.btp plot.val).ramps) ∧
        ((s.btp plot.val).inRun = false → t.plots = s.plots))

/-- On a running device, in a Plot whose Big Top holds no pass back: ROW_VERDICT takes the next awaited verdict of its bank and flags
the bank where the row is compared and mismatches. REPLAY_REQUEST at the read-out of a flagged bank starts the replay that
Tightrope grants; a bank that may not be replayed, or whose replay Tightrope denies, takes Safety Net. REPLAY_COMPLETE of a served
replay leaves it no longer replaying; a mismatch takes Safety Net, and without one the flag clears unless a load mismatched.
LOCALISE_START of a due localisation begins it; LOCALISED ends it with its outcome. SPARE_MAP_EFFECT with both banks idle and
SPARE_MAP_TIMEOUT 2 ms after the apply put the applied map in force; the timeout flags both banks. (R85, R87, R88, R90, R92) -/
def Obligations.VerdictsAndReplaysComplete : Prop :=
  (∀ (plot : Plot) (bank : Fin 2) (onC onS : Int) (s : State) (r : RowCheck) (rest : List RowCheck), s.stopped = false →
      (s.btp plot.val).queue = [] → ((s.btp plot.val).bank bank.val).checks = r :: rest →
      ∃ t, exec (.rowVerdict plot bank onC onS) s = .next t ∧ ((t.btp plot.val).bank bank.val).checks = rest ∧
        ((t.btp plot.val).bank bank.val).flagged =
          (((s.btp plot.val).bank bank.val).flagged || (!r.skip && !(s.btp plot.val).rowOvf r && r.mismatch onC onS))) ∧
  (∀ (plot : Plot) (x : Nat) (s : State) (q : ChainReq) (b : BankLog), s.stopped = false → (s.siv plot.val).waiting = some q →
      (s.btp plot.val).bank (cBank q.desc) = b → b.flagged = true → b.net = false → b.replaying = false → q.needs = 0 →
      ∃ t, exec (.replayRequest plot x) s = .next t ∧
        (b.tooMany = true ∨ (b.log.any fun p => pNoReplay p.desc) = true ∨ (s.btp plot.val).suspect = true ∨
          ((s.advance x).tightGrant q.ctx q.step 0 b.replayCost).1 = false → ((t.btp plot.val).bank (cBank q.desc)).net = true) ∧
        (b.tooMany = false → (b.log.any fun p => pNoReplay p.desc) = false → (s.btp plot.val).suspect = false →
          ((s.advance x).tightGrant q.ctx q.step 0 b.replayCost).1 = true →
          ((t.btp plot.val).bank (cBank q.desc)).replaying = true ∧ ((t.btp plot.val).bank (cBank q.desc)).cost = b.replayCost)) ∧
  (∀ (plot : Plot) (bank : Fin 2) (bad : Nat) (flips : List Nat) (x : Nat) (s : State), s.stopped = false →
      ((s.btp plot.val).bank bank.val).replaying = true → s.replayServed ((s.btp plot.val).bank bank.val) = true →
      ∃ t, exec (.replayComplete plot bank bad flips x) s = .next t ∧ ((t.btp plot.val).bank bank.val).replaying = false ∧
        (bad ≠ 0 → ((t.btp plot.val).bank bank.val).net = true) ∧
        (((t.btp plot.val).bank bank.val).net = true ∨ ((t.btp plot.val).bank bank.val).flagged = false)) ∧
  (∀ (plot : Plot) (s : State), s.stopped = false →
      ∃ t, exec (.localiseStart plot) s = .next t ∧
        (s.localiseDue plot.val = true → (t.btp plot.val).localising = true ∧ (t.btp plot.val).localisePending = false) ∧
        (s.localiseDue plot.val = false → t.plots = s.plots)) ∧
  (∀ (plot : Plot) (kind : Fin 7) (row col : Fin 258) (flips : List Nat) (s : State), s.stopped = false → (s.btp plot.val).localising = true →
      (s.btp plot.val).queue = [] →
      ∃ t, exec (.localised plot kind row col flips) s = .next t ∧ (t.btp plot.val).localising = false ∧ (t.btp plot.val).kind = kind.val ∧
        (t.btp plot.val).locRow = row.val ∧ (t.btp plot.val).locCol = col.val) ∧
  (∀ (plot : Plot) (flips : List Nat) (s : State), s.stopped = false → (s.btp plot.val).mapPending = true → s.banksIdle plot.val = true →
      (s.btp plot.val).queue = [] →
      ∃ t, exec (.spareMapEffect plot flips) s = .next t ∧ (t.btp plot.val).mapInForce = actW s.gate.act (regAddr (pgBtp plot.val) 0x100) ∧
        (t.btp plot.val).mapPending = false ∧ (t.btp plot.val).bank0 = {} ∧ (t.btp plot.val).bank1 = {}) ∧
  (∀ (plot : Plot) (flips : List Nat) (x : Nat) (s : State), s.stopped = false → (s.btp plot.val).mapPending = true →
      (s.btp plot.val).mapAppliedAt + 2000 * usRef ≤ max s.sdl.ref x → (s.btp plot.val).queue = [] →
      ∃ t, exec (.spareMapTimeout plot flips x) s = .next t ∧ (t.btp plot.val).mapInForce = actW s.gate.act (regAddr (pgBtp plot.val) 0x100) ∧
        (t.btp plot.val).mapPending = false ∧ (t.btp plot.val).bank0.flagged = true ∧ (t.btp plot.val).bank1.flagged = true)

/-- On a running device: CHAIN on a Plot that is not Pruned runs on an idle Sieve where it reads no stream and its bank is its own and
settled; it waits where its bank still awaits verdicts, and is held while another chain runs. With nothing else waiting on the
Plot: CHAIN_END of a chain that triggers no retry leaves the Sieve with no chain running, and of one whose retry may run leaves
that retry waiting for Tightrope; RETRY_REQUEST grants a waiting retry as Tightrope does, with its cost, and one that is denied
ends the chain; RETRY_PASS_END of a granted retry leaves no retry. (R98, R102, R111, R61, R62, R63) -/
def Obligations.ChainsAndRetriesComplete : Prop :=
  (∀ (plot : Plot) (c : Ctx) (step : Nat) (entry : Fin 32) (d name bankName act : Nat) (races : List (Fin 256)) (x : Nat) (s : State),
      s.stopped = false → s.pruned plot.val = false → (s.siv plot.val).waiting = none →
      ∃ t, exec (.chain plot c step entry d name bankName act races x) s = .next t ∧
        ((s.siv plot.val).running.isSome = true → (t.siv plot.val).held = (s.siv plot.val).held ++
          [{ ctx := c.val, step := step, entry := entry.val, desc := d, name := name, bankName := bankName, act := act,
                         races := if cAccEn d then races.map (·.val) else [], needs := ((s.btp plot.val).bank (cBank d)).awaiting }]) ∧
        ((s.siv plot.val).running = none → (s.siv plot.val).retry = none → (s.siv plot.val).held = [] → cAccEn d = true →
          ((s.btp plot.val).bank (cBank d)).awaiting ≠ 0 → (t.siv plot.val).waiting = some
          { ctx := c.val, step := step, entry := entry.val, desc := d, name := name, bankName := bankName, act := act,
                         races := if cAccEn d then races.map (·.val) else [], needs := ((s.btp plot.val).bank (cBank d)).awaiting }) ∧
        ((s.siv plot.val).running = none → (s.siv plot.val).retry = none → (s.siv plot.val).held = [] →
          cUses d 0x28 = false → cUses d 0x29 = false → cMarkSrc d = 0 → (s.btp plot.val).ownedByOther (cBank d) c.val = false →
          ((s.btp plot.val).bank (cBank d)).awaiting = 0 → ((s.btp plot.val).bank (cBank d)).replaying = false →
          ((s.btp plot.val).bank (cBank d)).flagged = false →
          ∃ r, (t.siv plot.val).running = some r ∧ r.req =
          { ctx := c.val, step := step, entry := entry.val, desc := d, name := name, bankName := bankName, act := act,
                         races := if cAccEn d then races.map (·.val) else [], needs := ((s.btp plot.val).bank (cBank d)).awaiting })) ∧
  (∀ (plot : Plot) (x : Nat) (s : State) (r : ChainResult), s.stopped = false → (s.siv plot.val).running = some r →
      (s.siv plot.val).waiting = none → (s.siv plot.val).held = [] → (s.btp plot.val).queue = [] →
      ∃ t, exec (.chainEnd plot x) s = .next t ∧ (t.siv plot.val).running = none ∧
        ((cPlain r.req.desc = false ∨ retryCase r.ovf r.unf (cPermille r.req.desc) r.elems = false) → (t.siv plot.val).retry = none) ∧
        (cPlain r.req.desc = true → cRetryEn r.req.desc = true → retryCase r.ovf r.unf (cPermille r.req.desc) r.elems = true →
          s.flag (pgSiv plot.val) 0x100 0 = true → (r.ovf = 0 ∨ r.kOver.isSome = true) → (t.siv plot.val).retry = some r)) ∧
  (∀ (plot : Plot) (cost x : Nat) (s : State) (r : ChainResult), s.stopped = false → (s.siv plot.val).retry = some r →
      (s.siv plot.val).retryGranted = false → (s.siv plot.val).waiting = none → (s.siv plot.val).held = [] → (s.btp plot.val).queue = [] →
      ∃ t, exec (.retryRequest plot cost x) s = .next t ∧
        (((s.advance x).tightGrant r.req.ctx r.req.step 1 cost).1 = true → (t.siv plot.val).retry = some r ∧
          (t.siv plot.val).retryGranted = true ∧ (t.siv plot.val).retryCost = cost) ∧
        (((s.advance x).tightGrant r.req.ctx r.req.step 1 cost).1 = false → (t.siv plot.val).retry = none ∧ (t.siv plot.val).running = none)) ∧
  (∀ (plot : Plot) (x : Nat) (s : State) (r : ChainResult), s.stopped = false → (s.siv plot.val).retry = some r →
      (s.siv plot.val).retryGranted = true → (s.btp plot.val).queue = [] →
      ∃ t, exec (.retryPassEnd plot x) s = .next t ∧ (t.siv plot.val).retry = none ∧ (t.siv plot.val).retryGranted = false)

/-- On a running device: STORE_TURN on a Plot that is not Pruned leaves held, for the next turn of the store, exactly the accesses
that its slots hold back, and delivers zero for each read out of bound; on a Pruned Plot it changes no Plot. STO_RELEASE by the PF
or Groundskeeper moves each named HELD entry to ZEROING, or to FREE where it has no rows, and leaves every other entry as it is.
STO_REPAIR_Q in a view that sees the Plot names its macro in that view. (R144, R147, R151, R157, R158, R160) -/
def Obligations.StoreTurnCompletes : Prop :=
  (∀ (plot : Plot) (store : Store) (new : List RowAccess) (strikes : List Strike) (s : State), s.stopped = false →
      ∃ t, exec (.storeTurn plot store new strikes) s = .next t ∧
        (s.pruned plot.val = true → t.plots = s.plots) ∧
        (s.pruned plot.val = false →
          (t.plot plot.val).sto.heldOf store = (s.slotTurns plot.val store new).flatMap SlotTurn.held ∧
          ∀ a ∈ turnOobs (s.slotTurns plot.val store new), a.write = none →
            (a.slot, 0) ∈ (t.plot plot.val).sto.dlvW ++ (t.plot plot.val).sto.dlvA ++ (t.plot plot.val).sto.dlvP)) ∧
  (∀ (v : View) (plot : Plot) (x : Word) (s : State), s.takes v = true → isVf v = false →
      ∃ t, exec (.stoRelease v plot x) s = .next t ∧ ∀ e, e < 32 →
        (fieldOf x.toNat e 1 = 1 ∧ (s.win plot.val e).st = .held → (t.win plot.val e).st = .zeroing ∨ (t.win plot.val e).st = .free) ∧
        (¬ (fieldOf x.toNat e 1 = 1 ∧ (s.win plot.val e).st = .held) → t.win plot.val e = s.win plot.val e)) ∧
  (∀ (v : View) (plot : Plot) (x : Word) (s : State), s.takes v = true → viewSeesPlot s.gate.act v plot.val = true →
      ∃ t, exec (.stoRepairQ v plot x) s = .next t ∧ SMap.get zeroUnlisted (t.plot plot.val).sto.query v.no = x.toNat % 128)

/-- On a running device: FURROW_START of a live context with a resident slot puts the descriptor in place, nothing requested,
delivered or released, PARKED where PARK is set and ACTIVE otherwise. IRRIGATOR_ISSUE with no eligible Furrow adds no request;
where the served Furrow's next access is inside bound and untranslated, its request then stands among the requests with its
addresses and length. REQUEST_COMPLETION under another generation leaves every request and raises LATE_CPL; an error completion of
a live host read faults its Furrow, and data whose Furrow has no credit for their tile join its staging. REQUEST_TIMEOUT past the
limit advances the tag's generation, and a host read's Furrow faults. PAGE_RESPONSE that fails or comes late faults the Furrow.
(R163, R164, R169, R170, R173, R174, R175, R179) -/
def Obligations.FurrowsComplete : Prop :=
  (∀ (irg : Fin 9) (f : Nat) (c : Ctx) (entry : Fin 32) (desc : Nat) (carried : Bool) (s : State) (slot : Nat), s.stopped = false →
      (s.ctx c.val).slot = some slot → (s.ctx c.val).live = true →
      ∃ t, exec (.furrowStart irg f c entry desc carried) s = .next t ∧
        (t.furrow irg.val f).desc = desc ∧ (t.furrow irg.val f).ctx = c.val ∧ (t.furrow irg.val f).entry = entry.val ∧
        (t.furrow irg.val f).slot = slot ∧ (t.furrow irg.val f).next = 0 ∧ (t.furrow irg.val f).cursor = 0 ∧ (t.furrow irg.val f).released = 0 ∧
        (t.furrow irg.val f).st = if fPark desc then .parked else .active) ∧
  (∀ (irg : Fin 9) (xlat dxlat : Option Nat) (level x : Nat) (s u : State), s.stopped = false →
      u = ((s.advance x).settleIrg irg.val).noteWaits irg.val →
      ∃ t, exec (.irrigatorIssue irg xlat dxlat level x) s = .next t ∧
        (u.served irg.val = none → t.irg.requests = u.irg.requests) ∧
        ∀ f y n, u.served irg.val = some f → u.furrow irg.val f = y → y.spilled = [] → u.nextLen irg.val y = n →
          u.formedBad y (u.srcPlace irg.val y (fSrcAt y.desc (y.next / fRun y.desc) (y.next % fRun y.desc)) n) n false = false →
          (∃ a, u.srcPlace irg.val y (fSrcAt y.desc (y.next / fRun y.desc) (y.next % fRun y.desc)) n = .dram a) →
          u.translate y.ctx (u.dstPlace irg.val y (fDstAt y.desc (y.next / fRun y.desc) (y.next % fRun y.desc)) n) n dxlat = .plain →
          ∃ q ∈ t.irg.requests, q.irg = irg.val ∧ q.furrow = f ∧ q.src = fSrcAt y.desc (y.next / fRun y.desc) (y.next % fRun y.desc) ∧
            q.dst = fDstAt y.desc (y.next / fRun y.desc) (y.next % fRun y.desc) ∧ q.len = n ∧ q.pos = y.next) ∧
  (∀ (irg : Fin 9) (pool : Fin 12) (tag : Nat) (gen : Fin 16) (data : Option (List (BitVec 8))) (races level x : Nat) (s : State),
      s.stopped = false →
      ∃ t, exec (.requestCompletion irg pool tag gen data races level x) s = .next t ∧
        ((∀ r, s.request? pool.val tag = some r → ¬ (r.gen = gen.val ∧ r.irg = irg.val)) → (s.request? pool.val tag = none → s.gen pool.val tag ≠ gen.val) →
          t.irg.requests = s.irg.requests ∧ t.irg.irg = s.irg.irg ∧ t.event .pf (pgIrg irg.val) 13 = true) ∧
        ∀ r, s.request? pool.val tag = some r → r.gen = gen.val → r.irg = irg.val → r.dead = false → r.data = none → r.spill = false →
          r.pool = 0 → (∃ a, s.srcPlace r.irg (s.furrow r.irg r.furrow) r.src r.len = .host a) →
          (data = none → (t.furrow r.irg r.furrow).st = .faulted) ∧
          (∀ d q, data = some d → q = { tile := r.tile, dst := r.dst, data := natLe r.len (leNat d), pos := r.pos, xlat := r.dxlat } →
            (s.furrow r.irg r.furrow).ready q = false → (t.furrow r.irg r.furrow).stage = (s.furrow r.irg r.furrow).stage ++ [q])) ∧
  (∀ (pool : Fin 11) (tag x : Nat) (s : State) (r : Request), s.stopped = false → s.request? pool.val tag = some r →
      r.issued + s.limitOf r < max s.sdl.ref x → ¬ (2 ≤ s.level ∧ s.realTime r.ctx = false) →
      ∃ t, exec (.requestTimeout pool tag x) s = .next t ∧ t.gen r.pool r.tag = (s.gen r.pool r.tag + 1) % 16 ∧
        (r.pool = 0 → r.dead = false → (t.furrow r.irg r.furrow).st = .faulted)) ∧
  (∀ (irg : Fin 9) (f : Nat) (ok : Bool) (x : Nat) (s : State) (g at' : Nat), s.stopped = false → (s.furrow irg.val f).page = some (g, at') →
      (s.furrow irg.val f).st = .pageWait → (s.furrow irg.val f).asked = true →
      ∃ t, exec (.pageResponse irg f ok x) s = .next t ∧
        (ok = false ∨ at' + 50000000 * nsRef < max s.sdl.ref x → (t.furrow irg.val f).st = .faulted) ∧
        (ok = true → max s.sdl.ref x ≤ at' + 50000000 * nsRef → (t.furrow irg.val f).st ≠ .pageWait ∧ (t.furrow irg.val f).st ≠ .faulted))

/-- On a running device: ATS_INVALIDATION of a page that no request in flight uses takes it from the function's cache and is answered;
otherwise it changes no Irrigator. BUFFER_WAIT_CYCLE after 2 µs with a victim empties the victim's staging into its spill area
where it fits and spill is on, and otherwise faults the victim. PFC_REFRESH after the refresh time repeats XOFF while ABOVE holds.
DROP_REST within a packet takes the packet's entries from the level, and keeps dropping where the packet's end is still to come
and the group is one of packets. HOST_WRITE_CREDIT_TIMEOUT faults a real-time Furrow at 30 µs. IRG_FRW_Q names a Furrow in the
view. (R180, R181, R185, R186, R187, R235, R417, R419) -/
def Obligations.IrrigatorUpkeepCompletes : Prop :=
  (∀ (fn : Fin 9) (page : Nat) (s : State), s.stopped = false →
      ∃ t, exec (.atsInvalidation fn page) s = .next t ∧
        ((s.irg.requests.any fun r => decide (r.fn = fn.val ∧ r.xlat = some page)) = true → t.irg = s.irg) ∧
        ((s.irg.requests.any fun r => decide (r.fn = fn.val ∧ r.xlat = some page)) = false →
          (t.fn fn.val).atc = (s.fn fn.val).atc.filter (fun g => decide (g ≠ page)) ∧
          (SMap.get flagUnlisted s.hub.mute fn.val = false → Sent.ats fn.val [2, page] ∈ t.hub.out))) ∧
  (∀ (irg : Fin 9) (x : Nat) (s : State) (a f : Nat) (y : Furrow), s.stopped = false → (s.irrigator irg.val).creditOnly = some a →
      a + 2000 * nsRef ≤ max s.sdl.ref x →
      (∃ e ∈ (s.irrigator irg.val).furrows, ∃ b, e.2.stageSince = some b ∧ b + 2000 * nsRef ≤ max s.sdl.ref x) → s.victim irg.val = some (f, y) →
      ∃ t, exec (.bufferWaitCycle irg x) s = .next t ∧
        (s.flag (pgIrg irg.val) 0x100 4 = true → y.stagedLen ≤ s.cfg (pgIrg 8) (0x204 + 8 * y.slot) 0 24 * 4096 → (t.furrow irg.val f).stage = []) ∧
        (s.flag (pgIrg irg.val) 0x100 4 = false ∨ s.cfg (pgIrg 8) (0x204 + 8 * y.slot) 0 24 * 4096 < y.stagedLen →
          (t.furrow irg.val f).st = .faulted)) ∧
  (∀ (port : Fin 16) (x : Nat) (s : State), s.stopped = false → (s.group port.val).above = true → s.pfcEn port.val = true →
      SMap.get zeroUnlisted s.irg.pfcAt port.val + s.cfg pgTrn (0x208 + 0x10 * port.val) 0 10 * (1000 * nsRef) ≤ max s.sdl.ref x →
      ∃ t, exec (.pfcRefresh port x) s = .next t ∧ SMap.get zeroUnlisted t.irg.pfcAt port.val = max s.sdl.ref x ∧
        Sent.pause port.val (s.cfg pgTrn (0x204 + 0x10 * port.val) 0 8) (s.cfg pgTrn (0x204 + 0x10 * port.val) 8 16) ∈ t.hub.out) ∧
  (∀ (group : Fin 36) (level : Nat) (left : Nat) (endIn : Bool) (s : State), s.stopped = false →
      ∃ t, exec (.dropRest group level (some (left, endIn))) s = .next t ∧ (t.group group.val).level = level - left ∧
        (t.group group.val).dropping = (!endIn && decide (group.val < 16 ∨ group.val = 32 ∨ group.val = 33))) ∧
  (∀ (irg : Fin 9) (f waited : Nat) (s : State), s.stopped = false →
      ∃ t, exec (.hostWriteCreditTimeout irg f waited) s = .next t ∧
        (fRt (s.furrow irg.val f).desc = true → 30000 ≤ waited → (t.furrow irg.val f).st = .faulted) ∧
        (fRt (s.furrow irg.val f).desc = false ∨ waited < 30000 → t.irg = s.irg)) ∧
  (∀ (v : View) (irg : Fin 9) (x : Word) (s : State), s.takes v = true →
      (isVf v = false ∨ (irg.val < 8 ∧ viewSeesPlot s.gate.act v irg.val = true)) → ¬ (irg.val < 8 ∧ 24 ≤ x.toNat % 64) →
      ∃ t, exec (.irgFrwQ v irg x) s = .next t ∧ SMap.get zeroUnlisted (t.irrigator irg.val).query v.no = x.toNat % 64)

/-- On a running device, for a task of a live, served context whose entry can issue, on an engine that serves it: TASK_OP whose tiles
are all delivered issues its descriptor and charges its declared steps, and on a Bed starts the named idle Sprout; TASK_WAIT whose
signal has been raised often enough goes on, and one whose signal has not stays; TASK_SIGNAL raises its signal once more; RELEASE
releases its tiles, or faults the Furrow's context when it names more than are delivered; TASK_BOUNDARY declares its layer
boundary; TASK_PPT passes its pre-emption point with its carried list and stops there under a pre-emption; TASK_CHKPT is counted
among the tasks that have passed the checkpoint; TASK_FEEDS adds its feed; TASK_END ends the task. Each other than a TASK_WAIT
that stays moves the task past the entry. (R278, R279, R294, R167, R177, R288) -/
def Obligations.TaskEntriesComplete : Prop :=
  (∀ (c : Ctx) (n i : Nat) (sprout : Fin 16) (net : Bool) (needs : List (Fin 9 × Fin 64 × Nat)) (x : Nat) (s : State) (y : StepSt) (z : TaskSt),
      s.mayTake c.val n i 1 y z → s.opHeld c.val n i = false → s.undelivered c.val needs = [] →
      ∃ t, exec (.taskOp c n i sprout net needs x) s = .next t ∧
        (∃ w, t.task? c.val n i = some w ∧ w.pc = z.pc + 16 ∧ w.steps = z.steps + fieldOf (z.entry y.plan) 48 32 ∧
          (z.engine ≠ 2 → w.op = some (y.opDesc z (z.entry y.plan)))) ∧
        (∀ (q : SproutId), z.engine = 2 → net = false → z.plot = q.plot.val → s.servingBed z.plot z.pos = some q.bed.val → q.sprout = sprout →
          (s.sprout q).st = .idle → (s.sprout q).frozen = false →
          (t.sprout q).st = .bank0 ∧ (t.sprout q).ctx = some c.val ∧ (t.sprout q).desc = none)) ∧
  (∀ (c : Ctx) (n i : Nat) (ring : Bool) (x : Nat) (s : State) (y : StepSt) (z : TaskSt),
      (s.mayTake c.val n i 2 y z → ∃ t, exec (.taskWait c n i ring x) s = .next t ∧
        ∃ w, t.task? c.val n i = some w ∧ w.pc = z.pc + 16 ∧ w.ringWait = false) ∧
      (s.stopped = false → s.step? c.val n = some y → y.tasks[i]? = some z → fieldOf (z.entry y.plan) 0 4 = 2 → y.waitMet (z.entry y.plan) = false →
        y.flying = true → ∃ t, exec (.taskWait c n i ring x) s = .next t ∧
          ∃ w, t.task? c.val n i = some w ∧ w.pc = z.pc ∧ w.ringWait = ring)) ∧
  (∀ (c : Ctx) (n i x : Nat) (s : State) (y : StepSt) (z : TaskSt), s.mayTake c.val n i 3 y z →
      ∃ t, exec (.taskSignal c n i x) s = .next t ∧ ∃ w, t.task? c.val n i = some w ∧ w.pc = z.pc + 16 ∧
        SMap.get zeroUnlisted w.signals (fieldOf (z.entry y.plan) 4 8) = SMap.get zeroUnlisted z.signals (fieldOf (z.entry y.plan) 4 8) + 1) ∧
  (∀ (c : Ctx) (n i x : Nat) (s : State) (y : StepSt) (z : TaskSt) (f k : Nat), s.mayTake c.val n i 4 y z →
      f = fieldOf (z.entry y.plan) 4 8 → k = fieldOf (z.entry y.plan) 16 8 →
      ∃ t, exec (.release c n i x) s = .next t ∧
        ((s.furrow z.irg f).released + k ≤ (s.furrow z.irg f).cursor → (t.furrow z.irg f).released = (s.furrow z.irg f).released + k) ∧
        ((s.furrow z.irg f).cursor < (s.furrow z.irg f).released + k → (s.furrow z.irg f).ctx = c.val → (t.ctx c.val).fault.isSome = true)) ∧
  (∀ (c : Ctx) (n i x : Nat) (s : State) (y : StepSt) (z : TaskSt) (e : Nat), s.mayTake c.val n i 5 y z → e = z.entry y.plan →
      ∃ t, exec (.taskBoundary c n i x) s = .next t ∧ ∃ w, t.task? c.val n i = some w ∧ w.pc = z.pc + 16 ∧
        w.bounds = z.bounds ++ [(fieldOf e 12 16, fieldOf e 32 64, fieldOf e 96 32)]) ∧
  (∀ (c : Ctx) (n i count x : Nat) (s : State) (y : StepSt) (z : TaskSt), s.mayTake c.val n i 6 y z →
      ∃ t, exec (.taskPpt c n i count x) s = .next t ∧ ∃ w, t.task? c.val n i = some w ∧ w.pc = z.pc + 16 ∧ w.lastPpt = z.pc + 16 ∧
        w.items = (List.range count).map (fun k => planNat y.plan (fieldOf (z.entry y.plan) 16 32 + 8 * k) 8) ∧
        w.saveRow = fieldOf (z.entry y.plan) 48 19 ∧ w.stopped = (z.stopped || (s.ctx c.val).preempting)) ∧
  (∀ (c : Ctx) (n i x : Nat) (s : State) (y : StepSt) (z : TaskSt) (k : Nat), s.mayTake c.val n i 7 y z → k = fieldOf (z.entry y.plan) 4 12 →
      ∃ t, exec (.taskChkpt c n i x) s = .next t ∧ (∃ w, t.task? c.val n i = some w ∧ w.pc = z.pc + 16) ∧
        ∃ v, t.step? c.val n = some v ∧ SMap.get zeroUnlisted v.passed k = SMap.get zeroUnlisted y.passed k + 1) ∧
  (∀ (c : Ctx) (n i x : Nat) (s : State) (y : StepSt) (z : TaskSt) (e : Nat), s.mayTake c.val n i 8 y z → e = z.entry y.plan →
      ∃ t, exec (.taskFeeds c n i x) s = .next t ∧ (∃ w, t.task? c.val n i = some w ∧ w.pc = z.pc + 16) ∧
        ∃ v, t.step? c.val n = some v ∧ v.feeds = y.feeds ++ [(fieldOf e 16 32, allocList y.plan (fieldOf e 64 32))]) ∧
  (∀ (c : Ctx) (n i x : Nat) (s : State) (y : StepSt) (z : TaskSt), s.mayTake c.val n i 0 y z →
      ∃ t, exec (.taskEnd c n i x) s = .next t ∧ ∃ w, t.task? c.val n i = some w ∧ w.pc = z.pc ∧ w.done = true)

/-- On a running device: CHECKPOINT of a watched step in flight, when every task that holds it has passed it, records the predicted
completion and the margin, and a negative margin cuts the step there. PROLOGUE_LATE once OVL_STEPS have passed clears the layer's
due time and, where tiles are still to come, raises event 9 and records the layer. FALLBACK_RECORD with no bundle counts its
allocations and leaves the steps; with one bundle and a free standby Sprout in time it late-starts that Sprout with the bundle's
descriptor. TASK_TIMEOUT and HEARTBEAT_TIMEOUT past their limits fault a live context with 0x08 and 0x19 unless it has faulted
already, and do nothing before. (R177, R294, R296, R297, R299, R401) -/
def Obligations.WatchedStepsComplete : Prop :=
  (∀ (c : Ctx) (n k x : Nat) (s : State) (y : StepSt) (r : Int × Int), s.stopped = false → s.step? c.val n = some y → s.watched c.val = true →
      y.flying = true → y.holders k ≠ [] → SMap.get zeroUnlisted y.passed k = (y.holders k).length → (y.chkSeen = false ∨ y.chkpt ≠ k) →
      r = (s.advance x).predict c.val y (s.advance x).sdl.dev (((y.holders k).map fun h => fieldOf h.2 16 16).foldl max 0)
        (((y.holders k).map fun h => fieldOf h.2 32 32).foldl max 0) →
      ∃ t, exec (.checkpoint c n k x) s = .next t ∧ ∃ v, t.step? c.val n = some v ∧ v.chkpt = k ∧ v.chkSeen = true ∧ v.tPred = r.1 ∧ v.margin = r.2 ∧
        v.marginMin = (if y.chkSeen then min y.marginMin r.2 else r.2) ∧ v.cut = if r.2 < 0 ∧ y.cut = none then some k else y.cut) ∧
  (∀ (irg : Fin 9) (f : Fin 64) (x : Nat) (s : State) (y : Furrow) (d : Nat × Nat × Nat), s.stopped = false → s.furrow irg.val f.val = y →
      y.due = some d →
      ∃ t, exec (.prologueLate irg f x) s = .next t ∧
        (max s.sdl.ref x < d.1 + ovlTime d.2.2 → t.irg = s.irg) ∧
        (d.1 + ovlTime d.2.2 ≤ max s.sdl.ref x → (t.furrow irg.val f.val).due = none ∧
          ((s.prologueLeft irg.val y.ctx d.2.1) ≠ [] → t.event .pf (pgIrg irg.val) 9 = true ∧
            Sent.record (pageNo pgTrp) 35 [y.ctx, d.2.1, ((s.prologueLeft irg.val y.ctx d.2.1).map fun e => fTiles e.2.desc - e.2.cursor).sum] ∈ t.hub.out))) ∧
  (∀ (c : Ctx) (n : Nat) (fb : Fin 4) (allocs x : Nat) (s : State) (y : StepSt), s.stopped = false → s.step? c.val n = some y →
      y.flying = true → (s.ctx c.val).live = true →
      (∃ t, exec (.fallbackRecord c n fb allocs [] x) s = .next t ∧ t.count pgTrp 0x50 = (s.bumpBy pgTrp 0x50 (some (s.partOf c.val)) allocs).count pgTrp 0x50 ∧
        t.ctx = s.ctx) ∧
      ∀ (b : LateBundle) (captured : Bool) (z : TaskSt) (d : Nat) (q : SproutId), y.tasks[b.task]? = some z →
        d = planNat y.plan (z.desc + 64 * b.desc) 64 → netInLimits d = true → (s.standbys y.plan b.plot).head? = some q →
        (s.bed q.plot.val q.bed.val).seeded = true → s.isGh c.val = false → (s.replays c.val = true → captured = true) →
        (s.watched c.val = true → ((s.advance x).sdl.dev : Int) + (stepDur (netSteps d) ((s.advance x).rUse y.plan) : Nat) ≤
          y.boundary + (planNetDl y.plan * usRef : Nat)) →
        ∃ t, exec (.fallbackRecord c n fb allocs [(b, captured)] x) s = .next t ∧ (t.sprout q).st = .bank0 ∧ (t.sprout q).late = true ∧
          (t.sprout q).desc = some d ∧ (t.sprout q).ctx = some c.val) ∧
  (∀ (c : Ctx) (n i ran x : Nat) (s : State) (y : StepSt) (z : TaskSt), s.stopped = false → s.step? c.val n = some y → y.tasks[i]? = some z →
      (s.ctx c.val).live = true → y.flying = true → z.done = false →
      ∃ t, exec (.taskTimeout c n i ran x) s = .next t ∧
        (200 * nsRef * z.bound < 95 * ran → (t.ctx c.val).fault = some ((s.ctx c.val).fault.getD 0x08)) ∧
        (95 * ran ≤ 200 * nsRef * z.bound → t.ctx = s.ctx)) ∧
  (∀ (c : Ctx) (x : Nat) (s : State), s.stopped = false → (s.ctx c.val).live = true → ((s.ctx c.val).steps.any (·.flying)) = true →
      ((s.ctx c.val).st = .running ∨ (s.ctx c.val).st = .blocked) →
      ∃ t, exec (.heartbeatTimeout c x) s = .next t ∧
        ((s.ctx c.val).beat + 10000 * usRef < max s.sdl.ref x → (t.ctx c.val).fault = some ((s.ctx c.val).fault.getD 0x19)) ∧
        (max s.sdl.ref x ≤ (s.ctx c.val).beat + 10000 * usRef → t.ctx = s.ctx))

/-- On a running device, RERUN_REQUEST of an idle Sprout leaves every Bed as it is. Of a Sprout at work on a descriptor, for a residue
mismatch or an uncorrectable data-memory error: where it runs for the first time and Tightrope grants the cost, it starts the
descriptor again from its entry with fresh banks, marked as a re-run; where it is a re-run already or Tightrope refuses, the
invocation ends aborted. A Sprout that runs other code faults its live context with 0x13 unless it has faulted already. An
uncorrectable program-memory error ends every invocation in flight on the Bed. (R137, R298) -/
def Obligations.RerunsComplete : Prop :=
  (∀ (q : SproutId) (cause : Fin 3) (x : Nat) (s : State), s.stopped = false → (s.sprout q).st = .idle →
      ∃ t, exec (.rerunRequest q cause x) s = .next t ∧ t.beds = s.beds) ∧
  (∀ (q : SproutId) (cause : Fin 3) (x : Nat) (s : State) (d c : Nat), s.stopped = false → (s.sprout q).st ≠ .idle → cause ≠ 2 →
      (s.sprout q).desc = some d → (s.sprout q).ctx = some c →
      ∃ t, exec (.rerunRequest q cause x) s = .next t ∧
        (∀ y, (s.sprout q).rerun = false → s.flyingStep c = some y → ((s.advance x).tightGrant c y.n 2 (netSteps d)).1 = true →
          (t.sprout q).st = .bank0 ∧ (t.sprout q).rerun = true ∧ (t.sprout q).b0 = { pc := Config.sproutEntry d } ∧ (t.sprout q).b1 = {} ∧
            (t.sprout q).grant = some (y.n, netSteps d)) ∧
        ((s.sprout q).rerun = true ∨ (∃ y, s.flyingStep c = some y ∧ ((s.advance x).tightGrant c y.n 2 (netSteps d)).1 = false) →
          (t.sprout q).st = .aborted ∧ (t.sprout q).desc = none)) ∧
  (∀ (q : SproutId) (cause : Fin 3) (x : Nat) (s : State) (c : Nat), s.stopped = false → (s.sprout q).st ≠ .idle → cause ≠ 2 →
      (s.sprout q).desc = none → (s.sprout q).ctx = some c → (s.ctx c).live = true →
      ∃ t, exec (.rerunRequest q cause x) s = .next t ∧ (t.ctx c).fault = some ((s.ctx c).fault.getD 0x13)) ∧
  (∀ (q : SproutId) (x : Nat) (s : State), s.stopped = false → (s.sprout q).st ≠ .idle →
      ∃ t, exec (.rerunRequest q 2 x) s = .next t ∧ ∀ k, (t.sprout ⟨q.plot, q.bed, k⟩).desc = none)

/-- On a running device: REFCLK_HANDOVER classifies the measured frequency, makes the handover where start-up allows it and the
frequency is usable, and a usable one ends a hold. REF_LOST clears REF_FREQ and, after the handover, holds the reference and
raises event 12. REF_RETURN reports the frequency and a usable one ends the hold. CALIBRATION_DONE sets the port's bit and no
other and raises CAL_CHANGE if it was clear. GRID_BOUNDARY at the first device time of a symbol of a slot that begins after the
apply of GRID_EN signals it with the slot, subframe and frame that begin there. PPS_OUT_EDGE within 1 ns of the whole second plus
OFS_NS drives the pin active and sets the end of the pulse, and elsewhere after the end drives it inactive. SYNCE_LOCK_LOSS
squelches each enabled output that carries the lane with SQUELCH_EN and drives it low. (R192, R206, R197, R202, R207, R208, R210) -/
def Obligations.SundialPinsAndGridComplete : Prop :=
  (∀ (hz x : Nat) (s : State), s.stopped = false → ∃ t, exec (.refclkHandover hz x) s = .next t ∧
        t.sdl = { (s.advance x).sdl with refFreq := refCode hz, freeOsc := s.sdl.freeOsc && !(s.mayHandOver && refUsable hz), refHeld := s.sdl.refHeld && !refUsable hz }) ∧
  (∀ (x : Nat) (s : State), s.stopped = false → ∃ t, exec (.refLost x) s = .next t ∧
        t.sdl = { (s.advance x).sdl with refFreq := 0, refHeld := s.sdl.refHeld || !s.sdl.freeOsc } ∧
        (s.sdl.freeOsc = false → t.event .pf pgSdl 12 = true)) ∧
  (∀ (hz x : Nat) (s : State), s.stopped = false → ∃ t, exec (.refReturn hz x) s = .next t ∧
        t.sdl = { (s.advance x).sdl with refFreq := refCode hz, refHeld := s.sdl.refHeld && !refUsable hz }) ∧
  (∀ (k : Fin 16) (s : State), s.stopped = false → ∃ t, exec (.calibrationDone k) s = .next t ∧
        (∀ j, fieldOf t.sdl.cal j 1 = if j = k.val then 1 else fieldOf s.sdl.cal j 1) ∧
        (fieldOf s.sdl.cal k.val 1 = 0 → t.event .pf pgSdl 14 = true)) ∧
  (∀ (mu : Fin 4) (x : Nat) (s u : State) (n : Int) (l : Nat), s.stopped = false → u = s.advance x → s.gridEn = true →
      n = u.slotCount mu.val u.sdl.dev → l = u.symAt mu.val n u.sdl.dev → u.slotCount mu.val u.sdl.gridFrom < n →
      (u.sdl.dev : Int) ≤ u.devAt (symStart mu.val n l) + 1 → ∃ t, exec (.gridBoundary mu x) s = .next t ∧ t.sdl = u.sdl.signal mu.val n l) ∧
  (∀ (x : Nat) (s u : State), s.stopped = false → u = s.advance x →
      ∃ t, exec (.ppsOutEdge x) s = .next t ∧
        (s.flag pgSdl 0x250 0 = true → ppsNear (((u.sdl.dev : Int) - signedOf 20 (s.cfg pgSdl 0x250 2 20) * nsRef) % (10 ^ 9 * nsRef : Int)) = true →
          t.sdl.ppsOut = true ∧ t.sdl.ppsEnd = (u.sdl.dev + s.cfg pgSdl 0x250 22 10 * (10 ^ 6 * nsRef)) % devMod ∧
          Sent.pin .ppsOut (true != s.flag pgSdl 0x250 1) ∈ t.hub.out) ∧
        (ppsNear (((u.sdl.dev : Int) - signedOf 20 (s.cfg pgSdl 0x250 2 20) * nsRef) % (10 ^ 9 * nsRef : Int)) = false → s.sdl.ppsOut = true →
          0 ≤ devDiff u.sdl.dev s.sdl.ppsEnd → t.sdl.ppsOut = false ∧ Sent.pin .ppsOut (false != s.flag pgSdl 0x250 1) ∈ t.hub.out)) ∧
  (∀ (l : Fin 18) (s : State), s.stopped = false → ∃ t, exec (.synceLockLoss l) s = .next t ∧ fieldOf t.sdl.unlocked l.val 1 = 1 ∧
        ∀ k, k < 2 → s.flag pgSdl (0x260 + 4 * k) 6 = true → s.flag pgSdl (0x260 + 4 * k) 7 = true → s.cfg pgSdl (0x260 + 4 * k) 0 5 = l.val →
          (if k = 0 then t.sdl.squelch0 else t.sdl.squelch1) = true ∧ Sent.pin (.synce k) false ∈ t.hub.out)

/-- On a running device: SAMPLE_IN by a view other than Groundskeeper's is dropped with WR_DROPPED; a rejected sample (UNCAL, source
not PTP, older than 2 ms) counts 0x50 and leaves the servos; an accepted one is the servo's last sample, counts toward LOCKED by
its filtered offset, and FREERUN becomes ACQUIRING, ACQUIRING and HOLDOVER become LOCKED at 16 in a row. SERVO_SAMPLE_TIMEOUT 1 s
after the last sample and PARENT_LOST take a LOCKED servo to HOLDOVER at its mean rate, with STATE_CHANGE. HOLD_EXPIRED after
HOLD_MAX_S takes HOLDOVER to FREERUN with event 11. SWITCH_DONE at zero offset ends the switch with event 9. PPS_IN_EDGE stamps
device time and both domain clocks and posts them, and the domains whose source is not PPS keep their servos. (The filtered offset
is the model's free value: log 20.) (R201, R203, R205, R211) -/
def Obligations.SundialServosComplete : Prop :=
  (∀ (v : View) (w : Word) (b : Bool) (x : Nat) (s : State), s.stopped = false → v ≠ .gk →
      ∃ t, exec (.sampleIn v w b x) s = .next t ∧ t.sdl = (s.advance x).sdl ∧ t.event v pgSdl 1 = true) ∧
  (∀ (w : Word) (b : Bool) (x : Nat) (s u : State) (d : Bool), s.stopped = false → u = s.advance x →
      d = decide (fieldOf s.sdl.sample0.toNat 0 1 = 1) →
      ∃ t, exec (.sampleIn .gk w b x) s = .next t ∧
        (b = true ∨ s.cfg pgSdl (domOff d) 0 2 ≠ 1 ∨ 2000000 < fieldOf s.sdl.sample0.toNat 1 31 → t.sdl = u.sdl ∧
          t.count pgSdl 0x50 = (s.bump pgSdl 0x50 none).count pgSdl 0x50) ∧
        (b = false → s.cfg pgSdl (domOff d) 0 2 = 1 → fieldOf s.sdl.sample0.toNat 1 31 ≤ 2000000 → ∀ n,
          n = (if (Config.servoFiltered s.free).natAbs ≤ s.cfg pgSdl (domOff d + 8) 0 20 * nsRef then
            (if (s.sdl.servo d).st = .freerun then 0 else (s.sdl.servo d).good) + 1 else 0) →
          (t.sdl.servo d).lastSample = u.sdl.ref ∧ (t.sdl.servo d).good = n ∧
          (t.sdl.servo d).st = if (s.sdl.servo d).st = .freerun then .acquiring
            else if 16 ≤ n ∧ ((s.sdl.servo d).st = .acquiring ∨ (s.sdl.servo d).st = .holdover) then .locked else (s.sdl.servo d).st)) ∧
  (∀ (d : Bool) (x : Nat) (s u : State), s.stopped = false → u = s.advance x → (s.sdl.servo d).st = .locked →
      (∃ t, exec (.servoSampleTimeout d x) s = .next t ∧
        ((s.sdl.servo d).lastSample + 10 ^ 9 * nsRef ≤ max s.sdl.ref x → (t.sdl.servo d).st = .holdover ∧
          (t.sdl.servo d).rate = meanRate (u.sdl.servo d) u.sdl.ref ∧ (t.sdl.servo d).heldSince = u.sdl.ref ∧ t.event .pf pgSdl 8 = true) ∧
        (max s.sdl.ref x < (s.sdl.servo d).lastSample + 10 ^ 9 * nsRef → t.sdl = u.sdl)) ∧
      ∃ t, exec (.parentLost d x) s = .next t ∧ (t.sdl.servo d).st = .holdover ∧
        (t.sdl.servo d).rate = meanRate (u.sdl.servo d) u.sdl.ref ∧ (t.sdl.servo d).heldSince = u.sdl.ref ∧ t.event .pf pgSdl 8 = true) ∧
  (∀ (d : Bool) (x : Nat) (s u : State), s.stopped = false → u = s.advance x → (s.sdl.servo d).st = .holdover →
      ∃ t, exec (.holdExpired d x) s = .next t ∧
        ((s.sdl.servo d).heldSince + s.cfg pgSdl 0x100 13 16 * (10 ^ 9 * nsRef) ≤ max s.sdl.ref x → (t.sdl.servo d).st = .freerun ∧
          t.event .pf pgSdl 11 = true ∧ t.event .pf pgSdl 8 = true) ∧
        (max s.sdl.ref x < (s.sdl.servo d).heldSince + s.cfg pgSdl 0x100 13 16 * (10 ^ 9 * nsRef) → t.sdl = u.sdl)) ∧
  (∀ (x : Nat) (s u : State), s.stopped = false → u = s.advance x → s.sdl.switching = true →
      ∃ t, exec (.switchDone x) s = .next t ∧ (u.sdl.ofs = 0 → t.sdl = { u.sdl with switching := false } ∧ t.event .pf pgSdl 9 = true) ∧
        (u.sdl.ofs ≠ 0 → t.sdl = u.sdl)) ∧
  (∀ (x : Nat) (s u : State), s.stopped = false → u = s.advance x →
      ∃ t, exec (.ppsInEdge x) s = .next t ∧ t.sdl.ppsDev = u.sdl.dev ∧ t.sdl.ppsA = domTime u.sdl.a.clk ∧ t.sdl.ppsB = domTime u.sdl.b.clk ∧
        Sent.record (pageNo pgSdl) 33 [u.sdl.dev, domTime u.sdl.a.clk, domTime u.sdl.b.clk] ∈ t.hub.out ∧
        ∀ d, s.cfg pgSdl (domOff d) 0 2 ≠ 2 → t.sdl.servo d = u.sdl.servo d)

/-- While the TAP is out of Test-Logic-Reset each of its instructions is loaded and shifts its register out: IDCODE its word, BYPASS
0, SAMPLE/PRELOAD the pins, with the boundary register taking what is shifted in; EXTEST, CLAMP and HIGHZ act so while power-on
reset holds the device, and otherwise run as BYPASS. In Test-Logic-Reset nothing changes. On a running device CORE_HALT halts
Groundskeeper's core, and CORE_RESUME of a halted core ends the halt and performs a mailbox command that waited; in Test-Logic-
Reset both do nothing. ENTDAA makes the pins an I3C target at the address. SET_ENDPOINT_ID gives the binding its EID and answers,
where Groundskeeper runs. (R476, R482, R483) -/
def Obligations.TestPortAndManagementPinsComplete : Prop :=
  (∀ (p l : Nat) (s : State), s.gk.tapOut = true →
      (∃ t, exec (.idcode) s = .next t ∧ t.gk = { s.gk with tapIr := 0 } ∧ t.hub.out = s.hub.out ++ [Sent.tap 0x194006B7]) ∧
      (∃ t, exec (.bypass) s = .next t ∧ t.gk = { s.gk with tapIr := 1 } ∧ t.hub.out = s.hub.out ++ [Sent.tap 0]) ∧
      (∃ t, exec (.samplePreload p l) s = .next t ∧ t.gk = { s.gk with tapIr := 2, boundary := l } ∧ t.hub.out = s.hub.out ++ [Sent.tap p]) ∧
      (∃ t, exec (.extest p l) s = .next t ∧ (s.held = true → t.gk = { s.gk with tapIr := 3, boundary := l } ∧ t.hub.out = s.hub.out ++ [Sent.tap p]) ∧
        (s.held = false → t.gk = { s.gk with tapIr := 1 } ∧ t.hub.out = s.hub.out ++ [Sent.tap 0])) ∧
      (∃ t, exec (.clamp) s = .next t ∧ t.gk = { s.gk with tapIr := if s.held then 4 else 1 } ∧ t.hub.out = s.hub.out ++ [Sent.tap 0]) ∧
      ∃ t, exec (.highz) s = .next t ∧ t.gk = { s.gk with tapIr := if s.held then 5 else 1 } ∧ t.hub.out = s.hub.out ++ [Sent.tap 0]) ∧
  (∀ (p l : Nat) (s : State), s.gk.tapOut = false → exec (.idcode) s = .next s ∧ exec (.bypass) s = .next s ∧
      exec (.samplePreload p l) s = .next s ∧ exec (.extest p l) s = .next s ∧ exec (.clamp) s = .next s ∧ exec (.highz) s = .next s) ∧
  (∀ (x : Nat) (s : State), s.stopped = false →
      ∃ t, exec (.coreHalt x) s = .next t ∧ (s.gk.tapOut = true → t.hub.gkHalted = true ∧ t.gk.tapIr = 6) ∧ (s.gk.tapOut = false → t = s.advance x)) ∧
  (∀ (x : Nat) (s : State), s.stopped = false →
      ∃ t, exec (.coreResume x) s = .next t ∧ (s.gk.tapOut = true → s.hub.gkHalted = true → t.gk.tapIr = 6 ∧
          (s.gk.mb = none → t.hub.gkHalted = false ∧ t.hub.gkQueued = 0) ∧
          (s.gk.mb.isSome = true → s.gk.fwRun = true → t.gk.mb = none ∧ t.event .pf pgGkp 8 = true)) ∧
        (s.gk.tapOut = false ∨ s.hub.gkHalted = false → t = s.advance x)) ∧
  (∀ (a : Fin 128) (s : State), s.stopped = false →
      exec (.entdaa a) s = .next { s with gk := { s.gk with i3c := true, addr := a.val } }) ∧
  (∀ (b : Fin 2) (e : Fin 256) (s : State), s.stopped = false →
      ∃ t, exec (.setEndpointId b e) s = .next t ∧ (s.gkRuns = true → t.gk = { s.gk with eid := SMap.insert s.gk.eid b.val e.val } ∧
        Sent.answer 2 0 [b.val, e.val] ∈ t.hub.out) ∧ (s.gkRuns = false → t = s))

/-- Where the view opens page GKP, each mailbox command is dropped with WR_DROPPED while one runs; waits while Groundskeeper does not
run; ends with code 2 for a LEN over 192; and otherwise ends with MB_DONE. GET_INFO, READ_SENSORS, READ_ALMANAC and READ_FAULTS in
range end with code 0 and the response's length, out of range with code 2; READ_NOTE gives the oldest notice with LOST, and with
none code 1. The console's status commands answer while Groundskeeper runs; a login that verifies opens the console, the third
failed answer locks it for 60 s, and during a lock it is refused; without a login debug is refused, and with one a register or an
Almanac record is read; a logout, or 15 minutes of idleness, closes it. (R477, R484) -/
def Obligations.MailboxCommandsComplete : Prop :=
  (∀ (v : View) (l : Fin 256) (x : Nat) (s u : State) (P : Nat → State → Prop), s.opens v (pageNo pgGkp) pgGkp = true → u = s.advance x →
      P = (fun op t => (s.gk.mb.isSome = true → t.gk = s.gk ∧ t.event v pgGkp 1 = true) ∧
        (s.gk.mb = none → s.gkRuns = false → t.gk = { s.gk with mb := some (op, l.val) }) ∧
        (s.gk.mb = none → s.gkRuns = true → t.gk.mb = none ∧ t.event .pf pgGkp 8 = true ∧ (192 < l.val → t.gk.mbCode = 2) ∧
          (l.val ≤ 192 → (op = 1 → t.gk.mbCode = 0) ∧
            (op = 4 → (s.gk.notices = [] → t.gk.mbCode = 1) ∧ ∀ n r, s.gk.notices = n :: r → t.gk.notices = r ∧ t.gk.mbCode = 0 ∧ t.gk.mbLen = 4 ∧
              t.gk.mbLost = s.gk.lost) ∧
            (op = 2 ∨ op = 3 ∨ op = 5 → ∀ r, Config.mbRequest op (u.mbBytes l.val) = some r →
              (∀ d, u.mbList op r.1 r.2 = some d → t.gk.mbCode = 0 ∧ t.gk.mbLen = d.length) ∧
              (u.mbList op r.1 r.2 = none → t.gk.mbCode = 2))))) →
      (∃ t, exec (.getInfo v l x) s = .next t ∧ P 1 t) ∧
      (∃ t, exec (.readSensors v l x) s = .next t ∧ P 2 t) ∧
      (∃ t, exec (.readAlmanac v l x) s = .next t ∧ P 3 t) ∧
      (∃ t, exec (.readNote v l x) s = .next t ∧ P 4 t) ∧
      (∃ t, exec (.readFaults v l x) s = .next t ∧ P 5 t)) ∧
  (∀ (w : Fin 6) (s : State), s.stopped = false →
      ∃ t, exec (.consoleStatus w) s = .next t ∧ (s.gkRuns = true → Sent.answer 4 0 (w.val :: s.consoleWords w.val) ∈ t.hub.out) ∧ (s.gkRuns = false → t = s)) ∧
  (∀ (ok : Bool) (x : Nat) (s : State), s.stopped = false → s.gkRuns = true → s.sec.console = false →
      ∃ t, exec (.consoleLogin ok x) s = .next t ∧
        (max s.sdl.ref x < s.gk.lockedTo → t.sec = s.sec ∧ t.gk = s.gk ∧ Sent.answer 4 2 [] ∈ t.hub.out) ∧
        (s.gk.lockedTo ≤ max s.sdl.ref x → Sent.answer 4 1 [Config.challenge s.free] ∈ t.hub.out ∧
          (ok = true → t.sec.console = true ∧ t.gk.fails = 0 ∧ t.gk.active = max s.sdl.ref x ∧ (2, s.enabledMask, 0) ∈ t.sec.dbgOpen) ∧
          (ok = false → t.sec = s.sec ∧ t.gk.fails = (if 3 ≤ s.gk.fails + 1 then 0 else s.gk.fails + 1) ∧
            t.gk.lockedTo = if 3 ≤ s.gk.fails + 1 then max s.sdl.ref x + 60 * 10 ^ 9 * nsRef else s.gk.lockedTo))) ∧
  (∀ (off addr i x : Nat) (s : State), s.stopped = false → s.gkRuns = true →
      (∃ t, exec (.consoleDebug (.readReg off) x) s = .next t ∧ (s.sec.console = false → t.sec = s.sec ∧ t.gk = s.gk ∧ Sent.answer 4 3 [] ∈ t.hub.out) ∧
        (s.sec.console = true → ∀ a u, a = off % 2 ^ 26 / 4 * 4 → (viewPage .gk (a / 4096)).isSome = true → u = s.advance x →
          Sent.answer 4 4 [a, (({ u with gk := { u.gk with active := u.sdl.ref } } : State).readReg .gk a).toNat] ∈ t.hub.out ∧ t.gk.active = u.sdl.ref)) ∧
      (∃ t, exec (.consoleDebug (.readAlmanac i) x) s = .next t ∧ (s.sec.console = true → ∀ r, s.pwr.almanac.reverse[i]? = some r →
          Sent.answer 4 6 [leNat (almBytes r)] ∈ t.hub.out)) ∧
      ∃ t, exec (.consoleDebug (.transfer addr i) x) s = .next t ∧ (s.sec.console = true →
          (∃ w, Sent.record (pageNo pgGkp) 34 (addr :: w) ∈ t.hub.out ∧ Sent.answer 4 5 (addr :: w) ∈ t.hub.out))) ∧
  (∀ (idle : Bool) (x : Nat) (s : State), s.stopped = false → s.sec.console = true →
      ∃ t, exec (.consoleLogout idle x) s = .next t ∧
        (idle = false ∨ s.gk.active + 15 * 60 * 10 ^ 9 * nsRef ≤ max s.sdl.ref x → t.sec.console = false) ∧
        (idle = true → max s.sdl.ref x < s.gk.active + 15 * 60 * 10 ^ 9 * nsRef → t = s.advance x))

/-- On a running device whose Groundskeeper runs, over a binding with an EID: GET_SENSOR_READING answers a listed sensor's reading,
unavailable without one, and an unlisted sensor with an error. SET_EVENT_RECEIVER takes the EID. A message unacknowledged for 1 s
is sent again, at most three times, then given up; PLATFORM_EVENT_ACK ends it. REQUEST_UPDATE begins an update, and during one
answers 0x81. For the agent in update: PASS_COMPONENT_TABLE keeps the known types; UPDATE_COMPONENT of a type of the table begins
its pull; ACTIVATE_FIRMWARE of verified components names the written set in the layout record, counts, posts notice 3 and ends the
update; CANCEL_UPDATE ends it and marks the written set invalid. FIRMWARE_DATA adds the bytes and requests the next;
VERIFY_COMPLETE reports a component verified and applied, or ends the update. (R477, R478, R479, R480) -/
def Obligations.UpdatesAndPlatformEventsComplete : Prop :=
  (∀ (b : Fin 2) (req i : Fin 256) (s : State), s.stopped = false → s.gkRuns = true → s.hasEid b.val = true →
      ∃ t, exec (.getSensorReading b req i) s = .next t ∧
        (i.val ∈ sensorIds → (∀ r, s.sensor i.val = some r → Sent.answer 1 (if i.val = 96 then 0x21 else 0x11) [b.val, req.val, 0, i.val, 0, unsignedOf 32 r] ∈ t.hub.out) ∧
          (s.sensor i.val = none → Sent.answer 1 0x11 [b.val, req.val, 0, i.val, 2] ∈ t.hub.out)) ∧
        (i.val ∉ sensorIds → Sent.answer 1 0x11 [b.val, req.val, 0x80, i.val] ∈ t.hub.out)) ∧
  (∀ (b : Fin 2) (req : Fin 256) (e : Option Nat) (s : State), s.stopped = false → s.gkRuns = true → s.hasEid b.val = true →
      ∃ t, exec (.setEventReceiver b req e) s = .next t ∧ t.gk = { s.gk with receiver := e } ∧ Sent.answer 1 0x04 [b.val, req.val, 0] ∈ t.hub.out) ∧
  (∀ (q : Fin 256) (x r : Nat) (m : EvtMsg) (s : State), s.stopped = false → s.gkRuns = true → s.gk.receiver = some r →
      (s.gk.unacked.find? fun m => decide (m.seq = q.val)) = some m → m.sentAt + 10 ^ 9 * nsRef ≤ max s.sdl.ref x →
      ∃ t, exec (.platformEventResend q x) s = .next t ∧
        (3 ≤ m.resends → t.gk.unacked = s.gk.unacked.filter fun m => decide (m.seq ≠ q.val)) ∧
        (m.resends < 3 → Sent.answer 1 0x0A (r :: m.seq :: m.what :: m.words) ∈ t.hub.out ∧
          t.gk.unacked = s.gk.unacked.map fun m => if m.seq = q.val then { m with resends := m.resends + 1, sentAt := max s.sdl.ref x } else m)) ∧
  (∀ (q : Fin 256) (s : State), s.stopped = false → s.gkRuns = true →
      exec (.platformEventAck q) s = .next { s with gk := { s.gk with unacked := s.gk.unacked.filter fun m => decide (m.seq ≠ q.val) } }) ∧
  (∀ (b : Fin 2) (req : Fin 256) (s : State), s.stopped = false → s.gkRuns = true → s.hasEid b.val = true →
      ∃ t, exec (.requestUpdate b req) s = .next t ∧
        (s.gk.update = none → t.gk = { s.gk with update := some { requester := req.val } } ∧ Sent.answer 1 0x10 [b.val, req.val, 0] ∈ t.hub.out) ∧
        (s.gk.update.isSome = true → t.gk = s.gk ∧ Sent.answer 1 0x10 [b.val, req.val, 0x81] ∈ t.hub.out)) ∧
  (∀ (b : Fin 2) (req : Fin 256) (ty : List Nat) (k : Fin 16) (svn x : Nat) (self ok : Bool) (s : State) (u : Update), s.stopped = false → s.gkRuns = true → s.hasEid b.val = true →
      s.gk.update = some u → u.requester = req.val →
      (∃ t, exec (.passComponentTable b req ty) s = .next t ∧ t.gk = { s.gk with update := some { u with table := ty.filter fun k => decide (1 ≤ k ∧ k ≤ 4) } }) ∧
      (∃ t, exec (.updateComponent b req k svn) s = .next t ∧ (u.current = none → k.val ∈ u.table →
        t.gk.update = some { u with current := some k.val, comps := (u.comps.filter fun c => decide (c.type ≠ k.val)) ++ [{ type := k.val, svn := svn }] } ∧
        Sent.answer 1 0x15 [k.val, 0] ∈ t.hub.out)) ∧
      (∃ t, exec (.activateFirmware b req self ok x) s = .next t ∧
        (u.current = none → u.comps ≠ [] → u.comps.all (·.verified) = true → (self = true → u.comps.all (fun c => decide (c.type = 1)) = true) →
          t.gk.update = none ∧ t.gk.layoutSet = s.inactive ∧ 3 ∈ t.gk.notices ∧ t.gk.activeSet = if self then s.inactive else s.gk.activeSet)) ∧
      ∃ t, exec (.cancelUpdate b req) s = .next t ∧ t.gk = { s.gk with update := none, invalid := SMap.put flagUnlisted s.gk.invalid (1 - s.gk.activeSet) true }) ∧
  (∀ (d : List Byte) (c : ObjCheck) (k : Nat) (s : State) (u : Update), s.stopped = false → s.gkRuns = true → s.gk.update = some u → u.current = some k →
      (∃ t, exec (.firmwareData d) s = .next t ∧ ∀ n, n = ((u.comps.find? fun c => decide (c.type = k)).map (·.bytes)).getD 0 + d.length →
        Sent.answer 1 0x15 [k, n] ∈ t.hub.out ∧
        t.gk.update = some { u with comps := u.comps.map fun c => if c.type = k then { c with bytes := n } else c }) ∧
      ∃ t, exec (.verifyComplete c) s = .next t ∧
        (s.checked k c = true → t.gk.update = some { u with current := none, comps := u.comps.map fun x => if x.type = k then { x with verified := true, svn := c.svn } else x } ∧
          Sent.answer 1 0x17 [k, 0] ∈ t.hub.out ∧ Sent.answer 1 0x18 [k, 0] ∈ t.hub.out) ∧
        (s.checked k c = false → t.gk.update = none ∧ Sent.answer 1 0x17 [k, 1] ∈ t.hub.out))

/-- A view's key command on a handle, of its own partition from a VF, reports in SEC_KEY_RESULT and raises KEY_DONE: KEY_LOAD with the
code of the first test that fails and the keys kept, or code 0 and the key under its handle; KEY_ERASE with 1 out of range and 6
for a handle in use, the keys kept, and else 0 and no key under the handle; KEY_QUERY with 1 out of range, and else whether a key
is there, its USE and its JOB. On a running device IDE_ERR of a secure stream makes it insecure, drops its traffic and raises
event 13, and of another stream changes nothing. (R361, R364, R365, R366) -/
def Obligations.KeyCommandsComplete : Prop :=
  (∀ (v : View) (x : Word) (l : List Byte) (s : State) (p h : Nat), s.takes v = true → h = fieldOf x.toNat 2 10 →
      (isVf v = false → p = fieldOf x.toNat 12 3) → (∀ k, v = .vf k → vfPart s.gate.act (k.val + 1) = some p) →
      ∃ t, exec (.keyLoad v x l) s = .next t ∧ t.event .pf pgSec 8 = true ∧ ∀ b u r, s.keyBlob v p l = (b, u) → u.keyLoad p h b = r →
        SMap.get wordUnlisted t.sec.result v.no = BitVec.ofNat 32 (2 * r.1) ∧ (∀ k, r.2 = some k → SMap.find? t.sec.keys h = some k) ∧
        (r.2 = none → t.sec.keys = s.sec.keys)) ∧
  (∀ (v : View) (x : Word) (s : State) (p h : Nat), s.takes v = true → h = fieldOf x.toNat 2 10 →
      (isVf v = false → p = fieldOf x.toNat 12 3) → (∀ k, v = .vf k → vfPart s.gate.act (k.val + 1) = some p) →
      (∃ t, exec (.keyErase v x) s = .next t ∧ t.event .pf pgSec 8 = true ∧
        (inKeyRange s.gate.act p h = false → t.sec.keys = s.sec.keys ∧ SMap.get wordUnlisted t.sec.result v.no = 2) ∧
        (inKeyRange s.gate.act p h = true → keyInUse s.gate.act h = true → t.sec.keys = s.sec.keys ∧ SMap.get wordUnlisted t.sec.result v.no = 12) ∧
        (inKeyRange s.gate.act p h = true → keyInUse s.gate.act h = false → SMap.find? t.sec.keys h = none ∧ SMap.get wordUnlisted t.sec.result v.no = 0)) ∧
      ∃ t, exec (.keyQuery v x) s = .next t ∧ t.event .pf pgSec 8 = true ∧ t.sec.keys = s.sec.keys ∧
        (inKeyRange s.gate.act p h = false → SMap.get wordUnlisted t.sec.result v.no = 2) ∧
        (inKeyRange s.gate.act p h = true → (SMap.find? s.sec.keys h = none → SMap.get wordUnlisted t.sec.result v.no = 0) ∧
          ∀ k, SMap.find? s.sec.keys h = some k → SMap.get wordUnlisted t.sec.result v.no = BitVec.ofNat 32 (16 + 32 * k.use) ∧
            SMap.get wordUnlisted t.sec.job v.no = BitVec.ofNat 32 k.job)) ∧
  (∀ (f : Fin 9) (s : State), s.stopped = false → ∃ t, exec (.ideErr f) s = .next t ∧
        ((SMap.get ideUnlisted s.sec.ide f.val).secure = true → (SMap.get ideUnlisted t.sec.ide f.val).insecure = true ∧
          SMap.get flagUnlisted t.hub.mute f.val = true ∧ t.event .pf pgSec 13 = true) ∧
        ((SMap.get ideUnlisted s.sec.ide f.val).secure = false → t = s))

/-- On a running device: DISABLE by the PF or Groundskeeper, and VF Enable clearing for each partition with a VF, take an ACTIVE or
HELD partition to CLOSING from that moment; a VF's DISABLE is dropped. VF_FLR does so for the partition of the VF, marked for
discarding, and a VF without one ends its reset at once with event 12; PF_FLR does so for every partition and clears VF Enable.
DISABLE_SLOT_EXPIRY while a context of a CLOSING partition may run on aborts those whose slot has passed; with none left it erases
the partition's job keys and takes it to SCRUBBING. PART_DISABLED with no window zeroing takes SCRUBBING to HELD where something
is held, else ACTIVE or OFF, with event 9. RELEASE_HOLD has the partition's fences zeroed; PART_RELEASED once nothing is held
lifts them, ends HELD and raises event 10. (R379, R381, R382, R433) -/
def Obligations.PartitionsCloseAndOpenComplete : Prop :=
  (∀ (v : View) (p : Part) (x : Nat) (s : State), s.takes v = true →
      ∃ t, exec (.disable v p x) s = .next t ∧
        (isVf v = true → t.sec = s.sec ∧ t.event v pgSec 1 = true) ∧
        (isVf v = false → ((s.part p.val).st = .active ∨ (s.part p.val).st = .held → (t.part p.val).st = .closing ∧
            (t.part p.val).since = max s.sdl.ref x ∧ (t.part p.val).discard = false) ∧
          ((s.part p.val).st = .off → t.sec = s.sec) ∧ ∀ q, q ≠ p.val → t.part q = s.part q)) ∧
  (∀ (k : Fin 8) (x : Nat) (s : State), s.stopped = false →
      ∃ t, exec (.vfFlr k x) s = .next t ∧
        (∀ p, vfPart s.gate.act (k.val + 1) = some p → (s.part p).st = .active ∨ (s.part p).st = .held →
          (t.part p).st = .closing ∧ (t.part p).since = max s.sdl.ref x ∧ (t.part p).discard = true ∧ (t.part p).flr = true ∧
          (SMap.get fnUnlisted t.irg.fn (k.val + 1)).flr = true) ∧
        (vfPart s.gate.act (k.val + 1) = none → (SMap.get fnUnlisted t.irg.fn (k.val + 1)).flr = false ∧ t.event .pf pgHst 12 = true)) ∧
  (∀ (x : Nat) (s : State), s.stopped = false →
      (∃ t, exec (.vfEnableClear x) s = .next t ∧ t.irg.vfEnable = false ∧
        ∀ p, p < 8 → ((s.part p).st = .active ∨ (s.part p).st = .held) →
          (partVf s.gate.act p ≠ 0 → (t.part p).st = .closing ∧ (t.part p).since = max s.sdl.ref x) ∧ (partVf s.gate.act p = 0 → t.part p = s.part p)) ∧
      ∃ t, exec (.pfFlr x) s = .next t ∧ t.irg.vfEnable = false ∧
        (∀ p, p < 8 → ((s.part p).st = .active ∨ (s.part p).st = .held) → (t.part p).st = .closing ∧ (t.part p).since = max s.sdl.ref x ∧ (t.part p).flr = true ∧
          t.sec.pfFlr = true) ∧
        ((∀ p, p < 8 → (s.part p).st = .off) → t.sec.pfFlr = false ∧ t.event .pf pgHst 12 = true)) ∧
  (∀ (p : Part) (x : Nat) (s u : State), s.stopped = false → u = s.advance x → (s.part p.val).st = .closing →
      ∃ t, exec (.disableSlotExpiry p x) s = .next t ∧
        ((∃ c ∈ u.partCtxs p.val, u.inFlight c = true ∧ u.sdl.ref < (s.part p.val).since + u.disableSlot c) ∨
            u.reached ((s.part p.val).since + 10 ^ 6 * nsRef / 8) = false →
          (t.part p.val).st = .closing ∧ ∀ c ∈ u.partCtxs p.val, u.inFlight c = true → (s.part p.val).since + u.disableSlot c ≤ u.sdl.ref →
            (t.ctx c).steps.all (·.ended) = true) ∧
        ((∀ c ∈ u.partCtxs p.val, u.inFlight c = true → (s.part p.val).since + u.disableSlot c ≤ u.sdl.ref) →
            u.reached ((s.part p.val).since + 10 ^ 6 * nsRef / 8) = true →
          (t.part p.val).st = .scrubbing ∧ ∀ e ∈ t.sec.keys, e.2.part ≠ p.val)) ∧
  (∀ (p : Part) (x : Nat) (s : State), s.stopped = false → (s.part p.val).st = .scrubbing → s.partWindows p.val .zeroing = false →
      ∃ t, exec (.partDisabled p x) s = .next t ∧ t.event .pf pgSec 9 = true ∧
        (t.part p.val).st = if s.partWindows p.val .held || s.partFrozen p.val || s.sec.fences.any (fun f => decide (f.part = p.val)) then .held
          else if partEn s.gate.act p.val then .active else .off) ∧
  (∀ (v : View) (p : Part) (x : Nat) (s : State), s.takes v = true →
      ∃ t, exec (.releaseHold v p x) s = .next t ∧ (isVf v = true → t.sec = s.sec ∧ t.event v pgSec 1 = true) ∧
        (isVf v = false → t.sec = { s.sec with fences := s.sec.fences.map fun f => if f.part = p.val then { f with zeroing := true } else f })) ∧
  (∀ (p : Part) (x : Nat) (s : State), s.stopped = false → (s.part p.val).st = .held → s.partWindows p.val .held = false →
      s.partWindows p.val .zeroing = false → s.partFrozen p.val = false → (s.sec.fences.all fun f => decide (f.part ≠ p.val) || f.zeroing) = true →
      ∃ t, exec (.partReleased p x) s = .next t ∧ t.event .pf pgSec 10 = true ∧ (t.part p.val).st = (if partEn s.gate.act p.val then .active else .off) ∧
        t.sec.fences = s.sec.fences.filter fun f => decide (f.part ≠ p.val))

/-- On a running device whose Groundskeeper core runs, over a transport with an EID, in no session or in one that exists: GET_VERSION
outside a session answers 1.2 and starts the instance's transcript; GET_CAPABILITIES after it, and, with a valid identity outside
recovery, NEGOTIATE_ALGORITHMS, answer and step the instance on. Once negotiated, with a valid identity: GET_DIGESTS,
GET_CERTIFICATE of slot 0, PQ_GET_CERT and GET_DEBUG_LOG answer and join the transcript; CHALLENGE of slot 0, and GET_MEASUREMENTS
with a signature asked for, sign the transcript over a fresh nonce and keep its hash; GET_MEASUREMENTS answers the number of
blocks, one, or all; PQ_SIGN signs the hash that the preceding response signed, and without one is an ERROR. (The response and
error codes are SPDM's, log 81; nonces and signatures are free values.) (R368, R372, R373, R374, R377) -/
def Obligations.AttestationRequestsComplete : Prop :=
  (∀ (i : Fin 11) (ses : Option Nat) (m : List Byte) (s : State), s.stopped = false → s.hub.gkHalted = false → s.hasEid i.val = true → (∀ k, ses = some k → (s.session? i.val k).isSome = true) → 
      (ses = none → ∃ t, exec (.getVersion i ses m) s = .next t ∧ t.spdm i.val = { version := true, transcript := m } ∧ Sent.answer 0 0x04 [i.val, 0x12] ∈ t.hub.out) ∧
      ((s.spdm i.val).version = true → ∃ t, exec (.getCapabilities i ses m) s = .next t ∧ (t.spdm i.val).caps = true ∧
        (t.spdm i.val).transcript = (s.spdm i.val).transcript ++ m ∧ Sent.answer 0 0x61 [i.val] ∈ t.hub.out) ∧
      ((s.spdm i.val).version = true → (s.spdm i.val).caps = true → s.sec.idOk = true → s.pwr.recovery = false →
        ∃ t, exec (.negotiateAlgorithms i ses m) s = .next t ∧ (t.spdm i.val).algs = true ∧
        (t.spdm i.val).transcript = (s.spdm i.val).transcript ++ m ∧ Sent.answer 0 0x63 [i.val] ∈ t.hub.out)) ∧
  (∀ (i : Fin 11) (ses : Option Nat) (m : List Byte) (s : State), s.stopped = false → s.hub.gkHalted = false → s.hasEid i.val = true → (∀ k, ses = some k → (s.session? i.val k).isSome = true) → s.sec.idOk = true → s.pwr.recovery = false → (s.spdm i.val).ready = true →
      (∃ t, exec (.getDigests i ses m) s = .next t ∧ (t.spdm i.val).transcript = (s.spdm i.val).transcript ++ m ∧
        Sent.answer 0 0x01 [i.val, 1, leNat (Config.sha384 (Config.certChain (s.inUse 1) (s.inUse 4)))] ∈ t.hub.out) ∧
      (∃ t, exec (.pqGetCert i ses m) s = .next t ∧ (t.spdm i.val).transcript = (s.spdm i.val).transcript ++ m ∧
        Sent.answer 0 0x7E [i.val, leNat (Config.mlDsaChain (s.inUse 1) (s.inUse 4))] ∈ t.hub.out) ∧
      (∃ t, exec (.getCertificate i ses m) s = .next t ∧ (byteAt m 2 % 16 = 0 → (t.spdm i.val).transcript = (s.spdm i.val).transcript ++ m ∧
        ∀ b d, b = (Config.certChain (s.inUse 1) (s.inUse 4)).drop (byteAt m 4 + 256 * byteAt m 5) → d = b.take (byteAt m 6 + 256 * byteAt m 7) →
          Sent.answer 0 0x02 [i.val, d.length, b.length - d.length, leNat d] ∈ t.hub.out)) ∧
      (∃ t, exec (.getDebugLog i ses m) s = .next t ∧ (t.spdm i.val).transcript = (s.spdm i.val).transcript ++ m ∧
        (i.val < 3 → Sent.answer 0 0x7E (i.val :: s.sec.dbgLog.map leNat) ∈ t.hub.out)) ∧
      ∃ t, exec (.pqSign i ses m) s = .next t ∧
        (∀ g, (s.spdm i.val).signed = some g → Sent.answer 0 0x7E [i.val, leNat (Config.aliasMlDsa (s.inUse 1) g)] ∈ t.hub.out ∧ (t.spdm i.val).signed = none) ∧
        ((s.spdm i.val).signed = none → Sent.answer 0 0x7F [i.val, spdmUnexpected] ∈ t.hub.out)) ∧
  (∀ (i : Fin 11) (ses : Option Nat) (m : List Byte) (s : State) (g : List (BitVec 8)), s.stopped = false → s.hub.gkHalted = false → s.hasEid i.val = true → (∀ k, ses = some k → (s.session? i.val k).isSome = true) → s.sec.idOk = true → s.pwr.recovery = false → (s.spdm i.val).ready = true →
      g = Config.sha384 ((s.spdm i.val).transcript ++ m ++ natLe 8 s.free) →
      (∃ t, exec (.challenge i ses m) s = .next t ∧ (byteAt m 2 % 16 = 0 → (t.spdm i.val).signed = some g ∧
        Sent.answer 0 0x03 [i.val, 0, leNat (Config.aliasEd25519 (s.inUse 1) g)] ∈ t.hub.out) ∧
        (byteAt m 2 % 16 ≠ 0 → Sent.answer 0 0x7F [i.val, spdmInvalidRequest] ∈ t.hub.out)) ∧
      ∃ t, exec (.getMeasurements i ses m) s = .next t ∧ ∀ w, byteAt m 3 ≤ 8 ∨ byteAt m 3 = 0xFF →
        w = (if byteAt m 3 = 0 then [8]
          else if byteAt m 3 = 0xFF then (List.range 8).flatMap fun k => (k + 1) :: s.measurement (s.trPart i.val) (decide (3 ≤ i.val)) (k + 1)
          else byteAt m 3 :: s.measurement (s.trPart i.val) (decide (3 ≤ i.val)) (byteAt m 3)) →
        (byteAt m 2 % 2 = 1 → (t.spdm i.val).signed = some g ∧ Sent.answer 0 0x60 (i.val :: (w ++ [leNat (Config.aliasEd25519 (s.inUse 1) g)])) ∈ t.hub.out) ∧
        (byteAt m 2 % 2 = 0 → (t.spdm i.val).transcript = (s.spdm i.val).transcript ++ m ∧ Sent.answer 0 0x60 (i.val :: w) ∈ t.hub.out))

/-- On a running device whose Groundskeeper core runs, over a transport with an EID, negotiated, with a valid identity outside
recovery: KEY_EXCHANGE outside a session with fewer than 8 begins one of the requester's ID and a fresh one; FINISH establishes
it, or ends it where the verify data are wrong. In an established session KEY_UPDATE steps the requester's key, and the
responder's with UpdateAllKeys; HEARTBEAT answers; END_SESSION ends it; SET_PWK, where the transport may and the partition has
none, keeps the wrapping key; and on the PF's DOE instance KEY_PROG keeps a stream's key, K_SET_GO of a programmed key sets the
stream going and its traffic with it, K_SET_STOP stops the key. TAP_LEAVE_RESET opens a JTAG debug session of every partition, and
TAP_RESET closes it. (R362, R364, R372, R375) -/
def Obligations.SessionsAndStreamsComplete : Prop :=
  (∀ (i : Fin 11) (ses : Option Nat) (m : List Byte) (ok : Bool) (s : State), s.stopped = false → s.hub.gkHalted = false → s.hasEid i.val = true → (∀ k, ses = some k → (s.session? i.val k).isSome = true) → s.sec.idOk = true → s.pwr.recovery = false → (s.spdm i.val).ready = true →
      (ses = none → s.sec.sessions.length < 8 → ∀ k, k = byteAt m 4 + 256 * byteAt m 5 + 2 ^ 16 * (Config.rspSession s.free % 2 ^ 16) →
        ∃ t, exec (.keyExchange i ses m) s = .next t ∧ t.sec.sessions = s.sec.sessions ++ [{ id := k, transport := i.val }]) ∧
      ∀ k x, ses = some k → s.session? i.val k = some x → x.established = false → ∃ t, exec (.finish i ses m ok) s = .next t ∧
        (ok = true → t.sec.sessions = (s.sec.sessions.map fun y => if y.id = k then { y with established := true } else y) ∧ Sent.answer 0 0x65 [i.val, k] ∈ t.hub.out) ∧
        (ok = false → t.sec.sessions = (s.sec.sessions.filter fun y => decide (y.id ≠ k)) ∧ Sent.answer 0 0x7F [i.val, spdmDecrypt] ∈ t.hub.out)) ∧
  (∀ (i : Fin 11) (ses : Option Nat) (m key : List Byte) (b : Bool) (p : Part) (s : State) (k : Nat) (x : Session), s.stopped = false → s.hub.gkHalted = false → s.hasEid i.val = true → (∀ k, ses = some k → (s.session? i.val k).isSome = true) → s.sec.idOk = true → s.pwr.recovery = false → (s.spdm i.val).ready = true →
      ses = some k → s.session? i.val k = some x → x.established = true →
      (∃ t, exec (.keyUpdate i ses m b) s = .next t ∧ Sent.answer 0 0x69 [i.val, k] ∈ t.hub.out ∧
        t.sec.sessions = s.sec.sessions.map fun y => if y.id = k then { y with genReq := y.genReq + 1, genRsp := y.genRsp + bit b } else y) ∧
      (∃ t, exec (.heartbeat i ses m) s = .next t ∧ Sent.answer 0 0x68 [i.val, k] ∈ t.hub.out ∧ t.sec.sessions = s.sec.sessions) ∧
      (∃ t, exec (.endSession i ses m) s = .next t ∧ Sent.answer 0 0x6C [i.val, k] ∈ t.hub.out ∧ t.sec.sessions = s.sec.sessions.filter fun y => decide (y.id ≠ k)) ∧
      ∃ t, exec (.setPwk i ses m p key) s = .next t ∧ (i.val < 3 ∨ s.trPart i.val = some p.val → (s.part p.val).pwk = none →
        (t.part p.val).pwk = some key ∧ Sent.answer 0 0x7E [i.val] ∈ t.hub.out)) ∧
  (∀ (i : Fin 11) (ses : Option Nat) (m key : List Byte) (b : Bool) (f : Fin 9) (d : Fin 3) (e : Bool) (s : State) (k : Nat) (x : Session), s.stopped = false → s.hub.gkHalted = false → s.hasEid i.val = true → (∀ k, ses = some k → (s.session? i.val k).isSome = true) → s.sec.idOk = true → s.pwr.recovery = false → (s.spdm i.val).ready = true →
      ses = some k → s.session? i.val k = some x → x.established = true → i.val = 2 →
      (∃ t, exec (.keyProg i ses m f b d e key) s = .next t ∧ Sent.answer 3 1 [f.val, 0] ∈ t.hub.out ∧
        SMap.find? (SMap.get ideUnlisted t.sec.ide f.val).keys (ideKey b d.val e) = some key) ∧
      (∃ t, exec (.kSetGo i ses m f b d e) s = .next t ∧
        ((SMap.find? (SMap.get ideUnlisted s.sec.ide f.val).keys (ideKey b d.val e)).isSome = true → Sent.answer 3 2 [f.val, 0] ∈ t.hub.out ∧
          (SMap.get ideUnlisted t.sec.ide f.val).secure = true ∧ (SMap.get ideUnlisted t.sec.ide f.val).insecure = false ∧
          SMap.get flagUnlisted t.hub.mute f.val = false)) ∧
      ∃ t, exec (.kSetStop i ses m f b d e) s = .next t ∧ Sent.answer 3 2 [f.val, 0] ∈ t.hub.out ∧
        SMap.get flagUnlisted (SMap.get ideUnlisted t.sec.ide f.val).going (ideKey b d.val e) = false) ∧
  (∀ (x : Nat) (s : State), s.stopped = false →
      (s.gk.tapOut = false → ∃ t, exec (.tapLeaveReset x) s = .next t ∧ t.gk.tapOut = true ∧ t.sec.jtag = true ∧ (1, s.enabledMask, 0) ∈ t.sec.dbgOpen) ∧
      ∃ t, exec (.tapReset x) s = .next t ∧ t.gk.tapOut = false ∧ t.sec.jtag = false ∧
        (s.sec.jtag = true → ∀ e ∈ t.sec.dbgOpen, e.1 ≠ 1 ∨ e.2.2 ≠ 0))

/-- On a running device: HARVEST_WRITE of a waiting record, with room in the ring by the cached CONS, takes the oldest record, numbers
it one above PROD, and in a mapped window writes its body and then its sequence word with the complement; with no room it reads
CONS instead. CONS_POLL keeps CONS. COPY_START of two extents that the function may name and a length that is a positive multiple
of 64 begins the copy, else ends it with code 1. COPY_DONE of a running copy ends it and raises COPY_DONE: with code 2 where a
read failed or more than 50 ms passed, else with code 0 and the bytes written. CONFIG_REQUEST completes, with retry status until
start-up has ended. A library command of a function that sees the context's partition enters or erases the Plan, reports its code
and raises LIB_DONE; a Plan refused by a check also reports the fault record. (R303, R420, R425, R468) -/
def Obligations.HostAccessAndLibraryComplete : Prop :=
  (∀ (c : Ctx) (s : State) (x k a : Nat) (rest : List Nat), s.stopped = false → (s.ctx c.val).harvWait = x :: rest →
      k = ((s.ctx c.val).prod + 1) % 2 ^ 32 → a = harvAddr s.gate.act c.val + 64 + 64 * ((k + 2 ^ 32 - 1) % 2 ^ 32 % harvRecs s.gate.act c.val) →
      ∃ t, exec (.harvestWrite c) s = .next t ∧
        (s.harvRoom c.val = true → (t.ctx c.val).prod = k ∧ (t.ctx c.val).harvWait = rest ∧
          ∀ b d w1 w2, (SMap.get partUnlisted s.sec.parts (s.partOf c.val)).discard = false → SMap.get flagUnlisted s.hub.mute (s.fnOf c.val) = false →
            hostXlat s.gate.act (s.fnOf c.val) a 56 = some (b, w1) → hostXlat s.gate.act (s.fnOf c.val) (a + 56) 8 = some (d, w2) →
            Sent.hostWrite (s.fnOf c.val) b (natLe 56 (x % 2 ^ 448)) ∈ t.hub.out ∧
            Sent.hostWrite (s.fnOf c.val) d (natLe 8 (k + 2 ^ 32 * (2 ^ 32 - 1 - k))) ∈ t.hub.out) ∧
        (s.harvRoom c.val = false → SMap.get flagUnlisted s.hub.mute (s.fnOf c.val) = false → Sent.hostRead (s.fnOf c.val) (harvAddr s.gate.act c.val) 4 ∈ t.hub.out)) ∧
  (∀ (c : Ctx) (w : Word) (v : View) (n : Word) (x f : Nat) (s u : State), s.stopped = false → u = s.advance x → f = copyFn v →
      (∃ t, exec (.consPoll c w) s = .next t ∧ t.ctx c.val = { s.ctx c.val with cons := w.toNat }) ∧
      ((s.fn f).flr = false → ∀ y, y = s.fn f →
        (y.busy = false → n.toNat ≠ 0 → n.toNat % 64 = 0 → u.copyEnd f y.src n.toNat = true → u.copyEnd f y.dst n.toNat = true →
          ∃ t, exec (.copyStart v n x) s = .next t ∧ t.fn f = { y with busy := true, done := false, len := n.toNat, began := u.sdl.ref }) ∧
        (y.busy = true ∨ n.toNat = 0 ∨ n.toNat % 64 ≠ 0 ∨ u.copyEnd f y.src n.toNat = false ∨ u.copyEnd f y.dst n.toNat = false →
          ∃ t, exec (.copyStart v n x) s = .next t ∧ t.fn f = { y with code := 1, done := true })) ∧
      ∃ t, exec .configRequest s = .next t ∧ Sent.cfgCpl (if s.pwr.ready then 0 else 1) ∈ t.hub.out) ∧
  (∀ (f : Fin 9) (d : Option (List Byte)) (x : Nat) (s u v : State) (y : CopySt) (r : Option (List Byte)), s.stopped = false → u = s.advance x → y = s.fn f.val →
      y.busy = true → (r, v) = (if y.src < dramEnd then u.dramRead none y.src y.len else (d, u)) →
      (x ≤ y.began + 50000000 * nsRef → s.sdl.ref ≤ y.began + 50000000 * nsRef → ∀ b, r = some b →
        ∃ t, exec (.copyDone f d x) s = .next t ∧ t.fn f.val = { y with busy := false, done := true, code := 0 } ∧ t.event .pf pgHst 10 = true ∧
          (y.dst < dramEnd → t.mem = (v.dramWrite none y.dst (b.take y.len)).mem) ∧
          ∀ a w, dramEnd ≤ y.dst → hostXlat v.gate.act f.val y.dst y.len = some (a, w) → SMap.get flagUnlisted v.hub.mute f.val = false →
            Sent.hostWrite f.val a (b.take y.len) ∈ t.hub.out) ∧
      (y.began + 50000000 * nsRef < x ∨ r = none → ∃ t, exec (.copyDone f d x) s = .next t ∧
        t.fn f.val = { y with busy := false, done := true, code := 2 } ∧ t.event .pf pgHst 10 = true)) ∧
  (∀ (v : View) (c : Ctx) (i : Fin 256) (s : State) (r : Nat × Option (List Byte) × State) (b : List Byte) (k : Nat),
      s.takes v = true → viewSees s.gate.act v (s.partOf c.val) = true → r = s.readPlan c.val i.val →
      b = r.2.1.getD (((s.dramRead none (s.libBase c.val + 64 * fieldOf r.1 0 32) 64).1).getD []) → k = s.libraryCode c.val i.val r.1 b r.2.1.isSome →
      (∃ t, exec (.libraryAdd v c i) s = .next t ∧ t.rms.libCode = k ∧ t.rms.libCtx = c.val ∧ t.rms.libIndex = i.val ∧ t.event .pf pgRms 12 = true ∧
        (k = 0 → SMap.find? (t.ctx c.val).lib i.val = some { index := r.1, plan := b }) ∧
        (k ≠ 0 → SMap.find? (t.ctx c.val).lib i.val = none ∧ Sent.record (pageNo pgRms) 32 [c.val, 0x14] ∈ t.hub.out ∧ t.event .pf pgRms 10 = true) ∧
        (128 ≤ i.val → (t.ctx c.val).pass = false)) ∧
      ∃ t, exec (.libraryRemove v c i) s = .next t ∧ t.rms.libCode = 0 ∧ t.rms.libCtx = c.val ∧ t.rms.libIndex = i.val ∧ t.event .pf pgRms 12 = true ∧
        SMap.find? (t.ctx c.val).lib i.val = none ∧ (128 ≤ i.val → (t.ctx c.val).pass = false))

/-- On a running device, for a queue of a slot that a live context holds: THRESHER_JOB accepted joins the end of the queue, and at the
head of an empty one starts with its weight set; refused, on an empty queue, it delivers its zeros and raises JOB_REJECT.
WEIGHT_SET_LOAD keeps the set, or with an ALPHA above 16 faults the context with 0x12. The end of an item of the started head job
on a serving unit: with a check mismatch it is run again once, and the event is raised; otherwise the job counts the block (for an
LDPC block its iterations, failure and bits; for a polar word its bits, check and metric), and goes on to its next item, or after
the last delivers on its port. (What the decoders compute is a free function of their inputs, log 65.) (R254, R256, R264) -/
def Obligations.ThresherCommandsComplete : Prop :=
  (∀ (q : Fin 16) (e : Bool) (hd : Nat) (bl : List Nat) (pl : List Byte) (s : State) (c : Nat), s.stopped = false → s.slotCtx q.val = some c →
      (s.ctx c).live = true →
      ∃ t, exec (.thresherJob q e hd bl pl) s = .next t ∧
        (jobRefused e hd bl = false → s.thrQueue e q.val = [] →
          t.thrQueue e q.val = [{ header := hd, blocks := bl, payload := pl, started := true, wset := s.weightSet q.val (fieldOf hd 4 2) }]) ∧
        (jobRefused e hd bl = false → ∀ a l, s.thrQueue e q.val = a :: l → a.started = true → a.refused = false →
          t.thrQueue e q.val = a :: (l ++ [{ header := hd, blocks := bl, payload := pl }])) ∧
        (jobRefused e hd bl = true → s.thrQueue e q.val = [] → t.thrQueue e q.val = [] ∧ t.event .pf pgThr 10 = true ∧
          ({ header := hd, blocks := bl, payload := pl, refused := true } : ThrJob).deliver q.val ∈ t.hub.out)) ∧
  (∀ (q : Fin 16) (k : Fin 4) (w : Nat) (s : State) (c : Nat), s.stopped = false → s.slotCtx q.val = some c →
      ∃ t, exec (.weightSetLoad q k w) s = .next t ∧
        ((∀ i < 128, fieldOf w (16 * i) 5 ≤ 16) → t.weightSet q.val k.val = w % 2 ^ 2048) ∧
        ((∃ i < 128, 16 < fieldOf w (16 * i) 5) → (s.ctx c).live = true → (s.ctx c).fault = none →
          (t.ctx c).fault = some 0x12 ∧ Sent.record (pageNo pgRms) 32 [c, 0x12] ∈ t.hub.out)) ∧
  (∀ (q : Fin 16) (u : Fin 5) (b : Bool) (s : State) (c : Nat) (j : ThrJob) (rest : List ThrJob) (r : List Bool × Nat × Bool) (n : Nat) (d : List Bool) (bad : Bool), s.stopped = false → s.slotCtx q.val = some c → (s.ctx c).live = true →
      s.thrQueue false q.val = j :: rest → s.unitServes u.val = true → j.started = true → hKind j.header = 0 →
      r = Config.ldpcDecode j.header j.wset (j.blocks.getD j.next 0) (j.llrs j.next) →
      n = (if fieldOf j.header 3 1 = 1 then max 1 (min r.2.1 (hMaxIt j.header)) else hMaxIt j.header) → d = fitBits (hKprime j.header) r.1 →
      bad = (b || !r.2.2 || (decide (fieldOf j.header 31 1 = 1) && !Config.crcHolds 2 d)) →
      ∃ t, exec (.codeBlockDone q u b) s = .next t ∧ (b = true → j.again = false → t.thrQueue false q.val = { j with again := true, rerun := true } :: rest ∧ t.event .pf pgThr 8 = true) ∧
        (b = false ∨ j.again = true → ∀ g : ThrJob, g = { j with again := false, unit := u.val, next := j.next + 1, fails := j.fails + bit bad, itMax := max j.itMax n, itSum := j.itSum + n, bits := j.bits ++ (if fieldOf j.header 31 1 = 1 then d.take (hKprime j.header - 24) else d) } →
          (j.next + 1 < hBlocks j.header → t.thrQueue false q.val = g :: rest) ∧ (hBlocks j.header ≤ j.next + 1 → g.deliver q.val ∈ t.hub.out))) ∧
  (∀ (q : Fin 16) (u : Fin 5) (b : Bool) (s : State) (c : Nat) (j : ThrJob) (rest : List ThrJob) (r : List Bool × Bool × Nat), s.stopped = false → s.slotCtx q.val = some c → (s.ctx c).live = true →
      s.thrQueue false q.val = j :: rest → s.unitServes u.val = true → j.started = true → hKind j.header = 1 →
      r = Config.polarDecode j.header (j.llrs 0) →
      ∃ t, exec (.polarDecodeDone q u b) s = .next t ∧ (b = true → j.again = false → t.thrQueue false q.val = { j with again := true, rerun := true } :: rest ∧ t.event .pf pgThr 8 = true) ∧
        (b = false ∨ j.again = true → ∀ g : ThrJob, g = { j with again := false, unit := u.val, next := j.next + 1, bits := r.1, crcOk := r.2.1 && !b, metric := r.2.2, fails := bit (!(r.2.1 && !b)) } →
          g.deliver q.val ∈ t.hub.out)) ∧
  (∀ (q : Fin 16) (u : Fin 5) (b : Bool) (s : State) (c : Nat) (j : ThrJob) (rest : List ThrJob), s.stopped = false → s.slotCtx q.val = some c → (s.ctx c).live = true →
      s.thrQueue true q.val = j :: rest → s.unitServes u.val = true → j.started = true → 2 ≤ hKind j.header →
      ∃ t, exec (.encodeDone q u b) s = .next t ∧ (b = true → j.again = false → t.thrQueue true q.val = { j with again := true, rerun := true } :: rest ∧ t.event .pf pgThr 8 = true) ∧
        (b = false ∨ j.again = true → ∀ g : ThrJob, g = { j with again := false, unit := u.val, next := j.next + 1, fails := j.fails + bit b } →
          (j.next + 1 < hBlocks j.header → t.thrQueue true q.val = g :: rest) ∧ (hBlocks j.header ≤ j.next + 1 → g.deliver q.val ∈ t.hub.out)))

/-- On a running device: STEP_COMPLETE of a step in flight of a live context, all of whose tasks have ended, ends the step.
EVAL_RECORD of an EVAL step in flight of a Greenhouse context keeps the scores for its TARGET, sets PASS where enough was scored
without saturation or non-finite values and the candidate is within the margin, else clears it, and raises the event. For a
function that sees the owner: WSET_HASH begins hashing unless hashing is in progress, and with WSET_REPORT selects the entry
reported; CAPTURE_START begins a capture of that many steps and opens its debug session; CAPTURE_STOP ends it and raises the
event. WSET_DONE ends hashing, raises the event, and where the region could be read keeps the hash with HASH_OK. LOCKSTEP_MARK of
a lockstep context with a step in flight and no mark sets the mark to the second whole microsecond that follows; LOCKSTEP_EDGE at
or after it counts the edge, and where Plots slipped raises the event and marks the step. (R429, R315, R334, R336, R330, R331) -/
def Obligations.StepsEndAndAreTracedCompletely : Prop :=
  (∀ (c : Ctx) (n : Nat) (l : List (Nat × List Byte)) (a : List AllocDone) (b : List Bool) (x : Nat) (s : State) (y : StepSt), s.stopped = false →
      s.step? c.val n = some y → y.flying = true → (s.ctx c.val).live = true → (y.tasks.all fun z => z.done) = true →
      ∃ t, exec (.stepComplete c n l a b x) s = .next t ∧ ∃ w, t.step? c.val n = some w ∧ w.ended = true) ∧
  (∀ (c : Ctx) (n : Nat) (a b : Word) (k f x : Nat) (s : State) (y : StepSt) (q : Nat) (ok : Bool), s.stopped = false → s.step? c.val n = some y → s.isGh c.val = true →
      y.flying = true → fieldOf (leNat (y.body.take 64)) 0 2 = 1 → q = fieldOf (leNat (y.body.take 64)) 2 6 →
      ok = (decide (s.cfg pgRms 0x600 10 12 ≤ k ∧ Nat.land f (flSat + flNonfin) = 0) && numLe (fpNum b.toNat) (fpNum (fpMul a.toNat (marginWord (s.cfg pgRms 0x600 22 10))).1)) →
      ∃ t, exec (.evalRecord c n a b k f x) s = .next t ∧ (t.ctx q).pass = ok ∧ (t.ctx q).evalN = k ∧ (t.ctx q).evalFlags = f ∧ (t.ctx q).evalServe = a ∧
        (t.ctx q).evalMetric = b ∧ t.event .pf pgRms 15 = true) ∧
  (∀ (v : View) (k : Fin 8) (s : State), s.takes v = true → viewSees s.gate.act v (s.wsetPart k.val) = true →
      (∃ t, exec (.wsetHash v k) s = .next t ∧ t.rms.wsetBusy = (if s.rms.wsetBusy.isSome then s.rms.wsetBusy else some k.val) ∧
        SMap.get zeroUnlisted t.rms.wsetQ v.no = k.val) ∧
      ∃ t, exec (.wsetReport v k) s = .next t ∧ SMap.get zeroUnlisted t.rms.wsetQ v.no = k.val) ∧
  (∀ (s : State) (k : Nat) (r : Option (List Byte) × State), s.stopped = false → s.rms.wsetBusy = some k →
      r = s.dramRead none (dramBase + s.cfg pgRms (0x6A0 + 8 * k) 0 24 * 4096) (s.cfg pgRms (0x6A4 + 8 * k) 0 24 * 4096) →
      ∃ t, exec .wsetDone s = .next t ∧ t.rms.wsetBusy = none ∧ t.event .pf pgRms 16 = true ∧
        (∀ d, r.1 = some d → SMap.get flagUnlisted t.rms.wsetOk k = true ∧ SMap.get zeroUnlisted t.rms.wsetHash k = leNat (Config.sha256 d).reverse) ∧
        (r.1 = none → t.rms.wsetOk = r.2.rms.wsetOk ∧ t.rms.wsetHash = r.2.rms.wsetHash)) ∧
  (∀ (v : View) (n : Nat) (s : State), s.takes v = true → viewSees s.gate.act v (s.partOf (s.cfg pgRms 0x6E0 24 6)) = true →
      (s.rms.capLeft = 0 → n ≠ 0 → ∃ t, exec (.captureStart v n) s = .next t ∧ t.rms.capLeft = n ∧ t.rms.captured = 0 ∧ t.rms.capOfs = 0 ∧
        (4, 2 ^ s.partOf (s.cfg pgRms 0x6E0 24 6), s.cfg pgRms 0x6E0 24 6) ∈ t.sec.dbgOpen) ∧
      (s.rms.capLeft ≠ 0 → ∃ t, exec (.captureStop v) s = .next t ∧ t.rms.capLeft = 0 ∧ t.event .pf pgRms 19 = true)) ∧
  (∀ (c : Ctx) (x : Nat) (s : State), s.stopped = false → s.locked c.val = true → (s.ctx c.val).lockMark = none → (s.flyingStep c.val).isSome = true →
      ∃ t, exec (.lockstepMark c x) s = .next t ∧ (t.ctx c.val).lockMark = some ((max s.sdl.ref x / usRef + 2) * usRef) ∧ (t.ctx c.val).lockEdge = 0) ∧
  (∀ (c : Ctx) (l : List Plot) (x : Nat) (s : State) (m : Nat) (y : StepSt), s.stopped = false → s.locked c.val = true → (s.ctx c.val).lockMark = some m →
      m ≤ max s.sdl.ref x → s.flyingStep c.val = some y →
      ∃ t, exec (.lockstepEdge c l x) s = .next t ∧ (t.ctx c.val).lockEdge = (s.ctx c.val).lockEdge + 1 ∧
        ((∃ p ∈ l, p.val ∈ planPlots y.plan) → t.event .pf pgRms 17 = true ∧
          (t.ctx c.val).steps = (s.ctx c.val).steps.map fun z => if z.n = y.n then { z with flags := Nat.lor z.flags 8 } else z))

/-- PORST_RELEASE of a device whose rails are good ends power-on reset: the straps are sampled and start-up begins at step 1; with a
bad rail the device stays held. RAIL_FAULT of a bad rail holds the device with memory cleared; once the rails are good again the
device leaves power-on reset if PORST_N is high. PERST_ASSERT of a running device clears memory, the Plots, the contexts, the keys
and READY; while the device is stopped it notes the level. PERST_RELEASE then begins a start at step 4, in recovery mode at step
10. START_STEP_DONE of a step that passes goes on to the next, of step 10 sets READY; step 3 failing with its last variant enters
recovery mode. DEVICE_RECOVERY, owed and with running firmware, clears all but the always-on domain and DRAM, which stays as it
was where no fault log is kept in it, and begins at step 5. GK_WATCHDOG_EXPIRY, the core not halted, ends sessions and raises the
event. (R403, R461, R465, R467, R468, R475) -/
def Obligations.ResetsAndStartUpComplete : Prop :=
  (∀ (x : Nat) (s : State), s.stopped = false → s.hub.gkHalted = false →
      ∃ t, exec (.gkWatchdogExpiry x) s = .next t ∧ t.sec.sessions = [] ∧ t.sec.spdm = [] ∧ t.event .pf pgGkp 10 = true ∧ t.plots = s.plots ∧ t.mem = s.mem) ∧
  (∀ (a b : Fin 8) (s : State), s.pwr.porstHigh = false →
      (s.pwr.railBad = false → ∃ t, exec (.porstRelease a b) s = .next t ∧ t.held = false ∧ t.pwr.step = 1 ∧ t.pwr.start = (s.pwr.start + 1) % 2 ^ 32 ∧
        t.pwr.ringSize = a.val ∧ t.pwr.ringPos = b.val ∧ t.pwr.porstHigh = true) ∧
      (s.pwr.railBad = true → ∃ t, exec (.porstRelease a b) s = .next t ∧ t = { s with pwr := { s.pwr with porstHigh := true } })) ∧
  (∀ (a b : Fin 8) (s : State),
      (∃ t, exec (.railFault true a b) s = .next t ∧ t.held = true ∧ t.pwr.railBad = true ∧ t.mem = [] ∧ t.plots = []) ∧
      (s.pwr.railBad = true → s.pwr.porstHigh = true → ∃ t, exec (.railFault false a b) s = .next t ∧ t.held = false ∧ t.pwr.railBad = false ∧ t.pwr.step = 1)) ∧
  (∀ (x : Nat) (s : State),
      (s.stopped = true → ∃ t, exec (.perstAssert x) s = .next t ∧ t = { s with pwr := { s.pwr with perst := true } }) ∧
      (s.stopped = false → ∃ t, exec (.perstAssert x) s = .next t ∧ t.pwr.perst = true ∧ t.pwr.ready = false ∧ t.mem = [] ∧ t.plots = [] ∧ t.rms = {} ∧ t.sec.keys = [])) ∧
  (∀ (x : Nat) (s : State), s.stopped = false → s.pwr.perst = true → s.pwr.step = 0 → s.pwr.ready = false → s.gk.fwRun = true ∨ s.pwr.recovery = true →
      ∃ t, exec (.perstRelease x) s = .next t ∧ t.pwr.perst = false ∧ t.pwr.step = (if s.pwr.recovery then 10 else 4)) ∧
  (∀ (r : StartResult) (b : Bool) (x : Nat) (s : State) (k : Nat), s.stopped = false → s.pwr.step = k → k ≠ 0 →
      (k ≤ 9 → r.ok = true → ∃ t, exec (.startStepDone r b x) s = .next t ∧ t.pwr.step = k + 1) ∧
      (k = 10 → s.pwr.perst = false → r.ok = true → ∃ t, exec (.startStepDone r b x) s = .next t ∧ t.pwr.step = 0 ∧ t.pwr.ready = true) ∧
      (k = 3 → s.variant 3 ≠ 0 → r.ok = false → ∃ t, exec (.startStepDone r b x) s = .next t ∧ t.pwr.step = 10 ∧ t.pwr.recovery = true ∧ t.gk.fwRun = false)) ∧
  (∀ (c b : Bool) (x : Nat) (s u : State), s.stopped = false → u = s.advance x → s.gk.fwRun = true → s.hub.gkHalted = false → s.pwr.perst = false →
      c = true ∨ s.flt.recoverOwed = true ∨ (List.range 8).any u.resetStuck = true →
      ∃ t, exec (.deviceRecovery c b x) s = .next t ∧ t.pwr.recovering = true ∧ t.pwr.step = 5 ∧ t.plots = [] ∧ t.rms = {} ∧ t.pwr.ready = false ∧
        (∀ e ∈ t.mem, dramBase ≤ e.1) ∧ (s.cfg pgFlt 0x104 24 8 = 0 → t.mem = s.mem.filter fun e => decide (dramBase ≤ e.1)))

/-- On a running device, for a live context whose partition is active: DESCRIPTOR_FETCH in the lead window of a real-time slot, whose
step is not there yet, requests the descriptor and brings the step of that slot into being, with the header and body read where
the header is that step's, else without and with the event raised. DESCRIPTOR_POLL of a non-real-time context whose next slot
holds that step's header brings that step into being and moves on to the next. WORK_LIST_BUILD of a step neither built nor ended
nor owed builds it: a step without a descriptor takes the Plan of its STANDING entry, and with none usable or NO_DESC does not
run. STEP_BOUNDARY of a built step whose context is resident and may dispatch, at or after a real-time step's boundary, dispatches
it with the tasks of its Plan; one not yet built stays owed. (R423, R280, R271) -/
def Obligations.StepsComeIntoBeing : Prop :=
  (∀ (c : Ctx) (k : Int) (hd : Option Nat) (bd : Option (List Byte)) (x n : Nat) (b : Int) (s u : State), s.stopped = false → u = s.advance x → n = stepNo k →
      b = u.boundaryOf c.val k → (s.ctx c.val).live = true → u.realTime c.val = true → u.gridEn = true → u.partActive c.val = true → s.step? c.val n = none →
      b - (leadUs u.gate.act c.val * usRef : Nat) ≤ u.sdl.dev → (u.sdl.dev : Int) < b →
      ∃ t, exec (.descriptorFetch c k hd bd x) s = .next t ∧
        (∀ h d, hd = some h → bd = some d → headerOk h n = true → t.step? c.val n = some { n := n, slotK := k, boundary := b, header := some h, body := d }) ∧
        ((∀ h d, hd = some h → bd = some d → headerOk h n = false) → t.step? c.val n = some { n := n, slotK := k, boundary := b })) ∧
  (∀ (c : Ctx) (hd : Nat) (bd : List Byte) (x n : Nat) (s u : State), s.stopped = false → u = s.advance x → n = (s.ctx c.val).next → n < 2 ^ 32 →
      (s.ctx c.val).live = true → u.realTime c.val = false → u.partActive c.val = true → s.step? c.val n = none → headerOk hd n = true →
      ∃ t, exec (.descriptorPoll c (some hd) (some bd) x) s = .next t ∧ (t.ctx c.val).next = (n + 1) % 2 ^ 32 ∧
        t.step? c.val n = some { n := n, slotK := n, boundary := u.sdl.dev, header := some hd, body := bd }) ∧
  (∀ (c : Ctx) (n hash x : Nat) (s u : State) (y : StepSt), s.stopped = false → u = s.advance x → s.step? c.val n = some y → y.built = false → y.ended = false →
      y.owed = false → (s.ctx c.val).live = true →
      ∃ t, exec (.workListBuild c n hash x) s = .next t ∧ ∃ w, t.step? c.val n = some w ∧ w.built = true ∧
        (y.header = none → ∀ e, u.libEntry c.val (u.selIndex c.val (u.standing c.val)) = some e → u.noDesc c.val = false → w.plan = e.plan ∧ w.grants = [] ∧ w.noRun = y.noRun) ∧
        (y.header = none → u.noDesc c.val = true ∨ u.libEntry c.val (u.selIndex c.val (u.standing c.val)) = none → w.noRun = true)) ∧
  (∀ (c : Ctx) (n x : Nat) (s u : State) (y : StepSt), s.stopped = false → u = s.advance x → (s.ctx c.val).rollback = false → s.step? c.val n = some y → y.dispatched = false →
      y.ended = false → (s.ctx c.val).live = true → (s.ctx c.val).st ≠ .deferred → u.realTime c.val = false ∨ y.boundary ≤ u.sdl.dev →
      (y.built = true → y.noRun = false → u.mayDispatch c.val = true → (s.ctx c.val).resident = true →
        ∃ t, exec (.stepBoundary c n x) s = .next t ∧ ∃ w, t.step? c.val n = some w ∧ w.dispatched = true ∧ w.late = false ∧ w.tasks.length = planTasks y.plan) ∧
      (y.built = false → ∃ t, exec (.stepBoundary c n x) s = .next t ∧ t.step? c.val n = some { y with owed := true }))

/-- On a running device: CONTEXT_SWAP_OUT of a live resident context, by a function that sees its partition, requests its pre-emption.
PREEMPTION_COMPLETE, once its tasks, Sprouts and requests have stopped, takes the context out of its slot with its state put
aside. SWAP_IN of a context that waits for its windows in a slot that is its own makes it resident there, where nothing blocks the
placement and no step is owed; a placement that the Commit Gate refuses faults the context with 0x1B. CONTEXT_BLOCKED of a running
context that waits makes it BLOCKED, while no context is DEFERRED. CONTEXT_TEARDOWN of a live context with a fault begins its
teardown, flushes its Thresher queues and raises the event; TEARDOWN_COMPLETE, once no request is in flight, leaves it FAULTED
without a slot. CONTEXT_RESTART of a FAULTED context none of whose entries is busy makes it SWAPPED with no step. (R270, R272,
R291, R301, R502) -/
def Obligations.SlotsComplete : Prop :=
  (∀ (v : View) (c : Ctx) (s : State), s.takes v = true → viewSees s.gate.act v (s.partOf c.val) = true →
      ((s.ctx c.val).resident = true → (s.ctx c.val).live = true →
        ∃ t, exec (.contextSwapOut v c) s = .next t ∧ t.ctx c.val = { s.ctx c.val with st := .swapping, preempting := true }) ∧
      ((s.ctx c.val).st = .faulted → s.entriesBusy c.val = false →
        ∃ t, exec (.contextRestart v c) s = .next t ∧ t.ctx c.val = { s.ctx c.val with st := .swapped, carried := false, steps := [] })) ∧
  (∀ (c : Ctx) (l : List CarryRow) (x k : Nat) (s u : State), s.stopped = false → u = s.advance x → (s.ctx c.val).slot = some k → (s.ctx c.val).preempting = true →
      (s.ctx c.val).live = true → (s.ctx c.val).allStopped = true → u.quiet c.val = true → u.sproutsStopped c.val = true →
      ∃ t, exec (.preemptionComplete c l x) s = .next t ∧ (t.ctx c.val).slot = none ∧ (t.ctx c.val).preempting = false ∧ (t.ctx c.val).carried = true) ∧
  (∀ (c : Ctx) (ws : List WinPlace) (l : List CarryRow) (x k : Nat) (s u : State), s.stopped = false → u = s.advance x → (s.ctx c.val).awaitSlot = some k →
      (s.ctx c.val).swapInWait = true → (s.ctx c.val).live = true →
      (ws.any (fun w => u.placeRefused c.val w) = true → (s.ctx c.val).fault = none →
        ∃ t, exec (.swapIn c ws l x) s = .next t ∧ (t.ctx c.val).fault = some 0x1B) ∧
      (ws.any (fun w => u.placeRefused c.val w) = false → SMap.get zeroUnlisted s.rms.slot k = c.val + 1 → u.partHeld (u.partOf c.val) = false →
        ws.all (fun w => u.placeOk c.val k w) = true → (s.ctx c.val).steps.filter (fun y => y.owed && !y.dispatched && !y.ended) = [] →
        ∃ t, exec (.swapIn c ws l x) s = .next t ∧ (t.ctx c.val).slot = some k ∧ (t.ctx c.val).awaitSlot = none ∧ (t.ctx c.val).swapInWait = false ∧
          (t.ctx c.val).st = (if (s.ctx c.val).steps.any (·.flying) then .running else .idle))) ∧
  (∀ (c : Ctx) (x : Nat) (s u : State), s.stopped = false → u = s.advance x → (s.ctx c.val).st = .running → (∀ d < 64, (s.ctx d).st ≠ .deferred) →
      ((u.furrowsOf c.val).any fun p => decide ((u.furrow p.1 p.2).st = .pageWait)) = true ∨
        (u.irg.requests.any fun r => decide (r.ctx = c.val ∧ (r.pool = 0 ∨ r.pool = 9 ∨ r.pool = 10) ∧ r.issued + usRef < u.sdl.ref)) = true ∨
        ((s.ctx c.val).steps.any fun y => y.flying && y.tasks.any (·.stopped)) = true →
      ∃ t, exec (.contextBlocked c x) s = .next t ∧ (t.ctx c.val).st = .blocked) ∧
  (∀ (c : Ctx) (x : Nat) (s : State), s.stopped = false → (s.ctx c.val).fault.isSome = true → (s.ctx c.val).live = true →
      ∃ t, exec (.contextTeardown c x) s = .next t ∧ (t.ctx c.val).tearing = true ∧ (t.ctx c.val).tearAt = max s.sdl.ref x ∧ t.event .pf pgRms 8 = true ∧
        ∀ k, (s.ctx c.val).slot = some k → SMap.get queueUnlisted t.thr.dec k = [] ∧ SMap.get queueUnlisted t.thr.enc k = []) ∧
  (∀ (c : Ctx) (x : Nat) (s u : State), s.stopped = false → u = s.advance x → (s.ctx c.val).tearing = true → u.quiet c.val = true →
      ∃ t, exec (.teardownComplete c x) s = .next t ∧ (t.ctx c.val).st = .faulted ∧ (t.ctx c.val).slot = none ∧ (t.ctx c.val).tearing = false ∧
        (t.ctx c.val).fault = none)

/-- A command that a function may make on a running device: RMS_SLOT_Q and TRP_SLOT_Q select a slot in that view; RMS_ACCT_Q and
RMS_GH_EVAL_Q select a context in that view, where the view sees its partition. ROSTER_WRITE reports its result, raises CMD_DONE
and enters the view's entry where the result is 0, else also raises the error event and leaves the Roster. ROSTER_CLEAR of an
entry that the view may clear clears its VALID bit with result 0, else reports 1 and leaves the Roster. (Events 8 and 9 of the
Roster page.) (R303, R304, R305, R320) -/
def Obligations.QueriesAndRosterComplete : Prop :=
  (∀ (v : View) (w : Word) (s : State), s.takes v = true →
      (∃ t, exec (.rmsSlotQ v w) s = .next t ∧ SMap.get zeroUnlisted t.rms.slotQ v.no = w.toNat % 16) ∧
      (∃ t, exec (.trpSlotQ v w) s = .next t ∧ SMap.get zeroUnlisted t.rms.trpQ v.no = w.toNat % 16) ∧
      (viewSees s.gate.act v (s.partOf (w.toNat % 64)) = true →
        (∃ t, exec (.rmsAcctQ v w) s = .next t ∧ SMap.get zeroUnlisted t.rms.acctQ v.no = w.toNat % 256) ∧
        ∃ t, exec (.rmsGhEvalQ v w) s = .next t ∧ SMap.get zeroUnlisted t.rms.ghQ v.no = w.toNat % 64)) ∧
  (∀ (v : View) (i : Fin 4096) (s : State) (x r : Nat), s.takes v = true → x = s.rstEntry v → r = s.rosterResult v i.val x →
      ∃ t, exec (.rosterWrite v i) s = .next t ∧ t.rms.rstResult = r ∧ t.event .pf pgRst 8 = true ∧
        (r = 0 → SMap.get zeroUnlisted t.rms.roster i.val = x) ∧ (r ≠ 0 → t.rms.roster = s.rms.roster ∧ t.event .pf pgRst 9 = true)) ∧
  (∀ (v : View) (i : Fin 4096) (s : State) (x : Nat), s.takes v = true → x = SMap.get zeroUnlisted s.rms.roster i.val →
      (fieldOf x 0 1 = 0 ∨ (viewSees s.gate.act v (s.partOf (fieldOf x 1 6)) = true ∧ (isVf v = false ∨ s.partActive (fieldOf x 1 6) = true)) →
        ∃ t, exec (.rosterClear v i) s = .next t ∧ t.rms.rstResult = 0 ∧ SMap.get zeroUnlisted t.rms.roster i.val = withField x 0 1 0) ∧
      (fieldOf x 0 1 = 1 → viewSees s.gate.act v (s.partOf (fieldOf x 1 6)) = false ∨ (isVf v = true ∧ s.partActive (fieldOf x 1 6) = false) →
        ∃ t, exec (.rosterClear v i) s = .next t ∧ t.rms.rstResult = 1 ∧ t.rms.roster = s.rms.roster))

/-- On a running device: a frame with a bad CRC on a link in service is answered by a negative acknowledgement of the next expected
number, and the ring stays; a good one of that number, with nothing in it that goes on, is acknowledged, the next number is
expected, and the frames it acknowledges leave the resend buffer; a good one of another number leaves the number. RING_ACK_TIMEOUT
of a port whose wait is over retrains it with an empty resend buffer and raises RETRAIN, else leaves the ring. RING_TRAIN_DONE of
an own training port with the neighbour named and the ring's size brings it up; with another size it raises MISMATCH and leaves
the ports; elsewhere it records the link's cost. RING_LINK_LOSS takes the own link out of service with nothing held, or clears the
link elsewhere. LANE_SWAP sets PSF_LANE_MAP to the lane with the spare in use; with the spare in use for another lane the port
retrains on four lanes and DERATE is raised; for the same lane nothing changes. ROUTE_AWAY and RESUME by the PF set and clear the
port's route-away, and ROUTE_AWAY_DONE, once owed and the resend buffer empty, is reported. (R341, R343, R344, R345, R352) -/
def Obligations.RingLinksComplete : Prop :=
  (∀ (east : Bool) (seq ack rx tx x : Nat) (s : State), s.stopped = false → (s.ring.port east).st = .up →
      (∀ nack onward, ∃ t, exec (.ringFrameReceive east false seq ack nack onward rx tx x) s = .next t ∧ t.ring = s.ring ∧
        Sent.ring (bit (!east)) [0, (s.ring.port east).rxSeq, 1] ∈ t.hub.out) ∧
      (seq = (s.ring.port east).rxSeq → ∃ t, exec (.ringFrameReceive east true seq ack false [] rx tx x) s = .next t ∧
        (t.ring.port east).rxSeq = (seq + 1) % 4096 ∧ (t.ring.port east).hold = ackFrames (s.ring.port east).hold ack ∧
        Sent.ring (bit (!east)) [0, seq, 0] ∈ t.hub.out) ∧
      (seq ≠ (s.ring.port east).rxSeq → ∀ onward, ∃ t, exec (.ringFrameReceive east true seq ack false onward rx tx x) s = .next t ∧
        (t.ring.port east).rxSeq = (s.ring.port east).rxSeq ∧ (t.ring.port east).hold = ackFrames (s.ring.port east).hold ack)) ∧
  (∀ (east : Bool) (x : Nat) (s : State) (p : RingPort), s.stopped = false → p = s.ring.port east →
      ((p.st = .up ∧ p.hold ≠ [] ∧ (p.ackAt + 10000 * nsRef ≤ max s.sdl.ref x ∨ ∃ f ∈ p.hold, 8 ≤ f.resent) →
        ∃ t, exec (.ringAckTimeout east x) s = .next t ∧ t.ring.port east = { p with st := s.unlinked, hold := [], rate := 3 } ∧
          t.event .pf pgPsf 10 = true) ∧
      (p.st ≠ .up ∨ p.hold = [] ∨ (max s.sdl.ref x < p.ackAt + 10000 * nsRef ∧ ∀ f ∈ p.hold, f.resent < 8) →
        ∃ t, exec (.ringAckTimeout east x) s = .next t ∧ t.ring = s.ring))) ∧
  (∀ (east : Bool) (far : Fin 8) (rate : Nat) (s : State) (n : Nat), s.stopped = false → n = s.ringN → (s.ring.port east).st = .training →
      (far.val = (if east then (s.ringPos + 1) % n else (s.ringPos + n - 1) % n) → rate = 0 ∨ rate = s.cfg pgPsf 0x100 1 1 →
        ∃ t, exec (.ringTrainDone (.own east) far (n - 1) rate) s = .next t ∧
          t.ring.port east = { s.ring.port east with st := .up, far := far.val, rate := rate, rxSeq := 0, txSeq := 0 }) ∧
      ∀ size, size ≠ n - 1 → ∃ t, exec (.ringTrainDone (.own east) far size rate) s = .next t ∧ t.ring = s.ring ∧ t.event .pf pgPsf 9 = true) ∧
  (∀ (w far : Fin 8) (size rate : Nat) (east : Bool) (s : State), s.stopped = false →
      (∃ t, exec (.ringTrainDone (.other w) far size rate) s = .next t ∧ SMap.get zeroUnlisted t.ring.links w.val =
        rateCost rate + 8 * bit (decide (far.val = (w.val + 2) % s.ringN ∧ 2 < s.ringN))) ∧
      (∃ t, exec (.ringLinkLoss (.other w)) s = .next t ∧ SMap.get zeroUnlisted t.ring.links w.val = 0) ∧
      ∃ t, exec (.ringLinkLoss (.own east)) s = .next t ∧ t.ring.port east = { s.ring.port east with st := s.unlinked, hold := [], rate := 3 }) ∧
  (∀ (east : Bool) (lane : Fin 8) (s : State) (off : Nat), s.stopped = false → off = 0x110 + 4 * bit (!east) →
      (s.flag pgPsf off 3 = false → ∃ t, exec (.laneSwap east lane) s = .next t ∧
        SMap.get actUnlisted t.gate.act (regAddr pgPsf off) = BitVec.ofNat 32 (lane.val + 8) ∧ t.ring = s.ring) ∧
      (s.flag pgPsf off 3 = true → s.cfg pgPsf off 0 3 = lane.val → exec (.laneSwap east lane) s = .next s) ∧
      (s.flag pgPsf off 3 = true → s.cfg pgPsf off 0 3 ≠ lane.val → ∃ t, exec (.laneSwap east lane) s = .next t ∧ t.gate = s.gate ∧
        t.ring.port east = { s.ring.port east with st := s.unlinked, hold := [], rate := 3, x4 := true } ∧
        t.event .pf pgPsf 10 = true ∧ t.event .pf pgPsf 14 = true ∧ Sent.record (pageNo pgPsf) 33 [bit (!east), lane.val] ∈ t.hub.out)) ∧
  (∀ (v : View) (east : Bool) (s : State), s.takes v = true → isVf v = false →
      (∃ t, exec (.routeAway v east) s = .next t ∧ t.ring.port east = { s.ring.port east with away := true, awayOwed := true }) ∧
      ∃ t, exec (.resume v east) s = .next t ∧ t.ring.port east = { s.ring.port east with away := false, awayOwed := false }) ∧
  (∀ (east : Bool) (s : State) (p : RingPort), s.stopped = false → p = s.ring.port east →
      (p.awayOwed = true ∧ (p.hold = [] ∨ p.st ≠ .up) → ∃ t, exec (.routeAwayDone east) s = .next t ∧
        t.ring.port east = { p with awayOwed := false } ∧ t.event .pf pgPsf 12 = true) ∧
      (p.awayOwed = false ∨ (p.hold ≠ [] ∧ p.st = .up) → exec (.routeAwayDone east) s = .next s))

/-- On a running device, for a packet without protection whose sender is reached by a port and whose partition sends without
protection: RING_READ and RING_WRITE of a context that has no slot are answered NOT_RESIDENT, those whose place the partition does
not accept DENIED, and memory stays; a read of a place in DRAM is answered with the data read, and a write puts its data into DRAM
and is answered OK. RING_RESP for no request that is held leaves the Irrigators; one of another generation leaves them too and
raises LATE_CPL; NOT_RESIDENT marks the request, which NOT_RESIDENT_RESEND takes up again 1 µs after it was last sent, under the
same tag; DENIED or UNREACHABLE of a live request faults its Furrow, and the data of an OK response whose Furrow has no credit for
their tile join its staging. (R346, R348, R349, R350) -/
def Obligations.RingPacketsComplete : Prop :=
  (∀ (h : Nat) (body : List (BitVec 8)) (s u : State) (c : Nat) (east : Bool), s.stopped = false → c = fieldOf h 24 6 →
      fieldOf h 11 1 = 0 → s.cfg pgPsf (0x200 + 0x10 * s.partOf c) 0 1 = 0 → s.routeTo (fieldOf h 4 3) = some east →
      u = s.bumpBy pgPsf 0x80 none (32 + body.length) →
      ((s.ctx c).slot = none →
        (∃ t, exec (.ringRead h body) s = .next t ∧ t.mem = s.mem ∧ Sent.ring (bit (!east)) [(natLe 32 (ringHeader 3 s.ringPos (fieldOf h 4 3) 0 0 c (fieldOf h 30 1) (fieldOf h 32 8) (fieldOf h 40 4)
        (([] : List (BitVec 8)).length - 1) 1 (fieldOf h 64 40) 0) ++ ([] : List (BitVec 8))).length,
        leNat (natLe 32 (ringHeader 3 s.ringPos (fieldOf h 4 3) 0 0 c (fieldOf h 30 1) (fieldOf h 32 8) (fieldOf h 40 4)
          (([] : List (BitVec 8)).length - 1) 1 (fieldOf h 64 40) 0) ++ ([] : List (BitVec 8)))] ∈ t.hub.out) ∧
        ∃ t, exec (.ringWrite h body) s = .next t ∧ t.mem = s.mem ∧ Sent.ring (bit (!east)) [(natLe 32 (ringHeader 3 s.ringPos (fieldOf h 4 3) 0 0 c (fieldOf h 30 1) (fieldOf h 32 8) (fieldOf h 40 4)
        (([] : List (BitVec 8)).length - 1) 1 (fieldOf h 64 40) 0) ++ ([] : List (BitVec 8))).length,
        leNat (natLe 32 (ringHeader 3 s.ringPos (fieldOf h 4 3) 0 0 c (fieldOf h 30 1) (fieldOf h 32 8) (fieldOf h 40 4)
          (([] : List (BitVec 8)).length - 1) 1 (fieldOf h 64 40) 0) ++ ([] : List (BitVec 8)))] ∈ t.hub.out) ∧
      ∀ k, (s.ctx c).slot = some k →
        (u.packetPlace h c (2 * k + fieldOf h 30 1) (fieldOf h 48 8 + 1) false = none →
          ∃ t, exec (.ringRead h body) s = .next t ∧ t.mem = s.mem ∧ Sent.ring (bit (!east)) [(natLe 32 (ringHeader 3 s.ringPos (fieldOf h 4 3) 0 0 c (fieldOf h 30 1) (fieldOf h 32 8) (fieldOf h 40 4)
        (([] : List (BitVec 8)).length - 1) 2 (fieldOf h 64 40) 0) ++ ([] : List (BitVec 8))).length,
        leNat (natLe 32 (ringHeader 3 s.ringPos (fieldOf h 4 3) 0 0 c (fieldOf h 30 1) (fieldOf h 32 8) (fieldOf h 40 4)
          (([] : List (BitVec 8)).length - 1) 2 (fieldOf h 64 40) 0) ++ ([] : List (BitVec 8)))] ∈ t.hub.out) ∧
        (u.packetPlace h c (2 * k + fieldOf h 30 1) (fieldOf h 48 8 + 1) true = none →
          ∃ t, exec (.ringWrite h body) s = .next t ∧ t.mem = s.mem ∧ Sent.ring (bit (!east)) [(natLe 32 (ringHeader 3 s.ringPos (fieldOf h 4 3) 0 0 c (fieldOf h 30 1) (fieldOf h 32 8) (fieldOf h 40 4)
        (([] : List (BitVec 8)).length - 1) 2 (fieldOf h 64 40) 0) ++ ([] : List (BitVec 8))).length,
        leNat (natLe 32 (ringHeader 3 s.ringPos (fieldOf h 4 3) 0 0 c (fieldOf h 30 1) (fieldOf h 32 8) (fieldOf h 40 4)
          (([] : List (BitVec 8)).length - 1) 2 (fieldOf h 64 40) 0) ++ ([] : List (BitVec 8)))] ∈ t.hub.out) ∧
        (∀ a d w, u.packetPlace h c (2 * k + fieldOf h 30 1) (fieldOf h 48 8 + 1) false = some (.dram a) →
          u.dramRead (some c) a (fieldOf h 48 8 + 1) = (some d, w) →
          ∃ t, exec (.ringRead h body) s = .next t ∧ Sent.ring (bit (!east)) [(natLe 32 (ringHeader 3 s.ringPos (fieldOf h 4 3) 0 0 c (fieldOf h 30 1) (fieldOf h 32 8) (fieldOf h 40 4)
        (d.length - 1) 0 (fieldOf h 64 40) 0) ++ d).length,
        leNat (natLe 32 (ringHeader 3 s.ringPos (fieldOf h 4 3) 0 0 c (fieldOf h 30 1) (fieldOf h 32 8) (fieldOf h 40 4)
          (d.length - 1) 0 (fieldOf h 64 40) 0) ++ d)] ∈ t.hub.out) ∧
        (∀ a, u.packetPlace h c (2 * k + fieldOf h 30 1) (fieldOf h 48 8 + 1) true = some (.dram a) →
          ∃ t, exec (.ringWrite h body) s = .next t ∧
            t.mem = (u.dramWrite (some c) a (natLe (fieldOf h 48 8 + 1) (leNat body))).mem ∧ Sent.ring (bit (!east)) [(natLe 32 (ringHeader 3 s.ringPos (fieldOf h 4 3) 0 0 c (fieldOf h 30 1) (fieldOf h 32 8) (fieldOf h 40 4)
        (([] : List (BitVec 8)).length - 1) 0 (fieldOf h 64 40) 0) ++ ([] : List (BitVec 8))).length,
        leNat (natLe 32 (ringHeader 3 s.ringPos (fieldOf h 4 3) 0 0 c (fieldOf h 30 1) (fieldOf h 32 8) (fieldOf h 40 4)
          (([] : List (BitVec 8)).length - 1) 0 (fieldOf h 64 40) 0) ++ ([] : List (BitVec 8)))] ∈ t.hub.out)) ∧
  (∀ (east : Bool) (h x : Nat) (body : List (BitVec 8)) (s : State) (pool : Nat), s.stopped = false → fieldOf h 11 1 = 0 →
      pool = (if east then 9 else 10) →
      (s.request? pool (fieldOf h 32 8) = none → ∃ t, exec (.ringResp east h body x) s = .next t ∧ t.irg = s.irg) ∧
      ∀ r, s.request? pool (fieldOf h 32 8) = some r →
        (r.gen ≠ fieldOf h 40 4 → ∃ t, exec (.ringResp east h body x) s = .next t ∧ t.irg = s.irg ∧ t.event .pf (pgIrg r.irg) 13 = true) ∧
        (r.gen = fieldOf h 40 4 → s.cfg pgPsf (0x200 + 0x10 * s.partOf r.ctx) 0 1 = 0 →
          (fieldOf h 56 3 = 1 → ∃ t, exec (.ringResp east h body x) s = .next t ∧
            t.irg = { s.irg with requests := s.irg.requests.map fun (q : Request) => if q = r then { q with notRes := true } else q }) ∧
          (2 ≤ fieldOf h 56 3 → r.dead = false → ∃ t, exec (.ringResp east h body x) s = .next t ∧ (t.furrow r.irg r.furrow).st = .faulted) ∧
          ∀ k o q, fieldOf h 56 3 = 0 → r.dead = false → r.data = none → r.spill = false →
            s.srcPlace r.irg (s.furrow r.irg r.furrow) r.src r.len = .peer k o →
            q = { tile := r.tile, dst := r.dst, data := natLe r.len (leNat body), pos := r.pos, xlat := r.dxlat } →
            (s.furrow r.irg r.furrow).ready q = false → ∃ t, exec (.ringResp east h body x) s = .next t ∧
              (t.furrow r.irg r.furrow).stage = (s.furrow r.irg r.furrow).stage ++ [q])) ∧
  (∀ (east : Bool) (tag : Fin 256) (x : Nat) (s : State) (pool : Nat), s.stopped = false → pool = (if east then 9 else 10) →
      (s.request? pool tag.val = none → ∃ t, exec (.notResidentResend east tag x) s = .next t ∧ t.irg = s.irg) ∧
      ∀ r, s.request? pool tag.val = some r →
        (r.notRes = true ∧ r.sentAt + 1000 * nsRef ≤ max s.sdl.ref x → ∃ t, exec (.notResidentResend east tag x) s = .next t ∧
          t.irg.requests = s.irg.requests.map fun (q : Request) => if q = r then { r with notRes := false, sentAt := max s.sdl.ref x } else q) ∧
        (r.notRes = false ∨ max s.sdl.ref x < r.sentAt + 1000 * nsRef → ∃ t, exec (.notResidentResend east tag x) s = .next t ∧ t.irg = s.irg))

/-- On a running device, from the state in which the time and the ingress level are taken in: a frame that ends a dropped packet, or
comes on a port that is down, leaves the Turnstile; one with a bad FCS or length counts as an error; a PTP event message is
stamped; an ESMC PDU is posted; a U-plane message of a matched flow leaves that flow's sequence number. TD_MEAS_TIMER sends a
Request and a Remote Request to a radio unit that is due, and t1 is kept; else nothing changes. A C-plane message of no flow only
counts; one before its window joins the hold queue; one within it is sent; one after it raises CP_LATE. CP_HOLD_RELEASE leaves in
the queue those whose window has not opened. DELAY_REQ_INTERVAL sends a Delay_Req and keeps its stamp. LINK_CHANGE sets PORT_UP,
PORT_RETRAIN_DONE of a port that retrains ends it in service, else nothing changes. TRN_UNQUAR by a view that sees the flow
releases it, and TRN_RU_Q selects a radio unit. (R214, R215, R218, R219, R221, R222, R232, R234) -/
def Obligations.FramesAndMessagesComplete : Prop :=
  (∀ (port : Fin 16) (f : Frame) (level x : Nat) (full : Bool) (cons : Option Nat) (s u : State), s.stopped = false →
      u = ((s.advance x).setLevel port.val level).noteShed port.val false →
      (u.dropsRest port.val = true → ∃ t, exec (.frameReceive port f level full cons x) s = .next t ∧ t.trn = u.trn ∧ t.hub = u.hub ∧
        (t.group port.val).dropping = false) ∧
      (u.dropsRest port.val = false →
        (u.portUp port.val = false → exec (.frameReceive port f level full cons x) s = .next u) ∧
        (u.portUp port.val = true →
          (f.fcsOk = false ∨ f.len < 64 ∨ u.cfg pgTrn (0x200 + 0x10 * port.val) 3 14 < f.len →
            ∃ t, exec (.frameReceive port f level full cons x) s = .next t ∧ t.trn = u.trn ∧
              t = u.bump pgTrn 0x48 (some (u.cfg pgTrn (0x200 + 0x10 * port.val) 0 3))) ∧
          (f.fcsOk = true → 64 ≤ f.len → f.len ≤ u.cfg pgTrn (0x200 + 0x10 * port.val) 3 14 → f.vids.length < 2 →
            (∀ d kind seq ts corr, f.bodies = [.ptp d kind seq ts corr] → ptpEvent kind = true →
              ∃ t, exec (.frameReceive port f level full cons x) s = .next t ∧ SMap.get zeroUnlisted t.sdl.rxStamp port.val =
                u.rxWord port.val (u.ptpClock port.val d).1 (u.ptpClock port.val d).2 seq) ∧
            (∀ pdu, f.bodies = [.esmc pdu] → ∃ t, exec (.frameReceive port f level full cons x) s = .next t ∧ t.trn = u.trn ∧
              Sent.record (pageNo pgSdl) 38 [port.val, pdu] ∈ t.hub.out) ∧
            ∀ m r fl, f.bodies = [.uplane m] → f.sec = none → m.hdrOk = true → u.ruFor? port.val f = some r → u.ruCfg r 0 21 1 = 0 →
              u.flowOf? r m.eaxc m.down = some fl → ∃ t, exec (.frameReceive port f level full cons x) s = .next t ∧
                (t.flowSt fl).seq = m.seq % 256 + 1)))) ∧
  (∀ (ru : Fin 48) (two : Bool) (taken x : Nat) (s u : State) (y : RuSt) (due : Bool), s.stopped = false → u = s.advance x →
      y = u.ruSt ru.val → due = (u.ruEn ru.val && decide (u.ruCfg ru.val 0 23 1 = 1) && u.portUp (u.ruPort ru.val) &&
        decide (y.tdAt = 0 ∨ y.tdAt - 1 + 10 ^ 8 * nsRef ≤ u.sdl.ref)) →
      (due = false → exec (.tdMeasTimer ru two taken x) s = .next u) ∧
      (due = true → ∃ t, exec (.tdMeasTimer ru two taken x) s = .next t ∧ (t.ruSt ru.val).tdAt = u.sdl.ref + 1 ∧
        (t.ruSt ru.val).seq5 = (y.seq5 + 1) % 2 ^ 16 ∧
        (two = false → (t.ruSt ru.val).reqT1 = some (y.seq5, stampOf u.sdl.dev (u.asym (u.ruPort ru.val) 0))) ∧
        (two = false → u.ruCfg ru.val 0 21 1 = 0 →
          Sent.message (u.ruPort ru.val) 2 [y.seq5, stampOf u.sdl.dev (u.asym (u.ruPort ru.val) 0), 0] ∈ t.hub.out ∧
          Sent.message (u.ruPort ru.val) 3 [y.seq5] ∈ t.hub.out))) ∧
  (∀ (m : CpMsg) (x : Nat) (s u : State), s.stopped = false → u = s.advance x →
      ((∀ f < 1024, ¬ (u.flowCfg f 0 0 1 = 1 ∧ u.flowCfg f 0 1 16 = m.eaxc ∧ u.flowCfg f 0 23 1 = bit m.down ∧ u.ruEn (u.flowRu f) = true)) →
        exec (.cplaneMessage m x) s = .next (u.bump pgTrn 0x58 none)) ∧
      ∀ f r mu k air opens, (List.range 1024).find? (fun f => decide (u.flowCfg f 0 0 1 = 1 ∧ u.flowCfg f 0 1 16 = m.eaxc ∧
          u.flowCfg f 0 23 1 = bit m.down) && u.ruEn (u.flowRu f)) = some f → m.sectType ∈ ([0, 1, 3, 5, 6] : List Nat) →
        r = u.flowRu f → mu = u.gridMu (u.flowCfg f 4 0 5) →
        k = resolveSlot mu m.frame m.subframe m.slot (symOfs mu m.subframe m.slot m.startSym) u.gridNow →
        air = symStart mu k m.startSym → opens = air - tenths (u.ruCfg r 0x14 0 12) →
        (air - tenths (u.ruCfg r 0x14 12 12) < u.gridNow →
          ∃ t, exec (.cplaneMessage m x) s = .next t ∧ t.trn.hold = u.trn.hold ∧ t.event .pf pgTrn 12 = true) ∧
        (u.gridNow ≤ air - tenths (u.ruCfg r 0x14 12 12) → u.gridNow < opens → u.trn.hold.length < 4096 →
          ∃ t, exec (.cplaneMessage m x) s = .next t ∧ t.trn.hold = u.trn.hold ++
            [{ ru := r, opens := opens, closes := air - tenths (u.ruCfg r 0x14 12 12), words := cpWords m }]) ∧
        (u.gridNow ≤ air - tenths (u.ruCfg r 0x14 12 12) → opens ≤ u.gridNow → u.portUp (u.ruPort r) = true → u.ruCfg r 0 21 1 = 0 →
          ∃ t, exec (.cplaneMessage m x) s = .next t ∧ t.trn.hold = u.trn.hold ∧ Sent.message (u.ruPort r) 1 (cpWords m) ∈ t.hub.out)) ∧
  (∀ (x : Nat) (s u : State), s.stopped = false → u = s.advance x →
      ∃ t, exec (.cpHoldRelease x) s = .next t ∧ t.trn = { u.trn with
        ru := t.trn.ru, hold := u.trn.hold.filter fun (y : Held) => decide (u.gridNow < y.opens) } ∧
        ∀ y, u.trn.hold = [y] → y.opens ≤ u.gridNow → u.gridNow ≤ y.closes → u.portUp (u.ruPort y.ru) = true → u.ruCfg y.ru 0 21 1 = 0 →
          Sent.message (u.ruPort y.ru) 1 y.words ∈ t.hub.out) ∧
  (∀ (dom two : Bool) (taken x : Nat) (s u : State) (port : Nat), s.stopped = false → u = s.advance x → port = u.cfg pgSdl (domOff dom) 12 4 →
      (¬ (u.cfg pgSdl (domOff dom) 0 2 = 1 ∧ u.portUp port = true) → exec (.delayReqInterval dom two taken x) s = .next u) ∧
      (u.cfg pgSdl (domOff dom) 0 2 = 1 → u.portUp port = true → ∃ t, exec (.delayReqInterval dom two taken x) s = .next t ∧
        (t.ptp dom).dreq = ((u.ptp dom).dreq + 1) % 2 ^ 16 ∧ (t.ptp dom).t4 = none ∧
        (two = false → (t.ptp dom).t3 = some (u.txWord port (1 + bit dom) (domTime (u.sdl.servo dom).clk) (u.ptp dom).dreq)) ∧
        Sent.message port 6 ([bit dom, (u.ptp dom).dreq] ++ u.ptpAddr dom ++
          originOf two (stampOf (domTime (u.sdl.servo dom).clk) (u.asym port 0))) ∈ t.hub.out)) ∧
  (∀ (port : Fin 16) (s : State), s.stopped = false →
      (portExists s.gate.act port.val = true → fieldOf s.trn.retraining port.val 1 = 0 →
        ∃ t, exec (.linkChange port true) s = .next t ∧ t.portUp port.val = true ∧ fieldOf t.sdl.cal port.val 1 = 0) ∧
      (portExists s.gate.act port.val = false ∨ fieldOf s.trn.retraining port.val 1 = 1 → exec (.linkChange port true) s = .next s) ∧
      (∃ t, exec (.linkChange port false) s = .next t ∧ t.portUp port.val = false) ∧
      (fieldOf s.trn.retraining port.val 1 = 1 → portExists s.gate.act port.val = true →
        ∃ t, exec (.portRetrainDone port) s = .next t ∧ fieldOf t.trn.retraining port.val 1 = 0 ∧ t.portUp port.val = true ∧
          fieldOf t.sdl.cal port.val 1 = 1) ∧
      (¬ (fieldOf s.trn.retraining port.val 1 = 1 ∧ portExists s.gate.act port.val = true) → exec (.portRetrainDone port) s = .next s)) ∧
  (∀ (v : View) (w : Word) (x : Nat) (s u : State) (f : Nat), s.takes v = true → u = s.advance x → f = w.toNat % 1024 →
      viewSees u.gate.act v (ruPart u.gate.act (u.flowRu f)) = true →
      ((u.flowSt f).quarantined = true → ∃ t, exec (.trnUnquar v w x) s = .next t ∧
        t.flowSt f = { u.flowSt f with quarantined := false, freedAt := some u.gridNow, overruns := [] }) ∧
      ((u.flowSt f).quarantined = false → exec (.trnUnquar v w x) s = .next u)) ∧
  (∀ (v : View) (w : Word) (s : State) (r : Nat), s.takes v = true → r = w.toNat % 64 → r < 48 →
      viewSees s.gate.act v (ruPart s.gate.act r) = true →
      ∃ t, exec (.trnRuQ v w) s = .next t ∧ SMap.get zeroUnlisted t.trn.ruQ v.no = r)

/-- On a running device, from the state in which the time is taken in: LAYOUT_FREEZE of an enabled grid whose slot has no layout
freezes one of the grid's configuration, and no section of it waits any more; else nothing changes. CHUNK_SYMBOL_OPEN at the
earliest window opens the chunk-symbol now, CHUNK_SYMBOL_CLOSE at the latest window end closes it now, and TILE_STALE one slot
after the close discards a tile not fully taken, and raises STALE. TILE_UNIT_OFFER delivers the next complete unit, and one that
is not complete is not delivered. FEEDBACK_RECORD for another partition's radio unit faults the context; else it waits for the
next subframe boundary, where NCO_UPDATE applies it. DL_TILE_RECEIVE adds a Lane row to the tile of the grid's next symbol;
TX_WINDOW_OPEN opens a radio unit's window within its time, and TX_LATE after it marks the symbol late and raises TX_LATE. (R225,
R227, R230, R238) -/
def Obligations.TilesAndCorrectionsComplete : Prop :=
  (∀ (grid : Fin 32) (x : Nat) (s u : State) (k : Int), s.stopped = false → u = s.advance x →
      k = (u.gridNow + (u.cfg pgTrn 0x100 0 10 : Int) * 1000 * nsGrid) / slotLen (u.gridMu grid.val) →
      (u.gridEn = false ∨ u.gridCfg grid.val 0 0 1 = 0 ∨ (u.layout? grid.val k).isSome = true → exec (.layoutFreeze grid x) s = .next u) ∧
      (u.gridEn = true → u.gridCfg grid.val 0 0 1 = 1 → u.layout? grid.val k = none → ∃ t L, exec (.layoutFreeze grid x) s = .next t ∧
        t.layout? grid.val k = some L ∧ L.mu = u.gridMu grid.val ∧ L.nPrb = u.gridPrbs grid.val ∧
        L.chunks = u.gridCfg grid.val 0 18 3 + 1 ∧ L.lrows = u.gridCfg grid.val 4 0 8 ∧
        (L.down = true ↔ u.gridCfg grid.val 0 1 1 = 1) ∧ ∀ p ∈ t.trn.pend, ¬ (p.grid = grid.val ∧ p.slotK = k))) ∧
  (∀ (grid : Fin 32) (chunk : Fin 8) (slot : Int) (sym : Fin 14) (x : Nat) (s u : State) (y : ChunkSym), s.stopped = false → u = s.advance x →
      y = u.chunkSym grid.val chunk.val slot sym.val →
      (u.layout? grid.val slot = none → exec (.chunkSymbolOpen grid chunk slot sym x) s = .next u ∧
        exec (.chunkSymbolClose grid chunk slot sym x) s = .next u) ∧
      ∀ L, u.layout? grid.val slot = some L → L.down = false → chunk.val < L.chunks →
        (y.openedAt = none → (u.layoutRus L = [] ∧ symEnd L.mu slot sym.val ≤ u.gridNow ∨
            ∃ r ∈ u.layoutRus L, symEnd L.mu slot sym.val + u.winOpen r ≤ u.gridNow) →
          ∃ t, exec (.chunkSymbolOpen grid chunk slot sym x) s = .next t ∧
            (t.chunkSym grid.val chunk.val slot sym.val).openedAt = some u.gridNow) ∧
        (y.closedAt = none → (∀ r ∈ u.layoutRus L, symEnd L.mu slot sym.val + u.winClose r ≤ u.gridNow) →
          ∃ t, exec (.chunkSymbolClose grid chunk slot sym x) s = .next t ∧
            (t.chunkSym grid.val chunk.val slot sym.val).closedAt = some u.gridNow ∧ (t.chunkSym grid.val chunk.val slot sym.val).bytes = 0)) ∧
  (∀ (grid : Fin 32) (chunk : Fin 8) (slot : Int) (sym : Fin 14) (s : State) (y : ChunkSym) (L : Layout), s.stopped = false →
      y = s.chunkSym grid.val chunk.val slot sym.val → s.layout? grid.val slot = some L → L.down = false → chunk.val < L.chunks →
      y.openedAt ≠ none →
      (y.stale = false →
        (y.next < L.lrows → y.rowDone L y.next = true → ∃ t, exec (.tileUnitOffer grid chunk slot sym false) s = .next t ∧
          Sent.stream (0x100 + 8 * grid.val + chunk.val) [slot.toNat, sym.val, y.next, y.laneUnit L y.next] ∈ t.hub.out ∧
          t.chunkSym grid.val chunk.val slot sym.val = { y with next := y.next + 1 }) ∧
        (y.next < L.lrows → y.rowDone L y.next = false → exec (.tileUnitOffer grid chunk slot sym false) s = .next s) ∧
        (y.next = L.lrows → y.closedAt ≠ none → ∃ t, exec (.tileUnitOffer grid chunk slot sym false) s = .next t ∧
          Sent.stream (0x100 + 8 * grid.val + chunk.val) [slot.toNat, sym.val, y.next, y.trailer L] ∈ t.hub.out ∧
          t.chunkSym grid.val chunk.val slot sym.val = { y with next := y.next + 1 })) ∧
      (L.hasPyr sym.val = true → y.stalePyr = false → y.nextPyr < L.pyrRows → y.pyrDone L y.nextPyr = true →
        ∃ t, exec (.tileUnitOffer grid chunk slot sym true) s = .next t ∧
          Sent.stream (0x200 + 8 * grid.val + chunk.val) [slot.toNat, sym.val, y.nextPyr, y.pyrUnit L y.nextPyr] ∈ t.hub.out ∧
          t.chunkSym grid.val chunk.val slot sym.val = { y with nextPyr := y.nextPyr + 1 })) ∧
  (∀ (grid : Fin 32) (chunk : Fin 8) (slot : Int) (sym : Fin 14) (pyr : Bool) (x : Nat) (s u : State) (y : ChunkSym), s.stopped = false →
      u = s.advance x → y = u.chunkSym grid.val chunk.val slot sym.val →
      (u.layout? grid.val slot = none ∨ y.closedAt = none → exec (.tileStale grid chunk slot sym pyr x) s = .next u) ∧
      ∀ L c, u.layout? grid.val slot = some L → y.closedAt = some c →
        (u.gridNow < c + slotLen L.mu → exec (.tileStale grid chunk slot sym pyr x) s = .next u) ∧
        (c + slotLen L.mu ≤ u.gridNow →
          (pyr = false → y.stale = false → y.next ≤ L.lrows → ∃ t, exec (.tileStale grid chunk slot sym pyr x) s = .next t ∧
            t.chunkSym grid.val chunk.val slot sym.val = { y with stale := true } ∧ t.event .pf pgTrn 18 = true) ∧
          (pyr = true → L.hasPyr sym.val = true → y.stalePyr = false → y.nextPyr < L.pyrRows →
            ∃ t, exec (.tileStale grid chunk slot sym pyr x) s = .next t ∧
              t.chunkSym grid.val chunk.val slot sym.val = { y with stalePyr := true } ∧ t.event .pf pgTrn 18 = true))) ∧
  (∀ (c : Ctx) (word x : Nat) (s u : State) (r : Nat), s.stopped = false → u = s.advance x → r = fieldOf word 0 6 →
      (48 ≤ r ∨ ruPart u.gate.act r ≠ u.partOf c.val → (s.ctx c.val).live = true →
        ∃ t, exec (.feedbackRecord c word x) s = .next t ∧ t.trn = u.trn ∧ ((s.ctx c.val).fault = none → (t.ctx c.val).fault = some 0x10)) ∧
      (r < 48 → ruPart u.gate.act r = u.partOf c.val → ∃ t, exec (.feedbackRecord c word x) s = .next t ∧
        t.trn.feedback = u.trn.feedback ++ [{ word := word, due := u.gridNow / slotLen 0 + 1 }])) ∧
  (∀ (x : Nat) (s u : State) (n : Int), s.stopped = false → u = s.advance x → n = u.gridNow / slotLen 0 →
      ∃ t, exec (.ncoUpdate x) s = .next t ∧ t.trn.feedback = u.trn.feedback.filter (fun (y : Feedback) => decide (n < y.due)) ∧
        ∀ y r old raw lim new, u.trn.feedback = [y] → y.due ≤ n → r = fieldOf y.word 0 6 → old = (u.ruSt r).nco.head?.getD {} →
          raw = (if fieldOf y.word 7 1 = 1 then signedOf 32 (fieldOf y.word 32 32)
            else rneDiv ((if fieldOf y.word 6 1 = 0 then old.f else old.ta) * 2 ^ u.ruCfg r 0x18 16 4 + signedOf 32 (fieldOf y.word 32 32))
              (2 ^ u.ruCfg r 0x18 16 4)) →
          lim = (if fieldOf y.word 6 1 = 0 then (u.ruCfg r 0x18 20 12 : Int) * 1000 else 2048 * 16) → new = satTo (-lim) lim raw →
          (t.ruSt r).nco.head? = some { f := if fieldOf y.word 6 1 = 0 then new else old.f
                                        ta := if fieldOf y.word 6 1 = 0 then old.ta else new
                                        phase := old.phaseAt (y.due * slotLen 0) % cyc, since := y.due * slotLen 0 } ∧
          (raw ≠ new → t.event .pf pgTrn 15 = true)) ∧
  (∀ (grid : Fin 32) (row x : Nat) (s u : State) (n k l : Nat) (L : Layout), s.stopped = false → u = s.advance x →
      (¬ (u.gridCfg grid.val 0 0 1 = 1 ∧ u.gridCfg grid.val 0 1 1 = 1) → exec (.dlTileReceive grid [row] x) s = .next u) ∧
      (u.gridCfg grid.val 0 0 1 = 1 → u.gridCfg grid.val 0 1 1 = 1 → n = SMap.get zeroUnlisted u.trn.dlNext grid.val → n ≠ 0 →
        k = (n - 1) / 14 → l = (n - 1) % 14 → u.layout? grid.val k = some L →
        (u.dlTile grid.val k l).rows.length + 1 < L.dlRows →
        ∃ t, exec (.dlTileReceive grid [row] x) s = .next t ∧ (t.dlTile grid.val k l).rows = (u.dlTile grid.val k l).rows ++ [row])) ∧
  (∀ (ru : Fin 48) (grid : Fin 32) (slot : Int) (sym : Fin 14) (level x : Nat) (s u w : State), s.stopped = false → u = s.advance x →
      w = u.setLevel (16 + u.ruPort ru.val) level →
      (w.layout? grid.val slot = none → exec (.txWindowOpen ru grid slot sym level x) s = .next w) ∧
      (u.layout? grid.val slot = none → exec (.txLate ru grid slot sym x) s = .next u) ∧
      (∀ L, w.layout? grid.val slot = some L → L.down = true → ru.val ∈ w.layoutRus L →
        symStart L.mu slot sym.val - tenths (w.ruCfg ru.val 0x10 0 12) ≤ w.gridNow →
        w.gridNow < symStart L.mu slot sym.val - tenths (w.ruCfg ru.val 0x10 12 12) →
        (w.dlTile grid.val slot sym.val).rows.length < L.dlRows →
        ∃ t, exec (.txWindowOpen ru grid slot sym level x) s = .next t ∧ ru.val ∈ (t.dlTile grid.val slot sym.val).openTo) ∧
      ∀ L, u.layout? grid.val slot = some L → L.down = true → ru.val ∈ u.layoutRus L →
        symStart L.mu slot sym.val - tenths (u.ruCfg ru.val 0x10 12 12) ≤ u.gridNow →
        ru.val ∉ (u.dlTile grid.val slot sym.val).sentTo → ru.val ∉ (u.dlTile grid.val slot sym.val).lateTo →
        ∃ t, exec (.txLate ru grid slot sym x) s = .next t ∧ ru.val ∈ (t.dlTile grid.val slot sym.val).lateTo ∧ t.event .pf pgTrn 11 = true)
end

