-- ==== Sys2Proof/Laws/Maps.lean ====
section
/-!
SUPPORT. Sparse maps and memory: every operation keeps the canonical form; what a key reads after a write.
-/

namespace Sys2Proof.Machine

open Sys2Proof

set_option Elab.async false

theorem rising_head {α : Type} : ∀ (m : SMap α) (i j : Nat), i ≤ j → SMap.rising (some j) m = true → SMap.rising (some i) m = true
  | [], _, _, _, _ => rfl
  | (k, v) :: m, i, j, h, hr => by
    simp [SMap.rising] at hr ⊢; exact ⟨by omega, hr.2⟩

theorem rising_none {α : Type} (m : SMap α) (i : Nat) (h : SMap.rising (some i) m = true) : SMap.rising none m = true := by
  cases m with
  | nil => rfl
  | cons e m => simp [SMap.rising] at h ⊢; exact h.2

theorem rising_insert {α : Type} (k : Nat) (v : α) : ∀ (m : SMap α) (i : Nat), i < k → SMap.rising (some i) m = true →
    SMap.rising (some i) (SMap.insert m k v) = true
  | [], i, h, _ => by simp [SMap.insert, SMap.rising, h]
  | (j, u) :: m, i, h, hr => by
    simp [SMap.rising] at hr
    unfold SMap.insert
    split
    · simp [SMap.rising]; exact ⟨hr.1, rising_insert k v m j ‹_› hr.2⟩
    · split
      · subst_vars; simp [SMap.rising]; exact hr
      · simp [SMap.rising]; refine ⟨h, by omega, hr.2⟩

theorem rising_insert_none {α : Type} (k : Nat) (v : α) (m : SMap α) (h : SMap.rising none m = true) :
    SMap.rising none (SMap.insert m k v) = true := by
  cases m with
  | nil => rfl
  | cons e m =>
    obtain ⟨j, u⟩ := e
    simp [SMap.rising] at h
    unfold SMap.insert
    split
    · simp [SMap.rising]; exact rising_insert k v m j ‹_› h
    · split
      · subst_vars; simpa [SMap.rising] using h
      · simp [SMap.rising]; exact ⟨by omega, h⟩

theorem rising_filter {α : Type} (p : Nat × α → Bool) : ∀ (m : SMap α) (i : Nat), SMap.rising (some i) m = true →
    SMap.rising (some i) (m.filter p) = true
  | [], _, _ => rfl
  | (j, u) :: m, i, h => by
    simp [SMap.rising] at h
    by_cases hp : p (j, u) = true
    · simp [List.filter, hp, SMap.rising]; exact ⟨h.1, rising_filter p m j h.2⟩
    · simp [List.filter, hp]; exact rising_filter p m i (rising_head m i j (by omega) h.2)

theorem rising_filter_none {α : Type} (p : Nat × α → Bool) : ∀ (m : SMap α), SMap.rising none m = true →
    SMap.rising none (m.filter p) = true
  | [], _ => rfl
  | (j, u) :: m, h => by
    simp [SMap.rising] at h
    by_cases hp : p (j, u) = true
    · simp [List.filter, hp, SMap.rising]; exact rising_filter p m j h
    · simp [List.filter, hp]; exact rising_none _ j (rising_filter p m j h)

theorem rising_erase_none {α : Type} (k : Nat) (m : SMap α) (h : SMap.rising none m = true) :
    SMap.rising none (SMap.erase m k) = true := rising_filter_none _ m h

theorem mem_insert {α : Type} {k : Nat} {v : α} {e : Nat × α} : ∀ {m : SMap α}, e ∈ SMap.insert m k v → e = (k, v) ∨ e ∈ m
  | [], h => by simp [SMap.insert] at h; exact Or.inl h
  | (j, u) :: m, h => by
    unfold SMap.insert at h
    split at h
    · rcases List.mem_cons.1 h with h | h
      · exact Or.inr (by simp [h])
      · rcases mem_insert h with h | h
        · exact Or.inl h
        · exact Or.inr (by simp [h])
    · split at h
      · rcases List.mem_cons.1 h with h | h
        · exact Or.inl h
        · exact Or.inr (by simp [h])
      · rcases List.mem_cons.1 h with h | h
        · exact Or.inl h
        · exact Or.inr h

theorem mem_erase {α : Type} {k : Nat} {e : Nat × α} {m : SMap α} (h : e ∈ SMap.erase m k) : e ∈ m := (List.mem_filter.1 h).1

variable {α : Type} [DecidableEq α] (d : Nat → α)

theorem SMap.put_wf (m : SMap α) (k : Nat) (v : α) (h : SMap.wf d m = true) : SMap.wf d (SMap.put d m k v) = true := by
  simp only [SMap.wf, Bool.and_eq_true, List.all_eq_true, decide_eq_true_eq] at h ⊢
  unfold SMap.put
  split
  · exact ⟨rising_erase_none k m h.1, fun e he => h.2 e (mem_erase he)⟩
  · refine ⟨rising_insert_none k v m h.1, fun e he => ?_⟩
    rcases mem_insert he with he | he
    · subst he; assumption
    · exact h.2 e he

theorem SMap.filter_wf (p : Nat × α → Bool) (m : SMap α) (h : SMap.wf d m = true) : SMap.wf d (m.filter p) = true := by
  simp only [SMap.wf, Bool.and_eq_true, List.all_eq_true, decide_eq_true_eq] at h ⊢
  exact ⟨rising_filter_none p m h.1, fun e he => h.2 e (List.mem_filter.1 he).1⟩

theorem SMap.erase_wf (m : SMap α) (k : Nat) (h : SMap.wf d m = true) : SMap.wf d (SMap.erase m k) = true := by
  simp only [SMap.wf, Bool.and_eq_true, List.all_eq_true, decide_eq_true_eq] at h ⊢
  exact ⟨rising_erase_none k m h.1, fun e he => h.2 e (mem_erase he)⟩

theorem SMap.modify_wf (m : SMap α) (k : Nat) (f : α → α) (h : SMap.wf d m = true) : SMap.wf d (SMap.modify d m k f) = true :=
  SMap.put_wf d m k _ h

theorem Mem.write_wf (m : Mem) (a : Nat) (b : BitVec 8) (h : Mem.wf m = true) : Mem.wf (Mem.write m a b) = true :=
  SMap.put_wf Mem.unlisted m a b h

theorem Mem.writeBytes_wf : ∀ (l : List (BitVec 8)) (m : Mem) (a : Nat), Mem.wf m = true → Mem.wf (Mem.writeBytes m a l) = true
  | [], _, _, h => h
  | b :: l, m, a, h => Mem.writeBytes_wf l (Mem.write m a b) (a + 1) (Mem.write_wf m a b h)

theorem Mem.writeLe_wf (m : Mem) (a n x : Nat) (h : Mem.wf m = true) : Mem.wf (Mem.writeLe m a n x) = true :=
  Mem.writeBytes_wf _ m a h

theorem Mem.zero_wf (m : Mem) (a n : Nat) (h : Mem.wf m = true) : Mem.wf (Mem.zero m a n) = true :=
  SMap.filter_wf Mem.unlisted _ m h



theorem find?_insert_self {α : Type} (k : Nat) (v : α) : ∀ m : SMap α, SMap.find? (SMap.insert m k v) k = some v
  | [] => by simp [SMap.insert, SMap.find?]
  | (j, u) :: m => by
    unfold SMap.insert
    split
    · simp only [SMap.find?]
      rw [if_neg (by omega)]
      exact find?_insert_self k v m
    · split <;> simp [SMap.find?]

theorem find?_insert_ne {α : Type} {k i : Nat} (v : α) (h : i ≠ k) : ∀ m : SMap α, SMap.find? (SMap.insert m k v) i = SMap.find? m i
  | [] => by simp [SMap.insert, SMap.find?, Ne.symm h]
  | (j, u) :: m => by
    unfold SMap.insert
    split
    · simp only [SMap.find?]
      rw [find?_insert_ne v h m]
    · split
      · subst_vars
        simp only [SMap.find?]
        rw [if_neg (Ne.symm h), if_neg (Ne.symm h)]
      · simp only [SMap.find?]
        rw [if_neg (Ne.symm h)]

theorem find?_erase_ne {α : Type} {k i : Nat} (h : i ≠ k) : ∀ m : SMap α, SMap.find? (SMap.erase m k) i = SMap.find? m i
  | [] => rfl
  | (j, u) :: m => by
    have ih := find?_erase_ne h m
    unfold SMap.erase at ih ⊢
    by_cases hj : j = k
    · rw [List.filter_cons_of_neg (by simp [hj]), ih]
      simp only [SMap.find?]
      rw [if_neg (by omega)]
    · rw [List.filter_cons_of_pos (by simp [hj])]
      simp only [SMap.find?]
      rw [ih]

theorem find?_erase_self {α : Type} (k : Nat) : ∀ m : SMap α, SMap.find? (SMap.erase m k) k = none
  | [] => rfl
  | (j, u) :: m => by
    have ih := find?_erase_self k m
    unfold SMap.erase at ih ⊢
    by_cases hj : j = k
    · rw [List.filter_cons_of_neg (by simp [hj]), ih]
    · rw [List.filter_cons_of_pos (by simp [hj])]
      simp only [SMap.find?]
      rw [if_neg hj, ih]

/-- A key other than the one written reads as before. -/
theorem SMap.get_put_ne (m : SMap α) {k i : Nat} (v : α) (h : i ≠ k) : SMap.get d (SMap.put d m k v) i = SMap.get d m i := by
  unfold SMap.get SMap.put
  split
  · rw [find?_erase_ne h]
  · rw [find?_insert_ne v h]

/-- The key written reads as written. -/
@[simp] theorem SMap.get_put_self (m : SMap α) (k : Nat) (v : α) : SMap.get d (SMap.put d m k v) k = v := by
  unfold SMap.get SMap.put
  split
  · rename_i h
    rw [find?_erase_self]
    exact h.symm
  · rw [find?_insert_self]
    rfl

theorem SMap.get_put (m : SMap α) (k i : Nat) (v : α) : SMap.get d (SMap.put d m k v) i = if i = k then v else SMap.get d m i := by
  split
  · subst_vars
    exact SMap.get_put_self d m _ v
  · exact SMap.get_put_ne d m v ‹_›

@[simp] theorem SMap.get_modify_self (m : SMap α) (k : Nat) (f : α → α) :
    SMap.get d (SMap.modify d m k f) k = f (SMap.get d m k) := SMap.get_put_self d m k _

theorem SMap.get_modify_ne (m : SMap α) {k i : Nat} (f : α → α) (h : i ≠ k) :
    SMap.get d (SMap.modify d m k f) i = SMap.get d m i := SMap.get_put_ne d m _ h

theorem Mem.read_write_self (m : Mem) (a : Nat) (b : BitVec 8) : Mem.read (Mem.write m a b) a = b :=
  SMap.get_put_self Mem.unlisted m a b

theorem Mem.read_write_ne (m : Mem) {a i : Nat} (b : BitVec 8) (h : i ≠ a) : Mem.read (Mem.write m a b) i = Mem.read m i :=
  SMap.get_put_ne Mem.unlisted m b h

/-- A byte outside those written reads as before. -/
theorem Mem.read_writeBytes_out (i : Nat) : ∀ (l : List (BitVec 8)) (m : Mem) (a : Nat), (i < a ∨ a + l.length ≤ i) →
    Mem.read (Mem.writeBytes m a l) i = Mem.read m i
  | [], _, _, _ => rfl
  | b :: l, m, a, h => by
    simp only [List.length_cons] at h
    unfold Mem.writeBytes
    rw [Mem.read_writeBytes_out i l _ (a + 1) (by omega), Mem.read_write_ne m b (by omega)]

theorem natLe_length : ∀ (n x : Nat), (natLe n x).length = n
  | 0, _ => rfl
  | n + 1, x => by simp [natLe, natLe_length n]

theorem Mem.read_writeLe_out (m : Mem) (a n x i : Nat) (h : i < a ∨ a + n ≤ i) : Mem.read (Mem.writeLe m a n x) i = Mem.read m i :=
  Mem.read_writeBytes_out i _ m a (by rw [natLe_length]; exact h)

/-- A byte written reads as written. -/
theorem Mem.read_writeBytes_in (i : Nat) : ∀ (l : List (BitVec 8)) (m : Mem) (a : Nat) (h : i < l.length),
    Mem.read (Mem.writeBytes m a l) (a + i) = l[i]
  | b :: l, m, a, h => by
    unfold Mem.writeBytes
    cases i with
    | zero => rw [Mem.read_writeBytes_out _ l _ _ (by omega)]; exact Mem.read_write_self m a b
    | succ i =>
      have := Mem.read_writeBytes_in i l (Mem.write m a b) (a + 1) (by simpa using h)
      rw [show a + (i + 1) = a + 1 + i by omega, this]
      rfl

theorem natLe_get (n x i : Nat) (h : i < (natLe n x).length) : (natLe n x)[i] = BitVec.ofNat 8 (x / 256 ^ i) := by
  induction n generalizing x i with
  | zero => simp [natLe] at h
  | succ n ih =>
    cases i with
    | zero => simp [natLe]
    | succ i =>
      have h' : i < (natLe n (x / 256)).length := by simpa [natLe] using h
      show (natLe n (x / 256))[i] = _
      rw [ih _ _ h', Nat.div_div_eq_div_mul, pow_succ, Nat.mul_comm 256]

/-- A byte of a number written little-endian reads as that byte of it. -/
theorem Mem.read_writeLe_in (m : Mem) (a n x i : Nat) (h : i < n) : Mem.read (Mem.writeLe m a n x) (a + i) = BitVec.ofNat 8 (x / 256 ^ i) := by
  have h' : i < (natLe n x).length := by rw [natLe_length]; exact h
  unfold Mem.writeLe
  rw [Mem.read_writeBytes_in i _ m a h', natLe_get]

end Sys2Proof.Machine
end

