-- ==== Sys2Proof/Laws/State.lean ====
section
/-!
SUPPORT. What each update of a part of the state leaves: one lemma per part, so that no proof unfolds a record update.
-/

namespace Sys2Proof.Machine

open Sys2Proof

@[simp] theorem State.raiseIn_pending (s : State) (v : View) (p : Page) (b : Nat) : (s.raiseIn v p b).pending = s.pending := rfl
@[simp] theorem State.raiseIn_held (s : State) (v : View) (p : Page) (b : Nat) : (s.raiseIn v p b).held = s.held := rfl
@[simp] theorem State.raiseIn_tripped (s : State) (v : View) (p : Page) (b : Nat) : (s.raiseIn v p b).tripped = s.tripped := rfl
@[simp] theorem State.raiseIn_mem (s : State) (v : View) (p : Page) (b : Nat) : (s.raiseIn v p b).mem = s.mem := rfl
@[simp] theorem State.raiseIn_ecc (s : State) (v : View) (p : Page) (b : Nat) : (s.raiseIn v p b).ecc = s.ecc := rfl
@[simp] theorem State.raiseIn_free (s : State) (v : View) (p : Page) (b : Nat) : (s.raiseIn v p b).free = s.free := rfl
@[simp] theorem State.raiseIn_gate (s : State) (v : View) (p : Page) (b : Nat) : (s.raiseIn v p b).gate = s.gate := rfl
@[simp] theorem State.raiseIn_sdl (s : State) (v : View) (p : Page) (b : Nat) : (s.raiseIn v p b).sdl = s.sdl := rfl
@[simp] theorem State.raiseIn_plots (s : State) (v : View) (p : Page) (b : Nat) : (s.raiseIn v p b).plots = s.plots := rfl
@[simp] theorem State.raiseIn_flt (s : State) (v : View) (p : Page) (b : Nat) : (s.raiseIn v p b).flt = s.flt := rfl
@[simp] theorem State.raiseIn_rms (s : State) (v : View) (p : Page) (b : Nat) : (s.raiseIn v p b).rms = s.rms := rfl
@[simp] theorem State.raiseIn_thr (s : State) (v : View) (p : Page) (b : Nat) : (s.raiseIn v p b).thr = s.thr := rfl
@[simp] theorem State.raiseIn_trn (s : State) (v : View) (p : Page) (b : Nat) : (s.raiseIn v p b).trn = s.trn := rfl
@[simp] theorem State.raiseIn_irg (s : State) (v : View) (p : Page) (b : Nat) : (s.raiseIn v p b).irg = s.irg := rfl
@[simp] theorem State.raiseIn_ring (s : State) (v : View) (p : Page) (b : Nat) : (s.raiseIn v p b).ring = s.ring := rfl
@[simp] theorem State.raiseIn_sec (s : State) (v : View) (p : Page) (b : Nat) : (s.raiseIn v p b).sec = s.sec := rfl
@[simp] theorem State.raiseIn_ddr (s : State) (v : View) (p : Page) (b : Nat) : (s.raiseIn v p b).ddr = s.ddr := rfl
@[simp] theorem State.raiseIn_pwr (s : State) (v : View) (p : Page) (b : Nat) : (s.raiseIn v p b).pwr = s.pwr := rfl
@[simp] theorem State.raiseIn_gk (s : State) (v : View) (p : Page) (b : Nat) : (s.raiseIn v p b).gk = s.gk := rfl
@[simp] theorem State.raiseIn_beds (s : State) (v : View) (p : Page) (b : Nat) : (s.raiseIn v p b).beds = s.beds := rfl

@[simp] theorem State.raise_pending (s : State) (p : Page) (b : Nat) (o : Option Nat) : (s.raise p b o).pending = s.pending := rfl
@[simp] theorem State.raise_held (s : State) (p : Page) (b : Nat) (o : Option Nat) : (s.raise p b o).held = s.held := rfl
@[simp] theorem State.raise_tripped (s : State) (p : Page) (b : Nat) (o : Option Nat) : (s.raise p b o).tripped = s.tripped := rfl
@[simp] theorem State.raise_mem (s : State) (p : Page) (b : Nat) (o : Option Nat) : (s.raise p b o).mem = s.mem := rfl
@[simp] theorem State.raise_ecc (s : State) (p : Page) (b : Nat) (o : Option Nat) : (s.raise p b o).ecc = s.ecc := rfl
@[simp] theorem State.raise_free (s : State) (p : Page) (b : Nat) (o : Option Nat) : (s.raise p b o).free = s.free := rfl
@[simp] theorem State.raise_gate (s : State) (p : Page) (b : Nat) (o : Option Nat) : (s.raise p b o).gate = s.gate := rfl
@[simp] theorem State.raise_sdl (s : State) (p : Page) (b : Nat) (o : Option Nat) : (s.raise p b o).sdl = s.sdl := rfl
@[simp] theorem State.raise_plots (s : State) (p : Page) (b : Nat) (o : Option Nat) : (s.raise p b o).plots = s.plots := rfl
@[simp] theorem State.raise_flt (s : State) (p : Page) (b : Nat) (o : Option Nat) : (s.raise p b o).flt = s.flt := rfl
@[simp] theorem State.raise_rms (s : State) (p : Page) (b : Nat) (o : Option Nat) : (s.raise p b o).rms = s.rms := rfl
@[simp] theorem State.raise_thr (s : State) (p : Page) (b : Nat) (o : Option Nat) : (s.raise p b o).thr = s.thr := rfl
@[simp] theorem State.raise_trn (s : State) (p : Page) (b : Nat) (o : Option Nat) : (s.raise p b o).trn = s.trn := rfl
@[simp] theorem State.raise_irg (s : State) (p : Page) (b : Nat) (o : Option Nat) : (s.raise p b o).irg = s.irg := rfl
@[simp] theorem State.raise_ring (s : State) (p : Page) (b : Nat) (o : Option Nat) : (s.raise p b o).ring = s.ring := rfl
@[simp] theorem State.raise_sec (s : State) (p : Page) (b : Nat) (o : Option Nat) : (s.raise p b o).sec = s.sec := rfl
@[simp] theorem State.raise_ddr (s : State) (p : Page) (b : Nat) (o : Option Nat) : (s.raise p b o).ddr = s.ddr := rfl
@[simp] theorem State.raise_pwr (s : State) (p : Page) (b : Nat) (o : Option Nat) : (s.raise p b o).pwr = s.pwr := rfl
@[simp] theorem State.raise_gk (s : State) (p : Page) (b : Nat) (o : Option Nat) : (s.raise p b o).gk = s.gk := rfl
@[simp] theorem State.raise_beds (s : State) (p : Page) (b : Nat) (o : Option Nat) : (s.raise p b o).beds = s.beds := rfl

@[simp] theorem State.bumpBy_pending (s : State) (p : Page) (a : Nat) (o : Option Nat) (n : Nat) : (s.bumpBy p a o n).pending = s.pending := rfl
@[simp] theorem State.bumpBy_held (s : State) (p : Page) (a : Nat) (o : Option Nat) (n : Nat) : (s.bumpBy p a o n).held = s.held := rfl
@[simp] theorem State.bumpBy_tripped (s : State) (p : Page) (a : Nat) (o : Option Nat) (n : Nat) : (s.bumpBy p a o n).tripped = s.tripped := rfl
@[simp] theorem State.bumpBy_mem (s : State) (p : Page) (a : Nat) (o : Option Nat) (n : Nat) : (s.bumpBy p a o n).mem = s.mem := rfl
@[simp] theorem State.bumpBy_ecc (s : State) (p : Page) (a : Nat) (o : Option Nat) (n : Nat) : (s.bumpBy p a o n).ecc = s.ecc := rfl
@[simp] theorem State.bumpBy_free (s : State) (p : Page) (a : Nat) (o : Option Nat) (n : Nat) : (s.bumpBy p a o n).free = s.free := rfl
@[simp] theorem State.bumpBy_gate (s : State) (p : Page) (a : Nat) (o : Option Nat) (n : Nat) : (s.bumpBy p a o n).gate = s.gate := rfl
@[simp] theorem State.bumpBy_sdl (s : State) (p : Page) (a : Nat) (o : Option Nat) (n : Nat) : (s.bumpBy p a o n).sdl = s.sdl := rfl
@[simp] theorem State.bumpBy_plots (s : State) (p : Page) (a : Nat) (o : Option Nat) (n : Nat) : (s.bumpBy p a o n).plots = s.plots := rfl
@[simp] theorem State.bumpBy_flt (s : State) (p : Page) (a : Nat) (o : Option Nat) (n : Nat) : (s.bumpBy p a o n).flt = s.flt := rfl
@[simp] theorem State.bumpBy_rms (s : State) (p : Page) (a : Nat) (o : Option Nat) (n : Nat) : (s.bumpBy p a o n).rms = s.rms := rfl
@[simp] theorem State.bumpBy_thr (s : State) (p : Page) (a : Nat) (o : Option Nat) (n : Nat) : (s.bumpBy p a o n).thr = s.thr := rfl
@[simp] theorem State.bumpBy_trn (s : State) (p : Page) (a : Nat) (o : Option Nat) (n : Nat) : (s.bumpBy p a o n).trn = s.trn := rfl
@[simp] theorem State.bumpBy_irg (s : State) (p : Page) (a : Nat) (o : Option Nat) (n : Nat) : (s.bumpBy p a o n).irg = s.irg := rfl
@[simp] theorem State.bumpBy_ring (s : State) (p : Page) (a : Nat) (o : Option Nat) (n : Nat) : (s.bumpBy p a o n).ring = s.ring := rfl
@[simp] theorem State.bumpBy_sec (s : State) (p : Page) (a : Nat) (o : Option Nat) (n : Nat) : (s.bumpBy p a o n).sec = s.sec := rfl
@[simp] theorem State.bumpBy_ddr (s : State) (p : Page) (a : Nat) (o : Option Nat) (n : Nat) : (s.bumpBy p a o n).ddr = s.ddr := rfl
@[simp] theorem State.bumpBy_pwr (s : State) (p : Page) (a : Nat) (o : Option Nat) (n : Nat) : (s.bumpBy p a o n).pwr = s.pwr := rfl
@[simp] theorem State.bumpBy_gk (s : State) (p : Page) (a : Nat) (o : Option Nat) (n : Nat) : (s.bumpBy p a o n).gk = s.gk := rfl
@[simp] theorem State.bumpBy_beds (s : State) (p : Page) (a : Nat) (o : Option Nat) (n : Nat) : (s.bumpBy p a o n).beds = s.beds := rfl

@[simp] theorem State.bump_pending (s : State) (p : Page) (a : Nat) (o : Option Nat) : (s.bump p a o).pending = s.pending := rfl
@[simp] theorem State.bump_held (s : State) (p : Page) (a : Nat) (o : Option Nat) : (s.bump p a o).held = s.held := rfl
@[simp] theorem State.bump_tripped (s : State) (p : Page) (a : Nat) (o : Option Nat) : (s.bump p a o).tripped = s.tripped := rfl
@[simp] theorem State.bump_mem (s : State) (p : Page) (a : Nat) (o : Option Nat) : (s.bump p a o).mem = s.mem := rfl
@[simp] theorem State.bump_ecc (s : State) (p : Page) (a : Nat) (o : Option Nat) : (s.bump p a o).ecc = s.ecc := rfl
@[simp] theorem State.bump_free (s : State) (p : Page) (a : Nat) (o : Option Nat) : (s.bump p a o).free = s.free := rfl
@[simp] theorem State.bump_gate (s : State) (p : Page) (a : Nat) (o : Option Nat) : (s.bump p a o).gate = s.gate := rfl
@[simp] theorem State.bump_sdl (s : State) (p : Page) (a : Nat) (o : Option Nat) : (s.bump p a o).sdl = s.sdl := rfl
@[simp] theorem State.bump_plots (s : State) (p : Page) (a : Nat) (o : Option Nat) : (s.bump p a o).plots = s.plots := rfl
@[simp] theorem State.bump_flt (s : State) (p : Page) (a : Nat) (o : Option Nat) : (s.bump p a o).flt = s.flt := rfl
@[simp] theorem State.bump_rms (s : State) (p : Page) (a : Nat) (o : Option Nat) : (s.bump p a o).rms = s.rms := rfl
@[simp] theorem State.bump_thr (s : State) (p : Page) (a : Nat) (o : Option Nat) : (s.bump p a o).thr = s.thr := rfl
@[simp] theorem State.bump_trn (s : State) (p : Page) (a : Nat) (o : Option Nat) : (s.bump p a o).trn = s.trn := rfl
@[simp] theorem State.bump_irg (s : State) (p : Page) (a : Nat) (o : Option Nat) : (s.bump p a o).irg = s.irg := rfl
@[simp] theorem State.bump_ring (s : State) (p : Page) (a : Nat) (o : Option Nat) : (s.bump p a o).ring = s.ring := rfl
@[simp] theorem State.bump_sec (s : State) (p : Page) (a : Nat) (o : Option Nat) : (s.bump p a o).sec = s.sec := rfl
@[simp] theorem State.bump_ddr (s : State) (p : Page) (a : Nat) (o : Option Nat) : (s.bump p a o).ddr = s.ddr := rfl
@[simp] theorem State.bump_pwr (s : State) (p : Page) (a : Nat) (o : Option Nat) : (s.bump p a o).pwr = s.pwr := rfl
@[simp] theorem State.bump_gk (s : State) (p : Page) (a : Nat) (o : Option Nat) : (s.bump p a o).gk = s.gk := rfl
@[simp] theorem State.bump_beds (s : State) (p : Page) (a : Nat) (o : Option Nat) : (s.bump p a o).beds = s.beds := rfl

@[simp] theorem State.post_pending (s : State) (p : Page) (b : Nat) (o : Option Nat) (l : List Nat) : (s.post p b o l).pending = s.pending := rfl
@[simp] theorem State.post_held (s : State) (p : Page) (b : Nat) (o : Option Nat) (l : List Nat) : (s.post p b o l).held = s.held := rfl
@[simp] theorem State.post_tripped (s : State) (p : Page) (b : Nat) (o : Option Nat) (l : List Nat) : (s.post p b o l).tripped = s.tripped := rfl
@[simp] theorem State.post_mem (s : State) (p : Page) (b : Nat) (o : Option Nat) (l : List Nat) : (s.post p b o l).mem = s.mem := rfl
@[simp] theorem State.post_ecc (s : State) (p : Page) (b : Nat) (o : Option Nat) (l : List Nat) : (s.post p b o l).ecc = s.ecc := rfl
@[simp] theorem State.post_free (s : State) (p : Page) (b : Nat) (o : Option Nat) (l : List Nat) : (s.post p b o l).free = s.free := rfl
@[simp] theorem State.post_gate (s : State) (p : Page) (b : Nat) (o : Option Nat) (l : List Nat) : (s.post p b o l).gate = s.gate := rfl
@[simp] theorem State.post_sdl (s : State) (p : Page) (b : Nat) (o : Option Nat) (l : List Nat) : (s.post p b o l).sdl = s.sdl := rfl
@[simp] theorem State.post_plots (s : State) (p : Page) (b : Nat) (o : Option Nat) (l : List Nat) : (s.post p b o l).plots = s.plots := rfl
@[simp] theorem State.post_flt (s : State) (p : Page) (b : Nat) (o : Option Nat) (l : List Nat) : (s.post p b o l).flt = s.flt := rfl
@[simp] theorem State.post_rms (s : State) (p : Page) (b : Nat) (o : Option Nat) (l : List Nat) : (s.post p b o l).rms = s.rms := rfl
@[simp] theorem State.post_thr (s : State) (p : Page) (b : Nat) (o : Option Nat) (l : List Nat) : (s.post p b o l).thr = s.thr := rfl
@[simp] theorem State.post_trn (s : State) (p : Page) (b : Nat) (o : Option Nat) (l : List Nat) : (s.post p b o l).trn = s.trn := rfl
@[simp] theorem State.post_irg (s : State) (p : Page) (b : Nat) (o : Option Nat) (l : List Nat) : (s.post p b o l).irg = s.irg := rfl
@[simp] theorem State.post_ring (s : State) (p : Page) (b : Nat) (o : Option Nat) (l : List Nat) : (s.post p b o l).ring = s.ring := rfl
@[simp] theorem State.post_sec (s : State) (p : Page) (b : Nat) (o : Option Nat) (l : List Nat) : (s.post p b o l).sec = s.sec := rfl
@[simp] theorem State.post_ddr (s : State) (p : Page) (b : Nat) (o : Option Nat) (l : List Nat) : (s.post p b o l).ddr = s.ddr := rfl
@[simp] theorem State.post_pwr (s : State) (p : Page) (b : Nat) (o : Option Nat) (l : List Nat) : (s.post p b o l).pwr = s.pwr := rfl
@[simp] theorem State.post_gk (s : State) (p : Page) (b : Nat) (o : Option Nat) (l : List Nat) : (s.post p b o l).gk = s.gk := rfl
@[simp] theorem State.post_beds (s : State) (p : Page) (b : Nat) (o : Option Nat) (l : List Nat) : (s.post p b o l).beds = s.beds := rfl

@[simp] theorem State.emit_pending (s : State) (x : Sent) : (s.emit x).pending = s.pending := rfl
@[simp] theorem State.emit_held (s : State) (x : Sent) : (s.emit x).held = s.held := rfl
@[simp] theorem State.emit_tripped (s : State) (x : Sent) : (s.emit x).tripped = s.tripped := rfl
@[simp] theorem State.emit_mem (s : State) (x : Sent) : (s.emit x).mem = s.mem := rfl
@[simp] theorem State.emit_ecc (s : State) (x : Sent) : (s.emit x).ecc = s.ecc := rfl
@[simp] theorem State.emit_free (s : State) (x : Sent) : (s.emit x).free = s.free := rfl
@[simp] theorem State.emit_gate (s : State) (x : Sent) : (s.emit x).gate = s.gate := rfl
@[simp] theorem State.emit_sdl (s : State) (x : Sent) : (s.emit x).sdl = s.sdl := rfl
@[simp] theorem State.emit_plots (s : State) (x : Sent) : (s.emit x).plots = s.plots := rfl
@[simp] theorem State.emit_flt (s : State) (x : Sent) : (s.emit x).flt = s.flt := rfl
@[simp] theorem State.emit_rms (s : State) (x : Sent) : (s.emit x).rms = s.rms := rfl
@[simp] theorem State.emit_thr (s : State) (x : Sent) : (s.emit x).thr = s.thr := rfl
@[simp] theorem State.emit_trn (s : State) (x : Sent) : (s.emit x).trn = s.trn := rfl
@[simp] theorem State.emit_irg (s : State) (x : Sent) : (s.emit x).irg = s.irg := rfl
@[simp] theorem State.emit_ring (s : State) (x : Sent) : (s.emit x).ring = s.ring := rfl
@[simp] theorem State.emit_sec (s : State) (x : Sent) : (s.emit x).sec = s.sec := rfl
@[simp] theorem State.emit_ddr (s : State) (x : Sent) : (s.emit x).ddr = s.ddr := rfl
@[simp] theorem State.emit_pwr (s : State) (x : Sent) : (s.emit x).pwr = s.pwr := rfl
@[simp] theorem State.emit_gk (s : State) (x : Sent) : (s.emit x).gk = s.gk := rfl
@[simp] theorem State.emit_beds (s : State) (x : Sent) : (s.emit x).beds = s.beds := rfl

@[simp] theorem State.dropped_pending (s : State) (v : View) (p : Page) : (s.dropped v p).pending = s.pending := rfl
@[simp] theorem State.dropped_held (s : State) (v : View) (p : Page) : (s.dropped v p).held = s.held := rfl
@[simp] theorem State.dropped_tripped (s : State) (v : View) (p : Page) : (s.dropped v p).tripped = s.tripped := rfl
@[simp] theorem State.dropped_mem (s : State) (v : View) (p : Page) : (s.dropped v p).mem = s.mem := rfl
@[simp] theorem State.dropped_ecc (s : State) (v : View) (p : Page) : (s.dropped v p).ecc = s.ecc := rfl
@[simp] theorem State.dropped_free (s : State) (v : View) (p : Page) : (s.dropped v p).free = s.free := rfl
@[simp] theorem State.dropped_gate (s : State) (v : View) (p : Page) : (s.dropped v p).gate = s.gate := rfl
@[simp] theorem State.dropped_sdl (s : State) (v : View) (p : Page) : (s.dropped v p).sdl = s.sdl := rfl
@[simp] theorem State.dropped_plots (s : State) (v : View) (p : Page) : (s.dropped v p).plots = s.plots := rfl
@[simp] theorem State.dropped_flt (s : State) (v : View) (p : Page) : (s.dropped v p).flt = s.flt := rfl
@[simp] theorem State.dropped_rms (s : State) (v : View) (p : Page) : (s.dropped v p).rms = s.rms := rfl
@[simp] theorem State.dropped_thr (s : State) (v : View) (p : Page) : (s.dropped v p).thr = s.thr := rfl
@[simp] theorem State.dropped_trn (s : State) (v : View) (p : Page) : (s.dropped v p).trn = s.trn := rfl
@[simp] theorem State.dropped_irg (s : State) (v : View) (p : Page) : (s.dropped v p).irg = s.irg := rfl
@[simp] theorem State.dropped_ring (s : State) (v : View) (p : Page) : (s.dropped v p).ring = s.ring := rfl
@[simp] theorem State.dropped_sec (s : State) (v : View) (p : Page) : (s.dropped v p).sec = s.sec := rfl
@[simp] theorem State.dropped_ddr (s : State) (v : View) (p : Page) : (s.dropped v p).ddr = s.ddr := rfl
@[simp] theorem State.dropped_pwr (s : State) (v : View) (p : Page) : (s.dropped v p).pwr = s.pwr := rfl
@[simp] theorem State.dropped_gk (s : State) (v : View) (p : Page) : (s.dropped v p).gk = s.gk := rfl
@[simp] theorem State.dropped_beds (s : State) (v : View) (p : Page) : (s.dropped v p).beds = s.beds := rfl

@[simp] theorem State.tick_pending (s : State)  : (s.tick).pending = s.pending := rfl
@[simp] theorem State.tick_held (s : State)  : (s.tick).held = s.held := rfl
@[simp] theorem State.tick_tripped (s : State)  : (s.tick).tripped = s.tripped := rfl
@[simp] theorem State.tick_mem (s : State)  : (s.tick).mem = s.mem := rfl
@[simp] theorem State.tick_ecc (s : State)  : (s.tick).ecc = s.ecc := rfl
@[simp] theorem State.tick_hub (s : State)  : (s.tick).hub = s.hub := rfl
@[simp] theorem State.tick_gate (s : State)  : (s.tick).gate = s.gate := rfl
@[simp] theorem State.tick_sdl (s : State)  : (s.tick).sdl = s.sdl := rfl
@[simp] theorem State.tick_plots (s : State)  : (s.tick).plots = s.plots := rfl
@[simp] theorem State.tick_flt (s : State)  : (s.tick).flt = s.flt := rfl
@[simp] theorem State.tick_rms (s : State)  : (s.tick).rms = s.rms := rfl
@[simp] theorem State.tick_thr (s : State)  : (s.tick).thr = s.thr := rfl
@[simp] theorem State.tick_trn (s : State)  : (s.tick).trn = s.trn := rfl
@[simp] theorem State.tick_irg (s : State)  : (s.tick).irg = s.irg := rfl
@[simp] theorem State.tick_ring (s : State)  : (s.tick).ring = s.ring := rfl
@[simp] theorem State.tick_sec (s : State)  : (s.tick).sec = s.sec := rfl
@[simp] theorem State.tick_ddr (s : State)  : (s.tick).ddr = s.ddr := rfl
@[simp] theorem State.tick_pwr (s : State)  : (s.tick).pwr = s.pwr := rfl
@[simp] theorem State.tick_gk (s : State)  : (s.tick).gk = s.gk := rfl
@[simp] theorem State.tick_beds (s : State)  : (s.tick).beds = s.beds := rfl

@[simp] theorem State.advance_pending (s : State) (t : Nat) : (s.advance t).pending = s.pending := rfl
@[simp] theorem State.advance_held (s : State) (t : Nat) : (s.advance t).held = s.held := rfl
@[simp] theorem State.advance_tripped (s : State) (t : Nat) : (s.advance t).tripped = s.tripped := rfl
@[simp] theorem State.advance_mem (s : State) (t : Nat) : (s.advance t).mem = s.mem := rfl
@[simp] theorem State.advance_ecc (s : State) (t : Nat) : (s.advance t).ecc = s.ecc := rfl
@[simp] theorem State.advance_free (s : State) (t : Nat) : (s.advance t).free = s.free := rfl
@[simp] theorem State.advance_gate (s : State) (t : Nat) : (s.advance t).gate = s.gate := rfl
@[simp] theorem State.advance_plots (s : State) (t : Nat) : (s.advance t).plots = s.plots := rfl
@[simp] theorem State.advance_flt (s : State) (t : Nat) : (s.advance t).flt = s.flt := rfl
@[simp] theorem State.advance_thr (s : State) (t : Nat) : (s.advance t).thr = s.thr := rfl
@[simp] theorem State.advance_trn (s : State) (t : Nat) : (s.advance t).trn = s.trn := rfl
@[simp] theorem State.advance_irg (s : State) (t : Nat) : (s.advance t).irg = s.irg := rfl
@[simp] theorem State.advance_ring (s : State) (t : Nat) : (s.advance t).ring = s.ring := rfl
@[simp] theorem State.advance_sec (s : State) (t : Nat) : (s.advance t).sec = s.sec := rfl
@[simp] theorem State.advance_ddr (s : State) (t : Nat) : (s.advance t).ddr = s.ddr := rfl
@[simp] theorem State.advance_pwr (s : State) (t : Nat) : (s.advance t).pwr = s.pwr := rfl
@[simp] theorem State.advance_gk (s : State) (t : Nat) : (s.advance t).gk = s.gk := rfl
@[simp] theorem State.advance_beds (s : State) (t : Nat) : (s.advance t).beds = s.beds := rfl

@[simp] theorem State.setXor_pending (s : State) (c x : Nat) : (s.setXor c x).pending = s.pending := rfl
@[simp] theorem State.setXor_held (s : State) (c x : Nat) : (s.setXor c x).held = s.held := rfl
@[simp] theorem State.setXor_tripped (s : State) (c x : Nat) : (s.setXor c x).tripped = s.tripped := rfl
@[simp] theorem State.setXor_mem (s : State) (c x : Nat) : (s.setXor c x).mem = s.mem := rfl
@[simp] theorem State.setXor_free (s : State) (c x : Nat) : (s.setXor c x).free = s.free := rfl
@[simp] theorem State.setXor_hub (s : State) (c x : Nat) : (s.setXor c x).hub = s.hub := rfl
@[simp] theorem State.setXor_gate (s : State) (c x : Nat) : (s.setXor c x).gate = s.gate := rfl
@[simp] theorem State.setXor_sdl (s : State) (c x : Nat) : (s.setXor c x).sdl = s.sdl := rfl
@[simp] theorem State.setXor_plots (s : State) (c x : Nat) : (s.setXor c x).plots = s.plots := rfl
@[simp] theorem State.setXor_flt (s : State) (c x : Nat) : (s.setXor c x).flt = s.flt := rfl
@[simp] theorem State.setXor_rms (s : State) (c x : Nat) : (s.setXor c x).rms = s.rms := rfl
@[simp] theorem State.setXor_thr (s : State) (c x : Nat) : (s.setXor c x).thr = s.thr := rfl
@[simp] theorem State.setXor_trn (s : State) (c x : Nat) : (s.setXor c x).trn = s.trn := rfl
@[simp] theorem State.setXor_irg (s : State) (c x : Nat) : (s.setXor c x).irg = s.irg := rfl
@[simp] theorem State.setXor_ring (s : State) (c x : Nat) : (s.setXor c x).ring = s.ring := rfl
@[simp] theorem State.setXor_sec (s : State) (c x : Nat) : (s.setXor c x).sec = s.sec := rfl
@[simp] theorem State.setXor_ddr (s : State) (c x : Nat) : (s.setXor c x).ddr = s.ddr := rfl
@[simp] theorem State.setXor_pwr (s : State) (c x : Nat) : (s.setXor c x).pwr = s.pwr := rfl
@[simp] theorem State.setXor_gk (s : State) (c x : Nat) : (s.setXor c x).gk = s.gk := rfl
@[simp] theorem State.setXor_beds (s : State) (c x : Nat) : (s.setXor c x).beds = s.beds := rfl

@[simp] theorem State.putCw_pending (s : State) (c x : Nat) : (s.putCw c x).pending = s.pending := rfl
@[simp] theorem State.putCw_held (s : State) (c x : Nat) : (s.putCw c x).held = s.held := rfl
@[simp] theorem State.putCw_tripped (s : State) (c x : Nat) : (s.putCw c x).tripped = s.tripped := rfl
@[simp] theorem State.putCw_free (s : State) (c x : Nat) : (s.putCw c x).free = s.free := rfl
@[simp] theorem State.putCw_hub (s : State) (c x : Nat) : (s.putCw c x).hub = s.hub := rfl
@[simp] theorem State.putCw_gate (s : State) (c x : Nat) : (s.putCw c x).gate = s.gate := rfl
@[simp] theorem State.putCw_sdl (s : State) (c x : Nat) : (s.putCw c x).sdl = s.sdl := rfl
@[simp] theorem State.putCw_plots (s : State) (c x : Nat) : (s.putCw c x).plots = s.plots := rfl
@[simp] theorem State.putCw_flt (s : State) (c x : Nat) : (s.putCw c x).flt = s.flt := rfl
@[simp] theorem State.putCw_rms (s : State) (c x : Nat) : (s.putCw c x).rms = s.rms := rfl
@[simp] theorem State.putCw_thr (s : State) (c x : Nat) : (s.putCw c x).thr = s.thr := rfl
@[simp] theorem State.putCw_trn (s : State) (c x : Nat) : (s.putCw c x).trn = s.trn := rfl
@[simp] theorem State.putCw_irg (s : State) (c x : Nat) : (s.putCw c x).irg = s.irg := rfl
@[simp] theorem State.putCw_ring (s : State) (c x : Nat) : (s.putCw c x).ring = s.ring := rfl
@[simp] theorem State.putCw_sec (s : State) (c x : Nat) : (s.putCw c x).sec = s.sec := rfl
@[simp] theorem State.putCw_ddr (s : State) (c x : Nat) : (s.putCw c x).ddr = s.ddr := rfl
@[simp] theorem State.putCw_pwr (s : State) (c x : Nat) : (s.putCw c x).pwr = s.pwr := rfl
@[simp] theorem State.putCw_gk (s : State) (c x : Nat) : (s.putCw c x).gk = s.gk := rfl
@[simp] theorem State.putCw_beds (s : State) (c x : Nat) : (s.putCw c x).beds = s.beds := rfl

@[simp] theorem State.putPoison_pending (s : State) (c x : Nat) : (s.putPoison c x).pending = s.pending := rfl
@[simp] theorem State.putPoison_held (s : State) (c x : Nat) : (s.putPoison c x).held = s.held := rfl
@[simp] theorem State.putPoison_tripped (s : State) (c x : Nat) : (s.putPoison c x).tripped = s.tripped := rfl
@[simp] theorem State.putPoison_free (s : State) (c x : Nat) : (s.putPoison c x).free = s.free := rfl
@[simp] theorem State.putPoison_hub (s : State) (c x : Nat) : (s.putPoison c x).hub = s.hub := rfl
@[simp] theorem State.putPoison_gate (s : State) (c x : Nat) : (s.putPoison c x).gate = s.gate := rfl
@[simp] theorem State.putPoison_sdl (s : State) (c x : Nat) : (s.putPoison c x).sdl = s.sdl := rfl
@[simp] theorem State.putPoison_plots (s : State) (c x : Nat) : (s.putPoison c x).plots = s.plots := rfl
@[simp] theorem State.putPoison_flt (s : State) (c x : Nat) : (s.putPoison c x).flt = s.flt := rfl
@[simp] theorem State.putPoison_rms (s : State) (c x : Nat) : (s.putPoison c x).rms = s.rms := rfl
@[simp] theorem State.putPoison_thr (s : State) (c x : Nat) : (s.putPoison c x).thr = s.thr := rfl
@[simp] theorem State.putPoison_trn (s : State) (c x : Nat) : (s.putPoison c x).trn = s.trn := rfl
@[simp] theorem State.putPoison_irg (s : State) (c x : Nat) : (s.putPoison c x).irg = s.irg := rfl
@[simp] theorem State.putPoison_ring (s : State) (c x : Nat) : (s.putPoison c x).ring = s.ring := rfl
@[simp] theorem State.putPoison_sec (s : State) (c x : Nat) : (s.putPoison c x).sec = s.sec := rfl
@[simp] theorem State.putPoison_ddr (s : State) (c x : Nat) : (s.putPoison c x).ddr = s.ddr := rfl
@[simp] theorem State.putPoison_pwr (s : State) (c x : Nat) : (s.putPoison c x).pwr = s.pwr := rfl
@[simp] theorem State.putPoison_gk (s : State) (c x : Nat) : (s.putPoison c x).gk = s.gk := rfl
@[simp] theorem State.putPoison_beds (s : State) (c x : Nat) : (s.putPoison c x).beds = s.beds := rfl

@[simp] theorem State.zeroBytes_pending (s : State) (a n : Nat) : (s.zeroBytes a n).pending = s.pending := rfl
@[simp] theorem State.zeroBytes_held (s : State) (a n : Nat) : (s.zeroBytes a n).held = s.held := rfl
@[simp] theorem State.zeroBytes_tripped (s : State) (a n : Nat) : (s.zeroBytes a n).tripped = s.tripped := rfl
@[simp] theorem State.zeroBytes_free (s : State) (a n : Nat) : (s.zeroBytes a n).free = s.free := rfl
@[simp] theorem State.zeroBytes_hub (s : State) (a n : Nat) : (s.zeroBytes a n).hub = s.hub := rfl
@[simp] theorem State.zeroBytes_gate (s : State) (a n : Nat) : (s.zeroBytes a n).gate = s.gate := rfl
@[simp] theorem State.zeroBytes_sdl (s : State) (a n : Nat) : (s.zeroBytes a n).sdl = s.sdl := rfl
@[simp] theorem State.zeroBytes_plots (s : State) (a n : Nat) : (s.zeroBytes a n).plots = s.plots := rfl
@[simp] theorem State.zeroBytes_flt (s : State) (a n : Nat) : (s.zeroBytes a n).flt = s.flt := rfl
@[simp] theorem State.zeroBytes_rms (s : State) (a n : Nat) : (s.zeroBytes a n).rms = s.rms := rfl
@[simp] theorem State.zeroBytes_thr (s : State) (a n : Nat) : (s.zeroBytes a n).thr = s.thr := rfl
@[simp] theorem State.zeroBytes_trn (s : State) (a n : Nat) : (s.zeroBytes a n).trn = s.trn := rfl
@[simp] theorem State.zeroBytes_irg (s : State) (a n : Nat) : (s.zeroBytes a n).irg = s.irg := rfl
@[simp] theorem State.zeroBytes_ring (s : State) (a n : Nat) : (s.zeroBytes a n).ring = s.ring := rfl
@[simp] theorem State.zeroBytes_sec (s : State) (a n : Nat) : (s.zeroBytes a n).sec = s.sec := rfl
@[simp] theorem State.zeroBytes_ddr (s : State) (a n : Nat) : (s.zeroBytes a n).ddr = s.ddr := rfl
@[simp] theorem State.zeroBytes_pwr (s : State) (a n : Nat) : (s.zeroBytes a n).pwr = s.pwr := rfl
@[simp] theorem State.zeroBytes_gk (s : State) (a n : Nat) : (s.zeroBytes a n).gk = s.gk := rfl
@[simp] theorem State.zeroBytes_beds (s : State) (a n : Nat) : (s.zeroBytes a n).beds = s.beds := rfl

@[simp] theorem State.toFlt_pending (s : State) (r : FltRec) : (s.toFlt r).pending = s.pending := rfl
@[simp] theorem State.toFlt_held (s : State) (r : FltRec) : (s.toFlt r).held = s.held := rfl
@[simp] theorem State.toFlt_tripped (s : State) (r : FltRec) : (s.toFlt r).tripped = s.tripped := rfl
@[simp] theorem State.toFlt_mem (s : State) (r : FltRec) : (s.toFlt r).mem = s.mem := rfl
@[simp] theorem State.toFlt_ecc (s : State) (r : FltRec) : (s.toFlt r).ecc = s.ecc := rfl
@[simp] theorem State.toFlt_free (s : State) (r : FltRec) : (s.toFlt r).free = s.free := rfl
@[simp] theorem State.toFlt_hub (s : State) (r : FltRec) : (s.toFlt r).hub = s.hub := rfl
@[simp] theorem State.toFlt_gate (s : State) (r : FltRec) : (s.toFlt r).gate = s.gate := rfl
@[simp] theorem State.toFlt_sdl (s : State) (r : FltRec) : (s.toFlt r).sdl = s.sdl := rfl
@[simp] theorem State.toFlt_plots (s : State) (r : FltRec) : (s.toFlt r).plots = s.plots := rfl
@[simp] theorem State.toFlt_rms (s : State) (r : FltRec) : (s.toFlt r).rms = s.rms := rfl
@[simp] theorem State.toFlt_thr (s : State) (r : FltRec) : (s.toFlt r).thr = s.thr := rfl
@[simp] theorem State.toFlt_trn (s : State) (r : FltRec) : (s.toFlt r).trn = s.trn := rfl
@[simp] theorem State.toFlt_irg (s : State) (r : FltRec) : (s.toFlt r).irg = s.irg := rfl
@[simp] theorem State.toFlt_ring (s : State) (r : FltRec) : (s.toFlt r).ring = s.ring := rfl
@[simp] theorem State.toFlt_sec (s : State) (r : FltRec) : (s.toFlt r).sec = s.sec := rfl
@[simp] theorem State.toFlt_ddr (s : State) (r : FltRec) : (s.toFlt r).ddr = s.ddr := rfl
@[simp] theorem State.toFlt_pwr (s : State) (r : FltRec) : (s.toFlt r).pwr = s.pwr := rfl
@[simp] theorem State.toFlt_gk (s : State) (r : FltRec) : (s.toFlt r).gk = s.gk := rfl
@[simp] theorem State.toFlt_beds (s : State) (r : FltRec) : (s.toFlt r).beds = s.beds := rfl

@[simp] theorem State.modCtx_pending (s : State) (c : Nat) (f : CtxSt → CtxSt) : (s.modCtx c f).pending = s.pending := rfl
@[simp] theorem State.modCtx_held (s : State) (c : Nat) (f : CtxSt → CtxSt) : (s.modCtx c f).held = s.held := rfl
@[simp] theorem State.modCtx_tripped (s : State) (c : Nat) (f : CtxSt → CtxSt) : (s.modCtx c f).tripped = s.tripped := rfl
@[simp] theorem State.modCtx_mem (s : State) (c : Nat) (f : CtxSt → CtxSt) : (s.modCtx c f).mem = s.mem := rfl
@[simp] theorem State.modCtx_ecc (s : State) (c : Nat) (f : CtxSt → CtxSt) : (s.modCtx c f).ecc = s.ecc := rfl
@[simp] theorem State.modCtx_free (s : State) (c : Nat) (f : CtxSt → CtxSt) : (s.modCtx c f).free = s.free := rfl
@[simp] theorem State.modCtx_hub (s : State) (c : Nat) (f : CtxSt → CtxSt) : (s.modCtx c f).hub = s.hub := rfl
@[simp] theorem State.modCtx_gate (s : State) (c : Nat) (f : CtxSt → CtxSt) : (s.modCtx c f).gate = s.gate := rfl
@[simp] theorem State.modCtx_sdl (s : State) (c : Nat) (f : CtxSt → CtxSt) : (s.modCtx c f).sdl = s.sdl := rfl
@[simp] theorem State.modCtx_plots (s : State) (c : Nat) (f : CtxSt → CtxSt) : (s.modCtx c f).plots = s.plots := rfl
@[simp] theorem State.modCtx_flt (s : State) (c : Nat) (f : CtxSt → CtxSt) : (s.modCtx c f).flt = s.flt := rfl
@[simp] theorem State.modCtx_thr (s : State) (c : Nat) (f : CtxSt → CtxSt) : (s.modCtx c f).thr = s.thr := rfl
@[simp] theorem State.modCtx_trn (s : State) (c : Nat) (f : CtxSt → CtxSt) : (s.modCtx c f).trn = s.trn := rfl
@[simp] theorem State.modCtx_irg (s : State) (c : Nat) (f : CtxSt → CtxSt) : (s.modCtx c f).irg = s.irg := rfl
@[simp] theorem State.modCtx_ring (s : State) (c : Nat) (f : CtxSt → CtxSt) : (s.modCtx c f).ring = s.ring := rfl
@[simp] theorem State.modCtx_sec (s : State) (c : Nat) (f : CtxSt → CtxSt) : (s.modCtx c f).sec = s.sec := rfl
@[simp] theorem State.modCtx_ddr (s : State) (c : Nat) (f : CtxSt → CtxSt) : (s.modCtx c f).ddr = s.ddr := rfl
@[simp] theorem State.modCtx_pwr (s : State) (c : Nat) (f : CtxSt → CtxSt) : (s.modCtx c f).pwr = s.pwr := rfl
@[simp] theorem State.modCtx_gk (s : State) (c : Nat) (f : CtxSt → CtxSt) : (s.modCtx c f).gk = s.gk := rfl
@[simp] theorem State.modCtx_beds (s : State) (c : Nat) (f : CtxSt → CtxSt) : (s.modCtx c f).beds = s.beds := rfl

@[simp] theorem State.modPlot_pending (s : State) (n : Nat) (f : PlotSt → PlotSt) : (s.modPlot n f).pending = s.pending := rfl
@[simp] theorem State.modPlot_held (s : State) (n : Nat) (f : PlotSt → PlotSt) : (s.modPlot n f).held = s.held := rfl
@[simp] theorem State.modPlot_tripped (s : State) (n : Nat) (f : PlotSt → PlotSt) : (s.modPlot n f).tripped = s.tripped := rfl
@[simp] theorem State.modPlot_mem (s : State) (n : Nat) (f : PlotSt → PlotSt) : (s.modPlot n f).mem = s.mem := rfl
@[simp] theorem State.modPlot_ecc (s : State) (n : Nat) (f : PlotSt → PlotSt) : (s.modPlot n f).ecc = s.ecc := rfl
@[simp] theorem State.modPlot_free (s : State) (n : Nat) (f : PlotSt → PlotSt) : (s.modPlot n f).free = s.free := rfl
@[simp] theorem State.modPlot_hub (s : State) (n : Nat) (f : PlotSt → PlotSt) : (s.modPlot n f).hub = s.hub := rfl
@[simp] theorem State.modPlot_gate (s : State) (n : Nat) (f : PlotSt → PlotSt) : (s.modPlot n f).gate = s.gate := rfl
@[simp] theorem State.modPlot_sdl (s : State) (n : Nat) (f : PlotSt → PlotSt) : (s.modPlot n f).sdl = s.sdl := rfl
@[simp] theorem State.modPlot_flt (s : State) (n : Nat) (f : PlotSt → PlotSt) : (s.modPlot n f).flt = s.flt := rfl
@[simp] theorem State.modPlot_rms (s : State) (n : Nat) (f : PlotSt → PlotSt) : (s.modPlot n f).rms = s.rms := rfl
@[simp] theorem State.modPlot_thr (s : State) (n : Nat) (f : PlotSt → PlotSt) : (s.modPlot n f).thr = s.thr := rfl
@[simp] theorem State.modPlot_trn (s : State) (n : Nat) (f : PlotSt → PlotSt) : (s.modPlot n f).trn = s.trn := rfl
@[simp] theorem State.modPlot_irg (s : State) (n : Nat) (f : PlotSt → PlotSt) : (s.modPlot n f).irg = s.irg := rfl
@[simp] theorem State.modPlot_ring (s : State) (n : Nat) (f : PlotSt → PlotSt) : (s.modPlot n f).ring = s.ring := rfl
@[simp] theorem State.modPlot_sec (s : State) (n : Nat) (f : PlotSt → PlotSt) : (s.modPlot n f).sec = s.sec := rfl
@[simp] theorem State.modPlot_ddr (s : State) (n : Nat) (f : PlotSt → PlotSt) : (s.modPlot n f).ddr = s.ddr := rfl
@[simp] theorem State.modPlot_pwr (s : State) (n : Nat) (f : PlotSt → PlotSt) : (s.modPlot n f).pwr = s.pwr := rfl
@[simp] theorem State.modPlot_gk (s : State) (n : Nat) (f : PlotSt → PlotSt) : (s.modPlot n f).gk = s.gk := rfl
@[simp] theorem State.modPlot_beds (s : State) (n : Nat) (f : PlotSt → PlotSt) : (s.modPlot n f).beds = s.beds := rfl

@[simp] theorem State.modBtp_pending (s : State) (n : Nat) (f : BigTop → BigTop) : (s.modBtp n f).pending = s.pending := rfl
@[simp] theorem State.modBtp_held (s : State) (n : Nat) (f : BigTop → BigTop) : (s.modBtp n f).held = s.held := rfl
@[simp] theorem State.modBtp_tripped (s : State) (n : Nat) (f : BigTop → BigTop) : (s.modBtp n f).tripped = s.tripped := rfl
@[simp] theorem State.modBtp_mem (s : State) (n : Nat) (f : BigTop → BigTop) : (s.modBtp n f).mem = s.mem := rfl
@[simp] theorem State.modBtp_ecc (s : State) (n : Nat) (f : BigTop → BigTop) : (s.modBtp n f).ecc = s.ecc := rfl
@[simp] theorem State.modBtp_free (s : State) (n : Nat) (f : BigTop → BigTop) : (s.modBtp n f).free = s.free := rfl
@[simp] theorem State.modBtp_hub (s : State) (n : Nat) (f : BigTop → BigTop) : (s.modBtp n f).hub = s.hub := rfl
@[simp] theorem State.modBtp_gate (s : State) (n : Nat) (f : BigTop → BigTop) : (s.modBtp n f).gate = s.gate := rfl
@[simp] theorem State.modBtp_sdl (s : State) (n : Nat) (f : BigTop → BigTop) : (s.modBtp n f).sdl = s.sdl := rfl
@[simp] theorem State.modBtp_flt (s : State) (n : Nat) (f : BigTop → BigTop) : (s.modBtp n f).flt = s.flt := rfl
@[simp] theorem State.modBtp_rms (s : State) (n : Nat) (f : BigTop → BigTop) : (s.modBtp n f).rms = s.rms := rfl
@[simp] theorem State.modBtp_thr (s : State) (n : Nat) (f : BigTop → BigTop) : (s.modBtp n f).thr = s.thr := rfl
@[simp] theorem State.modBtp_trn (s : State) (n : Nat) (f : BigTop → BigTop) : (s.modBtp n f).trn = s.trn := rfl
@[simp] theorem State.modBtp_irg (s : State) (n : Nat) (f : BigTop → BigTop) : (s.modBtp n f).irg = s.irg := rfl
@[simp] theorem State.modBtp_ring (s : State) (n : Nat) (f : BigTop → BigTop) : (s.modBtp n f).ring = s.ring := rfl
@[simp] theorem State.modBtp_sec (s : State) (n : Nat) (f : BigTop → BigTop) : (s.modBtp n f).sec = s.sec := rfl
@[simp] theorem State.modBtp_ddr (s : State) (n : Nat) (f : BigTop → BigTop) : (s.modBtp n f).ddr = s.ddr := rfl
@[simp] theorem State.modBtp_pwr (s : State) (n : Nat) (f : BigTop → BigTop) : (s.modBtp n f).pwr = s.pwr := rfl
@[simp] theorem State.modBtp_gk (s : State) (n : Nat) (f : BigTop → BigTop) : (s.modBtp n f).gk = s.gk := rfl
@[simp] theorem State.modBtp_beds (s : State) (n : Nat) (f : BigTop → BigTop) : (s.modBtp n f).beds = s.beds := rfl

@[simp] theorem State.modSiv_pending (s : State) (n : Nat) (f : Sieve → Sieve) : (s.modSiv n f).pending = s.pending := rfl
@[simp] theorem State.modSiv_held (s : State) (n : Nat) (f : Sieve → Sieve) : (s.modSiv n f).held = s.held := rfl
@[simp] theorem State.modSiv_tripped (s : State) (n : Nat) (f : Sieve → Sieve) : (s.modSiv n f).tripped = s.tripped := rfl
@[simp] theorem State.modSiv_mem (s : State) (n : Nat) (f : Sieve → Sieve) : (s.modSiv n f).mem = s.mem := rfl
@[simp] theorem State.modSiv_ecc (s : State) (n : Nat) (f : Sieve → Sieve) : (s.modSiv n f).ecc = s.ecc := rfl
@[simp] theorem State.modSiv_free (s : State) (n : Nat) (f : Sieve → Sieve) : (s.modSiv n f).free = s.free := rfl
@[simp] theorem State.modSiv_hub (s : State) (n : Nat) (f : Sieve → Sieve) : (s.modSiv n f).hub = s.hub := rfl
@[simp] theorem State.modSiv_gate (s : State) (n : Nat) (f : Sieve → Sieve) : (s.modSiv n f).gate = s.gate := rfl
@[simp] theorem State.modSiv_sdl (s : State) (n : Nat) (f : Sieve → Sieve) : (s.modSiv n f).sdl = s.sdl := rfl
@[simp] theorem State.modSiv_flt (s : State) (n : Nat) (f : Sieve → Sieve) : (s.modSiv n f).flt = s.flt := rfl
@[simp] theorem State.modSiv_rms (s : State) (n : Nat) (f : Sieve → Sieve) : (s.modSiv n f).rms = s.rms := rfl
@[simp] theorem State.modSiv_thr (s : State) (n : Nat) (f : Sieve → Sieve) : (s.modSiv n f).thr = s.thr := rfl
@[simp] theorem State.modSiv_trn (s : State) (n : Nat) (f : Sieve → Sieve) : (s.modSiv n f).trn = s.trn := rfl
@[simp] theorem State.modSiv_irg (s : State) (n : Nat) (f : Sieve → Sieve) : (s.modSiv n f).irg = s.irg := rfl
@[simp] theorem State.modSiv_ring (s : State) (n : Nat) (f : Sieve → Sieve) : (s.modSiv n f).ring = s.ring := rfl
@[simp] theorem State.modSiv_sec (s : State) (n : Nat) (f : Sieve → Sieve) : (s.modSiv n f).sec = s.sec := rfl
@[simp] theorem State.modSiv_ddr (s : State) (n : Nat) (f : Sieve → Sieve) : (s.modSiv n f).ddr = s.ddr := rfl
@[simp] theorem State.modSiv_pwr (s : State) (n : Nat) (f : Sieve → Sieve) : (s.modSiv n f).pwr = s.pwr := rfl
@[simp] theorem State.modSiv_gk (s : State) (n : Nat) (f : Sieve → Sieve) : (s.modSiv n f).gk = s.gk := rfl
@[simp] theorem State.modSiv_beds (s : State) (n : Nat) (f : Sieve → Sieve) : (s.modSiv n f).beds = s.beds := rfl

@[simp] theorem State.modUnit_pending (s : State) (a b c : Nat) (f : UnitSt → UnitSt) : (s.modUnit a b c f).pending = s.pending := rfl
@[simp] theorem State.modUnit_held (s : State) (a b c : Nat) (f : UnitSt → UnitSt) : (s.modUnit a b c f).held = s.held := rfl
@[simp] theorem State.modUnit_tripped (s : State) (a b c : Nat) (f : UnitSt → UnitSt) : (s.modUnit a b c f).tripped = s.tripped := rfl
@[simp] theorem State.modUnit_mem (s : State) (a b c : Nat) (f : UnitSt → UnitSt) : (s.modUnit a b c f).mem = s.mem := rfl
@[simp] theorem State.modUnit_ecc (s : State) (a b c : Nat) (f : UnitSt → UnitSt) : (s.modUnit a b c f).ecc = s.ecc := rfl
@[simp] theorem State.modUnit_free (s : State) (a b c : Nat) (f : UnitSt → UnitSt) : (s.modUnit a b c f).free = s.free := rfl
@[simp] theorem State.modUnit_hub (s : State) (a b c : Nat) (f : UnitSt → UnitSt) : (s.modUnit a b c f).hub = s.hub := rfl
@[simp] theorem State.modUnit_gate (s : State) (a b c : Nat) (f : UnitSt → UnitSt) : (s.modUnit a b c f).gate = s.gate := rfl
@[simp] theorem State.modUnit_sdl (s : State) (a b c : Nat) (f : UnitSt → UnitSt) : (s.modUnit a b c f).sdl = s.sdl := rfl
@[simp] theorem State.modUnit_plots (s : State) (a b c : Nat) (f : UnitSt → UnitSt) : (s.modUnit a b c f).plots = s.plots := rfl
@[simp] theorem State.modUnit_rms (s : State) (a b c : Nat) (f : UnitSt → UnitSt) : (s.modUnit a b c f).rms = s.rms := rfl
@[simp] theorem State.modUnit_thr (s : State) (a b c : Nat) (f : UnitSt → UnitSt) : (s.modUnit a b c f).thr = s.thr := rfl
@[simp] theorem State.modUnit_trn (s : State) (a b c : Nat) (f : UnitSt → UnitSt) : (s.modUnit a b c f).trn = s.trn := rfl
@[simp] theorem State.modUnit_irg (s : State) (a b c : Nat) (f : UnitSt → UnitSt) : (s.modUnit a b c f).irg = s.irg := rfl
@[simp] theorem State.modUnit_ring (s : State) (a b c : Nat) (f : UnitSt → UnitSt) : (s.modUnit a b c f).ring = s.ring := rfl
@[simp] theorem State.modUnit_sec (s : State) (a b c : Nat) (f : UnitSt → UnitSt) : (s.modUnit a b c f).sec = s.sec := rfl
@[simp] theorem State.modUnit_ddr (s : State) (a b c : Nat) (f : UnitSt → UnitSt) : (s.modUnit a b c f).ddr = s.ddr := rfl
@[simp] theorem State.modUnit_pwr (s : State) (a b c : Nat) (f : UnitSt → UnitSt) : (s.modUnit a b c f).pwr = s.pwr := rfl
@[simp] theorem State.modUnit_gk (s : State) (a b c : Nat) (f : UnitSt → UnitSt) : (s.modUnit a b c f).gk = s.gk := rfl
@[simp] theorem State.modUnit_beds (s : State) (a b c : Nat) (f : UnitSt → UnitSt) : (s.modUnit a b c f).beds = s.beds := rfl

@[simp] theorem State.modBed_pending (s : State) (n b : Nat) (f : BedSt → BedSt) : (s.modBed n b f).pending = s.pending := rfl
@[simp] theorem State.modBed_held (s : State) (n b : Nat) (f : BedSt → BedSt) : (s.modBed n b f).held = s.held := rfl
@[simp] theorem State.modBed_tripped (s : State) (n b : Nat) (f : BedSt → BedSt) : (s.modBed n b f).tripped = s.tripped := rfl
@[simp] theorem State.modBed_mem (s : State) (n b : Nat) (f : BedSt → BedSt) : (s.modBed n b f).mem = s.mem := rfl
@[simp] theorem State.modBed_ecc (s : State) (n b : Nat) (f : BedSt → BedSt) : (s.modBed n b f).ecc = s.ecc := rfl
@[simp] theorem State.modBed_free (s : State) (n b : Nat) (f : BedSt → BedSt) : (s.modBed n b f).free = s.free := rfl
@[simp] theorem State.modBed_hub (s : State) (n b : Nat) (f : BedSt → BedSt) : (s.modBed n b f).hub = s.hub := rfl
@[simp] theorem State.modBed_gate (s : State) (n b : Nat) (f : BedSt → BedSt) : (s.modBed n b f).gate = s.gate := rfl
@[simp] theorem State.modBed_sdl (s : State) (n b : Nat) (f : BedSt → BedSt) : (s.modBed n b f).sdl = s.sdl := rfl
@[simp] theorem State.modBed_plots (s : State) (n b : Nat) (f : BedSt → BedSt) : (s.modBed n b f).plots = s.plots := rfl
@[simp] theorem State.modBed_flt (s : State) (n b : Nat) (f : BedSt → BedSt) : (s.modBed n b f).flt = s.flt := rfl
@[simp] theorem State.modBed_rms (s : State) (n b : Nat) (f : BedSt → BedSt) : (s.modBed n b f).rms = s.rms := rfl
@[simp] theorem State.modBed_thr (s : State) (n b : Nat) (f : BedSt → BedSt) : (s.modBed n b f).thr = s.thr := rfl
@[simp] theorem State.modBed_trn (s : State) (n b : Nat) (f : BedSt → BedSt) : (s.modBed n b f).trn = s.trn := rfl
@[simp] theorem State.modBed_irg (s : State) (n b : Nat) (f : BedSt → BedSt) : (s.modBed n b f).irg = s.irg := rfl
@[simp] theorem State.modBed_ring (s : State) (n b : Nat) (f : BedSt → BedSt) : (s.modBed n b f).ring = s.ring := rfl
@[simp] theorem State.modBed_sec (s : State) (n b : Nat) (f : BedSt → BedSt) : (s.modBed n b f).sec = s.sec := rfl
@[simp] theorem State.modBed_ddr (s : State) (n b : Nat) (f : BedSt → BedSt) : (s.modBed n b f).ddr = s.ddr := rfl
@[simp] theorem State.modBed_pwr (s : State) (n b : Nat) (f : BedSt → BedSt) : (s.modBed n b f).pwr = s.pwr := rfl
@[simp] theorem State.modBed_gk (s : State) (n b : Nat) (f : BedSt → BedSt) : (s.modBed n b f).gk = s.gk := rfl

@[simp] theorem State.modSprout_pending (s : State) (i : SproutId) (f : SproutSt → SproutSt) : (s.modSprout i f).pending = s.pending := rfl
@[simp] theorem State.modSprout_held (s : State) (i : SproutId) (f : SproutSt → SproutSt) : (s.modSprout i f).held = s.held := rfl
@[simp] theorem State.modSprout_tripped (s : State) (i : SproutId) (f : SproutSt → SproutSt) : (s.modSprout i f).tripped = s.tripped := rfl
@[simp] theorem State.modSprout_mem (s : State) (i : SproutId) (f : SproutSt → SproutSt) : (s.modSprout i f).mem = s.mem := rfl
@[simp] theorem State.modSprout_ecc (s : State) (i : SproutId) (f : SproutSt → SproutSt) : (s.modSprout i f).ecc = s.ecc := rfl
@[simp] theorem State.modSprout_free (s : State) (i : SproutId) (f : SproutSt → SproutSt) : (s.modSprout i f).free = s.free := rfl
@[simp] theorem State.modSprout_hub (s : State) (i : SproutId) (f : SproutSt → SproutSt) : (s.modSprout i f).hub = s.hub := rfl
@[simp] theorem State.modSprout_gate (s : State) (i : SproutId) (f : SproutSt → SproutSt) : (s.modSprout i f).gate = s.gate := rfl
@[simp] theorem State.modSprout_sdl (s : State) (i : SproutId) (f : SproutSt → SproutSt) : (s.modSprout i f).sdl = s.sdl := rfl
@[simp] theorem State.modSprout_plots (s : State) (i : SproutId) (f : SproutSt → SproutSt) : (s.modSprout i f).plots = s.plots := rfl
@[simp] theorem State.modSprout_flt (s : State) (i : SproutId) (f : SproutSt → SproutSt) : (s.modSprout i f).flt = s.flt := rfl
@[simp] theorem State.modSprout_rms (s : State) (i : SproutId) (f : SproutSt → SproutSt) : (s.modSprout i f).rms = s.rms := rfl
@[simp] theorem State.modSprout_thr (s : State) (i : SproutId) (f : SproutSt → SproutSt) : (s.modSprout i f).thr = s.thr := rfl
@[simp] theorem State.modSprout_trn (s : State) (i : SproutId) (f : SproutSt → SproutSt) : (s.modSprout i f).trn = s.trn := rfl
@[simp] theorem State.modSprout_irg (s : State) (i : SproutId) (f : SproutSt → SproutSt) : (s.modSprout i f).irg = s.irg := rfl
@[simp] theorem State.modSprout_ring (s : State) (i : SproutId) (f : SproutSt → SproutSt) : (s.modSprout i f).ring = s.ring := rfl
@[simp] theorem State.modSprout_sec (s : State) (i : SproutId) (f : SproutSt → SproutSt) : (s.modSprout i f).sec = s.sec := rfl
@[simp] theorem State.modSprout_ddr (s : State) (i : SproutId) (f : SproutSt → SproutSt) : (s.modSprout i f).ddr = s.ddr := rfl
@[simp] theorem State.modSprout_pwr (s : State) (i : SproutId) (f : SproutSt → SproutSt) : (s.modSprout i f).pwr = s.pwr := rfl
@[simp] theorem State.modSprout_gk (s : State) (i : SproutId) (f : SproutSt → SproutSt) : (s.modSprout i f).gk = s.gk := rfl

@[simp] theorem State.modDdrCh_pending (s : State) (k : Nat) (f : DdrCh → DdrCh) : (s.modDdrCh k f).pending = s.pending := rfl
@[simp] theorem State.modDdrCh_held (s : State) (k : Nat) (f : DdrCh → DdrCh) : (s.modDdrCh k f).held = s.held := rfl
@[simp] theorem State.modDdrCh_tripped (s : State) (k : Nat) (f : DdrCh → DdrCh) : (s.modDdrCh k f).tripped = s.tripped := rfl
@[simp] theorem State.modDdrCh_mem (s : State) (k : Nat) (f : DdrCh → DdrCh) : (s.modDdrCh k f).mem = s.mem := rfl
@[simp] theorem State.modDdrCh_ecc (s : State) (k : Nat) (f : DdrCh → DdrCh) : (s.modDdrCh k f).ecc = s.ecc := rfl
@[simp] theorem State.modDdrCh_free (s : State) (k : Nat) (f : DdrCh → DdrCh) : (s.modDdrCh k f).free = s.free := rfl
@[simp] theorem State.modDdrCh_hub (s : State) (k : Nat) (f : DdrCh → DdrCh) : (s.modDdrCh k f).hub = s.hub := rfl
@[simp] theorem State.modDdrCh_gate (s : State) (k : Nat) (f : DdrCh → DdrCh) : (s.modDdrCh k f).gate = s.gate := rfl
@[simp] theorem State.modDdrCh_sdl (s : State) (k : Nat) (f : DdrCh → DdrCh) : (s.modDdrCh k f).sdl = s.sdl := rfl
@[simp] theorem State.modDdrCh_plots (s : State) (k : Nat) (f : DdrCh → DdrCh) : (s.modDdrCh k f).plots = s.plots := rfl
@[simp] theorem State.modDdrCh_flt (s : State) (k : Nat) (f : DdrCh → DdrCh) : (s.modDdrCh k f).flt = s.flt := rfl
@[simp] theorem State.modDdrCh_rms (s : State) (k : Nat) (f : DdrCh → DdrCh) : (s.modDdrCh k f).rms = s.rms := rfl
@[simp] theorem State.modDdrCh_thr (s : State) (k : Nat) (f : DdrCh → DdrCh) : (s.modDdrCh k f).thr = s.thr := rfl
@[simp] theorem State.modDdrCh_trn (s : State) (k : Nat) (f : DdrCh → DdrCh) : (s.modDdrCh k f).trn = s.trn := rfl
@[simp] theorem State.modDdrCh_irg (s : State) (k : Nat) (f : DdrCh → DdrCh) : (s.modDdrCh k f).irg = s.irg := rfl
@[simp] theorem State.modDdrCh_ring (s : State) (k : Nat) (f : DdrCh → DdrCh) : (s.modDdrCh k f).ring = s.ring := rfl
@[simp] theorem State.modDdrCh_sec (s : State) (k : Nat) (f : DdrCh → DdrCh) : (s.modDdrCh k f).sec = s.sec := rfl
@[simp] theorem State.modDdrCh_pwr (s : State) (k : Nat) (f : DdrCh → DdrCh) : (s.modDdrCh k f).pwr = s.pwr := rfl
@[simp] theorem State.modDdrCh_gk (s : State) (k : Nat) (f : DdrCh → DdrCh) : (s.modDdrCh k f).gk = s.gk := rfl
@[simp] theorem State.modDdrCh_beds (s : State) (k : Nat) (f : DdrCh → DdrCh) : (s.modDdrCh k f).beds = s.beds := rfl

@[simp] theorem State.modFn_pending (s : State) (k : Nat) (f : CopySt → CopySt) : (s.modFn k f).pending = s.pending := rfl
@[simp] theorem State.modFn_held (s : State) (k : Nat) (f : CopySt → CopySt) : (s.modFn k f).held = s.held := rfl
@[simp] theorem State.modFn_tripped (s : State) (k : Nat) (f : CopySt → CopySt) : (s.modFn k f).tripped = s.tripped := rfl
@[simp] theorem State.modFn_mem (s : State) (k : Nat) (f : CopySt → CopySt) : (s.modFn k f).mem = s.mem := rfl
@[simp] theorem State.modFn_ecc (s : State) (k : Nat) (f : CopySt → CopySt) : (s.modFn k f).ecc = s.ecc := rfl
@[simp] theorem State.modFn_free (s : State) (k : Nat) (f : CopySt → CopySt) : (s.modFn k f).free = s.free := rfl
@[simp] theorem State.modFn_hub (s : State) (k : Nat) (f : CopySt → CopySt) : (s.modFn k f).hub = s.hub := rfl
@[simp] theorem State.modFn_gate (s : State) (k : Nat) (f : CopySt → CopySt) : (s.modFn k f).gate = s.gate := rfl
@[simp] theorem State.modFn_sdl (s : State) (k : Nat) (f : CopySt → CopySt) : (s.modFn k f).sdl = s.sdl := rfl
@[simp] theorem State.modFn_plots (s : State) (k : Nat) (f : CopySt → CopySt) : (s.modFn k f).plots = s.plots := rfl
@[simp] theorem State.modFn_flt (s : State) (k : Nat) (f : CopySt → CopySt) : (s.modFn k f).flt = s.flt := rfl
@[simp] theorem State.modFn_rms (s : State) (k : Nat) (f : CopySt → CopySt) : (s.modFn k f).rms = s.rms := rfl
@[simp] theorem State.modFn_thr (s : State) (k : Nat) (f : CopySt → CopySt) : (s.modFn k f).thr = s.thr := rfl
@[simp] theorem State.modFn_trn (s : State) (k : Nat) (f : CopySt → CopySt) : (s.modFn k f).trn = s.trn := rfl
@[simp] theorem State.modFn_ring (s : State) (k : Nat) (f : CopySt → CopySt) : (s.modFn k f).ring = s.ring := rfl
@[simp] theorem State.modFn_sec (s : State) (k : Nat) (f : CopySt → CopySt) : (s.modFn k f).sec = s.sec := rfl
@[simp] theorem State.modFn_ddr (s : State) (k : Nat) (f : CopySt → CopySt) : (s.modFn k f).ddr = s.ddr := rfl
@[simp] theorem State.modFn_pwr (s : State) (k : Nat) (f : CopySt → CopySt) : (s.modFn k f).pwr = s.pwr := rfl
@[simp] theorem State.modFn_gk (s : State) (k : Nat) (f : CopySt → CopySt) : (s.modFn k f).gk = s.gk := rfl
@[simp] theorem State.modFn_beds (s : State) (k : Nat) (f : CopySt → CopySt) : (s.modFn k f).beds = s.beds := rfl

@[simp] theorem State.modIrg_pending (s : State) (k : Nat) (f : Irrigator → Irrigator) : (s.modIrg k f).pending = s.pending := rfl
@[simp] theorem State.modIrg_held (s : State) (k : Nat) (f : Irrigator → Irrigator) : (s.modIrg k f).held = s.held := rfl
@[simp] theorem State.modIrg_tripped (s : State) (k : Nat) (f : Irrigator → Irrigator) : (s.modIrg k f).tripped = s.tripped := rfl
@[simp] theorem State.modIrg_mem (s : State) (k : Nat) (f : Irrigator → Irrigator) : (s.modIrg k f).mem = s.mem := rfl
@[simp] theorem State.modIrg_ecc (s : State) (k : Nat) (f : Irrigator → Irrigator) : (s.modIrg k f).ecc = s.ecc := rfl
@[simp] theorem State.modIrg_free (s : State) (k : Nat) (f : Irrigator → Irrigator) : (s.modIrg k f).free = s.free := rfl
@[simp] theorem State.modIrg_hub (s : State) (k : Nat) (f : Irrigator → Irrigator) : (s.modIrg k f).hub = s.hub := rfl
@[simp] theorem State.modIrg_gate (s : State) (k : Nat) (f : Irrigator → Irrigator) : (s.modIrg k f).gate = s.gate := rfl
@[simp] theorem State.modIrg_sdl (s : State) (k : Nat) (f : Irrigator → Irrigator) : (s.modIrg k f).sdl = s.sdl := rfl
@[simp] theorem State.modIrg_plots (s : State) (k : Nat) (f : Irrigator → Irrigator) : (s.modIrg k f).plots = s.plots := rfl
@[simp] theorem State.modIrg_flt (s : State) (k : Nat) (f : Irrigator → Irrigator) : (s.modIrg k f).flt = s.flt := rfl
@[simp] theorem State.modIrg_rms (s : State) (k : Nat) (f : Irrigator → Irrigator) : (s.modIrg k f).rms = s.rms := rfl
@[simp] theorem State.modIrg_thr (s : State) (k : Nat) (f : Irrigator → Irrigator) : (s.modIrg k f).thr = s.thr := rfl
@[simp] theorem State.modIrg_trn (s : State) (k : Nat) (f : Irrigator → Irrigator) : (s.modIrg k f).trn = s.trn := rfl
@[simp] theorem State.modIrg_ring (s : State) (k : Nat) (f : Irrigator → Irrigator) : (s.modIrg k f).ring = s.ring := rfl
@[simp] theorem State.modIrg_sec (s : State) (k : Nat) (f : Irrigator → Irrigator) : (s.modIrg k f).sec = s.sec := rfl
@[simp] theorem State.modIrg_ddr (s : State) (k : Nat) (f : Irrigator → Irrigator) : (s.modIrg k f).ddr = s.ddr := rfl
@[simp] theorem State.modIrg_pwr (s : State) (k : Nat) (f : Irrigator → Irrigator) : (s.modIrg k f).pwr = s.pwr := rfl
@[simp] theorem State.modIrg_gk (s : State) (k : Nat) (f : Irrigator → Irrigator) : (s.modIrg k f).gk = s.gk := rfl
@[simp] theorem State.modIrg_beds (s : State) (k : Nat) (f : Irrigator → Irrigator) : (s.modIrg k f).beds = s.beds := rfl

@[simp] theorem State.modFurrow_pending (s : State) (k n : Nat) (f : Furrow → Furrow) : (s.modFurrow k n f).pending = s.pending := rfl
@[simp] theorem State.modFurrow_held (s : State) (k n : Nat) (f : Furrow → Furrow) : (s.modFurrow k n f).held = s.held := rfl
@[simp] theorem State.modFurrow_tripped (s : State) (k n : Nat) (f : Furrow → Furrow) : (s.modFurrow k n f).tripped = s.tripped := rfl
@[simp] theorem State.modFurrow_mem (s : State) (k n : Nat) (f : Furrow → Furrow) : (s.modFurrow k n f).mem = s.mem := rfl
@[simp] theorem State.modFurrow_ecc (s : State) (k n : Nat) (f : Furrow → Furrow) : (s.modFurrow k n f).ecc = s.ecc := rfl
@[simp] theorem State.modFurrow_free (s : State) (k n : Nat) (f : Furrow → Furrow) : (s.modFurrow k n f).free = s.free := rfl
@[simp] theorem State.modFurrow_hub (s : State) (k n : Nat) (f : Furrow → Furrow) : (s.modFurrow k n f).hub = s.hub := rfl
@[simp] theorem State.modFurrow_gate (s : State) (k n : Nat) (f : Furrow → Furrow) : (s.modFurrow k n f).gate = s.gate := rfl
@[simp] theorem State.modFurrow_sdl (s : State) (k n : Nat) (f : Furrow → Furrow) : (s.modFurrow k n f).sdl = s.sdl := rfl
@[simp] theorem State.modFurrow_plots (s : State) (k n : Nat) (f : Furrow → Furrow) : (s.modFurrow k n f).plots = s.plots := rfl
@[simp] theorem State.modFurrow_flt (s : State) (k n : Nat) (f : Furrow → Furrow) : (s.modFurrow k n f).flt = s.flt := rfl
@[simp] theorem State.modFurrow_rms (s : State) (k n : Nat) (f : Furrow → Furrow) : (s.modFurrow k n f).rms = s.rms := rfl
@[simp] theorem State.modFurrow_thr (s : State) (k n : Nat) (f : Furrow → Furrow) : (s.modFurrow k n f).thr = s.thr := rfl
@[simp] theorem State.modFurrow_trn (s : State) (k n : Nat) (f : Furrow → Furrow) : (s.modFurrow k n f).trn = s.trn := rfl
@[simp] theorem State.modFurrow_ring (s : State) (k n : Nat) (f : Furrow → Furrow) : (s.modFurrow k n f).ring = s.ring := rfl
@[simp] theorem State.modFurrow_sec (s : State) (k n : Nat) (f : Furrow → Furrow) : (s.modFurrow k n f).sec = s.sec := rfl
@[simp] theorem State.modFurrow_ddr (s : State) (k n : Nat) (f : Furrow → Furrow) : (s.modFurrow k n f).ddr = s.ddr := rfl
@[simp] theorem State.modFurrow_pwr (s : State) (k n : Nat) (f : Furrow → Furrow) : (s.modFurrow k n f).pwr = s.pwr := rfl
@[simp] theorem State.modFurrow_gk (s : State) (k n : Nat) (f : Furrow → Furrow) : (s.modFurrow k n f).gk = s.gk := rfl
@[simp] theorem State.modFurrow_beds (s : State) (k n : Nat) (f : Furrow → Furrow) : (s.modFurrow k n f).beds = s.beds := rfl

@[simp] theorem State.modStep_pending (s : State) (c n : Nat) (f : StepSt → StepSt) : (s.modStep c n f).pending = s.pending := rfl
@[simp] theorem State.modStep_held (s : State) (c n : Nat) (f : StepSt → StepSt) : (s.modStep c n f).held = s.held := rfl
@[simp] theorem State.modStep_tripped (s : State) (c n : Nat) (f : StepSt → StepSt) : (s.modStep c n f).tripped = s.tripped := rfl
@[simp] theorem State.modStep_mem (s : State) (c n : Nat) (f : StepSt → StepSt) : (s.modStep c n f).mem = s.mem := rfl
@[simp] theorem State.modStep_ecc (s : State) (c n : Nat) (f : StepSt → StepSt) : (s.modStep c n f).ecc = s.ecc := rfl
@[simp] theorem State.modStep_free (s : State) (c n : Nat) (f : StepSt → StepSt) : (s.modStep c n f).free = s.free := rfl
@[simp] theorem State.modStep_hub (s : State) (c n : Nat) (f : StepSt → StepSt) : (s.modStep c n f).hub = s.hub := rfl
@[simp] theorem State.modStep_gate (s : State) (c n : Nat) (f : StepSt → StepSt) : (s.modStep c n f).gate = s.gate := rfl
@[simp] theorem State.modStep_sdl (s : State) (c n : Nat) (f : StepSt → StepSt) : (s.modStep c n f).sdl = s.sdl := rfl
@[simp] theorem State.modStep_plots (s : State) (c n : Nat) (f : StepSt → StepSt) : (s.modStep c n f).plots = s.plots := rfl
@[simp] theorem State.modStep_flt (s : State) (c n : Nat) (f : StepSt → StepSt) : (s.modStep c n f).flt = s.flt := rfl
@[simp] theorem State.modStep_thr (s : State) (c n : Nat) (f : StepSt → StepSt) : (s.modStep c n f).thr = s.thr := rfl
@[simp] theorem State.modStep_trn (s : State) (c n : Nat) (f : StepSt → StepSt) : (s.modStep c n f).trn = s.trn := rfl
@[simp] theorem State.modStep_irg (s : State) (c n : Nat) (f : StepSt → StepSt) : (s.modStep c n f).irg = s.irg := rfl
@[simp] theorem State.modStep_ring (s : State) (c n : Nat) (f : StepSt → StepSt) : (s.modStep c n f).ring = s.ring := rfl
@[simp] theorem State.modStep_sec (s : State) (c n : Nat) (f : StepSt → StepSt) : (s.modStep c n f).sec = s.sec := rfl
@[simp] theorem State.modStep_ddr (s : State) (c n : Nat) (f : StepSt → StepSt) : (s.modStep c n f).ddr = s.ddr := rfl
@[simp] theorem State.modStep_pwr (s : State) (c n : Nat) (f : StepSt → StepSt) : (s.modStep c n f).pwr = s.pwr := rfl
@[simp] theorem State.modStep_gk (s : State) (c n : Nat) (f : StepSt → StepSt) : (s.modStep c n f).gk = s.gk := rfl
@[simp] theorem State.modStep_beds (s : State) (c n : Nat) (f : StepSt → StepSt) : (s.modStep c n f).beds = s.beds := rfl

@[simp] theorem State.modTask_pending (s : State) (c n i : Nat) (f : TaskSt → TaskSt) : (s.modTask c n i f).pending = s.pending := rfl
@[simp] theorem State.modTask_held (s : State) (c n i : Nat) (f : TaskSt → TaskSt) : (s.modTask c n i f).held = s.held := rfl
@[simp] theorem State.modTask_tripped (s : State) (c n i : Nat) (f : TaskSt → TaskSt) : (s.modTask c n i f).tripped = s.tripped := rfl
@[simp] theorem State.modTask_mem (s : State) (c n i : Nat) (f : TaskSt → TaskSt) : (s.modTask c n i f).mem = s.mem := rfl
@[simp] theorem State.modTask_ecc (s : State) (c n i : Nat) (f : TaskSt → TaskSt) : (s.modTask c n i f).ecc = s.ecc := rfl
@[simp] theorem State.modTask_free (s : State) (c n i : Nat) (f : TaskSt → TaskSt) : (s.modTask c n i f).free = s.free := rfl
@[simp] theorem State.modTask_hub (s : State) (c n i : Nat) (f : TaskSt → TaskSt) : (s.modTask c n i f).hub = s.hub := rfl
@[simp] theorem State.modTask_gate (s : State) (c n i : Nat) (f : TaskSt → TaskSt) : (s.modTask c n i f).gate = s.gate := rfl
@[simp] theorem State.modTask_sdl (s : State) (c n i : Nat) (f : TaskSt → TaskSt) : (s.modTask c n i f).sdl = s.sdl := rfl
@[simp] theorem State.modTask_plots (s : State) (c n i : Nat) (f : TaskSt → TaskSt) : (s.modTask c n i f).plots = s.plots := rfl
@[simp] theorem State.modTask_flt (s : State) (c n i : Nat) (f : TaskSt → TaskSt) : (s.modTask c n i f).flt = s.flt := rfl
@[simp] theorem State.modTask_thr (s : State) (c n i : Nat) (f : TaskSt → TaskSt) : (s.modTask c n i f).thr = s.thr := rfl
@[simp] theorem State.modTask_trn (s : State) (c n i : Nat) (f : TaskSt → TaskSt) : (s.modTask c n i f).trn = s.trn := rfl
@[simp] theorem State.modTask_irg (s : State) (c n i : Nat) (f : TaskSt → TaskSt) : (s.modTask c n i f).irg = s.irg := rfl
@[simp] theorem State.modTask_ring (s : State) (c n i : Nat) (f : TaskSt → TaskSt) : (s.modTask c n i f).ring = s.ring := rfl
@[simp] theorem State.modTask_sec (s : State) (c n i : Nat) (f : TaskSt → TaskSt) : (s.modTask c n i f).sec = s.sec := rfl
@[simp] theorem State.modTask_ddr (s : State) (c n i : Nat) (f : TaskSt → TaskSt) : (s.modTask c n i f).ddr = s.ddr := rfl
@[simp] theorem State.modTask_pwr (s : State) (c n i : Nat) (f : TaskSt → TaskSt) : (s.modTask c n i f).pwr = s.pwr := rfl
@[simp] theorem State.modTask_gk (s : State) (c n i : Nat) (f : TaskSt → TaskSt) : (s.modTask c n i f).gk = s.gk := rfl
@[simp] theorem State.modTask_beds (s : State) (c n i : Nat) (f : TaskSt → TaskSt) : (s.modTask c n i f).beds = s.beds := rfl

@[simp] theorem State.modChan_pending (s : State) (k : Nat) (f : Channel → Channel) : (s.modChan k f).pending = s.pending := rfl
@[simp] theorem State.modChan_held (s : State) (k : Nat) (f : Channel → Channel) : (s.modChan k f).held = s.held := rfl
@[simp] theorem State.modChan_tripped (s : State) (k : Nat) (f : Channel → Channel) : (s.modChan k f).tripped = s.tripped := rfl
@[simp] theorem State.modChan_mem (s : State) (k : Nat) (f : Channel → Channel) : (s.modChan k f).mem = s.mem := rfl
@[simp] theorem State.modChan_ecc (s : State) (k : Nat) (f : Channel → Channel) : (s.modChan k f).ecc = s.ecc := rfl
@[simp] theorem State.modChan_free (s : State) (k : Nat) (f : Channel → Channel) : (s.modChan k f).free = s.free := rfl
@[simp] theorem State.modChan_hub (s : State) (k : Nat) (f : Channel → Channel) : (s.modChan k f).hub = s.hub := rfl
@[simp] theorem State.modChan_sdl (s : State) (k : Nat) (f : Channel → Channel) : (s.modChan k f).sdl = s.sdl := rfl
@[simp] theorem State.modChan_plots (s : State) (k : Nat) (f : Channel → Channel) : (s.modChan k f).plots = s.plots := rfl
@[simp] theorem State.modChan_flt (s : State) (k : Nat) (f : Channel → Channel) : (s.modChan k f).flt = s.flt := rfl
@[simp] theorem State.modChan_rms (s : State) (k : Nat) (f : Channel → Channel) : (s.modChan k f).rms = s.rms := rfl
@[simp] theorem State.modChan_thr (s : State) (k : Nat) (f : Channel → Channel) : (s.modChan k f).thr = s.thr := rfl
@[simp] theorem State.modChan_trn (s : State) (k : Nat) (f : Channel → Channel) : (s.modChan k f).trn = s.trn := rfl
@[simp] theorem State.modChan_irg (s : State) (k : Nat) (f : Channel → Channel) : (s.modChan k f).irg = s.irg := rfl
@[simp] theorem State.modChan_ring (s : State) (k : Nat) (f : Channel → Channel) : (s.modChan k f).ring = s.ring := rfl
@[simp] theorem State.modChan_sec (s : State) (k : Nat) (f : Channel → Channel) : (s.modChan k f).sec = s.sec := rfl
@[simp] theorem State.modChan_ddr (s : State) (k : Nat) (f : Channel → Channel) : (s.modChan k f).ddr = s.ddr := rfl
@[simp] theorem State.modChan_pwr (s : State) (k : Nat) (f : Channel → Channel) : (s.modChan k f).pwr = s.pwr := rfl
@[simp] theorem State.modChan_gk (s : State) (k : Nat) (f : Channel → Channel) : (s.modChan k f).gk = s.gk := rfl
@[simp] theorem State.modChan_beds (s : State) (k : Nat) (f : Channel → Channel) : (s.modChan k f).beds = s.beds := rfl

@[simp] theorem State.modPort_pending (s : State) (e : Bool) (f : RingPort → RingPort) : (s.modPort e f).pending = s.pending := rfl
@[simp] theorem State.modPort_held (s : State) (e : Bool) (f : RingPort → RingPort) : (s.modPort e f).held = s.held := rfl
@[simp] theorem State.modPort_tripped (s : State) (e : Bool) (f : RingPort → RingPort) : (s.modPort e f).tripped = s.tripped := rfl
@[simp] theorem State.modPort_mem (s : State) (e : Bool) (f : RingPort → RingPort) : (s.modPort e f).mem = s.mem := rfl
@[simp] theorem State.modPort_ecc (s : State) (e : Bool) (f : RingPort → RingPort) : (s.modPort e f).ecc = s.ecc := rfl
@[simp] theorem State.modPort_free (s : State) (e : Bool) (f : RingPort → RingPort) : (s.modPort e f).free = s.free := rfl
@[simp] theorem State.modPort_hub (s : State) (e : Bool) (f : RingPort → RingPort) : (s.modPort e f).hub = s.hub := rfl
@[simp] theorem State.modPort_gate (s : State) (e : Bool) (f : RingPort → RingPort) : (s.modPort e f).gate = s.gate := rfl
@[simp] theorem State.modPort_sdl (s : State) (e : Bool) (f : RingPort → RingPort) : (s.modPort e f).sdl = s.sdl := rfl
@[simp] theorem State.modPort_plots (s : State) (e : Bool) (f : RingPort → RingPort) : (s.modPort e f).plots = s.plots := rfl
@[simp] theorem State.modPort_flt (s : State) (e : Bool) (f : RingPort → RingPort) : (s.modPort e f).flt = s.flt := rfl
@[simp] theorem State.modPort_rms (s : State) (e : Bool) (f : RingPort → RingPort) : (s.modPort e f).rms = s.rms := rfl
@[simp] theorem State.modPort_thr (s : State) (e : Bool) (f : RingPort → RingPort) : (s.modPort e f).thr = s.thr := rfl
@[simp] theorem State.modPort_trn (s : State) (e : Bool) (f : RingPort → RingPort) : (s.modPort e f).trn = s.trn := rfl
@[simp] theorem State.modPort_irg (s : State) (e : Bool) (f : RingPort → RingPort) : (s.modPort e f).irg = s.irg := rfl
@[simp] theorem State.modPort_sec (s : State) (e : Bool) (f : RingPort → RingPort) : (s.modPort e f).sec = s.sec := rfl
@[simp] theorem State.modPort_ddr (s : State) (e : Bool) (f : RingPort → RingPort) : (s.modPort e f).ddr = s.ddr := rfl
@[simp] theorem State.modPort_pwr (s : State) (e : Bool) (f : RingPort → RingPort) : (s.modPort e f).pwr = s.pwr := rfl
@[simp] theorem State.modPort_gk (s : State) (e : Bool) (f : RingPort → RingPort) : (s.modPort e f).gk = s.gk := rfl
@[simp] theorem State.modPort_beds (s : State) (e : Bool) (f : RingPort → RingPort) : (s.modPort e f).beds = s.beds := rfl

@[simp] theorem State.modRu_pending (s : State) (r : Nat) (f : RuSt → RuSt) : (s.modRu r f).pending = s.pending := rfl
@[simp] theorem State.modRu_held (s : State) (r : Nat) (f : RuSt → RuSt) : (s.modRu r f).held = s.held := rfl
@[simp] theorem State.modRu_tripped (s : State) (r : Nat) (f : RuSt → RuSt) : (s.modRu r f).tripped = s.tripped := rfl
@[simp] theorem State.modRu_mem (s : State) (r : Nat) (f : RuSt → RuSt) : (s.modRu r f).mem = s.mem := rfl
@[simp] theorem State.modRu_ecc (s : State) (r : Nat) (f : RuSt → RuSt) : (s.modRu r f).ecc = s.ecc := rfl
@[simp] theorem State.modRu_free (s : State) (r : Nat) (f : RuSt → RuSt) : (s.modRu r f).free = s.free := rfl
@[simp] theorem State.modRu_hub (s : State) (r : Nat) (f : RuSt → RuSt) : (s.modRu r f).hub = s.hub := rfl
@[simp] theorem State.modRu_gate (s : State) (r : Nat) (f : RuSt → RuSt) : (s.modRu r f).gate = s.gate := rfl
@[simp] theorem State.modRu_sdl (s : State) (r : Nat) (f : RuSt → RuSt) : (s.modRu r f).sdl = s.sdl := rfl
@[simp] theorem State.modRu_plots (s : State) (r : Nat) (f : RuSt → RuSt) : (s.modRu r f).plots = s.plots := rfl
@[simp] theorem State.modRu_flt (s : State) (r : Nat) (f : RuSt → RuSt) : (s.modRu r f).flt = s.flt := rfl
@[simp] theorem State.modRu_rms (s : State) (r : Nat) (f : RuSt → RuSt) : (s.modRu r f).rms = s.rms := rfl
@[simp] theorem State.modRu_thr (s : State) (r : Nat) (f : RuSt → RuSt) : (s.modRu r f).thr = s.thr := rfl
@[simp] theorem State.modRu_irg (s : State) (r : Nat) (f : RuSt → RuSt) : (s.modRu r f).irg = s.irg := rfl
@[simp] theorem State.modRu_ring (s : State) (r : Nat) (f : RuSt → RuSt) : (s.modRu r f).ring = s.ring := rfl
@[simp] theorem State.modRu_sec (s : State) (r : Nat) (f : RuSt → RuSt) : (s.modRu r f).sec = s.sec := rfl
@[simp] theorem State.modRu_ddr (s : State) (r : Nat) (f : RuSt → RuSt) : (s.modRu r f).ddr = s.ddr := rfl
@[simp] theorem State.modRu_pwr (s : State) (r : Nat) (f : RuSt → RuSt) : (s.modRu r f).pwr = s.pwr := rfl
@[simp] theorem State.modRu_gk (s : State) (r : Nat) (f : RuSt → RuSt) : (s.modRu r f).gk = s.gk := rfl
@[simp] theorem State.modRu_beds (s : State) (r : Nat) (f : RuSt → RuSt) : (s.modRu r f).beds = s.beds := rfl

@[simp] theorem State.modFlow_pending (s : State) (k : Nat) (f : FlowSt → FlowSt) : (s.modFlow k f).pending = s.pending := rfl
@[simp] theorem State.modFlow_held (s : State) (k : Nat) (f : FlowSt → FlowSt) : (s.modFlow k f).held = s.held := rfl
@[simp] theorem State.modFlow_tripped (s : State) (k : Nat) (f : FlowSt → FlowSt) : (s.modFlow k f).tripped = s.tripped := rfl
@[simp] theorem State.modFlow_mem (s : State) (k : Nat) (f : FlowSt → FlowSt) : (s.modFlow k f).mem = s.mem := rfl
@[simp] theorem State.modFlow_ecc (s : State) (k : Nat) (f : FlowSt → FlowSt) : (s.modFlow k f).ecc = s.ecc := rfl
@[simp] theorem State.modFlow_free (s : State) (k : Nat) (f : FlowSt → FlowSt) : (s.modFlow k f).free = s.free := rfl
@[simp] theorem State.modFlow_hub (s : State) (k : Nat) (f : FlowSt → FlowSt) : (s.modFlow k f).hub = s.hub := rfl
@[simp] theorem State.modFlow_gate (s : State) (k : Nat) (f : FlowSt → FlowSt) : (s.modFlow k f).gate = s.gate := rfl
@[simp] theorem State.modFlow_sdl (s : State) (k : Nat) (f : FlowSt → FlowSt) : (s.modFlow k f).sdl = s.sdl := rfl
@[simp] theorem State.modFlow_plots (s : State) (k : Nat) (f : FlowSt → FlowSt) : (s.modFlow k f).plots = s.plots := rfl
@[simp] theorem State.modFlow_flt (s : State) (k : Nat) (f : FlowSt → FlowSt) : (s.modFlow k f).flt = s.flt := rfl
@[simp] theorem State.modFlow_rms (s : State) (k : Nat) (f : FlowSt → FlowSt) : (s.modFlow k f).rms = s.rms := rfl
@[simp] theorem State.modFlow_thr (s : State) (k : Nat) (f : FlowSt → FlowSt) : (s.modFlow k f).thr = s.thr := rfl
@[simp] theorem State.modFlow_irg (s : State) (k : Nat) (f : FlowSt → FlowSt) : (s.modFlow k f).irg = s.irg := rfl
@[simp] theorem State.modFlow_ring (s : State) (k : Nat) (f : FlowSt → FlowSt) : (s.modFlow k f).ring = s.ring := rfl
@[simp] theorem State.modFlow_sec (s : State) (k : Nat) (f : FlowSt → FlowSt) : (s.modFlow k f).sec = s.sec := rfl
@[simp] theorem State.modFlow_ddr (s : State) (k : Nat) (f : FlowSt → FlowSt) : (s.modFlow k f).ddr = s.ddr := rfl
@[simp] theorem State.modFlow_pwr (s : State) (k : Nat) (f : FlowSt → FlowSt) : (s.modFlow k f).pwr = s.pwr := rfl
@[simp] theorem State.modFlow_gk (s : State) (k : Nat) (f : FlowSt → FlowSt) : (s.modFlow k f).gk = s.gk := rfl
@[simp] theorem State.modFlow_beds (s : State) (k : Nat) (f : FlowSt → FlowSt) : (s.modFlow k f).beds = s.beds := rfl

@[simp] theorem State.setShed_pending (s : State) (l : List ShedMsg) : (s.setShed l).pending = s.pending := rfl
@[simp] theorem State.setShed_held (s : State) (l : List ShedMsg) : (s.setShed l).held = s.held := rfl
@[simp] theorem State.setShed_tripped (s : State) (l : List ShedMsg) : (s.setShed l).tripped = s.tripped := rfl
@[simp] theorem State.setShed_mem (s : State) (l : List ShedMsg) : (s.setShed l).mem = s.mem := rfl
@[simp] theorem State.setShed_ecc (s : State) (l : List ShedMsg) : (s.setShed l).ecc = s.ecc := rfl
@[simp] theorem State.setShed_free (s : State) (l : List ShedMsg) : (s.setShed l).free = s.free := rfl
@[simp] theorem State.setShed_hub (s : State) (l : List ShedMsg) : (s.setShed l).hub = s.hub := rfl
@[simp] theorem State.setShed_gate (s : State) (l : List ShedMsg) : (s.setShed l).gate = s.gate := rfl
@[simp] theorem State.setShed_sdl (s : State) (l : List ShedMsg) : (s.setShed l).sdl = s.sdl := rfl
@[simp] theorem State.setShed_plots (s : State) (l : List ShedMsg) : (s.setShed l).plots = s.plots := rfl
@[simp] theorem State.setShed_flt (s : State) (l : List ShedMsg) : (s.setShed l).flt = s.flt := rfl
@[simp] theorem State.setShed_rms (s : State) (l : List ShedMsg) : (s.setShed l).rms = s.rms := rfl
@[simp] theorem State.setShed_thr (s : State) (l : List ShedMsg) : (s.setShed l).thr = s.thr := rfl
@[simp] theorem State.setShed_irg (s : State) (l : List ShedMsg) : (s.setShed l).irg = s.irg := rfl
@[simp] theorem State.setShed_ring (s : State) (l : List ShedMsg) : (s.setShed l).ring = s.ring := rfl
@[simp] theorem State.setShed_sec (s : State) (l : List ShedMsg) : (s.setShed l).sec = s.sec := rfl
@[simp] theorem State.setShed_ddr (s : State) (l : List ShedMsg) : (s.setShed l).ddr = s.ddr := rfl
@[simp] theorem State.setShed_pwr (s : State) (l : List ShedMsg) : (s.setShed l).pwr = s.pwr := rfl
@[simp] theorem State.setShed_gk (s : State) (l : List ShedMsg) : (s.setShed l).gk = s.gk := rfl
@[simp] theorem State.setShed_beds (s : State) (l : List ShedMsg) : (s.setShed l).beds = s.beds := rfl

@[simp] theorem State.modPart_pending (s : State) (p : Nat) (f : PartSt → PartSt) : (s.modPart p f).pending = s.pending := rfl
@[simp] theorem State.modPart_held (s : State) (p : Nat) (f : PartSt → PartSt) : (s.modPart p f).held = s.held := rfl
@[simp] theorem State.modPart_tripped (s : State) (p : Nat) (f : PartSt → PartSt) : (s.modPart p f).tripped = s.tripped := rfl
@[simp] theorem State.modPart_mem (s : State) (p : Nat) (f : PartSt → PartSt) : (s.modPart p f).mem = s.mem := rfl
@[simp] theorem State.modPart_ecc (s : State) (p : Nat) (f : PartSt → PartSt) : (s.modPart p f).ecc = s.ecc := rfl
@[simp] theorem State.modPart_free (s : State) (p : Nat) (f : PartSt → PartSt) : (s.modPart p f).free = s.free := rfl
@[simp] theorem State.modPart_hub (s : State) (p : Nat) (f : PartSt → PartSt) : (s.modPart p f).hub = s.hub := rfl
@[simp] theorem State.modPart_gate (s : State) (p : Nat) (f : PartSt → PartSt) : (s.modPart p f).gate = s.gate := rfl
@[simp] theorem State.modPart_sdl (s : State) (p : Nat) (f : PartSt → PartSt) : (s.modPart p f).sdl = s.sdl := rfl
@[simp] theorem State.modPart_plots (s : State) (p : Nat) (f : PartSt → PartSt) : (s.modPart p f).plots = s.plots := rfl
@[simp] theorem State.modPart_flt (s : State) (p : Nat) (f : PartSt → PartSt) : (s.modPart p f).flt = s.flt := rfl
@[simp] theorem State.modPart_rms (s : State) (p : Nat) (f : PartSt → PartSt) : (s.modPart p f).rms = s.rms := rfl
@[simp] theorem State.modPart_thr (s : State) (p : Nat) (f : PartSt → PartSt) : (s.modPart p f).thr = s.thr := rfl
@[simp] theorem State.modPart_trn (s : State) (p : Nat) (f : PartSt → PartSt) : (s.modPart p f).trn = s.trn := rfl
@[simp] theorem State.modPart_irg (s : State) (p : Nat) (f : PartSt → PartSt) : (s.modPart p f).irg = s.irg := rfl
@[simp] theorem State.modPart_ring (s : State) (p : Nat) (f : PartSt → PartSt) : (s.modPart p f).ring = s.ring := rfl
@[simp] theorem State.modPart_ddr (s : State) (p : Nat) (f : PartSt → PartSt) : (s.modPart p f).ddr = s.ddr := rfl
@[simp] theorem State.modPart_pwr (s : State) (p : Nat) (f : PartSt → PartSt) : (s.modPart p f).pwr = s.pwr := rfl
@[simp] theorem State.modPart_gk (s : State) (p : Nat) (f : PartSt → PartSt) : (s.modPart p f).gk = s.gk := rfl
@[simp] theorem State.modPart_beds (s : State) (p : Nat) (f : PartSt → PartSt) : (s.modPart p f).beds = s.beds := rfl

@[simp] theorem State.setKeys_pending (s : State) (m : SMap JobKey) : (s.setKeys m).pending = s.pending := rfl
@[simp] theorem State.setKeys_held (s : State) (m : SMap JobKey) : (s.setKeys m).held = s.held := rfl
@[simp] theorem State.setKeys_tripped (s : State) (m : SMap JobKey) : (s.setKeys m).tripped = s.tripped := rfl
@[simp] theorem State.setKeys_mem (s : State) (m : SMap JobKey) : (s.setKeys m).mem = s.mem := rfl
@[simp] theorem State.setKeys_ecc (s : State) (m : SMap JobKey) : (s.setKeys m).ecc = s.ecc := rfl
@[simp] theorem State.setKeys_free (s : State) (m : SMap JobKey) : (s.setKeys m).free = s.free := rfl
@[simp] theorem State.setKeys_hub (s : State) (m : SMap JobKey) : (s.setKeys m).hub = s.hub := rfl
@[simp] theorem State.setKeys_gate (s : State) (m : SMap JobKey) : (s.setKeys m).gate = s.gate := rfl
@[simp] theorem State.setKeys_sdl (s : State) (m : SMap JobKey) : (s.setKeys m).sdl = s.sdl := rfl
@[simp] theorem State.setKeys_plots (s : State) (m : SMap JobKey) : (s.setKeys m).plots = s.plots := rfl
@[simp] theorem State.setKeys_flt (s : State) (m : SMap JobKey) : (s.setKeys m).flt = s.flt := rfl
@[simp] theorem State.setKeys_rms (s : State) (m : SMap JobKey) : (s.setKeys m).rms = s.rms := rfl
@[simp] theorem State.setKeys_thr (s : State) (m : SMap JobKey) : (s.setKeys m).thr = s.thr := rfl
@[simp] theorem State.setKeys_trn (s : State) (m : SMap JobKey) : (s.setKeys m).trn = s.trn := rfl
@[simp] theorem State.setKeys_irg (s : State) (m : SMap JobKey) : (s.setKeys m).irg = s.irg := rfl
@[simp] theorem State.setKeys_ring (s : State) (m : SMap JobKey) : (s.setKeys m).ring = s.ring := rfl
@[simp] theorem State.setKeys_ddr (s : State) (m : SMap JobKey) : (s.setKeys m).ddr = s.ddr := rfl
@[simp] theorem State.setKeys_pwr (s : State) (m : SMap JobKey) : (s.setKeys m).pwr = s.pwr := rfl
@[simp] theorem State.setKeys_gk (s : State) (m : SMap JobKey) : (s.setKeys m).gk = s.gk := rfl
@[simp] theorem State.setKeys_beds (s : State) (m : SMap JobKey) : (s.setKeys m).beds = s.beds := rfl

@[simp] theorem State.modSession_pending (s : State) (k : Nat) (f : Session → Session) : (s.modSession k f).pending = s.pending := rfl
@[simp] theorem State.modSession_held (s : State) (k : Nat) (f : Session → Session) : (s.modSession k f).held = s.held := rfl
@[simp] theorem State.modSession_tripped (s : State) (k : Nat) (f : Session → Session) : (s.modSession k f).tripped = s.tripped := rfl
@[simp] theorem State.modSession_mem (s : State) (k : Nat) (f : Session → Session) : (s.modSession k f).mem = s.mem := rfl
@[simp] theorem State.modSession_ecc (s : State) (k : Nat) (f : Session → Session) : (s.modSession k f).ecc = s.ecc := rfl
@[simp] theorem State.modSession_free (s : State) (k : Nat) (f : Session → Session) : (s.modSession k f).free = s.free := rfl
@[simp] theorem State.modSession_hub (s : State) (k : Nat) (f : Session → Session) : (s.modSession k f).hub = s.hub := rfl
@[simp] theorem State.modSession_gate (s : State) (k : Nat) (f : Session → Session) : (s.modSession k f).gate = s.gate := rfl
@[simp] theorem State.modSession_sdl (s : State) (k : Nat) (f : Session → Session) : (s.modSession k f).sdl = s.sdl := rfl
@[simp] theorem State.modSession_plots (s : State) (k : Nat) (f : Session → Session) : (s.modSession k f).plots = s.plots := rfl
@[simp] theorem State.modSession_flt (s : State) (k : Nat) (f : Session → Session) : (s.modSession k f).flt = s.flt := rfl
@[simp] theorem State.modSession_rms (s : State) (k : Nat) (f : Session → Session) : (s.modSession k f).rms = s.rms := rfl
@[simp] theorem State.modSession_thr (s : State) (k : Nat) (f : Session → Session) : (s.modSession k f).thr = s.thr := rfl
@[simp] theorem State.modSession_trn (s : State) (k : Nat) (f : Session → Session) : (s.modSession k f).trn = s.trn := rfl
@[simp] theorem State.modSession_irg (s : State) (k : Nat) (f : Session → Session) : (s.modSession k f).irg = s.irg := rfl
@[simp] theorem State.modSession_ring (s : State) (k : Nat) (f : Session → Session) : (s.modSession k f).ring = s.ring := rfl
@[simp] theorem State.modSession_ddr (s : State) (k : Nat) (f : Session → Session) : (s.modSession k f).ddr = s.ddr := rfl
@[simp] theorem State.modSession_pwr (s : State) (k : Nat) (f : Session → Session) : (s.modSession k f).pwr = s.pwr := rfl
@[simp] theorem State.modSession_gk (s : State) (k : Nat) (f : Session → Session) : (s.modSession k f).gk = s.gk := rfl
@[simp] theorem State.modSession_beds (s : State) (k : Nat) (f : Session → Session) : (s.modSession k f).beds = s.beds := rfl

@[simp] theorem State.modUpdate_pending (s : State) (f : Update → Update) : (s.modUpdate f).pending = s.pending := rfl
@[simp] theorem State.modUpdate_held (s : State) (f : Update → Update) : (s.modUpdate f).held = s.held := rfl
@[simp] theorem State.modUpdate_tripped (s : State) (f : Update → Update) : (s.modUpdate f).tripped = s.tripped := rfl
@[simp] theorem State.modUpdate_mem (s : State) (f : Update → Update) : (s.modUpdate f).mem = s.mem := rfl
@[simp] theorem State.modUpdate_ecc (s : State) (f : Update → Update) : (s.modUpdate f).ecc = s.ecc := rfl
@[simp] theorem State.modUpdate_free (s : State) (f : Update → Update) : (s.modUpdate f).free = s.free := rfl
@[simp] theorem State.modUpdate_hub (s : State) (f : Update → Update) : (s.modUpdate f).hub = s.hub := rfl
@[simp] theorem State.modUpdate_gate (s : State) (f : Update → Update) : (s.modUpdate f).gate = s.gate := rfl
@[simp] theorem State.modUpdate_sdl (s : State) (f : Update → Update) : (s.modUpdate f).sdl = s.sdl := rfl
@[simp] theorem State.modUpdate_plots (s : State) (f : Update → Update) : (s.modUpdate f).plots = s.plots := rfl
@[simp] theorem State.modUpdate_flt (s : State) (f : Update → Update) : (s.modUpdate f).flt = s.flt := rfl
@[simp] theorem State.modUpdate_rms (s : State) (f : Update → Update) : (s.modUpdate f).rms = s.rms := rfl
@[simp] theorem State.modUpdate_thr (s : State) (f : Update → Update) : (s.modUpdate f).thr = s.thr := rfl
@[simp] theorem State.modUpdate_trn (s : State) (f : Update → Update) : (s.modUpdate f).trn = s.trn := rfl
@[simp] theorem State.modUpdate_irg (s : State) (f : Update → Update) : (s.modUpdate f).irg = s.irg := rfl
@[simp] theorem State.modUpdate_ring (s : State) (f : Update → Update) : (s.modUpdate f).ring = s.ring := rfl
@[simp] theorem State.modUpdate_sec (s : State) (f : Update → Update) : (s.modUpdate f).sec = s.sec := rfl
@[simp] theorem State.modUpdate_ddr (s : State) (f : Update → Update) : (s.modUpdate f).ddr = s.ddr := rfl
@[simp] theorem State.modUpdate_pwr (s : State) (f : Update → Update) : (s.modUpdate f).pwr = s.pwr := rfl
@[simp] theorem State.modUpdate_beds (s : State) (f : Update → Update) : (s.modUpdate f).beds = s.beds := rfl

@[simp] theorem State.setDom_pending (s : State) (k x : Nat) : (s.setDom k x).pending = s.pending := rfl
@[simp] theorem State.setDom_held (s : State) (k x : Nat) : (s.setDom k x).held = s.held := rfl
@[simp] theorem State.setDom_tripped (s : State) (k x : Nat) : (s.setDom k x).tripped = s.tripped := rfl
@[simp] theorem State.setDom_mem (s : State) (k x : Nat) : (s.setDom k x).mem = s.mem := rfl
@[simp] theorem State.setDom_ecc (s : State) (k x : Nat) : (s.setDom k x).ecc = s.ecc := rfl
@[simp] theorem State.setDom_free (s : State) (k x : Nat) : (s.setDom k x).free = s.free := rfl
@[simp] theorem State.setDom_hub (s : State) (k x : Nat) : (s.setDom k x).hub = s.hub := rfl
@[simp] theorem State.setDom_gate (s : State) (k x : Nat) : (s.setDom k x).gate = s.gate := rfl
@[simp] theorem State.setDom_sdl (s : State) (k x : Nat) : (s.setDom k x).sdl = s.sdl := rfl
@[simp] theorem State.setDom_plots (s : State) (k x : Nat) : (s.setDom k x).plots = s.plots := rfl
@[simp] theorem State.setDom_flt (s : State) (k x : Nat) : (s.setDom k x).flt = s.flt := rfl
@[simp] theorem State.setDom_rms (s : State) (k x : Nat) : (s.setDom k x).rms = s.rms := rfl
@[simp] theorem State.setDom_thr (s : State) (k x : Nat) : (s.setDom k x).thr = s.thr := rfl
@[simp] theorem State.setDom_trn (s : State) (k x : Nat) : (s.setDom k x).trn = s.trn := rfl
@[simp] theorem State.setDom_irg (s : State) (k x : Nat) : (s.setDom k x).irg = s.irg := rfl
@[simp] theorem State.setDom_ring (s : State) (k x : Nat) : (s.setDom k x).ring = s.ring := rfl
@[simp] theorem State.setDom_sec (s : State) (k x : Nat) : (s.setDom k x).sec = s.sec := rfl
@[simp] theorem State.setDom_ddr (s : State) (k x : Nat) : (s.setDom k x).ddr = s.ddr := rfl
@[simp] theorem State.setDom_gk (s : State) (k x : Nat) : (s.setDom k x).gk = s.gk := rfl
@[simp] theorem State.setDom_beds (s : State) (k x : Nat) : (s.setDom k x).beds = s.beds := rfl

@[simp] theorem State.setDeficit_pending (s : State) (e k : Nat) (d : Int) : (s.setDeficit e k d).pending = s.pending := rfl
@[simp] theorem State.setDeficit_held (s : State) (e k : Nat) (d : Int) : (s.setDeficit e k d).held = s.held := rfl
@[simp] theorem State.setDeficit_tripped (s : State) (e k : Nat) (d : Int) : (s.setDeficit e k d).tripped = s.tripped := rfl
@[simp] theorem State.setDeficit_mem (s : State) (e k : Nat) (d : Int) : (s.setDeficit e k d).mem = s.mem := rfl
@[simp] theorem State.setDeficit_ecc (s : State) (e k : Nat) (d : Int) : (s.setDeficit e k d).ecc = s.ecc := rfl
@[simp] theorem State.setDeficit_free (s : State) (e k : Nat) (d : Int) : (s.setDeficit e k d).free = s.free := rfl
@[simp] theorem State.setDeficit_hub (s : State) (e k : Nat) (d : Int) : (s.setDeficit e k d).hub = s.hub := rfl
@[simp] theorem State.setDeficit_gate (s : State) (e k : Nat) (d : Int) : (s.setDeficit e k d).gate = s.gate := rfl
@[simp] theorem State.setDeficit_sdl (s : State) (e k : Nat) (d : Int) : (s.setDeficit e k d).sdl = s.sdl := rfl
@[simp] theorem State.setDeficit_plots (s : State) (e k : Nat) (d : Int) : (s.setDeficit e k d).plots = s.plots := rfl
@[simp] theorem State.setDeficit_flt (s : State) (e k : Nat) (d : Int) : (s.setDeficit e k d).flt = s.flt := rfl
@[simp] theorem State.setDeficit_thr (s : State) (e k : Nat) (d : Int) : (s.setDeficit e k d).thr = s.thr := rfl
@[simp] theorem State.setDeficit_trn (s : State) (e k : Nat) (d : Int) : (s.setDeficit e k d).trn = s.trn := rfl
@[simp] theorem State.setDeficit_irg (s : State) (e k : Nat) (d : Int) : (s.setDeficit e k d).irg = s.irg := rfl
@[simp] theorem State.setDeficit_ring (s : State) (e k : Nat) (d : Int) : (s.setDeficit e k d).ring = s.ring := rfl
@[simp] theorem State.setDeficit_sec (s : State) (e k : Nat) (d : Int) : (s.setDeficit e k d).sec = s.sec := rfl
@[simp] theorem State.setDeficit_ddr (s : State) (e k : Nat) (d : Int) : (s.setDeficit e k d).ddr = s.ddr := rfl
@[simp] theorem State.setDeficit_pwr (s : State) (e k : Nat) (d : Int) : (s.setDeficit e k d).pwr = s.pwr := rfl
@[simp] theorem State.setDeficit_gk (s : State) (e k : Nat) (d : Int) : (s.setDeficit e k d).gk = s.gk := rfl
@[simp] theorem State.setDeficit_beds (s : State) (e k : Nat) (d : Int) : (s.setDeficit e k d).beds = s.beds := rfl

end Sys2Proof.Machine
end

