-- ==== Sys2Proof/Laws/Ops.lean ====
section
/-!
SUPPORT. What the shared operations do: an effect of a running device, counters and events, and tables of the state.
-/

namespace Sys2Proof.Machine

open Sys2Proof

/-- A running device takes the effect. -/
theorem State.live_of (s : State) (f : State → State) (h : s.stopped = false) : s.live f = f s := by
  unfold State.live
  simp [h]

/-- A stopped device takes none. -/
theorem State.live_stopped (s : State) (f : State → State) (h : s.stopped = true) : s.live f = s := by
  unfold State.live
  simp [h]

/-! ### Counters -/

/-- A counter of the PF's view that is not the hub's own count of messages. -/
def PlainCnt (p : Page) (off : Nat) : Prop := regAddr p off < 2 ^ 26 ∧ regAddr p off ≠ regAddr pgEvh 0x40

theorem PlainCnt.ne {p : Page} {off : Nat} (h : PlainCnt p off) (v : Nat) : cntKey 0 p off ≠ cntKey v pgEvh 0x40 := by
  unfold PlainCnt at h
  unfold cntKey
  rcases Nat.eq_zero_or_pos v with rfl | hv
  · omega
  · have : 2 ^ 26 ≤ v * 2 ^ 26 := Nat.le_mul_of_pos_left _ hv
    omega

theorem Hub.cnt_emit (h : Hub) (x : Sent) : (h.emit x).cnt = h.cnt := by
  unfold Hub.emit
  split <;> rfl

theorem Hub.cnt_setRaw (h : Hub) (v : View) (p : Page) (b : Nat) : (h.setRaw v p b).cnt = h.cnt := rfl

theorem Hub.get_add_ne (h : Hub) {k i : Nat} (n : Nat) (hk : i ≠ k) :
    SMap.get zeroUnlisted (h.add k n).cnt i = SMap.get zeroUnlisted h.cnt i := SMap.get_put_ne zeroUnlisted _ _ hk

theorem Hub.cnt_sendVector (h : Hub) (f vec : Nat) (v : View) {i : Nat} (hi : i ≠ cntKey v.no pgEvh 0x40) :
    SMap.get zeroUnlisted (h.sendVector f vec v).cnt i = SMap.get zeroUnlisted h.cnt i := by
  unfold Hub.sendVector
  split
  · rfl
  · dsimp only
    split
    · rw [Hub.cnt_setRaw, Hub.cnt_emit, Hub.get_add_ne h 1 hi]
    · rw [Hub.cnt_emit, Hub.get_add_ne h 1 hi]

theorem Hub.cnt_notify (m : SMap Word) (h : Hub) (v : View) (p : Page) {i : Nat} (hi : ∀ v, i ≠ cntKey v pgEvh 0x40) :
    SMap.get zeroUnlisted (h.notify m v p).cnt i = SMap.get zeroUnlisted h.cnt i := by
  have key : ∀ g : Hub, SMap.get zeroUnlisted g.cnt i = SMap.get zeroUnlisted h.cnt i →
      SMap.get zeroUnlisted (if v = .pf ∧ fieldOf (routeOf m v p) 12 1 = 1 then g.emit (Sent.gkNotify (pageSource p)) else g).cnt i
        = SMap.get zeroUnlisted h.cnt i := by
    intro g hg
    split
    · rw [Hub.cnt_emit, hg]
    · exact hg
  unfold Hub.notify
  apply key
  split
  · split
    · exact Hub.cnt_sendVector h _ _ _ (hi _)
    · rfl
  · rfl

theorem Hub.cnt_raiseIn (m : SMap Word) (h : Hub) (v : View) (p : Page) (b : Nat) {i : Nat} (hi : ∀ v, i ≠ cntKey v pgEvh 0x40) :
    SMap.get zeroUnlisted (h.raiseIn m v p b).cnt i = SMap.get zeroUnlisted h.cnt i := by
  unfold Hub.raiseIn
  dsimp only
  split
  · rw [Hub.cnt_notify m _ v p hi, Hub.cnt_setRaw]
  · rw [Hub.cnt_setRaw]

theorem Hub.cnt_raise (m : SMap Word) (p : Page) (b : Nat) {i : Nat} (hi : ∀ v, i ≠ cntKey v pgEvh 0x40) (l : List View) :
    ∀ h : Hub, SMap.get zeroUnlisted (l.foldl (fun h v => h.raiseIn m v p b) h).cnt i = SMap.get zeroUnlisted h.cnt i := by
  induction l with
  | nil => intro h; rfl
  | cons v l ih =>
    intro h
    rw [List.foldl_cons, ih, Hub.cnt_raiseIn m h v p b hi]

/-- An event leaves every counter but those of messages sent. -/
theorem State.count_raise (s : State) (p : Page) (b : Nat) (o : Option Nat) {q : Page} {off : Nat} (hq : PlainCnt q off) :
    (s.raise p b o).count q off = s.count q off := Hub.cnt_raise s.gate.act p b hq.ne _ s.hub

theorem State.count_raiseIn (s : State) (v : View) (p : Page) (b : Nat) {q : Page} {off : Nat} (hq : PlainCnt q off) :
    (s.raiseIn v p b).count q off = s.count q off := Hub.cnt_raiseIn s.gate.act s.hub v p b hq.ne

theorem State.count_emit (s : State) (x : Sent) (q : Page) (off : Nat) : (s.emit x).count q off = s.count q off := by
  show SMap.get zeroUnlisted (s.hub.emit x).cnt _ = _
  rw [Hub.cnt_emit]
  rfl

/-- What counting adds to the counters of the views other than the PF's. -/
theorem Hub.cnt_bump_tail (m : SMap Word) (p : Page) (off n : Nat) {i : Nat} (hi : i < 2 ^ 26) (hm : ∀ v, i ≠ cntKey v pgEvh 0x40)
    (l : List View) (hl : ∀ v ∈ l, v ≠ .pf) :
    ∀ h : Hub, SMap.get zeroUnlisted (l.foldl (Hub.bumpView m p off n) h).cnt i
      = SMap.get zeroUnlisted h.cnt i := by
  induction l with
  | nil => intro h; rfl
  | cons v l ih =>
    intro h
    rw [List.foldl_cons, ih (fun w hw => hl w (List.mem_cons_of_mem _ hw))]
    cases v with
    | gk => rfl
    | pf => exact absurd rfl (hl _ (List.mem_cons_self ..))
    | vf k =>
      have hne : i ≠ cntKey (k.val + 1) p off := by
        unfold cntKey
        omega
      unfold Hub.bumpView
      dsimp only
      split
      · rw [Hub.cnt_raiseIn m _ _ _ _ hm, Hub.get_add_ne h n hne]
      · exact Hub.get_add_ne h n hne

theorem evtViews_tail (m : SMap Word) (o : Option Nat) : ∃ l, evtViews m o = .pf :: l ∧ ∀ v ∈ l, v ≠ View.pf := by
  unfold evtViews
  refine ⟨_, rfl, ?_⟩
  intro v hv
  rcases List.mem_cons.1 hv with rfl | hv
  · decide
  · rw [show ∀ l : List View, [].append l = l from fun _ => rfl] at hv
    split at hv
    · cases hv
    · split at hv
      · rw [List.mem_singleton.1 hv]
        intro h
        cases h
      · cases hv

theorem Hub.cnt_bumpBy (m : SMap Word) (h : Hub) (p : Page) (off : Nat) (o : Option Nat) (n : Nat) {i : Nat} (hi : i < 2 ^ 26)
    (hm : ∀ v, i ≠ cntKey v pgEvh 0x40) :
    SMap.get zeroUnlisted (h.bumpBy m p off o n).cnt i = SMap.get zeroUnlisted (h.add (cntKey 0 p off) n).cnt i := by
  obtain ⟨l, hl, hp⟩ := evtViews_tail m o
  unfold Hub.bumpBy
  rw [hl, List.foldl_cons, Hub.cnt_bump_tail m p off n hi hm l hp]
  unfold Hub.bumpView
  dsimp only
  split
  · rw [Hub.cnt_raiseIn m _ _ _ _ hm, Hub.cnt_raiseIn m _ _ _ _ hm]
  · rfl

/-- Counting leaves every other counter of the PF's view. -/
theorem State.count_bumpBy_ne (s : State) (p : Page) (off : Nat) (o : Option Nat) (n : Nat) {q : Page} {a : Nat} (hq : PlainCnt q a)
    (hne : regAddr q a ≠ regAddr p off) : (s.bumpBy p off o n).count q a = s.count q a := by
  have hk : cntKey 0 q a < 2 ^ 26 := by
    have := hq.1
    unfold cntKey
    omega
  show SMap.get zeroUnlisted (s.hub.bumpBy s.gate.act p off o n).cnt _ = _
  rw [Hub.cnt_bumpBy _ _ _ _ _ _ hk hq.ne]
  apply Hub.get_add_ne
  unfold cntKey
  omega

/-- A count rises by what is counted, and stays at all-ones. -/
theorem State.count_bumpBy_self (s : State) (p : Page) (off : Nat) (o : Option Nat) (n : Nat) (hq : PlainCnt p off) :
    (s.bumpBy p off o n).count p off = min cntMax (s.count p off + n) := by
  have hk : cntKey 0 p off < 2 ^ 26 := by
    have := hq.1
    unfold cntKey
    omega
  show SMap.get zeroUnlisted (s.hub.bumpBy s.gate.act p off o n).cnt _ = _
  rw [Hub.cnt_bumpBy _ _ _ _ _ _ hk hq.ne]
  exact SMap.get_put_self zeroUnlisted _ _ _

theorem State.count_bump_ne (s : State) (p : Page) (off : Nat) (o : Option Nat) {q : Page} {a : Nat} (hq : PlainCnt q a)
    (hne : regAddr q a ≠ regAddr p off) : (s.bump p off o).count q a = s.count q a := State.count_bumpBy_ne s p off o 1 hq hne

theorem State.count_bump_self (s : State) (p : Page) (off : Nat) (o : Option Nat) (hq : PlainCnt p off) :
    (s.bump p off o).count p off = min cntMax (s.count p off + 1) :=
  State.count_bumpBy_self s p off o 1 hq

/-! ### Events -/

/-- A hub whose event bits are all still set. -/
def Hub.Later (g h : Hub) : Prop :=
  ∀ v p b, (SMap.get wordUnlisted g.raw (evtKey v p)).getLsbD b = true → (SMap.get wordUnlisted h.raw (evtKey v p)).getLsbD b = true

theorem Hub.Later.refl (h : Hub) : h.Later h := fun _ _ _ x => x

theorem Hub.Later.trans {a b c : Hub} (h : a.Later b) (g : b.Later c) : a.Later c := fun v p k x => g v p k (h v p k x)

theorem Hub.raw_emit (h : Hub) (x : Sent) : (h.emit x).raw = h.raw := by
  unfold Hub.emit
  split <;> rfl

theorem Hub.later_setRaw (h : Hub) (v : View) (p : Page) (b : Nat) : h.Later (h.setRaw v p b) := by
  intro w q k hk
  by_cases hkey : evtKey w q = evtKey v p
  · show (SMap.get wordUnlisted (SMap.put wordUnlisted h.raw (evtKey v p) _) (evtKey w q)).getLsbD k = true
    rw [hkey] at hk ⊢
    have hb : (SMap.get wordUnlisted h.raw (evtKey v p) ||| BitVec.ofNat 32 (2 ^ b)).getLsbD k = true := by
      rw [BitVec.getLsbD_or, hk]
      rfl
    rw [SMap.get_put_self]
    exact hb
  · show (SMap.get wordUnlisted (SMap.put wordUnlisted h.raw (evtKey v p) _) (evtKey w q)).getLsbD k = true
    rw [SMap.get_put_ne wordUnlisted _ _ hkey]
    exact hk

theorem Hub.later_of_raw {g h : Hub} (e : h.raw = g.raw) : g.Later h := by
  intro v p b x
  rw [e]
  exact x

theorem Hub.later_sendVector (h : Hub) (f vec : Nat) (v : View) : h.Later (h.sendVector f vec v) := by
  unfold Hub.sendVector
  split
  · exact Hub.later_of_raw rfl
  · dsimp only
    split
    · exact (Hub.later_of_raw (by rw [Hub.raw_emit]; rfl)).trans (Hub.later_setRaw _ _ _ _)
    · exact Hub.later_of_raw (by rw [Hub.raw_emit]; rfl)

theorem Hub.later_notify (m : SMap Word) (h : Hub) (v : View) (p : Page) : h.Later (h.notify m v p) := by
  have key : ∀ g : Hub, h.Later g →
      h.Later (if v = .pf ∧ fieldOf (routeOf m v p) 12 1 = 1 then g.emit (Sent.gkNotify (pageSource p)) else g) := by
    intro g hg
    split
    · exact hg.trans (Hub.later_of_raw (Hub.raw_emit _ _))
    · exact hg
  unfold Hub.notify
  apply key
  split
  · split
    · exact Hub.later_sendVector _ _ _ _
    · exact Hub.Later.refl h
  · exact Hub.Later.refl h

theorem Hub.later_raiseIn (m : SMap Word) (h : Hub) (v : View) (p : Page) (b : Nat) : (h.setRaw v p b).Later (h.raiseIn m v p b) := by
  unfold Hub.raiseIn
  dsimp only
  split
  · exact Hub.later_notify m _ v p
  · exact Hub.Later.refl _

theorem Hub.set_setRaw (h : Hub) (v : View) (p : Page) {b : Nat} (hb : b < 32) :
    (SMap.get wordUnlisted (h.setRaw v p b).raw (evtKey v p)).getLsbD b = true := by
  show (SMap.get wordUnlisted (SMap.put wordUnlisted h.raw (evtKey v p) _) (evtKey v p)).getLsbD b = true
  have h1 : (SMap.get wordUnlisted h.raw (evtKey v p) ||| BitVec.ofNat 32 (2 ^ b)).getLsbD b = true := by
    rw [BitVec.getLsbD_or, BitVec.getLsbD_ofNat, Nat.testBit_two_pow_self]
    simp [hb]
  rw [SMap.get_put_self]
  exact h1

theorem Hub.later_raise (m : SMap Word) (p : Page) (b : Nat) (l : List View) :
    ∀ h : Hub, h.Later (l.foldl (fun h v => h.raiseIn m v p b) h) := by
  induction l with
  | nil => exact fun h => Hub.Later.refl h
  | cons v l ih =>
    intro h
    exact ((Hub.later_setRaw h v p b).trans (Hub.later_raiseIn m h v p b)).trans (ih _)

/-- Raising an event sets its bit in the PF's view. -/
theorem State.event_raise_self (s : State) (p : Page) {b : Nat} (o : Option Nat) (hb : b < 32) : (s.raise p b o).event .pf p b = true := by
  obtain ⟨l, hl, -⟩ := evtViews_tail s.gate.act o
  show (SMap.get wordUnlisted (Hub.raise s.gate.act s.hub p b o).raw (evtKey .pf p)).getLsbD b = true
  unfold Hub.raise
  rw [hl, List.foldl_cons]
  exact ((Hub.later_raiseIn s.gate.act s.hub .pf p b).trans (Hub.later_raise s.gate.act p b l _)) .pf p b (Hub.set_setRaw s.hub .pf p hb)

/-- An event that is set in a view stays set when another is raised. -/
theorem State.event_raise (s : State) (p q : Page) (b k : Nat) (v : View) (o : Option Nat) (h : s.event v q k = true) :
    (s.raise p b o).event v q k = true := Hub.later_raise s.gate.act p b _ s.hub v q k h

/-- Raising an event in one view sets its bit there. -/
theorem State.event_raiseIn_self (s : State) (v : View) (p : Page) {b : Nat} (hb : b < 32) : (s.raiseIn v p b).event v p b = true :=
  Hub.later_raiseIn s.gate.act s.hub v p b v p b (Hub.set_setRaw s.hub v p hb)

theorem Hub.later_bumpView (m : SMap Word) (p : Page) (off n : Nat) (h : Hub) (v : View) : h.Later (h.bumpView m p off n v) := by
  have step (g : Hub) (w : View) : g.Later (g.raiseIn m w p 0) := (Hub.later_setRaw g w p 0).trans (Hub.later_raiseIn m g w p 0)
  have add (k : Nat) : h.Later (h.add k n) := Hub.later_of_raw rfl
  unfold Hub.bumpView
  cases v with
  | gk => exact Hub.Later.refl h
  | pf =>
    dsimp only
    split
    · exact ((add _).trans (step _ _)).trans (step _ _)
    · exact add _
  | vf k =>
    dsimp only
    split
    · exact (add _).trans (step _ _)
    · exact add _

theorem Hub.later_bumpBy (m : SMap Word) (p : Page) (off n : Nat) (l : List View) :
    ∀ h : Hub, h.Later (l.foldl (Hub.bumpView m p off n) h) := by
  induction l with
  | nil => exact fun h => Hub.Later.refl h
  | cons v l ih =>
    intro h
    exact (Hub.later_bumpView m p off n h v).trans (ih _)

/-- An event that is set stays set when something is counted. -/
theorem State.event_bumpBy (s : State) (p q : Page) (off n k : Nat) (v : View) (o : Option Nat) (h : s.event v q k = true) :
    (s.bumpBy p off o n).event v q k = true := Hub.later_bumpBy s.gate.act p off n _ s.hub v q k h

theorem State.event_bump (s : State) (p q : Page) (off k : Nat) (v : View) (o : Option Nat) (h : s.event v q k = true) :
    (s.bump p off o).event v q k = true := State.event_bumpBy s p q off 1 k v o h

theorem State.event_emit (s : State) (x : Sent) (v : View) (q : Page) (k : Nat) : (s.emit x).event v q k = s.event v q k := by
  show (SMap.get wordUnlisted (s.hub.emit x).raw _).getLsbD k = _
  rw [Hub.raw_emit]
  rfl

end Sys2Proof.Machine
end

