-- ==== Sys2Proof/Laws/Keeps.lean ====
section
/-!
SUPPORT. What no operation but a reset changes: the queue, the power-on hold, a trip, the canonical form of memory, the direction of time.
-/

namespace Sys2Proof.Machine

open Sys2Proof

set_option Elab.async false

/-- What the parts of a state are to a state before it: the queue and the power-on hold stay, a trip stays, memory and the struck errors keep
their canonical forms, the reference clock and the count of free values do not go back, and each part that is not named as touched (its
proposition false) is as before. -/
structure KeepsC (q1 q2 q3 q4 q5 q6 q7 q8 q9 q10 q11 q12 q13 q14 q15 q16 q17 q18 : Prop) (r : State) (pd : List Instr) (hd tr : Bool) (free ref : Nat) (mem : Mem) (ecc : SMap Nat)
    (hub0 : Hub) (gate0 : Gate) (act0 : SMap Word) (sdl0 : Sundial) (plots0 : SMap PlotSt) (flt0 : Flt) (rms0 : Rms) (thr0 : Thr) (trn0 : Trn) (irg0 : Irg) (ring0 : Ring) (sec0 : Sec) (ddr0 : Ddr) (pwr0 : Pwr) (gk0 : Gk) (beds0 : SMap BedSt) : Prop where
  pending : pd = r.pending
  held : hd = r.held
  tripped : r.tripped = true → tr = true
  free : r.free ≤ free
  ref : r.sdl.ref ≤ ref
  memWf : Mem.wf r.mem = true → Mem.wf mem = true
  eccWf : SMap.wf zeroUnlisted r.ecc = true → SMap.wf zeroUnlisted ecc = true
  memQ : q1 ∨ mem = r.mem
  eccQ : q2 ∨ ecc = r.ecc
  hubQ : q3 ∨ hub0 = r.hub
  gateQ : q4 ∨ gate0 = r.gate
  actQ : q5 ∨ act0 = r.gate.act
  sdlQ : q6 ∨ sdl0 = r.sdl
  plotsQ : q7 ∨ plots0 = r.plots
  fltQ : q8 ∨ flt0 = r.flt
  rmsQ : q9 ∨ rms0 = r.rms
  thrQ : q10 ∨ thr0 = r.thr
  trnQ : q11 ∨ trn0 = r.trn
  irgQ : q12 ∨ irg0 = r.irg
  ringQ : q13 ∨ ring0 = r.ring
  secQ : q14 ∨ sec0 = r.sec
  ddrQ : q15 ∨ ddr0 = r.ddr
  pwrQ : q16 ∨ pwr0 = r.pwr
  gkQ : q17 ∨ gk0 = r.gk
  bedsQ : q18 ∨ beds0 = r.beds

/-- A state after another: its parts are as `KeepsC` says. -/
structure Keeps (q1 q2 q3 q4 q5 q6 q7 q8 q9 q10 q11 q12 q13 q14 q15 q16 q17 q18 : Prop) (r t : State) : Prop where
  c : KeepsC q1 q2 q3 q4 q5 q6 q7 q8 q9 q10 q11 q12 q13 q14 q15 q16 q17 q18 r t.pending t.held t.tripped t.free t.sdl.ref t.mem t.ecc t.hub t.gate t.gate.act t.sdl t.plots t.flt t.rms t.thr t.trn t.irg t.ring t.sec t.ddr t.pwr t.gk t.beds

variable {q1 q2 q3 q4 q5 q6 q7 q8 q9 q10 q11 q12 q13 q14 q15 q16 q17 q18 : Prop}

theorem Keeps.refl (r : State) : Keeps q1 q2 q3 q4 q5 q6 q7 q8 q9 q10 q11 q12 q13 q14 q15 q16 q17 q18 r r :=
  ⟨⟨rfl, rfl, id, Nat.le_refl _, Nat.le_refl _, id, id, .inr rfl, .inr rfl, .inr rfl, .inr rfl, .inr rfl, .inr rfl, .inr rfl, .inr rfl, .inr rfl, .inr rfl, .inr rfl, .inr rfl, .inr rfl, .inr rfl, .inr rfl, .inr rfl, .inr rfl, .inr rfl⟩⟩

theorem Keeps.upd {r x : State} (h : Keeps q1 q2 q3 q4 q5 q6 q7 q8 q9 q10 q11 q12 q13 q14 q15 q16 q17 q18 r x) {hub0 : Hub} {gate0 : Gate} {act0 : SMap Word} {sdl0 : Sundial} {plots0 : SMap PlotSt} {flt0 : Flt} {rms0 : Rms} {thr0 : Thr} {trn0 : Trn} {irg0 : Irg} {ring0 : Ring} {sec0 : Sec} {ddr0 : Ddr} {pwr0 : Pwr} {gk0 : Gk} {beds0 : SMap BedSt}
    (hub1 : q3 ∨ hub0 = x.hub := by first | exact Or.inl trivial | exact Or.inr rfl)
    (gate1 : q4 ∨ gate0 = x.gate := by first | exact Or.inl trivial | exact Or.inr rfl)
    (act1 : q5 ∨ act0 = x.gate.act := by first | exact Or.inl trivial | exact Or.inr rfl)
    (sdl1 : q6 ∨ sdl0 = x.sdl := by first | exact Or.inl trivial | exact Or.inr rfl)
    (plots1 : q7 ∨ plots0 = x.plots := by first | exact Or.inl trivial | exact Or.inr rfl)
    (flt1 : q8 ∨ flt0 = x.flt := by first | exact Or.inl trivial | exact Or.inr rfl)
    (rms1 : q9 ∨ rms0 = x.rms := by first | exact Or.inl trivial | exact Or.inr rfl)
    (thr1 : q10 ∨ thr0 = x.thr := by first | exact Or.inl trivial | exact Or.inr rfl)
    (trn1 : q11 ∨ trn0 = x.trn := by first | exact Or.inl trivial | exact Or.inr rfl)
    (irg1 : q12 ∨ irg0 = x.irg := by first | exact Or.inl trivial | exact Or.inr rfl)
    (ring1 : q13 ∨ ring0 = x.ring := by first | exact Or.inl trivial | exact Or.inr rfl)
    (sec1 : q14 ∨ sec0 = x.sec := by first | exact Or.inl trivial | exact Or.inr rfl)
    (ddr1 : q15 ∨ ddr0 = x.ddr := by first | exact Or.inl trivial | exact Or.inr rfl)
    (pwr1 : q16 ∨ pwr0 = x.pwr := by first | exact Or.inl trivial | exact Or.inr rfl)
    (gk1 : q17 ∨ gk0 = x.gk := by first | exact Or.inl trivial | exact Or.inr rfl)
    (beds1 : q18 ∨ beds0 = x.beds := by first | exact Or.inl trivial | exact Or.inr rfl) :
    KeepsC q1 q2 q3 q4 q5 q6 q7 q8 q9 q10 q11 q12 q13 q14 q15 q16 q17 q18 r x.pending x.held x.tripped x.free x.sdl.ref x.mem x.ecc hub0 gate0 act0 sdl0 plots0 flt0 rms0 thr0 trn0 irg0 ring0 sec0 ddr0 pwr0 gk0 beds0 :=
  ⟨h.c.pending, h.c.held, h.c.tripped, h.c.free, h.c.ref, h.c.memWf, h.c.eccWf, h.c.memQ, h.c.eccQ,
    hub1.elim .inl fun e => h.c.hubQ.elim .inl fun g => .inr (e.trans g),
    gate1.elim .inl fun e => h.c.gateQ.elim .inl fun g => .inr (e.trans g),
    act1.elim .inl fun e => h.c.actQ.elim .inl fun g => .inr (e.trans g),
    sdl1.elim .inl fun e => h.c.sdlQ.elim .inl fun g => .inr (e.trans g),
    plots1.elim .inl fun e => h.c.plotsQ.elim .inl fun g => .inr (e.trans g),
    flt1.elim .inl fun e => h.c.fltQ.elim .inl fun g => .inr (e.trans g),
    rms1.elim .inl fun e => h.c.rmsQ.elim .inl fun g => .inr (e.trans g),
    thr1.elim .inl fun e => h.c.thrQ.elim .inl fun g => .inr (e.trans g),
    trn1.elim .inl fun e => h.c.trnQ.elim .inl fun g => .inr (e.trans g),
    irg1.elim .inl fun e => h.c.irgQ.elim .inl fun g => .inr (e.trans g),
    ring1.elim .inl fun e => h.c.ringQ.elim .inl fun g => .inr (e.trans g),
    sec1.elim .inl fun e => h.c.secQ.elim .inl fun g => .inr (e.trans g),
    ddr1.elim .inl fun e => h.c.ddrQ.elim .inl fun g => .inr (e.trans g),
    pwr1.elim .inl fun e => h.c.pwrQ.elim .inl fun g => .inr (e.trans g),
    gk1.elim .inl fun e => h.c.gkQ.elim .inl fun g => .inr (e.trans g),
    beds1.elim .inl fun e => h.c.bedsQ.elim .inl fun g => .inr (e.trans g)⟩

/-- The parts named as touched may be more. -/
theorem Keeps.mono {p1 p2 p3 p4 p5 p6 p7 p8 p9 p10 p11 p12 p13 p14 p15 p16 p17 p18 : Prop} {r t : State} (h : Keeps q1 q2 q3 q4 q5 q6 q7 q8 q9 q10 q11 q12 q13 q14 q15 q16 q17 q18 r t)
    (i1 : q1 → p1)
    (i2 : q2 → p2)
    (i3 : q3 → p3)
    (i4 : q4 → p4)
    (i5 : q5 → p5)
    (i6 : q6 → p6)
    (i7 : q7 → p7)
    (i8 : q8 → p8)
    (i9 : q9 → p9)
    (i10 : q10 → p10)
    (i11 : q11 → p11)
    (i12 : q12 → p12)
    (i13 : q13 → p13)
    (i14 : q14 → p14)
    (i15 : q15 → p15)
    (i16 : q16 → p16)
    (i17 : q17 → p17)
    (i18 : q18 → p18) : Keeps p1 p2 p3 p4 p5 p6 p7 p8 p9 p10 p11 p12 p13 p14 p15 p16 p17 p18 r t :=
  ⟨⟨h.c.pending, h.c.held, h.c.tripped, h.c.free, h.c.ref, h.c.memWf, h.c.eccWf,
    h.c.memQ.imp i1 id,
    h.c.eccQ.imp i2 id,
    h.c.hubQ.imp i3 id,
    h.c.gateQ.imp i4 id,
    h.c.actQ.imp i5 id,
    h.c.sdlQ.imp i6 id,
    h.c.plotsQ.imp i7 id,
    h.c.fltQ.imp i8 id,
    h.c.rmsQ.imp i9 id,
    h.c.thrQ.imp i10 id,
    h.c.trnQ.imp i11 id,
    h.c.irgQ.imp i12 id,
    h.c.ringQ.imp i13 id,
    h.c.secQ.imp i14 id,
    h.c.ddrQ.imp i15 id,
    h.c.pwrQ.imp i16 id,
    h.c.gkQ.imp i17 id,
    h.c.bedsQ.imp i18 id⟩⟩

theorem Keeps.mem_eq {r t : State} (h : Keeps False q2 q3 q4 q5 q6 q7 q8 q9 q10 q11 q12 q13 q14 q15 q16 q17 q18 r t) : t.mem = r.mem := h.c.memQ.resolve_left id

theorem Keeps.ecc_eq {r t : State} (h : Keeps q1 False q3 q4 q5 q6 q7 q8 q9 q10 q11 q12 q13 q14 q15 q16 q17 q18 r t) : t.ecc = r.ecc := h.c.eccQ.resolve_left id

theorem Keeps.hub_eq {r t : State} (h : Keeps q1 q2 False q4 q5 q6 q7 q8 q9 q10 q11 q12 q13 q14 q15 q16 q17 q18 r t) : t.hub = r.hub := h.c.hubQ.resolve_left id

theorem Keeps.gate_eq {r t : State} (h : Keeps q1 q2 q3 False q5 q6 q7 q8 q9 q10 q11 q12 q13 q14 q15 q16 q17 q18 r t) : t.gate = r.gate := h.c.gateQ.resolve_left id

theorem Keeps.act_eq {r t : State} (h : Keeps q1 q2 q3 q4 False q6 q7 q8 q9 q10 q11 q12 q13 q14 q15 q16 q17 q18 r t) : t.gate.act = r.gate.act := h.c.actQ.resolve_left id

theorem Keeps.sdl_eq {r t : State} (h : Keeps q1 q2 q3 q4 q5 False q7 q8 q9 q10 q11 q12 q13 q14 q15 q16 q17 q18 r t) : t.sdl = r.sdl := h.c.sdlQ.resolve_left id

theorem Keeps.plots_eq {r t : State} (h : Keeps q1 q2 q3 q4 q5 q6 False q8 q9 q10 q11 q12 q13 q14 q15 q16 q17 q18 r t) : t.plots = r.plots := h.c.plotsQ.resolve_left id

theorem Keeps.flt_eq {r t : State} (h : Keeps q1 q2 q3 q4 q5 q6 q7 False q9 q10 q11 q12 q13 q14 q15 q16 q17 q18 r t) : t.flt = r.flt := h.c.fltQ.resolve_left id

theorem Keeps.rms_eq {r t : State} (h : Keeps q1 q2 q3 q4 q5 q6 q7 q8 False q10 q11 q12 q13 q14 q15 q16 q17 q18 r t) : t.rms = r.rms := h.c.rmsQ.resolve_left id

theorem Keeps.thr_eq {r t : State} (h : Keeps q1 q2 q3 q4 q5 q6 q7 q8 q9 False q11 q12 q13 q14 q15 q16 q17 q18 r t) : t.thr = r.thr := h.c.thrQ.resolve_left id

theorem Keeps.trn_eq {r t : State} (h : Keeps q1 q2 q3 q4 q5 q6 q7 q8 q9 q10 False q12 q13 q14 q15 q16 q17 q18 r t) : t.trn = r.trn := h.c.trnQ.resolve_left id

theorem Keeps.irg_eq {r t : State} (h : Keeps q1 q2 q3 q4 q5 q6 q7 q8 q9 q10 q11 False q13 q14 q15 q16 q17 q18 r t) : t.irg = r.irg := h.c.irgQ.resolve_left id

theorem Keeps.ring_eq {r t : State} (h : Keeps q1 q2 q3 q4 q5 q6 q7 q8 q9 q10 q11 q12 False q14 q15 q16 q17 q18 r t) : t.ring = r.ring := h.c.ringQ.resolve_left id

theorem Keeps.sec_eq {r t : State} (h : Keeps q1 q2 q3 q4 q5 q6 q7 q8 q9 q10 q11 q12 q13 False q15 q16 q17 q18 r t) : t.sec = r.sec := h.c.secQ.resolve_left id

theorem Keeps.ddr_eq {r t : State} (h : Keeps q1 q2 q3 q4 q5 q6 q7 q8 q9 q10 q11 q12 q13 q14 False q16 q17 q18 r t) : t.ddr = r.ddr := h.c.ddrQ.resolve_left id

theorem Keeps.pwr_eq {r t : State} (h : Keeps q1 q2 q3 q4 q5 q6 q7 q8 q9 q10 q11 q12 q13 q14 q15 False q17 q18 r t) : t.pwr = r.pwr := h.c.pwrQ.resolve_left id

theorem Keeps.gk_eq {r t : State} (h : Keeps q1 q2 q3 q4 q5 q6 q7 q8 q9 q10 q11 q12 q13 q14 q15 q16 False q18 r t) : t.gk = r.gk := h.c.gkQ.resolve_left id

theorem Keeps.beds_eq {r t : State} (h : Keeps q1 q2 q3 q4 q5 q6 q7 q8 q9 q10 q11 q12 q13 q14 q15 q16 q17 False r t) : t.beds = r.beds := h.c.bedsQ.resolve_left id

/-- A state after another with the part `mem` as before. -/
abbrev LeavesMem (r t : State) : Prop := Keeps False True True True True True True True True True True True True True True True True True r t

/-- A state after another with the part `ecc` as before. -/
abbrev LeavesEcc (r t : State) : Prop := Keeps True False True True True True True True True True True True True True True True True True r t

/-- A state after another with the part `hub` as before. -/
abbrev LeavesHub (r t : State) : Prop := Keeps True True False True True True True True True True True True True True True True True True r t

/-- A state after another with the part `gate` as before. -/
abbrev LeavesGate (r t : State) : Prop := Keeps True True True False True True True True True True True True True True True True True True r t

/-- A state after another with the part `act` as before. -/
abbrev LeavesAct (r t : State) : Prop := Keeps True True True True False True True True True True True True True True True True True True r t

/-- A state after another with the part `sdl` as before. -/
abbrev LeavesSdl (r t : State) : Prop := Keeps True True True True True False True True True True True True True True True True True True r t

/-- A state after another with the part `plots` as before. -/
abbrev LeavesPlots (r t : State) : Prop := Keeps True True True True True True False True True True True True True True True True True True r t

/-- A state after another with the part `flt` as before. -/
abbrev LeavesFlt (r t : State) : Prop := Keeps True True True True True True True False True True True True True True True True True True r t

/-- A state after another with the part `rms` as before. -/
abbrev LeavesRms (r t : State) : Prop := Keeps True True True True True True True True False True True True True True True True True True r t

/-- A state after another with the part `thr` as before. -/
abbrev LeavesThr (r t : State) : Prop := Keeps True True True True True True True True True False True True True True True True True True r t

/-- A state after another with the part `trn` as before. -/
abbrev LeavesTrn (r t : State) : Prop := Keeps True True True True True True True True True True False True True True True True True True r t

/-- A state after another with the part `irg` as before. -/
abbrev LeavesIrg (r t : State) : Prop := Keeps True True True True True True True True True True True False True True True True True True r t

/-- A state after another with the part `ring` as before. -/
abbrev LeavesRing (r t : State) : Prop := Keeps True True True True True True True True True True True True False True True True True True r t

/-- A state after another with the part `sec` as before. -/
abbrev LeavesSec (r t : State) : Prop := Keeps True True True True True True True True True True True True True False True True True True r t

/-- A state after another with the part `ddr` as before. -/
abbrev LeavesDdr (r t : State) : Prop := Keeps True True True True True True True True True True True True True True False True True True r t

/-- A state after another with the part `pwr` as before. -/
abbrev LeavesPwr (r t : State) : Prop := Keeps True True True True True True True True True True True True True True True False True True r t

/-- A state after another with the part `gk` as before. -/
abbrev LeavesGk (r t : State) : Prop := Keeps True True True True True True True True True True True True True True True True False True r t

/-- A state after another with the part `beds` as before. -/
abbrev LeavesBeds (r t : State) : Prop := Keeps True True True True True True True True True True True True True True True True True False r t

theorem foldl_keeps {α : Type} {r : State} (g : State → α → State) (hg : ∀ t x, Keeps q1 q2 q3 q4 q5 q6 q7 q8 q9 q10 q11 q12 q13 q14 q15 q16 q17 q18 r t → Keeps q1 q2 q3 q4 q5 q6 q7 q8 q9 q10 q11 q12 q13 q14 q15 q16 q17 q18 r (g t x)) :
    ∀ (l : List α) (s : State), Keeps q1 q2 q3 q4 q5 q6 q7 q8 q9 q10 q11 q12 q13 q14 q15 q16 q17 q18 r s → Keeps q1 q2 q3 q4 q5 q6 q7 q8 q9 q10 q11 q12 q13 q14 q15 q16 q17 q18 r (l.foldl g s)
  | [], _, h => h
  | x :: l, s, h => foldl_keeps g hg l (g s x) (hg s x h)

theorem foldl_keeps2 {α β : Type} {r : State} (g : β × State → α → β × State)
    (hg : ∀ a x, Keeps q1 q2 q3 q4 q5 q6 q7 q8 q9 q10 q11 q12 q13 q14 q15 q16 q17 q18 r a.2 → Keeps q1 q2 q3 q4 q5 q6 q7 q8 q9 q10 q11 q12 q13 q14 q15 q16 q17 q18 r (g a x).2) :
    ∀ (l : List α) (a : β × State), Keeps q1 q2 q3 q4 q5 q6 q7 q8 q9 q10 q11 q12 q13 q14 q15 q16 q17 q18 r a.2 → Keeps q1 q2 q3 q4 q5 q6 q7 q8 q9 q10 q11 q12 q13 q14 q15 q16 q17 q18 r (l.foldl g a).2
  | [], _, h => h
  | x :: l, a, h => foldl_keeps2 g hg l (g a x) (hg a x h)

theorem foldl_keeps1 {α β : Type} {r : State} (g : State × β → α → State × β)
    (hg : ∀ a x, Keeps q1 q2 q3 q4 q5 q6 q7 q8 q9 q10 q11 q12 q13 q14 q15 q16 q17 q18 r a.1 → Keeps q1 q2 q3 q4 q5 q6 q7 q8 q9 q10 q11 q12 q13 q14 q15 q16 q17 q18 r (g a x).1) :
    ∀ (l : List α) (a : State × β), Keeps q1 q2 q3 q4 q5 q6 q7 q8 q9 q10 q11 q12 q13 q14 q15 q16 q17 q18 r a.1 → Keeps q1 q2 q3 q4 q5 q6 q7 q8 q9 q10 q11 q12 q13 q14 q15 q16 q17 q18 r (l.foldl g a).1
  | [], _, h => h
  | x :: l, a, h => foldl_keeps1 g hg l (g a x) (hg a x h)

theorem ite_keeps {r : State} {c : Prop} [Decidable c] {a b : State} (ha : Keeps q1 q2 q3 q4 q5 q6 q7 q8 q9 q10 q11 q12 q13 q14 q15 q16 q17 q18 r a) (hb : Keeps q1 q2 q3 q4 q5 q6 q7 q8 q9 q10 q11 q12 q13 q14 q15 q16 q17 q18 r b) : Keeps q1 q2 q3 q4 q5 q6 q7 q8 q9 q10 q11 q12 q13 q14 q15 q16 q17 q18 r (if c then a else b) := by
  split
  · exact ha
  · exact hb

theorem ite_keeps2 {β : Type} {r : State} {c : Prop} [Decidable c] {a b : β × State} (ha : Keeps q1 q2 q3 q4 q5 q6 q7 q8 q9 q10 q11 q12 q13 q14 q15 q16 q17 q18 r a.2) (hb : Keeps q1 q2 q3 q4 q5 q6 q7 q8 q9 q10 q11 q12 q13 q14 q15 q16 q17 q18 r b.2) :
    Keeps q1 q2 q3 q4 q5 q6 q7 q8 q9 q10 q11 q12 q13 q14 q15 q16 q17 q18 r (if c then a else b).2 := by
  split
  · exact ha
  · exact hb

theorem ite_keeps1 {β : Type} {r : State} {c : Prop} [Decidable c] {a b : State × β} (ha : Keeps q1 q2 q3 q4 q5 q6 q7 q8 q9 q10 q11 q12 q13 q14 q15 q16 q17 q18 r a.1) (hb : Keeps q1 q2 q3 q4 q5 q6 q7 q8 q9 q10 q11 q12 q13 q14 q15 q16 q17 q18 r b.1) :
    Keeps q1 q2 q3 q4 q5 q6 q7 q8 q9 q10 q11 q12 q13 q14 q15 q16 q17 q18 r (if c then a else b).1 := by
  split
  · exact ha
  · exact hb

theorem pair_keeps2 {β : Type} {r : State} {b : β} {t : State} (h : Keeps q1 q2 q3 q4 q5 q6 q7 q8 q9 q10 q11 q12 q13 q14 q15 q16 q17 q18 r t) : Keeps q1 q2 q3 q4 q5 q6 q7 q8 q9 q10 q11 q12 q13 q14 q15 q16 q17 q18 r (b, t).2 := h
theorem pair_keeps1 {β : Type} {r : State} {b : β} {t : State} (h : Keeps q1 q2 q3 q4 q5 q6 q7 q8 q9 q10 q11 q12 q13 q14 q15 q16 q17 q18 r t) : Keeps q1 q2 q3 q4 q5 q6 q7 q8 q9 q10 q11 q12 q13 q14 q15 q16 q17 q18 r (t, b).1 := h
theorem pair_keeps22 {β γ : Type} {r : State} {b : β} {c : γ} {t : State} (h : Keeps q1 q2 q3 q4 q5 q6 q7 q8 q9 q10 q11 q12 q13 q14 q15 q16 q17 q18 r t) : Keeps q1 q2 q3 q4 q5 q6 q7 q8 q9 q10 q11 q12 q13 q14 q15 q16 q17 q18 r (b, c, t).2.2 := h

theorem of_ite_none {α : Type} {c : Prop} [Decidable c] {o : Option α} {t : α} (h : (if c then none else o) = some t) : o = some t := by
  split at h
  · cases h
  · exact h

theorem foldl_keeps22 {α β γ : Type} {r : State} (g : β × γ × State → α → β × γ × State)
    (hg : ∀ a x, Keeps q1 q2 q3 q4 q5 q6 q7 q8 q9 q10 q11 q12 q13 q14 q15 q16 q17 q18 r a.2.2 → Keeps q1 q2 q3 q4 q5 q6 q7 q8 q9 q10 q11 q12 q13 q14 q15 q16 q17 q18 r (g a x).2.2) :
    ∀ (l : List α) (a : β × γ × State), Keeps q1 q2 q3 q4 q5 q6 q7 q8 q9 q10 q11 q12 q13 q14 q15 q16 q17 q18 r a.2.2 → Keeps q1 q2 q3 q4 q5 q6 q7 q8 q9 q10 q11 q12 q13 q14 q15 q16 q17 q18 r (l.foldl g a).2.2
  | [], _, h => h
  | x :: l, a, h => foldl_keeps22 g hg l (g a x) (hg a x h)

theorem ite_keeps22 {β γ : Type} {r : State} {c : Prop} [Decidable c] {a b : β × γ × State} (ha : Keeps q1 q2 q3 q4 q5 q6 q7 q8 q9 q10 q11 q12 q13 q14 q15 q16 q17 q18 r a.2.2) (hb : Keeps q1 q2 q3 q4 q5 q6 q7 q8 q9 q10 q11 q12 q13 q14 q15 q16 q17 q18 r b.2.2) :
    Keeps q1 q2 q3 q4 q5 q6 q7 q8 q9 q10 q11 q12 q13 q14 q15 q16 q17 q18 r (if c then a else b).2.2 := by
  split
  · exact ha
  · exact hb

theorem Sundial.setServo_ref (x : Sundial) (d : Bool) (v : Servo) : (x.setServo d v).ref = x.ref := by
  unfold Sundial.setServo
  split <;> rfl

end Sys2Proof.Machine
end

