-- ==== Sys2Proof/Laws/KeepsOps.lean ====
section
/-!
SUPPORT. What the definitions of Machine/Ops.lean keep, each by the definitions it is made of.
-/

namespace Sys2Proof.Machine

open Sys2Proof

set_option Elab.async false

set_option linter.unusedVariables false
set_option linter.unreachableTactic false
set_option linter.unusedTactic false



variable {q1 q2 q3 q4 q5 q6 q7 q8 q9 q10 q11 q12 q13 q14 q15 q16 q17 q18 : Prop}

theorem State.raiseIn_keeps {root : State} {s : State} {v : View} {p : Page} {b : Nat} (h_s : Keeps q1 q2 True q4 q5 q6 q7 q8 q9 q10 q11 q12 q13 q14 q15 q16 q17 q18 root s) : Keeps q1 q2 True q4 q5 q6 q7 q8 q9 q10 q11 q12 q13 q14 q15 q16 q17 q18 root (State.raiseIn s v p b) := by
  unfold State.raiseIn
  try dsimp only
  repeat' first
    | (with_reducible first
      | assumption)
    | (apply Keeps.mk; dsimp only; with_reducible refine Keeps.upd ?_) | dsimp only

theorem State.raise_keeps {root : State} {s : State} {p : Page} {b : Nat} {part : Option Nat} (h_s : Keeps q1 q2 True q4 q5 q6 q7 q8 q9 q10 q11 q12 q13 q14 q15 q16 q17 q18 root s) : Keeps q1 q2 True q4 q5 q6 q7 q8 q9 q10 q11 q12 q13 q14 q15 q16 q17 q18 root (State.raise s p b part) := by
  unfold State.raise
  try dsimp only
  repeat' first
    | (with_reducible first
      | assumption)
    | (apply Keeps.mk; dsimp only; with_reducible refine Keeps.upd ?_) | dsimp only

theorem State.bumpBy_keeps {root : State} {s : State} {p : Page} {off : Nat} {part : Option Nat} {n : Nat} (h_s : Keeps q1 q2 True q4 q5 q6 q7 q8 q9 q10 q11 q12 q13 q14 q15 q16 q17 q18 root s) : Keeps q1 q2 True q4 q5 q6 q7 q8 q9 q10 q11 q12 q13 q14 q15 q16 q17 q18 root (State.bumpBy s p off part n) := by
  unfold State.bumpBy
  try dsimp only
  repeat' first
    | (with_reducible first
      | assumption)
    | (apply Keeps.mk; dsimp only; with_reducible refine Keeps.upd ?_) | dsimp only

theorem State.bump_keeps {root : State} {s : State} {p : Page} {off : Nat} {part : Option Nat} (h_s : Keeps q1 q2 True q4 q5 q6 q7 q8 q9 q10 q11 q12 q13 q14 q15 q16 q17 q18 root s) : Keeps q1 q2 True q4 q5 q6 q7 q8 q9 q10 q11 q12 q13 q14 q15 q16 q17 q18 root (State.bump s p off part) := by
  unfold State.bump
  try dsimp only
  repeat' first
    | (with_reducible first
      | assumption | apply State.bumpBy_keeps)
    | dsimp only

theorem State.post_keeps {root : State} {s : State} {p : Page} {b : Nat} {part : Option Nat} {words : List Nat} (h_s : Keeps q1 q2 True q4 q5 q6 q7 q8 q9 q10 q11 q12 q13 q14 q15 q16 q17 q18 root s) : Keeps q1 q2 True q4 q5 q6 q7 q8 q9 q10 q11 q12 q13 q14 q15 q16 q17 q18 root (State.post s p b part words) := by
  unfold State.post
  try dsimp only
  repeat' first
    | (with_reducible first
      | assumption)
    | (apply Keeps.mk; dsimp only; with_reducible refine Keeps.upd ?_) | dsimp only

theorem State.record_keeps {root : State} {s : State} {p : Page} {tag : Nat} {words : List Nat} (h_s : Keeps q1 q2 True q4 q5 q6 q7 q8 q9 q10 q11 q12 q13 q14 q15 q16 q17 q18 root s) : Keeps q1 q2 True q4 q5 q6 q7 q8 q9 q10 q11 q12 q13 q14 q15 q16 q17 q18 root (State.record s p tag words) := by
  unfold State.record
  try dsimp only
  repeat' first
    | (with_reducible first
      | assumption | apply State.bumpBy_keeps | apply State.emit_keeps)
    | (apply Keeps.mk; dsimp only; with_reducible refine Keeps.upd ?_) | dsimp only

theorem State.emit_keeps {root : State} {s : State} {x : Sent} (h_s : Keeps q1 q2 True q4 q5 q6 q7 q8 q9 q10 q11 q12 q13 q14 q15 q16 q17 q18 root s) : Keeps q1 q2 True q4 q5 q6 q7 q8 q9 q10 q11 q12 q13 q14 q15 q16 q17 q18 root (State.emit s x) := by
  unfold State.emit
  try dsimp only
  repeat' first
    | (with_reducible first
      | assumption)
    | (apply Keeps.mk; dsimp only; with_reducible refine Keeps.upd ?_) | dsimp only

theorem State.tick_keeps {root : State} {s : State} (h_s : Keeps q1 q2 q3 q4 q5 q6 q7 q8 q9 q10 q11 q12 q13 q14 q15 q16 q17 q18 root s) : Keeps q1 q2 q3 q4 q5 q6 q7 q8 q9 q10 q11 q12 q13 q14 q15 q16 q17 q18 root (State.tick s) := by
  exact ⟨{ h_s.c with free := Nat.le_succ_of_le h_s.c.free }⟩

theorem State.dropped_keeps {root : State} {s : State} {v : View} {p : Page} (h_s : Keeps q1 q2 True q4 q5 q6 q7 q8 q9 q10 q11 q12 q13 q14 q15 q16 q17 q18 root s) : Keeps q1 q2 True q4 q5 q6 q7 q8 q9 q10 q11 q12 q13 q14 q15 q16 q17 q18 root (State.dropped s v p) := by
  unfold State.dropped
  try dsimp only
  repeat' first
    | (with_reducible first
      | assumption | apply State.raiseIn_keeps)
    | dsimp only

theorem State.live_keeps {root : State} {s : State} {f : State → State} (h_s : Keeps q1 q2 q3 q4 q5 q6 q7 q8 q9 q10 q11 q12 q13 q14 q15 q16 q17 q18 root s) (h_f : ∀ (x0 : State), Keeps q1 q2 q3 q4 q5 q6 q7 q8 q9 q10 q11 q12 q13 q14 q15 q16 q17 q18 root x0 → Keeps q1 q2 q3 q4 q5 q6 q7 q8 q9 q10 q11 q12 q13 q14 q15 q16 q17 q18 root (f x0)) : Keeps q1 q2 q3 q4 q5 q6 q7 q8 q9 q10 q11 q12 q13 q14 q15 q16 q17 q18 root (State.live s f) := by
  unfold State.live
  try dsimp only
  repeat' first
    | (with_reducible first
      | assumption | apply ite_keeps | apply h_f)
    | (intro _ _ _; try dsimp only) | (intro _ _; try dsimp only) | (intro _; try dsimp only) | split | dsimp only

theorem State.advance_keeps {root : State} {s : State} {t : Nat} (h_s : Keeps q1 q2 True q4 q5 True q7 q8 True q10 q11 q12 q13 q14 q15 q16 q17 q18 root s) : Keeps q1 q2 True q4 q5 True q7 q8 True q10 q11 q12 q13 q14 q15 q16 q17 q18 root (State.advance s t) := by
  refine ⟨{ h_s.c with ref := ?_, hubQ := .inl trivial, sdlQ := .inl trivial, rmsQ := .inl trivial }⟩
  show root.sdl.ref ≤ (s.sdl.advance s.gridEn s.slewPpb t).ref
  unfold Sundial.advance
  split
  · exact h_s.c.ref
  · exact Nat.le_trans h_s.c.ref (by simp only; omega)

end Sys2Proof.Machine
end

