-- ==== Sys2Proof/Laws/KeepsFaultBase.lean ====
section
/-!
SUPPORT. What the definitions of Machine/FaultBase.lean keep, each by the definitions it is made of.
-/

namespace Sys2Proof.Machine

open Sys2Proof

set_option Elab.async false

set_option linter.unusedVariables false
set_option linter.unreachableTactic false
set_option linter.unusedTactic false



variable {q1 q2 q3 q4 q5 q6 q7 q8 q9 q10 q11 q12 q13 q14 q15 q16 q17 q18 : Prop}

theorem State.modCtx_keeps {root : State} {s : State} {c : Nat} {f : CtxSt → CtxSt} (h_s : Keeps q1 q2 q3 q4 q5 q6 q7 q8 True q10 q11 q12 q13 q14 q15 q16 q17 q18 root s) : Keeps q1 q2 q3 q4 q5 q6 q7 q8 True q10 q11 q12 q13 q14 q15 q16 q17 q18 root (State.modCtx s c f) := by
  unfold State.modCtx
  try dsimp only
  repeat' first
    | (with_reducible first
      | assumption)
    | (apply Keeps.mk; dsimp only; with_reducible refine Keeps.upd ?_) | dsimp only

theorem State.modPlot_keeps {root : State} {s : State} {n : Nat} {f : PlotSt → PlotSt} (h_s : Keeps q1 q2 q3 q4 q5 q6 True q8 q9 q10 q11 q12 q13 q14 q15 q16 q17 q18 root s) : Keeps q1 q2 q3 q4 q5 q6 True q8 q9 q10 q11 q12 q13 q14 q15 q16 q17 q18 root (State.modPlot s n f) := by
  unfold State.modPlot
  try dsimp only
  repeat' first
    | (with_reducible first
      | assumption)
    | (apply Keeps.mk; dsimp only; with_reducible refine Keeps.upd ?_) | dsimp only

theorem State.modUnit_keeps {root : State} {s : State} {cls plot index : Nat} {f : UnitSt → UnitSt} (h_s : Keeps q1 q2 q3 q4 q5 q6 q7 True q9 q10 q11 q12 q13 q14 q15 q16 q17 q18 root s) : Keeps q1 q2 q3 q4 q5 q6 q7 True q9 q10 q11 q12 q13 q14 q15 q16 q17 q18 root (State.modUnit s cls plot index f) := by
  unfold State.modUnit
  try dsimp only
  repeat' first
    | (with_reducible first
      | assumption)
    | (apply Keeps.mk; dsimp only; with_reducible refine Keeps.upd ?_) | dsimp only

theorem State.advanceEpoch_keeps {root : State} {s : State} {cls plot index : Nat} (h_s : Keeps q1 q2 q3 q4 q5 q6 q7 True q9 q10 q11 q12 q13 q14 q15 q16 q17 q18 root s) : Keeps q1 q2 q3 q4 q5 q6 q7 True q9 q10 q11 q12 q13 q14 q15 q16 q17 q18 root (State.advanceEpoch s cls plot index) := by
  unfold State.advanceEpoch
  try dsimp only
  repeat' first
    | (with_reducible first
      | assumption | apply State.modUnit_keeps)
    | (intro _ _ _; try dsimp only) | (intro _ _; try dsimp only) | (intro _; try dsimp only)
    | (apply Keeps.mk; dsimp only; with_reducible refine Keeps.upd ?_) | dsimp only

theorem State.use_keeps {root : State} {s : State} {cls plot index n : Nat} (h_s : Keeps q1 q2 q3 q4 q5 q6 q7 True q9 q10 q11 q12 q13 q14 q15 q16 q17 q18 root s) : Keeps q1 q2 q3 q4 q5 q6 q7 True q9 q10 q11 q12 q13 q14 q15 q16 q17 q18 root (State.use s cls plot index n) := by
  unfold State.use
  try dsimp only
  repeat' first
    | (with_reducible first
      | assumption | apply State.modUnit_keeps)
    | (intro _ _ _; try dsimp only) | (intro _ _; try dsimp only) | (intro _; try dsimp only)
    | (apply Keeps.mk; dsimp only; with_reducible refine Keeps.upd ?_) | dsimp only

theorem State.toFlt_keeps {root : State} {s : State} {r : FltRec} (h_s : Keeps q1 q2 q3 q4 q5 q6 q7 True q9 q10 q11 q12 q13 q14 q15 q16 q17 q18 root s) : Keeps q1 q2 q3 q4 q5 q6 q7 True q9 q10 q11 q12 q13 q14 q15 q16 q17 q18 root (State.toFlt s r) := by
  unfold State.toFlt
  try dsimp only
  repeat' first
    | (with_reducible first
      | assumption)
    | (apply Keeps.mk; dsimp only; with_reducible refine Keeps.upd ?_) | dsimp only

theorem State.armRetry_keeps {root : State} {s : State} {cw : Nat} (h_s : Keeps q1 q2 q3 q4 q5 q6 q7 True q9 q10 q11 q12 q13 q14 q15 q16 q17 q18 root s) : Keeps q1 q2 q3 q4 q5 q6 q7 True q9 q10 q11 q12 q13 q14 q15 q16 q17 q18 root (State.armRetry s cw) := by
  unfold State.armRetry
  try dsimp only
  repeat' first
    | (with_reducible first
      | assumption)
    | (apply Keeps.mk; dsimp only; with_reducible refine Keeps.upd ?_) | dsimp only

theorem State.takeRetry_keeps {root : State} {s : State} {cw : Nat} (h_s : Keeps q1 q2 q3 q4 q5 q6 q7 True q9 q10 q11 q12 q13 q14 q15 q16 q17 q18 root s) : Keeps q1 q2 q3 q4 q5 q6 q7 True q9 q10 q11 q12 q13 q14 q15 q16 q17 q18 root (State.takeRetry s cw) := by
  unfold State.takeRetry
  try dsimp only
  repeat' first
    | (with_reducible first
      | assumption)
    | (apply Keeps.mk; dsimp only; with_reducible refine Keeps.upd ?_) | dsimp only

theorem State.debugRecord_keeps {root : State} {s : State} {kind mask named : Nat} (h_s : Keeps q1 q2 q3 q4 q5 q6 q7 q8 q9 q10 q11 q12 q13 True q15 q16 q17 q18 root s) : Keeps q1 q2 q3 q4 q5 q6 q7 q8 q9 q10 q11 q12 q13 True q15 q16 q17 q18 root (State.debugRecord s kind mask named) := by
  unfold State.debugRecord
  try dsimp only
  repeat' first
    | (with_reducible first
      | assumption)
    | (apply Keeps.mk; dsimp only; with_reducible refine Keeps.upd ?_) | dsimp only

theorem State.debugBegin_keeps {root : State} {s : State} {kind mask named : Nat} (h_s : Keeps q1 q2 True q4 q5 q6 q7 q8 q9 q10 q11 q12 q13 True q15 q16 q17 q18 root s) : Keeps q1 q2 True q4 q5 q6 q7 q8 q9 q10 q11 q12 q13 True q15 q16 q17 q18 root (State.debugBegin s kind mask named) := by
  unfold State.debugBegin
  try dsimp only
  repeat' first
    | (with_reducible first
      | assumption | apply ite_keeps | apply ite_keeps2 | apply ite_keeps1 | apply State.bump_keeps
      | apply State.debugRecord_keeps | apply State.raise_keeps | apply foldl_keeps)
    | (intro _ _ _; try dsimp only) | (intro _ _; try dsimp only) | (intro _; try dsimp only)
    | (apply Keeps.mk; dsimp only; with_reducible refine Keeps.upd ?_) | split | dsimp only

theorem State.debugEnd_keeps {root : State} {s : State} {kind named : Nat} (h_s : Keeps q1 q2 q3 q4 q5 q6 q7 q8 q9 q10 q11 q12 q13 True q15 q16 q17 q18 root s) : Keeps q1 q2 q3 q4 q5 q6 q7 q8 q9 q10 q11 q12 q13 True q15 q16 q17 q18 root (State.debugEnd s kind named) := by
  unfold State.debugEnd
  try dsimp only
  repeat' first
    | (with_reducible first
      | assumption | apply State.debugRecord_keeps)
    | (intro _ _ _; try dsimp only) | (intro _ _; try dsimp only) | (intro _; try dsimp only)
    | (apply Keeps.mk; dsimp only; with_reducible refine Keeps.upd ?_) | split | dsimp only

theorem State.platform_keeps {root : State} {s : State} {what : Nat} {words : List Nat} (h_s : Keeps q1 q2 True q4 q5 q6 q7 q8 q9 q10 q11 q12 q13 q14 q15 q16 True q18 root s) : Keeps q1 q2 True q4 q5 q6 q7 q8 q9 q10 q11 q12 q13 q14 q15 q16 True q18 root (State.platform s what words) := by
  unfold State.platform
  try dsimp only
  repeat' first
    | (with_reducible first
      | assumption | apply ite_keeps | apply ite_keeps2 | apply ite_keeps1 | apply State.bump_keeps | apply State.emit_keeps)
    | (apply Keeps.mk; dsimp only; with_reducible refine Keeps.upd ?_) | split | dsimp only

theorem State.staleDrop_keeps {root : State} {s : State} {part : Option Nat} (h_s : Keeps q1 q2 True q4 q5 q6 q7 q8 q9 q10 q11 q12 q13 q14 q15 q16 q17 q18 root s) : Keeps q1 q2 True q4 q5 q6 q7 q8 q9 q10 q11 q12 q13 q14 q15 q16 q17 q18 root (State.staleDrop s part) := by
  unfold State.staleDrop
  try dsimp only
  repeat' first
    | (with_reducible first
      | assumption | apply State.bump_keeps | apply State.raise_keeps)
    | dsimp only

theorem State.faultCtx_keeps {root : State} {s : State} {c cause : Nat} (h_s : Keeps q1 q2 True q4 q5 q6 q7 q8 True q10 q11 q12 q13 q14 q15 q16 q17 q18 root s) : Keeps q1 q2 True q4 q5 q6 q7 q8 True q10 q11 q12 q13 q14 q15 q16 q17 q18 root (State.faultCtx s c cause) := by
  unfold State.faultCtx
  try dsimp only
  repeat' first
    | (with_reducible first
      | assumption | apply ite_keeps | apply State.live_keeps | apply State.modCtx_keeps | apply State.record_keeps)
    | (intro _ _ _; try dsimp only) | (intro _ _; try dsimp only) | (intro _; try dsimp only)
    | (apply Keeps.mk; dsimp only; with_reducible refine Keeps.upd ?_) | split | dsimp only

theorem State.overLimit_keeps {root : State} {s : State} {c level cause : Nat} (h_s : Keeps q1 q2 True q4 q5 q6 q7 True True q10 q11 q12 q13 q14 q15 q16 q17 q18 root s) : Keeps q1 q2 True q4 q5 q6 q7 True True q10 q11 q12 q13 q14 q15 q16 q17 q18 root (State.overLimit s c level cause) := by
  unfold State.overLimit
  try dsimp only
  repeat' first
    | (with_reducible first
      | assumption | apply ite_keeps | apply State.faultCtx_keeps | apply State.live_keeps | apply State.toFlt_keeps)
    | split | dsimp only

theorem State.raced_keeps {root : State} {s : State} {c : Nat} (h_s : Keeps q1 q2 q3 q4 q5 q6 q7 q8 True q10 q11 q12 q13 q14 q15 q16 q17 q18 root s) : Keeps q1 q2 q3 q4 q5 q6 q7 q8 True q10 q11 q12 q13 q14 q15 q16 q17 q18 root (State.raced s c) := by
  unfold State.raced
  try dsimp only
  repeat' first
    | (with_reducible first
      | assumption | apply ite_keeps | apply State.modCtx_keeps)
    | (intro _ _ _; try dsimp only) | (intro _ _; try dsimp only) | (intro _; try dsimp only)
    | (apply Keeps.mk; dsimp only; with_reducible refine Keeps.upd ?_) | split | dsimp only

theorem State.opDone_keeps {root : State} {s : State} {c engine plot desc : Nat} (h_s : Keeps q1 q2 q3 q4 q5 q6 q7 q8 True q10 q11 q12 q13 q14 q15 q16 q17 q18 root s) : Keeps q1 q2 q3 q4 q5 q6 q7 q8 True q10 q11 q12 q13 q14 q15 q16 q17 q18 root (State.opDone s c engine plot desc) := by
  unfold State.opDone
  try dsimp only
  repeat' first
    | (with_reducible first
      | assumption | apply ite_keeps | apply State.modCtx_keeps)
    | (intro _ _ _; try dsimp only) | (intro _ _; try dsimp only) | (intro _; try dsimp only)
    | (apply Keeps.mk; dsimp only; with_reducible refine Keeps.upd ?_) | split | dsimp only

end Sys2Proof.Machine
end

