-- ==== Sys2Proof/Laws/KeepsStores.lean ====
section
/-!
SUPPORT. What the definitions of Machine/Stores.lean keep, each by the definitions it is made of.
-/

namespace Sys2Proof.Machine

open Sys2Proof

set_option Elab.async false

set_option linter.unusedVariables false
set_option linter.unreachableTactic false
set_option linter.unusedTactic false



variable {q1 q2 q3 q4 q5 q6 q7 q8 q9 q10 q11 q12 q13 q14 q15 q16 q17 q18 : Prop}

theorem State.setXor_keeps {root : State} {s : State} {cw x : Nat} (h_s : Keeps q1 True q3 q4 q5 q6 q7 q8 q9 q10 q11 q12 q13 q14 q15 q16 q17 q18 root s) : Keeps q1 True q3 q4 q5 q6 q7 q8 q9 q10 q11 q12 q13 q14 q15 q16 q17 q18 root (State.setXor s cw x) := by
  exact ⟨{ h_s.c with eccWf := fun h => SMap.put_wf _ _ _ _ (h_s.c.eccWf h), eccQ := .inl trivial }⟩

theorem State.strike_keeps {root : State} {s : State} {l : List Strike} (h_s : Keeps q1 True q3 q4 q5 q6 q7 q8 q9 q10 q11 q12 q13 q14 q15 q16 q17 q18 root s) : Keeps q1 True q3 q4 q5 q6 q7 q8 q9 q10 q11 q12 q13 q14 q15 q16 q17 q18 root (State.strike s l) := by
  unfold State.strike
  try dsimp only
  repeat' first
    | (with_reducible first
      | assumption | apply State.setXor_keeps | apply foldl_keeps)
    | (intro _ _ _; try dsimp only) | (intro _ _; try dsimp only) | (intro _; try dsimp only) | dsimp only

theorem State.putCw_keeps {root : State} {s : State} {cw d : Nat} (h_s : Keeps True True q3 q4 q5 q6 q7 q8 q9 q10 q11 q12 q13 q14 q15 q16 q17 q18 root s) : Keeps True True q3 q4 q5 q6 q7 q8 q9 q10 q11 q12 q13 q14 q15 q16 q17 q18 root (State.putCw s cw d) := by
  exact ⟨{ h_s.c with memWf := fun h => Mem.writeLe_wf s.mem (16 * cw) 16 d (h_s.c.memWf h), eccWf := fun h => SMap.put_wf zeroUnlisted s.ecc cw 0 (h_s.c.eccWf h), memQ := .inl trivial, eccQ := .inl trivial }⟩

theorem State.putPoison_keeps {root : State} {s : State} {cw d : Nat} (h_s : Keeps True True q3 q4 q5 q6 q7 q8 q9 q10 q11 q12 q13 q14 q15 q16 q17 q18 root s) : Keeps True True q3 q4 q5 q6 q7 q8 q9 q10 q11 q12 q13 q14 q15 q16 q17 q18 root (State.putPoison s cw d) := by
  exact ⟨{ h_s.c with memWf := fun h => Mem.writeLe_wf s.mem (16 * cw) 16 d (h_s.c.memWf h), eccWf := fun h => SMap.put_wf zeroUnlisted s.ecc cw eccPoison (h_s.c.eccWf h), memQ := .inl trivial, eccQ := .inl trivial }⟩

theorem State.zeroBytes_keeps {root : State} {s : State} {a n : Nat} (h_s : Keeps True True q3 q4 q5 q6 q7 q8 q9 q10 q11 q12 q13 q14 q15 q16 q17 q18 root s) : Keeps True True q3 q4 q5 q6 q7 q8 q9 q10 q11 q12 q13 q14 q15 q16 q17 q18 root (State.zeroBytes s a n) := by
  exact ⟨{ h_s.c with memWf := fun h => Mem.zero_wf _ _ _ (h_s.c.memWf h), eccWf := fun h => SMap.filter_wf _ _ _ (h_s.c.eccWf h), memQ := .inl trivial, eccQ := .inl trivial }⟩

theorem State.freshen_keeps {root : State} {s : State} {n : Nat} {st : Store} {r c : Nat} (h_s : Keeps q1 q2 q3 q4 q5 q6 True q8 q9 q10 q11 q12 q13 q14 q15 q16 q17 q18 root s) : Keeps q1 q2 q3 q4 q5 q6 True q8 q9 q10 q11 q12 q13 q14 q15 q16 q17 q18 root (State.freshen s n st r c) := by
  unfold State.freshen
  try dsimp only
  repeat' first
    | (with_reducible first
      | assumption | apply ite_keeps | apply State.modPlot_keeps)
    | (intro _ _ _; try dsimp only) | (intro _ _; try dsimp only) | (intro _; try dsimp only)
    | (apply Keeps.mk; dsimp only; with_reducible refine Keeps.upd ?_) | split | dsimp only

theorem State.eccEvent_keeps {root : State} {s : State} {n : Nat} {st : Store} {r c : Nat} {patrol : Bool} {ctx part : Option Nat} {j : EccResult} (h_s : Keeps q1 q2 True q4 q5 q6 True True q9 q10 q11 q12 q13 q14 q15 q16 q17 q18 root s) : Keeps q1 q2 True q4 q5 q6 True True q9 q10 q11 q12 q13 q14 q15 q16 q17 q18 root (State.eccEvent s n st r c patrol ctx part j) := by
  unfold State.eccEvent
  try dsimp only
  repeat' first
    | (with_reducible first
      | assumption | apply ite_keeps | apply ite_keeps2 | apply ite_keeps1 | apply State.armRetry_keeps
      | apply State.bump_keeps | apply State.modPlot_keeps | apply State.raise_keeps | apply State.toFlt_keeps)
    | (intro _ _ _; try dsimp only) | (intro _ _; try dsimp only) | (intro _; try dsimp only)
    | (apply Keeps.mk; dsimp only; with_reducible refine Keeps.upd ?_) | split | dsimp only

theorem State.rowRetry_keeps {root : State} {s s0 : State} {n : Nat} {st : Store} {r : Nat} {ctx : Option Nat} {bad : Bool} (h_s : Keeps q1 q2 q3 q4 q5 q6 q7 True q9 q10 q11 q12 q13 q14 q15 q16 q17 q18 root s) (h_s0 : Keeps q1 q2 q3 q4 q5 q6 q7 True q9 q10 q11 q12 q13 q14 q15 q16 q17 q18 root s0) : Keeps q1 q2 q3 q4 q5 q6 q7 True q9 q10 q11 q12 q13 q14 q15 q16 q17 q18 root (State.rowRetry s s0 n st r ctx bad) := by
  unfold State.rowRetry
  try dsimp only
  repeat' first
    | (with_reducible first
      | assumption | apply ite_keeps | apply State.toFlt_keeps)
    | split | dsimp only

theorem State.rowEvents_keeps {root : State} {s : State} {n : Nat} {st : Store} {r : Nat} {patrol : Bool} {ctx part : Option Nat} (h_s : Keeps q1 q2 True q4 q5 q6 True True q9 q10 q11 q12 q13 q14 q15 q16 q17 q18 root s) : Keeps q1 q2 True q4 q5 q6 True True q9 q10 q11 q12 q13 q14 q15 q16 q17 q18 root (State.rowEvents s n st r patrol ctx part) := by
  unfold State.rowEvents
  try dsimp only
  repeat' first
    | (with_reducible first
      | assumption | apply State.eccEvent_keeps | apply State.rowRetry_keeps | apply State.takeRetry_keeps
      | apply foldl_keeps)
    | (intro _ _ _; try dsimp only) | (intro _ _; try dsimp only) | (intro _; try dsimp only) | dsimp only

theorem State.queueWb_keeps {root : State} {s : State} {n : Nat} {st : Store} {r : Nat} {part : Option Nat} (h_s : Keeps q1 q2 True q4 q5 q6 True q8 q9 q10 q11 q12 q13 q14 q15 q16 q17 q18 root s) : Keeps q1 q2 True q4 q5 q6 True q8 q9 q10 q11 q12 q13 q14 q15 q16 q17 q18 root (State.queueWb s n st r part) := by
  unfold State.queueWb
  try dsimp only
  repeat' first
    | (with_reducible first
      | assumption | apply ite_keeps | apply State.bump_keeps | apply State.modPlot_keeps)
    | (intro _ _ _; try dsimp only) | (intro _ _; try dsimp only) | (intro _; try dsimp only)
    | (apply Keeps.mk; dsimp only; with_reducible refine Keeps.upd ?_) | split | dsimp only

theorem State.readRowOf_keeps {root : State} {s : State} {n : Nat} {st : Store} {r : Nat} {ctx part : Option Nat} (h_s : Keeps q1 q2 True q4 q5 q6 True True True q10 q11 q12 q13 q14 q15 q16 q17 q18 root s) : Keeps q1 q2 True q4 q5 q6 True True True q10 q11 q12 q13 q14 q15 q16 q17 q18 root (State.readRowOf s n st r ctx part).2 := by
  unfold State.readRowOf
  try dsimp only
  repeat' first
    | (with_reducible first
      | assumption | apply ite_keeps | apply ite_keeps2 | apply ite_keeps1 | apply State.faultCtx_keeps
      | apply State.queueWb_keeps | apply State.rowEvents_keeps)
    | (apply Keeps.mk; dsimp only; with_reducible refine Keeps.upd ?_) | split | dsimp only

theorem State.readRow_keeps {root : State} {s : State} {n : Nat} {st : Store} {r : Nat} (h_s : Keeps q1 q2 True q4 q5 q6 True True True q10 q11 q12 q13 q14 q15 q16 q17 q18 root s) : Keeps q1 q2 True q4 q5 q6 True True True q10 q11 q12 q13 q14 q15 q16 q17 q18 root (State.readRow s n st r).2 := by
  unfold State.readRow
  try dsimp only
  repeat' first
    | (with_reducible first
      | assumption | apply State.readRowOf_keeps)
    | dsimp only

theorem State.writeCw_keeps {root : State} {s s0 : State} {n : Nat} {st : Store} {r c data mask : Nat} {ctx part : Option Nat} (h_s : Keeps True True True q4 q5 q6 True True True q10 q11 q12 q13 q14 q15 q16 q17 q18 root s) (h_s0 : Keeps True True True q4 q5 q6 True True True q10 q11 q12 q13 q14 q15 q16 q17 q18 root s0) : Keeps True True True q4 q5 q6 True True True q10 q11 q12 q13 q14 q15 q16 q17 q18 root (State.writeCw s s0 n st r c data mask ctx part) := by
  unfold State.writeCw
  try dsimp only
  repeat' first
    | (with_reducible first
      | assumption | apply ite_keeps | apply ite_keeps2 | apply ite_keeps1 | apply State.eccEvent_keeps
      | apply State.faultCtx_keeps | apply State.freshen_keeps | apply State.putCw_keeps)
    | (apply Keeps.mk; dsimp only; with_reducible refine Keeps.upd ?_) | split | dsimp only

theorem State.writeRow_keeps {root : State} {s s0 : State} {n : Nat} {st : Store} {r data mask : Nat} {ctx part : Option Nat} (h_s : Keeps True True True q4 q5 q6 True True True q10 q11 q12 q13 q14 q15 q16 q17 q18 root s) (h_s0 : Keeps True True True q4 q5 q6 True True True q10 q11 q12 q13 q14 q15 q16 q17 q18 root s0) : Keeps True True True q4 q5 q6 True True True q10 q11 q12 q13 q14 q15 q16 q17 q18 root (State.writeRow s s0 n st r data mask ctx part) := by
  unfold State.writeRow
  try dsimp only
  repeat' first
    | (with_reducible first
      | assumption | apply State.writeCw_keeps | apply foldl_keeps)
    | (intro _ _ _; try dsimp only) | (intro _ _; try dsimp only) | (intro _; try dsimp only) | dsimp only

theorem State.oob_keeps {root : State} {s : State} {n e : Nat} {st : Store} {client : Nat} {write : Bool} {rel : Nat} (h_s : Keeps q1 q2 True q4 q5 q6 True q8 True q10 q11 q12 q13 q14 q15 q16 q17 q18 root s) : Keeps q1 q2 True q4 q5 q6 True q8 True q10 q11 q12 q13 q14 q15 q16 q17 q18 root (State.oob s n e st client write rel) := by
  unfold State.oob
  try dsimp only
  repeat' first
    | (with_reducible first
      | assumption | apply State.bump_keeps | apply State.faultCtx_keeps | apply State.modPlot_keeps
      | apply State.raise_keeps)
    | (intro _ _ _; try dsimp only) | (intro _ _; try dsimp only) | (intro _; try dsimp only)
    | (apply Keeps.mk; dsimp only; with_reducible refine Keeps.upd ?_) | dsimp only

theorem State.winRead_keeps {root : State} {s : State} {n e : Nat} {st : Store} {client rel : Nat} (h_s : Keeps q1 q2 True q4 q5 q6 True True True q10 q11 q12 q13 q14 q15 q16 q17 q18 root s) : Keeps q1 q2 True q4 q5 q6 True True True q10 q11 q12 q13 q14 q15 q16 q17 q18 root (State.winRead s n e st client rel).2 := by
  unfold State.winRead
  try dsimp only
  repeat' first
    | (with_reducible first
      | assumption | apply ite_keeps | apply ite_keeps2 | apply ite_keeps1 | apply State.faultCtx_keeps
      | apply State.oob_keeps | apply State.readRowOf_keeps)
    | (apply Keeps.mk; dsimp only; with_reducible refine Keeps.upd ?_) | split | dsimp only

theorem State.winReadN_keeps {root : State} : ∀ (y0 : Nat) {s : State} {n e : Nat} {st : Store} {client rel : Nat}  (h_s : Keeps q1 q2 True q4 q5 q6 True True True q10 q11 q12 q13 q14 q15 q16 q17 q18 root s), Keeps q1 q2 True q4 q5 q6 True True True q10 q11 q12 q13 q14 q15 q16 q17 q18 root (State.winReadN s n e st client rel y0).2 := by
  intro y0
  induction y0 with
  | zero =>
    intros
    unfold State.winReadN
    repeat' first
      | with_reducible apply ih
      | (with_reducible first
        | assumption | apply State.winRead_keeps)
      | (apply Keeps.mk; dsimp only; with_reducible refine Keeps.upd ?_) | split | dsimp only
  
  | succ m ih =>
    intros
    unfold State.winReadN
    try dsimp only
    repeat' first
      | with_reducible apply ih
      | (with_reducible first
        | assumption | apply State.winRead_keeps)
      | (apply Keeps.mk; dsimp only; with_reducible refine Keeps.upd ?_) | split | dsimp only
  
theorem State.winWrite_keeps {root : State} {s : State} {n e : Nat} {st : Store} {client rel data mask : Nat} (h_s : Keeps True True True q4 q5 q6 True True True q10 q11 q12 q13 q14 q15 q16 q17 q18 root s) : Keeps True True True q4 q5 q6 True True True q10 q11 q12 q13 q14 q15 q16 q17 q18 root (State.winWrite s n e st client rel data mask) := by
  unfold State.winWrite
  try dsimp only
  repeat' first
    | (with_reducible first
      | assumption | apply ite_keeps | apply State.faultCtx_keeps | apply State.oob_keeps | apply State.writeRow_keeps)
    | (apply Keeps.mk; dsimp only; with_reducible refine Keeps.upd ?_) | split | dsimp only

theorem State.winWriteN_keeps {root : State} : ∀ (y0 : Nat) {s : State} {n e : Nat} {st : Store} {client rel data : Nat}  (h_s : Keeps True True True q4 q5 q6 True True True q10 q11 q12 q13 q14 q15 q16 q17 q18 root s), Keeps True True True q4 q5 q6 True True True q10 q11 q12 q13 q14 q15 q16 q17 q18 root (State.winWriteN s n e st client rel data y0) := by
  intro y0
  induction y0 with
  | zero =>
    intros
    unfold State.winWriteN
    repeat' first
      | with_reducible apply ih
      | (with_reducible first
        | assumption | apply State.winWrite_keeps)
      | dsimp only
  
  | succ m ih =>
    intros
    unfold State.winWriteN
    try dsimp only
    repeat' first
      | with_reducible apply ih
      | (with_reducible first
        | assumption | apply State.winWrite_keeps)
      | dsimp only
  
theorem State.modWin_keeps {root : State} {s : State} {n e : Nat} {f : WinSt → WinSt} (h_s : Keeps q1 q2 q3 q4 q5 q6 True q8 q9 q10 q11 q12 q13 q14 q15 q16 q17 q18 root s) : Keeps q1 q2 q3 q4 q5 q6 True q8 q9 q10 q11 q12 q13 q14 q15 q16 q17 q18 root (State.modWin s n e f) := by
  unfold State.modWin
  try dsimp only
  repeat' first
    | (with_reducible first
      | assumption | apply State.modPlot_keeps)
    | (intro _ _ _; try dsimp only) | (intro _ _; try dsimp only) | (intro _; try dsimp only)
    | (apply Keeps.mk; dsimp only; with_reducible refine Keeps.upd ?_) | dsimp only

theorem State.winEnter_keeps {root : State} {s : State} {n e : Nat} (h_s : Keeps q1 q2 q3 q4 q5 q6 True q8 q9 q10 q11 q12 q13 q14 q15 q16 q17 q18 root s) : Keeps q1 q2 q3 q4 q5 q6 True q8 q9 q10 q11 q12 q13 q14 q15 q16 q17 q18 root (State.winEnter s n e) := by
  unfold State.winEnter
  try dsimp only
  repeat' first
    | (with_reducible first
      | assumption | apply State.modWin_keeps)
    | (intro _ _ _; try dsimp only) | (intro _ _; try dsimp only) | (intro _; try dsimp only) | dsimp only

theorem State.zeroFinish_keeps {root : State} {s : State} {n e : Nat} (h_s : Keeps q1 q2 True q4 q5 q6 True q8 q9 q10 q11 q12 q13 q14 q15 q16 q17 q18 root s) : Keeps q1 q2 True q4 q5 q6 True q8 q9 q10 q11 q12 q13 q14 q15 q16 q17 q18 root (State.zeroFinish s n e) := by
  unfold State.zeroFinish
  try dsimp only
  repeat' first
    | (with_reducible first
      | assumption | apply ite_keeps | apply ite_keeps2 | apply ite_keeps1 | apply State.modWin_keeps
      | apply State.raise_keeps)
    | (intro _ _ _; try dsimp only) | (intro _ _; try dsimp only) | (intro _; try dsimp only) | split | dsimp only

theorem State.winLeave_keeps {root : State} {s : State} {m : SMap Word} {n e : Nat} {kill : Bool} (h_s : Keeps True True True True True q6 True True True q10 q11 True q13 True q15 q16 q17 True root s) : Keeps True True True True True q6 True True True q10 q11 True q13 True q15 q16 q17 True root (State.winLeave s m n e kill) := by
  unfold State.winLeave
  try dsimp only
  repeat' first
    | (with_reducible first
      | assumption | apply ite_keeps | apply ite_keeps2 | apply ite_keeps1 | apply State.kill_keeps
      | apply State.modWin_keeps | apply State.zeroFinish_keeps)
    | (intro _ _ _; try dsimp only) | (intro _ _; try dsimp only) | (intro _; try dsimp only) | split | dsimp only

theorem State.nextZeroOrder_keeps {root : State} {s : State} {n : Nat} (h_s : Keeps q1 q2 q3 q4 q5 q6 True q8 q9 q10 q11 q12 q13 q14 q15 q16 q17 q18 root s) : Keeps q1 q2 q3 q4 q5 q6 True q8 q9 q10 q11 q12 q13 q14 q15 q16 q17 q18 root (State.nextZeroOrder s n) := by
  unfold State.nextZeroOrder
  try dsimp only
  repeat' first
    | (with_reducible first
      | assumption | apply State.modPlot_keeps)
    | (intro _ _ _; try dsimp only) | (intro _ _; try dsimp only) | (intro _; try dsimp only)
    | (apply Keeps.mk; dsimp only; with_reducible refine Keeps.upd ?_) | dsimp only

theorem State.winUnhold_keeps {root : State} {s : State} {n e : Nat} (h_s : Keeps q1 q2 True q4 q5 q6 True q8 q9 q10 q11 q12 q13 q14 q15 q16 q17 q18 root s) : Keeps q1 q2 True q4 q5 q6 True q8 q9 q10 q11 q12 q13 q14 q15 q16 q17 q18 root (State.winUnhold s n e) := by
  unfold State.winUnhold
  try dsimp only
  repeat' first
    | (with_reducible first
      | assumption | apply ite_keeps | apply State.modWin_keeps | apply State.zeroFinish_keeps)
    | (intro _ _ _; try dsimp only) | (intro _ _; try dsimp only) | (intro _; try dsimp only)
    | (apply Keeps.mk; dsimp only; with_reducible refine Keeps.upd ?_) | split | dsimp only

theorem State.zeroRow_keeps {root : State} {s : State} {n : Nat} {st : Store} {part r : Nat} (h_s : Keeps True True True q4 q5 q6 True q8 q9 q10 q11 q12 q13 q14 q15 q16 q17 q18 root s) : Keeps True True True q4 q5 q6 True q8 q9 q10 q11 q12 q13 q14 q15 q16 q17 q18 root (State.zeroRow s n st part r) := by
  unfold State.zeroRow
  try dsimp only
  repeat' first
    | (with_reducible first
      | assumption | apply ite_keeps | apply State.bump_keeps | apply State.freshen_keeps | apply State.zeroBytes_keeps
      | apply foldl_keeps)
    | (intro _ _ _; try dsimp only) | (intro _ _; try dsimp only) | (intro _; try dsimp only) | split | dsimp only

theorem State.zeroFinishAll_keeps {root : State} {s : State} {n : Nat} (h_s : Keeps q1 q2 True q4 q5 q6 True q8 q9 q10 q11 q12 q13 q14 q15 q16 q17 q18 root s) : Keeps q1 q2 True q4 q5 q6 True q8 q9 q10 q11 q12 q13 q14 q15 q16 q17 q18 root (State.zeroFinishAll s n) := by
  unfold State.zeroFinishAll
  try dsimp only
  repeat' first
    | (with_reducible first
      | assumption | apply State.zeroFinish_keeps | apply foldl_keeps)
    | (intro _ _ _; try dsimp only) | (intro _ _; try dsimp only) | (intro _; try dsimp only) | dsimp only

theorem State.zeroStep_keeps {root : State} {s : State} {n : Nat} {st : Store} {e : Nat} {x : WinSt} (h_s : Keeps True True True q4 q5 q6 True q8 q9 q10 q11 q12 q13 q14 q15 q16 q17 q18 root s) : Keeps True True True q4 q5 q6 True q8 q9 q10 q11 q12 q13 q14 q15 q16 q17 q18 root (State.zeroStep s n st e x) := by
  unfold State.zeroStep
  try dsimp only
  repeat' first
    | (with_reducible first
      | assumption | apply State.modWin_keeps | apply State.zeroFinishAll_keeps | apply State.zeroRow_keeps
      | apply foldl_keeps)
    | (intro _ _ _; try dsimp only) | (intro _ _; try dsimp only) | (intro _; try dsimp only) | dsimp only

theorem State.graftSpare_keeps {root : State} {s : State} {n mac spare target : Nat} (h_s : Keeps q1 q2 q3 q4 q5 q6 True q8 q9 q10 q11 q12 q13 q14 q15 q16 q17 q18 root s) : Keeps q1 q2 q3 q4 q5 q6 True q8 q9 q10 q11 q12 q13 q14 q15 q16 q17 q18 root (State.graftSpare s n mac spare target) := by
  unfold State.graftSpare
  try dsimp only
  repeat' first
    | (with_reducible first
      | assumption | apply ite_keeps | apply State.modPlot_keeps)
    | (intro _ _ _; try dsimp only) | (intro _ _; try dsimp only) | (intro _; try dsimp only)
    | (apply Keeps.mk; dsimp only; with_reducible refine Keeps.upd ?_) | split | dsimp only

theorem State.rewriteCw_keeps {root : State} {s s0 : State} {n : Nat} {st : Store} {r c : Nat} {how : Rewrite} {skip : Bool} {ctx part : Option Nat} (h_s : Keeps True True True q4 q5 q6 True True q9 q10 q11 q12 q13 q14 q15 q16 q17 q18 root s) (h_s0 : Keeps True True True q4 q5 q6 True True q9 q10 q11 q12 q13 q14 q15 q16 q17 q18 root s0) : Keeps True True True q4 q5 q6 True True q9 q10 q11 q12 q13 q14 q15 q16 q17 q18 root (State.rewriteCw s s0 n st r c how skip ctx part) := by
  unfold State.rewriteCw
  try dsimp only
  repeat' first
    | (with_reducible first
      | assumption | apply ite_keeps | apply ite_keeps2 | apply ite_keeps1 | apply State.armRetry_keeps
      | apply State.eccEvent_keeps | apply State.freshen_keeps | apply State.putCw_keeps | apply State.putPoison_keeps)
    | (apply Keeps.mk; dsimp only; with_reducible refine Keeps.upd ?_) | split | dsimp only

theorem State.rewriteRow_keeps {root : State} {s s0 : State} {n : Nat} {st : Store} {r : Nat} {how : Rewrite} {skip : List Nat} (h_s : Keeps True True True q4 q5 q6 True True q9 q10 q11 q12 q13 q14 q15 q16 q17 q18 root s) (h_s0 : Keeps True True True q4 q5 q6 True True q9 q10 q11 q12 q13 q14 q15 q16 q17 q18 root s0) : Keeps True True True q4 q5 q6 True True q9 q10 q11 q12 q13 q14 q15 q16 q17 q18 root (State.rewriteRow s s0 n st r how skip) := by
  unfold State.rewriteRow
  try dsimp only
  repeat' first
    | (with_reducible first
      | assumption | apply ite_keeps | apply ite_keeps2 | apply ite_keeps1 | apply State.rewriteCw_keeps
      | apply State.rowRetry_keeps | apply State.takeRetry_keeps | apply foldl_keeps)
    | (intro _ _ _; try dsimp only) | (intro _ _; try dsimp only) | (intro _; try dsimp only) | split | dsimp only

theorem State.scrubStores_keeps {root : State} {s : State} {n : Nat} (h_s : Keeps True True q3 q4 q5 q6 True q8 q9 q10 q11 q12 q13 q14 q15 q16 q17 q18 root s) : Keeps True True q3 q4 q5 q6 True q8 q9 q10 q11 q12 q13 q14 q15 q16 q17 q18 root (State.scrubStores s n) := by
  unfold State.scrubStores
  try dsimp only
  repeat' first
    | (with_reducible first
      | assumption | apply State.modPlot_keeps | apply State.zeroBytes_keeps)
    | (intro _ _ _; try dsimp only) | (intro _ _; try dsimp only) | (intro _; try dsimp only)
    | (apply Keeps.mk; dsimp only; with_reducible refine Keeps.upd ?_) | dsimp only

end Sys2Proof.Machine
end

