-- ==== Sys2Proof/Laws/KeepsRegPath.lean ====
section
/-!
SUPPORT. What the definitions of Machine/RegPath.lean keep, each by the definitions it is made of.
-/

namespace Sys2Proof.Machine

open Sys2Proof

set_option Elab.async false

set_option linter.unusedVariables false
set_option linter.unreachableTactic false
set_option linter.unusedTactic false



variable {q1 q2 q3 q4 q5 q6 q7 q8 q9 q10 q11 q12 q13 q14 q15 q16 q17 q18 : Prop}

theorem State.badAccess_keeps {root : State} {s : State} {v : View} {off : Nat} {write part' : Bool} (h_s : Keeps q1 q2 True q4 q5 q6 q7 q8 q9 q10 q11 q12 q13 q14 q15 q16 q17 q18 root s) : Keeps q1 q2 True q4 q5 q6 q7 q8 q9 q10 q11 q12 q13 q14 q15 q16 q17 q18 root (State.badAccess s v off write part') := by
  unfold State.badAccess
  try dsimp only
  repeat' first
    | (with_reducible first
      | assumption | apply State.bump_keeps | apply State.raise_keeps)
    | (apply Keeps.mk; dsimp only; with_reducible refine Keeps.upd ?_) | dsimp only

theorem State.written_keeps {root : State} {s : State} {v : View} {f : State → State} (h_s : Keeps q1 q2 q3 q4 q5 q6 q7 q8 q9 q10 q11 q12 q13 q14 q15 q16 q17 q18 root s) (h_f : ∀ (x0 : State), Keeps q1 q2 q3 q4 q5 q6 q7 q8 q9 q10 q11 q12 q13 q14 q15 q16 q17 q18 root x0 → Keeps q1 q2 q3 q4 q5 q6 q7 q8 q9 q10 q11 q12 q13 q14 q15 q16 q17 q18 root (f x0)) : Keeps q1 q2 q3 q4 q5 q6 q7 q8 q9 q10 q11 q12 q13 q14 q15 q16 q17 q18 root (State.written s v f) := by
  unfold State.written
  try dsimp only
  repeat' first
    | (with_reducible first
      | assumption | apply ite_keeps | apply h_f)
    | (intro _ _ _; try dsimp only) | (intro _ _; try dsimp only) | (intro _; try dsimp only) | split | dsimp only

theorem State.commanded_keeps {root : State} {s : State} {v : View} {p : Page} {ok : Bool} {f : State → State} (h_s : Keeps q1 q2 True q4 q5 q6 q7 q8 q9 q10 q11 q12 q13 q14 q15 q16 q17 q18 root s) (h_f : ∀ (x0 : State), Keeps q1 q2 True q4 q5 q6 q7 q8 q9 q10 q11 q12 q13 q14 q15 q16 q17 q18 root x0 → Keeps q1 q2 True q4 q5 q6 q7 q8 q9 q10 q11 q12 q13 q14 q15 q16 q17 q18 root (f x0)) : Keeps q1 q2 True q4 q5 q6 q7 q8 q9 q10 q11 q12 q13 q14 q15 q16 q17 q18 root (State.commanded s v p ok f) := by
  unfold State.commanded
  try dsimp only
  repeat' first
    | (with_reducible first
      | assumption | apply ite_keeps | apply h_f | apply State.dropped_keeps | apply State.written_keeps)
    | (intro _ _ _; try dsimp only) | (intro _ _; try dsimp only) | (intro _; try dsimp only) | split | dsimp only

theorem State.modChan_keeps {root : State} {s : State} {k : Nat} {f : Channel → Channel} (h_s : Keeps q1 q2 q3 True q5 q6 q7 q8 q9 q10 q11 q12 q13 q14 q15 q16 q17 q18 root s) : Keeps q1 q2 q3 True q5 q6 q7 q8 q9 q10 q11 q12 q13 q14 q15 q16 q17 q18 root (State.modChan s k f) := by
  unfold State.modChan
  try dsimp only
  repeat' first
    | (with_reducible first
      | assumption)
    | (apply Keeps.mk; dsimp only; with_reducible refine Keeps.upd ?_) | dsimp only

theorem State.noteApply_keeps {root : State} {t s : State} (h_t : Keeps q1 q2 q3 True q5 q6 q7 q8 q9 q10 q11 q12 q13 q14 q15 q16 q17 q18 root t) (h_s : Keeps q1 q2 q3 True q5 q6 q7 q8 q9 q10 q11 q12 q13 q14 q15 q16 q17 q18 root s) : Keeps q1 q2 q3 True q5 q6 q7 q8 q9 q10 q11 q12 q13 q14 q15 q16 q17 q18 root (State.noteApply t s) := by
  unfold State.noteApply
  try dsimp only
  repeat' first
    | (with_reducible first
      | assumption | apply State.modChan_keeps | apply foldl_keeps | apply foldl_keeps2 | apply foldl_keeps1
      | apply foldl_keeps22)
    | (intro _ _ _; try dsimp only) | (intro _ _; try dsimp only) | (intro _; try dsimp only)
    | (apply Keeps.mk; dsimp only; with_reducible refine Keeps.upd ?_) | dsimp only

theorem State.liveApply_keeps {root : State} {s : State} {f : State → State} (h_s : Keeps q1 q2 q3 True q5 q6 q7 q8 q9 q10 q11 q12 q13 q14 q15 q16 q17 q18 root s) (h_f : ∀ (x0 : State), Keeps q1 q2 q3 True q5 q6 q7 q8 q9 q10 q11 q12 q13 q14 q15 q16 q17 q18 root x0 → Keeps q1 q2 q3 True q5 q6 q7 q8 q9 q10 q11 q12 q13 q14 q15 q16 q17 q18 root (f x0)) : Keeps q1 q2 q3 True q5 q6 q7 q8 q9 q10 q11 q12 q13 q14 q15 q16 q17 q18 root (State.liveApply s f) := by
  unfold State.liveApply
  try dsimp only
  repeat' first
    | (with_reducible first
      | assumption | apply h_f | apply State.live_keeps | apply State.noteApply_keeps)
    | (intro _ _ _; try dsimp only) | (intro _ _; try dsimp only) | (intro _; try dsimp only) | dsimp only

end Sys2Proof.Machine
end

