-- ==== Sys2Proof/Laws/KeepsDram.lean ====
section
/-!
SUPPORT. What the definitions of Machine/Dram.lean keep, each by the definitions it is made of.
-/

namespace Sys2Proof.Machine

open Sys2Proof

set_option Elab.async false

set_option linter.unusedVariables false
set_option linter.unreachableTactic false
set_option linter.unusedTactic false



variable {q1 q2 q3 q4 q5 q6 q7 q8 q9 q10 q11 q12 q13 q14 q15 q16 q17 q18 : Prop}

theorem State.modDdrCh_keeps {root : State} {s : State} {k : Nat} {f : DdrCh → DdrCh} (h_s : Keeps q1 q2 q3 q4 q5 q6 q7 q8 q9 q10 q11 q12 q13 q14 True q16 q17 q18 root s) : Keeps q1 q2 q3 q4 q5 q6 q7 q8 q9 q10 q11 q12 q13 q14 True q16 q17 q18 root (State.modDdrCh s k f) := by
  unfold State.modDdrCh
  try dsimp only
  repeat' first
    | (with_reducible first
      | assumption)
    | (apply Keeps.mk; dsimp only; with_reducible refine Keeps.upd ?_) | dsimp only

theorem State.dramEvent_keeps {root : State} {s : State} {cw : Nat} {c : Option Nat} {j : EccResult} (h_s : Keeps q1 q2 True q4 q5 q6 q7 True q9 q10 q11 q12 q13 q14 q15 q16 q17 q18 root s) : Keeps q1 q2 True q4 q5 q6 q7 True q9 q10 q11 q12 q13 q14 q15 q16 q17 q18 root (State.dramEvent s cw c j) := by
  unfold State.dramEvent
  try dsimp only
  repeat' first
    | (with_reducible first
      | assumption | apply ite_keeps | apply ite_keeps2 | apply ite_keeps1 | apply State.armRetry_keeps
      | apply State.bump_keeps | apply State.raise_keeps | apply State.takeRetry_keeps | apply State.toFlt_keeps)
    | (apply Keeps.mk; dsimp only; with_reducible refine Keeps.upd ?_) | split | dsimp only

theorem State.dramDecode_keeps {root : State} {s : State} {c : Option Nat} {l : List Nat} (h_s : Keeps q1 q2 True q4 q5 q6 q7 True q9 q10 q11 q12 q13 q14 q15 q16 q17 q18 root s) : Keeps q1 q2 True q4 q5 q6 q7 True q9 q10 q11 q12 q13 q14 q15 q16 q17 q18 root (State.dramDecode s c l).2 := by
  unfold State.dramDecode
  try dsimp only
  repeat' first
    | (with_reducible first
      | assumption | apply ite_keeps | apply ite_keeps2 | apply ite_keeps1 | apply State.dramEvent_keeps | apply foldl_keeps
      | apply foldl_keeps2 | apply foldl_keeps1 | apply foldl_keeps22)
    | (intro _ _ _; try dsimp only) | (intro _ _; try dsimp only) | (intro _; try dsimp only) | split | dsimp only

theorem State.touchCheck_keeps {root : State} {s : State} {off len : Nat} {write : Bool} (h_s : Keeps q1 q2 q3 q4 q5 q6 q7 q8 q9 q10 q11 q12 q13 q14 True q16 q17 q18 root s) : Keeps q1 q2 q3 q4 q5 q6 q7 q8 q9 q10 q11 q12 q13 q14 True q16 q17 q18 root (State.touchCheck s off len write) := by
  unfold State.touchCheck
  try dsimp only
  repeat' first
    | (with_reducible first
      | assumption | apply ite_keeps | apply ite_keeps2 | apply ite_keeps1 | apply State.modDdrCh_keeps | apply foldl_keeps
      | apply foldl_keeps2 | apply foldl_keeps1 | apply foldl_keeps22)
    | (intro _ _ _; try dsimp only) | (intro _ _; try dsimp only) | (intro _; try dsimp only)
    | (apply Keeps.mk; dsimp only; with_reducible refine Keeps.upd ?_) | split | dsimp only

theorem State.dramRead_keeps {root : State} {s : State} {c : Option Nat} {addr len : Nat} (h_s : Keeps q1 q2 True q4 q5 q6 q7 True True q10 q11 q12 q13 q14 True q16 q17 q18 root s) : Keeps q1 q2 True q4 q5 q6 q7 True True q10 q11 q12 q13 q14 True q16 q17 q18 root (State.dramRead s c addr len).2 := by
  unfold State.dramRead
  try dsimp only
  repeat' first
    | (with_reducible first
      | assumption | apply ite_keeps | apply ite_keeps2 | apply ite_keeps1 | apply State.bump_keeps
      | apply State.bumpBy_keeps | apply State.dramDecode_keeps | apply State.faultCtx_keeps | apply State.touchCheck_keeps)
    | (intro _ _ _; try dsimp only) | (intro _ _; try dsimp only) | (intro _; try dsimp only)
    | (apply Keeps.mk; dsimp only; with_reducible refine Keeps.upd ?_) | split | dsimp only

theorem State.zeroTouch_keeps {root : State} {s : State} {off len : Nat} (h_s : Keeps True True True q4 q5 q6 q7 q8 q9 q10 q11 q12 q13 q14 True q16 q17 q18 root s) : Keeps True True True q4 q5 q6 q7 q8 q9 q10 q11 q12 q13 q14 True q16 q17 q18 root (State.zeroTouch s off len) := by
  unfold State.zeroTouch
  try dsimp only
  repeat' first
    | (with_reducible first
      | assumption | apply ite_keeps | apply ite_keeps2 | apply ite_keeps1 | apply State.bump_keeps
      | apply State.zeroBytes_keeps | apply foldl_keeps)
    | (intro _ _ _; try dsimp only) | (intro _ _; try dsimp only) | (intro _; try dsimp only)
    | (apply Keeps.mk; dsimp only; with_reducible refine Keeps.upd ?_) | split | dsimp only

theorem State.dramPut_keeps {root : State} {s : State} {c : Option Nat} {addr : Nat} {data : List (BitVec 8)} (h_s : Keeps True True True q4 q5 q6 q7 True True q10 q11 q12 q13 q14 q15 q16 q17 q18 root s) : Keeps True True True q4 q5 q6 q7 True True q10 q11 q12 q13 q14 q15 q16 q17 q18 root (State.dramPut s c addr data) := by
  unfold State.dramPut
  try dsimp only
  repeat' first
    | (with_reducible first
      | assumption | apply ite_keeps | apply ite_keeps2 | apply ite_keeps1 | apply State.dramEvent_keeps
      | apply State.faultCtx_keeps | apply State.putCw_keeps | apply foldl_keeps)
    | (intro _ _ _; try dsimp only) | (intro _ _; try dsimp only) | (intro _; try dsimp only)
    | (apply Keeps.mk; dsimp only; with_reducible refine Keeps.upd ?_) | split | dsimp only

theorem State.wsetTouch_keeps {root : State} {s : State} {off len : Nat} (h_s : Keeps q1 q2 q3 q4 q5 q6 q7 q8 True q10 q11 q12 q13 q14 q15 q16 q17 q18 root s) : Keeps q1 q2 q3 q4 q5 q6 q7 q8 True q10 q11 q12 q13 q14 q15 q16 q17 q18 root (State.wsetTouch s off len) := by
  unfold State.wsetTouch
  try dsimp only
  repeat' first
    | (with_reducible first
      | assumption | apply ite_keeps | apply ite_keeps2 | apply ite_keeps1 | apply foldl_keeps)
    | (intro _ _ _; try dsimp only) | (intro _ _; try dsimp only) | (intro _; try dsimp only)
    | (apply Keeps.mk; dsimp only; with_reducible refine Keeps.upd ?_) | split | dsimp only

theorem State.dramWrite_keeps {root : State} {s : State} {c : Option Nat} {addr : Nat} {data : List (BitVec 8)} (h_s : Keeps True True True q4 q5 q6 q7 True True q10 q11 q12 q13 q14 True q16 q17 q18 root s) : Keeps True True True q4 q5 q6 q7 True True q10 q11 q12 q13 q14 True q16 q17 q18 root (State.dramWrite s c addr data) := by
  unfold State.dramWrite
  try dsimp only
  repeat' first
    | (with_reducible first
      | assumption | apply ite_keeps | apply ite_keeps2 | apply ite_keeps1 | apply State.bump_keeps
      | apply State.bumpBy_keeps | apply State.dramPut_keeps | apply State.faultCtx_keeps | apply State.touchCheck_keeps
      | apply State.zeroTouch_keeps)
    | (apply Keeps.mk; dsimp only; with_reducible refine Keeps.upd ?_) | split | dsimp only

theorem execDramRead_keeps {c : Option Ctx} {addr len : Nat} {strikes : List Strike} {s : State} {fin : State} (h : execDramRead c addr len strikes s = .next fin) : Keeps False True True False False False False True True False False False False False True False False False s fin := by
  have h_s : Keeps False True True False False False False True True False False False False False True False False False s s := Keeps.refl s
  unfold execDramRead at h
  obtain rfl := Host.Outcome.next.inj h
  try dsimp only
  repeat' first
    | (with_reducible first
      | assumption | apply State.dramRead_keeps | apply State.live_keeps | apply State.strike_keeps)
    | (intro _ _ _; try dsimp only) | (intro _ _; try dsimp only) | (intro _; try dsimp only)
    | (apply Keeps.mk; dsimp only; with_reducible refine Keeps.upd ?_) | dsimp only

theorem execDramWrite_keeps {c : Option Ctx} {addr : Nat} {data : List (BitVec 8)} {strikes : List Strike} {s : State} {fin : State} (h : execDramWrite c addr data strikes s = .next fin) : Keeps True True True False False False False True True False False False False False True False False False s fin := by
  have h_s : Keeps True True True False False False False True True False False False False False True False False False s s := Keeps.refl s
  unfold execDramWrite at h
  obtain rfl := Host.Outcome.next.inj h
  try dsimp only
  repeat' first
    | (with_reducible first
      | assumption | apply State.dramWrite_keeps | apply State.live_keeps | apply State.strike_keeps)
    | (intro _ _ _; try dsimp only) | (intro _ _; try dsimp only) | (intro _; try dsimp only) | dsimp only

theorem execCheckBurstWriteback_keeps {ch : Fin 8} {burst t : Nat} {s : State} {fin : State} (h : execCheckBurstWriteback ch burst t s = .next fin) : Keeps False False True False False True False False True False False False False False True False False False s fin := by
  have h_s : Keeps False False True False False True False False True False False False False False True False False False s s := Keeps.refl s
  unfold execCheckBurstWriteback at h
  obtain rfl := Host.Outcome.next.inj h
  try dsimp only
  repeat' first
    | (with_reducible first
      | assumption | apply ite_keeps | apply ite_keeps2 | apply ite_keeps1 | apply State.advance_keeps
      | apply State.live_keeps | apply State.modDdrCh_keeps)
    | (intro _ _ _; try dsimp only) | (intro _ _; try dsimp only) | (intro _; try dsimp only)
    | (apply Keeps.mk; dsimp only; with_reducible refine Keeps.upd ?_) | split | dsimp only

theorem execRefresh_keeps {ch : Fin 8} {bank : Nat} {gap : Bool} {s : State} {fin : State} (h : execRefresh ch bank gap s = .next fin) : Keeps False False False False False False False False False False False False False False True False False False s fin := by
  have h_s : Keeps False False False False False False False False False False False False False False True False False False s s := Keeps.refl s
  unfold execRefresh at h
  obtain rfl := Host.Outcome.next.inj h
  try dsimp only
  repeat' first
    | (with_reducible first
      | assumption | apply ite_keeps | apply ite_keeps2 | apply ite_keeps1 | apply State.live_keeps
      | apply State.modDdrCh_keeps)
    | (intro _ _ _; try dsimp only) | (intro _ _; try dsimp only) | (intro _; try dsimp only)
    | (apply Keeps.mk; dsimp only; with_reducible refine Keeps.upd ?_) | split | dsimp only

theorem State.almanac_keeps {root : State} {s : State} {r : AlmRec} {ok : Bool} (h_s : Keeps q1 q2 True q4 q5 q6 q7 q8 q9 q10 q11 q12 q13 q14 q15 True q17 q18 root s) : Keeps q1 q2 True q4 q5 q6 q7 q8 q9 q10 q11 q12 q13 q14 q15 True q17 q18 root (State.almanac s r ok) := by
  unfold State.almanac
  try dsimp only
  repeat' first
    | (with_reducible first
      | assumption | apply ite_keeps | apply State.raise_keeps)
    | (apply Keeps.mk; dsimp only; with_reducible refine Keeps.upd ?_) | split | dsimp only

theorem State.relevel_keeps {root : State} {s : State} {old : Nat} (h_s : Keeps q1 q2 True q4 q5 q6 q7 q8 q9 q10 q11 q12 q13 q14 q15 True True q18 root s) : Keeps q1 q2 True q4 q5 q6 q7 q8 q9 q10 q11 q12 q13 q14 q15 True True q18 root (State.relevel s old) := by
  unfold State.relevel
  try dsimp only
  repeat' first
    | (with_reducible first
      | assumption | apply ite_keeps | apply ite_keeps2 | apply ite_keeps1 | apply State.almanac_keeps
      | apply State.bump_keeps | apply State.platform_keeps | apply State.raise_keeps)
    | split | dsimp only

theorem execMr4Poll_keeps {ch : Fin 8} {mult : Fin 3} {hot : Bool} {s : State} {fin : State} (h : execMr4Poll ch mult hot s = .next fin) : Keeps False False True False False False False False False False False False False False True True True False s fin := by
  have h_s : Keeps False False True False False False False False False False False False False False True True True False s s := Keeps.refl s
  unfold execMr4Poll at h
  obtain rfl := Host.Outcome.next.inj h
  try dsimp only
  repeat' first
    | (with_reducible first
      | assumption | apply ite_keeps | apply ite_keeps2 | apply ite_keeps1 | apply State.live_keeps
      | apply State.modDdrCh_keeps | apply State.raise_keeps | apply State.relevel_keeps)
    | (intro _ _ _; try dsimp only) | (intro _ _; try dsimp only) | (intro _; try dsimp only)
    | (apply Keeps.mk; dsimp only; with_reducible refine Keeps.upd ?_) | split | dsimp only

theorem execWckTracking_keeps {ch : Fin 8} {s : State} {fin : State} (h : execWckTracking ch s = .next fin) : Keeps False False False False False False False False False False False False False False True False False False s fin := by
  have h_s : Keeps False False False False False False False False False False False False False False True False False False s s := Keeps.refl s
  unfold execWckTracking at h
  obtain rfl := Host.Outcome.next.inj h
  try dsimp only
  repeat' first
    | (with_reducible first
      | assumption | apply State.live_keeps | apply State.modDdrCh_keeps)
    | (intro _ _ _; try dsimp only) | (intro _ _; try dsimp only) | (intro _; try dsimp only)
    | (apply Keeps.mk; dsimp only; with_reducible refine Keeps.upd ?_) | dsimp only

theorem execDramPatrol_keeps {strikes : List Strike} {s : State} {fin : State} (h : execDramPatrol strikes s = .next fin) : Keeps True True True False False False False True False False False False False False True False False False s fin := by
  have h_s : Keeps True True True False False False False True False False False False False False True False False False s s := Keeps.refl s
  unfold execDramPatrol at h
  obtain rfl := Host.Outcome.next.inj h
  try dsimp only
  repeat' first
    | (with_reducible first
      | assumption | apply ite_keeps | apply ite_keeps2 | apply ite_keeps1 | apply State.armRetry_keeps
      | apply State.bump_keeps | apply State.dramEvent_keeps | apply State.live_keeps | apply State.putCw_keeps
      | apply State.strike_keeps | apply State.use_keeps | apply foldl_keeps)
    | (intro _ _ _; try dsimp only) | (intro _ _; try dsimp only) | (intro _; try dsimp only)
    | (apply Keeps.mk; dsimp only; with_reducible refine Keeps.upd ?_) | split | dsimp only

theorem execZeroingPassEnd_keeps  {s : State} {fin : State} (h : execZeroingPassEnd s = .next fin) : Keeps False False False False False False False False False False False False False False True False False False s fin := by
  have h_s : Keeps False False False False False False False False False False False False False False True False False False s s := Keeps.refl s
  unfold execZeroingPassEnd at h
  obtain rfl := Host.Outcome.next.inj h
  try dsimp only
  repeat' first
    | (with_reducible first
      | assumption | apply State.live_keeps)
    | (intro _ _ _; try dsimp only) | (intro _ _; try dsimp only) | (intro _; try dsimp only)
    | (apply Keeps.mk; dsimp only; with_reducible refine Keeps.upd ?_) | dsimp only

theorem State.remapStart_keeps {root : State} {s : State} {page : Nat} (h_s : Keeps q1 q2 True q4 q5 q6 q7 True q9 q10 q11 q12 q13 q14 True q16 q17 q18 root s) : Keeps q1 q2 True q4 q5 q6 q7 True q9 q10 q11 q12 q13 q14 True q16 q17 q18 root (State.remapStart s page) := by
  unfold State.remapStart
  try dsimp only
  repeat' first
    | (with_reducible first
      | assumption | apply ite_keeps | apply ite_keeps2 | apply ite_keeps1 | apply State.bump_keeps
      | apply State.raise_keeps)
    | (apply Keeps.mk; dsimp only; with_reducible refine Keeps.upd ?_) | split | dsimp only

theorem State.copyPage_keeps {root : State} {s : State} {page : Nat} (h_s : Keeps True True q3 q4 q5 q6 q7 q8 q9 q10 q11 q12 q13 q14 q15 q16 q17 q18 root s) : Keeps True True q3 q4 q5 q6 q7 q8 q9 q10 q11 q12 q13 q14 q15 q16 q17 q18 root (State.copyPage s page) := by
  unfold State.copyPage
  try dsimp only
  repeat' first
    | (with_reducible first
      | assumption | apply State.putCw_keeps | apply State.putPoison_keeps | apply foldl_keeps | apply foldl_keeps2
      | apply foldl_keeps1 | apply foldl_keeps22)
    | (intro _ _ _; try dsimp only) | (intro _ _; try dsimp only) | (intro _; try dsimp only)
    | (apply Keeps.mk; dsimp only; with_reducible refine Keeps.upd ?_) | split | dsimp only

theorem execRemapDone_keeps  {s : State} {fin : State} (h : execRemapDone s = .next fin) : Keeps True True True True False False False False False False False False False False True False False False s fin := by
  have h_s : Keeps True True True True False False False False False False False False False False True False False False s s := Keeps.refl s
  unfold execRemapDone at h
  obtain rfl := Host.Outcome.next.inj h
  try dsimp only
  repeat' first
    | (with_reducible first
      | assumption | apply State.copyPage_keeps | apply State.liveApply_keeps | apply State.raise_keeps)
    | (intro _ _ _; try dsimp only) | (intro _ _; try dsimp only) | (intro _; try dsimp only)
    | (apply Keeps.mk; dsimp only; with_reducible refine Keeps.upd ?_) | split | dsimp only

theorem execDdrChQ_keeps {v : View} {x : Word} {s : State} {fin : State} (h : execDdrChQ v x s = .next fin) : Keeps False False True False False False False False False False False False False False True False False False s fin := by
  have h_s : Keeps False False True False False False False False False False False False False False True False False False s s := Keeps.refl s
  unfold execDdrChQ at h
  obtain rfl := Host.Outcome.next.inj h
  try dsimp only
  repeat' first
    | (with_reducible first
      | assumption | apply State.commanded_keeps | apply State.live_keeps)
    | (intro _ _ _; try dsimp only) | (intro _ _; try dsimp only) | (intro _; try dsimp only)
    | (apply Keeps.mk; dsimp only; with_reducible refine Keeps.upd ?_) | dsimp only

end Sys2Proof.Machine
end

