-- ==== Sys2Proof/Laws/KeepsSundialOps.lean ====
section
/-!
SUPPORT. What the definitions of Machine/SundialOps.lean keep, each by the definitions it is made of.
-/

namespace Sys2Proof.Machine

open Sys2Proof

set_option Elab.async false

set_option linter.unusedVariables false
set_option linter.unreachableTactic false
set_option linter.unusedTactic false



variable {q1 q2 q3 q4 q5 q6 q7 q8 q9 q10 q11 q12 q13 q14 q15 q16 q17 q18 : Prop}

theorem State.setServoState_keeps {root : State} {s : State} {d : Bool} {st : ServoState} (h_s : Keeps q1 q2 True q4 q5 True q7 q8 q9 q10 q11 q12 q13 q14 q15 q16 q17 q18 root s) : Keeps q1 q2 True q4 q5 True q7 q8 q9 q10 q11 q12 q13 q14 q15 q16 q17 q18 root (State.setServoState s d st) := by
  unfold State.setServoState
  try dsimp only
  repeat' first
    | (with_reducible first
      | assumption | apply ite_keeps | apply ite_keeps2 | apply ite_keeps1 | apply State.post_keeps)
    | (apply Keeps.mk; dsimp only; (try simp only [Sundial.setServo_ref]); with_reducible refine Keeps.upd ?_) | split | dsimp only

theorem State.passHooks_keeps {root : State} {s : State} {lo hi : Nat} (h_s : Keeps q1 q2 True True q5 q6 q7 q8 q9 q10 q11 q12 q13 q14 q15 q16 q17 q18 root s) : Keeps q1 q2 True True q5 q6 q7 q8 q9 q10 q11 q12 q13 q14 q15 q16 q17 q18 root (State.passHooks s lo hi) := by
  unfold State.passHooks
  try dsimp only
  repeat' first
    | (with_reducible first
      | assumption | apply ite_keeps | apply ite_keeps2 | apply ite_keeps1 | apply State.bumpBy_keeps
      | apply State.raise_keeps | apply foldl_keeps | apply foldl_keeps2 | apply foldl_keeps1 | apply foldl_keeps22)
    | (intro _ _ _; try dsimp only) | (intro _ _; try dsimp only) | (intro _; try dsimp only)
    | (apply Keeps.mk; dsimp only; with_reducible refine Keeps.upd ?_) | split | dsimp only

theorem State.switchTo_keeps {root : State} {s : State} {d : Bool} (h_s : Keeps q1 q2 True True q5 True q7 q8 q9 q10 q11 q12 q13 q14 q15 q16 q17 q18 root s) : Keeps q1 q2 True True q5 True q7 q8 q9 q10 q11 q12 q13 q14 q15 q16 q17 q18 root (State.switchTo s d) := by
  unfold State.switchTo
  try dsimp only
  repeat' first
    | (with_reducible first
      | assumption | apply ite_keeps | apply ite_keeps2 | apply ite_keeps1 | apply State.bump_keeps
      | apply State.passHooks_keeps | apply State.post_keeps)
    | (apply Keeps.mk; dsimp only; with_reducible refine Keeps.upd ?_) | split | dsimp only

theorem State.autoSwitch_keeps {root : State} {s : State} {d : Bool} (h_s : Keeps q1 q2 True True q5 True q7 q8 q9 q10 q11 q12 q13 q14 q15 q16 q17 q18 root s) : Keeps q1 q2 True True q5 True q7 q8 q9 q10 q11 q12 q13 q14 q15 q16 q17 q18 root (State.autoSwitch s d) := by
  unfold State.autoSwitch
  try dsimp only
  repeat' first
    | (with_reducible first
      | assumption | apply ite_keeps | apply State.switchTo_keeps)
    | split | dsimp only

theorem State.enterHoldover_keeps {root : State} {s : State} {d : Bool} (h_s : Keeps q1 q2 True True q5 True q7 q8 q9 q10 q11 q12 q13 q14 q15 q16 q17 q18 root s) : Keeps q1 q2 True True q5 True q7 q8 q9 q10 q11 q12 q13 q14 q15 q16 q17 q18 root (State.enterHoldover s d) := by
  unfold State.enterHoldover
  try dsimp only
  repeat' first
    | (with_reducible first
      | assumption | apply ite_keeps | apply ite_keeps2 | apply ite_keeps1 | apply State.autoSwitch_keeps
      | apply State.setServoState_keeps)
    | (apply Keeps.mk; dsimp only; (try simp only [Sundial.setServo_ref]); with_reducible refine Keeps.upd ?_) | split | dsimp only

theorem State.sourceOff_keeps {root : State} {s : State} {d : Bool} (h_s : Keeps q1 q2 True True q5 True q7 q8 q9 q10 q11 q12 q13 q14 q15 q16 q17 q18 root s) : Keeps q1 q2 True True q5 True q7 q8 q9 q10 q11 q12 q13 q14 q15 q16 q17 q18 root (State.sourceOff s d) := by
  unfold State.sourceOff
  try dsimp only
  repeat' first
    | (with_reducible first
      | assumption | apply ite_keeps | apply ite_keeps2 | apply ite_keeps1 | apply State.autoSwitch_keeps
      | apply State.setServoState_keeps)
    | (apply Keeps.mk; dsimp only; (try simp only [Sundial.setServo_ref]); with_reducible refine Keeps.upd ?_) | split | dsimp only

theorem State.select_keeps {root : State} {s : State} {d : Bool} (h_s : Keeps q1 q2 True True q5 True q7 q8 q9 q10 q11 q12 q13 q14 q15 q16 q17 q18 root s) : Keeps q1 q2 True True q5 True q7 q8 q9 q10 q11 q12 q13 q14 q15 q16 q17 q18 root (State.select s d) := by
  unfold State.select
  try dsimp only
  repeat' first
    | (with_reducible first
      | assumption | apply State.switchTo_keeps)
    | (apply Keeps.mk; dsimp only; with_reducible refine Keeps.upd ?_) | dsimp only

theorem State.gridStop_keeps {root : State} {s : State} (h_s : Keeps q1 q2 True True q5 True q7 q8 q9 q10 q11 q12 q13 q14 q15 q16 q17 q18 root s) : Keeps q1 q2 True True q5 True q7 q8 q9 q10 q11 q12 q13 q14 q15 q16 q17 q18 root (State.gridStop s) := by
  unfold State.gridStop
  try dsimp only
  repeat' first
    | (with_reducible first
      | assumption | apply State.passHooks_keeps)
    | (apply Keeps.mk; dsimp only; with_reducible refine Keeps.upd ?_) | dsimp only

theorem State.stepClock_keeps {root : State} {s : State} {d : Bool} {off : Int} (h_s : Keeps q1 q2 True True q5 True q7 q8 q9 q10 q11 q12 q13 q14 q15 q16 q17 q18 root s) : Keeps q1 q2 True True q5 True q7 q8 q9 q10 q11 q12 q13 q14 q15 q16 q17 q18 root (State.stepClock s d off) := by
  unfold State.stepClock
  try dsimp only
  repeat' first
    | (with_reducible first
      | assumption | apply ite_keeps | apply ite_keeps2 | apply ite_keeps1 | apply State.passHooks_keeps)
    | (apply Keeps.mk; dsimp only; (try simp only [Sundial.setServo_ref]); with_reducible refine Keeps.upd ?_) | split | dsimp only

theorem State.steer_keeps {root : State} {s : State} {d : Bool} (h_s : Keeps q1 q2 q3 q4 q5 True q7 q8 q9 q10 q11 q12 q13 q14 q15 q16 q17 q18 root s) : Keeps q1 q2 q3 q4 q5 True q7 q8 q9 q10 q11 q12 q13 q14 q15 q16 q17 q18 root (State.steer s d) := by
  unfold State.steer
  try dsimp only
  repeat' first
    | (with_reducible first
      | assumption | apply ite_keeps | apply ite_keeps2 | apply ite_keeps1)
    | (apply Keeps.mk; dsimp only; (try simp only [Sundial.setServo_ref]); with_reducible refine Keeps.upd ?_) | split | dsimp only

theorem State.countGood_keeps {root : State} {s : State} {d : Bool} (h_s : Keeps q1 q2 True q4 q5 True q7 q8 q9 q10 q11 q12 q13 q14 q15 q16 q17 q18 root s) : Keeps q1 q2 True q4 q5 True q7 q8 q9 q10 q11 q12 q13 q14 q15 q16 q17 q18 root (State.countGood s d) := by
  unfold State.countGood
  try dsimp only
  repeat' first
    | (with_reducible first
      | assumption | apply ite_keeps | apply ite_keeps2 | apply ite_keeps1 | apply State.setServoState_keeps
      | apply State.tick_keeps)
    | (apply Keeps.mk; dsimp only; (try simp only [Sundial.setServo_ref]); with_reducible refine Keeps.upd ?_) | split | dsimp only

theorem State.acceptSample_keeps {root : State} {s : State} {d : Bool} {off : Int} (h_s : Keeps q1 q2 True True q5 True q7 q8 q9 q10 q11 q12 q13 q14 q15 q16 q17 q18 root s) : Keeps q1 q2 True True q5 True q7 q8 q9 q10 q11 q12 q13 q14 q15 q16 q17 q18 root (State.acceptSample s d off) := by
  unfold State.acceptSample
  try dsimp only
  repeat' first
    | (with_reducible first
      | assumption | apply ite_keeps | apply ite_keeps2 | apply ite_keeps1 | apply State.bump_keeps
      | apply State.countGood_keeps | apply State.setServoState_keeps | apply State.steer_keeps
      | apply State.stepClock_keeps)
    | (apply Keeps.mk; dsimp only; (try simp only [Sundial.setServo_ref]); with_reducible refine Keeps.upd ?_) | split | dsimp only

theorem State.setCal_keeps {root : State} {s : State} {port : Nat} {on : Bool} (h_s : Keeps q1 q2 True q4 q5 True q7 q8 q9 q10 q11 q12 q13 q14 q15 q16 q17 q18 root s) : Keeps q1 q2 True q4 q5 True q7 q8 q9 q10 q11 q12 q13 q14 q15 q16 q17 q18 root (State.setCal s port on) := by
  unfold State.setCal
  try dsimp only
  repeat' first
    | (with_reducible first
      | assumption | apply ite_keeps | apply State.post_keeps)
    | (apply Keeps.mk; dsimp only; with_reducible refine Keeps.upd ?_) | split | dsimp only

theorem State.measureRef_keeps {root : State} {s : State} {hz : Nat} {hand : Bool} (h_s : Keeps q1 q2 q3 q4 q5 True q7 q8 q9 q10 q11 q12 q13 q14 q15 q16 q17 q18 root s) : Keeps q1 q2 q3 q4 q5 True q7 q8 q9 q10 q11 q12 q13 q14 q15 q16 q17 q18 root (State.measureRef s hz hand) := by
  unfold State.measureRef
  try dsimp only
  repeat' first
    | (with_reducible first
      | assumption)
    | (apply Keeps.mk; dsimp only; with_reducible refine Keeps.upd ?_) | dsimp only

theorem execRefclkHandover_keeps {hz t : Nat} {s : State} {fin : State} (h : execRefclkHandover hz t s = .next fin) : Keeps False False True True False True False False True False False False False False False False False False s fin := by
  have h_s : Keeps False False True True False True False False True False False False False False False False False False s s := Keeps.refl s
  unfold execRefclkHandover at h
  obtain rfl := Host.Outcome.next.inj h
  try dsimp only
  repeat' first
    | (with_reducible first
      | assumption | apply State.advance_keeps | apply State.liveApply_keeps | apply State.measureRef_keeps)
    | (intro _ _ _; try dsimp only) | (intro _ _; try dsimp only) | (intro _; try dsimp only) | dsimp only

theorem execRefLost_keeps {t : Nat} {s : State} {fin : State} (h : execRefLost t s = .next fin) : Keeps False False True False False True False False True False False False False False False False False False s fin := by
  have h_s : Keeps False False True False False True False False True False False False False False False False False False s s := Keeps.refl s
  unfold execRefLost at h
  obtain rfl := Host.Outcome.next.inj h
  try dsimp only
  repeat' first
    | (with_reducible first
      | assumption | apply ite_keeps | apply ite_keeps2 | apply ite_keeps1 | apply State.advance_keeps
      | apply State.live_keeps | apply State.post_keeps)
    | (intro _ _ _; try dsimp only) | (intro _ _; try dsimp only) | (intro _; try dsimp only)
    | (apply Keeps.mk; dsimp only; with_reducible refine Keeps.upd ?_) | split | dsimp only

theorem execRefReturn_keeps {hz t : Nat} {s : State} {fin : State} (h : execRefReturn hz t s = .next fin) : Keeps False False True False False True False False True False False False False False False False False False s fin := by
  have h_s : Keeps False False True False False True False False True False False False False False False False False False s s := Keeps.refl s
  unfold execRefReturn at h
  obtain rfl := Host.Outcome.next.inj h
  try dsimp only
  repeat' first
    | (with_reducible first
      | assumption | apply State.advance_keeps | apply State.live_keeps | apply State.measureRef_keeps)
    | (intro _ _ _; try dsimp only) | (intro _ _; try dsimp only) | (intro _; try dsimp only) | dsimp only

theorem execSampleIn_keeps {v : View} {x : Word} {uncal : Bool} {t : Nat} {s : State} {fin : State} (h : execSampleIn v x uncal t s = .next fin) : Keeps False False True True False True False False True False False False False False False False False False s fin := by
  have h_s : Keeps False False True True False True False False True False False False False False False False False False s s := Keeps.refl s
  unfold execSampleIn at h
  obtain rfl := Host.Outcome.next.inj h
  try dsimp only
  repeat' first
    | (with_reducible first
      | assumption | apply ite_keeps | apply ite_keeps2 | apply ite_keeps1 | apply State.acceptSample_keeps
      | apply State.advance_keeps | apply State.bump_keeps | apply State.dropped_keeps | apply State.live_keeps)
    | (intro _ _ _; try dsimp only) | (intro _ _; try dsimp only) | (intro _; try dsimp only) | split | dsimp only

theorem execServoSampleTimeout_keeps {dom : Bool} {t : Nat} {s : State} {fin : State} (h : execServoSampleTimeout dom t s = .next fin) : Keeps False False True True False True False False True False False False False False False False False False s fin := by
  have h_s : Keeps False False True True False True False False True False False False False False False False False False s s := Keeps.refl s
  unfold execServoSampleTimeout at h
  obtain rfl := Host.Outcome.next.inj h
  try dsimp only
  repeat' first
    | (with_reducible first
      | assumption | apply ite_keeps | apply ite_keeps2 | apply ite_keeps1 | apply State.advance_keeps
      | apply State.enterHoldover_keeps | apply State.live_keeps)
    | (intro _ _ _; try dsimp only) | (intro _ _; try dsimp only) | (intro _; try dsimp only) | split | dsimp only

theorem execParentLost_keeps {dom : Bool} {t : Nat} {s : State} {fin : State} (h : execParentLost dom t s = .next fin) : Keeps False False True True False True False False True False False False False False False False False False s fin := by
  have h_s : Keeps False False True True False True False False True False False False False False False False False False s s := Keeps.refl s
  unfold execParentLost at h
  obtain rfl := Host.Outcome.next.inj h
  try dsimp only
  repeat' first
    | (with_reducible first
      | assumption | apply State.advance_keeps | apply State.enterHoldover_keeps | apply State.live_keeps)
    | (intro _ _ _; try dsimp only) | (intro _ _; try dsimp only) | (intro _; try dsimp only) | dsimp only

theorem execHoldExpired_keeps {dom : Bool} {t : Nat} {s : State} {fin : State} (h : execHoldExpired dom t s = .next fin) : Keeps False False True True False True False False True False False False False False False False False False s fin := by
  have h_s : Keeps False False True True False True False False True False False False False False False False False False s s := Keeps.refl s
  unfold execHoldExpired at h
  obtain rfl := Host.Outcome.next.inj h
  try dsimp only
  repeat' first
    | (with_reducible first
      | assumption | apply ite_keeps | apply ite_keeps2 | apply ite_keeps1 | apply State.advance_keeps
      | apply State.autoSwitch_keeps | apply State.live_keeps | apply State.post_keeps | apply State.setServoState_keeps)
    | (intro _ _ _; try dsimp only) | (intro _ _; try dsimp only) | (intro _; try dsimp only) | split | dsimp only

theorem execSwitchDone_keeps {t : Nat} {s : State} {fin : State} (h : execSwitchDone t s = .next fin) : Keeps False False True False False True False False True False False False False False False False False False s fin := by
  have h_s : Keeps False False True False False True False False True False False False False False False False False False s s := Keeps.refl s
  unfold execSwitchDone at h
  obtain rfl := Host.Outcome.next.inj h
  try dsimp only
  repeat' first
    | (with_reducible first
      | assumption | apply ite_keeps | apply ite_keeps2 | apply ite_keeps1 | apply State.advance_keeps
      | apply State.live_keeps | apply State.post_keeps)
    | (intro _ _ _; try dsimp only) | (intro _ _; try dsimp only) | (intro _; try dsimp only)
    | (apply Keeps.mk; dsimp only; with_reducible refine Keeps.upd ?_) | split | dsimp only

theorem execCalibrationDone_keeps {port : Fin 16} {s : State} {fin : State} (h : execCalibrationDone port s = .next fin) : Keeps False False True False False True False False False False False False False False False False False False s fin := by
  have h_s : Keeps False False True False False True False False False False False False False False False False False False s s := Keeps.refl s
  unfold execCalibrationDone at h
  obtain rfl := Host.Outcome.next.inj h
  try dsimp only
  repeat' first
    | (with_reducible first
      | assumption | apply State.live_keeps | apply State.setCal_keeps)
    | (intro _ _ _; try dsimp only) | (intro _ _; try dsimp only) | (intro _; try dsimp only) | dsimp only

theorem execGridBoundary_keeps {mu : Fin 4} {t : Nat} {s : State} {fin : State} (h : execGridBoundary mu t s = .next fin) : Keeps False False True False False True False False True False False False False False False False False False s fin := by
  have h_s : Keeps False False True False False True False False True False False False False False False False False False s s := Keeps.refl s
  unfold execGridBoundary at h
  obtain rfl := Host.Outcome.next.inj h
  apply State.live_keeps h_s
  intro x hx
  extract_lets s1 n l
  have h1 := State.advance_keeps (t := t) hx
  apply ite_keeps
  · apply Keeps.mk
    exact Keeps.upd h1
  · exact h1

theorem State.ppsDrive_keeps {root : State} {s : State} {on : Bool} (h_s : Keeps q1 q2 True q4 q5 True q7 q8 q9 q10 q11 q12 q13 q14 q15 q16 q17 q18 root s) : Keeps q1 q2 True q4 q5 True q7 q8 q9 q10 q11 q12 q13 q14 q15 q16 q17 q18 root (State.ppsDrive s on) := by
  unfold State.ppsDrive
  try dsimp only
  repeat' first
    | (with_reducible first
      | assumption | apply State.emit_keeps)
    | (apply Keeps.mk; dsimp only; with_reducible refine Keeps.upd ?_) | dsimp only

theorem State.ppsFall_keeps {root : State} {s : State} (h_s : Keeps q1 q2 True q4 q5 True q7 q8 q9 q10 q11 q12 q13 q14 q15 q16 q17 q18 root s) : Keeps q1 q2 True q4 q5 True q7 q8 q9 q10 q11 q12 q13 q14 q15 q16 q17 q18 root (State.ppsFall s) := by
  unfold State.ppsFall
  try dsimp only
  repeat' first
    | (with_reducible first
      | assumption | apply ite_keeps | apply State.ppsDrive_keeps)
    | split | dsimp only

theorem State.applyPps_keeps {root : State} {s : State} (h_s : Keeps q1 q2 True q4 q5 True q7 q8 q9 q10 q11 q12 q13 q14 q15 q16 q17 q18 root s) : Keeps q1 q2 True q4 q5 True q7 q8 q9 q10 q11 q12 q13 q14 q15 q16 q17 q18 root (State.applyPps s) := by
  unfold State.applyPps
  try dsimp only
  repeat' first
    | (with_reducible first
      | assumption | apply ite_keeps | apply State.ppsDrive_keeps)
    | split | dsimp only

theorem execPpsOutEdge_keeps {t : Nat} {s : State} {fin : State} (h : execPpsOutEdge t s = .next fin) : Keeps False False True False False True False False True False False False False False False False False False s fin := by
  have h_s : Keeps False False True False False True False False True False False False False False False False False False s s := Keeps.refl s
  unfold execPpsOutEdge at h
  obtain rfl := Host.Outcome.next.inj h
  apply State.live_keeps h_s
  intro x hx
  extract_lets s1 ph
  have h1 := State.ppsFall_keeps (State.advance_keeps (t := t) hx)
  apply ite_keeps
  · apply State.ppsDrive_keeps
    have key : ∀ w : Nat, Keeps _ _ _ _ _ _ _ _ _ _ _ _ _ _ _ _ _ _ s
        { s1 with sdl := { s1.sdl with ppsEnd := w } } := fun w => ⟨Keeps.upd h1⟩
    exact key _
  · exact h1

theorem State.ppsSample_keeps {root : State} {s : State} {d : Bool} (h_s : Keeps q1 q2 True True q5 True q7 q8 q9 q10 q11 q12 q13 q14 q15 q16 q17 q18 root s) : Keeps q1 q2 True True q5 True q7 q8 q9 q10 q11 q12 q13 q14 q15 q16 q17 q18 root (State.ppsSample s d) := by
  unfold State.ppsSample
  try dsimp only
  repeat' first
    | (with_reducible first
      | assumption | apply ite_keeps | apply ite_keeps2 | apply ite_keeps1 | apply State.acceptSample_keeps
      | apply State.bump_keeps)
    | (apply Keeps.mk; dsimp only; (try simp only [Sundial.setServo_ref]); with_reducible refine Keeps.upd ?_) | split | dsimp only

theorem execPpsInEdge_keeps {t : Nat} {s : State} {fin : State} (h : execPpsInEdge t s = .next fin) : Keeps False False True True False True False False True False False False False False False False False False s fin := by
  have h_s : Keeps False False True True False True False False True False False False False False False False False False s s := Keeps.refl s
  unfold execPpsInEdge at h
  obtain rfl := Host.Outcome.next.inj h
  try dsimp only
  repeat' first
    | (with_reducible first
      | assumption | apply State.advance_keeps | apply State.bump_keeps | apply State.live_keeps
      | apply State.ppsSample_keeps | apply State.record_keeps)
    | (intro _ _ _; try dsimp only) | (intro _ _; try dsimp only) | (intro _; try dsimp only)
    | (apply Keeps.mk; dsimp only; with_reducible refine Keeps.upd ?_) | dsimp only

theorem State.synceDrive_keeps {root : State} {s : State} {k : Nat} (h_s : Keeps q1 q2 True q4 q5 True q7 q8 q9 q10 q11 q12 q13 q14 q15 q16 q17 q18 root s) : Keeps q1 q2 True q4 q5 True q7 q8 q9 q10 q11 q12 q13 q14 q15 q16 q17 q18 root (State.synceDrive s k) := by
  unfold State.synceDrive
  try dsimp only
  repeat' first
    | (with_reducible first
      | assumption | apply ite_keeps | apply ite_keeps2 | apply ite_keeps1 | apply State.emit_keeps)
    | (apply Keeps.mk; dsimp only; with_reducible refine Keeps.upd ?_) | split | dsimp only

theorem State.laneLock_keeps {root : State} {s : State} {lane : Nat} {lock : Bool} (h_s : Keeps q1 q2 True q4 q5 True q7 q8 q9 q10 q11 q12 q13 q14 q15 q16 q17 q18 root s) : Keeps q1 q2 True q4 q5 True q7 q8 q9 q10 q11 q12 q13 q14 q15 q16 q17 q18 root (State.laneLock s lane lock) := by
  unfold State.laneLock
  try dsimp only
  repeat' first
    | (with_reducible first
      | assumption | apply ite_keeps | apply ite_keeps2 | apply ite_keeps1 | apply State.synceDrive_keeps
      | apply foldl_keeps)
    | (intro _ _ _; try dsimp only) | (intro _ _; try dsimp only) | (intro _; try dsimp only)
    | (apply Keeps.mk; dsimp only; with_reducible refine Keeps.upd ?_) | split | dsimp only

theorem execSynceLockLoss_keeps {lane : Fin 18} {s : State} {fin : State} (h : execSynceLockLoss lane s = .next fin) : Keeps False False True False False True False False False False False False False False False False False False s fin := by
  have h_s : Keeps False False True False False True False False False False False False False False False False False False s s := Keeps.refl s
  unfold execSynceLockLoss at h
  obtain rfl := Host.Outcome.next.inj h
  try dsimp only
  repeat' first
    | (with_reducible first
      | assumption | apply State.laneLock_keeps | apply State.live_keeps)
    | (intro _ _ _; try dsimp only) | (intro _ _; try dsimp only) | (intro _; try dsimp only) | dsimp only

end Sys2Proof.Machine
end

