-- ==== Sys2Proof/Laws/KeepsAugment.lean ====
section
/-!
SUPPORT. What the definitions of Machine/Augment.lean keep, each by the definitions it is made of.
-/

namespace Sys2Proof.Machine

open Sys2Proof

set_option Elab.async false

set_option linter.unusedVariables false
set_option linter.unreachableTactic false
set_option linter.unusedTactic false



variable {q1 q2 q3 q4 q5 q6 q7 q8 q9 q10 q11 q12 q13 q14 q15 q16 q17 q18 : Prop}

theorem State.augment_keeps {root : State} {s : State} {c n pos len : Nat} (h_s : Keeps q1 q2 True q4 q5 q6 q7 True True q10 q11 q12 q13 q14 True q16 q17 q18 root s) : Keeps q1 q2 True q4 q5 q6 q7 True True q10 q11 q12 q13 q14 True q16 q17 q18 root (State.augment s c n pos len).2 := by
  unfold State.augment
  try dsimp only
  repeat' first
    | (with_reducible first
      | assumption | apply ite_keeps | apply ite_keeps2 | apply ite_keeps1 | apply State.dramRead_keeps
      | apply State.faultCtx_keeps | apply State.plan_keeps)
    | (intro _ _ _; try dsimp only) | (intro _ _; try dsimp only) | (intro _; try dsimp only)
    | (apply Keeps.mk; dsimp only; with_reducible refine Keeps.upd ?_) | split | dsimp only

theorem State.portRead_keeps {root : State} {s : State} {c f port pos len : Nat} {arrived : Option (List (BitVec 8))} (h_s : Keeps q1 q2 True q4 q5 q6 q7 True True q10 q11 q12 q13 q14 True q16 q17 q18 root s) : Keeps q1 q2 True q4 q5 q6 q7 True True q10 q11 q12 q13 q14 True q16 q17 q18 root (State.portRead s c f port pos len arrived).2 := by
  unfold State.portRead
  try dsimp only
  repeat' first
    | (with_reducible first
      | assumption | apply ite_keeps | apply ite_keeps2 | apply ite_keeps1 | apply State.augment_keeps)
    | split | dsimp only

end Sys2Proof.Machine
end

