-- ==== Sys2Proof/Laws/KeepsHostOps.lean ====
section
/-!
SUPPORT. What the definitions of Machine/HostOps.lean keep, each by the definitions it is made of.
-/

namespace Sys2Proof.Machine

open Sys2Proof

set_option Elab.async false

set_option linter.unusedVariables false
set_option linter.unreachableTactic false
set_option linter.unusedTactic false



variable {q1 q2 q3 q4 q5 q6 q7 q8 q9 q10 q11 q12 q13 q14 q15 q16 q17 q18 : Prop}

theorem State.modFn_keeps {root : State} {s : State} {f : Nat} {g : CopySt → CopySt} (h_s : Keeps q1 q2 q3 q4 q5 q6 q7 q8 q9 q10 q11 True q13 q14 q15 q16 q17 q18 root s) : Keeps q1 q2 q3 q4 q5 q6 q7 q8 q9 q10 q11 True q13 q14 q15 q16 q17 q18 root (State.modFn s f g) := by
  unfold State.modFn
  try dsimp only
  repeat' first
    | (with_reducible first
      | assumption)
    | (apply Keeps.mk; dsimp only; with_reducible refine Keeps.upd ?_) | dsimp only

theorem State.hostWriteAt_keeps {root : State} {s : State} {c addr : Nat} {xlat : Option Nat} {bytes : List (BitVec 8)} (h_s : Keeps q1 q2 True q4 q5 q6 q7 q8 True q10 q11 q12 q13 q14 q15 q16 q17 q18 root s) : Keeps q1 q2 True q4 q5 q6 q7 q8 True q10 q11 q12 q13 q14 q15 q16 q17 q18 root (State.hostWriteAt s c addr xlat bytes) := by
  unfold State.hostWriteAt
  try dsimp only
  repeat' first
    | (with_reducible first
      | assumption | apply ite_keeps | apply State.emit_keeps | apply State.faultCtx_keeps | apply State.hostWrite_keeps)
    | (apply Keeps.mk; dsimp only; with_reducible refine Keeps.upd ?_) | split | dsimp only

theorem State.hostWrite_keeps {root : State} {s : State} {c addr : Nat} {bytes : List (BitVec 8)} (h_s : Keeps q1 q2 True q4 q5 q6 q7 q8 True q10 q11 q12 q13 q14 q15 q16 q17 q18 root s) : Keeps q1 q2 True q4 q5 q6 q7 q8 True q10 q11 q12 q13 q14 q15 q16 q17 q18 root (State.hostWrite s c addr bytes) := by
  unfold State.hostWrite
  try dsimp only
  repeat' first
    | (with_reducible first
      | assumption | apply State.hostWriteAt_keeps)
    | dsimp only

theorem State.pushHarvest_keeps {root : State} {s : State} {c x : Nat} (h_s : Keeps q1 q2 True q4 q5 q6 q7 q8 True q10 q11 q12 q13 q14 q15 q16 q17 q18 root s) : Keeps q1 q2 True q4 q5 q6 q7 q8 True q10 q11 q12 q13 q14 q15 q16 q17 q18 root (State.pushHarvest s c x) := by
  unfold State.pushHarvest
  try dsimp only
  repeat' first
    | (with_reducible first
      | assumption | apply ite_keeps | apply ite_keeps2 | apply ite_keeps1 | apply State.bump_keeps
      | apply State.modCtx_keeps | apply State.raise_keeps)
    | (intro _ _ _; try dsimp only) | (intro _ _; try dsimp only) | (intro _; try dsimp only)
    | (apply Keeps.mk; dsimp only; with_reducible refine Keeps.upd ?_) | split | dsimp only

theorem State.probe_keeps {root : State} {s : State} {c x : Nat} (h_s : Keeps q1 q2 True q4 q5 q6 q7 q8 True q10 q11 q12 q13 q14 q15 q16 q17 q18 root s) : Keeps q1 q2 True q4 q5 q6 q7 q8 True q10 q11 q12 q13 q14 q15 q16 q17 q18 root (State.probe s c x) := by
  unfold State.probe
  try dsimp only
  repeat' first
    | (with_reducible first
      | assumption | apply ite_keeps | apply ite_keeps2 | apply ite_keeps1 | apply State.bump_keeps
      | apply State.modCtx_keeps | apply State.raise_keeps)
    | (intro _ _ _; try dsimp only) | (intro _ _; try dsimp only) | (intro _; try dsimp only)
    | (apply Keeps.mk; dsimp only; with_reducible refine Keeps.upd ?_) | split | dsimp only

theorem State.writeHarvest_keeps {root : State} {s : State} {c : Nat} (h_s : Keeps q1 q2 True q4 q5 q6 q7 q8 True q10 q11 q12 q13 q14 q15 q16 q17 q18 root s) : Keeps q1 q2 True q4 q5 q6 q7 q8 True q10 q11 q12 q13 q14 q15 q16 q17 q18 root (State.writeHarvest s c) := by
  unfold State.writeHarvest
  try dsimp only
  repeat' first
    | (with_reducible first
      | assumption | apply ite_keeps | apply ite_keeps2 | apply ite_keeps1 | apply State.bump_keeps | apply State.emit_keeps
      | apply State.hostWrite_keeps | apply State.modCtx_keeps | apply State.probe_keeps)
    | (intro _ _ _; try dsimp only) | (intro _ _; try dsimp only) | (intro _; try dsimp only)
    | (apply Keeps.mk; dsimp only; with_reducible refine Keeps.upd ?_) | split | dsimp only

theorem execHarvestWrite_keeps {c : Ctx} {s : State} {fin : State} (h : execHarvestWrite c s = .next fin) : Keeps False False True False False False False False True False False False False False False False False False s fin := by
  have h_s : Keeps False False True False False False False False True False False False False False False False False False s s := Keeps.refl s
  unfold execHarvestWrite at h
  obtain rfl := Host.Outcome.next.inj h
  try dsimp only
  repeat' first
    | (with_reducible first
      | assumption | apply State.live_keeps | apply State.writeHarvest_keeps)
    | (intro _ _ _; try dsimp only) | (intro _ _; try dsimp only) | (intro _; try dsimp only) | dsimp only

theorem execConsPoll_keeps {c : Ctx} {cons : Word} {s : State} {fin : State} (h : execConsPoll c cons s = .next fin) : Keeps False False False False False False False False True False False False False False False False False False s fin := by
  have h_s : Keeps False False False False False False False False True False False False False False False False False False s s := Keeps.refl s
  unfold execConsPoll at h
  obtain rfl := Host.Outcome.next.inj h
  try dsimp only
  repeat' first
    | (with_reducible first
      | assumption | apply State.live_keeps | apply State.modCtx_keeps)
    | (intro _ _ _; try dsimp only) | (intro _ _; try dsimp only) | (intro _; try dsimp only)
    | (apply Keeps.mk; dsimp only; with_reducible refine Keeps.upd ?_) | dsimp only

theorem execCopyStart_keeps {v : View} {x : Word} {t : Nat} {s : State} {fin : State} (h : execCopyStart v x t s = .next fin) : Keeps False False True False False True False False True False False True False False False False False False s fin := by
  have h_s : Keeps False False True False False True False False True False False True False False False False False False s s := Keeps.refl s
  unfold execCopyStart at h
  obtain rfl := Host.Outcome.next.inj h
  try dsimp only
  repeat' first
    | (with_reducible first
      | assumption | apply ite_keeps | apply ite_keeps2 | apply ite_keeps1 | apply State.advance_keeps
      | apply State.live_keeps | apply State.modFn_keeps)
    | (intro _ _ _; try dsimp only) | (intro _ _; try dsimp only) | (intro _; try dsimp only)
    | (apply Keeps.mk; dsimp only; with_reducible refine Keeps.upd ?_) | split | dsimp only

theorem State.copyEnds_keeps {root : State} {s : State} {f : Nat} {data : Option (List (BitVec 8))} (h_s : Keeps True True True q4 q5 q6 q7 True True q10 q11 True q13 q14 True q16 q17 q18 root s) : Keeps True True True q4 q5 q6 q7 True True q10 q11 True q13 q14 True q16 q17 q18 root (State.copyEnds s f data) := by
  unfold State.copyEnds
  try dsimp only
  repeat' first
    | (with_reducible first
      | assumption | apply ite_keeps | apply ite_keeps2 | apply ite_keeps1 | apply State.dramWrite_keeps
      | apply State.emit_keeps | apply State.hostWrite_keeps | apply State.modFn_keeps | apply State.raise_keeps
      | apply State.wsetTouch_keeps)
    | (intro _ _ _; try dsimp only) | (intro _ _; try dsimp only) | (intro _; try dsimp only)
    | (apply Keeps.mk; dsimp only; with_reducible refine Keeps.upd ?_) | split | dsimp only

theorem execCopyDone_keeps {fn : Fin 9} {hostData : Option (List (BitVec 8))} {t : Nat} {s : State} {fin : State} (h : execCopyDone fn hostData t s = .next fin) : Keeps True True True False False True False True True False False True False False True False False False s fin := by
  have h_s : Keeps True True True False False True False True True False False True False False True False False False s s := Keeps.refl s
  unfold execCopyDone at h
  obtain rfl := Host.Outcome.next.inj h
  try dsimp only
  repeat' first
    | (with_reducible first
      | assumption | apply ite_keeps | apply ite_keeps2 | apply ite_keeps1 | apply State.advance_keeps
      | apply State.copyEnds_keeps | apply State.dramRead_keeps | apply State.live_keeps)
    | (intro _ _ _; try dsimp only) | (intro _ _; try dsimp only) | (intro _; try dsimp only) | split | dsimp only

theorem execConfigRequest_keeps  {s : State} {fin : State} (h : execConfigRequest s = .next fin) : Keeps False False True False False False False False False False False False False False False False False False s fin := by
  have h_s : Keeps False False True False False False False False False False False False False False False False False False s s := Keeps.refl s
  unfold execConfigRequest at h
  obtain rfl := Host.Outcome.next.inj h
  try dsimp only
  repeat' first
    | (with_reducible first
      | assumption | apply ite_keeps | apply State.emit_keeps)
    | split | dsimp only

end Sys2Proof.Machine
end

