-- ==== Sys2Proof/Laws/KeepsRingOps.lean ====
section
/-!
SUPPORT. What the definitions of Machine/RingOps.lean keep, each by the definitions it is made of.
-/

namespace Sys2Proof.Machine

open Sys2Proof

set_option Elab.async false

set_option linter.unusedVariables false
set_option linter.unreachableTactic false
set_option linter.unusedTactic false



variable {q1 q2 q3 q4 q5 q6 q7 q8 q9 q10 q11 q12 q13 q14 q15 q16 q17 q18 : Prop}

theorem State.reroute_keeps {root : State} {s : State} (h_s : Keeps q1 q2 True q4 q5 q6 q7 q8 q9 q10 q11 q12 True q14 q15 q16 q17 q18 root s) : Keeps q1 q2 True q4 q5 q6 q7 q8 q9 q10 q11 q12 True q14 q15 q16 q17 q18 root (State.reroute s) := by
  unfold State.reroute
  try dsimp only
  repeat' first
    | (with_reducible first
      | assumption | apply ite_keeps | apply ite_keeps2 | apply ite_keeps1 | apply State.raise_keeps | apply foldl_keeps)
    | (intro _ _ _; try dsimp only) | (intro _ _; try dsimp only) | (intro _; try dsimp only)
    | (apply Keeps.mk; dsimp only; with_reducible refine Keeps.upd ?_) | split | dsimp only

theorem State.modPort_keeps {root : State} {s : State} {east : Bool} {f : RingPort → RingPort} (h_s : Keeps q1 q2 True q4 q5 q6 q7 q8 q9 q10 True q12 True q14 q15 q16 q17 q18 root s) : Keeps q1 q2 True q4 q5 q6 q7 q8 q9 q10 True q12 True q14 q15 q16 q17 q18 root (State.modPort s east f) := by
  unfold State.modPort
  try dsimp only
  repeat' first
    | (with_reducible first
      | assumption | apply State.setPort_keeps)
    | (apply Keeps.mk; dsimp only; with_reducible refine Keeps.upd ?_) | dsimp only

theorem State.launch_keeps {root : State} {s : State} {east : Bool} {bytes : List (BitVec 8)} (h_s : Keeps q1 q2 True q4 q5 q6 q7 q8 q9 q10 True q12 True q14 q15 q16 q17 q18 root s) : Keeps q1 q2 True q4 q5 q6 q7 q8 q9 q10 True q12 True q14 q15 q16 q17 q18 root (State.launch s east bytes) := by
  unfold State.launch
  try dsimp only
  repeat' first
    | (with_reducible first
      | assumption | apply ite_keeps | apply ite_keeps2 | apply ite_keeps1 | apply State.bumpBy_keeps
      | apply State.emit_keeps | apply State.modPort_keeps)
    | (intro _ _ _; try dsimp only) | (intro _ _; try dsimp only) | (intro _; try dsimp only)
    | (apply Keeps.mk; dsimp only; with_reducible refine Keeps.upd ?_) | split | dsimp only

theorem State.sendPacket_keeps {root s : State} {pos type part ctx win tag gen len status addr : Nat} {data : List (BitVec 8)} (h_s : Keeps q1 q2 True q4 q5 q6 q7 q8 q9 q10 True q12 True q14 q15 q16 q17 q18 root s) : Keeps q1 q2 True q4 q5 q6 q7 q8 q9 q10 True q12 True q14 q15 q16 q17 q18 root ((State.sendPacket s pos type part ctx win tag gen len status addr data).getD s) := by
  unfold State.sendPacket
  split
  · exact h_s
  · dsimp only
    split
    · simp only [Option.getD_some]
      apply State.launch_keeps
      apply Keeps.mk
      dsimp only
      exact Keeps.upd h_s
    · exact State.launch_keeps h_s

end Sys2Proof.Machine
end

