-- ==== Sys2Proof/Laws/KeepsSproutOps.lean ====
section
/-!
SUPPORT. What the definitions of Machine/SproutOps.lean keep, each by the definitions it is made of.
-/

namespace Sys2Proof.Machine

open Sys2Proof

set_option Elab.async false

set_option linter.unusedVariables false
set_option linter.unreachableTactic false
set_option linter.unusedTactic false



variable {q1 q2 q3 q4 q5 q6 q7 q8 q9 q10 q11 q12 q13 q14 q15 q16 q17 q18 : Prop}

theorem State.modBed_keeps {root : State} {s : State} {n b : Nat} {f : BedSt → BedSt} (h_s : Keeps q1 q2 q3 q4 q5 q6 q7 q8 q9 q10 q11 q12 q13 q14 q15 q16 q17 True root s) : Keeps q1 q2 q3 q4 q5 q6 q7 q8 q9 q10 q11 q12 q13 q14 q15 q16 q17 True root (State.modBed s n b f) := by
  unfold State.modBed
  try dsimp only
  repeat' first
    | (with_reducible first
      | assumption)
    | (apply Keeps.mk; dsimp only; with_reducible refine Keeps.upd ?_) | dsimp only

theorem State.modSprout_keeps {root : State} {s : State} {i : SproutId} {f : SproutSt → SproutSt} (h_s : Keeps q1 q2 q3 q4 q5 q6 q7 q8 q9 q10 q11 q12 q13 q14 q15 q16 q17 True root s) : Keeps q1 q2 q3 q4 q5 q6 q7 q8 q9 q10 q11 q12 q13 q14 q15 q16 q17 True root (State.modSprout s i f) := by
  unfold State.modSprout
  try dsimp only
  repeat' first
    | (with_reducible first
      | assumption | apply State.modBed_keeps)
    | (intro _ _ _; try dsimp only) | (intro _ _; try dsimp only) | (intro _; try dsimp only)
    | (apply Keeps.mk; dsimp only; with_reducible refine Keeps.upd ?_) | dsimp only

theorem State.dataWrite_keeps {root : State} {s : State} {i : SproutId} {off x : Nat} (h_s : Keeps True True q3 q4 q5 q6 q7 q8 q9 q10 q11 q12 q13 q14 q15 q16 q17 q18 root s) : Keeps True True q3 q4 q5 q6 q7 q8 q9 q10 q11 q12 q13 q14 q15 q16 q17 q18 root (State.dataWrite s i off x) := by
  unfold State.dataWrite
  try dsimp only
  repeat' first
    | (with_reducible first
      | assumption | apply State.putCw_keeps | apply foldl_keeps)
    | (intro _ _ _; try dsimp only) | (intro _ _; try dsimp only) | (intro _; try dsimp only)
    | (apply Keeps.mk; dsimp only; with_reducible refine Keeps.upd ?_) | split | dsimp only

theorem State.dataEvents_keeps {root : State} {s : State} {i : SproutId} {off : Nat} (h_s : Keeps q1 q2 q3 q4 q5 q6 q7 True q9 q10 q11 q12 q13 q14 q15 q16 q17 q18 root s) : Keeps q1 q2 q3 q4 q5 q6 q7 True q9 q10 q11 q12 q13 q14 q15 q16 q17 q18 root (State.dataEvents s i off).2 := by
  unfold State.dataEvents
  try dsimp only
  repeat' first
    | (with_reducible first
      | assumption | apply State.toFlt_keeps | apply foldl_keeps | apply foldl_keeps2 | apply foldl_keeps1
      | apply foldl_keeps22)
    | (intro _ _ _; try dsimp only) | (intro _ _; try dsimp only) | (intro _; try dsimp only)
    | (apply Keeps.mk; dsimp only; with_reducible refine Keeps.upd ?_) | split | dsimp only

theorem State.issue_keeps {root : State} {s : State} {i : SproutId} {cost : Nat} {f : SproutSt → SproutSt} (h_s : Keeps q1 q2 q3 q4 q5 q6 q7 q8 q9 q10 q11 q12 q13 q14 q15 q16 q17 True root s) : Keeps q1 q2 q3 q4 q5 q6 q7 q8 q9 q10 q11 q12 q13 q14 q15 q16 q17 True root (State.issue s i cost f) := by
  unfold State.issue
  try dsimp only
  repeat' first
    | (with_reducible first
      | assumption | apply ite_keeps | apply ite_keeps2 | apply ite_keeps1 | apply State.modSprout_keeps)
    | (intro _ _ _; try dsimp only) | (intro _ _; try dsimp only) | (intro _; try dsimp only)
    | (apply Keeps.mk; dsimp only; with_reducible refine Keeps.upd ?_) | split | dsimp only

theorem State.saturated_keeps {root : State} {s : State} {i : SproutId} {k : Nat} (h_s : Keeps q1 q2 True q4 q5 q6 q7 q8 q9 q10 q11 q12 q13 q14 q15 q16 q17 True root s) : Keeps q1 q2 True q4 q5 q6 q7 q8 q9 q10 q11 q12 q13 q14 q15 q16 q17 True root (State.saturated s i k) := by
  unfold State.saturated
  try dsimp only
  repeat' first
    | (with_reducible first
      | assumption | apply ite_keeps | apply State.bumpBy_keeps | apply State.modSprout_keeps | apply State.raise_keeps)
    | (intro _ _ _; try dsimp only) | (intro _ _; try dsimp only) | (intro _; try dsimp only)
    | (apply Keeps.mk; dsimp only; with_reducible refine Keeps.upd ?_) | split | dsimp only

theorem State.issueAlu_keeps {root : State} {s : State} {i : SproutId} {rd : SReg} {val : SproutSt → Nat × Nat} (h_s : Keeps q1 q2 True q4 q5 q6 q7 q8 q9 q10 q11 q12 q13 q14 q15 q16 q17 True root s) : Keeps q1 q2 True q4 q5 q6 q7 q8 q9 q10 q11 q12 q13 q14 q15 q16 q17 True root (State.issueAlu s i rd val) := by
  unfold State.issueAlu
  try dsimp only
  repeat' first
    | (with_reducible first
      | assumption | apply ite_keeps | apply ite_keeps2 | apply ite_keeps1 | apply State.issue_keeps
      | apply State.saturated_keeps)
    | (intro _ _ _; try dsimp only) | (intro _ _; try dsimp only) | (intro _; try dsimp only) | split | dsimp only

theorem State.sproutAbort_keeps {root : State} {s : State} {i : SproutId} (h_s : Keeps q1 q2 True q4 q5 q6 q7 q8 q9 q10 q11 q12 q13 q14 q15 q16 q17 True root s) : Keeps q1 q2 True q4 q5 q6 q7 q8 q9 q10 q11 q12 q13 q14 q15 q16 q17 True root (State.sproutAbort s i) := by
  unfold State.sproutAbort
  try dsimp only
  repeat' first
    | (with_reducible first
      | assumption | apply State.modSprout_keeps | apply State.raise_keeps)
    | (intro _ _ _; try dsimp only) | (intro _ _; try dsimp only) | (intro _; try dsimp only)
    | (apply Keeps.mk; dsimp only; with_reducible refine Keeps.upd ?_) | dsimp only

theorem State.issueRead_keeps {root : State} {s : State} {i : SproutId} {offs : List Nat} {f : State → State} (h_s : Keeps q1 q2 True q4 q5 q6 q7 True q9 q10 q11 q12 q13 q14 q15 q16 q17 True root s) (h_f : ∀ (x0 : State), Keeps q1 q2 True q4 q5 q6 q7 True q9 q10 q11 q12 q13 q14 q15 q16 q17 True root x0 → Keeps q1 q2 True q4 q5 q6 q7 True q9 q10 q11 q12 q13 q14 q15 q16 q17 True root (f x0)) : Keeps q1 q2 True q4 q5 q6 q7 True q9 q10 q11 q12 q13 q14 q15 q16 q17 True root (State.issueRead s i offs f) := by
  unfold State.issueRead
  apply ite_keeps _ h_s
  have hr : Keeps q1 q2 True q4 q5 q6 q7 True q9 q10 q11 q12 q13 q14 q15 q16 q17 True root (offs.foldl (fun (acc : Bool × State) o => let e := acc.2.dataEvents i o; (acc.1 || e.1, e.2)) (false, s)).2 :=
    foldl_keeps2 _ (fun a x ha => pair_keeps2 (State.dataEvents_keeps ha)) offs (false, s) h_s
  exact ite_keeps (State.sproutAbort_keeps hr) (h_f _ hr)

theorem State.complexMac_keeps {root : State} {s : State} {i : SproutId} {ax ay : Fin 8} {conj sub clear : Bool} (h_s : Keeps q1 q2 True q4 q5 q6 q7 True q9 q10 q11 q12 q13 q14 q15 q16 q17 True root s) : Keeps q1 q2 True q4 q5 q6 q7 True q9 q10 q11 q12 q13 q14 q15 q16 q17 True root (State.complexMac s i ax ay conj sub clear) := by
  unfold State.complexMac
  try dsimp only
  repeat' first
    | (with_reducible first
      | assumption | apply ite_keeps | apply ite_keeps2 | apply ite_keeps1 | apply State.bump_keeps | apply State.issue_keeps
      | apply State.issueRead_keeps | apply State.saturated_keeps)
    | (intro _ _ _; try dsimp only) | (intro _ _; try dsimp only) | (intro _; try dsimp only)
    | (apply Keeps.mk; dsimp only; with_reducible refine Keeps.upd ?_) | split | dsimp only

theorem State.assertLine_keeps {root : State} {s : State} {i : SproutId} {line : Nat} (h_s : Keeps q1 q2 q3 q4 q5 q6 q7 q8 q9 q10 q11 q12 q13 q14 q15 q16 q17 True root s) : Keeps q1 q2 q3 q4 q5 q6 q7 q8 q9 q10 q11 q12 q13 q14 q15 q16 q17 True root (State.assertLine s i line) := by
  unfold State.assertLine
  try dsimp only
  repeat' first
    | (with_reducible first
      | assumption | apply ite_keeps | apply State.gather_keeps | apply State.modSprout_keeps)
    | (intro _ _ _; try dsimp only) | (intro _ _; try dsimp only) | (intro _; try dsimp only)
    | (apply Keeps.mk; dsimp only; with_reducible refine Keeps.upd ?_) | split | dsimp only

theorem State.verdictLine_keeps {root : State} {s : State} {n : Fin 8} {k : Nat} (h_s : Keeps q1 q2 q3 q4 q5 q6 q7 q8 q9 q10 q11 q12 q13 q14 q15 q16 q17 True root s) : Keeps q1 q2 q3 q4 q5 q6 q7 q8 q9 q10 q11 q12 q13 q14 q15 q16 q17 True root (State.verdictLine s n k) := by
  unfold State.verdictLine
  try dsimp only
  repeat' first
    | (with_reducible first
      | assumption | apply ite_keeps | apply State.assertLine_keeps | apply foldl_keeps)
    | (intro _ _ _; try dsimp only) | (intro _ _; try dsimp only) | (intro _; try dsimp only) | split | dsimp only

theorem State.cursorLine_keeps {root : State} {s : State} {n : Fin 8} {f a b : Nat} (h_s : Keeps q1 q2 q3 q4 q5 q6 q7 q8 q9 q10 q11 q12 q13 q14 q15 q16 q17 True root s) : Keeps q1 q2 q3 q4 q5 q6 q7 q8 q9 q10 q11 q12 q13 q14 q15 q16 q17 True root (State.cursorLine s n f a b) := by
  unfold State.cursorLine
  try dsimp only
  repeat' first
    | (with_reducible first
      | assumption | apply ite_keeps | apply State.assertLine_keeps | apply foldl_keeps)
    | (intro _ _ _; try dsimp only) | (intro _ _; try dsimp only) | (intro _; try dsimp only) | split | dsimp only

theorem State.putStatus_keeps {root : State} {s : State} {i : SproutId} {entry d word : Nat} (h_s : Keeps True True True q4 q5 q6 True True True q10 q11 q12 q13 q14 q15 q16 q17 q18 root s) : Keeps True True True q4 q5 q6 True True True q10 q11 q12 q13 q14 q15 q16 q17 q18 root (State.putStatus s i entry d word) := by
  unfold State.putStatus
  try dsimp only
  repeat' first
    | (with_reducible first
      | assumption | apply ite_keeps | apply ite_keeps2 | apply ite_keeps1 | apply State.bump_keeps
      | apply State.winWrite_keeps)
    | split | dsimp only

theorem State.zeroSprout_keeps {root : State} {s : State} {i : SproutId} (h_s : Keeps True True q3 q4 q5 q6 q7 q8 q9 q10 q11 q12 q13 q14 q15 q16 q17 True root s) : Keeps True True q3 q4 q5 q6 q7 q8 q9 q10 q11 q12 q13 q14 q15 q16 q17 True root (State.zeroSprout s i) := by
  unfold State.zeroSprout
  try dsimp only
  repeat' first
    | (with_reducible first
      | assumption | apply State.modSprout_keeps | apply State.zeroBytes_keeps)
    | (intro _ _ _; try dsimp only) | (intro _ _; try dsimp only) | (intro _; try dsimp only) | dsimp only

theorem State.ownSprout_keeps {root : State} {s : State} {i : SproutId} {c : Nat} (h_s : Keeps True True q3 q4 q5 q6 q7 q8 q9 q10 q11 q12 q13 q14 q15 q16 q17 True root s) : Keeps True True q3 q4 q5 q6 q7 q8 q9 q10 q11 q12 q13 q14 q15 q16 q17 True root (State.ownSprout s i c) := by
  unfold State.ownSprout
  try dsimp only
  repeat' first
    | (with_reducible first
      | assumption | apply ite_keeps | apply State.zeroSprout_keeps)
    | split | dsimp only

theorem State.startSprout_keeps {root : State} {s0 : State} {i : SproutId} {c n entry : Nat} {desc : Option Nat} {late : Bool} (h_s0 : Keeps True True True q4 q5 q6 True True True q10 q11 q12 q13 q14 q15 q16 q17 True root s0) : Keeps True True True q4 q5 q6 True True True q10 q11 q12 q13 q14 q15 q16 q17 True root (State.startSprout s0 i c n entry desc late) := by
  unfold State.startSprout
  try dsimp only
  repeat' first
    | (with_reducible first
      | assumption | apply ite_keeps | apply ite_keeps2 | apply ite_keeps1 | apply State.modSprout_keeps
      | apply State.ownSprout_keeps | apply State.putStatus_keeps | apply State.use_keeps)
    | (intro _ _ _; try dsimp only) | (intro _ _; try dsimp only) | (intro _; try dsimp only)
    | (apply Keeps.mk; dsimp only; with_reducible refine Keeps.upd ?_) | split | dsimp only

theorem State.endInvocation_keeps {root : State} {s : State} {i : SproutId} (h_s : Keeps True True True q4 q5 q6 True True True q10 q11 q12 q13 q14 q15 q16 q17 True root s) : Keeps True True True q4 q5 q6 True True True q10 q11 q12 q13 q14 q15 q16 q17 True root (State.endInvocation s i) := by
  unfold State.endInvocation
  try dsimp only
  repeat' first
    | (with_reducible first
      | assumption | apply ite_keeps | apply ite_keeps2 | apply ite_keeps1 | apply State.bump_keeps
      | apply State.modCtx_keeps | apply State.modSprout_keeps | apply State.putStatus_keeps | apply State.tick_keeps
      | apply State.toFlt_keeps)
    | (intro _ _ _; try dsimp only) | (intro _ _; try dsimp only) | (intro _; try dsimp only)
    | (apply Keeps.mk; dsimp only; with_reducible refine Keeps.upd ?_) | split | dsimp only

theorem State.releaseSprouts_keeps {root : State} {s : State} {c : Nat} {freeze : Bool} (h_s : Keeps True True q3 q4 q5 q6 q7 q8 q9 q10 q11 q12 q13 q14 q15 q16 q17 True root s) : Keeps True True q3 q4 q5 q6 q7 q8 q9 q10 q11 q12 q13 q14 q15 q16 q17 True root (State.releaseSprouts s c freeze) := by
  unfold State.releaseSprouts
  try dsimp only
  repeat' first
    | (with_reducible first
      | assumption | apply ite_keeps | apply State.modSprout_keeps | apply State.zeroSprout_keeps | apply foldl_keeps)
    | (intro _ _ _; try dsimp only) | (intro _ _; try dsimp only) | (intro _; try dsimp only)
    | (apply Keeps.mk; dsimp only; with_reducible refine Keeps.upd ?_) | split | dsimp only

theorem State.thawSprouts_keeps {root : State} {s : State} {p : Nat → Bool} (h_s : Keeps True True q3 q4 q5 q6 q7 q8 q9 q10 q11 q12 q13 q14 q15 q16 q17 True root s) : Keeps True True q3 q4 q5 q6 q7 q8 q9 q10 q11 q12 q13 q14 q15 q16 q17 True root (State.thawSprouts s p) := by
  unfold State.thawSprouts
  try dsimp only
  repeat' first
    | (with_reducible first
      | assumption | apply ite_keeps | apply State.zeroSprout_keeps | apply foldl_keeps)
    | (intro _ _ _; try dsimp only) | (intro _ _; try dsimp only) | (intro _; try dsimp only)
    | (apply Keeps.mk; dsimp only; with_reducible refine Keeps.upd ?_) | split | dsimp only

theorem State.preemptSprouts_keeps {root : State} {s : State} {c : Nat} (h_s : Keeps q1 q2 q3 q4 q5 q6 q7 q8 q9 q10 q11 q12 q13 q14 q15 q16 q17 True root s) : Keeps q1 q2 q3 q4 q5 q6 q7 q8 q9 q10 q11 q12 q13 q14 q15 q16 q17 True root (State.preemptSprouts s c) := by
  unfold State.preemptSprouts
  try dsimp only
  repeat' first
    | (with_reducible first
      | assumption | apply ite_keeps | apply State.assertLine_keeps | apply foldl_keeps)
    | (intro _ _ _; try dsimp only) | (intro _ _; try dsimp only) | (intro _; try dsimp only) | split | dsimp only

theorem State.scrubBed_keeps {root : State} {s : State} {n : Fin 8} {b : Fin 17} (h_s : Keeps True True q3 q4 q5 q6 q7 q8 q9 q10 q11 q12 q13 q14 q15 q16 q17 True root s) : Keeps True True q3 q4 q5 q6 q7 q8 q9 q10 q11 q12 q13 q14 q15 q16 q17 True root (State.scrubBed s n b) := by
  unfold State.scrubBed
  try dsimp only
  repeat' first
    | (with_reducible first
      | assumption | apply State.modBed_keeps | apply State.zeroBytes_keeps | apply foldl_keeps)
    | (intro _ _ _; try dsimp only) | (intro _ _; try dsimp only) | (intro _; try dsimp only) | dsimp only

end Sys2Proof.Machine
end

