-- ==== Sys2Proof/Laws/KeepsIrgOps.lean ====
section
/-!
SUPPORT. What the definitions of Machine/IrgOps.lean keep, each by the definitions it is made of.
-/

namespace Sys2Proof.Machine

open Sys2Proof

set_option Elab.async false

set_option linter.unusedVariables false
set_option linter.unreachableTactic false
set_option linter.unusedTactic false



variable {q1 q2 q3 q4 q5 q6 q7 q8 q9 q10 q11 q12 q13 q14 q15 q16 q17 q18 : Prop}

theorem State.modIrg_keeps {root : State} {s : State} {k : Nat} {f : Irrigator → Irrigator} (h_s : Keeps q1 q2 q3 q4 q5 q6 q7 q8 q9 q10 q11 True q13 q14 q15 q16 q17 q18 root s) : Keeps q1 q2 q3 q4 q5 q6 q7 q8 q9 q10 q11 True q13 q14 q15 q16 q17 q18 root (State.modIrg s k f) := by
  unfold State.modIrg
  try dsimp only
  repeat' first
    | (with_reducible first
      | assumption)
    | (apply Keeps.mk; dsimp only; with_reducible refine Keeps.upd ?_) | dsimp only

theorem State.modFurrow_keeps {root : State} {s : State} {k f : Nat} {g : Furrow → Furrow} (h_s : Keeps q1 q2 q3 q4 q5 q6 q7 q8 q9 q10 q11 True q13 q14 q15 q16 q17 q18 root s) : Keeps q1 q2 q3 q4 q5 q6 q7 q8 q9 q10 q11 True q13 q14 q15 q16 q17 q18 root (State.modFurrow s k f g) := by
  unfold State.modFurrow
  try dsimp only
  repeat' first
    | (with_reducible first
      | assumption | apply State.modIrg_keeps)
    | (intro _ _ _; try dsimp only) | (intro _ _; try dsimp only) | (intro _; try dsimp only)
    | (apply Keeps.mk; dsimp only; with_reducible refine Keeps.upd ?_) | dsimp only

theorem State.settleIrg_keeps {root : State} {s : State} {k : Nat} (h_s : Keeps q1 q2 q3 q4 q5 q6 q7 q8 q9 q10 q11 True q13 q14 q15 q16 q17 q18 root s) : Keeps q1 q2 q3 q4 q5 q6 q7 q8 q9 q10 q11 True q13 q14 q15 q16 q17 q18 root (State.settleIrg s k) := by
  unfold State.settleIrg
  try dsimp only
  repeat' first
    | (with_reducible first
      | assumption | apply ite_keeps | apply ite_keeps2 | apply ite_keeps1 | apply State.modFurrow_keeps
      | apply State.modIrg_keeps | apply foldl_keeps | apply foldl_keeps2 | apply foldl_keeps1 | apply foldl_keeps22)
    | (intro _ _ _; try dsimp only) | (intro _ _; try dsimp only) | (intro _; try dsimp only)
    | (apply Keeps.mk; dsimp only; with_reducible refine Keeps.upd ?_) | split | dsimp only

theorem State.furrowFault_keeps {root : State} {s : State} {k f cause : Nat} (h_s : Keeps q1 q2 True q4 q5 q6 q7 q8 True q10 q11 True q13 q14 q15 q16 q17 q18 root s) : Keeps q1 q2 True q4 q5 q6 q7 q8 True q10 q11 True q13 q14 q15 q16 q17 q18 root (State.furrowFault s k f cause) := by
  unfold State.furrowFault
  try dsimp only
  repeat' first
    | (with_reducible first
      | assumption | apply State.faultCtx_keeps | apply State.modFurrow_keeps)
    | (intro _ _ _; try dsimp only) | (intro _ _; try dsimp only) | (intro _; try dsimp only)
    | (apply Keeps.mk; dsimp only; with_reducible refine Keeps.upd ?_) | dsimp only

theorem State.furrowLimit_keeps {root : State} {s : State} {k f : Nat} (h_s : Keeps q1 q2 True q4 q5 q6 q7 True True q10 q11 True q13 q14 q15 q16 q17 q18 root s) : Keeps q1 q2 True q4 q5 q6 q7 True True q10 q11 True q13 q14 q15 q16 q17 q18 root (State.furrowLimit s k f) := by
  unfold State.furrowLimit
  try dsimp only
  repeat' first
    | (with_reducible first
      | assumption | apply State.modFurrow_keeps | apply State.overLimit_keeps)
    | (intro _ _ _; try dsimp only) | (intro _ _; try dsimp only) | (intro _; try dsimp only)
    | (apply Keeps.mk; dsimp only; with_reducible refine Keeps.upd ?_) | dsimp only

theorem State.reclaim_keeps {root : State} {s : State} {r : Request} (h_s : Keeps q1 q2 q3 q4 q5 q6 q7 q8 q9 q10 q11 True q13 q14 q15 q16 q17 q18 root s) : Keeps q1 q2 q3 q4 q5 q6 q7 q8 q9 q10 q11 True q13 q14 q15 q16 q17 q18 root (State.reclaim s r) := by
  unfold State.reclaim
  try dsimp only
  repeat' first
    | (with_reducible first
      | assumption)
    | (intro _ _ _; try dsimp only) | (intro _ _; try dsimp only) | (intro _; try dsimp only)
    | (apply Keeps.mk; dsimp only; with_reducible refine Keeps.upd ?_) | dsimp only

theorem State.send_keeps {root : State} {s : State} {r : Request} (h_s : Keeps q1 q2 True q4 q5 q6 q7 q8 q9 q10 True q12 True q14 q15 q16 q17 q18 root s) : Keeps q1 q2 True q4 q5 q6 q7 q8 q9 q10 True q12 True q14 q15 q16 q17 q18 root (State.send s r) := by
  unfold State.send
  try dsimp only
  repeat' first
    | (with_reducible first
      | assumption | apply State.emit_keeps | apply State.sendPacket_keeps)
    | (apply Keeps.mk; dsimp only; with_reducible refine Keeps.upd ?_) | split | dsimp only

theorem State.grantTag_keeps {root : State} {s : State} {r : Request} (h_s : Keeps q1 q2 True q4 q5 q6 q7 q8 q9 q10 True True True q14 q15 q16 q17 q18 root s) : Keeps q1 q2 True q4 q5 q6 q7 q8 q9 q10 True True True q14 q15 q16 q17 q18 root (State.grantTag s r) := by
  unfold State.grantTag
  try dsimp only
  repeat' first
    | (with_reducible first
      | assumption | apply State.send_keeps)
    | (intro _ _ _; try dsimp only) | (intro _ _; try dsimp only) | (intro _; try dsimp only)
    | (apply Keeps.mk; dsimp only; with_reducible refine Keeps.upd ?_) | dsimp only

theorem State.grantWaiting_keeps {root : State} {s : State} {p : Pool} (h_s : Keeps q1 q2 True q4 q5 q6 q7 q8 q9 q10 True True True q14 q15 q16 q17 q18 root s) : Keeps q1 q2 True q4 q5 q6 q7 q8 q9 q10 True True True q14 q15 q16 q17 q18 root (State.grantWaiting s p) := by
  unfold State.grantWaiting
  try dsimp only
  repeat' first
    | (with_reducible first
      | assumption | apply ite_keeps | apply State.grantTag_keeps)
    | (apply Keeps.mk; dsimp only; with_reducible refine Keeps.upd ?_) | split | dsimp only

theorem State.newRequest_keeps {root : State} {s : State} {r : Request} (h_s : Keeps q1 q2 True q4 q5 q6 q7 q8 q9 q10 True True True q14 q15 q16 q17 q18 root s) : Keeps q1 q2 True q4 q5 q6 q7 q8 q9 q10 True True True q14 q15 q16 q17 q18 root (State.newRequest s r) := by
  unfold State.newRequest
  try dsimp only
  repeat' first
    | (with_reducible first
      | assumption | apply ite_keeps | apply State.bump_keeps | apply State.grantTag_keeps)
    | (apply Keeps.mk; dsimp only; with_reducible refine Keeps.upd ?_) | split | dsimp only

theorem State.storeBytes_keeps {root : State} {s : State} {n e : Nat} {st : Store} {slot row byte len : Nat} (h_s : Keeps q1 q2 True q4 q5 q6 True True True q10 q11 q12 q13 q14 q15 q16 q17 q18 root s) : Keeps q1 q2 True q4 q5 q6 True True True q10 q11 q12 q13 q14 q15 q16 q17 q18 root (State.storeBytes s n e st slot row byte len).2 := by
  unfold State.storeBytes
  try dsimp only
  repeat' first
    | (with_reducible first
      | assumption | apply State.winReadN_keeps)
    | (intro _ _ _; try dsimp only) | (intro _ _; try dsimp only) | (intro _; try dsimp only) | dsimp only

theorem State.storePut_keeps {root : State} {s : State} {n e : Nat} {st : Store} {slot row byte : Nat} {data : List (BitVec 8)} (h_s : Keeps True True True q4 q5 q6 True True True q10 q11 q12 q13 q14 q15 q16 q17 q18 root s) : Keeps True True True q4 q5 q6 True True True q10 q11 q12 q13 q14 q15 q16 q17 q18 root (State.storePut s n e st slot row byte data) := by
  unfold State.storePut
  try dsimp only
  repeat' first
    | (with_reducible first
      | assumption | apply State.winWrite_keeps | apply foldl_keeps)
    | (intro _ _ _; try dsimp only) | (intro _ _; try dsimp only) | (intro _; try dsimp only) | dsimp only

theorem State.sproutBytes_keeps {root : State} {s : State} {i : SproutId} {off len : Nat} (h_s : Keeps q1 q2 q3 q4 q5 q6 q7 True q9 q10 q11 q12 q13 q14 q15 q16 q17 q18 root s) : Keeps q1 q2 q3 q4 q5 q6 q7 True q9 q10 q11 q12 q13 q14 q15 q16 q17 q18 root (State.sproutBytes s i off len).2 := by
  exact foldl_keeps2 _ (fun a x ha => pair_keeps2 (State.dataEvents_keeps ha)) _ (some [], s) h_s

theorem State.sproutPut_keeps {root : State} {s : State} {i : SproutId} {off : Nat} {data : List (BitVec 8)} (h_s : Keeps True True q3 q4 q5 q6 q7 q8 q9 q10 q11 q12 q13 q14 q15 q16 q17 q18 root s) : Keeps True True q3 q4 q5 q6 q7 q8 q9 q10 q11 q12 q13 q14 q15 q16 q17 q18 root (State.sproutPut s i off data) := by
  unfold State.sproutPut
  try dsimp only
  repeat' first
    | (with_reducible first
      | assumption | apply State.dataWrite_keeps | apply foldl_keeps | apply foldl_keeps2 | apply foldl_keeps1
      | apply foldl_keeps22)
    | (intro _ _ _; try dsimp only) | (intro _ _; try dsimp only) | (intro _; try dsimp only) | dsimp only

theorem State.bedPut_keeps {root : State} {s : State} {n b addr : Nat} {data : List (BitVec 8)} (h_s : Keeps True True q3 q4 q5 q6 q7 q8 q9 q10 q11 q12 q13 q14 q15 q16 q17 True root s) : Keeps True True q3 q4 q5 q6 q7 q8 q9 q10 q11 q12 q13 q14 q15 q16 q17 True root (State.bedPut s n b addr data) := by
  unfold State.bedPut
  try dsimp only
  repeat' first
    | (with_reducible first
      | assumption | apply State.modBed_keeps | apply State.putCw_keeps | apply foldl_keeps | apply foldl_keeps2
      | apply foldl_keeps1 | apply foldl_keeps22)
    | (intro _ _ _; try dsimp only) | (intro _ _; try dsimp only) | (intro _; try dsimp only)
    | (apply Keeps.mk; dsimp only; with_reducible refine Keeps.upd ?_) | dsimp only

theorem State.placeRead_keeps {root : State} {s : State} {k f : Nat} {p : Place} {pos len : Nat} {arrived : Option (List (BitVec 8))} (h_s : Keeps q1 q2 True q4 q5 q6 True True True q10 q11 True q13 q14 True q16 q17 q18 root s) : Keeps q1 q2 True q4 q5 q6 True True True q10 q11 True q13 q14 True q16 q17 q18 root (State.placeRead s k f p pos len arrived).2 := by
  unfold State.placeRead
  try dsimp only
  repeat' first
    | (with_reducible first
      | assumption | apply ite_keeps | apply ite_keeps2 | apply ite_keeps1 | apply State.dramRead_keeps
      | apply State.faultCtx_keeps | apply State.furrowFault_keeps | apply State.portRead_keeps
      | apply State.sproutBytes_keeps | apply State.storeBytes_keeps)
    | (apply Keeps.mk; dsimp only; with_reducible refine Keeps.upd ?_) | split | dsimp only

theorem State.guardedWrite_keeps {root : State} {s : State} {c addr : Nat} {data : List (BitVec 8)} (h_s : Keeps True True True q4 q5 q6 q7 True True q10 q11 q12 q13 q14 True q16 q17 q18 root s) : Keeps True True True q4 q5 q6 q7 True True q10 q11 q12 q13 q14 True q16 q17 q18 root (State.guardedWrite s c addr data) := by
  unfold State.guardedWrite
  try dsimp only
  repeat' first
    | (with_reducible first
      | assumption | apply ite_keeps | apply ite_keeps2 | apply ite_keeps1 | apply State.bump_keeps
      | apply State.dramWrite_keeps | apply State.faultCtx_keeps | apply State.modCtx_keeps | apply State.wsetTouch_keeps
      | apply foldl_keeps | apply foldl_keeps2 | apply foldl_keeps1 | apply foldl_keeps22)
    | (intro _ _ _; try dsimp only) | (intro _ _; try dsimp only) | (intro _; try dsimp only)
    | (apply Keeps.mk; dsimp only; with_reducible refine Keeps.upd ?_) | split | dsimp only

theorem State.placeWrite_keeps {root : State} {s : State} {k f : Nat} {p : Place} {data : List (BitVec 8)} {xlat : Option Nat} {races : Nat} (h_s : Keeps True True True q4 q5 q6 True True True q10 q11 True q13 q14 True q16 q17 True root s) : Keeps True True True q4 q5 q6 True True True q10 q11 True q13 q14 True q16 q17 True root (State.placeWrite s k f p data xlat races) := by
  unfold State.placeWrite
  try dsimp only
  repeat' first
    | (with_reducible first
      | assumption | apply ite_keeps | apply ite_keeps2 | apply ite_keeps1 | apply State.bedPut_keeps
      | apply State.bumpBy_keeps | apply State.emit_keeps | apply State.furrowFault_keeps | apply State.guardedWrite_keeps
      | apply State.hostWriteAt_keeps | apply State.raise_keeps | apply State.sproutPut_keeps | apply State.storePut_keeps)
    | (apply Keeps.mk; dsimp only; with_reducible refine Keeps.upd ?_) | split | dsimp only

theorem State.wrote_keeps {root : State} {s : State} {k f tile len : Nat} (h_s : Keeps q1 q2 True q4 q5 q6 q7 q8 q9 q10 q11 True q13 q14 q15 q16 q17 True root s) : Keeps q1 q2 True q4 q5 q6 q7 q8 q9 q10 q11 True q13 q14 q15 q16 q17 True root (State.wrote s k f tile len) := by
  unfold State.wrote
  try dsimp only
  repeat' first
    | (with_reducible first
      | assumption | apply ite_keeps | apply ite_keeps2 | apply ite_keeps1 | apply State.bumpBy_keeps
      | apply State.cursorLine_keeps | apply State.modFurrow_keeps | apply State.written_keeps)
    | (intro _ _ _; try dsimp only) | (intro _ _; try dsimp only) | (intro _; try dsimp only)
    | (apply Keeps.mk; dsimp only; with_reducible refine Keeps.upd ?_) | split | dsimp only

theorem State.writeRequest_keeps {root : State} {s : State} {k f : Nat} {pool : Pool} {q : Piece} {spill : Bool} (h_s : Keeps q1 q2 True q4 q5 q6 q7 q8 q9 q10 True True True q14 q15 q16 q17 q18 root s) : Keeps q1 q2 True q4 q5 q6 q7 q8 q9 q10 True True True q14 q15 q16 q17 q18 root (State.writeRequest s k f pool q spill) := by
  unfold State.writeRequest
  try dsimp only
  repeat' first
    | (with_reducible first
      | assumption | apply State.newRequest_keeps)
    | dsimp only

theorem State.formedFault_keeps {root : State} {s : State} {k f : Nat} {p : Place} {len : Nat} {write : Bool} (h_s : Keeps q1 q2 True q4 q5 q6 True q8 True q10 q11 True q13 q14 q15 q16 q17 q18 root s) : Keeps q1 q2 True q4 q5 q6 True q8 True q10 q11 True q13 q14 q15 q16 q17 q18 root (State.formedFault s k f p len write) := by
  unfold State.formedFault
  try dsimp only
  repeat' first
    | (with_reducible first
      | assumption | apply ite_keeps | apply ite_keeps2 | apply ite_keeps1 | apply State.bump_keeps
      | apply State.faultCtx_keeps | apply State.modFurrow_keeps | apply State.oob_keeps)
    | (intro _ _ _; try dsimp only) | (intro _ _; try dsimp only) | (intro _; try dsimp only)
    | (apply Keeps.mk; dsimp only; with_reducible refine Keeps.upd ?_) | split | dsimp only

theorem State.toDest_keeps {root : State} {s : State} {k f : Nat} {q : Piece} {races : Nat} (h_s : Keeps True True True q4 q5 q6 True True True q10 True True True q14 True q16 q17 True root s) : Keeps True True True q4 q5 q6 True True True q10 True True True q14 True q16 q17 True root (State.toDest s k f q races) := by
  unfold State.toDest
  try dsimp only
  repeat' first
    | (with_reducible first
      | assumption | apply ite_keeps | apply ite_keeps2 | apply ite_keeps1 | apply State.formedFault_keeps
      | apply State.furrowFault_keeps | apply State.modFurrow_keeps | apply State.placeWrite_keeps
      | apply State.writeRequest_keeps | apply State.wrote_keeps | apply foldl_keeps)
    | (intro _ _ _; try dsimp only) | (intro _ _; try dsimp only) | (intro _; try dsimp only)
    | (apply Keeps.mk; dsimp only; with_reducible refine Keeps.upd ?_) | split | dsimp only

theorem State.drainStage_keeps {root : State} : ∀ (y0 : Nat) {s : State} {k f : Nat}  (h_s : Keeps True True True q4 q5 q6 True True True q10 True True True q14 True q16 q17 True root s), Keeps True True True q4 q5 q6 True True True q10 True True True q14 True q16 q17 True root (State.drainStage s k f y0) := by
  intro y0
  induction y0 with
  | zero =>
    intros
    unfold State.drainStage
    repeat' first
      | with_reducible apply ih
      | (with_reducible first
        | assumption | apply State.modFurrow_keeps | apply State.toDest_keeps)
      | (intro _ _ _; try dsimp only) | (intro _ _; try dsimp only) | (intro _; try dsimp only)
      | (apply Keeps.mk; dsimp only; with_reducible refine Keeps.upd ?_) | split | dsimp only
  
  | succ m ih =>
    intros
    unfold State.drainStage
    try dsimp only
    repeat' first
      | with_reducible apply ih
      | (with_reducible first
        | assumption | apply State.modFurrow_keeps | apply State.toDest_keeps)
      | (intro _ _ _; try dsimp only) | (intro _ _; try dsimp only) | (intro _; try dsimp only)
      | (apply Keeps.mk; dsimp only; with_reducible refine Keeps.upd ?_) | split | dsimp only
  
theorem State.arrive_keeps {root : State} {s : State} {k f : Nat} {q : Piece} {races : Nat} (h_s : Keeps True True True q4 q5 q6 True True True q10 True True True q14 True q16 q17 True root s) : Keeps True True True q4 q5 q6 True True True q10 True True True q14 True q16 q17 True root (State.arrive s k f q races) := by
  unfold State.arrive
  try dsimp only
  repeat' first
    | (with_reducible first
      | assumption | apply ite_keeps | apply ite_keeps2 | apply ite_keeps1 | apply State.drainStage_keeps
      | apply State.modFurrow_keeps | apply State.toDest_keeps)
    | (intro _ _ _; try dsimp only) | (intro _ _; try dsimp only) | (intro _; try dsimp only)
    | (apply Keeps.mk; dsimp only; with_reducible refine Keeps.upd ?_) | split | dsimp only

theorem State.releaseTiles_keeps {root : State} {s : State} {k f n : Nat} (h_s : Keeps True True True q4 q5 q6 True True True q10 True True True q14 True q16 q17 True root s) : Keeps True True True q4 q5 q6 True True True q10 True True True q14 True q16 q17 True root (State.releaseTiles s k f n) := by
  unfold State.releaseTiles
  try dsimp only
  repeat' first
    | (with_reducible first
      | assumption | apply ite_keeps | apply ite_keeps2 | apply ite_keeps1 | apply State.drainStage_keeps
      | apply State.faultCtx_keeps | apply State.modFurrow_keeps | apply State.settleIrg_keeps)
    | (intro _ _ _; try dsimp only) | (intro _ _; try dsimp only) | (intro _; try dsimp only)
    | (apply Keeps.mk; dsimp only; with_reducible refine Keeps.upd ?_) | split | dsimp only

theorem State.restDropped_keeps {root : State} {s : State} {g : Nat} (h_s : Keeps q1 q2 q3 q4 q5 q6 q7 q8 q9 q10 q11 True q13 q14 q15 q16 q17 q18 root s) : Keeps q1 q2 q3 q4 q5 q6 q7 q8 q9 q10 q11 True q13 q14 q15 q16 q17 q18 root (State.restDropped s g) := by
  unfold State.restDropped
  try dsimp only
  repeat' first
    | (with_reducible first
      | assumption)
    | (intro _ _ _; try dsimp only) | (intro _ _; try dsimp only) | (intro _; try dsimp only)
    | (apply Keeps.mk; dsimp only; with_reducible refine Keeps.upd ?_) | dsimp only

theorem State.fcPin_keeps {root : State} {s : State} {p : Nat} (h_s : Keeps q1 q2 True q4 q5 q6 q7 q8 q9 q10 q11 True q13 q14 q15 q16 q17 q18 root s) : Keeps q1 q2 True q4 q5 q6 q7 q8 q9 q10 q11 True q13 q14 q15 q16 q17 q18 root (State.fcPin s p) := by
  unfold State.fcPin
  try dsimp only
  repeat' first
    | (with_reducible first
      | assumption | apply ite_keeps | apply ite_keeps2 | apply ite_keeps1 | apply State.emit_keeps
      | apply State.raise_keeps)
    | (apply Keeps.mk; dsimp only; with_reducible refine Keeps.upd ?_) | split | dsimp only

theorem State.fcPins_keeps {root : State} {s : State} (h_s : Keeps q1 q2 True q4 q5 q6 q7 q8 q9 q10 q11 True q13 q14 q15 q16 q17 q18 root s) : Keeps q1 q2 True q4 q5 q6 q7 q8 q9 q10 q11 True q13 q14 q15 q16 q17 q18 root (State.fcPins s) := by
  unfold State.fcPins
  try dsimp only
  repeat' first
    | (with_reducible first
      | assumption | apply State.fcPin_keeps | apply foldl_keeps)
    | dsimp only

theorem State.pauseFrame_keeps {root : State} {s : State} {p : Nat} {on : Bool} (h_s : Keeps q1 q2 True q4 q5 q6 q7 q8 q9 q10 q11 True q13 q14 q15 q16 q17 q18 root s) : Keeps q1 q2 True q4 q5 q6 q7 q8 q9 q10 q11 True q13 q14 q15 q16 q17 q18 root (State.pauseFrame s p on) := by
  unfold State.pauseFrame
  try dsimp only
  repeat' first
    | (with_reducible first
      | assumption | apply ite_keeps | apply ite_keeps2 | apply ite_keeps1 | apply State.emit_keeps)
    | (intro _ _ _; try dsimp only) | (intro _ _; try dsimp only) | (intro _; try dsimp only)
    | (apply Keeps.mk; dsimp only; with_reducible refine Keeps.upd ?_) | split | dsimp only

theorem State.setLevel_keeps {root : State} {s : State} {g level : Nat} (h_s : Keeps q1 q2 True q4 q5 q6 q7 q8 q9 q10 q11 True q13 q14 q15 q16 q17 q18 root s) : Keeps q1 q2 True q4 q5 q6 q7 q8 q9 q10 q11 True q13 q14 q15 q16 q17 q18 root (State.setLevel s g level) := by
  unfold State.setLevel
  try dsimp only
  repeat' first
    | (with_reducible first
      | assumption | apply ite_keeps | apply ite_keeps2 | apply ite_keeps1 | apply State.fcPins_keeps
      | apply State.pauseFrame_keeps)
    | (apply Keeps.mk; dsimp only; with_reducible refine Keeps.upd ?_) | split | dsimp only

end Sys2Proof.Machine
end

