-- ==== Sys2Proof/Laws/KeepsIrrigator.lean ====
section
/-!
SUPPORT. What the definitions of Machine/Irrigator.lean keep, each by the definitions it is made of.
-/

namespace Sys2Proof.Machine

open Sys2Proof

set_option Elab.async false

set_option linter.unusedVariables false
set_option linter.unreachableTactic false
set_option linter.unusedTactic false



variable {q1 q2 q3 q4 q5 q6 q7 q8 q9 q10 q11 q12 q13 q14 q15 q16 q17 q18 : Prop}

theorem execFurrowStart_keeps {irg : Fin 9} {f : Nat} {c : Ctx} {entry : Fin 32} {desc : Nat} {carried : Bool} {s : State} {fin : State} (h : execFurrowStart irg f c entry desc carried s = .next fin) : Keeps False False False False False False False False True False False True False False False False False False s fin := by
  have h_s : Keeps False False False False False False False False True False False True False False False False False False s s := Keeps.refl s
  unfold execFurrowStart at h
  obtain rfl := Host.Outcome.next.inj h
  try dsimp only
  repeat' first
    | (with_reducible first
      | assumption | apply ite_keeps | apply State.live_keeps | apply State.modFurrow_keeps | apply State.opDone_keeps
      | apply State.settleIrg_keeps)
    | (intro _ _ _; try dsimp only) | (intro _ _; try dsimp only) | (intro _; try dsimp only)
    | (apply Keeps.mk; dsimp only; with_reducible refine Keeps.upd ?_) | split | dsimp only

theorem State.noteWaits_keeps {root : State} {s : State} {k : Nat} (h_s : Keeps q1 q2 q3 q4 q5 q6 q7 q8 q9 q10 q11 True q13 q14 q15 q16 q17 q18 root s) : Keeps q1 q2 q3 q4 q5 q6 q7 q8 q9 q10 q11 True q13 q14 q15 q16 q17 q18 root (State.noteWaits s k) := by
  unfold State.noteWaits
  try dsimp only
  repeat' first
    | (with_reducible first
      | assumption | apply ite_keeps | apply ite_keeps2 | apply ite_keeps1 | apply State.modFurrow_keeps | apply foldl_keeps
      | apply foldl_keeps2 | apply foldl_keeps1 | apply foldl_keeps22)
    | (intro _ _ _; try dsimp only) | (intro _ _; try dsimp only) | (intro _; try dsimp only)
    | (apply Keeps.mk; dsimp only; with_reducible refine Keeps.upd ?_) | split | dsimp only

theorem State.askPage_keeps {root : State} {s : State} {k f : Nat} (h_s : Keeps q1 q2 True q4 q5 q6 q7 q8 q9 q10 q11 True q13 q14 q15 q16 q17 q18 root s) : Keeps q1 q2 True q4 q5 q6 q7 q8 q9 q10 q11 True q13 q14 q15 q16 q17 q18 root (State.askPage s k f) := by
  unfold State.askPage
  try dsimp only
  repeat' first
    | (with_reducible first
      | assumption | apply ite_keeps | apply ite_keeps2 | apply ite_keeps1 | apply State.bump_keeps | apply State.emit_keeps
      | apply State.modFn_keeps | apply State.modFurrow_keeps | apply State.raise_keeps)
    | (intro _ _ _; try dsimp only) | (intro _ _; try dsimp only) | (intro _; try dsimp only)
    | (apply Keeps.mk; dsimp only; with_reducible refine Keeps.upd ?_) | split | dsimp only

theorem State.pageFault_keeps {root : State} {s : State} {k f page : Nat} (h_s : Keeps q1 q2 True q4 q5 q6 q7 q8 q9 q10 q11 True q13 q14 q15 q16 q17 q18 root s) : Keeps q1 q2 True q4 q5 q6 q7 q8 q9 q10 q11 True q13 q14 q15 q16 q17 q18 root (State.pageFault s k f page) := by
  unfold State.pageFault
  try dsimp only
  repeat' first
    | (with_reducible first
      | assumption | apply ite_keeps | apply ite_keeps2 | apply ite_keeps1 | apply State.askPage_keeps
      | apply State.modFurrow_keeps | apply State.written_keeps)
    | (intro _ _ _; try dsimp only) | (intro _ _; try dsimp only) | (intro _; try dsimp only)
    | (apply Keeps.mk; dsimp only; with_reducible refine Keeps.upd ?_) | split | dsimp only

theorem State.countIssue_keeps {root : State} {s : State} {k f : Nat} (h_s : Keeps q1 q2 q3 q4 q5 q6 q7 q8 q9 q10 q11 True q13 q14 q15 q16 q17 q18 root s) : Keeps q1 q2 q3 q4 q5 q6 q7 q8 q9 q10 q11 True q13 q14 q15 q16 q17 q18 root (State.countIssue s k f) := by
  unfold State.countIssue
  try dsimp only
  repeat' first
    | (with_reducible first
      | assumption | apply ite_keeps | apply ite_keeps2 | apply ite_keeps1 | apply State.modIrg_keeps)
    | (intro _ _ _; try dsimp only) | (intro _ _; try dsimp only) | (intro _; try dsimp only)
    | (apply Keeps.mk; dsimp only; with_reducible refine Keeps.upd ?_) | split | dsimp only

theorem State.cacheXlat_keeps {root : State} {s : State} {fn : Nat} {x : Translated} (h_s : Keeps q1 q2 q3 q4 q5 q6 q7 q8 q9 q10 q11 True q13 q14 q15 q16 q17 q18 root s) : Keeps q1 q2 q3 q4 q5 q6 q7 q8 q9 q10 q11 True q13 q14 q15 q16 q17 q18 root (State.cacheXlat s fn x) := by
  unfold State.cacheXlat
  try dsimp only
  repeat' first
    | (with_reducible first
      | assumption | apply ite_keeps | apply State.modFn_keeps)
    | (intro _ _ _; try dsimp only) | (intro _ _; try dsimp only) | (intro _; try dsimp only)
    | (apply Keeps.mk; dsimp only; with_reducible refine Keeps.upd ?_) | split | dsimp only

theorem State.issueFurrow_keeps {root : State} {s : State} {k f : Nat} {xlat dxlat : Option Nat} (h_s : Keeps q1 q2 True q4 q5 q6 True q8 True q10 True True True q14 q15 q16 q17 q18 root s) : Keeps q1 q2 True q4 q5 q6 True q8 True q10 True True True q14 q15 q16 q17 q18 root (State.issueFurrow s k f xlat dxlat) := by
  unfold State.issueFurrow
  try dsimp only
  repeat' first
    | (with_reducible first
      | assumption | apply ite_keeps | apply ite_keeps2 | apply ite_keeps1 | apply State.cacheXlat_keeps
      | apply State.formedFault_keeps | apply State.furrowFault_keeps | apply State.modFurrow_keeps
      | apply State.newRequest_keeps | apply State.pageFault_keeps)
    | (intro _ _ _; try dsimp only) | (intro _ _; try dsimp only) | (intro _; try dsimp only)
    | (apply Keeps.mk; dsimp only; with_reducible refine Keeps.upd ?_) | split | dsimp only

theorem execIrrigatorIssue_keeps {irg : Fin 9} {xlat dxlat : Option Nat} {level t : Nat} {s : State} {fin : State} (h : execIrrigatorIssue irg xlat dxlat level t s = .next fin) : Keeps False False True False False True True False True False True True True False False False False False s fin := by
  have h_s : Keeps False False True False False True True False True False True True True False False False False False s s := Keeps.refl s
  unfold execIrrigatorIssue at h
  obtain rfl := Host.Outcome.next.inj h
  try dsimp only
  repeat' first
    | (with_reducible first
      | assumption | apply ite_keeps | apply ite_keeps2 | apply ite_keeps1 | apply State.advance_keeps
      | apply State.bump_keeps | apply State.countIssue_keeps | apply State.issueFurrow_keeps | apply State.live_keeps
      | apply State.noteWaits_keeps | apply State.setLevel_keeps | apply State.settleIrg_keeps)
    | (intro _ _ _; try dsimp only) | (intro _ _; try dsimp only) | (intro _; try dsimp only)
    | (apply Keeps.mk; dsimp only; with_reducible refine Keeps.upd ?_) | split | dsimp only

theorem State.dropRequest_keeps {root : State} {s : State} {r : Request} (h_s : Keeps q1 q2 q3 q4 q5 q6 q7 q8 q9 q10 q11 True q13 q14 q15 q16 q17 q18 root s) : Keeps q1 q2 q3 q4 q5 q6 q7 q8 q9 q10 q11 True q13 q14 q15 q16 q17 q18 root (State.dropRequest s r) := by
  unfold State.dropRequest
  try dsimp only
  repeat' first
    | (with_reducible first
      | assumption)
    | (intro _ _ _; try dsimp only) | (intro _ _; try dsimp only) | (intro _; try dsimp only)
    | (apply Keeps.mk; dsimp only; with_reducible refine Keeps.upd ?_) | dsimp only

theorem State.complete_keeps {root : State} {s : State} {r : Request} {arrived : Option (List (BitVec 8))} {races : Nat} (h_s : Keeps True True True q4 q5 q6 True True True q10 True True True q14 True q16 q17 True root s) : Keeps True True True q4 q5 q6 True True True q10 True True True q14 True q16 q17 True root (State.complete s r arrived races) := by
  unfold State.complete
  try dsimp only
  repeat' first
    | (with_reducible first
      | assumption | apply ite_keeps | apply ite_keeps2 | apply ite_keeps1 | apply State.arrive_keeps
      | apply State.dramRead_keeps | apply State.dramWrite_keeps | apply State.dropRequest_keeps
      | apply State.furrowFault_keeps | apply State.grantWaiting_keeps | apply State.placeRead_keeps
      | apply State.placeWrite_keeps | apply State.settleIrg_keeps | apply State.wrote_keeps)
    | (intro _ _ _; try dsimp only) | (intro _ _; try dsimp only) | (intro _; try dsimp only)
    | (apply Keeps.mk; dsimp only; with_reducible refine Keeps.upd ?_) | split | dsimp only

theorem execRequestCompletion_keeps {irg : Fin 9} {pool : Fin 12} {tag : Nat} {gen : Fin 16} {data : Option (List (BitVec 8))} {races level t : Nat} {s : State} {fin : State} (h : execRequestCompletion irg pool tag gen data races level t s = .next fin) : Keeps True True True False False True True True True False True True True False True False False True s fin := by
  have h_s : Keeps True True True False False True True True True False True True True False True False False True s s := Keeps.refl s
  unfold execRequestCompletion at h
  obtain rfl := Host.Outcome.next.inj h
  try dsimp only
  repeat' first
    | (with_reducible first
      | assumption | apply ite_keeps | apply ite_keeps2 | apply ite_keeps1 | apply State.advance_keeps
      | apply State.bump_keeps | apply State.complete_keeps | apply State.live_keeps | apply State.raise_keeps
      | apply State.setLevel_keeps)
    | (intro _ _ _; try dsimp only) | (intro _ _; try dsimp only) | (intro _; try dsimp only)
    | (apply Keeps.mk; dsimp only; with_reducible refine Keeps.upd ?_) | split | dsimp only

theorem State.reissue_keeps {root : State} {s : State} {r : Request} (h_s : Keeps q1 q2 True q4 q5 q6 q7 q8 q9 q10 True True True q14 q15 q16 q17 q18 root s) : Keeps q1 q2 True q4 q5 q6 q7 q8 q9 q10 True True True q14 q15 q16 q17 q18 root (State.reissue s r) := by
  unfold State.reissue
  try dsimp only
  repeat' first
    | (with_reducible first
      | assumption | apply State.newRequest_keeps)
    | (apply Keeps.mk; dsimp only; with_reducible refine Keeps.upd ?_) | dsimp only

theorem State.preemptRing_keeps {root : State} {s : State} {c : Nat} (h_s : Keeps q1 q2 True q4 q5 q6 q7 q8 True q10 q11 q12 q13 q14 q15 q16 q17 q18 root s) : Keeps q1 q2 True q4 q5 q6 q7 q8 True q10 q11 q12 q13 q14 q15 q16 q17 q18 root (State.preemptRing s c) := by
  unfold State.preemptRing
  try dsimp only
  repeat' first
    | (with_reducible first
      | assumption | apply ite_keeps | apply State.bump_keeps | apply State.modCtx_keeps | apply State.raise_keeps)
    | (intro _ _ _; try dsimp only) | (intro _ _; try dsimp only) | (intro _; try dsimp only)
    | (apply Keeps.mk; dsimp only; with_reducible refine Keeps.upd ?_) | split | dsimp only

theorem execRequestTimeout_keeps {pool : Fin 11} {tag t : Nat} {s : State} {fin : State} (h : execRequestTimeout pool tag t s = .next fin) : Keeps False False True False False True False True True False True True True False False False False False s fin := by
  have h_s : Keeps False False True False False True False True True False True True True False False False False False s s := Keeps.refl s
  unfold execRequestTimeout at h
  obtain rfl := Host.Outcome.next.inj h
  try dsimp only
  repeat' first
    | (with_reducible first
      | assumption | apply ite_keeps | apply ite_keeps2 | apply ite_keeps1 | apply State.advance_keeps
      | apply State.bump_keeps | apply State.furrowLimit_keeps | apply State.grantWaiting_keeps | apply State.live_keeps
      | apply State.preemptRing_keeps | apply State.raise_keeps | apply State.reclaim_keeps | apply State.reissue_keeps
      | apply State.settleIrg_keeps)
    | (intro _ _ _; try dsimp only) | (intro _ _; try dsimp only) | (intro _; try dsimp only)
    | (apply Keeps.mk; dsimp only; with_reducible refine Keeps.upd ?_) | split | dsimp only

theorem State.nextPage_keeps {root : State} {s : State} {fn : Nat} (h_s : Keeps q1 q2 True q4 q5 q6 q7 q8 q9 q10 q11 True q13 q14 q15 q16 q17 q18 root s) : Keeps q1 q2 True q4 q5 q6 q7 q8 q9 q10 q11 True q13 q14 q15 q16 q17 q18 root (State.nextPage s fn) := by
  unfold State.nextPage
  try dsimp only
  repeat' first
    | (with_reducible first
      | assumption | apply State.askPage_keeps)
    | (intro _ _ _; try dsimp only) | (intro _ _; try dsimp only) | (intro _; try dsimp only)
    | (apply Keeps.mk; dsimp only; with_reducible refine Keeps.upd ?_) | split | dsimp only

theorem execPageResponse_keeps {irg : Fin 9} {f : Nat} {ok : Bool} {t : Nat} {s : State} {fin : State} (h : execPageResponse irg f ok t s = .next fin) : Keeps False False True False False True False False True False False True False False False False False False s fin := by
  have h_s : Keeps False False True False False True False False True False False True False False False False False False s s := Keeps.refl s
  unfold execPageResponse at h
  obtain rfl := Host.Outcome.next.inj h
  try dsimp only
  repeat' first
    | (with_reducible first
      | assumption | apply ite_keeps | apply ite_keeps2 | apply ite_keeps1 | apply State.advance_keeps
      | apply State.furrowFault_keeps | apply State.live_keeps | apply State.modFn_keeps | apply State.modFurrow_keeps
      | apply State.nextPage_keeps | apply State.settleIrg_keeps)
    | (intro _ _ _; try dsimp only) | (intro _ _; try dsimp only) | (intro _; try dsimp only)
    | (apply Keeps.mk; dsimp only; with_reducible refine Keeps.upd ?_) | split | dsimp only

theorem execAtsInvalidation_keeps {fn : Fin 9} {page : Nat} {s : State} {fin : State} (h : execAtsInvalidation fn page s = .next fin) : Keeps False False True False False False False False False False False True False False False False False False s fin := by
  have h_s : Keeps False False True False False False False False False False False True False False False False False False s s := Keeps.refl s
  unfold execAtsInvalidation at h
  obtain rfl := Host.Outcome.next.inj h
  try dsimp only
  repeat' first
    | (with_reducible first
      | assumption | apply ite_keeps | apply State.bump_keeps | apply State.emit_keeps | apply State.live_keeps
      | apply State.modFn_keeps)
    | (intro _ _ _; try dsimp only) | (intro _ _; try dsimp only) | (intro _; try dsimp only)
    | (apply Keeps.mk; dsimp only; with_reducible refine Keeps.upd ?_) | split | dsimp only

theorem State.spillPieces_keeps {root : State} : ∀ (y1 : List Piece) {s : State} {k f : Nat} {y0 : Nat} (h_s : Keeps q1 q2 True q4 q5 q6 q7 q8 q9 q10 True True True q14 q15 q16 q17 q18 root s), Keeps q1 q2 True q4 q5 q6 q7 q8 q9 q10 True True True q14 q15 q16 q17 q18 root (State.spillPieces s k f y0 y1) := by
  intro y1
  induction y1 with
  | nil =>
    intros
    unfold State.spillPieces
    repeat' first
      | with_reducible apply ih
      | (with_reducible first
        | assumption | apply State.modFurrow_keeps | apply State.writeRequest_keeps | apply foldl_keeps)
      | (intro _ _ _; try dsimp only) | (intro _ _; try dsimp only) | (intro _; try dsimp only)
      | (apply Keeps.mk; dsimp only; with_reducible refine Keeps.upd ?_) | dsimp only
  
  | cons hd tl ih =>
    intros
    unfold State.spillPieces
    try dsimp only
    repeat' first
      | with_reducible apply ih
      | (with_reducible first
        | assumption | apply State.modFurrow_keeps | apply State.writeRequest_keeps | apply foldl_keeps)
      | (intro _ _ _; try dsimp only) | (intro _ _; try dsimp only) | (intro _; try dsimp only)
      | (apply Keeps.mk; dsimp only; with_reducible refine Keeps.upd ?_) | dsimp only
  
theorem execBufferWaitCycle_keeps {irg : Fin 9} {t : Nat} {s : State} {fin : State} (h : execBufferWaitCycle irg t s = .next fin) : Keeps False False True False False True False False True False True True True False False False False False s fin := by
  have h_s : Keeps False False True False False True False False True False True True True False False False False False s s := Keeps.refl s
  unfold execBufferWaitCycle at h
  obtain rfl := Host.Outcome.next.inj h
  try dsimp only
  repeat' first
    | (with_reducible first
      | assumption | apply ite_keeps | apply ite_keeps2 | apply ite_keeps1 | apply State.advance_keeps
      | apply State.bump_keeps | apply State.bumpBy_keeps | apply State.furrowFault_keeps | apply State.live_keeps
      | apply State.modFurrow_keeps | apply State.raise_keeps | apply State.settleIrg_keeps | apply State.spillPieces_keeps)
    | (intro _ _ _; try dsimp only) | (intro _ _; try dsimp only) | (intro _; try dsimp only)
    | (apply Keeps.mk; dsimp only; with_reducible refine Keeps.upd ?_) | split | dsimp only

theorem execPfcRefresh_keeps {port : Fin 16} {t : Nat} {s : State} {fin : State} (h : execPfcRefresh port t s = .next fin) : Keeps False False True False False True False False True False False True False False False False False False s fin := by
  have h_s : Keeps False False True False False True False False True False False True False False False False False False s s := Keeps.refl s
  unfold execPfcRefresh at h
  obtain rfl := Host.Outcome.next.inj h
  try dsimp only
  repeat' first
    | (with_reducible first
      | assumption | apply ite_keeps | apply ite_keeps2 | apply ite_keeps1 | apply State.advance_keeps
      | apply State.live_keeps | apply State.pauseFrame_keeps)
    | (intro _ _ _; try dsimp only) | (intro _ _; try dsimp only) | (intro _; try dsimp only) | split | dsimp only

theorem execDropRest_keeps {group : Fin 36} {level : Nat} {packet : Option (Nat × Bool)} {s : State} {fin : State} (h : execDropRest group level packet s = .next fin) : Keeps False False True False False False False False False False False True False False False False False False s fin := by
  have h_s : Keeps False False True False False False False False False False False True False False False False False False s s := Keeps.refl s
  unfold execDropRest at h
  obtain rfl := Host.Outcome.next.inj h
  try dsimp only
  repeat' first
    | (with_reducible first
      | assumption | apply State.bump_keeps | apply State.live_keeps | apply State.setLevel_keeps)
    | (intro _ _ _; try dsimp only) | (intro _ _; try dsimp only) | (intro _; try dsimp only)
    | (apply Keeps.mk; dsimp only; with_reducible refine Keeps.upd ?_) | split | dsimp only

theorem execHostWriteCreditTimeout_keeps {irg : Fin 9} {f waited : Nat} {s : State} {fin : State} (h : execHostWriteCreditTimeout irg f waited s = .next fin) : Keeps False False True False False False False True True False False True False False False False False False s fin := by
  have h_s : Keeps False False True False False False False True True False False True False False False False False False s s := Keeps.refl s
  unfold execHostWriteCreditTimeout at h
  obtain rfl := Host.Outcome.next.inj h
  try dsimp only
  repeat' first
    | (with_reducible first
      | assumption | apply ite_keeps | apply ite_keeps2 | apply ite_keeps1 | apply State.bump_keeps
      | apply State.furrowLimit_keeps | apply State.live_keeps)
    | (intro _ _ _; try dsimp only) | (intro _ _; try dsimp only) | (intro _; try dsimp only) | split | dsimp only

theorem execIrgFrwQ_keeps {v : View} {irg : Fin 9} {x : Word} {s : State} {fin : State} (h : execIrgFrwQ v irg x s = .next fin) : Keeps False False True False False False False False False False False True False False False False False False s fin := by
  have h_s : Keeps False False True False False False False False False False False True False False False False False False s s := Keeps.refl s
  unfold execIrgFrwQ at h
  obtain rfl := Host.Outcome.next.inj h
  try dsimp only
  repeat' first
    | (with_reducible first
      | assumption | apply ite_keeps | apply State.commanded_keeps | apply State.dropped_keeps | apply State.live_keeps
      | apply State.modIrg_keeps)
    | (intro _ _ _; try dsimp only) | (intro _ _; try dsimp only) | (intro _; try dsimp only)
    | (apply Keeps.mk; dsimp only; with_reducible refine Keeps.upd ?_) | split | dsimp only

end Sys2Proof.Machine
end

