-- ==== Sys2Proof/Laws/KeepsRing.lean ====
section
/-!
SUPPORT. What the definitions of Machine/Ring.lean keep, each by the definitions it is made of.
-/

namespace Sys2Proof.Machine

open Sys2Proof

set_option Elab.async false

set_option linter.unusedVariables false
set_option linter.unreachableTactic false
set_option linter.unusedTactic false



variable {q1 q2 q3 q4 q5 q6 q7 q8 q9 q10 q11 q12 q13 q14 q15 q16 q17 q18 : Prop}

theorem State.portChange_keeps {root : State} {s : State} {east : Bool} {f : RingPort → RingPort} (h_s : Keeps q1 q2 True q4 q5 q6 q7 q8 q9 q10 True q12 True q14 q15 q16 q17 q18 root s) : Keeps q1 q2 True q4 q5 q6 q7 q8 q9 q10 True q12 True q14 q15 q16 q17 q18 root (State.portChange s east f) := by
  unfold State.portChange
  try dsimp only
  repeat' first
    | (with_reducible first
      | assumption | apply ite_keeps | apply ite_keeps2 | apply ite_keeps1 | apply State.modPort_keeps
      | apply State.raise_keeps | apply State.reroute_keeps)
    | split | dsimp only

theorem State.retrain_keeps {root : State} {s : State} {east : Bool} (h_s : Keeps q1 q2 True q4 q5 q6 q7 q8 q9 q10 True q12 True q14 q15 q16 q17 q18 root s) : Keeps q1 q2 True q4 q5 q6 q7 q8 q9 q10 True q12 True q14 q15 q16 q17 q18 root (State.retrain s east) := by
  unfold State.retrain
  try dsimp only
  repeat' first
    | (with_reducible first
      | assumption | apply State.bump_keeps | apply State.portChange_keeps | apply State.raise_keeps)
    | (intro _ _ _; try dsimp only) | (intro _ _; try dsimp only) | (intro _; try dsimp only)
    | (apply Keeps.mk; dsimp only; with_reducible refine Keeps.upd ?_) | dsimp only

theorem State.forward_keeps {root : State} {s : State} {east : Bool} {bytes : List (BitVec 8)} (h_s : Keeps q1 q2 True q4 q5 q6 q7 q8 q9 q10 True q12 True q14 q15 q16 q17 q18 root s) : Keeps q1 q2 True q4 q5 q6 q7 q8 q9 q10 True q12 True q14 q15 q16 q17 q18 root (State.forward s east bytes) := by
  unfold State.forward
  try dsimp only
  repeat' first
    | (with_reducible first
      | assumption | apply ite_keeps | apply ite_keeps2 | apply ite_keeps1 | apply State.bumpBy_keeps
      | apply State.emit_keeps | apply State.launch_keeps | apply State.modPort_keeps)
    | (intro _ _ _; try dsimp only) | (intro _ _; try dsimp only) | (intro _; try dsimp only)
    | (apply Keeps.mk; dsimp only; with_reducible refine Keeps.upd ?_) | split | dsimp only

theorem State.control_keeps {root : State} {s : State} {east : Bool} {ack : Nat} {nack : Bool} (h_s : Keeps q1 q2 True q4 q5 q6 q7 q8 q9 q10 True q12 True q14 q15 q16 q17 q18 root s) : Keeps q1 q2 True q4 q5 q6 q7 q8 q9 q10 True q12 True q14 q15 q16 q17 q18 root (State.control s east ack nack) := by
  unfold State.control
  try dsimp only
  repeat' first
    | (with_reducible first
      | assumption | apply ite_keeps | apply ite_keeps2 | apply ite_keeps1 | apply State.bumpBy_keeps
      | apply State.emit_keeps | apply State.modPort_keeps | apply foldl_keeps)
    | (intro _ _ _; try dsimp only) | (intro _ _; try dsimp only) | (intro _; try dsimp only)
    | (apply Keeps.mk; dsimp only; with_reducible refine Keeps.upd ?_) | split | dsimp only

theorem execRingFrameReceive_keeps {east crcOk : Bool} {seq ack : Nat} {nack : Bool} {onward : List (List (BitVec 8))} {rxLevel txLevel t : Nat} {s : State} {fin : State} (h : execRingFrameReceive east crcOk seq ack nack onward rxLevel txLevel t s = .next fin) : Keeps False False True False False True False False True False True True True False False False False False s fin := by
  have h_s : Keeps False False True False False True False False True False True True True False False False False False s s := Keeps.refl s
  unfold execRingFrameReceive at h
  obtain rfl := Host.Outcome.next.inj h
  try dsimp only
  repeat' first
    | (with_reducible first
      | assumption | apply ite_keeps | apply ite_keeps2 | apply ite_keeps1 | apply State.advance_keeps
      | apply State.bump_keeps | apply State.control_keeps | apply State.emit_keeps | apply State.forward_keeps
      | apply State.live_keeps | apply State.modPort_keeps | apply State.restDropped_keeps | apply State.setLevel_keeps
      | apply foldl_keeps)
    | (intro _ _ _; try dsimp only) | (intro _ _; try dsimp only) | (intro _; try dsimp only)
    | (apply Keeps.mk; dsimp only; with_reducible refine Keeps.upd ?_) | split | dsimp only

theorem execRingAckTimeout_keeps {east : Bool} {t : Nat} {s : State} {fin : State} (h : execRingAckTimeout east t s = .next fin) : Keeps False False True False False True False False True False True False True False False False False False s fin := by
  have h_s : Keeps False False True False False True False False True False True False True False False False False False s s := Keeps.refl s
  unfold execRingAckTimeout at h
  obtain rfl := Host.Outcome.next.inj h
  try dsimp only
  repeat' first
    | (with_reducible first
      | assumption | apply ite_keeps | apply ite_keeps2 | apply ite_keeps1 | apply State.advance_keeps
      | apply State.live_keeps | apply State.retrain_keeps)
    | (intro _ _ _; try dsimp only) | (intro _ _; try dsimp only) | (intro _; try dsimp only) | split | dsimp only

theorem execRingTrainDone_keeps {link : RingLink} {far : Fin 8} {size rate : Nat} {s : State} {fin : State} (h : execRingTrainDone link far size rate s = .next fin) : Keeps False False True False False False False False False False True False True False False False False False s fin := by
  have h_s : Keeps False False True False False False False False False False True False True False False False False False s s := Keeps.refl s
  unfold execRingTrainDone at h
  obtain rfl := Host.Outcome.next.inj h
  try dsimp only
  repeat' first
    | (with_reducible first
      | assumption | apply ite_keeps | apply ite_keeps2 | apply ite_keeps1 | apply State.live_keeps
      | apply State.portChange_keeps | apply State.raise_keeps | apply State.reroute_keeps)
    | (intro _ _ _; try dsimp only) | (intro _ _; try dsimp only) | (intro _; try dsimp only)
    | (apply Keeps.mk; dsimp only; with_reducible refine Keeps.upd ?_) | split | dsimp only

theorem execRingLinkLoss_keeps {link : RingLink} {s : State} {fin : State} (h : execRingLinkLoss link s = .next fin) : Keeps False False True False False False False False False False True False True False False False False False s fin := by
  have h_s : Keeps False False True False False False False False False False True False True False False False False False s s := Keeps.refl s
  unfold execRingLinkLoss at h
  obtain rfl := Host.Outcome.next.inj h
  try dsimp only
  repeat' first
    | (with_reducible first
      | assumption | apply State.live_keeps | apply State.portChange_keeps | apply State.reroute_keeps)
    | (intro _ _ _; try dsimp only) | (intro _ _; try dsimp only) | (intro _; try dsimp only)
    | (apply Keeps.mk; dsimp only; with_reducible refine Keeps.upd ?_) | split | dsimp only

theorem execLaneSwap_keeps {east : Bool} {lane : Fin 8} {s : State} {fin : State} (h : execLaneSwap east lane s = .next fin) : Keeps False False True True True False False False False False True False True False False False False False s fin := by
  have h_s : Keeps False False True True True False False False False False True False True False False False False False s s := Keeps.refl s
  unfold execLaneSwap at h
  obtain rfl := Host.Outcome.next.inj h
  try dsimp only
  repeat' first
    | (with_reducible first
      | assumption | apply ite_keeps | apply ite_keeps2 | apply ite_keeps1 | apply State.live_keeps
      | apply State.modPort_keeps | apply State.raise_keeps | apply State.record_keeps | apply State.retrain_keeps)
    | (intro _ _ _; try dsimp only) | (intro _ _; try dsimp only) | (intro _; try dsimp only)
    | (apply Keeps.mk; dsimp only; with_reducible refine Keeps.upd ?_) | split | dsimp only

theorem execRouteAway_keeps {v : View} {east : Bool} {s : State} {fin : State} (h : execRouteAway v east s = .next fin) : Keeps False False True False False False False False False False True False True False False False False False s fin := by
  have h_s : Keeps False False True False False False False False False False True False True False False False False False s s := Keeps.refl s
  unfold execRouteAway at h
  obtain rfl := Host.Outcome.next.inj h
  try dsimp only
  repeat' first
    | (with_reducible first
      | assumption | apply State.commanded_keeps | apply State.live_keeps | apply State.portChange_keeps)
    | (intro _ _ _; try dsimp only) | (intro _ _; try dsimp only) | (intro _; try dsimp only)
    | (apply Keeps.mk; dsimp only; with_reducible refine Keeps.upd ?_) | dsimp only

theorem execResume_keeps {v : View} {east : Bool} {s : State} {fin : State} (h : execResume v east s = .next fin) : Keeps False False True False False False False False False False True False True False False False False False s fin := by
  have h_s : Keeps False False True False False False False False False False True False True False False False False False s s := Keeps.refl s
  unfold execResume at h
  obtain rfl := Host.Outcome.next.inj h
  try dsimp only
  repeat' first
    | (with_reducible first
      | assumption | apply State.commanded_keeps | apply State.live_keeps | apply State.portChange_keeps)
    | (intro _ _ _; try dsimp only) | (intro _ _; try dsimp only) | (intro _; try dsimp only)
    | (apply Keeps.mk; dsimp only; with_reducible refine Keeps.upd ?_) | dsimp only

theorem execRouteAwayDone_keeps {east : Bool} {s : State} {fin : State} (h : execRouteAwayDone east s = .next fin) : Keeps False False True False False False False False False False True False True False False False False False s fin := by
  have h_s : Keeps False False True False False False False False False False True False True False False False False False s s := Keeps.refl s
  unfold execRouteAwayDone at h
  obtain rfl := Host.Outcome.next.inj h
  try dsimp only
  repeat' first
    | (with_reducible first
      | assumption | apply ite_keeps | apply ite_keeps2 | apply ite_keeps1 | apply State.live_keeps
      | apply State.modPort_keeps | apply State.raise_keeps)
    | (intro _ _ _; try dsimp only) | (intro _ _; try dsimp only) | (intro _; try dsimp only)
    | (apply Keeps.mk; dsimp only; with_reducible refine Keeps.upd ?_) | split | dsimp only

theorem State.openPacket_keeps {root : State} {s : State} {h : Nat} {body : List (BitVec 8)} (h_s : Keeps q1 q2 True q4 q5 q6 q7 q8 q9 q10 q11 q12 True q14 q15 q16 q17 q18 root s) : Keeps q1 q2 True q4 q5 q6 q7 q8 q9 q10 q11 q12 True q14 q15 q16 q17 q18 root (State.openPacket s h body).2 := by
  unfold State.openPacket
  try dsimp only
  repeat' first
    | (with_reducible first
      | assumption | apply ite_keeps | apply ite_keeps2 | apply ite_keeps1 | apply ite_keeps22 | apply State.bump_keeps
      | apply State.raise_keeps)
    | (apply Keeps.mk; dsimp only; with_reducible refine Keeps.upd ?_) | split | dsimp only

theorem State.respond_keeps {root : State} {s : State} {h status : Nat} {data : List (BitVec 8)} (h_s : Keeps q1 q2 True q4 q5 q6 q7 q8 q9 q10 True q12 True q14 q15 q16 q17 q18 root s) : Keeps q1 q2 True q4 q5 q6 q7 q8 q9 q10 True q12 True q14 q15 q16 q17 q18 root (State.respond s h status data) := by
  unfold State.respond
  try dsimp only
  repeat' first
    | (with_reducible first
      | assumption | apply State.sendPacket_keeps)
    | dsimp only

theorem State.serveRing_keeps {root : State} {s : State} {h : Nat} {body : List (BitVec 8)} {write : Bool} {f : Place → Nat → List (BitVec 8) → State → State} (h_s : Keeps q1 q2 True q4 q5 q6 q7 q8 q9 q10 True q12 True q14 q15 q16 q17 q18 root s) (h_f : ∀ (x0 : Place) (x1 : Nat) (x2 : List (BitVec 8)) (x3 : State), Keeps q1 q2 True q4 q5 q6 q7 q8 q9 q10 True q12 True q14 q15 q16 q17 q18 root x3 → Keeps q1 q2 True q4 q5 q6 q7 q8 q9 q10 True q12 True q14 q15 q16 q17 q18 root (f x0 x1 x2 x3)) : Keeps q1 q2 True q4 q5 q6 q7 q8 q9 q10 True q12 True q14 q15 q16 q17 q18 root (State.serveRing s h body write f) := by
  unfold State.serveRing
  try dsimp only
  repeat' first
    | (with_reducible first
      | assumption | apply ite_keeps | apply ite_keeps2 | apply ite_keeps1 | apply h_f | apply State.bump_keeps
      | apply State.bumpBy_keeps | apply State.openPacket_keeps | apply State.respond_keeps)
    | (intro _ _ _; try dsimp only) | (intro _ _; try dsimp only) | (intro _; try dsimp only)
    | (apply Keeps.mk; dsimp only; with_reducible refine Keeps.upd ?_) | split | dsimp only

theorem execRingRead_keeps {h : Nat} {body : List (BitVec 8)} {s : State} {fin : State} (h : execRingRead h body s = .next fin) : Keeps False False True False False False True True True False True False True False True False False False s fin := by
  have h_s : Keeps False False True False False False True True True False True False True False True False False False s s := Keeps.refl s
  unfold execRingRead at h
  obtain rfl := Host.Outcome.next.inj h
  try dsimp only
  repeat' first
    | (with_reducible first
      | assumption | apply State.dramRead_keeps | apply State.live_keeps | apply State.respond_keeps
      | apply State.serveRing_keeps | apply State.sproutBytes_keeps | apply State.storeBytes_keeps)
    | (intro _ _ _; try dsimp only) | (intro _ _; try dsimp only) | (intro _; try dsimp only)
    | (apply Keeps.mk; dsimp only; with_reducible refine Keeps.upd ?_) | split | dsimp only

theorem execRingWrite_keeps {h : Nat} {body : List (BitVec 8)} {s : State} {fin : State} (h : execRingWrite h body s = .next fin) : Keeps True True True False False False True True True False True False True False True False False True s fin := by
  have h_s : Keeps True True True False False False True True True False True False True False True False False True s s := Keeps.refl s
  unfold execRingWrite at h
  obtain rfl := Host.Outcome.next.inj h
  try dsimp only
  repeat' first
    | (with_reducible first
      | assumption | apply State.bedPut_keeps | apply State.dramWrite_keeps | apply State.live_keeps
      | apply State.respond_keeps | apply State.serveRing_keeps | apply State.sproutPut_keeps | apply State.storePut_keeps
      | apply State.wsetTouch_keeps)
    | (intro _ _ _; try dsimp only) | (intro _ _; try dsimp only) | (intro _; try dsimp only)
    | (apply Keeps.mk; dsimp only; with_reducible refine Keeps.upd ?_) | split | dsimp only

theorem execRingResp_keeps {east : Bool} {h : Nat} {body : List (BitVec 8)} {t : Nat} {s : State} {fin : State} (h : execRingResp east h body t s = .next fin) : Keeps True True True False False True True True True False True True True False True False False True s fin := by
  have h_s : Keeps True True True False False True True True True False True True True False True False False True s s := Keeps.refl s
  unfold execRingResp at h
  obtain rfl := Host.Outcome.next.inj h
  try dsimp only
  repeat' first
    | (with_reducible first
      | assumption | apply ite_keeps | apply ite_keeps2 | apply ite_keeps1 | apply State.advance_keeps
      | apply State.bump_keeps | apply State.bumpBy_keeps | apply State.complete_keeps | apply State.dropRequest_keeps
      | apply State.furrowFault_keeps | apply State.grantWaiting_keeps | apply State.live_keeps
      | apply State.openPacket_keeps | apply State.raise_keeps | apply State.settleIrg_keeps)
    | (intro _ _ _; try dsimp only) | (intro _ _; try dsimp only) | (intro _; try dsimp only)
    | (apply Keeps.mk; dsimp only; with_reducible refine Keeps.upd ?_) | split | dsimp only

theorem execNotResidentResend_keeps {east : Bool} {tag : Fin 256} {t : Nat} {s : State} {fin : State} (h : execNotResidentResend east tag t s = .next fin) : Keeps False False True False False True False False True False True True True False False False False False s fin := by
  have h_s : Keeps False False True False False True False False True False True True True False False False False False s s := Keeps.refl s
  unfold execNotResidentResend at h
  obtain rfl := Host.Outcome.next.inj h
  try dsimp only
  repeat' first
    | (with_reducible first
      | assumption | apply ite_keeps | apply ite_keeps2 | apply ite_keeps1 | apply State.advance_keeps
      | apply State.live_keeps | apply State.send_keeps)
    | (intro _ _ _; try dsimp only) | (intro _ _; try dsimp only) | (intro _; try dsimp only)
    | (apply Keeps.mk; dsimp only; with_reducible refine Keeps.upd ?_) | split | dsimp only

end Sys2Proof.Machine
end

