-- ==== Sys2Proof/Laws/KeepsRmsOps.lean ====
section
/-!
SUPPORT. What the definitions of Machine/RmsOps.lean keep, each by the definitions it is made of.
-/

namespace Sys2Proof.Machine

open Sys2Proof

set_option Elab.async false

set_option linter.unusedVariables false
set_option linter.unreachableTactic false
set_option linter.unusedTactic false



variable {q1 q2 q3 q4 q5 q6 q7 q8 q9 q10 q11 q12 q13 q14 q15 q16 q17 q18 : Prop}

theorem State.modStep_keeps {root : State} {s : State} {c n : Nat} {f : StepSt → StepSt} (h_s : Keeps q1 q2 q3 q4 q5 q6 q7 q8 True q10 q11 q12 q13 q14 q15 q16 q17 q18 root s) : Keeps q1 q2 q3 q4 q5 q6 q7 q8 True q10 q11 q12 q13 q14 q15 q16 q17 q18 root (State.modStep s c n f) := by
  unfold State.modStep
  try dsimp only
  repeat' first
    | (with_reducible first
      | assumption | apply ite_keeps | apply State.modCtx_keeps)
    | (intro _ _ _; try dsimp only) | (intro _ _; try dsimp only) | (intro _; try dsimp only)
    | (apply Keeps.mk; dsimp only; with_reducible refine Keeps.upd ?_) | split | dsimp only

theorem State.harvestGrant_keeps {root : State} {s : State} {c n : Nat} {k x : Nat} (h_s : Keeps q1 q2 True q4 q5 q6 q7 q8 True q10 q11 q12 q13 q14 q15 q16 q17 q18 root s) : Keeps q1 q2 True q4 q5 q6 q7 q8 True q10 q11 q12 q13 q14 q15 q16 q17 q18 root (State.harvestGrant s c n k x) := by
  unfold State.harvestGrant
  try dsimp only
  repeat' first
    | (with_reducible first
      | assumption | apply ite_keeps | apply State.modStep_keeps | apply State.pushHarvest_keeps)
    | (intro _ _ _; try dsimp only) | (intro _ _; try dsimp only) | (intro _; try dsimp only)
    | (apply Keeps.mk; dsimp only; with_reducible refine Keeps.upd ?_) | split | dsimp only

theorem State.harvestAll_keeps {root : State} {s : State} {c n status : Nat} (h_s : Keeps q1 q2 True q4 q5 q6 q7 q8 True q10 q11 q12 q13 q14 q15 q16 q17 q18 root s) : Keeps q1 q2 True q4 q5 q6 q7 q8 True q10 q11 q12 q13 q14 q15 q16 q17 q18 root (State.harvestAll s c n status) := by
  unfold State.harvestAll
  try dsimp only
  repeat' first
    | (with_reducible first
      | assumption | apply ite_keeps | apply State.harvestGrant_keeps | apply foldl_keeps)
    | (intro _ _ _; try dsimp only) | (intro _ _; try dsimp only) | (intro _; try dsimp only)
    | (apply Keeps.mk; dsimp only; with_reducible refine Keeps.upd ?_) | split | dsimp only

theorem State.leaveSprout_keeps {root : State} {s : State} {i : SproutId} (h_s : Keeps True True q3 q4 q5 q6 q7 q8 q9 q10 q11 q12 q13 q14 q15 q16 q17 True root s) : Keeps True True q3 q4 q5 q6 q7 q8 q9 q10 q11 q12 q13 q14 q15 q16 q17 True root (State.leaveSprout s i) := by
  unfold State.leaveSprout
  try dsimp only
  repeat' first
    | (with_reducible first
      | assumption | apply ite_keeps | apply State.zeroSprout_keeps)
    | (apply Keeps.mk; dsimp only; with_reducible refine Keeps.upd ?_) | split | dsimp only

theorem State.setDeficit_keeps {root : State} {s : State} {e slot : Nat} {d : Int} (h_s : Keeps q1 q2 q3 q4 q5 q6 q7 q8 True q10 q11 q12 q13 q14 q15 q16 q17 q18 root s) : Keeps q1 q2 q3 q4 q5 q6 q7 q8 True q10 q11 q12 q13 q14 q15 q16 q17 q18 root (State.setDeficit s e slot d) := by
  unfold State.setDeficit
  try dsimp only
  repeat' first
    | (with_reducible first
      | assumption)
    | (apply Keeps.mk; dsimp only; with_reducible refine Keeps.upd ?_) | dsimp only

theorem State.chooseTier_keeps {root : State} : ∀ (y0 : Nat) {e : Nat} {bg : Bool} {y1 : State} (h_y1 : Keeps q1 q2 q3 q4 q5 q6 q7 q8 True q10 q11 q12 q13 q14 q15 q16 q17 q18 root y1), Keeps q1 q2 q3 q4 q5 q6 q7 q8 True q10 q11 q12 q13 q14 q15 q16 q17 q18 root (State.chooseTier e bg y0 y1).2 := by
  intro y0
  induction y0 with
  | zero =>
    intros
    unfold State.chooseTier
    repeat' first
      | with_reducible apply ih
      | (with_reducible first
        | assumption | apply ite_keeps | apply ite_keeps2 | apply ite_keeps1 | apply State.setDeficit_keeps)
      | (apply Keeps.mk; dsimp only; with_reducible refine Keeps.upd ?_) | split | dsimp only
  
  | succ m ih =>
    intros
    unfold State.chooseTier
    try dsimp only
    repeat' first
      | with_reducible apply ih
      | (with_reducible first
        | assumption | apply ite_keeps | apply ite_keeps2 | apply ite_keeps1 | apply State.setDeficit_keeps)
      | (apply Keeps.mk; dsimp only; with_reducible refine Keeps.upd ?_) | split | dsimp only
  
theorem State.choose_keeps {root : State} {s : State} {e : Nat} (h_s : Keeps q1 q2 q3 q4 q5 q6 q7 q8 True q10 q11 q12 q13 q14 q15 q16 q17 q18 root s) : Keeps q1 q2 q3 q4 q5 q6 q7 q8 True q10 q11 q12 q13 q14 q15 q16 q17 q18 root (State.choose s e).2 := by
  unfold State.choose
  try dsimp only
  repeat' first
    | (with_reducible first
      | assumption | apply ite_keeps | apply ite_keeps2 | apply ite_keeps1 | apply State.chooseTier_keeps)
    | (intro _ _ _; try dsimp only) | (intro _ _; try dsimp only) | (intro _; try dsimp only)
    | (apply Keeps.mk; dsimp only; with_reducible refine Keeps.upd ?_) | split | dsimp only

theorem State.charge_keeps {root : State} {s : State} {c : Nat} {e : Option Nat} {steps : Nat} (h_s : Keeps q1 q2 q3 q4 q5 q6 q7 q8 True q10 q11 q12 q13 q14 q15 q16 q17 q18 root s) : Keeps q1 q2 q3 q4 q5 q6 q7 q8 True q10 q11 q12 q13 q14 q15 q16 q17 q18 root (State.charge s c e steps) := by
  unfold State.charge
  try dsimp only
  repeat' first
    | (with_reducible first
      | assumption | apply State.modCtx_keeps | apply State.setDeficit_keeps)
    | (intro _ _ _; try dsimp only) | (intro _ _; try dsimp only) | (intro _; try dsimp only)
    | (apply Keeps.mk; dsimp only; with_reducible refine Keeps.upd ?_) | split | dsimp only

theorem State.resetSieve_keeps {root : State} {s : State} {n : Nat} (h_s : Keeps q1 q2 q3 q4 q5 q6 True q8 q9 q10 q11 q12 q13 q14 q15 q16 q17 q18 root s) : Keeps q1 q2 q3 q4 q5 q6 True q8 q9 q10 q11 q12 q13 q14 q15 q16 q17 q18 root (State.resetSieve s n) := by
  unfold State.resetSieve
  try dsimp only
  repeat' first
    | (with_reducible first
      | assumption | apply State.modPlot_keeps)
    | (intro _ _ _; try dsimp only) | (intro _ _; try dsimp only) | (intro _; try dsimp only)
    | (apply Keeps.mk; dsimp only; with_reducible refine Keeps.upd ?_) | dsimp only

theorem State.beginSwapOut_keeps {root : State} {s : State} {c : Nat} (h_s : Keeps q1 q2 True q4 q5 q6 q7 q8 True q10 q11 q12 q13 q14 q15 q16 q17 True root s) : Keeps q1 q2 True q4 q5 q6 q7 q8 True q10 q11 q12 q13 q14 q15 q16 q17 True root (State.beginSwapOut s c) := by
  unfold State.beginSwapOut
  try dsimp only
  repeat' first
    | (with_reducible first
      | assumption | apply State.bump_keeps | apply State.modCtx_keeps | apply State.preemptSprouts_keeps)
    | (intro _ _ _; try dsimp only) | (intro _ _; try dsimp only) | (intro _; try dsimp only)
    | (apply Keeps.mk; dsimp only; with_reducible refine Keeps.upd ?_) | dsimp only

theorem State.takeSlot_keeps {root : State} {s : State} {c k : Nat} (h_s : Keeps q1 q2 q3 q4 q5 q6 q7 q8 True q10 q11 q12 q13 q14 q15 q16 q17 q18 root s) : Keeps q1 q2 q3 q4 q5 q6 q7 q8 True q10 q11 q12 q13 q14 q15 q16 q17 q18 root (State.takeSlot s c k) := by
  unfold State.takeSlot
  try dsimp only
  repeat' first
    | (with_reducible first
      | assumption | apply State.modCtx_keeps)
    | (intro _ _ _; try dsimp only) | (intro _ _; try dsimp only) | (intro _; try dsimp only)
    | (apply Keeps.mk; dsimp only; with_reducible refine Keeps.upd ?_) | dsimp only

theorem State.findSlot_keeps {root : State} {s : State} {c : Nat} (h_s : Keeps q1 q2 True q4 q5 q6 q7 q8 True q10 q11 q12 q13 q14 q15 q16 q17 True root s) : Keeps q1 q2 True q4 q5 q6 q7 q8 True q10 q11 q12 q13 q14 q15 q16 q17 True root (State.findSlot s c) := by
  unfold State.findSlot
  try dsimp only
  repeat' first
    | (with_reducible first
      | assumption | apply ite_keeps | apply ite_keeps2 | apply ite_keeps1 | apply State.beginSwapOut_keeps
      | apply State.modCtx_keeps | apply State.takeSlot_keeps)
    | (intro _ _ _; try dsimp only) | (intro _ _; try dsimp only) | (intro _; try dsimp only)
    | (apply Keeps.mk; dsimp only; with_reducible refine Keeps.upd ?_) | split | dsimp only

theorem State.retryDeferred_keeps {root : State} {s : State} (h_s : Keeps q1 q2 True q4 q5 q6 q7 q8 True q10 q11 q12 q13 q14 q15 q16 q17 True root s) : Keeps q1 q2 True q4 q5 q6 q7 q8 True q10 q11 q12 q13 q14 q15 q16 q17 True root (State.retryDeferred s) := by
  unfold State.retryDeferred
  try dsimp only
  repeat' first
    | (with_reducible first
      | assumption | apply ite_keeps | apply State.findSlot_keeps | apply foldl_keeps)
    | (intro _ _ _; try dsimp only) | (intro _ _; try dsimp only) | (intro _; try dsimp only) | split | dsimp only

theorem State.freeSlot_keeps {root : State} {s : State} {k : Nat} (h_s : Keeps q1 q2 q3 q4 q5 q6 q7 q8 True q10 q11 q12 q13 q14 q15 q16 q17 q18 root s) : Keeps q1 q2 q3 q4 q5 q6 q7 q8 True q10 q11 q12 q13 q14 q15 q16 q17 q18 root (State.freeSlot s k) := by
  unfold State.freeSlot
  try dsimp only
  repeat' first
    | (with_reducible first
      | assumption | apply State.takeSlot_keeps)
    | (intro _ _ _; try dsimp only) | (intro _ _; try dsimp only) | (intro _; try dsimp only)
    | (apply Keeps.mk; dsimp only; with_reducible refine Keeps.upd ?_) | split | dsimp only

theorem State.actPut_keeps {root : State} {s : State} {p : Page} {off x : Nat} (h_s : Keeps q1 q2 q3 True True q6 q7 q8 q9 q10 q11 q12 q13 q14 q15 q16 q17 q18 root s) : Keeps q1 q2 q3 True True q6 q7 q8 q9 q10 q11 q12 q13 q14 q15 q16 q17 q18 root (State.actPut s p off x) := by
  unfold State.actPut
  try dsimp only
  repeat' first
    | (with_reducible first
      | assumption)
    | (apply Keeps.mk; dsimp only; with_reducible refine Keeps.upd ?_) | dsimp only

theorem State.clearPlotWindows_keeps {root : State} {s : State} {c n : Nat} {kill : Bool} (h_s : Keeps True True True True True q6 True True True q10 q11 True q13 True q15 q16 q17 True root s) : Keeps True True True True True q6 True True True q10 q11 True q13 True q15 q16 q17 True root (State.clearPlotWindows s c n kill) := by
  unfold State.clearPlotWindows
  try dsimp only
  repeat' first
    | (with_reducible first
      | assumption | apply ite_keeps | apply ite_keeps2 | apply ite_keeps1 | apply State.actPut_keeps
      | apply State.kill_keeps | apply State.nextZeroOrder_keeps | apply State.winLeave_keeps | apply foldl_keeps)
    | (intro _ _ _; try dsimp only) | (intro _ _; try dsimp only) | (intro _; try dsimp only)
    | (apply Keeps.mk; dsimp only; with_reducible refine Keeps.upd ?_) | split | dsimp only

theorem State.clearWindows_keeps {root : State} {s : State} {c : Nat} {kill : Bool} (h_s : Keeps True True True True True q6 True True True q10 q11 True q13 True q15 q16 q17 True root s) : Keeps True True True True True q6 True True True q10 q11 True q13 True q15 q16 q17 True root (State.clearWindows s c kill) := by
  unfold State.clearWindows
  try dsimp only
  repeat' first
    | (with_reducible first
      | assumption | apply State.clearPlotWindows_keeps | apply State.kill_keeps | apply foldl_keeps)
    | (intro _ _ _; try dsimp only) | (intro _ _; try dsimp only) | (intro _; try dsimp only) | dsimp only

theorem State.restagePace_keeps {root : State} {s : State} (h_s : Keeps q1 q2 True True True q6 q7 True q9 q10 q11 q12 q13 q14 q15 q16 q17 q18 root s) : Keeps q1 q2 True True True q6 q7 True q9 q10 q11 q12 q13 q14 q15 q16 q17 q18 root (State.restagePace s) := by
  unfold State.restagePace
  try dsimp only
  repeat' first
    | (with_reducible first
      | assumption | apply ite_keeps | apply ite_keeps2 | apply ite_keeps1 | apply State.actPut_keeps
      | apply State.plan_keeps | apply foldl_keeps)
    | (intro _ _ _; try dsimp only) | (intro _ _; try dsimp only) | (intro _; try dsimp only)
    | (apply Keeps.mk; dsimp only; with_reducible refine Keeps.upd ?_) | split | dsimp only

theorem State.tightLog_keeps {root : State} {s : State} {c : Nat} {y : StepSt} {cause allocs : Nat} (h_s : Keeps True True True q4 q5 q6 q7 True True q10 q11 q12 q13 q14 True q16 q17 q18 root s) : Keeps True True True q4 q5 q6 q7 True True q10 q11 q12 q13 q14 True q16 q17 q18 root (State.tightLog s c y cause allocs) := by
  unfold State.tightLog
  try dsimp only
  repeat' first
    | (with_reducible first
      | assumption | apply ite_keeps | apply ite_keeps2 | apply ite_keeps1 | apply State.dramWrite_keeps
      | apply State.plan_keeps | apply State.raise_keeps | apply State.record_keeps)
    | (apply Keeps.mk; dsimp only; with_reducible refine Keeps.upd ?_) | split | dsimp only

theorem State.paceStale_keeps {root : State} {s : State} {b : List (BitVec 8)} (h_s : Keeps q1 q2 True q4 q5 q6 q7 q8 q9 q10 q11 q12 q13 q14 q15 q16 q17 q18 root s) : Keeps q1 q2 True q4 q5 q6 q7 q8 q9 q10 q11 q12 q13 q14 q15 q16 q17 q18 root (State.paceStale s b) := by
  unfold State.paceStale
  try dsimp only
  repeat' first
    | (with_reducible first
      | assumption | apply ite_keeps | apply ite_keeps2 | apply ite_keeps1 | apply State.raise_keeps)
    | split | dsimp only

theorem State.tightGrant_keeps {root : State} {s : State} {c n kind cost : Nat} (h_s : Keeps True True True q4 q5 q6 q7 True True q10 q11 q12 q13 q14 True q16 q17 q18 root s) : Keeps True True True q4 q5 q6 q7 True True q10 q11 q12 q13 q14 True q16 q17 q18 root (State.tightGrant s c n kind cost).2 := by
  unfold State.tightGrant
  try dsimp only
  repeat' first
    | (with_reducible first
      | assumption | apply ite_keeps | apply ite_keeps2 | apply ite_keeps1 | apply State.bump_keeps
      | apply State.modStep_keeps | apply State.paceStale_keeps | apply State.plan_keeps | apply State.raise_keeps
      | apply State.tightLog_keeps)
    | (intro _ _ _; try dsimp only) | (intro _ _; try dsimp only) | (intro _; try dsimp only)
    | (apply Keeps.mk; dsimp only; with_reducible refine Keeps.upd ?_) | split | dsimp only

theorem State.grantDone_keeps {root : State} {s : State} {c n cost : Nat} (h_s : Keeps q1 q2 q3 q4 q5 q6 q7 q8 True q10 q11 q12 q13 q14 q15 q16 q17 q18 root s) : Keeps q1 q2 q3 q4 q5 q6 q7 q8 True q10 q11 q12 q13 q14 q15 q16 q17 q18 root (State.grantDone s c n cost) := by
  unfold State.grantDone
  try dsimp only
  repeat' first
    | (with_reducible first
      | assumption | apply State.modStep_keeps)
    | (intro _ _ _; try dsimp only) | (intro _ _; try dsimp only) | (intro _; try dsimp only)
    | (apply Keeps.mk; dsimp only; with_reducible refine Keeps.upd ?_) | dsimp only

theorem State.astSet_keeps {root : State} {s : State} {c : Nat} {y : StepSt} {client grid seg bits : Nat} (h_s : Keeps True True True q4 q5 q6 True True True q10 q11 q12 q13 q14 q15 q16 q17 q18 root s) : Keeps True True True q4 q5 q6 True True True q10 q11 q12 q13 q14 q15 q16 q17 q18 root (State.astSet s c y client grid seg bits) := by
  unfold State.astSet
  try dsimp only
  repeat' first
    | (with_reducible first
      | assumption | apply State.winWrite_keeps)
    | (apply Keeps.mk; dsimp only; with_reducible refine Keeps.upd ?_) | split | dsimp only

theorem State.fallBack_keeps {root : State} {s : State} {c n client bit' : Nat} {segs : List Nat} (h_s : Keeps True True True q4 q5 q6 True True True q10 q11 q12 q13 q14 q15 q16 q17 q18 root s) : Keeps True True True q4 q5 q6 True True True q10 q11 q12 q13 q14 q15 q16 q17 q18 root (State.fallBack s c n client bit' segs) := by
  unfold State.fallBack
  try dsimp only
  repeat' first
    | (with_reducible first
      | assumption | apply ite_keeps | apply ite_keeps2 | apply ite_keeps1 | apply State.astSet_keeps
      | apply State.record_keeps | apply foldl_keeps)
    | (intro _ _ _; try dsimp only) | (intro _ _; try dsimp only) | (intro _; try dsimp only)
    | (apply Keeps.mk; dsimp only; with_reducible refine Keeps.upd ?_) | split | dsimp only

end Sys2Proof.Machine
end

