-- ==== Sys2Proof/Laws/KeepsBigTop.lean ====
section
/-!
SUPPORT. What the definitions of Machine/BigTop.lean keep, each by the definitions it is made of.
-/

namespace Sys2Proof.Machine

open Sys2Proof

set_option Elab.async false

set_option linter.unusedVariables false
set_option linter.unreachableTactic false
set_option linter.unusedTactic false



variable {q1 q2 q3 q4 q5 q6 q7 q8 q9 q10 q11 q12 q13 q14 q15 q16 q17 q18 : Prop}

theorem State.modBtp_keeps {root : State} {s : State} {n : Nat} {f : BigTop → BigTop} (h_s : Keeps q1 q2 q3 q4 q5 q6 True q8 q9 q10 q11 q12 q13 q14 q15 q16 q17 q18 root s) : Keeps q1 q2 q3 q4 q5 q6 True q8 q9 q10 q11 q12 q13 q14 q15 q16 q17 q18 root (State.modBtp s n f) := by
  unfold State.modBtp
  try dsimp only
  repeat' first
    | (with_reducible first
      | assumption | apply State.modPlot_keeps)
    | (intro _ _ _; try dsimp only) | (intro _ _; try dsimp only) | (intro _; try dsimp only)
    | (apply Keeps.mk; dsimp only; with_reducible refine Keeps.upd ?_) | dsimp only

theorem State.readTile_keeps {root : State} {s : State} {n : Nat} {t : Tile} (h_s : Keeps q1 q2 True q4 q5 q6 True True True q10 q11 q12 q13 q14 q15 q16 q17 q18 root s) : Keeps q1 q2 True q4 q5 q6 True True True q10 q11 q12 q13 q14 q15 q16 q17 q18 root (State.readTile s n t).2 := by
  unfold State.readTile
  try dsimp only
  repeat' first
    | (with_reducible first
      | assumption | apply State.winRead_keeps | apply foldl_keeps | apply foldl_keeps2 | apply foldl_keeps1
      | apply foldl_keeps22)
    | (intro _ _ _; try dsimp only) | (intro _ _; try dsimp only) | (intro _; try dsimp only)
    | (apply Keeps.mk; dsimp only; with_reducible refine Keeps.upd ?_) | split | dsimp only

theorem State.stageLocalise_keeps {root : State} {s : State} {n : Nat} (h_s : Keeps q1 q2 q3 q4 q5 q6 True q8 q9 q10 q11 q12 q13 q14 q15 q16 q17 q18 root s) : Keeps q1 q2 q3 q4 q5 q6 True q8 q9 q10 q11 q12 q13 q14 q15 q16 q17 q18 root (State.stageLocalise s n) := by
  unfold State.stageLocalise
  try dsimp only
  repeat' first
    | (with_reducible first
      | assumption | apply ite_keeps | apply State.modBtp_keeps)
    | (intro _ _ _; try dsimp only) | (intro _ _; try dsimp only) | (intro _; try dsimp only)
    | (apply Keeps.mk; dsimp only; with_reducible refine Keeps.upd ?_) | split | dsimp only

theorem State.setSuspect_keeps {root : State} {s : State} {n : Nat} (h_s : Keeps q1 q2 q3 q4 q5 q6 True q8 q9 q10 q11 q12 q13 q14 q15 q16 q17 q18 root s) : Keeps q1 q2 q3 q4 q5 q6 True q8 q9 q10 q11 q12 q13 q14 q15 q16 q17 q18 root (State.setSuspect s n) := by
  unfold State.setSuspect
  try dsimp only
  repeat' first
    | (with_reducible first
      | assumption | apply ite_keeps | apply State.modBtp_keeps | apply State.stageLocalise_keeps)
    | (intro _ _ _; try dsimp only) | (intro _ _; try dsimp only) | (intro _; try dsimp only)
    | (apply Keeps.mk; dsimp only; with_reducible refine Keeps.upd ?_) | split | dsimp only

theorem State.btpFault_keeps {root : State} {s : State} {n kind action : Nat} {ctx : Option Nat} {detail : Nat} (h_s : Keeps q1 q2 q3 q4 q5 q6 q7 True q9 q10 q11 q12 q13 q14 q15 q16 q17 q18 root s) : Keeps q1 q2 q3 q4 q5 q6 q7 True q9 q10 q11 q12 q13 q14 q15 q16 q17 q18 root (State.btpFault s n kind action ctx detail) := by
  unfold State.btpFault
  try dsimp only
  repeat' first
    | (with_reducible first
      | assumption | apply State.toFlt_keeps)
    | dsimp only

theorem State.loadChecked_keeps {root : State} {s : State} {n ctx first second : Nat} (h_s : Keeps q1 q2 True q4 q5 q6 True True q9 q10 q11 q12 q13 q14 q15 q16 q17 q18 root s) : Keeps q1 q2 True q4 q5 q6 True True q9 q10 q11 q12 q13 q14 q15 q16 q17 q18 root (State.loadChecked s n ctx first second) := by
  unfold State.loadChecked
  try dsimp only
  repeat' first
    | (with_reducible first
      | assumption | apply ite_keeps | apply ite_keeps2 | apply ite_keeps1 | apply State.btpFault_keeps
      | apply State.bump_keeps | apply State.bumpBy_keeps | apply State.raise_keeps | apply State.setSuspect_keeps)
    | split | dsimp only

theorem State.reloadTile_keeps {root : State} {s : State} {n : Nat} {t : Tile} {first second : Nat} (h_s : Keeps q1 q2 True q4 q5 q6 True True True q10 q11 q12 q13 q14 q15 q16 q17 q18 root s) : Keeps q1 q2 True q4 q5 q6 True True True q10 q11 q12 q13 q14 q15 q16 q17 q18 root (State.reloadTile s n t first second).2 := by
  unfold State.reloadTile
  try dsimp only
  repeat' first
    | (with_reducible first
      | assumption | apply ite_keeps | apply ite_keeps2 | apply ite_keeps1 | apply State.loadChecked_keeps
      | apply State.readRow_keeps | apply foldl_keeps | apply foldl_keeps2 | apply foldl_keeps1 | apply foldl_keeps22)
    | (intro _ _ _; try dsimp only) | (intro _ _; try dsimp only) | (intro _; try dsimp only)
    | (apply Keeps.mk; dsimp only; with_reducible refine Keeps.upd ?_) | split | dsimp only

theorem State.reloadTiles_keeps {root : State} {s : State} {n : Nat} {flips : List Nat} (h_s : Keeps q1 q2 True q4 q5 q6 True True True q10 q11 q12 q13 q14 q15 q16 q17 q18 root s) : Keeps q1 q2 True q4 q5 q6 True True True q10 q11 q12 q13 q14 q15 q16 q17 q18 root (State.reloadTiles s n flips) := by
  unfold State.reloadTiles
  try dsimp only
  repeat' first
    | (with_reducible first
      | assumption | apply ite_keeps | apply ite_keeps2 | apply ite_keeps1 | apply State.modBtp_keeps
      | apply State.reloadTile_keeps)
    | (intro _ _ _; try dsimp only) | (intro _ _; try dsimp only) | (intro _; try dsimp only)
    | (apply Keeps.mk; dsimp only; with_reducible refine Keeps.upd ?_) | split | dsimp only

theorem State.feedRow_keeps {root : State} : ∀ (y0 : Nat) {s : State} {n entry row i : Nat}  (h_s : Keeps q1 q2 True q4 q5 q6 True True True q10 q11 q12 q13 q14 q15 q16 q17 q18 root s), Keeps q1 q2 True q4 q5 q6 True True True q10 q11 q12 q13 q14 q15 q16 q17 q18 root (State.feedRow s n entry row i y0).2 := by
  intro y0
  induction y0 with
  | zero =>
    intros
    unfold State.feedRow
    repeat' first
      | with_reducible apply ih
      | (with_reducible first
        | assumption | apply State.winRead_keeps)
      | (apply Keeps.mk; dsimp only; with_reducible refine Keeps.upd ?_) | split | dsimp only
  
  | succ m ih =>
    intros
    unfold State.feedRow
    try dsimp only
    repeat' first
      | with_reducible apply ih
      | (with_reducible first
        | assumption | apply State.winRead_keeps)
      | (apply Keeps.mk; dsimp only; with_reducible refine Keeps.upd ?_) | split | dsimp only
  
theorem State.passRowsFrom_keeps {root : State} {s : State} {n entry d m0 k : Nat} (h_s : Keeps q1 q2 True q4 q5 q6 True True True q10 q11 q12 q13 q14 q15 q16 q17 q18 root s) : Keeps q1 q2 True q4 q5 q6 True True True q10 q11 q12 q13 q14 q15 q16 q17 q18 root (State.passRowsFrom s n entry d m0 k).2 := by
  unfold State.passRowsFrom
  try dsimp only
  repeat' first
    | (with_reducible first
      | assumption | apply ite_keeps | apply ite_keeps2 | apply ite_keeps1 | apply State.feedRow_keeps | apply foldl_keeps
      | apply foldl_keeps2 | apply foldl_keeps1 | apply foldl_keeps22)
    | (intro _ _ _; try dsimp only) | (intro _ _; try dsimp only) | (intro _; try dsimp only)
    | (apply Keeps.mk; dsimp only; with_reducible refine Keeps.upd ?_) | split | dsimp only

theorem State.passRows_keeps {root : State} {s : State} {n entry d : Nat} (h_s : Keeps q1 q2 True q4 q5 q6 True True True q10 q11 q12 q13 q14 q15 q16 q17 q18 root s) : Keeps q1 q2 True q4 q5 q6 True True True q10 q11 q12 q13 q14 q15 q16 q17 q18 root (State.passRows s n entry d).2 := by
  unfold State.passRows
  try dsimp only
  repeat' first
    | (with_reducible first
      | assumption | apply State.modBtp_keeps | apply State.passRowsFrom_keeps)
    | (intro _ _ _; try dsimp only) | (intro _ _; try dsimp only) | (intro _; try dsimp only)
    | (apply Keeps.mk; dsimp only; with_reducible refine Keeps.upd ?_) | dsimp only

theorem State.fillWest_keeps {root : State} {s : State} {n : Nat} {q : PassReq} (h_s : Keeps q1 q2 True q4 q5 q6 True True True q10 q11 q12 q13 q14 q15 q16 q17 q18 root s) : Keeps q1 q2 True q4 q5 q6 True True True q10 q11 q12 q13 q14 q15 q16 q17 q18 root (State.fillWest s n q) := by
  unfold State.fillWest
  try dsimp only
  repeat' first
    | (with_reducible first
      | assumption | apply State.modBtp_keeps | apply State.passRowsFrom_keeps)
    | (intro _ _ _; try dsimp only) | (intro _ _; try dsimp only) | (intro _; try dsimp only)
    | (apply Keeps.mk; dsimp only; with_reducible refine Keeps.upd ?_) | split | dsimp only

theorem State.accumulate_keeps {root : State} {s : State} {n : Nat} {q : PassReq} {t : Tile} {again : Bool} (h_s : Keeps q1 q2 True q4 q5 q6 True True True q10 q11 q12 q13 q14 q15 q16 q17 q18 root s) : Keeps q1 q2 True q4 q5 q6 True True True q10 q11 q12 q13 q14 q15 q16 q17 q18 root (State.accumulate s n q t again) := by
  unfold State.accumulate
  try dsimp only
  repeat' first
    | (with_reducible first
      | assumption | apply ite_keeps | apply ite_keeps2 | apply ite_keeps1 | apply ite_keeps22 | apply State.bumpBy_keeps
      | apply State.faultCtx_keeps | apply State.modBtp_keeps | apply State.passRows_keeps | apply State.passRowsFrom_keeps
      | apply State.tick_keeps)
    | (intro _ _ _; try dsimp only) | (intro _ _; try dsimp only) | (intro _; try dsimp only)
    | (apply Keeps.mk; dsimp only; with_reducible refine Keeps.upd ?_) | split | dsimp only

theorem State.swapTile_keeps {root : State} {s : State} {n flip ctx : Nat} (h_s : Keeps q1 q2 True q4 q5 q6 True True q9 q10 q11 q12 q13 q14 q15 q16 q17 q18 root s) : Keeps q1 q2 True q4 q5 q6 True True q9 q10 q11 q12 q13 q14 q15 q16 q17 q18 root (State.swapTile s n flip ctx) := by
  unfold State.swapTile
  try dsimp only
  repeat' first
    | (with_reducible first
      | assumption | apply ite_keeps | apply ite_keeps2 | apply ite_keeps1 | apply State.btpFault_keeps
      | apply State.bump_keeps | apply State.modBtp_keeps | apply State.raise_keeps | apply State.setSuspect_keeps)
    | (intro _ _ _; try dsimp only) | (intro _ _; try dsimp only) | (intro _; try dsimp only)
    | (apply Keeps.mk; dsimp only; with_reducible refine Keeps.upd ?_) | split | dsimp only

theorem State.startLoad_keeps {root : State} {s : State} {n : Nat} {q : PassReq} (h_s : Keeps q1 q2 q3 q4 q5 q6 True q8 q9 q10 q11 q12 q13 q14 q15 q16 q17 q18 root s) : Keeps q1 q2 q3 q4 q5 q6 True q8 q9 q10 q11 q12 q13 q14 q15 q16 q17 q18 root (State.startLoad s n q) := by
  unfold State.startLoad
  try dsimp only
  repeat' first
    | (with_reducible first
      | assumption | apply State.modBtp_keeps)
    | (intro _ _ _; try dsimp only) | (intro _ _; try dsimp only) | (intro _; try dsimp only)
    | (apply Keeps.mk; dsimp only; with_reducible refine Keeps.upd ?_) | dsimp only

theorem State.countRun_keeps {root : State} {s : State} {n : Nat} {q : PassReq} (h_s : Keeps q1 q2 True q4 q5 q6 True q8 q9 q10 q11 q12 q13 q14 q15 q16 q17 q18 root s) : Keeps q1 q2 True q4 q5 q6 True q8 q9 q10 q11 q12 q13 q14 q15 q16 q17 q18 root (State.countRun s n q) := by
  unfold State.countRun
  try dsimp only
  repeat' first
    | (with_reducible first
      | assumption | apply ite_keeps | apply ite_keeps2 | apply ite_keeps1 | apply State.bumpBy_keeps
      | apply State.modBtp_keeps)
    | (intro _ _ _; try dsimp only) | (intro _ _; try dsimp only) | (intro _; try dsimp only)
    | (apply Keeps.mk; dsimp only; with_reducible refine Keeps.upd ?_) | split | dsimp only

theorem State.tableRows_keeps {root : State} {s : State} {n : Nat} {q : PassReq} (h_s : Keeps q1 q2 True q4 q5 q6 True q8 q9 q10 q11 q12 q13 q14 q15 q16 q17 q18 root s) : Keeps q1 q2 True q4 q5 q6 True q8 q9 q10 q11 q12 q13 q14 q15 q16 q17 q18 root (State.tableRows s n q) := by
  unfold State.tableRows
  try dsimp only
  repeat' first
    | (with_reducible first
      | assumption | apply ite_keeps | apply ite_keeps2 | apply ite_keeps1 | apply State.bumpBy_keeps
      | apply State.modPlot_keeps)
    | (intro _ _ _; try dsimp only) | (intro _ _; try dsimp only) | (intro _; try dsimp only)
    | (apply Keeps.mk; dsimp only; with_reducible refine Keeps.upd ?_) | split | dsimp only

theorem State.runPass_keeps {root : State} {s : State} {n : Nat} {q : PassReq} (h_s : Keeps q1 q2 True q4 q5 q6 True True True q10 q11 q12 q13 q14 q15 q16 q17 True root s) : Keeps q1 q2 True q4 q5 q6 True True True q10 q11 q12 q13 q14 q15 q16 q17 True root (State.runPass s n q) := by
  unfold State.runPass
  try dsimp only
  repeat' first
    | (with_reducible first
      | assumption | apply ite_keeps | apply ite_keeps2 | apply ite_keeps1 | apply State.accumulate_keeps
      | apply State.countRun_keeps | apply State.faultCtx_keeps | apply State.issue_keeps | apply State.modBtp_keeps
      | apply State.opDone_keeps | apply State.startLoad_keeps | apply State.swapTile_keeps | apply State.tableRows_keeps
      | apply State.use_keeps)
    | (intro _ _ _; try dsimp only) | (intro _ _; try dsimp only) | (intro _; try dsimp only)
    | (apply Keeps.mk; dsimp only; with_reducible refine Keeps.upd ?_) | split | dsimp only

theorem State.pumpPasses_keeps {root : State} : ∀ (y0 : Nat) {s : State} {n : Nat}  (h_s : Keeps q1 q2 True q4 q5 q6 True True True q10 q11 q12 q13 q14 q15 q16 q17 True root s), Keeps q1 q2 True q4 q5 q6 True True True q10 q11 q12 q13 q14 q15 q16 q17 True root (State.pumpPasses s n y0) := by
  intro y0
  induction y0 with
  | zero =>
    intros
    unfold State.pumpPasses
    repeat' first
      | with_reducible apply ih
      | (with_reducible first
        | assumption | apply ite_keeps | apply ite_keeps2 | apply ite_keeps1 | apply State.faultCtx_keeps
        | apply State.fillWest_keeps | apply State.modBtp_keeps | apply State.runPass_keeps)
      | (intro _ _ _; try dsimp only) | (intro _ _; try dsimp only) | (intro _; try dsimp only)
      | (apply Keeps.mk; dsimp only; with_reducible refine Keeps.upd ?_) | split | dsimp only
  
  | succ m ih =>
    intros
    unfold State.pumpPasses
    try dsimp only
    repeat' first
      | with_reducible apply ih
      | (with_reducible first
        | assumption | apply ite_keeps | apply ite_keeps2 | apply ite_keeps1 | apply State.faultCtx_keeps
        | apply State.fillWest_keeps | apply State.modBtp_keeps | apply State.runPass_keeps)
      | (intro _ _ _; try dsimp only) | (intro _ _; try dsimp only) | (intro _; try dsimp only)
      | (apply Keeps.mk; dsimp only; with_reducible refine Keeps.upd ?_) | split | dsimp only
  
theorem State.pumpBtp_keeps {root : State} {s : State} {n : Nat} (h_s : Keeps q1 q2 True q4 q5 q6 True True True q10 q11 q12 q13 q14 q15 q16 q17 True root s) : Keeps q1 q2 True q4 q5 q6 True True True q10 q11 q12 q13 q14 q15 q16 q17 True root (State.pumpBtp s n) := by
  unfold State.pumpBtp
  try dsimp only
  repeat' first
    | (with_reducible first
      | assumption | apply State.pumpPasses_keeps)
    | dsimp only

theorem execPass_keeps {plot : Plot} {c : Ctx} {entry : Fin 32} {desc flip t : Nat} {s : State} {fin : State} (h : execPass plot c entry desc flip t s = .next fin) : Keeps False False True False False True True True True False False False False False False False False True s fin := by
  have h_s : Keeps False False True False False True True True True False False False False False False False False True s s := Keeps.refl s
  unfold execPass at h
  obtain rfl := Host.Outcome.next.inj h
  try dsimp only
  repeat' first
    | (with_reducible first
      | assumption | apply ite_keeps | apply ite_keeps2 | apply ite_keeps1 | apply State.advance_keeps
      | apply State.faultCtx_keeps | apply State.live_keeps | apply State.modBtp_keeps | apply State.pumpBtp_keeps)
    | (intro _ _ _; try dsimp only) | (intro _ _; try dsimp only) | (intro _; try dsimp only)
    | (apply Keeps.mk; dsimp only; with_reducible refine Keeps.upd ?_) | split | dsimp only

theorem execTileLoadComplete_keeps {plot : Plot} {flip t : Nat} {s : State} {fin : State} (h : execTileLoadComplete plot flip t s = .next fin) : Keeps False False True False False True True True True False False False False False False False False True s fin := by
  have h_s : Keeps False False True False False True True True True False False False False False False False False True s s := Keeps.refl s
  unfold execTileLoadComplete at h
  obtain rfl := Host.Outcome.next.inj h
  try dsimp only
  repeat' first
    | (with_reducible first
      | assumption | apply ite_keeps | apply ite_keeps2 | apply ite_keeps1 | apply State.advance_keeps
      | apply State.btpFault_keeps | apply State.bump_keeps | apply State.live_keeps | apply State.modBtp_keeps
      | apply State.pumpBtp_keeps | apply State.raise_keeps | apply State.readTile_keeps | apply State.setSuspect_keeps)
    | (intro _ _ _; try dsimp only) | (intro _ _; try dsimp only) | (intro _; try dsimp only)
    | (apply Keeps.mk; dsimp only; with_reducible refine Keeps.upd ?_) | split | dsimp only

theorem execWestQueueEmpty_keeps {plot : Plot} {left t : Nat} {s : State} {fin : State} (h : execWestQueueEmpty plot left t s = .next fin) : Keeps False False True False False True True False True False False False False False False False False False s fin := by
  have h_s : Keeps False False True False False True True False True False False False False False False False False False s s := Keeps.refl s
  unfold execWestQueueEmpty at h
  obtain rfl := Host.Outcome.next.inj h
  try dsimp only
  repeat' first
    | (with_reducible first
      | assumption | apply ite_keeps | apply ite_keeps2 | apply ite_keeps1 | apply State.advance_keeps
      | apply State.bumpBy_keeps | apply State.live_keeps | apply State.modBtp_keeps)
    | (intro _ _ _; try dsimp only) | (intro _ _; try dsimp only) | (intro _; try dsimp only)
    | (apply Keeps.mk; dsimp only; with_reducible refine Keeps.upd ?_) | split | dsimp only

end Sys2Proof.Machine
end

