-- ==== Sys2Proof/Laws/KeepsSieveOps.lean ====
section
/-!
SUPPORT. What the definitions of Machine/SieveOps.lean keep, each by the definitions it is made of.
-/

namespace Sys2Proof.Machine

open Sys2Proof

set_option Elab.async false

set_option linter.unusedVariables false
set_option linter.unreachableTactic false
set_option linter.unusedTactic false



variable {q1 q2 q3 q4 q5 q6 q7 q8 q9 q10 q11 q12 q13 q14 q15 q16 q17 q18 : Prop}

theorem State.readStream_keeps {root : State} {s : State} {n entry x i : Nat} {data mark : Bool} {t : Tally} (h_s : Keeps q1 q2 True q4 q5 q6 True True True q10 q11 q12 q13 q14 q15 q16 q17 q18 root s) : Keeps q1 q2 True q4 q5 q6 True True True q10 q11 q12 q13 q14 q15 q16 q17 q18 root (State.readStream s n entry x i data mark t).2.2 := by
  unfold State.readStream
  try dsimp only
  repeat' first
    | (with_reducible first
      | assumption | apply ite_keeps | apply ite_keeps2 | apply ite_keeps1 | apply ite_keeps22 | apply State.tick_keeps
      | apply State.winRead_keeps | apply State.winReadN_keeps | apply foldl_keeps | apply foldl_keeps2 | apply foldl_keeps1
      | apply foldl_keeps22)
    | (intro _ _ _; try dsimp only) | (intro _ _; try dsimp only) | (intro _; try dsimp only)
    | (apply Keeps.mk; dsimp only; with_reducible refine Keeps.upd ?_) | split | dsimp only

theorem State.writeW_keeps {root : State} {s : State} {n entry d i : Nat} {l : List Nat} {mark : Nat} (h_s : Keeps True True True q4 q5 q6 True True True q10 q11 q12 q13 q14 q15 q16 q17 q18 root s) : Keeps True True True q4 q5 q6 True True True q10 q11 q12 q13 q14 q15 q16 q17 q18 root (State.writeW s n entry d i l mark) := by
  unfold State.writeW
  try dsimp only
  repeat' first
    | (with_reducible first
      | assumption | apply ite_keeps | apply ite_keeps2 | apply ite_keeps1 | apply State.winWrite_keeps
      | apply State.winWriteN_keeps)
    | split | dsimp only

theorem State.modSiv_keeps {root : State} {s : State} {n : Nat} {f : Sieve → Sieve} (h_s : Keeps q1 q2 q3 q4 q5 q6 True q8 q9 q10 q11 q12 q13 q14 q15 q16 q17 q18 root s) : Keeps q1 q2 q3 q4 q5 q6 True q8 q9 q10 q11 q12 q13 q14 q15 q16 q17 q18 root (State.modSiv s n f) := by
  unfold State.modSiv
  try dsimp only
  repeat' first
    | (with_reducible first
      | assumption | apply State.modPlot_keeps)
    | (intro _ _ _; try dsimp only) | (intro _ _; try dsimp only) | (intro _; try dsimp only)
    | (apply Keeps.mk; dsimp only; with_reducible refine Keeps.upd ?_) | dsimp only

theorem State.chainScales_keeps {root : State} {s : State} {n : Nat} {q : ChainReq} (h_s : Keeps q1 q2 True q4 q5 q6 True True True q10 q11 q12 q13 q14 q15 q16 q17 q18 root s) : Keeps q1 q2 True q4 q5 q6 True True True q10 q11 q12 q13 q14 q15 q16 q17 q18 root (State.chainScales s n q) := by
  unfold State.chainScales
  try dsimp only
  repeat' first
    | (with_reducible first
      | assumption | apply ite_keeps | apply ite_keeps2 | apply ite_keeps1 | apply State.faultCtx_keeps
      | apply State.modSiv_keeps | apply State.winReadN_keeps | apply foldl_keeps | apply foldl_keeps2 | apply foldl_keeps1
      | apply foldl_keeps22)
    | (intro _ _ _; try dsimp only) | (intro _ _; try dsimp only) | (intro _; try dsimp only)
    | (apply Keeps.mk; dsimp only; with_reducible refine Keeps.upd ?_) | split | dsimp only

theorem State.chainIter_keeps {root : State} {s : State} {n : Nat} {q : ChainReq} {shift : Int} {i : Nat} {t : Tally} (h_s : Keeps True True True q4 q5 q6 True True True q10 q11 q12 q13 q14 q15 q16 q17 q18 root s) : Keeps True True True q4 q5 q6 True True True q10 q11 q12 q13 q14 q15 q16 q17 q18 root (State.chainIter s n q shift i t).2 := by
  unfold State.chainIter
  try dsimp only
  repeat' first
    | (with_reducible first
      | assumption | apply ite_keeps | apply ite_keeps2 | apply ite_keeps1 | apply ite_keeps22 | apply State.modSiv_keeps
      | apply State.readStream_keeps | apply State.writeW_keeps | apply foldl_keeps | apply foldl_keeps2 | apply foldl_keeps1
      | apply foldl_keeps22)
    | (intro _ _ _; try dsimp only) | (intro _ _; try dsimp only) | (intro _; try dsimp only)
    | (apply Keeps.mk; dsimp only; with_reducible refine Keeps.upd ?_) | split | dsimp only

theorem State.chainIters_keeps {root : State} : ∀ (y0 : Nat) {s : State} {n : Nat} {q : ChainReq} {shift : Int} {i : Nat} {t : Tally}  (h_s : Keeps True True True q4 q5 q6 True True True q10 q11 q12 q13 q14 q15 q16 q17 q18 root s), Keeps True True True q4 q5 q6 True True True q10 q11 q12 q13 q14 q15 q16 q17 q18 root (State.chainIters s n q shift i t y0).2 := by
  intro y0
  induction y0 with
  | zero =>
    intros
    unfold State.chainIters
    repeat' first
      | with_reducible apply ih
      | (with_reducible first
        | assumption | apply State.chainIter_keeps)
      | (apply Keeps.mk; dsimp only; with_reducible refine Keeps.upd ?_) | split | dsimp only
  
  | succ m ih =>
    intros
    unfold State.chainIters
    try dsimp only
    repeat' first
      | with_reducible apply ih
      | (with_reducible first
        | assumption | apply State.chainIter_keeps)
      | (apply Keeps.mk; dsimp only; with_reducible refine Keeps.upd ?_) | split | dsimp only
  
theorem State.chainBody_keeps {root : State} {s : State} {n : Nat} {q : ChainReq} {shift : Int} (h_s : Keeps True True True q4 q5 q6 True True True q10 q11 q12 q13 q14 q15 q16 q17 q18 root s) : Keeps True True True q4 q5 q6 True True True q10 q11 q12 q13 q14 q15 q16 q17 q18 root (State.chainBody s n q shift).2 := by
  unfold State.chainBody
  try dsimp only
  repeat' first
    | (with_reducible first
      | assumption | apply ite_keeps | apply ite_keeps2 | apply ite_keeps1 | apply State.chainIters_keeps
      | apply State.winWrite_keeps | apply foldl_keeps | apply foldl_keeps2 | apply foldl_keeps1 | apply foldl_keeps22)
    | (intro _ _ _; try dsimp only) | (intro _ _; try dsimp only) | (intro _; try dsimp only)
    | (apply Keeps.mk; dsimp only; with_reducible refine Keeps.upd ?_) | split | dsimp only

theorem State.countTally_keeps {root : State} {s : State} {n : Nat} {q : ChainReq} {t : Tally} (h_s : Keeps q1 q2 True q4 q5 q6 q7 q8 q9 q10 q11 q12 q13 q14 q15 q16 q17 q18 root s) : Keeps q1 q2 True q4 q5 q6 q7 q8 q9 q10 q11 q12 q13 q14 q15 q16 q17 q18 root (State.countTally s n q t) := by
  unfold State.countTally
  try dsimp only
  repeat' first
    | (with_reducible first
      | assumption | apply ite_keeps | apply ite_keeps2 | apply ite_keeps1 | apply State.bumpBy_keeps
      | apply State.raise_keeps)
    | split | dsimp only

theorem State.runChain_keeps {root : State} {s : State} {n : Nat} {q : ChainReq} (h_s : Keeps True True True q4 q5 q6 True True True q10 q11 q12 q13 q14 q15 q16 q17 q18 root s) : Keeps True True True q4 q5 q6 True True True q10 q11 q12 q13 q14 q15 q16 q17 q18 root (State.runChain s n q) := by
  unfold State.runChain
  extract_lets d part s0 s1 s2 r
  have h0 : Keeps True True True q4 q5 q6 True True True q10 q11 q12 q13 q14 q15 q16 q17 q18 root s0 := State.modSiv_keeps h_s
  clear_value s0
  split
  · exact State.faultCtx_keeps h0
  · have h1 : Keeps True True True q4 q5 q6 True True True q10 q11 q12 q13 q14 q15 q16 q17 q18 root s1 := by
      apply ite_keeps
      · exact h0
      · exact State.raced_keeps (State.raise_keeps (State.bumpBy_keeps h0))
    clear_value s1
    have h2 : Keeps True True True q4 q5 q6 True True True q10 q11 q12 q13 q14 q15 q16 q17 q18 root s2 := State.chainScales_keeps h1
    clear_value s2
    have h3 : Keeps True True True q4 q5 q6 True True True q10 q11 q12 q13 q14 q15 q16 q17 q18 root r.2 := State.chainBody_keeps h2
    clear_value r
    split
    · exact h3
    · dsimp only
      apply ite_keeps
      · exact State.fallBack_keeps (State.bumpBy_keeps (State.modSiv_keeps (State.countTally_keeps h3)))
      · exact State.bumpBy_keeps (State.modSiv_keeps (State.countTally_keeps h3))

theorem State.nextChain_keeps {root : State} {s : State} {n : Nat} (h_s : Keeps True True True q4 q5 q6 True True True q10 q11 q12 q13 q14 q15 q16 q17 q18 root s) : Keeps True True True q4 q5 q6 True True True q10 q11 q12 q13 q14 q15 q16 q17 q18 root (State.nextChain s n) := by
  unfold State.nextChain
  try dsimp only
  repeat' first
    | (with_reducible first
      | assumption | apply ite_keeps | apply ite_keeps2 | apply ite_keeps1 | apply State.modSiv_keeps
      | apply State.runChain_keeps)
    | (intro _ _ _; try dsimp only) | (intro _ _; try dsimp only) | (intro _; try dsimp only)
    | (apply Keeps.mk; dsimp only; with_reducible refine Keeps.upd ?_) | split | dsimp only

theorem State.nextChains_keeps {root : State} : ∀ (y0 : Nat) {s : State} {n : Nat}  (h_s : Keeps True True True q4 q5 q6 True True True q10 q11 q12 q13 q14 q15 q16 q17 q18 root s), Keeps True True True q4 q5 q6 True True True q10 q11 q12 q13 q14 q15 q16 q17 q18 root (State.nextChains s n y0) := by
  intro y0
  induction y0 with
  | zero =>
    intros
    unfold State.nextChains
    repeat' first
      | with_reducible apply ih
      | (with_reducible first
        | assumption | apply State.nextChain_keeps)
      | dsimp only
  
  | succ m ih =>
    intros
    unfold State.nextChains
    try dsimp only
    repeat' first
      | with_reducible apply ih
      | (with_reducible first
        | assumption | apply State.nextChain_keeps)
      | dsimp only
  
theorem State.pumpSieve_keeps {root : State} {s : State} {n : Nat} (h_s : Keeps True True True q4 q5 q6 True True True q10 q11 q12 q13 q14 q15 q16 q17 q18 root s) : Keeps True True True q4 q5 q6 True True True q10 q11 q12 q13 q14 q15 q16 q17 q18 root (State.pumpSieve s n) := by
  unfold State.pumpSieve
  try dsimp only
  repeat' first
    | (with_reducible first
      | assumption | apply ite_keeps | apply ite_keeps2 | apply ite_keeps1 | apply State.nextChains_keeps
      | apply State.runChain_keeps)
    | (apply Keeps.mk; dsimp only; with_reducible refine Keeps.upd ?_) | split | dsimp only

theorem State.dropWork_keeps {root : State} {s : State} {c : Nat} (h_s : Keeps True True True q4 q5 q6 True True True q10 q11 q12 q13 q14 q15 q16 q17 True root s) : Keeps True True True q4 q5 q6 True True True q10 q11 q12 q13 q14 q15 q16 q17 True root (State.dropWork s c) := by
  unfold State.dropWork
  try dsimp only
  repeat' first
    | (with_reducible first
      | assumption | apply State.modPlot_keeps | apply State.pumpBtp_keeps | apply State.pumpSieve_keeps | apply foldl_keeps)
    | (intro _ _ _; try dsimp only) | (intro _ _; try dsimp only) | (intro _; try dsimp only) | dsimp only

end Sys2Proof.Machine
end

