-- ==== Sys2Proof/Laws/KeepsRms.lean ====
section
/-!
SUPPORT. What the definitions of Machine/Rms.lean keep, each by the definitions it is made of.
-/

namespace Sys2Proof.Machine

open Sys2Proof

set_option Elab.async false

set_option linter.unusedVariables false
set_option linter.unreachableTactic false
set_option linter.unusedTactic false



variable {q1 q2 q3 q4 q5 q6 q7 q8 q9 q10 q11 q12 q13 q14 q15 q16 q17 q18 : Prop}

theorem State.abortStep_keeps {root : State} {s : State} {c n : Nat} (h_s : Keeps True True True q4 q5 q6 q7 True True q10 q11 q12 q13 True True q16 q17 q18 root s) : Keeps True True True q4 q5 q6 q7 True True q10 q11 q12 q13 True True q16 q17 q18 root (State.abortStep s c n) := by
  unfold State.abortStep
  try dsimp only
  repeat' first
    | (with_reducible first
      | assumption | apply ite_keeps | apply ite_keeps2 | apply ite_keeps1 | apply State.bump_keeps
      | apply State.debugEnd_keeps | apply State.harvestAll_keeps | apply State.modStep_keeps | apply State.pushHarvest_keeps
      | apply State.tightLog_keeps | apply foldl_keeps)
    | (intro _ _ _; try dsimp only) | (intro _ _; try dsimp only) | (intro _; try dsimp only)
    | (apply Keeps.mk; dsimp only; with_reducible refine Keeps.upd ?_) | split | dsimp only

theorem State.stepDue_keeps {root : State} {s : State} {c n : Nat} (h_s : Keeps True True True q4 q5 q6 q7 True True q10 q11 q12 q13 True True q16 q17 True root s) : Keeps True True True q4 q5 q6 q7 True True q10 q11 q12 q13 True True q16 q17 True root (State.stepDue s c n) := by
  unfold State.stepDue
  try dsimp only
  repeat' first
    | (with_reducible first
      | assumption | apply ite_keeps | apply ite_keeps2 | apply ite_keeps1 | apply State.abortStep_keeps
      | apply State.findSlot_keeps)
    | split | dsimp only

theorem State.addStep_keeps {root : State} {s : State} {c : Nat} {y : StepSt} (h_s : Keeps q1 q2 q3 q4 q5 q6 q7 q8 True q10 q11 q12 q13 q14 q15 q16 q17 q18 root s) : Keeps q1 q2 q3 q4 q5 q6 q7 q8 True q10 q11 q12 q13 q14 q15 q16 q17 q18 root (State.addStep s c y) := by
  unfold State.addStep
  try dsimp only
  repeat' first
    | (with_reducible first
      | assumption | apply State.modCtx_keeps)
    | (intro _ _ _; try dsimp only) | (intro _ _; try dsimp only) | (intro _; try dsimp only)
    | (apply Keeps.mk; dsimp only; with_reducible refine Keeps.upd ?_) | dsimp only

theorem State.descriptorRead_keeps {root : State} {s : State} {c n h : Nat} {body : List (BitVec 8)} (h_s : Keeps q1 q2 True q4 q5 q6 q7 q8 q9 q10 q11 q12 q13 q14 q15 q16 q17 q18 root s) : Keeps q1 q2 True q4 q5 q6 q7 q8 q9 q10 q11 q12 q13 q14 q15 q16 q17 q18 root (State.descriptorRead s c n h body) := by
  unfold State.descriptorRead
  try dsimp only
  repeat' first
    | (with_reducible first
      | assumption | apply ite_keeps | apply ite_keeps2 | apply ite_keeps1 | apply State.bump_keeps | apply State.emit_keeps
      | apply State.record_keeps | apply foldl_keeps)
    | (intro _ _ _; try dsimp only) | (intro _ _; try dsimp only) | (intro _; try dsimp only) | split | dsimp only

theorem execDescriptorFetch_keeps {c : Ctx} {k : Int} {hdr : Option Nat} {body : Option (List (BitVec 8))} {t : Nat} {s : State} {fin : State} (h : execDescriptorFetch c k hdr body t s = .next fin) : Keeps True True True True False True False True True False False False False True True False False True s fin := by
  have h_s : Keeps True True True True False True False True True False False False False True True False False True s s := Keeps.refl s
  unfold execDescriptorFetch at h
  obtain rfl := Host.Outcome.next.inj h
  try dsimp only
  repeat' first
    | (with_reducible first
      | assumption | apply ite_keeps | apply ite_keeps2 | apply ite_keeps1 | apply State.addStep_keeps
      | apply State.advance_keeps | apply State.bump_keeps | apply State.descriptorRead_keeps | apply State.emit_keeps
      | apply State.live_keeps | apply State.liveApply_keeps | apply State.raise_keeps | apply State.stepDue_keeps)
    | (intro _ _ _; try dsimp only) | (intro _ _; try dsimp only) | (intro _; try dsimp only)
    | (apply Keeps.mk; dsimp only; with_reducible refine Keeps.upd ?_) | split | dsimp only

theorem execDescriptorPoll_keeps {c : Ctx} {hdr : Option Nat} {body : Option (List (BitVec 8))} {t : Nat} {s : State} {fin : State} (h : execDescriptorPoll c hdr body t s = .next fin) : Keeps True True True True False True False True True False False False False True True False False True s fin := by
  have h_s : Keeps True True True True False True False True True False False False False True True False False True s s := Keeps.refl s
  unfold execDescriptorPoll at h
  obtain rfl := Host.Outcome.next.inj h
  try dsimp only
  repeat' first
    | (with_reducible first
      | assumption | apply ite_keeps | apply ite_keeps2 | apply ite_keeps1 | apply State.addStep_keeps
      | apply State.advance_keeps | apply State.bump_keeps | apply State.descriptorRead_keeps | apply State.emit_keeps
      | apply State.live_keeps | apply State.liveApply_keeps | apply State.modCtx_keeps | apply State.stepDue_keeps)
    | (intro _ _ _; try dsimp only) | (intro _ _; try dsimp only) | (intro _; try dsimp only)
    | (apply Keeps.mk; dsimp only; with_reducible refine Keeps.upd ?_) | split | dsimp only

theorem State.takeGrant_keeps {root : State} {s : State} {c : Nat} {y : StepSt} {g : Nat} (h_s : Keeps q1 q2 True q4 q5 q6 q7 q8 True q10 q11 q12 q13 q14 q15 q16 q17 q18 root s) : Keeps q1 q2 True q4 q5 q6 q7 q8 True q10 q11 q12 q13 q14 q15 q16 q17 q18 root (State.takeGrant s c y g).2 := by
  unfold State.takeGrant
  try dsimp only
  repeat' first
    | (with_reducible first
      | assumption | apply ite_keeps | apply ite_keeps2 | apply ite_keeps1 | apply State.bump_keeps)
    | (apply Keeps.mk; dsimp only; with_reducible refine Keeps.upd ?_) | split | dsimp only

theorem State.takeGrants_keeps {root : State} : ∀ (y0 : List Nat) {s : State} {c : Nat} {y : StepSt}  (h_s : Keeps q1 q2 True q4 q5 q6 q7 q8 True q10 q11 q12 q13 q14 q15 q16 q17 q18 root s), Keeps q1 q2 True q4 q5 q6 q7 q8 True q10 q11 q12 q13 q14 q15 q16 q17 q18 root (State.takeGrants s c y y0).2 := by
  intro y0
  induction y0 with
  | nil =>
    intros
    unfold State.takeGrants
    repeat' first
      | with_reducible apply ih
      | (with_reducible first
        | assumption | apply State.takeGrant_keeps)
      | (apply Keeps.mk; dsimp only; with_reducible refine Keeps.upd ?_) | split | dsimp only
  
  | cons hd tl ih =>
    intros
    unfold State.takeGrants
    try dsimp only
    repeat' first
      | with_reducible apply ih
      | (with_reducible first
        | assumption | apply State.takeGrant_keeps)
      | (apply Keeps.mk; dsimp only; with_reducible refine Keeps.upd ?_) | split | dsimp only
  
theorem State.finishBuild_keeps {root : State} {s : State} {c n : Nat} {sel : Option (Nat × LibEntry)} {l : List Grant} (h_s : Keeps q1 q2 True q4 q5 q6 q7 True True q10 q11 q12 q13 q14 q15 q16 q17 q18 root s) : Keeps q1 q2 True q4 q5 q6 q7 True True q10 q11 q12 q13 q14 q15 q16 q17 q18 root (State.finishBuild s c n sel l) := by
  unfold State.finishBuild
  try dsimp only
  repeat' first
    | (with_reducible first
      | assumption | apply State.modStep_keeps | apply State.plan_keeps)
    | (intro _ _ _; try dsimp only) | (intro _ _; try dsimp only) | (intro _; try dsimp only)
    | (apply Keeps.mk; dsimp only; with_reducible refine Keeps.upd ?_) | split | dsimp only

theorem State.buildReplay_keeps {root : State} {s : State} {c n h hash : Nat} (h_s : Keeps q1 q2 True q4 q5 q6 q7 True True q10 q11 q12 q13 q14 q15 q16 q17 q18 root s) : Keeps q1 q2 True q4 q5 q6 q7 True True q10 q11 q12 q13 q14 q15 q16 q17 q18 root (State.buildReplay s c n h hash) := by
  unfold State.buildReplay
  try dsimp only
  repeat' first
    | (with_reducible first
      | assumption | apply ite_keeps | apply ite_keeps2 | apply ite_keeps1 | apply State.finishBuild_keeps
      | apply State.modStep_keeps | apply State.plan_keeps | apply State.raise_keeps)
    | (intro _ _ _; try dsimp only) | (intro _ _; try dsimp only) | (intro _; try dsimp only)
    | (apply Keeps.mk; dsimp only; with_reducible refine Keeps.upd ?_) | split | dsimp only

theorem State.build_keeps {root : State} {s : State} {c n : Nat} {y : StepSt} {hash : Nat} (h_s : Keeps q1 q2 True q4 q5 q6 q7 True True q10 q11 q12 q13 q14 q15 q16 q17 q18 root s) : Keeps q1 q2 True q4 q5 q6 q7 True True q10 q11 q12 q13 q14 q15 q16 q17 q18 root (State.build s c n y hash) := by
  unfold State.build
  try dsimp only
  repeat' first
    | (with_reducible first
      | assumption | apply ite_keeps | apply ite_keeps2 | apply ite_keeps1 | apply State.buildReplay_keeps
      | apply State.bumpBy_keeps | apply State.finishBuild_keeps | apply State.takeGrants_keeps)
    | (intro _ _ _; try dsimp only) | (intro _ _; try dsimp only) | (intro _; try dsimp only)
    | (apply Keeps.mk; dsimp only; with_reducible refine Keeps.upd ?_) | split | dsimp only

theorem State.probationSlot_keeps {root : State} {s : State} {c : Nat} (h_s : Keeps q1 q2 q3 q4 q5 q6 q7 q8 True q10 q11 q12 q13 q14 q15 q16 q17 q18 root s) : Keeps q1 q2 q3 q4 q5 q6 q7 q8 True q10 q11 q12 q13 q14 q15 q16 q17 q18 root (State.probationSlot s c) := by
  unfold State.probationSlot
  try dsimp only
  repeat' first
    | (with_reducible first
      | assumption | apply State.modCtx_keeps)
    | (intro _ _ _; try dsimp only) | (intro _ _; try dsimp only) | (intro _; try dsimp only)
    | (apply Keeps.mk; dsimp only; with_reducible refine Keeps.upd ?_) | dsimp only

theorem State.skipStep_keeps {root : State} {s : State} {c n : Nat} (h_s : Keeps q1 q2 True q4 q5 q6 q7 q8 True q10 q11 q12 q13 q14 q15 q16 q17 q18 root s) : Keeps q1 q2 True q4 q5 q6 q7 q8 True q10 q11 q12 q13 q14 q15 q16 q17 q18 root (State.skipStep s c n) := by
  unfold State.skipStep
  try dsimp only
  repeat' first
    | (with_reducible first
      | assumption | apply ite_keeps | apply ite_keeps2 | apply ite_keeps1 | apply State.bump_keeps
      | apply State.harvestAll_keeps | apply State.modCtx_keeps | apply State.modStep_keeps | apply State.probationSlot_keeps
      | apply State.pushHarvest_keeps | apply State.raise_keeps)
    | (intro _ _ _; try dsimp only) | (intro _ _; try dsimp only) | (intro _; try dsimp only)
    | (apply Keeps.mk; dsimp only; with_reducible refine Keeps.upd ?_) | split | dsimp only

theorem State.writeWorkList_keeps {root : State} {s : State} {c : Nat} {y : StepSt} (h_s : Keeps True True True q4 q5 q6 True True True q10 q11 q12 q13 q14 q15 q16 q17 q18 root s) : Keeps True True True q4 q5 q6 True True True q10 q11 q12 q13 q14 q15 q16 q17 q18 root (State.writeWorkList s c y) := by
  unfold State.writeWorkList
  try dsimp only
  repeat' first
    | (with_reducible first
      | assumption | apply State.plan_keeps | apply State.winWrite_keeps | apply foldl_keeps)
    | (intro _ _ _; try dsimp only) | (intro _ _; try dsimp only) | (intro _; try dsimp only)
    | (apply Keeps.mk; dsimp only; with_reducible refine Keeps.upd ?_) | split | dsimp only

theorem State.dispatch_keeps {root : State} {s : State} {c n : Nat} {y : StepSt} {late : Bool} (h_s : Keeps True True True True True q6 True True True True q11 q12 q13 True q15 q16 q17 q18 root s) : Keeps True True True True True q6 True True True True q11 q12 q13 True q15 q16 q17 q18 root (State.dispatch s c n y late) := by
  unfold State.dispatch
  try dsimp only
  repeat' first
    | (with_reducible first
      | assumption | apply ite_keeps | apply ite_keeps2 | apply ite_keeps1 | apply State.bump_keeps
      | apply State.bumpBy_keeps | apply State.debugBegin_keeps | apply State.modCtx_keeps | apply State.modStep_keeps
      | apply State.plan_keeps | apply State.probationSlot_keeps | apply State.resetSieve_keeps
      | apply State.restagePace_keeps | apply State.writeWorkList_keeps | apply foldl_keeps | apply foldl_keeps2
      | apply foldl_keeps1 | apply foldl_keeps22)
    | (intro _ _ _; try dsimp only) | (intro _ _; try dsimp only) | (intro _; try dsimp only)
    | (apply Keeps.mk; dsimp only; with_reducible refine Keeps.upd ?_) | split | dsimp only

theorem State.tryDispatch_keeps {root : State} {s : State} {c n : Nat} {late : Bool} (h_s : Keeps True True True True True q6 True True True True q11 q12 q13 True q15 q16 q17 q18 root s) : Keeps True True True True True q6 True True True True q11 q12 q13 True q15 q16 q17 q18 root (State.tryDispatch s c n late) := by
  unfold State.tryDispatch
  try dsimp only
  repeat' first
    | (with_reducible first
      | assumption | apply ite_keeps | apply State.dispatch_keeps | apply State.modStep_keeps | apply State.skipStep_keeps)
    | (intro _ _ _; try dsimp only) | (intro _ _; try dsimp only) | (intro _; try dsimp only)
    | (apply Keeps.mk; dsimp only; with_reducible refine Keeps.upd ?_) | split | dsimp only

theorem execWorkListBuild_keeps {c : Ctx} {n hash t : Nat} {s : State} {fin : State} (h : execWorkListBuild c n hash t s = .next fin) : Keeps True True True True True True True True True True False False False True False False False False s fin := by
  have h_s : Keeps True True True True True True True True True True False False False True False False False False s s := Keeps.refl s
  unfold execWorkListBuild at h
  obtain rfl := Host.Outcome.next.inj h
  try dsimp only
  repeat' first
    | (with_reducible first
      | assumption | apply ite_keeps | apply ite_keeps2 | apply ite_keeps1 | apply State.advance_keeps
      | apply State.build_keeps | apply State.live_keeps | apply State.liveApply_keeps | apply State.tryDispatch_keeps)
    | (intro _ _ _; try dsimp only) | (intro _ _; try dsimp only) | (intro _; try dsimp only)
    | (apply Keeps.mk; dsimp only; with_reducible refine Keeps.upd ?_) | split | dsimp only

theorem State.applyRollback_keeps {root : State} {s : State} {c : Nat} (h_s : Keeps q1 q2 q3 True True q6 q7 q8 True q10 q11 q12 q13 q14 q15 q16 q17 q18 root s) : Keeps q1 q2 q3 True True q6 q7 q8 True q10 q11 q12 q13 q14 q15 q16 q17 q18 root (State.applyRollback s c) := by
  unfold State.applyRollback
  try dsimp only
  repeat' first
    | (with_reducible first
      | assumption | apply ite_keeps | apply ite_keeps2 | apply ite_keeps1 | apply State.actPut_keeps
      | apply State.modCtx_keeps)
    | (intro _ _ _; try dsimp only) | (intro _ _; try dsimp only) | (intro _; try dsimp only)
    | (apply Keeps.mk; dsimp only; with_reducible refine Keeps.upd ?_) | split | dsimp only

theorem execStepBoundary_keeps {c : Ctx} {n t : Nat} {s : State} {fin : State} (h : execStepBoundary c n t s = .next fin) : Keeps True True True True True True True True True True False False False True False False False False s fin := by
  have h_s : Keeps True True True True True True True True True True False False False True False False False False s s := Keeps.refl s
  unfold execStepBoundary at h
  obtain rfl := Host.Outcome.next.inj h
  try dsimp only
  repeat' first
    | (with_reducible first
      | assumption | apply ite_keeps | apply ite_keeps2 | apply ite_keeps1 | apply State.advance_keeps
      | apply State.applyRollback_keeps | apply State.live_keeps | apply State.liveApply_keeps
      | apply State.tryDispatch_keeps)
    | (intro _ _ _; try dsimp only) | (intro _ _; try dsimp only) | (intro _; try dsimp only)
    | (apply Keeps.mk; dsimp only; with_reducible refine Keeps.upd ?_) | split | dsimp only

theorem State.carryOut_keeps {root : State} {s : State} {c slot : Nat} {r : CarryRow} (h_s : Keeps True True True q4 q5 q6 True True True q10 q11 q12 q13 q14 True q16 q17 q18 root s) : Keeps True True True q4 q5 q6 True True True q10 q11 q12 q13 q14 True q16 q17 q18 root (State.carryOut s c slot r) := by
  unfold State.carryOut
  try dsimp only
  repeat' first
    | (with_reducible first
      | assumption | apply ite_keeps | apply ite_keeps2 | apply ite_keeps1 | apply State.dramWrite_keeps
      | apply State.faultCtx_keeps | apply State.winRead_keeps)
    | (apply Keeps.mk; dsimp only; with_reducible refine Keeps.upd ?_) | split | dsimp only

theorem State.carryIn_keeps {root : State} {s : State} {c slot : Nat} {r : CarryRow} (h_s : Keeps True True True q4 q5 q6 True True True q10 q11 q12 q13 q14 True q16 q17 q18 root s) : Keeps True True True q4 q5 q6 True True True q10 q11 q12 q13 q14 True q16 q17 q18 root (State.carryIn s c slot r) := by
  unfold State.carryIn
  try dsimp only
  repeat' first
    | (with_reducible first
      | assumption | apply State.dramRead_keeps | apply State.winWrite_keeps)
    | (apply Keeps.mk; dsimp only; with_reducible refine Keeps.upd ?_) | split | dsimp only

theorem State.putAside_keeps {root : State} {s : State} {c : Nat} (h_s : Keeps q1 q2 q3 q4 q5 q6 q7 q8 True q10 q11 True q13 q14 q15 q16 q17 q18 root s) : Keeps q1 q2 q3 q4 q5 q6 q7 q8 True q10 q11 True q13 q14 q15 q16 q17 q18 root (State.putAside s c) := by
  unfold State.putAside
  try dsimp only
  repeat' first
    | (with_reducible first
      | assumption | apply State.modCtx_keeps | apply State.modFurrow_keeps | apply foldl_keeps | apply foldl_keeps2
      | apply foldl_keeps1 | apply foldl_keeps22)
    | (intro _ _ _; try dsimp only) | (intro _ _; try dsimp only) | (intro _; try dsimp only)
    | (apply Keeps.mk; dsimp only; with_reducible refine Keeps.upd ?_) | dsimp only

theorem State.dropDeficits_keeps {root : State} {s : State} {slot : Nat} (h_s : Keeps q1 q2 q3 q4 q5 q6 q7 q8 True q10 q11 q12 q13 q14 q15 q16 q17 q18 root s) : Keeps q1 q2 q3 q4 q5 q6 q7 q8 True q10 q11 q12 q13 q14 q15 q16 q17 q18 root (State.dropDeficits s slot) := by
  unfold State.dropDeficits
  try dsimp only
  repeat' first
    | (with_reducible first
      | assumption)
    | (intro _ _ _; try dsimp only) | (intro _ _; try dsimp only) | (intro _; try dsimp only)
    | (apply Keeps.mk; dsimp only; with_reducible refine Keeps.upd ?_) | dsimp only

theorem State.leaveSlot_keeps {root : State} {s : State} {k slot : Nat} (h_s : Keeps q1 q2 True True True q6 q7 True True q10 q11 q12 q13 q14 q15 q16 q17 q18 root s) : Keeps q1 q2 True True True q6 q7 True True q10 q11 q12 q13 q14 q15 q16 q17 q18 root (State.leaveSlot s k slot) := by
  unfold State.leaveSlot
  try dsimp only
  repeat' first
    | (with_reducible first
      | assumption | apply State.dropDeficits_keeps | apply State.freeSlot_keeps | apply State.modCtx_keeps
      | apply State.restagePace_keeps)
    | (intro _ _ _; try dsimp only) | (intro _ _; try dsimp only) | (intro _; try dsimp only)
    | (apply Keeps.mk; dsimp only; with_reducible refine Keeps.upd ?_) | dsimp only

theorem State.preempted_keeps {root : State} {s : State} {k slot : Nat} {rows : List CarryRow} (h_s : Keeps True True True True True q6 True True True q10 q11 True q13 True True q16 q17 True root s) : Keeps True True True True True q6 True True True q10 q11 True q13 True True q16 q17 True root (State.preempted s k slot rows) := by
  unfold State.preempted
  try dsimp only
  repeat' first
    | (with_reducible first
      | assumption | apply State.bump_keeps | apply State.carryOut_keeps | apply State.clearWindows_keeps
      | apply State.leaveSlot_keeps | apply State.putAside_keeps | apply State.releaseSprouts_keeps | apply foldl_keeps)
    | (intro _ _ _; try dsimp only) | (intro _ _; try dsimp only) | (intro _; try dsimp only) | dsimp only

theorem execPreemptionComplete_keeps {c : Ctx} {rows : List CarryRow} {t : Nat} {s : State} {fin : State} (h : execPreemptionComplete c rows t s = .next fin) : Keeps True True True True True True True True True False False True False True True False False True s fin := by
  have h_s : Keeps True True True True True True True True True False False True False True True False False True s s := Keeps.refl s
  unfold execPreemptionComplete at h
  obtain rfl := Host.Outcome.next.inj h
  try dsimp only
  repeat' first
    | (with_reducible first
      | assumption | apply ite_keeps | apply ite_keeps2 | apply ite_keeps1 | apply State.advance_keeps
      | apply State.live_keeps | apply State.liveApply_keeps | apply State.preempted_keeps)
    | (intro _ _ _; try dsimp only) | (intro _ _; try dsimp only) | (intro _; try dsimp only)
    | (apply Keeps.mk; dsimp only; with_reducible refine Keeps.upd ?_) | split | dsimp only

theorem State.placeWin_keeps {root : State} {s : State} {c slot : Nat} {w : WinPlace} (h_s : Keeps q1 q2 q3 True True q6 True q8 q9 q10 q11 q12 q13 q14 q15 q16 q17 q18 root s) : Keeps q1 q2 q3 True True q6 True q8 q9 q10 q11 q12 q13 q14 q15 q16 q17 q18 root (State.placeWin s c slot w) := by
  unfold State.placeWin
  try dsimp only
  repeat' first
    | (with_reducible first
      | assumption | apply State.actPut_keeps | apply State.winEnter_keeps)
    | dsimp only

theorem execSwapIn_keeps {c : Ctx} {wins : List WinPlace} {rows : List CarryRow} {t : Nat} {s : State} {fin : State} (h : execSwapIn c wins rows t s = .next fin) : Keeps True True True True True True True True True True False True False True True False False False s fin := by
  have h_s : Keeps True True True True True True True True True True False True False True True False False False s s := Keeps.refl s
  unfold execSwapIn at h
  obtain rfl := Host.Outcome.next.inj h
  try dsimp only
  repeat' first
    | (with_reducible first
      | assumption | apply ite_keeps | apply ite_keeps2 | apply ite_keeps1 | apply ite_keeps22 | apply State.advance_keeps
      | apply State.carryIn_keeps | apply State.faultCtx_keeps | apply State.live_keeps | apply State.liveApply_keeps
      | apply State.modCtx_keeps | apply State.modFurrow_keeps | apply State.placeWin_keeps | apply State.restagePace_keeps
      | apply State.tryDispatch_keeps | apply foldl_keeps | apply foldl_keeps2 | apply foldl_keeps1 | apply foldl_keeps22)
    | (intro _ _ _; try dsimp only) | (intro _ _; try dsimp only) | (intro _; try dsimp only)
    | (apply Keeps.mk; dsimp only; with_reducible refine Keeps.upd ?_) | split | dsimp only

theorem execContextSwapOut_keeps {v : View} {c : Ctx} {s : State} {fin : State} (h : execContextSwapOut v c s = .next fin) : Keeps False False True False False False False False True False False False False False False False False True s fin := by
  have h_s : Keeps False False True False False False False False True False False False False False False False False True s s := Keeps.refl s
  unfold execContextSwapOut at h
  obtain rfl := Host.Outcome.next.inj h
  try dsimp only
  repeat' first
    | (with_reducible first
      | assumption | apply ite_keeps | apply State.beginSwapOut_keeps | apply State.commanded_keeps | apply State.live_keeps)
    | (intro _ _ _; try dsimp only) | (intro _ _; try dsimp only) | (intro _; try dsimp only) | split | dsimp only

theorem execContextBlocked_keeps {c : Ctx} {t : Nat} {s : State} {fin : State} (h : execContextBlocked c t s = .next fin) : Keeps False False True True False True False False True False False False False False False False False True s fin := by
  have h_s : Keeps False False True True False True False False True False False False False False False False False True s s := Keeps.refl s
  unfold execContextBlocked at h
  obtain rfl := Host.Outcome.next.inj h
  try dsimp only
  repeat' first
    | (with_reducible first
      | assumption | apply ite_keeps | apply ite_keeps2 | apply ite_keeps1 | apply State.advance_keeps
      | apply State.liveApply_keeps | apply State.modCtx_keeps | apply State.retryDeferred_keeps)
    | (intro _ _ _; try dsimp only) | (intro _ _; try dsimp only) | (intro _; try dsimp only)
    | (apply Keeps.mk; dsimp only; with_reducible refine Keeps.upd ?_) | split | dsimp only

theorem execContextTeardown_keeps {c : Ctx} {t : Nat} {s : State} {fin : State} (h : execContextTeardown c t s = .next fin) : Keeps True True True True False True True True True True False True False False False False False True s fin := by
  have h_s : Keeps True True True True False True True True True True False True False False False False False True s s := Keeps.refl s
  unfold execContextTeardown at h
  obtain rfl := Host.Outcome.next.inj h
  try dsimp only
  repeat' first
    | (with_reducible first
      | assumption | apply ite_keeps | apply ite_keeps2 | apply ite_keeps1 | apply State.advance_keeps
      | apply State.bump_keeps | apply State.dropWork_keeps | apply State.live_keeps | apply State.liveApply_keeps
      | apply State.modCtx_keeps | apply State.modFurrow_keeps | apply State.modSprout_keeps | apply State.raise_keeps
      | apply foldl_keeps | apply foldl_keeps2 | apply foldl_keeps1 | apply foldl_keeps22)
    | (intro _ _ _; try dsimp only) | (intro _ _; try dsimp only) | (intro _; try dsimp only)
    | (apply Keeps.mk; dsimp only; with_reducible refine Keeps.upd ?_) | split | dsimp only

theorem State.killArea_keeps {root : State} {s : State} {c : Nat} {hold : Bool} {a : Nat × Nat} (h_s : Keeps True True True q4 q5 q6 q7 q8 q9 q10 q11 q12 q13 True q15 q16 q17 q18 root s) : Keeps True True True q4 q5 q6 q7 q8 q9 q10 q11 q12 q13 True q15 q16 q17 q18 root (State.killArea s c hold a) := by
  unfold State.killArea
  try dsimp only
  repeat' first
    | (with_reducible first
      | assumption | apply ite_keeps | apply ite_keeps2 | apply ite_keeps1 | apply State.bump_keeps
      | apply State.zeroBytes_keeps)
    | (apply Keeps.mk; dsimp only; with_reducible refine Keeps.upd ?_) | split | dsimp only

theorem State.faultRecord_keeps {root : State} {s : State} {c cause : Nat} (h_s : Keeps q1 q2 True q4 q5 q6 q7 True True q10 q11 q12 q13 q14 q15 q16 q17 q18 root s) : Keeps q1 q2 True q4 q5 q6 q7 True True q10 q11 q12 q13 q14 q15 q16 q17 q18 root (State.faultRecord s c cause) := by
  unfold State.faultRecord
  try dsimp only
  repeat' first
    | (with_reducible first
      | assumption | apply State.plan_keeps | apply State.pushHarvest_keeps)
    | dsimp only

theorem State.kill_keeps {root : State} {s : State} {k cause : Nat} (h_s : Keeps True True True True True q6 True True True q10 q11 True q13 True q15 q16 q17 True root s) : Keeps True True True True True q6 True True True q10 q11 True q13 True q15 q16 q17 True root (State.kill s k cause) := by
  unfold State.kill
  try dsimp only
  repeat' first
    | (with_reducible first
      | assumption | apply State.clearWindows_keeps | apply State.debugEnd_keeps | apply State.dropDeficits_keeps
      | apply State.faultRecord_keeps | apply State.freeSlot_keeps | apply State.harvestAll_keeps
      | apply State.killArea_keeps | apply State.modCtx_keeps | apply State.modFurrow_keeps
      | apply State.releaseSprouts_keeps | apply State.restagePace_keeps | apply foldl_keeps | apply foldl_keeps2
      | apply foldl_keeps1 | apply foldl_keeps22)
    | (intro _ _ _; try dsimp only) | (intro _ _; try dsimp only) | (intro _; try dsimp only)
    | (apply Keeps.mk; dsimp only; with_reducible refine Keeps.upd ?_) | dsimp only

theorem execTeardownComplete_keeps {c : Ctx} {t : Nat} {s : State} {fin : State} (h : execTeardownComplete c t s = .next fin) : Keeps True True True True True True True True True False False True False True False False False True s fin := by
  have h_s : Keeps True True True True True True True True True False False True False True False False False True s s := Keeps.refl s
  unfold execTeardownComplete at h
  obtain rfl := Host.Outcome.next.inj h
  try dsimp only
  repeat' first
    | (with_reducible first
      | assumption | apply ite_keeps | apply ite_keeps2 | apply ite_keeps1 | apply State.advance_keeps
      | apply State.kill_keeps | apply State.liveApply_keeps)
    | (intro _ _ _; try dsimp only) | (intro _ _; try dsimp only) | (intro _; try dsimp only) | split | dsimp only

theorem execContextRestart_keeps {v : View} {c : Ctx} {s : State} {fin : State} (h : execContextRestart v c s = .next fin) : Keeps False False True True False False False False True False False False False False False False False False s fin := by
  have h_s : Keeps False False True True False False False False True False False False False False False False False False s s := Keeps.refl s
  unfold execContextRestart at h
  obtain rfl := Host.Outcome.next.inj h
  try dsimp only
  repeat' first
    | (with_reducible first
      | assumption | apply ite_keeps | apply State.commanded_keeps | apply State.liveApply_keeps | apply State.modCtx_keeps)
    | (intro _ _ _; try dsimp only) | (intro _ _; try dsimp only) | (intro _; try dsimp only)
    | (apply Keeps.mk; dsimp only; with_reducible refine Keeps.upd ?_) | split | dsimp only

theorem execRmsSlotQ_keeps {v : View} {x : Word} {s : State} {fin : State} (h : execRmsSlotQ v x s = .next fin) : Keeps False False False False False False False False True False False False False False False False False False s fin := by
  have h_s : Keeps False False False False False False False False True False False False False False False False False False s s := Keeps.refl s
  unfold execRmsSlotQ at h
  obtain rfl := Host.Outcome.next.inj h
  try dsimp only
  repeat' first
    | (with_reducible first
      | assumption | apply State.live_keeps | apply State.written_keeps)
    | (intro _ _ _; try dsimp only) | (intro _ _; try dsimp only) | (intro _; try dsimp only)
    | (apply Keeps.mk; dsimp only; with_reducible refine Keeps.upd ?_) | dsimp only

theorem execRmsAcctQ_keeps {v : View} {x : Word} {s : State} {fin : State} (h : execRmsAcctQ v x s = .next fin) : Keeps False False True False False False False False True False False False False False False False False False s fin := by
  have h_s : Keeps False False True False False False False False True False False False False False False False False False s s := Keeps.refl s
  unfold execRmsAcctQ at h
  obtain rfl := Host.Outcome.next.inj h
  try dsimp only
  repeat' first
    | (with_reducible first
      | assumption | apply State.commanded_keeps | apply State.live_keeps)
    | (intro _ _ _; try dsimp only) | (intro _ _; try dsimp only) | (intro _; try dsimp only)
    | (apply Keeps.mk; dsimp only; with_reducible refine Keeps.upd ?_) | dsimp only

theorem execTrpSlotQ_keeps {v : View} {x : Word} {s : State} {fin : State} (h : execTrpSlotQ v x s = .next fin) : Keeps False False False False False False False False True False False False False False False False False False s fin := by
  have h_s : Keeps False False False False False False False False True False False False False False False False False False s s := Keeps.refl s
  unfold execTrpSlotQ at h
  obtain rfl := Host.Outcome.next.inj h
  try dsimp only
  repeat' first
    | (with_reducible first
      | assumption | apply State.live_keeps | apply State.written_keeps)
    | (intro _ _ _; try dsimp only) | (intro _ _; try dsimp only) | (intro _; try dsimp only)
    | (apply Keeps.mk; dsimp only; with_reducible refine Keeps.upd ?_) | dsimp only

theorem execRmsGhEvalQ_keeps {v : View} {x : Word} {s : State} {fin : State} (h : execRmsGhEvalQ v x s = .next fin) : Keeps False False True False False False False False True False False False False False False False False False s fin := by
  have h_s : Keeps False False True False False False False False True False False False False False False False False False s s := Keeps.refl s
  unfold execRmsGhEvalQ at h
  obtain rfl := Host.Outcome.next.inj h
  try dsimp only
  repeat' first
    | (with_reducible first
      | assumption | apply State.commanded_keeps | apply State.live_keeps)
    | (intro _ _ _; try dsimp only) | (intro _ _; try dsimp only) | (intro _; try dsimp only)
    | (apply Keeps.mk; dsimp only; with_reducible refine Keeps.upd ?_) | dsimp only

theorem State.rosterDone_keeps {root : State} {s : State} {c result : Nat} (h_s : Keeps q1 q2 True q4 q5 q6 q7 q8 True q10 q11 q12 q13 q14 q15 q16 q17 q18 root s) : Keeps q1 q2 True q4 q5 q6 q7 q8 True q10 q11 q12 q13 q14 q15 q16 q17 q18 root (State.rosterDone s c result) := by
  unfold State.rosterDone
  try dsimp only
  repeat' first
    | (with_reducible first
      | assumption | apply ite_keeps | apply ite_keeps2 | apply ite_keeps1 | apply State.raise_keeps)
    | (apply Keeps.mk; dsimp only; with_reducible refine Keeps.upd ?_) | split | dsimp only

theorem execRosterWrite_keeps {v : View} {index : Fin 4096} {s : State} {fin : State} (h : execRosterWrite v index s = .next fin) : Keeps False False True False False False False False True False False False False False False False False False s fin := by
  have h_s : Keeps False False True False False False False False True False False False False False False False False False s s := Keeps.refl s
  unfold execRosterWrite at h
  obtain rfl := Host.Outcome.next.inj h
  try dsimp only
  repeat' first
    | (with_reducible first
      | assumption | apply ite_keeps | apply ite_keeps2 | apply ite_keeps1 | apply State.live_keeps
      | apply State.rosterDone_keeps | apply State.written_keeps)
    | (intro _ _ _; try dsimp only) | (intro _ _; try dsimp only) | (intro _; try dsimp only)
    | (apply Keeps.mk; dsimp only; with_reducible refine Keeps.upd ?_) | split | dsimp only

theorem execRosterClear_keeps {v : View} {index : Fin 4096} {s : State} {fin : State} (h : execRosterClear v index s = .next fin) : Keeps False False True False False False False False True False False False False False False False False False s fin := by
  have h_s : Keeps False False True False False False False False True False False False False False False False False False s s := Keeps.refl s
  unfold execRosterClear at h
  obtain rfl := Host.Outcome.next.inj h
  try dsimp only
  repeat' first
    | (with_reducible first
      | assumption | apply ite_keeps | apply ite_keeps2 | apply ite_keeps1 | apply State.live_keeps
      | apply State.rosterDone_keeps | apply State.written_keeps)
    | (intro _ _ _; try dsimp only) | (intro _ _; try dsimp only) | (intro _; try dsimp only)
    | (apply Keeps.mk; dsimp only; with_reducible refine Keeps.upd ?_) | split | dsimp only

end Sys2Proof.Machine
end

