-- ==== Sys2Proof/Laws/KeepsSieve.lean ====
section
/-!
SUPPORT. What the definitions of Machine/Sieve.lean keep, each by the definitions it is made of.
-/

namespace Sys2Proof.Machine

open Sys2Proof

set_option Elab.async false

set_option linter.unusedVariables false
set_option linter.unreachableTactic false
set_option linter.unusedTactic false



variable {q1 q2 q3 q4 q5 q6 q7 q8 q9 q10 q11 q12 q13 q14 q15 q16 q17 q18 : Prop}

theorem execRowVerdict_keeps {plot : Plot} {bank : Fin 2} {onC onS : Int} {s : State} {fin : State} (h : execRowVerdict plot bank onC onS s = .next fin) : Keeps True True True False False False True True True False False False False False False False False True s fin := by
  have h_s : Keeps True True True False False False True True True False False False False False False False False True s s := Keeps.refl s
  unfold execRowVerdict at h
  obtain rfl := Host.Outcome.next.inj h
  try dsimp only
  repeat' first
    | (with_reducible first
      | assumption | apply ite_keeps | apply ite_keeps2 | apply ite_keeps1 | apply State.bump_keeps | apply State.live_keeps
      | apply State.modBtp_keeps | apply State.modSiv_keeps | apply State.pumpBtp_keeps | apply State.pumpSieve_keeps
      | apply State.raise_keeps | apply State.verdictLine_keeps)
    | (intro _ _ _; try dsimp only) | (intro _ _; try dsimp only) | (intro _; try dsimp only)
    | (apply Keeps.mk; dsimp only; with_reducible refine Keeps.upd ?_) | split | dsimp only

theorem State.takeNet_keeps {root : State} {s : State} {n k c : Nat} (h_s : Keeps True True True q4 q5 q6 True True True q10 q11 q12 q13 q14 q15 q16 q17 q18 root s) : Keeps True True True q4 q5 q6 True True True q10 q11 q12 q13 q14 q15 q16 q17 q18 root (State.takeNet s n k c) := by
  unfold State.takeNet
  try dsimp only
  repeat' first
    | (with_reducible first
      | assumption | apply State.bump_keeps | apply State.modBtp_keeps | apply State.pumpSieve_keeps
      | apply State.raise_keeps)
    | (intro _ _ _; try dsimp only) | (intro _ _; try dsimp only) | (intro _; try dsimp only)
    | (apply Keeps.mk; dsimp only; with_reducible refine Keeps.upd ?_) | dsimp only

theorem execReplayRequest_keeps {plot : Plot} {t : Nat} {s : State} {fin : State} (h : execReplayRequest plot t s = .next fin) : Keeps True True True False False True True True True False False False False False True False False False s fin := by
  have h_s : Keeps True True True False False True True True True False False False False False True False False False s s := Keeps.refl s
  unfold execReplayRequest at h
  obtain rfl := Host.Outcome.next.inj h
  try dsimp only
  repeat' first
    | (with_reducible first
      | assumption | apply ite_keeps | apply ite_keeps2 | apply ite_keeps1 | apply State.advance_keeps
      | apply State.btpFault_keeps | apply State.bump_keeps | apply State.live_keeps | apply State.modBtp_keeps
      | apply State.takeNet_keeps | apply State.tightGrant_keeps)
    | (intro _ _ _; try dsimp only) | (intro _ _; try dsimp only) | (intro _; try dsimp only)
    | (apply Keeps.mk; dsimp only; with_reducible refine Keeps.upd ?_) | split | dsimp only

theorem State.replayPass_keeps {root : State} {s : State} {n : Nat} {q : PassReq} {first second : Nat} (h_s : Keeps q1 q2 True q4 q5 q6 True True True q10 q11 q12 q13 q14 q15 q16 q17 q18 root s) : Keeps q1 q2 True q4 q5 q6 True True True q10 q11 q12 q13 q14 q15 q16 q17 q18 root (State.replayPass s n q first second) := by
  unfold State.replayPass
  try dsimp only
  repeat' first
    | (with_reducible first
      | assumption | apply ite_keeps | apply ite_keeps2 | apply ite_keeps1 | apply State.accumulate_keeps
      | apply State.reloadTile_keeps | apply State.tableRows_keeps)
    | split | dsimp only

theorem State.replayPasses_keeps {root : State} {s : State} {n k : Nat} {flips : List Nat} (h_s : Keeps q1 q2 True q4 q5 q6 True True True q10 q11 q12 q13 q14 q15 q16 q17 q18 root s) : Keeps q1 q2 True q4 q5 q6 True True True q10 q11 q12 q13 q14 q15 q16 q17 q18 root (State.replayPasses s n k flips) := by
  unfold State.replayPasses
  try dsimp only
  repeat' first
    | (with_reducible first
      | assumption | apply State.modBtp_keeps | apply State.replayPass_keeps | apply foldl_keeps)
    | (intro _ _ _; try dsimp only) | (intro _ _; try dsimp only) | (intro _; try dsimp only)
    | (apply Keeps.mk; dsimp only; with_reducible refine Keeps.upd ?_) | split | dsimp only

theorem execReplayComplete_keeps {plot : Plot} {bank : Fin 2} {bad : Nat} {flips : List Nat} {t : Nat} {s : State} {fin : State} (h : execReplayComplete plot bank bad flips t s = .next fin) : Keeps True True True False False True True True True False False False False False False False False False s fin := by
  have h_s : Keeps True True True False False True True True True False False False False False False False False False s s := Keeps.refl s
  unfold execReplayComplete at h
  obtain rfl := Host.Outcome.next.inj h
  try dsimp only
  repeat' first
    | (with_reducible first
      | assumption | apply ite_keeps | apply ite_keeps2 | apply ite_keeps1 | apply State.advance_keeps
      | apply State.btpFault_keeps | apply State.bumpBy_keeps | apply State.grantDone_keeps | apply State.live_keeps
      | apply State.modBtp_keeps | apply State.pumpSieve_keeps | apply State.raise_keeps | apply State.replayPasses_keeps
      | apply State.setSuspect_keeps | apply State.takeNet_keeps)
    | (intro _ _ _; try dsimp only) | (intro _ _; try dsimp only) | (intro _; try dsimp only)
    | (apply Keeps.mk; dsimp only; with_reducible refine Keeps.upd ?_) | split | dsimp only

theorem execLocaliseStart_keeps {plot : Plot} {s : State} {fin : State} (h : execLocaliseStart plot s = .next fin) : Keeps False False False False False False True False False False False False False False False False False False s fin := by
  have h_s : Keeps False False False False False False True False False False False False False False False False False False s s := Keeps.refl s
  unfold execLocaliseStart at h
  obtain rfl := Host.Outcome.next.inj h
  try dsimp only
  repeat' first
    | (with_reducible first
      | assumption | apply ite_keeps | apply State.live_keeps | apply State.modBtp_keeps)
    | (intro _ _ _; try dsimp only) | (intro _ _; try dsimp only) | (intro _; try dsimp only)
    | (apply Keeps.mk; dsimp only; with_reducible refine Keeps.upd ?_) | split | dsimp only

theorem execLocalised_keeps {plot : Plot} {kind : Fin 7} {row col : Fin 258} {flips : List Nat} {s : State} {fin : State} (h : execLocalised plot kind row col flips s = .next fin) : Keeps False False True False False False True True True False False False False False False False False True s fin := by
  have h_s : Keeps False False True False False False True True True False False False False False False False False True s s := Keeps.refl s
  unfold execLocalised at h
  obtain rfl := Host.Outcome.next.inj h
  try dsimp only
  repeat' first
    | (with_reducible first
      | assumption | apply ite_keeps | apply ite_keeps2 | apply ite_keeps1 | apply State.btpFault_keeps
      | apply State.live_keeps | apply State.modBtp_keeps | apply State.pumpBtp_keeps | apply State.raise_keeps
      | apply State.reloadTiles_keeps)
    | (intro _ _ _; try dsimp only) | (intro _ _; try dsimp only) | (intro _; try dsimp only)
    | (apply Keeps.mk; dsimp only; with_reducible refine Keeps.upd ?_) | split | dsimp only

theorem State.mapEffect_keeps {root : State} {s : State} {n : Nat} {flips : List Nat} (h_s : Keeps q1 q2 True q4 q5 q6 True True True q10 q11 q12 q13 q14 q15 q16 q17 q18 root s) : Keeps q1 q2 True q4 q5 q6 True True True q10 q11 q12 q13 q14 q15 q16 q17 q18 root (State.mapEffect s n flips) := by
  unfold State.mapEffect
  try dsimp only
  repeat' first
    | (with_reducible first
      | assumption | apply State.modBtp_keeps | apply State.reloadTiles_keeps)
    | (intro _ _ _; try dsimp only) | (intro _ _; try dsimp only) | (intro _; try dsimp only)
    | (apply Keeps.mk; dsimp only; with_reducible refine Keeps.upd ?_) | dsimp only

theorem execSpareMapEffect_keeps {plot : Plot} {flips : List Nat} {s : State} {fin : State} (h : execSpareMapEffect plot flips s = .next fin) : Keeps False False True False False False True True True False False False False False False False False True s fin := by
  have h_s : Keeps False False True False False False True True True False False False False False False False False True s s := Keeps.refl s
  unfold execSpareMapEffect at h
  obtain rfl := Host.Outcome.next.inj h
  try dsimp only
  repeat' first
    | (with_reducible first
      | assumption | apply ite_keeps | apply State.live_keeps | apply State.mapEffect_keeps | apply State.modBtp_keeps
      | apply State.pumpBtp_keeps)
    | (intro _ _ _; try dsimp only) | (intro _ _; try dsimp only) | (intro _; try dsimp only)
    | (apply Keeps.mk; dsimp only; with_reducible refine Keeps.upd ?_) | split | dsimp only

theorem execSpareMapTimeout_keeps {plot : Plot} {flips : List Nat} {t : Nat} {s : State} {fin : State} (h : execSpareMapTimeout plot flips t s = .next fin) : Keeps False False True False False True True True True False False False False False False False False True s fin := by
  have h_s : Keeps False False True False False True True True True False False False False False False False False True s s := Keeps.refl s
  unfold execSpareMapTimeout at h
  obtain rfl := Host.Outcome.next.inj h
  try dsimp only
  repeat' first
    | (with_reducible first
      | assumption | apply ite_keeps | apply ite_keeps2 | apply ite_keeps1 | apply State.advance_keeps
      | apply State.live_keeps | apply State.mapEffect_keeps | apply State.modBtp_keeps | apply State.pumpBtp_keeps)
    | (intro _ _ _; try dsimp only) | (intro _ _; try dsimp only) | (intro _; try dsimp only)
    | (apply Keeps.mk; dsimp only; with_reducible refine Keeps.upd ?_) | split | dsimp only

theorem execChain_keeps {plot : Plot} {c : Ctx} {step : Nat} {entry : Fin 32} {desc name bankName act : Nat} {races : List (Fin 256)} {t : Nat} {s : State} {fin : State} (h : execChain plot c step entry desc name bankName act races t s = .next fin) : Keeps True True True False False True True True True False False False False False False False False False s fin := by
  have h_s : Keeps True True True False False True True True True False False False False False False False False False s s := Keeps.refl s
  unfold execChain at h
  obtain rfl := Host.Outcome.next.inj h
  try dsimp only
  repeat' first
    | (with_reducible first
      | assumption | apply ite_keeps | apply ite_keeps2 | apply ite_keeps1 | apply State.advance_keeps
      | apply State.faultCtx_keeps | apply State.live_keeps | apply State.modSiv_keeps | apply State.pumpSieve_keeps)
    | (intro _ _ _; try dsimp only) | (intro _ _; try dsimp only) | (intro _; try dsimp only)
    | (apply Keeps.mk; dsimp only; with_reducible refine Keeps.upd ?_) | split | dsimp only

theorem State.addNumflags_keeps {root : State} {s : State} {q : ChainReq} {flags : Nat} (h_s : Keeps q1 q2 q3 q4 q5 q6 q7 q8 True q10 q11 q12 q13 q14 q15 q16 q17 q18 root s) : Keeps q1 q2 q3 q4 q5 q6 q7 q8 True q10 q11 q12 q13 q14 q15 q16 q17 q18 root (State.addNumflags s q flags) := by
  unfold State.addNumflags
  try dsimp only
  repeat' first
    | (with_reducible first
      | assumption | apply ite_keeps | apply ite_keeps2 | apply ite_keeps1 | apply State.modStep_keeps)
    | (intro _ _ _; try dsimp only) | (intro _ _; try dsimp only) | (intro _; try dsimp only)
    | (apply Keeps.mk; dsimp only; with_reducible refine Keeps.upd ?_) | split | dsimp only

theorem State.finishChain_keeps {root : State} {s : State} {n : Nat} {r : ChainResult} (h_s : Keeps True True True q4 q5 q6 True True True q10 q11 q12 q13 q14 q15 q16 q17 True root s) : Keeps True True True q4 q5 q6 True True True q10 q11 q12 q13 q14 q15 q16 q17 True root (State.finishChain s n r) := by
  unfold State.finishChain
  try dsimp only
  repeat' first
    | (with_reducible first
      | assumption | apply ite_keeps | apply ite_keeps2 | apply ite_keeps1 | apply State.addNumflags_keeps
      | apply State.bump_keeps | apply State.modSiv_keeps | apply State.modStep_keeps | apply State.opDone_keeps
      | apply State.pumpBtp_keeps | apply State.pumpSieve_keeps | apply State.use_keeps | apply State.winWrite_keeps)
    | (intro _ _ _; try dsimp only) | (intro _ _; try dsimp only) | (intro _; try dsimp only)
    | (apply Keeps.mk; dsimp only; with_reducible refine Keeps.upd ?_) | split | dsimp only

theorem State.denyRetry_keeps {root : State} {s : State} {n : Nat} {r : ChainResult} (h_s : Keeps True True True q4 q5 q6 True True True q10 q11 q12 q13 q14 q15 q16 q17 True root s) : Keeps True True True q4 q5 q6 True True True q10 q11 q12 q13 q14 q15 q16 q17 True root (State.denyRetry s n r) := by
  unfold State.denyRetry
  try dsimp only
  repeat' first
    | (with_reducible first
      | assumption | apply ite_keeps | apply ite_keeps2 | apply ite_keeps1 | apply State.bump_keeps
      | apply State.fallBack_keeps | apply State.finishChain_keeps)
    | (apply Keeps.mk; dsimp only; with_reducible refine Keeps.upd ?_) | split | dsimp only

theorem execChainEnd_keeps {plot : Plot} {t : Nat} {s : State} {fin : State} (h : execChainEnd plot t s = .next fin) : Keeps True True True False False True True True True False False False False False False False False True s fin := by
  have h_s : Keeps True True True False False True True True True False False False False False False False False True s s := Keeps.refl s
  unfold execChainEnd at h
  obtain rfl := Host.Outcome.next.inj h
  try dsimp only
  repeat' first
    | (with_reducible first
      | assumption | apply ite_keeps | apply ite_keeps2 | apply ite_keeps1 | apply State.advance_keeps
      | apply State.denyRetry_keeps | apply State.finishChain_keeps | apply State.live_keeps | apply State.modSiv_keeps)
    | (intro _ _ _; try dsimp only) | (intro _ _; try dsimp only) | (intro _; try dsimp only)
    | (apply Keeps.mk; dsimp only; with_reducible refine Keeps.upd ?_) | split | dsimp only

theorem execRetryRequest_keeps {plot : Plot} {cost t : Nat} {s : State} {fin : State} (h : execRetryRequest plot cost t s = .next fin) : Keeps True True True False False True True True True False False False False False True False False True s fin := by
  have h_s : Keeps True True True False False True True True True False False False False False True False False True s s := Keeps.refl s
  unfold execRetryRequest at h
  obtain rfl := Host.Outcome.next.inj h
  try dsimp only
  repeat' first
    | (with_reducible first
      | assumption | apply ite_keeps | apply ite_keeps2 | apply ite_keeps1 | apply State.advance_keeps
      | apply State.denyRetry_keeps | apply State.live_keeps | apply State.modSiv_keeps | apply State.tightGrant_keeps)
    | (intro _ _ _; try dsimp only) | (intro _ _; try dsimp only) | (intro _; try dsimp only)
    | (apply Keeps.mk; dsimp only; with_reducible refine Keeps.upd ?_) | split | dsimp only

theorem execRetryPassEnd_keeps {plot : Plot} {t : Nat} {s : State} {fin : State} (h : execRetryPassEnd plot t s = .next fin) : Keeps True True True False False True True True True False False False False False False False False True s fin := by
  have h_s : Keeps True True True False False True True True True False False False False False False False False True s s := Keeps.refl s
  unfold execRetryPassEnd at h
  obtain rfl := Host.Outcome.next.inj h
  try dsimp only
  repeat' first
    | (with_reducible first
      | assumption | apply ite_keeps | apply ite_keeps2 | apply ite_keeps1 | apply State.advance_keeps
      | apply State.bump_keeps | apply State.bumpBy_keeps | apply State.chainBody_keeps | apply State.countTally_keeps
      | apply State.finishChain_keeps | apply State.grantDone_keeps | apply State.live_keeps | apply State.modSiv_keeps
      | apply State.pumpSieve_keeps)
    | (intro _ _ _; try dsimp only) | (intro _ _; try dsimp only) | (intro _; try dsimp only)
    | (apply Keeps.mk; dsimp only; with_reducible refine Keeps.upd ?_) | split | dsimp only

end Sys2Proof.Machine
end

