-- ==== Sys2Proof/Laws/KeepsTasks.lean ====
section
/-!
SUPPORT. What the definitions of Machine/Tasks.lean keep, each by the definitions it is made of.
-/

namespace Sys2Proof.Machine

open Sys2Proof

set_option Elab.async false

set_option linter.unusedVariables false
set_option linter.unreachableTactic false
set_option linter.unusedTactic false



variable {q1 q2 q3 q4 q5 q6 q7 q8 q9 q10 q11 q12 q13 q14 q15 q16 q17 q18 : Prop}

theorem State.startPrologue_keeps {root : State} {s : State} {c irg layer mask ovl : Nat} (h_s : Keeps q1 q2 q3 q4 q5 q6 q7 q8 q9 q10 q11 True q13 q14 q15 q16 q17 q18 root s) : Keeps q1 q2 q3 q4 q5 q6 q7 q8 q9 q10 q11 True q13 q14 q15 q16 q17 q18 root (State.startPrologue s c irg layer mask ovl) := by
  unfold State.startPrologue
  try dsimp only
  repeat' first
    | (with_reducible first
      | assumption | apply ite_keeps | apply ite_keeps2 | apply ite_keeps1 | apply State.modFurrow_keeps
      | apply State.settleIrg_keeps | apply foldl_keeps | apply foldl_keeps2 | apply foldl_keeps1 | apply foldl_keeps22)
    | (intro _ _ _; try dsimp only) | (intro _ _; try dsimp only) | (intro _; try dsimp only)
    | (apply Keeps.mk; dsimp only; with_reducible refine Keeps.upd ?_) | split | dsimp only

theorem State.dry_keeps {root : State} {s : State} {c n i : Nat} {l : List (Fin 9 × Fin 64 × Nat)} (h_s : Keeps q1 q2 True q4 q5 q6 q7 q8 True q10 q11 q12 q13 q14 q15 q16 q17 q18 root s) : Keeps q1 q2 True q4 q5 q6 q7 q8 True q10 q11 q12 q13 q14 q15 q16 q17 q18 root (State.dry s c n i l) := by
  unfold State.dry
  try dsimp only
  repeat' first
    | (with_reducible first
      | assumption | apply State.bump_keeps | apply State.modTask_keeps | apply State.raise_keeps | apply foldl_keeps
      | apply foldl_keeps2 | apply foldl_keeps1 | apply foldl_keeps22)
    | (intro _ _ _; try dsimp only) | (intro _ _; try dsimp only) | (intro _; try dsimp only)
    | (apply Keeps.mk; dsimp only; with_reducible refine Keeps.upd ?_) | dsimp only

theorem execTaskOp_keeps {c : Ctx} {n i : Nat} {sprout : Fin 16} {net : Bool} {needs : List (Fin 9 × Fin 64 × Nat)} {t : Nat} {s : State} {fin : State} (h : execTaskOp c n i sprout net needs t s = .next fin) : Keeps True True True False False True True True True False False True False False False False False True s fin := by
  have h_s : Keeps True True True False False True True True True False False True False False False False False True s s := Keeps.refl s
  unfold execTaskOp at h
  obtain rfl := Host.Outcome.next.inj h
  try dsimp only
  repeat' first
    | (with_reducible first
      | assumption | apply ite_keeps | apply ite_keeps2 | apply ite_keeps1 | apply ite_keeps22 | apply State.advance_keeps
      | apply State.charge_keeps | apply State.dry_keeps | apply State.live_keeps | apply State.modTask_keeps
      | apply State.startPrologue_keeps | apply State.startSprout_keeps | apply State.takeEntry_keeps | apply foldl_keeps
      | apply foldl_keeps2 | apply foldl_keeps1 | apply foldl_keeps22)
    | (intro _ _ _; try dsimp only) | (intro _ _; try dsimp only) | (intro _; try dsimp only)
    | (apply Keeps.mk; dsimp only; with_reducible refine Keeps.upd ?_) | split | dsimp only

theorem execTaskWait_keeps {c : Ctx} {n i : Nat} {ring : Bool} {t : Nat} {s : State} {fin : State} (h : execTaskWait c n i ring t s = .next fin) : Keeps True True True False False True True True True False False False False False False False False True s fin := by
  have h_s : Keeps True True True False False True True True True False False False False False False False False True s s := Keeps.refl s
  unfold execTaskWait at h
  obtain rfl := Host.Outcome.next.inj h
  try dsimp only
  repeat' first
    | (with_reducible first
      | assumption | apply ite_keeps | apply ite_keeps2 | apply ite_keeps1 | apply State.advance_keeps
      | apply State.live_keeps | apply State.modTask_keeps | apply State.plan_keeps | apply State.takeEntry_keeps)
    | (intro _ _ _; try dsimp only) | (intro _ _; try dsimp only) | (intro _; try dsimp only)
    | (apply Keeps.mk; dsimp only; with_reducible refine Keeps.upd ?_) | split | dsimp only

theorem execTaskSignal_keeps {c : Ctx} {n i : Nat} {t : Nat} {s : State} {fin : State} (h : execTaskSignal c n i t s = .next fin) : Keeps True True True False False True True True True False False False False False False False False True s fin := by
  have h_s : Keeps True True True False False True True True True False False False False False False False False True s s := Keeps.refl s
  unfold execTaskSignal at h
  obtain rfl := Host.Outcome.next.inj h
  try dsimp only
  repeat' first
    | (with_reducible first
      | assumption | apply State.advance_keeps | apply State.live_keeps | apply State.modTask_keeps
      | apply State.takeEntry_keeps)
    | (intro _ _ _; try dsimp only) | (intro _ _; try dsimp only) | (intro _; try dsimp only)
    | (apply Keeps.mk; dsimp only; with_reducible refine Keeps.upd ?_) | dsimp only

theorem execRelease_keeps {c : Ctx} {n i : Nat} {t : Nat} {s : State} {fin : State} (h : execRelease c n i t s = .next fin) : Keeps True True True False False True True True True False True True True False True False False True s fin := by
  have h_s : Keeps True True True False False True True True True False True True True False True False False True s s := Keeps.refl s
  unfold execRelease at h
  obtain rfl := Host.Outcome.next.inj h
  try dsimp only
  repeat' first
    | (with_reducible first
      | assumption | apply State.advance_keeps | apply State.live_keeps | apply State.releaseTiles_keeps
      | apply State.takeEntry_keeps)
    | (intro _ _ _; try dsimp only) | (intro _ _; try dsimp only) | (intro _; try dsimp only) | dsimp only

theorem execTaskBoundary_keeps {c : Ctx} {n i : Nat} {t : Nat} {s : State} {fin : State} (h : execTaskBoundary c n i t s = .next fin) : Keeps True True True False False True True True True False False False False False False False False True s fin := by
  have h_s : Keeps True True True False False True True True True False False False False False False False False True s s := Keeps.refl s
  unfold execTaskBoundary at h
  obtain rfl := Host.Outcome.next.inj h
  try dsimp only
  repeat' first
    | (with_reducible first
      | assumption | apply ite_keeps | apply ite_keeps2 | apply ite_keeps1 | apply State.advance_keeps
      | apply State.faultCtx_keeps | apply State.live_keeps | apply State.modTask_keeps | apply State.takeEntry_keeps)
    | (intro _ _ _; try dsimp only) | (intro _ _; try dsimp only) | (intro _; try dsimp only)
    | (apply Keeps.mk; dsimp only; with_reducible refine Keeps.upd ?_) | split | dsimp only

theorem execTaskPpt_keeps {c : Ctx} {n i : Nat} {count : Nat} {t : Nat} {s : State} {fin : State} (h : execTaskPpt c n i count t s = .next fin) : Keeps True True True False False True True True True False False False False False False False False True s fin := by
  have h_s : Keeps True True True False False True True True True False False False False False False False False True s s := Keeps.refl s
  unfold execTaskPpt at h
  obtain rfl := Host.Outcome.next.inj h
  try dsimp only
  repeat' first
    | (with_reducible first
      | assumption | apply ite_keeps | apply ite_keeps2 | apply ite_keeps1 | apply State.advance_keeps
      | apply State.choicePoint_keeps | apply State.live_keeps | apply State.modTask_keeps | apply State.plan_keeps
      | apply State.saveTask_keeps | apply State.takeEntry_keeps)
    | (intro _ _ _; try dsimp only) | (intro _ _; try dsimp only) | (intro _; try dsimp only)
    | (apply Keeps.mk; dsimp only; with_reducible refine Keeps.upd ?_) | split | dsimp only

theorem execTaskChkpt_keeps {c : Ctx} {n i : Nat} {t : Nat} {s : State} {fin : State} (h : execTaskChkpt c n i t s = .next fin) : Keeps True True True False False True True True True False False False False False False False False True s fin := by
  have h_s : Keeps True True True False False True True True True False False False False False False False False True s s := Keeps.refl s
  unfold execTaskChkpt at h
  obtain rfl := Host.Outcome.next.inj h
  try dsimp only
  repeat' first
    | (with_reducible first
      | assumption | apply State.advance_keeps | apply State.live_keeps | apply State.modStep_keeps
      | apply State.record_keeps | apply State.takeEntry_keeps)
    | (intro _ _ _; try dsimp only) | (intro _ _; try dsimp only) | (intro _; try dsimp only)
    | (apply Keeps.mk; dsimp only; with_reducible refine Keeps.upd ?_) | dsimp only

theorem execTaskFeeds_keeps {c : Ctx} {n i : Nat} {t : Nat} {s : State} {fin : State} (h : execTaskFeeds c n i t s = .next fin) : Keeps True True True False False True True True True False False False False False False False False True s fin := by
  have h_s : Keeps True True True False False True True True True False False False False False False False False True s s := Keeps.refl s
  unfold execTaskFeeds at h
  obtain rfl := Host.Outcome.next.inj h
  try dsimp only
  repeat' first
    | (with_reducible first
      | assumption | apply State.advance_keeps | apply State.live_keeps | apply State.modStep_keeps | apply State.plan_keeps
      | apply State.takeEntry_keeps)
    | (intro _ _ _; try dsimp only) | (intro _ _; try dsimp only) | (intro _; try dsimp only)
    | (apply Keeps.mk; dsimp only; with_reducible refine Keeps.upd ?_) | dsimp only

theorem execTaskEnd_keeps {c : Ctx} {n i : Nat} {t : Nat} {s : State} {fin : State} (h : execTaskEnd c n i t s = .next fin) : Keeps True True True False False True True True True False False False False False False False False True s fin := by
  have h_s : Keeps True True True False False True True True True False False False False False False False False True s s := Keeps.refl s
  unfold execTaskEnd at h
  obtain rfl := Host.Outcome.next.inj h
  try dsimp only
  repeat' first
    | (with_reducible first
      | assumption | apply ite_keeps | apply ite_keeps2 | apply ite_keeps1 | apply State.advance_keeps
      | apply State.choicePoint_keeps | apply State.leaveSprout_keeps | apply State.live_keeps | apply State.modTask_keeps
      | apply State.takeEntry_keeps | apply foldl_keeps)
    | (intro _ _ _; try dsimp only) | (intro _ _; try dsimp only) | (intro _; try dsimp only)
    | (apply Keeps.mk; dsimp only; with_reducible refine Keeps.upd ?_) | split | dsimp only

theorem State.cutStep_keeps {root : State} {s : State} {c n k : Nat} (h_s : Keeps q1 q2 q3 q4 q5 q6 q7 q8 True q10 q11 q12 q13 q14 q15 q16 q17 q18 root s) : Keeps q1 q2 q3 q4 q5 q6 q7 q8 True q10 q11 q12 q13 q14 q15 q16 q17 q18 root (State.cutStep s c n k) := by
  unfold State.cutStep
  try dsimp only
  repeat' first
    | (with_reducible first
      | assumption | apply ite_keeps | apply State.modStep_keeps)
    | (intro _ _ _; try dsimp only) | (intro _ _; try dsimp only) | (intro _; try dsimp only)
    | (apply Keeps.mk; dsimp only; with_reducible refine Keeps.upd ?_) | split | dsimp only

theorem execCheckpoint_keeps {c : Ctx} {n k : Nat} {t : Nat} {s : State} {fin : State} (h : execCheckpoint c n k t s = .next fin) : Keeps True True True False False True False True True False False False False False True False False False s fin := by
  have h_s : Keeps True True True False False True False True True False False False False False True False False False s s := Keeps.refl s
  unfold execCheckpoint at h
  obtain rfl := Host.Outcome.next.inj h
  try dsimp only
  repeat' first
    | (with_reducible first
      | assumption | apply ite_keeps | apply ite_keeps2 | apply ite_keeps1 | apply State.advance_keeps
      | apply State.bump_keeps | apply State.cutStep_keeps | apply State.live_keeps | apply State.modStep_keeps
      | apply State.paceStale_keeps | apply State.plan_keeps | apply State.raise_keeps | apply State.tightLog_keeps
      | apply foldl_keeps | apply foldl_keeps2 | apply foldl_keeps1 | apply foldl_keeps22)
    | (intro _ _ _; try dsimp only) | (intro _ _; try dsimp only) | (intro _; try dsimp only)
    | (apply Keeps.mk; dsimp only; with_reducible refine Keeps.upd ?_) | split | dsimp only

theorem State.failRerun_keeps {root : State} {s : State} {q : SproutId} {kind : Nat} (h_s : Keeps True True True q4 q5 q6 True True True q10 q11 q12 q13 q14 q15 q16 q17 True root s) : Keeps True True True q4 q5 q6 True True True q10 q11 q12 q13 q14 q15 q16 q17 True root (State.failRerun s q kind) := by
  unfold State.failRerun
  try dsimp only
  repeat' first
    | (with_reducible first
      | assumption | apply State.modSprout_keeps | apply State.putStatus_keeps | apply State.toFlt_keeps)
    | (intro _ _ _; try dsimp only) | (intro _ _; try dsimp only) | (intro _; try dsimp only)
    | (apply Keeps.mk; dsimp only; with_reducible refine Keeps.upd ?_) | split | dsimp only

theorem State.askRerun_keeps {root : State} {s : State} {q : SproutId} {kind : Nat} (h_s : Keeps True True True q4 q5 q6 True True True q10 q11 q12 q13 q14 True q16 q17 True root s) : Keeps True True True q4 q5 q6 True True True q10 q11 q12 q13 q14 True q16 q17 True root (State.askRerun s q kind) := by
  unfold State.askRerun
  try dsimp only
  repeat' first
    | (with_reducible first
      | assumption | apply ite_keeps | apply ite_keeps2 | apply ite_keeps1 | apply State.bump_keeps
      | apply State.failRerun_keeps | apply State.modSprout_keeps | apply State.tightGrant_keeps)
    | (intro _ _ _; try dsimp only) | (intro _ _; try dsimp only) | (intro _; try dsimp only)
    | (apply Keeps.mk; dsimp only; with_reducible refine Keeps.upd ?_) | split | dsimp only

theorem execRerunRequest_keeps {q : SproutId} {cause : Fin 3} {t : Nat} {s : State} {fin : State} (h : execRerunRequest q cause t s = .next fin) : Keeps True True True False False True True True True False False False False False True False False True s fin := by
  have h_s : Keeps True True True False False True True True True False False False False False True False False True s s := Keeps.refl s
  unfold execRerunRequest at h
  obtain rfl := Host.Outcome.next.inj h
  try dsimp only
  repeat' first
    | (with_reducible first
      | assumption | apply ite_keeps | apply ite_keeps2 | apply ite_keeps1 | apply State.advance_keeps
      | apply State.askRerun_keeps | apply State.bump_keeps | apply State.failRerun_keeps | apply State.faultCtx_keeps
      | apply State.live_keeps | apply State.modSprout_keeps | apply State.raise_keeps | apply State.toFlt_keeps
      | apply foldl_keeps)
    | (intro _ _ _; try dsimp only) | (intro _ _; try dsimp only) | (intro _; try dsimp only)
    | (apply Keeps.mk; dsimp only; with_reducible refine Keeps.upd ?_) | split | dsimp only

theorem State.lateStart_keeps {root : State} {s : State} {q : SproutId} {c n entry d idx : Nat} (h_s : Keeps True True True True True q6 True True True q10 q11 q12 q13 q14 q15 q16 q17 True root s) : Keeps True True True True True q6 True True True q10 q11 q12 q13 q14 q15 q16 q17 True root (State.lateStart s q c n entry d idx) := by
  unfold State.lateStart
  try dsimp only
  repeat' first
    | (with_reducible first
      | assumption | apply ite_keeps | apply ite_keeps2 | apply ite_keeps1 | apply State.actPut_keeps
      | apply State.assertLine_keeps | apply State.faultCtx_keeps | apply State.startSprout_keeps)
    | split | dsimp only

theorem State.lateBundle_keeps {root : State} {s : State} {c n : Nat} {b : LateBundle} {captured : Bool} (h_s : Keeps True True True True True q6 True True True q10 q11 q12 q13 q14 True q16 q17 True root s) : Keeps True True True True True q6 True True True q10 q11 q12 q13 q14 True q16 q17 True root (State.lateBundle s c n b captured) := by
  unfold State.lateBundle
  try dsimp only
  repeat' first
    | (with_reducible first
      | assumption | apply ite_keeps | apply ite_keeps2 | apply ite_keeps1 | apply State.bump_keeps
      | apply State.lateStart_keeps | apply State.plan_keeps | apply State.putStatus_keeps | apply State.raise_keeps
      | apply State.tightLog_keeps)
    | (apply Keeps.mk; dsimp only; with_reducible refine Keeps.upd ?_) | split | dsimp only

theorem execFallbackRecord_keeps {c : Ctx} {n : Nat} {fb : Fin 4} {allocs : Nat} {bundles : List (LateBundle × Bool)} {t : Nat} {s : State} {fin : State} (h : execFallbackRecord c n fb allocs bundles t s = .next fin) : Keeps True True True True True True True True True False False False False False True False False True s fin := by
  have h_s : Keeps True True True True True True True True True False False False False False True False False True s s := Keeps.refl s
  unfold execFallbackRecord at h
  obtain rfl := Host.Outcome.next.inj h
  try dsimp only
  repeat' first
    | (with_reducible first
      | assumption | apply ite_keeps | apply ite_keeps2 | apply ite_keeps1 | apply State.advance_keeps
      | apply State.bumpBy_keeps | apply State.lateBundle_keeps | apply State.live_keeps | apply State.liveApply_keeps
      | apply State.tightLog_keeps | apply foldl_keeps | apply foldl_keeps2 | apply foldl_keeps1 | apply foldl_keeps22)
    | (intro _ _ _; try dsimp only) | (intro _ _; try dsimp only) | (intro _; try dsimp only)
    | (apply Keeps.mk; dsimp only; with_reducible refine Keeps.upd ?_) | split | dsimp only

theorem execPrologueLate_keeps {irg : Fin 9} {f : Fin 64} {t : Nat} {s : State} {fin : State} (h : execPrologueLate irg f t s = .next fin) : Keeps True True True False False True False True True False False True False False True False False False s fin := by
  have h_s : Keeps True True True False False True False True True False False True False False True False False False s s := Keeps.refl s
  unfold execPrologueLate at h
  obtain rfl := Host.Outcome.next.inj h
  try dsimp only
  repeat' first
    | (with_reducible first
      | assumption | apply ite_keeps | apply ite_keeps2 | apply ite_keeps1 | apply ite_keeps22 | apply State.advance_keeps
      | apply State.bump_keeps | apply State.live_keeps | apply State.modFurrow_keeps | apply State.raise_keeps
      | apply State.record_keeps | apply State.tightLog_keeps | apply foldl_keeps | apply foldl_keeps2 | apply foldl_keeps1
      | apply foldl_keeps22)
    | (intro _ _ _; try dsimp only) | (intro _ _; try dsimp only) | (intro _; try dsimp only)
    | (apply Keeps.mk; dsimp only; with_reducible refine Keeps.upd ?_) | split | dsimp only

theorem execTaskTimeout_keeps {c : Ctx} {n i : Nat} {ran : Nat} {t : Nat} {s : State} {fin : State} (h : execTaskTimeout c n i ran t s = .next fin) : Keeps False False True False False True False True True False False False False False False False False False s fin := by
  have h_s : Keeps False False True False False True False True True False False False False False False False False False s s := Keeps.refl s
  unfold execTaskTimeout at h
  obtain rfl := Host.Outcome.next.inj h
  try dsimp only
  repeat' first
    | (with_reducible first
      | assumption | apply ite_keeps | apply ite_keeps2 | apply ite_keeps1 | apply State.advance_keeps
      | apply State.live_keeps | apply State.overLimit_keeps)
    | (intro _ _ _; try dsimp only) | (intro _ _; try dsimp only) | (intro _; try dsimp only)
    | (apply Keeps.mk; dsimp only; with_reducible refine Keeps.upd ?_) | split | dsimp only

theorem execHeartbeatTimeout_keeps {c : Ctx} {t : Nat} {s : State} {fin : State} (h : execHeartbeatTimeout c t s = .next fin) : Keeps False False True False False True False True True False False False False False False False False False s fin := by
  have h_s : Keeps False False True False False True False True True False False False False False False False False False s s := Keeps.refl s
  unfold execHeartbeatTimeout at h
  obtain rfl := Host.Outcome.next.inj h
  try dsimp only
  repeat' first
    | (with_reducible first
      | assumption | apply ite_keeps | apply ite_keeps2 | apply ite_keeps1 | apply State.advance_keeps
      | apply State.bump_keeps | apply State.live_keeps | apply State.overLimit_keeps)
    | (intro _ _ _; try dsimp only) | (intro _ _; try dsimp only) | (intro _; try dsimp only) | split | dsimp only

end Sys2Proof.Machine
end

