-- ==== Sys2Proof/Laws/KeepsLibrary.lean ====
section
/-!
SUPPORT. What the definitions of Machine/Library.lean keep, each by the definitions it is made of.
-/

namespace Sys2Proof.Machine

open Sys2Proof

set_option Elab.async false

set_option linter.unusedVariables false
set_option linter.unreachableTactic false
set_option linter.unusedTactic false



variable {q1 q2 q3 q4 q5 q6 q7 q8 q9 q10 q11 q12 q13 q14 q15 q16 q17 q18 : Prop}

theorem State.libDone_keeps {root : State} {s : State} {c i code : Nat} (h_s : Keeps q1 q2 True q4 q5 q6 q7 q8 True q10 q11 q12 q13 q14 q15 q16 q17 q18 root s) : Keeps q1 q2 True q4 q5 q6 q7 q8 True q10 q11 q12 q13 q14 q15 q16 q17 q18 root (State.libDone s c i code) := by
  unfold State.libDone
  try dsimp only
  repeat' first
    | (with_reducible first
      | assumption | apply State.raise_keeps)
    | (apply Keeps.mk; dsimp only; with_reducible refine Keeps.upd ?_) | dsimp only

theorem State.libTouch_keeps {root : State} {s : State} {c i : Nat} (h_s : Keeps q1 q2 q3 q4 q5 q6 q7 q8 True q10 q11 q12 q13 q14 q15 q16 q17 q18 root s) : Keeps q1 q2 q3 q4 q5 q6 q7 q8 True q10 q11 q12 q13 q14 q15 q16 q17 q18 root (State.libTouch s c i) := by
  unfold State.libTouch
  try dsimp only
  repeat' first
    | (with_reducible first
      | assumption | apply ite_keeps | apply State.modCtx_keeps)
    | (intro _ _ _; try dsimp only) | (intro _ _; try dsimp only) | (intro _; try dsimp only)
    | (apply Keeps.mk; dsimp only; with_reducible refine Keeps.upd ?_) | split | dsimp only

theorem State.readPlan_keeps {root : State} {s : State} {c i : Nat} (h_s : Keeps q1 q2 True q4 q5 q6 q7 True True q10 q11 q12 q13 q14 True q16 q17 q18 root s) : Keeps q1 q2 True q4 q5 q6 q7 True True q10 q11 q12 q13 q14 True q16 q17 q18 root (State.readPlan s c i).2.2 := by
  unfold State.readPlan
  try dsimp only
  repeat' first
    | (with_reducible first
      | assumption | apply ite_keeps | apply ite_keeps2 | apply ite_keeps1 | apply ite_keeps22 | apply State.dramRead_keeps)
    | split | dsimp only

theorem execLibraryAdd_keeps {v : View} {c : Ctx} {i : Fin 256} {s : State} {fin : State} (h : execLibraryAdd v c i s = .next fin) : Keeps False False True True False False False True True False False False False False True False False False s fin := by
  have h_s : Keeps False False True True False False False True True False False False False False True False False False s s := Keeps.refl s
  unfold execLibraryAdd at h
  obtain rfl := Host.Outcome.next.inj h
  try dsimp only
  repeat' first
    | (with_reducible first
      | assumption | apply ite_keeps | apply ite_keeps2 | apply ite_keeps1 | apply ite_keeps22 | apply State.bump_keeps
      | apply State.commanded_keeps | apply State.dramRead_keeps | apply State.faultRecord_keeps | apply State.libDone_keeps
      | apply State.libTouch_keeps | apply State.liveApply_keeps | apply State.modCtx_keeps | apply State.plan_keeps
      | apply State.raise_keeps | apply State.readPlan_keeps | apply State.record_keeps)
    | (intro _ _ _; try dsimp only) | (intro _ _; try dsimp only) | (intro _; try dsimp only)
    | (apply Keeps.mk; dsimp only; with_reducible refine Keeps.upd ?_) | split | dsimp only

theorem execLibraryRemove_keeps {v : View} {c : Ctx} {i : Fin 256} {s : State} {fin : State} (h : execLibraryRemove v c i s = .next fin) : Keeps False False True True False False False False True False False False False False False False False False s fin := by
  have h_s : Keeps False False True True False False False False True False False False False False False False False False s s := Keeps.refl s
  unfold execLibraryRemove at h
  obtain rfl := Host.Outcome.next.inj h
  try dsimp only
  repeat' first
    | (with_reducible first
      | assumption | apply State.commanded_keeps | apply State.libDone_keeps | apply State.libTouch_keeps
      | apply State.liveApply_keeps | apply State.modCtx_keeps)
    | (intro _ _ _; try dsimp only) | (intro _ _; try dsimp only) | (intro _; try dsimp only)
    | (apply Keeps.mk; dsimp only; with_reducible refine Keeps.upd ?_) | dsimp only

end Sys2Proof.Machine
end

