-- ==== Sys2Proof/Laws/KeepsSteps.lean ====
section
/-!
SUPPORT. What the definitions of Machine/Steps.lean keep, each by the definitions it is made of.
-/

namespace Sys2Proof.Machine

open Sys2Proof

set_option Elab.async false

set_option linter.unusedVariables false
set_option linter.unreachableTactic false
set_option linter.unusedTactic false



variable {q1 q2 q3 q4 q5 q6 q7 q8 q9 q10 q11 q12 q13 q14 q15 q16 q17 q18 : Prop}

theorem State.captureEnd_keeps {root : State} {s : State} (h_s : Keeps q1 q2 True q4 q5 q6 q7 q8 True q10 q11 q12 q13 True q15 q16 q17 q18 root s) : Keeps q1 q2 True q4 q5 q6 q7 q8 True q10 q11 q12 q13 True q15 q16 q17 q18 root (State.captureEnd s) := by
  unfold State.captureEnd
  try dsimp only
  repeat' first
    | (with_reducible first
      | assumption | apply State.debugEnd_keeps | apply State.raise_keeps)
    | (apply Keeps.mk; dsimp only; with_reducible refine Keeps.upd ?_) | dsimp only

theorem State.captureStep_keeps {root : State} {s : State} {c n : Nat} {l : List (Nat × List (BitVec 8))} {valid : List Bool} (h_s : Keeps True True True q4 q5 q6 q7 True True q10 q11 q12 q13 True True q16 q17 q18 root s) : Keeps True True True q4 q5 q6 q7 True True q10 q11 q12 q13 True True q16 q17 q18 root (State.captureStep s c n l valid) := by
  unfold State.captureStep
  try dsimp only
  repeat' first
    | (with_reducible first
      | assumption | apply ite_keeps | apply ite_keeps2 | apply ite_keeps1 | apply State.captureEnd_keeps
      | apply State.dramWrite_keeps | apply State.modStep_keeps)
    | (intro _ _ _; try dsimp only) | (intro _ _; try dsimp only) | (intro _; try dsimp only)
    | (apply Keeps.mk; dsimp only; with_reducible refine Keeps.upd ?_) | split | dsimp only

theorem State.completeGrant_keeps {root : State} {s : State} {c n k status : Nat} {allocs : List AllocDone} (h_s : Keeps q1 q2 True q4 q5 q6 q7 q8 True q10 q11 q12 q13 q14 q15 q16 q17 q18 root s) : Keeps q1 q2 True q4 q5 q6 q7 q8 True q10 q11 q12 q13 q14 q15 q16 q17 q18 root (State.completeGrant s c n k status allocs) := by
  unfold State.completeGrant
  try dsimp only
  repeat' first
    | (with_reducible first
      | assumption | apply ite_keeps | apply ite_keeps2 | apply ite_keeps1 | apply State.harvestGrant_keeps
      | apply State.modStep_keeps)
    | (intro _ _ _; try dsimp only) | (intro _ _; try dsimp only) | (intro _; try dsimp only)
    | (apply Keeps.mk; dsimp only; with_reducible refine Keeps.upd ?_) | split | dsimp only

theorem State.advanceGen_keeps {root : State} {s : State} {c : Nat} {discard : Bool} (h_s : Keeps q1 q2 True q4 q5 q6 q7 q8 True q10 q11 q12 q13 q14 q15 q16 q17 q18 root s) : Keeps q1 q2 True q4 q5 q6 q7 q8 True q10 q11 q12 q13 q14 q15 q16 q17 q18 root (State.advanceGen s c discard) := by
  unfold State.advanceGen
  try dsimp only
  repeat' first
    | (with_reducible first
      | assumption | apply ite_keeps | apply ite_keeps2 | apply ite_keeps1 | apply State.bump_keeps
      | apply State.modCtx_keeps)
    | (intro _ _ _; try dsimp only) | (intro _ _; try dsimp only) | (intro _; try dsimp only)
    | (apply Keeps.mk; dsimp only; with_reducible refine Keeps.upd ?_) | split | dsimp only

theorem State.checkReplay_keeps {root : State} {s : State} {c n tag : Nat} (h_s : Keeps q1 q2 True q4 q5 q6 q7 q8 True q10 q11 q12 q13 q14 q15 q16 q17 q18 root s) : Keeps q1 q2 True q4 q5 q6 q7 q8 True q10 q11 q12 q13 q14 q15 q16 q17 q18 root (State.checkReplay s c n tag) := by
  unfold State.checkReplay
  try dsimp only
  repeat' first
    | (with_reducible first
      | assumption | apply ite_keeps | apply State.modStep_keeps | apply State.raise_keeps)
    | (intro _ _ _; try dsimp only) | (intro _ _; try dsimp only) | (intro _; try dsimp only)
    | (apply Keeps.mk; dsimp only; with_reducible refine Keeps.upd ?_) | split | dsimp only

theorem State.stepEnded_keeps {root : State} {s : State} {c n : Nat} (h_s : Keeps q1 q2 True True True q6 q7 True True q10 q11 q12 q13 True q15 q16 q17 True root s) : Keeps q1 q2 True True True q6 q7 True True q10 q11 q12 q13 True q15 q16 q17 True root (State.stepEnded s c n) := by
  unfold State.stepEnded
  try dsimp only
  repeat' first
    | (with_reducible first
      | assumption | apply ite_keeps | apply ite_keeps2 | apply ite_keeps1 | apply State.debugEnd_keeps
      | apply State.modCtx_keeps | apply State.modStep_keeps | apply State.restagePace_keeps
      | apply State.retryDeferred_keeps)
    | (intro _ _ _; try dsimp only) | (intro _ _; try dsimp only) | (intro _; try dsimp only)
    | (apply Keeps.mk; dsimp only; with_reducible refine Keeps.upd ?_) | split | dsimp only

theorem execStepComplete_keeps {c : Ctx} {n : Nat} {inputs : List (Nat × List (BitVec 8))} {allocs : List AllocDone} {valid : List Bool} {t : Nat} {s : State} {fin : State} (h : execStepComplete c n inputs allocs valid t s = .next fin) : Keeps True True True True True True False True True False False False False True True False False True s fin := by
  have h_s : Keeps True True True True True True False True True False False False False True True False False True s s := Keeps.refl s
  unfold execStepComplete at h
  obtain rfl := Host.Outcome.next.inj h
  try dsimp only
  repeat' first
    | (with_reducible first
      | assumption | apply ite_keeps | apply ite_keeps2 | apply ite_keeps1 | apply State.advance_keeps
      | apply State.advanceGen_keeps | apply State.bump_keeps | apply State.captureStep_keeps | apply State.checkReplay_keeps
      | apply State.completeGrant_keeps | apply State.live_keeps | apply State.liveApply_keeps | apply State.modStep_keeps
      | apply State.pushHarvest_keeps | apply State.stepEnded_keeps | apply foldl_keeps)
    | (intro _ _ _; try dsimp only) | (intro _ _; try dsimp only) | (intro _; try dsimp only)
    | (apply Keeps.mk; dsimp only; with_reducible refine Keeps.upd ?_) | split | dsimp only

theorem execEvalRecord_keeps {c : Ctx} {n : Nat} {serve cand : Word} {scored flags : Nat} {t : Nat} {s : State} {fin : State} (h : execEvalRecord c n serve cand scored flags t s = .next fin) : Keeps False False True True False True False False True False False False False False False False False False s fin := by
  have h_s : Keeps False False True True False True False False True False False False False False False False False False s s := Keeps.refl s
  unfold execEvalRecord at h
  obtain rfl := Host.Outcome.next.inj h
  try dsimp only
  repeat' first
    | (with_reducible first
      | assumption | apply ite_keeps | apply ite_keeps2 | apply ite_keeps1 | apply State.advance_keeps
      | apply State.liveApply_keeps | apply State.modCtx_keeps | apply State.raise_keeps)
    | (intro _ _ _; try dsimp only) | (intro _ _; try dsimp only) | (intro _; try dsimp only)
    | (apply Keeps.mk; dsimp only; with_reducible refine Keeps.upd ?_) | split | dsimp only

theorem execWsetHash_keeps {v : View} {k : Fin 8} {s : State} {fin : State} (h : execWsetHash v k s = .next fin) : Keeps False False True False False False False False True False False False False False False False False False s fin := by
  have h_s : Keeps False False True False False False False False True False False False False False False False False False s s := Keeps.refl s
  unfold execWsetHash at h
  obtain rfl := Host.Outcome.next.inj h
  try dsimp only
  repeat' first
    | (with_reducible first
      | assumption | apply ite_keeps | apply ite_keeps2 | apply ite_keeps1 | apply State.commanded_keeps
      | apply State.live_keeps)
    | (intro _ _ _; try dsimp only) | (intro _ _; try dsimp only) | (intro _; try dsimp only)
    | (apply Keeps.mk; dsimp only; with_reducible refine Keeps.upd ?_) | split | dsimp only

theorem execWsetReport_keeps {v : View} {k : Fin 8} {s : State} {fin : State} (h : execWsetReport v k s = .next fin) : Keeps False False True False False False False False True False False False False False False False False False s fin := by
  have h_s : Keeps False False True False False False False False True False False False False False False False False False s s := Keeps.refl s
  unfold execWsetReport at h
  obtain rfl := Host.Outcome.next.inj h
  try dsimp only
  repeat' first
    | (with_reducible first
      | assumption | apply State.commanded_keeps | apply State.live_keeps)
    | (intro _ _ _; try dsimp only) | (intro _ _; try dsimp only) | (intro _; try dsimp only)
    | (apply Keeps.mk; dsimp only; with_reducible refine Keeps.upd ?_) | dsimp only

theorem execWsetDone_keeps  {s : State} {fin : State} (h : execWsetDone s = .next fin) : Keeps False False True False False False False True True False False False False False True False False False s fin := by
  have h_s : Keeps False False True False False False False True True False False False False False True False False False s s := Keeps.refl s
  unfold execWsetDone at h
  obtain rfl := Host.Outcome.next.inj h
  try dsimp only
  repeat' first
    | (with_reducible first
      | assumption | apply State.dramRead_keeps | apply State.live_keeps | apply State.raise_keeps)
    | (intro _ _ _; try dsimp only) | (intro _ _; try dsimp only) | (intro _; try dsimp only)
    | (apply Keeps.mk; dsimp only; with_reducible refine Keeps.upd ?_) | split | dsimp only

theorem execCaptureStart_keeps {v : View} {steps : Nat} {s : State} {fin : State} (h : execCaptureStart v steps s = .next fin) : Keeps False False True False False False False False True False False False False True False False False False s fin := by
  have h_s : Keeps False False True False False False False False True False False False False True False False False False s s := Keeps.refl s
  unfold execCaptureStart at h
  obtain rfl := Host.Outcome.next.inj h
  try dsimp only
  repeat' first
    | (with_reducible first
      | assumption | apply ite_keeps | apply ite_keeps2 | apply ite_keeps1 | apply State.commanded_keeps
      | apply State.debugBegin_keeps | apply State.live_keeps)
    | (intro _ _ _; try dsimp only) | (intro _ _; try dsimp only) | (intro _; try dsimp only)
    | (apply Keeps.mk; dsimp only; with_reducible refine Keeps.upd ?_) | split | dsimp only

theorem execCaptureStop_keeps {v : View} {s : State} {fin : State} (h : execCaptureStop v s = .next fin) : Keeps False False True False False False False False True False False False False True False False False False s fin := by
  have h_s : Keeps False False True False False False False False True False False False False True False False False False s s := Keeps.refl s
  unfold execCaptureStop at h
  obtain rfl := Host.Outcome.next.inj h
  try dsimp only
  repeat' first
    | (with_reducible first
      | assumption | apply ite_keeps | apply State.captureEnd_keeps | apply State.commanded_keeps | apply State.live_keeps)
    | (intro _ _ _; try dsimp only) | (intro _ _; try dsimp only) | (intro _; try dsimp only) | split | dsimp only

theorem execLockstepMark_keeps {c : Ctx} {t : Nat} {s : State} {fin : State} (h : execLockstepMark c t s = .next fin) : Keeps False False True False False True False False True False False False False False False False False False s fin := by
  have h_s : Keeps False False True False False True False False True False False False False False False False False False s s := Keeps.refl s
  unfold execLockstepMark at h
  obtain rfl := Host.Outcome.next.inj h
  try dsimp only
  repeat' first
    | (with_reducible first
      | assumption | apply ite_keeps | apply ite_keeps2 | apply ite_keeps1 | apply State.advance_keeps
      | apply State.live_keeps | apply State.modCtx_keeps)
    | (intro _ _ _; try dsimp only) | (intro _ _; try dsimp only) | (intro _; try dsimp only)
    | (apply Keeps.mk; dsimp only; with_reducible refine Keeps.upd ?_) | split | dsimp only

theorem execLockstepEdge_keeps {c : Ctx} {slipped : List Plot} {t : Nat} {s : State} {fin : State} (h : execLockstepEdge c slipped t s = .next fin) : Keeps False False True False False True False True True False False False False False False False False False s fin := by
  have h_s : Keeps False False True False False True False True True False False False False False False False False False s s := Keeps.refl s
  unfold execLockstepEdge at h
  obtain rfl := Host.Outcome.next.inj h
  try dsimp only
  repeat' first
    | (with_reducible first
      | assumption | apply ite_keeps | apply ite_keeps2 | apply ite_keeps1 | apply State.advance_keeps
      | apply State.bumpBy_keeps | apply State.live_keeps | apply State.modCtx_keeps | apply State.modStep_keeps
      | apply State.plan_keeps | apply State.raise_keeps)
    | (intro _ _ _; try dsimp only) | (intro _ _; try dsimp only) | (intro _; try dsimp only)
    | (apply Keeps.mk; dsimp only; with_reducible refine Keeps.upd ?_) | split | dsimp only

end Sys2Proof.Machine
end

