-- ==== Sys2Proof/Laws/KeepsThresher.lean ====
section
/-!
SUPPORT. What the definitions of Machine/Thresher.lean keep, each by the definitions it is made of.
-/

namespace Sys2Proof.Machine

open Sys2Proof

set_option Elab.async false

set_option linter.unusedVariables false
set_option linter.unreachableTactic false
set_option linter.unusedTactic false



variable {q1 q2 q3 q4 q5 q6 q7 q8 q9 q10 q11 q12 q13 q14 q15 q16 q17 q18 : Prop}

theorem State.setQueue_keeps {root : State} {s : State} {enc : Bool} {q : Nat} {l : List ThrJob} (h_s : Keeps q1 q2 q3 q4 q5 q6 q7 q8 q9 True q11 q12 q13 q14 q15 q16 q17 q18 root s) : Keeps q1 q2 q3 q4 q5 q6 q7 q8 q9 True q11 q12 q13 q14 q15 q16 q17 q18 root (State.setQueue s enc q l) := by
  unfold State.setQueue
  try dsimp only
  repeat' first
    | (with_reducible first
      | assumption | apply ite_keeps)
    | (apply Keeps.mk; dsimp only; with_reducible refine Keeps.upd ?_) | split | dsimp only

theorem State.startHead_keeps {root : State} : ∀ (y0 : Nat) {s : State} {enc : Bool} {q : Nat}  (h_s : Keeps q1 q2 True q4 q5 q6 q7 q8 q9 True q11 q12 q13 q14 q15 q16 q17 q18 root s), Keeps q1 q2 True q4 q5 q6 q7 q8 q9 True q11 q12 q13 q14 q15 q16 q17 q18 root (State.startHead s enc q y0) := by
  intro y0
  induction y0 with
  | zero =>
    intros
    unfold State.startHead
    repeat' first
      | with_reducible apply ih
      | (with_reducible first
        | assumption | apply ite_keeps | apply State.emit_keeps | apply State.setQueue_keeps)
      | (apply Keeps.mk; dsimp only; with_reducible refine Keeps.upd ?_) | split | dsimp only
  
  | succ m ih =>
    intros
    unfold State.startHead
    try dsimp only
    repeat' first
      | with_reducible apply ih
      | (with_reducible first
        | assumption | apply ite_keeps | apply State.emit_keeps | apply State.setQueue_keeps)
      | (apply Keeps.mk; dsimp only; with_reducible refine Keeps.upd ?_) | split | dsimp only
  
theorem execThresherJob_keeps {q : Fin 16} {enc : Bool} {header : Nat} {blocks : List Nat} {payload : List (BitVec 8)} {s : State} {fin : State} (h : execThresherJob q enc header blocks payload s = .next fin) : Keeps False False True False False False False False True True False False False False False False False False s fin := by
  have h_s : Keeps False False True False False False False False True True False False False False False False False False s s := Keeps.refl s
  unfold execThresherJob at h
  obtain rfl := Host.Outcome.next.inj h
  try dsimp only
  repeat' first
    | (with_reducible first
      | assumption | apply ite_keeps | apply ite_keeps2 | apply ite_keeps1 | apply State.bump_keeps | apply State.live_keeps
      | apply State.opDone_keeps | apply State.raise_keeps | apply State.setQueue_keeps | apply State.startHead_keeps)
    | (intro _ _ _; try dsimp only) | (intro _ _; try dsimp only) | (intro _; try dsimp only)
    | (apply Keeps.mk; dsimp only; with_reducible refine Keeps.upd ?_) | split | dsimp only

theorem execWeightSetLoad_keeps {q : Fin 16} {k : Fin 4} {w : Nat} {s : State} {fin : State} (h : execWeightSetLoad q k w s = .next fin) : Keeps False False True False False False False False True True False False False False False False False False s fin := by
  have h_s : Keeps False False True False False False False False True True False False False False False False False False s s := Keeps.refl s
  unfold execWeightSetLoad at h
  obtain rfl := Host.Outcome.next.inj h
  try dsimp only
  repeat' first
    | (with_reducible first
      | assumption | apply ite_keeps | apply State.faultCtx_keeps | apply State.live_keeps)
    | (intro _ _ _; try dsimp only) | (intro _ _; try dsimp only) | (intro _; try dsimp only)
    | (apply Keeps.mk; dsimp only; with_reducible refine Keeps.upd ?_) | split | dsimp only

theorem State.thrCharge_keeps {root : State} {s : State} {c n : Nat} (h_s : Keeps q1 q2 q3 q4 q5 q6 q7 q8 True q10 q11 q12 q13 q14 q15 q16 q17 q18 root s) : Keeps q1 q2 q3 q4 q5 q6 q7 q8 True q10 q11 q12 q13 q14 q15 q16 q17 q18 root (State.thrCharge s c n) := by
  unfold State.thrCharge
  try dsimp only
  repeat' first
    | (with_reducible first
      | assumption | apply State.modCtx_keeps)
    | (intro _ _ _; try dsimp only) | (intro _ _; try dsimp only) | (intro _; try dsimp only)
    | (apply Keeps.mk; dsimp only; with_reducible refine Keeps.upd ?_) | dsimp only

theorem State.thrFault_keeps {root : State} {s : State} {u action c : Nat} (h_s : Keeps q1 q2 q3 q4 q5 q6 q7 True q9 q10 q11 q12 q13 q14 q15 q16 q17 q18 root s) : Keeps q1 q2 q3 q4 q5 q6 q7 True q9 q10 q11 q12 q13 q14 q15 q16 q17 q18 root (State.thrFault s u action c) := by
  unfold State.thrFault
  try dsimp only
  repeat' first
    | (with_reducible first
      | assumption | apply State.toFlt_keeps)
    | dsimp only

theorem State.itemDone_keeps {root : State} {s : State} {enc : Bool} {q u : Nat} {mismatch : Bool} {kinds : List Nat} {f : ThrJob → Bool → State → ThrJob × State} (h_s : Keeps q1 q2 True q4 q5 q6 q7 True q9 True q11 q12 q13 q14 q15 q16 q17 q18 root s) (h_f : ∀ (x0 : ThrJob) (x1 : Bool) (x2 : State), Keeps q1 q2 True q4 q5 q6 q7 True q9 True q11 q12 q13 q14 q15 q16 q17 q18 root x2 → Keeps q1 q2 True q4 q5 q6 q7 True q9 True q11 q12 q13 q14 q15 q16 q17 q18 root (f x0 x1 x2).2) : Keeps q1 q2 True q4 q5 q6 q7 True q9 True q11 q12 q13 q14 q15 q16 q17 q18 root (State.itemDone s enc q u mismatch kinds f) := by
  unfold State.itemDone
  try dsimp only
  repeat' first
    | (with_reducible first
      | assumption | apply ite_keeps | apply ite_keeps2 | apply ite_keeps1 | apply h_f | apply State.bump_keeps
      | apply State.emit_keeps | apply State.live_keeps | apply State.raise_keeps | apply State.setQueue_keeps
      | apply State.startHead_keeps | apply State.thrFault_keeps | apply State.use_keeps)
    | (intro _ _ _; try dsimp only) | (intro _ _; try dsimp only) | (intro _; try dsimp only)
    | (apply Keeps.mk; dsimp only; with_reducible refine Keeps.upd ?_) | split | dsimp only

theorem State.codeBlock_keeps {root : State} {s : State} {q : Nat} {j : ThrJob} {failed : Bool} (h_s : Keeps q1 q2 True q4 q5 q6 q7 q8 True q10 q11 q12 q13 q14 q15 q16 q17 q18 root s) : Keeps q1 q2 True q4 q5 q6 q7 q8 True q10 q11 q12 q13 q14 q15 q16 q17 q18 root (State.codeBlock s q j failed).2 := by
  unfold State.codeBlock
  try dsimp only
  repeat' first
    | (with_reducible first
      | assumption | apply ite_keeps | apply ite_keeps2 | apply ite_keeps1 | apply ite_keeps22 | apply State.bump_keeps
      | apply State.bumpBy_keeps | apply State.thrCharge_keeps)
    | (apply Keeps.mk; dsimp only; with_reducible refine Keeps.upd ?_) | split | dsimp only

theorem execCodeBlockDone_keeps {q : Fin 16} {u : Fin 5} {mismatch : Bool} {s : State} {fin : State} (h : execCodeBlockDone q u mismatch s = .next fin) : Keeps False False True False False False False True True True False False False False False False False False s fin := by
  have h_s : Keeps False False True False False False False True True True False False False False False False False False s s := Keeps.refl s
  unfold execCodeBlockDone at h
  obtain rfl := Host.Outcome.next.inj h
  try dsimp only
  repeat' first
    | (with_reducible first
      | assumption | apply State.codeBlock_keeps | apply State.itemDone_keeps | apply State.live_keeps)
    | (intro _ _ _; try dsimp only) | (intro _ _; try dsimp only) | (intro _; try dsimp only) | dsimp only

theorem State.polarBlock_keeps {root : State} {s : State} {q : Nat} {j : ThrJob} {failed : Bool} (h_s : Keeps q1 q2 True q4 q5 q6 q7 q8 True q10 q11 q12 q13 q14 q15 q16 q17 q18 root s) : Keeps q1 q2 True q4 q5 q6 q7 q8 True q10 q11 q12 q13 q14 q15 q16 q17 q18 root (State.polarBlock s q j failed).2 := by
  unfold State.polarBlock
  try dsimp only
  repeat' first
    | (with_reducible first
      | assumption | apply ite_keeps | apply ite_keeps2 | apply ite_keeps1 | apply ite_keeps22 | apply State.bump_keeps
      | apply State.thrCharge_keeps)
    | (apply Keeps.mk; dsimp only; with_reducible refine Keeps.upd ?_) | split | dsimp only

theorem execPolarDecodeDone_keeps {q : Fin 16} {u : Fin 5} {mismatch : Bool} {s : State} {fin : State} (h : execPolarDecodeDone q u mismatch s = .next fin) : Keeps False False True False False False False True True True False False False False False False False False s fin := by
  have h_s : Keeps False False True False False False False True True True False False False False False False False False s s := Keeps.refl s
  unfold execPolarDecodeDone at h
  obtain rfl := Host.Outcome.next.inj h
  try dsimp only
  repeat' first
    | (with_reducible first
      | assumption | apply State.itemDone_keeps | apply State.live_keeps | apply State.polarBlock_keeps)
    | (intro _ _ _; try dsimp only) | (intro _ _; try dsimp only) | (intro _; try dsimp only) | dsimp only

theorem State.encodeBlock_keeps {root : State} {s : State} {q : Nat} {j : ThrJob} {failed : Bool} (h_s : Keeps q1 q2 True q4 q5 q6 q7 q8 True q10 q11 q12 q13 q14 q15 q16 q17 q18 root s) : Keeps q1 q2 True q4 q5 q6 q7 q8 True q10 q11 q12 q13 q14 q15 q16 q17 q18 root (State.encodeBlock s q j failed).2 := by
  unfold State.encodeBlock
  try dsimp only
  repeat' first
    | (with_reducible first
      | assumption | apply ite_keeps | apply ite_keeps2 | apply ite_keeps1 | apply State.bump_keeps
      | apply State.thrCharge_keeps)
    | (apply Keeps.mk; dsimp only; with_reducible refine Keeps.upd ?_) | split | dsimp only

theorem execEncodeDone_keeps {q : Fin 16} {u : Fin 5} {mismatch : Bool} {s : State} {fin : State} (h : execEncodeDone q u mismatch s = .next fin) : Keeps False False True False False False False True True True False False False False False False False False s fin := by
  have h_s : Keeps False False True False False False False True True True False False False False False False False False s s := Keeps.refl s
  unfold execEncodeDone at h
  obtain rfl := Host.Outcome.next.inj h
  try dsimp only
  repeat' first
    | (with_reducible first
      | assumption | apply State.encodeBlock_keeps | apply State.itemDone_keeps | apply State.live_keeps)
    | (intro _ _ _; try dsimp only) | (intro _ _; try dsimp only) | (intro _; try dsimp only) | dsimp only

end Sys2Proof.Machine
end

