-- ==== Sys2Proof/Laws/KeepsTrnOps.lean ====
section
/-!
SUPPORT. What the definitions of Machine/TrnOps.lean keep, each by the definitions it is made of.
-/

namespace Sys2Proof.Machine

open Sys2Proof

set_option Elab.async false

set_option linter.unusedVariables false
set_option linter.unreachableTactic false
set_option linter.unusedTactic false



variable {q1 q2 q3 q4 q5 q6 q7 q8 q9 q10 q11 q12 q13 q14 q15 q16 q17 q18 : Prop}

theorem State.modRu_keeps {root : State} {s : State} {r : Nat} {f : RuSt → RuSt} (h_s : Keeps q1 q2 q3 q4 q5 q6 q7 q8 q9 q10 True q12 q13 q14 q15 q16 q17 q18 root s) : Keeps q1 q2 q3 q4 q5 q6 q7 q8 q9 q10 True q12 q13 q14 q15 q16 q17 q18 root (State.modRu s r f) := by
  unfold State.modRu
  try dsimp only
  repeat' first
    | (with_reducible first
      | assumption)
    | (apply Keeps.mk; dsimp only; with_reducible refine Keeps.upd ?_) | dsimp only

theorem State.modFlow_keeps {root : State} {s : State} {f : Nat} {g : FlowSt → FlowSt} (h_s : Keeps q1 q2 q3 q4 q5 q6 q7 q8 q9 q10 True q12 q13 q14 q15 q16 q17 q18 root s) : Keeps q1 q2 q3 q4 q5 q6 q7 q8 q9 q10 True q12 q13 q14 q15 q16 q17 q18 root (State.modFlow s f g) := by
  unfold State.modFlow
  try dsimp only
  repeat' first
    | (with_reducible first
      | assumption)
    | (apply Keeps.mk; dsimp only; with_reducible refine Keeps.upd ?_) | dsimp only

theorem State.ruBump_keeps {root : State} {s : State} {r off k n : Nat} (h_s : Keeps q1 q2 True q4 q5 q6 q7 q8 q9 q10 True q12 q13 q14 q15 q16 q17 q18 root s) : Keeps q1 q2 True q4 q5 q6 q7 q8 q9 q10 True q12 q13 q14 q15 q16 q17 q18 root (State.ruBump s r off k n) := by
  unfold State.ruBump
  try dsimp only
  repeat' first
    | (with_reducible first
      | assumption | apply State.bumpBy_keeps | apply State.modRu_keeps)
    | (intro _ _ _; try dsimp only) | (intro _ _; try dsimp only) | (intro _; try dsimp only)
    | (apply Keeps.mk; dsimp only; with_reducible refine Keeps.upd ?_) | dsimp only

theorem State.setPort_keeps {root : State} {s : State} {p : Nat} {up : Bool} (h_s : Keeps q1 q2 True q4 q5 q6 q7 q8 q9 q10 True q12 q13 q14 q15 q16 q17 q18 root s) : Keeps q1 q2 True q4 q5 q6 q7 q8 q9 q10 True q12 q13 q14 q15 q16 q17 q18 root (State.setPort s p up) := by
  unfold State.setPort
  try dsimp only
  repeat' first
    | (with_reducible first
      | assumption | apply ite_keeps | apply State.raise_keeps)
    | (apply Keeps.mk; dsimp only; with_reducible refine Keeps.upd ?_) | split | dsimp only

theorem State.sendTo_keeps {root : State} {s : State} {r kind : Nat} {words : List Nat} (h_s : Keeps q1 q2 True q4 q5 q6 q7 q8 q9 q10 True q12 q13 q14 q15 q16 q17 q18 root s) : Keeps q1 q2 True q4 q5 q6 q7 q8 q9 q10 True q12 q13 q14 q15 q16 q17 q18 root (State.sendTo s r kind words) := by
  unfold State.sendTo
  try dsimp only
  repeat' first
    | (with_reducible first
      | assumption | apply ite_keeps | apply ite_keeps2 | apply ite_keeps1 | apply State.emit_keeps | apply State.modRu_keeps
      | apply State.raise_keeps)
    | (intro _ _ _; try dsimp only) | (intro _ _; try dsimp only) | (intro _; try dsimp only)
    | (apply Keeps.mk; dsimp only; with_reducible refine Keeps.upd ?_) | split | dsimp only

theorem State.postCp_keeps {root : State} {s : State} {p : PendSect} {a : Option Alloc} {late : Bool} (h_s : Keeps q1 q2 True q4 q5 q6 q7 q8 True q10 q11 q12 q13 q14 q15 q16 q17 q18 root s) : Keeps q1 q2 True q4 q5 q6 q7 q8 True q10 q11 q12 q13 q14 q15 q16 q17 q18 root (State.postCp s p a late) := by
  unfold State.postCp
  try dsimp only
  repeat' first
    | (with_reducible first
      | assumption | apply State.record_keeps)
    | (apply Keeps.mk; dsimp only; with_reducible refine Keeps.upd ?_) | split | dsimp only

theorem State.putSym_keeps {root : State} {s : State} {x : ChunkSym} (h_s : Keeps q1 q2 q3 q4 q5 q6 q7 q8 q9 q10 True q12 q13 q14 q15 q16 q17 q18 root s) : Keeps q1 q2 q3 q4 q5 q6 q7 q8 q9 q10 True q12 q13 q14 q15 q16 q17 q18 root (State.putSym s x) := by
  unfold State.putSym
  try dsimp only
  repeat' first
    | (with_reducible first
      | assumption | apply ite_keeps)
    | (intro _ _ _; try dsimp only) | (intro _ _; try dsimp only) | (intro _; try dsimp only)
    | (apply Keeps.mk; dsimp only; with_reducible refine Keeps.upd ?_) | split | dsimp only

theorem State.closeSym_keeps {root : State} {s : State} {L : Layout} {x : ChunkSym} (h_s : Keeps q1 q2 True q4 q5 q6 q7 q8 q9 q10 True q12 q13 q14 q15 q16 q17 q18 root s) : Keeps q1 q2 True q4 q5 q6 q7 q8 q9 q10 True q12 q13 q14 q15 q16 q17 q18 root (State.closeSym s L x) := by
  unfold State.closeSym
  try dsimp only
  repeat' first
    | (with_reducible first
      | assumption | apply ite_keeps | apply ite_keeps2 | apply ite_keeps1 | apply ite_keeps22 | apply State.putSym_keeps
      | apply State.ruBump_keeps | apply foldl_keeps | apply foldl_keeps2 | apply foldl_keeps1 | apply foldl_keeps22)
    | (intro _ _ _; try dsimp only) | (intro _ _; try dsimp only) | (intro _; try dsimp only)
    | (apply Keeps.mk; dsimp only; with_reducible refine Keeps.upd ?_) | split | dsimp only

theorem State.closeIfDone_keeps {root : State} {s : State} {L : Layout} {x : ChunkSym} (h_s : Keeps q1 q2 True q4 q5 q6 q7 q8 q9 q10 True q12 q13 q14 q15 q16 q17 q18 root s) : Keeps q1 q2 True q4 q5 q6 q7 q8 q9 q10 True q12 q13 q14 q15 q16 q17 q18 root (State.closeIfDone s L x) := by
  unfold State.closeIfDone
  try dsimp only
  repeat' first
    | (with_reducible first
      | assumption | apply ite_keeps | apply ite_keeps2 | apply ite_keeps1 | apply State.closeSym_keeps
      | apply State.putSym_keeps)
    | (intro _ _ _; try dsimp only) | (intro _ _; try dsimp only) | (intro _; try dsimp only) | split | dsimp only

theorem State.dlMessages_keeps {root : State} {s : State} {L : Layout} {x : DlTile} {a : Alloc} {st f : Nat} (h_s : Keeps q1 q2 True q4 q5 q6 q7 q8 q9 q10 True q12 q13 q14 q15 q16 q17 q18 root s) : Keeps q1 q2 True q4 q5 q6 q7 q8 q9 q10 True q12 q13 q14 q15 q16 q17 q18 root (State.dlMessages s L x a st f) := by
  unfold State.dlMessages
  try dsimp only
  repeat' first
    | (with_reducible first
      | assumption | apply State.bump_keeps | apply State.modFlow_keeps | apply State.sendTo_keeps | apply foldl_keeps
      | apply foldl_keeps2 | apply foldl_keeps1 | apply foldl_keeps22)
    | (intro _ _ _; try dsimp only) | (intro _ _; try dsimp only) | (intro _; try dsimp only)
    | (apply Keeps.mk; dsimp only; with_reducible refine Keeps.upd ?_) | dsimp only

theorem State.putDl_keeps {root : State} {s : State} {x : DlTile} (h_s : Keeps q1 q2 q3 q4 q5 q6 q7 q8 q9 q10 True q12 q13 q14 q15 q16 q17 q18 root s) : Keeps q1 q2 q3 q4 q5 q6 q7 q8 q9 q10 True q12 q13 q14 q15 q16 q17 q18 root (State.putDl s x) := by
  unfold State.putDl
  try dsimp only
  repeat' first
    | (with_reducible first
      | assumption | apply ite_keeps)
    | (intro _ _ _; try dsimp only) | (intro _ _; try dsimp only) | (intro _; try dsimp only)
    | (apply Keeps.mk; dsimp only; with_reducible refine Keeps.upd ?_) | split | dsimp only

theorem State.dlBegin_keeps {root : State} {s : State} {g : Nat} {k : Int} {l : Nat} (h_s : Keeps q1 q2 q3 q4 q5 q6 q7 q8 q9 q10 True q12 q13 q14 q15 q16 q17 q18 root s) : Keeps q1 q2 q3 q4 q5 q6 q7 q8 q9 q10 True q12 q13 q14 q15 q16 q17 q18 root (State.dlBegin s g k l) := by
  unfold State.dlBegin
  try dsimp only
  repeat' first
    | (with_reducible first
      | assumption)
    | (apply Keeps.mk; dsimp only; with_reducible refine Keeps.upd ?_) | split | dsimp only

theorem State.txLate_keeps {root : State} {s : State} {r : Nat} (h_s : Keeps q1 q2 True q4 q5 q6 q7 q8 q9 q10 True q12 q13 q14 q15 q16 q17 q18 root s) : Keeps q1 q2 True q4 q5 q6 q7 q8 q9 q10 True q12 q13 q14 q15 q16 q17 q18 root (State.txLate s r) := by
  unfold State.txLate
  try dsimp only
  repeat' first
    | (with_reducible first
      | assumption | apply State.raise_keeps | apply State.ruBump_keeps)
    | dsimp only

theorem State.dlSend_keeps {root : State} {s : State} {L : Layout} {x : DlTile} {r : Nat} (h_s : Keeps q1 q2 True q4 q5 q6 q7 q8 q9 q10 True q12 q13 q14 q15 q16 q17 q18 root s) : Keeps q1 q2 True q4 q5 q6 q7 q8 q9 q10 True q12 q13 q14 q15 q16 q17 q18 root (State.dlSend s L x r) := by
  unfold State.dlSend
  try dsimp only
  repeat' first
    | (with_reducible first
      | assumption | apply ite_keeps | apply ite_keeps2 | apply ite_keeps1 | apply State.dlMessages_keeps
      | apply State.putDl_keeps | apply State.txLate_keeps | apply foldl_keeps)
    | (intro _ _ _; try dsimp only) | (intro _ _; try dsimp only) | (intro _; try dsimp only)
    | (apply Keeps.mk; dsimp only; with_reducible refine Keeps.upd ?_) | split | dsimp only

end Sys2Proof.Machine
end

