-- ==== Sys2Proof/Laws/KeepsPowerOps.lean ====
section
/-!
SUPPORT. What the definitions of Machine/PowerOps.lean keep, each by the definitions it is made of.
-/

namespace Sys2Proof.Machine

open Sys2Proof

set_option Elab.async false

set_option linter.unusedVariables false
set_option linter.unreachableTactic false
set_option linter.unusedTactic false



variable {q1 q2 q3 q4 q5 q6 q7 q8 q9 q10 q11 q12 q13 q14 q15 q16 q17 q18 : Prop}

theorem State.driveByp_keeps {root : State} {s : State} (h_s : Keeps q1 q2 True q4 q5 q6 q7 q8 q9 q10 q11 q12 q13 q14 q15 True q17 q18 root s) : Keeps q1 q2 True q4 q5 q6 q7 q8 q9 q10 q11 q12 q13 q14 q15 True q17 q18 root (State.driveByp s) := by
  unfold State.driveByp
  try dsimp only
  repeat' first
    | (with_reducible first
      | assumption | apply ite_keeps | apply ite_keeps2 | apply ite_keeps1 | apply State.emit_keeps)
    | (apply Keeps.mk; dsimp only; with_reducible refine Keeps.upd ?_) | split | dsimp only

theorem State.scrubBtp_keeps {root : State} {s : State} {n : Nat} (h_s : Keeps q1 q2 q3 q4 q5 q6 True True q9 q10 q11 q12 q13 q14 q15 q16 q17 q18 root s) : Keeps q1 q2 q3 q4 q5 q6 True True q9 q10 q11 q12 q13 q14 q15 q16 q17 q18 root (State.scrubBtp s n) := by
  unfold State.scrubBtp
  try dsimp only
  repeat' first
    | (with_reducible first
      | assumption | apply State.advanceEpoch_keeps | apply State.modPlot_keeps)
    | (intro _ _ _; try dsimp only) | (intro _ _; try dsimp only) | (intro _; try dsimp only)
    | (apply Keeps.mk; dsimp only; with_reducible refine Keeps.upd ?_) | dsimp only

theorem State.scrubSieve_keeps {root : State} {s : State} {n : Nat} (h_s : Keeps q1 q2 q3 q4 q5 q6 True True q9 q10 q11 q12 q13 q14 q15 q16 q17 q18 root s) : Keeps q1 q2 q3 q4 q5 q6 True True q9 q10 q11 q12 q13 q14 q15 q16 q17 q18 root (State.scrubSieve s n) := by
  unfold State.scrubSieve
  try dsimp only
  repeat' first
    | (with_reducible first
      | assumption | apply State.advanceEpoch_keeps | apply State.modPlot_keeps)
    | (intro _ _ _; try dsimp only) | (intro _ _; try dsimp only) | (intro _; try dsimp only)
    | (apply Keeps.mk; dsimp only; with_reducible refine Keeps.upd ?_) | dsimp only

theorem State.scrubBedUnit_keeps {root : State} {s : State} {n : Fin 8} {b : Fin 17} (h_s : Keeps True True q3 q4 q5 q6 q7 True q9 q10 q11 q12 q13 q14 q15 q16 q17 True root s) : Keeps True True q3 q4 q5 q6 q7 True q9 q10 q11 q12 q13 q14 q15 q16 q17 True root (State.scrubBedUnit s n b) := by
  unfold State.scrubBedUnit
  try dsimp only
  repeat' first
    | (with_reducible first
      | assumption | apply State.advanceEpoch_keeps | apply State.scrubBed_keeps)
    | dsimp only

theorem State.scrubIrrigator_keeps {root : State} {s : State} {n : Nat} (h_s : Keeps q1 q2 True q4 q5 q6 q7 True q9 q10 True True True q14 q15 q16 q17 q18 root s) : Keeps q1 q2 True q4 q5 q6 q7 True q9 q10 True True True q14 q15 q16 q17 q18 root (State.scrubIrrigator s n) := by
  unfold State.scrubIrrigator
  try dsimp only
  repeat' first
    | (with_reducible first
      | assumption | apply State.advanceEpoch_keeps | apply State.grantWaiting_keeps | apply State.modIrg_keeps
      | apply State.reclaim_keeps | apply foldl_keeps)
    | (intro _ _ _; try dsimp only) | (intro _ _; try dsimp only) | (intro _; try dsimp only) | dsimp only

theorem State.scrubStoreControl_keeps {root : State} {s : State} {n : Nat} (h_s : Keeps q1 q2 q3 q4 q5 q6 True True q9 q10 q11 q12 q13 q14 q15 q16 q17 q18 root s) : Keeps q1 q2 q3 q4 q5 q6 True True q9 q10 q11 q12 q13 q14 q15 q16 q17 q18 root (State.scrubStoreControl s n) := by
  unfold State.scrubStoreControl
  try dsimp only
  repeat' first
    | (with_reducible first
      | assumption | apply State.advanceEpoch_keeps | apply State.modPlot_keeps)
    | (intro _ _ _; try dsimp only) | (intro _ _; try dsimp only) | (intro _; try dsimp only)
    | (apply Keeps.mk; dsimp only; with_reducible refine Keeps.upd ?_) | dsimp only

theorem State.scrubBeds_keeps {root : State} {s : State} {n lo hi : Nat} (h_s : Keeps True True q3 q4 q5 q6 q7 True q9 q10 q11 q12 q13 q14 q15 q16 q17 True root s) : Keeps True True q3 q4 q5 q6 q7 True q9 q10 q11 q12 q13 q14 q15 q16 q17 True root (State.scrubBeds s n lo hi) := by
  unfold State.scrubBeds
  try dsimp only
  repeat' first
    | (with_reducible first
      | assumption | apply State.scrubBedUnit_keeps | apply foldl_keeps)
    | (intro _ _ _; try dsimp only) | (intro _ _; try dsimp only) | (intro _; try dsimp only) | dsimp only

theorem State.setDom_keeps {root : State} {s : State} {k x : Nat} (h_s : Keeps q1 q2 q3 q4 q5 q6 q7 q8 q9 q10 q11 q12 q13 q14 q15 True q17 q18 root s) : Keeps q1 q2 q3 q4 q5 q6 q7 q8 q9 q10 q11 q12 q13 q14 q15 True q17 q18 root (State.setDom s k x) := by
  unfold State.setDom
  try dsimp only
  repeat' first
    | (with_reducible first
      | assumption)
    | (apply Keeps.mk; dsimp only; with_reducible refine Keeps.upd ?_) | dsimp only

theorem State.domUp_keeps {root : State} {s : State} {k : Nat} (h_s : Keeps True True True q4 q5 q6 True True q9 q10 True True True q14 q15 q16 q17 True root s) : Keeps True True True q4 q5 q6 True True q9 q10 True True True q14 q15 q16 q17 True root (State.domUp s k) := by
  unfold State.domUp
  try dsimp only
  repeat' first
    | (with_reducible first
      | assumption | apply ite_keeps | apply ite_keeps2 | apply ite_keeps1 | apply State.advanceEpoch_keeps
      | apply State.scrubBeds_keeps | apply State.scrubBtp_keeps | apply State.scrubIrrigator_keeps
      | apply State.scrubSieve_keeps | apply State.scrubStores_keeps)
    | split | dsimp only

theorem State.domDown_keeps {root : State} {s : State} {k : Nat} (h_s : Keeps q1 q2 q3 q4 q5 q6 True q8 q9 q10 q11 q12 q13 q14 q15 q16 q17 q18 root s) : Keeps q1 q2 q3 q4 q5 q6 True q8 q9 q10 q11 q12 q13 q14 q15 q16 q17 q18 root (State.domDown s k) := by
  unfold State.domDown
  try dsimp only
  repeat' first
    | (with_reducible first
      | assumption | apply ite_keeps | apply State.modPlot_keeps)
    | (intro _ _ _; try dsimp only) | (intro _ _; try dsimp only) | (intro _; try dsimp only)
    | (apply Keeps.mk; dsimp only; with_reducible refine Keeps.upd ?_) | split | dsimp only

theorem State.switchDoms_keeps {root : State} {s : State} {a : SMap Word} (h_s : Keeps q1 q2 q3 q4 q5 q6 True q8 q9 q10 q11 q12 q13 q14 q15 True q17 q18 root s) : Keeps q1 q2 q3 q4 q5 q6 True q8 q9 q10 q11 q12 q13 q14 q15 True q17 q18 root (State.switchDoms s a) := by
  unfold State.switchDoms
  try dsimp only
  repeat' first
    | (with_reducible first
      | assumption | apply ite_keeps | apply ite_keeps2 | apply ite_keeps1 | apply State.domDown_keeps
      | apply State.setDom_keeps | apply foldl_keeps)
    | (intro _ _ _; try dsimp only) | (intro _ _; try dsimp only) | (intro _; try dsimp only)
    | (apply Keeps.mk; dsimp only; with_reducible refine Keeps.upd ?_) | split | dsimp only

theorem State.settleDoms_keeps {root : State} {s : State} (h_s : Keeps True True True q4 q5 q6 True True q9 q10 True True True q14 q15 True q17 True root s) : Keeps True True True q4 q5 q6 True True q9 q10 True True True q14 q15 True q17 True root (State.settleDoms s) := by
  unfold State.settleDoms
  try dsimp only
  repeat' first
    | (with_reducible first
      | assumption | apply ite_keeps | apply ite_keeps2 | apply ite_keeps1 | apply State.domUp_keeps
      | apply State.setDom_keeps | apply foldl_keeps | apply foldl_keeps2 | apply foldl_keeps1 | apply foldl_keeps22)
    | (intro _ _ _; try dsimp only) | (intro _ _; try dsimp only) | (intro _; try dsimp only)
    | (apply Keeps.mk; dsimp only; with_reducible refine Keeps.upd ?_) | split | dsimp only

theorem State.zeroWindows_keeps {root : State} {s : State} {n : Nat} (h_s : Keeps True True True True True q6 True True True q10 q11 True q13 True q15 q16 q17 True root s) : Keeps True True True True True q6 True True True q10 q11 True q13 True q15 q16 q17 True root (State.zeroWindows s n) := by
  unfold State.zeroWindows
  try dsimp only
  repeat' first
    | (with_reducible first
      | assumption | apply ite_keeps | apply ite_keeps2 | apply ite_keeps1 | apply State.actPut_keeps
      | apply State.nextZeroOrder_keeps | apply State.winLeave_keeps | apply foldl_keeps)
    | (intro _ _ _; try dsimp only) | (intro _ _; try dsimp only) | (intro _; try dsimp only)
    | (apply Keeps.mk; dsimp only; with_reducible refine Keeps.upd ?_) | split | dsimp only

theorem State.plotReset_keeps {root : State} {s : State} {n : Nat} (h_s : Keeps True True True True True q6 True True True q10 True True True True q15 q16 q17 True root s) : Keeps True True True True True q6 True True True q10 True True True True q15 q16 q17 True root (State.plotReset s n) := by
  unfold State.plotReset
  try dsimp only
  repeat' first
    | (with_reducible first
      | assumption | apply ite_keeps | apply ite_keeps2 | apply ite_keeps1 | apply State.faultCtx_keeps
      | apply State.scrubBeds_keeps | apply State.scrubBtp_keeps | apply State.scrubIrrigator_keeps
      | apply State.scrubSieve_keeps | apply State.scrubStoreControl_keeps | apply State.zeroWindows_keeps
      | apply foldl_keeps)
    | (intro _ _ _; try dsimp only) | (intro _ _; try dsimp only) | (intro _; try dsimp only) | split | dsimp only

end Sys2Proof.Machine
end

