-- ==== Sys2Proof/Laws/KeepsTurnstile.lean ====
section
/-!
SUPPORT. What the definitions of Machine/Turnstile.lean keep, each by the definitions it is made of.
-/

namespace Sys2Proof.Machine

open Sys2Proof

set_option Elab.async false

set_option linter.unusedVariables false
set_option linter.unreachableTactic false
set_option linter.unusedTactic false



variable {q1 q2 q3 q4 q5 q6 q7 q8 q9 q10 q11 q12 q13 q14 q15 q16 q17 q18 : Prop}

theorem State.fnWrite_keeps {root : State} {s : State} {f addr : Nat} {bytes : List (BitVec 8)} (h_s : Keeps q1 q2 True q4 q5 q6 q7 q8 True q10 q11 q12 q13 q14 q15 q16 q17 q18 root s) : Keeps q1 q2 True q4 q5 q6 q7 q8 True q10 q11 q12 q13 q14 q15 q16 q17 q18 root (State.fnWrite s f addr bytes) := by
  unfold State.fnWrite
  try dsimp only
  repeat' first
    | (with_reducible first
      | assumption | apply State.emit_keeps | apply State.hostWrite_keeps)
    | (apply Keeps.mk; dsimp only; with_reducible refine Keeps.upd ?_) | split | dsimp only

theorem State.shedOne_keeps {root s : State} {x : ShedMsg} (h_s : Keeps q1 q2 True q4 q5 q6 q7 q8 True q10 q11 True q13 q14 q15 q16 q17 q18 root s) {t : State} (h : State.shedOne s x = some t) : Keeps q1 q2 True q4 q5 q6 q7 q8 True q10 q11 True q13 q14 q15 q16 q17 q18 root t := by
  obtain rfl := Option.some.inj (of_ite_none (of_ite_none h))
  exact State.bump_keeps (State.fnWrite_keeps (State.modFn_keeps h_s))

theorem shedNext_keeps {root : State} {acc : State × List ShedMsg} {x : ShedMsg} (h : Keeps q1 q2 True q4 q5 q6 q7 q8 True q10 q11 True q13 q14 q15 q16 q17 q18 root acc.1) : Keeps q1 q2 True q4 q5 q6 q7 q8 True q10 q11 True q13 q14 q15 q16 q17 q18 root (shedNext acc x).1 := by
  unfold shedNext
  apply ite_keeps1
  · apply pair_keeps1
    cases ht : acc.1.shedOne x with
    | none => exact h
    | some t => exact State.shedOne_keeps h ht
  · exact pair_keeps1 h

theorem State.setShed_keeps {root : State} {s : State} {l : List ShedMsg} (h_s : Keeps q1 q2 True q4 q5 q6 q7 q8 True q10 True True q13 q14 q15 q16 q17 q18 root s) : Keeps q1 q2 True q4 q5 q6 q7 q8 True q10 True True q13 q14 q15 q16 q17 q18 root (State.setShed s l) := by
  unfold State.setShed
  try dsimp only
  repeat' first
    | (with_reducible first
      | assumption | apply State.shed_keeps)
    | (apply Keeps.mk; dsimp only; with_reducible refine Keeps.upd ?_) | dsimp only

theorem State.shedDrain_keeps {root : State} {s : State} {l : List ShedMsg} (h_s : Keeps q1 q2 True q4 q5 q6 q7 q8 True q10 True True q13 q14 q15 q16 q17 q18 root s) : Keeps q1 q2 True q4 q5 q6 q7 q8 True q10 True True q13 q14 q15 q16 q17 q18 root (State.shedDrain s l) := by
  unfold State.shedDrain
  have h1 : Keeps q1 q2 True q4 q5 q6 q7 q8 True q10 True True q13 q14 q15 q16 q17 q18 root (l.foldl shedNext (s, [])).1 := by
    apply foldl_keeps1 _ _ _ (s, []) h_s
    intro a x ha
    exact shedNext_keeps ha
  exact State.setShed_keeps h1

theorem State.shedRead_keeps {root : State} {s : State} {f : Nat} {cons : Option Nat} (h_s : Keeps q1 q2 q3 q4 q5 q6 q7 q8 q9 q10 q11 True q13 q14 q15 q16 q17 q18 root s) : Keeps q1 q2 q3 q4 q5 q6 q7 q8 q9 q10 q11 True q13 q14 q15 q16 q17 q18 root (State.shedRead s f cons) := by
  unfold State.shedRead
  try dsimp only
  repeat' first
    | (with_reducible first
      | assumption | apply State.modFn_keeps)
    | (intro _ _ _; try dsimp only) | (intro _ _; try dsimp only) | (intro _; try dsimp only)
    | (apply Keeps.mk; dsimp only; with_reducible refine Keeps.upd ?_) | split | dsimp only

theorem State.noteShed_keeps {root : State} {s : State} {p : Nat} {on : Bool} (h_s : Keeps q1 q2 True q4 q5 q6 q7 q8 q9 q10 True q12 q13 q14 q15 q16 q17 q18 root s) : Keeps q1 q2 True q4 q5 q6 q7 q8 q9 q10 True q12 q13 q14 q15 q16 q17 q18 root (State.noteShed s p on) := by
  unfold State.noteShed
  try dsimp only
  repeat' first
    | (with_reducible first
      | assumption | apply ite_keeps | apply State.raise_keeps)
    | (apply Keeps.mk; dsimp only; with_reducible refine Keeps.upd ?_) | split | dsimp only

theorem State.stampRx_keeps {root : State} {s : State} {p w : Nat} (h_s : Keeps q1 q2 q3 q4 q5 True q7 q8 q9 q10 q11 q12 q13 q14 q15 q16 q17 q18 root s) : Keeps q1 q2 q3 q4 q5 True q7 q8 q9 q10 q11 q12 q13 q14 q15 q16 q17 q18 root (State.stampRx s p w) := by
  unfold State.stampRx
  try dsimp only
  repeat' first
    | (with_reducible first
      | assumption)
    | (apply Keeps.mk; dsimp only; with_reducible refine Keeps.upd ?_) | dsimp only

theorem State.reject_keeps {root : State} {s : State} {u : UpAt} {L : Layout} {a : Alloc} {kind : Nat} {prbs : List Nat} (h_s : Keeps q1 q2 True q4 q5 q6 q7 q8 q9 q10 True q12 q13 q14 q15 q16 q17 q18 root s) : Keeps q1 q2 True q4 q5 q6 q7 q8 q9 q10 True q12 q13 q14 q15 q16 q17 q18 root (State.reject s u L a kind prbs) := by
  unfold State.reject
  try dsimp only
  repeat' first
    | (with_reducible first
      | assumption | apply State.closeIfDone_keeps)
    | (intro _ _ _; try dsimp only) | (intro _ _; try dsimp only) | (intro _; try dsimp only) | dsimp only

theorem State.claimOver_keeps {root : State} {s : State} {u : UpAt} (h_s : Keeps q1 q2 True q4 q5 q6 q7 q8 q9 q10 True q12 q13 q14 q15 q16 q17 q18 root s) : Keeps q1 q2 True q4 q5 q6 q7 q8 q9 q10 True q12 q13 q14 q15 q16 q17 q18 root (State.claimOver s u) := by
  unfold State.claimOver
  try dsimp only
  repeat' first
    | (with_reducible first
      | assumption | apply ite_keeps | apply ite_keeps2 | apply ite_keeps1 | apply State.modFlow_keeps
      | apply State.raise_keeps | apply State.ruBump_keeps)
    | (intro _ _ _; try dsimp only) | (intro _ _; try dsimp only) | (intro _; try dsimp only)
    | (apply Keeps.mk; dsimp only; with_reducible refine Keeps.upd ?_) | split | dsimp only

theorem State.writePrbs_keeps {root : State} {s : State} {u : UpAt} {L : Layout} {a : Alloc} {h : Nat} {sec : UpSection} (h_s : Keeps q1 q2 True q4 q5 q6 q7 q8 q9 q10 True q12 q13 q14 q15 q16 q17 q18 root s) : Keeps q1 q2 True q4 q5 q6 q7 q8 q9 q10 True q12 q13 q14 q15 q16 q17 q18 root (State.writePrbs s u L a h sec) := by
  unfold State.writePrbs
  try dsimp only
  repeat' first
    | (with_reducible first
      | assumption | apply ite_keeps | apply ite_keeps2 | apply ite_keeps1 | apply ite_keeps22
      | apply State.closeIfDone_keeps | apply State.ruBump_keeps | apply State.written_keeps | apply foldl_keeps
      | apply foldl_keeps2 | apply foldl_keeps1 | apply foldl_keeps22)
    | (intro _ _ _; try dsimp only) | (intro _ _; try dsimp only) | (intro _; try dsimp only)
    | (apply Keeps.mk; dsimp only; with_reducible refine Keeps.upd ?_) | split | dsimp only

theorem State.upSections_keeps {root : State} : ∀ (y0 : List UpSection) {s : State} {u : UpAt}  (h_s : Keeps q1 q2 True q4 q5 q6 q7 q8 q9 q10 True q12 q13 q14 q15 q16 q17 q18 root s), Keeps q1 q2 True q4 q5 q6 q7 q8 q9 q10 True q12 q13 q14 q15 q16 q17 q18 root (State.upSections s u y0) := by
  intro y0
  induction y0 with
  | nil =>
    intros
    unfold State.upSections
    repeat' first
      | with_reducible apply ih
      | (with_reducible first
        | assumption | apply ite_keeps | apply ite_keeps2 | apply ite_keeps1 | apply State.bump_keeps
        | apply State.claimOver_keeps | apply State.reject_keeps | apply State.ruBump_keeps | apply State.writePrbs_keeps)
      | (intro _ _ _; try dsimp only) | (intro _ _; try dsimp only) | (intro _; try dsimp only)
      | (apply Keeps.mk; dsimp only; with_reducible refine Keeps.upd ?_) | split | dsimp only
  
  | cons hd tl ih =>
    intros
    unfold State.upSections
    try dsimp only
    repeat' first
      | with_reducible apply ih
      | (with_reducible first
        | assumption | apply ite_keeps | apply ite_keeps2 | apply ite_keeps1 | apply State.bump_keeps
        | apply State.claimOver_keeps | apply State.reject_keeps | apply State.ruBump_keeps | apply State.writePrbs_keeps)
      | (intro _ _ _; try dsimp only) | (intro _ _; try dsimp only) | (intro _; try dsimp only)
      | (apply Keeps.mk; dsimp only; with_reducible refine Keeps.upd ?_) | split | dsimp only
  
theorem State.shed_keeps {root : State} {s : State} {port : Nat} {u : UpAt} {m : UpMsg} {len : Nat} {full : Bool} {cons : Option Nat} (h_s : Keeps q1 q2 True q4 q5 q6 q7 q8 True q10 True True q13 q14 q15 q16 q17 q18 root s) : Keeps q1 q2 True q4 q5 q6 q7 q8 True q10 True True q13 q14 q15 q16 q17 q18 root (State.shed s port u m len full cons) := by
  unfold State.shed
  try dsimp only
  repeat' first
    | (with_reducible first
      | assumption | apply ite_keeps | apply ite_keeps2 | apply ite_keeps1 | apply State.bump_keeps | apply State.emit_keeps
      | apply State.noteShed_keeps | apply State.reject_keeps | apply State.shedDrain_keeps | apply State.shedRead_keeps
      | apply foldl_keeps)
    | (intro _ _ _; try dsimp only) | (intro _ _; try dsimp only) | (intro _; try dsimp only)
    | (apply Keeps.mk; dsimp only; with_reducible refine Keeps.upd ?_) | split | dsimp only

theorem State.uplane_keeps {root : State} {s : State} {port r len : Nat} {m : UpMsg} {full : Bool} {cons : Option Nat} (h_s : Keeps q1 q2 True q4 q5 q6 q7 q8 True q10 True True q13 q14 q15 q16 q17 q18 root s) : Keeps q1 q2 True q4 q5 q6 q7 q8 True q10 True True q13 q14 q15 q16 q17 q18 root (State.uplane s port r len m full cons) := by
  unfold State.uplane
  try dsimp only
  repeat' first
    | (with_reducible first
      | assumption | apply ite_keeps | apply ite_keeps2 | apply ite_keeps1 | apply State.bump_keeps
      | apply State.bumpBy_keeps | apply State.modFlow_keeps | apply State.raise_keeps | apply State.ruBump_keeps
      | apply State.shed_keeps | apply State.upSections_keeps)
    | (intro _ _ _; try dsimp only) | (intro _ _; try dsimp only) | (intro _; try dsimp only)
    | (apply Keeps.mk; dsimp only; with_reducible refine Keeps.upd ?_) | split | dsimp only

theorem State.setTdUl_keeps {root : State} {s : State} {r : Nat} {d : Int} (h_s : Keeps q1 q2 True q4 q5 q6 q7 q8 q9 q10 True q12 q13 q14 q15 q16 q17 q18 root s) : Keeps q1 q2 True q4 q5 q6 q7 q8 q9 q10 True q12 q13 q14 q15 q16 q17 q18 root (State.setTdUl s r d) := by
  unfold State.setTdUl
  try dsimp only
  repeat' first
    | (with_reducible first
      | assumption | apply ite_keeps | apply ite_keeps2 | apply ite_keeps1 | apply State.modRu_keeps
      | apply State.raise_keeps)
    | (intro _ _ _; try dsimp only) | (intro _ _; try dsimp only) | (intro _; try dsimp only)
    | (apply Keeps.mk; dsimp only; with_reducible refine Keeps.upd ?_) | split | dsimp only

theorem State.setTdDl_keeps {root : State} {s : State} {r : Nat} {d : Int} (h_s : Keeps q1 q2 True q4 q5 q6 q7 q8 q9 q10 True q12 q13 q14 q15 q16 q17 q18 root s) : Keeps q1 q2 True q4 q5 q6 q7 q8 q9 q10 True q12 q13 q14 q15 q16 q17 q18 root (State.setTdDl s r d) := by
  unfold State.setTdDl
  try dsimp only
  repeat' first
    | (with_reducible first
      | assumption | apply ite_keeps | apply ite_keeps2 | apply ite_keeps1 | apply State.modRu_keeps
      | apply State.raise_keeps)
    | (intro _ _ _; try dsimp only) | (intro _ _; try dsimp only) | (intro _; try dsimp only)
    | (apply Keeps.mk; dsimp only; with_reducible refine Keeps.upd ?_) | split | dsimp only

theorem State.delayMsg_keeps {root : State} {s : State} {r : Nat} {kind : DelayKind} {seq ts comp : Nat} (h_s : Keeps q1 q2 True q4 q5 True q7 q8 q9 q10 True q12 q13 q14 q15 q16 q17 q18 root s) : Keeps q1 q2 True q4 q5 True q7 q8 q9 q10 True q12 q13 q14 q15 q16 q17 q18 root (State.delayMsg s r kind seq ts comp) := by
  unfold State.delayMsg
  try dsimp only
  repeat' first
    | (with_reducible first
      | assumption | apply ite_keeps | apply ite_keeps2 | apply ite_keeps1 | apply State.modRu_keeps
      | apply State.sendTo_keeps | apply State.setTdDl_keeps | apply State.setTdUl_keeps | apply State.stampRx_keeps)
    | (intro _ _ _; try dsimp only) | (intro _ _; try dsimp only) | (intro _; try dsimp only)
    | (apply Keeps.mk; dsimp only; with_reducible refine Keeps.upd ?_) | split | dsimp only

theorem State.txStamp_keeps {root : State} {s : State} {p taken stamp : Nat} (h_s : Keeps q1 q2 True q4 q5 True q7 q8 q9 q10 q11 q12 q13 q14 q15 q16 q17 q18 root s) : Keeps q1 q2 True q4 q5 True q7 q8 q9 q10 q11 q12 q13 q14 q15 q16 q17 q18 root (State.txStamp s p taken stamp).2 := by
  unfold State.txStamp
  try dsimp only
  repeat' first
    | (with_reducible first
      | assumption | apply ite_keeps | apply ite_keeps2 | apply ite_keeps1 | apply State.bump_keeps | apply State.raise_keeps
      | apply State.record_keeps | apply foldl_keeps | apply foldl_keeps2 | apply foldl_keeps1 | apply foldl_keeps22)
    | (intro _ _ _; try dsimp only) | (intro _ _; try dsimp only) | (intro _; try dsimp only)
    | (apply Keeps.mk; dsimp only; with_reducible refine Keeps.upd ?_) | split | dsimp only

theorem execTdMeasTimer_keeps {ru : Fin 48} {two : Bool} {taken t : Nat} {s : State} {fin : State} (h : execTdMeasTimer ru two taken t s = .next fin) : Keeps False False True False False True False False True False True False False False False False False False s fin := by
  have h_s : Keeps False False True False False True False False True False True False False False False False False False s s := Keeps.refl s
  unfold execTdMeasTimer at h
  obtain rfl := Host.Outcome.next.inj h
  try dsimp only
  repeat' first
    | (with_reducible first
      | assumption | apply ite_keeps | apply ite_keeps2 | apply ite_keeps1 | apply State.advance_keeps
      | apply State.live_keeps | apply State.modRu_keeps | apply State.sendTo_keeps | apply State.txStamp_keeps)
    | (intro _ _ _; try dsimp only) | (intro _ _; try dsimp only) | (intro _; try dsimp only)
    | (apply Keeps.mk; dsimp only; with_reducible refine Keeps.upd ?_) | split | dsimp only

theorem State.setPtp_keeps {root : State} {s : State} {d : Bool} {x : PtpEx} (h_s : Keeps q1 q2 q3 q4 q5 q6 q7 q8 q9 q10 True q12 q13 q14 q15 q16 q17 q18 root s) : Keeps q1 q2 q3 q4 q5 q6 q7 q8 q9 q10 True q12 q13 q14 q15 q16 q17 q18 root (State.setPtp s d x) := by
  unfold State.setPtp
  try dsimp only
  repeat' first
    | (with_reducible first
      | assumption | apply ite_keeps)
    | (apply Keeps.mk; dsimp only; with_reducible refine Keeps.upd ?_) | split | dsimp only

theorem State.ptpPost_keeps {root : State} {s : State} {d : Bool} (h_s : Keeps q1 q2 True q4 q5 q6 q7 q8 q9 q10 True q12 q13 q14 q15 q16 q17 q18 root s) : Keeps q1 q2 True q4 q5 q6 q7 q8 q9 q10 True q12 q13 q14 q15 q16 q17 q18 root (State.ptpPost s d) := by
  unfold State.ptpPost
  try dsimp only
  repeat' first
    | (with_reducible first
      | assumption | apply State.record_keeps | apply State.setPtp_keeps)
    | (apply Keeps.mk; dsimp only; with_reducible refine Keeps.upd ?_) | split | dsimp only

theorem State.ptpFor_keeps {root : State} {s : State} {d : Bool} {w : Nat} {kind : PtpKind} {seq ts : Nat} {corr : Int} (h_s : Keeps q1 q2 True q4 q5 q6 q7 q8 q9 q10 True q12 q13 q14 q15 q16 q17 q18 root s) : Keeps q1 q2 True q4 q5 q6 q7 q8 q9 q10 True q12 q13 q14 q15 q16 q17 q18 root (State.ptpFor s d w kind seq ts corr) := by
  unfold State.ptpFor
  try dsimp only
  repeat' first
    | (with_reducible first
      | assumption | apply ite_keeps | apply ite_keeps2 | apply ite_keeps1 | apply State.ptpPost_keeps
      | apply State.record_keeps | apply State.setPtp_keeps)
    | (apply Keeps.mk; dsimp only; with_reducible refine Keeps.upd ?_) | split | dsimp only

theorem State.ptpMsg_keeps {root : State} {s : State} {port domain : Nat} {kind : PtpKind} {seq ts : Nat} {corr : Int} (h_s : Keeps q1 q2 True q4 q5 True q7 q8 q9 q10 True q12 q13 q14 q15 q16 q17 q18 root s) : Keeps q1 q2 True q4 q5 True q7 q8 q9 q10 True q12 q13 q14 q15 q16 q17 q18 root (State.ptpMsg s port domain kind seq ts corr) := by
  unfold State.ptpMsg
  try dsimp only
  repeat' first
    | (with_reducible first
      | assumption | apply ite_keeps | apply ite_keeps2 | apply ite_keeps1 | apply State.ptpFor_keeps
      | apply State.stampRx_keeps)
    | split | dsimp only

theorem execDelayReqInterval_keeps {dom two : Bool} {taken t : Nat} {s : State} {fin : State} (h : execDelayReqInterval dom two taken t s = .next fin) : Keeps False False True False False True False False True False True False False False False False False False s fin := by
  have h_s : Keeps False False True False False True False False True False True False False False False False False False s s := Keeps.refl s
  unfold execDelayReqInterval at h
  obtain rfl := Host.Outcome.next.inj h
  try dsimp only
  repeat' first
    | (with_reducible first
      | assumption | apply ite_keeps | apply ite_keeps2 | apply ite_keeps1 | apply State.advance_keeps
      | apply State.emit_keeps | apply State.live_keeps | apply State.setPtp_keeps | apply State.txStamp_keeps)
    | (intro _ _ _; try dsimp only) | (intro _ _; try dsimp only) | (intro _; try dsimp only)
    | (apply Keeps.mk; dsimp only; with_reducible refine Keeps.upd ?_) | split | dsimp only

theorem State.frameMsg_keeps {root : State} {s : State} {port r : Nat} {f : Frame} {full : Bool} {cons : Option Nat} {b : FrameBody} (h_s : Keeps q1 q2 True q4 q5 True q7 q8 True q10 True True q13 q14 q15 q16 q17 q18 root s) : Keeps q1 q2 True q4 q5 True q7 q8 True q10 True True q13 q14 q15 q16 q17 q18 root (State.frameMsg s port r f full cons b) := by
  unfold State.frameMsg
  try dsimp only
  repeat' first
    | (with_reducible first
      | assumption | apply State.bump_keeps | apply State.delayMsg_keeps | apply State.uplane_keeps)
    | (apply Keeps.mk; dsimp only; with_reducible refine Keeps.upd ?_) | split | dsimp only

theorem State.frameBody_keeps {root : State} {s : State} {port r : Nat} {f : Frame} {full : Bool} {cons : Option Nat} (h_s : Keeps q1 q2 True q4 q5 True q7 q8 True q10 True True q13 q14 q15 q16 q17 q18 root s) : Keeps q1 q2 True q4 q5 True q7 q8 True q10 True True q13 q14 q15 q16 q17 q18 root (State.frameBody s port r f full cons) := by
  unfold State.frameBody
  try dsimp only
  repeat' first
    | (with_reducible first
      | assumption | apply ite_keeps | apply State.bump_keeps | apply State.frameMsg_keeps | apply foldl_keeps)
    | (intro _ _ _; try dsimp only) | (intro _ _; try dsimp only) | (intro _; try dsimp only) | split | dsimp only

theorem State.frameFor_keeps {root : State} {s : State} {p : Nat} {f : Frame} {full : Bool} {cons : Option Nat} (h_s : Keeps q1 q2 True q4 q5 True q7 q8 True q10 True True q13 q14 q15 q16 q17 q18 root s) : Keeps q1 q2 True q4 q5 True q7 q8 True q10 True True q13 q14 q15 q16 q17 q18 root (State.frameFor s p f full cons) := by
  unfold State.frameFor
  try dsimp only
  repeat' first
    | (with_reducible first
      | assumption | apply ite_keeps | apply ite_keeps2 | apply ite_keeps1 | apply State.bump_keeps
      | apply State.frameBody_keeps | apply State.modRu_keeps)
    | (intro _ _ _; try dsimp only) | (intro _ _; try dsimp only) | (intro _; try dsimp only)
    | (apply Keeps.mk; dsimp only; with_reducible refine Keeps.upd ?_) | split | dsimp only

theorem execFrameReceive_keeps {port : Fin 16} {f : Frame} {level : Nat} {shedFull : Bool} {shedCons : Option Nat} {t : Nat} {s : State} {fin : State} (h : execFrameReceive port f level shedFull shedCons t s = .next fin) : Keeps False False True False False True False False True False True True False False False False False False s fin := by
  have h_s : Keeps False False True False False True False False True False True True False False False False False False s s := Keeps.refl s
  unfold execFrameReceive at h
  obtain rfl := Host.Outcome.next.inj h
  try dsimp only
  repeat' first
    | (with_reducible first
      | assumption | apply ite_keeps | apply ite_keeps2 | apply ite_keeps1 | apply State.advance_keeps
      | apply State.bump_keeps | apply State.frameFor_keeps | apply State.live_keeps | apply State.noteShed_keeps
      | apply State.ptpMsg_keeps | apply State.record_keeps | apply State.restDropped_keeps | apply State.setLevel_keeps)
    | (intro _ _ _; try dsimp only) | (intro _ _; try dsimp only) | (intro _; try dsimp only)
    | (apply Keeps.mk; dsimp only; with_reducible refine Keeps.upd ?_) | split | dsimp only

theorem State.cpSend_keeps {root : State} {s : State} {r : Nat} {words : List Nat} (h_s : Keeps q1 q2 True q4 q5 q6 q7 q8 q9 q10 True q12 q13 q14 q15 q16 q17 q18 root s) : Keeps q1 q2 True q4 q5 q6 q7 q8 q9 q10 True q12 q13 q14 q15 q16 q17 q18 root (State.cpSend s r words) := by
  unfold State.cpSend
  try dsimp only
  repeat' first
    | (with_reducible first
      | assumption | apply ite_keeps | apply State.sendTo_keeps | apply State.txLate_keeps)
    | split | dsimp only

theorem execCplaneMessage_keeps {m : CpMsg} {t : Nat} {s : State} {fin : State} (h : execCplaneMessage m t s = .next fin) : Keeps False False True False False True False False True False True False False False False False False False s fin := by
  have h_s : Keeps False False True False False True False False True False True False False False False False False False s s := Keeps.refl s
  unfold execCplaneMessage at h
  obtain rfl := Host.Outcome.next.inj h
  try dsimp only
  repeat' first
    | (with_reducible first
      | assumption | apply ite_keeps | apply ite_keeps2 | apply ite_keeps1 | apply State.advance_keeps
      | apply State.bump_keeps | apply State.bumpBy_keeps | apply State.cpSend_keeps | apply State.live_keeps
      | apply State.postCp_keeps | apply State.raise_keeps | apply State.record_keeps | apply foldl_keeps
      | apply foldl_keeps2 | apply foldl_keeps1 | apply foldl_keeps22)
    | (intro _ _ _; try dsimp only) | (intro _ _; try dsimp only) | (intro _; try dsimp only)
    | (apply Keeps.mk; dsimp only; with_reducible refine Keeps.upd ?_) | split | dsimp only

theorem State.cpRelease_keeps {root : State} {s : State} {x : Held} (h_s : Keeps q1 q2 True q4 q5 q6 q7 q8 q9 q10 True q12 q13 q14 q15 q16 q17 q18 root s) : Keeps q1 q2 True q4 q5 q6 q7 q8 q9 q10 True q12 q13 q14 q15 q16 q17 q18 root (State.cpRelease s x) := by
  unfold State.cpRelease
  try dsimp only
  repeat' first
    | (with_reducible first
      | assumption | apply ite_keeps | apply State.bump_keeps | apply State.cpSend_keeps | apply State.raise_keeps)
    | split | dsimp only

theorem execCpHoldRelease_keeps {t : Nat} {s : State} {fin : State} (h : execCpHoldRelease t s = .next fin) : Keeps False False True False False True False False True False True False False False False False False False s fin := by
  have h_s : Keeps False False True False False True False False True False True False False False False False False False s s := Keeps.refl s
  unfold execCpHoldRelease at h
  obtain rfl := Host.Outcome.next.inj h
  try dsimp only
  repeat' first
    | (with_reducible first
      | assumption | apply State.advance_keeps | apply State.cpRelease_keeps | apply State.live_keeps | apply foldl_keeps)
    | (intro _ _ _; try dsimp only) | (intro _ _; try dsimp only) | (intro _; try dsimp only)
    | (apply Keeps.mk; dsimp only; with_reducible refine Keeps.upd ?_) | dsimp only

theorem execLayoutFreeze_keeps {grid : Fin 32} {t : Nat} {s : State} {fin : State} (h : execLayoutFreeze grid t s = .next fin) : Keeps False False True False False True False False True False True False False False False False False False s fin := by
  have h_s : Keeps False False True False False True False False True False True False False False False False False False s s := Keeps.refl s
  unfold execLayoutFreeze at h
  obtain rfl := Host.Outcome.next.inj h
  try dsimp only
  repeat' first
    | (with_reducible first
      | assumption | apply ite_keeps | apply ite_keeps2 | apply ite_keeps1 | apply State.advance_keeps
      | apply State.bumpBy_keeps | apply State.live_keeps | apply State.postCp_keeps | apply State.raise_keeps
      | apply foldl_keeps | apply foldl_keeps2 | apply foldl_keeps1 | apply foldl_keeps22)
    | (intro _ _ _; try dsimp only) | (intro _ _; try dsimp only) | (intro _; try dsimp only)
    | (apply Keeps.mk; dsimp only; with_reducible refine Keeps.upd ?_) | split | dsimp only

theorem execChunkSymbolOpen_keeps {grid : Fin 32} {chunk : Fin 8} {slot : Int} {sym : Fin 14} {t : Nat} {s : State} {fin : State} (h : execChunkSymbolOpen grid chunk slot sym t s = .next fin) : Keeps False False True False False True False False True False True False False False False False False False s fin := by
  have h_s : Keeps False False True False False True False False True False True False False False False False False False s s := Keeps.refl s
  unfold execChunkSymbolOpen at h
  obtain rfl := Host.Outcome.next.inj h
  try dsimp only
  repeat' first
    | (with_reducible first
      | assumption | apply ite_keeps | apply ite_keeps2 | apply ite_keeps1 | apply State.advance_keeps
      | apply State.closeIfDone_keeps | apply State.live_keeps)
    | (intro _ _ _; try dsimp only) | (intro _ _; try dsimp only) | (intro _; try dsimp only)
    | (apply Keeps.mk; dsimp only; with_reducible refine Keeps.upd ?_) | split | dsimp only

theorem execChunkSymbolClose_keeps {grid : Fin 32} {chunk : Fin 8} {slot : Int} {sym : Fin 14} {t : Nat} {s : State} {fin : State} (h : execChunkSymbolClose grid chunk slot sym t s = .next fin) : Keeps False False True False False True False False True False True False False False False False False False s fin := by
  have h_s : Keeps False False True False False True False False True False True False False False False False False False s s := Keeps.refl s
  unfold execChunkSymbolClose at h
  obtain rfl := Host.Outcome.next.inj h
  try dsimp only
  repeat' first
    | (with_reducible first
      | assumption | apply ite_keeps | apply ite_keeps2 | apply ite_keeps1 | apply State.advance_keeps
      | apply State.closeSym_keeps | apply State.live_keeps)
    | (intro _ _ _; try dsimp only) | (intro _ _; try dsimp only) | (intro _; try dsimp only)
    | (apply Keeps.mk; dsimp only; with_reducible refine Keeps.upd ?_) | split | dsimp only

theorem execTileUnitOffer_keeps {grid : Fin 32} {chunk : Fin 8} {slot : Int} {sym : Fin 14} {pyr : Bool} {s : State} {fin : State} (h : execTileUnitOffer grid chunk slot sym pyr s = .next fin) : Keeps False False True False False False False False False False True False False False False False False False s fin := by
  have h_s : Keeps False False True False False False False False False False True False False False False False False False s s := Keeps.refl s
  unfold execTileUnitOffer at h
  obtain rfl := Host.Outcome.next.inj h
  try dsimp only
  repeat' first
    | (with_reducible first
      | assumption | apply ite_keeps | apply ite_keeps2 | apply ite_keeps1 | apply State.emit_keeps | apply State.live_keeps
      | apply State.putSym_keeps)
    | (intro _ _ _; try dsimp only) | (intro _ _; try dsimp only) | (intro _; try dsimp only)
    | (apply Keeps.mk; dsimp only; with_reducible refine Keeps.upd ?_) | split | dsimp only

theorem execTileStale_keeps {grid : Fin 32} {chunk : Fin 8} {slot : Int} {sym : Fin 14} {pyr : Bool} {t : Nat} {s : State} {fin : State} (h : execTileStale grid chunk slot sym pyr t s = .next fin) : Keeps False False True False False True False False True False True False False False False False False False s fin := by
  have h_s : Keeps False False True False False True False False True False True False False False False False False False s s := Keeps.refl s
  unfold execTileStale at h
  obtain rfl := Host.Outcome.next.inj h
  try dsimp only
  repeat' first
    | (with_reducible first
      | assumption | apply ite_keeps | apply ite_keeps2 | apply ite_keeps1 | apply State.advance_keeps
      | apply State.bump_keeps | apply State.live_keeps | apply State.putSym_keeps | apply State.raise_keeps)
    | (intro _ _ _; try dsimp only) | (intro _ _; try dsimp only) | (intro _; try dsimp only)
    | (apply Keeps.mk; dsimp only; with_reducible refine Keeps.upd ?_) | split | dsimp only

theorem execFeedbackRecord_keeps {c : Ctx} {word t : Nat} {s : State} {fin : State} (h : execFeedbackRecord c word t s = .next fin) : Keeps False False True False False True False False True False True False False False False False False False s fin := by
  have h_s : Keeps False False True False False True False False True False True False False False False False False False s s := Keeps.refl s
  unfold execFeedbackRecord at h
  obtain rfl := Host.Outcome.next.inj h
  try dsimp only
  repeat' first
    | (with_reducible first
      | assumption | apply ite_keeps | apply ite_keeps2 | apply ite_keeps1 | apply State.advance_keeps
      | apply State.faultCtx_keeps | apply State.live_keeps)
    | (intro _ _ _; try dsimp only) | (intro _ _; try dsimp only) | (intro _; try dsimp only)
    | (apply Keeps.mk; dsimp only; with_reducible refine Keeps.upd ?_) | split | dsimp only

theorem State.feed_keeps {root : State} {s : State} {x : Feedback} (h_s : Keeps q1 q2 True q4 q5 q6 q7 q8 q9 q10 True q12 q13 q14 q15 q16 q17 q18 root s) : Keeps q1 q2 True q4 q5 q6 q7 q8 q9 q10 True q12 q13 q14 q15 q16 q17 q18 root (State.feed s x) := by
  unfold State.feed
  try dsimp only
  repeat' first
    | (with_reducible first
      | assumption | apply ite_keeps | apply ite_keeps2 | apply ite_keeps1 | apply State.modRu_keeps
      | apply State.raise_keeps | apply State.record_keeps)
    | (intro _ _ _; try dsimp only) | (intro _ _; try dsimp only) | (intro _; try dsimp only)
    | (apply Keeps.mk; dsimp only; with_reducible refine Keeps.upd ?_) | split | dsimp only

theorem execNcoUpdate_keeps {t : Nat} {s : State} {fin : State} (h : execNcoUpdate t s = .next fin) : Keeps False False True False False True False False True False True False False False False False False False s fin := by
  have h_s : Keeps False False True False False True False False True False True False False False False False False False s s := Keeps.refl s
  unfold execNcoUpdate at h
  obtain rfl := Host.Outcome.next.inj h
  try dsimp only
  repeat' first
    | (with_reducible first
      | assumption | apply State.advance_keeps | apply State.feed_keeps | apply State.live_keeps | apply foldl_keeps)
    | (intro _ _ _; try dsimp only) | (intro _ _; try dsimp only) | (intro _; try dsimp only)
    | (apply Keeps.mk; dsimp only; with_reducible refine Keeps.upd ?_) | dsimp only

theorem execTrnUnquar_keeps {v : View} {x : Word} {t : Nat} {s : State} {fin : State} (h : execTrnUnquar v x t s = .next fin) : Keeps False False True False False True False False True False True False False False False False False False s fin := by
  have h_s : Keeps False False True False False True False False True False True False False False False False False False s s := Keeps.refl s
  unfold execTrnUnquar at h
  obtain rfl := Host.Outcome.next.inj h
  try dsimp only
  repeat' first
    | (with_reducible first
      | assumption | apply ite_keeps | apply ite_keeps2 | apply ite_keeps1 | apply State.advance_keeps
      | apply State.commanded_keeps | apply State.live_keeps | apply State.modFlow_keeps)
    | (intro _ _ _; try dsimp only) | (intro _ _; try dsimp only) | (intro _; try dsimp only)
    | (apply Keeps.mk; dsimp only; with_reducible refine Keeps.upd ?_) | split | dsimp only

theorem execTrnRuQ_keeps {v : View} {x : Word} {s : State} {fin : State} (h : execTrnRuQ v x s = .next fin) : Keeps False False True False False False False False False False True False False False False False False False s fin := by
  have h_s : Keeps False False True False False False False False False False True False False False False False False False s s := Keeps.refl s
  unfold execTrnRuQ at h
  obtain rfl := Host.Outcome.next.inj h
  try dsimp only
  repeat' first
    | (with_reducible first
      | assumption | apply State.commanded_keeps | apply State.live_keeps)
    | (intro _ _ _; try dsimp only) | (intro _ _; try dsimp only) | (intro _; try dsimp only)
    | (apply Keeps.mk; dsimp only; with_reducible refine Keeps.upd ?_) | dsimp only

theorem State.dlTake_keeps {root : State} : ∀ (y0 : List Nat) {s : State} {g : Nat}  (h_s : Keeps q1 q2 True q4 q5 q6 q7 q8 q9 q10 True q12 q13 q14 q15 q16 q17 q18 root s), Keeps q1 q2 True q4 q5 q6 q7 q8 q9 q10 True q12 q13 q14 q15 q16 q17 q18 root (State.dlTake s g y0) := by
  intro y0
  induction y0 with
  | nil =>
    intros
    unfold State.dlTake
    repeat' first
      | with_reducible apply ih
      | (with_reducible first
        | assumption | apply ite_keeps | apply ite_keeps2 | apply ite_keeps1 | apply State.dlBegin_keeps
        | apply State.dlSend_keeps | apply State.putDl_keeps | apply foldl_keeps)
      | (intro _ _ _; try dsimp only) | (intro _ _; try dsimp only) | (intro _; try dsimp only)
      | (apply Keeps.mk; dsimp only; with_reducible refine Keeps.upd ?_) | split | dsimp only
  
  | cons hd tl ih =>
    intros
    unfold State.dlTake
    try dsimp only
    repeat' first
      | with_reducible apply ih
      | (with_reducible first
        | assumption | apply ite_keeps | apply ite_keeps2 | apply ite_keeps1 | apply State.dlBegin_keeps
        | apply State.dlSend_keeps | apply State.putDl_keeps | apply foldl_keeps)
      | (intro _ _ _; try dsimp only) | (intro _ _; try dsimp only) | (intro _; try dsimp only)
      | (apply Keeps.mk; dsimp only; with_reducible refine Keeps.upd ?_) | split | dsimp only
  
theorem execDlTileReceive_keeps {grid : Fin 32} {rows : List Nat} {t : Nat} {s : State} {fin : State} (h : execDlTileReceive grid rows t s = .next fin) : Keeps False False True False False True False False True False True False False False False False False False s fin := by
  have h_s : Keeps False False True False False True False False True False True False False False False False False False s s := Keeps.refl s
  unfold execDlTileReceive at h
  obtain rfl := Host.Outcome.next.inj h
  try dsimp only
  repeat' first
    | (with_reducible first
      | assumption | apply ite_keeps | apply ite_keeps2 | apply ite_keeps1 | apply State.advance_keeps
      | apply State.dlTake_keeps | apply State.live_keeps)
    | (intro _ _ _; try dsimp only) | (intro _ _; try dsimp only) | (intro _; try dsimp only) | split | dsimp only

theorem execTxWindowOpen_keeps {ru : Fin 48} {grid : Fin 32} {slot : Int} {sym : Fin 14} {level t : Nat} {s : State} {fin : State} (h : execTxWindowOpen ru grid slot sym level t s = .next fin) : Keeps False False True False False True False False True False True True False False False False False False s fin := by
  have h_s : Keeps False False True False False True False False True False True True False False False False False False s s := Keeps.refl s
  unfold execTxWindowOpen at h
  obtain rfl := Host.Outcome.next.inj h
  try dsimp only
  repeat' first
    | (with_reducible first
      | assumption | apply ite_keeps | apply ite_keeps2 | apply ite_keeps1 | apply State.advance_keeps
      | apply State.dlBegin_keeps | apply State.dlSend_keeps | apply State.live_keeps | apply State.putDl_keeps
      | apply State.setLevel_keeps)
    | (intro _ _ _; try dsimp only) | (intro _ _; try dsimp only) | (intro _; try dsimp only)
    | (apply Keeps.mk; dsimp only; with_reducible refine Keeps.upd ?_) | split | dsimp only

theorem execTxLate_keeps {ru : Fin 48} {grid : Fin 32} {slot : Int} {sym : Fin 14} {t : Nat} {s : State} {fin : State} (h : execTxLate ru grid slot sym t s = .next fin) : Keeps False False True False False True False False True False True False False False False False False False s fin := by
  have h_s : Keeps False False True False False True False False True False True False False False False False False False s s := Keeps.refl s
  unfold execTxLate at h
  obtain rfl := Host.Outcome.next.inj h
  try dsimp only
  repeat' first
    | (with_reducible first
      | assumption | apply ite_keeps | apply ite_keeps2 | apply ite_keeps1 | apply State.advance_keeps
      | apply State.dlBegin_keeps | apply State.live_keeps | apply State.putDl_keeps | apply State.txLate_keeps)
    | (intro _ _ _; try dsimp only) | (intro _ _; try dsimp only) | (intro _; try dsimp only)
    | (apply Keeps.mk; dsimp only; with_reducible refine Keeps.upd ?_) | split | dsimp only

theorem State.portLock_keeps {root : State} {s : State} {p : Nat} (h_s : Keeps q1 q2 True q4 q5 True q7 q8 q9 q10 q11 q12 q13 q14 q15 q16 q17 q18 root s) : Keeps q1 q2 True q4 q5 True q7 q8 q9 q10 q11 q12 q13 q14 q15 q16 q17 q18 root (State.portLock s p) := by
  unfold State.portLock
  try dsimp only
  repeat' first
    | (with_reducible first
      | assumption | apply ite_keeps | apply State.laneLock_keeps | apply foldl_keeps)
    | (intro _ _ _; try dsimp only) | (intro _ _; try dsimp only) | (intro _; try dsimp only) | split | dsimp only

theorem execLinkChange_keeps {port : Fin 16} {up : Bool} {s : State} {fin : State} (h : execLinkChange port up s = .next fin) : Keeps False False True False False True False False False False True False False False False False False False s fin := by
  have h_s : Keeps False False True False False True False False False False True False False False False False False False s s := Keeps.refl s
  unfold execLinkChange at h
  obtain rfl := Host.Outcome.next.inj h
  try dsimp only
  repeat' first
    | (with_reducible first
      | assumption | apply ite_keeps | apply ite_keeps2 | apply ite_keeps1 | apply State.live_keeps
      | apply State.portLock_keeps | apply State.setCal_keeps | apply State.setPort_keeps)
    | (intro _ _ _; try dsimp only) | (intro _ _; try dsimp only) | (intro _; try dsimp only) | split | dsimp only

theorem execPortRetrainDone_keeps {port : Fin 16} {s : State} {fin : State} (h : execPortRetrainDone port s = .next fin) : Keeps False False True False False True False False False False True False False False False False False False s fin := by
  have h_s : Keeps False False True False False True False False False False True False False False False False False False s s := Keeps.refl s
  unfold execPortRetrainDone at h
  obtain rfl := Host.Outcome.next.inj h
  try dsimp only
  repeat' first
    | (with_reducible first
      | assumption | apply ite_keeps | apply ite_keeps2 | apply ite_keeps1 | apply State.live_keeps
      | apply State.portLock_keeps | apply State.setCal_keeps | apply State.setPort_keeps)
    | (intro _ _ _; try dsimp only) | (intro _ _; try dsimp only) | (intro _; try dsimp only)
    | (apply Keeps.mk; dsimp only; with_reducible refine Keeps.upd ?_) | split | dsimp only

theorem State.lanesApplied_keeps {root : State} {s : State} {old : SMap Word} (h_s : Keeps q1 q2 True q4 q5 True q7 q8 q9 q10 True q12 q13 q14 q15 q16 q17 q18 root s) : Keeps q1 q2 True q4 q5 True q7 q8 q9 q10 True q12 q13 q14 q15 q16 q17 q18 root (State.lanesApplied s old) := by
  unfold State.lanesApplied
  try dsimp only
  repeat' first
    | (with_reducible first
      | assumption | apply ite_keeps | apply ite_keeps2 | apply ite_keeps1 | apply State.setCal_keeps
      | apply State.setPort_keeps | apply foldl_keeps)
    | (intro _ _ _; try dsimp only) | (intro _ _; try dsimp only) | (intro _; try dsimp only)
    | (apply Keeps.mk; dsimp only; with_reducible refine Keeps.upd ?_) | split | dsimp only

end Sys2Proof.Machine
end

