-- ==== Sys2Proof/Laws/KeepsRegisters.lean ====
section
/-!
SUPPORT. What the definitions of Machine/Registers.lean keep, each by the definitions it is made of.
-/

namespace Sys2Proof.Machine

open Sys2Proof

set_option Elab.async false

set_option linter.unusedVariables false
set_option linter.unreachableTactic false
set_option linter.unusedTactic false



variable {q1 q2 q3 q4 q5 q6 q7 q8 q9 q10 q11 q12 q13 q14 q15 q16 q17 q18 : Prop}

theorem State.onPage_keeps {root : State} {s : State} {v : View} {no off : Nat} {f : Page → State → State} (h_s : Keeps q1 q2 True q4 q5 q6 q7 q8 q9 q10 q11 q12 q13 q14 q15 q16 q17 q18 root s) (h_f : ∀ (x0 : Page) (x1 : State), Keeps q1 q2 True q4 q5 q6 q7 q8 q9 q10 q11 q12 q13 q14 q15 q16 q17 q18 root x1 → Keeps q1 q2 True q4 q5 q6 q7 q8 q9 q10 q11 q12 q13 q14 q15 q16 q17 q18 root (f x0 x1)) : Keeps q1 q2 True q4 q5 q6 q7 q8 q9 q10 q11 q12 q13 q14 q15 q16 q17 q18 root (State.onPage s v no off f) := by
  unfold State.onPage
  try dsimp only
  repeat' first
    | (with_reducible first
      | assumption | apply ite_keeps | apply h_f | apply State.badAccess_keeps | apply State.dropped_keeps
      | apply State.written_keeps)
    | (intro _ _ _; try dsimp only) | (intro _ _; try dsimp only) | (intro _; try dsimp only)
    | (apply Keeps.mk; dsimp only; with_reducible refine Keeps.upd ?_) | split | dsimp only

theorem execStagedWrite_keeps {v : View} {off : Nat} {x : Word} {s : State} {fin : State} (h : execStagedWrite v off x s = .next fin) : Keeps False False True True False False False False False False False False False False False False False False s fin := by
  have h_s : Keeps False False True True False False False False False False False False False False False False False False s s := Keeps.refl s
  unfold execStagedWrite at h
  obtain rfl := Host.Outcome.next.inj h
  try dsimp only
  repeat' first
    | (with_reducible first
      | assumption | apply ite_keeps | apply ite_keeps2 | apply ite_keeps1 | apply State.dropped_keeps
      | apply State.live_keeps | apply State.modChan_keeps | apply State.onPage_keeps)
    | (intro _ _ _; try dsimp only) | (intro _ _; try dsimp only) | (intro _; try dsimp only)
    | (apply Keeps.mk; dsimp only; with_reducible refine Keeps.upd ?_) | split | dsimp only

theorem execRevert_keeps {v : View} {page : Nat} {s : State} {fin : State} (h : execRevert v page s = .next fin) : Keeps False False True True False False False False False False False False False False False False False False s fin := by
  have h_s : Keeps False False True True False False False False False False False False False False False False False False s s := Keeps.refl s
  unfold execRevert at h
  obtain rfl := Host.Outcome.next.inj h
  try dsimp only
  repeat' first
    | (with_reducible first
      | assumption | apply State.live_keeps | apply State.modChan_keeps | apply State.onPage_keeps)
    | (intro _ _ _; try dsimp only) | (intro _ _; try dsimp only) | (intro _; try dsimp only)
    | (apply Keeps.mk; dsimp only; with_reducible refine Keeps.upd ?_) | dsimp only

theorem State.snapPage_keeps {root : State} {s : State} {v : View} {p : Page} (h_s : Keeps q1 q2 True q4 q5 q6 q7 q8 q9 q10 q11 q12 q13 q14 q15 True q17 q18 root s) : Keeps q1 q2 True q4 q5 q6 q7 q8 q9 q10 q11 q12 q13 q14 q15 True q17 q18 root (State.snapPage s v p) := by
  unfold State.snapPage
  try dsimp only
  repeat' first
    | (with_reducible first
      | assumption | apply foldl_keeps | apply foldl_keeps2 | apply foldl_keeps1 | apply foldl_keeps22)
    | (intro _ _ _; try dsimp only) | (intro _ _; try dsimp only) | (intro _; try dsimp only)
    | (apply Keeps.mk; dsimp only; with_reducible refine Keeps.upd ?_) | split | dsimp only

theorem execSnapLatch_keeps {v : View} {page : Nat} {s : State} {fin : State} (h : execSnapLatch v page s = .next fin) : Keeps False False True False False False False False False False False False False False False True False False s fin := by
  have h_s : Keeps False False True False False False False False False False False False False False False True False False s s := Keeps.refl s
  unfold execSnapLatch at h
  obtain rfl := Host.Outcome.next.inj h
  try dsimp only
  repeat' first
    | (with_reducible first
      | assumption | apply State.live_keeps | apply State.onPage_keeps | apply State.snapPage_keeps)
    | (intro _ _ _; try dsimp only) | (intro _ _; try dsimp only) | (intro _; try dsimp only) | dsimp only

theorem State.clearCounters_keeps {root : State} {s : State} {p : Page} (h_s : Keeps q1 q2 True q4 q5 q6 q7 q8 q9 q10 q11 q12 q13 q14 q15 q16 q17 q18 root s) : Keeps q1 q2 True q4 q5 q6 q7 q8 q9 q10 q11 q12 q13 q14 q15 q16 q17 q18 root (State.clearCounters s p) := by
  unfold State.clearCounters
  try dsimp only
  repeat' first
    | (with_reducible first
      | assumption)
    | (intro _ _ _; try dsimp only) | (intro _ _; try dsimp only) | (intro _; try dsimp only)
    | (apply Keeps.mk; dsimp only; with_reducible refine Keeps.upd ?_) | dsimp only

theorem execSnapClear_keeps {v : View} {page : Nat} {s : State} {fin : State} (h : execSnapClear v page s = .next fin) : Keeps False False True False False False False False False False False False False False False True False False s fin := by
  have h_s : Keeps False False True False False False False False False False False False False False False True False False s s := Keeps.refl s
  unfold execSnapClear at h
  obtain rfl := Host.Outcome.next.inj h
  try dsimp only
  repeat' first
    | (with_reducible first
      | assumption | apply ite_keeps | apply State.clearCounters_keeps | apply State.dropped_keeps | apply State.live_keeps
      | apply State.onPage_keeps | apply State.snapPage_keeps)
    | (intro _ _ _; try dsimp only) | (intro _ _; try dsimp only) | (intro _; try dsimp only) | split | dsimp only

theorem State.resend_keeps {root : State} {s : State} {v : View} {p : Page} (h_s : Keeps q1 q2 True q4 q5 q6 q7 q8 q9 q10 q11 q12 q13 q14 q15 q16 q17 q18 root s) : Keeps q1 q2 True q4 q5 q6 q7 q8 q9 q10 q11 q12 q13 q14 q15 q16 q17 q18 root (State.resend s v p) := by
  unfold State.resend
  try dsimp only
  repeat' first
    | (with_reducible first
      | assumption | apply ite_keeps)
    | (apply Keeps.mk; dsimp only; with_reducible refine Keeps.upd ?_) | split | dsimp only

theorem execEvtClearWrite_keeps {v : View} {page : Nat} {x : Word} {s : State} {fin : State} (h : execEvtClearWrite v page x s = .next fin) : Keeps False False True False False False False False False False False False False False False False False False s fin := by
  have h_s : Keeps False False True False False False False False False False False False False False False False False False s s := Keeps.refl s
  unfold execEvtClearWrite at h
  obtain rfl := Host.Outcome.next.inj h
  try dsimp only
  repeat' first
    | (with_reducible first
      | assumption | apply State.live_keeps | apply State.onPage_keeps | apply State.resend_keeps)
    | (intro _ _ _; try dsimp only) | (intro _ _; try dsimp only) | (intro _; try dsimp only)
    | (apply Keeps.mk; dsimp only; with_reducible refine Keeps.upd ?_) | dsimp only

theorem execEvtMaskWrite_keeps {v : View} {page : Nat} {x : Word} {s : State} {fin : State} (h : execEvtMaskWrite v page x s = .next fin) : Keeps False False True False False False False False False False False False False False False False False False s fin := by
  have h_s : Keeps False False True False False False False False False False False False False False False False False False s s := Keeps.refl s
  unfold execEvtMaskWrite at h
  obtain rfl := Host.Outcome.next.inj h
  try dsimp only
  repeat' first
    | (with_reducible first
      | assumption | apply State.live_keeps | apply State.onPage_keeps | apply State.resend_keeps)
    | (intro _ _ _; try dsimp only) | (intro _ _; try dsimp only) | (intro _; try dsimp only)
    | (apply Keeps.mk; dsimp only; with_reducible refine Keeps.upd ?_) | dsimp only

theorem execMsixUnmask_keeps {fn : Fin 9} {vector : Nat} {s : State} {fin : State} (h : execMsixUnmask fn vector s = .next fin) : Keeps False False True False False False False False False False False False False False False False False False s fin := by
  have h_s : Keeps False False True False False False False False False False False False False False False False False False s s := Keeps.refl s
  unfold execMsixUnmask at h
  obtain rfl := Host.Outcome.next.inj h
  try dsimp only
  repeat' first
    | (with_reducible first
      | assumption | apply ite_keeps | apply ite_keeps2 | apply ite_keeps1 | apply State.live_keeps)
    | (intro _ _ _; try dsimp only) | (intro _ _; try dsimp only) | (intro _; try dsimp only)
    | (apply Keeps.mk; dsimp only; with_reducible refine Keeps.upd ?_) | split | dsimp only

theorem State.onCmt_keeps {root : State} {s : State} {v : View} {f : State → State} (h_s : Keeps q1 q2 q3 q4 q5 q6 q7 q8 q9 q10 q11 q12 q13 q14 q15 q16 q17 q18 root s) (h_f : ∀ (x0 : State), Keeps q1 q2 q3 q4 q5 q6 q7 q8 q9 q10 q11 q12 q13 q14 q15 q16 q17 q18 root x0 → Keeps q1 q2 q3 q4 q5 q6 q7 q8 q9 q10 q11 q12 q13 q14 q15 q16 q17 q18 root (f x0)) : Keeps q1 q2 q3 q4 q5 q6 q7 q8 q9 q10 q11 q12 q13 q14 q15 q16 q17 q18 root (State.onCmt s v f) := by
  unfold State.onCmt
  try dsimp only
  repeat' first
    | (with_reducible first
      | assumption | apply h_f | apply State.written_keeps)
    | (intro _ _ _; try dsimp only) | (intro _ _; try dsimp only) | (intro _; try dsimp only) | dsimp only

theorem execSelectionAdd_keeps {v : View} {page : Nat} {s : State} {fin : State} (h : execSelectionAdd v page s = .next fin) : Keeps False False True True False False False False False False False False False False False False False False s fin := by
  have h_s : Keeps False False True True False False False False False False False False False False False False False False s s := Keeps.refl s
  unfold execSelectionAdd at h
  obtain rfl := Host.Outcome.next.inj h
  try dsimp only
  repeat' first
    | (with_reducible first
      | assumption | apply ite_keeps | apply State.dropped_keeps | apply State.live_keeps | apply State.modChan_keeps
      | apply State.onCmt_keeps)
    | (intro _ _ _; try dsimp only) | (intro _ _; try dsimp only) | (intro _; try dsimp only)
    | (apply Keeps.mk; dsimp only; with_reducible refine Keeps.upd ?_) | split | dsimp only

theorem execSelectionRemove_keeps {v : View} {page : Nat} {s : State} {fin : State} (h : execSelectionRemove v page s = .next fin) : Keeps False False False True False False False False False False False False False False False False False False s fin := by
  have h_s : Keeps False False False True False False False False False False False False False False False False False False s s := Keeps.refl s
  unfold execSelectionRemove at h
  obtain rfl := Host.Outcome.next.inj h
  try dsimp only
  repeat' first
    | (with_reducible first
      | assumption | apply State.live_keeps | apply State.modChan_keeps | apply State.onCmt_keeps)
    | (intro _ _ _; try dsimp only) | (intro _ _; try dsimp only) | (intro _; try dsimp only)
    | (apply Keeps.mk; dsimp only; with_reducible refine Keeps.upd ?_) | dsimp only

theorem execSelectionClear_keeps {v : View} {s : State} {fin : State} (h : execSelectionClear v s = .next fin) : Keeps False False False True False False False False False False False False False False False False False False s fin := by
  have h_s : Keeps False False False True False False False False False False False False False False False False False False s s := Keeps.refl s
  unfold execSelectionClear at h
  obtain rfl := Host.Outcome.next.inj h
  try dsimp only
  repeat' first
    | (with_reducible first
      | assumption | apply State.live_keeps | apply State.modChan_keeps | apply State.onCmt_keeps)
    | (intro _ _ _; try dsimp only) | (intro _ _; try dsimp only) | (intro _; try dsimp only)
    | (apply Keeps.mk; dsimp only; with_reducible refine Keeps.upd ?_) | dsimp only

theorem execSelectionQuery_keeps {v : View} {index : Nat} {s : State} {fin : State} (h : execSelectionQuery v index s = .next fin) : Keeps False False False True False False False False False False False False False False False False False False s fin := by
  have h_s : Keeps False False False True False False False False False False False False False False False False False False s s := Keeps.refl s
  unfold execSelectionQuery at h
  obtain rfl := Host.Outcome.next.inj h
  try dsimp only
  repeat' first
    | (with_reducible first
      | assumption | apply State.live_keeps | apply State.modChan_keeps | apply State.onCmt_keeps)
    | (intro _ _ _; try dsimp only) | (intro _ _; try dsimp only) | (intro _; try dsimp only)
    | (apply Keeps.mk; dsimp only; with_reducible refine Keeps.upd ?_) | dsimp only

theorem State.writeRw_keeps {root : State} {s : State} {v : View} {p : Page} {off : Nat} {fs : List Field} {x : Nat} (h_s : Keeps q1 q2 True True q5 q6 q7 q8 q9 q10 q11 q12 q13 q14 q15 q16 q17 q18 root s) : Keeps q1 q2 True True q5 q6 q7 q8 q9 q10 q11 q12 q13 q14 q15 q16 q17 q18 root (State.writeRw s v p off fs x) := by
  unfold State.writeRw
  try dsimp only
  repeat' first
    | (with_reducible first
      | assumption | apply ite_keeps | apply State.dropped_keeps)
    | (intro _ _ _; try dsimp only) | (intro _ _; try dsimp only) | (intro _; try dsimp only)
    | (apply Keeps.mk; dsimp only; with_reducible refine Keeps.upd ?_) | split | dsimp only

theorem State.writeBuf_keeps {root : State} {s : State} {v : View} {p : Page} {off : Nat} {x : Word} (h_s : Keeps q1 q2 True q4 q5 True q7 q8 True q10 q11 True q13 True q15 q16 True q18 root s) : Keeps q1 q2 True q4 q5 True q7 q8 True q10 q11 True q13 True q15 q16 True q18 root (State.writeBuf s v p off x) := by
  unfold State.writeBuf
  try dsimp only
  repeat' first
    | (with_reducible first
      | assumption | apply ite_keeps | apply ite_keeps2 | apply ite_keeps1 | apply State.dropped_keeps
      | apply State.raise_keeps)
    | (intro _ _ _; try dsimp only) | (intro _ _; try dsimp only) | (intro _; try dsimp only)
    | (apply Keeps.mk; dsimp only; with_reducible refine Keeps.upd ?_) | split | dsimp only

theorem execRegisterWrite_keeps {v : View} {off : Nat} {x : Word} {be : Nat} {s : State} {fin : State} (h : execRegisterWrite v off x be s = .next fin) : Keeps False False True True False True False False True False False True False True False False True False s fin := by
  have h_s : Keeps False False True True False True False False True False False True False True False False True False s s := Keeps.refl s
  unfold execRegisterWrite at h
  obtain rfl := Host.Outcome.next.inj h
  try dsimp only
  repeat' first
    | (with_reducible first
      | assumption | apply ite_keeps | apply ite_keeps2 | apply ite_keeps1 | apply State.badAccess_keeps
      | apply State.dropped_keeps | apply State.live_keeps | apply State.onPage_keeps | apply State.writeBuf_keeps
      | apply State.writeRw_keeps | apply State.written_keeps)
    | (intro _ _ _; try dsimp only) | (intro _ _; try dsimp only) | (intro _; try dsimp only)
    | (apply Keeps.mk; dsimp only; with_reducible refine Keeps.upd ?_) | split | dsimp only

end Sys2Proof.Machine
end

