-- ==== Sys2Proof/Laws/KeepsGateApply.lean ====
section
/-!
SUPPORT. What the definitions of Machine/GateApply.lean keep, each by the definitions it is made of.
-/

namespace Sys2Proof.Machine

open Sys2Proof

set_option Elab.async false

set_option linter.unusedVariables false
set_option linter.unreachableTactic false
set_option linter.unusedTactic false



variable {q1 q2 q3 q4 q5 q6 q7 q8 q9 q10 q11 q12 q13 q14 q15 q16 q17 q18 : Prop}

theorem State.applyWin_keeps {root : State} {s : State} {a : SMap Word} {n e : Nat} (h_s : Keeps True True True True True q6 True True True q10 q11 True q13 True q15 q16 q17 True root s) : Keeps True True True True True q6 True True True q10 q11 True q13 True q15 q16 q17 True root (State.applyWin s a n e) := by
  unfold State.applyWin
  try dsimp only
  repeat' first
    | (with_reducible first
      | assumption | apply ite_keeps | apply State.winEnter_keeps | apply State.winLeave_keeps)
    | split | dsimp only

theorem State.applyGraftSpare_keeps {root : State} {s : State} {n : Nat} (h_s : Keeps q1 q2 q3 q4 q5 q6 True q8 q9 q10 q11 q12 q13 q14 q15 q16 q17 q18 root s) : Keeps q1 q2 q3 q4 q5 q6 True q8 q9 q10 q11 q12 q13 q14 q15 q16 q17 q18 root (State.applyGraftSpare s n) := by
  unfold State.applyGraftSpare
  try dsimp only
  repeat' first
    | (with_reducible first
      | assumption | apply ite_keeps | apply State.graftSpare_keeps)
    | split | dsimp only

theorem State.applySpareMap_keeps {root : State} {s : State} {n : Nat} (h_s : Keeps q1 q2 q3 q4 q5 q6 True q8 q9 q10 q11 q12 q13 q14 q15 q16 q17 q18 root s) : Keeps q1 q2 q3 q4 q5 q6 True q8 q9 q10 q11 q12 q13 q14 q15 q16 q17 q18 root (State.applySpareMap s n) := by
  unfold State.applySpareMap
  try dsimp only
  repeat' first
    | (with_reducible first
      | assumption | apply State.modPlot_keeps)
    | (intro _ _ _; try dsimp only) | (intro _ _; try dsimp only) | (intro _; try dsimp only)
    | (apply Keeps.mk; dsimp only; with_reducible refine Keeps.upd ?_) | dsimp only

theorem State.applyLateStart_keeps {root : State} {s : State} {n : Fin 8} {b : Fin 17} (h_s : Keeps True True True q4 q5 q6 True True True q10 q11 q12 q13 q14 q15 q16 q17 True root s) : Keeps True True True q4 q5 q6 True True True q10 q11 q12 q13 q14 q15 q16 q17 True root (State.applyLateStart s n b) := by
  unfold State.applyLateStart
  try dsimp only
  repeat' first
    | (with_reducible first
      | assumption | apply ite_keeps | apply ite_keeps2 | apply ite_keeps1 | apply State.assertLine_keeps
      | apply State.faultCtx_keeps | apply State.plan_keeps | apply State.startSprout_keeps | apply foldl_keeps)
    | (intro _ _ _; try dsimp only) | (intro _ _; try dsimp only) | (intro _; try dsimp only)
    | (apply Keeps.mk; dsimp only; with_reducible refine Keeps.upd ?_) | split | dsimp only

theorem State.applyServe_keeps {root : State} {s : State} {a : SMap Word} (h_s : Keeps q1 q2 True q4 q5 q6 q7 q8 q9 q10 q11 q12 q13 q14 q15 q16 q17 q18 root s) : Keeps q1 q2 True q4 q5 q6 q7 q8 q9 q10 q11 q12 q13 q14 q15 q16 q17 q18 root (State.applyServe s a) := by
  unfold State.applyServe
  try dsimp only
  repeat' first
    | (with_reducible first
      | assumption | apply ite_keeps | apply State.raise_keeps)
    | split | dsimp only

theorem State.applySdl_keeps {root : State} {s : State} {a : SMap Word} (h_s : Keeps q1 q2 True True q5 True q7 q8 q9 q10 q11 q12 q13 q14 q15 q16 q17 q18 root s) : Keeps q1 q2 True True q5 True q7 q8 q9 q10 q11 q12 q13 q14 q15 q16 q17 q18 root (State.applySdl s a) := by
  unfold State.applySdl
  try dsimp only
  repeat' first
    | (with_reducible first
      | assumption | apply ite_keeps | apply ite_keeps2 | apply ite_keeps1 | apply State.gridStop_keeps
      | apply State.select_keeps)
    | (apply Keeps.mk; dsimp only; with_reducible refine Keeps.upd ?_) | split | dsimp only

theorem State.applyDom_keeps {root : State} {s : State} {d : Bool} {w : Nat} (h_s : Keeps q1 q2 True True q5 True q7 q8 q9 q10 q11 q12 q13 q14 q15 q16 q17 q18 root s) : Keeps q1 q2 True True q5 True q7 q8 q9 q10 q11 q12 q13 q14 q15 q16 q17 q18 root (State.applyDom s d w) := by
  unfold State.applyDom
  try dsimp only
  repeat' first
    | (with_reducible first
      | assumption | apply ite_keeps | apply State.sourceOff_keeps)
    | (apply Keeps.mk; dsimp only; (try simp only [Sundial.setServo_ref]); with_reducible refine Keeps.upd ?_) | split | dsimp only

theorem State.applyGrid_keeps {root : State} {s : State} {a : SMap Word} {g : Nat} (h_s : Keeps q1 q2 q3 q4 q5 q6 q7 q8 q9 q10 True q12 q13 q14 q15 q16 q17 q18 root s) : Keeps q1 q2 q3 q4 q5 q6 q7 q8 q9 q10 True q12 q13 q14 q15 q16 q17 q18 root (State.applyGrid s a g) := by
  unfold State.applyGrid
  try dsimp only
  repeat' first
    | (with_reducible first
      | assumption | apply ite_keeps)
    | (apply Keeps.mk; dsimp only; with_reducible refine Keeps.upd ?_) | split | dsimp only

theorem State.applyRuKey_keeps {root : State} {s : State} {a : SMap Word} {r : Nat} (h_s : Keeps q1 q2 q3 q4 q5 q6 q7 q8 q9 q10 True q12 q13 q14 q15 q16 q17 q18 root s) : Keeps q1 q2 q3 q4 q5 q6 q7 q8 q9 q10 True q12 q13 q14 q15 q16 q17 q18 root (State.applyRuKey s a r) := by
  unfold State.applyRuKey
  try dsimp only
  repeat' first
    | (with_reducible first
      | assumption | apply ite_keeps | apply ite_keeps2 | apply ite_keeps1 | apply State.modRu_keeps)
    | (intro _ _ _; try dsimp only) | (intro _ _; try dsimp only) | (intro _; try dsimp only)
    | (apply Keeps.mk; dsimp only; with_reducible refine Keeps.upd ?_) | split | dsimp only

theorem State.applyPsf_keeps {root : State} {s : State} {a : SMap Word} (h_s : Keeps q1 q2 True q4 q5 q6 q7 q8 q9 q10 True q12 True q14 q15 True q17 q18 root s) : Keeps q1 q2 True q4 q5 q6 q7 q8 q9 q10 True q12 True q14 q15 True q17 q18 root (State.applyPsf s a) := by
  unfold State.applyPsf
  try dsimp only
  repeat' first
    | (with_reducible first
      | assumption | apply ite_keeps | apply ite_keeps2 | apply ite_keeps1 | apply State.driveByp_keeps
      | apply State.portChange_keeps)
    | (intro _ _ _; try dsimp only) | (intro _ _; try dsimp only) | (intro _; try dsimp only)
    | (apply Keeps.mk; dsimp only; with_reducible refine Keeps.upd ?_) | split | dsimp only

theorem State.applyPart_keeps {root : State} {s : State} {a : SMap Word} {p : Nat} (h_s : Keeps q1 q2 q3 q4 q5 q6 q7 q8 q9 q10 q11 q12 q13 True q15 q16 q17 q18 root s) : Keeps q1 q2 q3 q4 q5 q6 q7 q8 q9 q10 q11 q12 q13 True q15 q16 q17 q18 root (State.applyPart s a p) := by
  unfold State.applyPart
  try dsimp only
  repeat' first
    | (with_reducible first
      | assumption | apply ite_keeps | apply ite_keeps2 | apply ite_keeps1)
    | (intro _ _ _; try dsimp only) | (intro _ _; try dsimp only) | (intro _; try dsimp only)
    | (apply Keeps.mk; dsimp only; with_reducible refine Keeps.upd ?_) | split | dsimp only

theorem State.enableCtx_keeps {root : State} {s : State} {c : Nat} (h_s : Keeps q1 q2 q3 q4 q5 q6 q7 q8 True q10 q11 q12 q13 q14 q15 q16 q17 q18 root s) : Keeps q1 q2 q3 q4 q5 q6 q7 q8 True q10 q11 q12 q13 q14 q15 q16 q17 q18 root (State.enableCtx s c) := by
  unfold State.enableCtx
  try dsimp only
  repeat' first
    | (with_reducible first
      | assumption | apply State.modCtx_keeps)
    | (intro _ _ _; try dsimp only) | (intro _ _; try dsimp only) | (intro _; try dsimp only)
    | (apply Keeps.mk; dsimp only; with_reducible refine Keeps.upd ?_) | dsimp only

theorem State.killRequests_keeps {root : State} {s : State} {k : Nat} (h_s : Keeps q1 q2 q3 q4 q5 q6 q7 q8 q9 q10 q11 True q13 q14 q15 q16 q17 q18 root s) : Keeps q1 q2 q3 q4 q5 q6 q7 q8 q9 q10 q11 True q13 q14 q15 q16 q17 q18 root (State.killRequests s k) := by
  unfold State.killRequests
  try dsimp only
  repeat' first
    | (with_reducible first
      | assumption | apply ite_keeps)
    | (intro _ _ _; try dsimp only) | (intro _ _; try dsimp only) | (intro _; try dsimp only)
    | (apply Keeps.mk; dsimp only; with_reducible refine Keeps.upd ?_) | split | dsimp only

theorem State.dropJobs_keeps {root : State} {s : State} {j : Nat} (h_s : Keeps q1 q2 q3 q4 q5 q6 q7 q8 q9 True q11 q12 q13 q14 q15 q16 q17 q18 root s) : Keeps q1 q2 q3 q4 q5 q6 q7 q8 q9 True q11 q12 q13 q14 q15 q16 q17 q18 root (State.dropJobs s j) := by
  unfold State.dropJobs
  try dsimp only
  repeat' first
    | (with_reducible first
      | assumption)
    | (apply Keeps.mk; dsimp only; with_reducible refine Keeps.upd ?_) | dsimp only

theorem State.disableCtx_keeps {root : State} {s : State} {k : Nat} (h_s : Keeps True True True True True q6 True True True True q11 True q13 True q15 q16 q17 True root s) : Keeps True True True True True q6 True True True True q11 True q13 True q15 q16 q17 True root (State.disableCtx s k) := by
  unfold State.disableCtx
  try dsimp only
  repeat' first
    | (with_reducible first
      | assumption | apply State.clearWindows_keeps | apply State.debugEnd_keeps | apply State.dropDeficits_keeps
      | apply State.dropJobs_keeps | apply State.dropWork_keeps | apply State.freeSlot_keeps | apply State.killRequests_keeps
      | apply State.modCtx_keeps | apply State.modFurrow_keeps | apply State.releaseSprouts_keeps | apply foldl_keeps
      | apply foldl_keeps2 | apply foldl_keeps1 | apply foldl_keeps22)
    | (intro _ _ _; try dsimp only) | (intro _ _; try dsimp only) | (intro _; try dsimp only)
    | (apply Keeps.mk; dsimp only; with_reducible refine Keeps.upd ?_) | dsimp only

theorem State.applyCtx_keeps {root : State} {s : State} {a : SMap Word} {c : Nat} (h_s : Keeps True True True True True q6 True True True True q11 True q13 True q15 q16 q17 True root s) : Keeps True True True True True q6 True True True True q11 True q13 True q15 q16 q17 True root (State.applyCtx s a c) := by
  unfold State.applyCtx
  try dsimp only
  repeat' first
    | (with_reducible first
      | assumption | apply ite_keeps | apply State.disableCtx_keeps | apply State.enableCtx_keeps
      | apply State.restagePace_keeps)
    | split | dsimp only

theorem State.applySel_keeps {root : State} {s : State} {a : SMap Word} {c : Nat} (h_s : Keeps q1 q2 True q4 q5 q6 q7 q8 True q10 q11 q12 q13 q14 q15 q16 q17 q18 root s) : Keeps q1 q2 True q4 q5 q6 q7 q8 True q10 q11 q12 q13 q14 q15 q16 q17 q18 root (State.applySel s a c) := by
  unfold State.applySel
  try dsimp only
  repeat' first
    | (with_reducible first
      | assumption | apply ite_keeps | apply State.bump_keeps | apply State.modCtx_keeps | apply State.raise_keeps)
    | (intro _ _ _; try dsimp only) | (intro _ _; try dsimp only) | (intro _; try dsimp only)
    | (apply Keeps.mk; dsimp only; with_reducible refine Keeps.upd ?_) | split | dsimp only

theorem State.applyWord_keeps {root : State} {s : State} {a : SMap Word} {key : Nat} (h_s : Keeps True True True True True True True True True True True True True True True True q17 True root s) : Keeps True True True True True True True True True True True True True True True True q17 True root (State.applyWord s a key) := by
  unfold State.applyWord
  try dsimp only
  repeat' first
    | (with_reducible first
      | assumption | apply ite_keeps | apply ite_keeps2 | apply ite_keeps1 | apply State.applyCtx_keeps
      | apply State.applyDom_keeps | apply State.applyGraftSpare_keeps | apply State.applyGrid_keeps
      | apply State.applyLateStart_keeps | apply State.applyPart_keeps | apply State.applyPps_keeps
      | apply State.applyPsf_keeps | apply State.applyRuKey_keeps | apply State.applySdl_keeps | apply State.applySel_keeps
      | apply State.applyServe_keeps | apply State.applySpareMap_keeps | apply State.applyWin_keeps
      | apply State.fcPins_keeps | apply State.remapStart_keeps | apply State.synceDrive_keeps | apply foldl_keeps)
    | (intro _ _ _; try dsimp only) | (intro _ _; try dsimp only) | (intro _; try dsimp only)
    | (apply Keeps.mk; dsimp only; with_reducible refine Keeps.upd ?_) | split | dsimp only

theorem State.applyEffects_keeps {root : State} {s : State} {a : SMap Word} {words : List (Nat × Word)} (h_s : Keeps True True True True True True True True True True True True True True True True q17 True root s) : Keeps True True True True True True True True True True True True True True True True q17 True root (State.applyEffects s a words) := by
  unfold State.applyEffects
  try dsimp only
  repeat' first
    | (with_reducible first
      | assumption | apply ite_keeps | apply ite_keeps2 | apply ite_keeps1 | apply State.applyWord_keeps
      | apply State.lanesApplied_keeps | apply State.nextZeroOrder_keeps | apply State.switchDoms_keeps | apply foldl_keeps
      | apply foldl_keeps2 | apply foldl_keeps1 | apply foldl_keeps22)
    | (intro _ _ _; try dsimp only) | (intro _ _; try dsimp only) | (intro _; try dsimp only) | split | dsimp only

end Sys2Proof.Machine
end

