-- ==== Sys2Proof/Laws/KeepsGate.lean ====
section
/-!
SUPPORT. What the definitions of Machine/Gate.lean keep, each by the definitions it is made of.
-/

namespace Sys2Proof.Machine

open Sys2Proof

set_option Elab.async false

set_option linter.unusedVariables false
set_option linter.unreachableTactic false
set_option linter.unusedTactic false



variable {q1 q2 q3 q4 q5 q6 q7 q8 q9 q10 q11 q12 q13 q14 q15 q16 q17 q18 : Prop}

theorem State.cmtCount_keeps {root : State} {s : State} {v : View} {off : Nat} (h_s : Keeps q1 q2 True q4 q5 q6 q7 q8 q9 q10 q11 q12 q13 q14 q15 q16 q17 q18 root s) : Keeps q1 q2 True q4 q5 q6 q7 q8 q9 q10 q11 q12 q13 q14 q15 q16 q17 q18 root (State.cmtCount s v off) := by
  unfold State.cmtCount
  try dsimp only
  repeat' first
    | (with_reducible first
      | assumption | apply ite_keeps | apply ite_keeps2 | apply ite_keeps1 | apply State.raiseIn_keeps)
    | (apply Keeps.mk; dsimp only; with_reducible refine Keeps.upd ?_) | split | dsimp only

theorem State.cmtNote_keeps {root : State} {s : State} {v : View} {off b : Nat} (h_s : Keeps q1 q2 True q4 q5 q6 q7 q8 q9 q10 q11 q12 q13 q14 q15 q16 q17 q18 root s) : Keeps q1 q2 True q4 q5 q6 q7 q8 q9 q10 q11 q12 q13 q14 q15 q16 q17 q18 root (State.cmtNote s v off b) := by
  unfold State.cmtNote
  try dsimp only
  repeat' first
    | (with_reducible first
      | assumption | apply State.cmtCount_keeps | apply State.raiseIn_keeps)
    | dsimp only

theorem State.withdraw_keeps {root : State} {s : State} {k : Nat} (h_s : Keeps q1 q2 q3 True q5 q6 q7 q8 q9 q10 q11 q12 q13 q14 q15 q16 q17 q18 root s) : Keeps q1 q2 q3 True q5 q6 q7 q8 q9 q10 q11 q12 q13 q14 q15 q16 q17 q18 root (State.withdraw s k) := by
  unfold State.withdraw
  try dsimp only
  repeat' first
    | (with_reducible first
      | assumption | apply State.modChan_keeps)
    | (apply Keeps.mk; dsimp only; with_reducible refine Keeps.upd ?_) | dsimp only

theorem State.retryRepair_keeps {root : State} {s : State} {c : Commit} (h_s : Keeps q1 q2 q3 q4 q5 q6 q7 True q9 q10 q11 q12 q13 q14 q15 q16 q17 q18 root s) : Keeps q1 q2 q3 q4 q5 q6 q7 True q9 q10 q11 q12 q13 q14 q15 q16 q17 q18 root (State.retryRepair s c) := by
  unfold State.retryRepair
  try dsimp only
  repeat' first
    | (with_reducible first
      | assumption | apply ite_keeps)
    | (apply Keeps.mk; dsimp only; with_reducible refine Keeps.upd ?_) | split | dsimp only

theorem State.rejectCommit_keeps {root : State} {s : State} {k : Nat} {c : Commit} {code page : Nat} (h_s : Keeps q1 q2 True True q5 q6 q7 True q9 q10 q11 q12 q13 q14 q15 q16 q17 q18 root s) : Keeps q1 q2 True True q5 q6 q7 True q9 q10 q11 q12 q13 q14 q15 q16 q17 q18 root (State.rejectCommit s k c code page) := by
  unfold State.rejectCommit
  try dsimp only
  repeat' first
    | (with_reducible first
      | assumption | apply State.cmtNote_keeps | apply State.modChan_keeps | apply State.retryRepair_keeps)
    | (intro _ _ _; try dsimp only) | (intro _ _; try dsimp only) | (intro _; try dsimp only)
    | (apply Keeps.mk; dsimp only; with_reducible refine Keeps.upd ?_) | dsimp only

theorem State.acceptCommit_keeps {root : State} {s : State} {k : Nat} {c : Commit} (h_s : Keeps q1 q2 True True q5 q6 q7 q8 q9 q10 q11 q12 q13 q14 q15 q16 q17 q18 root s) : Keeps q1 q2 True True q5 q6 q7 q8 q9 q10 q11 q12 q13 q14 q15 q16 q17 q18 root (State.acceptCommit s k c) := by
  unfold State.acceptCommit
  try dsimp only
  repeat' first
    | (with_reducible first
      | assumption | apply ite_keeps | apply ite_keeps2 | apply ite_keeps1 | apply State.bump_keeps
      | apply State.modChan_keeps | apply State.raise_keeps)
    | (intro _ _ _; try dsimp only) | (intro _ _; try dsimp only) | (intro _; try dsimp only)
    | (apply Keeps.mk; dsimp only; with_reducible refine Keeps.upd ?_) | split | dsimp only

theorem State.checksEnd_keeps {root : State} {s : State} {k : Nat} (h_s : Keeps q1 q2 True True q5 q6 q7 True q9 q10 q11 q12 q13 q14 q15 q16 q17 q18 root s) : Keeps q1 q2 True True q5 q6 q7 True q9 q10 q11 q12 q13 q14 q15 q16 q17 q18 root (State.checksEnd s k) := by
  unfold State.checksEnd
  try dsimp only
  repeat' first
    | (with_reducible first
      | assumption | apply State.acceptCommit_keeps | apply State.rejectCommit_keeps)
    | (intro _ _ _; try dsimp only) | (intro _ _; try dsimp only) | (intro _; try dsimp only)
    | (apply Keeps.mk; dsimp only; with_reducible refine Keeps.upd ?_) | split | dsimp only

theorem execChecksEnd_keeps {chan : Fin 12} {t : Nat} {s : State} {fin : State} (h : execChecksEnd chan t s = .next fin) : Keeps False False True True False True False True True False False False False False False False False False s fin := by
  have h_s : Keeps False False True True False True False True True False False False False False False False False False s s := Keeps.refl s
  unfold execChecksEnd at h
  obtain rfl := Host.Outcome.next.inj h
  try dsimp only
  repeat' first
    | (with_reducible first
      | assumption | apply ite_keeps | apply State.advance_keeps | apply State.checksEnd_keeps | apply State.live_keeps)
    | (intro _ _ _; try dsimp only) | (intro _ _; try dsimp only) | (intro _; try dsimp only) | split | dsimp only

theorem State.beginCommit_keeps {root : State} {s : State} {k : Nat} {pages : List Nat} {inst : Instant} {repair : Bool} (h_s : Keeps q1 q2 q3 True q5 q6 q7 q8 q9 q10 q11 q12 q13 q14 q15 q16 q17 q18 root s) : Keeps q1 q2 q3 True q5 q6 q7 q8 q9 q10 q11 q12 q13 q14 q15 q16 q17 q18 root (State.beginCommit s k pages inst repair) := by
  unfold State.beginCommit
  try dsimp only
  repeat' first
    | (with_reducible first
      | assumption | apply State.modChan_keeps)
    | (intro _ _ _; try dsimp only) | (intro _ _; try dsimp only) | (intro _; try dsimp only)
    | (apply Keeps.mk; dsimp only; with_reducible refine Keeps.upd ?_) | dsimp only

theorem execGo_keeps {v : View} {s : State} {fin : State} (h : execGo v s = .next fin) : Keeps False False True True False False False False False False False False False False False False False False s fin := by
  have h_s : Keeps False False True True False False False False False False False False False False False False False False s s := Keeps.refl s
  unfold execGo at h
  obtain rfl := Host.Outcome.next.inj h
  try dsimp only
  repeat' first
    | (with_reducible first
      | assumption | apply ite_keeps | apply State.beginCommit_keeps | apply State.cmtCount_keeps | apply State.dropped_keeps
      | apply State.live_keeps | apply State.written_keeps)
    | (intro _ _ _; try dsimp only) | (intro _ _; try dsimp only) | (intro _; try dsimp only) | split | dsimp only

theorem execAbort_keeps {v : View} {s : State} {fin : State} (h : execAbort v s = .next fin) : Keeps False False False True False False False True False False False False False False False False False False s fin := by
  have h_s : Keeps False False False True False False False True False False False False False False False False False False s s := Keeps.refl s
  unfold execAbort at h
  obtain rfl := Host.Outcome.next.inj h
  try dsimp only
  repeat' first
    | (with_reducible first
      | assumption | apply State.live_keeps | apply State.modChan_keeps | apply State.retryRepair_keeps
      | apply State.written_keeps)
    | (intro _ _ _; try dsimp only) | (intro _ _; try dsimp only) | (intro _; try dsimp only)
    | (apply Keeps.mk; dsimp only; with_reducible refine Keeps.upd ?_) | split | dsimp only

theorem State.fireHooks_keeps {root : State} {s : State} (h_s : Keeps q1 q2 q3 True q5 q6 q7 q8 q9 q10 q11 q12 q13 q14 q15 q16 q17 q18 root s) : Keeps q1 q2 q3 True q5 q6 q7 q8 q9 q10 q11 q12 q13 q14 q15 q16 q17 q18 root (State.fireHooks s) := by
  unfold State.fireHooks
  try dsimp only
  repeat' first
    | (with_reducible first
      | assumption | apply ite_keeps | apply ite_keeps2 | apply ite_keeps1)
    | (intro _ _ _; try dsimp only) | (intro _ _; try dsimp only) | (intro _; try dsimp only)
    | (apply Keeps.mk; dsimp only; with_reducible refine Keeps.upd ?_) | split | dsimp only

theorem execHookFire_keeps {t : Nat} {s : State} {fin : State} (h : execHookFire t s = .next fin) : Keeps False False True True False True False False True False False False False False False False False False s fin := by
  have h_s : Keeps False False True True False True False False True False False False False False False False False False s s := Keeps.refl s
  unfold execHookFire at h
  obtain rfl := Host.Outcome.next.inj h
  try dsimp only
  repeat' first
    | (with_reducible first
      | assumption | apply State.advance_keeps | apply State.fireHooks_keeps | apply State.live_keeps)
    | (intro _ _ _; try dsimp only) | (intro _ _; try dsimp only) | (intro _; try dsimp only) | dsimp only

theorem State.applyCommit_keeps {root : State} {s : State} {k : Nat} {c : Commit} {late re : Bool} (h_s : Keeps True True True True True True True True True True True True True True True True q17 True root s) : Keeps True True True True True True True True True True True True True True True True q17 True root (State.applyCommit s k c late re) := by
  unfold State.applyCommit
  try dsimp only
  repeat' first
    | (with_reducible first
      | assumption | apply ite_keeps | apply ite_keeps2 | apply ite_keeps1 | apply State.applyEffects_keeps
      | apply State.cmtNote_keeps | apply State.modChan_keeps)
    | (intro _ _ _; try dsimp only) | (intro _ _; try dsimp only) | (intro _; try dsimp only)
    | (apply Keeps.mk; dsimp only; with_reducible refine Keeps.upd ?_) | split | dsimp only

theorem State.recheck_keeps {root : State} {s : State} {k : Nat} {c : Commit} (h_s : Keeps True True True True True True True True True True True True True True True True q17 True root s) : Keeps True True True True True True True True True True True True True True True True q17 True root (State.recheck s k c) := by
  unfold State.recheck
  try dsimp only
  repeat' first
    | (with_reducible first
      | assumption | apply State.applyCommit_keeps | apply State.cmtNote_keeps | apply State.modChan_keeps
      | apply State.noteApply_keeps | apply State.retryRepair_keeps)
    | (intro _ _ _; try dsimp only) | (intro _ _; try dsimp only) | (intro _; try dsimp only)
    | (apply Keeps.mk; dsimp only; with_reducible refine Keeps.upd ?_) | split | dsimp only

theorem State.applyDue_keeps {root : State} {s : State} {p : Commit → Bool} (h_s : Keeps True True True True True True True True True True True True True True True True q17 True root s) : Keeps True True True True True True True True True True True True True True True True q17 True root (State.applyDue s p) := by
  unfold State.applyDue
  try dsimp only
  repeat' first
    | (with_reducible first
      | assumption | apply State.applyCommit_keeps | apply State.noteApply_keeps | apply State.recheck_keeps
      | apply foldl_keeps | apply foldl_keeps2 | apply foldl_keeps1 | apply foldl_keeps22)
    | (intro _ _ _; try dsimp only) | (intro _ _; try dsimp only) | (intro _; try dsimp only) | dsimp only

theorem execCommitApply_keeps {t : Nat} {s : State} {fin : State} (h : execCommitApply t s = .next fin) : Keeps True True True True True True True True True True True True True True True True False True s fin := by
  have h_s : Keeps True True True True True True True True True True True True True True True True False True s s := Keeps.refl s
  unfold execCommitApply at h
  obtain rfl := Host.Outcome.next.inj h
  try dsimp only
  repeat' first
    | (with_reducible first
      | assumption | apply State.advance_keeps | apply State.applyDue_keeps | apply State.live_keeps)
    | (intro _ _ _; try dsimp only) | (intro _ _; try dsimp only) | (intro _; try dsimp only) | dsimp only

end Sys2Proof.Machine
end

