-- ==== Sys2Proof/Laws/KeepsFaults.lean ====
section
/-!
SUPPORT. What the definitions of Machine/Faults.lean keep, each by the definitions it is made of.
-/

namespace Sys2Proof.Machine

open Sys2Proof

set_option Elab.async false

set_option linter.unusedVariables false
set_option linter.unreachableTactic false
set_option linter.unusedTactic false



variable {q1 q2 q3 q4 q5 q6 q7 q8 q9 q10 q11 q12 q13 q14 q15 q16 q17 q18 : Prop}

theorem State.fltLog_keeps {root : State} {s : State} {r : FltRec} (h_s : Keeps True True True q4 q5 q6 q7 True True q10 q11 q12 q13 q14 True q16 True q18 root s) : Keeps True True True q4 q5 q6 q7 True True q10 q11 q12 q13 q14 True q16 True q18 root (State.fltLog s r) := by
  unfold State.fltLog
  try dsimp only
  repeat' first
    | (with_reducible first
      | assumption | apply ite_keeps | apply ite_keeps2 | apply ite_keeps1 | apply State.dramWrite_keeps
      | apply State.platform_keeps | apply State.record_keeps | apply State.written_keeps)
    | (apply Keeps.mk; dsimp only; with_reducible refine Keeps.upd ?_) | split | dsimp only

theorem State.spareOut_keeps {root : State} {s : State} (h_s : Keeps q1 q2 True q4 q5 q6 q7 True q9 q10 q11 q12 q13 q14 q15 q16 q17 q18 root s) : Keeps q1 q2 True q4 q5 q6 q7 True q9 q10 q11 q12 q13 q14 q15 q16 q17 q18 root (State.spareOut s) := by
  unfold State.spareOut
  try dsimp only
  repeat' first
    | (with_reducible first
      | assumption | apply State.raise_keeps)
    | (apply Keeps.mk; dsimp only; with_reducible refine Keeps.upd ?_) | dsimp only

theorem State.loseSpare_keeps {root : State} {s : State} {cls plot index : Nat} (h_s : Keeps q1 q2 True q4 q5 q6 q7 True q9 q10 q11 q12 q13 q14 q15 q16 q17 q18 root s) : Keeps q1 q2 True q4 q5 q6 q7 True q9 q10 q11 q12 q13 q14 q15 q16 q17 q18 root (State.loseSpare s cls plot index) := by
  unfold State.loseSpare
  try dsimp only
  repeat' first
    | (with_reducible first
      | assumption | apply State.modUnit_keeps | apply State.spareOut_keeps)
    | (intro _ _ _; try dsimp only) | (intro _ _; try dsimp only) | (intro _; try dsimp only)
    | (apply Keeps.mk; dsimp only; with_reducible refine Keeps.upd ?_) | dsimp only

theorem State.enqueue_keeps {root : State} {s : State} {r : Repair} (h_s : Keeps q1 q2 q3 q4 q5 q6 q7 True q9 q10 q11 q12 q13 q14 q15 q16 q17 q18 root s) : Keeps q1 q2 q3 q4 q5 q6 q7 True q9 q10 q11 q12 q13 q14 q15 q16 q17 q18 root (State.enqueue s r) := by
  unfold State.enqueue
  try dsimp only
  repeat' first
    | (with_reducible first
      | assumption | apply ite_keeps)
    | (intro _ _ _; try dsimp only) | (intro _ _; try dsimp only) | (intro _; try dsimp only)
    | (apply Keeps.mk; dsimp only; with_reducible refine Keeps.upd ?_) | split | dsimp only

theorem State.prunePlan_keeps {root : State} {s : State} {n kind : Nat} (h_s : Keeps q1 q2 q3 q4 q5 q6 q7 True q9 q10 q11 q12 q13 q14 q15 q16 q17 q18 root s) : Keeps q1 q2 q3 q4 q5 q6 q7 True q9 q10 q11 q12 q13 q14 q15 q16 q17 q18 root (State.prunePlan s n kind) := by
  unfold State.prunePlan
  try dsimp only
  repeat' first
    | (with_reducible first
      | assumption | apply ite_keeps | apply State.enqueue_keeps)
    | split | dsimp only

theorem State.judged_keeps {root : State} {s : State} {r : FltRec} (h_s : Keeps True True True q4 q5 q6 q7 True True q10 q11 q12 q13 q14 True q16 True q18 root s) : Keeps True True True q4 q5 q6 q7 True True q10 q11 q12 q13 q14 True q16 True q18 root (State.judged s r) := by
  unfold State.judged
  try dsimp only
  repeat' first
    | (with_reducible first
      | assumption | apply State.bump_keeps | apply State.fltLog_keeps | apply State.modUnit_keeps | apply State.raise_keeps)
    | (intro _ _ _; try dsimp only) | (intro _ _; try dsimp only) | (intro _; try dsimp only)
    | (apply Keeps.mk; dsimp only; with_reducible refine Keeps.upd ?_) | dsimp only

theorem State.planBed_keeps {root : State} {s : State} {n b kind : Nat} (h_s : Keeps q1 q2 True q4 q5 q6 q7 True q9 q10 q11 q12 q13 q14 q15 q16 q17 q18 root s) : Keeps q1 q2 True q4 q5 q6 q7 True q9 q10 q11 q12 q13 q14 q15 q16 q17 q18 root (State.planBed s n b kind) := by
  unfold State.planBed
  try dsimp only
  repeat' first
    | (with_reducible first
      | assumption | apply ite_keeps | apply State.enqueue_keeps | apply State.loseSpare_keeps | apply State.prunePlan_keeps)
    | split | dsimp only

theorem State.planBtp_keeps {root : State} {s : State} {n : Nat} (h_s : Keeps q1 q2 True q4 q5 q6 q7 True q9 q10 q11 q12 q13 q14 q15 q16 q17 q18 root s) : Keeps q1 q2 True q4 q5 q6 q7 True q9 q10 q11 q12 q13 q14 q15 q16 q17 q18 root (State.planBtp s n) := by
  unfold State.planBtp
  try dsimp only
  repeat' first
    | (with_reducible first
      | assumption | apply ite_keeps | apply ite_keeps2 | apply ite_keeps1 | apply State.enqueue_keeps
      | apply State.loseSpare_keeps | apply State.prunePlan_keeps)
    | (apply Keeps.mk; dsimp only; with_reducible refine Keeps.upd ?_) | split | dsimp only

theorem State.plan_keeps {root : State} {s : State} {r : FltRec} {column : Option Nat} (h_s : Keeps q1 q2 True q4 q5 q6 q7 True q9 q10 q11 q12 q13 q14 q15 q16 q17 q18 root s) : Keeps q1 q2 True q4 q5 q6 q7 True q9 q10 q11 q12 q13 q14 q15 q16 q17 q18 root (State.plan s r column) := by
  unfold State.plan
  try dsimp only
  repeat' first
    | (with_reducible first
      | assumption | apply ite_keeps | apply State.enqueue_keeps | apply State.loseSpare_keeps | apply State.planBed_keeps
      | apply State.planBtp_keeps | apply State.prunePlan_keeps | apply State.spareOut_keeps)
    | (intro _ _ _; try dsimp only) | (intro _ _; try dsimp only) | (intro _; try dsimp only)
    | (apply Keeps.mk; dsimp only; with_reducible refine Keeps.upd ?_) | split | dsimp only

theorem State.derate_keeps {root : State} {s : State} {r : Repair} (h_s : Keeps q1 q2 True q4 q5 True q7 True q9 q10 True q12 True q14 q15 q16 True q18 root s) : Keeps q1 q2 True q4 q5 True q7 True q9 q10 True q12 True q14 q15 q16 True q18 root (State.derate s r) := by
  unfold State.derate
  try dsimp only
  repeat' first
    | (with_reducible first
      | assumption | apply ite_keeps | apply ite_keeps2 | apply ite_keeps1 | apply State.modPort_keeps
      | apply State.platform_keeps | apply State.prunePlan_keeps | apply State.raise_keeps | apply State.retrain_keeps
      | apply State.setCal_keeps | apply State.setPort_keeps | apply State.spareOut_keeps | apply foldl_keeps)
    | (intro _ _ _; try dsimp only) | (intro _ _; try dsimp only) | (intro _; try dsimp only)
    | (apply Keeps.mk; dsimp only; with_reducible refine Keeps.upd ?_) | split | dsimp only

theorem State.stageRepair_keeps {root : State} : ∀ (y0 : Nat) {s : State}  (h_s : Keeps True True True True q5 True q7 True True q10 True q12 True q14 True q16 True q18 root s), Keeps True True True True q5 True q7 True True q10 True q12 True q14 True q16 True q18 root (State.stageRepair s y0) := by
  intro y0
  induction y0 with
  | zero =>
    intros
    unfold State.stageRepair
    repeat' first
      | with_reducible apply ih
      | (with_reducible first
        | assumption | apply ite_keeps | apply ite_keeps2 | apply ite_keeps1 | apply State.beginCommit_keeps
        | apply State.cmtCount_keeps | apply State.derate_keeps | apply State.fltLog_keeps | apply State.modChan_keeps
        | apply foldl_keeps | apply foldl_keeps2 | apply foldl_keeps1 | apply foldl_keeps22)
      | (intro _ _ _; try dsimp only) | (intro _ _; try dsimp only) | (intro _; try dsimp only)
      | (apply Keeps.mk; dsimp only; with_reducible refine Keeps.upd ?_) | split | dsimp only
  
  | succ m ih =>
    intros
    unfold State.stageRepair
    try dsimp only
    repeat' first
      | with_reducible apply ih
      | (with_reducible first
        | assumption | apply ite_keeps | apply ite_keeps2 | apply ite_keeps1 | apply State.beginCommit_keeps
        | apply State.cmtCount_keeps | apply State.derate_keeps | apply State.fltLog_keeps | apply State.modChan_keeps
        | apply foldl_keeps | apply foldl_keeps2 | apply foldl_keeps1 | apply foldl_keeps22)
      | (intro _ _ _; try dsimp only) | (intro _ _; try dsimp only) | (intro _; try dsimp only)
      | (apply Keeps.mk; dsimp only; with_reducible refine Keeps.upd ?_) | split | dsimp only
  
theorem State.stageRepairs_keeps {root : State} {s : State} (h_s : Keeps True True True True q5 True q7 True True q10 True q12 True q14 True q16 True q18 root s) : Keeps True True True True q5 True q7 True True q10 True q12 True q14 True q16 True q18 root (State.stageRepairs s) := by
  unfold State.stageRepairs
  try dsimp only
  repeat' first
    | (with_reducible first
      | assumption | apply State.stageRepair_keeps)
    | dsimp only

theorem State.noteFault_keeps {root : State} {s : State} {r : FltRec} (h_s : Keeps q1 q2 q3 q4 q5 q6 q7 True q9 q10 q11 q12 q13 q14 q15 q16 q17 q18 root s) : Keeps q1 q2 q3 q4 q5 q6 q7 True q9 q10 q11 q12 q13 q14 q15 q16 q17 q18 root (State.noteFault s r).1 := by
  unfold State.noteFault
  try dsimp only
  repeat' first
    | (with_reducible first
      | assumption | apply ite_keeps | apply ite_keeps2 | apply ite_keeps1 | apply State.modUnit_keeps)
    | (intro _ _ _; try dsimp only) | (intro _ _; try dsimp only) | (intro _; try dsimp only)
    | (apply Keeps.mk; dsimp only; with_reducible refine Keeps.upd ?_) | split | dsimp only

theorem State.noteColumns_keeps {root : State} {s : State} {r : FltRec} (h_s : Keeps q1 q2 q3 q4 q5 q6 q7 True q9 q10 q11 q12 q13 q14 q15 q16 q17 q18 root s) : Keeps q1 q2 q3 q4 q5 q6 q7 True q9 q10 q11 q12 q13 q14 q15 q16 q17 q18 root (State.noteColumns s r).1 := by
  unfold State.noteColumns
  try dsimp only
  repeat' first
    | (with_reducible first
      | assumption | apply ite_keeps | apply ite_keeps2 | apply ite_keeps1 | apply State.modUnit_keeps | apply foldl_keeps
      | apply foldl_keeps2 | apply foldl_keeps1 | apply foldl_keeps22)
    | (intro _ _ _; try dsimp only) | (intro _ _; try dsimp only) | (intro _; try dsimp only)
    | (apply Keeps.mk; dsimp only; with_reducible refine Keeps.upd ?_) | split | dsimp only

theorem State.faultTake_keeps {root : State} {s : State} {r : FltRec} (h_s : Keeps True True True q4 q5 q6 True True True q10 q11 q12 q13 q14 True q16 True q18 root s) : Keeps True True True q4 q5 q6 True True True q10 q11 q12 q13 q14 True q16 True q18 root (State.faultTake s r) := by
  unfold State.faultTake
  try dsimp only
  repeat' first
    | (with_reducible first
      | assumption | apply ite_keeps | apply ite_keeps2 | apply ite_keeps1 | apply State.bump_keeps
      | apply State.fltLog_keeps | apply State.judged_keeps | apply State.noteColumns_keeps | apply State.noteFault_keeps
      | apply State.plan_keeps | apply State.stageLocalise_keeps)
    | (apply Keeps.mk; dsimp only; with_reducible refine Keeps.upd ?_) | split | dsimp only

theorem execFaultRecord_keeps {r : Option FltRec} {t : Nat} {s : State} {fin : State} (h : execFaultRecord r t s = .next fin) : Keeps True True True True False True True True True False True False True False True False True False s fin := by
  have h_s : Keeps True True True True False True True True True False True False True False True False True False s s := Keeps.refl s
  unfold execFaultRecord at h
  obtain rfl := Host.Outcome.next.inj h
  try dsimp only
  repeat' first
    | (with_reducible first
      | assumption | apply State.advance_keeps | apply State.faultTake_keeps | apply State.liveApply_keeps
      | apply State.stageRepairs_keeps)
    | (intro _ _ _; try dsimp only) | (intro _ _; try dsimp only) | (intro _; try dsimp only)
    | (apply Keeps.mk; dsimp only; with_reducible refine Keeps.upd ?_) | split | dsimp only

theorem execLaneErrInterval_keeps {ring : Bool} {lane : Fin 32} {errs : Nat} {lost long : Bool} {t : Nat} {s : State} {fin : State} (h : execLaneErrInterval ring lane errs lost long t s = .next fin) : Keeps False False True False False True False True True False False False False False False False False False s fin := by
  have h_s : Keeps False False True False False True False True True False False False False False False False False False s s := Keeps.refl s
  unfold execLaneErrInterval at h
  obtain rfl := Host.Outcome.next.inj h
  try dsimp only
  repeat' first
    | (with_reducible first
      | assumption | apply ite_keeps | apply ite_keeps2 | apply ite_keeps1 | apply State.advance_keeps
      | apply State.live_keeps | apply State.toFlt_keeps | apply State.use_keeps)
    | (intro _ _ _; try dsimp only) | (intro _ _; try dsimp only) | (intro _; try dsimp only) | split | dsimp only

theorem State.capacity_keeps {root : State} {s : State} (h_s : Keeps q1 q2 True q4 q5 q6 q7 q8 q9 q10 q11 q12 q13 q14 q15 q16 True q18 root s) : Keeps q1 q2 True q4 q5 q6 q7 q8 q9 q10 q11 q12 q13 q14 q15 q16 True q18 root (State.capacity s) := by
  unfold State.capacity
  try dsimp only
  repeat' first
    | (with_reducible first
      | assumption | apply State.platform_keeps | apply State.raise_keeps | apply State.record_keeps)
    | dsimp only

theorem State.repairDone_keeps {root : State} {s : State} {r : Repair} {almOk : Bool} (h_s : Keeps q1 q2 True q4 q5 q6 q7 True q9 q10 q11 q12 q13 q14 q15 True q17 q18 root s) : Keeps q1 q2 True q4 q5 q6 q7 True q9 q10 q11 q12 q13 q14 q15 True q17 q18 root (State.repairDone s r almOk) := by
  unfold State.repairDone
  try dsimp only
  repeat' first
    | (with_reducible first
      | assumption | apply State.almanac_keeps)
    | (apply Keeps.mk; dsimp only; with_reducible refine Keeps.upd ?_) | dsimp only

theorem State.graftDone_keeps {root : State} {s : State} {a : SMap Word} {r : Repair} {almOk : Bool} (h_s : Keeps True True True q4 q5 q6 q7 True True q10 q11 q12 q13 q14 True True True True root s) : Keeps True True True q4 q5 q6 q7 True True q10 q11 q12 q13 q14 True True True True root (State.graftDone s a r almOk) := by
  unfold State.graftDone
  try dsimp only
  repeat' first
    | (with_reducible first
      | assumption | apply ite_keeps | apply ite_keeps2 | apply ite_keeps1 | apply State.advanceEpoch_keeps
      | apply State.bump_keeps | apply State.capacity_keeps | apply State.fltLog_keeps | apply State.modBed_keeps
      | apply State.modUnit_keeps | apply State.raise_keeps | apply State.repairDone_keeps | apply State.scrubBedUnit_keeps
      | apply foldl_keeps)
    | (intro _ _ _; try dsimp only) | (intro _ _; try dsimp only) | (intro _; try dsimp only)
    | (apply Keeps.mk; dsimp only; with_reducible refine Keeps.upd ?_) | split | dsimp only

theorem execRepairApply_keeps {almOk : Bool} {t : Nat} {s : State} {fin : State} (h : execRepairApply almOk t s = .next fin) : Keeps True True True True True True True True True True True True True True True True True True s fin := by
  have h_s : Keeps True True True True True True True True True True True True True True True True True True s s := Keeps.refl s
  unfold execRepairApply at h
  obtain rfl := Host.Outcome.next.inj h
  try dsimp only
  repeat' first
    | (with_reducible first
      | assumption | apply ite_keeps | apply ite_keeps2 | apply ite_keeps1 | apply State.advance_keeps
      | apply State.applyDue_keeps | apply State.fireHooks_keeps | apply State.graftDone_keeps | apply State.live_keeps
      | apply State.noteApply_keeps | apply State.stageRepairs_keeps)
    | (intro _ _ _; try dsimp only) | (intro _ _; try dsimp only) | (intro _; try dsimp only)
    | (apply Keeps.mk; dsimp only; with_reducible refine Keeps.upd ?_) | split | dsimp only

theorem execFaultCommitRetry_keeps {t : Nat} {s : State} {fin : State} (h : execFaultCommitRetry t s = .next fin) : Keeps True True True True False True False True True False True False True False True False True False s fin := by
  have h_s : Keeps True True True True False True False True True False True False True False True False True False s s := Keeps.refl s
  unfold execFaultCommitRetry at h
  obtain rfl := Host.Outcome.next.inj h
  try dsimp only
  repeat' first
    | (with_reducible first
      | assumption | apply ite_keeps | apply ite_keeps2 | apply ite_keeps1 | apply State.advance_keeps
      | apply State.live_keeps | apply State.stageRepairs_keeps)
    | (intro _ _ _; try dsimp only) | (intro _ _; try dsimp only) | (intro _; try dsimp only)
    | (apply Keeps.mk; dsimp only; with_reducible refine Keeps.upd ?_) | split | dsimp only

theorem State.prunePlot_keeps {root : State} {s : State} {n : Fin 8} (h_s : Keeps True True True True True q6 True True q9 q10 True True True q14 q15 True q17 True root s) : Keeps True True True True True q6 True True q9 q10 True True True q14 q15 True q17 True root (State.prunePlot s n) := by
  unfold State.prunePlot
  try dsimp only
  repeat' first
    | (with_reducible first
      | assumption | apply State.actPut_keeps | apply State.grantWaiting_keeps | apply State.modBed_keeps
      | apply State.modIrg_keeps | apply State.modPlot_keeps | apply State.reclaim_keeps | apply State.scrubBed_keeps
      | apply State.scrubStores_keeps | apply State.setDom_keeps | apply foldl_keeps | apply foldl_keeps2
      | apply foldl_keeps1 | apply foldl_keeps22)
    | (intro _ _ _; try dsimp only) | (intro _ _; try dsimp only) | (intro _; try dsimp only)
    | (apply Keeps.mk; dsimp only; with_reducible refine Keeps.upd ?_) | dsimp only

theorem execPlotPrune_keeps {plot : Plot} {almOk : Bool} {t : Nat} {s : State} {fin : State} (h : execPlotPrune plot almOk t s = .next fin) : Keeps True True True True True True True True True False True True True False True True True True s fin := by
  have h_s : Keeps True True True True True True True True True False True True True False True True True True s s := Keeps.refl s
  unfold execPlotPrune at h
  obtain rfl := Host.Outcome.next.inj h
  try dsimp only
  repeat' first
    | (with_reducible first
      | assumption | apply ite_keeps | apply ite_keeps2 | apply ite_keeps1 | apply State.advance_keeps
      | apply State.bump_keeps | apply State.capacity_keeps | apply State.fltLog_keeps | apply State.liveApply_keeps
      | apply State.prunePlot_keeps | apply State.raise_keeps | apply State.repairDone_keeps
      | apply State.stageRepairs_keeps)
    | (intro _ _ _; try dsimp only) | (intro _ _; try dsimp only) | (intro _; try dsimp only)
    | (apply Keeps.mk; dsimp only; with_reducible refine Keeps.upd ?_) | split | dsimp only

theorem execAgingMarginLow_keeps {monitor : Fin 197} {margin : Fin 256} {almOk : Bool} {t : Nat} {s : State} {fin : State} (h : execAgingMarginLow monitor margin almOk t s = .next fin) : Keeps True True True True False True False True True False True False True False True True True False s fin := by
  have h_s : Keeps True True True True False True False True True False True False True False True True True False s s := Keeps.refl s
  unfold execAgingMarginLow at h
  obtain rfl := Host.Outcome.next.inj h
  try dsimp only
  repeat' first
    | (with_reducible first
      | assumption | apply ite_keeps | apply ite_keeps2 | apply ite_keeps1 | apply State.advance_keeps
      | apply State.almanac_keeps | apply State.judged_keeps | apply State.liveApply_keeps | apply State.plan_keeps
      | apply State.raise_keeps | apply State.stageRepairs_keeps)
    | (intro _ _ _; try dsimp only) | (intro _ _; try dsimp only) | (intro _; try dsimp only)
    | (apply Keeps.mk; dsimp only; with_reducible refine Keeps.upd ?_) | split | dsimp only

theorem execHandshakeTimeout_keeps {cls : Fin 10} {plot : Plot} {index : Fin 256} {c : Option Ctx} {recovered : Bool} {t : Nat} {s : State} {fin : State} (h : execHandshakeTimeout cls plot index c recovered t s = .next fin) : Keeps False False True False False True False True True False False False False False False False False False s fin := by
  have h_s : Keeps False False True False False True False True True False False False False False False False False False s s := Keeps.refl s
  unfold execHandshakeTimeout at h
  obtain rfl := Host.Outcome.next.inj h
  try dsimp only
  repeat' first
    | (with_reducible first
      | assumption | apply ite_keeps | apply ite_keeps2 | apply ite_keeps1 | apply State.advance_keeps
      | apply State.bump_keeps | apply State.faultCtx_keeps | apply State.live_keeps | apply State.toFlt_keeps)
    | (intro _ _ _; try dsimp only) | (intro _ _; try dsimp only) | (intro _; try dsimp only)
    | (apply Keeps.mk; dsimp only; with_reducible refine Keeps.upd ?_) | split | dsimp only

theorem State.partitionReset_keeps {root : State} {s : State} {p : Nat} (h_s : Keeps True True True True True q6 True True True q10 True True True True True q16 True True root s) : Keeps True True True True True q6 True True True q10 True True True True True q16 True True root (State.partitionReset s p) := by
  unfold State.partitionReset
  try dsimp only
  repeat' first
    | (with_reducible first
      | assumption | apply ite_keeps | apply ite_keeps2 | apply ite_keeps1 | apply State.bump_keeps
      | apply State.fltLog_keeps | apply State.grantWaiting_keeps | apply State.plotReset_keeps | apply State.raise_keeps
      | apply State.reclaim_keeps | apply State.zeroBytes_keeps | apply foldl_keeps | apply foldl_keeps2 | apply foldl_keeps1
      | apply foldl_keeps22)
    | (intro _ _ _; try dsimp only) | (intro _ _; try dsimp only) | (intro _; try dsimp only)
    | (apply Keeps.mk; dsimp only; with_reducible refine Keeps.upd ?_) | split | dsimp only

theorem execPartitionTimeout_keeps {p : Part} {t : Nat} {s : State} {fin : State} (h : execPartitionTimeout p t s = .next fin) : Keeps True True True True True True True True True False True True True True True False True True s fin := by
  have h_s : Keeps True True True True True True True True True False True True True True True False True True s s := Keeps.refl s
  unfold execPartitionTimeout at h
  obtain rfl := Host.Outcome.next.inj h
  try dsimp only
  repeat' first
    | (with_reducible first
      | assumption | apply ite_keeps | apply ite_keeps2 | apply ite_keeps1 | apply State.advance_keeps
      | apply State.liveApply_keeps | apply State.partitionReset_keeps)
    | (intro _ _ _; try dsimp only) | (intro _ _; try dsimp only) | (intro _; try dsimp only)
    | (apply Keeps.mk; dsimp only; with_reducible refine Keeps.upd ?_) | split | dsimp only

theorem execFltUnitQ_keeps {v : View} {x : Word} {s : State} {fin : State} (h : execFltUnitQ v x s = .next fin) : Keeps False False True False False False False True False False False False False False False False False False s fin := by
  have h_s : Keeps False False True False False False False True False False False False False False False False False False s s := Keeps.refl s
  unfold execFltUnitQ at h
  obtain rfl := Host.Outcome.next.inj h
  try dsimp only
  repeat' first
    | (with_reducible first
      | assumption | apply State.commanded_keeps | apply State.live_keeps)
    | (intro _ _ _; try dsimp only) | (intro _ _; try dsimp only) | (intro _; try dsimp only)
    | (apply Keeps.mk; dsimp only; with_reducible refine Keeps.upd ?_) | dsimp only

end Sys2Proof.Machine
end

