-- ==== Sys2Proof/Laws/KeepsPower.lean ====
section
/-!
SUPPORT. What the definitions of Machine/Power.lean keep, each by the definitions it is made of.
-/

namespace Sys2Proof.Machine

open Sys2Proof

set_option Elab.async false

set_option linter.unusedVariables false
set_option linter.unreachableTactic false
set_option linter.unusedTactic false



variable {q1 q2 q3 q4 q5 q6 q7 q8 q9 q10 q11 q12 q13 q14 q15 q16 q17 q18 : Prop}

theorem State.paceRecord_keeps {root : State} {s : State} {n count : Nat} (h_s : Keeps q1 q2 True q4 q5 q6 q7 q8 True q10 q11 q12 q13 q14 q15 q16 q17 q18 root s) : Keeps q1 q2 True q4 q5 q6 q7 q8 True q10 q11 q12 q13 q14 q15 q16 q17 q18 root (State.paceRecord s n count) := by
  unfold State.paceRecord
  try dsimp only
  repeat' first
    | (with_reducible first
      | assumption | apply State.record_keeps)
    | (apply Keeps.mk; dsimp only; with_reducible refine Keeps.upd ?_) | dsimp only

theorem execPaceWindowEnd_keeps {plot : Plot} {count t : Nat} {s : State} {fin : State} (h : execPaceWindowEnd plot count t s = .next fin) : Keeps False False True False False True False False True False False False False False False True False False s fin := by
  have h_s : Keeps False False True False False True False False True False False False False False False True False False s s := Keeps.refl s
  unfold execPaceWindowEnd at h
  obtain rfl := Host.Outcome.next.inj h
  try dsimp only
  repeat' first
    | (with_reducible first
      | assumption | apply ite_keeps | apply ite_keeps2 | apply ite_keeps1 | apply State.advance_keeps
      | apply State.live_keeps | apply State.paceRecord_keeps | apply State.raise_keeps)
    | (intro _ _ _; try dsimp only) | (intro _ _; try dsimp only) | (intro _; try dsimp only)
    | (apply Keeps.mk; dsimp only; with_reducible refine Keeps.upd ?_) | split | dsimp only

theorem State.vrFailed_keeps {root : State} {s : State} (h_s : Keeps q1 q2 True q4 q5 q6 q7 q8 q9 q10 q11 q12 q13 q14 q15 True q17 q18 root s) : Keeps q1 q2 True q4 q5 q6 q7 q8 q9 q10 q11 q12 q13 q14 q15 True q17 q18 root (State.vrFailed s) := by
  unfold State.vrFailed
  try dsimp only
  repeat' first
    | (with_reducible first
      | assumption | apply ite_keeps | apply ite_keeps2 | apply ite_keeps1 | apply State.bump_keeps
      | apply State.raise_keeps)
    | (apply Keeps.mk; dsimp only; with_reducible refine Keeps.upd ?_) | split | dsimp only

theorem State.vout_keeps {root : State} {s : State} {ok : Bool} {mv : Nat} {f : Pwr → Pwr} (h_s : Keeps q1 q2 True q4 q5 q6 q7 q8 q9 q10 q11 q12 q13 q14 q15 True q17 q18 root s) : Keeps q1 q2 True q4 q5 q6 q7 q8 q9 q10 q11 q12 q13 q14 q15 True q17 q18 root (State.vout s ok mv f) := by
  unfold State.vout
  try dsimp only
  repeat' first
    | (with_reducible first
      | assumption | apply ite_keeps | apply State.bump_keeps | apply State.emit_keeps | apply State.vrFailed_keeps)
    | (apply Keeps.mk; dsimp only; with_reducible refine Keeps.upd ?_) | split | dsimp only

theorem State.loopEval_keeps {root : State} {s : State} {ok : Bool} (h_s : Keeps q1 q2 True q4 q5 q6 q7 q8 q9 q10 q11 q12 q13 q14 q15 True q17 q18 root s) : Keeps q1 q2 True q4 q5 q6 q7 q8 q9 q10 q11 q12 q13 q14 q15 True q17 q18 root (State.loopEval s ok) := by
  unfold State.loopEval
  try dsimp only
  repeat' first
    | (with_reducible first
      | assumption | apply ite_keeps | apply ite_keeps2 | apply ite_keeps1 | apply State.bump_keeps | apply State.raise_keeps
      | apply State.vout_keeps)
    | (intro _ _ _; try dsimp only) | (intro _ _; try dsimp only) | (intro _; try dsimp only)
    | (apply Keeps.mk; dsimp only; with_reducible refine Keeps.upd ?_) | split | dsimp only

theorem execVoltageLoopEval_keeps {ok : Bool} {t : Nat} {s : State} {fin : State} (h : execVoltageLoopEval ok t s = .next fin) : Keeps False False True False False True False False True False False False False False False True False False s fin := by
  have h_s : Keeps False False True False False True False False True False False False False False False True False False s s := Keeps.refl s
  unfold execVoltageLoopEval at h
  obtain rfl := Host.Outcome.next.inj h
  try dsimp only
  repeat' first
    | (with_reducible first
      | assumption | apply ite_keeps | apply ite_keeps2 | apply ite_keeps1 | apply State.advance_keeps
      | apply State.live_keeps | apply State.loopEval_keeps)
    | (intro _ _ _; try dsimp only) | (intro _ _; try dsimp only) | (intro _; try dsimp only) | split | dsimp only

theorem execVrTelemetryPoll_keeps {ok : Bool} {vout iout : Nat} {temp : Int} {t : Nat} {s : State} {fin : State} (h : execVrTelemetryPoll ok vout iout temp t s = .next fin) : Keeps False False True False False True False False True False False False False False False True False False s fin := by
  have h_s : Keeps False False True False False True False False True False False False False False False True False False s s := Keeps.refl s
  unfold execVrTelemetryPoll at h
  obtain rfl := Host.Outcome.next.inj h
  try dsimp only
  repeat' first
    | (with_reducible first
      | assumption | apply ite_keeps | apply ite_keeps2 | apply ite_keeps1 | apply State.advance_keeps
      | apply State.emit_keeps | apply State.live_keeps | apply State.vout_keeps | apply State.vrFailed_keeps)
    | (intro _ _ _; try dsimp only) | (intro _ _; try dsimp only) | (intro _; try dsimp only)
    | (apply Keeps.mk; dsimp only; with_reducible refine Keeps.upd ?_) | split | dsimp only

theorem execVrRetry_keeps {ok : Bool} {t : Nat} {s : State} {fin : State} (h : execVrRetry ok t s = .next fin) : Keeps False False True False False True False False True False False False False False False True False False s fin := by
  have h_s : Keeps False False True False False True False False True False False False False False False True False False s s := Keeps.refl s
  unfold execVrRetry at h
  obtain rfl := Host.Outcome.next.inj h
  try dsimp only
  repeat' first
    | (with_reducible first
      | assumption | apply ite_keeps | apply ite_keeps2 | apply ite_keeps1 | apply State.advance_keeps
      | apply State.live_keeps)
    | (intro _ _ _; try dsimp only) | (intro _ _; try dsimp only) | (intro _; try dsimp only)
    | (apply Keeps.mk; dsimp only; with_reducible refine Keeps.upd ?_) | split | dsimp only

theorem execPmbAlert_keeps {ok : Bool} {status t : Nat} {s : State} {fin : State} (h : execPmbAlert ok status t s = .next fin) : Keeps False False True False False True False False True False False False False False False True False False s fin := by
  have h_s : Keeps False False True False False True False False True False False False False False False True False False s s := Keeps.refl s
  unfold execPmbAlert at h
  obtain rfl := Host.Outcome.next.inj h
  try dsimp only
  repeat' first
    | (with_reducible first
      | assumption | apply ite_keeps | apply ite_keeps2 | apply ite_keeps1 | apply State.advance_keeps
      | apply State.emit_keeps | apply State.live_keeps | apply State.vrFailed_keeps)
    | (intro _ _ _; try dsimp only) | (intro _ _; try dsimp only) | (intro _; try dsimp only)
    | (apply Keeps.mk; dsimp only; with_reducible refine Keeps.upd ?_) | split | dsimp only

theorem execThermalSample_keeps {temps : List Int} {volts : List Nat} {t : Nat} {s : State} {fin : State} (h : execThermalSample temps volts t s = .next fin) : Keeps False False True False False True False False True False False False False False False True True False s fin := by
  have h_s : Keeps False False True False False True False False True False False False False False False True True False s s := Keeps.refl s
  unfold execThermalSample at h
  obtain rfl := Host.Outcome.next.inj h
  try dsimp only
  repeat' first
    | (with_reducible first
      | assumption | apply ite_keeps | apply ite_keeps2 | apply ite_keeps1 | apply State.advance_keeps
      | apply State.live_keeps | apply State.raise_keeps | apply State.relevel_keeps | apply foldl_keeps | apply foldl_keeps2
      | apply foldl_keeps1 | apply foldl_keeps22)
    | (intro _ _ _; try dsimp only) | (intro _ _; try dsimp only) | (intro _; try dsimp only)
    | (apply Keeps.mk; dsimp only; with_reducible refine Keeps.upd ?_) | split | dsimp only

theorem execPowerWindow_keeps {watts amps t : Nat} {s : State} {fin : State} (h : execPowerWindow watts amps t s = .next fin) : Keeps False False True False False True False False True False False False False False False True True False s fin := by
  have h_s : Keeps False False True False False True False False True False False False False False False True True False s s := Keeps.refl s
  unfold execPowerWindow at h
  obtain rfl := Host.Outcome.next.inj h
  try dsimp only
  repeat' first
    | (with_reducible first
      | assumption | apply ite_keeps | apply ite_keeps2 | apply ite_keeps1 | apply State.advance_keeps
      | apply State.live_keeps | apply State.relevel_keeps)
    | (intro _ _ _; try dsimp only) | (intro _ _; try dsimp only) | (intro _; try dsimp only)
    | (apply Keeps.mk; dsimp only; with_reducible refine Keeps.upd ?_) | split | dsimp only

theorem execThermalTrip_keeps {sensor : Fin 24} {temp : Int} {almOk : Bool} {t : Nat} {s : State} {fin : State} (h : execThermalTrip sensor temp almOk t s = .next fin) : Keeps False False True False False True False False True False False False False False False True False False s fin := by
  unfold execThermalTrip at h
  obtain rfl := Host.Outcome.next.inj h
  apply State.live_keeps (Keeps.refl s)
  intro x hx
  have ha := State.advance_keeps (t := t) hx
  apply ite_keeps
  · apply State.almanac_keeps
    apply State.emit_keeps
    apply State.driveByp_keeps
    exact ⟨{ ha.c with tripped := fun _ => rfl, pwrQ := .inl trivial }⟩
  · exact ha

theorem execDomDone_keeps {t : Nat} {s : State} {fin : State} (h : execDomDone t s = .next fin) : Keeps True True True True False True True True True False True True True False False True False True s fin := by
  have h_s : Keeps True True True True False True True True True False True True True False False True False True s s := Keeps.refl s
  unfold execDomDone at h
  obtain rfl := Host.Outcome.next.inj h
  try dsimp only
  repeat' first
    | (with_reducible first
      | assumption | apply ite_keeps | apply ite_keeps2 | apply ite_keeps1 | apply State.advance_keeps
      | apply State.liveApply_keeps | apply State.raise_keeps | apply State.settleDoms_keeps)
    | (intro _ _ _; try dsimp only) | (intro _ _; try dsimp only) | (intro _; try dsimp only) | split | dsimp only

theorem execPlotReset_keeps {v : View} {plot : Plot} {t : Nat} {s : State} {fin : State} (h : execPlotReset v plot t s = .next fin) : Keeps True True True True True True True True True False True True True True False False False True s fin := by
  have h_s : Keeps True True True True True True True True True False True True True True False False False True s s := Keeps.refl s
  unfold execPlotReset at h
  obtain rfl := Host.Outcome.next.inj h
  try dsimp only
  repeat' first
    | (with_reducible first
      | assumption | apply State.advance_keeps | apply State.commanded_keeps | apply State.liveApply_keeps
      | apply State.plotReset_keeps)
    | (intro _ _ _; try dsimp only) | (intro _ _; try dsimp only) | (intro _; try dsimp only) | dsimp only

theorem execPwrTempQ_keeps {v : View} {x : Word} {s : State} {fin : State} (h : execPwrTempQ v x s = .next fin) : Keeps False False False False False False False False False False False False False False False True False False s fin := by
  have h_s : Keeps False False False False False False False False False False False False False False False True False False s s := Keeps.refl s
  unfold execPwrTempQ at h
  obtain rfl := Host.Outcome.next.inj h
  try dsimp only
  repeat' first
    | (with_reducible first
      | assumption | apply State.live_keeps | apply State.written_keeps)
    | (intro _ _ _; try dsimp only) | (intro _ _; try dsimp only) | (intro _; try dsimp only)
    | (apply Keeps.mk; dsimp only; with_reducible refine Keeps.upd ?_) | dsimp only

end Sys2Proof.Machine
end

