-- ==== Sys2Proof/Laws/KeepsReset.lean ====
section
/-!
SUPPORT. What the definitions of Machine/Reset.lean keep, each by the definitions it is made of.
-/

namespace Sys2Proof.Machine

open Sys2Proof

set_option Elab.async false

set_option linter.unusedVariables false
set_option linter.unreachableTactic false
set_option linter.unusedTactic false



variable {q1 q2 q3 q4 q5 q6 q7 q8 q9 q10 q11 q12 q13 q14 q15 q16 q17 q18 : Prop}

theorem State.notice_keeps {root : State} {s : State} {code : Nat} (h_s : Keeps q1 q2 True q4 q5 q6 q7 q8 q9 q10 q11 q12 q13 q14 q15 q16 True q18 root s) : Keeps q1 q2 True q4 q5 q6 q7 q8 q9 q10 q11 q12 q13 q14 q15 q16 True q18 root (State.notice s code) := by
  unfold State.notice
  try dsimp only
  repeat' first
    | (with_reducible first
      | assumption | apply ite_keeps | apply ite_keeps2 | apply ite_keeps1 | apply State.raise_keeps)
    | (apply Keeps.mk; dsimp only; with_reducible refine Keeps.upd ?_) | split | dsimp only

theorem State.mbEnd_keeps {root : State} {s : State} {code : Nat} (h_s : Keeps q1 q2 True q4 q5 q6 q7 q8 q9 q10 q11 q12 q13 q14 q15 q16 True q18 root s) : Keeps q1 q2 True q4 q5 q6 q7 q8 q9 q10 q11 q12 q13 q14 q15 q16 True q18 root (State.mbEnd s code) := by
  unfold State.mbEnd
  try dsimp only
  repeat' first
    | (with_reducible first
      | assumption | apply ite_keeps | apply State.raise_keeps)
    | (apply Keeps.mk; dsimp only; with_reducible refine Keeps.upd ?_) | split | dsimp only

theorem State.logout_keeps {root : State} {s : State} (h_s : Keeps q1 q2 q3 q4 q5 q6 q7 q8 q9 q10 q11 q12 q13 True q15 q16 q17 q18 root s) : Keeps q1 q2 q3 q4 q5 q6 q7 q8 q9 q10 q11 q12 q13 True q15 q16 q17 q18 root (State.logout s) := by
  unfold State.logout
  try dsimp only
  repeat' first
    | (with_reducible first
      | assumption | apply ite_keeps | apply State.debugEnd_keeps)
    | (apply Keeps.mk; dsimp only; with_reducible refine Keeps.upd ?_) | split | dsimp only

theorem State.gkRestart_keeps {root : State} {s : State} (h_s : Keeps q1 q2 True q4 q5 q6 q7 q8 q9 q10 q11 q12 q13 True q15 q16 True q18 root s) : Keeps q1 q2 True q4 q5 q6 q7 q8 q9 q10 q11 q12 q13 True q15 q16 True q18 root (State.gkRestart s) := by
  unfold State.gkRestart
  try dsimp only
  repeat' first
    | (with_reducible first
      | assumption | apply State.bump_keeps | apply State.logout_keeps | apply State.mbEnd_keeps | apply State.notice_keeps
      | apply State.raise_keeps)
    | (apply Keeps.mk; dsimp only; with_reducible refine Keeps.upd ?_) | dsimp only

theorem execGkWatchdogExpiry_keeps {t : Nat} {s : State} {fin : State} (h : execGkWatchdogExpiry t s = .next fin) : Keeps False False True False False True False False True False False False False True False False True False s fin := by
  have h_s : Keeps False False True False False True False False True False False False False True False False True False s s := Keeps.refl s
  unfold execGkWatchdogExpiry at h
  obtain rfl := Host.Outcome.next.inj h
  try dsimp only
  repeat' first
    | (with_reducible first
      | assumption | apply ite_keeps | apply ite_keeps2 | apply ite_keeps1 | apply State.advance_keeps
      | apply State.gkRestart_keeps | apply State.live_keeps)
    | (intro _ _ _; try dsimp only) | (intro _ _; try dsimp only) | (intro _; try dsimp only) | split | dsimp only

theorem State.pinsDown_keeps {root : State} {s : State} {cold : Bool} (h_s : Keeps True True True True q5 True True True True True True True True True True True True True root s) : Keeps True True True True q5 True True True True True True True True True True True True True root (State.pinsDown s cold) := by
  unfold State.pinsDown
  try dsimp only
  repeat' first
    | (with_reducible first
      | assumption | apply ite_keeps | apply ite_keeps2 | apply ite_keeps1 | apply State.cold_keeps | apply State.emit_keeps
      | apply foldl_keeps)
    | (intro _ _ _; try dsimp only) | (intro _ _; try dsimp only) | (intro _; try dsimp only) | split | dsimp only

theorem State.dropUpdate_keeps {root : State} {s : State} (h_s : Keeps q1 q2 q3 q4 q5 q6 q7 q8 q9 q10 q11 q12 q13 q14 q15 q16 True q18 root s) : Keeps q1 q2 q3 q4 q5 q6 q7 q8 q9 q10 q11 q12 q13 q14 q15 q16 True q18 root (State.dropUpdate s) := by
  unfold State.dropUpdate
  try dsimp only
  repeat' first
    | (with_reducible first
      | assumption)
    | (apply Keeps.mk; dsimp only; with_reducible refine Keeps.upd ?_) | split | dsimp only

theorem State.setVariant_keeps {root : State} {s : State} {k v : Nat} (h_s : Keeps q1 q2 q3 q4 q5 q6 q7 q8 q9 q10 q11 q12 q13 q14 q15 True q17 q18 root s) : Keeps q1 q2 q3 q4 q5 q6 q7 q8 q9 q10 q11 q12 q13 q14 q15 True q17 q18 root (State.setVariant s k v) := by
  unfold State.setVariant
  try dsimp only
  repeat' first
    | (with_reducible first
      | assumption)
    | (apply Keeps.mk; dsimp only; with_reducible refine Keeps.upd ?_) | dsimp only

theorem State.decideVariant_keeps {root : State} {s : State} {k : Nat} {almOk : Bool} (h_s : Keeps q1 q2 True q4 q5 q6 q7 q8 q9 q10 q11 q12 q13 q14 q15 True q17 q18 root s) : Keeps q1 q2 True q4 q5 q6 q7 q8 q9 q10 q11 q12 q13 q14 q15 True q17 q18 root (State.decideVariant s k almOk) := by
  unfold State.decideVariant
  try dsimp only
  repeat' first
    | (with_reducible first
      | assumption | apply ite_keeps | apply ite_keeps2 | apply ite_keeps1 | apply State.almanac_keeps
      | apply State.setVariant_keeps)
    | split | dsimp only

theorem State.beginStep_keeps {root : State} {s : State} {k : Nat} {almOk : Bool} (h_s : Keeps q1 q2 True q4 q5 q6 q7 q8 q9 q10 q11 q12 q13 q14 q15 True q17 q18 root s) : Keeps q1 q2 True q4 q5 q6 q7 q8 q9 q10 q11 q12 q13 q14 q15 True q17 q18 root (State.beginStep s k almOk) := by
  unfold State.beginStep
  try dsimp only
  repeat' first
    | (with_reducible first
      | assumption | apply State.almanac_keeps)
    | (apply Keeps.mk; dsimp only; with_reducible refine Keeps.upd ?_) | dsimp only

theorem State.actWords_keeps {root : State} {s : State} {l : List (Nat × Nat)} (h_s : Keeps q1 q2 q3 True True q6 q7 q8 q9 q10 q11 q12 q13 q14 q15 q16 q17 q18 root s) : Keeps q1 q2 q3 True True q6 q7 q8 q9 q10 q11 q12 q13 q14 q15 q16 q17 q18 root (State.actWords s l) := by
  unfold State.actWords
  try dsimp only
  repeat' first
    | (with_reducible first
      | assumption | apply foldl_keeps | apply foldl_keeps2 | apply foldl_keeps1 | apply foldl_keeps22)
    | (intro _ _ _; try dsimp only) | (intro _ _; try dsimp only) | (intro _; try dsimp only)
    | (apply Keeps.mk; dsimp only; with_reducible refine Keeps.upd ?_) | dsimp only

theorem State.applyRepair_keeps {root : State} {s : State} {r : Repair} (h_s : Keeps True True True True True q6 True True q9 q10 True True True q14 q15 True q17 True root s) : Keeps True True True True True q6 True True q9 q10 True True True q14 q15 True q17 True root (State.applyRepair s r) := by
  unfold State.applyRepair
  try dsimp only
  repeat' first
    | (with_reducible first
      | assumption | apply ite_keeps | apply ite_keeps2 | apply ite_keeps1 | apply State.actWords_keeps
      | apply State.modBed_keeps | apply State.modPlot_keeps | apply State.modUnit_keeps | apply State.prunePlot_keeps)
    | (intro _ _ _; try dsimp only) | (intro _ _; try dsimp only) | (intro _; try dsimp only)
    | (apply Keeps.mk; dsimp only; with_reducible refine Keeps.upd ?_) | split | dsimp only

theorem State.applyMap_keeps {root : State} {s : State} (h_s : Keeps True True True True True q6 True True q9 q10 True True True q14 q15 True q17 True root s) : Keeps True True True True True q6 True True q9 q10 True True True q14 q15 True q17 True root (State.applyMap s) := by
  unfold State.applyMap
  try dsimp only
  repeat' first
    | (with_reducible first
      | assumption | apply State.applyRepair_keeps | apply foldl_keeps)
    | dsimp only

theorem State.bistUnit_keeps {root : State} {s : State} {x : FltRec} {almOk : Bool} (h_s : Keeps True True True True True q6 True True q9 q10 True True True q14 q15 True q17 True root s) : Keeps True True True True True q6 True True q9 q10 True True True q14 q15 True q17 True root (State.bistUnit s x almOk) := by
  unfold State.bistUnit
  try dsimp only
  repeat' first
    | (with_reducible first
      | assumption | apply ite_keeps | apply ite_keeps2 | apply ite_keeps1 | apply State.almanac_keeps
      | apply State.applyMap_keeps)
    | (intro _ _ _; try dsimp only) | (intro _ _; try dsimp only) | (intro _; try dsimp only)
    | (apply Keeps.mk; dsimp only; with_reducible refine Keeps.upd ?_) | split | dsimp only

theorem State.trainDram_keeps {root : State} {s : State} {r : StartResult} {almOk : Bool} (h_s : Keeps q1 q2 True q4 q5 q6 q7 q8 q9 q10 q11 q12 q13 q14 True True q17 q18 root s) : Keeps q1 q2 True q4 q5 q6 q7 q8 q9 q10 q11 q12 q13 q14 True True q17 q18 root (State.trainDram s r almOk) := by
  unfold State.trainDram
  try dsimp only
  repeat' first
    | (with_reducible first
      | assumption | apply ite_keeps | apply ite_keeps2 | apply ite_keeps1 | apply State.almanac_keeps | apply foldl_keeps
      | apply foldl_keeps2 | apply foldl_keeps1 | apply foldl_keeps22)
    | (intro _ _ _; try dsimp only) | (intro _ _; try dsimp only) | (intro _; try dsimp only)
    | (apply Keeps.mk; dsimp only; with_reducible refine Keeps.upd ?_) | split | dsimp only

theorem State.enablePlots_keeps {root : State} {s : State} {r : StartResult} (h_s : Keeps True True True q4 q5 q6 True True q9 q10 True True True q14 q15 True q17 True root s) : Keeps True True True q4 q5 q6 True True q9 q10 True True True q14 q15 True q17 True root (State.enablePlots s r) := by
  unfold State.enablePlots
  try dsimp only
  repeat' first
    | (with_reducible first
      | assumption | apply ite_keeps | apply ite_keeps2 | apply ite_keeps1 | apply State.domUp_keeps | apply State.emit_keeps
      | apply State.raise_keeps | apply State.setDom_keeps | apply foldl_keeps)
    | (intro _ _ _; try dsimp only) | (intro _ _; try dsimp only) | (intro _; try dsimp only)
    | (apply Keeps.mk; dsimp only; with_reducible refine Keeps.upd ?_) | split | dsimp only

theorem State.readyNow_keeps {root : State} {s : State} {r : StartResult} (h_s : Keeps q1 q2 True q4 q5 q6 q7 q8 q9 q10 q11 True q13 q14 q15 True q17 q18 root s) : Keeps q1 q2 True q4 q5 q6 q7 q8 q9 q10 q11 True q13 q14 q15 True q17 q18 root (State.readyNow s r) := by
  unfold State.readyNow
  try dsimp only
  repeat' first
    | (with_reducible first
      | assumption | apply ite_keeps | apply ite_keeps2 | apply ite_keeps1 | apply State.driveByp_keeps
      | apply State.raise_keeps | apply foldl_keeps)
    | (intro _ _ _; try dsimp only) | (intro _ _; try dsimp only) | (intro _; try dsimp only)
    | (apply Keeps.mk; dsimp only; with_reducible refine Keeps.upd ?_) | split | dsimp only

theorem State.takeIdentity_keeps {root : State} {s : State} {r : StartResult} {almOk : Bool} (h_s : Keeps q1 q2 True q4 q5 q6 q7 q8 q9 q10 q11 q12 q13 True q15 True True q18 root s) : Keeps q1 q2 True q4 q5 q6 q7 q8 q9 q10 q11 q12 q13 True q15 True True q18 root (State.takeIdentity s r almOk) := by
  unfold State.takeIdentity
  try dsimp only
  repeat' first
    | (with_reducible first
      | assumption | apply ite_keeps | apply ite_keeps2 | apply ite_keeps1 | apply State.almanac_keeps
      | apply State.raise_keeps | apply foldl_keeps | apply foldl_keeps2 | apply foldl_keeps1 | apply foldl_keeps22)
    | (intro _ _ _; try dsimp only) | (intro _ _; try dsimp only) | (intro _; try dsimp only)
    | (apply Keeps.mk; dsimp only; with_reducible refine Keeps.upd ?_) | split | dsimp only

theorem State.endStep_keeps {root : State} {s : State} {k : Nat} {r : StartResult} {almOk : Bool} (h_s : Keeps True True True True True True True True q9 q10 True True True True True True True True root s) : Keeps True True True True True True True True q9 q10 True True True True True True True True root (State.endStep s k r almOk).1 := by
  unfold State.endStep
  try dsimp only
  repeat' first
    | (with_reducible first
      | assumption | apply ite_keeps | apply ite_keeps2 | apply ite_keeps1 | apply ite_keeps22 | apply State.almanac_keeps
      | apply State.applyMap_keeps | apply State.bistUnit_keeps | apply State.decideVariant_keeps
      | apply State.enablePlots_keeps | apply State.measureRef_keeps | apply State.readyNow_keeps
      | apply State.setVariant_keeps | apply State.takeIdentity_keeps | apply State.trainDram_keeps | apply foldl_keeps
      | apply foldl_keeps2 | apply foldl_keeps1 | apply foldl_keeps22)
    | (intro _ _ _; try dsimp only) | (intro _ _; try dsimp only) | (intro _; try dsimp only)
    | (apply Keeps.mk; dsimp only; with_reducible refine Keeps.upd ?_) | split | dsimp only

theorem execStartStepDone_keeps {r : StartResult} {almOk : Bool} {t : Nat} {s : State} {fin : State} (h : execStartStepDone r almOk t s = .next fin) : Keeps True True True True True True True True True False True True True True True True True True s fin := by
  have h_s : Keeps True True True True True True True True True False True True True True True True True True s s := Keeps.refl s
  unfold execStartStepDone at h
  obtain rfl := Host.Outcome.next.inj h
  try dsimp only
  repeat' first
    | (with_reducible first
      | assumption | apply ite_keeps | apply ite_keeps2 | apply ite_keeps1 | apply ite_keeps22 | apply State.advance_keeps
      | apply State.almanac_keeps | apply State.beginStep_keeps | apply State.endStep_keeps | apply State.liveApply_keeps)
    | (intro _ _ _; try dsimp only) | (intro _ _; try dsimp only) | (intro _; try dsimp only)
    | (apply Keeps.mk; dsimp only; with_reducible refine Keeps.upd ?_) | split | dsimp only

theorem execPerstRelease_keeps {t : Nat} {s : State} {fin : State} (h : execPerstRelease t s = .next fin) : Keeps False False True False False True False False True False False False False False False True False False s fin := by
  have h_s : Keeps False False True False False True False False True False False False False False False True False False s s := Keeps.refl s
  unfold execPerstRelease at h
  obtain rfl := Host.Outcome.next.inj h
  try dsimp only
  repeat' first
    | (with_reducible first
      | assumption | apply ite_keeps | apply ite_keeps2 | apply ite_keeps1 | apply State.advance_keeps
      | apply State.beginStep_keeps | apply State.driveByp_keeps)
    | (apply Keeps.mk; dsimp only; with_reducible refine Keeps.upd ?_) | split | dsimp only

end Sys2Proof.Machine
end

