-- ==== Sys2Proof/Laws/KeepsSecurity.lean ====
section
/-!
SUPPORT. What the definitions of Machine/Security.lean keep, each by the definitions it is made of.
-/

namespace Sys2Proof.Machine

open Sys2Proof

set_option Elab.async false

set_option linter.unusedVariables false
set_option linter.unreachableTactic false
set_option linter.unusedTactic false



variable {q1 q2 q3 q4 q5 q6 q7 q8 q9 q10 q11 q12 q13 q14 q15 q16 q17 q18 : Prop}

theorem State.modPart_keeps {root : State} {s : State} {p : Nat} {f : PartSt → PartSt} (h_s : Keeps q1 q2 q3 q4 q5 q6 q7 q8 q9 q10 q11 q12 q13 True q15 q16 q17 q18 root s) : Keeps q1 q2 q3 q4 q5 q6 q7 q8 q9 q10 q11 q12 q13 True q15 q16 q17 q18 root (State.modPart s p f) := by
  unfold State.modPart
  try dsimp only
  repeat' first
    | (with_reducible first
      | assumption)
    | (apply Keeps.mk; dsimp only; with_reducible refine Keeps.upd ?_) | dsimp only

theorem State.keyBlob_keeps {root : State} {s : State} {v : View} {p : Nat} {host : List (BitVec 8)} (h_s : Keeps q1 q2 True q4 q5 q6 q7 True True q10 q11 q12 q13 q14 True q16 q17 q18 root s) : Keeps q1 q2 True q4 q5 q6 q7 True True q10 q11 q12 q13 q14 True q16 q17 q18 root (State.keyBlob s v p host).2 := by
  unfold State.keyBlob
  try dsimp only
  repeat' first
    | (with_reducible first
      | assumption | apply ite_keeps | apply ite_keeps2 | apply ite_keeps1 | apply State.dramRead_keeps)
    | split | dsimp only

theorem State.keyResult_keeps {root : State} {s : State} {v : View} {p code : Nat} {extra : Nat} {job : Nat} {counts : Bool} (h_s : Keeps q1 q2 True q4 q5 q6 q7 q8 q9 q10 q11 q12 q13 True q15 q16 q17 q18 root s) : Keeps q1 q2 True q4 q5 q6 q7 q8 q9 q10 q11 q12 q13 True q15 q16 q17 q18 root (State.keyResult s v p code extra job counts) := by
  unfold State.keyResult
  try dsimp only
  repeat' first
    | (with_reducible first
      | assumption | apply ite_keeps | apply ite_keeps2 | apply ite_keeps1 | apply State.bump_keeps
      | apply State.raise_keeps)
    | (apply Keeps.mk; dsimp only; with_reducible refine Keeps.upd ?_) | split | dsimp only

theorem State.keyCmd_keeps {root : State} {s : State} {v : View} {x : Word} {f : Nat → Nat → State → State} (h_s : Keeps q1 q2 True q4 q5 q6 q7 q8 q9 q10 q11 q12 q13 q14 q15 q16 q17 q18 root s) (h_f : ∀ (x0 : Nat) (x1 : Nat) (x2 : State), Keeps q1 q2 True q4 q5 q6 q7 q8 q9 q10 q11 q12 q13 q14 q15 q16 q17 q18 root x2 → Keeps q1 q2 True q4 q5 q6 q7 q8 q9 q10 q11 q12 q13 q14 q15 q16 q17 q18 root (f x0 x1 x2)) : Keeps q1 q2 True q4 q5 q6 q7 q8 q9 q10 q11 q12 q13 q14 q15 q16 q17 q18 root (State.keyCmd s v x f) := by
  unfold State.keyCmd
  try dsimp only
  repeat' first
    | (with_reducible first
      | assumption | apply h_f | apply State.dropped_keeps | apply State.written_keeps)
    | (intro _ _ _; try dsimp only) | (intro _ _; try dsimp only) | (intro _; try dsimp only)
    | (apply Keeps.mk; dsimp only; with_reducible refine Keeps.upd ?_) | split | dsimp only

theorem State.setKeys_keeps {root : State} {s : State} {m : SMap JobKey} (h_s : Keeps q1 q2 q3 q4 q5 q6 q7 q8 q9 q10 q11 q12 q13 True q15 q16 q17 q18 root s) : Keeps q1 q2 q3 q4 q5 q6 q7 q8 q9 q10 q11 q12 q13 True q15 q16 q17 q18 root (State.setKeys s m) := by
  unfold State.setKeys
  try dsimp only
  repeat' first
    | (with_reducible first
      | assumption)
    | (apply Keeps.mk; dsimp only; with_reducible refine Keeps.upd ?_) | dsimp only

theorem State.keepKey_keeps {root : State} {s : State} {h : Nat} {k : Option JobKey} (h_s : Keeps q1 q2 q3 q4 q5 q6 q7 q8 q9 q10 q11 q12 q13 True q15 q16 q17 q18 root s) : Keeps q1 q2 q3 q4 q5 q6 q7 q8 q9 q10 q11 q12 q13 True q15 q16 q17 q18 root (State.keepKey s h k) := by
  unfold State.keepKey
  try dsimp only
  repeat' first
    | (with_reducible first
      | assumption | apply State.setKeys_keeps)
    | (apply Keeps.mk; dsimp only; with_reducible refine Keeps.upd ?_) | split | dsimp only

theorem execKeyLoad_keeps {v : View} {x : Word} {host : List Byte} {s : State} {fin : State} (h : execKeyLoad v x host s = .next fin) : Keeps False False True False False False False True True False False False False True True False False False s fin := by
  have h_s : Keeps False False True False False False False True True False False False False True True False False False s s := Keeps.refl s
  unfold execKeyLoad at h
  obtain rfl := Host.Outcome.next.inj h
  try dsimp only
  repeat' first
    | (with_reducible first
      | assumption | apply State.keepKey_keeps | apply State.keyBlob_keeps | apply State.keyCmd_keeps
      | apply State.keyResult_keeps | apply State.live_keeps)
    | (intro _ _ _; try dsimp only) | (intro _ _; try dsimp only) | (intro _; try dsimp only) | dsimp only

theorem execKeyErase_keeps {v : View} {x : Word} {s : State} {fin : State} (h : execKeyErase v x s = .next fin) : Keeps False False True False False False False False False False False False False True False False False False s fin := by
  have h_s : Keeps False False True False False False False False False False False False False True False False False False s s := Keeps.refl s
  unfold execKeyErase at h
  obtain rfl := Host.Outcome.next.inj h
  try dsimp only
  repeat' first
    | (with_reducible first
      | assumption | apply ite_keeps | apply State.keyCmd_keeps | apply State.keyResult_keeps | apply State.live_keeps
      | apply State.setKeys_keeps)
    | (intro _ _ _; try dsimp only) | (intro _ _; try dsimp only) | (intro _; try dsimp only) | split | dsimp only

theorem execKeyQuery_keeps {v : View} {x : Word} {s : State} {fin : State} (h : execKeyQuery v x s = .next fin) : Keeps False False True False False False False True False False False False False True False False False False s fin := by
  have h_s : Keeps False False True False False False False True False False False False False True False False False False s s := Keeps.refl s
  unfold execKeyQuery at h
  obtain rfl := Host.Outcome.next.inj h
  try dsimp only
  repeat' first
    | (with_reducible first
      | assumption | apply ite_keeps | apply State.keyCmd_keeps | apply State.keyResult_keeps | apply State.live_keeps
      | apply State.use_keeps)
    | (intro _ _ _; try dsimp only) | (intro _ _; try dsimp only) | (intro _; try dsimp only)
    | (apply Keeps.mk; dsimp only; with_reducible refine Keeps.upd ?_) | split | dsimp only

theorem State.beginDisable_keeps {root : State} {s : State} {p : Nat} {flr : Bool} (h_s : Keeps q1 q2 q3 q4 q5 q6 q7 q8 q9 q10 q11 q12 q13 True q15 q16 q17 q18 root s) : Keeps q1 q2 q3 q4 q5 q6 q7 q8 q9 q10 q11 q12 q13 True q15 q16 q17 q18 root (State.beginDisable s p flr) := by
  unfold State.beginDisable
  try dsimp only
  repeat' first
    | (with_reducible first
      | assumption | apply State.modPart_keeps)
    | (intro _ _ _; try dsimp only) | (intro _ _; try dsimp only) | (intro _; try dsimp only)
    | (apply Keeps.mk; dsimp only; with_reducible refine Keeps.upd ?_) | split | dsimp only

theorem execDisable_keeps {v : View} {p : Part} {t : Nat} {s : State} {fin : State} (h : execDisable v p t s = .next fin) : Keeps False False True True False True False False True False False False False True False False False False s fin := by
  have h_s : Keeps False False True True False True False False True False False False False True False False False False s s := Keeps.refl s
  unfold execDisable at h
  obtain rfl := Host.Outcome.next.inj h
  try dsimp only
  repeat' first
    | (with_reducible first
      | assumption | apply State.advance_keeps | apply State.beginDisable_keeps | apply State.commanded_keeps
      | apply State.liveApply_keeps)
    | (intro _ _ _; try dsimp only) | (intro _ _; try dsimp only) | (intro _; try dsimp only) | dsimp only

theorem State.abortCtx_keeps {root : State} {s : State} {c : Nat} (h_s : Keeps True True True True True q6 True True True q10 q11 True q13 True q15 q16 q17 True root s) : Keeps True True True True True q6 True True True q10 q11 True q13 True q15 q16 q17 True root (State.abortCtx s c) := by
  unfold State.abortCtx
  try dsimp only
  repeat' first
    | (with_reducible first
      | assumption | apply State.bumpBy_keeps | apply State.clearWindows_keeps | apply State.killArea_keeps
      | apply State.modCtx_keeps | apply State.releaseSprouts_keeps | apply foldl_keeps)
    | (intro _ _ _; try dsimp only) | (intro _ _; try dsimp only) | (intro _; try dsimp only)
    | (apply Keeps.mk; dsimp only; with_reducible refine Keeps.upd ?_) | dsimp only

theorem State.closeCtx_keeps {root : State} {s : State} {c : Nat} (h_s : Keeps True True True True True q6 True True True q10 q11 True q13 True q15 q16 q17 True root s) : Keeps True True True True True q6 True True True q10 q11 True q13 True q15 q16 q17 True root (State.closeCtx s c) := by
  unfold State.closeCtx
  try dsimp only
  repeat' first
    | (with_reducible first
      | assumption | apply State.clearWindows_keeps | apply State.zeroBytes_keeps | apply foldl_keeps | apply foldl_keeps2
      | apply foldl_keeps1 | apply foldl_keeps22)
    | (intro _ _ _; try dsimp only) | (intro _ _; try dsimp only) | (intro _; try dsimp only) | dsimp only

theorem State.stageOff_keeps {root : State} {s : State} {p : Nat} (h_s : Keeps True True True True True q6 True True True True q11 True q13 True q15 q16 q17 True root s) : Keeps True True True True True q6 True True True True q11 True q13 True q15 q16 q17 True root (State.stageOff s p) := by
  unfold State.stageOff
  try dsimp only
  repeat' first
    | (with_reducible first
      | assumption | apply ite_keeps | apply ite_keeps2 | apply ite_keeps1 | apply State.actPut_keeps
      | apply State.disableCtx_keeps | apply foldl_keeps | apply foldl_keeps2 | apply foldl_keeps1 | apply foldl_keeps22)
    | (intro _ _ _; try dsimp only) | (intro _ _; try dsimp only) | (intro _; try dsimp only)
    | (apply Keeps.mk; dsimp only; with_reducible refine Keeps.upd ?_) | split | dsimp only

theorem execDisableSlotExpiry_keeps {p : Part} {t : Nat} {s : State} {fin : State} (h : execDisableSlotExpiry p t s = .next fin) : Keeps True True True True True True True True True True False True False True False False False True s fin := by
  have h_s : Keeps True True True True True True True True True True False True False True False False False True s s := Keeps.refl s
  unfold execDisableSlotExpiry at h
  obtain rfl := Host.Outcome.next.inj h
  try dsimp only
  repeat' first
    | (with_reducible first
      | assumption | apply ite_keeps | apply ite_keeps2 | apply ite_keeps1 | apply State.abortCtx_keeps
      | apply State.advance_keeps | apply State.closeCtx_keeps | apply State.liveApply_keeps | apply State.modPart_keeps
      | apply State.stageOff_keeps | apply foldl_keeps)
    | (intro _ _ _; try dsimp only) | (intro _ _; try dsimp only) | (intro _; try dsimp only)
    | (apply Keeps.mk; dsimp only; with_reducible refine Keeps.upd ?_) | split | dsimp only

theorem State.flrDone_keeps {root : State} {s : State} {f : Nat} (h_s : Keeps q1 q2 True q4 q5 q6 q7 q8 q9 q10 q11 True q13 q14 q15 q16 q17 q18 root s) : Keeps q1 q2 True q4 q5 q6 q7 q8 q9 q10 q11 True q13 q14 q15 q16 q17 q18 root (State.flrDone s f) := by
  unfold State.flrDone
  try dsimp only
  repeat' first
    | (with_reducible first
      | assumption | apply State.raise_keeps)
    | (intro _ _ _; try dsimp only) | (intro _ _; try dsimp only) | (intro _; try dsimp only)
    | (apply Keeps.mk; dsimp only; with_reducible refine Keeps.upd ?_) | dsimp only

theorem State.pfFlrEnd_keeps {root : State} {s : State} (h_s : Keeps q1 q2 True q4 q5 q6 q7 q8 q9 q10 q11 True q13 True q15 q16 q17 q18 root s) : Keeps q1 q2 True q4 q5 q6 q7 q8 q9 q10 q11 True q13 True q15 q16 q17 q18 root (State.pfFlrEnd s) := by
  unfold State.pfFlrEnd
  try dsimp only
  repeat' first
    | (with_reducible first
      | assumption | apply ite_keeps | apply State.flrDone_keeps)
    | (intro _ _ _; try dsimp only) | (intro _ _; try dsimp only) | (intro _; try dsimp only)
    | (apply Keeps.mk; dsimp only; with_reducible refine Keeps.upd ?_) | split | dsimp only

theorem execPartDisabled_keeps {p : Part} {t : Nat} {s : State} {fin : State} (h : execPartDisabled p t s = .next fin) : Keeps False False True True False True False False True False False True False True False False False False s fin := by
  have h_s : Keeps False False True True False True False False True False False True False True False False False False s s := Keeps.refl s
  unfold execPartDisabled at h
  obtain rfl := Host.Outcome.next.inj h
  try dsimp only
  repeat' first
    | (with_reducible first
      | assumption | apply ite_keeps | apply ite_keeps2 | apply ite_keeps1 | apply State.advance_keeps
      | apply State.flrDone_keeps | apply State.liveApply_keeps | apply State.modPart_keeps | apply State.pfFlrEnd_keeps
      | apply State.raise_keeps)
    | (intro _ _ _; try dsimp only) | (intro _ _; try dsimp only) | (intro _; try dsimp only)
    | (apply Keeps.mk; dsimp only; with_reducible refine Keeps.upd ?_) | split | dsimp only

theorem State.unholdPlot_keeps {root : State} {s : State} {n k : Nat} (h_s : Keeps q1 q2 True q4 q5 q6 True q8 q9 q10 q11 q12 q13 q14 q15 q16 q17 q18 root s) : Keeps q1 q2 True q4 q5 q6 True q8 q9 q10 q11 q12 q13 q14 q15 q16 q17 q18 root (State.unholdPlot s n k) := by
  unfold State.unholdPlot
  try dsimp only
  repeat' first
    | (with_reducible first
      | assumption | apply ite_keeps | apply ite_keeps2 | apply ite_keeps1 | apply State.nextZeroOrder_keeps
      | apply State.winUnhold_keeps | apply foldl_keeps)
    | (intro _ _ _; try dsimp only) | (intro _ _; try dsimp only) | (intro _; try dsimp only) | split | dsimp only

theorem State.fencesZero_keeps {root : State} {s : State} {k : Nat} (h_s : Keeps q1 q2 q3 q4 q5 q6 q7 q8 q9 q10 q11 q12 q13 True q15 q16 q17 q18 root s) : Keeps q1 q2 q3 q4 q5 q6 q7 q8 q9 q10 q11 q12 q13 True q15 q16 q17 q18 root (State.fencesZero s k) := by
  unfold State.fencesZero
  try dsimp only
  repeat' first
    | (with_reducible first
      | assumption | apply ite_keeps)
    | (intro _ _ _; try dsimp only) | (intro _ _; try dsimp only) | (intro _; try dsimp only)
    | (apply Keeps.mk; dsimp only; with_reducible refine Keeps.upd ?_) | split | dsimp only

theorem execReleaseHold_keeps {v : View} {p : Part} {t : Nat} {s : State} {fin : State} (h : execReleaseHold v p t s = .next fin) : Keeps True True True True False True True False True False False False False True False False False True s fin := by
  have h_s : Keeps True True True True False True True False True False False False False True False False False True s s := Keeps.refl s
  unfold execReleaseHold at h
  obtain rfl := Host.Outcome.next.inj h
  try dsimp only
  repeat' first
    | (with_reducible first
      | assumption | apply State.advance_keeps | apply State.commanded_keeps | apply State.fencesZero_keeps
      | apply State.liveApply_keeps | apply State.thawSprouts_keeps | apply State.unholdPlot_keeps
      | apply State.zeroBytes_keeps | apply foldl_keeps)
    | (intro _ _ _; try dsimp only) | (intro _ _; try dsimp only) | (intro _; try dsimp only) | dsimp only

theorem execPartReleased_keeps {p : Part} {t : Nat} {s : State} {fin : State} (h : execPartReleased p t s = .next fin) : Keeps False False True True False True False False True False False False False True False False False False s fin := by
  have h_s : Keeps False False True True False True False False True False False False False True False False False False s s := Keeps.refl s
  unfold execPartReleased at h
  obtain rfl := Host.Outcome.next.inj h
  try dsimp only
  repeat' first
    | (with_reducible first
      | assumption | apply ite_keeps | apply ite_keeps2 | apply ite_keeps1 | apply State.advance_keeps
      | apply State.liveApply_keeps | apply State.modPart_keeps | apply State.raise_keeps)
    | (intro _ _ _; try dsimp only) | (intro _ _; try dsimp only) | (intro _; try dsimp only)
    | (apply Keeps.mk; dsimp only; with_reducible refine Keeps.upd ?_) | split | dsimp only

theorem State.enterFlr_keeps {root : State} {s : State} {f : Nat} (h_s : Keeps q1 q2 q3 q4 q5 q6 q7 q8 q9 q10 q11 True q13 q14 q15 q16 q17 q18 root s) : Keeps q1 q2 q3 q4 q5 q6 q7 q8 q9 q10 q11 True q13 q14 q15 q16 q17 q18 root (State.enterFlr s f) := by
  unfold State.enterFlr
  try dsimp only
  repeat' first
    | (with_reducible first
      | assumption)
    | (intro _ _ _; try dsimp only) | (intro _ _; try dsimp only) | (intro _; try dsimp only)
    | (apply Keeps.mk; dsimp only; with_reducible refine Keeps.upd ?_) | dsimp only

theorem execVfFlr_keeps {k : Fin 8} {t : Nat} {s : State} {fin : State} (h : execVfFlr k t s = .next fin) : Keeps False False True True False True False False True False False True False True False False False False s fin := by
  have h_s : Keeps False False True True False True False False True False False True False True False False False False s s := Keeps.refl s
  unfold execVfFlr at h
  obtain rfl := Host.Outcome.next.inj h
  try dsimp only
  repeat' first
    | (with_reducible first
      | assumption | apply State.advance_keeps | apply State.beginDisable_keeps | apply State.enterFlr_keeps
      | apply State.flrDone_keeps | apply State.liveApply_keeps | apply State.withdraw_keeps)
    | (intro _ _ _; try dsimp only) | (intro _ _; try dsimp only) | (intro _; try dsimp only)
    | (apply Keeps.mk; dsimp only; with_reducible refine Keeps.upd ?_) | split | dsimp only

theorem execPfFlr_keeps {t : Nat} {s : State} {fin : State} (h : execPfFlr t s = .next fin) : Keeps False False True True True True False False True False False True False True False False False False s fin := by
  have h_s : Keeps False False True True True True False False True False False True False True False False False False s s := Keeps.refl s
  unfold execPfFlr at h
  obtain rfl := Host.Outcome.next.inj h
  try dsimp only
  repeat' first
    | (with_reducible first
      | assumption | apply State.advance_keeps | apply State.beginDisable_keeps | apply State.enterFlr_keeps
      | apply State.liveApply_keeps | apply State.pfFlrEnd_keeps | apply State.withdraw_keeps | apply foldl_keeps
      | apply foldl_keeps2 | apply foldl_keeps1 | apply foldl_keeps22)
    | (intro _ _ _; try dsimp only) | (intro _ _; try dsimp only) | (intro _; try dsimp only)
    | (apply Keeps.mk; dsimp only; with_reducible refine Keeps.upd ?_) | dsimp only

theorem execVfEnableClear_keeps {t : Nat} {s : State} {fin : State} (h : execVfEnableClear t s = .next fin) : Keeps False False True True False True False False True False False True False True False False False False s fin := by
  have h_s : Keeps False False True True False True False False True False False True False True False False False False s s := Keeps.refl s
  unfold execVfEnableClear at h
  obtain rfl := Host.Outcome.next.inj h
  try dsimp only
  repeat' first
    | (with_reducible first
      | assumption | apply State.advance_keeps | apply State.beginDisable_keeps | apply State.liveApply_keeps
      | apply foldl_keeps)
    | (intro _ _ _; try dsimp only) | (intro _ _; try dsimp only) | (intro _; try dsimp only)
    | (apply Keeps.mk; dsimp only; with_reducible refine Keeps.upd ?_) | dsimp only

theorem State.modSpdm_keeps {root : State} {s : State} {tr : Nat} {f : Spdm → Spdm} (h_s : Keeps q1 q2 q3 q4 q5 q6 q7 q8 q9 q10 q11 q12 q13 True q15 q16 q17 q18 root s) : Keeps q1 q2 q3 q4 q5 q6 q7 q8 q9 q10 q11 q12 q13 True q15 q16 q17 q18 root (State.modSpdm s tr f) := by
  unfold State.modSpdm
  try dsimp only
  repeat' first
    | (with_reducible first
      | assumption)
    | (apply Keeps.mk; dsimp only; with_reducible refine Keeps.upd ?_) | dsimp only

theorem State.spdmAnswer_keeps {root : State} {s : State} {tr code : Nat} {words : List Nat} (h_s : Keeps q1 q2 True q4 q5 q6 q7 q8 q9 q10 q11 q12 q13 q14 q15 q16 q17 q18 root s) : Keeps q1 q2 True q4 q5 q6 q7 q8 q9 q10 q11 q12 q13 q14 q15 q16 q17 q18 root (State.spdmAnswer s tr code words) := by
  unfold State.spdmAnswer
  try dsimp only
  repeat' first
    | (with_reducible first
      | assumption | apply State.bump_keeps | apply State.emit_keeps)
    | dsimp only

theorem State.spdmError_keeps {root : State} {s : State} {tr e : Nat} (h_s : Keeps q1 q2 True q4 q5 q6 q7 q8 q9 q10 q11 q12 q13 True q15 q16 q17 q18 root s) : Keeps q1 q2 True q4 q5 q6 q7 q8 q9 q10 q11 q12 q13 True q15 q16 q17 q18 root (State.spdmError s tr e) := by
  unfold State.spdmError
  try dsimp only
  repeat' first
    | (with_reducible first
      | assumption | apply State.modSpdm_keeps | apply State.spdmAnswer_keeps)
    | (intro _ _ _; try dsimp only) | (intro _ _; try dsimp only) | (intro _; try dsimp only)
    | (apply Keeps.mk; dsimp only; with_reducible refine Keeps.upd ?_) | dsimp only

theorem State.modSession_keeps {root : State} {s : State} {id : Nat} {f : Session → Session} (h_s : Keeps q1 q2 q3 q4 q5 q6 q7 q8 q9 q10 q11 q12 q13 True q15 q16 q17 q18 root s) : Keeps q1 q2 q3 q4 q5 q6 q7 q8 q9 q10 q11 q12 q13 True q15 q16 q17 q18 root (State.modSession s id f) := by
  unfold State.modSession
  try dsimp only
  repeat' first
    | (with_reducible first
      | assumption | apply ite_keeps)
    | (intro _ _ _; try dsimp only) | (intro _ _; try dsimp only) | (intro _; try dsimp only)
    | (apply Keeps.mk; dsimp only; with_reducible refine Keeps.upd ?_) | split | dsimp only

theorem State.endSession_keeps {root : State} {s : State} {id : Nat} (h_s : Keeps q1 q2 q3 q4 q5 q6 q7 q8 q9 q10 q11 q12 q13 True q15 q16 q17 q18 root s) : Keeps q1 q2 q3 q4 q5 q6 q7 q8 q9 q10 q11 q12 q13 True q15 q16 q17 q18 root (State.endSession s id) := by
  unfold State.endSession
  try dsimp only
  repeat' first
    | (with_reducible first
      | assumption)
    | (intro _ _ _; try dsimp only) | (intro _ _; try dsimp only) | (intro _; try dsimp only)
    | (apply Keeps.mk; dsimp only; with_reducible refine Keeps.upd ?_) | dsimp only

theorem State.spdmReq_keeps {root : State} {s : State} {tr : Nat} {ses : Option Nat} {needsId : Bool} {ready : Spdm → Bool} {f : State → State} (h_s : Keeps q1 q2 True q4 q5 q6 q7 q8 q9 q10 q11 q12 q13 True q15 q16 q17 q18 root s) (h_f : ∀ (x0 : State), Keeps q1 q2 True q4 q5 q6 q7 q8 q9 q10 q11 q12 q13 True q15 q16 q17 q18 root x0 → Keeps q1 q2 True q4 q5 q6 q7 q8 q9 q10 q11 q12 q13 True q15 q16 q17 q18 root (f x0)) : Keeps q1 q2 True q4 q5 q6 q7 q8 q9 q10 q11 q12 q13 True q15 q16 q17 q18 root (State.spdmReq s tr ses needsId ready f) := by
  unfold State.spdmReq
  try dsimp only
  repeat' first
    | (with_reducible first
      | assumption | apply ite_keeps | apply h_f | apply State.emit_keeps | apply State.spdmError_keeps)
    | (intro _ _ _; try dsimp only) | (intro _ _; try dsimp only) | (intro _; try dsimp only)
    | (apply Keeps.mk; dsimp only; with_reducible refine Keeps.upd ?_) | split | dsimp only

theorem State.spdmPlain_keeps {root : State} {s : State} {tr : Nat} {msg : List (BitVec 8)} {code : Nat} {words : List Nat} (h_s : Keeps q1 q2 True q4 q5 q6 q7 q8 q9 q10 q11 q12 q13 True q15 q16 q17 q18 root s) : Keeps q1 q2 True q4 q5 q6 q7 q8 q9 q10 q11 q12 q13 True q15 q16 q17 q18 root (State.spdmPlain s tr msg code words) := by
  unfold State.spdmPlain
  try dsimp only
  repeat' first
    | (with_reducible first
      | assumption | apply State.modSpdm_keeps | apply State.spdmAnswer_keeps)
    | (intro _ _ _; try dsimp only) | (intro _ _; try dsimp only) | (intro _; try dsimp only)
    | (apply Keeps.mk; dsimp only; with_reducible refine Keeps.upd ?_) | dsimp only

theorem State.spdmSigned_keeps {root : State} {s : State} {tr : Nat} {msg : List (BitVec 8)} {code : Nat} {words : List Nat} (h_s : Keeps q1 q2 True q4 q5 q6 q7 q8 q9 q10 q11 q12 q13 True q15 q16 q17 q18 root s) : Keeps q1 q2 True q4 q5 q6 q7 q8 q9 q10 q11 q12 q13 True q15 q16 q17 q18 root (State.spdmSigned s tr msg code words) := by
  unfold State.spdmSigned
  try dsimp only
  repeat' first
    | (with_reducible first
      | assumption | apply State.modSpdm_keeps | apply State.spdmAnswer_keeps | apply State.tick_keeps)
    | (intro _ _ _; try dsimp only) | (intro _ _; try dsimp only) | (intro _; try dsimp only)
    | (apply Keeps.mk; dsimp only; with_reducible refine Keeps.upd ?_) | dsimp only

theorem execGetVersion_keeps {tr : Fin 11} {ses : Option Nat} {msg : List Byte} {s : State} {fin : State} (h : execGetVersion tr ses msg s = .next fin) : Keeps False False True False False False False False False False False False False True False False False False s fin := by
  have h_s : Keeps False False True False False False False False False False False False False True False False False False s s := Keeps.refl s
  unfold execGetVersion at h
  obtain rfl := Host.Outcome.next.inj h
  try dsimp only
  repeat' first
    | (with_reducible first
      | assumption | apply State.live_keeps | apply State.modSpdm_keeps | apply State.spdmAnswer_keeps
      | apply State.spdmReq_keeps)
    | (intro _ _ _; try dsimp only) | (intro _ _; try dsimp only) | (intro _; try dsimp only) | dsimp only

theorem execGetCapabilities_keeps {tr : Fin 11} {ses : Option Nat} {msg : List Byte} {s : State} {fin : State} (h : execGetCapabilities tr ses msg s = .next fin) : Keeps False False True False False False False False False False False False False True False False False False s fin := by
  have h_s : Keeps False False True False False False False False False False False False False True False False False False s s := Keeps.refl s
  unfold execGetCapabilities at h
  obtain rfl := Host.Outcome.next.inj h
  try dsimp only
  repeat' first
    | (with_reducible first
      | assumption | apply State.live_keeps | apply State.modSpdm_keeps | apply State.spdmPlain_keeps
      | apply State.spdmReq_keeps)
    | (intro _ _ _; try dsimp only) | (intro _ _; try dsimp only) | (intro _; try dsimp only)
    | (apply Keeps.mk; dsimp only; with_reducible refine Keeps.upd ?_) | dsimp only

theorem execNegotiateAlgorithms_keeps {tr : Fin 11} {ses : Option Nat} {msg : List Byte} {s : State} {fin : State} (h : execNegotiateAlgorithms tr ses msg s = .next fin) : Keeps False False True False False False False False False False False False False True False False False False s fin := by
  have h_s : Keeps False False True False False False False False False False False False False True False False False False s s := Keeps.refl s
  unfold execNegotiateAlgorithms at h
  obtain rfl := Host.Outcome.next.inj h
  try dsimp only
  repeat' first
    | (with_reducible first
      | assumption | apply State.live_keeps | apply State.modSpdm_keeps | apply State.spdmPlain_keeps
      | apply State.spdmReq_keeps)
    | (intro _ _ _; try dsimp only) | (intro _ _; try dsimp only) | (intro _; try dsimp only)
    | (apply Keeps.mk; dsimp only; with_reducible refine Keeps.upd ?_) | dsimp only

theorem execGetDigests_keeps {tr : Fin 11} {ses : Option Nat} {msg : List Byte} {s : State} {fin : State} (h : execGetDigests tr ses msg s = .next fin) : Keeps False False True False False False False False False False False False False True False False False False s fin := by
  have h_s : Keeps False False True False False False False False False False False False False True False False False False s s := Keeps.refl s
  unfold execGetDigests at h
  obtain rfl := Host.Outcome.next.inj h
  try dsimp only
  repeat' first
    | (with_reducible first
      | assumption | apply State.live_keeps | apply State.spdmPlain_keeps | apply State.spdmReq_keeps)
    | (intro _ _ _; try dsimp only) | (intro _ _; try dsimp only) | (intro _; try dsimp only) | dsimp only

theorem execGetCertificate_keeps {tr : Fin 11} {ses : Option Nat} {msg : List Byte} {s : State} {fin : State} (h : execGetCertificate tr ses msg s = .next fin) : Keeps False False True False False False False False False False False False False True False False False False s fin := by
  have h_s : Keeps False False True False False False False False False False False False False True False False False False s s := Keeps.refl s
  unfold execGetCertificate at h
  obtain rfl := Host.Outcome.next.inj h
  try dsimp only
  repeat' first
    | (with_reducible first
      | assumption | apply ite_keeps | apply ite_keeps2 | apply ite_keeps1 | apply State.live_keeps
      | apply State.spdmError_keeps | apply State.spdmPlain_keeps | apply State.spdmReq_keeps)
    | (intro _ _ _; try dsimp only) | (intro _ _; try dsimp only) | (intro _; try dsimp only) | split | dsimp only

theorem execChallenge_keeps {tr : Fin 11} {ses : Option Nat} {msg : List Byte} {s : State} {fin : State} (h : execChallenge tr ses msg s = .next fin) : Keeps False False True False False False False False False False False False False True False False False False s fin := by
  have h_s : Keeps False False True False False False False False False False False False False True False False False False s s := Keeps.refl s
  unfold execChallenge at h
  obtain rfl := Host.Outcome.next.inj h
  try dsimp only
  repeat' first
    | (with_reducible first
      | assumption | apply ite_keeps | apply State.live_keeps | apply State.spdmError_keeps | apply State.spdmReq_keeps
      | apply State.spdmSigned_keeps)
    | (intro _ _ _; try dsimp only) | (intro _ _; try dsimp only) | (intro _; try dsimp only) | split | dsimp only

theorem execGetMeasurements_keeps {tr : Fin 11} {ses : Option Nat} {msg : List Byte} {s : State} {fin : State} (h : execGetMeasurements tr ses msg s = .next fin) : Keeps False False True False False False False False False False False False False True False False False False s fin := by
  have h_s : Keeps False False True False False False False False False False False False False True False False False False s s := Keeps.refl s
  unfold execGetMeasurements at h
  obtain rfl := Host.Outcome.next.inj h
  try dsimp only
  repeat' first
    | (with_reducible first
      | assumption | apply ite_keeps | apply ite_keeps2 | apply ite_keeps1 | apply State.live_keeps
      | apply State.spdmError_keeps | apply State.spdmPlain_keeps | apply State.spdmReq_keeps | apply State.spdmSigned_keeps)
    | (intro _ _ _; try dsimp only) | (intro _ _; try dsimp only) | (intro _; try dsimp only) | split | dsimp only

theorem execKeyExchange_keeps {tr : Fin 11} {ses : Option Nat} {msg : List Byte} {s : State} {fin : State} (h : execKeyExchange tr ses msg s = .next fin) : Keeps False False True False False False False False False False False False False True False False False False s fin := by
  have h_s : Keeps False False True False False False False False False False False False False True False False False False s s := Keeps.refl s
  unfold execKeyExchange at h
  obtain rfl := Host.Outcome.next.inj h
  try dsimp only
  repeat' first
    | (with_reducible first
      | assumption | apply ite_keeps | apply ite_keeps2 | apply ite_keeps1 | apply State.live_keeps
      | apply State.spdmError_keeps | apply State.spdmReq_keeps | apply State.spdmSigned_keeps | apply State.tick_keeps)
    | (intro _ _ _; try dsimp only) | (intro _ _; try dsimp only) | (intro _; try dsimp only)
    | (apply Keeps.mk; dsimp only; with_reducible refine Keeps.upd ?_) | split | dsimp only

theorem execFinish_keeps {tr : Fin 11} {ses : Option Nat} {msg : List Byte} {macOk : Bool} {s : State} {fin : State} (h : execFinish tr ses msg macOk s = .next fin) : Keeps False False True False False False False False False False False False False True False False False False s fin := by
  have h_s : Keeps False False True False False False False False False False False False False True False False False False s s := Keeps.refl s
  unfold execFinish at h
  obtain rfl := Host.Outcome.next.inj h
  try dsimp only
  repeat' first
    | (with_reducible first
      | assumption | apply ite_keeps | apply State.endSession_keeps | apply State.live_keeps | apply State.modSession_keeps
      | apply State.spdmError_keeps | apply State.spdmPlain_keeps | apply State.spdmReq_keeps)
    | (intro _ _ _; try dsimp only) | (intro _ _; try dsimp only) | (intro _; try dsimp only)
    | (apply Keeps.mk; dsimp only; with_reducible refine Keeps.upd ?_) | split | dsimp only

theorem State.inSession_keeps {root : State} {s : State} {tr : Nat} {ses : Option Nat} {f : Nat → State → State} (h_s : Keeps q1 q2 True q4 q5 q6 q7 q8 q9 q10 q11 q12 q13 True q15 q16 q17 q18 root s) (h_f : ∀ (x0 : Nat) (x1 : State), Keeps q1 q2 True q4 q5 q6 q7 q8 q9 q10 q11 q12 q13 True q15 q16 q17 q18 root x1 → Keeps q1 q2 True q4 q5 q6 q7 q8 q9 q10 q11 q12 q13 True q15 q16 q17 q18 root (f x0 x1)) : Keeps q1 q2 True q4 q5 q6 q7 q8 q9 q10 q11 q12 q13 True q15 q16 q17 q18 root (State.inSession s tr ses f) := by
  unfold State.inSession
  try dsimp only
  repeat' first
    | (with_reducible first
      | assumption | apply ite_keeps | apply h_f | apply State.spdmError_keeps | apply State.spdmReq_keeps)
    | (intro _ _ _; try dsimp only) | (intro _ _; try dsimp only) | (intro _; try dsimp only)
    | (apply Keeps.mk; dsimp only; with_reducible refine Keeps.upd ?_) | split | dsimp only

theorem execKeyUpdate_keeps {tr : Fin 11} {ses : Option Nat} {msg : List Byte} {all : Bool} {s : State} {fin : State} (h : execKeyUpdate tr ses msg all s = .next fin) : Keeps False False True False False False False False False False False False False True False False False False s fin := by
  have h_s : Keeps False False True False False False False False False False False False False True False False False False s s := Keeps.refl s
  unfold execKeyUpdate at h
  obtain rfl := Host.Outcome.next.inj h
  try dsimp only
  repeat' first
    | (with_reducible first
      | assumption | apply State.inSession_keeps | apply State.live_keeps | apply State.modSession_keeps
      | apply State.spdmPlain_keeps)
    | (intro _ _ _; try dsimp only) | (intro _ _; try dsimp only) | (intro _; try dsimp only)
    | (apply Keeps.mk; dsimp only; with_reducible refine Keeps.upd ?_) | dsimp only

theorem execHeartbeat_keeps {tr : Fin 11} {ses : Option Nat} {msg : List Byte} {s : State} {fin : State} (h : execHeartbeat tr ses msg s = .next fin) : Keeps False False True False False False False False False False False False False True False False False False s fin := by
  have h_s : Keeps False False True False False False False False False False False False False True False False False False s s := Keeps.refl s
  unfold execHeartbeat at h
  obtain rfl := Host.Outcome.next.inj h
  try dsimp only
  repeat' first
    | (with_reducible first
      | assumption | apply State.inSession_keeps | apply State.live_keeps | apply State.spdmPlain_keeps)
    | (intro _ _ _; try dsimp only) | (intro _ _; try dsimp only) | (intro _; try dsimp only) | dsimp only

theorem execEndSession_keeps {tr : Fin 11} {ses : Option Nat} {msg : List Byte} {s : State} {fin : State} (h : execEndSession tr ses msg s = .next fin) : Keeps False False True False False False False False False False False False False True False False False False s fin := by
  have h_s : Keeps False False True False False False False False False False False False False True False False False False s s := Keeps.refl s
  unfold execEndSession at h
  obtain rfl := Host.Outcome.next.inj h
  try dsimp only
  repeat' first
    | (with_reducible first
      | assumption | apply State.endSession_keeps | apply State.inSession_keeps | apply State.live_keeps
      | apply State.spdmPlain_keeps)
    | (intro _ _ _; try dsimp only) | (intro _ _; try dsimp only) | (intro _; try dsimp only) | dsimp only

theorem execPqGetCert_keeps {tr : Fin 11} {ses : Option Nat} {msg : List Byte} {s : State} {fin : State} (h : execPqGetCert tr ses msg s = .next fin) : Keeps False False True False False False False False False False False False False True False False False False s fin := by
  have h_s : Keeps False False True False False False False False False False False False False True False False False False s s := Keeps.refl s
  unfold execPqGetCert at h
  obtain rfl := Host.Outcome.next.inj h
  try dsimp only
  repeat' first
    | (with_reducible first
      | assumption | apply State.live_keeps | apply State.spdmPlain_keeps | apply State.spdmReq_keeps)
    | (intro _ _ _; try dsimp only) | (intro _ _; try dsimp only) | (intro _; try dsimp only) | dsimp only

theorem execPqSign_keeps {tr : Fin 11} {ses : Option Nat} {msg : List Byte} {s : State} {fin : State} (h : execPqSign tr ses msg s = .next fin) : Keeps False False True False False False False False False False False False False True False False False False s fin := by
  have h_s : Keeps False False True False False False False False False False False False False True False False False False s s := Keeps.refl s
  unfold execPqSign at h
  obtain rfl := Host.Outcome.next.inj h
  try dsimp only
  repeat' first
    | (with_reducible first
      | assumption | apply State.live_keeps | apply State.spdmError_keeps | apply State.spdmPlain_keeps
      | apply State.spdmReq_keeps)
    | (intro _ _ _; try dsimp only) | (intro _ _; try dsimp only) | (intro _; try dsimp only)
    | (apply Keeps.mk; dsimp only; with_reducible refine Keeps.upd ?_) | split | dsimp only

theorem execSetPwk_keeps {tr : Fin 11} {ses : Option Nat} {msg : List Byte} {p : Part} {key : List Byte} {s : State} {fin : State} (h : execSetPwk tr ses msg p key s = .next fin) : Keeps False False True False False False False False False False False False False True False False False False s fin := by
  have h_s : Keeps False False True False False False False False False False False False False True False False False False s s := Keeps.refl s
  unfold execSetPwk at h
  obtain rfl := Host.Outcome.next.inj h
  try dsimp only
  repeat' first
    | (with_reducible first
      | assumption | apply ite_keeps | apply State.inSession_keeps | apply State.live_keeps | apply State.modPart_keeps
      | apply State.spdmError_keeps | apply State.spdmPlain_keeps)
    | (intro _ _ _; try dsimp only) | (intro _ _; try dsimp only) | (intro _; try dsimp only)
    | (apply Keeps.mk; dsimp only; with_reducible refine Keeps.upd ?_) | split | dsimp only

theorem execGetDebugLog_keeps {tr : Fin 11} {ses : Option Nat} {msg : List Byte} {s : State} {fin : State} (h : execGetDebugLog tr ses msg s = .next fin) : Keeps False False True False False False False False False False False False False True False False False False s fin := by
  have h_s : Keeps False False True False False False False False False False False False False True False False False False s s := Keeps.refl s
  unfold execGetDebugLog at h
  obtain rfl := Host.Outcome.next.inj h
  try dsimp only
  repeat' first
    | (with_reducible first
      | assumption | apply ite_keeps | apply ite_keeps2 | apply ite_keeps1 | apply State.live_keeps
      | apply State.spdmPlain_keeps | apply State.spdmReq_keeps)
    | (intro _ _ _; try dsimp only) | (intro _ _; try dsimp only) | (intro _; try dsimp only)
    | (apply Keeps.mk; dsimp only; with_reducible refine Keeps.upd ?_) | split | dsimp only

theorem State.modIde_keeps {root : State} {s : State} {k : Nat} {f : IdeStream → IdeStream} (h_s : Keeps q1 q2 q3 q4 q5 q6 q7 q8 q9 q10 q11 q12 q13 True q15 q16 q17 q18 root s) : Keeps q1 q2 q3 q4 q5 q6 q7 q8 q9 q10 q11 q12 q13 True q15 q16 q17 q18 root (State.modIde s k f) := by
  unfold State.modIde
  try dsimp only
  repeat' first
    | (with_reducible first
      | assumption)
    | (apply Keeps.mk; dsimp only; with_reducible refine Keeps.upd ?_) | dsimp only

theorem State.ideReq_keeps {root : State} {s : State} {tr : Nat} {ses : Option Nat} {f : State → State} (h_s : Keeps q1 q2 True q4 q5 q6 q7 q8 q9 q10 q11 q12 q13 True q15 q16 q17 q18 root s) (h_f : ∀ (x0 : State), Keeps q1 q2 True q4 q5 q6 q7 q8 q9 q10 q11 q12 q13 True q15 q16 q17 q18 root x0 → Keeps q1 q2 True q4 q5 q6 q7 q8 q9 q10 q11 q12 q13 True q15 q16 q17 q18 root (f x0)) : Keeps q1 q2 True q4 q5 q6 q7 q8 q9 q10 q11 q12 q13 True q15 q16 q17 q18 root (State.ideReq s tr ses f) := by
  unfold State.ideReq
  try dsimp only
  repeat' first
    | (with_reducible first
      | assumption | apply ite_keeps | apply h_f | apply State.inSession_keeps | apply State.spdmError_keeps)
    | (intro _ _ _; try dsimp only) | (intro _ _; try dsimp only) | (intro _; try dsimp only) | split | dsimp only

theorem execKeyProg_keeps {tr : Fin 11} {ses : Option Nat} {msg : List Byte} {stream : Fin 9} {set : Bool} {sub : Fin 3} {tx : Bool} {key : List Byte} {s : State} {fin : State} (h : execKeyProg tr ses msg stream set sub tx key s = .next fin) : Keeps False False True False False False False False False False False False False True False False False False s fin := by
  have h_s : Keeps False False True False False False False False False False False False False True False False False False s s := Keeps.refl s
  unfold execKeyProg at h
  obtain rfl := Host.Outcome.next.inj h
  try dsimp only
  repeat' first
    | (with_reducible first
      | assumption | apply State.emit_keeps | apply State.ideReq_keeps | apply State.live_keeps | apply State.modIde_keeps
      | apply State.spdmPlain_keeps)
    | (intro _ _ _; try dsimp only) | (intro _ _; try dsimp only) | (intro _; try dsimp only)
    | (apply Keeps.mk; dsimp only; with_reducible refine Keeps.upd ?_) | dsimp only

theorem execKSetGo_keeps {tr : Fin 11} {ses : Option Nat} {msg : List Byte} {stream : Fin 9} {set : Bool} {sub : Fin 3} {tx : Bool} {s : State} {fin : State} (h : execKSetGo tr ses msg stream set sub tx s = .next fin) : Keeps False False True False False False False False False False False False False True False False False False s fin := by
  have h_s : Keeps False False True False False False False False False False False False False True False False False False s s := Keeps.refl s
  unfold execKSetGo at h
  obtain rfl := Host.Outcome.next.inj h
  try dsimp only
  repeat' first
    | (with_reducible first
      | assumption | apply ite_keeps | apply ite_keeps2 | apply ite_keeps1 | apply State.emit_keeps
      | apply State.ideReq_keeps | apply State.live_keeps | apply State.modIde_keeps | apply State.spdmPlain_keeps)
    | (intro _ _ _; try dsimp only) | (intro _ _; try dsimp only) | (intro _; try dsimp only)
    | (apply Keeps.mk; dsimp only; with_reducible refine Keeps.upd ?_) | split | dsimp only

theorem execKSetStop_keeps {tr : Fin 11} {ses : Option Nat} {msg : List Byte} {stream : Fin 9} {set : Bool} {sub : Fin 3} {tx : Bool} {s : State} {fin : State} (h : execKSetStop tr ses msg stream set sub tx s = .next fin) : Keeps False False True False False False False False False False False False False True False False False False s fin := by
  have h_s : Keeps False False True False False False False False False False False False False True False False False False s s := Keeps.refl s
  unfold execKSetStop at h
  obtain rfl := Host.Outcome.next.inj h
  try dsimp only
  repeat' first
    | (with_reducible first
      | assumption | apply State.emit_keeps | apply State.ideReq_keeps | apply State.live_keeps | apply State.modIde_keeps
      | apply State.spdmPlain_keeps)
    | (intro _ _ _; try dsimp only) | (intro _ _; try dsimp only) | (intro _; try dsimp only)
    | (apply Keeps.mk; dsimp only; with_reducible refine Keeps.upd ?_) | dsimp only

theorem execIdeErr_keeps {stream : Fin 9} {s : State} {fin : State} (h : execIdeErr stream s = .next fin) : Keeps False False True False False False False False False False False False False True False False False False s fin := by
  have h_s : Keeps False False True False False False False False False False False False False True False False False False s s := Keeps.refl s
  unfold execIdeErr at h
  obtain rfl := Host.Outcome.next.inj h
  try dsimp only
  repeat' first
    | (with_reducible first
      | assumption | apply ite_keeps | apply ite_keeps2 | apply ite_keeps1 | apply State.bump_keeps | apply State.live_keeps
      | apply State.modIde_keeps | apply State.raise_keeps)
    | (intro _ _ _; try dsimp only) | (intro _ _; try dsimp only) | (intro _; try dsimp only)
    | (apply Keeps.mk; dsimp only; with_reducible refine Keeps.upd ?_) | split | dsimp only

theorem execTapLeaveReset_keeps {t : Nat} {s : State} {fin : State} (h : execTapLeaveReset t s = .next fin) : Keeps False False True False False True False False True False False False False True False False True False s fin := by
  have h_s : Keeps False False True False False True False False True False False False False True False False True False s s := Keeps.refl s
  unfold execTapLeaveReset at h
  obtain rfl := Host.Outcome.next.inj h
  try dsimp only
  repeat' first
    | (with_reducible first
      | assumption | apply ite_keeps | apply ite_keeps2 | apply ite_keeps1 | apply State.advance_keeps
      | apply State.debugBegin_keeps | apply State.live_keeps)
    | (intro _ _ _; try dsimp only) | (intro _ _; try dsimp only) | (intro _; try dsimp only)
    | (apply Keeps.mk; dsimp only; with_reducible refine Keeps.upd ?_) | split | dsimp only

theorem execTapReset_keeps {t : Nat} {s : State} {fin : State} (h : execTapReset t s = .next fin) : Keeps False False True False False True False False True False False False False True False False True False s fin := by
  have h_s : Keeps False False True False False True False False True False False False False True False False True False s s := Keeps.refl s
  unfold execTapReset at h
  obtain rfl := Host.Outcome.next.inj h
  try dsimp only
  repeat' first
    | (with_reducible first
      | assumption | apply ite_keeps | apply ite_keeps2 | apply ite_keeps1 | apply State.advance_keeps
      | apply State.debugEnd_keeps | apply State.live_keeps)
    | (intro _ _ _; try dsimp only) | (intro _ _; try dsimp only) | (intro _; try dsimp only)
    | (apply Keeps.mk; dsimp only; with_reducible refine Keeps.upd ?_) | split | dsimp only

end Sys2Proof.Machine
end

