-- ==== Sys2Proof/Laws/KeepsGroundskeeper.lean ====
section
/-!
SUPPORT. What the definitions of Machine/Groundskeeper.lean keep, each by the definitions it is made of.
-/

namespace Sys2Proof.Machine

open Sys2Proof

set_option Elab.async false

set_option linter.unusedVariables false
set_option linter.unreachableTactic false
set_option linter.unusedTactic false



variable {q1 q2 q3 q4 q5 q6 q7 q8 q9 q10 q11 q12 q13 q14 q15 q16 q17 q18 : Prop}

theorem State.tapRun_keeps {root : State} {s : State} {ir word : Nat} (h_s : Keeps q1 q2 True q4 q5 q6 q7 q8 q9 q10 q11 q12 q13 q14 q15 q16 True q18 root s) : Keeps q1 q2 True q4 q5 q6 q7 q8 q9 q10 q11 q12 q13 q14 q15 q16 True q18 root (State.tapRun s ir word) := by
  unfold State.tapRun
  try dsimp only
  repeat' first
    | (with_reducible first
      | assumption | apply ite_keeps | apply State.emit_keeps)
    | (apply Keeps.mk; dsimp only; with_reducible refine Keeps.upd ?_) | split | dsimp only

theorem State.tapHeld_keeps {root : State} {s : State} {ir word : Nat} (h_s : Keeps q1 q2 True q4 q5 q6 q7 q8 q9 q10 q11 q12 q13 q14 q15 q16 True q18 root s) : Keeps q1 q2 True q4 q5 q6 q7 q8 q9 q10 q11 q12 q13 q14 q15 q16 True q18 root (State.tapHeld s ir word) := by
  unfold State.tapHeld
  try dsimp only
  repeat' first
    | (with_reducible first
      | assumption | apply ite_keeps | apply State.tapRun_keeps)
    | split | dsimp only

theorem execIdcode_keeps  {s : State} {fin : State} (h : execIdcode s = .next fin) : Keeps False False True False False False False False False False False False False False False False True False s fin := by
  have h_s : Keeps False False True False False False False False False False False False False False False False True False s s := Keeps.refl s
  unfold execIdcode at h
  obtain rfl := Host.Outcome.next.inj h
  try dsimp only
  repeat' first
    | (with_reducible first
      | assumption | apply State.tapRun_keeps)
    | dsimp only

theorem execBypass_keeps  {s : State} {fin : State} (h : execBypass s = .next fin) : Keeps False False True False False False False False False False False False False False False False True False s fin := by
  have h_s : Keeps False False True False False False False False False False False False False False False False True False s s := Keeps.refl s
  unfold execBypass at h
  obtain rfl := Host.Outcome.next.inj h
  try dsimp only
  repeat' first
    | (with_reducible first
      | assumption | apply State.tapRun_keeps)
    | dsimp only

theorem execSamplePreload_keeps {pins load : Nat} {s : State} {fin : State} (h : execSamplePreload pins load s = .next fin) : Keeps False False True False False False False False False False False False False False False False True False s fin := by
  have h_s : Keeps False False True False False False False False False False False False False False False False True False s s := Keeps.refl s
  unfold execSamplePreload at h
  obtain rfl := Host.Outcome.next.inj h
  try dsimp only
  repeat' first
    | (with_reducible first
      | assumption | apply ite_keeps | apply State.tapRun_keeps)
    | (apply Keeps.mk; dsimp only; with_reducible refine Keeps.upd ?_) | split | dsimp only

theorem execExtest_keeps {pins load : Nat} {s : State} {fin : State} (h : execExtest pins load s = .next fin) : Keeps False False True False False False False False False False False False False False False False True False s fin := by
  have h_s : Keeps False False True False False False False False False False False False False False False False True False s s := Keeps.refl s
  unfold execExtest at h
  obtain rfl := Host.Outcome.next.inj h
  try dsimp only
  repeat' first
    | (with_reducible first
      | assumption | apply ite_keeps | apply State.tapHeld_keeps)
    | (apply Keeps.mk; dsimp only; with_reducible refine Keeps.upd ?_) | split | dsimp only

theorem execClamp_keeps  {s : State} {fin : State} (h : execClamp s = .next fin) : Keeps False False True False False False False False False False False False False False False False True False s fin := by
  have h_s : Keeps False False True False False False False False False False False False False False False False True False s s := Keeps.refl s
  unfold execClamp at h
  obtain rfl := Host.Outcome.next.inj h
  try dsimp only
  repeat' first
    | (with_reducible first
      | assumption | apply State.tapHeld_keeps)
    | dsimp only

theorem execHighz_keeps  {s : State} {fin : State} (h : execHighz s = .next fin) : Keeps False False True False False False False False False False False False False False False False True False s fin := by
  have h_s : Keeps False False True False False False False False False False False False False False False False True False s s := Keeps.refl s
  unfold execHighz at h
  obtain rfl := Host.Outcome.next.inj h
  try dsimp only
  repeat' first
    | (with_reducible first
      | assumption | apply State.tapHeld_keeps)
    | dsimp only

theorem State.mbAnswer_keeps {root : State} {s : State} {lost : Bool} {data : List (BitVec 8)} (h_s : Keeps q1 q2 True True q5 q6 q7 q8 q9 q10 q11 q12 q13 q14 q15 q16 True q18 root s) : Keeps q1 q2 True True q5 q6 q7 q8 q9 q10 q11 q12 q13 q14 q15 q16 True q18 root (State.mbAnswer s lost data) := by
  unfold State.mbAnswer
  try dsimp only
  repeat' first
    | (with_reducible first
      | assumption | apply State.raise_keeps | apply foldl_keeps)
    | (intro _ _ _; try dsimp only) | (intro _ _; try dsimp only) | (intro _; try dsimp only)
    | (apply Keeps.mk; dsimp only; with_reducible refine Keeps.upd ?_) | dsimp only

theorem State.mbRefuse_keeps {root : State} {s : State} {code : Nat} (h_s : Keeps q1 q2 True q4 q5 q6 q7 q8 q9 q10 q11 q12 q13 q14 q15 q16 True q18 root s) : Keeps q1 q2 True q4 q5 q6 q7 q8 q9 q10 q11 q12 q13 q14 q15 q16 True q18 root (State.mbRefuse s code) := by
  unfold State.mbRefuse
  try dsimp only
  repeat' first
    | (with_reducible first
      | assumption | apply State.raise_keeps)
    | (apply Keeps.mk; dsimp only; with_reducible refine Keeps.upd ?_) | dsimp only

theorem State.mbRun_keeps {root : State} {s : State} {op len : Nat} (h_s : Keeps q1 q2 True True q5 q6 q7 q8 q9 q10 q11 q12 q13 q14 q15 q16 True q18 root s) : Keeps q1 q2 True True q5 q6 q7 q8 q9 q10 q11 q12 q13 q14 q15 q16 True q18 root (State.mbRun s op len) := by
  unfold State.mbRun
  try dsimp only
  repeat' first
    | (with_reducible first
      | assumption | apply ite_keeps | apply ite_keeps2 | apply ite_keeps1 | apply State.mbAnswer_keeps
      | apply State.mbRefuse_keeps)
    | (apply Keeps.mk; dsimp only; with_reducible refine Keeps.upd ?_) | split | dsimp only

theorem State.mbCommand_keeps {root : State} {s : State} {v : View} {op len t : Nat} (h_s : Keeps q1 q2 True True q5 True q7 q8 True q10 q11 q12 q13 q14 q15 q16 True q18 root s) : Keeps q1 q2 True True q5 True q7 q8 True q10 q11 q12 q13 q14 q15 q16 True q18 root (State.mbCommand s v op len t) := by
  unfold State.mbCommand
  try dsimp only
  repeat' first
    | (with_reducible first
      | assumption | apply ite_keeps | apply State.advance_keeps | apply State.dropped_keeps | apply State.mbRun_keeps
      | apply State.onPage_keeps)
    | (intro _ _ _; try dsimp only) | (intro _ _; try dsimp only) | (intro _; try dsimp only)
    | (apply Keeps.mk; dsimp only; with_reducible refine Keeps.upd ?_) | split | dsimp only

theorem execGetInfo_keeps {v : View} {len : Fin 256} {t : Nat} {s : State} {fin : State} (h : execGetInfo v len t s = .next fin) : Keeps False False True True False True False False True False False False False False False False True False s fin := by
  have h_s : Keeps False False True True False True False False True False False False False False False False True False s s := Keeps.refl s
  unfold execGetInfo at h
  obtain rfl := Host.Outcome.next.inj h
  try dsimp only
  repeat' first
    | (with_reducible first
      | assumption | apply State.live_keeps | apply State.mbCommand_keeps)
    | (intro _ _ _; try dsimp only) | (intro _ _; try dsimp only) | (intro _; try dsimp only) | dsimp only

theorem execReadSensors_keeps {v : View} {len : Fin 256} {t : Nat} {s : State} {fin : State} (h : execReadSensors v len t s = .next fin) : Keeps False False True True False True False False True False False False False False False False True False s fin := by
  have h_s : Keeps False False True True False True False False True False False False False False False False True False s s := Keeps.refl s
  unfold execReadSensors at h
  obtain rfl := Host.Outcome.next.inj h
  try dsimp only
  repeat' first
    | (with_reducible first
      | assumption | apply State.live_keeps | apply State.mbCommand_keeps)
    | (intro _ _ _; try dsimp only) | (intro _ _; try dsimp only) | (intro _; try dsimp only) | dsimp only

theorem execReadAlmanac_keeps {v : View} {len : Fin 256} {t : Nat} {s : State} {fin : State} (h : execReadAlmanac v len t s = .next fin) : Keeps False False True True False True False False True False False False False False False False True False s fin := by
  have h_s : Keeps False False True True False True False False True False False False False False False False True False s s := Keeps.refl s
  unfold execReadAlmanac at h
  obtain rfl := Host.Outcome.next.inj h
  try dsimp only
  repeat' first
    | (with_reducible first
      | assumption | apply State.live_keeps | apply State.mbCommand_keeps)
    | (intro _ _ _; try dsimp only) | (intro _ _; try dsimp only) | (intro _; try dsimp only) | dsimp only

theorem execReadNote_keeps {v : View} {len : Fin 256} {t : Nat} {s : State} {fin : State} (h : execReadNote v len t s = .next fin) : Keeps False False True True False True False False True False False False False False False False True False s fin := by
  have h_s : Keeps False False True True False True False False True False False False False False False False True False s s := Keeps.refl s
  unfold execReadNote at h
  obtain rfl := Host.Outcome.next.inj h
  try dsimp only
  repeat' first
    | (with_reducible first
      | assumption | apply State.live_keeps | apply State.mbCommand_keeps)
    | (intro _ _ _; try dsimp only) | (intro _ _; try dsimp only) | (intro _; try dsimp only) | dsimp only

theorem execReadFaults_keeps {v : View} {len : Fin 256} {t : Nat} {s : State} {fin : State} (h : execReadFaults v len t s = .next fin) : Keeps False False True True False True False False True False False False False False False False True False s fin := by
  have h_s : Keeps False False True True False True False False True False False False False False False False True False s s := Keeps.refl s
  unfold execReadFaults at h
  obtain rfl := Host.Outcome.next.inj h
  try dsimp only
  repeat' first
    | (with_reducible first
      | assumption | apply State.live_keeps | apply State.mbCommand_keeps)
    | (intro _ _ _; try dsimp only) | (intro _ _; try dsimp only) | (intro _; try dsimp only) | dsimp only

theorem execCoreHalt_keeps {t : Nat} {s : State} {fin : State} (h : execCoreHalt t s = .next fin) : Keeps False False True False False True False False True False False False False False False False True False s fin := by
  have h_s : Keeps False False True False False True False False True False False False False False False False True False s s := Keeps.refl s
  unfold execCoreHalt at h
  obtain rfl := Host.Outcome.next.inj h
  try dsimp only
  repeat' first
    | (with_reducible first
      | assumption | apply ite_keeps | apply ite_keeps2 | apply ite_keeps1 | apply State.advance_keeps
      | apply State.live_keeps)
    | (intro _ _ _; try dsimp only) | (intro _ _; try dsimp only) | (intro _; try dsimp only)
    | (apply Keeps.mk; dsimp only; with_reducible refine Keeps.upd ?_) | split | dsimp only

theorem execCoreResume_keeps {t : Nat} {s : State} {fin : State} (h : execCoreResume t s = .next fin) : Keeps False False True True False True False False True False False False False False False False True False s fin := by
  have h_s : Keeps False False True True False True False False True False False False False False False False True False s s := Keeps.refl s
  unfold execCoreResume at h
  obtain rfl := Host.Outcome.next.inj h
  try dsimp only
  repeat' first
    | (with_reducible first
      | assumption | apply ite_keeps | apply ite_keeps2 | apply ite_keeps1 | apply State.advance_keeps
      | apply State.live_keeps | apply State.mbRun_keeps)
    | (intro _ _ _; try dsimp only) | (intro _ _; try dsimp only) | (intro _; try dsimp only)
    | (apply Keeps.mk; dsimp only; with_reducible refine Keeps.upd ?_) | split | dsimp only

theorem execEntdaa_keeps {addr : Fin 128} {s : State} {fin : State} (h : execEntdaa addr s = .next fin) : Keeps False False False False False False False False False False False False False False False False True False s fin := by
  have h_s : Keeps False False False False False False False False False False False False False False False False True False s s := Keeps.refl s
  unfold execEntdaa at h
  obtain rfl := Host.Outcome.next.inj h
  try dsimp only
  repeat' first
    | (with_reducible first
      | assumption | apply State.live_keeps)
    | (intro _ _ _; try dsimp only) | (intro _ _; try dsimp only) | (intro _; try dsimp only)
    | (apply Keeps.mk; dsimp only; with_reducible refine Keeps.upd ?_) | dsimp only

theorem execSetEndpointId_keeps {tr : Fin 2} {eid : Fin 256} {s : State} {fin : State} (h : execSetEndpointId tr eid s = .next fin) : Keeps False False True False False False False False False False False False False False False False True False s fin := by
  have h_s : Keeps False False True False False False False False False False False False False False False False True False s s := Keeps.refl s
  unfold execSetEndpointId at h
  obtain rfl := Host.Outcome.next.inj h
  try dsimp only
  repeat' first
    | (with_reducible first
      | assumption | apply ite_keeps | apply State.emit_keeps | apply State.live_keeps)
    | (intro _ _ _; try dsimp only) | (intro _ _; try dsimp only) | (intro _; try dsimp only)
    | (apply Keeps.mk; dsimp only; with_reducible refine Keeps.upd ?_) | split | dsimp only

theorem State.pldm_keeps {root : State} {s : State} {tr : Nat} {f : State → State} (h_s : Keeps q1 q2 True q4 q5 q6 q7 q8 q9 q10 q11 q12 q13 q14 q15 q16 q17 q18 root s) (h_f : ∀ (x0 : State), Keeps q1 q2 True q4 q5 q6 q7 q8 q9 q10 q11 q12 q13 q14 q15 q16 q17 q18 root x0 → Keeps q1 q2 True q4 q5 q6 q7 q8 q9 q10 q11 q12 q13 q14 q15 q16 q17 q18 root (f x0)) : Keeps q1 q2 True q4 q5 q6 q7 q8 q9 q10 q11 q12 q13 q14 q15 q16 q17 q18 root (State.pldm s tr f) := by
  unfold State.pldm
  try dsimp only
  repeat' first
    | (with_reducible first
      | assumption | apply ite_keeps | apply h_f | apply State.emit_keeps)
    | (intro _ _ _; try dsimp only) | (intro _ _; try dsimp only) | (intro _; try dsimp only) | split | dsimp only

theorem State.pldmAnswer_keeps {root : State} {s : State} {cmd tr req code : Nat} {words : List Nat} (h_s : Keeps q1 q2 True q4 q5 q6 q7 q8 q9 q10 q11 q12 q13 q14 q15 q16 q17 q18 root s) : Keeps q1 q2 True q4 q5 q6 q7 q8 q9 q10 q11 q12 q13 q14 q15 q16 q17 q18 root (State.pldmAnswer s cmd tr req code words) := by
  unfold State.pldmAnswer
  try dsimp only
  repeat' first
    | (with_reducible first
      | assumption | apply State.emit_keeps)
    | dsimp only

theorem execGetSensorReading_keeps {tr : Fin 2} {req id : Fin 256} {s : State} {fin : State} (h : execGetSensorReading tr req id s = .next fin) : Keeps False False True False False False False False False False False False False False False False False False s fin := by
  have h_s : Keeps False False True False False False False False False False False False False False False False False False s s := Keeps.refl s
  unfold execGetSensorReading at h
  obtain rfl := Host.Outcome.next.inj h
  try dsimp only
  repeat' first
    | (with_reducible first
      | assumption | apply ite_keeps | apply State.live_keeps | apply State.pldm_keeps | apply State.pldmAnswer_keeps)
    | (intro _ _ _; try dsimp only) | (intro _ _; try dsimp only) | (intro _; try dsimp only)
    | (apply Keeps.mk; dsimp only; with_reducible refine Keeps.upd ?_) | split | dsimp only

theorem execSetEventReceiver_keeps {tr : Fin 2} {req : Fin 256} {eid : Option Nat} {s : State} {fin : State} (h : execSetEventReceiver tr req eid s = .next fin) : Keeps False False True False False False False False False False False False False False False False True False s fin := by
  have h_s : Keeps False False True False False False False False False False False False False False False False True False s s := Keeps.refl s
  unfold execSetEventReceiver at h
  obtain rfl := Host.Outcome.next.inj h
  try dsimp only
  repeat' first
    | (with_reducible first
      | assumption | apply State.live_keeps | apply State.pldm_keeps | apply State.pldmAnswer_keeps)
    | (intro _ _ _; try dsimp only) | (intro _ _; try dsimp only) | (intro _; try dsimp only)
    | (apply Keeps.mk; dsimp only; with_reducible refine Keeps.upd ?_) | dsimp only

theorem execPlatformEventResend_keeps {seq : Fin 256} {t : Nat} {s : State} {fin : State} (h : execPlatformEventResend seq t s = .next fin) : Keeps False False True False False True False False True False False False False False False False True False s fin := by
  have h_s : Keeps False False True False False True False False True False False False False False False False True False s s := Keeps.refl s
  unfold execPlatformEventResend at h
  obtain rfl := Host.Outcome.next.inj h
  try dsimp only
  repeat' first
    | (with_reducible first
      | assumption | apply ite_keeps | apply ite_keeps2 | apply ite_keeps1 | apply State.advance_keeps
      | apply State.emit_keeps | apply State.live_keeps)
    | (intro _ _ _; try dsimp only) | (intro _ _; try dsimp only) | (intro _; try dsimp only)
    | (apply Keeps.mk; dsimp only; with_reducible refine Keeps.upd ?_) | split | dsimp only

theorem execPlatformEventAck_keeps {seq : Fin 256} {s : State} {fin : State} (h : execPlatformEventAck seq s = .next fin) : Keeps False False False False False False False False False False False False False False False False True False s fin := by
  have h_s : Keeps False False False False False False False False False False False False False False False False True False s s := Keeps.refl s
  unfold execPlatformEventAck at h
  obtain rfl := Host.Outcome.next.inj h
  try dsimp only
  repeat' first
    | (with_reducible first
      | assumption | apply ite_keeps | apply State.live_keeps)
    | (intro _ _ _; try dsimp only) | (intro _ _; try dsimp only) | (intro _; try dsimp only)
    | (apply Keeps.mk; dsimp only; with_reducible refine Keeps.upd ?_) | split | dsimp only

theorem State.modUpdate_keeps {root : State} {s : State} {f : Update → Update} (h_s : Keeps q1 q2 q3 q4 q5 q6 q7 q8 q9 q10 q11 q12 q13 q14 q15 q16 True q18 root s) : Keeps q1 q2 q3 q4 q5 q6 q7 q8 q9 q10 q11 q12 q13 q14 q15 q16 True q18 root (State.modUpdate s f) := by
  unfold State.modUpdate
  try dsimp only
  repeat' first
    | (with_reducible first
      | assumption)
    | (apply Keeps.mk; dsimp only; with_reducible refine Keeps.upd ?_) | dsimp only

theorem State.inUpdate_keeps {root : State} {s : State} {cmd tr req : Nat} {f : Update → State → State} (h_s : Keeps q1 q2 True q4 q5 q6 q7 q8 q9 q10 q11 q12 q13 q14 q15 q16 q17 q18 root s) (h_f : ∀ (x0 : Update) (x1 : State), Keeps q1 q2 True q4 q5 q6 q7 q8 q9 q10 q11 q12 q13 q14 q15 q16 q17 q18 root x1 → Keeps q1 q2 True q4 q5 q6 q7 q8 q9 q10 q11 q12 q13 q14 q15 q16 q17 q18 root (f x0 x1)) : Keeps q1 q2 True q4 q5 q6 q7 q8 q9 q10 q11 q12 q13 q14 q15 q16 q17 q18 root (State.inUpdate s cmd tr req f) := by
  unfold State.inUpdate
  try dsimp only
  repeat' first
    | (with_reducible first
      | assumption | apply ite_keeps | apply h_f | apply State.pldmAnswer_keeps)
    | (intro _ _ _; try dsimp only) | (intro _ _; try dsimp only) | (intro _; try dsimp only)
    | (apply Keeps.mk; dsimp only; with_reducible refine Keeps.upd ?_) | split | dsimp only

theorem execRequestUpdate_keeps {tr : Fin 2} {req : Fin 256} {s : State} {fin : State} (h : execRequestUpdate tr req s = .next fin) : Keeps False False True False False False False False False False False False False False False False True False s fin := by
  have h_s : Keeps False False True False False False False False False False False False False False False False True False s s := Keeps.refl s
  unfold execRequestUpdate at h
  obtain rfl := Host.Outcome.next.inj h
  try dsimp only
  repeat' first
    | (with_reducible first
      | assumption | apply ite_keeps | apply State.live_keeps | apply State.pldm_keeps | apply State.pldmAnswer_keeps)
    | (intro _ _ _; try dsimp only) | (intro _ _; try dsimp only) | (intro _; try dsimp only)
    | (apply Keeps.mk; dsimp only; with_reducible refine Keeps.upd ?_) | split | dsimp only

theorem execPassComponentTable_keeps {tr : Fin 2} {req : Fin 256} {types : List Nat} {s : State} {fin : State} (h : execPassComponentTable tr req types s = .next fin) : Keeps False False True False False False False False False False False False False False False False True False s fin := by
  have h_s : Keeps False False True False False False False False False False False False False False False False True False s s := Keeps.refl s
  unfold execPassComponentTable at h
  obtain rfl := Host.Outcome.next.inj h
  try dsimp only
  repeat' first
    | (with_reducible first
      | assumption | apply State.inUpdate_keeps | apply State.live_keeps | apply State.modUpdate_keeps
      | apply State.pldm_keeps | apply State.pldmAnswer_keeps)
    | (intro _ _ _; try dsimp only) | (intro _ _; try dsimp only) | (intro _; try dsimp only)
    | (apply Keeps.mk; dsimp only; with_reducible refine Keeps.upd ?_) | dsimp only

theorem execUpdateComponent_keeps {tr : Fin 2} {req : Fin 256} {type : Fin 16} {svn : Nat} {s : State} {fin : State} (h : execUpdateComponent tr req type svn s = .next fin) : Keeps False False True False False False False False False False False False False False False False True False s fin := by
  have h_s : Keeps False False True False False False False False False False False False False False False False True False s s := Keeps.refl s
  unfold execUpdateComponent at h
  obtain rfl := Host.Outcome.next.inj h
  try dsimp only
  repeat' first
    | (with_reducible first
      | assumption | apply ite_keeps | apply ite_keeps2 | apply ite_keeps1 | apply State.emit_keeps
      | apply State.inUpdate_keeps | apply State.live_keeps | apply State.modUpdate_keeps | apply State.pldm_keeps
      | apply State.pldmAnswer_keeps)
    | (intro _ _ _; try dsimp only) | (intro _ _; try dsimp only) | (intro _; try dsimp only)
    | (apply Keeps.mk; dsimp only; with_reducible refine Keeps.upd ?_) | split | dsimp only

theorem execFirmwareData_keeps {data : List Byte} {s : State} {fin : State} (h : execFirmwareData data s = .next fin) : Keeps False False True False False False False False False False False False False False False False True False s fin := by
  have h_s : Keeps False False True False False False False False False False False False False False False False True False s s := Keeps.refl s
  unfold execFirmwareData at h
  obtain rfl := Host.Outcome.next.inj h
  try dsimp only
  repeat' first
    | (with_reducible first
      | assumption | apply ite_keeps | apply ite_keeps2 | apply ite_keeps1 | apply State.emit_keeps | apply State.live_keeps
      | apply State.modUpdate_keeps)
    | (intro _ _ _; try dsimp only) | (intro _ _; try dsimp only) | (intro _; try dsimp only)
    | (apply Keeps.mk; dsimp only; with_reducible refine Keeps.upd ?_) | split | dsimp only

theorem execVerifyComplete_keeps {c : ObjCheck} {s : State} {fin : State} (h : execVerifyComplete c s = .next fin) : Keeps False False True False False False False False False False False False False False False False True False s fin := by
  have h_s : Keeps False False True False False False False False False False False False False False False False True False s s := Keeps.refl s
  unfold execVerifyComplete at h
  obtain rfl := Host.Outcome.next.inj h
  try dsimp only
  repeat' first
    | (with_reducible first
      | assumption | apply ite_keeps | apply ite_keeps2 | apply ite_keeps1 | apply State.dropUpdate_keeps
      | apply State.emit_keeps | apply State.live_keeps | apply State.modUpdate_keeps)
    | (intro _ _ _; try dsimp only) | (intro _ _; try dsimp only) | (intro _; try dsimp only)
    | (apply Keeps.mk; dsimp only; with_reducible refine Keeps.upd ?_) | split | dsimp only

theorem State.activate_keeps {root : State} {s : State} {almOk : Bool} (h_s : Keeps q1 q2 True q4 q5 q6 q7 q8 q9 q10 q11 q12 q13 q14 q15 True True q18 root s) : Keeps q1 q2 True q4 q5 q6 q7 q8 q9 q10 q11 q12 q13 q14 q15 True True q18 root (State.activate s almOk) := by
  unfold State.activate
  try dsimp only
  repeat' first
    | (with_reducible first
      | assumption | apply State.almanac_keeps | apply State.bump_keeps | apply State.notice_keeps)
    | (apply Keeps.mk; dsimp only; with_reducible refine Keeps.upd ?_) | dsimp only

theorem State.selfActivate_keeps {root : State} {s : State} (h_s : Keeps q1 q2 True q4 q5 q6 q7 q8 q9 q10 q11 q12 q13 True q15 q16 True q18 root s) : Keeps q1 q2 True q4 q5 q6 q7 q8 q9 q10 q11 q12 q13 True q15 q16 True q18 root (State.selfActivate s) := by
  unfold State.selfActivate
  try dsimp only
  repeat' first
    | (with_reducible first
      | assumption | apply State.gkRestart_keeps)
    | (apply Keeps.mk; dsimp only; with_reducible refine Keeps.upd ?_) | dsimp only

theorem execActivateFirmware_keeps {tr : Fin 2} {req : Fin 256} {self almOk : Bool} {t : Nat} {s : State} {fin : State} (h : execActivateFirmware tr req self almOk t s = .next fin) : Keeps False False True False False True False False True False False False False True False True True False s fin := by
  have h_s : Keeps False False True False False True False False True False False False False True False True True False s s := Keeps.refl s
  unfold execActivateFirmware at h
  obtain rfl := Host.Outcome.next.inj h
  try dsimp only
  repeat' first
    | (with_reducible first
      | assumption | apply ite_keeps | apply ite_keeps2 | apply ite_keeps1 | apply State.activate_keeps
      | apply State.advance_keeps | apply State.inUpdate_keeps | apply State.live_keeps | apply State.pldm_keeps
      | apply State.pldmAnswer_keeps | apply State.selfActivate_keeps)
    | (intro _ _ _; try dsimp only) | (intro _ _; try dsimp only) | (intro _; try dsimp only) | split | dsimp only

theorem execCancelUpdate_keeps {tr : Fin 2} {req : Fin 256} {s : State} {fin : State} (h : execCancelUpdate tr req s = .next fin) : Keeps False False True False False False False False False False False False False False False False True False s fin := by
  have h_s : Keeps False False True False False False False False False False False False False False False False True False s s := Keeps.refl s
  unfold execCancelUpdate at h
  obtain rfl := Host.Outcome.next.inj h
  try dsimp only
  repeat' first
    | (with_reducible first
      | assumption | apply State.dropUpdate_keeps | apply State.inUpdate_keeps | apply State.live_keeps
      | apply State.pldm_keeps | apply State.pldmAnswer_keeps)
    | (intro _ _ _; try dsimp only) | (intro _ _; try dsimp only) | (intro _; try dsimp only) | dsimp only

theorem execConsoleStatus_keeps {what : Fin 6} {s : State} {fin : State} (h : execConsoleStatus what s = .next fin) : Keeps False False True False False False False False False False False False False False False False False False s fin := by
  have h_s : Keeps False False True False False False False False False False False False False False False False False False s s := Keeps.refl s
  unfold execConsoleStatus at h
  obtain rfl := Host.Outcome.next.inj h
  try dsimp only
  repeat' first
    | (with_reducible first
      | assumption | apply ite_keeps | apply State.emit_keeps | apply State.live_keeps)
    | (intro _ _ _; try dsimp only) | (intro _ _; try dsimp only) | (intro _; try dsimp only) | split | dsimp only

theorem execConsoleLogin_keeps {ok : Bool} {t : Nat} {s : State} {fin : State} (h : execConsoleLogin ok t s = .next fin) : Keeps False False True False False True False False True False False False False True False False True False s fin := by
  have h_s : Keeps False False True False False True False False True False False False False True False False True False s s := Keeps.refl s
  unfold execConsoleLogin at h
  obtain rfl := Host.Outcome.next.inj h
  try dsimp only
  repeat' first
    | (with_reducible first
      | assumption | apply ite_keeps | apply ite_keeps2 | apply ite_keeps1 | apply State.advance_keeps
      | apply State.bump_keeps | apply State.debugBegin_keeps | apply State.emit_keeps | apply State.live_keeps
      | apply State.tick_keeps)
    | (intro _ _ _; try dsimp only) | (intro _ _; try dsimp only) | (intro _; try dsimp only)
    | (apply Keeps.mk; dsimp only; with_reducible refine Keeps.upd ?_) | split | dsimp only

theorem State.debugRead_keeps {root : State} {s : State} {addr len : Nat} (h_s : Keeps q1 q2 True q4 q5 q6 True True True q10 q11 q12 q13 q14 True q16 q17 q18 root s) : Keeps q1 q2 True q4 q5 q6 True True True q10 q11 q12 q13 q14 True q16 q17 q18 root (State.debugRead s addr len).2 := by
  unfold State.debugRead
  try dsimp only
  repeat' first
    | (with_reducible first
      | assumption | apply ite_keeps | apply ite_keeps2 | apply ite_keeps1 | apply State.dramRead_keeps
      | apply State.readRow_keeps | apply State.sproutBytes_keeps | apply foldl_keeps | apply foldl_keeps2
      | apply foldl_keeps1 | apply foldl_keeps22)
    | (intro _ _ _; try dsimp only) | (intro _ _; try dsimp only) | (intro _; try dsimp only)
    | (apply Keeps.mk; dsimp only; with_reducible refine Keeps.upd ?_) | split | dsimp only

theorem execConsoleDebug_keeps {x : ConsoleCmd} {t : Nat} {s : State} {fin : State} (h : execConsoleDebug x t s = .next fin) : Keeps False False True False False True True True True False False False False True True True True False s fin := by
  have h_s : Keeps False False True False False True True True True False False False False True True True True False s s := Keeps.refl s
  unfold execConsoleDebug at h
  obtain rfl := Host.Outcome.next.inj h
  try dsimp only
  repeat' first
    | (with_reducible first
      | assumption | apply ite_keeps | apply ite_keeps2 | apply ite_keeps1 | apply State.advance_keeps
      | apply State.almanac_keeps | apply State.badAccess_keeps | apply State.debugBegin_keeps | apply State.debugEnd_keeps
      | apply State.debugRead_keeps | apply State.emit_keeps | apply State.live_keeps | apply State.record_keeps)
    | (intro _ _ _; try dsimp only) | (intro _ _; try dsimp only) | (intro _; try dsimp only)
    | (apply Keeps.mk; dsimp only; with_reducible refine Keeps.upd ?_) | split | dsimp only

theorem execConsoleLogout_keeps {idle : Bool} {t : Nat} {s : State} {fin : State} (h : execConsoleLogout idle t s = .next fin) : Keeps False False True False False True False False True False False False False True False False False False s fin := by
  have h_s : Keeps False False True False False True False False True False False False False True False False False False s s := Keeps.refl s
  unfold execConsoleLogout at h
  obtain rfl := Host.Outcome.next.inj h
  try dsimp only
  repeat' first
    | (with_reducible first
      | assumption | apply ite_keeps | apply ite_keeps2 | apply ite_keeps1 | apply State.advance_keeps
      | apply State.live_keeps | apply State.logout_keeps)
    | (intro _ _ _; try dsimp only) | (intro _ _; try dsimp only) | (intro _; try dsimp only) | split | dsimp only

end Sys2Proof.Machine
end

