-- ==== Sys2Proof/Laws/KeepsSprouts.lean ====
section
/-!
SUPPORT. What the definitions of Machine/Sprouts.lean keep, each by the definitions it is made of.
-/

namespace Sys2Proof.Machine

open Sys2Proof

set_option Elab.async false

set_option linter.unusedVariables false
set_option linter.unreachableTactic false
set_option linter.unusedTactic false



variable {q1 q2 q3 q4 q5 q6 q7 q8 q9 q10 q11 q12 q13 q14 q15 q16 q17 q18 : Prop}

theorem execCmac_keeps {i : SproutId} {ax ay : Fin 8} {s : State} {fin : State} (h : execCmac i ax ay s = .next fin) : Keeps False False True False False False False True False False False False False False False False False True s fin := by
  have h_s : Keeps False False True False False False False True False False False False False False False False False True s s := Keeps.refl s
  unfold execCmac at h
  obtain rfl := Host.Outcome.next.inj h
  try dsimp only
  repeat' first
    | (with_reducible first
      | assumption | apply State.complexMac_keeps | apply State.live_keeps)
    | (intro _ _ _; try dsimp only) | (intro _ _; try dsimp only) | (intro _; try dsimp only) | dsimp only

theorem execCmacc_keeps {i : SproutId} {ax ay : Fin 8} {s : State} {fin : State} (h : execCmacc i ax ay s = .next fin) : Keeps False False True False False False False True False False False False False False False False False True s fin := by
  have h_s : Keeps False False True False False False False True False False False False False False False False False True s s := Keeps.refl s
  unfold execCmacc at h
  obtain rfl := Host.Outcome.next.inj h
  try dsimp only
  repeat' first
    | (with_reducible first
      | assumption | apply State.complexMac_keeps | apply State.live_keeps)
    | (intro _ _ _; try dsimp only) | (intro _ _; try dsimp only) | (intro _; try dsimp only) | dsimp only

theorem execCmsu_keeps {i : SproutId} {ax ay : Fin 8} {s : State} {fin : State} (h : execCmsu i ax ay s = .next fin) : Keeps False False True False False False False True False False False False False False False False False True s fin := by
  have h_s : Keeps False False True False False False False True False False False False False False False False False True s s := Keeps.refl s
  unfold execCmsu at h
  obtain rfl := Host.Outcome.next.inj h
  try dsimp only
  repeat' first
    | (with_reducible first
      | assumption | apply State.complexMac_keeps | apply State.live_keeps)
    | (intro _ _ _; try dsimp only) | (intro _ _; try dsimp only) | (intro _; try dsimp only) | dsimp only

theorem execCmul_keeps {i : SproutId} {ax ay : Fin 8} {s : State} {fin : State} (h : execCmul i ax ay s = .next fin) : Keeps False False True False False False False True False False False False False False False False False True s fin := by
  have h_s : Keeps False False True False False False False True False False False False False False False False False True s s := Keeps.refl s
  unfold execCmul at h
  obtain rfl := Host.Outcome.next.inj h
  try dsimp only
  repeat' first
    | (with_reducible first
      | assumption | apply State.complexMac_keeps | apply State.live_keeps)
    | (intro _ _ _; try dsimp only) | (intro _ _; try dsimp only) | (intro _; try dsimp only) | dsimp only

theorem execAclr_keeps {i : SproutId} {s : State} {fin : State} (h : execAclr i s = .next fin) : Keeps False False False False False False False False False False False False False False False False False True s fin := by
  have h_s : Keeps False False False False False False False False False False False False False False False False False True s s := Keeps.refl s
  unfold execAclr at h
  obtain rfl := Host.Outcome.next.inj h
  try dsimp only
  repeat' first
    | (with_reducible first
      | assumption | apply State.issue_keeps | apply State.live_keeps)
    | (intro _ _ _; try dsimp only) | (intro _ _; try dsimp only) | (intro _; try dsimp only)
    | (apply Keeps.mk; dsimp only; with_reducible refine Keeps.upd ?_) | dsimp only

theorem execRdacc_keeps {i : SproutId} {rd : SReg} {k : Int} {s : State} {fin : State} (h : execRdacc i rd k s = .next fin) : Keeps False False True False False False False False False False False False False False False False False True s fin := by
  have h_s : Keeps False False True False False False False False False False False False False False False False False True s s := Keeps.refl s
  unfold execRdacc at h
  obtain rfl := Host.Outcome.next.inj h
  try dsimp only
  repeat' first
    | (with_reducible first
      | assumption | apply State.issueAlu_keeps | apply State.live_keeps)
    | (intro _ _ _; try dsimp only) | (intro _ _; try dsimp only) | (intro _; try dsimp only) | dsimp only

theorem State.loadWord_keeps {root : State} {s : State} {i : SproutId} {rd : SReg} {a : Fin 8} {half : Nat} (h_s : Keeps q1 q2 True q4 q5 q6 q7 True q9 q10 q11 q12 q13 q14 q15 q16 q17 True root s) : Keeps q1 q2 True q4 q5 q6 q7 True q9 q10 q11 q12 q13 q14 q15 q16 q17 True root (State.loadWord s i rd a half) := by
  unfold State.loadWord
  try dsimp only
  repeat' first
    | (with_reducible first
      | assumption | apply State.issue_keeps | apply State.issueRead_keeps)
    | (intro _ _ _; try dsimp only) | (intro _ _; try dsimp only) | (intro _; try dsimp only) | dsimp only

theorem State.storeWord_keeps {root : State} {s : State} {i : SproutId} {rs : SReg} {a : Fin 8} {half : Nat} (h_s : Keeps True True True q4 q5 q6 q7 True q9 q10 q11 q12 q13 q14 q15 q16 q17 True root s) : Keeps True True True q4 q5 q6 q7 True q9 q10 q11 q12 q13 q14 q15 q16 q17 True root (State.storeWord s i rs a half) := by
  unfold State.storeWord
  try dsimp only
  repeat' first
    | (with_reducible first
      | assumption | apply State.dataWrite_keeps | apply State.issue_keeps | apply State.issueRead_keeps)
    | (intro _ _ _; try dsimp only) | (intro _ _; try dsimp only) | (intro _; try dsimp only) | dsimp only

theorem execLdx_keeps {i : SproutId} {rd : SReg} {a : Fin 8} {s : State} {fin : State} (h : execLdx i rd a s = .next fin) : Keeps False False True False False False False True False False False False False False False False False True s fin := by
  have h_s : Keeps False False True False False False False True False False False False False False False False False True s s := Keeps.refl s
  unfold execLdx at h
  obtain rfl := Host.Outcome.next.inj h
  try dsimp only
  repeat' first
    | (with_reducible first
      | assumption | apply State.live_keeps | apply State.loadWord_keeps)
    | (intro _ _ _; try dsimp only) | (intro _ _; try dsimp only) | (intro _; try dsimp only) | dsimp only

theorem execLdy_keeps {i : SproutId} {rd : SReg} {a : Fin 8} {s : State} {fin : State} (h : execLdy i rd a s = .next fin) : Keeps False False True False False False False True False False False False False False False False False True s fin := by
  have h_s : Keeps False False True False False False False True False False False False False False False False False True s s := Keeps.refl s
  unfold execLdy at h
  obtain rfl := Host.Outcome.next.inj h
  try dsimp only
  repeat' first
    | (with_reducible first
      | assumption | apply State.live_keeps | apply State.loadWord_keeps)
    | (intro _ _ _; try dsimp only) | (intro _ _; try dsimp only) | (intro _; try dsimp only) | dsimp only

theorem execStx_keeps {i : SproutId} {rs : SReg} {a : Fin 8} {s : State} {fin : State} (h : execStx i rs a s = .next fin) : Keeps True True True False False False False True False False False False False False False False False True s fin := by
  have h_s : Keeps True True True False False False False True False False False False False False False False False True s s := Keeps.refl s
  unfold execStx at h
  obtain rfl := Host.Outcome.next.inj h
  try dsimp only
  repeat' first
    | (with_reducible first
      | assumption | apply State.live_keeps | apply State.storeWord_keeps)
    | (intro _ _ _; try dsimp only) | (intro _ _; try dsimp only) | (intro _; try dsimp only) | dsimp only

theorem execSty_keeps {i : SproutId} {rs : SReg} {a : Fin 8} {s : State} {fin : State} (h : execSty i rs a s = .next fin) : Keeps True True True False False False False True False False False False False False False False False True s fin := by
  have h_s : Keeps True True True False False False False True False False False False False False False False False True s s := Keeps.refl s
  unfold execSty at h
  obtain rfl := Host.Outcome.next.inj h
  try dsimp only
  repeat' first
    | (with_reducible first
      | assumption | apply State.live_keeps | apply State.storeWord_keeps)
    | (intro _ _ _; try dsimp only) | (intro _ _; try dsimp only) | (intro _; try dsimp only) | dsimp only

theorem execAdd_keeps {i : SproutId} {packed : Bool} {rd ra rb : SReg} {s : State} {fin : State} (h : execAdd i packed rd ra rb s = .next fin) : Keeps False False True False False False False False False False False False False False False False False True s fin := by
  have h_s : Keeps False False True False False False False False False False False False False False False False False True s s := Keeps.refl s
  unfold execAdd at h
  obtain rfl := Host.Outcome.next.inj h
  try dsimp only
  repeat' first
    | (with_reducible first
      | assumption | apply State.issueAlu_keeps | apply State.live_keeps)
    | (intro _ _ _; try dsimp only) | (intro _ _; try dsimp only) | (intro _; try dsimp only) | dsimp only

theorem execSub_keeps {i : SproutId} {packed : Bool} {rd ra rb : SReg} {s : State} {fin : State} (h : execSub i packed rd ra rb s = .next fin) : Keeps False False True False False False False False False False False False False False False False False True s fin := by
  have h_s : Keeps False False True False False False False False False False False False False False False False False True s s := Keeps.refl s
  unfold execSub at h
  obtain rfl := Host.Outcome.next.inj h
  try dsimp only
  repeat' first
    | (with_reducible first
      | assumption | apply State.issueAlu_keeps | apply State.live_keeps)
    | (intro _ _ _; try dsimp only) | (intro _ _; try dsimp only) | (intro _; try dsimp only) | dsimp only

theorem execAbs_keeps {i : SproutId} {packed : Bool} {rd ra : SReg} {s : State} {fin : State} (h : execAbs i packed rd ra s = .next fin) : Keeps False False True False False False False False False False False False False False False False False True s fin := by
  have h_s : Keeps False False True False False False False False False False False False False False False False False True s s := Keeps.refl s
  unfold execAbs at h
  obtain rfl := Host.Outcome.next.inj h
  try dsimp only
  repeat' first
    | (with_reducible first
      | assumption | apply ite_keeps | apply State.issueAlu_keeps | apply State.live_keeps)
    | (intro _ _ _; try dsimp only) | (intro _ _; try dsimp only) | (intro _; try dsimp only) | split | dsimp only

theorem execNeg_keeps {i : SproutId} {packed : Bool} {rd ra : SReg} {s : State} {fin : State} (h : execNeg i packed rd ra s = .next fin) : Keeps False False True False False False False False False False False False False False False False False True s fin := by
  have h_s : Keeps False False True False False False False False False False False False False False False False False True s s := Keeps.refl s
  unfold execNeg at h
  obtain rfl := Host.Outcome.next.inj h
  try dsimp only
  repeat' first
    | (with_reducible first
      | assumption | apply State.issueAlu_keeps | apply State.live_keeps)
    | (intro _ _ _; try dsimp only) | (intro _ _; try dsimp only) | (intro _; try dsimp only) | dsimp only

theorem execMin_keeps {i : SproutId} {packed : Bool} {rd ra rb : SReg} {s : State} {fin : State} (h : execMin i packed rd ra rb s = .next fin) : Keeps False False True False False False False False False False False False False False False False False True s fin := by
  have h_s : Keeps False False True False False False False False False False False False False False False False False True s s := Keeps.refl s
  unfold execMin at h
  obtain rfl := Host.Outcome.next.inj h
  try dsimp only
  repeat' first
    | (with_reducible first
      | assumption | apply State.issueAlu_keeps | apply State.live_keeps)
    | (intro _ _ _; try dsimp only) | (intro _ _; try dsimp only) | (intro _; try dsimp only) | dsimp only

theorem execMax_keeps {i : SproutId} {packed : Bool} {rd ra rb : SReg} {s : State} {fin : State} (h : execMax i packed rd ra rb s = .next fin) : Keeps False False True False False False False False False False False False False False False False False True s fin := by
  have h_s : Keeps False False True False False False False False False False False False False False False False False True s s := Keeps.refl s
  unfold execMax at h
  obtain rfl := Host.Outcome.next.inj h
  try dsimp only
  repeat' first
    | (with_reducible first
      | assumption | apply State.issueAlu_keeps | apply State.live_keeps)
    | (intro _ _ _; try dsimp only) | (intro _ _; try dsimp only) | (intro _; try dsimp only) | dsimp only

theorem execCmp_keeps {i : SproutId} {packed : Bool} {rel : Fin 6} {ra rb : SReg} {s : State} {fin : State} (h : execCmp i packed rel ra rb s = .next fin) : Keeps False False False False False False False False False False False False False False False False False True s fin := by
  have h_s : Keeps False False False False False False False False False False False False False False False False False True s s := Keeps.refl s
  unfold execCmp at h
  obtain rfl := Host.Outcome.next.inj h
  try dsimp only
  repeat' first
    | (with_reducible first
      | assumption | apply State.issue_keeps | apply State.live_keeps)
    | (intro _ _ _; try dsimp only) | (intro _ _; try dsimp only) | (intro _; try dsimp only)
    | (apply Keeps.mk; dsimp only; with_reducible refine Keeps.upd ?_) | dsimp only

theorem execSel_keeps {i : SproutId} {rd ra rb : SReg} {s : State} {fin : State} (h : execSel i rd ra rb s = .next fin) : Keeps False False True False False False False False False False False False False False False False False True s fin := by
  have h_s : Keeps False False True False False False False False False False False False False False False False False True s s := Keeps.refl s
  unfold execSel at h
  obtain rfl := Host.Outcome.next.inj h
  try dsimp only
  repeat' first
    | (with_reducible first
      | assumption | apply ite_keeps | apply State.issueAlu_keeps | apply State.live_keeps)
    | (intro _ _ _; try dsimp only) | (intro _ _; try dsimp only) | (intro _; try dsimp only) | split | dsimp only

theorem execShl_keeps {i : SproutId} {packed : Bool} {rd ra : SReg} {k : Fin 32} {s : State} {fin : State} (h : execShl i packed rd ra k s = .next fin) : Keeps False False True False False False False False False False False False False False False False False True s fin := by
  have h_s : Keeps False False True False False False False False False False False False False False False False False True s s := Keeps.refl s
  unfold execShl at h
  obtain rfl := Host.Outcome.next.inj h
  try dsimp only
  repeat' first
    | (with_reducible first
      | assumption | apply State.issueAlu_keeps | apply State.live_keeps)
    | (intro _ _ _; try dsimp only) | (intro _ _; try dsimp only) | (intro _; try dsimp only) | dsimp only

theorem execShr_keeps {i : SproutId} {packed : Bool} {rd ra : SReg} {k : Fin 32} {s : State} {fin : State} (h : execShr i packed rd ra k s = .next fin) : Keeps False False True False False False False False False False False False False False False False False True s fin := by
  have h_s : Keeps False False True False False False False False False False False False False False False False False True s s := Keeps.refl s
  unfold execShr at h
  obtain rfl := Host.Outcome.next.inj h
  try dsimp only
  repeat' first
    | (with_reducible first
      | assumption | apply State.issueAlu_keeps | apply State.live_keeps)
    | (intro _ _ _; try dsimp only) | (intro _ _; try dsimp only) | (intro _; try dsimp only) | dsimp only

theorem execConj_keeps {i : SproutId} {rd ra : SReg} {s : State} {fin : State} (h : execConj i rd ra s = .next fin) : Keeps False False True False False False False False False False False False False False False False False True s fin := by
  have h_s : Keeps False False True False False False False False False False False False False False False False False True s s := Keeps.refl s
  unfold execConj at h
  obtain rfl := Host.Outcome.next.inj h
  try dsimp only
  repeat' first
    | (with_reducible first
      | assumption | apply State.issueAlu_keeps | apply State.live_keeps)
    | (intro _ _ _; try dsimp only) | (intro _ _; try dsimp only) | (intro _; try dsimp only) | dsimp only

theorem execSwapri_keeps {i : SproutId} {rd ra : SReg} {s : State} {fin : State} (h : execSwapri i rd ra s = .next fin) : Keeps False False True False False False False False False False False False False False False False False True s fin := by
  have h_s : Keeps False False True False False False False False False False False False False False False False False True s s := Keeps.refl s
  unfold execSwapri at h
  obtain rfl := Host.Outcome.next.inj h
  try dsimp only
  repeat' first
    | (with_reducible first
      | assumption | apply State.issueAlu_keeps | apply State.live_keeps)
    | (intro _ _ _; try dsimp only) | (intro _ _; try dsimp only) | (intro _; try dsimp only) | dsimp only

theorem execClrsat_keeps {i : SproutId} {s : State} {fin : State} (h : execClrsat i s = .next fin) : Keeps False False False False False False False False False False False False False False False False False True s fin := by
  have h_s : Keeps False False False False False False False False False False False False False False False False False True s s := Keeps.refl s
  unfold execClrsat at h
  obtain rfl := Host.Outcome.next.inj h
  try dsimp only
  repeat' first
    | (with_reducible first
      | assumption | apply State.issue_keeps | apply State.live_keeps)
    | (intro _ _ _; try dsimp only) | (intro _ _; try dsimp only) | (intro _; try dsimp only)
    | (apply Keeps.mk; dsimp only; with_reducible refine Keeps.upd ?_) | dsimp only

theorem execNrm_keeps {i : SproutId} {rd ra : SReg} {s : State} {fin : State} (h : execNrm i rd ra s = .next fin) : Keeps False False True False False False False False False False False False False False False False False True s fin := by
  have h_s : Keeps False False True False False False False False False False False False False False False False False True s s := Keeps.refl s
  unfold execNrm at h
  obtain rfl := Host.Outcome.next.inj h
  try dsimp only
  repeat' first
    | (with_reducible first
      | assumption | apply State.issueAlu_keeps | apply State.live_keeps)
    | (intro _ _ _; try dsimp only) | (intro _ _; try dsimp only) | (intro _; try dsimp only) | dsimp only

theorem State.issueSeed_keeps {root : State} {s : State} {i : SproutId} {rd ra : SReg} {f : Nat → Option (Nat × Nat)} (h_s : Keeps q1 q2 True q4 q5 q6 q7 q8 q9 q10 q11 q12 q13 q14 q15 q16 q17 True root s) : Keeps q1 q2 True q4 q5 q6 q7 q8 q9 q10 q11 q12 q13 q14 q15 q16 q17 True root (State.issueSeed s i rd ra f) := by
  unfold State.issueSeed
  try dsimp only
  repeat' first
    | (with_reducible first
      | assumption | apply State.issue_keeps | apply State.issueAlu_keeps)
    | (intro _ _ _; try dsimp only) | (intro _ _; try dsimp only) | (intro _; try dsimp only)
    | (apply Keeps.mk; dsimp only; with_reducible refine Keeps.upd ?_) | split | dsimp only

theorem execRcps_keeps {i : SproutId} {rd ra : SReg} {s : State} {fin : State} (h : execRcps i rd ra s = .next fin) : Keeps False False True False False False False False False False False False False False False False False True s fin := by
  have h_s : Keeps False False True False False False False False False False False False False False False False False True s s := Keeps.refl s
  unfold execRcps at h
  obtain rfl := Host.Outcome.next.inj h
  try dsimp only
  repeat' first
    | (with_reducible first
      | assumption | apply State.issueSeed_keeps | apply State.live_keeps)
    | (intro _ _ _; try dsimp only) | (intro _ _; try dsimp only) | (intro _; try dsimp only) | dsimp only

theorem execRsqs_keeps {i : SproutId} {rd ra : SReg} {s : State} {fin : State} (h : execRsqs i rd ra s = .next fin) : Keeps False False True False False False False False False False False False False False False False False True s fin := by
  have h_s : Keeps False False True False False False False False False False False False False False False False False True s s := Keeps.refl s
  unfold execRsqs at h
  obtain rfl := Host.Outcome.next.inj h
  try dsimp only
  repeat' first
    | (with_reducible first
      | assumption | apply State.issueSeed_keeps | apply State.live_keeps)
    | (intro _ _ _; try dsimp only) | (intro _ _; try dsimp only) | (intro _; try dsimp only) | dsimp only

theorem execLoop_keeps {i : SproutId} {count : Nat} {len : Nat} {s : State} {fin : State} (h : execLoop i count len s = .next fin) : Keeps False False True False False False False False True False False False False False False False False True s fin := by
  have h_s : Keeps False False True False False False False False True False False False False False False False False True s s := Keeps.refl s
  unfold execLoop at h
  obtain rfl := Host.Outcome.next.inj h
  try dsimp only
  repeat' first
    | (with_reducible first
      | assumption | apply ite_keeps | apply ite_keeps2 | apply ite_keeps1 | apply State.faultCtx_keeps
      | apply State.issue_keeps | apply State.live_keeps | apply State.modSprout_keeps)
    | (intro _ _ _; try dsimp only) | (intro _ _; try dsimp only) | (intro _; try dsimp only)
    | (apply Keeps.mk; dsimp only; with_reducible refine Keeps.upd ?_) | split | dsimp only

theorem State.issueJump_keeps {root : State} {s : State} {i : SproutId} {f : SproutSt → SproutSt} {g : Bank → Bank} (h_s : Keeps q1 q2 q3 q4 q5 q6 q7 q8 q9 q10 q11 q12 q13 q14 q15 q16 q17 True root s) : Keeps q1 q2 q3 q4 q5 q6 q7 q8 q9 q10 q11 q12 q13 q14 q15 q16 q17 True root (State.issueJump s i f g) := by
  unfold State.issueJump
  try dsimp only
  repeat' first
    | (with_reducible first
      | assumption | apply ite_keeps | apply State.modSprout_keeps | apply State.tick_keeps)
    | (intro _ _ _; try dsimp only) | (intro _ _; try dsimp only) | (intro _; try dsimp only) | split | dsimp only

theorem execBr_keeps {i : SproutId} {sense : Bool} {target : Nat} {s : State} {fin : State} (h : execBr i sense target s = .next fin) : Keeps False False False False False False False False False False False False False False False False False True s fin := by
  have h_s : Keeps False False False False False False False False False False False False False False False False False True s s := Keeps.refl s
  unfold execBr at h
  obtain rfl := Host.Outcome.next.inj h
  try dsimp only
  repeat' first
    | (with_reducible first
      | assumption | apply ite_keeps | apply State.issue_keeps | apply State.issueJump_keeps | apply State.live_keeps)
    | (intro _ _ _; try dsimp only) | (intro _ _; try dsimp only) | (intro _; try dsimp only) | split | dsimp only

theorem execJmp_keeps {i : SproutId} {target : Nat} {s : State} {fin : State} (h : execJmp i target s = .next fin) : Keeps False False False False False False False False False False False False False False False False False True s fin := by
  have h_s : Keeps False False False False False False False False False False False False False False False False False True s s := Keeps.refl s
  unfold execJmp at h
  obtain rfl := Host.Outcome.next.inj h
  try dsimp only
  repeat' first
    | (with_reducible first
      | assumption | apply State.issueJump_keeps | apply State.live_keeps)
    | (intro _ _ _; try dsimp only) | (intro _ _; try dsimp only) | (intro _; try dsimp only) | dsimp only

theorem execCall_keeps {i : SproutId} {target : Nat} {s : State} {fin : State} (h : execCall i target s = .next fin) : Keeps False False False False False False False False False False False False False False False False False True s fin := by
  have h_s : Keeps False False False False False False False False False False False False False False False False False True s s := Keeps.refl s
  unfold execCall at h
  obtain rfl := Host.Outcome.next.inj h
  try dsimp only
  repeat' first
    | (with_reducible first
      | assumption | apply ite_keeps | apply State.issueJump_keeps | apply State.live_keeps)
    | (intro _ _ _; try dsimp only) | (intro _ _; try dsimp only) | (intro _; try dsimp only)
    | (apply Keeps.mk; dsimp only; with_reducible refine Keeps.upd ?_) | split | dsimp only

theorem execRet_keeps {i : SproutId} {s : State} {fin : State} (h : execRet i s = .next fin) : Keeps False False False False False False False False False False False False False False False False False True s fin := by
  have h_s : Keeps False False False False False False False False False False False False False False False False False True s s := Keeps.refl s
  unfold execRet at h
  obtain rfl := Host.Outcome.next.inj h
  try dsimp only
  repeat' first
    | (with_reducible first
      | assumption | apply State.issueJump_keeps | apply State.live_keeps)
    | (intro _ _ _; try dsimp only) | (intro _ _; try dsimp only) | (intro _; try dsimp only)
    | (apply Keeps.mk; dsimp only; with_reducible refine Keeps.upd ?_) | dsimp only

theorem State.gather_keeps {root : State} {s : State} {i : SproutId} {load : Bool} {a : Fin 8} {ra : SReg} {words : Nat} (h_s : Keeps q1 q2 q3 q4 q5 q6 q7 q8 q9 q10 q11 q12 q13 q14 q15 q16 q17 True root s) : Keeps q1 q2 q3 q4 q5 q6 q7 q8 q9 q10 q11 q12 q13 q14 q15 q16 q17 True root (State.gather s i load a ra words) := by
  unfold State.gather
  try dsimp only
  repeat' first
    | (with_reducible first
      | assumption | apply ite_keeps | apply ite_keeps2 | apply ite_keeps1 | apply State.issue_keeps
      | apply State.modBed_keeps)
    | (intro _ _ _; try dsimp only) | (intro _ _; try dsimp only) | (intro _; try dsimp only)
    | (apply Keeps.mk; dsimp only; with_reducible refine Keeps.upd ?_) | split | dsimp only

theorem execGld_keeps {i : SproutId} {a : Fin 8} {ra : SReg} {size : Fin 5} {s : State} {fin : State} (h : execGld i a ra size s = .next fin) : Keeps False False False False False False False False False False False False False False False False False True s fin := by
  have h_s : Keeps False False False False False False False False False False False False False False False False False True s s := Keeps.refl s
  unfold execGld at h
  obtain rfl := Host.Outcome.next.inj h
  try dsimp only
  repeat' first
    | (with_reducible first
      | assumption | apply State.gather_keeps | apply State.live_keeps)
    | (intro _ _ _; try dsimp only) | (intro _ _; try dsimp only) | (intro _; try dsimp only) | dsimp only

theorem execGst_keeps {i : SproutId} {a : Fin 8} {ra : SReg} {size : Fin 5} {s : State} {fin : State} (h : execGst i a ra size s = .next fin) : Keeps False False False False False False False False False False False False False False False False False True s fin := by
  have h_s : Keeps False False False False False False False False False False False False False False False False False True s s := Keeps.refl s
  unfold execGst at h
  obtain rfl := Host.Outcome.next.inj h
  try dsimp only
  repeat' first
    | (with_reducible first
      | assumption | apply State.gather_keeps | apply State.live_keeps)
    | (intro _ _ _; try dsimp only) | (intro _ _; try dsimp only) | (intro _; try dsimp only) | dsimp only

theorem execWaitg_keeps {i : SproutId} {s : State} {fin : State} (h : execWaitg i s = .next fin) : Keeps False False False False False False False False False False False False False False False False False True s fin := by
  have h_s : Keeps False False False False False False False False False False False False False False False False False True s s := Keeps.refl s
  unfold execWaitg at h
  obtain rfl := Host.Outcome.next.inj h
  try dsimp only
  repeat' first
    | (with_reducible first
      | assumption | apply ite_keeps | apply State.gather_keeps | apply State.issue_keeps | apply State.live_keeps)
    | (intro _ _ _; try dsimp only) | (intro _ _; try dsimp only) | (intro _; try dsimp only)
    | (apply Keeps.mk; dsimp only; with_reducible refine Keeps.upd ?_) | split | dsimp only

theorem execWaitev_keeps {i : SproutId} {s : State} {fin : State} (h : execWaitev i s = .next fin) : Keeps False False False False False False False False False False False False False False False False False True s fin := by
  have h_s : Keeps False False False False False False False False False False False False False False False False False True s s := Keeps.refl s
  unfold execWaitev at h
  obtain rfl := Host.Outcome.next.inj h
  try dsimp only
  repeat' first
    | (with_reducible first
      | assumption | apply ite_keeps | apply State.issue_keeps | apply State.live_keeps)
    | (intro _ _ _; try dsimp only) | (intro _ _; try dsimp only) | (intro _; try dsimp only)
    | (apply Keeps.mk; dsimp only; with_reducible refine Keeps.upd ?_) | split | dsimp only

theorem execSig_keeps {i : SproutId} {target : Fin 16} {s : State} {fin : State} (h : execSig i target s = .next fin) : Keeps False False False False False False False False False False False False False False False False False True s fin := by
  have h_s : Keeps False False False False False False False False False False False False False False False False False True s s := Keeps.refl s
  unfold execSig at h
  obtain rfl := Host.Outcome.next.inj h
  try dsimp only
  repeat' first
    | (with_reducible first
      | assumption | apply ite_keeps | apply State.assertLine_keeps | apply State.issue_keeps | apply State.live_keeps)
    | (intro _ _ _; try dsimp only) | (intro _ _; try dsimp only) | (intro _; try dsimp only) | split | dsimp only

theorem execPpt_keeps {i : SproutId} {s : State} {fin : State} (h : execPpt i s = .next fin) : Keeps False False False False False False False False False False False False False False False False False True s fin := by
  have h_s : Keeps False False False False False False False False False False False False False False False False False True s s := Keeps.refl s
  unfold execPpt at h
  obtain rfl := Host.Outcome.next.inj h
  try dsimp only
  repeat' first
    | (with_reducible first
      | assumption | apply ite_keeps | apply State.issue_keeps | apply State.live_keeps)
    | (intro _ _ _; try dsimp only) | (intro _ _; try dsimp only) | (intro _; try dsimp only)
    | (apply Keeps.mk; dsimp only; with_reducible refine Keeps.upd ?_) | split | dsimp only

theorem execRte_keeps {i : SproutId} {s : State} {fin : State} (h : execRte i s = .next fin) : Keeps False False False False False False False False False False False False False False False False False True s fin := by
  have h_s : Keeps False False False False False False False False False False False False False False False False False True s s := Keeps.refl s
  unfold execRte at h
  obtain rfl := Host.Outcome.next.inj h
  try dsimp only
  repeat' first
    | (with_reducible first
      | assumption | apply ite_keeps | apply State.issue_keeps | apply State.live_keeps | apply State.modSprout_keeps)
    | (intro _ _ _; try dsimp only) | (intro _ _; try dsimp only) | (intro _; try dsimp only)
    | (apply Keeps.mk; dsimp only; with_reducible refine Keeps.upd ?_) | split | dsimp only

theorem execHalt_keeps {i : SproutId} {s : State} {fin : State} (h : execHalt i s = .next fin) : Keeps True True True False False False True True True False False False False False False False False True s fin := by
  have h_s : Keeps True True True False False False True True True False False False False False False False False True s s := Keeps.refl s
  unfold execHalt at h
  obtain rfl := Host.Outcome.next.inj h
  try dsimp only
  repeat' first
    | (with_reducible first
      | assumption | apply ite_keeps | apply State.endInvocation_keeps | apply State.issue_keeps
      | apply State.leaveSprout_keeps | apply State.live_keeps)
    | (intro _ _ _; try dsimp only) | (intro _ _; try dsimp only) | (intro _; try dsimp only) | split | dsimp only

theorem execBankSwitch_keeps {i : SproutId} {s : State} {fin : State} (h : execBankSwitch i s = .next fin) : Keeps False False False False False False False False False False False False False False False False False True s fin := by
  have h_s : Keeps False False False False False False False False False False False False False False False False False True s s := Keeps.refl s
  unfold execBankSwitch at h
  obtain rfl := Host.Outcome.next.inj h
  try dsimp only
  repeat' first
    | (with_reducible first
      | assumption | apply ite_keeps | apply State.live_keeps | apply State.modSprout_keeps)
    | (intro _ _ _; try dsimp only) | (intro _ _; try dsimp only) | (intro _; try dsimp only)
    | (apply Keeps.mk; dsimp only; with_reducible refine Keeps.upd ?_) | split | dsimp only

theorem State.gatherCheck_keeps {root : State} {s : State} {n : Fin 8} {b : Fin 17} {q : GatherReq} (h_s : Keeps q1 q2 True q4 q5 q6 q7 True q9 q10 q11 q12 q13 q14 q15 q16 q17 True root s) : Keeps q1 q2 True q4 q5 q6 q7 True q9 q10 q11 q12 q13 q14 q15 q16 q17 True root (State.gatherCheck s n b q).2 := by
  unfold State.gatherCheck
  extract_lets r
  have hr : Keeps q1 q2 True q4 q5 q6 q7 True q9 q10 q11 q12 q13 q14 q15 q16 q17 True root r.2 := foldl_keeps2 _ (fun a x ha => pair_keeps2 (State.dataEvents_keeps ha)) _ (false, s) h_s
  clear_value r
  exact pair_keeps2 (ite_keeps (State.sproutAbort_keeps hr) hr)

theorem State.gatherSound_keeps {root : State} {s : State} {n : Fin 8} {b : Fin 17} {l : List GatherReq} (h_s : Keeps q1 q2 True q4 q5 q6 q7 True q9 q10 q11 q12 q13 q14 q15 q16 q17 True root s) : Keeps q1 q2 True q4 q5 q6 q7 True q9 q10 q11 q12 q13 q14 q15 q16 q17 True root (State.gatherSound s n b l).2 := by
  unfold State.gatherSound
  try dsimp only
  repeat' first
    | (with_reducible first
      | assumption | apply ite_keeps | apply ite_keeps2 | apply ite_keeps1 | apply State.gatherCheck_keeps
      | apply foldl_keeps | apply foldl_keeps2 | apply foldl_keeps1 | apply foldl_keeps22)
    | (intro _ _ _; try dsimp only) | (intro _ _; try dsimp only) | (intro _; try dsimp only) | split | dsimp only

theorem State.gatherRow_keeps {root : State} {s : State} {n : Fin 8} {b : Fin 17} (h_s : Keeps True True True q4 q5 q6 True True True q10 q11 q12 q13 q14 q15 q16 q17 True root s) : Keeps True True True q4 q5 q6 True True True q10 q11 q12 q13 q14 q15 q16 q17 True root (State.gatherRow s n b) := by
  unfold State.gatherRow
  try dsimp only
  repeat' first
    | (with_reducible first
      | assumption | apply ite_keeps | apply ite_keeps2 | apply ite_keeps1 | apply State.assertLine_keeps
      | apply State.bump_keeps | apply State.bumpBy_keeps | apply State.dataWrite_keeps | apply State.gatherSound_keeps
      | apply State.leaveSprout_keeps | apply State.modBed_keeps | apply State.modSprout_keeps | apply State.raise_keeps
      | apply State.winRead_keeps | apply State.winWrite_keeps | apply foldl_keeps | apply foldl_keeps2 | apply foldl_keeps1
      | apply foldl_keeps22)
    | (intro _ _ _; try dsimp only) | (intro _ _; try dsimp only) | (intro _; try dsimp only)
    | (apply Keeps.mk; dsimp only; with_reducible refine Keeps.upd ?_) | split | dsimp only

theorem execGathererAccess_keeps {plot : Plot} {bed : Fin 17} {races : List (Fin 16 × Nat)} {s : State} {fin : State} (h : execGathererAccess plot bed races s = .next fin) : Keeps True True True False False False True True True False False False False False False False False True s fin := by
  have h_s : Keeps True True True False False False True True True False False False False False False False False True s s := Keeps.refl s
  unfold execGathererAccess at h
  obtain rfl := Host.Outcome.next.inj h
  try dsimp only
  repeat' first
    | (with_reducible first
      | assumption | apply ite_keeps | apply ite_keeps2 | apply ite_keeps1 | apply State.bumpBy_keeps
      | apply State.gatherRow_keeps | apply State.live_keeps | apply State.raced_keeps | apply State.raise_keeps)
    | (intro _ _ _; try dsimp only) | (intro _ _; try dsimp only) | (intro _; try dsimp only)
    | (apply Keeps.mk; dsimp only; with_reducible refine Keeps.upd ?_) | split | dsimp only

end Sys2Proof.Machine
end

