-- ==== Sys2Proof/Laws/KeepsStoreTurn.lean ====
section
/-!
SUPPORT. What the definitions of Machine/StoreTurn.lean keep, each by the definitions it is made of.
-/

namespace Sys2Proof.Machine

open Sys2Proof

set_option Elab.async false

set_option linter.unusedVariables false
set_option linter.unreachableTactic false
set_option linter.unusedTactic false



variable {q1 q2 q3 q4 q5 q6 q7 q8 q9 q10 q11 q12 q13 q14 q15 q16 q17 q18 : Prop}

theorem State.rowRace_keeps {root : State} {s : State} {n : Nat} {st : Store} {x : Nat × Nat × Bool × Nat} (h_s : Keeps q1 q2 True q4 q5 q6 True q8 True q10 q11 q12 q13 q14 q15 q16 q17 q18 root s) : Keeps q1 q2 True q4 q5 q6 True q8 True q10 q11 q12 q13 q14 q15 q16 q17 q18 root (State.rowRace s n st x) := by
  unfold State.rowRace
  try dsimp only
  repeat' first
    | (with_reducible first
      | assumption | apply ite_keeps | apply ite_keeps2 | apply ite_keeps1 | apply ite_keeps22 | apply State.bump_keeps
      | apply State.modPlot_keeps | apply State.raced_keeps | apply State.raise_keeps | apply foldl_keeps
      | apply foldl_keeps2 | apply foldl_keeps1 | apply foldl_keeps22)
    | (intro _ _ _; try dsimp only) | (intro _ _; try dsimp only) | (intro _; try dsimp only)
    | (apply Keeps.mk; dsimp only; with_reducible refine Keeps.upd ?_) | split | dsimp only

theorem State.scrubGraft_keeps {root : State} {s s0 : State} {n : Nat} {q : RepairRun} {skip : List (Nat × Nat)} (h_s : Keeps True True True q4 q5 q6 True True q9 q10 q11 q12 q13 q14 q15 q16 q17 q18 root s) (h_s0 : Keeps True True True q4 q5 q6 True True q9 q10 q11 q12 q13 q14 q15 q16 q17 q18 root s0) : Keeps True True True q4 q5 q6 True True q9 q10 q11 q12 q13 q14 q15 q16 q17 q18 root (State.scrubGraft s s0 n q skip) := by
  unfold State.scrubGraft
  try dsimp only
  repeat' first
    | (with_reducible first
      | assumption | apply ite_keeps | apply ite_keeps2 | apply ite_keeps1 | apply State.modPlot_keeps
      | apply State.raise_keeps | apply State.rewriteRow_keeps)
    | (intro _ _ _; try dsimp only) | (intro _ _; try dsimp only) | (intro _; try dsimp only)
    | (apply Keeps.mk; dsimp only; with_reducible refine Keeps.upd ?_) | split | dsimp only

theorem State.patrolStep_keeps {root : State} {s s0 : State} {n : Nat} {st : Store} {skip : List (Nat × Nat)} (h_s : Keeps True True True q4 q5 q6 True True q9 q10 q11 q12 q13 q14 q15 q16 q17 q18 root s) (h_s0 : Keeps True True True q4 q5 q6 True True q9 q10 q11 q12 q13 q14 q15 q16 q17 q18 root s0) : Keeps True True True q4 q5 q6 True True q9 q10 q11 q12 q13 q14 q15 q16 q17 q18 root (State.patrolStep s s0 n st skip) := by
  unfold State.patrolStep
  try dsimp only
  repeat' first
    | (with_reducible first
      | assumption | apply ite_keeps | apply ite_keeps2 | apply ite_keeps1 | apply State.bump_keeps
      | apply State.modPlot_keeps | apply State.rewriteRow_keeps | apply State.use_keeps | apply foldl_keeps
      | apply foldl_keeps2 | apply foldl_keeps1 | apply foldl_keeps22)
    | (intro _ _ _; try dsimp only) | (intro _ _; try dsimp only) | (intro _; try dsimp only)
    | (apply Keeps.mk; dsimp only; with_reducible refine Keeps.upd ?_) | split | dsimp only

theorem State.scrubRest_keeps {root : State} {s s0 : State} {n : Nat} {st : Store} {skip : List (Nat × Nat)} (h_s : Keeps True True True q4 q5 q6 True True q9 q10 q11 q12 q13 q14 q15 q16 q17 q18 root s) (h_s0 : Keeps True True True q4 q5 q6 True True q9 q10 q11 q12 q13 q14 q15 q16 q17 q18 root s0) : Keeps True True True q4 q5 q6 True True q9 q10 q11 q12 q13 q14 q15 q16 q17 q18 root (State.scrubRest s s0 n st skip).1 := by
  unfold State.scrubRest
  try dsimp only
  repeat' first
    | (with_reducible first
      | assumption | apply ite_keeps | apply ite_keeps2 | apply ite_keeps1 | apply State.modPlot_keeps
      | apply State.patrolStep_keeps | apply State.rewriteRow_keeps | apply State.zeroStep_keeps)
    | (intro _ _ _; try dsimp only) | (intro _ _; try dsimp only) | (intro _; try dsimp only)
    | (apply Keeps.mk; dsimp only; with_reducible refine Keeps.upd ?_) | split | dsimp only

theorem State.scrub_keeps {root : State} {s s0 : State} {n : Nat} {st : Store} {skip : List (Nat × Nat)} (h_s : Keeps True True True q4 q5 q6 True True q9 q10 q11 q12 q13 q14 q15 q16 q17 q18 root s) (h_s0 : Keeps True True True q4 q5 q6 True True q9 q10 q11 q12 q13 q14 q15 q16 q17 q18 root s0) : Keeps True True True q4 q5 q6 True True q9 q10 q11 q12 q13 q14 q15 q16 q17 q18 root (State.scrub s s0 n st skip).1 := by
  unfold State.scrub
  try dsimp only
  repeat' first
    | (with_reducible first
      | assumption | apply ite_keeps | apply ite_keeps2 | apply ite_keeps1 | apply State.scrubGraft_keeps
      | apply State.scrubRest_keeps)
    | (apply Keeps.mk; dsimp only; with_reducible refine Keeps.upd ?_) | split | dsimp only

theorem readInto_keeps {root : State} {l : List (Nat × Nat)} {x : Nat × Nat} {r : Option Nat × State} (h : Keeps q1 q2 q3 q4 q5 q6 q7 q8 q9 q10 q11 q12 q13 q14 q15 q16 q17 q18 root r.2) : Keeps q1 q2 q3 q4 q5 q6 q7 q8 q9 q10 q11 q12 q13 q14 q15 q16 q17 q18 root (readInto l x r).2 := by
  unfold readInto
  exact pair_keeps2 h

theorem State.storeTurn_keeps {root : State} {s : State} {n : Nat} {st : Store} {new : List RowAccess} {strikes : List Strike} (h_s : Keeps True True True q4 q5 q6 True True True q10 q11 q12 q13 q14 q15 q16 q17 q18 root s) : Keeps True True True q4 q5 q6 True True True q10 q11 q12 q13 q14 q15 q16 q17 q18 root (State.storeTurn s n st new strikes) := by
  unfold State.storeTurn
  try dsimp only
  repeat' first
    | (with_reducible first
      | assumption | apply ite_keeps | apply ite_keeps2 | apply ite_keeps1 | apply ite_keeps22 | apply State.bumpBy_keeps
      | apply State.modPlot_keeps | apply State.oob_keeps | apply State.readRow_keeps | apply State.rowRace_keeps
      | apply State.scrub_keeps | apply State.strike_keeps | apply State.writeRow_keeps | apply readInto_keeps
      | apply foldl_keeps | apply foldl_keeps2 | apply foldl_keeps1 | apply foldl_keeps22)
    | (intro _ _ _; try dsimp only) | (intro _ _; try dsimp only) | (intro _; try dsimp only)
    | (apply Keeps.mk; dsimp only; with_reducible refine Keeps.upd ?_) | split | dsimp only

theorem execStoreTurn_keeps {plot : Plot} {store : Store} {new : List RowAccess} {strikes : List Strike} {s : State} {fin : State} (h : execStoreTurn plot store new strikes s = .next fin) : Keeps True True True True False False True True True False False False False False False False False False s fin := by
  have h_s : Keeps True True True True False False True True True False False False False False False False False False s s := Keeps.refl s
  unfold execStoreTurn at h
  obtain rfl := Host.Outcome.next.inj h
  try dsimp only
  repeat' first
    | (with_reducible first
      | assumption | apply ite_keeps | apply State.liveApply_keeps | apply State.storeTurn_keeps)
    | (intro _ _ _; try dsimp only) | (intro _ _; try dsimp only) | (intro _; try dsimp only) | split | dsimp only

theorem execStoRelease_keeps {v : View} {plot : Plot} {x : Word} {s : State} {fin : State} (h : execStoRelease v plot x s = .next fin) : Keeps True True True True False False True False False False False False False False False False False True s fin := by
  have h_s : Keeps True True True True False False True False False False False False False False False False False True s s := Keeps.refl s
  unfold execStoRelease at h
  obtain rfl := Host.Outcome.next.inj h
  try dsimp only
  repeat' first
    | (with_reducible first
      | assumption | apply ite_keeps | apply ite_keeps2 | apply ite_keeps1 | apply State.commanded_keeps
      | apply State.liveApply_keeps | apply State.nextZeroOrder_keeps | apply State.thawSprouts_keeps
      | apply State.winUnhold_keeps | apply foldl_keeps)
    | (intro _ _ _; try dsimp only) | (intro _ _; try dsimp only) | (intro _; try dsimp only) | split | dsimp only

theorem execStoRepairQ_keeps {v : View} {plot : Plot} {x : Word} {s : State} {fin : State} (h : execStoRepairQ v plot x s = .next fin) : Keeps False False True False False False True False False False False False False False False False False False s fin := by
  have h_s : Keeps False False True False False False True False False False False False False False False False False False s s := Keeps.refl s
  unfold execStoRepairQ at h
  obtain rfl := Host.Outcome.next.inj h
  try dsimp only
  repeat' first
    | (with_reducible first
      | assumption | apply State.commanded_keeps | apply State.live_keeps | apply State.modPlot_keeps)
    | (intro _ _ _; try dsimp only) | (intro _ _; try dsimp only) | (intro _; try dsimp only)
    | (apply Keeps.mk; dsimp only; with_reducible refine Keeps.upd ?_) | dsimp only

end Sys2Proof.Machine
end

