-- ==== Sys2Proof/Laws/Wipes.lean ====
section
/-!
SUPPORT. What the resets keep: the queue and the canonical form of memory.
-/

namespace Sys2Proof.Machine

open Sys2Proof

set_option Elab.async false

/-- What a reset keeps too: the queue, the canonical forms, and the direction of the count of free values. -/
structure Wipes (r t : State) : Prop where
  pending : t.pending = r.pending
  mem : Mem.wf r.mem = true → Mem.wf t.mem = true
  ecc : SMap.wf zeroUnlisted r.ecc = true → SMap.wf zeroUnlisted t.ecc = true
  free : r.free ≤ t.free

theorem Keeps.wipes {r t : State} (h : Keeps True True True True True True True True True True True True True True True True True True r t) : Wipes r t :=
  ⟨h.c.pending, h.c.memWf, h.c.eccWf, h.c.free⟩

theorem Keeps.wipesOf {q1 q2 q3 q4 q5 q6 q7 q8 q9 q10 q11 q12 q13 q14 q15 q16 q17 q18 : Prop} {r t : State} (h : Keeps q1 q2 q3 q4 q5 q6 q7 q8 q9 q10 q11 q12 q13 q14 q15 q16 q17 q18 r t) : Wipes r t :=
  ⟨h.c.pending, h.c.memWf, h.c.eccWf, h.c.free⟩

theorem Wipes.trans {a b c : State} (h : Wipes a b) (g : Wipes b c) : Wipes a c :=
  ⟨g.pending.trans h.pending, fun x => g.mem (h.mem x), fun x => g.ecc (h.ecc x), Nat.le_trans h.free g.free⟩

theorem Wipes.refl (a : State) : Wipes a a := (Keeps.refl a).wipes

theorem State.cold_wipes (s : State) : Wipes s s.cold := by
  have h := (State.pinsDown_keeps (cold := true) (Keeps.refl s)).wipes
  exact ⟨h.pending, fun _ => rfl, fun _ => rfl, h.free⟩

theorem keepAbove_wf {α : Type} [DecidableEq α] (d : Nat → α) (recovery : Bool) (lo : Nat) (m : SMap α)
    (h : SMap.wf d m = true) : SMap.wf d (if recovery then m.filter fun e => decide (lo ≤ e.1) else []) = true := by
  split
  · exact SMap.filter_wf d _ m h
  · rfl

theorem State.warmFrom_keeps {root s : State} {recovery : Bool} (h : Keeps True True True True True True True True True True True True True True True True True True root s) : Keeps True True True True True True True True True True True True True True True True True True root
    (if recovery then (s.sec.dbgOpen.filter fun e => decide (3 ≤ e.1)).foldl (fun t e => t.debugEnd e.1 e.2.2) (s.pinsDown false)
     else ((s.sec.dbgOpen.filter fun e => decide (3 ≤ e.1)).foldl (fun t e => t.debugEnd e.1 e.2.2) (s.pinsDown false)).dropUpdate) := by
  have h1 : Keeps True True True True True True True True True True True True True True True True True True root ((s.sec.dbgOpen.filter fun e => decide (3 ≤ e.1)).foldl (fun t e => t.debugEnd e.1 e.2.2) (s.pinsDown false)) := by
    apply foldl_keeps
    · intro t x ht
      exact State.debugEnd_keeps ht
    · exact State.pinsDown_keeps h
  exact ite_keeps h1 (State.dropUpdate_keeps h1)

theorem State.warm_wipes (s : State) (recovery : Bool) : Wipes s (s.warm recovery) := by
  have h := (State.warmFrom_keeps (recovery := recovery) (Keeps.refl s)).wipes
  exact ⟨h.pending, fun x => keepAbove_wf _ _ _ _ (h.mem x), fun x => keepAbove_wf _ _ _ _ (h.ecc x), h.free⟩
theorem State.beginStart_wipes (s : State) (a b : Nat) : Wipes s (s.beginStart a b) := by
  unfold State.beginStart
  extract_lets src s1
  have h1 : Wipes s s1 := ⟨rfl, id, id, Nat.le_refl _⟩
  clear_value s1
  exact h1.trans (State.beginStep_keeps (State.decideVariant_keeps (State.emit_keeps (Keeps.refl s1)))).wipes

theorem execPorstAssert_wipes {s fin : State} (h : execPorstAssert s = .next fin) : Wipes s fin := by
  unfold execPorstAssert at h
  obtain rfl := Host.Outcome.next.inj h
  have h1 := State.cold_wipes s
  exact ⟨h1.pending, h1.mem, h1.ecc, h1.free⟩

theorem execPorstRelease_wipes {a b : Fin 8} {s fin : State} (h : execPorstRelease a b s = .next fin) : Wipes s fin := by
  unfold execPorstRelease at h
  obtain rfl := Host.Outcome.next.inj h
  split
  · exact Wipes.refl s
  · extract_lets src s1
    have h1 : Wipes s s1 := ⟨rfl, id, id, Nat.le_refl _⟩
    clear_value s1
    split
    · exact h1
    · exact h1.trans (State.beginStart_wipes _ _ _)

theorem execRailFault_wipes {bad : Bool} {a b : Fin 8} {s fin : State} (h : execRailFault bad a b s = .next fin) : Wipes s fin := by
  unfold execRailFault at h
  obtain rfl := Host.Outcome.next.inj h
  split
  · have h1 := State.cold_wipes s
    exact ⟨h1.pending, h1.mem, h1.ecc, h1.free⟩
  · split
    · extract_lets src s1
      have h1 : Wipes s s1 := ⟨rfl, id, id, Nat.le_refl _⟩
      clear_value s1
      split
      · exact h1.trans (State.beginStart_wipes _ _ _)
      · exact h1
    · exact Wipes.refl s

theorem execPerstAssert_wipes {t : Nat} {s fin : State} (h : execPerstAssert t s = .next fin) : Wipes s fin := by
  unfold execPerstAssert at h
  obtain rfl := Host.Outcome.next.inj h
  split
  · exact ⟨rfl, id, id, Nat.le_refl _⟩
  · exact (State.advance_keeps (t := t) (Keeps.refl s)).wipes.trans (State.warm_wipes _ _)

theorem State.live_wipes {s : State} {f : State → State} (h : Wipes s (f s)) : Wipes s (s.live f) := by
  unfold State.live
  split
  · exact Wipes.refl s
  · exact h

theorem execDeviceRecovery_wipes {beat almOk : Bool} {t : Nat} {s fin : State} (h : execDeviceRecovery beat almOk t s = .next fin) :
    Wipes s fin := by
  unfold execDeviceRecovery at h
  obtain rfl := Host.Outcome.next.inj h
  apply State.live_wipes
  have ha : Keeps True True True True True True True True True True True True True True True True True True s (s.advance t) := State.advance_keeps (Keeps.refl s)
  generalize s.advance t = x at ha ⊢
  dsimp only
  split
  · have h1 : Keeps True True True True True True True True True True True True True True True True True True s (((((x.almanac { start := 0, step := 0x12, outcome := 1 } almOk).bump pgFlt 0x88 none).raise pgFlt 14 none).fltLog
        { kind := 8, action := 7, cls := 9, detail := 7 }).notice 1) :=
      State.notice_keeps (State.fltLog_keeps (State.raise_keeps (State.bump_keeps (State.almanac_keeps ha))))
    generalize ((((x.almanac { start := 0, step := 0x12, outcome := 1 } almOk).bump pgFlt 0x88 none).raise pgFlt 14 none).fltLog
        { kind := 8, action := 7, cls := 9, detail := 7 }).notice 1 = y at h1 ⊢
    have h2 := h1.wipes.trans (State.warm_wipes y true)
    generalize y.warm true = z at h2 ⊢
    have h3 : Wipes s { z with pwr := { z.pwr with recovering := true } } := ⟨h2.pending, h2.mem, h2.ecc, h2.free⟩
    exact h3.trans (State.beginStep_keeps (Keeps.refl _)).wipes
  · exact ha.wipes

end Sys2Proof.Machine
end

