-- ==== Sys2Proof/Laws/Effects.lean ====
section
/-!
SUPPORT. What single commands' operations do, in the terms that statements about the commands use.
-/

set_option Elab.async false

namespace Sys2Proof.Machine

open Sys2Proof

variable {q1 q2 q3 q5 q6 q7 q8 q9 q10 q11 q12 q13 q14 q15 q16 q17 q18 : Prop}

/-- Recording what an apply changed touches the Commit Gate only, whatever the state before was. -/
theorem State.noteApply_leaves (s t : State) :
    Keeps q1 q2 q3 True q5 q6 q7 q8 q9 q10 q11 q12 q13 q14 q15 q16 q17 q18 t (t.noteApply s) := by
  unfold State.noteApply
  dsimp only
  apply foldl_keeps
  · intro a x h
    exact State.modChan_keeps h
  · apply Keeps.mk
    dsimp only
    exact Keeps.upd (Keeps.refl t)

/-- A running device takes the effect, and the Commit Gate records what changed. -/
theorem State.liveApply_of (s : State) (f : State → State) (h : s.stopped = false) : s.liveApply f = (f s).noteApply s := by
  unfold State.liveApply
  exact State.live_of s _ h

/-! ### Writes by a view -/

theorem State.takes_stopped {s : State} {v : View} (h : s.takes v = true) : s.stopped = false := by
  unfold State.takes at h
  simp only [Bool.and_eq_true, Bool.not_eq_true'] at h
  exact h.1

theorem State.takes_flr {s : State} {v : View} (h : s.takes v = true) : s.inFlr v = false := by
  unfold State.takes at h
  simp only [Bool.and_eq_true, Bool.not_eq_true'] at h
  exact h.2

theorem State.opens_takes {s : State} {v : View} {no : Nat} {p : Page} (h : s.opens v no p = true) : s.takes v = true := by
  unfold State.opens at h
  simp only [Bool.and_eq_true] at h
  exact h.1.1.1

theorem State.live_takes {s : State} {v : View} (h : s.takes v = true) (f : State → State) : s.live f = f s :=
  State.live_of s f (State.takes_stopped h)

theorem State.written_of {s : State} {v : View} (h : s.takes v = true) (f : State → State) : s.written v f = f s := by
  unfold State.written
  simp [State.takes_flr h]

theorem State.onCmt_of {s : State} {v : View} (h : s.takes v = true) (f : State → State) : s.onCmt v f = f s :=
  State.written_of h f

theorem State.commanded_of {s : State} {v : View} (h : s.takes v = true) (p : Page) (ok : Bool) (f : State → State) :
    s.commanded v p ok f = if ok then f s else s.dropped v p := State.written_of h _

theorem State.onPage_of {s : State} {v : View} {no : Nat} {p : Page} (h : s.opens v no p = true) (off : Nat)
    (f : Page → State → State) : s.onPage v no off f = f p s := by
  unfold State.onPage
  rw [State.written_of (State.opens_takes h)]
  unfold State.opens at h
  simp only [Bool.and_eq_true, decide_eq_true_eq, Bool.or_eq_true, Bool.not_eq_true'] at h
  obtain ⟨⟨⟨-, h1⟩, h2⟩, h3⟩ := h
  rw [h1]
  dsimp only
  rw [if_neg, if_pos h3]
  rintro ⟨h4, h5⟩
  rcases h2 with h2 | h2
  · simp [h2] at h4
  · exact h5 h2

theorem State.live_opens {s : State} {v : View} {no : Nat} {p : Page} (h : s.opens v no p = true) (off : Nat)
    (f : Page → State → State) : (s.live fun s => s.onPage v no off f) = f p s := by
  rw [State.live_takes (State.opens_takes h), State.onPage_of h]

/-! ### What the passing of time and the record of an apply leave -/

@[simp] theorem State.noteApply_mem (t s : State) : (t.noteApply s).mem = t.mem :=
  Keeps.mem_eq (State.noteApply_leaves s t : LeavesMem t _)

@[simp] theorem State.noteApply_ecc (t s : State) : (t.noteApply s).ecc = t.ecc :=
  Keeps.ecc_eq (State.noteApply_leaves s t : LeavesEcc t _)

@[simp] theorem State.noteApply_hub (t s : State) : (t.noteApply s).hub = t.hub :=
  Keeps.hub_eq (State.noteApply_leaves s t : LeavesHub t _)

@[simp] theorem State.noteApply_sdl (t s : State) : (t.noteApply s).sdl = t.sdl :=
  Keeps.sdl_eq (State.noteApply_leaves s t : LeavesSdl t _)

@[simp] theorem State.noteApply_plots (t s : State) : (t.noteApply s).plots = t.plots :=
  Keeps.plots_eq (State.noteApply_leaves s t : LeavesPlots t _)

@[simp] theorem State.noteApply_flt (t s : State) : (t.noteApply s).flt = t.flt :=
  Keeps.flt_eq (State.noteApply_leaves s t : LeavesFlt t _)

@[simp] theorem State.noteApply_rms (t s : State) : (t.noteApply s).rms = t.rms :=
  Keeps.rms_eq (State.noteApply_leaves s t : LeavesRms t _)

@[simp] theorem State.noteApply_thr (t s : State) : (t.noteApply s).thr = t.thr :=
  Keeps.thr_eq (State.noteApply_leaves s t : LeavesThr t _)

@[simp] theorem State.noteApply_trn (t s : State) : (t.noteApply s).trn = t.trn :=
  Keeps.trn_eq (State.noteApply_leaves s t : LeavesTrn t _)

@[simp] theorem State.noteApply_irg (t s : State) : (t.noteApply s).irg = t.irg :=
  Keeps.irg_eq (State.noteApply_leaves s t : LeavesIrg t _)

@[simp] theorem State.noteApply_ring (t s : State) : (t.noteApply s).ring = t.ring :=
  Keeps.ring_eq (State.noteApply_leaves s t : LeavesRing t _)

@[simp] theorem State.noteApply_sec (t s : State) : (t.noteApply s).sec = t.sec :=
  Keeps.sec_eq (State.noteApply_leaves s t : LeavesSec t _)

@[simp] theorem State.noteApply_ddr (t s : State) : (t.noteApply s).ddr = t.ddr :=
  Keeps.ddr_eq (State.noteApply_leaves s t : LeavesDdr t _)

@[simp] theorem State.noteApply_pwr (t s : State) : (t.noteApply s).pwr = t.pwr :=
  Keeps.pwr_eq (State.noteApply_leaves s t : LeavesPwr t _)

@[simp] theorem State.noteApply_gk (t s : State) : (t.noteApply s).gk = t.gk :=
  Keeps.gk_eq (State.noteApply_leaves s t : LeavesGk t _)

@[simp] theorem State.noteApply_beds (t s : State) : (t.noteApply s).beds = t.beds :=
  Keeps.beds_eq (State.noteApply_leaves s t : LeavesBeds t _)

@[simp] theorem State.noteApply_act (t s : State) : (t.noteApply s).gate.act = t.gate.act :=
  Keeps.act_eq (State.noteApply_leaves s t : LeavesAct t _)

theorem State.advance_ref (s : State) (t : Nat) : (s.advance t).sdl.ref = max s.sdl.ref t := by
  show (s.sdl.advance s.gridEn s.slewPpb t).ref = _
  unfold Sundial.advance
  split
  · omega
  · simp only; omega

@[simp] theorem State.advance_out (s : State) (t : Nat) : (s.advance t).hub.out = s.hub.out := by
  unfold State.advance
  dsimp only
  split <;> rfl

@[simp] theorem State.advance_gkHalted (s : State) (t : Nat) : (s.advance t).hub.gkHalted = s.hub.gkHalted := by
  unfold State.advance
  dsimp only
  split <;> rfl

@[simp] theorem State.advance_event (s : State) (t : Nat) (v : View) (p : Page) (b : Nat) :
    (s.advance t).event v p b = s.event v p b := by
  unfold State.event State.evtRaw State.advance
  dsimp only
  split <;> rfl

@[simp] theorem State.advance_count (s : State) (t : Nat) (p : Page) (off : Nat) : (s.advance t).count p off = s.count p off := by
  unfold State.count State.advance
  dsimp only
  split <;> rfl

@[simp] theorem State.advance_ctx (s : State) (t : Nat) : (s.advance t).ctx = s.ctx := by
  funext c
  unfold State.ctx State.advance
  dsimp only
  split <;> rfl

@[simp] theorem State.advance_plot (s : State) (t : Nat) : (s.advance t).plot = s.plot := rfl
@[simp] theorem State.advance_unit (s : State) (t : Nat) : (s.advance t).unit = s.unit := rfl
@[simp] theorem State.advance_stopped (s : State) (t : Nat) : (s.advance t).stopped = s.stopped := rfl

theorem State.advance_takes {s : State} {v : View} (t : Nat) (h : s.takes v = true) : (s.advance t).takes v = true := by
  have e : (s.advance t).inFlr v = s.inFlr v := by
    have m : (s.advance t).hub.mute = s.hub.mute := by
      unfold State.advance
      dsimp only
      split <;> rfl
    unfold State.inFlr
    rw [m]
    rfl
  unfold State.takes at *
  rw [e, State.advance_stopped]
  exact h

theorem chanOwner_chanOf (v : View) : chanOwner (chanOf v) = v := by
  cases v with
  | pf => rfl
  | gk => rfl
  | vf k => revert k; decide

@[simp] theorem State.advance_cfg (s : State) (t : Nat) : (s.advance t).cfg = s.cfg := by
  funext p off lo w
  unfold State.cfg
  rw [State.advance_gate]

@[simp] theorem State.advance_flag (s : State) (t : Nat) : (s.advance t).flag = s.flag := by
  funext p off lo
  unfold State.flag
  rw [State.advance_cfg]

@[simp] theorem State.advance_chan (s : State) (t : Nat) : (s.advance t).chan = s.chan := by
  funext k
  unfold State.chan
  rw [State.advance_gate]

@[simp] theorem State.noteApply_cfg (t s : State) : (t.noteApply s).cfg = t.cfg := by
  funext p off lo w
  unfold State.cfg
  rw [State.noteApply_act]

@[simp] theorem State.noteApply_event (t s : State) (v : View) (p : Page) (b : Nat) : (t.noteApply s).event v p b = t.event v p b := by
  unfold State.event State.evtRaw
  rw [State.noteApply_hub]

@[simp] theorem State.noteApply_count (t s : State) (p : Page) (off : Nat) : (t.noteApply s).count p off = t.count p off := by
  unfold State.count
  rw [State.noteApply_hub]

/-! ### The hub: what notices and messages leave -/

/-- An event that is set in a view stays set when another is raised in one view. -/
theorem State.event_raiseIn (s : State) (w : View) (p q : Page) (b k : Nat) (v : View) (h : s.event v q k = true) :
    (s.raiseIn w p b).event v q k = true :=
  ((Hub.later_setRaw s.hub w p b).trans (Hub.later_raiseIn s.gate.act s.hub w p b)) v q k h

/-- Setting a bit of a page leaves every other bit. -/
theorem Hub.raw_setRaw_ne (h : Hub) (v w : View) (p q : Page) {b k : Nat} (hk : k ≠ b) :
    (SMap.get wordUnlisted (h.setRaw v p b).raw (evtKey w q)).getLsbD k = (SMap.get wordUnlisted h.raw (evtKey w q)).getLsbD k := by
  show (SMap.get wordUnlisted (SMap.put wordUnlisted h.raw (evtKey v p) _) (evtKey w q)).getLsbD k = _
  rw [SMap.get_put]
  split
  · rename_i e
    rw [e]
    show (SMap.get wordUnlisted h.raw (evtKey v p) ||| BitVec.ofNat 32 (2 ^ b)).getLsbD k = _
    rw [BitVec.getLsbD_or, BitVec.getLsbD_ofNat, Nat.testBit_two_pow_of_ne (Ne.symm hk)]
    simp
  · rfl

theorem Hub.raw_sendVector (h : Hub) (f vec : Nat) (v w : View) (q : Page) {k : Nat} (hk : 0 < k) :
    (SMap.get wordUnlisted (h.sendVector f vec v).raw (evtKey w q)).getLsbD k =
      (SMap.get wordUnlisted h.raw (evtKey w q)).getLsbD k := by
  unfold Hub.sendVector
  split
  · rfl
  · dsimp only
    split
    · rw [Hub.raw_setRaw_ne _ _ _ _ _ (by omega), Hub.raw_emit]
      rfl
    · rw [Hub.raw_emit]
      rfl

/-- What the hub sends changes no event bit but bit 0 of its own page. -/
theorem Hub.raw_notify (m : SMap Word) (h : Hub) (v : View) (p : Page) (w : View) (q : Page) {k : Nat} (hk : 0 < k) :
    (SMap.get wordUnlisted (h.notify m v p).raw (evtKey w q)).getLsbD k =
      (SMap.get wordUnlisted h.raw (evtKey w q)).getLsbD k := by
  have key : ∀ g : Hub, (SMap.get wordUnlisted g.raw (evtKey w q)).getLsbD k = (SMap.get wordUnlisted h.raw (evtKey w q)).getLsbD k →
      (SMap.get wordUnlisted (if v = .pf ∧ fieldOf (routeOf m v p) 12 1 = 1 then g.emit (Sent.gkNotify (pageSource p)) else g).raw
        (evtKey w q)).getLsbD k = (SMap.get wordUnlisted h.raw (evtKey w q)).getLsbD k := by
    intro g hg
    split
    · rw [Hub.raw_emit]
      exact hg
    · exact hg
  unfold Hub.notify
  apply key
  split
  · split
    · exact Hub.raw_sendVector _ _ _ _ _ _ hk
    · rfl
  · rfl

theorem Hub.mask_emit (h : Hub) (x : Sent) : (h.emit x).mask = h.mask ∧ (h.emit x).latch = h.latch := by
  unfold Hub.emit
  split <;> exact ⟨rfl, rfl⟩

theorem Hub.mask_sendVector (h : Hub) (f vec : Nat) (v : View) :
    (h.sendVector f vec v).mask = h.mask ∧ (h.sendVector f vec v).latch = h.latch := by
  unfold Hub.sendVector
  split
  · exact ⟨rfl, rfl⟩
  · dsimp only
    split
    · exact Hub.mask_emit _ _
    · exact Hub.mask_emit _ _

theorem Hub.mask_notify (m : SMap Word) (h : Hub) (v : View) (p : Page) :
    (h.notify m v p).mask = h.mask ∧ (h.notify m v p).latch = h.latch := by
  have key : ∀ g : Hub, g.mask = h.mask ∧ g.latch = h.latch →
      (if v = .pf ∧ fieldOf (routeOf m v p) 12 1 = 1 then g.emit (Sent.gkNotify (pageSource p)) else g).mask = h.mask ∧
      (if v = .pf ∧ fieldOf (routeOf m v p) 12 1 = 1 then g.emit (Sent.gkNotify (pageSource p)) else g).latch = h.latch := by
    intro g hg
    split
    · rw [(Hub.mask_emit _ _).1, (Hub.mask_emit _ _).2]
      exact hg
    · exact hg
  unfold Hub.notify
  apply key
  split
  · split
    · exact Hub.mask_sendVector _ _ _ _
    · exact ⟨rfl, rfl⟩
  · exact ⟨rfl, rfl⟩

/-- A vector that is not masked sends one message, unless the function's traffic is dropped. -/
theorem Hub.sendVector_out (h : Hub) (f vec : Nat) (v : View) (h1 : SMap.get vecUnlisted h.vecMask (2048 * f + vec) = false)
    (h2 : SMap.get flagUnlisted h.mute f = false) : (h.sendVector f vec v).vecMask = h.vecMask ∧
    (h.sendVector f vec v).vecPend = h.vecPend ∧ (h.sendVector f vec v).out = h.out ++ [Sent.msi f vec] := by
  have key : ∀ g : Hub, g.mute = h.mute → g.emit (Sent.msi f vec) = { g with out := g.out ++ [Sent.msi f vec] } := by
    intro g hg
    unfold Hub.emit Hub.muted Sent.fn?
    simp only [hg, h2]
    rfl
  unfold Hub.sendVector
  simp only [h1]
  rw [if_neg (by simp), key (h.add (cntKey v.no pgEvh 0x40) 1) rfl]
  split <;> exact ⟨rfl, rfl, rfl⟩

/-- What has left stays in the trace. -/
def Hub.Says (g h : Hub) : Prop := ∀ x ∈ g.out, x ∈ h.out

theorem Hub.Says.trans {a b c : Hub} (h : a.Says b) (g : b.Says c) : a.Says c := fun x k => g x (h x k)

theorem Hub.says_emit (h : Hub) (x : Sent) : h.Says (h.emit x) := by
  intro y hy
  unfold Hub.emit
  split
  · exact hy
  · exact List.mem_append_left _ hy

theorem Hub.says_sendVector (h : Hub) (f vec : Nat) (v : View) : h.Says (h.sendVector f vec v) := by
  intro y hy
  unfold Hub.sendVector
  split
  · exact hy
  · dsimp only
    split
    · exact Hub.says_emit (h.add (cntKey v.no pgEvh 0x40) 1) _ y hy
    · exact Hub.says_emit (h.add (cntKey v.no pgEvh 0x40) 1) _ y hy

theorem Hub.says_notify (m : SMap Word) (h : Hub) (v : View) (p : Page) : h.Says (h.notify m v p) := by
  have key : ∀ g : Hub, h.Says g →
      h.Says (if v = .pf ∧ fieldOf (routeOf m v p) 12 1 = 1 then g.emit (Sent.gkNotify (pageSource p)) else g) := by
    intro g hg
    split
    · exact hg.trans (Hub.says_emit _ _)
    · exact hg
  unfold Hub.notify
  apply key
  split
  · split
    · exact Hub.says_sendVector _ _ _ _
    · exact fun x k => k
  · exact fun x k => k

theorem Hub.says_raiseIn (m : SMap Word) (h : Hub) (v : View) (p : Page) (b : Nat) : h.Says (h.raiseIn m v p b) := by
  unfold Hub.raiseIn
  dsimp only
  split
  · exact fun y hy => Hub.says_notify m (h.setRaw v p b) v p y hy
  · exact fun x k => k

theorem Hub.says_raise (m : SMap Word) (p : Page) (b : Nat) (l : List View) :
    ∀ h : Hub, h.Says (l.foldl (fun h v => h.raiseIn m v p b) h) := by
  induction l with
  | nil => exact fun h x k => k
  | cons v l ih => exact fun h => (Hub.says_raiseIn m h v p b).trans (ih _)

/-- What has left stays in the trace when an event is raised. -/
theorem State.out_raise (s : State) (p : Page) (b : Nat) (o : Option Nat) {x : Sent} (h : x ∈ s.hub.out) :
    x ∈ (s.raise p b o).hub.out := Hub.says_raise s.gate.act p b _ s.hub x h

theorem Hub.says_bumpView (m : SMap Word) (p : Page) (off n : Nat) (h : Hub) (v : View) : h.Says (h.bumpView m p off n v) := by
  have add (k : Nat) : h.Says (h.add k n) := fun x k => k
  unfold Hub.bumpView
  cases v with
  | gk => exact fun x k => k
  | pf =>
    dsimp only
    split
    · exact ((add _).trans (Hub.says_raiseIn _ _ _ _ _)).trans (Hub.says_raiseIn _ _ _ _ _)
    · exact add _
  | vf k =>
    dsimp only
    split
    · exact (add _).trans (Hub.says_raiseIn _ _ _ _ _)
    · exact add _

theorem Hub.says_bumpBy (m : SMap Word) (p : Page) (off n : Nat) (l : List View) :
    ∀ h : Hub, h.Says (l.foldl (Hub.bumpView m p off n) h) := by
  induction l with
  | nil => exact fun h x k => k
  | cons v l ih => exact fun h => (Hub.says_bumpView m p off n h v).trans (ih _)

/-- What has left stays in the trace when events are counted. -/
theorem State.out_bumpBy (s : State) (p : Page) (off n : Nat) (o : Option Nat) {x : Sent} (h : x ∈ s.hub.out) :
    x ∈ (s.bumpBy p off o n).hub.out := Hub.says_bumpBy s.gate.act p off n _ s.hub x h

theorem State.out_bump (s : State) (p : Page) (off : Nat) (o : Option Nat) {x : Sent} (h : x ∈ s.hub.out) :
    x ∈ (s.bump p off o).hub.out := State.out_bumpBy s p off 1 o h

theorem State.out_emit (s : State) (y : Sent) {x : Sent} (h : x ∈ s.hub.out) : x ∈ (s.emit y).hub.out := Hub.says_emit s.hub y x h

/-- A record has no event bit of its own. -/
theorem State.event_record (s : State) (p q : Page) (tag b : Nat) (l : List Nat) (v : View) (h : s.event v q b = true) :
    (s.record p tag l).event v q b = true := by
  have : s.record p tag l = (({ s with hub := s.hub.toGk.emit (Sent.record (pageNo p) tag l) } : State).bumpBy pgEvh 0x48 none 1) := rfl
  rw [this]
  apply State.event_bumpBy
  show (SMap.get wordUnlisted (Hub.emit _ _).raw _).getLsbD b = true
  rw [Hub.raw_emit]
  have e : s.hub.toGk.raw = s.hub.raw := by
    unfold Hub.toGk
    split
    · rfl
    · split <;> rfl
  rw [e]
  exact h

/-- A log record of the fault block changes of the block the log only. -/
theorem State.fltLog_flt (s : State) (r : FltRec) : ∃ w, (s.fltLog r).flt =
    { s.flt with
      seq := (s.flt.seq + 1) % 2 ^ 16, latest := (s.flt.latest ++ [s.fltWord r]).drop (s.flt.latest.length + 1 - 16), written := w } := by
  have kp : ∀ (w : State) (a b), (w.platform a b).flt = w.flt := fun w a b => Keeps.flt_eq (State.platform_keeps (Keeps.refl w) : LeavesFlt w _)
  unfold State.fltLog
  dsimp only
  split
  · refine ⟨s.flt.written, ?_⟩
    split
    · rw [kp]; rfl
    · rfl
  · refine ⟨(s.flt.written + 1) % 2 ^ 32, ?_⟩
    split
    · simp only [kp]; rfl
    · rfl

theorem State.latch_dropped (s : State) (v : View) (p : Page) : (s.dropped v p).hub.latch = s.hub.latch := by
  show (Hub.raiseIn s.gate.act s.hub v p 1).latch = _
  unfold Hub.raiseIn
  dsimp only
  split
  · rw [(Hub.mask_notify _ _ _ _).2]
    rfl
  · rfl

/-- What a filter leaves of a key that it drops. -/
theorem SMap.get_filter_out {α : Type} (d : Nat → α) (f : Nat × α → Bool) (k : Nat) : ∀ m : SMap α, (∀ x, f (k, x) = false) →
    SMap.get d (m.filter f) k = d k
  | [], _ => rfl
  | (j, x) :: m, h => by
    rw [List.filter_cons]
    split
    · rename_i hf
      have hj : j ≠ k := by
        rintro rfl
        rw [h x] at hf
        cases hf
      have := SMap.get_filter_out d f k m h
      unfold SMap.get at *
      simp only [SMap.find?, if_neg hj]
      exact this
    · exact SMap.get_filter_out d f k m h

/-- What a key reads after entries of distinct keys have been put, one by one. -/
theorem SMap.get_foldl_put {α β : Type} [DecidableEq α] (d : Nat → α) (key : β → Nat) (val : β → α) :
    ∀ (l : List β) (m : SMap α), (l.map key).Nodup → ∀ e ∈ l, SMap.get d (l.foldl (fun m e => SMap.put d m (key e) (val e)) m) (key e) = val e := by
  have out : ∀ (l : List β) (m : SMap α) (k : Nat), k ∉ l.map key →
      SMap.get d (l.foldl (fun m e => SMap.put d m (key e) (val e)) m) k = SMap.get d m k := by
    intro l
    induction l with
    | nil => intro m k _; rfl
    | cons x l ih =>
      intro m k hk
      rw [List.foldl_cons, ih _ _ (fun h => hk (by simp only [List.map_cons, List.mem_cons]; exact Or.inr h)),
        SMap.get_put_ne]
      intro h
      exact hk (by simp [h])
  intro l
  induction l with
  | nil => intro m _ e he; cases he
  | cons x l ih =>
    intro m hn e he
    rw [List.map_cons, List.nodup_cons] at hn
    rw [List.foldl_cons]
    rcases List.mem_cons.1 he with rfl | he
    · rw [out _ _ _ hn.1, SMap.get_put_self]
    · exact ih _ hn.2 e he

/-- The offsets of the words that a view's snapshot of a page latches are distinct. -/
theorem State.snap_offsets (s : State) (v : View) (p : Page) :
    ((s.snapCounters v p ++ s.snapOther v p).map Prod.fst).Nodup := by
  obtain ⟨k, i⟩ := p
  have ho : (s.snapOther v ⟨k, i⟩).map Prod.fst = match k with
      | .sdl => (List.range 28).map fun j => 0x840 + 4 * j
      | .trnRu => (List.range 16).map fun j => 0xF04 + 4 * j
      | .rms => [0xF14, 0xF18, 0xF1C]
      | .pwr => [0xF04]
      | .pace => [0x808]
      | _ => [] := by
    cases k <;> rfl
  have hc : (s.snapCounters v ⟨k, i⟩).map Prod.fst = match lastCounter k with
      | none => []
      | some l => (List.range ((l - 0x40) / 8 + 1)).flatMap fun i => [0x40 + 8 * i, 0x40 + 8 * i + 4] := by
    unfold State.snapCounters
    dsimp only
    split
    · rename_i h
      simp only [h, List.map_nil]
    · rename_i h
      simp only [h, List.map_flatMap]
      rfl
  rw [List.map_append, hc, ho]
  clear hc ho
  cases k <;> decide

/-! ### The fault block -/

/-- Two states of the fault block with the same units, the same Plots Pruned, and the same records on their way. -/
structure Flt.Like (a b : Flt) : Prop where
  units : a.units = b.units
  pruned : a.pruned = b.pruned
  floor : a.floor = b.floor
  retryAt : a.retryAt = b.retryAt
  inbox : a.inbox = b.inbox

theorem Flt.Like.refl (a : Flt) : a.Like a := ⟨rfl, rfl, rfl, rfl, rfl⟩

theorem Flt.Like.trans {a b c : Flt} (h : a.Like b) (g : b.Like c) : a.Like c :=
  ⟨h.units.trans g.units, h.pruned.trans g.pruned, h.floor.trans g.floor, h.retryAt.trans g.retryAt, h.inbox.trans g.inbox⟩

theorem Flt.Like.of_eq {a b : Flt} (h : a = b) : a.Like b := h ▸ Flt.Like.refl b

theorem State.enqueue_flt (s : State) (r : Repair) : (s.enqueue r).flt.Like s.flt := by
  unfold State.enqueue
  split <;> exact ⟨rfl, rfl, rfl, rfl, rfl⟩

theorem State.prunePlan_flt (s : State) (n k : Nat) : (s.prunePlan n k).flt.Like s.flt := by
  unfold State.prunePlan
  split
  · exact Flt.Like.refl _
  · exact State.enqueue_flt _ _

theorem State.spareOut_flt (s : State) : s.spareOut.flt.Like s.flt := ⟨rfl, rfl, rfl, rfl, rfl⟩

theorem State.fltLog_like (s : State) (r : FltRec) : (s.fltLog r).flt.Like s.flt := by
  obtain ⟨w, e⟩ := State.fltLog_flt s r
  rw [e]
  exact ⟨rfl, rfl, rfl, rfl, rfl⟩

theorem State.derate_flt (s : State) (r : Repair) : (s.derate r).flt.Like s.flt := by
  unfold State.derate
  split
  · split
    · rename_i k _
      have e : ∀ (l : List Nat) (y : State), (l.foldl (fun t p => if k ∈ portLanes s.gate.act p then (t.setPort p false).setCal p false else t) y).flt = y.flt := by
        intro l
        induction l with
        | nil => intro y; rfl
        | cons p l ih =>
          intro y
          rw [List.foldl_cons, ih]
          split
          · rw [Keeps.flt_eq (State.setCal_keeps (Keeps.refl _) : LeavesFlt (y.setPort p false) _),
              Keeps.flt_eq (State.setPort_keeps (Keeps.refl _) : LeavesFlt y _)]
          · rfl
      exact (State.spareOut_flt _).trans (Flt.Like.of_eq (e (List.range 16) s))
    · exact Flt.Like.refl _
  · have e1 : ∀ (y : State) (b : Bool), (y.retrain b).flt = y.flt := fun y b => Keeps.flt_eq (State.retrain_keeps (Keeps.refl y) : LeavesFlt y _)
    have e2 : ∀ (y : State) (a b), (y.platform a b).flt = y.flt := fun y a b => Keeps.flt_eq (State.platform_keeps (Keeps.refl y) : LeavesFlt y _)
    refine (Flt.Like.of_eq (e2 _ _ _)).trans ?_
    exact (State.spareOut_flt _).trans (Flt.Like.of_eq (e1 _ _))
  · exact Flt.Like.refl _
  · exact State.spareOut_flt _
  · exact State.prunePlan_flt _ _ _

/-- Staging a repair judges no unit, Prunes none, and leaves the records on their way. -/
theorem State.stageRepair_flt : ∀ (k : Nat) (s : State), (s.stageRepair k).flt.Like s.flt
  | 0, s => Flt.Like.refl _
  | k + 1, s => by
    unfold State.stageRepair
    split
    · exact Flt.Like.refl _
    · split
      · split
        · exact Flt.Like.refl _
        · exact (State.fltLog_like _ _).trans ⟨rfl, rfl, rfl, rfl, rfl⟩
      · split
        · exact Flt.Like.refl _
        · split
          · refine (State.stageRepair_flt k _).trans ?_
            have h : ∀ (y : State) (l : List Repair), ({ y with flt := { y.flt with queue := l } } : State).flt.Like y.flt := fun y l => ⟨rfl, rfl, rfl, rfl, rfl⟩
            exact (h _ _).trans ((State.fltLog_like _ _).trans (State.derate_flt _ _))
          · have kc : ∀ (w : State) (v : View) (o : Nat), (w.cmtCount v o).flt = w.flt := fun w v o =>
              Keeps.flt_eq (State.cmtCount_keeps (Keeps.refl w) : LeavesFlt w _)
            exact (State.fltLog_like _ _).trans (Flt.Like.of_eq (kc _ _ _))

theorem State.stageRepairs_flt (s : State) : s.stageRepairs.flt.Like s.flt := State.stageRepair_flt _ s

theorem State.stageRepairs_nil (s : State) (h : s.flt.queue = []) : s.stageRepairs = s := by
  unfold State.stageRepairs State.stageRepair
  rw [h]

/-- A unit judged permanent stays so while the answer to a failure is planned. -/
theorem plan_permanent (s : State) (r : FltRec) (col : Option Nat) (c p i : Nat) (h : (s.unit c p i).permanent = true) :
    ((s.plan r col).unit c p i).permanent = true := by
  have he : ∀ (y : State) (q : Repair), (y.unit c p i).permanent = true → ((y.enqueue q).unit c p i).permanent = true := by
    intro y q hy
    unfold State.unit at *
    rw [(State.enqueue_flt y q).units]
    exact hy
  have hp : ∀ (y : State) (n k : Nat), (y.unit c p i).permanent = true → ((y.prunePlan n k).unit c p i).permanent = true := by
    intro y n k hy
    unfold State.unit at *
    rw [(State.prunePlan_flt y n k).units]
    exact hy
  have hl : ∀ (y : State) (a b d : Nat), (y.unit c p i).permanent = true → ((y.loseSpare a b d).unit c p i).permanent = true := by
    intro y a b d hy
    unfold State.loseSpare State.spareOut State.raise State.modUnit State.unit at *
    dsimp only
    by_cases hk : unitKey c p i = unitKey a b d
    · rw [hk] at hy ⊢
      rw [SMap.get_modify_self]
      exact hy
    · rw [SMap.get_modify_ne _ _ _ hk]
      exact hy
  have hs : ∀ y : State, (y.unit c p i).permanent = true → (y.spareOut.unit c p i).permanent = true := fun y hy => hy
  unfold State.plan
  split
  · unfold State.planBtp
    dsimp only
    repeat' first | (with_reducible first | assumption | apply he | apply hp | apply hl) | split
  · unfold State.planBed
    repeat' first | (with_reducible first | assumption | apply he | apply hp | apply hl) | split
  all_goals repeat' first | (with_reducible first | assumption | apply he | apply hp | apply hl | apply hs) | split | exact h

/-! ### DRAM -/

theorem strike_eq (s : State) (k : List Strike) : (s.strike k).gate.act = s.gate.act ∧ (s.strike k).mem = s.mem ∧ (s.strike k).ddr = s.ddr :=
  ⟨Keeps.act_eq (State.strike_keeps (Keeps.refl s) : LeavesAct s _), Keeps.mem_eq (State.strike_keeps (Keeps.refl s) : LeavesMem s _),
    Keeps.ddr_eq (State.strike_keeps (Keeps.refl s) : LeavesDdr s _)⟩
theorem decode_ok (s : State) (c : Option Nat) (l : List Nat) (h : ∀ cw ∈ l, eccJudge (s.xorOf cw) ≠ .uncorrectable) :
    (s.dramDecode c l).1 = true := by
  unfold State.dramDecode
  suffices H : ∀ (l : List Nat) (a : Bool × State), (∀ cw ∈ l, eccJudge (s.xorOf cw) ≠ .uncorrectable) → a.1 = true →
      (l.foldl (fun acc cw => if s.untouched (16 * cw - dramBase) then acc else
        let j := eccJudge (s.xorOf cw)
        (acc.1 && decide (j ≠ .uncorrectable), acc.2.dramEvent cw c j)) a).1 = true from H l _ h rfl
  intro l
  induction l with
  | nil => intro a _ ha; exact ha
  | cons x l ih =>
    intro a hl ha
    rw [List.foldl_cons]
    apply ih _ (fun cw hc => hl cw (List.mem_cons_of_mem _ hc))
    split
    · exact ha
    · simp [ha, hl x (List.mem_cons_self ..)]
def cwBytes (data : List (BitVec 8)) (addr cw o : Nat) : Nat :=
  leNat ((List.range 16).map fun i =>
          if addr ≤ 16 * cw + i then (data[16 * cw + i - addr]?).getD (BitVec.ofNat 8 (o / 256 ^ i))
          else BitVec.ofNat 8 (o / 256 ^ i))
theorem leNat_ofNat : ∀ (l : List (BitVec 8)) (i : Nat) (h : i < l.length), BitVec.ofNat 8 (leNat l / 256 ^ i) = l[i]
  | b :: l, 0, h => by
    simp only [leNat, pow_zero, Nat.div_one, List.getElem_cons_zero]
    apply BitVec.eq_of_toNat_eq
    simp only [BitVec.toNat_ofNat]
    have := b.isLt
    omega
  | b :: l, i + 1, h => by
    have h2 : i < l.length := by simpa using h
    rw [show (b :: l)[i + 1] = l[i] from rfl, ← leNat_ofNat l i h2]
    congr 1
    rw [pow_succ, Nat.mul_comm, ← Nat.div_div_eq_div_mul]
    congr 1
    have := b.isLt
    simp only [leNat]
    omega
theorem dramEvent_eq (s : State) (cw : Nat) (c : Option Nat) (j : EccResult) : (s.dramEvent cw c j).mem = s.mem ∧ (s.dramEvent cw c j).ecc = s.ecc :=
  ⟨Keeps.mem_eq (State.dramEvent_keeps (Keeps.refl s) : LeavesMem s _), Keeps.ecc_eq (State.dramEvent_keeps (Keeps.refl s) : LeavesEcc s _)⟩
theorem judge0 : eccJudge 0 ≠ .uncorrectable := by decide
theorem deliver_some (d x : Nat) (h : eccJudge x ≠ .uncorrectable) : ∃ o, eccDeliver d x = some o := by
  unfold eccDeliver
  split
  · exact ⟨_, rfl⟩
  · exact ⟨_, rfl⟩
  · rename_i hh; exact absurd hh h
def putStep (s : State) (c : Option Nat) (addr : Nat) (data : List (BitVec 8)) (t : State) (cw : Nat) : State :=
  let whole := decide (addr ≤ 16 * cw ∧ 16 * cw + 16 ≤ addr + data.length)
  let old := eccDeliver (s.cwData cw) (s.xorOf cw)
  let t1 := if whole then t else t.dramEvent cw c (eccJudge (s.xorOf cw))
  match (if whole then some 0 else old) with
  | none => match c with | some k => t1.faultCtx k 0x02 | none => t1
  | some o =>
    t1.putCw cw (leNat ((List.range 16).map fun i =>
      if addr ≤ 16 * cw + i then (data[16 * cw + i - addr]?).getD (BitVec.ofNat 8 (o / 256 ^ i))
      else BitVec.ofNat 8 (o / 256 ^ i)))
theorem step_eq (s : State) (c : Option Nat) (addr : Nat) (data : List (BitVec 8)) (t : State) (cw : Nat)
    (h : eccJudge (s.xorOf cw) ≠ .uncorrectable) :
    ∃ o, (putStep s c addr data t cw).mem = Mem.writeLe t.mem (16 * cw) 16 (cwBytes data addr cw o) := by
  obtain ⟨d, hd⟩ := deliver_some (s.cwData cw) (s.xorOf cw) h
  unfold putStep
  dsimp only
  by_cases hw : decide (addr ≤ 16 * cw ∧ 16 * cw + 16 ≤ addr + data.length) = true
  · simp only [hw, if_true]
    exact ⟨0, rfl⟩
  · simp only [hw, hd]
    have e := dramEvent_eq t cw c (eccJudge (s.xorOf cw))
    refine ⟨d, ?_⟩
    rw [← e.1]; rfl
theorem put_fold (s : State) (c : Option Nat) (addr : Nat) (data : List (BitVec 8)) : ∀ (l : List Nat) (t : State),
    (∀ cw ∈ l, eccJudge (s.xorOf cw) ≠ .uncorrectable) →
    (∀ (i : Nat) (h : i < data.length), (addr + i) / 16 ∈ l → (l.foldl (putStep s c addr data) t).mem.read (addr + i) = data[i]) ∧
    (∀ a, a / 16 ∉ l → (l.foldl (putStep s c addr data) t).mem.read a = t.mem.read a) := by
  intro l
  induction l with
  | nil => intro t _; exact ⟨fun i h hm => absurd hm (List.not_mem_nil), fun a _ => rfl⟩
  | cons x l ih =>
    intro t hl
    obtain ⟨o, hm⟩ := step_eq s c addr data t x (hl x (List.mem_cons_self ..))
    have := ih (putStep s c addr data t x) (fun cw hc => hl cw (List.mem_cons_of_mem _ hc))
    refine ⟨fun i h hi => ?_, fun a ha => ?_⟩
    · rw [List.foldl_cons]
      by_cases hin : (addr + i) / 16 ∈ l
      · exact this.1 i h hin
      · rw [this.2 _ hin, hm]
        have hx : (addr + i) / 16 = x := by
          rcases List.mem_cons.1 hi with h1 | h1
          · exact h1
          · exact absurd h1 hin
        have hb : addr + i = 16 * x + (addr + i) % 16 := by omega
        have hlt : (addr + i) % 16 < 16 := by omega
        generalize (addr + i) % 16 = r at hb hlt
        rw [hb, Mem.read_writeLe_in _ _ _ _ _ hlt]
        unfold cwBytes
        rw [leNat_ofNat _ _ (by simpa using hlt)]
        simp only [List.getElem_map, List.getElem_range]
        rw [if_pos (by omega), show 16 * x + r - addr = i by omega, List.getElem?_eq_getElem h]
        rfl
    · rw [List.foldl_cons, this.2 a (fun hx => ha (List.mem_cons_of_mem _ hx)), hm]
      apply Mem.read_writeLe_out
      have : a / 16 ≠ x := fun hx => ha (hx ▸ List.mem_cons_self ..)
      omega
theorem dramPut_eq (s : State) (c : Option Nat) (addr : Nat) (data : List (BitVec 8)) :
    s.dramPut c addr data = (cwsOf addr data.length).foldl (putStep s c addr data) s := rfl
theorem mem_cws (addr n i : Nat) (h : i < n) : (addr + i) / 16 ∈ cwsOf addr n := by
  unfold cwsOf
  refine List.mem_map.2 ⟨(addr + i) / 16 - addr / 16, List.mem_range.2 ?_, ?_⟩ <;> omega
theorem touch_none (s : State) (off len : Nat) (h : s.ddr.zeroing = false) : s.zeroTouch off len = s := by
  unfold State.zeroTouch
  generalize List.range _ = l
  induction l with
  | nil => rfl
  | cons x l ih =>
    rw [List.foldl_cons]
    have : s.untouched ((off / 65536 + x) * 65536) = false := by unfold State.untouched; simp [h]
    simp only [this]
    exact ih

end Sys2Proof.Machine
end

