-- ==== Sys2Proof/Laws/EffectsHub.lean ====
section
/-!
SUPPORT. What has left the device stays in the trace, and an event raised stays raised, while operations count, raise, record and write.
-/

set_option Elab.async false

namespace Sys2Proof.Machine

open Sys2Proof

/-- What has left stays in the trace, and every event raised stays raised. -/
def State.Heard (s t : State) : Prop := s.hub.Says t.hub ∧ ∀ v p b, s.event v p b = true → t.event v p b = true

theorem State.Heard.refl (s : State) : s.Heard s := ⟨fun _ h => h, fun _ _ _ h => h⟩

theorem State.Heard.trans {r s t : State} (h : r.Heard s) (g : s.Heard t) : r.Heard t :=
  ⟨h.1.trans g.1, fun v p b k => g.2 v p b (h.2 v p b k)⟩

theorem State.Heard.hubEq {r s t : State} (h : r.Heard s) (e : t.hub = s.hub) : r.Heard t := by
  refine ⟨fun x k => e ▸ h.1 x k, fun v p b k => ?_⟩
  have := h.2 v p b k
  unfold State.event State.evtRaw at this ⊢
  rw [e]
  exact this

theorem State.Heard.left {r s t : State} (h : r.Heard s) (k : LeavesHub s t) : r.Heard t := h.hubEq (Keeps.hub_eq k)

theorem State.Heard.bumpBy {r s : State} (h : r.Heard s) (p : Page) (o : Nat) (x : Option Nat) (n : Nat) : r.Heard (s.bumpBy p o x n) :=
  h.trans ⟨fun _ k => State.out_bumpBy s p o n x k, fun _ _ _ k => State.event_bumpBy _ _ _ _ _ _ _ _ k⟩

theorem State.Heard.bump {r s : State} (h : r.Heard s) (p : Page) (o : Nat) (x : Option Nat) : r.Heard (s.bump p o x) := h.bumpBy p o x 1

theorem State.Heard.raise {r s : State} (h : r.Heard s) (p : Page) (b : Nat) (x : Option Nat) : r.Heard (s.raise p b x) :=
  h.trans ⟨fun _ k => State.out_raise s p b x k, fun _ _ _ k => State.event_raise _ _ _ _ _ _ _ k⟩

theorem Hub.says_toGk (h : Hub) : h.Says h.toGk := by
  unfold Hub.toGk
  split
  · exact fun _ k => k
  · split <;> exact fun _ k => k

theorem State.Heard.record {r s : State} (h : r.Heard s) (p : Page) (n : Nat) (l : List Nat) : r.Heard (s.record p n l) := by
  refine h.trans ⟨?_, fun v q b k => State.event_record s p q n b l v k⟩
  exact ((Hub.says_toGk _).trans (Hub.says_emit _ _)).trans (Hub.says_bumpBy s.gate.act pgEvh 0x48 1 _ _)

theorem State.Heard.emit {r s : State} (h : r.Heard s) (x : Sent) : r.Heard (s.emit x) := by
  refine h.trans ⟨Hub.says_emit _ _, fun v p b k => ?_⟩
  unfold State.event State.evtRaw at k ⊢
  unfold State.emit
  dsimp only
  rw [Hub.raw_emit]
  exact k

theorem State.Heard.ite {r a b : State} {c : Prop} [Decidable c] (ha : r.Heard a) (hb : r.Heard b) : r.Heard (if c then a else b) := by
  split <;> assumption

theorem State.Heard.foldl {α : Type} {r : State} (g : State → α → State) (hg : ∀ t x, r.Heard t → r.Heard (g t x)) :
    ∀ (l : List α) (t : State), r.Heard t → r.Heard (l.foldl g t)
  | [], _, h => h
  | x :: l, t, h => State.Heard.foldl g hg l _ (hg t x h)

/-- A record stands in the trace once it is made. -/
theorem State.recorded (s : State) (p : Page) (n : Nat) (l : List Nat) : Sent.record (pageNo p) n l ∈ (s.record p n l).hub.out := by
  refine Hub.says_bumpBy s.gate.act pgEvh 0x48 1 _ _ _ ?_
  unfold Hub.emit Hub.muted Sent.fn?
  simp

theorem State.Heard.faultCtx {r s : State} (h : r.Heard s) (c k : Nat) : r.Heard (s.faultCtx c k) := by
  unfold State.faultCtx
  exact .ite (.record (h.hubEq rfl) _ _ _) h

theorem State.Heard.dramEvent {r s : State} (h : r.Heard s) (cw : Nat) (c : Option Nat) (j : EccResult) : r.Heard (s.dramEvent cw c j) := by
  unfold State.dramEvent
  dsimp only
  have k : r.Heard (s.takeRetry cw) := h.hubEq rfl
  have k1 : r.Heard (match j with
      | .clean => s.takeRetry cw
      | .corrected sym e => ((s.takeRetry cw).bump pgDdr 0x40 (c.map s.partOf)).toFlt
          { kind := 0, action := 0, cls := 8, index := s.ddr.channel (16 * cw - dramBase), ctx := c
            detail := cwDetail ((16 * cw - dramBase) / 64) ((16 * cw - dramBase) / 16) sym, addr := (16 * cw - dramBase) / 64, bits := e * 2 ^ (4 * sym) }
      | .uncorrectable => ((((s.takeRetry cw).bump pgDdr 0x48 (c.map s.partOf)).raise pgDdr 8 (c.map s.partOf)).toFlt
          { kind := 1, action := 8, cls := 8, index := s.ddr.channel (16 * cw - dramBase), ctx := c
            detail := cwDetail ((16 * cw - dramBase) / 64) ((16 * cw - dramBase) / 16) 0, addr := (16 * cw - dramBase) / 64, bits := 0 * 2 ^ (4 * 0) }).armRetry cw) := by
    cases j with
    | clean => exact k
    | corrected sym e => exact .hubEq (k.bump pgDdr 0x40 (c.map s.partOf)) rfl
    | uncorrectable => exact .hubEq ((k.bump pgDdr 0x48 (c.map s.partOf)).raise pgDdr 8 (c.map s.partOf)) rfl
  exact .ite (.hubEq k1 rfl) k1

theorem State.Heard.dramPut {r s : State} (h : r.Heard s) (c : Option Nat) (a : Nat) (d : List (BitVec 8)) : r.Heard (s.dramPut c a d) := by
  unfold State.dramPut
  refine .foldl _ (fun t cw ht => ?_) _ _ h
  dsimp only
  have k : r.Heard (if decide (a ≤ 16 * cw ∧ 16 * cw + 16 ≤ a + d.length) then t else t.dramEvent cw c (eccJudge (s.xorOf cw))) :=
    .ite ht (ht.dramEvent _ _ _)
  split
  · split
    · exact k.faultCtx _ _
    · exact k
  · exact k.hubEq rfl

theorem State.Heard.dramWrite {r s : State} (h : r.Heard s) (c : Option Nat) (a : Nat) (d : List (BitVec 8)) : r.Heard (s.dramWrite c a d) := by
  unfold State.dramWrite
  dsimp only
  refine .ite ?_ ?_
  · refine .left ?_ (State.touchCheck_keeps (Keeps.refl _))
    refine .dramPut (.bumpBy ?_ _ _ _ _) _ _ _
    unfold State.zeroTouch
    refine .foldl _ (fun t i ht => ?_) _ _ h
    dsimp only
    refine .ite ?_ ht
    have k : ∀ (n m : Nat), r.Heard (t.zeroBytes n m) := fun n m => ht.left (State.zeroBytes_keeps (Keeps.refl _))
    exact .hubEq (.bump (k _ _) pgDdr 0x78 none) rfl
  · have k : r.Heard (if sbaOk s.gate.act (a - dramBase) d.length then s else s.bump pgDdr 0x60 (c.map s.partOf)) := .ite h (h.bump _ _ _)
    split
    · exact k.faultCtx _ _
    · exact k

theorem State.Heard.tightLog {r s : State} (h : r.Heard s) (c : Nat) (y : StepSt) (k a : Nat) : r.Heard (s.tightLog c y k a) := by
  unfold State.tightLog
  dsimp only
  refine .ite ?_ (h.record _ _ _)
  have g : ∀ (u : State) (n : Nat) (b : List (BitVec 8)) (m : Rms), r.Heard u → r.Heard { (u.dramWrite none n b) with rms := m } :=
    fun u n b m hu => .hubEq (hu.dramWrite none n b) rfl
  exact .ite (.raise (g _ _ _ _ (h.record _ _ _)) _ _ _) (g _ _ _ _ (h.record _ _ _))

/-! ### Counters of the other pages -/

/-- A counter of a page other than the event hub's, the memory controller's and Groundskeeper's. -/
def FarCnt (q : Page) (a : Nat) : Prop :=
  PlainCnt q a ∧ (∀ o, o < 4096 → regAddr q a ≠ regAddr pgEvh o ∧ regAddr q a ≠ regAddr pgDdr o ∧ regAddr q a ≠ regAddr pgGkp o)

/-- A counter is as before. -/
def State.SameCount (q : Page) (a : Nat) (s t : State) : Prop := t.count q a = s.count q a

theorem State.SameCount.refl (q : Page) (a : Nat) (s : State) : State.SameCount q a s s := rfl

theorem State.SameCount.hubEq {q : Page} {a : Nat} {r s t : State} (h : State.SameCount q a r s) (e : t.hub = s.hub) : State.SameCount q a r t := by
  unfold State.SameCount State.count at *
  rw [e]
  exact h

theorem State.SameCount.bumpBy {q : Page} {a : Nat} {r s : State} (h : State.SameCount q a r s) (hq : PlainCnt q a) (p : Page) (o : Nat)
    (x : Option Nat) (n : Nat) (hne : regAddr q a ≠ regAddr p o) : State.SameCount q a r (s.bumpBy p o x n) :=
  (State.count_bumpBy_ne s p o x n hq hne).trans h

theorem State.SameCount.raise {q : Page} {a : Nat} {r s : State} (h : State.SameCount q a r s) (hq : PlainCnt q a) (p : Page) (b : Nat)
    (x : Option Nat) : State.SameCount q a r (s.raise p b x) := (State.count_raise s p b x hq).trans h

theorem State.SameCount.record {q : Page} {a : Nat} {r s : State} (h : State.SameCount q a r s) (hq : FarCnt q a) (p : Page) (b : Nat)
    (l : List Nat) : State.SameCount q a r (s.record p b l) := by
  have e : s.record p b l = (({ s with hub := s.hub.toGk.emit (Sent.record (pageNo p) b l) } : State).bumpBy pgEvh 0x48 none 1) := rfl
  rw [e]
  refine .bumpBy ?_ hq.1 _ _ _ _ (hq.2 0x48 (by decide)).1
  refine Eq.trans ?_ h
  show SMap.get zeroUnlisted (Hub.emit _ _).cnt _ = _
  rw [Hub.cnt_emit]
  unfold Hub.toGk
  split
  · rfl
  · split
    · rfl
    · exact Hub.get_add_ne _ _ (by
        have := (hq.2 0x40 (by decide)).2.2
        unfold cntKey
        omega)

theorem State.SameCount.ite {q : Page} {a : Nat} {r s t : State} {c : Prop} [Decidable c] (hs : State.SameCount q a r s)
    (ht : State.SameCount q a r t) : State.SameCount q a r (if c then s else t) := by split <;> assumption

theorem State.SameCount.foldl {α : Type} {q : Page} {a : Nat} {r : State} (g : State → α → State)
    (hg : ∀ t x, State.SameCount q a r t → State.SameCount q a r (g t x)) :
    ∀ (l : List α) (t : State), State.SameCount q a r t → State.SameCount q a r (l.foldl g t)
  | [], _, h => h
  | x :: l, t, h => State.SameCount.foldl g hg l _ (hg t x h)

theorem State.SameCount.faultCtx {q : Page} {a : Nat} {r s : State} (h : State.SameCount q a r s) (hq : FarCnt q a) (c k : Nat) :
    State.SameCount q a r (s.faultCtx c k) := by
  unfold State.faultCtx
  exact .ite (.record (h.hubEq rfl) hq _ _ _) h

theorem State.SameCount.dramEvent {q : Page} {a : Nat} {r s : State} (h : State.SameCount q a r s) (hq : FarCnt q a) (cw : Nat)
    (c : Option Nat) (j : EccResult) : State.SameCount q a r (s.dramEvent cw c j) := by
  unfold State.dramEvent
  dsimp only
  have k : State.SameCount q a r (s.takeRetry cw) := h.hubEq rfl
  have d : ∀ o, o < 4096 → regAddr q a ≠ regAddr pgDdr o := fun o ho => (hq.2 o ho).2.1
  have key : ∀ (x : State), State.SameCount q a r x → ∀ (b : Bool) (f : FltRec), State.SameCount q a r (if b = true then x.toFlt f else x) :=
    fun x hx b f => .ite (.hubEq hx rfl) hx
  apply key
  cases j with
  | clean => exact k
  | corrected sym e => exact .hubEq (k.bumpBy hq.1 pgDdr 0x40 (c.map s.partOf) 1 (d _ (by decide))) rfl
  | uncorrectable => exact .hubEq ((k.bumpBy hq.1 pgDdr 0x48 (c.map s.partOf) 1 (d _ (by decide))).raise hq.1 pgDdr 8 (c.map s.partOf)) rfl

theorem State.SameCount.dramPut {q : Page} {a : Nat} {r s : State} (h : State.SameCount q a r s) (hq : FarCnt q a) (c : Option Nat) (n : Nat)
    (l : List (BitVec 8)) : State.SameCount q a r (s.dramPut c n l) := by
  unfold State.dramPut
  refine .foldl _ (fun t cw ht => ?_) _ _ h
  dsimp only
  have k : State.SameCount q a r (if decide (n ≤ 16 * cw ∧ 16 * cw + 16 ≤ n + l.length) then t else t.dramEvent cw c (eccJudge (s.xorOf cw))) :=
    .ite ht (ht.dramEvent hq _ _ _)
  split
  · split
    · exact k.faultCtx hq _ _
    · exact k
  · exact k.hubEq rfl

theorem State.SameCount.left {q : Page} {a : Nat} {r s t : State} (h : State.SameCount q a r s) (k : LeavesHub s t) : State.SameCount q a r t :=
  h.hubEq (Keeps.hub_eq k)

theorem State.SameCount.dramWrite {q : Page} {a : Nat} {r s : State} (h : State.SameCount q a r s) (hq : FarCnt q a) (c : Option Nat) (n : Nat)
    (l : List (BitVec 8)) : State.SameCount q a r (s.dramWrite c n l) := by
  have d : ∀ o, o < 4096 → regAddr q a ≠ regAddr pgDdr o := fun o ho => (hq.2 o ho).2.1
  unfold State.dramWrite
  dsimp only
  refine .ite ?_ ?_
  · refine .left ?_ (State.touchCheck_keeps (Keeps.refl _))
    refine .dramPut (.bumpBy ?_ hq.1 _ _ _ _ (d _ (by decide))) hq _ _ _
    unfold State.zeroTouch
    refine .foldl _ (fun t i ht => ?_) _ _ h
    dsimp only
    refine .ite ?_ ht
    have k : ∀ (n m : Nat), State.SameCount q a r (t.zeroBytes n m) := fun n m => ht.left (State.zeroBytes_keeps (Keeps.refl _))
    exact .hubEq (.bumpBy (k _ _) hq.1 pgDdr 0x78 none 1 (d _ (by decide))) rfl
  · have k : State.SameCount q a r (if sbaOk s.gate.act (n - dramBase) l.length then s else s.bump pgDdr 0x60 (c.map s.partOf)) :=
      .ite h (h.bumpBy hq.1 _ _ _ _ (d _ (by decide)))
    split
    · exact k.faultCtx hq _ _
    · exact k

theorem State.SameCount.tightLog {q : Page} {b : Nat} {r s : State} (h : State.SameCount q b r s) (hq : FarCnt q b) (c : Nat) (y : StepSt)
    (k a : Nat) : State.SameCount q b r (s.tightLog c y k a) := by
  unfold State.tightLog
  dsimp only
  refine .ite ?_ (h.record hq _ _ _)
  have g : ∀ (u : State) (n : Nat) (l : List (BitVec 8)) (m : Rms), State.SameCount q b r u →
      State.SameCount q b r { (u.dramWrite none n l) with rms := m } := fun u n l m hu => .hubEq (hu.dramWrite hq none n l) rfl
  exact .ite (.raise (g _ _ _ _ (h.record hq _ _ _)) hq.1 _ _ _) (g _ _ _ _ (h.record hq _ _ _))

theorem State.Heard.post {r s : State} (h : r.Heard s) (p : Page) (b : Nat) (x : Option Nat) (l : List Nat) : r.Heard (s.post p b x l) := by
  have e : s.post p b x l = (s.record p b l).raise p b x := rfl
  rw [e]
  exact (h.record _ _ _).raise _ _ _

/-- A post leaves its record in the trace and raises its event. -/
theorem State.posted (s : State) (p : Page) {b : Nat} (x : Option Nat) (l : List Nat) (hb : b < 32) :
    Sent.record (pageNo p) b l ∈ (s.post p b x l).hub.out ∧ (s.post p b x l).event .pf p b = true := by
  have e : s.post p b x l = (s.record p b l).raise p b x := rfl
  rw [e]
  exact ⟨State.out_raise _ _ _ _ (State.recorded _ _ _ _), State.event_raise_self _ _ _ hb⟩

/-- What is no function's traffic leaves. -/
theorem State.emitted (s : State) (x : Sent) (h : x.fn? = none) : x ∈ (s.emit x).hub.out := by
  unfold State.emit Hub.emit Hub.muted
  rw [h]
  simp

theorem State.SameCount.post {q : Page} {a : Nat} {r s : State} (h : State.SameCount q a r s) (hq : FarCnt q a) (p : Page) (b : Nat)
    (x : Option Nat) (l : List Nat) : State.SameCount q a r (s.post p b x l) := by
  have e : s.post p b x l = (s.record p b l).raise p b x := rfl
  rw [e]
  exact (h.record hq _ _ _).raise hq.1 _ _ _

theorem State.SameCount.emit {q : Page} {a : Nat} {r s : State} (h : State.SameCount q a r s) (x : Sent) : State.SameCount q a r (s.emit x) :=
  (State.count_emit s x q a).trans h

end Sys2Proof.Machine
end

