-- ==== Sys2Proof/Laws/EffectsGk.lean ====
section
/-!
SUPPORT. What the mailbox, the console and Groundskeeper's protocols leave.
-/

set_option Elab.async false

namespace Sys2Proof.Machine

open Sys2Proof

/-- A mailbox operation ends: nothing waits, and MB_DONE is raised (20 R484). -/
theorem State.mbRun_ends (s : State) (op len : Nat) : (s.mbRun op len).gk.mb = none ∧ (s.mbRun op len).event .pf pgGkp 8 = true := by
  have r : ∀ (u : State) c, (u.mbRefuse c).gk.mb = none ∧ (u.mbRefuse c).event .pf pgGkp 8 = true :=
    fun u c => ⟨rfl, State.event_raise_self _ _ _ (by decide)⟩
  have a : ∀ (u : State) l d, (u.mbAnswer l d).gk.mb = none ∧ (u.mbAnswer l d).event .pf pgGkp 8 = true :=
    fun u l d => ⟨rfl, State.event_raise_self _ _ _ (by decide)⟩
  unfold State.mbRun
  split
  · exact r _ _
  · split
    · exact r _ _
    · split
      · exact a _ _ _
      · split
        · split
          · exact r _ _
          · exact a _ _ _
        · split
          · exact r _ _
          · split
            · exact r _ _
            · exact a _ _ _

/-- A mailbox operation leaves the TAP. -/
theorem State.mbRun_tap (s : State) (op len : Nat) : (s.mbRun op len).gk.tapIr = s.gk.tapIr := by
  unfold State.mbRun
  split
  · rfl
  · split
    · rfl
    · split
      · rfl
      · split
        · split <;> rfl
        · split
          · rfl
          · split <;> rfl

/-- A debug record goes to the debug log, and the rest stays (15 R375). -/
theorem State.debugRecord_eq (s : State) (k m n : Nat) : ∃ a b c, s.debugRecord k m n = { s with sec := { s.sec with dbgSeq := a, dbgLog := b, chain := c } } := by
  unfold State.debugRecord
  exact ⟨_, _, _, rfl⟩

/-- A debug session that begins is open, and the rest of Groundskeeper and of the security block stays (15 R375). -/
theorem State.debugBegin_eq (s : State) (k m n : Nat) : ∃ (u : State) (x : Sec), s.debugBegin k m n = u ∧ u.gk = s.gk ∧ u.sec = x ∧
    x.dbgOpen = s.sec.dbgOpen ++ [(k, m, n)] ∧ x.console = s.sec.console ∧ s.Heard u := by
  obtain ⟨a, b, c, e⟩ := State.debugRecord_eq s (min k 4) m n
  refine ⟨_, _, rfl, ?_, rfl, ?_, ?_, ?_⟩
  · unfold State.debugBegin
    rw [e]
    rfl
  · unfold State.debugBegin
    rw [e]
    rfl
  · unfold State.debugBegin
    rw [e]
    rfl
  · unfold State.debugBegin
    rw [e]
    refine .raise (.bump ?_ _ _ _) _ _ _
    exact State.Heard.hubEq (.refl s) rfl

theorem State.Heard.debugBegin {r s : State} (h : r.Heard s) (k m n : Nat) : r.Heard (s.debugBegin k m n) := by
  obtain ⟨u, x, e, -, -, -, -, g⟩ := State.debugBegin_eq s k m n
  rw [e]
  exact h.trans g

theorem State.debugEnd_eq (s : State) (k n : Nat) : (s.debugEnd k n).hub = s.hub ∧ (s.debugEnd k n).gk = s.gk ∧
    (s.debugEnd k n).sec.console = s.sec.console := by
  unfold State.debugEnd
  split
  · exact ⟨rfl, rfl, rfl⟩
  · rename_i e _
    obtain ⟨a, b, c, g⟩ := State.debugRecord_eq s (min k 4 + 128) e.2.1 n
    rw [g]
    exact ⟨rfl, rfl, rfl⟩

theorem State.Heard.debugEnd {r s : State} (h : r.Heard s) (k n : Nat) : r.Heard (s.debugEnd k n) :=
  h.hubEq (State.debugEnd_eq s k n).1

@[simp] theorem State.advance_gkRuns (s : State) (x : Nat) : (s.advance x).gkRuns = s.gkRuns := by
  unfold State.gkRuns
  rw [State.advance_gkHalted]
  rfl

theorem State.debugBegin_open (s : State) (k m n : Nat) : (k, m, n) ∈ (s.debugBegin k m n).sec.dbgOpen ∧ (s.debugBegin k m n).gk = s.gk ∧
    (s.debugBegin k m n).sec.console = s.sec.console := by
  obtain ⟨u, x, e, g1, g2, g3, g4, -⟩ := State.debugBegin_eq s k m n
  rw [e, g1, g2, g3, g4]
  exact ⟨by simp, rfl, rfl⟩

theorem State.debugEnd_console (s : State) (k n : Nat) : (s.debugEnd k n).sec.console = s.sec.console := (State.debugEnd_eq s k n).2.2

theorem State.logout_gk (s : State) : s.logout.gk = s.gk := by
  unfold State.logout
  split
  · exact (State.debugEnd_eq _ _ _).2.1
  · rfl

/-- A restart of Groundskeeper leaves the update, the sets, and every notice but the oldest of 16 (20 R475). -/
theorem State.gkRestart_gk (s : State) : s.gkRestart.gk.update = s.gk.update ∧ s.gkRestart.gk.layoutSet = s.gk.layoutSet ∧
    s.gkRestart.gk.activeSet = s.gk.activeSet ∧
    s.gkRestart.gk.notices = (if 16 ≤ s.gk.notices.length then s.gk.notices.drop 1 else s.gk.notices) ++ [2] := by
  have mb : ∀ (v : State) c, (v.mbEnd c).gk.update = v.gk.update ∧ (v.mbEnd c).gk.layoutSet = v.gk.layoutSet ∧
      (v.mbEnd c).gk.activeSet = v.gk.activeSet ∧ (v.mbEnd c).gk.notices = v.gk.notices := by
    intro v c
    unfold State.mbEnd
    split <;> exact ⟨rfl, rfl, rfl, rfl⟩
  unfold State.gkRestart State.notice
  dsimp only
  obtain ⟨a1, a2, a3, a4⟩ := mb { s.logout with sec := { s.logout.sec with spdm := [], sessions := [] } } 3
  generalize ({ s.logout with sec := { s.logout.sec with spdm := [], sessions := [] } } : State).mbEnd 3 = w at *
  have lg := State.logout_gk s
  dsimp only at a1 a2 a3 a4
  rw [lg] at a1 a2 a3 a4
  refine ⟨a1, a2, a3, ?_⟩
  show (if decide (16 ≤ w.gk.notices.length) = true then w.gk.notices.drop 1 else w.gk.notices) ++ [2] = _
  rw [a4]
  simp only [decide_eq_true_eq]

end Sys2Proof.Machine
end

