-- ==== Sys2Proof/Laws/EffectsSprout.lean ====
section
/-!
SUPPORT. What an instruction of a Sprout leaves of it and of the others.
-/

set_option Elab.async false

namespace Sys2Proof.Machine

open Sys2Proof

/-! ### Sprouts -/

theorem State.sprout_modSprout (s : State) (i j : SproutId) (f : SproutSt → SproutSt) :
    (s.modSprout i f).sprout j = if j = i then f (s.sprout j) else s.sprout j := by
  unfold State.modSprout State.modBed State.sprout State.bed
  dsimp only
  split
  · rename_i h
    rw [h, SMap.get_modify_self]
    dsimp only
    rw [SMap.get_modify_self]
  · rename_i h
    by_cases hb : 17 * j.plot.val + j.bed.val = 17 * i.plot.val + i.bed.val
    · rw [hb, SMap.get_modify_self]
      dsimp only
      rw [SMap.get_modify_ne]
      intro hs
      apply h
      have h1 : j.plot.val = i.plot.val := by omega
      have h2 : j.bed.val = i.bed.val := by omega
      cases i
      cases j
      simp only [SproutId.mk.injEq]
      exact ⟨Fin.ext h1, Fin.ext h2, Fin.ext hs⟩
    · rw [SMap.get_modify_ne _ _ _ hb]

theorem State.ran_mod (s : State) (i : SproutId) (f : SproutSt → SproutSt) : s.Ran i (f (s.sprout i)) (s.modSprout i f) :=
  ⟨by rw [State.sprout_modSprout, if_pos rfl], fun j h => by rw [State.sprout_modSprout, if_neg h]⟩

theorem State.Ran.same {s t u : State} {i : SproutId} {y : SproutSt} (h : s.Ran i y t) (e : u.beds = t.beds) : s.Ran i y u := by
  have k : u.sprout = t.sprout := by
    funext j
    unfold State.sprout State.bed
    rw [e]
  unfold State.Ran
  rw [k]
  exact h

theorem State.Ran.from {s r t : State} {i : SproutId} {y : SproutSt} (h : r.Ran i y t) (e : s.beds = r.beds) : s.Ran i y t := by
  have k : s.sprout = r.sprout := by
    funext j
    unfold State.sprout State.bed
    rw [e]
  unfold State.Ran
  rw [k]
  exact h

theorem State.Ran.then {s t u : State} {i : SproutId} {x y : SproutSt} (h : s.Ran i x t) (g : t.Ran i y u) : s.Ran i y u :=
  ⟨g.1, fun j k => (g.2 j k).trans (h.2 j k)⟩

theorem State.ran_issue (s : State) (i : SproutId) (c : Nat) (f : SproutSt → SproutSt) (h : (s.sprout i).issues = true) :
    s.Ran i ((f (s.sprout i)).after c) (s.issue i c f) := by
  unfold State.issue
  rw [if_pos h]
  exact State.ran_mod s i _

theorem State.ran_saturated (s : State) (i : SproutId) (k : Nat) : s.Ran i ((s.sprout i).sats k) (s.saturated i k) := by
  unfold State.saturated SproutSt.sats
  split
  · exact ⟨rfl, fun _ _ => rfl⟩
  · exact (State.ran_mod s i _).same rfl

theorem State.ran_issueAlu (s : State) (i : SproutId) (rd : SReg) (f : SproutSt → Nat × Nat) (h : (s.sprout i).issues = true) :
    s.Ran i ((s.sprout i).wrote rd (f (s.sprout i))) (s.issueAlu i rd f) := by
  unfold State.issueAlu
  rw [if_pos h]
  have a := State.ran_issue s i 1 (fun x => x.set rd (f x).1) h
  have b := State.ran_saturated (s.issue i 1 fun x => x.set rd (f x).1) i (f (s.sprout i)).2
  rw [a.1] at b
  exact a.then b

theorem SproutSt.bank_setBank (x : SproutSt) (b : Bank) : (x.setBank b).bank = b := by
  unfold SproutSt.setBank SproutSt.bank
  by_cases h : x.st = .bank1
  · simp [h]
  · simp [h]

/-- Two Sprouts whose accumulator pairs are the same. -/
def SproutSt.SameAcc (x y : SproutSt) : Prop := y.bank.re = x.bank.re ∧ y.bank.im = x.bank.im

theorem SproutSt.SameAcc.trans {x y z : SproutSt} (h : x.SameAcc y) (g : y.SameAcc z) : x.SameAcc z :=
  ⟨g.1.trans h.1, g.2.trans h.2⟩

theorem SproutSt.acc_setBank (x : SproutSt) (b : Bank) (h : b.re = x.bank.re) (g : b.im = x.bank.im) : x.SameAcc (x.setBank b) := by
  unfold SproutSt.SameAcc
  rw [SproutSt.bank_setBank]
  exact ⟨h, g⟩

theorem SproutSt.acc_set (x : SproutSt) (r : SReg) (v : Nat) : x.SameAcc (x.set r v) := by
  cases r <;> first | exact SproutSt.acc_setBank _ _ rfl rfl | exact ⟨rfl, rfl⟩

theorem SproutSt.acc_postModify (x : SproutSt) (k : Fin 8) : x.SameAcc (x.postModify k) := SproutSt.acc_set _ _ _

theorem SproutSt.acc_after (x : SproutSt) (c : Nat) : x.SameAcc (x.after c) := by
  have h : x.SameAcc (x.setBank x.bank.next) := SproutSt.acc_setBank _ _ rfl rfl
  exact h

theorem SproutSt.acc_sats (x : SproutSt) (k : Nat) : x.SameAcc (x.sats k) := by
  unfold SproutSt.sats
  split
  · exact ⟨rfl, rfl⟩
  · exact SproutSt.acc_setBank _ _ rfl rfl

/-- What a read of data memory delivers depends on memory and on the errors struck into it. -/
theorem State.dataRead_congr (t s : State) (i : SproutId) (off : Nat) (hm : t.mem = s.mem) (he : t.ecc = s.ecc) :
    t.dataRead i off = s.dataRead i off := by
  unfold State.dataRead State.cwData State.xorOf
  rw [hm, he]

theorem State.fold_flt (F : Bool × State → Nat → Bool × State) (l : List Nat) :
    ∀ s : State, (∀ (t : State) (cw : Nat), cw ∈ l → ∃ g, F (false, t) cw = (false, { t with flt := g })) →
      ∃ f, l.foldl F (false, s) = (false, { s with flt := f }) := by
  induction l with
  | nil => exact fun s _ => ⟨s.flt, rfl⟩
  | cons a l ih =>
    intro s h
    obtain ⟨g, e⟩ := h s a (by simp)
    rw [List.foldl_cons, e]
    obtain ⟨f, e⟩ := ih { s with flt := g } fun t cw hc => h t cw (by simp [hc])
    exact ⟨f, e⟩

theorem State.dataEvents_sound (s : State) (i : SproutId) (off : Nat) (h : s.sound i off) :
    ∃ f, s.dataEvents i off = (false, { s with flt := f }) := by
  unfold State.dataEvents
  apply fold_flt
  · intro t cw hc
    dsimp only
    split
    · exact ⟨_, rfl⟩
    · exact ⟨_, rfl⟩
    · exact absurd ‹_› (h cw hc)

theorem State.issueRead_one (s : State) (i : SproutId) (off : Nat) (f : State → State) (h : (s.sprout i).issues = true)
    (k : s.sound i off) : ∃ g, s.issueRead i [off] f = f { s with flt := g } := by
  obtain ⟨g, e⟩ := State.dataEvents_sound s i off k
  refine ⟨g, ?_⟩
  unfold State.issueRead
  rw [if_pos h]
  simp [e]

theorem State.issueRead_two (s : State) (i : SproutId) (o1 o2 : Nat) (f : State → State) (h : (s.sprout i).issues = true)
    (k1 : s.sound i o1) (k2 : s.sound i o2) : ∃ g, s.issueRead i [o1, o2] f = f { s with flt := g } := by
  obtain ⟨g1, e1⟩ := State.dataEvents_sound s i o1 k1
  obtain ⟨g2, e2⟩ := State.dataEvents_sound { s with flt := g1 } i o2 k2
  refine ⟨g2, ?_⟩
  unfold State.issueRead
  rw [if_pos h]
  simp [e1, e2]

/-! ### Bytes written through the code -/

/-- The bytes of a number with one byte replaced. -/
theorem withField_byte (d i j v : Nat) : withField d (8 * j) 8 v / 256 ^ i % 256 = if i = j then v % 256 else d / 256 ^ i % 256 := by
  unfold withField fieldOf
  rw [Nat.shiftRight_eq_div_pow]
  have e : ∀ n, 2 ^ (8 * n) = 256 ^ n := fun n => by rw [Nat.pow_mul]
  simp only [e]
  have h256 : (2:Nat) ^ 8 = 256 := rfl
  rw [h256]
  have hp : 0 < 256 ^ j := Nat.pow_pos (by decide)
  set a := d / 256 ^ j / 256 with ha
  set b := d / 256 ^ j % 256 with hb
  set c := d % 256 ^ j with hc
  set w := v % 256 with hw
  have h1 : d = (256 * a + b) * 256 ^ j + c := by
    have q1 := Nat.div_add_mod d (256 ^ j)
    have q2 := Nat.div_add_mod (d / 256 ^ j) 256
    rw [← ha, ← hb] at q2
    rw [q2, hc]
    nlinarith
  have h2 : d - b * 256 ^ j + w * 256 ^ j = (256 * a + w) * 256 ^ j + c := by
    rw [h1]
    have : (256 * a + b) * 256 ^ j = 256 * a * 256 ^ j + b * 256 ^ j := Nat.add_mul _ _ _
    have : (256 * a + w) * 256 ^ j = 256 * a * 256 ^ j + w * 256 ^ j := Nat.add_mul _ _ _
    omega
  rw [h2]
  have hcl : c < 256 ^ j := Nat.mod_lt _ hp
  have hwl : w < 256 := Nat.mod_lt _ (by decide)
  have hbl : b < 256 := Nat.mod_lt _ (by decide)
  conv_rhs => rw [h1]
  split
  · rename_i hij
    subst hij
    rw [Nat.mul_comm, Nat.mul_add_div hp, Nat.div_eq_of_lt hcl]
    omega
  · rename_i hij
    rcases Nat.lt_or_gt_of_ne hij with hl | hl
    · obtain ⟨k, rfl⟩ : ∃ k, j = i + 1 + k := ⟨j - (i + 1), by omega⟩
      have hi : 0 < 256 ^ i := Nat.pow_pos (by decide)
      have : ∀ z, (z * 256 ^ (i + 1 + k) + c) / 256 ^ i % 256 = c / 256 ^ i % 256 := by
        intro z
        have : z * 256 ^ (i + 1 + k) = 256 ^ i * (256 * (z * 256 ^ k)) := by rw [pow_add, pow_succ]; ring
        rw [this, Nat.mul_add_div hi]
        omega
      rw [this, this]
    · obtain ⟨k, rfl⟩ : ∃ k, i = j + 1 + k := ⟨i - (j + 1), by omega⟩
      have : ∀ z, z < 256 → ((256 * a + z) * 256 ^ j + c) / 256 ^ (j + 1 + k) = a / 256 ^ k := by
        intro z hz
        rw [pow_add, pow_succ, ← Nat.div_div_eq_div_mul, ← Nat.div_div_eq_div_mul, Nat.mul_comm _ (256 ^ j), Nat.mul_add_div hp, Nat.div_eq_of_lt hcl]
        congr 1
        omega
      rw [this _ hwl, this _ hbl]

theorem deliver_zero (d : Nat) : eccDeliver d 0 = some d := by
  have h : eccJudge 0 = .clean := by decide
  unfold eccDeliver
  rw [h]
  exact congrArg some (Nat.xor_zero d)

theorem readBytes_byte (m : Mem) : ∀ (n a i : Nat), i < n → BitVec.ofNat 8 (leNat (Mem.readBytes m a n) / 256 ^ i) = Mem.read m (a + i)
  | 0, _, _, h => absurd h (Nat.not_lt_zero _)
  | n + 1, a, 0, _ => by
    have := leNat_ofNat (Mem.readBytes m a (n + 1)) 0 (Nat.succ_pos _)
    exact this
  | n + 1, a, i + 1, h => by
    have := readBytes_byte m n (a + 1) i (by omega)
    rw [show a + (i + 1) = a + 1 + i by omega, ← this]
    congr 1
    rw [pow_succ, Nat.mul_comm, ← Nat.div_div_eq_div_mul]
    congr 1
    show ((Mem.read m a).toNat + 256 * leNat (Mem.readBytes m (a + 1) n)) / 256 = _
    have := (Mem.read m a).isLt
    omega

theorem cw_byte (m : Mem) (a i : Nat) (h : i < 16) : BitVec.ofNat 8 (Mem.readLe m a 16 / 256 ^ i) = Mem.read m (a + i) :=
  readBytes_byte m 16 a i h

/-- Writing bytes through the code, each codeword read, corrected, merged and written. -/
theorem fold_bytes (A V : Nat → Nat) : ∀ (l : List Nat) (t : State), (∀ k ∈ l, eccJudge (t.xorOf (A k / 16)) ≠ .uncorrectable) → (l.map A).Nodup →
    let u := l.foldl (fun t k =>
      match eccDeliver (t.cwData (A k / 16)) (t.xorOf (A k / 16)) with
      | some d => t.putCw (A k / 16) (withField d (8 * (A k % 16)) 8 (V k % 256))
      | none => t) t
    (∀ k ∈ l, u.mem.read (A k) = BitVec.ofNat 8 (V k)) ∧ (∀ b, b / 16 ∉ l.map (fun k => A k / 16) → u.mem.read b = t.mem.read b) ∧
    (∀ b, t.xorOf (b / 16) = 0 → b ∉ l.map A → u.mem.read b = t.mem.read b) ∧ u.beds = t.beds := by
  intro l
  induction l with
  | nil => intro t _ _; exact ⟨fun k h => absurd h (List.not_mem_nil), fun _ _ => rfl, fun _ _ _ => rfl, rfl⟩
  | cons k l ih =>
    intro t hj hn
    obtain ⟨d, hd⟩ := deliver_some (t.cwData (A k / 16)) (t.xorOf (A k / 16)) (hj k (List.mem_cons_self ..))
    rw [List.foldl_cons]
    rw [hd]
    set t1 := t.putCw (A k / 16) (withField d (8 * (A k % 16)) 8 (V k % 256)) with ht1
    have hx : ∀ c, t1.xorOf c = if c = A k / 16 then 0 else t.xorOf c := by
      intro c
      rw [ht1]
      unfold State.putCw State.xorOf
      dsimp only
      exact SMap.get_put zeroUnlisted _ _ _ _
    have hin : ∀ i, i < 16 → t1.mem.read (16 * (A k / 16) + i) = BitVec.ofNat 8 (withField d (8 * (A k % 16)) 8 (V k % 256) / 256 ^ i) := by
      intro i hi
      exact Mem.read_writeLe_in _ _ _ _ _ hi
    have hout : ∀ b, b / 16 ≠ A k / 16 → t1.mem.read b = t.mem.read b := by
      intro b hb
      apply Mem.read_writeLe_out
      omega
    have hself : t1.mem.read (A k) = BitVec.ofNat 8 (V k) := by
      have : A k = 16 * (A k / 16) + A k % 16 := by omega
      have h2 := hin (A k % 16) (by omega)
      rw [← this] at h2
      rw [h2]
      have := withField_byte d (A k % 16) (A k % 16) (V k % 256)
      rw [if_pos rfl] at this
      apply BitVec.eq_of_toNat_eq
      simp only [BitVec.toNat_ofNat]
      have e : 2 ^ 8 = 256 := rfl
      omega
    have hkeep : ∀ b, t.xorOf (b / 16) = 0 → b ≠ A k → t1.mem.read b = t.mem.read b := by
      intro b hb hne
      by_cases hc : b / 16 = A k / 16
      · have hb2 : b = 16 * (A k / 16) + b % 16 := by omega
        have hbl : b % 16 < 16 := by omega
        rw [hc] at hb
        rw [hb, deliver_zero] at hd
        obtain rfl := Option.some.inj hd
        have h2 := hin (b % 16) hbl
        rw [← hb2] at h2
        rw [h2]
        have h3 := cw_byte t.mem (16 * (A k / 16)) (b % 16) hbl
        rw [← hb2] at h3
        rw [← h3]
        have := withField_byte (t.cwData (A k / 16)) (b % 16) (A k % 16) (V k % 256)
        rw [if_neg (by omega)] at this
        apply BitVec.eq_of_toNat_eq
        simp only [BitVec.toNat_ofNat]
        exact this
      · exact hout b hc
    have hj1 : ∀ m ∈ l, eccJudge (t1.xorOf (A m / 16)) ≠ .uncorrectable := by
      intro m hm
      rw [hx]
      split
      · exact judge0
      · exact hj m (List.mem_cons_of_mem _ hm)
    have hn2 := List.nodup_cons.1 hn
    obtain ⟨i1, i2, i3, i4⟩ := ih t1 hj1 hn2.2
    refine ⟨?_, ?_, ?_, i4.trans rfl⟩
    · intro m hm
      rcases List.mem_cons.1 hm with rfl | hm
      · rw [i3 (A m) (by rw [hx, if_pos rfl]) hn2.1]
        exact hself
      · exact i1 m hm
    · intro b hb
      simp only [List.map_cons, List.mem_cons, not_or] at hb
      rw [i2 b hb.2]
      exact hout b hb.1
    · intro b hb hm
      simp only [List.map_cons, List.mem_cons, not_or] at hm
      rw [i3 b (by rw [hx]; split; rfl; exact hb) hm.2]
      exact hkeep b hb hm.1

/-- What a write of a word of data memory leaves of memory. -/
theorem State.dataWrite_mem (s : State) (i : SproutId) (off x : Nat) (h : s.sound i off) :
    (∀ k, k < 4 → (s.dataWrite i off x).mem.read (sproutMem i + halfByte off k) = BitVec.ofNat 8 (x / 256 ^ k)) ∧
    (∀ b, b / 16 ∉ wordCws i off → (s.dataWrite i off x).mem.read b = s.mem.read b) ∧ (s.dataWrite i off x).beds = s.beds := by
  have hn : ((List.range 4).map fun k => sproutMem i + halfByte off k).Nodup := by
    refine List.Nodup.map_on ?_ (List.nodup_range)
    intro a ha b hb hab
    have h1 := List.mem_range.1 ha
    have h2 := List.mem_range.1 hb
    unfold halfByte at hab
    omega
  have hj : ∀ k ∈ List.range 4, eccJudge (s.xorOf ((sproutMem i + halfByte off k) / 16)) ≠ .uncorrectable := by
    intro k hk
    apply h
    unfold wordCws
    rw [List.mem_eraseDups]
    exact List.mem_map.2 ⟨k, hk, rfl⟩
  obtain ⟨a, b, -, d⟩ := fold_bytes (fun k => sproutMem i + halfByte off k) (fun k => x / 256 ^ k) (List.range 4) s hj hn
  unfold State.dataWrite
  dsimp only at a b d ⊢
  generalize (List.range 4).foldl _ s = u at *
  refine ⟨fun k hk => a k (List.mem_range.2 hk), fun c hc => b c ?_, d⟩
  intro hm
  apply hc
  unfold wordCws
  rw [List.mem_eraseDups]
  exact hm

end Sys2Proof.Machine
end

