-- ==== Sys2Proof/Laws/EffectsPlot.lean ====
section
/-!
SUPPORT. What reads and writes of store rows, chains and passes leave of a Plot's Big Top and Sieve.
-/

set_option Elab.async false

namespace Sys2Proof.Machine

open Sys2Proof

/-! ### Parts of a Plot -/

theorem State.plot_modPlot (s : State) (n m : Nat) (f : PlotSt → PlotSt) :
    (s.modPlot n f).plot m = if m = n then f (s.plot n) else s.plot m := by
  unfold State.plot State.modPlot
  by_cases h : m = n
  · subst h
    simp [SMap.get_modify_self]
  · simp [h, SMap.get_modify_ne]

@[simp] theorem State.btp_modBtp (s : State) (n : Nat) (f : BigTop → BigTop) : (s.modBtp n f).btp n = f (s.btp n) := by
  simp [State.btp, State.modBtp, State.plot_modPlot]

@[simp] theorem State.btp_modSiv (s : State) (n m : Nat) (f : Sieve → Sieve) : (s.modSiv n f).btp m = s.btp m := by
  unfold State.btp State.modSiv
  rw [State.plot_modPlot]
  split <;> simp_all

@[simp] theorem State.siv_modSiv (s : State) (n : Nat) (f : Sieve → Sieve) : (s.modSiv n f).siv n = f (s.siv n) := by
  simp [State.siv, State.modSiv, State.plot_modPlot]

@[simp] theorem State.siv_modBtp (s : State) (n m : Nat) (f : BigTop → BigTop) : (s.modBtp n f).siv m = s.siv m := by
  unfold State.siv State.modBtp
  rw [State.plot_modPlot]
  split <;> simp_all

/-- Every Big Top is as before. -/
def State.SameBtp (r t : State) : Prop := ∀ m, t.btp m = r.btp m

/-- Every Sieve is as before. -/
def State.SameSiv (r t : State) : Prop := ∀ m, t.siv m = r.siv m

theorem State.SameBtp.refl (s : State) : s.SameBtp s := fun _ => rfl
theorem State.SameSiv.refl (s : State) : s.SameSiv s := fun _ => rfl

theorem State.SameBtp.plots {r s t : State} (h : r.SameBtp s) (e : t.plots = s.plots) : r.SameBtp t := by
  intro m
  rw [← h m]
  unfold State.btp State.plot
  rw [e]

theorem State.SameSiv.plots {r s t : State} (h : r.SameSiv s) (e : t.plots = s.plots) : r.SameSiv t := by
  intro m
  rw [← h m]
  unfold State.siv State.plot
  rw [e]

theorem State.SameBtp.mod {r s : State} (h : r.SameBtp s) (n : Nat) (f : PlotSt → PlotSt) (hf : ∀ p, (f p).btp = p.btp) :
    r.SameBtp (s.modPlot n f) := by
  intro m
  rw [← h m]
  unfold State.btp
  rw [State.plot_modPlot]
  split
  · rename_i e
    rw [hf, e]
  · rfl

theorem State.SameSiv.mod {r s : State} (h : r.SameSiv s) (n : Nat) (f : PlotSt → PlotSt) (hf : ∀ p, (f p).siv = p.siv) :
    r.SameSiv (s.modPlot n f) := by
  intro m
  rw [← h m]
  unfold State.siv
  rw [State.plot_modPlot]
  split
  · rename_i e
    rw [hf, e]
  · rfl

/-- Both the Big Tops and the Sieves are as before. -/
def State.SameEngines (r t : State) : Prop := r.SameBtp t ∧ r.SameSiv t

theorem State.SameEngines.refl (s : State) : s.SameEngines s := ⟨.refl s, .refl s⟩

theorem State.SameEngines.plots {r s t : State} (h : r.SameEngines s) (e : t.plots = s.plots) : r.SameEngines t := ⟨h.1.plots e, h.2.plots e⟩

theorem State.SameEngines.left {r s t : State} (h : r.SameEngines s) (k : LeavesPlots s t) : r.SameEngines t := h.plots (Keeps.plots_eq k)

theorem State.SameBtp.left {r s t : State} (h : r.SameBtp s) (k : LeavesPlots s t) : r.SameBtp t := h.plots (Keeps.plots_eq k)

theorem State.SameEngines.mod {r s : State} (h : r.SameEngines s) (n : Nat) (f : PlotSt → PlotSt) (hb : ∀ p, (f p).btp = p.btp)
    (hs : ∀ p, (f p).siv = p.siv) : r.SameEngines (s.modPlot n f) := ⟨h.1.mod n f hb, h.2.mod n f hs⟩

theorem State.SameEngines.trans {r s t : State} (h : r.SameEngines s) (g : s.SameEngines t) : r.SameEngines t :=
  ⟨fun m => (g.1 m).trans (h.1 m), fun m => (g.2 m).trans (h.2 m)⟩

theorem State.SameEngines.ite {r a b : State} {c : Prop} [Decidable c] (ha : r.SameEngines a) (hb : r.SameEngines b) :
    r.SameEngines (if c then a else b) := by split <;> assumption

theorem State.SameEngines.foldl {α : Type} {r : State} (g : State → α → State) (hg : ∀ t x, r.SameEngines t → r.SameEngines (g t x)) :
    ∀ (l : List α) (t : State), r.SameEngines t → r.SameEngines (l.foldl g t)
  | [], _, h => h
  | x :: l, t, h => State.SameEngines.foldl g hg l _ (hg t x h)

theorem State.SameEngines.foldl2 {α β : Type} {r : State} (g : β × State → α → β × State)
    (hg : ∀ t x, r.SameEngines t.2 → r.SameEngines (g t x).2) : ∀ (l : List α) (t : β × State), r.SameEngines t.2 → r.SameEngines (l.foldl g t).2
  | [], _, h => h
  | x :: l, t, h => State.SameEngines.foldl2 g hg l _ (hg t x h)

/-! ### Rows -/

theorem State.eccEvent_same {r s : State} {n : Nat} {st : Store} {w c : Nat} {p : Bool} {x y : Option Nat} {j : EccResult} (h : r.SameEngines s) :
    r.SameEngines (s.eccEvent n st w c p x y j) := by
  unfold State.eccEvent
  dsimp only
  split
  · exact h
  · refine .ite h ?_
    refine .left ?_ (State.toFlt_keeps (Keeps.refl _))
    refine .mod ?_ _ _ (fun _ => rfl) (fun _ => rfl)
    exact h.left (State.bump_keeps (Keeps.refl _))
  · refine .left ?_ (State.armRetry_keeps (State.toFlt_keeps (Keeps.refl _)))
    have k2 := (h.left (State.bump_keeps (Keeps.refl _) : LeavesPlots s (s.bump (pgSto n) 0x70 y)))
    refine .ite ?_ ?_
    · exact .mod k2 _ _ (fun _ => rfl) (fun _ => rfl)
    · refine .left ?_ (State.raise_keeps (Keeps.refl _))
      exact .mod k2 _ _ (fun _ => rfl) (fun _ => rfl)

theorem State.rowEvents_same {r s : State} {n : Nat} {st : Store} {w : Nat} {p : Bool} {x y : Option Nat} (h : r.SameEngines s) :
    r.SameEngines (s.rowEvents n st w p x y) := by
  unfold State.rowEvents State.rowRetry
  have k : r.SameEngines (List.foldl (fun t c => t.eccEvent n st w c p x y (s.judgeCw n st w c))
      (s.takeRetry (rowAddr n st w / 16)) (List.range 4)) :=
    .foldl _ (fun t c ht => State.eccEvent_same ht) _ _ (h.left (State.takeRetry_keeps (Keeps.refl _)))
  exact .ite (k.left (State.toFlt_keeps (Keeps.refl _))) k

theorem State.queueWb_same {r s : State} {n : Nat} {st : Store} {w : Nat} {p : Option Nat} (h : r.SameEngines s) :
    r.SameEngines (s.queueWb n st w p) := by
  unfold State.queueWb
  exact .ite h (.ite (h.mod _ _ (fun _ => rfl) (fun _ => rfl)) (h.left (State.bump_keeps (Keeps.refl _))))

theorem State.readRowOf_same {r s : State} {n : Nat} {st : Store} {w : Nat} {x p : Option Nat} (h : r.SameEngines s) :
    r.SameEngines (s.readRowOf n st w x p).2 := by
  have k : r.SameEngines (s.rowEvents n st w false x p) := State.rowEvents_same h
  unfold State.readRowOf
  generalize s.rowData n st w = o
  cases o with
  | some d =>
    dsimp only
    generalize s.rowCorrected n st w = b
    cases b
    · exact k
    · exact State.queueWb_same k
  | none =>
    cases x with
    | some c => exact k.left (State.faultCtx_keeps (Keeps.refl _))
    | none => exact k

theorem State.readRow_same {r s : State} {n : Nat} {st : Store} {w : Nat} (h : r.SameEngines s) : r.SameEngines (s.readRow n st w).2 := by
  unfold State.readRow
  exact State.readRowOf_same h

theorem State.freshen_same {r s : State} {n : Nat} {st : Store} {w c : Nat} (h : r.SameEngines s) : r.SameEngines (s.freshen n st w c) := by
  unfold State.freshen
  split
  · exact h
  · exact h.mod _ _ (fun _ => rfl) (fun _ => rfl)

theorem State.writeRow_same {r s s0 : State} {n : Nat} {st : Store} {w d m : Nat} {x p : Option Nat} (h : r.SameEngines s) :
    r.SameEngines (s.writeRow s0 n st w d m x p) := by
  unfold State.writeRow
  refine .foldl _ (fun t c ht => ?_) _ _ h
  unfold State.writeCw
  have k : r.SameEngines (if m / 2 ^ (16 * c) % 2 ^ 16 % 2 ^ 16 = 2 ^ 16 - 1 then t
      else t.eccEvent n st w c false x p (s0.judgeCw n st w c)) := .ite ht (State.eccEvent_same ht)
  refine .ite ht ?_
  dsimp only
  split
  · exact State.freshen_same (k.plots rfl)
  · split
    · exact k.left (State.faultCtx_keeps (Keeps.refl _))
    · exact k

theorem State.oob_same {r s : State} {n e : Nat} {st : Store} {c : Nat} {w : Bool} {l : Nat} (h : r.SameEngines s) :
    r.SameEngines (s.oob n e st c w l) := by
  unfold State.oob
  refine .left ?_ (State.faultCtx_keeps (State.raise_keeps (Keeps.refl _)))
  exact .mod (h.left (State.bump_keeps (Keeps.refl _))) _ _ (fun _ => rfl) (fun _ => rfl)

theorem State.winRead_same {r s : State} {n e : Nat} {st : Store} {c l : Nat} (h : r.SameEngines s) :
    r.SameEngines (s.winRead n e st c l).2 := by
  unfold State.winRead
  split
  · exact h.left (State.faultCtx_keeps (Keeps.refl _))
  · split
    · exact State.oob_same h
    · exact State.readRowOf_same h

theorem State.winReadN_same {r : State} {n e : Nat} {st : Store} {c : Nat} : ∀ (k : Nat) {s : State} {l : Nat}, r.SameEngines s →
    r.SameEngines (s.winReadN n e st c l k).2
  | 0, _, _, h => h
  | k + 1, s, l, h => by
    have g := State.winReadN_same (c := c) (e := e) (st := st) (n := n) k (l := l + 1) (State.winRead_same (n := n) (e := e) (st := st) (c := c) (l := l) h)
    unfold State.winReadN
    dsimp only
    split <;> exact g

theorem State.winWrite_same {r s : State} {n e : Nat} {st : Store} {c l d m : Nat} (h : r.SameEngines s) :
    r.SameEngines (s.winWrite n e st c l d m) := by
  unfold State.winWrite
  refine .ite (h.left (State.faultCtx_keeps (Keeps.refl _))) ?_
  split
  · exact State.oob_same h
  · exact State.writeRow_same h

theorem State.winWriteN_same {r : State} {n e : Nat} {st : Store} {c : Nat} : ∀ (k : Nat) {s : State} {l d : Nat}, r.SameEngines s →
    r.SameEngines (s.winWriteN n e st c l d k)
  | 0, _, _, _, h => h
  | k + 1, _, _, _, h => State.winWriteN_same k (State.winWrite_same h)

/-! ### The feed of the Big Top -/

theorem State.feedRow_same {r : State} {n e w : Nat} : ∀ (k : Nat) {s : State} {i : Nat}, r.SameEngines s →
    r.SameEngines (s.feedRow n e w i k).2
  | 0, _, _, h => h
  | k + 1, s, i, h => by
    have g := State.feedRow_same (n := n) (e := e) (w := w) k (i := i + 1) (State.winRead_same (n := n) (e := e) (st := .a) (c := i / 4 % 2) (l := w + i) h)
    unfold State.feedRow
    dsimp only
    split <;> exact g

theorem State.passRowsFrom_same {r s : State} {n e d m k : Nat} (h : r.SameEngines s) : r.SameEngines (s.passRowsFrom n e d m k).2 := by
  unfold State.passRowsFrom
  exact State.SameEngines.foldl2 (β := Option (List Nat)) _ (fun t x ht => State.feedRow_same _ ht) _ (some [], s) h

theorem State.fallBack_same {r s : State} {c n k b : Nat} {l : List Nat} (h : r.SameEngines s) : r.SameEngines (s.fallBack c n k b l) := by
  unfold State.fallBack
  split
  · exact h
  · refine .foldl _ (fun t x ht => ?_) _ _ h
    have g : r.SameEngines (t.astSet c ‹StepSt› k (fieldOf x 12 5) (fieldOf x 0 12) (2 ^ b)) := by
      unfold State.astSet
      split
      · exact ht
      · exact State.winWrite_same ht
    exact .ite (g.left (State.record_keeps (Keeps.refl _))) g

theorem State.readTile_same {r s : State} {n : Nat} {y : Tile} (h : r.SameEngines s) : r.SameEngines (s.readTile n y).2 := by
  unfold State.readTile
  refine State.SameEngines.foldl2 (β := Option (List Nat)) _ (fun t x ht => ?_) _ (some [], s) h
  exact State.winRead_same ht

/-! ### A chain leaves the Big Tops -/

theorem State.SameBtp.ite {r a b : State} {c : Prop} [Decidable c] (ha : r.SameBtp a) (hb : r.SameBtp b) : r.SameBtp (if c then a else b) := by
  split <;> assumption

theorem State.SameBtp.engines {r s t : State} (h : r.SameBtp s) (g : s.SameEngines t) : r.SameBtp t := fun m => (g.1 m).trans (h m)

theorem State.SameBtp.siv {r s : State} (h : r.SameBtp s) (n : Nat) (f : Sieve → Sieve) : r.SameBtp (s.modSiv n f) := h.mod _ _ fun _ => rfl

theorem State.readStream_same {r s : State} {n e x i : Nat} {d m : Bool} {t : Tally} (h : r.SameEngines s) :
    r.SameEngines (s.readStream n e x i d m t).2.2 := by
  unfold State.readStream
  dsimp only
  split
  · split
    · exact State.winReadN_same _ h
    · exact (State.winReadN_same _ h).left (State.tick_keeps (Keeps.refl _))
  · have k : r.SameEngines (if d = true then s.winReadN n e .a 2 (sRow x + i * sStride x) (laneRows (sFmt x)) else (some 0, s)).2 := by
      split
      · exact State.winReadN_same _ h
      · exact h
    have k2 : r.SameEngines (if m = true then (if d = true then s.winReadN n e .a 2 (sRow x + i * sStride x) (laneRows (sFmt x))
        else (some 0, s)).2.winRead n e .a 2 (sRow x + i * sStride x + laneRows (sFmt x))
        else (some 0, (if d = true then s.winReadN n e .a 2 (sRow x + i * sStride x) (laneRows (sFmt x)) else (some 0, s)).2)).2 := by
      split
      · exact State.winRead_same k
      · exact k
    split <;> exact k2

theorem State.writeW_same {r s : State} {n e d i : Nat} {l : List Nat} {m : Nat} (h : r.SameEngines s) : r.SameEngines (s.writeW n e d i l m) := by
  unfold State.writeW
  dsimp only
  exact .ite (.ite h (State.winWrite_same h)) (.ite (State.winWriteN_same _ h) (State.winWrite_same (State.winWriteN_same _ h)))

theorem State.chainIter_btp {r s : State} {n : Nat} {q : ChainReq} {k : Int} {i : Nat} {t : Tally} (h : r.SameBtp s) :
    r.SameBtp (s.chainIter n q k i t).2 := by
  unfold State.chainIter
  dsimp only
  have e1 : s.SameEngines (if (cUses q.desc 0x28 || decide (cMarkSrc q.desc = 1)) = true then
      s.readStream n q.entry (cX q.desc) i (cUses q.desc 0x28) (decide (cMarkSrc q.desc = 1)) t else (some ([], 0), t, s)).2.2 := by
    split
    · exact State.readStream_same (.refl s)
    · exact .refl s
  generalize (if (cUses q.desc 0x28 || decide (cMarkSrc q.desc = 1)) = true then
      s.readStream n q.entry (cX q.desc) i (cUses q.desc 0x28) (decide (cMarkSrc q.desc = 1)) t else (some ([], 0), t, s)) = a at e1 ⊢
  have e2 : s.SameEngines (if (cUses q.desc 0x29 || decide (cMarkSrc q.desc = 2)) = true then
      a.2.2.readStream n q.entry (cY q.desc) i (cUses q.desc 0x29) (decide (cMarkSrc q.desc = 2)) a.2.1 else (some ([], 0), a.2.1, a.2.2)).2.2 := by
    split
    · exact State.readStream_same e1
    · exact e1
  generalize (if (cUses q.desc 0x29 || decide (cMarkSrc q.desc = 2)) = true then
      a.2.2.readStream n q.entry (cY q.desc) i (cUses q.desc 0x29) (decide (cMarkSrc q.desc = 2)) a.2.1 else (some ([], 0), a.2.1, a.2.2)) = b at e2 ⊢
  have e3 : r.SameBtp b.2.2 := h.engines e2
  split
  · split
    · exact e3.engines (State.writeW_same (.refl _))
    · split
      · exact e3.siv _ _
      · exact (e3.siv _ _).engines (State.writeW_same (.refl _))
  · exact e3

theorem State.chainIters_btp {r : State} {n : Nat} {q : ChainReq} {k : Int} : ∀ (m : Nat) {s : State} {i : Nat} {t : Tally}, r.SameBtp s →
    r.SameBtp (s.chainIters n q k i t m).2
  | 0, _, _, _, h => h
  | m + 1, s, i, t, h => by
    have g := State.chainIter_btp (n := n) (q := q) (k := k) (i := i) (t := t) h
    unfold State.chainIters
    dsimp only
    split
    · exact g
    · exact State.chainIters_btp m g

theorem State.chainBody_btp {r s : State} {n : Nat} {q : ChainReq} {k : Int} (h : r.SameBtp s) : r.SameBtp (s.chainBody n q k).2 := by
  have g := State.chainIters_btp (n := n) (q := q) (k := k) (cIters q.desc) (i := 0) (t := {}) h
  unfold State.chainBody
  dsimp only
  split
  · exact g
  · split
    · refine g.engines ?_
      exact .foldl _ (fun t x ht => State.winWrite_same ht) _ _ (.refl _)
    · exact g

theorem State.chainScales_btp {r s : State} {n : Nat} {q : ChainReq} (h : r.SameBtp s) : r.SameBtp (s.chainScales n q) := by
  unfold State.chainScales
  dsimp only
  have k : r.SameBtp (s.winReadN n q.entry .w 1 (cScaleRow q.desc) 16).2 := h.engines (State.winReadN_same _ (.refl _))
  have k1 : ∀ t : State, r.SameBtp t → r.SameBtp (if cSwapScale q.desc = true then t.modSiv n fun v => { v with active := !v.active } else t) :=
    fun t ht => .ite (ht.siv _ _) ht
  apply k1
  split
  · split
    · exact k
    · exact .ite (k.siv _ _) ((k.siv _ _).left (State.faultCtx_keeps (Keeps.refl _)))
  · exact h

theorem State.countTally_keepsPlots (s : State) (n : Nat) (q : ChainReq) (t : Tally) : LeavesPlots s (s.countTally n q t) :=
  State.countTally_keeps (Keeps.refl s)

theorem State.runChain_btp {r s : State} {n : Nat} {q : ChainReq} (h : r.SameBtp s) : r.SameBtp (s.runChain n q) := by
  unfold State.runChain
  dsimp only
  have h0 := h.siv n (fun v => { v with waiting := none })
  refine .ite (h0.left (State.faultCtx_keeps (Keeps.refl _))) ?_
  have h1 : r.SameBtp (if q.races = [] then s.modSiv n fun v => { v with waiting := none }
      else (((s.modSiv n fun v => { v with waiting := none }).bumpBy (pgSiv n) 0x70 (some (s.partOf q.ctx)) q.races.length).raise (pgSiv n) 8
        (some (s.partOf q.ctx))).raced q.ctx) :=
    .ite h0 (h0.left (State.raced_keeps (State.raise_keeps (State.bumpBy_keeps (Keeps.refl _)))))
  generalize (if q.races = [] then s.modSiv n fun v => { v with waiting := none }
      else (((s.modSiv n fun v => { v with waiting := none }).bumpBy (pgSiv n) 0x70 (some (s.partOf q.ctx)) q.races.length).raise (pgSiv n) 8
        (some (s.partOf q.ctx))).raced q.ctx) = u at h1 ⊢
  have h2 := State.chainBody_btp (n := n) (q := q) (k := s.actShift q) (State.chainScales_btp (n := n) (q := q) h1)
  split
  · exact h2
  · have h3 : ∀ (t : Tally) (f : Sieve → Sieve), r.SameBtp ((((u.chainScales n q).chainBody n q (s.actShift q)).2.countTally n q t).modSiv n f) :=
      fun t f => (h2.left (State.countTally_keepsPlots _ n q t)).siv _ _
    exact .ite (((h3 _ _).left (State.bumpBy_keeps (Keeps.refl _))).engines (State.fallBack_same (.refl _)))
      ((h3 _ _).left (State.bumpBy_keeps (Keeps.refl _)))

theorem State.nextChain_btp {r s : State} {n : Nat} (h : r.SameBtp s) : r.SameBtp (s.nextChain n) := by
  unfold State.nextChain
  dsimp only
  split
  · exact h
  · split
    · exact h
    · exact .ite ((h.siv _ _).siv _ _) (State.runChain_btp (h.siv _ _))

theorem State.nextChains_btp {r : State} {n : Nat} : ∀ (k : Nat) {s : State}, r.SameBtp s → r.SameBtp (s.nextChains n k)
  | 0, _, h => h
  | k + 1, _, h => State.nextChains_btp k (State.nextChain_btp h)

theorem State.pumpSieve_btp {r s : State} {n : Nat} (h : r.SameBtp s) : r.SameBtp (s.pumpSieve n) := by
  unfold State.pumpSieve
  refine State.nextChains_btp _ ?_
  split
  · exact h
  · exact .ite (State.runChain_btp h) h

/-! ### A chain leaves the retry that waits -/

/-- The retry of every Sieve, and whether it is granted, are as before. -/
def State.SameRetry (r t : State) : Prop := ∀ m, (t.siv m).retry = (r.siv m).retry ∧ (t.siv m).retryGranted = (r.siv m).retryGranted

theorem State.SameRetry.refl (s : State) : s.SameRetry s := fun _ => ⟨rfl, rfl⟩

theorem State.SameRetry.sivEq {r s t : State} (h : r.SameRetry s) (e : s.SameSiv t) : r.SameRetry t := by
  intro m
  rw [e m]
  exact h m

theorem State.SameRetry.left {r s t : State} (h : r.SameRetry s) (k : LeavesPlots s t) : r.SameRetry t :=
  h.sivEq ((State.SameSiv.refl s).plots (Keeps.plots_eq k))

theorem State.SameRetry.engines {r s t : State} (h : r.SameRetry s) (g : s.SameEngines t) : r.SameRetry t := h.sivEq g.2

theorem State.SameRetry.siv {r s : State} (h : r.SameRetry s) (n : Nat) (f : Sieve → Sieve)
    (hf : ∀ v, (f v).retry = v.retry ∧ (f v).retryGranted = v.retryGranted := by
      first | exact fun _ => ⟨rfl, rfl⟩ | (intro v; by_cases hv : v.active = true <;> simp [hv]) | (intro v; exact ⟨rfl, rfl⟩)) : r.SameRetry (s.modSiv n f) := by
  intro m
  unfold State.siv State.modSiv
  rw [State.plot_modPlot]
  split
  · rename_i e
    subst e
    exact ⟨(hf _).1.trans (h m).1, (hf _).2.trans (h m).2⟩
  · exact h m

theorem State.SameRetry.ite {r a b : State} {c : Prop} [Decidable c] (ha : r.SameRetry a) (hb : r.SameRetry b) :
    r.SameRetry (if c then a else b) := by split <;> assumption

theorem State.chainIter_retry {r s : State} {n : Nat} {q : ChainReq} {k : Int} {i : Nat} {t : Tally} (h : r.SameRetry s) :
    r.SameRetry (s.chainIter n q k i t).2 := by
  unfold State.chainIter
  dsimp only
  have e1 : s.SameEngines (if (cUses q.desc 0x28 || decide (cMarkSrc q.desc = 1)) = true then
      s.readStream n q.entry (cX q.desc) i (cUses q.desc 0x28) (decide (cMarkSrc q.desc = 1)) t else (some ([], 0), t, s)).2.2 := by
    split
    · exact State.readStream_same (.refl s)
    · exact .refl s
  generalize (if (cUses q.desc 0x28 || decide (cMarkSrc q.desc = 1)) = true then
      s.readStream n q.entry (cX q.desc) i (cUses q.desc 0x28) (decide (cMarkSrc q.desc = 1)) t else (some ([], 0), t, s)) = a at e1 ⊢
  have e2 : s.SameEngines (if (cUses q.desc 0x29 || decide (cMarkSrc q.desc = 2)) = true then
      a.2.2.readStream n q.entry (cY q.desc) i (cUses q.desc 0x29) (decide (cMarkSrc q.desc = 2)) a.2.1 else (some ([], 0), a.2.1, a.2.2)).2.2 := by
    split
    · exact State.readStream_same e1
    · exact e1
  generalize (if (cUses q.desc 0x29 || decide (cMarkSrc q.desc = 2)) = true then
      a.2.2.readStream n q.entry (cY q.desc) i (cUses q.desc 0x29) (decide (cMarkSrc q.desc = 2)) a.2.1 else (some ([], 0), a.2.1, a.2.2)) = b at e2 ⊢
  have e3 : r.SameRetry b.2.2 := h.engines e2
  split
  · split
    · exact e3.engines (State.writeW_same (.refl _))
    · split
      · exact e3.siv _ _
      · exact (e3.siv _ _).engines (State.writeW_same (.refl _))
  · exact e3

theorem State.chainIters_retry {r : State} {n : Nat} {q : ChainReq} {k : Int} : ∀ (m : Nat) {s : State} {i : Nat} {t : Tally}, r.SameRetry s →
    r.SameRetry (s.chainIters n q k i t m).2
  | 0, _, _, _, h => h
  | m + 1, s, i, t, h => by
    have g := State.chainIter_retry (n := n) (q := q) (k := k) (i := i) (t := t) h
    unfold State.chainIters
    dsimp only
    split
    · exact g
    · exact State.chainIters_retry m g

theorem State.chainBody_retry {r s : State} {n : Nat} {q : ChainReq} {k : Int} (h : r.SameRetry s) : r.SameRetry (s.chainBody n q k).2 := by
  have g := State.chainIters_retry (n := n) (q := q) (k := k) (cIters q.desc) (i := 0) (t := {}) h
  unfold State.chainBody
  dsimp only
  split
  · exact g
  · split
    · refine g.engines ?_
      exact .foldl _ (fun t x ht => State.winWrite_same ht) _ _ (.refl _)
    · exact g

theorem State.chainScales_retry {r s : State} {n : Nat} {q : ChainReq} (h : r.SameRetry s) : r.SameRetry (s.chainScales n q) := by
  unfold State.chainScales
  dsimp only
  have k : r.SameRetry (s.winReadN n q.entry .w 1 (cScaleRow q.desc) 16).2 := h.engines (State.winReadN_same _ (.refl _))
  have k1 : ∀ t : State, r.SameRetry t → r.SameRetry (if cSwapScale q.desc = true then t.modSiv n fun v => { v with active := !v.active } else t) :=
    fun t ht => .ite (ht.siv _ _) ht
  apply k1
  split
  · split
    · exact k
    · exact .ite (k.siv _ _) ((k.siv _ _).left (State.faultCtx_keeps (Keeps.refl _)))
  · exact h

theorem State.runChain_retry {r s : State} {n : Nat} {q : ChainReq} (h : r.SameRetry s) : r.SameRetry (s.runChain n q) := by
  unfold State.runChain
  dsimp only
  have h0 := h.siv n (fun v => { v with waiting := none })
  refine .ite (h0.left (State.faultCtx_keeps (Keeps.refl _))) ?_
  have h1 : r.SameRetry (if q.races = [] then s.modSiv n fun v => { v with waiting := none }
      else (((s.modSiv n fun v => { v with waiting := none }).bumpBy (pgSiv n) 0x70 (some (s.partOf q.ctx)) q.races.length).raise (pgSiv n) 8
        (some (s.partOf q.ctx))).raced q.ctx) :=
    .ite h0 (h0.left (State.raced_keeps (State.raise_keeps (State.bumpBy_keeps (Keeps.refl _)))))
  generalize (if q.races = [] then s.modSiv n fun v => { v with waiting := none }
      else (((s.modSiv n fun v => { v with waiting := none }).bumpBy (pgSiv n) 0x70 (some (s.partOf q.ctx)) q.races.length).raise (pgSiv n) 8
        (some (s.partOf q.ctx))).raced q.ctx) = u at h1 ⊢
  have h2 := State.chainBody_retry (n := n) (q := q) (k := s.actShift q) (State.chainScales_retry (n := n) (q := q) h1)
  split
  · exact h2
  · have h3 : ∀ (t : Tally) (o : Option ChainResult), r.SameRetry ((((u.chainScales n q).chainBody n q (s.actShift q)).2.countTally n q t).modSiv n
        fun v => { v with running := o }) :=
      fun t o => (h2.left (State.countTally_keepsPlots _ n q t)).siv _ _
    exact .ite (((h3 _ _).left (State.bumpBy_keeps (Keeps.refl _))).engines (State.fallBack_same (.refl _)))
      ((h3 _ _).left (State.bumpBy_keeps (Keeps.refl _)))

theorem State.nextChain_retry {r s : State} {n : Nat} (h : r.SameRetry s) : r.SameRetry (s.nextChain n) := by
  unfold State.nextChain
  dsimp only
  split
  · exact h
  · split
    · exact h
    · exact .ite ((h.siv _ _).siv _ _) (State.runChain_retry (h.siv _ _))

theorem State.nextChains_retry {r : State} {n : Nat} : ∀ (k : Nat) {s : State}, r.SameRetry s → r.SameRetry (s.nextChains n k)
  | 0, _, h => h
  | k + 1, _, h => State.nextChains_retry k (State.nextChain_retry h)

theorem State.pumpSieve_retry {r s : State} {n : Nat} (h : r.SameRetry s) : r.SameRetry (s.pumpSieve n) := by
  unfold State.pumpSieve
  refine State.nextChains_retry _ ?_
  split
  · exact h
  · exact .ite (State.runChain_retry h) h

/-! ### Nothing waits -/

theorem State.pumpBtp_nil (s : State) (n : Nat) (h : (s.btp n).queue = []) : s.pumpBtp n = s := by
  unfold State.pumpBtp
  rw [h]
  rfl

theorem State.pumpSieve_nil (s : State) (n : Nat) (h : (s.siv n).waiting = none) (g : (s.siv n).held = []) : s.pumpSieve n = s := by
  unfold State.pumpSieve
  rw [h]
  simp [g, State.nextChains]

/-! ### A pass -/

/-- The active formats, the owners, the logs and the queue of a Big Top are as before. -/
def BigTop.SameHead (a b : BigTop) : Prop :=
  b.numActive = a.numActive ∧ b.owner0 = a.owner0 ∧ b.owner1 = a.owner1 ∧ b.bank0.log = a.bank0.log ∧ b.bank1.log = a.bank1.log ∧ b.queue = a.queue

theorem BigTop.SameHead.refl (a : BigTop) : a.SameHead a := ⟨rfl, rfl, rfl, rfl, rfl, rfl⟩

theorem BigTop.SameHead.trans {a b c : BigTop} (h : a.SameHead b) (g : b.SameHead c) : a.SameHead c :=
  ⟨g.1.trans h.1, g.2.1.trans h.2.1, g.2.2.1.trans h.2.2.1, g.2.2.2.1.trans h.2.2.2.1, g.2.2.2.2.1.trans h.2.2.2.2.1, g.2.2.2.2.2.trans h.2.2.2.2.2⟩

theorem BigTop.SameHead.of_eq {a b : BigTop} (h : b = a) : a.SameHead b := h ▸ .refl a

theorem foldl_head {α β : Type} {r : BigTop} (g : BigTop × β → α → BigTop × β) (hg : ∀ t x, r.SameHead t.1 → r.SameHead (g t x).1) :
    ∀ (l : List α) (t : BigTop × β), r.SameHead t.1 → r.SameHead (l.foldl g t).1
  | [], _, h => h
  | x :: l, t, h => foldl_head g hg l _ (hg t x h)

theorem BigTop.column_head {r b : BigTop} (d ctx : Nat) (t : Tile) (row n draw m : Nat) (h : r.SameHead b) :
    r.SameHead (b.column d ctx t row n draw m).1 := by
  unfold BigTop.column
  dsimp only
  refine foldl_head (β := Nat) _ (fun t x ht => ?_) _ (b, 0) h
  exact ht

theorem BigTop.runRowsOf_head (b : BigTop) (d ctx : Nat) (t : Tile) (rows : List Nat) (draw : Nat) :
    b.SameHead (b.runRowsOf d ctx t rows draw).1 := by
  unfold BigTop.runRowsOf
  refine foldl_head (β := Nat × Nat) _ (fun t m ht => ?_) _ (b, 0, 0) (.refl b)
  refine foldl_head (β := Nat × Nat) _ (fun u k hu => ?_) _ t ht
  exact BigTop.column_head d ctx _ _ k draw m hu

theorem State.accumulate_head (s : State) (n : Nat) (q : PassReq) (t : Tile) : (s.btp n).SameHead ((s.accumulate n q t false).btp n) := by
  unfold State.accumulate
  simp only [Bool.false_eq_true, if_false]
  have k : (s.btp n).SameHead ((s.passRows n q.entry q.desc).2.btp n) := by
    unfold State.passRows
    dsimp only
    have := (State.passRowsFrom_same (n := n) (e := q.entry) (d := q.desc) (m := (s.btp n).west.length) (k := pRows q.desc - (s.btp n).west.length)
      (.refl (s.modBtp n fun b => { b with west := [] }))).1 n
    rw [this, State.btp_modBtp]
    exact ⟨rfl, rfl, rfl, rfl, rfl, rfl⟩
  generalize s.passRows n q.entry q.desc = r at k ⊢
  cases h : r.1 with
  | none => exact k
  | some rows =>
    dsimp only
    have e0 : ((r.2.tick.bumpBy (pgBtp n) 0x88 (some (s.partOf q.ctx)) (pRows q.desc * pSlots q.desc)).btp n) = r.2.btp n :=
      (State.SameBtp.left (.refl r.2) (State.bumpBy_keeps (State.tick_keeps (Keeps.refl _)))) n
    split
    · rw [(State.SameBtp.left (.refl _) (State.faultCtx_keeps (Keeps.refl _)) : State.SameBtp _ _) n, e0]
      exact k
    · rw [(State.SameBtp.left (.refl _) (State.bumpBy_keeps (State.bumpBy_keeps (State.bumpBy_keeps (Keeps.refl _)))) : State.SameBtp _ _) n,
        State.btp_modBtp]
      refine k.trans ((BigTop.runRowsOf_head (r.2.btp n) q.desc q.ctx t rows s.free).trans ?_)
      unfold BigTop.modBank
      split <;> exact ⟨rfl, rfl, rfl, rfl, rfl, rfl⟩

theorem State.countRun_head (s : State) (n : Nat) (q : PassReq) : (s.btp n).SameHead ((s.countRun n q).btp n) := by
  unfold State.countRun
  dsimp only
  split
  · rw [(State.SameBtp.left (.refl _) (State.bumpBy_keeps (Keeps.refl _)) : State.SameBtp _ _) n, State.btp_modBtp]
    exact ⟨rfl, rfl, rfl, rfl, rfl, rfl⟩
  · rw [State.btp_modBtp]
    exact ⟨rfl, rfl, rfl, rfl, rfl, rfl⟩

theorem State.tableRows_btp (s : State) (n : Nat) (q : PassReq) : s.SameBtp (s.tableRows n q) := by
  unfold State.tableRows
  dsimp only
  have k := (State.SameBtp.refl s).mod n (fun p => { p with siv := { p.siv with tableBusy := decide (pMode q.desc = 3) } }) (fun _ => rfl)
  exact .ite (k.left (State.bumpBy_keeps (Keeps.refl _))) k

/-- What a pass without a swap, on a valid tile and a bank of its own, leaves: its formats active, its bank owned and logged. -/
theorem State.runPass_head (s : State) (n : Nat) (q : PassReq) (tile : Tile) (h5 : pSwap q.desc = false) (h6 : (s.btp n).foreign q.desc q.ctx = false)
    (h7 : (s.btp n).mismatched q.desc = false) (h8 : (s.btp n).active = some tile) (h9 : tile.valid = true) :
    ((s.runPass n q).btp n).numActive =
      BitVec.ofNat 32 (pWfmt q.desc + 16 * pAfmt q.desc + 256 * bit (decide (pMode q.desc = 3)) + 65536 * unsignedOf 8 (pActZp q.desc)) ∧
    (pClear q.desc = true → ((s.runPass n q).btp n).owner (pBank q.desc) = some q.ctx) ∧
    (((s.runPass n q).btp n).bank (pBank q.desc)).log =
      (((s.btp n).bank (pBank q.desc)).issue { q with tile := { tile with rows := [], check := [] } } tile.bad).log ∧
    ((s.runPass n q).btp n).queue = (s.btp n).queue := by
  unfold State.runPass
  dsimp only
  rw [State.btp_modBtp, if_neg (by intro e; exact absurd (h6.symm.trans e) (by decide)),
    if_neg (by intro e; exact absurd (h7.symm.trans e) (by decide))]
  simp only [h5, Bool.false_eq_true, if_false, State.btp_modBtp, h8]
  rw [if_pos h9]
  have key : ∀ u : State, (u.btp n).SameHead (((((((u.tableRows n q).accumulate n q tile false).countRun n q).use 0 n 0 1).opDone q.ctx 0 n q.desc).btp n)) := by
    intro u
    rw [(State.SameBtp.left (.refl _) (State.opDone_keeps (State.use_keeps (Keeps.refl _))) : State.SameBtp _ _) n]
    refine BigTop.SameHead.trans (.of_eq (State.tableRows_btp u n q n)) ?_
    exact (State.accumulate_head _ n q tile).trans (State.countRun_head _ n q)
  have k : ∀ (u : State) (b : BigTop), u.btp n = b → b.SameHead (((((((u.tableRows n q).accumulate n q tile false).countRun n q).use 0 n 0
      1).opDone q.ctx 0 n q.desc).btp n)) := fun u b e => e ▸ key u
  generalize hb : (({ s.btp n with
      numActive := BitVec.ofNat 32 (pWfmt q.desc + 16 * pAfmt q.desc + 256 * bit (decide (pMode q.desc = 3)) + 65536 * unsignedOf 8 (pActZp q.desc))
      winPos := BitVec.ofNat 32 (if windowed (pWfmt q.desc) = true then unsignedOf 10 (pWinPos q.desc) else 0) } : BigTop)) = b0
  have f0 : b0.numActive =
      BitVec.ofNat 32 (pWfmt q.desc + 16 * pAfmt q.desc + 256 * bit (decide (pMode q.desc = 3)) + 65536 * unsignedOf 8 (pActZp q.desc)) ∧
      b0.bank = (s.btp n).bank ∧ b0.queue = (s.btp n).queue := by
    subst hb; exact ⟨rfl, rfl, rfl⟩
  have fin : ∀ (b1 b2 : BigTop), b1.numActive = b0.numActive → b1.bank = b0.bank → b1.queue = b0.queue →
      (if pClear q.desc = true then
          (b1.modBank (pBank q.desc) fun k => k.issue { q with tile := { tile with rows := [], check := [] } } tile.bad).setOwner (pBank q.desc)
            (some q.ctx)
        else b1.modBank (pBank q.desc) fun k => k.issue { q with tile := { tile with rows := [], check := [] } } tile.bad).SameHead b2 →
      b2.numActive = BitVec.ofNat 32 (pWfmt q.desc + 16 * pAfmt q.desc + 256 * bit (decide (pMode q.desc = 3)) + 65536 * unsignedOf 8 (pActZp q.desc)) ∧
      (pClear q.desc = true → b2.owner (pBank q.desc) = some q.ctx) ∧
      (b2.bank (pBank q.desc)).log = (((s.btp n).bank (pBank q.desc)).issue { q with tile := { tile with rows := [], check := [] } } tile.bad).log ∧
      b2.queue = (s.btp n).queue := by
    intro b1 b2 e1 e2 e3 hs
    have e4 : (s.btp n).bank (pBank q.desc) = b1.bank (pBank q.desc) := by rw [e2, f0.2.1]
    rw [e4, ← f0.2.2, ← f0.1, ← e3, ← e1]
    clear * - hs
    obtain ⟨a1, a2, a3, a4, a5, a6⟩ := hs
    unfold BigTop.owner BigTop.bank
    rw [a1, a2, a3, a6]
    unfold BigTop.modBank BigTop.setOwner at *
    refine ⟨by split <;> split <;> rfl, fun hc => by simp [hc]; split <;> rfl, ?_, by split <;> split <;> rfl⟩
    by_cases hk : pBank q.desc = 0
    · simp only [hk, if_true] at a4 ⊢
      rw [a4]
      split <;> rfl
    · simp only [hk, if_false] at a5 ⊢
      rw [a5]
      split <;> rfl
  cases hl : pLoad q.desc
  · simp only [Bool.false_eq_true, if_false]
    apply fin b0 _ rfl rfl rfl
    refine k _ _ ?_
    rw [State.btp_modBtp, State.btp_modBtp, hb]
  · simp only [if_true]
    apply fin (((s.modBtp n fun _ => b0).startLoad n q).btp n)
    · simp [State.startLoad]
    · simp [State.startLoad]; rfl
    · simp [State.startLoad]
    refine k _ _ ?_
    simp only [State.startLoad, State.btp_modBtp, ← hb]
    rfl

/-! ### Reloads -/

/-- A localisation's outcome, the queue, the map and the banks of a Big Top are as before. -/
def BigTop.SameLoc (a b : BigTop) : Prop :=
  b.localising = a.localising ∧ b.kind = a.kind ∧ b.locRow = a.locRow ∧ b.locCol = a.locCol ∧ b.queue = a.queue ∧ b.mapInForce = a.mapInForce ∧
    b.mapPending = a.mapPending ∧ b.bank0 = a.bank0 ∧ b.bank1 = a.bank1

theorem BigTop.SameLoc.refl (a : BigTop) : a.SameLoc a := ⟨rfl, rfl, rfl, rfl, rfl, rfl, rfl, rfl, rfl⟩

theorem BigTop.SameLoc.trans {a b c : BigTop} (h : a.SameLoc b) (g : b.SameLoc c) : a.SameLoc c := by
  unfold BigTop.SameLoc at *
  simp_all

theorem State.setSuspect_loc (s : State) (n : Nat) : (s.btp n).SameLoc ((s.setSuspect n).btp n) := by
  unfold State.setSuspect State.stageLocalise
  split
  · exact .refl _
  · simp only [State.btp_modBtp]
    split <;> exact ⟨rfl, rfl, rfl, rfl, rfl, rfl, rfl, rfl, rfl⟩

theorem State.loadChecked_loc (s : State) (n c a b : Nat) : (s.btp n).SameLoc ((s.loadChecked n c a b).btp n) := by
  unfold State.loadChecked
  dsimp only
  have kl : ∀ {u w : State}, LeavesPlots u w → w.btp n = u.btp n := fun k => ((State.SameBtp.refl _).left k) n
  split
  · exact .refl _
  · split
    · rw [kl (State.btpFault_keeps (State.bump_keeps (Keeps.refl _)))]
      exact .refl _
    · rw [kl (State.btpFault_keeps (Keeps.refl _))]
      have := State.setSuspect_loc ((s.bumpBy (pgBtp n) 0x78 (some (s.partOf c)) 2).raise (pgBtp n) 10 (some (s.partOf c))) n
      rw [kl (State.raise_keeps (State.bumpBy_keeps (Keeps.refl _)))] at this
      exact this

theorem State.reloadTile_loc (s : State) (n : Nat) (t : Tile) (a b : Nat) : (s.btp n).SameLoc ((s.reloadTile n t a b).2.btp n) := by
  unfold State.reloadTile
  by_cases h : (s.win n t.entry).st = .active ∧ winCtx s.gate.act n t.entry = t.ctx
  · rw [if_pos h]
    generalize hr : (List.foldl _ (some [], s) _ : Option (List Nat) × State) = r
    have k : r.2.btp n = s.btp n := by
      rw [← hr]
      refine (State.SameEngines.foldl2 (β := Option (List Nat)) (r := s) _ (fun u x hu => ?_) _ (some [], s) (.refl s)).1 n
      dsimp only
      exact State.readRow_same hu
    clear hr
    obtain ⟨o, u⟩ := r
    have := State.loadChecked_loc u n t.ctx a b
    dsimp only at k
    rw [k] at this
    cases o with
    | none => exact k ▸ .refl _
    | some l => exact this
  · rw [if_neg h]
    exact .refl _

theorem State.reloadTiles_loc (s : State) (n : Nat) (flips : List Nat) : (s.btp n).SameLoc ((s.reloadTiles n flips).btp n) := by
  unfold State.reloadTiles
  have up : ∀ (b : BigTop) (x y : Option Tile), b.SameLoc { b with active := x, shadow := y } := fun b x y => ⟨rfl, rfl, rfl, rfl, rfl, rfl, rfl, rfl, rfl⟩
  cases hA : (s.btp n).active <;> cases hS : (s.btp n).shadow <;> cases hl : (s.btp n).loading <;>
    simp only [Bool.false_eq_true, if_false, if_true, State.btp_modBtp] <;> refine BigTop.SameLoc.trans ?_ (up _ _ _)
  · exact .refl _
  · exact .refl _
  · exact State.reloadTile_loc s n _ _ _
  · exact .refl _
  · exact State.reloadTile_loc s n _ _ _
  · exact State.reloadTile_loc s n _ _ _
  · exact (State.reloadTile_loc s n _ _ _).trans (State.reloadTile_loc _ n _ _ _)
  · exact State.reloadTile_loc s n _ _ _

/-! ### The end of a chain -/

theorem State.SameSiv.left {r s t : State} (h : r.SameSiv s) (k : LeavesPlots s t) : r.SameSiv t := h.plots (Keeps.plots_eq k)

/-- What the end of a chain leaves where no other chain and no pass waits. -/
theorem State.finishChain_siv (s : State) (n : Nat) (r : ChainResult) (h : (s.siv n).waiting = none) (g : (s.siv n).held = [])
    (q : (s.btp n).queue = []) :
    ((s.finishChain n r).siv n).running = none ∧ ((s.finishChain n r).siv n).retry = none ∧
      ((s.finishChain n r).siv n).retryGranted = false := by
  unfold State.finishChain
  dsimp only
  have e1 : s.SameEngines (if cStatusEn r.req.desc = true then
      s.winWrite n r.req.entry .a 3 (cStatusRow r.req.desc) (statusOf r.numflags r.shift r.ovf r.unf * 2 ^ (64 * cStatusWord r.req.desc))
        (0xFF * 2 ^ (8 * cStatusWord r.req.desc)) else s) := .ite (State.winWrite_same (.refl s)) (.refl s)
  generalize (if cStatusEn r.req.desc = true then
      s.winWrite n r.req.entry .a 3 (cStatusRow r.req.desc) (statusOf r.numflags r.shift r.ovf r.unf * 2 ^ (64 * cStatusWord r.req.desc))
        (0xFF * 2 ^ (8 * cStatusWord r.req.desc)) else s) = u at e1 ⊢
  have e2 : s.SameEngines (((u.addNumflags r.req r.numflags).bump (pgSiv n) 0x88 (some (s.partOf r.req.ctx))).use 2 n 0 1) :=
    e1.left (State.use_keeps (State.bump_keeps (State.addNumflags_keeps (Keeps.refl _))))
  generalize ((u.addNumflags r.req r.numflags).bump (pgSiv n) 0x88 (some (s.partOf r.req.ctx))).use 2 n 0 1 = w at e2 ⊢
  have e3 : (w.modSiv n fun v => { v with running := none, retry := none, retryGranted := false, retryCost := 0 }).SameEngines
      (((w.modSiv n fun v => { v with running := none, retry := none, retryGranted := false, retryCost := 0 }).opDone r.req.ctx 1 n r.req.desc).modStep
        r.req.ctx r.req.step fun y => { y with shifts := (r.req.name, r.shift) :: y.shifts }) :=
    (State.SameEngines.refl _).left (State.modStep_keeps (State.opDone_keeps (Keeps.refl _)))
  generalize ((w.modSiv n fun v => { v with running := none, retry := none, retryGranted := false, retryCost := 0 }).opDone r.req.ctx 1 n
    r.req.desc).modStep r.req.ctx r.req.step (fun y => { y with shifts := (r.req.name, r.shift) :: y.shifts }) = z at e3 ⊢
  have f : z.siv n = { s.siv n with running := none, retry := none, retryGranted := false, retryCost := 0 } := by
    rw [e3.2 n, State.siv_modSiv, e2.2 n]
  have f2 : z.btp n = s.btp n := by rw [e3.1 n, State.btp_modSiv, e2.1 n]
  rw [State.pumpSieve_nil z n (by rw [f]; exact h) (by rw [f]; exact g), State.pumpBtp_nil z n (by rw [f2]; exact q), f]
  exact ⟨rfl, rfl, rfl⟩

/-- What the end of a chain leaves of its retry where no pass waits. -/
theorem State.finishChain_retry (s : State) (n : Nat) (r : ChainResult) (q : (s.btp n).queue = []) :
    ((s.finishChain n r).siv n).retry = none ∧ ((s.finishChain n r).siv n).retryGranted = false := by
  unfold State.finishChain
  dsimp only
  have e1 : s.SameEngines (if cStatusEn r.req.desc = true then
      s.winWrite n r.req.entry .a 3 (cStatusRow r.req.desc) (statusOf r.numflags r.shift r.ovf r.unf * 2 ^ (64 * cStatusWord r.req.desc))
        (0xFF * 2 ^ (8 * cStatusWord r.req.desc)) else s) := .ite (State.winWrite_same (.refl s)) (.refl s)
  generalize (if cStatusEn r.req.desc = true then
      s.winWrite n r.req.entry .a 3 (cStatusRow r.req.desc) (statusOf r.numflags r.shift r.ovf r.unf * 2 ^ (64 * cStatusWord r.req.desc))
        (0xFF * 2 ^ (8 * cStatusWord r.req.desc)) else s) = u at e1 ⊢
  have e2 : s.SameEngines (((u.addNumflags r.req r.numflags).bump (pgSiv n) 0x88 (some (s.partOf r.req.ctx))).use 2 n 0 1) :=
    e1.left (State.use_keeps (State.bump_keeps (State.addNumflags_keeps (Keeps.refl _))))
  generalize ((u.addNumflags r.req r.numflags).bump (pgSiv n) 0x88 (some (s.partOf r.req.ctx))).use 2 n 0 1 = w at e2 ⊢
  have e3 : (w.modSiv n fun v => { v with running := none, retry := none, retryGranted := false, retryCost := 0 }).SameEngines
      (((w.modSiv n fun v => { v with running := none, retry := none, retryGranted := false, retryCost := 0 }).opDone r.req.ctx 1 n r.req.desc).modStep
        r.req.ctx r.req.step fun y => { y with shifts := (r.req.name, r.shift) :: y.shifts }) :=
    (State.SameEngines.refl _).left (State.modStep_keeps (State.opDone_keeps (Keeps.refl _)))
  generalize ((w.modSiv n fun v => { v with running := none, retry := none, retryGranted := false, retryCost := 0 }).opDone r.req.ctx 1 n
    r.req.desc).modStep r.req.ctx r.req.step (fun y => { y with shifts := (r.req.name, r.shift) :: y.shifts }) = z at e3 ⊢
  have f : z.siv n = { w.siv n with running := none, retry := none, retryGranted := false, retryCost := 0 } := by rw [e3.2 n, State.siv_modSiv]
  have f2 : (z.pumpSieve n).btp n = s.btp n := by rw [State.pumpSieve_btp (.refl z) n, e3.1 n, State.btp_modSiv, e2.1 n]
  rw [State.pumpBtp_nil _ n (by rw [f2]; exact q)]
  have g := State.pumpSieve_retry (.refl z) (n := n) n
  rw [f] at g
  exact g

theorem State.denyRetry_siv (s : State) (n : Nat) (r : ChainResult) (h : (s.siv n).waiting = none) (g : (s.siv n).held = [])
    (q : (s.btp n).queue = []) :
    ((s.denyRetry n r).siv n).running = none ∧ ((s.denyRetry n r).siv n).retry = none ∧ ((s.denyRetry n r).siv n).retryGranted = false := by
  unfold State.denyRetry
  dsimp only
  have e : s.SameEngines ((s.bump (pgSiv n) 0x60 (some (s.partOf r.req.ctx))).fallBack r.req.ctx r.req.step 3 1
      (if r.marked = true then r.badSegs else s.feedsOf r.req)) :=
    State.fallBack_same ((State.SameEngines.refl s).left (State.bump_keeps (Keeps.refl _)))
  generalize (s.bump (pgSiv n) 0x60 (some (s.partOf r.req.ctx))).fallBack r.req.ctx r.req.step 3 1
      (if r.marked = true then r.badSegs else s.feedsOf r.req) = u at e ⊢
  exact State.finishChain_siv u n _ (by rw [e.2 n]; exact h) (by rw [e.2 n]; exact g) (by rw [e.1 n]; exact q)

/-- A chain that reads no stream is delivered all its rows. -/
theorem State.chainIters_some (n : Nat) (q : ChainReq) (k : Int) (h1 : cUses q.desc 0x28 = false) (h2 : cUses q.desc 0x29 = false)
    (h3 : cMarkSrc q.desc = 0) : ∀ (m : Nat) (s : State) (i : Nat) (t : Tally), (s.chainIters n q k i t m).1.isSome = true
  | 0, _, _, _ => rfl
  | m + 1, s, i, t => by
    have e : (s.chainIter n q k i t).1.isSome = true := by
      unfold State.chainIter
      simp only [h1, h2, h3, Bool.false_or, show decide (0 = 1) = false from rfl, show decide (0 = 2) = false from rfl, Bool.false_eq_true, if_false]
      split
      · rfl
      · split <;> rfl
    unfold State.chainIters
    dsimp only
    split
    · rename_i e2; rw [e2] at e; exact e
    · exact State.chainIters_some n q k h1 h2 h3 m _ _ _

theorem State.chainBody_some (s : State) (n : Nat) (q : ChainReq) (k : Int) (h1 : cUses q.desc 0x28 = false) (h2 : cUses q.desc 0x29 = false)
    (h3 : cMarkSrc q.desc = 0) : (s.chainBody n q k).1.isSome = true := by
  have e := State.chainIters_some n q k h1 h2 h3 (cIters q.desc) s 0 {}
  unfold State.chainBody
  dsimp only
  split
  · exact e
  · split
    · rfl
    · exact e

/-- A chain that reads no stream and whose bank is its own runs. -/
theorem State.runChain_runs (s : State) (n : Nat) (q : ChainReq) (h1 : cUses q.desc 0x28 = false) (h2 : cUses q.desc 0x29 = false)
    (h3 : cMarkSrc q.desc = 0) (h4 : (s.btp n).ownedByOther (cBank q.desc) q.ctx = false) :
    ∃ r, ((s.runChain n q).siv n).running = some r ∧ r.req = q := by
  unfold State.runChain
  dsimp only
  rw [if_neg (by simp [h4])]
  generalize State.chainScales _ n q = u
  have e := State.chainBody_some u n q (s.actShift q) h1 h2 h3
  generalize u.chainBody n q (s.actShift q) = r at e ⊢
  obtain ⟨o, w⟩ := r
  cases o with
  | none => exact absurd e (by simp)
  | some t0 =>
    dsimp only
    have key : ∀ (t : Tally) (b : Bool) (z : State) (k : Nat) (o : Option Nat), z.SameEngines
        (((z.bumpBy (pgSiv n) 0x90 o k))) := fun t b z k o => (State.SameEngines.refl z).left (State.bumpBy_keeps (Keeps.refl _))
    split
    · rw [(State.fallBack_same ((State.SameEngines.refl _).left (State.bumpBy_keeps (Keeps.refl _)))).2 n, State.siv_modSiv]
      exact ⟨_, rfl, rfl⟩
    · rw [((State.SameEngines.refl _).left (State.bumpBy_keeps (Keeps.refl _))).2 n, State.siv_modSiv]
      exact ⟨_, rfl, rfl⟩

theorem State.nextChain_running (s : State) (n : Nat) (h : (s.siv n).running.isSome = true) : s.nextChain n = s := by
  unfold State.nextChain
  dsimp only
  rw [if_pos (Or.inr (Or.inl h))]

theorem State.nextChains_running (s : State) (n : Nat) (h : (s.siv n).running.isSome = true) : ∀ k, s.nextChains n k = s
  | 0 => rfl
  | k + 1 => by
    unfold State.nextChains
    rw [State.nextChain_running s n h]
    exact State.nextChains_running s n h k

end Sys2Proof.Machine
end

