-- ==== Sys2Proof/Laws/EffectsIrg.lean ====
section
/-!
SUPPORT. What the Irrigators' shared operations leave of Furrows and requests.
-/

set_option Elab.async false

namespace Sys2Proof.Machine

open Sys2Proof

theorem State.irrigator_modIrg (s : State) (k j : Nat) (f : Irrigator → Irrigator) :
    (s.modIrg k f).irrigator j = if j = k then f (s.irrigator k) else s.irrigator j := by
  unfold State.irrigator State.modIrg
  by_cases h : j = k
  · subst h; simp [SMap.get_modify_self]
  · simp [h, SMap.get_modify_ne]

theorem State.furrow_modFurrow (s : State) (k f j g : Nat) (h : Furrow → Furrow) :
    (s.modFurrow k f h).furrow j g = if j = k ∧ g = f then h (s.furrow k f) else s.furrow j g := by
  unfold State.furrow State.modFurrow
  rw [State.irrigator_modIrg]
  by_cases hj : j = k
  · subst hj
    by_cases hg : g = f
    · subst hg; simp [SMap.get_modify_self]
    · simp [hg, SMap.get_modify_ne]
  · simp [hj]

@[simp] theorem State.furrow_modFurrow_self (s : State) (k f : Nat) (h : Furrow → Furrow) : (s.modFurrow k f h).furrow k f = h (s.furrow k f) := by
  simp [State.furrow_modFurrow]

/-- A change of an Irrigator that leaves its Furrows. -/
theorem State.furrow_modIrg (s : State) (k j f : Nat) (g : Irrigator → Irrigator) (h : ∀ x, (g x).furrows = x.furrows) :
    (s.modIrg k g).furrow j f = s.furrow j f := by
  unfold State.furrow
  rw [State.irrigator_modIrg]
  split
  · rename_i e; rw [h, e]
  · rfl

theorem State.furrow_left {s t : State} (h : LeavesIrg s t) : t.furrow = s.furrow := by
  funext k f
  unfold State.furrow State.irrigator
  rw [Keeps.irg_eq h]

/-- A Furrow keeps, as an Irrigator settles, whatever settling keeps. -/
theorem State.settleIrg_furrow (P : Furrow → Prop) (hP : ∀ x, P x → P x.settle) (s : State) (k f : Nat) (h : P (s.furrow k f)) :
    P ((s.settleIrg k).furrow k f) := by
  unfold State.settleIrg
  dsimp only
  rw [State.furrow_modIrg _ _ _ _ _ (by exact fun _ => rfl)]
  have key : ∀ (l : List (Nat × Furrow)) (t : State), P (t.furrow k f) → P ((l.foldl (fun t e => t.modFurrow k e.1 Furrow.settle) t).furrow k f) := by
    intro l
    induction l with
    | nil => exact fun t ht => ht
    | cons a l ih =>
      intro t ht
      rw [List.foldl_cons]
      apply ih
      rw [State.furrow_modFurrow]
      split
      · rename_i e
        rw [← e.2]
        exact hP _ ht
      · exact ht
  exact key _ _ h

theorem Furrow.settle_faulted (x : Furrow) (h : x.st = .faulted) : x.settle.st = .faulted := by
  unfold Furrow.settle
  split <;> simp_all

/-- What settling never changes. -/
theorem Furrow.settle_same (x : Furrow) : x.settle.desc = x.desc ∧ x.settle.ctx = x.ctx ∧ x.settle.entry = x.entry ∧ x.settle.slot = x.slot ∧
    x.settle.cursor = x.cursor ∧ x.settle.released = x.released ∧ x.settle.next = x.next ∧ x.settle.stage = x.stage ∧
    x.settle.spilled = x.spilled ∧ x.settle.page = x.page ∧ x.settle.asked = x.asked := by
  unfold Furrow.settle
  repeat' first | split | exact ⟨rfl, rfl, rfl, rfl, rfl, rfl, rfl, rfl, rfl, rfl, rfl⟩

theorem State.settleIrg_faulted (s : State) (k f : Nat) (h : (s.furrow k f).st = .faulted) : ((s.settleIrg k).furrow k f).st = .faulted :=
  State.settleIrg_furrow (fun x => x.st = .faulted) Furrow.settle_faulted s k f h

theorem State.furrowFault_st (s : State) (k f c : Nat) : ((s.furrowFault k f c).furrow k f).st = .faulted := by
  unfold State.furrowFault
  rw [State.furrow_left (State.faultCtx_keeps (Keeps.refl _)), State.furrow_modFurrow_self]

theorem State.furrowLimit_st (s : State) (k f : Nat) : ((s.furrowLimit k f).furrow k f).st = .faulted := by
  unfold State.furrowLimit
  rw [State.furrow_left (State.overLimit_keeps (Keeps.refl _)), State.furrow_modFurrow_self]

/-- The Irrigators are as before. -/
def State.SameIrg (s t : State) : Prop := t.irg.irg = s.irg.irg

theorem State.SameIrg.furrow {s t : State} (h : s.SameIrg t) : t.furrow = s.furrow := by
  funext k f
  unfold State.furrow State.irrigator
  rw [h]

theorem State.send_irg (s : State) (r : Request) : (s.send r).irg = s.irg := Keeps.irg_eq (State.send_keeps (Keeps.refl s) : LeavesIrg s _)

theorem State.grantTag_irg (s : State) (r : Request) : s.SameIrg (s.grantTag r) := by
  unfold State.grantTag State.SameIrg
  dsimp only
  rw [State.send_irg]

theorem State.grantWaiting_irg (s : State) (p : Pool) : s.SameIrg (s.grantWaiting p) := by
  unfold State.grantWaiting
  split
  · rfl
  · split
    · exact State.grantTag_irg s _
    · rfl

theorem State.newRequest_irg (s : State) (r : Request) : s.SameIrg (s.newRequest r) := by
  unfold State.newRequest
  split
  · exact State.grantTag_irg s _
  · unfold State.SameIrg
    rw [Keeps.irg_eq (State.bump_keeps (Keeps.refl _) : LeavesIrg _ _)]

/-- A new request stands among the requests, with or without its tag. -/
theorem State.newRequest_mem (s : State) (r : Request) : ∃ q ∈ (s.newRequest r).irg.requests, q.irg = r.irg ∧ q.furrow = r.furrow ∧ q.pool = r.pool ∧
    q.src = r.src ∧ q.dst = r.dst ∧ q.len = r.len ∧ q.tile = r.tile ∧ q.pos = r.pos ∧ q.data = r.data := by
  unfold State.newRequest
  split
  · unfold State.grantTag
    dsimp only
    rw [State.send_irg]
    exact ⟨_, List.mem_append_right _ (List.mem_singleton_self _), rfl, rfl, rfl, rfl, rfl, rfl, rfl, rfl, rfl⟩
  · rw [Keeps.irg_eq (State.bump_keeps (Keeps.refl _) : LeavesIrg _ _)]
    exact ⟨_, List.mem_append_right _ (List.mem_singleton_self _), rfl, rfl, rfl, rfl, rfl, rfl, rfl, rfl, rfl⟩

theorem State.requests_modFurrow (s : State) (k f : Nat) (g : Furrow → Furrow) : (s.modFurrow k f g).irg.requests = s.irg.requests := rfl

theorem State.requests_settle (s : State) (k : Nat) : (s.settleIrg k).irg.requests = s.irg.requests := by
  unfold State.settleIrg
  dsimp only
  have key : ∀ (l : List (Nat × Furrow)) (t : State), (l.foldl (fun t e => t.modFurrow k e.1 Furrow.settle) t).irg.requests = t.irg.requests := by
    intro l
    induction l with
    | nil => exact fun t => rfl
    | cons a l ih => intro t; rw [List.foldl_cons, ih]; rfl
  exact key _ _

theorem State.fcPins_same (s : State) : s.fcPins.irg.irg = s.irg.irg ∧ s.fcPins.irg.requests = s.irg.requests ∧ s.fcPins.irg.gens = s.irg.gens ∧
    s.fcPins.irg.groups = s.irg.groups := by
  unfold State.fcPins
  have key : ∀ (l : List Nat) (t : State), (l.foldl State.fcPin t).irg.irg = t.irg.irg ∧ (l.foldl State.fcPin t).irg.requests = t.irg.requests ∧
      (l.foldl State.fcPin t).irg.gens = t.irg.gens ∧ (l.foldl State.fcPin t).irg.groups = t.irg.groups := by
    intro l
    induction l with
    | nil => exact fun t => ⟨rfl, rfl, rfl, rfl⟩
    | cons a l ih =>
      intro t
      rw [List.foldl_cons]
      obtain ⟨h1, h2, h3, h4⟩ := ih (t.fcPin a)
      rw [h1, h2, h3, h4]
      unfold State.fcPin
      dsimp only
      split
      · exact ⟨rfl, rfl, rfl, rfl⟩
      · rw [Keeps.irg_eq (State.raise_keeps (State.emit_keeps (Keeps.refl _)) : LeavesIrg _ _)]
        exact ⟨rfl, rfl, rfl, rfl⟩
  exact key _ s

/-- What a change of a FIFO group's level leaves: the Irrigators, the requests and the generations; and the group's new level. -/
theorem State.setLevel_same (s : State) (g l : Nat) : (s.setLevel g l).irg.irg = s.irg.irg ∧ (s.setLevel g l).irg.requests = s.irg.requests ∧
    (s.setLevel g l).irg.gens = s.irg.gens ∧ ((s.setLevel g l).group g).level = l ∧ ((s.setLevel g l).group g).dropping = (s.group g).dropping := by
  unfold State.setLevel
  dsimp only
  generalize hx : ({ s.group g with level := l, above := if s.wmHi g ≤ l then true else if l ≤ s.wmLo g then false else (s.group g).above } : FifoGroup) = x
  generalize hs1 : ({ s with irg := { s.irg with groups := SMap.put groupUnlisted s.irg.groups g x } } : State) = s1
  have e : s1.irg.irg = s.irg.irg ∧ s1.irg.requests = s.irg.requests ∧ s1.irg.gens = s.irg.gens ∧ (s1.group g).level = l ∧
      (s1.group g).dropping = (s.group g).dropping := by
    subst hs1
    refine ⟨rfl, rfl, rfl, ?_, ?_⟩
    all_goals
      unfold State.group
      rw [SMap.get_put_self, ← hx]
      try rfl
  have ep : ∀ (c : Prop) [Decidable c] (b : Bool), (if c then s1.pauseFrame g b else s1).irg.irg = s1.irg.irg ∧
      (if c then s1.pauseFrame g b else s1).irg.requests = s1.irg.requests ∧ (if c then s1.pauseFrame g b else s1).irg.gens = s1.irg.gens ∧
      (if c then s1.pauseFrame g b else s1).irg.groups = s1.irg.groups := by
    intro c _ b
    split <;> exact ⟨rfl, rfl, rfl, rfl⟩
  have f := State.fcPins_same (if s.pfcEn g = true ∧ (if s.wmHi g ≤ l then true else if l ≤ s.wmLo g then false else (s.group g).above) ≠
    (s.group g).above then s1.pauseFrame g (if s.wmHi g ≤ l then true else if l ≤ s.wmLo g then false else (s.group g).above) else s1)
  have p := ep (s.pfcEn g = true ∧ (if s.wmHi g ≤ l then true else if l ≤ s.wmLo g then false else (s.group g).above) ≠ (s.group g).above)
    (if s.wmHi g ≤ l then true else if l ≤ s.wmLo g then false else (s.group g).above)
  refine ⟨f.1.trans (p.1.trans e.1), f.2.1.trans (p.2.1.trans e.2.1), f.2.2.1.trans (p.2.2.1.trans e.2.2.1), ?_, ?_⟩
  · have hg : ∀ u v : State, u.irg.groups = v.irg.groups → u.group g = v.group g := fun u v h => by unfold State.group; rw [h]
    rw [hg _ _ (f.2.2.2.trans p.2.2.2)]
    exact e.2.2.2.1
  · have hg : ∀ u v : State, u.irg.groups = v.irg.groups → u.group g = v.group g := fun u v h => by unfold State.group; rw [h]
    rw [hg _ _ (f.2.2.2.trans p.2.2.2)]
    exact e.2.2.2.2

/-! ### Places -/

/-- What places and translations depend on is as before. -/
structure State.SamePlaces (s t : State) : Prop where
  gate : t.gate = s.gate
  pwr : t.pwr = s.pwr
  flt : t.flt = s.flt
  beds : t.beds = s.beds
  ring : t.ring = s.ring
  ddr : t.ddr = s.ddr
  sec : t.sec = s.sec

namespace State.SamePlaces

variable {s t : State}

theorem addressedBed (h : s.SamePlaces t) : t.addressedBed = s.addressedBed := by
  funext n b
  unfold State.addressedBed State.servingBed State.bed State.flag State.cfg
  rw [h.gate, h.beds]

theorem plotPlace (h : s.SamePlaces t) : t.plotPlace = s.plotPlace := by
  funext n off
  unfold State.plotPlace State.pruned
  rw [h.flt, h.addressedBed]

theorem ownPlace (h : s.SamePlaces t) : t.ownPlace = s.ownPlace := by
  funext a
  unfold State.ownPlace
  rw [h.plotPlace]

theorem ringPos (h : s.SamePlaces t) : t.ringPos = s.ringPos := by
  unfold State.ringPos State.ringN
  rw [h.pwr]

theorem partOf (h : s.SamePlaces t) : t.partOf = s.partOf := by
  funext c
  unfold State.partOf
  rw [h.gate]

theorem place (h : s.SamePlaces t) : t.place = s.place := by
  funext c a n
  unfold State.place
  rw [h.ringPos, h.partOf, h.ownPlace, h.gate]

theorem src (h : s.SamePlaces t) : t.srcPlace = s.srcPlace := by
  funext k x a n
  unfold State.srcPlace State.placeFor
  rw [h.place]

theorem dst (h : s.SamePlaces t) : t.dstPlace = s.dstPlace := by
  funext k x a n
  unfold State.dstPlace State.placeFor
  rw [h.place]

theorem route (h : s.SamePlaces t) : t.routeTo = s.routeTo := by
  have hr : t.ringN = s.ringN := by unfold State.ringN; rw [h.pwr]
  have hp : t.ringPos = s.ringPos := by unfold State.ringPos; rw [hr, h.pwr]
  have hs : ∀ e, t.skips e = s.skips e := by intro e; unfold State.skips; rw [hr, hp, h.ring]
  have hl : ∀ p, t.linkAt p = s.linkAt p := by intro p; unfold State.linkAt; simp only [hr, hp, hs, h.ring]
  have hi : ∀ p, t.linkInto p = s.linkInto p := by intro p; unfold State.linkInto; simp only [hl, hr]
  have he : ∀ f k p, t.eastCost k f p = s.eastCost k f p := by
    intro f
    induction f with
    | zero => intro k p; rfl
    | succ f ih => intro k p; unfold State.eastCost; simp only [hl, hr, ih]
  have hx : ∀ f k p, t.westCost k f p = s.westCost k f p := by
    intro f
    induction f with
    | zero => intro k p; rfl
    | succ f ih => intro k p; unfold State.westCost; simp only [hi, ih]
  funext k
  unfold State.routeTo
  simp only [hr, hp, he, hx]

theorem pool (h : s.SamePlaces t) : t.poolOf = s.poolOf := by
  funext p w
  unfold State.poolOf
  simp only [h.route, h.ddr]

theorem needPool (h : s.SamePlaces t) : t.needPool = s.needPool := by
  funext k x
  unfold State.needPool
  simp only [h.pool, h.place, h.src, h.dst]

theorem inSba (h : s.SamePlaces t) : t.inSba = s.inSba := by
  funext p
  unfold State.inSba
  rw [h.gate]

theorem nextLen (h : s.SamePlaces t) : t.nextLen = s.nextLen := by
  funext k x
  unfold State.nextLen
  simp only [h.needPool, h.inSba, h.src, h.dst]

theorem formedBad (h : s.SamePlaces t) : t.formedBad = s.formedBad := by
  funext x p n w
  unfold State.formedBad State.dramOk State.usable State.fenced
  simp only [h.gate, h.ddr, h.partOf, h.sec]

theorem fnOf (h : s.SamePlaces t) : t.fnOf = s.fnOf := by
  funext c
  unfold State.fnOf State.partOf
  rw [h.gate]

theorem translate (h : s.SamePlaces t) : t.translate = s.translate := by
  funext c p n x
  unfold State.translate
  rw [h.fnOf, h.gate]

end State.SamePlaces

/-! ### Tiles released -/

/-- Every Furrow has released as many tiles, of the same descriptor. -/
def State.SameRel (s t : State) : Prop := ∀ k f, (t.furrow k f).released = (s.furrow k f).released

theorem State.SameRel.refl (s : State) : s.SameRel s := fun _ _ => rfl

theorem State.SameRel.left {r s t : State} (h : r.SameRel s) (k : LeavesIrg s t) : r.SameRel t := by
  intro a b
  rw [State.furrow_left k]
  exact h a b

theorem State.SameRel.furrows {r s t : State} (h : r.SameRel s) (k : s.SameIrg t) : r.SameRel t := by
  intro a b
  rw [k.furrow]
  exact h a b

theorem State.SameRel.mod {r s : State} (h : r.SameRel s) (k f : Nat) (g : Furrow → Furrow) (hg : ∀ x, (g x).released = x.released) :
    r.SameRel (s.modFurrow k f g) := by
  intro a b
  rw [State.furrow_modFurrow]
  split
  · rename_i e
    rw [hg]
    obtain ⟨e1, e2⟩ := e
    subst e1 e2
    exact h _ _
  · exact h a b

theorem State.SameRel.ite {r a b : State} {c : Prop} [Decidable c] (ha : r.SameRel a) (hb : r.SameRel b) :
    r.SameRel (if c then a else b) := by split <;> assumption

theorem State.furrowFault_rel {r s : State} {k f c : Nat} (h : r.SameRel s) : r.SameRel (s.furrowFault k f c) := by
  unfold State.furrowFault
  refine .left ?_ (State.faultCtx_keeps (Keeps.refl _))
  exact h.mod _ _ _ fun _ => rfl

theorem State.formedFault_rel {r s : State} {k f n : Nat} {p : Place} {w : Bool} (h : r.SameRel s) : r.SameRel (s.formedFault k f p n w) := by
  have g : r.SameRel (s.modFurrow k f fun x => { x with st := .faulted }) := h.mod _ _ _ fun _ => rfl
  unfold State.formedFault
  dsimp only
  split
  · split
    · exact g.left (State.oob_keeps (Keeps.refl _))
    · exact g
  · exact .left (.ite g (g.left (State.bump_keeps (Keeps.refl _)))) (State.faultCtx_keeps (Keeps.refl _))
  · exact g

theorem State.placeWrite_rel {r s : State} {k f n : Nat} {p : Place} {d : List (BitVec 8)} {x : Option Nat} (h : r.SameRel s) :
    r.SameRel (s.placeWrite k f p d x n) := by
  unfold State.placeWrite
  dsimp only
  split
  · exact h.left (State.storePut_keeps (Keeps.refl _))
  · rename_i i o
    have g := h.left (State.sproutPut_keeps (Keeps.refl s) : LeavesIrg s (s.sproutPut i o d))
    exact .ite g (g.left (State.raise_keeps (State.bumpBy_keeps (Keeps.refl _))))
  · rename_i a b o
    have g := h.left (State.bedPut_keeps (Keeps.refl s) : LeavesIrg s (s.bedPut a b o d))
    exact .ite g (g.left (State.raise_keeps (State.bumpBy_keeps (Keeps.refl _))))
  · exact h.left (State.guardedWrite_keeps (Keeps.refl _))
  · exact h
  · exact h.left (State.hostWriteAt_keeps (Keeps.refl _))
  · exact h.left (State.emit_keeps (Keeps.refl _))
  · exact State.furrowFault_rel h

theorem Furrow.pass_released : ∀ (n : Nat) (x : Furrow), (x.pass n).released = x.released
  | 0, _ => rfl
  | n + 1, x => by
    unfold Furrow.pass
    split
    · rw [Furrow.pass_released n]
    · rfl

theorem State.wrote_rel {r s : State} {k f a n : Nat} (h : r.SameRel s) : r.SameRel (s.wrote k f a n) := by
  unfold State.wrote
  dsimp only
  have g : r.SameRel (s.modFurrow k f fun x =>
    let y := { x with written := SMap.modify zeroUnlisted x.written a fun m => m + n }
    Furrow.pass y (y.written.length + 1)) := h.mod _ _ _ fun x => by rw [Furrow.pass_released]
  split
  · refine .ite ?_ ?_
    · exact g.left (State.cursorLine_keeps (State.bumpBy_keeps (State.bumpBy_keeps (Keeps.refl _))))
    · exact g.left (State.bumpBy_keeps (State.bumpBy_keeps (Keeps.refl _)))
  · exact g.left (State.bumpBy_keeps (State.bumpBy_keeps (Keeps.refl _)))

theorem State.writeRequest_rel {r s : State} {k f : Nat} {p : Pool} {q : Piece} {b : Bool} (h : r.SameRel s) :
    r.SameRel (s.writeRequest k f p q b) := by
  unfold State.writeRequest
  exact h.furrows (State.newRequest_irg _ _)

theorem State.toDest_rel {r s : State} {k f n : Nat} {q : Piece} (h : r.SameRel s) : r.SameRel (s.toDest k f q n) := by
  unfold State.toDest
  dsimp only
  refine .ite (State.formedFault_rel h) (.ite ?_ ?_)
  · exact State.wrote_rel ((State.placeWrite_rel h).mod _ _ _ fun _ => rfl)
  · split
    · exact .ite (State.furrowFault_rel h) (State.writeRequest_rel h)
    · refine .ite (State.writeRequest_rel h) ?_
      have key : ∀ (l : List Piece) (u : State), r.SameRel u → r.SameRel (l.foldl
          (fun t c => t.writeRequest k f (t.poolOf (t.dstPlace k (s.furrow k f) c.dst c.data.length) true) c false) u) := by
        intro l
        induction l with
        | nil => exact fun _ hu => hu
        | cons c l ih => exact fun u hu => ih _ (State.writeRequest_rel hu)
      exact key _ _ h
    · exact State.writeRequest_rel h

theorem State.drainStage_rel {r : State} {k f : Nat} : ∀ (n : Nat) {s : State}, r.SameRel s → r.SameRel (s.drainStage k f n)
  | 0, _, h => h
  | n + 1, s, h => by
    unfold State.drainStage
    dsimp only
    split
    · exact h
    · exact State.drainStage_rel n (State.toDest_rel (h.mod _ _ _ fun _ => rfl))

theorem State.releaseTiles_released (s : State) (k f n : Nat) (h : (s.furrow k f).released + n ≤ (s.furrow k f).cursor) :
    ((s.releaseTiles k f n).furrow k f).released = (s.furrow k f).released + n := by
  unfold State.releaseTiles
  dsimp only
  rw [if_neg (by omega)]
  apply State.settleIrg_furrow (fun z => z.released = (s.furrow k f).released + n)
    (fun z hz => (Furrow.settle_same z).2.2.2.2.2.1.trans hz)
  rw [State.drainStage_rel (r := s.modFurrow k f fun x => { x with released := x.released + n }) _ (.refl _) k f, State.furrow_modFurrow_self]

end Sys2Proof.Machine
end

