-- ==== Sys2Proof/Laws/EffectsTask.lean ====
section
/-!
SUPPORT. What a context's steps and tasks keep while engines run their choices, rows are read and written, and state is saved and restored.
-/

set_option Elab.async false

namespace Sys2Proof.Machine

open Sys2Proof

theorem State.ctx_modCtx (s : State) (c d : Nat) (f : CtxSt → CtxSt) : (s.modCtx c f).ctx d = if d = c then f (s.ctx c) else s.ctx d := by
  unfold State.ctx State.modCtx
  by_cases h : d = c
  · subst h
    simp [SMap.get_modify_self]
  · simp [h, SMap.get_modify_ne]

theorem State.ctx_left {s t : State} (h : LeavesRms s t) : t.ctx = s.ctx := by
  funext c
  unfold State.ctx
  rw [Keeps.rms_eq h]

/-- A task with what a save and a restore of its engine's state touch left out. -/
def TaskSt.core (z : TaskSt) : TaskSt := { z with saved := [], isSaved := false }

/-- A step with that left out of its tasks, and without its provenance flags. -/
def StepSt.core (y : StepSt) : StepSt := { y with tasks := y.tasks.map TaskSt.core, flags := 0 }

/-- A context with that left out of its steps, and without its fault, heartbeat and accounting. -/
def CtxSt.core (x : CtxSt) : CtxSt := { x with steps := x.steps.map StepSt.core, fault := none, beat := 0, acct := [] }

/-- Every context is as before, but for what saves, restores, faults and accounting touch. -/
def State.SameCtx (s t : State) : Prop := ∀ c, (t.ctx c).core = (s.ctx c).core

theorem State.SameCtx.refl (s : State) : s.SameCtx s := fun _ => rfl

theorem State.SameCtx.left {r s t : State} (h : r.SameCtx s) (k : LeavesRms s t) : r.SameCtx t := by
  intro c
  rw [State.ctx_left k]
  exact h c

theorem State.SameCtx.ctxEq {r s t : State} (h : r.SameCtx s) (k : t.ctx = s.ctx) : r.SameCtx t := by
  intro c
  rw [k]
  exact h c

theorem State.SameCtx.mod {r s : State} (h : r.SameCtx s) (c : Nat) (f : CtxSt → CtxSt) (hf : ∀ x, (f x).core = x.core) :
    r.SameCtx (s.modCtx c f) := by
  intro d
  rw [State.ctx_modCtx]
  split
  · rename_i e
    subst e
    rw [hf]
    exact h d
  · exact h d

theorem State.SameCtx.ite {r a b : State} {c : Prop} [Decidable c] (ha : r.SameCtx a) (hb : r.SameCtx b) :
    r.SameCtx (if c then a else b) := by split <;> assumption

theorem State.SameCtx.foldl {α : Type} {r : State} (g : State → α → State) (hg : ∀ t x, r.SameCtx t → r.SameCtx (g t x)) :
    ∀ (l : List α) (t : State), r.SameCtx t → r.SameCtx (l.foldl g t)
  | [], _, h => h
  | x :: l, t, h => State.SameCtx.foldl g hg l _ (hg t x h)

theorem State.SameCtx.foldl2 {α β : Type} {r : State} (g : β × State → α → β × State)
    (hg : ∀ t x, r.SameCtx t.2 → r.SameCtx (g t x).2) : ∀ (l : List α) (t : β × State), r.SameCtx t.2 → r.SameCtx (l.foldl g t).2
  | [], _, h => h
  | x :: l, t, h => State.SameCtx.foldl2 g hg l _ (hg t x h)

theorem State.faultCtx_ctx {r s : State} {c k : Nat} (h : r.SameCtx s) : r.SameCtx (s.faultCtx c k) := by
  unfold State.faultCtx
  refine .ite ?_ h
  refine .left ?_ (State.record_keeps (Keeps.refl _))
  exact h.mod _ _ fun _ => rfl

theorem State.bump_ctx {r s : State} {p : Page} {o : Nat} {x : Option Nat} (h : r.SameCtx s) : r.SameCtx (s.bump p o x) :=
  h.left (State.bump_keeps (Keeps.refl _))

/-! ### Rows -/

theorem State.eccEvent_ctx {r s : State} {n : Nat} {st : Store} {w c : Nat} {p : Bool} {x y : Option Nat} {j : EccResult} (h : r.SameCtx s) :
    r.SameCtx (s.eccEvent n st w c p x y j) := by
  refine h.ctxEq (State.ctx_left ?_)
  unfold State.eccEvent
  dsimp only
  split
  · exact Keeps.refl _
  · refine ite_keeps (Keeps.refl _) ?_
    exact State.toFlt_keeps (State.modPlot_keeps (State.bump_keeps (Keeps.refl _)))
  · refine State.armRetry_keeps (State.toFlt_keeps ?_)
    refine ite_keeps (State.modPlot_keeps (State.bump_keeps (Keeps.refl _))) ?_
    exact State.raise_keeps (State.modPlot_keeps (State.bump_keeps (Keeps.refl _)))

theorem State.rowEvents_ctx {r s : State} {n : Nat} {st : Store} {w : Nat} {p : Bool} {x y : Option Nat} (h : r.SameCtx s) :
    r.SameCtx (s.rowEvents n st w p x y) := by
  unfold State.rowEvents State.rowRetry
  have k : r.SameCtx (List.foldl (fun t c => t.eccEvent n st w c p x y (s.judgeCw n st w c))
      (s.takeRetry (rowAddr n st w / 16)) (List.range 4)) :=
    .foldl _ (fun t c ht => State.eccEvent_ctx ht) _ _ (h.left (State.takeRetry_keeps (Keeps.refl _)))
  exact .ite (k.left (State.toFlt_keeps (Keeps.refl _))) k

theorem State.readRowOf_ctx {r s : State} {n : Nat} {st : Store} {w : Nat} {x p : Option Nat} (h : r.SameCtx s) :
    r.SameCtx (s.readRowOf n st w x p).2 := by
  have k : r.SameCtx (s.rowEvents n st w false x p) := State.rowEvents_ctx h
  unfold State.readRowOf
  generalize s.rowData n st w = o
  cases o with
  | some d =>
    dsimp only
    generalize s.rowCorrected n st w = b
    cases b
    · exact k
    · exact k.left (State.queueWb_keeps (Keeps.refl _))
  | none =>
    cases x with
    | some c => exact State.faultCtx_ctx k
    | none => exact k

theorem State.writeRow_ctx {r s s0 : State} {n : Nat} {st : Store} {w d m : Nat} {x p : Option Nat} (h : r.SameCtx s) :
    r.SameCtx (s.writeRow s0 n st w d m x p) := by
  unfold State.writeRow
  refine .foldl _ (fun t c ht => ?_) _ _ h
  unfold State.writeCw
  have k : r.SameCtx (if m / 2 ^ (16 * c) % 2 ^ 16 % 2 ^ 16 = 2 ^ 16 - 1 then t
      else t.eccEvent n st w c false x p (s0.judgeCw n st w c)) := .ite ht (State.eccEvent_ctx ht)
  refine .ite ht ?_
  dsimp only
  split
  · refine .left ?_ (State.freshen_keeps (Keeps.refl _))
    exact k.ctxEq rfl
  · split
    · exact State.faultCtx_ctx k
    · exact k

theorem State.oob_ctx {r s : State} {n e : Nat} {st : Store} {c : Nat} {w : Bool} {l : Nat} (h : r.SameCtx s) :
    r.SameCtx (s.oob n e st c w l) := by
  unfold State.oob
  refine State.faultCtx_ctx ?_
  refine .left ?_ (State.raise_keeps (Keeps.refl _))
  refine .left ?_ (State.modPlot_keeps (State.bump_keeps (Keeps.refl _)))
  exact h

theorem State.winRead_ctx {r s : State} {n e : Nat} {st : Store} {c l : Nat} (h : r.SameCtx s) : r.SameCtx (s.winRead n e st c l).2 := by
  unfold State.winRead
  split
  · exact State.faultCtx_ctx h
  · split
    · exact State.oob_ctx h
    · exact State.readRowOf_ctx h

theorem State.winWrite_ctx {r s : State} {n e : Nat} {st : Store} {c l d m : Nat} (h : r.SameCtx s) :
    r.SameCtx (s.winWrite n e st c l d m) := by
  unfold State.winWrite
  refine .ite (State.faultCtx_ctx h) ?_
  split
  · exact State.oob_ctx h
  · exact State.writeRow_ctx h

/-! ### Saves, restores and choices -/

theorem List.map_mapIdx_core (l : List TaskSt) (i : Nat) (f : TaskSt → TaskSt) (hf : ∀ z, (f z).core = z.core) :
    (l.mapIdx fun j z => if j = i then f z else z).map TaskSt.core = l.map TaskSt.core := by
  apply List.ext_getElem?
  intro k
  simp only [List.getElem?_map, List.getElem?_mapIdx, Option.map_map]
  congr 1
  funext z
  simp only [Function.comp_apply]
  split
  · exact hf z
  · rfl

theorem State.modStep_ctx {r s : State} {c n : Nat} {f : StepSt → StepSt} (h : r.SameCtx s) (hf : ∀ y, (f y).core = y.core) :
    r.SameCtx (s.modStep c n f) := by
  refine h.mod _ _ fun x => ?_
  unfold CtxSt.core
  dsimp only
  congr 1
  rw [List.map_map]
  refine List.map_congr_left fun y _ => ?_
  simp only [Function.comp_apply]
  split
  · exact hf y
  · rfl

theorem State.modTask_ctx {r s : State} {c n i : Nat} {f : TaskSt → TaskSt} (h : r.SameCtx s) (hf : ∀ z, (f z).core = z.core) :
    r.SameCtx (s.modTask c n i f) := by
  refine State.modStep_ctx h fun y => ?_
  unfold StepSt.core
  dsimp only
  rw [List.map_mapIdx_core _ _ _ hf]

theorem State.charge_ctx {r s : State} {c : Nat} {e : Option Nat} {k : Nat} (h : r.SameCtx s) : r.SameCtx (s.charge c e k) := by
  unfold State.charge
  split
  · refine .mod ?_ _ _ fun _ => rfl
    exact h.ctxEq rfl
  · exact h

theorem State.saveItem_ctx {r s : State} {p e w it : Nat} (h : r.SameCtx s) : r.SameCtx (s.saveItem p e w it).2 := by
  unfold State.saveItem
  dsimp only
  have k : r.SameCtx ((List.range (s.saveRows it).length).foldl
    (fun t k => t.winWrite p e .p 1 (w + k) ((s.saveRows it).getD k 0) (2 ^ 64 - 1)) s) := .foldl _ (fun t x ht => State.winWrite_ctx ht) _ _ h
  have k2 := k.left (State.modBtp_keeps (Keeps.refl _) : LeavesRms _ (State.modBtp _ (ciPlot it) fun b => b.modBank (ciIndex it) fun _ => {}))
  refine .ite (.ite k2 k) (.left (.ite k2 k) (State.bumpBy_keeps (Keeps.refl _)))

theorem State.saveTask_ctx {r s : State} {c n i : Nat} {z : TaskSt} {e : Nat} (h : r.SameCtx s) : r.SameCtx (s.saveTask c n i z e) := by
  unfold State.saveTask
  dsimp only
  have k : ∀ (l : List Nat) (a : List SavedItem × Nat × State), r.SameCtx a.2.2 → r.SameCtx (l.foldl
      (fun (acc : List SavedItem × Nat × State) it =>
        let a := acc.2.2.saveItem z.plot e acc.2.1 it
        (acc.1 ++ [a.1], acc.2.1 + a.1.rows, a.2)) a).2.2 := by
    intro l
    induction l with
    | nil => exact fun _ h => h
    | cons x l ih => exact fun a ha => ih _ (State.saveItem_ctx ha)
  have k1 := k z.items ([], z.saveRow, s) h
  refine .ite ?_ (State.charge_ctx ?_)
  · exact State.modTask_ctx k1 fun _ => rfl
  · exact State.modTask_ctx k1 fun _ => rfl

theorem State.restoreItem_ctx {r s : State} {p e c : Nat} {x : SavedItem} (h : r.SameCtx s) : r.SameCtx (s.restoreItem p e c x) := by
  have k : r.SameCtx ((List.range x.rows).foldl
    (fun (acc : List Nat × State) k =>
      let a := acc.2.winRead p e .p 0 (x.row + k)
      (acc.1 ++ [a.1.getD 0], a.2)) ([], s)).2 := by
    refine State.SameCtx.foldl2 _ (fun t x ht => ?_) _ _ h
    exact State.winRead_ctx ht
  unfold State.restoreItem
  dsimp only
  generalize (List.range x.rows).foldl
    (fun (acc : List Nat × State) k =>
      let a := acc.2.winRead p e .p 0 (x.row + k)
      (acc.1 ++ [a.1.getD 0], a.2)) ([], s) = a at k
  refine .ite (k.left (State.modPlot_keeps (Keeps.refl _))) (.ite (.ite (k.left (State.modBtp_keeps (Keeps.refl _))) (State.faultCtx_ctx k)) (.ite ?_ (.ite ?_ k)))
  · refine .foldl _ (fun t i ht => ?_) _ _ k
    split
    · exact ht.left (State.modSprout_keeps (Keeps.refl _))
    · exact ht
  · split
    · exact k
    · exact k.left (State.codedPut_keeps (Keeps.refl _))

theorem State.restoreTask_ctx {r s : State} {c n i : Nat} {z : TaskSt} {e : Nat} (h : r.SameCtx s) : r.SameCtx (s.restoreTask c n i z e) := by
  unfold State.restoreTask
  dsimp only
  have k1 : r.SameCtx (z.saved.foldl (fun t x => t.restoreItem z.plot e c x) s) := .foldl _ (fun t x ht => State.restoreItem_ctx ht) _ _ h
  exact .ite (State.modTask_ctx k1 fun _ => rfl) (State.charge_ctx (State.modTask_ctx k1 fun _ => rfl))

theorem State.engineSwitch_ctx {r s : State} {e k : Nat} (h : r.SameCtx s) : r.SameCtx (s.engineSwitch e k) := by
  unfold State.engineSwitch
  dsimp only
  refine .ite h ?_
  have a1 : ∀ (o : Nat), r.SameCtx (match o with
      | 0 => s
      | k + 1 =>
        match s.slotCtx k with
        | none => s
        | some c =>
          (s.tasksWhere c fun z => z.parkedAt e && !z.isSaved && decide (z.items ≠ [])).foldl
            (fun t (x : Nat × Nat × TaskSt) => t.saveTask c x.1 x.2.1 x.2.2 (2 * k + x.2.2.win)) s) := by
    intro o
    split
    · exact h
    · split
      · exact h
      · exact .foldl _ (fun t x ht => State.saveTask_ctx ht) _ _ h
  have a3 : ∀ u : State, r.SameCtx u → r.SameCtx (if 16 ≤ e ∧ e < 24 then u.resetSieve (e - 16) else u) :=
    fun u hu => .ite (hu.left (State.resetSieve_keeps (Keeps.refl _))) hu
  have a4 : ∀ v : State, r.SameCtx v → r.SameCtx (match v.slotCtx k with
      | none => v
      | some c =>
        (v.tasksWhere c fun z => decide (engineKey z.engine z.plot z.pos = some e) && z.isSaved).foldl
          (fun t (x : Nat × Nat × TaskSt) => t.restoreTask c x.1 x.2.1 x.2.2 (2 * k + x.2.2.win)) v) := by
    intro v hv
    split
    · exact hv
    · exact .foldl _ (fun t x ht => State.restoreTask_ctx ht) _ _ hv
  exact State.SameCtx.ctxEq (a4 _ (a3 _ (a1 _))) rfl

theorem State.chooseTier_ctx {r : State} {e : Nat} {b : Bool} : ∀ (k : Nat) {s : State}, r.SameCtx s → r.SameCtx (s.chooseTier e b k).2
  | 0, _, h => h
  | k + 1, s, h => by
    have n : ∀ {u : State}, r.SameCtx u → r.SameCtx ({ u with rms := { u.rms with
        ptr := SMap.put zeroUnlisted u.rms.ptr e ((SMap.get zeroUnlisted s.rms.ptr e + 1) % 16) } }) := fun h => h.ctxEq rfl
    unfold State.chooseTier
    dsimp only
    split
    · exact State.chooseTier_ctx k (n h)
    · split
      · split
        · exact h
        · exact State.chooseTier_ctx k (n (h.ctxEq rfl))
      · refine State.chooseTier_ctx k (n ?_)
        exact .ite (h.ctxEq rfl) h

theorem State.choose_ctx {r s : State} {e : Nat} (h : r.SameCtx s) : r.SameCtx (s.choose e).2 := by
  have t : ∀ (b : Bool) {u : State}, r.SameCtx u → r.SameCtx (if (List.range 16).any fun k => u.slotReady e k && decide (u.slotBackground k = b) then
      State.chooseTier e b (u.chooseFuel e) u else (none, u)).2 := by
    intro b u hu
    split
    · exact State.chooseTier_ctx _ hu
    · exact hu
  unfold State.choose
  dsimp only
  split
  · exact t false h
  · exact t true (t false h)

theorem State.rechoose_ctx {r s : State} {e : Nat} (h : r.SameCtx s) : r.SameCtx (s.rechoose e) := by
  unfold State.rechoose
  refine .ite h ?_
  have k := State.choose_ctx (e := e) h
  dsimp only
  split
  · exact State.engineSwitch_ctx (k.ctxEq rfl)
  · exact k.ctxEq rfl

theorem State.choicePoint_ctx {r s : State} {e : Option Nat} (h : r.SameCtx s) : r.SameCtx (s.choicePoint e) := by
  unfold State.choicePoint
  split
  · exact h
  · exact State.rechoose_ctx h

/-! ### Steps and tasks by number -/

theorem StepSt.find_map (l : List StepSt) (n : Nat) (g : StepSt → StepSt) (hg : ∀ y, (g y).n = y.n) :
    (l.map g).find? (fun y => decide (y.n = n)) = (l.find? fun y => decide (y.n = n)).map g := by
  rw [List.find?_map]
  congr 2
  funext y
  simp [hg]

/-- The step of a number once the steps of its context have been changed. -/
theorem State.step?_modStep' (s : State) (c n : Nat) (f : StepSt → StepSt) (hf : ∀ y, y.n = n → (f y).n = n) :
    (s.modStep c n f).step? c n = (s.step? c n).map f := by
  unfold State.step? State.modStep
  rw [State.ctx_modCtx, if_pos rfl]
  dsimp only
  rw [StepSt.find_map _ _ _ (by intro y; split; rename_i e; exact (hf y e).trans e.symm; rfl)]
  generalize hg : (s.ctx c).steps.find? (fun y => decide (y.n = n)) = o
  cases o with
  | none => rfl
  | some y =>
    have := List.find?_some hg
    simp only [Option.map_some, of_decide_eq_true this, if_true]

theorem State.step?_modStep (s : State) (c n : Nat) (f : StepSt → StepSt) (hf : ∀ y, (f y).n = y.n) :
    (s.modStep c n f).step? c n = (s.step? c n).map f := State.step?_modStep' s c n f fun y h => (hf y).trans h

theorem State.step?_n (s : State) (c n : Nat) (y : StepSt) (h : s.step? c n = some y) : y.n = n := by
  unfold State.step? at h
  simpa using List.find?_some h

theorem State.step?_ctx {s t : State} (h : t.ctx = s.ctx) (c n : Nat) : t.step? c n = s.step? c n := by
  unfold State.step?
  rw [h]

theorem State.step?_modCtx (s : State) (c n : Nat) (f : CtxSt → CtxSt) (hf : ∀ x, (f x).steps = x.steps) :
    (s.modCtx c f).step? c n = s.step? c n := by
  unfold State.step?
  rw [State.ctx_modCtx, if_pos rfl, hf]

theorem State.SameCtx.step {s t : State} (h : s.SameCtx t) (c n : Nat) : (t.step? c n).map StepSt.core = (s.step? c n).map StepSt.core := by
  have e : (t.ctx c).steps.map StepSt.core = (s.ctx c).steps.map StepSt.core := congrArg CtxSt.steps (h c)
  unfold State.step?
  rw [← StepSt.find_map _ _ StepSt.core (fun _ => rfl), ← StepSt.find_map _ _ StepSt.core (fun _ => rfl), e]

/-- A task of a step is as before, but for what a save and a restore touch. -/
theorem State.SameCtx.task {s t : State} (h : s.SameCtx t) (c n i : Nat) (z : TaskSt) (hz : s.task? c n i = some z) :
    ∃ w, t.task? c n i = some w ∧ w.core = z.core := by
  have e := h.step c n
  unfold State.task? at hz ⊢
  generalize s.step? c n = a at e hz
  generalize t.step? c n = b at e ⊢
  cases a with
  | none => exact absurd hz (by simp)
  | some a =>
    cases b with
    | none => exact absurd e (by simp)
    | some b =>
      simp only [Option.map_some, Option.some.injEq] at e
      have e2 : b.tasks.map TaskSt.core = a.tasks.map TaskSt.core := congrArg StepSt.tasks e
      simp only [Option.bind_some] at hz ⊢
      have e3 := congrArg (fun l : List TaskSt => l[i]?) e2
      simp only [List.getElem?_map, hz, Option.map_some] at e3
      cases hb : b.tasks[i]? with
      | none => rw [hb] at e3; simp at e3
      | some w => exact ⟨w, rfl, by rw [hb] at e3; simpa using e3⟩

theorem State.task?_modTask (s : State) (c n i : Nat) (f : TaskSt → TaskSt) :
    (s.modTask c n i f).task? c n i = (s.task? c n i).map f := by
  unfold State.task? State.modTask
  rw [State.step?_modStep s c n _ (by intro _; rfl)]
  cases s.step? c n with
  | none => rfl
  | some y => simp [List.getElem?_mapIdx]

theorem State.task?_modCtx (s : State) (c n i : Nat) (f : CtxSt → CtxSt) (hf : ∀ x, (f x).steps = x.steps) :
    (s.modCtx c f).task? c n i = s.task? c n i := by
  unfold State.task?
  rw [State.step?_modCtx _ _ _ _ hf]

theorem State.task?_ctx {s t : State} (h : t.ctx = s.ctx) (c n i : Nat) : t.task? c n i = s.task? c n i := by
  unfold State.task?
  rw [State.step?_ctx h]

theorem State.marked_advance (s : State) (x c : Nat) (h : s.marked c = true) : (s.advance x).marked c = true := by
  unfold State.marked State.locked State.ctxBit at *
  rw [State.advance_flag, State.advance_ctx]
  have e : s.sdl.ref ≤ (s.advance x).sdl.ref := by rw [State.advance_ref]; omega
  generalize (s.ctx c).lockMark = o at h ⊢
  cases o with
  | none => exact h
  | some m =>
    simp only [Bool.or_eq_true, decide_eq_true_eq] at h ⊢
    rcases h with h | h
    · exact Or.inl h
    · exact Or.inr (by omega)

/-- A task that may take an entry takes it: the entry's effect, after the task has moved past it. -/
theorem State.takeEntry_of (s : State) (x c n i kind : Nat) (y : StepSt) (z : TaskSt) (f : StepSt → TaskSt → Nat → State → State)
    (h : s.mayTake c n i kind y z) : (s.advance x).takeEntry c n i kind f = f y z (z.entry y.plan)
      ((((s.advance x).modTask c n i fun w => { w with pc := w.pc + 16, ringWait := false })).modCtx c fun w =>
        { w with beat := (s.advance x).sdl.ref, st := if w.st = .blocked then .running else w.st }) := by
  obtain ⟨-, h2, h3, h4, h5, h6, h7, h8, slot, h9, h10⟩ := h
  have e : ∀ n, (s.advance x).step? c n = s.step? c n := fun n => State.step?_ctx (State.advance_ctx s x) c n
  unfold State.takeEntry
  rw [e, h2, State.advance_ctx, h9]
  dsimp only
  rw [h3]
  dsimp only
  rw [if_pos ⟨h4, h5, h6, h7, State.marked_advance s x c h8⟩]
  have g : ∀ o, (∀ e, o = some e → SMap.get zeroUnlisted s.rms.serving e = slot + 1) → (s.advance x).engineFor o slot = (true, s.advance x) := by
    intro o ho
    unfold State.engineFor
    cases o with
    | none => rfl
    | some e =>
      have e1 : SMap.get zeroUnlisted (s.advance x).rms.serving e = slot + 1 := by
        have : (s.advance x).rms.serving = s.rms.serving := by
          unfold State.advance
          dsimp only
          split <;> rfl
        rw [this]
        exact ho e rfl
      dsimp only
      rw [e1, if_neg (by omega), e1]
      simp
  rw [g _ h10]
  rfl

/-- That task, past the entry. -/
theorem State.taken_task (s : State) (x c n i kind : Nat) (y : StepSt) (z : TaskSt) (h : s.mayTake c n i kind y z) :
    ((((s.advance x).modTask c n i fun w => { w with pc := w.pc + 16, ringWait := false })).modCtx c fun w =>
        { w with beat := (s.advance x).sdl.ref, st := if w.st = .blocked then .running else w.st }).task? c n i =
      some { z with pc := z.pc + 16, ringWait := false } := by
  rw [State.task?_modCtx _ _ _ _ _ (by intro _; rfl), State.task?_modTask, State.task?_ctx (State.advance_ctx s x)]
  unfold State.task?
  rw [h.2.1]
  simp only [Option.bind_some, h.2.2.1, Option.map_some]

theorem State.putStatus_ctx {r s : State} {i : SproutId} {e d w : Nat} (h : r.SameCtx s) : r.SameCtx (s.putStatus i e d w) := by
  unfold State.putStatus
  exact .ite (State.bump_ctx (State.winWrite_ctx h)) (State.winWrite_ctx h)

theorem State.ownSprout_ctx {r s : State} {i : SproutId} {c : Nat} (h : r.SameCtx s) : r.SameCtx (s.ownSprout i c) := by
  unfold State.ownSprout
  exact .ite h (h.left (State.zeroSprout_keeps (Keeps.refl _)))

theorem State.startSprout_ctx {r s : State} {i : SproutId} {c n e : Nat} {d : Option Nat} {l : Bool} (h : r.SameCtx s) :
    r.SameCtx (s.startSprout i c n e d l) := by
  have g := State.ownSprout_ctx (i := i) (c := c) h
  unfold State.startSprout
  dsimp only
  split
  · refine .ite (g.left ?_) (State.putStatus_ctx g)
    exact State.use_keeps (State.modSprout_keeps (Keeps.refl _))
  · exact g.left (State.use_keeps (State.modSprout_keeps (Keeps.refl _)))

theorem State.opHeld_advance (s : State) (x c n i : Nat) : (s.advance x).opHeld c n i = s.opHeld c n i := by
  unfold State.opHeld State.servingBed
  rw [State.step?_ctx (State.advance_ctx s x), State.advance_flag, State.advance_cfg]
  rfl

theorem State.opWaits_none (s : State) (x c n i : Nat) (l : List (Fin 9 × Fin 64 × Nat)) (h : s.undelivered c l = []) :
    (s.advance x).opWaits c n i l = none := by
  have e : (s.advance x).undelivered c l = s.undelivered c l := rfl
  unfold State.opWaits
  split
  · rfl
  · split
    · rfl
    · rw [if_neg]
      rintro ⟨-, -, -, a⟩
      exact a (e.trans h)

theorem SMap.find?_mem {α : Type} {k : Nat} {v : α} : ∀ {m : SMap α}, SMap.find? m k = some v → (k, v) ∈ m
  | [], h => by simp [SMap.find?] at h
  | (j, w) :: m, h => by
    unfold SMap.find? at h
    split at h
    · rename_i e
      subst e
      simp only [Option.some.injEq] at h
      subst h
      exact List.mem_cons_self ..
    · exact List.mem_cons_of_mem _ (SMap.find?_mem h)

/-! ### Tightrope -/

/-- A log entry changes of the Ringmaster the count of entries only. -/
theorem State.tightLog_rms (s : State) (c : Nat) (y : StepSt) (k a : Nat) : ∃ w, (s.tightLog c y k a).rms = { s.rms with logWritten := w } := by
  have e : ∀ (p : Page) (n : Nat) (l : List Nat), (s.record p n l).rms = s.rms := fun p n l => Keeps.rms_eq (State.record_keeps (Keeps.refl _) : LeavesRms s _)
  unfold State.tightLog
  dsimp only
  split
  · refine ⟨(s.rms.logWritten + 1) % 2 ^ 32, ?_⟩
    split
    · rw [Keeps.rms_eq (State.raise_keeps (Keeps.refl _) : LeavesRms _ (State.raise _ pgTrp 11 none))]
      dsimp only
      rw [e]
    · dsimp only
      rw [e]
  · exact ⟨s.rms.logWritten, e _ _ _⟩

theorem State.tightLog_ctx (s : State) (c : Nat) (y : StepSt) (k a : Nat) : (s.tightLog c y k a).ctx = s.ctx := by
  obtain ⟨w, h⟩ := State.tightLog_rms s c y k a
  funext d
  unfold State.ctx
  rw [h]

theorem State.paceOf_congr {s t : State} (h1 : t.rms.paceAt = s.rms.paceAt) (h2 : t.rms.pace = s.rms.pace) (h3 : t.sdl = s.sdl)
    (h4 : t.gate.act = s.gate.act) : t.paceOf = s.paceOf := by
  funext b
  unfold State.paceOf State.cfg
  rw [h1, h2, h3, h4]

/-- A live context that passes a limit, or faults, owes its teardown with its first cause. -/
theorem State.faultCtx_fault (s : State) (c k : Nat) (h : (s.ctx c).live = true) :
    ((s.faultCtx c k).ctx c).fault = some ((s.ctx c).fault.getD k) := by
  unfold State.faultCtx
  split
  · rename_i g
    rw [State.ctx_left (State.record_keeps (Keeps.refl _)), State.ctx_modCtx, if_pos rfl, g.2]
    rfl
  · rename_i g
    cases hq : (s.ctx c).fault with
    | none => exact absurd ⟨h, hq⟩ g
    | some _ => rfl

theorem State.overLimit_fault (s : State) (c l k : Nat) (h : (s.ctx c).live = true) :
    ((s.overLimit c l k).ctx c).fault = some ((s.ctx c).fault.getD k) := by
  unfold State.overLimit
  split
  · exact State.faultCtx_fault _ c k h
  · rename_i g
    cases hq : (s.ctx c).fault with
    | none => exact absurd ⟨h, hq⟩ g
    | some _ => rfl

/-- Whether Tightrope grants is a matter of the contexts, the pace records, the registers and the time. -/
theorem State.tightGrant_congr {s t : State} (h1 : t.rms = s.rms) (h2 : t.gate = s.gate) (h3 : t.sdl = s.sdl) (c n kind cost : Nat) :
    (t.tightGrant c n kind cost).1 = (s.tightGrant c n kind cost).1 := by
  have key : ∀ u : State, (u.tightGrant c n kind cost).1 = (match u.step? c n with
      | none => false
      | some y => if u.watched c then decide (y.flying ∧ y.cut = none ∧ u.grantFits c y cost) else decide (y.flying = true)) := by
    intro u
    unfold State.tightGrant
    generalize u.step? c n = o
    cases o with
    | none => rfl
    | some y =>
      dsimp only
      split
      · split
        · rename_i h
          exact (decide_eq_true h).symm
        · rename_i h
          exact (decide_eq_false h).symm
      · rfl
  have e1 : t.step? c n = s.step? c n := State.step?_ctx (by funext d; unfold State.ctx; rw [h1]) c n
  have e2 : t.watched c = s.watched c := by
    unfold State.watched State.realTime State.isGh State.replays State.ctxBit State.flag State.cfg
    rw [h2]
  have e3 : ∀ y, t.grantFits c y cost = s.grantFits c y cost := by
    intro y
    unfold State.grantFits State.rUse State.deadlineAt State.deadlineUs
    rw [State.paceOf_congr (by rw [h1]) (by rw [h1]) h3 (by rw [h2])]
    unfold State.cfg
    rw [h2]
  rw [key, key, e1, e2]
  simp only [e3]

end Sys2Proof.Machine
end

