-- ==== Sys2Proof/Laws/EffectsSec.lean ====
section
/-!
SUPPORT. What the operations of partitions, keys, sessions and function-level resets do.
-/

set_option Elab.async false

namespace Sys2Proof.Machine

open Sys2Proof

variable {q1 q2 q3 q4 q5 q6 q7 q8 q9 q10 q11 q12 q13 q14 q15 q16 q17 q18 : Prop}

/-! ### Maps -/

theorem SMap.find?_insert_self {α : Type} (k : Nat) (v : α) : ∀ m : SMap α, SMap.find? (SMap.insert m k v) k = some v
  | [] => by simp [SMap.insert, SMap.find?]
  | (j, u) :: m => by
    unfold SMap.insert
    split
    · rename_i h
      unfold SMap.find?
      rw [if_neg (by omega)]
      exact SMap.find?_insert_self k v m
    · split
      · simp [SMap.find?]
      · simp [SMap.find?]

theorem SMap.find?_erase_self {α : Type} (k : Nat) : ∀ m : SMap α, SMap.find? (SMap.erase m k) k = none
  | [] => rfl
  | (j, u) :: m => by
    unfold SMap.erase
    rw [List.filter_cons]
    split
    · rename_i h
      have : j ≠ k := by simpa using h
      unfold SMap.find?
      rw [if_neg this]
      exact SMap.find?_erase_self k m
    · exact SMap.find?_erase_self k m

/-! ### What passes over the muting of functions -/

theorem Hub.mute_emit (h : Hub) (x : Sent) : (h.emit x).mute = h.mute := by
  unfold Hub.emit
  split <;> rfl

theorem State.mute_emit (s : State) (x : Sent) : (s.emit x).hub.mute = s.hub.mute := Hub.mute_emit _ _

theorem Hub.mute_sendVector (h : Hub) (f k : Nat) (v : View) : (h.sendVector f k v).mute = h.mute := by
  unfold Hub.sendVector
  dsimp only
  split
  · rfl
  · split
    · exact Hub.mute_emit (h.add _ 1) _
    · exact Hub.mute_emit (h.add _ 1) _

theorem Hub.mute_notify (m : SMap Word) (h : Hub) (v : View) (p : Page) : (h.notify m v p).mute = h.mute := by
  unfold Hub.notify
  dsimp only
  repeat' first | rfl | (rw [Hub.mute_sendVector]) | (rw [Hub.mute_emit]) | split

theorem Hub.mute_raiseIn (m : SMap Word) (h : Hub) (v : View) (p : Page) (b : Nat) : (h.raiseIn m v p b).mute = h.mute := by
  unfold Hub.raiseIn
  dsimp only
  repeat' first | rfl | (rw [Hub.mute_notify]) | split

theorem Hub.mute_bumpView (m : SMap Word) (p : Page) (o n : Nat) (h : Hub) (v : View) : (Hub.bumpView m p o n h v).mute = h.mute := by
  unfold Hub.bumpView
  dsimp only
  repeat' first | rfl | (rw [Hub.mute_raiseIn]) | split

theorem Hub.mute_bumpBy (m : SMap Word) (h : Hub) (p : Page) (o : Nat) (x : Option Nat) (n : Nat) : (Hub.bumpBy m h p o x n).mute = h.mute := by
  unfold Hub.bumpBy
  have key : ∀ (l : List View) (g : Hub), (l.foldl (Hub.bumpView m p o n) g).mute = g.mute := by
    intro l
    induction l with
    | nil => exact fun _ => rfl
    | cons v l ih =>
      intro g
      rw [List.foldl_cons, ih, Hub.mute_bumpView]
  exact key _ _

/-! ### Partitions -/

theorem State.part_modPart (s : State) (p q : Nat) (f : PartSt → PartSt) :
    (s.modPart p f).part q = if q = p then f (s.part p) else s.part q := by
  unfold State.modPart State.part
  split
  · rename_i h
    rw [h]
    exact SMap.get_modify_self partUnlisted _ _ _
  · exact SMap.get_modify_ne partUnlisted _ _ ‹_›

theorem State.part_sec {s t : State} (h : t.sec.parts = s.sec.parts) (p : Nat) : t.part p = s.part p := by
  unfold State.part
  rw [h]

/-- What a trigger of the disable sequence makes of a partition (15 R381). -/
def PartSt.begun (x : PartSt) (now : Nat) (flr : Bool) : PartSt :=
  match x.st with
  | .off => x
  | .active => { x with st := .closing, since := now, discard := flr, flr := flr }
  | .held => { x with st := .closing, since := now, discard := flr, flr := flr }
  | _ => { x with discard := x.discard || flr, flr := x.flr || flr }

theorem State.beginDisable_part (s : State) (p q : Nat) (f : Bool) :
    (s.beginDisable p f).part q = if q = p then (s.part p).begun s.sdl.ref f else s.part q := by
  unfold State.beginDisable PartSt.begun
  cases hst : (s.part p).st with
  | off =>
    dsimp only
    split
    · rename_i h; rw [h]
    · rfl
  | active => dsimp only; exact State.part_modPart _ _ _ _
  | held => dsimp only; exact State.part_modPart _ _ _ _
  | closing => dsimp only; rw [State.part_modPart, hst]
  | scrubbing => dsimp only; rw [State.part_modPart, hst]

theorem State.beginDisable_sdl (s : State) (p : Nat) (f : Bool) : (s.beginDisable p f).sdl = s.sdl :=
  Keeps.sdl_eq (State.beginDisable_keeps (Keeps.refl _) : LeavesSdl s _)

/-- A second trigger keeps the sequence that runs. -/
theorem PartSt.begun_closing (x : PartSt) (a : Nat) (f : Bool) (h : x.st = .closing) : (x.begun a f).st = .closing ∧ (x.begun a f).since = x.since ∧
    ((x.begun a f).flr = (x.flr || f)) ∧ ((x.begun a f).discard = (x.discard || f)) := by
  unfold PartSt.begun
  rw [h]
  exact ⟨rfl, rfl, rfl, rfl⟩

/-- Every partition of a list begins its disable sequence. -/
theorem State.beginDisables_part (f : Bool) : ∀ (l : List Nat) (s : State) (q : Nat),
    (q ∉ l → (l.foldl (fun t p => t.beginDisable p f) s).part q = s.part q) ∧
    ((s.part q).st = .off → ((l.foldl (fun t p => t.beginDisable p f) s).part q).st = .off) ∧
    (((s.part q).st = .active ∨ (s.part q).st = .held) → q ∈ l → ((l.foldl (fun t p => t.beginDisable p f) s).part q).st = .closing ∧
      ((l.foldl (fun t p => t.beginDisable p f) s).part q).since = s.sdl.ref ∧ ((l.foldl (fun t p => t.beginDisable p f) s).part q).flr = f) ∧
    ((s.part q).st = .closing → ((l.foldl (fun t p => t.beginDisable p f) s).part q).st = .closing ∧
      ((l.foldl (fun t p => t.beginDisable p f) s).part q).since = (s.part q).since ∧
      (((l.foldl (fun t p => t.beginDisable p f) s).part q).flr = (s.part q).flr ∨ ((l.foldl (fun t p => t.beginDisable p f) s).part q).flr = ((s.part q).flr || f)))
  | [], s, q => ⟨fun _ => rfl, fun h => h, fun _ h => absurd h List.not_mem_nil, fun h => ⟨h, rfl, Or.inl rfl⟩⟩
  | p :: l, s, q => by
    rw [List.foldl_cons]
    obtain ⟨i1, i2, i3, i4⟩ := State.beginDisables_part f l (s.beginDisable p f) q
    have e := State.beginDisable_part s p q f
    by_cases hp : q = p
    · rw [if_pos hp] at e
      subst hp
      refine ⟨fun h => absurd List.mem_cons_self h, fun h => i2 ?_, fun h _ => ?_, fun h => ?_⟩
      · rw [e]
        unfold PartSt.begun
        rw [h]
        exact h
      · have b : (s.part q).begun s.sdl.ref f = { s.part q with st := .closing, since := s.sdl.ref, discard := f, flr := f } := by
          unfold PartSt.begun
          rcases h with h | h <;> rw [h]
        rw [b] at e
        obtain ⟨j1, j2, j3⟩ := i4 (by rw [e])
        rw [e] at j2 j3
        refine ⟨j1, j2, ?_⟩
        rcases j3 with j3 | j3
        · exact j3
        · rw [j3]; exact Bool.or_self f
      · obtain ⟨b1, b2, b3, -⟩ := PartSt.begun_closing (s.part q) s.sdl.ref f h
        rw [← e] at b1 b2 b3
        obtain ⟨j1, j2, j3⟩ := i4 b1
        refine ⟨j1, j2.trans b2, Or.inr ?_⟩
        rcases j3 with j3 | j3
        · rw [j3, b3]
        · rw [j3, b3, Bool.or_assoc, Bool.or_self]
    · rw [if_neg hp] at e
      rw [e] at i1 i2 i3 i4
      rw [State.beginDisable_sdl] at i3
      refine ⟨fun h => i1 (fun k => h (List.mem_cons_of_mem _ k)), i2, fun h k => ?_, i4⟩
      rcases List.mem_cons.1 k with k | k
      · exact absurd k hp
      · exact i3 h k

/-! ### Windows, in finer terms -/

theorem State.winLeave_fine {root s : State} {m : SMap Word} {n e : Nat} {kill : Bool}
    (h_s : Keeps q1 q2 True q4 q5 q6 True q8 q9 q10 q11 q12 q13 q14 q15 q16 q17 q18 root s) :
    Keeps q1 q2 True q4 q5 q6 True q8 q9 q10 q11 q12 q13 q14 q15 q16 q17 q18 root (State.winLeave s m n e kill) := by
  unfold State.winLeave
  try dsimp only
  repeat' first
    | (with_reducible first | assumption | apply State.modWin_keeps | apply State.zeroFinish_keeps)

theorem State.clearPlotWindows_fine {root s : State} {c n : Nat} {kill : Bool}
    (h_s : Keeps q1 q2 True True True q6 True q8 q9 q10 q11 q12 q13 q14 q15 q16 q17 q18 root s) :
    Keeps q1 q2 True True True q6 True q8 q9 q10 q11 q12 q13 q14 q15 q16 q17 q18 root (State.clearPlotWindows s c n kill) := by
  unfold State.clearPlotWindows
  try dsimp only
  repeat' first
    | (with_reducible first
      | assumption | apply ite_keeps | apply State.actPut_keeps | apply State.nextZeroOrder_keeps | apply State.winLeave_fine | apply foldl_keeps)
    | (intro _ _ _; try dsimp only)

theorem State.clearWindows_fine {root s : State} {c : Nat} {kill : Bool}
    (h_s : Keeps q1 q2 True True True q6 True q8 q9 q10 q11 q12 q13 q14 q15 q16 q17 q18 root s) :
    Keeps q1 q2 True True True q6 True q8 q9 q10 q11 q12 q13 q14 q15 q16 q17 q18 root (State.clearWindows s c kill) := by
  unfold State.clearWindows
  repeat' first
    | (with_reducible first | assumption | apply State.clearPlotWindows_fine | apply foldl_keeps)
    | (intro _ _ _; try dsimp only)

/-- A killed area leaves the partitions and the contexts (15 R378). -/
theorem State.killArea_parts (s : State) (c : Nat) (hold : Bool) (a : Nat × Nat) :
    (s.killArea c hold a).sec.parts = s.sec.parts ∧ (s.killArea c hold a).rms = s.rms ∧ (s.killArea c hold a).sdl = s.sdl := by
  unfold State.killArea
  split
  · split <;> exact ⟨rfl, rfl, rfl⟩
  · exact ⟨rfl, rfl, rfl⟩

theorem State.killAreas_parts (c : Nat) (hold : Bool) : ∀ (l : List (Nat × Nat)) (s : State),
    (l.foldl (fun t a => t.killArea c hold a) s).sec.parts = s.sec.parts ∧ (l.foldl (fun t a => t.killArea c hold a) s).rms = s.rms
  | [], _ => ⟨rfl, rfl⟩
  | a :: l, s => by
    rw [List.foldl_cons]
    obtain ⟨i1, i2⟩ := State.killAreas_parts c hold l (s.killArea c hold a)
    obtain ⟨k1, k2, -⟩ := State.killArea_parts s c hold a
    exact ⟨i1.trans k1, i2.trans k2⟩

/-- An aborted context's steps have ended; the partitions and the other contexts stay (15 R382). -/
theorem State.abortCtx_eq (s : State) (c : Nat) : (s.abortCtx c).sec.parts = s.sec.parts ∧ ∀ d, (s.abortCtx c).ctx d =
    if d = c then { s.ctx c with fault := none, tearing := false, steps := (s.ctx c).steps.map fun y => { y with ended := true, aborted := true } }
    else s.ctx d := by
  unfold State.abortCtx
  dsimp only
  have a : ∀ k b, ((s.clearWindows c k).releaseSprouts c b).rms = s.rms ∧ ((s.clearWindows c k).releaseSprouts c b).sec = s.sec := fun k b =>
    ⟨Keeps.rms_eq (State.releaseSprouts_keeps (State.clearWindows_fine (Keeps.refl _)) : LeavesRms s _),
     Keeps.sec_eq (State.releaseSprouts_keeps (State.clearWindows_fine (Keeps.refl _)) : LeavesSec s _)⟩
  obtain ⟨a1, a2⟩ := a true (partHold s.gate.act (s.partOf c))
  generalize (s.clearWindows c true).releaseSprouts c (partHold s.gate.act (s.partOf c)) = w at *
  obtain ⟨k1, k2⟩ := State.killAreas_parts c (partHold s.gate.act (s.partOf c)) (s.contextAreas c) w
  generalize (s.contextAreas c).foldl (fun t a => t.killArea c (partHold s.gate.act (s.partOf c)) a) w = v at *
  refine ⟨?_, fun d => ?_⟩
  · show v.sec.parts = _
    rw [k1, a2]
  · rw [State.ctx_modCtx]
    have e : ∀ n, (v.bumpBy pgSec 0x58 (some (s.partOf c)) n).ctx = s.ctx := fun n => by
      funext j
      unfold State.ctx
      show SMap.get _ v.rms.ctx j = _
      rw [k2, a1]
    rw [e]

/-- Aborting contexts in turn ends the steps of each (15 R382). -/
theorem State.abortCtxs_eq : ∀ (l : List Nat) (s : State), (l.foldl State.abortCtx s).sec.parts = s.sec.parts ∧
    ∀ c, ((s.ctx c).steps.all (·.ended) = true → ((l.foldl State.abortCtx s).ctx c).steps.all (·.ended) = true) ∧
      ((s.ctx c).steps.all (·.ended) = true ∨ c ∈ l → ((l.foldl State.abortCtx s).ctx c).steps.all (·.ended) = true)
  | [], s => ⟨rfl, fun c => ⟨fun h => h, fun h => h.resolve_right List.not_mem_nil⟩⟩
  | a :: l, s => by
    rw [List.foldl_cons]
    obtain ⟨i1, i2⟩ := State.abortCtxs_eq l (s.abortCtx a)
    obtain ⟨e1, e2⟩ := State.abortCtx_eq s a
    have done : ((s.abortCtx a).ctx a).steps.all (·.ended) = true := by
      rw [e2, if_pos rfl]
      simp
    have keep : ∀ c, (s.ctx c).steps.all (·.ended) = true → ((s.abortCtx a).ctx c).steps.all (·.ended) = true := by
      intro c h
      by_cases hc : c = a
      · rw [hc]; exact done
      · rw [e2, if_neg hc]; exact h
    refine ⟨i1.trans e1, fun c => ⟨fun h => (i2 c).1 (keep c h), fun h => ?_⟩⟩
    rcases h with h | h
    · exact (i2 c).1 (keep c h)
    · rcases List.mem_cons.1 h with h | h
      · rw [h]; exact (i2 a).1 done
      · exact (i2 c).2 (Or.inr h)

/-! ### SPDM -/

theorem State.ide_mod (s : State) (k : Nat) (f : IdeStream → IdeStream) :
    SMap.get ideUnlisted (s.modIde k f).sec.ide k = f (SMap.get ideUnlisted s.sec.ide k) :=
  SMap.get_modify_self ideUnlisted _ _ _

theorem State.spdm_mod (s : State) (i : Nat) (f : Spdm → Spdm) : (s.modSpdm i f).spdm i = f (s.spdm i) :=
  SMap.get_modify_self spdmUnlisted _ _ _

/-- A response that is not signed: the message joins the transcript, and the rest of the security block stays (15 R372). -/
theorem State.spdmPlain_eq (s : State) (i : Nat) (m : List (BitVec 8)) (c : Nat) (w : List Nat) :
    ((s.spdmPlain i m c w).spdm i).transcript = (s.spdm i).transcript ++ m ∧ ((s.spdmPlain i m c w).spdm i).signed = none ∧
    Sent.answer 0 c (i :: w) ∈ (s.spdmPlain i m c w).hub.out ∧ (s.spdmPlain i m c w).sec.sessions = s.sec.sessions ∧
    (s.spdmPlain i m c w).sec.parts = s.sec.parts ∧ (s.spdmPlain i m c w).sec.ide = s.sec.ide ∧ (s.spdmPlain i m c w).hub.mute = s.hub.mute := by
  have e : (s.spdmPlain i m c w).spdm i = (s.modSpdm i fun x => { x with transcript := x.transcript ++ m, signed := none }).spdm i := rfl
  rw [e, State.spdm_mod]
  refine ⟨rfl, rfl, State.emitted _ _ rfl, rfl, rfl, rfl, ?_⟩
  unfold State.spdmPlain State.spdmAnswer State.emit State.bump State.bumpBy
  dsimp only
  rw [Hub.mute_emit, Hub.mute_bumpBy]
  rfl

theorem State.spdmPlain_flags (s : State) (i : Nat) (m : List (BitVec 8)) (c : Nat) (w : List Nat) :
    ((s.spdmPlain i m c w).spdm i).version = (s.spdm i).version ∧ ((s.spdmPlain i m c w).spdm i).caps = (s.spdm i).caps ∧
    ((s.spdmPlain i m c w).spdm i).algs = (s.spdm i).algs := by
  have e : (s.spdmPlain i m c w).spdm i = (s.modSpdm i fun x => { x with transcript := x.transcript ++ m, signed := none }).spdm i := rfl
  rw [e, State.spdm_mod]
  exact ⟨rfl, rfl, rfl⟩

/-- A signed response keeps the transcript's hash over a fresh nonce (15 R373). -/
theorem State.spdmSigned_eq (s : State) (i : Nat) (m : List (BitVec 8)) (c : Nat) (w : List Nat) :
    ((s.spdmSigned i m c w).spdm i).signed = some (Config.sha384 ((s.spdm i).transcript ++ m ++ natLe 8 s.free)) ∧
    Sent.answer 0 c (i :: (w ++ [leNat (Config.aliasEd25519 (s.inUse 1) (Config.sha384 ((s.spdm i).transcript ++ m ++ natLe 8 s.free)))])) ∈
      (s.spdmSigned i m c w).hub.out := by
  unfold State.spdmSigned
  dsimp only
  generalize Config.sha384 ((s.spdm i).transcript ++ m ++ natLe 8 s.free) = h
  refine ⟨?_, State.emitted _ _ rfl⟩
  show (State.spdm (State.modSpdm _ i _) i).signed = _
  rw [State.spdm_mod]

end Sys2Proof.Machine
end

