-- ==== Sys2Proof/Laws/EffectsHst.lean ====
section
/-!
SUPPORT. What the operations of the host attachment do: what a function keeps, writes to host memory, harvest records.
-/

set_option Elab.async false

namespace Sys2Proof.Machine

open Sys2Proof

variable {q1 q2 q3 q4 q5 q6 q7 q8 q9 q10 q11 q12 q13 q14 q15 q16 q17 q18 : Prop}

theorem State.fn_mod (s : State) (f : Nat) (g : CopySt → CopySt) : (s.modFn f g).fn f = g (s.fn f) := SMap.get_modify_self fnUnlisted _ _ _

/-- A write to host memory in a mapped window of a function whose FLR has not begun (17 R415). -/
theorem State.hostWrite_eq (s : State) (c a b : Nat) (w : Bool) (l : List (BitVec 8)) (h : (SMap.get partUnlisted s.sec.parts (s.partOf c)).discard = false)
    (g : hostXlat s.gate.act (s.fnOf c) a l.length = some (b, w)) : s.hostWrite c a l = s.emit (Sent.hostWrite (s.fnOf c) b l) := by
  unfold State.hostWrite State.hostWriteAt
  rw [if_neg (by rw [h]; decide), g]

theorem State.fnOf_emit (s : State) (x : Sent) (c : Nat) : (s.emit x).partOf c = s.partOf c ∧ (s.emit x).fnOf c = s.fnOf c := ⟨rfl, rfl⟩

/-- Traffic of a function that is not muted leaves (15 R364). -/
theorem State.emitted_fn (s : State) (x : Sent) (f : Nat) (h : x.fn? = some f) (g : SMap.get flagUnlisted s.hub.mute f = false) :
    x ∈ (s.emit x).hub.out := by
  have m : s.hub.muted x = false := by
    unfold Hub.muted
    rw [h]
    exact g
  unfold State.emit Hub.emit
  rw [if_neg (by rw [m]; decide)]
  simp

theorem State.Heard.hostWrite {r s : State} (h : r.Heard s) (c a : Nat) (l : List (BitVec 8)) : r.Heard (s.hostWrite c a l) := by
  unfold State.hostWrite State.hostWriteAt
  refine .ite h ?_
  split
  · exact h.emit _
  · exact h.faultCtx _ _

/-- Two writes of one record, in their order (17 R425). -/
theorem State.hostWrite_two (s : State) (c a1 a2 b1 b2 : Nat) (w1 w2 : Bool) (l1 l2 : List (BitVec 8))
    (h : (SMap.get partUnlisted s.sec.parts (s.partOf c)).discard = false) (m : SMap.get flagUnlisted s.hub.mute (s.fnOf c) = false)
    (g1 : hostXlat s.gate.act (s.fnOf c) a1 l1.length = some (b1, w1)) (g2 : hostXlat s.gate.act (s.fnOf c) a2 l2.length = some (b2, w2)) :
    Sent.hostWrite (s.fnOf c) b1 l1 ∈ ((s.hostWrite c a1 l1).hostWrite c a2 l2).hub.out ∧
    Sent.hostWrite (s.fnOf c) b2 l2 ∈ ((s.hostWrite c a1 l1).hostWrite c a2 l2).hub.out := by
  rw [State.hostWrite_eq s c a1 b1 w1 l1 h g1]
  have e := State.hostWrite_eq (s.emit (Sent.hostWrite (s.fnOf c) b1 l1)) c a2 b2 w2 l2 h g2
  rw [e]
  exact ⟨State.out_emit _ _ (State.emitted_fn s _ _ rfl m), State.emitted_fn _ _ _ rfl (by rw [State.mute_emit]; exact m)⟩

/-- Counting a block toward a promotion's probation leaves the ring's places (12 R319). -/
theorem State.probe_eq (s : State) (c x : Nat) : ((s.probe c x).ctx c).prod = (s.ctx c).prod ∧ ((s.probe c x).ctx c).harvWait = (s.ctx c).harvWait ∧
    s.Heard (s.probe c x) := by
  have m : ∀ f : CtxSt → CtxSt, (∀ z, (f z).prod = z.prod ∧ (f z).harvWait = z.harvWait) →
      ((s.modCtx c f).ctx c).prod = (s.ctx c).prod ∧ ((s.modCtx c f).ctx c).harvWait = (s.ctx c).harvWait ∧ s.Heard (s.modCtx c f) := by
    intro f hf
    rw [State.ctx_modCtx, if_pos rfl]
    exact ⟨(hf _).1, (hf _).2, State.Heard.left (State.Heard.refl s) (State.modCtx_keeps (Keeps.refl _))⟩
  have k : ∀ (v u : State), u.ctx = v.ctx → v.Heard u → ((v.ctx c).prod = (s.ctx c).prod ∧ (v.ctx c).harvWait = (s.ctx c).harvWait ∧ s.Heard v) →
      (u.ctx c).prod = (s.ctx c).prod ∧ (u.ctx c).harvWait = (s.ctx c).harvWait ∧ s.Heard u := by
    intro v u e g h
    rw [e]
    exact ⟨h.1, h.2.1, h.2.2.trans g⟩
  unfold State.probe
  dsimp only
  generalize hp : s.modCtx c (fun z => { z with probBlocks := _, probFails := _ }) = v
  have hv := m (fun z => { z with probBlocks := (s.ctx c).probBlocks + 1, probFails := (s.ctx c).probFails + (1 - fieldOf x 192 1) }) (fun _ => ⟨rfl, rfl⟩)
  rw [hp] at hv
  split
  · split
    · refine k _ _ (State.ctx_left (State.bump_keeps (State.raise_keeps (Keeps.refl _)))) (State.Heard.bump (State.Heard.raise (State.Heard.refl _) _ _ _) _ _ _) ?_
      refine ⟨?_, ?_, State.Heard.left hv.2.2 (State.modCtx_keeps (Keeps.refl _))⟩
      · rw [State.ctx_modCtx, if_pos rfl]
        exact hv.1
      · rw [State.ctx_modCtx, if_pos rfl]
        exact hv.2.1
    · exact hv
  · exact ⟨rfl, rfl, State.Heard.refl _⟩

/-- The oldest record of a context is written where the ring has room (17 R425). -/
theorem State.writeHarvest_room (s : State) (c x k a : Nat) (rest : List Nat) (h : (s.ctx c).harvWait = x :: rest) (hr : s.harvRoom c = true)
    (hk : k = ((s.ctx c).prod + 1) % 2 ^ 32) (ha : a = harvAddr s.gate.act c + 64 + 64 * ((k + 2 ^ 32 - 1) % 2 ^ 32 % harvRecs s.gate.act c)) :
    ((s.writeHarvest c).ctx c).prod = k ∧ ((s.writeHarvest c).ctx c).harvWait = rest ∧
    ((s.hostWrite c a (natLe 56 (x % 2 ^ 448))).hostWrite c (a + 56) (natLe 8 (k + 2 ^ 32 * (2 ^ 32 - 1 - k)))).Heard (s.writeHarvest c) := by
  unfold State.writeHarvest
  rw [h]
  dsimp only
  rw [if_pos hr, ← hk, ← ha]
  generalize (s.hostWrite c a (natLe 56 (x % 2 ^ 448))).hostWrite c (a + 56) (natLe 8 (k + 2 ^ 32 * (2 ^ 32 - 1 - k))) = w
  have e : ((((w.modCtx c fun y => { y with harvWait := rest, prod := k }).bump pgHst 0x58 (some (s.partOf c)))).ctx c).prod = k ∧
      ((((w.modCtx c fun y => { y with harvWait := rest, prod := k }).bump pgHst 0x58 (some (s.partOf c)))).ctx c).harvWait = rest := by
    rw [State.ctx_left (State.bump_keeps (Keeps.refl _)), State.ctx_modCtx, if_pos rfl]
    exact ⟨rfl, rfl⟩
  have hh : w.Heard ((w.modCtx c fun y => { y with harvWait := rest, prod := k }).bump pgHst 0x58 (some (s.partOf c))) :=
    State.Heard.bump ((State.Heard.refl w).left (State.modCtx_keeps (Keeps.refl _))) _ _ _
  generalize ((w.modCtx c fun y => { y with harvWait := rest, prod := k }).bump pgHst 0x58 (some (s.partOf c))) = v at e hh ⊢
  obtain ⟨p1, p2, p3⟩ := State.probe_eq v c x
  generalize v.probe c x = z at p1 p2 p3 ⊢
  split
  · refine ⟨p1.trans e.1, p2.trans e.2, hh.trans (p3.trans ⟨Hub.says_sendVector _ _ _ _, fun v' p b q => ?_⟩)⟩
    exact Hub.later_sendVector _ _ _ _ v' p b q
  · exact ⟨p1.trans e.1, p2.trans e.2, hh.trans p3⟩

end Sys2Proof.Machine
end

