-- ==== Sys2Proof/Laws/EffectsThr.lean ====
section
/-!
SUPPORT. What the operations of the Thresher do: queues, the head's start, the end of an item.
-/

set_option Elab.async false

namespace Sys2Proof.Machine

open Sys2Proof

variable {q1 q2 q3 q4 q5 q6 q7 q8 q9 q10 q11 q12 q13 q14 q15 q16 q17 q18 : Prop}

theorem State.thrQueue_set (s : State) (e : Bool) (q : Nat) (l : List ThrJob) : (s.setQueue e q l).thrQueue e q = l := by
  unfold State.setQueue State.thrQueue
  cases e <;> exact SMap.get_put_self queueUnlisted _ _ _

theorem State.thrQueue_left {s t : State} (h : LeavesThr s t) (e : Bool) (q : Nat) : t.thrQueue e q = s.thrQueue e q := by
  unfold State.thrQueue
  rw [Keeps.thr_eq h]

theorem State.Heard.setQueue {r s : State} (h : r.Heard s) (e : Bool) (q : Nat) (l : List ThrJob) : r.Heard (s.setQueue e q l) :=
  h.left (State.setQueue_keeps (Keeps.refl _))

theorem State.Heard.startHead {r : State} (e : Bool) (q : Nat) : ∀ (k : Nat) (s : State), r.Heard s → r.Heard (s.startHead e q k)
  | 0, _, h => h
  | k + 1, s, h => by
    unfold State.startHead
    split
    · exact h
    · exact .ite (State.Heard.startHead e q k _ (.setQueue (.emit h _) _ _ _)) (.ite h (.setQueue h _ _ _))

/-- The head starts and takes its weight set (10 R256). -/
theorem State.startHead_cons (s : State) (e : Bool) (q k : Nat) (j : ThrJob) (l : List ThrJob) (h : s.thrQueue e q = j :: l)
    (hr : j.refused = false) :
    (s.startHead e q (k + 1)).thrQueue e q =
      if j.started then j :: l else { j with started := true, wset := s.weightSet q (fieldOf j.header 4 2) } :: l := by
  unfold State.startHead
  rw [h]
  dsimp only
  rw [if_neg (by rw [hr]; decide)]
  split
  · exact h
  · exact State.thrQueue_set _ _ _ _

/-- A refused job at the head delivers its zeros (10 R254). -/
theorem State.startHead_refused (s : State) (e : Bool) (q k : Nat) (j : ThrJob) (h : s.thrQueue e q = [j]) (hr : j.refused = true) :
    (s.startHead e q (k + 2)).thrQueue e q = [] ∧ s.Heard (s.startHead e q (k + 2)) ∧ j.deliver q ∈ (s.startHead e q (k + 2)).hub.out := by
  refine ⟨?_, State.Heard.startHead e q _ s (.refl _), ?_⟩
  · unfold State.startHead
    rw [h]
    dsimp only
    rw [if_pos hr]
    unfold State.startHead
    rw [State.thrQueue_set]
    exact State.thrQueue_set _ _ _ _
  · unfold State.startHead
    rw [h]
    dsimp only
    rw [if_pos hr]
    refine (State.Heard.startHead e q (k + 1) _ (State.Heard.setQueue (.refl _) _ _ _)).1 _ (State.emitted _ _ ?_)
    unfold ThrJob.deliver
    split <;> rfl

/-- The end of an item on a unit that serves (10 R264). -/
theorem State.itemDone_eq (s : State) (e : Bool) (q u c : Nat) (m : Bool) (kinds : List Nat) (f : ThrJob → Bool → State → ThrJob × State)
    (g : ThrJob) (j : ThrJob) (rest : List ThrJob) (h1 : s.slotCtx q = some c) (h2 : s.thrQueue e q = j :: rest) (h3 : s.unitServes u = true)
    (h4 : j.started = true) (h5 : hKind j.header ∈ kinds) (h6 : (s.ctx c).live = true)
    (hf : ∀ v, (f { j with again := false, unit := u } m v).1 = g) :
    ((m = true ∧ j.again = false) → (s.itemDone e q u m kinds f).thrQueue e q = { j with again := true, rerun := true } :: rest ∧
      (s.itemDone e q u m kinds f).event .pf pgThr 8 = true) ∧
    (¬ (m = true ∧ j.again = false) →
      (g.next + 1 < hBlocks j.header → (s.itemDone e q u m kinds f).thrQueue e q = { g with next := g.next + 1 } :: rest) ∧
      (hBlocks j.header ≤ g.next + 1 → ({ g with next := g.next + 1 } : ThrJob).deliver q ∈ (s.itemDone e q u m kinds f).hub.out)) := by
  unfold State.itemDone
  rw [h1, h2]
  dsimp only
  rw [if_pos ⟨h3, h4, h5, h6⟩]
  constructor
  · intro a
    have ev : ((s.bump pgThr 0x78 (some (s.partOf c))).raise pgThr 8 (some (s.partOf c))).event .pf pgThr 8 = true :=
      State.event_raise_self _ _ _ (by decide)
    rw [if_pos a, if_pos a.1]
    generalize (s.bump pgThr 0x78 (some (s.partOf c))).raise pgThr 8 (some (s.partOf c)) = v at ev ⊢
    refine ⟨State.thrQueue_set _ _ _ _, ?_⟩
    have hr : ∀ k, v.Heard { v with thr := { v.thr with rerunning := k } } := fun k => State.Heard.hubEq (State.Heard.refl v) rfl
    exact (State.Heard.setQueue (State.Heard.bump (hr _) _ _ _) _ _ _).2 _ _ _ ev
  · intro a
    rw [if_neg a, hf]
    refine ⟨fun b => ?_, fun b => ?_⟩
    · rw [if_pos b]
      exact State.thrQueue_set _ _ _ _
    · rw [if_neg (by omega)]
      refine (State.Heard.startHead e q _ _ (State.Heard.setQueue (.refl _) _ _ _)).1 _ (State.emitted _ _ ?_)
      unfold ThrJob.deliver
      split <;> rfl

end Sys2Proof.Machine
end

