-- ==== Sys2Proof/Laws/EffectsRms.lean ====
section
/-!
SUPPORT. What the Ringmaster's operations leave of the steps of contexts, and what a build, a dispatch and a kill do.
-/

set_option Elab.async false

namespace Sys2Proof.Machine

open Sys2Proof

variable {q1 q2 q3 q4 q5 q6 q7 q8 q9 q10 q11 q12 q13 q14 q15 q16 q17 q18 : Prop} {α : Type}

/-- The steps of every context are as before, as far as `p` shows. -/
def State.SameSteps (p : StepSt → α) (s t : State) : Prop := ∀ c, (t.ctx c).steps.map p = (s.ctx c).steps.map p

theorem State.SameSteps.refl (p : StepSt → α) (s : State) : s.SameSteps p s := fun _ => rfl

theorem State.SameSteps.trans {p : StepSt → α} {r s t : State} (h : r.SameSteps p s) (g : s.SameSteps p t) : r.SameSteps p t :=
  fun c => (g c).trans (h c)

theorem State.SameSteps.ctxEq {p : StepSt → α} {r s t : State} (h : r.SameSteps p s) (k : t.ctx = s.ctx) : r.SameSteps p t := by
  intro c
  rw [k]
  exact h c

theorem State.SameSteps.left {p : StepSt → α} {r s t : State} (h : r.SameSteps p s) (k : LeavesRms s t) : r.SameSteps p t := h.ctxEq (State.ctx_left k)

theorem State.SameSteps.mod {p : StepSt → α} {r s : State} (h : r.SameSteps p s) (c : Nat) (f : CtxSt → CtxSt)
    (hf : ∀ x, (f x).steps.map p = x.steps.map p) : r.SameSteps p (s.modCtx c f) := by
  intro d
  rw [State.ctx_modCtx]
  split
  · rename_i e
    subst e
    rw [hf]
    exact h _
  · exact h d

theorem State.SameSteps.modStep {p : StepSt → α} {r s : State} (h : r.SameSteps p s) (c n : Nat) (f : StepSt → StepSt)
    (hf : ∀ y, y.n = n → p (f y) = p y) : r.SameSteps p (s.modStep c n f) := by
  unfold State.modStep
  refine h.mod c _ fun x => ?_
  dsimp only
  rw [List.map_map]
  refine List.map_congr_left fun y _ => ?_
  simp only [Function.comp_apply]
  split
  · exact hf y ‹_›
  · rfl

theorem State.SameSteps.ite {p : StepSt → α} {r a b : State} {c : Prop} [Decidable c] (ha : r.SameSteps p a) (hb : r.SameSteps p b) :
    r.SameSteps p (if c then a else b) := by split <;> assumption

theorem State.SameSteps.foldl {β : Type} {p : StepSt → α} {r : State} (g : State → β → State)
    (hg : ∀ t x, r.SameSteps p t → r.SameSteps p (g t x)) : ∀ (l : List β) (t : State), r.SameSteps p t → r.SameSteps p (l.foldl g t)
  | [], _, h => h
  | x :: l, t, h => State.SameSteps.foldl g hg l _ (hg t x h)

/-- The step of a number, as far as `p` shows, where `p` shows the number. -/
theorem State.SameSteps.step {p : StepSt → α} {s t : State} (h : s.SameSteps p t) (k : α → Nat) (hk : ∀ y, k (p y) = y.n) (c n : Nat) :
    (t.step? c n).map p = (s.step? c n).map p := by
  have e : ∀ l : List StepSt, (l.find? fun y => decide (y.n = n)).map p = (l.map p).find? fun a => decide (k a = n) := by
    intro l
    rw [List.find?_map]
    congr 2
    funext y
    simp [hk]
  unfold State.step?
  rw [e, e, h c]

/-- A step that is there remains. -/
theorem State.SameSteps.isSome {s t : State} (h : s.SameSteps StepSt.n t) (c n : Nat) : (t.step? c n).isSome = (s.step? c n).isSome := by
  have := congrArg Option.isSome (h.step id (fun _ => rfl) c n)
  simpa using this

/-! ### Slots and swaps -/

theorem State.SameSteps.takeSlot {p : StepSt → α} {r s : State} (h : r.SameSteps p s) (c k : Nat) : r.SameSteps p (s.takeSlot c k) := by
  unfold State.takeSlot
  exact .mod (.ctxEq h rfl) _ _ fun _ => rfl

theorem State.SameSteps.beginSwapOut {p : StepSt → α} {r s : State} (h : r.SameSteps p s) (c : Nat) : r.SameSteps p (s.beginSwapOut c) := by
  unfold State.beginSwapOut
  have m : r.SameSteps p (s.modCtx c fun x => { x with st := .swapping, preempting := true }) := .mod h _ _ fun _ => rfl
  exact m.left (State.bump_keeps (State.preemptSprouts_keeps (Keeps.refl _)))

theorem State.SameSteps.findSlot {p : StepSt → α} {r s : State} (h : r.SameSteps p s) (c : Nat) : r.SameSteps p (s.findSlot c) := by
  have d : r.SameSteps p (s.modCtx c fun x => { x with st := .deferred }) := .mod h _ _ fun _ => rfl
  have o : ∀ v, r.SameSteps p ((s.beginSwapOut v).modCtx c fun x => { x with st := .swapped, awaitSlot := (s.ctx v).slot }) :=
    fun v => .mod (.beginSwapOut h v) _ _ fun _ => rfl
  unfold State.findSlot
  dsimp only
  split
  · exact .takeSlot h _ _
  · split
    · exact o _
    · split
      · split
        · exact o _
        · exact d
      · exact d

theorem State.SameSteps.retryDeferred {p : StepSt → α} {r s : State} (h : r.SameSteps p s) : r.SameSteps p s.retryDeferred := by
  unfold State.retryDeferred
  exact .foldl _ (fun t c ht => .ite (.findSlot ht c) ht) _ _ h

theorem State.SameSteps.restagePace {p : StepSt → α} {r s : State} (h : r.SameSteps p s) : r.SameSteps p s.restagePace :=
  h.left (State.restagePace_keeps (Keeps.refl _))

theorem State.SameSteps.pushHarvest {p : StepSt → α} {r s : State} (h : r.SameSteps p s) (c x : Nat) : r.SameSteps p (s.pushHarvest c x) := by
  unfold State.pushHarvest
  dsimp only
  exact .ite (.left h (State.bump_keeps (Keeps.refl _))) (.ite (.left h (State.raise_keeps (State.bump_keeps (Keeps.refl _)))) (.mod h _ _ fun _ => rfl))

theorem State.SameSteps.debugEnd {p : StepSt → α} {r s : State} (h : r.SameSteps p s) (k c : Nat) : r.SameSteps p (s.debugEnd k c) :=
  h.left (State.debugEnd_keeps (Keeps.refl _))

/-- What `p` does not show of a step that its grants' records change. -/
def GrantBlind (p : StepSt → α) : Prop := ∀ (y : StepSt) (a b c : Nat) (g : List Grant), p { y with numflags := a, nFb := b, nAlloc := c, grants := g } = p y

theorem State.SameSteps.harvestGrant {p : StepSt → α} (hp : GrantBlind p) {r s : State} (h : r.SameSteps p s) (c n k x : Nat) :
    r.SameSteps p (s.harvestGrant c n k x) := by
  unfold State.harvestGrant
  exact .modStep (.pushHarvest h _ _) _ _ _ fun y _ => hp y _ _ _ _

theorem State.SameSteps.harvestAll {p : StepSt → α} (hp : GrantBlind p) {r s : State} (h : r.SameSteps p s) (c n k : Nat) :
    r.SameSteps p (s.harvestAll c n k) := by
  unfold State.harvestAll
  split
  · exact h
  · refine .foldl _ (fun t j ht => ?_) _ _ h
    split
    · exact .ite ht (.harvestGrant hp ht _ _ _ _)
    · exact ht

theorem State.SameSteps.completeGrant {p : StepSt → α} (hp : GrantBlind p) {r s : State} (h : r.SameSteps p s) (c n k st : Nat) (l : List AllocDone) :
    r.SameSteps p (s.completeGrant c n k st l) := by
  unfold State.completeGrant
  split
  · exact h
  · split
    · exact h
    · refine .ite h (.ite (.harvestGrant hp h _ _ _ _) ?_)
      exact .harvestGrant hp (.modStep h _ _ _ fun y _ => hp y _ _ y.nAlloc y.grants) _ _ _ _

/-! ### DRAM -/

theorem State.SameSteps.faultCtx {p : StepSt → α} {r s : State} (h : r.SameSteps p s) (c k : Nat) : r.SameSteps p (s.faultCtx c k) := by
  unfold State.faultCtx
  have m : r.SameSteps p (s.modCtx c fun x => { x with fault := some k }) := .mod h _ _ fun _ => rfl
  exact .ite (m.left (State.record_keeps (Keeps.refl _))) h

theorem State.SameSteps.dramPut {p : StepSt → α} {r s : State} (h : r.SameSteps p s) (c : Option Nat) (a : Nat) (d : List (BitVec 8)) :
    r.SameSteps p (s.dramPut c a d) := by
  unfold State.dramPut
  refine .foldl _ (fun t cw ht => ?_) _ _ h
  dsimp only
  have k : r.SameSteps p (if decide (a ≤ 16 * cw ∧ 16 * cw + 16 ≤ a + d.length) then t else t.dramEvent cw c (eccJudge (s.xorOf cw))) :=
    .ite ht (ht.left (State.dramEvent_keeps (Keeps.refl _)))
  split
  · split
    · exact k.faultCtx _ _
    · exact k
  · exact k.ctxEq rfl

theorem State.SameSteps.dramWrite {p : StepSt → α} {r s : State} (h : r.SameSteps p s) (c : Option Nat) (a : Nat) (d : List (BitVec 8)) :
    r.SameSteps p (s.dramWrite c a d) := by
  unfold State.dramWrite
  dsimp only
  refine .ite ?_ ?_
  · have z : ∀ (u : State) n m, r.SameSteps p u → r.SameSteps p (u.zeroTouch n m) := fun u n m hu => hu.left (State.zeroTouch_keeps (Keeps.refl _))
    have b : ∀ (u : State) q o x n, r.SameSteps p u → r.SameSteps p (u.bumpBy q o x n) := fun u q o x n hu => hu.left (State.bumpBy_keeps (Keeps.refl _))
    exact .left (.dramPut (b _ _ _ _ _ (z _ _ _ h)) _ _ _) (State.touchCheck_keeps (Keeps.refl _))
  · have k : r.SameSteps p (if sbaOk s.gate.act (a - dramBase) d.length then s else s.bump pgDdr 0x60 (c.map s.partOf)) :=
      .ite h (h.left (State.bump_keeps (Keeps.refl _)))
    split
    · exact k.faultCtx _ _
    · exact k

/-! ### Aborts and steps falling due -/

/-- A step of one number whole, the others by their number only. -/
def stepAt (n : Nat) (y : StepSt) : Nat × Option StepSt := (y.n, if y.n = n then some y else none)

theorem State.SameSteps.at {s t : State} {n : Nat} (h : s.SameSteps (stepAt n) t) (c : Nat) : t.step? c n = s.step? c n := by
  have e := h.step Prod.fst (fun _ => rfl) c n
  have a : ∀ u : State, (u.step? c n).map (stepAt n) = (u.step? c n).map fun y => (n, some y) := by
    intro u
    cases hu : u.step? c n with
    | none => rfl
    | some y =>
      have := State.step?_n u c n y hu
      simp [stepAt, this]
  rw [a, a] at e
  generalize s.step? c n = o at e ⊢
  generalize t.step? c n = q at e ⊢
  cases o <;> cases q <;> simp at e ⊢
  exact e

/-- Changing another step. -/
theorem State.SameSteps.other {n m : Nat} (hm : m ≠ n) {r s : State} (h : r.SameSteps (stepAt n) s) (c : Nat) (f : StepSt → StepSt)
    (hf : ∀ y, (f y).n = y.n) : r.SameSteps (stepAt n) (s.modStep c m f) := by
  refine .modStep h _ _ _ fun y hy => ?_
  unfold stepAt
  rw [hf, if_neg (by omega), if_neg (by omega)]

theorem State.SameSteps.otherGrants {n m : Nat} (hm : m ≠ n) {r s : State} (h : r.SameSteps (stepAt n) s) (c k : Nat) :
    r.SameSteps (stepAt n) (s.harvestAll c m k) := by
  unfold State.harvestAll
  split
  · exact h
  · refine .foldl _ (fun t j ht => ?_) _ _ h
    split
    · refine .ite ht ?_
      unfold State.harvestGrant
      exact .other hm (.pushHarvest ht _ _) _ _ fun _ => rfl
    · exact ht

theorem State.SameSteps.abortOther {n m : Nat} (hm : m ≠ n) {r s : State} (h : r.SameSteps (stepAt n) s) (c : Nat) :
    r.SameSteps (stepAt n) (s.abortStep c m) := by
  unfold State.abortStep
  split
  · exact h
  · rename_i y hy
    dsimp only
    refine .ite ?_ h
    generalize List.foldl _ ((s.tightLog c y 13 0).bump pgRms 0x88 (some (s.partOf c))).rms.roster y.grants = ro
    have k : r.SameSteps (stepAt n) ((s.tightLog c y 13 0).bump pgRms 0x88 (some (s.partOf c))) :=
      h.ctxEq ((State.ctx_left (State.bump_keeps (Keeps.refl _))).trans (State.tightLog_ctx _ _ _ _ _))
    generalize (s.tightLog c y 13 0).bump pgRms 0x88 (some (s.partOf c)) = u at k ⊢
    have k2 : r.SameSteps (stepAt n) { u with rms := { u.rms with roster := ro } } := k.ctxEq rfl
    have e := State.SameSteps.otherGrants hm k2 c 2
    generalize State.harvestAll _ c m 2 = v at e ⊢
    split
    · exact e
    · rename_i z hz
      have a := State.SameSteps.pushHarvest e c (v.stepRecord c z 2)
      have b := State.SameSteps.other hm a c (fun w => { w with aborted := true, ended := true, tasks := w.tasks.map fun k => { k with stopped := true } }) fun _ => rfl
      exact State.SameSteps.debugEnd b 5 c

/-- A step that falls due is as it came into being. -/
theorem State.stepDue_at (s : State) (c n : Nat) (hn : n < 2 ^ 32) : (s.stepDue c n).step? c n = s.step? c n := by
  have a : s.SameSteps (stepAt n) (s.abortStep c ((n + 2 ^ 32 - 2) % 2 ^ 32)) := .abortOther (by omega) (.refl _ _) c
  unfold State.stepDue
  dsimp only
  exact State.SameSteps.at (.ite (.findSlot a c) a) c

theorem State.addStep_at (s : State) (c : Nat) (y : StepSt) (h : s.step? c y.n = none) : (s.addStep c y).step? c y.n = some y := by
  unfold State.step? State.addStep at *
  rw [State.ctx_modCtx, if_pos rfl]
  dsimp only
  rw [List.find?_append]
  have e : ((s.ctx c).steps.filter fun z => !z.ended).find? (fun z => decide (z.n = y.n)) = none := by
    rw [List.find?_eq_none] at h ⊢
    exact fun z hz => h z (List.mem_of_mem_filter hz)
  rw [e]
  simp

/-- What saves, restores and faults leave of the steps. -/
theorem State.SameCtx.steps {s t : State} (h : s.SameCtx t) : s.SameSteps StepSt.core t := fun c => congrArg CtxSt.steps (h c)

theorem State.SameSteps.core {s t : State} (h : s.SameSteps StepSt.core t) (c n : Nat) (y : StepSt) (hy : s.step? c n = some y) :
    ∃ w, t.step? c n = some w ∧ w.core = y.core := by
  have e := h.step StepSt.n (fun _ => rfl) c n
  rw [hy] at e
  cases ht : t.step? c n with
  | none => rw [ht] at e; cases e
  | some w => exact ⟨w, rfl, by rw [ht] at e; simpa using e⟩

/-- A dispatched step (11 R280). -/
theorem State.dispatch_step (s : State) (c n : Nat) (y z : StepSt) (late : Bool) (h : s.step? c n = some z) :
    ∃ w, (s.dispatch c n y late).step? c n = some w ∧ w.dispatched = true ∧ w.late = late ∧ w.tasks.length = planTasks z.plan := by
  have lift : ∀ (v u : State), v.SameSteps StepSt.core u → (∃ w, v.step? c n = some w ∧ w.dispatched = true ∧ w.late = late ∧ w.tasks.length = planTasks z.plan) →
      ∃ w, u.step? c n = some w ∧ w.dispatched = true ∧ w.late = late ∧ w.tasks.length = planTasks z.plan := by
    rintro v u hvu ⟨w, h1, h2, h3, h4⟩
    obtain ⟨x, g1, g2⟩ := hvu.core c n w h1
    refine ⟨x, g1, (congrArg StepSt.dispatched g2).trans h2, (congrArg StepSt.late g2).trans h3, ?_⟩
    have := congrArg (fun y : StepSt => y.tasks.length) g2
    simpa [StepSt.core, h4] using this
  unfold State.dispatch
  dsimp only
  have k0 : ((if s.replays c = true then s.debugBegin 5 (2 ^ s.partOf c) c else s) : State).step? c n = some z := by
    split
    · rw [State.step?_ctx (State.ctx_left (State.debugBegin_keeps (Keeps.refl _)))]
      exact h
    · exact h
  generalize ((if s.replays c = true then s.debugBegin 5 (2 ^ s.partOf c) c else s) : State) = u0 at k0 ⊢
  have tl : (planTaskList z.plan).length = planTasks z.plan := by simp [planTaskList]
  have k1 : ∃ w, (u0.modStep c n fun z =>
    { z with
      dispatched := true, late := late, owed := false
      boundary := if s.realTime c then z.boundary else s.sdl.dev
      parity := if s.realTime c then (z.slotK % 2).toNat else n % 2
      gen := (s.ctx c).gen % 2
      reserve := (slotLen (s.muOf c)).toNat * 8 / 100
      flags := Nat.lor z.flags (s.ringFlag z.plan)
      tasks := planTaskList z.plan }).step? c n = some w ∧ w.dispatched = true ∧ w.late = late ∧ w.tasks.length = planTasks z.plan := by
    rw [State.step?_modStep _ _ _ _ (by intro _; rfl), k0]
    exact ⟨_, rfl, rfl, rfl, tl⟩
  generalize State.modStep u0 c n _ = u1 at k1 ⊢
  have bz : ∀ (v u : State) q o p k, v.SameSteps StepSt.core u → v.SameSteps StepSt.core (u.bumpBy q o p k) := fun v u q o p k hu => hu.left (State.bumpBy_keeps (Keeps.refl _))
  have k2 : u1.SameSteps StepSt.core (u1.modCtx c fun x =>
    { x with
      st := .running, plan := y.lib, beat := s.sdl.ref
      parity := if s.realTime c then decide (y.slotK % 2 = 1) else decide (n % 2 = 1) }) := .mod (.refl _ _) _ _ fun _ => rfl
  generalize State.modCtx u1 c _ = u2 at k2 ⊢
  have k3 : u1.SameSteps StepSt.core (if late = true then (u2.bump pgRms 0x40 (some (s.partOf c))).bump pgRms 0x80 (some (s.partOf c)) else u2.bump pgRms 0x40 (some (s.partOf c))) :=
    .ite (bz _ _ _ _ _ 1 (bz _ _ _ _ _ 1 k2)) (bz _ _ _ _ _ 1 k2)
  generalize (if late = true then (u2.bump pgRms 0x40 (some (s.partOf c))).bump pgRms 0x80 (some (s.partOf c)) else u2.bump pgRms 0x40 (some (s.partOf c))) = u3 at k3 ⊢
  have k5 : ∀ (u4 : State), u1.SameSteps StepSt.core u4 → u1.SameSteps StepSt.core ((planPlots y.plan).foldl
    (fun t p => if SMap.get zeroUnlisted t.rms.serving (16 + p) = 0 ∨ SMap.get zeroUnlisted t.rms.serving (16 + p) = (s.ctx c).slot.getD 0 + 1 then
      t.resetSieve p else t) u4) := fun u4 h4 => .foldl _ (fun t p ht => .ite (ht.left (State.resetSieve_keeps (Keeps.refl _))) ht) _ _ h4
  have k4 : u1.SameSteps StepSt.core ({ u3 with thr := { u3.thr with wset := u3.thr.wset.filter fun e => decide (e.1 / 4 ≠ (s.ctx c).slot.getD 0) } } : State) := k3.ctxEq rfl
  have k5' := k5 _ k4
  generalize List.foldl (fun (t : State) p => if SMap.get zeroUnlisted t.rms.serving (16 + p) = 0 ∨ SMap.get zeroUnlisted t.rms.serving (16 + p) = (s.ctx c).slot.getD 0 + 1 then
      t.resetSieve p else t) _ (planPlots y.plan) = u5 at k5' ⊢
  have k6 : u1.SameSteps StepSt.core (if s.isGh c = true ∧ 0 < samplesHeld y.body then u5.bumpBy pgRms 0xB0 (some (s.partOf c)) (samplesHeld y.body) else u5) :=
    .ite (bz _ _ _ _ _ _ k5') k5'
  generalize (if s.isGh c = true ∧ 0 < samplesHeld y.body then u5.bumpBy pgRms 0xB0 (some (s.partOf c)) (samplesHeld y.body) else u5) = u6 at k6 ⊢
  have wl : ∀ v, u1.SameSteps StepSt.core (u6.writeWorkList c v) := by
    intro v
    have : u6.SameCtx (u6.writeWorkList c v) := by
      unfold State.writeWorkList
      split
      · exact .refl _
      · exact .foldl _ (fun t r ht => State.winWrite_ctx ht) _ _ (.refl _)
    exact k6.trans this.steps
  split
  · exact lift u1 u6 k6 k1
  · refine lift u1 _ ?_ k1
    exact State.SameSteps.mod (State.SameSteps.restagePace (wl _)) _ _ fun _ => rfl

end Sys2Proof.Machine
end

