-- ==== Sys2Proof/Laws/EffectsRing.lean ====
section
/-!
SUPPORT. What the Peseif Ring's operations do to its ports, and what they leave of the trace and the events.
-/

set_option Elab.async false

namespace Sys2Proof.Machine

open Sys2Proof

theorem Ring.port_setPort (x : Ring) (d e : Bool) (p : RingPort) : (x.setPort d p).port e = if e = d then p else x.port e := by
  cases d <;> cases e <;> rfl

@[simp] theorem Ring.setPort_links (x : Ring) (d : Bool) (p : RingPort) : (x.setPort d p).links = x.links := by cases d <;> rfl

@[simp] theorem State.modPort_self (s : State) (e : Bool) (f : RingPort → RingPort) : (s.modPort e f).ring.port e = f (s.ring.port e) := by
  unfold State.modPort
  rw [Ring.port_setPort, if_pos rfl]

@[simp] theorem State.modPort_other (s : State) (e : Bool) (f : RingPort → RingPort) : (s.modPort e f).ring.port (!e) = s.ring.port (!e) := by
  unfold State.modPort
  rw [Ring.port_setPort, if_neg (by cases e <;> decide)]

@[simp] theorem State.reroute_port (s : State) (e : Bool) : s.reroute.ring.port e = s.ring.port e := by
  unfold State.reroute
  dsimp only
  split <;> cases e <;> rfl

@[simp] theorem State.reroute_links (s : State) : s.reroute.ring.links = s.ring.links := by
  unfold State.reroute
  dsimp only
  split <;> rfl

theorem State.Heard.reroute {r s : State} (h : r.Heard s) : r.Heard s.reroute := by
  unfold State.reroute
  dsimp only
  exact .ite (.raise (h.hubEq rfl) _ _ _) (h.hubEq rfl)

theorem State.Heard.modPort {r s : State} (h : r.Heard s) (e : Bool) (f : RingPort → RingPort) : r.Heard (s.modPort e f) := h.hubEq rfl

@[simp] theorem State.portChange_self (s : State) (e : Bool) (f : RingPort → RingPort) : (s.portChange e f).ring.port e = f (s.ring.port e) := by
  unfold State.portChange
  dsimp only
  rw [State.reroute_port]
  split
  · exact State.modPort_self s e f
  · exact State.modPort_self s e f

theorem State.Heard.portChange {r s : State} (h : r.Heard s) (e : Bool) (f : RingPort → RingPort) : r.Heard (s.portChange e f) := by
  unfold State.portChange
  exact .reroute (.ite (.raise (h.modPort e f) _ _ _) (h.modPort e f))

/-- A port that retrains holds no frame, and RETRAIN is raised (14 R344). -/
theorem State.retrain_of (s : State) (e : Bool) :
    (s.retrain e).ring.port e = { s.ring.port e with st := s.unlinked, hold := [], rate := 3 } ∧ (s.retrain e).event .pf pgPsf 10 = true := by
  unfold State.retrain
  refine ⟨State.portChange_self _ _ _, ?_⟩
  exact (State.Heard.portChange (.refl _) _ _).2 _ _ _ (State.event_raise_self _ _ _ (by decide))

theorem State.emitted_ring (s : State) (k : Nat) (l : List Nat) : Sent.ring k l ∈ (s.emit (Sent.ring k l)).hub.out := by
  show _ ∈ (Hub.emit s.hub _).out
  unfold Hub.emit Hub.muted Sent.fn?
  simp

@[simp] theorem State.setLevel_ring (s : State) (g l : Nat) : (s.setLevel g l).ring = s.ring :=
  Keeps.ring_eq (State.setLevel_keeps (Keeps.refl _) : LeavesRing s _)

@[simp] theorem State.setLevel_trn (s : State) (g l : Nat) : (s.setLevel g l).trn = s.trn :=
  Keeps.trn_eq (State.setLevel_keeps (Keeps.refl _) : LeavesTrn s _)

@[simp] theorem State.setLevel_sdl (s : State) (g l : Nat) : (s.setLevel g l).sdl = s.sdl :=
  Keeps.sdl_eq (State.setLevel_keeps (Keeps.refl _) : LeavesSdl s _)

@[simp] theorem State.setLevel_gate (s : State) (g l : Nat) : (s.setLevel g l).gate = s.gate :=
  Keeps.gate_eq (State.setLevel_keeps (Keeps.refl _) : LeavesGate s _)

end Sys2Proof.Machine
end

