-- ==== Sys2Proof/Laws/EffectsSdl.lean ====
section
/-!
SUPPORT. What the servos' operations do: the servo they change, the other servo, and what they leave of the Sundial.
-/

set_option Elab.async false

namespace Sys2Proof.Machine

open Sys2Proof

theorem fieldOf_withField_one (x i j v : Nat) : fieldOf (withField x i 1 v) j 1 = if j = i then v % 2 else fieldOf x j 1 := by
  unfold withField fieldOf
  simp only [Nat.shiftRight_eq_div_pow, Nat.pow_one]
  have h0 : 0 < 2 ^ i := Nat.two_pow_pos i
  have e : x - x / 2 ^ i % 2 * 2 ^ i + v % 2 * 2 ^ i = x % 2 ^ i + (2 * (x / 2 ^ i / 2) + v % 2) * 2 ^ i := by
    have a := Nat.div_add_mod x (2 ^ i)
    have b := Nat.div_add_mod (x / 2 ^ i) 2
    rw [Nat.add_mul, Nat.mul_comm (2 ^ i) (x / 2 ^ i)] at *
    have c : x / 2 ^ i * 2 ^ i = 2 * (x / 2 ^ i / 2) * 2 ^ i + x / 2 ^ i % 2 * 2 ^ i := by
      rw [← Nat.add_mul, b]
    omega
  rw [e]
  split
  · rename_i h
    subst h
    rw [Nat.add_mul_div_right _ _ h0, Nat.div_eq_of_lt (Nat.mod_lt _ h0)]
    omega
  · rename_i h
    rcases Nat.lt_or_gt_of_ne h with h | h
    · obtain ⟨k, rfl⟩ : ∃ k, i = j + (k + 1) := ⟨i - j - 1, by omega⟩
      have hj : 0 < 2 ^ j := Nat.two_pow_pos j
      have m : x % 2 ^ (j + (k + 1)) / 2 ^ j % 2 = x / 2 ^ j % 2 := by
        rw [Nat.pow_add, Nat.mod_mul_right_div_self, Nat.pow_succ, Nat.mul_comm (2 ^ k) 2, Nat.mod_mul_right_mod]
      have r : (2 * (x / 2 ^ (j + (k + 1)) / 2) + v % 2) * 2 ^ (j + (k + 1)) = 2 ^ j * (2 * ((2 * (x / 2 ^ (j + (k + 1)) / 2) + v % 2) * 2 ^ k)) := by
        rw [Nat.pow_add, Nat.pow_succ]
        generalize (2 * (x / (2 ^ j * (2 ^ k * 2)) / 2) + v % 2) = y
        generalize 2 ^ j = a
        generalize 2 ^ k = b
        ring
      rw [r, Nat.add_mul_div_left _ _ hj, ← m]
      omega
    · obtain ⟨k, rfl⟩ : ∃ k, j = i + (k + 1) := ⟨j - i - 1, by omega⟩
      rw [Nat.pow_add, ← Nat.div_div_eq_div_mul, ← Nat.div_div_eq_div_mul, Nat.add_mul_div_right _ _ h0,
        Nat.div_eq_of_lt (Nat.mod_lt _ h0), Nat.pow_succ, Nat.mul_comm (2 ^ k) 2, ← Nat.div_div_eq_div_mul, ← Nat.div_div_eq_div_mul]
      congr 2
      omega

theorem Sundial.servo_setServo (x : Sundial) (d e : Bool) (v : Servo) : (x.setServo d v).servo e = if e = d then v else x.servo e := by
  cases d <;> cases e <;> rfl


@[simp] theorem State.passHooks_sdl (s : State) (a b : Nat) : (s.passHooks a b).sdl = s.sdl :=
  Keeps.sdl_eq (State.passHooks_keeps (Keeps.refl _) : LeavesSdl s _)

/-- A servo's state after a change of it. -/
theorem State.setServoState_sdl (s : State) (d : Bool) (st : ServoState) :
    (s.setServoState d st).sdl = s.sdl.setServo d { s.sdl.servo d with st := st } := by
  unfold State.setServoState
  dsimp only
  split
  · rfl
  · rfl

/-- From `s` to `t` the servos stay, and the reference with them. -/
def State.SameServos (s t : State) : Prop := (∀ e, t.sdl.servo e = s.sdl.servo e) ∧ t.sdl.ref = s.sdl.ref

theorem State.SameServos.refl (s : State) : s.SameServos s := ⟨fun _ => rfl, rfl⟩

theorem State.SameServos.of {r s t : State} (h : r.SameServos s) (e : t.sdl = s.sdl) : r.SameServos t :=
  ⟨fun k => by rw [e, h.1], by rw [e, h.2]⟩

theorem State.SameServos.ite {r a b : State} {c : Prop} [Decidable c] (ha : r.SameServos a) (hb : r.SameServos b) :
    r.SameServos (if c then a else b) := by split <;> assumption

theorem State.switchTo_servos (s : State) (d : Bool) : s.SameServos (s.switchTo d) := by
  unfold State.switchTo
  refine .ite (.refl s) (.ite (.of (.refl s) rfl) ?_)
  dsimp only
  refine .ite (.ite ?_ ?_) ?_
  · exact ⟨fun e => by cases e <;> rfl, rfl⟩
  · exact ⟨fun e => by cases e <;> rfl, rfl⟩
  · refine .of ⟨?_, ?_⟩ (State.post_sdl _ _ _ _ _)
    · intro e
      rw [State.passHooks_sdl]
      cases e <;> rfl
    · rw [State.passHooks_sdl]
      rfl

theorem State.autoSwitch_servos (s : State) (d : Bool) : s.SameServos (s.autoSwitch d) := by
  unfold State.autoSwitch
  exact .ite (State.switchTo_servos s _) (.refl s)

theorem State.Heard.passHooks {r s : State} (h : r.Heard s) (a b : Nat) : r.Heard (s.passHooks a b) := by
  unfold State.passHooks
  dsimp only
  exact .ite (h.hubEq rfl) (.raise (.bumpBy (h.hubEq rfl) _ _ _ _) _ _ _)

theorem State.Heard.switchTo {r s : State} (h : r.Heard s) (d : Bool) : r.Heard (s.switchTo d) := by
  unfold State.switchTo
  refine .ite h (.ite (h.post _ _ _ _) ?_)
  dsimp only
  have k := h.bump pgSdl 0x70 none
  refine .ite (.ite (.post ?_ _ _ _ _) ?_) (.post (.passHooks ?_ _ _) _ _ _ _)
  · exact k.hubEq rfl
  · exact k.hubEq rfl
  · exact k.hubEq rfl

theorem State.Heard.autoSwitch {r s : State} (h : r.Heard s) (d : Bool) : r.Heard (s.autoSwitch d) := by
  unfold State.autoSwitch
  exact .ite (h.switchTo _) h

theorem State.Heard.setServoState {r s : State} (h : r.Heard s) (d : Bool) (st : ServoState) : r.Heard (s.setServoState d st) := by
  unfold State.setServoState
  exact .ite (h.hubEq rfl) (.post (h.hubEq rfl) _ _ _ _)

/-- A change of a servo's state raises STATE_CHANGE (08 R203). -/
theorem State.setServoState_event (s : State) (d : Bool) (st : ServoState) (h : (s.sdl.servo d).st ≠ st) :
    (s.setServoState d st).event .pf pgSdl 8 = true := by
  unfold State.setServoState
  dsimp only
  rw [if_neg h]
  exact (State.posted _ _ _ _ (by decide)).2

/-- What a LOCKED servo is in HOLDOVER. -/
def Servo.heldAt (x : Servo) (ref : Nat) : Servo :=
  { x with st := .holdover, rate := meanRate x ref, good := 0, heldSince := ref, hist := [] }

theorem State.enterHoldover_of (s : State) (d : Bool) (h : (s.sdl.servo d).st = .locked) :
    (s.enterHoldover d).sdl.servo d = (s.sdl.servo d).heldAt s.sdl.ref ∧ (s.enterHoldover d).sdl.servo (!d) = s.sdl.servo (!d) ∧
      (s.enterHoldover d).event .pf pgSdl 8 = true := by
  unfold State.enterHoldover
  dsimp only
  rw [if_pos h]
  refine ⟨?_, ?_, ?_⟩
  · rw [(State.autoSwitch_servos _ d).1, State.setServoState_sdl, Sundial.servo_setServo, if_pos rfl, Sundial.servo_setServo, if_pos rfl]
    rfl
  · rw [(State.autoSwitch_servos _ d).1, State.setServoState_sdl, Sundial.servo_setServo, if_neg (by cases d <;> decide),
      Sundial.servo_setServo, if_neg (by cases d <;> decide)]
  · refine (State.Heard.autoSwitch (.refl _) d).2 _ _ _ (State.setServoState_event _ _ _ ?_)
    dsimp only
    rw [Sundial.servo_setServo, if_pos rfl]
    dsimp only
    rw [h]
    decide

theorem State.enterHoldover_else (s : State) (d : Bool) (h : (s.sdl.servo d).st ≠ .locked) : s.enterHoldover d = s := by
  unfold State.enterHoldover
  dsimp only
  rw [if_neg h]

/-- Stepping a domain's clock changes that domain's clock only. -/
theorem State.stepClock_servo (s : State) (d e : Bool) (off : Int) : ∃ k, (s.stepClock d off).sdl.servo e =
    (if e = d then { s.sdl.servo d with clk := k, stepped := true } else s.sdl.servo e) ∧ (s.stepClock d off).sdl.ref = s.sdl.ref ∧
    (s.stepClock d off).free = s.free ∧ (s.stepClock d off).gate.act = s.gate.act := by
  unfold State.stepClock
  dsimp only
  refine ⟨moveClk (s.sdl.servo d).clk (-off * 2 ^ 40), ?_⟩
  split
  · split
    · cases d <;> cases e <;> exact ⟨rfl, rfl, rfl, rfl⟩
    · rw [State.passHooks_sdl]
      dsimp only
      rw [Sundial.servo_setServo, Sundial.setServo_ref]
      refine ⟨rfl, rfl, ?_, ?_⟩
      · unfold State.passHooks
        dsimp only
        split <;> rfl
      · unfold State.passHooks
        dsimp only
        split <;> rfl
  · dsimp only
    rw [Sundial.servo_setServo, Sundial.setServo_ref]
    exact ⟨rfl, rfl, rfl, rfl⟩

theorem State.Heard.stepClock {r s : State} (h : r.Heard s) (d : Bool) (off : Int) : r.Heard (s.stepClock d off) := by
  unfold State.stepClock
  dsimp only
  refine .ite (.ite (h.hubEq rfl) (.passHooks ?_ _ _)) (h.hubEq rfl)
  exact h.hubEq rfl

theorem State.Heard.countGood {r s : State} (h : r.Heard s) (d : Bool) : r.Heard (s.countGood d) := by
  unfold State.countGood
  dsimp only
  refine .ite (.setServoState ?_ _ _) ?_
  · exact h.hubEq rfl
  · exact h.hubEq rfl

theorem State.Heard.acceptSample {r s : State} (h : r.Heard s) (d : Bool) (off : Int) : r.Heard (s.acceptSample d off) := by
  unfold State.acceptSample
  dsimp only
  have k := h.bump pgSdl (if d then 0x48 else 0x40) none
  refine .countGood ?_ _
  have k2 : ∀ {c : Prop} [Decidable c] (x : Sundial) (v : Servo),
      r.Heard (if c then ({ s.bump pgSdl (if d then 0x48 else 0x40) none with sdl := x.setServo d v } : State).setServoState d .acquiring
        else { s.bump pgSdl (if d then 0x48 else 0x40) none with sdl := x }) := by
    intro c _ x v
    refine .ite (.setServoState ?_ _ _) ?_
    · exact k.hubEq rfl
    · exact k.hubEq rfl
  refine .ite (.stepClock (k2 _ _) _ _) ?_
  unfold State.steer
  exact State.Heard.hubEq (k2 _ _) rfl

theorem State.Heard.ppsSample {r s : State} (h : r.Heard s) (d : Bool) : r.Heard (s.ppsSample d) := by
  unfold State.ppsSample
  refine .ite h ?_
  dsimp only
  refine .ite (.bump ?_ _ _ _) (.acceptSample ?_ _ _)
  · exact h.hubEq rfl
  · exact h.hubEq rfl

/-- What an accepted sample leaves of a servo: it counts toward LOCKED, and FREERUN becomes ACQUIRING (08 R203). -/
theorem State.acceptSample_servo (s : State) (d : Bool) (off : Int) (n : Nat)
    (hn : n = if (Config.servoFiltered s.free).natAbs ≤ s.cfg pgSdl (domOff d + 8) 0 20 * nsRef then
      (if (s.sdl.servo d).st = .freerun then 0 else (s.sdl.servo d).good) + 1 else 0) :
    ((s.acceptSample d off).sdl.servo d).lastSample = s.sdl.ref ∧ ((s.acceptSample d off).sdl.servo d).good = n ∧
    ((s.acceptSample d off).sdl.servo d).st = (if (s.sdl.servo d).st = .freerun then .acquiring
      else if 16 ≤ n ∧ ((s.sdl.servo d).st = .acquiring ∨ (s.sdl.servo d).st = .holdover) then .locked else (s.sdl.servo d).st) := by
  suffices main : ∀ s1 s2 s3 s4 : State, s1 = s.bump pgSdl (if d then 0x48 else 0x40) none →
      s2 = { s1 with sdl := s1.sdl.setServo d { s1.sdl.servo d with lastSample := s1.sdl.ref } } →
      s3 = (if (s1.sdl.servo d).st = .freerun then
        ({ s2 with sdl := s2.sdl.setServo d { s2.sdl.servo d with stepped := false, good := 0 } } : State).setServoState d .acquiring else s2) →
      s4 = (if (s3.sdl.servo d).st = .acquiring ∧ s3.flag pgSdl (domOff d) 21 = true ∧ (s3.sdl.servo d).stepped = false ∧
        1000 * nsRef < off.natAbs then s3.stepClock d off else s3.steer d) →
      ((s4.countGood d).sdl.servo d).lastSample = s.sdl.ref ∧
      ((s4.countGood d).sdl.servo d).good = n ∧
      ((s4.countGood d).sdl.servo d).st = (if (s.sdl.servo d).st = .freerun then .acquiring
        else if 16 ≤ n ∧ ((s.sdl.servo d).st = .acquiring ∨ (s.sdl.servo d).st = .holdover) then .locked else (s.sdl.servo d).st) by
    exact main _ _ _ _ rfl rfl rfl rfl
  intro s1 s2 s3 s4 hs1 hs2 hs3 hs4
  have a1 : s1.sdl = s.sdl := by rw [hs1]; rfl
  have a2 : s1.free = s.free := by rw [hs1]; rfl
  have a3 : s1.gate.act = s.gate.act := by rw [hs1]; rfl
  rw [← a1] at hn ⊢
  have b1 : s2.sdl.servo d = { s1.sdl.servo d with lastSample := s1.sdl.ref } := by
    rw [hs2]; dsimp only; rw [Sundial.servo_setServo, if_pos rfl]
  have b2 : s2.free = s.free := by rw [hs2]; exact a2
  have b3 : s2.gate.act = s.gate.act := by rw [hs2]; exact a3
  have c1 : (s3.sdl.servo d).st = (if (s1.sdl.servo d).st = .freerun then .acquiring else (s1.sdl.servo d).st) ∧
      (s3.sdl.servo d).good = (if (s1.sdl.servo d).st = .freerun then 0 else (s1.sdl.servo d).good) ∧
      (s3.sdl.servo d).lastSample = s1.sdl.ref := by
    rw [hs3]
    split
    · rw [State.setServoState_sdl, Sundial.servo_setServo, if_pos rfl]
      dsimp only
      rw [Sundial.servo_setServo, if_pos rfl, b1]
      exact ⟨rfl, rfl, rfl⟩
    · rw [b1]
      exact ⟨rfl, rfl, rfl⟩
  have c2 : s3.free = s.free := by
    rw [hs3]
    split
    · unfold State.setServoState; dsimp only; split <;> exact b2
    · exact b2
  have c3 : s3.gate.act = s.gate.act := by
    rw [hs3]
    split
    · unfold State.setServoState; dsimp only; split <;> exact b3
    · exact b3
  have d1 : (s4.sdl.servo d).st = (s3.sdl.servo d).st ∧ (s4.sdl.servo d).good = (s3.sdl.servo d).good ∧
      (s4.sdl.servo d).lastSample = (s3.sdl.servo d).lastSample ∧ s4.free = s3.free ∧ s4.gate.act = s3.gate.act := by
    rw [hs4]
    split
    · obtain ⟨k, e1, e2, e3, e4⟩ := State.stepClock_servo s3 d d off
      rw [e1, if_pos rfl]
      exact ⟨rfl, rfl, rfl, e3, e4⟩
    · unfold State.steer
      dsimp only
      rw [Sundial.servo_setServo, if_pos rfl]
      exact ⟨rfl, rfl, rfl, rfl, rfl⟩
  obtain ⟨d1, d2, d3, d4, d5⟩ := d1
  have d6 : s4.cfg pgSdl (domOff d + 8) 0 20 = s.cfg pgSdl (domOff d + 8) 0 20 := by
    unfold State.cfg
    rw [d5, c3]
  unfold State.countGood
  dsimp only
  rw [d6, d4, c2]
  simp only [decide_eq_true_eq]
  have hg : (if (Config.servoFiltered s.free).natAbs ≤ s.cfg pgSdl (domOff d + 8) 0 20 * nsRef then (s4.sdl.servo d).good + 1 else 0) = n := by
    rw [hn, d2, c1.2.1]
  rw [hg]
  split
  · rename_i hc
    rw [State.setServoState_sdl, Sundial.servo_setServo, if_pos rfl]
    dsimp only [State.tick]
    rw [Sundial.servo_setServo, if_pos rfl, Sundial.servo_setServo, if_pos rfl]
    dsimp only
    refine ⟨by rw [d3, c1.2.2], rfl, ?_⟩
    rw [d1, c1.1] at hc
    by_cases hf : (s1.sdl.servo d).st = .freerun
    · rw [if_pos hf] at hn
      exfalso
      have := hc.1
      rw [hn] at this
      split at this <;> omega
    · rw [if_neg hf] at hc ⊢
      rw [if_pos hc]
  · rename_i hc
    dsimp only [State.tick]
    rw [Sundial.servo_setServo, if_pos rfl]
    dsimp only
    refine ⟨by rw [d3, c1.2.2], rfl, ?_⟩
    rw [d1, c1.1] at hc ⊢
    by_cases hf : (s1.sdl.servo d).st = .freerun
    · rw [if_pos hf, if_pos hf]
    · rw [if_neg hf] at hc ⊢
      rw [if_neg hf, if_neg hc]

/-- A switch, a step and a loop's answer leave the stamps of PPS_IN and the active registers. -/
def State.SamePps (s t : State) : Prop :=
  t.sdl.ppsDev = s.sdl.ppsDev ∧ t.sdl.ppsA = s.sdl.ppsA ∧ t.sdl.ppsB = s.sdl.ppsB ∧ t.gate.act = s.gate.act

theorem State.SamePps.refl (s : State) : s.SamePps s := ⟨rfl, rfl, rfl, rfl⟩

theorem State.SamePps.ite {r a b : State} {c : Prop} [Decidable c] (ha : r.SamePps a) (hb : r.SamePps b) : r.SamePps (if c then a else b) := by
  split <;> assumption

theorem State.SamePps.set {r s t : State} (h : r.SamePps s) (d : Bool) (v : Servo) (e : t.sdl = s.sdl.setServo d v)
    (g : t.gate.act = s.gate.act) : r.SamePps t := by
  unfold State.SamePps at *
  rw [e, g]
  cases d <;> exact h

theorem State.SamePps.eq {r s t : State} (h : r.SamePps s) (e : t.sdl = s.sdl) (g : t.gate.act = s.gate.act) : r.SamePps t := by
  unfold State.SamePps at *
  rw [e, g]
  exact h

theorem State.setServoState_pps {r s : State} (h : r.SamePps s) (d : Bool) (st : ServoState) : r.SamePps (s.setServoState d st) := by
  refine h.set d _ (State.setServoState_sdl s d st) ?_
  unfold State.setServoState
  dsimp only
  split <;> rfl

theorem State.passHooks_pps {r s : State} (h : r.SamePps s) (a b : Nat) : r.SamePps (s.passHooks a b) := by
  refine h.eq (State.passHooks_sdl s a b) ?_
  unfold State.passHooks
  dsimp only
  split <;> rfl

theorem State.stepClock_pps {r s : State} (h : r.SamePps s) (d : Bool) (off : Int) : r.SamePps (s.stepClock d off) := by
  unfold State.stepClock
  dsimp only
  refine .ite (.ite ?_ (State.passHooks_pps ?_ _ _)) ?_
  · cases d <;> exact h
  · exact h.set _ _ rfl rfl
  · exact h.set _ _ rfl rfl

theorem State.setServoState_other (s : State) (d e : Bool) (st : ServoState) (he : e ≠ d) :
    (s.setServoState d st).sdl.servo e = s.sdl.servo e := by
  rw [State.setServoState_sdl, Sundial.servo_setServo, if_neg he]

/-- Counting a sample changes the domain's servo only. -/
theorem State.countGood_only (s : State) (d e : Bool) (he : e ≠ d) :
    s.SamePps (s.countGood d) ∧ (s.countGood d).sdl.servo e = s.sdl.servo e := by
  have key : ∀ (c : Prop) [Decidable c] (u : State) (v w : Servo), u.sdl = s.sdl.setServo d v → u.gate.act = s.gate.act →
      s.SamePps (if c then ({ u with sdl := u.sdl.setServo d w } : State).setServoState d .locked else u) ∧
      (if c then ({ u with sdl := u.sdl.setServo d w } : State).setServoState d .locked else u).sdl.servo e = s.sdl.servo e := by
    intro c _ u v w hu hg
    have k : s.SamePps u := (State.SamePps.refl s).set d v hu hg
    have o : u.sdl.servo e = s.sdl.servo e := by rw [hu, Sundial.servo_setServo, if_neg he]
    split
    · refine ⟨State.setServoState_pps ?_ _ _, ?_⟩
      · exact k.set d w rfl rfl
      · rw [State.setServoState_other _ _ _ _ he]
        exact ((Sundial.servo_setServo _ _ _ _).trans (if_neg he)).trans o
    · exact ⟨k, o⟩
  unfold State.countGood
  exact key _ _ _ _ rfl rfl

/-- A sample of one domain changes that domain's servo only. -/
theorem State.acceptSample_only (s : State) (d e : Bool) (off : Int) (he : e ≠ d) :
    s.SamePps (s.acceptSample d off) ∧ (s.acceptSample d off).sdl.servo e = s.sdl.servo e := by
  suffices main : ∀ s1 s2 s3 s4 : State, s1 = s.bump pgSdl (if d then 0x48 else 0x40) none →
      s2 = { s1 with sdl := s1.sdl.setServo d { s1.sdl.servo d with lastSample := s1.sdl.ref } } →
      s3 = (if (s1.sdl.servo d).st = .freerun then
        ({ s2 with sdl := s2.sdl.setServo d { s2.sdl.servo d with stepped := false, good := 0 } } : State).setServoState d .acquiring else s2) →
      s4 = (if (s3.sdl.servo d).st = .acquiring ∧ s3.flag pgSdl (domOff d) 21 = true ∧ (s3.sdl.servo d).stepped = false ∧
        1000 * nsRef < off.natAbs then s3.stepClock d off else s3.steer d) →
      s.SamePps (s4.countGood d) ∧ (s4.countGood d).sdl.servo e = s.sdl.servo e by
    exact main _ _ _ _ rfl rfl rfl rfl
  intro s1 s2 s3 s4 h1 h2 h3 h4
  have a1 : s.SamePps s1 ∧ s1.sdl.servo e = s.sdl.servo e := by
    rw [h1]
    exact ⟨(State.SamePps.refl s).eq rfl rfl, rfl⟩
  have a2 : s.SamePps s2 ∧ s2.sdl.servo e = s.sdl.servo e := by
    rw [h2]
    exact ⟨a1.1.set _ _ rfl rfl, ((Sundial.servo_setServo _ _ _ _).trans (if_neg he)).trans a1.2⟩
  have a3 : s.SamePps s3 ∧ s3.sdl.servo e = s.sdl.servo e := by
    rw [h3]
    split
    · refine ⟨State.setServoState_pps ?_ _ _, ?_⟩
      · exact a2.1.set _ _ rfl rfl
      · rw [State.setServoState_other _ _ _ _ he]
        exact ((Sundial.servo_setServo _ _ _ _).trans (if_neg he)).trans a2.2
    · exact a2
  have a4 : s.SamePps s4 ∧ s4.sdl.servo e = s.sdl.servo e := by
    rw [h4]
    split
    · obtain ⟨k, e1, -⟩ := State.stepClock_servo s3 d e off
      exact ⟨State.stepClock_pps a3.1 _ _, by rw [e1, if_neg he, a3.2]⟩
    · unfold State.steer
      exact ⟨a3.1.set _ _ rfl rfl, ((Sundial.servo_setServo _ _ _ _).trans (if_neg he)).trans a3.2⟩
  obtain ⟨b1, b2⟩ := State.countGood_only s4 d e he
  refine ⟨?_, b2.trans a4.2⟩
  unfold State.SamePps at *
  obtain ⟨c1, c2, c3, c4⟩ := a4.1
  exact ⟨b1.1.trans c1, b1.2.1.trans c2, b1.2.2.1.trans c3, b1.2.2.2.trans c4⟩

/-- One domain's use of a PPS_IN edge. -/
theorem State.ppsSample_pps (s : State) (d : Bool) :
    (s.ppsSample d).sdl.ppsDev = s.sdl.ppsDev ∧ (s.ppsSample d).sdl.ppsA = s.sdl.ppsA ∧ (s.ppsSample d).sdl.ppsB = s.sdl.ppsB ∧
    (s.ppsSample d).cfg = s.cfg ∧ ∀ e, e ≠ d → (s.ppsSample d).sdl.servo e = s.sdl.servo e := by
  have k : s.SamePps (s.ppsSample d) ∧ ∀ e, e ≠ d → (s.ppsSample d).sdl.servo e = s.sdl.servo e := by
    unfold State.ppsSample
    split
    · exact ⟨.refl s, fun _ _ => rfl⟩
    · have key : ∀ (c : Prop) [Decidable c] (v : Servo) (off : Int) (u : State), u = { s with sdl := s.sdl.setServo d v } →
          s.SamePps (if c then u.bump pgSdl 0x50 none else u.acceptSample d off) ∧
          ∀ e, e ≠ d → (if c then u.bump pgSdl 0x50 none else u.acceptSample d off).sdl.servo e = s.sdl.servo e := by
        intro c _ v off u hu
        have a : s.SamePps u := by rw [hu]; exact (State.SamePps.refl s).set d v rfl rfl
        have o : ∀ e, e ≠ d → u.sdl.servo e = s.sdl.servo e := fun e he => by
          rw [hu]; exact (Sundial.servo_setServo _ _ _ _).trans (if_neg he)
        split
        · exact ⟨a.eq rfl rfl, fun e he => o e he⟩
        · refine ⟨?_, fun e he => (State.acceptSample_only u d e off he).2.trans (o e he)⟩
          obtain ⟨b1, -⟩ := State.acceptSample_only u d (!d) off (by cases d <;> decide)
          exact ⟨b1.1.trans a.1, b1.2.1.trans a.2.1, b1.2.2.1.trans a.2.2.1, b1.2.2.2.trans a.2.2.2⟩
      exact key _ _ _ _ rfl
  obtain ⟨⟨k1, k2, k3, k4⟩, k5⟩ := k
  refine ⟨k1, k2, k3, ?_, k5⟩
  funext p o l w
  unfold State.cfg
  rw [k4]

/-- The reference's time passes over the source of the reference. -/
theorem State.advance_osc (s : State) (x : Nat) : (s.advance x).sdl.freeOsc = s.sdl.freeOsc ∧ (s.advance x).sdl.refHeld = s.sdl.refHeld := by
  show (s.sdl.advance _ _ x).freeOsc = _ ∧ (s.sdl.advance _ _ x).refHeld = _
  unfold Sundial.advance
  split <;> exact ⟨rfl, rfl⟩

/-- Time moves a domain's clock, and nothing else of its servo. -/
theorem State.advance_clk (s : State) (x : Nat) (d : Bool) : ∃ k, (s.advance x).sdl.servo d = { s.sdl.servo d with clk := k } := by
  show ∃ k, (s.sdl.advance _ _ x).servo d = _
  unfold Sundial.advance
  split
  · exact ⟨_, rfl⟩
  · cases d <;> exact ⟨_, rfl⟩

theorem State.advance_servo (s : State) (x : Nat) (d : Bool) :
    ((s.advance x).sdl.servo d).st = (s.sdl.servo d).st ∧ ((s.advance x).sdl.servo d).good = (s.sdl.servo d).good := by
  obtain ⟨k, e⟩ := State.advance_clk s x d
  rw [e]
  exact ⟨rfl, rfl⟩

theorem State.advance_last (s : State) (x : Nat) (d : Bool) : ((s.advance x).sdl.servo d).lastSample = (s.sdl.servo d).lastSample := by
  obtain ⟨k, e⟩ := State.advance_clk s x d
  rw [e]

theorem State.advance_heldSince (s : State) (x : Nat) (d : Bool) : ((s.advance x).sdl.servo d).heldSince = (s.sdl.servo d).heldSince := by
  obtain ⟨k, e⟩ := State.advance_clk s x d
  rw [e]

end Sys2Proof.Machine
end

