-- ==== Sys2Proof/Laws/EffectsTrn.lean ====
section
/-!
SUPPORT. What the Turnstile's operations change of its state, and what they leave of the trace and the events.
-/

set_option Elab.async false

namespace Sys2Proof.Machine

open Sys2Proof

/-- From `s` to `t` only what is kept of the radio units changes in the Turnstile, and the Sundial and the configuration stay. -/
def State.OnlyRu (s t : State) : Prop := t.trn = { s.trn with ru := t.trn.ru } ∧ t.sdl = s.sdl ∧ t.gate = s.gate

theorem State.OnlyRu.refl (s : State) : s.OnlyRu s := ⟨rfl, rfl, rfl⟩

theorem State.OnlyRu.trans {r s t : State} (h : r.OnlyRu s) (g : s.OnlyRu t) : r.OnlyRu t :=
  ⟨by rw [g.1, h.1], g.2.1.trans h.2.1, g.2.2.trans h.2.2⟩

theorem State.OnlyRu.of {r s t : State} (h : r.OnlyRu s) (e : t.trn = s.trn) (e1 : t.sdl = s.sdl) (e2 : t.gate = s.gate) : r.OnlyRu t :=
  h.trans ⟨by rw [e], e1, e2⟩

theorem State.OnlyRu.modRu {r s : State} (h : r.OnlyRu s) (k : Nat) (f : RuSt → RuSt) : r.OnlyRu (s.modRu k f) := h.trans ⟨rfl, rfl, rfl⟩

theorem State.OnlyRu.ite {r a b : State} {c : Prop} [Decidable c] (ha : r.OnlyRu a) (hb : r.OnlyRu b) : r.OnlyRu (if c then a else b) := by
  split <;> assumption

theorem State.OnlyRu.bumpBy {r s : State} (h : r.OnlyRu s) (p : Page) (o : Nat) (x : Option Nat) (n : Nat) : r.OnlyRu (s.bumpBy p o x n) :=
  h.of rfl rfl rfl

theorem State.OnlyRu.raise {r s : State} (h : r.OnlyRu s) (p : Page) (b : Nat) (x : Option Nat) : r.OnlyRu (s.raise p b x) :=
  h.of rfl rfl rfl

theorem State.OnlyRu.emit {r s : State} (h : r.OnlyRu s) (x : Sent) : r.OnlyRu (s.emit x) := h.of rfl rfl rfl

theorem State.OnlyRu.ruBump {r s : State} (h : r.OnlyRu s) (k off w n : Nat) : r.OnlyRu (s.ruBump k off w n) := (h.bumpBy _ _ _ _).modRu _ _

theorem State.OnlyRu.sendTo {r s : State} (h : r.OnlyRu s) (k kind : Nat) (l : List Nat) : r.OnlyRu (s.sendTo k kind l) := by
  unfold State.sendTo
  dsimp only
  exact .ite (.ite (.raise (.modRu (h.emit _) _ _) _ _ _) (.modRu (h.emit _) _ _)) (h.emit _)

theorem State.OnlyRu.txLate {r s : State} (h : r.OnlyRu s) (k : Nat) : r.OnlyRu (s.txLate k) := (h.ruBump _ _ _ _).raise _ _ _

theorem State.OnlyRu.cpSend {r s : State} (h : r.OnlyRu s) (k : Nat) (l : List Nat) : r.OnlyRu (s.cpSend k l) := .ite (h.sendTo _ _ _) (h.txLate _)

theorem State.OnlyRu.cpRelease {r s : State} (h : r.OnlyRu s) (x : Held) : r.OnlyRu (s.cpRelease x) :=
  .ite ((h.bumpBy _ _ _ _).raise _ _ _) (h.cpSend _ _)

theorem State.OnlyRu.foldl {α : Type} {r : State} (g : State → α → State) (hg : ∀ t x, r.OnlyRu t → r.OnlyRu (g t x)) :
    ∀ (l : List α) (t : State), r.OnlyRu t → r.OnlyRu (l.foldl g t)
  | [], _, h => h
  | x :: l, t, h => State.OnlyRu.foldl g hg l _ (hg t x h)

theorem State.OnlyRu.gridNow {s t : State} (h : s.OnlyRu t) : t.gridNow = s.gridNow := by
  unfold State.gridNow State.gridTime State.cfg
  rw [h.2.1, h.2.2]

theorem State.Heard.modRu {r s : State} (h : r.Heard s) (k : Nat) (f : RuSt → RuSt) : r.Heard (s.modRu k f) := h.hubEq rfl

theorem State.Heard.ruBump {r s : State} (h : r.Heard s) (k off w n : Nat) : r.Heard (s.ruBump k off w n) := (h.bumpBy _ _ _ _).modRu _ _

theorem State.Heard.sendTo {r s : State} (h : r.Heard s) (k kind : Nat) (l : List Nat) : r.Heard (s.sendTo k kind l) := by
  unfold State.sendTo
  dsimp only
  exact .ite (.ite (.raise (.modRu (h.emit _) _ _) _ _ _) (.modRu (h.emit _) _ _)) (h.emit _)

theorem State.Heard.txLate {r s : State} (h : r.Heard s) (k : Nat) : r.Heard (s.txLate k) := (h.ruBump _ _ _ _).raise _ _ _

theorem State.Heard.putSym {r s : State} (h : r.Heard s) (x : ChunkSym) : r.Heard (s.putSym x) := h.hubEq rfl

theorem State.emitted_stream (s : State) (k : Nat) (l : List Nat) : Sent.stream k l ∈ (s.emit (Sent.stream k l)).hub.out := by
  show _ ∈ (Hub.emit s.hub _).out
  unfold Hub.emit Hub.muted Sent.fn?
  simp

theorem State.emitted_message (s : State) (p k : Nat) (l : List Nat) : Sent.message p k l ∈ (s.emit (Sent.message p k l)).hub.out := by
  show _ ∈ (Hub.emit s.hub _).out
  unfold Hub.emit Hub.muted Sent.fn?
  simp

/-- A frame to a radio unit without MACsec leaves as its words. -/
theorem State.sendTo_out (s : State) (r kind : Nat) (l : List Nat) (h : s.ruCfg r 0 21 1 = 0) :
    Sent.message (s.ruPort r) kind l ∈ (s.sendTo r kind l).hub.out := by
  unfold State.sendTo
  dsimp only
  rw [h, if_neg (by decide)]
  simp only [Nat.zero_ne_one, decide_false, Bool.false_eq_true, if_false, List.append_nil]
  exact State.emitted_message _ _ _ _

@[simp] theorem State.ruSt_modRu_self (s : State) (r : Nat) (f : RuSt → RuSt) : (s.modRu r f).ruSt r = f (s.ruSt r) :=
  SMap.get_modify_self _ _ _ _

@[simp] theorem State.flowSt_modFlow_self (s : State) (k : Nat) (f : FlowSt → FlowSt) : (s.modFlow k f).flowSt k = f (s.flowSt k) :=
  SMap.get_modify_self _ _ _ _

theorem State.flowSt_modFlow_ne (s : State) {k i : Nat} (f : FlowSt → FlowSt) (h : i ≠ k) : (s.modFlow k f).flowSt i = s.flowSt i :=
  SMap.get_modify_ne _ _ _ h

/-- What a frame leaves of a radio unit's state but for its PN. -/
theorem State.sendTo_ru (s : State) (r kind : Nat) (l : List Nat) : ∃ n, (s.sendTo r kind l).ruSt r = { s.ruSt r with txPn := n } := by
  unfold State.sendTo
  dsimp only
  have q := fun x => State.ruSt_modRu_self (s.emit x) r fun x => { x with txPn := x.txPn + 1 }
  split
  · refine ⟨(s.ruSt r).txPn + 1, ?_⟩
    split
    · exact q _
    · exact q _
  · exact ⟨_, rfl⟩

/-- From `s` to `t` the last sequence numbers of the flows stay. -/
def State.SameSeq (s t : State) : Prop := ∀ f, (t.flowSt f).seq = (s.flowSt f).seq

theorem State.SameSeq.refl (s : State) : s.SameSeq s := fun _ => rfl

theorem State.SameSeq.trans {r s t : State} (h : r.SameSeq s) (g : s.SameSeq t) : r.SameSeq t := fun f => (g f).trans (h f)

theorem State.SameSeq.of {r s t : State} (h : r.SameSeq s) (e : t.trn.flow = s.trn.flow) : r.SameSeq t := by
  intro f
  unfold State.flowSt
  rw [e]
  exact h f

theorem State.SameSeq.ite {r a b : State} {c : Prop} [Decidable c] (ha : r.SameSeq a) (hb : r.SameSeq b) : r.SameSeq (if c then a else b) := by
  split <;> assumption

theorem State.SameSeq.foldl {α : Type} {r : State} (g : State → α → State) (hg : ∀ t x, r.SameSeq t → r.SameSeq (g t x)) :
    ∀ (l : List α) (t : State), r.SameSeq t → r.SameSeq (l.foldl g t)
  | [], _, h => h
  | x :: l, t, h => State.SameSeq.foldl g hg l _ (hg t x h)

theorem State.SameSeq.left {r s t : State} (h : r.SameSeq s) (k : LeavesTrn s t) : r.SameSeq t := h.of (by rw [Keeps.trn_eq k])

theorem State.SameSeq.modFlow {r s : State} (h : r.SameSeq s) (k : Nat) (g : FlowSt → FlowSt) (hg : ∀ y, (g y).seq = y.seq) :
    r.SameSeq (s.modFlow k g) := by
  intro f
  by_cases e : f = k
  · subst e
    rw [State.flowSt_modFlow_self, hg]
    exact h f
  · rw [State.flowSt_modFlow_ne s g e]
    exact h f

theorem State.SameSeq.putSym {r s : State} (h : r.SameSeq s) (x : ChunkSym) : r.SameSeq (s.putSym x) := h.of rfl

theorem State.SameSeq.bumpBy {r s : State} (h : r.SameSeq s) (p : Page) (o : Nat) (x : Option Nat) (n : Nat) : r.SameSeq (s.bumpBy p o x n) := h.of rfl

theorem State.SameSeq.bump {r s : State} (h : r.SameSeq s) (p : Page) (o : Nat) (x : Option Nat) : r.SameSeq (s.bump p o x) := h.of rfl

theorem State.SameSeq.raise {r s : State} (h : r.SameSeq s) (p : Page) (b : Nat) (x : Option Nat) : r.SameSeq (s.raise p b x) := h.of rfl

theorem State.SameSeq.emit {r s : State} (h : r.SameSeq s) (x : Sent) : r.SameSeq (s.emit x) := h.of rfl

theorem State.SameSeq.ruBump {r s : State} (h : r.SameSeq s) (k off w n : Nat) : r.SameSeq (s.ruBump k off w n) := h.of rfl

theorem State.SameSeq.closeSym {r s : State} (h : r.SameSeq s) (L : Layout) (x : ChunkSym) : r.SameSeq (s.closeSym L x) := by
  unfold State.closeSym
  refine .putSym (.foldl _ (fun t e ht => ?_) _ _ h) _
  dsimp only
  have k : r.SameSeq (if x.unwritten e false = 0 then t else t.ruBump (s.flowRu e.2.2) 0x98 9 (x.unwritten e false)) := .ite ht (ht.ruBump _ _ _ _)
  exact .ite k (k.ruBump _ _ _ _)

theorem State.SameSeq.closeIfDone {r s : State} (h : r.SameSeq s) (L : Layout) (x : ChunkSym) : r.SameSeq (s.closeIfDone L x) := by
  unfold State.closeIfDone
  exact .ite (h.closeSym L x) (h.putSym x)

theorem State.SameSeq.reject {r s : State} (h : r.SameSeq s) (u : UpAt) (L : Layout) (a : Alloc) (kind : Nat) (l : List Nat) :
    r.SameSeq (s.reject u L a kind l) := h.closeIfDone _ _

theorem State.SameSeq.claimOver {r s : State} (h : r.SameSeq s) (u : UpAt) : r.SameSeq (s.claimOver u) := by
  unfold State.claimOver
  dsimp only
  have k : r.SameSeq ((s.ruBump u.ru 0x88 8 1).raise pgTrn 9 (s.ruOwner u.ru)) := (h.ruBump _ _ _ _).raise _ _ _
  generalize (s.ruBump u.ru 0x88 8 1).raise pgTrn 9 (s.ruOwner u.ru) = w at k ⊢
  generalize (w.sdl.ref :: (w.flowSt u.flow).overruns).take 16 = l
  have k1 := k.modFlow u.flow (fun x => { x with overruns := l }) fun _ => rfl
  generalize (w.modFlow u.flow fun x => { x with overruns := l }) = v at k1 ⊢
  have k2 := k1.modFlow u.flow (fun x => { x with quarantined := true }) fun _ => rfl
  exact .ite (k2.raise _ _ _) k1

theorem State.SameSeq.writePrbs {r s : State} (h : r.SameSeq s) (u : UpAt) (L : Layout) (a : Alloc) (k : Nat) (sec : UpSection) :
    r.SameSeq (s.writePrbs u L a k sec) := by
  unfold State.writePrbs
  dsimp only
  have k1 : ∀ (c : Prop) [Decidable c] n, r.SameSeq (if c then s else s.ruBump u.ru 0x70 6 n) := fun _ _ n => .ite h (h.ruBump _ _ _ _)
  exact .closeIfDone (.ite (k1 _ _) ((k1 _ _).ruBump _ _ _ _)) _ _

theorem State.SameSeq.upSections {r : State} (u : UpAt) : ∀ (l : List UpSection) {s : State}, r.SameSeq s → r.SameSeq (s.upSections u l)
  | [], _, h => h
  | sec :: rest, s, h => by
    unfold State.upSections
    split
    · exact State.SameSeq.upSections u rest (h.bump _ _ _)
    · dsimp only
      refine .ite (State.SameSeq.upSections u rest ?_) (.ite ?_ (State.SameSeq.upSections u rest (State.SameSeq.writePrbs h _ _ _ _ _)))
      · exact .reject (h.ruBump _ _ _ _) _ _ _ _ _
      · exact .reject (State.SameSeq.claimOver h u) _ _ _ _ _

theorem State.SameSeq.noteShed {r s : State} (h : r.SameSeq s) (p : Nat) (on : Bool) : r.SameSeq (s.noteShed p on) := by
  unfold State.noteShed
  exact .ite (h.of rfl) (.ite h (h.of rfl))

theorem State.fnWrite_trn (s : State) (f a : Nat) (l : List (BitVec 8)) : (s.fnWrite f a l).trn = s.trn := by
  unfold State.fnWrite
  split <;> rfl

theorem State.SameSeq.shedOne {r s : State} (h : r.SameSeq s) (x : ShedMsg) : ∀ t, s.shedOne x = some t → r.SameSeq t := by
  unfold State.shedOne
  dsimp only
  intro t e
  by_cases h1 : shedArea s.gate.act x.fn = 0
  · rw [if_pos h1] at e
    cases e
  · rw [if_neg h1] at e
    generalize (if shedArea s.gate.act x.fn < (s.fn x.fn).shedOfs % shedArea s.gate.act x.fn + (64 + (x.bytes + 63) / 64 * 64) then
        shedArea s.gate.act x.fn - (s.fn x.fn).shedOfs % shedArea s.gate.act x.fn else 0) = k at e
    rw [Option.ite_none_left_eq_some] at e
    have e2 := Option.some.inj e.2
    rw [← e2]
    refine .bump (h.of ?_) _ _ _
    rw [State.fnWrite_trn]
    rfl

theorem State.SameSeq.shedDrain {r s : State} (h : r.SameSeq s) (l : List ShedMsg) : r.SameSeq (s.shedDrain l) := by
  unfold State.shedDrain
  dsimp only
  have key : ∀ (l : List ShedMsg) (a : State × List ShedMsg), r.SameSeq a.1 → r.SameSeq (l.foldl shedNext a).1 := by
    intro l
    induction l with
    | nil => exact fun _ k => k
    | cons x l ih =>
      intro a k
      refine ih _ ?_
      unfold shedNext
      split
      · dsimp only
        cases e : a.1.shedOne x with
        | none => exact k
        | some t => exact k.shedOne x t e
      · exact k
  exact .of (key l (s, []) h) rfl

theorem State.SameSeq.shedRead {r s : State} (h : r.SameSeq s) (f : Nat) (c : Option Nat) : r.SameSeq (s.shedRead f c) := by
  unfold State.shedRead
  split
  · exact h
  · exact h.of rfl

theorem State.SameSeq.shed {r s : State} (h : r.SameSeq s) (port : Nat) (u : UpAt) (m : UpMsg) (len : Nat) (full : Bool) (cons : Option Nat) :
    r.SameSeq (s.shed port u m len full cons) := by
  unfold State.shed
  dsimp only
  have k := h.noteShed port true
  refine .foldl _ (fun t sec ht => ?_) _ _ ?_
  · split
    · exact .ite (.reject ht _ _ _ _ _) ht
    · exact ht
  · exact .ite (k.bump _ _ _) (.shedDrain (.emit (k.shedRead _ _) _) _)

/-- A U-plane message of a flow leaves its sequence number, plus 1 (09 R232). -/
theorem State.uplane_seq (s : State) (port r len : Nat) (m : UpMsg) (full : Bool) (cons : Option Nat) (f : Nat)
    (h : s.flowOf? r m.eaxc m.down = some f) : ((s.uplane port r len m full cons).flowSt f).seq = m.seq % 256 + 1 := by
  unfold State.uplane
  rw [h]
  dsimp only
  have key : ∀ (a t : State), (State.modFlow a f fun z => { z with seq := m.seq % 256 + 1 }).SameSeq t → (t.flowSt f).seq = m.seq % 256 + 1 := by
    intro a t k
    rw [k f, State.flowSt_modFlow_self]
  apply key
  have k : ∀ a : State, a.SameSeq a := .refl
  refine .ite ((k _).bumpBy _ _ _ _) (.ite ((k _).ruBump _ _ _ _) (.ite ((k _).shed _ _ _ _ _ _) (.ite ((k _).bump _ _ _) (.ite ((k _).ruBump _ _ _ _)
    (.ite ((k _).ruBump _ _ _ _) (.ite (((k _).bump _ _ _).raise _ _ _) (.ite ((k _).ruBump _ _ _ _) (.upSections _ _ ((k _).bump _ _ _)))))))))

/-- A chunk-symbol is the one that was put there. -/
theorem State.chunkSym_putSym (s : State) (x : ChunkSym) : (s.putSym x).chunkSym x.grid x.chunk x.slotK x.sym = x := by
  unfold State.chunkSym State.putSym
  dsimp only
  have self : ∀ y : ChunkSym, y.same { grid := x.grid, chunk := x.chunk, slotK := x.slotK, sym := x.sym } = y.same x := fun _ => rfl
  have xx : x.same x = true := by unfold ChunkSym.same; simp
  simp only [self]
  have key : ∀ l : List ChunkSym, (l.any fun y => y.same x) = true →
      (l.map fun y => if y.same x then x else y).find? (fun y => y.same x) = some x := by
    intro l
    induction l with
    | nil => intro h; cases h
    | cons y l ih =>
      intro h
      rw [List.map_cons, List.find?_cons]
      by_cases hy : y.same x = true
      · rw [if_pos hy, xx]
      · rw [if_neg hy]
        have : y.same x = false := by simpa using hy
        rw [this]
        refine ih ?_
        rw [List.any_cons, this] at h
        simpa using h
  split
  · rename_i h
    rw [key _ h]
    rfl
  · rename_i h
    rw [List.find?_append]
    have : s.trn.syms.find? (fun y => y.same x) = none := by
      rw [List.find?_eq_none]
      intro y hy k
      exact h (List.any_eq_true.mpr ⟨y, hy, k⟩)
    rw [this]
    simp [xx]

/-- A chunk-symbol that closes is closed now, with nothing left in the assembly memory (09 R230). -/
theorem State.closeSym_of (s : State) (L : Layout) (x : ChunkSym) :
    (s.closeSym L x).chunkSym x.grid x.chunk x.slotK x.sym =
      { x with closedAt := some s.gridNow, bytes := 0, openedAt := some (x.openedAt.getD s.gridNow) } :=
  State.chunkSym_putSym _ _

/-- Whether it closes or not, a chunk-symbol keeps when it opened. -/
theorem State.closeIfDone_open (s : State) (L : Layout) (x : ChunkSym) (n : Int) (h : x.openedAt = some n) :
    ((s.closeIfDone L x).chunkSym x.grid x.chunk x.slotK x.sym).openedAt = some n := by
  unfold State.closeIfDone
  split
  · rw [State.closeSym_of, h]
    rfl
  · rw [State.chunkSym_putSym, h]

end Sys2Proof.Machine
end

