-- ==== Sys2Proof/WellFormed.lean ====
section
/-!
DEFINITION. Which commands are well formed: every operand within the width or the count that the spec gives it.
-/

namespace Sys2Proof

/-- A row access that a client's slot carries (06 R143): the slot exists and carries its direction. -/
def rowAccessOk (st : Store) (x : RowAccess) : Bool :=
  decide (x.entry < 32) &&
  (match x.write with
   | none => true
   | some (d, k) => decide (d < 2 ^ 512 ∧ k < 2 ^ 64)) &&
  (match st, x.slot with
   | .a, 3 => x.write.isSome
   | .a, 4 => true
   | .a, 6 => x.write.isSome
   | .a, k => decide (k < 6) && x.write.isNone
   | .w, 3 => x.write.isSome
   | .w, k => decide (k < 3) && x.write.isNone
   | .p, 1 => x.write.isSome
   | .p, 3 => x.write.isSome
   | .p, k => decide (k < 3) && x.write.isNone)

/-- Whether every operand of a command is one that the spec's command can carry. -/
def Instr.wf : Instr → Bool
  | .registerWrite _ off _ be => decide (be < 16 ∧ off < 0x4000000 ∧ off % 4 = 0)
  | .stagedWrite _ off _ => decide (off < 0x4000000 ∧ off % 4 = 0)
  | .revert _ page => decide (page < 0x4000)
  | .snapLatch _ page => decide (page < 0x4000)
  | .snapClear _ page => decide (page < 0x4000)
  | .evtClearWrite _ page _ => decide (page < 0x4000)
  | .evtMaskWrite _ page _ => decide (page < 0x4000)
  | .selectionAdd _ page => decide (page < 0x4000)
  | .selectionRemove _ page => decide (page < 0x4000)
  | .selectionClear _ => true
  | .selectionQuery _ index => decide (index < 256)
  | .go _ => true
  | .abort _ => true
  | .checksEnd _ _ => true
  | .commitApply _ => true
  | .faultCommitRetry _ => true
  | .hookFire _ => true
  | .paceWindowEnd _ count _ => decide (count < 2 ^ 11)
  | .voltageLoopEval _ _ => true
  | .vrTelemetryPoll _ _ iout _ _ => decide (iout < 2 ^ 9)
  | .vrRetry _ _ => true
  | .pmbAlert _ status _ => decide (status < 2 ^ 16)
  | .pass _ _ _ desc flip _ => decide (desc < 2 ^ 128 ∧ flip < 2 ^ 13824)
  | .tileLoadComplete _ flip _ => decide (flip < 2 ^ 13824)
  | .rowVerdict _ _ _ _ => true
  | .westQueueEmpty _ left _ => decide (left ≤ 2048)
  | .replayRequest _ _ => true
  | .replayComplete _ _ _ flips _ => flips.all fun x => decide (x < 2 ^ 13824)
  | .localiseStart _ => true
  | .localised _ _ _ _ flips => flips.all fun x => decide (x < 2 ^ 13824)
  | .spareMapEffect _ flips => flips.all fun x => decide (x < 2 ^ 13824)
  | .spareMapTimeout _ flips _ => flips.all fun x => decide (x < 2 ^ 13824)
  | .chain _ _ step _ desc name bank act _ _ => decide (step < 2 ^ 32 ∧ desc < 2 ^ 512 ∧ name < 2 ^ 32 ∧ bank < 2 ^ 32 ∧ act < 2 ^ 32)
  | .chainEnd _ _ => true
  | .retryRequest _ _ _ => true
  | .retryPassEnd _ _ => true
  | .cmac _ _ _ => true
  | .cmacc _ _ _ => true
  | .cmsu _ _ _ => true
  | .cmul _ _ _ => true
  | .aclr _ => true
  | .rdacc _ _ k => decide (-8 ≤ k ∧ k ≤ 15)
  | .ldx _ _ _ => true
  | .ldy _ _ _ => true
  | .stx _ _ _ => true
  | .sty _ _ _ => true
  | .add _ _ _ _ _ => true
  | .sub _ _ _ _ _ => true
  | .abs _ _ _ _ => true
  | .neg _ _ _ _ => true
  | .min _ _ _ _ _ => true
  | .max _ _ _ _ _ => true
  | .cmp _ _ _ _ _ => true
  | .sel _ _ _ _ => true
  | .shl _ _ _ _ _ => true
  | .shr _ _ _ _ _ => true
  | .conj _ _ _ => true
  | .swapri _ _ _ => true
  | .clrsat _ => true
  | .nrm _ _ _ => true
  | .rcps _ _ _ => true
  | .rsqs _ _ _ => true
  | .loop _ count len => decide (1 ≤ count ∧ count ≤ 65535 ∧ 1 ≤ len ∧ len ≤ 64)
  | .br _ _ target => decide (target < 16384)
  | .jmp _ target => decide (target < 16384)
  | .call _ target => decide (target < 16384)
  | .ret _ => true
  | .gld _ _ _ _ => true
  | .gst _ _ _ _ => true
  | .waitg _ => true
  | .waitev _ => true
  | .sig _ _ => true
  | .ppt _ => true
  | .rte _ => true
  | .halt _ => true
  | .bankSwitch _ => true
  | .gathererAccess _ _ races => races.all fun r => decide (r.2 < 4096)
  | .storeTurn _ store new strikes => new.all (rowAccessOk store) && strikes.all (fun k => decide (k.xor < 2 ^ 144))
  | .stoRelease v _ _ => decide (∀ k, v ≠ .vf k)
  | .stoRepairQ _ _ _ => true
  | .furrowStart irg f _ _ desc _ => decide (f < (if irg.val = 8 then 64 else 24) ∧ desc < 2 ^ 512)
  | .irrigatorIssue _ _ _ _ _ => true
  | .requestCompletion _ _ _ _ _ _ _ _ => true
  | .requestTimeout _ _ _ => true
  | .pageResponse irg f _ _ => decide (f < (if irg.val = 8 then 64 else 24))
  | .atsInvalidation _ _ => true
  | .prologueLate _ _ _ => true
  | .bufferWaitCycle _ _ => true
  | .pfcRefresh _ _ => true
  | .dropRest _ _ _ => true
  | .irgFrwQ _ _ _ => true
  | .refclkHandover hz _ => decide (hz < 2 ^ 32)
  | .refLost _ => true
  | .refReturn hz _ => decide (hz < 2 ^ 32)
  | .sampleIn _ _ _ _ => true
  | .servoSampleTimeout _ _ => true
  | .parentLost _ _ => true
  | .holdExpired _ _ => true
  | .switchDone _ => true
  | .calibrationDone _ => true
  | .gridBoundary _ _ => true
  | .ppsOutEdge _ => true
  | .ppsInEdge _ => true
  | .synceLockLoss _ => true
  | .frameReceive _ _ _ _ _ _ => true
  | .tdMeasTimer _ _ _ _ => true
  | .cplaneMessage _ _ => true
  | .cpHoldRelease _ => true
  | .layoutFreeze _ _ => true
  | .chunkSymbolOpen _ _ _ _ _ => true
  | .chunkSymbolClose _ _ _ _ _ => true
  | .tileUnitOffer _ _ _ _ _ => true
  | .tileStale _ _ _ _ _ _ => true
  | .feedbackRecord _ word _ => decide (word < 2 ^ 128)
  | .ncoUpdate _ => true
  | .trnUnquar _ _ _ => true
  | .trnRuQ _ _ => true
  | .dlTileReceive _ rows _ => rows.all fun r => decide (r < 2 ^ 8192)
  | .txWindowOpen _ _ _ _ _ _ => true
  | .txLate _ _ _ _ _ => true
  | .linkChange _ _ => true
  | .portRetrainDone _ => true
  | .laneErrInterval _ _ _ _ _ _ => true
  | .thresherJob _ _ header blocks _ => decide (header < 2 ^ 512) && blocks.all fun b => decide (b < 2 ^ 128)
  | .codeBlockDone _ _ _ => true
  | .polarDecodeDone _ _ _ => true
  | .encodeDone _ _ _ => true
  | .weightSetLoad _ _ w => decide (w < 2 ^ 2048)
  | .descriptorFetch _ _ hdr _ _ => hdr.all fun h => decide (h < 2 ^ 512)
  | .descriptorPoll _ hdr _ _ => hdr.all fun h => decide (h < 2 ^ 512)
  | .workListBuild _ n hash _ => decide (n < 2 ^ 32 ∧ hash < 2 ^ 128)
  | .stepBoundary _ n _ => decide (n < 2 ^ 32)
  | .stepComplete _ _ inputs _ _ _ => inputs.all fun e => decide (0 < e.1 ∧ e.1 < 2 ^ 16)
  | .harvestWrite _ => true
  | .consPoll _ _ => true
  | .taskEnd _ _ _ _ => true
  | .taskOp _ _ _ _ _ _ _ => true
  | .taskWait _ _ _ _ _ => true
  | .taskSignal _ _ _ _ => true
  | .release _ _ _ _ => true
  | .taskBoundary _ _ _ _ => true
  | .taskPpt _ _ _ _ _ => true
  | .taskChkpt _ _ _ _ => true
  | .taskFeeds _ _ _ _ => true
  | .checkpoint _ _ k _ => decide (k < 4096)
  | .rerunRequest _ _ _ => true
  | .fallbackRecord _ _ _ _ _ _ => true
  | .libraryAdd _ _ _ => true
  | .libraryRemove _ _ _ => true
  | .contextRestart _ _ => true
  | .contextSwapOut _ _ => true
  | .preemptionComplete _ _ _ => true
  | .swapIn _ _ _ _ => true
  | .rmsSlotQ _ _ => true
  | .rmsAcctQ _ _ => true
  | .trpSlotQ _ _ => true
  | .rosterWrite _ _ => true
  | .rosterClear _ _ => true
  | .contextTeardown _ _ => true
  | .teardownComplete _ _ => true
  | .evalRecord _ _ _ _ scored flags _ => decide (scored < 2 ^ 13 ∧ flags < 2 ^ 16)
  | .rmsGhEvalQ _ _ => true
  | .wsetHash _ _ => true
  | .wsetReport _ _ => true
  | .wsetDone => true
  | .captureStart _ steps => decide (0 < steps ∧ steps < 2 ^ 12)
  | .captureStop _ => true
  | .lockstepMark _ _ => true
  | .lockstepEdge _ _ _ => true
  | .ringFrameReceive _ _ seq ack _ _ _ _ _ => decide (seq < 4096 ∧ ack < 4096)
  | .ringAckTimeout _ _ => true
  | .ringRead h _ => decide (h < 2 ^ 256 ∧ fieldOf h 0 4 = 1)
  | .ringWrite h _ => decide (h < 2 ^ 256 ∧ fieldOf h 0 4 = 2)
  | .ringResp _ h _ _ => decide (h < 2 ^ 256 ∧ fieldOf h 0 4 = 3)
  | .notResidentResend _ _ _ => true
  | .ringTrainDone _ _ size rate => decide (size < 8 ∧ rate < 3)
  | .ringLinkLoss _ => true
  | .laneSwap _ _ => true
  | .routeAway v _ => !(match v with | .vf _ => true | _ => false)
  | .resume v _ => !(match v with | .vf _ => true | _ => false)
  | .routeAwayDone _ => true
  | .keyLoad _ _ host => decide (host.length = 128)
  | .keyErase _ _ => true
  | .keyQuery _ _ => true
  | .disable v _ _ => decide (∀ k, v ≠ .vf k)
  | .releaseHold v _ _ => decide (∀ k, v ≠ .vf k)
  | .partReleased _ _ => true
  | .disableSlotExpiry _ _ => true
  | .partDisabled _ _ => true
  | .vfFlr _ _ => true
  | .pfFlr _ => true
  | .vfEnableClear _ => true
  | .getVersion _ _ _ => true
  | .getCapabilities _ _ _ => true
  | .negotiateAlgorithms _ _ _ => true
  | .getDigests _ _ _ => true
  | .getCertificate _ _ _ => true
  | .challenge _ _ _ => true
  | .getMeasurements _ _ _ => true
  | .keyExchange _ _ _ => true
  | .finish _ _ _ _ => true
  | .keyUpdate _ _ _ _ => true
  | .heartbeat _ _ _ => true
  | .endSession _ _ _ => true
  | .pqGetCert _ _ _ => true
  | .pqSign _ _ _ => true
  | .setPwk _ _ _ _ key => decide (key.length = 32)
  | .getDebugLog _ _ _ => true
  | .keyProg _ _ _ _ _ _ _ key => decide (key.length = 32)
  | .kSetGo _ _ _ _ _ _ _ => true
  | .kSetStop _ _ _ _ _ _ _ => true
  | .ideErr _ => true
  | .tapLeaveReset _ => true
  | .tapReset _ => true
  | .idcode => true
  | .bypass => true
  | .samplePreload _ _ => true
  | .extest _ _ => true
  | .clamp => true
  | .highz => true
  | .coreHalt _ => true
  | .coreResume _ => true
  | .faultRecord r _ => decide (r.all (fun x => x.kind < 11 ∧ x.action < 9 ∧ x.cls < 11 ∧ x.plot < 8 ∧ x.index < 256))
  | .repairApply _ _ => true
  | .plotPrune _ _ _ => true
  | .agingMarginLow _ _ _ _ => true
  | .handshakeTimeout _ _ _ _ _ _ => true
  | .taskTimeout _ _ _ _ _ => true
  | .heartbeatTimeout _ _ => true
  | .partitionTimeout _ _ => true
  | .deviceRecovery _ _ _ => true
  | .gkWatchdogExpiry _ => true
  | .fltUnitQ v _ => decide (∀ k, v ≠ .vf k)
  | .copyStart _ _ _ => true
  | .copyDone _ _ _ => true
  | .hostWriteCreditTimeout irg f _ => decide (f < (if irg.val = 8 then 64 else 24))
  | .configRequest => true
  | .dramRead _ addr len strikes => decide (addr < 2 ^ 48 ∧ 0 < len ∧ len ≤ 65536) && strikes.all (fun k => decide (k.xor < 2 ^ 144))
  | .dramWrite _ addr data strikes => decide (addr < 2 ^ 48 ∧ 0 < data.length ∧ data.length ≤ 65536) && strikes.all (fun k => decide (k.xor < 2 ^ 144))
  | .checkBurstWriteback _ _ _ => true
  | .refresh _ _ _ => true
  | .mr4Poll _ _ _ => true
  | .wckTracking _ => true
  | .dramPatrol strikes => strikes.all (fun k => decide (k.xor < 2 ^ 144))
  | .zeroingPassEnd => true
  | .remapDone => true
  | .ddrChQ v _ => decide (∀ k, v ≠ .vf k)
  | .porstAssert => true
  | .porstRelease _ _ => true
  | .perstAssert _ => true
  | .perstRelease _ => true
  | .railFault _ _ _ => true
  | .startStepDone r _ _ => decide (r.train.length ≤ 8 ∧ r.out < 256 ∧ r.refHz < 2 ^ 32 ∧ r.failing.all (fun x => x.cls < 6 ∧ x.plot < 8 ∧ x.index < 256))
  | .thermalSample temps volts _ => decide (temps.length = 24 ∧ volts.length = 10) && temps.all (fun x => decide (-2048 ≤ x ∧ x ≤ 2047))
  | .powerWindow _ _ _ => true
  | .thermalTrip _ temp _ _ => decide (-2048 ≤ temp ∧ temp ≤ 2047)
  | .domDone _ => true
  | .plotReset v _ _ => decide (v = .pf ∨ v = .gk)
  | .pwrTempQ _ _ => true
  | .getInfo v _ _ => decide (∀ k, v ≠ .vf k)
  | .readSensors v _ _ => decide (∀ k, v ≠ .vf k)
  | .readAlmanac v _ _ => decide (∀ k, v ≠ .vf k)
  | .readNote v _ _ => decide (∀ k, v ≠ .vf k)
  | .readFaults v _ _ => decide (∀ k, v ≠ .vf k)
  | .requestUpdate _ _ => true
  | .passComponentTable _ _ _ => true
  | .updateComponent _ _ _ _ => true
  | .firmwareData _ => true
  | .verifyComplete _ => true
  | .activateFirmware _ _ _ _ _ => true
  | .cancelUpdate _ _ => true
  | .setEventReceiver _ _ _ => true
  | .platformEventResend _ _ => true
  | .getSensorReading _ _ _ => true
  | .setEndpointId _ _ => true
  | .consoleStatus _ => true
  | .consoleLogin _ _ => true
  | .consoleDebug _ _ => true
  | .consoleLogout _ _ => true
  | .contextBlocked _ _ => true
  | .delayReqInterval _ _ _ _ => true
  | .msixUnmask _ vector => decide (vector < 2048)
  | .entdaa _ => true
  | .platformEventAck _ => true

end Sys2Proof
end

