-- ==== Sys2Proof/Tests/Slice0.lean ====
section
/-!
SUPPORT. Tests: what well-formedness refuses, single steps on small states, and for each statement with hypotheses a
state and operands that meet them.
-/

set_option Elab.async false

namespace Sys2Proof.Tests.Slice0

open Sys2Proof Sys2Proof.Machine

/-! ### Well-formedness refuses -/

theorem test_wf_registerWrite : ∀ c ∈ ([.registerWrite .pf 4 0 16,
    .registerWrite .pf 0x4000000 0 1,
    .registerWrite .pf 6 0 1] : List Instr), c.wf = false := by decide +kernel

theorem test_wf_stagedWrite : ∀ c ∈ ([.stagedWrite .pf 0x4000000 0,
    .stagedWrite .pf 2 0] : List Instr), c.wf = false := by decide +kernel

theorem test_wf_pages : ∀ c ∈ ([.revert .pf 0x4000,
    .snapLatch .pf 0x4000,
    .snapClear .pf 0x4000,
    .evtClearWrite .pf 0x4000 0,
    .evtMaskWrite .pf 0x4000 0,
    .selectionAdd .pf 0x4000,
    .selectionRemove .pf 0x4000,
    .selectionQuery .pf 256] : List Instr), c.wf = false := by decide +kernel

theorem test_wf_power : ∀ c ∈ ([.paceWindowEnd 0 (2 ^ 11) 0,
    .vrTelemetryPoll true 0 (2 ^ 9) 0 0,
    .pmbAlert true (2 ^ 16) 0,
    .thermalSample [] [] 0,
    .thermalSample (List.replicate 24 2048) (List.replicate 10 0) 0,
    .thermalTrip 0 2048 true 0,
    .plotReset (.vf 0) 0 0] : List Instr), c.wf = false := by decide +kernel

theorem test_wf_descriptors : ∀ c ∈ ([.pass 0 0 0 (2 ^ 128) 0 0,
    .chain 0 0 (2 ^ 32) 0 0 0 0 0 [] 0,
    .chain 0 0 0 0 (2 ^ 512) 0 0 0 [] 0,
    .chain 0 0 0 0 0 (2 ^ 32) 0 0 [] 0,
    .chain 0 0 0 0 0 0 (2 ^ 32) 0 [] 0,
    .chain 0 0 0 0 0 0 0 (2 ^ 32) [] 0,
    .westQueueEmpty 0 2049 0,
    .thresherJob 0 false (2 ^ 512) [] [],
    .thresherJob 0 false 0 [2 ^ 128] [],
    .weightSetLoad 0 0 (2 ^ 2048),
    .descriptorFetch 0 0 (some (2 ^ 512)) none 0,
    .descriptorPoll 0 (some (2 ^ 512)) none 0] : List Instr), c.wf = false := by decide +kernel

theorem test_wf_sprouts : ∀ c ∈ ([.rdacc ⟨0, 0, 0⟩ (.g 0) 16,
    .rdacc ⟨0, 0, 0⟩ (.g 0) (-9),
    .loop ⟨0, 0, 0⟩ 0 1,
    .loop ⟨0, 0, 0⟩ 65536 1,
    .loop ⟨0, 0, 0⟩ 1 65,
    .loop ⟨0, 0, 0⟩ 1 0,
    .br ⟨0, 0, 0⟩ true 16384,
    .jmp ⟨0, 0, 0⟩ 16384,
    .call ⟨0, 0, 0⟩ 16384] : List Instr), c.wf = false := by decide +kernel

theorem test_wf_storeTurn : ∀ c ∈ ([.storeTurn 0 .a [⟨0, 32, 0, none⟩] [],
    .storeTurn 0 .a [⟨0, 0, 0, some (2 ^ 512, 0)⟩] [],
    .storeTurn 0 .a [⟨3, 0, 0, none⟩] [],
    .storeTurn 0 .a [⟨5, 0, 0, some (0, 0)⟩] [],
    .storeTurn 0 .w [⟨4, 0, 0, none⟩] [],
    .storeTurn 0 .p [⟨1, 0, 0, none⟩] [],
    .storeTurn 0 .a [] [⟨0, 2 ^ 144⟩]] : List Instr), c.wf = false := by decide +kernel

theorem test_wf_irrigators : ∀ c ∈ ([.furrowStart 0 24 0 0 0 false,
    .furrowStart 8 64 0 0 0 false,
    .furrowStart 0 0 0 0 (2 ^ 512) false,
    .pageResponse 0 24 true 0,
    .hostWriteCreditTimeout 8 64 0,
    .dlTileReceive 0 [2 ^ 8192] 0,
    .feedbackRecord 0 (2 ^ 128) 0] : List Instr), c.wf = false := by decide +kernel

theorem test_wf_sundial : ∀ c ∈ ([.refclkHandover (2 ^ 32) 0,
    .refReturn (2 ^ 32) 0] : List Instr), c.wf = false := by decide +kernel

theorem test_wf_ringmaster : ∀ c ∈ ([.workListBuild 0 (2 ^ 32) 0 0,
    .workListBuild 0 0 (2 ^ 128) 0,
    .stepBoundary 0 (2 ^ 32) 0,
    .stepComplete 0 0 [(0, [])] [] [] 0,
    .checkpoint 0 0 4096 0,
    .evalRecord 0 0 0 0 (2 ^ 13) 0 0,
    .evalRecord 0 0 0 0 0 (2 ^ 16) 0,
    .captureStart .pf 0,
    .captureStart .pf 4096] : List Instr), c.wf = false := by decide +kernel

theorem test_wf_ring : ∀ c ∈ ([.ringFrameReceive true true 4096 0 false [] 0 0 0,
    .ringFrameReceive true true 0 4096 false [] 0 0 0,
    .ringRead 2 [],
    .ringRead (2 ^ 256 + 1) [],
    .ringWrite 1 [],
    .ringResp true 1 [] 0,
    .ringTrainDone (.own true) 0 8 0,
    .ringTrainDone (.own true) 0 0 3,
    .routeAway (.vf 0) true,
    .resume (.vf 0) true] : List Instr), c.wf = false := by decide +kernel

theorem test_wf_security : ∀ c ∈ ([.keyLoad .pf 0 [],
    .disable (.vf 0) 0 0,
    .releaseHold (.vf 0) 0 0,
    .setPwk 0 none [] 0 [],
    .keyProg 0 none [] 0 false 0 false []] : List Instr), c.wf = false := by decide +kernel

theorem test_wf_views : ∀ c ∈ ([.stoRelease (.vf 0) 0 0,
    .fltUnitQ (.vf 0) 0,
    .ddrChQ (.vf 0) 0,
    .getInfo (.vf 0) 0 0,
    .readSensors (.vf 0) 0 0,
    .readAlmanac (.vf 0) 0 0,
    .readNote (.vf 0) 0 0,
    .readFaults (.vf 0) 0 0] : List Instr), c.wf = false := by decide +kernel

theorem test_wf_memory : ∀ c ∈ ([.dramRead none (2 ^ 48) 1 [],
    .dramRead none 0 0 [],
    .dramRead none 0 65537 [],
    .dramRead none 0 1 [⟨0, 2 ^ 144⟩],
    .dramWrite none (2 ^ 48) [0] [],
    .dramWrite none 0 [] [],
    .dramPatrol [⟨0, 2 ^ 144⟩]] : List Instr), c.wf = false := by decide +kernel

theorem test_wf_others : ∀ c ∈ ([.faultRecord (some { kind := 11, action := 0, cls := 0 }) 0,
    .faultRecord (some { kind := 0, action := 9, cls := 0 }) 0,
    .faultRecord (some { kind := 0, action := 0, cls := 11 }) 0,
    .startStepDone { ok := true, out := 256 } true 0,
    .startStepDone { ok := true, refHz := 2 ^ 32 } true 0,
    .startStepDone { ok := true, failing := [{ kind := 0, action := 0, cls := 6 }] } true 0,
    .msixUnmask 0 2048] : List Instr), c.wf = false := by decide +kernel

/-! ### Single steps -/

theorem test_decode_none : decodeTableWord 32 0x12345678 = none ∧ decodeTableWord 0 0 = none := by decide

theorem test_withFetchWord : State.reset.withFetchWord 32 1 = State.reset := by decide

theorem test_reset_runs : State.reset.stopped = false ∧ State.reset.cold.stopped = true := by decide

/-- The column of data symbol 0: a = 0, b = 2, f = δ·b² = 8·4 = 0x6 (x⁵ = x² + x, hand calculation from R385). -/
theorem test_column : eccColumn 0 = [1, 6, 0, 2] := by decide

/-- R407: in an 8-bit field 250 precedes 4, and a value half the range ahead is still preceded. -/
theorem test_precedes : precedes 8 250 4 = true ∧ precedes 8 4 250 = false ∧ precedes 8 0 128 = true := by decide

/-! ### Witnesses: the hypotheses of each statement can be met -/

theorem witness_StepRunsFrontCommand :
    ({ State.reset with pending := [.idcode] } : State).pending = .idcode :: [] := by decide

theorem witness_StepIdlesOnEmptyQueue :
    State.reset.pending = [] := by decide

theorem witness_EveryStepTakesOneCommand :
    ({ State.reset with pending := [.idcode, .bypass] } : State).pending = .idcode :: [.bypass] := by decide

theorem witness_StepKeepsMemoryCanonical :
    State.reset.memOk = true ∧ ∃ t, step { State.reset with pending := [.zeroingPassEnd] } = .next t := ⟨by decide, _, rfl⟩

theorem witness_CommandsChangeOnlyTheirParts :
    (∃ t, exec .zeroingPassEnd State.reset = .next t) ∧ Area.mem ∉ mayChange .zeroingPassEnd := ⟨⟨_, rfl⟩, by decide⟩

theorem witness_StoppedDeviceIgnoresCommands :
    State.reset.cold.stopped = true ∧ worksStopped .zeroingPassEnd = false := by decide

theorem witness_TripEndsOnlyAtPowerOnReset :
    ({ State.reset with tripped := true } : State).tripped = true ∧ (∃ t, exec .idcode { State.reset with tripped := true } = .next t) ∧
    Instr.idcode ≠ .porstAssert ∧ ∀ b x y, Instr.idcode ≠ .railFault b x y := ⟨rfl, ⟨_, rfl⟩, by decide, fun _ _ _ h => by cases h⟩

theorem witness_ReferenceTimeNeverGoesBack :
    (∃ t, exec (.holdExpired false 5) State.reset = .next t) ∧ Instr.holdExpired false 5 ≠ .porstAssert ∧
    ∀ b x y, Instr.holdExpired false 5 ≠ .railFault b x y := ⟨⟨_, rfl⟩, by decide, fun _ _ _ h => by cases h⟩

theorem witness_SerialComparison :
    1 ≤ 8 ∧ 250 < 2 ^ 8 ∧ 4 < 2 ^ 8 := by decide

theorem witness_ComparisonsOfThePipe :
    fpNum 0x7FC00001 = .nan ∧ 0x7FC00001 < 2 ^ 32 := by decide

theorem witness_CanonicalNaN :
    5 ∈ [5, 6, 7, 8] ∧ fieldOf 0x7D (fFracBits 5) (fExpBits 5) = 2 ^ fExpBits 5 - 1 ∧ fieldOf 0x7D 0 (fFracBits 5) ≠ 0 ∧ fieldOf 0xFF 0 7 = 0x7F := by decide

theorem witness_PartitionsAtPowerOnReset :
    ∃ t, exec .porstAssert State.reset = .next t := ⟨_, rfl⟩

theorem witness_DramReadsAndWritesComplete :
    ∃ s : State, s.stopped = false ∧ s.ddr.zeroing = false ∧ (s.strike []).dramOk none dramBase 16 = true ∧ sbaOf s.gate.act (dramBase - dramBase) = none ∧
    (∀ cw ∈ cwsOf dramBase 16, eccJudge ((s.strike []).xorOf cw) ≠ .uncorrectable) ∧ (s.strike []).dramOk none 0 16 = false := ⟨{ ddr := { mapped := 1 } }, by decide +kernel⟩

theorem witness_DramUpkeepCompletes :
    ∃ s : State, s.stopped = false ∧ s.flag pgDdr 0x100 8 = true ∧ s.ddr.zeroing = false ∧ s.level < 3 ∧ s.ddr.mapped ≠ 0 ∧ s.ddr.copying = some (1, 2) ∧
    s.inFlr .pf = false ∧ isVf .pf = false ∧ eccJudge ((s.strike []).xorOf (dramBase / 16 + s.ddr.patrol)) ≠ .uncorrectable := ⟨{ ddr := { mapped := 1, copying := some (1, 2) }, gate := { act := [(regAddr pgDdr 0x100, 0x100)] } }, by decide +kernel⟩

theorem witness_RegisterWritesComplete :
    State.reset.opens .pf 0 ⟨.sys, 0⟩ = true ∧ readOnlyAt ⟨.sys, 0⟩ 0x10C = false ∧ State.reset.takes .pf = true := by decide

theorem witness_SnapshotsAndEventsComplete :
    State.reset.opens .pf 0 ⟨.sys, 0⟩ = true ∧ 0 < tableSize 0 ∧ SMap.get flagUnlisted State.reset.hub.mute 0 = false := by decide

theorem witness_CommitSelectionAndGoComplete :
    State.reset.takes .pf = true ∧ (State.reset.chan (chanOf .pf)).flight = [] ∧ (viewPage .pf 0).isSome = true := by decide

theorem witness_CommitSelectionAndGoComplete_2 :
    ({ State.reset with gate := { chans := [(0, { flight := [{}] })] } } : State).takes .pf = true ∧
    (({ State.reset with gate := { chans := [(0, { flight := [{}] })] } } : State).chan (chanOf .pf)).flight = {} :: [] := by decide

theorem witness_PowerTelemetryCompletes :
    State.reset.stopped = false ∧ State.reset.hub.gkHalted = false ∧ State.reset.takes .pf = true ∧
    ({ State.reset with pwr := { dom := [(4, 1)] } } : State).monitorOn 0 = true := by decide

theorem witness_PowerTelemetryCompletes_2 :
    ({ State.reset with pwr := { loop := true, vrOk := true } } : State).loopRuns = true ∧
    (({ State.reset with pwr := { loop := true, vrOk := true, vcore := 600 } } : State).pwr.vcore <
      ({ State.reset with pwr := { loop := true, vrOk := true, vcore := 600 } } : State).vFloor) := by decide

theorem witness_PowerEventsComplete :
    State.reset.stopped = false ∧ ({ State.reset with pwr := { switching := [(0, 1)] } } : State).pwr.switching ≠ [] ∧
    State.reset.takes .pf = true ∧ State.reset.pruned 0 = false ∧ ∀ e, e < 32 → (State.reset.win 0 e).st ≠ .active := ⟨by decide, by decide, by decide, by decide, by decide⟩

theorem witness_PowerEventsComplete_2 :
    (4 * thermalAt 5 : Int) ≤ 500 := by unfold thermalAt; split <;> decide

theorem witness_CommitChecksAndRepairsComplete :
    State.reset.stopped = false ∧ (({ State.reset with gate := { chans := [(0, { flight := [{}] })] } } : State).advance 0).chan 0 ≠ {} ∧
    sortCommits ((State.reset.advance 5).accepted.filter fun y => y.2.due && !y.2.repair) = [] := by decide

theorem witness_CommitChecksAndRepairsComplete_2 :
    ({ State.reset with flt := { retryAt := some 3 } } : State).flt.retryAt = some 3 ∧ 3 ≤ max State.reset.sdl.ref 5 := by decide

theorem witness_FaultBlockCompletes :
    State.reset.known { kind := 6, action := 8, cls := 6, perm := true } = false ∧ State.reset.pruned 0 = false ∧ State.reset.flt.queue = [] ∧
    ({ State.reset with flt := { units := [(unitKey 6 0 0, { permanent := true })] } } : State).known { kind := 6, action := 8, cls := 6 } = true := by decide

theorem witness_FaultBlockCompletes_2 :
    ({ State.reset with flt := { queue := [{ cls := 10, plot := 1, kind := 1, prune := true, retiring := true }] } } : State).plotUsers 1 = [] ∧
    State.reset.flt.floor < 850 ∧ (0 : Nat) < State.reset.cfg pgFlt 0x100 10 8 ∧ State.reset.flt.floorAt = none := by decide

theorem witness_FaultBlockCompletes_3 :
    ((({ State.reset with sec := { parts := [(1, { st := .closing, since := 0 })] } } : State).advance (2 * 10 ^ 8 * nsRef)).partStuck 1 = some 0) ∧
    0 + ({ State.reset with sec := { parts := [(1, { st := .closing, since := 0 })] } } : State).partLimit 1 < max State.reset.sdl.ref (2 * 10 ^ 8 * nsRef) := by decide +kernel

theorem witness_SproutArithmeticCompletes :
    State.reset.stopped = false ∧ (({ State.reset with beds := [(17, { sprouts := [(3, { st := .bank0 })] })] } : State).sprout ⟨1, 0, 3⟩).issues = true := by decide

theorem witness_SproutSelectAndSeedsComplete :
    State.reset.stopped = false ∧ (({ State.reset with beds := [(17, { sprouts := [(3, { st := .bank0 })] })] } : State).sprout ⟨1, 0, 3⟩).issues = true := by decide

theorem witness_SproutMultiplyAccumulateCompletes :
    State.reset.stopped = false ∧ (({ State.reset with beds := [(17, { sprouts := [(3, { st := .bank0 })] })] } : State).sprout ⟨1, 0, 3⟩).issues = true := by decide

theorem witness_SproutMultiplyAccumulateCompletes_2 :
    ∀ cw ∈ wordCws ⟨1, 0, 3⟩ ((({ State.reset with beds := [(17, { sprouts := [(3, { st := .bank0 })] })] } : State).sprout ⟨1, 0, 3⟩).get (.a 2)), eccJudge (({ State.reset with beds := [(17, { sprouts := [(3, { st := .bank0 })] })] } : State).xorOf cw) ≠ .uncorrectable := by decide

theorem witness_SproutMemoryAccessCompletes :
    State.reset.stopped = false ∧ (({ State.reset with beds := [(17, { sprouts := [(3, { st := .bank0 })] })] } : State).sprout ⟨1, 0, 3⟩).issues = true := by decide

theorem witness_SproutMemoryAccessCompletes_2 :
    ∀ cw ∈ wordCws ⟨1, 0, 3⟩ (0x2000 + (({ State.reset with beds := [(17, { sprouts := [(3, { st := .bank0 })] })] } : State).sprout ⟨1, 0, 3⟩).get (.a 2) % 0x2000), eccJudge (({ State.reset with beds := [(17, { sprouts := [(3, { st := .bank0 })] })] } : State).xorOf cw) ≠ .uncorrectable := by decide

theorem witness_SproutMemoryAccessCompletes_3 :
    (({ State.reset with beds := [(17, { sprouts := [(3, { st := .bank0 })] })] } : State).sprout ⟨1, 0, 3⟩).gathers < 4 ∧ (({ State.reset with beds := [(17, { sprouts := [(3, { st := .bank0 })] })] } : State).bed 1 0).queue.length < 32 ∧ (({ State.reset with beds := [(17, { sprouts := [(3, { st := .bank0 })] })] } : State).sprout ⟨1, 0, 3⟩).get (.g 2) % 2 ^ 3 = 0 := by decide

theorem witness_SproutFlowCompletes :
    State.reset.stopped = false ∧ (({ State.reset with beds := [(17, { sprouts := [(3, { st := .bank0 })] })] } : State).sprout ⟨1, 0, 3⟩).issues = true := by decide

theorem witness_SproutFlowCompletes_2 :
    ({ ({ State.reset with beds := [(17, { sprouts := [(3, { st := .bank0 })] })] } : State).sprout ⟨1, 0, 3⟩ with ret := [5] } : SproutSt).issues = true ∧ (({ State.reset with beds := [(17, { sprouts := [(3, { st := .bank0 })] })] } : State).sprout ⟨1, 0, 3⟩).bank.loops.length < 2 ∧
    (({ b0 := { loops := [⟨0, 1, 1⟩, ⟨0, 1, 1⟩] }, st := .bank0 } : SproutSt).bank.loops.length = 2) := by decide

theorem witness_SproutSynchronisationCompletes :
    State.reset.stopped = false ∧ (({ State.reset with beds := [(17, { sprouts := [(3, { st := .bank0 })] })] } : State).sprout ⟨1, 0, 3⟩).issues = true := by decide

theorem witness_SproutSynchronisationCompletes_2 :
    ∃ s : State, s.stopped = false ∧ s.flag (pgBed 0 0) 0x100 4 = true ∧ s.pruned 0 = false ∧ s.bedReady 0 0 = true ∧
    (s.bed 0 0).queue = [⟨true, 0, 0, 0, 1, 0, 0⟩] := ⟨{ State.reset with beds := [(0, { queue := [⟨true, 0, 0, 0, 1, 0, 0⟩] })], gate := { act := [(regAddr (pgBed 0 0) 0x100, 0x10)] } }, by decide⟩

theorem witness_SproutSynchronisationCompletes_3 :
    ∃ s : State, s.stopped = false ∧ (s.sprout ⟨1, 0, 3⟩).st = .bank0 ∧ (s.sprout ⟨1, 0, 3⟩).stopped = false ∧ (s.sprout ⟨1, 0, 3⟩).line = some 5 := ⟨{ State.reset with beds := [(17, { sprouts := [(3, { st := .bank0, en := 0x20, pend := 0x20 })] })] }, by decide⟩

theorem witness_BigTopCompletes :
    ∃ s : State, s.stopped = false ∧ s.pruned 0 = false ∧ (s.btp 0).queue = [] ∧ (s.btp 0).localising = false ∧ (s.btp 0).localisePending = false ∧
    pSwap 0 = false ∧ (s.btp 0).foreign 0 0 = false ∧ (s.btp 0).mismatched (2 ^ 11) = false ∧ (s.btp 0).loading = true ∧
    (s.btp 0).shadow = some { tag := 3 } ∧ (s.btp 0).active = some { valid := true } := ⟨{ plots := [(0, { btp := { active := some { valid := true }, shadow := some { tag := 3 }, loading := true } })] }, by decide⟩

theorem witness_VerdictsAndReplaysComplete :
    ∃ s : State, s.stopped = false ∧ (s.btp 0).queue = [] ∧ (s.btp 0).bank1.checks = [{ desc := 2 ^ 10, row := 0, ctx := 0 }] ∧
    (s.siv 0).waiting = some { ctx := 0, step := 0, entry := 0, desc := 0 } ∧ (s.btp 0).bank0.flagged = true ∧ (s.btp 0).bank0.net = false ∧
    (s.btp 0).bank0.replaying = false := ⟨{ plots := [(0,
      { siv := { waiting := some { ctx := 0, step := 0, entry := 0, desc := 0 } }
        btp := { bank0 := { flagged := true }, bank1 := { checks := [{ desc := 2 ^ 10, row := 0, ctx := 0 }] } } })] }, by decide⟩

theorem witness_VerdictsAndReplaysComplete_2 :
    ∃ s : State, s.stopped = false ∧ (s.btp 0).queue = [] ∧ (s.btp 0).bank1.replaying = true ∧ s.replayServed (s.btp 0).bank1 = true ∧
    (s.btp 0).localising = true ∧ (s.btp 0).mapPending = true ∧ (s.btp 0).mapAppliedAt + 2000 * usRef ≤ s.sdl.ref := ⟨{ sdl := { ref := 2000 * usRef }, plots := [(0, { btp := { bank1 := { replaying := true }, localising := true, mapPending := true } })] }, by decide⟩

theorem witness_VerdictsAndReplaysComplete_3 :
    ∃ s : State, s.stopped = false ∧ (s.btp 0).queue = [] ∧ s.banksIdle 0 = true ∧ (s.btp 0).mapPending = true ∧ s.localiseDue 0 = true := ⟨{ plots := [(0, { btp := { mapPending := true, localisePending := true } })] }, by decide⟩

theorem witness_ChainsAndRetriesComplete :
    ∃ s : State, s.stopped = false ∧ s.pruned 0 = false ∧ (s.siv 0).waiting = none ∧ (s.siv 0).running = none ∧ (s.siv 0).retry = none ∧
    (s.siv 0).held = [] ∧ cUses (0x3F000A80 * 2 ^ 256) 0x28 = false ∧ cMarkSrc (0x3F000A80 * 2 ^ 256) = 0 ∧
    cPlain (2 ^ 11 + 0x3F000A80 * 2 ^ 256) = true ∧ (s.btp 0).ownedByOther 0 0 = false ∧ ((s.btp 0).bank 0).awaiting = 0 ∧
    ((s.btp 1).bank 0).awaiting ≠ 0 ∧ (s.siv 1).held = [] ∧ (s.siv 2).running.isSome = true := ⟨{ plots := [(1, { btp := { bank0 := { checks := [{ desc := 0, row := 0, ctx := 0 }] } } }),
               (2, { siv := { running := some { req := { ctx := 0, step := 0, entry := 0, desc := 0 } } } })] }, by decide⟩

theorem witness_ChainsAndRetriesComplete_2 :
    ∃ s : State, s.stopped = false ∧ (s.siv 0).running = some { req := { ctx := 0, step := 0, entry := 0, desc := 0 } } ∧
    (s.siv 1).retry = some { req := { ctx := 0, step := 0, entry := 0, desc := 0 } } ∧ (s.siv 1).retryGranted = true ∧
    (s.siv 2).retry = some { req := { ctx := 0, step := 0, entry := 0, desc := 0 } } ∧ (s.siv 2).retryGranted = false ∧
    (s.siv 0).waiting = none ∧ (s.siv 0).held = [] ∧ (s.btp 0).queue = [] := ⟨{ plots := [(0, { siv := { running := some { req := { ctx := 0, step := 0, entry := 0, desc := 0 } } } }),
               (1, { siv := { retry := some { req := { ctx := 0, step := 0, entry := 0, desc := 0 } }, retryGranted := true } }),
               (2, { siv := { retry := some { req := { ctx := 0, step := 0, entry := 0, desc := 0 } } } })] }, by decide⟩

theorem witness_StoreTurnCompletes :
    ∃ s : State, s.stopped = false ∧ s.pruned 0 = false ∧ s.pruned 1 = true ∧
    turnOobs (s.slotTurns 0 .w [{ slot := 0, entry := 0, row := 5 }]) = [{ slot := 0, entry := 0, row := 5 }] := ⟨{ flt := { pruned := 2 } }, by decide⟩

theorem witness_StoreTurnCompletes_2 :
    ∃ s : State, s.takes .pf = true ∧ (s.win 0 3).st = .held ∧ viewSeesPlot s.gate.act .pf 0 = true := ⟨{ plots := [(0, { sto := { win := [(3, { st := .held })] } })] }, by decide⟩

theorem witness_FurrowsComplete :
    ∃ s : State, s.stopped = false ∧ (s.ctx 1).slot = some 0 ∧ (s.ctx 1).live = true := ⟨{ rms := { ctx := [(1, { st := .running, slot := some 0 })] } }, by decide⟩

theorem witness_FurrowsComplete_2 :
    ∃ s : State, s.stopped = false ∧ ∃ u y, u = ((s.advance 0).settleIrg 0).noteWaits 0 ∧ u.served 0 = some 0 ∧ u.furrow 0 0 = y ∧ y.spilled = [] ∧ u.nextLen 0 y = 1 ∧
    u.formedBad y (u.srcPlace 0 y (fSrcAt y.desc 0 0) 1) 1 false = false ∧ u.srcPlace 0 y (fSrcAt y.desc 0 0) 1 = .dram dramBase ∧
    u.translate y.ctx (u.dstPlace 0 y (fDstAt y.desc 0 0) 1) 1 none = .plain := ⟨{ ddr := { mapped := 65536 }, irg := { irg := [(0, { furrows := [(0, { st := .active, ctx := 1, desc := dramBase + 2 ^ 48 * 0x03000000 })] })] } }, by decide, _, _, rfl, by decide +kernel, rfl, by decide +kernel, by decide +kernel, by decide +kernel, by decide +kernel, by decide +kernel⟩

theorem witness_FurrowsComplete_3 :
    ∃ s : State, s.stopped = false ∧ (∃ r, s.request? 0 3 = some r ∧ r.gen = 0 ∧ r.irg = 0 ∧ r.dead = false ∧ r.data = none ∧ r.spill = false ∧ r.pool = 0 ∧
    s.srcPlace r.irg (s.furrow r.irg r.furrow) r.src r.len = .host hostBase ∧ r.issued + s.limitOf r < max s.sdl.ref (2 ^ 60) ∧ ¬ (2 ≤ s.level ∧ s.realTime r.ctx = false) ∧
    (s.furrow r.irg r.furrow).ready { tile := r.tile, dst := r.dst, data := natLe r.len (leNat []), pos := r.pos, xlat := r.dxlat } = false) ∧
    (s.furrow 1 0).page = some (5, 0) ∧ (s.furrow 1 0).st = .pageWait ∧ (s.furrow 1 0).asked = true := ⟨{ irg := {
        requests := [{ irg := 0, furrow := 0, pool := 0, tag := 3, gen := 0, src := hostBase, dst := 0, len := 64, tile := 1000, ctx := 1 }]
        irg := [(0, { furrows := [(0, { st := .active, ctx := 1, desc := hostBase })] }), (1, { furrows := [(0, { st := .pageWait, page := some (5, 0), asked := true })] })] } }, by decide, ⟨_, rfl, by decide, by decide, by decide, by decide, by decide, by decide, by decide, by decide, by decide, by decide⟩, by decide, by decide, by decide⟩

theorem witness_IrrigatorUpkeepCompletes :
    ∃ s : State, s.stopped = false ∧ (s.irrigator 0).creditOnly = some 0 ∧ 2000 * nsRef ≤ max s.sdl.ref (2000 * nsRef) ∧
    (∃ e ∈ (s.irrigator 0).furrows, ∃ b, e.2.stageSince = some b ∧ b + 2000 * nsRef ≤ max s.sdl.ref (2000 * nsRef)) ∧ (∃ y, s.victim 0 = some (2, y)) := ⟨{ irg := { irg := [(0, { creditOnly := some 0, furrows := [(2, { st := .creditWait, stageSince := some 0, stage := [{ tile := 0, dst := 0, data := [1] }] })] })] } }, by decide, by decide, by decide, ⟨_, List.mem_singleton_self _, 0, by decide, by decide⟩, ⟨_, rfl⟩⟩

theorem witness_IrrigatorUpkeepCompletes_2 :
    ∃ s : State, s.stopped = false ∧ (s.group 3).above = true ∧ s.pfcEn 3 = true ∧
    SMap.get zeroUnlisted s.irg.pfcAt 3 + s.cfg pgTrn (0x208 + 0x10 * 3) 0 10 * (1000 * nsRef) ≤ max s.sdl.ref (2 ^ 60) := ⟨{ irg := { groups := [(3, { above := true })] }, gate := { act := [(regAddr (pgIrg 8) 0x30C, 2 ^ 24)] } }, by decide⟩

theorem witness_IrrigatorUpkeepCompletes_3 :
    ∃ s : State, s.takes .pf = true ∧ isVf .pf = false ∧ ¬ ((8 : Fin 9).val < 8 ∧ 24 ≤ (5 : Word).toNat % 64) ∧ (s.irg.requests.any fun r => decide (r.fn = 0 ∧ r.xlat = some 7)) = true := ⟨{ irg := { requests := [{ irg := 0, furrow := 0, pool := 0, tag := 3, gen := 0, src := 0, dst := 0, len := 64, tile := 0, ctx := 1, fn := 0, xlat := some 7 }] } }, by decide⟩

theorem witness_TaskEntriesComplete :
    ∀ k ∈ List.range 9, ∃ (s : State) (y : StepSt) (z : TaskSt), s.mayTake 1 0 0 k y z := by
  intro k hk
  refine ⟨{ rms := { ctx := [(1, { st := .running, slot := some 0, steps := [{ n := 0, plan := BitVec.ofNat 8 k :: List.replicate 15 0, dispatched := true, tasks := [{ engine := 3, plot := 0, pc := 0, lastPpt := 0 }] }] })] } }, _, _, rfl, rfl, rfl, rfl, Or.inl rfl, ?_, ?_, ?_, 0, rfl, fun e he => absurd (he.symm.trans (by decide : engineKey 3 0 0 = none)) (Option.some_ne_none e)⟩
  all_goals revert k; decide

theorem witness_TaskEntriesComplete_2 :
    ∃ s : State, ∃ y z, s.mayTake 1 0 0 1 y z ∧ s.opHeld 1 0 0 = false ∧ s.undelivered 1 [] = [] ∧ z.engine = 2 ∧ z.plot = 0 ∧ s.servingBed z.plot z.pos = some 0 ∧
    (s.sprout ⟨0, 0, 0⟩).st = .idle ∧ (s.sprout ⟨0, 0, 0⟩).frozen = false := ⟨{ gate := { act := [(regAddr (pgBed 0 0) 0x100, 0x10)] }, rms := { serving := [(32, 1)], ctx := [(1, { st := .running, slot := some 0, steps := [{ n := 0, plan := 1 :: List.replicate 15 0, dispatched := true, tasks := [{ engine := 2, plot := 0, pc := 0, lastPpt := 0 }] }] })] } }, _, _, ⟨rfl, rfl, rfl, rfl, Or.inl rfl, by decide, by decide, by decide, 0, rfl, by decide⟩, by decide +kernel, rfl, rfl, rfl, by decide +kernel, by decide, by decide⟩

theorem witness_TaskEntriesComplete_3 :
    ∃ s : State, s.stopped = false ∧ ∃ y z, s.step? 1 0 = some y ∧ y.tasks[0]? = some z ∧ fieldOf (z.entry y.plan) 0 4 = 2 ∧ y.waitMet (z.entry y.plan) = false ∧ y.flying = true := ⟨{ rms := { ctx := [(1, { steps := [{ n := 0, plan := 2 :: 0 :: 0x10 :: List.replicate 13 0, dispatched := true, tasks := [{ engine := 3, plot := 0, pc := 0, lastPpt := 0 }] }] })] } }, rfl, _, _, rfl, rfl, by decide, by decide, by decide⟩

theorem witness_WatchedStepsComplete :
    ∃ s : State, s.stopped = false ∧ s.watched 1 = true ∧ ∃ y, s.step? 1 0 = some y ∧ y.flying = true ∧ y.holders 0 ≠ [] ∧
    SMap.get zeroUnlisted y.passed 0 = (y.holders 0).length ∧ y.chkSeen = false := ⟨{ gate := { act := [(regAddr pgRms (ctxOff 1), 1 + 2 + 4 + 8)] }, rms := { ctx := [(1, { st := .running, slot := some 0, steps := [{ n := 0, plan := List.replicate 8 0 ++ [32] ++ List.replicate 23 0 ++ [7] ++ List.replicate 31 0, dispatched := true, passed := [(0, 1)], tasks := [{ engine := 3, plot := 0, pc := 0, lastPpt := 0 }] }] })] } }, rfl, by decide +kernel, _, rfl, by decide, by decide +kernel, by decide +kernel, rfl⟩

theorem witness_WatchedStepsComplete_2 :
    ∃ s : State, s.stopped = false ∧ (s.furrow 0 0).due = some (0, 3, 0) ∧ 0 + ovlTime 0 ≤ max s.sdl.ref (2 ^ 50) ∧ s.prologueLeft 0 (s.furrow 0 0).ctx 3 ≠ [] := ⟨{ irg := { irg := [(0, { furrows := [(0, { st := .active, ctx := 1, due := some (0, 3, 0) })] })] } }, rfl, rfl, by decide +kernel, by decide +kernel⟩

theorem witness_WatchedStepsComplete_3 :
    ∃ s : State, s.stopped = false ∧ (∃ y z, s.step? 1 0 = some y ∧ y.flying = true ∧ (s.ctx 1).live = true ∧ y.tasks[0]? = some z ∧ z.done = false ∧
    netInLimits (planNat y.plan (z.desc + 64 * 0) 64) = true ∧ (s.standbys y.plan 0).head? = some ⟨0, 0, 0⟩ ∧ (s.bed 0 0).seeded = true) ∧
    s.isGh 1 = false ∧ s.replays 1 = false ∧ s.watched 1 = false ∧ (s.ctx 1).steps.any (·.flying) = true ∧ (s.ctx 1).st = .running := ⟨{ beds := [(0, { seeded := true })], gate := { act := [(regAddr (pgBed 0 0) 0x100, 0x10), (regAddr pgRms (ctxOff 1), 0x40)] }, rms := { ctx := [(1, { st := .running, slot := some 0, steps := [{ n := 0, plan := [1, 0, 0, 2] ++ List.replicate 60 0, dispatched := true, tasks := [{ engine := 3, plot := 0, pc := 0, lastPpt := 0 }] }] })] } }, rfl, ⟨_, _, rfl, by decide, by decide, rfl, rfl, by decide +kernel, by decide +kernel, rfl⟩, by decide +kernel, by decide +kernel, by decide +kernel, by decide, rfl⟩

theorem witness_RerunsComplete :
    ∃ s : State, s.stopped = false ∧ (s.sprout ⟨0, 0, 3⟩).st ≠ .idle ∧ (s.sprout ⟨0, 0, 3⟩).desc = some 5 ∧ (s.sprout ⟨0, 0, 3⟩).ctx = some 1 ∧ (s.sprout ⟨0, 0, 3⟩).rerun = false ∧
    (∃ y, s.flyingStep 1 = some y ∧ ((s.advance 0).tightGrant 1 y.n 2 (netSteps 5)).1 = true) ∧ (s.sprout ⟨0, 0, 4⟩).st ≠ .idle ∧ (s.sprout ⟨0, 0, 4⟩).desc = none ∧
    (s.sprout ⟨0, 0, 4⟩).ctx = some 1 ∧ (s.ctx 1).live = true := ⟨{ beds := [(0, { sprouts := [(3, { st := .bank0, desc := some 5, ctx := some 1 }), (4, { st := .bank0, ctx := some 1 })] })], gate := { act := [(regAddr pgRms (ctxOff 1), 0x40)] }, rms := { ctx := [(1, { st := .running, slot := some 0, steps := [{ n := 0, dispatched := true }] })] } }, rfl, by decide, rfl, rfl, rfl, ⟨_, rfl, by decide +kernel⟩, by decide, rfl, rfl, by decide⟩

theorem witness_SundialPinsAndGridComplete :
    ∃ s : State, s.stopped = false ∧ s.sdl.freeOsc = true ∧ s.mayHandOver = true ∧ refUsable 10000000 = true ∧ fieldOf s.sdl.cal 3 1 = 0 := ⟨{ pwr := { step := 8 } }, by decide⟩

theorem witness_SundialPinsAndGridComplete_2 :
    ∃ s : State, s.stopped = false ∧ s.sdl.freeOsc = false ∧ s.sdl.refHeld = true ∧ refUsable 25000000 = true := ⟨{ sdl := { freeOsc := false, refHeld := true } }, by decide⟩

theorem witness_SundialPinsAndGridComplete_3 :
    ∃ s : State, ∃ (n : Int) (l : Nat), s.stopped = false ∧ s.gridEn = true ∧ n = (s.advance 0).slotCount 0 (s.advance 0).sdl.dev ∧
    l = (s.advance 0).symAt 0 n (s.advance 0).sdl.dev ∧ (s.advance 0).slotCount 0 (s.advance 0).sdl.gridFrom < n ∧
    ((s.advance 0).sdl.dev : Int) ≤ (s.advance 0).devAt (symStart 0 n l) + 1 := ⟨{ gate := { act := [(regAddr pgSdl 0x100, 1)] }, sdl := { a := { clk := 315964819 * 10 ^ 9 * 2 ^ 56 } } }, _, _, rfl, by decide +kernel, rfl, rfl, by decide +kernel, by decide +kernel⟩

theorem witness_SundialPinsAndGridComplete_4 :
    ∃ s : State, s.stopped = false ∧ s.flag pgSdl 0x250 0 = true ∧ ppsNear ((((s.advance 0).sdl.dev : Int) - signedOf 20 (s.cfg pgSdl 0x250 2 20) * nsRef) % (10 ^ 9 * nsRef : Int)) = true := ⟨{ gate := { act := [(regAddr pgSdl 0x250, 1)] } }, rfl, by decide +kernel, by decide +kernel⟩

theorem witness_SundialPinsAndGridComplete_5 :
    ∃ s : State, s.stopped = false ∧ s.sdl.ppsOut = true ∧ ppsNear ((((s.advance 0).sdl.dev : Int) - signedOf 20 (s.cfg pgSdl 0x250 2 20) * nsRef) % (10 ^ 9 * nsRef : Int)) = false ∧ 0 ≤ devDiff (s.advance 0).sdl.dev s.sdl.ppsEnd := ⟨{ sdl := { ppsOut := true, a := { clk := 5 * 10 ^ 8 * 2 ^ 56 } } }, rfl, rfl, by decide +kernel, by decide +kernel⟩

theorem witness_SundialPinsAndGridComplete_6 :
    ∃ s : State, s.stopped = false ∧ s.flag pgSdl 0x260 6 = true ∧ s.flag pgSdl 0x260 7 = true ∧ s.cfg pgSdl 0x260 0 5 = 3 := ⟨{ gate := { act := [(regAddr pgSdl 0x260, 0xc3)] } }, rfl, by decide +kernel, by decide +kernel, by decide +kernel⟩

theorem witness_SundialServosComplete :
    ∃ s : State, s.stopped = false ∧ false = decide (fieldOf s.sdl.sample0.toNat 0 1 = 1) ∧ s.cfg pgSdl (domOff false) 0 2 = 1 ∧ fieldOf s.sdl.sample0.toNat 1 31 ≤ 2000000 ∧ (s.sdl.servo false).st = .freerun := ⟨{ gate := { act := [(regAddr pgSdl 0x120, 1)] } }, rfl, by decide, by decide +kernel, by decide, rfl⟩

theorem witness_SundialServosComplete_2 :
    ∃ s : State, s.stopped = false ∧ (s.sdl.servo true).st = .locked ∧ (s.sdl.servo true).lastSample + 10 ^ 9 * nsRef ≤ max s.sdl.ref (2 ^ 60) := ⟨{ sdl := { b := { st := .locked } } }, by decide⟩

theorem witness_SundialServosComplete_3 :
    ∃ s : State, s.stopped = false ∧ (s.sdl.servo true).st = .holdover ∧ (s.sdl.servo true).heldSince + s.cfg pgSdl 0x100 13 16 * (10 ^ 9 * nsRef) ≤ max s.sdl.ref (2 ^ 70) := ⟨{ sdl := { b := { st := .holdover } } }, rfl, rfl, by decide +kernel⟩

theorem witness_SundialServosComplete_4 :
    ∃ s : State, s.stopped = false ∧ s.sdl.switching = true ∧ (s.advance 0).sdl.ofs = 0 ∧ s.cfg pgSdl (domOff true) 0 2 ≠ 2 := ⟨{ sdl := { switching := true } }, rfl, rfl, by decide +kernel, by decide +kernel⟩

theorem witness_TestPortAndManagementPinsComplete :
    ∃ s : State, s.gk.tapOut = true ∧ s.held = true := ⟨{ held := true, gk := { tapOut := true } }, by decide⟩

theorem witness_TestPortAndManagementPinsComplete_2 :
    ∃ s : State, s.stopped = false ∧ s.gk.tapOut = true ∧ s.hub.gkHalted = true ∧ s.gk.mb.isSome = true ∧ s.gk.fwRun = true := ⟨{ gk := { tapOut := true, mb := some (4, 0), fwRun := true }, hub := { gkHalted := true } }, by decide⟩

theorem witness_TestPortAndManagementPinsComplete_3 :
    ∃ s : State, s.stopped = false ∧ s.gkRuns = true ∧ s.gk.tapOut = false := ⟨{ gk := { fwRun := true } }, by decide⟩

theorem witness_MailboxCommandsComplete :
    ∃ s : State, s.opens .pf (pageNo pgGkp) pgGkp = true ∧ s.gk.mb = none ∧ s.gkRuns = true ∧ ∃ n r, s.gk.notices = n :: r := ⟨{ gk := { fwRun := true, notices := [3] } }, by decide +kernel, rfl, rfl, _, _, rfl⟩

theorem witness_MailboxCommandsComplete_2 :
    ∃ s : State, s.stopped = false ∧ s.gkRuns = true ∧ s.sec.console = false ∧ s.gk.lockedTo ≤ max s.sdl.ref 0 ∧ 3 ≤ s.gk.fails + 1 := ⟨{ gk := { fwRun := true, fails := 2 } }, by decide⟩

theorem witness_MailboxCommandsComplete_3 :
    ∃ s : State, s.stopped = false ∧ s.gkRuns = true ∧ s.sec.console = true ∧ (viewPage .gk (0 / 4096)).isSome = true ∧ ∃ r, s.pwr.almanac.reverse[0]? = some r := ⟨{ gk := { fwRun := true }, sec := { console := true }, pwr := { almanac := [{ start := 0, step := 0, outcome := 0 }] } }, rfl, rfl, rfl, by decide +kernel, _, rfl⟩

theorem witness_UpdatesAndPlatformEventsComplete :
    ∃ s : State, s.stopped = false ∧ s.gkRuns = true ∧ s.hasEid 0 = true ∧ 1 ∈ sensorIds ∧ s.gk.update = none := ⟨{ gk := { fwRun := true, eid := [(0, 9)] } }, rfl, rfl, rfl, by decide, rfl⟩

theorem witness_UpdatesAndPlatformEventsComplete_2 :
    ∃ s : State, s.stopped = false ∧ s.gkRuns = true ∧ s.gk.receiver = some 4 ∧ (∃ m, (s.gk.unacked.find? fun m => decide (m.seq = 7)) = some m ∧ m.resends < 3 ∧ m.sentAt + 10 ^ 9 * nsRef ≤ max s.sdl.ref (2 ^ 50)) := ⟨{ gk := { fwRun := true, receiver := some 4, unacked := [{ seq := 7, what := 0, words := [], sentAt := 0 }] } }, rfl, rfl, rfl, _, rfl, by decide, by decide +kernel⟩

theorem witness_UpdatesAndPlatformEventsComplete_3 :
    ∃ s : State, s.stopped = false ∧ s.gkRuns = true ∧ s.hasEid 0 = true ∧ ∃ u, s.gk.update = some u ∧ u.requester = 5 ∧ u.current = none ∧ 1 ∈ u.table ∧ u.comps ≠ [] ∧ u.comps.all (·.verified) = true ∧ u.comps.all (fun c => decide (c.type = 1)) = true := ⟨{ gk := { fwRun := true, eid := [(0, 9)], update := some { requester := 5, table := [1], comps := [{ type := 1, verified := true }] } } }, rfl, rfl, rfl, _, rfl, rfl, rfl, by decide, by decide, rfl, rfl⟩

theorem witness_UpdatesAndPlatformEventsComplete_4 :
    ∃ s : State, s.stopped = false ∧ s.gkRuns = true ∧ ∃ u, s.gk.update = some u ∧ u.current = some 1 ∧ s.checked 1 { digest := true, mlDsa := true, ed25519 := true, secret := true, svn := s.sec.minSvn } = true := ⟨{ gk := { fwRun := true, update := some { requester := 5, current := some 1 } } }, rfl, rfl, _, rfl, rfl, by decide⟩

theorem witness_KeyCommandsComplete :
    ∃ s : State, s.takes .pf = true ∧ (5 : Nat) = fieldOf (0x14 : Word).toNat 2 10 ∧ (0 : Nat) = fieldOf (0x14 : Word).toNat 12 3 ∧ inKeyRange s.gate.act 0 5 = true ∧ keyInUse s.gate.act 5 = false ∧ ∃ k, SMap.find? s.sec.keys 5 = some k := ⟨{ gate := { act := [(regAddr pgSec 0x104, 64 * 1024)] }, sec := { keys := [(5, { use := 1, job := 2, part := 0, key := [] })] } }, rfl, by decide, by decide, by decide +kernel, by decide +kernel, _, rfl⟩

theorem witness_KeyCommandsComplete_2 :
    ∃ s : State, s.takes (.vf 2) = true ∧ (5 : Nat) = fieldOf (0x14 : Word).toNat 2 10 ∧ vfPart s.gate.act 3 = some 1 := ⟨{ gate := { act := [(regAddr pgSec 0x140, 1 + 512 * 3)] } }, by decide, by decide, by decide +kernel⟩

theorem witness_KeyCommandsComplete_3 :
    ∃ s : State, s.stopped = false ∧ (SMap.get ideUnlisted s.sec.ide 0).secure = true := ⟨{ sec := { ide := [(0, { secure := true })] } }, by decide⟩

theorem witness_PartitionsCloseAndOpenComplete :
    ∃ s : State, s.takes .pf = true ∧ (s.part 0).st = .active ∧ s.takes (.vf 1) = true := ⟨{ held := false }, rfl, rfl, by decide⟩

theorem witness_PartitionsCloseAndOpenComplete_2 :
    ∃ s : State, s.stopped = false ∧ vfPart s.gate.act 3 = some 1 ∧ (s.part 1).st = .active := ⟨{ gate := { act := [(regAddr pgSec 0x140, 1 + 512 * 3)] }, sec := { parts := [(1, { st := .active })] } }, rfl, by decide +kernel, rfl⟩

theorem witness_PartitionsCloseAndOpenComplete_3 :
    ∃ s : State, s.stopped = false ∧ ∀ p, p < 8 → (s.part p).st = .off := ⟨{ sec := { parts := [] } }, rfl, fun _ _ => rfl⟩

theorem witness_PartitionsCloseAndOpenComplete_4 :
    ∃ s : State, s.stopped = false ∧ (s.part 1).st = .closing ∧ (s.advance (2 ^ 60)).reached ((s.part 1).since + 10 ^ 6 * nsRef / 8) = true ∧ ∃ c ∈ s.partCtxs 1, s.inFlight c = true := ⟨{ gate := { act := [(regAddr pgRms (ctxOff 2), 1 + 2)] }, sec := { parts := [(1, { st := .closing })] }, rms := { ctx := [(2, { st := .running, steps := [{ n := 0 }] })] } }, rfl, rfl, by decide +kernel, 2, by decide +kernel, by decide⟩

theorem witness_PartitionsCloseAndOpenComplete_5 :
    ∃ s : State, s.stopped = false ∧ (s.part 1).st = .scrubbing ∧ s.partWindows 1 .zeroing = false := ⟨{ sec := { parts := [(1, { st := .scrubbing })] } }, rfl, rfl, by decide +kernel⟩

theorem witness_PartitionsCloseAndOpenComplete_6 :
    ∃ s : State, s.stopped = false ∧ (s.part 1).st = .held ∧ s.partWindows 1 .held = false ∧ s.partWindows 1 .zeroing = false ∧ s.partFrozen 1 = false ∧ (s.sec.fences.all fun f => decide (f.part ≠ 1) || f.zeroing) = true := ⟨{ sec := { parts := [(1, { st := .held })] } }, rfl, rfl, by decide +kernel, by decide +kernel, by decide +kernel, rfl⟩

theorem witness_AttestationRequestsComplete :
    ∃ s : State, s.stopped = false ∧ s.hub.gkHalted = false ∧ s.hasEid 2 = true ∧ s.sec.idOk = true ∧ s.pwr.recovery = false ∧ (s.spdm 2).ready = true ∧ byteAt ([0, 0, 0, 0] : List Byte) 2 % 16 = 0 := ⟨{ sec := { idOk := true, spdm := [(2, { version := true, caps := true, algs := true })] } }, by decide⟩

theorem witness_AttestationRequestsComplete_2 :
    ∃ s : State, s.stopped = false ∧ s.hub.gkHalted = false ∧ s.hasEid 2 = true ∧ (s.session? 2 7).isSome = true ∧ s.sec.idOk = true ∧ s.pwr.recovery = false ∧ (s.spdm 2).ready = true ∧ (s.spdm 2).signed = some [1] ∧ byteAt ([0, 0, 1, 255] : List Byte) 2 % 2 = 1 := ⟨{ sec := { idOk := true, spdm := [(2, { version := true, caps := true, algs := true, signed := some [1] })], sessions := [{ id := 7, transport := 2 }] } }, by decide⟩

theorem witness_SessionsAndStreamsComplete :
    ∃ s : State, s.stopped = false ∧ s.hub.gkHalted = false ∧ s.hasEid 2 = true ∧ s.sec.idOk = true ∧ s.pwr.recovery = false ∧ (s.spdm 2).ready = true ∧ s.sec.sessions.length < 8 := ⟨{ sec := { idOk := true, spdm := [(2, { version := true, caps := true, algs := true })] } }, by decide⟩

theorem witness_SessionsAndStreamsComplete_2 :
    ∃ s : State, s.stopped = false ∧ s.hub.gkHalted = false ∧ s.hasEid 2 = true ∧ s.sec.idOk = true ∧ s.pwr.recovery = false ∧ (s.spdm 2).ready = true ∧ ∃ x, s.session? 2 7 = some x ∧ x.established = false := ⟨{ sec := { idOk := true, spdm := [(2, { version := true, caps := true, algs := true })], sessions := [{ id := 7, transport := 2 }] } }, rfl, rfl, rfl, rfl, rfl, by decide, _, rfl, rfl⟩

theorem witness_SessionsAndStreamsComplete_3 :
    ∃ s : State, s.stopped = false ∧ s.hub.gkHalted = false ∧ s.hasEid 2 = true ∧ s.sec.idOk = true ∧ s.pwr.recovery = false ∧ (s.spdm 2).ready = true ∧ (∃ x, s.session? 2 7 = some x ∧ x.established = true) ∧ (s.part 1).pwk = none ∧ (SMap.find? (SMap.get ideUnlisted s.sec.ide 0).keys (ideKey false 0 false)).isSome = true := ⟨{ sec := { idOk := true, spdm := [(2, { version := true, caps := true, algs := true })], sessions := [{ id := 7, transport := 2, established := true }], ide := [(0, { keys := [(0, [])] })] } }, rfl, rfl, rfl, rfl, rfl, by decide, ⟨_, rfl, rfl⟩, rfl, rfl⟩

theorem witness_SessionsAndStreamsComplete_4 :
    ∃ s : State, s.stopped = false ∧ s.gk.tapOut = false ∧ s.sec.jtag = true := ⟨{ sec := { jtag := true } }, by decide⟩

theorem witness_HostAccessAndLibraryComplete :
    ∃ s : State, s.stopped = false ∧ (s.ctx 0).harvWait = [5] ∧ s.harvRoom 0 = true := ⟨{ rms := { ctx := [(0, { harvWait := [5] })] } }, by decide⟩

theorem witness_HostAccessAndLibraryComplete_2 :
    ∃ s : State, s.stopped = false ∧ (s.ctx 0).harvWait = [5] ∧ s.harvRoom 0 = false ∧ SMap.get flagUnlisted s.hub.mute (s.fnOf 0) = false := ⟨{ rms := { ctx := [(0, { harvWait := [5], prod := 1048576 })] } }, by decide⟩

theorem witness_HostAccessAndLibraryComplete_3 :
    ∃ s : State, s.stopped = false ∧ (s.fn (copyFn .pf)).flr = false ∧ (s.fn (copyFn .pf)).busy = false ∧ (0 : Word).toNat = 0 := ⟨{ }, by decide⟩

theorem witness_HostAccessAndLibraryComplete_4 :
    ∃ s : State, s.stopped = false ∧ (s.fn 0).busy = true ∧ s.sdl.ref ≤ (s.fn 0).began + 50000000 * nsRef ∧ dramEnd ≤ (s.fn 0).src ∧ dramEnd ≤ (s.fn 0).dst := ⟨{ irg := { fn := [(0, { busy := true, srcHi := 0x80, dstHi := 0x80 })] } }, by decide⟩

theorem witness_HostAccessAndLibraryComplete_5 :
    ∃ s : State, s.takes .pf = true ∧ viewSees s.gate.act .pf (s.partOf 0) = true := ⟨{ }, by decide⟩

theorem witness_ThresherCommandsComplete :
    ∃ s : State, s.stopped = false ∧ s.slotCtx 0 = some 0 ∧ (s.ctx 0).live = true ∧ s.thrQueue false 0 = [] ∧ s.thrQueue true 0 = [] := ⟨{ rms := { slot := [(0, 1)], ctx := [(0, { st := .running })] } }, by decide⟩

theorem witness_ThresherCommandsComplete_2 :
    ∃ s : State, s.stopped = false ∧ s.slotCtx 0 = some 0 ∧ (s.ctx 0).live = true ∧ (s.ctx 0).fault = none ∧ (∃ i < 128, 16 < fieldOf (17 : Nat) (16 * i) 5) := ⟨{ rms := { slot := [(0, 1)], ctx := [(0, { st := .running })] } }, rfl, rfl, rfl, rfl, 0, by decide, by decide⟩

theorem witness_ThresherCommandsComplete_3 :
    ∃ s : State, s.stopped = false ∧ s.slotCtx 0 = some 0 ∧ (s.ctx 0).live = true ∧ s.unitServes 0 = true ∧ (∃ j, s.thrQueue false 0 = [j] ∧ j.started = true ∧ hKind j.header = 0) ∧ (∃ j, s.thrQueue true 0 = [j] ∧ j.started = true ∧ 2 ≤ hKind j.header) := ⟨{ rms := { slot := [(0, 1)], ctx := [(0, { st := .running })] }, thr := { dec := [(0, [{ header := 0, blocks := [0], payload := [], started := true }])], enc := [(0, [{ header := 2, blocks := [0], payload := [], started := true }])] } }, rfl, rfl, rfl, by decide, ⟨_, rfl, rfl, rfl⟩, ⟨_, rfl, rfl, by decide⟩⟩

theorem witness_ThresherCommandsComplete_4 :
    ∃ s : State, s.stopped = false ∧ s.slotCtx 0 = some 0 ∧ (s.ctx 0).live = true ∧ s.unitServes 0 = true ∧ (∃ j, s.thrQueue false 0 = [j] ∧ j.started = true ∧ hKind j.header = 1) := ⟨{ rms := { slot := [(0, 1)], ctx := [(0, { st := .running })] }, thr := { dec := [(0, [{ header := 1, blocks := [0], payload := [], started := true }])] } }, rfl, rfl, rfl, by decide, _, rfl, rfl, rfl⟩

theorem witness_StepsEndAndAreTracedCompletely :
    ∃ s : State, s.stopped = false ∧ (s.ctx 0).live = true ∧ (∃ y, s.step? 0 3 = some y ∧ y.flying = true ∧ (y.tasks.all fun z => z.done) = true) := ⟨{ rms := { ctx := [(0, { st := .running, steps := [{ n := 3, dispatched := true }] })] } }, rfl, rfl, _, rfl, rfl, rfl⟩

theorem witness_StepsEndAndAreTracedCompletely_2 :
    ∃ s : State, s.takes .pf = true ∧ viewSees s.gate.act .pf (s.wsetPart 0) = true ∧ viewSees s.gate.act .pf (s.partOf (s.cfg pgRms 0x6E0 24 6)) = true ∧ s.rms.capLeft = 0 ∧ s.rms.wsetBusy = some 0 := ⟨{ rms := { wsetBusy := some 0 } }, by decide⟩

theorem witness_StepsEndAndAreTracedCompletely_3 :
    ∃ s : State, s.takes .pf = true ∧ viewSees s.gate.act .pf (s.partOf (s.cfg pgRms 0x6E0 24 6)) = true ∧ s.rms.capLeft ≠ 0 := ⟨{ rms := { capLeft := 1 } }, by decide⟩

theorem witness_StepsEndAndAreTracedCompletely_4 :
    ∃ s : State, s.stopped = false ∧ s.locked 0 = true ∧ (s.ctx 0).lockMark = none ∧ (s.flyingStep 0).isSome = true := ⟨{ gate := { act := [(regAddr pgRms 0x688, 1)] }, rms := { ctx := [(0, { st := .running, steps := [{ n := 3, dispatched := true }] })] } }, by decide⟩

theorem witness_StepsEndAndAreTracedCompletely_5 :
    ∃ s : State, s.stopped = false ∧ s.locked 0 = true ∧ (s.ctx 0).lockMark = some 0 ∧ 0 ≤ max s.sdl.ref 0 ∧ (s.flyingStep 0).isSome = true := ⟨{ gate := { act := [(regAddr pgRms 0x688, 1)] }, rms := { ctx := [(0, { st := .running, lockMark := some 0, steps := [{ n := 3, dispatched := true }] })] } }, by decide⟩

theorem witness_StepsEndAndAreTracedCompletely_6 :
    ∃ s : State, s.stopped = false ∧ s.isGh 0 = true ∧ (∃ y, s.step? 0 3 = some y ∧ y.flying = true ∧ fieldOf (leNat (y.body.take 64)) 0 2 = 1) := ⟨{ gate := { act := [(regAddr pgRms 0x608, 1)] }, rms := { ctx := [(0, { st := .running, steps := [{ n := 3, dispatched := true, body := [1] }] })] } }, rfl, by decide, _, rfl, rfl, by decide⟩

theorem witness_ResetsAndStartUpComplete :
    ∃ s : State, s.pwr.porstHigh = false ∧ s.pwr.railBad = false := ⟨{ pwr := { porstHigh := false } }, by decide⟩

theorem witness_ResetsAndStartUpComplete_2 :
    ∃ s : State, s.pwr.porstHigh = false ∧ s.pwr.railBad = true := ⟨{ pwr := { railBad := true, porstHigh := false } }, by decide⟩

theorem witness_ResetsAndStartUpComplete_3 :
    ∃ s : State, s.pwr.porstHigh = true ∧ s.pwr.railBad = true := ⟨{ pwr := { railBad := true, porstHigh := true } }, by decide⟩

theorem witness_ResetsAndStartUpComplete_4 :
    ∃ s : State, s.stopped = false ∧ s.pwr.perst = true ∧ s.pwr.step = 0 ∧ s.pwr.ready = false ∧ (s.gk.fwRun = true ∨ s.pwr.recovery = true) := ⟨{ pwr := { perst := true, step := 0 }, gk := { fwRun := true } }, by decide⟩

theorem witness_ResetsAndStartUpComplete_5 :
    ∃ s : State, s.stopped = false ∧ s.pwr.step = 3 ∧ s.variant 3 ≠ 0 := ⟨{ pwr := { step := 3, variants := [(3, 1)] } }, by decide⟩

theorem witness_ResetsAndStartUpComplete_6 :
    ∃ s : State, s.stopped = false ∧ s.pwr.step = 10 ∧ s.pwr.perst = false := ⟨{ pwr := { step := 10, perst := false } }, by decide⟩

theorem witness_ResetsAndStartUpComplete_7 :
    ∃ s : State, s.stopped = false ∧ s.gk.fwRun = true ∧ s.hub.gkHalted = false ∧ s.pwr.perst = false ∧ s.flt.recoverOwed = true := ⟨{ pwr := { perst := false }, gk := { fwRun := true }, flt := { recoverOwed := true } }, by decide⟩

theorem witness_StepsComeIntoBeing :
    ∃ (s : State) (k : Int), s.stopped = false ∧ (s.ctx 0).live = true ∧ s.realTime 0 = true ∧ s.gridEn = true ∧ s.partActive 0 = true ∧ s.step? 0 (stepNo k) = none ∧ s.boundaryOf 0 k - (leadUs s.gate.act 0 * usRef : Nat) ≤ s.sdl.dev ∧ (s.sdl.dev : Int) < s.boundaryOf 0 k := ⟨{ gate := { act := [(regAddr pgHst 0x204, 0x3FF0000), (regAddr pgSdl 0x100, 1)] }, rms := { ctx := [(0, { st := .idle })] }, sec := { parts := [(0, { st := .active })] }, sdl := { ofs := 20707070378049535999000 * (10 ^ 9 * 2 ^ 40) } }, 1, by decide⟩

theorem witness_StepsComeIntoBeing_2 :
    ∃ s : State, s.stopped = false ∧ (s.ctx 0).next = 0 ∧ (s.ctx 0).live = true ∧ s.realTime 0 = false ∧ s.partActive 0 = true ∧ s.step? 0 0 = none ∧ headerOk (2 ^ 56) 0 = true := ⟨{ gate := { act := [(regAddr pgRms (ctxOff 0), 64)] }, rms := { ctx := [(0, { st := .idle })] }, sec := { parts := [(0, { st := .active })] } }, by decide⟩

theorem witness_StepsComeIntoBeing_3 :
    ∃ s : State, s.stopped = false ∧ (s.ctx 0).live = true ∧ (∃ y, s.step? 0 3 = some y ∧ y.built = false ∧ y.ended = false ∧ y.owed = false ∧ y.header = none ∧ y.dispatched = false) := ⟨{ rms := { ctx := [(0, { st := .idle, steps := [{ n := 3 }] })] } }, rfl, rfl, _, rfl, rfl, rfl, rfl, rfl, rfl⟩

theorem witness_StepsComeIntoBeing_4 :
    ∃ s : State, s.stopped = false ∧ (s.ctx 0).live = true ∧ (s.ctx 0).rollback = false ∧ (s.ctx 0).st ≠ .deferred ∧ s.realTime 0 = false ∧ s.mayDispatch 0 = true ∧ (s.ctx 0).resident = true ∧ (∃ y, s.step? 0 3 = some y ∧ y.built = true ∧ y.noRun = false ∧ y.dispatched = false ∧ y.ended = false) := ⟨{ gate := { act := [(regAddr pgRms (ctxOff 0), 64)] }, rms := { ctx := [(0, { st := .idle, slot := some 0, steps := [{ n := 3, built := true }] })] }, sec := { parts := [(0, { st := .active })] } }, rfl, rfl, rfl, by decide, by decide, by decide, rfl, _, rfl, rfl, rfl, rfl, rfl⟩

theorem witness_SlotsComplete :
    ∃ s : State, s.takes .pf = true ∧ viewSees s.gate.act .pf (s.partOf 0) = true ∧ (s.ctx 0).resident = true ∧ (s.ctx 0).live = true ∧ (s.ctx 1).st = .faulted ∧ s.entriesBusy 1 = false := ⟨{ rms := { ctx := [(0, { st := .idle, slot := some 0 }), (1, { st := .faulted })] } }, by decide⟩

theorem witness_SlotsComplete_2 :
    ∃ s : State, s.stopped = false ∧ (s.ctx 0).slot = some 0 ∧ (s.ctx 0).preempting = true ∧ (s.ctx 0).live = true ∧ (s.ctx 0).allStopped = true ∧ s.quiet 0 = true ∧ s.sproutsStopped 0 = true := ⟨{ rms := { ctx := [(0, { st := .swapping, slot := some 0, preempting := true })] } }, rfl, rfl, rfl, rfl, rfl, by decide, List.all_eq_true.mpr fun _ _ => rfl⟩

theorem witness_SlotsComplete_3 :
    ∃ s : State, s.stopped = false ∧ (s.ctx 0).awaitSlot = some 0 ∧ (s.ctx 0).swapInWait = true ∧ (s.ctx 0).live = true ∧ SMap.get zeroUnlisted s.rms.slot 0 = 1 ∧ s.partHeld (s.partOf 0) = false ∧ (s.ctx 0).steps = [] ∧ (s.ctx 0).fault = none := ⟨{ rms := { ctx := [(0, { st := .swapping, awaitSlot := some 0, swapInWait := true })], slot := [(0, 1)] } }, by decide⟩

theorem witness_SlotsComplete_4 :
    ∃ (s : State) (w : WinPlace), s.stopped = false ∧ (s.ctx 0).awaitSlot = some 0 ∧ (s.ctx 0).swapInWait = true ∧ (s.ctx 0).live = true ∧ s.placeRefused 0 w = true := ⟨{ rms := { ctx := [(0, { st := .swapping, awaitSlot := some 0, swapInWait := true })], slot := [(0, 1)] } }, { plot := 0, win := false, wBase := 1000000, wSize := 0, aBase := 0, aSize := 0, pBase := 0, pSize := 0, wRo := false }, by decide⟩

theorem witness_SlotsComplete_5 :
    ∃ s : State, s.stopped = false ∧ (s.ctx 0).st = .running ∧ (∀ d < 64, (s.ctx d).st ≠ .deferred) ∧ ((s.ctx 0).steps.any fun y => y.flying && y.tasks.any (·.stopped)) = true := ⟨{ rms := { ctx := [(0, { st := .running, steps := [{ n := 0, dispatched := true, tasks := [{ engine := 0, plot := 0, pos := 0, win := 0, bound := 1, pc := 0, desc := 0, lastPpt := 0, stopped := true }] }] })] } }, by decide⟩

theorem witness_SlotsComplete_6 :
    ∃ s : State, s.stopped = false ∧ (s.ctx 0).fault.isSome = true ∧ (s.ctx 0).live = true := ⟨{ rms := { ctx := [(0, { st := .running, fault := some 3 })] } }, by decide⟩

theorem witness_SlotsComplete_7 :
    ∃ s : State, s.stopped = false ∧ (s.ctx 0).tearing = true ∧ s.quiet 0 = true := ⟨{ rms := { ctx := [(0, { st := .running, fault := some 3, tearing := true })] } }, by decide⟩

theorem witness_QueriesAndRosterComplete :
    ∃ s : State, s.takes .pf = true ∧ viewSees s.gate.act .pf (s.partOf ((3 : Word).toNat % 64)) = true ∧ fieldOf (SMap.get zeroUnlisted s.rms.roster 0) 0 1 = 0 := ⟨{ }, by decide⟩

theorem witness_QueriesAndRosterComplete_2 :
    ∃ s : State, s.takes (.vf 0) = true ∧ fieldOf (SMap.get zeroUnlisted s.rms.roster 0) 0 1 = 1 ∧ viewSees s.gate.act (.vf 0) (s.partOf (fieldOf (SMap.get zeroUnlisted s.rms.roster 0) 1 6)) = false := ⟨{ rms := { roster := [(0, 1)] } }, by decide⟩

theorem witness_RingLinksComplete :
    ∃ s : State, s.stopped = false ∧ (s.ring.port true).st = .up ∧ 5 = (s.ring.port true).rxSeq := ⟨{ ring := { east := { st := .up, rxSeq := 5 } } }, by decide⟩

theorem witness_RingLinksComplete_2 :
    ∃ (s : State) (p : RingPort), s.stopped = false ∧ p = s.ring.port true ∧ p.st = .up ∧ p.hold ≠ [] ∧ ∃ f ∈ p.hold, 8 ≤ f.resent := ⟨{ ring := { east := { st := .up, hold := [{ seq := 0, bytes := [], resent := 8 }] } } }, _, by decide, rfl, by decide, by decide, _, List.mem_singleton_self _, by decide⟩

theorem witness_RingLinksComplete_3 :
    ∃ (s : State) (far : Fin 8), s.stopped = false ∧ (s.ring.port true).st = .training ∧ far.val = (s.ringPos + 1) % s.ringN := ⟨{ ring := { east := { st := .training } }, pwr := { ringSize := 3 } }, 1, by decide, by decide, by decide⟩

theorem witness_RingLinksComplete_4 :
    ∃ s : State, s.stopped = false ∧ s.flag pgPsf 0x110 3 = false ∧ 0x110 = 0x110 + 4 * bit (!true) := ⟨{ }, by decide⟩

theorem witness_RingLinksComplete_5 :
    ∃ s : State, s.takes .pf = true ∧ isVf .pf = false := ⟨{ }, by decide⟩

theorem witness_RingLinksComplete_6 :
    ∃ (s : State) (p : RingPort), s.stopped = false ∧ p = s.ring.port false ∧ p.awayOwed = true ∧ p.hold = [] := ⟨{ ring := { west := { awayOwed := true } } }, _, by decide, rfl, by decide, by decide⟩

theorem witness_RingPacketsComplete :
    ∃ (s : State) (h : Nat), s.stopped = false ∧ fieldOf h 11 1 = 0 ∧ s.cfg pgPsf (0x200 + 0x10 * s.partOf (fieldOf h 24 6)) 0 1 = 0 ∧ s.routeTo (fieldOf h 4 3) = some true ∧ (s.ctx (fieldOf h 24 6)).slot = none := ⟨{ ring := { east := { st := .up, far := 1, rate := 0 } }, pwr := { ringSize := 1 }, gate := { act := [(regAddr pgPsf 0x200, 0)] } }, 16, by decide, by decide, by decide, by decide, by decide⟩

theorem witness_RingPacketsComplete_2 :
    ∃ (s : State) (r : Request), s.stopped = false ∧ s.request? 9 0 = some r ∧ r.gen = 0 ∧ r.notRes = true ∧ r.dead = false ∧ r.sentAt + 1000 * nsRef ≤ max s.sdl.ref (1000 * nsRef) := ⟨{ irg := { requests := [{ irg := 0, furrow := 0, pool := 9, tag := 0, gen := 0, src := 0, dst := 0, len := 1, tile := 0, ctx := 0, fn := 0, xlat := none, pos := 0, notRes := true }] } }, _, by decide, rfl, by decide, by decide, by decide, by decide⟩

theorem witness_FramesAndMessagesComplete :
    ∃ (s u : State) (f : Frame) (m : UpMsg), s.stopped = false ∧ u = ((s.advance 0).setLevel 0 0).noteShed 0 false ∧ u.dropsRest 0 = false ∧ u.portUp 0 = true ∧ f.fcsOk = true ∧ 64 ≤ f.len ∧ f.len ≤ u.cfg pgTrn 0x200 3 14 ∧ f.vids.length < 2 ∧ f.bodies = [.uplane m] ∧ f.sec = none ∧ m.hdrOk = true ∧ u.ruFor? 0 f = some 0 ∧ u.ruCfg 0 0 21 1 = 0 ∧ u.flowOf? 0 m.eaxc m.down = some 0 := ⟨{ trn := { portUp := 1 }, gate := { act := [(regAddr ⟨.trnRu, 0⟩ 0x100, 0x800001), (regAddr ⟨.trnRu, 0⟩ 0x114, 0), (regAddr ⟨.trnFlow, 0⟩ 0x100, 1)] } }, _, { len := 64, fcsOk := true, mac := 0, vids := [], sec := none, bodies := [.uplane { hdrOk := true, payloadVersion := 1, eaxc := 0, down := false, filterIndex := 0, frame := 0, subframe := 0, slot := 0, symbol := 0, seq := 0, sections := [] }] }, { hdrOk := true, payloadVersion := 1, eaxc := 0, down := false, filterIndex := 0, frame := 0, subframe := 0, slot := 0, symbol := 0, seq := 0, sections := [] }, by decide, rfl, by decide, by decide, by decide, by decide, by decide, by decide, rfl, rfl, by decide, by unfold State.ruFor?; rw [List.range_succ_eq_map]; exact List.find?_cons_of_pos (by decide), by decide, by unfold State.flowOf?; rw [List.range_succ_eq_map]; exact List.find?_cons_of_pos (by decide)⟩

theorem witness_FramesAndMessagesComplete_2 :
    ∃ (u : State) (y : RuSt), u.stopped = false ∧ y = u.ruSt 0 ∧ (u.ruEn 0 && decide (u.ruCfg 0 0 23 1 = 1) && u.portUp (u.ruPort 0) && decide (y.tdAt = 0 ∨ y.tdAt - 1 + 10 ^ 8 * nsRef ≤ u.sdl.ref)) = true := ⟨{ trn := { portUp := 1 }, gate := { act := [(regAddr ⟨.trnRu, 0⟩ 0x100, 0x800001), (regAddr ⟨.trnRu, 0⟩ 0x114, 0), (regAddr ⟨.trnFlow, 0⟩ 0x100, 1)] } }, _, by decide, rfl, by decide⟩

theorem witness_FramesAndMessagesComplete_3 :
    ∃ (u : State) (m : CpMsg) (mu : Nat) (k : Int), u.stopped = false ∧ (List.range 1024).find? (fun f => decide (u.flowCfg f 0 0 1 = 1 ∧ u.flowCfg f 0 1 16 = m.eaxc ∧ u.flowCfg f 0 23 1 = bit m.down) && u.ruEn (u.flowRu f)) = some 0 ∧ u.flowRu 0 = 0 ∧ m.sectType ∈ ([0, 1, 3, 5, 6] : List Nat) ∧ mu = u.gridMu (u.flowCfg 0 4 0 5) ∧ k = resolveSlot mu m.frame m.subframe m.slot (symOfs mu m.subframe m.slot m.startSym) u.gridNow ∧ symStart mu k m.startSym - tenths (u.ruCfg 0 0x14 12 12) < u.gridNow := ⟨{ trn := { portUp := 1 }, gate := { act := [(regAddr ⟨.trnRu, 0⟩ 0x100, 0x800001), (regAddr ⟨.trnRu, 0⟩ 0x114, 0), (regAddr ⟨.trnFlow, 0⟩ 0x100, 1)] } }, { eaxc := 0, down := false, sectType := 1, frame := 147, subframe := 0, slot := 0, startSym := 0, sections := [] }, _, _, by decide, by rw [List.range_succ_eq_map]; exact List.find?_cons_of_pos (by decide), by decide, by decide, rfl, rfl, by decide⟩

theorem witness_FramesAndMessagesComplete_4 :
    ∃ (u : State) (m : CpMsg) (mu : Nat) (k : Int), u.stopped = false ∧ (List.range 1024).find? (fun f => decide (u.flowCfg f 0 0 1 = 1 ∧ u.flowCfg f 0 1 16 = m.eaxc ∧ u.flowCfg f 0 23 1 = bit m.down) && u.ruEn (u.flowRu f)) = some 0 ∧ u.flowRu 0 = 0 ∧ m.sectType ∈ ([0, 1, 3, 5, 6] : List Nat) ∧ mu = u.gridMu (u.flowCfg 0 4 0 5) ∧ k = resolveSlot mu m.frame m.subframe m.slot (symOfs mu m.subframe m.slot m.startSym) u.gridNow ∧ u.gridNow ≤ symStart mu k m.startSym - tenths (u.ruCfg 0 0x14 12 12) ∧ u.gridNow < symStart mu k m.startSym - tenths (u.ruCfg 0 0x14 0 12) ∧ u.trn.hold.length < 4096 := ⟨{ trn := { portUp := 1 }, gate := { act := [(regAddr ⟨.trnRu, 0⟩ 0x100, 0x800001), (regAddr ⟨.trnRu, 0⟩ 0x114, 0), (regAddr ⟨.trnFlow, 0⟩ 0x100, 1)] } }, { eaxc := 0, down := false, sectType := 1, frame := 149, subframe := 0, slot := 0, startSym := 0, sections := [] }, _, _, by decide, by rw [List.range_succ_eq_map]; exact List.find?_cons_of_pos (by decide), by decide, by decide, rfl, rfl, by decide, by decide, by decide⟩

theorem witness_FramesAndMessagesComplete_5 :
    ∃ (u : State) (m : CpMsg) (mu : Nat) (k : Int), u.stopped = false ∧ (List.range 1024).find? (fun f => decide (u.flowCfg f 0 0 1 = 1 ∧ u.flowCfg f 0 1 16 = m.eaxc ∧ u.flowCfg f 0 23 1 = bit m.down) && u.ruEn (u.flowRu f)) = some 0 ∧ u.flowRu 0 = 0 ∧ m.sectType ∈ ([0, 1, 3, 5, 6] : List Nat) ∧ mu = u.gridMu (u.flowCfg 0 4 0 5) ∧ k = resolveSlot mu m.frame m.subframe m.slot (symOfs mu m.subframe m.slot m.startSym) u.gridNow ∧ u.gridNow ≤ symStart mu k m.startSym - tenths (u.ruCfg 0 0x14 12 12) ∧ symStart mu k m.startSym - tenths (u.ruCfg 0 0x14 0 12) ≤ u.gridNow ∧ u.portUp (u.ruPort 0) = true ∧ u.ruCfg 0 0 21 1 = 0 := ⟨{ trn := { portUp := 1 }, gate := { act := [(regAddr ⟨.trnRu, 0⟩ 0x100, 0x800001), (regAddr ⟨.trnRu, 0⟩ 0x114, 0), (regAddr ⟨.trnFlow, 0⟩ 0x100, 1)] } }, { eaxc := 0, down := false, sectType := 1, frame := 148, subframe := 0, slot := 0, startSym := 0, sections := [] }, _, _, by decide, by rw [List.range_succ_eq_map]; exact List.find?_cons_of_pos (by decide), by decide, by decide, rfl, rfl, by decide, by decide, by decide, by decide⟩

theorem witness_FramesAndMessagesComplete_6 :
    ∃ (s : State) (y : Held), s.stopped = false ∧ s.trn.hold = [y] ∧ y.opens ≤ s.gridNow ∧ s.gridNow ≤ y.closes ∧ s.portUp (s.ruPort y.ru) = true ∧ s.ruCfg y.ru 0 21 1 = 0 := ⟨{ trn := { portUp := 1, hold := [{ ru := 0, opens := -10 ^ 26, closes := 0, words := [] }] } }, _, by decide, rfl, by decide, by decide, by decide, by decide⟩

theorem witness_FramesAndMessagesComplete_7 :
    ∃ s : State, s.stopped = false ∧ s.cfg pgSdl (domOff false) 0 2 = 1 ∧ s.portUp (s.cfg pgSdl (domOff false) 12 4) = true := ⟨{ trn := { portUp := 1 }, gate := { act := [(regAddr pgSdl (domOff false), 1)] } }, by decide, by decide, by decide⟩

theorem witness_FramesAndMessagesComplete_8 :
    ∃ s : State, s.stopped = false ∧ fieldOf s.trn.retraining 0 1 = 1 ∧ portExists s.gate.act 0 = true := ⟨{ trn := { retraining := 1 }, gate := { act := [(regAddr pgTrn 0x100, 0x400)] } }, by decide, by decide, by decide⟩

theorem witness_FramesAndMessagesComplete_9 :
    ∃ s : State, s.takes .pf = true ∧ viewSees s.gate.act .pf (ruPart s.gate.act (s.flowRu 0)) = true ∧ (s.flowSt 0).quarantined = true := ⟨{ trn := { flow := [(0, { quarantined := true })] } }, by decide, by decide, by decide⟩

theorem witness_FramesAndMessagesComplete_10 :
    ∃ s : State, s.takes .pf = true ∧ viewSees s.gate.act .pf (ruPart s.gate.act 0) = true := ⟨{ }, by decide, by decide⟩

theorem witness_TilesAndCorrectionsComplete :
    ∃ (s : State) (k : Int), s.stopped = false ∧ s.gridEn = true ∧ s.gridCfg 0 0 0 1 = 1 ∧ s.layout? 0 k = none := ⟨{ gate := { act := [(regAddr pgSdl 0x100, 1), (regAddr ⟨.trnGrid, 0⟩ 0x100, 1)] } }, 0, by decide, by decide, by decide, by decide⟩

theorem witness_TilesAndCorrectionsComplete_2 :
    ∃ (u : State) (y : ChunkSym) (L : Layout), u.stopped = false ∧ y = u.chunkSym 0 0 (-10 ^ 12) 0 ∧ u.layout? 0 (-10 ^ 12) = some L ∧ L.down = false ∧ 0 < L.chunks ∧ y.openedAt = none ∧ y.closedAt = none ∧ u.layoutRus L = [] ∧ symEnd L.mu (-10 ^ 12) 0 ≤ u.gridNow := ⟨{ trn := { layouts := [{ grid := 0, slotK := -10 ^ 12, mu := 0, nPrb := 1, down := false, flows := [], chunks := 1, lrows := 1, pyrRows := 0, pyrMask := 0, allocs := [] }] } }, _, _, by decide, rfl, rfl, by decide, by decide, by decide, by decide, by decide, by decide⟩

theorem witness_TilesAndCorrectionsComplete_3 :
    ∃ (s : State) (y : ChunkSym) (L : Layout), s.stopped = false ∧ y = s.chunkSym 0 0 (-10 ^ 12) 0 ∧ s.layout? 0 (-10 ^ 12) = some L ∧ L.down = false ∧ 0 < L.chunks ∧ y.openedAt ≠ none ∧ y.stale = false ∧ y.next < L.lrows ∧ y.rowDone L y.next = true := ⟨{ trn := { layouts := [{ grid := 0, slotK := -10 ^ 12, mu := 0, nPrb := 1, down := false, flows := [], chunks := 1, lrows := 1, pyrRows := 0, pyrMask := 0, allocs := [] }], syms := [{ grid := 0, chunk := 0, slotK := -10 ^ 12, sym := 0, openedAt := some (-10 ^ 27), closedAt := some (-10 ^ 27) }] } }, _, _, by decide, rfl, rfl, by decide, by decide, by decide, by decide, by decide, by decide⟩

theorem witness_TilesAndCorrectionsComplete_4 :
    ∃ (u : State) (y : ChunkSym) (L : Layout) (c : Int), u.stopped = false ∧ y = u.chunkSym 0 0 (-10 ^ 12) 0 ∧ u.layout? 0 (-10 ^ 12) = some L ∧ y.closedAt = some c ∧ c + slotLen L.mu ≤ u.gridNow ∧ y.stale = false ∧ y.next ≤ L.lrows := ⟨{ trn := { layouts := [{ grid := 0, slotK := -10 ^ 12, mu := 0, nPrb := 1, down := false, flows := [], chunks := 1, lrows := 1, pyrRows := 0, pyrMask := 0, allocs := [] }], syms := [{ grid := 0, chunk := 0, slotK := -10 ^ 12, sym := 0, openedAt := some (-10 ^ 27), closedAt := some (-10 ^ 27) }] } }, _, _, -10 ^ 27, by decide, rfl, rfl, by decide, by decide, by decide, by decide⟩

theorem witness_TilesAndCorrectionsComplete_5 :
    ∃ u : State, u.stopped = false ∧ ruPart u.gate.act 0 ≠ u.partOf 0 ∧ (u.ctx 0).live = true := ⟨{ rms := { ctx := [(0, { st := .idle })] }, gate := { act := [(regAddr ⟨.trnRu, 0⟩ 0x100, BitVec.ofNat 32 (2 ^ 5))] } }, by decide, by decide, by decide⟩

theorem witness_TilesAndCorrectionsComplete_6 :
    ∃ u : State, u.stopped = false ∧ ruPart u.gate.act 0 = u.partOf 0 := ⟨{ }, by decide, by decide⟩

theorem witness_TilesAndCorrectionsComplete_7 :
    ∃ (u : State) (y : Feedback), u.stopped = false ∧ u.trn.feedback = [y] ∧ y.due ≤ u.gridNow / slotLen 0 := ⟨{ trn := { feedback := [{ word := 0, due := -10 ^ 20 }] } }, _, by decide, rfl, by decide⟩

theorem witness_TilesAndCorrectionsComplete_8 :
    ∃ (u : State) (L : Layout), u.stopped = false ∧ u.gridCfg 0 0 0 1 = 1 ∧ u.gridCfg 0 0 1 1 = 1 ∧ SMap.get zeroUnlisted u.trn.dlNext 0 = 1 ∧ u.layout? 0 0 = some L ∧ (u.dlTile 0 0 0).rows.length + 1 < L.dlRows := ⟨{ gate := { act := [(regAddr ⟨.trnGrid, 0⟩ 0x100, 3)] }, trn := { dlNext := [(0, 1)], layouts := [{ grid := 0, slotK := 0, mu := 0, nPrb := 1, down := true, flows := [], chunks := 1, lrows := 2, pyrRows := 0, pyrMask := 0, allocs := [] }] } }, _, by decide, by decide, by decide, by decide, rfl, by decide⟩

theorem witness_TilesAndCorrectionsComplete_9 :
    ∃ (w : State) (L : Layout) (k : Int), w.stopped = false ∧ w.layout? 0 k = some L ∧ L.down = true ∧ 0 ∈ w.layoutRus L ∧ symStart L.mu k 3 - tenths (w.ruCfg 0 0x10 0 12) ≤ w.gridNow ∧ w.gridNow < symStart L.mu k 3 - tenths (w.ruCfg 0 0x10 12 12) ∧ (w.dlTile 0 k 3).rows.length < L.dlRows := ⟨{ gate := { act := [(regAddr ⟨.trnRu, 0⟩ 0x110, 0xFFF)] }, trn := { layouts := [{ grid := 0, slotK := -315964819000, mu := 0, nPrb := 1, down := true, flows := [some 0], chunks := 1, lrows := 2, pyrRows := 0, pyrMask := 0, allocs := [] }] } }, _, -315964819000, by decide, rfl, by decide, by decide, by decide, by decide, by decide⟩

theorem witness_TilesAndCorrectionsComplete_10 :
    ∃ (w : State) (L : Layout), w.stopped = false ∧ w.layout? 0 (-10 ^ 12) = some L ∧ L.down = true ∧ 0 ∈ w.layoutRus L ∧ symStart L.mu (-10 ^ 12) 0 - tenths (w.ruCfg 0 0x10 12 12) ≤ w.gridNow ∧ 0 ∉ (w.dlTile 0 (-10 ^ 12) 0).sentTo ∧ 0 ∉ (w.dlTile 0 (-10 ^ 12) 0).lateTo := ⟨{ trn := { layouts := [{ grid := 0, slotK := -10 ^ 12, mu := 0, nPrb := 1, down := true, flows := [some 0], chunks := 1, lrows := 1, pyrRows := 0, pyrMask := 0, allocs := [] }] } }, _, by decide, rfl, by decide, by decide, by decide, by decide, by decide⟩

end Sys2Proof.Tests.Slice0
end

section
/-!
PROOF. Pace windows, the voltage loop, PMBus telemetry, sensors and the power window (01 R23; 19 R457 to R463, R473): O21.
-/

namespace Sys2Proof.Machine

open Sys2Proof

/-! ### When the loop runs -/

@[simp] theorem State.advance_loopRuns (s : State) (x : Nat) : (s.advance x).loopRuns = s.loopRuns := by
  simp [State.loopRuns]

theorem State.vrOk_of_loopRuns {s : State} (h : s.loopRuns = true) : s.pwr.vrOk = true := by
  simp only [State.loopRuns, Bool.and_eq_true] at h
  exact h.1.2

/-! ### The power state after the shared operations -/

/-- A change of level writes at most the Almanac into the power state (R463). -/
theorem State.relevel_pwr (s : State) (old : Nat) : ∃ l, (s.relevel old).pwr = { s.pwr with almanac := l } := by
  have hp : (((s.bump pgPwr 0x50 none).raise pgPwr 8 none).platform 0 [s.level]).pwr = s.pwr :=
    Keeps.pwr_eq (r := (s.bump pgPwr 0x50 none).raise pgPwr 8 none) (State.platform_keeps (Keeps.refl _) : LeavesPwr _ _)
  unfold State.relevel
  split
  · exact ⟨s.pwr.almanac, rfl⟩
  · dsimp only
    split
    · simp [State.almanac, hp]
    · exact ⟨s.pwr.almanac, hp⟩

@[simp] theorem State.paceRecord_pwr (s : State) (n count : Nat) : (s.paceRecord n count).pwr = s.pwr := rfl

theorem State.event_paceRecord (s : State) (n count : Nat) (v : View) (p : Page) (b : Nat) (h : s.event v p b = true) :
    (s.paceRecord n count).event v p b = true :=
  State.event_record s (pgPace n) p 32 b [n, count] v h

/-- A failed transaction is counted, and the third in a row suspends the loop (R459). -/
theorem State.vrFailed_pwr (s : State) : s.vrFailed.pwr =
    { s.pwr with pmbFails := s.pwr.pmbFails + 1, vrOk := s.pwr.vrOk && decide (s.pwr.pmbFails + 1 < 3) } := by
  unfold State.vrFailed
  dsimp only
  split <;> simp [*]

theorem State.vrFailed_vrOk (s : State) (h : s.pwr.vrOk = true) : s.vrFailed.pwr.vrOk = decide (s.pwr.pmbFails + 1 < 3) := by
  rw [State.vrFailed_pwr, h, Bool.true_and]

/-- A PMBus transaction is no function's traffic, so it always leaves the device. -/
@[simp] theorem State.emit_pmbus_out (s : State) (code x : Nat) :
    (s.emit (Sent.pmbus code x)).hub.out = s.hub.out ++ [Sent.pmbus code x] := rfl

/-! ### The report of a pace window (R23) -/

/-- What PACE_WINDOW_END does once the count is held: the floor event where the count is low, and the record that is then due at once,
or with every fourth window. -/
def State.paceReport (s : State) (n count : Nat) (part : Option Nat) (low : Bool) (windows : Nat) : State :=
  let s1 := if low then s.raise (pgPace n) 8 part else s
  if low ∨ 4 ≤ windows then s1.paceRecord n count else s1

@[simp] theorem State.paceReport_pwr (s : State) (n count : Nat) (part : Option Nat) (low : Bool) (windows : Nat) :
    (s.paceReport n count part low windows).pwr = s.pwr := by
  unfold State.paceReport
  dsimp only
  split <;> split <;> rfl

theorem State.event_paceReport_low (s : State) (n count : Nat) (part : Option Nat) (windows : Nat) :
    (s.paceReport n count part true windows).event .pf (pgPace n) 8 = true :=
  (s.raise (pgPace n) 8 part).event_paceRecord n count .pf (pgPace n) 8 (s.event_raise_self (pgPace n) part (by decide))

/-! ### One evaluation of the loop (R458) -/

/-- Below its floor VCORE rises by one step once 20 µs have passed since the last raise, and else stays. -/
theorem State.loopEval_vcore_below_floor (s : State) (h : s.pwr.vcore < s.vFloor) :
    (s.loopEval true).pwr.vcore = if s.since s.pwr.raisedAt 20 then min 850 (s.pwr.vcore + 5) else s.pwr.vcore := by
  unfold State.loopEval
  dsimp only
  rw [if_pos h]
  exact apply_ite (fun u : State => u.pwr.vcore) _ _ _

/-- At or above its floor VCORE stays, rises by one step, or falls by one step but not below the floor. -/
theorem State.loopEval_vcore_at_floor (s : State) (h : s.vFloor ≤ s.pwr.vcore) :
    (s.loopEval true).pwr.vcore = s.pwr.vcore ∨ (s.loopEval true).pwr.vcore = min 850 (s.pwr.vcore + 5) ∨
      (s.loopEval true).pwr.vcore = max s.vFloor (s.pwr.vcore - 5) := by
  unfold State.loopEval
  dsimp only
  rw [if_neg (Nat.not_lt.2 h)]
  split
  case h_1 => exact .inl rfl -- no Plot has a pace record
  case h_2 low _ =>
    split
    case isTrue => -- the lowest pace misses the target: a raise, unless VCORE is at 850 mV
      split
      · split
        · exact .inr (.inl rfl)
        · exact .inl rfl
      · split <;> exact .inl rfl
    case isFalse =>
      split
      case isTrue => -- every pace is high: a lowering, once that has lasted 1 ms
        split
        · exact .inl rfl
        · split
          · exact .inr (.inr rfl)
          · exact .inl rfl
      case isFalse => exact .inl rfl

/-- An evaluation moves VCORE by at most one step. -/
theorem State.loopEval_vcore_step (s : State) :
    (s.loopEval true).pwr.vcore = s.pwr.vcore ∨ (s.loopEval true).pwr.vcore = min 850 (s.pwr.vcore + 5) ∨
      (s.loopEval true).pwr.vcore = max s.vFloor (s.pwr.vcore - 5) := by
  rcases Nat.lt_or_ge s.pwr.vcore s.vFloor with h | h
  · rw [s.loopEval_vcore_below_floor h]
    split
    · exact .inr (.inl rfl)
    · exact .inl rfl
  · exact s.loopEval_vcore_at_floor h

/-! ### Sensor readings -/

/-- After the readings have been put, one by one from sensor 0, each sensor reads its own (R462). -/
theorem get_put_readings (temps : List Int) (m : SMap Int) (i : Nat) (h : i < temps.length) :
    SMap.get intUnlisted (temps.zipIdx.foldl (fun m e => SMap.put intUnlisted m e.2 e.1) m) i = temps[i] := by
  have hn : (temps.zipIdx.map Prod.snd).Nodup := by
    rw [List.zipIdx_map_snd]
    exact List.nodup_range'
  have hm : (temps[i], i) ∈ temps.zipIdx := List.mk_mem_zipIdx_iff_getElem?.2 (List.getElem?_eq_getElem h)
  exact SMap.get_foldl_put intUnlisted Prod.snd Prod.fst temps.zipIdx m hn _ hm

/-! ### What each command answers on a running device -/

/-- PACE_WINDOW_END of a Plot whose monitor runs holds the window's count and the minimum, which is stored one higher so that 0 stands
for no window since SNAP, and then reports the window (R23). -/
theorem exec_paceWindowEnd_monitored (plot : Plot) (count x : Nat) {s : State} (hs : s.stopped = false)
    (hm : s.monitorOn plot.val = true) : exec (.paceWindowEnd plot count x) s = .next
      (({ s.advance x with pwr := { s.pwr with
          paceNow := SMap.put zeroUnlisted s.pwr.paceNow plot.val count
          paceMin := SMap.put zeroUnlisted s.pwr.paceMin plot.val
            (if SMap.get zeroUnlisted s.pwr.paceMin plot.val = 0 then count + 1
             else min (SMap.get zeroUnlisted s.pwr.paceMin plot.val) (count + 1))
          paceWin := SMap.put zeroUnlisted s.pwr.paceWin plot.val ((SMap.get zeroUnlisted s.pwr.paceWin plot.val + 1) % 4) } } :
        State).paceReport plot.val count (s.plotPart plot.val) (decide (count < s.cfg (pgPace plot.val) 0x100 0 11))
          (SMap.get zeroUnlisted s.pwr.paceWin plot.val + 1)) := by
  refine (congrArg Host.Outcome.next (State.live_of s _ hs)).trans ?_
  rw [← State.advance_cfg s x]
  exact congrArg Host.Outcome.next (if_pos hm)

/-- VOLTAGE_LOOP_EVAL of a loop that runs is one evaluation, at the command's time (R458). -/
theorem exec_voltageLoopEval_runs (ok : Bool) (x : Nat) {s : State} (hs : s.stopped = false) (hl : s.loopRuns = true) :
    exec (.voltageLoopEval ok x) s = .next ((s.advance x).loopEval ok) := by
  refine (congrArg Host.Outcome.next (State.live_of s _ hs)).trans ?_
  simp [hl]

/-- VR_TELEMETRY_POLL that the regulator answers holds the current and sends the three readings, under PMBus's command codes (R457;
log 77). -/
theorem exec_vrTelemetryPoll_ok (vout iout : Nat) (temp : Int) (x : Nat) {s : State} (hs : s.stopped = false) (hl : s.loopRuns = true) :
    exec (.vrTelemetryPoll true vout iout temp x) s = .next
      (((({ s.advance x with pwr := { s.pwr with iout := iout, pmbFails := 0 } } : State).emit (Sent.pmbus 0x8B vout)).emit
        (Sent.pmbus 0x8C iout)).emit (Sent.pmbus 0x8D (unsignedOf 16 temp))) := by
  refine (congrArg Host.Outcome.next (State.live_of s _ hs)).trans ?_
  simp [hl]

/-- VR_TELEMETRY_POLL that the regulator does not answer is one failed transaction (R459). -/
theorem exec_vrTelemetryPoll_failed (vout iout : Nat) (temp : Int) (x : Nat) {s : State} (hs : s.stopped = false)
    (hl : s.loopRuns = true) : exec (.vrTelemetryPoll false vout iout temp x) s = .next (s.advance x).vrFailed := by
  refine (congrArg Host.Outcome.next (State.live_of s _ hs)).trans ?_
  simp [hl]

/-- VR_RETRY that succeeds resumes a suspended loop, with no failure counted (R459). -/
theorem exec_vrRetry_suspended (x : Nat) {s : State} (hs : s.stopped = false) (hl : s.pwr.loop = true) (hv : s.pwr.vrOk = false)
    (hg : s.hub.gkHalted = false) :
    exec (.vrRetry true x) s = .next { s.advance x with pwr := { s.pwr with vrOk := true, pmbFails := 0 } } := by
  refine (congrArg Host.Outcome.next (State.live_of s _ hs)).trans ?_
  simp [hl, hv, hg]

/-- PMB_ALERT that the regulator answers sends STATUS_WORD (R457; log 77). -/
theorem exec_pmbAlert_ok (status x : Nat) {s : State} (hs : s.stopped = false) (hl : s.loopRuns = true) :
    exec (.pmbAlert true status x) s = .next
      (({ s.advance x with pwr := { s.pwr with pmbFails := 0 } } : State).emit (Sent.pmbus 0x79 status)) := by
  refine (congrArg Host.Outcome.next (State.live_of s _ hs)).trans ?_
  simp [hl]

/-- THERMAL_SAMPLE while Groundskeeper's core runs: the readings, the rails, and the level of the hottest sensor (R462). -/
theorem exec_thermalSample_pwr (temps : List Int) (volts : List Nat) (x : Nat) {s : State} (hs : s.stopped = false)
    (hg : s.hub.gkHalted = false) : ∃ t, exec (.thermalSample temps volts x) s = .next t ∧ t.pwr.volts = volts ∧
      t.pwr.thermal = thermalLevel s.pwr.thermal (temps.foldl max (-2048)) ∧
      t.pwr.temp = temps.zipIdx.foldl (fun m e => SMap.put intUnlisted m e.2 e.1) s.pwr.temp := by
  refine ⟨_, congrArg Host.Outcome.next (State.live_of s _ hs), ?_⟩
  simp only [State.advance_gkHalted, hg]
  obtain ⟨l, hl⟩ := State.relevel_pwr _ _
  rw [if_neg (by decide), hl]
  exact ⟨rfl, rfl, rfl⟩

/-- POWER_WINDOW while Groundskeeper's core runs: the means, and the power level one up above the cap, one down below 95 % of it (R463). -/
theorem exec_powerWindow_pwr (watts amps x : Nat) {s : State} (hs : s.stopped = false) (hg : s.hub.gkHalted = false) :
    ∃ t, exec (.powerWindow watts amps x) s = .next t ∧ t.pwr.meanW = watts ∧ t.pwr.meanA = amps ∧
      t.pwr.power = (if s.cfg pgPwr 0x100 11 10 < watts then min 3 (s.pwr.power + 1)
        else if 100 * watts < 95 * s.cfg pgPwr 0x100 11 10 then s.pwr.power - 1 else s.pwr.power) := by
  refine ⟨_, congrArg Host.Outcome.next (State.live_of s _ hs), ?_⟩
  simp only [State.advance_gkHalted, State.advance_cfg, hg]
  obtain ⟨l, hl⟩ := State.relevel_pwr _ _
  rw [if_neg (by decide), hl]
  exact ⟨rfl, rfl, rfl⟩

/-- PWR_TEMP_Q of a view whose writes the device takes (R473). -/
theorem exec_pwrTempQ_taken {v : View} (x : Word) {s : State} (h : s.takes v = true) :
    exec (.pwrTempQ v x) s =
      .next { s with pwr := { s.pwr with tempQ := SMap.put zeroUnlisted s.pwr.tempQ v.no (x.toNat % 32) } } :=
  congrArg Host.Outcome.next ((State.live_takes h _).trans (State.written_of h _))

/-- Settles O21, command by command: what each answers on a running device, and what its shared operations leave of the power state. -/
theorem powerTelemetryCompletes : Obligations.PowerTelemetryCompletes := by
  refine ⟨fun plot count x s hs hm => ?_, fun x s hs hl => ?_,
    fun vout iout temp x s hs hl => ⟨?_, ?_⟩, fun x s hs hl hv hg => ?_, fun status x s hs hl => ?_,
    fun temps volts x s hs hg => ?_, fun watts amps x s hs hg => exec_powerWindow_pwr watts amps x hs hg, fun v x s h => ?_⟩
  · refine ⟨_, exec_paceWindowEnd_monitored plot count x hs hm, by simp, by simp, fun hlow => ?_⟩
    rw [decide_eq_true hlow]
    exact State.event_paceReport_low _ _ _ _ _
  · refine ⟨_, exec_voltageLoopEval_runs true x hs hl, ?_, fun hlow hsince => ?_⟩
    · exact (s.advance x).loopEval_vcore_step
    · exact ((s.advance x).loopEval_vcore_below_floor hlow).trans (if_pos hsince)
  · exact ⟨_, exec_vrTelemetryPoll_ok vout iout temp x hs hl, rfl, rfl, by simp⟩
  · have hv : s.pwr.vrOk = true := State.vrOk_of_loopRuns hl
    exact ⟨_, exec_vrTelemetryPoll_failed vout iout temp x hs hl, by simp [State.vrFailed_pwr], (s.advance x).vrFailed_vrOk hv⟩
  · exact ⟨_, exec_vrRetry_suspended x hs hl hv hg, rfl, rfl⟩
  · exact ⟨_, exec_pmbAlert_ok status x hs hl, by simp⟩
  · obtain ⟨t, ht, hvolts, hthermal, htemp⟩ := exec_thermalSample_pwr temps volts x hs hg
    exact ⟨t, ht, hvolts, hthermal, fun i h => htemp ▸ get_put_readings temps s.pwr.temp i h⟩
  · exact ⟨_, exec_pwrTempQ_taken x h, SMap.get_put_self zeroUnlisted _ _ _⟩

end Sys2Proof.Machine
end

section
/-!
PROOF. NaNs of the floating-point formats (02 R34, R35): O12.
-/

namespace Sys2Proof.Machine

open Sys2Proof

/-! ### Reading a NaN -/

theorem elemNum_of_isFloat {c : Nat} (h : isFloat c = true) (w : Nat) : elemNum c w = floatNum c w := by
  simp only [isFloat, decide_eq_true_eq] at h
  have hi : isInt c = false := decide_eq_false (by omega)
  simp [elemNum, hi]

/-- An encoding of E4M3 is a NaN where its exponent and its fraction are all ones, whatever its sign (R34). -/
theorem floatNum_e4m3_nan {w : Nat} (hx : fieldOf w 3 4 = 15) (hf : fieldOf w 0 3 = 7) : floatNum 4 w = .nan :=
  if_pos ⟨rfl, hx, hf⟩

/-- An encoding of the other formats is a NaN where its exponent is all ones and its fraction is not 0 (R34). -/
theorem floatNum_nan {c w : Nat} (hc : c ≠ 4) (hx : fieldOf w (fFracBits c) (fExpBits c) = 2 ^ fExpBits c - 1)
    (hf : fieldOf w 0 (fFracBits c) ≠ 0) : floatNum c w = .nan := by
  unfold floatNum
  dsimp only
  rw [if_neg fun h => hc h.1, if_pos ⟨hc, hx⟩, if_neg hf]

/-- In E4M3 the exponent and the fraction are all ones exactly where the seven bits below the sign are. -/
theorem e4m3_fields_all_ones {w : Nat} (h : fieldOf w 0 7 = 0x7F) : fieldOf w 3 4 = 15 ∧ fieldOf w 0 3 = 7 := by
  simp only [fieldOf, Nat.shiftRight_eq_div_pow] at h ⊢
  omega

/-! ### Writing a NaN -/

/-- A NaN is written as the format's one canonical NaN, so no payload outlives a conversion (R35). -/
theorem convert_nan {c : Nat} (h : isFloat c = true) (zp : Int) : (convert c zp .nan).1 = fNan c := by
  simp [convert, h]

/-- Settles O12: the writer sees of a NaN only that it is one, and the reader takes every NaN encoding for it. -/
theorem canonicalNaN : Obligations.CanonicalNaN := by
  refine ⟨fun zp => ⟨?_, ?_, ?_, ?_, ?_⟩, fun c w hc hx hf => ?_, fun w hw => ?_⟩
  · exact convert_nan (c := 4) rfl zp
  · exact convert_nan (c := 5) rfl zp
  · exact convert_nan (c := 6) rfl zp
  · exact convert_nan (c := 7) rfl zp
  · exact convert_nan (c := 8) rfl zp
  · simp only [List.mem_cons, List.not_mem_nil, or_false] at hc
    have hfl : isFloat c = true := decide_eq_true (by omega)
    have hn : elemNum c w = .nan := (elemNum_of_isFloat hfl w).trans (floatNum_nan (by omega) hx hf)
    exact ⟨hn, fun zp => hn ▸ convert_nan hfl zp⟩
  · obtain ⟨hx, hf⟩ := e4m3_fields_all_ones hw
    have hn : elemNum 4 w = .nan := (elemNum_of_isFloat rfl w).trans (floatNum_e4m3_nan hx hf)
    exact ⟨hn, fun zp => hn ▸ convert_nan (c := 4) rfl zp⟩

end Sys2Proof.Machine
end

section
/-!
PROOF. Passes, tile loads and the west queue of a Big Top (02 R67; 03 R72, R73, R77, R82, R84, R87): O31.
-/

namespace Sys2Proof.Machine

open Sys2Proof

@[simp] theorem State.btp_advance (s : State) (x n : Nat) : (s.advance x).btp n = s.btp n := rfl

/-- An operation that leaves the Plots leaves every Big Top. -/
theorem State.btp_of_leavesPlots {s t : State} (k : LeavesPlots s t) (n : Nat) : t.btp n = s.btp n :=
  ((State.SameBtp.refl s).left k) n

@[simp] theorem State.btp_bump (s : State) (p : Page) (off : Nat) (o : Option Nat) (n : Nat) : (s.bump p off o).btp n = s.btp n :=
  State.btp_of_leavesPlots (State.bump_keeps (Keeps.refl s)) n

@[simp] theorem State.btp_bumpBy (s : State) (p : Page) (off : Nat) (o : Option Nat) (k n : Nat) :
    (s.bumpBy p off o k).btp n = s.btp n :=
  State.btp_of_leavesPlots (State.bumpBy_keeps (Keeps.refl s)) n

@[simp] theorem State.btp_raise (s : State) (p : Page) (b : Nat) (o : Option Nat) (n : Nat) : (s.raise p b o).btp n = s.btp n :=
  State.btp_of_leavesPlots (State.raise_keeps (Keeps.refl s)) n

@[simp] theorem State.btp_btpFault (s : State) (m kind action : Nat) (ctx : Option Nat) (detail n : Nat) :
    (s.btpFault m kind action ctx detail).btp n = s.btp n :=
  State.btp_of_leavesPlots (State.btpFault_keeps (Keeps.refl s)) n

/-! ### A pass that waits for nothing -/

/-- The only pass that waits, without a swap and with no diagnostic running or staged, issues (R77). -/
theorem State.pumpBtp_single {s : State} {n : Nat} {q : PassReq} (hq : (s.btp n).queue = [q]) (hswap : pSwap q.desc = false)
    (hloc : (s.btp n).localising = false) (hpend : (s.btp n).localisePending = false) :
    s.pumpBtp n = (s.modBtp n fun b => { b with queue := [] }).runPass n q := by
  have hready : s.passReady n q = true := by simp [State.passReady, State.localiseDue, hswap, hloc, hpend]
  simp [State.pumpBtp, State.pumpPasses, hq, hswap, hready]

/-- PASS on a Plot that is not Pruned joins the passes that wait, which issue as far as they may. -/
theorem exec_pass_unpruned (plot : Plot) (c : Ctx) (entry : Fin 32) (d flip x : Nat) {s : State} (hs : s.stopped = false)
    (hp : s.pruned plot.val = false) : exec (.pass plot c entry d flip x) s = .next
      (((s.advance x).modBtp plot.val fun b =>
        { b with queue := b.queue ++ [{ ctx := c.val, entry := entry.val, desc := d, flip := flip }] }).pumpBtp plot.val) := by
  have hp' : ¬ (s.advance x).pruned plot.val = true := fun h => Bool.false_ne_true (hp.symm.trans h)
  exact (congrArg Host.Outcome.next (State.live_of s _ hs)).trans (congrArg Host.Outcome.next (if_neg hp'))

/-- PASS without a swap, where nothing waits and no diagnostic runs or is staged, issues at once, on the Big Top as it was. -/
theorem exec_pass_issues (plot : Plot) (c : Ctx) (entry : Fin 32) (d flip x : Nat) {s : State} (hs : s.stopped = false)
    (hp : s.pruned plot.val = false) (hq : (s.btp plot.val).queue = []) (hloc : (s.btp plot.val).localising = false)
    (hpend : (s.btp plot.val).localisePending = false) (hswap : pSwap d = false) :
    ∃ u : State, u.btp plot.val = s.btp plot.val ∧ exec (.pass plot c entry d flip x) s = .next
      (u.runPass plot.val { ctx := c.val, entry := entry.val, desc := d, flip := flip }) := by
  refine ⟨_, ?_, (exec_pass_unpruned plot c entry d flip x hs hp).trans (congrArg Host.Outcome.next
    (State.pumpBtp_single ?_ hswap ?_ ?_))⟩
  · simp [← hq]
  · simp [hq]
  · simpa using hloc
  · simpa using hpend

/-! ### The end of a tile load (R73, R84) -/

/-- The shadow tile after its load: latched from the rows its window delivered, or left invalid where one was not delivered. -/
def Tile.loaded (y : Tile) (flip : Nat) : Option (List Nat) → Tile
  | some l => y.latch (tileRows y.fmt y.extra l) flip
  | none => { y with valid := false }

/-- A load leaves what the tile was loaded from. -/
theorem Tile.loaded_source (y : Tile) (flip : Nat) (o : Option (List Nat)) :
    (y.loaded flip o).tag = y.tag ∧ (y.loaded flip o).row = y.row ∧ (y.loaded flip o).fmt = y.fmt := by
  cases o with
  | none => exact ⟨rfl, rfl, rfl⟩
  | some l => exact ⟨rfl, rfl, rfl⟩

/-- The tile's rows read, and the tile put into the shadow bank. -/
def State.shadowLoaded (s : State) (n : Nat) (y : Tile) (flip : Nat) : State :=
  (s.readTile n y).2.modBtp n fun b => { b with shadow := some (y.loaded flip (s.readTile n y).1), loading := false }

/-- What the compare at the end of a load reports: a mismatch sets SUSPECT; one that the reload cured is a record only. -/
def State.loadReported (s : State) (n : Nat) (y : Tile) (flip : Nat) (again : Bool) (part : Option Nat) : State :=
  if flip ≠ 0 then ((s.raise (pgBtp n) 10 part).setSuspect n).btpFault n 3 2 (some y.ctx) 0
  else if again then s.btpFault n 3 1 (some y.ctx) 0
  else s

theorem State.btp_shadowLoaded (s : State) (n : Nat) (y : Tile) (flip : Nat) : (s.shadowLoaded n y flip).btp n =
    { s.btp n with shadow := some (y.loaded flip (s.readTile n y).1), loading := false } := by
  have hread : (s.readTile n y).2.btp n = s.btp n := (State.readTile_same (.refl s)).1 n
  simp only [State.shadowLoaded, State.btp_modBtp, hread]

/-- SUSPECT is set, and of the rest of the Big Top at most the staged localisation changes (R90). -/
theorem State.btp_setSuspect (s : State) (n : Nat) : ∃ p a, (s.setSuspect n).btp n =
    { s.btp n with suspect := true, localisePending := p, localiseAt := a } := by
  unfold State.setSuspect
  split
  case isTrue h => exact ⟨_, _, by rw [← h]⟩
  case isFalse =>
    simp only [State.stageLocalise, State.btp_modBtp]
    split
    · exact ⟨_, _, rfl⟩
    · exact ⟨_, _, rfl⟩

theorem State.btp_loadReported (s : State) (n : Nat) (y : Tile) (flip : Nat) (again : Bool) (part : Option Nat) :
    ∃ p a, (s.loadReported n y flip again part).btp n =
      { s.btp n with suspect := (s.btp n).suspect || decide (flip ≠ 0), localisePending := p, localiseAt := a } := by
  unfold State.loadReported
  by_cases hf : flip = 0
  · refine ⟨(s.btp n).localisePending, (s.btp n).localiseAt, ?_⟩
    cases again <;> simp [hf]
  · obtain ⟨p, a, h⟩ := (s.raise (pgBtp n) 10 part).btp_setSuspect n
    exact ⟨p, a, by simp [hf, h]⟩

/-- TILE_LOAD_COMPLETE whose first compare mismatches starts the one reload (R84). -/
theorem exec_tileLoadComplete_reloads (plot : Plot) {flip : Nat} (x : Nat) {s : State} {y : Tile} (hs : s.stopped = false)
    (hl : (s.btp plot.val).loading = true) (hy : (s.btp plot.val).shadow = some y) (hf : flip ≠ 0)
    (hr : (s.btp plot.val).reloaded = false) : exec (.tileLoadComplete plot flip x) s = .next
      (((s.advance x).bump (pgBtp plot.val) 0x78 (some ((s.advance x).partOf y.ctx))).modBtp plot.val fun b =>
        { b with reloaded := true }) := by
  refine (congrArg Host.Outcome.next (State.live_of s _ hs)).trans (congrArg Host.Outcome.next ?_)
  simp [hl, hy, hf, hr]

/-- TILE_LOAD_COMPLETE whose compare matches, or mismatches after the reload, ends the load; then the passes that wait issue as far as
they may (R73, R84). -/
theorem exec_tileLoadComplete_ends (plot : Plot) {flip : Nat} (x : Nat) {s : State} {y : Tile} (hs : s.stopped = false)
    (hl : (s.btp plot.val).loading = true) (hy : (s.btp plot.val).shadow = some y)
    (h : flip = 0 ∨ (s.btp plot.val).reloaded = true) :
    ∃ u : State, u.btp plot.val = s.btp plot.val ∧ exec (.tileLoadComplete plot flip x) s = .next
      (((u.shadowLoaded plot.val y flip).loadReported plot.val y flip (s.btp plot.val).reloaded
        (some ((s.advance x).partOf y.ctx))).pumpBtp plot.val) := by
  refine ⟨if flip ≠ 0 then (s.advance x).bump (pgBtp plot.val) 0x78 (some ((s.advance x).partOf y.ctx)) else s.advance x, ?_,
    (congrArg Host.Outcome.next (State.live_of s _ hs)).trans (congrArg Host.Outcome.next ?_)⟩
  · split
    · simp
    · simp
  · have hend : ¬ (flip ≠ 0 ∧ (s.btp plot.val).reloaded = false) := by
      rintro ⟨hf, hr⟩
      simp [hf, hr] at h
    have hl' : ((s.advance x).btp plot.val).loading = true := hl
    have hy' : ((s.advance x).btp plot.val).shadow = some y := hy
    simp only [hl', hy']
    exact if_neg hend

/-- What the end of a load leaves of a Big Top where no pass waits. -/
theorem State.btp_loadEnd (s : State) (n : Nat) (y : Tile) (flip : Nat) (again : Bool) (part : Option Nat)
    (hq : (s.btp n).queue = []) :
    ∃ p a, (((s.shadowLoaded n y flip).loadReported n y flip again part).pumpBtp n).btp n =
      { s.btp n with
        shadow := some (y.loaded flip (s.readTile n y).1), loading := false
        suspect := (s.btp n).suspect || decide (flip ≠ 0), localisePending := p, localiseAt := a } := by
  obtain ⟨p, a, h⟩ := (s.shadowLoaded n y flip).btp_loadReported n y flip again part
  rw [State.btp_shadowLoaded] at h
  refine ⟨p, a, ?_⟩
  rw [State.pumpBtp_nil _ n (by rw [h]; exact hq), h]

/-! ### The west queue runs empty (R82) -/

/-- WEST_QUEUE_EMPTY in a run: the rows that remain are counted again, and a stop ramp begins (R82; its length log 207). -/
theorem exec_westQueueEmpty_inRun (plot : Plot) (left x : Nat) {s : State} (hs : s.stopped = false)
    (hr : (s.btp plot.val).inRun = true) :
    ∃ t, exec (.westQueueEmpty plot left x) s = .next t ∧ t.btp plot.val =
      { s.btp plot.val with
        runRows := min left (s.btp plot.val).runRows
        ramps := ((s.btp plot.val).ramps.filter fun r => decide (max s.sdl.ref x < r.2)) ++
          [(max s.sdl.ref x, max s.sdl.ref x + paceTime 32)] } := by
  refine ⟨_, (congrArg Host.Outcome.next (State.live_of s _ hs)).trans (congrArg Host.Outcome.next (if_pos hr)), ?_⟩
  simp [State.advance_ref]

/-- WEST_QUEUE_EMPTY outside a run: only time passes. -/
theorem exec_westQueueEmpty_idle (plot : Plot) (left x : Nat) {s : State} (hs : s.stopped = false)
    (hr : (s.btp plot.val).inRun = false) : exec (.westQueueEmpty plot left x) s = .next (s.advance x) := by
  have hr' : ¬ ((s.advance x).btp plot.val).inRun = true := fun h => Bool.false_ne_true (hr.symm.trans h)
  exact (congrArg Host.Outcome.next (State.live_of s _ hs)).trans (congrArg Host.Outcome.next (if_neg hr'))

/-- Settles O31: PASS by what a pass that issues at once leaves, TILE_LOAD_COMPLETE by its two ends, WEST_QUEUE_EMPTY in and outside a
run. -/
theorem bigTopCompletes : Obligations.BigTopCompletes := by
  refine ⟨fun plot c entry d flip x s tile hs hp hq hloc hpend hswap hfor hmis hact hval => ?_,
    fun plot flip x s y hs hl hy hq => ?_, fun plot left x s hs => ?_⟩
  · obtain ⟨u, hu, hexec⟩ := exec_pass_issues plot c entry d flip x hs hp hq hloc hpend hswap
    rw [← hu] at hq hfor hmis hact ⊢
    obtain ⟨hnum, howner, hlog, hqueue⟩ := u.runPass_head plot.val { ctx := c.val, entry := entry.val, desc := d, flip := flip } tile
      hswap hfor hmis hact hval
    exact ⟨_, hexec, hnum, howner, hlog, hqueue.trans hq⟩
  · by_cases hend : flip = 0 ∨ (s.btp plot.val).reloaded = true
    · obtain ⟨u, hu, hexec⟩ := exec_tileLoadComplete_ends plot x hs hl hy hend
      obtain ⟨p, a, hb⟩ := u.btp_loadEnd plot.val y flip (s.btp plot.val).reloaded (some ((s.advance x).partOf y.ctx)) (hu ▸ hq)
      refine ⟨_, hexec, fun hf hr => absurd hend (by simp [hf, hr]), fun _ => ?_⟩
      rw [hb]
      exact ⟨rfl, ⟨_, rfl, y.loaded_source flip _⟩, fun hf => by simp [hf]⟩
    · obtain ⟨hf, hr⟩ := not_or.1 hend
      refine ⟨_, exec_tileLoadComplete_reloads plot x hs hl hy hf (Bool.eq_false_iff.2 hr), fun _ _ => ?_, fun h => absurd h hend⟩
      simp [hl]
  · cases hr : (s.btp plot.val).inRun with
    | true =>
      obtain ⟨t, hexec, hb⟩ := exec_westQueueEmpty_inRun plot left x hs hr
      refine ⟨t, hexec, fun _ => ?_, fun h => absurd h (by decide)⟩
      rw [hb]
      exact ⟨rfl, hr, by simp⟩
    | false => exact ⟨_, exec_westQueueEmpty_idle plot left x hs hr, fun h => absurd h (by decide), fun _ => rfl⟩

end Sys2Proof.Machine
end

section
/-!
PROOF. Row verdicts, replays, localisation and the spare map of a Big Top (03 R85, R87, R88, R90, R92): O32.
-/

namespace Sys2Proof.Machine

open Sys2Proof

/-! ### What the operations leave of a Big Top -/

@[simp] theorem BigTop.bank_modBank_self (b : BigTop) (k : Nat) (f : BankLog → BankLog) : (b.modBank k f).bank k = f (b.bank k) := by
  unfold BigTop.bank BigTop.modBank
  split <;> rfl

@[simp] theorem BigTop.queue_modBank (b : BigTop) (k : Nat) (f : BankLog → BankLog) : (b.modBank k f).queue = b.queue := by
  unfold BigTop.modBank
  split <;> rfl

@[simp] theorem State.btp_ite (c : Prop) [Decidable c] (s t : State) (n : Nat) :
    (if c then s else t).btp n = if c then s.btp n else t.btp n :=
  apply_ite (fun u : State => u.btp n) c s t

@[simp] theorem State.btp_pumpSieve (s : State) (m n : Nat) : (s.pumpSieve m).btp n = s.btp n :=
  State.pumpSieve_btp (.refl s) n

@[simp] theorem State.btp_verdictLine (s : State) (p : Fin 8) (k n : Nat) : (s.verdictLine p k).btp n = s.btp n :=
  State.btp_of_leavesPlots (State.verdictLine_keeps (Keeps.refl s)) n

@[simp] theorem State.btp_tightGrant (s : State) (c step kind cost n : Nat) : (s.tightGrant c step kind cost).2.btp n = s.btp n :=
  State.btp_of_leavesPlots (State.tightGrant_keeps (Keeps.refl s)) n

/-- A bank that takes Safety Net is no longer replaying; its flag stays (R88). -/
@[simp] theorem State.btp_takeNet (s : State) (n k c : Nat) :
    (s.takeNet n k c).btp n = (s.btp n).modBank k fun y => { y with net := true, replaying := false } := by
  simp [State.takeNet]

/-! ### Row verdicts (R85) -/

/-- ROW_VERDICT takes the next awaited verdict and flags the bank where the row is compared and mismatches; no pass waits to issue. -/
theorem exec_rowVerdict_reached (plot : Plot) (bank : Fin 2) (onC onS : Int) {s : State} {r : RowCheck} {rest : List RowCheck}
    (hs : s.stopped = false) (hq : (s.btp plot.val).queue = []) (hc : ((s.btp plot.val).bank bank.val).checks = r :: rest) :
    ∃ t, exec (.rowVerdict plot bank onC onS) s = .next t ∧ t.btp plot.val = (s.btp plot.val).modBank bank.val fun y =>
      { y with checks := rest, flagged := y.flagged || (!r.skip && !(s.btp plot.val).rowOvf r && r.mismatch onC onS) } := by
  refine ⟨_, congrArg Host.Outcome.next (State.live_of s _ hs), ?_⟩
  simp only [hc]
  rw [State.pumpBtp_nil _ _ (by simp [hq])]
  simp

/-! ### Replays (R87, R88) -/

/-- Whether a flagged bank may not be replayed at all: more passes came than its log holds, one of them asks for no
replay, or SUSPECT is set (R87, R88). -/
def BigTop.noReplay (b : BigTop) (k : Nat) : Prop :=
  (b.bank k).tooMany = true ∨ ((b.bank k).log.any fun p => pNoReplay p.desc) = true ∨ b.suspect = true

/-- The read-out of `q` has reached its bank, which is flagged and neither replays nor has taken Safety Net. -/
structure State.AtFlagged (s : State) (n : Nat) (q : ChainReq) : Prop where
  waiting : (s.siv n).waiting = some q
  flagged : ((s.btp n).bank (cBank q.desc)).flagged = true
  net : ((s.btp n).bank (cBank q.desc)).net = false
  replaying : ((s.btp n).bank (cBank q.desc)).replaying = false
  needs : q.needs = 0

/-- REPLAY_REQUEST at a flagged bank that may not be replayed: it takes Safety Net without asking Tightrope. -/
theorem exec_replayRequest_refused (plot : Plot) (x : Nat) {s : State} {q : ChainReq} (hs : s.stopped = false)
    (h : s.AtFlagged plot.val q) (hno : (s.btp plot.val).noReplay (cBank q.desc)) :
    exec (.replayRequest plot x) s = .next
      (((s.advance x).btpFault plot.val 2 8 (some q.ctx) 0).takeNet plot.val (cBank q.desc) q.ctx) := by
  refine (congrArg Host.Outcome.next (State.live_of s _ hs)).trans (congrArg Host.Outcome.next ?_)
  have hw : ((s.advance x).siv plot.val).waiting = some q := h.waiting
  simp only [hw]
  exact (if_pos ⟨h.flagged, h.net, h.replaying, h.needs⟩).trans (if_pos hno)

/-- What Tightrope's answer to a request for bank `k`'s replay leaves: the replay starts at its cost, or the bank takes Safety Net. -/
def State.replayAnswered (s : State) (n k cost : Nat) (q : ChainReq) : State :=
  let r := s.tightGrant q.ctx q.step 0 cost
  if r.1 then
    (r.2.modBtp n fun b => b.modBank k fun y => { y with replaying := true, cost := cost, step := q.step }).bump (pgBtp n) 0x68
      (some (s.partOf q.ctx))
  else (r.2.btpFault n 2 8 (some q.ctx) 0).takeNet n k q.ctx

theorem State.replayAnswered_granted {s : State} (n k : Nat) {cost : Nat} {q : ChainReq}
    (h : (s.tightGrant q.ctx q.step 0 cost).1 = true) :
    (((s.replayAnswered n k cost q).btp n).bank k).replaying = true ∧ (((s.replayAnswered n k cost q).btp n).bank k).cost = cost := by
  simp [State.replayAnswered, h]

theorem State.replayAnswered_denied {s : State} (n k : Nat) {cost : Nat} {q : ChainReq}
    (h : (s.tightGrant q.ctx q.step 0 cost).1 = false) : (((s.replayAnswered n k cost q).btp n).bank k).net = true := by
  simp [State.replayAnswered, h]

/-- REPLAY_REQUEST at a flagged bank that may be replayed does as Tightrope answers. -/
theorem exec_replayRequest_asks (plot : Plot) (x : Nat) {s : State} {q : ChainReq} (hs : s.stopped = false)
    (h : s.AtFlagged plot.val q) (hno : ¬ (s.btp plot.val).noReplay (cBank q.desc)) :
    exec (.replayRequest plot x) s = .next ((s.advance x).replayAnswered plot.val (cBank q.desc)
      ((s.btp plot.val).bank (cBank q.desc)).replayCost q) := by
  refine (congrArg Host.Outcome.next (State.live_of s _ hs)).trans (congrArg Host.Outcome.next ?_)
  have hw : ((s.advance x).siv plot.val).waiting = some q := h.waiting
  simp only [hw]
  exact (if_pos ⟨h.flagged, h.net, h.replaying, h.needs⟩).trans (if_neg hno)

@[simp] theorem State.replayServed_advance (s : State) (x : Nat) (b : BankLog) : (s.advance x).replayServed b = s.replayServed b := by
  simp [State.replayServed]

/-- REPLAY_COMPLETE of a served replay: its bank takes Safety Net, or no row mismatched and the bank's flag clears with it. -/
theorem exec_replayComplete_served (plot : Plot) (bank : Fin 2) (bad : Nat) (flips : List Nat) (x : Nat) {s : State}
    (hs : s.stopped = false) (hr : ((s.btp plot.val).bank bank.val).replaying = true)
    (hv : s.replayServed ((s.btp plot.val).bank bank.val) = true) :
    ∃ (u : State) (c : Nat),
      exec (.replayComplete plot bank bad flips x) s = .next (u.takeNet plot.val bank.val c) ∨
      bad = 0 ∧ exec (.replayComplete plot bank bad flips x) s = .next
        (((u.modBtp plot.val fun b => b.modBank bank.val fun y => { y with flagged := false, replaying := false }).btpFault
          plot.val 2 1 (some c) 0).pumpSieve plot.val) := by
  have hserved : (((s.advance x).btp plot.val).bank bank.val).replaying = true ∧
      (s.advance x).replayServed (((s.advance x).btp plot.val).bank bank.val) = true := ⟨hr, (s.replayServed_advance x _).trans hv⟩
  rw [show exec (.replayComplete plot bank bad flips x) s = _ from congrArg Host.Outcome.next (State.live_of s _ hs)]
  dsimp only
  rw [if_pos hserved]
  generalize (if bad = 0 then _ else _ : State) = u
  split
  case isTrue => exact ⟨_, _, .inl rfl⟩
  case isFalse h => exact ⟨u, _, .inr ⟨Classical.not_not.1 (not_or.1 h).1, rfl⟩⟩

/-! ### Localisation (R90) -/

/-- LOCALISED of a diagnostic that runs ends it with its outcome; no pass waits to issue. -/
theorem exec_localised_ends (plot : Plot) (kind : Fin 7) (row col : Fin 258) (flips : List Nat) {s : State} (hs : s.stopped = false)
    (hl : (s.btp plot.val).localising = true) (hq : (s.btp plot.val).queue = []) :
    ∃ t, exec (.localised plot kind row col flips) s = .next t ∧
      (t.btp plot.val).localising = false ∧ (t.btp plot.val).kind = kind.val ∧ (t.btp plot.val).locRow = row.val ∧
      (t.btp plot.val).locCol = col.val := by
  refine ⟨_, (congrArg Host.Outcome.next (State.live_of s _ hs)).trans (congrArg Host.Outcome.next (if_pos hl)), ?_⟩
  obtain ⟨hloc, hkind, hrow, hcol, hqueue, -⟩ := State.reloadTiles_loc (s.modBtp plot.val fun b => { b with
    localising := false, kind := kind.val, locRow := row.val, locCol := col.val
    suspect := b.suspect && decide (kind.val ≠ 0) }) plot.val flips
  rw [State.btp_modBtp] at hloc hkind hrow hcol hqueue
  rw [State.pumpBtp_nil _ _ (by simpa using hqueue.trans hq), State.btp_btpFault, State.btp_raise]
  exact ⟨hloc, hkind, hrow, hcol⟩

/-! ### The spare map (R92) -/

/-- The applied map is in force, the banks' logs as they were, and what waits still waits. -/
theorem State.btp_mapEffect (s : State) (n : Nat) (flips : List Nat) :
    ((s.mapEffect n flips).btp n).mapInForce = actW s.gate.act (regAddr (pgBtp n) 0x100) ∧
      ((s.mapEffect n flips).btp n).mapPending = false ∧ ((s.mapEffect n flips).btp n).queue = (s.btp n).queue := by
  obtain ⟨-, -, -, -, hqueue, hmap, hpend, -, -⟩ := State.reloadTiles_loc (s.modBtp n fun b => { (b.clearBank 0).clearBank 1 with
    mapInForce := actW s.gate.act (regAddr (pgBtp n) 0x100), mapPending := false, suspect := false
    localisePending := false }) n flips
  rw [State.btp_modBtp] at hqueue hmap hpend
  exact ⟨hmap, hpend, hqueue⟩

/-- Where no pass waits, a map that takes effect leaves what its command then makes of the banks' logs: dropped (log 212), or flagged. -/
theorem State.pumpBtp_mapEffect (s : State) (n : Nat) (flips : List Nat) (f g : BankLog → BankLog) (hq : (s.btp n).queue = []) :
    (((s.mapEffect n flips).modBtp n fun b => { b with bank0 := f b.bank0, bank1 := g b.bank1 }).pumpBtp n).btp n =
      { (s.mapEffect n flips).btp n with
        bank0 := f ((s.mapEffect n flips).btp n).bank0, bank1 := g ((s.mapEffect n flips).btp n).bank1 } := by
  obtain ⟨-, -, hqueue⟩ := s.btp_mapEffect n flips
  rw [State.pumpBtp_nil _ _ (by simpa using hqueue.trans hq), State.btp_modBtp]

/-- Settles O32, command by command: what each leaves of the Big Top, where no pass waits to issue. -/
theorem verdictsAndReplaysComplete : Obligations.VerdictsAndReplaysComplete := by
  refine ⟨fun plot bank onC onS s r rest hs hq hc => ?_, fun plot x s q b hs hw hb hf hn hr h0 => ?_,
    fun plot bank bad flips x s hs hr hv => ?_, fun plot s hs => ?_, fun plot kind row col flips s hs hl hq => ?_,
    fun plot flips s hs hp hi hq => ?_, fun plot flips x s hs hp ht hq => ?_⟩
  · obtain ⟨t, hexec, h⟩ := exec_rowVerdict_reached plot bank onC onS hs hq hc
    refine ⟨t, hexec, ?_⟩
    simp [h]
  · subst hb
    have hat : s.AtFlagged plot.val q := ⟨hw, hf, hn, hr, h0⟩
    by_cases hno : (s.btp plot.val).noReplay (cBank q.desc)
    · refine ⟨_, exec_replayRequest_refused plot x hs hat hno, fun _ => by simp, fun hmany hlog hsus => ?_⟩
      simp [BigTop.noReplay, hmany, hlog, hsus] at hno
    · refine ⟨_, exec_replayRequest_asks plot x hs hat hno, fun h => ?_, fun _ _ _ => State.replayAnswered_granted _ _⟩
      obtain hmany | hlog | hsus | hdeny := h
      · exact absurd (.inl hmany) hno
      · exact absurd (.inr (.inl hlog)) hno
      · exact absurd (.inr (.inr hsus)) hno
      · exact State.replayAnswered_denied _ _ hdeny
  · obtain ⟨u, c, hexec | ⟨hbad, hexec⟩⟩ := exec_replayComplete_served plot bank bad flips x hs hr hv
    · exact ⟨_, hexec, by simp⟩
    · exact ⟨_, hexec, by simp [hbad]⟩
  · by_cases hd : s.localiseDue plot.val = true
    · refine ⟨_, (congrArg Host.Outcome.next (State.live_of s _ hs)).trans (congrArg Host.Outcome.next (if_pos hd)), ?_⟩
      simp [hd]
    · refine ⟨_, (congrArg Host.Outcome.next (State.live_of s _ hs)).trans (congrArg Host.Outcome.next (if_neg hd)), ?_⟩
      simp [hd]
  · exact exec_localised_ends plot kind row col flips hs hl hq
  · obtain ⟨hmap, hpend, -⟩ := s.btp_mapEffect plot.val flips
    refine ⟨_, (congrArg Host.Outcome.next (State.live_of s _ hs)).trans (congrArg Host.Outcome.next (if_pos ⟨hp, hi⟩)), ?_⟩
    rw [s.pumpBtp_mapEffect plot.val flips (fun _ => {}) (fun _ => {}) hq]
    exact ⟨hmap, hpend, rfl, rfl⟩
  · obtain ⟨hmap, hpend, -⟩ := (s.advance x).btp_mapEffect plot.val flips
    have hdue : (s.btp plot.val).mapAppliedAt + 2000 * usRef ≤ (s.advance x).sdl.ref := (s.advance_ref x).symm ▸ ht
    refine ⟨_, (congrArg Host.Outcome.next (State.live_of s _ hs)).trans (congrArg Host.Outcome.next (if_pos ⟨hp, hdue⟩)), ?_⟩
    rw [(s.advance x).pumpBtp_mapEffect plot.val flips (fun b => { b with flagged := true }) (fun b => { b with flagged := true }) hq]
    exact ⟨hmap, hpend, rfl, rfl⟩

end Sys2Proof.Machine
end

section
/-!
PROOF. Comparisons and SEL of a stage (04 R107): O11.
-/

namespace Sys2Proof.Machine

open Sys2Proof

/-! ### Order of the FP32 values -/

@[simp] theorem numLe_nan_left (x : Num) : numLe .nan x = false := rfl

@[simp] theorem numLe_nan_right (x : Num) : numLe x .nan = false := by
  cases x with
  | nan => rfl
  | inf a => rfl
  | fin m e => rfl

/-- Both zeros have the value 0 (R34). -/
theorem fpNum_of_zero {a : Nat} (h : a ∈ [0, 0x80000000]) : fpNum a = .fin 0 (-149) := by
  simp only [List.mem_cons, List.not_mem_nil, or_false] at h
  obtain rfl | rfl := h
  · rfl
  · rfl

/-- The fraction of an FP32 NaN is not 0 (R34). -/
theorem fraction_ne_zero_of_fpNum_nan {a : Nat} (h : fpNum a = .nan) : a % 2 ^ 23 ≠ 0 := by
  intro hz
  have hf : fieldOf a 0 (fFracBits 8) = 0 := hz
  rw [fpNum, floatNum, hf, if_neg fun he4m3 => absurd he4m3.1 (by decide), if_pos rfl] at h
  split_ifs at h

/-! ### Comparisons (R107) -/

theorem stageLane_compare (i32 : Bool) {op : Nat} (a b c : Nat) (h : 7 ≤ op ∧ op ≤ 0xA) :
    (stageLane i32 op a b c).1 = truth i32 (stageCompare i32 op a b) := by
  obtain ⟨hlo, hhi⟩ := h
  have hne : op ≠ 0 ∧ op ≠ 1 ∧ op ≠ 2 ∧ op ≠ 3 ∧ op ≠ 4 ∧ op ≠ 5 ∧ op ≠ 6 := by omega
  simp [stageLane, hne, hhi]

/-- Of unordered operands only CMPNE holds. -/
theorem stageCompare_unordered (op : Nat) {a b : Nat} (h : fpNum a = .nan ∨ fpNum b = .nan) :
    stageCompare false op a b = decide (op ≠ 7 ∧ op ≠ 8 ∧ op ≠ 9) := by
  have hle : numLe (fpNum a) (fpNum b) = false ∧ numLe (fpNum b) (fpNum a) = false := by
    obtain h | h := h
    · simp [h]
    · simp [h]
  simp only [stageCompare, hle, Bool.false_eq_true, if_false]
  split_ifs <;> simp [*]

/-- Of equal operands CMPLE and CMPEQ hold. -/
theorem stageCompare_equal (op : Nat) {a b : Nat} (hle : numLe (fpNum a) (fpNum b) = true)
    (hge : numLe (fpNum b) (fpNum a) = true) : stageCompare false op a b = decide (op = 8 ∨ op = 9) := by
  simp only [stageCompare, hle, hge, Bool.false_eq_true, if_false]
  split_ifs <;> simp [*]

/-! ### SEL (R107) -/

theorem stageLane_sel (i32 : Bool) (a b c : Nat) :
    (stageLane i32 0xB a b c).1 = if (if i32 then a else a % 2 ^ 31) = 0 then c else b := by
  simp [stageLane, ite_not]

/-- Settles O11: a comparison sees only the order of the two values, and SEL only whether a bit of A other than an FP32 sign is set. -/
theorem comparisonsOfThePipe : Obligations.ComparisonsOfThePipe := by
  refine ⟨fun a b c h => ?_, fun c a ha b hb => ?_, fun a b c ha => ?_, fun a b c h => ?_, fun a b c => stageLane_sel true a b c⟩
  · simp [stageLane_compare, stageCompare_unordered _ h, truth]
  · have hle : numLe (fpNum a) (fpNum b) = true ∧ numLe (fpNum b) (fpNum a) = true := by
      rw [fpNum_of_zero ha, fpNum_of_zero hb]
      decide
    obtain ⟨hle, hge⟩ := hle
    simp [stageLane_compare, stageCompare_equal _ hle hge, truth]
  · have hzero : a % 2 ^ 31 = 0 ↔ a = 0 ∨ a = 0x80000000 := by omega
    simp only [stageLane_sel, Bool.false_eq_true, if_false, hzero]
  · have hne : a % 2 ^ 31 ≠ 0 := by
      have := fraction_ne_zero_of_fpNum_nan h
      omega
    simp only [stageLane_sel, Bool.false_eq_true, if_false, hne]

end Sys2Proof.Machine
end

section
/-!
PROOF. Chains and their rescale retries (02 R61 to R63; 04 R98, R102, R111): O33.
-/

namespace Sys2Proof.Machine

open Sys2Proof

@[simp] theorem State.advance_siv (s : State) (x n : Nat) : (s.advance x).siv n = s.siv n := rfl

/-- An operation that leaves the Plots leaves every Sieve. -/
theorem State.siv_of_leavesPlots {s t : State} (k : LeavesPlots s t) (n : Nat) : t.siv n = s.siv n :=
  ((State.SameSiv.refl s).left k) n

@[simp] theorem State.siv_tightGrant (s : State) (c step kind cost n : Nat) : (s.tightGrant c step kind cost).2.siv n = s.siv n :=
  State.siv_of_leavesPlots (State.tightGrant_keeps (Keeps.refl s)) n

/-! ### Issue (R98, R102) -/

/-- A chain runs and none waits for its bank: those held behind it stay held (R102). -/
theorem State.pumpSieve_running {s : State} {n : Nat} (hw : (s.siv n).waiting = none) (hr : (s.siv n).running.isSome = true) :
    s.pumpSieve n = s := by
  simp only [State.pumpSieve, hw]
  exact State.nextChains_running s n hr _

/-- The Sieve is idle, and the chain of `q` is the only one that has come. -/
structure State.OnlyChain (s : State) (n : Nat) (q : ChainReq) : Prop where
  waiting : (s.siv n).waiting = none
  running : (s.siv n).running = none
  retry : (s.siv n).retry = none
  held : (s.siv n).held = [q]

theorem State.OnlyChain.pumpSieve {s : State} {n : Nat} {q : ChainReq} (h : s.OnlyChain n q) : s.pumpSieve n = s.nextChain n := by
  simp [State.pumpSieve, h.waiting, h.held, State.nextChains]

theorem State.OnlyChain.nextChain {s : State} {n : Nat} {q : ChainReq} (h : s.OnlyChain n q) : s.nextChain n =
    if cAccEn q.desc ∧ ((s.btp n).bank (cBank q.desc)).ready q = false then
      (s.modSiv n fun v => { v with held := [] }).modSiv n fun v => { v with waiting := some q }
    else (s.modSiv n fun v => { v with held := [] }).runChain n q := by
  simp [State.nextChain, h.waiting, h.running, h.retry, h.held]

/-- The only chain waits where it reads a bank that awaits verdicts (R98). -/
theorem State.OnlyChain.waits {s : State} {n : Nat} {q : ChainReq} (h : s.OnlyChain n q) (hacc : cAccEn q.desc = true)
    (hn : q.needs ≠ 0) : ((s.pumpSieve n).siv n).waiting = some q := by
  have hready : ((s.btp n).bank (cBank q.desc)).ready q = false := by simp [BankLog.ready, hn]
  rw [h.pumpSieve, h.nextChain, if_pos ⟨hacc, hready⟩, State.siv_modSiv]

/-- The only chain runs where its bank is settled, is no other context's, and the chain reads no stream (R98). -/
theorem State.OnlyChain.runs {s : State} {n : Nat} {q : ChainReq} (h : s.OnlyChain n q) (hx : cUses q.desc 0x28 = false)
    (hy : cUses q.desc 0x29 = false) (hm : cMarkSrc q.desc = 0) (hown : (s.btp n).ownedByOther (cBank q.desc) q.ctx = false)
    (hready : ((s.btp n).bank (cBank q.desc)).ready q = true) :
    ∃ r, ((s.pumpSieve n).siv n).running = some r ∧ r.req = q := by
  rw [h.pumpSieve, h.nextChain, if_neg (by simp [hready])]
  exact State.runChain_runs _ n q hx hy hm (by simpa using hown)

/-- The request that CHAIN makes: it needs the verdicts that its bank awaits as it issues (R98). -/
def State.chainReq (s : State) (plot : Plot) (c : Ctx) (step : Nat) (entry : Fin 32) (d name bankName act : Nat)
    (races : List (Fin 256)) : ChainReq :=
  { ctx := c.val, step := step, entry := entry.val, desc := d, name := name, bankName := bankName, act := act
    races := if cAccEn d then races.map (·.val) else [], needs := ((s.btp plot.val).bank (cBank d)).awaiting }

/-- A request joins the chains that a Sieve holds. -/
def State.holdChain (s : State) (n : Nat) (q : ChainReq) : State := s.modSiv n fun v => { v with held := v.held ++ [q] }

@[simp] theorem State.siv_holdChain (s : State) (n : Nat) (q : ChainReq) :
    (s.holdChain n q).siv n = { s.siv n with held := (s.siv n).held ++ [q] } := State.siv_modSiv s n _

@[simp] theorem State.btp_holdChain (s : State) (n m : Nat) (q : ChainReq) : (s.holdChain n q).btp m = s.btp m := State.btp_modSiv s n m _

theorem State.onlyChain_holdChain {s : State} {n : Nat} (q : ChainReq) (hw : (s.siv n).waiting = none)
    (hr : (s.siv n).running = none) (ht : (s.siv n).retry = none) (hh : (s.siv n).held = []) : (s.holdChain n q).OnlyChain n q :=
  ⟨by simp [hw], by simp [hr], by simp [ht], by simp [hh]⟩

/-- CHAIN on a Plot that is not Pruned joins the chains that are held, which issue as far as they may. -/
theorem exec_chain_unpruned (plot : Plot) (c : Ctx) (step : Nat) (entry : Fin 32) (d name bankName act : Nat)
    (races : List (Fin 256)) (x : Nat) {s : State} (hs : s.stopped = false) (hp : s.pruned plot.val = false) :
    exec (.chain plot c step entry d name bankName act races x) s = .next
      (((s.advance x).holdChain plot.val (s.chainReq plot c step entry d name bankName act races)).pumpSieve plot.val) := by
  have hp' : ¬ (s.advance x).pruned plot.val = true := fun h => Bool.false_ne_true (hp.symm.trans h)
  exact (congrArg Host.Outcome.next (State.live_of s _ hs)).trans (congrArg Host.Outcome.next (if_neg hp'))

/-! ### The end of a chain (R111; 02 R60, R61, R63) -/

/-- A plain read-out whose counts trigger a retry (02 R60). -/
def ChainResult.triggers (r : ChainResult) : Prop :=
  cPlain r.req.desc = true ∧ retryCase r.ovf r.unf (cPermille r.req.desc) r.elems = true

/-- A triggered retry may run: the chain and the Sieve allow retries, and its scale is known where the chain overflowed (02 R61). -/
def State.retryMay (s : State) (n : Nat) (r : ChainResult) : Prop :=
  cRetryEn r.req.desc = true ∧ s.flag (pgSiv n) 0x100 0 = true ∧ (r.ovf = 0 ∨ r.kOver.isSome = true)

/-- CHAIN_END by what the chain triggers: it ends, its retry waits for Tightrope, or its retry is denied. -/
theorem exec_chainEnd_cases (plot : Plot) (x : Nat) {s : State} {r : ChainResult} (hs : s.stopped = false)
    (hr : (s.siv plot.val).running = some r) :
    (¬ r.triggers ∧ exec (.chainEnd plot x) s = .next ((s.advance x).finishChain plot.val r)) ∨
    (r.triggers ∧ s.retryMay plot.val r ∧
      exec (.chainEnd plot x) s = .next ((s.advance x).modSiv plot.val fun v => { v with running := none, retry := some r })) ∨
    (r.triggers ∧ ¬ s.retryMay plot.val r ∧ exec (.chainEnd plot x) s = .next ((s.advance x).denyRetry plot.val r)) := by
  rw [show exec (.chainEnd plot x) s = _ from congrArg Host.Outcome.next (State.live_of s _ hs)]
  have hkey : r.ovf = 0 ∨ r.kOver.isSome = true ↔ ¬ (0 < r.ovf ∧ r.kOver = none) := by
    rw [not_and_or, Nat.pos_iff_ne_zero, not_not, Option.isSome_iff_ne_none]
  simp only [State.advance_siv, hr, State.advance_flag, State.retryMay, ChainResult.triggers, hkey]
  split_ifs with hretry hmay hplain
  · obtain ⟨hp, he, hc⟩ := hretry
    exact .inr (.inl ⟨⟨hp, hc⟩, ⟨he, hmay⟩, rfl⟩)
  · obtain ⟨hp, he, hc⟩ := hretry
    exact .inr (.inr ⟨⟨hp, hc⟩, fun h => hmay h.2, rfl⟩)
  · exact .inr (.inr ⟨hplain, fun h => hretry ⟨hplain.1, h.1, hplain.2⟩, rfl⟩)
  · exact .inl ⟨hplain, rfl⟩

/-! ### The retry (02 R61, R63) -/

/-- RETRY_REQUEST of a retry that waits does as Tightrope answers. -/
theorem exec_retryRequest_waiting (plot : Plot) (cost x : Nat) {s : State} {r : ChainResult} (hs : s.stopped = false)
    (hr : (s.siv plot.val).retry = some r) (hg : (s.siv plot.val).retryGranted = false) :
    let a := (s.advance x).tightGrant r.req.ctx r.req.step 1 cost
    exec (.retryRequest plot cost x) s = .next (if a.1 then a.2.modSiv plot.val fun v => { v with retryGranted := true, retryCost := cost }
      else a.2.denyRetry plot.val r) := by
  refine (congrArg Host.Outcome.next (State.live_of s _ hs)).trans (congrArg Host.Outcome.next ?_)
  simp [hr, hg]

/-- RETRY_PASS_END of a granted retry: the repeated read-out ends its chain, or a row that was not delivered ends the retry alone. -/
theorem exec_retryPassEnd_granted (plot : Plot) (x : Nat) {s : State} {r : ChainResult} (hs : s.stopped = false)
    (hr : (s.siv plot.val).retry = some r) (hg : (s.siv plot.val).retryGranted = true) :
    ∃ u : State, u.btp plot.val = s.btp plot.val ∧
      (exec (.retryPassEnd plot x) s = .next
          ((u.modSiv plot.val fun v => { v with retry := none, retryGranted := false }).pumpSieve plot.val) ∨
        ∃ res, exec (.retryPassEnd plot x) s = .next (u.finishChain plot.val res)) := by
  rw [show exec (.retryPassEnd plot x) s = _ from congrArg Host.Outcome.next (State.live_of s _ hs)]
  simp only [State.advance_siv, hr, hg, if_true]
  have hbody := State.chainBody_btp (n := plot.val) (q := r.req)
    (k := (s.advance x).actShift r.req - retryShift r (cShiftMax r.req.desc)) (.refl (s.advance x)) plot.val
  generalize (s.advance x).chainBody plot.val r.req _ = a at hbody ⊢
  obtain ⟨tally, u⟩ := a
  have hgrant : LeavesPlots u ((u.bumpBy (pgSiv plot.val) 0x90 (some ((s.advance x).partOf r.req.ctx)) (cIters r.req.desc)).grantDone
      r.req.ctx r.req.step (s.siv plot.val).retryCost) := State.grantDone_keeps (State.bumpBy_keeps (Keeps.refl u))
  cases tally with
  | none => exact ⟨_, (State.btp_of_leavesPlots hgrant plot.val).trans hbody, .inl rfl⟩
  | some t => exact ⟨_, (State.btp_of_leavesPlots (State.bump_keeps (State.countTally_keeps hgrant)) plot.val).trans hbody, .inr ⟨_, rfl⟩⟩

/-- Settles O33, command by command: CHAIN by what is held and what it may read, and the ends of a chain and of its retry by what
`finishChain` and `denyRetry` leave where nothing else waits. -/
theorem chainsAndRetriesComplete : Obligations.ChainsAndRetriesComplete := by
  refine ⟨fun plot c step entry d name bankName act races x s hs hp hw => ?_, fun plot x s r hs hr hw hh hq => ?_,
    fun plot cost x s r hs hr hg hw hh hq => ?_, fun plot x s r hs hr hg hq => ?_⟩
  · refine ⟨_, exec_chain_unpruned plot c step entry d name bankName act races x hs hp, fun hr => ?_, fun hr ht hh hacc hn => ?_,
      fun hr ht hh hx hy hm hown hn hrep hfl => ?_⟩
    · rw [State.pumpSieve_running (by simpa using hw) (by simpa using hr), State.siv_holdChain]
      rfl
    · exact ((s.advance x).onlyChain_holdChain _ hw hr ht hh).waits hacc hn
    · refine ((s.advance x).onlyChain_holdChain _ hw hr ht hh).runs hx hy hm ?_ ?_
      · simpa [State.chainReq] using hown
      · simp [BankLog.ready, State.chainReq, hn, hrep, hfl]
  · have hends : r.triggers → ¬ (cPlain r.req.desc = false ∨ retryCase r.ovf r.unf (cPermille r.req.desc) r.elems = false) :=
      fun ⟨hp, hc⟩ => by simp [hp, hc]
    obtain ⟨htr, hexec⟩ | ⟨htr, -, hexec⟩ | ⟨htr, hmay, hexec⟩ := exec_chainEnd_cases plot x hs hr
    · obtain ⟨hrun, hretry, -⟩ := (s.advance x).finishChain_siv plot.val r hw hh hq
      exact ⟨_, hexec, hrun, fun _ => hretry, fun hp _ hc => absurd ⟨hp, hc⟩ htr⟩
    · exact ⟨_, hexec, by simp, fun h => absurd h (hends htr), by simp⟩
    · obtain ⟨hrun, hretry, -⟩ := (s.advance x).denyRetry_siv plot.val r hw hh hq
      exact ⟨_, hexec, hrun, fun _ => hretry, fun _ he _ hf hk => absurd ⟨he, hf, hk⟩ hmay⟩
  · refine ⟨_, exec_retryRequest_waiting plot cost x hs hr hg, fun hok => ?_, fun hdeny => ?_⟩
    · simp [hok, hr]
    · obtain ⟨hrun, hretry, -⟩ := ((s.advance x).tightGrant r.req.ctx r.req.step 1 cost).2.denyRetry_siv plot.val r
        (by simpa using hw) (by simpa using hh) (by simpa using hq)
      simp [hdeny, hrun, hretry]
  · obtain ⟨u, hu, hexec | ⟨res, hexec⟩⟩ := exec_retryPassEnd_granted plot x hs hr hg
    · refine ⟨_, hexec, ?_⟩
      simpa using State.pumpSieve_retry (.refl (u.modSiv plot.val _)) plot.val
    · exact ⟨_, hexec, u.finishChain_retry plot.val res (hu ▸ hq)⟩

end Sys2Proof.Machine
end

section
/-!
PROOF. The Sprout's arithmetic (05 R120, R121): O25.
-/

namespace Sys2Proof.Machine

open Sys2Proof

/-- A running device takes the effect of a command. -/
theorem next_live {s : State} (hs : s.stopped = false) (f : State → State) :
    (Host.Outcome.next (s.live f) : Host.Outcome State Fault Refusal) = .next (f s) :=
  congrArg Host.Outcome.next (State.live_of s f hs)

/-- A command that computes `val` into register `rd` writes it there, and the Sprout moves on by one step (R120, R121). -/
theorem exec_ran_alu (c : Instr) {s : State} {i : SproutId} {rd : SReg} (val : SproutSt → Nat × Nat) (hs : s.stopped = false)
    (hi : (s.sprout i).issues = true) (hc : exec c s = .next (s.live fun u => u.issueAlu i rd val)) :
    ∃ t, exec c s = .next t ∧ s.Ran i ((s.sprout i).wrote rd (val (s.sprout i))) t :=
  ⟨_, hc.trans (next_live hs _), State.ran_issueAlu s i rd val hi⟩

/-- Settles O25: each command is an ALU command of the exact integer function that it names. -/
theorem sproutArithmeticCompletes : Obligations.SproutArithmeticCompletes := by
  refine ⟨?add, ?sub, ?abs, ?neg, ?min, ?max, ?shl, ?shr⟩
  case add =>
    exact fun i pk rd ra rb s hs hi =>
      exec_ran_alu (.add i pk rd ra rb) (fun x => aluOf pk (fun a b => a + b) (x.get ra) (x.get rb)) hs hi rfl
  case sub =>
    exact fun i pk rd ra rb s hs hi =>
      exec_ran_alu (.sub i pk rd ra rb) (fun x => aluOf pk (fun a b => a - b) (x.get ra) (x.get rb)) hs hi rfl
  case abs =>
    exact fun i pk rd ra s hs hi =>
      exec_ran_alu (.abs i pk rd ra) (fun x => aluOf pk (fun a _ => if a < 0 then -a else a) (x.get ra) 0) hs hi rfl
  case neg =>
    exact fun i pk rd ra s hs hi =>
      exec_ran_alu (.neg i pk rd ra) (fun x => aluOf pk (fun a _ => -a) (x.get ra) 0) hs hi rfl
  case min =>
    exact fun i pk rd ra rb s hs hi =>
      exec_ran_alu (.min i pk rd ra rb) (fun x => aluOf pk (fun a b => min a b) (x.get ra) (x.get rb)) hs hi rfl
  case max =>
    exact fun i pk rd ra rb s hs hi =>
      exec_ran_alu (.max i pk rd ra rb) (fun x => aluOf pk (fun a b => max a b) (x.get ra) (x.get rb)) hs hi rfl
  case shl =>
    exact fun i pk rd ra n s hs hi =>
      exec_ran_alu (.shl i pk rd ra n) (fun x => aluOf pk (fun a _ => a * 2 ^ n.val) (x.get ra) 0) hs hi rfl
  case shr =>
    exact fun i pk rd ra n s hs hi =>
      exec_ran_alu (.shr i pk rd ra n) (fun x => aluOf pk (fun a _ => rneDiv a (2 ^ n.val)) (x.get ra) 0) hs hi rfl

end Sys2Proof.Machine
end

section
/-!
PROOF. The Sprout's compare, select, conjugate, swap, normalise, seeds and clears (05 R120 to R122): O26.
-/

namespace Sys2Proof.Machine

open Sys2Proof

/-- An instruction of one step that only changes the Sprout's own registers does so, and the Sprout moves on (R121). -/
theorem exec_ran_issue (c : Instr) {s : State} {i : SproutId} (f : SproutSt → SproutSt) (hs : s.stopped = false)
    (hi : (s.sprout i).issues = true) (hc : exec c s = .next (s.live fun u => u.issue i 1 f)) :
    ∃ t, exec c s = .next t ∧ s.Ran i ((f (s.sprout i)).after 1) t :=
  ⟨_, hc.trans (next_live hs _), State.ran_issue s i 1 f hi⟩

theorem State.issueSeed_some {s : State} {i : SproutId} {rd ra : SReg} {f : Nat → Option (Nat × Nat)} {r : Nat × Nat}
    (h : f ((s.sprout i).get ra) = some r) : s.issueSeed i rd ra f = s.issueAlu i rd fun _ => r := by
  simp only [State.issueSeed, h]

theorem State.issueSeed_none {s : State} {i : SproutId} {rd ra : SReg} {f : Nat → Option (Nat × Nat)}
    (h : f ((s.sprout i).get ra) = none) : s.issueSeed i rd ra f = s.issue i 1 fun x => (x.set rd 0).sats 1 := by
  simp only [State.issueSeed, h]
  rfl

/-- A seed instruction writes the seed of an input in range, and of one out of range 0, setting SAT (R122). -/
theorem exec_ran_seed (c : Instr) {s : State} {i : SproutId} {rd ra : SReg} (f : Nat → Option (Nat × Nat)) (hs : s.stopped = false)
    (hi : (s.sprout i).issues = true) (hc : exec c s = .next (s.live fun u => u.issueSeed i rd ra f)) :
    ∃ t, exec c s = .next t ∧ (∀ r, f ((s.sprout i).get ra) = some r → s.Ran i ((s.sprout i).wrote rd r) t) ∧
      (f ((s.sprout i).get ra) = none → s.Ran i ((((s.sprout i).set rd 0).sats 1).after 1) t) := by
  refine ⟨_, hc.trans (next_live hs _), fun r hr => ?_, fun hr => ?_⟩
  · rw [State.issueSeed_some hr]
    exact State.ran_issueAlu s i rd _ hi
  · rw [State.issueSeed_none hr]
    exact State.ran_issue s i 1 _ hi

/-- Settles O26: each command computes into a register, changes only the bank in use, or is a seed instruction. -/
theorem sproutSelectAndSeedsComplete : Obligations.SproutSelectAndSeedsComplete := by
  refine ⟨?cmp, ?sel, ?conj, ?swapri, ?nrm, ?seeds, ?clears⟩
  case cmp =>
    exact fun i pk rel ra rb s hs hi => exec_ran_issue (.cmp i pk rel ra rb)
      (fun x => x.setBank { x.bank with cond := relHolds pk rel.val (x.get ra) (x.get rb) }) hs hi rfl
  case sel =>
    exact fun i rd ra rb s hs hi => exec_ran_alu (.sel i rd ra rb)
      (fun x => (if x.bank.cond then x.get ra else x.get rb, 0)) hs hi rfl
  case conj =>
    exact fun i rd ra s hs hi => exec_ran_alu (.conj i rd ra)
      (fun x => (cplxOf (cplxRe (x.get ra)) (satBits 16 (-cplxIm (x.get ra))).1, (satBits 16 (-cplxIm (x.get ra))).2)) hs hi rfl
  case swapri =>
    exact fun i rd ra s hs hi => exec_ran_alu (.swapri i rd ra)
      (fun x => (cplxOf (cplxIm (x.get ra)) (cplxRe (x.get ra)), 0)) hs hi rfl
  case nrm =>
    exact fun i rd ra s hs hi => exec_ran_alu (.nrm i rd ra) (fun x => (redundantBits (x.get ra), 0)) hs hi rfl
  case seeds =>
    intro i rd ra s hs hi
    obtain ⟨t, ht, hsome, hnone⟩ := exec_ran_seed (.rcps i rd ra) rcps hs hi rfl
    obtain ⟨u, hu, husome, hunone⟩ := exec_ran_seed (.rsqs i rd ra) rsqs hs hi rfl
    exact ⟨t, u, ht, hu, hsome, hnone, husome, hunone⟩
  case clears =>
    intro i s hs hi
    obtain ⟨t, ht, hsat⟩ := exec_ran_issue (.clrsat i) (fun x => x.setBank { x.bank with sat := false }) hs hi rfl
    obtain ⟨u, hu, hacc⟩ := exec_ran_issue (.aclr i) (fun x => x.setBank { x.bank with re := 0, im := 0 }) hs hi rfl
    exact ⟨t, u, ht, hu, hsat, hacc⟩

end Sys2Proof.Machine
end

section
/-!
PROOF. The Sprout's complex multiply-accumulates and the read-out of the accumulator pair (05 R118, R119, R121): O27.
-/

namespace Sys2Proof.Machine

open Sys2Proof

/-- The complex product of two words, the first conjugated where `conj` (R121). -/
def macProduct (conj : Bool) (w : Nat × Nat) : Int × Int :=
  let ai := if conj then -cplxIm w.1 else cplxIm w.1
  (cplxRe w.1 * cplxRe w.2 - ai * cplxIm w.2, cplxRe w.1 * cplxIm w.2 + ai * cplxRe w.2)

/-- The sum that a multiply-accumulate leaves of one part of the pair, and whether it saturated: the signed product is added to the
part, or to 0 where the pair is cleared first (R119, R121). -/
def macSum (sub clear : Bool) (acc p : Int) : Int × Nat := accAdd (if clear then 0 else acc) ((if sub then -1 else 1) * p)

/-- A multiply-accumulate once its reads have delivered. -/
def State.macIssue (s : State) (i : SproutId) (ax ay : Fin 8) (conj sub clear : Bool) : State :=
  let x := s.sprout i
  let p := macProduct conj (s.macWords i ax ay)
  let re := macSum sub clear x.bank.re p.1
  let im := macSum sub clear x.bank.im p.2
  ((s.issue i (if x.get (.a ax) / 0x2000 = x.get (.a ay) / 0x2000 then 2 else 1) fun y =>
    ((y.setBank { y.bank with re := re.1, im := im.1 }).postModify ax).postModify ay).saturated i (re.2 + im.2)).bump
      (pgBed i.plot.val i.bed.val) 0x80 (s.plotPart i.plot.val)

theorem State.complexMac_eq (s : State) (i : SproutId) (ax ay : Fin 8) (conj sub clear : Bool) :
    s.complexMac i ax ay conj sub clear = s.issueRead i [(s.sprout i).get (.a ax), (s.sprout i).get (.a ay)] fun u =>
      u.macIssue i ax ay conj sub clear := rfl

/-- An instruction issues, and its saturations are noted. -/
theorem State.ran_issue_saturated {s : State} {i : SproutId} (cost k : Nat) (f : SproutSt → SproutSt) (hi : (s.sprout i).issues = true) :
    s.Ran i (((f (s.sprout i)).after cost).sats k) ((s.issue i cost f).saturated i k) := by
  have hissue := s.ran_issue i cost f hi
  have hsat := (s.issue i cost f).ran_saturated i k
  rw [hissue.1] at hsat
  exact hissue.then hsat

/-- Neither post-modification nor the end of the instruction touches the accumulator pair that it sets. -/
theorem SproutSt.acc_mac (x : SproutSt) (b : Bank) (ax ay : Fin 8) (cost k : Nat) :
    (x.setBank b).SameAcc (((((x.setBank b).postModify ax).postModify ay).after cost).sats k) :=
  (((SproutSt.acc_postModify _ ax).trans (SproutSt.acc_postModify _ ay)).trans (SproutSt.acc_after _ cost)).trans (SproutSt.acc_sats _ k)

/-- The pair holds the two sums. -/
theorem State.ran_macIssue {s : State} {i : SproutId} (ax ay : Fin 8) (conj sub clear : Bool) (hi : (s.sprout i).issues = true) :
    ∃ y, s.Ran i y (s.macIssue i ax ay conj sub clear) ∧
      y.bank.re = (macSum sub clear (s.sprout i).bank.re (macProduct conj (s.macWords i ax ay)).1).1 ∧
      y.bank.im = (macSum sub clear (s.sprout i).bank.im (macProduct conj (s.macWords i ax ay)).2).1 := by
  refine ⟨_, (State.ran_issue_saturated _ _ _ hi).same (State.bump_beds _ _ _ _), ?_⟩
  obtain ⟨hre, him⟩ := SproutSt.acc_mac (s.sprout i) _ ax ay _ _
  exact ⟨hre.trans (congrArg Bank.re (SproutSt.bank_setBank _ _)), him.trans (congrArg Bank.im (SproutSt.bank_setBank _ _))⟩

/-- A multiply-accumulate of words without uncorrectable error adds the signed product to the pair, each part saturated at 40 bits, and
leaves every other Sprout (R118, R119, R121). -/
theorem exec_complexMac {c : Instr} {s : State} {i : SproutId} {ax ay : Fin 8} {conj sub clear : Bool} (hs : s.stopped = false)
    (hi : (s.sprout i).issues = true) (hx : s.sound i ((s.sprout i).get (.a ax))) (hy : s.sound i ((s.sprout i).get (.a ay)))
    (hc : exec c s = .next (s.live fun u => u.complexMac i ax ay conj sub clear)) :
    ∃ t, exec c s = .next t ∧
      (t.sprout i).bank.re = (macSum sub clear (s.sprout i).bank.re (macProduct conj (s.macWords i ax ay)).1).1 ∧
      (t.sprout i).bank.im = (macSum sub clear (s.sprout i).bank.im (macProduct conj (s.macWords i ax ay)).2).1 ∧
      ∀ j, j ≠ i → t.sprout j = s.sprout j := by
  obtain ⟨g, hg⟩ := State.issueRead_two s i _ _ (fun u => u.macIssue i ax ay conj sub clear) hi hx hy
  have hwords : ({ s with flt := g } : State).macWords i ax ay = s.macWords i ax ay := by
    simp only [State.macWords, State.dataRead_congr { s with flt := g } s i _ rfl rfl]
    rfl
  obtain ⟨y, ⟨hy, hother⟩, hre, him⟩ := State.ran_macIssue (s := { s with flt := g }) ax ay conj sub clear hi
  rw [hwords] at hre him
  refine ⟨_, hc.trans (next_live hs _), ?_⟩
  rw [State.complexMac_eq, hg, hy]
  exact ⟨hre, him, hother⟩

/-- Settles O27: of the multiply-accumulates each is one with its conjugation, sign and clear, and RDACC is an ALU command. -/
theorem sproutMultiplyAccumulateCompletes : Obligations.SproutMultiplyAccumulateCompletes := by
  refine ⟨?cmac, ?cmacc, ?cmsu, ?cmul, ?rdacc⟩
  case cmac =>
    intro i ax ay s hs hi hx hy
    simpa [macSum, macProduct] using exec_complexMac (c := .cmac i ax ay) hs hi hx hy rfl
  case cmacc =>
    intro i ax ay s hs hi hx hy
    simpa [macSum, macProduct] using exec_complexMac (c := .cmacc i ax ay) hs hi hx hy rfl
  case cmsu =>
    intro i ax ay s hs hi hx hy
    simpa [macSum, macProduct] using exec_complexMac (c := .cmsu i ax ay) hs hi hx hy rfl
  case cmul =>
    intro i ax ay s hs hi hx hy
    simpa [macSum, macProduct] using exec_complexMac (c := .cmul i ax ay) hs hi hx hy rfl
  case rdacc =>
    exact fun i rd n s hs hi => exec_ran_alu (.rdacc i rd n)
      (fun x => (cplxOf (readPart x.bank.re n).1 (readPart x.bank.im n).1, (readPart x.bank.re n).2 + (readPart x.bank.im n).2)) hs hi rfl

end Sys2Proof.Machine
end

section
/-!
PROOF. The Sprout's loads and stores, and its gather requests (05 R118, R121, R129): O28.
-/

namespace Sys2Proof.Machine

open Sys2Proof

/-- Sprouts are the Beds' alone. -/
theorem State.sprout_of_beds {s t : State} (e : t.beds = s.beds) : t.sprout = s.sprout := by
  funext i
  simp only [State.sprout, State.bed, e]

/-- A Sprout changes in a state whose Beds are those of `s`. -/
theorem State.ran_mod_from {s u : State} (i : SproutId) (f : SproutSt → SproutSt) (e : u.beds = s.beds) :
    s.Ran i (f (s.sprout i)) (u.modSprout i f) := by
  have hu := u.ran_mod i f
  rw [State.sprout_of_beds e] at hu
  exact hu.from e.symm

/-- An instruction issues on a state whose Beds are those of `s`. -/
theorem State.ran_issue_from {s u : State} {i : SproutId} (f : SproutSt → SproutSt) (e : u.beds = s.beds)
    (hi : (s.sprout i).issues = true) : s.Ran i ((f (s.sprout i)).after 1) (u.issue i 1 f) := by
  have hu := u.ran_issue i 1 f (by rwa [State.sprout_of_beds e])
  rw [State.sprout_of_beds e] at hu
  exact hu.from e.symm

/-! ### Loads and stores (R118, R121) -/

/-- A load of a word without uncorrectable error writes it into its register, and post-modifies the address register. -/
theorem exec_loadWord {c : Instr} {s : State} {i : SproutId} {rd : SReg} {a : Fin 8} {half off : Nat} (hs : s.stopped = false)
    (hi : (s.sprout i).issues = true) (hsound : s.sound i off) (hoff : half * 0x2000 + (s.sprout i).get (.a a) % 0x2000 = off)
    (hc : exec c s = .next (s.live fun u => u.loadWord i rd a half)) :
    ∃ t, exec c s = .next t ∧ s.Ran i ((((s.sprout i).postModify a).set rd (s.dataRead i off)).after 1) t := by
  obtain ⟨g, hg⟩ := State.issueRead_one s i off (fun u => u.issue i 1 fun x => (x.postModify a).set rd (u.dataRead i off)) hi hsound
  have hran := State.ran_issue_from (u := { s with flt := g }) (fun x => (x.postModify a).set rd (s.dataRead i off)) rfl hi
  refine ⟨_, hc.trans (next_live hs _), ?_⟩
  rw [State.loadWord, hoff, hg, State.dataRead_congr { s with flt := g } s i off rfl rfl]
  exact hran

/-- The end of an instruction leaves memory. -/
theorem State.issue_mem (s : State) (i : SproutId) (cost : Nat) (f : SproutSt → SproutSt) : (s.issue i cost f).mem = s.mem :=
  Keeps.mem_eq (State.issue_keeps (Keeps.refl s) : LeavesMem s _)

/-- A store to a word without uncorrectable error writes the bytes of its register there and no byte outside the word's codewords, and
post-modifies the address register. -/
theorem exec_storeWord {c : Instr} {s : State} {i : SproutId} {rs : SReg} {a : Fin 8} {half off : Nat} (hs : s.stopped = false)
    (hi : (s.sprout i).issues = true) (hsound : s.sound i off) (hoff : half * 0x2000 + (s.sprout i).get (.a a) % 0x2000 = off)
    (hc : exec c s = .next (s.live fun u => u.storeWord i rs a half)) :
    ∃ t, exec c s = .next t ∧ s.Ran i (((s.sprout i).postModify a).after 1) t ∧
      (∀ k, k < 4 → t.mem.read (sproutMem i + halfByte off k) = BitVec.ofNat 8 ((s.sprout i).get rs / 256 ^ k)) ∧
      ∀ b, b / 16 ∉ wordCws i off → t.mem.read b = s.mem.read b := by
  obtain ⟨g, hg⟩ := State.issueRead_one s i off (fun u => (u.dataWrite i off ((u.sprout i).get rs)).issue i 1 fun x => x.postModify a)
    hi hsound
  obtain ⟨hin, hout, hbeds⟩ := State.dataWrite_mem { s with flt := g } i off ((s.sprout i).get rs) hsound
  have hran := State.ran_issue_from (fun x => x.postModify a) hbeds hi
  refine ⟨_, hc.trans (next_live hs _), ?_⟩
  rw [State.storeWord, hoff, hg, State.issue_mem]
  exact ⟨hran, hin, hout⟩

/-! ### The Gatherer's queue (R129) -/

theorem State.bed_modBed (s : State) (n b m c : Nat) (f : BedSt → BedSt) :
    (s.modBed n b f).bed m c = if 17 * m + c = 17 * n + b then f (s.bed m c) else s.bed m c := by
  unfold State.modBed State.bed
  split
  case isTrue h => rw [h, SMap.get_modify_self]
  case isFalse h => rw [SMap.get_modify_ne _ _ _ h]

/-- The queues of the Gatherers are as before. -/
def State.SameQueues (s t : State) : Prop := ∀ n b, (t.bed n b).queue = (s.bed n b).queue

theorem State.SameQueues.refl (s : State) : s.SameQueues s := fun _ _ => rfl

theorem State.SameQueues.beds {r s t : State} (h : r.SameQueues s) (e : t.beds = s.beds) : r.SameQueues t := by
  intro n b
  rw [← h n b, State.bed, State.bed, e]

theorem State.SameQueues.modSprout {r s : State} (h : r.SameQueues s) (i : SproutId) (f : SproutSt → SproutSt) :
    r.SameQueues (s.modSprout i f) := by
  intro n b
  rw [← h n b, State.modSprout, State.bed_modBed]
  split
  · rfl
  · rfl

theorem State.SameQueues.ite {r s t : State} {c : Prop} [Decidable c] (hs : r.SameQueues s) (ht : r.SameQueues t) :
    r.SameQueues (if c then s else t) := by
  split
  · exact hs
  · exact ht

theorem State.SameQueues.issue {r s : State} (h : r.SameQueues s) (i : SproutId) (cost : Nat) (f : SproutSt → SproutSt) :
    r.SameQueues (s.issue i cost f) :=
  .ite (h.modSprout i _) h

/-- A change of a Bed that leaves its Sprouts leaves every Sprout. -/
theorem State.sprout_modBed (s : State) (n b : Nat) {f : BedSt → BedSt} (hf : ∀ x, (f x).sprouts = x.sprouts) :
    (s.modBed n b f).sprout = s.sprout := by
  funext i
  rw [State.sprout, State.bed_modBed]
  split
  · rw [hf]
    rfl
  · rfl

/-- The request that a gather makes of `words` words at an aligned address (R129). -/
def State.gatherReq (s : State) (i : SproutId) (load : Bool) (a : Fin 8) (ra : SReg) (words : Nat) : GatherReq :=
  { load := load, sprout := i.sprout.val, off := (s.sprout i).get (.a a), addr := (s.sprout i).get ra, words := words
    ctx := (s.sprout i).ctx.getD 0, entry := (s.sprout i).entry }

/-- A request joins the end of its Gatherer's queue. -/
def State.queueGather (s : State) (i : SproutId) (q : GatherReq) : State :=
  s.modBed i.plot.val i.bed.val fun b => { b with queue := b.queue ++ [q] }

theorem State.queueGather_queue (s : State) (i : SproutId) (q : GatherReq) :
    ((s.queueGather i q).bed i.plot.val i.bed.val).queue = (s.bed i.plot.val i.bed.val).queue ++ [q] := by
  rw [State.queueGather, State.bed_modBed, if_pos rfl]

theorem State.queueGather_sprout (s : State) (i : SproutId) (q : GatherReq) : (s.queueGather i q).sprout = s.sprout :=
  s.sprout_modBed _ _ fun _ => rfl

/-- With fewer than 4 gathers outstanding, room in the Gatherer and an aligned address, the request joins the queue. -/
theorem State.gather_aligned {s : State} {i : SproutId} {ra : SReg} {words : Nat} (load : Bool) (a : Fin 8)
    (hi : (s.sprout i).issues = true) (hg : (s.sprout i).gathers < 4) (hq : (s.bed i.plot.val i.bed.val).queue.length < 32)
    (ha : (s.sprout i).get ra % words = 0) :
    s.gather i load a ra words =
      (s.queueGather i (s.gatherReq i load a ra words)).issue i 1 fun y => { y with gathers := y.gathers + 1 } := by
  simp only [State.gather, hi, hg, hq, ha, and_self, if_true]
  rfl

/-- Such a request of a Sprout joins the queue, and the Sprout moves on with one gather more outstanding. -/
theorem exec_gather {c : Instr} {s : State} {i : SproutId} {load : Bool} {a : Fin 8} {ra : SReg} {words : Nat} (hs : s.stopped = false)
    (hi : (s.sprout i).issues = true) (hg : (s.sprout i).gathers < 4) (hq : (s.bed i.plot.val i.bed.val).queue.length < 32)
    (ha : (s.sprout i).get ra % words = 0) (hc : exec c s = .next (s.live fun u => u.gather i load a ra words)) :
    ∃ t, exec c s = .next t ∧ s.Ran i ({ s.sprout i with gathers := (s.sprout i).gathers + 1 }.after 1) t ∧
      (t.bed i.plot.val i.bed.val).queue = (s.bed i.plot.val i.bed.val).queue ++ [s.gatherReq i load a ra words] := by
  refine ⟨_, hc.trans (next_live hs _), ?_⟩
  rw [State.gather_aligned load a hi hg hq ha]
  set u := s.queueGather i (s.gatherReq i load a ra words) with hu
  have hsprout : u.sprout = s.sprout := s.queueGather_sprout i _
  constructor
  · have hran := u.ran_issue i 1 (fun y => { y with gathers := y.gathers + 1 }) (by rwa [hsprout])
    rwa [State.Ran, hsprout] at hran
  · rw [State.SameQueues.issue (.refl u) i 1 _, hu, State.queueGather_queue]

/-- Settles O28: loads and stores by the half that they access, gathers by their direction. -/
theorem sproutMemoryAccessCompletes : Obligations.SproutMemoryAccessCompletes := by
  refine ⟨?ldx, ?ldy, ?stx, ?sty, ?gld, ?gst⟩
  case ldx => exact fun i rd a s hs hi hsound => exec_loadWord (c := .ldx i rd a) hs hi hsound (by simp) rfl
  case ldy => exact fun i rd a s hs hi hsound => exec_loadWord (c := .ldy i rd a) hs hi hsound (by simp) rfl
  case stx => exact fun i rs a s hs hi hsound => exec_storeWord (c := .stx i rs a) hs hi hsound (by simp) rfl
  case sty => exact fun i rs a s hs hi hsound => exec_storeWord (c := .sty i rs a) hs hi hsound (by simp) rfl
  case gld => exact fun i a ra size s hs hi hg hq ha => exec_gather (c := .gld i a ra size) hs hi hg hq ha rfl
  case gst => exact fun i a ra size s hs hi hg hq ha => exec_gather (c := .gst i a ra size) hs hi hg hq ha rfl

end Sys2Proof.Machine
end

section
/-!
PROOF. The Sprout's loops, branches, jump, call, return, RTE and HALT (05 R121, R123, R124, R127; 06 R159): O29.
-/

namespace Sys2Proof.Machine

open Sys2Proof

/-! ### Loops (R123) -/

/-- LOOP with room for the loop opens a body that begins at the next instruction. -/
theorem exec_loop_opens (i : SproutId) (count len : Nat) {s : State} (hs : s.stopped = false) (hl : (s.sprout i).bank.loops.length < 2) :
    exec (.loop i count len) s = .next (s.issue i 1 fun x =>
      x.setBank { x.bank with loops := { start := x.bank.pc + 1, len := len, left := count } :: x.bank.loops }) :=
  (next_live hs _).trans (congrArg Host.Outcome.next (if_neg fun h => absurd h.2 (by omega)))

@[simp] theorem State.sprout_faultCtx (s : State) (c cause : Nat) : (s.faultCtx c cause).sprout = s.sprout :=
  State.sprout_of_beds (Keeps.beds_eq (State.faultCtx_keeps (Keeps.refl s) : LeavesBeds s _))

theorem State.sprout_modSprout_self (s : State) (i : SproutId) (f : SproutSt → SproutSt) : (s.modSprout i f).sprout i = f (s.sprout i) :=
  (s.ran_mod i f).1

/-- LOOP with two loops active stops the Sprout, its loops as they were, and a live context that it serves faults. -/
theorem exec_loop_full (i : SproutId) (count len : Nat) {s : State} (hs : s.stopped = false) (hi : (s.sprout i).issues = true)
    (hl : 2 ≤ (s.sprout i).bank.loops.length) :
    ∃ t, exec (.loop i count len) s = .next t ∧ (t.sprout i).stopped = true ∧ (t.sprout i).bank = (s.sprout i).bank ∧
      ∀ c, (s.sprout i).ctx = some c → (s.ctx c).live = true → (s.ctx c).fault = none → (t.ctx c).fault = some 0x1C := by
  let s1 := s.modSprout i fun x => { x with stopped := true }
  obtain ⟨hstop, hbank⟩ : (s1.sprout i).stopped = true ∧ (s1.sprout i).bank = (s.sprout i).bank := by
    rw [State.sprout_modSprout_self]
    exact ⟨rfl, rfl⟩
  rw [show exec (.loop i count len) s = _ from next_live hs _]
  simp only [hi, hl, and_self, if_true]
  cases hc : (s.sprout i).ctx with
  | none => exact ⟨s1, rfl, hstop, hbank, fun c h => nomatch h⟩
  | some c =>
    refine ⟨s1.faultCtx c 0x1C, rfl, (s1.sprout_faultCtx c 0x1C).symm ▸ hstop, (s1.sprout_faultCtx c 0x1C).symm ▸ hbank,
      fun d hd hlive hfault => ?_⟩
    obtain rfl := Option.some.inj hd
    rw [s1.faultCtx_fault c 0x1C hlive, show (s1.ctx c).fault = none from hfault]
    rfl

/-! ### Taken branches (R124) -/

/-- A Sprout waits at most 16 steps for its fetch. -/
theorem SproutSt.fetchWait_le (x : SproutSt) (i : SproutId) (target t : Nat) : x.fetchWait i target t ≤ 16 := by
  unfold SproutSt.fetchWait
  dsimp only
  split
  · omega
  · omega

/-- A taken branch, CALL or RET leaves the bank that it names and costs its own step and the wait for the fetch. -/
theorem State.ran_issueJump {s : State} {i : SproutId} (f : SproutSt → SproutSt) (g : Bank → Bank) (hi : (s.sprout i).issues = true) :
    s.Ran i ((s.sprout i).jumped (f (s.sprout i)) i (g (f (s.sprout i)).bank) (Config.paceIndex s.free)) (s.issueJump i f g) := by
  rw [State.issueJump, if_pos hi]
  exact (s.ran_mod i _).same rfl

/-- The Sprout whose return stack has taken CALL's entry, a fifth being free (log 31). -/
def State.called (s : State) (x : SproutSt) : SproutSt :=
  if x.ret.length < 4 then { x with ret := (x.bank.pc + 1) :: x.ret }
  else { x with ret := (List.range 4).map fun k => Config.retStack (4 * s.free + k) }

theorem State.called_steps (s : State) (x : SproutSt) : (s.called x).steps = x.steps := by
  unfold State.called
  split
  · rfl
  · rfl

@[simp] theorem SproutSt.jumped_bank (x y : SproutSt) (i : SproutId) (b : Bank) (t : Nat) : (x.jumped y i b t).bank = b :=
  y.bank_setBank b

@[simp] theorem SproutSt.jumped_ret (x y : SproutSt) (i : SproutId) (b : Bank) (t : Nat) : (x.jumped y i b t).ret = y.ret := by
  unfold SproutSt.jumped SproutSt.setBank
  split
  · rfl
  · rfl

theorem SproutSt.jumped_steps (x y : SproutSt) (i : SproutId) (b : Bank) (t : Nat) :
    y.steps < (x.jumped y i b t).steps ∧ (x.jumped y i b t).steps ≤ y.steps + 17 := by
  have hsteps : (x.jumped y i b t).steps = y.steps + 1 + x.fetchWait i b.pc t := rfl
  have := x.fetchWait_le i b.pc t
  omega

/-! ### HALT (R121; 06 R159) -/

@[simp] theorem State.putStatus_beds (s : State) (i : SproutId) (entry d word : Nat) : (s.putStatus i entry d word).beds = s.beds :=
  Keeps.beds_eq (State.putStatus_keeps (Keeps.refl s) : LeavesBeds s _)

@[simp] theorem State.sprout_toFlt (s : State) (r : FltRec) : (s.toFlt r).sprout = s.sprout := rfl

/-- An invocation, or other work, that ends leaves its Sprout idle. -/
theorem State.endInvocation_idle (s : State) (i : SproutId) : ((s.endInvocation i).sprout i).st = .idle := by
  unfold State.endInvocation
  dsimp only
  split
  · rw [State.sprout_modSprout_self]
  · split
    · rw [State.sprout_toFlt, State.sprout_modSprout_self]
      split
      · rw [State.sprout_of_beds (State.modCtx_beds _ _ _), State.sprout_modSprout_self]
      · rw [State.sprout_modSprout_self]
    · rw [State.sprout_modSprout_self]

/-- A Sprout that is idle stays so where its context's tasks leave it. -/
theorem State.leaveSprout_idle {s : State} {i : SproutId} (h : (s.sprout i).st = .idle) : ((s.leaveSprout i).sprout i).st = .idle := by
  unfold State.leaveSprout
  split
  · exact h
  · split
    · rw [State.zeroSprout, State.sprout_modSprout_self]
    · exact h

/-- Settles O29: LOOP by how many loops are active, BR by its condition, JMP, CALL and RET as branches taken, RTE by the bank in use. -/
theorem sproutFlowCompletes : Obligations.SproutFlowCompletes := by
  refine ⟨?loop, ?br, ?calls, ?ret, ?ends⟩
  case loop =>
    intro i count len s hs hi
    by_cases hl : (s.sprout i).bank.loops.length < 2
    · exact ⟨_, exec_loop_opens i count len hs hl, fun _ => State.ran_issue s i 1 _ hi, fun h => absurd hl (by omega)⟩
    · obtain ⟨t, ht, hfull⟩ := exec_loop_full i count len hs hi (by omega)
      exact ⟨t, ht, fun h => absurd h hl, fun _ => hfull⟩
  case br =>
    intro i sense target s hs hi
    by_cases hb : (s.sprout i).bank.cond = sense
    · obtain ⟨hself, hother⟩ := State.ran_issueJump (s := s) id (·.jump target) hi
      refine ⟨_, (next_live hs _).trans (congrArg Host.Outcome.next (if_pos hb)), fun h => absurd hb h, fun _ => ?_⟩
      rw [hself]
      obtain ⟨hlo, hhi⟩ := SproutSt.jumped_steps (s.sprout i) (s.sprout i) i ((s.sprout i).bank.jump target) (Config.paceIndex s.free)
      exact ⟨congrArg Bank.pc (SproutSt.jumped_bank _ _ _ _ _), hlo, hhi, hother⟩
    · exact ⟨_, (next_live hs _).trans (congrArg Host.Outcome.next (if_neg hb)), fun _ => State.ran_issue s i 1 id hi, fun h => absurd h hb⟩
  case calls =>
    intro i target s hs hi
    obtain ⟨hself, hother⟩ := State.ran_issueJump (s := s) id (·.jump target) hi
    obtain ⟨huself, huother⟩ := State.ran_issueJump (s := s) s.called (fun b => { b with pc := target }) hi
    obtain ⟨hlo, hhi⟩ := SproutSt.jumped_steps (s.sprout i) (s.called (s.sprout i)) i
      { (s.called (s.sprout i)).bank with pc := target } (Config.paceIndex s.free)
    rw [← huself, State.called_steps] at hlo hhi
    refine ⟨_, _, next_live hs _, next_live hs _, ?_, ?_, ?_, hlo, hhi, fun hr => ?_, fun j hj => ⟨hother j hj, huother j hj⟩⟩
    · rw [hself, SproutSt.jumped_bank]
      rfl
    · rw [hself, SproutSt.jumped_ret]
      rfl
    · exact huself ▸ congrArg Bank.pc (SproutSt.jumped_bank _ _ _ _ _)
    · refine (congrArg SproutSt.ret huself).trans ?_
      rw [SproutSt.jumped_ret, State.called, if_pos hr]
  case ret =>
    intro i target rest s hs hi hret
    obtain ⟨hself, hother⟩ := State.ran_issueJump (s := s) (fun x => { x with ret := x.ret.tail }) (·.returned target) hi
    refine ⟨_, next_live hs _, ?_⟩
    simp only [hret, List.headD_cons, hself, SproutSt.jumped_bank, SproutSt.jumped_ret, List.tail_cons]
    exact ⟨rfl, rfl, trivial, hother⟩
  case ends =>
    intro i s hs hi
    refine ⟨_, _, next_live hs _, next_live hs _, fun hb => ?_, fun hb => ?_, ?_⟩
    · simp only [hb, hi, if_true]
      exact s.ran_mod i _
    · simp only [hb, if_false, reduceCtorEq]
      exact s.ran_issue i 1 id hi
    · simp only [hi, if_true]
      exact State.leaveSprout_idle (State.endInvocation_idle _ i)

end Sys2Proof.Machine
end

section
/-!
PROOF. The Sprout's waits, signals, pre-emption point and bank switch, and the Gatherer's row access (05 R126 to R131): O30.
-/

namespace Sys2Proof.Machine

open Sys2Proof

/-! ### Waits, signals, pre-emption points and the bank switch -/

/-- An asserted line is pending. -/
theorem fieldOf_lor_two_pow (x k : Nat) : fieldOf (Nat.lor x (2 ^ k)) k 1 = 1 := by
  have hbit : (Nat.lor x (2 ^ k)).testBit k = true := (Nat.testBit_lor ..).trans (by simp [Nat.testBit_two_pow_self])
  simpa [Nat.testBit, fieldOf, Nat.and_one_is_mod] using hbit

/-- A line asserted is pending, and a wait that it ends is over (R126). -/
theorem State.ran_assertLine (s : State) (i : SproutId) (line : Nat) : s.Ran i { s.sprout i with
      pend := Nat.lor (s.sprout i).pend (2 ^ line)
      wait := if fieldOf (s.sprout i).en line 1 = 1 ∨ (line = 0 ∧ (s.sprout i).wait = .gather) then .none else (s.sprout i).wait }
    (s.assertLine i line) := s.ran_mod i _

/-- An instruction of one step that makes `y` of the Sprout's registers. -/
theorem State.ran_issue_eq {s : State} {i : SproutId} {f : SproutSt → SproutSt} {y : SproutSt} (hy : f (s.sprout i) = y)
    (hi : (s.sprout i).issues = true) : s.Ran i (y.after 1) (s.issue i 1 f) :=
  hy ▸ s.ran_issue i 1 f hi

/-- Asserting a line passes no step. -/
theorem State.assertLine_steps (s : State) (i j : SproutId) (line : Nat) : ((s.assertLine i line).sprout j).steps = (s.sprout j).steps := by
  rw [State.assertLine, State.sprout_modSprout]
  split
  · rfl
  · rfl

@[simp] theorem SproutSt.setBank_stopped (x : SproutSt) (b : Bank) : (x.setBank b).stopped = x.stopped := by
  unfold SproutSt.setBank
  split
  · rfl
  · rfl

theorem SproutSt.after_stopped (y : SproutSt) (cost : Nat) : (y.after cost).stopped = y.stopped := y.setBank_stopped _

theorem SproutSt.after_pc (y : SproutSt) (cost : Nat) : (y.after cost).bank.pc = y.bank.next.pc :=
  congrArg Bank.pc (y.bank_setBank y.bank.next)

/-- BANK_SWITCH of a Sprout in bank 0 that has not stopped takes the line. -/
theorem exec_bankSwitch_takes {i : SproutId} {k : Nat} {s : State} (hs : s.stopped = false) (hb : (s.sprout i).st = .bank0)
    (hr : (s.sprout i).stopped = false) (hk : (s.sprout i).line = some k) :
    exec (.bankSwitch i) s = .next (s.modSprout i fun x =>
      { x with
        st := .bank1, wait := .none, pend := x.pend - 2 ^ k, steps := x.steps + 2
        b1 := { x.b1 with pc := SMap.get zeroUnlisted x.vec k } }) := by
  rw [show exec (.bankSwitch i) s = _ from next_live hs _]
  simp [hk, hb, hr]

/-! ### The Gatherer's row access (R130, R131) -/

theorem State.SameQueues.left {r s t : State} (h : r.SameQueues s) (k : LeavesBeds s t) : r.SameQueues t := h.beds (Keeps.beds_eq k)

theorem State.SameQueues.foldl {α : Type} {r : State} (g : State → α → State) (hg : ∀ t x, r.SameQueues t → r.SameQueues (g t x)) :
    ∀ (l : List α) (t : State), r.SameQueues t → r.SameQueues (l.foldl g t)
  | [], _, h => h
  | x :: l, t, h => State.SameQueues.foldl g hg l _ (hg t x h)

theorem State.SameQueues.foldl2 {α β : Type} {r : State} (g : β × State → α → β × State)
    (hg : ∀ a x, r.SameQueues a.2 → r.SameQueues (g a x).2) : ∀ (l : List α) (a : β × State), r.SameQueues a.2 → r.SameQueues (l.foldl g a).2
  | [], _, h => h
  | x :: l, a, h => State.SameQueues.foldl2 g hg l _ (hg a x h)

theorem State.SameQueues.pair {β : Type} {r t : State} (b : β) (h : r.SameQueues t) : r.SameQueues (b, t).2 := h

theorem State.SameQueues.leaveSprout {r s : State} (h : r.SameQueues s) (i : SproutId) : r.SameQueues (s.leaveSprout i) := by
  unfold State.leaveSprout
  split
  · exact h
  · exact .ite ((h.beds (State.zeroBytes_beds s _ _)).modSprout i _) h

theorem State.SameQueues.dataEvents {r s : State} (h : r.SameQueues s) (i : SproutId) (off : Nat) :
    r.SameQueues (s.dataEvents i off).2 :=
  h.left (State.dataEvents_keeps (Keeps.refl s))

theorem State.SameQueues.sproutAbort {r s : State} (h : r.SameQueues s) (i : SproutId) : r.SameQueues (s.sproutAbort i) :=
  (h.modSprout i _).left (State.raise_keeps (Keeps.refl _))

theorem State.SameQueues.gatherCheck {r s : State} (h : r.SameQueues s) (n : Fin 8) (b : Fin 17) (q : GatherReq) :
    r.SameQueues (s.gatherCheck n b q).2 := by
  unfold State.gatherCheck
  dsimp only
  refine .ite (.sproutAbort ?reads _) ?reads
  refine .foldl2 _ (fun a j ha => ?_) _ _ h
  exact .pair _ (ha.dataEvents _ _)

theorem State.SameQueues.gatherSound {r s : State} (h : r.SameQueues s) (n : Fin 8) (b : Fin 17) (l : List GatherReq) :
    r.SameQueues (s.gatherSound n b l).2 := by
  refine .foldl2 _ (fun a q ha => ?_) _ _ h
  exact .pair _ (ha.gatherCheck n b q)

/-- A row access takes the oldest request and those merged with it off the queue, and what it moves leaves the queue. -/
theorem State.gatherRow_queue {s : State} {n : Fin 8} {b : Fin 17} {q : GatherReq} {l : List GatherReq}
    (hq : (s.bed n.val b.val).queue = q :: l) : ((s.gatherRow n b).bed n.val b.val).queue = (mergeable q l).2 := by
  set s0 := s.modBed n.val b.val fun x => { x with queue := (mergeable q l).2 } with hs0
  have hs0q : (s0.bed n.val b.val).queue = (mergeable q l).2 := by rw [hs0, State.bed_modBed, if_pos rfl]
  have hsame : s0.SameQueues (s.gatherRow n b) := by
    simp only [State.gatherRow, hq]
    refine .foldl _ (fun t r ht => ((ht.modSprout _ _).modSprout _ _).leaveSprout _) _ _ ?_
    have hsound : s0.SameQueues ((s0.bump (pgBed n.val b.val) 0x78 (s.plotPart n.val)).gatherSound n b (q :: (mergeable q l).1)).2 :=
      ((State.SameQueues.refl s0).left (State.bump_keeps (Keeps.refl _))).gatherSound n b _
    split
    · split
      · exact hsound.left (State.winRead_keeps (Keeps.refl _))
      · refine .foldl _ (fun t r ht => .foldl _ (fun t j ht => ?_) _ _ ht) _ _ (hsound.left (State.winRead_keeps (Keeps.refl _)))
        exact ht.left (State.dataWrite_keeps (Keeps.refl _))
    · refine .ite (hsound.left (State.winWrite_keeps (Keeps.refl _))) ?_
      exact hsound.left (State.raise_keeps (State.bumpBy_keeps (State.winWrite_keeps (Keeps.refl _))))
  rw [hsame, hs0q]

/-- Settles O30: each instruction by what it makes of the Sprout's registers, and the row access by what keeps the queue. -/
theorem sproutSynchronisationCompletes : Obligations.SproutSynchronisationCompletes := by
  refine ⟨?waits, ?sig, ?ppt, ?bankSwitch, ?gatherer⟩
  case waits =>
    intro i s hs hi hl
    refine ⟨_, _, next_live hs _, next_live hs _, fun hp => ?_, fun hp => ?_, ?_⟩
    · exact State.ran_issue_eq (by simp [hl, hp]) hi
    · exact State.ran_issue_eq (by simp [hl, hp]) hi
    · exact State.ran_issue_eq (by simp [hl]) hi
  case sig =>
    intro i target s hs hi
    obtain ⟨hself, hother⟩ := s.ran_issue i 1 id hi
    obtain ⟨htarget, hrest⟩ := (s.issue i 1 id).ran_assertLine ⟨i.plot, i.bed, target⟩ 5
    refine ⟨_, (next_live hs _).trans (congrArg Host.Outcome.next (if_pos hi)), ?_, ?_, fun j hj hjt => (hrest j hjt).trans (hother j hj)⟩
    · rw [htarget]
      exact fieldOf_lor_two_pow _ 5
    · rw [State.assertLine_steps, hself]
      rfl
  case ppt =>
    intro i s hs hi
    refine ⟨_, next_live hs _, fun hp => ?_, fun hp => ?_⟩
    · rw [(s.ran_issue i 1 _ hi).1]
      simp only [hp, if_true]
      exact ⟨SproutSt.after_stopped _ 1, (SproutSt.after_pc _ 1).trans rfl⟩
    · exact State.ran_issue_eq (by simp [hp]) hi
  case bankSwitch => exact fun i k s hs hb hr hk => ⟨_, exec_bankSwitch_takes hs hb hr hk, s.ran_mod i _⟩
  case gatherer =>
    intro plot bed races q l s hs hflag hpruned hready hq
    have hserves : s.flag (pgBed plot.val bed.val) 0x100 4 = true ∧ ¬ s.pruned plot.val = true ∧ s.bedReady plot.val bed.val = true :=
      ⟨hflag, by simp [hpruned], hready⟩
    have hqueue := State.gatherRow_queue hq
    refine ⟨_, (next_live hs _).trans (congrArg Host.Outcome.next (if_pos hserves)), ?_⟩
    simp only [hq]
    split
    · exact hqueue
    · exact ((State.SameQueues.refl _).left (State.raced_keeps (State.raise_keeps (State.bumpBy_keeps (Keeps.refl _)))) _ _).trans hqueue

end Sys2Proof.Machine
end

section
/-!
PROOF. Re-runs of a Sprout's invocation (05 R137; 11 R298): O39.
-/

namespace Sys2Proof.Machine

open Sys2Proof

@[simp] theorem State.sprout_advance (s : State) (x : Nat) : (s.advance x).sprout = s.sprout := rfl

@[simp] theorem State.sprout_tightGrant (s : State) (c n kind cost : Nat) : (s.tightGrant c n kind cost).2.sprout = s.sprout :=
  State.sprout_of_beds (Keeps.beds_eq (State.tightGrant_keeps (Keeps.refl s) : LeavesBeds s _))

/-! ### An invocation that ends aborted -/

/-- A failed or refused re-run ends the invocation aborted, and leaves every other Sprout. -/
theorem State.ran_failRerun {s : State} {q : SproutId} {d : Nat} (kind : Nat) (hd : (s.sprout q).desc = some d) :
    s.Ran q { s.sprout q with st := .aborted, desc := none, grant := none } (s.failRerun q kind) := by
  simp only [State.failRerun, hd]
  exact (State.ran_mod_from q _ (State.putStatus_beds _ _ _ _ _)).same (State.toFlt_beds _ _)

/-- The invocation of `k` is no longer in flight once it has failed, and that of `j` is not if it was not. -/
theorem State.failRerun_desc {s : State} {j k : SproutId} (kind : Nat) (h : j = k ∨ (s.sprout j).desc = none) :
    ((if (s.sprout k).desc.isSome then s.failRerun k kind else s).sprout j).desc = none := by
  cases hd : (s.sprout k).desc with
  | none => exact h.elim (fun e => e ▸ hd) id
  | some d =>
    obtain ⟨hself, hother⟩ := State.ran_failRerun kind hd
    by_cases hjk : j = k
    · simp [hjk, hself]
    · simp [hother j hjk, h.resolve_left hjk]

/-- Invocations that fail one after another leave none in flight on the Sprouts named, nor where there was none. -/
theorem State.foldl_failRerun_desc (kind : Nat) : ∀ (l : List SproutId) (s : State) (j : SproutId),
    (j ∈ l ∨ (s.sprout j).desc = none) →
    ((l.foldl (fun t k => if (t.sprout k).desc.isSome then t.failRerun k kind else t) s).sprout j).desc = none
  | [], _, _, h => h.resolve_left List.not_mem_nil
  | k :: l, s, j, h => by
    refine State.foldl_failRerun_desc kind l _ j ?_
    by_cases hl : j ∈ l
    · exact .inl hl
    · exact .inr (State.failRerun_desc kind (h.imp_left fun hj => (List.mem_cons.1 hj).resolve_right hl))

/-! ### Asking for a re-run (11 R298) -/

theorem State.ctx_of_rms {s t : State} (h : t.rms = s.rms) : t.ctx = s.ctx := by
  funext c
  rw [State.ctx, State.ctx, h]

theorem State.flyingStep_ctx {s t : State} (h : t.ctx = s.ctx) (c : Nat) : t.flyingStep c = s.flyingStep c := by
  rw [State.flyingStep, State.flyingStep, h]

/-- A first run whose cost Tightrope grants starts again from its entry with fresh banks, marked as a re-run. -/
theorem State.askRerun_granted {s : State} {q : SproutId} {d c : Nat} {y : StepSt} (kind : Nat) (hd : (s.sprout q).desc = some d)
    (hc : (s.sprout q).ctx = some c) (hr : (s.sprout q).rerun = false) (hy : s.flyingStep c = some y)
    (hg : (s.tightGrant c y.n 2 (netSteps d)).1 = true) :
    (s.askRerun q kind).sprout q = { s.sprout q with
      st := .bank0, wait := .none, rerun := true, rerunKind := kind, stopped := false, grant := some (y.n, netSteps d), ret := []
      b0 := { pc := Config.sproutEntry d }, b1 := {} } := by
  simp only [State.askRerun, hd, hc, hr, hy, hg, if_true, if_false, Bool.false_eq_true]
  refine (State.sprout_modSprout_self _ q _).trans ?_
  rw [State.sprout_tightGrant, ← hc, ← hd]

/-- An invocation that is a re-run, or whose cost Tightrope refuses, ends aborted. -/
theorem State.askRerun_refused {s : State} {q : SproutId} {d c : Nat} (kind : Nat) (hd : (s.sprout q).desc = some d)
    (hc : (s.sprout q).ctx = some c)
    (h : (s.sprout q).rerun = true ∨ ∃ y, s.flyingStep c = some y ∧ (s.tightGrant c y.n 2 (netSteps d)).1 = false) :
    ((s.askRerun q kind).sprout q).st = .aborted ∧ ((s.askRerun q kind).sprout q).desc = none := by
  have hfail : ∀ u : State, u.sprout = s.sprout → ((u.failRerun q kind).sprout q).st = .aborted ∧ ((u.failRerun q kind).sprout q).desc = none := by
    intro u hu
    rw [(State.ran_failRerun kind (hu ▸ hd)).1]
    exact ⟨rfl, rfl⟩
  cases hr : (s.sprout q).rerun with
  | true =>
    simp only [State.askRerun, hd, hc, hr, if_true]
    exact hfail s rfl
  | false =>
    obtain ⟨y, hy, hg⟩ := h.resolve_left (by simp [hr])
    simp only [State.askRerun, hd, hc, hr, hy, hg, if_false, Bool.false_eq_true]
    exact hfail _ (s.sprout_tightGrant _ _ _ _)

/-! ### RERUN_REQUEST (R137) -/

/-- A Sprout at work is aborted: the event, and for a residue mismatch the count of those. -/
def State.rerunAbort (s : State) (q : SproutId) (cause : Fin 3) : State :=
  let s1 := s.sproutAbort q
  if cause = 0 then s1.bump (pgBed q.plot.val q.bed.val) 0x48 (s.plotPart q.plot.val) else s1

theorem State.sprout_rerunAbort (s : State) (q : SproutId) (cause : Fin 3) :
    (s.rerunAbort q cause).sprout q = { s.sprout q with st := .aborted } := by
  have habort : (s.sproutAbort q).sprout q = { s.sprout q with st := .aborted } :=
    (congrFun (State.sprout_of_beds (State.raise_beds _ _ _ _)) q).trans (s.sprout_modSprout_self q _)
  unfold State.rerunAbort
  dsimp only
  split
  · exact (congrFun (State.sprout_of_beds (State.bump_beds _ _ _ _)) q).trans habort
  · exact habort

/-- Contexts, registers and time are as before. -/
theorem State.rerunAbort_keeps (s : State) (q : SproutId) (cause : Fin 3) :
    (s.rerunAbort q cause).rms = s.rms ∧ (s.rerunAbort q cause).gate = s.gate ∧ (s.rerunAbort q cause).sdl = s.sdl := by
  unfold State.rerunAbort State.sproutAbort
  dsimp only
  split
  · simp
  · simp

/-- RERUN_REQUEST of an idle Sprout passes time alone. -/
theorem exec_rerunRequest_idle (q : SproutId) (cause : Fin 3) (x : Nat) {s : State} (hs : s.stopped = false)
    (hq : (s.sprout q).st = .idle) : exec (.rerunRequest q cause x) s = .next (s.advance x) :=
  (next_live hs _).trans (congrArg Host.Outcome.next (if_pos hq))

/-- Of a Sprout at work on a descriptor it asks for a re-run. -/
theorem exec_rerunRequest_descriptor (q : SproutId) {cause : Fin 3} (x : Nat) {s : State} {d : Nat} (hs : s.stopped = false)
    (hq : (s.sprout q).st ≠ .idle) (hcause : cause ≠ 2) (hd : (s.sprout q).desc = some d) :
    exec (.rerunRequest q cause x) s = .next (((s.advance x).rerunAbort q cause).askRerun q (if cause = 0 then 4 else 1)) := by
  rw [show exec (.rerunRequest q cause x) s = _ from next_live hs _]
  simp only [State.sprout_advance, hq, hcause, hd, if_false, if_true, Option.isSome_some]
  rfl

/-- Of a Sprout that runs other code it faults the context that the Sprout serves. -/
theorem exec_rerunRequest_other (q : SproutId) {cause : Fin 3} (x : Nat) {s : State} {c : Nat} (hs : s.stopped = false)
    (hq : (s.sprout q).st ≠ .idle) (hcause : cause ≠ 2) (hd : (s.sprout q).desc = none) (hc : (s.sprout q).ctx = some c) :
    ∃ u : State, u.ctx = s.ctx ∧ exec (.rerunRequest q cause x) s = .next (u.faultCtx c 0x13) := by
  rw [show exec (.rerunRequest q cause x) s = _ from next_live hs _]
  simp only [State.sprout_advance, hq, hcause, hd, hc, if_false, Option.isSome_none, Bool.false_eq_true]
  refine ⟨_, ?_, rfl⟩
  refine (State.ctx_of_rms ?_).trans (s.advance_ctx x)
  split
  · simp
  · simp

/-- An uncorrectable program-memory error fails every invocation in flight on the Bed. -/
theorem exec_rerunRequest_bed (q : SproutId) (x : Nat) {s : State} (hs : s.stopped = false) (hq : (s.sprout q).st ≠ .idle) :
    ∃ u : State, exec (.rerunRequest q 2 x) s = .next (((List.finRange 16).map fun k => (⟨q.plot, q.bed, k⟩ : SproutId)).foldl
      (fun t k => if (t.sprout k).desc.isSome then t.failRerun k 1 else t) u) := by
  rw [show exec (.rerunRequest q 2 x) s = _ from next_live hs _]
  simp only [State.sprout_advance, hq, if_false, if_true]
  exact ⟨_, rfl⟩

/-- Settles O39: by what the Sprout is at work on, and for a descriptor by whether Tightrope grants the re-run. -/
theorem rerunsComplete : Obligations.RerunsComplete := by
  refine ⟨?idle, ?descriptor, ?other, ?bed⟩
  case idle => exact fun q cause x s hs hq => ⟨_, exec_rerunRequest_idle q cause x hs hq, s.advance_beds x⟩
  case descriptor =>
    intro q cause x s d c hs hq hcause hd hc
    have hself := (s.advance x).sprout_rerunAbort q cause
    obtain ⟨hrms, hgate, hsdl⟩ := (s.advance x).rerunAbort_keeps q cause
    have hctx : ((s.advance x).rerunAbort q cause).ctx = s.ctx := (State.ctx_of_rms hrms).trans (s.advance_ctx x)
    have hgrant := fun n => State.tightGrant_congr hrms hgate hsdl c n 2 (netSteps d)
    refine ⟨_, exec_rerunRequest_descriptor q x hs hq hcause hd, fun y hr hy hg => ?_, fun h => ?_⟩
    · rw [State.askRerun_granted _ (by rwa [hself]) (by rwa [hself]) (by rwa [hself]) (State.flyingStep_ctx hctx c ▸ hy) (hgrant y.n ▸ hg)]
      exact ⟨rfl, rfl, rfl, rfl, rfl⟩
    · refine State.askRerun_refused _ (by rwa [hself]) (by rwa [hself]) ?_
      simpa only [hself, State.sprout_advance, State.flyingStep_ctx hctx, hgrant] using h
  case other =>
    intro q cause x s c hs hq hcause hd hc hlive
    obtain ⟨u, hu, hexec⟩ := exec_rerunRequest_other q x hs hq hcause hd hc
    refine ⟨_, hexec, ?_⟩
    rw [u.faultCtx_fault c 0x13 (by rwa [hu]), hu]
  case bed =>
    intro q x s hs hq
    obtain ⟨u, hexec⟩ := exec_rerunRequest_bed q x hs hq
    refine ⟨_, hexec, fun k => State.foldl_failRerun_desc 1 _ u _ (.inl ?_)⟩
    exact List.mem_map_of_mem (List.mem_finRange k)

end Sys2Proof.Machine
end

section
/-!
PROOF. Starting Furrows, issuing their requests, and what answers those and their pages (07 R163 to R179): O35.
-/

namespace Sys2Proof.Machine

open Sys2Proof

/-! ### Furrows, requests and generations after the shared operations -/

@[simp] theorem State.furrow_advance (s : State) (x : Nat) : (s.advance x).furrow = s.furrow := rfl

@[simp] theorem State.furrow_dropRequest (s : State) (r : Request) : (s.dropRequest r).furrow = s.furrow := rfl

@[simp] theorem State.furrow_grantWaiting (s : State) (p : Pool) : (s.grantWaiting p).furrow = s.furrow :=
  (s.grantWaiting_irg p).furrow

theorem State.furrow_countIssue (s : State) (k f : Nat) : (s.countIssue k f).furrow = s.furrow := by
  funext j g
  exact s.furrow_modIrg k j g _ fun _ => rfl

@[simp] theorem State.gens_settleIrg (s : State) (k : Nat) : (s.settleIrg k).irg.gens = s.irg.gens := by
  have hfold : ∀ (l : List (Nat × Furrow)) (t : State),
      (l.foldl (fun t e => t.modFurrow k e.1 Furrow.settle) t).irg.gens = t.irg.gens := by
    intro l
    induction l with
    | nil => exact fun _ => rfl
    | cons e l ih => exact fun t => ih _
  exact hfold _ s

theorem State.gens_grantTag (s : State) (r : Request) : (s.grantTag r).irg.gens = s.irg.gens := by
  rw [State.grantTag, State.send_irg]

@[simp] theorem State.gens_grantWaiting (s : State) (p : Pool) : (s.grantWaiting p).irg.gens = s.irg.gens := by
  unfold State.grantWaiting
  split
  · rfl
  · split
    · exact s.gens_grantTag _
    · rfl

theorem State.gens_newRequest (s : State) (r : Request) : (s.newRequest r).irg.gens = s.irg.gens := by
  unfold State.newRequest
  split
  · exact s.gens_grantTag _
  · rfl

theorem State.gens_furrowLimit (s : State) (k f : Nat) : (s.furrowLimit k f).irg.gens = s.irg.gens := by
  rw [State.furrowLimit, Keeps.irg_eq (State.overLimit_keeps (Keeps.refl _) : LeavesIrg (s.modFurrow k f _) _)]
  rfl

/-- Requests are found by their pool and tag among those in flight alone. -/
theorem State.request?_congr {s t : State} (h : t.irg.requests = s.irg.requests) (p : Pool) (tag : Nat) :
    t.request? p tag = s.request? p tag := by
  rw [State.request?, State.request?, State.holders, State.holders, h]

theorem State.gen_congr {s t : State} (h : t.irg.gens = s.irg.gens) (p : Pool) (tag : Nat) : t.gen p tag = s.gen p tag := by
  rw [State.gen, State.gen, h]

/-- A state after another with all that places depend on as before. -/
abbrev LeavesPlaces (r t : State) : Prop :=
  Keeps True True True False True True True False True True True True False False False False True False r t

theorem State.SamePlaces.of_keeps {s t : State} (h : LeavesPlaces s t) : s.SamePlaces t :=
  ⟨Keeps.gate_eq h, Keeps.pwr_eq h, Keeps.flt_eq h, Keeps.beds_eq h, Keeps.ring_eq h, Keeps.ddr_eq h, Keeps.sec_eq h⟩

/-! ### FURROW_START (R163) -/

theorem fCnt_pos (d k : Nat) : 0 < fCnt d k := by
  unfold fCnt
  split
  · exact Nat.succ_pos _
  · exact Nat.one_pos

/-- A dimension counts among the runs of a tile where the tile's level reaches it. -/
theorem ite_fCnt_bounds (d k : Nat) (p : Prop) [Decidable p] :
    0 < (if p then fCnt d k else 1) ∧ (if p then fCnt d k else 1) ≤ fCnt d k := by
  have hk := fCnt_pos d k
  split
  · exact ⟨hk, le_refl _⟩
  · exact ⟨Nat.one_pos, hk⟩

/-- A Furrow delivers at least one tile. -/
theorem fTiles_pos (d : Nat) : 0 < fTiles d := by
  obtain ⟨h1, g1⟩ := ite_fCnt_bounds d 1 (1 ≤ fTileLvl d)
  obtain ⟨h2, g2⟩ := ite_fCnt_bounds d 2 (2 ≤ fTileLvl d)
  obtain ⟨h3, g3⟩ := ite_fCnt_bounds d 3 (3 ≤ fTileLvl d)
  obtain ⟨h4, g4⟩ := ite_fCnt_bounds d 4 (4 ≤ fTileLvl d)
  have hpos : 0 < fTileRuns d := Nat.mul_pos (Nat.mul_pos (Nat.mul_pos h1 h2) h3) h4
  have hle : fTileRuns d ≤ fRuns d := Nat.mul_le_mul (Nat.mul_le_mul (Nat.mul_le_mul g1 g2) g3) g4
  exact Nat.div_pos hle hpos

/-- A Furrow as FURROW_START puts it in place. -/
def startedFurrow (c entry slot desc : Nat) (carried : Bool) : Furrow :=
  { st := if fPark desc then .parked else .active, ctx := c, entry := entry, slot := slot, desc := desc, carried := carried }

/-- Nothing of a Furrow that has just started changes as its Irrigator settles: its first tile is within its credit (R167). -/
theorem settle_startedFurrow (c entry slot desc : Nat) (carried : Bool) :
    (startedFurrow c entry slot desc carried).settle = startedFurrow c entry slot desc carried := by
  have htiles : (0 : Nat) ≠ fTiles desc := (fTiles_pos desc).ne
  have hcredit : fCap desc ≠ 0 := Nat.succ_ne_zero _
  unfold startedFurrow Furrow.settle
  cases fPark desc with
  | true => rfl
  | false => simp [htiles, Furrow.mayFetch, hcredit, Nat.pos_iff_ne_zero]

/-- FURROW_START of a live context that holds a resident slot. -/
theorem exec_furrowStart_live (irg : Fin 9) (f : Nat) (c : Ctx) (entry : Fin 32) (desc : Nat) (carried : Bool) {s : State} {slot : Nat}
    (hs : s.stopped = false) (hslot : (s.ctx c.val).slot = some slot) (hlive : (s.ctx c.val).live = true) :
    exec (.furrowStart irg f c entry desc carried) s = .next
      (((s.modFurrow irg.val f fun _ => startedFurrow c.val entry.val slot desc carried).settleIrg irg.val).opDone c.val
        (if irg.val = 8 then 4 else 3) irg.val desc) := by
  rw [show exec (.furrowStart irg f c entry desc carried) s = _ from next_live hs _]
  simp only [hslot, hlive, if_true]
  rfl

theorem State.furrow_opDone (s : State) (c engine plot desc : Nat) : (s.opDone c engine plot desc).furrow = s.furrow :=
  State.furrow_left (State.opDone_keeps (Keeps.refl s))

/-! ### IRRIGATOR_ISSUE (R169, R173) -/

/-- An access to DRAM inside bound whose destination needs no translation leaves as a request of its addresses and length. -/
theorem State.issueFurrow_dram {s : State} {k f a n : Nat} {y : Furrow} (xlat dxlat : Option Nat) (hf : s.furrow k f = y)
    (hspill : y.spilled = []) (hn : s.nextLen k y = n)
    (hok : s.formedBad y (s.srcPlace k y (fSrcAt y.desc (y.next / fRun y.desc) (y.next % fRun y.desc)) n) n false = false)
    (hsrc : s.srcPlace k y (fSrcAt y.desc (y.next / fRun y.desc) (y.next % fRun y.desc)) n = .dram a)
    (hdst : s.translate y.ctx (s.dstPlace k y (fDstAt y.desc (y.next / fRun y.desc) (y.next % fRun y.desc)) n) n dxlat = .plain) :
    ∃ q ∈ (s.issueFurrow k f xlat dxlat).irg.requests, q.irg = k ∧ q.furrow = f ∧
      q.src = fSrcAt y.desc (y.next / fRun y.desc) (y.next % fRun y.desc) ∧
      q.dst = fDstAt y.desc (y.next / fRun y.desc) (y.next % fRun y.desc) ∧ q.len = n ∧ q.pos = y.next := by
  have hplain : s.translate y.ctx (.dram a) n xlat = .plain := rfl
  rw [hsrc] at hok
  simp only [State.issueFurrow, hf, hspill, hn, hsrc, hok, hdst, hplain, Bool.false_eq_true, if_false]
  obtain ⟨q, hq, hirg, hfur, -, hqsrc, hqdst, hlen, -, hpos, -⟩ := State.newRequest_mem _ _
  exact ⟨q, hq, hirg, hfur, hqsrc, hqdst, hlen, hpos⟩

/-- IRRIGATOR_ISSUE with no eligible Furrow adds no request. -/
theorem exec_irrigatorIssue_none (irg : Fin 9) (xlat dxlat : Option Nat) (level x : Nat) {s u : State} (hs : s.stopped = false)
    (hu : u = ((s.advance x).settleIrg irg.val).noteWaits irg.val) (hv : u.served irg.val = none) :
    exec (.irrigatorIssue irg xlat dxlat level x) s = .next (u.settleIrg irg.val) := by
  rw [show exec (.irrigatorIssue irg xlat dxlat level x) s = _ from next_live hs _]
  simp only [← hu, hv]

/-- IRRIGATOR_ISSUE of the served Furrow issues from a state that has the same places and Furrows; what follows keeps the requests. -/
theorem exec_irrigatorIssue_served (irg : Fin 9) (xlat dxlat : Option Nat) (level x : Nat) {s u : State} {f : Nat}
    (hs : s.stopped = false) (hu : u = ((s.advance x).settleIrg irg.val).noteWaits irg.val) (hv : u.served irg.val = some f) :
    ∃ w t : State, u.SamePlaces w ∧ w.furrow = u.furrow ∧ exec (.irrigatorIssue irg xlat dxlat level x) s = .next t ∧
      t.irg.requests = (w.issueFurrow irg.val f xlat dxlat).irg.requests := by
  rw [show exec (.irrigatorIssue irg xlat dxlat level x) s = _ from next_live hs _]
  simp only [← hu, hv]
  set s1 := if (s.furrow irg.val f).tagWait = true then u.bump (pgIrg irg.val) 0x98 (u.furrowPart irg.val f) else u with hs1
  have hplaces : LeavesPlaces u s1 := ite_keeps (State.bump_keeps (Keeps.refl u)) (Keeps.refl u)
  have hfurrow : s1.furrow = u.furrow :=
    State.furrow_left (ite_keeps (State.bump_keeps (Keeps.refl u)) (Keeps.refl u) : LeavesIrg u s1)
  refine ⟨s1.countIssue irg.val f, _, .of_keeps (State.countIssue_keeps hplaces), (s1.furrow_countIssue _ _).trans hfurrow, rfl, ?_⟩
  split
  · rw [(State.setLevel_same _ _ _).2.1, State.requests_settle]
  · rw [State.requests_settle]

/-! ### REQUEST_COMPLETION (R173, R174) -/

/-- The return FIFO that a completion comes through is at a level. -/
def State.returned (s : State) (pool level : Nat) : State :=
  if pool = 0 then s.setLevel 36 level else if pool ≤ 8 then s.setLevel (37 + pool) level else s

theorem State.returned_keeps {r s : State} (h : LeavesPlaces r s) (pool level : Nat) : LeavesPlaces r (s.returned pool level) :=
  ite_keeps (State.setLevel_keeps h) (ite_keeps (State.setLevel_keeps h) h)

/-- The Irrigators, the requests and the generations of tags are as before. -/
theorem State.returned_irg (s : State) (pool level : Nat) : s.SameIrg (s.returned pool level) ∧
    (s.returned pool level).irg.requests = s.irg.requests ∧ (s.returned pool level).irg.gens = s.irg.gens := by
  have hset : ∀ g, s.SameIrg (s.setLevel g level) ∧ (s.setLevel g level).irg.requests = s.irg.requests ∧
      (s.setLevel g level).irg.gens = s.irg.gens := by
    intro g
    obtain ⟨hirg, hreq, hgens, -, -⟩ := s.setLevel_same g level
    exact ⟨hirg, hreq, hgens⟩
  unfold State.returned
  split
  · exact hset _
  · split
    · exact hset _
    · exact ⟨rfl, rfl, rfl⟩

/-- A completion under another generation is counted and raises LATE_CPL (R174). -/
theorem exec_requestCompletion_late (irg : Fin 9) (pool : Fin 12) (tag : Nat) (gen : Fin 16) (data : Option (List (BitVec 8)))
    (races level x : Nat) {s : State} (hs : s.stopped = false)
    (hr : ∀ r, s.request? pool.val tag = some r → ¬ (r.gen = gen.val ∧ r.irg = irg.val))
    (hg : s.request? pool.val tag = none → s.gen pool.val tag ≠ gen.val) :
    exec (.requestCompletion irg pool tag gen data races level x) s = .next
      ((((s.advance x).returned pool.val level).bump (pgIrg irg.val) 0x78 none).raise (pgIrg irg.val) 13 none) := by
  obtain ⟨-, hreq, hgens⟩ := (s.advance x).returned_irg pool.val level
  have hreq' : ((s.advance x).returned pool.val level).request? pool.val tag = s.request? pool.val tag := State.request?_congr hreq _ _
  have hgen' : ((s.advance x).returned pool.val level).gen pool.val tag = s.gen pool.val tag := State.gen_congr hgens _ _
  rw [show exec (.requestCompletion irg pool tag gen data races level x) s = _ from next_live hs _]
  dsimp only
  rw [← State.returned, hreq', hgen']
  cases h : s.request? pool.val tag with
  | none => exact congrArg Host.Outcome.next (if_neg (hg h))
  | some r => exact congrArg Host.Outcome.next (if_neg (hr r h))

/-- A completion of the request that its tag and generation name. -/
theorem exec_requestCompletion_live (irg : Fin 9) (pool : Fin 12) (tag : Nat) (gen : Fin 16) (data : Option (List (BitVec 8)))
    (races level x : Nat) {s : State} {r : Request} (hs : s.stopped = false) (hr : s.request? pool.val tag = some r)
    (hg : r.gen = gen.val) (hi : r.irg = irg.val) :
    exec (.requestCompletion irg pool tag gen data races level x) s = .next
      (((s.advance x).returned pool.val level).complete r data races) := by
  obtain ⟨-, hreq, -⟩ := (s.advance x).returned_irg pool.val level
  have hreq' : ((s.advance x).returned pool.val level).request? pool.val tag = some r := (State.request?_congr hreq _ _).trans hr
  rw [show exec (.requestCompletion irg pool tag gen data races level x) s = _ from next_live hs _]
  dsimp only
  rw [← State.returned, hreq']
  exact congrArg Host.Outcome.next (if_pos ⟨hg, hi⟩)

/-- A read of the host whose data are still wanted. -/
structure State.LiveHostRead (s : State) (r : Request) : Prop where
  dead : r.dead = false
  data : r.data = none
  spill : r.spill = false
  pool : r.pool = 0
  place : ∃ a, s.srcPlace r.irg (s.furrow r.irg r.furrow) r.src r.len = .host a

theorem State.LiveHostRead.congr {s t : State} {r : Request} (h : s.LiveHostRead r) (hp : s.SamePlaces t) (hf : t.furrow = s.furrow) :
    t.LiveHostRead r :=
  ⟨h.dead, h.data, h.spill, h.pool, by rw [hp.src, hf]; exact h.place⟩

/-- A live host read delivers what has come back. -/
theorem State.LiveHostRead.placeRead {s : State} {r : Request} (h : s.LiveHostRead r) (o : Option (List (BitVec 8))) :
    (s.dropRequest r).placeRead r.irg r.furrow ((s.dropRequest r).srcPlace r.irg (s.furrow r.irg r.furrow) r.src r.len) r.pos r.len o =
      (o, s.dropRequest r) := by
  obtain ⟨a, ha⟩ := h.place
  have hp : s.SamePlaces (s.dropRequest r) := .of_keeps (State.dropRequest_keeps (Keeps.refl s))
  rw [hp.src, ha]
  rfl

/-- An error completion of a live host read faults its Furrow (R173). -/
theorem State.LiveHostRead.complete_error {s : State} {r : Request} (h : s.LiveHostRead r) (races : Nat) :
    ((s.complete r none races).furrow r.irg r.furrow).st = .faulted := by
  have hread := h.placeRead none
  simp only [State.complete, h.dead, h.data, h.spill, h.pool, State.furrow_dropRequest, Option.map_none, hread, Bool.false_eq_true,
    if_false, if_true]
  refine State.settleIrg_faulted _ _ _ ?_
  rw [State.furrow_grantWaiting]
  exact State.furrowFault_st _ _ _ _

/-- Data of a live host read that their Furrow may not pass on yet join its staging (R167). -/
theorem State.LiveHostRead.complete_staged {s : State} {r : Request} {q : Piece} (h : s.LiveHostRead r) (d : List (BitVec 8))
    (races : Nat) (hq : q = { tile := r.tile, dst := r.dst, data := natLe r.len (leNat d), pos := r.pos, xlat := r.dxlat })
    (hready : (s.furrow r.irg r.furrow).ready q = false) :
    ((s.complete r (some d) races).furrow r.irg r.furrow).stage = (s.furrow r.irg r.furrow).stage ++ [q] := by
  have hread := h.placeRead (some (natLe r.len (leNat d)))
  simp only [State.complete, h.dead, h.data, h.spill, State.furrow_dropRequest, Option.map_some, hread, Bool.false_eq_true,
    if_false, ← hq]
  refine State.settleIrg_furrow (fun z => z.stage = (s.furrow r.irg r.furrow).stage ++ [q]) (fun z hz => ?_) _ _ _ ?_
  · obtain ⟨-, -, -, -, -, -, -, hstage, -⟩ := z.settle_same
    exact hstage.trans hz
  · rw [State.furrow_grantWaiting, State.arrive, State.furrow_dropRequest, hready, if_neg Bool.false_ne_true,
      State.furrow_modFurrow_self]
    rfl

/-! ### REQUEST_TIMEOUT (R175) -/

/-- What a timeout does about its request once the tag is reclaimed. -/
def State.timedOut (s : State) (r : Request) : State :=
  if r.dead then s
  else if r.pool = 0 then s.furrowLimit r.irg r.furrow
  else if 9 ≤ r.pool ∧ (s.ctx r.ctx).preempting then s.preemptRing r.ctx
  else if r.reissued then s.furrowLimit r.irg r.furrow
  else s.reissue r

theorem State.gens_timedOut (s : State) (r : Request) : (s.timedOut r).irg.gens = s.irg.gens := by
  unfold State.timedOut
  split_ifs
  · rfl
  · exact s.gens_furrowLimit _ _
  · exact congrArg Irg.gens (Keeps.irg_eq (State.preemptRing_keeps (Keeps.refl s) : LeavesIrg s _))
  · exact s.gens_furrowLimit _ _
  · exact s.gens_newRequest _

/-- A host read that times out has passed its Furrow's limit. -/
theorem State.timedOut_host (s : State) {r : Request} (hp : r.pool = 0) (hd : r.dead = false) :
    s.timedOut r = s.furrowLimit r.irg r.furrow := by
  simp [State.timedOut, hp, hd]

/-- REQUEST_TIMEOUT past the limit reclaims the tag, counts and raises it. -/
theorem exec_requestTimeout_past (pool : Fin 11) (tag x : Nat) {s : State} {r : Request} (hs : s.stopped = false)
    (hr : s.request? pool.val tag = some r) (ht : r.issued + s.limitOf r < max s.sdl.ref x)
    (hl : ¬ (2 ≤ s.level ∧ s.realTime r.ctx = false)) :
    ∃ u : State, u.irg = (s.reclaim r).irg ∧
      exec (.requestTimeout pool tag x) s = .next (((u.timedOut r).grantWaiting r.pool).settleIrg r.irg) := by
  have hr' : (s.advance x).request? pool.val tag = some r := hr
  have hlevel : ¬ (2 ≤ (s.advance x).level ∧ (s.advance x).realTime r.ctx = false) := by
    rwa [State.realTime, State.advance_cfg]
  have hpast : r.issued + (s.advance x).limitOf r < (s.advance x).sdl.ref := by
    rw [State.advance_ref]
    exact ht
  rw [show exec (.requestTimeout pool tag x) s = _ from next_live hs _]
  simp only [hr']
  rw [if_pos ⟨hpast, hlevel⟩]
  exact ⟨(((s.advance x).reclaim r).bump (pgIrg r.irg) (tmoCnt r.pool) (some (s.partOf r.ctx))).raise (pgIrg r.irg) 11
    (some (s.partOf r.ctx)), rfl, rfl⟩

theorem State.gen_reclaim (s : State) (r : Request) : (s.reclaim r).gen r.pool r.tag = (s.gen r.pool r.tag + 1) % 16 := by
  rw [State.reclaim, State.gen, SMap.get_put_self]

/-! ### PAGE_RESPONSE (R179) -/

/-- Asking for a page changes the state of no Furrow. -/
theorem State.askPage_st (s : State) (k f j g : Nat) : ((s.askPage k f).furrow j g).st = (s.furrow j g).st := by
  have hmod : ∀ (u : State) (h : Furrow → Furrow), (∀ y, (h y).st = y.st) → ((u.modFurrow k f h).furrow j g).st = (u.furrow j g).st := by
    intro u h hh
    rw [State.furrow_modFurrow]
    split
    case isTrue e => rw [hh, e.1, e.2]
    case isFalse => rfl
  unfold State.askPage
  dsimp only
  split
  · split
    · rw [State.furrow_left (State.raise_keeps (State.bump_keeps (State.emit_keeps (Keeps.refl _))))]
      exact hmod (s.modFn _ _) _ fun _ => rfl
    · rfl
  · rfl

theorem State.nextPage_st (s : State) (fn j g : Nat) : ((s.nextPage fn).furrow j g).st = (s.furrow j g).st := by
  unfold State.nextPage
  split
  · exact s.askPage_st _ _ _ _
  · rfl

/-- A Furrow that goes on neither waits for a page nor has faulted once it has settled. -/
theorem Furrow.settle_goesOn (x : Furrow) (h : x.st ≠ .pageWait ∧ x.st ≠ .faulted) :
    x.settle.st ≠ .pageWait ∧ x.settle.st ≠ .faulted := by
  unfold Furrow.settle
  split
  case h_5 => exact h
  all_goals split_ifs <;> simp

theorem State.reached_advance_succ (s : State) (x a : Nat) : (s.advance x).reached (a + 1) = false ↔ max s.sdl.ref x ≤ a := by
  rw [State.reached, State.advance_ref, decide_eq_false_iff_not, Nat.not_le, Nat.lt_succ_iff]

/-- A page is answered: its function has one request fewer outstanding, and the Furrow goes on. -/
def State.pageAnswered (s : State) (k f g : Nat) : State :=
  (s.modFn (s.fnOf (s.furrow k f).ctx) fun y => { y with pri := y.pri.erase g }).modFurrow k f fun y =>
    { y with page := none, asked := false, st := .active }

theorem State.pageAnswered_st (s : State) (k f g : Nat) : ((s.pageAnswered k f g).furrow k f).st = .active :=
  congrArg Furrow.st (State.furrow_modFurrow_self _ _ _ _)

/-- PAGE_RESPONSE of a page that a Furrow waits for: the Furrow goes on, or it faults where the response fails or comes late; then a
page that waits is asked for. -/
theorem exec_pageResponse_asked (irg : Fin 9) (f : Nat) (ok : Bool) (x : Nat) {s : State} {g at' : Nat} (hs : s.stopped = false)
    (hp : (s.furrow irg.val f).page = some (g, at')) (hst : (s.furrow irg.val f).st = .pageWait)
    (ha : (s.furrow irg.val f).asked = true) :
    ∃ fn, exec (.pageResponse irg f ok x) s = .next ((((if ok = true ∧ max s.sdl.ref x ≤ at' + 50000000 * nsRef then
      (s.advance x).pageAnswered irg.val f g else ((s.advance x).pageAnswered irg.val f g).furrowFault irg.val f 0x06)).nextPage
        fn).settleIrg irg.val) := by
  rw [show exec (.pageResponse irg f ok x) s = _ from next_live hs _]
  simp only [State.furrow_advance, hp, hst, ha, and_self, if_true, State.reached_advance_succ]
  exact ⟨_, rfl⟩

/-- Settles O35, command by command. -/
theorem furrowsComplete : Obligations.FurrowsComplete := by
  refine ⟨?start, ?issue, ?completion, ?timeout, ?page⟩
  case start =>
    intro irg f c entry desc carried s slot hs hslot hlive
    refine ⟨_, exec_furrowStart_live irg f c entry desc carried hs hslot hlive, ?_⟩
    rw [State.furrow_opDone, State.settleIrg_furrow (fun z => z = startedFurrow c.val entry.val slot desc carried)
      (fun z hz => hz ▸ settle_startedFurrow _ _ _ _ _) _ _ _ (State.furrow_modFurrow_self _ _ _ _)]
    exact ⟨rfl, rfl, rfl, rfl, rfl, rfl, rfl, rfl⟩
  case issue =>
    intro irg xlat dxlat level x s u hs hu
    cases hv : u.served irg.val with
    | none =>
      refine ⟨_, exec_irrigatorIssue_none irg xlat dxlat level x hs hu hv, fun _ => u.requests_settle _, fun f y n h => ?_⟩
      exact absurd h (Option.some_ne_none f).symm
    | some f =>
      obtain ⟨w, t, hw, hf, hexec, hreq⟩ := exec_irrigatorIssue_served irg xlat dxlat level x hs hu hv
      refine ⟨t, hexec, fun h => absurd h (Option.some_ne_none f), fun g y n hg hy hspill hn hok hsrc hdst => ?_⟩
      obtain rfl := Option.some.inj hg
      obtain ⟨a, ha⟩ := hsrc
      rw [hreq]
      rw [← hf] at hy
      rw [← hw.nextLen] at hn
      rw [← hw.formedBad, ← hw.src] at hok
      rw [← hw.src] at ha
      rw [← hw.translate, ← hw.dst] at hdst
      exact State.issueFurrow_dram xlat dxlat hy hspill hn hok ha hdst
  case completion =>
    intro irg pool tag gen data races level x s hs
    obtain ⟨hirg, hreq, -⟩ := (s.advance x).returned_irg pool.val level
    by_cases hlive : ∃ r, s.request? pool.val tag = some r ∧ r.gen = gen.val ∧ r.irg = irg.val
    · obtain ⟨r, hr, hg, hi⟩ := hlive
      refine ⟨_, exec_requestCompletion_live irg pool tag gen data races level x hs hr hg hi, fun h _ => absurd ⟨hg, hi⟩ (h r hr), ?_⟩
      intro r' hr' _ _ hdead hdata hspill hpool hplace
      obtain rfl := Option.some.inj (hr.symm.trans hr')
      have hplaces : LeavesPlaces s ((s.advance x).returned pool.val level) :=
        State.returned_keeps (State.advance_keeps (Keeps.refl s)) _ _
      have hread : ((s.advance x).returned pool.val level).LiveHostRead r :=
        State.LiveHostRead.congr (s := s) ⟨hdead, hdata, hspill, hpool, hplace⟩ (.of_keeps hplaces) hirg.furrow
      refine ⟨fun h => h ▸ hread.complete_error races, fun d q hd hq hready => ?_⟩
      subst hd
      rw [hread.complete_staged d races hq (by rw [hirg.furrow]; exact hready), hirg.furrow]
      rfl
    · by_cases hlate : s.request? pool.val tag = none → s.gen pool.val tag ≠ gen.val
      · refine ⟨_, exec_requestCompletion_late irg pool tag gen data races level x hs (fun r hr h => hlive ⟨r, hr, h⟩) hlate, ?_⟩
        exact ⟨fun _ _ => ⟨hreq, hirg, State.event_raise_self _ _ _ (by decide)⟩, fun r hr hg hi => absurd ⟨r, hr, hg, hi⟩ hlive⟩
      · exact ⟨_, next_live hs _, fun _ h => absurd h hlate, fun r hr hg hi => absurd ⟨r, hr, hg, hi⟩ hlive⟩
  case timeout =>
    intro pool tag x s r hs hr ht hl
    obtain ⟨u, hu, hexec⟩ := exec_requestTimeout_past pool tag x hs hr ht hl
    refine ⟨_, hexec, ?_, fun hp hd => ?_⟩
    · rw [← s.gen_reclaim r]
      refine State.gen_congr ?_ _ _
      rw [State.gens_settleIrg, State.gens_grantWaiting, State.gens_timedOut, hu]
    · refine State.settleIrg_faulted _ _ _ ?_
      rw [State.furrow_grantWaiting, State.timedOut_host u hp hd]
      exact State.furrowLimit_st _ _ _
  case page =>
    intro irg f ok x s g at' hs hp hst ha
    obtain ⟨fn, hexec⟩ := exec_pageResponse_asked irg f ok x hs hp hst ha
    refine ⟨_, hexec, fun h => ?_, fun hok hin => ?_⟩
    · refine State.settleIrg_faulted _ _ _ ?_
      rw [State.nextPage_st, if_neg]
      · exact State.furrowFault_st _ _ _ _
      · rintro ⟨hok, hin⟩
        obtain h | h := h
        · exact Bool.false_ne_true (h.symm.trans hok)
        · omega
    · refine State.settleIrg_furrow (fun z => z.st ≠ .pageWait ∧ z.st ≠ .faulted) Furrow.settle_goesOn _ _ _ ?_
      rw [State.nextPage_st, if_pos ⟨hok, hin⟩, State.pageAnswered_st]
      decide

end Sys2Proof.Machine
end

section
/-!
PROOF. Checkpoints, late prologues, fallback records and time limits (07 R177; 11 R294 to R299; 16 R401): O38.
-/

namespace Sys2Proof.Machine

open Sys2Proof

/-! ### What answers depend on -/

@[simp] theorem State.step?_advance (s : State) (x c n : Nat) : (s.advance x).step? c n = s.step? c n :=
  State.step?_ctx (s.advance_ctx x) c n

/-- How Tightrope treats a context is a matter of the registers. -/
theorem State.treats_congr {s t : State} (h : t.gate = s.gate) (c : Nat) :
    t.isGh c = s.isGh c ∧ t.replays c = s.replays c ∧ t.watched c = s.watched c := by
  unfold State.watched State.realTime State.isGh State.replays State.ctxBit State.flag State.cfg
  rw [h]
  exact ⟨rfl, rfl, rfl⟩

theorem State.rUse_congr {s t : State} (hat : t.rms.paceAt = s.rms.paceAt) (hpace : t.rms.pace = s.rms.pace) (hsdl : t.sdl = s.sdl)
    (hgate : t.gate = s.gate) : t.rUse = s.rUse := by
  funext b
  rw [State.rUse, State.rUse, State.paceOf_congr hat hpace hsdl (congrArg Gate.act hgate), State.cfg, State.cfg, hgate]

/-- Which Sprouts stand by is a matter of the registers and the Beds. -/
theorem State.standbys_congr {s t : State} (hgate : t.gate = s.gate) (hbeds : t.beds = s.beds) : t.standbys = s.standbys := by
  have hserving : t.servingBed = s.servingBed := by
    funext n pos
    unfold State.servingBed State.flag State.cfg State.bed
    rw [hgate, hbeds]
  funext b n
  simp only [State.standbys, State.posSprouts, hserving, State.sprout_of_beds hbeds]

/-! ### CHECKPOINT (R294 to R297) -/

/-- A step that has recorded checkpoint `k`: its prediction at device time `now`, and the margin (R296). -/
def StepSt.checked (y : StepSt) (k now tIn rem : Nat) (r : Int × Int) : StepSt :=
  { y with
    chkpt := k, chkSeen := true, chkAt := now, tIn := tIn, rem := rem, tPred := r.1, margin := r.2
    marginMin := if y.chkSeen then min y.marginMin r.2 else r.2 }

/-- The greatest T_IN of the entries of a checkpoint (log 58). -/
def StepSt.maxTIn (y : StepSt) (k : Nat) : Nat := ((y.holders k).map fun h => fieldOf h.2 16 16).foldl max 0

/-- The greatest REM of the entries of a checkpoint (log 58). -/
def StepSt.maxRem (y : StepSt) (k : Nat) : Nat := ((y.holders k).map fun h => fieldOf h.2 32 32).foldl max 0

/-- A step's checkpoint is recorded in the step, and counted. -/
def State.checkRecorded (s : State) (c n : Nat) (y z : StepSt) : State :=
  ((s.paceStale y.plan).modStep c n fun _ => z).bump pgTrp 0x40 (some (s.partOf c))

theorem State.step?_checkRecorded {s : State} {c n : Nat} {y z : StepSt} (hy : s.step? c n = some y) (hz : z.n = n) :
    (s.checkRecorded c n y z).step? c n = some z := by
  have hpace : (s.paceStale y.plan).step? c n = some y :=
    (State.step?_ctx (State.ctx_left (State.paceStale_keeps (Keeps.refl s))) c n).trans hy
  refine (State.step?_modStep' (s.paceStale y.plan) c n _ fun _ _ => hz).trans ?_
  rw [hpace]
  rfl

/-- A step that is cut at a checkpoint, which is counted, raised and logged. -/
def State.cutLogged (s : State) (c n k : Nat) (z : StepSt) (part : Option Nat) (allocs : Nat) : State :=
  (((s.cutStep c n k).bump pgTrp 0x48 part).raise pgTrp 8 part).tightLog c z 0 allocs

theorem State.step?_cutLogged {s : State} {c n : Nat} {y : StepSt} (hy : s.step? c n = some y) (k : Nat) (z : StepSt)
    (part : Option Nat) (allocs : Nat) :
    ∃ l, (s.cutLogged c n k z part allocs).step? c n = some { y with cut := some k, tasks := l } := by
  have hcut : (((s.cutStep c n k).bump pgTrp 0x48 part).raise pgTrp 8 part).step? c n = (s.cutStep c n k).step? c n := rfl
  rw [State.cutLogged, State.step?_ctx (State.tightLog_ctx _ _ _ _ _), hcut, State.cutStep, State.step?_modStep, hy]
  · exact ⟨_, rfl⟩
  · exact fun _ => rfl

/-- CHECKPOINT of a step that Tightrope watches, once every task that holds it has passed it, records it in the step, and cuts the step
there where the margin is negative and it has not been cut. -/
theorem exec_checkpoint_passed (c : Ctx) (n k x : Nat) {s : State} {y : StepSt} {r : Int × Int} (hs : s.stopped = false)
    (hy : s.step? c.val n = some y) (hw : s.watched c.val = true) (hf : y.flying = true) (hh : y.holders k ≠ [])
    (hp : SMap.get zeroUnlisted y.passed k = (y.holders k).length) (hnew : y.chkSeen = false ∨ y.chkpt ≠ k)
    (hr : r = (s.advance x).predict c.val y (s.advance x).sdl.dev (y.maxTIn k) (y.maxRem k)) :
    ∃ part allocs, exec (.checkpoint c n k x) s = .next
      (let z := y.checked k (s.advance x).sdl.dev (y.maxTIn k) (y.maxRem k) r
       let w := (s.advance x).checkRecorded c.val n y z
       if r.2 < 0 ∧ y.cut = none then w.cutLogged c.val n k z part allocs else w) := by
  have hdue : (s.advance x).watched c.val = true ∧ y.flying = true ∧ y.holders k ≠ [] ∧
      SMap.get zeroUnlisted y.passed k = (y.holders k).length ∧ (y.chkSeen = false ∨ y.chkpt ≠ k) :=
    ⟨(State.treats_congr (s.advance_gate x) c.val).2.2.trans hw, hf, hh, hp, hnew⟩
  rw [show exec (.checkpoint c n k x) s = _ from next_live hs _]
  simp only [State.step?_advance, hy]
  rw [if_pos hdue, hr]
  exact ⟨_, _, rfl⟩

/-! ### PROLOGUE_LATE (07 R177) -/

/-- A Furrow of a layer's prologue on an Irrigator is no longer due. -/
def State.undue (s : State) (k c layer : Nat) (e : Nat × Furrow) : State :=
  if e.2.ctx = c ∧ (e.2.due.map fun d => d.2.1) = some layer then s.modFurrow k e.1 fun y => { y with due := none } else s

/-- Clearing a Furrow that has the layer's due time clears it; and what is clear stays so. -/
theorem State.undue_due {s : State} {k c layer f : Nat} {e : Nat × Furrow}
    (h : (e.1 = f ∧ e.2.ctx = c ∧ (e.2.due.map fun d => d.2.1) = some layer) ∨ (s.furrow k f).due = none) :
    ((s.undue k c layer e).furrow k f).due = none := by
  unfold State.undue
  split
  case isTrue =>
    rw [State.furrow_modFurrow]
    split
    case isTrue => rfl
    case isFalse hne => exact h.resolve_left fun hl => hne ⟨rfl, hl.1.symm⟩
  case isFalse hno => exact h.resolve_left fun hl => hno hl.2

theorem State.foldl_undue_due {k c layer f : Nat} {y : Furrow} (hc : y.ctx = c) (hl : (y.due.map fun d => d.2.1) = some layer) :
    ∀ (l : List (Nat × Furrow)) (s : State), ((f, y) ∈ l ∨ (s.furrow k f).due = none) →
      ((l.foldl (fun t e => t.undue k c layer e) s).furrow k f).due = none
  | [], _, h => h.resolve_left List.not_mem_nil
  | e :: l, s, h => by
    refine State.foldl_undue_due hc hl l _ ?_
    obtain hmem | hnone := h
    · obtain rfl | hmem := List.mem_cons.1 hmem
      · exact .inr (State.undue_due (.inl ⟨rfl, hc, hl⟩))
      · exact .inl hmem
    · exact .inr (State.undue_due (.inr hnone))

/-- A layer's prologue on an Irrigator is no longer due. -/
def State.prologueUndue (s : State) (k c layer : Nat) : State :=
  (s.irrigator k).furrows.foldl (fun t e => t.undue k c layer e) s

/-- A Furrow with a due time is listed. -/
theorem State.furrow_listed {s : State} {k f : Nat} {y : Furrow} (hy : s.furrow k f = y) (hd : y.due ≠ none) :
    (f, y) ∈ (s.irrigator k).furrows := by
  unfold State.furrow SMap.get at hy
  cases h : SMap.find? (s.irrigator k).furrows f with
  | none =>
    rw [h] at hy
    exact absurd (hy ▸ rfl) hd
  | some z =>
    rw [h] at hy
    exact hy ▸ SMap.find?_mem h

theorem State.prologueUndue_due {s : State} {k f : Nat} {y : Furrow} {d : Nat × Nat × Nat} (hy : s.furrow k f = y)
    (hd : y.due = some d) : ((s.prologueUndue k y.ctx d.2.1).furrow k f).due = none :=
  State.foldl_undue_due rfl (by rw [hd]; rfl) _ s (.inl (State.furrow_listed hy (by simp [hd])))

/-- A layer whose prologue is late is counted, raised and recorded with the tiles that are still to come. -/
def State.prologueReported (s : State) (k c layer : Nat) (left : List (Nat × Furrow)) (part : Option Nat) : State :=
  ((s.bump (pgIrg k) 0x48 part).raise (pgIrg k) 9 part).record pgTrp 35
    [c, layer, (left.map fun e => fTiles e.2.desc - e.2.cursor).sum]

theorem State.event_prologueReported (s : State) (k c layer : Nat) (left : List (Nat × Furrow)) (part : Option Nat) :
    (s.prologueReported k c layer left part).event .pf (pgIrg k) 9 = true :=
  State.event_record _ _ _ _ _ _ _ (State.event_raise_self _ _ _ (by decide))

/-- PROLOGUE_LATE before OVL_STEPS have passed is only time. -/
theorem exec_prologueLate_early (irg : Fin 9) (f : Fin 64) (x : Nat) {s : State} {d : Nat × Nat × Nat} (hs : s.stopped = false)
    (hd : (s.furrow irg.val f.val).due = some d) (ht : max s.sdl.ref x < d.1 + ovlTime d.2.2) :
    exec (.prologueLate irg f x) s = .next (s.advance x) := by
  rw [show exec (.prologueLate irg f x) s = _ from next_live hs _]
  simp only [State.furrow_advance, hd, State.advance_ref, ht, if_true]

/-- PROLOGUE_LATE once they have: the layer is no longer due, and is reported where tiles of it are still to come. -/
theorem exec_prologueLate_passed (irg : Fin 9) (f : Fin 64) (x : Nat) {s u : State} {y : Furrow} {d : Nat × Nat × Nat}
    (hs : s.stopped = false) (hy : s.furrow irg.val f.val = y) (hd : y.due = some d) (ht : d.1 + ovlTime d.2.2 ≤ max s.sdl.ref x)
    (hu : u = (s.advance x).prologueUndue irg.val y.ctx d.2.1) :
    (s.prologueLeft irg.val y.ctx d.2.1 = [] ∧ exec (.prologueLate irg f x) s = .next u) ∨
      ∃ t part, exec (.prologueLate irg f x) s = .next t ∧ t.irg = u.irg ∧
        (u.prologueReported irg.val y.ctx d.2.1 (s.prologueLeft irg.val y.ctx d.2.1) part).Heard t := by
  have hleft : (s.advance x).prologueLeft irg.val y.ctx d.2.1 = s.prologueLeft irg.val y.ctx d.2.1 := rfl
  rw [show exec (.prologueLate irg f x) s = _ from next_live hs _]
  simp only [State.furrow_advance, hy, hd, State.advance_ref, not_lt_of_ge ht, if_false, hleft]
  by_cases hnil : s.prologueLeft irg.val y.ctx d.2.1 = []
  · exact .inl ⟨hnil, by rw [if_pos hnil, hu]; rfl⟩
  · rw [if_neg hnil]
    refine .inr ⟨_, some ((s.advance x).partOf y.ctx), rfl, ?_⟩
    split
    · rw [Keeps.irg_eq (State.tightLog_keeps (Keeps.refl _) : LeavesIrg _ _), hu]
      exact ⟨rfl, (State.Heard.refl _).tightLog _ _ _ _⟩
    · rw [hu]
      exact ⟨rfl, .refl _⟩

/-! ### FALLBACK_RECORD (10 R247, R299) -/

/-- A setter's record for a step: its allocations are counted, and it is logged where its cause is. -/
def State.fellBack (s : State) (c : Nat) (y : StepSt) (fb allocs : Nat) : State :=
  match fbCause fb with
  | some k => (s.bumpBy pgTrp 0x50 (some (s.partOf c)) allocs).tightLog c y k allocs
  | none => s.bumpBy pgTrp 0x50 (some (s.partOf c)) allocs

/-- FALLBACK_RECORD of a step in flight of a live context: the record, then each bundle. -/
theorem exec_fallbackRecord_flying (c : Ctx) (n : Nat) (fb : Fin 4) (allocs : Nat) (bundles : List (LateBundle × Bool)) (x : Nat)
    {s : State} {y : StepSt} (hs : s.stopped = false) (hy : s.step? c.val n = some y) (hf : y.flying = true)
    (hl : (s.ctx c.val).live = true) :
    exec (.fallbackRecord c n fb allocs bundles x) s = .next ((bundles.foldl (fun t b => t.lateBundle c.val n b.1 b.2)
      ((s.advance x).fellBack c.val y fb.val allocs)).noteApply s) := by
  refine (congrArg Host.Outcome.next (s.liveApply_of _ hs)).trans ?_
  simp only [State.step?_advance, hy, hf, State.advance_ctx, hl, and_self, if_true]
  rfl

theorem State.fellBack_keeps (s : State) (c : Nat) (y : StepSt) (fb allocs : Nat) :
    Keeps True True True False False False False True True False False False False False True False False False s
      (s.fellBack c y fb allocs) := by
  unfold State.fellBack
  split
  · exact State.tightLog_keeps (State.bumpBy_keeps (Keeps.refl s))
  · exact State.bumpBy_keeps (Keeps.refl s)

theorem State.fellBack_rms (s : State) (c : Nat) (y : StepSt) (fb allocs : Nat) :
    ∃ w, (s.fellBack c y fb allocs).rms = { s.rms with logWritten := w } := by
  unfold State.fellBack
  split
  · exact State.tightLog_rms _ _ _ _ _
  · exact ⟨s.rms.logWritten, rfl⟩

theorem State.fellBack_ctx (s : State) (c : Nat) (y : StepSt) (fb allocs : Nat) : (s.fellBack c y fb allocs).ctx = s.ctx := by
  obtain ⟨w, hw⟩ := s.fellBack_rms c y fb allocs
  funext d
  rw [State.ctx, State.ctx, hw]

theorem regAddr_ne_of_pageNo {p q : Page} {a o : Nat} (ha : a < 4096) (ho : o < 4096) (h : pageNo p ≠ pageNo q) :
    regAddr p a ≠ regAddr q o := by
  unfold regAddr
  omega

/-- The counter of fallbacks is none of those that logging counts in. -/
theorem farCnt_fallbacks : FarCnt pgTrp 0x50 := by
  have hne : ∀ {q : Page} {o : Nat}, o < 4096 → pageNo pgTrp ≠ pageNo q → regAddr pgTrp 0x50 ≠ regAddr q o :=
    fun ho h => regAddr_ne_of_pageNo (by decide) ho h
  exact ⟨⟨by decide, hne (by decide) (by decide)⟩, fun o ho => ⟨hne ho (by decide), hne ho (by decide), hne ho (by decide)⟩⟩

theorem State.fellBack_count (s : State) (c : Nat) (y : StepSt) (fb allocs : Nat) :
    (s.fellBack c y fb allocs).count pgTrp 0x50 = min cntMax (s.count pgTrp 0x50 + allocs) := by
  rw [← s.count_bumpBy_self pgTrp 0x50 (some (s.partOf c)) allocs farCnt_fallbacks.1]
  unfold State.fellBack
  split
  · exact (State.SameCount.refl _ _ _).tightLog farCnt_fallbacks _ _ _ _
  · rfl

/-! ### Late starts (05 R135; R299) -/

/-- A Sprout at work on a late start of a descriptor for a context. -/
def SproutSt.LateFor (x : SproutSt) (d c : Nat) : Prop := x.st = .bank0 ∧ x.late = true ∧ x.desc = some d ∧ x.ctx = some c

theorem State.startSprout_late (s : State) (q : SproutId) (c n entry : Nat) {d : Nat} (hd : netInLimits d = true) :
    ((s.startSprout q c n entry (some d) true).sprout q).LateFor d c := by
  have hstart : (s.startSprout q c n entry (some d) true).sprout q = ((s.ownSprout q c).sprout q).start c n entry (some d) true := by
    simp only [State.startSprout, hd, if_true]
    exact State.sprout_modSprout_self _ q _
  rw [hstart]
  exact ⟨rfl, rfl, rfl, rfl⟩

/-- A late start on a seeded Bed with a descriptor within its limits. -/
theorem State.lateStart_sprout {s : State} {q : SproutId} (c n entry idx : Nat) {d : Nat}
    (hseed : (s.bed q.plot.val q.bed.val).seeded = true) (hd : netInLimits d = true) :
    ((s.lateStart q c n entry d idx).sprout q).LateFor d c := by
  simp only [State.lateStart, hseed, if_true]
  rw [(State.ran_assertLine _ q 1).1]
  exact State.startSprout_late _ q c n entry hd

/-- A bundle with a standby Sprout, which Tightrope grants, late-starts it. -/
theorem State.lateBundle_sprout {s : State} {c n d : Nat} {b : LateBundle} {captured : Bool} {y : StepSt} {z : TaskSt} {q : SproutId}
    (hy : s.step? c n = some y) (hz : y.tasks[b.task]? = some z) (hd : d = planNat y.plan (z.desc + 64 * b.desc) 64)
    (hlim : netInLimits d = true) (hq : (s.standbys y.plan b.plot).head? = some q)
    (hseed : (s.bed q.plot.val q.bed.val).seeded = true) (hgh : s.isGh c = false) (hrep : s.replays c = true → captured = true)
    (htime : s.watched c = true → (s.sdl.dev : Int) + (stepDur (netSteps d) (s.rUse y.plan) : Nat) ≤
      y.boundary + (planNetDl y.plan * usRef : Nat)) :
    ((s.lateBundle c n b captured).sprout q).LateFor d c := by
  have hmay : (if s.isGh c = true then false else if s.replays c = true then captured else if s.watched c = true then
      decide ((s.sdl.dev : Int) + (stepDur (netSteps d) (s.rUse y.plan) : Nat) ≤ y.boundary + (planNetDl y.plan * usRef : Nat))
      else true) = true := by
    rw [hgh, if_neg Bool.false_ne_true]
    split_ifs with hr hw
    · exact hrep hr
    · exact decide_eq_true (htime hw)
    · rfl
  simp only [State.lateBundle, hy, hz, ← hd, hq]
  rw [if_pos hmay, State.sprout_of_beds (Keeps.beds_eq (State.tightLog_keeps (State.bump_keeps (Keeps.refl _)) : LeavesBeds _ _))]
  exact State.lateStart_sprout c n _ _ hseed hlim

/-! ### Time limits (16 R401) -/

/-- TASK_TIMEOUT of a task that has not ended, of a step in flight, faults its context past 2 × BOUND (log 61). -/
theorem exec_taskTimeout_running (c : Ctx) (n i ran x : Nat) {s : State} {y : StepSt} {z : TaskSt} (hs : s.stopped = false)
    (hy : s.step? c.val n = some y) (hz : y.tasks[i]? = some z) (hf : y.flying = true) (hd : z.done = false) :
    exec (.taskTimeout c n i ran x) s = .next (if 200 * nsRef * z.bound < 95 * ran then (s.advance x).overLimit c.val 3 0x08
      else s.advance x) := by
  rw [show exec (.taskTimeout c n i ran x) s = _ from next_live hs _]
  simp only [State.step?_advance, hy, hz, hf, hd, Bool.false_eq_true, not_false_eq_true, true_and]

/-- HEARTBEAT_TIMEOUT of a context that is served with a step in flight counts and faults it 10 ms after its last entry. -/
theorem exec_heartbeatTimeout_served (c : Ctx) (x : Nat) {s : State} (hs : s.stopped = false)
    (hf : (s.ctx c.val).steps.any (·.flying) = true) (hst : (s.ctx c.val).st = .running ∨ (s.ctx c.val).st = .blocked) :
    exec (.heartbeatTimeout c x) s = .next (if (s.ctx c.val).beat + 10000 * usRef < max s.sdl.ref x then
      ((s.advance x).bump pgFlt 0x78 (some (s.partOf c.val))).overLimit c.val 5 0x19 else s.advance x) := by
  rw [show exec (.heartbeatTimeout c x) s = _ from next_live hs _]
  simp only [State.advance_ctx, State.advance_ref, hf, hst, true_and]
  rfl

/-- Settles O38, command by command. -/
theorem watchedStepsComplete : Obligations.WatchedStepsComplete := by
  refine ⟨?checkpoint, ?prologue, ?fallback, ?task, ?heartbeat⟩
  case checkpoint =>
    intro c n k x s y r hs hy hw hf hh hp hnew hr
    obtain ⟨part, allocs, hexec⟩ := exec_checkpoint_passed c n k x hs hy hw hf hh hp hnew hr
    set z := y.checked k (s.advance x).sdl.dev (y.maxTIn k) (y.maxRem k) r
    have hstep : ((s.advance x).checkRecorded c.val n y z).step? c.val n = some z :=
      State.step?_checkRecorded ((s.step?_advance x _ _).trans hy) (s.step?_n c.val n y hy)
    refine ⟨_, hexec, ?_⟩
    by_cases hcut : r.2 < 0 ∧ y.cut = none
    · obtain ⟨l, hl⟩ := State.step?_cutLogged hstep k z part allocs
      simp only [if_pos hcut]
      exact ⟨_, hl, rfl, rfl, rfl, rfl, rfl, rfl⟩
    · simp only [if_neg hcut]
      exact ⟨_, hstep, rfl, rfl, rfl, rfl, rfl, rfl⟩
  case prologue =>
    intro irg f x s y d hs hy hd
    by_cases ht : max s.sdl.ref x < d.1 + ovlTime d.2.2
    · exact ⟨_, exec_prologueLate_early irg f x hs (hy ▸ hd) ht, fun _ => rfl, fun h => absurd ht (not_lt_of_ge h)⟩
    · have hdue := State.prologueUndue_due (s := s.advance x) hy hd
      obtain ⟨hnil, hexec⟩ | ⟨t, part, hexec, hirg, hsays, hevents⟩ := exec_prologueLate_passed irg f x hs hy hd (not_lt.1 ht) rfl
      · exact ⟨_, hexec, fun h => absurd h ht, fun _ => ⟨hdue, fun h => absurd hnil h⟩⟩
      · refine ⟨t, hexec, fun h => absurd h ht, fun _ => ⟨?_, fun _ => ⟨?_, ?_⟩⟩⟩
        · have hsame : ((s.advance x).prologueUndue irg.val y.ctx d.2.1).SameIrg t := congrArg Irg.irg hirg
          rw [hsame.furrow, hdue]
        · exact hevents _ _ _ (State.event_prologueReported _ _ _ _ _ _)
        · exact hsays _ (State.recorded _ _ _ _)
  case fallback =>
    intro c n fb allocs x s y hs hy hf hl
    refine ⟨⟨_, exec_fallbackRecord_flying c n fb allocs [] x hs hy hf hl, ?_, ?_⟩, ?_⟩
    · rw [State.noteApply_count, s.count_bumpBy_self pgTrp 0x50 _ allocs farCnt_fallbacks.1, ← s.advance_count x]
      exact (s.advance x).fellBack_count c.val y fb.val allocs
    · refine (State.ctx_of_rms (State.noteApply_rms _ _)).trans ?_
      exact ((s.advance x).fellBack_ctx _ _ _ _).trans (s.advance_ctx x)
    · intro b captured z d q hz hd hlim hq hseed hgh hrep htime
      refine ⟨_, exec_fallbackRecord_flying c n fb allocs [(b, captured)] x hs hy hf hl, ?_⟩
      have hkeeps := (s.advance x).fellBack_keeps c.val y fb.val allocs
      obtain ⟨w, hrms⟩ := (s.advance x).fellBack_rms c.val y fb.val allocs
      obtain ⟨hgh', hrep', hw'⟩ := State.treats_congr (Keeps.gate_eq hkeeps) c.val
      have hadv := State.treats_congr (s.advance_gate x) c.val
      have huse := State.rUse_congr (congrArg Rms.paceAt hrms :) (congrArg Rms.pace hrms :) (Keeps.sdl_eq hkeeps) (Keeps.gate_eq hkeeps)
      have hstandbys := State.standbys_congr (Keeps.gate_eq hkeeps) (Keeps.beds_eq hkeeps)
      rw [State.sprout_of_beds (State.noteApply_beds _ _)]
      refine State.lateBundle_sprout (y := y) ?_ hz hd hlim ?_ ?_ ?_ ?_ ?_
      · exact (State.step?_ctx (State.fellBack_ctx _ _ _ _ _) _ _).trans ((s.step?_advance x _ _).trans hy)
      · rw [hstandbys]
        exact hq
      · rw [State.bed, Keeps.beds_eq hkeeps]
        exact hseed
      · exact hgh'.trans (hadv.1.trans hgh)
      · rw [hrep', hadv.2.1]
        exact hrep
      · rw [hw', hadv.2.2, Keeps.sdl_eq hkeeps, huse]
        exact htime
  case task =>
    intro c n i ran x s y z hs hy hz hl hf hd
    refine ⟨_, exec_taskTimeout_running c n i ran x hs hy hz hf hd, fun h => ?_, fun h => ?_⟩
    · rw [if_pos h, State.overLimit_fault _ _ _ _ (by rwa [State.advance_ctx]), State.advance_ctx]
    · rw [if_neg (not_lt_of_ge h), State.advance_ctx]
  case heartbeat =>
    intro c x s hs hl hf hst
    refine ⟨_, exec_heartbeatTimeout_served c x hs hf hst, fun h => ?_, fun h => ?_⟩
    · have hctx : ((s.advance x).bump pgFlt 0x78 (some (s.partOf c.val))).ctx = s.ctx := s.advance_ctx x
      rw [if_pos h, State.overLimit_fault _ _ _ _ (by rwa [hctx]), hctx]
    · rw [if_neg (not_lt_of_ge h), State.advance_ctx]

end Sys2Proof.Machine
end

section
/-!
PROOF. The reference, calibration, the slot grid and the pins of Sundial (08 R192, R197, R202, R206 to R208, R210): O40.
-/

namespace Sys2Proof.Machine

open Sys2Proof

/-! ### The passing of time over Sundial -/

/-- Time moves the reference, the domain clocks and the offset of device time, and nothing else of Sundial (R191, R204). -/
theorem State.advance_sdl (s : State) (x : Nat) : ∃ r ka kb o, (s.advance x).sdl =
    { s.sdl with ref := r, a := { s.sdl.a with clk := ka }, b := { s.sdl.b with clk := kb }, ofs := o } := by
  show ∃ r ka kb o, s.sdl.advance _ _ x = _
  unfold Sundial.advance
  split
  · exact ⟨s.sdl.ref, s.sdl.a.clk, s.sdl.b.clk, s.sdl.ofs, rfl⟩
  · exact ⟨_, _, _, _, rfl⟩

theorem State.advance_pps (s : State) (x : Nat) : (s.advance x).sdl.ppsOut = s.sdl.ppsOut ∧ (s.advance x).sdl.ppsEnd = s.sdl.ppsEnd := by
  obtain ⟨r, ka, kb, o, h⟩ := s.advance_sdl x
  rw [h]
  exact ⟨rfl, rfl⟩

@[simp] theorem State.advance_gridEn (s : State) (x : Nat) : (s.advance x).gridEn = s.gridEn := by
  rw [State.gridEn, State.advance_flag, State.gridEn]

/-! ### The reference (R192, R206) -/

/-- A measurement of the reference once time has passed. -/
theorem State.measureRef_advance_sdl (s : State) (hz x : Nat) (hand : Bool) : ((s.advance x).measureRef hz hand).sdl =
    { (s.advance x).sdl with
      refFreq := refCode hz, freeOsc := s.sdl.freeOsc && !(hand && refUsable hz), refHeld := s.sdl.refHeld && !refUsable hz } := by
  rw [State.measureRef, (s.advance_osc x).1, (s.advance_osc x).2]

/-- A measurement that makes no handover leaves the source of the reference. -/
theorem State.measureRef_false_sdl (s : State) (hz x : Nat) : ((s.advance x).measureRef hz false).sdl =
    { (s.advance x).sdl with refFreq := refCode hz, refHeld := s.sdl.refHeld && !refUsable hz } := by
  rw [State.measureRef, Bool.false_and, Bool.not_false, Bool.and_true, (s.advance_osc x).2]

theorem exec_refclkHandover_running (hz x : Nat) {s : State} (hs : s.stopped = false) :
    exec (.refclkHandover hz x) s = .next (((s.advance x).measureRef hz s.mayHandOver).noteApply s) :=
  congrArg Host.Outcome.next (State.liveApply_of s _ hs)

theorem exec_refReturn_running (hz x : Nat) {s : State} (hs : s.stopped = false) :
    exec (.refReturn hz x) s = .next ((s.advance x).measureRef hz false) :=
  next_live hs _

/-- REF_LOST before the handover: there is no control word to hold. -/
theorem exec_refLost_free (x : Nat) {s : State} (hs : s.stopped = false) (hf : s.sdl.freeOsc = true) :
    exec (.refLost x) s = .next { s.advance x with sdl := { (s.advance x).sdl with refFreq := 0 } } := by
  rw [show exec (.refLost x) s = _ from next_live hs _]
  simp only [(s.advance_osc x).1, hf, if_true]

/-- REF_LOST after the handover holds the reference. -/
theorem exec_refLost_held (x : Nat) {s : State} (hs : s.stopped = false) (hf : s.sdl.freeOsc = false) :
    exec (.refLost x) s = .next (({ s.advance x with sdl := { (s.advance x).sdl with refFreq := 0, refHeld := true } } : State).post
      pgSdl 12 none []) := by
  rw [show exec (.refLost x) s = _ from next_live hs _]
  simp only [(s.advance_osc x).1, hf, Bool.false_eq_true, if_false]

/-! ### Calibration (R197) -/

theorem State.setCal_cal (s : State) (port : Nat) (on : Bool) (j : Nat) :
    fieldOf (s.setCal port on).sdl.cal j 1 = if j = port then bit on else fieldOf s.sdl.cal j 1 := by
  unfold State.setCal
  split
  case isTrue h =>
    split
    case isTrue hj => rw [hj, h]
    case isFalse => rfl
  case isFalse =>
    have hbit : bit on % 2 = bit on := by cases on <;> rfl
    rw [State.post_sdl, fieldOf_withField_one, hbit]

theorem State.setCal_event (s : State) (port : Nat) (on : Bool) (h : fieldOf s.sdl.cal port 1 ≠ bit on) :
    (s.setCal port on).event .pf pgSdl 14 = true := by
  rw [State.setCal, if_neg h]
  exact (State.posted _ _ _ _ (by decide)).2

/-! ### The slot grid (R207, R208) -/

theorem exec_gridBoundary_due (mu : Fin 4) (x : Nat) {s u : State} (hs : s.stopped = false) (hu : u = s.advance x) (hg : s.gridEn = true)
    (hfrom : u.slotCount mu.val u.sdl.gridFrom < u.slotCount mu.val u.sdl.dev)
    (hdev : (u.sdl.dev : Int) ≤
      u.devAt (symStart mu.val (u.slotCount mu.val u.sdl.dev) (u.symAt mu.val (u.slotCount mu.val u.sdl.dev) u.sdl.dev)) + 1) :
    exec (.gridBoundary mu x) s = .next { u with
      sdl := u.sdl.signal mu.val (u.slotCount mu.val u.sdl.dev) (u.symAt mu.val (u.slotCount mu.val u.sdl.dev) u.sdl.dev) } := by
  have hen : u.gridEn = true := by rw [hu, State.advance_gridEn, hg]
  subst hu
  exact (next_live hs _).trans (congrArg Host.Outcome.next (if_pos ⟨hen, hfrom, hdev⟩))

/-! ### PPS_OUT (R210) -/

theorem State.ppsDrive_out (s : State) (on : Bool) : Sent.pin .ppsOut (on != s.flag pgSdl 0x250 1) ∈ (s.ppsDrive on).hub.out :=
  State.emitted _ _ rfl

theorem State.ppsFall_dev (s : State) : s.ppsFall.sdl.dev = s.sdl.dev := by
  unfold State.ppsFall
  split <;> rfl

theorem State.ppsFall_cfg (s : State) : s.ppsFall.cfg = s.cfg := by
  unfold State.ppsFall
  split <;> rfl

theorem State.ppsFall_flag (s : State) : s.ppsFall.flag = s.flag := by
  funext p off lo
  rw [State.flag, s.ppsFall_cfg, State.flag]

theorem State.ppsFall_ended (s : State) (h : s.sdl.ppsOut = true) (he : 0 ≤ devDiff s.sdl.dev s.sdl.ppsEnd) :
    s.ppsFall = s.ppsDrive false :=
  if_pos ⟨h, he⟩

/-- Device time plus OFS_NS, within its second, in reference units (R210). -/
def State.ppsPhase (s : State) : Int :=
  ((s.sdl.dev : Int) - signedOf 20 (s.cfg pgSdl 0x250 2 20) * nsRef) % (10 ^ 9 * nsRef : Int)

/-- A pulse on PPS_OUT that is to end at `e` begins. -/
def State.ppsPulse (s : State) (e : Nat) : State := ({ s with sdl := { s.sdl with ppsEnd := e } } : State).ppsDrive true

theorem State.ppsPulse_sdl (s : State) (e : Nat) : (s.ppsPulse e).sdl = { s.sdl with ppsOut := true, ppsEnd := e } := rfl

theorem State.ppsPulse_out (s : State) (e : Nat) : Sent.pin .ppsOut (true != s.flag pgSdl 0x250 1) ∈ (s.ppsPulse e).hub.out :=
  State.ppsDrive_out _ true

/-- When a pulse that begins now ends: WIDTH_MS later. -/
def State.ppsPulseEnd (s : State) : Nat := (s.sdl.dev + s.cfg pgSdl 0x250 22 10 * (10 ^ 6 * nsRef)) % devMod

/-- PPS_OUT_EDGE ends the pulse that is due to end, and near a whole second begins one. -/
theorem exec_ppsOutEdge_running (x : Nat) {s u : State} (hs : s.stopped = false) (hu : u = s.advance x) :
    exec (.ppsOutEdge x) s = .next
      (if u.flag pgSdl 0x250 0 = true ∧ ppsNear u.ppsPhase = true then u.ppsFall.ppsPulse u.ppsPulseEnd else u.ppsFall) := by
  have hphase : u.ppsFall.ppsPhase = u.ppsPhase := by
    rw [State.ppsPhase, u.ppsFall_dev, u.ppsFall_cfg, State.ppsPhase]
  have hends : u.ppsFall.ppsPulseEnd = u.ppsPulseEnd := by
    rw [State.ppsPulseEnd, u.ppsFall_dev, u.ppsFall_cfg, State.ppsPulseEnd]
  rw [← hphase, ← hends, ← u.ppsFall_flag, hu]
  exact next_live hs _

/-! ### SYNCE_OUT (R202) -/

/-- Whether a SYNCE output is squelched. -/
def Sundial.squelch (x : Sundial) (k : Nat) : Bool := if k = 0 then x.squelch0 else x.squelch1

/-- One output follows a lane that has gained or lost lock. -/
def State.synceFollow (lane : Nat) (s : State) (k : Nat) : State :=
  if s.flag pgSdl (0x260 + 4 * k) 6 = true ∧ s.cfg pgSdl (0x260 + 4 * k) 0 5 = lane then s.synceDrive k else s

/-- A state in which an output is squelched, and was driven low. -/
def State.Squelched (s : State) (k : Nat) : Prop := s.sdl.squelch k = true ∧ Sent.pin (.synce k) false ∈ s.hub.out

@[simp] theorem State.synceDrive_unlocked (s : State) (k : Nat) : (s.synceDrive k).sdl.unlocked = s.sdl.unlocked := by
  unfold State.synceDrive
  rw [State.emit_sdl]
  dsimp only
  split <;> rfl

theorem State.synceFollow_same (lane : Nat) (s : State) (k : Nat) :
    (s.synceFollow lane k).sdl.unlocked = s.sdl.unlocked ∧ (s.synceFollow lane k).cfg = s.cfg := by
  unfold State.synceFollow
  split
  · exact ⟨s.synceDrive_unlocked k, rfl⟩
  · exact ⟨rfl, rfl⟩

/-- An enabled output with SQUELCH_EN whose lane has no lock is squelched. -/
theorem State.synceDrive_squelched (s : State) (k : Nat) (hen : s.flag pgSdl (0x260 + 4 * k) 6 = true)
    (hsq : s.flag pgSdl (0x260 + 4 * k) 7 = true) (hlock : fieldOf s.sdl.unlocked (s.cfg pgSdl (0x260 + 4 * k) 0 5) 1 = 1) :
    (s.synceDrive k).Squelched k := by
  unfold State.synceDrive
  simp only [hen, hsq, hlock, decide_true, Bool.and_self, Bool.true_eq_false, and_false, if_false]
  refine ⟨?_, State.emitted _ _ rfl⟩
  rw [State.emit_sdl]
  unfold Sundial.squelch
  by_cases hk : k = 0
  · simp only [if_pos hk]
  · simp only [if_neg hk]

/-- Driving one output leaves the other squelched. -/
theorem State.Squelched.synceDrive {s : State} {j k : Nat} (h : s.Squelched j) (hjk : ¬(j = 0 ↔ k = 0)) : (s.synceDrive k).Squelched j := by
  obtain ⟨hsq, hout⟩ := h
  unfold State.synceDrive
  refine ⟨?_, (State.Heard.emit (State.Heard.refl s) _).1 _ hout⟩
  rw [← hsq, State.emit_sdl]
  unfold Sundial.squelch
  by_cases hk : k = 0
  · have hj : ¬j = 0 := fun hj => hjk ⟨fun _ => hk, fun _ => hj⟩
    simp only [if_pos hk, if_neg hj]
  · have hj : j = 0 := by simpa [hk] using hjk
    simp only [if_neg hk, if_pos hj]

theorem State.Squelched.synceFollow {s : State} {j k : Nat} (h : s.Squelched j) (hjk : ¬(j = 0 ↔ k = 0)) (lane : Nat) :
    (s.synceFollow lane k).Squelched j := by
  unfold State.synceFollow
  split
  · exact h.synceDrive hjk
  · exact h

/-- A lane has lost lock, and no output has followed yet. -/
def State.loseLane (s : State) (lane : Nat) : State := { s with sdl := { s.sdl with unlocked := withField s.sdl.unlocked lane 1 1 } }

theorem State.loseLane_unlocked (s : State) (lane : Nat) : fieldOf (s.loseLane lane).sdl.unlocked lane 1 = 1 :=
  (fieldOf_withField_one _ _ _ _).trans (if_pos rfl)

/-- Both outputs follow the loss of a lane's lock. -/
theorem State.laneLock_false (s : State) (lane : Nat) :
    s.laneLock lane false = ((s.loseLane lane).synceFollow lane 0).synceFollow lane 1 := rfl

/-- An output that drives a lane without lock is squelched under SQUELCH_EN. -/
theorem State.synceFollow_squelched {s t : State} {lane k : Nat} (hcfg : t.cfg = s.cfg) (hlost : fieldOf t.sdl.unlocked lane 1 = 1)
    (hen : s.flag pgSdl (0x260 + 4 * k) 6 = true) (hsq : s.flag pgSdl (0x260 + 4 * k) 7 = true)
    (hl : s.cfg pgSdl (0x260 + 4 * k) 0 5 = lane) : (t.synceFollow lane k).Squelched k := by
  have hflag : t.flag = s.flag := by
    funext p off lo
    rw [State.flag, hcfg, State.flag]
  rw [State.synceFollow, hflag, hcfg, if_pos ⟨hen, hl⟩]
  exact t.synceDrive_squelched k (by rwa [hflag]) (by rwa [hflag]) (by rwa [hcfg, hl])

/-- The loss of a lane's lock squelches each output that it drives under SQUELCH_EN. -/
theorem State.laneLock_lost (s : State) (lane : Nat) : fieldOf (s.laneLock lane false).sdl.unlocked lane 1 = 1 ∧
    ∀ k, k < 2 → s.flag pgSdl (0x260 + 4 * k) 6 = true → s.flag pgSdl (0x260 + 4 * k) 7 = true →
      s.cfg pgSdl (0x260 + 4 * k) 0 5 = lane → (s.laneLock lane false).Squelched k := by
  have hlost := s.loseLane_unlocked lane
  obtain ⟨hunlocked0, hcfg0⟩ := (s.loseLane lane).synceFollow_same lane 0
  obtain ⟨hunlocked1, -⟩ := ((s.loseLane lane).synceFollow lane 0).synceFollow_same lane 1
  rw [State.laneLock_false]
  refine ⟨by rw [hunlocked1, hunlocked0, hlost], fun k hk hen hsq hl => ?_⟩
  obtain rfl | rfl : k = 0 ∨ k = 1 := by omega
  · exact (State.synceFollow_squelched (t := s.loseLane lane) rfl hlost hen hsq hl).synceFollow (by decide) lane
  · exact State.synceFollow_squelched hcfg0 (by rwa [hunlocked0]) hen hsq hl

/-- Settles O40, command by command. -/
theorem sundialPinsAndGridComplete : Obligations.SundialPinsAndGridComplete := by
  refine ⟨?handover, ?lost, ?returned, ?calibration, ?grid, ?pps, ?synce⟩
  case handover =>
    intro hz x s hs
    exact ⟨_, exec_refclkHandover_running hz x hs, (State.noteApply_sdl _ _).trans (s.measureRef_advance_sdl hz x _)⟩
  case lost =>
    intro x s hs
    cases hf : s.sdl.freeOsc with
    | true =>
      refine ⟨_, exec_refLost_free x hs hf, ?_, fun h => absurd h Bool.noConfusion⟩
      rw [Bool.not_true, Bool.or_false, ← (s.advance_osc x).2]
    | false =>
      refine ⟨_, exec_refLost_held x hs hf, ?_, fun _ => (State.posted _ _ _ _ (by decide)).2⟩
      rw [State.post_sdl, Bool.not_false, Bool.or_true]
  case returned => exact fun hz x s hs => ⟨_, exec_refReturn_running hz x hs, s.measureRef_false_sdl hz x⟩
  case calibration =>
    intro k s hs
    exact ⟨_, next_live hs _, s.setCal_cal k.val true, fun h => s.setCal_event k.val true (by rw [h]; decide)⟩
  case grid =>
    rintro mu x s u n l hs hu hg rfl rfl hfrom hdev
    exact ⟨_, exec_gridBoundary_due mu x hs hu hg hfrom hdev, rfl⟩
  case pps =>
    intro x s u hs hu
    have hcfg : s.cfg = u.cfg := by rw [hu, State.advance_cfg]
    have hflag : s.flag = u.flag := by rw [hu, State.advance_flag]
    rw [hcfg, hflag]
    refine ⟨_, exec_ppsOutEdge_running x hs hu, fun hen hnear => ?rises, fun hfar hout hend => ?falls⟩
    case rises =>
      rw [if_pos ⟨hen, hnear⟩, State.ppsPulse_sdl, ← u.ppsFall_flag]
      exact ⟨rfl, rfl, u.ppsFall.ppsPulse_out _⟩
    case falls =>
      have hstill : ¬(u.flag pgSdl 0x250 0 = true ∧ ppsNear u.ppsPhase = true) := fun h => Bool.false_ne_true (hfar.symm.trans h.2)
      have hactive : u.sdl.ppsOut = true := by rw [hu, (s.advance_pps x).1, hout]
      have hended : 0 ≤ devDiff u.sdl.dev u.sdl.ppsEnd := by rwa [hu, (s.advance_pps x).2, ← hu]
      rw [if_neg hstill, u.ppsFall_ended hactive hended]
      exact ⟨rfl, u.ppsDrive_out false⟩
  case synce =>
    intro l s hs
    exact ⟨_, next_live hs _, s.laneLock_lost l.val⟩

end Sys2Proof.Machine
end

section
/-!
PROOF. Samples, holdover, the followed domain and PPS_IN (08 R201, R203, R205, R211): O41.
-/

namespace Sys2Proof.Machine

open Sys2Proof

/-! ### The passing of time over the servos -/

theorem State.advance_sample0 (s : State) (x : Nat) : (s.advance x).sdl.sample0 = s.sdl.sample0 := by
  obtain ⟨r, ka, kb, o, h⟩ := s.advance_sdl x
  rw [h]

theorem State.advance_switching (s : State) (x : Nat) : (s.advance x).sdl.switching = s.sdl.switching := by
  obtain ⟨r, ka, kb, o, h⟩ := s.advance_sdl x
  rw [h]

/-- The reference has reached a time once it stands there, or is advanced there. -/
theorem State.reached_advance (s : State) (x a : Nat) : (s.advance x).reached a = true ↔ a ≤ max s.sdl.ref x := by
  rw [State.reached, State.advance_ref, decide_eq_true_iff]

/-! ### SAMPLE_IN (R201) -/

theorem plainCnt_rejectedSamples : PlainCnt pgSdl 0x50 := by
  unfold PlainCnt
  decide

/-- A rejected sample counts as it would at any other time. -/
theorem State.count_rejected_advance (s : State) (x : Nat) :
    ((s.advance x).bump pgSdl 0x50 none).count pgSdl 0x50 = (s.bump pgSdl 0x50 none).count pgSdl 0x50 := by
  rw [State.count_bump_self _ _ _ _ plainCnt_rejectedSamples, State.count_bump_self _ _ _ _ plainCnt_rejectedSamples,
    State.advance_count]

theorem exec_sampleIn_foreign {v : View} (w : Word) (b : Bool) (x : Nat) {s : State} (hs : s.stopped = false) (hv : v ≠ .gk) :
    exec (.sampleIn v w b x) s = .next ((s.advance x).dropped v pgSdl) :=
  (next_live hs _).trans (congrArg Host.Outcome.next (if_pos hv))

/-- A sample of Groundskeeper's is rejected or accepted, by what the two words before it say (R201). -/
theorem exec_sampleIn_gk (w : Word) (b : Bool) (x : Nat) {s : State} (hs : s.stopped = false) {d : Bool}
    (hd : d = decide (fieldOf s.sdl.sample0.toNat 0 1 = 1)) :
    exec (.sampleIn .gk w b x) s = .next
      (if b = true ∨ s.cfg pgSdl (domOff d) 0 2 ≠ 1 ∨ 2000000 < fieldOf s.sdl.sample0.toNat 1 31 then
        (s.advance x).bump pgSdl 0x50 none
      else (s.advance x).acceptSample d (signedOf 64 ((s.advance x).sdl.sample1.toNat + 2 ^ 32 * w.toNat))) := by
  rw [show exec (.sampleIn .gk w b x) s = _ from next_live hs _]
  simp only [State.advance_sample0, State.advance_cfg, ← hd, ne_eq, not_true_eq_false, if_false]

/-- What an accepted sample leaves of its servo, once time has passed. -/
theorem State.acceptSample_advance (s : State) (d : Bool) (off : Int) (x n : Nat)
    (hn : n = if (Config.servoFiltered s.free).natAbs ≤ s.cfg pgSdl (domOff d + 8) 0 20 * nsRef then
      (if (s.sdl.servo d).st = .freerun then 0 else (s.sdl.servo d).good) + 1 else 0) :
    (((s.advance x).acceptSample d off).sdl.servo d).lastSample = (s.advance x).sdl.ref ∧
    (((s.advance x).acceptSample d off).sdl.servo d).good = n ∧
    (((s.advance x).acceptSample d off).sdl.servo d).st = (if (s.sdl.servo d).st = .freerun then .acquiring
      else if 16 ≤ n ∧ ((s.sdl.servo d).st = .acquiring ∨ (s.sdl.servo d).st = .holdover) then .locked else (s.sdl.servo d).st) := by
  rw [← (s.advance_servo x d).1, ← (s.advance_servo x d).2, ← s.advance_cfg x] at hn
  rw [← (s.advance_servo x d).1]
  exact (s.advance x).acceptSample_servo d off n hn

/-! ### Holdover (R203) -/

theorem exec_servoSampleTimeout_running (d : Bool) (x : Nat) {s : State} (hs : s.stopped = false) :
    exec (.servoSampleTimeout d x) s = .next
      (if (s.sdl.servo d).lastSample + 10 ^ 9 * nsRef ≤ max s.sdl.ref x then (s.advance x).enterHoldover d else s.advance x) := by
  rw [show exec (.servoSampleTimeout d x) s = _ from next_live hs _]
  simp only [State.reached_advance, State.advance_last]

theorem exec_parentLost_running (d : Bool) (x : Nat) {s : State} (hs : s.stopped = false) :
    exec (.parentLost d x) s = .next ((s.advance x).enterHoldover d) :=
  next_live hs _

/-- A LOCKED servo enters HOLDOVER at its mean rate, with STATE_CHANGE. -/
theorem State.enterHoldover_locked (s : State) (d : Bool) (h : (s.sdl.servo d).st = .locked) :
    ((s.enterHoldover d).sdl.servo d).st = .holdover ∧ ((s.enterHoldover d).sdl.servo d).rate = meanRate (s.sdl.servo d) s.sdl.ref ∧
    ((s.enterHoldover d).sdl.servo d).heldSince = s.sdl.ref ∧ (s.enterHoldover d).event .pf pgSdl 8 = true := by
  obtain ⟨hservo, -, hevent⟩ := s.enterHoldover_of d h
  rw [hservo]
  exact ⟨rfl, rfl, rfl, hevent⟩

/-- A servo's holdover ends in FREERUN, with HOLD_EXPIRED, and the other domain may be followed. -/
def State.holdoverEnds (s : State) (d : Bool) : State := ((s.setServoState d .freerun).post pgSdl 11 none [bit d]).autoSwitch d

theorem exec_holdExpired_held (d : Bool) (x : Nat) {s : State} (hs : s.stopped = false) (h : (s.sdl.servo d).st = .holdover) :
    exec (.holdExpired d x) s = .next
      (if (s.sdl.servo d).heldSince + s.cfg pgSdl 0x100 13 16 * (10 ^ 9 * nsRef) ≤ max s.sdl.ref x then (s.advance x).holdoverEnds d
      else s.advance x) := by
  rw [show exec (.holdExpired d x) s = _ from next_live hs _]
  simp only [State.reached_advance, State.advance_heldSince, (s.advance_servo x d).1, h, State.advance_cfg, true_and]
  rfl

theorem State.holdoverEnds_freerun (s : State) (d : Bool) (h : (s.sdl.servo d).st = .holdover) :
    ((s.holdoverEnds d).sdl.servo d).st = .freerun ∧ (s.holdoverEnds d).event .pf pgSdl 11 = true ∧
    (s.holdoverEnds d).event .pf pgSdl 8 = true := by
  have hchange : (s.setServoState d .freerun).event .pf pgSdl 8 = true := s.setServoState_event d .freerun (by rw [h]; decide)
  have hexpired := (State.posted (s.setServoState d .freerun) pgSdl (b := 11) none [bit d] (by decide)).2
  have hpost := State.Heard.post (State.Heard.refl (s.setServoState d .freerun)) pgSdl 11 none [bit d]
  have hswitch := State.Heard.autoSwitch (State.Heard.refl ((s.setServoState d .freerun).post pgSdl 11 none [bit d])) d
  refine ⟨?_, hswitch.2 _ _ _ hexpired, hswitch.2 _ _ _ (hpost.2 _ _ _ hchange)⟩
  rw [State.holdoverEnds, (State.autoSwitch_servos _ d).1, State.post_sdl, State.setServoState_sdl, Sundial.servo_setServo, if_pos rfl]

/-! ### The followed domain (R205) -/

theorem exec_switchDone_switching (x : Nat) {s u : State} (hs : s.stopped = false) (hu : u = s.advance x) (h : s.sdl.switching = true) :
    exec (.switchDone x) s = .next (if u.sdl.ofs = 0 then
      ({ u with sdl := { u.sdl with switching := false } } : State).post pgSdl 9 none [bit u.sdl.selAct] else u) := by
  rw [show exec (.switchDone x) s = _ from next_live hs _, hu]
  simp only [State.advance_switching, h, true_and]

/-! ### PPS_IN (R211) -/

/-- PPS_IN is stamped on device time and on both domain clocks. -/
def State.ppsStamp (s : State) : State :=
  { s with sdl := { s.sdl with ppsDev := s.sdl.dev, ppsA := domTime s.sdl.a.clk, ppsB := domTime s.sdl.b.clk } }

/-- The stamps of PPS_IN are counted and posted. -/
def State.ppsReport (s : State) : State := (s.bump pgSdl 0x68 none).record pgSdl 33 [s.sdl.ppsDev, s.sdl.ppsA, s.sdl.ppsB]

theorem exec_ppsInEdge_running (x : Nat) {s : State} (hs : s.stopped = false) :
    exec (.ppsInEdge x) s = .next (((s.advance x).ppsStamp.ppsReport.ppsSample false).ppsSample true) :=
  next_live hs _

/-- A domain whose source is not PPS takes no sample of PPS_IN. -/
theorem State.ppsSample_else (s : State) (d : Bool) (h : s.cfg pgSdl (domOff d) 0 2 ≠ 2) : s.ppsSample d = s := if_pos h

/-- The samples of both domains leave the stamps, the trace, and the servo of a domain whose source is not PPS. -/
theorem State.ppsSamples_keep (s : State) :
    ((s.ppsSample false).ppsSample true).sdl.ppsDev = s.sdl.ppsDev ∧ ((s.ppsSample false).ppsSample true).sdl.ppsA = s.sdl.ppsA ∧
    ((s.ppsSample false).ppsSample true).sdl.ppsB = s.sdl.ppsB ∧ s.Heard ((s.ppsSample false).ppsSample true) ∧
    ∀ d, s.cfg pgSdl (domOff d) 0 2 ≠ 2 → ((s.ppsSample false).ppsSample true).sdl.servo d = s.sdl.servo d := by
  obtain ⟨hdev, ha, hb, hcfg, hother⟩ := s.ppsSample_pps false
  obtain ⟨hdev', ha', hb', -, hother'⟩ := (s.ppsSample false).ppsSample_pps true
  refine ⟨hdev'.trans hdev, ha'.trans ha, hb'.trans hb, ((State.Heard.refl s).ppsSample false).ppsSample true, fun d hd => ?_⟩
  cases d with
  | false => rw [hother' false (by decide), s.ppsSample_else false hd]
  | true => rw [(s.ppsSample false).ppsSample_else true (by rwa [hcfg]), hother true (by decide)]

/-- Settles O41, command by command. -/
theorem sundialServosComplete : Obligations.SundialServosComplete := by
  refine ⟨?foreign, ?sample, ?holdover, ?expired, ?switch, ?pps⟩
  case foreign =>
    intro v w b x s hs hv
    exact ⟨_, exec_sampleIn_foreign w b x hs hv, State.dropped_sdl _ _ _, State.event_raiseIn_self _ v pgSdl (by decide)⟩
  case sample =>
    rintro w b x s u d hs rfl hd
    refine ⟨_, exec_sampleIn_gk w b x hs hd, fun hrej => ?rejected, fun hb hsrc hage n hn => ?accepted⟩
    case rejected =>
      rw [if_pos hrej]
      exact ⟨State.bump_sdl _ _ _ _, s.count_rejected_advance x⟩
    case accepted =>
      have hok : ¬(b = true ∨ s.cfg pgSdl (domOff d) 0 2 ≠ 1 ∨ 2000000 < fieldOf s.sdl.sample0.toNat 1 31) := by
        rintro (h | h | h)
        · exact Bool.false_ne_true (hb.symm.trans h)
        · exact h hsrc
        · exact not_lt_of_ge hage h
      rw [if_neg hok]
      exact s.acceptSample_advance d _ x n hn
  case holdover =>
    rintro d x s u hs rfl hl
    have hheld := (s.advance x).enterHoldover_locked d ((s.advance_servo x d).1.trans hl)
    refine ⟨⟨_, exec_servoSampleTimeout_running d x hs, fun h => ?_, fun h => ?_⟩, _, exec_parentLost_running d x hs, hheld⟩
    · rwa [if_pos h]
    · rw [if_neg (not_le_of_gt h)]
  case expired =>
    rintro d x s u hs rfl hh
    refine ⟨_, exec_holdExpired_held d x hs hh, fun h => ?_, fun h => ?_⟩
    · rw [if_pos h]
      exact (s.advance x).holdoverEnds_freerun d ((s.advance_servo x d).1.trans hh)
    · rw [if_neg (not_le_of_gt h)]
  case switch =>
    intro x s u hs hu hsw
    refine ⟨_, exec_switchDone_switching x hs hu hsw, fun h => ?_, fun h => ?_⟩
    · rw [if_pos h]
      exact ⟨State.post_sdl _ _ _ _ _, (State.posted _ _ _ _ (by decide)).2⟩
    · rw [if_neg h]
  case pps =>
    rintro x s u hs rfl
    obtain ⟨hdev, ha, hb, hheard, hservo⟩ := (s.advance x).ppsStamp.ppsReport.ppsSamples_keep
    refine ⟨_, exec_ppsInEdge_running x hs, hdev, ha, hb, hheard.1 _ (State.recorded _ _ _ _), fun d hd => ?_⟩
    have hcfg : (s.advance x).ppsStamp.ppsReport.cfg = s.cfg := s.advance_cfg x
    refine (hservo d (by rwa [hcfg])).trans ?_
    cases d <;> rfl

end Sys2Proof.Machine
end

section
/-!
PROOF. Frames, C-plane messages, delay measurement, PTP requests and links of the Turnstile (08 R193, R197, R201, R202; 09 R214 to R222,
R232, R234, R240): O58.
-/

namespace Sys2Proof.Machine

open Sys2Proof

/-! ### What depends on the Turnstile's own state only -/

theorem State.ruSt_of_trn {s t : State} (h : t.trn = s.trn) (r : Nat) : t.ruSt r = s.ruSt r := by
  rw [State.ruSt, State.ruSt, h]

@[simp] theorem State.txStamp_trn (s : State) (p taken stamp : Nat) : (s.txStamp p taken stamp).2.trn = s.trn :=
  Keeps.trn_eq (State.txStamp_keeps (Keeps.refl s) : LeavesTrn s _)

@[simp] theorem State.portLock_trn (s : State) (p : Nat) : (s.portLock p).trn = s.trn :=
  Keeps.trn_eq (State.portLock_keeps (Keeps.refl s) : LeavesTrn s _)

@[simp] theorem State.setCal_trn (s : State) (p : Nat) (on : Bool) : (s.setCal p on).trn = s.trn :=
  Keeps.trn_eq (State.setCal_keeps (Keeps.refl s) : LeavesTrn s _)

@[simp] theorem State.setPort_sdl (s : State) (p : Nat) (up : Bool) : (s.setPort p up).sdl = s.sdl :=
  Keeps.sdl_eq (State.setPort_keeps (Keeps.refl s) : LeavesSdl s _)

/-! ### Frames (R214, R216, R221; 08 R193, R195) -/

/-- Whether a frame is looked into: nothing before it is dropped with it, its port is up, its FCS and its length are good, and it has
one tag at most. -/
def State.takesFrame (s : State) (p : Nat) (f : Frame) : Prop :=
  s.dropsRest p = false ∧ s.portUp p = true ∧ f.fcsOk = true ∧ 64 ≤ f.len ∧ f.len ≤ s.cfg pgTrn (0x200 + 0x10 * p) 3 14 ∧
    f.vids.length < 2

/-- What a frame that is looked into does: PTP and ESMC take the uncontrolled port, the rest goes to its radio unit. -/
def State.frameTaken (s : State) (p : Nat) (f : Frame) (full : Bool) (cons : Option Nat) : State :=
  match f.bodies with
  | [.ptp domain kind seq ts corr] => s.ptpMsg p domain kind seq ts corr
  | [.esmc pdu] => s.record pgSdl 38 [p, pdu]
  | _ => s.frameFor p f full cons

section
variable {port : Fin 16} {f : Frame} {level x : Nat} {full : Bool} {cons : Option Nat} {s u : State}

theorem exec_frameReceive_dropped (hs : s.stopped = false) (hu : u = ((s.advance x).setLevel port.val level).noteShed port.val false)
    (hrest : u.dropsRest port.val = true) : exec (.frameReceive port f level full cons x) s = .next (u.restDropped port.val) := by
  subst hu
  exact (next_live hs _).trans (congrArg Host.Outcome.next (if_pos hrest))

/-- A frame on a port that is down is ignored (log 130). -/
theorem exec_frameReceive_portDown (hs : s.stopped = false) (hu : u = ((s.advance x).setLevel port.val level).noteShed port.val false)
    (hrest : u.dropsRest port.val = false) (hdown : u.portUp port.val = false) :
    exec (.frameReceive port f level full cons x) s = .next u := by
  subst hu
  refine (next_live hs _).trans (congrArg Host.Outcome.next ?_)
  dsimp only
  rw [if_neg (ne_true_of_eq_false hrest), if_pos hdown]

/-- A frame with a bad FCS or length counts for its port's partition (log 130). -/
theorem exec_frameReceive_bad (hs : s.stopped = false) (hu : u = ((s.advance x).setLevel port.val level).noteShed port.val false)
    (hrest : u.dropsRest port.val = false) (hup : u.portUp port.val = true)
    (hbad : f.fcsOk = false ∨ f.len < 64 ∨ u.cfg pgTrn (0x200 + 0x10 * port.val) 3 14 < f.len) :
    exec (.frameReceive port f level full cons x) s =
      .next (u.bump pgTrn 0x48 (some (u.cfg pgTrn (0x200 + 0x10 * port.val) 0 3))) := by
  subst hu
  refine (next_live hs _).trans (congrArg Host.Outcome.next ?_)
  dsimp only
  rw [if_neg (ne_true_of_eq_false hrest), if_neg (ne_false_of_eq_true hup), if_pos hbad]

theorem exec_frameReceive_taken (hs : s.stopped = false) (hu : u = ((s.advance x).setLevel port.val level).noteShed port.val false)
    (h : u.takesFrame port.val f) : exec (.frameReceive port f level full cons x) s = .next (u.frameTaken port.val f full cons) := by
  obtain ⟨hrest, hup, hfcs, hmin, hmax, hvids⟩ := h
  have hgood : ¬(f.fcsOk = false ∨ f.len < 64 ∨ u.cfg pgTrn (0x200 + 0x10 * port.val) 3 14 < f.len) := by
    simp only [hfcs, Bool.true_eq_false, false_or]
    omega
  subst hu
  refine (next_live hs _).trans (congrArg Host.Outcome.next ?_)
  dsimp only
  rw [if_neg (ne_true_of_eq_false hrest), if_neg (ne_false_of_eq_true hup), if_neg hgood, if_neg (not_lt_of_ge (Nat.le_of_lt_succ hvids))]
  rfl

end

/-- A PTP event message is stamped on the clock of its domain, whatever its domain then does with it. -/
theorem State.ptpMsg_rxStamp (s : State) (port d : Nat) (kind : PtpKind) (seq ts : Nat) (corr : Int) (he : ptpEvent kind = true) :
    SMap.get zeroUnlisted (s.ptpMsg port d kind seq ts corr).sdl.rxStamp port =
      s.rxWord port (s.ptpClock port d).1 (s.ptpClock port d).2 seq := by
  have hfor (u : State) (b : Bool) (w : Nat) : (u.ptpFor b w kind seq ts corr).sdl = u.sdl :=
    Keeps.sdl_eq (State.ptpFor_keeps (Keeps.refl u) : LeavesSdl u _)
  have hsdl : (s.ptpMsg port d kind seq ts corr).sdl =
      (s.stampRx port (s.rxWord port (s.ptpClock port d).1 (s.ptpClock port d).2 seq)).sdl := by
    unfold State.ptpMsg
    dsimp only
    rw [if_pos he]
    split
    · exact hfor _ _ _
    · split
      · exact hfor _ _ _
      · rfl
  rw [hsdl]
  exact SMap.get_put_self zeroUnlisted _ _ _

/-- A frame with one U-plane message, of a radio unit without MACsec, is that message. -/
theorem State.frameTaken_uplane (s : State) {p r : Nat} {f : Frame} {m : UpMsg} (full : Bool) (cons : Option Nat)
    (hbody : f.bodies = [.uplane m]) (hsec : f.sec = none) (hhdr : m.hdrOk = true) (hru : s.ruFor? p f = some r)
    (hmac : s.ruCfg r 0 21 1 = 0) : s.frameTaken p f full cons = s.uplane p r f.len m full cons := by
  have hfor : s.frameTaken p f full cons = s.frameFor p f full cons := by
    rw [State.frameTaken, hbody]
  have hunit : s.frameFor p f full cons = s.frameBody p r f full cons := by
    have hclear : ¬(s.ruCfg r 0 21 1 = 1) := by rw [hmac]; exact Nat.zero_ne_one
    have hplain : ¬(f.sec.isSome = true) := by rw [hsec]; exact Bool.false_ne_true
    rw [State.frameFor, hru]
    exact (if_neg hclear).trans (if_neg hplain)
  have hmsg : s.frameBody p r f full cons = s.uplane p r f.len m full cons := by
    have hgood : ¬([FrameBody.uplane m].any bodyBad = true) := by simp [bodyBad, hhdr]
    rw [State.frameBody, hbody, if_neg hgood, List.foldl_cons, List.foldl_nil, State.frameMsg]
  rw [hfor, hunit, hmsg]

/-! ### Delay measurement (R222) -/

/-- t1 of a measurement that begins now. -/
def State.delayT1 (s : State) (r : Nat) : Nat := stampOf s.sdl.dev (s.asym (s.ruPort r) 0)

/-- A Request leaves, with t1 in one-step operation; in two-step operation (log 136) its stamp goes through the port's FIFO (08 R196), and
the first component says that it was not lost. -/
def State.delayRequest (s : State) (r : Nat) (two : Bool) (taken : Nat) : Bool × State :=
  if two then (s.sendTo r 2 [(s.ruSt r).seq5]).txStamp (s.ruPort r) taken (s.txWord (s.ruPort r) 0 s.sdl.dev (s.ruSt r).seq5)
  else (true, s.sendTo r 2 [(s.ruSt r).seq5, s.delayT1 r, 0])

/-- What is kept of a Request: when it left, its sequence number, and t1 where its stamp was not lost. -/
def RuSt.requested (y : RuSt) (now seq t1 : Nat) (kept : Bool) : RuSt :=
  { y with tdAt := now + 1, seq5 := (y.seq5 + 1) % 2 ^ 16, reqT1 := if kept then some (seq, t1) else none }

/-- The Request is kept, and a Remote Request leaves, after a Follow_Up in two-step operation. -/
def State.delayFollowed (s : State) (r : Nat) (two : Bool) (a : Bool × State) : State :=
  let v := a.2.modRu r fun y => y.requested s.sdl.ref (s.ruSt r).seq5 (s.delayT1 r) a.1
  (if two = true ∧ a.1 = true then v.sendTo r 5 [(s.ruSt r).seq5, s.delayT1 r, 0] else v).sendTo r 3 [(s.ruSt r).seq5]

theorem exec_tdMeasTimer_running (ru : Fin 48) (two : Bool) (taken x : Nat) {s u : State} {due : Bool} (hs : s.stopped = false)
    (hu : u = s.advance x) (hdue : due = (u.ruEn ru.val && decide (u.ruCfg ru.val 0 23 1 = 1) && u.portUp (u.ruPort ru.val) &&
      decide ((u.ruSt ru.val).tdAt = 0 ∨ (u.ruSt ru.val).tdAt - 1 + 10 ^ 8 * nsRef ≤ u.sdl.ref))) :
    exec (.tdMeasTimer ru two taken x) s =
      .next (if due = true then u.delayFollowed ru.val two (u.delayRequest ru.val two taken) else u) := by
  subst hu hdue
  refine (next_live hs _).trans (congrArg Host.Outcome.next (if_congr ?_ ?_ rfl))
  · simp only [Bool.and_eq_true, decide_eq_true_eq, and_assoc]
  · cases two <;> rfl

theorem State.delayRequest_seq5 (s : State) (r : Nat) (two : Bool) (taken : Nat) :
    ((s.delayRequest r two taken).2.ruSt r).seq5 = (s.ruSt r).seq5 := by
  have hsent (l : List Nat) : ((s.sendTo r 2 l).ruSt r).seq5 = (s.ruSt r).seq5 := by
    obtain ⟨n, hn⟩ := s.sendTo_ru r 2 l
    rw [hn]
  unfold State.delayRequest
  split
  · rw [State.ruSt_of_trn (State.txStamp_trn _ _ _ _), hsent]
  · exact hsent _

/-- The frames that follow a Request change no more of the radio unit than its PN. -/
theorem State.delayFollowed_ruSt (s : State) (r : Nat) (two : Bool) (a : Bool × State) : ∃ n, (s.delayFollowed r two a).ruSt r =
    { (a.2.ruSt r).requested s.sdl.ref (s.ruSt r).seq5 (s.delayT1 r) a.1 with txPn := n } := by
  unfold State.delayFollowed
  dsimp only
  obtain ⟨n, hn⟩ := State.sendTo_ru (if two = true ∧ a.1 = true then
    (a.2.modRu r fun y => y.requested s.sdl.ref (s.ruSt r).seq5 (s.delayT1 r) a.1).sendTo r 5 [(s.ruSt r).seq5, s.delayT1 r, 0]
    else a.2.modRu r fun y => y.requested s.sdl.ref (s.ruSt r).seq5 (s.delayT1 r) a.1) r 3 [(s.ruSt r).seq5]
  refine ⟨n, hn.trans ?_⟩
  split
  · obtain ⟨k, hk⟩ := State.sendTo_ru (a.2.modRu r fun y => y.requested s.sdl.ref (s.ruSt r).seq5 (s.delayT1 r) a.1) r 5
      [(s.ruSt r).seq5, s.delayT1 r, 0]
    rw [hk, State.ruSt_modRu_self]
  · rw [State.ruSt_modRu_self]

/-- In one-step operation without MACsec the Request and the Remote Request leave as their words. -/
theorem State.delayFollowed_out (s : State) (r taken : Nat) (hmac : s.ruCfg r 0 21 1 = 0) :
    Sent.message (s.ruPort r) 2 [(s.ruSt r).seq5, s.delayT1 r, 0] ∈ (s.delayFollowed r false (s.delayRequest r false taken)).hub.out ∧
    Sent.message (s.ruPort r) 3 [(s.ruSt r).seq5] ∈ (s.delayFollowed r false (s.delayRequest r false taken)).hub.out := by
  let v := (s.sendTo r 2 [(s.ruSt r).seq5, s.delayT1 r, 0]).modRu r fun y =>
    y.requested s.sdl.ref (s.ruSt r).seq5 (s.delayT1 r) true
  have hv : s.delayFollowed r false (s.delayRequest r false taken) = v.sendTo r 3 [(s.ruSt r).seq5] := rfl
  have hcfg : v.cfg = s.cfg := by
    funext p off lo w
    have hgate : v.gate = s.gate := ((State.OnlyRu.refl s).sendTo r 2 _).2.2
    rw [State.cfg, State.cfg, hgate]
  have hport : v.ruPort r = s.ruPort r := by rw [State.ruPort, State.ruCfg, hcfg]; rfl
  rw [hv]
  constructor
  · exact (((State.Heard.refl _).modRu r _).sendTo r 3 _).1 _ (s.sendTo_out r 2 _ hmac)
  · rw [← hport]
    exact v.sendTo_out r 3 _ (by rw [State.ruCfg, hcfg]; exact hmac)

/-! ### C-plane messages (R218, R219) -/

/-- The enabled flow of an enabled radio unit that a C-plane message names: the lowest-numbered one (log 132). -/
def State.cpFlow? (s : State) (m : CpMsg) : Option Nat :=
  (List.range 1024).find? fun f =>
    decide (s.flowCfg f 0 0 1 = 1 ∧ s.flowCfg f 0 1 16 = m.eaxc ∧ s.flowCfg f 0 23 1 = bit m.down) && s.ruEn (s.flowRu f)

theorem State.cpFlow?_none (s : State) (m : CpMsg) (h : ∀ f < 1024, ¬(s.flowCfg f 0 0 1 = 1 ∧ s.flowCfg f 0 1 16 = m.eaxc ∧
    s.flowCfg f 0 23 1 = bit m.down ∧ s.ruEn (s.flowRu f) = true)) : s.cpFlow? m = none := by
  refine List.find?_eq_none.2 fun f hf hflow => h f (List.mem_range.1 hf) ?_
  simpa only [Bool.and_eq_true, decide_eq_true_eq, and_assoc] using hflow

theorem exec_cplaneMessage_noFlow (m : CpMsg) (x : Nat) {s u : State} (hs : s.stopped = false) (hu : u = s.advance x)
    (hf : u.cpFlow? m = none) : exec (.cplaneMessage m x) s = .next (u.bump pgTrn 0x58 none) := by
  subst hu
  refine (next_live hs _).trans (congrArg Host.Outcome.next ?_)
  rw [State.cpFlow?] at hf
  dsimp only
  rw [hf]

/-- From `s` to `t` only the sections that wait for a layout change in the Turnstile, and the Sundial and the configuration stay. -/
def State.OnlyPend (s t : State) : Prop := t.trn = { s.trn with pend := t.trn.pend } ∧ t.sdl = s.sdl ∧ t.gate = s.gate

namespace State.OnlyPend

theorem refl (s : State) : s.OnlyPend s := ⟨rfl, rfl, rfl⟩

theorem ite {r a b : State} {c : Prop} [Decidable c] (ha : r.OnlyPend a) (hb : r.OnlyPend b) : r.OnlyPend (if c then a else b) := by
  split <;> assumption

theorem bumpBy {r s : State} (h : r.OnlyPend s) (p : Page) (o : Nat) (x : Option Nat) (n : Nat) : r.OnlyPend (s.bumpBy p o x n) := h

theorem postCp {r s : State} (h : r.OnlyPend s) (p : PendSect) (a : Option Alloc) (late : Bool) : r.OnlyPend (s.postCp p a late) := h

theorem addPend {r s : State} (h : r.OnlyPend s) (l : List PendSect) : r.OnlyPend { s with trn := { s.trn with pend := l } } := by
  obtain ⟨htrn, hsdl, hgate⟩ := h
  exact ⟨congrArg (fun y : Trn => { y with pend := l }) htrn, hsdl, hgate⟩

theorem foldl {α : Type} {r : State} (g : State → α → State) (hg : ∀ t x, r.OnlyPend t → r.OnlyPend (g t x)) :
    ∀ (l : List α) (t : State), r.OnlyPend t → r.OnlyPend (l.foldl g t)
  | [], _, h => h
  | x :: l, t, h => foldl g hg l _ (hg t x h)

theorem hold {s t : State} (h : s.OnlyPend t) : t.trn.hold = s.trn.hold :=
  (congrArg Trn.hold h.1).trans rfl

theorem portUp {s t : State} (h : s.OnlyPend t) : t.portUp = s.portUp := by
  funext p
  have hup : t.trn.portUp = s.trn.portUp := (congrArg Trn.portUp h.1).trans rfl
  rw [State.portUp, State.portUp, hup]

theorem cfg {s t : State} (h : s.OnlyPend t) : t.cfg = s.cfg := by
  funext p off lo w
  rw [State.cfg, State.cfg, h.2.2]

theorem ruCfg {s t : State} (h : s.OnlyPend t) : t.ruCfg = s.ruCfg := by
  funext r off lo w
  rw [State.ruCfg, State.ruCfg, h.cfg]

theorem ruPort {s t : State} (h : s.OnlyPend t) : t.ruPort = s.ruPort := by
  funext r
  rw [State.ruPort, State.ruPort, h.ruCfg]

theorem gridNow {s t : State} (h : s.OnlyPend t) : t.gridNow = s.gridNow := by
  rw [State.gridNow, State.gridNow, State.gridTime, State.gridTime, h.2.1, h.cfg]

end State.OnlyPend

/-- What a C-plane frame that is held until its window opens keeps. -/
def State.cpHeld (s : State) (m : CpMsg) (r : Nat) (air opens : Int) : Held :=
  { ru := r, opens := opens, closes := air - tenths (s.ruCfg r 0x14 12 12), words := cpWords m }

/-- What becomes of a C-plane frame once its sections are parsed: late, held, or sent. -/
def State.cpEnd (s : State) (m : CpMsg) (r : Nat) (air opens : Int) (late : Bool) : State :=
  if late then (s.bump pgTrn 0xF0 (s.ruOwner r)).raise pgTrn 12 (s.ruOwner r)
  else if s.gridNow < opens then { s with trn := { s.trn with hold := s.trn.hold ++ [s.cpHeld m r air opens] } }
  else s.cpSend r (cpWords m)

/-- A C-plane message of a flow and a supported type ends late, held or sent, after its sections, which change no more than what waits
for a layout; here one that would be held finds room in the queue. -/
theorem exec_cplaneMessage_parsed (m : CpMsg) (x : Nat) {s u : State} {f r mu : Nat} {k air opens : Int} {late : Bool}
    (hs : s.stopped = false) (hu : u = s.advance x) (hf : u.cpFlow? m = some f) (htype : m.sectType ∈ ([0, 1, 3, 5, 6] : List Nat))
    (hr : r = u.flowRu f) (hmu : mu = u.gridMu (u.flowCfg f 4 0 5))
    (hk : k = resolveSlot mu m.frame m.subframe m.slot (symOfs mu m.subframe m.slot m.startSym) u.gridNow)
    (hair : air = symStart mu k m.startSym) (hopens : opens = air - tenths (u.ruCfg r 0x14 0 12))
    (hlate : late = decide (air - tenths (u.ruCfg r 0x14 12 12) < u.gridNow))
    (hroom : ¬(late = false ∧ u.gridNow < opens ∧ 4096 ≤ u.trn.hold.length)) :
    ∃ v, u.OnlyPend v ∧ exec (.cplaneMessage m x) s = .next (v.cpEnd m r air opens late) := by
  subst hu hr hmu hk hair hopens hlate
  rw [State.cpFlow?] at hf
  rw [show exec (.cplaneMessage m x) s = _ from next_live hs _]
  dsimp only
  rw [hf]
  dsimp only
  rw [if_neg (not_not_intro htype), if_neg hroom]
  refine ⟨_, ?_, rfl⟩
  refine .foldl _ (fun t y ht => ?_) _ _ (.ite (.refl _) (.bumpBy (.refl _) _ _ _ _))
  exact .ite (ht.addPend _) (ht.postCp _ _ _)

/-! ### The hold queue (R219) -/

/-- The hold queue without the frames whose window has opened. -/
def State.heldBack (s : State) : State :=
  { s with trn := { s.trn with hold := s.trn.hold.filter fun (y : Held) => decide (s.gridNow < y.opens) } }

theorem exec_cpHoldRelease_running (x : Nat) {s u : State} (hs : s.stopped = false) (hu : u = s.advance x) :
    exec (.cpHoldRelease x) s = .next
      ((u.trn.hold.filter fun (y : Held) => decide (y.opens ≤ u.gridNow)).foldl State.cpRelease u.heldBack) := by
  subst hu
  exact next_live hs _

/-- A frame within its window leaves as its words, to a radio unit without MACsec whose port is up. -/
theorem State.cpSend_out (s : State) (r : Nat) (words : List Nat) (hup : s.portUp (s.ruPort r) = true) (hmac : s.ruCfg r 0 21 1 = 0) :
    Sent.message (s.ruPort r) 1 words ∈ (s.cpSend r words).hub.out := by
  rw [State.cpSend, if_pos hup]
  exact s.sendTo_out r 1 words hmac

theorem State.cpRelease_out (s : State) (y : Held) (hopen : s.gridNow ≤ y.closes) (hup : s.portUp (s.ruPort y.ru) = true)
    (hmac : s.ruCfg y.ru 0 21 1 = 0) : Sent.message (s.ruPort y.ru) 1 y.words ∈ (s.cpRelease y).hub.out := by
  rw [State.cpRelease, if_neg (not_lt_of_ge hopen)]
  exact s.cpSend_out y.ru y.words hup hmac

/-! ### Delay_Req (08 R201) -/

/-- The stamp of a Delay_Req that leaves now. -/
def State.dreqWord (s : State) (d : Bool) : Nat :=
  s.txWord (s.cfg pgSdl (domOff d) 12 4) (1 + bit d) (domTime (s.sdl.servo d).clk) (s.ptp d).dreq

/-- In two-step operation that stamp goes through the port's FIFO (08 R196); the first component says that it was not lost. -/
def State.dreqStamped (s : State) (d two : Bool) (taken : Nat) : Bool × State :=
  if two then s.txStamp (s.cfg pgSdl (domOff d) 12 4) taken (s.dreqWord d) else (true, s)

/-- What an exchange keeps of a Delay_Req. -/
def PtpEx.requested (y : PtpEx) (t3 : Option Nat) : PtpEx := { y with t3 := t3, t4 := none, dreq := (y.dreq + 1) % 2 ^ 16 }

/-- The Delay_Req leaves, and the unicast negotiation's Signaling with it (08 R200). -/
def State.dreqSent (s : State) (d two : Bool) (a : Bool × State) : State :=
  let port := s.cfg pgSdl (domOff d) 12 4
  let v := (a.2.setPtp d ((s.ptp d).requested (if a.1 then some (s.dreqWord d) else none))).emit
    (Sent.message port 6 ([bit d, (s.ptp d).dreq] ++ s.ptpAddr d ++
      originOf two (stampOf (domTime (s.sdl.servo d).clk) (s.asym port 0))))
  if s.cfg pgSdl (domOff d) 2 2 = 0 then v else v.emit (Sent.message port 7 ([bit d] ++ s.ptpAddr d))

theorem exec_delayReqInterval_running (d two : Bool) (taken x : Nat) {s u : State} (hs : s.stopped = false) (hu : u = s.advance x) :
    exec (.delayReqInterval d two taken x) s = .next
      (if u.cfg pgSdl (domOff d) 0 2 = 1 ∧ u.portUp (u.cfg pgSdl (domOff d) 12 4) = true then
        u.dreqSent d two (u.dreqStamped d two taken) else u) := by
  subst hu
  exact next_live hs _

theorem State.ptp_setPtp_self (s : State) (d : Bool) (y : PtpEx) : (s.setPtp d y).ptp d = y := by cases d <;> rfl

theorem State.dreqSent_ptp (s : State) (d two : Bool) (a : Bool × State) :
    (s.dreqSent d two a).ptp d = (s.ptp d).requested (if a.1 then some (s.dreqWord d) else none) := by
  unfold State.dreqSent
  dsimp only
  split <;> exact State.ptp_setPtp_self _ _ _

theorem State.dreqSent_out (s : State) (d two : Bool) (a : Bool × State) :
    Sent.message (s.cfg pgSdl (domOff d) 12 4) 6 ([bit d, (s.ptp d).dreq] ++ s.ptpAddr d ++
      originOf two (stampOf (domTime (s.sdl.servo d).clk) (s.asym (s.cfg pgSdl (domOff d) 12 4) 0))) ∈
        (s.dreqSent d two a).hub.out := by
  unfold State.dreqSent
  dsimp only
  split
  · exact State.emitted_message _ _ _ _
  · exact State.out_emit _ _ (State.emitted_message _ _ _ _)

/-! ### Links (R215, R239; 08 R197) -/

@[simp] theorem State.portUp_setPort_self (s : State) (p : Nat) (up : Bool) : (s.setPort p up).portUp p = up := by
  unfold State.setPort
  split
  case isTrue h => exact h
  case isFalse =>
    rw [State.portUp, State.raise_trn, fieldOf_withField_one, if_pos rfl]
    cases up <;> rfl

@[simp] theorem State.setPort_retraining (s : State) (p : Nat) (up : Bool) : (s.setPort p up).trn.retraining = s.trn.retraining := by
  unfold State.setPort
  split <;> rfl

theorem State.portUp_setCal (s : State) (p j : Nat) (on : Bool) : (s.setCal p on).portUp j = s.portUp j := by
  rw [State.portUp, State.portUp, State.setCal_trn]

/-- A port gains or loses link; at link-up it calibrates anew. -/
def State.linkChanged (s : State) (p : Nat) (up : Bool) : State :=
  ((if up then s.portLock p else s).setPort p up).setCal p (if up then false else decide (fieldOf s.sdl.cal p 1 = 1))

theorem exec_linkChange_running (port : Fin 16) (up : Bool) {s : State} (hs : s.stopped = false) :
    exec (.linkChange port up) s = .next
      (if up = true ∧ (portExists s.gate.act port.val = false ∨ fieldOf s.trn.retraining port.val 1 = 1) then s
      else s.linkChanged port.val up) :=
  next_live hs _

theorem State.portUp_linkChanged (s : State) (p : Nat) (up : Bool) : (s.linkChanged p up).portUp p = up := by
  rw [State.linkChanged, State.portUp_setCal, State.portUp_setPort_self]

theorem State.linkChanged_cal (s : State) (p : Nat) : fieldOf (s.linkChanged p true).sdl.cal p 1 = 0 := by
  rw [State.linkChanged, State.setCal_cal, if_pos rfl]
  rfl

/-- A port that retrains returns to service, calibrated. -/
def State.retrained (s : State) (p : Nat) : State :=
  (({ s.portLock p with trn := { s.trn with retraining := withField s.trn.retraining p 1 0 } } : State).setPort p true).setCal p true

theorem exec_portRetrainDone_running (port : Fin 16) {s : State} (hs : s.stopped = false) :
    exec (.portRetrainDone port) s = .next
      (if fieldOf s.trn.retraining port.val 1 = 1 ∧ portExists s.gate.act port.val = true then s.retrained port.val else s) :=
  next_live hs _

theorem State.retrained_of (s : State) (p : Nat) : fieldOf (s.retrained p).trn.retraining p 1 = 0 ∧ (s.retrained p).portUp p = true ∧
    fieldOf (s.retrained p).sdl.cal p 1 = 1 := by
  refine ⟨?_, ?_, ?_⟩
  · rw [State.retrained, State.setCal_trn, State.setPort_retraining, fieldOf_withField_one, if_pos rfl]
  · rw [State.retrained, State.portUp_setCal, State.portUp_setPort_self]
  · rw [State.retrained, State.setCal_cal, if_pos rfl]
    rfl

/-! ### Registers with an effect (R234, R240) -/

/-- TRN_UNQUAR by a view that sees the flow's radio unit. -/
theorem exec_trnUnquar_seen {v : View} (w : Word) (x : Nat) {s u : State} {f : Nat} (h : s.takes v = true) (hu : u = s.advance x)
    (hf : f = w.toNat % 1024) (hsees : viewSees u.gate.act v (ruPart u.gate.act (u.flowRu f)) = true) :
    exec (.trnUnquar v w x) s = .next (if (u.flowSt f).quarantined = true then
      u.modFlow f fun y => { y with quarantined := false, freedAt := some u.gridNow, overruns := [] } else u) := by
  subst hu hf
  refine (next_live (State.takes_stopped h) _).trans (congrArg Host.Outcome.next ?_)
  exact (State.commanded_of (State.advance_takes x h) _ _ _).trans (if_pos hsees)

/-- TRN_RU_Q by a view that sees the radio unit. -/
theorem exec_trnRuQ_seen {v : View} (w : Word) {s : State} {r : Nat} (h : s.takes v = true) (hr : r = w.toNat % 64) (hlt : r < 48)
    (hsees : viewSees s.gate.act v (ruPart s.gate.act r) = true) :
    exec (.trnRuQ v w) s = .next { s with trn := { s.trn with ruQ := SMap.put zeroUnlisted s.trn.ruQ v.no r } } := by
  subst hr
  refine (next_live (State.takes_stopped h) _).trans (congrArg Host.Outcome.next ?_)
  refine (State.commanded_of h _ _ _).trans (if_pos ?_)
  rw [decide_eq_true hlt, hsees]
  rfl

/-- Settles O58, command by command. -/
theorem framesAndMessagesComplete : Obligations.FramesAndMessagesComplete := by
  refine ⟨?frames, ?delay, ?cplane, ?hold, ?dreq, ?links, ?unquar, ?query⟩
  case frames =>
    intro port f level x full cons s u hs hu
    refine ⟨fun hrest => ?dropped, fun hrest => ⟨exec_frameReceive_portDown hs hu hrest, fun hup => ⟨fun hbad => ?bad,
      fun hfcs hmin hmax hvids => ?taken⟩⟩⟩
    case dropped =>
      refine ⟨_, exec_frameReceive_dropped hs hu hrest, rfl, rfl, ?_⟩
      rw [State.group, State.restDropped, SMap.get_modify_self]
    case bad => exact ⟨_, exec_frameReceive_bad hs hu hrest hup hbad, rfl, rfl⟩
    case taken =>
      have htaken := exec_frameReceive_taken (full := full) (cons := cons) hs hu ⟨hrest, hup, hfcs, hmin, hmax, hvids⟩
      refine ⟨fun d kind seq ts corr hbody hevent => ⟨_, htaken, ?_⟩, fun pdu hbody => ⟨_, htaken, ?_⟩,
        fun m r fl hbody hsec hhdr hru hmac hflow => ⟨_, htaken, ?_⟩⟩
      · rw [State.frameTaken, hbody]
        exact u.ptpMsg_rxStamp port.val d kind seq ts corr hevent
      · rw [State.frameTaken, hbody]
        exact ⟨rfl, State.recorded _ _ _ _⟩
      · rw [u.frameTaken_uplane full cons hbody hsec hhdr hru hmac]
        exact u.uplane_seq port.val r f.len m full cons fl hflow
  case delay =>
    rintro ru two taken x s u y due hs hu rfl hdue
    have hrun := exec_tdMeasTimer_running ru two taken x hs hu hdue
    refine ⟨fun h => by rw [hrun, if_neg (ne_true_of_eq_false h)], fun h => ⟨_, by rw [hrun, if_pos h], ?_⟩⟩
    obtain ⟨n, hn⟩ := u.delayFollowed_ruSt ru.val two (u.delayRequest ru.val two taken)
    refine ⟨by rw [hn]; rfl, ?_, fun htwo => ?_, fun htwo hmac => ?_⟩
    · rw [hn, ← u.delayRequest_seq5 ru.val two taken]
      rfl
    · subst htwo
      rw [hn]
      rfl
    · subst htwo
      exact u.delayFollowed_out ru.val taken hmac
  case cplane =>
    intro m x s u hs hu
    refine ⟨fun hnone => exec_cplaneMessage_noFlow m x hs hu (u.cpFlow?_none m hnone), ?_⟩
    intro f r mu k air opens hf htype hr hmu hk hair hopens
    have hparsed {late : Bool} := exec_cplaneMessage_parsed m x (late := late) hs hu hf htype hr hmu hk hair hopens
    refine ⟨fun hlate => ?late, fun hintime hearly hroom => ?held, fun hintime hopen hup hmac => ?sent⟩
    case late =>
      obtain ⟨v, hv, hexec⟩ := hparsed (decide_eq_true hlate).symm (fun h => Bool.false_ne_true h.1.symm)
      exact ⟨_, hexec, hv.hold, State.event_raise_self _ _ _ (by decide)⟩
    case held =>
      obtain ⟨v, hv, hexec⟩ := hparsed (decide_eq_false (not_lt_of_ge hintime)).symm fun h => not_le_of_gt hroom h.2.2
      refine ⟨_, hexec, ?_⟩
      rw [State.cpEnd, if_neg Bool.false_ne_true, hv.gridNow, if_pos hearly, State.cpHeld, hv.ruCfg, ← hv.hold]
    case sent =>
      obtain ⟨v, hv, hexec⟩ := hparsed (decide_eq_false (not_lt_of_ge hintime)).symm fun h => not_le_of_gt h.2.1 hopen
      refine ⟨_, hexec, ?_⟩
      rw [State.cpEnd, if_neg Bool.false_ne_true, hv.gridNow, if_neg (not_lt_of_ge hopen)]
      obtain ⟨htrn, -⟩ := (State.OnlyRu.refl v).cpSend r (cpWords m)
      refine ⟨(congrArg Trn.hold htrn).trans hv.hold, ?_⟩
      rw [← hv.ruPort]
      exact v.cpSend_out r _ (by rwa [hv.portUp, hv.ruPort]) (by rwa [hv.ruCfg])
  case hold =>
    intro x s u hs hu
    refine ⟨_, exec_cpHoldRelease_running x hs hu, ?_, fun y hy hopens hcloses hup hmac => ?_⟩
    · exact (State.OnlyRu.foldl _ (fun t y ht => ht.cpRelease y) _ _ (State.OnlyRu.refl u.heldBack)).1
    · have hgo : (u.trn.hold.filter fun (y : Held) => decide (y.opens ≤ u.gridNow)) = [y] := by
        simp only [hy, List.filter_cons, hopens, decide_true, if_true, List.filter_nil]
      rw [hgo]
      exact u.heldBack.cpRelease_out y hcloses hup hmac
  case dreq =>
    rintro d two taken x s u port hs hu rfl
    have hrun := exec_delayReqInterval_running d two taken x hs hu
    refine ⟨fun h => by rw [hrun, if_neg h], fun hsrc hup => ⟨_, by rw [hrun, if_pos ⟨hsrc, hup⟩], ?_⟩⟩
    have hptp := u.dreqSent_ptp d two (u.dreqStamped d two taken)
    refine ⟨by rw [hptp]; rfl, by rw [hptp]; rfl, fun htwo => ?_, u.dreqSent_out d two _⟩
    subst htwo
    rw [hptp]
    rfl
  case links =>
    intro port s hs
    have hlink := exec_linkChange_running port (hs := hs)
    have hdone := exec_portRetrainDone_running port hs
    refine ⟨fun hex hre => ⟨_, ?up, s.portUp_linkChanged port.val true, s.linkChanged_cal port.val⟩, fun h => ?stays,
      ⟨_, ?down, s.portUp_linkChanged port.val false⟩, fun hre hex => ⟨_, ?retrained, s.retrained_of port.val⟩, fun h => ?waits⟩
    case up =>
      rw [hlink, if_neg]
      rintro ⟨-, h | h⟩
      · exact Bool.false_ne_true (h.symm.trans hex)
      · exact Nat.zero_ne_one (hre.symm.trans h)
    case stays => rw [hlink, if_pos ⟨rfl, h⟩]
    case down => rw [hlink, if_neg fun h => Bool.false_ne_true h.1]
    case retrained => rw [hdone, if_pos ⟨hre, hex⟩]
    case waits => rw [hdone, if_neg h]
  case unquar =>
    intro v w x s u f h hu hf hsees
    have hrun := exec_trnUnquar_seen w x h hu hf hsees
    refine ⟨fun hq => ⟨_, by rw [hrun, if_pos hq], u.flowSt_modFlow_self f _⟩, fun hq => ?_⟩
    rw [hrun, if_neg (ne_true_of_eq_false hq)]
  case query =>
    intro v w s r h hr hlt hsees
    exact ⟨_, exec_trnRuQ_seen w h hr hlt hsees, SMap.get_put_self zeroUnlisted _ _ _⟩

end Sys2Proof.Machine
end

section
/-!
PROOF. Layouts, chunk-symbols, tiles and corrections of the Turnstile, and its downlink (09 R225, R227, R230, R231, R238): O59.
-/

namespace Sys2Proof.Machine

open Sys2Proof

/-! ### Layouts (R227) -/

/-- The layout of a grid's slot is the one appended, where there was none and others only went. -/
theorem State.layout?_append {s t : State} {g : Nat} {k : Int} {L : Layout} {p : Layout → Bool}
    (ht : t.trn.layouts = s.trn.layouts.filter p ++ [L]) (hnone : s.layout? g k = none) (hg : L.grid = g) (hk : L.slotK = k) :
    t.layout? g k = some L := by
  have hold : (s.trn.layouts.filter p).find? (fun (y : Layout) => decide (y.grid = g ∧ y.slotK = k)) = none := by
    rw [State.layout?, List.find?_eq_none] at hnone
    exact List.find?_eq_none.2 fun y hy => hnone y (List.mem_filter.1 hy).1
  rw [State.layout?, ht, List.find?_append, hold, Option.none_or, List.find?_singleton, if_pos (decide_eq_true ⟨hg, hk⟩)]

/-- The records of a freeze leave the Turnstile as it was. -/
theorem State.foldl_postCp_trn (l : List (PendSect × Option Alloc)) (s : State) :
    (l.foldl (fun u e => u.postCp e.1 e.2 false) s).trn = s.trn := by
  induction l generalizing s with
  | nil => rfl
  | cons e l ih => exact ih _

/-- The allocations of a slot whose layout is frozen now. -/
def State.frozenAllocs (s : State) (g : Nat) (k : Int) : List Alloc :=
  (s.placeGrid g (orderPend (s.trn.pend.filter fun y => decide (y.grid = g ∧ y.slotK = k)))
    (List.range (s.gridCfg g 0 18 3 + 1)) 0).filterMap (·.2)

/-- The layout of a slot that is frozen now, with the grid's configuration. -/
def State.frozenLayout (s : State) (g : Nat) (k : Int) : Layout :=
  { grid := g, slotK := k, mu := s.gridMu g, nPrb := s.gridPrbs g, down := decide (s.gridCfg g 0 1 1 = 1)
    flows := (List.range (s.gridCfg g 0 13 5 + 1)).map fun st => s.streamFlow g st
    chunks := s.gridCfg g 0 18 3 + 1, lrows := s.gridCfg g 4 0 8
    pyrRows := if s.gridCfg g 0 24 1 = 1 then s.gridCfg g 4 8 8 else 0
    pyrMask := if s.gridCfg g 0 24 1 = 1 then s.gridCfg g 4 16 14 else 0
    allocs := s.frozenAllocs g k }

/-- Whether a layout stays when that of slot `k` of grid `g` is frozen. -/
def Layout.staysAt (y : Layout) (g mu : Nat) (k : Int) : Bool :=
  !(decide (y.grid = g) && decide (y.slotK + keepSlots mu < k))

/-- Whether a section no longer waits once the layout of slot `k` of its grid is frozen: it is of that slot, or of one that no name
resolves to any more. -/
def PendSect.frozenBy (y : PendSect) (g mu : Nat) (k : Int) : Bool :=
  decide (y.grid = g) && (decide (y.slotK = k) || decide (y.slotK + keepSlots mu < k))

theorem PendSect.not_frozenBy_self {y : PendSect} {g mu : Nat} {k : Int} (h : y.frozenBy g mu k = false) :
    ¬(y.grid = g ∧ y.slotK = k) := by
  rintro ⟨hg, hk⟩
  simp [PendSect.frozenBy, hg, hk] at h

theorem exec_layoutFreeze_else (grid : Fin 32) (x : Nat) {s u : State} {k : Int} (hs : s.stopped = false) (hu : u = s.advance x)
    (hk : k = (u.gridNow + (u.cfg pgTrn 0x100 0 10 : Int) * 1000 * nsGrid) / slotLen (u.gridMu grid.val))
    (h : u.gridEn = false ∨ u.gridCfg grid.val 0 0 1 = 0 ∨ (u.layout? grid.val k).isSome = true) :
    exec (.layoutFreeze grid x) s = .next u := by
  subst hu hk
  exact (next_live hs _).trans (congrArg Host.Outcome.next (if_pos h))

/-- LAYOUT_FREEZE of an enabled grid whose slot has no layout appends one of the grid's configuration, drops layouts of slots gone by,
and takes the sections of the slot from those that wait. -/
theorem exec_layoutFreeze_frozen (grid : Fin 32) (x : Nat) {s u : State} {k : Int} (hs : s.stopped = false) (hu : u = s.advance x)
    (hk : k = (u.gridNow + (u.cfg pgTrn 0x100 0 10 : Int) * 1000 * nsGrid) / slotLen (u.gridMu grid.val))
    (hgrid : u.gridEn = true) (hen : u.gridCfg grid.val 0 0 1 = 1) (hnone : u.layout? grid.val k = none) :
    ∃ t, exec (.layoutFreeze grid x) s = .next t ∧
      t.trn.layouts = u.trn.layouts.filter (·.staysAt grid.val (u.gridMu grid.val) k) ++ [u.frozenLayout grid.val k] ∧
      t.trn.pend = u.trn.pend.filter fun y => !y.frozenBy grid.val (u.gridMu grid.val) k := by
  have hgo : ¬(u.gridEn = false ∨ u.gridCfg grid.val 0 0 1 = 0 ∨ (u.layout? grid.val k).isSome = true) := by
    rw [hgrid, hen, hnone]
    decide
  have htail (c : Prop) [Decidable c] (v : State) (n : Nat) (o : Option Nat) :
      (if c then v else (v.bumpBy pgTrn 0xB0 o n).raise pgTrn 10 o).trn = v.trn := by
    split <;> rfl
  subst hu hk
  rw [show exec (.layoutFreeze grid x) s = _ from next_live hs _]
  dsimp only
  rw [if_neg hgo]
  refine ⟨_, rfl, ?_, ?_⟩
  · rw [htail, State.foldl_postCp_trn]
    exact (apply_ite (fun v : State => v.trn.layouts) _ _ _).trans (ite_self _)
  · rw [htail, State.foldl_postCp_trn]
    exact (apply_ite (fun v : State => v.trn.pend) _ _ _).trans (ite_self _)

/-! ### Chunk-symbols (R230) -/

/-- Whether a chunk-symbol is that of a grid, a chunk, a slot and a symbol. -/
def ChunkSym.Named (y : ChunkSym) (g c : Nat) (k : Int) (l : Nat) : Prop := y.grid = g ∧ y.chunk = c ∧ y.slotK = k ∧ y.sym = l

theorem State.chunkSym_named (s : State) (g c : Nat) (k : Int) (l : Nat) : (s.chunkSym g c k l).Named g c k l := by
  unfold State.chunkSym
  cases h : s.trn.syms.find? fun (x : ChunkSym) => x.same { grid := g, chunk := c, slotK := k, sym := l } with
  | none => exact ⟨rfl, rfl, rfl, rfl⟩
  | some y =>
    have hsame : y.same { grid := g, chunk := c, slotK := k, sym := l } = true :=
      List.find?_some (p := fun (z : ChunkSym) => z.same { grid := g, chunk := c, slotK := k, sym := l }) h
    exact of_decide_eq_true (p := y.grid = g ∧ y.chunk = c ∧ y.slotK = k ∧ y.sym = l) hsame

theorem State.chunkSym_putSym_named (s : State) {y : ChunkSym} {g c l : Nat} {k : Int} (hy : y.Named g c k l) :
    (s.putSym y).chunkSym g c k l = y := by
  obtain ⟨rfl, rfl, rfl, rfl⟩ := hy
  exact s.chunkSym_putSym y

section
variable {grid : Fin 32} {chunk : Fin 8} {slot : Int} {sym : Fin 14} {x : Nat} {s u : State}

theorem exec_chunkSymbolOpen_noLayout (hs : s.stopped = false) (hu : u = s.advance x) (hL : u.layout? grid.val slot = none) :
    exec (.chunkSymbolOpen grid chunk slot sym x) s = .next u := by
  subst hu
  rw [show exec (.chunkSymbolOpen grid chunk slot sym x) s = _ from next_live hs _]
  dsimp only
  rw [hL]

theorem exec_chunkSymbolClose_noLayout (hs : s.stopped = false) (hu : u = s.advance x) (hL : u.layout? grid.val slot = none) :
    exec (.chunkSymbolClose grid chunk slot sym x) s = .next u := by
  subst hu
  rw [show exec (.chunkSymbolClose grid chunk slot sym x) s = _ from next_live hs _]
  dsimp only
  rw [hL]

variable {y : ChunkSym} {L : Layout}

/-- CHUNK_SYMBOL_OPEN opens at the earliest window, and closes where nothing is outstanding (log 133). -/
theorem exec_chunkSymbolOpen_due (hs : s.stopped = false) (hu : u = s.advance x) (hy : y = u.chunkSym grid.val chunk.val slot sym.val)
    (hL : u.layout? grid.val slot = some L) (hdown : L.down = false) (hchunk : chunk.val < L.chunks) (hnew : y.openedAt = none)
    (hwin : u.layoutRus L = [] ∧ symEnd L.mu slot sym.val ≤ u.gridNow ∨
      ∃ r ∈ u.layoutRus L, symEnd L.mu slot sym.val + u.winOpen r ≤ u.gridNow) :
    exec (.chunkSymbolOpen grid chunk slot sym x) s = .next (u.closeIfDone L { y with openedAt := some u.gridNow }) := by
  subst hu hy
  have hws : (List.map (s.advance x).winOpen ((s.advance x).layoutRus L) = [] ∧ symEnd L.mu slot sym.val ≤ (s.advance x).gridNow) ∨
      (List.map (s.advance x).winOpen ((s.advance x).layoutRus L)).any
        (fun w => decide (symEnd L.mu slot sym.val + w ≤ (s.advance x).gridNow)) = true := by
    simpa only [List.map_eq_nil_iff, List.any_map, List.any_eq_true, Function.comp_apply, decide_eq_true_eq] using hwin
  rw [show exec (.chunkSymbolOpen grid chunk slot sym x) s = _ from next_live hs _]
  dsimp only
  rw [hL]
  exact congrArg Host.Outcome.next (if_pos ⟨hdown, hchunk, hnew, hws⟩)

/-- CHUNK_SYMBOL_CLOSE closes once every window has ended. -/
theorem exec_chunkSymbolClose_due (hs : s.stopped = false) (hu : u = s.advance x) (hy : y = u.chunkSym grid.val chunk.val slot sym.val)
    (hL : u.layout? grid.val slot = some L) (hdown : L.down = false) (hchunk : chunk.val < L.chunks) (hopen : y.closedAt = none)
    (hwin : ∀ r ∈ u.layoutRus L, symEnd L.mu slot sym.val + u.winClose r ≤ u.gridNow) :
    exec (.chunkSymbolClose grid chunk slot sym x) s = .next (u.closeSym L y) := by
  subst hu hy
  rw [show exec (.chunkSymbolClose grid chunk slot sym x) s = _ from next_live hs _]
  dsimp only
  rw [hL]
  exact congrArg Host.Outcome.next
    (if_pos ⟨hdown, hchunk, hopen, List.all_eq_true.2 fun r hr => decide_eq_true (hwin r hr)⟩)

end

/-- A chunk-symbol that has just opened is open since then, whether it closes at once or not. -/
theorem State.closeIfDone_openedAt (s : State) (L : Layout) {y : ChunkSym} {g c l : Nat} {k n : Int} (hy : y.Named g c k l)
    (hopen : y.openedAt = some n) : ((s.closeIfDone L y).chunkSym g c k l).openedAt = some n := by
  obtain ⟨rfl, rfl, rfl, rfl⟩ := hy
  exact s.closeIfDone_open L y n hopen

theorem State.closeSym_closedAt (s : State) (L : Layout) {y : ChunkSym} {g c l : Nat} {k : Int} (hy : y.Named g c k l) :
    ((s.closeSym L y).chunkSym g c k l).closedAt = some s.gridNow ∧ ((s.closeSym L y).chunkSym g c k l).bytes = 0 := by
  obtain ⟨rfl, rfl, rfl, rfl⟩ := hy
  rw [s.closeSym_of L y]
  exact ⟨rfl, rfl⟩

/-! ### Tiles (R230, R231) -/

/-- Unit `i` of a chunk-symbol's tile leaves on a stream, and the chunk-symbol is as given after it. -/
def State.offer (s : State) (stream : Nat) (slot : Int) (sym i unit : Nat) (y : ChunkSym) : State :=
  (s.emit (Sent.stream stream [slot.toNat, sym, i, unit])).putSym y

theorem State.offer_of (s : State) (stream : Nat) (slot : Int) (sym i unit : Nat) {y : ChunkSym} {g c l : Nat} {k : Int}
    (hy : y.Named g c k l) : Sent.stream stream [slot.toNat, sym, i, unit] ∈ (s.offer stream slot sym i unit y).hub.out ∧
      (s.offer stream slot sym i unit y).chunkSym g c k l = y :=
  ⟨((State.Heard.refl _).putSym y).1 _ (s.emitted_stream _ _), State.chunkSym_putSym_named _ hy⟩

section
variable {grid : Fin 32} {chunk : Fin 8} {slot : Int} {sym : Fin 14} {s : State} {y : ChunkSym} {L : Layout}

/-- An uplink chunk-symbol that is open has units to offer. -/
theorem not_unopened {c : Nat} (hdown : L.down = false) (hchunk : c < L.chunks) (hopen : y.openedAt ≠ none) :
    ¬(L.down = true ∨ L.chunks ≤ c ∨ y.openedAt = none) := by
  rw [hdown]
  rintro (h | h | h)
  · exact Bool.false_ne_true h
  · exact not_le_of_gt hchunk h
  · exact hopen h

/-- TILE_UNIT_OFFER of a tile that is open and not stale: its next Lane row, or its trailer, or nothing. -/
theorem exec_tileUnitOffer_tile (hs : s.stopped = false) (hy : y = s.chunkSym grid.val chunk.val slot sym.val)
    (hL : s.layout? grid.val slot = some L) (hdown : L.down = false) (hchunk : chunk.val < L.chunks) (hopen : y.openedAt ≠ none)
    (hstale : y.stale = false) : exec (.tileUnitOffer grid chunk slot sym false) s = .next
      (if y.next < L.lrows ∧ y.rowDone L y.next = true then
        s.offer (0x100 + 8 * grid.val + chunk.val) slot sym.val y.next (y.laneUnit L y.next) { y with next := y.next + 1 }
      else if y.next = L.lrows ∧ y.closedAt.isSome = true then
        s.offer (0x100 + 8 * grid.val + chunk.val) slot sym.val y.next (y.trailer L) { y with next := y.next + 1 }
      else s) := by
  subst hy
  rw [show exec (.tileUnitOffer grid chunk slot sym false) s = _ from next_live hs _]
  dsimp only
  rw [hL]
  dsimp only
  rw [if_neg (not_unopened hdown hchunk hopen), if_neg Bool.false_ne_true, if_neg (ne_true_of_eq_false hstale)]
  rfl

/-- TILE_UNIT_OFFER of the pyramid tile's next unit, where it is complete. -/
theorem exec_tileUnitOffer_pyramid (hs : s.stopped = false) (hy : y = s.chunkSym grid.val chunk.val slot sym.val)
    (hL : s.layout? grid.val slot = some L) (hdown : L.down = false) (hchunk : chunk.val < L.chunks) (hopen : y.openedAt ≠ none)
    (hnext : L.hasPyr sym.val = true ∧ y.stalePyr = false ∧ y.nextPyr < L.pyrRows ∧ y.pyrDone L y.nextPyr = true) :
    exec (.tileUnitOffer grid chunk slot sym true) s = .next
      (s.offer (0x200 + 8 * grid.val + chunk.val) slot sym.val y.nextPyr (y.pyrUnit L y.nextPyr)
        { y with nextPyr := y.nextPyr + 1 }) := by
  subst hy
  rw [show exec (.tileUnitOffer grid chunk slot sym true) s = _ from next_live hs _]
  dsimp only
  rw [hL]
  dsimp only
  rw [if_neg (not_unopened hdown hchunk hopen), if_pos rfl, if_pos hnext]
  rfl

end

/-- Whether a chunk-symbol's tile, or its pyramid tile, has not been taken in full. -/
def ChunkSym.untaken (y : ChunkSym) (L : Layout) (sym : Nat) (pyr : Bool) : Bool :=
  if pyr then L.hasPyr sym && !y.stalePyr && decide (y.nextPyr < L.pyrRows) else !y.stale && decide (y.next ≤ L.lrows)

/-- A chunk-symbol whose tile, or whose pyramid tile, is stale. -/
def ChunkSym.madeStale (y : ChunkSym) (pyr : Bool) : ChunkSym := if pyr then { y with stalePyr := true } else { y with stale := true }

/-- A stale tile of a grid is counted, and STALE is raised. -/
def State.discardTile (s : State) (g : Nat) (y : ChunkSym) : State :=
  ((s.putSym y).bump pgTrn 0xC0 (s.gridPart g)).raise pgTrn 18 (s.gridPart g)

theorem State.discardTile_of (s : State) {y : ChunkSym} {g c l : Nat} {k : Int} (hy : y.Named g c k l) :
    (s.discardTile g y).chunkSym g c k l = y ∧ (s.discardTile g y).event .pf pgTrn 18 = true :=
  ⟨s.chunkSym_putSym_named hy, State.event_raise_self _ _ _ (by decide)⟩

section
variable {grid : Fin 32} {chunk : Fin 8} {slot : Int} {sym : Fin 14} {pyr : Bool} {x : Nat} {s u : State} {y : ChunkSym}

theorem exec_tileStale_notClosed (hs : s.stopped = false) (hu : u = s.advance x) (hy : y = u.chunkSym grid.val chunk.val slot sym.val)
    (h : u.layout? grid.val slot = none ∨ y.closedAt = none) : exec (.tileStale grid chunk slot sym pyr x) s = .next u := by
  subst hu hy
  rw [show exec (.tileStale grid chunk slot sym pyr x) s = _ from next_live hs _]
  dsimp only
  split
  case h_1 => rfl
  case h_2 L hL =>
    have hopen := h.resolve_left fun hnone => Option.some_ne_none L (hL.symm.trans hnone)
    rw [hopen, if_neg fun hdue => Bool.false_ne_true hdue.1]

/-- TILE_STALE discards what is untaken of a closed chunk-symbol one slot after its close. -/
theorem exec_tileStale_closed {L : Layout} {c : Int} (hs : s.stopped = false) (hu : u = s.advance x)
    (hy : y = u.chunkSym grid.val chunk.val slot sym.val) (hL : u.layout? grid.val slot = some L) (hc : y.closedAt = some c) :
    exec (.tileStale grid chunk slot sym pyr x) s = .next
      (if c + slotLen L.mu ≤ u.gridNow ∧ y.untaken L sym.val pyr = true then u.discardTile grid.val (y.madeStale pyr) else u) := by
  subst hu hy
  rw [show exec (.tileStale grid chunk slot sym pyr x) s = _ from next_live hs _]
  dsimp only
  rw [hL]
  dsimp only
  split
  case h_1 d hd =>
    obtain rfl := Option.some.inj (hc.symm.trans hd)
    exact congrArg Host.Outcome.next (if_congr (and_congr_left' decide_eq_true_iff) rfl rfl)
  case h_2 hnone => exact absurd (hc.symm.trans hnone) (Option.some_ne_none c)

end

/-! ### Corrections (R225) -/

/-- Feedback for a radio unit of another partition, or for none that there is (log 136), faults the context. -/
theorem exec_feedbackRecord_foreign (c : Ctx) (word x : Nat) {s u : State} {r : Nat} (hs : s.stopped = false) (hu : u = s.advance x)
    (hr : r = fieldOf word 0 6) (h : 48 ≤ r ∨ ruPart u.gate.act r ≠ u.partOf c.val) :
    exec (.feedbackRecord c word x) s = .next (u.faultCtx c.val 0x10) := by
  subst hu hr
  exact (next_live hs _).trans (congrArg Host.Outcome.next (if_pos h))

theorem exec_feedbackRecord_own (c : Ctx) (word x : Nat) {s u : State} {r : Nat} (hs : s.stopped = false) (hu : u = s.advance x)
    (hr : r = fieldOf word 0 6) (hlt : r < 48) (hown : ruPart u.gate.act r = u.partOf c.val) :
    exec (.feedbackRecord c word x) s = .next { u with trn := { u.trn with
      feedback := u.trn.feedback ++ [{ word := word, due := u.gridNow / slotLen 0 + 1 }] } } := by
  subst hu hr
  refine (next_live hs _).trans (congrArg Host.Outcome.next (if_neg ?_))
  rintro (h | h)
  · exact not_le_of_gt hlt h
  · exact h hown

/-- The correction in force at a radio unit when a feedback record for it takes effect. -/
def State.feedOld (s : State) (y : Feedback) : Nco := (s.ruSt (fieldOf y.word 0 6)).nco.head?.getD {}

/-- What a feedback record asks for: a value, or a change of the old one by its gain. -/
def State.feedRaw (s : State) (y : Feedback) : Int :=
  if fieldOf y.word 7 1 = 1 then signedOf 32 (fieldOf y.word 32 32)
  else rneDiv ((if fieldOf y.word 6 1 = 0 then (s.feedOld y).f else (s.feedOld y).ta) * 2 ^ s.ruCfg (fieldOf y.word 0 6) 0x18 16 4 +
    signedOf 32 (fieldOf y.word 32 32)) (2 ^ s.ruCfg (fieldOf y.word 0 6) 0x18 16 4)

/-- The greatest magnitude of what it may ask for. -/
def State.feedLim (s : State) (y : Feedback) : Int :=
  if fieldOf y.word 6 1 = 0 then (s.ruCfg (fieldOf y.word 0 6) 0x18 20 12 : Int) * 1000 else 2048 * 16

/-- What it gets. -/
def State.feedNew (s : State) (y : Feedback) : Int := satTo (-s.feedLim y) (s.feedLim y) (s.feedRaw y)

/-- The correction from then on, with the phase going on from the old one. -/
def State.feedNco (s : State) (y : Feedback) : Nco :=
  { f := if fieldOf y.word 6 1 = 0 then s.feedNew y else (s.feedOld y).f
    ta := if fieldOf y.word 6 1 = 0 then (s.feedOld y).ta else s.feedNew y
    phase := (s.feedOld y).phaseAt (y.due * slotLen 0) % cyc
    since := y.due * slotLen 0 }

/-- A clamped correction is raised, and one to be reported is posted. -/
def State.feedReport (s : State) (clamped report : Prop) [Decidable clamped] [Decidable report] (o : Option Nat) (words : List Nat) :
    State :=
  let v := if clamped then s.raise pgTrn 15 o else s
  if report then v.record pgTrn 35 words else v

section
variable (s : State) (clamped report : Prop) [Decidable clamped] [Decidable report] (o : Option Nat) (words : List Nat)

theorem State.feedReport_trn : (s.feedReport clamped report o words).trn = s.trn := by
  unfold State.feedReport
  split <;> split <;> rfl

theorem State.feedReport_event (h : clamped) : (s.feedReport clamped report o words).event .pf pgTrn 15 = true := by
  unfold State.feedReport
  rw [if_pos h]
  exact (State.Heard.ite ((State.Heard.refl _).record _ _ _) (State.Heard.refl _)).2 _ _ _ (s.event_raise_self _ _ (by decide))

end

theorem State.feed_eq (s : State) (y : Feedback) : s.feed y =
    (s.modRu (fieldOf y.word 0 6) fun w =>
      { w with nco := (s.feedNco y :: w.nco.filter fun (q : Nco) => decide (q.since ≠ y.due * slotLen 0)).take 3 }).feedReport
      (s.feedRaw y ≠ s.feedNew y)
      (fieldOf y.word 6 1 = 0 ∧ s.feedNew y ≠ (if fieldOf y.word 6 1 = 0 then (s.feedOld y).f else (s.feedOld y).ta) ∧
        s.ruCfg (fieldOf y.word 0 6) 0 22 1 = 1)
      (s.ruOwner (fieldOf y.word 0 6)) [fieldOf y.word 0 6, unsignedOf 32 (s.feedNew y)] := by
  unfold State.feed
  simp only [decide_eq_true_eq]
  rfl

theorem State.feed_feedback (s : State) (y : Feedback) : (s.feed y).trn.feedback = s.trn.feedback := by
  rw [s.feed_eq y, State.feedReport_trn]
  rfl

theorem State.feed_nco (s : State) (y : Feedback) : ((s.feed y).ruSt (fieldOf y.word 0 6)).nco.head? = some (s.feedNco y) := by
  rw [s.feed_eq y, State.ruSt_of_trn (State.feedReport_trn _ _ _ _ _), State.ruSt_modRu_self]
  rfl

theorem State.feed_clamped (s : State) (y : Feedback) (h : s.feedRaw y ≠ s.feedNew y) : (s.feed y).event .pf pgTrn 15 = true := by
  rw [s.feed_eq y]
  exact State.feedReport_event _ _ _ _ _ h

theorem State.foldl_feed_feedback (l : List Feedback) (s : State) : (l.foldl State.feed s).trn.feedback = s.trn.feedback := by
  induction l generalizing s with
  | nil => rfl
  | cons y l ih => exact (ih _).trans (s.feed_feedback y)

/-- The feedback records without those whose subframe has begun. -/
def State.fedBack (s : State) (n : Int) : State :=
  { s with trn := { s.trn with feedback := s.trn.feedback.filter fun (y : Feedback) => decide (n < y.due) } }

theorem exec_ncoUpdate_running (x : Nat) {s u : State} {n : Int} (hs : s.stopped = false) (hu : u = s.advance x)
    (hn : n = u.gridNow / slotLen 0) : exec (.ncoUpdate x) s = .next
      ((u.trn.feedback.filter fun (y : Feedback) => decide (y.due ≤ n)).foldl State.feed (u.fedBack n)) := by
  subst hu hn
  exact next_live hs _

/-! ### Downlink tiles (R238) -/

/-- Whether a downlink tile is that of a grid, a slot and a symbol. -/
def DlTile.Named (y : DlTile) (g : Nat) (k : Int) (l : Nat) : Prop := y.grid = g ∧ y.slotK = k ∧ y.sym = l

theorem State.named_of_dlTile? {s : State} {y : DlTile} {g l : Nat} {k : Int} (h : s.dlTile? g k l = some y) : y.Named g k l :=
  of_decide_eq_true (p := y.grid = g ∧ y.slotK = k ∧ y.sym = l)
    (List.find?_some (p := fun (z : DlTile) => decide (z.grid = g ∧ z.slotK = k ∧ z.sym = l)) h)

theorem State.dlTile_named (s : State) (g : Nat) (k : Int) (l : Nat) : (s.dlTile g k l).Named g k l := by
  unfold State.dlTile
  cases h : s.dlTile? g k l with
  | none => exact ⟨rfl, rfl, rfl⟩
  | some y => exact State.named_of_dlTile? h

theorem State.dlTile?_dlBegin (s : State) (g : Nat) (k : Int) (l : Nat) : (s.dlBegin g k l).dlTile? g k l = some (s.dlTile g k l) := by
  unfold State.dlBegin State.dlTile
  cases h : s.dlTile? g k l with
  | some y => exact h
  | none =>
    rw [State.dlTile?] at h
    rw [State.dlTile?, List.find?_append, h, Option.none_or, List.find?_singleton, if_pos (decide_eq_true ⟨rfl, rfl, rfl⟩)]
    rfl

@[simp] theorem State.dlTile_dlBegin (s : State) (g : Nat) (k : Int) (l : Nat) : (s.dlBegin g k l).dlTile g k l = s.dlTile g k l := by
  rw [State.dlTile, s.dlTile?_dlBegin g k l, Option.getD_some]

/-- The tile put in place of one that is there is the symbol's. -/
theorem State.dlTile_putDl {s : State} {y z : DlTile} {g l : Nat} {k : Int} (hs : s.dlTile? g k l = some z) (hy : y.Named g k l) :
    (s.putDl y).dlTile g k l = y := by
  obtain ⟨rfl, rfl, rfl⟩ := hy
  have hz : z.Named y.grid y.slotK y.sym := State.named_of_dlTile? hs
  have hkeep : ((fun (q : DlTile) => decide (q.grid = y.grid ∧ q.slotK = y.slotK ∧ q.sym = y.sym)) ∘
      fun (q : DlTile) => if q.grid = y.grid ∧ q.slotK = y.slotK ∧ q.sym = y.sym then y else q) =
      fun (q : DlTile) => decide (q.grid = y.grid ∧ q.slotK = y.slotK ∧ q.sym = y.sym) := by
    funext q
    rw [Function.comp_apply]
    split
    case isTrue h => rw [decide_eq_true h, decide_eq_true ⟨rfl, rfl, rfl⟩]
    case isFalse => rfl
  rw [State.dlTile?] at hs
  rw [State.dlTile, State.dlTile?, State.putDl, List.find?_map, hkeep, hs, Option.map_some, Option.getD_some]
  exact if_pos hz

/-- A symbol's tile, begun where it was not there yet, is the one put in its place. -/
theorem State.dlTile_begun_putDl (s : State) {y : DlTile} {g l : Nat} {k : Int} (hy : y.Named g k l) :
    ((s.dlBegin g k l).putDl y).dlTile g k l = y := State.dlTile_putDl (s.dlTile?_dlBegin g k l) hy

/-! ### DL_TILE_RECEIVE -/

theorem exec_dlTileReceive_running (grid : Fin 32) (rows : List Nat) (x : Nat) {s u : State} (hs : s.stopped = false)
    (hu : u = s.advance x) : exec (.dlTileReceive grid rows x) s = .next
      (if u.gridCfg grid.val 0 0 1 = 1 ∧ u.gridCfg grid.val 0 1 1 = 1 then u.dlTake grid.val rows else u) := by
  subst hu
  exact next_live hs _

/-- A downlink tile with one more Lane row. -/
def DlTile.addRow (y : DlTile) (row : Nat) : DlTile := { y with rows := y.rows ++ [row] }

/-- A Lane row that does not complete its tile is added to it, and nothing is sent. -/
theorem State.dlTake_row (s : State) {g n k l : Nat} {L : Layout} (row : Nat) (hn : n = SMap.get zeroUnlisted s.trn.dlNext g)
    (h0 : n ≠ 0) (hk : k = (n - 1) / 14) (hl : l = (n - 1) % 14) (hL : s.layout? g k = some L)
    (hlen : (s.dlTile g k l).rows.length + 1 < L.dlRows) :
    s.dlTake g [row] = (s.dlBegin g k l).putDl ((s.dlTile g k l).addRow row) := by
  subst hk hl
  have hrows : L.dlRows ≠ 0 := by omega
  have hpart : ¬((s.dlTile g ((n - 1) / 14 : Nat) ((n - 1) % 14)).rows ++ [row]).length = L.dlRows := by
    rw [List.length_append, List.length_singleton]
    omega
  unfold State.dlTake
  dsimp only
  rw [← hn, hL]
  dsimp only
  rw [if_neg (not_or_intro h0 hrows), State.dlTile_dlBegin, if_neg hpart]
  rfl

/-! ### The transmission window -/

/-- A downlink tile whose window for a radio unit is open. -/
def DlTile.opened (y : DlTile) (r : Nat) : DlTile := if r ∈ y.openTo then y else { y with openTo := y.openTo ++ [r] }

theorem DlTile.mem_opened (y : DlTile) (r : Nat) : r ∈ (y.opened r).openTo := by
  unfold DlTile.opened
  split
  case isTrue h => exact h
  case isFalse => exact List.mem_append_right _ (List.mem_singleton_self r)

theorem DlTile.opened_rows (y : DlTile) (r : Nat) : (y.opened r).rows = y.rows := by
  unfold DlTile.opened
  split <;> rfl

theorem DlTile.Named.opened {y : DlTile} {g l : Nat} {k : Int} (h : y.Named g k l) (r : Nat) : (y.opened r).Named g k l := by
  unfold DlTile.opened
  split <;> exact h

/-- A downlink tile that came too late for a radio unit. -/
def DlTile.late (y : DlTile) (r : Nat) : DlTile := { y with lateTo := y.lateTo ++ [r] }

theorem State.dlTile_txLate (s : State) (r g : Nat) (k : Int) (l : Nat) : (s.txLate r).dlTile g k l = s.dlTile g k l := rfl

section
variable {ru : Fin 48} {grid : Fin 32} {slot : Int} {sym : Fin 14} {level x : Nat} {s u w : State} {L : Layout}

theorem exec_txWindowOpen_noLayout (hs : s.stopped = false) (hu : u = s.advance x) (hw : w = u.setLevel (16 + u.ruPort ru.val) level)
    (hL : w.layout? grid.val slot = none) : exec (.txWindowOpen ru grid slot sym level x) s = .next w := by
  subst hu hw
  rw [show exec (.txWindowOpen ru grid slot sym level x) s = _ from next_live hs _]
  dsimp only
  rw [hL]

/-- TX_WINDOW_OPEN within the window of a tile whose rows are not all there opens it, and sends nothing. -/
theorem exec_txWindowOpen_partial (hs : s.stopped = false) (hu : u = s.advance x) (hw : w = u.setLevel (16 + u.ruPort ru.val) level)
    (hL : w.layout? grid.val slot = some L) (hdown : L.down = true) (hru : ru.val ∈ w.layoutRus L)
    (hopen : symStart L.mu slot sym.val - tenths (w.ruCfg ru.val 0x10 0 12) ≤ w.gridNow)
    (hclose : w.gridNow < symStart L.mu slot sym.val - tenths (w.ruCfg ru.val 0x10 12 12))
    (hrows : (w.dlTile grid.val slot sym.val).rows.length < L.dlRows) :
    exec (.txWindowOpen ru grid slot sym level x) s = .next
      ((w.dlBegin grid.val slot sym.val).putDl ((w.dlTile grid.val slot sym.val).opened ru.val)) := by
  have hsend (v : State) : v.dlSend L ((w.dlTile grid.val slot sym.val).opened ru.val) ru.val = v :=
    if_pos (.inl ((congrArg List.length (DlTile.opened_rows _ _)).trans_lt hrows))
  rw [← State.dlTile_dlBegin] at hsend ⊢
  subst hu hw
  rw [show exec (.txWindowOpen ru grid slot sym level x) s = _ from next_live hs _]
  dsimp only
  rw [hL]
  exact congrArg Host.Outcome.next ((if_pos ⟨hdown, hru, hopen, hclose⟩).trans (hsend _))

theorem exec_txLate_noLayout (hs : s.stopped = false) (hu : u = s.advance x) (hL : u.layout? grid.val slot = none) :
    exec (.txLate ru grid slot sym x) s = .next u := by
  subst hu
  rw [show exec (.txLate ru grid slot sym x) s = _ from next_live hs _]
  dsimp only
  rw [hL]

/-- TX_LATE after the window of a tile that has neither been sent nor is late marks it late. -/
theorem exec_txLate_late (hs : s.stopped = false) (hu : u = s.advance x) (hL : u.layout? grid.val slot = some L) (hdown : L.down = true)
    (hru : ru.val ∈ u.layoutRus L) (hclosed : symStart L.mu slot sym.val - tenths (u.ruCfg ru.val 0x10 12 12) ≤ u.gridNow)
    (hsent : ru.val ∉ (u.dlTile grid.val slot sym.val).sentTo) (hlate : ru.val ∉ (u.dlTile grid.val slot sym.val).lateTo) :
    exec (.txLate ru grid slot sym x) s = .next
      (((u.dlBegin grid.val slot sym.val).putDl ((u.dlTile grid.val slot sym.val).late ru.val)).txLate ru.val) := by
  rw [← State.dlTile_dlBegin] at hsent hlate ⊢
  subst hu
  rw [show exec (.txLate ru grid slot sym x) s = _ from next_live hs _]
  dsimp only
  rw [hL]
  exact congrArg Host.Outcome.next (if_pos ⟨hdown, hru, hclosed, hsent, hlate⟩)

end

/-- Settles O59, command by command. -/
theorem tilesAndCorrectionsComplete : Obligations.TilesAndCorrectionsComplete := by
  refine ⟨?freeze, ?window, ?offer, ?stale, ?feedback, ?nco, ?receive, ?transmit⟩
  case freeze =>
    intro grid x s u k hs hu hk
    refine ⟨exec_layoutFreeze_else grid x hs hu hk, fun hgrid hen hnone => ?_⟩
    obtain ⟨t, hexec, hlayouts, hpend⟩ := exec_layoutFreeze_frozen grid x hs hu hk hgrid hen hnone
    refine ⟨t, u.frozenLayout grid.val k, hexec, State.layout?_append hlayouts hnone rfl rfl, rfl, rfl, rfl, rfl, decide_eq_true_iff,
      fun p hp => ?_⟩
    rw [hpend] at hp
    exact PendSect.not_frozenBy_self (Bool.not_eq_true' _ ▸ (List.mem_filter.1 hp).2)
  case window =>
    intro grid chunk slot sym x s u y hs hu hy
    have hnamed : y.Named grid.val chunk.val slot sym.val := hy ▸ u.chunkSym_named _ _ _ _
    refine ⟨fun hL => ⟨exec_chunkSymbolOpen_noLayout hs hu hL, exec_chunkSymbolClose_noLayout hs hu hL⟩, fun L hL hdown hchunk =>
      ⟨fun hnew hwin => ⟨_, exec_chunkSymbolOpen_due hs hu hy hL hdown hchunk hnew hwin, ?_⟩,
        fun hopen hwin => ⟨_, exec_chunkSymbolClose_due hs hu hy hL hdown hchunk hopen hwin, u.closeSym_closedAt L hnamed⟩⟩⟩
    exact u.closeIfDone_openedAt L (y := { y with openedAt := some u.gridNow }) hnamed rfl
  case offer =>
    intro grid chunk slot sym s y L hs hy hL hdown hchunk hopen
    have hnamed : y.Named grid.val chunk.val slot sym.val := hy ▸ s.chunkSym_named _ _ _ _
    refine ⟨fun hstale => ?tile, fun hpyr hstale hlt hdone => ?pyramid⟩
    case tile =>
      have hrun := exec_tileUnitOffer_tile hs hy hL hdown hchunk hopen hstale
      refine ⟨fun hlt hdone => ?row, fun hlt hdone => ?waits, fun hlast hclosed => ?trailer⟩
      case row =>
        rw [if_pos ⟨hlt, hdone⟩] at hrun
        exact ⟨_, hrun, State.offer_of _ _ _ _ _ _ (y := { y with next := y.next + 1 }) hnamed⟩
      case waits =>
        rwa [if_neg fun h => ne_true_of_eq_false hdone h.2, if_neg fun h => hlt.ne h.1] at hrun
      case trailer =>
        rw [if_neg fun h => h.1.ne hlast, if_pos ⟨hlast, Option.isSome_iff_ne_none.2 hclosed⟩] at hrun
        exact ⟨_, hrun, State.offer_of _ _ _ _ _ _ (y := { y with next := y.next + 1 }) hnamed⟩
    case pyramid =>
      exact ⟨_, exec_tileUnitOffer_pyramid hs hy hL hdown hchunk hopen ⟨hpyr, hstale, hlt, hdone⟩,
        State.offer_of _ _ _ _ _ _ (y := { y with nextPyr := y.nextPyr + 1 }) hnamed⟩
  case stale =>
    intro grid chunk slot sym pyr x s u y hs hu hy
    have hnamed : y.Named grid.val chunk.val slot sym.val := hy ▸ u.chunkSym_named _ _ _ _
    refine ⟨exec_tileStale_notClosed hs hu hy, fun L c hL hc => ?_⟩
    have hrun := exec_tileStale_closed (pyr := pyr) hs hu hy hL hc
    refine ⟨fun hearly => ?early, fun hdue => ⟨fun hp hstale hleft => ?tile, fun hp hpyr hstale hleft => ?pyramid⟩⟩
    case early => rwa [if_neg fun h => not_le_of_gt hearly h.1] at hrun
    case tile =>
      subst hp
      rw [if_pos ⟨hdue, by simp [ChunkSym.untaken, hstale, hleft]⟩] at hrun
      exact ⟨_, hrun, u.discardTile_of (y := y.madeStale false) hnamed⟩
    case pyramid =>
      subst hp
      rw [if_pos ⟨hdue, by simp [ChunkSym.untaken, hpyr, hstale, hleft]⟩] at hrun
      exact ⟨_, hrun, u.discardTile_of (y := y.madeStale true) hnamed⟩
  case feedback =>
    intro c word x s u r hs hu hr
    refine ⟨fun hforeign hlive => ⟨_, exec_feedbackRecord_foreign c word x hs hu hr hforeign,
      Keeps.trn_eq (State.faultCtx_keeps (Keeps.refl u) : LeavesTrn u _), fun hnone => ?_⟩,
      fun hlt hown => ⟨_, exec_feedbackRecord_own c word x hs hu hr hlt hown, rfl⟩⟩
    have hctx : u.ctx = s.ctx := by rw [hu, State.advance_ctx]
    rw [u.faultCtx_fault c.val 0x10 (by rwa [hctx]), hctx, hnone]
    rfl
  case nco =>
    intro x s u n hs hu hn
    refine ⟨_, exec_ncoUpdate_running x hs hu hn, State.foldl_feed_feedback _ _, ?_⟩
    rintro y r old raw lim new hy hdue rfl rfl rfl rfl rfl
    have hgo : (u.trn.feedback.filter fun (y : Feedback) => decide (y.due ≤ n)) = [y] := by
      simp only [hy, List.filter_cons, hdue, decide_true, if_true, List.filter_nil]
    rw [hgo]
    exact ⟨(u.fedBack n).feed_nco y, (u.fedBack n).feed_clamped y⟩
  case receive =>
    intro grid row x s u n k l L hs hu
    have hrun := exec_dlTileReceive_running grid [row] x hs hu
    refine ⟨fun h => by rw [hrun, if_neg h], fun hen hdown hn h0 hk hl hL hlen => ?_⟩
    rw [if_pos ⟨hen, hdown⟩, u.dlTake_row row hn h0 hk hl hL hlen] at hrun
    refine ⟨_, hrun, ?_⟩
    rw [u.dlTile_begun_putDl (y := (u.dlTile grid.val k l).addRow row) (u.dlTile_named _ _ _)]
    rfl
  case transmit =>
    intro ru grid slot sym level x s u w hs hu hw
    refine ⟨exec_txWindowOpen_noLayout hs hu hw, exec_txLate_noLayout hs hu,
      fun L hL hdown hru hopen hclose hrows => ⟨_, exec_txWindowOpen_partial hs hu hw hL hdown hru hopen hclose hrows, ?opened⟩,
      fun L hL hdown hru hclosed hsent hlate => ⟨_, exec_txLate_late hs hu hL hdown hru hclosed hsent hlate, ?late,
        State.event_raise_self _ _ _ (by decide)⟩⟩
    case opened =>
      rw [w.dlTile_begun_putDl ((w.dlTile_named _ _ _).opened ru.val)]
      exact DlTile.mem_opened _ _
    case late =>
      rw [State.dlTile_txLate,
        u.dlTile_begun_putDl (y := (u.dlTile grid.val slot sym.val).late ru.val) (u.dlTile_named _ _ _)]
      exact List.mem_append_right _ (List.mem_singleton_self _)

end Sys2Proof.Machine
end

section
/-!
PROOF. Jobs, weight sets and items of the Thresher (10 R254 to R264): O50.
-/

namespace Sys2Proof.Machine

open Sys2Proof

/-! ### Jobs that arrive (R254, R256) -/

@[simp] theorem State.setQueue_weightSet (s : State) (e : Bool) (q : Nat) (l : List ThrJob) :
    (s.setQueue e q l).weightSet = s.weightSet := by
  cases e <;> rfl

theorem State.thrQueue_opDone (s : State) (c engine plot desc : Nat) : (s.opDone c engine plot desc).thrQueue = s.thrQueue := rfl

theorem State.Heard.opDone {r s : State} (h : r.Heard s) (c engine plot desc : Nat) : r.Heard (s.opDone c engine plot desc) := h.hubEq rfl

/-- A job joins the end of a queue, whose head then starts. -/
def State.join (s : State) (e : Bool) (q : Nat) (j : ThrJob) : State :=
  (s.setQueue e q (s.thrQueue e q ++ [j])).startHead e q ((s.thrQueue e q ++ [j]).length + 1)

theorem State.thrQueue_join_empty (s : State) (e : Bool) (q : Nat) (j : ThrJob) (hq : s.thrQueue e q = []) (hr : j.refused = false)
    (hst : j.started = false) :
    (s.join e q j).thrQueue e q = [{ j with started := true, wset := s.weightSet q (fieldOf j.header 4 2) }] := by
  rw [State.join, hq, List.nil_append, State.startHead_cons _ e q _ j [] (s.thrQueue_set e q [j]) hr, hst, State.setQueue_weightSet]
  rfl

theorem State.thrQueue_join_started (s : State) (e : Bool) (q : Nat) (j : ThrJob) {a : ThrJob} {l : List ThrJob}
    (hq : s.thrQueue e q = a :: l) (hst : a.started = true) (hr : a.refused = false) :
    (s.join e q j).thrQueue e q = a :: (l ++ [j]) := by
  rw [State.join, hq, List.cons_append, State.startHead_cons _ e q _ a (l ++ [j]) (s.thrQueue_set e q _) hr, if_pos hst]

/-- A refused job that joins an empty queue leaves it at once, and what was heard before stays. -/
theorem State.join_refused (s : State) (e : Bool) (q : Nat) (j : ThrJob) (hq : s.thrQueue e q = []) (hr : j.refused = true) :
    (s.join e q j).thrQueue e q = [] ∧ s.Heard (s.join e q j) ∧ j.deliver q ∈ (s.join e q j).hub.out := by
  rw [State.join, hq]
  obtain ⟨hempty, hheard, hout⟩ := (s.setQueue e q [j]).startHead_refused e q 0 j (s.thrQueue_set e q [j]) hr
  exact ⟨hempty, ((State.Heard.refl s).setQueue e q [j]).trans hheard, hout⟩

/-- A refused job is counted, and raises JOB_REJECT. -/
def State.jobRejected (s : State) (part : Option Nat) : State := (s.bump pgThr 0x88 part).raise pgThr 10 part

theorem State.thrQueue_jobRejected (s : State) (part : Option Nat) : (s.jobRejected part).thrQueue = s.thrQueue := rfl

theorem exec_thresherJob_accepted (q : Fin 16) {e : Bool} {hd : Nat} {bl : List Nat} (pl : List Byte) {s : State} {c : Nat}
    (hs : s.stopped = false) (hc : s.slotCtx q.val = some c) (hl : (s.ctx c).live = true) (hok : jobRefused e hd bl = false) :
    exec (.thresherJob q e hd bl pl) s = .next
      ((s.join e q.val { header := hd, blocks := bl, payload := pl }).opDone c 5 0 hd) := by
  rw [show exec (.thresherJob q e hd bl pl) s = _ from next_live hs _, hc]
  dsimp only
  rw [if_pos hl, hok]
  rfl

theorem exec_thresherJob_refused (q : Fin 16) {e : Bool} {hd : Nat} {bl : List Nat} (pl : List Byte) {s : State} {c : Nat}
    (hs : s.stopped = false) (hc : s.slotCtx q.val = some c) (hl : (s.ctx c).live = true) (hno : jobRefused e hd bl = true) :
    exec (.thresherJob q e hd bl pl) s = .next
      (((s.jobRejected (some (s.partOf c))).join e q.val { header := hd, blocks := bl, payload := pl, refused := true }).opDone c 5 0 hd) := by
  rw [show exec (.thresherJob q e hd bl pl) s = _ from next_live hs _, hc]
  dsimp only
  rw [if_pos hl, hno]
  rfl

/-! ### Weight sets (R256) -/

/-- Whether a weight set has an ALPHA above 16. -/
def alphaExceeds (w : Nat) : Bool := (List.range 128).any fun i => decide (16 < fieldOf w (16 * i) 5)

theorem alphaExceeds_iff (w : Nat) : alphaExceeds w = true ↔ ∃ i < 128, 16 < fieldOf w (16 * i) 5 := by
  simp [alphaExceeds]

/-- A weight set of a slot is loaded. -/
def State.withWeightSet (s : State) (q k w : Nat) : State :=
  { s with thr := { s.thr with wset := SMap.put wsetUnlisted s.thr.wset (4 * q + k) (w % 2 ^ 2048) } }

theorem State.weightSet_withWeightSet (s : State) (q k w : Nat) : (s.withWeightSet q k w).weightSet q k = w % 2 ^ 2048 :=
  SMap.get_put_self wsetUnlisted _ _ _

theorem exec_weightSetLoad_running (q : Fin 16) (k : Fin 4) (w : Nat) {s : State} {c : Nat} (hs : s.stopped = false)
    (hc : s.slotCtx q.val = some c) :
    exec (.weightSetLoad q k w) s = .next
      (if alphaExceeds w = true then s.faultCtx c 0x12 else s.withWeightSet q.val k.val w) := by
  rw [show exec (.weightSetLoad q k w) s = _ from next_live hs _, hc]
  rfl

theorem State.faultCtx_recorded (s : State) (c k : Nat) (hl : (s.ctx c).live = true) (hf : (s.ctx c).fault = none) :
    Sent.record (pageNo pgRms) 32 [c, k] ∈ (s.faultCtx c k).hub.out := by
  rw [State.faultCtx, if_pos ⟨hl, hf⟩]
  exact State.recorded _ _ _ _

/-! ### Items (R255, R257, R259, R264) -/

/-- The end of an item that leaves the head job as `g`: with a first check mismatch the item is run again, and otherwise the job goes
on to its next item, or delivers after its last. -/
theorem State.itemDone_ends {s : State} {e : Bool} {q u c : Nat} {m : Bool} {kinds : List Nat} {j g : ThrJob} {rest : List ThrJob}
    (f : ThrJob → Bool → State → ThrJob × State) (hc : s.slotCtx q = some c) (hl : (s.ctx c).live = true) (hq : s.thrQueue e q = j :: rest)
    (hu : s.unitServes u = true) (hst : j.started = true) (hkind : hKind j.header ∈ kinds)
    (hf : ∀ v, (f { j with again := false, unit := u } m v).1 = g) (hnext : g.next = j.next) :
    (m = true → j.again = false → (s.itemDone e q u m kinds f).thrQueue e q = { j with again := true, rerun := true } :: rest ∧
      (s.itemDone e q u m kinds f).event .pf pgThr 8 = true) ∧
    (m = false ∨ j.again = true → ∀ g' : ThrJob, g' = { g with next := j.next + 1 } →
      (j.next + 1 < hBlocks j.header → (s.itemDone e q u m kinds f).thrQueue e q = g' :: rest) ∧
      (hBlocks j.header ≤ j.next + 1 → g'.deliver q ∈ (s.itemDone e q u m kinds f).hub.out)) := by
  obtain ⟨hrerun, hdone⟩ := State.itemDone_eq s e q u c m kinds f g j rest hc hq hu hst hkind hl hf
  rw [hnext] at hdone
  refine ⟨fun hm ha => hrerun ⟨hm, ha⟩, ?_⟩
  rintro hgo g' rfl
  exact hdone fun ⟨hm, ha⟩ => hgo.elim (by simp [hm]) (by simp [ha])

/-- A decoded code block adds to its job its failure, its iterations and its bits (R255 to R257). -/
theorem State.codeBlock_job (s : State) (q : Nat) (j : ThrJob) (failed : Bool) {r : List Bool × Nat × Bool} {n : Nat} {d : List Bool}
    {bad : Bool} (hr : r = Config.ldpcDecode j.header j.wset (j.blocks.getD j.next 0) (j.llrs j.next))
    (hn : n = if fieldOf j.header 3 1 = 1 then max 1 (min r.2.1 (hMaxIt j.header)) else hMaxIt j.header)
    (hd : d = fitBits (hKprime j.header) r.1)
    (hbad : bad = (failed || !r.2.2 || (decide (fieldOf j.header 31 1 = 1) && !Config.crcHolds 2 d))) :
    (s.codeBlock q j failed).1 = { j with
      fails := j.fails + bit bad, itMax := max j.itMax n, itSum := j.itSum + n
      bits := j.bits ++ (if fieldOf j.header 31 1 = 1 then d.take (hKprime j.header - 24) else d) } := by
  subst hbad hd hn hr
  simp [State.codeBlock]

/-- A decoded polar word leaves in its job its bits, its check and its metric (R259). -/
theorem State.polarBlock_job (s : State) (q : Nat) (j : ThrJob) (failed : Bool) {r : List Bool × Bool × Nat}
    (hr : r = Config.polarDecode j.header (j.llrs 0)) :
    (s.polarBlock q j failed).1 = { j with
      bits := r.1, crcOk := r.2.1 && !failed, metric := r.2.2, fails := bit (!(r.2.1 && !failed)) } := by
  subst hr
  rfl

theorem State.encodeBlock_job (s : State) (q : Nat) (j : ThrJob) (failed : Bool) :
    (s.encodeBlock q j failed).1 = { j with fails := j.fails + bit failed } := rfl

theorem hBlocks_polar {h : Nat} (hk : hKind h = 1) : hBlocks h = 1 := by
  rw [hBlocks, hk, if_pos rfl]

theorem hKind_encode {h : Nat} (hk : 2 ≤ hKind h) : hKind h ∈ [2, 3] := by
  have hlt : hKind h < 4 := Nat.mod_lt _ (by decide)
  simp only [List.mem_cons, List.not_mem_nil, or_false]
  omega

section
variable (q : Fin 16) (u : Fin 5) (b : Bool) {s : State}

theorem exec_codeBlockDone_running (hs : s.stopped = false) : exec (.codeBlockDone q u b) s = .next
    (s.itemDone false q.val u.val b [0] fun j failed v => v.codeBlock q.val j failed) := next_live hs _

theorem exec_polarDecodeDone_running (hs : s.stopped = false) : exec (.polarDecodeDone q u b) s = .next
    (s.itemDone false q.val u.val b [1] fun j failed v => v.polarBlock q.val j failed) := next_live hs _

theorem exec_encodeDone_running (hs : s.stopped = false) : exec (.encodeDone q u b) s = .next
    (s.itemDone true q.val u.val b [2, 3] fun j failed v => v.encodeBlock q.val j failed) := next_live hs _

end

/-- Settles O50, command by command: a job by whether it is refused, a weight set by its ALPHA, an item by what its unit decodes or
encodes. -/
theorem thresherCommandsComplete : Obligations.ThresherCommandsComplete := by
  refine ⟨?job, ?weights, ?codeBlock, ?polar, ?encode⟩
  case job =>
    intro q e hd bl pl s c hs hc hl
    cases hr : jobRefused e hd bl with
    | false =>
      refine ⟨_, exec_thresherJob_accepted q pl hs hc hl hr, fun _ hq => ?_, fun _ a l hq hst ha => ?_,
        fun h => absurd h (by decide)⟩
      · rw [State.thrQueue_opDone, s.thrQueue_join_empty e q.val _ hq rfl rfl]
      · rw [State.thrQueue_opDone, s.thrQueue_join_started e q.val _ hq hst ha]
    | true =>
      refine ⟨_, exec_thresherJob_refused q pl hs hc hl hr, fun h => absurd h (by decide), fun h => absurd h (by decide),
        fun _ hq => ?_⟩
      obtain ⟨hempty, hheard, hout⟩ := (s.jobRejected (some (s.partOf c))).join_refused e q.val
        { header := hd, blocks := bl, payload := pl, refused := true } (by rwa [State.thrQueue_jobRejected]) rfl
      exact ⟨hempty, (hheard.opDone c 5 0 hd).2 _ _ _ (State.event_raise_self _ _ _ (by decide)), hout⟩
  case weights =>
    intro q k w s c hs hc
    refine ⟨_, exec_weightSetLoad_running q k w hs hc, fun hle => ?_, fun hgt hl hnone => ?_⟩
    · have hno : ¬alphaExceeds w = true := fun h =>
        let ⟨i, hi, hw⟩ := (alphaExceeds_iff w).1 h
        not_lt_of_ge (hle i hi) hw
      rw [if_neg hno]
      exact s.weightSet_withWeightSet q.val k.val w
    · rw [if_pos ((alphaExceeds_iff w).2 hgt)]
      refine ⟨?_, s.faultCtx_recorded c 0x12 hl hnone⟩
      rw [s.faultCtx_fault c 0x12 hl, hnone]
      rfl
  case codeBlock =>
    intro q u b s c j rest r n d bad hs hc hl hq hu hst hkind hr hn hd hbad
    have hjob (v : State) := v.codeBlock_job q.val { j with again := false, unit := u.val } b hr hn hd hbad
    have hmem : hKind j.header ∈ [0] := List.mem_singleton.2 hkind
    exact ⟨_, exec_codeBlockDone_running q u b hs,
      State.itemDone_ends (fun j failed v => v.codeBlock q.val j failed) hc hl hq hu hst hmem hjob rfl⟩
  case polar =>
    intro q u b s c j rest r hs hc hl hq hu hst hkind hr
    have hjob (v : State) := v.polarBlock_job q.val { j with again := false, unit := u.val } b hr
    have hmem : hKind j.header ∈ [1] := List.mem_singleton.2 hkind
    obtain ⟨hrerun, hends⟩ :=
      State.itemDone_ends (fun j failed v => v.polarBlock q.val j failed) hc hl hq hu hst hmem hjob rfl
    refine ⟨_, exec_polarDecodeDone_running q u b hs, hrerun, fun hgo g hg => (hends hgo g hg).2 ?_⟩
    rw [hBlocks_polar hkind]
    exact Nat.le_add_left 1 j.next
  case encode =>
    intro q u b s c j rest hs hc hl hq hu hst hkind
    have hjob (v : State) := v.encodeBlock_job q.val { j with again := false, unit := u.val } b
    exact ⟨_, exec_encodeDone_running q u b hs,
      State.itemDone_ends (fun j failed v => v.encodeBlock q.val j failed) hc hl hq hu hst (hKind_encode hkind) hjob rfl⟩

end Sys2Proof.Machine
end

section
/-!
PROOF. The Ringmaster's queries and the commands of the Roster (11 R303 to R305; 12 R320): O55.
-/

namespace Sys2Proof.Machine

open Sys2Proof

/-! ### Writes that a view may make (21 R490, R491) -/

theorem next_written {s : State} {v : View} (h : s.takes v = true) (f : State → State) :
    (Host.Outcome.next (s.live fun u => u.written v f) : Host.Outcome State Fault Refusal) = .next (f s) :=
  congrArg Host.Outcome.next ((State.live_takes h _).trans (State.written_of h f))

/-- A command of a view that sees the object it names takes effect. -/
theorem next_commanded {s : State} {v : View} (h : s.takes v = true) (p : Page) {ok : State → Bool} (hok : ok s = true)
    (f : State → State) :
    (Host.Outcome.next (s.live fun u => u.commanded v p (ok u) f) : Host.Outcome State Fault Refusal) = .next (f s) :=
  congrArg Host.Outcome.next ((State.live_takes h _).trans ((State.commanded_of h p _ f).trans (if_pos hok)))

/-! ### Queries (R303, R304; 12 R320) -/

section
variable {v : View} (w : Word) {s : State}

theorem exec_rmsSlotQ_taken (h : s.takes v = true) : exec (.rmsSlotQ v w) s =
    .next { s with rms := { s.rms with slotQ := SMap.put zeroUnlisted s.rms.slotQ v.no (w.toNat % 16) } } :=
  next_written h _

theorem exec_trpSlotQ_taken (h : s.takes v = true) : exec (.trpSlotQ v w) s =
    .next { s with rms := { s.rms with trpQ := SMap.put zeroUnlisted s.rms.trpQ v.no (w.toNat % 16) } } :=
  next_written h _

theorem exec_rmsAcctQ_seen (h : s.takes v = true) (hsees : viewSees s.gate.act v (s.partOf (w.toNat % 64)) = true) :
    exec (.rmsAcctQ v w) s =
      .next { s with rms := { s.rms with acctQ := SMap.put zeroUnlisted s.rms.acctQ v.no (w.toNat % 256) } } :=
  next_commanded h pgRms (ok := fun u => viewSees u.gate.act v (u.partOf (w.toNat % 64))) hsees _

theorem exec_rmsGhEvalQ_seen (h : s.takes v = true) (hsees : viewSees s.gate.act v (s.partOf (w.toNat % 64)) = true) :
    exec (.rmsGhEvalQ v w) s =
      .next { s with rms := { s.rms with ghQ := SMap.put zeroUnlisted s.rms.ghQ v.no (w.toNat % 64) } } :=
  next_commanded h pgRms (ok := fun u => viewSees u.gate.act v (u.partOf (w.toNat % 64))) hsees _

end

/-! ### How a Roster command ends (R305) -/

theorem State.rosterDone_rms (s : State) (c result : Nat) : (s.rosterDone c result).rms = { s.rms with rstResult := result } := by
  unfold State.rosterDone
  dsimp only
  split <;> rfl

theorem State.rosterDone_cmdDone (s : State) (c result : Nat) : (s.rosterDone c result).event .pf pgRst 8 = true := by
  unfold State.rosterDone
  dsimp only
  split
  · exact State.event_raise_self _ _ _ (by decide)
  · exact State.event_raise _ _ _ _ _ _ _ (State.event_raise_self _ _ _ (by decide))

theorem State.rosterDone_error (s : State) (c : Nat) {result : Nat} (h : result ≠ 0) :
    (s.rosterDone c result).event .pf pgRst 9 = true := by
  unfold State.rosterDone
  dsimp only
  rw [if_neg h]
  exact State.event_raise_self _ _ _ (by decide)

/-- The Roster with an entry of new contents. -/
def State.withRoster (s : State) (i x : Nat) : State :=
  { s with rms := { s.rms with roster := SMap.put zeroUnlisted s.rms.roster i x } }

theorem State.withRoster_get (s : State) (i x : Nat) : SMap.get zeroUnlisted (s.withRoster i x).rms.roster i = x :=
  SMap.get_put_self zeroUnlisted _ _ _

/-! ### The Roster's commands (R305) -/

theorem exec_rosterWrite_taken {v : View} (i : Fin 4096) {s : State} {x r : Nat} (h : s.takes v = true) (hx : x = s.rstEntry v)
    (hr : r = s.rosterResult v i.val x) :
    exec (.rosterWrite v i) s = .next ((if r = 0 then s.withRoster i.val x else s).rosterDone (fieldOf x 1 6) r) := by
  rw [hr, hx]
  exact next_written h _

section
variable {v : View} (i : Fin 4096) {s : State} {x : Nat} (h : s.takes v = true) (hx : x = SMap.get zeroUnlisted s.rms.roster i.val)
include h hx

theorem exec_rosterClear_cleared (hmay : fieldOf x 0 1 = 0 ∨ (viewSees s.gate.act v (s.partOf (fieldOf x 1 6)) = true ∧
      (isVf v = false ∨ s.partActive (fieldOf x 1 6) = true))) :
    exec (.rosterClear v i) s = .next ((s.withRoster i.val (withField x 0 1 0)).rosterDone (fieldOf x 1 6) 0) := by
  subst hx
  refine (next_written h _).trans (congrArg Host.Outcome.next (if_neg ?_))
  rintro ⟨hvalid, hrefused⟩
  rcases hmay with hfree | ⟨hsees, hactive⟩
  · omega
  · obtain ⟨hvf, hidle⟩ := hrefused.resolve_left (ne_false_of_eq_true hsees)
    exact hactive.elim (ne_false_of_eq_true hvf) (ne_true_of_eq_false hidle)

theorem exec_rosterClear_refused (hvalid : fieldOf x 0 1 = 1) (hno : viewSees s.gate.act v (s.partOf (fieldOf x 1 6)) = false ∨
      (isVf v = true ∧ s.partActive (fieldOf x 1 6) = false)) :
    exec (.rosterClear v i) s = .next (s.rosterDone (fieldOf x 1 6) 1) := by
  subst hx
  exact (next_written h _).trans (congrArg Host.Outcome.next (if_pos ⟨hvalid, hno⟩))

end

/-- Settles O55, command by command. -/
theorem queriesAndRosterComplete : Obligations.QueriesAndRosterComplete := by
  refine ⟨?queries, ?write, ?clear⟩
  case queries =>
    intro v w s h
    exact ⟨⟨_, exec_rmsSlotQ_taken w h, SMap.get_put_self zeroUnlisted _ _ _⟩,
      ⟨_, exec_trpSlotQ_taken w h, SMap.get_put_self zeroUnlisted _ _ _⟩,
      fun hsees => ⟨⟨_, exec_rmsAcctQ_seen w h hsees, SMap.get_put_self zeroUnlisted _ _ _⟩,
        _, exec_rmsGhEvalQ_seen w h hsees, SMap.get_put_self zeroUnlisted _ _ _⟩⟩
  case write =>
    intro v i s x r h hx hr
    refine ⟨_, exec_rosterWrite_taken i h hx hr, by rw [State.rosterDone_rms], State.rosterDone_cmdDone _ _ _,
      fun hok => ?_, fun hno => ?_⟩
    · rw [State.rosterDone_rms, if_pos hok]
      exact s.withRoster_get i.val x
    · exact ⟨by rw [State.rosterDone_rms, if_neg hno], State.rosterDone_error _ _ hno⟩
  case clear =>
    intro v i s x h hx
    refine ⟨fun hmay => ⟨_, exec_rosterClear_cleared i h hx hmay, by rw [State.rosterDone_rms], ?_⟩,
      fun hvalid hno => ⟨_, exec_rosterClear_refused i h hx hvalid hno, by rw [State.rosterDone_rms], by rw [State.rosterDone_rms]⟩⟩
    rw [State.rosterDone_rms]
    exact s.withRoster_get i.val _

end Sys2Proof.Machine
end

section
/-!
PROOF. Harvest records, copies and configuration requests of the host attachment, and the library commands (11 R275, R276, R303;
17 R420, R425, R468): O49.
-/

namespace Sys2Proof.Machine

open Sys2Proof

/-- A running device takes an effect that the Commit Gate watches. -/
theorem next_liveApply {s : State} (hs : s.stopped = false) (f : State → State) :
    (Host.Outcome.next (s.liveApply f) : Host.Outcome State Fault Refusal) = .next ((f s).noteApply s) :=
  congrArg Host.Outcome.next (State.liveApply_of s f hs)

/-- A command whose apply the Commit Gate watches, of a view that sees the object it names. -/
theorem next_commandedApply {s : State} {v : View} (h : s.takes v = true) (p : Page) {ok : State → Bool} (hok : ok s = true)
    (f : State → State) :
    (Host.Outcome.next (s.liveApply fun u => u.commanded v p (ok u) f) : Host.Outcome State Fault Refusal) =
      .next ((f s).noteApply s) :=
  (next_liveApply (State.takes_stopped h) _).trans
    (congrArg (fun t : State => Host.Outcome.next (t.noteApply s)) ((State.commanded_of h p _ f).trans (if_pos hok)))

@[simp] theorem State.ctx_noteApply (t s : State) : (t.noteApply s).ctx = t.ctx := State.ctx_of_rms (State.noteApply_rms _ _)

@[simp] theorem State.ctx_modCtx_same (s : State) (c : Nat) (f : CtxSt → CtxSt) : (s.modCtx c f).ctx c = f (s.ctx c) := by
  rw [State.ctx_modCtx, if_pos rfl]

/-! ### Harvest records (R425) -/

theorem exec_harvestWrite_running (c : Ctx) {s : State} (hs : s.stopped = false) :
    exec (.harvestWrite c) s = .next (s.writeHarvest c.val) := next_live hs _

/-- With no room in the ring CONS is read. -/
theorem State.writeHarvest_full {s : State} {c x : Nat} {rest : List Nat} (h : (s.ctx c).harvWait = x :: rest)
    (hfull : s.harvRoom c = false) : s.writeHarvest c = s.emit (Sent.hostRead (s.fnOf c) (harvAddr s.gate.act c) 4) := by
  unfold State.writeHarvest
  rw [h]
  exact if_neg (ne_true_of_eq_false hfull)

theorem exec_consPoll_running (c : Ctx) (w : Word) {s : State} (hs : s.stopped = false) :
    exec (.consPoll c w) s = .next (s.modCtx c.val fun y => { y with cons := w.toNat }) := next_live hs _

theorem exec_configRequest_running {s : State} (hs : s.stopped = false) :
    exec .configRequest s = .next (s.emit (Sent.cfgCpl (if s.pwr.ready then 0 else 1))) :=
  congrArg Host.Outcome.next (if_neg (ne_true_of_eq_false hs))

/-! ### Copies (R420) -/

@[simp] theorem State.advance_fn (s : State) (x : Nat) : (s.advance x).fn = s.fn := rfl

theorem State.fn_left {s t : State} (h : LeavesIrg s t) : t.fn = s.fn := by
  funext f
  rw [State.fn, State.fn, Keeps.irg_eq h]

section
variable {v : View} {n : Word} {x f : Nat} {s u : State} (hs : s.stopped = false) (hu : u = s.advance x) (hf : f = copyFn v)
  (hflr : (s.fn f).flr = false)
include hs hu hf hflr

theorem exec_copyStart_begins (hidle : (s.fn f).busy = false) (h0 : n.toNat ≠ 0) (h64 : n.toNat % 64 = 0)
    (hsrc : u.copyEnd f (s.fn f).src n.toNat = true) (hdst : u.copyEnd f (s.fn f).dst n.toNat = true) :
    exec (.copyStart v n x) s =
      .next (u.modFn f fun z => { z with busy := true, done := false, len := n.toNat, began := u.sdl.ref }) := by
  subst hu hf
  refine (next_live hs _).trans (congrArg Host.Outcome.next ?_)
  dsimp only
  rw [State.advance_fn, if_neg (ne_true_of_eq_false hflr), if_neg (by simp [hidle, h0, h64, hsrc, hdst])]

theorem exec_copyStart_refused (hbad : (s.fn f).busy = true ∨ n.toNat = 0 ∨ n.toNat % 64 ≠ 0 ∨
      u.copyEnd f (s.fn f).src n.toNat = false ∨ u.copyEnd f (s.fn f).dst n.toNat = false) :
    exec (.copyStart v n x) s = .next (u.modFn f fun z => { z with code := 1, done := true }) := by
  subst hu hf
  refine (next_live hs _).trans (congrArg Host.Outcome.next ?_)
  dsimp only
  rw [State.advance_fn, if_neg (ne_true_of_eq_false hflr), if_pos (by simpa using hbad)]

end

/-- What the source of a copy gave is written at its destination. -/
def State.copyWritten (s : State) (f : Nat) (d : List Byte) : State :=
  if (s.fn f).dst < dramEnd then
    (s.dramWrite none (s.fn f).dst (d.take (s.fn f).len)).wsetTouch ((s.fn f).dst - dramBase) (s.fn f).len
  else match hostXlat s.gate.act f (s.fn f).dst (s.fn f).len with
    | some (bus, _) => s.emit (Sent.hostWrite f bus (d.take (s.fn f).len))
    | none => s

/-- The channel of a function reports a code. -/
def State.copyReported (s : State) (f code : Nat) (part : Option Nat) : State :=
  (s.modFn f fun z => { z with busy := false, done := true, code := code }).raise pgHst 10 part

theorem State.copyEnds_some (s : State) (f : Nat) (d : List Byte) :
    s.copyEnds f (some d) = (s.copyWritten f d).copyReported f 0 (if f = 0 then none else vfPart s.gate.act f) := rfl

theorem State.copyEnds_none (s : State) (f : Nat) :
    s.copyEnds f none = s.copyReported f 2 (if f = 0 then none else vfPart s.gate.act f) := rfl

theorem State.copyReported_fn (s : State) (f code : Nat) (part : Option Nat) :
    (s.copyReported f code part).fn f = { s.fn f with busy := false, done := true, code := code } := s.fn_mod f _

theorem State.copyReported_event (s : State) (f code : Nat) (part : Option Nat) :
    (s.copyReported f code part).event .pf pgHst 10 = true := State.event_raise_self _ _ _ (by decide)

theorem State.copyWritten_irg (s : State) (f : Nat) (d : List Byte) : LeavesIrg s (s.copyWritten f d) := by
  unfold State.copyWritten
  split
  · exact State.wsetTouch_keeps (State.dramWrite_keeps (Keeps.refl _))
  · split
    · exact State.emit_keeps (Keeps.refl _)
    · exact Keeps.refl _

theorem State.copyWritten_mem (s : State) (f : Nat) (d : List Byte) (h : (s.fn f).dst < dramEnd) :
    (s.copyWritten f d).mem = (s.dramWrite none (s.fn f).dst (d.take (s.fn f).len)).mem := by
  rw [State.copyWritten, if_pos h]
  have hkeep (u : State) (off len : Nat) : LeavesMem u (u.wsetTouch off len) := State.wsetTouch_keeps (Keeps.refl u)
  exact Keeps.mem_eq (hkeep _ _ _)

theorem State.copyWritten_out (s : State) (f : Nat) (d : List Byte) {a : Nat} {w : Bool} (h : dramEnd ≤ (s.fn f).dst)
    (hx : hostXlat s.gate.act f (s.fn f).dst (s.fn f).len = some (a, w)) (hm : SMap.get flagUnlisted s.hub.mute f = false) :
    Sent.hostWrite f a (d.take (s.fn f).len) ∈ (s.copyWritten f d).hub.out := by
  rw [State.copyWritten, if_neg (Nat.not_lt.2 h), hx]
  exact s.emitted_fn _ f rfl hm

/-- A running copy ends with what its source gave, and with nothing beyond 50 ms. -/
theorem exec_copyDone_busy (f : Fin 9) (d : Option (List Byte)) (x : Nat) {s u v : State} {y : CopySt} {r : Option (List Byte)}
    (hs : s.stopped = false) (hu : u = s.advance x) (hy : y = s.fn f.val) (hb : y.busy = true)
    (hr : (r, v) = (if y.src < dramEnd then u.dramRead none y.src y.len else (d, u))) :
    exec (.copyDone f d x) s =
      .next (v.copyEnds f.val (if u.reached (y.began + 50000000 * nsRef + 1) = true then none else r)) := by
  subst hu hy
  refine (next_live hs _).trans (congrArg Host.Outcome.next ?_)
  dsimp only
  rw [State.advance_fn, if_pos hb, ← hr]

theorem State.fn_copyRead {u v : State} {y : CopySt} {d r : Option (List Byte)}
    (hr : (r, v) = (if y.src < dramEnd then u.dramRead none y.src y.len else (d, u))) : v.fn = u.fn := by
  have hv : v = (if y.src < dramEnd then u.dramRead none y.src y.len else (d, u)).2 := congrArg Prod.snd hr
  subst hv
  split
  · exact State.fn_left (State.dramRead_keeps (Keeps.refl _))
  · rfl

/-! ### Library commands (R275, R276, R303) -/

theorem State.libDone_ctx (s : State) (c i k : Nat) : (s.libDone c i k).ctx = s.ctx := rfl

theorem State.libDone_ite (s t : State) (c i k : Nat) :
    (if k = 0 then s.libDone c i 0 else t.libDone c i k) = (if k = 0 then s else t).libDone c i k := by
  cases k <;> rfl

theorem State.libDone_reports (u s : State) (c i k : Nat) : ((u.libDone c i k).noteApply s).rms.libCode = k ∧
    ((u.libDone c i k).noteApply s).rms.libCtx = c ∧ ((u.libDone c i k).noteApply s).rms.libIndex = i ∧
    ((u.libDone c i k).noteApply s).event .pf pgRms 12 = true := by
  rw [State.noteApply_rms, State.noteApply_event]
  exact ⟨rfl, rfl, rfl, State.event_raise_self _ _ _ (by decide)⟩

theorem State.Heard.libDone_noteApply {r u : State} (h : r.Heard u) (s : State) (c i k : Nat) :
    r.Heard ((u.libDone c i k).noteApply s) :=
  ((h.hubEq (t := { u with rms := { u.rms with libCode := k, libCtx := c, libIndex := i } }) rfl).raise pgRms 12 _).hubEq
    (State.noteApply_hub _ _)

/-- A change of a library's upper entries clears PASS (12 R315). -/
theorem State.libTouch_pass (s : State) (c : Nat) {i : Nat} (h : 128 ≤ i) : ((s.libTouch c i).ctx c).pass = false := by
  rw [State.libTouch, if_pos h, State.ctx_modCtx_same]

theorem State.libTouch_lib (s : State) (c i : Nat) : ((s.libTouch c i).ctx c).lib = (s.ctx c).lib := by
  unfold State.libTouch
  split
  · rw [State.ctx_modCtx_same]
  · rfl

/-- A record that leaves for a context's ring joins those that wait, or is dropped. -/
theorem State.pushHarvest_ctx (s : State) (c x : Nat) : ∃ l, (s.pushHarvest c x).ctx c = { s.ctx c with harvWait := l } := by
  unfold State.pushHarvest
  dsimp only
  split
  · exact ⟨_, congrFun (State.ctx_of_rms rfl) c⟩
  · split
    · exact ⟨_, congrFun (State.ctx_of_rms rfl) c⟩
    · exact ⟨_, State.ctx_modCtx_same _ _ _⟩

theorem State.Heard.pushHarvest {r s : State} (h : r.Heard s) (c x : Nat) : r.Heard (s.pushHarvest c x) := by
  unfold State.pushHarvest
  dsimp only
  exact .ite (h.bump _ _ _) (.ite ((h.bump _ _ _).raise _ _ _) (h.left (State.modCtx_keeps (Keeps.refl _))))

/-- An entry of a context's library is erased. -/
def State.libErase (s : State) (c i : Nat) : State := s.modCtx c fun x => { x with lib := SMap.erase x.lib i }

/-- A Plan enters a context's library. -/
def State.planEntered (s : State) (c i : Nat) (e : LibEntry) : State :=
  (s.libTouch c i).modCtx c fun x => { x with lib := SMap.insert x.lib i e }

/-- A Plan leaves a context's library. -/
def State.planRemoved (s : State) (c i : Nat) : State := (s.libErase c i).libTouch c i

/-- A Plan is refused: its entry is erased, and the fault record and the event are reported. -/
def State.planRefused (s : State) (c i : Nat) (part : Option Nat) : State :=
  (((((s.libTouch c i).libErase c i).record pgRms 32 [c, 0x14]).faultRecord c 0x14).bump pgRms 0x70 part).raise pgRms 10 part

theorem State.libErase_ctx (s : State) (c i : Nat) :
    (s.libErase c i).ctx c = { s.ctx c with lib := SMap.erase (s.ctx c).lib i } := s.ctx_modCtx_same c _

theorem State.planEntered_ctx (s : State) (c i : Nat) (e : LibEntry) :
    SMap.find? ((s.planEntered c i e).ctx c).lib i = some e ∧ (128 ≤ i → ((s.planEntered c i e).ctx c).pass = false) := by
  rw [State.planEntered, State.ctx_modCtx_same]
  exact ⟨find?_insert_self _ _ _, s.libTouch_pass c⟩

theorem State.planRemoved_ctx (s : State) (c i : Nat) :
    SMap.find? ((s.planRemoved c i).ctx c).lib i = none ∧ (128 ≤ i → ((s.planRemoved c i).ctx c).pass = false) := by
  refine ⟨?_, State.libTouch_pass _ c⟩
  rw [State.planRemoved, State.libTouch_lib, State.libErase_ctx]
  exact find?_erase_self _ _

theorem State.planRefused_ctx (s : State) (c i : Nat) (part : Option Nat) :
    SMap.find? ((s.planRefused c i part).ctx c).lib i = none ∧ (128 ≤ i → ((s.planRefused c i part).ctx c).pass = false) := by
  obtain ⟨l, hl⟩ : ∃ l, (s.planRefused c i part).ctx c = { ((s.libTouch c i).libErase c i).ctx c with harvWait := l } :=
    State.pushHarvest_ctx _ c _
  rw [hl, State.libErase_ctx]
  exact ⟨find?_erase_self _ _, s.libTouch_pass c⟩

theorem State.planRefused_reports (s : State) (c i : Nat) (part : Option Nat) :
    Sent.record (pageNo pgRms) 32 [c, 0x14] ∈ (s.planRefused c i part).hub.out ∧
      (s.planRefused c i part).event .pf pgRms 10 = true := by
  have hheard : (((s.libTouch c i).libErase c i).record pgRms 32 [c, 0x14]).Heard (s.planRefused c i part) :=
    (((State.Heard.refl _).pushHarvest c _).bump pgRms 0x70 part).raise pgRms 10 part
  exact ⟨hheard.1 _ (State.recorded _ _ _ _), State.event_raise_self _ _ _ (by decide)⟩

section
variable {v : View} {c : Ctx} {i : Fin 256} {s : State} {r : Nat × Option (List Byte) × State} {b : List Byte}
  (h : s.takes v = true) (hsees : viewSees s.gate.act v (s.partOf c.val) = true)
include h hsees

theorem exec_libraryAdd_seen {k : Nat} (hr : r = s.readPlan c.val i.val)
    (hb : b = r.2.1.getD (((s.dramRead none (s.libBase c.val + 64 * fieldOf r.1 0 32) 64).1).getD []))
    (hk : k = s.libraryCode c.val i.val r.1 b r.2.1.isSome) :
    exec (.libraryAdd v c i) s = .next (((if k = 0 then r.2.2.planEntered c.val i.val { index := r.1, plan := b }
      else r.2.2.planRefused c.val i.val (some (s.partOf c.val))).libDone c.val i.val k).noteApply s) := by
  rw [← State.libDone_ite]
  subst hk hb hr
  exact next_commandedApply h pgRms (ok := fun u => viewSees u.gate.act v (u.partOf c.val)) hsees _

theorem exec_libraryRemove_seen :
    exec (.libraryRemove v c i) s = .next (((s.planRemoved c.val i.val).libDone c.val i.val 0).noteApply s) :=
  next_commandedApply h pgRms (ok := fun u => viewSees u.gate.act v (u.partOf c.val)) hsees _

end

/-- Settles O49, command by command. A refused copy length, and DONE at every end, rest on log 24. -/
theorem hostAccessAndLibraryComplete : Obligations.HostAccessAndLibraryComplete := by
  refine ⟨?harvest, ?copyStart, ?copyDone, ?library⟩
  case harvest =>
    intro c s x k a rest hs hw hk ha
    refine ⟨_, exec_harvestWrite_running c hs, fun hroom => ?_, fun hfull hm => ?_⟩
    · obtain ⟨hprod, hwait, hheard⟩ := s.writeHarvest_room c.val x k a rest hw hroom hk ha
      refine ⟨hprod, hwait, fun b d w1 w2 hkeep hm hbody hseq => ?_⟩
      obtain ⟨hout, hout'⟩ := s.hostWrite_two c.val a (a + 56) b d w1 w2 (natLe 56 (x % 2 ^ 448))
        (natLe 8 (k + 2 ^ 32 * (2 ^ 32 - 1 - k))) hkeep hm (by rwa [natLe_length]) (by rwa [natLe_length])
      exact ⟨hheard.1 _ hout, hheard.1 _ hout'⟩
    · rw [State.writeHarvest_full hw hfull]
      exact s.emitted_fn _ _ rfl hm
  case copyStart =>
    intro c w v n x f s u hs hu hf
    refine ⟨⟨_, exec_consPoll_running c w hs, s.ctx_modCtx_same c.val _⟩, ?_,
      _, exec_configRequest_running hs, s.emitted _ rfl⟩
    rintro hflr y rfl
    have hfn : u.fn = s.fn := by rw [hu, State.advance_fn]
    exact ⟨fun hidle h0 h64 hsrc hdst =>
        ⟨_, exec_copyStart_begins hs hu hf hflr hidle h0 h64 hsrc hdst, by rw [State.fn_mod, hfn]⟩,
      fun hbad => ⟨_, exec_copyStart_refused hs hu hf hflr hbad, by rw [State.fn_mod, hfn]⟩⟩
  case copyDone =>
    intro f d x s u v y r hs hu hy hb hr
    have hexec := exec_copyDone_busy f d x hs hu hy hb hr
    have hvy : v.fn f.val = y := by rw [State.fn_copyRead hr, hu, State.advance_fn, hy]
    refine ⟨fun hx href b hgot => ?_, fun hfail => ?_⟩
    · have hin : u.reached (y.began + 50000000 * nsRef + 1) = false := by
        rw [hu, State.reached_advance_succ]
        exact max_le href hx
      rw [hin, if_neg Bool.false_ne_true, hgot, State.copyEnds_some] at hexec
      refine ⟨_, hexec, ?_, State.copyReported_event _ _ _ _, fun hdram => ?_, fun a w hhost hmap hm => ?_⟩
      · rw [State.copyReported_fn, State.fn_left (v.copyWritten_irg f.val b), hvy]
      · subst hvy
        exact v.copyWritten_mem f.val b hdram
      · subst hvy
        exact State.out_raise _ _ _ _ (v.copyWritten_out f.val b hhost hmap hm)
    · have hnone : (if u.reached (y.began + 50000000 * nsRef + 1) = true then none else r) = none := by
        rcases hfail with hlate | hr'
        · refine if_pos (Bool.eq_true_of_not_eq_false fun hin => ?_)
          rw [hu, State.reached_advance_succ] at hin
          omega
        · rw [hr', ite_self]
      rw [hnone, State.copyEnds_none] at hexec
      exact ⟨_, hexec, by rw [State.copyReported_fn, hvy], State.copyReported_event _ _ _ _⟩
  case library =>
    intro v c i s r b k h hsees hr hb hk
    refine ⟨⟨_, exec_libraryAdd_seen h hsees hr hb hk, ?_⟩, _, exec_libraryRemove_seen h hsees, ?_⟩
    · obtain ⟨hcode, hctx, hindex, hdone⟩ := State.libDone_reports (if k = 0 then r.2.2.planEntered c.val i.val
        { index := r.1, plan := b } else r.2.2.planRefused c.val i.val (some (s.partOf c.val))) s c.val i.val k
      refine ⟨hcode, hctx, hindex, hdone, ?_⟩
      by_cases hok : k = 0
      · obtain ⟨hlib, hpass⟩ := r.2.2.planEntered_ctx c.val i.val { index := r.1, plan := b }
        simp only [if_pos hok, State.ctx_noteApply, State.libDone_ctx]
        exact ⟨fun _ => hlib, fun hno => absurd hok hno, hpass⟩
      · obtain ⟨hlib, hpass⟩ := r.2.2.planRefused_ctx c.val i.val (some (s.partOf c.val))
        obtain ⟨hrecord, hreject⟩ := r.2.2.planRefused_reports c.val i.val (some (s.partOf c.val))
        have hheard := (State.Heard.refl (r.2.2.planRefused c.val i.val (some (s.partOf c.val)))).libDone_noteApply s c.val i.val k
        simp only [if_neg hok, State.ctx_noteApply, State.libDone_ctx]
        exact ⟨fun hok' => absurd hok' hok, fun _ => ⟨hlib, hheard.1 _ hrecord, hheard.2 _ _ _ hreject⟩, hpass⟩
    · obtain ⟨hcode, hctx, hindex, hdone⟩ := (s.planRemoved c.val i.val).libDone_reports s c.val i.val 0
      rw [State.ctx_noteApply, State.libDone_ctx]
      exact ⟨hcode, hctx, hindex, hdone, s.planRemoved_ctx c.val i.val⟩

end Sys2Proof.Machine
end

section
/-!
PROOF. What the Big Tops and Sieves leave alone while their queues move on (03 R72 to R84; 04 R98 to R113; 11 R301): the events
raised and the messages sent before, and the teardowns that run. For O54.
-/

namespace Sys2Proof.Machine

open Sys2Proof

/-- What was heard stays heard, and no context's teardown begins, ends or moves. -/
structure State.Calm (s t : State) : Prop where
  heard : s.Heard t
  tearing : ∀ c, (t.ctx c).tearing = (s.ctx c).tearing
  tearAt : ∀ c, (t.ctx c).tearAt = (s.ctx c).tearAt

namespace State.Calm

theorem refl (s : State) : s.Calm s := ⟨.refl s, fun _ => rfl, fun _ => rfl⟩

/-- A part of the state other than the hub and the Ringmaster may change. -/
theorem same {r s t : State} (h : r.Calm s) (hub : t.hub = s.hub) (rms : t.rms = s.rms) : r.Calm t := by
  have hctx : t.ctx = s.ctx := State.ctx_of_rms rms
  exact ⟨h.heard.hubEq hub, fun c => hctx ▸ h.tearing c, fun c => hctx ▸ h.tearAt c⟩

/-- The hub moves on, and the Ringmaster stays. -/
theorem hears {r s t : State} (h : r.Calm s) (heard : s.Heard t) (rms : t.rms = s.rms) : r.Calm t := by
  have hctx : t.ctx = s.ctx := State.ctx_of_rms rms
  exact ⟨h.heard.trans heard, fun c => hctx ▸ h.tearing c, fun c => hctx ▸ h.tearAt c⟩

theorem left {r s t : State} (h : r.Calm s)
    (k : Keeps True True False True True True True True False True True True True True True True True True s t) : r.Calm t :=
  h.same (Keeps.hub_eq k) (Keeps.rms_eq k)

theorem ite {r a b : State} {c : Prop} [Decidable c] (ha : r.Calm a) (hb : r.Calm b) : r.Calm (if c then a else b) := by
  split <;> assumption

theorem ite2 {β : Type} {r : State} {a b : β × State} {c : Prop} [Decidable c] (ha : r.Calm a.2) (hb : r.Calm b.2) :
    r.Calm (if c then a else b).2 := by
  split <;> assumption

theorem foldl {α : Type} {r : State} (g : State → α → State) (hg : ∀ t x, r.Calm t → r.Calm (g t x)) :
    ∀ (l : List α) (t : State), r.Calm t → r.Calm (l.foldl g t)
  | [], _, h => h
  | x :: l, t, h => foldl g hg l _ (hg t x h)

theorem foldl2 {α β : Type} {r : State} (g : β × State → α → β × State) (hg : ∀ t x, r.Calm t.2 → r.Calm (g t x).2) :
    ∀ (l : List α) (t : β × State), r.Calm t.2 → r.Calm (l.foldl g t).2
  | [], _, h => h
  | x :: l, t, h => foldl2 g hg l _ (hg t x h)

section
variable {r s : State} (h : r.Calm s)
include h

/-! ### Shared operations -/

theorem bumpBy (p : Page) (o : Nat) (x : Option Nat) (n : Nat) : r.Calm (s.bumpBy p o x n) :=
  h.hears ((State.Heard.refl s).bumpBy p o x n) rfl

theorem bump (p : Page) (o : Nat) (x : Option Nat) : r.Calm (s.bump p o x) := h.bumpBy p o x 1

theorem raise (p : Page) (b : Nat) (x : Option Nat) : r.Calm (s.raise p b x) := h.hears ((State.Heard.refl s).raise p b x) rfl

theorem record (p : Page) (n : Nat) (l : List Nat) : r.Calm (s.record p n l) := h.hears ((State.Heard.refl s).record p n l) rfl

theorem modCtx (c : Nat) {f : CtxSt → CtxSt} (hf : ∀ x, (f x).tearing = x.tearing ∧ (f x).tearAt = x.tearAt) :
    r.Calm (s.modCtx c f) := by
  refine ⟨h.heard.left (State.modCtx_keeps (Keeps.refl _)), fun d => ?_, fun d => ?_⟩ <;> rw [State.ctx_modCtx] <;> split
  · subst d; exact (hf _).1.trans (h.tearing c)
  · exact h.tearing d
  · subst d; exact (hf _).2.trans (h.tearAt c)
  · exact h.tearAt d

theorem faultCtx (c k : Nat) : r.Calm (s.faultCtx c k) := by
  unfold State.faultCtx
  exact .ite (record (h.modCtx c (by exact fun _ => ⟨rfl, rfl⟩)) _ _ _) h

theorem raced (c : Nat) : r.Calm (s.raced c) := h.modCtx c fun _ => ⟨rfl, rfl⟩

theorem opDone (c engine plot desc : Nat) : r.Calm (s.opDone c engine plot desc) := h.modCtx c fun _ => ⟨rfl, rfl⟩

theorem modPlot (n : Nat) (f : PlotSt → PlotSt) : r.Calm (s.modPlot n f) := h.same rfl rfl

theorem modBtp (n : Nat) (f : BigTop → BigTop) : r.Calm (s.modBtp n f) := h.same rfl rfl

theorem modSiv (n : Nat) (f : Sieve → Sieve) : r.Calm (s.modSiv n f) := h.same rfl rfl

theorem toFlt (f : FltRec) : r.Calm (s.toFlt f) := h.same rfl rfl

theorem armRetry (cw : Nat) : r.Calm (s.armRetry cw) := h.same rfl rfl

theorem use (cls plot i n : Nat) : r.Calm (s.use cls plot i n) := h.same rfl rfl

/-! ### Rows of the stores (06 R142, R150 to R154) -/

theorem eccEvent {n : Nat} {st : Store} {w c : Nat} {p : Bool} {x y : Option Nat} {j : EccResult} :
    r.Calm (s.eccEvent n st w c p x y j) := by
  unfold State.eccEvent
  extract_lets info setInfo rec'
  have hset : ∀ u w, r.Calm u → r.Calm (setInfo u w) := fun u _ hu => hu.modPlot n _
  split
  · exact h
  · exact .ite h ((hset _ _ (h.bump _ _ _)).toFlt _)
  · have hinfo := hset _ (info true 0) (h.bump (pgSto n) 0x70 y)
    exact ((Calm.ite hinfo (hinfo.raise _ _ _)).toFlt _).armRetry _

theorem rowEvents {n : Nat} {st : Store} {w : Nat} {p : Bool} {x y : Option Nat} : r.Calm (s.rowEvents n st w p x y) := by
  unfold State.rowEvents State.rowRetry
  have hevents := Calm.foldl (r := r) (fun t c => t.eccEvent n st w c p x y (s.judgeCw n st w c)) (fun _ _ ht => ht.eccEvent)
    (List.range 4) (s.takeRetry (rowAddr n st w / 16)) (h.same rfl rfl)
  exact .ite (hevents.toFlt _) hevents

theorem queueWb {n : Nat} {st : Store} {w : Nat} {x : Option Nat} : r.Calm (s.queueWb n st w x) := by
  unfold State.queueWb
  exact .ite h (.ite (h.modPlot _ _) (h.bump _ _ _))

theorem readRowOf {n : Nat} {st : Store} {w : Nat} {x p : Option Nat} : r.Calm (s.readRowOf n st w x p).2 := by
  have hevents : r.Calm (s.rowEvents n st w false x p) := h.rowEvents
  unfold State.readRowOf
  extract_lets s1
  cases s.rowData n st w with
  | some d =>
    dsimp only
    exact .ite hevents.queueWb hevents
  | none => cases x with
    | some c => exact hevents.faultCtx c 2
    | none => exact hevents

theorem writeCw {s0 : State} {n : Nat} {st : Store} {w c d m : Nat} {x p : Option Nat} : r.Calm (s.writeCw s0 n st w c d m x p) := by
  unfold State.writeCw
  have hread : r.Calm (if m % 2 ^ 16 = 2 ^ 16 - 1 then s else s.eccEvent n st w c false x p (s0.judgeCw n st w c)) :=
    .ite h h.eccEvent
  refine .ite h ?_
  dsimp only
  split
  · exact hread.left (State.freshen_keeps (State.putCw_keeps (Keeps.refl _)))
  · split
    · exact hread.faultCtx _ _
    · exact hread

theorem writeRow {s0 : State} {n : Nat} {st : Store} {w d m : Nat} {x p : Option Nat} : r.Calm (s.writeRow s0 n st w d m x p) := by
  unfold State.writeRow
  exact .foldl _ (fun _ _ ht => ht.writeCw) _ _ h

theorem oob {n e : Nat} {st : Store} {c : Nat} {w : Bool} {l : Nat} : r.Calm (s.oob n e st c w l) := by
  unfold State.oob
  exact (((h.bump _ _ _).modPlot _ _).raise _ _ _).faultCtx _ _

theorem winRead {n e : Nat} {st : Store} {c l : Nat} : r.Calm (s.winRead n e st c l).2 := by
  unfold State.winRead
  refine .ite2 (h.faultCtx _ _) ?_
  split
  · exact h.oob
  · exact h.readRowOf

theorem winWrite {n e : Nat} {st : Store} {c l d m : Nat} : r.Calm (s.winWrite n e st c l d m) := by
  unfold State.winWrite
  refine .ite (h.faultCtx _ _) ?_
  split
  · exact h.oob
  · exact h.writeRow

end

theorem winReadN {r : State} {n e : Nat} {st : Store} {c : Nat} : ∀ (k : Nat) {s : State} {l : Nat}, r.Calm s →
    r.Calm (s.winReadN n e st c l k).2
  | 0, _, _, h => h
  | k + 1, s, l, h => by
    have hrest : r.Calm ((s.winRead n e st c l).2.winReadN n e st c (l + 1) k).2 := winReadN k h.winRead
    unfold State.winReadN
    dsimp only
    split <;> exact hrest

theorem winWriteN {r : State} {n e : Nat} {st : Store} {c : Nat} : ∀ (k : Nat) {s : State} {l d : Nat}, r.Calm s →
    r.Calm (s.winWriteN n e st c l d k)
  | 0, _, _, _, h => h
  | k + 1, _, _, _, h => winWriteN k h.winWrite

/-! ### Chains (04 R97 to R113) -/

theorem chainScales {r s : State} (h : r.Calm s) {n : Nat} {q : ChainReq} : r.Calm (s.chainScales n q) := by
  have hread : r.Calm (s.winReadN n q.entry .w 1 (cScaleRow q.desc) 16).2 := winReadN 16 h
  unfold State.chainScales
  extract_lets d read s1
  have hload : r.Calm s1 := by
    refine .ite ?_ h
    dsimp only
    split
    · exact hread
    · exact .ite (hread.modSiv _ _) ((hread.modSiv _ _).faultCtx _ _)
  exact .ite (hload.modSiv _ _) hload

theorem readStream {r s : State} (h : r.Calm s) {n e x i : Nat} {data mark : Bool} {t : Tally} :
    r.Calm (s.readStream n e x i data mark t).2.2 := by
  unfold State.readStream
  extract_lets c base per first big row q
  split
  · have hbig : r.Calm big.2 := winReadN _ h
    dsimp only
    split
    · exact hbig
    · exact hbig.same rfl rfl
  · have hrow : r.Calm row.2 := .ite2 (winReadN _ h) h
    have hq : r.Calm q.2 := .ite2 hrow.winRead hrow
    split <;> exact hq

theorem writeW {r s : State} (h : r.Calm s) {n e d i : Nat} {l : List Nat} {mark : Nat} : r.Calm (s.writeW n e d i l mark) := by
  have hrows : ∀ a b k, r.Calm (s.winWriteN n e .a 3 a b k) := fun _ _ k => winWriteN k h
  unfold State.writeW
  exact .ite (.ite h h.winWrite) (.ite (hrows _ _ _) (hrows _ _ _).winWrite)

theorem chainIter {r s : State} (h : r.Calm s) {n : Nat} {q : ChainReq} {shift : Int} {i : Nat} {t : Tally} :
    r.Calm (s.chainIter n q shift i t).2 := by
  unfold State.chainIter
  extract_lets d xr useX a useY b
  have ha : r.Calm a.2.2 := by
    dsimp only [a]
    split
    · exact h.readStream
    · exact h
  have hb : r.Calm b.2.2 := by
    dsimp only [b]
    split
    · exact ha.readStream
    · exact ha
  clear_value a b
  split
  · refine .ite2 hb.writeW ?_
    extract_lets z0 z1 inp res s2
    have h2 : r.Calm s2 := hb.modSiv _ _
    clear_value s2 res
    split
    · exact h2
    · exact h2.writeW
  · exact hb

theorem chainIters {r : State} {n : Nat} {q : ChainReq} {shift : Int} : ∀ (k : Nat) {s : State} {i : Nat} {t : Tally}, r.Calm s →
    r.Calm (s.chainIters n q shift i t k).2
  | 0, _, _, _, h => h
  | k + 1, s, i, t, h => by
    have hone : r.Calm (s.chainIter n q shift i t).2 := h.chainIter
    unfold State.chainIters
    dsimp only
    split
    · exact hone
    · exact chainIters k hone

theorem chainBody {r s : State} (h : r.Calm s) {n : Nat} {q : ChainReq} {shift : Int} : r.Calm (s.chainBody n q shift).2 := by
  have hall : r.Calm (s.chainIters n q shift 0 {} (cIters q.desc)).2 := chainIters _ h
  unfold State.chainBody
  dsimp only
  split
  · exact hall
  · exact .ite2 (.foldl _ (fun _ _ ht => ht.winWrite) _ _ hall) hall

theorem countTally {r s : State} (h : r.Calm s) {n : Nat} {q : ChainReq} {t : Tally} : r.Calm (s.countTally n q t) := by
  unfold State.countTally
  extract_lets p part s1
  have hcount : r.Calm s1 :=
    (((((((h.bumpBy _ _ _ _).bumpBy _ _ _ _).bumpBy _ _ _ _).bumpBy _ _ _ _).bumpBy _ _ _ _).bumpBy _ _ _ _).bumpBy _ _ _ _)
  exact .ite (hcount.raise _ _ _) hcount

theorem astSet {r s : State} (h : r.Calm s) {c : Nat} {y : StepSt} {client grid seg bits : Nat} :
    r.Calm (s.astSet c y client grid seg bits) := by
  unfold State.astSet
  split
  · exact h
  · exact h.winWrite

theorem fallBack {r s : State} (h : r.Calm s) {c n client bit : Nat} {segs : List Nat} : r.Calm (s.fallBack c n client bit segs) := by
  unfold State.fallBack
  split
  · exact h
  · refine .foldl _ (fun t it ht => ?_) _ _ h
    dsimp only
    exact .ite (ht.astSet.record _ _ _) ht.astSet

theorem runChain {r s : State} (h : r.Calm s) {n : Nat} {q : ChainReq} : r.Calm (s.runChain n q) := by
  unfold State.runChain
  extract_lets d part s0 s1 s2 body
  have h0 : r.Calm s0 := h.modSiv _ _
  have h1 : r.Calm s1 := .ite h0 (((h0.bumpBy _ _ _ _).raise _ _ _).raced _)
  have hbody : r.Calm body.2 := h1.chainScales.chainBody
  clear_value body
  refine .ite (h0.faultCtx _ _) ?_
  split
  · exact hbody
  · have hend := fun t f => ((hbody.countTally (n := n) (q := q) (t := t)).modSiv n f).bumpBy (pgSiv n) 0x90 part (cIters d)
    exact .ite (hend _ _).fallBack (hend _ _)

theorem nextChain {r s : State} (h : r.Calm s) {n : Nat} : r.Calm (s.nextChain n) := by
  unfold State.nextChain
  dsimp only
  refine .ite h ?_
  split
  · exact h
  · exact .ite ((h.modSiv _ _).modSiv _ _) (h.modSiv _ _).runChain

theorem nextChains {r : State} {n : Nat} : ∀ (k : Nat) {s : State}, r.Calm s → r.Calm (s.nextChains n k)
  | 0, _, h => h
  | k + 1, _, h => nextChains k h.nextChain

theorem pumpSieve {r s : State} (h : r.Calm s) {n : Nat} : r.Calm (s.pumpSieve n) := by
  unfold State.pumpSieve
  extract_lets s1
  refine nextChains _ ?_
  dsimp only [s1]
  split
  · exact h
  · exact .ite h.runChain h

/-! ### Passes (03 R70 to R84) -/

theorem feedRow {r : State} {n e row : Nat} : ∀ (k : Nat) {s : State} {i : Nat}, r.Calm s → r.Calm (s.feedRow n e row i k).2
  | 0, _, _, h => h
  | k + 1, s, i, h => by
    have hrest : r.Calm ((s.winRead n e .a (i / 4 % 2) (row + i)).2.feedRow n e row (i + 1) k).2 := feedRow k h.winRead
    unfold State.feedRow
    dsimp only
    split <;> exact hrest

theorem passRowsFrom {r s : State} (h : r.Calm s) {n e d m k : Nat} : r.Calm (s.passRowsFrom n e d m k).2 := by
  unfold State.passRowsFrom
  refine .foldl2 _ (fun _ _ ht => ?_) _ _ h
  exact feedRow _ ht

theorem passRows {r s : State} (h : r.Calm s) {n e d : Nat} : r.Calm (s.passRows n e d).2 :=
  (h.modBtp n fun b => { b with west := [] }).passRowsFrom

theorem fillWest {r s : State} (h : r.Calm s) {n : Nat} {q : PassReq} : r.Calm (s.fillWest n q) := by
  have hrows : r.Calm (s.passRowsFrom n q.entry q.desc 0 (min 64 (pRows q.desc))).2 := h.passRowsFrom
  unfold State.fillWest
  dsimp only
  split
  · exact hrows.modBtp _ _
  · exact hrows

theorem accumulate {r s : State} (h : r.Calm s) {n : Nat} {q : PassReq} {t : Tile} {again : Bool} :
    r.Calm (s.accumulate n q t again) := by
  unfold State.accumulate
  extract_lets d part rows
  have hrows : r.Calm rows.2 := .ite2 h.passRowsFrom h.passRows
  clear_value rows
  split
  · exact hrows
  · have hcount : r.Calm rows.2.tick := hrows.same rfl rfl
    exact .ite ((hcount.bumpBy _ _ _ _).faultCtx _ _)
      (((((hcount.bumpBy _ _ _ _).modBtp _ _).bumpBy _ _ _ _).bumpBy _ _ _ _).bumpBy _ _ _ _)

theorem setSuspect {r s : State} (h : r.Calm s) {n : Nat} : r.Calm (s.setSuspect n) := by
  unfold State.setSuspect
  exact .ite h ((h.modBtp _ _).modBtp _ _)

theorem swapTile {r s : State} (h : r.Calm s) {n flip c : Nat} : r.Calm (s.swapTile n flip c) := by
  unfold State.swapTile
  exact .ite (h.modBtp _ _) ((((h.modBtp _ _).bump _ _ _).raise _ _ _).setSuspect.toFlt _)

theorem countRun {r s : State} (h : r.Calm s) {n : Nat} {q : PassReq} : r.Calm (s.countRun n q) := by
  unfold State.countRun
  exact .ite ((h.modBtp _ _).bumpBy _ _ _ _) (h.modBtp _ _)

theorem tableRows {r s : State} (h : r.Calm s) {n : Nat} {q : PassReq} : r.Calm (s.tableRows n q) := by
  unfold State.tableRows
  exact .ite ((h.modPlot _ _).bumpBy _ _ _ _) (h.modPlot _ _)

theorem startLoad {r s : State} (h : r.Calm s) {n : Nat} {q : PassReq} : r.Calm (s.startLoad n q) := h.same rfl rfl

theorem runPass {r s : State} (h : r.Calm s) {n : Nat} {q : PassReq} : r.Calm (s.runPass n q) := by
  unfold State.runPass
  extract_lets d s0 s1
  have h0 : r.Calm s0 := h.modBtp _ _
  have h1 : r.Calm s1 := .ite h0.swapTile h0
  clear_value s0 s1
  refine .ite (h0.faultCtx _ _) (.ite (h0.faultCtx _ _) ?_)
  split
  · exact h1.faultCtx _ _
  · refine .ite ?_ (h1.faultCtx _ _)
    have hload : r.Calm (if pLoad d = true then s1.startLoad n q else s1) := .ite h1.startLoad h1
    exact ((hload.modBtp _ _).tableRows.accumulate.countRun.use _ _ _ _).opDone _ _ _ _

theorem pumpPasses {r : State} {n : Nat} : ∀ (k : Nat) {s : State}, r.Calm s → r.Calm (s.pumpPasses n k)
  | 0, _, h => h
  | k + 1, s, h => by
    unfold State.pumpPasses
    split
    · exact h
    · refine .ite (pumpPasses k (((h.modBtp _ _).modBtp _ _).faultCtx _ _)) (.ite (pumpPasses k (h.modBtp _ _).runPass) ?_)
      exact .ite h.fillWest h

theorem dropWork {r s : State} (h : r.Calm s) (c : Nat) : r.Calm (s.dropWork c) := by
  unfold State.dropWork
  exact .foldl _ (fun _ n ht => pumpPasses _ ((ht.modPlot n _).pumpSieve)) _ _ h

end State.Calm

end Sys2Proof.Machine
end

section
/-!
PROOF. Swaps, pre-emption, teardown and restart of contexts (11 R270, R272, R291, R301; 21 R502): O54.
-/

namespace Sys2Proof.Machine

open Sys2Proof

/-! ### The Ringmaster's slots (R271, R272, R291) -/

/-- A request to pre-empt marks the context. -/
theorem State.beginSwapOut_ctx (s : State) (c : Nat) :
    (s.beginSwapOut c).ctx c = { s.ctx c with st := .swapping, preempting := true } := by
  have hkeep : LeavesRms (s.modCtx c fun x => { x with st := .swapping, preempting := true }) (s.beginSwapOut c) :=
    State.bump_keeps (State.preemptSprouts_keeps (Keeps.refl _))
  rw [State.ctx_left hkeep, State.ctx_modCtx_same]

theorem State.takeSlot_ctx (s : State) (c k d : Nat) : (s.takeSlot c k).ctx d =
    if d = c then { s.ctx c with st := .swapping, awaitSlot := some k, swapInWait := true } else s.ctx d :=
  State.ctx_modCtx _ _ _ _

/-- A slot that becomes free changes only a context that waits for it. -/
theorem State.freeSlot_ctx (s : State) (k d : Nat) : (s.freeSlot k).ctx d = s.ctx d ∨
    (s.ctx d).awaitSlot = some k ∧ (s.freeSlot k).ctx d = { s.ctx d with st := .swapping, awaitSlot := some k, swapInWait := true } := by
  unfold State.freeSlot
  extract_lets rms s1
  have h1 : s1.ctx = s.ctx := rfl
  split
  case h_1 c hfind =>
    rw [State.takeSlot_ctx, h1]
    split
    case isTrue hd =>
      subst hd
      have hawait := List.find?_some hfind
      exact .inr ⟨of_decide_eq_true hawait, rfl⟩
    case isFalse => exact .inl rfl
  case h_2 => exact .inl rfl

/-- Slots that become free leave a context that waits for none. -/
theorem State.foldl_freeSlot_ctx {d : Nat} : ∀ (l : List Nat) (s : State), (s.ctx d).awaitSlot = none →
    (l.foldl (fun t j => (t.dropDeficits j).freeSlot j) s).ctx d = s.ctx d
  | [], _, _ => rfl
  | j :: l, s, h => by
    have hj : ((s.dropDeficits j).freeSlot j).ctx d = s.ctx d := by
      rcases (s.dropDeficits j).freeSlot_ctx j d with hsame | ⟨hawait, -⟩
      · exact hsame
      · exact absurd (h.symm.trans hawait) nofun
    exact (foldl_freeSlot_ctx l _ (hj ▸ h)).trans hj

theorem State.ctx_restagePace (s : State) : s.restagePace.ctx = s.ctx := State.ctx_left (State.restagePace_keeps (Keeps.refl _))

/-- A context that leaves its slot has its state put aside, whoever takes the slot next. -/
theorem State.leaveSlot_ctx (s : State) (k slot : Nat) : ((s.leaveSlot k slot).ctx k).slot = none ∧
    ((s.leaveSlot k slot).ctx k).preempting = false ∧ ((s.leaveSlot k slot).ctx k).carried = true := by
  unfold State.leaveSlot
  rw [State.ctx_restagePace]
  rcases State.freeSlot_ctx _ slot k with hsame | ⟨-, htaken⟩
  · rw [hsame, State.ctx_modCtx_same]
    exact ⟨rfl, rfl, rfl⟩
  · rw [htaken, State.ctx_modCtx_same]
    exact ⟨rfl, rfl, rfl⟩

section
variable {v : View} {c : Ctx} {s : State} (h : s.takes v = true) (hsees : viewSees s.gate.act v (s.partOf c.val) = true)
include h hsees

theorem exec_contextSwapOut_resident (hres : (s.ctx c.val).resident = true) (hl : (s.ctx c.val).live = true) :
    exec (.contextSwapOut v c) s = .next (s.beginSwapOut c.val) :=
  (next_commanded h pgRms (ok := fun u => viewSees u.gate.act v (u.partOf c.val)) hsees _).trans
    (congrArg Host.Outcome.next (if_pos ⟨hres, hl⟩))

theorem exec_contextRestart_faulted (hst : (s.ctx c.val).st = .faulted) (hfree : s.entriesBusy c.val = false) :
    exec (.contextRestart v c) s =
      .next ((s.modCtx c.val fun x => { x with st := .swapped, carried := false, steps := [] }).noteApply s) :=
  (next_commandedApply h pgRms (ok := fun u => viewSees u.gate.act v (u.partOf c.val)) hsees _).trans
    (congrArg (fun t : State => Host.Outcome.next (t.noteApply s)) (if_pos ⟨hst, hfree⟩))

end

theorem exec_preemptionComplete_stopped (c : Ctx) (l : List CarryRow) (x : Nat) {s u : State} {k : Nat} (hs : s.stopped = false)
    (hu : u = s.advance x) (hk : (s.ctx c.val).slot = some k) (hpre : (s.ctx c.val).preempting = true)
    (hl : (s.ctx c.val).live = true) (hall : (s.ctx c.val).allStopped = true) (hquiet : u.quiet c.val = true)
    (hsprouts : u.sproutsStopped c.val = true) :
    exec (.preemptionComplete c l x) s = .next ((u.preempted c.val k l).noteApply s) := by
  subst hu
  refine (next_liveApply hs _).trans (congrArg (fun t : State => Host.Outcome.next (t.noteApply s)) ?_)
  dsimp only
  rw [State.advance_ctx, hk]
  exact if_pos ⟨hpre, hl, hall, hquiet, hsprouts⟩

/-! ### Swap-in (R272, R502) -/

section
variable (c : Ctx) (ws : List WinPlace) (l : List CarryRow) (x : Nat) {s u : State} {k : Nat} (hs : s.stopped = false)
  (hu : u = s.advance x) (hk : (s.ctx c.val).awaitSlot = some k) (hwait : (s.ctx c.val).swapInWait = true)
  (hl : (s.ctx c.val).live = true)

/-- The state with a context's windows placed, and its carried rows, Furrows and deficits back. -/
def State.swapRestored (s : State) (k slot : Nat) (wins : List WinPlace) (rows : List CarryRow) : State :=
  let placed := wins.foldl (fun t w => t.placeWin k slot w) s
  let carried := if (s.ctx k).carried then rows.foldl (fun t r => t.carryIn k slot r) placed else placed
  let back := (s.ctx k).furrows.foldl
    (fun t p => t.modFurrow p.1 p.2.1 fun _ => { p.2.2 with slot := slot, entry := 2 * slot + p.2.2.entry % 2 }) carried
  { back with rms := { back.rms with
    deficit := (s.ctx k).deficits.foldl (fun m (e : Nat × Int) => SMap.put intUnlisted m (16 * e.1 + slot) e.2) back.rms.deficit } }

/-- A context as it becomes resident in a slot at a time. -/
def CtxSt.swappedIn (x : CtxSt) (slot beat : Nat) : CtxSt :=
  { x with
    slot := some slot, awaitSlot := none, swapInWait := false, carried := false, furrows := [], deficits := []
    st := if x.steps.any (·.flying) then .running else .idle
    beat := beat
    steps := x.steps.map fun (y : StepSt) => { y with tasks := y.tasks.map TaskSt.resume } }

include hs hu hk hwait hl

theorem exec_swapIn_refused (hno : ws.any (fun w => u.placeRefused c.val w) = true) :
    exec (.swapIn c ws l x) s = .next ((u.faultCtx c.val 0x1B).noteApply s) := by
  subst hu
  refine (next_liveApply hs _).trans (congrArg (fun t : State => Host.Outcome.next (t.noteApply s)) ?_)
  dsimp only
  rw [State.advance_ctx, hk]
  exact if_pos ⟨hwait, hl, hno⟩

theorem exec_swapIn_placed (hmay : ws.any (fun w => u.placeRefused c.val w) = false)
    (hown : SMap.get zeroUnlisted s.rms.slot k = c.val + 1) (hheld : u.partHeld (u.partOf c.val) = false)
    (hok : ws.all (fun w => u.placeOk c.val k w) = true)
    (howed : (s.ctx c.val).steps.filter (fun y => y.owed && !y.dispatched && !y.ended) = []) :
    exec (.swapIn c ws l x) s =
      .next ((((u.swapRestored c.val k ws l).modCtx c.val fun y => y.swappedIn k u.sdl.ref).restagePace).noteApply s) := by
  subst hu
  have hown' : SMap.get zeroUnlisted (s.advance x).rms.slot k = c.val + 1 := by
    rw [← hown]
    unfold State.advance
    dsimp only
    split <;> rfl
  refine (next_liveApply hs _).trans (congrArg (fun t : State => Host.Outcome.next (t.noteApply s)) ?_)
  dsimp only
  rw [State.advance_ctx, hk]
  refine (if_neg fun hno => ne_true_of_eq_false hmay hno.2.2).trans ((if_pos ⟨hwait, hl, hown', hheld, hok⟩).trans ?_)
  rw [howed, ← s.advance_ctx x]
  rfl

end

/-- A read of DRAM for no context leaves every context as it was. -/
theorem State.dramRead_none_ctx (s : State) (a n : Nat) : (s.dramRead none a n).2.ctx = s.ctx := by
  have hread (off ext : Nat) (cws : List Nat) : LeavesRms s
      (((s.dramDecode none cws).2.bumpBy pgDdr 0x68 none ext).touchCheck off ext false) :=
    State.touchCheck_keeps (State.bumpBy_keeps (State.dramDecode_keeps (Keeps.refl s)))
  unfold State.dramRead
  extract_lets off ext d s1 raw s2
  have hdone : s1.ctx = s.ctx := State.ctx_left (hread _ _ _)
  have hrefused : s2.ctx = s.ctx := State.ctx_left (ite_keeps (Keeps.refl s) (State.bump_keeps (Keeps.refl s)))
  split
  · split <;> exact hdone
  · exact hrefused

theorem State.carryIn_ctx {r s : State} {c slot : Nat} {y : CarryRow} (h : r.SameCtx s) : r.SameCtx (s.carryIn c slot y) := by
  have hread : r.SameCtx (s.dramRead none (s.carryBase c + y.ofs) 64).2 := h.ctxEq (State.dramRead_none_ctx _ _ _)
  unfold State.carryIn
  dsimp only
  split
  · exact State.winWrite_ctx hread
  · exact hread

theorem State.swapRestored_ctx (s : State) (k slot : Nat) (wins : List WinPlace) (rows : List CarryRow) :
    s.SameCtx (s.swapRestored k slot wins rows) := by
  unfold State.swapRestored
  extract_lets placed carried back
  have hplaced : s.SameCtx placed := .foldl _ (fun _ _ ht => ht.left (State.placeWin_keeps (Keeps.refl _))) _ _ (.refl s)
  have hcarried : s.SameCtx carried := .ite (.foldl _ (fun _ _ ht => State.carryIn_ctx ht) _ _ hplaced) hplaced
  have hback : s.SameCtx back := .foldl _ (fun _ _ ht => ht.left (State.modFurrow_keeps (Keeps.refl _))) _ _ hcarried
  exact hback.ctxEq rfl

/-- Whether some step is in flight is no matter of the fields that a save leaves out. -/
theorem CtxSt.flying_core {x y : CtxSt} (h : x.core = y.core) : x.steps.any (·.flying) = y.steps.any (·.flying) := by
  have hsteps : x.steps.map StepSt.core = y.steps.map StepSt.core := congrArg CtxSt.steps h
  have hcore : ∀ l : List StepSt, l.any (·.flying) = (l.map StepSt.core).any (·.flying) := fun l => by rw [List.any_map]; rfl
  rw [hcore, hcore y.steps, hsteps]

/-! ### Contexts that wait (R270) -/

theorem State.retryDeferred_none {s : State} (h : ∀ d < 64, (s.ctx d).st ≠ .deferred) : s.retryDeferred = s :=
  List.foldlRecOn (motive := fun t => t = s) _ _ rfl fun t ht d hd => by
    subst ht
    exact if_neg (h d (List.mem_range.1 hd))

/-- What a context waits on: a page, a request outstanding for more than 1 µs, or a pre-emption point. -/
def State.waitsNow (s : State) (k : Nat) : Prop :=
  ((s.furrowsOf k).any fun p => decide ((s.furrow p.1 p.2).st = .pageWait)) = true ∨
    (s.irg.requests.any fun r =>
      decide (r.ctx = k ∧ (r.pool = 0 ∨ r.pool = 9 ∨ r.pool = 10) ∧ r.issued + usRef < s.sdl.ref)) = true ∨
    ((s.ctx k).steps.any fun y => y.flying && y.tasks.any (·.stopped)) = true

theorem exec_contextBlocked_waits (c : Ctx) (x : Nat) {s u : State} (hs : s.stopped = false) (hu : u = s.advance x)
    (hst : (s.ctx c.val).st = .running) (hwaits : u.waitsNow c.val) :
    exec (.contextBlocked c x) s = .next (((u.modCtx c.val fun y => { y with st := .blocked }).retryDeferred).noteApply s) := by
  subst hu
  refine (next_liveApply hs _).trans (congrArg (fun t : State => Host.Outcome.next (t.noteApply s)) ?_)
  exact if_pos ⟨(congrFun (s.advance_ctx x) c.val).symm ▸ hst, hwaits⟩

/-! ### Teardown (R301) -/

/-- A context's teardown begins: its tasks stop, and the event is raised. -/
def State.tearBegun (s : State) (k : Nat) : State :=
  ((s.bump pgRms 0x68 (some (s.partOf k))).raise pgRms 8 (some (s.partOf k))).modCtx k fun x =>
    { x with
      tearing := true, tearAt := s.sdl.ref, preempting := false
      steps := x.steps.map fun y => { y with g := 0, tasks := y.tasks.map fun z => { z with stopped := true, op := none } } }

/-- A context's Furrows issue no more, and its requests complete into nothing. -/
def State.tearFurrows (s : State) (k : Nat) : State :=
  let t := (s.furrowsOf k).foldl (fun t p => t.modFurrow p.1 p.2 fun x => { x with st := .faulted, stage := [], spilled := [] }) s
  { t with irg := { t.irg with
    requests := t.irg.requests.filterMap fun (r : Request) =>
      if r.ctx = k then (if r.waiting then none else some { r with dead := true }) else some r } }

/-- The Thresher queues of the slot that a context holds are flushed. -/
def State.flushQueues (s : State) (slot : Option Nat) : State :=
  match slot with
  | none => s
  | some k => { s with thr := { s.thr with dec := SMap.put queueUnlisted s.thr.dec k [], enc := SMap.put queueUnlisted s.thr.enc k [] } }

/-- A context's Sprouts stop. -/
def State.stopSprouts (s : State) (k : Nat) : State :=
  allSprouts.foldl (fun t i => if (t.sprout i).ctx = some k then t.modSprout i fun x => { x with stopped := true } else t) s

theorem exec_contextTeardown_faulted (c : Ctx) (x : Nat) {s : State} (hs : s.stopped = false) (hf : (s.ctx c.val).fault.isSome = true)
    (hl : (s.ctx c.val).live = true) :
    exec (.contextTeardown c x) s = .next ((((((s.advance x).tearBegun c.val).tearFurrows c.val).flushQueues
      (s.ctx c.val).slot).dropWork c.val).stopSprouts c.val |>.noteApply s) := by
  refine (next_liveApply hs _).trans (congrArg (fun t : State => Host.Outcome.next (t.noteApply s)) ?_)
  dsimp only
  rw [State.advance_ctx, if_pos ⟨hf, hl⟩]
  rfl

theorem State.tearBegun_ctx (s : State) (k : Nat) : ((s.tearBegun k).ctx k).tearing = true ∧
    ((s.tearBegun k).ctx k).tearAt = s.sdl.ref := by
  unfold State.tearBegun
  rw [State.ctx_modCtx_same]
  exact ⟨rfl, rfl⟩

theorem State.tearBegun_event (s : State) (k : Nat) : (s.tearBegun k).event .pf pgRms 8 = true :=
  State.event_raise_self _ _ _ (by decide)

theorem State.Calm.modFurrow {r s : State} (h : r.Calm s) (k f : Nat) (g : Furrow → Furrow) : r.Calm (s.modFurrow k f g) :=
  h.same rfl rfl

theorem State.Calm.modSprout {r s : State} (h : r.Calm s) (i : SproutId) (f : SproutSt → SproutSt) : r.Calm (s.modSprout i f) :=
  h.same rfl rfl

theorem State.Calm.tearFurrows {r s : State} (h : r.Calm s) (k : Nat) : r.Calm (s.tearFurrows k) := by
  unfold State.tearFurrows
  extract_lets t
  have ht : r.Calm t := .foldl _ (fun u p hu => hu.modFurrow p.1 p.2 _) _ _ h
  exact ht.same rfl rfl

theorem State.Calm.flushQueues {r s : State} (h : r.Calm s) (slot : Option Nat) : r.Calm (s.flushQueues slot) := by
  cases slot with
  | none => exact h
  | some k => exact h.same rfl rfl

theorem State.Calm.stopSprouts {r s : State} (h : r.Calm s) (k : Nat) : r.Calm (s.stopSprouts k) := by
  unfold State.stopSprouts
  exact .foldl _ (fun _ i hu => .ite (hu.modSprout i _) hu) _ _ h

theorem State.flushQueues_empty (s : State) (k : Nat) :
    SMap.get queueUnlisted (s.flushQueues (some k)).thr.dec k = [] ∧ SMap.get queueUnlisted (s.flushQueues (some k)).thr.enc k = [] :=
  ⟨SMap.get_put_self queueUnlisted s.thr.dec k [], SMap.get_put_self queueUnlisted s.thr.enc k []⟩

/-- The Thresher has no part in what a teardown drops of Plots and Sprouts. -/
theorem State.stopSprouts_dropWork_thr (s : State) (k : Nat) : ((s.dropWork k).stopSprouts k).thr = s.thr := by
  have hkeep : LeavesThr s ((s.dropWork k).stopSprouts k) := by
    unfold State.stopSprouts
    exact foldl_keeps _ (fun _ _ hu => ite_keeps (State.modSprout_keeps hu) hu) _ _ (State.dropWork_keeps (Keeps.refl s))
  exact Keeps.thr_eq hkeep

theorem exec_teardownComplete_quiet (c : Ctx) (x : Nat) {s u : State} (hs : s.stopped = false) (hu : u = s.advance x)
    (ht : (s.ctx c.val).tearing = true) (hq : u.quiet c.val = true) :
    exec (.teardownComplete c x) s = .next ((u.kill c.val ((u.ctx c.val).fault.getD 0)).noteApply s) := by
  subst hu
  refine (next_liveApply hs _).trans (congrArg (fun t : State => Host.Outcome.next (t.noteApply s)) ?_)
  exact if_pos ⟨(congrFun (s.advance_ctx x) c.val).symm ▸ ht, hq⟩

/-- A context as a kill leaves it. -/
def CtxSt.killed (x : CtxSt) : CtxSt :=
  { x with
    st := .faulted, slot := none, awaitSlot := none, swapInWait := false, tearing := false, fault := none, carried := false
    furrows := [], deficits := [], lockMark := none
    steps := x.steps.map fun y => { y with ended := true, aborted := true } }

/-- A kill leaves its context FAULTED, whoever takes its slots next. -/
theorem State.kill_ctx (s : State) (k cause : Nat) : ∃ x : CtxSt, (s.kill k cause).ctx k = x.killed := by
  unfold State.kill
  extract_lets hold areas s1 s2 s3 s4 s5 s6 slots
  have hkilled : s6.ctx k = (s4.ctx k).killed :=
    (congrFun (State.ctx_left (State.debugEnd_keeps (Keeps.refl s5))) k).trans (s4.ctx_modCtx_same k _)
  refine ⟨s4.ctx k, ?_⟩
  rw [State.ctx_restagePace, State.foldl_freeSlot_ctx slots s6 (by rw [hkilled]; rfl), hkilled]

/-- Settles O54, command by command. -/
theorem slotsComplete : Obligations.SlotsComplete := by
  refine ⟨?commands, ?preempted, ?swapIn, ?blocked, ?teardown, ?killed⟩
  case commands =>
    intro v c s h hsees
    refine ⟨fun hres hl => ⟨_, exec_contextSwapOut_resident h hsees hres hl, s.beginSwapOut_ctx c.val⟩,
      fun hst hfree => ⟨_, exec_contextRestart_faulted h hsees hst hfree, ?_⟩⟩
    rw [State.ctx_noteApply, State.ctx_modCtx_same]
  case preempted =>
    intro c l x k s u hs hu hk hpre hl hall hquiet hsprouts
    refine ⟨_, exec_preemptionComplete_stopped c l x hs hu hk hpre hl hall hquiet hsprouts, ?_⟩
    rw [State.ctx_noteApply]
    exact State.leaveSlot_ctx _ c.val k
  case swapIn =>
    intro c ws l x k s u hs hu hk hwait hl
    have hctx : u.ctx = s.ctx := by rw [hu, State.advance_ctx]
    refine ⟨fun hno hnone => ⟨_, exec_swapIn_refused c ws l x hs hu hk hwait hl hno, ?_⟩, fun hmay hown hheld hok howed =>
      ⟨_, exec_swapIn_placed c ws l x hs hu hk hwait hl hmay hown hheld hok howed, ?_⟩⟩
    · rw [State.ctx_noteApply, u.faultCtx_fault c.val 0x1B (by rwa [hctx]), hctx, hnone]
      rfl
    · have hflying := CtxSt.flying_core (u.swapRestored_ctx c.val k ws l c.val)
      rw [hctx] at hflying
      rw [State.ctx_noteApply, State.ctx_restagePace, State.ctx_modCtx_same, ← hflying]
      exact ⟨rfl, rfl, rfl, rfl⟩
  case blocked =>
    intro c x s u hs hu hst hnone hwaits
    have hctx : u.ctx = s.ctx := by rw [hu, State.advance_ctx]
    refine ⟨_, exec_contextBlocked_waits c x hs hu hst (by rw [State.waitsNow, hctx]; exact hwaits), ?_⟩
    have hstay : ∀ d < 64, ((u.modCtx c.val fun y => { y with st := .blocked }).ctx d).st ≠ .deferred := by
      intro d hd
      rw [State.ctx_modCtx, hctx]
      split
      · exact nofun
      · exact hnone d hd
    rw [State.ctx_noteApply, State.retryDeferred_none hstay, State.ctx_modCtx_same]
  case teardown =>
    intro c x s hs hf hl
    refine ⟨_, exec_contextTeardown_faulted c x hs hf hl, ?_⟩
    obtain ⟨htearing, hat⟩ := (s.advance x).tearBegun_ctx c.val
    have hcalm := ((((State.Calm.refl ((s.advance x).tearBegun c.val)).tearFurrows c.val).flushQueues (s.ctx c.val).slot).dropWork
      c.val).stopSprouts c.val
    rw [State.ctx_noteApply, State.noteApply_event, State.noteApply_thr, State.stopSprouts_dropWork_thr]
    refine ⟨(hcalm.tearing c.val).trans htearing, ((hcalm.tearAt c.val).trans hat).trans (s.advance_ref x),
      hcalm.heard.2 _ _ _ (State.tearBegun_event _ _), fun k hk => ?_⟩
    rw [hk]
    exact State.flushQueues_empty _ k
  case killed =>
    intro c x s u hs hu ht hq
    refine ⟨_, exec_teardownComplete_quiet c x hs hu ht hq, ?_⟩
    obtain ⟨y, hy⟩ := u.kill_ctx c.val ((u.ctx c.val).fault.getD 0)
    rw [State.ctx_noteApply, hy]
    exact ⟨rfl, rfl, rfl, rfl⟩

end Sys2Proof.Machine
end

section
/-!
PROOF. The ring's links: frames and their acknowledgement, training, loss, spare lanes and route-away (14 R341 to R345, R352): O56.
-/

namespace Sys2Proof.Machine

open Sys2Proof

/-! ### Links elsewhere (R341) -/

/-- A link elsewhere is as it has been recorded once the routes have followed (R341). -/
theorem State.reroute_link (s : State) (w x : Nat) :
    SMap.get zeroUnlisted
      (({ s with ring := { s.ring with links := SMap.put zeroUnlisted s.ring.links w x } } : State).reroute).ring.links w = x := by
  rw [State.reroute_links]
  exact SMap.get_put_self zeroUnlisted s.ring.links w x

/-! ### Frames (R344) -/

/-- The state that a frame meets: the time and the levels of the port's FIFOs are taken in (07 R182). -/
def State.atFrame (s : State) (east : Bool) (rx tx x : Nat) : State :=
  ((s.advance x).setLevel (32 + bit (!east)) rx).setLevel (34 + bit (!east)) tx

@[simp] theorem State.atFrame_ring (s : State) (east : Bool) (rx tx x : Nat) : (s.atFrame east rx tx x).ring = s.ring := by
  rw [State.atFrame, State.setLevel_ring, State.setLevel_ring]
  rfl

/-- The state in which a frame in its order has been acknowledged. -/
def State.acked (s : State) (east : Bool) (seq : Nat) : State :=
  (s.modPort east fun q => { q with rxSeq := (q.rxSeq + 1) % 4096 }).emit (Sent.ring (bit (!east)) [0, seq, 0])

theorem State.acked_port (s : State) (east : Bool) (seq : Nat) : (s.acked east seq).ring.port east =
    { s.ring.port east with rxSeq := ((s.ring.port east).rxSeq + 1) % 4096 } :=
  s.modPort_self east fun q => { q with rxSeq := (q.rxSeq + 1) % 4096 }

/-- An acknowledgement frees the frames up to its number. -/
theorem State.control_ack_port (s : State) (east : Bool) (ack : Nat) : (s.control east ack false).ring.port east =
    { s.ring.port east with hold := ackFrames (s.ring.port east).hold ack, ackAt := s.sdl.ref } :=
  s.modPort_self east fun q => { q with hold := ackFrames q.hold ack, ackAt := s.sdl.ref }

section
variable {east : Bool} {s : State} (seq ack rx tx x : Nat) (hs : s.stopped = false) (hup : (s.ring.port east).st = .up)
include hs hup

theorem exec_ringFrameReceive_badCrc (nack : Bool) (onward : List (List (BitVec 8))) :
    exec (.ringFrameReceive east false seq ack nack onward rx tx x) s = .next
      (((s.atFrame east rx tx x).bump pgPsf 0x40 none).emit (Sent.ring (bit (!east)) [0, (s.ring.port east).rxSeq, 1])) := by
  refine (next_live hs _).trans (congrArg Host.Outcome.next ?_)
  dsimp only
  rw [← State.atFrame, State.atFrame_ring]
  exact (if_neg (not_not_intro hup)).trans (if_neg Bool.false_ne_true)

/-- A frame in its order that carries nothing further is acknowledged; where the rest of a packet was to be dropped, this was it. -/
theorem exec_ringFrameReceive_inOrder (hseq : seq = (s.ring.port east).rxSeq) :
    ∃ u : State, u = ((s.atFrame east rx tx x).control east ack false).acked east seq ∧
      exec (.ringFrameReceive east true seq ack false [] rx tx x) s = .next
        (if u.dropsRest (32 + bit (!east)) then u.restDropped (32 + bit (!east)) else u) := by
  refine ⟨_, rfl, (next_live hs _).trans (congrArg Host.Outcome.next ?_)⟩
  dsimp only
  rw [← State.atFrame, State.atFrame_ring]
  refine (if_neg (not_not_intro hup)).trans ((if_pos rfl).trans ((if_pos hseq).trans ?_))
  rw [List.drop_nil, ite_self, List.foldl_nil]
  rfl

theorem exec_ringFrameReceive_outOfOrder (hseq : seq ≠ (s.ring.port east).rxSeq) (onward : List (List (BitVec 8))) :
    exec (.ringFrameReceive east true seq ack false onward rx tx x) s = .next ((s.atFrame east rx tx x).control east ack false) := by
  refine (next_live hs _).trans (congrArg Host.Outcome.next ?_)
  dsimp only
  rw [← State.atFrame, State.atFrame_ring]
  exact (if_neg (not_not_intro hup)).trans ((if_pos rfl).trans (if_neg hseq))

end

/-- What follows an acknowledgement that has been sent leaves the ring and the trace. -/
theorem State.ite_restDropped_ring_hub (s : State) (c : Prop) [Decidable c] (g : Nat) :
    (if c then s.restDropped g else s).ring = s.ring ∧ (if c then s.restDropped g else s).hub = s.hub := by
  split <;> exact ⟨rfl, rfl⟩

/-! ### RING_ACK_TIMEOUT (R344) -/

/-- Whether a port has waited too long for an acknowledgement at a time. -/
def RingPort.overdue (p : RingPort) (now : Nat) : Prop :=
  p.st = .up ∧ p.hold ≠ [] ∧ (p.ackAt + 10000 * nsRef ≤ now ∨ ∃ f ∈ p.hold, 8 ≤ f.resent)

theorem exec_ringAckTimeout_overdue {east : Bool} {x : Nat} {s : State} (hs : s.stopped = false)
    (h : (s.ring.port east).overdue (max s.sdl.ref x)) : exec (.ringAckTimeout east x) s = .next ((s.advance x).retrain east) := by
  obtain ⟨hup, hheld, hlate⟩ := h
  rw [← s.advance_ref x] at hlate
  refine (next_live hs _).trans (congrArg Host.Outcome.next (if_pos ⟨hup, hheld, hlate.imp_right fun hf => ?_⟩))
  simpa using hf

theorem exec_ringAckTimeout_inTime {east : Bool} {x : Nat} {s : State} (hs : s.stopped = false)
    (h : ¬ (s.ring.port east).overdue (max s.sdl.ref x)) : exec (.ringAckTimeout east x) s = .next (s.advance x) := by
  refine (next_live hs _).trans (congrArg Host.Outcome.next (if_neg ?_))
  rintro ⟨hup, hheld, hlate⟩
  rw [s.advance_ref x] at hlate
  exact h ⟨hup, hheld, hlate.imp_right fun hf => by simpa using hf⟩

/-! ### RING_TRAIN_DONE, RING_LINK_LOSS (R341, R343) -/

/-- A position is known to be present. -/
def State.present (s : State) (k : Nat) : State := { s with ring := { s.ring with present := Nat.lor s.ring.present (2 ^ k) } }

@[simp] theorem State.present_port (s : State) (k : Nat) (east : Bool) : (s.present k).ring.port east = s.ring.port east := by
  cases east <;> rfl

/-- The position next to a device. -/
def State.neighbour (s : State) (east : Bool) : Nat :=
  if east then (s.ringPos + 1) % s.ringN else (s.ringPos + s.ringN - 1) % s.ringN

section
variable {east : Bool} {far : Fin 8} {size rate : Nat} {s : State} (hs : s.stopped = false) (htrain : (s.ring.port east).st = .training)
include hs htrain

theorem exec_ringTrainDone_own (hsize : size = s.ringN - 1) (hfar : far.val = s.neighbour east)
    (hrate : rate = 0 ∨ rate = s.cfg pgPsf 0x100 1 1) : exec (.ringTrainDone (.own east) far size rate) s = .next
      ((s.present far.val).portChange east fun p => { p with st := .up, far := far.val, rate := rate, rxSeq := 0, txSeq := 0 }) :=
  (next_live hs _).trans (congrArg Host.Outcome.next ((if_neg (not_not_intro htrain)).trans (if_pos ⟨hsize, hfar, hrate⟩)))

theorem exec_ringTrainDone_mismatch (hsize : size ≠ s.ringN - 1) :
    exec (.ringTrainDone (.own east) far size rate) s = .next (s.raise pgPsf 9 none) :=
  (next_live hs _).trans (congrArg Host.Outcome.next ((if_neg (not_not_intro htrain)).trans
    ((if_neg fun h => hsize h.1).trans (if_neg fun h => hsize h.1))))

end

section
variable {s : State} (hs : s.stopped = false)
include hs

theorem exec_ringTrainDone_other (w far : Fin 8) (size rate : Nat) : exec (.ringTrainDone (.other w) far size rate) s = .next
    (({ (s.present w.val).present far.val with ring := { ((s.present w.val).present far.val).ring with
      links := SMap.put zeroUnlisted ((s.present w.val).present far.val).ring.links w.val
        (rateCost rate + 8 * bit (decide (far.val = (w.val + 2) % s.ringN ∧ 2 < s.ringN))) } } : State).reroute) :=
  next_live hs _

theorem exec_ringLinkLoss_other (w : Fin 8) : exec (.ringLinkLoss (.other w)) s = .next
    (({ s with ring := { s.ring with links := SMap.put zeroUnlisted s.ring.links w.val 0 } } : State).reroute) :=
  next_live hs _

theorem exec_ringLinkLoss_own (east : Bool) : exec (.ringLinkLoss (.own east)) s = .next
    (s.portChange east fun p => { p with st := s.unlinked, hold := [], rate := 3 }) :=
  next_live hs _

end

/-! ### LANE_SWAP (R345) -/

section
variable {east : Bool} {lane : Fin 8} {s : State} {off : Nat} (hs : s.stopped = false) (hoff : off = 0x110 + 4 * bit (!east))
include hs hoff

theorem exec_laneSwap_spareFree (hfree : s.flag pgPsf off 3 = false) : exec (.laneSwap east lane) s = .next
    { s with gate := { s.gate with act := SMap.put actUnlisted s.gate.act (regAddr pgPsf off) (BitVec.ofNat 32 (lane.val + 8)) } } := by
  subst hoff
  exact (next_live hs _).trans (congrArg Host.Outcome.next (if_neg (ne_true_of_eq_false hfree)))

theorem exec_laneSwap_sameLane (hused : s.flag pgPsf off 3 = true) (hlane : s.cfg pgPsf off 0 3 = lane.val) :
    exec (.laneSwap east lane) s = .next s := by
  subst hoff
  exact (next_live hs _).trans (congrArg Host.Outcome.next ((if_pos hused).trans (if_pos hlane)))

theorem exec_laneSwap_otherLane (hused : s.flag pgPsf off 3 = true) (hlane : s.cfg pgPsf off 0 3 ≠ lane.val) :
    exec (.laneSwap east lane) s = .next
      ((((s.retrain east).modPort east fun p => { p with x4 := true }).raise pgPsf 14 none).record pgPsf 33 [bit (!east), lane.val]) := by
  subst hoff
  exact (next_live hs _).trans (congrArg Host.Outcome.next ((if_pos hused).trans (if_neg hlane)))

end

/-! ### ROUTE_AWAY (R352) -/

theorem exec_routeAway_pf {v : View} {s : State} (h : s.takes v = true) (hv : isVf v = false) (east : Bool) :
    exec (.routeAway v east) s = .next (s.portChange east fun p => { p with away := true, awayOwed := true }) :=
  next_commanded h pgPsf (ok := fun _ => !isVf v) (congrArg not hv) _

theorem exec_resume_pf {v : View} {s : State} (h : s.takes v = true) (hv : isVf v = false) (east : Bool) :
    exec (.resume v east) s = .next (s.portChange east fun p => { p with away := false, awayOwed := false }) :=
  next_commanded h pgPsf (ok := fun _ => !isVf v) (congrArg not hv) _

theorem exec_routeAwayDone_owed {east : Bool} {s : State} (hs : s.stopped = false) (howed : (s.ring.port east).awayOwed = true)
    (hempty : (s.ring.port east).hold = [] ∨ (s.ring.port east).st ≠ .up) : exec (.routeAwayDone east) s = .next
      ((s.modPort east fun q => { q with awayOwed := false }).raise pgPsf 12 none) :=
  (next_live hs _).trans (congrArg Host.Outcome.next (if_pos ⟨howed, hempty⟩))

theorem exec_routeAwayDone_notYet {east : Bool} {s : State} (hs : s.stopped = false)
    (hno : ¬ ((s.ring.port east).awayOwed = true ∧ ((s.ring.port east).hold = [] ∨ (s.ring.port east).st ≠ .up))) :
    exec (.routeAwayDone east) s = .next s :=
  (next_live hs _).trans (congrArg Host.Outcome.next (if_neg hno))

/-- Settles O56, command by command. That a good frame of another number leaves the number rests on log 95. -/
theorem ringLinksComplete : Obligations.RingLinksComplete := by
  refine ⟨?frames, ?ackTimeout, ?trained, ?elsewhere, ?laneSwap, ?routeAway, ?routeAwayDone⟩
  case frames =>
    intro east seq ack rx tx x s hs hup
    have hport : ((s.atFrame east rx tx x).control east ack false).ring.port east =
        { s.ring.port east with hold := ackFrames (s.ring.port east).hold ack, ackAt := (s.atFrame east rx tx x).sdl.ref } := by
      rw [State.control_ack_port, State.atFrame_ring]
    refine ⟨fun nack onward => ⟨_, exec_ringFrameReceive_badCrc seq ack rx tx x hs hup nack onward, s.atFrame_ring east rx tx x,
      State.emitted_ring _ _ _⟩, fun hseq => ?_, fun hseq onward =>
      ⟨_, exec_ringFrameReceive_outOfOrder seq ack rx tx x hs hup hseq onward, ?_, ?_⟩⟩
    · obtain ⟨u, hu, hexec⟩ := exec_ringFrameReceive_inOrder seq ack rx tx x hs hup hseq
      obtain ⟨hring, hhub⟩ := u.ite_restDropped_ring_hub (u.dropsRest (32 + bit (!east)) = true) (32 + bit (!east))
      refine ⟨_, hexec, ?_, ?_, ?_⟩
      · rw [hring, hu, State.acked_port, hport, hseq]
      · rw [hring, hu, State.acked_port, hport]
      · rw [hhub, hu]
        exact State.emitted_ring _ _ _
    · rw [hport]
    · rw [hport]
  case ackTimeout =>
    intro east x s p hs hp
    subst hp
    refine ⟨fun h => ⟨_, exec_ringAckTimeout_overdue hs h, (s.advance x).retrain_of east⟩,
      fun h => ⟨_, exec_ringAckTimeout_inTime hs ?_, rfl⟩⟩
    rintro ⟨hup, hheld, hlate⟩
    obtain h | h | ⟨hin, hfew⟩ := h
    · exact h hup
    · exact hheld h
    · obtain hlate | ⟨f, hf, hmany⟩ := hlate
      · omega
      · exact absurd hmany (Nat.not_le.2 (hfew f hf))
  case trained =>
    intro east far rate s n hs hn htrain
    subst hn
    refine ⟨fun hfar hrate => ⟨_, exec_ringTrainDone_own hs htrain rfl hfar hrate, ?_⟩, fun size hsize =>
      ⟨_, exec_ringTrainDone_mismatch hs htrain hsize, rfl, State.event_raise_self _ _ _ (by decide)⟩⟩
    rw [State.portChange_self, State.present_port]
  case elsewhere =>
    intro w far size rate east s hs
    exact ⟨⟨_, exec_ringTrainDone_other hs w far size rate, State.reroute_link _ _ _⟩,
      ⟨_, exec_ringLinkLoss_other hs w, State.reroute_link _ _ _⟩, ⟨_, exec_ringLinkLoss_own hs east, State.portChange_self _ _ _⟩⟩
  case laneSwap =>
    intro east lane s off hs hoff
    refine ⟨fun hfree => ⟨_, exec_laneSwap_spareFree hs hoff hfree, SMap.get_put_self actUnlisted s.gate.act _ _, rfl⟩,
      exec_laneSwap_sameLane hs hoff, fun hused hlane => ⟨_, exec_laneSwap_otherLane hs hoff hused hlane, ?_⟩⟩
    obtain ⟨hport, hevent⟩ := s.retrain_of east
    have hgate : LeavesGate s ((((s.retrain east).modPort east fun p => { p with x4 := true }).raise pgPsf 14 none).record pgPsf 33
        [bit (!east), lane.val]) :=
      State.record_keeps (State.raise_keeps (State.modPort_keeps (State.retrain_keeps (Keeps.refl s))))
    have hheard := State.Heard.refl (s.retrain east) |>.modPort east (fun p => { p with x4 := true }) |>.raise pgPsf 14 none
    refine ⟨Keeps.gate_eq hgate, ((s.retrain east).modPort_self east fun p => { p with x4 := true }).trans (by rw [hport]), ?_, ?_,
      State.recorded _ _ _ _⟩
    · exact (hheard.record _ _ _).2 _ _ _ hevent
    · exact State.event_record _ _ _ _ _ _ _ (State.event_raise_self _ _ _ (by decide))
  case routeAway =>
    intro v east s h hv
    exact ⟨⟨_, exec_routeAway_pf h hv east, State.portChange_self _ _ _⟩, ⟨_, exec_resume_pf h hv east, State.portChange_self _ _ _⟩⟩
  case routeAwayDone =>
    intro east s p hs hp
    subst hp
    refine ⟨fun ⟨howed, hempty⟩ => ⟨_, exec_routeAwayDone_owed hs howed hempty, s.modPort_self east fun q => { q with awayOwed := false },
      State.event_raise_self _ _ _ (by decide)⟩, fun h => exec_routeAwayDone_notYet hs ?_⟩
    rintro ⟨howed, hempty⟩
    obtain h | ⟨hheld, hup⟩ := h
    · exact Bool.false_ne_true (h.symm.trans howed)
    · exact hempty.elim hheld fun hdown => hdown hup

end Sys2Proof.Machine
end

section
/-!
PROOF. The ring's packets: requests served and answered, responses taken, and requests sent again (14 R346 to R350): O57.
-/

namespace Sys2Proof.Machine

open Sys2Proof

/-! ### Routes and answers (R341, R346, R350) -/

/-- A state after another with all that routes and the protection of packets depend on as before. -/
abbrev LeavesRoutes (r t : State) : Prop :=
  Keeps True True True False True True True True True True True True False True True False True True r t

/-- The state as far as routes see it: the ring's links and the straps. -/
def State.ringOnly (s : State) : State := { ring := s.ring, pwr := s.pwr }

theorem State.eastCost_ringOnly (s : State) (k : Nat) : ∀ fuel p, s.eastCost k fuel p = s.ringOnly.eastCost k fuel p
  | 0, _ => rfl
  | fuel + 1, p => by
    rw [State.eastCost, State.eastCost]
    simp only [State.eastCost_ringOnly s k fuel]
    rfl

theorem State.westCost_ringOnly (s : State) (k : Nat) : ∀ fuel p, s.westCost k fuel p = s.ringOnly.westCost k fuel p
  | 0, _ => rfl
  | fuel + 1, p => by
    have hinto : s.ringOnly.linkInto p = s.linkInto p := rfl
    rw [State.westCost, State.westCost, hinto]
    cases s.linkInto p with
    | none => rfl
    | some l => simp only [State.westCost_ringOnly s k fuel]

theorem State.routeTo_ringOnly (s : State) : s.routeTo = s.ringOnly.routeTo := by
  funext k
  have hn : s.ringOnly.ringN = s.ringN := rfl
  have hpos : s.ringOnly.ringPos = s.ringPos := rfl
  rw [State.routeTo, State.routeTo, State.eastCost_ringOnly, State.westCost_ringOnly, hn, hpos]

theorem State.routeTo_left {s t : State} (h : LeavesRoutes s t) : t.routeTo = s.routeTo := by
  rw [State.routeTo_ringOnly, State.routeTo_ringOnly s, State.ringOnly, Keeps.ring_eq h, Keeps.pwr_eq h, State.ringOnly]

theorem State.ringPos_left {s t : State} (h : LeavesRoutes s t) : t.ringPos = s.ringPos := by
  rw [State.ringPos, State.ringN, Keeps.pwr_eq h, ← State.ringN, ← State.ringPos]

/-- The bytes of an answer without protection to a request. -/
def State.answer (s : State) (h status : Nat) (data : List (BitVec 8)) : List (BitVec 8) :=
  natLe 32 (ringHeader 3 s.ringPos (fieldOf h 4 3) 0 0 (fieldOf h 24 6) (fieldOf h 30 1) (fieldOf h 32 8) (fieldOf h 40 4)
    (data.length - 1) status (fieldOf h 64 40) 0) ++ data

/-- A packet of these bytes has left by a port. -/
def State.Launched (t : State) (east : Bool) (bytes : List (BitVec 8)) : Prop :=
  Sent.ring (bit (!east)) [bytes.length, leNat bytes] ∈ t.hub.out

theorem State.launch_launched (s : State) (east : Bool) (bytes : List (BitVec 8)) : (s.launch east bytes).Launched east bytes :=
  State.emitted_ring (s.bumpBy pgPsf 0x78 none bytes.length) _ _

/-- The sender of a request is reached by a port, and the partition of its context sends without protection. -/
structure State.AnswersBy (s : State) (h : Nat) (east : Bool) : Prop where
  route : s.routeTo (fieldOf h 4 3) = some east
  plain : s.cfg pgPsf (0x200 + 0x10 * s.partOf (fieldOf h 24 6)) 0 1 = 0

theorem State.AnswersBy.left {s t : State} {h : Nat} {east : Bool} (ha : s.AnswersBy h east) (hk : LeavesRoutes s t) :
    t.AnswersBy h east := by
  refine ⟨(congrFun (State.routeTo_left hk) _).trans ha.route, ?_⟩
  rw [State.cfg, State.partOf, Keeps.gate_eq hk]
  exact ha.plain

theorem State.AnswersBy.respond {s : State} {h : Nat} {east : Bool} (ha : s.AnswersBy h east) (status : Nat) (data : List (BitVec 8)) :
    s.respond h status data = s.launch east (s.answer h status data) := by
  have henc : ¬ s.cfg pgPsf (0x200 + 0x10 * s.partOf (fieldOf h 24 6)) 0 1 = 1 := by rw [ha.plain]; decide
  rw [State.respond, State.sendPacket, ha.route]
  exact congrArg (Option.getD · s) (if_neg henc)

/-- An answer leaves by the sender's port, whatever has been done since that leaves the routes. -/
theorem State.AnswersBy.launched {s t : State} {h : Nat} {east : Bool} (ha : s.AnswersBy h east) (hk : LeavesRoutes s t) (status : Nat)
    (data : List (BitVec 8)) : (t.respond h status data).Launched east (s.answer h status data) := by
  have hsame : t.answer h status data = s.answer h status data := by rw [State.answer, State.ringPos_left hk, State.answer]
  rw [(ha.left hk).respond, hsame]
  exact t.launch_launched east _

theorem State.respond_mem (s : State) (h status : Nat) (data : List (BitVec 8)) : (s.respond h status data).mem = s.mem :=
  Keeps.mem_eq (State.respond_keeps (Keeps.refl s) : LeavesMem s _)

/-- A request that is refused is counted and answered, and memory stays. -/
theorem State.AnswersBy.refused {s : State} {h : Nat} {east : Bool} (ha : s.AnswersBy h east) (n off status : Nat) :
    (((s.bumpBy pgPsf 0x80 none n).bump pgPsf off none).respond h status []).mem = s.mem ∧
      (((s.bumpBy pgPsf 0x80 none n).bump pgPsf off none).respond h status []).Launched east (s.answer h status []) :=
  ⟨State.respond_mem _ _ _ _, ha.launched (State.bump_keeps (State.bumpBy_keeps (Keeps.refl s))) status []⟩

/-! ### Requests served (R348, R349) -/

theorem State.openPacket_plain {s : State} {h : Nat} (hplain : fieldOf h 11 1 = 0) (body : List (BitVec 8)) :
    s.openPacket h body = (some (true, body), s) := if_pos hplain

/-- A packet without protection is one that a partition without protection accepts. -/
theorem State.packetOk_plain {s : State} {h c : Nat} (hplain : fieldOf h 11 1 = 0)
    (hpart : s.cfg pgPsf (0x200 + 0x10 * s.partOf c) 0 1 = 0) : s.packetOk h c = true := by
  have hkey : ¬ fieldOf h 11 1 = 1 := by rw [hplain]; decide
  exact (if_neg hkey).trans (decide_eq_true hpart)

section
variable {h : Nat} {body : List (BitVec 8)} {s u : State} {write : Bool} {f : Place → Nat → List (BitVec 8) → State → State}
  (hplain : fieldOf h 11 1 = 0) (hu : u = s.bumpBy pgPsf 0x80 none (32 + body.length))
include hplain hu

theorem State.serveRing_notResident (hslot : (s.ctx (fieldOf h 24 6)).slot = none) :
    s.serveRing h body write f = (u.bump pgPsf 0x70 none).respond h 1 [] := by
  have hslot' : (u.ctx (fieldOf h 24 6)).slot = none := hu ▸ hslot
  unfold State.serveRing
  simp only [← hu, State.openPacket_plain hplain, hslot']

variable {k : Nat} (hslot : (s.ctx (fieldOf h 24 6)).slot = some k)
include hslot

theorem State.serveRing_denied
    (hplace : u.packetPlace h (fieldOf h 24 6) (2 * k + fieldOf h 30 1) (fieldOf h 48 8 + 1) write = none) :
    s.serveRing h body write f = (u.bump pgPsf 0x68 none).respond h 2 [] := by
  have hslot' : (u.ctx (fieldOf h 24 6)).slot = some k := hu ▸ hslot
  unfold State.serveRing
  simp only [← hu, State.openPacket_plain hplain, hslot', hplace]

theorem State.serveRing_placed {p : Place} (hok : u.packetOk h (fieldOf h 24 6) = true)
    (hplace : u.packetPlace h (fieldOf h 24 6) (2 * k + fieldOf h 30 1) (fieldOf h 48 8 + 1) write = some p) :
    s.serveRing h body write f = f p (2 * k + fieldOf h 30 1) body u := by
  have hslot' : (u.ctx (fieldOf h 24 6)).slot = some k := hu ▸ hslot
  unfold State.serveRing
  simp only [← hu, State.openPacket_plain hplain, hslot', hplace]
  exact if_pos ⟨trivial, hok⟩

end

/-- RING_READ is served at its place; of DRAM it answers what the read returns. -/
theorem exec_ringRead_served (h : Nat) (body : List (BitVec 8)) {s : State} (hs : s.stopped = false) :
    ∃ f, exec (.ringRead h body) s = .next (s.serveRing h body false f) ∧ ∀ a e b d u w,
      u.dramRead (some (fieldOf h 24 6)) a (fieldOf h 48 8 + 1) = (some d, w) → f (.dram a) e b u = w.respond h 0 d := by
  refine ⟨_, next_live hs _, fun a e b d u w hread => ?_⟩
  dsimp only
  rw [hread]

/-- RING_WRITE is served at its place; a write of DRAM is answered with OK. -/
theorem exec_ringWrite_served (h : Nat) (body : List (BitVec 8)) {s : State} (hs : s.stopped = false) :
    ∃ f, exec (.ringWrite h body) s = .next (s.serveRing h body true f) ∧ ∀ a e b u, f (.dram a) e b u =
      ((u.dramWrite (some (fieldOf h 24 6)) a (natLe (fieldOf h 48 8 + 1) (leNat b))).wsetTouch (a - dramBase)
        (natLe (fieldOf h 48 8 + 1) (leNat b)).length).respond h 0 [] :=
  ⟨_, next_live hs _, fun _ _ _ _ => rfl⟩

/-! ### Responses (R350) -/

/-- What a response of a status does about the request that it answers. -/
def State.ringAnswered (s : State) (r : Request) (pool : Pool) (body : List (BitVec 8)) : Nat → State
  | 0 => s.complete r (some body) 0
  | 1 => { s with irg := { s.irg with
      requests := s.irg.requests.map fun (q : Request) => if q = r then { q with notRes := true } else q } }
  | k => ((if r.dead then s.dropRequest r else
      (s.dropRequest r).furrowFault r.irg r.furrow (if k = 2 then 0x17 else 0x16)).grantWaiting pool).settleIrg r.irg

section
variable {east : Bool} {h : Nat} (x : Nat) {body : List (BitVec 8)} {s u : State} {pool : Pool} (hs : s.stopped = false)
  (hplain : fieldOf h 11 1 = 0) (hpool : pool = if east then 9 else 10)
  (hu : u = (s.advance x).bumpBy pgPsf 0x80 none (32 + body.length))
include hs hplain hpool hu

theorem exec_ringResp_unknown (hr : s.request? pool (fieldOf h 32 8) = none) : exec (.ringResp east h body x) s = .next u := by
  have hr' : u.request? pool (fieldOf h 32 8) = none := hu ▸ hr
  refine (next_live hs _).trans (congrArg Host.Outcome.next ?_)
  simp only [← hu, ← hpool, State.openPacket_plain hplain, hr']

variable {r : Request} (hr : s.request? pool (fieldOf h 32 8) = some r)
include hr

theorem exec_ringResp_late (hgen : r.gen ≠ fieldOf h 40 4) :
    exec (.ringResp east h body x) s = .next ((u.bump (pgIrg r.irg) 0x78 none).raise (pgIrg r.irg) 13 none) := by
  have hr' : u.request? pool (fieldOf h 32 8) = some r := hu ▸ hr
  refine (next_live hs _).trans (congrArg Host.Outcome.next ?_)
  simp only [← hu, ← hpool, State.openPacket_plain hplain, hr']
  exact if_pos hgen

theorem exec_ringResp_live (hgen : r.gen = fieldOf h 40 4) (hpart : s.cfg pgPsf (0x200 + 0x10 * s.partOf r.ctx) 0 1 = 0) :
    exec (.ringResp east h body x) s = .next (u.ringAnswered r pool body (fieldOf h 56 3)) := by
  have hr' : u.request? pool (fieldOf h 32 8) = some r := hu ▸ hr
  have hok : u.packetOk h r.ctx = true := State.packetOk_plain hplain (hu ▸ hpart)
  refine (next_live hs _).trans (congrArg Host.Outcome.next ?_)
  simp only [← hu, ← hpool, State.openPacket_plain hplain, hr']
  exact (if_neg (not_not_intro hgen)).trans (if_neg (ne_false_of_eq_true hok))

end

/-- An answer that refuses a live request faults its Furrow. -/
theorem State.ringAnswered_refused (s : State) {r : Request} (pool : Pool) (body : List (BitVec 8)) {k : Nat} (hk : 2 ≤ k)
    (hlive : r.dead = false) : ((s.ringAnswered r pool body k).furrow r.irg r.furrow).st = .faulted := by
  obtain ⟨k, rfl⟩ := Nat.exists_eq_add_of_le' hk
  refine State.settleIrg_faulted _ _ _ ?_
  rw [State.furrow_grantWaiting, hlive, if_neg Bool.false_ne_true]
  exact State.furrowFault_st _ _ _ _

/-- A live read of another position, whose data the response brings. -/
structure State.LivePeerRead (s : State) (r : Request) : Prop where
  dead : r.dead = false
  data : r.data = none
  spill : r.spill = false
  place : ∃ k o, s.srcPlace r.irg (s.furrow r.irg r.furrow) r.src r.len = .peer k o

theorem State.LivePeerRead.placeRead {s : State} {r : Request} (h : s.LivePeerRead r) (d : Option (List (BitVec 8))) :
    (s.dropRequest r).placeRead r.irg r.furrow ((s.dropRequest r).srcPlace r.irg (s.furrow r.irg r.furrow) r.src r.len) r.pos r.len d =
      (d, s.dropRequest r) := by
  obtain ⟨k, o, hplace⟩ := h.place
  have hsame : s.SamePlaces (s.dropRequest r) := .of_keeps (State.dropRequest_keeps (Keeps.refl s))
  rw [hsame.src, hplace]
  rfl

/-- Data of a live read that their Furrow may not pass on yet join its staging (07 R167). -/
theorem State.LivePeerRead.complete_staged {s : State} {r : Request} {q : Piece} (h : s.LivePeerRead r) (d : List (BitVec 8))
    (hq : q = { tile := r.tile, dst := r.dst, data := natLe r.len (leNat d), pos := r.pos, xlat := r.dxlat })
    (hready : (s.furrow r.irg r.furrow).ready q = false) :
    ((s.complete r (some d) 0).furrow r.irg r.furrow).stage = (s.furrow r.irg r.furrow).stage ++ [q] := by
  have hread := h.placeRead (some (natLe r.len (leNat d)))
  have harrive : (s.dropRequest r).arrive r.irg r.furrow q 0 =
      (s.dropRequest r).modFurrow r.irg r.furrow fun x => { x with stage := x.stage ++ [q] } :=
    if_neg (ne_true_of_eq_false hready)
  simp only [State.complete, h.dead, h.data, h.spill, State.furrow_dropRequest, Option.map_some, hread, Bool.false_eq_true,
    if_false, ← hq, harrive]
  refine State.settleIrg_furrow (fun z => z.stage = (s.furrow r.irg r.furrow).stage ++ [q]) (fun z hz => ?_) _ _ _ ?_
  · obtain ⟨-, -, -, -, -, -, -, hstage, -⟩ := z.settle_same
    exact hstage.trans hz
  · rw [State.furrow_grantWaiting, State.furrow_modFurrow_self]
    rfl

/-! ### NOT_RESIDENT_RESEND (R350) -/

/-- A request as it is sent again at a time: under the same tag, and no longer marked. -/
def Request.again (r : Request) (now : Nat) : Request := { r with notRes := false, sentAt := now }

/-- A request in flight is changed into another. -/
def State.setRequest (s : State) (r q : Request) : State :=
  { s with irg := { s.irg with requests := s.irg.requests.map fun (y : Request) => if y = r then q else y } }

section
variable {east : Bool} {tag : Fin 256} {x : Nat} {s : State} {pool : Pool} (hs : s.stopped = false) (hpool : pool = if east then 9 else 10)
include hs hpool

theorem exec_notResidentResend_unknown (hr : s.request? pool tag.val = none) :
    exec (.notResidentResend east tag x) s = .next (s.advance x) := by
  have hr' : (s.advance x).request? pool tag.val = none := hr
  refine (next_live hs _).trans (congrArg Host.Outcome.next ?_)
  simp only [← hpool, hr']

variable {r : Request} (hr : s.request? pool tag.val = some r)
include hr

theorem exec_notResidentResend_due (hmark : r.notRes = true) (hdue : r.sentAt + 1000 * nsRef ≤ max s.sdl.ref x) :
    exec (.notResidentResend east tag x) s =
      .next (((s.advance x).setRequest r (r.again (max s.sdl.ref x))).send (r.again (max s.sdl.ref x))) := by
  have hr' : (s.advance x).request? pool tag.val = some r := hr
  refine (next_live hs _).trans (congrArg Host.Outcome.next ?_)
  simp only [← hpool, hr', State.advance_ref]
  exact if_pos ⟨hmark, hdue⟩

theorem exec_notResidentResend_early (hno : ¬ (r.notRes = true ∧ r.sentAt + 1000 * nsRef ≤ max s.sdl.ref x)) :
    exec (.notResidentResend east tag x) s = .next (s.advance x) := by
  have hr' : (s.advance x).request? pool tag.val = some r := hr
  refine (next_live hs _).trans (congrArg Host.Outcome.next ?_)
  simp only [← hpool, hr', State.advance_ref]
  exact if_neg hno

end

/-- Settles O57, command by command: a request by whether its context is resident and its place accepted, a response by the request that
it answers and its status. -/
theorem ringPacketsComplete : Obligations.RingPacketsComplete := by
  refine ⟨?served, ?answered, ?resent⟩
  case served =>
    intro h body s u c east hs hc hplain hpart hroute hu
    subst hc
    have hby : s.AnswersBy h east := ⟨hroute, hpart⟩
    have hkeep : LeavesRoutes s u := hu ▸ State.bumpBy_keeps (Keeps.refl s)
    have hok : u.packetOk h (fieldOf h 24 6) = true := State.packetOk_plain hplain (hby.left hkeep).plain
    obtain ⟨f, hread, hreadDram⟩ := exec_ringRead_served h body hs
    obtain ⟨g, hwrite, hwriteDram⟩ := exec_ringWrite_served h body hs
    refine ⟨fun hslot => ?_, fun k hslot => ⟨fun hplace => ?_, fun hplace => ?_, fun a d w hplace hdata => ?_, fun a hplace => ?_⟩⟩
    · have hrefused := hu ▸ hby.refused (32 + body.length) 0x70 1
      exact ⟨⟨_, hread.trans (congrArg _ (State.serveRing_notResident hplain hu hslot)), hrefused⟩,
        ⟨_, hwrite.trans (congrArg _ (State.serveRing_notResident hplain hu hslot)), hrefused⟩⟩
    · exact ⟨_, hread.trans (congrArg _ (State.serveRing_denied hplain hu hslot hplace)), hu ▸ hby.refused (32 + body.length) 0x68 2⟩
    · exact ⟨_, hwrite.trans (congrArg _ (State.serveRing_denied hplain hu hslot hplace)), hu ▸ hby.refused (32 + body.length) 0x68 2⟩
    · refine ⟨_, hread.trans (congrArg _ ((State.serveRing_placed hplain hu hslot hok hplace).trans (hreadDram _ _ _ _ _ _ hdata))), ?_⟩
      have hafter : LeavesRoutes s (u.dramRead (some (fieldOf h 24 6)) a (fieldOf h 48 8 + 1)).2 := State.dramRead_keeps hkeep
      rw [hdata] at hafter
      exact hby.launched hafter 0 d
    · refine ⟨_, hwrite.trans (congrArg _ ((State.serveRing_placed hplain hu hslot hok hplace).trans (hwriteDram _ _ _ _))), ?_,
        hby.launched (State.wsetTouch_keeps (State.dramWrite_keeps hkeep)) 0 []⟩
      have hmem (v : State) (off len : Nat) : LeavesMem v (v.wsetTouch off len) := State.wsetTouch_keeps (Keeps.refl v)
      exact (State.respond_mem _ _ _ _).trans (Keeps.mem_eq (hmem _ _ _))
  case answered =>
    intro east h x body s pool hs hplain hpool
    refine ⟨fun hr => ⟨_, exec_ringResp_unknown x hs hplain hpool rfl hr, rfl⟩, fun r hr => ⟨fun hgen =>
      ⟨_, exec_ringResp_late x hs hplain hpool rfl hr hgen, rfl, State.event_raise_self _ _ _ (by decide)⟩, fun hgen hpart => ?_⟩⟩
    have hexec := exec_ringResp_live (body := body) x hs hplain hpool rfl hr hgen hpart
    refine ⟨fun hstatus => ⟨_, hexec, ?_⟩, fun hstatus hlive => ⟨_, hexec, State.ringAnswered_refused _ _ _ hstatus hlive⟩,
      fun k o q hstatus hlive hdata hspill hplace hq hready => ⟨_, hexec, ?_⟩⟩
    · rw [hstatus]
      rfl
    · have hsame : s.SamePlaces ((s.advance x).bumpBy pgPsf 0x80 none (32 + body.length)) :=
        .of_keeps (State.bumpBy_keeps (State.advance_keeps (Keeps.refl s)))
      rw [hstatus]
      exact State.LivePeerRead.complete_staged ⟨hlive, hdata, hspill, k, o, by rw [hsame.src]; exact hplace⟩ body hq hready
  case resent =>
    intro east tag x s pool hs hpool
    refine ⟨fun hr => ⟨_, exec_notResidentResend_unknown hs hpool hr, rfl⟩, fun r hr => ⟨fun ⟨hmark, hdue⟩ => ?_, fun h =>
      ⟨_, exec_notResidentResend_early hs hpool hr ?_, rfl⟩⟩⟩
    · exact ⟨_, exec_notResidentResend_due hs hpool hr hmark hdue, congrArg Irg.requests (State.send_irg _ _)⟩
    · rintro ⟨hmark, hdue⟩
      obtain h | h := h
      · exact Bool.false_ne_true (h.symm.trans hmark)
      · omega

end Sys2Proof.Machine
end

section
/-!
PROOF. What every command keeps (01, 19 R464, R465): the frame of each command, and from it O1 to O9.
-/

namespace Sys2Proof.Machine

open Sys2Proof

/-! ### The parts that a list names -/

/-- Whether a list of parts names one, as a proposition that computes to `True` or `False` on a given list. -/
def Area.Named (a : Area) (l : List Area) : Prop :=
  List.rec (motive := fun _ => Prop) False (fun b _ p => Bool.rec (motive := fun _ => Prop) p True (decide (a = b))) l

theorem Area.named_cons_self (a : Area) (l : List Area) : a.Named (a :: l) := by
  change Bool.rec (motive := fun _ => Prop) (a.Named l) True (decide (a = a))
  rw [decide_eq_true rfl]
  trivial

theorem Area.named_cons_ne {a b : Area} (h : a ≠ b) (l : List Area) : a.Named (b :: l) = a.Named l := by
  change Bool.rec (motive := fun _ => Prop) (a.Named l) True (decide (a = b)) = _
  rw [decide_eq_false h]

theorem Area.Named.mem {a : Area} {l : List Area} (h : a.Named l) : a ∈ l := by
  induction l with
  | nil => exact h.elim
  | cons b l ih =>
    by_cases hab : a = b
    · exact hab ▸ List.mem_cons_self
    · exact List.mem_cons_of_mem b (ih (Area.named_cons_ne hab l ▸ h))

/-- A state after another in which only the parts of a list are touched. -/
abbrev KeepsBut (l : List Area) (s t : State) : Prop :=
  Keeps (Area.mem.Named l) (Area.ecc.Named l) (Area.hub.Named l) (Area.gate.Named l) (Area.act.Named l) (Area.sdl.Named l)
    (Area.plots.Named l) (Area.flt.Named l) (Area.rms.Named l) (Area.thr.Named l) (Area.trn.Named l) (Area.irg.Named l)
    (Area.ring.Named l) (Area.sec.Named l) (Area.ddr.Named l) (Area.pwr.Named l) (Area.gk.Named l) (Area.beds.Named l) s t

/-- A part that the list does not name is as before. -/
theorem KeepsBut.sameArea {l : List Area} {s t : State} (h : KeepsBut l s t) {a : Area} (ha : a ∉ l) : s.sameArea t a := by
  have hn : ¬ a.Named l := fun hl => ha hl.mem
  obtain ⟨⟨_, _, _, _, _, _, _, hmem, hecc, hhub, hgate, hact, hsdl, hplots, hflt, hrms, hthr, htrn, hirg, hring, hsec, hddr, hpwr, hgk,
    hbeds⟩⟩ := h
  cases a with
  | mem => exact hmem.resolve_left hn
  | ecc => exact hecc.resolve_left hn
  | hub => exact hhub.resolve_left hn
  | gate => exact hgate.resolve_left hn
  | act => exact hact.resolve_left hn
  | sdl => exact hsdl.resolve_left hn
  | plots => exact hplots.resolve_left hn
  | flt => exact hflt.resolve_left hn
  | rms => exact hrms.resolve_left hn
  | thr => exact hthr.resolve_left hn
  | trn => exact htrn.resolve_left hn
  | irg => exact hirg.resolve_left hn
  | ring => exact hring.resolve_left hn
  | sec => exact hsec.resolve_left hn
  | ddr => exact hddr.resolve_left hn
  | pwr => exact hpwr.resolve_left hn
  | gk => exact hgk.resolve_left hn
  | beds => exact hbeds.resolve_left hn

/-! ### What each command keeps -/

/-- Every command but the resets keeps what no operation changes, and touches no part beyond those that it may change: its own law
under Laws/, whose list of parts is that of `mayChange`. -/
theorem exec_keeps {c : Instr} {s t : State} (hc : resets c = false) (h : exec c s = .next t) : KeepsBut (mayChange c) s t := by
  unfold exec at h
  cases c with
  | porstAssert | porstRelease | railFault | perstAssert | deviceRecovery => cases hc
  | registerWrite => exact execRegisterWrite_keeps h
  | stagedWrite => exact execStagedWrite_keeps h
  | revert => exact execRevert_keeps h
  | snapLatch => exact execSnapLatch_keeps h
  | snapClear => exact execSnapClear_keeps h
  | evtClearWrite => exact execEvtClearWrite_keeps h
  | evtMaskWrite => exact execEvtMaskWrite_keeps h
  | selectionAdd => exact execSelectionAdd_keeps h
  | selectionRemove => exact execSelectionRemove_keeps h
  | selectionClear => exact execSelectionClear_keeps h
  | selectionQuery => exact execSelectionQuery_keeps h
  | go => exact execGo_keeps h
  | abort => exact execAbort_keeps h
  | checksEnd => exact execChecksEnd_keeps h
  | commitApply => exact execCommitApply_keeps h
  | faultCommitRetry => exact execFaultCommitRetry_keeps h
  | hookFire => exact execHookFire_keeps h
  | paceWindowEnd => exact execPaceWindowEnd_keeps h
  | voltageLoopEval => exact execVoltageLoopEval_keeps h
  | vrTelemetryPoll => exact execVrTelemetryPoll_keeps h
  | vrRetry => exact execVrRetry_keeps h
  | pmbAlert => exact execPmbAlert_keeps h
  | pass => exact execPass_keeps h
  | tileLoadComplete => exact execTileLoadComplete_keeps h
  | rowVerdict => exact execRowVerdict_keeps h
  | westQueueEmpty => exact execWestQueueEmpty_keeps h
  | replayRequest => exact execReplayRequest_keeps h
  | replayComplete => exact execReplayComplete_keeps h
  | localiseStart => exact execLocaliseStart_keeps h
  | localised => exact execLocalised_keeps h
  | spareMapEffect => exact execSpareMapEffect_keeps h
  | spareMapTimeout => exact execSpareMapTimeout_keeps h
  | chain => exact execChain_keeps h
  | chainEnd => exact execChainEnd_keeps h
  | retryRequest => exact execRetryRequest_keeps h
  | retryPassEnd => exact execRetryPassEnd_keeps h
  | cmac => exact execCmac_keeps h
  | cmacc => exact execCmacc_keeps h
  | cmsu => exact execCmsu_keeps h
  | cmul => exact execCmul_keeps h
  | aclr => exact execAclr_keeps h
  | rdacc => exact execRdacc_keeps h
  | ldx => exact execLdx_keeps h
  | ldy => exact execLdy_keeps h
  | stx => exact execStx_keeps h
  | sty => exact execSty_keeps h
  | add => exact execAdd_keeps h
  | sub => exact execSub_keeps h
  | abs => exact execAbs_keeps h
  | neg => exact execNeg_keeps h
  | min => exact execMin_keeps h
  | max => exact execMax_keeps h
  | cmp => exact execCmp_keeps h
  | sel => exact execSel_keeps h
  | shl => exact execShl_keeps h
  | shr => exact execShr_keeps h
  | conj => exact execConj_keeps h
  | swapri => exact execSwapri_keeps h
  | clrsat => exact execClrsat_keeps h
  | nrm => exact execNrm_keeps h
  | rcps => exact execRcps_keeps h
  | rsqs => exact execRsqs_keeps h
  | loop => exact execLoop_keeps h
  | br => exact execBr_keeps h
  | jmp => exact execJmp_keeps h
  | call => exact execCall_keeps h
  | ret => exact execRet_keeps h
  | gld => exact execGld_keeps h
  | gst => exact execGst_keeps h
  | waitg => exact execWaitg_keeps h
  | waitev => exact execWaitev_keeps h
  | sig => exact execSig_keeps h
  | ppt => exact execPpt_keeps h
  | rte => exact execRte_keeps h
  | halt => exact execHalt_keeps h
  | bankSwitch => exact execBankSwitch_keeps h
  | gathererAccess => exact execGathererAccess_keeps h
  | storeTurn => exact execStoreTurn_keeps h
  | stoRelease => exact execStoRelease_keeps h
  | stoRepairQ => exact execStoRepairQ_keeps h
  | furrowStart => exact execFurrowStart_keeps h
  | irrigatorIssue => exact execIrrigatorIssue_keeps h
  | requestCompletion => exact execRequestCompletion_keeps h
  | requestTimeout => exact execRequestTimeout_keeps h
  | pageResponse => exact execPageResponse_keeps h
  | atsInvalidation => exact execAtsInvalidation_keeps h
  | prologueLate => exact execPrologueLate_keeps h
  | bufferWaitCycle => exact execBufferWaitCycle_keeps h
  | pfcRefresh => exact execPfcRefresh_keeps h
  | dropRest => exact execDropRest_keeps h
  | irgFrwQ => exact execIrgFrwQ_keeps h
  | refclkHandover => exact execRefclkHandover_keeps h
  | refLost => exact execRefLost_keeps h
  | refReturn => exact execRefReturn_keeps h
  | sampleIn => exact execSampleIn_keeps h
  | servoSampleTimeout => exact execServoSampleTimeout_keeps h
  | parentLost => exact execParentLost_keeps h
  | holdExpired => exact execHoldExpired_keeps h
  | switchDone => exact execSwitchDone_keeps h
  | calibrationDone => exact execCalibrationDone_keeps h
  | gridBoundary => exact execGridBoundary_keeps h
  | ppsOutEdge => exact execPpsOutEdge_keeps h
  | ppsInEdge => exact execPpsInEdge_keeps h
  | synceLockLoss => exact execSynceLockLoss_keeps h
  | frameReceive => exact execFrameReceive_keeps h
  | tdMeasTimer => exact execTdMeasTimer_keeps h
  | cplaneMessage => exact execCplaneMessage_keeps h
  | cpHoldRelease => exact execCpHoldRelease_keeps h
  | layoutFreeze => exact execLayoutFreeze_keeps h
  | chunkSymbolOpen => exact execChunkSymbolOpen_keeps h
  | chunkSymbolClose => exact execChunkSymbolClose_keeps h
  | tileUnitOffer => exact execTileUnitOffer_keeps h
  | tileStale => exact execTileStale_keeps h
  | feedbackRecord => exact execFeedbackRecord_keeps h
  | ncoUpdate => exact execNcoUpdate_keeps h
  | trnUnquar => exact execTrnUnquar_keeps h
  | trnRuQ => exact execTrnRuQ_keeps h
  | dlTileReceive => exact execDlTileReceive_keeps h
  | txWindowOpen => exact execTxWindowOpen_keeps h
  | txLate => exact execTxLate_keeps h
  | linkChange => exact execLinkChange_keeps h
  | portRetrainDone => exact execPortRetrainDone_keeps h
  | laneErrInterval => exact execLaneErrInterval_keeps h
  | thresherJob => exact execThresherJob_keeps h
  | codeBlockDone => exact execCodeBlockDone_keeps h
  | polarDecodeDone => exact execPolarDecodeDone_keeps h
  | encodeDone => exact execEncodeDone_keeps h
  | weightSetLoad => exact execWeightSetLoad_keeps h
  | descriptorFetch => exact execDescriptorFetch_keeps h
  | descriptorPoll => exact execDescriptorPoll_keeps h
  | workListBuild => exact execWorkListBuild_keeps h
  | stepBoundary => exact execStepBoundary_keeps h
  | stepComplete => exact execStepComplete_keeps h
  | harvestWrite => exact execHarvestWrite_keeps h
  | consPoll => exact execConsPoll_keeps h
  | taskEnd => exact execTaskEnd_keeps h
  | taskOp => exact execTaskOp_keeps h
  | taskWait => exact execTaskWait_keeps h
  | taskSignal => exact execTaskSignal_keeps h
  | release => exact execRelease_keeps h
  | taskBoundary => exact execTaskBoundary_keeps h
  | taskPpt => exact execTaskPpt_keeps h
  | taskChkpt => exact execTaskChkpt_keeps h
  | taskFeeds => exact execTaskFeeds_keeps h
  | checkpoint => exact execCheckpoint_keeps h
  | rerunRequest => exact execRerunRequest_keeps h
  | fallbackRecord => exact execFallbackRecord_keeps h
  | libraryAdd => exact execLibraryAdd_keeps h
  | libraryRemove => exact execLibraryRemove_keeps h
  | contextRestart => exact execContextRestart_keeps h
  | contextSwapOut => exact execContextSwapOut_keeps h
  | preemptionComplete => exact execPreemptionComplete_keeps h
  | swapIn => exact execSwapIn_keeps h
  | rmsSlotQ => exact execRmsSlotQ_keeps h
  | rmsAcctQ => exact execRmsAcctQ_keeps h
  | trpSlotQ => exact execTrpSlotQ_keeps h
  | rosterWrite => exact execRosterWrite_keeps h
  | rosterClear => exact execRosterClear_keeps h
  | contextTeardown => exact execContextTeardown_keeps h
  | teardownComplete => exact execTeardownComplete_keeps h
  | evalRecord => exact execEvalRecord_keeps h
  | rmsGhEvalQ => exact execRmsGhEvalQ_keeps h
  | wsetHash => exact execWsetHash_keeps h
  | wsetReport => exact execWsetReport_keeps h
  | wsetDone => exact execWsetDone_keeps h
  | captureStart => exact execCaptureStart_keeps h
  | captureStop => exact execCaptureStop_keeps h
  | lockstepMark => exact execLockstepMark_keeps h
  | lockstepEdge => exact execLockstepEdge_keeps h
  | ringFrameReceive => exact execRingFrameReceive_keeps h
  | ringAckTimeout => exact execRingAckTimeout_keeps h
  | ringRead => exact execRingRead_keeps h
  | ringWrite => exact execRingWrite_keeps h
  | ringResp => exact execRingResp_keeps h
  | notResidentResend => exact execNotResidentResend_keeps h
  | ringTrainDone => exact execRingTrainDone_keeps h
  | ringLinkLoss => exact execRingLinkLoss_keeps h
  | laneSwap => exact execLaneSwap_keeps h
  | routeAway => exact execRouteAway_keeps h
  | resume => exact execResume_keeps h
  | routeAwayDone => exact execRouteAwayDone_keeps h
  | keyLoad => exact execKeyLoad_keeps h
  | keyErase => exact execKeyErase_keeps h
  | keyQuery => exact execKeyQuery_keeps h
  | disable => exact execDisable_keeps h
  | releaseHold => exact execReleaseHold_keeps h
  | partReleased => exact execPartReleased_keeps h
  | disableSlotExpiry => exact execDisableSlotExpiry_keeps h
  | partDisabled => exact execPartDisabled_keeps h
  | vfFlr => exact execVfFlr_keeps h
  | pfFlr => exact execPfFlr_keeps h
  | vfEnableClear => exact execVfEnableClear_keeps h
  | getVersion => exact execGetVersion_keeps h
  | getCapabilities => exact execGetCapabilities_keeps h
  | negotiateAlgorithms => exact execNegotiateAlgorithms_keeps h
  | getDigests => exact execGetDigests_keeps h
  | getCertificate => exact execGetCertificate_keeps h
  | challenge => exact execChallenge_keeps h
  | getMeasurements => exact execGetMeasurements_keeps h
  | keyExchange => exact execKeyExchange_keeps h
  | finish => exact execFinish_keeps h
  | keyUpdate => exact execKeyUpdate_keeps h
  | heartbeat => exact execHeartbeat_keeps h
  | endSession => exact execEndSession_keeps h
  | pqGetCert => exact execPqGetCert_keeps h
  | pqSign => exact execPqSign_keeps h
  | setPwk => exact execSetPwk_keeps h
  | getDebugLog => exact execGetDebugLog_keeps h
  | keyProg => exact execKeyProg_keeps h
  | kSetGo => exact execKSetGo_keeps h
  | kSetStop => exact execKSetStop_keeps h
  | ideErr => exact execIdeErr_keeps h
  | tapLeaveReset => exact execTapLeaveReset_keeps h
  | tapReset => exact execTapReset_keeps h
  | idcode => exact execIdcode_keeps h
  | bypass => exact execBypass_keeps h
  | samplePreload => exact execSamplePreload_keeps h
  | extest => exact execExtest_keeps h
  | clamp => exact execClamp_keeps h
  | highz => exact execHighz_keeps h
  | coreHalt => exact execCoreHalt_keeps h
  | coreResume => exact execCoreResume_keeps h
  | faultRecord => exact execFaultRecord_keeps h
  | repairApply => exact execRepairApply_keeps h
  | plotPrune => exact execPlotPrune_keeps h
  | agingMarginLow => exact execAgingMarginLow_keeps h
  | handshakeTimeout => exact execHandshakeTimeout_keeps h
  | taskTimeout => exact execTaskTimeout_keeps h
  | heartbeatTimeout => exact execHeartbeatTimeout_keeps h
  | partitionTimeout => exact execPartitionTimeout_keeps h
  | gkWatchdogExpiry => exact execGkWatchdogExpiry_keeps h
  | fltUnitQ => exact execFltUnitQ_keeps h
  | copyStart => exact execCopyStart_keeps h
  | copyDone => exact execCopyDone_keeps h
  | hostWriteCreditTimeout => exact execHostWriteCreditTimeout_keeps h
  | configRequest => exact execConfigRequest_keeps h
  | dramRead => exact execDramRead_keeps h
  | dramWrite => exact execDramWrite_keeps h
  | checkBurstWriteback => exact execCheckBurstWriteback_keeps h
  | refresh => exact execRefresh_keeps h
  | mr4Poll => exact execMr4Poll_keeps h
  | wckTracking => exact execWckTracking_keeps h
  | dramPatrol => exact execDramPatrol_keeps h
  | zeroingPassEnd => exact execZeroingPassEnd_keeps h
  | remapDone => exact execRemapDone_keeps h
  | ddrChQ => exact execDdrChQ_keeps h
  | perstRelease => exact execPerstRelease_keeps h
  | startStepDone => exact execStartStepDone_keeps h
  | thermalSample => exact execThermalSample_keeps h
  | powerWindow => exact execPowerWindow_keeps h
  | thermalTrip => exact execThermalTrip_keeps h
  | domDone => exact execDomDone_keeps h
  | plotReset => exact execPlotReset_keeps h
  | pwrTempQ => exact execPwrTempQ_keeps h
  | getInfo => exact execGetInfo_keeps h
  | readSensors => exact execReadSensors_keeps h
  | readAlmanac => exact execReadAlmanac_keeps h
  | readNote => exact execReadNote_keeps h
  | readFaults => exact execReadFaults_keeps h
  | requestUpdate => exact execRequestUpdate_keeps h
  | passComponentTable => exact execPassComponentTable_keeps h
  | updateComponent => exact execUpdateComponent_keeps h
  | firmwareData => exact execFirmwareData_keeps h
  | verifyComplete => exact execVerifyComplete_keeps h
  | activateFirmware => exact execActivateFirmware_keeps h
  | cancelUpdate => exact execCancelUpdate_keeps h
  | setEventReceiver => exact execSetEventReceiver_keeps h
  | platformEventResend => exact execPlatformEventResend_keeps h
  | getSensorReading => exact execGetSensorReading_keeps h
  | setEndpointId => exact execSetEndpointId_keeps h
  | consoleStatus => exact execConsoleStatus_keeps h
  | consoleLogin => exact execConsoleLogin_keeps h
  | consoleDebug => exact execConsoleDebug_keeps h
  | consoleLogout => exact execConsoleLogout_keeps h
  | contextBlocked => exact execContextBlocked_keeps h
  | delayReqInterval => exact execDelayReqInterval_keeps h
  | msixUnmask => exact execMsixUnmask_keeps h
  | entdaa => exact execEntdaa_keeps h
  | platformEventAck => exact execPlatformEventAck_keeps h

/-- The resets may change every part. -/
theorem mem_mayChange_of_resets {c : Instr} (hc : resets c = true) (a : Area) : a ∈ mayChange c := by
  have all : a ∈ mayChange .porstAssert := by cases a <;> decide
  cases c with
  | porstAssert | porstRelease | railFault | perstAssert | deviceRecovery => exact all
  | _ => cases hc

/-- The queue and the canonical form of memory outlive every command, the resets among them. -/
theorem exec_wipes {c : Instr} {s t : State} (h : exec c s = .next t) : Wipes s t := by
  cases hc : resets c with
  | false => exact (exec_keeps hc h).wipesOf
  | true =>
    unfold exec at h
    cases c with
    | porstAssert => exact execPorstAssert_wipes h
    | porstRelease => exact execPorstRelease_wipes h
    | railFault => exact execRailFault_wipes h
    | perstAssert => exact execPerstAssert_wipes h
    | deviceRecovery => exact execDeviceRecovery_wipes h
    | _ => cases hc

/-! ### A trip and the reference clock -/

/-- A later state of the same run between two power-on resets: a trip stays, and the reference clock does not go back. -/
structure State.GoesOn (s t : State) : Prop where
  tripped : s.tripped = true → t.tripped = true
  ref : s.sdl.ref ≤ t.sdl.ref

theorem State.GoesOn.refl (s : State) : s.GoesOn s := ⟨id, Nat.le_refl _⟩

theorem State.GoesOn.trans {s t u : State} (h : s.GoesOn t) (g : t.GoesOn u) : s.GoesOn u :=
  ⟨fun x => g.tripped (h.tripped x), Nat.le_trans h.ref g.ref⟩

theorem Keeps.goesOn {q1 q2 q3 q4 q5 q6 q7 q8 q9 q10 q11 q12 q13 q14 q15 q16 q17 q18 : Prop} {s t : State}
    (h : Keeps q1 q2 q3 q4 q5 q6 q7 q8 q9 q10 q11 q12 q13 q14 q15 q16 q17 q18 s t) : s.GoesOn t := ⟨h.c.tripped, h.c.ref⟩

/-- PERST# and device recovery clear neither the trip nor the count of the reference (R465). -/
theorem State.warm_goesOn (s : State) (recovery : Bool) : s.GoesOn (s.warm recovery) := by
  have h := (State.warmFrom_keeps (recovery := recovery) (Keeps.refl s)).goesOn
  exact ⟨h.tripped, h.ref⟩

theorem State.beginStep_goesOn (s : State) (k : Nat) (almOk : Bool) : s.GoesOn (s.beginStep k almOk) :=
  (State.beginStep_keeps (q1 := True) (q2 := True) (q4 := True) (q5 := True) (q6 := True) (q7 := True) (q8 := True) (q9 := True)
    (q10 := True) (q11 := True) (q12 := True) (q13 := True) (q14 := True) (q15 := True) (q17 := True) (q18 := True) (Keeps.refl s)).goesOn

/-- The end of power-on reset lifts the hold alone. -/
theorem State.beginStart_goesOn (s : State) (a b : Nat) : s.GoesOn (s.beginStart a b) := by
  unfold State.beginStart
  extract_lets _ s1
  have h1 : s.GoesOn s1 := ⟨id, Nat.le_refl _⟩
  clear_value s1
  have h2 : Keeps True True True True True True True True True True True True True True True True True True s1
      ((s1.emit (Sent.pin .xspiReset true)).decideVariant 2 true) := State.decideVariant_keeps (State.emit_keeps (Keeps.refl s1))
  exact (h1.trans h2.goesOn).trans (State.beginStep_goesOn _ _ _)

theorem execPorstRelease_goesOn {a b : Fin 8} {s t : State} (h : execPorstRelease a b s = .next t) : s.GoesOn t := by
  unfold execPorstRelease at h
  obtain rfl := Host.Outcome.next.inj h
  have h1 : s.GoesOn { s with pwr := { s.pwr with porstHigh := true } } := ⟨id, Nat.le_refl _⟩
  split
  · exact State.GoesOn.refl s
  · dsimp only
    split
    · exact h1
    · exact h1.trans (State.beginStart_goesOn _ _ _)

theorem execPerstAssert_goesOn {x : Nat} {s t : State} (h : execPerstAssert x s = .next t) : s.GoesOn t := by
  unfold execPerstAssert at h
  obtain rfl := Host.Outcome.next.inj h
  split
  · exact ⟨id, Nat.le_refl _⟩
  · have ha : Keeps True True True True True True True True True True True True True True True True True True s (s.advance x) :=
      State.advance_keeps (Keeps.refl s)
    exact ha.goesOn.trans (State.warm_goesOn _ false)

/-- A device recovery begins with its record, count, event, log entry and notice, and then clears (16 R403). -/
theorem execDeviceRecovery_goesOn {beat almOk : Bool} {x : Nat} {s t : State} (h : execDeviceRecovery beat almOk x s = .next t) :
    s.GoesOn t := by
  unfold execDeviceRecovery State.live at h
  obtain rfl := Host.Outcome.next.inj h
  have ha : Keeps True True True True True True True True True True True True True True True True True True s (s.advance x) :=
    State.advance_keeps (Keeps.refl s)
  split
  · exact State.GoesOn.refl s
  · dsimp only
    generalize s.advance x = u at ha ⊢
    split
    · have hu : Keeps True True True True True True True True True True True True True True True True True True s
          (((((u.almanac { start := 0, step := 0x12, outcome := 1 } almOk).bump pgFlt 0x88 none).raise pgFlt 14 none).fltLog
            { kind := 8, action := 7, cls := 9, detail := 7 }).notice 1) :=
        State.notice_keeps (State.fltLog_keeps (State.raise_keeps (State.bump_keeps (State.almanac_keeps ha))))
      generalize ((((u.almanac { start := 0, step := 0x12, outcome := 1 } almOk).bump pgFlt 0x88 none).raise pgFlt 14 none).fltLog
        { kind := 8, action := 7, cls := 9, detail := 7 }).notice 1 = y at hu ⊢
      have hw := hu.goesOn.trans (State.warm_goesOn y true)
      generalize y.warm true = z at hw ⊢
      have hz : s.GoesOn { z with pwr := { z.pwr with recovering := true } } := ⟨hw.tripped, hw.ref⟩
      exact hz.trans (State.beginStep_goesOn _ _ _)
    · exact ha.goesOn

/-- Every command but the two triggers of power-on reset goes on from the state that it finds. -/
theorem exec_goesOn {c : Instr} {s t : State} (h : exec c s = .next t) (hp : c ≠ .porstAssert) (hr : ∀ b x y, c ≠ .railFault b x y) :
    s.GoesOn t := by
  cases hc : resets c with
  | false => exact (exec_keeps hc h).goesOn
  | true =>
    unfold exec at h
    cases c with
    | porstAssert => exact (hp rfl).elim
    | railFault b x y => exact (hr b x y rfl).elim
    | porstRelease => exact execPorstRelease_goesOn h
    | perstAssert => exact execPerstAssert_goesOn h
    | deviceRecovery => exact execDeviceRecovery_goesOn h
    | _ => cases hc

/-! ### A stopped device -/

/-- A command of the fabric finds a stopped device and leaves it as it is (R464, R465): its meaning is an effect of the fabric. -/
theorem exec_stopped {c : Instr} {s : State} (hs : s.stopped = true) (hc : worksStopped c = false) : exec c s = .next s := by
  have live (f : State → State) : (Host.Outcome.next (s.live f) : Host.Outcome State Fault Refusal) = .next s :=
    congrArg Host.Outcome.next (s.live_stopped f hs)
  unfold exec
  cases c with
  | porstAssert | porstRelease | railFault | perstAssert | perstRelease | tapLeaveReset | tapReset | idcode | bypass
  | samplePreload | extest | clamp | highz => cases hc
  | configRequest => exact congrArg Host.Outcome.next (if_pos hs)
  | _ => exact live _

/-! ### One step -/

/-- Every command answers a next state: its meaning is written as one. -/
theorem exec_next (c : Instr) (s : State) : ∃ t, exec c s = .next t := by
  cases c <;> exact ⟨_, rfl⟩

theorem step_of_pending {s : State} {c : Instr} {rest : List Instr} (h : s.pending = c :: rest) :
    step s = exec c { s with pending := rest } := by
  unfold step
  rw [h]

theorem step_of_empty {s : State} (h : s.pending = []) : step s = .next s := by
  unfold step
  rw [h]

theorem memOk_iff (s : State) : s.memOk = true ↔ Mem.wf s.mem = true ∧ SMap.wf zeroUnlisted s.ecc = true := Bool.and_eq_true_iff

/-- A command leaves memory and the struck errors in canonical form. -/
theorem exec_memOk {c : Instr} {s t : State} (h : exec c s = .next t) (hs : s.memOk = true) : t.memOk = true := by
  rw [memOk_iff] at hs ⊢
  exact ⟨(exec_wipes h).mem hs.1, (exec_wipes h).ecc hs.2⟩

/-! ### The statements -/

/-- Settles O1: the step of a queue with a front. -/
theorem stepRunsFrontCommand : Obligations.StepRunsFrontCommand := fun _ _ _ h => step_of_pending h

/-- Settles O2: the step of an empty queue. -/
theorem stepIdlesOnEmptyQueue : Obligations.StepIdlesOnEmptyQueue := fun _ h => step_of_empty h

/-- Settles O3: a command answers a next state, and no command touches the queue that the step has left it. -/
theorem everyStepTakesOneCommand : Obligations.EveryStepTakesOneCommand := by
  intro s c rest h
  obtain ⟨t, ht⟩ := exec_next c { s with pending := rest }
  exact ⟨t, (step_of_pending h).trans ht, (exec_wipes ht).pending⟩

/-- Settles O4: after reset nothing is listed. -/
theorem resetMemoryCanonical : Obligations.ResetMemoryCanonical := ⟨rfl, rfl, rfl⟩

/-- Settles O5: taking a command from the queue leaves memory, and every command keeps its canonical form. -/
theorem stepKeepsMemoryCanonical : Obligations.StepKeepsMemoryCanonical := by
  intro s t hs h
  cases hq : s.pending with
  | nil =>
    obtain rfl := Host.Outcome.next.inj ((step_of_empty hq).symm.trans h)
    exact hs
  | cons c rest => exact exec_memOk ((step_of_pending hq).symm.trans h) hs

/-- Settles O6: a reset may change every part, and any other command touches only those of its list. -/
theorem commandsChangeOnlyTheirParts : Obligations.CommandsChangeOnlyTheirParts := by
  intro c s t a h ha
  cases hc : resets c with
  | true => exact absurd (mem_mayChange_of_resets hc a) ha
  | false => exact (exec_keeps hc h).sameArea ha

/-- Settles O7: every other command is an effect of the fabric, which a stopped device does not have. -/
theorem stoppedDeviceIgnoresCommands : Obligations.StoppedDeviceIgnoresCommands := fun _ _ hs hc => exec_stopped hs hc

/-- Settles O8: only the triggers of power-on reset leave a trip behind. -/
theorem tripEndsOnlyAtPowerOnReset : Obligations.TripEndsOnlyAtPowerOnReset :=
  fun _ _ _ hs h hp hr => (exec_goesOn h hp hr).tripped hs

/-- Settles O9: only the triggers of power-on reset set the reference back. -/
theorem referenceTimeNeverGoesBack : Obligations.ReferenceTimeNeverGoesBack :=
  fun _ _ _ h hp hr => (exec_goesOn h hp hr).ref

end Sys2Proof.Machine
end

section
/-!
PROOF. The (144,128) code (16 R385 to R387, R529): O14 and O15.
-/

namespace Sys2Proof.Machine

open Sys2Proof

/-! ### GF(16) -/

theorem gfMul_lt {a b : Nat} (ha : a < 16) (hb : b < 16) : gfMul a b < 16 :=
  (by decide : ∀ a b : Fin 16, gfMul a.val b.val < 16) ⟨a, ha⟩ ⟨b, hb⟩

theorem gfMul_comm {a b : Nat} (ha : a < 16) (hb : b < 16) : gfMul a b = gfMul b a :=
  (by decide : ∀ a b : Fin 16, gfMul a.val b.val = gfMul b.val a.val) ⟨a, ha⟩ ⟨b, hb⟩

theorem gfMul_one {a : Nat} (ha : a < 16) : gfMul a 1 = a :=
  (by decide : ∀ a : Fin 16, gfMul a.val 1 = a.val) ⟨a, ha⟩

theorem gfMul_zero {a : Nat} (ha : a < 16) : gfMul a 0 = 0 :=
  (by decide : ∀ a : Fin 16, gfMul a.val 0 = 0) ⟨a, ha⟩

theorem zero_gfMul {b : Nat} (hb : b < 16) : gfMul 0 b = 0 := (gfMul_comm (by omega) hb).trans (gfMul_zero hb)

/-- A product by an element other than zero tells its other factor. -/
theorem gfMul_left_cancel {e a b : Nat} (he : e < 16) (he0 : e ≠ 0) (ha : a < 16) (hb : b < 16) (h : gfMul e a = gfMul e b) : a = b :=
  (by decide : ∀ e : Fin 15, ∀ a b : Fin 16, gfMul (e.val + 1) a.val = gfMul (e.val + 1) b.val → a.val = b.val)
    ⟨e - 1, by omega⟩ ⟨a, ha⟩ ⟨b, hb⟩ (by rwa [show e - 1 + 1 = e by omega])

theorem xor_lt_sixteen {a b : Nat} (ha : a < 16) (hb : b < 16) : Nat.xor a b < 16 := Nat.xor_lt_two_pow (n := 4) ha hb

/-! ### Vectors over GF(16) -/

/-- Four elements of GF(16). -/
structure IsVec (x : List Nat) : Prop where
  length : x.length = 4
  lt : ∀ a ∈ x, a < 16

theorem IsVec.eq {x : List Nat} (h : IsVec x) : x = [x.getD 0 0, x.getD 1 0, x.getD 2 0, x.getD 3 0] := by
  obtain ⟨hl, -⟩ := h
  match x, hl with
  | [_, _, _, _], _ => rfl

theorem IsVec.getD_lt {x : List Nat} (h : IsVec x) (i : Nat) : x.getD i 0 < 16 := by
  rw [List.getD_eq_getElem?_getD]
  cases hi : x[i]? with
  | none => decide
  | some a => exact h.lt a (List.mem_of_getElem? hi)

theorem isVec_eccColumn {s : Nat} (hs : s < 36) : IsVec (eccColumn s) := by
  have h : ∀ s : Fin 36, (eccColumn s.val).length = 4 ∧ ∀ a ∈ eccColumn s.val, a < 16 := by decide
  exact ⟨(h ⟨s, hs⟩).1, (h ⟨s, hs⟩).2⟩

theorem IsVec.map_gfMul {x : List Nat} (h : IsVec x) {e : Nat} (he : e < 16) : IsVec (x.map (gfMul e)) := by
  refine ⟨(List.length_map ..).trans h.length, fun a ha => ?_⟩
  obtain ⟨b, hb, rfl⟩ := List.mem_map.1 ha
  exact gfMul_lt he (h.lt b hb)

theorem IsVec.gfAdd {x y : List Nat} (hx : IsVec x) (hy : IsVec y) : IsVec (gfAdd x y) := by
  refine ⟨by simp [Machine.gfAdd, hx.length, hy.length], fun a ha => ?_⟩
  obtain ⟨i, hi, rfl⟩ := List.getElem_of_mem ha
  simp only [Machine.gfAdd, List.getElem_zipWith]
  exact xor_lt_sixteen (hx.lt _ (List.getElem_mem _)) (hy.lt _ (List.getElem_mem _))

theorem isVec_zero : IsVec [0, 0, 0, 0] := ⟨rfl, by decide⟩

theorem gfAdd_zero {x : List Nat} (h : IsVec x) : gfAdd x [0, 0, 0, 0] = x := by
  rw [h.eq]
  simp [gfAdd]

theorem zero_gfAdd {x : List Nat} (h : IsVec x) : gfAdd [0, 0, 0, 0] x = x := by
  rw [h.eq]
  simp [gfAdd]

theorem map_zero_gfMul {x : List Nat} (h : IsVec x) : x.map (gfMul 0) = [0, 0, 0, 0] := by
  have hz (i : Nat) : gfMul 0 (x.getD i 0) = 0 := zero_gfMul (h.getD_lt i)
  rw [h.eq]
  simp only [List.map_cons, List.map_nil, hz]

/-! ### Sums over the symbols -/

theorem eccSymbol_lt (v s : Nat) : eccSymbol v s < 16 := Nat.mod_lt _ (by decide)

theorem eccSymbol_eq (v s : Nat) : eccSymbol v s = v / 2 ^ (4 * s) % 16 := congrArg (· % 16) (Nat.shiftRight_eq_div_pow v (4 * s))

/-- The share of one symbol in a sum. -/
def eccTerm (v s : Nat) : List Nat := (eccColumn s).map (gfMul (eccSymbol v s))

theorem isVec_eccTerm (v : Nat) {s : Nat} (hs : s < 36) : IsVec (eccTerm v s) := (isVec_eccColumn hs).map_gfMul (eccSymbol_lt v s)

theorem eccSum_append_singleton (v : Nat) (l : List Nat) (s : Nat) : eccSum v (l ++ [s]) = gfAdd (eccSum v l) (eccTerm v s) :=
  List.foldl_append ..

theorem isVec_eccSum (v : Nat) (l : List Nat) (hl : ∀ s ∈ l, s < 36) : IsVec (eccSum v l) := by
  induction l using List.reverseRecOn with
  | nil => exact isVec_zero
  | append_singleton l s ih =>
    rw [eccSum_append_singleton]
    exact (ih fun t ht => hl t (List.mem_append_left _ ht)).gfAdd (isVec_eccTerm v (hl s (by simp)))

/-- A sum reads only the symbols that it runs over. -/
theorem eccSum_congr {v w : Nat} {l : List Nat} (h : ∀ s ∈ l, eccSymbol v s = eccSymbol w s) : eccSum v l = eccSum w l := by
  induction l using List.reverseRecOn with
  | nil => rfl
  | append_singleton l s ih =>
    have hs : eccTerm v s = eccTerm w s := by rw [eccTerm, eccTerm, h s (by simp)]
    rw [eccSum_append_singleton, eccSum_append_singleton, ih fun t ht => h t (List.mem_append_left _ ht), hs]

/-- Symbols that are zero add nothing. -/
theorem eccSum_eq_zero {v : Nat} {l : List Nat} (hl : ∀ s ∈ l, s < 36) (h : ∀ s ∈ l, eccSymbol v s = 0) : eccSum v l = [0, 0, 0, 0] := by
  induction l using List.reverseRecOn with
  | nil => rfl
  | append_singleton l s ih =>
    have hs : eccTerm v s = [0, 0, 0, 0] := by
      rw [eccTerm, h s (by simp)]
      exact map_zero_gfMul (isVec_eccColumn (hl s (by simp)))
    rw [eccSum_append_singleton, ih (fun t ht => hl t (List.mem_append_left _ ht)) fun t ht => h t (List.mem_append_left _ ht), hs]
    rfl

/-- Where one symbol alone is not zero, the sum is its share. -/
theorem eccSum_single {v s : Nat} {l : List Nat} (hl : ∀ t ∈ l, t < 36) (hn : l.Nodup) (hs : s ∈ l)
    (h : ∀ t ∈ l, t ≠ s → eccSymbol v t = 0) : eccSum v l = eccTerm v s := by
  induction l using List.reverseRecOn with
  | nil => cases hs
  | append_singleton l t ih =>
    have hl' : ∀ u ∈ l, u < 36 := fun u hu => hl u (List.mem_append_left _ hu)
    have h' : ∀ u ∈ l, u ≠ s → eccSymbol v u = 0 := fun u hu => h u (List.mem_append_left _ hu)
    rw [← List.concat_eq_append, List.nodup_concat] at hn
    obtain ⟨ht, hn⟩ := hn
    rw [eccSum_append_singleton]
    by_cases hst : t = s
    · subst hst
      have h0 : eccSum v l = [0, 0, 0, 0] := eccSum_eq_zero hl' fun u hu => h' u hu fun e => ht (e ▸ hu)
      rw [h0]
      exact zero_gfAdd (isVec_eccTerm v (hl t hs))
    · have hsl : s ∈ l := (List.mem_append.1 hs).resolve_right fun e => hst (List.mem_singleton.1 e).symm
      have h0 : eccTerm v t = [0, 0, 0, 0] := by
        rw [eccTerm, h t (by simp) hst]
        exact map_zero_gfMul (isVec_eccColumn (hl t (by simp)))
      rw [ih hl' hn hsl h', h0]
      exact gfAdd_zero (isVec_eccTerm v (hl' s hsl))

/-! ### The encoder (R386) -/

/-- A word of 128 data bits and four check symbols. -/
def eccWord (d a b c e : Nat) : Nat := d + 2 ^ 128 * a + 2 ^ 132 * b + 2 ^ 136 * c + 2 ^ 140 * e

section
variable {d a b c e : Nat} (hd : d < 2 ^ 128) (ha : a < 16) (hb : b < 16) (hc : c < 16) (he : e < 16)
include hd ha hb hc he

theorem eccWord_check_symbols : eccSymbol (eccWord d a b c e) 32 = a ∧ eccSymbol (eccWord d a b c e) 33 = b ∧
    eccSymbol (eccWord d a b c e) 34 = c ∧ eccSymbol (eccWord d a b c e) 35 = e := by
  simp only [eccSymbol_eq, eccWord]
  omega

theorem eccWord_lt : eccWord d a b c e < 2 ^ 144 := by
  simp only [eccWord]
  omega

omit ha hb hc he in
theorem eccWord_mod : eccWord d a b c e % 2 ^ 128 = d := by
  simp only [eccWord]
  omega

end

theorem eccWord_data_symbol (d a b c e : Nat) {s : Nat} (hs : s < 32) : eccSymbol (eccWord d a b c e) s = eccSymbol d s := by
  have hk : eccWord d a b c e = d + 2 ^ (4 * s) * (16 * (2 ^ (124 - 4 * s) * (a + 16 * b + 256 * c + 4096 * e))) := by
    have hp : 2 ^ 128 = 2 ^ (4 * s) * (16 * 2 ^ (124 - 4 * s)) := by
      rw [show (16 : Nat) = 2 ^ 4 from rfl, ← pow_add, ← pow_add]
      congr 1
      omega
    rw [eccWord, show d + 2 ^ 128 * a + 2 ^ 132 * b + 2 ^ 136 * c + 2 ^ 140 * e = d + 2 ^ 128 * (a + 16 * b + 256 * c + 4096 * e) by omega, hp]
    ring
  rw [eccSymbol_eq, eccSymbol_eq, hk, Nat.add_mul_div_left _ _ (Nat.two_pow_pos _), Nat.add_mul_mod_self_left]

/-- The check symbols that R386 forms from the sum `[p, q, r, t]` of the data symbols bring it to zero: at 32, p + r + t; at 33, q + r + δt;
at 34, r; at 35, t. -/
theorem gfAdd_checks {p q r t : Nat} (hp : p < 16) (hq : q < 16) (hr : r < 16) (ht : t < 16) :
    gfAdd (gfAdd (gfAdd (gfAdd [p, q, r, t] ((eccColumn 32).map (gfMul (Nat.xor (Nat.xor p r) t))))
      ((eccColumn 33).map (gfMul (Nat.xor (Nat.xor q r) (gfMul gfDelta t))))) ((eccColumn 34).map (gfMul r)))
      ((eccColumn 35).map (gfMul t)) = [0, 0, 0, 0] := by
  have hδ : gfMul gfDelta t < 16 := gfMul_lt (by decide) ht
  have h1 := xor_lt_sixteen (xor_lt_sixteen hp hr) ht
  have h2 := xor_lt_sixteen (xor_lt_sixteen hq hr) hδ
  have hcol : eccColumn 32 = [1, 0, 0, 0] ∧ eccColumn 33 = [0, 1, 0, 0] ∧ eccColumn 34 = [1, 1, 1, 0] ∧
    eccColumn 35 = [1, gfDelta, 0, 1] := by decide
  obtain ⟨h32, h33, h34, h35⟩ := hcol
  simp only [h32, h33, h34, h35, List.map_cons, List.map_nil, gfMul_one h1, gfMul_zero h1, gfMul_one h2, gfMul_zero h2, gfMul_one hr,
    gfMul_zero hr, gfMul_one ht, gfMul_zero ht, gfMul_comm ht (show gfDelta < 16 by decide), gfAdd, List.zipWith_cons_cons,
    List.zipWith_nil_left]
  generalize gfMul gfDelta t = w
  have hx (x y : Nat) : Nat.xor x y = x ^^^ y := rfl
  simp only [hx]
  simp [Nat.xor_comm, Nat.xor_left_comm]

theorem eccSyndrome_split (v : Nat) : eccSyndrome v =
    gfAdd (gfAdd (gfAdd (gfAdd (eccSum v (List.range 32)) (eccTerm v 32)) (eccTerm v 33)) (eccTerm v 34)) (eccTerm v 35) := by
  rw [← eccSum_append_singleton, ← eccSum_append_singleton, ← eccSum_append_singleton, ← eccSum_append_singleton]
  rfl

/-- Settles O14: the check symbols bring the sum of the data symbols to zero, and stand above the 128 data bits. -/
theorem encodedWordsAreCodewords : Obligations.EncodedWordsAreCodewords := by
  intro d
  have hd : d % 2 ^ 128 < 2 ^ 128 := Nat.mod_lt _ (Nat.two_pow_pos _)
  have hv := isVec_eccSum (d % 2 ^ 128) (List.range 32) fun s hs => by have := List.mem_range.1 hs; omega
  have hsum (a b c e : Nat) : eccSum (eccWord (d % 2 ^ 128) a b c e) (List.range 32) = eccSum (d % 2 ^ 128) (List.range 32) :=
    eccSum_congr fun s hs => eccWord_data_symbol _ a b c e (List.mem_range.1 hs)
  have hx := hv.eq
  have hp := hv.getD_lt 0
  have hq := hv.getD_lt 1
  have hr := hv.getD_lt 2
  have ht := hv.getD_lt 3
  rw [show eccEncode d = eccWord (d % 2 ^ 128) _ _ _ _ from rfl]
  generalize eccSum (d % 2 ^ 128) (List.range 32) = x at hsum hx hp hq hr ht ⊢
  generalize x.getD 0 0 = p, x.getD 1 0 = q, x.getD 2 0 = r, x.getD 3 0 = t at hx hp hq hr ht ⊢
  have ha := xor_lt_sixteen (xor_lt_sixteen hp hr) ht
  have hb := xor_lt_sixteen (xor_lt_sixteen hq hr) (gfMul_lt (show gfDelta < 16 by decide) ht)
  refine ⟨?_, eccWord_mod hd, eccWord_lt hd ha hb hr ht⟩
  obtain ⟨h32, h33, h34, h35⟩ := eccWord_check_symbols hd ha hb hr ht
  rw [eccSyndrome_split, hsum, hx, eccTerm, eccTerm, eccTerm, eccTerm, h32, h33, h34, h35]
  exact gfAdd_checks hp hq hr ht

/-! ### The decoder (R387) -/

/-- No two symbols have the same column, and the column of every symbol but 33 begins with 1, that of 33 with 0. -/
theorem eccColumn_distinct {s t : Nat} (hs : s < 36) (ht : t < 36) (h : eccColumn s = eccColumn t) : s = t :=
  (by decide : ∀ s t : Fin 36, eccColumn s.val = eccColumn t.val → s.val = t.val) ⟨s, hs⟩ ⟨t, ht⟩ h

theorem eccColumn_head {s : Nat} (hs : s < 36) : (eccColumn s).getD 0 0 = if s = 33 then 0 else 1 :=
  (by decide : ∀ s : Fin 36, (eccColumn s.val).getD 0 0 = if s.val = 33 then 0 else 1) ⟨s, hs⟩

/-- An error of one symbol is no other symbol's. -/
theorem eccSymbol_mul_pow {e s : Nat} (he : e < 16) (t : Nat) : eccSymbol (e * 2 ^ (4 * s)) t = if t = s then e else 0 := by
  rw [eccSymbol_eq]
  rcases Nat.lt_trichotomy t s with h | rfl | h
  · obtain ⟨k, rfl⟩ : ∃ k, s = t + 1 + k := ⟨s - t - 1, by omega⟩
    rw [if_neg (by omega), show e * 2 ^ (4 * (t + 1 + k)) = e * 2 ^ (4 * k) * 16 * 2 ^ (4 * t) by ring,
      Nat.mul_div_cancel _ (Nat.two_pow_pos _), Nat.mul_mod_left]
  · rw [if_pos rfl, Nat.mul_div_cancel _ (Nat.two_pow_pos _), Nat.mod_eq_of_lt he]
  · obtain ⟨k, rfl⟩ : ∃ k, t = s + (1 + k) := ⟨t - s - 1, by omega⟩
    have hk : e < 2 ^ (4 * (1 + k)) := (show e < 2 ^ 4 from he).trans_le (Nat.pow_le_pow_right (by decide) (by omega))
    rw [if_neg (by omega), show 4 * (s + (1 + k)) = 4 * s + 4 * (1 + k) by ring, pow_add, ← Nat.div_div_eq_div_mul,
      Nat.mul_div_cancel _ (Nat.two_pow_pos _), Nat.div_eq_of_lt hk]

/-- The syndrome of an error of one symbol is its share alone. -/
theorem eccSyndrome_mul_pow {e s : Nat} (he : e < 16) (hs : s < 36) :
    eccSyndrome (e * 2 ^ (4 * s)) = (eccColumn s).map (gfMul e) := by
  have h : eccSyndrome (e * 2 ^ (4 * s)) = eccTerm (e * 2 ^ (4 * s)) s :=
    eccSum_single (fun _ ht => List.mem_range.1 ht) List.nodup_range (List.mem_range.2 hs) fun t _ hts => by
      rw [eccSymbol_mul_pow he, if_neg hts]
  rw [h, eccTerm, eccSymbol_mul_pow he, if_pos rfl]

theorem getD_map_gfMul (x : List Nat) {e : Nat} (he : e < 16) (i : Nat) : (x.map (gfMul e)).getD i 0 = gfMul e (x.getD i 0) := by
  conv_lhs => rw [← gfMul_zero he]
  exact List.getD_map ..

/-- The share of a symbol in a syndrome tells the symbol and the error (R387): its first element that is not zero is the error. -/
theorem eccColumn_map_inj {e f s t : Nat} (he : e < 16) (hf : f < 16) (he0 : e ≠ 0) (hf0 : f ≠ 0) (hs : s < 36) (ht : t < 36)
    (h : (eccColumn s).map (gfMul e) = (eccColumn t).map (gfMul f)) : s = t ∧ e = f := by
  have hget (i : Nat) : gfMul e ((eccColumn s).getD i 0) = gfMul f ((eccColumn t).getD i 0) := by
    rw [← getD_map_gfMul _ he, ← getD_map_gfMul _ hf, h]
  have h0 := hget 0
  rw [eccColumn_head hs, eccColumn_head ht] at h0
  have hef : e = f := by
    by_cases h33 : s = 33
    · by_cases h33' : t = 33
      · have h1 := hget 1
        rw [h33, h33', show (eccColumn 33).getD 1 0 = 1 from rfl, gfMul_one he, gfMul_one hf] at h1
        exact h1
      · rw [if_pos h33, if_neg h33', gfMul_zero he, gfMul_one hf] at h0
        exact absurd h0.symm hf0
    · rw [if_neg h33, gfMul_one he] at h0
      by_cases h33' : t = 33
      · rw [if_pos h33', gfMul_zero hf] at h0
        exact absurd h0 he0
      · rwa [if_neg h33', gfMul_one hf] at h0
  subst hef
  have hcol (i : Nat) : (eccColumn s).getD i 0 = (eccColumn t).getD i 0 :=
    gfMul_left_cancel he he0 ((isVec_eccColumn hs).getD_lt i) ((isVec_eccColumn ht).getD_lt i) (hget i)
  refine ⟨eccColumn_distinct hs ht ?_, rfl⟩
  rw [(isVec_eccColumn hs).eq, (isVec_eccColumn ht).eq, hcol 0, hcol 1, hcol 2, hcol 3]

/-- The single-symbol errors. -/
def symbolErrors : List (Nat × Nat) := (List.range 36).flatMap fun s => (List.range 15).map fun e => (s, e + 1)

theorem mem_symbolErrors {p : Nat × Nat} : p ∈ symbolErrors ↔ p.1 < 36 ∧ 0 < p.2 ∧ p.2 < 16 := by
  obtain ⟨s, e⟩ := p
  simp only [symbolErrors, List.mem_flatMap, List.mem_map, List.mem_range, Prod.mk.injEq]
  constructor
  · rintro ⟨s', hs, e', he, rfl, rfl⟩
    exact ⟨hs, Nat.succ_pos _, Nat.succ_lt_succ he⟩
  · rintro ⟨hs, h0, he⟩
    exact ⟨s, hs, e - 1, by omega, rfl, by omega⟩

theorem nodup_symbolErrors : symbolErrors.Nodup := by
  refine List.nodup_flatMap.2 ⟨fun s _ => List.nodup_range.map fun a b h => ?_, List.nodup_range.imp_of_mem fun _ _ hst => ?_⟩
  · simpa using h
  · intro p hp hq
    simp only [List.mem_map] at hp hq
    obtain ⟨_, -, rfl⟩ := hp
    obtain ⟨_, -, h⟩ := hq
    exact hst (congrArg Prod.fst h).symm

/-- One error alone explains the syndrome of an error of one symbol. -/
theorem eccLocate_column {e s : Nat} (he : e < 16) (he0 : 0 < e) (hs : s < 36) :
    eccLocate ((eccColumn s).map (gfMul e)) = [(s, e)] := by
  have hmem : (s, e) ∈ symbolErrors := mem_symbolErrors.2 ⟨hs, he0, he⟩
  refine List.perm_singleton.1 ((List.perm_ext_iff_of_nodup (nodup_symbolErrors.filter _) (List.nodup_singleton _)).2 fun p => ?_)
  rw [List.mem_filter, List.mem_singleton, decide_eq_true_eq]
  constructor
  · rintro ⟨hp, h⟩
    obtain ⟨h1, h2, h3⟩ := mem_symbolErrors.1 hp
    obtain ⟨h4, h5⟩ := eccColumn_map_inj h3 he (by omega) (by omega) h1 hs h
    exact Prod.ext h4 h5
  · rintro rfl
    exact ⟨hmem, rfl⟩

/-- The share of a symbol in error is not the syndrome of a codeword. -/
theorem eccColumn_map_ne_zero {e s : Nat} (he : e < 16) (he0 : e ≠ 0) (hs : s < 36) :
    (eccColumn s).map (gfMul e) ≠ [0, 0, 0, 0] := by
  intro h
  have hget (i : Nat) : gfMul e ((eccColumn s).getD i 0) = ([0, 0, 0, 0] : List Nat).getD i 0 := by rw [← getD_map_gfMul _ he, h]
  by_cases h33 : s = 33
  · have h1 := hget 1
    rw [h33, show (eccColumn 33).getD 1 0 = 1 from rfl, gfMul_one he] at h1
    exact he0 h1
  · have h0 := hget 0
    rw [eccColumn_head hs, if_neg h33, gfMul_one he] at h0
    exact he0 h0

theorem eccJudge_symbol {e s : Nat} (he : e < 16) (he0 : 0 < e) (hs : s < 36) : eccJudge (e * 2 ^ (4 * s)) = .corrected s e := by
  unfold eccJudge
  dsimp only
  rw [eccSyndrome_mul_pow he hs, if_neg (eccColumn_map_ne_zero he he0.ne' hs), eccLocate_column he he0 hs]

/-- A decoder takes the one error that it finds out again. -/
theorem eccDeliver_of_corrected (d : Nat) {e s : Nat} (h : eccJudge (e * 2 ^ (4 * s)) = .corrected s e) :
    eccDeliver d (e * 2 ^ (4 * s)) = some d := by
  unfold eccDeliver
  rw [h]
  exact congrArg some (Nat.xor_xor_cancel_right ..)

/-- The syndrome of the poisoned codeword, an error in each check symbol, is no symbol's share (R529). -/
theorem eccJudge_poison : eccJudge eccPoison = .uncorrectable := by
  have hsyn : eccSyndrome eccPoison = [15, 1, 15, 15] := by decide
  have hno : ∀ (s : Fin 36) (e : Fin 15), (eccColumn s.val).map (gfMul (e.val + 1)) ≠ [15, 1, 15, 15] := by decide
  have hloc : eccLocate [15, 1, 15, 15] = [] := by
    refine List.filter_eq_nil_iff.2 fun p hp => ?_
    obtain ⟨h1, h2, h3⟩ := mem_symbolErrors.1 hp
    rw [decide_eq_true_eq]
    have h := hno ⟨p.1, h1⟩ ⟨p.2 - 1, by omega⟩
    rwa [show p.2 - 1 + 1 = p.2 by omega] at h
  unfold eccJudge
  dsimp only
  rw [hsyn, hloc]
  decide

/-- Settles O15: the shares of the symbols are distinct, so the decoder finds the error and takes it out. -/
theorem singleSymbolErrorsCorrected : Obligations.SingleSymbolErrorsCorrected := by
  refine ⟨fun d s e => ?_, deliver_zero, fun d => ?_⟩
  · have h := eccJudge_symbol (e := e.val + 1) (s := s.val) (by omega) (by omega) s.isLt
    exact ⟨h, eccDeliver_of_corrected d h⟩
  · unfold eccDeliver
    rw [eccJudge_poison]

end Sys2Proof.Machine
end

section
/-!
PROOF. Serial comparison (16 R407) and the partitions at power-on reset (15 R358): O10 and O13.
-/

namespace Sys2Proof.Machine

open Sys2Proof

/-! ### Serial comparison -/

/-- The distance that `precedes` forms is the difference of the two values round the wrap. -/
theorem serial_distance {n x : Nat} (y : Nat) (hx : x < 2 ^ n) :
    (((y + 2 ^ n - x % 2 ^ n) % 2 ^ n : Nat) : Int) = ((y : Int) - x) % 2 ^ n := by
  rw [Nat.mod_eq_of_lt hx]
  push_cast [Nat.cast_sub (show x ≤ y + 2 ^ n by omega)]
  rw [show (y : Int) + 2 ^ n - x = (y - x) + 2 ^ n by ring, Int.add_emod_right]

/-- Settles O10: the test is of that distance, which is 0 between equal values. -/
theorem serialComparison : Obligations.SerialComparison := by
  intro n x y _ hx _
  constructor
  · rw [← serial_distance y hx]
    unfold precedes
    rw [decide_eq_true_eq]
    norm_cast
  · unfold precedes
    rw [Nat.mod_eq_of_lt hx, Nat.add_sub_cancel_left, Nat.mod_self]
    rfl

/-! ### Power-on reset -/

/-- At power-on reset no register of the partitions has been written: each reads its reset value (R358). -/
theorem partitions_of_unwritten {t : State} (h : t.gate.act = []) :
    t.cfg pgSec 0x100 0 1 = 1 ∧ t.cfg pgSec 0x100 1 8 = 0xFF ∧ t.cfg pgSec 0x100 9 4 = 0 ∧ t.cfg pgSec 0x100 14 9 = 256 ∧
    t.cfg pgSec 0x100 23 7 = 64 ∧ t.cfg pgSec 0x104 0 10 = 0 ∧ t.cfg pgSec 0x104 10 11 = 1024 ∧ t.cfg pgSec 0x108 0 24 = 0 ∧
    t.cfg pgSec 0x10C 0 24 = 0xFFFFFF ∧ (∀ p : Fin 8, p ≠ 0 → t.cfg pgSec (0x100 + 0x40 * p.val) 0 1 = 0) ∧
    (∀ n : Fin 8, plotPart t.gate.act n.val = some 0) ∧ (∀ v : Fin 8, vfPart t.gate.act v.val.succ = none) := by
  unfold State.cfg
  rw [h]
  decide

/-- Settles O13: both states have no register written. -/
theorem partitionsAtPowerOnReset : Obligations.PartitionsAtPowerOnReset := by
  rintro s t (rfl | h)
  · exact partitions_of_unwritten rfl
  · obtain rfl := Host.Outcome.next.inj h
    exact partitions_of_unwritten rfl

end Sys2Proof.Machine
end

section
/-!
PROOF. Reads and writes of DRAM (18 R441, R443, R444; 16 R388): O16.
-/

namespace Sys2Proof.Machine

open Sys2Proof

/-- Outside every aperture an access covers its own bytes. -/
theorem dramExtent_of_none {m : SMap Word} {off : Nat} (h : sbaOf m off = none) (len : Nat) : dramExtent m off len = len := by
  unfold dramExtent
  rw [h]
  rfl

section
variable {s : State} {c : Option Nat} {addr : Nat}

/-- A read that may be made and meets no uncorrectable codeword returns the corrected bytes. -/
theorem State.dramRead_good {len : Nat} (hok : s.dramOk c addr len = true) (hout : sbaOf s.gate.act (addr - dramBase) = none)
    (hgood : ∀ cw ∈ cwsOf addr len, eccJudge (s.xorOf cw) ≠ .uncorrectable) :
    (s.dramRead c addr len).1 = some ((List.range len).map fun i => s.dramByte (addr + i)) := by
  unfold State.dramRead
  dsimp only
  rw [if_pos hok, dramExtent_of_none hout, if_pos (decode_ok s c _ hgood), hout]
  rfl

/-- A read that may not be made returns nothing. -/
theorem State.dramRead_refused {len : Nat} (hno : s.dramOk c addr len = false) : (s.dramRead c addr len).1 = none := by
  unfold State.dramRead
  dsimp only
  rw [if_neg (Bool.not_eq_true _ ▸ hno)]

/-- Outside the aperture and with the zeroing pass ended, a write that may be made puts its bytes through the code. -/
theorem State.dramWrite_mem {data : List (BitVec 8)} (hok : s.dramOk c addr data.length = true)
    (hout : sbaOf s.gate.act (addr - dramBase) = none) (hz : s.ddr.zeroing = false) :
    (s.dramWrite c addr data).mem = ((s.bumpBy pgDdr 0x70 (c.map s.partOf) data.length).dramPut c addr data).mem := by
  unfold State.dramWrite
  dsimp only
  rw [if_pos hok, dramExtent_of_none hout, hout, touch_none s _ _ hz]
  exact Keeps.mem_eq (State.touchCheck_keeps (Keeps.refl _) : LeavesMem _ _)

/-- Such a write stores its bytes, and leaves those outside the codewords that it covers. -/
theorem State.dramWrite_good {data : List (BitVec 8)} (hok : s.dramOk c addr data.length = true)
    (hout : sbaOf s.gate.act (addr - dramBase) = none) (hz : s.ddr.zeroing = false)
    (hgood : ∀ cw ∈ cwsOf addr data.length, eccJudge (s.xorOf cw) ≠ .uncorrectable) :
    (∀ (i : Nat) (h : i < data.length), (s.dramWrite c addr data).mem.read (addr + i) = data[i]) ∧
    ∀ a, a / 16 ∉ cwsOf addr data.length → (s.dramWrite c addr data).mem.read a = s.mem.read a := by
  have hput := put_fold (s.bumpBy pgDdr 0x70 (c.map s.partOf) data.length) c addr data (cwsOf addr data.length)
    (s.bumpBy pgDdr 0x70 (c.map s.partOf) data.length) hgood
  rw [State.dramWrite_mem hok hout hz, dramPut_eq]
  exact ⟨fun i h => hput.1 i h (mem_cws addr data.length i h), hput.2⟩

end

/-- Settles O16: the access is made on the state with its errors struck, which has the memory and the registers of the state before. -/
theorem dramReadsAndWritesComplete : Obligations.DramReadsAndWritesComplete := by
  refine ⟨fun c addr len k s hs hok hout hgood => ?_, fun c addr len k s hs hno => ?_, fun c addr data k s hs hok hout hz hgood => ?_⟩
  · refine ⟨_, congrArg Host.Outcome.next (State.live_of s _ hs), ?_⟩
    exact State.dramRead_good hok ((strike_eq s k).1 ▸ hout) hgood
  · refine ⟨_, congrArg Host.Outcome.next (State.live_of s _ hs), ?_⟩
    exact State.dramRead_refused hno
  · obtain ⟨hact, hmem, hddr⟩ := strike_eq s k
    refine ⟨_, congrArg Host.Outcome.next (State.live_of s _ hs), ?_⟩
    rw [← hmem]
    exact State.dramWrite_good hok (hact ▸ hout) (hddr ▸ hz) hgood

end Sys2Proof.Machine
end

section
/-!
PROOF. Register writes, staged writes and REVERT (21 R488 to R490, R496): O18.
-/

namespace Sys2Proof.Machine

open Sys2Proof

/-! ### A channel of the Commit Gate -/

@[simp] theorem State.modChan_chan (s : State) (k : Nat) (f : Channel → Channel) : (s.modChan k f).chan k = f (s.chan k) :=
  SMap.get_modify_self chanUnlisted _ _ _

@[simp] theorem State.dropped_chan (s : State) (v : View) (p : Page) (k : Nat) : (s.dropped v p).chan k = s.chan k := rfl

/-- A write that is dropped is reported in the view that made it (R490). -/
theorem State.event_dropped_self (s : State) (v : View) (p : Page) : (s.dropped v p).event v p 1 = true :=
  State.event_raiseIn_self s v p (by decide)

/-! ### Registers that software writes at once -/

section
variable {v : View} {off : Nat} {x : Word} {s : State} {p : Page}

/-- A write of a whole word to a register of access RW (R490). -/
theorem exec_registerWrite_rw {a : RegDef} {b n : Nat} {fs : List Field} (h : s.opens v (off / 4096) p = true)
    (hro : readOnlyAt p (off % 4096) = false) (hreg : regAt p (off % 4096) = some (a, b, n, fs))
    (hrw : (fs.any fun f => decide (f.acc = .rw)) = true) :
    exec (.registerWrite v off x 15) s = .next (s.writeRw v p (off % 4096) fs x.toNat) := by
  refine congrArg Host.Outcome.next ((State.live_takes (State.opens_takes h) _).trans ?_)
  rw [if_neg (by decide), State.onPage_of h, hro, hreg]
  exact if_pos hrw

/-- A reserved value in any field leaves the register as it is (R490; 00 R11). -/
theorem State.writeRw_reserved {fs : List Field} (y : Nat)
    (hres : (fs.any fun f => (Lim.check f.lim f.w (fieldOf y f.lo f.w)).isSome) = true) :
    s.writeRw v p off fs y = s.dropped v p := if_pos (.inl hres)

/-- Without one, and but for the mailbox while a command runs, the register takes its fields. -/
theorem State.writeRw_valid {fs : List Field} {y : Nat}
    (hres : (fs.any fun f => (Lim.check f.lim f.w (fieldOf y f.lo f.w)).isSome) = false)
    (hmb : ¬ (p.kind = .gkp ∧ s.gk.mb.isSome = true)) :
    SMap.get wordUnlisted (s.writeRw v p off fs y).gate.rw (regKey v p off) = BitVec.ofNat 32 (maskWord fs y) := by
  unfold State.writeRw
  rw [if_neg fun h => h.elim (fun hr => Bool.false_ne_true (hres.symm.trans hr)) hmb]
  exact SMap.get_put_self wordUnlisted _ _ _

/-- A write with partial byte enables is a bad access, reported as dropped too where it names a register (R489, R490). -/
theorem exec_registerWrite_partial {be : Nat} (h : s.takes v = true) (hbe : be < 15) :
    exec (.registerWrite v off x be) s = .next (s.badAccess v off true true) ∨
      ∃ p, exec (.registerWrite v off x be) s = .next ((s.badAccess v off true true).dropped v p) := by
  have hexec : exec (.registerWrite v off x be) s = .next (
      match viewPage v (off / 4096) with
      | some p => if definedAt p (off % 4096) then (s.badAccess v off true true).dropped v p else s.badAccess v off true true
      | none => s.badAccess v off true true) := by
    exact congrArg Host.Outcome.next ((State.live_takes h _).trans ((if_pos (by omega)).trans (State.written_of h _)))
  rw [hexec]
  split
  · split
    · exact .inr ⟨_, rfl⟩
    · exact .inl rfl
  · exact .inl rfl

/-- A bad access is recorded and raised on the page SYS (R490). -/
theorem State.event_badAccess (s : State) (v : View) (off : Nat) (write part' : Bool) :
    (s.badAccess v off write part').event .pf ⟨.sys, 0⟩ 8 = true := State.event_raise_self _ _ _ (by decide)

/-! ### Staging -/

/-- A staged write with bits that the view may write (R491, R496). -/
theorem exec_stagedWrite_staged {a b : Nat} {fs : List Field} (h : s.opens v (off / 4096) p = true)
    (hreg : stagedAt p (off % 4096) = some (a, b, fs)) (hmask : viewMask s.gate.act v p (off % 4096) x.toNat ≠ 0)
    {r : Channel × Bool} (hr : (s.chan (chanOf v)).stage (regKey v p (off % 4096))
      (BitVec.ofNat 32 (Nat.land (maskWord fs x.toNat) (viewMask s.gate.act v p (off % 4096) x.toNat))) = r) :
    exec (.stagedWrite v off x) s = .next (if r.2 then s.modChan (chanOf v) fun _ => r.1
      else (s.modChan (chanOf v) fun _ => r.1).dropped v p) := by
  refine congrArg Host.Outcome.next ((State.live_opens h _ _).trans ?_)
  rw [hreg]
  dsimp only
  rw [if_neg hmask, hr]

/-- While there is room the word is taken (R496). -/
theorem Channel.stage_room {c : Channel} (k : Nat) (x : Word) (h : c.stagedWords.length < 4096) :
    c.stage k x = ({ c with staging := putStaged c.staging k x }, true) := if_pos (.inr h)

/-- Full staging takes no further word (R496). -/
theorem Channel.stage_full {c : Channel} {k : Nat} (x : Word) (h : 4096 ≤ c.stagedWords.length)
    (hk : (c.stagedWords.any fun w => decide (w.1 = k)) = false) : c.stage k x = ({ c with stageFull := true }, false) :=
  if_neg fun hc => hc.elim (fun ht => Bool.false_ne_true (hk.symm.trans ht)) fun hl => by omega

theorem mem_putStaged (l : List (Nat × Word)) (k : Nat) (x : Word) : (k, x) ∈ putStaged l k x :=
  List.mem_append_right _ (List.mem_singleton_self _)

/-- REVERT keeps the staged words of other pages (R488). -/
theorem exec_revert_opened {page : Nat} (h : s.opens v page p = true) : ∃ t, exec (.revert v page) s = .next t ∧
    (t.chan (chanOf v)).staging = (s.chan (chanOf v)).staging.filter fun w => decide (w.1 % 2 ^ 26 / 4096 ≠ pageNo p) := by
  refine ⟨_, congrArg Host.Outcome.next (State.live_opens h _ _), ?_⟩
  rw [State.modChan_chan]
  rfl

end

/-- Settles O18, write by write. -/
theorem registerWritesComplete : Obligations.RegisterWritesComplete := by
  refine ⟨fun v off x s p a b n fs h hro hreg hrw hmb => ⟨_, exec_registerWrite_rw h hro hreg hrw, fun hres => ?_,
    fun hres => State.writeRw_valid hres hmb⟩, fun v off be x s h hbe => ?_, fun v off x s p a b fs h hreg hmask => ?_,
    fun v page s p h => ?_⟩
  · rw [State.writeRw_reserved _ hres]
    exact ⟨rfl, State.event_dropped_self s v p⟩
  · have hbad := s.event_badAccess v off true true
    rcases exec_registerWrite_partial h hbe with he | ⟨p, he⟩
    · exact ⟨_, he, rfl, hbad⟩
    · exact ⟨_, he, rfl, State.event_raiseIn _ _ _ _ _ _ _ hbad⟩
  · refine ⟨_, exec_stagedWrite_staged h hreg hmask rfl, fun hroom => ?_, fun hfull hnew => ?_⟩
    · rw [Channel.stage_room _ _ hroom, if_pos rfl, State.modChan_chan]
      exact mem_putStaged _ _ _
    · rw [Channel.stage_full _ hfull hnew, if_neg Bool.false_ne_true, State.dropped_chan, State.modChan_chan]
      exact ⟨rfl, rfl⟩
  · obtain ⟨t, ht, hstaging⟩ := exec_revert_opened h
    refine ⟨t, ht, fun w hw => ?_, fun w hw hne => ?_⟩
    · rw [hstaging] at hw
      exact of_decide_eq_true (List.mem_filter.1 hw).2
    · rw [hstaging]
      exact List.mem_filter.2 ⟨hw, decide_eq_true hne⟩

end Sys2Proof.Machine
end

section
/-!
PROOF. Snapshots, event writes and vectors (21 R492 to R494): O19.
-/

namespace Sys2Proof.Machine

open Sys2Proof

/-! ### Snapshots -/

theorem State.snapPage_hub (s : State) (v : View) (p : Page) : (s.snapPage v p).hub = { s.hub with
    latch := (s.snapCounters v p ++ s.snapOther v p).foldl
      (fun m e => SMap.put wordUnlisted m (v.no * 2 ^ 26 + regAddr p e.1) (BitVec.ofNat 32 e.2)) s.hub.latch } := by
  unfold State.snapPage
  dsimp only
  split <;> rfl

/-- A snapshot latches each word of the page in the view that takes it: the words stand at distinct offsets (R492). -/
theorem State.snapPage_latch (s : State) (v : View) (p : Page) {e : Nat × Nat} (he : e ∈ s.snapCounters v p ++ s.snapOther v p) :
    SMap.get wordUnlisted (s.snapPage v p).hub.latch (v.no * 2 ^ 26 + regAddr p e.1) = BitVec.ofNat 32 e.2 := by
  have hinj : Function.Injective fun off => v.no * 2 ^ 26 + regAddr p off := fun a b h => by
    simp only [regAddr] at h
    omega
  have hn := (s.snap_offsets v p).map hinj
  rw [List.map_map] at hn
  rw [State.snapPage_hub]
  exact SMap.get_foldl_put wordUnlisted (fun e : Nat × Nat => v.no * 2 ^ 26 + regAddr p e.1) (fun e => BitVec.ofNat 32 e.2) _ _ hn e he

/-- Clearing zeroes each counter of the page (R492). -/
theorem State.clearCounters_count (s : State) (p : Page) {off : Nat} (hc : isCounter p.kind off = true) (hoff : off < 4096)
    (ha : regAddr p off < 2 ^ 26) : (s.clearCounters p).count p off = 0 := by
  refine SMap.get_filter_out zeroUnlisted _ _ s.hub.cnt fun n => ?_
  simp only [regAddr] at ha
  have hpage : cntKey 0 p off % 2 ^ 26 / 4096 = pageNo p := by
    simp only [cntKey, regAddr]
    omega
  have hmod : cntKey 0 p off % 4096 = off := by
    simp only [cntKey, regAddr]
    omega
  simp only [hpage, hmod, hc, decide_true, Bool.and_self, Bool.not_true]

/-! ### Event words -/

/-- What the hub sends again changes no event bit but bit 0, and no mask. -/
theorem State.resend_event (s : State) (v w : View) (p q : Page) {b : Nat} (hb : 0 < b) :
    (s.resend v p).event w q b = s.event w q b := by
  unfold State.resend
  split
  · rfl
  · exact Hub.raw_notify s.gate.act s.hub v p w q hb

theorem State.resend_evtMask (s : State) (v w : View) (p q : Page) : (s.resend v p).evtMask w q = s.evtMask w q := by
  unfold State.resend
  split
  · rfl
  · exact congrArg (fun m => SMap.get maskUnlisted m (evtKey w q)) (Hub.mask_notify s.gate.act s.hub v p).1

theorem getLsbD_and_not (w x : Word) (b : Nat) : (w &&& ~~~x).getLsbD b = (w.getLsbD b && !x.getLsbD b) := by
  rw [BitVec.getLsbD_and, BitVec.getLsbD_not]
  rcases Nat.lt_or_ge b 32 with h | h
  · simp [h]
  · simp [BitVec.getLsbD_of_ge w b h]

section
variable {v : View} {page : Nat} {s : State} {p : Page}

theorem exec_evtClearWrite_event (x : Word) {b : Nat} (h : s.opens v page p = true) (hb : 0 < b) :
    ∃ t, exec (.evtClearWrite v page x) s = .next t ∧ t.event v p b = (s.event v p b && !x.getLsbD b) := by
  refine ⟨_, congrArg Host.Outcome.next (State.live_opens h _ _), ?_⟩
  rw [State.resend_event _ _ _ _ _ hb, State.event, State.evtRaw, SMap.get_modify_self, getLsbD_and_not]
  rfl

theorem exec_evtMaskWrite_mask (x : Word) (h : s.opens v page p = true) :
    ∃ t, exec (.evtMaskWrite v page x) s = .next t ∧ t.evtMask v p = x := by
  refine ⟨_, congrArg Host.Outcome.next (State.live_opens h _ _), ?_⟩
  rw [State.resend_evtMask]
  exact SMap.get_put_self maskUnlisted _ _ _

end

/-! ### Vectors -/

/-- A vector of the table is unmasked, sends the message that was pending, and is not pending (R494). -/
theorem exec_msixUnmask_entry {fn : Fin 9} {vector : Nat} {s : State} (hs : s.stopped = false) (hv : vector < tableSize fn.val)
    (hm : SMap.get flagUnlisted s.hub.mute fn.val = false) : ∃ t, exec (.msixUnmask fn vector) s = .next t ∧
      SMap.get vecUnlisted t.hub.vecMask (2048 * fn.val + vector) = false ∧
      SMap.get flagUnlisted t.hub.vecPend (2048 * fn.val + vector) = false ∧
      t.hub.out = s.hub.out ++ (if SMap.get flagUnlisted s.hub.vecPend (2048 * fn.val + vector) then [Sent.msi fn.val vector] else []) := by
  refine ⟨_, congrArg Host.Outcome.next ((State.live_of s _ hs).trans (if_neg (by omega))), ?_⟩
  dsimp only
  have hmask : SMap.get vecUnlisted (SMap.put vecUnlisted s.hub.vecMask (2048 * fn.val + vector) false) (2048 * fn.val + vector) = false :=
    SMap.get_put_self vecUnlisted _ _ _
  have hpend : SMap.get flagUnlisted (SMap.put flagUnlisted s.hub.vecPend (2048 * fn.val + vector) false) (2048 * fn.val + vector) = false :=
    SMap.get_put_self flagUnlisted _ _ _
  split
  · obtain ⟨hmask', hpend', hout⟩ := Hub.sendVector_out { s.hub with
        vecMask := SMap.put vecUnlisted s.hub.vecMask (2048 * fn.val + vector) false
        vecPend := SMap.put flagUnlisted s.hub.vecPend (2048 * fn.val + vector) false } fn.val vector (fnView fn.val) hmask hm
    rw [hmask', hpend', hout]
    exact ⟨hmask, hpend, rfl⟩
  · exact ⟨hmask, hpend, (List.append_nil _).symm⟩

/-- Settles O19, write by write. -/
theorem snapshotsAndEventsComplete : Obligations.SnapshotsAndEventsComplete := by
  refine ⟨fun v page s p h => ⟨_, congrArg Host.Outcome.next (State.live_opens h _ _), fun e he => s.snapPage_latch v p he⟩,
    fun v page s p h => ⟨_, congrArg Host.Outcome.next (State.live_opens h _ _), fun hvf => ?_, fun hvf off hc hoff ha => ?_⟩,
    fun v page x s p b h hb => exec_evtClearWrite_event x h hb, fun v page x s p h => exec_evtMaskWrite_mask x h,
    fun fn vector s hs hv hm => exec_msixUnmask_entry hs hv hm⟩
  · rw [if_pos hvf]
    exact ⟨State.latch_dropped s v p, State.event_raiseIn_self s v p (by decide)⟩
  · rw [hvf, if_neg Bool.false_ne_true]
    exact (s.snapPage v p).clearCounters_count p hc hoff ha

end Sys2Proof.Machine
end

section
/-!
PROOF. The selection of a channel, GO, ABORT and the hooks (21 R497, R498, R503, R508; 08 R209): O20.
-/

namespace Sys2Proof.Machine

open Sys2Proof

theorem State.cmtCount_gate (s : State) (v : View) (off : Nat) : (s.cmtCount v off).gate = s.gate := by
  unfold State.cmtCount
  dsimp only
  split <;> rfl

@[simp] theorem State.cmtCount_chan (s : State) (v : View) (off k : Nat) : (s.cmtCount v off).chan k = s.chan k := by
  rw [State.chan, State.cmtCount_gate]
  rfl

@[simp] theorem State.retryRepair_chan (s : State) (c : Commit) (k : Nat) : (s.retryRepair c).chan k = s.chan k := by
  unfold State.retryRepair
  split <;> rfl

section
variable {v : View} {s : State}

/-! ### The selection -/

/-- A change of a view's own channel (R497). -/
theorem State.live_onCmt_modChan (h : s.takes v = true) (f : Channel → Channel) :
    (s.live fun s => s.onCmt v fun s => s.modChan (chanOf v) f) = s.modChan (chanOf v) f :=
  (State.live_takes h _).trans (State.onCmt_of h _)

/-- A page put in a selection. -/
def Channel.select (c : Channel) (page : Nat) : Channel :=
  if page ∈ c.sel then c
  else if c.sel.length < 256 then { c with sel := c.sel ++ [page] }
  else { c with setOvf := true }

theorem exec_selectionAdd_page {page : Nat} (h : s.takes v = true) (hpage : (viewPage v page).isSome = true) :
    exec (.selectionAdd v page) s = .next (s.modChan (chanOf v) fun c => c.select page) := by
  refine congrArg Host.Outcome.next ((State.live_takes h _).trans ((State.onCmt_of h _).trans (if_neg ?_)))
  rw [Option.isSome_iff_ne_none] at hpage
  rwa [Option.isNone_iff_eq_none]

/-- While there is room, the page joins the selection, and no other page joins or leaves it (R497). -/
theorem Channel.select_room {c : Channel} {page : Nat} (h : page ∈ c.sel ∨ c.sel.length < 256) :
    page ∈ (c.select page).sel ∧ ∀ n, n ≠ page → (n ∈ (c.select page).sel ↔ n ∈ c.sel) := by
  unfold Channel.select
  by_cases hin : page ∈ c.sel
  · rw [if_pos hin]
    exact ⟨hin, fun _ _ => Iff.rfl⟩
  · rw [if_neg hin, if_pos (h.resolve_left hin)]
    refine ⟨List.mem_append_right _ (List.mem_singleton_self page), fun n hn => ?_⟩
    rw [List.mem_append, List.mem_singleton]
    exact ⟨fun k => k.resolve_right hn, .inl⟩

/-- A full selection takes no other page (R497, R508). -/
theorem Channel.select_full {c : Channel} {page : Nat} (hout : page ∉ c.sel) (hfull : 256 ≤ c.sel.length) :
    (c.select page).setOvf = true ∧ (c.select page).sel = c.sel := by
  unfold Channel.select
  rw [if_neg hout, if_neg (by omega)]
  exact ⟨rfl, rfl⟩

/-! ### GO and ABORT -/

/-- The commit that a GO takes has the selected pages and the staged words of them, and its checks run (R498). -/
theorem exec_go_idle (h : s.takes v = true) (hidle : (s.chan (chanOf v)).flight = []) : ∃ t, exec (.go v) s = .next t ∧
    (t.chan (chanOf v)).state = .checking ∧ ∃ c, (t.chan (chanOf v)).flight = [c] ∧ c.checking = true ∧
      c.pages = (s.chan (chanOf v)).sel ∧ c.words = (s.chan (chanOf v)).staging.filter fun w =>
        decide (w.1 % 2 ^ 26 / 4096 ∈ (s.chan (chanOf v)).sel.filterMap fun no => (viewPage v no).map pageNo) := by
  refine ⟨_, congrArg Host.Outcome.next ((State.live_takes h _).trans ((State.written_of h _).trans (if_pos hidle))), ?_⟩
  rw [State.cmtCount_chan, State.beginCommit, State.modChan_chan, chanOwner_chanOf]
  exact ⟨rfl, _, rfl, rfl, rfl, rfl⟩

/-- A staged word stands on a selected page. -/
theorem mem_selected_words (l : List (Nat × Word)) (sel : List Nat) (w : Nat × Word) :
    w ∈ (l.filter fun w => decide (w.1 % 2 ^ 26 / 4096 ∈ sel.filterMap fun no => (viewPage v no).map pageNo)) ↔
      w ∈ l ∧ ∃ no ∈ sel, ∃ p, viewPage v no = some p ∧ w.1 % 2 ^ 26 / 4096 = pageNo p := by
  rw [List.mem_filter, decide_eq_true_eq, List.mem_filterMap]
  refine and_congr_right fun _ => exists_congr fun no => and_congr_right fun _ => ?_
  rw [Option.map_eq_some_iff]
  exact exists_congr fun p => and_congr_right fun _ => eq_comm

/-- ABORT gives the words of the commit in flight back to staging (R496, R503). -/
theorem exec_abort_flying {c : Commit} {l : List Commit} (h : s.takes v = true) (hf : (s.chan (chanOf v)).flight = c :: l) :
    ∃ t, exec (.abort v) s = .next t ∧ (t.chan (chanOf v)).flight = [] ∧ (t.chan (chanOf v)).state = .aborted ∧
      (t.chan (chanOf v)).staging = (s.chan (chanOf v)).stagedWords := by
  have hexec : exec (.abort v) s = .next ((s.modChan (chanOf v) fun x => { x.giveBack with state := .aborted }).retryRepair c) := by
    refine congrArg Host.Outcome.next ((State.live_takes h _).trans ((State.written_of h _).trans ?_))
    dsimp only
    rw [hf]
  refine ⟨_, hexec, ?_⟩
  rw [State.retryRepair_chan, State.modChan_chan]
  exact ⟨rfl, rfl, rfl⟩

end

/-! ### Hooks -/

/-- A commit as a hook at a device time leaves it: due, its comparator free, where its instant has come (08 R209). -/
def Commit.fire (dev : Nat) (c : Commit) : Commit :=
  match c.hookAt with
  | some h => if !c.checking && decide (devDiff h dev ≤ 0) then { c with due := true, comparator := false } else c
  | none => c

theorem Commit.fire_hookAt (dev : Nat) (c : Commit) : (c.fire dev).hookAt = c.hookAt ∧ (c.fire dev).checking = c.checking := by
  unfold Commit.fire
  split
  · split <;> exact ⟨rfl, rfl⟩
  · exact ⟨rfl, rfl⟩

theorem Commit.fire_reached {dev h : Nat} {c : Commit} (hh : (c.fire dev).hookAt = some h) (hc : (c.fire dev).checking = false)
    (hd : devDiff h dev ≤ 0) : (c.fire dev).due = true ∧ (c.fire dev).comparator = false := by
  obtain ⟨hhook, hcheck⟩ := c.fire_hookAt dev
  rw [hhook] at hh
  rw [hcheck] at hc
  unfold Commit.fire
  rw [hh]
  dsimp only
  rw [hc, decide_eq_true hd]
  exact ⟨rfl, rfl⟩

theorem State.fireHooks_chans (s : State) : s.fireHooks.gate.chans =
    s.gate.chans.map fun e => (e.1, { e.2 with flight := e.2.flight.map (Commit.fire s.sdl.dev) }) := rfl

/-- Settles O20, write by write, and the hooks commit by commit. -/
theorem commitSelectionAndGoComplete : Obligations.CommitSelectionAndGoComplete := by
  refine ⟨fun v page s h hpage => ⟨_, exec_selectionAdd_page h hpage, fun hroom => ?_, fun hout hfull => ?_⟩,
    fun v page s h => ⟨_, congrArg Host.Outcome.next (State.live_onCmt_modChan h _), fun n => ?_⟩,
    fun v s h => ⟨_, congrArg Host.Outcome.next (State.live_onCmt_modChan h _), ?_⟩,
    fun v index s h => ⟨_, congrArg Host.Outcome.next (State.live_onCmt_modChan h _), ?_⟩,
    fun v s h hidle => ?_, fun v s c l h hf => exec_abort_flying h hf, fun x s hs => ?_⟩
  · rw [State.modChan_chan]
    exact Channel.select_room hroom
  · rw [State.modChan_chan]
    exact Channel.select_full hout hfull
  · rw [State.modChan_chan]
    exact List.mem_filter.trans (and_congr_right fun _ => decide_eq_true_iff)
  · rw [State.modChan_chan]
    exact ⟨rfl, rfl⟩
  · rw [State.modChan_chan]
  · obtain ⟨t, ht, hstate, c, hflight, hchecking, hpages, hwords⟩ := exec_go_idle h hidle
    exact ⟨t, ht, hstate, c, hflight, hchecking, hpages, fun w => hwords ▸ mem_selected_words _ _ w⟩
  · refine ⟨_, congrArg Host.Outcome.next (State.live_of s _ hs), ?_⟩
    rw [State.fireHooks_chans]
    intro e he c hc h hh hchecking hd
    obtain ⟨e0, -, rfl⟩ := List.mem_map.1 he
    obtain ⟨c0, -, rfl⟩ := List.mem_map.1 hc
    exact Commit.fire_reached hh hchecking hd

end Sys2Proof.Machine
end

section
/-!
PROOF. The end of a commit's checks, an apply, and the repairs of the fault block (21 R498 to R502, 16 R393): O23.
-/

namespace Sys2Proof.Machine

open Sys2Proof

/-! ### What leaves the Commit Gate as it is -/

theorem State.cmtNote_gate (s : State) (v : View) (off b : Nat) : (s.cmtNote v off b).gate = s.gate :=
  State.cmtCount_gate s v off

@[simp] theorem State.cmtNote_chan (s : State) (v : View) (off b k : Nat) : (s.cmtNote v off b).chan k = s.chan k :=
  State.cmtCount_chan s v off k

theorem State.fltLog_gate (s : State) (r : FltRec) : (s.fltLog r).gate = s.gate :=
  Keeps.gate_eq (State.fltLog_keeps (Keeps.refl _) : LeavesGate s _)

/-! ### The end of the checks (R498, R499) -/

/-- A rejected commit gives its words back, and its channel holds the code and the page of the failure. -/
theorem State.rejectCommit_chan (s : State) (k : Nat) (c : Commit) (code page : Nat) :
    (s.rejectCommit k c code page).chan k =
      { s.chan k with staging := (s.chan k).stagedWords, flight := [], state := .rejected, code := code, page := page } := by
  rw [State.rejectCommit, State.retryRepair_chan, State.cmtNote_chan, State.modChan_chan]
  rfl

theorem State.acceptCommit_chan (s : State) (k : Nat) (c : Commit) :
    ((s.acceptCommit k c).chan k).state = .pending ∧ ((s.acceptCommit k c).chan k).flight = [c] := by
  have hchan : (s.acceptCommit k c).chan k = { s.chan k with flight := [c], state := .pending, code := 0, page := 0 } := by
    unfold State.acceptCommit
    dsimp only
    split <;> exact State.modChan_chan s k fun x => { x with flight := [c], state := .pending, code := 0, page := 0 }
  rw [hchan]
  exact ⟨rfl, rfl⟩

section
variable {s : State} {k : Nat} {c : Commit} (hc : ((s.chan k).flight.find? fun c => c.checking) = some c)
include hc

theorem State.checksEnd_channel {code : Nat} (h : s.channelCheck k (s.armed c) = some code) :
    s.checksEnd k = s.rejectCommit k c code 0 := by
  simp only [State.checksEnd, hc, h]

theorem State.checksEnd_judged {code page : Nat} (h : s.channelCheck k (s.armed c) = none)
    (hj : s.judge (s.basis k (s.armed c)) k c = some (code, page)) : s.checksEnd k = s.rejectCommit k c code page := by
  simp only [State.checksEnd, hc, h, hj]

theorem State.checksEnd_accepted (h : s.channelCheck k (s.armed c) = none)
    (hj : s.judge (s.basis k (s.armed c)) k c = none) : s.checksEnd k = s.acceptCommit k (s.armed c) := by
  simp only [State.checksEnd, hc, h, hj]

end

/-! ### Words of the event hub (R500) -/

/-- A word on the page of the event hub has no effect beside its value. -/
theorem State.applyWord_evh (s : State) (a : SMap Word) {key : Nat} (h : pfPage (key % 2 ^ 26 / 4096) = some pgEvh) :
    s.applyWord a key = s := by
  unfold State.applyWord
  rw [h]
  rfl

theorem takesWord_evh {words : List (Nat × Word)} (h : ∀ w ∈ words, pfPage (w.1 % 2 ^ 26 / 4096) = some pgEvh) {no : Nat}
    (hno : pfPage no ≠ some pgEvh) (lo hi : Nat) : takesWord words no lo hi = false := by
  refine List.any_eq_false.2 fun w hw htaken => hno ?_
  have hpage : w.1 % 2 ^ 26 / 4096 = no := (of_decide_eq_true htaken).1
  rw [← hpage]
  exact h w hw

theorem State.applyEffects_evh (s : State) (a : SMap Word) {words : List (Nat × Word)}
    (h : ∀ w ∈ words, pfPage (w.1 % 2 ^ 26 / 4096) = some pgEvh) : s.applyEffects a words = s := by
  have hwords : words.foldl (fun t w => State.applyWord t a w.1) s = s := by
    induction words with
    | nil => rfl
    | cons w l ih =>
      rw [List.foldl_cons, State.applyWord_evh s a (h w List.mem_cons_self)]
      exact ih fun w hw => h w (List.mem_cons_of_mem _ hw)
  have hsto : ∀ n ∈ List.range 8, pfPage (pageNo (pgSto n)) ≠ some pgEvh := by decide
  have hstores : ∀ l : List Nat, (∀ n ∈ l, n ∈ List.range 8) →
      l.foldl (fun t n => if takesWord words (pageNo (pgSto n)) 0x200 0x600 then State.nextZeroOrder t n else t) s = s := by
    intro l hl
    induction l with
    | nil => rfl
    | cons n l ih =>
      rw [List.foldl_cons, takesWord_evh h (hsto n (hl n List.mem_cons_self))]
      exact ih fun m hm => hl m (List.mem_cons_of_mem _ hm)
  unfold State.applyEffects
  dsimp only
  rw [hwords, hstores _ fun _ hn => hn, takesWord_evh h (no := pageNo pgTrn) (by decide),
    takesWord_evh h (no := pageNo pgPwr) (by decide)]
  rfl

/-- A commit that changes only routes of the event hub puts its words into the active values. -/
theorem State.applyCommit_evh (s : State) (k : Nat) {c : Commit} (late re : Bool)
    (h : ∀ w ∈ c.words, pfPage (w.1 % 2 ^ 26 / 4096) = some pgEvh) :
    (s.applyCommit k c late re).gate.act = putWords (chanOwner k) s.gate.act c.words := by
  unfold State.applyCommit
  dsimp only
  rw [State.applyEffects_evh _ _ h]
  split
  · rw [State.cmtNote_gate, State.cmtNote_gate]
    rfl
  · rw [State.cmtNote_gate]
    rfl

/-- With no commit due, an apply event leaves every active value. -/
theorem State.applyDue_none {s : State} {p : Commit → Bool} (h : sortCommits (s.accepted.filter fun x => x.2.due && p x.2) = []) :
    (s.applyDue p).gate.act = s.gate.act := by
  simp only [State.applyDue, h, List.filter_nil, List.foldl_nil, State.noteApply_act]

theorem State.applyDue_one {s : State} {p : Commit → Bool} {k : Nat} {c : Commit}
    (h : sortCommits (s.accepted.filter fun x => x.2.due && p x.2) = [(k, c)]) (hclean : c.dirty = false)
    (hevh : ∀ w ∈ c.words, pfPage (w.1 % 2 ^ 26 / 4096) = some pgEvh) :
    (s.applyDue p).gate.act = putWords (chanOwner k) s.gate.act c.words := by
  have hnow : [(k, c)].filter (fun x => !x.2.dirty) = [(k, c)] := by simp [hclean]
  have hlater : [(k, c)].filter (fun x => x.2.dirty) = [] := by simp [hclean]
  simp only [State.applyDue, h, hnow, hlater, List.foldl_nil, List.foldl_cons, State.noteApply_act]
  exact State.applyCommit_evh s k c.late false hevh

theorem State.advance_act (s : State) (x : Nat) : (s.advance x).gate.act = s.gate.act :=
  congrArg Gate.act (Keeps.gate_eq (State.advance_keeps (Keeps.refl _) : LeavesGate s _))

/-! ### Repairs staged and issued again (R393, R502) -/

theorem State.beginCommit_chan (s : State) (k : Nat) (pages : List Nat) (inst : Instant) (repair : Bool) :
    ((s.beginCommit k pages inst repair).chan k).state = .checking := by
  rw [State.beginCommit, State.modChan_chan]

/-- The Graft at the head of the queue becomes a commit of channel 9 whose checks run. -/
theorem State.stageRepairs_graft {s : State} {r : Repair} {rest : List Repair} {a : List Page × List (Nat × Nat)}
    (hq : s.flt.queue = r :: rest) (hgraft : r.prune = false) (hidle : (s.chan 9).flight = []) (hretry : s.flt.retryAt = none)
    (hwords : s.repairWords r = some a) : (s.stageRepairs.chan 9).state = .checking := by
  have hfree : ¬ ((s.chan 9).flight ≠ [] ∨ s.flt.retryAt.isSome = true) := by
    rw [hidle, hretry]
    simp
  unfold State.stageRepairs
  rw [State.stageRepair, hq]
  dsimp only
  rw [if_neg (by rw [hgraft]; decide), if_neg hfree, hwords]
  dsimp only
  rw [State.chan, State.fltLog_gate, ← State.chan, State.cmtCount_chan]
  exact State.beginCommit_chan _ _ _ _ _

/-! ### A Graft applies (R393) -/

theorem State.fltLog_queue (s : State) (r : FltRec) : (s.fltLog r).flt.queue = s.flt.queue := by
  obtain ⟨w, hw⟩ := State.fltLog_flt s r
  rw [hw]

theorem State.capacity_queue (s : State) : s.capacity.flt.queue = s.flt.queue :=
  congrArg Flt.queue (Keeps.flt_eq (State.capacity_keeps (Keeps.refl _) : LeavesFlt s _))

/-- A repair that is done leaves the queue. -/
theorem State.repairDone_queue (s : State) (r : Repair) (almOk : Bool) : (s.repairDone r almOk).flt.queue = s.flt.queue.tail :=
  congrArg Flt.queue (Keeps.flt_eq (State.almanac_keeps (Keeps.refl _) : LeavesFlt { s with flt := { s.flt with queue := s.flt.queue.tail } } _))

theorem State.advanceEpoch_queue (s : State) (cls plot index : Nat) : (s.advanceEpoch cls plot index).flt.queue = s.flt.queue := rfl

theorem State.scrubBedUnit_queue (s : State) (n : Fin 8) (b : Fin 17) : (s.scrubBedUnit n b).flt.queue = s.flt.queue := by
  rw [State.scrubBedUnit, State.advanceEpoch_queue]
  exact congrArg Flt.queue (Keeps.flt_eq (State.scrubBed_keeps (Keeps.refl _) : LeavesFlt s _))

/-- The failed unit Pruned, and the unit that takes its place scrubbed, its epoch advanced. -/
def State.graftUnits (s : State) (a : SMap Word) (r : Repair) : State :=
  match r.cls with
  | 1 =>
    let t := s.modBed r.plot r.index fun b => { b with pruned := true }
    if Machine.cfg a (pgBed r.plot r.index) 0x100 4 1 = 1 then t.scrubBedUnit (plotFin r.plot) 16 else t
  | 5 => ((List.range 5).filter fun u => servesIn s.gate.act u && !servesIn a u).foldl (fun t u => t.advanceEpoch 5 0 u)
      (s.modUnit 5 0 r.index fun u => { u with pruned := true })
  | _ => s

theorem State.graftUnits_queue (s : State) (a : SMap Word) (r : Repair) : (s.graftUnits a r).flt.queue = s.flt.queue := by
  have hepochs : ∀ (l : List Nat) (t : State), (l.foldl (fun t u => t.advanceEpoch 5 0 u) t).flt.queue = t.flt.queue := by
    intro l
    induction l with
    | nil => exact fun _ => rfl
    | cons u l ih => exact fun t => ih _
  unfold State.graftUnits
  split
  · dsimp only
    split
    · exact State.scrubBedUnit_queue _ _ _
    · rfl
  · exact hepochs _ _
  · rfl

/-- The counts, events and records of a Graft. -/
theorem State.graftDone_eq (s : State) (a : SMap Word) (r : Repair) (almOk : Bool) :
    ∃ t : State, s.graftDone a r almOk = t.repairDone r almOk ∧ t.flt.queue = (s.graftUnits a r).flt.queue ∧
      t.beds = (s.graftUnits a r).beds := by
  refine ⟨_, rfl, ?_⟩
  change (if _ then _ else _ : State).flt.queue = _ ∧ (if _ then _ else _ : State).beds = _
  have hbeds : ∀ (u : State) (x : FltRec), (u.fltLog x).beds = u.beds := fun u x =>
    Keeps.beds_eq (State.fltLog_keeps (Keeps.refl _) : LeavesBeds u _)
  split
  · refine ⟨(State.capacity_queue _).trans (State.fltLog_queue _ _), ?_⟩
    exact (Keeps.beds_eq (State.capacity_keeps (Keeps.refl _) : LeavesBeds _ _)).trans (hbeds _ _)
  · exact ⟨State.fltLog_queue _ _, hbeds _ _⟩

theorem State.graftDone_queue (s : State) (a : SMap Word) (r : Repair) (almOk : Bool) :
    (s.graftDone a r almOk).flt.queue = s.flt.queue.tail := by
  obtain ⟨t, ht, hqueue, -⟩ := State.graftDone_eq s a r almOk
  rw [ht, State.repairDone_queue, hqueue, State.graftUnits_queue]

theorem State.graftDone_beds (s : State) (a : SMap Word) (r : Repair) (almOk : Bool) :
    (s.graftDone a r almOk).beds = (s.graftUnits a r).beds := by
  obtain ⟨t, ht, -, hbeds⟩ := State.graftDone_eq s a r almOk
  rw [ht, ← hbeds]
  exact Keeps.beds_eq (State.repairDone_keeps (Keeps.refl _) : LeavesBeds t (t.repairDone r almOk))

theorem State.advanceEpoch_bed (s : State) (cls plot index m c : Nat) : (s.advanceEpoch cls plot index).bed m c = s.bed m c := rfl

/-- Scrubbing a Bed leaves which Beds are Pruned. -/
theorem State.scrubBedUnit_pruned (s : State) (n : Fin 8) (b : Fin 17) (m c : Nat) :
    ((s.scrubBedUnit n b).bed m c).pruned = (s.bed m c).pruned := by
  have hzero : ∀ (l : List (Fin 16)) (t : State),
      (l.foldl (fun t k => State.zeroBytes t (sproutMem ⟨n, b, k⟩) 0x4000) t).beds = t.beds := by
    intro l
    induction l with
    | nil => exact fun _ => rfl
    | cons k l ih => exact fun t => (ih _).trans (State.zeroBytes_beds t _ _)
  rw [State.scrubBedUnit, State.advanceEpoch_bed, State.scrubBed, State.bed_modBed]
  have hbed : ∀ t : State, t.beds = s.beds → t.bed m c = s.bed m c := fun t h => by rw [State.bed, State.bed, h]
  rw [hbed _ ((hzero _ _).trans (State.zeroBytes_beds _ _ _))]
  split <;> rfl

theorem State.graftUnits_of_bed (s : State) (a : SMap Word) {r : Repair} (h : r.cls = 1) : s.graftUnits a r =
    if Machine.cfg a (pgBed r.plot r.index) 0x100 4 1 = 1 then
      (s.modBed r.plot r.index fun b => { b with pruned := true }).scrubBedUnit (plotFin r.plot) 16
    else s.modBed r.plot r.index fun b => { b with pruned := true } := by
  simp only [State.graftUnits, h]

/-- The failed Bed is Pruned (05 R138). -/
theorem State.graftUnits_pruned (s : State) (a : SMap Word) {r : Repair} (h : r.cls = 1) :
    ((s.graftUnits a r).bed r.plot r.index).pruned = true := by
  have hbed : ((s.modBed r.plot r.index fun b => { b with pruned := true }).bed r.plot r.index).pruned = true := by
    rw [State.bed_modBed, if_pos rfl]
  rw [State.graftUnits_of_bed s a h]
  split
  · rw [State.scrubBedUnit_pruned]
    exact hbed
  · exact hbed

/-- REPAIR_APPLY of a staged repair that applies: the repair leaves the queue, and where nothing else waits the block is as the Graft
leaves it. -/
theorem exec_repairApply_last {almOk : Bool} {x : Nat} {s : State} {r : Repair} {c : Commit} {l : List Commit}
    (hs : s.stopped = false) (hq : s.flt.queue = [r]) (hc : ((s.advance x).fireHooks.chan 9).flight = c :: l) (hrep : c.repair = true)
    (hdue : c.due = true) (hcheck : c.checking = false) {s1 : State}
    (hs1 : (s.advance x).fireHooks.applyDue (fun c => c.repair) = s1) (happ : (s1.chan 9).state = .applied)
    (hq1 : s1.flt.queue = [r]) :
    exec (.repairApply almOk x) s = .next ((s1.graftDone (s.advance x).fireHooks.gate.act r almOk).noteApply s1) := by
  have hqueue : (s.advance x).fireHooks.flt.queue = [r] :=
    (congrArg Flt.queue (Keeps.flt_eq (State.advance_keeps (Keeps.refl _) : LeavesFlt s (s.advance x)))).trans hq
  refine congrArg Host.Outcome.next ((State.live_of s _ hs).trans ?_)
  generalize (s.advance x).fireHooks = s' at hc hs1 hqueue ⊢
  dsimp only
  rw [hqueue, hc]
  dsimp only
  rw [if_pos ⟨hrep, hdue, by rw [hcheck]; decide⟩, hs1, if_pos happ]
  exact State.stageRepairs_nil _ (by rw [State.noteApply_flt, State.graftDone_queue, hq1]; rfl)

/-- Settles O23, command by command. -/
theorem commitChecksAndRepairsComplete : Obligations.CommitChecksAndRepairsComplete := by
  refine ⟨fun chan x s c hs hchan hc => ⟨_, congrArg Host.Outcome.next ((State.live_of s _ hs).trans (if_pos hchan)),
      fun code h => ?_, fun code page h hj => ?_, fun h hj => ?_⟩,
    fun x s hs => ⟨fun h => ⟨_, congrArg Host.Outcome.next (State.live_of s _ hs), ?_⟩, fun k c h hclean hevh =>
      ⟨_, congrArg Host.Outcome.next (State.live_of s _ hs), ?_⟩⟩,
    fun x y s hs hy hpast => ?_, fun almOk x s r c l hs hq hc hrep hdue hcheck happ hq1 => ?_⟩
  · rw [State.checksEnd_channel hc h, State.rejectCommit_chan]
    exact ⟨rfl, rfl, rfl, rfl, rfl⟩
  · rw [State.checksEnd_judged hc h hj, State.rejectCommit_chan]
    exact ⟨rfl, rfl, rfl, rfl, rfl⟩
  · rw [State.checksEnd_accepted hc h hj]
    exact State.acceptCommit_chan _ _ _
  · exact (State.applyDue_none h).trans (State.advance_act s x)
  · rw [State.applyDue_one h hclean hevh, State.advance_act]
  · have hflt : (s.advance x).flt = s.flt := Keeps.flt_eq (State.advance_keeps (Keeps.refl _) : LeavesFlt s _)
    refine ⟨State.stageRepairs { s.advance x with flt := { s.flt with retryAt := none } },
      congrArg Host.Outcome.next ((State.live_of s _ hs).trans ?_), (State.stageRepairs_flt _).retryAt, ?_⟩
    · dsimp only
      rw [hflt, hy, State.advance_ref]
      exact if_pos hpast
    · intro r rest a hq hgraft hidle hwords
      exact State.stageRepairs_graft hq hgraft ((congrArg Channel.flight (congrFun (State.advance_chan s x) 9)).trans hidle) rfl hwords
  · refine ⟨_, exec_repairApply_last hs hq hc hrep hdue hcheck rfl happ hq1, ?_, fun hcls _ _ => ?_⟩
    · rw [State.noteApply_flt, State.graftDone_queue, hq1]
      rfl
    · rw [State.bed, State.noteApply_beds, State.graftDone_beds, ← State.bed]
      exact State.graftUnits_pruned _ _ hcls

end Sys2Proof.Machine
end

section
/-!
PROOF. The fault block: records, lanes, Prunes, aging and timeouts (16 R384, R391, R398 to R402, R412): O24.
-/

namespace Sys2Proof.Machine

open Sys2Proof

/-! ### What the log and the repairs leave of the units -/

theorem State.advance_partLimit (s : State) (x p : Nat) : (s.advance x).partLimit p = s.partLimit p := by
  have hpart : (s.advance x).partOf = s.partOf := rfl
  have hareas : (s.advance x).contextAreas = s.contextAreas := by
    funext c
    rw [State.contextAreas, State.advance_ctx, State.advance_cfg]
    rfl
  rw [State.partLimit, State.partLimit, hpart, hareas, State.advance_gate]

theorem State.advance_known (s : State) (x : Nat) (r : FltRec) : (s.advance x).known r = s.known r := by
  rw [State.known, State.advance_unit]
  rfl

theorem State.advance_pruned (s : State) (x n : Nat) : (s.advance x).pruned n = s.pruned n := by
  rw [State.pruned, State.advance_flt]
  rfl

theorem State.unit_like {s t : State} (h : t.flt.Like s.flt) (cls plot index : Nat) : t.unit cls plot index = s.unit cls plot index := by
  rw [State.unit, State.unit, h.units]

theorem State.pruned_like {s t : State} (h : t.flt.Like s.flt) (n : Nat) : t.pruned n = s.pruned n := by
  rw [State.pruned, State.pruned, h.pruned]

theorem State.unit_modUnit_self (s : State) (cls plot index : Nat) (f : UnitSt → UnitSt) :
    (s.modUnit cls plot index f).unit cls plot index = f (s.unit cls plot index) :=
  SMap.get_modify_self unitUnlisted _ _ _

/-- An Almanac record takes back no event. -/
theorem State.heard_almanac (s : State) (r : AlmRec) (ok : Bool) : s.Heard (s.almanac r ok) := by
  unfold State.almanac
  split
  · exact State.Heard.refl s
  · exact State.Heard.raise (s := { s with pwr := { s.pwr with almFail := true } }) (State.Heard.refl s) pgFlt 16 none

/-! ### A record that the block takes (R384, R391) -/

/-- The record in the log, and its count. -/
def State.faultCounted (s : State) (r : FltRec) : State :=
  if r.kind = 0 ∧ r.action = 0 then (s.fltLog r).bump pgFlt 0x40 (r.ctx.map s.partOf)
  else if r.kind = 1 ∧ r.action = 8 then (s.fltLog r).bump pgFlt 0x48 (r.ctx.map s.partOf)
  else if r.action = 1 then (s.fltLog r).bump pgFlt 0x50 (r.ctx.map s.partOf)
  else s.fltLog r

theorem State.faultCounted_flt (s : State) (r : FltRec) : (s.faultCounted r).flt = (s.fltLog r).flt := by
  unfold State.faultCounted
  split
  · rfl
  · split
    · rfl
    · split <;> rfl

/-- The record in its unit's history as well. -/
def State.faultNoted (s : State) (r : FltRec) : State × Bool :=
  if recFault r then (s.faultCounted r).noteFault r else (s.faultCounted r, false)

theorem State.faultNoted_queue (s : State) (r : FltRec) : (s.faultNoted r).1.flt.queue = s.flt.queue := by
  have hcounted : (s.faultCounted r).flt.queue = s.flt.queue := by rw [State.faultCounted_flt, State.fltLog_queue]
  rw [← hcounted]
  unfold State.faultNoted
  split
  · unfold State.noteFault
    dsimp only
    split <;> rfl
  · rfl

theorem State.faultNoted_seq (s : State) (r : FltRec) : (s.faultNoted r).1.flt.seq = (s.flt.seq + 1) % 2 ^ 16 := by
  obtain ⟨w, hw⟩ := State.fltLog_flt s r
  have hcounted : (s.faultCounted r).flt.seq = (s.flt.seq + 1) % 2 ^ 16 := by rw [State.faultCounted_flt, hw]
  rw [← hcounted]
  unfold State.faultNoted
  split
  · unfold State.noteFault
    dsimp only
    split <;> rfl
  · rfl

/-- A fault of a unit that is no row and no page enters the unit's own history. -/
theorem State.faultNoted_faults (s : State) {r : FltRec} (hf : recFault r = true) (h3 : r.cls ≠ 3) (h8 : r.cls ≠ 8) :
    ((s.faultNoted r).1.unit r.cls r.plot r.index).faults =
      ((s.unit r.cls r.plot r.index).uses :: (s.unit r.cls r.plot r.index).faults).take 3 := by
  have hunit : (s.faultCounted r).unit r.cls r.plot r.index = s.unit r.cls r.plot r.index :=
    State.unit_like (by rw [State.faultCounted_flt]; exact State.fltLog_like s r) _ _ _
  rw [State.faultNoted, if_pos hf, State.noteFault, if_neg fun h => h.1.elim h3 h8]
  dsimp only
  rw [State.unit_modUnit_self, hunit]

/-- A unit that is judged already: its record is taken, and nothing more is planned. -/
theorem State.faultTake_known {s : State} {r : FltRec} (h : s.known r = true) : s.faultTake r = (s.faultNoted r).1 := by
  obtain ⟨h3, -, h0⟩ : r.cls ≠ 3 ∧ r.cls ≠ 8 ∧ r.cls ≠ 0 := of_decide_eq_true (Bool.and_eq_true_iff.1 h).1
  have hcols : (s.faultNoted r).1.noteColumns r = ((s.faultNoted r).1, none) := if_neg fun k => h3 k.1
  change (if s.known r = true ∨ _ then (if r.cls = 0 ∧ (s.faultNoted r).2 = true then _ else ((s.faultNoted r).1.noteColumns r).1) else _) = _
  rw [if_pos (.inl h), if_neg fun k => h0 k.1, hcols]

theorem State.judged_permanent (s : State) (r : FltRec) : ((s.judged r).unit r.cls r.plot r.index).permanent = true := by
  have hmod : ((s.modUnit r.cls r.plot r.index fun u => { u with permanent := true }).unit r.cls r.plot r.index).permanent = true := by
    rw [State.unit_modUnit_self]
  rw [← hmod]
  exact congrArg UnitSt.permanent (State.unit_like (State.fltLog_like _ _) _ _ _)

/-- A record that names its unit permanent judges it so. -/
theorem State.faultTake_permanent {s : State} {r : FltRec} (hk : s.known r = false) (hp : s.pruned r.plot = false)
    (h : r.perm = true) : ((s.faultTake r).unit r.cls r.plot r.index).permanent = true := by
  change ((if s.known r = true ∨ (s.pruned r.plot = true ∧ _) then _ else (if _ ∨ r.perm = true ∨ _ then
    State.plan (State.judged _ r) r none else _ : State) : State).unit r.cls r.plot r.index).permanent = true
  rw [if_neg (by rw [hk, hp]; simp), if_pos (.inr (.inl h))]
  exact plan_permanent _ _ _ _ _ _ (State.judged_permanent _ _)

theorem State.fltLog_parts (s : State) (r : FltRec) : (s.fltLog r).sec.parts = s.sec.parts :=
  congrArg Sec.parts (Keeps.sec_eq (State.fltLog_keeps (Keeps.refl _) : LeavesSec s _))

/-- The moment of a partition reset is marked last, before its count, event and record. -/
theorem State.partitionReset_eq (s : State) (p : Nat) : ∃ (u : State) (r : FltRec), s.partitionReset p =
    ((({ u with sec := { u.sec with parts := SMap.modify partUnlisted u.sec.parts p fun x => { x with resetAt := some s.sdl.ref } } } :
      State).bump pgFlt 0x80 (some p)).raise pgFlt 14 (some p)).fltLog r := ⟨_, _, rfl⟩

theorem State.partitionReset_resetAt (s : State) (p : Nat) :
    (SMap.get partUnlisted (s.partitionReset p).sec.parts p).resetAt = some s.sdl.ref := by
  obtain ⟨u, r, h⟩ := State.partitionReset_eq s p
  rw [h, State.fltLog_parts]
  exact congrArg PartSt.resetAt (SMap.get_modify_self partUnlisted u.sec.parts p fun x => { x with resetAt := some s.sdl.ref })

/-- A monitor's margin, held. -/
def State.aged (s : State) (monitor : Fin 197) (margin : Fin 256) : State :=
  { s with pwr := if monitor.val < 192 then
      { s.pwr with age := SMap.put ageUnlisted s.pwr.age (monitor.val / 24 * 32 + monitor.val % 24) margin.val }
    else { s.pwr with ageThr := SMap.put ageUnlisted s.pwr.ageThr (monitor.val - 192) margin.val } }

theorem State.aged_cfg (s : State) (monitor : Fin 197) (margin : Fin 256) : (s.aged monitor margin).cfg = s.cfg := by
  unfold State.aged State.cfg
  rfl

theorem State.prunePlot_pruned (s : State) (n : Fin 8) : (s.prunePlot n).pruned n.val = true :=
  decide_eq_true (fieldOf_lor_two_pow _ _)

theorem State.pruned_raise_bump (s : State) (p : Page) (off b n : Nat) (o : Option Nat) :
    ((s.bump p off o).raise p b o).pruned n = s.pruned n := rfl

theorem State.capacity_like (s : State) : s.capacity.flt.Like s.flt :=
  Flt.Like.of_eq (Keeps.flt_eq (State.capacity_keeps (Keeps.refl _) : LeavesFlt s _))

theorem State.repairDone_pruned (s : State) (r : Repair) (almOk : Bool) (n : Nat) : (s.repairDone r almOk).pruned n = s.pruned n := by
  have hflt : (s.repairDone r almOk).flt = { s.flt with queue := s.flt.queue.tail } :=
    Keeps.flt_eq (State.almanac_keeps (Keeps.refl _) : LeavesFlt { s with flt := { s.flt with queue := s.flt.queue.tail } } _)
  rw [State.pruned, hflt]
  rfl

section
variable {s : State} (x : Nat) {r : FltRec} (hs : s.stopped = false)
include hs

theorem exec_faultRecord_some :
    exec (.faultRecord (some r) x) s = .next ((((s.advance x).faultTake r).stageRepairs).noteApply s) :=
  congrArg Host.Outcome.next (State.liveApply_of s _ hs)

theorem exec_faultRecord_known (hk : s.known r = true) (hq : s.flt.queue = []) :
    ∃ t, exec (.faultRecord (some r) x) s = .next t ∧ t.flt.seq = (s.flt.seq + 1) % 2 ^ 16 ∧
      (recFault r = true → r.cls ≠ 3 → r.cls ≠ 8 →
        (t.unit r.cls r.plot r.index).faults = ((s.unit r.cls r.plot r.index).uses :: (s.unit r.cls r.plot r.index).faults).take 3) := by
  have htake : (s.advance x).faultTake r = ((s.advance x).faultNoted r).1 :=
    State.faultTake_known ((State.advance_known s x r).trans hk)
  have hstage : ((s.advance x).faultTake r).stageRepairs = ((s.advance x).faultNoted r).1 := by
    rw [htake]
    exact State.stageRepairs_nil _ (by rw [State.faultNoted_queue, State.advance_flt, hq])
  refine ⟨_, exec_faultRecord_some x hs, ?_, fun hf h3 h8 => ?_⟩
  · rw [State.noteApply_flt, hstage, State.faultNoted_seq, State.advance_flt]
  · rw [State.unit, State.noteApply_flt, hstage, ← State.unit, State.faultNoted_faults _ hf h3 h8, State.advance_unit]

theorem exec_faultRecord_permanent (hk : s.known r = false) (hp : s.pruned r.plot = false) (h : r.perm = true) :
    ∃ t, exec (.faultRecord (some r) x) s = .next t ∧ (t.unit r.cls r.plot r.index).permanent = true := by
  refine ⟨_, exec_faultRecord_some x hs, ?_⟩
  rw [State.unit, State.noteApply_flt, ← State.unit, State.unit_like (State.stageRepairs_flt _)]
  exact State.faultTake_permanent ((State.advance_known s x r).trans hk) ((State.advance_pruned s x _).trans hp) h

/-! ### Lanes (R391) -/

theorem exec_laneErrInterval_named (ring : Bool) (lane : Fin 32) (errs : Nat) (lost long : Bool)
    (hlane : ¬ ((ring = false ∧ 18 ≤ lane.val) ∨ (ring = true ∧ 8 < lane.val % 16))) :
    ∃ t, exec (.laneErrInterval ring lane errs lost long x) s = .next t ∧
      (t.unit (if ring then 7 else 6) 0 lane.val).uses = (s.unit (if ring then 7 else 6) 0 lane.val).uses + 1 ∧
      t.flt.inbox = s.flt.inbox ++ (if s.cfg pgFlt 0x100 0 10 < errs ∨ lost = true ∨ long = true then
        [{ kind := 6, action := 8, cls := if ring then 7 else 6, index := lane.val, perm := long }] else []) := by
  have huse : (((s.advance x).use (if ring then 7 else 6) 0 lane.val 1).unit (if ring then 7 else 6) 0 lane.val).uses =
      (s.unit (if ring then 7 else 6) 0 lane.val).uses + 1 := by
    rw [State.use, State.unit_modUnit_self, State.advance_unit]
  have hinbox : ((s.advance x).use (if ring then 7 else 6) 0 lane.val 1).flt.inbox = s.flt.inbox :=
    (congrArg Flt.inbox (State.advance_flt s x) : (s.advance x).flt.inbox = _)
  refine ⟨_, congrArg Host.Outcome.next ((State.live_of s _ hs).trans (if_neg hlane)), ?_⟩
  rw [State.advance_cfg]
  split
  · exact ⟨huse, congrArg (· ++ _) hinbox⟩
  · exact ⟨huse, hinbox.trans (List.append_nil _).symm⟩

/-! ### Prunes (R399) -/

theorem exec_plotPrune_free (plot : Plot) (almOk : Bool) {r : Repair} {rest : List Repair} (hq : s.flt.queue = r :: rest)
    (hprune : r.prune = true) (hretire : r.retiring = true) (hplot : r.plot = plot.val) (hfree : (s.advance x).plotUsers plot.val = []) :
    ∃ t, exec (.plotPrune plot almOk x) s = .next t ∧ t.pruned plot.val = true := by
  refine ⟨_, congrArg Host.Outcome.next (State.liveApply_of s _ hs), ?_⟩
  have hqueue : (s.advance x).flt.queue = r :: rest := by rw [State.advance_flt, hq]
  dsimp only
  rw [hqueue]
  dsimp only
  rw [if_pos ⟨hprune, hretire, hplot, hfree⟩, State.pruned, State.noteApply_flt, ← State.pruned,
    State.pruned_like (State.stageRepairs_flt _), State.repairDone_pruned, State.pruned_like (State.capacity_like _),
    State.pruned_like (State.fltLog_like _ _), State.pruned_raise_bump]
  exact State.prunePlot_pruned _ plot

/-! ### Aging (R398) -/

/-- A margin that asks for nothing is held. -/
theorem exec_agingMarginLow_high {monitor : Fin 197} {margin : Fin 256} (almOk : Bool) (hraise : s.cfg pgFlt 0x100 10 8 ≤ margin.val)
    (hretire : s.cfg pgFlt 0x100 18 8 ≤ margin.val) (hplot : monitor.val < 192) :
    ∃ t, exec (.agingMarginLow monitor margin almOk x) s = .next t ∧ t.flt.floor = s.flt.floor ∧
      SMap.get ageUnlisted t.pwr.age (monitor.val / 24 * 32 + monitor.val % 24) = margin.val := by
  have hexec : exec (.agingMarginLow monitor margin almOk x) s = .next (((s.advance x).aged monitor margin).noteApply s) := by
    refine congrArg Host.Outcome.next ((State.liveApply_of s _ hs).trans (congrArg (State.noteApply · s) ?_))
    have hcfg : ((s.advance x).aged monitor margin).cfg = s.cfg := (State.aged_cfg _ _ _).trans (State.advance_cfg s x)
    refine (if_neg fun h => ?_).trans (if_neg fun h => ?_)
    · exact absurd (hcfg ▸ h.1 : margin.val < s.cfg pgFlt 0x100 18 8) (Nat.not_lt.2 hretire)
    · exact absurd (hcfg ▸ h.1 : margin.val < s.cfg pgFlt 0x100 10 8) (Nat.not_lt.2 hraise)
  refine ⟨_, hexec, ?_, ?_⟩
  · rw [State.noteApply_flt]
    exact congrArg Flt.floor (State.advance_flt s x)
  · rw [State.noteApply_pwr, State.aged, if_pos hplot]
    exact SMap.get_put_self ageUnlisted _ _ _

/-- A margin below AGE_RAISE raises the floor by 10 mV, at the first time (R398). -/
theorem exec_agingMarginLow_low {monitor : Fin 197} {margin : Fin 256} (almOk : Bool) (hfloor : s.flt.floor < 850)
    (hlow : margin.val < s.cfg pgFlt 0x100 10 8) (hfirst : s.flt.floorAt = none) :
    ∃ t, exec (.agingMarginLow monitor margin almOk x) s = .next t ∧ t.flt.floor = min 850 (s.flt.floor + 10) ∧
      t.event .pf pgFlt 13 = true := by
  have hflt : ((s.advance x).aged monitor margin).flt = s.flt := State.advance_flt s x
  have hcfg : ((s.advance x).aged monitor margin).cfg = s.cfg := (State.aged_cfg _ _ _).trans (State.advance_cfg s x)
  generalize hm : (s.advance x).aged monitor margin = m at hflt hcfg
  have hexec : exec (.agingMarginLow monitor margin almOk x) s = .next ((((({ m with flt := { m.flt with
      floor := min 850 (m.flt.floor + 10), floorAt := some m.sdl.ref } } : State).raise pgFlt 13 none).almanac
        { start := 0, step := 0x11, outcome := 1, detail := min 850 (m.flt.floor + 10) } almOk)).noteApply s) := by
    subst hm
    refine congrArg Host.Outcome.next ((State.liveApply_of s _ hs).trans (congrArg (State.noteApply · s) ?_))
    refine (if_neg fun h => ?_).trans (if_pos ⟨?_, ?_, ?_⟩)
    · exact absurd (hflt ▸ h.2 : 850 ≤ s.flt.floor) (Nat.not_le.2 hfloor)
    · exact hcfg.symm ▸ hlow
    · exact hflt.symm ▸ hfloor
    · change (match ((s.advance x).aged monitor margin).flt.floorAt with
        | none => true
        | some z => decide (z + 10 ^ 9 * nsRef ≤ ((s.advance x).aged monitor margin).sdl.ref)) = true
      rw [hflt, hfirst]
  refine ⟨_, hexec, ?_, ?_⟩
  · rw [State.noteApply_flt, Keeps.flt_eq (State.almanac_keeps (Keeps.refl _) : LeavesFlt _ _), ← hflt]
    rfl
  · rw [State.noteApply_event]
    exact (State.heard_almanac _ _ almOk).2 _ _ _ (State.event_raise_self _ pgFlt none (by decide))

/-! ### Timeouts (R401, R402) -/

theorem exec_handshakeTimeout_record (cls : Fin 10) (plot : Plot) (index : Fin 256) (c : Option Ctx) (recovered : Bool) :
    ∃ t, exec (.handshakeTimeout cls plot index c recovered x) s = .next t ∧
      t.flt.inbox = s.flt.inbox ++ [{ kind := 7, action := 8, cls := cls.val, plot := plot.val, index := index.val, ctx := c.map (·.val) }] ∧
      (∀ k, c = some k → recovered = false → (s.ctx k.val).live = true → (s.ctx k.val).fault = none → (t.ctx k.val).fault = some 0x18) := by
  have hinbox : (s.advance x).flt.inbox = s.flt.inbox := congrArg Flt.inbox (State.advance_flt s x)
  refine ⟨_, congrArg Host.Outcome.next (State.live_of s _ hs), ?_⟩
  cases c with
  | none => exact ⟨congrArg (· ++ _) hinbox, fun k hk => nomatch hk⟩
  | some k =>
    cases recovered with
    | true => exact ⟨congrArg (· ++ _) hinbox, fun _ _ h => nomatch h⟩
    | false =>
      refine ⟨?_, fun j hj _ hlive hfault => ?_⟩
      · exact (congrArg Flt.inbox (Keeps.flt_eq (State.faultCtx_keeps (Keeps.refl _) : LeavesFlt _ _))).trans (congrArg (· ++ _) hinbox)
      · obtain rfl : k = j := Option.some.inj hj
        have hctx : ∀ (p : Option Nat) (r : FltRec), (((s.advance x).bump pgFlt 0x70 p).toFlt r).ctx k.val = s.ctx k.val := fun p r =>
          congrFun (State.advance_ctx s x) k.val
        refine (State.faultCtx_fault _ _ _ ?_).trans ?_
        · rw [hctx]
          exact hlive
        · rw [hctx, hfault]
          rfl

theorem exec_partitionTimeout_past (p : Part) {since : Nat} (hstuck : (s.advance x).partStuck p.val = some since)
    (hpast : since + s.partLimit p.val < max s.sdl.ref x) (hfirst : (SMap.get partUnlisted s.sec.parts p.val).resetAt = none) :
    ∃ t, exec (.partitionTimeout p x) s = .next t ∧
      (SMap.get partUnlisted t.sec.parts p.val).resetAt = some (max s.sdl.ref x) := by
  have hexec : exec (.partitionTimeout p x) s = .next (((s.advance x).partitionReset p.val).noteApply s) := by
    refine congrArg Host.Outcome.next ((State.liveApply_of s _ hs).trans (congrArg (State.noteApply · s) ?_))
    dsimp only
    rw [hstuck]
    dsimp only
    rw [State.advance_sec, hfirst, State.advance_ref, State.advance_partLimit, if_pos ⟨hpast, rfl⟩]
  exact ⟨_, hexec, by rw [State.noteApply_sec, State.partitionReset_resetAt, State.advance_ref]⟩

end

/-- Settles O24, command by command. -/
theorem faultBlockCompletes : Obligations.FaultBlockCompletes :=
  ⟨fun _ x _ hs => ⟨exec_faultRecord_known x hs, exec_faultRecord_permanent x hs⟩,
    fun ring lane errs lost long x _ hs => exec_laneErrInterval_named x hs ring lane errs lost long,
    fun plot almOk x _ _ _ hs => exec_plotPrune_free x hs plot almOk,
    fun _ _ almOk x _ hs => ⟨exec_agingMarginLow_high x hs almOk, exec_agingMarginLow_low x hs almOk⟩,
    fun cls plot index c recovered x _ hs => exec_handshakeTimeout_record x hs cls plot index c recovered,
    fun p x _ _ hs => exec_partitionTimeout_past x hs p,
    fun v x _ h hv => ⟨_, congrArg Host.Outcome.next ((State.live_takes h _).trans ((State.commanded_of h _ _ _).trans (if_pos (by rw [hv]; rfl)))),
      SMap.get_put_self zeroUnlisted _ _ _⟩⟩

end Sys2Proof.Machine
end

section
/-!
PROOF. Job keys, and the integrity of a stream (15 R361 to R366): O45.
-/

namespace Sys2Proof.Machine

open Sys2Proof

section
variable {v : View} {x : Word} {s : State} {p h : Nat}

/-- The partition that a key command of a view names (R365). -/
def keyPart (m : SMap Word) (v : View) (x : Word) (p : Nat) : Prop :=
  (isVf v = false → p = fieldOf x.toNat 12 3) ∧ ∀ k, v = .vf k → vfPart m (k.val + 1) = some p

/-- A key command runs on the handle written, for the view's partition. -/
theorem State.live_keyCmd (ht : s.takes v = true) (hp : keyPart s.gate.act v x p) (f : Nat → Nat → State → State) :
    (s.live fun s => s.keyCmd v x f) = f p (fieldOf x.toNat 2 10) s := by
  obtain ⟨hword, hvf⟩ := hp
  refine (State.live_takes ht _).trans ?_
  cases v with
  | vf k =>
    unfold State.keyCmd
    dsimp only
    rw [hvf k rfl]
    exact State.written_of ht _
  | pf => rw [hword rfl]; exact State.written_of ht _
  | gk => rw [hword rfl]; exact State.written_of ht _

/-! ### The result of a key command -/

/-- A key command's result and its JOB stand in the view's registers, and nothing else of the security block changes. -/
theorem State.keyResult_sec (s : State) (v : View) (p code extra job : Nat) (counts : Bool) :
    (s.keyResult v p code extra job counts).sec = { s.sec with
      result := SMap.put wordUnlisted s.sec.result v.no (BitVec.ofNat 32 (2 * code + extra))
      job := SMap.put wordUnlisted s.sec.job v.no (BitVec.ofNat 32 job) } := by
  unfold State.keyResult
  dsimp only
  split
  · rfl
  · split <;> rfl

theorem State.keyResult_event (s : State) (v : View) (p code extra job : Nat) (counts : Bool) :
    (s.keyResult v p code extra job counts).event .pf pgSec 8 = true := State.event_raise_self _ _ _ (by decide)

theorem State.keyResult_result (s : State) (v : View) (p code extra job : Nat) (counts : Bool) :
    SMap.get wordUnlisted (s.keyResult v p code extra job counts).sec.result v.no = BitVec.ofNat 32 (2 * code + extra) := by
  rw [State.keyResult_sec]
  exact SMap.get_put_self wordUnlisted _ _ _

theorem State.keyResult_job (s : State) (v : View) (p code extra job : Nat) (counts : Bool) :
    SMap.get wordUnlisted (s.keyResult v p code extra job counts).sec.job v.no = BitVec.ofNat 32 job := by
  rw [State.keyResult_sec]
  exact SMap.get_put_self wordUnlisted _ _ _

theorem State.keyResult_keys (s : State) (v : View) (p code extra job : Nat) (counts : Bool) :
    (s.keyResult v p code extra job counts).sec.keys = s.sec.keys := by
  rw [State.keyResult_sec]

/-! ### LOAD, ERASE and QUERY -/

/-- Reading a blob leaves the security block (R363). -/
theorem State.keyBlob_sec (s : State) (v : View) (p : Nat) (l : List (BitVec 8)) : (s.keyBlob v p l).2.sec = s.sec := by
  unfold State.keyBlob
  dsimp only
  split
  · exact Keeps.sec_eq (State.dramRead_keeps (Keeps.refl _) : LeavesSec s _)
  · split <;> rfl

theorem exec_keyLoad_of (ht : s.takes v = true) (hp : keyPart s.gate.act v x p) (l : List Byte) :
    ∃ t, exec (.keyLoad v x l) s = .next t ∧ t.event .pf pgSec 8 = true ∧
      ∀ b u r, s.keyBlob v p l = (b, u) → u.keyLoad p (fieldOf x.toNat 2 10) b = r →
        SMap.get wordUnlisted t.sec.result v.no = BitVec.ofNat 32 (2 * r.1) ∧
        (∀ k, r.2 = some k → SMap.find? t.sec.keys (fieldOf x.toNat 2 10) = some k) ∧ (r.2 = none → t.sec.keys = s.sec.keys) := by
  refine ⟨_, congrArg Host.Outcome.next (State.live_keyCmd ht hp _), State.keyResult_event _ _ _ _ _ _ _, fun b u r hb hr => ?_⟩
  have hsec : u.sec = s.sec := by rw [← State.keyBlob_sec s v p l, hb]
  rw [hb]
  dsimp only
  rw [hr, State.keyResult_result, State.keyResult_keys]
  refine ⟨rfl, fun k hk => ?_, fun hk => ?_⟩
  · rw [hk]
    exact SMap.find?_insert_self _ _ _
  · rw [hk]
    exact congrArg Sec.keys hsec

theorem exec_keyErase_of (ht : s.takes v = true) (hp : keyPart s.gate.act v x p) {h : Nat} (hh : h = fieldOf x.toNat 2 10) :
    ∃ t, exec (.keyErase v x) s = .next t ∧ t.event .pf pgSec 8 = true ∧
      (inKeyRange s.gate.act p h = false → t.sec.keys = s.sec.keys ∧ SMap.get wordUnlisted t.sec.result v.no = 2) ∧
      (inKeyRange s.gate.act p h = true → keyInUse s.gate.act h = true →
        t.sec.keys = s.sec.keys ∧ SMap.get wordUnlisted t.sec.result v.no = 12) ∧
      (inKeyRange s.gate.act p h = true → keyInUse s.gate.act h = false →
        SMap.find? t.sec.keys h = none ∧ SMap.get wordUnlisted t.sec.result v.no = 0) := by
  subst hh
  refine ⟨_, congrArg Host.Outcome.next (State.live_keyCmd ht hp _), ?_⟩
  cases hr : inKeyRange s.gate.act p (fieldOf x.toNat 2 10) with
  | false =>
    rw [if_pos rfl]
    exact ⟨State.keyResult_event _ _ _ _ _ _ _, fun _ => ⟨State.keyResult_keys _ _ _ _ _ _ _, State.keyResult_result _ _ _ _ _ _ _⟩,
      (fun h => nomatch h), fun h => nomatch h⟩
  | true =>
    rw [if_neg (by decide)]
    cases hu : keyInUse s.gate.act (fieldOf x.toNat 2 10) with
    | true =>
      rw [if_pos rfl]
      exact ⟨State.keyResult_event _ _ _ _ _ _ _, (fun h => nomatch h),
        fun _ _ => ⟨State.keyResult_keys _ _ _ _ _ _ _, State.keyResult_result _ _ _ _ _ _ _⟩, fun _ h => nomatch h⟩
    | false =>
      rw [if_neg (by decide)]
      refine ⟨State.keyResult_event _ _ _ _ _ _ _, (fun h => nomatch h), (fun _ h => nomatch h), fun _ _ => ⟨?_, ?_⟩⟩
      · rw [State.keyResult_keys]
        exact SMap.find?_erase_self _ _
      · exact State.keyResult_result _ _ _ _ _ _ _

theorem exec_keyQuery_of (ht : s.takes v = true) (hp : keyPart s.gate.act v x p) {h : Nat} (hh : h = fieldOf x.toNat 2 10) :
    ∃ t, exec (.keyQuery v x) s = .next t ∧ t.event .pf pgSec 8 = true ∧ t.sec.keys = s.sec.keys ∧
      (inKeyRange s.gate.act p h = false → SMap.get wordUnlisted t.sec.result v.no = 2) ∧
      (inKeyRange s.gate.act p h = true → (SMap.find? s.sec.keys h = none → SMap.get wordUnlisted t.sec.result v.no = 0) ∧
        ∀ k, SMap.find? s.sec.keys h = some k → SMap.get wordUnlisted t.sec.result v.no = BitVec.ofNat 32 (16 + 32 * k.use) ∧
          SMap.get wordUnlisted t.sec.job v.no = BitVec.ofNat 32 k.job) := by
  subst hh
  refine ⟨_, congrArg Host.Outcome.next (State.live_keyCmd ht hp _), ?_⟩
  cases hr : inKeyRange s.gate.act p (fieldOf x.toNat 2 10) with
  | false =>
    rw [if_pos rfl]
    exact ⟨State.keyResult_event _ _ _ _ _ _ _, State.keyResult_keys _ _ _ _ _ _ _, fun _ => State.keyResult_result _ _ _ _ _ _ _,
      fun h => nomatch h⟩
  | true =>
    rw [if_neg (by decide)]
    cases hk : SMap.find? s.sec.keys (fieldOf x.toNat 2 10) with
    | none =>
      exact ⟨State.keyResult_event _ _ _ _ _ _ _, State.keyResult_keys _ _ _ _ _ _ _, (fun h => nomatch h),
        fun _ => ⟨fun _ => State.keyResult_result _ _ _ _ _ _ _, fun _ h => nomatch h⟩⟩
    | some k =>
      refine ⟨State.keyResult_event _ _ _ _ _ _ _, State.keyResult_keys _ _ _ _ _ _ _, (fun h => nomatch h),
        fun _ => ⟨(fun h => nomatch h), fun j hj => ?_⟩⟩
      obtain rfl : k = j := Option.some.inj hj
      refine ⟨(State.keyResult_result _ _ _ _ _ _ _).trans ?_, State.keyResult_job _ _ _ _ _ _ _⟩
      rw [Nat.mul_zero, Nat.zero_add]

end

/-! ### An integrity failure (R364) -/

/-- A failure on a secure stream makes it insecure, and drops its traffic. -/
theorem exec_ideErr_secure (f : Fin 9) {s : State} (hs : s.stopped = false) (hsec : (SMap.get ideUnlisted s.sec.ide f.val).secure = true) :
    ∃ t, exec (.ideErr f) s = .next t ∧ (SMap.get ideUnlisted t.sec.ide f.val).insecure = true ∧
      SMap.get flagUnlisted t.hub.mute f.val = true ∧ t.event .pf pgSec 13 = true := by
  refine ⟨_, congrArg Host.Outcome.next ((State.live_of s _ hs).trans (if_pos hsec)), ?_⟩
  dsimp only
  refine ⟨?_, SMap.get_put_self flagUnlisted _ _ _, ?_⟩
  · exact congrArg IdeStream.insecure (State.ide_mod _ f.val fun x => { x with insecure := true })
  · exact State.event_raise_self _ pgSec (if f.val = 0 then none else vfPart s.gate.act f.val) (by decide)

/-- Settles O45, command by command. -/
theorem keyCommandsComplete : Obligations.KeyCommandsComplete := by
  refine ⟨fun v x l s p h ht hh hword hvf => ?_, fun v x s p h ht hh hword hvf =>
    ⟨exec_keyErase_of ht ⟨hword, hvf⟩ hh, exec_keyQuery_of ht ⟨hword, hvf⟩ hh⟩, fun f s hs => ?_⟩
  · subst hh
    exact exec_keyLoad_of ht ⟨hword, hvf⟩ l
  · cases hsec : (SMap.get ideUnlisted s.sec.ide f.val).secure with
    | true =>
      obtain ⟨t, hexec, ht⟩ := exec_ideErr_secure f hs hsec
      exact ⟨t, hexec, fun _ => ht, fun h => nomatch h⟩
    | false =>
      exact ⟨s, congrArg Host.Outcome.next ((State.live_of s _ hs).trans (if_neg (by rw [hsec]; decide))), (fun h => nomatch h), fun _ => rfl⟩

end Sys2Proof.Machine
end

section
/-!
PROOF. The disable sequence, releases, and function-level resets (15 R379 to R382, 17 R433): O46.
-/

namespace Sys2Proof.Machine

open Sys2Proof

/-! ### Triggers of the disable sequence (R381) -/

theorem State.advance_part (s : State) (x p : Nat) : (s.advance x).part p = s.part p := rfl

theorem State.noteApply_part (t s : State) (p : Nat) : (t.noteApply s).part p = t.part p :=
  State.part_sec (congrArg Sec.parts (State.noteApply_sec t s)) p

theorem State.beginDisable_irg (s : State) (p : Nat) (flr : Bool) : (s.beginDisable p flr).irg = s.irg := by
  unfold State.beginDisable
  split <;> rfl

theorem State.beginDisable_off {s : State} {p : Nat} (h : (s.part p).st = .off) (flr : Bool) : s.beginDisable p flr = s := by
  unfold State.beginDisable
  rw [h]

theorem PartSt.begun_open {x : PartSt} (h : x.st = .active ∨ x.st = .held) (now : Nat) (flr : Bool) :
    x.begun now flr = { x with st := .closing, since := now, discard := flr, flr := flr } := by
  unfold PartSt.begun
  rcases h with h | h <;> rw [h]

/-- A trigger takes an ACTIVE or HELD partition to CLOSING from the moment on. -/
theorem State.beginDisable_open {s : State} {p : Nat} (h : (s.part p).st = .active ∨ (s.part p).st = .held) (flr : Bool) :
    (s.beginDisable p flr).part p = { s.part p with st := .closing, since := s.sdl.ref, discard := flr, flr := flr } := by
  rw [State.beginDisable_part, if_pos rfl, PartSt.begun_open h]

theorem State.beginDisables_rest (flr : Bool) (l : List Nat) (s : State) :
    (l.foldl (fun t p => t.beginDisable p flr) s).irg = s.irg ∧ (l.foldl (fun t p => t.beginDisable p flr) s).sec.pfFlr = s.sec.pfFlr := by
  have hone : ∀ (t : State) (p : Nat), (t.beginDisable p flr).sec.pfFlr = t.sec.pfFlr := by
    intro t p
    unfold State.beginDisable
    split <;> rfl
  induction l generalizing s with
  | nil => exact ⟨rfl, rfl⟩
  | cons p l ih =>
    obtain ⟨hirg, hflr⟩ := ih (s.beginDisable p flr)
    exact ⟨hirg.trans (State.beginDisable_irg s p flr), hflr.trans (hone s p)⟩

section
variable {s : State} (x : Nat)

/-- DISABLE by the PF or Groundskeeper (R381). -/
theorem exec_disable_pf {v : View} (p : Part) (h : s.takes v = true) (hv : isVf v = false) :
    exec (.disable v p x) s = .next (((s.advance x).beginDisable p.val false).noteApply s) :=
  congrArg Host.Outcome.next ((State.liveApply_of s _ (State.takes_stopped h)).trans (congrArg (State.noteApply · s)
    ((State.commanded_of (State.advance_takes x h) _ _ _).trans (if_pos (by rw [hv]; rfl)))))

theorem exec_disable_vf {v : View} (p : Part) (h : s.takes v = true) (hv : isVf v = true) :
    exec (.disable v p x) s = .next (((s.advance x).dropped v pgSec).noteApply s) :=
  congrArg Host.Outcome.next ((State.liveApply_of s _ (State.takes_stopped h)).trans (congrArg (State.noteApply · s)
    ((State.commanded_of (State.advance_takes x h) _ _ _).trans (if_neg (by rw [hv]; decide)))))

theorem exec_disable_of (v : View) (p : Part) (h : s.takes v = true) :
    ∃ t, exec (.disable v p x) s = .next t ∧
      (isVf v = true → t.sec = s.sec ∧ t.event v pgSec 1 = true) ∧
      (isVf v = false → ((s.part p.val).st = .active ∨ (s.part p.val).st = .held → (t.part p.val).st = .closing ∧
          (t.part p.val).since = max s.sdl.ref x ∧ (t.part p.val).discard = false) ∧
        ((s.part p.val).st = .off → t.sec = s.sec) ∧ ∀ q, q ≠ p.val → t.part q = s.part q) := by
  cases hv : isVf v with
  | true =>
    refine ⟨_, exec_disable_vf x p h hv, fun _ => ⟨?_, ?_⟩, fun k => nomatch k⟩
    · rw [State.noteApply_sec]
      rfl
    · rw [State.noteApply_event]
      exact State.event_dropped_self _ v pgSec
  | false =>
    refine ⟨_, exec_disable_pf x p h hv, (fun k => nomatch k), fun _ => ⟨fun hopen => ?_, fun hoff => ?_, fun q hq => ?_⟩⟩
    · rw [State.noteApply_part, State.beginDisable_open (s := s.advance x) hopen, State.advance_ref]
      exact ⟨rfl, rfl, rfl⟩
    · rw [State.noteApply_sec, State.beginDisable_off (s := s.advance x) hoff]
      rfl
    · rw [State.noteApply_part, State.beginDisable_part, if_neg hq]
      rfl

/-! ### Function-level resets (17 R433) -/

/-- A function that enters its reset, its channel withdrawn. -/
def State.flrBegun (s : State) (k : Nat) : State := (s.withdraw k).enterFlr k

theorem State.flrBegun_flr (s : State) (k : Nat) : (SMap.get fnUnlisted (s.flrBegun k).irg.fn k).flr = true :=
  congrArg CopySt.flr (SMap.get_modify_self fnUnlisted s.irg.fn k fun x => { x with flr := true })

theorem State.flrDone_flr (s : State) (k : Nat) : (SMap.get fnUnlisted (s.flrDone k).irg.fn k).flr = false :=
  congrArg CopySt.flr (SMap.get_modify_self fnUnlisted s.irg.fn k fun x => { x with flr := false })

theorem State.flrDone_event (s : State) (k : Nat) : (s.flrDone k).event .pf pgHst 12 = true :=
  State.event_raise_self _ pgHst none (by decide)

theorem exec_vfFlr_some (k : Fin 8) {p : Nat} (hs : s.stopped = false) (hp : vfPart s.gate.act (k.val + 1) = some p) :
    exec (.vfFlr k x) s = .next ((((s.advance x).flrBegun (k.val + 1)).beginDisable p true).noteApply s) := by
  refine congrArg Host.Outcome.next ((State.liveApply_of s _ hs).trans (congrArg (State.noteApply · s) ?_))
  have hact : ((s.advance x).flrBegun (k.val + 1)).gate.act = s.gate.act := State.advance_act s x
  change (match vfPart ((s.advance x).flrBegun (k.val + 1)).gate.act (k.val + 1) with
    | some p => ((s.advance x).flrBegun (k.val + 1)).beginDisable p true
    | none => ((s.advance x).flrBegun (k.val + 1)).flrDone (k.val + 1)) = _
  rw [hact, hp]

theorem exec_vfFlr_none (k : Fin 8) (hs : s.stopped = false) (hp : vfPart s.gate.act (k.val + 1) = none) :
    exec (.vfFlr k x) s = .next ((((s.advance x).flrBegun (k.val + 1)).flrDone (k.val + 1)).noteApply s) := by
  refine congrArg Host.Outcome.next ((State.liveApply_of s _ hs).trans (congrArg (State.noteApply · s) ?_))
  have hact : ((s.advance x).flrBegun (k.val + 1)).gate.act = s.gate.act := State.advance_act s x
  change (match vfPart ((s.advance x).flrBegun (k.val + 1)).gate.act (k.val + 1) with
    | some p => ((s.advance x).flrBegun (k.val + 1)).beginDisable p true
    | none => ((s.advance x).flrBegun (k.val + 1)).flrDone (k.val + 1)) = _
  rw [hact, hp]

theorem exec_vfFlr_of (k : Fin 8) (hs : s.stopped = false) :
    ∃ t, exec (.vfFlr k x) s = .next t ∧
      (∀ p, vfPart s.gate.act (k.val + 1) = some p → (s.part p).st = .active ∨ (s.part p).st = .held →
        (t.part p).st = .closing ∧ (t.part p).since = max s.sdl.ref x ∧ (t.part p).discard = true ∧ (t.part p).flr = true ∧
        (SMap.get fnUnlisted t.irg.fn (k.val + 1)).flr = true) ∧
      (vfPart s.gate.act (k.val + 1) = none → (SMap.get fnUnlisted t.irg.fn (k.val + 1)).flr = false ∧ t.event .pf pgHst 12 = true) := by
  cases hp : vfPart s.gate.act (k.val + 1) with
  | none =>
    refine ⟨_, exec_vfFlr_none x k hs hp, (fun _ h => nomatch h), fun _ => ?_⟩
    rw [State.noteApply_irg, State.noteApply_event]
    exact ⟨State.flrDone_flr _ _, State.flrDone_event _ _⟩
  | some q =>
    refine ⟨_, exec_vfFlr_some x k hs hp, fun p h hopen => ?_, fun h => nomatch h⟩
    obtain rfl : q = p := Option.some.inj h
    rw [State.noteApply_part, State.noteApply_irg, State.beginDisable_irg,
      State.beginDisable_open (s := (s.advance x).flrBegun (k.val + 1)) hopen]
    exact ⟨rfl, State.advance_ref s x, rfl, rfl, State.flrBegun_flr _ _⟩

theorem exec_vfEnableClear_of (hs : s.stopped = false) :
    ∃ t, exec (.vfEnableClear x) s = .next t ∧ t.irg.vfEnable = false ∧
      ∀ p, p < 8 → ((s.part p).st = .active ∨ (s.part p).st = .held) →
        (partVf s.gate.act p ≠ 0 → (t.part p).st = .closing ∧ (t.part p).since = max s.sdl.ref x) ∧
        (partVf s.gate.act p = 0 → t.part p = s.part p) := by
  refine ⟨_, congrArg Host.Outcome.next (State.liveApply_of s _ hs), ?_, fun p hp hopen => ⟨fun hvf => ?_, fun hvf => ?_⟩⟩
  · rw [State.noteApply_irg, (State.beginDisables_rest _ _ _).1]
  · have hmem : p ∈ (List.range 8).filter fun p => decide (partVf (s.advance x).gate.act p ≠ 0) := by
      rw [State.advance_act]
      exact List.mem_filter.2 ⟨List.mem_range.2 hp, decide_eq_true hvf⟩
    obtain ⟨-, -, hclosing, -⟩ := State.beginDisables_part false ((List.range 8).filter fun p => decide (partVf (s.advance x).gate.act p ≠ 0))
      { s.advance x with irg := { (s.advance x).irg with vfEnable := false } } p
    obtain ⟨hst, hsince, -⟩ := hclosing hopen hmem
    rw [State.noteApply_part]
    exact ⟨hst, hsince.trans (State.advance_ref s x)⟩
  · have hmem : p ∉ (List.range 8).filter fun p => decide (partVf (s.advance x).gate.act p ≠ 0) := by
      rw [State.advance_act]
      exact fun h => of_decide_eq_true (List.mem_filter.1 h).2 hvf
    rw [State.noteApply_part]
    exact (State.beginDisables_part false _ { s.advance x with irg := { (s.advance x).irg with vfEnable := false } } p).1 hmem

end

/-! ### The PF's reset -/

theorem State.withdraws_eq (l : List Nat) (s : State) : ∃ g, l.foldl State.withdraw s = { s with gate := g } := by
  induction l generalizing s with
  | nil => exact ⟨s.gate, rfl⟩
  | cons k l ih =>
    obtain ⟨g, hg⟩ := ih (s.withdraw k)
    exact ⟨g, hg⟩

/-- The PF's reset ends at once where no partition's sequence runs, and later otherwise. -/
theorem State.pfFlrEnd_idle {s : State} (hflr : s.sec.pfFlr = true) (h : ∀ p, p < 8 → (s.part p).st = .off) :
    s.pfFlrEnd.sec.pfFlr = false ∧ s.pfFlrEnd.event .pf pgHst 12 = true := by
  have hall : ((List.range 8).all fun p => decide ((s.part p).st ≠ .closing ∧ (s.part p).st ≠ .scrubbing)) = true := by
    refine List.all_eq_true.2 fun p hp => decide_eq_true ?_
    rw [h p (List.mem_range.1 hp)]
    decide
  rw [State.pfFlrEnd, if_pos ⟨hflr, hall⟩]
  exact ⟨rfl, State.flrDone_event _ _⟩

theorem State.pfFlrEnd_closing {s : State} {p : Nat} (hp : p < 8) (h : (s.part p).st = .closing) : s.pfFlrEnd = s := by
  refine if_neg fun k => ?_
  obtain ⟨hclosing, -⟩ := of_decide_eq_true (List.all_eq_true.1 k.2 p (List.mem_range.2 hp))
  exact hclosing h

/-- What the end of the PF's reset leaves. -/
theorem State.pfFlrEnd_rest (s : State) : s.pfFlrEnd.irg.vfEnable = s.irg.vfEnable ∧ s.pfFlrEnd.sec.parts = s.sec.parts ∧ s.Heard s.pfFlrEnd := by
  unfold State.pfFlrEnd
  split
  · exact ⟨rfl, rfl, (State.Heard.refl s).raise pgHst 12 none⟩
  · exact ⟨rfl, rfl, State.Heard.refl s⟩

theorem exec_pfFlr_of (x : Nat) {s : State} (hs : s.stopped = false) :
    ∃ t, exec (.pfFlr x) s = .next t ∧ t.irg.vfEnable = false ∧
      (∀ p, p < 8 → ((s.part p).st = .active ∨ (s.part p).st = .held) →
        (t.part p).st = .closing ∧ (t.part p).since = max s.sdl.ref x ∧ (t.part p).flr = true ∧ t.sec.pfFlr = true) ∧
      ((∀ p, p < 8 → (s.part p).st = .off) → t.sec.pfFlr = false ∧ t.event .pf pgHst 12 = true) := by
  refine ⟨_, congrArg Host.Outcome.next (State.liveApply_of s _ hs), ?_⟩
  obtain ⟨g, hg⟩ := State.withdraws_eq (List.range 9) (s.advance x)
  dsimp only
  rw [hg]
  generalize hu : State.enterFlr _ 0 = u
  have hparts : ∀ q, u.part q = s.part q := fun q => by rw [← hu]; rfl
  have href : u.sdl.ref = max s.sdl.ref x := by
    rw [← hu]
    exact State.advance_ref s x
  have hvf : u.irg.vfEnable = false := by rw [← hu]; rfl
  have hflr : u.sec.pfFlr = true := by rw [← hu]; rfl
  obtain ⟨hirg, hpf⟩ := State.beginDisables_rest true (List.range 8) u
  have hdis := State.beginDisables_part true (List.range 8) u
  generalize (List.range 8).foldl (fun t p => State.beginDisable t p true) u = w at hirg hpf hdis ⊢
  refine ⟨?_, fun p hp hopen => ?_, fun hoff => ?_⟩
  · rw [State.noteApply_irg, (State.pfFlrEnd_rest w).1, hirg, hvf]
  · obtain ⟨-, -, hclosing, -⟩ := hdis p
    rw [hparts] at hclosing
    obtain ⟨hst, hsince, hreset⟩ := hclosing hopen (List.mem_range.2 hp)
    rw [State.noteApply_part, State.noteApply_sec, State.pfFlrEnd_closing hp hst]
    exact ⟨hst, hsince.trans href, hreset, hpf.trans hflr⟩
  · rw [State.noteApply_sec, State.noteApply_event]
    refine State.pfFlrEnd_idle (hpf.trans hflr) fun p hp => ?_
    obtain ⟨-, hstay, -, -⟩ := hdis p
    exact hstay (by rw [hparts]; exact hoff p hp)

/-! ### The end of the contexts (R382) -/

section
variable {s : State} (x : Nat) (p : Part)

/-- Contexts of a partition with a step in flight. -/
def State.busyCtxs (s : State) (p : Nat) : List Nat := (s.partCtxs p).filter s.inFlight

/-- Those of them whose slot has passed are aborted. -/
def State.abortLate (s : State) (p : Nat) : State :=
  ((s.busyCtxs p).filter fun c => decide ((s.part p).since + s.disableSlot c ≤ s.sdl.ref)).foldl State.abortCtx s

theorem State.abortLate_parts (s : State) (p q : Nat) : (s.abortLate p).part q = s.part q :=
  State.part_sec (State.abortCtxs_eq _ s).1 q

theorem State.abortLate_ended {s : State} {p c : Nat} (hc : c ∈ s.partCtxs p) (hfly : s.inFlight c = true)
    (hlate : (s.part p).since + s.disableSlot c ≤ s.sdl.ref) : ((s.abortLate p).ctx c).steps.all (·.ended) = true :=
  ((State.abortCtxs_eq _ s).2 c).2 (.inr (List.mem_filter.2 ⟨List.mem_filter.2 ⟨hc, hfly⟩, decide_eq_true hlate⟩))

/-- Whether contexts of a partition may still run on. -/
def State.runsOn (s : State) (p : Nat) : Prop :=
  ((s.busyCtxs p).any fun c => !decide ((s.part p).since + s.disableSlot c ≤ s.sdl.ref)) = true ∨
    s.reached ((s.part p).since + 10 ^ 6 * nsRef / 8) = false

theorem State.runsOn_iff (s : State) (p : Nat) : s.runsOn p ↔
    (∃ c ∈ s.partCtxs p, s.inFlight c = true ∧ s.sdl.ref < (s.part p).since + s.disableSlot c) ∨
      s.reached ((s.part p).since + 10 ^ 6 * nsRef / 8) = false := by
  refine or_congr_left (List.any_eq_true.trans ⟨?_, ?_⟩)
  · rintro ⟨c, hc, hlate⟩
    obtain ⟨hmem, hfly⟩ := List.mem_filter.1 hc
    rw [Bool.not_eq_true', decide_eq_false_iff_not] at hlate
    exact ⟨c, hmem, hfly, Nat.lt_of_not_le hlate⟩
  · rintro ⟨c, hmem, hfly, hlt⟩
    refine ⟨c, List.mem_filter.2 ⟨hmem, hfly⟩, ?_⟩
    rw [Bool.not_eq_true', decide_eq_false_iff_not]
    exact Nat.not_le_of_lt hlt

/-- The partition's remains are withdrawn, its job keys erased, and it becomes SCRUBBING. -/
def State.shut (s t : State) (p : Nat) : State :=
  (((((s.partCtxs p).filter fun c => !(s.inFlight c)).foldl State.closeCtx t).stageOff p).modPart p fun y => { y with st := .scrubbing })

theorem State.shut_st (s t : State) (p : Nat) : ((s.shut t p).part p).st = .scrubbing := by
  rw [State.shut, State.part_modPart, if_pos rfl]

/-- No job key of the partition is left (R366). -/
theorem State.shut_keys (s t : State) (p : Nat) : ∀ e ∈ (s.shut t p).sec.keys, e.2.part ≠ p :=
  fun _ he => of_decide_eq_true (List.mem_filter.1 he).2

theorem exec_disableSlotExpiry_closing (hs : s.stopped = false) (hst : (s.part p.val).st = .closing) :
    ∃ t, exec (.disableSlotExpiry p x) s = .next (t.noteApply s) ∧
      ((s.advance x).runsOn p.val → t = (s.advance x).abortLate p.val) ∧
      (¬ (s.advance x).runsOn p.val → t = (s.advance x).shut ((s.advance x).abortLate p.val) p.val) :=
  ⟨_, congrArg Host.Outcome.next ((State.liveApply_of s _ hs).trans (congrArg (State.noteApply · s)
    (if_pos (c := ((s.advance x).part p.val).st = .closing) hst))), fun h => if_pos h, fun h => if_neg h⟩

theorem exec_disableSlotExpiry_of {u : State} (hs : s.stopped = false) (hu : u = s.advance x) (hst : (s.part p.val).st = .closing) :
    ∃ t, exec (.disableSlotExpiry p x) s = .next t ∧
      ((∃ c ∈ u.partCtxs p.val, u.inFlight c = true ∧ u.sdl.ref < (s.part p.val).since + u.disableSlot c) ∨
          u.reached ((s.part p.val).since + 10 ^ 6 * nsRef / 8) = false →
        (t.part p.val).st = .closing ∧ ∀ c ∈ u.partCtxs p.val, u.inFlight c = true → (s.part p.val).since + u.disableSlot c ≤ u.sdl.ref →
          (t.ctx c).steps.all (·.ended) = true) ∧
      ((∀ c ∈ u.partCtxs p.val, u.inFlight c = true → (s.part p.val).since + u.disableSlot c ≤ u.sdl.ref) →
          u.reached ((s.part p.val).since + 10 ^ 6 * nsRef / 8) = true →
        (t.part p.val).st = .scrubbing ∧ ∀ e ∈ t.sec.keys, e.2.part ≠ p.val) := by
  subst hu
  obtain ⟨t, hexec, hruns, hshut⟩ := exec_disableSlotExpiry_closing x p hs hst
  refine ⟨_, hexec, fun h => ?_, fun hlate hreached => ?_⟩
  · obtain rfl := hruns ((State.runsOn_iff _ _).2 h)
    refine ⟨?_, fun c hc hfly hlate => ?_⟩
    · rw [State.noteApply_part, State.abortLate_parts]
      exact hst
    · rw [State.ctx, State.noteApply_rms]
      exact State.abortLate_ended hc hfly hlate
  · have hend : ¬ (s.advance x).runsOn p.val := by
      rw [State.runsOn_iff]
      rintro (⟨c, hc, hfly, hlt⟩ | h)
      · exact Nat.not_lt.2 (hlate c hc hfly) hlt
      · exact Bool.false_ne_true (h.symm.trans hreached)
    obtain rfl := hshut hend
    rw [State.noteApply_part, State.noteApply_sec]
    exact ⟨State.shut_st _ _ _, State.shut_keys _ _ _⟩

/-! ### The end of scrubbing, and of a hold (R379, R382) -/

theorem State.advance_partFrozen (s : State) (x p : Nat) : (s.advance x).partFrozen p = s.partFrozen p := rfl

theorem State.flrDone_parts (s : State) (f : Nat) : (s.flrDone f).sec = s.sec ∧ s.Heard (s.flrDone f) :=
  ⟨rfl, (State.Heard.refl s).raise pgHst 12 none⟩

/-- What a partition becomes when its scrubbing ends: HELD where something is held (R382). -/
def State.settled (s : State) (p : Nat) : PartState :=
  if s.partWindows p .held || s.partFrozen p || s.sec.fences.any (fun f => decide (f.part = p)) then .held
  else if partEn s.gate.act p then .active else .off

/-- The sequence of a partition ends. -/
def State.settle (s : State) (p : Nat) : State :=
  s.modPart p fun y => { y with st := s.settled p, discard := false, flr := false, resetAt := none }

theorem State.settle_st (s : State) (p : Nat) : ((s.settle p).part p).st = s.settled p := by
  rw [State.settle, State.part_modPart, if_pos rfl]

/-- A partition whose scrubbing has ended, its event raised; the reset of its VF, and the PF's, may end with it. -/
theorem exec_partDisabled_scrubbed (hs : s.stopped = false) (hst : (s.part p.val).st = .scrubbing) (hz : s.partWindows p.val .zeroing = false) :
    ∃ t, exec (.partDisabled p x) s = .next t ∧ t.event .pf pgSec 9 = true ∧
      (t.part p.val).st = if s.partWindows p.val .held || s.partFrozen p.val || s.sec.fences.any (fun f => decide (f.part = p.val)) then .held
        else if partEn s.gate.act p.val then .active else .off := by
  have hexec : exec (.partDisabled p x) s = .next ((State.pfFlrEnd (if ((s.advance x).part p.val).flr = true ∧
      partVf (s.advance x).gate.act p.val ≠ 0 then (((s.advance x).settle p.val).raise pgSec 9 none).flrDone (partVf (s.advance x).gate.act p.val)
      else ((s.advance x).settle p.val).raise pgSec 9 none)).noteApply s) :=
    congrArg Host.Outcome.next ((State.liveApply_of s _ hs).trans (congrArg (State.noteApply · s)
      (if_pos (c := ((s.advance x).part p.val).st = .scrubbing ∧ (s.advance x).partWindows p.val .zeroing = false) ⟨hst, hz⟩)))
  refine ⟨_, hexec, ?_⟩
  have hpart : (((s.advance x).settle p.val).part p.val).st = s.settled p.val := by
    rw [State.settle_st]
    unfold State.settled
    rw [State.advance_act]
    rfl
  generalize (s.advance x).settle p.val = y at hpart ⊢
  have hevent : (y.raise pgSec 9 none).event .pf pgSec 9 = true := State.event_raise_self y pgSec none (by decide)
  rw [State.noteApply_event, State.noteApply_part, State.part_sec (State.pfFlrEnd_rest _).2.1]
  split
  · obtain ⟨hsec, hheard⟩ := State.flrDone_parts (y.raise pgSec 9 none) (partVf (s.advance x).gate.act p.val)
    exact ⟨(hheard.trans (State.pfFlrEnd_rest _).2.2).2 _ _ _ hevent, (congrArg PartSt.st (State.part_sec (congrArg Sec.parts hsec) _)).trans hpart⟩
  · exact ⟨(State.pfFlrEnd_rest _).2.2.2 _ _ _ hevent, hpart⟩

/-- RELEASE_HOLD by the PF: what the partition holds goes to zeroing, its fences too (R379). -/
theorem State.unheld_sec (s : State) (k : Nat) :
    (((List.range 8).foldl (fun t n => t.unholdPlot n k) s).thawSprouts fun c => decide (s.partOf c = k)).sec = s.sec :=
  Keeps.sec_eq (State.thawSprouts_keeps (foldl_keeps (fun t n => State.unholdPlot t n k) (fun _ _ h => State.unholdPlot_keeps h) _ _ (Keeps.refl _)) : LeavesSec s _)

theorem State.zeroFences_sec (l : List Fence) (s : State) : (l.foldl (fun t f => t.zeroBytes f.base f.len) s).sec = s.sec := by
  induction l generalizing s with
  | nil => rfl
  | cons f l ih => exact (ih _).trans (State.zeroBytes_sec s _ _)

theorem exec_releaseHold_of {v : View} (h : s.takes v = true) :
    ∃ t, exec (.releaseHold v p x) s = .next t ∧ (isVf v = true → t.sec = s.sec ∧ t.event v pgSec 1 = true) ∧
      (isVf v = false → t.sec = { s.sec with fences := s.sec.fences.map fun f => if f.part = p.val then { f with zeroing := true } else f }) := by
  cases hv : isVf v with
  | true =>
    refine ⟨_, congrArg Host.Outcome.next ((State.liveApply_of s _ (State.takes_stopped h)).trans (congrArg (State.noteApply · s)
      ((State.commanded_of (State.advance_takes x h) _ _ _).trans (if_neg (by rw [hv]; decide))))), fun _ => ⟨?_, ?_⟩, fun k => nomatch k⟩
    · rw [State.noteApply_sec]
      rfl
    · rw [State.noteApply_event]
      exact State.event_dropped_self _ v pgSec
  | false =>
    refine ⟨_, congrArg Host.Outcome.next ((State.liveApply_of s _ (State.takes_stopped h)).trans (congrArg (State.noteApply · s)
      ((State.commanded_of (State.advance_takes x h) _ _ _).trans (if_pos (by rw [hv]; rfl))))), (fun k => nomatch k), fun _ => ?_⟩
    have hsec := State.unheld_sec (s.advance x) p.val
    rw [State.noteApply_sec]
    dsimp only
    generalize State.thawSprouts _ _ = w at hsec ⊢
    rw [State.fencesZero]
    dsimp only
    rw [State.zeroFences_sec, hsec]
    rfl

theorem exec_partReleased_of (hs : s.stopped = false) (hst : (s.part p.val).st = .held) (hheld : s.partWindows p.val .held = false)
    (hz : s.partWindows p.val .zeroing = false) (hfrozen : s.partFrozen p.val = false)
    (hfences : (s.sec.fences.all fun f => decide (f.part ≠ p.val) || f.zeroing) = true) :
    ∃ t, exec (.partReleased p x) s = .next t ∧ t.event .pf pgSec 10 = true ∧
      (t.part p.val).st = (if partEn s.gate.act p.val then .active else .off) ∧
      t.sec.fences = s.sec.fences.filter fun f => decide (f.part ≠ p.val) := by
  refine ⟨_, congrArg Host.Outcome.next ((State.liveApply_of s _ hs).trans (congrArg (State.noteApply · s)
    (if_pos ⟨hst, hheld, hz, hfrozen, hfences⟩))), ?_⟩
  rw [State.noteApply_event, State.noteApply_part, State.noteApply_sec, State.advance_act]
  refine ⟨State.event_raise_self _ pgSec none (by decide), ?_, rfl⟩
  exact congrArg PartSt.st ((State.part_modPart _ p.val p.val _).trans (if_pos rfl))

end

/-- Settles O46, command by command. -/
theorem partitionsCloseAndOpenComplete : Obligations.PartitionsCloseAndOpenComplete :=
  ⟨fun v p x _ h => exec_disable_of x v p h, fun k x _ hs => exec_vfFlr_of x k hs,
    fun x _ hs => ⟨exec_vfEnableClear_of x hs, exec_pfFlr_of x hs⟩,
    fun p x _ _ hs hu hst => exec_disableSlotExpiry_of x p hs hu hst,
    fun p x _ hs hst hz => exec_partDisabled_scrubbed x p hs hst hz,
    fun _ p x _ h => exec_releaseHold_of x p h,
    fun p x _ hs hst hheld hz hfrozen hfences => exec_partReleased_of x p hs hst hheld hz hfrozen hfences⟩

end Sys2Proof.Machine
end

section
/-!
PROOF. SPDM requests of a responder (15 R368 to R377): O47.
-/

namespace Sys2Proof.Machine

open Sys2Proof

/-! ### A request that reaches its responder (R368, R372) -/

/-- A transport carries requests to a Groundskeeper whose core runs, in no session or in one that exists. -/
structure State.Carries (s : State) (i : Nat) (ses : Option Nat) : Prop where
  runs : s.stopped = false
  core : s.hub.gkHalted = false
  eid : s.hasEid i = true
  session : ∀ k, ses = some k → (s.session? i k).isSome = true

/-- And the device has an identity. -/
structure State.Identified (s : State) : Prop where
  idOk : s.sec.idOk = true
  normal : s.pwr.recovery = false

section
variable {s : State} {i : Nat} {ses : Option Nat}

theorem State.live_spdmReq (h : s.Carries i ses) {needsId : Bool} (hid : needsId = true → s.Identified) {ready : Spdm → Bool}
    (hready : ready (s.spdm i) = true) (f : State → State) : (s.live fun s => s.spdmReq i ses needsId ready f) = f s := by
  refine (State.live_of s _ h.runs).trans ?_
  unfold State.spdmReq
  rw [if_neg (by rw [h.core]; decide), if_neg (by rw [h.eid]; decide), if_neg]
  · cases ses with
    | none => exact if_pos hready
    | some k =>
      obtain ⟨x, hx⟩ := Option.isSome_iff_exists.1 (h.session k rfl)
      dsimp only
      rw [hx]
      exact if_pos hready
  · rintro ⟨hneeds, hbad⟩
    obtain ⟨hok, hnormal⟩ := hid hneeds
    rw [hok, hnormal] at hbad
    simp at hbad

/-- A request of a negotiated responder with a valid identity. -/
theorem State.live_spdmReady (h : s.Carries i ses) (hid : s.Identified) (hready : (s.spdm i).ready = true) (f : State → State) :
    (s.live fun s => s.spdmReq i ses true Spdm.ready f) = f s :=
  State.live_spdmReq h (fun _ => hid) hready f

/-! ### Errors and answers -/

theorem State.spdmError_answer (s : State) (i e : Nat) : Sent.answer 0 0x7F [i, e] ∈ (s.spdmError i e).hub.out :=
  State.emitted _ _ rfl

/-- A plain response keeps the message in the transcript and leaves. -/
theorem State.spdmPlain_joins (s : State) (i : Nat) (m : List (BitVec 8)) (c : Nat) (w : List Nat) :
    ((s.spdmPlain i m c w).spdm i).transcript = (s.spdm i).transcript ++ m ∧ Sent.answer 0 c (i :: w) ∈ (s.spdmPlain i m c w).hub.out := by
  obtain ⟨htranscript, -, hanswer, -⟩ := State.spdmPlain_eq s i m c w
  exact ⟨htranscript, hanswer⟩

end

/-! ### Negotiation (R372) -/

section
variable {s : State} {i : Fin 11} {ses : Option Nat} (m : List Byte) (h : s.Carries i.val ses)
include h

/-- GET_VERSION starts its transcript afresh. -/
theorem exec_getVersion_of (hses : ses = none) : ∃ t, exec (.getVersion i ses m) s = .next t ∧
    t.spdm i.val = { version := true, transcript := m } ∧ Sent.answer 0 0x04 [i.val, 0x12] ∈ t.hub.out := by
  refine ⟨_, congrArg Host.Outcome.next (State.live_spdmReq h (needsId := false) (fun k => nomatch k)
    (ready := fun _ => decide (ses = none)) (decide_eq_true hses) _), ?_, State.emitted _ _ rfl⟩
  exact State.spdm_mod s i.val _

theorem exec_getCapabilities_of (hv : (s.spdm i.val).version = true) : ∃ t, exec (.getCapabilities i ses m) s = .next t ∧
    (t.spdm i.val).caps = true ∧ (t.spdm i.val).transcript = (s.spdm i.val).transcript ++ m ∧ Sent.answer 0 0x61 [i.val] ∈ t.hub.out := by
  refine ⟨_, congrArg Host.Outcome.next (State.live_spdmReq h (needsId := false) (fun k => nomatch k) (ready := fun x => x.version) hv _), ?_⟩
  obtain ⟨-, hcaps, -⟩ := State.spdmPlain_flags (s.modSpdm i.val fun x => { x with caps := true }) i.val m 0x61 []
  obtain ⟨htranscript, hanswer⟩ := State.spdmPlain_joins (s.modSpdm i.val fun x => { x with caps := true }) i.val m 0x61 []
  rw [State.spdm_mod] at hcaps htranscript
  exact ⟨hcaps, htranscript, hanswer⟩

theorem exec_negotiateAlgorithms_of (hid : s.Identified) (hv : (s.spdm i.val).version = true) (hc : (s.spdm i.val).caps = true) :
    ∃ t, exec (.negotiateAlgorithms i ses m) s = .next t ∧ (t.spdm i.val).algs = true ∧
      (t.spdm i.val).transcript = (s.spdm i.val).transcript ++ m ∧ Sent.answer 0 0x63 [i.val] ∈ t.hub.out := by
  refine ⟨_, congrArg Host.Outcome.next (State.live_spdmReq h (fun _ => hid)
    (ready := fun x => x.version && x.caps) (Bool.and_eq_true_iff.2 ⟨hv, hc⟩) _), ?_⟩
  obtain ⟨-, -, halgs⟩ := State.spdmPlain_flags (s.modSpdm i.val fun x => { x with algs := true }) i.val m 0x63 []
  obtain ⟨htranscript, hanswer⟩ := State.spdmPlain_joins (s.modSpdm i.val fun x => { x with algs := true }) i.val m 0x63 []
  rw [State.spdm_mod] at halgs htranscript
  exact ⟨halgs, htranscript, hanswer⟩

/-! ### Certificates, the debug log, and PQ_SIGN (R372, R373, R377) -/

variable (hid : s.Identified) (hready : (s.spdm i.val).ready = true)
include hid hready

theorem exec_getDigests_of : ∃ t, exec (.getDigests i ses m) s = .next t ∧
    (t.spdm i.val).transcript = (s.spdm i.val).transcript ++ m ∧
    Sent.answer 0 0x01 [i.val, 1, leNat (Config.sha384 (Config.certChain (s.inUse 1) (s.inUse 4)))] ∈ t.hub.out :=
  ⟨_, congrArg Host.Outcome.next (State.live_spdmReady h hid hready _), State.spdmPlain_joins s i.val m _ _⟩

theorem exec_pqGetCert_of : ∃ t, exec (.pqGetCert i ses m) s = .next t ∧
    (t.spdm i.val).transcript = (s.spdm i.val).transcript ++ m ∧
    Sent.answer 0 0x7E [i.val, leNat (Config.mlDsaChain (s.inUse 1) (s.inUse 4))] ∈ t.hub.out :=
  ⟨_, congrArg Host.Outcome.next (State.live_spdmReady h hid hready _), State.spdmPlain_joins s i.val m _ _⟩

theorem exec_getCertificate_of : ∃ t, exec (.getCertificate i ses m) s = .next t ∧ (byteAt m 2 % 16 = 0 →
    (t.spdm i.val).transcript = (s.spdm i.val).transcript ++ m ∧
      ∀ b d, b = (Config.certChain (s.inUse 1) (s.inUse 4)).drop (byteAt m 4 + 256 * byteAt m 5) →
        d = b.take (byteAt m 6 + 256 * byteAt m 7) → Sent.answer 0 0x02 [i.val, d.length, b.length - d.length, leNat d] ∈ t.hub.out) := by
  refine ⟨_, congrArg Host.Outcome.next (State.live_spdmReady h hid hready _), fun hslot => ?_⟩
  rw [if_neg (fun k => k hslot)]
  obtain ⟨htranscript, hanswer⟩ := State.spdmPlain_joins s i.val m 0x02 _
  refine ⟨htranscript, fun b d hb hd => ?_⟩
  subst hb hd
  exact hanswer

theorem exec_getDebugLog_of : ∃ t, exec (.getDebugLog i ses m) s = .next t ∧
    (t.spdm i.val).transcript = (s.spdm i.val).transcript ++ m ∧
    (i.val < 3 → Sent.answer 0 0x7E (i.val :: s.sec.dbgLog.map leNat) ∈ t.hub.out) := by
  refine ⟨_, congrArg Host.Outcome.next (State.live_spdmReady h hid hready _), (State.spdmPlain_joins s i.val m _ _).1, fun hi => ?_⟩
  rw [if_neg (by omega)]
  exact (State.spdmPlain_joins s i.val m _ _).2

/-- PQ_SIGN signs the hash that the preceding response signed, and no other. -/
theorem exec_pqSign_of : ∃ t, exec (.pqSign i ses m) s = .next t ∧
    (∀ g, (s.spdm i.val).signed = some g →
      Sent.answer 0 0x7E [i.val, leNat (Config.aliasMlDsa (s.inUse 1) g)] ∈ t.hub.out ∧ (t.spdm i.val).signed = none) ∧
    ((s.spdm i.val).signed = none → Sent.answer 0 0x7F [i.val, spdmUnexpected] ∈ t.hub.out) := by
  refine ⟨_, congrArg Host.Outcome.next (State.live_spdmReady h hid hready _), ?_⟩
  cases hsigned : (s.spdm i.val).signed with
  | none => exact ⟨(fun _ k => nomatch k), fun _ => State.spdmError_answer s i.val _⟩
  | some g =>
    refine ⟨fun g' hg => ?_, fun k => nomatch k⟩
    obtain rfl : g = g' := Option.some.inj hg
    obtain ⟨-, hnone, hanswer, -⟩ := State.spdmPlain_eq s i.val m 0x7E [leNat (Config.aliasMlDsa (s.inUse 1) g)]
    exact ⟨hanswer, hnone⟩

/-! ### Signed responses (R372 to R374) -/

variable {g : List (BitVec 8)} (hg : g = Config.sha384 ((s.spdm i.val).transcript ++ m ++ natLe 8 s.free))
include hg

theorem exec_challenge_of : ∃ t, exec (.challenge i ses m) s = .next t ∧
    (byteAt m 2 % 16 = 0 → (t.spdm i.val).signed = some g ∧
      Sent.answer 0 0x03 [i.val, 0, leNat (Config.aliasEd25519 (s.inUse 1) g)] ∈ t.hub.out) ∧
    (byteAt m 2 % 16 ≠ 0 → Sent.answer 0 0x7F [i.val, spdmInvalidRequest] ∈ t.hub.out) := by
  refine ⟨_, congrArg Host.Outcome.next (State.live_spdmReady h hid hready _), fun hslot => ?_, fun hslot => ?_⟩
  · rw [if_neg (fun k => k hslot), hg]
    exact State.spdmSigned_eq s i.val m 0x03 [0]
  · rw [if_pos hslot]
    exact State.spdmError_answer s i.val _

/-- The words of a GET_MEASUREMENTS response: the number of blocks, all of them, or one (R374). -/
def State.measured (s : State) (i : Nat) (m : List Byte) : List Nat :=
  if byteAt m 3 = 0 then [8]
  else if byteAt m 3 = 0xFF then (List.range 8).flatMap fun k => (k + 1) :: s.measurement (s.trPart i) (decide (3 ≤ i)) (k + 1)
  else byteAt m 3 :: s.measurement (s.trPart i) (decide (3 ≤ i)) (byteAt m 3)

theorem exec_getMeasurements_of : ∃ t, exec (.getMeasurements i ses m) s = .next t ∧
    ∀ w, byteAt m 3 ≤ 8 ∨ byteAt m 3 = 0xFF → w = s.measured i.val m →
      (byteAt m 2 % 2 = 1 → (t.spdm i.val).signed = some g ∧
        Sent.answer 0 0x60 (i.val :: (w ++ [leNat (Config.aliasEd25519 (s.inUse 1) g)])) ∈ t.hub.out) ∧
      (byteAt m 2 % 2 = 0 → (t.spdm i.val).transcript = (s.spdm i.val).transcript ++ m ∧ Sent.answer 0 0x60 (i.val :: w) ∈ t.hub.out) := by
  refine ⟨_, congrArg Host.Outcome.next (State.live_spdmReady h hid hready _), fun w hop hw => ?_⟩
  have hknown : ¬ (8 < byteAt m 3 ∧ byteAt m 3 ≠ 0xFF) := by omega
  rw [if_neg hknown, hg, hw]
  refine ⟨fun hsign => ?_, fun hplain => ?_⟩
  · rw [if_pos hsign]
    exact State.spdmSigned_eq s i.val m 0x60 (s.measured i.val m)
  · rw [if_neg (by omega)]
    exact State.spdmPlain_joins s i.val m 0x60 (s.measured i.val m)

end

/-- Settles O47, request by request. -/
theorem attestationRequestsComplete : Obligations.AttestationRequestsComplete := by
  refine ⟨fun i ses m s hs hcore heid hses => ?_, fun i ses m s hs hcore heid hses hok hnormal hready => ?_,
    fun i ses m s g hs hcore heid hses hok hnormal hready hg => ?_⟩
  · have h : s.Carries i.val ses := ⟨hs, hcore, heid, hses⟩
    exact ⟨exec_getVersion_of m h, exec_getCapabilities_of m h,
      fun hv hc hok hnormal => exec_negotiateAlgorithms_of m h ⟨hok, hnormal⟩ hv hc⟩
  · have h : s.Carries i.val ses := ⟨hs, hcore, heid, hses⟩
    have hid : s.Identified := ⟨hok, hnormal⟩
    exact ⟨exec_getDigests_of m h hid hready, exec_pqGetCert_of m h hid hready, exec_getCertificate_of m h hid hready,
      exec_getDebugLog_of m h hid hready, exec_pqSign_of m h hid hready⟩
  · have h : s.Carries i.val ses := ⟨hs, hcore, heid, hses⟩
    exact ⟨exec_challenge_of m h ⟨hok, hnormal⟩ hready hg, exec_getMeasurements_of m h ⟨hok, hnormal⟩ hready hg⟩

end Sys2Proof.Machine
end

section
/-!
PROOF. SPDM sessions, wrapping keys, IDE keys, and the JTAG session (15 R362, R364, R372, R375): O48.
-/

namespace Sys2Proof.Machine

open Sys2Proof

/-- A stream without a key that stops: with none going it is secure no longer (R364). -/
def IdeStream.stop (k : Nat) (x : IdeStream) : IdeStream :=
  { x with
    going := SMap.put flagUnlisted x.going k false
    secure := x.secure && decide (SMap.put flagUnlisted x.going k false ≠ []) }

/-! ### Sessions (R372) -/

section
variable {s : State} {i : Fin 11} {ses : Option Nat} (m : List Byte) (h : s.Carries i.val ses) (hid : s.Identified)
  (hready : (s.spdm i.val).ready = true)
include h hid hready

/-- A session begins, of the requester's ID and a fresh one. -/
theorem exec_keyExchange_of (hses : ses = none) (hroom : s.sec.sessions.length < 8) {k : Nat}
    (hk : k = byteAt m 4 + 256 * byteAt m 5 + 2 ^ 16 * (Config.rspSession s.free % 2 ^ 16)) :
    ∃ t, exec (.keyExchange i ses m) s = .next t ∧ t.sec.sessions = s.sec.sessions ++ [{ id := k, transport := i.val }] := by
  refine ⟨_, congrArg Host.Outcome.next ((State.live_spdmReq h (fun _ => hid) (ready := fun x => x.ready && decide (ses = none))
    (Bool.and_eq_true_iff.2 ⟨hready, decide_eq_true hses⟩) _).trans (if_neg (Nat.not_le.2 hroom))), ?_⟩
  rw [hk]
  rfl

theorem exec_finish_of (ok : Bool) {k : Nat} {x : Session} (hses : ses = some k) (hx : s.session? i.val k = some x)
    (hnew : x.established = false) : ∃ t, exec (.finish i ses m ok) s = .next t ∧
      (ok = true → t.sec.sessions = (s.sec.sessions.map fun y => if y.id = k then { y with established := true } else y) ∧
        Sent.answer 0 0x65 [i.val, k] ∈ t.hub.out) ∧
      (ok = false → t.sec.sessions = (s.sec.sessions.filter fun y => decide (y.id ≠ k)) ∧
        Sent.answer 0 0x7F [i.val, spdmDecrypt] ∈ t.hub.out) := by
  have hexec : exec (.finish i ses m ok) s = .next
      (if ok then (s.modSession k fun y => { y with established := true }).spdmPlain i.val m 0x65 [k]
      else (s.endSession k).spdmError i.val spdmDecrypt) := by
    refine congrArg Host.Outcome.next ((State.live_spdmReady h hid hready _).trans ?_)
    subst hses
    dsimp only
    rw [hx]
    exact if_neg (by rw [hnew]; decide)
  refine ⟨_, hexec, fun hok => ?_, fun hok => ?_⟩
  · subst hok
    exact ⟨rfl, (State.spdmPlain_joins _ i.val m 0x65 [k]).2⟩
  · subst hok
    exact ⟨rfl, State.spdmError_answer _ i.val _⟩

variable {k : Nat} {x : Session} (hses : ses = some k) (hx : s.session? i.val k = some x) (hest : x.established = true)
include hses hx hest

/-- A request in an established session. -/
theorem State.live_inSession (f : Nat → State → State) : (s.live fun s => s.inSession i.val ses f) = f k s := by
  refine (State.live_spdmReady h hid hready _).trans ?_
  subst hses
  dsimp only
  rw [hx]
  exact if_pos hest

theorem exec_keyUpdate_of (b : Bool) : ∃ t, exec (.keyUpdate i ses m b) s = .next t ∧ Sent.answer 0 0x69 [i.val, k] ∈ t.hub.out ∧
    t.sec.sessions = s.sec.sessions.map fun y => if y.id = k then { y with genReq := y.genReq + 1, genRsp := y.genRsp + bit b } else y :=
  ⟨_, congrArg Host.Outcome.next (State.live_inSession h hid hready hses hx hest _), (State.spdmPlain_joins _ i.val m 0x69 [k]).2, rfl⟩

theorem exec_heartbeat_of : ∃ t, exec (.heartbeat i ses m) s = .next t ∧ Sent.answer 0 0x68 [i.val, k] ∈ t.hub.out ∧
    t.sec.sessions = s.sec.sessions :=
  ⟨_, congrArg Host.Outcome.next (State.live_inSession h hid hready hses hx hest _), (State.spdmPlain_joins _ i.val m 0x68 [k]).2, rfl⟩

theorem exec_endSession_of : ∃ t, exec (.endSession i ses m) s = .next t ∧ Sent.answer 0 0x6C [i.val, k] ∈ t.hub.out ∧
    t.sec.sessions = s.sec.sessions.filter fun y => decide (y.id ≠ k) :=
  ⟨_, congrArg Host.Outcome.next (State.live_inSession h hid hready hses hx hest _), (State.spdmPlain_joins _ i.val m 0x6C [k]).2, rfl⟩

/-- A transport that may keeps the wrapping key of a partition that has none (R362). -/
theorem exec_setPwk_of (p : Part) (key : List Byte) : ∃ t, exec (.setPwk i ses m p key) s = .next t ∧
    (i.val < 3 ∨ s.trPart i.val = some p.val → (s.part p.val).pwk = none →
      (t.part p.val).pwk = some key ∧ Sent.answer 0 0x7E [i.val] ∈ t.hub.out) := by
  refine ⟨_, congrArg Host.Outcome.next (State.live_inSession h hid hready hses hx hest _), fun hmay hnone => ?_⟩
  have hallowed : ¬ (3 ≤ i.val ∧ s.trPart i.val ≠ some p.val) := by
    rintro ⟨hvf, hother⟩
    exact hmay.elim (fun hlt => absurd hlt (Nat.not_lt.2 hvf)) hother
  rw [if_neg hallowed, if_neg (by rw [hnone]; decide)]
  refine ⟨?_, (State.spdmPlain_joins _ i.val m 0x7E []).2⟩
  rw [State.part_sec (State.spdmPlain_eq _ _ _ _ _).2.2.2.2.1, State.part_modPart, if_pos rfl]

/-! ### IDE keys (R364) -/

variable (hdoe : i.val = 2)
include hdoe

/-- An IDE_KM request on the PF's DOE mailbox. -/
theorem State.live_ideReq (f : State → State) : (s.live fun s => s.ideReq i.val ses f) = f s :=
  (State.live_inSession h hid hready hses hx hest _).trans (if_pos hdoe)

theorem exec_keyProg_of (f : Fin 9) (b : Bool) (d : Fin 3) (e : Bool) (key : List Byte) :
    ∃ t, exec (.keyProg i ses m f b d e key) s = .next t ∧ Sent.answer 3 1 [f.val, 0] ∈ t.hub.out ∧
      SMap.find? (SMap.get ideUnlisted t.sec.ide f.val).keys (ideKey b d.val e) = some key := by
  refine ⟨_, congrArg Host.Outcome.next (State.live_ideReq h hid hready hses hx hest hdoe _), State.emitted _ _ rfl, ?_⟩
  refine (congrArg (fun y => SMap.find? (IdeStream.keys y) (ideKey b d.val e))
    (State.ide_mod s f.val fun x => { x with keys := SMap.insert x.keys (ideKey b d.val e) key })).trans ?_
  exact SMap.find?_insert_self _ _ _

/-- A stream that is set going: secure, its traffic let through. -/
theorem exec_kSetGo_of (f : Fin 9) (b : Bool) (d : Fin 3) (e : Bool) : ∃ t, exec (.kSetGo i ses m f b d e) s = .next t ∧
    ((SMap.find? (SMap.get ideUnlisted s.sec.ide f.val).keys (ideKey b d.val e)).isSome = true → Sent.answer 3 2 [f.val, 0] ∈ t.hub.out ∧
      (SMap.get ideUnlisted t.sec.ide f.val).secure = true ∧ (SMap.get ideUnlisted t.sec.ide f.val).insecure = false ∧
      SMap.get flagUnlisted t.hub.mute f.val = false) := by
  refine ⟨_, congrArg Host.Outcome.next (State.live_ideReq h hid hready hses hx hest hdoe _), fun hkey => ?_⟩
  dsimp only
  rw [if_pos hkey]
  have hide := State.ide_mod s f.val fun x => { x with going := SMap.put flagUnlisted x.going (ideKey b d.val e) true, secure := true, insecure := false }
  generalize s.modIde f.val _ = y at hide ⊢
  obtain ⟨-, -, -, -, -, hstream, hmute⟩ := State.spdmPlain_eq
    { y with hub := { y.hub with mute := SMap.put flagUnlisted y.hub.mute f.val false } } i.val m 0x7E []
  refine ⟨State.emitted _ _ rfl, ?_, ?_, ?_⟩
  · exact congrArg IdeStream.secure ((congrArg (SMap.get ideUnlisted · f.val) hstream).trans hide)
  · exact congrArg IdeStream.insecure ((congrArg (SMap.get ideUnlisted · f.val) hstream).trans hide)
  · rw [State.mute_emit, hmute]
    exact SMap.get_put_self flagUnlisted y.hub.mute f.val false

theorem exec_kSetStop_of (f : Fin 9) (b : Bool) (d : Fin 3) (e : Bool) : ∃ t, exec (.kSetStop i ses m f b d e) s = .next t ∧
    Sent.answer 3 2 [f.val, 0] ∈ t.hub.out ∧
    SMap.get flagUnlisted (SMap.get ideUnlisted t.sec.ide f.val).going (ideKey b d.val e) = false := by
  refine ⟨_, congrArg Host.Outcome.next (State.live_ideReq h hid hready hses hx hest hdoe _), State.emitted _ _ rfl, ?_⟩
  refine (congrArg (fun y => SMap.get flagUnlisted (IdeStream.going y) (ideKey b d.val e))
    (State.ide_mod s f.val (IdeStream.stop (ideKey b d.val e)))).trans ?_
  exact SMap.get_put_self flagUnlisted (SMap.get ideUnlisted s.sec.ide f.val).going _ false

end

/-! ### The JTAG session (R375) -/

theorem State.debugBegin_jtag (s : State) (k m n : Nat) : (s.debugBegin k m n).sec.jtag = s.sec.jtag := by
  obtain ⟨a, b, c, h⟩ := State.debugRecord_eq s (min k 4) m n
  unfold State.debugBegin
  rw [h]
  rfl

theorem State.debugEnd_jtag (s : State) (k n : Nat) : (s.debugEnd k n).sec.jtag = s.sec.jtag := by
  unfold State.debugEnd
  split
  · rfl
  · next e _ =>
    obtain ⟨a, b, c, h⟩ := State.debugRecord_eq s (min k 4 + 128) e.2.1 n
    rw [h]

/-- A session that has ended is open no longer. -/
theorem State.debugEnd_closed (s : State) (k n : Nat) : ∀ e ∈ (s.debugEnd k n).sec.dbgOpen, e.1 ≠ k ∨ e.2.2 ≠ n := by
  unfold State.debugEnd
  split
  · next hnone =>
    intro e he
    have hne : ¬ (e.1 = k ∧ e.2.2 = n) := fun hsame => List.find?_eq_none.1 hnone e he (decide_eq_true hsame)
    exact Decidable.not_and_iff_or_not.1 hne
  · exact fun e he => of_decide_eq_true (List.mem_filter.1 he).2

theorem exec_tapLeaveReset_of (x : Nat) {s : State} (hs : s.stopped = false) (hin : s.gk.tapOut = false) :
    ∃ t, exec (.tapLeaveReset x) s = .next t ∧ t.gk.tapOut = true ∧ t.sec.jtag = true ∧ (1, s.enabledMask, 0) ∈ t.sec.dbgOpen := by
  refine ⟨_, congrArg Host.Outcome.next ((if_neg (by rw [hin]; decide)).trans
    (State.live_of { s with gk := { s.gk with tapOut := true, tapIr := 0 } } _ hs)), ?_⟩
  obtain ⟨u, hu⟩ : ∃ u, ({ s with gk := { s.gk with tapOut := true, tapIr := 0 } } : State).advance x = u := ⟨_, rfl⟩
  have hmask : u.enabledMask = s.enabledMask := by
    rw [State.enabledMask, ← hu, State.advance_act]
    rfl
  have hout : u.gk.tapOut = true := by rw [← hu]; rfl
  dsimp only
  rw [hu, hmask]
  obtain ⟨hopen, hgk, -⟩ := State.debugBegin_open { u with sec := { u.sec with jtag := true } } 1 s.enabledMask 0
  exact ⟨(congrArg Gk.tapOut hgk).trans hout, State.debugBegin_jtag _ _ _ _, hopen⟩

theorem exec_tapReset_of (x : Nat) {s : State} (hs : s.stopped = false) :
    ∃ t, exec (.tapReset x) s = .next t ∧ t.gk.tapOut = false ∧ t.sec.jtag = false ∧
      (s.sec.jtag = true → ∀ e ∈ t.sec.dbgOpen, e.1 ≠ 1 ∨ e.2.2 ≠ 0) := by
  refine ⟨_, congrArg Host.Outcome.next (State.live_of { s with gk := { s.gk with tapOut := false, tapIr := 0 } } _ hs), ?_⟩
  obtain ⟨u, hu⟩ : ∃ u, ({ s with gk := { s.gk with tapOut := false, tapIr := 0 } } : State).advance x = u := ⟨_, rfl⟩
  have hout : u.gk.tapOut = false := by rw [← hu]; rfl
  have hjtag : u.sec.jtag = s.sec.jtag := by rw [← hu]; rfl
  dsimp only
  rw [hu]
  cases hopen : s.sec.jtag with
  | true =>
    rw [if_pos (hjtag.trans hopen)]
    have hgk := (State.debugEnd_eq { u with sec := { u.sec with jtag := false } } 1 0).2.1
    exact ⟨(congrArg Gk.tapOut hgk).trans hout, State.debugEnd_jtag _ _ _, fun _ => State.debugEnd_closed _ _ _⟩
  | false =>
    rw [if_neg (by rw [hjtag, hopen]; decide)]
    exact ⟨hout, hjtag.trans hopen, fun k => nomatch k⟩

/-- Settles O48, request by request, and the JTAG session. -/
theorem sessionsAndStreamsComplete : Obligations.SessionsAndStreamsComplete := by
  refine ⟨fun i ses m ok s hs hcore heid hses hok hnormal hready => ?_,
    fun i ses m key b p s k x hs hcore heid hall hok hnormal hready hses hx hest => ?_,
    fun i ses m key b f d e s k x hs hcore heid hall hok hnormal hready hses hx hest hdoe => ?_,
    fun x s hs => ⟨exec_tapLeaveReset_of x hs, exec_tapReset_of x hs⟩⟩
  · have h : s.Carries i.val ses := ⟨hs, hcore, heid, hses⟩
    exact ⟨fun hnone hroom k hk => exec_keyExchange_of m h ⟨hok, hnormal⟩ hready hnone hroom hk,
      fun k x hk hx hnew => exec_finish_of m h ⟨hok, hnormal⟩ hready ok hk hx hnew⟩
  · have h : s.Carries i.val ses := ⟨hs, hcore, heid, hall⟩
    have hid : s.Identified := ⟨hok, hnormal⟩
    exact ⟨exec_keyUpdate_of m h hid hready hses hx hest b, exec_heartbeat_of m h hid hready hses hx hest,
      exec_endSession_of m h hid hready hses hx hest, exec_setPwk_of m h hid hready hses hx hest p key⟩
  · have h : s.Carries i.val ses := ⟨hs, hcore, heid, hall⟩
    have hid : s.Identified := ⟨hok, hnormal⟩
    exact ⟨exec_keyProg_of m h hid hready hses hx hest hdoe f b d e key, exec_kSetGo_of m h hid hready hses hx hest hdoe f b d e,
      exec_kSetStop_of m h hid hready hses hx hest hdoe f b d e⟩

end Sys2Proof.Machine
end

section
/-!
PROOF. Resets, the steps of a start, and the restart of Groundskeeper (19 R461, R465 to R468; 16 R403; 20 R475): O52.
-/

namespace Sys2Proof.Machine

open Sys2Proof

/-! ### What an Almanac record and a variant leave of the start -/

/-- Two states of the power block at the same point of the same start. -/
structure Pwr.SameStart (a b : Pwr) : Prop where
  step : b.step = a.step
  start : b.start = a.start
  ringSize : b.ringSize = a.ringSize
  ringPos : b.ringPos = a.ringPos
  porstHigh : b.porstHigh = a.porstHigh
  railBad : b.railBad = a.railBad
  perst : b.perst = a.perst
  ready : b.ready = a.ready
  recovery : b.recovery = a.recovery
  recovering : b.recovering = a.recovering

theorem Pwr.SameStart.refl (a : Pwr) : a.SameStart a := ⟨rfl, rfl, rfl, rfl, rfl, rfl, rfl, rfl, rfl, rfl⟩

theorem Pwr.SameStart.trans {a b c : Pwr} (h : a.SameStart b) (g : b.SameStart c) : a.SameStart c :=
  ⟨g.step.trans h.step, g.start.trans h.start, g.ringSize.trans h.ringSize, g.ringPos.trans h.ringPos, g.porstHigh.trans h.porstHigh,
    g.railBad.trans h.railBad, g.perst.trans h.perst, g.ready.trans h.ready, g.recovery.trans h.recovery, g.recovering.trans h.recovering⟩

theorem State.almanac_start (s : State) (r : AlmRec) (ok : Bool) : s.pwr.SameStart (s.almanac r ok).pwr := by
  unfold State.almanac
  split <;> exact ⟨rfl, rfl, rfl, rfl, rfl, rfl, rfl, rfl, rfl, rfl⟩

theorem State.almanac_gk (s : State) (r : AlmRec) (ok : Bool) : (s.almanac r ok).gk = s.gk :=
  Keeps.gk_eq (State.almanac_keeps (Keeps.refl _) : LeavesGk s _)

theorem State.almanac_held (s : State) (r : AlmRec) (ok : Bool) : (s.almanac r ok).held = s.held := by
  unfold State.almanac
  split <;> rfl

theorem State.setVariant_start (s : State) (k v : Nat) : s.pwr.SameStart (s.setVariant k v).pwr :=
  ⟨rfl, rfl, rfl, rfl, rfl, rfl, rfl, rfl, rfl, rfl⟩

theorem State.decideVariant_start (s : State) (k : Nat) (ok : Bool) : s.pwr.SameStart (s.decideVariant k ok).pwr := by
  unfold State.decideVariant
  dsimp only
  split
  · exact (State.setVariant_start _ _ _).trans (State.almanac_start _ _ _)
  · split
    · exact (State.setVariant_start _ _ _).trans (State.almanac_start _ _ _)
    · exact Pwr.SameStart.refl _

theorem State.decideVariant_held (s : State) (k : Nat) (ok : Bool) : (s.decideVariant k ok).held = s.held := by
  unfold State.decideVariant
  dsimp only
  split
  · exact State.almanac_held _ _ _
  · split
    · exact State.almanac_held _ _ _
    · rfl

/-- A step that begins changes of the power block the step in progress, beside its record. -/
theorem State.beginStep_start (s : State) (k : Nat) (ok : Bool) : Pwr.SameStart { s.pwr with step := k } (s.beginStep k ok).pwr :=
  State.almanac_start { s with pwr := { s.pwr with step := k } } _ ok

theorem State.beginStep_step (s : State) (k : Nat) (ok : Bool) : (s.beginStep k ok).pwr.step = k := (State.beginStep_start s k ok).step

theorem State.beginStep_held (s : State) (k : Nat) (ok : Bool) : (s.beginStep k ok).held = s.held :=
  State.almanac_held { s with pwr := { s.pwr with step := k } } _ ok

theorem State.beginStep_rest (s : State) (k : Nat) (ok : Bool) : (s.beginStep k ok).mem = s.mem ∧ (s.beginStep k ok).plots = s.plots ∧
    (s.beginStep k ok).rms = s.rms :=
  ⟨Keeps.mem_eq (State.beginStep_keeps (Keeps.refl _) : LeavesMem s _), Keeps.plots_eq (State.beginStep_keeps (Keeps.refl _) : LeavesPlots s _),
    Keeps.rms_eq (State.beginStep_keeps (Keeps.refl _) : LeavesRms s _)⟩

/-! ### Power-on reset (R461, R467) -/

/-- The end of power-on reset: the straps are sampled, and start-up begins at step 1. -/
theorem State.beginStart_begun (s : State) (a b : Nat) : (s.beginStart a b).held = false ∧ (s.beginStart a b).pwr.step = 1 ∧
    (s.beginStart a b).pwr.start = (s.pwr.start + 1) % 2 ^ 32 ∧ (s.beginStart a b).pwr.ringSize = a ∧ (s.beginStart a b).pwr.ringPos = b ∧
    (s.beginStart a b).pwr.porstHigh = s.pwr.porstHigh ∧ (s.beginStart a b).pwr.railBad = s.pwr.railBad := by
  obtain ⟨u, hu⟩ : ∃ u, State.emit { s with
    held := false
    pwr := { s.pwr with start := (s.pwr.start + 1) % 2 ^ 32, ringSize := a, ringPos := b, strapErr := decide (a < b) } }
      (Sent.pin .xspiReset true) = u := ⟨_, rfl⟩
  have heq : s.beginStart a b = (u.decideVariant 2 true).beginStep 1 true := by rw [← hu]; rfl
  have hdecide := State.decideVariant_start u 2 true
  have hbegin := State.beginStep_start (u.decideVariant 2 true) 1 true
  rw [heq]
  refine ⟨?_, hbegin.step, ?_, ?_, ?_, ?_, ?_⟩
  · rw [State.beginStep_held, State.decideVariant_held, ← hu]
    rfl
  · exact hbegin.start.trans (hdecide.start.trans (by rw [← hu]; rfl))
  · exact hbegin.ringSize.trans (hdecide.ringSize.trans (by rw [← hu]; rfl))
  · exact hbegin.ringPos.trans (hdecide.ringPos.trans (by rw [← hu]; rfl))
  · exact hbegin.porstHigh.trans (hdecide.porstHigh.trans (by rw [← hu]; rfl))
  · exact hbegin.railBad.trans (hdecide.railBad.trans (by rw [← hu]; rfl))

theorem exec_porstRelease_good (a b : Fin 8) {s : State} (hlow : s.pwr.porstHigh = false) (hgood : s.pwr.railBad = false) :
    ∃ t, exec (.porstRelease a b) s = .next t ∧ t.held = false ∧ t.pwr.step = 1 ∧ t.pwr.start = (s.pwr.start + 1) % 2 ^ 32 ∧
      t.pwr.ringSize = a.val ∧ t.pwr.ringPos = b.val ∧ t.pwr.porstHigh = true := by
  refine ⟨_, congrArg Host.Outcome.next ((if_neg (by rw [hlow]; decide)).trans (if_neg (?_ : ¬ s.pwr.railBad = true))), ?_⟩
  · rw [hgood]
    decide
  · obtain ⟨hheld, hstep, hstart, hsize, hpos, hhigh, -⟩ :=
      State.beginStart_begun { s with pwr := { s.pwr with porstHigh := true } } a.val b.val
    exact ⟨hheld, hstep, hstart, hsize, hpos, hhigh⟩

theorem exec_porstRelease_bad (a b : Fin 8) {s : State} (hlow : s.pwr.porstHigh = false) (hbad : s.pwr.railBad = true) :
    exec (.porstRelease a b) s = .next { s with pwr := { s.pwr with porstHigh := true } } :=
  congrArg Host.Outcome.next ((if_neg (by rw [hlow]; decide)).trans (if_pos (c := s.pwr.railBad = true) hbad))

/-- A bad rail holds the device, its memory and Plots cleared (R461). -/
theorem exec_railFault_bad (a b : Fin 8) (s : State) : ∃ t, exec (.railFault true a b) s = .next t ∧ t.held = true ∧
    t.pwr.railBad = true ∧ t.mem = [] ∧ t.plots = [] := by
  refine ⟨{ s.cold with pwr := { s.cold.pwr with railBad := true } }, rfl, ?_⟩
  unfold State.cold
  exact ⟨rfl, rfl, rfl, rfl⟩

theorem exec_railFault_good (a b : Fin 8) {s : State} (hbad : s.pwr.railBad = true) (hhigh : s.pwr.porstHigh = true) :
    ∃ t, exec (.railFault false a b) s = .next t ∧ t.held = false ∧ t.pwr.railBad = false ∧ t.pwr.step = 1 := by
  refine ⟨_, congrArg Host.Outcome.next ((if_neg Bool.false_ne_true).trans ((if_pos hbad).trans (if_pos (c := s.pwr.porstHigh = true) hhigh))), ?_⟩
  obtain ⟨hheld, hstep, -, -, -, -, hrail⟩ :=
    State.beginStart_begun { s with pwr := { s.pwr with railBad := false } } a.val b.val
  exact ⟨hheld, hrail, hstep⟩

/-! ### PERST# (R465, R468) -/

/-- PERST# clears memory, the Plots, the contexts, the keys and READY. -/
theorem State.warm_perst (s : State) : (s.warm false).pwr.perst = true ∧ (s.warm false).pwr.ready = false ∧ (s.warm false).mem = [] ∧
    (s.warm false).plots = [] ∧ (s.warm false).rms = {} ∧ (s.warm false).sec.keys = [] := by
  unfold State.warm
  exact ⟨rfl, rfl, rfl, rfl, rfl, rfl⟩

theorem State.driveByp_start (s : State) : s.pwr.SameStart s.driveByp.pwr := by
  unfold State.driveByp
  dsimp only
  split
  · exact Pwr.SameStart.refl _
  · exact ⟨rfl, rfl, rfl, rfl, rfl, rfl, rfl, rfl, rfl, rfl⟩

/-- The start that PERST# began runs from step 4, or in recovery mode from step 10. -/
theorem exec_perstRelease_of (x : Nat) {s : State} (hs : s.stopped = false) (hperst : s.pwr.perst = true) (hstep : s.pwr.step = 0)
    (hready : s.pwr.ready = false) (hfw : s.gk.fwRun = true ∨ s.pwr.recovery = true) :
    ∃ t, exec (.perstRelease x) s = .next t ∧ t.pwr.perst = false ∧ t.pwr.step = (if s.pwr.recovery then 10 else 4) := by
  obtain ⟨u, hu⟩ : ∃ u : State, ({ s.advance x with pwr := { (s.advance x).pwr with perst := false } } : State) = u := ⟨_, rfl⟩
  have hexec : exec (.perstRelease x) s = .next (u.driveByp.beginStep (if s.pwr.recovery then 10 else 4) true) := by
    subst hu
    refine congrArg Host.Outcome.next ((if_neg (by rw [hs]; decide)).trans ((if_pos hperst).trans (if_neg ?_)))
    rintro (hnz | hr | ⟨hfw0, hrec0⟩)
    · exact hnz hstep
    · exact Bool.false_ne_true (hready.symm.trans hr)
    · exact hfw.elim (fun k => Bool.false_ne_true (hfw0.symm.trans k)) fun k => Bool.false_ne_true (hrec0.symm.trans k)
  refine ⟨_, hexec, ?_, State.beginStep_step _ _ _⟩
  exact (State.beginStep_start _ _ _).perst.trans ((State.driveByp_start u).perst.trans (by rw [← hu]))

/-! ### The steps of a start (R467 to R472) -/

section
variable {s : State} (r : StartResult) (b : Bool) (x : Nat)

/-- The outcome record of a step. -/
def State.stepNoted (s : State) (k : Nat) (r : StartResult) (b : Bool) : State :=
  (s.endStep k r b).1.almanac
    { start := 0, step := k, outcome := (s.endStep k r b).2.1, variant := s.variant k, detail := if k = 7 then pairGrades r.train else 0 } b

/-- The step in progress ends, and the next begins, or none. -/
theorem exec_startStepDone_of (hs : s.stopped = false) {k : Nat} (hk : s.pwr.step = k) (hpos : k ≠ 0)
    (hperst : k = 10 → s.pwr.perst = false) {n : Nat} (hn : ((s.advance x).endStep k r b).2.2 = n) :
    exec (.startStepDone r b x) s = .next ((if n = 0 then
      { (s.advance x).stepNoted k r b with pwr := { ((s.advance x).stepNoted k r b).pwr with step := 0 } }
      else ((s.advance x).stepNoted k r b).beginStep n b).noteApply s) := by
  subst hk hn
  refine congrArg Host.Outcome.next ((State.liveApply_of s _ hs).trans (congrArg (State.noteApply · s)
    (if_neg (c := s.pwr.step = 0 ∨ (s.pwr.step = 10 ∧ s.pwr.perst = true)) ?_)))
  rintro (hz | ⟨h10, hp⟩)
  · exact hpos hz
  · exact Bool.false_ne_true ((hperst h10).symm.trans hp)

/-- The step that follows, of what the end of a step leaves. -/
def stepAfter (y : State × Nat × Nat) : Nat := y.2.2

/-- Steps 1 to 9 that pass go on to the next. -/
theorem State.endStep_passed (hok : r.ok = true) {k : Nat} (hpos : k ≠ 0) (hk : k ≤ 9) : (s.endStep k r b).2.2 = k + 1 := by
  interval_cases k
  · exact absurd rfl hpos
  · exact if_pos hok
  · exact if_pos hok
  · simp only [State.endStep, if_pos hok]
  · simp only [State.endStep]
    split <;> rfl
  · rfl
  · rfl
  · simp only [State.endStep]
    split <;> rfl
  · simp only [State.endStep]
    split <;> rfl
  · rfl

/-- Step 10 that passes is the last. -/
theorem State.endStep_last (hok : r.ok = true) : s.endStep 10 r b = (s.readyNow r, if 0 < s.variant 10 then 4 else 1, 0) :=
  if_pos hok

theorem State.readyNow_ready (s : State) (r : StartResult) : (s.readyNow r).pwr.ready = true := by
  unfold State.readyNow
  dsimp only
  refine (State.driveByp_start _).ready.trans ?_
  split <;> split <;> rfl

/-- The last variant of step 3 that fails enters recovery mode (R467). -/
theorem State.endStep_recovery (hbad : r.ok = false) (hlast : s.variant 3 ≠ 0) : ∃ u : State,
    s.endStep 3 r b = ({ u with pwr := { u.pwr with recovery := true }, gk := { u.gk with fwRun := false } }, 2, 10) := by
  refine ⟨s.almanac { start := 0, step := 0x15, outcome := 2 } b, ?_⟩
  exact (if_neg (c := r.ok = true) (by rw [hbad]; decide)).trans (if_neg hlast)

theorem exec_startStepDone_passed (hs : s.stopped = false) {k : Nat} (hk : s.pwr.step = k) (hpos : k ≠ 0) (h9 : k ≤ 9)
    (hok : r.ok = true) : ∃ t, exec (.startStepDone r b x) s = .next t ∧ t.pwr.step = k + 1 := by
  refine ⟨_, exec_startStepDone_of r b x hs hk hpos (fun h => by omega) (State.endStep_passed r b hok hpos h9), ?_⟩
  rw [if_neg (by omega), State.noteApply_pwr]
  exact State.beginStep_step _ _ _

theorem exec_startStepDone_ready (hs : s.stopped = false) (hk : s.pwr.step = 10) (hperst : s.pwr.perst = false) (hok : r.ok = true) :
    ∃ t, exec (.startStepDone r b x) s = .next t ∧ t.pwr.step = 0 ∧ t.pwr.ready = true := by
  have hlast : (s.advance x).endStep 10 r b = _ := State.endStep_last r b hok
  refine ⟨_, exec_startStepDone_of r b x hs hk (by decide) (fun _ => hperst) (n := 0) (congrArg stepAfter hlast), ?_⟩
  rw [if_pos rfl, State.noteApply_pwr]
  refine ⟨rfl, ?_⟩
  rw [State.stepNoted, hlast]
  exact (State.almanac_start _ _ _).ready.trans (State.readyNow_ready _ _)

theorem exec_startStepDone_recovery (hs : s.stopped = false) (hk : s.pwr.step = 3) (hlast : s.variant 3 ≠ 0) (hbad : r.ok = false) :
    ∃ t, exec (.startStepDone r b x) s = .next t ∧ t.pwr.step = 10 ∧ t.pwr.recovery = true ∧ t.gk.fwRun = false := by
  obtain ⟨u, hu⟩ := State.endStep_recovery (s := s.advance x) r b hbad hlast
  refine ⟨_, exec_startStepDone_of r b x hs hk (by decide) (fun h => nomatch h) (n := 10) (congrArg stepAfter hu), ?_⟩
  rw [if_neg (by decide), State.noteApply_pwr, State.noteApply_gk]
  refine ⟨State.beginStep_step _ _ _, ?_, ?_⟩
  · refine (State.beginStep_start _ _ _).recovery.trans ?_
    rw [State.stepNoted, hu]
    exact (State.almanac_start _ _ _).recovery
  · have hgk : ∀ t : State, (t.beginStep 10 b).gk = t.gk := fun t =>
      Keeps.gk_eq (State.beginStep_keeps (Keeps.refl _) : LeavesGk t _)
    rw [hgk, State.stepNoted, hu, State.almanac_gk]

end

/-! ### The restart of Groundskeeper (R403, 20 R475) -/

theorem State.mbEnd_sec (s : State) (code : Nat) : (s.mbEnd code).sec = s.sec :=
  Keeps.sec_eq (State.mbEnd_keeps (Keeps.refl _) : LeavesSec s _)

/-- A restart ends the sessions, and raises the event. -/
theorem State.gkRestart_ends (s : State) : s.gkRestart.sec.sessions = [] ∧ s.gkRestart.sec.spdm = [] ∧ s.gkRestart.event .pf pgGkp 10 = true := by
  obtain ⟨u, hu⟩ : ∃ u : State, ({ s.logout with sec := { s.logout.sec with spdm := [], sessions := [] } } : State) = u := ⟨_, rfl⟩
  have heq : s.gkRestart = (((u.mbEnd 3).bump pgGkp 0x48 none).raise pgGkp 10 none).notice 2 := by rw [← hu]; rfl
  have hsec : s.gkRestart.sec = u.sec := by
    rw [heq]
    exact State.mbEnd_sec u 3
  rw [hsec]
  refine ⟨by rw [← hu], by rw [← hu], ?_⟩
  rw [heq]
  have hheard : ∀ t : State, t.Heard (t.notice 2) := fun t => State.Heard.raise (s := { t with gk := _ }) (State.Heard.refl t) pgGkp 9 none
  exact (hheard _).2 _ _ _ (State.event_raise_self _ pgGkp none (by decide))

theorem exec_gkWatchdogExpiry_of (x : Nat) {s : State} (hs : s.stopped = false) (hcore : s.hub.gkHalted = false) :
    ∃ t, exec (.gkWatchdogExpiry x) s = .next t ∧ t.sec.sessions = [] ∧ t.sec.spdm = [] ∧ t.event .pf pgGkp 10 = true ∧
      t.plots = s.plots ∧ t.mem = s.mem := by
  refine ⟨(s.advance x).gkRestart, congrArg Host.Outcome.next ((State.live_of s _ hs).trans
    (if_neg (by rw [State.advance_gkHalted, hcore]; decide))), ?_⟩
  obtain ⟨hsessions, hspdm, hevent⟩ := State.gkRestart_ends (s.advance x)
  exact ⟨hsessions, hspdm, hevent, (Keeps.plots_eq (State.gkRestart_keeps (Keeps.refl _) : LeavesPlots (s.advance x) _)).trans rfl,
    (Keeps.mem_eq (State.gkRestart_keeps (Keeps.refl _) : LeavesMem (s.advance x) _)).trans rfl⟩

/-! ### Device recovery (16 R403) -/

/-- A record that no log in DRAM keeps leaves memory. -/
theorem State.fltLog_mem (s : State) (r : FltRec) (h : s.cfg pgFlt 0x104 24 8 = 0) : (s.fltLog r).mem = s.mem := by
  have hplatform : ∀ (t : State) (a : Nat) (b : List Nat), (t.platform a b).mem = t.mem := fun t a b =>
    Keeps.mem_eq (State.platform_keeps (Keeps.refl _) : LeavesMem t _)
  unfold State.fltLog
  dsimp only
  rw [if_pos (by rw [h])]
  split
  · exact hplatform _ _ _
  · rfl

theorem State.pinsDown_mem (s : State) (cold : Bool) : (s.pinsDown cold).mem = s.mem := by
  have hite : ∀ (c : Prop) [Decidable c] (t : State) (y : Sent), (if c then t.emit y else t).mem = t.mem := by
    intro c _ t y
    split <;> rfl
  have hfold : ∀ (c : State → Nat → Prop) [∀ t k, Decidable (c t k)] (p : Nat → Sent) (l : List Nat) (t : State),
      (l.foldl (fun t k => if c t k then t.emit (p k) else t) t).mem = t.mem := by
    intro c _ p l
    induction l with
    | nil => exact fun _ => rfl
    | cons k l ih => exact fun t => (ih _).trans (hite _ _ _)
  unfold State.pinsDown
  dsimp only
  rw [hite, hite, hfold (fun t k => t.flag pgSdl (0x260 + 4 * k) 6 = true), hite, hite, hfold fun _ k => fieldOf s.irg.fc k 1 = 1]

/-- Device recovery leaves of memory DRAM alone, as it stands. -/
theorem State.warm_recovery (s : State) : (s.warm true).plots = [] ∧ (s.warm true).rms = {} ∧ (s.warm true).pwr.ready = false ∧
    (s.warm true).mem = s.mem.filter fun e => decide (dramBase ≤ e.1) := by
  have hend : ∀ (l : List (Nat × Nat × Nat)) (t : State), (l.foldl (fun t e => t.debugEnd e.1 e.2.2) t).mem = t.mem := by
    intro l
    induction l with
    | nil => exact fun _ => rfl
    | cons e l ih =>
      exact fun t => (ih _).trans (Keeps.mem_eq (State.debugEnd_keeps (Keeps.refl _) : LeavesMem t _))
  refine ⟨rfl, rfl, rfl, ?_⟩
  have hmem : (s.warm true).mem = (((s.sec.dbgOpen.filter fun e => decide (3 ≤ e.1)).foldl (fun t e => t.debugEnd e.1 e.2.2)
      (s.pinsDown false)).mem).filter fun e => decide (dramBase ≤ e.1) := rfl
  rw [hmem, hend, State.pinsDown_mem]

/-- The state as device recovery finds it: the Almanac's record, the count, the event, the log record, and the notice. -/
def State.recoveryNoted (s : State) (almOk : Bool) : State :=
  ((((s.almanac { start := 0, step := 0x12, outcome := 1 } almOk).bump pgFlt 0x88 none).raise pgFlt 14 none).fltLog
    { kind := 8, action := 7, cls := 9, detail := 7 }).notice 1

theorem State.recoveryNoted_mem (s : State) (almOk : Bool) (h : s.cfg pgFlt 0x104 24 8 = 0) : (s.recoveryNoted almOk).mem = s.mem := by
  have hnotice : ∀ t : State, (t.notice 1).mem = t.mem := fun t => rfl
  have hgate : ∀ r, (s.almanac r almOk).gate = s.gate := fun r =>
    Keeps.gate_eq (State.almanac_keeps (Keeps.refl _) : LeavesGate s (s.almanac r almOk))
  have hmem : ∀ r, (s.almanac r almOk).mem = s.mem := fun r =>
    Keeps.mem_eq (State.almanac_keeps (Keeps.refl _) : LeavesMem s (s.almanac r almOk))
  rw [State.recoveryNoted, hnotice, State.fltLog_mem]
  · exact hmem _
  · refine Eq.trans ?_ h
    exact congrArg (fun g : Gate => Machine.cfg g.act pgFlt 0x104 24 8) (hgate _)

theorem exec_deviceRecovery_of (c b : Bool) (x : Nat) {s u : State} (hs : s.stopped = false) (hu : u = s.advance x)
    (hfw : s.gk.fwRun = true) (hcore : s.hub.gkHalted = false) (hperst : s.pwr.perst = false)
    (howed : c = true ∨ s.flt.recoverOwed = true ∨ (List.range 8).any u.resetStuck = true) :
    ∃ t, exec (.deviceRecovery c b x) s = .next t ∧ t.pwr.recovering = true ∧ t.pwr.step = 5 ∧ t.plots = [] ∧ t.rms = {} ∧
      t.pwr.ready = false ∧ (∀ e ∈ t.mem, dramBase ≤ e.1) ∧
      (s.cfg pgFlt 0x104 24 8 = 0 → t.mem = s.mem.filter fun e => decide (dramBase ≤ e.1)) := by
  subst hu
  obtain ⟨w, hw⟩ : ∃ w, ((s.advance x).recoveryNoted b).warm true = w := ⟨_, rfl⟩
  have hexec : exec (.deviceRecovery c b x) s = .next (State.beginStep { w with pwr := { w.pwr with recovering := true } } 5 b) := by
    subst hw
    refine congrArg Host.Outcome.next ((State.live_of s _ hs).trans (if_pos (c := (s.advance x).gk.fwRun = true ∧
      (s.advance x).hub.gkHalted = false ∧ (s.advance x).pwr.perst = false ∧
        (c = true ∨ (s.advance x).flt.recoverOwed = true ∨ (List.range 8).any (s.advance x).resetStuck = true)) ⟨hfw, ?_, hperst, howed⟩))
    rw [State.advance_gkHalted, hcore]
  obtain ⟨hplots, hrms, hready, hmem⟩ := State.warm_recovery ((s.advance x).recoveryNoted b)
  rw [hw] at hplots hrms hready hmem
  have hbegin := State.beginStep_start { w with pwr := { w.pwr with recovering := true } } 5 b
  obtain ⟨hm, hp, hr⟩ := State.beginStep_rest { w with pwr := { w.pwr with recovering := true } } 5 b
  have hlast : (State.beginStep { w with pwr := { w.pwr with recovering := true } } 5 b).mem = w.mem := hm
  refine ⟨_, hexec, hbegin.recovering, hbegin.step, hp.trans hplots, hr.trans hrms, hbegin.ready.trans hready, fun e he => ?_, fun hlog => ?_⟩
  · rw [hlast, hmem] at he
    exact of_decide_eq_true (List.mem_filter.1 he).2
  · rw [hlast, hmem, State.recoveryNoted_mem _ _ (by rw [State.advance_cfg]; exact hlog)]
    rfl

/-- Settles O52, command by command. -/
theorem resetsAndStartUpComplete : Obligations.ResetsAndStartUpComplete := by
  refine ⟨fun x s hs hcore => exec_gkWatchdogExpiry_of x hs hcore,
    fun a b s hlow => ⟨exec_porstRelease_good a b hlow, fun hbad => ⟨_, exec_porstRelease_bad a b hlow hbad, rfl⟩⟩,
    fun a b s => ⟨exec_railFault_bad a b s, exec_railFault_good a b⟩,
    fun x s => ⟨fun hs => ⟨_, congrArg Host.Outcome.next (if_pos hs), rfl⟩, fun hs =>
      ⟨_, congrArg Host.Outcome.next (if_neg (by rw [hs]; decide)), State.warm_perst (s.advance x)⟩⟩,
    fun x s hs hperst hstep hready hfw => exec_perstRelease_of x hs hperst hstep hready hfw,
    fun r b x s k hs hk hpos => ⟨exec_startStepDone_passed r b x hs hk hpos, fun h10 hperst hok => ?_, fun h3 hlast hbad => ?_⟩,
    fun c b x s u hs hu hfw hcore hperst howed => exec_deviceRecovery_of c b x hs hu hfw hcore hperst howed⟩
  · exact exec_startStepDone_ready r b x hs (hk.trans h10) hperst hok
  · exact exec_startStepDone_recovery r b x hs (hk.trans h3) hlast hbad

end Sys2Proof.Machine
end

section
/-!
PROOF. The mailbox and the console (20 R477, R481, R484): O43.
-/

namespace Sys2Proof.Machine

open Sys2Proof

/-! ### The mailbox (R484) -/

theorem State.mbRun_long (s : State) {op len : Nat} (hop : 1 ≤ op ∧ op ≤ 5) (h : 192 < len) : (s.mbRun op len).gk.mbCode = 2 := by
  rw [State.mbRun, if_neg (by omega), if_pos h]
  rfl

section
variable {s : State} {len : Nat} (h : len ≤ 192)
include h

theorem State.mbRun_info : (s.mbRun 1 len).gk.mbCode = 0 := by
  rw [State.mbRun, if_neg (by decide), if_neg (Nat.not_lt.2 h), if_pos rfl]
  rfl

/-- READ_NOTE gives the oldest notice with LOST, and with none code 1. -/
theorem State.mbRun_note : (s.gk.notices = [] → (s.mbRun 4 len).gk.mbCode = 1) ∧
    ∀ n r, s.gk.notices = n :: r → (s.mbRun 4 len).gk.notices = r ∧ (s.mbRun 4 len).gk.mbCode = 0 ∧ (s.mbRun 4 len).gk.mbLen = 4 ∧
      (s.mbRun 4 len).gk.mbLost = s.gk.lost := by
  rw [State.mbRun, if_neg (by decide), if_neg (Nat.not_lt.2 h), if_neg (by decide), if_pos rfl]
  refine ⟨fun hnone => ?_, fun n r hsome => ?_⟩
  · rw [hnone]
    rfl
  · rw [hsome]
    exact ⟨rfl, rfl, rfl, rfl⟩

/-- The lists: in range with code 0 and the response's length, out of range with code 2. -/
theorem State.mbRun_list {op : Nat} (hop : op = 2 ∨ op = 3 ∨ op = 5) {r : Nat × Nat}
    (hr : Config.mbRequest op (s.mbBytes len) = some r) :
    (∀ d, s.mbList op r.1 r.2 = some d → (s.mbRun op len).gk.mbCode = 0 ∧ (s.mbRun op len).gk.mbLen = d.length) ∧
      (s.mbList op r.1 r.2 = none → (s.mbRun op len).gk.mbCode = 2) := by
  rw [State.mbRun, if_neg (by omega), if_neg (Nat.not_lt.2 h), if_neg (by omega), if_neg (by omega), hr]
  refine ⟨fun d hd => ?_, fun hnone => ?_⟩
  · dsimp only
    rw [hd]
    exact ⟨rfl, rfl⟩
  · dsimp only
    rw [hnone]
    rfl

end

/-- What a mailbox command leaves: dropped while one runs, waiting while Groundskeeper does not run, else ended. -/
def State.mbLeft (s : State) (v : View) (op len : Nat) (t : State) : Prop :=
  (s.gk.mb.isSome = true → t.gk = s.gk ∧ t.event v pgGkp 1 = true) ∧
  (s.gk.mb = none → s.gkRuns = false → t.gk = { s.gk with mb := some (op, len) }) ∧
  (s.gk.mb = none → s.gkRuns = true → t = s.mbRun op len)

theorem State.live_mbCommand {s : State} {v : View} (x op len : Nat) (h : s.opens v (pageNo pgGkp) pgGkp = true) :
    ∃ t, (s.live fun s => s.mbCommand v op len x) = t ∧ (s.advance x).mbLeft v op len t := by
  have hopens : (s.advance x).opens v (pageNo pgGkp) pgGkp = true := by
    have ht := State.opens_takes h
    rw [State.opens, ht] at h
    rw [State.opens, State.advance_takes x ht, State.advance_act]
    exact h
  refine ⟨_, (State.live_takes (State.opens_takes h) _).trans (State.onPage_of hopens _ _), fun hmb => ?_, fun hmb hruns => ?_, fun hmb hruns => ?_⟩
  · rw [if_pos hmb]
    exact ⟨rfl, State.event_dropped_self _ v pgGkp⟩
  · rw [if_neg (by rw [hmb]; decide), if_neg (by rw [hruns]; decide)]
  · rw [if_neg (by rw [hmb]; decide), if_pos hruns]

/-! ### The console (R481) -/

theorem State.advance_enabledMask (s : State) (x : Nat) : (s.advance x).enabledMask = s.enabledMask := by
  rw [State.enabledMask, State.advance_act]
  rfl

section
variable {s : State} (x : Nat) (hs : s.stopped = false)
include hs

theorem exec_consoleStatus_of (w : Fin 6) : ∃ t, exec (.consoleStatus w) s = .next t ∧
    (s.gkRuns = true → Sent.answer 4 0 (w.val :: s.consoleWords w.val) ∈ t.hub.out) ∧ (s.gkRuns = false → t = s) := by
  refine ⟨_, congrArg Host.Outcome.next (State.live_of s _ hs), fun hruns => ?_, fun hruns => ?_⟩
  · rw [if_pos hruns]
    exact State.emitted _ _ rfl
  · exact if_neg (by rw [hruns]; decide)

/-- The challenge is issued, whatever the answer. -/
def State.challenged (s : State) : State := (s.emit (Sent.answer 4 1 [Config.challenge s.free])).tick

/-- An answer that verifies opens the console, and its debug session. -/
def State.consoleOpened (s : State) : State :=
  { s with gk := { s.gk with fails := 0, active := s.sdl.ref }, sec := { s.sec with console := true } }.debugBegin 2 s.enabledMask 0

/-- One that does not is counted; the third locks the console for 60 s. -/
def State.consoleFailed (s : State) : State :=
  { s with gk := { s.gk with
    fails := if decide (3 ≤ s.gk.fails + 1) then 0 else s.gk.fails + 1
    lockedTo := if decide (3 ≤ s.gk.fails + 1) then s.sdl.ref + 60 * 10 ^ 9 * nsRef else s.gk.lockedTo } }.bump pgGkp 0x50 none

theorem exec_consoleLogin_locked (ok : Bool) (hruns : s.gkRuns = true) (hclosed : s.sec.console = false)
    (hlock : max s.sdl.ref x < s.gk.lockedTo) : exec (.consoleLogin ok x) s = .next ((s.advance x).emit (Sent.answer 4 2 [])) := by
  refine congrArg Host.Outcome.next ((State.live_of s _ hs).trans ((if_neg ?_).trans (if_pos ?_)))
  · rw [State.advance_gkRuns, hruns]
    exact fun h => h.elim (fun k => nomatch k) fun k => Bool.false_ne_true (hclosed.symm.trans k)
  · rw [State.advance_ref]
    exact hlock

theorem exec_consoleLogin_open (ok : Bool) (hruns : s.gkRuns = true) (hclosed : s.sec.console = false)
    (hfree : s.gk.lockedTo ≤ max s.sdl.ref x) : exec (.consoleLogin ok x) s =
      .next (if ok then (s.advance x).challenged.consoleOpened else (s.advance x).challenged.consoleFailed) := by
  refine congrArg Host.Outcome.next ((State.live_of s _ hs).trans ((if_neg ?_).trans (if_neg ?_)))
  · rw [State.advance_gkRuns, hruns]
    exact fun h => h.elim (fun k => nomatch k) fun k => Bool.false_ne_true (hclosed.symm.trans k)
  · rw [State.advance_ref]
    exact Nat.not_lt.2 hfree

theorem exec_consoleLogin_of (ok : Bool) (hruns : s.gkRuns = true) (hclosed : s.sec.console = false) :
    ∃ t, exec (.consoleLogin ok x) s = .next t ∧
      (max s.sdl.ref x < s.gk.lockedTo → t.sec = s.sec ∧ t.gk = s.gk ∧ Sent.answer 4 2 [] ∈ t.hub.out) ∧
      (s.gk.lockedTo ≤ max s.sdl.ref x → Sent.answer 4 1 [Config.challenge s.free] ∈ t.hub.out ∧
        (ok = true → t.sec.console = true ∧ t.gk.fails = 0 ∧ t.gk.active = max s.sdl.ref x ∧ (2, s.enabledMask, 0) ∈ t.sec.dbgOpen) ∧
        (ok = false → t.sec = s.sec ∧ t.gk.fails = (if 3 ≤ s.gk.fails + 1 then 0 else s.gk.fails + 1) ∧
          t.gk.lockedTo = if 3 ≤ s.gk.fails + 1 then max s.sdl.ref x + 60 * 10 ^ 9 * nsRef else s.gk.lockedTo)) := by
  rcases Nat.lt_or_ge (max s.sdl.ref x) s.gk.lockedTo with hlock | hfree
  · exact ⟨_, exec_consoleLogin_locked x hs ok hruns hclosed hlock, fun _ => ⟨rfl, rfl, State.emitted _ _ rfl⟩,
      fun h => absurd hlock (Nat.not_lt.2 h)⟩
  · refine ⟨_, exec_consoleLogin_open x hs ok hruns hclosed hfree, fun h => absurd h (Nat.not_lt.2 hfree), fun _ => ?_⟩
    have hchallenge : Sent.answer 4 1 [Config.challenge s.free] ∈ (s.advance x).challenged.hub.out :=
      State.emitted (s.advance x) (Sent.answer 4 1 [Config.challenge s.free]) rfl
    have hmask : (s.advance x).challenged.enabledMask = s.enabledMask := State.advance_enabledMask s x
    have href : (s.advance x).challenged.sdl.ref = max s.sdl.ref x := State.advance_ref s x
    have hgk : (s.advance x).challenged.gk = s.gk := rfl
    have hsec : (s.advance x).challenged.sec = s.sec := rfl
    generalize (s.advance x).challenged = u at hchallenge hmask href hgk hsec ⊢
    cases ok with
    | true =>
      rw [if_pos rfl, State.consoleOpened]
      have hheard := State.Heard.debugBegin (State.Heard.refl
        { u with gk := { u.gk with fails := 0, active := u.sdl.ref }, sec := { u.sec with console := true } }) 2 u.enabledMask 0
      obtain ⟨hopen, hkeeper, hconsole⟩ := State.debugBegin_open
        { u with gk := { u.gk with fails := 0, active := u.sdl.ref }, sec := { u.sec with console := true } } 2 u.enabledMask 0
      exact ⟨hheard.1 _ hchallenge, fun _ => ⟨hconsole, congrArg Gk.fails hkeeper, (congrArg Gk.active hkeeper).trans href, hmask ▸ hopen⟩,
        fun h => nomatch h⟩
    | false =>
      rw [if_neg Bool.false_ne_true]
      refine ⟨State.out_bump { u with gk := _ } _ _ _ hchallenge, (fun h => nomatch h), fun _ => ⟨hsec, ?_, ?_⟩⟩
      · rw [← hgk]
        exact if_congr decide_eq_true_iff rfl rfl
      · rw [← hgk, ← href]
        exact if_congr decide_eq_true_iff rfl rfl

/-- A debug command without a login is refused (R481). -/
theorem exec_consoleDebug_closed (c : ConsoleCmd) (hruns : s.gkRuns = true) (hclosed : s.sec.console = false) :
    exec (.consoleDebug c x) s = .next ((s.advance x).emit (Sent.answer 4 3 [])) := by
  refine congrArg Host.Outcome.next ((State.live_of s _ hs).trans ((if_neg ?_).trans (if_pos (c := s.sec.console = false) hclosed)))
  rw [State.advance_gkRuns, hruns]
  decide

/-- The idleness of the console begins afresh. -/
def State.consoleUsed (s : State) : State := { s with gk := { s.gk with active := s.sdl.ref } }

theorem exec_consoleDebug_readReg (off : Nat) (hruns : s.gkRuns = true) (hopen : s.sec.console = true) {a : Nat}
    (ha : a = off % 2 ^ 26 / 4 * 4) (hpage : (viewPage .gk (a / 4096)).isSome = true) :
    exec (.consoleDebug (.readReg off) x) s = .next ((s.advance x).consoleUsed.emit
      (Sent.answer 4 4 [a, ((s.advance x).consoleUsed.readReg .gk a).toNat])) := by
  subst ha
  refine congrArg Host.Outcome.next ((State.live_of s _ hs).trans ((if_neg ?_).trans ((if_neg (c := s.sec.console = false) ?_).trans ?_)))
  · rw [State.advance_gkRuns, hruns]
    decide
  · rw [hopen]
    decide
  · dsimp only
    rw [if_pos (.inr hpage)]
    rfl

theorem exec_consoleDebug_readAlmanac (i : Nat) (hruns : s.gkRuns = true) (hopen : s.sec.console = true) {r : AlmRec}
    (hr : s.pwr.almanac.reverse[i]? = some r) :
    exec (.consoleDebug (.readAlmanac i) x) s = .next ((s.advance x).consoleUsed.emit (Sent.answer 4 6 [leNat (almBytes r)])) := by
  refine congrArg Host.Outcome.next ((State.live_of s _ hs).trans ((if_neg ?_).trans ((if_neg (c := s.sec.console = false) ?_).trans ?_)))
  · rw [State.advance_gkRuns, hruns]
    decide
  · rw [hopen]
    decide
  · have hread : (s.advance x).consoleUsed.pwr.almanac.reverse[i]? = some r := hr
    change (s.advance x).consoleUsed.emit (Sent.answer 4 6 (match (s.advance x).consoleUsed.pwr.almanac.reverse[i]? with
      | some r => [leNat (almBytes r)]
      | none => [])) = _
    rw [hread]

/-- A debug transfer is recorded, and answered, under its address. -/
theorem exec_consoleDebug_transfer (addr len : Nat) (hruns : s.gkRuns = true) (hopen : s.sec.console = true) :
    ∃ (u : State) (w : List Nat), exec (.consoleDebug (.transfer addr len) x) s =
      .next (((u.record pgGkp 34 (addr :: w)).emit (Sent.answer 4 5 (addr :: w))).debugEnd 3 addr) := by
  have hmatch : ∀ l : Option (List (BitVec 8)), ∃ w, (match l with
      | some l => [addr, leNat l]
      | none => [addr]) = addr :: w := by
    intro l
    cases l with
    | none => exact ⟨[], rfl⟩
    | some l => exact ⟨[leNat l], rfl⟩
  obtain ⟨w, hw⟩ := hmatch (((s.advance x).consoleUsed.debugBegin 3 ((s.advance x).consoleUsed.transferMask addr len) addr).debugRead addr len).1
  refine ⟨_, w, congrArg Host.Outcome.next ((State.live_of s _ hs).trans ((if_neg ?_).trans ((if_neg (c := s.sec.console = false) ?_).trans
    (congrArg (fun l => (((State.record _ pgGkp 34 l).emit (Sent.answer 4 5 l)).debugEnd 3 addr)) hw))))⟩
  · rw [State.advance_gkRuns, hruns]
    decide
  · rw [hopen]
    decide

/-! ### The end of a login -/

theorem exec_consoleLogout_of (idle : Bool) (hopen : s.sec.console = true) : ∃ t, exec (.consoleLogout idle x) s = .next t ∧
    (idle = false ∨ s.gk.active + 15 * 60 * 10 ^ 9 * nsRef ≤ max s.sdl.ref x → t.sec.console = false) ∧
    (idle = true → max s.sdl.ref x < s.gk.active + 15 * 60 * 10 ^ 9 * nsRef → t = s.advance x) := by
  refine ⟨_, congrArg Host.Outcome.next (State.live_of s _ hs), fun hout => ?_, fun hidle hsoon => ?_⟩
  · rw [if_neg]
    · rw [State.logout, if_pos (c := (s.advance x).sec.console = true) hopen, State.debugEnd_console]
    · rintro ⟨hidle, hearly⟩
      have hlt : ¬ s.gk.active + 15 * 60 * 10 ^ 9 * nsRef ≤ (s.advance x).sdl.ref := of_decide_eq_false hearly
      rw [State.advance_ref] at hlt
      exact hout.elim (fun k => Bool.false_ne_true (k.symm.trans hidle)) hlt
  · refine if_pos ⟨hidle, decide_eq_false ?_⟩
    rw [State.advance_ref]
    exact Nat.not_le.2 hsoon

end

/-- Settles O43: the mailbox command by command, then the console. -/
theorem mailboxCommandsComplete : Obligations.MailboxCommandsComplete := by
  refine ⟨fun v l x s u P h hu hP => ?_, fun w s hs => exec_consoleStatus_of hs w, fun ok x s hs hruns hclosed =>
    exec_consoleLogin_of x hs ok hruns hclosed, fun off addr i x s hs hruns => ⟨?_, ?_, ?_⟩,
    fun idle x s hs hopen => exec_consoleLogout_of x hs idle hopen⟩
  · subst hu
    have hend : ∀ op, 1 ≤ op ∧ op ≤ 5 → ∀ t, (s.advance x).mbLeft v op l.val t → P op t := by
      intro op hop t ⟨hdrop, hwait, hrun⟩
      subst hP
      refine ⟨hdrop, fun hmb hruns => hwait hmb ((State.advance_gkRuns s x).symm ▸ hruns), fun hmb hruns => ?_⟩
      obtain rfl := hrun hmb ((State.advance_gkRuns s x).symm ▸ hruns)
      obtain ⟨hdone, hevent⟩ := State.mbRun_ends (s.advance x) op l.val
      refine ⟨hdone, hevent, fun hlong => State.mbRun_long _ hop hlong, fun hshort => ⟨fun h1 => ?_, fun h4 => ?_, fun hlist r hr => ?_⟩⟩
      · subst h1
        exact State.mbRun_info hshort
      · subst h4
        exact State.mbRun_note (s := s.advance x) hshort
      · exact State.mbRun_list hshort hlist hr
    have hcmd : ∀ op, 1 ≤ op ∧ op ≤ 5 → P op (s.live fun s => s.mbCommand v op l.val x) := by
      intro op hop
      obtain ⟨t, ht, hleft⟩ := State.live_mbCommand x op l.val h
      rw [ht]
      exact hend op hop t hleft
    exact ⟨⟨_, rfl, hcmd 1 (by decide)⟩, ⟨_, rfl, hcmd 2 (by decide)⟩, ⟨_, rfl, hcmd 3 (by decide)⟩, ⟨_, rfl, hcmd 4 (by decide)⟩,
      ⟨_, rfl, hcmd 5 (by decide)⟩⟩
  · obtain ⟨t, ht⟩ : ∃ t, exec (.consoleDebug (.readReg off) x) s = .next t := ⟨_, rfl⟩
    refine ⟨t, ht, fun hclosed => ?_, fun hopen a u ha hpage hu => ?_⟩
    · obtain rfl := Host.Outcome.next.inj (ht.symm.trans (exec_consoleDebug_closed x hs _ hruns hclosed))
      exact ⟨rfl, rfl, State.emitted _ _ rfl⟩
    · obtain rfl := Host.Outcome.next.inj (ht.symm.trans (exec_consoleDebug_readReg x hs off hruns hopen ha hpage))
      subst hu
      exact ⟨State.emitted _ _ rfl, rfl⟩
  · obtain ⟨t, ht⟩ : ∃ t, exec (.consoleDebug (.readAlmanac i) x) s = .next t := ⟨_, rfl⟩
    refine ⟨t, ht, fun hopen r hr => ?_⟩
    obtain rfl := Host.Outcome.next.inj (ht.symm.trans (exec_consoleDebug_readAlmanac x hs i hruns hopen hr))
    exact State.emitted _ _ rfl
  · obtain ⟨t, ht⟩ : ∃ t, exec (.consoleDebug (.transfer addr i) x) s = .next t := ⟨_, rfl⟩
    refine ⟨t, ht, fun hopen => ?_⟩
    obtain ⟨u, w, hexec⟩ := exec_consoleDebug_transfer x hs addr i hruns hopen
    obtain rfl := Host.Outcome.next.inj (ht.symm.trans hexec)
    rw [(State.debugEnd_eq _ _ _).1]
    exact ⟨w, State.out_emit _ _ (State.recorded u pgGkp 34 (addr :: w)), State.emitted _ _ rfl⟩

end Sys2Proof.Machine
end

section
/-!
PROOF. Monitoring, platform events and firmware update (20 R477 to R480): O44.
-/

namespace Sys2Proof.Machine

open Sys2Proof

/-! ### A PLDM request (R476) -/

/-- A binding carries requests to a Groundskeeper that runs. -/
structure State.Manages (s : State) (b : Nat) : Prop where
  runs : s.stopped = false
  keeper : s.gkRuns = true
  eid : s.hasEid b = true

section
variable {s : State} {b : Nat}

theorem State.pldm_of (hruns : s.gkRuns = true) (heid : s.hasEid b = true) (f : State → State) : s.pldm b f = f s :=
  (if_neg (by rw [hruns]; decide)).trans (if_neg (by rw [heid]; decide))

theorem State.live_pldm (h : s.Manages b) (f : State → State) : (s.live fun s => s.pldm b f) = f s :=
  (State.live_of s _ h.runs).trans (State.pldm_of h.keeper h.eid f)

theorem State.inUpdate_of {u : Update} (hu : s.gk.update = some u) {req : Nat} (hreq : u.requester = req) (cmd : Nat)
    (f : Update → State → State) : s.inUpdate cmd b req f = f u s := by
  unfold State.inUpdate
  rw [hu]
  exact if_pos hreq

/-- A request of the agent whose update is in progress. -/
theorem State.live_inUpdate (h : s.Manages b) {u : Update} (hu : s.gk.update = some u) {req : Nat} (hreq : u.requester = req) (cmd : Nat)
    (f : Update → State → State) : (s.live fun s => s.pldm b fun s => s.inUpdate cmd b req f) = f u s :=
  (State.live_pldm h _).trans (State.inUpdate_of hu hreq cmd f)

theorem State.modUpdate_gk {u : Update} (hu : s.gk.update = some u) (f : Update → Update) :
    (s.modUpdate f).gk = { s.gk with update := some (f u) } := by
  unfold State.modUpdate
  rw [hu]
  rfl

theorem State.dropUpdate_gk {u : Update} (hu : s.gk.update = some u) :
    s.dropUpdate.gk = { s.gk with update := none, invalid := SMap.put flagUnlisted s.gk.invalid (1 - s.gk.activeSet) true } := by
  unfold State.dropUpdate
  rw [hu]

end

/-! ### Monitoring and platform events (R477, R478) -/

section
variable {s : State} {b : Fin 2} (req : Fin 256)

theorem exec_getSensorReading_of (h : s.Manages b.val) (i : Fin 256) : ∃ t, exec (.getSensorReading b req i) s = .next t ∧
    (i.val ∈ sensorIds →
      (∀ r, s.sensor i.val = some r →
        Sent.answer 1 (if i.val = 96 then 0x21 else 0x11) [b.val, req.val, 0, i.val, 0, unsignedOf 32 r] ∈ t.hub.out) ∧
      (s.sensor i.val = none → Sent.answer 1 0x11 [b.val, req.val, 0, i.val, 2] ∈ t.hub.out)) ∧
    (i.val ∉ sensorIds → Sent.answer 1 0x11 [b.val, req.val, 0x80, i.val] ∈ t.hub.out) := by
  refine ⟨_, congrArg Host.Outcome.next (State.live_pldm h _), fun hlisted => ?_, fun hunlisted => ?_⟩
  · rw [if_pos hlisted]
    refine ⟨fun r hr => ?_, fun hnone => ?_⟩
    · rw [hr]
      exact State.emitted _ _ rfl
    · rw [hnone]
      exact State.emitted _ _ rfl
  · rw [if_neg hunlisted]
    exact State.emitted _ _ rfl

theorem exec_setEventReceiver_of (h : s.Manages b.val) (e : Option Nat) : ∃ t, exec (.setEventReceiver b req e) s = .next t ∧
    t.gk = { s.gk with receiver := e } ∧ Sent.answer 1 0x04 [b.val, req.val, 0] ∈ t.hub.out :=
  ⟨_, congrArg Host.Outcome.next (State.live_pldm h _), rfl, State.emitted _ _ rfl⟩

/-- A message unacknowledged for 1 s is sent again, three times at most, then given up. -/
theorem exec_platformEventResend_of (q : Fin 256) (x : Nat) {r : Nat} {m : EvtMsg} (hs : s.stopped = false) (hruns : s.gkRuns = true)
    (hr : s.gk.receiver = some r) (hm : (s.gk.unacked.find? fun m => decide (m.seq = q.val)) = some m)
    (hdue : m.sentAt + 10 ^ 9 * nsRef ≤ max s.sdl.ref x) : ∃ t, exec (.platformEventResend q x) s = .next t ∧
      (3 ≤ m.resends → t.gk.unacked = s.gk.unacked.filter fun m => decide (m.seq ≠ q.val)) ∧
      (m.resends < 3 → Sent.answer 1 0x0A (r :: m.seq :: m.what :: m.words) ∈ t.hub.out ∧
        t.gk.unacked = s.gk.unacked.map fun m =>
          if m.seq = q.val then { m with resends := m.resends + 1, sentAt := max s.sdl.ref x } else m) := by
  have hgk : (s.advance x).gk = s.gk := rfl
  have hready : ¬ ((s.advance x).gkRuns = false ∨ (s.advance x).reached (m.sentAt + 10 ^ 9 * nsRef) = false) := by
    rw [State.advance_gkRuns, hruns, State.reached, State.advance_ref, decide_eq_true hdue]
    decide
  refine ⟨_, congrArg Host.Outcome.next (State.live_of s _ hs), ?_⟩
  dsimp only
  rw [hgk, hr, hm]
  dsimp only
  rw [if_neg hready]
  refine ⟨fun hmany => ?_, fun hfew => ?_⟩
  · rw [if_pos hmany]
  · rw [if_neg (Nat.not_le.2 hfew), State.advance_ref]
    exact ⟨State.emitted _ _ rfl, rfl⟩

/-! ### Firmware update (R479) -/

theorem exec_requestUpdate_of (h : s.Manages b.val) : ∃ t, exec (.requestUpdate b req) s = .next t ∧
    (s.gk.update = none → t.gk = { s.gk with update := some { requester := req.val } } ∧
      Sent.answer 1 0x10 [b.val, req.val, 0] ∈ t.hub.out) ∧
    (s.gk.update.isSome = true → t.gk = s.gk ∧ Sent.answer 1 0x10 [b.val, req.val, 0x81] ∈ t.hub.out) := by
  refine ⟨_, congrArg Host.Outcome.next (State.live_pldm h _), fun hnone => ?_, fun hsome => ?_⟩
  · rw [if_neg (by rw [hnone]; decide)]
    exact ⟨rfl, State.emitted _ _ rfl⟩
  · rw [if_pos hsome]
    exact ⟨rfl, State.emitted _ _ rfl⟩

variable {u : Update} (h : s.Manages b.val) (hu : s.gk.update = some u) (hreq : u.requester = req.val)
include h hu hreq

theorem exec_passComponentTable_of (ty : List Nat) : ∃ t, exec (.passComponentTable b req ty) s = .next t ∧
    t.gk = { s.gk with update := some { u with table := ty.filter fun k => decide (1 ≤ k ∧ k ≤ 4) } } :=
  ⟨_, congrArg Host.Outcome.next (State.live_inUpdate h hu hreq _ _), State.modUpdate_gk hu _⟩

theorem exec_updateComponent_of (k : Fin 16) (svn : Nat) : ∃ t, exec (.updateComponent b req k svn) s = .next t ∧
    (u.current = none → k.val ∈ u.table →
      t.gk.update = some { u with current := some k.val, comps := (u.comps.filter fun c => decide (c.type ≠ k.val)) ++ [{ type := k.val, svn := svn }] } ∧
      Sent.answer 1 0x15 [k.val, 0] ∈ t.hub.out) := by
  refine ⟨_, congrArg Host.Outcome.next (State.live_inUpdate h hu hreq _ _), fun hidle hknown => ?_⟩
  rw [if_neg (by rw [hidle]; decide), if_neg (fun k => k hknown)]
  exact ⟨congrArg Gk.update (State.modUpdate_gk hu _), State.emitted _ _ rfl⟩

theorem exec_cancelUpdate_of : ∃ t, exec (.cancelUpdate b req) s = .next t ∧
    t.gk = { s.gk with update := none, invalid := SMap.put flagUnlisted s.gk.invalid (1 - s.gk.activeSet) true } :=
  ⟨_, congrArg Host.Outcome.next (State.live_inUpdate h hu hreq _ _), State.dropUpdate_gk hu⟩

end

/-! ### Activation (R480) -/

theorem State.notice_gk (s : State) (code : Nat) : (s.notice code).gk = { s.gk with
    notices := (if 16 ≤ s.gk.notices.length then s.gk.notices.drop 1 else s.gk.notices) ++ [code]
    lost := s.gk.lost || decide (16 ≤ s.gk.notices.length) } := by
  have hgk : (s.notice code).gk = { s.gk with
    notices := (if decide (16 ≤ s.gk.notices.length) then s.gk.notices.drop 1 else s.gk.notices) ++ [code]
    lost := s.gk.lost || decide (16 ≤ s.gk.notices.length) } := rfl
  rw [hgk]
  simp only [decide_eq_true_eq]

/-- The written set is named in the layout record, the update has ended, and notice 3 is the newest. -/
theorem State.activate_gk (s : State) (almOk : Bool) : (s.activate almOk).gk.update = none ∧ (s.activate almOk).gk.layoutSet = s.inactive ∧
    (s.activate almOk).gk.activeSet = s.gk.activeSet ∧ ∃ l, (s.activate almOk).gk.notices = l ++ [3] := by
  obtain ⟨w, hw⟩ : ∃ w : State, ({ s with gk := { s.gk with
      layoutSet := s.inactive, invalid := SMap.put flagUnlisted s.gk.invalid s.inactive false, update := none } } : State) = w := ⟨_, rfl⟩
  have heq : s.activate almOk = ((w.almanac { start := 0, step := 0x15, outcome := 1 } almOk).bump pgGkp 0x58 none).notice 3 := by
    rw [← hw]
    rfl
  have hgk : ∀ r, ((w.almanac r almOk).bump pgGkp 0x58 none).gk = w.gk := fun r => State.almanac_gk w r almOk
  rw [heq, State.notice_gk, hgk, ← hw]
  exact ⟨rfl, rfl, rfl, _, rfl⟩

/-- A self-contained activation runs the named set, and keeps the newest notice. -/
theorem State.selfActivate_gk {s : State} {l : List Nat} {n : Nat} (hl : s.gk.notices = l ++ [n]) :
    s.selfActivate.gk.update = s.gk.update ∧ s.selfActivate.gk.layoutSet = s.gk.layoutSet ∧
      s.selfActivate.gk.activeSet = s.gk.layoutSet ∧ n ∈ s.selfActivate.gk.notices := by
  obtain ⟨w, hw⟩ : ∃ w : State, ({ s with
    gk := { s.gk with
      activeSet := s.gk.layoutSet
      inUse := SMap.put zeroUnlisted s.gk.inUse 1
        (2 * SMap.get zeroUnlisted s.gk.gens (8 * s.gk.layoutSet + 1) + s.gk.layoutSet) }
    sec := { s.sec with svn := SMap.put zeroUnlisted s.sec.svn 1 (SMap.get zeroUnlisted s.gk.setSvn (8 * s.gk.layoutSet + 1)) } } : State) = w :=
    ⟨_, rfl⟩
  have heq : s.selfActivate = w.gkRestart := by rw [← hw]; rfl
  obtain ⟨hupdate, hlayout, hactive, hnotices⟩ := State.gkRestart_gk w
  rw [heq, hupdate, hlayout, hactive, hnotices, ← hw]
  refine ⟨rfl, rfl, rfl, List.mem_append_left _ ?_⟩
  dsimp only
  rw [hl]
  split
  · next hfull =>
    rw [List.length_append, List.length_singleton] at hfull
    rw [List.drop_append_of_le_length (by omega)]
    exact List.mem_append_right _ (List.mem_singleton_self n)
  · exact List.mem_append_right _ (List.mem_singleton_self n)

theorem exec_activateFirmware_of {s : State} {b : Fin 2} (req : Fin 256) {u : Update} (self ok : Bool) (x : Nat) (h : s.Manages b.val)
    (hu : s.gk.update = some u) (hreq : u.requester = req.val) : ∃ t, exec (.activateFirmware b req self ok x) s = .next t ∧
      (u.current = none → u.comps ≠ [] → u.comps.all (·.verified) = true → (self = true → u.comps.all (fun c => decide (c.type = 1)) = true) →
        t.gk.update = none ∧ t.gk.layoutSet = s.inactive ∧ 3 ∈ t.gk.notices ∧ t.gk.activeSet = if self then s.inactive else s.gk.activeSet) := by
  refine ⟨_, congrArg Host.Outcome.next ((State.live_of s _ h.runs).trans ((State.pldm_of ((State.advance_gkRuns s x).trans h.keeper)
    h.eid _).trans (State.inUpdate_of (s := s.advance x) hu hreq _ _))), fun hidle hcomps hverified hself => ?_⟩
  have hready : ¬ (u.current.isSome = true ∨ u.comps = [] ∨ (u.comps.all (·.verified)) = false) := by
    rw [hidle, hverified]
    simpa using hcomps
  have hallowed : ¬ (self = true ∧ (u.comps.any fun c => decide (c.type ≠ 1)) = true) := by
    rintro ⟨hself', hother⟩
    obtain ⟨c, hc, hne⟩ := List.any_eq_true.1 hother
    exact of_decide_eq_true hne (of_decide_eq_true (List.all_eq_true.1 (hself hself') c hc))
  rw [if_neg hready, if_neg hallowed]
  obtain ⟨hupdate, hlayout, hactive, l, hl⟩ := State.activate_gk (s.advance x) ok
  cases self with
  | true =>
    obtain ⟨hupdate', hlayout', hactive', hnotice⟩ := State.selfActivate_gk (s := ((s.advance x).activate ok).pldmAnswer 0x1A b.val req.val 0 []) hl
    exact ⟨hupdate'.trans hupdate, hlayout'.trans hlayout, hnotice, hactive'.trans hlayout⟩
  | false =>
    refine ⟨hupdate, hlayout, ?_, hactive⟩
    exact hl ▸ List.mem_append_right l (List.mem_singleton_self 3)

/-! ### The pull of a component (R479) -/

section
variable {s : State} {u : Update} {k : Nat} (hs : s.stopped = false) (hruns : s.gkRuns = true) (hu : s.gk.update = some u)
  (hk : u.current = some k)
include hs hruns hu hk

theorem exec_firmwareData_of (d : List Byte) : ∃ t, exec (.firmwareData d) s = .next t ∧
    ∀ n, n = ((u.comps.find? fun c => decide (c.type = k)).map (·.bytes)).getD 0 + d.length →
      Sent.answer 1 0x15 [k, n] ∈ t.hub.out ∧
      t.gk.update = some { u with comps := u.comps.map fun c => if c.type = k then { c with bytes := n } else c } := by
  refine ⟨_, congrArg Host.Outcome.next (State.live_of s _ hs), fun n hn => ?_⟩
  dsimp only
  rw [hu]
  dsimp only
  rw [hk]
  dsimp only
  rw [if_pos hruns, ← hn, ← hk]
  exact ⟨State.emitted _ _ rfl, congrArg Gk.update
    (State.modUpdate_gk hu fun v => { v with comps := v.comps.map fun c => if c.type = k then { c with bytes := n } else c })⟩

/-- A component whose checks pass is reported verified and applied; one that fails ends the update. -/
theorem exec_verifyComplete_of (c : ObjCheck) : ∃ t, exec (.verifyComplete c) s = .next t ∧
    (s.checked k c = true →
      t.gk.update = some { u with current := none, comps := u.comps.map fun x => if x.type = k then { x with verified := true, svn := c.svn } else x } ∧
      Sent.answer 1 0x17 [k, 0] ∈ t.hub.out ∧ Sent.answer 1 0x18 [k, 0] ∈ t.hub.out) ∧
    (s.checked k c = false → t.gk.update = none ∧ Sent.answer 1 0x17 [k, 1] ∈ t.hub.out) := by
  refine ⟨_, congrArg Host.Outcome.next (State.live_of s _ hs), ?_⟩
  dsimp only
  rw [hu]
  dsimp only
  rw [hk]
  dsimp only
  rw [if_neg (by rw [hruns]; decide)]
  refine ⟨fun hok => ?_, fun hbad => ?_⟩
  · rw [if_pos hok]
    exact ⟨congrArg Gk.update (State.modUpdate_gk hu _), State.out_emit _ _ (State.emitted _ _ rfl), State.emitted _ _ rfl⟩
  · rw [if_neg (by rw [hbad]; decide)]
    exact ⟨congrArg Gk.update (State.dropUpdate_gk hu), State.emitted _ _ rfl⟩

end

/-- Settles O44, command by command. -/
theorem updatesAndPlatformEventsComplete : Obligations.UpdatesAndPlatformEventsComplete := by
  refine ⟨fun b req i s hs hruns heid => exec_getSensorReading_of req ⟨hs, hruns, heid⟩ i,
    fun b req e s hs hruns heid => exec_setEventReceiver_of req ⟨hs, hruns, heid⟩ e,
    fun q x r m s hs hruns hr hm hdue => exec_platformEventResend_of q x hs hruns hr hm hdue,
    fun q s hs hruns => congrArg Host.Outcome.next ((State.live_of s _ hs).trans (if_pos hruns)),
    fun b req s hs hruns heid => exec_requestUpdate_of req ⟨hs, hruns, heid⟩,
    fun b req ty k svn x self ok s u hs hruns heid hu hreq => ?_,
    fun d c k s u hs hruns hu hk => ⟨exec_firmwareData_of hs hruns hu hk d, exec_verifyComplete_of hs hruns hu hk c⟩⟩
  have h : s.Manages b.val := ⟨hs, hruns, heid⟩
  exact ⟨exec_passComponentTable_of req h hu hreq ty, exec_updateComponent_of req h hu hreq k svn,
    exec_activateFirmware_of req self ok x h hu hreq, exec_cancelUpdate_of req h hu hreq⟩

end Sys2Proof.Machine
end

section
/-!
PROOF. The end of a step, evaluation, weight-set hashes, capture and lockstep (17 R429; 13 R315, R330 to R336): O51.
-/

namespace Sys2Proof.Machine

open Sys2Proof

theorem State.advance_step? (s : State) (x c n : Nat) : (s.advance x).step? c n = s.step? c n :=
  State.step?_ctx (State.advance_ctx s x) c n

theorem State.advance_locked (s : State) (x c : Nat) : (s.advance x).locked c = s.locked c := by
  unfold State.locked State.ctxBit
  rw [State.advance_flag]

theorem State.advance_flyingStep (s : State) (x c : Nat) : (s.advance x).flyingStep c = s.flyingStep c := by
  rw [State.flyingStep, State.advance_ctx]
  rfl

theorem State.noteApply_ctx (t s : State) : (t.noteApply s).ctx = t.ctx := by
  funext c
  rw [State.ctx, State.noteApply_rms]
  rfl

/-! ### Operations that leave which steps there are -/

section
variable {α : Type} {p : StepSt → α} {r s : State}

theorem State.SameSteps.captureEnd (h : r.SameSteps p s) : r.SameSteps p s.captureEnd := by
  have hleft : r.SameSteps p { s with rms := { s.rms with capLeft := 0 } } := h.ctxEq rfl
  exact .debugEnd (hleft.left (State.raise_keeps (Keeps.refl _))) _ _

theorem State.SameSteps.advanceGen (h : r.SameSteps p s) (c : Nat) (discard : Bool) : r.SameSteps p (s.advanceGen c discard) := by
  have hbump : r.SameSteps p (s.bump pgRms 0x90 (some (s.partOf c))) := h.left (State.bump_keeps (Keeps.refl _))
  exact .ite (hbump.left (State.bump_keeps (Keeps.refl _))) (.mod hbump _ _ fun _ => rfl)

end

theorem State.SameSteps.checkReplay {r s : State} (h : r.SameSteps StepSt.n s) (c n tag : Nat) :
    r.SameSteps StepSt.n (s.checkReplay c n tag) := by
  unfold State.checkReplay
  split
  · exact h
  · split
    · exact h
    · have hmod : r.SameSteps StepSt.n (s.modStep c n fun z => { z with flags := Nat.lor z.flags 128 }) := .modStep h _ _ _ fun _ _ => rfl
      exact .ite h (hmod.left (State.raise_keeps (Keeps.refl _)))

theorem State.SameSteps.captureStep {r s : State} (h : r.SameSteps StepSt.n s) (c n : Nat) (l : List (Nat × List (BitVec 8)))
    (valid : List Bool) : r.SameSteps StepSt.n (s.captureStep c n l valid) := by
  unfold State.captureStep
  split
  · exact h
  · next y0 hy =>
    refine .ite h (.ite h.captureEnd ?_)
    have hwritten : ∀ (u : State) (y : StepSt), y.n = n → r.SameSteps StepSt.n u → r.SameSteps StepSt.n (u.modStep c n fun _ => y) :=
      fun u y hn hu => .modStep hu _ _ _ fun z hz => hn.trans hz.symm
    have hn : y0.n = n := State.step?_n s c n y0 hy
    have hkept : ∀ u v : State, v.ctx = u.ctx → r.SameSteps StepSt.n u → r.SameSteps StepSt.n v := fun u v e hu => hu.ctxEq e
    refine .ite (.captureEnd ?_) ?_
    · exact hkept _ _ rfl (hwritten _ { y0 with flags := Nat.lor y0.flags 32 } hn (h.dramWrite none _ _))
    · exact hkept _ _ rfl (hwritten _ { y0 with flags := Nat.lor y0.flags 32 } hn (h.dramWrite none _ _))

/-! ### The end of a step (17 R429) -/

/-- A step's number, and whether it has ended. -/
def StepSt.done (y : StepSt) : Nat × Bool := (y.n, y.ended)

/-- A step that is there has ended once its end is reached. -/
theorem State.stepEnded_ended {s : State} {c n : Nat} (h : (s.step? c n).isSome = true) :
    ∃ w, (s.stepEnded c n).step? c n = some w ∧ w.ended = true := by
  obtain ⟨y, hy⟩ := Option.isSome_iff_exists.1 h
  have hmod : (s.modStep c n fun y => { y with ended := true }).step? c n = some { y with ended := true } := by
    rw [State.step?_modStep _ _ _ _ (by intro _; rfl), hy]
    rfl
  have hrest : (s.modStep c n fun y => { y with ended := true }).SameSteps StepSt.done (s.stepEnded c n) :=
    .retryDeferred (.restagePace (.mod (.debugEnd (.refl _ _) _ _) _ _ fun _ => rfl))
  have hstep := hrest.step Prod.fst (fun _ => rfl) c n
  rw [hmod] at hstep
  cases hw : (s.stepEnded c n).step? c n with
  | none => rw [hw] at hstep; cases hstep
  | some w =>
    rw [hw] at hstep
    exact ⟨w, rfl, congrArg Prod.snd (Option.some.inj hstep)⟩

/-- A step whose tasks have ended, recorded: its grants completed, its tag checked, its capture taken, its record harvested. -/
def State.stepRecorded (s : State) (k n : Nat) (y : StepSt) (discard : Bool) (inputs : List (Nat × List (BitVec 8)))
    (allocs : List AllocDone) (valid : List Bool) : State :=
  let s1 := (List.range y.grants.length).foldl (fun t j => t.completeGrant k n j 0 allocs) s
  let tag := s1.tagOf k y (y.sources inputs)
  let s2 := (s1.checkReplay k n tag).modStep k n fun z => { z with tag := tag, flags := Nat.lor z.flags (bit (s.tagged k)) }
  let s3 := if s.tagged k then s2.bump pgRms 0xB8 (some (s.partOf k)) else s2
  let s4 := s3.captureStep k n (y.sources inputs) valid
  let s5 := if fieldOf y.flags 2 1 = 1 then s4.bump pgRms 0xD0 (some (s.partOf k)) else s4
  match s5.step? k n with
  | none => s5
  | some z => s5.pushHarvest k (s5.stepRecord k z (if discard then 6 else 0))

theorem State.SameSteps.stepRecorded {r s : State} (h : r.SameSteps StepSt.n s) (k n : Nat) (y : StepSt) (discard : Bool)
    (inputs : List (Nat × List (BitVec 8))) (allocs : List AllocDone) (valid : List Bool) :
    r.SameSteps StepSt.n (s.stepRecorded k n y discard inputs allocs valid) := by
  unfold State.stepRecorded
  extract_lets s1 tag s2 s3 s4 s5
  have h1 : r.SameSteps StepSt.n s1 := .foldl _ (fun t j ht => .completeGrant (fun _ _ _ _ _ => rfl) ht _ _ _ _ _) _ _ h
  have h2 : r.SameSteps StepSt.n s2 := .modStep (h1.checkReplay k n tag) _ _ _ fun _ _ => rfl
  have h3 : r.SameSteps StepSt.n s3 := .ite (h2.left (State.bump_keeps (Keeps.refl _))) h2
  have h4 : r.SameSteps StepSt.n s4 := h3.captureStep k n _ _
  have h5 : r.SameSteps StepSt.n s5 := .ite (h4.left (State.bump_keeps (Keeps.refl _))) h4
  split
  · exact h5
  · exact h5.pushHarvest _ _

/-- Whether a training step discards its gradient: a saturation or a non-finite value was seen. -/
def State.discards (s : State) (k : Nat) (y : StepSt) (allocs : List AllocDone) : Bool :=
  s.trains k y && decide (Nat.land ((allocs.map (·.numflags)).foldl Nat.lor y.numflags) (flSat + flNonfin) ≠ 0)

/-- The generation that a training step advances. -/
def State.stepCounted (s t : State) (k : Nat) (y : StepSt) (discard : Bool) : State :=
  if s.trains k y then t.advanceGen k discard else if s.isGh k then t.bump pgRms 0x90 (some (s.partOf k)) else t

/-- STEP_COMPLETE of a step in flight of a live context, all of whose tasks have ended. -/
theorem exec_stepComplete_done (c : Ctx) (n : Nat) (l : List (Nat × List Byte)) (a : List AllocDone) (b : List Bool) (x : Nat) {s u : State}
    {y : StepSt} (hs : s.stopped = false) (hu : u = s.advance x) (hy : s.step? c.val n = some y) (hfly : y.flying = true)
    (hlive : (s.ctx c.val).live = true) (hdone : (y.tasks.all fun z => z.done) = true) : exec (.stepComplete c n l a b x) s =
      .next (((u.stepCounted (u.stepRecorded c.val n y (u.discards c.val y a) l a b) c.val y (u.discards c.val y a)).stepEnded c.val n).noteApply s) := by
  subst hu
  have hlive' : ((s.advance x).ctx c.val).live = true := by rw [State.advance_ctx, hlive]
  have hy' : (s.advance x).step? c.val n = some y := by rw [State.advance_step?, hy]
  refine congrArg Host.Outcome.next ((State.liveApply_of s _ hs).trans (congrArg (State.noteApply · s) ?_))
  dsimp only
  rw [hy']
  exact if_pos ⟨hfly, hlive', hdone⟩

theorem exec_stepComplete_of (c : Ctx) (n : Nat) (l : List (Nat × List Byte)) (a : List AllocDone) (b : List Bool) (x : Nat) {s : State}
    {y : StepSt} (hs : s.stopped = false) (hy : s.step? c.val n = some y) (hfly : y.flying = true) (hlive : (s.ctx c.val).live = true)
    (hdone : (y.tasks.all fun z => z.done) = true) :
    ∃ t, exec (.stepComplete c n l a b x) s = .next t ∧ ∃ w, t.step? c.val n = some w ∧ w.ended = true := by
  refine ⟨_, exec_stepComplete_done c n l a b x hs rfl hy hfly hlive hdone, ?_⟩
  have hrecorded := (State.SameSteps.refl StepSt.n (s.advance x)).stepRecorded c.val n y ((s.advance x).discards c.val y a) l a b
  have hcounted : (s.advance x).SameSteps StepSt.n ((s.advance x).stepCounted
      ((s.advance x).stepRecorded c.val n y ((s.advance x).discards c.val y a) l a b) c.val y ((s.advance x).discards c.val y a)) :=
    .ite (hrecorded.advanceGen _ _) (.ite (hrecorded.left (State.bump_keeps (Keeps.refl _))) hrecorded)
  obtain ⟨w, hw, hended⟩ := State.stepEnded_ended (n := n) (c := c.val)
    ((hcounted.isSome c.val n).trans (by rw [State.advance_step?, hy]; rfl))
  refine ⟨w, ?_, hended⟩
  rw [State.step?_ctx (State.noteApply_ctx _ s)]
  exact hw

/-! ### Evaluation (R315) -/

/-- Whether an evaluation passes: enough scored, nothing saturated or not finite, the candidate within the margin. -/
def State.evalPasses (s : State) (serve cand scored flags : Nat) : Bool :=
  decide (s.cfg pgRms 0x600 10 12 ≤ scored ∧ Nat.land flags (flSat + flNonfin) = 0) &&
    numLe (fpNum cand) (fpNum (fpMul serve (Machine.marginWord (s.cfg pgRms 0x600 22 10))).1)

theorem exec_evalRecord_of (c : Ctx) (n : Nat) (a b : Word) (k f x : Nat) {s : State} {y : StepSt} (hs : s.stopped = false)
    (hy : s.step? c.val n = some y) (hgh : s.isGh c.val = true) (hfly : y.flying = true)
    (heval : fieldOf (leNat (y.body.take 64)) 0 2 = 1) {q : Nat} (hq : q = fieldOf (leNat (y.body.take 64)) 2 6) :
    ∃ t, exec (.evalRecord c n a b k f x) s = .next t ∧ (t.ctx q).pass = s.evalPasses a.toNat b.toNat k f ∧ (t.ctx q).evalN = k ∧
      (t.ctx q).evalFlags = f ∧ (t.ctx q).evalServe = a ∧ (t.ctx q).evalMetric = b ∧ t.event .pf pgRms 15 = true := by
  subst hq
  have hy' : (s.advance x).step? c.val n = some y := by rw [State.advance_step?, hy]
  have hgh' : (s.advance x).isGh c.val = true := by rw [State.isGh, State.ctxBit, State.advance_flag]; exact hgh
  have hpasses : (s.advance x).evalPasses a.toNat b.toNat k f = s.evalPasses a.toNat b.toNat k f := by
    rw [State.evalPasses, State.advance_cfg]
    rfl
  rw [← hpasses]
  refine ⟨_, congrArg Host.Outcome.next (State.liveApply_of s _ hs), ?_⟩
  generalize s.advance x = u at hy' hgh' ⊢
  dsimp only
  rw [hy']
  dsimp only
  rw [if_pos ⟨hgh', hfly, heval⟩, State.noteApply_ctx, State.noteApply_event]
  have hctx := State.ctx_modCtx_same u (fieldOf (leNat (y.body.take 64)) 2 6) fun z =>
    { z with
      pass := u.evalPasses a.toNat b.toNat k f, evalN := k, evalCand := fieldOf (leNat (y.body.take 64)) 160 16
      evalFlags := f, evalServe := a, evalMetric := b }
  refine ⟨?_, ?_, ?_, ?_, ?_, State.event_raise_self _ pgRms _ (by decide)⟩
  · exact congrArg CtxSt.pass hctx
  · exact congrArg CtxSt.evalN hctx
  · exact congrArg CtxSt.evalFlags hctx
  · exact congrArg CtxSt.evalServe hctx
  · exact congrArg CtxSt.evalMetric hctx

/-! ### Weight sets (R334) -/

section
variable {s : State} {v : View}

theorem exec_wsetHash_of {k : Fin 8} (h : s.takes v = true) (hsees : viewSees s.gate.act v (s.wsetPart k.val) = true) :
    ∃ t, exec (.wsetHash v k) s = .next t ∧ t.rms.wsetBusy = (if s.rms.wsetBusy.isSome then s.rms.wsetBusy else some k.val) ∧
      SMap.get zeroUnlisted t.rms.wsetQ v.no = k.val := by
  refine ⟨_, congrArg Host.Outcome.next ((State.live_takes h _).trans ((State.commanded_of h _ _ _).trans (if_pos hsees))), ?_⟩
  dsimp only
  split <;> exact ⟨rfl, SMap.get_put_self zeroUnlisted s.rms.wsetQ v.no k.val⟩

theorem exec_wsetReport_of {k : Fin 8} (h : s.takes v = true) (hsees : viewSees s.gate.act v (s.wsetPart k.val) = true) :
    ∃ t, exec (.wsetReport v k) s = .next t ∧ SMap.get zeroUnlisted t.rms.wsetQ v.no = k.val :=
  ⟨_, congrArg Host.Outcome.next ((State.live_takes h _).trans ((State.commanded_of h _ _ _).trans (if_pos hsees))),
    SMap.get_put_self zeroUnlisted s.rms.wsetQ v.no k.val⟩

/-- A region that could be read leaves its hash with HASH_OK; one that could not leaves both as they were. -/
theorem exec_wsetDone_of {k : Nat} {r : Option (List Byte) × State} (hs : s.stopped = false) (hbusy : s.rms.wsetBusy = some k)
    (hr : r = s.dramRead none (dramBase + s.cfg pgRms (0x6A0 + 8 * k) 0 24 * 4096) (s.cfg pgRms (0x6A4 + 8 * k) 0 24 * 4096)) :
    ∃ t, exec .wsetDone s = .next t ∧ t.rms.wsetBusy = none ∧ t.event .pf pgRms 16 = true ∧
      (∀ d, r.1 = some d → SMap.get flagUnlisted t.rms.wsetOk k = true ∧
        SMap.get zeroUnlisted t.rms.wsetHash k = leNat (Config.sha256 d).reverse) ∧
      (r.1 = none → t.rms.wsetOk = r.2.rms.wsetOk ∧ t.rms.wsetHash = r.2.rms.wsetHash) := by
  refine ⟨_, congrArg Host.Outcome.next (State.live_of s _ hs), ?_⟩
  dsimp only
  rw [hbusy]
  dsimp only
  rw [← hr]
  refine ⟨rfl, State.event_raise_self _ pgRms _ (by decide), fun d hd => ?_, fun hnone => ?_⟩
  · rw [hd]
    exact ⟨SMap.get_put_self flagUnlisted r.2.rms.wsetOk k true, SMap.get_put_self zeroUnlisted r.2.rms.wsetHash k _⟩
  · rw [hnone]
    exact ⟨rfl, rfl⟩

/-! ### Capture (R336) -/

theorem exec_captureStart_of {n : Nat} (h : s.takes v = true) (hsees : viewSees s.gate.act v (s.partOf (s.cfg pgRms 0x6E0 24 6)) = true)
    (hidle : s.rms.capLeft = 0) (hn : n ≠ 0) : ∃ t, exec (.captureStart v n) s = .next t ∧ t.rms.capLeft = n ∧ t.rms.captured = 0 ∧
      t.rms.capOfs = 0 ∧ (4, 2 ^ s.partOf (s.cfg pgRms 0x6E0 24 6), s.cfg pgRms 0x6E0 24 6) ∈ t.sec.dbgOpen := by
  obtain ⟨u, hu⟩ : ∃ u : State, ({ s with rms := { s.rms with capLeft := n, captured := 0, capOfs := 0 } } : State) = u := ⟨_, rfl⟩
  have hexec : exec (.captureStart v n) s = .next (u.debugBegin 4 (2 ^ s.partOf (s.cfg pgRms 0x6E0 24 6)) (s.cfg pgRms 0x6E0 24 6)) := by
    subst hu
    exact congrArg Host.Outcome.next ((State.live_takes h _).trans ((State.commanded_of h _ _ _).trans ((if_pos hsees).trans
      ((if_pos hidle).trans (if_neg hn)))))
  have hrms : (u.debugBegin 4 (2 ^ s.partOf (s.cfg pgRms 0x6E0 24 6)) (s.cfg pgRms 0x6E0 24 6)).rms = u.rms :=
    Keeps.rms_eq (State.debugBegin_keeps (Keeps.refl _) : LeavesRms u _)
  refine ⟨_, hexec, ?_, ?_, ?_, (State.debugBegin_open _ _ _ _).1⟩
  all_goals rw [hrms, ← hu]

theorem exec_captureStop_of (h : s.takes v = true) (hsees : viewSees s.gate.act v (s.partOf (s.cfg pgRms 0x6E0 24 6)) = true)
    (hruns : s.rms.capLeft ≠ 0) : ∃ t, exec (.captureStop v) s = .next t ∧ t.rms.capLeft = 0 ∧ t.event .pf pgRms 19 = true := by
  refine ⟨_, congrArg Host.Outcome.next ((State.live_takes h _).trans ((State.commanded_of h _ _ _).trans ((if_pos hsees).trans
    (if_neg hruns)))), ?_, ?_⟩
  · rw [State.captureEnd, Keeps.rms_eq (State.debugEnd_keeps (Keeps.refl _) : LeavesRms _ _)]
    rfl
  · exact (State.Heard.debugEnd (State.Heard.refl _) _ _).2 _ _ _ (State.event_raise_self _ pgRms _ (by decide))

end

/-! ### Lockstep (R330, R331) -/

section
variable {s : State} (c : Ctx) (x : Nat) (hs : s.stopped = false) (hlock : s.locked c.val = true)
include hs hlock

/-- The mark is the second whole microsecond that follows. -/
theorem exec_lockstepMark_of (hnone : (s.ctx c.val).lockMark = none) (hfly : (s.flyingStep c.val).isSome = true) :
    ∃ t, exec (.lockstepMark c x) s = .next t ∧ (t.ctx c.val).lockMark = some ((max s.sdl.ref x / usRef + 2) * usRef) ∧
      (t.ctx c.val).lockEdge = 0 := by
  have hwaits : (s.advance x).locked c.val = true ∧ ((s.advance x).ctx c.val).lockMark = none ∧
      ((s.advance x).flyingStep c.val).isSome = true := by
    rw [State.advance_locked, State.advance_ctx, State.advance_flyingStep]
    exact ⟨hlock, hnone, hfly⟩
  refine ⟨_, congrArg Host.Outcome.next ((State.live_of s _ hs).trans (if_pos hwaits)), ?_⟩
  rw [State.ctx_modCtx_same, State.advance_ref]
  exact ⟨rfl, rfl⟩

/-- An edge at or after the mark is counted; where Plots slipped, the step is marked. -/
theorem exec_lockstepEdge_of (l : List Plot) {m : Nat} {y : StepSt} (hmark : (s.ctx c.val).lockMark = some m) (hm : m ≤ max s.sdl.ref x)
    (hfly : s.flyingStep c.val = some y) : ∃ t, exec (.lockstepEdge c l x) s = .next t ∧
      (t.ctx c.val).lockEdge = (s.ctx c.val).lockEdge + 1 ∧
      ((∃ p ∈ l, p.val ∈ planPlots y.plan) → t.event .pf pgRms 17 = true ∧
        (t.ctx c.val).steps = (s.ctx c.val).steps.map fun z => if z.n = y.n then { z with flags := Nat.lor z.flags 8 } else z) := by
  have hctx : (s.advance x).ctx c.val = s.ctx c.val := by rw [State.advance_ctx]
  have href := State.advance_ref s x
  have hmark' : ((s.advance x).ctx c.val).lockMark = some m := by rw [hctx, hmark]
  have hfly' : (s.advance x).flyingStep c.val = some y := by rw [State.advance_flyingStep, hfly]
  have hlock' : (s.advance x).locked c.val = true := by rw [State.advance_locked, hlock]
  refine ⟨_, congrArg Host.Outcome.next (State.live_of s _ hs), ?_⟩
  generalize s.advance x = u at hctx href hmark' hfly' hlock' ⊢
  dsimp only
  rw [hmark', hfly']
  dsimp only
  rw [if_pos ⟨hlock', href.symm ▸ hm⟩]
  have hedge := State.ctx_modCtx_same u c.val fun z => { z with lockEdge := z.lockEdge + 1 }
  generalize State.modCtx u c.val (fun z => { z with lockEdge := z.lockEdge + 1 }) = w at hedge ⊢
  split
  · next hnone =>
    refine ⟨by rw [hedge, hctx], fun ⟨p, hp, hplot⟩ => ?_⟩
    exact absurd (hnone ▸ List.mem_filter.2 ⟨hp, decide_eq_true hplot⟩) List.not_mem_nil
  · obtain ⟨z, hz⟩ : ∃ z : State, (w.bumpBy pgRms 0xC0 (some (u.partOf c.val)) (l.filter fun p => decide (p.val ∈ planPlots y.plan)).length).raise
      pgRms 17 (some (u.partOf c.val)) = z := ⟨_, rfl⟩
    have hzctx : z.ctx = w.ctx := by rw [← hz]; rfl
    have hevent : z.event .pf pgRms 17 = true := by
      rw [← hz]
      exact State.event_raise_self _ pgRms _ (by decide)
    rw [hz, State.modStep, State.ctx_modCtx_same, hzctx, hedge, hctx]
    exact ⟨rfl, fun _ => ⟨hevent, rfl⟩⟩

end

/-- Settles O51, command by command. -/
theorem stepsEndAndAreTracedCompletely : Obligations.StepsEndAndAreTracedCompletely := by
  refine ⟨fun c n l a b x s y hs hy hfly hlive hdone => exec_stepComplete_of c n l a b x hs hy hfly hlive hdone,
    fun c n a b k f x s y q ok hs hy hgh hfly heval hq hok => ?_,
    fun v k s h hsees => ⟨exec_wsetHash_of h hsees, exec_wsetReport_of h hsees⟩,
    fun s k r hs hbusy hr => exec_wsetDone_of hs hbusy hr,
    fun v n s h hsees => ⟨exec_captureStart_of h hsees, exec_captureStop_of h hsees⟩,
    fun c x s hs hlock hnone hfly => exec_lockstepMark_of c x hs hlock hnone hfly,
    fun c l x s m y hs hlock hmark hm hfly => exec_lockstepEdge_of c x hs hlock l hmark hm hfly⟩
  rw [hok]
  exact exec_evalRecord_of c n a b k f x hs hy hgh hfly heval hq

end Sys2Proof.Machine
end
